-- ==== Sys2Proof/Word.lean ====
section
/-! DEFINITION. The word types of the CK9-2048: control space is read and written in aligned 32-bit
words (R432), memories are addressed in bytes (R6). -/
namespace Sys2Proof

/-- One control-space word (R432). -/
abbrev Word := BitVec 32

/-- One byte of a memory or of a message. -/
abbrev Byte := BitVec 8

/-- A 64-bit quantity: a step counter, a seed, a time stamp, an event detail. -/
abbrev Quad := BitVec 64

end Sys2Proof
end

