-- ==== Sys2Proof/Syntax.lean ====
section
/-! DEFINITION. The commands that reach the CK9-2048, one constructor per row of spec/opcode_table.json.
Index operands have the ranges of R8, R201, R208, R362; what only the outside or the analog world decides
(a measured code, a stuck cell, a received frame) is an operand. -/
namespace Sys2Proof

/-- The access paths of control space (R432). -/
inductive Path where
  | pcie | mgmt | lkp
  deriving DecidableEq, Repr

/-- A core, 0 to 127 (R8). -/
abbrev CoreId := Fin 128
/-- A physical array slot, 0 to 16 (R8). -/
abbrev SlotId := Fin 17
/-- A logical array, 0 to 15 (R8). -/
abbrev LArr := Fin 16
/-- A service position of a pound (R214). -/
abbrev PosId := Fin 8
/-- A queue pair (R201). -/
abbrev QId := Fin 32768
/-- A stream context (R208). -/
abbrev CtxId := Fin 65536
/-- A model number (R223). -/
abbrev ModelId := Fin 65536
/-- A Sirin peer index (R362). -/
abbrev PeerId := Fin 256
/-- An Ethernet logical port (R358). -/
abbrev PortId := Fin 16
/-- A monitor converter, 4 for the I/O die's (R277). -/
abbrev MonId := Fin 5

/-- A BAR0 transaction (R432): a write of dwords with their byte enables, or a read of `n` dwords. On
the management and lockkeeper paths an access is one whole word. -/
inductive Bar0 where
  | write (dws : List (Word × BitVec 4))
  | read (n : Nat)
  deriving DecidableEq, Repr

/-- A BAR2 memory transaction (R381). -/
inductive MemOp where
  | write (bytes : List Byte)
  | read (n : Nat)
  deriving DecidableEq, Repr

/-- A cell found stuck: logical row, logical pair, true for the G+ cell (R43). -/
structure CellId where
  row : Nat
  pair : Nat
  plus : Bool
  deriving DecidableEq, Repr

/-- A field-test outcome on one array: its first failing pair, row and conversions (R315, R454). -/
structure FieldFail where
  larr : LArr
  pair : Nat
  row : Nat
  deriving DecidableEq, Repr

/-- The codes that an array's calibration conversions give (R260 to R263), per logical pair: the sums of the 256 null codes of each
window; the sums, over the couples of reference conversions, of the + code less the − code (two windows of 512 couples at
start-up, one session of 64 couples, `ref1`, in an opening calibration); and the codes of the 512 probes. -/
structure CalCodes where
  null1 : List Int
  null2 : List Int
  ref1 : List Int
  ref2 : List Int
  probes : List (List Int)
  deriving DecidableEq, Repr

/-- A memory that is scrubbed (R295): a controller's, a core's, the I/O die's, the lockkeeper's. -/
inductive ScrubMem where
  | dram (m : Fin 4)
  | sram (c : CoreId)
  | ioDie
  | lkp
  deriving DecidableEq, Repr

/-- An error a scrub meets: the line or word index, and whether it is correctable (R293). -/
structure ScrubFind where
  index : Nat
  correctable : Bool
  deriving DecidableEq, Repr

/-- A residue mismatch (R304): in an operation of unit `u` (R327) whose second execution matches, or mismatches
again; or in an accumulator word at rest. -/
inductive ResFault where
  | once (u : Fin 7)
  | twice (u : Fin 7)
  | atRest
  deriving DecidableEq, Repr

/-- The block an INGEST evaluates, and a residue outcome of the tender that works on it (R137). -/
structure IngestEval where
  block : Nat
  flt : Option ResFault
  deriving DecidableEq, Repr

/-- The service position of an ADAPT or ADAPT_UPD, and a residue outcome of a tender that works on it, with its core (R137). -/
structure AdaptAt where
  pos : PosId
  flt : Option (CoreId × ResFault)
  deriving DecidableEq, Repr

/-- A received frame without its FCS, and the codewords that FEC corrected, and could not correct, since the frame before (R361). -/
structure RxFrame where
  bytes : List Byte
  fixed : Nat
  lost : Nat
  deriving DecidableEq, Repr

/-- An SMBus transaction (R389). -/
inductive SmbusOp where
  | blockRead (cmd : Byte)
  | write (bytes : List Byte)
  deriving DecidableEq, Repr

/-- The commands of the block, one constructor per row of the opcode table. -/
inductive Instr where
  /-- REGISTER_WRITE (R10). A control-space write to a register with no row of its own acts on each field by its access
  class, including RWS shadow loads, W1C clears and RWL writes that are discarded while BUSY is 1. -/
  | registerWrite (path : Path) (addr : Word) (op : Bar0)
  /-- RWS_SHADOW_APPLY_IDLE (R11). While the core's wave engine is idle, or for a block outside every core window, a
  written RWS shadow becomes active within 1 µs. -/
  | rwsShadowApplyIdle (addr : Word)
  /-- COUNTER_LO_READ (R419). A read of a counter's LO word returns the low half and latches the HI half, separately for
  each access path. -/
  | counterLoRead (path : Path) (addr : Word)
  /-- TBS_TIME_LO_READ (R434). A read of TBS_TIME_LO returns the low time word and latches TBS_TIME_HI. -/
  | tbsTimeLoRead (path : Path)
  /-- CTR_WIN_LAST_LO_READ (R426). A read of CTR_WIN_LAST_LO latches LAST_HI, both PEAK words and CTR_WIN_IDX of the
  selected channel from one window end. -/
  | ctrWinLastLoRead (path : Path)
  /-- CONTROL_SPACE_REQUEST (R388). An authenticated management-port control-space request performs its words in order and
  replies with a status and, for a read, the data. -/
  | controlSpaceRequest (dgram : List Byte)
  /-- BAR2_ACCESS (R381). A BAR2 access reaches device memory at the window base, and completes with Unsupported Request
  beyond usable memory. -/
  | bar2Access (off : Nat) (op : MemOp)
  /-- ARR_PGM_GO (R47). A GO write starts a program job, queues it when 64 arrays are programming, or is discarded or
  refused according to the array state. -/
  | arrPgmGo (path : Path) (c : CoreId) (sl : SlotId)
  /-- ARR_PGM_ABORT (R47). An ABORT write removes a queued job, stops plane reading, or ends a running job PARTIAL after
  the current batch. -/
  | arrPgmAbort (path : Path) (c : CoreId) (sl : SlotId)
  /-- PGM_QUEUED_JOB_START (R44). The lockkeeper starts the oldest queued program job as soon as a running job ends. -/
  | pgmQueuedJobStart
  /-- PLANE_CHECK_DONE (R40). The reading and checking of a job's plane blocks ends, which either rejects the job or lets
  batch 0 start after its second read. -/
  | planeCheckDone (c : CoreId) (sl : SlotId)
  /-- PGM_BATCH_DONE (R43). A program batch of up to 16 pulse-and-verify iterations ends, and the next batch starts after
  the second read of its block, or the job moves to repair. -/
  | pgmBatchDone (c : CoreId) (sl : SlotId) (stuck : List CellId)
  /-- REPAIR_BATCH_DONE (R46). A repair batch ends, and at the last one the job ends READY with ARR_PGM_DONE or FAILED
  with ARR_REPAIR_EXHAUSTED. -/
  | repairBatchDone (c : CoreId) (sl : SlotId) (stuck : List CellId)
  /-- ARR_MAP_WRITE (R29). A write to a row or column remap entry is discarded when it would duplicate a valid LOGICAL number. -/
  | arrMapWrite (path : Path) (c : CoreId) (sl : SlotId) (col : Bool) (n : Fin 8) (v : Word)
  /-- ARR_TRIM_DATA_ACCESS (R60). An access to ARR_TRIM_DATA reads or writes the shadow mask entry of PAIR and advances
  PAIR when AUTO_INC is 1. -/
  | arrTrimDataAccess (path : Path) (c : CoreId) (sl : SlotId) (w : Option Word)
  /-- ARR_TRIM_SWAP (R34). A SWAP write schedules the exchange of the active and shadow trim mask tables. -/
  | arrTrimSwap (path : Path) (c : CoreId) (sl : SlotId)
  /-- ARR_TRIM_COPY (R60). A COPY write copies the active trim table into the shadow table before any SWAP of the same write. -/
  | arrTrimCopy (path : Path) (c : CoreId) (sl : SlotId) (swap : Bool)
  /-- TRIM_SWAP_TAKE_EFFECT (R34). The trim tables are exchanged between two conversions, at the next wave boundary with
  one idle wave period when SERVING, or within 1 µs otherwise. -/
  | trimSwapTakeEffect (c : CoreId) (sl : SlotId)
  /-- SCAN_BATCH (R57). The background scan margin-reads one batch at a steal opportunity, or freely when the array is not
  in service, and records weak cells. -/
  | scanBatch (c : CoreId) (sl : SlotId) (weak : Nat)
  /-- REFRESH_BATCH (R58). A weak batch is reprogrammed to its existing targets between two waves, or only in idle gaps on
  EXPRESS arrays. -/
  | refreshBatch (c : CoreId) (sl : SlotId)
  /-- REFRESH_DEFERRED_TIMEOUT (R59). A weak batch still unrefreshed 24 h after it was found raises ARR_REFRESH_DEFERRED. -/
  | refreshDeferredTimeout (c : CoreId) (sl : SlotId)
  /-- WAVE_SLOT (R62). The wave engine issues a slot that drives at most one wave, part, repeat, replay or calibration
  conversion on each serving array, giving EXPRESS waves the slots first at a group boundary. -/
  | waveSlot (c : CoreId)
  /-- GRID_POINT_WAIT_END (R77). A locked core waiting with GRID_WAIT starts its wave group at the next 200 ns grid point. -/
  | gridPointWaitEnd (c : CoreId)
  /-- WAVE_CONVERSION_DONE (R73). A conversion of a wave ends with its code, and a clip decides the next split level or saturation. -/
  | waveConversionDone (c : CoreId) (sl : SlotId)
  /-- CP_VERDICT (R297). The check unit forms the check-pair verdict on a wave, part or repeat, and on a failure sets up a
  repeat or classifies the fault. -/
  | cpVerdict (c : CoreId) (sl : SlotId)
  /-- REPLAY_VERDICT (R307). The replay comparison of a sampled wave against its spare-slot replay agrees, or decides
  which slot is at fault. -/
  | replayVerdict (c : CoreId)
  /-- ROTATION_ADVANCE (R305). After ROT_S seconds, the lockkeeper moves the spare to the next rotation target and reprograms it. -/
  | rotationAdvance (c : CoreId)
  /-- DRAIN_ACCUMULATE (R120). The drain shifts, combines and adds a wave's codes into the accumulator words after
  checking the tile claim. -/
  | drainAccumulate (c : CoreId) (l : LArr) (flt : Option ResFault)
  /-- DRAIN_ROW_COMPLETE (R122). A completed token row passes the range check, rescale, suffix chain and output stage, and
  completed output blocks are written. -/
  | drainRowComplete (c : CoreId) (p : CoreId) (pos : PosId) (idx : Nat) (row : Nat) (flt : Option ResFault)
  /-- RANGE_RESOLVE (R303). The tender computes the reference value or a recomputation for a failing element and either
  lets it stand or repeats the row. -/
  | rangeResolve (c : CoreId) (p : CoreId) (pos : PosId) (idx : Nat) (row : Nat)
  /-- EXCHANGE_SEGMENT (R185). A core receives another core's segment of an output row from the exchange. -/
  | exchangeSegment (dst : CoreId) (src : CoreId) (p : CoreId) (pos : PosId) (idx : Nat) (row : Nat)
  /-- PASS_START (R188). Once the previous pass has left the chain, a pass claims its accumulator footprint and clears INIT. -/
  | passStart (c : CoreId) (p : CoreId) (pos : PosId) (idx : Nat)
  /-- INGEST_BLOCK_EVALUATE (R103). The ingest stage evaluates a written activation block against the scale guard before
  it releases the block. -/
  | ingestBlockEvaluate (c : CoreId) (p : CoreId) (pos : PosId) (idx : Nat) (blk : IngestEval)
  /-- DRN_CHAIN_DATA_LO_WRITE (R125). A write to DRN_CHAIN_DATA_LO loads the holding register and changes no stage word. -/
  | drnChainDataLoWrite (path : Path) (c : CoreId) (v : Word)
  /-- DRN_CHAIN_DATA_HI_WRITE (R125). A write to DRN_CHAIN_DATA_HI stores the holding register and HI as the addressed stage word. -/
  | drnChainDataHiWrite (path : Path) (c : CoreId) (v : Word)
  /-- DRN_NLT_DATA_ACCESS (R129). An access to DRN_NLT_DATA reads or writes a NONLIN table word, discards writes to fixed
  functions, and advances INDEX when AUTO_INC is 1. -/
  | drnNltDataAccess (path : Path) (c : CoreId) (w : Option Word)
  /-- TENDER_RESTART (R135). A RESTART reloads the tender from LOADING, ending its entries when it was RUNNING. -/
  | tenderRestart (path : Path) (c : CoreId)
  /-- TENDER_LOAD_DONE (R135). Loading ends, and the tender becomes RUNNING when the digest verifies or FAULT with cause 0x4. -/
  | tenderLoadDone (c : CoreId)
  /-- TENDER_WDOG_TIMEOUT (R135). No heartbeat for TIMEOUT puts the tender in FAULT with cause 0x1. -/
  | tenderWdogTimeout (c : CoreId)
  /-- TENDER_FW_FAULT (R135). A fault reported by the firmware, or an uncorrectable scratch error, puts the tender in FAULT. -/
  | tenderFwFault (c : CoreId) (scratch : Bool)
  /-- TENDER_HEARTBEAT_TICK (R148). Each millisecond of the time base while RUNNING advances TND_HEARTBEAT. -/
  | tenderHeartbeatTick (c : CoreId)
  /-- TENDER_YIELD (R215). A tender working for non-EXPRESS work yields to EXPRESS work within 0.25 µs and keeps its partial sums. -/
  | tenderYield (c : CoreId)
  /-- HALO_TRANSFER (R140). An arriving halo transfer is refused, or its blocks are written and the link sequence number advances. -/
  | haloTransfer (c : CoreId) (right : Bool)
  /-- HALO_TIMEOUT (R142). After 100 µs with no block accepted, the sender abandons the transfer. -/
  | haloTimeout (c : CoreId) (right : Bool)
  /-- SPARE_COMMIT (R145). A COMMIT is refused with a cause, or becomes pending until its boundary. -/
  | spareCommit (path : Path) (c : CoreId)
  /-- SPARE_SUBSTITUTION_EFFECT (R146). At the boundary after split sequences end, the spare replaces the old slot, and
  any quarantine ends. -/
  | spareSubstitutionEffect (c : CoreId)
  /-- SPARE_RELEASE (R147). A RELEASE makes the retired slot the spare, or is refused with cause 0x7. -/
  | spareRelease (path : Path) (c : CoreId)
  /-- NOP (R163). A NOP entry issues and completes OK. -/
  | nop (p : CoreId) (pos : PosId)
  /-- MATMUL (R168). A MATMUL entry is validated, tiled and run, on waves when subjunctive or on the reference path when indicative. -/
  | matmul (p : CoreId) (pos : PosId)
  /-- DMATMUL (R169). A DMATMUL entry multiplies a digital-tier weight tensor on the tenders. -/
  | dmatmul (p : CoreId) (pos : PosId)
  /-- DYNMUL (R169). A DYNMUL entry forms the product of two dynamic operands on the tenders. -/
  | dynmul (p : CoreId) (pos : PosId)
  /-- ADAPT (R247). An ADAPT entry applies the stream's adapter and marks each output block complete. -/
  | adapt (p : CoreId) (pos : AdaptAt)
  /-- ADAPT_UPD (R343). An ADAPT_UPD entry computes a gradient step and replaces the adapter when the entry completes. -/
  | adaptUpd (p : CoreId) (pos : AdaptAt)
  /-- INGEST (R101). An INGEST entry quantises FP32 or BF16 values into activation codes and writes the scale lane. -/
  | ingest (p : CoreId) (pos : PosId)
  /-- ELTWISE (R164). An ELTWISE entry runs the suffix chain over a stored tensor. -/
  | eltwise (p : CoreId) (pos : PosId)
  /-- COPY_IN (R290). A COPY_IN entry copies blocks with their manifests from memory into the activation buffer. -/
  | copyIn (p : CoreId) (pos : PosId)
  /-- COPY_OUT (R290). A COPY_OUT entry copies activation blocks with their manifests to memory. -/
  | copyOut (p : CoreId) (pos : PosId)
  /-- FORWARD (R171). A FORWARD entry copies blocks to a destination core and places a request in that pound's basin. -/
  | forward (p : CoreId) (pos : PosId)
  /-- HALO_SEND (R140). A HALO_SEND entry sends activation blocks over a halo link to a neighbouring core. -/
  | haloSend (p : CoreId) (pos : PosId)
  /-- HALO_WAIT (R172). A HALO_WAIT entry completes when the link's sequence number reaches the target. -/
  | haloWait (p : CoreId) (pos : PosId)
  /-- HALO_WAIT_TIMEOUT (R172). A HALO_WAIT still unmet after N µs ends its entry with HALO, cause 0x3. -/
  | haloWaitTimeout (p : CoreId) (pos : PosId) (idx : Nat)
  /-- FIELD_TEST (R315). A FIELD_TEST entry starts the test phases on the named arrays. -/
  | fieldTest (p : CoreId) (pos : PosId)
  /-- FIELD_TEST_PHASE_DONE (R315). A field-test phase ends, and its outcome is judged, repeated on a failure, or reported
  in FIELD_TEST_DONE. -/
  | fieldTestPhaseDone (c : CoreId) (fails : List FieldFail)
  /-- SIGNAL (R173). A SIGNAL entry writes SEED to ADDR and, when the link is up, sends an MSI-X vector. -/
  | signal (p : CoreId) (pos : PosId)
  /-- ADAPTER_ADD_RESUME (R292). An ADAPTER_ADD stage waiting on PEND resumes when the block's manifest is written, or
  ends with DEPENDENCY on the failure mark. -/
  | adapterAddResume (c : CoreId) (p : CoreId) (pos : PosId) (idx : Nat) (row : Nat)
  /-- ENTRY_COMPLETE (R178). An entry ends: its completion record is written, and at a request's end streams advance,
  checkpoints and samples are written, and egress FORWARD_REQ is sent. -/
  | entryComplete (p : CoreId) (pos : PosId) (idx : Nat)
  /-- QUE_DB_SQ_TAIL_WRITE (R202). A submission tail doorbell makes a batch of submissions visible, or is discarded for a
  remote or disabled queue. -/
  | queDbSqTailWrite (path : Path) (q : QId) (v : Word)
  /-- QUE_DB_CQ_HEAD_WRITE (R202). A completion head doorbell frees ring space for held records and waiting entries. -/
  | queDbCqHeadWrite (path : Path) (q : QId) (v : Word)
  /-- SUBMISSION_READ (R213). The device reads a submission and its route record into a free basin position, or answers it
  with an error record. -/
  | submissionRead
  /-- POUND_TAKE (R214). When a service position frees, the pound takes the next request by class, binding it to a version where due. -/
  | poundTake (p : CoreId)
  /-- QUEUE_STALL_RESUME (R205). A queue stalled by an unreadable or unwritable ring resumes once the access succeeds. -/
  | queueStallResume (q : QId)
  /-- CREATE (R206). CREATE reads the descriptor and enables the queue, or refuses with a RESULT. -/
  | create (path : Path) (q : QId)
  /-- QUEUE_RESET (R207). RESET puts the queue in DRAINING and aborts its requests. -/
  | queueReset (path : Path) (q : QId)
  /-- DESTROY (R207). DESTROY puts the queue in DRAINING and aborts its requests. -/
  | destroy (path : Path) (q : QId)
  /-- QUEUE_DRAIN_DONE (R206). When the last abort record is written, the queue returns to ENABLED or DISABLED and raises
  QUEUE_RESET_DONE. -/
  | queueDrainDone (q : QId)
  /-- BIND (R209). BIND binds a free context to a pack, zeroes its state blocks and allocates an adapter, or refuses. -/
  | bindCtx (path : Path)
  /-- LOOKUP (R210). LOOKUP returns the index of a pack's context, or not found. -/
  | lookup (path : Path)
  /-- RETIRE (R209). RETIRE moves a BOUND context to RETIRING. -/
  | retire (path : Path) (ctx : CtxId) (reason : Fin 4)
  /-- STREAM_RETIRE_COMPLETE (R209). When INFLIGHT reaches 0, the context is checkpointed, its adapter is evicted, and it
  becomes RETIRED. -/
  | streamRetireComplete (ctx : CtxId)
  /-- STREAM_RELEASE (R209). RELEASE frees a RETIRED context. -/
  | streamRelease (path : Path) (ctx : CtxId)
  /-- RECEIVE (R231). RECEIVE arms the device to receive an image for the selected model. -/
  | receive (path : Path)
  /-- VERIFY (R228). VERIFY checks a staged image and sets the staging state to STAGED or BAD. -/
  | verify (path : Path)
  /-- INSTALL (R234). INSTALL starts programming a staged image into the arrays of an absent model. -/
  | install (path : Path)
  /-- LOCK (R238). LOCK starts replacing a model's version pound by pound, or by twin copy. -/
  | lock (path : Path) (hold : Bool)
  /-- LOAD_SET (R251). LOAD_SET runs a lock that loads a reload set. -/
  | loadSet (path : Path) (set : Fin 16)
  /-- RETRY (R243). RETRY restarts failed jobs of stalled pounds, or resumes an INCOMPLETE lock. -/
  | retry (path : Path)
  /-- DISCARD (R235). DISCARD removes a model, aborting its waiting requests and releasing its reference copies. -/
  | discard (path : Path)
  /-- RELEASE_HOLD (R241). RELEASE_HOLD clears the cross-device HOLD of a lock. -/
  | releaseHold (path : Path)
  /-- RESTAGE_REF (R230). RESTAGE_REF restores the reference copy from a re-staged image whose digest matches. -/
  | restageRef (path : Path)
  /-- SEND (R232). SEND transmits the staged image from a block offset along the chain. -/
  | sendImg (path : Path)
  /-- LOCK_POUND_DRAINED (R238). Once no request of the old version can reach a closing pound, it opens at once or starts filling. -/
  | lockPoundDrained (model : ModelId) (p : CoreId)
  /-- OPENING_CALIBRATION_DONE (R263). Opening calibration of an array or pound ends, and on a pass the arrays are placed
  in service and the model and pound states advance. -/
  | openingCalibrationDone (c : CoreId) (sl : SlotId) (m : CalCodes)
  /-- ADP_FETCH_TIMEOUT (R248). An adapter fetch that does not complete within FETCH_TO ends the entry with ADAPTER_MISS. -/
  | adpFetchTimeout (ctx : CtxId)
  /-- ADP_DATA (R248). A received ADP_DATA message fills the adapter slot, or reports the adapter not found. -/
  | adpData (peer : PeerId)
  /-- ADP_WRITE_ACK (R249). A write-back acknowledgement frees the evicted adapter's slot. -/
  | adpWriteAck (peer : PeerId)
  /-- ADP_USE_DECAY (R249). Every DECAY seconds, every adapter slot's use count is halved. -/
  | adpUseDecay
  /-- GAIN_TEMPERATURE_UPDATE (R265). Every 1 ms the device recomputes gains from the core temperatures and drift, within
  a per-update limit. -/
  | gainTemperatureUpdate (c : CoreId)
  /-- DRIFT_TRACKING_SESSION (R265). Every DRIFT_S seconds, a reference-read session updates each array's drift factor. -/
  | driftTrackingSession (c : CoreId) (sl : SlotId) (refs : List Int)
  /-- CAL_WINDOW_CLOSE (R267). A traffic window closes when every pair reaches N_W samples, and estimates are formed or
  the calibration is accepted or rejected. -/
  | calWindowClose (c : CoreId) (set : Fin 16)
  /-- CAL_WINDOW_TIMEOUT (R267). A window open for 600 s is discarded with CAL_STARVED. -/
  | calWindowTimeout (c : CoreId) (set : Fin 16)
  /-- CAL_SWITCH_SLOT (R273). A pending boundary-class correction takes effect at its switch slot. -/
  | calSwitchSlot (c : CoreId) (set : Fin 16)
  /-- CAL_RAMP_STEP (R274). Every GRAD_US, a gradual correction applies its next step. -/
  | calRampStep (c : CoreId) (set : Fin 16)
  /-- CAL_OPEN (R263). COR_CAL_CMD.OPEN runs opening calibration on a physical slot. -/
  | calOpen (path : Path) (c : CoreId) (sl : SlotId)
  /-- CAL_RESTART (R271). COR_CAL_CMD.RESTART discards the windows of the selected set. -/
  | calRestart (path : Path) (c : CoreId)
  /-- COR_CAL_GAIN_DATA_READ (R283). A read of COR_CAL_GAIN_DATA returns the gain words and advances COL when AUTO_INC is 1. -/
  | corCalGainDataRead (path : Path) (c : CoreId)
  /-- MON_START (R278). A START in main-path mode converts channel CH, waiting for a conversion in progress. -/
  | monStart (path : Path) (mc : MonId) (ch : Fin 64)
  /-- MON_CONVERSION_DONE (R277). A monitor conversion ends, its result is stored, comparators are evaluated, and the next
  sequence entry starts. -/
  | monConversionDone (mc : MonId) (code : Fin 4096)
  /-- MON_MODE_WRITE (R279). A MON_CTRL write changes the converter mode when the conversion in progress ends. -/
  | monModeWrite (path : Path) (mc : MonId) (v : Word)
  /-- MON_FALLBACK_TIMEOUT (R279). FB_TIMEOUT µs without a START switches the converter to sequence mode. -/
  | monFallbackTimeout (mc : MonId)
  /-- MON_TRIGGER (R280). A TRIGGER write, or an external trigger, runs the injected sequence after the conversion in progress. -/
  | monTrigger (mc : MonId)
  /-- MON_STALE (R282). A core temperature older than 10 ms makes calibration use a die-corner reading. -/
  | monStale (c : CoreId)
  /-- ROLLBACK (R320). ROLLBACK restores a context from its newest checkpoint at or below the target step. -/
  | rollback (path : Path) (ctx : CtxId)
  /-- RETEST_CORE (R313). RETEST_CORE starts the self test of a failed core. -/
  | retestCore (path : Path) (c : CoreId)
  /-- CORE_SELF_TEST_DONE (R313). The self test ends, and a pass returns the core to service. -/
  | coreSelfTestDone (c : CoreId) (pass : Bool)
  /-- MEM_SCRUB_PASS (R295). The scrubbers read and correct device memory and core SRAM at their periods. -/
  | memScrubPass (mem : ScrubMem) (finds : List ScrubFind)
  /-- EVENT_DATAGRAM_SEND (R324). An event datagram leaves when 44 records wait or 100 µs after the oldest was raised. -/
  | eventDatagramSend
  /-- JOIN (R348). JOIN starts forming or joining a replica group. -/
  | join (path : Path)
  /-- LEAVE (R348). The LEAVE command returns this member to IDLE and notifies the others. -/
  | leave (path : Path)
  /-- EXPEL (R348). The operator EXPEL command removes a member from the group. -/
  | expel (path : Path) (m : Fin 8)
  /-- ROUND_CLOSE (R349). A round closes when its group steps complete, and the member drives its probes and sends its tally. -/
  | roundClose
  /-- TALLY (R353). A received tally is held, and with every member's tally the verdict is formed. -/
  | tally (peer : PeerId)
  /-- TALLY_TIMEOUT (R353). TALLY_TO ms after its own tally, the member forms the verdict from the tallies it holds. -/
  | tallyTimeout
  /-- GROUP_HELLO (R348). A received HELLO moves a forming member to MEMBER, or reports a configuration mismatch. -/
  | groupHello (peer : PeerId)
  /-- EXPEL_MESSAGE (R348). A received EXPEL message counts toward a member's expulsion. -/
  | expelMessage (peer : PeerId)
  /-- LEAVE_MESSAGE (R348). A received LEAVE message removes the sender from the membership. -/
  | leaveMessage (peer : PeerId)
  /-- SYNC_CTX (R348). A received context synchronisation is stored, and the last one makes the syncing member join. -/
  | syncCtx (peer : PeerId)
  /-- RX_FRAME (R360). A received Ethernet frame is accepted, answered (ARP, ND, ICMP) or dropped. `fixed` and `lost` are the codewords
  of the port that FEC corrected, and could not correct, since the frame before (R361, R421). -/
  | rxFrame (port : PortId) (frame : RxFrame)
  /-- ETH_LINK_UP (R361). A logical port comes up after negotiation and training. -/
  | ethLinkUp (port : PortId)
  /-- ETH_LINK_DOWN (R361). A logical port goes down, and its queued Sirin packets wait. -/
  | ethLinkDown (port : PortId)
  /-- OPEN (R370). A received Sirin OPEN records the peer's epoch, answers OPEN_ACK, and resets channels on a new epoch. -/
  | openMsg (peer : PeerId)
  /-- OPEN_ACK (R370). A received OPEN_ACK makes an opening or unreachable peer OPEN. -/
  | openAck (peer : PeerId)
  /-- ACK (R368). A received ACK message releases acknowledged packets and may trigger a fast retransmission. -/
  | ackMsg (peer : PeerId)
  /-- CLOSE (R370). A received CLOSE closes the peer and fails its pending messages. -/
  | closeMsg (peer : PeerId)
  /-- SUBMIT (R372). A received SUBMIT appends a batch to a queue's ring, or is refused. -/
  | submit (peer : PeerId)
  /-- FORWARD_REQ (R374). A received FORWARD_REQ writes its blocks and enters a templated request into the ingress pound's
  basin, or is refused. -/
  | forwardReq (peer : PeerId)
  /-- REFUSE (R375). A received REFUSE raises SRN_REFUSED. -/
  | refuse (peer : PeerId)
  /-- IMG_SEGMENT (R231). A received image segment is written, forwarded and verified by section. -/
  | imgSegment (peer : PeerId)
  /-- SIRIN_ACK_TIMER (R368). 5 µs after the first unacknowledged packet, an ACK is sent. -/
  | sirinAckTimer (peer : PeerId)
  /-- SIRIN_RETX_TIMEOUT (R369). An expired packet timer retransmits the packet, and RETRY_MAX makes the peer UNREACHABLE. -/
  | sirinRetxTimeout (peer : PeerId) (ch : Fin 2)
  /-- SIRIN_OPEN_RETRY (R370). OPEN is resent every 1 ms while opening and every 10 ms while unreachable. -/
  | sirinOpenRetry (peer : PeerId)
  /-- SIRIN_OPEN_TIMEOUT (R370). 100 ms without an answer makes an opening peer UNREACHABLE. -/
  | sirinOpenTimeout (peer : PeerId)
  /-- RELOAD (R362). RELOAD reads the Sirin table from device memory. -/
  | reload (path : Path)
  /-- OPEN_COMMAND (R370). The OPEN command starts opening a peer connection. -/
  | openCommand (path : Path) (peer : PeerId)
  /-- CLOSE_COMMAND (R370). The CLOSE command closes a peer connection and sends CLOSE. -/
  | closeCommand (path : Path) (peer : PeerId)
  /-- PTP_SYNC (R379). A received Sync updates the time value and may make PTP SYNCED. -/
  | ptpSync (offset : Int) (port : PortId)
  /-- PTP_SYNC_TIMEOUT (R379). 3 s without a Sync makes PTP LOST. -/
  | ptpSyncTimeout
  /-- TBS_CFG_WRITE (R378). A write to TBS_CFG reconfigures PTP and restarts it in ACQUIRING. -/
  | tbsCfgWrite (path : Path) (v : Word)
  /-- TB_UNLOCKED (R70). Loss of TB_REF unlocks the PLL, and the device enters holdover. -/
  | tbUnlocked
  /-- TB_LOCKED (R418). TB_REF stable for 10 ms relocks the time base. -/
  | tbLocked
  /-- PCI_LINK_DOWN (R382). Link down, hot reset or FLR resets configuration space and the MSI-X table only. -/
  | pciLinkDown (cause : Fin 3)
  /-- PCI_LINK_UP (R382). The PCIe link comes up, and stalled queues resume once bus mastering is enabled. -/
  | pciLinkUp (gen : Fin 6) (width : Fin 16)
  /-- QUOTE (R416). A quote request is answered with a signed attestation quote. -/
  | quote (dgram : List Byte)
  /-- CHAIN (R415). A chain request is answered with the certificate chain. -/
  | chain (dgram : List Byte)
  /-- SMBUS_BLOCK_READ (R389). A Block Read of command 0x00 returns 32 bytes of status, and writes are NACKed. -/
  | smbusBlockRead (op : SmbusOp)
  /-- BYPASS (R389). The JTAG BYPASS instruction selects the bypass register. -/
  | bypass
  /-- IDCODE (R389). The JTAG IDCODE instruction reads the identification code. -/
  | idcode
  /-- SAMPLE_PRELOAD (R389). The JTAG SAMPLE/PRELOAD instruction samples or preloads the boundary register. -/
  | samplePreload (bits : List Bool)
  /-- EXTEST (R389). The JTAG EXTEST instruction drives boundary pins, only while the device is in reset. -/
  | extest
  /-- CLAMP (R389). The JTAG CLAMP instruction holds the pins, only while the device is in reset. -/
  | clamp
  /-- HIGHZ (R389). The JTAG HIGHZ instruction floats the pins, only while the device is in reset. -/
  | highz
  /-- EXTEST_PULSE (R389). The IEEE 1149.6 EXTEST_PULSE instruction is applied on the SerDes and PCIe lanes while the device is in reset. -/
  | extestPulse
  /-- EXTEST_TRAIN (R389). The IEEE 1149.6 EXTEST_TRAIN instruction is applied on the SerDes and PCIe lanes while the device is in reset. -/
  | extestTrain
  /-- RESET_RELEASE (R395). RESET_N release starts the lockkeeper from ROM and the start-up sequence. -/
  | resetRelease
  /-- BOOT_CONTAINER_VERIFY (R398). A firmware bundle or configuration image read from flash is verified, falling back to
  bank B or to BOOT_FAILED. -/
  | bootContainerVerify (cfg : Bool) (bankB : Bool)
  /-- MEM_TRAINING_DONE (R383). Memory training of the four controllers ends, passing or failing. -/
  | memTrainingDone (m : Fin 4) (ok : Bool) (rate : Fin 4) (raw : Fin 16) (typ : Bool)
  /-- RECORD_RECALL_DONE (R410). Recall of the record store ends, selecting each page's slot and reporting ties and lost pages. -/
  | recordRecallDone
  /-- STARTUP_MARGIN_CHECK (R56). Start-up margin-reads sampled batches of every READY or SERVING array and runs a full
  scan and refresh where needed. -/
  | startupMarginCheck (c : CoreId) (sl : SlotId) (weak : Nat)
  /-- STARTUP_CALIBRATION (R262). Start-up calibration sets trim, provisional gains and drift per array, retrying once on disagreement. -/
  | startupCalibration (c : CoreId) (sl : SlotId) (m : CalCodes)
  /-- DEVICE_READY (R396). When start-up is done, the hold-up store is charged and the ports are up, the device becomes READY. -/
  | deviceReady
  /-- DEVICE_READY_TIMEOUT (R396). 3,000 ms after reset release, the device becomes READY with down ports reported. -/
  | deviceReadyTimeout
  /-- BOOT_COMMIT (R402). BOOT_CMD.COMMIT enrols the owner hash, raises the floors and applies NEXT_OWNER. -/
  | bootCommit (path : Path)
  /-- IDLE (R403). PWR_CMD.IDLE stops issue and, when entries end, stops the engines and lowers VDD_CORE. -/
  | idle (path : Path)
  /-- WAKE (R403). WAKE, a doorbell or a SUBMIT returns the device from IDLE to READY and raises VDD_CORE. -/
  | wake (path : Path)
  /-- WAKE_CALIBRATION (R403). 1.2 ms after wake, start-up calibration runs and issue resumes. -/
  | wakeCalibration (ms : List (Nat × CalCodes))
  /-- HALT_RECOVERY (R403). Temperatures below T_CRIT − 10 °C for 100 ms return the device to its previous state. -/
  | haltRecovery
  /-- THROTTLE_LEVEL_TICK (R404). Each millisecond or 10 ms, the thermal and power throttle levels rise or fall. -/
  | throttleLevelTick (power : Bool)
  /-- POWER_FAIL (R406). PWR_FAIL_N, or a PFAIL comparator, ends pulses and slots and stores the record pages on hold-up. -/
  | powerFail
  /-- HOLDUP_EXHAUSTED (R407). The hold-up store reaching 6.0 V during a store tears the page being written and stops further stores. -/
  | holdupExhausted
  /-- POWER_RESTORE (R403). PWR_FAIL_N released for 10 ms with supplies in range restarts start-up. -/
  | powerRestore
  /-- STORE (R411). REC_CMD.STORE stores every dirty page. -/
  | store (path : Path)
  /-- REC_AUTO_STORE (R411). Every AUTO_S seconds, dirty pages are stored. -/
  | recAutoStore
  /-- REC_MARGIN_READ (R412). After recall and every 24 h, both slots of every page are margin-read, and weak pages are stored again. -/
  | recMarginRead (weak : List Nat)
  /-- UNLOCK_READ (R414). UNLOCK_READ grants read access with the right password, or counts a failure. -/
  | unlockRead (path : Path)
  /-- UNLOCK_WRITE (R414). UNLOCK_WRITE grants write access with the right password, or counts a failure. -/
  | unlockWrite (path : Path)
  /-- RELOCK (R414). RELOCK withdraws both accesses. -/
  | relock (path : Path)
  /-- SET_READ_PW (R414). SET_READ_PW stores the digest of REC_PW as the read password. -/
  | setReadPw (path : Path)
  /-- SET_WRITE_PW (R414). SET_WRITE_PW stores the digest of REC_PW as the write password. -/
  | setWritePw (path : Path)
  /-- REC_DATA_ACCESS (R414). An access to REC_DATA reads or writes a store word subject to recall and access rights, and
  advances WORD when AUTO_INC is 1. -/
  | recDataAccess (path : Path) (w : Option Word)
  /-- PERIODIC_SWEEP (R423). At each multiple of PERIOD_US, a counter sweep starts, or LATE counts a missed start. -/
  | periodicSweep
  /-- SWEEP_START (R423). CTR_SWEEP_CMD.START starts a sweep at once. -/
  | sweepStart (path : Path)
  /-- SWEEP_DONE (R425). A sweep ends, writes its SEQ and updates the lifetime totals. -/
  | sweepDone
  /-- WINDOW_END (R426). At each window end, every channel copies its count to LAST, updates PEAK and restarts. -/
  | windowEnd
  /-- CTR_WIN_CFG_WRITE (R426). A write to CTR_WIN_CFG discards the windows in progress and restarts counting at the next multiple. -/
  | ctrWinCfgWrite (path : Path) (v : Word)
  /-- CLEAR_PEAK (R429). CLEAR_PEAK sets PEAK of the selected channel to 0. -/
  | clearPeak (path : Path)
  /-- SMP_IDX_WRITE (R428). A write of SMP_IDX latches a sample into the window and releases older samples. -/
  | smpIdxWrite (path : Path) (c : CoreId) (v : Word)
  /-- RESET_ASSERTED (R389). RESET_N driven low holds the device in reset, which ends BOOT_FAILED and any other state
  until the next release and makes the JTAG EXTEST, CLAMP, HIGHZ and IEEE 1149.6 instructions effective. -/
  | resetAsserted
  /-- REC_STORE_DONE (R411). A commanded or periodic record-store store finishes its last page, clears REC_STATUS.BUSY and
  raises REC_STORE_DONE. -/
  | recStoreDone (bad : List Nat)
  deriving DecidableEq, Repr

end Sys2Proof
end

