-- ==== Sys2Proof/Decode.lean ====
section
/-! DEFINITION. The opcode table gives no row any bits: commands reach this block as register accesses,
messages and events, so no word spells one. -/
namespace Sys2Proof

/-- The command a table word spells: none, since every row of spec/opcode_table.json has no fields. -/
def decodeTableWord (nbits w : Nat) : Option Instr :=
  match nbits, w with
  | _, _ => none

end Sys2Proof
end

