-- ==== Sys2Proof/Config.lean ====
section
/-! DEFINITION. What the spec leaves open, as constants with no body: nothing in Lean can evaluate
them, so a claim holds whatever the hardware does there. Each has a row in notes/assumptions. -/
namespace Sys2Proof.Config

/-- The conversion error `n` of R73, in 1/4,096 of a converter step, for the k-th conversion of the
run (`k` is the model's free-value counter). Assumption 4. -/
opaque convNoise : Nat → Int

/-- The residual column offset of R71 of a physical pair, in 1/1,024 of a drive-weight unit, given the array, the pair,
the corrections made so far, the core's temperature and the hours of operation: it is the same in every conversion and
changes only with these. Assumption 4. -/
opaque residualOffset : Nat → Nat → Nat → Int → Nat → Int

/-- The mean conversion time that WAV_PERIOD reports, given the core and its slot number. Assumption 7. -/
opaque convTime : Nat → Nat → Nat

/-- The differential conductance, in 1/1,024 of a level step, of a cell pair whose contents the spec
does not define: never programmed, or in the batch a power failure cut short (R50). Assumption 5. -/
opaque openCell : Nat → Nat → Nat → Int

/-- The sign and payload bits of a quiet NaN that an arithmetic stage produces (IEEE 754 leaves them
open). The second operand tells the producing operation's operands apart. Assumption 6. -/
opaque nanBits : Nat → Nat → BitVec 32

/-- What a read the spec gives no value returns, and every other value the spec leaves open, the k-th
of the run. Assumption 7. -/
opaque freeValue : Nat → Nat

/-- Signature verification under ECDSA P-256 (R398): public key, message digest, the 64 signature
bytes. Assumption 8. -/
opaque sigValid : List Byte → List Byte → List Byte → Bool

/-- A signature under the device's identity key, which never leaves the identity store (R415, R416):
message digest. Assumption 8. -/
opaque deviceSign : List Byte → List Byte

/-- The device's certificate chain, stored at manufacture (R415). Assumption 8. -/
opaque certChain : List Byte

/-- The four vendor key hashes in the lockkeeper's ROM (R398). Assumption 8. -/
opaque vendorHash : Nat → List Byte

/-- Fields of the IP headers the device sends that the spec leaves open: hop limit (0), IPv4
identification (1) and flags (2). Assumption 11. -/
opaque ipField : Nat → Nat

/-- The manufacturer identity, bits 11:1 of the JTAG identification code (R389). Assumption 11. -/
opaque jtagMaker : Nat

/-- The return hysteresis the lockkeeper programs into its comparators, which the spec does not state
(R281, R404). Assumption 11. -/
opaque monHyst : Nat

end Sys2Proof.Config
end

