-- ==== Sys2Proof/Machine/NMap.lean ====
section
/-! DEFINITION. Sparse tables: a list of (key, value) pairs in one canonical form, keys strictly
rising, no entry equal to what an unlisted key reads as. Every memory, register file and table of the
machine is one of these. -/
namespace Sys2Proof

/-- A sparse table by key. -/
abbrev NMap (α : Type) := List (Nat × α)

namespace NMap
variable {α : Type}

/-- The entry listed for a key. -/
def find? : NMap α → Nat → Option α
  | [], _ => none
  | (k, v) :: m, i => if i = k then some v else if i < k then none else find? m i

/-- The value at a key, `d` where none is listed. -/
def get (d : α) (m : NMap α) (i : Nat) : α := (find? m i).getD d

/-- The table without an entry for the key. -/
def erase : NMap α → Nat → NMap α
  | [], _ => []
  | (k, v) :: m, i => if i = k then m else if i < k then (k, v) :: m else (k, v) :: erase m i

/-- The table with the key's entry set. -/
def insert : NMap α → Nat → α → NMap α
  | [], i, x => [(i, x)]
  | (k, v) :: m, i, x =>
    if i = k then (i, x) :: m
    else if i < k then (i, x) :: (k, v) :: m
    else (k, v) :: insert m i x

/-- Write a value; writing what an unlisted key reads as removes the entry. -/
def set [DecidableEq α] (d : α) (m : NMap α) (i : Nat) (x : α) : NMap α :=
  if x = d then erase m i else insert m i x

/-- Every key of the table lies above `b`. -/
def above (b : Nat) (m : NMap α) : Bool := m.all (fun e => b < e.1)

/-- The keys rise strictly. -/
def sorted : NMap α → Bool
  | [] => true
  | e :: m => above e.1 m && sorted m

/-- The canonical form: keys strictly rising, no entry equal to its key's default. -/
def wf [DecidableEq α] (d : Nat → α) (m : NMap α) : Bool :=
  sorted m && m.all (fun e => decide (e.2 ≠ d e.1))

end NMap

/-- Put an item into a sorted list, before the first one that it may precede. -/
def sortInsert {α : Type} (le : α → α → Bool) (x : α) : List α → List α
  | [] => [x]
  | y :: ys => if le x y then x :: y :: ys else y :: sortInsert le x ys

/-- A list in rising order; items that `le` does not tell apart keep their order. -/
def sortBy {α : Type} (xs : List α) (le : α → α → Bool) : List α := xs.foldr (sortInsert le) []

end Sys2Proof
end

