-- ==== Sys2Proof/Machine/NetTypes.lean ====
section
/-! DEFINITION. The network, PCIe, time-base and low-speed ports' records (R358 to R391). -/
namespace Sys2Proof.Machine

/-- A Sirin packet as received or kept for retransmission: `flags` is FLAGS of R364. -/
structure Pkt where
  seq : Nat
  typ : Nat
  flags : Nat
  payload : List Byte
  deriving DecidableEq, Repr

/-- An unacknowledged packet: times retransmitted, its timeout, when it was sent, whether fast
retransmission was used (R369). -/
structure OutPkt where
  pkt : Pkt
  retx : Nat
  timeout : Nat
  sentAt : Nat
  fast : Bool
  deriving DecidableEq, Repr

/-- A message not yet acknowledged in full: its type, the first bytes of its payload and its packets. -/
structure OutMsg where
  typ : Nat
  head : List Byte
  first : Nat
  last : Nat
  deriving DecidableEq, Repr

/-- A message delivered and not yet acted on (R366). `packets` is what it takes of WINDOW. -/
structure InMsg where
  typ : Nat
  payload : List Byte
  packets : Nat
  deriving DecidableEq, Repr

/-- One channel of a peer connection, both directions (R366, R368): `owed` packets are not acknowledged, the first of them
received at `owedAt`. -/
structure Chan where
  txSeq : Nat := 0
  queue : List Pkt := []
  out : List OutPkt := []
  msgs : List OutMsg := []
  window : Nat := 512
  rxNext : Nat := 0
  held : List Pkt := []
  part : List Pkt := []
  inbox : List InMsg := []
  owed : Nat := 0
  owedAt : Nat := 0
  deriving DecidableEq, Repr

/-- The states of a peer (R370). -/
inductive PeerSt where
  | closed | opening | open_ | unreachable
  deriving DecidableEq, Repr

/-- A control packet received and not yet acted on: OPEN, OPEN_ACK, ACK or CLOSE with its header. -/
structure Ctl where
  typ : Nat
  epoch : Nat
  ch : Nat
  ack : Nat
  sack : Nat
  window : Nat
  deriving DecidableEq, Repr

/-- One Sirin peer (R369, R370); round-trip figures in ns, when it entered its state and when the last OPEN was sent. -/
structure Peer where
  st : PeerSt := .closed
  epoch : Nat := 0
  srtt : Nat := 0
  rttvar : Nat := 0
  measured : Bool := false
  ctl : List Ctl := []
  since : Nat := 0
  openSent : Nat := 0
  ch0 : Chan := {}
  ch1 : Chan := {}
  deriving DecidableEq, Repr

/-- A resolved neighbour: logical port, address of 16 bytes, MAC (R363). -/
structure Neigh where
  port : Nat
  addr : List Byte
  mac : List Byte
  deriving DecidableEq, Repr

/-- An IP packet waiting for its next hop to be resolved. -/
structure Unres where
  port : Nat
  hop : List Byte
  v4 : Bool
  bytes : List Byte
  deriving DecidableEq, Repr

/-- An outstanding ADP_FETCH or ADP_WRITE, by TAG (R248, R249); `retire` marks the write of a RETIRE (R209). -/
structure AdpTag where
  tag : Nat
  ctx : Nat
  slot : Nat
  write : Bool
  retire : Bool
  deriving DecidableEq, Repr

/-- The network side: the Sirin table as last read (R362), peers, neighbours, outstanding adapter messages, fetches that
wait for a pool slot (context, since when), and the COMPLETION messages owed to submitters (batch, peer, channel; R372),
and the feature requests of this device's own group that wait for a basin position (R346). -/
structure Net where
  table : List Byte := []
  peers : NMap Peer := []
  neigh : List Neigh := []
  unres : List Unres := []
  tags : List AdpTag := []
  nextTag : Nat := 0
  want : List (Nat × Nat) := []
  rets : List (Nat × Nat × Nat) := []
  own : List (List Byte) := []
  deriving DecidableEq, Repr

/-- The states of PTP (R379). -/
inductive PtpSt where
  | off | acquiring | synced | lost
  deriving DecidableEq, Repr

/-- The time base (R70, R377 to R379); `driven` lists the cores that drove a slot in this holdover
interval; when the last Sync arrived, or PTP was turned on. -/
structure TimeBase where
  locked : Bool := false
  holdover : Bool := false
  ptp : PtpSt := .off
  good : Nat := 0
  offset : Int := 0
  lastSync : Nat := 0
  driven : List Nat := []
  deriving DecidableEq, Repr

/-- The JTAG TAP: the instruction loaded (R389). -/
inductive Tap where
  | bypass | idcode | sample | extest | clamp | highz | extestPulse | extestTrain
  deriving DecidableEq, Repr

/-- The management port, MSI-X and the TAP (R380, R388, R389), when the latest quotes were signed (R415), the uncorrected codewords
of the last second (physical port, time, number), and when each port's ETH_FEC_DEGRADED was last raised, plus 1 (R361). -/
structure Ports where
  lastSeq : Option Nat := none
  drops : Nat := 0
  dropRaised : Option Nat := none
  msix : NMap Word := []
  pba : List Nat := []
  tap : Tap := .idcode
  boundary : List Bool := []
  quotes : List Nat := []
  fec : List (Nat × Nat × Nat) := []
  fecRaised : NMap Nat := []
  deriving DecidableEq, Repr

/-- The states of a replica (R348). -/
inductive RepSt where
  | idle | forming | syncing | member | suspect | expelled
  deriving DecidableEq, Repr

/-- The replica group (R346 to R355): state, current members, those whose HELLO with an equal CFG is in,
the round accumulator and its folds, the group steps completed, how many rounds have closed and how many have their
verdict, the last agreeing round, the version of the last step of a round completed, tallies by 8 × round + member, silence by
member, EXPEL votes (sender, member), the last group step numbered or entered, the contexts received while SYNCING, the
last command's CODE, when the own tally was sent, and the members that wait for their contexts with the round at whose close
they get them. -/
structure Tal where
  st : RepSt := .idle
  members : List Nat := []
  hello : List Nat := []
  acc : Nat := 0
  updates : Nat := 0
  done : List Nat := []
  closed : Nat := 0
  decided : Nat := 0
  agree : Nat := 0
  tallies : NMap (List Byte) := []
  silent : NMap Nat := []
  votes : List (Nat × Nat) := []
  gstep : Nat := 0
  version : Nat := 0
  synced : List Nat := []
  code : Nat := 0
  sentAt : Nat := 0
  joining : List (Nat × Nat) := []
  deriving DecidableEq, Repr

/-- A monitor converter (R277 to R281): the mode in effect and one that waits for the conversion in
progress, the next regular entry, an injected run (entry under way), a run that waits for the conversion in
progress, a further run, the main-path channel under conversion, a START that waits, the comparators that
are OUT, and when each channel was last converted. -/
structure Mon where
  seqMode : Bool := true
  newMode : Option Bool := none
  seqPos : Nat := 0
  injPos : Option Nat := none
  injStart : Bool := false
  injMore : Bool := false
  main : Option Nat := none
  wait : Option Nat := none
  fallback : Bool := false
  out : Nat := 0
  last : NMap Nat := []
  deriving DecidableEq, Repr

end Sys2Proof.Machine
end

