-- ==== Sys2Proof/Machine/Types.lean ====
section
/-! DEFINITION. The records of the CK9-2048's state: arrays, wave engines, drains, tenders, sentences,
pounds, queues, models. Machine/State.lean gathers them. Plain data throughout. -/
namespace Sys2Proof.Machine

/-! ### Memories and manifests -/

/-- A manifest (R287, its scale-lane tag R109): the block trailer kept beside every 4 KiB block. -/
structure Manifest where
  tensor : Nat := 0
  index : Nat := 0
  tag : Nat := 0
  version : Nat := 0
  crc : Nat := 0
  deriving DecidableEq, Repr

/-- A side-store entry of an activation block: its manifest and the PEND bit (R115, R292). -/
structure SideEntry where
  man : Manifest := {}
  pend : Bool := false
  deriving DecidableEq, Repr

/-! ### Events -/

/-- An event record (R15, R322); `svalid` is bit 4 of LOC_TYPE. -/
structure Event where
  time : Nat := 0
  code : Nat := 0
  sev : Nat := 0
  locType : Nat := 0
  loc : Nat := 0
  svalid : Bool := false
  stream : Nat := 0xFFFF
  step : Nat := 0xFFFFFFFFFFFFFFFF
  detail : Nat := 0
  deriving DecidableEq, Repr

/-! ### Conductance arrays -/

/-- The states of an array (R47). -/
inductive ArrSt where
  | unprogrammed | programming | partial_ | ready | serving | failed
  deriving DecidableEq, Repr

/-- A stuck cell: logical row, logical pair, true for the G+ cell (R43). -/
structure StuckCell where
  row : Nat
  pair : Nat
  plus : Bool
  deriving DecidableEq, Repr

/-- A repair in progress (R46): a pair or a row being moved to a spare. -/
structure RepairJob where
  isRow : Bool
  logical : Nat
  spare : Nat
  left : Nat
  deriving DecidableEq, Repr

/-- A program job (R39 to R52). `last` is 0x1FFF while no batch has completed (R60); `held` is the plane
block read for the batch under way, and `gate` says that the batch has started (R404); `dead` lists the spares (true
for a row) found stuck in this job (assumption 31). -/
structure PgmJob where
  scope : Nat
  first : Nat
  lastRow : Nat
  version : Nat
  src : Nat
  prev : ArrSt
  queued : Bool
  checked : Bool
  started : Bool
  next : Nat
  last : Nat
  crcs : NMap Nat
  stuck : List StuckCell
  repairs : List RepairJob
  dead : List (Bool × Nat)
  repaired : Nat
  rotation : Bool
  aborting : Bool
  held : Nat × List Byte
  gate : Bool
  deriving DecidableEq, Repr

/-- The recalled record of a job that a power failure cut short (R50 to R52). -/
structure RecalledJob where
  scope : Nat
  version : Nat
  last : Nat
  deriving DecidableEq, Repr

/-- One physical array. `cells` holds pair values by 516 × physical row + physical pair; an unlisted
pair holds nothing the spec defines (assumption 5). `swapIdle` says that the idle wave period of a pending SWAP has begun
(R34), `scanEnd` when the last full scan ended (R60), `epoch` counts the corrections and jobs of the array (R71). -/
structure Arr where
  st : ArrSt := .unprogrammed
  cells : NMap (Option Int) := []
  targets : NMap Int := []
  trimActive : NMap Byte := []
  trimShadow : NMap Byte := []
  swapPending : Bool := false
  swapIdle : Bool := false
  job : Option PgmJob := none
  recalled : Option RecalledJob := none
  scanPos : Nat := 0
  scanning : Bool := false
  scanWeak : Nat := 0
  scanBatches : Nat := 0
  wavesSinceScan : Nat := 0
  weak : List (Nat × Nat) := []
  deferredRaised : Bool := false
  batchBusy : Bool := false
  scanEnd : Nat := 0
  /-- drift factor (R261), pair factors k by logical pair (R259), whether the latest opening or start-up
  calibration passed since the last job, and the time of the latest passed field test or replay (R316) -/
  rho : Rat := 1
  k : NMap Rat := []
  calPass : Bool := false
  epoch : Nat := 0
  lastGood : Nat := 0
  /-- only start-up calibration has been accepted (R262); the ρ × θ of the check unit's gain weights (R296); the
  conversions a drift-tracking session has made and the sum of the core temperatures at them, and when the last session
  ended (R260, R261, R265) -/
  prov : Bool := false
  wFac : Rat := 1
  session : Option (Nat × Int) := none
  driftAt : Nat := 0
  deriving DecidableEq, Repr

/-! ### Wave engine -/

/-- What a conversion is for (R62, R79, R306, R309). -/
inductive WaveKind where
  | orig
  | part (level idx : Nat)
  | replay
  deriving DecidableEq, Repr

/-- Which entry of which pound position a piece of work belongs to. -/
structure EntryRef where
  pound : Nat
  pos : Nat
  idx : Nat
  deriving DecidableEq, Repr

/-- A wave handed to the wave engine: entry, problem, token row, reduction slice, column set, logical
array, kind, the mechanism of R314 whose detection it repeats (R309), 0 for none, and the trim drive of the original
that a part or a repeat keeps (R79, R309). -/
structure WaveReq where
  ref : EntryRef
  prob : Nat
  row : Nat
  slice : Nat
  set : Nat
  larr : Nat
  kind : WaveKind
  rep : Nat
  express : Bool
  order : Nat
  trim : Option Nat := none
  deriving DecidableEq, Repr

/-- A wave in a slot: its drive values by logical row, draught, freeboard, trim drive (the ARR_TRIM_CFG word in force when
it was driven, R32), the number of that slot, the codes converted so far by logical pair (R66, R73, R74), and those of the
unused spare pairs, by spare (R38). -/
structure WaveRun where
  req : WaveReq
  slot : Nat
  phys : Nat
  delta : Int
  fb : Nat
  smax : Nat
  drive : List Int
  conv : Nat
  codes : NMap Int
  trim : Nat := 0
  zeros : NMap Int := []
  slotNo : Nat := 0
  deriving DecidableEq, Repr

/-- A part of the level under way whose codes are in: whether it made the wave clip, its failed verdict (R298,
R299), whether a repeat or a replay of it is outstanding, whether the reference path stands in for it. -/
structure PartDone where
  idx : Nat
  run : WaveRun
  clipped : Bool
  bad : Option (Int × Nat × Nat)
  busy : Bool
  exact_ : Bool
  deriving DecidableEq, Repr

/-- A split sequence (R80): the level being driven, the parts in, the pairs that clipped in the
original wave, and whether the level is known to be final. -/
structure SplitSeq where
  base : WaveReq
  level : Nat
  smax : Nat
  clips : List Nat
  parts : List PartDone
  final : Bool
  deriving DecidableEq, Repr

/-- Codes ready for the accumulator (R123): the sum per logical pair, saturated pairs, `n`, the conversions in W, and the slot
that drove the last of them (R122). Exact contributions of the reference path, by output column of the set, add to them (R310). -/
structure Delivery where
  req : WaveReq
  delta : Int
  fb : Nat
  sums : NMap Int
  sat : List Nat
  refs : List Int
  n : Nat
  slotNo : Nat
  deriving DecidableEq, Repr

/-- A replay waiting for its slot or its verdict (R306, R307). -/
structure Replay where
  orig : WaveRun
  spare : Option WaveRun
  deriving DecidableEq, Repr

/-! ### Cores -/

/-- The states of a tender (R135). -/
inductive TndSt where
  | off | loading | running | fault
  deriving DecidableEq, Repr

/-- An outstanding halo transfer at its sender (R140 to R142). -/
structure HaloOut where
  ref : EntryRef
  toRight : Bool
  base : Nat
  count : Nat
  deriving DecidableEq, Repr

/-- The calibration states of a set (R271). -/
inductive CalSt where
  | off | collect1 | collect2 | pending | ramping | suspended
  deriving DecidableEq, Repr

/-- The P² streaming estimator of one quantile (R266): samples taken, and its five markers, as positions and heights
(assumption 15). -/
structure P2 where
  seen : Nat := 0
  pos : List Nat := []
  hts : List Rat := []
  deriving DecidableEq, Repr

/-- The tap of one pair over one traffic window (R266): samples, sum and sum of squares, the estimators of q10 and q90. -/
structure CalTap where
  n : Nat := 0
  s1 : Int := 0
  s2 : Int := 0
  lo : P2 := {}
  hi : P2 := {}
  deriving DecidableEq, Repr

/-- The calibration of one column set of a core, by its set slot (R255, R271 to R274). Pairs of array `l` are keyed 514 ×
l + pair. `active` is GC by column (0x8000 where unlisted); `target`, `trimTo` and `kTo` are a pending or ramping
correction, `grad` its class (R275); `startGain` and `startTrim` a ramp's start; `old` the gain tables of earlier
generations that some row still needs. Of a window (R266 to R270): `waves` its original waves, `satWaves` those of them
excluded for saturation, `qual` the qualifying waves by array, `zn` and `zs` the number and sum of the codes of unused
spare pairs by array, `temps` and `tempSum` the number and sum of core temperatures over both windows; `offs1`, `gains1`,
`quant1`, `zero1` and `sat1` what window 1 gave. `due` corrections or ramp steps wait for a slot, `idle` says that the
idle slot of a mask change has begun (R272), `tempDue` that a temperature update waits for split sequences, `lastWait`
when a wave of the set was last seen waiting (R273). -/
structure CalSet where
  st : CalSt := .off
  gen : Nat := 0
  step : Nat := 0
  taps : NMap CalTap := []
  waves : Nat := 0
  satWaves : Nat := 0
  qual : NMap Nat := []
  zn : NMap Nat := []
  zs : NMap Int := []
  temps : Nat := 0
  tempSum : Int := 0
  offs1 : NMap Rat := []
  gains1 : NMap Rat := []
  quant1 : NMap Rat := []
  zero1 : NMap Rat := []
  sat1 : Bool := false
  grad : Bool := false
  due : Nat := 0
  idle : Bool := false
  tempDue : Bool := false
  lastWait : Nat := 0
  active : NMap Nat := []
  target : NMap Nat := []
  startGain : NMap Nat := []
  trimTo : NMap Int := []
  startTrim : NMap Int := []
  kTo : NMap Rat := []
  old : List (Nat × NMap Nat) := []
  deriving DecidableEq, Repr

/-- A field test in progress on a core (R315): the arrays still under test, the phase, the masks of R316, and the arrays
whose failed phase is being repeated. -/
structure FieldTest where
  ref : EntryRef
  mask : Nat
  phase : Nat
  permanent : Nat
  transient : Nat
  skipped : Nat
  repeating : Nat
  deriving DecidableEq, Repr

/-- One operation sample (R427, R428): its sequence number, whether it was latched, whether released. -/
structure Sample where
  seq : Nat
  bytes : List Byte
  latched : Bool
  released : Bool
  deriving DecidableEq, Repr

/-- One core: SRAM with its manifests (R114, R115), accumulator memory with its claims (R118, R188), drain tables (R125,
R128), tender with its scratch (R114, R135), slot map and spare (R144 to R147; `spPending` a pending COMMIT's array and
FORCE), `failed` the index of the ADAPT whose failure marked a block (R170, R180), halo links (R140; `haloWait` the
transfers beyond two on a link, R141), wave engine (R62), check unit (R296 to R316), calibration sets (R255), samples
(R428). `autoFor` is the array the lockkeeper is preparing the spare for (R312), `rotSince` when replay of the rotation
target began (R305), `openings` the slots with a commanded OPEN and `openTries` failed calibrations by slot (R263). -/
structure Core where
  act : NMap Byte := []
  side : NMap SideEntry := []
  acc : NMap Quad := []
  claims : NMap Nat := []
  poison : List Nat := []
  issueNo : Nat := 0
  chains : NMap Quad := []
  holding : Word := 0
  nlt : NMap Word := []
  tnd : TndSt := .off
  tndCause : Nat := 0
  tndFw : Nat := 0
  tndBeat : Nat := 0
  tndRestarted : Bool := false
  tndBusy : Option EntryRef := none
  slotMap : NMap Nat := []
  spare : Nat := 16
  noSpare : Bool := false
  spPending : Option (Nat × Bool) := none
  spCause : Nat := 0
  retired : Option Nat := none
  lastLogical : Nat := 0
  substRaise : Option (Nat × Nat × Nat) := none
  haloOut : List HaloOut := []
  haloWait : List HaloOut := []
  scratch : NMap Byte := []
  failed : NMap Nat := []
  seqL : Nat := 0
  seqR : Nat := 0
  slotNo : Nat := 0
  inGroup : Nat := 0
  driven : Nat := 0
  gridWait : Bool := false
  waiting : List WaveReq := []
  flying : List WaveRun := []
  splits : List SplitSeq := []
  ready : List Delivery := []
  replays : List Replay := []
  quar : Nat := 0
  rotTarget : Nat := 0
  rotating : Bool := false
  rotSince : Nat := 0
  autoFor : Option Nat := none
  replayOn : Bool := false
  suspended : Bool := false
  spareOut : Bool := false
  spareSuspect : Bool := false
  spareFaults : Nat := 0
  degraded : Nat := 0
  failedCore : Bool := false
  residA : NMap Int := []
  residB : NMap Int := []
  residOf : List Nat := []
  ranges : NMap Word := []
  fieldTest : Option FieldTest := none
  calSets : NMap CalSet := []
  openings : List Nat := []
  openTries : NMap Nat := []
  retesting : Bool := false
  samples : List Sample := []
  sampleHead : Nat := 0
  sampleWin : List Byte := []
  deriving DecidableEq, Repr

/-! ### Sentences, requests, pounds -/

/-- One problem of an entry: the entry itself, or a pointer-list element (R160). `skip` is SKIP = 1;
`fail` a status code of R180, 0 for none. -/
structure Problem where
  m : Nat
  k : Nat
  n : Nat
  layer : Nat
  wptr : Nat
  sptr : Nat
  inOff : Nat
  outOff : Nat
  auxOff : Nat
  accOff : Nat
  strm : Bool
  stream : Nat
  step : Nat
  skip : Bool
  fail : Nat
  deriving DecidableEq, Repr

/-- A finished piece of an output row held by a core until its block is whole (R185). `vals` lists
(column, bits as written). -/
structure OutSeg where
  holder : Nat
  src : Nat
  prob : Nat
  row : Nat
  vals : List (Nat × Nat)
  deriving DecidableEq, Repr

/-- A row whose values wait at the chain (R302, R126): values after rescale by column, the columns that
saturated, whether range verdicts are closed. -/
structure HeldRow where
  core : Nat
  row : Nat
  ys : List (Nat × Word)
  flags : List Nat
  ranged : Bool
  deriving DecidableEq, Repr

/-- The share of one core in an entry (R184): its column groups or rows, the pass under way (column pass, token pass),
whether the pass runs, whether its reduction passes before the last have been summed (R190), the rows of the pass that
left the chain, and whether all is done. -/
structure Share where
  core : Nat
  groups : List Nat
  cp : Nat := 0
  tp : Nat := 0
  running : Bool := false
  summed : Bool := false
  rowsDone : List Nat := []
  finished : Bool := false
  deriving DecidableEq, Repr

/-- The identity a region's first block fixed in a core (R194): region field offset, tensor, version,
block index at region position 0. -/
structure RegionId where
  core : Nat
  field : Nat
  tensor : Nat
  version : Nat
  origin : Int
  deriving DecidableEq, Repr

/-- What an issued entry waits for. -/
inductive EPhase where
  | running
  | waitAdapter
  | waitHalo
  | waitForward
  | waitField
  | ended
  deriving DecidableEq, Repr

/-- An issued entry (R151, R178): its 64 bytes as read, the copies made at issue (chain, masks, RSC and per-column blocks
in `vecs`), the bounds, its progress and its counts. `vecs` is keyed by 256 × core of the block + region block; `held`
lists rows that wait at the chain; `redo` (core, row) the rows repeated after an accumulator detection, `ranged` the
earlier values of rows repeated after a range detection (R309), `convs` W by core, set and row, `tops` the largest draught
among those conversions plus 14 (R18); `gens` the gain generation of a row's waves (R272); `upd` adapters (problem, slot,
bytes) that ADAPT_UPD replaces when it completes (R345), `olds` the adapters (context, bytes) replaced since an ADAPT
issued, which it still uses (R170); `dynUsed` that rows were ingested again on dynamic scales (R107); `failRow` the lowest
row whose read failed, `failRows` all of them, `undriven` (core, row) the rows from it on that had waves still to be
driven (R196). `written` lists (core, block) of every output block written, `done` (core, region block) those of the
problem under way; `guardCfg` COR_SGUARD_CFG of each core at issue (R104), `bfi` that IN of the problem is a BF16
intermediate (R107), `on` the cores that take part in some problem (R184), `flt` a residue outcome of the tender on a core
that work still to come will meet (R137, R304); `arg` is HALO_WAIT's target plus 2^16 times its limit, or LR, CLIP and SR
of ADAPT_UPD; `pends` the blocks ADAPT set PEND on; `smp` that the entry is sampled and `stall` its STALL_NS (R427). -/
structure EntryRun where
  idx : Nat := 0
  issueNo : Nat := 0
  raw : List Byte := []
  verb : Nat := 0
  chain : List Quad := []
  rowMask : Option (List Byte) := none
  colMask : Option (List Byte) := none
  vecs : NMap (List Byte) := []
  probs : List Problem := []
  cur : Nat := 0
  shares : List Share := []
  outs : List OutSeg := []
  written : List (Nat × Nat) := []
  done : List (Nat × Nat) := []
  scaleOut : NMap Byte := []
  ids : List RegionId := []
  level : Nat := 0
  rangeOn : Bool := false
  resOn : Bool := false
  sclMode : Nat := 0
  guardCfg : NMap Nat := []
  bfi : Bool := false
  on : List Nat := []
  flt : Option (Nat × ResFault) := none
  version : Nat := 0
  stream : Nat := 0
  strm : Bool := false
  step : Nat := 0
  seed : Nat := 0
  mode : EPhase := .running
  status : Nat := 0
  detail : Nat := 0
  satElem : Nat := 0
  satCode : Nat := 0
  nonfin : Nat := 0
  nfRaised : Bool := false
  fbRaised : Bool := false
  waves : Nat := 0
  clips : Nat := 0
  npass : Nat := 0
  passRaised : Bool := false
  spareUsed : Bool := false
  accSatRaised : Bool := false
  resolved : Nat := 0
  limitRaised : Bool := false
  redo : List (Nat × Nat) := []
  ranged : List HeldRow := []
  convs : NMap Nat := []
  tops : NMap Nat := []
  failRow : Option Nat := none
  failRows : List Nat := []
  undriven : List (Nat × Nat) := []
  tIssue : Nat := 0
  tStart : Option Nat := none
  splits : Nat := 0
  smp : Bool := false
  stall : Nat := 0
  arg : Nat := 0
  pends : List Nat := []
  dynRows : List Nat := []
  ingested : List Nat := []
  held : List HeldRow := []
  gens : NMap Nat := []
  upd : List (Nat × Nat × List Byte) := []
  olds : List (Nat × List Byte) := []
  dynUsed : Bool := false
  deriving DecidableEq, Repr

/-- A route element (R204). -/
structure RouteEl where
  saddr : Nat
  host : Bool
  nent : Nat
  core : Nat
  started : Bool
  deriving DecidableEq, Repr

/-- A request (R203, R205) and where it stands: `version` once bound (R236), `copyB` for twins
(R244), `batch` the doorbell write or message that made it visible, `group` the group step of a group
request (R347), `slotsBy` the slots its waves used by core (R216), `causes` the
causes of R219 met so far, `ingestN` the elements its INGEST entries took (R218). -/
structure Request where
  queue : Nat := 0
  cls : Nat := 0
  model : Nat := 0
  strm : Bool := false
  stream : Nat := 0
  adv : Bool := false
  advPl : Bool := false
  saddr : Nat := 0
  host : Bool := false
  nent : Nat := 0
  route : List RouteEl := []
  hasRoute : Bool := false
  batch : Nat := 0
  version : Option Nat := none
  setNo : Nat := 0
  copyB : Bool := false
  named : List Nat := []
  failed : Bool := false
  aborted : Bool := false
  admitted : List Nat := []
  ingress : Bool := false
  group : Option Nat := none
  slotsBy : NMap Nat := []
  causes : Nat := 0
  ingestN : Nat := 0
  tSeen : Nat := 0
  live : Bool := false
  deriving DecidableEq, Repr

/-- A place in a basin (R213): the request, the sentence it brings to this pound and whether it came
by FORWARD. -/
structure BasinEntry where
  req : Nat
  saddr : Nat
  host : Bool
  nent : Nat
  forwarded : Bool
  deriving DecidableEq, Repr

/-- A sentence in service (R151, R214). `failed` holds the index of the first entry that ended in
failure; `aborting` is set by R207 and R235; `image` says that an entry that reads image data has issued
(R179, assumption 24). -/
structure Sentence where
  req : Nat
  saddr : Nat
  host : Bool
  nent : Nat
  next : Nat
  runs : List EntryRun
  failed : Option Nat
  aborting : Option Nat
  order : Nat
  image : Bool
  deriving DecidableEq, Repr

/-- One pound, by its first core: basin, eight service positions, the class of each of the last 4,096 slots, and the
deficit round robin: deficits by queue, the queue served last by class (R213, R214). -/
structure Pound where
  basin : List BasinEntry := []
  service : NMap (Option Sentence) := []
  history : List Nat := []
  deficit : NMap Int := []
  last : NMap Nat := []
  order : Nat := 0
  deriving DecidableEq, Repr

/-! ### Queues and streams -/

/-- The states of a queue pair (R206). -/
inductive QSt where
  | disabled | enabled | draining
  deriving DecidableEq, Repr

/-- A queue pair: descriptor copy (R201), ring indices, records held inside, at most 16 (R202), the records of an abort
that wait for one of those places (`owed`, assumption 65), stall (R205), balances per pound in 1/1,024 slots (R216);
`rung` says that a doorbell write came since CREATE, and `batches` counts the unread submissions of each batch (R236,
R372). -/
structure Queue where
  st : QSt := .disabled
  sqBase : Nat := 0
  sqHost : Bool := false
  cqBase : Nat := 0
  cqHost : Bool := false
  sqLog : Nat := 0
  cqLog : Nat := 0
  cls : Nat := 0
  intr : Bool := false
  vector : Nat := 0
  model : Nat := 0
  rate : Nat := 0
  burstReq : Nat := 0
  burstSlot : Nat := 0
  weight : Nat := 0
  sqHead : Nat := 0
  sqTail : Nat := 0
  cqHead : Nat := 0
  cqTail : Nat := 0
  held : List (List Byte) := []
  owed : List (List Byte) := []
  stall : Nat := 0
  balance : NMap Int := []
  batches : List (Nat × Nat) := []
  destroying : Bool := false
  aborted : Nat := 0
  remote : Option Nat := none
  rung : Bool := false
  deriving DecidableEq, Repr

/-- The states of a stream context (R208). -/
inductive CtxSt where
  | free | bound | retiring | retired
  deriving DecidableEq, Repr

/-- A stream context (R208). -/
structure Ctx where
  pack : Nat := 0
  step : Nat := 0
  st : CtxSt := .free
  pin : Bool := false
  reason : Nat := 0
  model : Nat := 0
  version : Nat := 0
  stAddr : Nat := 0
  stBlocks : Nat := 0
  adapter : Nat := 0
  inflight : Nat := 0
  ckptStep : Nat := 0xFFFFFFFFFFFFFFFF
  tBind : Nat := 0
  tLast : Nat := 0
  ckpts : List (Nat × Nat) := []
  deriving DecidableEq, Repr

/-! ### Images and models -/

/-- A grid entry of a placement record (R226). -/
structure GridEntry where
  slice : Nat
  setJ : Nat
  core : Nat
  larr : Nat
  aExp : Nat
  bExp : Nat
  deriving DecidableEq, Repr

/-- A placement record (R183, R226). -/
structure Placement where
  layer : Nat
  first : Nat
  last : Nat
  w7 : Bool
  set : Nat
  kL : Nat
  nL : Nat
  tin : Nat
  tout : Nat
  trsc : Nat
  grid : List GridEntry
  deriving DecidableEq, Repr

/-- A directory entry of an image (R224). -/
structure Section where
  typ : Nat
  sflags : Nat
  key : Nat
  off : Nat
  len : Nat
  digest : List Byte
  deriving DecidableEq, Repr

/-- What the device keeps of an image it has installed or is locking in (R223 to R226). -/
structure Image where
  base : Nat
  version : Nat
  model : Nat
  compat : Nat
  prev : Nat
  twin : Bool
  reload : Bool
  twinDelta : Nat
  nsets : Nat
  total : Nat
  sects : List Section
  layers : List Placement
  digest : List Byte
  stats : NMap (List Byte) := []
  deriving DecidableEq, Repr

/-- The states of a model (R235). -/
inductive MSt where
  | absent | installing | serving | locking | loadingSet | stalled | incomplete
  deriving DecidableEq, Repr

/-- The staging states of a model (R231, R232). -/
inductive SSt where
  | idle | receiving | staged | bad
  deriving DecidableEq, Repr

/-- The states of a twin's lock (R245). -/
inductive TSt where
  | both | fillB | fillA
  deriving DecidableEq, Repr

/-- The states of a pound under a lock (R238). -/
inductive PLock where
  | open_ | closing | filling | stalled
  deriving DecidableEq, Repr

/-- A pound of a model under installation or a lock: cores, copy, state, the version it is open at,
the arrays (core, logical) still to be made READY and calibrated, arrays whose failure waits for RETRY, failed
calibrations by array, arrays that the core's spare stands in for (R242), and the reload set it holds. -/
structure PoundLock where
  first : Nat
  last : Nat
  copyB : Bool
  st : PLock
  version : Nat
  arrays : List (Nat × Nat) := []
  failed : List (Nat × Nat) := []
  calFails : NMap Nat := []
  sub : List (Nat × Nat) := []
  setNo : Nat := 0
  deriving DecidableEq, Repr

/-- A model (R229 to R245, R251) with its staging and chain reception (R231 to R233): the version of the first segment, the block runs
that have arrived, the blocks written, the peer found unreachable, the sections that have failed and passed. -/
structure Model where
  mst : MSt := .absent
  prior : MSt := .absent
  sst : SSt := .idle
  tst : TSt := .both
  hold : Bool := false
  cur : Option Image := none
  next : Option Image := none
  refCur : Bool := false
  refNext : Bool := false
  set : Nat := 0
  nextSet : Nat := 0
  pounds : List PoundLock := []
  rxFirst : Option Nat := none
  rxSegs : List (Nat × Nat) := []
  rxBlocks : Nat := 0
  rxBroken : Option Nat := none
  rxBad : List Nat := []
  rxGood : List Nat := []
  deriving DecidableEq, Repr

/-! ### Adapters -/

/-- An adapter pool slot (R246 to R250); `passed` says that its write to the store failed, so that the evictions under way take
other candidates. -/
structure AdpSlot where
  used : Bool := false
  ctx : Nat := 0
  useCount : Nat := 0
  lru : Nat := 0
  evicting : Bool := false
  passed : Bool := false
  fetching : Bool := false
  fetchStart : Nat := 0
  deriving DecidableEq, Repr

end Sys2Proof.Machine
end

