-- ==== Sys2Proof/Machine/RecTypes.lean ====
section
/-! DEFINITION. The record store (R409 to R414): what each page holds, the two shadow slots of a page,
and the store's own state. -/
namespace Sys2Proof.Machine

/-- The record of one array (R411): state, remap tables, check scales, count, version, and the power-on
hour of nothing else. -/
structure ArrRec where
  arr : Nat
  st : ArrSt
  rows : List Nat
  cols : List Nat
  scale : Nat
  count : Nat
  version : Nat
  deriving DecidableEq, Repr

/-- The record of one core (R411): slot map, spare, retired slot, failed flag, rotation (R305). -/
structure CoreRec where
  core : Nat
  slots : NMap Nat
  spare : Nat
  noSpare : Bool
  retired : Option Nat
  lastLogical : Nat
  failed : Bool
  rotating : Bool
  deriving DecidableEq, Repr

/-- The record of one program job at power fail (R50, R411). -/
structure JobRec where
  arr : Nat
  scope : Nat
  version : Nat
  last : Nat
  deriving DecidableEq, Repr

/-- The contents of a page. Pages the spec lays out only by name hold the named records; yours, the
counters' and the reserved pages hold bytes (R411, R422). -/
inductive Payload where
  | bytes (b : NMap Byte)
  | system (hours starts epoch : Nat) (readPw writePw : Option (List Byte))
  | log (events : List Event)
  | locks (models : NMap Model)
  | jobs (js : List JobRec)
  | arrays (rs : List ArrRec)
  | cores (rs : List CoreRec)
  deriving DecidableEq, Repr

/-- A shadow slot: `ok` says its CRC, PAGE and FORMAT are correct (R409). -/
structure PageSlot where
  seq : Nat
  ok : Bool
  weak : Bool
  data : Payload
  deriving DecidableEq, Repr

/-- The record store. `user` is the working copy of the byte pages, by 4,096 × page + byte; `storing` and
`run` are a store under way (true for periodic, R411) or the power-fail store (R406); `life` is what pages
39 to 47 held at the last start-up (R422); `kept` is what the device knows of its models beside page 2 (R411,
assumption 20). -/
structure RecStore where
  user : NMap Byte := []
  life : NMap Byte := []
  slots : NMap (Option PageSlot) := []
  retired : List Nat := []
  wearRaised : List Nat := []
  dirty : List Nat := []
  storing : List Nat := []
  run : Option Bool := none
  recalled : Bool := false
  readOk : Bool := false
  writeOk : Bool := false
  locked : Bool := false
  fails : Nat := 0
  acc : Nat := 0
  word : Nat := 0
  hours : Nat := 0
  starts : Nat := 0
  readPw : Option (List Byte) := none
  writePw : Option (List Byte) := none
  pwLo : Nat := 0
  pwHi : Nat := 0
  log : List Event := []
  jobs : List JobRec := []
  kept : NMap Model := []
  torn : Option Nat := none
  dead : Bool := false
  deriving DecidableEq, Repr

end Sys2Proof.Machine
end

