-- ==== Sys2Proof/Machine/Bits.lean ====
section
/-! DEFINITION. Bit fields, little-endian packing (R5, R6), rounding of exact quotients (R7), the
CRC-32C of R288 and the mixing function of R335. -/
namespace Sys2Proof

/-- Field [hi:lo] of a number (R5). -/
def fld (v hi lo : Nat) : Nat := (v >>> lo) % 2 ^ (hi + 1 - lo)

/-- Bit `i` of a number. -/
def bit (v i : Nat) : Bool := v.testBit i

/-- 1 for true, 0 for false. -/
def b2n (b : Bool) : Nat := if b then 1 else 0

/-- The two's-complement reading of a `w`-bit field. -/
def sext (w v : Nat) : Int := if 2 ^ (w - 1) ≤ v % 2 ^ w then (v % 2 ^ w : Nat) - (2 ^ w : Nat) else (v % 2 ^ w : Nat)

/-- The `w`-bit two's-complement encoding of an integer. -/
def enc (w : Nat) (x : Int) : Nat := (x % (2 ^ w : Nat)).toNat

/-- Replace field [hi:lo] of `v` by `x`. -/
def putFld (v hi lo x : Nat) : Nat :=
  v - (fld v hi lo) <<< lo + (x % 2 ^ (hi + 1 - lo)) <<< lo

/-- Saturating count: the larger counts stay at the bound. -/
def satTo (bound v : Nat) : Nat := if bound < v then bound else v

/-- Ceiling of a quotient. -/
def cdiv (a b : Nat) : Nat := (a + b - 1) / b

/-- Round an exact quotient to nearest, ties to even (R7). -/
def rneDiv (n : Int) (d : Nat) : Int :=
  let q := n / (d : Int)
  let r := 2 * (n - q * d)
  if r < d then q else if (d : Int) < r then q + 1 else if q % 2 = 0 then q else q + 1

/-- Clamp an integer to a range. -/
def clampI (lo hi x : Int) : Int := if x < lo then lo else if hi < x then hi else x

/-- The number a little-endian byte list spells (R6). -/
def leNat : List Byte → Nat
  | [] => 0
  | b :: bs => b.toNat + 256 * leNat bs

/-- A number as `n` little-endian bytes. -/
def leBytes : Nat → Nat → List Byte
  | 0, _ => []
  | n + 1, v => BitVec.ofNat 8 v :: leBytes n (v / 256)

/-- A number as `n` big-endian bytes (wire formats). -/
def beBytes (n v : Nat) : List Byte := (leBytes n v).reverse

/-- The number a big-endian byte list spells. -/
def beNat (bs : List Byte) : Nat := leNat bs.reverse

/-- Bytes `off` to `off + n - 1` of a list, as a little-endian number. -/
def leAt (bs : List Byte) (off n : Nat) : Nat := leNat ((bs.drop off).take n)

/-- One bit step of the reflected CRC-32C division (R288). -/
def crcBit (c : Nat) : Nat := if c % 2 = 1 then (c >>> 1) ^^^ 0x82F63B78 else c >>> 1

/-- One byte of the CRC-32C. -/
def crcByte (c : Nat) (b : Byte) : Nat :=
  crcBit (crcBit (crcBit (crcBit (crcBit (crcBit (crcBit (crcBit (c ^^^ b.toNat))))))))

/-- The CRC-32C (Castagnoli) of a byte list (R288). -/
def crc32c (bs : List Byte) : Nat := bs.foldl crcByte 0xFFFFFFFF ^^^ 0xFFFFFFFF

/-- Truncate to 64 bits. -/
def u64 (v : Nat) : Nat := v % 2 ^ 64

/-- Truncate to 32 bits. -/
def u32 (v : Nat) : Nat := v % 2 ^ 32

/-- Set bits in a list at a position; positions beyond the end change nothing. -/
def setAt {α : Type} : List α → Nat → α → List α
  | [], _, _ => []
  | _ :: xs, 0, y => y :: xs
  | x :: xs, n + 1, y => x :: setAt xs n y

/-- Replace one element of a list by its position. -/
def modAt {α : Type} (f : α → α) : List α → Nat → List α
  | [], _ => []
  | x :: xs, 0 => f x :: xs
  | x :: xs, n + 1 => x :: modAt f xs n

/-- Remove one element of a list by its position. -/
def eraseAt {α : Type} : List α → Nat → List α
  | [], _ => []
  | _ :: xs, 0 => xs
  | x :: xs, n + 1 => x :: eraseAt xs n

/-- Split a byte list into chunks of `n` bytes, at most `k` of them. -/
def chunks (n : Nat) : Nat → List Byte → List (List Byte)
  | 0, _ => []
  | k + 1, bs => if bs.isEmpty then [] else bs.take n :: chunks n k (bs.drop n)

/-- Pad a byte list with zeros to `n` bytes, or cut it. -/
def padTo (n : Nat) (bs : List Byte) : List Byte := (bs ++ List.replicate (n - bs.length) 0).take n

end Sys2Proof
end

