-- ==== Sys2Proof/Machine/RegMap.lean ====
section
/-! DEFINITION. The register tables of the spec as data: every register of control space with its
block, offset, reset value and fields by access class (R10, R13; R60, R86, R112, R148, R221, R253,
R283, R326, R356, R390, R417, R429, R437, R438), and the address map of R430 and R431. -/
namespace Sys2Proof

/-- A block of control space (R430, R431). -/
inductive Blk where
  /-- an array block -/
  | arr
  /-- wave engine -/
  | wav
  /-- scale and ingest -/
  | scl
  /-- core control -/
  | cor
  /-- tender -/
  | tnd
  /-- drain -/
  | drn
  /-- queues -/
  | que
  /-- stream contexts -/
  | stm
  /-- a doorbell -/
  | db
  /-- images and locks -/
  | img
  /-- adapter pool -/
  | adp
  /-- calibration -/
  | cal
  /-- a monitor converter -/
  | mon
  /-- device-global check -/
  | chk
  /-- check unit -/
  | cu
  /-- tallies -/
  | tal
  /-- an Ethernet physical port -/
  | eth
  /-- Sirin transport -/
  | srn
  /-- time base -/
  | tbs
  /-- PCIe -/
  | pci
  /-- a memory controller -/
  | memc
  /-- boot -/
  | boot
  /-- power -/
  | pwr
  /-- record store -/
  | recs
  /-- counter reader -/
  | ctr
  /-- windowed byte counters -/
  | win
  /-- operation sampling -/
  | smp
  /-- identification and configuration -/
  | idc
  /-- lockkeeper -/
  | lkp
  deriving DecidableEq, Repr

/-- The access classes of R10; `rsv` marks reserved bits (R13). -/
inductive Acc where
  | ro | rw | rws | rwl | w1c | wo | rsv
  deriving DecidableEq, Repr

/-- One field: its highest and lowest bit and its access class. -/
structure RegField where
  hi : Nat
  lo : Nat
  acc : Acc
  deriving DecidableEq, Repr

/-- One row of a register table. `count` registers lie `stride` bytes apart. -/
structure RegSpec where
  blk : Blk
  off : Nat
  count : Nat
  stride : Nat
  reset : Nat
  fields : List RegField
  deriving DecidableEq, Repr

/-- Every register of control space that a register table lists. -/
inductive Reg where
  | arrStatus | arrEvent | arrPgmCount | arrVersion | arrPgmSrcLo | arrPgmSrcHi | arrPgmVersion | arrPgmCtrl | arrPgmCmd | arrPgmProgress | arrRowMap | arrColMap | arrCheckScale | arrTrimCfg | arrTrimAddr | arrTrimData | arrTrimCmd | arrScanCfg | arrScanStatus
  | wavStatus | wavSplitCfg | wavLockCfg | wavPeriod | wavEvent | wavClipCount | wavSplitSlots | wavSatCount | wavLastClip
  | corSclMode | corSguardCfg | corSclStatus | corSclEvent | corCodeSatCount | corNonfiniteCount | corGuardTripCount | corDynRowCount | corSlaneErrCount | corSlaneLast
  | corId | corStatus | corEvent | corSlotMap | corSpareSlot | corSpareCtrl | corSpareCmd | corSpareStatus | corSpareVersion | corHaloRxL | corHaloRxR | corHaloSeq
  | tndStatus | tndFwVersion | tndHeartbeat | tndEvent | tndCmd | tndWdogCfg
  | drnStatus | drnEvent | drnAccSatCount | drnChainAddr | drnChainDataLo | drnChainDataHi | drnNltAddr | drnNltData
  | queTableLo | queTableHi | queCmd | queCmdStatus | queShare | queEvent | queExpStatus | queExpUnboundCount
  | stmTableLo | stmTableHi | stmStateLo | stmStateHi | stmPack | stmArg | stmCmd | stmStatus | stmEvent | stmBound
  | queDbSqTail | queDbCqHead | queDbSqHead | queDbCqTail
  | imgSel | imgStatus | imgCmd | imgCmdStatus | imgStageLo | imgStageHi | imgRefLo | imgRefHi | imgVersionCur | imgVersionNext | imgLockProgress | imgEvent | imgChainCfg | imgChainStatus | imgArg
  | imgAdpPoolLo | imgAdpPoolHi | imgAdpCfg | imgAdpMark | imgAdpTime | imgAdpStatus | imgAdpMissCount | imgAdpEvictCount
  | corCalCfg | corCalClass | corCalSel | corCalStatus | corCalNwin | corCalCmd | corCalOpenResult | corCalGainAddr | corCalGainData | corCalEvent | corCalRejectCount | corCalFbmissCount
  | monCtrl | monStatus | monSel | monData | monSeqCfg | monSeq | monInjCh | monInjCfg | monEvent | monWinState | monResult | monWinCfg | monWinLim
  | chkCfg | chkCpCfg | chkCkptCfg | chkCkptPoolLo | chkCkptPoolHi | chkCmd | chkCmdStatus | chkArgLo | chkArgHi | chkMstore | chkScrubCfg | chkMemCeCount | chkMemUeCount | chkEvtLost | chkFaultCount | chkEvtCfg | chkEvtIdx | chkEvtHead | chkEvtWin
  | chkCpFailCount | chkCpSkipCount | chkRangeCount | chkResCount | chkReplayCount | chkReplayMismatchCount | chkCoreStatus | chkCoreEvent | chkCpLast
  | talCfg | talGroup | talPeer | talSeedLo | talSeedHi | talTime | talUpdLr | talUpdClip | talCmd | talStatus | talRoundLo | talRoundHi | talAgreeLo | talAgreeHi | talEvent | talMismatchCount
  | ethPortCfg | ethPortStatus | ethFecUncorrCount | ethRxDropCount
  | ethSrnRetxCount | ethSrnDropCount | ethSrnCfg | ethSrnTableLo | ethSrnTableHi | ethSrnCmd | ethSrnSel | ethSrnStatus | ethSrnRto | ethSrnEpoch
  | tbsCfg | tbsStatus | tbsTimeLo | tbsTimeHi
  | pciStatus | pciBar2Cfg
  | memStatus
  | bootStatus | bootCmd
  | pwrCfg | pwrStatus | pwrCmd
  | recCfg | recCmd | recStatus | recAddr | recData | recPwLo | recPwHi
  | ctrSweepCfg | ctrSweepCmd | ctrSweepStatus | ctrSweepSeq | ctrBufLo | ctrBufHi
  | ctrWinCfg | ctrWinSel | ctrWinCmd | ctrWinLastLo | ctrWinLastHi | ctrWinPeakLo | ctrWinPeakHi | ctrWinIdx
  | smpCfg | smpHead | smpLost | smpIdx | smpWin
  | lkpDeviceId | lkpMember | lkpCaps | lkpMemUsable | lkpScratch | lkpCsEvent | lkpCsIgnoredCount | lkpCsIgnoredLast
  | lkpHeartbeat | lkpFwVersion | lkpCfgVersion
  deriving DecidableEq, Repr

/-- The register table row of a register. -/
def Reg.spec : Reg → RegSpec
  | .arrStatus => ⟨.arr, 0x0, 1, 4, 0x0, [⟨3, 0, .ro⟩, ⟨4, 4, .ro⟩, ⟨5, 5, .ro⟩, ⟨6, 6, .ro⟩, ⟨7, 7, .ro⟩, ⟨8, 8, .ro⟩, ⟨12, 9, .ro⟩, ⟨14, 13, .ro⟩, ⟨31, 15, .rsv⟩]⟩
  | .arrEvent => ⟨.arr, 0x4, 1, 4, 0x0, [⟨0, 0, .w1c⟩, ⟨1, 1, .w1c⟩, ⟨2, 2, .w1c⟩, ⟨3, 3, .w1c⟩, ⟨4, 4, .w1c⟩, ⟨5, 5, .w1c⟩, ⟨6, 6, .w1c⟩, ⟨7, 7, .w1c⟩, ⟨8, 8, .w1c⟩, ⟨31, 9, .rsv⟩]⟩
  | .arrPgmCount => ⟨.arr, 0x8, 1, 4, 0x0, [⟨31, 0, .ro⟩]⟩
  | .arrVersion => ⟨.arr, 0xc, 1, 4, 0x0, [⟨31, 0, .ro⟩]⟩
  | .arrPgmSrcLo => ⟨.arr, 0x10, 1, 4, 0x0, [⟨11, 0, .rsv⟩, ⟨31, 12, .rwl⟩]⟩
  | .arrPgmSrcHi => ⟨.arr, 0x14, 1, 4, 0x0, [⟨4, 0, .rwl⟩, ⟨31, 5, .rsv⟩]⟩
  | .arrPgmVersion => ⟨.arr, 0x18, 1, 4, 0x0, [⟨31, 0, .rwl⟩]⟩
  | .arrPgmCtrl => ⟨.arr, 0x1c, 1, 4, 0x0, [⟨1, 0, .rwl⟩, ⟨4, 2, .rsv⟩, ⟨15, 5, .rwl⟩, ⟨26, 16, .rwl⟩, ⟨30, 27, .rsv⟩, ⟨31, 31, .rwl⟩]⟩
  | .arrPgmCmd => ⟨.arr, 0x20, 1, 4, 0x0, [⟨0, 0, .wo⟩, ⟨1, 1, .wo⟩, ⟨31, 2, .rsv⟩]⟩
  | .arrPgmProgress => ⟨.arr, 0x24, 1, 4, 0x0, [⟨12, 0, .ro⟩, ⟨15, 13, .rsv⟩, ⟨31, 16, .ro⟩]⟩
  | .arrRowMap => ⟨.arr, 0x30, 8, 4, 0x0, [⟨10, 0, .rwl⟩, ⟨30, 11, .rsv⟩, ⟨31, 31, .rwl⟩]⟩
  | .arrColMap => ⟨.arr, 0x50, 2, 4, 0x0, [⟨9, 0, .rwl⟩, ⟨30, 10, .rsv⟩, ⟨31, 31, .rwl⟩]⟩
  | .arrCheckScale => ⟨.arr, 0x58, 1, 4, 0x0, [⟨4, 0, .rwl⟩, ⟨7, 5, .rsv⟩, ⟨12, 8, .rwl⟩, ⟨31, 13, .rsv⟩]⟩
  | .arrTrimCfg => ⟨.arr, 0x60, 1, 4, 0x9f100804, [⟨4, 0, .rws⟩, ⟨7, 5, .rsv⟩, ⟨12, 8, .rws⟩, ⟨15, 13, .rsv⟩, ⟨20, 16, .rws⟩, ⟨23, 21, .rsv⟩, ⟨28, 24, .rws⟩, ⟨30, 29, .rsv⟩, ⟨31, 31, .rws⟩]⟩
  | .arrTrimAddr => ⟨.arr, 0x64, 1, 4, 0x0, [⟨9, 0, .rw⟩, ⟨15, 10, .rsv⟩, ⟨16, 16, .rw⟩, ⟨31, 17, .rsv⟩]⟩
  | .arrTrimData => ⟨.arr, 0x68, 1, 4, 0x0, [⟨7, 0, .rw⟩, ⟨15, 8, .ro⟩, ⟨31, 16, .rsv⟩]⟩
  | .arrTrimCmd => ⟨.arr, 0x6c, 1, 4, 0x0, [⟨0, 0, .wo⟩, ⟨1, 1, .wo⟩, ⟨31, 2, .rsv⟩]⟩
  | .arrScanCfg => ⟨.arr, 0x70, 1, 4, 0x10a0018, [⟨15, 0, .rw⟩, ⟨19, 16, .rw⟩, ⟨23, 20, .rsv⟩, ⟨24, 24, .rw⟩, ⟨31, 25, .rsv⟩]⟩
  | .arrScanStatus => ⟨.arr, 0x74, 1, 4, 0x0, [⟨15, 0, .ro⟩, ⟨31, 16, .ro⟩]⟩
  | .wavStatus => ⟨.wav, 0x0, 1, 4, 0x0, [⟨0, 0, .ro⟩, ⟨1, 1, .ro⟩, ⟨2, 2, .ro⟩, ⟨3, 3, .ro⟩, ⟨15, 4, .rsv⟩, ⟨31, 16, .ro⟩]⟩
  | .wavSplitCfg => ⟨.wav, 0x4, 1, 4, 0x3, [⟨1, 0, .rws⟩, ⟨31, 2, .rsv⟩]⟩
  | .wavLockCfg => ⟨.wav, 0x8, 1, 4, 0x0, [⟨0, 0, .rwl⟩, ⟨3, 1, .rsv⟩, ⟨7, 4, .rwl⟩, ⟨31, 8, .rsv⟩]⟩
  | .wavPeriod => ⟨.wav, 0xc, 1, 4, 0x0, [⟨15, 0, .ro⟩, ⟨31, 16, .ro⟩]⟩
  | .wavEvent => ⟨.wav, 0x10, 1, 4, 0x0, [⟨0, 0, .w1c⟩, ⟨1, 1, .w1c⟩, ⟨2, 2, .w1c⟩, ⟨31, 3, .rsv⟩]⟩
  | .wavClipCount => ⟨.wav, 0x14, 1, 4, 0x0, [⟨31, 0, .ro⟩]⟩
  | .wavSplitSlots => ⟨.wav, 0x18, 1, 4, 0x0, [⟨31, 0, .ro⟩]⟩
  | .wavSatCount => ⟨.wav, 0x1c, 1, 4, 0x0, [⟨31, 0, .ro⟩]⟩
  | .wavLastClip => ⟨.wav, 0x20, 1, 4, 0x0, [⟨3, 0, .ro⟩, ⟨5, 4, .ro⟩, ⟨7, 6, .rsv⟩, ⟨8, 8, .ro⟩, ⟨15, 9, .rsv⟩, ⟨25, 16, .ro⟩, ⟨30, 26, .rsv⟩, ⟨31, 31, .ro⟩]⟩
  | .corSclMode => ⟨.scl, 0x0, 1, 4, 0x0, [⟨1, 0, .rws⟩, ⟨31, 2, .rsv⟩]⟩
  | .corSguardCfg => ⟨.scl, 0x4, 1, 4, 0xc0040, [⟨12, 0, .rw⟩, ⟨15, 13, .rsv⟩, ⟨18, 16, .rw⟩, ⟨19, 19, .rw⟩, ⟨31, 20, .rsv⟩]⟩
  | .corSclStatus => ⟨.scl, 0x8, 1, 4, 0x0, [⟨1, 0, .ro⟩, ⟨2, 2, .ro⟩, ⟨3, 3, .rsv⟩, ⟨16, 4, .ro⟩, ⟨23, 17, .ro⟩, ⟨30, 24, .rsv⟩, ⟨31, 31, .ro⟩]⟩
  | .corSclEvent => ⟨.scl, 0xc, 1, 4, 0x0, [⟨0, 0, .w1c⟩, ⟨1, 1, .w1c⟩, ⟨2, 2, .w1c⟩, ⟨31, 3, .rsv⟩]⟩
  | .corCodeSatCount => ⟨.scl, 0x10, 1, 4, 0x0, [⟨31, 0, .ro⟩]⟩
  | .corNonfiniteCount => ⟨.scl, 0x14, 1, 4, 0x0, [⟨31, 0, .ro⟩]⟩
  | .corGuardTripCount => ⟨.scl, 0x18, 1, 4, 0x0, [⟨31, 0, .ro⟩]⟩
  | .corDynRowCount => ⟨.scl, 0x1c, 1, 4, 0x0, [⟨31, 0, .ro⟩]⟩
  | .corSlaneErrCount => ⟨.scl, 0x20, 1, 4, 0x0, [⟨31, 0, .ro⟩]⟩
  | .corSlaneLast => ⟨.scl, 0x24, 1, 4, 0x0, [⟨23, 0, .ro⟩, ⟨26, 24, .ro⟩, ⟨27, 27, .ro⟩, ⟨30, 28, .rsv⟩, ⟨31, 31, .ro⟩]⟩
  | .corId => ⟨.cor, 0x0, 1, 4, 0x0, [⟨6, 0, .ro⟩, ⟨8, 7, .ro⟩, ⟨13, 9, .ro⟩, ⟨31, 14, .rsv⟩]⟩
  | .corStatus => ⟨.cor, 0x4, 1, 4, 0x0, [⟨0, 0, .ro⟩, ⟨1, 1, .ro⟩, ⟨31, 2, .rsv⟩]⟩
  | .corEvent => ⟨.cor, 0x8, 1, 4, 0x0, [⟨0, 0, .w1c⟩, ⟨1, 1, .w1c⟩, ⟨2, 2, .w1c⟩, ⟨3, 3, .w1c⟩, ⟨4, 4, .w1c⟩, ⟨31, 5, .rsv⟩]⟩
  | .corSlotMap => ⟨.cor, 0x10, 4, 4, 0x3020100, [⟨4, 0, .ro⟩, ⟨7, 5, .rsv⟩, ⟨12, 8, .ro⟩, ⟨15, 13, .rsv⟩, ⟨20, 16, .ro⟩, ⟨23, 21, .rsv⟩, ⟨28, 24, .ro⟩, ⟨31, 29, .rsv⟩]⟩
  | .corSpareSlot => ⟨.cor, 0x20, 1, 4, 0x10, [⟨4, 0, .ro⟩, ⟨7, 5, .rsv⟩, ⟨8, 8, .ro⟩, ⟨31, 9, .rsv⟩]⟩
  | .corSpareCtrl => ⟨.cor, 0x24, 1, 4, 0x0, [⟨3, 0, .rw⟩, ⟨7, 4, .rsv⟩, ⟨8, 8, .rw⟩, ⟨31, 9, .rsv⟩]⟩
  | .corSpareCmd => ⟨.cor, 0x28, 1, 4, 0x0, [⟨0, 0, .wo⟩, ⟨1, 1, .wo⟩, ⟨31, 2, .rsv⟩]⟩
  | .corSpareStatus => ⟨.cor, 0x2c, 1, 4, 0x0, [⟨0, 0, .ro⟩, ⟨3, 1, .ro⟩, ⟨8, 4, .ro⟩, ⟨9, 9, .ro⟩, ⟨13, 10, .ro⟩, ⟨31, 14, .rsv⟩]⟩
  | .corSpareVersion => ⟨.cor, 0x30, 1, 4, 0x0, [⟨31, 0, .rw⟩]⟩
  | .corHaloRxL => ⟨.cor, 0x34, 1, 4, 0x0, [⟨7, 0, .rws⟩, ⟨14, 8, .rws⟩, ⟨31, 15, .rsv⟩]⟩
  | .corHaloRxR => ⟨.cor, 0x38, 1, 4, 0x0, [⟨7, 0, .rws⟩, ⟨14, 8, .rws⟩, ⟨31, 15, .rsv⟩]⟩
  | .corHaloSeq => ⟨.cor, 0x3c, 1, 4, 0x0, [⟨15, 0, .ro⟩, ⟨31, 16, .ro⟩]⟩
  | .tndStatus => ⟨.tnd, 0x0, 1, 4, 0x0, [⟨1, 0, .ro⟩, ⟨3, 2, .rsv⟩, ⟨4, 4, .ro⟩, ⟨7, 5, .rsv⟩, ⟨11, 8, .ro⟩, ⟨31, 12, .rsv⟩]⟩
  | .tndFwVersion => ⟨.tnd, 0x4, 1, 4, 0x0, [⟨31, 0, .ro⟩]⟩
  | .tndHeartbeat => ⟨.tnd, 0x8, 1, 4, 0x0, [⟨31, 0, .ro⟩]⟩
  | .tndEvent => ⟨.tnd, 0xc, 1, 4, 0x0, [⟨0, 0, .w1c⟩, ⟨1, 1, .w1c⟩, ⟨31, 2, .rsv⟩]⟩
  | .tndCmd => ⟨.tnd, 0x10, 1, 4, 0x0, [⟨0, 0, .wo⟩, ⟨31, 1, .rsv⟩]⟩
  | .tndWdogCfg => ⟨.tnd, 0x14, 1, 4, 0x3e8, [⟨15, 0, .rw⟩, ⟨31, 16, .rsv⟩]⟩
  | .drnStatus => ⟨.drn, 0x0, 1, 4, 0x0, [⟨0, 0, .ro⟩, ⟨15, 1, .rsv⟩, ⟨31, 16, .ro⟩]⟩
  | .drnEvent => ⟨.drn, 0x4, 1, 4, 0x0, [⟨0, 0, .w1c⟩, ⟨1, 1, .w1c⟩, ⟨31, 2, .rsv⟩]⟩
  | .drnAccSatCount => ⟨.drn, 0x8, 1, 4, 0x0, [⟨31, 0, .ro⟩]⟩
  | .drnChainAddr => ⟨.drn, 0xc, 1, 4, 0x0, [⟨2, 0, .rw⟩, ⟨7, 3, .rsv⟩, ⟨13, 8, .rw⟩, ⟨31, 14, .rsv⟩]⟩
  | .drnChainDataLo => ⟨.drn, 0x10, 1, 4, 0x0, [⟨31, 0, .rw⟩]⟩
  | .drnChainDataHi => ⟨.drn, 0x14, 1, 4, 0x0, [⟨31, 0, .rw⟩]⟩
  | .drnNltAddr => ⟨.drn, 0x18, 1, 4, 0x0, [⟨10, 0, .rw⟩, ⟨11, 11, .rsv⟩, ⟨14, 12, .rw⟩, ⟨15, 15, .rw⟩, ⟨31, 16, .rsv⟩]⟩
  | .drnNltData => ⟨.drn, 0x1c, 1, 4, 0x0, [⟨31, 0, .rwl⟩]⟩
  | .queTableLo => ⟨.que, 0x0, 1, 4, 0x0, [⟨11, 0, .rsv⟩, ⟨31, 12, .rwl⟩]⟩
  | .queTableHi => ⟨.que, 0x4, 1, 4, 0x0, [⟨4, 0, .rwl⟩, ⟨31, 5, .rsv⟩]⟩
  | .queCmd => ⟨.que, 0x8, 1, 4, 0x0, [⟨14, 0, .wo⟩, ⟨15, 15, .rsv⟩, ⟨17, 16, .wo⟩, ⟨31, 18, .rsv⟩]⟩
  | .queCmdStatus => ⟨.que, 0xc, 1, 4, 0x0, [⟨14, 0, .ro⟩, ⟨18, 16, .ro⟩, ⟨30, 19, .rsv⟩, ⟨31, 31, .ro⟩, ⟨15, 15, .rsv⟩]⟩
  | .queShare => ⟨.que, 0x10, 1, 4, 0x138, [⟨5, 0, .rws⟩, ⟨7, 6, .rsv⟩, ⟨13, 8, .rws⟩, ⟨31, 14, .rsv⟩]⟩
  | .queEvent => ⟨.que, 0x14, 1, 4, 0x0, [⟨0, 0, .w1c⟩, ⟨1, 1, .w1c⟩, ⟨2, 2, .w1c⟩, ⟨3, 3, .w1c⟩, ⟨31, 4, .rsv⟩]⟩
  | .queExpStatus => ⟨.que, 0x18, 1, 4, 0x0, [⟨7, 0, .ro⟩, ⟨31, 8, .rsv⟩]⟩
  | .queExpUnboundCount => ⟨.que, 0x1c, 1, 4, 0x0, [⟨31, 0, .ro⟩]⟩
  | .stmTableLo => ⟨.stm, 0x0, 1, 4, 0x0, [⟨11, 0, .rsv⟩, ⟨31, 12, .rwl⟩]⟩
  | .stmTableHi => ⟨.stm, 0x4, 1, 4, 0x0, [⟨4, 0, .rwl⟩, ⟨31, 5, .rsv⟩]⟩
  | .stmStateLo => ⟨.stm, 0x1c, 1, 4, 0x0, [⟨11, 0, .rsv⟩, ⟨31, 12, .rwl⟩]⟩
  | .stmStateHi => ⟨.stm, 0x20, 1, 4, 0x0, [⟨4, 0, .rwl⟩, ⟨31, 5, .rsv⟩]⟩
  | .stmPack => ⟨.stm, 0x8, 4, 4, 0x0, [⟨31, 0, .rw⟩]⟩
  | .stmArg => ⟨.stm, 0x18, 1, 4, 0x0, [⟨15, 0, .rw⟩, ⟨22, 16, .rw⟩, ⟨23, 23, .rsv⟩, ⟨24, 24, .rw⟩, ⟨31, 25, .rsv⟩]⟩
  | .stmCmd => ⟨.stm, 0x24, 1, 4, 0x0, [⟨2, 0, .wo⟩, ⟨7, 3, .rsv⟩, ⟨9, 8, .wo⟩, ⟨15, 10, .rsv⟩, ⟨31, 16, .wo⟩]⟩
  | .stmStatus => ⟨.stm, 0x28, 1, 4, 0x0, [⟨15, 0, .ro⟩, ⟨18, 16, .ro⟩, ⟨29, 19, .rsv⟩, ⟨30, 30, .ro⟩, ⟨31, 31, .ro⟩]⟩
  | .stmEvent => ⟨.stm, 0x2c, 1, 4, 0x0, [⟨0, 0, .w1c⟩, ⟨1, 1, .w1c⟩, ⟨31, 2, .rsv⟩]⟩
  | .stmBound => ⟨.stm, 0x30, 1, 4, 0x0, [⟨16, 0, .ro⟩, ⟨31, 17, .rsv⟩]⟩
  | .queDbSqTail => ⟨.db, 0x0, 1, 4, 0x0, [⟨15, 0, .rw⟩, ⟨31, 16, .rsv⟩]⟩
  | .queDbCqHead => ⟨.db, 0x4, 1, 4, 0x0, [⟨15, 0, .rw⟩, ⟨31, 16, .rsv⟩]⟩
  | .queDbSqHead => ⟨.db, 0x8, 1, 4, 0x0, [⟨15, 0, .ro⟩, ⟨31, 16, .rsv⟩]⟩
  | .queDbCqTail => ⟨.db, 0xc, 1, 4, 0x0, [⟨15, 0, .ro⟩, ⟨31, 16, .rsv⟩]⟩
  | .imgSel => ⟨.img, 0x0, 1, 4, 0x0, [⟨15, 0, .rw⟩, ⟨31, 16, .rsv⟩]⟩
  | .imgStatus => ⟨.img, 0x4, 1, 4, 0x0, [⟨2, 0, .ro⟩, ⟨3, 3, .rsv⟩, ⟨5, 4, .ro⟩, ⟨6, 6, .ro⟩, ⟨7, 7, .ro⟩, ⟨9, 8, .ro⟩, ⟨14, 10, .rsv⟩, ⟨15, 15, .ro⟩, ⟨19, 16, .ro⟩, ⟨31, 20, .rsv⟩]⟩
  | .imgCmd => ⟨.img, 0x8, 1, 4, 0x0, [⟨3, 0, .wo⟩, ⟨4, 4, .wo⟩, ⟨7, 5, .rsv⟩, ⟨11, 8, .wo⟩, ⟨31, 12, .rsv⟩]⟩
  | .imgCmdStatus => ⟨.img, 0xc, 1, 4, 0x0, [⟨2, 0, .ro⟩, ⟨30, 3, .rsv⟩, ⟨31, 31, .ro⟩]⟩
  | .imgStageLo => ⟨.img, 0x10, 1, 4, 0x0, [⟨11, 0, .rsv⟩, ⟨31, 12, .rwl⟩]⟩
  | .imgStageHi => ⟨.img, 0x14, 1, 4, 0x0, [⟨4, 0, .rwl⟩, ⟨31, 5, .rsv⟩]⟩
  | .imgRefLo => ⟨.img, 0x20, 1, 4, 0x0, [⟨11, 0, .rsv⟩, ⟨31, 12, .ro⟩]⟩
  | .imgRefHi => ⟨.img, 0x24, 1, 4, 0x0, [⟨4, 0, .ro⟩, ⟨31, 5, .rsv⟩]⟩
  | .imgVersionCur => ⟨.img, 0x18, 1, 4, 0x0, [⟨31, 0, .ro⟩]⟩
  | .imgVersionNext => ⟨.img, 0x1c, 1, 4, 0x0, [⟨31, 0, .ro⟩]⟩
  | .imgLockProgress => ⟨.img, 0x28, 1, 4, 0x0, [⟨7, 0, .ro⟩, ⟨15, 8, .ro⟩, ⟨23, 16, .ro⟩, ⟨31, 24, .ro⟩]⟩
  | .imgEvent => ⟨.img, 0x2c, 1, 4, 0x0, [⟨18, 0, .w1c⟩, ⟨31, 19, .rsv⟩]⟩
  | .imgChainCfg => ⟨.img, 0x30, 1, 4, 0x0, [⟨0, 0, .rw⟩, ⟨7, 1, .rsv⟩, ⟨15, 8, .rw⟩, ⟨31, 16, .rsv⟩]⟩
  | .imgChainStatus => ⟨.img, 0x34, 1, 4, 0x0, [⟨23, 0, .ro⟩, ⟨29, 24, .rsv⟩, ⟨30, 30, .ro⟩, ⟨31, 31, .ro⟩]⟩
  | .imgArg => ⟨.img, 0x38, 1, 4, 0x0, [⟨23, 0, .rw⟩, ⟨31, 24, .rsv⟩]⟩
  | .imgAdpPoolLo => ⟨.adp, 0x0, 1, 4, 0x0, [⟨15, 0, .rsv⟩, ⟨31, 16, .rwl⟩]⟩
  | .imgAdpPoolHi => ⟨.adp, 0x4, 1, 4, 0x0, [⟨4, 0, .rwl⟩, ⟨31, 5, .rsv⟩]⟩
  | .imgAdpCfg => ⟨.adp, 0x8, 1, 4, 0x0, [⟨19, 0, .rwl⟩, ⟨31, 20, .rsv⟩]⟩
  | .imgAdpMark => ⟨.adp, 0xc, 1, 4, 0x4000100, [⟨15, 0, .rw⟩, ⟨31, 16, .rw⟩]⟩
  | .imgAdpTime => ⟨.adp, 0x10, 1, 4, 0x14003c, [⟨7, 0, .rw⟩, ⟨15, 8, .rsv⟩, ⟨23, 16, .rw⟩, ⟨31, 24, .rsv⟩]⟩
  | .imgAdpStatus => ⟨.adp, 0x14, 1, 4, 0x0, [⟨19, 0, .ro⟩, ⟨30, 20, .rsv⟩, ⟨31, 31, .ro⟩]⟩
  | .imgAdpMissCount => ⟨.adp, 0x18, 1, 4, 0x0, [⟨31, 0, .ro⟩]⟩
  | .imgAdpEvictCount => ⟨.adp, 0x1c, 1, 4, 0x0, [⟨31, 0, .ro⟩]⟩
  | .corCalCfg => ⟨.cal, 0x0, 1, 4, 0x3e80a01, [⟨0, 0, .rw⟩, ⟨7, 1, .rsv⟩, ⟨15, 8, .rw⟩, ⟨31, 16, .rw⟩]⟩
  | .corCalClass => ⟨.cal, 0x4, 1, 4, 0x0, [⟨15, 0, .rws⟩, ⟨31, 16, .rsv⟩]⟩
  | .corCalSel => ⟨.cal, 0x8, 1, 4, 0x0, [⟨3, 0, .rw⟩, ⟨31, 4, .rsv⟩]⟩
  | .corCalStatus => ⟨.cal, 0xc, 1, 4, 0x0, [⟨2, 0, .ro⟩, ⟨3, 3, .rsv⟩, ⟨5, 4, .ro⟩, ⟨6, 6, .ro⟩, ⟨7, 7, .ro⟩, ⟨15, 8, .ro⟩, ⟨24, 16, .ro⟩, ⟨30, 25, .rsv⟩, ⟨31, 31, .ro⟩]⟩
  | .corCalNwin => ⟨.cal, 0x10, 1, 4, 0x0, [⟨26, 0, .ro⟩, ⟨31, 27, .rsv⟩]⟩
  | .corCalCmd => ⟨.cal, 0x14, 1, 4, 0x0, [⟨0, 0, .wo⟩, ⟨1, 1, .wo⟩, ⟨7, 2, .rsv⟩, ⟨12, 8, .wo⟩, ⟨31, 13, .rsv⟩]⟩
  | .corCalOpenResult => ⟨.cal, 0x18, 1, 4, 0x0, [⟨0, 0, .ro⟩, ⟨1, 1, .ro⟩, ⟨5, 2, .ro⟩, ⟨7, 6, .rsv⟩, ⟨12, 8, .ro⟩, ⟨31, 13, .rsv⟩]⟩
  | .corCalGainAddr => ⟨.cal, 0x1c, 1, 4, 0x0, [⟨8, 0, .rw⟩, ⟨11, 9, .rsv⟩, ⟨15, 12, .rw⟩, ⟨16, 16, .rw⟩, ⟨31, 17, .rsv⟩]⟩
  | .corCalGainData => ⟨.cal, 0x20, 1, 4, 0x80008000, [⟨15, 0, .ro⟩, ⟨31, 16, .ro⟩]⟩
  | .corCalEvent => ⟨.cal, 0x24, 1, 4, 0x0, [⟨0, 0, .w1c⟩, ⟨1, 1, .w1c⟩, ⟨2, 2, .w1c⟩, ⟨3, 3, .w1c⟩, ⟨4, 4, .w1c⟩, ⟨5, 5, .w1c⟩, ⟨6, 6, .w1c⟩, ⟨31, 7, .rsv⟩]⟩
  | .corCalRejectCount => ⟨.cal, 0x28, 1, 4, 0x0, [⟨31, 0, .ro⟩]⟩
  | .corCalFbmissCount => ⟨.cal, 0x2c, 1, 4, 0x0, [⟨31, 0, .ro⟩]⟩
  | .monCtrl => ⟨.mon, 0x0, 1, 4, 0x3e80005, [⟨1, 0, .rw⟩, ⟨2, 2, .rw⟩, ⟨15, 3, .rsv⟩, ⟨31, 16, .rw⟩]⟩
  | .monStatus => ⟨.mon, 0x4, 1, 4, 0x0, [⟨0, 0, .ro⟩, ⟨2, 1, .ro⟩, ⟨3, 3, .ro⟩, ⟨4, 4, .ro⟩, ⟨9, 5, .ro⟩, ⟨31, 10, .rsv⟩]⟩
  | .monSel => ⟨.mon, 0x8, 1, 4, 0x0, [⟨5, 0, .rw⟩, ⟨30, 6, .rsv⟩, ⟨31, 31, .wo⟩]⟩
  | .monData => ⟨.mon, 0xc, 1, 4, 0x0, [⟨11, 0, .ro⟩, ⟨15, 12, .rsv⟩, ⟨21, 16, .ro⟩, ⟨30, 22, .rsv⟩, ⟨31, 31, .ro⟩]⟩
  | .monSeqCfg => ⟨.mon, 0x10, 1, 4, 0x10, [⟨4, 0, .rw⟩, ⟨31, 5, .rsv⟩]⟩
  | .monSeq => ⟨.mon, 0x14, 4, 4, 0x2f2e2d2c, [⟨5, 0, .rw⟩, ⟨7, 6, .rsv⟩, ⟨13, 8, .rw⟩, ⟨15, 14, .rsv⟩, ⟨21, 16, .rw⟩, ⟨23, 22, .rsv⟩, ⟨29, 24, .rw⟩, ⟨31, 30, .rsv⟩]⟩
  | .monInjCh => ⟨.mon, 0x24, 1, 4, 0x2f2e2d2c, [⟨5, 0, .rw⟩, ⟨7, 6, .rsv⟩, ⟨13, 8, .rw⟩, ⟨15, 14, .rsv⟩, ⟨21, 16, .rw⟩, ⟨23, 22, .rsv⟩, ⟨29, 24, .rw⟩, ⟨31, 30, .rsv⟩]⟩
  | .monInjCfg => ⟨.mon, 0x28, 1, 4, 0x304, [⟨2, 0, .rw⟩, ⟨7, 3, .rsv⟩, ⟨8, 8, .rw⟩, ⟨9, 9, .rw⟩, ⟨30, 10, .rsv⟩, ⟨31, 31, .wo⟩]⟩
  | .monEvent => ⟨.mon, 0x2c, 1, 4, 0x0, [⟨0, 0, .w1c⟩, ⟨1, 1, .w1c⟩, ⟨2, 2, .w1c⟩, ⟨3, 3, .w1c⟩, ⟨31, 4, .rsv⟩]⟩
  | .monWinState => ⟨.mon, 0x30, 1, 4, 0x0, [⟨15, 0, .ro⟩, ⟨31, 16, .rsv⟩]⟩
  | .monResult => ⟨.mon, 0x100, 48, 4, 0x0, [⟨11, 0, .ro⟩, ⟨13, 12, .ro⟩, ⟨30, 14, .rsv⟩, ⟨31, 31, .ro⟩]⟩
  | .monWinCfg => ⟨.mon, 0x200, 16, 8, 0x0, [⟨5, 0, .rw⟩, ⟨7, 6, .rsv⟩, ⟨11, 8, .rw⟩, ⟨15, 12, .rsv⟩, ⟨16, 16, .rw⟩, ⟨20, 17, .rw⟩, ⟨31, 21, .rsv⟩]⟩
  | .monWinLim => ⟨.mon, 0x204, 16, 8, 0x0, [⟨11, 0, .rw⟩, ⟨15, 12, .rsv⟩, ⟨27, 16, .rw⟩, ⟨31, 28, .rsv⟩]⟩
  | .chkCfg => ⟨.chk, 0x0, 1, 4, 0x3c0341, [⟨1, 0, .rws⟩, ⟨3, 2, .rws⟩, ⟨5, 4, .rws⟩, ⟨7, 6, .rws⟩, ⟨8, 8, .rw⟩, ⟨9, 9, .rw⟩, ⟨15, 10, .rsv⟩, ⟨23, 16, .rw⟩, ⟨31, 24, .rsv⟩]⟩
  | .chkCpCfg => ⟨.chk, 0x4, 1, 4, 0x8, [⟨3, 0, .rw⟩, ⟨31, 4, .rsv⟩]⟩
  | .chkCkptCfg => ⟨.chk, 0x8, 1, 4, 0x10, [⟨12, 0, .rwl⟩, ⟨15, 13, .rsv⟩, ⟨22, 16, .rwl⟩, ⟨30, 23, .rsv⟩, ⟨31, 31, .rw⟩]⟩
  | .chkCkptPoolLo => ⟨.chk, 0xc, 1, 4, 0x0, [⟨11, 0, .rsv⟩, ⟨31, 12, .rwl⟩]⟩
  | .chkCkptPoolHi => ⟨.chk, 0x10, 1, 4, 0x0, [⟨4, 0, .rwl⟩, ⟨31, 5, .rsv⟩]⟩
  | .chkCmd => ⟨.chk, 0x14, 1, 4, 0x0, [⟨2, 0, .wo⟩, ⟨15, 3, .rsv⟩, ⟨31, 16, .wo⟩]⟩
  | .chkCmdStatus => ⟨.chk, 0x18, 1, 4, 0x0, [⟨2, 0, .ro⟩, ⟨29, 3, .rsv⟩, ⟨30, 30, .ro⟩, ⟨31, 31, .ro⟩]⟩
  | .chkArgLo => ⟨.chk, 0x1c, 1, 4, 0x0, [⟨31, 0, .rw⟩]⟩
  | .chkArgHi => ⟨.chk, 0x20, 1, 4, 0x0, [⟨31, 0, .rw⟩]⟩
  | .chkMstore => ⟨.chk, 0x24, 1, 4, 0x0, [⟨24, 0, .ro⟩, ⟨31, 25, .rsv⟩]⟩
  | .chkScrubCfg => ⟨.chk, 0x28, 1, 4, 0xa18, [⟨7, 0, .rw⟩, ⟨15, 8, .rw⟩, ⟨31, 16, .rsv⟩]⟩
  | .chkMemCeCount => ⟨.chk, 0x2c, 1, 4, 0x0, [⟨31, 0, .ro⟩]⟩
  | .chkMemUeCount => ⟨.chk, 0x30, 1, 4, 0x0, [⟨31, 0, .ro⟩]⟩
  | .chkEvtLost => ⟨.chk, 0x40, 1, 4, 0x0, [⟨31, 0, .ro⟩]⟩
  | .chkFaultCount => ⟨.chk, 0x34, 1, 4, 0x0, [⟨15, 0, .ro⟩, ⟨31, 16, .ro⟩]⟩
  | .chkEvtCfg => ⟨.chk, 0x38, 1, 4, 0xba040001, [⟨0, 0, .rw⟩, ⟨2, 1, .rw⟩, ⟨15, 3, .rsv⟩, ⟨31, 16, .rw⟩]⟩
  | .chkEvtIdx => ⟨.chk, 0x3c, 1, 4, 0x0, [⟨31, 0, .rw⟩]⟩
  | .chkEvtHead => ⟨.chk, 0x44, 1, 4, 0x0, [⟨31, 0, .ro⟩]⟩
  | .chkEvtWin => ⟨.chk, 0x60, 8, 4, 0x0, [⟨31, 0, .ro⟩]⟩
  | .chkCpFailCount => ⟨.cu, 0x8, 1, 4, 0x0, [⟨31, 0, .ro⟩]⟩
  | .chkCpSkipCount => ⟨.cu, 0xc, 1, 4, 0x0, [⟨31, 0, .ro⟩]⟩
  | .chkRangeCount => ⟨.cu, 0x10, 1, 4, 0x0, [⟨31, 0, .ro⟩]⟩
  | .chkResCount => ⟨.cu, 0x14, 1, 4, 0x0, [⟨31, 0, .ro⟩]⟩
  | .chkReplayCount => ⟨.cu, 0x18, 1, 4, 0x0, [⟨31, 0, .ro⟩]⟩
  | .chkReplayMismatchCount => ⟨.cu, 0x1c, 1, 4, 0x0, [⟨31, 0, .ro⟩]⟩
  | .chkCoreStatus => ⟨.cu, 0x0, 1, 4, 0x0, [⟨15, 0, .ro⟩, ⟨19, 16, .ro⟩, ⟨20, 20, .ro⟩, ⟨21, 21, .ro⟩, ⟨22, 22, .ro⟩, ⟨31, 23, .rsv⟩]⟩
  | .chkCoreEvent => ⟨.cu, 0x4, 1, 4, 0x0, [⟨0, 0, .w1c⟩, ⟨1, 1, .w1c⟩, ⟨2, 2, .w1c⟩, ⟨3, 3, .w1c⟩, ⟨4, 4, .w1c⟩, ⟨5, 5, .w1c⟩, ⟨31, 6, .rsv⟩]⟩
  | .chkCpLast => ⟨.cu, 0x20, 1, 4, 0x0, [⟨3, 0, .ro⟩, ⟨12, 4, .ro⟩, ⟨21, 13, .ro⟩, ⟨30, 22, .rsv⟩, ⟨31, 31, .ro⟩]⟩
  | .talCfg => ⟨.tal, 0x0, 1, 4, 0x1040010, [⟨12, 0, .rwl⟩, ⟨15, 13, .rsv⟩, ⟨18, 16, .rwl⟩, ⟨19, 19, .rsv⟩, ⟨27, 20, .rwl⟩, ⟨30, 28, .rsv⟩, ⟨31, 31, .rwl⟩]⟩
  | .talGroup => ⟨.tal, 0x4, 1, 4, 0x0, [⟨7, 0, .rwl⟩, ⟨10, 8, .rwl⟩, ⟨11, 11, .rsv⟩, ⟨14, 12, .rwl⟩, ⟨15, 15, .rsv⟩, ⟨31, 16, .rwl⟩]⟩
  | .talPeer => ⟨.tal, 0x8, 2, 4, 0x0, [⟨7, 0, .rwl⟩, ⟨15, 8, .rwl⟩, ⟨23, 16, .rwl⟩, ⟨31, 24, .rwl⟩]⟩
  | .talSeedLo => ⟨.tal, 0x10, 1, 4, 0x0, [⟨31, 0, .rwl⟩]⟩
  | .talSeedHi => ⟨.tal, 0x14, 1, 4, 0x0, [⟨31, 0, .rwl⟩]⟩
  | .talTime => ⟨.tal, 0x18, 1, 4, 0x232, [⟨7, 0, .rw⟩, ⟨11, 8, .rw⟩, ⟨31, 12, .rsv⟩]⟩
  | .talUpdLr => ⟨.tal, 0x1c, 1, 4, 0x0, [⟨31, 0, .rwl⟩]⟩
  | .talUpdClip => ⟨.tal, 0x20, 1, 4, 0x7f800000, [⟨31, 0, .rwl⟩]⟩
  | .talCmd => ⟨.tal, 0x24, 1, 4, 0x0, [⟨2, 0, .wo⟩, ⟨7, 3, .rsv⟩, ⟨10, 8, .wo⟩, ⟨31, 11, .rsv⟩]⟩
  | .talStatus => ⟨.tal, 0x28, 1, 4, 0x0, [⟨2, 0, .ro⟩, ⟨3, 3, .ro⟩, ⟨6, 4, .ro⟩, ⟨7, 7, .rsv⟩, ⟨14, 8, .ro⟩, ⟨15, 15, .ro⟩, ⟨18, 16, .ro⟩, ⟨31, 19, .rsv⟩]⟩
  | .talRoundLo => ⟨.tal, 0x2c, 1, 4, 0x0, [⟨31, 0, .ro⟩]⟩
  | .talRoundHi => ⟨.tal, 0x30, 1, 4, 0x0, [⟨31, 0, .ro⟩]⟩
  | .talAgreeLo => ⟨.tal, 0x34, 1, 4, 0x0, [⟨31, 0, .ro⟩]⟩
  | .talAgreeHi => ⟨.tal, 0x38, 1, 4, 0x0, [⟨31, 0, .ro⟩]⟩
  | .talEvent => ⟨.tal, 0x3c, 1, 4, 0x0, [⟨7, 0, .w1c⟩, ⟨31, 8, .rsv⟩]⟩
  | .talMismatchCount => ⟨.tal, 0x40, 1, 4, 0x0, [⟨31, 0, .ro⟩]⟩
  | .ethPortCfg => ⟨.eth, 0x0, 1, 4, 0x10, [⟨2, 0, .rwl⟩, ⟨3, 3, .rsv⟩, ⟨4, 4, .rwl⟩, ⟨7, 5, .rsv⟩, ⟨8, 8, .rw⟩, ⟨31, 9, .rsv⟩]⟩
  | .ethPortStatus => ⟨.eth, 0x4, 1, 4, 0x0, [⟨3, 0, .ro⟩, ⟨4, 4, .ro⟩, ⟨31, 5, .rsv⟩]⟩
  | .ethFecUncorrCount => ⟨.eth, 0x8, 1, 4, 0x0, [⟨31, 0, .ro⟩]⟩
  | .ethRxDropCount => ⟨.eth, 0xc, 1, 4, 0x0, [⟨31, 0, .ro⟩]⟩
  | .ethSrnRetxCount => ⟨.srn, 0x1c, 1, 4, 0x0, [⟨31, 0, .ro⟩]⟩
  | .ethSrnDropCount => ⟨.srn, 0x20, 1, 4, 0x0, [⟨31, 0, .ro⟩]⟩
  | .ethSrnCfg => ⟨.srn, 0x0, 1, 4, 0x80b9fc, [⟨15, 0, .rwl⟩, ⟨16, 16, .rw⟩, ⟨19, 17, .rsv⟩, ⟨23, 20, .rw⟩, ⟨31, 24, .rw⟩]⟩
  | .ethSrnTableLo => ⟨.srn, 0x4, 1, 4, 0x0, [⟨11, 0, .rsv⟩, ⟨31, 12, .rwl⟩]⟩
  | .ethSrnTableHi => ⟨.srn, 0x8, 1, 4, 0x0, [⟨4, 0, .rwl⟩, ⟨31, 5, .rsv⟩]⟩
  | .ethSrnCmd => ⟨.srn, 0xc, 1, 4, 0x0, [⟨2, 0, .wo⟩, ⟨7, 3, .rsv⟩, ⟨15, 8, .wo⟩, ⟨31, 16, .rsv⟩]⟩
  | .ethSrnSel => ⟨.srn, 0x10, 1, 4, 0x0, [⟨7, 0, .rw⟩, ⟨31, 8, .rsv⟩]⟩
  | .ethSrnStatus => ⟨.srn, 0x14, 1, 4, 0x0, [⟨0, 0, .ro⟩, ⟨2, 1, .ro⟩, ⟨15, 3, .rsv⟩, ⟨31, 16, .ro⟩]⟩
  | .ethSrnRto => ⟨.srn, 0x18, 1, 4, 0xa, [⟨15, 0, .rw⟩, ⟨31, 16, .rsv⟩]⟩
  | .ethSrnEpoch => ⟨.srn, 0x24, 1, 4, 0x0, [⟨31, 0, .ro⟩]⟩
  | .tbsCfg => ⟨.tbs, 0x0, 1, 4, 0x0, [⟨0, 0, .rw⟩, ⟨1, 1, .rw⟩, ⟨2, 2, .rw⟩, ⟨4, 3, .rw⟩, ⟨7, 5, .rsv⟩, ⟨11, 8, .rw⟩, ⟨15, 12, .rsv⟩, ⟨22, 16, .rw⟩, ⟨31, 23, .rsv⟩]⟩
  | .tbsStatus => ⟨.tbs, 0x4, 1, 4, 0x0, [⟨0, 0, .ro⟩, ⟨1, 1, .ro⟩, ⟨3, 2, .ro⟩, ⟨15, 4, .rsv⟩, ⟨31, 16, .ro⟩]⟩
  | .tbsTimeLo => ⟨.tbs, 0x8, 1, 4, 0x0, [⟨31, 0, .ro⟩]⟩
  | .tbsTimeHi => ⟨.tbs, 0xc, 1, 4, 0x0, [⟨31, 0, .ro⟩]⟩
  | .pciStatus => ⟨.pci, 0x0, 1, 4, 0x0, [⟨0, 0, .ro⟩, ⟨3, 1, .ro⟩, ⟨7, 4, .ro⟩, ⟨8, 8, .ro⟩, ⟨31, 9, .rsv⟩]⟩
  | .pciBar2Cfg => ⟨.pci, 0x4, 1, 4, 0x1e00, [⟨6, 0, .rw⟩, ⟨7, 7, .rsv⟩, ⟨12, 8, .ro⟩, ⟨31, 13, .rsv⟩]⟩
  | .memStatus => ⟨.memc, 0x0, 1, 4, 0x0, [⟨0, 0, .ro⟩, ⟨1, 1, .ro⟩, ⟨3, 2, .ro⟩, ⟨7, 4, .ro⟩, ⟨31, 8, .rsv⟩]⟩
  | .bootStatus => ⟨.boot, 0x0, 1, 4, 0x1, [⟨3, 0, .ro⟩, ⟨4, 4, .ro⟩, ⟨5, 5, .ro⟩, ⟨6, 6, .ro⟩, ⟨7, 7, .ro⟩, ⟨31, 8, .rsv⟩]⟩
  | .bootCmd => ⟨.boot, 0x4, 1, 4, 0x0, [⟨0, 0, .wo⟩, ⟨31, 1, .rsv⟩]⟩
  | .pwrCfg => ⟨.pwr, 0x0, 1, 4, 0x1907369, [⟨7, 0, .rw⟩, ⟨15, 8, .rw⟩, ⟨27, 16, .rw⟩, ⟨31, 28, .rsv⟩]⟩
  | .pwrStatus => ⟨.pwr, 0x4, 1, 4, 0x800, [⟨2, 0, .ro⟩, ⟨3, 3, .ro⟩, ⟨7, 4, .rsv⟩, ⟨11, 8, .ro⟩, ⟨14, 12, .ro⟩, ⟨15, 15, .rsv⟩, ⟨19, 16, .ro⟩, ⟨20, 20, .ro⟩, ⟨31, 21, .rsv⟩]⟩
  | .pwrCmd => ⟨.pwr, 0x8, 1, 4, 0x0, [⟨1, 0, .wo⟩, ⟨31, 2, .rsv⟩]⟩
  | .recCfg => ⟨.recs, 0x0, 1, 4, 0x3c, [⟨15, 0, .rw⟩, ⟨31, 16, .rsv⟩]⟩
  | .recCmd => ⟨.recs, 0x4, 1, 4, 0x0, [⟨2, 0, .wo⟩, ⟨31, 3, .rsv⟩]⟩
  | .recStatus => ⟨.recs, 0x8, 1, 4, 0x1, [⟨0, 0, .ro⟩, ⟨1, 1, .ro⟩, ⟨2, 2, .ro⟩, ⟨3, 3, .ro⟩, ⟨4, 4, .ro⟩, ⟨6, 5, .ro⟩, ⟨8, 7, .ro⟩, ⟨15, 9, .rsv⟩, ⟨23, 16, .ro⟩, ⟨31, 24, .rsv⟩]⟩
  | .recAddr => ⟨.recs, 0xc, 1, 4, 0x0, [⟨1, 0, .rsv⟩, ⟨18, 2, .rw⟩, ⟨30, 19, .rsv⟩, ⟨31, 31, .rw⟩]⟩
  | .recData => ⟨.recs, 0x10, 1, 4, 0x0, [⟨31, 0, .rw⟩]⟩
  | .recPwLo => ⟨.recs, 0x14, 1, 4, 0x0, [⟨31, 0, .wo⟩]⟩
  | .recPwHi => ⟨.recs, 0x18, 1, 4, 0x0, [⟨31, 0, .wo⟩]⟩
  | .ctrSweepCfg => ⟨.ctr, 0x0, 1, 4, 0x3f400000, [⟨19, 0, .rw⟩, ⟨23, 20, .rwl⟩, ⟨29, 24, .rw⟩, ⟨31, 30, .rsv⟩]⟩
  | .ctrSweepCmd => ⟨.ctr, 0x4, 1, 4, 0x0, [⟨0, 0, .wo⟩, ⟨31, 1, .rsv⟩]⟩
  | .ctrSweepStatus => ⟨.ctr, 0x8, 1, 4, 0x0, [⟨0, 0, .ro⟩, ⟨7, 1, .rsv⟩, ⟨15, 8, .ro⟩, ⟨31, 16, .ro⟩]⟩
  | .ctrSweepSeq => ⟨.ctr, 0xc, 1, 4, 0x0, [⟨31, 0, .ro⟩]⟩
  | .ctrBufLo => ⟨.ctr, 0x10, 1, 4, 0x0, [⟨16, 0, .rsv⟩, ⟨31, 17, .rwl⟩]⟩
  | .ctrBufHi => ⟨.ctr, 0x14, 1, 4, 0x0, [⟨4, 0, .rwl⟩, ⟨31, 5, .rsv⟩]⟩
  | .ctrWinCfg => ⟨.win, 0x0, 1, 4, 0x3e8, [⟨19, 0, .rw⟩, ⟨31, 20, .rsv⟩]⟩
  | .ctrWinSel => ⟨.win, 0x4, 1, 4, 0x0, [⟨5, 0, .rw⟩, ⟨31, 6, .rsv⟩]⟩
  | .ctrWinCmd => ⟨.win, 0x8, 1, 4, 0x0, [⟨0, 0, .wo⟩, ⟨31, 1, .rsv⟩]⟩
  | .ctrWinLastLo => ⟨.win, 0xc, 1, 4, 0x0, [⟨31, 0, .ro⟩]⟩
  | .ctrWinLastHi => ⟨.win, 0x10, 1, 4, 0x0, [⟨31, 0, .ro⟩]⟩
  | .ctrWinPeakLo => ⟨.win, 0x14, 1, 4, 0x0, [⟨31, 0, .ro⟩]⟩
  | .ctrWinPeakHi => ⟨.win, 0x18, 1, 4, 0x0, [⟨31, 0, .ro⟩]⟩
  | .ctrWinIdx => ⟨.win, 0x1c, 1, 4, 0x0, [⟨31, 0, .ro⟩]⟩
  | .smpCfg => ⟨.smp, 0x0, 1, 4, 0x10a, [⟨4, 0, .rw⟩, ⟨7, 5, .rsv⟩, ⟨8, 8, .rw⟩, ⟨31, 9, .rsv⟩]⟩
  | .smpHead => ⟨.smp, 0x4, 1, 4, 0x0, [⟨31, 0, .ro⟩]⟩
  | .smpLost => ⟨.smp, 0x8, 1, 4, 0x0, [⟨31, 0, .ro⟩]⟩
  | .smpIdx => ⟨.smp, 0xc, 1, 4, 0x0, [⟨31, 0, .rw⟩]⟩
  | .smpWin => ⟨.smp, 0x40, 16, 4, 0x0, [⟨31, 0, .ro⟩]⟩
  | .lkpDeviceId => ⟨.idc, 0x0, 1, 4, 0xa19204, [⟨15, 0, .ro⟩, ⟨23, 16, .ro⟩, ⟨31, 24, .rsv⟩]⟩
  | .lkpMember => ⟨.idc, 0x4, 1, 4, 0x980, [⟨15, 0, .ro⟩, ⟨31, 16, .rsv⟩]⟩
  | .lkpCaps => ⟨.idc, 0x8, 1, 4, 0x4100f80, [⟨7, 0, .ro⟩, ⟨12, 8, .ro⟩, ⟨15, 13, .rsv⟩, ⟨20, 16, .ro⟩, ⟨23, 21, .rsv⟩, ⟨27, 24, .ro⟩, ⟨31, 28, .rsv⟩]⟩
  | .lkpMemUsable => ⟨.idc, 0xc, 1, 4, 0x0, [⟨31, 0, .ro⟩]⟩
  | .lkpScratch => ⟨.idc, 0x10, 4, 4, 0x0, [⟨31, 0, .rw⟩]⟩
  | .lkpCsEvent => ⟨.idc, 0x20, 1, 4, 0x0, [⟨0, 0, .w1c⟩, ⟨1, 1, .w1c⟩, ⟨2, 2, .w1c⟩, ⟨31, 3, .rsv⟩]⟩
  | .lkpCsIgnoredCount => ⟨.idc, 0x24, 1, 4, 0x0, [⟨31, 0, .ro⟩]⟩
  | .lkpCsIgnoredLast => ⟨.idc, 0x28, 1, 4, 0x0, [⟨31, 0, .ro⟩]⟩
  | .lkpHeartbeat => ⟨.lkp, 0x0, 1, 4, 0x0, [⟨31, 0, .ro⟩]⟩
  | .lkpFwVersion => ⟨.lkp, 0x4, 1, 4, 0x0, [⟨31, 0, .ro⟩]⟩
  | .lkpCfgVersion => ⟨.lkp, 0x8, 1, 4, 0x0, [⟨31, 0, .ro⟩]⟩

/-- The registers of a block, in offset order. -/
def Blk.regs : Blk → List Reg
  | .arr => [.arrStatus, .arrEvent, .arrPgmCount, .arrVersion, .arrPgmSrcLo, .arrPgmSrcHi, .arrPgmVersion, .arrPgmCtrl, .arrPgmCmd, .arrPgmProgress, .arrRowMap, .arrColMap, .arrCheckScale, .arrTrimCfg, .arrTrimAddr, .arrTrimData, .arrTrimCmd, .arrScanCfg, .arrScanStatus]
  | .wav => [.wavStatus, .wavSplitCfg, .wavLockCfg, .wavPeriod, .wavEvent, .wavClipCount, .wavSplitSlots, .wavSatCount, .wavLastClip]
  | .scl => [.corSclMode, .corSguardCfg, .corSclStatus, .corSclEvent, .corCodeSatCount, .corNonfiniteCount, .corGuardTripCount, .corDynRowCount, .corSlaneErrCount, .corSlaneLast]
  | .cor => [.corId, .corStatus, .corEvent, .corSlotMap, .corSpareSlot, .corSpareCtrl, .corSpareCmd, .corSpareStatus, .corSpareVersion, .corHaloRxL, .corHaloRxR, .corHaloSeq]
  | .tnd => [.tndStatus, .tndFwVersion, .tndHeartbeat, .tndEvent, .tndCmd, .tndWdogCfg]
  | .drn => [.drnStatus, .drnEvent, .drnAccSatCount, .drnChainAddr, .drnChainDataLo, .drnChainDataHi, .drnNltAddr, .drnNltData]
  | .que => [.queTableLo, .queTableHi, .queCmd, .queCmdStatus, .queShare, .queEvent, .queExpStatus, .queExpUnboundCount]
  | .stm => [.stmTableLo, .stmTableHi, .stmPack, .stmArg, .stmStateLo, .stmStateHi, .stmCmd, .stmStatus, .stmEvent, .stmBound]
  | .db => [.queDbSqTail, .queDbCqHead, .queDbSqHead, .queDbCqTail]
  | .img => [.imgSel, .imgStatus, .imgCmd, .imgCmdStatus, .imgStageLo, .imgStageHi, .imgVersionCur, .imgVersionNext, .imgRefLo, .imgRefHi, .imgLockProgress, .imgEvent, .imgChainCfg, .imgChainStatus, .imgArg]
  | .adp => [.imgAdpPoolLo, .imgAdpPoolHi, .imgAdpCfg, .imgAdpMark, .imgAdpTime, .imgAdpStatus, .imgAdpMissCount, .imgAdpEvictCount]
  | .cal => [.corCalCfg, .corCalClass, .corCalSel, .corCalStatus, .corCalNwin, .corCalCmd, .corCalOpenResult, .corCalGainAddr, .corCalGainData, .corCalEvent, .corCalRejectCount, .corCalFbmissCount]
  | .mon => [.monCtrl, .monStatus, .monSel, .monData, .monSeqCfg, .monSeq, .monInjCh, .monInjCfg, .monEvent, .monWinState, .monResult, .monWinCfg, .monWinLim]
  | .chk => [.chkCfg, .chkCpCfg, .chkCkptCfg, .chkCkptPoolLo, .chkCkptPoolHi, .chkCmd, .chkCmdStatus, .chkArgLo, .chkArgHi, .chkMstore, .chkScrubCfg, .chkMemCeCount, .chkMemUeCount, .chkFaultCount, .chkEvtCfg, .chkEvtIdx, .chkEvtLost, .chkEvtHead, .chkEvtWin]
  | .cu => [.chkCoreStatus, .chkCoreEvent, .chkCpFailCount, .chkCpSkipCount, .chkRangeCount, .chkResCount, .chkReplayCount, .chkReplayMismatchCount, .chkCpLast]
  | .tal => [.talCfg, .talGroup, .talPeer, .talSeedLo, .talSeedHi, .talTime, .talUpdLr, .talUpdClip, .talCmd, .talStatus, .talRoundLo, .talRoundHi, .talAgreeLo, .talAgreeHi, .talEvent, .talMismatchCount]
  | .eth => [.ethPortCfg, .ethPortStatus, .ethFecUncorrCount, .ethRxDropCount]
  | .srn => [.ethSrnCfg, .ethSrnTableLo, .ethSrnTableHi, .ethSrnCmd, .ethSrnSel, .ethSrnStatus, .ethSrnRto, .ethSrnRetxCount, .ethSrnDropCount, .ethSrnEpoch]
  | .tbs => [.tbsCfg, .tbsStatus, .tbsTimeLo, .tbsTimeHi]
  | .pci => [.pciStatus, .pciBar2Cfg]
  | .memc => [.memStatus]
  | .boot => [.bootStatus, .bootCmd]
  | .pwr => [.pwrCfg, .pwrStatus, .pwrCmd]
  | .recs => [.recCfg, .recCmd, .recStatus, .recAddr, .recData, .recPwLo, .recPwHi]
  | .ctr => [.ctrSweepCfg, .ctrSweepCmd, .ctrSweepStatus, .ctrSweepSeq, .ctrBufLo, .ctrBufHi]
  | .win => [.ctrWinCfg, .ctrWinSel, .ctrWinCmd, .ctrWinLastLo, .ctrWinLastHi, .ctrWinPeakLo, .ctrWinPeakHi, .ctrWinIdx]
  | .smp => [.smpCfg, .smpHead, .smpLost, .smpIdx, .smpWin]
  | .idc => [.lkpDeviceId, .lkpMember, .lkpCaps, .lkpMemUsable, .lkpScratch, .lkpCsEvent, .lkpCsIgnoredCount, .lkpCsIgnoredLast]
  | .lkp => [.lkpHeartbeat, .lkpFwVersion, .lkpCfgVersion]

/-- The control-space base of a core (R9). -/
def coreBase (n : Nat) : Nat := 0x01000000 + n / 32 * 0x00400000 + n % 32 * 0x00020000

/-- The base address of an instance of a block (R430, R431, R30): a core block's instance is its core,
an array block's is 17 × core + slot, monitor converter 4 is the I/O die's. -/
def Blk.base : Blk → Nat → Nat
  | .idc, _ => 0x00000000
  | .que, _ => 0x00040000
  | .stm, _ => 0x00041000
  | .img, _ => 0x00042000
  | .adp, _ => 0x00042100
  | .chk, _ => 0x00043000
  | .tal, _ => 0x00044000
  | .tbs, _ => 0x00045000
  | .srn, _ => 0x00046000
  | .lkp, _ => 0x00100000
  | .boot, _ => 0x00101000
  | .pwr, _ => 0x00102000
  | .recs, _ => 0x00103000
  | .ctr, _ => 0x00104000
  | .win, _ => 0x00105000
  | .mon, q => if q < 4 then 0x00110000 + q * 0x400 else 0x00111000
  | .eth, p => 0x00200000 + p * 0x10000
  | .pci, _ => 0x00240000
  | .memc, m => 0x00250000 + m * 0x10000
  | .cor, n => coreBase n
  | .tnd, n => coreBase n + 0x1000
  | .wav, n => coreBase n + 0x2000
  | .scl, n => coreBase n + 0x3000
  | .drn, n => coreBase n + 0x4000
  | .cal, n => coreBase n + 0x5000
  | .arr, a => coreBase (a / 17) + 0x8000 + a % 17 * 0x400
  | .smp, n => coreBase n + 0x10200
  | .cu, n => coreBase n + 0x18000
  | .db, q => 0x08000000 + 32 * q

/-- The address of register `r` of instance `i`, index `k` in its run. -/
def Reg.addr (r : Reg) (i k : Nat) : Nat := r.spec.blk.base i + r.spec.off + r.spec.stride * k

/-- The monitor sequence resets that differ by converter (R283). -/
def monSeqReset (i k : Nat) : Nat :=
  if i < 4 then [0x2F2E2D2C, 0x28222120, 0x242B2A29, 0x23272625].getD k 0
  else [0x03020100, 0x07060504, 0x0F0E0908, 0x17161110].getD k 0

/-- The reset value of a register (R60 to R438); COR_ID, the slot map and the monitor sequences
differ by instance (R148, R283). -/
def Reg.reset (r : Reg) (i k : Nat) : Nat :=
  match r with
  | .corId => i + (i / 32) * 128 + (i % 32) * 512
  | .corSlotMap => 0x03020100 + k * 0x04040404
  | .monSeq => monSeqReset i k
  | .monInjCh => if i < 4 then 0x2F2E2D2C else 0x08100E11
  | _ => r.spec.reset

/-- What an address of control space names. -/
inductive Place where
  /-- an offset of a block that holds registers -/
  | inBlock (b : Blk) (inst off : Nat)
  /-- a counter half: counter ID, true for the HI word (R419, R421) -/
  | counter (n : Nat) (hi : Bool)
  /-- a reserved offset of a counter block (R430) -/
  | counterGap
  /-- word of the MSI-X table (R380) -/
  | msixTable (word : Nat)
  /-- word of the MSI-X pending-bit array (R380) -/
  | msixPba (word : Nat)
  /-- no block covers the address (R430) -/
  | unmapped
  deriving DecidableEq, Repr

/-- The counter ID of a block (R419): block in bits 15:8, index in bits 7:0. -/
def ctrId (blk k : Nat) : Nat := 256 * blk + k

/-- The block number of a counter ID: cores 0x00 to 0x7F, quarters 0x80 + q, logical ports 0x90 + p,
PCIe 0xA0, memory controllers 0xB0 + m, the I/O die 0xC0 (R419). -/
def ctrQuarter (q : Nat) : Nat := 0x80 + q
/-- See `ctrQuarter`. -/
def ctrPort (p : Nat) : Nat := 0x90 + p
/-- See `ctrQuarter`. -/
def ctrPcie : Nat := 0xA0
/-- See `ctrQuarter`. -/
def ctrMem (m : Nat) : Nat := 0xB0 + m
/-- See `ctrQuarter`. -/
def ctrIo : Nat := 0xC0

/-- A word of a counter block with `n` counters. -/
def counterPlace (blk n off : Nat) : Place :=
  if off / 8 < n then .counter (ctrId blk (off / 8)) (off % 8 ≥ 4) else .counterGap

/-- A word of a core window (R431). -/
def decodeCore (n o : Nat) : Place :=
  if o < 0x100 then .inBlock .cor n o
  else if 0x1000 ≤ o && o < 0x1100 then .inBlock .tnd n (o - 0x1000)
  else if 0x2000 ≤ o && o < 0x2100 then .inBlock .wav n (o - 0x2000)
  else if 0x3000 ≤ o && o < 0x3100 then .inBlock .scl n (o - 0x3000)
  else if 0x4000 ≤ o && o < 0x4100 then .inBlock .drn n (o - 0x4000)
  else if 0x5000 ≤ o && o < 0x5100 then .inBlock .cal n (o - 0x5000)
  else if 0x8000 ≤ o && o < 0xC400 then .inBlock .arr (17 * n + (o - 0x8000) / 0x400) ((o - 0x8000) % 0x400)
  else if 0x10000 ≤ o && o < 0x10180 then counterPlace n 48 (o - 0x10000)
  else if 0x10200 ≤ o && o < 0x10280 then .inBlock .smp n (o - 0x10200)
  else if 0x18000 ≤ o && o < 0x18100 then .inBlock .cu n (o - 0x18000)
  else .unmapped

/-- A word of a window of `size` bytes at `base`. -/
def inWin (a base size : Nat) : Bool := base ≤ a && a < base + size

/-- What an aligned control-space address names (R430, R431, R436). -/
def decodeAddr (a : Nat) : Place :=
  if inWin a 0 0x100 then .inBlock .idc 0 a
  else if inWin a 0x40000 0x100 then .inBlock .que 0 (a - 0x40000)
  else if inWin a 0x41000 0x100 then .inBlock .stm 0 (a - 0x41000)
  else if inWin a 0x42000 0x100 then .inBlock .img 0 (a - 0x42000)
  else if inWin a 0x42100 0x100 then .inBlock .adp 0 (a - 0x42100)
  else if inWin a 0x43000 0x100 then .inBlock .chk 0 (a - 0x43000)
  else if inWin a 0x44000 0x100 then .inBlock .tal 0 (a - 0x44000)
  else if inWin a 0x45000 0x100 then .inBlock .tbs 0 (a - 0x45000)
  else if inWin a 0x46000 0x100 then .inBlock .srn 0 (a - 0x46000)
  else if inWin a 0x100000 0x100 then .inBlock .lkp 0 (a - 0x100000)
  else if inWin a 0x101000 0x100 then .inBlock .boot 0 (a - 0x101000)
  else if inWin a 0x102000 0x100 then .inBlock .pwr 0 (a - 0x102000)
  else if inWin a 0x103000 0x100 then .inBlock .recs 0 (a - 0x103000)
  else if inWin a 0x104000 0x100 then .inBlock .ctr 0 (a - 0x104000)
  else if inWin a 0x105000 0x100 then .inBlock .win 0 (a - 0x105000)
  else if inWin a 0x110000 0x1400 then .inBlock .mon ((a - 0x110000) / 0x400) (a % 0x400)
  else if inWin a 0x112000 0x500 && (a - 0x112000) % 0x100 < 0x80 then
    counterPlace (if a < 0x112400 then ctrQuarter ((a - 0x112000) / 0x100) else ctrIo) 16 (a % 0x100)
  else if inWin a 0x200000 0x40000 && a % 0x10000 < 0x300 then
    let p := (a - 0x200000) / 0x10000
    let o := a % 0x10000
    if o < 0x100 then .inBlock .eth p o
    else counterPlace (ctrPort (4 * p + (o - 0x100) / 0x80)) 8 ((o - 0x100) % 0x80)
  else if inWin a 0x240000 0x180 then
    if a < 0x240100 then .inBlock .pci 0 (a - 0x240000) else counterPlace ctrPcie 8 (a - 0x240100)
  else if inWin a 0x244000 0x100 then .msixPba ((a - 0x244000) / 4)
  else if inWin a 0x248000 0x8000 then .msixTable ((a - 0x248000) / 4)
  else if inWin a 0x250000 0x40000 && a % 0x10000 < 0x180 then
    let m := (a - 0x250000) / 0x10000
    let o := a % 0x10000
    if o < 0x100 then .inBlock .memc m o else counterPlace (ctrMem m) 8 (o - 0x100)
  else if inWin a 0x01000000 0x01000000 then
    let q := (a - 0x01000000) / 0x00400000
    decodeCore (32 * q + a % 0x00400000 / 0x00020000) (a % 0x00020000)
  else if inWin a 0x08000000 0x100000 then .inBlock .db ((a - 0x08000000) / 32) (a % 32)
  else .unmapped

/-- The register of a block at an offset, with its index in its run; none at a reserved offset. The
I/O die's converter has 32 result registers, a quarter's 48 (R283). -/
def regAt (b : Blk) (inst off : Nat) : Option (Reg × Nat) :=
  b.regs.findSome? fun r =>
    let sp := r.spec
    let d := off - sp.off
    let n := if r = .monResult && inst = 4 then 32 else sp.count
    if sp.off ≤ off && d % sp.stride = 0 && d / sp.stride < n then some (r, d / sp.stride) else none

/-- The reset value of a listed address: the default of the register file. -/
def regDefault (a : Nat) : Word :=
  match decodeAddr a with
  | .inBlock b i o => match regAt b i o with
    | some (r, k) => BitVec.ofNat 32 (r.reset i k)
    | none => 0
  | _ => 0

/-- The bits of a register's fields that have one of the given access classes. -/
def Reg.mask (r : Reg) (accs : List Acc) : Nat :=
  r.spec.fields.foldl (fun m f => if accs.contains f.acc then m + (2 ^ (f.hi + 1) - 2 ^ f.lo) else m) 0

end Sys2Proof
end

