-- ==== Sys2Proof/Machine/State.lean ====
section
/-! DEFINITION. The state of the CK9-2048 as plain data, with what it holds right after reset. -/
namespace Sys2Proof.Machine

/-- No command stops the block with a fault: the spec reports every error as an event, a status or a
reply. The type is empty. -/
inductive Fault where
  deriving DecidableEq, Repr

/-- Why a command is turned away. -/
inductive Refusal where
  /-- Raised by Machine/Dispatch.lean for a row of the table that has no meaning yet; safe. -/
  | notModelled (mnemonic : String)
  deriving DecidableEq, Repr

/-- What left the device by one of its ports. -/
inductive Tx where
  /-- the data words of a control-space read on a path, true for Unsupported Request (R432) -/
  | data (p : Path) (words : List Word) (ur : Bool)
  /-- bytes returned by a BAR2 read (R381) -/
  | bar2 (bytes : List Byte)
  /-- an MSI-X message: vector (R380) -/
  | msix (vector : Nat)
  /-- a UDP datagram of the management port: port, payload (R324, R388, R415) -/
  | mgmt (port : Nat) (payload : List Byte)
  /-- an Ethernet frame on a logical port (R360) -/
  | frame (port : Nat) (bytes : List Byte)
  /-- an SMBus reply; none is a NACK (R389) -/
  | smbus (bytes : Option (List Byte))
  /-- the UART's text line for an event record of severity Warning and above (R389) -/
  | line (e : Event)
  /-- a line of the UART: failing kind and step of R398 (R401) -/
  | uart (cfg : Bool) (step : Nat)
  /-- data shifted out of the JTAG port (R389) -/
  | jtag (bits : List Bool)
  deriving DecidableEq, Repr

/-- The event ring and what waits to be sent (R322 to R324). -/
structure EventRing where
  seq : Nat := 0
  ring : List (Nat × Event) := []
  lostSince : Nat := 0
  waiting : List (Nat × Event) := []
  deriving DecidableEq, Repr

/-- The identity store (R402, R413): owner hash (none while empty) and the two floors. -/
structure Ident where
  owner : Option (List Byte) := none
  fwFloor : Nat := 0
  cfgFloor : Nat := 0
  deriving DecidableEq, Repr

/-- A running container (R398): version, floor, digest of its signed bytes, hash of its key. -/
structure Container where
  version : Nat := 0
  floor : Nat := 0
  digest : List Byte := []
  keyHash : List Byte := []
  next : List Byte := []
  deriving DecidableEq, Repr

/-- Start-up (R395 to R402). `toMargin` and `toCal` list the arrays whose margin check and start-up calibration are still
to come; `tenderBad` that the copy of the tender code in lockkeeper SRAM no longer reads (R135); `toServe` those to place
in service afterwards; `retried` those whose calibration disagreed once (R262). -/
structure Boot where
  inReset : Bool := true
  flash : NMap Byte := []
  ident : Ident := {}
  fw : Option Container := none
  cfg : Option Container := none
  fwAFailed : Bool := false
  cfgAFailed : Bool := false
  tenderCode : List Byte := []
  tenderDigest : List Byte := []
  tenderBad : Bool := false
  regWrites : List (Nat × Nat) := []
  sirin : List Byte := []
  mgmt : List Byte := []
  pwRead : List Byte := []
  pwWrite : List Byte := []
  trained : List Nat := []
  toMargin : List Nat := []
  toCal : List Nat := []
  toServe : List Nat := []
  retried : List Nat := []
  deriving DecidableEq, Repr

/-- Power states and throttling (R403, R404): the state HALTED returns to, a wake whose calibration is
still to come, the thermal level of each quarter, the power level, the instant a level left 0; the times of the last thermal and power
ticks; since when, plus 1, every temperature of a quarter, or the input power under key 4, has been low; when a temperature was last
at or above T_CRIT − 10 °C. -/
structure Power where
  prev : Nat := 0
  waking : Bool := false
  thermal : NMap Nat := []
  power : Nat := 0
  since : Nat := 0
  thermAt : Nat := 0
  powerAt : Nat := 0
  calm : NMap Nat := []
  hotAt : Nat := 0
  deriving DecidableEq, Repr

/-- The counter reader (R423 to R425): sweeps completed, and the sweep under way with its start, groups
and slot. -/
structure Sweep where
  done : Nat := 0
  running : Option (Nat × Nat × Nat) := none
  deriving DecidableEq, Repr

/-- One window channel (R426). -/
structure WinCh where
  cnt : Nat := 0
  last : Nat := 0
  peak : Nat := 0
  deriving DecidableEq, Repr

/-- The windowed byte counters (R426): channels, the start of the window in progress (none between a
write of CTR_WIN_CFG and the next multiple), and the index of the window of LAST. -/
structure Windows where
  chans : NMap WinCh := []
  start : Option Nat := some 0
  idx : Nat := 0
  deriving DecidableEq, Repr

/-- The state of the block. `memCe` and `memCeAt` hold, by memory, the errors corrected since the last MEM_CORRECTED and the
time of that event plus 1 (R294). -/
structure State where
  regs : NMap Word := []
  shadows : NMap Word := []
  latches : NMap Word := []
  arrays : NMap Arr := []
  cores : NMap Core := []
  pgmQueue : List Nat := []
  mem : NMap Byte := []
  host : NMap Byte := []
  poison : List Nat := []
  memCe : NMap Nat := []
  memCeAt : NMap Nat := []
  ev : EventRing := {}
  reqs : NMap Request := []
  nextReq : Nat := 1
  nextBatch : Nat := 1
  bound : NMap Nat := []
  pounds : NMap Pound := []
  queues : NMap Queue := []
  rrLast : Nat := 0
  expBroken : Bool := false
  ctxs : NMap Ctx := []
  models : NMap Model := []
  adps : NMap AdpSlot := []
  adpClock : Nat := 0
  adpGoal : Nat := 0
  ctrs : NMap Quad := []
  sweep : Sweep := {}
  wins : Windows := {}
  net : Net := {}
  tal : Tal := {}
  tb : TimeBase := {}
  ports : Ports := {}
  mons : NMap Mon := []
  stale : List Nat := []
  recs : RecStore := {}
  boot : Boot := {}
  pwr : Power := {}
  time : Nat := 0
  free : Nat := 0
  tx : List Tx := []
  pending : List Instr := []
  deriving DecidableEq, Repr

/-- The device held in reset (R392): every register at its reset value, no memory listed, no command
waiting. RESET_RELEASE starts it. -/
def State.reset : State := {}

/-- What a command answers. -/
abbrev Out := Host.Outcome State Fault Refusal

end Sys2Proof.Machine
end

