-- ==== Sys2Proof/Machine/Ops.lean ====
section
/-! DEFINITION. The named operations every meaning is built from: registers (R10), events (R322, R323),
counters (R419), memories and blocks (R115, R287 to R294), and the accessors of the sparse tables. -/
namespace Sys2Proof.Machine
open Sys2Proof

/-! ### Registers -/

/-- The word stored for a register (R10); index `i` of the block, `k` of the run. -/
def State.rd (s : State) (r : Reg) (i : Nat := 0) (k : Nat := 0) : Nat :=
  (s.regs.get (BitVec.ofNat 32 (r.reset i k)) (r.addr i k)).toNat

/-- Store a register's word. -/
def State.wr (s : State) (r : Reg) (i k v : Nat) : State :=
  { s with regs := s.regs.set (BitVec.ofNat 32 (r.reset i k)) (r.addr i k) (BitVec.ofNat 32 v) }

/-- Field [hi:lo] of a stored register. -/
def State.rf (s : State) (r : Reg) (i hi lo : Nat) : Nat := fld (s.rd r i) hi lo

/-- One bit of a stored register. -/
def State.rb (s : State) (r : Reg) (i b : Nat) : Bool := bit (s.rd r i) b

/-- Set bits of a register: sticky event flags (R10). -/
def State.flag (s : State) (r : Reg) (i bits : Nat) : State := s.wr r i 0 (s.rd r i ||| bits)

/-- Replace a field of a register. -/
def State.wf_ (s : State) (r : Reg) (i hi lo v : Nat) : State := s.wr r i 0 (putFld (s.rd r i) hi lo v)

/-- Add to a count register, saturating at 0xFFFF_FFFF. -/
def State.bump (s : State) (r : Reg) (i n : Nat) : State := s.wr r i 0 (satTo 0xFFFFFFFF (s.rd r i + n))

/-- The address a LO/HI register pair holds, as bits 36:0. -/
def State.rdPair (s : State) (lo hi : Reg) (i : Nat := 0) : Nat := s.rd lo i + 2 ^ 32 * s.rd hi i

/-! ### Accessors -/

/-- One core. -/
def State.core (s : State) (c : Nat) : Core := s.cores.get {} c
/-- Replace one core. -/
def State.setCore (s : State) (c : Nat) (x : Core) : State := { s with cores := s.cores.set {} c x }
/-- Change one core. -/
def State.modCore (s : State) (c : Nat) (f : Core → Core) : State := s.setCore c (f (s.core c))

/-- The number of a core's physical array slot. -/
def arrId (c sl : Nat) : Nat := 17 * c + sl
/-- One array. -/
def State.arr (s : State) (a : Nat) : Arr := s.arrays.get {} a
/-- Replace one array. -/
def State.setArr (s : State) (a : Nat) (x : Arr) : State := { s with arrays := s.arrays.set {} a x }
/-- Change one array. -/
def State.modArr (s : State) (a : Nat) (f : Arr → Arr) : State := s.setArr a (f (s.arr a))

/-- The physical slot of a logical array (R144). -/
def Core.slotOf (x : Core) (l : Nat) : Nat := x.slotMap.get l l
/-- The array that holds logical array `l` of core `c`. -/
def State.larr (s : State) (c l : Nat) : Nat := arrId c ((s.core c).slotOf l)
/-- The logical array a physical slot holds, none for the spare or a retired slot. -/
def Core.logicalOf (x : Core) (sl : Nat) : Option Nat := (List.range 16).find? (fun l => x.slotOf l = sl)

/-- One request. -/
def State.req (s : State) (i : Nat) : Request := s.reqs.get {} i
/-- Replace one request. -/
def State.setReq (s : State) (i : Nat) (x : Request) : State := { s with reqs := s.reqs.set {} i x }
/-- Change one request. -/
def State.modReq (s : State) (i : Nat) (f : Request → Request) : State := s.setReq i (f (s.req i))

/-- One pound, by its first core. -/
def State.pound (s : State) (p : Nat) : Pound := s.pounds.get {} p
/-- Replace one pound. -/
def State.setPound (s : State) (p : Nat) (x : Pound) : State := { s with pounds := s.pounds.set {} p x }
/-- Change one pound. -/
def State.modPound (s : State) (p : Nat) (f : Pound → Pound) : State := s.setPound p (f (s.pound p))

/-- One queue pair. -/
def State.queue (s : State) (q : Nat) : Queue := s.queues.get {} q
/-- Replace one queue pair. -/
def State.setQueue (s : State) (q : Nat) (x : Queue) : State := { s with queues := s.queues.set {} q x }
/-- Change one queue pair. -/
def State.modQueue (s : State) (q : Nat) (f : Queue → Queue) : State := s.setQueue q (f (s.queue q))

/-- One stream context. -/
def State.ctx (s : State) (i : Nat) : Ctx := s.ctxs.get {} i

/-- One model. -/
def State.model (s : State) (m : Nat) : Model := s.models.get {} m
/-- Replace one model. -/
def State.setModel (s : State) (m : Nat) (x : Model) : State := { s with models := s.models.set {} m x }
/-- Change one model. -/
def State.modModel (s : State) (m : Nat) (f : Model → Model) : State := s.setModel m (f (s.model m))

/-- One adapter pool slot. -/
def State.adp (s : State) (i : Nat) : AdpSlot := s.adps.get {} i
/-- Replace one adapter pool slot. -/
def State.setAdp (s : State) (i : Nat) (x : AdpSlot) : State := { s with adps := s.adps.set {} i x }

/-- The next free value of the run, and the state with the counter advanced. -/
def State.fresh (s : State) : Nat × State := (Config.freeValue s.free, { s with free := s.free + 1 })

/-- Something leaves a port. -/
def State.send (s : State) (x : Tx) : State := { s with tx := s.tx ++ [x] }

/-! ### Power states -/

/-- PWR_STATUS.STATE (R417). -/
def State.pwrState (s : State) : Nat := s.rf .pwrStatus 0 2 0

/-- The engines of the device run: out of reset and in none of HALTED, POWER_FAIL, BOOT_FAILED (R403). -/
def State.alive (s : State) : Bool := !s.boot.inReset && s.pwrState < 3

/-- READY or IDLE: start-up is over (R396). -/
def State.up (s : State) : Bool := !s.boot.inReset && (s.pwrState = 1 || s.pwrState = 2)

/-- Entries may issue: READY, and no wake calibration outstanding (R403). -/
def State.issues (s : State) : Bool := !s.boot.inReset && s.pwrState = 1 && !s.pwr.waking

/-- The block answers an access on a path (R435): the boot and power blocks alone in BOOT_FAILED,
HALTED and POWER_FAIL; nothing before PCIe and the management port are up (R395). -/
def State.answers (s : State) (p : Path) (b : Blk) : Bool :=
  let own : Bool := decide (b = .boot) || decide (b = .pwr)
  let st := s.pwrState
  if p = .lkp then true
  else if s.boot.inReset then false
  else if st = 0 then decide (4 ≤ s.rf .bootStatus 0 3 0)
  else if st = 3 then own
  else if st = 4 then own && decide (p = .pcie) && s.rb .pciStatus 0 0
  else if st = 5 then own && decide (p = .pcie)
  else true

/-- Act on a command that reached a block which answers (R435). -/
def State.asked (s : State) (p : Path) (b : Blk) (f : State → State) : State := if s.answers p b then f s else s

/-- Return one word on a path; a block that does not answer reads 0 (R435). -/
def State.reply (s : State) (p : Path) (v : Nat) : State := s.send (.data p [BitVec.ofNat 32 v] false)

/-! ### Counters -/

/-- Add to a 64-bit counter, modulo 2^64 (R419). -/
def State.count (s : State) (blk k n : Nat) : State :=
  { s with ctrs := s.ctrs.set 0 (ctrId blk k) (s.ctrs.get 0 (ctrId blk k) + BitVec.ofNat 64 n) }

/-! ### Events -/

/-- Records held at most by the ring (R323). -/
def ringSize : Nat := 4096

/-- Put a record into the ring: a free place, else the place of the oldest record of at most its
severity; none when there is no such record (R323). -/
def ringPut (ring : List (Nat × Event)) (x : Nat × Event) : Option (List (Nat × Event)) :=
  if ring.length < ringSize then some (ring ++ [x])
  else match ring.findIdx? (fun y => y.2.sev ≤ x.2.sev) with
    | some i => some (eraseAt ring i ++ [x])
    | none => none

/-- Append to the persistent log: the newest 128 records of severity Error and above (R411). -/
def RecStore.logged (r : RecStore) (e : Event) : RecStore :=
  if 2 ≤ e.sev then
    { r with log := (r.log ++ [e]).drop (r.log.length - 127), dirty := if r.dirty.contains 1 then r.dirty else 1 :: r.dirty }
  else r

/-- Number one record, offer it to the ring and to the datagram path (R323, R324). -/
def State.record (s : State) (e : Event) : State :=
  let e := { e with time := s.time }
  let cfg := s.rd .chkEvtCfg
  let wait := if bit cfg 0 && fld cfg 2 1 ≤ e.sev then s.ev.waiting ++ [(s.ev.seq, e)] else s.ev.waiting
  let s0 := s.count ctrIo 8 1
  let s1 : State := { s0 with recs := s.recs.logged e, tx := if 1 ≤ e.sev then s.tx ++ [.line e] else s.tx }
  match ringPut s.ev.ring (s.ev.seq, e) with
  | some r => { s1 with ev := { s.ev with seq := s.ev.seq + 1, ring := r, waiting := wait } }
  | none =>
    (({ s1 with ev := { s.ev with seq := s.ev.seq + 1, lostSince := s.ev.lostSince + 1, waiting := wait } } : State).bump
      .chkEvtLost 0 1).count ctrIo 9 1

/-- Raise an event; after drops, the next record the ring takes is followed by EVENTS_LOST (R323). -/
def State.raise (s : State) (e : Event) : State :=
  let before := s.ev.lostSince
  let s1 := s.record e
  if 0 < before && s1.ev.lostSince = before then
    ({ s1 with ev := { s1.ev with lostSince := 0 } } : State).record
      { code := 0x300F, sev := 1, detail := before }
  else s1

/-- An event of a core with no slot (R322). -/
def evCore (code sev c detail : Nat) : Event :=
  { code := code, sev := sev, locType := 1, loc := c + 0x1F00, detail := detail }

/-- An event of an array: core and physical slot in the location (R61, R322). -/
def evArr (code sev a detail : Nat) : Event :=
  { code := code, sev := sev, locType := 1, loc := a / 17 + 256 * (a % 17), detail := detail }

/-- An event of the device as a whole. -/
def evDev (code sev detail : Nat) : Event := { code := code, sev := sev, detail := detail }

/-- An event of an interface: logical port, or 0x10 for PCIe (R391). -/
def evIf (code sev port detail : Nat) : Event :=
  { code := code, sev := sev, locType := 5, loc := port, detail := detail }

/-- An event of a model (R254). -/
def evModel (code sev model detail : Nat) : Event :=
  { code := code, sev := sev, locType := 3, loc := model, detail := detail }

/-- An event of a queue pair (R222). -/
def evQueue (code sev q detail : Nat) : Event :=
  { code := code, sev := sev, locType := 4, loc := q, detail := detail }

/-- A Sirin event: the peer in LOCATION (R391). -/
def evPeer (code sev peer detail : Nat) : Event :=
  { code := code, sev := sev, locType := 5, loc := peer, detail := detail }

/-- The event with a stream and a step. -/
def Event.withStream (e : Event) (sv : Bool) (stream step : Nat) : Event :=
  { e with svalid := sv, stream := if sv then stream else 0xFFFF, step := step }

/-- The 32 bytes of an event record (R322). -/
def Event.bytes (e : Event) : List Byte :=
  leBytes 8 e.time ++ leBytes 2 e.code ++ leBytes 1 e.sev ++ leBytes 1 (e.locType + 16 * b2n e.svalid) ++
  leBytes 2 e.loc ++ leBytes 2 e.stream ++ leBytes 8 e.step ++ leBytes 8 e.detail

/-- The access path as event details carry it (R439). -/
def Path.num : Path → Nat
  | .pcie => 0 | .mgmt => 1 | .lkp => 2

/-- Discard a write with CFG_WRITE_IGNORED and its cause (R13, R437, R439). -/
def State.ignored (s : State) (p : Path) (addr cause : Nat) : State :=
  (((s.flag .lkpCsEvent 0 1).bump .lkpCsIgnoredCount 0 1).wr .lkpCsIgnoredLast 0 0 addr).raise
    (evDev 0x0101 1 (addr + 2 ^ 32 * Path.num p + 2 ^ 40 * cause))

/-! ### Device and host memory -/

/-- Usable device memory in bytes (R384, R437). -/
def State.usable (s : State) : Nat := 4096 * s.rd .lkpMemUsable

/-- The base of the manifest store: the highest 4 KiB boundary at or below 256/257 of the usable
capacity (R289). -/
def State.mstore (s : State) : Nat := s.usable * 256 / 257 / 4096 * 4096

/-- A structure lies wholly in block space (R289). -/
def State.inBlocks (s : State) (a n : Nat) : Bool := a + n ≤ s.mstore

/-- `n` bytes of device memory, whatever their code says. -/
def State.bytesAt (s : State) (a n : Nat) : List Byte := (List.range n).map (fun i => s.mem.get 0 (a + i))

/-- `n` bytes of host memory. -/
def State.hostBytes (s : State) (a n : Nat) : List Byte := (List.range n).map (fun i => s.host.get 0 (a + i))

/-- Write bytes into a sparse memory, lowest address first. -/
def storeBytes (m : NMap Byte) (a : Nat) : List Byte → NMap Byte
  | [] => m
  | b :: bs => storeBytes (m.set 0 a b) (a + 1) bs

/-- Some 64-byte line under a range is marked (R294). -/
def State.poisoned (s : State) (a n : Nat) : Bool := s.poison.any (fun l => a < 64 * l + 64 && 64 * l < a + n)

/-- Write device memory; a full write of a line clears its mark (R294). -/
def State.putMem (s : State) (a : Nat) (bs : List Byte) : State :=
  { s with mem := storeBytes s.mem a bs,
           poison := s.poison.filter (fun l => !(a ≤ 64 * l && 64 * l + 64 ≤ a + bs.length)) }

/-- Write host memory. -/
def State.putHost (s : State) (a : Nat) (bs : List Byte) : State := { s with host := storeBytes s.host a bs }

/-- Read a structure of block space; none when it lies outside or its memory code fails (R289, R294). -/
def State.readDev (s : State) (a n : Nat) : Option (List Byte) :=
  if s.inBlocks a n && !s.poisoned a n then some (s.bytesAt a n) else none

/-- The PCIe link is up (R382). -/
def State.pcieUp (s : State) : Bool := s.rb .pciStatus 0 0

/-- Bus mastering is enabled, so DMA can run (R382). -/
def State.dmaUp (s : State) : Bool := s.pcieUp && s.rb .pciStatus 0 8

/-- Read a structure in the space an address names (R153). -/
def State.readAny (s : State) (isHost : Bool) (a n : Nat) : Option (List Byte) :=
  if isHost then if s.dmaUp then some (s.hostBytes a n) else none else s.readDev a n

/-- The memory controller of a device address (R384). -/
def ctlOf (a : Nat) : Nat := a / 4096 % 4

/-- An uncorrectable error met by a read: counted and reported (R294). `m` is the memory's number. -/
def State.ueEvent (s : State) (m where_ : Nat) : State :=
  (s.bump .chkMemUeCount 0 1).raise
    { code := 0x4003, sev := 2, locType := 6, loc := m, detail := m + 256 * where_ }

/-- A read of a structure at `a` that meets an uncorrectable error of device memory is counted and reported (R294). -/
def State.ueRead (s : State) (isHost : Bool) (a n : Nat) : State :=
  if !isHost && s.inBlocks a n && s.poisoned a n then s.ueEvent (ctlOf a) a else s

/-! ### Blocks and manifests -/

/-- Bytes in a block. -/
def blk : Nat := 4096

/-- The 12 bytes of a manifest that its CRC covers (R287). -/
def Manifest.head (m : Manifest) : List Byte :=
  leBytes 3 m.tensor ++ leBytes 3 m.index ++ leBytes 2 m.tag ++ leBytes 4 m.version

/-- The 16 bytes of a manifest (R287). -/
def Manifest.bytes (m : Manifest) : List Byte := m.head ++ leBytes 4 m.crc

/-- A manifest read from its 16 bytes (R287). -/
def Manifest.ofBytes (bs : List Byte) : Manifest :=
  ⟨leAt bs 0 3, leAt bs 3 3, leAt bs 6 2, leAt bs 8 4, leAt bs 12 4⟩

/-- The manifest with the CRC of its block (R288). -/
def Manifest.seal (m : Manifest) (data : List Byte) : Manifest := { m with crc := crc32c (data ++ m.head) }

/-- The CRC of a block holds (R288). -/
def Manifest.crcOk (m : Manifest) (data : List Byte) : Bool := crc32c (data ++ m.head) = m.crc

/-- The tensor ID that marks a failed block (R292). -/
def failMark : Nat := 0xFFFFFF

/-- What a reader expects of a block's manifest (R110, R194); none means not checked. -/
structure Expect where
  tensor : Option Nat := none
  index : Option Nat := none
  version : Option Nat := none
  tag : Option Nat := none
  deriving DecidableEq, Repr

/-- The first check a block fails, in the order of R291; 0 when it passes. -/
def checkBlock (data : List Byte) (m : Manifest) (e : Expect) : Nat :=
  if !m.crcOk data then 1
  else if m.tensor = failMark then 2
  else if e.tensor.any (· ≠ m.tensor) then 3
  else if e.index.any (· ≠ m.index) then 4
  else if e.version.any (· ≠ m.version) then 5
  else if e.tag.any (· ≠ m.tag) then 6
  else 0

/-- A block as read: data and manifest. -/
abbrev BlockRd := List Byte × Manifest

/-- The manifest of a device-memory block (R289). -/
def State.devMan (s : State) (a : Nat) : Manifest := Manifest.ofBytes (s.bytesAt (s.mstore + 16 * (a / blk)) 16)

/-- A block of device memory with its manifest; none outside block space or on a marked line. -/
def State.devBlock (s : State) (a : Nat) : Option BlockRd :=
  match s.readDev a blk with
  | some d => if s.poisoned (s.mstore + 16 * (a / blk)) 16 then none else some (d, s.devMan a)
  | none => none

/-- Block `i` of a run of `n` host blocks with its manifest behind the run (R289). -/
def State.hostBlock (s : State) (a n i : Nat) : Option BlockRd :=
  if s.dmaUp then some (s.hostBytes (a + blk * i) blk, Manifest.ofBytes (s.hostBytes (a + blk * n + 16 * i) 16))
  else none

/-- Write a block and its manifest to device memory, the manifest last (R115, R289). -/
def State.putBlock (s : State) (a : Nat) (d : List Byte) (m : Manifest) : State :=
  (s.putMem a (padTo blk d)).putMem (s.mstore + 16 * (a / blk)) m.bytes

/-- Write block `i` of a run of `n` host blocks and its manifest. -/
def State.putHostBlock (s : State) (a n i : Nat) (d : List Byte) (m : Manifest) : State :=
  (s.putHost (a + blk * i) (padTo blk d)).putHost (a + blk * n + 16 * i) m.bytes

/-- `n` bytes of a core's activation buffer at byte `a`. -/
def Core.actBytes (x : Core) (a n : Nat) : List Byte := (List.range n).map (fun i => x.act.get 0 (a + i))

/-- Activation block `b` (modulo 256, R116) of a core with its manifest. -/
def Core.actBlock (x : Core) (b : Nat) : BlockRd :=
  (x.actBytes (b % 256 * blk) blk, (x.side.get {} (b % 256)).man)

/-- Some 64-bit word of an activation block is marked (R294). -/
def Core.actPoisoned (x : Core) (b : Nat) : Bool := x.poison.any (fun w => w / 512 = b % 256)

/-- Write a whole activation block, data first and the manifest last; PEND is cleared (R115, R292). -/
def Core.putAct (x : Core) (b : Nat) (d : List Byte) (m : Manifest) : Core :=
  { x with act := storeBytes x.act (b % 256 * blk) (padTo blk d),
           side := x.side.set {} (b % 256) ⟨m, false⟩,
           poison := x.poison.filter (fun w => w / 512 ≠ b % 256) }

/-- Set or clear the PEND bit of an activation block (R292). -/
def Core.setPend (x : Core) (b : Nat) (p : Bool) : Core :=
  { x with side := x.side.set {} (b % 256) { x.side.get {} (b % 256) with pend := p } }

/-- Write a block into the activation buffer of a core. -/
def State.putAct (s : State) (c b : Nat) (d : List Byte) (m : Manifest) : State :=
  (s.modCore c (fun x => x.putAct b d m)).count c 42 blk

/-- Report a manifest failure of a device-memory block (R291, R327). -/
def State.manFailDev (s : State) (a cause : Nat) : State :=
  s.raise { code := 0x4001, sev := 2, locType := 6, loc := ctlOf a, detail := cause + 256 * a }

/-- The first of `n` blocks of device memory that cannot be read with a sound manifest: its address and the cause of R291, 0 for the
memory code or an address outside block space. -/
def State.badBlock (s : State) (a n : Nat) : Option (Nat × Nat) :=
  (List.range n).findSome? (fun i => match s.devBlock (a + blk * i) with
    | none => some (a + blk * i, 0)
    | some (d, m) => if checkBlock d m {} = 0 then none else some (a + blk * i, checkBlock d m {}))

/-- Report a block of device memory that failed at a read (R291, R294). -/
def State.reportBad (s : State) (a cause : Nat) : State := if cause = 0 then s.ueRead false a blk else s.manFailDev a cause

/-- Fold a state-changing step over a list. -/
def State.each {α : Type} (s : State) (xs : List α) (f : State → α → State) : State := xs.foldl f s

end Sys2Proof.Machine
end

