-- ==== Sys2Proof/Machine/PlaceOps.lean ====
section
/-! DEFINITION. Looking up what an installed image places on an array (R183, R224, R226, R229). -/
namespace Sys2Proof.Machine
open Sys2Proof

/-- Output columns of a column set (R183). -/
def Placement.nS (p : Placement) : Nat := if p.w7 then 256 else 512

/-- A section of an image by type and key (R224, R225). -/
def Image.sect (img : Image) (typ key : Nat) : Option Section := img.sects.find? (fun x => x.typ = typ && x.key = key)

/-- Block `i` of a section in device memory; none when it cannot be read. -/
def State.sectBlock (s : State) (img : Image) (x : Section) (i : Nat) : Option BlockRd := s.devBlock (img.base + x.off + blk * i)

/-- The data bytes of block `i` of a section when the block reads with a sound manifest (R288, R291). -/
def State.sectData (s : State) (img : Image) (typ key i : Nat) : Option (List Byte) :=
  match img.sect typ key with
  | some x =>
    match s.sectBlock img x i with
    | some (d, m) => if checkBlock d m {} = 0 then some d else none
    | none => none
  | none => none

/-- The image a model binds new requests to, and whether its reference copy is present: the cut of a lock is
its acceptance, and for a twin the switch (R236). -/
def Model.issueImg (m : Model) : Option (Image × Bool) :=
  let old := m.cur.map (fun i => (i, m.refCur))
  let new := m.next.map (fun i => (i, m.refNext))
  match m.next with
  | none => old
  | some i => if i.twin && m.tst = .fillB then old else new

/-- The issue version (R236); 0 when there is none. -/
def Model.issue (m : Model) : Nat := (m.issueImg.map (fun p => p.1.version)).getD 0

/-- The image of a model at a version, and whether its reference copy is present (R229, R239). -/
def Model.imgAt (m : Model) (v : Nat) : Option (Image × Bool) :=
  match m.next with
  | some i => if i.version = v then some (i, m.refNext) else
      m.cur.bind (fun c => if c.version = v then some (c, m.refCur) else none)
  | none => m.cur.bind (fun c => if c.version = v then some (c, m.refCur) else none)

/-- The layers a lock to this image keeps as they are (R225). -/
def Image.carried (i : Image) : List Nat := (i.sects.filter (fun x => x.typ = 12)).map (·.key)

/-- A grid entry's core in copy A or copy B of a twin (R244). -/
def Image.onCore (img : Image) (e : GridEntry) (c : Nat) : Bool := e.core = c || (img.twin && e.core + img.twinDelta = c)

/-- The placement, grid index and grid entry that put a tile on an array, among the layers of a set (R226,
R251). -/
def Image.gridAt (img : Image) (set c l : Nat) : Option (Placement × Nat × GridEntry) :=
  img.layers.findSome? (fun p =>
    if img.reload && p.set ≠ set then none
    else (p.grid.zipIdx.find? (fun (e, _) => e.larr = l && img.onCore e c)).map (fun (e, t) => (p, t, e)))

/-- What holds an array: model, image, whether its reference copy is present, and its grid entry. -/
structure Holder where
  model : Nat
  img : Image
  ref : Bool
  pl : Placement
  idx : Nat
  ent : GridEntry
  deriving DecidableEq, Repr

/-- The holders of logical array `l` of a core among the models' images. -/
def State.holders (s : State) (c l : Nat) : List Holder :=
  s.models.flatMap (fun (n, m) =>
    let one (o : Option Image) (ref : Bool) (set : Nat) : List Holder :=
      match o with
      | some img => match img.gridAt set c l with
        | some (p, t, e) => [⟨n, img, ref, p, t, e⟩]
        | none => []
      | none => []
    one m.cur m.refCur m.set ++ one m.next m.refNext m.nextSet)

/-- The holder whose version physical array `a` carries (R48), else the first. -/
def State.holder (s : State) (c l a : Nat) : Option Holder :=
  let hs := s.holders c l
  (hs.find? (fun h => h.img.version = s.rd .arrVersion a)).orElse (fun _ => hs.head?)

/-- The column set of a holder: the logical arrays of one core that hold its slices, with their grid
indices (R183). -/
def Holder.setArrays (h : Holder) (c : Nat) : List (Nat × Nat) :=
  (h.pl.grid.zipIdx.filter (fun (e, _) => e.setJ = h.ent.setJ && h.img.onCore e c)).map (fun (e, t) => (e.larr, t))

/-- The lowest logical array of a list. -/
def minArr (xs : List (Nat × Nat)) : Nat := (xs.map (·.1)).foldl min 15

end Sys2Proof.Machine
end

