-- ==== Sys2Proof/Machine/Sha.lean ====
section
/-! DEFINITION. SHA-256 (FIPS 180-4) and HMAC-SHA-256 (RFC 2104), the digests the spec names. -/
namespace Sys2Proof.Sha

/-- Rotate right. -/
def rotr (x : Word) (n : Nat) : Word := (x >>> n) ||| (x <<< (32 - n))

/-- The eight 32-bit words of a 256-bit row, the most significant first. -/
def rowWords (r : Nat) : List Word := (List.range 8).map (fun i => BitVec.ofNat 32 (r >>> (224 - 32 * i)))

/-- The 64 round constants, eight to a row: the first 32 fraction bits of the cube roots of the first 64 primes. -/
def kRows : List Nat :=
  [0x428a2f9871374491b5c0fbcfe9b5dba53956c25b59f111f1923f82a4ab1c5ed5] ++
  [0xd807aa9812835b01243185be550c7dc372be5d7480deb1fe9bdc06a7c19bf174] ++
  [0xe49b69c1efbe47860fc19dc6240ca1cc2de92c6f4a7484aa5cb0a9dc76f988da] ++
  [0x983e5152a831c66db00327c8bf597fc7c6e00bf3d5a7914706ca635114292967] ++
  [0x27b70a852e1b21384d2c6dfc53380d13650a7354766a0abb81c2c92e92722c85] ++
  [0xa2bfe8a1a81a664bc24b8b70c76c51a3d192e819d6990624f40e3585106aa070] ++
  [0x19a4c1161e376c082748774c34b0bcb5391c0cb34ed8aa4a5b9cca4f682e6ff3] ++
  [0x748f82ee78a5636f84c878148cc7020890befffaa4506cebbef9a3f7c67178f2]

/-- The round constants in order. -/
def kTable : List Word := kRows.flatMap rowWords

/-- The initial hash value: the first 32 fraction bits of the square roots of the first eight primes. -/
def init : List Word := rowWords 0x6a09e667bb67ae853c6ef372a54ff53a510e527f9b05688c1f83d9ab5be0cd19

/-- The message schedule, newest word first, grown by one word. -/
def grow (w : List Word) : List Word :=
  let g (i : Nat) : Word := w.getD i 0
  let s0 := rotr (g 14) 7 ^^^ rotr (g 14) 18 ^^^ (g 14 >>> 3)
  let s1 := rotr (g 1) 17 ^^^ rotr (g 1) 19 ^^^ (g 1 >>> 10)
  (g 15 + s0 + g 6 + s1) :: w

/-- A number of growth steps. -/
def growN : Nat → List Word → List Word
  | 0, w => w
  | n + 1, w => growN n (grow w)

/-- One round on the eight working variables. -/
def round (v : List Word) (kw : Word × Word) : List Word :=
  match v with
  | [a, b, c, d, e, f, g, h] =>
    let t1 := h + (rotr e 6 ^^^ rotr e 11 ^^^ rotr e 25) + ((e &&& f) ^^^ (~~~e &&& g)) + kw.1 + kw.2
    let t2 := (rotr a 2 ^^^ rotr a 13 ^^^ rotr a 22) + ((a &&& b) ^^^ (a &&& c) ^^^ (b &&& c))
    [t1 + t2, a, b, c, d + t1, e, f, g]
  | _ => v

/-- The words of a 64-byte block. -/
def words (bs : List Byte) : List Word := (chunks 4 16 bs).map (fun c => BitVec.ofNat 32 (beNat c))

/-- Absorb one block. -/
def absorb (h : List Word) (bs : List Byte) : List Word :=
  let w := (growN 48 (words bs).reverse).reverse
  List.zipWith (· + ·) h ((kTable.zip w).foldl round h)

/-- The padded message. -/
def padded (bs : List Byte) : List Byte :=
  bs ++ [0x80] ++ List.replicate ((119 - bs.length % 64) % 64) 0 ++ beBytes 8 (8 * bs.length)

/-- SHA-256 of a byte list: 32 bytes. -/
def sha256 (bs : List Byte) : List Byte :=
  let m := padded bs
  ((chunks 64 (m.length / 64) m).foldl absorb init).flatMap (fun w => beBytes 4 w.toNat)

/-- HMAC-SHA-256. -/
def hmac (key msg : List Byte) : List Byte :=
  let k := padTo 64 (if 64 < key.length then sha256 key else key)
  sha256 (k.map (· ^^^ 0x5c) ++ sha256 (k.map (· ^^^ 0x36) ++ msg))

end Sys2Proof.Sha
end

