-- ==== Sys2Proof/Machine/RecOps.lean ====
section
/-! DEFINITION. Storing a page of the record store (R409, R411, R413). -/
namespace Sys2Proof.Machine
open Sys2Proof

/-- The page of an array's record: 64 records of 64 bytes a page from page 4 (R411). -/
def arrPage (a : Nat) : Nat := 4 + a / 64

/-- The state an array's record shows: a queued job leaves it at the previous state (R47). -/
def Arr.recSt (x : Arr) : ArrSt :=
  match x.job with
  | some j => if j.queued then j.prev else x.st
  | none => x.st

/-- The record of an array as it stands (R411). -/
def State.arrRec (s : State) (a : Nat) : ArrRec :=
  { arr := a, st := (s.arr a).recSt, rows := (List.range 8).map (s.rd .arrRowMap a ·),
    cols := (List.range 2).map (s.rd .arrColMap a ·), scale := s.rd .arrCheckScale a,
    count := s.rd .arrPgmCount a, version := s.rd .arrVersion a }

/-- The record of a core as it stands (R411). -/
def State.coreRec (s : State) (c : Nat) : CoreRec :=
  let x := s.core c
  { core := c, slots := x.slotMap, spare := x.spare, noSpare := x.noSpare, retired := x.retired,
    lastLogical := x.lastLogical, failed := x.failedCore, rotating := x.rotating }

/-- The contents of a page as they stand (R411). -/
def State.payload (s : State) (page : Nat) : Payload :=
  if page = 0 then .system s.recs.hours s.recs.starts (s.rd .ethSrnEpoch) s.recs.readPw s.recs.writePw
  else if page = 1 then .log s.recs.log
  else if page = 2 then .locks s.models
  else if page = 3 then .jobs s.recs.jobs
  else if page < 38 then
    .arrays (((List.range 64).map (64 * (page - 4) + ·)).filter (· < 2176) |>.map s.arrRec)
  else if page = 38 then .cores ((List.range 128).map s.coreRec)
  else .bytes (s.recs.user.filter (fun e => e.1 / 4096 = page))

/-- One shadow slot of a page. -/
def State.slot (s : State) (page i : Nat) : Option PageSlot := s.recs.slots.get none (2 * page + i)

/-- A slot that recall reads: valid and not retired (R409, R413). -/
def State.slotOk (s : State) (page i : Nat) : Bool :=
  !s.recs.retired.contains (2 * page + i) && (s.slot page i).any (·.ok)

/-- The slot that holds the page's newer valid copy (R409, R410); none when neither is valid. -/
def State.newer (s : State) (page : Nat) : Option Nat :=
  let q (i : Nat) : Nat := ((s.slot page i).map (·.seq)).getD 0
  let d := u32 (q 1 + 2 ^ 32 - q 0)
  if s.slotOk page 0 then
    if s.slotOk page 1 then if 1 ≤ d && d < 2 ^ 31 then some 1 else some 0 else some 0
  else if s.slotOk page 1 then some 1 else none

/-- The slot and SEQ a store of the page uses (R409, R413). -/
def State.storeTarget (s : State) (page : Nat) : Nat × Nat :=
  match s.newer page with
  | some i =>
    let n := u32 (((s.slot page i).map (·.seq)).getD 0 + 1)
    if s.recs.retired.contains (2 * page + (1 - i)) then (i, n) else (1 - i, n)
  | none => if s.recs.retired.contains (2 * page) then (1, 1) else (0, 1)

/-- Store one page: the slot, its SEQ and the wear events of R413. -/
def State.storePage (s : State) (page : Nat) : State :=
  let (i, n) := s.storeTarget page
  let s1 : State := { s with recs := { s.recs with
    slots := s.recs.slots.set none (2 * page + i) (some ⟨n, true, false, s.payload page⟩),
    dirty := s.recs.dirty.filter (· ≠ page), kept := if page = 2 then s.models else s.recs.kept } }
  let s2 := if 18000000 < n && !s1.recs.wearRaised.contains page then
      ({ s1 with recs := { s1.recs with wearRaised := page :: s1.recs.wearRaised } } : State).raise
        (evDev 0x7008 1 (page + 2 ^ 32 * n))
    else s1
  if s.recs.retired.contains (2 * page) || s.recs.retired.contains (2 * page + 1) then
    s2.raise (evDev 0x7009 2 (page + 256 * b2n (s.recs.retired.contains (2 * page + 1))))
  else s2

/-- Mark a page dirty (R411). -/
def State.touch (s : State) (page : Nat) : State :=
  if s.recs.dirty.contains page then s
  else { s with recs := { s.recs with dirty := page :: s.recs.dirty } }

/-- The array's record changed at the start or end of a job: its page is stored, or shares a store of the
page that runs (R411); a rotation job's record is only marked (R305). -/
def State.storeArr (s : State) (a : Nat) (rotation : Bool) : State :=
  if rotation || s.recs.storing.contains (arrPage a) then s.touch (arrPage a) else s.storePage (arrPage a)

/-- REC_STATUS.BUSY: recall or a store in progress (R417). -/
def RecStore.busy (r : RecStore) : Bool := !r.recalled || r.run.isSome

/-- Dirty pages in ascending order. -/
def RecStore.dirtyPages (r : RecStore) : List Nat := (List.range 128).filter r.dirty.contains

/-- A store of the dirty pages begins (R411). -/
def State.storeBegin (s : State) (periodic : Bool) : State :=
  { s with recs := { s.recs with storing := s.recs.dirtyPages, run := some periodic } }

/-- A store's slot fails its read-back: it is retired, and the page keeps its other slot (R413). -/
def State.retireSlot (s : State) (page : Nat) : State :=
  let k := 2 * page + (s.storeTarget page).1
  if s.recs.retired.contains k || s.recs.retired.contains (2 * page) || s.recs.retired.contains (2 * page + 1) then s
  else { s with recs := { s.recs with retired := k :: s.recs.retired } }

/-- A commanded or periodic store ends (R411, R413): `bad` names the pages whose slot failed its
read-back. -/
def State.storeEnd (s : State) (bad : List Nat) : State :=
  match s.recs.run with
  | some periodic =>
    let ps := s.recs.storing
    let s1 := s.each ps (fun t p => if bad.contains p then t.retireSlot p else t.storePage p)
    ({ s1 with recs := { s1.recs with storing := [], run := none } } : State).raise
      (evDev 0x7004 0 (ps.length + 256 * b2n periodic))
  | none => s

/-- Read access to the store (R414). -/
def RecStore.mayRead (r : RecStore) : Bool := r.recalled && !r.locked && (r.readOk || r.readPw.isNone)
/-- Write access to the store (R414). -/
def RecStore.mayWrite (r : RecStore) : Bool := r.recalled && !r.locked && (r.writeOk || r.writePw.isNone)

/-- The stored form of a password: its digest, none for a digest of zero (R414). -/
def pwDigest (pw : List Byte) : Option (List Byte) :=
  let d := Sha.sha256 pw
  if d.all (· = 0) then none else some d

/-- The bytes of REC_PW. -/
def RecStore.pw (r : RecStore) : List Byte := leBytes 4 r.pwLo ++ leBytes 4 r.pwHi

/-- UNLOCK_READ and UNLOCK_WRITE (R414). -/
def State.unlock (s : State) (p : Path) (write : Bool) : State :=
  let r := s.recs
  let want := if write then r.writePw else r.readPw
  if r.busy || r.locked then s.ignored p (Reg.recCmd.addr 0 0) 3
  else if want.isNone || want = pwDigest r.pw then
    { s with recs := if write then { r with writeOk := true } else { r with readOk := true } }
  else
    let s1 := ({ s with recs := { r with fails := r.fails + 1 } } : State).raise (evDev 0x7006 1 (r.fails + 1 + 4 * b2n write))
    if r.fails + 1 < 3 then s1
    else ({ s1 with recs := { s1.recs with locked := true, readOk := false, writeOk := false } } : State).raise (evDev 0x7007 2 0)

/-- RELOCK (R414). -/
def State.relockRec (s : State) (p : Path) : State :=
  if s.recs.busy then s.ignored p (Reg.recCmd.addr 0 0) 3
  else { s with recs := { s.recs with readOk := false, writeOk := false } }

/-- SET_READ_PW and SET_WRITE_PW (R414). -/
def State.setPw (s : State) (p : Path) (write : Bool) : State :=
  let r := s.recs
  if r.busy || !r.mayRead || !r.mayWrite then s.ignored p (Reg.recCmd.addr 0 0) 3
  else
    let d := pwDigest r.pw
    (if write then { s with recs := { r with writePw := d, writeOk := true } }
      else { s with recs := { r with readPw := d, readOk := true } } : State).touch 0

/-- STORE (R411). -/
def State.storeCmd (s : State) (p : Path) : State :=
  if s.recs.busy then s.ignored p (Reg.recCmd.addr 0 0) 3 else s.storeBegin false

/-- REC_STATUS (R417). -/
def RecStore.status (r : RecStore) : Nat :=
  b2n r.busy + 2 * b2n r.recalled + 4 * b2n r.mayRead + 8 * b2n r.mayWrite + 16 * b2n r.locked +
  32 * (r.fails % 4) + 128 * r.acc + 65536 * r.dirty.length

/-- REC_ADDR after an access to REC_DATA (R417). -/
def State.recStep (s : State) : State :=
  if s.rb .recAddr 0 31 then s.wf_ .recAddr 0 18 2 ((s.rf .recAddr 0 18 2 + 1) % 131072) else s

/-- The result of the last access to REC_DATA. -/
def State.recAcc (s : State) (n : Nat) : State := ({ s with recs := { s.recs with acc := n } } : State).recStep

/-- A read of REC_DATA (R410, R414): the word it returns. The lockkeeper's own pages hold records whose
bytes the spec does not lay out; their words are free values (assumption 7). -/
def State.recRead (s : State) (p : Path) : Nat × State :=
  let w := s.rf .recAddr 0 18 2
  if !s.recs.recalled then (0, s.recAcc 1)
  else if p ≠ .lkp && !s.recs.mayRead then (0, s.recAcc 2)
  else if w / 1024 < 39 then
    let (v, s1) := s.fresh
    (u32 v, s1.recAcc 0)
  else (leNat ((List.range 4).map (fun i => s.recs.user.get 0 (4 * w + i))), s.recAcc 0)

/-- A write of REC_DATA (R410, R414). -/
def State.recWrite (s : State) (p : Path) (v : Nat) : State :=
  let w := s.rf .recAddr 0 18 2
  if !s.recs.recalled then s.recAcc 1
  else if (p ≠ .lkp && !s.recs.mayWrite) || w / 1024 < 112 then s.recAcc 2
  else (({ s with recs := { s.recs with user := storeBytes s.recs.user (4 * w) (leBytes 4 v) } } : State).touch (w / 1024)).recAcc 0

/-- Both slots of every page are margin-read; a valid weak slot has its page stored again (R412). -/
def State.recMargin (s : State) (weak : List Nat) : State :=
  if s.recs.busy then s
  else s.each (weak.filter (fun k => k < 256 && s.slotOk (k / 2) (k % 2))) (fun t k =>
    (t.storePage (k / 2)).raise (evDev 0x7003 0 (k / 2 + 256 * (k % 2))))

end Sys2Proof.Machine
end

