-- ==== Sys2Proof/Machine/ArrayOps.lean ====
section
/-! DEFINITION. Conductance arrays: remapping (R27, R28), target planes (R39, R40), batches (R42),
program jobs (R43 to R52), repair (R46), the scan (R54 to R59). -/
namespace Sys2Proof.Machine
open Sys2Proof

/-! ### Holds on program batches -/

/-- The throttle level of a quarter: the larger of its thermal level and the power level (R404). -/
def State.qLevel (s : State) (q : Nat) : Nat := max (s.pwr.thermal.get 0 q) s.pwr.power

/-- VDD_PROG out of its band holds new program batches of the quarter, and so does throttle level 4
(R404). -/
def State.batchesHeld (s : State) (q : Nat) : Bool := bit (s.mons.get {} q).out 10 || decide (s.qLevel q = 4)

/-! ### Remapping -/

/-- The physical row a logical row is driven on (R26, R27). -/
def State.physRow (s : State) (a r : Nat) : Nat :=
  match (List.range 8).find? (fun i => s.rd .arrRowMap a i = 2 ^ 31 + r) with
  | some i => 1032 + i
  | none => r

/-- The physical pair a logical pair is converted from (R28). -/
def State.physPair (s : State) (a c : Nat) : Nat :=
  match (List.range 2).find? (fun i => s.rd .arrColMap a i = 2 ^ 31 + c) with
  | some i => 514 + i
  | none => c

/-- Spare rows no row map entry uses (R37, R60). -/
def State.freeRows (s : State) (a : Nat) : List Nat := (List.range 8).filter (fun i => !bit (s.rd .arrRowMap a i) 31)

/-- Spare pairs no column map entry uses (R38, R60). -/
def State.freeCols (s : State) (a : Nat) : List Nat := (List.range 2).filter (fun i => !bit (s.rd .arrColMap a i) 31)

/-- The contents of the spare rows and pairs that no map entry uses: 0 in an unused spare pair, the reference pattern in
an unused spare row (R37, R38); none for a cell pair in use. In an unused spare row an unused spare pair holds 0, the
"every row" of R38 (DESIGN CHOICE, assumption 59). -/
def State.spareCell (s : State) (a pr pc : Nat) : Option Int :=
  if 514 ≤ pc && (s.freeCols a).contains (pc - 514) then some 0
  else if 1032 ≤ pr && (s.freeRows a).contains (pr - 1032) then some (((pr - 1032 + pc) % 15 : Nat) - 7)
  else none

/-- The value of the cell pair that physical row `pr` and physical pair `pc` meet in, in 1/1,024 of a
level step (R21, R22); a pair the spec leaves undefined has an open value (assumption 5). -/
def State.cellValue (s : State) (a pr pc : Nat) : Int :=
  match s.spareCell a pr pc with
  | some v => 1024 * v
  | none => match (s.arr a).cells.get none (516 * pr + pc) with
    | some v => 1024 * v
    | none => Config.openCell a pr pc

/-! ### Target planes -/

/-- The blocks of a plane a job needs (R40, R42). -/
def neededBlocks (scope first last : Nat) : List Nat :=
  if scope = 0 then List.range 64 ++ [65]
  else if scope = 1 then [64, 65]
  else if scope = 2 then List.range 66
  else (List.range (last / 16 + 1 - first / 16)).map (first / 16 + ·) ++ [65]

/-- The logical rows a job programs (R42). -/
def jobRows (scope first last : Nat) : List Nat :=
  if scope = 0 then List.range 1024
  else if scope = 1 then (List.range 8).map (1024 + ·)
  else if scope = 2 then List.range 1032
  else (List.range (last + 1 - first)).map (first + ·)

/-- The nibble of pair `p` of row `r` in a block's bytes: data blocks for pairs 0 to 511, the check
block for 512 and 513 (R39). -/
def nibble (d : List Byte) (r p : Nat) : Nat :=
  if p < 512 then
    let b := (d.getD (r % 16 * 256 + p / 2) 0).toNat
    if p % 2 = 0 then b % 16 else b / 16
  else
    let b := (d.getD r 0).toNat
    if p = 512 then b % 16 else b / 16

/-- The block of a plane that holds a row and pair. -/
def planeBlk (r p : Nat) : Nat := if p < 512 then r / 16 else 65

/-- Row sums of R35 from a data block's nibbles. -/
def rowSum (d : List Byte) (r : Nat) : Int := ((List.range 512).map (fun j => sext 4 (nibble d r j))).sum
/-- Position-weighted row sums of R35. -/
def rowPos (d : List Byte) (r : Nat) : Int :=
  ((List.range 512).map (fun (j : Nat) => ((j : Int) + 1) * sext 4 (nibble d r j))).sum

/-- What a plane check finds wrong (R40, R61): a failed manifest, or cause, block and row. -/
inductive PlaneErr where
  | manifest (addr cause : Nat)
  | invalid (cause block row : Nat)
  deriving DecidableEq, Repr

/-- A block of the plane as the job reads it: its data, or why the read fails (R40). -/
def State.planeRead (s : State) (src b : Nat) : Except PlaneErr (List Byte × Nat) :=
  match s.devBlock (src + blk * b) with
  | none => .error (.invalid 5 b 0)
  | some (d, m) =>
    let c := checkBlock d m {}
    if c = 0 then .ok (d, m.crc) else .error (.manifest (src + blk * b) c)

/-- The first error among a job's needed blocks and rows, or the CRC of each block (R40, R41). For cause 0x3 no block fails,
and R61 gives the failing-block field no value: the model puts 0 (DESIGN CHOICE, assumption 60). -/
def State.planeCheck (s : State) (a src scope first last : Nat) : Except PlaneErr (NMap Nat) :=
  if scope = 3 && last < first then .error (.invalid 3 0 0) else do
  let bs ← (neededBlocks scope first last).mapM (fun b => do
    let (d, crc) ← s.planeRead src b
    pure (b, d, crc))
  let dataOf (b : Nat) : List Byte := ((bs.find? (·.1 = b)).map (·.2.1)).getD []
  let rows := jobRows scope first last
  let bad := rows.findSome? (fun r => (List.range 514).findSome? (fun p =>
    if nibble (dataOf (planeBlk r p)) r p = 8 then some (planeBlk r p) else none))
  match bad with
  | some b => .error (.invalid 1 b 0)
  | none =>
    let ax := s.rf .arrCheckScale a 4 0
    let bx := s.rf .arrCheckScale a 12 8
    let wrong := rows.find? (fun r => r < 1024 &&
      (sext 4 (nibble (dataOf 65) r 512) ≠ rneDiv (rowSum (dataOf (r / 16)) r) (2 ^ ax) ||
       sext 4 (nibble (dataOf 65) r 513) ≠ rneDiv (rowPos (dataOf (r / 16)) r) (2 ^ bx)))
    match wrong with
    | some r => .error (.invalid 2 65 r)
    | none => .ok (bs.map (fun (b, _, crc) => (b, crc)))

/-- Report a plane error (R40, R41, R61): an event of the core whose array it is (R327, assumption 32). -/
def State.planeEvent (s : State) (a last : Nat) : PlaneErr → State
  | .manifest addr cause => (s.flag .arrEvent a 0x100).raise (evArr 0x4001 2 a (cause + 256 * addr))
  | .invalid cause block row =>
    (s.flag .arrEvent a 0x100).raise (evArr 0x200E 2 a
      (block + 256 * cause + 2 ^ 32 * (if cause = 2 then row else if 4 ≤ cause then last else 0)))

/-- The plane block that a job could not read, where the memory code is why (R294). -/
def State.planeUe (s : State) (src : Nat) : PlaneErr → State
  | .invalid 5 b _ => s.ueRead false (src + blk * b) blk
  | _ => s

/-! ### Batches -/

/-- Number of batches of a job (R42). -/
def batchCount (scope first last : Nat) : Nat :=
  if scope = 0 then 4112 else if scope = 1 then 33 else if scope = 2 then 4145
  else let n := last + 1 - first; 4 * n + cdiv n 64

/-- The cells, as (logical row, logical pair), of batch `i` over the rows `lo` to `lo + n - 1`: data
batches by row and group of 128 pairs, then check batches of 64 rows (R42). -/
def rangeBatch (lo n i : Nat) : List (Nat × Nat) :=
  if i < 4 * n then (List.range 128).map (fun j => (lo + i / 4, 128 * (i % 4) + j))
  else
    let k := i - 4 * n
    ((List.range 64).filter (fun j => 64 * k + j < n)).flatMap (fun j => [(lo + 64 * k + j, 512), (lo + 64 * k + j, 513)])

/-- The cells of batch `i` of a job (R42). -/
def batchCells (scope first last i : Nat) : List (Nat × Nat) :=
  if scope = 0 then rangeBatch 0 1024 i
  else if scope = 1 then rangeBatch 1024 8 i
  else if scope = 2 then if i < 4112 then rangeBatch 0 1024 i else rangeBatch 1024 8 (i - 4112)
  else rangeBatch first (last + 1 - first) i

/-- The plane block a batch needs (R41). -/
def batchBlock (scope first last i : Nat) : Nat :=
  match batchCells scope first last i with
  | (r, p) :: _ => planeBlk r p
  | [] => 65

/-- Program one logical cell pair to a value; a stuck cell leaves the pair undefined (R22, R23, R43). -/
def State.program (s : State) (a r p : Nat) (v : Int) (stuck : Bool) : State :=
  s.modArr a (fun x => { x with
    targets := x.targets.set 0 (514 * r + p) v,
    cells := x.cells.set none (516 * s.physRow a r + s.physPair a p) (if stuck then none else some v) })

/-! ### Jobs -/

/-- Arrays that run program batches or read their planes, the queued ones apart (R44). -/
def State.runningJobs (s : State) : Nat :=
  (s.arrays.filter (fun e => e.2.st = .programming && e.2.job.any (fun j => !j.queued))).length

/-- Start a job on an array, queued when 64 run (R44, R47); `start` is its first batch. Only the jobs running count: a GO that
comes when a job has ended and PGM_QUEUED_JOB_START has yet to start the oldest queued one starts at once (DESIGN CHOICE,
assumption 60). -/
def State.startJob (s : State) (a scope first last version src start : Nat) (rotation : Bool) : State :=
  let q := decide (64 ≤ s.runningJobs)
  let x := s.arr a
  let j : PgmJob := {
    scope := scope, first := first, lastRow := last, version := version, src := src,
    prev := x.st, queued := q, checked := false, started := false, next := start,
    last := if start = 0 then 0x1FFF else start - 1, crcs := [], stuck := [], repairs := [], dead := [], repaired := 0,
    rotation := rotation, aborting := false, held := (0, []), gate := false }
  let s1 := s.setArr a { x with st := .programming, job := some j, scanPos := 0, scanning := false }
  let s2 : State := if q then { s1 with pgmQueue := s1.pgmQueue ++ [a] } else s1
  s2.storeArr a rotation

/-- The batch a resumed job starts at (R52). -/
def State.resumeAt (s : State) (a : Nat) : Nat :=
  if s.rb .arrPgmCtrl a 31 then
    match (s.arr a).recalled with
    | some r =>
      if (s.arr a).st = .partial_ && r.version = s.rd .arrPgmVersion a && r.scope = s.rf .arrPgmCtrl a 1 0 &&
          r.last ≠ 0x1FFF then r.last + 1 else 0
    | none => 0
  else 0

/-- Start the job the array's own registers describe (R47, R60). -/
def State.startOwn (s : State) (a : Nat) : State :=
  s.startJob a (s.rf .arrPgmCtrl a 1 0) (s.rf .arrPgmCtrl a 15 5) (s.rf .arrPgmCtrl a 26 16)
    (s.rd .arrPgmVersion a) (s.rdPair .arrPgmSrcLo .arrPgmSrcHi a) (s.resumeAt a) false

/-- The cause by which the core's CHK3 entries run at CHK2 (R308): no spare, spare out of replay,
replay suspended; 0 for none. -/
def Core.degradeCause (x : Core) : Nat :=
  if x.noSpare then 1 else if x.spareOut then 2 else if x.suspended then 3 else 0

/-- Raise CHK3_DEGRADED when a period starts or its cause changes (R308). -/
def State.degrade (s : State) (c : Nat) : State :=
  let n := (s.core c).degradeCause
  if n = (s.core c).degraded then s
  else
    let s1 := s.modCore c (fun x => { x with degraded := n })
    if n = 0 then s1 else s1.raise (evCore 0x300B 1 c n)

/-- Suspend sampled replay when a job starts on the core's spare slot (R144). -/
def State.suspendReplay (s : State) (a : Nat) : State :=
  let c := a / 17
  if !(s.core c).noSpare && (s.core c).spare = a % 17 then
    (s.modCore c (fun x => { x with suspended := true, replayOn := false })).degrade c
  else s

/-- What ARR_PGM_PROGRESS shows of a job (R46, R60). -/
def PgmJob.progress (j : PgmJob) : Nat := j.last + 65536 * satTo 0xFFFF (j.stuck.length + j.repaired)

/-- The progress of a job that ends stays readable (R60). -/
def State.keepProgress (s : State) (a : Nat) (j : PgmJob) : State := s.wr .arrPgmProgress a 0 j.progress

/-- What ARR_PGM_PROGRESS reads as (R60). -/
def State.arrProgress (s : State) (a : Nat) : Nat := (((s.arr a).job).map PgmJob.progress).getD (s.rd .arrPgmProgress a)

/-- A GO write (R47). No array leaves its state before the remap tables are recalled (R29): until then the command is refused
(DESIGN CHOICE, assumption 60). -/
def State.pgmGo (s : State) (p : Path) (a : Nat) : State :=
  if !s.recs.recalled then s.ignored p (Reg.arrPgmCmd.addr a 0) 3 else
  match (s.arr a).st with
  | .programming => s.ignored p (Reg.arrPgmCmd.addr a 0) 3
  | .serving => s.raise (evArr 0x2006 1 a 0)
  | _ => (s.startOwn a).suspendReplay a

/-- End a job: the array's next state, and its record stored (R411). -/
def State.endJob (s : State) (a : Nat) (st : ArrSt) : State :=
  let rot := ((s.arr a).job.map (·.rotation)).getD false
  (({ s with pgmQueue := s.pgmQueue.filter (· ≠ a) } : State).modArr a (fun x => { x with st := st, job := none })).storeArr a rot

/-- An ABORT write (R47). -/
def State.pgmAbort (s : State) (a : Nat) : State :=
  match (s.arr a).st, (s.arr a).job with
  | .programming, some j =>
    if j.queued then s.endJob a j.prev
    else if j.started then s.modArr a (fun x => { x with job := some { j with aborting := true } })
    else ((s.endJob a j.prev).flag .arrEvent a 0x80).raise (evArr 0x200C 1 a 0x1FFF)
  | _, _ => s

/-- A job reaches its first batch: ARR_PGM_COUNT rises and the wear events are raised (R49, R53). -/
def State.countJob (s : State) (a : Nat) : State :=
  let n := u32 (s.rd .arrPgmCount a + 1)
  let s1 := s.wr .arrPgmCount a 0 n
  if n = 9000000 then (s1.flag .arrEvent a 0x20).raise (evArr 0x200A 1 a n)
  else if n = 10000000 then (s1.flag .arrEvent a 0x40).raise (evArr 0x200B 2 a n)
  else s1

/-- The second read of the block that the next batch needs (R41): the job goes on with the block's
data, or ends. -/
def State.reread (s : State) (a : Nat) (j : PgmJob) : State :=
  let b := batchBlock j.scope j.first j.lastRow j.next
  if j.started && j.held.1 = b && j.held.2 ≠ [] then s.modArr a (fun x => { x with job := some { j with gate := !s.batchesHeld (a / 17 / 32) } })
  else
    let fail (e : PlaneErr) : State :=
      (((s.planeUe j.src e).keepProgress a j).endJob a (if j.started then .partial_ else j.prev)).planeEvent a (if j.started then j.last else 0x1FFF) e
    match s.planeRead j.src b with
    | .error e => fail e
    | .ok (d, crc) =>
      if crc ≠ j.crcs.get 0 b then fail (.invalid 4 b 0)
      else
        let s1 := s.modArr a (fun x => { x with job := some { j with
          held := (b, d), started := true, gate := !s.batchesHeld (a / 17 / 32) } })
        if j.started then s1 else s1.countJob a

/-- The plane's check ends: the job is rejected, or batch 0 starts after its second read (R40, R41). -/
def State.planeDone (s : State) (a : Nat) : State :=
  match (s.arr a).job with
  | some j =>
    if j.queued || j.checked then s else
    match s.planeCheck a j.src j.scope j.first j.lastRow with
    | .error e => ((s.planeUe j.src e).endJob a j.prev).planeEvent a 0x1FFF e
    | .ok crcs => s.reread a { j with checked := true, crcs := crcs }
  | none => s

/-- The physical rows of margin-read batch `i`: 4,160 batches of 128 data pairs of a row, then 33 batches of the four pairs
512 to 515 of 32 rows (R54 gives the number; DEDUCED, assumption 31). -/
def marginRows (i : Nat) : List Nat :=
  if i < 4160 then [i / 4] else ((List.range 32).map (32 * (i - 4160) + ·)).filter (· < 1040)

/-- The weak batches that stay when a job has programmed its rows (R57, R58). -/
def State.weakLeft (s : State) (a : Nat) (j : PgmJob) : List (Nat × Nat) :=
  let rows := (jobRows j.scope j.first j.lastRow).map (s.physRow a)
  (s.arr a).weak.filter (fun w => !(marginRows w.1).all rows.contains)

/-- A job ends READY: its version stands in ARR_VERSION before the record is stored (R47, R48). -/
def State.jobReady (s : State) (a : Nat) (j : PgmJob) : State :=
  let weak := s.weakLeft a j
  (((((s.keepProgress a j).wr .arrVersion a 0 j.version).endJob a .ready).flag .arrEvent a 1).modArr a
    (fun x => { x with
      recalled := none, calPass := false, weak := weak, epoch := x.epoch + 1,
      deferredRaised := x.deferredRaised && weak.head? = x.weak.head? })).raise
    (evArr 0x2001 0 a (j.version + 2 ^ 32 * satTo 0xFFFF j.repaired))

/-- A job ends FAILED (R46, R47). -/
def State.jobFailed (s : State) (a : Nat) (j : PgmJob) : State :=
  (((s.keepProgress a j).endJob a .failed).flag .arrEvent a 8).raise (evArr 0x2005 2 a (satTo 0xFFFF j.stuck.length))

/-- Map one logical pair with four or more stuck cells to a free spare pair and begin to program it (R46). A pair that is
on a spare already leaves it, so that no two entries name it (R29), and the job uses that spare no more (assumption 31). -/
def State.repairCol (s : State) (a : Nat) (c : Nat) (j : PgmJob) : State × PgmJob :=
  let n := (j.stuck.filter (·.pair = c)).length
  if n < 4 then (s, j) else
  match (s.freeCols a).filter (fun i => !j.dead.contains (false, i)) with
  | [] => (s, j)
  | i :: _ =>
    let old := (List.range 2).filter (fun k => s.rd .arrColMap a k = 2 ^ 31 + c)
    let s1 := s.each old (fun t k => t.wr .arrColMap a k c)
    ((((s1.wr .arrColMap a i (2 ^ 31 + c)).touch (arrPage a)).flag .arrEvent a 4).raise (evArr 0x2004 1 a (c + 65536 * i)),
     { j with dead := j.dead ++ old.map (fun k => (false, k)), stuck := j.stuck.filter (·.pair ≠ c), repairs := j.repairs ++ [⟨false, c, i, 9⟩], repaired := j.repaired + n })

/-- Map one logical row with stuck cells to a free spare row and begin to program it (R46), off the spare it may be on (assumption 31). -/
def State.repairRow (s : State) (a : Nat) (r : Nat) (j : PgmJob) : State × PgmJob :=
  let n := (j.stuck.filter (·.row = r)).length
  if n = 0 then (s, j) else
  match (s.freeRows a).filter (fun i => !j.dead.contains (true, i)) with
  | [] => (s, j)
  | i :: _ =>
    let old := (List.range 8).filter (fun k => s.rd .arrRowMap a k = 2 ^ 31 + r)
    let s1 := s.each old (fun t k => t.wr .arrRowMap a k r)
    ((((s1.wr .arrRowMap a i (2 ^ 31 + r)).touch (arrPage a)).flag .arrEvent a 4).raise (evArr 0x2003 1 a (r + 65536 * i)),
     { j with dead := j.dead ++ old.map (fun k => (true, k)), stuck := j.stuck.filter (·.row ≠ r), repairs := j.repairs ++ [⟨true, r, i, 5⟩], repaired := j.repaired + n })

/-- One step of the repair procedure: nothing once a spare has been mapped in and is to be programmed. -/
def repairStep (f : State → Nat → PgmJob → State × PgmJob) (st : State × PgmJob) (n : Nat) : State × PgmJob :=
  if st.2.repairs.isEmpty then f st.1 n st.2 else st

/-- The repair procedure's walk over pairs, then rows. -/
def repairWalk (cols rows : List Nat) (a : Nat) (p : State × PgmJob) : State × PgmJob :=
  rows.foldl (repairStep (fun t r k => t.repairRow a r k)) (cols.foldl (repairStep (fun t c k => t.repairCol a c k)) p)

/-- The repair procedure of R46 on the stuck cells found so far: pairs, then rows, one spare mapped in and programmed at a
time; with none left to map the job ends. -/
def State.repair (s : State) (a : Nat) (j : PgmJob) : State :=
  let x := repairWalk (List.range 514) (List.range 1032) a (s, j)
  if x.2.repairs.isEmpty then if x.2.stuck.isEmpty then x.1.jobReady a x.2 else x.1.jobFailed a x.2
  else x.1.modArr a (fun y => { y with job := some x.2 })

/-- An aborted job stops after its batch (R47). -/
def State.jobAborted (s : State) (a : Nat) (j : PgmJob) : State :=
  (((s.keepProgress a j).endJob a .partial_).flag .arrEvent a 0x80).raise (evArr 0x200C 1 a j.last)

/-- A batch of a job ends with the cells found stuck in it (R43). ARR_PGM_VERIFY_FAIL is raised once, after the last batch of the
job's own, so a job that ends PARTIAL raises none; its first stuck cell is the first in the order found (DESIGN CHOICE,
assumption 60). -/
def State.batchDone (s : State) (a : Nat) (stuck : List StuckCell) : State :=
  match (s.arr a).job with
  | some j =>
    let total := batchCount j.scope j.first j.lastRow
    if !j.started || !j.repairs.isEmpty || total ≤ j.next || (!j.gate && s.batchesHeld (a / 17 / 32)) then s else
    let cells := batchCells j.scope j.first j.lastRow j.next
    let bad := stuck.filter (fun x => cells.contains (x.row, x.pair))
    let s1 := s.each cells (fun t (r, p) => t.program a r p (sext 4 (nibble j.held.2 r p))
      (bad.any (fun x => x.row = r && x.pair = p)))
    let s2 := (s1.count (ctrQuarter (a / 17 / 32)) 9 1).count (ctrQuarter (a / 17 / 32)) 10 bad.length
    let old := j.stuck.filter (fun x => !cells.contains (x.row, x.pair))
    let j1 : PgmJob := { j with last := j.next, next := (j.next + 1), stuck := old ++ bad }
    if j1.aborting then s2.jobAborted a j1
    else if j1.next = total then
      let s3 := match j1.stuck with
        | [] => s2
        | x :: _ => (s2.flag .arrEvent a 2).raise
            (evArr 0x2002 1 a (satTo 0xFFFF j1.stuck.length + 65536 * x.row + 2 ^ 32 * x.pair))
      s3.repair a j1
    else s2.reread a j1
  | none => s

/-- The logical cells a repair batch programs: 128 rows of a pair, or 128 pairs of a row (R46). -/
def repairCells (w : RepairJob) : List (Nat × Nat) :=
  if w.isRow then ((List.range 128).map (128 * (5 - w.left) + ·)).filter (· < 514) |>.map (fun p => (w.logical, p))
  else ((List.range 128).map (128 * (9 - w.left) + ·)).filter (· < 1032) |>.map (fun r => (r, w.logical))

/-- A repair batch ends (R46). A logical row of a spare pair, or pair of a spare row, that was never programmed has no target
in the spec: the model programs 0 (DESIGN CHOICE, assumption 60). -/
def State.repairDone (s : State) (a : Nat) (stuck : List StuckCell) : State :=
  match (s.arr a).job with
  | some j =>
    match j.repairs with
    | w :: ws =>
      let cells := repairCells w
      let bad := stuck.filter (fun x => cells.contains (x.row, x.pair))
      let s1 := s.each cells (fun t (r, p) => t.program a r p ((t.arr a).targets.get 0 (514 * r + p))
        (bad.any (fun x => x.row = r && x.pair = p)))
      let j1 := { j with stuck := j.stuck ++ bad, repairs := if w.left ≤ 1 then ws else { w with left := w.left - 1 } :: ws }
      if j1.aborting then s1.jobAborted a j1
      else if j1.repairs.isEmpty then s1.repair a j1
      else s1.modArr a (fun x => { x with job := some j1 })
    | [] => s
  | none => s

/-- The lockkeeper starts the oldest queued job once fewer than 64 run (R44). -/
def State.startQueued (s : State) : State :=
  match s.pgmQueue with
  | a :: rest =>
    if 64 ≤ s.runningJobs then s
    else
      let rot := ((s.arr a).job.map (·.rotation)).getD false
      (({ s with pgmQueue := rest } : State).modArr a
        (fun x => { x with job := x.job.map (fun j => { j with queued := false }) })).storeArr a rot
  | [] => s

/-! ### Status and scan -/

/-- The array block's BUSY (R60). -/
def State.arrBusy (s : State) (a : Nat) : Bool :=
  (s.arr a).st = .programming || (s.arr a).st = .serving || (s.arr a).batchBusy

/-- Margin-read batches of a full scan (R54). -/
def scanBatches : Nat := 4193

/-- An hour in nanoseconds. -/
def hourNs : Nat := 3600000000000

/-- One margin-read batch of the background scan finds `weak` weak cells (R54, R57). -/
def State.scanBatch (s : State) (a weak : Nat) : State :=
  let x := s.arr a
  let n := satTo 256 weak
  let ok := s.rf .arrScanCfg a 15 0 ≠ 0 && x.st ≠ .programming &&
    (x.st ≠ .serving || 2 ^ s.rf .arrScanCfg a 19 16 ≤ x.wavesSinceScan)
  if !ok then s else
  let listed := x.weak.any (·.1 = x.scanPos)
  let x1 : Arr := { x with
    scanPos := x.scanPos + 1, scanning := true, wavesSinceScan := 0,
    scanWeak := (if x.scanPos = 0 then 0 else x.scanWeak) + n,
    scanBatches := (if x.scanPos = 0 then 0 else x.scanBatches) + (if n = 0 then 0 else 1),
    weak := if n = 0 || listed then x.weak else x.weak ++ [(x.scanPos, s.time)] }
  let s1 := if x.st = .serving then s.count (a / 17) 7 1 else s
  if x1.scanPos < scanBatches then s1.setArr a x1
  else
    let s2 := (s1.setArr a { x1 with scanPos := 0, scanning := false, scanEnd := s.time }).wr .arrScanStatus a 0
      (satTo 0xFFFF x1.scanWeak)
    if x1.scanWeak = 0 then s2
    else (s2.flag .arrEvent a 0x10).raise (evArr 0x2008 0 a (satTo 0xFFFF x1.scanWeak + 65536 * x1.scanBatches))

/-- A write of a remap entry (R13, R29, R60): a reserved bit or number and a duplicate are discarded,
and so is a change while the block is busy (R10). -/
def State.mapWrite (s : State) (p : Path) (a : Nat) (col : Bool) (i v : Nat) : State :=
  let r : Reg := if col then .arrColMap else .arrRowMap
  let n := if col then 2 else 8
  let w := if col then 10 else 11
  let bound := if col then 514 else 1032
  let addr := r.addr a i
  if v % 2 ^ 31 / 2 ^ w ≠ 0 || bound ≤ v % 2 ^ w then s.ignored p addr 2
  else if bit v 31 && (List.range n).any (fun k => k ≠ i && s.rd r a k = v) then s.ignored p addr 3
  else if v = s.rd r a i then s
  else if s.arrBusy a then s.ignored p addr 1
  else (s.wr r a i v).touch (arrPage a)

/-- ARR_TRIM_ADDR after an access to the table: PAIR advances, wrapping from 515 to 0 (R60). -/
def State.trimStep (s : State) (a : Nat) : State :=
  if s.rb .arrTrimAddr a 16 then
    let n := s.rf .arrTrimAddr a 9 0
    s.wf_ .arrTrimAddr a 9 0 (if 515 ≤ n then 0 else n + 1)
  else s

/-- What ARR_TRIM_DATA reads as (R60). -/
def State.trimData (s : State) (a : Nat) : Nat :=
  let n := s.rf .arrTrimAddr a 9 0
  ((s.arr a).trimShadow.get 0 n).toNat + 256 * ((s.arr a).trimActive.get 0 n).toNat

/-- A write of ARR_TRIM_DATA (R60). -/
def State.trimWrite (s : State) (p : Path) (a v : Nat) : State :=
  if 2 ^ 16 ≤ v then s.ignored p (Reg.arrTrimData.addr a 0) 2
  else
    (s.modArr a (fun x => { x with trimShadow := x.trimShadow.set 0 (s.rf .arrTrimAddr a 9 0) (BitVec.ofNat 8 v) })).trimStep a

/-- COPY: the active table into the shadow table (R60). -/
def State.trimCopy (s : State) (a : Nat) : State := s.modArr a (fun x => { x with trimShadow := x.trimActive })

/-- SWAP: the exchange waits for its boundary (R34). A second SWAP while one is pending is one exchange with it (DESIGN CHOICE,
assumption 60). -/
def State.trimSwap (s : State) (a : Nat) : State := s.modArr a (fun x => { x with swapPending := true })

/-- The tables are exchanged (R34). -/
def State.trimExchange (s : State) (a : Nat) : State :=
  if (s.arr a).swapPending then
    s.modArr a (fun x => { x with trimActive := x.trimShadow, trimShadow := x.trimActive, swapPending := false, swapIdle := false, epoch := x.epoch + 1 })
  else s

/-- A weak batch is reprogrammed to its existing targets (R58): no target changes, so the pair values
stay and the batch leaves the weak list; `idle` says that no wave waits (R59). -/
def State.refresh (s : State) (a : Nat) (express : Bool) (idle : Bool) : State :=
  let x := s.arr a
  if !s.rb .arrScanCfg a 24 || x.st = .programming || x.weak.isEmpty || (express && !idle) then s
  else (s.setArr a { x with weak := x.weak.drop 1, deferredRaised := false }).count (a / 17) 8 1

/-- The oldest weak batch has waited 24 h (R59). -/
def State.refreshDeferred (s : State) (a : Nat) : State :=
  match (s.arr a).weak with
  | (i, _) :: _ =>
    if (s.arr a).deferredRaised then s
    else (s.modArr a (fun x => { x with deferredRaised := true })).raise (evArr 0x2009 1 a i)
  | [] => s

end Sys2Proof.Machine
end

