-- ==== Sys2Proof/Machine/PowerOps.lean ====
section
/-! DEFINITION. Power states, power failure and the cold start (R392 to R408). -/
namespace Sys2Proof.Machine
open Sys2Proof

/-- Drive PWR_STATUS.STATE. -/
def State.setPwr (s : State) (n : Nat) : State := s.wf_ .pwrStatus 0 2 0 n

/-- Some entry is in progress. -/
def State.entriesRunning (s : State) : Bool :=
  s.pounds.any (fun e => e.2.service.any (fun x => x.2.any (fun sn => sn.runs.any (fun r => decide (r.mode ≠ .ended)))))

/-- The engines work: not stopped by a power state, nor by IDLE once every entry has completed (R403). -/
def State.works (s : State) : Bool := s.alive && !(s.pwrState = 2 && !s.entriesRunning)

/-- IDLE with every entry complete: the engines stop and CORE_VID falls to 0x0 (R393, R403). -/
def State.idleSettle (s : State) : State :=
  if s.pwrState = 2 && !s.entriesRunning then s.wf_ .pwrStatus 0 11 8 0 else s

/-- PWR_CMD.IDLE (R403); a state with no transition for it discards the command (R417). -/
def State.goIdle (s : State) (p : Path) : State :=
  if s.pwrState = 1 then (s.setPwr 2).idleSettle else s.ignored p (Reg.pwrCmd.addr 0 0) 3

/-- IDLE to READY: CORE_VID 0x8; issue resumes after the start-up calibration (R403). -/
def State.wakeUp (s : State) : State :=
  if s.pwrState = 2 then
    let s1 := (s.setPwr 1).wf_ .pwrStatus 0 11 8 8
    { s1 with pwr := { s1.pwr with waking := true } }
  else s

/-- PWR_CMD.WAKE (R403). -/
def State.goWake (s : State) (p : Path) : State :=
  if s.pwrState = 2 then s.wakeUp else s.ignored p (Reg.pwrCmd.addr 0 0) 3

/-- A temperature at or above T_CRIT (R403): channel, converter, temperature in 1/16 °C. -/
def State.halt (s : State) (ch conv temp : Nat) : State :=
  if s.pwrState = 1 || s.pwrState = 2 then
    let s1 := s.setPwr 3
    ({ s1 with pwr := { s1.pwr with prev := s.pwrState } } : State).raise
      { code := 0x8004, sev := 3, locType := 2, loc := conv, detail := ch + 256 * conv + 65536 * (temp % 65536) }
  else s

/-- HALTED ends: the previous state continues (R403). -/
def State.haltEnd (s : State) : State := if s.pwrState = 3 then s.setPwr s.pwr.prev else s

/-- The cells of the batch in progress, or of the repair batch, hold undefined conductances (R50). -/
def State.cutBatch (s : State) (a : Nat) : State :=
  match (s.arr a).job with
  | some j =>
    if !j.started then s else
    let cells := match j.repairs with
      | w :: _ => repairCells w
      | [] => batchCells j.scope j.first j.lastRow j.next
    s.modArr a (fun x => { x with
      cells := cells.foldl (fun m (r, p) => m.set none (516 * s.physRow a r + s.physPair a p) none) x.cells })
  | none => s

/-- The power-fail job records of the arrays that run jobs (R50, R406); a job in repair shows batch 0x1FFF (R46). -/
def State.jobRecs (s : State) : List JobRec :=
  s.arrays.filterMap (fun e => match e.2.job with
    | some j => if j.queued then none else some ⟨e.1, j.scope, j.version, if j.repairs.isEmpty then j.last else 0x1FFF⟩
    | none => none)

/-- The device enters POWER_FAIL (R406): pulses and slots end, the job records and the event are
written, and the store of the pages begins, after the page in progress (R411). -/
def State.powerFail (s : State) (cause : Nat) : State :=
  if s.boot.inReset || s.pwrState = 4 || s.pwrState = 5 then s else
  let s1 := s.each ((s.jobRecs).map (·.arr)) (fun t a => t.cutBatch a)
  let e := evDev 0x8001 3 (cause + 65536 * (s.rd .monResult 4 17 % 4096))
  let s2 := (s1.raise (if cause = 2 then { e with locType := 2 } else e)).setPwr 4
  let inProg := if s2.recs.run.isSome then s2.recs.storing.take 1 else []
  { s2 with
    recs := { s2.recs with
      jobs := s.jobRecs, run := none,
      storing := inProg ++ [3, 2, 0] ++ s2.recs.dirtyPages.filter (fun p => p ≠ 3 && p ≠ 2 && p ≠ 0) },
    cores := s2.cores.foldl (fun m e => m.set {} e.1 { e.2 with flying := [] }) [] }

/-- The power-fail store runs to its end (R406). -/
def State.flushStore (s : State) : State :=
  if s.pwrState = 4 && !s.recs.dead then
    let s1 := s.each s.recs.storing (fun t p => t.storePage p)
    { s1 with recs := { s1.recs with storing := [] } }
  else s

/-- The page being written when the hold-up store gives out is torn: its slot is no longer valid (R407). -/
def State.tear (s : State) (page : Nat) : State :=
  let k := 2 * page + (s.storeTarget page).1
  { s with recs := { s.recs with
      slots := s.recs.slots.set none k ((s.recs.slots.get none k).map (fun x => { x with ok := false })),
      torn := some page } }

/-- The hold-up store reaches 6.0 V (R407). Which page it was writing is a free value (assumption 7). -/
def State.holdupOut (s : State) : State :=
  if s.pwrState ≠ 4 || s.recs.dead then s else
  match s.recs.storing with
  | [] => s
  | _ :: _ =>
    let (v, s1) := s.fresh
    let n := v % s.recs.storing.length
    let s2 := s1.each (s.recs.storing.take n) (fun t p => t.storePage p)
    let s3 := s2.tear (s.recs.storing.getD n 0)
    { s3 with recs := { s3.recs with dead := true, storing := [] } }

/-- Everything but the non-volatile parts returns to its reset value: the cells of the arrays, the
shadow array and its retirements, the boot flash and the identity store stay (R388, R402, R409). -/
def State.cold (s : State) (inReset : Bool) : State :=
  { ({} : State) with
    arrays := s.arrays.foldl (fun m e => m.set {} e.1 { cells := e.2.cells, targets := e.2.targets }) [],
    recs := { slots := s.recs.slots, retired := s.recs.retired, wearRaised := s.recs.wearRaised, torn := s.recs.torn, kept := s.recs.kept },
    boot := { inReset := inReset, flash := s.boot.flash, ident := s.boot.ident },
    host := s.host, free := s.free, tx := s.tx, pending := s.pending }

/-- RESET_N driven low (R389, R392). -/
def State.resetOn (s : State) : State := s.flushStore.cold true

/-- RESET_N released: the lockkeeper starts from ROM, and the time value from 0 (R377, R395). -/
def State.resetOff (s : State) : State :=
  if s.boot.inReset then { s with boot := { s.boot with inReset := false }, time := 0 } else s

/-- PWR_FAIL_N released with the supplies in range (R403). -/
def State.powerBack (s : State) : State := if s.pwrState = 4 then s.flushStore.cold false else s

end Sys2Proof.Machine
end

