-- ==== Sys2Proof/Machine/BootOps.lean ====
section
/-! DEFINITION. Boot flash, signed containers and the identity store (R398 to R402). -/
namespace Sys2Proof.Machine
open Sys2Proof

/-- `n` bytes of the boot flash. -/
def State.flashBytes (s : State) (a n : Nat) : List Byte := (List.range n).map (fun i => s.boot.flash.get 0 (a + i))

/-- Bytes of the flash directory that its CRC covers: "CKFD", FORMAT, two reserved bytes, offset and
length of each bank (assumption 9). -/
def dirBytes : Nat := 40

/-- The directory copy at an offset, when its magic, FORMAT and CRC are correct. -/
def State.dirCopy (s : State) (a : Nat) : Option (List Byte) :=
  let d := s.flashBytes a (dirBytes + 4)
  if leAt d 0 4 = 0x44464B43 && leAt d 4 2 = 1 && leAt d dirBytes 4 = crc32c (d.take dirBytes) then some d else none

/-- Offset and length of a bank: FW_A, FW_B, CFG_A, CFG_B. -/
def State.bank (s : State) (i : Nat) : Option (Nat × Nat) :=
  match (s.dirCopy 0).orElse (fun _ => s.dirCopy 0x1000) with
  | some d => some (leAt d (8 + 8 * i) 4, leAt d (12 + 8 * i) 4)
  | none => none

/-- A section of a container: TYPE, OFFSET, LENGTH, CRC (R398). -/
structure BootSect where
  typ : Nat
  off : Nat
  len : Nat
  crc : Nat
  rsv : Nat
  deriving DecidableEq, Repr

/-- Section `i` of a container's header (R398). -/
def bootSect (h : List Byte) (i : Nat) : BootSect :=
  let o := 128 + 16 * i
  ⟨leAt h o 2, leAt h (o + 4) 4, leAt h (o + 8) 4, leAt h (o + 12) 4, leAt h (o + 2) 2⟩

/-- The sections of a container. -/
def bootSects (h : List Byte) : List BootSect := (List.range (leAt h 6 2)).map (bootSect h)

/-- The section types of each kind (R399). -/
def sectTypeOk (cfg : Bool) (t : Nat) : Bool := if cfg then 0x101 ≤ t && t ≤ 0x104 else 1 ≤ t && t ≤ 3

/-- The first step of R398 that the container at `base` fails, 0 when it is accepted. -/
def State.containerStep (s : State) (cfg : Bool) (base bankLen : Nat) : Nat :=
  let h := s.flashBytes base (128 + 16 * 32)
  let sects := bootSects h
  let len := leAt h 8 4
  let key := (h.drop 20).take 65
  let kh := Sha.sha256 key
  let okKey := if cfg then s.boot.ident.owner.isNone || s.boot.ident.owner = some kh
    else (List.range 4).any (fun i => Config.vendorHash i = kh)
  let body := s.flashBytes base len
  if leAt h 0 4 ≠ (if cfg then 0x46434B43 else 0x57464B43) || leAt h 4 2 ≠ 1 || leAt h 6 2 = 0 || 32 < leAt h 6 2 ||
      leAt h 117 11 ≠ 0 || sects.any (fun x => x.rsv ≠ 0) then 1
  else if bankLen < len || (if cfg then 2 ^ 24 else 2 ^ 23) < len then 2
  else if !okKey then 3
  else if len < 64 || !Config.sigValid key (Sha.sha256 (body.take (len - 64))) (body.drop (len - 64)) then 4
  else if sects.any (fun x => !sectTypeOk cfg x.typ || len < x.off + x.len || crc32c ((body.drop x.off).take x.len) ≠ x.crc) then 5
  else if leAt h 16 4 < (if cfg then s.boot.ident.cfgFloor else s.boot.ident.fwFloor) then 6
  else 0

/-- The bytes of the first section of a type. -/
def State.sectBytes (s : State) (base typ : Nat) : List Byte :=
  match (bootSects (s.flashBytes base (128 + 16 * 32))).find? (·.typ = typ) with
  | some x => s.flashBytes (base + x.off) x.len
  | none => []

/-- What the device keeps of an accepted container. -/
def State.containerOf (s : State) (base : Nat) : Container :=
  let h := s.flashBytes base 128
  { version := leAt h 12 4, floor := leAt h 16 4, digest := Sha.sha256 (s.flashBytes base (leAt h 8 4 - 64)),
    keyHash := Sha.sha256 ((h.drop 20).take 65), next := (h.drop 85).take 32 }

/-- NEXT_OWNER is present (R398). -/
def Container.hasNext (c : Container) : Bool := c.next.any (· ≠ 0)

/-- BOOT_STATUS bits that follow the identity store (R402, R417). -/
def State.bootFlags (s : State) : State :=
  let i := s.boot.ident
  let pend := s.boot.fw.any (fun c => i.fwFloor < c.floor) || s.boot.cfg.any (fun c => i.cfgFloor < c.floor ||
    (c.hasNext && i.owner ≠ some c.next))
  (s.wf_ .bootStatus 0 6 6 (b2n i.owner.isSome)).wf_ .bootStatus 0 7 7 (b2n pend)

/-- The firmware bundle runs (R395, R399). -/
def State.takeFw (s : State) (base : Nat) (bankB : Bool) : State :=
  let c := s.containerOf base
  let code := s.sectBytes base 2
  let s1 : State := { s with boot := { s.boot with
    fw := some c, tenderCode := code, tenderBad := false, tenderDigest := Sha.sha256 code } }
  (((s1.wr .lkpFwVersion 0 0 c.version).wf_ .bootStatus 0 4 4 (b2n bankB)).wf_ .bootStatus 0 3 0 3).bootFlags

/-- The 8-byte entries of a REG_WRITES section (R399). -/
def regWriteList (bs : List Byte) : List (Nat × Nat) :=
  (chunks 8 (bs.length / 8) bs).map (fun c => (leAt c 0 4, leAt c 4 4))

/-- The configuration image runs; PCIe and the management port come up (R395, R399). -/
def State.takeCfg (s : State) (base : Nat) (bankB : Bool) : State :=
  let c := s.containerOf base
  let m := s.sectBytes base 0x103
  let pw := s.sectBytes base 0x104
  let s1 : State := { s with boot := { s.boot with
    cfg := some c, regWrites := regWriteList (s.sectBytes base 0x101), sirin := s.sectBytes base 0x102,
    mgmt := m, pwRead := pw.take 8, pwWrite := (pw.drop 8).take 8 } }
  let s2 := if m.isEmpty then s1 else s1.wf_ .pciBar2Cfg 0 12 8 (leAt m 97 1)
  (((s2.wr .lkpCfgVersion 0 0 c.version).wf_ .bootStatus 0 5 5 (b2n bankB)).wf_ .bootStatus 0 3 0 4).bootFlags

/-- A firmware bundle or configuration image read from flash is verified (R398, R401). -/
def State.bootVerify (s : State) (cfg bankB : Bool) : State :=
  let ph := s.rf .bootStatus 0 3 0
  let failedA := if cfg then s.boot.cfgAFailed else s.boot.fwAFailed
  let due := !s.boot.inReset && s.pwrState = 0 && (if cfg then ph = 3 else ph = 1 || ph = 2) && decide (bankB = failedA)
  if !due then s else
  let step := match s.bank (2 * b2n cfg + b2n bankB) with
    | some (base, len) => s.containerStep cfg base len
    | none => 1
  let base := ((s.bank (2 * b2n cfg + b2n bankB)).map (·.1)).getD 0
  if step = 0 then if cfg then s.takeCfg base bankB else s.takeFw base bankB
  else if bankB then
    ((s.setPwr 5).send (.uart cfg step)).raise (evDev 0x9001 3 (b2n cfg + 256 * step))
  else
    let s1 : State := { s with boot := if cfg then { s.boot with cfgAFailed := true } else { s.boot with fwAFailed := true } }
    let s2 := if cfg then s1 else s1.wf_ .bootStatus 0 3 0 2
    if step = 6 then s2.raise (evDev 0x9003 2 (b2n cfg + 2 ^ 32 * leNat (s.flashBytes (base + 16) 4)))
    else s2.raise (evDev 0x9002 2 (b2n cfg + 256 * step))

/-- BOOT_CMD.COMMIT (R402). -/
def State.commit (s : State) : State :=
  let i := s.boot.ident
  let owner := match s.boot.cfg with
    | some c => if c.hasNext then some c.next else if i.owner.isNone then some c.keyHash else i.owner
    | none => i.owner
  let up (o : Option Container) (f : Nat) : Nat := match o with
    | some c => if f < c.floor then c.floor else f
    | none => f
  let s1 := ({ s with boot := { s.boot with
    ident := { owner := owner, fwFloor := up s.boot.fw i.fwFloor, cfgFloor := up s.boot.cfg i.cfgFloor } } } : State).bootFlags
  if owner = i.owner then s1 else s1.raise (evDev 0x9004 0 (leNat ((owner.getD []).take 8)))

end Sys2Proof.Machine
end

