-- ==== Sys2Proof/Machine/CounterOps.lean ====
section
/-! DEFINITION. Counters, the sweep, windowed byte counters and operation samples (R419 to R429). -/
namespace Sys2Proof.Machine
open Sys2Proof

/-- Counters of waits that take no time in the model, of core SRAM accesses, of energy, and of traffic whose units the spec leaves to the
device (bursts, TLPs, die-link flits): their values are open (assumption 10). -/
def ctrOpen (n : Nat) : Bool :=
  let b := n / 256
  let k := n % 256
  if b < 0x80 then decide (k = 41) || decide (k = 42) || decide (k = 44) || decide (k = 46)
  else if b < 0x84 then k ≤ 5 || decide (k = 11)
  else if b = 0xA0 then true
  else if 0xB0 ≤ b && b < 0xB4 then k ≤ 3 || decide (k = 7)
  else false

/-- The value a counter is read with (R419). -/
def State.ctrRead (s : State) (n : Nat) : Nat × State :=
  if ctrOpen n then let (v, s1) := s.fresh; (u64 v, s1) else ((s.ctrs.get 0 n).toNat, s)

/-- The latch of a HI word for a path (R434). -/
def latchKey (p : Path) (addr : Nat) : Nat := 2 ^ 32 * Path.num p + addr

/-- Load a latch. -/
def State.latch (s : State) (p : Path) (addr v : Nat) : State :=
  { s with latches := s.latches.set 0 (latchKey p addr) (BitVec.ofNat 32 v) }

/-- What a latch holds. -/
def State.latched (s : State) (p : Path) (addr : Nat) : Nat := (s.latches.get 0 (latchKey p addr)).toNat

/-- A read of a counter's LO word: it latches HI (R419, R434). -/
def State.ctrLo (s : State) (p : Path) (n addr : Nat) : Nat × State :=
  let (v, s1) := s.ctrRead n
  (u32 v, s1.latch p (addr + 4) (v / 2 ^ 32))

/-! ### The sweep -/

/-- The IDs of `n` counters of a block. -/
def blockIds (b n : Nat) : List Nat := (List.range n).map (fun k => ctrId b k)

/-- The counter IDs of a sweep's groups, ascending (R419, R423). -/
def sweepIds (groups : Nat) : List Nat :=
  (if bit groups 0 then (List.range 128).flatMap (fun n => blockIds n 48) else []) ++
  (if bit groups 1 then (List.range 4).flatMap (fun q => blockIds (ctrQuarter q) 16) else []) ++
  (if bit groups 2 then (List.range 16).flatMap (fun p => blockIds (ctrPort p) 8) else []) ++
  (if bit groups 3 then blockIds ctrPcie 8 else []) ++
  (if bit groups 4 then (List.range 4).flatMap (fun m => blockIds (ctrMem m) 8) else []) ++
  (if bit groups 5 then blockIds ctrIo 16 else [])

/-- The device address of sweep slot `n` (R424). -/
def State.sweepSlot (s : State) (n : Nat) : Nat := s.rdPair .ctrBufLo .ctrBufHi + 131072 * n

/-- Write to block space only (R289). -/
def State.putDev (s : State) (a : Nat) (bs : List Byte) : State := if s.inBlocks a bs.length then s.putMem a bs else s

/-- A sweep starts: it writes SEQ as all ones (R425). -/
def State.sweepGo (s : State) : State :=
  let slot := (s.sweep.done + 1) % 2 ^ s.rf .ctrSweepCfg 0 23 20
  ({ s with sweep := { s.sweep with running := some (s.time, s.rf .ctrSweepCfg 0 29 24, slot) } } : State).putDev
    (s.sweepSlot slot) (List.replicate 8 0xFF)

/-- CTR_SWEEP_CMD.START (R423). -/
def State.sweepCmd (s : State) (p : Path) : State :=
  if s.sweep.running.isSome then s.ignored p (Reg.ctrSweepCmd.addr 0 0) 3 else s.sweepGo

/-- A multiple of PERIOD_US (R423). -/
def State.sweepTick (s : State) : State :=
  if s.rf .ctrSweepCfg 0 19 0 = 0 then s
  else if s.sweep.running.isSome then s.wf_ .ctrSweepStatus 0 31 16 (satTo 0xFFFF (s.rf .ctrSweepStatus 0 31 16 + 1))
  else s.sweepGo

/-- The records of a sweep: value, ID and DT of each read, `ps` picoseconds apart (R424). -/
def State.sweepRecs (s : State) (ps k : Nat) : List Nat → List Byte × State
  | [] => ([], s)
  | n :: ns =>
    let (v, s1) := s.ctrRead n
    let (rest, s2) := s1.sweepRecs ps (k + 1) ns
    (leBytes 8 v ++ leBytes 4 n ++ leBytes 4 (ps * k / 1000) ++ rest, s2)

/-- The place of a counter's lifetime total in the record store, as byte of the store (R422). -/
def lifePlace (n : Nat) : Option Nat :=
  let b := n / 256
  let k := n % 256
  if b < 0x80 then if k < 32 then some (4096 * 39 + 256 * b + 8 * k) else none
  else if b < 0x84 then some (4096 * 47 + 128 * (b - 0x80) + 8 * k)
  else if b = 0xC0 then some (4096 * 47 + 512 + 8 * k)
  else if 0xB0 ≤ b && b < 0xB4 then some (4096 * 47 + 640 + 64 * (b - 0xB0) + 8 * k)
  else none

/-- Write one lifetime total (R422). -/
def State.lifeTotal (s : State) (n : Nat) : State :=
  match lifePlace n with
  | some o =>
    let base := leNat ((List.range 8).map (fun i => s.recs.life.get 0 (o + i)))
    let (now, s1) := s.ctrRead n
    let v := u64 (base + now)
    ({ s1 with recs := { s1.recs with user := storeBytes s1.recs.user o (leBytes 8 v) } } : State).touch (o / 4096)
  | none => s

/-- A sweep ends: its records, then its number, then the lifetime totals (R422 to R425). -/
def State.sweepEnd (s : State) : State :=
  match s.sweep.running with
  | some (t, groups, slot) =>
    let ids := sweepIds groups
    let n := s.sweep.done + 1
    let (v, s0) := s.fresh
    let (recs, s1) := s0.sweepRecs (4500 + v % 1601) 0 ids
    let hdr := leBytes 8 n ++ leBytes 8 t ++ leBytes 4 ids.length ++ leBytes 1 groups ++ List.replicate 43 0
    let s2 := s1.putDev (s.sweepSlot slot) (hdr ++ recs)
    let s3 : State := { s2 with sweep := { done := n, running := none } }
    let s4 := (s3.wf_ .ctrSweepStatus 0 15 8 slot).wr .ctrSweepSeq 0 0 (u32 n)
    (s4.each ids State.lifeTotal).count ctrIo 11 1
  | none => s

/-- CTR_SWEEP_STATUS.BUSY (R429). -/
def State.sweepBusy (s : State) : Bool := s.sweep.running.isSome || decide (s.rf .ctrSweepCfg 0 19 0 ≠ 0)

/-! ### Windows -/

/-- Add bytes to a window channel (R426). -/
def State.winCount (s : State) (ch n : Nat) : State :=
  if s.wins.start.isSome then
    let c := s.wins.chans.get {} ch
    { s with wins := { s.wins with chans := s.wins.chans.set {} ch { c with cnt := c.cnt + n } } }
  else s

/-- A window channel at the window's end. -/
def WinCh.roll (c : WinCh) : WinCh := { cnt := 0, last := c.cnt, peak := max c.peak c.cnt }

/-- A whole multiple of the window length (R426). -/
def State.windowEnd (s : State) : State :=
  match s.wins.start with
  | some t => { s with wins := {
      chans := s.wins.chans.foldl (fun m e => m.set {} e.1 e.2.roll) [], start := some s.time,
      idx := u32 (t / (1000 * s.rf .ctrWinCfg 0 19 0)) } }
  | none => { s with wins := { s.wins with start := some s.time } }

/-- A write of CTR_WIN_CFG (R426, R429). -/
def State.winCfg (s : State) (p : Path) (v : Nat) : State :=
  if 2 ^ 20 ≤ v || v = 0 || 1000000 < v then s.ignored p (Reg.ctrWinCfg.addr 0 0) 2
  else
    let s1 := s.wr .ctrWinCfg 0 0 v
    { s1 with wins := { s1.wins with
        chans := s1.wins.chans.foldl (fun m e => m.set {} e.1 { e.2 with cnt := 0 }) [], start := none } }

/-- Window channels whose units the spec leaves to the device (assumption 10). -/
def winOpen (ch : Nat) : Bool := 32 ≤ ch

/-- The selected channel's LAST and PEAK (R429). -/
def State.winRead (s : State) : Nat × Nat × State :=
  let ch := s.rf .ctrWinSel 0 5 0
  if winOpen ch then
    let (v, s1) := s.fresh
    let (w, s2) := s1.fresh
    (u64 v, u64 w, s2)
  else ((s.wins.chans.get {} ch).last, (s.wins.chans.get {} ch).peak, s)

/-- A read of CTR_WIN_LAST_LO: it latches LAST_HI, PEAK and IDX (R426, R434). -/
def State.winLastLo (s : State) (p : Path) : Nat × State :=
  let (l, k, s1) := s.winRead
  (u32 l, (((s1.latch p (Reg.ctrWinLastHi.addr 0 0) (l / 2 ^ 32)).latch p (Reg.ctrWinPeakLo.addr 0 0) (u32 k)).latch p
    (Reg.ctrWinPeakHi.addr 0 0) (k / 2 ^ 32)).latch p (Reg.ctrWinIdx.addr 0 0) s.wins.idx)

/-- CLEAR_PEAK (R429). -/
def State.clearPeak (s : State) : State :=
  let ch := s.rf .ctrWinSel 0 5 0
  { s with wins := { s.wins with chans := s.wins.chans.set {} ch { s.wins.chans.get {} ch with peak := 0 } } }

/-! ### Samples -/

/-- Samples a core holds at most (R428). -/
def sampleMax : Nat := 1024

/-- The position of the sample that a new one replaces: the oldest, or with WRAP = 0 the oldest released. -/
def sampleVictim (wrap : Bool) (xs : List Sample) : Option Nat :=
  if wrap then some 0 else xs.findIdx? (·.released)

/-- Write one sample (R427, R428). -/
def State.sampleWrite (s : State) (c : Nat) (bs : List Byte) : State :=
  let x := s.core c
  let new : Sample := ⟨x.sampleHead, bs, false, false⟩
  let put (xs : List Sample) : State :=
    ((s.setCore c { x with samples := xs ++ [new], sampleHead := x.sampleHead + 1 }).wr .smpHead c 0
      (u32 (x.sampleHead + 1))).count ctrIo 12 1
  if x.samples.length < sampleMax then put x.samples
  else match sampleVictim (s.rb .smpCfg c 8) x.samples with
    | some i =>
      let lost := !(((x.samples[i]?).map (·.latched)).getD true)
      (put (eraseAt x.samples i)).bump .smpLost c (b2n lost)
    | none => s.bump .smpLost c 1

/-- A write of SMP_IDX (R428). -/
def State.sampleIdx (s : State) (c v : Nat) : State :=
  let x := s.core c
  let here (y : Sample) : Bool := decide (u32 y.seq = v)
  let win := ((x.samples.find? here).map (·.bytes)).getD (List.replicate 64 0)
  let below (y : Sample) : Bool := let d := u32 (v + 2 ^ 32 - u32 y.seq); 1 ≤ d && d < 2 ^ 31
  (s.setCore c { x with
    sampleWin := win,
    samples := x.samples.map (fun y => { y with latched := y.latched || here y, released := y.released || below y }) }).wr
    .smpIdx c 0 v

end Sys2Proof.Machine
end

