-- ==== Sys2Proof/Machine/NetOps.lean ====
section
/-! DEFINITION. Frames, the Sirin table, packets, channels and peers (R360 to R371). -/
namespace Sys2Proof.Machine
open Sys2Proof

/-! ### Serial numbers, checksums, addresses -/

/-- a precedes b in 32-bit serial-number arithmetic (R365). -/
def serLt (a b : Nat) : Bool := let d := u32 (b + 2 ^ 32 - a); 1 ≤ d && d < 2 ^ 31

/-- Fold the carries of a ones'-complement sum. -/
def fold16 (n : Nat) : Nat := let m := n % 65536 + n / 65536; m % 65536 + m / 65536

/-- The ones'-complement sum of a byte list's 16-bit words. -/
def sum16 : List Byte → Nat
  | a :: b :: bs => 256 * a.toNat + b.toNat + sum16 bs
  | [a] => 256 * a.toNat
  | [] => 0

/-- The Internet checksum of a byte list. -/
def cksum (bs : List Byte) : Nat := 65535 - fold16 (fold16 (sum16 bs))

/-- The address is IPv4-mapped (R362). -/
def isV4 (a : List Byte) : Bool := (a.take 10).all (· = 0) && (a.drop 10).take 2 = [0xFF, 0xFF]

/-- The first `n` bits of two addresses agree. -/
def samePrefix (n : Nat) (a b : List Byte) : Bool := beNat a / 2 ^ (128 - n) = beNat b / 2 ^ (128 - n)

/-! ### The Sirin table -/

/-- A number of a table entry (R362). -/
def State.srnField (s : State) (entry off n : Nat) : Nat := leAt s.net.table (64 * entry + off) n
/-- Bytes of a table entry (R362). -/
def State.srnBytes (s : State) (entry off n : Nat) : List Byte := (s.net.table.drop (64 * entry + off)).take n
/-- The table entry of a peer. -/
def peerEnt (i : Nat) : Nat := 16 + i
/-- The table entry of a route. -/
def routeEnt (i : Nat) : Nat := 272 + i

/-- A peer entry is VALID. -/
def State.peerValid (s : State) (i : Nat) : Bool := bit (s.srnField (peerEnt i) 19 1) 0
/-- The local entry of a logical port is VALID (R362). -/
def State.localValid (s : State) (p : Nat) : Bool := bit (s.srnField p 17 1) 0
/-- The logical port of a peer. -/
def State.peerPort (s : State) (i : Nat) : Nat := s.srnField (peerEnt i) 18 1 % 16

/-- The first route entry that serves a model with a FLAGS bit set (R373, R374). -/
def State.route? (s : State) (model flag : Nat) : Option Nat :=
  (List.range 64).find? (fun i => s.srnField (routeEnt i) 0 2 = model && bit (s.srnField (routeEnt i) 2 1) flag)

/-- A logical port is up. -/
def State.linkUp (s : State) (p : Nat) : Bool := s.rb .ethPortStatus (p / 4) (p % 4)

/-! ### Frames -/

/-- A frame leaves a port (R360, R421, R426); the units count its FCS. -/
def State.txFrame (s : State) (port : Nat) (bytes : List Byte) : State :=
  (((s.send (.frame port bytes)).count (ctrPort port) 2 1).count (ctrPort port) 3 (bytes.length + 4)).winCount
    (2 * port + 1) (bytes.length + 4)

/-- The Ethernet header of a port's frames: addresses, VLAN tag, type (R360, R362). -/
def State.ethHdr (s : State) (port : Nat) (dst : List Byte) (typ : Nat) : List Byte :=
  dst ++ s.srnBytes port 40 6 ++
  (if bit (s.srnField port 17 1) 1 then [0x81, 0x00] ++ beBytes 2 (s.srnField port 18 2) else []) ++ beBytes 2 typ

/-- A frame of at least the Ethernet minimum. -/
def State.ethFrame (s : State) (port : Nat) (dst : List Byte) (typ : Nat) (pay : List Byte) : List Byte :=
  s.ethHdr port dst typ ++ (pay ++ List.replicate (46 - pay.length) 0)

/-- An IP packet with one upper-layer payload (R363). -/
def ipPacket (src dst : List Byte) (dscp proto : Nat) (pay : List Byte) : List Byte :=
  if isV4 dst then
    let h (c : Nat) : List Byte := [0x45, BitVec.ofNat 8 (4 * dscp)] ++ beBytes 2 (20 + pay.length) ++
      beBytes 2 (Config.ipField 1) ++ beBytes 2 (Config.ipField 2 % 8 * 8192) ++ beBytes 1 (Config.ipField 0) ++ beBytes 1 proto ++
      beBytes 2 c ++ src.drop 12 ++ dst.drop 12
    h (cksum (h 0)) ++ pay
  else
    beBytes 4 (6 * 2 ^ 28 + dscp * 2 ^ 22) ++ beBytes 2 pay.length ++ beBytes 1 proto ++ beBytes 1 (Config.ipField 0) ++ src ++ dst ++ pay

/-- The pseudo-header of an upper-layer checksum. -/
def pseudo (src dst : List Byte) (proto len : Nat) : List Byte :=
  if isV4 dst then src.drop 12 ++ dst.drop 12 ++ beBytes 2 proto ++ beBytes 2 len
  else src ++ dst ++ beBytes 4 len ++ beBytes 4 proto

/-- A UDP datagram with its checksum. -/
def udp (src dst : List Byte) (sp dp : Nat) (pay : List Byte) : List Byte :=
  let h (c : Nat) := beBytes 2 sp ++ beBytes 2 dp ++ beBytes 2 (8 + pay.length) ++ beBytes 2 c
  let c := cksum (pseudo src dst 17 (8 + pay.length) ++ h 0 ++ pay)
  h (if c = 0 then 65535 else c) ++ pay

/-- An ARP packet of an operation (R360). -/
def arp (op : Nat) (smac sip tmac tip : List Byte) : List Byte :=
  [0, 1, 8, 0, 6, 4] ++ beBytes 2 op ++ smac ++ sip ++ tmac ++ tip

/-- An ICMPv6 message with its checksum. -/
def icmp6 (src dst body : List Byte) : List Byte :=
  let c := cksum (pseudo src dst 58 (body.length) ++ body)
  body.take 2 ++ beBytes 2 c ++ body.drop 4

/-- Ask for the MAC of a next hop, by ARP or by neighbour discovery (R363). -/
def State.askHop (s : State) (port : Nat) (hop : List Byte) : State :=
  let me := s.srnBytes port 0 16
  let mac := s.srnBytes port 40 6
  if isV4 hop then
    s.txFrame port (s.ethFrame port (List.replicate 6 0xFF) 0x0806 (arp 1 mac (me.drop 12) (List.replicate 6 0) (hop.drop 12)))
  else
    let sn : List Byte := [0xFF, 0x02] ++ List.replicate 9 0 ++ [0x01, 0xFF] ++ hop.drop 13
    let ns := icmp6 me sn ([135, 0, 0, 0, 0, 0, 0, 0] ++ hop ++ [1, 1] ++ mac)
    s.txFrame port (s.ethFrame port ([0x33, 0x33, 0xFF] ++ hop.drop 13) 0x86DD (ipPacket me sn 0 58 ns))

/-- An IP packet leaves by a port towards a next hop, at once or when the hop is resolved (R363). -/
def State.ipSend (s : State) (port : Nat) (hop : List Byte) (v4 : Bool) (bytes : List Byte) : State :=
  match s.net.neigh.find? (fun n => n.port = port && n.addr = hop) with
  | some n => s.txFrame port (s.ethFrame port n.mac (if v4 then 0x0800 else 0x86DD) bytes)
  | none => ({ s with net := { s.net with unres := s.net.unres ++ [⟨port, hop, v4, bytes⟩] } } : State).askHop port hop

/-- A next hop is resolved: what waited for it leaves. -/
def State.resolved (s : State) (port : Nat) (hop mac : List Byte) : State :=
  let mine (u : Unres) : Bool := u.port = port && u.hop = hop
  let out := s.net.unres.filter mine
  let s1 : State := { s with net := { s.net with
    neigh := ⟨port, hop, mac⟩ :: s.net.neigh.filter (fun n => !(n.port = port && n.addr = hop)),
    unres := s.net.unres.filter (fun u => !mine u) } }
  s1.each out (fun t u => t.ipSend u.port u.hop u.v4 u.bytes)

/-! ### Sirin packets -/

/-- One peer. -/
def State.peer (s : State) (i : Nat) : Peer := s.net.peers.get {} i
/-- Replace one peer. -/
def State.setPeer (s : State) (i : Nat) (x : Peer) : State := { s with net := { s.net with peers := s.net.peers.set {} i x } }
/-- Change one peer. -/
def State.modPeer (s : State) (i : Nat) (f : Peer → Peer) : State := s.setPeer i (f (s.peer i))

/-- A channel of a peer. -/
def Peer.chan (x : Peer) (ch : Nat) : Chan := if ch = 0 then x.ch0 else x.ch1
/-- Replace a channel of a peer. -/
def Peer.setChan (x : Peer) (ch : Nat) (c : Chan) : Peer := if ch = 0 then { x with ch0 := c } else { x with ch1 := c }
/-- Change a channel of a peer. -/
def State.modChan (s : State) (i ch : Nat) (f : Chan → Chan) : State :=
  s.modPeer i (fun x => x.setChan ch (f (x.chan ch)))

/-- Further packets the channel can accept (R364, R366): what is received and not yet taken counts
against 512 (assumption 12). -/
def Chan.room (c : Chan) : Nat := 512 - (c.held.length + c.part.length + (c.inbox.map (·.packets)).sum)

/-- The SACK word: bit i set for packet ACK + 1 + i received (R364). -/
def Chan.sack (c : Chan) : Nat :=
  ((List.range 32).map (fun i => if c.held.any (fun p => p.seq = u32 (c.rxNext + 1 + i)) then 2 ^ i else 0)).sum

/-- The transport header and payload of a packet (R364). -/
def sirinBytes (typ flags epoch seq ack sack window : Nat) (pay : List Byte) : List Byte :=
  let h (c : Nat) : List Byte := [0x53, 0x4E, 0x01] ++ leBytes 1 typ ++ leBytes 1 flags ++ [0] ++ leBytes 2 pay.length ++
    leBytes 4 epoch ++ leBytes 4 seq ++ leBytes 4 ack ++ leBytes 4 sack ++ leBytes 2 window ++ [0, 0] ++ leBytes 4 c
  h (crc32c (h 0 ++ pay)) ++ pay

/-- The next hop towards a peer (R363). -/
def State.nextHop (s : State) (i : Nat) : List Byte :=
  let p := s.peerPort i
  let a := s.srnBytes (peerEnt i) 0 16
  let n := s.srnField p 16 1 + (if isV4 a then 96 else 0)
  if samePrefix n (s.srnBytes p 0 16) a then a else s.srnBytes p 20 16

/-- Send the bytes of a Sirin packet to a peer (R363, R364). -/
def State.sirinOut (s : State) (i ch : Nat) (bytes : List Byte) : State :=
  let p := s.peerPort i
  let me := s.srnBytes p 0 16
  let a := s.srnBytes (peerEnt i) 0 16
  let dscp := s.srnField p (if ch = 0 then 38 else 39) 1 % 64
  let d := udp me a (s.rf .ethSrnCfg 0 15 0) (s.srnField (peerEnt i) 16 2) bytes
  s.ipSend p (s.nextHop i) (isV4 a) (ipPacket me a dscp 17 d)

/-- Send a control packet of a channel (R367, R368). -/
def State.sirinCtl (s : State) (i ch typ : Nat) : State :=
  let c := (s.peer i).chan ch
  (s.modChan i ch (fun c => { c with owed := 0 })).sirinOut i ch
    (sirinBytes typ ch (s.rd .ethSrnEpoch) c.txSeq c.rxNext c.sack c.room [])

/-- Send a data packet; it carries the acknowledgement of its channel (R368). -/
def State.sirinData (s : State) (i ch : Nat) (p : Pkt) (retx : Bool) : State :=
  let c := (s.peer i).chan ch
  (s.modChan i ch (fun c => { c with owed := 0 })).sirinOut i ch
    (sirinBytes p.typ (p.flags + 8 * b2n retx) (s.rd .ethSrnEpoch) p.seq c.rxNext c.sack c.room p.payload)

/-- Payload bytes a packet to the peer holds at most (R363, R364). -/
def State.pktMax (s : State) (i : Nat) : Nat :=
  let m := min (s.srnField (s.peerPort i) 36 2) (s.srnField (peerEnt i) 20 2)
  max 1 (m - (if isV4 (s.srnBytes (peerEnt i) 0 16) then 20 else 40) - 40)

/-- The packets of a message (R366). -/
def packets (typ ch seq n : Nat) (pay : List Byte) : List Pkt :=
  let parts := if pay.isEmpty then [[]] else chunks n (cdiv pay.length n) pay
  let last := parts.length - 1
  parts.zipIdx.map (fun (b, k) => ⟨u32 (seq + k), typ, ch + 2 * b2n (decide (k = 0)) + 4 * b2n (decide (k = last)), b⟩)

/-- The timeout of a new packet (R369), in ns. -/
def State.rto (s : State) (x : Peer) : Nat :=
  if x.measured then min 10000000 (max (1000 * s.rf .ethSrnRto 0 15 0) (x.srtt + 4 * x.rttvar)) else 100000

/-- The packets of a channel that the window and the link let leave (R361, R368). -/
def State.pump (s : State) (i ch : Nat) : State :=
  let x := s.peer i
  let c := x.chan ch
  if x.st ≠ .open_ || !s.linkUp (s.peerPort i) then s else
  let n := min c.window 512 - c.out.length
  let go := c.queue.take n
  let s1 := s.modChan i ch (fun c => { c with
    queue := c.queue.drop n, out := c.out ++ go.map (fun p => ⟨p, 0, s.rto x, s.time, false⟩) })
  s1.each go (fun t p => t.sirinData i ch p false)

/-- The transport is on, the peer's entry valid, and so is the local entry of its logical port (R362, R390). -/
def State.srnUsable (s : State) (i : Nat) : Bool := s.rb .ethSrnCfg 0 16 && s.peerValid i && s.localValid (s.peerPort i)

/-- Begin to open a peer (R370). -/
def State.openBegin (s : State) (i : Nat) : State :=
  (s.modPeer i (fun y => { y with st := .opening, since := s.time, openSent := s.time })).sirinCtl i 0 1

/-- OPEN is due again: every 1 ms while OPENING, every 10 ms while UNREACHABLE (R370). -/
def State.openDue (s : State) (i : Nat) : Bool :=
  let x := s.peer i
  (decide (x.st = .opening) && x.openSent + 1000000 ≤ s.time) || (decide (x.st = .unreachable) && max x.since x.openSent + 10000000 ≤ s.time)

/-- Queue a message to a peer (R366, R370); false when it fails at once. -/
def State.srnSend (s : State) (i ch typ : Nat) (pay : List Byte) : Bool × State :=
  let x := s.peer i
  if !s.srnUsable i || x.st = .unreachable then (false, s) else
  let c := x.chan ch
  let ps := packets typ ch c.txSeq (s.pktMax i) pay
  let m : OutMsg := ⟨typ, pay.take 40, c.txSeq, u32 (c.txSeq + ps.length - 1)⟩
  let s1 := (s.modChan i ch (fun c => { c with
    txSeq := u32 (c.txSeq + ps.length), queue := c.queue ++ ps, msgs := c.msgs ++ [m] })).count ctrIo 3 1
  match x.st with
  | .closed => (true, s1.openBegin i)
  | _ => (true, s1.pump i ch)

/-! ### Failing messages -/

/-- The chain to the next device is broken (R233). -/
def State.chainBroken (s : State) (m peer off : Nat) : State :=
  if (s.model m).rxBroken = some peer then s
  else ((s.modModel m (fun x => { x with rxBroken := some peer })).flag .imgEvent 0 8).raise (evModel 0x6004 1 m (3 + 65536 * off))

/-- A write-back fails: the adapter stays resident (R249). -/
def State.writeBackFailed (s : State) (tag : Nat) : State :=
  match s.net.tags.find? (fun t => t.tag = tag && t.write) with
  | some t =>
    let s1 : State := { s with net := { s.net with tags := s.net.tags.filter (fun u => u.tag ≠ tag) } }
    ((s1.setAdp t.slot { s1.adp t.slot with evicting := false, passed := true }).flag .imgEvent 0 (2 ^ 17)).raise
      ((evModel 0x6023 1 (s.ctx t.ctx).model t.slot).withStream true t.ctx (2 ^ 64 - 1))
  | none => s

/-- The consequence of a failed message (R371). -/
def State.msgFailed (s : State) (i : Nat) (m : OutMsg) : State :=
  if m.typ = 0x12 then
    s.raise ((evPeer 0x5013 1 i (m.typ + 256 * i)).withStream (bit (leAt m.head 26 1) 0) (leAt m.head 2 2) (leAt m.head 8 8))
  else if m.typ = 0x20 then s.chainBroken (leAt m.head 0 2) i (leAt m.head 16 8)
  else if m.typ = 0x23 then s.writeBackFailed (leAt m.head 0 4)
  else s

/-- Fail every message of a peer (R370, R371): how many, and the state after their consequences. Both
channels restart; what was delivered stays. -/
def State.failAll (s : State) (i : Nat) : Nat × State :=
  let x := s.peer i
  let ms := x.ch0.msgs ++ x.ch1.msgs
  let clear (c : Chan) : Chan := { inbox := c.inbox }
  (ms.length, (s.setPeer i { x with ch0 := clear x.ch0, ch1 := clear x.ch1 }).each ms (fun t m => t.msgFailed i m))

/-- A peer becomes UNREACHABLE (R370). -/
def State.unreachable (s : State) (i : Nat) (event : Bool) : State :=
  let (n, s1) := s.failAll i
  let s2 := s1.modPeer i (fun x => { x with st := .unreachable, since := s.time })
  if event then s2.raise (evPeer 0x5011 1 i (i + 65536 * (n % 2 ^ 32))) else s2

/-- A peer becomes CLOSED (R370). -/
def State.closePeer (s : State) (i : Nat) : State :=
  let (_, s1) := s.failAll i
  s1.modPeer i (fun x => { ch0 := x.ch0, ch1 := x.ch1 })

/-- EN cleared: every peer is CLOSED (R390). -/
def State.closeAll (s : State) : State := s.each (s.net.peers.map (·.1)) (fun t i => t.closePeer i)

/-- A peer becomes OPEN (R370); what was queued meanwhile leaves. -/
def State.peerOpen (s : State) (i epoch : Nat) : State :=
  let s1 := (s.modPeer i (fun x => { x with st := .open_, epoch := epoch })).raise
    (evPeer 0x5010 0 i (i + 2 ^ 32 * epoch))
  (s1.pump i 0).pump i 1

/-- Both channels restart at SEQ 0; messages not yet sent are renumbered (R370). -/
def Chan.restart (c : Chan) : Chan :=
  let keep := c.msgs.filter (fun m => c.queue.any (fun p => p.seq = m.first))
  let pk := c.queue.filter (fun p => keep.any (fun m => u32 (p.seq + 2 ^ 32 - m.first) ≤ u32 (m.last + 2 ^ 32 - m.first)))
  let base := match keep with
    | m :: _ => m.first
    | [] => 0
  let re (n : Nat) : Nat := u32 (n + 2 ^ 32 - base)
  { txSeq := pk.length, queue := pk.map (fun p => { p with seq := re p.seq }),
    msgs := keep.map (fun m => { m with first := re m.first, last := re m.last }) }

/-- Messages of a channel of which some packet has been sent and not acknowledged. -/
def Chan.started (c : Chan) : List OutMsg := c.msgs.filter (fun m => !c.queue.any (fun p => p.seq = m.first))

/-- OPEN from a peer (R370). -/
def State.gotOpen (s : State) (i epoch : Nat) : State :=
  let x := s.peer i
  match x.st with
  | .open_ =>
    if epoch = x.epoch then s.sirinCtl i 0 2
    else
      let ms := x.ch0.started ++ x.ch1.started
      let s1 := (s.setPeer i { x with epoch := epoch, ch0 := x.ch0.restart, ch1 := x.ch1.restart }).each ms
        (fun t m => t.msgFailed i m)
      (((s1.sirinCtl i 0 2).raise (evPeer 0x5012 1 i (i + 65536 * (ms.length % 65536) + 2 ^ 32 * epoch))).pump i 0).pump i 1
  | _ => (s.sirinCtl i 0 2).peerOpen i epoch

/-- OPEN_ACK from a peer (R370). -/
def State.gotOpenAck (s : State) (i epoch : Nat) : State :=
  match (s.peer i).st with
  | .opening => s.peerOpen i epoch
  | .unreachable => s.peerOpen i epoch
  | _ => s

/-- The round-trip estimators of RFC 6298 after a sample of `r` ns (R369). -/
def Peer.sample (x : Peer) (r : Nat) : Peer :=
  if x.measured then
    let d := if x.srtt < r then r - x.srtt else x.srtt - r
    { x with rttvar := (3 * x.rttvar + d) / 4, srtt := (7 * x.srtt + r) / 8 }
  else { x with measured := true, srtt := r, rttvar := r / 2 }

/-- The packets an ACK and SACK cover (R364, R365). -/
def acked (ack sack : Nat) (p : Pkt) : Bool :=
  serLt p.seq ack || (List.range 32).any (fun k => bit sack k && p.seq = u32 (ack + 1 + k))

/-- A packet is retransmitted (R369, R421). -/
def State.retransmit (s : State) (i ch : Nat) (o : OutPkt) (fast : Bool) : State :=
  let upd (y : OutPkt) : OutPkt :=
    if y.pkt.seq = o.pkt.seq then
      { y with retx := y.retx + 1, fast := y.fast || fast, timeout := if fast then y.timeout else 2 * y.timeout, sentAt := s.time }
    else y
  (((s.modChan i ch (fun c => { c with out := c.out.map upd })).bump .ethSrnRetxCount 0 1).count
    (ctrPort (s.peerPort i)) 7 1).sirinData i ch o.pkt true

/-- ACK, SACK and WINDOW of a received packet (R368, R369). -/
def State.gotAck (s : State) (i ch ack sack window : Nat) : State :=
  let x := s.peer i
  let c := x.chan ch
  let done := c.out.filter (fun o => acked ack sack o.pkt)
  let x1 := (done.filter (fun o => o.retx = 0)).foldl (fun y o => y.sample (s.time - o.sentAt)) x
  let out := c.out.filter (fun o => !acked ack sack o.pkt)
  let live (m : OutMsg) : Bool :=
    let here (q : Nat) : Bool := u32 (q + 2 ^ 32 - m.first) ≤ u32 (m.last + 2 ^ 32 - m.first)
    out.any (fun o => here o.pkt.seq) || c.queue.any (fun p => here p.seq)
  let s1 := s.setPeer i (x1.setChan ch { c with out := out, msgs := c.msgs.filter live, window := window })
  let lost := out.filter (fun o => !o.fast &&
    3 ≤ ((List.range 32).filter (fun k => bit sack k && serLt o.pkt.seq (u32 (ack + 1 + k)))).length)
  (s1.each lost (fun t o => t.retransmit i ch o true)).pump i ch

/-- The oldest packet whose timer has expired is sent again, or the peer is UNREACHABLE (R369, R370). -/
def State.retxTimeout (s : State) (i ch : Nat) : State :=
  match ((s.peer i).chan ch).out.find? (fun o => o.sentAt + o.timeout ≤ s.time) with
  | some o =>
    if (s.peer i).st ≠ .open_ then s
    else if s.rf .ethSrnCfg 0 23 20 ≤ o.retx then s.unreachable i true
    else s.retransmit i ch o false
  | none => s

/-! ### Receiving data packets -/

/-- Messages that a submitter or the network store acts on, not this device: COMPLETION, ADP_FETCH and ADP_WRITE. They are taken at
once (R367; DEDUCED, assumption 12). -/
def notOurs (typ : Nat) : Bool := typ = 0x11 || typ = 0x21 || typ = 0x23

/-- Take the packets in order into messages (R366). -/
def Chan.deliver (c : Chan) : Nat → Chan
  | 0 => c
  | n + 1 =>
    match c.held.find? (fun p => p.seq = c.rxNext) with
    | some p =>
      let part := if bit p.flags 1 then [p] else c.part ++ [p]
      let c1 := { c with held := c.held.filter (fun q => q.seq ≠ p.seq), rxNext := u32 (c.rxNext + 1) }
      if bit p.flags 2 then
        ({ c1 with
          part := [], inbox := if notOurs p.typ then c.inbox else c.inbox ++ [⟨p.typ, part.flatMap (·.payload), part.length⟩] } : Chan).deliver n
      else ({ c1 with part := part } : Chan).deliver n
    | none => c

/-- A data packet of an OPEN peer arrives (R366, R368). -/
def State.gotData (s : State) (i ch : Nat) (p : Pkt) : State :=
  let c := (s.peer i).chan ch
  if serLt p.seq c.rxNext || c.held.any (fun q => q.seq = p.seq) || c.room = 0 then s.sirinCtl i ch 3 else
  let c1 := ({ c with held := c.held ++ [p], owed := c.owed + 1, owedAt := if c.owed = 0 then s.time else c.owedAt } : Chan).deliver 513
  let now := decide (p.seq ≠ c.rxNext) || !c.held.isEmpty || bit p.flags 4 || decide (16 ≤ c1.owed)
  let s1 := (s.modChan i ch (fun _ => c1)).count ctrIo 2 (c1.inbox.length - c.inbox.length)
  if now then s1.sirinCtl i ch 3 else s1

/-- Drop a Sirin packet (R363, R365). -/
def State.srnDrop (s : State) : State := s.bump .ethSrnDropCount 0 1

/-- The header and payload of a packet that R365 accepts: type, flags, epoch, seq, ack, sack, window. -/
def sirinOk (d : List Byte) : Bool :=
  let typ := leAt d 3 1
  let known := [1, 2, 3, 4, 0x10, 0x11, 0x12, 0x13, 0x20, 0x21, 0x22, 0x23, 0x24, 0x30, 0x31, 0x32, 0x33, 0x34].contains typ
  32 ≤ d.length && leAt d 0 2 = 0x4E53 && leAt d 2 1 = 1 && leAt d 4 1 < 32 && leAt d 5 1 = 0 && leAt d 26 2 = 0 &&
  leAt d 6 2 = d.length - 32 && known && crc32c (d.take 28 ++ [0, 0, 0, 0] ++ d.drop 32) = leAt d 28 4

/-- A Sirin datagram from an address and port (R363 to R366). -/
def State.gotSirin (s : State) (src : List Byte) (sp : Nat) (d : List Byte) : State :=
  match (List.range 256).find? (fun i => s.peerValid i && s.srnBytes (peerEnt i) 0 16 = src &&
      s.srnField (peerEnt i) 16 2 = sp) with
  | none => s.srnDrop
  | some i =>
    let typ := leAt d 3 1
    let ch := leAt d 4 1 % 2
    let x := s.peer i
    if !s.rb .ethSrnCfg 0 16 || !sirinOk d then s.srnDrop
    else if typ ≤ 4 then
      if typ ≠ 1 && typ ≠ 2 && leAt d 8 4 ≠ x.epoch then s.srnDrop
      else s.setPeer i { x with ctl := x.ctl ++ [⟨typ, leAt d 8 4, ch, leAt d 16 4, leAt d 20 4, leAt d 24 2⟩] }
    else if x.st ≠ .open_ || leAt d 8 4 ≠ x.epoch then s.srnDrop
    else
      ((s.gotAck i ch (leAt d 16 4) (leAt d 20 4) (leAt d 24 2)).gotData i ch
        ⟨leAt d 12 4, typ, leAt d 4 1, d.drop 32⟩)

/-- Take the next control packet of a type from a peer. -/
def State.takeCtl (s : State) (i typ : Nat) : Option Ctl × State :=
  let x := s.peer i
  match x.ctl.findIdx? (fun k => k.typ = typ) with
  | some n => (x.ctl[n]?, s.setPeer i { x with ctl := eraseAt x.ctl n })
  | none => (none, s)

/-- The channel whose next delivered message from a peer has a type, and that message (R366). -/
def State.nextMsg (s : State) (i typ : Nat) : Option (Nat × InMsg) :=
  match (s.peer i).ch0.inbox with
  | m :: _ => if m.typ = typ then some (0, m) else none
  | [] => none
  |>.orElse fun _ => match (s.peer i).ch1.inbox with
    | m :: _ => if m.typ = typ then some (1, m) else none
    | [] => none

/-- The next message of a channel has been acted on. -/
def State.tookMsg (s : State) (i ch : Nat) : State := s.modChan i ch (fun c => { c with inbox := c.inbox.drop 1 })

/-- REFUSE a message (R375): type, cause, version, step. -/
def State.refuse (s : State) (i ch typ cause version step : Nat) : State :=
  ((s.srnSend i ch 0x13 (leBytes 1 typ ++ leBytes 1 cause ++ [0, 0] ++ leBytes 4 version ++ leBytes 8 step)).2).raise
    (evPeer 0x5015 1 i (typ + 256 * cause + 65536 * i + 2 ^ 32 * version))

/-! ### Ethernet reception -/

/-- Drop a frame (R360). -/
def State.dropFrame (s : State) (port : Nat) : State :=
  (s.bump .ethRxDropCount (port / 4) 1).count (ctrPort port) 4 1

/-- A UDP datagram to this port (R360). -/
def State.gotUdp (s : State) (port : Nat) (src : List Byte) (u : List Byte) : State :=
  let dp := beNat ((u.drop 2).take 2)
  let len := beNat ((u.drop 4).take 2)
  if u.length < 8 || len < 8 || u.length < len then s.dropFrame port
  else if dp = s.rf .ethSrnCfg 0 15 0 && s.rb .ethSrnCfg 0 16 then
    s.gotSirin src (beNat (u.take 2)) ((u.take len).drop 8)
  else if (dp = 319 || dp = 320) && s.rb .tbsCfg 0 0 then s
  else s.dropFrame port

/-- An IPv4 packet of a frame from a MAC (R360). -/
def State.gotIp4 (s : State) (port : Nat) (smac p : List Byte) : State :=
  let me := s.srnBytes port 0 16
  let n := beNat ((p.drop 2).take 2)
  let map (a : List Byte) : List Byte := List.replicate 10 0 ++ [0xFF, 0xFF] ++ a
  let src := map ((p.drop 12).take 4)
  let body := (p.take n).drop 20
  if p.length < 20 || leAt p 0 1 ≠ 0x45 || n < 20 || p.length < n || fold16 (fold16 (sum16 (p.take 20))) ≠ 65535 ||
      beNat ((p.drop 6).take 2) % 16384 ≠ 0 then s.dropFrame port
  else if leAt p 9 1 = 17 then s.gotUdp port src body
  else if leAt p 9 1 = 1 && body.take 1 = [8] && map ((p.drop 16).take 4) = me then
    let e : List Byte := [0, 0, 0, 0] ++ body.drop 4
    let r := e.take 2 ++ beBytes 2 (cksum e) ++ e.drop 4
    s.txFrame port (s.ethFrame port smac 0x0800 (ipPacket me src 0 1 r))
  else s.dropFrame port

/-- An IPv6 packet of a frame from a MAC (R360). -/
def State.gotIp6 (s : State) (port : Nat) (smac p : List Byte) : State :=
  let me := s.srnBytes port 0 16
  let n := beNat ((p.drop 4).take 2)
  let src := (p.drop 8).take 16
  let body := (p.drop 40).take n
  if p.length < 40 + n || leAt p 0 1 / 16 ≠ 6 then s.dropFrame port
  else if leAt p 6 1 = 17 then s.gotUdp port src body
  else if leAt p 6 1 = 58 && body.take 1 = [128] && (p.drop 24).take 16 = me then
    s.txFrame port (s.ethFrame port smac 0x86DD (ipPacket me src 0 58 (icmp6 me src ([129, 0, 0, 0] ++ body.drop 4))))
  else if leAt p 6 1 = 58 && body.take 1 = [135] && (body.drop 8).take 16 = me then
    s.txFrame port (s.ethFrame port smac 0x86DD (ipPacket me src 0 58
      (icmp6 me src ([136, 0, 0, 0, 0x60, 0, 0, 0] ++ me ++ [2, 1] ++ s.srnBytes port 40 6))))
  else if leAt p 6 1 = 58 && body.take 1 = [136] then s.resolved port ((body.drop 8).take 16) ((body.drop 26).take 6)
  else s.dropFrame port

/-- An ARP packet (R360, R363). -/
def State.gotArp (s : State) (port : Nat) (p : List Byte) : State :=
  let me := (s.srnBytes port 0 16).drop 12
  let smac := (p.drop 8).take 6
  let sip := (p.drop 14).take 4
  if p.length < 28 || p.take 6 ≠ [0, 1, 8, 0, 6, 4] then s.dropFrame port
  else if beNat ((p.drop 6).take 2) = 1 && (p.drop 24).take 4 = me then
    s.txFrame port (s.ethFrame port smac 0x0806 (arp 2 (s.srnBytes port 40 6) me smac sip))
  else if beNat ((p.drop 6).take 2) = 2 then s.resolved port (List.replicate 10 0 ++ [0xFF, 0xFF] ++ sip) smac
  else s.dropFrame port

/-- Codewords that FEC corrected, or could not, on a logical port (R361, R421): ETH_FEC_DEGRADED at most once in a second while the
physical port's count rises, with the codewords of the last second. -/
def State.fecCount (s : State) (port fixed lost : Nat) : State :=
  let s1 := (s.count (ctrPort port) 5 fixed).count (ctrPort port) 6 lost
  if lost = 0 then s1 else
  let p := port / 4
  let log := s.ports.fec.filter (fun x => s.time < x.2.1 + 1000000000) ++ [(p, s.time, lost)]
  let s2 := ({ s1 with ports := { s1.ports with fec := log } } : State).bump .ethFecUncorrCount p lost
  let at_ := s.ports.fecRaised.get 0 p
  if at_ ≠ 0 && s.time < at_ - 1 + 1000000000 then s2
  else ({ s2 with ports := { s2.ports with fecRaised := s2.ports.fecRaised.set 0 p (s.time + 1) } } : State).raise
    (evIf 0x5003 1 port (u32 ((log.filter (fun x => x.1 = p)).map (fun x => x.2.2)).sum))

/-- A frame received on a logical port that is up (R360), without its FCS. -/
def State.rxFrame (s : State) (port : Nat) (f : List Byte) : State :=
  let s1 := ((s.count (ctrPort port) 0 1).count (ctrPort port) 1 (f.length + 4)).winCount (2 * port) (f.length + 4)
  let smac := (f.drop 6).take 6
  let tagged := beNat ((f.drop 12).take 2) = 0x8100
  let o := if tagged then 16 else 12
  let typ := beNat ((f.drop o).take 2)
  let p := f.drop (o + 2)
  let dst := f.take 6
  let mine := (s.localValid port && dst = s.srnBytes port 40 6) || (dst.take 1).any (fun b => b.getLsbD 0)
  if !s.linkUp port then s
  else if 9216 < f.length + 4 || f.length < 14 || !mine then s1.dropFrame port
  else if typ = 0x0800 then s1.gotIp4 port smac p
  else if typ = 0x86DD then s1.gotIp6 port smac p
  else if typ = 0x0806 then s1.gotArp port p
  else if typ = 0x88F7 && s.rb .tbsCfg 0 0 then s1
  else s1.dropFrame port

end Sys2Proof.Machine
end

