-- ==== Sys2Proof/Machine/PortOps.lean ====
section
/-! DEFINITION. Time base and PTP, PCIe and MSI-X, BAR2, memory training, JTAG (R377 to R389). -/
namespace Sys2Proof.Machine
open Sys2Proof

/-! ### Time base -/

/-- Loss of TB_REF: holdover (R70, R377, R418). -/
def State.tbLost (s : State) : State :=
  ({ s with tb := { s.tb with locked := false, holdover := true, driven := [] } } : State).raise (evDev 0x8005 2 0)

/-- TB_REF is stable: the first lock or a relock (R418). -/
def State.tbBack (s : State) : State :=
  ({ s with tb := { s.tb with locked := true, holdover := false, driven := [] } } : State).raise (evDev 0x8006 0 0)

/-- A write of TBS_CFG restarts PTP in ACQUIRING, or turns it off (R378, R390). -/
def State.tbsCfg (s : State) (p : Path) (v : Nat) : State :=
  if v &&& Reg.tbsCfg.mask [.rsv] ≠ 0 || fld v 4 3 = 3 then s.ignored p (Reg.tbsCfg.addr 0 0) 2
  else
    let s1 := s.wr .tbsCfg 0 0 v
    { s1 with tb := { s1.tb with ptp := if bit v 0 then .acquiring else .off, good := 0, lastSync := s.time } }

/-- A Sync with its offset from the grandmaster in ns (R377, R379). In ACQUIRING an offset above 1 µs
behind the grandmaster is corrected by a step; otherwise the rate is adjusted, which the model does not
show (timing). -/
def State.ptpSync (s : State) (off : Int) (port : Nat) : State :=
  if s.tb.ptp = .off || s.rf .tbsCfg 0 11 8 ≠ port then s else
  let good := if off.natAbs ≤ 100 then s.tb.good + 1 else 0
  let s1 : State := { s with tb := { s.tb with offset := off, good := good, lastSync := s.time } }
  match s.tb.ptp with
  | .acquiring =>
    if 16 ≤ good then
      ({ s1 with tb := { s1.tb with ptp := .synced } } : State).raise (evDev 0x5020 0 (enc 32 off))
    else if off < -1000 then { s1 with time := s1.time + off.natAbs } else s1
  | .synced =>
    if 1000 < off.natAbs then
      ({ s1 with tb := { s1.tb with ptp := .lost, good := 0 } } : State).raise (evDev 0x5021 1 2)
    else s1
  | .lost => { s1 with tb := { s1.tb with ptp := .acquiring } }
  | .off => s

/-- No Sync for 3 s (R379). -/
def State.ptpSilent (s : State) : State :=
  if s.tb.ptp = .off || s.tb.ptp = .lost || s.time < s.tb.lastSync + 3000000000 then s
  else ({ s with tb := { s.tb with ptp := .lost, good := 0 } } : State).raise (evDev 0x5021 1 1)

/-- TBS_STATUS (R390). -/
def State.tbsStatus (s : State) : Nat :=
  let st := match s.tb.ptp with
    | .off => 0 | .acquiring => 1 | .synced => 2 | .lost => 3
  b2n s.tb.locked + 2 * b2n s.tb.holdover + 4 * st + 65536 * enc 16 (clampI (-32768) 32767 s.tb.offset)

/-! ### PCIe -/

/-- A word of the MSI-X table; the vector control word masks its vector at reset (R380). -/
def State.msixWord (s : State) (w : Nat) : Nat := (s.ports.msix.get (if w % 4 = 3 then 1 else 0) w).toNat

/-- Send an MSI-X vector; a masked one waits in the pending-bit array (R380, R382). -/
def State.msixSend (s : State) (v : Nat) : State :=
  if !s.pcieUp then s
  else if bit (s.msixWord (4 * v + 3)) 0 then
    { s with ports := { s.ports with pba := if s.ports.pba.contains v then s.ports.pba else v :: s.ports.pba } }
  else s.send (.msix v)

/-- Write a word of the MSI-X table; unmasking sends a pending vector (R380). -/
def State.msixWrite (s : State) (w v : Nat) : State :=
  let s1 : State := { s with ports := { s.ports with
    msix := s.ports.msix.set (if w % 4 = 3 then 1 else 0) w (BitVec.ofNat 32 v) } }
  if s1.ports.pba.contains (w / 4) && !bit (s1.msixWord (w / 4 * 4 + 3)) 0 then
    ({ s1 with ports := { s1.ports with pba := s1.ports.pba.filter (· ≠ w / 4) } } : State).msixSend (w / 4)
  else s1

/-- A word of the pending-bit array (R380). -/
def State.pbaWord (s : State) (w : Nat) : Nat :=
  ((List.range 32).map (fun i => if s.ports.pba.contains (32 * w + i) then 2 ^ i else 0)).sum

/-- Link down, hot reset or function level reset (R382): cause 1, 2 or 3. -/
def State.pciDown (s : State) (cause : Nat) : State :=
  let s1 : State := { s with ports := { s.ports with msix := [], pba := [] } }
  (if cause = 3 then s1.wf_ .pciStatus 0 8 8 0 else s1.wr .pciStatus 0 0 0).raise (evIf 0x5031 1 0x10 cause)

/-- The link comes up and the host enables bus mastering (R380, R382, assumption 13). -/
def State.pciUp (s : State) (gen width : Nat) : State :=
  if (gen = 3 || gen = 4 || gen = 5) && (width = 1 || width = 2 || width = 4 || width = 8) then
    (s.wr .pciStatus 0 0 (1 + 2 * gen + 16 * width + 256)).raise (evIf 0x5030 0 0x10 (gen + 16 * width))
  else s

/-- A BAR2 access (R289, R294, R381): the window decodes 2^SIZE bytes. -/
def State.bar2 (s : State) (off : Nat) (op : MemOp) : State :=
  let a := s.rf .pciBar2Cfg 0 6 0 * 2 ^ 30 + off
  if !s.alive || 2 ^ s.rf .pciBar2Cfg 0 12 8 ≤ off then s else
  match op with
  | .write bs => if a + bs.length ≤ s.usable then s.putMem a bs else s.send (.data .pcie [] true)
  | .read n =>
    if s.usable < a + n then s.send (.data .pcie [] true)
    else if s.poisoned a n then (s.ueEvent (ctlOf a) a).send (.data .pcie [] true)
    else s.send (.bar2 (s.bytesAt a n))

/-! ### Memory training -/

/-- Every controller trained with one type, rate and raw capacity (R383). -/
def State.sameMem (s : State) : Bool :=
  (List.range 4).all (fun m => s.rd .memStatus m = s.rd .memStatus 0 && bit (s.rd .memStatus m) 0)

/-- Usable 4 KiB pages of the device for a raw-capacity code (R384). -/
def memPages (raw : Nat) : Nat := 4 * (2 ^ (raw + 30) / 4608)

/-- The last controller's training ends: device memory opens, the tenders load, the Sirin table of the
configuration is copied to device memory at an address the lockkeeper chooses (R135, R289, R362, R399). -/
def State.memOpen (s : State) : State :=
  if !s.sameMem then s.each (List.range 4) (fun t m => t.wf_ .memStatus m 0 0 0)
  else
    let s1 := s.wr .lkpMemUsable 0 0 (memPages (s.rf .memStatus 0 7 4))
    let s2 := s1.each (List.range 128) (fun t c => t.modCore c (fun x => { x with tnd := .loading }))
    if s2.boot.sirin.isEmpty then s2 else
      let (v, s3) := s2.fresh
      let a := 4096 * (v % (s3.mstore / 4096 - 6))
      ((s3.putMem a s3.boot.sirin).wr .ethSrnTableLo 0 0 (u32 a)).wr .ethSrnTableHi 0 0 (a / 2 ^ 32)

/-- Training of controller `m` ends (R383, R395). -/
def State.memTrained (s : State) (m : Nat) (ok : Bool) (rate raw : Nat) (typ : Bool) : State :=
  if s.boot.inReset || s.pwrState ≠ 0 || s.rf .bootStatus 0 3 0 ≠ 4 || s.boot.trained.contains m then s else
  let good := ok && rate < 3 && 2 ≤ raw && raw ≤ 5
  let s1 := (s.wr .memStatus m 0 (b2n good + 2 * b2n typ + 4 * (rate % 4) + 16 * raw))
  let s2 : State := { s1 with boot := { s1.boot with trained := m :: s1.boot.trained } }
  if s2.boot.trained.length = 4 then s2.memOpen else s2

/-! ### JTAG -/

/-- Load a TAP instruction; the boundary-driving ones take effect only in reset (R389). -/
def State.tapLoad (s : State) (t : Tap) (drives : Bool) : State :=
  { s with ports := { s.ports with tap := if drives && !s.boot.inReset then .bypass else t } }

/-- The identification code (R389). -/
def idcode : Nat := 1 + 2 * (Config.jtagMaker % 2048) + 4096 * 0x9204 + 2 ^ 28

/-- The bits of a word, bit 0 first, as the TAP shifts them out. -/
def bitsOf (n v : Nat) : List Bool := (List.range n).map (bit v)

end Sys2Proof.Machine
end

