-- ==== Sys2Proof/Machine/QueueOps.lean ====
section
/-! DEFINITION. Queue pairs, completion records, stream contexts, basins (R178, R179, R201 to R217). -/
namespace Sys2Proof.Machine
open Sys2Proof

/-! ### Stream contexts -/

/-- The value of a context state (R208). -/
def CtxSt.num : CtxSt → Nat
  | .free => 0 | .bound => 1 | .retiring => 2 | .retired => 3

/-- The 128 bytes of a context (R208). -/
def Ctx.bytes (x : Ctx) : List Byte :=
  leBytes 16 x.pack ++ leBytes 8 x.step ++ leBytes 1 x.st.num ++ leBytes 1 (b2n x.pin + 2 * x.reason) ++ leBytes 2 x.model ++
  leBytes 4 x.version ++ leBytes 8 x.stAddr ++ leBytes 2 x.stBlocks ++ leBytes 6 0 ++ leBytes 4 x.adapter ++
  leBytes 4 x.inflight ++ leBytes 8 x.ckptStep ++ leBytes 8 x.tBind ++ leBytes 8 x.tLast ++ List.replicate 48 0

/-- Replace a context; every change is written through to the table (R208). -/
def State.setCtx (s : State) (i : Nat) (x : Ctx) : State :=
  ({ s with ctxs := s.ctxs.set {} i x } : State).putDev (s.rdPair .stmTableLo .stmTableHi + 128 * i) x.bytes
/-- Change a context. -/
def State.modCtx (s : State) (i : Nat) (f : Ctx → Ctx) : State := s.setCtx i (f (s.ctx i))

/-- An entry or problem may use the context (R212). -/
def Ctx.usable (x : Ctx) : Bool := decide (x.st = .bound) || decide (x.st = .retiring)

/-! ### Completion records -/

/-- A completion record before its bytes (R179). -/
structure Cpl where
  queue : Nat
  entry : Nat := 0
  version : Nat := 0
  step : Nat := 0
  status : Nat
  flags : Nat := 0
  last : Bool := true
  sv : Bool := false
  stream : Nat := 0xFFFF
  detail : Nat := 0
  satElem : Nat := 0
  satCode : Nat := 0
  nonfin : Nat := 0
  waves : Nat := 0
  clips : Nat := 0
  problems : Nat := 1
  npass : Nat := 0
  core : Nat := 0
  tIssue : Nat := 0
  deriving DecidableEq, Repr

/-- The 64 bytes of a completion record (R179). -/
def Cpl.bytes (x : Cpl) (now : Nat) : List Byte :=
  let n (v : Nat) : Nat := satTo 0xFFFFFFFF v
  leBytes 8 now ++ leBytes 2 x.queue ++ leBytes 2 x.entry ++ leBytes 4 x.version ++ leBytes 8 x.step ++ leBytes 1 x.status ++
  leBytes 1 (x.flags + 128 * b2n x.last) ++ leBytes 2 (if x.sv then x.stream else 0xFFFF) ++ leBytes 4 x.detail ++
  leBytes 4 (n x.satElem) ++ leBytes 4 (n x.satCode) ++ leBytes 4 (n x.nonfin) ++ leBytes 4 (n x.waves) ++ leBytes 4 (n x.clips) ++
  leBytes 2 x.problems ++ leBytes 1 (satTo 255 x.npass) ++ leBytes 1 (x.core + 128 * b2n x.sv) ++ leBytes 8 x.tIssue

/-- Submission ring size. -/
def Queue.sqSize (x : Queue) : Nat := 2 ^ x.sqLog
/-- Completion ring size. -/
def Queue.cqSize (x : Queue) : Nat := 2 ^ x.cqLog
/-- The completion ring is full (R202). -/
def Queue.cqFull (x : Queue) : Bool := (x.cqTail + 1) % x.cqSize = x.cqHead
/-- Submissions the device has not read. -/
def Queue.unread (x : Queue) : Nat := (x.sqTail + x.sqSize - x.sqHead) % x.sqSize

/-- Why a ring cannot be accessed at present: 0 when it can, else the cause of R222. -/
def State.ringCause (s : State) (sq : Bool) (x : Queue) : Nat :=
  let host := if sq then x.sqHost else x.cqHost
  if host then if s.dmaUp then 0 else 3
  else if sq then
    if s.inBlocks x.sqBase (32 * x.sqSize) && !s.poisoned (x.sqBase + 32 * x.sqHead) 32 then 0 else 1
  else if s.inBlocks x.cqBase (64 * x.cqSize) then 0 else 2

/-- A queue stops, with QUEUE_STALL once (R205). -/
def State.stallQueue (s : State) (q cause : Nat) : State :=
  if (s.queue q).stall ≠ 0 then s
  else ((s.modQueue q (fun x => { x with stall := cause })).flag .queEvent 0 1).raise (evQueue 0x1201 1 q (q + 65536 * cause))

/-- The queue holds all the records it can inside (R202). -/
def Queue.holdsIssue (x : Queue) : Bool := 16 ≤ x.held.length

/-- The oldest record held inside has left; one that waited takes its place. -/
def Queue.popHeld (x : Queue) : Queue := { x with held := x.held.drop 1 ++ x.owed.take 1, owed := x.owed.drop 1 }

/-- A record comes in: it is held inside where there is a place (R202). -/
def Queue.hold (x : Queue) (r : List Byte) : Queue :=
  if x.holdsIssue then { x with owed := x.owed ++ [r] } else { x with held := x.held ++ [r] }

/-- A bound on the records to write. -/
def Queue.records (x : Queue) : Nat := x.held.length + x.owed.length + 1

/-- Write the held records that the ring has room for (R202, R205); `n` bounds the records. -/
def State.cqFlush (s : State) (q : Nat) : Nat → State
  | 0 => s
  | n + 1 =>
    let x := s.queue q
    match x.held with
    | [] => s
    | r :: _ =>
      if x.cqFull then s
      else if s.ringCause false x ≠ 0 then s.stallQueue q (s.ringCause false x)
      else
        let a := x.cqBase + 64 * x.cqTail
        let s1 := if x.cqHost then s.putHost a r else s.putMem a r
        let s2 := (s1.modQueue q (fun x => { x.popHeld with cqTail := (x.cqTail + 1) % x.cqSize })).count ctrIo 1 1
        let s3 := if x.intr && bit (leAt r 25 1) 7 then s2.msixSend x.vector else s2
        s3.cqFlush q n

/-- The device puts a record on a queue's completion ring, and with LAST = 1 returns it to a submitter that
asked for it (R178, R202, R372). -/
def State.putCpl (s : State) (batch : Nat) (c : Cpl) : State :=
  let x := s.queue c.queue
  if x.st = .disabled then s else
  let r := c.bytes s.time
  let s1 := (s.modQueue c.queue (fun x => x.hold r)).cqFlush c.queue x.records
  match s.net.rets.find? (fun t => t.1 = batch) with
  | some (_, peer, ch) =>
    if c.last then (s1.srnSend peer ch 0x11 (leBytes 2 c.queue ++ [1, 0, 0, 0, 0, 0] ++ r)).2 else s1
  | none => s1

/-! ### Pounds and basins -/

/-- The first core of a model's first pound: the lowest of copy A (assumption 16). -/
def Model.firstPound (m : Model) : Option Nat :=
  match (m.pounds.filter (fun p => !p.copyB)).map (·.first) with
  | [] => none
  | p :: ps => some (ps.foldl min p)

/-- The pound that begins at a core: its model and its cores. -/
def State.poundAt (s : State) (c : Nat) : Option (Nat × PoundLock) :=
  s.models.findSome? (fun (n, m) => (m.pounds.find? (fun p => p.first = c)).map (fun p => (n, p)))

/-- The cores of a pound (R199). -/
def State.poundCores (s : State) (p : Nat) : List Nat :=
  match s.poundAt p with
  | some (_, x) => (List.range (x.last + 1 - x.first)).map (x.first + ·)
  | none => [p]

/-- The positions of a basin suffice for its entries (R213): 256 for forwarded requests, which take no others; of the rest 64 only
for EXPRESS. -/
def State.basinFits (s : State) (xs : List BasinEntry) : Bool :=
  let exp (e : BasinEntry) : Bool := (s.req e.req).cls = 0
  let n := (xs.filter (fun e => !e.forwarded && !exp e)).length
  let x := (xs.filter (fun e => !e.forwarded && exp e)).length
  (xs.filter (·.forwarded)).length ≤ 256 && n + (x - 64) ≤ 704

/-- Put a request's sentence into a basin. -/
def State.enter (s : State) (p : Nat) (e : BasinEntry) : State := s.modPound p (fun x => { x with basin := x.basin ++ [e] })

/-- A queue stands in for a request that is not yet numbered, to ask for a place. -/
def State.hasPlace (s : State) (p cls : Nat) (forwarded : Bool) : Bool :=
  let t := s.setReq s.nextReq { cls := cls }
  t.basinFits ((s.pound p).basin ++ [⟨s.nextReq, 0, false, 0, forwarded⟩])

/-! ### Creating and draining -/

/-- A descriptor is valid (R201). -/
def descOk (d : List Byte) : Bool :=
  let cls := leAt d 18 1
  let base (o : Nat) : Bool := leAt d o 8 / 2 ^ 48 = 0 && leAt d o 8 % 64 = 0
  base 0 && base 8 && 4 ≤ leAt d 16 1 && leAt d 16 1 ≤ 16 && 4 ≤ leAt d 17 1 && leAt d 17 1 ≤ 16 && cls ≤ 3 &&
  leAt d 19 1 ≤ 1 && leAt d 20 2 ≤ 2047 && leAt d 22 2 ≠ 0xFFFF &&
  (cls ≠ 0 || (1 ≤ leAt d 24 1 && leAt d 24 1 ≤ 51 && 1 ≤ leAt d 25 1 && leAt d 25 1 ≤ 16 && 1 ≤ leAt d 26 1 && leAt d 26 1 ≤ 64)) &&
  (!(cls = 1 || cls = 2) || 1 ≤ leAt d 27 1) && (d.drop 28).all (· = 0)

/-- A queue pair from its descriptor, all indices 0 (R201, R206). -/
def queueOf (d : List Byte) : Queue :=
  { st := .enabled, sqBase := leAt d 0 8 % 2 ^ 47, sqHost := bit (leAt d 0 8) 47, cqBase := leAt d 8 8 % 2 ^ 47,
    cqHost := bit (leAt d 8 8) 47, sqLog := leAt d 16 1, cqLog := leAt d 17 1, cls := leAt d 18 1, intr := bit (leAt d 19 1) 0,
    vector := leAt d 20 2, model := leAt d 22 2, rate := leAt d 24 1, burstReq := leAt d 25 1, burstSlot := leAt d 26 1,
    weight := leAt d 27 1 }

/-- The queues whose EXPRESS budget counts in a pound (R216): the ENABLED ones, and those that a RESET drains, which will be. -/
def State.expQueues (s : State) (p : Nat) : List Queue :=
  match s.poundAt p with
  | some (m, _) => (s.queues.filter (fun e => e.2.st ≠ .disabled && !e.2.destroying && e.2.cls = 0 && e.2.model = m)).map (·.2)
  | none => []

/-- The budget sum that a further queue breaks: pound and sum (R216, R222). -/
def State.budget (s : State) (x : Queue) : Option (Nat × Nat × Nat) :=
  (s.model x.model).pounds.findSome? (fun p =>
    let qs := x :: s.expQueues p.first
    if 51 < (qs.map (·.rate)).sum then some (p.first, 1, (qs.map (·.rate)).sum)
    else if 16 < (qs.map (·.burstReq)).sum then some (p.first, 2, 0)
    else if 64 < (qs.map (·.burstSlot)).sum then some (p.first, 3, 0) else none)

/-- The RESULT of a queue command (R206, R221). -/
def State.queResult (s : State) (q result : Nat) (done : Bool) : State :=
  s.wr .queCmdStatus 0 0 (q + 65536 * result + 2 ^ 31 * b2n done)

/-- CREATE (R206); until READY it is refused with RESULT 0x3 (R396). -/
def State.queCreate (s : State) (q : Nat) : State :=
  let x := s.queue q
  if !s.up || x.st ≠ .disabled then s.queResult q 3 true else
  let at_ := s.rdPair .queTableLo .queTableHi + 64 * q
  match s.readDev at_ 64 with
  | none => (s.ueRead false at_ 64).queResult q 4 true
  | some d =>
    if !descOk d then s.queResult q 1 true else
    let n := queueOf d
    match if n.cls = 0 then s.budget n else none with
    | some (p, sum, _) =>
      ((s.queResult q 2 true).flag .queEvent 0 2).raise (evQueue 0x1202 1 q (q + 65536 * p + 2 ^ 24 * sum))
    | none => (s.setQueue q n).queResult q 0 true

/-- A request leaves the device: its context has one request fewer in flight (R208). -/
def State.dropReq (s : State) (r : Nat) : State :=
  let x := s.req r
  let s1 := s.setReq r {}
  if x.live && x.strm then s1.modCtx x.stream (fun c => { c with inflight := c.inflight - 1 }) else s1

/-- A request that still has a sentence in service or a place in a basin. -/
def State.inSystem (s : State) (r : Nat) : Bool :=
  s.pounds.any (fun e => e.2.basin.any (·.req = r) || e.2.service.any (fun x => x.2.any (·.req = r)))

/-- A record for a request as a whole: ENTRY 0 and LAST (R205, R207, R212). No entry issued, so STEP and T_ISSUE have no
stated value (assumption 7). -/
def State.reqRecord (s : State) (r status detail : Nat) : State :=
  let x := s.req r
  let (step, s1) := s.fresh
  let (iss, s2) := s1.fresh
  s2.putCpl x.batch { queue := x.queue, version := x.version.getD 0, status := status, detail := detail, sv := x.strm,
                      stream := x.stream, step := step, tIssue := iss, core := ((s.model x.model).firstPound).getD 0 }

/-- QUE_CMD_STATUS still shows the RESET or DESTROY under way: no later command has taken its place (R221). -/
def State.lastCmd (s : State) (q : Nat) : Bool := s.rd .queCmdStatus = q

/-- The requests of a queue have left and their records are written (R206). -/
def State.queDrained (s : State) (q : Nat) : State :=
  let x := s.queue q
  if x.st ≠ .draining || !x.held.isEmpty || !x.owed.isEmpty || s.reqs.any (fun e => e.2.live && e.2.queue = q) then s
  else
    let d : Queue := { x with sqHead := 0, sqTail := 0, cqHead := 0, cqTail := 0, remote := none, rung := false, stall := 0,
                              batches := [], st := if x.destroying then .disabled else .enabled, destroying := false, aborted := 0 }
    let s1 := s.setQueue q (if x.destroying then {} else d)
    ((if s.lastCmd q then s1.queResult q 0 true else s1).flag .queEvent 0 4).raise
      (evQueue 0x1203 0 q (q + 32768 * b2n x.destroying + 2 ^ 32 * satTo 0xFFFF x.aborted))

/-! ### Doorbells -/

/-- New submissions become one batch (R202, R236). -/
def State.newBatch (s : State) (q n : Nat) : State :=
  if n = 0 then s
  else { s.modQueue q (fun x => { x with batches := x.batches ++ [(s.nextBatch, n)] }) with nextBatch := s.nextBatch + 1 }

/-- A write of QUE_DB_SQ_TAIL (R14, R202, R221, R372); from IDLE it wakes the device (R403). -/
def State.sqTailWrite (s : State) (p : Path) (q v : Nat) : State :=
  let x := s.queue q
  let addr := Reg.queDbSqTail.addr q 0
  if 65536 ≤ v then s.ignored p addr 2
  else if x.st ≠ .enabled || x.sqSize ≤ v || x.remote.isSome then s.ignored p addr 4
  else
    let n := (v + x.sqSize - x.sqTail) % x.sqSize
    ((s.modQueue q (fun x => { x with sqTail := v, rung := true })).newBatch q n).wakeUp

/-- A write of QUE_DB_CQ_HEAD (R202, R221). -/
def State.cqHeadWrite (s : State) (p : Path) (q v : Nat) : State :=
  let x := s.queue q
  let addr := Reg.queDbCqHead.addr q 0
  if 65536 ≤ v then s.ignored p addr 2
  else if x.st ≠ .enabled || x.cqSize ≤ v then s.ignored p addr 4
  else (s.modQueue q (fun x => { x with cqHead := v })).cqFlush q x.records

/-- A stalled queue's access succeeds (R205). -/
def State.queResume (s : State) (q : Nat) : State :=
  let x := s.queue q
  let bad := if x.stall = 2 then s.ringCause false x
    else if x.stall = 1 then s.ringCause true x
    else max (s.ringCause true x) (s.ringCause false x)
  if x.stall = 0 || bad ≠ 0 then s
  else (s.modQueue q (fun x => { x with stall := 0 })).cqFlush q x.records

/-! ### Reading submissions -/

/-- A sentence address and count as a submission or a route element carries them (R203, R204): the byte
offset of the first bad field among address and count. -/
def sentFault (d : List Byte) : Option Nat :=
  if leAt d 0 8 / 2 ^ 48 ≠ 0 || leAt d 0 8 % 64 ≠ 0 then some 0
  else if leAt d 8 2 = 0 || 4096 < leAt d 8 2 then some 8 else none

/-- The byte offset of the first field of a submission that is out of range, reserved or misaligned
(R203, R205). -/
def subFault (d : List Byte) : Option Nat :=
  let route := bit (leAt d 12 1) 3
  match sentFault d with
  | some o => some o
  | none =>
    if 16 ≤ leAt d 12 1 then some 12
    else if route && (leAt d 13 1 = 0 || 8 < leAt d 13 1) then some 13
    else if leAt d 14 2 ≠ 0 then some 14
    else if leAt d 16 8 / 2 ^ 47 ≠ 0 || (route && leAt d 16 8 % 64 ≠ 0) then some 16
    else if leAt d 24 8 ≠ 0 then some 24 else none

/-- A route element (R204). -/
def routeOf (d : List Byte) : RouteEl :=
  ⟨leAt d 0 8 % 2 ^ 47, bit (leAt d 0 8) 47, leAt d 8 2, leAt d 10 1, false⟩

/-- A route element is well formed (R204). -/
def routeOk (d : List Byte) : Bool := (sentFault d).isNone && leAt d 10 1 < 128 && (d.drop 11).all (· = 0)

/-- The request that a submission's bytes describe. -/
def State.reqOf (s : State) (q batch : Nat) (d : List Byte) (route : List RouteEl) : Request :=
  let x := s.queue q
  { queue := q, cls := x.cls, model := x.model, strm := bit (leAt d 12 1) 0, stream := leAt d 10 2, adv := bit (leAt d 12 1) 1,
    advPl := bit (leAt d 12 1) 2, saddr := leAt d 0 8 % 2 ^ 47, host := bit (leAt d 0 8) 47, nent := leAt d 8 2,
    route := route, hasRoute := bit (leAt d 12 1) 3, batch := batch, tSeen := s.time, live := true,
    causes := if x.sqHost || bit (leAt d 0 8) 47 || 8 < leAt d 8 2 || route.any (fun r => r.host || 8 < r.nent) then 32 else 0 }

/-- A request's version when its batch is already bound (R236): `bound` holds 16 times the version plus the
reload set by batch. -/
def State.batchVersion (s : State) (batch : Nat) : Option Nat :=
  if s.bound.get 0 batch = 0 then none else some (s.bound.get 0 batch / 16)

/-- A request enters the basin of a pound (R213); its context counts it (R208). -/
def State.admitReq (s : State) (p : Nat) (r : Request) (forwarded : Bool) : State :=
  let i := s.nextReq
  let s1 := ({ s with nextReq := i + 1 } : State).setReq i r
  let s2 := if r.strm then s1.modCtx r.stream (fun c => { c with inflight := c.inflight + 1 }) else s1
  s2.enter p ⟨i, r.saddr, r.host, r.nent, forwarded⟩

/-- A request that does not run gets one record (R205, R212); its STEP and T_ISSUE have no stated value (assumption 7). -/
def State.answerSub (s : State) (q batch status detail sv stream : Nat) : State :=
  let (step, s1) := s.fresh
  let (iss, s2) := s1.fresh
  s2.putCpl batch { queue := q, status := status, detail := detail, sv := sv = 1, stream := stream, step := step, tIssue := iss,
                    core := ((s.model (s.queue q).model).firstPound).getD 0 }

/-- Act on the submission read from a queue (R203 to R205, R212, R213). -/
def State.takeSub (s : State) (q p batch : Nat) (d : List Byte) : State :=
  match subFault d with
  | some o => s.answerSub q batch 0x11 (0x100 + o) 0 0
  | none =>
    let n := if bit (leAt d 12 1) 3 then leAt d 13 1 else 0
    match if n = 0 then some [] else s.readDev (leAt d 16 8) (16 * n) with
    | none => (s.ueRead false (leAt d 16 8) (16 * n)).answerSub q batch 0x17 0 0 0
    | some rs =>
      let els := chunks 16 n rs
      let r := s.reqOf q batch d (els.map routeOf)
      if els.any (fun e => !routeOk e) then s.answerSub q batch 0x11 0x110 0 0
      else if r.strm && (s.ctx r.stream).st ≠ .bound then s.answerSub q batch 0x26 r.stream 1 r.stream
      else s.admitReq p { r with version := s.batchVersion batch, setNo := s.bound.get 0 batch % 16 } false

/-- The queues that have a submission the device could read now: enabled, not stalled, with a position free (R205, R213) and with
a place for a record (R202, assumption 65). -/
def State.readable (s : State) : List Nat :=
  (s.queues.filter (fun e => e.2.st = .enabled && e.2.stall = 0 && 0 < e.2.unread && !e.2.holdsIssue &&
    ((s.model e.2.model).firstPound).any (fun p => s.hasPlace p e.2.cls false))).map (·.1)

/-- The next queue to read: EXPRESS first, the others in round robin (R213). -/
def State.nextQueue (s : State) : Option Nat :=
  let qs := s.readable
  match qs.find? (fun q => (s.queue q).cls = 0) with
  | some q => some q
  | none => (qs.find? (fun q => s.rrLast < q)).orElse (fun _ => qs.head?)

/-- The device reads the next submission (R202, R213). -/
def State.submissionRead (s : State) : State :=
  match s.nextQueue with
  | none => s
  | some q =>
    let x := s.queue q
    let cause := s.ringCause true x
    match (s.model x.model).firstPound with
    | none => s
    | some p =>
      if cause ≠ 0 then ((if x.stall = 0 then s.ueRead x.sqHost (x.sqBase + 32 * x.sqHead) 32 else s)).stallQueue q cause else
      let a := x.sqBase + 32 * x.sqHead
      let d := if x.sqHost then s.hostBytes a 32 else s.bytesAt a 32
      let batch := ((x.batches.head?).map (·.1)).getD 0
      let rest := match x.batches with
        | (b, n) :: bs => if n ≤ 1 then bs else (b, n - 1) :: bs
        | [] => []
      let s1 := (s.modQueue q (fun x => { x with sqHead := (x.sqHead + 1) % x.sqSize, batches := rest })).count ctrIo 0 1
      let s2 : State := if x.cls = 0 then s1 else { s1 with rrLast := q }
      s2.takeSub q p batch d

end Sys2Proof.Machine
end

