-- ==== Sys2Proof/Machine/Fp.lean ====
section
/-! DEFINITION. binary32 and BF16 arithmetic on bit patterns (R88, R91): exact results as rationals,
one rounding to nearest, ties to even, subnormals kept. -/
namespace Sys2Proof.Fp

/-- Round a rational to the nearest integer, ties to even (R7). -/
def rne (q : Rat) : Int := rneDiv q.num q.den

/-- An integer power of two as a rational. -/
def pow2 (e : Int) : Rat := if 0 ≤ e then ((2 ^ e.toNat : Nat) : Rat) else 1 / ((2 ^ (-e).toNat : Nat) : Rat)

/-- The sign bit. -/
def sgn (x : Word) : Bool := x.getLsbD 31
/-- The biased exponent. -/
def ex (x : Word) : Nat := fld x.toNat 30 23
/-- The fraction. -/
def fr (x : Word) : Nat := fld x.toNat 22 0
/-- A NaN. -/
def isNaN (x : Word) : Bool := ex x = 255 && fr x ≠ 0
/-- An infinity. -/
def isInf (x : Word) : Bool := ex x = 255 && fr x = 0
/-- Neither NaN nor infinite. -/
def isFin (x : Word) : Bool := ex x ≠ 255
/-- A zero of either sign. -/
def isZero (x : Word) : Bool := fld x.toNat 30 0 = 0

/-- The exact value of a finite pattern. -/
def toRat (x : Word) : Rat :=
  let m : Nat := if ex x = 0 then fr x else 2 ^ 23 + fr x
  let v := (m : Rat) * pow2 ((if ex x = 0 then 1 else ex x : Nat) - 150)
  if sgn x then -v else v

/-- The floor of log2 of a positive rational. -/
def flog2 (q : Rat) : Int :=
  let e : Int := (q.num.natAbs.log2 : Int) - (q.den.log2 : Int)
  if q < pow2 e then e - 1 else if pow2 (e + 1) ≤ q then e + 1 else e

/-- The magnitude of a rational as a pattern with `f` fraction bits over binary32's exponent range,
rounded to nearest, ties to even; past the largest finite value it is the infinity. -/
def mag (f : Nat) (q : Rat) : Nat :=
  if q = 0 then 0 else
  let e := flog2 q
  let e' := if e < -126 then -126 else e
  let m := (rne (q * pow2 ((f : Int) - e'))).toNat
  let b := (e' + 126).toNat * 2 ^ f + m
  if 255 * 2 ^ f ≤ b then 255 * 2 ^ f else b

/-- A signed zero. -/
def zero (neg : Bool) : Word := if neg then 0x80000000 else 0
/-- A signed infinity. -/
def inf (neg : Bool) : Word := if neg then 0xFF800000 else 0x7F800000

/-- Round a rational to binary32; an exact zero takes the given sign. -/
def ofRat (negZero : Bool) (q : Rat) : Word :=
  if q = 0 then zero negZero
  else if q < 0 then BitVec.ofNat 32 (2 ^ 31 + mag 23 (-q)) else BitVec.ofNat 32 (mag 23 q)

/-- A quiet NaN; its sign and payload are open (assumption 6). -/
def qnan (a b : Word) : Word := 0x7FC00000 ||| (Config.nanBits a.toNat b.toNat &&& 0x803FFFFF)

/-- The fused x * y + z, one rounding (R95, R98). -/
def fma (x y z : Word) : Word :=
  let ps := sgn x != sgn y
  if isNaN x || isNaN y || isNaN z then qnan x y
  else if isInf x || isInf y then
    if isZero x || isZero y then qnan x y
    else if isInf z && sgn z != ps then qnan x z else inf ps
  else if isInf z then z
  else ofRat ((ps && sgn z)) (toRat x * toRat y + toRat z)

/-- x + y, one rounding. -/
def add (x y : Word) : Word :=
  if isNaN x || isNaN y then qnan x y
  else if isInf x then if isInf y && sgn x != sgn y then qnan x y else x
  else if isInf y then y
  else ofRat (sgn x && sgn y) (toRat x + toRat y)

/-- x * y, one rounding. -/
def mul (x y : Word) : Word :=
  let ps := sgn x != sgn y
  if isNaN x || isNaN y then qnan x y
  else if isInf x || isInf y then if isZero x || isZero y then qnan x y else inf ps
  else ofRat ps (toRat x * toRat y)

/-- Negation. -/
def neg (x : Word) : Word := x ^^^ 0x80000000

/-- x - y, one rounding. -/
def sub (x y : Word) : Word := add x (neg y)

/-- m * A + b with an exact rational A (R95, R96). -/
def mulAddQ (m : Word) (a : Rat) (b : Word) : Word :=
  let as : Bool := a < 0
  if isNaN m || isNaN b then qnan m b
  else if isInf m then
    if a = 0 then qnan m b
    else if isInf b && sgn b != (sgn m != as) then qnan m b else inf (sgn m != as)
  else if isInf b then b
  else ofRat ((sgn m != as) && sgn b) (toRat m * a + toRat b)

/-- x divided by a positive rational, one rounding (R96). -/
def divQ (x : Word) (q : Rat) : Word := if isFin x then ofRat (sgn x) (toRat x / q) else x

/-- The order of two patterns that are not NaN. -/
def lt (x y : Word) : Bool :=
  if isNaN x || isNaN y then false
  else if isInf x then sgn x && !(isInf y && sgn y)
  else if isInf y then !sgn y
  else toRat x < toRat y

/-- x <= y, false on a NaN. -/
def le (x y : Word) : Bool := !isNaN x && !isNaN y && !lt y x

/-- A BF16 pattern as binary32, exactly (R91). -/
def ofBf16 (h : BitVec 16) : Word := BitVec.ofNat 32 (h.toNat * 65536)

/-- RNE at bit 16 (R91): overflow goes to the infinity; a NaN stays a quiet NaN, whose sign and payload the spec leaves
open (assumption 6). -/
def toBf16 (x : Word) : BitVec 16 :=
  if isNaN x then 0x7FC0 ||| ((Config.nanBits x.toNat (2 ^ 32)).extractLsb' 16 16 &&& 0x803F)
  else BitVec.ofNat 16 ((rneDiv (x.toNat : Int) 65536).toNat)

/-- The BF16 output stage of R99: a finite value beyond the BF16 range becomes the largest finite
value of its sign, and the flag says so. -/
def outBf16 (x : Word) : BitVec 16 × Bool :=
  let h := toBf16 x
  if isFin x && fld h.toNat 14 7 = 255 then
    (if sgn x then 0xFF7F else 0x7F7F, true) else (h, false)

/-- RNE_bf16 as a binary32 value (R97). -/
def bf (x : Word) : Word := ofBf16 (toBf16 x)

/-- An integer as binary32, one rounding. -/
def ofInt (n : Int) : Word := ofRat false (n : Rat)

end Sys2Proof.Fp
end

