-- ==== Sys2Proof/Machine/VecOps.lean ====
section
/-! DEFINITION. Tender arithmetic (R97, R98), scale codes and quantisation (R64, R88 to R91, R101, R106),
the mixing functions of R335. -/
namespace Sys2Proof

/-! ### Seeds -/

/-- mix64 (R335). -/
def mix64 (x : Nat) : Nat :=
  let x := u64 x
  let x := x ^^^ (x >>> 30)
  let x := u64 (x * 0xBF58476D1CE4E5B9)
  let x := x ^^^ (x >>> 27)
  let x := u64 (x * 0x94D049BB133111EB)
  x ^^^ (x >>> 31)

/-- entry_seed (R335). -/
def entrySeed (seed step : Nat) : Nat := mix64 (seed ^^^ mix64 (step + 0x9E3779B97F4A7C15))

/-- lane (R335). -/
def lane (s domain i : Nat) : Nat := mix64 (s ^^^ mix64 ((domain <<< 56) ||| i))

/-! ### Sums of products -/

/-- Add sixteen products to the sixteen partial sums (R98). -/
def addRow (ps : List Word) (xs ys : List Word) : List Word :=
  (ps.zip (xs.zip ys)).map (fun (p, x, y) => Fp.add p (Fp.mul x y)) ++ ps.drop (min xs.length ys.length)

/-- The partial sums over runs of sixteen reduction indices, at most `n` runs. -/
def partials : Nat → List Word → List Word → List Word → List Word
  | 0, ps, _, _ => ps
  | n + 1, ps, xs, ys =>
    if xs.isEmpty || ys.isEmpty then ps
    else partials n (addRow ps (xs.take 16) (ys.take 16)) (xs.drop 16) (ys.drop 16)

/-- One level of the combination of neighbours (R98). -/
def pairUp : List Word → List Word
  | a :: b :: r => Fp.add a b :: pairUp r
  | r => r

/-- Combine sixteen partial sums (R98). -/
def combine16 (ps : List Word) : Word := ((pairUp (pairUp (pairUp (pairUp ps)))).head?).getD 0

/-- The sum of products of two vectors of BF16 values in the order of R98. -/
def tdot (xs ys : List Word) : Word := combine16 (partials (xs.length / 16 + 1) (List.replicate 16 0) xs ys)

/-! ### Codes and scales -/

/-- The value of a scale code, 0 for a zero group (R64, R90). -/
def scaleVal (c : Nat) : Rat :=
  if c / 8 = 0 then 0 else ((8 + c % 8 : Nat) : Rat) * Fp.pow2 ((c / 8 : Nat) - 18)

/-- An activation code as it is consumed, and whether it was the reserved 0x80 (R89). -/
def actCode (b : Byte) : Int × Bool := if b = 0x80 then (-127, true) else (b.toInt, false)

/-- Quantise a finite value by a scale code: the code, and whether it saturated (R99, R101). A zero group takes code 0 and
counts a non-zero value as saturated: R101 says so of ingest; that requantisation (OUT_CODE) does the same is DEDUCED, the spec
states no result there (assumption 62). -/
def quantQ (x : Rat) (c : Nat) : Int × Bool :=
  let s := scaleVal c
  if s = 0 then (0, decide (x ≠ 0))
  else
    let q := Fp.rne (x / s)
    if 127 < q then (127, true) else if q < -127 then (-127, true) else (q, false)

/-- Quantise an FP32 value: code, saturated, non-finite (R99, R101). -/
def quant (x : Word) (c : Nat) : Int × Bool × Bool :=
  if Fp.isNaN x then (0, false, true)
  else if Fp.isInf x then (if c / 8 = 0 then 0 else if Fp.sgn x then -127 else 127, true, true)
  else let (q, b) := quantQ (Fp.toRat x) c; (q, b, false)

/-- The smallest scale code whose 127-fold reaches a row's largest magnitude (R106). -/
def dynCode (top : Rat) : Nat :=
  if top = 0 then 0
  else ((List.range 248).map (· + 8)).find? (fun c => decide (top ≤ 127 * scaleVal c)) |>.getD 0xFF

/-- The dynamic scale code of a row (R106). -/
def rowDyn (xs : List Word) : Nat := dynCode (((xs.filter Fp.isFin).map (fun x => (Fp.toRat x).abs)).foldl max 0)

/-- A signed byte of a code. -/
def codeByte (q : Int) : Byte := BitVec.ofInt 8 q

/-- An activation code times its group scale as BF16 in FP32 (R97). -/
def expandAct (a : Int) (c : Nat) : Word := Fp.bf (Fp.ofRat false ((a : Rat) * scaleVal c))

/-- The FP32 at a byte offset. -/
def fp32At (bs : List Byte) (o : Nat) : Word := BitVec.ofNat 32 (leAt bs o 4)
/-- The BF16 at a byte offset, as FP32. -/
def bf16At (bs : List Byte) (o : Nat) : Word := Fp.ofBf16 (BitVec.ofNat 16 (leAt bs o 2))

end Sys2Proof
end

