-- ==== Sys2Proof/Machine/AdpOps.lean ====
section
/-! DEFINITION. The adapter pool, checkpoints and the stream commands (R209, R210, R246 to R250, R319,
R320, R343, R344). -/
namespace Sys2Proof.Machine
open Sys2Proof

/-! ### Slots -/

/-- The device address of an adapter slot (R246). -/
def State.adpAddr (s : State) (slot : Nat) : Nat := s.rdPair .imgAdpPoolLo .imgAdpPoolHi + 65536 * slot
/-- Slots of the pool. -/
def State.adpSlots (s : State) : Nat := s.rf .imgAdpCfg 0 19 0
/-- Slots that hold an adapter (R253). -/
def State.adpResident (s : State) : Nat := (s.adps.filter (fun e => e.2.used && !e.2.fetching && e.1 < s.adpSlots)).length
/-- Slots that hold an adapter or are being filled. -/
def State.adpTaken (s : State) : Nat := (s.adps.filter (fun e => e.2.used && e.1 < s.adpSlots)).length
/-- Free slots. -/
def State.adpFree (s : State) : Nat := s.adpSlots - s.adpTaken

/-- The resident slot of a context (R246). -/
def State.slotOfCtx (s : State) (c : Nat) : Option Nat :=
  let h := (s.ctx c).adapter
  if bit h 31 then some (h % 2 ^ 24) else none

/-- Set flags of IMG_EVENT and raise an event of a model (R253, R254). -/
def State.imgRaise (s : State) (b : Nat) (e : Event) : State := (s.flag .imgEvent 0 (2 ^ b)).raise e

/-- An event about a context's adapter (R254). -/
def evAdp (code sev model ctx detail : Nat) : Event :=
  (evModel code sev model detail).withStream true ctx 0xFFFFFFFFFFFFFFFF

/-- Block `i` of an adapter slot with its manifest. -/
def State.adpBlock (s : State) (slot i : Nat) : Option BlockRd := s.devBlock (s.adpAddr slot + blk * i)

/-- The 65,536 bytes of an adapter slot, when every block reads with a sound manifest; else the address of
the first bad block and its cause (0: unreadable). -/
def State.adpRead (s : State) (slot : Nat) : Except (Nat × Nat) (List Byte) :=
  (List.range 16).foldl (fun acc i => do
    let bs ← acc
    match s.adpBlock slot i with
    | some (d, m) => if checkBlock d m {} = 0 then .ok (bs ++ d) else .error (s.adpAddr slot + blk * i, checkBlock d m {})
    | none => .error (s.adpAddr slot + blk * i, 0)) (.ok [])

/-- Write the 65,536 bytes of a slot, each block under the head of its present manifest. -/
def State.adpWrite (s : State) (slot : Nat) (bs : List Byte) : State :=
  s.each (List.range 16) (fun t i =>
    let a := t.adpAddr slot + blk * i
    let d := (bs.drop (blk * i)).take blk
    if t.inBlocks a blk then t.putBlock a d ((t.devMan a).seal d) else t)

/-- The 16 blocks of a slot with their manifests, as messages carry them (R367). -/
def State.adpWire (s : State) (slot : Nat) : List Byte :=
  (List.range 16).flatMap (fun i => s.bytesAt (s.adpAddr slot + blk * i) blk ++ (s.devMan (s.adpAddr slot + blk * i)).bytes)

/-- Write blocks with their manifests from a message into consecutive device blocks; false when one fails its
CRC, which ends the copy (R290). -/
def State.wireIn (s : State) (a n : Nat) (bs : List Byte) : Bool × State :=
  (List.range n).foldl (fun (ok, t) i =>
    let d := (bs.drop (4112 * i)).take blk
    let m := Manifest.ofBytes ((bs.drop (4112 * i + blk)).take 16)
    if !ok || !t.inBlocks (a + blk * i) blk then (false, t)
    else if m.crcOk d then (true, t.putBlock (a + blk * i) d m) else (false, t.manFailDev (a + blk * i) 1)) (true, s)

/-- Replace a byte run in a list. -/
def patch (bs : List Byte) (o : Nat) (xs : List Byte) : List Byte := bs.take o ++ xs ++ bs.drop (o + xs.length)

/-- FLAGS.DIRTY of a slot. -/
def State.adpDirty (s : State) (slot : Nat) : Bool := bit (leAt (s.bytesAt (s.adpAddr slot) 64) 33 1) 0

/-- Streams whose adapter an issued entry uses (R249). -/
def State.adpUsers (s : State) : List Nat :=
  s.pounds.flatMap (fun e => e.2.service.flatMap (fun x => match x.2 with
    | some n => n.runs.flatMap (fun r =>
        if r.verb = 4 || r.verb = 5 then r.probs.map (·.stream) else [])
    | none => []))

/-- A slot frees; its context no longer has it (R249). -/
def State.adpRelease (s : State) (slot : Nat) : State :=
  let c := (s.adp slot).ctx
  let s1 := s.setAdp slot {}
  if s1.slotOfCtx c = some slot then s1.modCtx c (fun x => { x with adapter := 0 }) else s1

/-- Write a slot to the store (R249), for an eviction or as RETIRE does (R248). -/
def State.writeBack (s : State) (slot : Nat) (retire : Bool) : State :=
  let tag := s.net.nextTag
  let x := s.adp slot
  let s1 : State := { s with net := { s.net with nextTag := u32 (tag + 1), tags := s.net.tags ++ [⟨tag, x.ctx, slot, true, retire⟩] } }
  let s2 := s1.setAdp slot { x with evicting := true }
  let (ok, s3) := s2.srnSend (s.rf .ethSrnCfg 0 31 24) 1 0x23 (leBytes 4 tag ++ [0, 0, 0, 0] ++ s.adpWire slot)
  if ok then s3 else s3.writeBackFailed tag

/-- Evict one slot: a dirty adapter is written first (R249). -/
def State.evictSlot (s : State) (slot : Nat) : State :=
  if s.adpDirty slot then s.writeBack slot false else ((s.adpRelease slot).bump .imgAdpEvictCount 0 1).count ctrIo 5 1

/-- Adapters that may be evicted, best first: lowest use count, then least recently used (R249). -/
def State.evictable (s : State) (skip : List Nat) : List Nat :=
  let users := s.adpUsers
  let cs := s.adps.filter (fun e => e.2.used && !e.2.evicting && !e.2.passed && !e.2.fetching && !(s.ctx e.2.ctx).pin &&
    !users.contains e.2.ctx && !skip.contains e.1)
  (sortBy cs (fun a b => decide (a.2.useCount < b.2.useCount) || (decide (a.2.useCount = b.2.useCount) &&
    decide (a.2.lru ≤ b.2.lru)))).map (·.1)

/-- Evict until `high` slots are free or on their way out; `n` bounds the attempts, `keep` is a slot that stays. A candidate whose write
fails is passed over. -/
def State.evictTo (s : State) (high : Nat) (keep : Option Nat) : Nat → State
  | 0 => s
  | n + 1 =>
    let going := (s.adps.filter (fun e => e.2.evicting)).length
    if high ≤ s.adpFree + going then s
    else match s.evictable keep.toList with
      | [] => s
      | slot :: _ => (s.evictSlot slot).evictTo high keep n

/-- The evictions under way go on towards their goal, and end there (R249). -/
def State.evictRun (s : State) (keep : Option Nat) : State :=
  let s1 := s.evictTo s.adpGoal keep (s.adps.length + 1)
  if s1.adpGoal ≤ s1.adpFree then { s1 with adpGoal := 0 } else s1

/-- Candidates that were passed over may be tried again. -/
def State.evictAnew (s : State) : State := { s with adps := s.adps.foldl (fun m e => m.set {} e.1 { e.2 with passed := false }) [] }

/-- Free slots below LOW start evictions up to HIGH (R249), of others than the slot `keep`. -/
def State.evictLow (s : State) (keep : Nat) : State :=
  let low := s.rf .imgAdpMark 0 15 0
  if s.adpFree < low then ({ s.evictAnew with adpGoal := max low (s.rf .imgAdpMark 0 31 16) } : State).evictRun (some keep) else s

/-- The first free slot. -/
def State.freeSlot (s : State) : Option Nat :=
  if s.adpFree = 0 then none else (List.range (s.adpTaken + 1)).find? (fun i => i < s.adpSlots && !(s.adp i).used)

/-- Take a free slot for a context, evicting one where none is free; none when no slot frees at once. -/
def State.takeSlot (s : State) (c : Nat) : Option Nat × State :=
  let s1 := if s.adpFree = 0 then s.evictAnew.evictTo 1 none (s.adps.length + 1) else s
  match s1.freeSlot with
  | some i =>
    let s2 := s1.setAdp i { used := true, ctx := c, lru := s1.adpClock }
    (some i, ({ s2 with adpClock := s2.adpClock + 1 } : State).evictLow i)
  | none => (none, s1)

/-- The ADPINIT record of the model's issue version (R225, R246). -/
def State.adpInit (s : State) (m : Nat) : Option (List BlockRd) :=
  match (s.model m).issueImg with
  | some (img, ref) =>
    if !ref then none else
    match img.sect 10 0 with
    | some x => (List.range (min 16 (x.len / blk))).mapM (fun i => s.sectBlock img x i)
    | none => none
  | none => none

/-- Fill a slot from ADPINIT for a context (R248, R250): PACK_ID, MODEL, STREAM and ADP_COMPAT are those of
the context and version, GEN is 0; no store copy exists yet, so DIRTY is 1. -/
def State.adpFill (s : State) (slot c compat : Nat) (init : List BlockRd) : State :=
  let x := s.ctx c
  (s.each (List.range 16) (fun t i =>
    let a := t.adpAddr slot + blk * i
    match init[i]? with
    | some (d, m) =>
      let d := if i = 0 then
          patch (patch d 0 (leBytes 16 x.pack ++ leBytes 2 x.model ++ leBytes 2 c ++ leBytes 4 compat ++ leBytes 8 0)) 33 [1]
        else d
      if t.inBlocks a blk then t.putBlock a d (m.seal d) else t
    | none =>
      let d := List.replicate blk (0 : Byte)
      let m : Manifest := { ((init.head?).map (·.2)).getD {} with index := i }
      if t.inBlocks a blk then t.putBlock a d (m.seal d) else t)).modCtx c (fun y => { y with adapter := 2 ^ 31 + slot })

/-! ### Fetching -/

/-- Ask the store for a context's adapter in a slot (R248). -/
def State.askStore (s : State) (c slot since : Nat) : State :=
  let tag := s.net.nextTag
  let x := s.ctx c
  let s0 := s.count ctrIo 4 1
  let s1 : State := { s0 with net := { s0.net with nextTag := u32 (tag + 1), tags := s0.net.tags ++ [⟨tag, c, slot, false, false⟩] } }
  ((s1.setAdp slot { s1.adp slot with used := true, ctx := c, fetching := true, fetchStart := since }).srnSend
    (s.rf .ethSrnCfg 0 31 24) 1 0x21 (leBytes 16 x.pack ++ leBytes 2 x.model ++ [0, 0] ++ leBytes 4 tag)).2

/-- A fetch of the context is under way or waits for a slot. -/
def State.fetching (s : State) (c : Nat) : Bool :=
  s.adps.any (fun e => e.2.fetching && e.2.ctx = c) || s.net.want.any (·.1 = c)

/-- Begin to fetch an adapter (R248). -/
def State.fetch (s : State) (c : Nat) : State :=
  if s.fetching c then s else
  match s.takeSlot c with
  | (some i, s1) => s1.askStore c i s.time
  | (none, s1) => { s1 with net := { s1.net with want := s1.net.want ++ [(c, s.time)] } }

/-- A slot has freed: the oldest fetch that waits for one goes on. -/
def State.fetchNext (s : State) : State :=
  match s.net.want with
  | (c, t) :: rest =>
    match s.freeSlot with
    | some i => ({ s with net := { s.net with want := rest } } : State).askStore c i t
    | none => s
  | [] => s

/-- ADP_WRITE_ACK: a stored adapter's slot frees (R249). -/
def State.adpAck (s : State) (peer : Nat) : State :=
  match s.nextMsg peer 0x24 with
  | some (ch, m) =>
    let s1 := s.tookMsg peer ch
    let tag := leAt m.payload 0 4
    match s.net.tags.find? (fun t => t.tag = tag && t.write) with
    | some t =>
      if leAt m.payload 4 1 ≠ 0 then s1.writeBackFailed tag
      else
        let s2 : State := { s1 with net := { s1.net with tags := s1.net.tags.filter (fun u => u.tag ≠ tag) } }
        let s3 := s2.adpRelease t.slot
        (if t.retire then s3 else (s3.bump .imgAdpEvictCount 0 1).count ctrIo 5 1).fetchNext
    | none => s1
  | none => s

/-- Halve the use counts (R249). -/
def State.adpDecay (s : State) : State :=
  if s.rf .imgAdpTime 0 7 0 = 0 then s
  else { s with adps := s.adps.foldl (fun m e => m.set {} e.1 { e.2 with useCount := e.2.useCount / 2 }) [] }

/-- An ADAPT or ADAPT_UPD uses a slot (R249). -/
def State.adpUse (s : State) (slot : Nat) : State :=
  let x := s.adp slot
  { s.setAdp slot { x with useCount := satTo 0xFFFF (x.useCount + 1), lru := s.adpClock } with adpClock := s.adpClock + 1 }

/-! ### Adapter arithmetic -/

/-- An adapter as its header and matrices describe it (R246). -/
structure AdpView where
  compat : Nat
  gen : Nat
  rank : Nat
  kA : Nat
  nA : Nat
  deriving DecidableEq, Repr

/-- The header of an adapter. -/
def adpView (bs : List Byte) : AdpView := ⟨leAt bs 20 4, leAt bs 24 8, leAt bs 32 1, leAt bs 34 2, leAt bs 36 2⟩

/-- Row `r` of A. -/
def rowA (bs : List Byte) (v : AdpView) (r : Nat) : List Word :=
  let d := bs.drop (64 + 2 * v.kA * r)
  (List.range v.kA).map (fun k => bf16At d (2 * k))
/-- Row `n` of B. -/
def rowB (bs : List Byte) (v : AdpView) (n : Nat) : List Word :=
  let d := bs.drop (64 + 2 * v.rank * v.kA + 2 * v.rank * n)
  (List.range v.rank).map (fun r => bf16At d (2 * r))

/-- h = rne_bf16(A x) (R247). -/
def adpH (bs : List Byte) (v : AdpView) (x : List Word) : List Word := (List.range v.rank).map (fun r => Fp.bf (tdot (rowA bs v r) x))
/-- u = B h (R247). -/
def adpU (bs : List Byte) (v : AdpView) (h : List Word) : List Word := (List.range v.nA).map (fun n => tdot (rowB bs v n) h)

/-- sround_bf16 (R343). -/
def sroundBf16 (t : Word) (r : Nat) : BitVec 16 :=
  let m := t.toNat % 2 ^ 31 + r / 2 ^ 48
  let h := m / 65536
  let h := if 255 ≤ h / 128 then 0x7F7F else h
  BitVec.ofNat 16 (h + 32768 * b2n (Fp.sgn t))

/-- min(max(t, -CLIP), +CLIP). -/
def clampW (t clip : Word) : Word :=
  if Fp.lt t (Fp.neg clip) then Fp.neg clip else if Fp.lt clip t then clip else t

/-- The update of R343 on rows of inputs and errors: the new bytes, or the number of non-finite values that
leave the adapter as it stands, each GA, GB and t by itself (R344); a gradient that is not finite makes its t such a value too.
`pick e` is the lane of element `e`. -/
def adpUpdate (bs : List Byte) (xs es : List (List Word)) (lr clip : Word) (sr : Bool) (pick : Nat → Nat) : Except Nat (List Byte) :=
  let v := adpView bs
  let eb := es.map (·.map Fp.bf)
  let hs := xs.map (adpH bs v)
  let colB (r : Nat) : List Word := (List.range v.nA).map (fun n => (rowB bs v n).getD r 0)
  let gs := eb.map (fun e => (List.range v.rank).map (fun r => Fp.bf (tdot (colB r) e)))
  let col (m : List (List Word)) (k : Nat) : List Word := m.map (fun r => r.getD k 0)
  let ga (r k : Nat) : Word := tdot (col gs r) (col xs k)
  let gb (n r : Nat) : Word := tdot (col eb n) (col hs r)
  let grads := (List.range (v.rank * v.kA)).map (fun e => ga (e / v.kA) (e % v.kA)) ++
    (List.range (v.nA * v.rank)).map (fun e => gb (e / v.rank) (e % v.rank))
  let ts := grads.zipIdx.map (fun (g, e) => (g,
    if Fp.isFin g then Fp.fma (Fp.neg lr) g (bf16At bs (64 + 2 * e)) else g))
  let bad := (ts.filter (fun (g, _) => !Fp.isFin g)).length + (ts.filter (fun (_, t) => !Fp.isFin t)).length
  if bad ≠ 0 then .error bad
  else
    let ws := ts.zipIdx.flatMap (fun ((_, t), e) =>
      let c := clampW t clip
      leBytes 2 (if sr then sroundBf16 c (pick e) else Fp.toBf16 c).toNat)
    let hdr := patch (patch (bs.take 64) 24 (leBytes 8 (u64 (v.gen + 1)))) 33 [BitVec.ofNat 8 (leAt bs 33 1 ||| 1)]
    .ok (hdr ++ ws ++ bs.drop (64 + ws.length))

/-! ### Checkpoints -/

/-- A failed block of device memory that belongs to the state blocks or the adapter of a context makes the context suspect
(R318). -/
def State.suspectMem (s : State) (a : Nat) : State :=
  let inState := (List.filter (fun (e : Nat × Ctx) => e.2.usable && e.2.stAddr ≤ a && a < e.2.stAddr + blk * e.2.stBlocks) s.ctxs).map (·.1)
  let inSlot := (List.filter (fun (e : Nat × AdpSlot) => e.2.used && s.adpAddr e.1 ≤ a && a < s.adpAddr e.1 + 65536) s.adps).map (·.2.ctx)
  s.each (inState ++ inSlot) (fun t i => t.raise ((evDev 0x300C 2 (t.ctx i).ckptStep).withStream true i (t.ctx i).step))

/-- An uncorrectable error of device memory met by an entry (R294, R318). -/
def State.ueMem (s : State) (a : Nat) : State := (s.ueEvent (ctlOf a) a).suspectMem a

/-- Bytes of a checkpoint entry (R319). -/
def State.ckptSize (s : State) : Nat := 4096 + 65536 + 4096 * s.rf .chkCkptCfg 0 22 16
/-- The address of a context's checkpoint of parity `k` (R319). -/
def State.ckptAddr (s : State) (c k : Nat) : Nat := s.rdPair .chkCkptPoolLo .chkCkptPoolHi + s.ckptSize * (2 * c + k)

/-- Copy whole blocks of device memory with their manifests. -/
def State.copyBlocks (s : State) (src dst n : Nat) : State :=
  s.each (List.range n) (fun t i =>
    if t.inBlocks (src + blk * i) blk && t.inBlocks (dst + blk * i) blk then
      t.putBlock (dst + blk * i) (t.bytesAt (src + blk * i) blk) (t.devMan (src + blk * i)) else t)

/-- The first block that a checkpoint of a context reads and that fails (R291, R294). -/
def State.ckptBad (s : State) (c : Nat) : Option (Nat × Nat) :=
  ((s.slotOfCtx c).bind (fun i => s.badBlock (s.adpAddr i) 16)).orElse (fun _ => s.badBlock (s.ctx c).stAddr (s.ctx c).stBlocks)

/-- Write a checkpoint of a context (R319): adapter slot, state blocks, then the header block with STEP and
GEN. A block that fails at its read leaves the context without this checkpoint and makes it suspect (R318); so does a pool entry that does
not lie in block space leave it without one (assumption 17). -/
def State.checkpoint (s : State) (c : Nat) : State :=
  let x := s.ctx c
  if s.rf .chkCkptCfg 0 22 16 < x.stBlocks then s else
  let k := x.step / max 1 (s.rf .chkCkptCfg 0 12 0) % 2
  let a := s.ckptAddr c k
  if !s.inBlocks a s.ckptSize then s else
  match s.ckptBad c with
  | some (b, cause) => (s.reportBad b cause).suspectMem b
  | none =>
  let slot := s.slotOfCtx c
  let s1 := match slot with
    | some i => s.copyBlocks (s.adpAddr i) (a + 4096) 16
    | none => s
  let s2 := s1.copyBlocks x.stAddr (a + 4096 + 65536) x.stBlocks
  let gen := match slot with
    | some i => leAt (s.bytesAt (s.adpAddr i) 64) 24 8
    | none => 0
  let h := padTo blk (leBytes 8 x.step ++ leBytes 8 gen)
  let s3 := if s2.inBlocks a blk then s2.putBlock a h (({ tensor := 1 } : Manifest).seal h) else s2
  s3.modCtx c (fun y => { y with ckptStep := y.step, ckpts := (y.ckpts.filter (fun e => e.1 ≠ k)) ++ [(k, 2 * y.step + b2n slot.isSome)] })

/-- The blocks of a context's checkpoint, of value `v` (twice its step, and 1 with an adapter), can be read (R291). -/
def State.ckptReads (s : State) (c k v : Nat) : Bool :=
  let a := s.ckptAddr c k
  (s.badBlock (a + 4096 + 65536) (s.ctx c).stBlocks).isNone && (v % 2 = 0 || (s.badBlock (a + 4096) 16).isNone)

/-- ROLLBACK (R320): the CODE and the state after it. A checkpoint written while the adapter was not resident
restores state blocks and STEP alone, and one that cannot be read is none (assumption 17). -/
def State.rollback (s : State) (c : Nat) : Nat × State :=
  let x := s.ctx c
  let target := s.rd .chkArgLo + 2 ^ 32 * s.rd .chkArgHi
  if x.st ≠ .bound || x.inflight ≠ 0 then (1, s) else
  let fit := x.ckpts.filter (fun e => e.2 / 2 ≤ target && s.ckptReads c e.1 e.2)
  match sortBy fit (fun a b => decide (b.2 ≤ a.2)) with
  | [] => (2, s)
  | (k, v) :: _ =>
    let a := s.ckptAddr c k
    let step := v / 2
    let s1 := s.copyBlocks (a + 4096 + 65536) x.stAddr x.stBlocks
    let s2 := if v % 2 = 0 then s1 else
      let (slot, t) := match s1.slotOfCtx c with
        | some i => (some i, s1)
        | none => s1.takeSlot c
      match slot with
      | some i =>
        let t1 := (t.copyBlocks (a + 4096) (t.adpAddr i) 16).modCtx c (fun y => { y with adapter := 2 ^ 31 + i })
        let d := t1.bytesAt (t1.adpAddr i) blk
        let d1 := patch d 33 [BitVec.ofNat 8 (leAt d 33 1 ||| 1)]
        if t1.inBlocks (t1.adpAddr i) blk then t1.putBlock (t1.adpAddr i) d1 ((t1.devMan (t1.adpAddr i)).seal d1) else t1
      | none => t
    let s3 := s2.modCtx c (fun y => { y with step := step, ckptStep := step, ckpts := y.ckpts.filter (fun e => e.2 / 2 ≤ step) })
    (0, s3.raise ((evDev 0x300E 0 step).withStream true c step))

/-! ### Stream commands -/

/-- STM_STATUS (R221). -/
def State.stmResult (s : State) (i code : Nat) : State := s.wr .stmStatus 0 0 (i + 65536 * code + 2 ^ 31)

/-- The pack identifier in STM_PACK0 to 3. -/
def State.packId (s : State) : Nat := ((List.range 4).map (fun k => 2 ^ (32 * k) * s.rd .stmPack 0 k)).sum

/-- Contexts that are not FREE. -/
def State.stmBound (s : State) : Nat := (s.ctxs.filter (fun e => e.2.st ≠ .free)).length

/-- The context of a pack. -/
def State.ctxOfPack (s : State) (pack : Nat) : Option Nat := (List.find? (fun (e : Nat × Ctx) => e.2.st ≠ .free && e.2.pack = pack) s.ctxs).map (·.1)

/-- The manifest of a fresh state block (assumption 17). -/
def freshState (i : Nat) : Manifest := ({ tensor := 1, index := i } : Manifest).seal (List.replicate blk 0)

/-- BIND (R209, R210); until READY it is refused with CODE 0x4 (R396). -/
def State.bind_ (s : State) : State :=
  let pack := s.packId
  if !s.up then s.stmResult 0 4
  else if pack = 0 then s.stmResult 0 5
  else match s.ctxOfPack pack with
  | some i => s.stmResult i (if (s.ctx i).st = .bound then 1 else 4)
  | none =>
    match (List.range (s.ctxs.length + 1)).find? (fun i => i < 65536 && (s.ctx i).st = .free) with
    | none => ((s.stmResult 0 2).flag .stmEvent 0 1).raise (evDev 0x1210 1 0)
    | some i =>
      match s.takeSlot i with
      | (none, s1) => s1.stmResult 0 2
      | (some slot, s1) =>
        let m := s.rf .stmArg 0 15 0
        let n := s.rf .stmArg 0 22 16
        let a := s.rdPair .stmStateLo .stmStateHi
        let s2 := s1.setCtx i { pack := pack, st := .bound, pin := s.rb .stmArg 0 24, model := m, stAddr := a, stBlocks := n, tBind := s.time }
        let s3 := s2.each (List.range n) (fun t k =>
          if t.inBlocks (a + blk * k) blk then t.putBlock (a + blk * k) (List.replicate blk 0) (freshState k) else t)
        let s4 := match s3.adpInit m with
          | some init => s3.adpFill slot i (((s.model m).issueImg.map (fun (g : Image × Bool) => g.1.compat)).getD 0) init
          | none => s3.setAdp slot {}
        let s5 := if s.rb .chkCkptCfg 0 31 && s.rf .chkCkptCfg 0 22 16 < n then
            s4.raise ((evDev 0x300D 1 (n + 256 * s.rf .chkCkptCfg 0 22 16)).withStream true i 0) else s4
        (s5.count ctrIo 6 1).stmResult i 0

/-- LOOKUP (R210). -/
def State.lookup (s : State) : State :=
  match s.ctxOfPack s.packId with
  | some i => s.stmResult i 0
  | none => s.stmResult 0 3

/-- RETIRE (R209). -/
def State.retire (s : State) (c reason : Nat) : State :=
  if (s.ctx c).st = .bound then (s.modCtx c (fun x => { x with st := .retiring, reason := reason })).stmResult c 0
  else s.stmResult c 4

/-- INFLIGHT has reached 0: the context is RETIRED (R209). -/
def State.retired (s : State) (c : Nat) : State :=
  let x := s.ctx c
  if x.st ≠ .retiring || x.inflight ≠ 0 then s else
  let s1 := if s.rb .chkCkptCfg 0 31 then s.checkpoint c else s
  let s2 := match s1.slotOfCtx c with
    | some i => if (s1.adp i).evicting then s1 else s1.writeBack i true
    | none => s1
  (((s2.count ctrIo 7 1).modCtx c (fun y => { y with st := .retired })).flag .stmEvent 0 2).raise
    ((evDev 0x1211 0 (c + 65536 * x.reason)).withStream true c x.step)

/-- RELEASE (R209). -/
def State.releaseCtx (s : State) (c : Nat) : State :=
  if (s.ctx c).st = .retired then
    let s1 := match s.slotOfCtx c with
      | some i => s.setAdp i {}
      | none => s
    (s1.setCtx c {}).stmResult c 0
  else s.stmResult c 4

end Sys2Proof.Machine
end

