-- ==== Sys2Proof/Machine/MonOps.lean ====
section
/-! DEFINITION. Monitor converters, temperatures and throttling (R277 to R282, R404). -/
namespace Sys2Proof.Machine
open Sys2Proof

/-- One monitor converter. -/
def State.mon (s : State) (m : Nat) : Mon := s.mons.get {} m
/-- Replace one monitor converter. -/
def State.setMon (s : State) (m : Nat) (x : Mon) : State := { s with mons := s.mons.set {} m x }

/-- A monitor event (R284). -/
def evMon (code sev m detail : Nat) : Event := { code := code, sev := sev, locType := 2, loc := m, detail := detail }

/-- Channels of a converter. -/
def monChannels (m : Nat) : Nat := if m < 4 then 48 else 32

/-- Entry `k` of the regular sequence (R283). -/
def State.seqEntry (s : State) (m k : Nat) : Nat := fld (s.rd .monSeq m (k / 4)) (8 * (k % 4) + 5) (8 * (k % 4))
/-- Entry `k` of the injected sequence (R283). -/
def State.injEntry (s : State) (m k : Nat) : Nat := fld (s.rd .monInjCh m) (8 * k + 5) (8 * k)

/-- The conversion in progress: its path (0 main, 1 regular, 2 injected) and channel. -/
def State.monNow (s : State) (m : Nat) : Option (Nat × Nat) :=
  let x := s.mon m
  match x.injPos with
  | some k => some (2, s.injEntry m k)
  | none => if x.seqMode then some (1, s.seqEntry m x.seqPos) else x.main.map (fun c => (0, c))

/-- A trigger of the injected sequence (R280). -/
def State.monTrigger (s : State) (m : Nat) : State :=
  let x := s.mon m
  if x.injPos.isSome then
    if x.injMore then s.flag .monEvent m 4 else s.setMon m { x with injMore := true }
  else if x.injStart then s.flag .monEvent m 4
  else if (s.monNow m).isSome then s.setMon m { x with injStart := true }
  else s.setMon m { x with injPos := some 0 }

/-- A change of mode, at once when no conversion runs (R279); a START that waited is not of the sequence mode and falls away
(assumption 67). -/
def Mon.takeMode (x : Mon) : Mon :=
  match x.newMode with
  | some b => { x with seqMode := b, newMode := none, seqPos := if b then 0 else x.seqPos, wait := if b then none else x.wait }
  | none => x

/-- Ask for a mode (R279). -/
def State.monMode (s : State) (m : Nat) (seq : Bool) : State :=
  let x := s.mon m
  let y := if seq = x.seqMode then { x with newMode := none } else { x with newMode := some seq }
  s.setMon m (if (s.monNow m).isSome then y else y.takeMode)

/-- A write of MON_CTRL (R279, R283). -/
def State.monCtrl (s : State) (p : Path) (m v : Nat) : State :=
  if v &&& Reg.monCtrl.mask [.rsv] ≠ 0 || 1 < v % 4 || fld v 31 16 < 10 then s.ignored p (Reg.monCtrl.addr m 0) 2
  else
    let s1 := (s.wr .monCtrl m 0 v)
    (s1.setMon m { s1.mon m with fallback := false }).monMode m (decide (v % 4 = 1))

/-- FB_TIMEOUT without a START (R279). -/
def State.monFallback (s : State) (m : Nat) : State :=
  if (s.mon m).seqMode || (s.mon m).fallback || s.rf .monCtrl m 1 0 ≠ 0 || !s.rb .monCtrl m 2 then s
  else
    let s1 := (s.setMon m { s.mon m with fallback := true }).monMode m true
    (s1.flag .monEvent m 2).raise (evMon 0x2602 1 m 0)

/-- A write of MON_SEL: the channel, and with START a main-path conversion (R278, R279, R283). -/
def State.monSel (s : State) (p : Path) (m v : Nat) : State :=
  let ch := v % 64
  if v &&& Reg.monSel.mask [.rsv] ≠ 0 || monChannels m ≤ ch then s.ignored p (Reg.monSel.addr m 0) 2
  else if bit v 31 && (s.mon m).seqMode then (s.wr .monSel m 0 ch).ignored p (Reg.monSel.addr m 0) 3
  else
    let s1 := s.wr .monSel m 0 ch
    if bit v 31 then
      let x := s1.mon m
      (if x.main.isSome || x.injPos.isSome then s1.setMon m { x with wait := some ch }
        else s1.setMon m { x with main := some ch }).wf_ .monData m 31 31 0
    else s1

/-- Temperature in 1/16 °C of a code (R277). -/
def tempOf (code : Nat) : Int := (code : Int) - 1024

/-- The channel reads a temperature (R277). -/
def isTemp (m ch : Nat) : Bool := if m < 4 then ch < 32 || 44 ≤ ch else ch < 8

/-- What comparator `k` does with a code (R281). With PFAIL it signals the power controller on leaving its band, the lockkeeper's
comparators below LOW alone (R404). -/
def State.compare (s : State) (m ch code k : Nat) : State :=
  let cfg := s.rd .monWinCfg m k
  let lim := s.rd .monWinLim m k
  if !bit cfg 16 || fld cfg 5 0 ≠ ch then s else
  let x := s.mon m
  let low := fld lim 11 0
  let high := fld lim 27 16
  let hyst := fld cfg 11 8
  if bit x.out k then
    if low + hyst ≤ code && code + hyst ≤ high then s.setMon m { x with out := x.out - 2 ^ k } else s
  else if low ≤ code && code ≤ high then s
  else
    let below := decide (code < low)
    let s1 := s.setMon m { x with out := x.out + 2 ^ k }
    let s2 := if bit cfg 17 then
        (s1.flag .monEvent m 1).raise (evMon 0x2601 1 m (k + 256 * ch + 65536 * code + 2 ^ 28 * b2n below))
      else s1
    let s3 := if m = 4 && ch = 17 && below then s2.raise (evMon 0x8008 2 m code) else s2
    let s4 := if bit cfg 18 then s3.monTrigger m else s3
    if bit cfg 20 && (below || 12 ≤ k) then s4.powerFail 2 else s4

/-- A sensor of a quarter has answered: it is no longer stale (R282). -/
def State.sensorRead (s : State) (m ch : Nat) : State := { s with stale := s.stale.filter (· ≠ 32 * m + ch) }

/-- The counter of the highest temperature a quarter has seen (R420). -/
def State.peakTemp (s : State) (m : Nat) (n : Nat) : State :=
  let k := ctrId (ctrQuarter m) 12
  { s with ctrs := s.ctrs.set 0 k (BitVec.ofNat 64 (max (s.ctrs.get 0 k).toNat n)) }

/-- A temperature at or above T_CRIT − 10 °C is noted with its time (R403). -/
def State.noteHot (s : State) : State := { s with pwr := { s.pwr with hotAt := s.time } }

/-- A result is stored (R278, R283) and examined by every comparator (R281); a temperature at or above
T_CRIT halts the device (R403); the hold-up store's reading drives HOLDUP_OK (R396). -/
def State.monStore (s : State) (m path ch code : Nat) : State :=
  let x := s.mon m
  let s1 := (s.setMon m { x with last := x.last.set 0 ch s.time }).wr .monResult m ch (code + 4096 * path + 2 ^ 31)
  let s2 := if path = 0 then s1.wr .monData m 0 (code + 65536 * ch + 2 ^ 31) else s1
  let s3 := if m < 4 && ch < 32 then s2.sensorRead m ch else s2
  let s4 := if m < 4 then s3.count (ctrQuarter m) 6 1 else s3
  let s5 := if m < 4 && ch < 32 then s4.peakTemp m (tempOf code).toNat else s4
  let s6 := if m = 4 && ch = 17 then s5.wf_ .pwrStatus 0 3 3 (b2n (decide (3271 ≤ code))) else s5
  let s7 := s6.each (List.range 16) (fun t k => t.compare m ch code k)
  let crit : Int := (16 * s.rf .pwrCfg 0 15 8 : Nat)
  let s8 := if isTemp m ch && crit - 160 ≤ tempOf code then s7.noteHot else s7
  if isTemp m ch && crit ≤ tempOf code then s8.halt ch m (enc 16 (tempOf code)) else s8

/-- The converter goes on after a conversion (R278 to R280). -/
def State.monNext (s : State) (m path : Nat) : State :=
  let x := s.mon m
  let resume (z : Mon) : Mon := if z.seqMode then z else { z with main := z.wait, wait := none }
  match path with
  | 2 =>
    let x := x.takeMode
    match x.injPos with
    | some k =>
      if k + 1 < s.rf .monInjCfg m 2 0 then s.setMon m { x with injPos := some (k + 1) }
      else if x.injMore then s.setMon m { x with injPos := some 0, injMore := false }
      else s.setMon m (resume { x with injPos := none })
    | none => s
  | 1 =>
    let y := ({ x with seqPos := if x.seqPos + 1 < s.rf .monSeqCfg m 4 0 then x.seqPos + 1 else 0 } : Mon).takeMode
    if y.injStart then s.setMon m { y with injStart := false, injPos := some 0 }
    else s.setMon m (resume y)
  | _ =>
    let y := ({ x with main := none } : Mon).takeMode
    if y.injStart then s.setMon m { y with injStart := false, injPos := some 0 }
    else s.setMon m (resume y)

/-- A conversion ends with its code (R277). -/
def State.monDone (s : State) (m code : Nat) : State :=
  match s.monNow m with
  | some (path, ch) => (s.monStore m path ch code).monNext m path
  | none => s

/-- MON_STATUS (R283). -/
def State.monStatus (s : State) (m : Nat) : Nat :=
  let x := s.mon m
  let path := match s.monNow m with
    | some (p, _) => p
    | none => 0
  b2n (s.monNow m).isSome + 2 * path + 8 * b2n x.fallback + 16 * b2n x.injMore + 32 * x.seqPos

/-! ### Temperatures and power -/

/-- A valid reading of a channel. -/
def State.reading (s : State) (m ch : Nat) : Option Nat :=
  if bit (s.rd .monResult m ch) 31 then some (s.rd .monResult m ch % 4096) else none

/-- The highest die-corner reading of a quarter, in 1/16 °C (R282). -/
def State.cornerTemp (s : State) (q : Nat) : Int :=
  (((List.range 4).filterMap (fun i => s.reading q (44 + i))).map tempOf).foldl max (-1024)

/-- The temperature calibration uses for a core (R259, R282), in 1/16 °C. -/
def State.coreTemp (s : State) (c : Nat) : Int :=
  match s.reading (c / 32) (c % 32) with
  | some v => if s.stale.contains c then s.cornerTemp (c / 32) else tempOf v
  | none => s.cornerTemp (c / 32)

/-- The latest temperature of a core is older than 10 ms (R282). -/
def State.monStale (s : State) (c : Nat) : State :=
  if s.stale.contains c then s
  else
    let age := (s.time - (s.mon (c / 32)).last.get 0 (c % 32)) / 1000
    ((({ s with stale := c :: s.stale } : State).flag .monEvent (c / 32) 8)).raise
      (evMon 0x2603 1 (c / 32) (c + 2 ^ 32 * u32 age))

/-- Input power in nW from the current and voltage channels of the quarters (R277, R404; assumption 14). -/
def State.inputPower (s : State) : Nat :=
  ((List.range 4).map (fun q =>
    let v (ch : Nat) : Nat := (s.reading q ch).getD 0
    7320 * (v 40 * v 34) + 14650 * (v 41 * v 32) + 2930 * (v 42 * v 33))).sum

/-- PWR_STATUS follows the throttle levels (R417). -/
def State.thrStatus (s : State) : State :=
  let ls := (List.range 4).map s.qLevel
  let bits := ((List.range 4).map (fun q => if 0 < s.qLevel q then 2 ^ q else 0)).sum
  ((s.wf_ .pwrStatus 0 14 12 (ls.foldl max 0)).wf_ .pwrStatus 0 19 16 bits).wf_ .pwrStatus 0 20 20 (b2n (decide (0 < s.pwr.power)))

/-- The converters that a throttle request triggers (R280): a quarter's when its level rises, the I/O die's when any does. -/
def State.thrRequests (s : State) (old : State) : List Nat :=
  let up := (List.range 4).filter (fun q => old.qLevel q < s.qLevel q)
  ((if up.isEmpty then [] else up ++ [4])).filter (fun m => s.rb .monInjCfg m 9)

/-- THROTTLE_ON and THROTTLE_OFF after the levels changed from those of `old` (R404); a throttle request triggers the injected sequences
with PMC_EN (R280, assumption 14). -/
def State.thrEvents (s : State) (old : State) : State :=
  let s1 := s.thrStatus
  let quarters := s1.rf .pwrStatus 0 19 16
  let left := (List.range 4).any (fun q => old.pwr.thermal.get 0 q = 0 && 0 < s.pwr.thermal.get 0 q) ||
    (old.pwr.power = 0 && 0 < s.pwr.power)
  let wasOn := (List.range 4).any (fun q => 0 < old.qLevel q)
  let s2 : State :=
    if left then
      (if wasOn then s1 else { s1 with pwr := { s1.pwr with since := s.time } }).raise
        (evDev 0x8002 1 (quarters + 16 * b2n (decide (0 < s.pwr.power))))
    else if wasOn && quarters = 0 then s1.raise (evDev 0x8003 0 (2 ^ 32 * u32 ((s.time - s.pwr.since) / 1000)))
    else s1
  s2.each (s.thrRequests old) State.monTrigger

/-- A comparator of a converter signals THROTTLE to the power controller: it is OUT with THROTTLE set (R281). What the controller does with
the signal the spec does not say: it raises the levels as a temperature, or the input power, above its limit does (DESIGN CHOICE,
assumption 68). -/
def State.thrSignal (s : State) (m : Nat) : Bool :=
  (List.range 16).any (fun k => bit (s.mon m).out k && bit (s.rd .monWinCfg m k) 16 && bit (s.rd .monWinCfg m k) 19)

/-- A throttle level at a tick, and the start of its calm (R404): up by one while over the limit; down by one when what it watches has
stayed low for 10 ms since the calm began or the level last fell. -/
def State.levelStep (s : State) (key n : Nat) (past low : Bool) : Nat × Nat :=
  let c := s.pwr.calm.get 0 key
  if past then (min 4 (n + 1), 0)
  else if !low then (n, 0)
  else if c = 0 then (n, s.time + 1)
  else if c - 1 + 10000000 ≤ s.time then (n - 1, s.time + 1)
  else (n, c)

/-- The thermal levels rise or fall, once in a millisecond (R404). -/
def State.thermalTick (s : State) : State :=
  if s.time < s.pwr.thermAt + 1000000 then s else
  let thr : Int := 16 * (s.rf .pwrCfg 0 7 0 : Nat)
  let step (t : State) (q : Nat) : State :=
    let temps := (List.range 32).filterMap (fun i => (t.reading q i).map tempOf)
    let (m, c) := t.levelStep q (t.pwr.thermal.get 0 q) (t.thrSignal q || temps.any (fun x => thr < x)) (temps.all (fun x => x < thr - 48))
    { t with pwr := { t.pwr with thermal := t.pwr.thermal.set 0 q m, calm := t.pwr.calm.set 0 q c } }
  (({ s with pwr := { s.pwr with thermAt := s.time } } : State).each (List.range 4) step).thrEvents s

/-- The power level rises or falls, once in a millisecond (R404). -/
def State.powerTick (s : State) : State :=
  if s.time < s.pwr.powerAt + 1000000 then s else
  let cap := s.rf .pwrCfg 0 27 16 * 1000000000
  let (m, c) := s.levelStep 4 s.pwr.power (s.thrSignal 4 || cap < s.inputPower) (100 * s.inputPower < 95 * cap)
  ({ s with pwr := { s.pwr with power := m, calm := s.pwr.calm.set 0 4 c, powerAt := s.time } } : State).thrEvents s

/-! ### The lockkeeper's comparators -/

/-- Channel, LOW, HIGH and actions of comparator `k` of a converter (R281, R404); actions are EVENT 1,
INJ 2, THROTTLE 4, PFAIL 8. -/
def State.lkpComparator (s : State) (m k : Nat) : Option (Nat × Nat × Nat × Nat) :=
  let thr := (s.rf .pwrCfg 0 7 0 + 5 + 64) * 16
  let crit := (s.rf .pwrCfg 0 15 8 + 64) * 16
  if m < 4 then
    if k < 4 then some (44 + k, 0, thr, 5)
    else if k < 8 then some (40 + k, 0, crit, 3)
    else if k = 8 then some (32, 1809, 2901, 9)
    else if k = 9 then some (33, 2918, 3225, 1)
    else if k = 10 then some (34, 3245, 3586, 1)
    else if k = 11 then some (35, 1621, 1792, 1)
    else none
  else if k = 0 then some (17, 2844, 4095, 1)
  else if k = 1 then some (9, 2918, 3225, 9)
  else none

/-- Program the comparators of the lockkeeper (R281, R404). -/
def State.setComparators (s : State) : State :=
  s.each (List.range 5) (fun t m => t.each (List.range 12) (fun u k =>
    match s.lkpComparator m k with
    | some (ch, lo, hi, act) =>
      (u.wr .monWinCfg m k (ch + 256 * (Config.monHyst % 16) + 65536 + 131072 * act)).wr .monWinLim m k (lo + 65536 * hi)
    | none => u))

/-- The lockkeeper runs the main path of every converter after start-up (R278). -/
def State.mainPaths (s : State) : State :=
  s.each (List.range 5) (fun t m =>
    let t1 := t.wf_ .monCtrl m 1 0 0
    (t1.setMon m { t1.mon m with fallback := false }).monMode m false)

/-- PWR_FAIL_N triggers the injected sequences with PFAIL_EN (R280) and POWER_FAIL (R403). -/
def State.pinPowerFail (s : State) : State :=
  if s.boot.inReset then s
  else (s.each ((List.range 5).filter (fun m => s.rb .monInjCfg m 8)) State.monTrigger).powerFail 1

end Sys2Proof.Machine
end

