-- ==== Sys2Proof/Machine/CalOps.lean ====
section
/-! DEFINITION. Calibration: gain tables, traffic windows, corrections (R255 to R276). Exact rational
arithmetic; square roots and the heights of quantile estimators are rounded down to 2^-32 (assumption 15). -/
namespace Sys2Proof.Machine
open Sys2Proof

/-- One column set's calibration. -/
def Core.calSet (x : Core) (set : Nat) : CalSet := x.calSets.get {} set
/-- Replace one column set's calibration. -/
def State.setCal (s : State) (c set : Nat) (v : CalSet) : State :=
  s.modCore c (fun x => { x with calSets := x.calSets.set {} set v })
/-- One column set's calibration of a core. -/
def State.cal (s : State) (c set : Nat) : CalSet := (s.core c).calSet set

/-- The column set that logical array `l` of a core belongs to: its arrays with their grid indices. -/
def State.setOf (s : State) (c l : Nat) : List (Nat × Nat) :=
  match s.holder c l (s.larr c l) with
  | some h => h.setArrays c
  | none => []

/-- The arrays of the set whose set slot is `set`; none when no set has it. -/
def State.calArrays (s : State) (c set : Nat) : List (Nat × Nat) :=
  let xs := s.setOf c set
  if !xs.isEmpty && minArr xs = set then xs else []

/-! ### Trim values and converter units -/

/-- The trim value of a mask (R33). -/
def trimOf (m : Byte) : Int := ((m.toNat % 16 : Nat) : Int) - (m.toNat / 16 : Nat)

/-- The canonical mask of a trim value (R256). -/
def maskOf (m : Int) : Byte := if 0 ≤ m then BitVec.ofNat 8 m.toNat else BitVec.ofNat 8 (16 * (-m).toNat)

/-- Drive-weight units per converter step at a freeboard code (R72, R257). -/
def lsbU (fb : Nat) : Rat := (446.25 : Rat) * ((2 ^ fb : Nat) : Rat) / 2

/-- U_F of an array's trim drive at a freeboard code (R32, R60). -/
def State.trimU (s : State) (a fb : Nat) : Nat := fld (s.rd .arrTrimCfg a) (8 * fb + 4) (8 * fb)

/-- One trim unit in converter steps (R257). -/
def State.trimUnit (s : State) (a fb : Nat) : Rat := (7 * s.trimU a fb : Nat) / lsbU fb

/-- A square root, rounded down to 2^-32 (assumption 15). -/
def ratSqrt (q : Rat) : Rat :=
  if q ≤ 0 then 0 else (Nat.sqrt (q.num.toNat * 2 ^ 64 / q.den) : Nat) / ((2 ^ 32 : Nat) : Rat)

/-- A height of a quantile estimator, kept to 2^-32 (assumption 15). -/
def roundQ (q : Rat) : Rat := (Rat.floor (q * ((2 ^ 32 : Nat) : Rat)) : Rat) / ((2 ^ 32 : Nat) : Rat)

/-- The median of a list of ratios: its middle element, or the mean of its two middle elements; 1 for none. -/
def median (xs : List Rat) : Rat :=
  let ys := sortBy xs (fun a b => decide (a ≤ b))
  let n := ys.length
  if n = 0 then 1 else if n % 2 = 1 then ys.getD (n / 2) 1 else (ys.getD (n / 2 - 1) 1 + ys.getD (n / 2) 1) / 2

/-- Write the mask of a logical pair into the shadow table (R256). -/
def State.setTrim (s : State) (a pair : Nat) (m : Int) : State :=
  s.modArr a (fun x => { x with trimShadow := x.trimShadow.set 0 (s.physPair a pair) (maskOf m) })

/-- Exchange the tables of an array (R34, R256). -/
def State.swapTrims (s : State) (a : Nat) : State :=
  s.modArr a (fun x => { x with trimActive := x.trimShadow, trimShadow := x.trimActive, epoch := x.epoch + 1 })

/-- The trim value in force of a logical pair. -/
def State.trimAt (s : State) (a pair : Nat) : Int := trimOf ((s.arr a).trimActive.get 0 (s.physPair a pair))

/-! ### STATS -/

/-- Statistics a STATS block records for a pair (R264). -/
structure PairStat where
  mu : Rat
  sigma : Rat
  q10 : Int
  q90 : Int
  deriving DecidableEq, Repr

/-- The STATS block of a grid entry, as kept from the installation of its image (R230, R267, assumption 67). -/
def Image.statsOf (img : Image) (layer t : Nat) : Option (List Byte) := img.stats.find? (65536 * layer + t)

/-- An image with the STATS blocks of its layers read from its copy in memory; those of carried layers stay as the installed version
has them (R225, R264). -/
def State.withStats (s : State) (img : Image) (old : Option Image) : Image :=
  let key (y : Placement) (t : Nat) : Nat := 65536 * y.layer + t
  { img with stats := (img.layers.flatMap (fun y => (List.range y.grid.length).filterMap (fun t =>
      ((if img.carried.contains y.layer then old.bind (fun o => o.statsOf y.layer t) else s.sectData img 6 y.layer t).map
        (fun d => (key y t, d)))))) }

/-- The STATS block of a logical array: its bytes. -/
def State.statsBlock (s : State) (c l : Nat) : Option (List Byte) :=
  match s.holder c l (s.larr c l) with
  | some h => h.img.statsOf h.pl.layer h.idx
  | none => none

/-- The calibrated freeboard code of a STATS block (R257, R264). -/
def blockFb (d : Option (List Byte)) : Nat := (d.map (fun d => leAt d 0 1 % 4)).getD 0

/-- The calibrated freeboard code of a logical array (R257). -/
def State.calFb (s : State) (c l : Nat) : Nat := blockFb (s.statsBlock c l)

/-- Pair `p` of a STATS block (R264). -/
def pairStat (d : List Byte) (p : Nat) : PairStat :=
  let o := 16 + 7 * p
  let bf (k : Nat) : Rat := Fp.toRat (Fp.ofBf16 (BitVec.ofNat 16 (leAt d (o + k) 2)))
  ⟨bf 0, bf 2, sext 12 (leAt d (o + 4) 3 % 4096), sext 12 (leAt d (o + 4) 3 / 4096)⟩

/-- N_W of a set (R267), from the statistics kept at installation; none for a set without them. -/
def State.calNwin (s : State) (c set : Nat) : Option Nat :=
  match (s.calArrays c set).mapM (fun (l, _) => s.statsBlock c l) with
  | some [] => none
  | some ds =>
    let top := (ds.flatMap (fun d => (List.range 514).map (fun p => (pairStat d p).sigma))).foldl max 0
    some (max (2 ^ 16) (min (2 ^ 26) (Rat.ceil (800 * top * top)).toNat))
  | none => none

/-! ### Gain model -/

/-- θ at a temperature in 1/16 °C (R259). -/
def theta (t : Rat) : Rat := 1 + 8 * (t / 16 - 60) / 10000

/-- θ at the array's core. -/
def State.thetaOf (s : State) (a : Nat) : Rat := theta (s.coreTemp (a / 17))

/-- The check unit computes the gain weights of an array anew, from the ρ and the temperature of this moment (R296). -/
def State.refreshW (s : State) (a : Nat) : State := s.modArr a (fun x => { x with wFac := x.rho * s.thetaOf a })

/-- G of a logical pair (R259). -/
def State.pairGain (s : State) (c l : Nat) (k : Rat) : Rat :=
  k * (s.arr (s.larr c l)).rho * theta (s.coreTemp c)

/-- k of a logical pair in force, or of a pending correction. -/
def State.kAt (s : State) (c l pair : Nat) (pend : NMap Rat) : Rat :=
  match pend.find? (514 * l + pair) with
  | some v => v
  | none => (s.arr (s.larr c l)).k.get 1 pair

/-- The pairs of an output column: one in W4, two in W7 (R255). -/
def colPairs (w7 : Bool) (col : Nat) : List Nat := if w7 then [2 * col, 2 * col + 1] else [col]

/-- GC of an output column of a set from the model of R259, with the pending factors; true when it had to
be clamped. -/
def State.gainWord (s : State) (c : Nat) (ls : List (Nat × Nat)) (w7 : Bool) (col : Nat) (pend : NMap Rat) : Nat × Bool :=
  let gs := ls.flatMap (fun (l, _) => (colPairs w7 col).map (fun p => s.pairGain c l (s.kAt c l p pend)))
  let mean := gs.sum / (gs.length : Nat)
  let v := 0x8000 + Fp.rne ((1 / mean - 1) * ((2 ^ 17 : Nat) : Rat))
  ((clampI 0 0xFFFF v).toNat, decide (v < 0 || 0xFFFF < v))

/-- The set's layer is in W7 mode. -/
def State.setW7 (s : State) (c set : Nat) : Bool :=
  match s.holder c set (s.larr c set) with
  | some h => h.pl.w7
  | none => false

/-- The gain table of a set from the model, and the first clamped column (R259). -/
def State.gainTable (s : State) (c set : Nat) (pend : NMap Rat) : NMap Nat × Option Nat :=
  let ls := s.calArrays c set
  let w7 := s.setW7 c set
  (List.range (if w7 then 256 else 512)).foldl (fun (m, bad) col =>
    let (v, cl) := s.gainWord c ls w7 col pend
    (m.set 0x8000 col v, if cl && bad.isNone then some col else bad)) ([], none)

/-- Report a clamped gain word (R259). -/
def State.gainRange (s : State) (c set : Nat) (bad : Option Nat) : State :=
  match bad with
  | some col => (s.flag .corCalEvent c 0x40).raise (evCore 0x2507 1 c (set + 65536 * col))
  | none => s

/-- Load a gain table as a new generation; the earlier one stays for its rows (R272). -/
def CalSet.load (v : CalSet) (t : NMap Nat) : CalSet :=
  { v with gen := v.gen + 1, active := t, old := (v.gen, v.active) :: v.old }

/-- The gain table of a generation (R272). -/
def CalSet.table (v : CalSet) (gen : Nat) : NMap Nat :=
  if gen = v.gen then v.active else ((v.old.find? (·.1 = gen)).map (·.2)).getD v.active

/-- Generations of a set that rows of entries in progress carry (R272). -/
def State.gensUsed (s : State) (c set : Nat) : List Nat :=
  s.pounds.flatMap (fun (_, x) => x.service.flatMap (fun (_, o) => match o with
    | some n => n.runs.flatMap (fun e => (e.gens.filter (fun g => g.1 / 2 ^ 24 = 16 * c + set)).map (·.2))
    | none => []))

/-- Replace one column set's calibration; of the earlier gain tables those stay that some row still needs (R272). -/
def State.setGains (s : State) (c set : Nat) (v : CalSet) : State :=
  let used := s.gensUsed c set
  s.setCal c set { v with old := v.old.filter (fun g => used.contains g.1) }

/-- γ of a gain word (R255). -/
def gamma (gc : Nat) : Rat := 1 + ((gc : Rat) - 0x8000) / ((2 ^ 17 : Nat) : Rat)

/-- The change of a gain word towards the model's, at most 0.01 % of the γ in force (R265). -/
def gainStep (now old new : Nat) : Int :=
  let lim : Int := Rat.floor (gamma now * ((2 ^ 17 : Nat) : Rat) / 10000)
  clampI (-lim) lim ((new : Int) - (old : Int))

/-- Some split sequence runs on an array of the set (R82, R272). -/
def State.setSplits (s : State) (c set : Nat) : Bool :=
  (s.core c).splits.any (fun q => (s.calArrays c set).any (fun (l, _) => l = q.base.larr))

/-- The 1 ms update of one set (R265, R274): the change is that of the gains the model gives for the factors in force, so a running ramp
takes it in its start, its target and its values in force alike. Within a split sequence the update waits for its end (R272). -/
def State.tempUpdate (s : State) (c set : Nat) : State :=
  let v := s.cal c set
  if v.st = .off || (s.calArrays c set).isEmpty then s
  else if s.setSplits c set then s.setCal c set { v with tempDue := true }
  else
    let (t, bad) := s.gainTable c set []
    let base := if v.st = .ramping then v.startGain else v.active
    let d (col : Nat) : Int := gainStep (v.active.get 0x8000 col) (base.get 0x8000 col) (t.get 0x8000 col)
    let shift (m : NMap Nat) : NMap Nat :=
      (List.range 512).foldl (fun m col => m.set 0x8000 col (clampI 0 0xFFFF (((m.get 0x8000 col : Nat) : Int) + d col)).toNat) m
    let w := if (List.range 512).all (fun col => d col = 0) then v else v.load (shift v.active)
    let w1 := if v.st = .ramping then { w with startGain := shift v.startGain, target := shift v.target }
      else if v.st = .pending then { w with target := (s.gainTable c set v.kTo).1 } else w
    ((s.setGains c set { w1 with tempDue := false }).gainRange c set bad).each ((s.calArrays c set).map (fun e => s.larr c e.1)) State.refreshW

/-- The slots of a core that belong to no set, the spare among them: their gain weights too follow each update (R265, R296). -/
def State.looseSlots (s : State) (c : Nat) : List Nat :=
  ((List.range 17).filter (fun sl => match (s.core c).logicalOf sl with
    | some l => (s.setOf c l).isEmpty
    | none => true)).map (arrId c)

/-- The 1 ms update of a core (R265). -/
def State.tempUpdates (s : State) (c : Nat) : State :=
  let s1 := s.each (List.range 16) (fun t set => t.tempUpdate c set)
  if s.rb .corCalCfg c 0 then s1.each (s1.looseSlots c) State.refreshW else s1

/-! ### Traffic windows -/

/-- Forget a window's samples. -/
def CalSet.clear (v : CalSet) : CalSet :=
  { v with taps := [], waves := 0, satWaves := 0, qual := [], zn := [], zs := [] }

/-- Forget both windows. -/
def CalSet.fresh (v : CalSet) : CalSet :=
  { v.clear with temps := 0, tempSum := 0, offs1 := [], gains1 := [], quant1 := [], zero1 := [], sat1 := false }

/-- Forget a pending or ramping correction. -/
def CalSet.discard (v : CalSet) : CalSet :=
  { v with step := 0, target := [], trimTo := [], kTo := [], startGain := [], startTrim := [], due := 0, idle := false }

/-- Start over in COLLECT1 (R271). -/
def CalSet.restart (v : CalSet) : CalSet := { v.fresh with st := .collect1 }

/-- Discard the windows of a set that collects (R271). -/
def State.calRestart (s : State) (c set : Nat) : State :=
  let v := s.cal c set
  if v.st = .collect1 || v.st = .collect2 then s.setCal c set v.restart else s

/-- A SWAP not issued by calibration, or a write to ARR_TRIM_CFG, of a physical array (R271, R276). -/
def State.calDisturbed (s : State) (a : Nat) : State :=
  match (s.core (a / 17)).logicalOf (a % 17) with
  | some l => s.calRestart (a / 17) (minArr (s.setOf (a / 17) l))
  | none => s

/-- Every array of the set is SERVING. -/
def State.setServing (s : State) (c set : Nat) : Bool :=
  (s.calArrays c set).all (fun (l, _) => decide ((s.arr (s.larr c l)).st = .serving))

/-- OFF and SUSPENDED sets begin to collect once every array of the set serves (R271). -/
def State.calBegin (s : State) (c set : Nat) : State :=
  let v := s.cal c set
  if (v.st = .off || v.st = .suspended) && s.rb .corCalCfg c 0 && !(s.calArrays c set).isEmpty && s.setServing c set then
    s.setCal c set v.restart
  else s

/-- Every set of a core is looked at again (R271). -/
def State.calBeginAll (s : State) (c : Nat) : State := s.each (List.range 16) (fun t set => t.calBegin c set)

/-- A spare takes an array's place (R146, R276): a correction computed for the old slot is dropped and the windows restart; a
SUSPENDED set whose arrays all serve again collects (R271). -/
def State.calSubstitute (s : State) (c set : Nat) : State :=
  let v := s.cal c set
  if v.st = .off then s
  else if s.setServing c set then s.setCal c set v.discard.restart
  else s.setCal c set { v.discard.fresh with st := .suspended }

/-- An array of the set leaves service: windows and pending correction are discarded, a ramp stops (R271); the conversions of a
drift-tracking session it has made are lost. -/
def State.calSuspend (s : State) (c l : Nat) : State :=
  let set := minArr (s.setOf c l)
  let v := s.cal c set
  let s1 := s.modArr (s.larr c l) (fun x => { x with session := none })
  if v.st = .off then s1
  else s1.setCal c set { v.discard.fresh with st := .suspended }

/-- EN = 0: every set of the core is OFF; tables and masks keep their values (R271). -/
def State.calOff (s : State) (c : Nat) : State :=
  s.each ((s.core c).calSets.map (·.1)) (fun t set =>
    t.setCal c set { (t.cal c set).discard.fresh with st := .off, tempDue := false })

/-- One observation of the P² estimator of quantile `p` (R266, assumption 15): the first five are the markers; each later one moves the
markers' heights by the piecewise-parabolic formula, or the linear one where that leaves their order. -/
def P2.add (p : Rat) (e : P2) (x : Rat) : P2 :=
  if e.hts.length < 5 then
    ⟨e.seen + 1, (List.range (e.hts.length + 1)).map (· + 1), sortBy (e.hts ++ [x]) (fun a b => decide (a ≤ b))⟩
  else
    let q (i : Nat) : Rat := e.hts.getD i 0
    let cell := if x < q 1 then 0 else if x < q 2 then 1 else if x < q 3 then 2 else 3
    let hts := e.hts.zipIdx.map (fun (h, i) => if i = 0 then min h x else if i = 4 then max h x else h)
    let pos := e.pos.zipIdx.map (fun (n, i) => if cell < i then n + 1 else n)
    let want (i : Nat) : Rat := 1 + (e.seen : Nat) * (if i = 1 then p / 2 else if i = 2 then p else (1 + p) / 2)
    let move (acc : List Nat × List Rat) (i : Nat) : List Nat × List Rat :=
      let n (j : Nat) : Int := ((acc.1.getD j 0 : Nat) : Int)
      let h (j : Nat) : Rat := acc.2.getD j 0
      let gap := want i - (n i : Rat)
      let d : Int := if 1 ≤ gap && 1 < n (i + 1) - n i then 1 else if gap ≤ -1 && n (i - 1) - n i < -1 then -1 else 0
      if d = 0 then acc
      else
        let up := (h (i + 1) - h i) / ((n (i + 1) - n i : Int) : Rat)
        let down := (h i - h (i - 1)) / ((n i - n (i - 1) : Int) : Rat)
        let arc := h i + (d : Rat) / ((n (i + 1) - n (i - 1) : Int) : Rat) *
          (((n i - n (i - 1) + d : Int) : Rat) * up + ((n (i + 1) - n i - d : Int) : Rat) * down)
        let new := if h (i - 1) < arc && arc < h (i + 1) then arc else if d = 1 then h i + up else h i - down
        (acc.1.set i (n i + d).toNat, acc.2.set i (roundQ new))
    let (pos', hts') := [1, 2, 3].foldl move (pos, hts)
    ⟨e.seen + 1, pos', hts'⟩

/-- The quantile the estimator gives: its middle marker (of fewer than five observations, the nearest of them). -/
def P2.est (p : Rat) (e : P2) : Rat :=
  if e.hts.length < 5 then e.hts.getD (Rat.floor (p * (e.hts.length : Nat))).toNat 0 else e.hts.getD 2 0

/-- The codes of an original wave reach the tap of array `l` (R266): `ok` says that the wave qualifies but for saturation; the codes of
unused spare pairs are `zeros`. Every 256th qualifying wave of an array goes to the quantile estimators (assumption 15). -/
def State.calTap (s : State) (c l : Nat) (codes zeros : NMap Int) (ok saturated : Bool) : State :=
  let set := minArr (s.setOf c l)
  let v := s.cal c set
  if v.st ≠ .collect1 && v.st ≠ .collect2 then s else
  let v1 := { v with waves := v.waves + 1 }
  if !ok then s.setCal c set v1
  else if saturated then s.setCal c set { v1 with satWaves := v.satWaves + 1 }
  else
    let n := v.qual.get 0 l + 1
    let tap (t : CalTap) (code : Int) : CalTap := { t with n := t.n + 1, s1 := t.s1 + code, s2 := t.s2 + code * code }
    let quant (t : CalTap) (code : Int) : CalTap := { t with lo := t.lo.add (1 / 10) code, hi := t.hi.add (9 / 10) code }
    s.setCal c set { v1 with
      temps := v.temps + 1, tempSum := v.tempSum + s.coreTemp c, qual := v.qual.set 0 l n,
      zn := v.zn.set 0 l (v.zn.get 0 l + zeros.length), zs := v.zs.set 0 l (v.zs.get 0 l + (zeros.map (·.2)).sum),
      taps := codes.foldl (fun m (p, code) =>
        let t := tap (m.get {} (514 * l + p)) code
        m.set {} (514 * l + p) (if n % 256 = 0 then quant t code else t)) v.taps }

/-- Offset and gain of every pair of an array from one window (R268). -/
def windowEstimates (v : CalSet) (l : Nat) (d : List Byte) : List (Nat × Rat × Rat) :=
  let raw := (List.range 514).map (fun p =>
    let t := v.taps.get {} (514 * l + p)
    let st := pairStat d p
    let mu : Rat := (t.s1 : Rat) / t.n
    let var : Rat := (t.s2 : Rat) / t.n - mu * mu
    (p, mu, st, if 4 ≤ st.sigma then some (ratSqrt (max (var - 146 / 1000) 0) / st.sigma) else none))
  let med := median (raw.filterMap (·.2.2.2))
  raw.map (fun (p, mu, st, g) => let g := g.getD med; (p, mu - g * st.mu, g))

/-- The quantile gain of a pair from one window (R268). -/
def quantGain (v : CalSet) (l p : Nat) (d : List Byte) : Rat :=
  let t := v.taps.get {} (514 * l + p)
  let st := pairStat d p
  (t.hi.est (9 / 10) - t.lo.est (1 / 10)) / ((st.q90 - st.q10 : Int) : Rat)

/-- The estimates of a window over a set, by 514 × array + pair: offsets and gains. -/
def State.estimates (s : State) (c set : Nat) : NMap Rat × NMap Rat :=
  let v := s.cal c set
  (s.calArrays c set).foldl (fun (os, gs) (l, _) =>
    match s.statsBlock c l with
    | some d => (windowEstimates v l d).foldl (fun (os, gs) (p, o, g) =>
        (os.set 0 (514 * l + p) o, gs.set 1 (514 * l + p) g)) (os, gs)
    | none => (os, gs)) ([], [])

/-- The quantile gains of a window over a set, of the pairs with σ_exp of at least 4 LSB, by 514 × array + pair (R268, R269). -/
def State.quantGains (s : State) (c set : Nat) : NMap Rat :=
  let v := s.cal c set
  (s.calArrays c set).flatMap (fun (l, _) =>
    match s.statsBlock c l with
    | some d => ((List.range 514).filter (fun p => 4 ≤ (pairStat d p).sigma)).map (fun p => (514 * l + p, quantGain v l p d))
    | none => [])

/-- The zero-reference means of a window, by array, of the arrays with unused spare pairs (R266). -/
def CalSet.zeroMeans (v : CalSet) : NMap Rat :=
  (v.zn.filter (fun e => e.2 ≠ 0)).map (fun (l, n) => (l, ((v.zs.get 0 l : Int) : Rat) / n))

/-- The first pair of a set, as (array, pair), that a test fails. -/
def State.firstPair (s : State) (c set : Nat) (bad : Nat → Bool) : Option (Nat × Nat) :=
  (s.calArrays c set).findSome? (fun (l, _) => ((List.range 514).find? (fun p => bad (514 * l + p))).map (fun p => (l, p)))

/-- The first pair, as 514 × array + pair, whose quantile gain differs from its gain by more than 5 %, when more than one eighth of a
set's pairs do (R269, cause 0x3). -/
def quantileFails (quants gains : NMap Rat) : Option Nat :=
  let bad := quants.filter (fun (k, gq) =>
    let r := gq / gains.get 1 k - 1
    (5 : Rat) / 100 < r || r < -(5 : Rat) / 100)
  if quants.length < 8 * bad.length then bad.head?.map (·.1) else none

/-- The first array whose zero-reference means differ by more than 0.25 LSB (R269, cause 0x4). -/
def zeroFails (z1 z2 : NMap Rat) : Option Nat :=
  (z1.map (·.1)).find? (fun l => match NMap.find? z1 l, NMap.find? z2 l with
    | some m, some n => decide ((1 : Rat) / 4 < m - n) || decide (m - n < -(1 : Rat) / 4)
    | _, _ => false)

/-- The rejection of R269: cause, array, pair. -/
def State.calReject (s : State) (c set cause l pair : Nat) : State :=
  (((s.setCal c set (s.cal c set).restart).flag .corCalEvent c 2).bump .corCalRejectCount c 1).raise
    (evCore 0x2502 1 c (set + 16 * cause + 256 * l + 65536 * pair))

/-- The set is in the gradual class (R275). -/
def State.gradual (s : State) (c set : Nat) : Bool := (s.calArrays c set).any (fun (l, _) => bit (s.rd .corCalClass c) l)

/-- The correction of an accepted calibration (R270): the set becomes PENDING, in the class of its arrays then (R275). -/
def State.calAccept (s : State) (c set : Nat) (offs gains : NMap Rat) (th : Rat) : State :=
  let ls := s.calArrays c set
  let v := s.cal c set
  let one (acc : NMap Int × NMap Rat × List (Nat × Nat)) (l : Nat) (p : Nat) : NMap Int × NMap Rat × List (Nat × Nat) :=
    let (tr, ks, cl) := acc
    let a := s.larr c l
    let m := s.trimAt a p
    let want := m - Fp.rne (offs.get 0 (514 * l + p) / s.trimUnit a (s.calFb c l))
    (tr.set (-16) (514 * l + p) (clampI (-15) 15 want),
     ks.insert (514 * l + p) (gains.get 1 (514 * l + p) / ((s.arr a).rho * th)),
     if want < -15 || 15 < want then cl ++ [(l, p)] else cl)
  let (tr, ks, cl) := ls.foldl (fun acc (l, _) => (List.range 514).foldl (fun acc p => one acc l p) acc) ([], [], [])
  let (gt, bad) := s.gainTable c set ks
  let s0 := s.each ls (fun t (l, _) => t.modArr (t.larr c l) (fun x => { x with prov := false }))
  let s1 := (s0.setCal c set { v.fresh with
    st := .pending, target := gt, trimTo := tr, kTo := ks, grad := s.gradual c set }).gainRange c set bad
  match cl with
  | (l, p) :: _ => (s1.flag .corCalEvent c 4).raise (evCore 0x2503 1 c (l + 65536 * cl.length + 2 ^ 32 * p))
  | [] => s1

/-- Every pair of every array of the set has N_W samples (R267). -/
def State.windowFull (s : State) (c set : Nat) : Bool :=
  match s.calNwin c set with
  | some n => (s.calArrays c set).all (fun (l, _) => (List.range 514).all (fun p => n ≤ ((s.cal c set).taps.get {} (514 * l + p)).n))
  | none => false

/-- Excluded waves exceed 1/65,536 of a window's original waves (R269, cause 0x5). -/
def CalSet.tooSat (v : CalSet) : Bool := v.waves < 65536 * v.satWaves

/-- The first test of R269 that two windows fail: its cause and the first failing array and pair. The pair of cause 0x4, and array and
pair of cause 0x5, which fail as a whole, have no stated value: free values (assumption 15). -/
def State.windowCause (s : State) (c set : Nat) (os gs qs z2 : NMap Rat) (free : Nat) : Option (Nat × Nat × Nat) :=
  let v := s.cal c set
  let dOff (k : Nat) : Rat := v.offs1.get 0 k - os.get 0 k
  let rGain (k : Nat) : Rat := v.gains1.get 1 k / gs.get 1 k - 1
  match s.firstPair c set (fun k => (1 : Rat) / 4 < dOff k || dOff k < -(1 : Rat) / 4) with
  | some (l, p) => some (1, l, p)
  | none =>
    match s.firstPair c set (fun k => (2 : Rat) / 1000 < rGain k || rGain k < -(2 : Rat) / 1000) with
    | some (l, p) => some (2, l, p)
    | none =>
      match (quantileFails v.quant1 v.gains1).orElse (fun _ => quantileFails qs gs) with
      | some k => some (3, k / 514, k % 514)
      | none =>
        match zeroFails v.zero1 z2 with
        | some l => some (4, l, free % 1024)
        | none => if v.sat1 || v.tooSat then some (5, free % 16, free / 16 % 1024) else none

/-- A window closes (R267 to R271). -/
def State.windowClose (s : State) (c set : Nat) : State :=
  let v := s.cal c set
  if !s.windowFull c set then s else
  let (os, gs) := s.estimates c set
  let qs := s.quantGains c set
  match v.st with
  | .collect1 => s.setCal c set { v.clear with
      st := .collect2, offs1 := os, gains1 := gs, quant1 := qs, zero1 := v.zeroMeans, sat1 := v.tooSat }
  | .collect2 =>
    let (free, s0) := s.fresh
    match s.windowCause c set os gs qs v.zeroMeans free with
    | some (cause, l, p) => s0.calReject c set cause l p
    | none =>
      let half (x y : NMap Rat) (d : Rat) : NMap Rat :=
        (s.calArrays c set).foldl (fun m (l, _) => (List.range 514).foldl (fun m p =>
          m.insert (514 * l + p) ((x.get d (514 * l + p) + y.get d (514 * l + p)) / 2)) m) []
      s0.calAccept c set (half v.offs1 os 0) (half v.gains1 gs 1) (theta ((v.tempSum : Rat) / (max 1 v.temps : Nat)))
  | _ => s

/-- A window open for 600 s is discarded (R267, R271). -/
def State.windowTimeout (s : State) (c set : Nat) : State :=
  let v := s.cal c set
  if v.st ≠ .collect1 && v.st ≠ .collect2 then s else
  let ns := (s.calArrays c set).flatMap (fun (l, _) => (List.range 514).map (fun p => (v.taps.get {} (514 * l + p)).n))
  let least := match ns with
    | n :: rest => rest.foldl min n
    | [] => 0
  ((s.setCal c set v.restart).flag .corCalEvent c 8).raise (evCore 0x2504 0 c (set + 2 ^ 32 * u32 least))

/-! ### Bringing corrections into force -/

/-- Bring trim values into force: written to the shadow tables, which are then exchanged; values that change
no mask exchange nothing (R256, R272). -/
def State.applyTrims (s : State) (c : Nat) (tr : NMap Int) : State :=
  if tr.all (fun (k, m) => s.trimAt (s.larr c (k / 514)) (k % 514) = m) then s
  else
    let arrays := (List.range 16).filter (fun l => tr.any (fun (k, _) => k / 514 = l))
    (s.each tr (fun t (k, m) => t.setTrim (t.larr c (k / 514)) (k % 514) m)).each arrays (fun t l => t.swapTrims (t.larr c l))

/-- Make the pending pair factors the ones in force (R270), the check unit's gain weights with them (R296). -/
def State.applyK (s : State) (c : Nat) (ks : NMap Rat) : State :=
  (s.each ks (fun t (k, q) => t.modArr (t.larr c (k / 514)) (fun x => { x with k := x.k.set 1 (k % 514) q }))).each
    ((ks.map (fun e => e.1 / 514)).eraseDups) (fun t l => t.refreshW (t.larr c l))

/-- The largest change of a list. -/
def topChange (xs : List Int) : Nat := (xs.map Int.natAbs).foldl max 0

/-- Report CAL_APPLIED (R271, R284). -/
def State.calApplied (s : State) (c set : Nat) (gradual : Bool) (dTrim dGain : Nat) : State :=
  (s.flag .corCalEvent c 1).raise (evCore 0x2501 0 c
    (set + 16 * b2n gradual + 256 * ((s.cal c set).gen % 256) + 65536 * (dTrim % 32) + 2 ^ 32 * (dGain % 65536)))

/-- The changes a correction makes: largest trim change and largest GC change. -/
def CalSet.delta (v : CalSet) (trimFrom : Nat → Int) (gainFrom : NMap Nat) : Nat × Nat :=
  (topChange (v.trimTo.map (fun (k, m) => m - trimFrom k)),
   topChange ((List.range 512).map (fun col => ((v.target.get 0x8000 col : Nat) : Int) - (gainFrom.get 0x8000 col : Nat))))

/-- A PENDING boundary-class correction takes effect, with the gains of the temperatures of that moment (R259, R271 to R273). -/
def State.calApply (s : State) (c set : Nat) : State :=
  let v := s.cal c set
  let (gt, bad) := s.gainTable c set v.kTo
  let (dt, dg) := { v with target := gt }.delta (fun k => s.trimAt (s.larr c (k / 514)) (k % 514)) v.active
  let w := (v.load gt).restart.discard
  (((((s.applyTrims c v.trimTo).applyK c v.kTo).setGains c set w)).gainRange c set bad).calApplied c set false dt dg

/-- The ramp a PENDING gradual-class correction begins with its first step, from the values in force (R274). -/
def State.rampOf (s : State) (c set : Nat) : CalSet :=
  let v := s.cal c set
  { v with st := .ramping, step := 0, startGain := v.active, target := (s.gainTable c set v.kTo).1,
           startTrim := v.trimTo.foldl (fun m (k, _) => m.insert k (s.trimAt (s.larr c (k / 514)) (k % 514))) [] }

/-- Step `k` of a ramp between two values (R274). -/
def rampAt (k : Nat) (a b : Int) : Int := a + rneDiv ((k : Int) * (b - a)) 256

/-- The trim values at step `k` of a ramp (R274). -/
def CalSet.trimsAt (r : CalSet) (k : Nat) : NMap Int := r.trimTo.map (fun (i, m) => (i, rampAt k (r.startTrim.get 0 i) m))

/-- The gain table at step `k` of a ramp (R274). -/
def CalSet.gainsAt (r : CalSet) (k : Nat) : NMap Nat :=
  (List.range 512).foldl (fun (m : NMap Nat) col =>
    m.set 0x8000 col (rampAt k (r.startGain.get 0x8000 col : Nat) (r.target.get 0x8000 col : Nat)).toNat) []

/-- A ramp comes to step `k` (R271, R274); at step 256 its correction is in force. -/
def State.rampTo (s : State) (c set : Nat) (r : CalSet) (k : Nat) : State :=
  let s1 := s.applyTrims c (r.trimsAt k)
  let w := { r.load (r.gainsAt k) with step := k, due := 0, idle := false }
  if k < 256 then s1.setGains c set w
  else
    let (dt, dg) := r.delta (fun i => r.startTrim.get 0 i) r.startGain
    ((s1.applyK c r.kTo).setGains c set w.restart.discard).calApplied c set true dt dg

/-- The ramp of a set that a step is for: the one under way, or the one its PENDING correction begins. -/
def State.rampFor (s : State) (c set : Nat) : CalSet :=
  if (s.cal c set).st = .ramping then s.cal c set else s.rampOf c set

/-- The trim values that the correction due brings into force (R272). -/
def State.calTrims (s : State) (c set : Nat) : NMap Int :=
  let v := s.cal c set
  if v.st = .ramping || v.grad then
    let r := s.rampFor c set
    r.trimsAt (min 256 (r.step + v.due))
  else v.trimTo

/-- The correction due changes some mask in force (R272). -/
def State.calMasks (s : State) (c set : Nat) : Bool :=
  (s.calTrims c set).any (fun (k, m) => s.trimAt (s.larr c (k / 514)) (k % 514) ≠ m)

/-- The correction or the ramp steps due take effect (R272 to R274). -/
def State.calTake (s : State) (c set : Nat) : State :=
  let v := s.cal c set
  if v.due = 0 then s
  else if v.st = .ramping || (v.st = .pending && v.grad) then
    let r := s.rampFor c set
    s.rampTo c set r (min 256 (r.step + v.due))
  else if v.st = .pending then s.calApply c set
  else s.setCal c set v.discard

/-- A wave waits for an array of the set. -/
def State.setWaiting (s : State) (c set : Nat) : Bool :=
  (s.core c).waiting.any (fun w => (s.calArrays c set).any (fun (l, _) => l = w.larr) && decide ((s.arr (s.larr c w.larr)).st = .serving))

/-- An array of the set converts (R74). -/
def State.setConverts (s : State) (c set : Nat) : Bool :=
  (s.core c).flying.any (fun w => w.conv < 4 && (s.calArrays c set).any (fun (l, _) => l = w.req.larr))

/-- The arrays of the set stand idle: a correction takes effect without waiting for a slot (R272). -/
def State.calQuiet (s : State) (c set : Nat) : Bool :=
  !s.setSplits c set && !s.setWaiting c set && !s.setConverts c set

/-- Corrections due on sets that stand idle, and deferred temperature updates, take effect (R265, R272). -/
def State.calIdle (s : State) (c : Nat) : State :=
  s.each ((s.core c).calSets.map (·.1)) (fun t set =>
    let t1 := if (t.cal c set).tempDue then t.tempUpdate c set else t
    if (t1.cal c set).due ≠ 0 && t1.calQuiet c set then t1.calTake c set else t1)

/-- A correction, or the next step of a ramp, is due: it takes effect at its slot, or at once where the set stands idle (R272). -/
def State.calDue (s : State) (c set : Nat) : State :=
  let v := s.cal c set
  let s1 := s.setCal c set { v with due := v.due + 1 }
  if s1.calQuiet c set then s1.calTake c set else s1

/-- GRAD_US has passed since the last step of a gradual correction (R274). -/
def State.calRamp (s : State) (c set : Nat) : State :=
  let v := s.cal c set
  if v.st = .ramping || (v.st = .pending && v.grad) then s.calDue c set else s

/-- COR_CAL_STATUS of the selected set (R283). -/
def State.calStatus (s : State) (c : Nat) : Nat :=
  let set := s.rf .corCalSel c 3 0
  let v := s.cal c set
  let st := match v.st with
    | .off => 0 | .collect1 => 1 | .collect2 => 2 | .pending => 3 | .ramping => 4 | .suspended => 5
  st + 16 * s.calFb c set + 64 * b2n ((s.calArrays c set).any (fun (l, _) => (s.arr (s.larr c l)).prov)) + 128 * b2n (s.gradual c set) + 256 * (v.gen % 256) + 65536 * v.step +
    2 ^ 31 * b2n (!(s.calArrays c set).isEmpty)

/-- A read of COR_CAL_GAIN_DATA (R283). -/
def State.gainRead (s : State) (c : Nat) : Nat × State :=
  let col := s.rf .corCalGainAddr c 8 0
  let v := s.cal c (s.rf .corCalGainAddr c 15 12)
  let act := v.active.get 0x8000 col
  let tgt := if v.st = .pending || v.st = .ramping then v.target.get 0x8000 col else act
  (act + 65536 * tgt,
   if s.rb .corCalGainAddr c 16 then s.wf_ .corCalGainAddr c 8 0 ((col + 1) % 512) else s)

/-! ### Start-up, opening and drift -/

/-- S_c of the reference pattern over an array's reference rows (R37, R261), for the physical pair of a
logical pair. -/
def State.refSum (s : State) (a pair : Nat) : Int :=
  ((s.freeRows a).map (fun i => (((i + s.physPair a pair) % 15 : Nat) : Int) - 7)).sum

/-- The measured gain of a logical pair from the sum over `n` couples of reference conversions (R261): none for |S_c| below 12. -/
def State.coupleGain (s : State) (a fb n : Nat) (sums : List Int) (p : Nat) : Option Rat :=
  let sc := s.refSum a p
  if sc.natAbs < 12 then none
  else some (((sums.getD p 0 : Int) : Rat) / n / ((508 * sc : Int) / lsbU fb))

/-- ρ of a reference-read session: the median of the measured gains over θ at the session's temperature (R261); a session in which no
pair qualifies leaves ρ as it is (assumption 67). -/
def State.sessionRho (s : State) (a : Nat) (gains : List (Option Rat)) (th : Rat) : Rat :=
  match gains.filterMap id with
  | [] => (s.arr a).rho
  | gs => median gs / th

/-- Two values lie within a limit of each other. -/
def near (lim x y : Rat) : Bool := decide (x - y ≤ lim) && decide (y - x ≤ lim)

/-- The windows of a calibration agree under R269: their offsets, by pair. -/
def offsAgree (o1 o2 : List Rat) : Bool := (o1.zip o2).all (fun (x, y) => near (1 / 4) x y)

/-- The windows of a calibration agree under R269: the gains of the pairs measured in both. -/
def gainsAgree (g1 g2 : List (Option Rat)) : Bool :=
  (g1.zip g2).all (fun (x, y) => match x, y with
    | some x, some y => near (2 / 1000) (x / y) 1
    | _, _ => true)

/-- The offsets of a window of 256 null conversions: mean null codes by pair (R262). -/
def nullOffs (sums : List Int) : List Rat := sums.map (fun (n : Int) => ((n : Rat) / 256 : Rat))

/-- The null windows of a calibration agree (R262, R269). -/
def nullAgree (m : CalCodes) : Bool := offsAgree (nullOffs m.null1) (nullOffs m.null2)

/-- The trim value of a pair that step 1 of R262 asks for, from 0. -/
def State.nullTrim (s : State) (a fb : Nat) (m : CalCodes) (p : Nat) : Int :=
  -(Fp.rne (((nullOffs m.null1).getD p 0 + (nullOffs m.null2).getD p 0) / 2 / s.trimUnit a fb))

/-- Step 1 of R262: the masks of the null windows are swapped in. -/
def State.nullSwap (s : State) (a fb : Nat) (m : CalCodes) : State :=
  (s.each (List.range 514) (fun t p => t.setTrim a p (clampI (-15) 15 (s.nullTrim a fb m p)))).swapTrims a

/-- The gains of a window of `n` couples, by pair. -/
def State.coupleGains (s : State) (a fb n : Nat) (sums : List Int) : List (Option Rat) :=
  (List.range 514).map (s.coupleGain a fb n sums)

/-- The pair factors and ρ of an array come into force; a calibration of R262 is provisional. -/
def State.setFactors (s : State) (a : Nat) (rho : Rat) (k : List Rat) (prov : Bool) : State :=
  s.modArr a (fun x => { x with
    rho := rho, k := k.zipIdx.foldl (fun (t : NMap Rat) (q, p) => t.set 1 p q) [], calPass := true, prov := prov,
    wFac := rho * s.thetaOf a })

/-- The windows of a start-up calibration agree (R262, R269). -/
def State.startAgrees (s : State) (a fb : Nat) (m : CalCodes) : Bool :=
  nullAgree m && gainsAgree (s.coupleGains a fb 512 m.ref1) (s.coupleGains a fb 512 m.ref2)

/-- ρ and k of a start-up calibration (R262): the mean gains of its windows of 512 couples. -/
def State.startFactors (s : State) (a fb : Nat) (m : CalCodes) : Rat × List Rat :=
  let gains : List (Option Rat) := ((s.coupleGains a fb 512 m.ref1).zip (s.coupleGains a fb 512 m.ref2)).map (fun (x, y) => match x, y with
    | some x, some y => some ((x + y) / 2)
    | _, _ => none)
  let th := s.thetaOf a
  let rho := s.sessionRho a gains th
  (rho, gains.map (fun g => match g with
    | some g => g / (rho * th)
    | none => 1))

/-! ### Opening calibration (R263) -/

/-- B of pair `p`: the sums of its values over the 16 blocks of 64 logical rows. -/
def blockSums (plane : List (List Byte)) (p : Nat) : List Int :=
  (List.range 16).map (fun b => ((List.range 64).map (fun r =>
    sext 4 (nibble (plane.getD (if p < 512 then (64 * b + r) / 16 else 64) []) (64 * b + r) p))).sum)

/-- The probe codes a of a CALPROBE section, by probe and block (R264). -/
def probeCodes (d : List Byte) : List (List Int) :=
  (List.range 512).map (fun p => (List.range 16).map (fun b => sext 8 ((d.getD (16 * p + b) 0).toNat)))

/-- The expected value of a probe on a pair in converter steps (R263). -/
def probeX (fb : Nat) (a b : List Int) : Rat := (2 * ((a.zip b).map (fun (x, y) => x * y)).sum : Int) / lsbU fb

/-- The means and sums of squares and products that a least-squares fit needs: mean of x, mean of code, variance of x, covariance. -/
def moments (xs codes : List Rat) : Rat × Rat × Rat × Rat :=
  let n : Rat := (max 1 xs.length : Nat)
  let mx := xs.sum / n
  let my := codes.sum / n
  (mx, my, (xs.map (fun x => x * x)).sum / n - mx * mx, ((xs.zip codes).map (fun (x, y) => x * y)).sum / n - mx * my)

/-- One window of an opening calibration: offset and gain of every pair by least squares; a pair whose x has a standard deviation below
4 LSB takes the array's median gain (R263). -/
def fitWindow (xs codes : List (List Rat)) : List Rat × List Rat :=
  let ms := (xs.zip codes).map (fun (x, y) => moments x y)
  let gs : List (Option Rat) := ms.map (fun (_, _, vx, cov) => if vx < 16 then none else some (cov / vx))
  let med := median (gs.filterMap id)
  let gains := gs.map (fun g => g.getD med)
  (((ms.zip gains).map (fun ((mx, my, _, _), g) => my - g * mx)), gains)

/-- What an opening calibration finds after step 1 (R263): whether its windows agree, the offset and the gain of every pair. -/
structure OpenFit where
  agree : Bool
  offs : List Rat
  gains : List Rat
  deriving DecidableEq, Repr

/-- The fits of the two windows of probes. -/
def openFit (fb : Nat) (plane : List (List Byte)) (probe : List Byte) (m : CalCodes) : OpenFit :=
  let as := probeCodes probe
  let xs := (List.range 514).map (fun p => let b := blockSums plane p; as.map (fun a => probeX fb a b))
  let codes := (List.range 514).map (fun p => m.probes.map (fun c => ((c.getD p 0 : Int) : Rat)))
  let (o1, g1) := fitWindow (xs.map (·.take 256)) (codes.map (·.take 256))
  let (o2, g2) := fitWindow (xs.map (·.drop 256)) (codes.map (·.drop 256))
  let half (x y : List Rat) : List Rat := (x.zip y).map (fun (a, b) => (a + b) / 2)
  ⟨offsAgree o1 o2 && gainsAgree (g1.map some) (g2.map some), half o1 o2, half g1 g2⟩

/-- The outcome of an opening calibration whose null windows agree: 0 for a pass, else its cause (R263). -/
def State.fitCause (s : State) (a fb : Nat) (m : CalCodes) (x : OpenFit) : Nat :=
  if !x.agree then 3
  else if x.offs.any (fun o => !near (1 / 4) o 0) || (List.range 514).any (fun p => 15 < (s.nullTrim a fb m p).natAbs) then 4
  else if x.gains.any (fun g => !near (1 / 10) g 1) then 5
  else 0

/-- ρ and k of an opening calibration (R263): ρ from its session of 64 couples. -/
def State.openFactors (s : State) (a fb : Nat) (m : CalCodes) (x : OpenFit) : Rat × List Rat :=
  let th := s.thetaOf a
  let rho := s.sessionRho a (s.coupleGains a fb 64 m.ref1) th
  (rho, x.gains.map (fun g => g / (rho * th)))

/-- Report CAL_OPEN_FAIL (R262, R263, R284). -/
def State.openFail (s : State) (a cause : Nat) : State :=
  (s.flag .corCalEvent (a / 17) 0x20).raise (evCore 0x2506 2 (a / 17) (a % 17 + 256 * cause))

/-- A drift-tracking session is due on an array (R265): the first one DRIFT_S seconds after start-up or after the last ended. -/
def State.sessionDue (s : State) (a : Nat) : Bool :=
  let n := s.rf .corCalCfg (a / 17) 15 8
  s.rb .corCalCfg (a / 17) 0 && n ≠ 0 && (s.arr a).st = .serving && (s.arr a).driftAt + n * 1000000000 ≤ s.time &&
    ((s.arr a).session.map (·.1)).getD 0 < 128

/-- An array's steal opportunity of R57 has come. -/
def State.stealOpen (s : State) (a : Nat) : Bool := decide (2 ^ s.rf .arrScanCfg a 19 16 ≤ (s.arr a).wavesSinceScan)

/-- One reference conversion of a session takes a steal opportunity and a slot of its array (R57, R260). -/
def State.sessionStep (s : State) (a : Nat) : State :=
  let (n, t) := (s.arr a).session.getD (0, 0)
  (s.modArr a (fun x => { x with session := some (n + 1, t + s.coreTemp (a / 17)), wavesSinceScan := 0 })).count (a / 17) 6 1

/-- A drift-tracking session of 64 couples ends: ρ at the session's mean temperature (R261, R265). -/
def State.driftSession (s : State) (a : Nat) (refs : List Int) : State :=
  match (s.arr a).session with
  | some (n, t) =>
    if n < 128 then s else
    let fb := (((s.core (a / 17)).logicalOf (a % 17)).map (s.calFb (a / 17))).getD 0
    let rho := s.sessionRho a (s.coupleGains a fb 64 refs) (theta ((t : Rat) / 128))
    s.modArr a (fun x => { x with rho := rho, session := none, driftAt := s.time })
  | none => s

/-- The gain tables of the sets an array belongs to follow a calibration of the array (R259, R276). -/
def State.calReload (s : State) (c l : Nat) : State :=
  let set := minArr (s.setOf c l)
  let (t, bad) := s.gainTable c set []
  (s.setGains c set ((s.cal c set).load t)).gainRange c set bad

/-- The residual column offset in force for a physical pair (R71). -/
def State.offset (s : State) (a pc : Nat) : Int :=
  Config.residualOffset a pc (s.arr a).epoch (s.coreTemp (a / 17)) (s.time / hourNs)

end Sys2Proof.Machine
end

