-- ==== Sys2Proof/Machine/ImageOps.lean ====
section
/-! DEFINITION. Weight images: parsing, verification, chain reception (R223 to R233). -/
namespace Sys2Proof.Machine
open Sys2Proof

/-! ### Parsing and verifying -/

/-- Why an image is refused: RESULT, directory index or layer, and the manifest failure met (R228, R254). -/
structure ImgErr where
  result : Nat
  idx : Nat := 0
  bad : Option (Nat × Nat) := none
  deriving DecidableEq, Repr

/-- A block of an image under verification: its data, or the error. -/
def State.imgBlock (s : State) (a idx : Nat) : Except ImgErr (List Byte) :=
  match s.devBlock a with
  | some (d, m) => if checkBlock d m {} = 0 then .ok d else .error ⟨2, idx, some (a, checkBlock d m {})⟩
  | none => if s.inBlocks a blk then .error ⟨2, idx, some (a, 0)⟩ else .error ⟨7, idx, none⟩

/-- The header fields obey R223. -/
def hdrOk (h : List Byte) : Bool :=
  let fl := leAt h 28 1
  let twin := bit fl 0
  let reload := bit fl 1
  h.take 8 = [0x44, 0x45, 0x4E, 0x46, 0x41, 0x57, 0x49, 0x4B] && leAt h 8 2 = 1 && leAt h 10 2 = 0x0980 &&
  leAt h 12 4 ≠ 0 && leAt h 16 2 ≠ 0xFFFF && 1 ≤ leAt h 31 1 && leAt h 31 1 ≤ 63 && 1 ≤ leAt h 18 2 && leAt h 18 2 ≤ 64 * leAt h 31 1 &&
  fl < 4 && !(twin && reload) && (!twin || (1 ≤ leAt h 29 1 && leAt h 29 1 ≤ 127)) &&
  (if reload then 2 ≤ leAt h 30 1 && leAt h 30 1 ≤ 16 else leAt h 30 1 = 1) && leAt h 32 8 % 4096 = 0 &&
  (h.drop 72).all (· = 0)

/-- Directory entry `i` of the directory's bytes (R224). -/
def sectOf (dir : List Byte) (i : Nat) : Section :=
  let d := dir.drop (64 * i)
  ⟨leAt d 0 2, leAt d 2 2, leAt d 4 4, leAt d 8 8, leAt d 16 8, (d.drop 24).take 32⟩

/-- Reserved fields and the type of a directory entry (R224, R225). -/
def sectOk (dir : List Byte) (i : Nat) : Bool :=
  let x := sectOf dir i
  x.sflags < 16 && leAt dir (64 * i + 56) 8 = 0 && ((1 ≤ x.typ && x.typ ≤ 12) || 0x8000 ≤ x.typ)

/-- OFFSET and LENGTH of a section against TOTAL (R224, R227). -/
def sectFits (total dirblk : Nat) (x : Section) : Bool :=
  x.off % 4096 = 0 && x.len % 4096 = 0 && 4096 * (1 + dirblk) ≤ x.off && x.off + x.len ≤ total &&
  (if x.typ = 12 then x.len = 0 else x.len ≠ 0)

/-- The placement record in a PLACE section's bytes (R226). -/
def placeOf (d : List Byte) : Placement :=
  { layer := leAt d 0 2, first := leAt d 2 1, last := leAt d 3 1, w7 := leAt d 4 1 = 1, set := leAt d 5 1,
    kL := leAt d 8 2, nL := leAt d 10 2, tin := leAt d 16 8, tout := leAt d 24 8, trsc := leAt d 32 8,
    grid := (List.range (leAt d 6 2)).map (fun t =>
      let o := 64 + 8 * t
      ⟨leAt d o 1, leAt d (o + 1) 1, leAt d (o + 2) 1, leAt d (o + 3) 1, leAt d (o + 4) 1, leAt d (o + 5) 1⟩) }

/-- The reserved fields of a PLACE section's record, and its MODE (R226). -/
def placeResOk (d : List Byte) : Bool :=
  leAt d 4 1 ≤ 1 && leAt d 12 4 = 0 && ((d.drop 40).take 24).all (· = 0) && 64 + 8 * leAt d 6 2 ≤ d.length &&
  (List.range (leAt d 6 2)).all (fun t => leAt d (64 + 8 * t + 6) 2 = 0)

/-- Read and check header and directory of an image (R227). -/
def State.imgHead (s : State) (base : Nat) : Except ImgErr (List Byte × List Byte) := do
  if !s.inBlocks base blk then .error ⟨7, 0, none⟩
  else if !hdrOk (s.bytesAt base blk) then .error ⟨1, 0, none⟩
  else
    let h ← s.imgBlock base 0
    if !s.inBlocks base (leAt h 32 8) then .error ⟨7, 0, none⟩
    else
      let dbs ← (List.range (leAt h 31 1)).mapM (fun i => s.imgBlock (base + blk * (1 + i)) 0)
      let dir := dbs.flatten
      if Sha.sha256 dir ≠ (h.drop 40).take 32 then .error ⟨2, 0, none⟩
      else .ok (h, dir)

/-- The bytes of a section whose blocks and digest pass (R227). -/
def State.sectVerify (s : State) (base idx : Nat) (x : Section) : Except ImgErr (List Byte) := do
  let ds ← (List.range (x.len / blk)).mapM (fun i => s.imgBlock (base + x.off + blk * i) idx)
  if Sha.sha256 ds.flatten ≠ x.digest then .error ⟨2, idx, none⟩ else .ok ds.flatten

/-- The first faulty directory entry (R225, R227). -/
def dirFault (h dir : List Byte) : Option ImgErr :=
  let n := leAt h 18 2
  match (List.range n).find? (fun i => !sectOk dir i || !sectFits (leAt h 32 8) (leAt h 31 1) (sectOf dir i)) with
  | some i => some ⟨1, i, none⟩
  | none => none

/-- What the device keeps of an image whose header, directory and sections are sound. -/
def imageOf (base : Nat) (h dir : List Byte) (places : List (List Byte)) : Image :=
  { base := base, version := leAt h 12 4, model := leAt h 16 2, compat := leAt h 20 4, prev := leAt h 24 4,
    twin := bit (leAt h 28 1) 0, reload := bit (leAt h 28 1) 1, twinDelta := leAt h 29 1, nsets := leAt h 30 1,
    total := leAt h 32 8, sects := (List.range (leAt h 18 2)).map (sectOf dir), layers := places.map placeOf,
    digest := Sha.sha256 h }

/-- Verify a whole image in the order of R227. -/
def State.imgVerify (s : State) (base : Nat) : Except ImgErr Image := do
  let (h, dir) ← s.imgHead base
  match dirFault h dir with
  | some e => .error e
  | none =>
    let ss := ((List.range (leAt h 18 2)).map (fun i => (i, sectOf dir i)))
    let ds ← ss.mapM (fun (i, x) => s.sectVerify base i x)
    let ps := (ss.zip ds).filter (fun ((_, x), _) => x.typ = 1)
    match ps.find? (fun (_, d) => !placeResOk d) with
    | some ((i, _), _) => .error ⟨1, i, none⟩
    | none => .ok (imageOf base h dir (ps.map (·.2)))

/-- RESULT and DONE of an image command (R253). -/
def State.imgResult (s : State) (r : Nat) : State := s.wr .imgCmdStatus 0 0 (r + 2 ^ 31)

/-- The model that IMG_SEL names. -/
def State.imgSel (s : State) : Nat := s.rf .imgSel 0 15 0

/-- The staging address. -/
def State.stage (s : State) : Nat := s.rdPair .imgStageLo .imgStageHi

/-- Refuse an image command (R228, R254). -/
def State.imgRefuse (s : State) (m : Nat) (e : ImgErr) : State :=
  let s1 := match e.bad with
    | some (a, c) => s.reportBad a c
    | none => s
  let s2 := s1.imgResult e.result
  if e.result = 2 || e.result = 3 then s2.imgRaise 2 (evModel 0x6003 2 m (e.result + 65536 * e.idx)) else s2

/-- IMG_STAGED (R254). -/
def State.imgStaged (s : State) (m version : Nat) : State :=
  (s.modModel m (fun x => { x with sst := .staged })).imgRaise 0 (evModel 0x6001 0 m (version + 2 ^ 32 * m))

/-- The index that stands for header and directory among the verified sections. -/
def hdrIdx : Nat := 0xFFF

/-- The sections of the staged image that fail, as VERIFY leaves them for repair by segments (R232): the whole image has arrived. -/
def State.badSects (s : State) (base : Nat) : List Nat × List Nat :=
  match s.imgHead base with
  | .error _ => ([hdrIdx], [])
  | .ok (h, dir) =>
    if (dirFault h dir).isSome then ([hdrIdx], [])
    else
      let good (i : Nat) : Bool := match s.sectVerify base i (sectOf dir i) with
        | .ok _ => true
        | .error _ => false
      let is := List.range (leAt h 18 2)
      (is.filter (fun i => !good i), hdrIdx :: is.filter good)

/-- A VERIFY that fails leaves the staging state BAD, its failed sections to be sent again (R228, R232). -/
def State.markBad (s : State) (m : Nat) : State :=
  let (bad, good) := s.badSects s.stage
  s.modModel m (fun x => { x with sst := .bad, rxBad := bad, rxGood := good, rxFirst := none, rxSegs := [(0, 2 ^ 25)] })

/-- VERIFY (R228). -/
def State.imgVerifyCmd (s : State) : State :=
  let m := s.imgSel
  if (s.model m).sst = .receiving then s.imgResult 5
  else match s.imgVerify s.stage with
    | .ok img => (s.imgResult 0).imgStaged m img.version
    | .error e => (s.markBad m).imgRefuse m e

/-! ### Chain distribution -/

/-- RECEIVE (R231). -/
def State.imgReceive (s : State) : State :=
  (s.modModel s.imgSel (fun x => { x with sst := .receiving, rxFirst := none, rxSegs := [], rxBlocks := 0, rxBroken := none,
                                          rxBad := [], rxGood := [] })).imgResult 0

/-- Block `b` of the image under reception has arrived. -/
def Model.rxHas (m : Model) (b : Nat) : Bool := m.rxSegs.any (fun (o, n) => o ≤ b && b < o + n)

/-- A range of blocks has arrived. -/
def Model.rxAll (m : Model) (b n : Nat) : Bool := (List.range n).all (fun i => m.rxHas (b + i))

/-- Judge one part of the image under reception: true when it passes (R232); `bad` is the block whose read failed, which is reported
(R291, R294). -/
def State.rxJudge (s : State) (m idx version : Nat) (ok : Bool) (bad : Option (Nat × Nat)) : State :=
  let s := match bad with
    | some (a, c) => s.reportBad a c
    | none => s
  if ok then s.modModel m (fun x => { x with rxGood := idx :: x.rxGood.filter (· ≠ idx), rxBad := x.rxBad.filter (· ≠ idx) })
  else
    (s.modModel m (fun x => { x with rxBad := idx :: x.rxBad.filter (· ≠ idx), sst := .bad })).imgRaise 1
      (evModel 0x6002 2 m (idx + 2 ^ 32 * version))

/-- A part is to be judged: not yet, or failed and touched again by the segment at block `o` of `n` blocks. -/
def Model.rxDue (m : Model) (idx b len o n : Nat) : Bool :=
  m.rxAll b len && !m.rxGood.contains idx && (!m.rxBad.contains idx || (o < b + len && b < o + n))

/-- Verify what the segment at block `o` of `n` blocks has completed (R232). With every failed section repaired and others still to
come, the state is RECEIVING again (DEDUCED, assumption 66). -/
def State.rxVerify (s : State) (m version o n : Nat) : State :=
  let base := s.stage
  let h0 := s.bytesAt base blk
  let x := s.model m
  if !x.rxHas 0 || !x.rxAll 0 (1 + leAt h0 31 1) then s else
  let s1 := if x.rxDue hdrIdx 0 (1 + leAt h0 31 1) o n then
      match s.imgHead base with
        | .ok (h, dir) => s.rxJudge m hdrIdx version (dirFault h dir).isNone none
        | .error e => s.rxJudge m hdrIdx version false e.bad
    else s
  if !(s1.model m).rxGood.contains hdrIdx then s1 else
  match s1.imgHead base with
  | .error _ => s1
  | .ok (h, dir) =>
    let s2 := s1.each (List.range (leAt h 18 2)) (fun t i =>
      let y := sectOf dir i
      if (t.model m).rxDue i (y.off / blk) (y.len / blk) o n then
        match t.sectVerify base i y with
          | .ok _ => t.rxJudge m i version true none
          | .error e => t.rxJudge m i version false e.bad
      else t)
    let z := s2.model m
    if !z.rxBad.isEmpty then s2
    else if (List.range (leAt h 18 2)).all z.rxGood.contains then s2.imgStaged m version
    else s2.modModel m (fun x => { x with sst := .receiving })

/-- A segment is written while the state is BAD: it touches a part that failed, or blocks that had not arrived (R232). -/
def State.rxWants (s : State) (m o n : Nat) : Bool :=
  let x := s.model m
  let base := s.stage
  let h := s.bytesAt base blk
  let dir := s.bytesAt (base + blk) (blk * leAt h 31 1)
  !x.rxAll o n || x.rxBad.any (fun i =>
    if i = hdrIdx then o < 1 + leAt h 31 1
    else let y := sectOf dir i; o < (y.off + y.len) / blk && y.off / blk < o + n)

/-- Send a segment to the next device of the chain; one that has been found unreachable gets nothing further (R231, R233). -/
def State.chainSend (s : State) (m off : Nat) (pay : List Byte) : State :=
  let peer := s.rf .imgChainCfg 0 15 8
  if (s.model m).rxBroken = some peer then s
  else
    let (ok, t) := s.srnSend peer 1 0x20 pay
    if ok then t.modModel m (fun x => { x with rxBroken := none }) else t.chainBroken m peer off

/-- The device is armed for a model: receiving, or with sections to repair (R231, R232). -/
def Model.armed (y : Model) : Bool := decide (y.sst = .receiving) || decide (y.sst = .bad)

/-- An IMG_SEGMENT message from a peer (R231 to R233). A segment whose offset or length R231 does not allow matches nothing
(assumption 66). -/
def State.imgSegment (s : State) (peer : Nat) : State :=
  match s.nextMsg peer 0x20 with
  | none => s
  | some (ch, msg) =>
    let p := msg.payload
    let s := s.tookMsg peer ch
    let m := leAt p 0 2
    let ver := leAt p 4 4
    let off := leAt p 16 8
    let n := leAt p 24 2
    let x := s.model m
    let err (c : Nat) : State := s.imgRaise 3 (evModel 0x6004 1 m (c + 65536 * off))
    if !x.armed then err (if s.models.any (fun e => e.2.armed) then 1 else 2)
    else if x.rxFirst.any (· ≠ ver) || off % 65536 ≠ 0 || n = 0 || 16 < n then err 1
    else
      let s1 := if s.rb .imgChainCfg 0 0 then s.chainSend m off p else s
      let o := off / blk
      if x.sst = .bad && !s.rxWants m o n then s1
      else
        let s2 := s1.each (List.range n) (fun t i =>
          let d := (p.drop (32 + 4112 * i)).take blk
          let man := Manifest.ofBytes ((p.drop (32 + 4112 * i + blk)).take 16)
          if t.inBlocks (t.stage + off + blk * i) blk then t.putBlock (t.stage + off + blk * i) d man else t)
        let s3 := s2.modModel m (fun y => { y with
          rxFirst := some ver, rxBlocks := y.rxBlocks + n,
          rxSegs := if y.rxSegs.contains (o, n) then y.rxSegs else (o, n) :: y.rxSegs })
        s3.rxVerify m ver o n

/-- SEND (R232, R233): the segments of the image at the staging address from block OFFSET, those that have wholly arrived. With nothing
staged it is refused as an image that is not STAGED (assumption 66). -/
def State.imgSend (s : State) : State :=
  let m := s.imgSel
  let o := s.rf .imgArg 0 23 0
  let base := s.stage
  let h := s.bytesAt base blk
  let total := leAt h 32 8
  let x := s.model m
  let here (b n : Nat) : Bool := decide (x.sst ≠ .receiving) || x.rxAll b n
  if x.sst = .idle || !s.inBlocks base blk || !here 0 1 || !hdrOk h then s.imgRefuse m ⟨2, 0, none⟩
  else if !s.inBlocks base total then s.imgResult 7
  else if o % 16 ≠ 0 then s.imgResult 1
  else
    ((s.modModel m (fun x => { x with rxBroken := none })).each (List.range (cdiv (total / blk - o) 16)) (fun t k =>
      let b := o + 16 * k
      let n := min 16 (total / blk - b)
      let hdr := leBytes 2 m ++ [0, 0] ++ leBytes 4 (leAt h 12 4) ++ leBytes 8 total ++ leBytes 8 (blk * b) ++ leBytes 2 n ++ List.replicate 6 0
      let body := (List.range n).flatMap (fun i => t.bytesAt (base + blk * (b + i)) blk ++ (t.devMan (base + blk * (b + i))).bytes)
      if here b n then t.chainSend m (blk * b) (hdr ++ body) else t)).imgResult 0

end Sys2Proof.Machine
end

