-- ==== Sys2Proof/Machine/SpareOps.lean ====
section
/-! DEFINITION. The spare slot of a core: programming it from a reference copy, substitution (R144 to R147),
rotation (R305), quarantine (R311) and automatic substitution (R312). -/
namespace Sys2Proof.Machine
open Sys2Proof

/-- Store a page now, or mark it for the store under way (R411). -/
def State.storeNow (s : State) (page : Nat) : State :=
  if s.recs.storing.contains page then s.touch page else s.storePage page

/-- The record page of the cores (R411). -/
def corePage : Nat := 38

/-- The pound a core belongs to, with its model. -/
def State.poundOf (s : State) (c : Nat) : Option (Nat × PoundLock) :=
  s.models.findSome? (fun (n, m) => (m.pounds.find? (fun p => p.first ≤ c && c ≤ p.last)).map (fun p => (n, p)))

/-! ### Programming a tile -/

/-- Address of the PLANE section of a grid entry (R225). -/
def Image.planeAt (img : Image) (layer t : Nat) : Option Nat := (img.sect 2 (65536 * layer + t)).map (fun (x : Section) => img.base + x.off)

/-- The data rows of a tile's plane in the reference copy: 64 blocks, or the cause of the first failure and its
block (R96, R229). -/
def State.refPlane (s : State) (img : Image) (layer t : Nat) : Except (Nat × Nat) (List (List Byte)) :=
  match img.planeAt layer t with
  | none => .error (0, 0)
  | some a => (List.range 64).mapM (fun b => match s.devBlock (a + blk * b) with
      | none => .error (0, a + blk * b)
      | some (d, m) => if checkBlock d m {} = 0 then .ok d else .error (checkBlock d m {}, a + blk * b))

/-- Load a slot's job registers and start a job on it: check scales, plane, version, scope (R226, R234). A
rotation job under way on the slot gives way. -/
def State.startTile (s : State) (img : Image) (layer t : Nat) (e : GridEntry) (scope a : Nat) (resume rotation : Bool) : State :=
  let src := (img.planeAt layer t).getD 0
  let s0 := if ((s.arr a).job.map (fun (j : PgmJob) => j.rotation)).getD false then s.endJob a .partial_ else s
  let s1 := (((((s0.wr .arrCheckScale a 0 (e.aExp + 256 * e.bExp)).wr .arrPgmSrcLo a 0 (src % 2 ^ 32)).wr .arrPgmSrcHi a 0
    (src / 2 ^ 32)).wr .arrPgmVersion a 0 img.version).wf_ .arrPgmCtrl a 1 0 scope).wf_ .arrPgmCtrl a 31 31 (b2n resume)
  let j := s1.startJob a scope (s1.rf .arrPgmCtrl a 15 5) (s1.rf .arrPgmCtrl a 26 16) img.version src (s1.resumeAt a) rotation
  if rotation then j else j.suspendReplay a

/-- A job cannot start on an array that serves or runs a job of its own (R47). -/
def State.cannotStart (s : State) (a : Nat) : Bool :=
  (s.arr a).st = .serving || ((s.arr a).st = .programming && !((s.arr a).job.map (fun (j : PgmJob) => j.rotation)).getD false)

/-! ### Service -/

/-- Take a logical array out of service (R47, R271). -/
def State.unserve (s : State) (c l : Nat) : State :=
  let a := s.larr c l
  if (s.arr a).st = .serving then
    ((s.calSuspend c l).modArr a (fun x => { x with st := .ready })).storeArr a false
  else s

/-- Place a logical array in service (R47). -/
def State.serve (s : State) (c l : Nat) : State :=
  let a := s.larr c l
  if (s.arr a).st = .ready then (s.modArr a (fun x => { x with st := .serving })).storeArr a false else s

/-- SPARE_UNAVAILABLE (R147). -/
def State.noSpareFor (s : State) (c l slot : Nat) : State :=
  (s.flag .corEvent c 4).raise (evCore 0x2303 2 c (l + 256 * slot))

/-- Spare substitution takes effect: logical array `l` moves to the spare (R144, R146, R312). Another quarantined array of the core that the
lockkeeper would have substituted has no spare from then on (R312). -/
def State.substitute (s : State) (c l : Nat) : State :=
  let x := s.core c
  let p := x.slotOf l
  let n := x.spare
  let was := (s.arr (arrId c p)).st = .serving
  let s1 := if was then (s.modArr (arrId c p) (fun y => { y with st := .ready, session := none })).storeArr (arrId c p) false else s
  let s2 := (s1.modArr (arrId c n) (fun y => { y with st := .serving })).storeArr (arrId c n) x.rotating
  let s3 := s2.modCore c (fun y => { y with
    slotMap := y.slotMap.set l l n, noSpare := true, retired := some p, lastLogical := l, spPending := none,
    substRaise := some (l, p, n), quar := y.quar - (if bit y.quar l then 2 ^ l else 0), suspended := false,
    replayOn := false, rotating := false, autoFor := none })
  let s4 := (((s3.storeNow corePage).calReload c l).calSubstitute c (minArr (s3.setOf c l))).degrade c
  let others := if s.rb .chkCfg 0 8 then (List.range 16).filter (fun m => m ≠ l && bit x.quar m) else []
  s4.each others (fun t m => t.noSpareFor c m (x.slotOf m))

/-! ### Commands -/

/-- Refuse a COMMIT or RELEASE (R145, R147). -/
def State.spareRefuse (s : State) (c cause l : Nat) : State :=
  ((s.modCore c (fun x => { x with spCause := cause })).flag .corEvent c 2).raise (evCore 0x2302 1 c (cause + 256 * l))

/-- Refuse a RELEASE (R147): it names no logical array, so that field of the event has no stated value (assumption 7). -/
def State.releaseRefuse (s : State) (c : Nat) : State :=
  let (l, s1) := s.fresh
  s1.spareRefuse c 7 (l % 16)

/-- The gains of two slots of a core differ by more than 0.2 % in some pair, or their offsets by more than 0.25 converter steps at
the calibrated freeboard of the logical array (R145, assumption 18). -/
def State.slotsDiffer (s : State) (c l a b : Nat) : Bool :=
  (List.range 514).any (fun p =>
    let q : Rat := (s.arr a).rho * (s.arr a).k.get 1 p / ((s.arr b).rho * (s.arr b).k.get 1 p) - 1
    let d : Rat := ((s.offset a (s.physPair a p) - s.offset b (s.physPair b p) : Int) : Rat) / 1024 / lsbU (s.calFb c l)
    decide ((2 : Rat) / 1000 < q) || decide (q < -(2 : Rat) / 1000) || decide ((1 : Rat) / 4 < d) || decide (d < -(1 : Rat) / 4))

/-- The first condition of R145 that the substitution of `l` breaks, 0 for none. -/
def State.commitBad (s : State) (c l : Nat) (force : Bool) : Nat :=
  let x := s.core c
  let p := arrId c (x.slotOf l)
  let n := arrId c x.spare
  let ver := s.rd .corSpareVersion c
  if x.noSpare then 1
  else if (s.arr n).st ≠ .ready || s.rd .arrVersion n ≠ ver then 2
  else if ((s.arr p).st = .ready || (s.arr p).st = .serving) && s.rd .arrVersion p ≠ ver then 3
  else if !(s.arr n).calPass then 4
  else if (s.poundOf c).any (fun (_, q) => decide (q.st ≠ .open_) && !(s.holders c l).isEmpty) then 5
  else if !force && bit (s.rd .corCalClass c) l && s.slotsDiffer c l n p then 6
  else 0

/-- The cause that refuses a COMMIT, 0 for none (R145). -/
def State.commitCause (s : State) (c : Nat) : Nat := s.commitBad c (s.rf .corSpareCtrl c 3 0) (s.rb .corSpareCtrl c 8)

/-- COMMIT (R145). -/
def State.spareCommit (s : State) (c : Nat) : State :=
  let l := s.rf .corSpareCtrl c 3 0
  let cause := s.commitCause c
  if cause ≠ 0 then s.spareRefuse c cause l
  else s.modCore c (fun x => { x with spPending := some (l, s.rb .corSpareCtrl c 8) })

/-- A split sequence or a repeat holds the boundary of an array back (R82, R309). -/
def Core.splitHolds (x : Core) (l : Nat) : Bool :=
  x.splits.any (fun q => q.base.larr = l) || x.waiting.any (fun w => w.larr = l && w.rep ≠ 0) ||
    x.flying.any (fun w => w.req.larr = l && w.req.rep ≠ 0)

/-- The same of a core of the state. -/
def State.splitHolds (s : State) (c l : Nat) : Bool := (s.core c).splitHolds l

/-- The boundary of a pending COMMIT (R145, R146): the first wave-group boundary with no split sequence on the old slot and
every condition of R145 met (R144). -/
def State.spareEffect (s : State) (c : Nat) : State :=
  match (s.core c).spPending with
  | some (l, force) => if s.splitHolds c l || (s.core c).inGroup ≠ 0 || s.commitBad c l force ≠ 0 then s else s.substitute c l
  | none => s

/-! ### Rotation -/

/-- The logical arrays a rotation visits: SERVING with a layer (R305). -/
def State.rotTargets (s : State) (c : Nat) : List Nat :=
  (List.range 16).filter (fun l => (s.arr (s.larr c l)).st = .serving && !(s.holders c l).isEmpty)

/-- Program the spare with a rotation target from the reference copy (R305). -/
def State.rotate (s : State) (c l : Nat) : State :=
  let x := s.core c
  match s.holder c l (s.larr c l) with
  | some h =>
    if h.ref && !s.cannotStart (arrId c x.spare) then
      (s.startTile h.img h.pl.layer h.idx h.ent 2 (arrId c x.spare) false true).modCore c
        (fun y => { y with rotTarget := l, rotating := true, replayOn := false, openTries := y.openTries.erase y.spare })
    else s
  | none => s

/-- The core's spare is free for rotation (R305, R307). -/
def Core.mayRotate (x : Core) : Bool :=
  !x.noSpare && !x.spareOut && !x.suspended && !x.failedCore && x.autoFor.isNone && x.spPending.isNone

/-- The next rotation target: ascending, with wrap-around (R305). -/
def State.rotateNext (s : State) (c : Nat) : State :=
  let x := s.core c
  if !x.mayRotate then s else
  let ts := s.rotTargets c
  match (ts.find? (fun l => x.rotating && x.rotTarget < l)).orElse (fun _ => ts.head?) with
  | some l => (s.modCore c (fun y => { y with spareSuspect := false, spareFaults := 0 })).rotate c l
  | none => s

/-- Every ROT_S seconds of replay the spare moves to its next target (R305). -/
def State.rotateTick (s : State) (c : Nat) : State :=
  let x := s.core c
  if !s.up || (x.rotating && !(x.replayOn && x.rotSince + s.rf .chkCfg 0 23 16 * 1000000000 ≤ s.time)) then s
  else s.rotateNext c

/-- RELEASE (R147, R308). -/
def State.spareRelease (s : State) (c : Nat) : State :=
  let x := s.core c
  match x.retired with
  | some p =>
    if (s.arr (arrId c p)).st = .ready || (s.arr (arrId c p)).st = .unprogrammed then
      let s1 := s.modCore c (fun y => { y with
        spare := p, noSpare := false, retired := none, suspended := false, spareOut := false, spareSuspect := false,
        spareFaults := 0, rotating := false, replayOn := false })
      ((s1.storeNow corePage).degrade c).rotateNext c
    else s.releaseRefuse c
  | none => s.releaseRefuse c

/-! ### Faults -/

/-- CHK_FAULT_COUNT: transient faults below, permanent ones above, each saturating (R309). -/
def State.faultCount (s : State) (perm : Bool) : State :=
  let v := s.rd .chkFaultCount
  if perm then s.wr .chkFaultCount 0 0 (v % 65536 + 65536 * satTo 0xFFFF (v / 65536 + 1))
  else s.wr .chkFaultCount 0 0 (satTo 0xFFFF (v % 65536 + 1) + 65536 * (v / 65536))

/-- Report a permanent array fault (R309, R454): mechanism, pair and whether it is exact, row. One found by replay, a tally
probe or a field test makes what the array served since it was last known good suspect (R318). -/
def State.permArr (s : State) (c l mech pair : Nat) (exact : Bool) (row : Nat) : State :=
  let a := s.larr c l
  let s1 := (s.faultCount true).raise (evArr 0x3007 2 a
    (mech + 256 * l + 4096 + 8192 * b2n exact + 65536 * pair + 2 ^ 32 * row))
  if mech = 4 || mech = 6 || mech = 7 then s1.raise (evArr 0x300C 2 a (s.arr a).lastGood) else s1

/-- Report a transient fault (R309). -/
def State.transient (s : State) (c l mech : Nat) : State :=
  (s.faultCount false).raise (evArr 0x3006 0 (s.larr c l) (mech + 256 * l))

/-! ### Quarantine -/

/-- The lockkeeper substitutes a quarantined array (R312). -/
def State.autoSpare (s : State) (c l : Nat) : State :=
  let x := s.core c
  let a := s.larr c l
  match s.holder c l a with
  | none => s
  | some h =>
    if !h.ref || h.img.version ≠ s.rd .arrVersion a then s
    else if x.noSpare || x.autoFor.isSome || x.spPending.isSome then s
    else
      let n := arrId c x.spare
      let s1 := (s.wr .corSpareVersion c 0 h.img.version).wr .corSpareCtrl c 0 (l + 256)
      if x.rotating && x.replayOn && x.rotTarget = l && (s.arr n).st = .ready && s.rd .arrVersion n = h.img.version then
        s1.spareCommit c
      else if s.cannotStart n then s
      else (s1.startTile h.img h.pl.layer h.idx h.ent 2 n false false).modCore c
        (fun y => { y with autoFor := some l, rotating := false, replayOn := false, openTries := y.openTries.erase y.spare })

/-- Quarantine a logical array (R311); without a spare the permanent fault raises SPARE_UNAVAILABLE (R147). -/
def State.quarantine (s : State) (c l : Nat) : State :=
  if bit (s.core c).quar l then s else
  let a := s.larr c l
  let s1 := ((s.unserve c l).modCore c (fun x => { x with quar := x.quar ||| 2 ^ l })).raise
    (evArr 0x3008 2 a (l + 256 * (s.core c).slotOf l))
  let s2 := s1.flag .chkCoreEvent c 0x10
  let s3 := if (s.core c).noSpare then s2.noSpareFor c l ((s.core c).slotOf l) else s2
  if s.rb .chkCfg 0 8 then s3.autoSpare c l else s3

/-- The quarantined arrays that waited for a reference copy are looked at again (R312). -/
def State.autoAgain (s : State) : State :=
  if !s.rb .chkCfg 0 8 then s
  else s.each (List.range 128) (fun t c => t.each ((List.range 16).filter (fun l => bit (t.core c).quar l)) (fun u l =>
    if (u.core c).noSpare then u else u.autoSpare c l))

/-- A job of the spare ended for the lockkeeper (R312). -/
def State.spareJobEnded (s : State) (a : Nat) : State :=
  let c := a / 17
  let x := s.core c
  if x.noSpare || x.spare ≠ a % 17 || (s.arr a).st = .programming then s else
  match x.autoFor with
  | some l =>
    if (s.arr a).st = .ready then s
    else (s.modCore c (fun y => { y with autoFor := none })).noSpareFor c l x.spare
  | none => s

end Sys2Proof.Machine
end

