-- ==== Sys2Proof/Machine/RunOps.lean ====
section
/-! DEFINITION. Entries in progress: their fields (R153), where they stand, how they end (R178 to R181), the
tender's state (R135, R136). -/
namespace Sys2Proof.Machine
open Sys2Proof

/-! ### Entry fields -/

/-- Field [hi:lo] of CTRL (R153). -/
def eCtrl (d : List Byte) (hi lo : Nat) : Nat := fld (leAt d 0 4) hi lo
/-- PARAM. -/
def eParam (d : List Byte) : Nat := leAt d 4 2
/-- The base of an activation region field at byte `o` (R154). -/
def eBase (d : List Byte) (o : Nat) : Nat := leAt d o 1
/-- The block count of an activation region field (R154). -/
def eCount (d : List Byte) (o : Nat) : Nat := leAt d (o + 1) 1 + 1
/-- ADDR without SPACE. -/
def eAddr (d : List Byte) : Nat := leAt d 42 6 % 2 ^ 47
/-- SPACE: host memory. -/
def eHost (d : List Byte) : Bool := bit (leAt d 42 6) 47
/-- MOOD: subjunctive. -/
def eSubj (d : List Byte) : Bool := bit (leAt d 0 4) 8
/-- FENCE. -/
def eFence (d : List Byte) : Bool := bit (leAt d 0 4) 9
/-- PLIST. -/
def ePlist (d : List Byte) : Bool := bit (leAt d 0 4) 23
/-- FMT. -/
def eFmt (d : List Byte) : Nat := eCtrl d 19 18
/-- GSIZE in codes, for encodings 0 to 2 (R153). -/
def gsize (g : Nat) : Nat := 32 * 2 ^ g

/-! ### Access -/

/-- A service position's sentence. -/
def State.sent? (s : State) (p pos : Nat) : Option Sentence := (s.pound p).service.get none pos

/-- Change a service position's sentence. -/
def State.modSent (s : State) (p pos : Nat) (f : Sentence → Sentence) : State :=
  s.modPound p (fun x => { x with service := x.service.set none pos ((x.service.get none pos).map f) })

/-- An entry in progress. -/
def State.run? (s : State) (r : EntryRef) : Option EntryRun :=
  (s.sent? r.pound r.pos).bind (fun n => n.runs.find? (fun e => e.idx = r.idx))

/-- Change an entry in progress. -/
def State.modRun (s : State) (r : EntryRef) (f : EntryRun → EntryRun) : State :=
  s.modSent r.pound r.pos (fun n => { n with runs := n.runs.map (fun e => if e.idx = r.idx then f e else e) })

/-- Every entry in progress, with its place. -/
def State.allRuns (s : State) : List (EntryRef × EntryRun) :=
  s.pounds.flatMap (fun (p, x) => x.service.flatMap (fun (pos, o) => match o with
    | some n => n.runs.map (fun e => (⟨p, pos, e.idx⟩, e))
    | none => []))

/-- The request an entry belongs to. -/
def State.reqOfRun (s : State) (r : EntryRef) : Request := ((s.sent? r.pound r.pos).map (fun n => s.req n.req)).getD {}

/-- The cores on which an entry has work: those with a share in some problem, else the pound's first (R184). -/
def EntryRun.cores (e : EntryRun) (p : Nat) : List Nat := if e.on.isEmpty then [p] else e.on

/-- The problem under way. -/
def EntryRun.prob (e : EntryRun) : Problem := e.probs.getD e.cur ⟨0, 0, 0, 0, 0, 0, 0, 0, 0, 0, false, 0, 0, true, 0⟩

/-- The step counter an entry uses (R177): under a pointer list with STEP all ones that of the context of the problem under way, or
of the last that ran (which of them the entry's record carries the spec does not say; DESIGN CHOICE, assumption 64). -/
def EntryRun.stepNow (e : EntryRun) : Nat :=
  if ePlist e.raw && leAt e.raw 48 8 = 2 ^ 64 - 1 && !e.probs.isEmpty then e.prob.step else e.step

/-- An event of an entry, with its stream and step (R177, R182). -/
def State.raiseRun (s : State) (r : EntryRef) (ev : Event) : State :=
  match s.run? r with
  | some e => s.raise (ev.withStream e.strm e.stream e.stepNow)
  | none => s.raise ev

/-- The entry still runs. -/
def State.running (s : State) (r : EntryRef) : Bool := (s.run? r).any (fun e => decide (e.mode ≠ .ended))

/-! ### Ending -/

/-- The entry has work under way on the tender of a core (R163): digital products, indicative layers, ingest. -/
def EntryRun.tenders (e : EntryRun) (c : Nat) : Bool :=
  decide (e.mode = .running) && e.tStart.isSome &&
  ((e.verb = 2 || e.verb = 3 || (e.verb = 1 && !eSubj e.raw)) && e.shares.any (fun (h : Share) => h.core = c && h.running) ||
    e.verb = 6 && e.shares.any (fun (h : Share) => h.core = c))

/-- What the tender of a core goes on with when it leaves an entry: the first other one that has work there. -/
def State.nextTask (s : State) (r : EntryRef) (c : Nat) : Option EntryRef :=
  (s.allRuns.find? (fun (q, e) => decide (q ≠ r) && e.tenders c)).map (·.1)

/-- The tender of a core takes an entry's work up unless it works already. -/
def State.takeTask (s : State) (r : EntryRef) (c : Nat) : State :=
  if (s.run? r).any (·.tenders c) then s.modCore c (fun x => { x with tndBusy := x.tndBusy.orElse (fun _ => some r) }) else s

/-- A tender at work for another class yields to EXPRESS work, a task or an issue, and keeps its sums (R215). -/
def State.tenderYield (s : State) (c : Nat) : State :=
  let express (q : EntryRef) : Bool := decide ((s.reqOfRun q).cls = 0)
  match (s.core c).tndBusy with
  | none => s
  | some r =>
    if express r || (s.core c).tnd ≠ .running then s
    else match s.allRuns.find? (fun (q, e) => express q && e.tenders c) with
      | some (q, _) => (s.modCore c (fun x => { x with tndBusy := some q })).count c 19 1
      | none =>
        if (s.pound c).service.any (fun e => e.2.any (fun n => decide ((s.req n.req).cls = 0) && n.next < n.nent)) then s.count c 19 1
        else s

/-- A link carries at most two transfers; the next that waits in its entry follows (R141). -/
def Core.haloFill (x : Core) : Core :=
  x.haloWait.foldl (fun y h =>
    if (y.haloOut.filter (fun k => k.toRight = h.toRight)).length < 2 then
      { y with haloOut := y.haloOut ++ [h], haloWait := y.haloWait.erase h }
    else y) x

/-- Take transfers off a core's links. -/
def Core.haloDrop (x : Core) (gone : HaloOut → Bool) : Core :=
  ({ x with haloOut := x.haloOut.filter (fun h => !gone h), haloWait := x.haloWait.filter (fun h => !gone h) } : Core).haloFill

/-- Remove everything the cores hold for an entry, waves already in slots apart (R136, R181). -/
def State.dropWork (s : State) (r : EntryRef) : State :=
  { s with cores := s.cores.foldl (fun m e => m.set {} e.1 { e.2 with
      waiting := e.2.waiting.filter (fun w => w.ref ≠ r), ready := e.2.ready.filter (fun d => d.req.ref ≠ r),
      splits := e.2.splits.filter (fun q => q.base.ref ≠ r), replays := e.2.replays.filter (fun q => q.orig.req.ref ≠ r),
      haloOut := e.2.haloDrop (fun h => h.ref = r) |>.haloOut, haloWait := e.2.haloDrop (fun h => h.ref = r) |>.haloWait,
      fieldTest := if e.2.fieldTest.any (fun f => f.ref = r) then none else e.2.fieldTest,
      tndBusy := if e.2.tndBusy = some r then s.nextTask r e.1 else e.2.tndBusy }) [] }

/-- An ADAPT that ends marks every OUT block it has not completed as failed (R170, R292). -/
def State.failPend (s : State) (r : EntryRef) (e : EntryRun) : State :=
  s.each (s.poundCores r.pound) (fun t c => t.modCore c (fun x =>
    e.pends.foldl (fun (y : Core) b =>
      if (y.side.get {} b).pend then
        { y with side := y.side.set {} b ⟨({ tensor := failMark } : Manifest).seal (y.actBytes (b * blk) blk), false⟩, failed := y.failed.set 0 b e.idx }
      else y) x))

/-- An entry ends with a status (R178): a failure stops the sentence's issue. ENTRY_COMPLETE writes its
record. -/
def State.endRun (s : State) (r : EntryRef) (status detail : Nat) : State :=
  match s.run? r with
  | some e =>
    if e.mode = .ended then s else
    let s1 := (s.dropWork r).failPend r e
    let s2 := s1.modRun r (fun e => { e with mode := .ended, status := status, detail := detail })
    if 0x10 ≤ status then
      s2.modSent r.pound r.pos (fun n => { n with failed := n.failed.orElse (fun _ => some r.idx) })
    else s2
  | none => s

/-- End every entry that has work on a core; the number of entries ended comes first (R136, R313). -/
def State.endOnCore (s : State) (c status detail : Nat) : Nat × State :=
  let rs := (s.allRuns.filter (fun (r, e) => decide (e.mode ≠ .ended) &&
    (e.cores r.pound).contains c)).map (·.1)
  (rs.length, s.each rs (fun t r => t.endRun r status detail))

/-! ### The tender -/

/-- COR_STATUS.ACCEPTING (R135, R313). -/
def Core.accepting (x : Core) : Bool := decide (x.tnd = .running) && !x.failedCore

/-- The tender leaves RUNNING with a cause (R135, R136). -/
def State.tenderStop (s : State) (c cause : Nat) (next : TndSt) : State :=
  let (n, s1) := s.endOnCore c 0x24 cause
  let s2 := s1.modCore c (fun x => { x with
    tnd := next, tndCause := cause, tndBusy := none, haloOut := [], haloWait := [],
    scratch := if next = .loading then [] else x.scratch })
  (s2.flag .tndEvent c 1).raise (evCore 0x2306 2 c (cause + 65536 * satTo 0xFFFF n))

/-- TND_CMD.RESTART (R135): the scratch is cleared. -/
def State.tenderRestart (s : State) (p : Path) (c : Nat) : State :=
  match (s.core c).tnd with
  | .running => (s.tenderStop c 5 .loading).modCore c (fun x => { x with tndRestarted := true })
  | .fault => s.modCore c (fun x => { x with tnd := .loading, tndRestarted := true, scratch := [] })
  | _ => s.ignored p (Reg.tndCmd.addr c 0) 3

/-- A tender's load ends (R114, R135): the code is the bundle's kept copy, and lies in the scratch from its first byte on (the spec
does not place it; DESIGN CHOICE, assumption 63). -/
def State.tenderLoaded (s : State) (c : Nat) : State :=
  let x := s.core c
  if x.tnd ≠ .loading then s
  else if !s.boot.tenderBad && Sha.sha256 s.boot.tenderCode = s.boot.tenderDigest then
    let s1 := s.modCore c (fun x => { x with
      tnd := .running, tndRestarted := false, scratch := storeBytes [] 0 (s.boot.tenderCode.take 0x40000), tndFw := (s.boot.fw.map (fun (k : Container) => k.version)).getD 0 })
    if x.tndRestarted then s1.flag .tndEvent c 2 else s1
  else
    (((s.modCore c (fun x => { x with tnd := .fault, tndCause := 4 })).flag .tndEvent c 1)).raise (evCore 0x2306 2 c 4)

/-- A running tender faults (R135). -/
def State.tenderFault (s : State) (c cause : Nat) : State :=
  if (s.core c).tnd = .running then s.tenderStop c cause .fault else s

/-! ### A failed core -/

/-- A permanent fault fails a core (R313): unit as in RESIDUE_FAIL, the CHECK detail of R314. -/
def State.failCore (s : State) (c unit detail : Nat) : State :=
  if (s.core c).failedCore then s else
  let (_, s1) := s.endOnCore c 0x25 detail
  let s2 := (s1.modCore c (fun x => { x with failedCore := true })).storeNow corePage
  (s2.flag .chkCoreEvent c 0x20).raise (evCore 0x3009 3 c unit)

end Sys2Proof.Machine
end

