-- ==== Sys2Proof/Machine/EntryOps.lean ====
section
/-! DEFINITION. Reading and validating an entry at issue (R151 to R173), tensor shapes (R186), region reads
(R110, R194). -/
namespace Sys2Proof.Machine
open Sys2Proof

/-! ### Shapes -/

/-- Row stride of a tensor of `e` elements of `b` bytes (R186). -/
def stride (b e : Nat) : Nat := b * 128 * cdiv e 128

/-- Blocks that rows 0 to `m - 1` of stride `st` touch (R186). -/
def footprint (st m : Nat) : Nat :=
  if m = 0 || st = 0 then 0 else if st ≤ blk then cdiv m (blk / st) else m * cdiv st blk

/-- Block of the region and byte of the block that hold byte `x` of row `m` (R186). -/
def locate (st m x : Nat) : Nat × Nat :=
  if st ≤ blk then (m / (blk / st), st * (m % (blk / st)) + x) else (m * cdiv st blk + x / blk, x % blk)

/-- The rows, of `m`, that block `i` of a region holds bytes of (R186). -/
def rowsIn (st m i : Nat) : List Nat :=
  if st = 0 then []
  else if st ≤ blk then ((List.range (blk / st)).map (blk / st * i + ·)).filter (· < m)
  else if i / cdiv st blk < m then [i / cdiv st blk] else []

/-- Bytes of an element in an operand format: codes, BF16, FP32. -/
def fmtBytes (f : Nat) : Nat := if f = 0 then 1 else if f = 1 then 2 else 4

/-- Bit `j` of a mask in force; every bit counts as 1 without a mask (R156). -/
def maskBit (m : Option (List Byte)) (j : Nat) : Bool :=
  match m with
  | some d => bit (d.getD (j / 8) 0).toNat (j % 8)
  | none => true

/-! ### The suffix chain's stage words -/

/-- OP of a stage word (R126). -/
def stOp (w : Quad) : Nat := fld w.toNat 3 0
/-- ARG of a stage word. -/
def stArg (w : Quad) : Nat := fld w.toNat 7 4
/-- IMM of a stage word. -/
def stImm (w : Quad) : Word := BitVec.ofNat 32 (fld w.toNat 63 32)
/-- LO and HI of a CLAMP. -/
def stLo (w : Quad) : Word := Fp.ofBf16 (BitVec.ofNat 16 (fld w.toNat 47 32))
def stHi (w : Quad) : Word := Fp.ofBf16 (BitVec.ofNat 16 (fld w.toNat 63 48))

/-- A stage word breaks R127 by itself. -/
def stBad (w : Quad) : Bool :=
  let a := stArg w
  decide (fld w.toNat 31 8 ≠ 0) ||
  match stOp w with
  | 0 => decide (a ≠ 0)
  | 1 => decide (4 ≤ a)
  | 2 => decide (12 ≤ a)
  | 3 => decide (4 ≤ a)
  | 4 => decide (a ≠ 0)
  | 5 => decide (a ≠ 0) || !Fp.le (stLo w) (stHi w)
  | 6 => decide (8 ≤ a)
  | 7 => decide (4 ≤ a)
  | 0xC => decide (12 ≤ a)
  | 0xD => decide (a ≠ 0)
  | 0xE => decide (a ≠ 0)
  | _ => true

/-- The stage that R127 reports, none for a valid chain: `out` says that an output stage has been met. -/
def chainBad : List Quad → Nat → Bool → Option Nat
  | [], _, out => if out then none else some 7
  | w :: ws, k, out => if stBad w || (out && stOp w ≠ 0) then some k else chainBad ws (k + 1) (out || 0xC ≤ stOp w)

/-- The eight stage words of a chain (R125). -/
def Core.chain (x : Core) (n : Nat) : List Quad := (List.range 8).map (fun k => x.chains.get 0 (8 * n + k))

/-- The output stage of a valid chain. -/
def outStage (ws : List Quad) : Quad := (ws.find? (fun w => 0xC ≤ stOp w)).getD 0

/-- The operation the output stage performs: in MODE 0x2, OUT_CODE writes as OUT_BF16 does (R107). -/
def outOp (ws : List Quad) (mode : Nat) : Nat := if stOp (outStage ws) = 0xC && mode = 2 then 0xD else stOp (outStage ws)

/-- Bytes an output element takes. -/
def outBytes (ws : List Quad) (mode : Nat) : Nat := if outOp ws mode = 0xC then 1 else if outOp ws mode = 0xD then 2 else 4

/-! ### Entry fields by verb -/

/-- VERB (R163). -/
def eVerb (d : List Byte) : Nat := leAt d 0 1
/-- GSIZE. -/
def eG (d : List Byte) : Nat := eCtrl d 17 16
/-- FREEBOARD. -/
def eFb (d : List Byte) : Nat := eCtrl d 15 14
/-- BSRC. -/
def eBsrc (d : List Byte) : Nat := eCtrl d 22 20
/-- STREAM with STRM. -/
def eStrm (d : List Byte) : Bool := bit (leAt d 0 4) 30
def eStream (d : List Byte) : Nat := leAt d 40 2
/-- CPL. -/
def eCpl (d : List Byte) : Bool := bit (leAt d 0 4) 10

/-- Verbs with bounds (R164). -/
def verbBounds (v : Nat) : Bool := [1, 2, 3, 4, 5, 6, 7, 0xC].contains v
/-- Verbs that use K. -/
def verbK (v : Nat) : Bool := [1, 2, 3, 4, 5, 6].contains v
/-- Verbs that use N. -/
def verbN (v : Nat) : Bool := [1, 2, 3, 4, 5, 7, 0xC].contains v
/-- Verbs that use CHAIN. -/
def verbChain (v : Nat) : Bool := [1, 2, 3, 7].contains v
/-- Verbs that take a pointer list (R165). -/
def verbList (v : Nat) : Bool := [1, 2, 3, 4, 5].contains v

/-- FMT is one the verb has (R164, R169). -/
def fmtOk (v f : Nat) : Bool :=
  if v = 2 || v = 7 then f ≤ 2
  else if v = 3 || v = 6 then f = 1 || f = 2
  else if v = 4 then f ≤ 1 else true

/-- The verb uses GSIZE: it reads or writes codes with a scale lane. -/
def usesG (v f : Nat) : Bool := v = 1 || v = 6 || ((v = 2 || v = 4 || v = 7) && f = 0)

/-- Masks apply to MATMUL and DMATMUL (assumption 22). -/
def usesMask (v : Nat) : Bool := v = 1 || v = 2

/-- ADDR is aligned and in the right space for each of its uses (R158, R160, R166). -/
def addrOk (d : List Byte) : Bool :=
  let v := eVerb d
  let a := eAddr d
  let list := ePlist d
  (!list || (a % 32 = 0 && !eHost d)) && (!(eBsrc d ≠ 0 && !list) || (a % 16 = 0 && !eHost d)) &&
  (!(v = 2 && !list) || (a % 4096 = 0 && !eHost d)) && (!(v = 8 || v = 9) || a % 4096 = 0) && (v ≠ 0xE || a % 8 = 0)

/-! ### Where an entry stands -/

/-- The offset a request's cores have on its copy of a twin (R244). -/
def State.delta (s : State) (q : Request) : Nat :=
  if q.copyB then (((s.model q.model).imgAt (q.version.getD 0)).map (fun (g : Image × Bool) => g.1.twinDelta)).getD 0 else 0

/-- FORWARD's destination pound, when a route element names it and it begins a pound (R171, R204, R244). -/
def State.forwardTo (s : State) (q : Request) (d : List Byte) : Option (Nat × RouteEl) :=
  let c := eParam d % 128
  let k := c + s.delta q
  match q.route.find? (fun (e : RouteEl) => e.core = c) with
  | some e => if (s.poundAt k).isSome then some (k, e) else none
  | none => none

/-- The first field, by byte offset, that R165 rejects with BAD_FIELD; a group request drives no wave (R347). -/
def State.fieldFault (s : State) (p : Nat) (q : Request) (d : List Byte) : Option Nat :=
  let v := eVerb d
  let w := leAt d 0 4
  let pm := eParam d
  if bit w 31 || (1 ≤ eCtrl d 13 11 && eCtrl d 13 11 ≤ 3) || (usesG v (eFmt d) && eG d = 3) || !fmtOk v (eFmt d) ||
      (ePlist d && !verbList v) || (eBsrc d ≠ 0 && !verbBounds v) then some 0
  else if q.group.isSome && v = 1 && eSubj d then some 1
  else if (v = 2 && (8 ≤ pm || pm / 2 = 3)) || (v = 0xA && (128 ≤ pm || (s.forwardTo q d).isNone)) ||
      (v = 0xB && (2 ≤ pm || (pm = 0 && p = 127) || (pm = 1 && p = 0))) || (v = 0xC && 2 ≤ pm) || (v = 0xE && fld pm 14 11 ≠ 0) then some 4
  else if ePlist d && (leAt d 6 2 = 0 || 4096 < leAt d 6 2) then some 6
  else if v = 0xB && 64 < eCount d 16 then some 16
  else if (v = 1 || v = 2 || v = 3) && leAt d 20 2 &&& 0xE0E0 ≠ 0 then some 20
  else if usesMask v && fld (leAt d 36 2) 14 8 ≠ 0 then some 36
  else if usesMask v && fld (leAt d 38 2) 14 8 ≠ 0 then some 38
  else if !addrOk d then some 42 else none

/-! ### Bounds and problems -/

/-- The bounds of an entry or problem: those BSRC names come from `rec` (R158, R160). -/
def boundsOf (d rec : List Byte) : Nat × Nat × Nat :=
  let b := eBsrc d
  (if bit b 0 then leAt rec 0 4 else leAt d 8 4, if bit b 1 then leAt rec 4 4 else leAt d 12 2,
   if bit b 2 then leAt rec 8 4 else leAt d 14 2)

/-- The first bound out of range, of those that are known: 0 for M, 1 for K, 2 for N (R156, R158). -/
def boundBad (d : List Byte) (b : Nat × Nat × Nat) (known : Nat → Bool) : Option Nat :=
  let v := eVerb d
  let (m, k, n) := b
  if !verbBounds v then none
  else if known 0 && 16777215 < m then some 0
  else if known 1 && verbK v && (65535 < k || (usesMask v && bit (leAt d 36 2) 15 && 32768 < k)) then some 1
  else if known 2 && verbN v && (65535 < n || (usesMask v && bit (leAt d 38 2) 15 && 32768 < n)) then some 2 else none

/-- The layer of a MATMUL on a pound, with its image and whether its reference copy is present; none where
R165 answers BAD_LAYER: not installed there, outside the resident set (R251), before every pound serves
(R234), in INCOMPLETE but for a complete twin copy (R243). -/
def State.layerOn (s : State) (p : Nat) (q : Request) (layer : Nat) : Option (Image × Bool × Placement) :=
  match s.poundAt p with
  | none => none
  | some (m, pl) =>
    let x := s.model m
    match q.version.bind x.imgAt with
    | none => none
    | some (img, ref) =>
      let whole := x.pounds.all (fun (y : PoundLock) => y.copyB ≠ pl.copyB || (decide (y.st = .open_) && decide (some y.version = q.version)))
      let shut := decide (x.mst = .absent) || decide (x.mst = .installing) || (decide (x.mst = .stalled) && decide (x.prior = .installing)) ||
        (decide (x.mst = .incomplete) && !(img.twin && whole))
      let dl := if pl.copyB then img.twinDelta else 0
      if shut then none
      else match img.layers.find? (fun (y : Placement) => y.layer = layer && y.first + dl = p && (!img.reload || y.set = q.setNo)) with
        | some y => some (img, ref, y)
        | none => none

/-- A layer an entry may use: an indicative one needs its reference copy (R230, R338). -/
def State.layerFor (s : State) (p : Nat) (q : Request) (d : List Byte) (layer : Nat) : Option (Image × Bool × Placement) :=
  (s.layerOn p q layer).bind (fun (img, ref, y) =>
    if !eSubj d && !(ref && (img.planeAt layer 0).isSome) then none else some (img, ref, y))

/-- Blocks of a weight tensor: rows of K codes, one per output column (R108, R186, assumption 26). -/
def weightStride (wide : Bool) (k : Nat) : Nat := (if wide then 128 else 64) * cdiv k 128

/-- A code operand in region field `o` of an entry issued in MODE 0x2, from block `base` on, is an intermediate tensor in
BF16, which the tender ingests again (R107). The spec does not say how the tender knows one; here a first block without DYN is
one, since every row of codes written in that mode is on a dynamic scale (DESIGN CHOICE, assumption 62). -/
def Core.bfAt (x : Core) (v f o base mode : Nat) : Bool :=
  mode = 2 && (o ≠ 16 || v = 1 || (f = 0 && (v = 2 || v = 4 || v = 7))) && !bit (x.actBlock (base % 256)).2.tag 12

/-- The activation regions of an entry's verb with their footprints: field offset, blocks (R186, R191). `bf` says which
code operands are BF16 intermediates. -/
def regionNeeds (d : List Byte) (chain : List Quad) (mode : Nat) (w7 : Bool) (bf : Nat → Bool) (b : Nat × Nat × Nat) : List (Nat × Nat) :=
  let v := eVerb d
  let (m, k, n) := b
  let f := eFmt d
  let lane (x : Nat) : Nat := cdiv x 32
  let outF := footprint (stride (outBytes chain mode) n) m
  let aux := chain.flatMap (fun w =>
    let o := 28 + 2 * (stArg w % 4)
    match stOp w with
    | 1 => [(o, cdiv n 1024)]
    | 3 => [(o, cdiv n 1024)]
    | 2 =>
      let x := footprint (stride (if stArg w / 4 = 0 && bf o then 2 else fmtBytes (stArg w / 4)) n) m
      [(o, if stArg w / 4 = 0 && !bf o then x + lane x else x)]
    | 7 => [(o, footprint (stride 4 n) m)]
    | 0xC => [(o, 1)]
    | _ => [])
  let tail := (18, outF) :: (if outOp chain mode = 0xC then [(26, lane outF)] else []) ++ aux
  let inF (fm e : Nat) : List (Nat × Nat) :=
    let x := footprint (stride (if bf 16 then 2 else fmtBytes fm) e) m
    (16, x) :: (if fm = 0 && !bf 16 then [(22, lane x)] else [])
  let xs := match v with
    | 1 => inF 0 k ++ [(24, cdiv n (if w7 then 256 else 512))] ++ tail
    | 2 => inF f k ++ [(24, cdiv n 512)] ++ tail
    | 3 => (4, footprint (stride (fmtBytes f) k) n) :: inF f k ++ [(24, cdiv n 512)] ++ tail
    | 4 => inF f k ++ [(18, footprint (stride 4 n) m)]
    | 5 => [(16, footprint (stride 4 n) m), (28, footprint (stride 2 k) m)]
    | 6 => [(16, footprint (stride (fmtBytes f) k) m), (18, footprint (stride 1 k) m), (26, lane (footprint (stride 1 k) m))]
    | 7 => inF f n ++ tail
    | _ => []
  sortBy xs (fun a b => decide (a.1 ≤ b.1))

/-- SHAPE's DETAIL, none when the tiler can lay out the shape (R191). -/
def shapeBad (d : List Byte) (chain : List Quad) (mode : Nat) (bf : Nat → Bool) (pl : Option Placement) (b : Nat × Nat × Nat) : Option Nat :=
  let (m, k, n) := b
  if m = 0 || (verbN (eVerb d) && n = 0) then none
  else if pl.any (fun (y : Placement) => y.kL < k) then some 1
  else if pl.any (fun (y : Placement) => y.nL < n) then some 2
  else ((regionNeeds d chain mode (pl.any (·.w7)) bf b).find? (fun x => 256 < x.2)).map (fun x => 3 + 256 * x.1 + 65536 * (x.2 % 65536))

/-- A bound, layer, context or shape of a pointer-list element fails: the status (R161, R191); a misaligned
weight address counts as BAD_FIELD (assumption 23). -/
def State.elemFault (s : State) (p : Nat) (q : Request) (d : List Byte) (chain : List Quad) (mode : Nat) (e : List Byte) : Nat :=
  let b := boundsOf d (e.drop 12)
  let v := eVerb d
  let lay := if v = 1 then s.layerFor p q d (leAt e 0 2) else none
  if (boundBad d b (fun _ => true)).isSome then 0x12
  else if v = 1 && lay.isNone then 0x13
  else if v = 2 && (leAt e 0 6 % 4096 ≠ 0 || (leAt e 24 6 % 4096 ≠ 0)) then 0x11
  else if !(s.ctx (leAt e 6 2)).usable then 0x26
  else if (shapeBad d chain mode (fun o => (s.core p).bfAt v (eFmt d) o (eBase d o + leAt e (if o = 16 then 8 else 10) 1) mode) (lay.map (·.2.2)) b).isSome then 0x15 else 0

/-- STEP as used (R177). -/
def State.stepOf (s : State) (d : List Byte) (strm : Bool) (stream : Nat) : Nat :=
  let v := leAt d 48 8
  if v = 2 ^ 64 - 1 && strm then (s.ctx stream).step else v

/-- The problem of an entry without a pointer list. -/
def State.oneProblem (s : State) (d : List Byte) (b : Nat × Nat × Nat) : Problem :=
  let (m, k, n) := b
  let strm := eStrm d
  let wide := bit (eParam d) 0
  { m := m, k := k, n := n, layer := eParam d, wptr := eAddr d,
    sptr := eAddr d + blk * footprint (weightStride wide k) n,
    inOff := 0, outOff := 0, auxOff := 0, accOff := 0, strm := strm, stream := if strm then eStream d else 0xFFFF,
    step := s.stepOf d strm (eStream d), skip := false, fail := 0 }

/-- The problem of a pointer-list element (R160). -/
def State.listProblem (s : State) (d : List Byte) (fail : Nat) (e : List Byte) : Problem :=
  let (m, k, n) := boundsOf d (e.drop 12)
  { m := m, k := k, n := n, layer := leAt e 0 2, wptr := leAt e 0 6, sptr := leAt e 24 6, inOff := leAt e 8 1, outOff := leAt e 9 1,
    auxOff := leAt e 10 1, accOff := leAt e 11 1 % 32, strm := true, stream := leAt e 6 2, step := s.stepOf d true (leAt e 6 2),
    skip := bit (leAt e 30 1) 0, fail := if bit (leAt e 30 1) 0 then 0 else fail }

/-! ### Validation -/

/-- The bytes of the pointer list or the bound record that the entry names; none when unreadable. -/
def State.listBytes (s : State) (d : List Byte) : Option (List Byte) :=
  if ePlist d then s.readDev (eAddr d) (32 * leAt d 6 2)
  else if eBsrc d ≠ 0 then s.readDev (eAddr d) 16 else some []

/-- Why a mask block cannot be used: status and DETAIL (R156). -/
def Core.maskFault (x : Core) (d : List Byte) (o which : Nat) : Option (Nat × Nat) :=
  let b := leAt d o 2 % 256
  if !bit (leAt d o 2) 15 then none
  else if x.actPoisoned b then some (0x22, b)
  else let (bs, m) := x.actBlock b
    if checkBlock bs m {} ≠ 0 then some (0x18, which) else none

/-- The first status that rejects an entry, with its DETAIL (R165, R180). Bounds that come from a pointer list's elements, or from a
record that cannot be read, are not known here. -/
def State.rejects (s : State) (p : Nat) (q : Request) (d : List Byte) (mode : Nat) : Option (Nat × Nat) :=
  let v := eVerb d
  if 0xE < v then some (0x10, v) else
  match s.fieldFault p q d with
  | some o => some (0x11, o)
  | none =>
    let lb := s.listBytes d
    let b := boundsOf d (lb.getD [])
    let chain := (s.core p).chain (eCtrl d 29 24)
    let known := !ePlist d && lb.isSome
    let lay := if v = 1 && !ePlist d then s.layerFor p q d (eParam d) else none
    let empty := known && verbBounds v && v ≠ 0xC && (b.1 = 0 || (verbN v && b.2.2 = 0))
    match boundBad d b (fun i => known || !bit (eBsrc d) i) with
    | some w => some (0x12, w)
    | none =>
      if v = 1 && !ePlist d && lay.isNone then some (0x13, eParam d) else
      match if verbChain v then chainBad chain 0 false else none with
      | some k => some (0x14, eCtrl d 29 24 + 256 * k)
      | none =>
        match if known && verbBounds v && v ≠ 0xC then shapeBad d chain mode (fun o => (s.core p).bfAt v (eFmt d) o (eBase d o) mode) (lay.map (·.2.2)) b else none with
        | some w => some (0x15, w)
        | none =>
          if v = 0xD && q.cls ≠ 3 then some (0x16, q.cls)
          else if lb.isNone then some (0x17, if ePlist d then 2 else 1)
          else if !usesMask v || empty then none
          else ((s.core p).maskFault d 36 0).orElse (fun _ => (s.core p).maskFault d 38 1)

/-! ### Region reads -/

/-- A manifest failure of an activation block met by an entry (R291, R327). -/
def State.manFailRun (s : State) (r : EntryRef) (c b cause : Nat) : State :=
  (s.count c 29 1).raiseRun r (evCore 0x4001 2 c (cause + 32 + 256 * (b % 256)))

/-- A manifest failure of a memory block met by an entry: an event of the core that reads it (R327, assumption 32). -/
def State.manFailMem (s : State) (r : EntryRef) (c : Nat) (isHost : Bool) (a cause : Nat) : State :=
  let s1 := (s.count c 29 1).raiseRun r (evCore 0x4001 2 c (cause + 16 * b2n isHost + 256 * a))
  if isHost then s1 else s1.suspectMem a

/-- Why an operand read fails: status and DETAIL. -/
abbrev RdFail := Nat × Nat

/-- Read block `j` of a region of a core for an entry (R194, R291): `expect` is what is known beforehand; the
first block of the region fixes its identity. `field` is the region field's offset, plus 64 for scale blocks
that follow data blocks. -/
def State.readReg (s : State) (r : EntryRef) (c field base j : Nat) (expect : Expect) : Except RdFail BlockRd × State :=
  let x := s.core c
  let b := (base + j) % 256
  let e := s.run? r
  let own := e.any (fun e => e.written.contains (c, b))
  let id := e.bind (fun e => e.ids.find? (fun (i : RegionId) => i.core = c && i.field = field))
  let want : Expect := if own then {} else match id with
    | some i => { tensor := some i.tensor, index := some ((i.origin + j) % 2 ^ 24).toNat, version := some i.version }
    | none => expect
  let (d, m) := x.actBlock b
  let s0 := s.count c 41 blk
  if x.actPoisoned b then (.error (0x22, b), s0.ueEvent 4 (512 * b))
  else
    let cause := checkBlock d m want
    if cause ≠ 0 then (.error (0x21, b + 65536 * (field % 64)), s0.manFailRun r c b cause)
    else if own || id.isSome then (.ok (d, m), s0)
    else (.ok (d, m), s0.modRun r (fun e => { e with ids := e.ids ++ [⟨c, field, m.tensor, m.version, (m.index : Int) - j⟩] }))

/-- Read block `j` of a device tensor at `a` for an entry: identity as for a region (R194). -/
def State.readDevReg (s : State) (r : EntryRef) (c field a j : Nat) : Except RdFail BlockRd × State :=
  let addr := a + blk * j
  if !s.inBlocks addr blk then (.error (0x17, 4), s)
  else if s.poisoned addr blk || s.poisoned (s.mstore + 16 * (addr / blk)) 16 then (.error (0x22, j % 65536), s.ueMem addr)
  else
    let id := (s.run? r).bind (fun e => e.ids.find? (fun (i : RegionId) => i.core = c && i.field = field))
    let d := s.bytesAt addr blk
    let m := s.devMan addr
    let want : Expect := match id with
      | some i => { tensor := some i.tensor, index := some ((i.origin + j) % 2 ^ 24).toNat, version := some i.version }
      | none => {}
    let cause := checkBlock d m want
    if cause ≠ 0 then (.error (0x21, j % 65536 + 65536 * (field % 64)), s.manFailMem r c false addr cause)
    else if id.isSome then (.ok (d, m), s)
    else (.ok (d, m), s.modRun r (fun e => { e with ids := e.ids ++ [⟨c, field, m.tensor, m.version, (m.index : Int) - j⟩] }))

/-- The GSIZE field of a tag. -/
def tagG (t : Nat) : Nat := fld t 14 13

/-- The first condition of R110 that a data block and its scale block break; 0 when they meet all. `g` is the
tensor's group size, none for the code operand of RESID_ADD. -/
def laneBad (per : Nat) (g : Option Nat) (d sc : Manifest) : Nat :=
  if sc.tensor ≠ d.tensor then 1
  else if sc.version ≠ d.version then 2
  else if sc.index ≠ d.index / per then 3
  else if bit d.tag 15 || !bit sc.tag 15 then 4
  else if tagG d.tag ≠ tagG sc.tag || tagG d.tag = 3 || g.any (· ≠ tagG d.tag) then 5 else 0

/-- SCALE_LANE_MISMATCH (R111, R112, R113). -/
def State.laneMismatch (s : State) (r : EntryRef) (c b cond : Nat) (tender : Bool) : State :=
  ((((s.flag .corSclEvent c 4).bump .corSlaneErrCount c 1).count c 28 1).wr .corSlaneLast c 0
    (b % 2 ^ 24 + 2 ^ 24 * cond + 2 ^ 27 * b2n tender + 2 ^ 31)).raiseRun r
    (evCore 0x2203 2 c (b + 2 ^ 32 * cond + 2 ^ 63 * b2n tender))

/-- Codes that saturated or were read as reserved, in the core's counts (R89, R99). -/
def State.reserved (s : State) (c n : Nat) : State := if n = 0 then s else (s.bump .corCodeSatCount c n).count c 24 n

/-- Codes that saturated or were read as reserved, in the counts of the core and of the entry (R89, R99, R100). -/
def State.codeSat (s : State) (r : EntryRef) (c n : Nat) : State :=
  if n = 0 then s else (s.reserved c n).modRun r (fun e => { e with satCode := e.satCode + n })

end Sys2Proof.Machine
end

