-- ==== Sys2Proof/Machine/IssueOps.lean ====
section
/-! DEFINITION. Issuing an entry (R151, R161, R176, R177), the shares of its cores (R184), its output blocks
(R186, R187, R195, R290) and the end of a problem. -/
namespace Sys2Proof.Machine
open Sys2Proof

/-! ### Shares and passes -/

/-- The image, reference copy and placement record of a layer for an entry (R152, R183). -/
def State.runLayer (s : State) (r : EntryRef) (layer : Nat) : Option (Image × Bool × Placement) :=
  let q := s.reqOfRun r
  (q.version.bind (s.model q.model).imgAt).bind (fun (img, ref) =>
    (img.layers.find? (fun (y : Placement) => y.layer = layer && (!img.reload || y.set = q.setNo))).map (fun y => (img, ref, y)))

/-- Column sets of a placement with a column below `n`, on a core (R184). -/
def Placement.setsOn (y : Placement) (dl n c : Nat) : List Nat :=
  (List.range (cdiv n y.nS)).filter (fun j => y.grid.any (fun (g : GridEntry) => g.setJ = j && g.core + dl = c))

/-- The verbs whose columns are split into groups and passes. -/
def tiled (v : Nat) : Bool := v = 1 || v = 2 || v = 3

/-- The even split of `g` pieces of work over `n` cores: those of core `k` (R184). -/
def evenSplit (g n k : Nat) : List Nat := (List.range (g * (k + 1) / n - g * k / n)).map (g * k / n + ·)

/-- The shares of an entry's cores in its problem (R184). -/
def State.sharesOf (s : State) (r : EntryRef) (e : EntryRun) : List Share :=
  let cs := s.poundCores r.pound
  let pb := e.prob
  let all : List Share :=
    if e.verb = 1 then
      match s.runLayer r pb.layer with
      | some (_, _, y) => cs.map (fun c => { core := c, groups := y.setsOn (s.delta (s.reqOfRun r)) pb.n c })
      | none => []
    else if e.verb = 5 then [{ core := r.pound, groups := List.range pb.m }]
    else
      let g := if tiled e.verb then cdiv pb.n 64 else pb.m
      cs.zipIdx.map (fun (c, k) => { core := c, groups := evenSplit g cs.length k })
  all.filter (fun h => !h.groups.isEmpty)

/-- The cores that take part in some problem of an entry (R184). -/
def State.partCores (s : State) (r : EntryRef) (e : EntryRun) : List Nat :=
  ((List.range e.probs.length).flatMap (fun i => (s.sharesOf r { e with cur := i }).map (fun (h : Share) => h.core))).eraseDups

/-- The column run of a share under way (R189, R190). -/
def Share.run (h : Share) (v : Nat) : List Nat := if v = 1 then h.groups else (h.groups.drop (32 * h.cp)).take 32

/-- Token rows of one pass with `g` column groups (R190). -/
def rowsPer (g : Nat) : Nat := 4 * (32 / g)

/-- The token rows of the pass under way; the rows of the share for the verbs split by rows. -/
def Share.rows (h : Share) (v m : Nat) : List Nat :=
  if tiled v then
    let n := rowsPer (h.run v).length
    ((List.range n).map (n * h.tp + ·)).filter (· < m)
  else h.groups

/-- Token passes in the column run under way. -/
def Share.tokenPasses (h : Share) (v m : Nat) : Nat := cdiv m (rowsPer (h.run v).length)

/-- Column passes of a share (R190). -/
def Share.colPasses (h : Share) (v : Nat) : Nat := if v = 1 then 1 else cdiv h.groups.length 32

/-- Token passes over all column runs, column passes and reduction passes of a share (R190); the share runs through the first times
the last. A shorter last column run has larger token passes. -/
def Share.passCount (h : Share) (v m k : Nat) : Nat × Nat × Nat :=
  (((List.range (h.colPasses v)).map (fun i => ({ h with cp := i } : Share).tokenPasses v m)).sum, h.colPasses v,
    if v = 1 then 1 else max 1 (cdiv k 4096))

/-- One share of a run. -/
def EntryRun.share (e : EntryRun) (c : Nat) : Option Share := e.shares.find? (fun (h : Share) => h.core = c)

/-- Change one share of a run. -/
def State.modShare (s : State) (r : EntryRef) (c : Nat) (f : Share → Share) : State :=
  s.modRun r (fun e => { e with shares := e.shares.map (fun (h : Share) => if h.core = c then f h else h) })

/-! ### Output blocks -/

/-- Bytes of an output element, by verb. -/
def EntryRun.outB (e : EntryRun) : Nat := if e.verb = 6 then 1 else if e.verb = 4 then 4 else outBytes e.chain e.sclMode
/-- Elements of an output row. -/
def EntryRun.outN (e : EntryRun) : Nat := if e.verb = 6 then e.prob.k else e.prob.n
/-- Row stride of the output (R186). -/
def EntryRun.outStride (e : EntryRun) : Nat := stride e.outB e.outN
/-- Blocks of the problem's output. -/
def EntryRun.outBlocks (e : EntryRun) : Nat := footprint e.outStride e.prob.m
/-- The output carries a scale lane. -/
def EntryRun.outCodes (e : EntryRun) : Bool := e.verb = 6 || (e.verb ≠ 4 && outOp e.chain e.sclMode = 0xC)
/-- The GSIZE code of the output's lane. -/
def EntryRun.outG (e : EntryRun) : Nat := if e.verb = 6 then eG e.raw else stArg (outStage e.chain) / 4
/-- The position of region block `i` of the problem in the entry's OUT region. -/
def EntryRun.outPos (e : EntryRun) (i : Nat) : Nat := e.prob.outOff + i

/-- TENSOR of the output (R290). -/
def State.outTensor (s : State) (r : EntryRef) (e : EntryRun) (c : Nat) : Nat :=
  let lay := if e.verb = 1 then s.runLayer r e.prob.layer else none
  match lay, e.ids.find? (fun (i : RegionId) => i.core = c && i.field = 16) with
  | some (_, _, y), _ => y.tout
  | none, some i => i.tensor
  | none, none => ((s.core c).actBlock (eBase e.raw 16 + e.prob.inOff)).2.tensor

/-- The bits of column `col` of row `m` in a holder, with bit 8 set for a code that saturated. -/
def EntryRun.outAt (e : EntryRun) (h m col : Nat) : Nat :=
  ((e.outs.findSome? (fun (o : OutSeg) => if o.holder = h && o.prob = e.cur && o.row = m then List.lookup col o.vals else none))).getD 0

/-- Row `m` is complete in a holder (R185). -/
def EntryRun.rowIn (e : EntryRun) (h m : Nat) : Bool :=
  ((e.outs.filter (fun (o : OutSeg) => o.holder = h && o.prob = e.cur && o.row = m)).map (fun o => o.vals.length)).sum = e.outN

/-- The rows below a failing row (R196): those that still start. -/
def EntryRun.below (e : EntryRun) (m : Nat) : Bool := e.failRow.all (fun f => m < f)

/-- A row of a core completes: one below the failing row, or a later row whose waves were all driven before the failure (R196). -/
def EntryRun.goes (e : EntryRun) (c m : Nat) : Bool :=
  e.below m || (e.verb = 1 && eSubj e.raw && e.failRow.all (· < m) && !e.failRows.contains m && !e.undriven.contains (c, m))

/-- Rows of the pass under way, or of one still to come below the failing row, have not left the chain (R196). -/
def EntryRun.rowsLeft (e : EntryRun) : Bool :=
  (tiled e.verb || e.verb = 7) && e.shares.any (fun (h : Share) => !h.finished &&
    (if h.running then (h.rows e.verb e.prob.m).any (fun x => e.goes h.core x && !h.rowsDone.contains x)
     else (h.rows e.verb e.prob.m).head?.any e.below))

/-- Region block `i` is to be written: no row of it has failed. -/
def EntryRun.due (e : EntryRun) (i : Nat) : Bool := (rowsIn e.outStride e.prob.m i).all e.below

/-- The element of the output that each byte position of a region block holds: row and column, none for
padding (R186, R187). -/
def EntryRun.elemAt (e : EntryRun) (i k : Nat) : Option (Nat × Nat) :=
  let st := e.outStride
  let b := e.outB
  let (m, col) := if st ≤ blk then (blk / st * i + b * k / st, b * k % st / b) else (i / cdiv st blk, (i % cdiv st blk * blk + b * k) / b)
  if m < e.prob.m && col < e.outN && (blk < st || b * k / st < blk / st) then some (m, col) else none

/-- The elements of region block `i` in a holder (R187). -/
def EntryRun.blockVals (e : EntryRun) (h i : Nat) : List Nat :=
  (List.range (blk / e.outB)).map (fun k => match e.elemAt i k with
    | some (m, col) => e.outAt h m col
    | none => 0)

/-- The learned scale code of group `g`, held since issue (R455). -/
def EntryRun.learned (e : EntryRun) (c pos g : Nat) : Nat := (((e.vecs.get [] (256 * c + pos % 256))).getD g 0).toNat

/-- The region position of the learned block: SCL for INGEST, the stage's AUX for OUT_CODE. -/
def EntryRun.learnedPos (e : EntryRun) : Nat :=
  if e.verb = 6 then eBase e.raw 22 else eBase e.raw (28 + 2 * (stArg (outStage e.chain) % 4)) + e.prob.auxOff

/-- The scale codes of region block `i` (R102, R108). `dyn` gives a row's dynamic code. A zero group is written as 0x00,
whatever MAN the learned code holds (R90). -/
def EntryRun.slotCodes (e : EntryRun) (h i : Nat) (dyn : Nat → Option Nat) : List Nat :=
  let g := gsize e.outG
  (List.range (blk / g)).map (fun q => match e.elemAt i (q * g) with
    | some (m, col) => (fun sc => if sc / 8 = 0 then 0 else sc) ((dyn m).getD (e.learned h e.learnedPos (col / g)))
    | none => 0)

/-- Write an output block with its manifest in a holder (R115, R187, R290). -/
def State.putOut (s : State) (r : EntryRef) (h b : Nat) (data : List Byte) (m : Manifest) : State :=
  (s.putAct h (b % 256) data (m.seal data)).modRun r (fun e => { e with written := (h, b % 256) :: e.written })

/-- The key of byte `k` of the slot of output position `pos` in a holder's scale lane. -/
def laneKey (h pos k : Nat) : Nat := 2 ^ 20 * h + 128 * pos + k

/-- Write scale-lane block `j` of a holder: slots of unwritten data blocks hold zero (R195). -/
def State.putLane (s : State) (r : EntryRef) (h j : Nat) : State :=
  match s.run? r with
  | some e =>
    let data := (List.range blk).map (fun k => e.scaleOut.get 0 (laneKey h (32 * j) 0 + k))
    s.putOut r h (eBase e.raw 26 + j) data
      { tensor := s.outTensor r e h, index := j, tag := 2 ^ 15 + 2 ^ 13 * e.outG, version := e.version }
  | none => s

/-- The scale guard on the codes of a block, by COR_SGUARD_CFG as the core held it when the entry issued: cause, largest
magnitude (R103, R104). -/
def EntryRun.guard (e : EntryRun) (c : Nat) (codes : List Int) (sats : Nat) : Nat × Nat :=
  let top := (codes.map Int.natAbs).foldl max 0
  let cfg := e.guardCfg.get 0 c
  let low := fld cfg 18 16
  (b2n (decide (fld cfg 12 0 < sats)) + 2 * b2n (decide (low ≠ 0 && 0 < top && top < 2 ^ (7 - low))), top)

/-- Report a guard trip (R103, R105, R112, R113). -/
def State.guardTrip (s : State) (r : EntryRef) (c i cause sats top : Nat) (drain : Bool) : State :=
  ((((s.flag .corSclEvent c 1).bump .corGuardTripCount c 1).count c 26 1).wr .corSclStatus c 0
    (cause + 4 * b2n drain + 16 * sats + 2 ^ 17 * top + 2 ^ 31)).raiseRun r
    (evCore 0x2201 0 c (i + 2 ^ 32 * sats + 2 ^ 48 * top + 2 ^ 56 * cause + 2 ^ 63 * b2n drain))

/-- A core writes region block `i` of the problem's output (R185, R187, R195), with the guard of R105. -/
def State.writeBlock (s : State) (r : EntryRef) (h i : Nat) : State :=
  match s.run? r with
  | some e =>
    let vals := e.blockVals h i
    let codes := vals.map (fun v => (BitVec.ofNat 8 v).toInt)
    let sats := (vals.filter (256 ≤ ·)).length
    let code := e.outCodes && e.verb ≠ 6
    let (cause, top) := e.guard h codes sats
    let pos := e.outPos i
    let s0 := if code && bit (e.guardCfg.get 0 h) 19 && e.sclMode = 0 && cause ≠ 0 then s.guardTrip r h pos cause sats top true else s
    let data := vals.flatMap (leBytes e.outB)
    let s1 := s0.putOut r h (eBase e.raw 18 + pos) data
      { tensor := s.outTensor r e h, index := pos, tag := if code then 2 ^ 13 * e.outG else 0, version := e.version }
    let s2 := s1.modRun r (fun e => { e with done := (h, i) :: e.done })
    if !code then s2
    else
      let cs := e.slotCodes h i (fun _ => none)
      let s3 := s2.modRun r (fun e => { e with
        scaleOut := cs.zipIdx.foldl (fun m (v, k) => m.set 0 (laneKey h pos k) (BitVec.ofNat 8 v)) e.scaleOut })
      if pos % 32 = 31 || i + 1 = e.outBlocks then s3.putLane r h (pos / 32) else s3
  | none => s

/-- Write the output blocks of a holder that are complete, in ascending order; `n` bounds them (R195, R196). -/
def State.flushOut (s : State) (r : EntryRef) (h : Nat) : Nat → State
  | 0 => s
  | n + 1 =>
    match s.run? r with
    | some e =>
      let i := (e.done.filter (·.1 = h)).length
      if i < e.outBlocks && e.due i && (rowsIn e.outStride e.prob.m i).all (e.rowIn h) then (s.writeBlock r h i).flushOut r h n else s
    | none => s

/-- Write the scale-lane blocks of the problem that have not been written (R195). -/
def State.closeLanes (s : State) (r : EntryRef) : State :=
  match s.run? r with
  | some e =>
    if !e.outCodes || e.tStart.isNone || e.outBlocks = 0 then s else
    s.each (s.poundCores r.pound) (fun t h =>
      let d := (e.done.filter (·.1 = h)).length
      t.each ((List.range (cdiv (e.outPos e.outBlocks) 32 - e.outPos 0 / 32)).map (e.outPos 0 / 32 + ·)) (fun t j =>
        if d < e.outBlocks && e.outPos d ≤ 32 * j + 31 then t.putLane r h j else t))
  | none => s

/-- The problem has written every block it will write (R195, R196). -/
def EntryRun.probDone (e : EntryRun) (cores : List Nat) : Bool :=
  let n := ((List.range e.outBlocks).filter e.due).length
  cores.all (fun h => n ≤ (e.done.filter (·.1 = h)).length)

/-! ### Reads before any claim -/

/-- Read the learned scale block at region position `pos` for a core (R455): a tender reads it for INGEST, the drain for
an OUT_CODE stage. -/
def State.readLearned (s : State) (r : EntryRef) (c field base pos g : Nat) : Option RdFail × State :=
  match s.readReg r c field base pos {} with
  | (.error f, s1) => (some f, s1)
  | (.ok (d, m), s1) =>
    let first := ((s.run? r).map (fun e => e.outPos 0)).getD 0
    let tender := (s.run? r).any (fun e => e.verb = 6)
    if !bit m.tag 15 then (some (0x20, first), s1.laneMismatch r c first 4 tender)
    else if tagG m.tag ≠ g then (some (0x20, first), s1.laneMismatch r c first 5 tender)
    else (none, s1.modRun r (fun e => { e with vecs := e.vecs.set [] (256 * c + (base + pos) % 256) d }))

/-- Read and hold blocks `0` to `n - 1` of a region for a core (R194). -/
def State.readHeld (s : State) (r : EntryRef) (c field base off n : Nat) (ex : Nat → Expect) : Option RdFail × State :=
  (List.range n).foldl (fun (f, t) j =>
    if f.isSome then (f, t)
    else match t.readReg r c field base (off + j) (ex j) with
      | (.error g, t1) => (some g, t1)
      | (.ok (d, _), t1) => (none, t1.modRun r (fun e => { e with vecs := e.vecs.set [] (256 * c + (base + off + j) % 256) d }))) (none, s)

/-- What RSC blocks carry (R194): for a layer, its rescale tensor, index and version. -/
def State.rscExpect (s : State) (r : EntryRef) (e : EntryRun) (j : Nat) : Expect :=
  match if e.verb = 1 then s.runLayer r e.prob.layer else none with
  | some (_, _, y) => { tensor := some y.trsc, index := some j, version := some e.version }
  | none => { index := some j, version := some e.version }

/-- Read and hold RSC block `j` for a core; the first fixes the table's identity (R93, R194). -/
def State.readRsc (s : State) (r : EntryRef) (c : Nat) (e : EntryRun) (ex0 : Expect) (j : Nat) : Option RdFail × State :=
  let b := (eBase e.raw 24 + j) % 256
  let (d, m) := (s.core c).actBlock b
  let id := (s.run? r).bind (fun e => e.ids.find? (fun (i : RegionId) => i.core = c && i.field = 24))
  let ex := if e.verb = 1 then ex0 else { ex0 with tensor := id.map (fun (i : RegionId) => i.tensor) }
  let s0 := s.count c 41 blk
  if (s.core c).actPoisoned b then (some (0x22, b), s0.ueEvent 4 (512 * b))
  else if checkBlock d m ex ≠ 0 then (some (0x21, b + 65536 * 24), s0.manFailRun r c b (checkBlock d m ex))
  else (none, s0.modRun r (fun e => { e with
    vecs := e.vecs.set [] (256 * c + b) d,
    ids := if e.ids.any (fun (i : RegionId) => i.core = c && i.field = 24) then e.ids else e.ids ++ [⟨c, 24, m.tensor, m.version, 0⟩] }))

/-- Read and hold what one chain stage needs before any claim: per-column AUX blocks, and the learned scale block of OUT_CODE
(R194, R455). -/
def State.readStage (s : State) (r : EntryRef) (c : Nat) (e : EntryRun) (w : Quad) : Option RdFail × State :=
  let o := 28 + 2 * (stArg w % 4)
  if stOp w = 1 || stOp w = 3 then s.readHeld r c o (eBase e.raw o) e.prob.auxOff (cdiv e.prob.n 1024) (fun _ => {})
  else if stOp w = 0xC && e.outCodes then s.readLearned r c o (eBase e.raw o) e.prob.auxOff e.outG
  else (none, s)

/-- Go on with the next read unless one has failed. -/
def firstFail {α : Type} (xs : List α) (p : Option RdFail × State) (f : State → α → Option RdFail × State) : Option RdFail × State :=
  xs.foldl (fun (p : Option RdFail × State) x => if p.1.isSome then p else f p.2 x) p

/-- Before any claim a core reads its RSC blocks, its per-column AUX blocks and the learned scale blocks the entry uses
(R93, R126, R194, R455). A core without a share writes OUT too (R185), so it reads the learned block of OUT_CODE. -/
def State.readVecs (s : State) (r : EntryRef) (c : Nat) : Option RdFail × State :=
  match s.run? r with
  | none => (none, s)
  | some e =>
    if (e.share c).isNone then firstFail (if verbChain e.verb then e.chain.filter (fun w => stOp w = 0xC) else []) (none, s) (fun t w => t.readStage r c e w)
    else
    let w7 := e.verb = 1 && (s.runLayer r e.prob.layer).any (·.2.2.w7)
    let nRsc := if tiled e.verb then cdiv e.prob.n (if w7 then 256 else 512) else 0
    let p1 := firstFail (List.range nRsc) (none, s) (fun t j => t.readRsc r c e (s.rscExpect r e j) j)
    let p2 := firstFail (if verbChain e.verb then e.chain else []) p1 (fun t w => t.readStage r c e w)
    if p2.1.isSome || e.verb ≠ 6 || e.sclMode = 2 then p2
    else p2.2.readLearned r c 22 (eBase e.raw 22) 0 (eG e.raw)

/-! ### Problems -/

/-- A problem that does not run: SKIP, a failed element, or an empty shape (R159, R161). -/
def Problem.idle (pb : Problem) (v : Nat) : Bool :=
  pb.skip || pb.fail ≠ 0 || pb.m = 0 || (verbN v && pb.n = 0) || (v = 6 && pb.k = 0)

/-- The status of bounds that are zero (R159), none otherwise; INGEST does not use N. -/
def zeroStatus (v m k n : Nat) : Option (Nat × Nat) :=
  let z := b2n (m = 0) + 2 * b2n (verbN v && n = 0)
  if z ≠ 0 then some (1, z) else if verbK v && k = 0 then some (2, 0) else none

/-- The status of an entry whose problems have all ended (R159, R161, R180). Under a pointer list the zero bounds are those of the
entry; one that the elements bring leaves OK (the spec gives the entry no other status; DEDUCED, assumption 64). -/
def EntryRun.endStatus (e : EntryRun) : Nat × Nat :=
  let bad := e.probs.zipIdx.filter (fun (p, _) => p.fail ≠ 0)
  let own (i v : Nat) : Nat := if ePlist e.raw && bit (eBsrc e.raw) i then 1 else v
  match bad, e.probs with
  | (_, i) :: _, _ => (3, i % 65536 + 65536 * satTo 0xFFFF bad.length)
  | [], p :: _ => (zeroStatus e.verb (own 0 p.m) (own 1 p.k) (own 2 p.n)).getD (0, 0)
  | [], [] => (0, 0)

/-- Start the next problem that runs, from index `i` on: shares, then the reads before any claim; with none left
the entry ends. `n` bounds the problems. -/
def State.startProblem (s : State) (r : EntryRef) (i : Nat) : Nat → State
  | 0 => s
  | n + 1 =>
    match s.run? r with
    | none => s
    | some e =>
      if e.probs.length ≤ i then s.endRun r e.endStatus.1 e.endStatus.2
      else if (e.probs.getD i e.prob).idle e.verb then s.startProblem r (i + 1) n
      else
        let e1 : EntryRun := { e with
          cur := i, outs := [], done := [], failRow := none, failRows := [], undriven := [], dynRows := [], ingested := [], held := [], gens := [],
          bfi := (s.core r.pound).bfAt e.verb (eFmt e.raw) 16 (eBase e.raw 16 + (e.probs.getD i e.prob).inOff) e.sclMode }
        let s1 := s.modRun r (fun _ => { e1 with shares := s.sharesOf r e1 })
        let (f, s2) := firstFail (s.poundCores r.pound) (none, s1) (fun t c => t.readVecs r c)
        match f with
        | some (st, dt) => s2.endRun r st dt
        | none => s2

/-- After output has been written: a finished problem gives way to the next, a failed one ends the entry. -/
def State.advance (s : State) (r : EntryRef) : State :=
  match s.run? r with
  | none => s
  | some e =>
    if e.mode = .ended || !e.probDone (s.poundCores r.pound) then s
    else if e.failRow.isSome then if e.rowsLeft then s else s.endRun r e.status e.detail
    else s.startProblem r (e.cur + 1) (e.probs.length + 1)

/-- Flush every holder, then look whether the problem is over. -/
def State.flushAll (s : State) (r : EntryRef) : State :=
  (s.each (s.poundCores r.pound) (fun t h => t.flushOut r h 257)).advance r

/-- A read for row `m` fails: no wave or product for it or any later row starts; rows already driven complete, what is complete below
it is still written, then the entry ends (R196). -/
def State.failRow (s : State) (r : EntryRef) (m : Nat) (f : RdFail) : State :=
  match s.run? r with
  | none => s
  | some e =>
    let first := e.failRow.isNone
    let gone (w : WaveReq) : Bool := w.ref = r && w.prob = e.cur && m ≤ w.row && w.kind = .orig && w.rep = 0
    let lost := (s.cores.flatMap (fun (c, x) => (x.waiting.filter gone).map (fun w => (c, w.row)))).eraseDups
    let s1 := s.modRun r (fun e => { e with
      failRows := m :: e.failRows, undriven := lost ++ e.undriven,
      failRow := some (min m (e.failRow.getD m)),
      status := if first then f.1 else e.status, detail := if first then f.2 else e.detail })
    let s2 : State := { s1 with cores := s1.cores.foldl (fun t (c, x) => t.set {} c { x with
      waiting := x.waiting.filter (fun w => !gone w) }) [] }
    s2.flushAll r

/-! ### Issue -/

/-- The service position may issue its next entry (R151, R178, R202, R207, R313, R403). -/
def State.mayIssue (s : State) (p : Nat) (n : Sentence) (fence : Bool) : Bool :=
  s.issues && (s.poundCores p).all (fun c => !(s.core c).failedCore) && (s.core p).accepting && n.next < n.nent &&
  n.failed.isNone && n.aborting.isNone && !(s.queue (s.req n.req).queue).holdsIssue && (!fence || n.runs.isEmpty)

/-- The next entry of a position as memory holds it (R150); none when it cannot be read (R166). -/
def State.entryBytes (s : State) (n : Sentence) : Option (List Byte) := s.readAny n.host (n.saddr + 64 * n.next) 64

/-- The verb that an entry's command bears: a reserved verb or an unreadable entry issues by the NOP command. -/
def verbOf (d : Option (List Byte)) : Nat :=
  match d with
  | some bs => if eVerb bs ≤ 0xE then eVerb bs else 0
  | none => 0

/-- The check level and switches of an entry (R176, R286): level applied, level requested. -/
def State.levelOf (s : State) (d : List Byte) : Nat × Nat :=
  let cfg := s.rf .chkCfg 0 1 0
  let want := if eCtrl d 13 11 = 0 then cfg else eCtrl d 13 11 - 4
  (max cfg want, want)

/-- A mechanism is active: switched on, or as the level says (R285, R286). -/
def modeOn (sw : Nat) (byLevel : Bool) : Bool := sw = 1 || (sw = 0 && byLevel)

/-- The entry as it stands at issue (R151, R158, R160, R176, R177). -/
def State.newRun (s : State) (p : Nat) (n : Sentence) (q : Request) (d : List Byte) (mode : Nat) : EntryRun :=
  let x := s.core p
  let lb := (s.listBytes d).getD []
  let chain := if verbChain (eVerb d) then x.chain (eCtrl d 29 24) else []
  let strm := eStrm d && !ePlist d
  let mask (o : Nat) : Option (List Byte) :=
    if usesMask (eVerb d) && bit (leAt d o 2) 15 then some (x.actBlock (leAt d o 2 % 256)).1 else none
  let els := chunks 32 (leAt d 6 2) lb
  let probs := if !verbBounds (eVerb d) || eVerb d = 0xC then []
    else if ePlist d then els.map (fun el => s.listProblem d (s.elemFault p q d chain mode el) el)
    else [s.oneProblem d (boundsOf d lb)]
  let (level, _) := s.levelOf d
  { idx := n.next, issueNo := u32 (x.issueNo + 1), raw := d, verb := eVerb d, chain := chain,
    rowMask := mask 36, colMask := mask 38, probs := probs, level := level,
    rangeOn := modeOn (s.rf .chkCfg 0 3 2) (1 ≤ level), resOn := modeOn (s.rf .chkCfg 0 5 4) (2 ≤ level),
    sclMode := mode, guardCfg := (s.poundCores p).foldl (fun m c => m.set 0 c (s.rd .corSguardCfg c)) [], version := q.version.getD 0, stream := if strm then eStream d else 0xFFFF, strm := strm,
    step := s.stepOf d strm (eStream d), seed := leAt d 56 8, tIssue := s.time,
    smp := s.rf .smpCfg p 4 0 ≠ 0 && u32 (x.issueNo + 1) % 2 ^ s.rf .smpCfg p 4 0 = 2 ^ s.rf .smpCfg p 4 0 - 1 }

/-- Events and counts of an entry that issues (R161, R165, R176, R182). -/
def State.issued (s : State) (r : EntryRef) (e : EntryRun) : State :=
  let (level, want) := s.levelOf e.raw
  let s1 := if want < s.rf .chkCfg 0 1 0 then s.raiseRun r (evCore 0x1004 0 r.pound (want + 256 * level)) else s
  match e.probs.zipIdx.find? (fun (pb, _) => pb.fail ≠ 0) with
  | some (pb, i) => s1.raiseRun r (evCore 0x1003 1 r.pound (i % 4096 + 65536 * pb.fail))
  | none => s1

/-- ENTRY_REJECTED, with the cause's own event (R127, R165, R291); a mask block that cannot be corrected
ends the entry with MEMORY instead (R294). -/
def State.rejected (s : State) (r : EntryRef) (q : Request) (st dt : Nat) : State :=
  if st = 0x22 then s.ueEvent 4 (512 * dt) else
  let s1 := (s.count r.pound 13 1).raiseRun r (evCore 0x1001 1 r.pound (st + 65536 * r.idx + 2 ^ 32 * q.queue))
  if st = 0x14 then (s1.flag .drnEvent r.pound 2).raiseRun r (evCore 0x2402 2 r.pound dt)
  else if st = 0x18 then
    let d := ((s.run? r).map (fun e => e.raw)).getD []
    let b := leAt d (36 + 2 * dt) 2 % 256
    let (bs, m) := (s.core r.pound).actBlock b
    s1.manFailRun r r.pound b (checkBlock bs m {})
  else s1

/-- The entry is outside the shape of the EXPRESS bound (R218, R219): cause bits. -/
def State.shapeCauses (s : State) (q : Request) (e : EntryRun) : Nat :=
  let verbs := [0, 1, 6, 7, 4, 8, 9, 0xA, 0xE]
  let n := q.ingestN + (if e.verb = 6 then (e.probs.map (fun pb => pb.m * pb.k)).sum else 0)
  let pinned := (e.probs.map (fun pb => s.ctx pb.stream)).all (fun (x : Ctx) => x.pin)
  32 * b2n (!verbs.contains e.verb || 8192 < n) + 128 * b2n (e.verb = 4 && !pinned)

/-- The empty shape of an entry without a pointer list (R159): nothing of it runs. -/
def emptyStatus (e : EntryRun) : Option (Nat × Nat) :=
  if ePlist e.raw || e.probs.isEmpty then none
  else if e.prob.idle e.verb then zeroStatus e.verb e.prob.m e.prob.k e.prob.n else none

/-- ADAPT sets PEND on its OUT blocks in every core (R292). -/
def State.pendOut (s : State) (r : EntryRef) : State :=
  match s.run? r with
  | none => s
  | some e =>
    let pends := ((e.probs.filter (fun pb => !pb.idle 4)).flatMap (fun pb =>
      (List.range (footprint (stride 4 pb.n) pb.m)).map (fun i => (eBase e.raw 18 + pb.outOff + i) % 256))).eraseDups
    (s.each (s.poundCores r.pound) (fun t c => t.modCore c (fun x => pends.foldl (fun (y : Core) b => y.setPend b true) x))).modRun r
      (fun e => { e with pends := pends })

/-- An entry reads image data (R179, assumption 24): the weights of a layer or a digital-tier tensor, or a copy of blocks that an
image of its request's version holds. -/
def State.readsImage (s : State) (q : Request) (d : List Byte) : Bool :=
  eVerb d = 1 || eVerb d = 2 || (eVerb d = 8 && !eHost d &&
    ((q.version.bind (s.model q.model).imgAt).any (fun (g, _) => g.base ≤ eAddr d && eAddr d < g.base + g.total)))

/-- A sentence reads image data, in an entry that has issued or in one still to come, as memory holds it (R179). -/
def State.sentImage (s : State) (n : Sentence) : Bool :=
  n.image || (List.range (n.nent - n.next)).any (fun i =>
    (s.readAny n.host (n.saddr + 64 * (n.next + i)) 64).any (s.readsImage (s.req n.req)))

/-- Entries other than pointer lists that name no usable context (R170, R212): ADAPT and ADAPT_UPD need one. -/
def State.noContext (s : State) (e : EntryRun) : Bool :=
  if ePlist e.raw then false
  else if eStrm e.raw then !(s.ctx (eStream e.raw)).usable
  else e.verb = 4 || e.verb = 5

/-- Issue the next entry of a position under the command of verb `v`; `start` begins its work (R151, R165). An entry samples
COR_SCL_MODE of its pound's first core: R107 says that it samples MODE, not which core's where the pound has several (DESIGN
CHOICE, assumption 62). -/
def State.issue (s : State) (p pos v : Nat) (start : State → EntryRef → State) : State :=
  match s.sent? p pos with
  | none => s
  | some n =>
    let bytes := s.entryBytes n
    let d := bytes.getD (List.replicate 64 0)
    if !s.mayIssue p n (eFence d || verbOf bytes = 0xE) || verbOf bytes ≠ v then s
    else
      let q := s.req n.req
      let r : EntryRef := ⟨p, pos, n.next⟩
      let mode := s.rf .corSclMode p 1 0
      let rej := if bytes.isNone then some (0x17, 0) else s.rejects p q d mode
      let e := s.newRun p n q d mode
      let e := if rej.isSome then { e with probs := [] } else { e with on := s.partCores r e }
      let s1 := (s.modCore p (fun x => { x with issueNo := u32 (x.issueNo + 1) })).count p 12 1
      let s2 := s1.modSent p pos (fun m => { m with next := m.next + 1, runs := m.runs ++ [e], image := m.image || s.readsImage q d })
      match rej with
      | some (st, dt) =>
        let s3 := if bytes.isNone then s2.ueRead n.host (n.saddr + 64 * n.next) 64 else if st = 0x17 then s2.ueRead false (eAddr d) 16 else s2
        (s3.rejected r q st dt).endRun r st dt
      | none =>
        let s3 := (s2.issued r e).modReq n.req (fun x => { x with
          causes := x.causes ||| (if q.cls = 0 then s.shapeCauses q e else 0),
          ingestN := x.ingestN + (if e.verb = 6 then (e.probs.map (fun pb => pb.m * pb.k)).sum else 0),
          named := x.named ++ (if ePlist d then (e.probs.map (fun pb => pb.stream)).eraseDups.filter (fun i => !x.named.contains i) else []) })
        if s.noContext e then (if e.verb = 4 then s3.pendOut r else s3).endRun r 0x26 (eStream d)
        else match emptyStatus e with
          | some (st, dt) => s3.endRun r st dt
          | none => start s3 r

/-- Work begins now (R427). -/
def State.worked (s : State) (r : EntryRef) : State :=
  s.modRun r (fun e => { e with tStart := e.tStart.orElse (fun _ => some s.time) })

end Sys2Proof.Machine
end

