-- ==== Sys2Proof/Machine/LockOps.lean ====
section
/-! DEFINITION. Installing, locking, loading sets, retry, discard (R234 to R245, R251), and the progress of a
pound under them (R238, R242, R263). -/
namespace Sys2Proof.Machine
open Sys2Proof

/-! ### Placement checks -/

/-- Two ranges of cores have a core in common. -/
def overlap (a b : Nat × Nat) : Bool := a.1 ≤ b.2 && b.1 ≤ a.2

/-- The pounds of an image's placement records, copy A (R183). -/
def Image.ranges (img : Image) : List (Nat × Nat) := (img.layers.map (fun (p : Placement) => (p.first, p.last))).eraseDups

/-- The pounds of both copies (R244). -/
def Image.allRanges (img : Image) : List (Nat × Nat) :=
  img.ranges ++ (if img.twin then img.ranges.map (fun (a, b) => (a + img.twinDelta, b + img.twinDelta)) else [])

/-- The grid of a placement record obeys R183. -/
def Placement.gridOk (p : Placement) : Bool :=
  let ni := cdiv p.kL 1024
  let nj := cdiv p.nL p.nS
  1 ≤ p.kL && p.kL ≤ 16384 && 1 ≤ p.nL && p.first ≤ p.last && p.last ≤ 127 && p.grid.length = ni * nj &&
  p.grid.all (fun (e : GridEntry) => e.slice < ni && e.setJ < nj && p.first ≤ e.core && e.core ≤ p.last && e.larr < 16 &&
    e.aExp ≤ 9 && e.bExp ≤ 17 &&
    p.grid.all (fun (f : GridEntry) => (f.setJ ≠ e.setJ || f.core = e.core))) &&
  (p.grid.map (fun (e : GridEntry) => (e.slice, e.setJ))).eraseDups.length = p.grid.length

/-- A tensor ID field of a placement record (R226, R228). -/
def tensorOk (t : Nat) : Bool := 0 < t && t < 0xFFFFFF

/-- The first layer whose placement breaks R183, R226 or R228 cause 0x3, among the image's own records. -/
def Image.placeFault (img : Image) : Option Nat :=
  let secs := img.sects.filter (fun (x : Section) => x.typ = 1)
  ((img.layers.zip secs).find? (fun ((p : Placement), (x : Section)) =>
    x.key ≠ p.layer || !p.gridOk || !(tensorOk p.tin && tensorOk p.tout && tensorOk p.trsc) ||
    (if img.reload then img.nsets ≤ p.set else p.set ≠ 0) || x.sflags ≠ p.set ||
    (img.twin && 127 < p.last + img.twinDelta) ||
    1 < (img.layers.filter (fun (q : Placement) => q.layer = p.layer)).length ||
    (p.grid.zipIdx.any (fun ((e : GridEntry), (t : Nat)) =>
      (img.sect 12 p.layer).isNone && (img.sect 2 (65536 * p.layer + t)).all (fun (y : Section) => y.len ≠ 66 * blk) ||
      img.layers.any (fun (q : Placement) => (q.set = p.set) && q.grid.zipIdx.any (fun ((f : GridEntry), (u : Nat)) =>
        (q.layer ≠ p.layer || u ≠ t) && f.core = e.core && f.larr = e.larr)))) ||
    img.ranges.any (fun r => r ≠ (p.first, p.last) && overlap r (p.first, p.last)) ||
    (img.twin && img.ranges.any (fun r => overlap (r.1 + img.twinDelta, r.2 + img.twinDelta) (p.first, p.last))))).map
      (fun ((p : Placement), _) => p.layer)

/-- The first section whose SET the image does not have (R228): its directory index. -/
def Image.setFault (img : Image) : Option Nat :=
  (img.sects.zipIdx.find? (fun ((x : Section), _) => x.typ < 0x8000 &&
    (if img.reload then img.nsets ≤ x.sflags else x.sflags ≠ 0))).map (·.2)

/-- Layers of an image that meet a condition on their cores. -/
def Image.layerWhere (img : Image) (bad : Placement → Bool) : Option Nat := (img.layers.find? bad).map (fun (p : Placement) => p.layer)

/-- The first layer that uses a core of another installed model (R228). -/
def State.foreign (s : State) (m : Nat) (img : Image) : Option Nat :=
  let taken := (s.models.filter (fun e => e.1 ≠ m && e.2.mst ≠ .absent)).flatMap (fun e => e.2.pounds.map (fun (p : PoundLock) => (p.first, p.last)))
  img.layerWhere (fun p => taken.any (fun r => overlap r (p.first, p.last) ||
    (img.twin && overlap r (p.first + img.twinDelta, p.last + img.twinDelta))))

/-- The first layer whose pound differs from the installed version's (R228). A pound that the installed version
lacks differs too (assumption 19). -/
def Model.moved (m : Model) (img : Image) : Option Nat :=
  match m.cur with
  | none => none
  | some old =>
    if old.twin ≠ img.twin || (img.twin && old.twinDelta ≠ img.twinDelta) then img.layerWhere (fun _ => true)
    else img.layerWhere (fun p =>
      old.layers.any (fun (q : Placement) => q.layer = p.layer && (q.first, q.last) ≠ (p.first, p.last)) ||
      !old.ranges.contains (p.first, p.last))

/-- A CARRY section that R228 cause 0x6 refuses: its layer. -/
def Model.badCarry (m : Model) (img : Image) : Option Nat :=
  img.carried.find? (fun l => match m.cur with
    | none => true
    | some old => old.version ≠ img.prev || !old.layers.any (fun (q : Placement) => q.layer = l))

/-- The image with the placements of the layers it carries (R225): each stays as the installed version has it. -/
def Image.withCarried (img : Image) (old : Option Image) : Image :=
  { img with layers := img.layers ++ img.carried.filterMap (fun l =>
      if img.layers.any (fun (q : Placement) => q.layer = l) then none
      else old.bind (fun o => o.layers.find? (fun (q : Placement) => q.layer = l))) }

/-- The first layer with an array that a layer carried from the installed version holds (R183, R228). -/
def Image.carryClash (img : Image) (old : Option Image) : Option Nat :=
  img.layerWhere (fun p => (img.withCarried old).layers.any (fun (q : Placement) => q.layer ≠ p.layer && q.set = p.set &&
    q.grid.any (fun (f : GridEntry) => p.grid.any (fun (e : GridEntry) => f.core = e.core && f.larr = e.larr))))

/-- The image an INSTALL or LOCK takes, or the first RESULT that applies (R228). -/
def State.imgAccept (s : State) (m : Nat) (lock : Bool) (st : Bool) : Except ImgErr Image :=
  let x := s.model m
  let staged := decide (x.sst = .staged)
  match s.imgVerify s.stage with
  | .error e => if e.result = 1 then .error e
      else if e.result = 7 && staged then if st then .error e else .error ⟨5, 0, none⟩
      else if staged then .error e else .error ⟨2, 0, e.bad⟩
  | .ok img =>
    if img.model ≠ m then .error ⟨1, 0, none⟩
    else if !staged then .error ⟨2, 0, none⟩
    else match ((img.placeFault.orElse (fun _ => img.setFault)).orElse (fun _ => s.foreign m img)).orElse
        (fun _ => if lock then (x.moved img).orElse (fun _ => img.carryClash x.cur) else none) with
      | some l => .error ⟨3, l, none⟩
      | none =>
        if lock && x.cur.any (fun c => img.version ≤ c.version) then .error ⟨4, 0, none⟩
        else if !st then .error ⟨5, 0, none⟩
        else match x.badCarry img with
          | some l => .error ⟨6, l, none⟩
          | none => .ok img

/-! ### Tiles of a pound -/

/-- One tile: placement, grid index, grid entry, and the core that holds it in the pound's copy. -/
abbrev Tile := Placement × Nat × GridEntry × Nat

/-- The tiles of a pound at an image and set, in ascending layer and grid order (R234). A carried layer keeps the
placement of the version it comes from. -/
def Image.tiles (img : Image) (old : Option Image) (p : PoundLock) (set : Nat) : List Tile :=
  let d := if p.copyB then img.twinDelta else 0
  let kept := img.carried.filterMap (fun l => if img.layers.any (fun (q : Placement) => q.layer = l) then none
    else old.bind (fun o => o.layers.find? (fun (q : Placement) => q.layer = l)))
  let ls := (img.layers ++ kept).filter (fun (q : Placement) => q.first + d = p.first && (!img.reload || q.set = set))
  (sortBy ls (fun a b => a.layer ≤ b.layer)).flatMap (fun q => q.grid.zipIdx.map (fun (e, t) => (q, t, e, e.core + d)))

/-- The tiles a lock programs in a pound: those of layers that change (R238, R251). -/
def Image.changed (img : Image) (old : Option Image) (p : PoundLock) (set : Nat) : List Tile :=
  (img.tiles old p set).filter (fun (q, _, _, _) => !img.carried.contains q.layer)

/-- The image a pound is filling to or runs at: the next one while its model has one, else the current. -/
def Model.goal (m : Model) : Option Image := m.next.orElse (fun _ => m.cur)

/-- The set a pound is filling to. -/
def Model.goalSet (m : Model) : Nat := if m.next.isSome then m.nextSet else m.set

/-- The goal's reference copy is present. -/
def Model.goalRef (m : Model) : Bool := if m.next.isSome then m.refNext else m.refCur

/-- One pound of a model, by its first core. -/
def Model.pound (m : Model) (p : Nat) : Option PoundLock := m.pounds.find? (fun q => q.first = p)

/-- Change one pound of a model. -/
def State.modLock (s : State) (m p : Nat) (f : PoundLock → PoundLock) : State :=
  s.modModel m (fun x => { x with pounds := x.pounds.map (fun q => if q.first = p then f q else q) })

/-- The lock record is stored whenever it changes (R243). -/
def State.lockStore (s : State) : State := s.storeNow 2

/-- An event of a pound: its first core in the location (R254). -/
def evPound (code sev p detail : Nat) : Event := evCore code sev p detail

/-! ### Stalls and failures -/

/-- A pound enters STALLED (R235, R242). -/
def State.stallPound (s : State) (m p c l : Nat) : State :=
  let x := s.model m
  let s1 := s.modModel m (fun y => { y with mst := .stalled, prior := if x.mst = .stalled then x.prior else x.mst })
  ((s1.modLock m p (fun q => { q with st := .stalled })).lockStore).imgRaise 9 (evPound 0x6015 2 p (c + 256 * l))

/-- The tile of a pound that a core's logical array holds at the goal. -/
def State.goalTile (s : State) (m : Nat) (p : PoundLock) (c l : Nat) : Option Tile :=
  let x := s.model m
  x.goal.bind (fun img => (img.tiles x.cur p x.goalSet).find? (fun (_, _, e, k) => k = c && e.larr = l))

/-- A program job of a pound failed, or an array failed opening calibration twice (R242): the spare stands in, or
the pound stalls. -/
def State.fillFailed (s : State) (m p c l : Nat) : State :=
  match (s.model m).pound p with
  | none => s
  | some q =>
    let x := s.core c
    let mark (t : State) : State := t.modLock m p (fun q => { q with failed := if q.failed.contains (c, l) then q.failed else q.failed ++ [(c, l)] })
    if x.noSpare || q.sub.any (fun e => e.1 = c) || x.autoFor.isSome || s.cannotStart (arrId c x.spare) then
      let t := mark s
      if q.st = .stalled then t else t.stallPound m p c l
    else
      match s.goalTile m q c l, (s.model m).goal with
      | some (pl, t, e, _), some img =>
        ((s.startTile img pl.layer t e 2 (arrId c x.spare) false false).modCore c
          (fun y => { y with rotating := false, replayOn := false })).modLock m p
          (fun q => { q with sub := q.sub ++ [(c, l)], calFails := q.calFails.erase (arrId c l) })
      | _, _ => s

/-- The physical array that is being made ready for logical array `l` of a core in a filling pound (R242). -/
def State.fillArr (s : State) (q : PoundLock) (c l : Nat) : Nat :=
  if q.sub.contains (c, l) then arrId c (s.core c).spare else s.larr c l

/-! ### Opening -/

/-- Load the bounds of a tile into the check unit of its core (R301). -/
def State.loadBounds (s : State) (img : Image) (ref : Bool) (tl : Tile) : State :=
  let (pl, t, e, c) := tl
  let n := cdiv pl.nL 512
  let blkOf (i : Nat) : Option (List Byte) := if ref then s.sectData img 7 pl.layer i else none
  let ra := blkOf (n + 2 * t)
  let rb := blkOf (n + 2 * t + 1)
  let s1 := s.modCore c (fun x =>
    match ra, rb with
    | some a, some b => { x with
        residA := (List.range 1024).foldl (fun m r => m.set 0 (1024 * e.larr + r) (sext 16 (leAt a (2 * r) 2))) x.residA,
        residB := (List.range 1024).foldl (fun m r => m.set 0 (1024 * e.larr + r) (sext 32 (leAt b (4 * r) 4))) x.residB,
        residOf := e.larr :: x.residOf.filter (· ≠ e.larr) }
    | _, _ => { x with residOf := x.residOf.filter (· ≠ e.larr) })
  let cols := ((List.range pl.nS).map (pl.nS * e.setJ + ·)).filter (· < pl.nL)
  s1.modCore c (fun x => { x with ranges := cols.foldl (fun m col =>
    let k := 2 * (65536 * pl.layer + col)
    match blkOf (col / 512) with
    | some d => (m.insert k (fp32At d (8 * (col % 512)))).insert (k + 1) (fp32At d (8 * (col % 512) + 4))
    | none => (m.erase k).erase (k + 1)) x.ranges })

/-- A sentence of a batch or request that is bound to a version may go on; the count for R244. -/
def State.admittedOn (s : State) (m : Nat) (copyB : Bool) : Nat :=
  (s.reqs.filter (fun e => e.2.live && e.2.model = m && !e.2.admitted.isEmpty && e.2.copyB = copyB)).length

/-- The model's states advance once every pound is open (R235, R245). -/
def State.lockAdvance (s : State) (m : Nat) : State :=
  let x := s.model m
  let at_ (q : PoundLock) : Bool := decide (q.st = .open_) && x.goal.any (fun g => g.version = q.version) &&
    q.setNo = x.goalSet
  let all := x.pounds.all at_
  let copyB := (x.pounds.filter (·.copyB)).all at_
  if x.mst = .installing && all then
    ((s.modModel m (fun y => { y with mst := .serving })).lockStore).imgRaise 4
      (evModel 0x6010 0 m ((x.cur.map (fun (i : Image) => i.version)).getD 0))
  else if x.mst = .locking && all then
    let v := (x.next.map (fun (i : Image) => i.version)).getD 0
    ((s.modModel m (fun y => { y with
      mst := .serving, tst := .both, cur := y.next, next := none, refCur := y.refNext, refNext := false, set := y.nextSet, nextSet := 0,
      hold := false })).lockStore).imgRaise 8
      (evModel 0x6014 0 m v)
  else if x.mst = .loadingSet && all then
    ((s.modModel m (fun y => { y with
      mst := .serving, next := none, refCur := y.refNext, refNext := false, set := y.nextSet, nextSet := 0 })).lockStore).imgRaise 11
      (evModel 0x6017 0 m x.nextSet)
  else if x.mst = .locking && x.tst = .fillB && copyB then
    let v := (x.next.map (fun (i : Image) => i.version)).getD 0
    ((s.modModel m (fun y => { y with
      tst := .fillA, pounds := y.pounds.map (fun q => if q.copyB then q else { q with st := .closing }) })).lockStore).imgRaise 10
      (evModel 0x6016 0 m v)
  else s

/-- A pound opens at the goal: spares stand in, arrays serve, bounds are loaded (R234, R238, R242, R301). -/
def State.openPound (s : State) (m p : Nat) : State :=
  match (s.model m).pound p, (s.model m).goal with
  | some q, some img =>
    let x := s.model m
    let inst := (x.mst = .installing) || (x.mst = .stalled && x.prior = .installing)
    let tiles := if inst || x.goal = x.cur then img.tiles none q x.goalSet else img.changed x.cur q x.goalSet
    let s1 := s.each q.sub (fun t (c, l) => t.substitute c l)
    let s2 := s1.each tiles (fun t (_, _, e, c) => (t.serve c e.larr))
    let s3 := s2.each tiles (fun t tl => t.loadBounds img x.goalRef tl)
    let s4 := s3.each (tiles.map (fun (_, _, e, c) => (c, e.larr))) (fun t (c, l) => (t.calReload c l).calBegin c (minArr (t.setOf c l)))
    let s5 := (s4.modLock m p (fun q => { q with
      st := .open_, version := img.version, setNo := x.goalSet, arrays := [], failed := [], calFails := [], sub := [] })).lockStore
    let s6 := if inst then s5
      else s5.imgRaise 7 (evPound 0x6013 0 p (b2n tiles.isEmpty + 2 ^ 32 * img.version))
    s6.lockAdvance m
  | _, _ => s

/-- Start the jobs of a pound (R234, R238): its arrays still to come. -/
def State.fillPound (s : State) (m p : Nat) (scope : Nat) (tiles : List Tile) (resume : Bool) : State :=
  match (s.model m).pound p, (s.model m).goal with
  | some _, some img =>
    let s1 := s.modLock m p (fun q => { q with
      st := .filling, arrays := tiles.map (fun (_, _, e, c) => (c, e.larr)), failed := [], calFails := [], sub := [] })
    let s2 := s1.each tiles (fun t (pl, k, e, c) =>
      let a := t.larr c e.larr
      let t1 := t.unserve c e.larr
      let part := resume && (t1.arr a).st = .partial_
      if resume && (t1.arr a).st = .ready && t1.rd .arrVersion a = img.version then t1
      else if t1.cannotStart a then t1.fillFailed m p c e.larr
      else t1.startTile img pl.layer k e scope a part false)
    if tiles.isEmpty then s2.openPound m p else s2.lockStore
  | _, _ => s

/-! ### Commands -/

/-- The pounds of an image, as an installation or a lock starts them (R183, R244). -/
def Image.poundLocks (img : Image) : List PoundLock :=
  let mk (b : Bool) (r : Nat × Nat) : PoundLock := { first := r.1, last := r.2, copyB := b, st := .filling, version := 0 }
  let a := img.ranges.map (mk false)
  a ++ (if img.twin then img.ranges.map (fun (x, y) => mk true (x + img.twinDelta, y + img.twinDelta)) else [])

/-- INSTALL (R234, R235); until READY it is refused with RESULT 0x5 (R396). Jobs start in ascending layer and grid order over all pounds;
a pound with no tile in set 0 has none and serves at once (R251). -/
def State.imgInstall (s : State) : State :=
  let m := s.imgSel
  let x := s.model m
  match s.imgAccept m false (s.up && x.mst = .absent) with
  | .error e => s.imgRefuse m e
  | .ok img =>
    let s1 := s.modModel m (fun y => { y with
      mst := .installing, cur := some (s.withStats img none), next := none, refCur := true, refNext := false, set := 0, nextSet := 0,
      tst := .both, hold := false, pounds := img.poundLocks })
    let s2 := s1.each img.poundLocks (fun t q => t.modLock m q.first (fun q => { q with
      arrays := (img.tiles none q 0).map (fun (_, _, e, c) => (c, e.larr)) }))
    let order := sortBy (img.poundLocks.flatMap (fun q => (img.tiles none q 0).map (fun tl => (q.first, tl))))
      (fun a b => a.2.1.layer ≤ b.2.1.layer)
    let s3 := s2.each order (fun t (p, pl, k, e, c) =>
      if t.cannotStart (t.larr c e.larr) then t.fillFailed m p c e.larr
      else t.startTile img pl.layer k e 2 (t.larr c e.larr) false false)
    let s4 := s3.each img.poundLocks (fun t q => if (img.tiles none q 0).isEmpty then t.openPound m q.first else t)
    (s4.lockStore).imgResult 0

/-- The pounds a lock reaches at its acceptance close (R238, R245). -/
def State.closePounds (s : State) (m : Nat) (who : PoundLock → Bool) : State :=
  s.modModel m (fun y => { y with pounds := y.pounds.map (fun q => if who q then { q with st := .closing } else q) })

/-- LOCK (R235, R238, R245). -/
def State.imgLock (s : State) (hold : Bool) : State :=
  let m := s.imgSel
  let x := s.model m
  match s.imgAccept m true (s.up && x.mst = .serving) with
  | .error e => s.imgRefuse m e
  | .ok img =>
    let s1 := s.modModel m (fun y => { y with
      mst := .locking, next := some (s.withStats (img.withCarried x.cur) x.cur), refNext := true, nextSet := 0, hold := hold, tst := if img.twin then .fillB else .both })
    let s2 := (s1.closePounds m (fun q => q.copyB || !img.twin)).lockStore
    (s2.imgRaise 5 (evModel 0x6011 0 m ((x.cur.map (fun (i : Image) => i.version)).getD 0 + 2 ^ 32 * img.version))).imgResult 0

/-- LOAD_SET (R251). -/
def State.imgLoadSet (s : State) (set : Nat) : State :=
  let m := s.imgSel
  let x := s.model m
  match x.cur with
  | some img =>
    if !s.up || x.mst ≠ .serving then s.imgResult 5
    else if !img.reload || img.nsets ≤ set then s.imgResult 1
    else
      let s1 := s.modModel m (fun y => { y with mst := .loadingSet, next := some img, refNext := y.refCur, nextSet := set, hold := false })
      ((s1.closePounds m (fun _ => true)).lockStore).imgResult 0
  | none => s.imgResult 5

/-- The tiles that a lock or LOAD_SET programs in a pound (R238, R251). -/
def Model.lockTiles (x : Model) (img : Image) (q : PoundLock) : List Tile :=
  if x.mst = .loadingSet then img.tiles none q x.nextSet else img.changed x.cur q x.nextSet

/-- The arrays of a pound that a changed layer uses at V or at V' (R238); for LOAD_SET those of both sets (R251). -/
def Model.lockArrays (x : Model) (img : Image) (q : PoundLock) : List (Nat × Nat) :=
  let olds := match x.cur with
    | some o => (o.tiles none q x.set).filter (fun (pl, _, _, _) => x.mst = .loadingSet || !img.carried.contains pl.layer)
    | none => []
  ((olds ++ x.lockTiles img q).map (fun (_, _, e, c) => (c, e.larr))).eraseDups

/-- A pound that nothing of V can reach leaves V (R238): it opens at once when no layer changes, else its arrays leave service and its
jobs start. `resume` is RETRY after a power failure (R243); LOCK_POUND_CLOSED is raised unless the pound was FILLING already. -/
def State.leaveV (s : State) (m : Nat) (q : PoundLock) (img : Image) (resume : Bool) : State :=
  let x := s.model m
  let p := q.first
  let tiles := x.lockTiles img q
  let names := x.lockArrays img q
  if names.isEmpty then
    (((s.modLock m p (fun q => { q with st := .open_, version := img.version, setNo := x.nextSet })).lockStore).imgRaise 7
      (evPound 0x6013 0 p (1 + 2 ^ 32 * img.version))).lockAdvance m
  else
    let was := decide (q.st = .filling) || decide (q.st = .stalled)
    let s1 := if was then s else s.imgRaise 6 (evPound 0x6012 0 p (tiles.length + 2 ^ 32 * img.version))
    (s1.each names (fun t (c, l) => t.unserve c l)).fillPound m p 0 tiles resume

/-- RETRY (R235, R238, R243). -/
def State.imgRetry (s : State) : State :=
  let m := s.imgSel
  let x := s.model m
  if !s.up then s.imgResult 5
  else if x.mst = .stalled then
    let s1 := s.modModel m (fun y => { y with mst := x.prior })
    let s2 := s1.each (x.pounds.filter (fun q => q.st = .stalled)) (fun t q =>
      let t1 := t.modLock m q.first (fun q => { q with st := .filling, failed := [], calFails := [] })
      t1.each q.failed (fun u (c, l) =>
        match u.goalTile m q c l, x.goal with
        | some (pl, k, e, _), some img =>
          let a := u.fillArr q c l
          if u.cannotStart a then u.fillFailed m q.first c l
          else u.startTile img pl.layer k e (if x.prior = .installing || q.sub.contains (c, l) then 2 else 0) a false false
        | _, _ => u))
    (s2.lockStore).imgResult 0
  else if x.mst = .incomplete then
    let s1 := s.modModel m (fun y => { y with mst := x.prior })
    let late := x.pounds.filter (fun q => !(q.st = .open_ && x.goal.any (fun g => g.version = q.version) && q.setNo = x.goalSet))
    let late := if x.tst = .fillB then late.filter (·.copyB) else late
    let s2 := s1.each late (fun t q =>
      match x.goal with
      | some img => if x.prior = .installing then t.fillPound m q.first 2 (img.tiles none q x.goalSet) true else t.leaveV m q img true
      | none => t)
    ((s2.lockStore).lockAdvance m).imgResult 0
  else s.imgResult 5

/-- RELEASE_HOLD (R241). -/
def State.imgReleaseHold (s : State) : State :=
  let m := s.imgSel
  if (s.model m).mst = .locking || (s.model m).mst = .stalled then
    ((s.modModel m (fun y => { y with hold := false })).lockStore).imgResult 0
  else s.imgResult 5

/-- RESTAGE_REF (R230): the staged image whose digest is the one recorded becomes a reference copy again. -/
def State.imgRestage (s : State) : State :=
  let m := s.imgSel
  let x := s.model m
  if x.mst = .absent then s.imgResult 5
  else if x.sst ≠ .staged then s.imgRefuse m ⟨2, 0, none⟩
  else match s.imgVerify s.stage with
    | .error e => s.imgRefuse m e
    | .ok img =>
      let isCur := x.cur.any (fun c => c.digest = img.digest)
      let isNext := x.next.any (fun c => c.digest = img.digest)
      if !isCur && !isNext then s.imgRefuse m ⟨2, 0, none⟩
      else
        let put (o : Option Image) (b : Bool) : Option Image := if b then o.map (fun c => { c with base := img.base }) else o
        ((s.modModel m (fun y => { y with
          cur := put y.cur isCur, next := put y.next isNext, refCur := y.refCur || isCur, refNext := y.refNext || isNext })).autoAgain).imgResult 0

/-! ### Copies and versions -/

/-- The reload set new requests are bound to (R251). -/
def Model.issueSet (m : Model) : Nat :=
  match m.next with
  | some i => if i.twin && m.tst = .fillB then m.set else m.nextSet
  | none => m.set

/-- The arrays of one copy at a version, as core and logical array (R244). -/
def Model.copyArrays (m : Model) (v set : Nat) (copyB : Bool) : List (Nat × Nat) :=
  match m.imgAt v with
  | some (img, _) =>
    let d := if copyB then img.twinDelta else 0
    (img.layers.filter (fun (y : Placement) => !img.reload || y.set = set)).flatMap (fun y => y.grid.map (fun (e : GridEntry) => (e.core + d, e.larr)))
  | none => []

/-- The copy has a quarantined array (R311). -/
def State.copyBad (s : State) (m v set : Nat) (copyB : Bool) : Bool :=
  ((s.model m).copyArrays v set copyB).any (fun (c, l) => bit (s.core c).quar l)

/-- A pound runs a version and set, closing or not. -/
def PoundLock.at_ (q : PoundLock) (v set : Nat) : Bool :=
  (decide (q.st = .open_) || decide (q.st = .closing)) && q.version = v && q.setNo = set

/-- Every pound of a copy runs a version. -/
def Model.copyServes (m : Model) (v set : Nat) (copyB : Bool) : Bool :=
  m.pounds.any (fun q => q.copyB = copyB) && m.pounds.all (fun q => q.copyB ≠ copyB || q.at_ v set)

/-- The copy a request is bound to (R244, R245, R311): the one with fewer requests, copy A on a tie. True for copy B. -/
def State.copyPick (s : State) (m v set : Nat) : Bool :=
  let x := s.model m
  if !(x.imgAt v).any (fun g => g.1.twin) then false
  else match x.tst with
    | .fillB => false
    | .fillA => x.next.any (fun g => g.version = v)
    | .both =>
      let a := x.copyServes v set false
      let b := x.copyServes v set true
      if !b then false
      else if !a then true
      else if s.copyBad m v set false ≠ s.copyBad m v set true then s.copyBad m v set false
      else s.admittedOn m true < s.admittedOn m false

/-! ### Progress -/

/-- A request counts as able to reach a pound of a lock (R236, R237, R241, R251): one of a bound batch too that still waits in its first
basin, where the pound of its copy takes it. -/
def State.reaches (s : State) (m : Nat) (q : PoundLock) (r : Nat) : Bool :=
  let x := s.req r
  let mdl := s.model m
  let bound := s.bound.get 0 x.batch
  let (v, set) := match x.version with
    | some v => (some v, x.setNo)
    | none => (s.batchVersion x.batch, bound % 16)
  let old := v = some q.version && set = q.setNo
  let copyB := if x.version.isSome then x.copyB else s.copyPick m (v.getD 0) set
  let first := x.version.isNone && mdl.firstPound.any (fun f => (s.pound f).basin.any (fun b => b.req = r) &&
    f + (if copyB then (mdl.cur.map (fun (i : Image) => i.twinDelta)).getD 0 else 0) = q.first)
  let here := first || (s.pound q.first).basin.any (fun b => b.req = r) || (s.pound q.first).service.any (fun e => e.2.any (fun n => n.req = r))
  let d := if q.copyB then ((mdl.cur.map (fun (i : Image) => i.twinDelta)).getD 0) else 0
  x.live && x.model = m && old && (copyB = q.copyB) && (here || x.route.any (fun e => !e.started && e.core + d = q.first))

/-- The pound receives requests from another device: an ingress route record of the model names its first core
(R241, R362). -/
def State.ingressPound (s : State) (m : Nat) (q : PoundLock) : Bool :=
  (List.range 64).any (fun i => s.srnField (routeEnt i) 0 2 = m && bit (s.srnField (routeEnt i) 2 1) 1 && s.srnField (routeEnt i) 8 1 = q.first)

/-- Requests bound to what a closing pound runs can still reach it (R237): admitted ones, unread submissions of a
bound batch, and while HOLD is set any arrival from upstream (R241). -/
def State.canReach (s : State) (m : Nat) (q : PoundLock) : Bool :=
  let mdl := s.model m
  let unread := s.queues.any (fun e => e.2.model = m && e.2.batches.any (fun b => s.bound.get 0 b.1 = 16 * q.version + q.setNo))
  s.reqs.any (fun e => s.reaches m q e.1) || (unread && !(decide (mdl.tst = .fillB) && q.copyB)) ||
  (mdl.hold && s.ingressPound m q)

/-- A closing pound that nothing of its version can reach any more leaves it (R238). Split sequences end first (R82). -/
def State.poundDrained (s : State) (m p : Nat) : State :=
  let x := s.model m
  match x.pound p, x.next with
  | some q, some img =>
    if q.st ≠ .closing || s.canReach m q || (x.lockArrays img q).any (fun (c, l) => s.splitHolds c l) then s
    else s.leaveV m q img false
  | _, _ => s

/-- A program job disappeared from an array: a filling pound, or the lockkeeper's spare, takes note (R242,
R312). -/
def State.jobEnded (s : State) (a : Nat) : State :=
  let c := a / 17
  let s1 := s.spareJobEnded a
  if (s1.arr a).job.isSome || (s1.arr a).st = .ready then s1
  else match s1.poundOf c with
    | some (m, q) =>
      match q.arrays.find? (fun (k, l) => k = c && s1.fillArr q k l = a) with
      | some (_, l) =>
        if q.st = .filling || q.st = .stalled then
          let s2 := if q.sub.contains (c, l) then s1.modLock m q.first (fun q => { q with failed := q.failed ++ [(c, l)] }) else s1
          if q.sub.contains (c, l) then (if q.st = .stalled then s2 else s2.stallPound m q.first c l) else s2.fillFailed m q.first c l
        else s1
      | none => s1
    | none => s1

/-- A command acts on the programming job of an array, and the lockkeeper takes note of a job that ended by it; without a job nothing
happens. -/
def State.onJob (s : State) (a : Nat) (f : State → State) : State :=
  if (s.arr a).job.isNone then s else (f s).jobEnded a

/-! ### Opening calibration -/

/-- Every array of a filling pound is READY at the goal's version (R234, R238). -/
def State.fillReady (s : State) (q : PoundLock) (v : Nat) : Bool :=
  q.arrays.all (fun (c, l) => let a := s.fillArr q c l; (s.arr a).st = .ready && s.rd .arrVersion a = v)

/-- What opening calibration reads of the reference copy (R263, R264): the 64 data blocks of the tile's plane with its check block, and the
CALPROBE section of its layer. -/
def State.openRefs (s : State) (img : Image) (layer t : Nat) : Option (List (List Byte) × List Byte) :=
  match s.refPlane img layer t, (img.planeAt layer t).map (fun src => s.planeRead src 65), s.sectData img 9 layer 0, s.sectData img 9 layer 1 with
  | .ok ds, some (.ok (chk, _)), some p0, some p1 => some (ds ++ [chk], p0 ++ p1)
  | _, _, _, _ => none

/-- An opening calibration of an array does not pass (R263): its cause is reported and the slot is not eligible under R145. -/
def State.openBad (s : State) (a cause : Nat) : Nat × State :=
  (cause, (s.modArr a (fun x => { x with calPass := false })).openFail a cause)

/-- An opening calibration of an array against a tile of an image (R263): 0 when it passes, else its cause. It made 512 null conversions,
512 probes and 64 couples (R420). Plane or probes that the reference copy does not give are a missing reference copy (assumption 67); the
masks of step 1 are in force when a later step fails. -/
def State.openRun (s : State) (img : Image) (layer t a : Nat) (cm : CalCodes) : Nat × State :=
  match s.openRefs img layer t with
  | none => s.openBad a 1
  | some (plane, probe) =>
    let fb := blockFb (img.statsOf layer t)
    let s0 := s.count (a / 17) 6 1152
    if !nullAgree cm then s0.openBad a 3
    else
      let s1 := s0.nullSwap a fb cm
      let x := openFit fb plane probe cm
      let cause := s.fitCause a fb cm x
      if cause ≠ 0 then s1.openBad a cause
      else
        let (rho, k) := s.openFactors a fb cm x
        (0, (s1.setFactors a rho k false).modArr a (fun y => { y with lastGood := s.time }))

/-- Opening calibration of an array of a filling pound ends (R234, R238, R242). -/
def State.fillCal (s : State) (m : Nat) (q : PoundLock) (c l a : Nat) (cm : CalCodes) : State :=
  let x := s.model m
  match s.goalTile m q c l, x.goal with
  | some (pl, t, _, _), some img =>
    if !x.goalRef || !s.fillReady q img.version then s else
    let (cause, s1) := s.openRun img pl.layer t a cm
    if cause = 0 then
      let rest := q.arrays.filter (· ≠ (c, l))
      let s2 := s1.modLock m q.first (fun q => { q with arrays := rest })
      if rest.isEmpty then s2.openPound m q.first else s2
    else
      let n := q.calFails.get 0 (arrId c l) + 1
      let s2 := s1.modLock m q.first (fun q => { q with calFails := q.calFails.set 0 (arrId c l) n })
      if n < 2 then s2
      else if q.sub.contains (c, l) then
        (s2.modLock m q.first (fun q => { q with failed := q.failed ++ [(c, l)] })).stallPound m q.first c l
      else s2.fillFailed m q.first c l
  | _, _ => s

/-- Opening calibration of the spare for the lockkeeper ends: an automatic substitution or a rotation (R305,
R312). -/
def State.spareCal (s : State) (c l : Nat) (auto : Bool) (cm : CalCodes) : State :=
  let x := s.core c
  let a := arrId c x.spare
  match s.holder c l (s.larr c l) with
  | some h =>
    if !h.ref || (s.arr a).st ≠ .ready then s else
    let (cause, s1) := s.openRun h.img h.pl.layer h.idx a cm
    if cause = 0 then
      if auto then (s1.modCore c (fun y => { y with autoFor := none })).spareCommit c
      else s1.modCore c (fun y => { y with replayOn := true, rotSince := s.time })
    else
      let n := x.openTries.get 0 x.spare + 1
      let s2 := s1.modCore c (fun y => { y with openTries := y.openTries.set 0 y.spare n })
      if auto && 2 ≤ n then (s2.modCore c (fun y => { y with autoFor := none })).noSpareFor c l x.spare else s2
  | none => s

/-- A commanded opening calibration ends (R263): COR_CAL_OPEN_RESULT. -/
def State.openResult (s : State) (c sl cause : Nat) : State :=
  (s.modCore c (fun x => { x with openings := x.openings.filter (· ≠ sl) })).wr .corCalOpenResult c 0
    (1 + 2 * b2n (cause = 0) + 4 * cause + 256 * sl)

/-- The logical array and holder a commanded OPEN calibrates a slot against (R263). -/
def State.openHolder (s : State) (c sl : Nat) : Option (Nat × Holder) :=
  let x := s.core c
  let l := if !x.noSpare && x.spare = sl then some (s.rf .corSpareCtrl c 3 0) else x.logicalOf sl
  l.bind (fun l => ((s.holders c l).find? (fun h => h.ref && h.img.version = s.rd .arrVersion (arrId c sl))).map (fun h => (l, h)))

/-- A write of COR_CAL_CMD.OPEN (R263): its first two checks are made at once. -/
def State.calOpenCmd (s : State) (c sl : Nat) : State :=
  let a := arrId c sl
  if (s.arr a).st ≠ .ready then (s.openResult c sl 2).openFail a 2
  else if (s.openHolder c sl).isNone then (s.openResult c sl 1).openFail a 1
  else (s.modCore c (fun x => { x with openings := x.openings.filter (· ≠ sl) ++ [sl] })).wr .corCalOpenResult c 0 (256 * sl)

/-- An opening calibration of a physical array ends with what it measured (R263). -/
def State.openingDone (s : State) (c sl : Nat) (cm : CalCodes) : State :=
  let a := arrId c sl
  let x := s.core c
  if (s.arr a).st ≠ .ready then
    if x.openings.contains sl then (s.openResult c sl 2).openFail a 2 else s
  else if x.openings.contains sl then
    match s.openHolder c sl with
    | none => (s.openResult c sl 1).openFail a 1
    | some (_, h) =>
      let (cause, s1) := s.openRun h.img h.pl.layer h.idx a cm
      s1.openResult c sl cause
  else match (s.poundOf c).bind (fun (m, q) => if q.st = .filling then
      (q.arrays.find? (fun (k, l) => k = c && s.fillArr q k l = a)).map (fun (_, l) => (m, q, l)) else none) with
    | some (m, q, l) => s.fillCal m q c l a cm
    | none =>
      if x.noSpare || x.spare ≠ sl then s
      else match x.autoFor with
        | some l => s.spareCal c l true cm
        | none => if x.rotating && !x.replayOn then s.spareCal c x.rotTarget false cm else s

/-! ### Status -/

/-- MSTATE (R253). -/
def MSt.num : MSt → Nat
  | .absent => 0 | .installing => 1 | .serving => 2 | .locking => 3 | .loadingSet => 4 | .stalled => 5 | .incomplete => 6

/-- SSTATE (R253). -/
def SSt.num : SSt → Nat
  | .idle => 0 | .receiving => 1 | .staged => 2 | .bad => 3

/-- TSTATE (R253). -/
def TSt.num : TSt → Nat
  | .both => 0 | .fillB => 1 | .fillA => 2

/-- A model's image block is busy (R252, R253). -/
def Model.busy (m : Model) : Bool :=
  decide (m.mst = .installing) || decide (m.mst = .locking) || decide (m.mst = .loadingSet) || decide (m.mst = .stalled)

/-- IMG_STATUS.BUSY. -/
def State.imgBusy (s : State) : Bool := s.models.any (fun e => e.2.busy)

/-- IMG_STATUS of the selected model (R253). -/
def State.imgStatus (s : State) : Nat :=
  let m := s.model s.imgSel
  m.mst.num + 16 * m.sst.num + 64 * b2n (m.cur.any (fun (i : Image) => i.twin)) + 128 * b2n m.hold + 256 * m.tst.num +
    2 ^ 15 * b2n s.imgBusy + 2 ^ 16 * m.set

/-- IMG_LOCK_PROGRESS of the selected model (R253). -/
def State.lockProgress (s : State) : Nat :=
  let m := s.model s.imgSel
  let n (f : PoundLock → Bool) : Nat := (m.pounds.filter f).length
  let run := decide (m.mst ≠ .serving) && decide (m.mst ≠ .absent)
  let lockish := decide (m.mst = .locking) || ((decide (m.mst = .stalled) || decide (m.mst = .incomplete)) && decide (m.prior = .locking))
  let done (q : PoundLock) : Bool := decide (q.st = .open_) && m.goal.any (fun g => g.version = q.version) && q.setNo = m.goalSet
  let closed := n (fun q => if lockish then decide (q.st = .filling) || decide (q.st = .stalled) else !done q)
  m.pounds.length % 256 + (if run then 256 * (closed % 256) + 65536 * (n done % 256) + 2 ^ 24 * (n (fun q => q.st = .stalled) % 256) else 0)

end Sys2Proof.Machine
end

