-- ==== Sys2Proof/Machine/Nonlin.lean ====
section
/-! DEFINITION. The fixed NONLIN functions 0 to 3 (R129). Their words are the roundings of exact values; the
exponential is a Taylor sum in units of 2^-320, which leaves every one of the 4,096 table words on the side of its
rounding boundary where the exact value lies (assumption 34). -/
namespace Sys2Proof.Machine
open Sys2Proof

/-- Terms `k`, `k + 1`, … of the exponential series of `n / d`, until they vanish. -/
def expTerms (n d : Nat) : Nat → Nat → Nat → Nat
  | 0, _, _ => 0
  | fuel + 1, k, t => if t = 0 then 0 else t + expTerms n d fuel (k + 1) (t * n / (d * (k + 1)))

/-- exp(n / d) in units of 2^-320. -/
def expUnits (n d : Nat) : Nat := expTerms n d 400 0 (2 ^ 320)

/-- 1 / (1 + exp(-z)). -/
def sigmoid (z : Rat) : Rat :=
  let e : Rat := (expUnits z.num.natAbs z.den : Rat)
  if z.num < 0 then 2 ^ 320 / (e + 2 ^ 320) else e / (e + 2 ^ 320)

/-- The formulas of R129; tanh(u) is 2 × sigmoid(2u) − 1. -/
def fixedFn (f : Nat) (x : Rat) : Rat :=
  match f with
  | 0 => sigmoid x
  | 1 => 2 * sigmoid (2 * x) - 1
  | 2 => x * sigmoid x
  | _ => x * sigmoid (2 * ((79788456 : Rat) / 100000000) * (x + (44715 : Rat) / 1000000 * x * x * x))

/-- PL, QL, PH and QH of a fixed function (R129). -/
def fixedEnd (f i : Nat) : Word :=
  match f, i with
  | 0, 3 | 1, 3 => 0x3F800000
  | 1, 1 => 0xBF800000
  | 2, 2 | 3, 2 => 0x3F800000
  | _, _ => 0

/-- Word `i` of fixed function `f`: A and B of each segment in turn, then the end values (R128, R129). -/
def fixedWord (f i : Nat) : Word :=
  let x : Rat := ((i / 2 : Nat) : Rat) / 32 - 8
  if 1024 ≤ i then fixedEnd f (i - 1024)
  else if i % 2 = 0 then Fp.ofRat false (fixedFn f x)
  else Fp.ofRat false (32 * (fixedFn f (x + 1 / 32) - fixedFn f x))

end Sys2Proof.Machine
end

