-- ==== Sys2Proof/Machine/RowOps.lean ====
section
/-! DEFINITION. Token rows: reading operands (R110, R194), tender products (R97, R98), rescale (R95, R96, R255), the
suffix chain (R126 to R130) and the output stage (R99, R185). -/
namespace Sys2Proof.Machine
open Sys2Proof

/-! ### Reading a row -/

/-- Block `j` of the IN region in a core, read once per pass; a block the entry itself has written is read without the identity
check (R130, R194). -/
def State.inBlock (s : State) (r : EntryRef) (c j : Nat) : Except RdFail BlockRd × State :=
  match s.run? r with
  | none => (.error (0, 0), s)
  | some e =>
    let key := 2 ^ 16 + 256 * c + j % 256
    match e.vecs.find? key with
    | some bs => (.ok (bs.take blk, Manifest.ofBytes (bs.drop blk)), s)
    | none =>
      let tin := if e.verb = 1 then (s.runLayer r e.prob.layer).map (·.2.2.tin) else none
      match s.readReg r c 16 (eBase e.raw 16) j { tensor := tin } with
      | (.error f, s1) => (.error f, s1)
      | (.ok (d, m), s1) =>
        if tin.any (· ≠ m.tensor) && !e.written.contains (c, (eBase e.raw 16 + j) % 256) then (.error (0x21, (eBase e.raw 16 + j) % 256 + 65536 * 16), s1.manFailRun r c ((eBase e.raw 16 + j) % 256) 3)
        else (.ok (d, m), s1.modRun r (fun e => { e with vecs := e.vecs.set [] key (d ++ m.bytes) }))

/-- The scale block that serves region block `j` of IN, read once per pass, and its check against the data block
(R110, assumption 25). -/
def State.laneFor (s : State) (r : EntryRef) (c j : Nat) (dm : Manifest) (tender : Bool) : Except RdFail (List Byte) × State :=
  match s.run? r with
  | none => (.error (0, 0), s)
  | some e =>
    let key := 2 ^ 17 + 256 * c + j % 256 / 32
    let b := (eBase e.raw 22 + j / 32) % 256
    let got := (e.vecs.find? key).map (fun bs => ((bs.take blk, Manifest.ofBytes (bs.drop blk)) : BlockRd))
    let (x, s1) : Except RdFail BlockRd × State := match got with
      | some y => (.ok y, s)
      | none =>
        let (d, m) := (s.core c).actBlock b
        let s0 := s.count c 41 blk
        if (s.core c).actPoisoned b then (.error (0x22, b), s0.ueEvent 4 (512 * b))
        else if checkBlock d m {} ≠ 0 then (.error (0x21, b + 65536 * 22), s0.manFailRun r c b (checkBlock d m {}))
        else (.ok (d, m), s0.modRun r (fun e => { e with vecs := e.vecs.set [] key (d ++ m.bytes) }))
    match x with
    | .error f => (.error f, s1)
    | .ok (d, m) =>
      let bad := laneBad 32 (some (eG e.raw)) dm m
      if bad ≠ 0 then (.error (0x20, dm.index), s1.laneMismatch r c dm.index bad tender)
      else (.ok ((d.drop (128 * (dm.index % 32))).take 128), s1)

/-- Non-finite values met at requantisation or ingest (R99, R100, R113). -/
def State.nonFinite (s : State) (r : EntryRef) (c n detail : Nat) : State :=
  if n = 0 then s else
  let s1 := (s.bump .corNonfiniteCount c n).count c 25 n
  let s2 := s1.modRun r (fun e => { e with nonfin := e.nonfin + n })
  if (s.run? r).any (·.nfRaised) then s2
  else ((s2.flag .corSclEvent c 2).raiseRun r (evCore 0x2202 1 c detail)).modRun r (fun e => { e with nfRaised := true })

/-- Raw bytes of row `m` of IN, `n` from byte `x`, inside one block. -/
def State.byteRun (s : State) (r : EntryRef) (c st m x n : Nat) : Except RdFail (List Byte) × State :=
  match s.run? r with
  | none => (.error (0, 0), s)
  | some e =>
    let (j, o) := locate st m x
    match s.inBlock r c (e.prob.inOff + j) with
    | (.error f, s1) => (.error f, s1)
    | (.ok (d, _), s1) => (.ok ((d.drop o).take n), s1)

/-- Gather `n` bytes of a row from byte `lo`, a multiple of 1,024, in runs of 1,024 bytes, which no block boundary cuts. -/
def gather {α : Type} (s : State) (lo n : Nat) (f : State → Nat → Nat → Except RdFail (List α) × State) : Except RdFail (List α) × State :=
  (List.range (cdiv n 1024)).foldl (fun (acc, t) i => match acc with
    | .error e => (.error e, t)
    | .ok xs => match f t (lo + 1024 * i) (min 1024 (n - 1024 * i)) with
      | (.error e, t1) => (.error e, t1)
      | (.ok ys, t1) => (.ok (xs ++ ys), t1)) (.ok [], s)

/-- The position in IN of element `k` of row `m`, of `b` bytes, as INPUT_NONFINITE reports it at ingest (R113). -/
def inPos (b n m k off : Nat) : Nat := let (j, o) := locate (stride b n) m (b * k); 65536 * (off + j) + o / b

/-- The key of a row ingested again in a core. -/
def againKey (c m : Nat) : Nat := 2 ^ 24 * (c + 1) + m

/-- The tender ingests a row of a BF16 intermediate again: its codes, then its dynamic code (R106, R107). -/
def State.ingestAgain (s : State) (r : EntryRef) (c n m off : Nat) (bs : List Byte) : List Byte × State :=
  let xs := (List.range n).map (fun i => bf16At bs (2 * i))
  let sc := rowDyn xs
  let qs := xs.map (fun x => quant x sc)
  let nf := (qs.zipIdx.filter (fun ((_, _, b), _) => b)).map (·.2)
  let s1 := ((s.codeSat r c (qs.filter (fun (_, b, _) => b)).length).nonFinite r c nf.length (inPos 2 n m (nf.headD 0) off)).count c 20 n
  (qs.map (fun (q, _, _) => codeByte q) ++ [BitVec.ofNat 8 sc],
    ((s1.bump .corDynRowCount c 1).count c 27 1).modRun r (fun e => { e with dynUsed := true }))

/-- Row `m` of IN, a BF16 intermediate, ingested again once per pass (R107). -/
def State.againRow (s : State) (r : EntryRef) (c n m : Nat) : Except RdFail (List Byte) × State :=
  match s.run? r with
  | none => (.error (0, 0), s)
  | some e =>
    match e.vecs.find? (againKey c m) with
    | some bs => (.ok bs, s)
    | none =>
      match gather s 0 (2 * n) (fun t x k => t.byteRun r c (stride 2 n) m x k) with
      | (.error f, s1) => (.error f, s1)
      | (.ok bs, s1) =>
        let (out, s2) := s1.ingestAgain r c n m e.prob.inOff bs
        (.ok out, s2.modRun r (fun e => { e with vecs := e.vecs.set [] (againKey c m) out }))

/-- Codes and scale codes of `n` bytes from byte `x` of row `m` of IN, of `k` codes, inside one block. -/
def State.codeRun (s : State) (r : EntryRef) (c k m x n : Nat) (tender : Bool) : Except RdFail (List (Byte × Nat)) × State :=
  match s.run? r with
  | none => (.error (0, 0), s)
  | some e =>
    if e.bfi then
      match s.againRow r c k m with
      | (.error f, s1) => (.error f, s1)
      | (.ok bs, s1) => (.ok (((bs.drop x).take n).map (fun b => (b, (bs.getD k 0).toNat))), s1)
    else
    let (j, o) := locate (stride 1 k) m x
    let j := e.prob.inOff + j
    match s.inBlock r c j with
    | (.error f, s1) => (.error f, s1)
    | (.ok (d, dm), s1) =>
      match s1.laneFor r c j dm tender with
      | (.error f, s2) => (.error f, s2)
      | (.ok ln, s2) =>
        (.ok (((d.drop o).take n).zipIdx.map (fun (b, i) => (b, (ln.getD ((o + i) / gsize (eG e.raw)) 0).toNat))), s2)

/-- The values of bytes in BF16 or FP32. -/
def floats (f n : Nat) (bs : List Byte) : List Word := (List.range n).map (fun i => if f = 1 then bf16At bs (2 * i) else fp32At bs (4 * i))

/-- Elements `lo` to `lo + len - 1` of row `m` of IN, of `n` elements in format `f`: a code stands for a × s (R126, R164). Reserved
codes count where the element is consumed, as `live` says (R89, R157). -/
def State.inRow (s : State) (r : EntryRef) (c f n m lo len : Nat) (tender : Bool) (live : Nat → Bool) : Except RdFail (List Word) × State :=
  if f = 0 then
    match gather s lo len (fun t x k => t.codeRun r c n m x k tender) with
    | (.error e, s1) => (.error e, s1)
    | (.ok xs, s1) => (.ok (xs.map (fun (b, sc) => Fp.ofRat false ((actCode b).1 * scaleVal sc))),
        s1.codeSat r c (xs.zipIdx.filter (fun ((b, _), i) => live (lo + i) && (actCode b).2)).length)
  else
    match gather s (fmtBytes f * lo) (fmtBytes f * len) (fun t x k => t.byteRun r c (stride (fmtBytes f) n) m x k) with
    | (.error e, s1) => (.error e, s1)
    | (.ok bs, s1) => (.ok (floats f len bs), s1)

/-- Block `j` of DYNMUL's operand Y, which region field 4 (PARAM) names: read once per pass, before the first row that uses it
(R194). -/
def State.yBlock (s : State) (r : EntryRef) (c j : Nat) : Except RdFail (List Byte) × State :=
  match s.run? r with
  | none => (.error (0, 0), s)
  | some e =>
    let key := 2 ^ 18 + 256 * c + j % 256
    match e.vecs.find? key with
    | some bs => (.ok bs, s)
    | none =>
      match s.readReg r c 4 (eBase e.raw 4) j {} with
      | (.error g, t1) => (.error g, t1)
      | (.ok (d, _), t1) => (.ok d, t1.modRun r (fun e => { e with vecs := e.vecs.set [] key d }))

/-- Elements `lo` to `lo + len - 1` of row `n` of DYNMUL's operand Y, of `k` elements. -/
def State.yRow (s : State) (r : EntryRef) (c f k n lo len : Nat) : Except RdFail (List Word) × State :=
  match gather s (fmtBytes f * lo) (fmtBytes f * len) (fun t x b =>
      let (j, o) := locate (stride (fmtBytes f) k) n x
      match t.yBlock r c j with
      | (.error g, t1) => (.error g, t1)
      | (.ok d, t1) => (.ok ((d.drop o).take b), t1)) with
  | (.error g, s1) => (.error g, s1)
  | (.ok bs, s1) => (.ok (floats f len bs), s1)

/-- Elements `lo` to `lo + len - 1` of row `n` of DMATMUL's weight tensor, of `k` elements, as BF16 values (R97, R108, R110, R169,
assumption 26); reserved codes count where the product is not skipped (R89, R157). -/
def State.wRow (s : State) (r : EntryRef) (c k n lo len : Nat) (live : Nat → Bool) : Except RdFail (List Word) × State :=
  match s.run? r with
  | none => (.error (0, 0), s)
  | some e =>
    let wide := bit (eParam e.raw) 0
    let gd := fld (eParam e.raw) 2 1
    let st := weightStride wide k
    let per := if wide then 32 else 16
    match gather s (if wide then lo else lo / 2) (if wide then len else cdiv len 2) (fun t x b =>
        let (j, o) := locate st n x
        match t.readDevReg r c 42 e.prob.wptr j with
        | (.error g, t1) => (.error g, t1)
        | (.ok (d, dm), t1) =>
          match t1.readDevReg r c 106 e.prob.sptr (j / per) with
          | (.error g, t2) => (.error g, t2)
          | (.ok (sd, sm), t2) =>
            let bad := laneBad per (some gd) dm sm
            if bad ≠ 0 then (.error (0x20, dm.index), t2.laneMismatch r c dm.index bad true)
            else
              let slot := sd.drop (4096 / per * (dm.index % per))
              let one (b : Int) (i : Nat) : Int × Nat := (b, (slot.getD (i / gsize gd) 0).toNat)
              (.ok (((d.drop o).take b).zipIdx.flatMap (fun (b, i) =>
                if wide then [one b.toInt (o + i)]
                else [one (sext 4 (b.toNat % 16)) (2 * (o + i)), one (sext 4 (b.toNat / 16)) (2 * (o + i) + 1)])), t2)) with
    | (.error g, s1) => (.error g, s1)
    | (.ok qs, s1) =>
      let qs := qs.take len
      let res : Int := if wide then -128 else -8
      (.ok (qs.map (fun (q, sc) => expandAct (if q = res then res + 1 else q) sc)),
        s1.codeSat r c (qs.zipIdx.filter (fun ((q, _), i) => live (lo + i) && q = res)).length)

/-- The sixteen partial sums `ps` go on over the unmasked of the next reduction indices, the first of which is a multiple of 16
(R98, R157). -/
def maskPartials (ps xs ys : List Word) (live : Nat → Bool) : List Word :=
  let xy := (xs.zip ys).zipIdx.filter (fun (_, k) => live k)
  (List.range 16).map (fun i =>
    (xy.filter (fun (_, k) => k % 16 = i)).foldl (fun p ((x, y), _) => Fp.add p (Fp.mul x y)) (ps.getD i 0))

/-! ### Accumulator words -/

/-- The tile of a pass for the `k`-th group of row `m` (R188). -/
def accTile (acc g m0 m k : Nat) : Nat := (acc + g * ((m - m0) / 4) + k) % 32

/-- A pass's claim on a tile has been taken by a later entry: the entry ends (R198). -/
def State.claimLost (s : State) (r : EntryRef) (c tile : Nat) : State :=
  (s.raiseRun r (evCore 0x1102 2 c (tile + 2 ^ 32 * (s.core c).claims.get 0 tile))).endRun r 0x21 (tile + 65536 * 0x14)

/-- The first tile of a row's groups whose claim is not the entry's (R198). -/
def State.lostTile (s : State) (r : EntryRef) (c m : Nat) : Option Nat :=
  match s.run? r with
  | some e =>
    match e.share c with
    | some h =>
      let g := (h.run e.verb).length
      let acc := eBase e.raw 20 % 32 + e.prob.accOff
      if tiled e.verb then
        ((List.range g).map (accTile acc g (rowsPer g * h.tp) m)).find? (fun t => (s.core c).claims.get 0 t ≠ e.issueNo)
      else none
    | none => none
  | none => none

/-- S of an accumulator word (R118). -/
def accS (w : Quad) : Int := sext 48 (fld w.toNat 47 0)
/-- The word for a sum and its flags (R118). -/
def accWord (v : Int) (accSat clipSat : Bool) : Quad :=
  BitVec.ofNat 64 (enc 48 v + 2 ^ 48 * (v % 31).toNat + 2 ^ 53 * b2n accSat + 2 ^ 54 * b2n clipSat + 2 ^ 55)
/-- The key of a word of accumulator form (R119). -/
def accKey (tile m col : Nat) : Nat := 2048 * tile + 512 * (m % 4) + col

/-- Store partial sums in a tile (R119). -/
def Core.putPartials (x : Core) (tile t e : Nat) (ps : List Word) : Core :=
  { x with acc := (List.range 8).foldl (fun m i =>
      m.set 0 (2048 * tile + 512 * t + 8 * e + i) (BitVec.ofNat 64 ((ps.getD (2 * i) 0).toNat + 2 ^ 32 * (ps.getD (2 * i + 1) 0).toNat))) x.acc }

/-- The partial sums that a tile carries (R119). -/
def Core.partials (x : Core) (tile t e : Nat) : List Word :=
  (List.range 16).map (fun i =>
    BitVec.ofNat 32 ((x.acc.get 0 (2048 * tile + 512 * t + 8 * e + i / 2)).toNat / 2 ^ (32 * (i % 2))))

/-! ### The chain -/

/-- Word `i` of NONLIN function `f` in force for a core (R128, R129). -/
def State.nltWord (s : State) (c f i : Nat) : Word :=
  if f < 4 then fixedWord f i else (s.core c).nlt.get 0 (1028 * f + i)

/-- RNE(P × y + Q) of an end value; a zero P makes its product +0.0 (R128). -/
def endValue (p q y : Word) : Word := if Fp.isZero p then Fp.add 0 q else Fp.fma p y q

/-- NONLIN (R128). -/
def State.nonlin (s : State) (c f : Nat) (y : Word) : Word :=
  let w (i : Nat) : Word := s.nltWord c f i
  if Fp.isNaN y then Fp.qnan y y
  else if Fp.lt y 0xC1000000 then endValue (w 1024) (w 1025) y
  else if Fp.le 0x41000000 y then endValue (w 1026) (w 1027) y
  else
    let i := (Rat.floor ((Fp.toRat y + 8) * 32)).toNat
    Fp.mulAddQ (w (2 * i + 1)) (Fp.toRat y + 8 - (i : Rat) / 32) (w (2 * i))

/-- CLAMP (R126). -/
def clampStage (lo hi y : Word) : Word :=
  if Fp.isNaN y then y
  else
    let a := if Fp.lt y lo then lo else y
    if Fp.lt hi a then hi else a

/-- One element through one stage; `opnd` is the row-shaped or per-column operand (R126). -/
def State.stageVal (s : State) (c : Nat) (w : Quad) (opnd y : Word) : Word :=
  match stOp w with
  | 1 => Fp.add y opnd
  | 2 => Fp.add y opnd
  | 3 => Fp.mul y opnd
  | 4 => Fp.mul y (stImm w)
  | 5 => clampStage (stLo w) (stHi w) y
  | 6 => s.nonlin c (stArg w) y
  | 7 => Fp.add y opnd
  | _ => y

/-- An ADAPTER_ADD operand of row `m` has a block still pending (R126, R292). -/
def State.adapterWaits (s : State) (e : EntryRun) (c m : Nat) : Bool :=
  e.chain.any (fun w => stOp w = 7 &&
    ((List.range (max 1 (cdiv (stride 4 e.prob.n) blk))).any (fun i =>
      let (j, _) := locate (stride 4 e.prob.n) m (blk * i)
      ((s.core c).side.get {} ((eBase e.raw (28 + 2 * (stArg w % 4)) + e.prob.auxOff + j) % 256)).pend)))

/-- Row `m` of a row-shaped operand of a stage, `n` values (R126, R130, R186); `live` says which columns the core takes (R157). -/
def State.operandRow (s : State) (r : EntryRef) (c : Nat) (w : Quad) (m : Nat) (live : Nat → Bool) : Except RdFail (List Word) × State :=
  match s.run? r with
  | none => (.error (0, 0), s)
  | some e =>
    let n := e.prob.n
    let o := 28 + 2 * (stArg w % 4)
    let f0 := if stOp w = 7 then 2 else stArg w / 4
    let again := f0 = 0 && (s.core c).bfAt e.verb f0 o (eBase e.raw o + e.prob.auxOff) e.sclMode
    let f := if again then 1 else f0
    let st := stride (fmtBytes f) n
    let rd (t : State) (x : Nat) : Except RdFail (BlockRd × Nat × Nat) × State :=
      let (j, k) := locate st m x
      match t.readReg r c o (eBase e.raw o) (e.prob.auxOff + j) {} with
      | (.error g, t1) =>
        let failed := stOp w = 7 && ((t.core c).actBlock (eBase e.raw o + e.prob.auxOff + j)).2.tensor = failMark
        (.error (if failed then (0x28, (t.core c).failed.get 0 ((eBase e.raw o + e.prob.auxOff + j) % 256)) else g), t1)
      | (.ok d, t1) => (.ok (d, j, k), t1)
    if f ≠ 0 then
      match gather s 0 (fmtBytes f * n) (fun t x len => match rd t x with
        | (.error g, t1) => (.error g, t1)
        | (.ok ((d, _), _, k), t1) => (.ok ((d.drop k).take len), t1)) with
      | (.error g, s1) => (.error g, s1)
      | (.ok bs, s1) =>
        if again then
          let (cs, s2) := s1.ingestAgain r c n m e.prob.auxOff bs
          (.ok ((cs.take n).map (fun b => Fp.ofRat false ((actCode b).1 * scaleVal (cs.getD n 0).toNat))), s2)
        else (.ok (floats f n bs), s1)
    else
      let fp := footprint st e.prob.m
      match gather s 0 n (fun t x len => match rd t x with
        | (.error g, t1) => (.error g, t1)
        | (.ok ((d, dm), j, k), t1) =>
          match t1.readReg r c (o + 64) (eBase e.raw o + e.prob.auxOff + fp) (j / 32) {} with
          | (.error g, t2) => (.error g, t2)
          | (.ok (sd, sm), t2) =>
            let bad := laneBad 32 none dm sm
            if bad ≠ 0 then (.error (0x20, dm.index), t2.laneMismatch r c dm.index bad false)
            else
              let slot := sd.drop (128 * (dm.index % 32))
              (.ok (((d.drop k).take len).zipIdx.map (fun (b, i) => (b, (slot.getD ((k + i) / gsize (tagG dm.tag)) 0).toNat))), t2)) with
      | (.error g, s1) => (.error g, s1)
      | (.ok xs, s1) => (.ok (xs.map (fun (b, sc) => Fp.ofRat false ((actCode b).1 * scaleVal sc))),
          s1.codeSat r c (xs.zipIdx.filter (fun ((b, _), i) => live i && (actCode b).2)).length)

/-- The operands of every stage for row `m`, all read before any element is written (R130). -/
def State.operands (s : State) (r : EntryRef) (c m : Nat) (chain : List Quad) (live : Nat → Bool) : Except RdFail (List (Quad × List Word)) × State :=
  chain.foldl (fun (acc, t) w => match acc with
    | .error g => (.error g, t)
    | .ok xs =>
      if stOp w = 2 || stOp w = 7 then
        match t.operandRow r c w m live with
        | (.error g, t1) => (.error g, t1)
        | (.ok v, t1) => (.ok (xs ++ [(w, v)]), t1)
      else (.ok (xs ++ [(w, [])]), t)) (.ok [], s)

/-- A per-column operand V[c] (R126, R186). -/
def EntryRun.vecAt (e : EntryRun) (c : Nat) (w : Quad) (col : Nat) : Word :=
  fp32At (e.vecs.get [] (256 * c + (eBase e.raw (28 + 2 * (stArg w % 4)) + e.prob.auxOff + col / 1024) % 256)) (4 * (col % 1024))

/-- The bits an element leaves the output stage with, with bit 8 set for a saturated code, and whether it
saturated or was not finite (R99, R126). -/
def EntryRun.outBits (e : EntryRun) (c col : Nat) (y : Word) : Nat × Bool × Bool :=
  match outOp e.chain e.sclMode with
  | 0xC =>
    let (q, sat, nf) := quant y (e.learned c e.learnedPos (col / gsize e.outG))
    ((codeByte q).toNat + 256 * b2n sat, sat, nf)
  | 0xD =>
    let (h, sat) := Fp.outBf16 y
    (h.toNat, sat, false)
  | _ => (y.toNat, false, false)

/-- The pass of a share ends once all its rows have left the chain (R189, R190); the blocks it read are forgotten. -/
def State.passEnd (s : State) (r : EntryRef) (c : Nat) : State :=
  match s.run? r with
  | none => s
  | some e =>
    match e.share c with
    | none => s
    | some h =>
      let rows := h.rows e.verb e.prob.m
      if !h.running || !rows.all h.rowsDone.contains then s
      else
        let h1 : Share := { h with running := false, summed := false, rowsDone := [] }
        let h2 : Share := if !tiled e.verb then { h1 with finished := true }
          else if h.tp + 1 < h.tokenPasses e.verb e.prob.m then { h1 with tp := h.tp + 1 }
          else if h.cp + 1 < h.colPasses e.verb then { h1 with cp := h.cp + 1, tp := 0 } else { h1 with finished := true }
        (s.modShare r c (fun _ => h2)).modRun r (fun e => { e with
          vecs := e.vecs.filter (fun (k, _) => !((k / 256 = 256 + c) || (k / 256 = 512 + c) || (k / 256 = 1024 + c) || k / 2 ^ 24 = c + 1)) })

/-- A finished row leaves the chain of a core (R126, R130, R157): its operands are read, its elements computed and
kept for the core's own blocks; the exchange takes them to the others. -/
def State.chainRow (s : State) (r : EntryRef) (h : HeldRow) : State :=
  match s.run? r with
  | none => s
  | some e =>
    let c := h.core
    if s.adapterWaits e c h.row then s.modRun r (fun e => { e with held := h :: e.held.filter (fun x => !(x.core = c && x.row = h.row)) })
    else
      let s0 := s.modRun r (fun e => { e with held := e.held.filter (fun x => !(x.core = c && x.row = h.row)) })
      match s0.operands r c h.row e.chain (fun col => maskBit e.colMask col && h.ys.any (fun y => y.1 = col)) with
      | (.error g, s1) => s1.failRow r h.row g
      | (.ok ops, s1) =>
        let one (col : Nat) (y : Word) : Nat × Nat × Bool × Bool :=
          if !maskBit e.colMask col then (col, 0, false, false)
          else
            let z := ops.foldl (fun z (w, v) => s1.stageVal c w (if stOp w = 1 || stOp w = 3 then e.vecAt c w col else v.getD col 0) z) y
            (col, e.outBits c col z)
        let out := h.ys.map (fun (col, y) => one col y)
        let sats := (out.filter (fun (_, _, b, _) => b)).length
        let nfs := out.filter (fun (_, _, _, b) => b)
        let st := e.outStride
        let nfAt : Nat := match nfs with
          | (col, _) :: _ => let (i, o) := locate st h.row (e.outB * col); 2 ^ 63 + 2 ^ 16 * e.outPos i + o
          | [] => 0
        let stages := (e.chain.filter (fun w => stOp w ≠ 0)).length
        let s2 := ((s1.codeSat r c sats).nonFinite r c nfs.length nfAt).count c 22 (stages * cdiv h.ys.length 512)
        let live := h.flags.filter (maskBit e.colMask)
        let s3 := s2.modRun r (fun e => { e with
          satElem := e.satElem + live.length,
          outs := e.outs ++ [⟨c, c, e.cur, h.row, out.map (fun (col, v, _) => (col, v))⟩] })
        let s4 := s3.modShare r c (fun x => { x with rowsDone := h.row :: x.rowsDone })
        (s4.passEnd r c).flushAll r

/-- Copy a core's finished segment of a row to another core of the pound (R185). -/
def State.exchange (s : State) (r : EntryRef) (dst src row : Nat) : State :=
  match s.run? r with
  | none => s
  | some e =>
    if e.mode = .ended || dst = src || !(s.poundCores r.pound).contains dst then s else
    let mine := e.outs.filter (fun (o : OutSeg) => o.holder = src && o.src = src && o.prob = e.cur && o.row = row)
    let have_ := e.outs.filter (fun (o : OutSeg) => o.holder = dst && o.src = src && o.prob = e.cur && o.row = row)
    match mine.drop have_.length with
    | [] => s
    | o :: _ =>
      ((s.modRun r (fun e => { e with outs := e.outs ++ [{ o with holder := dst }] })).count src 40 (e.outB * o.vals.length)).flushAll r

/-! ### Values before the chain -/

/-- MULT and BIAS of an output column (R93). -/
def EntryRun.rescale (e : EntryRun) (c per col : Nat) : Word × Word :=
  let d := e.vecs.get [] (256 * c + (eBase e.raw 24 + col / per) % 256)
  (fp32At d (8 * (col % per)), fp32At d (8 * (col % per) + 4))

/-- A multiplier scaled by an exact rational, one rounding (R96, R255). -/
def scaleMult (m : Word) (q : Rat) : Word := if Fp.isFin m then Fp.ofRat (Fp.sgn m) (Fp.toRat m * q) else m

/-- The columns of a share's run, in ascending order: those of its sets or 64-column groups. -/
def runCols (run : List Nat) (per n : Nat) : List Nat :=
  run.flatMap (fun j => ((List.range per).map (per * j + ·)).filter (· < n))

/-- The tender adds the products of reduction indices `lo` to `lo + len - 1` of row `m` to the partial sums of a share's columns
(R97, R98, R119, R189); masked columns form none. -/
def State.kpRow (s : State) (r : EntryRef) (c m lo len : Nat) (h : Share) : Option RdFail × State :=
  match s.run? r with
  | none => (some (0, 0), s)
  | some e =>
    let pb := e.prob
    let live (k : Nat) : Bool := e.verb ≠ 2 || maskBit e.rowMask k
    let run := h.run e.verb
    let m0 := rowsPer run.length * h.tp
    match s.inRow r c (eFmt e.raw) pb.k m lo len true live with
    | (.error g, s1) => (some g, s1)
    | (.ok xs, s1) =>
      let xs := xs.map Fp.bf
      firstFail ((runCols run 64 pb.n).filter (maskBit e.colMask)) (none, s1) (fun t col =>
        match if e.verb = 2 then t.wRow r c pb.k col lo len live else t.yRow r c (eFmt e.raw) pb.k col lo len with
        | (.error g, t1) => (some g, t1)
        | (.ok ys, t1) =>
          let tile := accTile (eBase e.raw 20 % 32 + pb.accOff) run.length m0 m (run.idxOf (col / 64))
          (none, (t1.modCore c (fun z => z.putPartials tile ((m - m0) % 4) (col % 64)
            (maskPartials (z.partials tile ((m - m0) % 4) (col % 64)) xs (ys.map Fp.bf) (fun i => live (lo + i))))).count c 17 len))

/-- The reduction passes of a token pass before the last, over all its rows, whose sums the tiles carry (R189, R190). A row whose
claim is lost ends the entry (R198). -/
def State.kpEarly (s : State) (r : EntryRef) (c : Nat) : State :=
  match s.run? r with
  | none => s
  | some e =>
    match e.share c with
    | none => s
    | some h =>
      if h.summed then s else
      let s1 := s.modShare r c (fun x => { x with summed := true })
      s1.each ((List.range (cdiv e.prob.k 4096 - 1)).flatMap (fun kp => (h.rows e.verb e.prob.m).map (fun m => (kp, m)))) (fun t (kp, m) =>
        if !(t.run? r).any (fun e => e.mode = .running && e.below m) then t
        else match t.lostTile r c m with
          | some x => t.claimLost r c x
          | none => match t.kpRow r c m (4096 * kp) 4096 h with
            | (some g, t1) => t1.failRow r m g
            | (none, t1) => t1)

/-- The values after rescale of row `m` of a DMATMUL or DYNMUL share, from the sums of its last reduction pass (R95, R98, R119). -/
def State.digitalRow (s : State) (r : EntryRef) (c m : Nat) : Except RdFail (List (Nat × Word)) × State :=
  match s.run? r with
  | none => (.error (0, 0), s)
  | some e =>
    match e.share c with
    | none => (.error (0, 0), s)
    | some h =>
      let lo := 4096 * (cdiv e.prob.k 4096 - 1)
      let run := h.run e.verb
      let m0 := rowsPer run.length * h.tp
      match if e.prob.k = 0 then (none, s) else s.kpRow r c m lo (e.prob.k - lo) h with
      | (some g, s1) => (.error g, s1)
      | (none, s1) => (.ok ((runCols run 64 e.prob.n).map (fun col =>
          let (mu, bi) := e.rescale c 512 col
          let tile := accTile (eBase e.raw 20 % 32 + e.prob.accOff) run.length m0 m (run.idxOf (col / 64))
          (col, Fp.fma mu (combine16 ((s1.core c).partials tile ((m - m0) % 4) (col % 64))) bi))), s1)

end Sys2Proof.Machine
end

