-- ==== Sys2Proof/Machine/WaveOps.lean ====
section
/-! DEFINITION. The wave engine: drive values (R64 to R67), slots (R62, R63, R77), conversions (R71 to R74), clipping
and split waves (R78 to R83), replay slots (R306). -/
namespace Sys2Proof.Machine
open Sys2Proof

/-! ### Shadows -/

/-- Make a written RWS shadow the active value (R11, R12). -/
def State.applyShadow (s : State) (a : Nat) : State :=
  match s.shadows.find? a with
  | some v => { s with regs := s.regs.set (regDefault a) a v, shadows := s.shadows.erase a }
  | none => s

/-- The shadows of a core's window take effect at a wave-group boundary (R11); ARR_TRIM_CFG waits for split
sequences of its array (R82). -/
def State.boundary (s : State) (c : Nat) : State :=
  s.each ((s.shadows.map (·.1)).filter (fun a => inWin a (coreBase c) 0x20000)) (fun t a =>
    let held := (List.range 17).any (fun sl => a = Reg.arrTrimCfg.addr (arrId c sl) 0 &&
      ((t.core c).logicalOf sl).any (fun l => t.splitHolds c l))
    if held then t else t.applyShadow a)

/-! ### Drive values -/

/-- Split level as a set of rows: the rows part `idx` of level `n` drives (R79). -/
def partHas (k : WaveKind) (row : Nat) : Bool :=
  match k with
  | .part n idx => 1024 * idx / n ≤ row && row < 1024 * (idx + 1) / n
  | _ => true

/-- Draught of a set of live group scale codes (R65): none with no live group. -/
def draught (codes : List Nat) : Option Int :=
  let live := codes.filter (fun c => c / 8 ≠ 0)
  match live with
  | [] => none
  | _ =>
    let top := live.foldl max 0
    some (((top / 8 : Nat) : Int) - (if top % 8 = 0 then 15 else 14))

/-- The drive value of R66. -/
def driveVal (a : Int) (sc : Nat) (d : Int) : Int :=
  if sc / 8 = 0 then 0 else Fp.rne (a * ((8 + sc % 8 : Nat) : Rat) * Fp.pow2 (((sc / 8 : Nat) : Int) - 17 - d))

/-- Draught and drive values of a token row's slice, all rows driven (R64 to R67); none where no group is live.
The codes read as reserved are counted where they drive a row (R89). `tender` says that the tender reads them, for the
reference path (R112, R113). -/
def State.driveOf (s : State) (r : EntryRef) (c row slice : Nat) (kind : WaveKind) (tender : Bool) :
    Except RdFail (Option (Int × List Int)) × State :=
  match s.run? r with
  | none => (.error (0, 0), s)
  | some e =>
    let k := e.prob.k
    match s.codeRun r c k row (1024 * slice) (min 1024 (k - 1024 * slice)) tender with
    | (.error f, s1) => (.error f, s1)
    | (.ok xs, s1) =>
      let ys := xs.zipIdx.map (fun ((b, sc), i) => (b, sc, maskBit e.rowMask (1024 * slice + i), i))
      match draught ((ys.filter (fun (_, _, on, _) => on)).map (fun (_, sc, _, _) => sc)) with
      | none => (.ok none, s1)
      | some d =>
        let go (on : Bool) (i sc : Nat) : Bool := on && partHas kind i && sc / 8 ≠ 0
        let vals := ys.map (fun (b, sc, on, i) => if go on i sc then driveVal (actCode b).1 sc d else 0)
        let rsv := (ys.filter (fun (b, sc, on, i) => go on i sc && (actCode b).2)).length
        (.ok (some (d, padTo' vals)), s1.codeSat r c rsv)
where
  /-- 1,024 drive values; rows beyond the reduction are not driven. -/
  padTo' (xs : List Int) : List Int := xs ++ List.replicate (1024 - xs.length) 0

/-! ### Conversions -/

/-- The trim charge of a physical pair in 1/1,024 units (R31 to R33) under a trim drive word. -/
def State.trimCharge (s : State) (a fb pc trim : Nat) : Int :=
  if !bit trim 31 then 0
  else
    let m := ((s.arr a).trimActive.get 0 pc).toNat
    ((List.range 8).map (fun t =>
      if bit m t then ((2 ^ (t % 4) * fld trim (8 * fb + 4) (8 * fb) : Nat) : Int) * s.cellValue a (s.physRow a (1024 + t)) pc else 0)).sum

/-- Q_c of R71 of a physical pair, in drive-weight units (R69). -/
def State.charge (s : State) (a fb pc trim : Nat) (drive : List Int) : Rat :=
  let q := (drive.zipIdx.map (fun (d, row) => if d = 0 then 0 else d * s.cellValue a (s.physRow a row) pc)).sum
  (((q + s.trimCharge a fb pc trim + s.offset a pc) : Int) : Rat) / 1024

/-- The code of a physical pair and the state with the next free value (R73, assumption 4). -/
def State.convert (s : State) (a fb pc trim : Nat) (drive : List Int) : Int × State :=
  let n : Rat := ((Config.convNoise s.free : Int) : Rat) / 4096
  (clampI (-511) 511 (Fp.rne (s.charge a fb pc trim drive / lsbU fb + n)), { s with free := s.free + 1 })

/-- The physical pair that stands behind a number of a conversion: logical pairs 0 to 513, then the spare pairs that no
map entry uses (R38). -/
def State.convPair (s : State) (a l : Nat) : Option Nat :=
  if l < 514 then some (s.physPair a l) else if (s.freeCols a).contains (l - 514) then some l else none

/-- Convert the physical pairs 4j + i of an array, by logical pair 0 to 513, the unused spare pairs as 514 and 515
(R38, R74). -/
def State.convertAll (s : State) (a fb i trim : Nat) (drive : List Int) : List (Nat × Int) × State :=
  (List.range 516).foldl (fun (xs, t) l =>
    match t.convPair a l with
    | some pc =>
      if pc % 4 = i then
        let (v, t1) := t.convert a fb pc trim drive
        (xs ++ [(l, v)], t1)
      else (xs, t)
    | none => (xs, t)) ([], s)

/-! ### What a wave serves -/

/-- The placement of the wave's layer and the columns of its set. -/
def State.waveLayer (s : State) (w : WaveReq) : Option (Image × Bool × Placement) :=
  match s.run? w.ref with
  | some e => s.runLayer w.ref ((e.probs.getD w.prob e.prob).layer)
  | none => none

/-- An output column of the set counts: below N with its mask bit 1 (R74, R193). -/
def EntryRun.colLive (e : EntryRun) (y : Placement) (set m : Nat) : Bool :=
  m < y.nS && y.nS * set + m < e.prob.n && maskBit e.colMask (y.nS * set + m)

/-- A logical pair counts for clipping: an unmasked data pair or a check pair (R78). -/
def EntryRun.pairLive (e : EntryRun) (y : Placement) (set p : Nat) : Bool :=
  512 ≤ p || e.colLive y set (if y.w7 then p / 2 else p)

/-- The grid index of a wave's tile. -/
def Placement.tileOf (y : Placement) (slice set : Nat) : Nat :=
  y.grid.findIdx (fun (g : GridEntry) => g.slice = slice && g.setJ = set)

/-! ### The reference copy -/

/-- The weight value of row `r` in column `m` of a tile (R68). -/
def refWeight (plane : List (List Byte)) (w7 : Bool) (r m : Nat) : Int :=
  let v (p : Nat) : Int := sext 4 (nibble (plane.getD (r / 16) []) r p)
  if w7 then 8 * v (2 * m) + v (2 * m + 1) else v m

/-- Σ d × v of a column of a tile. -/
def planeSum (plane : List (List Byte)) (w7 : Bool) (drive : List Int) (m : Nat) : Int :=
  (drive.zipIdx.map (fun (d, r) => if d = 0 then 0 else d * refWeight plane w7 r m)).sum

/-- The contribution of a wave on the reference path, by column of the set (R310). -/
def refContrib (plane : List (List Byte)) (y : Placement) (drive : List Int) (delta : Int) (fb : Nat) : List Int :=
  (List.range y.nS).map (fun m => Fp.rne ((planeSum plane y.w7 drive m : Rat) * Fp.pow2 (delta + 14) / lsbU fb))

/-- The reference plane of a wave's tile, when its version has a reference copy that reads (R229, R311). -/
def State.wavePlane (s : State) (w : WaveReq) : Option (Placement × List (List Byte)) :=
  match s.waveLayer w with
  | some (img, ref, y) =>
    if !ref then none
    else match s.refPlane img y.layer (y.tileOf w.slice w.set) with
      | .ok p => some (y, p)
      | .error _ => none
  | none => none

/-! ### Handing waves over -/

/-- Hand codes to the drain. -/
def State.deliver (s : State) (c : Nat) (d : Delivery) : State := s.modCore c (fun x => { x with ready := x.ready ++ [d] })

/-- Put waves at the front of a core's waiting list (R80). -/
def State.pushFront (s : State) (c : Nat) (ws : List WaveReq) : State := s.modCore c (fun x => { x with waiting := ws ++ x.waiting })

/-- A repeat of one failed conversion (R309), not of a whole row. -/
def WaveReq.again (w : WaveReq) : Bool := w.rep = 1 || w.rep = 4

/-- Same wave, whatever its kind. -/
def WaveReq.same (a b : WaveReq) : Bool :=
  decide (a.ref = b.ref) && a.prob = b.prob && a.row = b.row && a.slice = b.slice && a.set = b.set && a.larr = b.larr

/-- The parts of a level (R79). -/
def WaveReq.parts (w : WaveReq) (n : Nat) : List WaveReq := (List.range n).map (fun i => { w with kind := .part n i, rep := 0 })

/-- The split sequence of a wave. -/
def Core.split (x : Core) (w : WaveReq) : Option SplitSeq := x.splits.find? (fun q => q.base.same w)

/-- Change the split sequence of a wave. -/
def State.modSplit (s : State) (c : Nat) (w : WaveReq) (f : SplitSeq → SplitSeq) : State :=
  s.modCore c (fun x => { x with splits := x.splits.map (fun q => if q.base.same w then f q else q) })

/-- Start a level of a split sequence: parts of the earlier level that have not been driven, their repeats and their replays
are dropped (R80). -/
def State.startLevel (s : State) (c : Nat) (w : WaveReq) (n : Nat) : State :=
  let s1 := (s.modSplit c w (fun q => { q with level := n, parts := [], final := false })).modCore c (fun x => { x with
    waiting := x.waiting.filter (fun v => !(v.same w && v.kind ≠ .orig)),
    replays := x.replays.filter (fun q => !q.orig.req.same w) })
  s1.pushFront c (w.parts n)

/-- Split level as the registers number it. -/
def levelCode (n : Nat) : Nat := n.log2

/-- The lowest of some pairs, 0 for none: "first" is by logical number (R87). -/
def lowestPair (ps : List Nat) : Nat := ps.foldl min (ps.headD 0)

/-- A split sequence, or an unsplit saturated wave, ends: counts, registers, event (R80, R81, R86, R87). -/
def State.clipEnd (s : State) (w : WaveRun) (level : Nat) (clips sat : List Nat) (w7 : Bool) : State :=
  let c := w.phys / 17
  let l := w.req.larr
  let cols := ((sat.filter (· < 512)).map (fun p => if w7 then p / 2 else p)).eraseDups.length
  let s1 := ((s.bump .wavSatCount c cols).count c 5 cols).wr .wavLastClip c 0
    (l + 16 * levelCode level + 256 * b2n (!sat.isEmpty) + 65536 * lowestPair clips + 2 ^ 31)
  if sat.isEmpty then
    (s1.flag .wavEvent c 1).raiseRun w.req.ref
      (evCore 0x2104 0 c (l + 16 * levelCode level + 65536 * clips.length + 2 ^ 32 * lowestPair clips))
  else
    (s1.flag .wavEvent c 2).raiseRun w.req.ref
      (evCore 0x2105 2 c (l + 16 * levelCode level + 65536 * sat.length + 2 ^ 32 * lowestPair sat + 2 ^ 63 * b2n (w.smax < 3)))

/-- The calibration tap takes the codes of an original wave (R266): it qualifies on a serving array at the calibrated
freeboard, with no dynamic block; unmasked pairs count, and the codes of the unused spare pairs. -/
def State.tap (s : State) (c : Nat) (w : WaveRun) (codes zeros : NMap Int) (sat : List Nat) : State :=
  match s.run? w.req.ref, s.waveLayer w.req with
  | some e, some (_, _, y) =>
    let j := (locate (stride 1 e.prob.k) w.req.row (1024 * w.req.slice)).1 + e.prob.inOff
    let dyn := e.bfi || (e.vecs.find? (2 ^ 16 + 256 * c + j % 256)).any (fun bs => bit (Manifest.ofBytes (bs.drop blk)).tag 12)
    let ok := w.fb = s.calFb c w.req.larr && !dyn && e.sclMode ≠ 2 && (s.arr w.phys).st = .serving
    s.calTap c w.req.larr (codes.filter (fun (p, _) => e.pairLive y w.req.set p)) zeros ok (sat.any (· < 512))
  | _, _ => s

/-! ### Selection for replay -/

/-- The wave is selected for replay (R306, R336): CHK3, the rotation target, replay running, the lane value. -/
def State.sampled (s : State) (c : Nat) (w : WaveReq) : Bool :=
  match s.run? w.ref with
  | some e =>
    let x := s.core c
    let f := s.rf .chkCfg 0 7 6
    let pb := e.probs.getD w.prob e.prob
    let na := 16 * c + w.larr
    let p := if ePlist e.raw then w.prob else 0
    e.level = 3 && x.replayOn && x.rotTarget = w.larr &&
      decide (lane (entrySeed e.seed pb.step) 1 ((p <<< 35) ||| (w.row <<< 11) ||| na) < 2 ^ (58 + 2 * f))
  | none => false

/-! ### Slots -/

/-- The array of a wave serves. -/
def State.waveServes (s : State) (c : Nat) (w : WaveReq) : Bool := decide ((s.arr (s.larr c w.larr)).st = .serving)

/-- A wave of a quarantined array that the tender serves on the reference path (R311), or a repeat or part of one whose
array left service after the fault. -/
def State.waveByRef (s : State) (c : Nat) (w : WaveReq) : Bool :=
  bit (s.core c).quar w.larr && s.rb .chkCfg 0 9 && (s.wavePlane w).isSome

/-- A replay has been decided and not yet been driven on the spare (R306). -/
def Core.replayDue (x : Core) (q : Replay) : Bool :=
  q.spare.isNone && !x.flying.any (fun w => w.req.kind = .replay && w.req.same q.orig.req)

/-- Waves, parts, repeats or replays wait (R63): a wave of an array that is not SERVING does not. -/
def State.someWaiting (s : State) (c : Nat) : Bool :=
  let x := s.core c
  x.waiting.any (s.waveServes c) || x.replays.any x.replayDue

/-- WAV_STATUS.BUSY (R86): conversions in progress, a split sequence, or a waiting wave. -/
def State.wavBusy (s : State) (c : Nat) : Bool :=
  let x := s.core c
  x.flying.any (fun w => w.conv < 4) || !x.splits.isEmpty || s.someWaiting c


/-- The order in which waves take slots at a group boundary (R215): EXPRESS first, then parts and repeats, then the
sentences in the order they left the basin. -/
def slotOrder (a b : WaveReq) : Bool :=
  let n (w : WaveReq) : Nat × Nat × Nat := (b2n !w.express, b2n (decide (w.kind = .orig) && w.rep = 0), w.order)
  let (a1, a2, a3) := n a
  let (b1, b2, b3) := n b
  a1 < b1 || (a1 = b1 && (a2 < b2 || (a2 = b2 && a3 ≤ b3)))

/-- The first wave of each entry on the spare raises SPARE_SUBSTITUTED (R146), and the entry's record says so. -/
def State.onSpare (s : State) (c : Nat) (w : WaveReq) : State :=
  let x := s.core c
  let s1 := match x.substRaise with
    | some (l, p, n) =>
      if l = w.larr then
        ((s.modCore c (fun x => { x with substRaise := none })).flag .corEvent c 1).raiseRun w.ref
          (evCore 0x2301 1 c (l + 256 * p + 65536 * n))
      else s
    | none => s
  if x.noSpare && x.retired.isSome && x.lastLogical = w.larr then s1.modRun w.ref (fun e => { e with spareUsed := true }) else s1

/-- The generation a row's waves carry (R272), by core, set slot and row. -/
def genKey (c set row : Nat) : Nat := 2 ^ 24 * (16 * c + set) + row

/-- A conversion was driven: the counts of the entry and the core (R86, R179, R420). -/
def State.countWave (s : State) (c : Nat) (w : WaveReq) : State :=
  match w.kind with
  | .orig => (s.count c 2 1).modRun w.ref (fun e => { e with waves := e.waves + 1 })
  | .part _ _ => ((s.count c 3 1).bump .wavSplitSlots c 1).modRun w.ref (fun e => { e with waves := e.waves + 1, splits := e.splits + 1 })
  | .replay => s.count c 9 1

/-- A wave was driven at another freeboard than its array's calibrated one (R258): the count, and CAL_FB_MISMATCH once per
entry. -/
def State.fbMiss (s : State) (c : Nat) (w : WaveReq) (fb : Nat) : State :=
  match s.statsBlock c w.larr with
  | some d =>
    let f := blockFb (some d)
    if fb = f || w.kind ≠ .orig then s else
    let s1 := s.bump .corCalFbmissCount c 1
    if (s1.run? w.ref).any (·.fbRaised) then s1
    else ((s1.flag .corCalEvent c 0x10).raiseRun w.ref (evCore 0x2505 0 c (w.larr + 16 * fb + 256 * f))).modRun w.ref
      (fun e => { e with fbRaised := true })
  | none => s

/-- Drive one wave on its array (R62 to R67): an operand that cannot be read fails its row (R196); a wave with no live
group delivers an exact 0 and takes no slot; on the reference path the whole wave is served, split or not. True when the
array was driven. -/
def State.driveWave (s : State) (c : Nat) (w : WaveReq) : Bool × State :=
  let s0 := s.modCore c (fun x => { x with waiting := x.waiting.erase w })
  match s0.run? w.ref with
  | none => (false, s0)
  | some e =>
    if e.mode = .ended then (false, s0) else
    match s0.driveOf w.ref c w.row w.slice (if s0.waveServes c w then w.kind else .orig) (!s0.waveServes c w) with
    | (.error f, s1) => (false, s1.failRow w.ref w.row f)
    | (.ok none, s1) => (false, s1.deliver c ⟨w, 0, eFb e.raw, [], [], [], 0, (s1.core c).slotNo⟩)
    | (.ok (some (d, drive)), s1) =>
      let s1 := s1.worked w.ref
      if !s1.waveServes c w then
        match s1.wavePlane w with
        | some (y, plane) =>
          let base : WaveReq := { w with kind := .orig, rep := 0 }
          let s2 := s1.modCore c (fun x => { x with
            splits := x.splits.filter (fun q => !q.base.same w), waiting := x.waiting.filter (fun v => !v.same w) })
          (false, (s2.count c 18 (1024 * y.nS)).deliver c ⟨base, d, eFb e.raw, [], [], refContrib plane y drive d (eFb e.raw), 0, (s2.core c).slotNo⟩)
        | none => (false, s1)
      else
        let sl := (s1.core c).slotOf w.larr
        let set := minArr (s1.setOf c w.larr)
        let run : WaveRun := { req := w, slot := sl, phys := arrId c sl, delta := d, fb := eFb e.raw,
                               smax := s1.rf .wavSplitCfg c 1 0, drive := drive, conv := 0, codes := [],
                               trim := w.trim.getD (s1.rd .arrTrimCfg (arrId c sl)), slotNo := (s1.core c).slotNo }
        let s2 := (s1.onSpare c w).modRun w.ref (fun e => { e with
          gens := if w.kind = .orig && (e.gens.find? (genKey c set w.row)).isNone then e.gens.insert (genKey c set w.row) (s1.cal c set).gen else e.gens })
        (true, (((s2.modCore c (fun x => { x with flying := x.flying ++ [run] })).modArr run.phys
          (fun x => { x with wavesSinceScan := x.wavesSinceScan + 1 })).countWave c w).fbMiss c w (eFb e.raw))

/-- A pending SWAP keeps a serving array idle for one wave period, split sequences and repeats apart (R34, R82). -/
def State.swapHolds (s : State) (c l : Nat) : Bool := (s.arr (s.larr c l)).swapPending && !(s.core c).splitHolds l

/-! ### Switch slots and calibration conversions -/

/-- The row of a wave has begun on the set: the element it serves has a generation (R272). -/
def State.rowBegun (s : State) (c set : Nat) (w : WaveReq) : Bool :=
  (s.run? w.ref).any (fun e => (e.gens.find? (genKey c set w.row)).isSome)

/-- Waves of rows that have begun on the set still wait: a change of masks lets them go first (R272, R273). -/
def State.rowsOpen (s : State) (c set : Nat) : Bool :=
  (s.core c).waiting.any (fun w => (s.calArrays c set).any (fun (l, _) => l = w.larr) && s.waveServes c w &&
    (w.rep ≠ 0 || w.kind ≠ .orig || s.rowBegun c set w))

/-- A change of masks that is due holds the waves of rows not begun, and in its idle slot every original wave of the set (R272). -/
def State.calHolds (s : State) (c : Nat) (w : WaveReq) : Bool :=
  let set := minArr (s.setOf c w.larr)
  (s.cal c set).due ≠ 0 && w.rep = 0 && w.kind = .orig && !s.setSplits c set && s.calMasks c set &&
    ((s.cal c set).idle || !s.rowBegun c set w)

/-- A slot begins on a set: a correction due takes effect where it costs no slot, or where its idle slot is over and nothing of the set
converts any more; a change of masks begins its idle slot when no row is half driven (R272). -/
def State.calSlot (s : State) (c set : Nat) : State :=
  let s := if (s.cal c set).tempDue then s.tempUpdate c set else s
  let v := s.cal c set
  if v.due = 0 || s.setSplits c set then s
  else if !s.calMasks c set then s.calTake c set
  else if s.rowsOpen c set then s
  else if !v.idle then s.setCal c set { v with idle := true }
  else if s.setConverts c set then s
  else s.calTake c set

/-- The sets of a core at the beginning of a slot. -/
def State.calSlots (s : State) (c : Nat) : State := s.each ((s.core c).calSets.map (·.1)) (fun t set => t.calSlot c set)

/-- The mean conversion time in units of 0.25 ns, at most its worst-corner figure: where it lies within that the spec leaves
open (R3, R86; assumption 7). -/
def State.wavConv (s : State) (c : Nat) : Nat := 1 + Config.convTime c (s.core c).slotNo % 134

/-- The slot period in ns (R76). -/
def State.slotNs (s : State) (c : Nat) : Nat := max 100 (s.wavConv c)

/-- The waves of the set are noted where one waits (R273). -/
def State.calWatch (s : State) (c : Nat) : State :=
  s.each ((s.core c).calSets.map (·.1)) (fun t set =>
    if t.setWaiting c set then t.setCal c set { t.cal c set with lastWait := t.time } else t)

/-- A token pass of some entry begins on the set: a wave of it waits, and no row of the pass has begun there (R190, R273). -/
def State.passBegins (s : State) (c set : Nat) : Bool :=
  (s.core c).waiting.any (fun w => (s.calArrays c set).any (fun (l, _) => l = w.larr) && s.waveServes c w &&
    w.kind = .orig && w.rep = 0 &&
    (match s.run? w.ref with
      | some e => e.shares.any (fun h => h.core = c && (h.rows e.verb e.prob.m).contains w.row &&
          (h.rows e.verb e.prob.m).all (fun row => (e.gens.find? (genKey c set row)).isNone))
      | none => false))

/-- The set has had no waiting wave for one slot period (R273). -/
def State.setRests (s : State) (c set : Nat) : Bool :=
  !s.setWaiting c set && (s.cal c set).lastWait + s.slotNs c ≤ s.time

/-- The switch slot of a PENDING boundary-class correction comes (R273): it is due, and takes effect under R272. -/
def State.calSwitch (s : State) (c set : Nat) : State :=
  let v := s.cal c set
  if v.st ≠ .pending || v.grad || v.due ≠ 0 || !(s.passBegins c set || s.setRests c set) then s else s.calDue c set

/-- The arrays of a core that make a calibration conversion in a slot: those with a drift-tracking session due and a steal opportunity, not
held for a split sequence, a SWAP or a change of masks (R57, R260). -/
def State.sessions (s : State) (c : Nat) : List Nat :=
  (List.range 16).filter (fun l =>
    s.sessionDue (s.larr c l) && s.stealOpen (s.larr c l) && !s.splitHolds c l && !(s.arr (s.larr c l)).swapPending &&
      (s.cal c (minArr (s.setOf c l))).due = 0)

/-- Drive the first wave that waits for a logical array; waves that take no slot give way to the next; `n` bounds
them. -/
def State.driveArray (s : State) (c l : Nat) : Nat → Option WaveReq × State
  | 0 => (none, s)
  | n + 1 =>
    let x := s.core c
    let a := s.larr c l
    let free := (s.arr a).st = .serving && !s.swapHolds c l &&
      (x.flying.filter (fun v => v.slot = x.slotOf l && v.conv < 4)).length < 2
    match x.waiting.find? (fun w => w.larr = l && ((free && !s.calHolds c w) || s.waveByRef c w)) with
    | none => (none, s)
    | some w =>
      match s.driveWave c w with
      | (true, s1) => (some w, s1)
      | (false, s1) => s1.driveArray c l n

/-- A request's wave used a slot on a core (R214, R216): a further slot of the pound's busiest core is paid for by the queue's deficit,
and beyond the one debited at admission by its EXPRESS balance. -/
def State.chargeSlot (s : State) (c : Nat) (w : WaveReq) : State :=
  match s.sent? w.ref.pound w.ref.pos with
  | none => s
  | some n =>
    let q := s.req n.req
    let mine := s.poundCores w.ref.pound
    let busiest (m : NMap Nat) : Nat := ((List.filter (fun (e : Nat × Nat) => mine.contains e.1) m).map (·.2)).foldl max 0
    let used := q.slotsBy.set 0 c (q.slotsBy.get 0 c + 1)
    let before := busiest q.slotsBy
    let after := busiest used
    let s1 := s.modReq n.req (fun q => { q with slotsBy := used })
    let p := w.ref.pound
    if before < after then
      (s1.modPound p (fun x => if q.cls = 1 || q.cls = 2 then
        { x with deficit := x.deficit.set 0 q.queue (x.deficit.get 0 q.queue - 1) } else x)).modQueue q.queue (fun x =>
        let d : Int := if q.cls = 0 && 1 < after then 1024 else 0
        { x with balance := x.balance.set (1024 * (x.burstSlot : Int)) p (x.balance.get (1024 * (x.burstSlot : Int)) p - d) })
    else s1

/-- The pound's first core issued a slot: balances gain RATE/1,024 up to BURST_SLOT, and the class of the slot goes
into the history (R214, R216). -/
def State.poundSlot (s : State) (c : Nat) (ws : List WaveReq) : State :=
  match s.poundAt c with
  | none => s
  | some (m, _) =>
    let first := sortBy ws (fun a b => decide (a.order ≤ b.order))
    let cls := match first with
      | w :: _ => (s.reqOfRun w.ref).cls
      | [] => 4
    let s1 := s.modPound c (fun x => { x with history := ((cls :: x.history).take 4096) })
    s1.each ((s.queues.filter (fun e => e.2.st ≠ .disabled && e.2.cls = 0 && e.2.model = m)).map (·.1)) (fun t q =>
      t.modQueue q (fun x =>
        let top : Int := 1024 * (x.burstSlot : Int)
        let b := x.balance.get top c
        { x with balance := x.balance.set top c (min top (b + x.rate)) }))

/-- The wave group in progress ends where the engine stops, short of its eighth slot too: a boundary (R11, R63). -/
def State.groupEnd (s : State) (c : Nat) : State := (s.modCore c (fun x => { x with inGroup := 0 })).boundary c

/-- A slot has been issued: counters, group position, the boundary at its end (R11, R62, R63). The slot count in the detail
of WAV_HOLDOVER_DRIVE is that of the slots the core issued before this one since start-up (R87 does not say what it counts
from; DESIGN CHOICE, assumption 61). -/
def State.slotDone (s : State) (c : Nat) (ws : List WaveReq) (replay throttled : Bool) : State :=
  let driven := (ws.map (fun w => 2 ^ w.larr)).sum
  let s1 := (s.count c 0 1).count c 1 (b2n throttled)
  let s2 := if ws.any (·.express) then s1.count c 10 1 else s1
  let hold := s.tb.holdover && (!ws.isEmpty || replay) && !s.tb.driven.contains c
  let s3 := if hold then
      ((({ s2 with tb := { s2.tb with driven := c :: s2.tb.driven } } : State).flag .wavEvent c 4).raise
        (evCore 0x2102 1 c ((s.core c).slotNo % 2 ^ 32)))
    else s2
  let s4 := (s3.poundSlot c ws).modCore c (fun x => { x with
    slotNo := x.slotNo + 1, driven := driven, inGroup := (x.inGroup + 1) % 8 })
  if (s4.core c).inGroup = 0 || !s4.someWaiting c then s4.groupEnd c else s4

/-- Drive every array of the core that has a wave, but those that make a calibration conversion. -/
def State.driveAll (s : State) (c : Nat) (cal : List Nat) : List WaveReq × State :=
  ((List.range 16).filter (fun l => !cal.contains l)).foldl (fun (ws, t) l =>
    match t.driveArray c l (t.core c).waiting.length with
    | (some w, t1) => (ws ++ [w], t1)
    | (none, t1) => (ws, t1)) ([], s)

/-- The request a wave serves. -/
def State.payer (s : State) (w : WaveReq) : Option Nat := (s.sent? w.ref.pound w.ref.pos).map (·.req)

/-- One wave of each request among the waves of a slot: a slot is paid for once, however many of the request's waves it
carries (R214, R216). -/
def State.payers (s : State) (ws : List WaveReq) : List WaveReq :=
  ws.foldl (fun acc w => if acc.any (fun v => s.payer v = s.payer w) then acc else acc ++ [w]) []

/-- The idle wave period of pending SWAPs begins with a slot on the arrays it holds idle; those whose period is over and
that convert nothing more exchange their tables before the slot (R34). -/
def State.swapSlot (s : State) (c : Nat) : State :=
  s.each (List.range 16) (fun t l =>
    let a := t.larr c l
    if (t.arr a).st ≠ .serving || !t.swapHolds c l then t
    else if (t.arr a).swapIdle && !(t.core c).flying.any (fun w => w.phys = a && w.conv < 4) then t.trimExchange a
    else t.modArr a (fun x => { x with swapIdle := true }))

/-- The arrays driven in one slot, after the SWAPs of R34 and the corrections of R272; an array that makes a calibration conversion drives
no wave (R260). -/
def State.fillSlot (s : State) (c : Nat) : List WaveReq × State :=
  let s0 := (s.swapSlot c).calSlots c
  let cal := s0.sessions c
  let (ws, s1) := (s0.each cal (fun t l => t.sessionStep (t.larr c l))).driveAll c cal
  (ws, s1.each (s1.payers ws) (fun t w => t.chargeSlot c w))

/-- Waves that take no slot, where no wave waits for one: those of arrays out of service that the tender serves (R311). -/
def State.refServe (s : State) (c : Nat) : State :=
  s.each (List.range 16) (fun t l =>
    if (t.arr (t.larr c l)).st = .serving then t else (t.driveArray c l (t.core c).waiting.length).2)

/-- The arrays have been tried: a slot was issued unless every wave that waited proved to take none (R67). -/
def State.slotOrIdle (s : State) (c : Nat) (ws : List WaveReq) : State :=
  if ws.isEmpty && !s.someWaiting c then
    if (s.core c).inGroup = 0 then s else s.groupEnd c
  else s.slotDone c ws false false

/-- A wave slot of a core (R62, R63, R77, R215, R306, R404); a shadow written while the engine was idle is active
before the slot starts (R11). With no wave waiting no slot is issued: the engine stands at a group boundary. -/
def State.waveSlot (s : State) (c : Nat) : State :=
  if !s.alive || (s.core c).failedCore || (s.core c).gridWait then s else
  let s := (s.calWatch c).calIdle c
  let x := s.core c
  if !s.someWaiting c then
    let s1 := s.refServe c
    if x.inGroup = 0 then s1 else s1.groupEnd c
  else if x.inGroup = 0 && s.rb .wavLockCfg c 0 && s.time % 200 ≠ 0 then
    s.modCore c (fun x => { x with gridWait := true })
  else
    let s0 := if x.inGroup = 0 then (s.boundary c).modCore c (fun x => { x with waiting := sortBy x.waiting slotOrder }) else s
    let level := s.qLevel (c / 32)
    if 8 ≤ x.inGroup + level then s0.slotDone c [] false true
    else
      match (s0.core c).replays.find? (s0.core c).replayDue with
      | some q =>
        let y := s0.core c
        let run : WaveRun := { q.orig with
          req := { q.orig.req with kind := .replay }, slot := y.spare, phys := arrId c y.spare, conv := 0, codes := [], zeros := [] }
        ((s0.modCore c (fun y => { y with flying := y.flying ++ [run] })).countWave c run.req).slotDone c [] true false
      | none =>
        let (ws, s1) := s0.fillSlot c
        s1.slotOrIdle c ws

end Sys2Proof.Machine
end

