-- ==== Sys2Proof/Machine/Arrays.lean ====
section
/-! DEFINITION. The meanings of the array commands: programming, repair, remapping, trim, scan and refresh. -/
namespace Sys2Proof.Machine
open Sys2Proof

/-- ARR_PGM_GO (R47). -/
def execArrPgmGo (path : Path) (c : CoreId) (sl : SlotId) (s : State) : Out :=
  .next (s.asked path .arr (fun t => t.pgmGo path (arrId c sl)))

/-- ARR_PGM_ABORT (R47). -/
def execArrPgmAbort (path : Path) (c : CoreId) (sl : SlotId) (s : State) : Out :=
  .next (s.asked path .arr (fun t => t.onJob (arrId c sl) (fun u => u.pgmAbort (arrId c sl))))

/-- PGM_QUEUED_JOB_START (R44). -/
def execPgmQueuedJobStart (s : State) : Out := .next (if s.alive then s.startQueued else s)

/-- PLANE_CHECK_DONE (R40, R41). -/
def execPlaneCheckDone (c : CoreId) (sl : SlotId) (s : State) : Out :=
  .next (if s.alive then s.onJob (arrId c sl) (fun u => u.planeDone (arrId c sl)) else s)

/-- A stuck cell of a command's operand. -/
def stuckOf (x : CellId) : StuckCell := ⟨x.row, x.pair, x.plus⟩

/-- PGM_BATCH_DONE (R43). -/
def execPgmBatchDone (c : CoreId) (sl : SlotId) (stuck : List CellId) (s : State) : Out :=
  .next (if s.alive then s.onJob (arrId c sl) (fun u => u.batchDone (arrId c sl) (stuck.map stuckOf)) else s)

/-- REPAIR_BATCH_DONE (R46). -/
def execRepairBatchDone (c : CoreId) (sl : SlotId) (stuck : List CellId) (s : State) : Out :=
  .next (if s.alive then s.onJob (arrId c sl) (fun u => u.repairDone (arrId c sl) (stuck.map stuckOf)) else s)

/-- ARR_MAP_WRITE (R29). -/
def execArrMapWrite (path : Path) (c : CoreId) (sl : SlotId) (col : Bool) (n : Fin 8) (v : Word) (s : State) : Out :=
  .next (s.asked path .arr (fun t =>
    if col && 2 ≤ n.val then t.ignored path (Reg.arrColMap.addr (arrId c sl) n) 2
    else t.mapWrite path (arrId c sl) col n v.toNat))

/-- ARR_TRIM_DATA_ACCESS (R60): a read replies with the table's word. -/
def execArrTrimDataAccess (path : Path) (c : CoreId) (sl : SlotId) (w : Option Word) (s : State) : Out :=
  let a := arrId c sl
  .next (match w with
    | some v => s.asked path .arr (fun t => t.trimWrite path a v.toNat)
    | none => if s.answers path .arr then (s.reply path (s.trimData a)).trimStep a else s.reply path 0)

/-- ARR_TRIM_SWAP (R34): the exchange is scheduled, and the set's windows restart (R276). -/
def execArrTrimSwap (path : Path) (c : CoreId) (sl : SlotId) (s : State) : Out :=
  .next (s.asked path .arr (fun t => (t.trimSwap (arrId c sl)).calDisturbed (arrId c sl)))

/-- ARR_TRIM_COPY (R60): the copy comes before the SWAP of the same write. -/
def execArrTrimCopy (path : Path) (c : CoreId) (sl : SlotId) (swap : Bool) (s : State) : Out :=
  .next (s.asked path .arr (fun t =>
    let t1 := t.trimCopy (arrId c sl)
    if swap then (t1.trimSwap (arrId c sl)).calDisturbed (arrId c sl) else t1))

/-- A conversion of an array is under way, or a split sequence or repeat holds it (R34, R82). -/
def State.arrConverting (s : State) (a : Nat) : Bool :=
  let x := s.core (a / 17)
  x.flying.any (fun w => w.phys = a && w.conv < 4) ||
    ((x.logicalOf (a % 17)).map (fun l => s.splitHolds (a / 17) l)).getD false

/-- TRIM_SWAP_TAKE_EFFECT (R34): between two conversions. On a SERVING array it ends the idle wave period that WAVE_SLOT
began at the wave boundary, or comes while the engine issues no slot; the next slot finds the tables exchanged either
way. -/
def execTrimSwapTakeEffect (c : CoreId) (sl : SlotId) (s : State) : Out :=
  let a := arrId c sl
  .next (if s.arrConverting a || ((s.arr a).st = .serving && !(s.arr a).swapIdle && s.someWaiting c) then s else s.trimExchange a)

/-- SCAN_BATCH (R57). -/
def execScanBatch (c : CoreId) (sl : SlotId) (weak : Nat) (s : State) : Out :=
  .next (if s.works && !s.arrConverting (arrId c sl) then s.scanBatch (arrId c sl) weak else s)

/-- The pound of a core serves EXPRESS requests: its model has an EXPRESS queue (R59). -/
def State.expressArr (s : State) (c : Nat) : Bool :=
  (s.poundOf c).any (fun (m, _) => s.queues.any (fun e => e.2.st = .enabled && e.2.cls = 0 && e.2.model = m))

/-- REFRESH_BATCH (R58, R59): the reference copy of the array's version must be present (R230). -/
def execRefreshBatch (c : CoreId) (sl : SlotId) (s : State) : Out :=
  let a := arrId c sl
  let ref : Bool := match (s.core c).logicalOf sl with
    | some l => match s.holder c l a with
      | some h => h.ref && decide (h.img.version = s.rd .arrVersion a)
      | none => true
    | none => true
  let idle := (s.core c).waiting.all (fun w => (s.core c).slotOf w.larr ≠ sl)
  .next (if s.works && ref && !s.arrConverting a then s.refresh a (s.expressArr c) idle else s)

/-- A day in nanoseconds. -/
def dayNs : Nat := 24 * 3600 * 1000000000

/-- REFRESH_DEFERRED_TIMEOUT (R59). -/
def execRefreshDeferredTimeout (c : CoreId) (sl : SlotId) (s : State) : Out :=
  .next (match (s.arr (arrId c sl)).weak with
    | (_, t0) :: _ => if s.alive && t0 + dayNs ≤ s.time then s.refreshDeferred (arrId c sl) else s
    | [] => s)

end Sys2Proof.Machine
end

