-- ==== Sys2Proof/Machine/CheckOps.lean ====
section
/-! DEFINITION. Check pairs (R296 to R300), repeats and classification (R309, R310), replay verdicts (R306, R307),
residue codes (R304), the ends of conversions and split sequences (R79 to R83). -/
namespace Sys2Proof.Machine
open Sys2Proof

/-! ### Check pairs -/

/-- A gain weight, held to 12 fractional bits (R296). -/
def gainWeight (g : Rat) : Rat := (Fp.rne ((4096 : Rat) / g) : Rat) / 4096

/-- w of a pair of a physical array, from the ρ × θ of the latest update or correction: 1 without an accepted calibration (R296). -/
def State.weight (s : State) (a pair : Nat) : Rat :=
  if (s.arr a).calPass then gainWeight ((s.arr a).wFac * (s.arr a).k.get 1 pair) else 1

/-- A value with its magnitude. -/
def absR (q : Rat) : Rat := if q < 0 then -q else q

/-- The check verdict of a wave (R296 to R299): none when it passes, else RNE(D_A), the estimate and the spread. -/
def State.cpVerdict (s : State) (c : Nat) (w : WaveRun) : Option (Int × Nat × Nat) :=
  let x := s.core c
  let l := w.req.larr
  let hat (p : Nat) : Rat := ((w.codes.get 0 p : Int) : Rat) * s.weight w.phys p
  let ax := s.rf .arrCheckScale w.phys 4 0
  let bx := s.rf .arrCheckScale w.phys 12 8
  let lsb := lsbU w.fb
  let resid (m : NMap Int) : Rat := ((w.drive.zipIdx.map (fun (d, r) => d * m.get 0 (1024 * l + r))).sum : Int)
  let data := List.range 512
  let wgt (j : Nat) : Rat := ((j + 1 : Nat) : Rat)
  let da := (data.map hat).sum - (2 ^ ax : Nat) * hat 512 - resid x.residA / lsb
  let db := (data.map (fun j => wgt j * hat j)).sum - (2 ^ bx : Nat) * hat 513 - resid x.residB / lsb
  let nsig : Rat := (s.rf .chkCpCfg 0 3 0 : Nat)
  let ba := nsig * (2 / 5) * ratSqrt ((512 + 4 ^ ax : Nat) : Rat) + (7 / 100) * ((512 + 2 ^ ax : Nat) : Rat) +
    (2 / 1000) * ((data.map (fun j => absR (hat j))).sum + (2 ^ ax : Nat) * absR (hat 512))
  let bb := nsig * (2 / 5) * ratSqrt ((44870400 + 4 ^ bx : Nat) : Rat) + (7 / 100) * ((131328 + 2 ^ bx : Nat) : Rat) +
    (2 / 1000) * ((data.map (fun j => wgt j * absR (hat j))).sum + (2 ^ bx : Nat) * absR (hat 513))
  if absR da ≤ ba && absR db ≤ bb then none
  else if da = 0 then some (0, 0, 511)
  else some (Fp.rne da, (clampI 0 511 (Fp.rne (db / da) - 1)).toNat, min 511 (Rat.ceil (bb / absR da)).toNat)

/-- A wave or part is excluded from comparison (R298). -/
def State.excluded (s : State) (c : Nat) (w : WaveRun) : Bool :=
  !(s.core c).residOf.contains w.req.larr || w.codes.any (fun (_, v) => v = 511 || v = -511)

/-- An excluded wave that would have been compared (R298). -/
def State.cpSkip (s : State) (c : Nat) : State := (s.bump .chkCpSkipCount c 1).count c 32 1

/-- Report a check-pair failure (R299, R326, R327). -/
def State.cpFail (s : State) (c : Nat) (w : WaveReq) (v : Int × Nat × Nat) : State :=
  let (da, est, h) := v
  (((((s.flag .chkCoreEvent c 1).bump .chkCpFailCount c 1).count c 31 1).wr .chkCpLast c 0
    (w.larr + 16 * est + 2 ^ 13 * h + 2 ^ 31))).raiseRun w.ref
    (evCore 0x3001 1 c (w.larr + 256 * enc 24 da + 2 ^ 32 * est + 2 ^ 48 * h))

/-! ### Agreement with the reference -/

/-- The reference code of a data pair (R307). -/
def refCode (plane : List (List Byte)) (w : WaveRun) (p : Nat) : Rat :=
  (planeSum plane false w.drive p : Rat) / lsbU w.fb

/-- The data pairs a wave's columns use. -/
def livePairs (e : EntryRun) (y : Placement) (set : Nat) : List Nat := (List.range 512).filter (e.pairLive y set)

/-- A slot's code of a pair lies too far from the reference code (R307). -/
def State.offRef (s : State) (plane : List (List Byte)) (w : WaveRun) (p : Nat) : Bool :=
  let v := refCode plane w p
  decide (2 + 3 / 1000 * absR v < absR (((w.codes.get 0 p : Int) : Rat) * s.weight w.phys p - v))

/-- The first pair of a wave at fault under R307; none when it agrees with the reference codes. -/
def State.refFault (s : State) (w : WaveRun) : Option Nat :=
  match s.run? w.req.ref, s.wavePlane w.req with
  | some e, some (y, plane) => (livePairs e y w.req.set).find? (s.offRef plane w)
  | _, _ => none

/-! ### Repeats and permanent faults -/

/-- Set up the repeat of a wave or part under a mechanism, with the original's trim drive (R309). -/
def State.repeatWave (s : State) (c : Nat) (w : WaveRun) (mech : Nat) : State :=
  s.pushFront c [{ w.req with rep := mech, trim := some w.trim }]

/-- The reference path contributes a wave (R310); with no reference copy the wave waits in the core's list (R311). -/
def State.contribute (s : State) (w : WaveRun) : Option (List Int) :=
  (s.wavePlane w.req).map (fun (y, plane) => refContrib plane y w.drive w.delta w.fb)

/-- A repeat failed: a permanent fault of the array (R309 to R311). -/
def State.permWave (s : State) (c : Nat) (w : WaveRun) (mech est : Nat) : State :=
  (s.permArr c w.req.larr mech est (mech = 4) 0x7FF).quarantine c w.req.larr

/-! ### Codes that pass -/

/-- Give the codes of an unsplit wave to the drain. -/
def State.accept (s : State) (c : Nat) (w : WaveRun) : State :=
  match s.run? w.req.ref, s.waveLayer w.req with
  | some e, some (_, _, y) =>
    let sat := if w.smax = 0 then (w.codes.filter (fun (p, v) => (v = 511 || v = -511) && e.pairLive y w.req.set p)).map (·.1) else []
    let s1 := if sat.isEmpty then s else s.clipEnd w 1 sat sat y.w7
    (s1.tap c w w.codes w.zeros sat).deliver c ⟨w.req, w.delta, w.fb, w.codes, sat, [], 1, w.slotNo⟩
  | _, _ => s

/-- The codes of a sampled wave wait for its replay (R306). -/
def State.settle (s : State) (c : Nat) (w : WaveRun) : State :=
  if s.sampled c w.req then s.modCore c (fun x => { x with replays := x.replays ++ [⟨w, none⟩] }) else s.accept c w

/-- A split sequence whose final level has no part open is summed and delivered (R80, R81, R123). -/
def State.splitEnd (s : State) (c : Nat) (q : SplitSeq) : State :=
  if !q.final || q.parts.any (·.busy) then s else
  match q.parts, s.run? q.base.ref, s.waveLayer q.base with
  | p :: _, some e, some (_, _, y) =>
    let clipped (p : Nat) : Bool := q.parts.any (fun x => !x.exact_ && (x.run.codes.get 0 p = 511 || x.run.codes.get 0 p = -511))
    let sat := (List.range 514).filter (fun p => e.pairLive y q.base.set p && clipped p)
    let sums := (List.range 514).foldl (fun (m : NMap Int) p =>
      m.set 0 p ((q.parts.map (fun x => if x.exact_ then 0 else x.run.codes.get 0 p)).sum)) ([] : NMap Int)
    let refs := (q.parts.filter (·.exact_)).foldl (fun (acc : List Int) x =>
      match s.contribute x.run with
      | some v => if acc.isEmpty then v else (acc.zip v).map (fun (a, b) => a + b)
      | none => acc) []
    let w : WaveRun := { p.run with req := q.base, smax := q.smax }
    let zeros := p.run.zeros.map (fun (i, _) => (i, (q.parts.map (fun x => x.run.zeros.get 0 i)).sum))
    let s1 := (s.clipEnd w q.level q.clips sat y.w7).modCore c (fun x => { x with splits := x.splits.filter (fun z => !z.base.same q.base) })
    (if refs.isEmpty then s1.tap c w sums zeros sat else s1).deliver c ⟨q.base, w.delta, w.fb, sums, sat, refs, (q.parts.filter (fun x => !x.exact_)).length,
      (q.parts.map (fun x => x.run.slotNo)).foldl max 0⟩
  | _, _, _ => s

/-- The parts of a sequence that a repeat split into which fail what the repeat must pass (R309). -/
def State.badParts (s : State) (q : SplitSeq) : List PartDone :=
  q.parts.filter (fun p => p.bad.isSome || (q.base.rep = 4 && (s.refFault p.run).isSome))

/-- A repeat that clipped has come to its final level: the parts' verdicts are the repeat's (R80, R309). After a permanent fault
the reference path contributes the whole wave. -/
def State.splitRepeat (s : State) (c : Nat) (q : SplitSeq) : State :=
  match s.badParts q with
  | [] => ((s.transient c q.base.larr q.base.rep).modSplit c q.base (fun q => { q with final := true })).splitEnd c { q with final := true }
  | p :: _ =>
    let est := if q.base.rep = 4 then (s.refFault p.run).getD 0 else (p.bad.map (fun v => v.2.1)).getD 0
    let s1 := (s.each (q.parts.filterMap (·.bad)) (fun t v => t.cpFail c q.base v)).modCore c
      (fun x => { x with splits := x.splits.filter (fun z => !z.base.same q.base) })
    let s2 := s1.permWave c { p.run with req := q.base } q.base.rep est
    let whole : WaveRun := { p.run with
      req := q.base, drive := q.parts.foldl (fun (ds : List Int) (x : PartDone) => List.zipWith (· + ·) ds x.run.drive) (List.replicate 1024 0) }
    match s2.contribute whole with
    | some v => s2.deliver c ⟨q.base, whole.delta, whole.fb, [], [], v, 0, whole.slotNo⟩
    | none => s2.pushFront c [{ q.base with rep := 0 }]

/-- Look at a split sequence again: with every part in and none to split further, its level is final and the verdicts
on its parts take effect (R79, R298). -/
def State.splitCheck (s : State) (c : Nat) (w : WaveReq) : State :=
  match (s.core c).split w with
  | none => s
  | some q =>
    if q.parts.length < q.level || (q.parts.any (·.clipped) && q.level < 2 ^ q.smax) then s
    else if q.final then s.splitEnd c q
    else if q.base.again then s.splitRepeat c q
    else
      let lvl := ((s.run? w.ref).map (·.level)).getD 0
      let opens (t : State) (p : PartDone) : Bool := p.bad.isSome || t.sampled c p.run.req
      let s1 := s.modSplit c w (fun q => { q with final := true, parts := q.parts.map (fun p => { p with busy := opens s p }) })
      let s2 := s1.each q.parts (fun t p =>
        match p.bad with
        | some v => (t.cpFail c p.run.req v).repeatWave c p.run 1
        | none =>
          let t1 := if 1 ≤ lvl && s.excluded c p.run then t.cpSkip c else t
          if s.sampled c p.run.req then t1.modCore c (fun x => { x with replays := x.replays ++ [⟨p.run, none⟩] }) else t1)
      match (s2.core c).split w with
      | some q2 => s2.splitEnd c q2
      | none => s2

/-- Change the part of a split sequence that a wave is. -/
def State.modPart (s : State) (c : Nat) (w : WaveReq) (f : PartDone → PartDone) : State :=
  match w.kind with
  | .part _ idx => s.modSplit c w (fun q => { q with parts := q.parts.map (fun p => if p.idx = idx then f p else p) })
  | _ => s

/-- The verdict of a wave whose codes are in (R298, R309): `bad` is a failed check. -/
def State.judged (s : State) (c : Nat) (w : WaveRun) (bad : Option (Int × Nat × Nat)) (clipped : Bool) : State :=
  let r := w.req
  let mech := r.rep
  if r.again then
    let fault := if mech = 4 then s.refFault w else none
    let fails := bad.isSome || fault.isSome
    let est := if mech = 4 then fault.getD 0 else (bad.map (fun v => v.2.1)).getD 0
    let s1 := match bad with
      | some v => s.cpFail c r v
      | none => s
    let s2 := if fails then s1.permWave c w mech est else s1.transient c r.larr mech
    match r.kind with
    | .part _ _ =>
      let plain : WaveRun := { w with req := { r with rep := 0 } }
      if fails && (s2.contribute w).isNone then s2.pushFront c [plain.req]
      else (s2.modPart c r (fun p => { p with run := plain, bad := none, busy := false, exact_ := fails })).splitCheck c r
    | _ =>
      if !fails then s2.accept c w
      else match s2.contribute w with
        | some v => s2.deliver c ⟨r, w.delta, w.fb, [], [], v, 0, w.slotNo⟩
        | none => s2.pushFront c [{ r with rep := 0 }]
  else
    match r.kind with
    | .part _ idx =>
      if ((s.core c).split r).any (fun q => q.final) then
        match bad with
        | some v => (s.cpFail c r v).repeatWave c w 1
        | none => (s.modPart c r (fun p => { p with run := w, bad := none, busy := false })).splitCheck c r
      else (s.modSplit c r (fun q => { q with
        parts := q.parts ++ [⟨idx, w, clipped, bad, false, false⟩] })).splitCheck c r
    | _ =>
      match bad with
      | some v => (s.cpFail c r v).repeatWave c w 1
      | none => s.settle c w

/-- The last codes of a conversion are in (R74, R80): codes of discarded levels are dropped; without a comparison the
codes pass at once. True when the check unit will compare. -/
def State.codesIn (s : State) (c : Nat) (w : WaveRun) : State :=
  let drop (t : State) : State := t.modCore c (fun x => { x with flying := x.flying.erase w })
  match s.run? w.req.ref, s.waveLayer w.req with
  | some e, some (_, _, y) =>
    if e.mode = .ended then drop s else
    let clipped := w.codes.any (fun (p, v) => (v = 511 || v = -511) && e.pairLive y w.req.set p)
    let q := (s.core c).split w.req
    let stale : Bool := match w.req.kind with
      | .part n _ => q.all (fun (x : SplitSeq) => x.level ≠ n)
      | .orig => q.isSome
      | .replay => false
    if w.req.kind = .replay then
      (drop s).modCore c (fun x => { x with replays := x.replays.map (fun z =>
        if z.spare.isNone && z.orig.req.same w.req && z.orig.drive = w.drive then { z with spare := some w } else z) })
    else if stale then drop s
    else
      let compare := 1 ≤ e.level && !s.excluded c w && !(clipped && w.smax = 0)
      if compare then s
      else
        let s1 := if 1 ≤ e.level && (w.req.kind = .orig || w.req.again) then (drop s).cpSkip c else drop s
        s1.judged c w none clipped
  | _, _ => drop s

/-- New clips of a conversion decide the next split level (R78 to R80): a repeat of R309 that clips splits like any other
wave, and one of a part takes its sequence to the next level. -/
def State.clipped (s : State) (c : Nat) (w : WaveRun) (pairs : List Nat) : State :=
  if pairs.isEmpty then s else
  match w.req.kind, (s.core c).split w.req with
  | .orig, none =>
    let earlier := w.codes.any (fun (p, v) => (v = 511 || v = -511) && !pairs.contains p && (match s.run? w.req.ref, s.waveLayer w.req with
      | some e, some (_, _, y) => e.pairLive y w.req.set p
      | _, _ => false))
    if earlier then s
    else
      let s1 := ((s.bump .wavClipCount c 1).count c 4 1).modRun w.req.ref (fun e => { e with clips := e.clips + 1 })
      if w.smax = 0 then s1
      else
        let base : WaveReq := { w.req with trim := some w.trim }
        (s1.modCore c (fun x => { x with splits := x.splits ++ [⟨base, 1, w.smax, pairs, [], false⟩] })).startLevel c base 2
  | .orig, some _ => s.modSplit c w.req (fun q => { q with clips := q.clips ++ pairs })
  | .part n _, some q => if q.level = n && n < 2 ^ q.smax then s.startLevel c w.req (2 * n) else s
  | _, _ => s

/-- One conversion of the oldest wave of a slot ends (R73, R74). -/
def State.conversion (s : State) (c sl : Nat) : State :=
  match (s.core c).flying.find? (fun w => w.slot = sl && w.conv < 4) with
  | none => s
  | some w =>
    let (all, s1) := s.convertAll w.phys w.fb w.conv w.trim w.drive
    let vs := all.filter (fun x => x.1 < 514)
    let w1 : WaveRun := { w with
      conv := w.conv + 1, codes := vs.foldl (fun m (p, v) => m.set 0 p v) w.codes,
      zeros := (all.filter (fun x => 514 ≤ x.1)).foldl (fun m (p, v) => m.insert (p - 514) v) w.zeros }
    let s2 := s1.modCore c (fun x => { x with flying := x.flying.map (fun v => if v = w then w1 else v) })
    let live (p : Nat) : Bool := match s.run? w.req.ref, s.waveLayer w.req with
      | some e, some (_, _, y) => e.mode ≠ .ended && e.pairLive y w.req.set p
      | _, _ => false
    let s3 := s2.clipped c w1 ((vs.filter (fun (p, v) => (v = 511 || v = -511) && live p)).map (·.1))
    if w1.conv = 4 then s3.codesIn c w1 else s3

/-- The check unit judges the oldest wave of a slot whose codes are in (R297, R298, R300). -/
def State.cpJudge (s : State) (c sl : Nat) : State :=
  match (s.core c).flying.find? (fun w => w.slot = sl && w.conv = 4) with
  | none => s
  | some w =>
    let clipped := match s.run? w.req.ref, s.waveLayer w.req with
      | some e, some (_, _, y) => w.codes.any (fun (p, v) => (v = 511 || v = -511) && e.pairLive y w.req.set p)
      | _, _ => false
    let s1 := s.modCore c (fun x => { x with flying := x.flying.erase w })
    if s1.running w.req.ref then (s1.count c 30 1).judged c w (s.cpVerdict c w) clipped else s1

/-! ### Replay -/

/-- The original of a replay goes on: to the drain, or to its split sequence. -/
def State.release (s : State) (c : Nat) (w : WaveRun) : State :=
  match w.req.kind with
  | .part _ _ => (s.modPart c w.req (fun p => { p with busy := false })).splitCheck c w.req
  | _ => s.accept c w

/-- The spare was found at fault (R307): reprogrammed for the same target, or out of replay at the second fault. -/
def State.spareBad (s : State) (c : Nat) : State :=
  let x := s.core c
  let s1 := s.modCore c (fun y => { y with spareSuspect := true, spareFaults := y.spareFaults + 1 })
  if 1 ≤ x.spareFaults then (s1.modCore c (fun y => { y with spareOut := true, replayOn := false })).degrade c
  else s1.rotate c x.rotTarget

/-- The verdict on the oldest replay whose spare codes are in (R307). Where neither slot differs from the reference code by more than its
limit, no slot is at fault: the original stands, and nothing is reported (R307 reports a slot at fault). -/
def State.replayJudge (s : State) (c : Nat) : State :=
  match (s.core c).replays.find? (fun q => q.spare.isSome) with
  | none => s
  | some q =>
    let s0 := s.modCore c (fun x => { x with replays := x.replays.erase q })
    match q.spare, s.run? q.orig.req.ref, s.waveLayer q.orig.req with
    | some sp, some e, some (_, _, y) =>
      let s1 := (s0.bump .chkReplayCount c 1).count c 36 1
      let hat (w : WaveRun) (p : Nat) : Rat := ((w.codes.get 0 p : Int) : Rat) * s.weight w.phys p
      let bad := (livePairs e y q.orig.req.set).filter (fun p =>
        decide (3 + 4 / 1000 * absR (hat q.orig p) < absR (hat q.orig p - hat sp p)))
      if bad.isEmpty then
        (s1.modArr q.orig.phys (fun a => { a with lastGood := s.time })).release c q.orig
      else
        let plane := s.wavePlane q.orig.req
        let off (w : WaveRun) : Bool := plane.any (fun (_, pl) => bad.any (s.offRef pl w))
        let orig := off q.orig
        let spare := !orig && off sp
        let l := q.orig.req.larr
        if !orig && !spare then s1.release c q.orig
        else
          let s2 := ((((s1.bump .chkReplayMismatchCount c 1).count c 37 1).flag .chkCoreEvent c 8)).raiseRun q.orig.req.ref
            (evCore 0x3005 1 c (l + 65536 * bad.length + 2 ^ 63 * b2n spare))
          if orig then s2.repeatWave c q.orig 4 else (s2.spareBad c).release c q.orig
    | _, _, _ => s0

/-! ### Residue codes -/

/-- Report a residue mismatch (R304, R326, R327). -/
def State.residueFail (s : State) (r : EntryRef) (c unit : Nat) : State :=
  (((s.flag .chkCoreEvent c 4).bump .chkResCount c 1).count c 35 1).raiseRun r (evCore 0x3004 1 c unit)

/-- A transient or permanent fault of the core (R309, R313, R454). -/
def State.coreFault (s : State) (c mech unit row : Nat) (perm : Bool) : State :=
  if perm then
    ((s.faultCount true).raise (evCore 0x3007 2 c (mech + 65536 * 0x3FF + 2 ^ 32 * 0x7FF))).failCore c unit
      (mech + 16 * unit + 65536 * (row % 65536))
  else (s.faultCount false).raise (evCore 0x3006 0 c mech)

/-- A mismatch in an operation: executed once more, it matches or fails the core (R304, R309). -/
def State.residue (s : State) (r : EntryRef) (c row unit : Nat) (again : Bool) : State :=
  (s.residueFail r c unit).coreFault c 3 unit row again

/-- The outcome of a residue check with an operation of an entry, while residue codes are active for it (R137, R304). -/
def State.resHit (s : State) (r : EntryRef) (c row : Nat) (flt : Option ResFault) : State :=
  if !(s.run? r).any (·.resOn) then s
  else match flt with
    | some (.once u) => s.residue r c row u false
    | some (.twice u) => s.residue r c row u true
    | _ => s

end Sys2Proof.Machine
end

