-- ==== Sys2Proof/Machine/DrainOps.lean ====
section
/-! DEFINITION. The drain: passes and claims (R188 to R190), accumulation (R120 to R123), row completion (R122, R302
to R304), the digital verbs' rows. -/
namespace Sys2Proof.Machine
open Sys2Proof

/-! ### Passes -/

/-- The footprint tiles of the pass under way of a share (R188). -/
def EntryRun.passTiles (e : EntryRun) (h : Share) : List Nat :=
  let g := (h.run e.verb).length
  let n := g * cdiv (h.rows e.verb e.prob.m).length 4
  (List.range n).map (fun i => (eBase e.raw 20 % 32 + e.prob.accOff + i) % 32)

/-- The waves of a row: every slice below K of every set of the share, on its array; a wave all of whose columns are
masked is not driven (R157, R189, R193). -/
def State.rowWaves (s : State) (r : EntryRef) (e : EntryRun) (h : Share) (row rep : Nat) : List WaveReq :=
  match s.runLayer r e.prob.layer, s.sent? r.pound r.pos with
  | some (_, _, y), some n =>
    (h.run 1).flatMap (fun j =>
      if (List.range y.nS).all (fun m => !e.colLive y j m) then []
      else (List.range (cdiv e.prob.k 1024)).filterMap (fun i =>
        (y.grid.find? (fun (g : GridEntry) => g.slice = i && g.setJ = j)).map (fun g =>
          { ref := r, prob := e.cur, row := row, slice := i, set := j, larr := g.larr, kind := .orig, rep := rep,
            express := (s.req n.req).cls = 0, order := n.order })))
  | _, _ => []

/-- A pass of a core starts (R188 to R190): its footprint is claimed and INIT cleared; a subjunctive MATMUL hands its
waves to the wave engine. -/
def State.passStart (s : State) (r : EntryRef) (c : Nat) : State :=
  match s.run? r with
  | none => s
  | some e =>
    match e.share c with
    | none => s
    | some h =>
      let rows := h.rows e.verb e.prob.m
      if !s.alive || e.mode ≠ .running || e.verb = 4 || e.verb = 5 || e.verb = 6 || h.running || h.finished ||
          !(s.core c).accepting || !(rows.head?).any e.below then s
      else
        let tiles := if tiled e.verb then e.passTiles h else []
        let s1 := s.modCore c (fun x => { x with
          claims := tiles.foldl (fun m t => m.set 0 t e.issueNo) x.claims,
          acc := x.acc.filter (fun (k, _) => !tiles.contains (k / 2048)) })
        let counts := e.shares.map (fun (h : Share) => h.passCount e.verb e.prob.m e.prob.k)
        let most := counts.foldl (fun (a, b, k) (x, y, z) => if a * k < x * z then (x, y, z) else (a, b, k)) (0, 0, 0)
        let np := most.1 * most.2.2
        let s2 := ((s1.modShare r c (fun h => { h with running := true })).worked r).count c 15 (h.passCount e.verb e.prob.m e.prob.k).2.2
        let s3 := if !tiled e.verb then s2
          else
            let t := s2.modRun r (fun e => { e with npass := max e.npass np, passRaised := e.passRaised || 1 < np })
            if 1 < np && !e.passRaised then
              t.raiseRun r (evCore 0x1101 0 c (most.1 % 65536 + 65536 * (most.2.1 % 65536) + 2 ^ 32 * (most.2.2 % 65536)))
            else t
        if e.verb = 1 && eSubj e.raw then
          let ws := (rows.filter e.below).flatMap (fun m => s.rowWaves r e h m 0)
          s3.modCore c (fun x => { x with waiting := x.waiting ++ ws })
        else s3.takeTask r c

/-! ### Accumulation -/

/-- Report a word that newly saturates (R121, R149). -/
def State.accSat (s : State) (r : EntryRef) (c tile m col : Nat) : State :=
  let s1 := (s.bump .drnAccSatCount c 1).count c 23 1
  if (s.run? r).any (·.accSatRaised) then s1
  else ((s1.flag .drnEvent c 1).raiseRun r (evCore 0x2401 1 c (tile + 256 * (m % 4) + 65536 * col))).modRun r
    (fun e => { e with accSatRaised := true })

/-- Add a contribution to an accumulator word (R120, R121, R123). -/
def State.addWord (s : State) (r : EntryRef) (c tile m col : Nat) (v : Int) (clip : Bool) : State :=
  let key := accKey tile m col
  let w := (s.core c).acc.get 0 key
  let init := bit w.toNat 55
  let top : Int := 2 ^ 47 - 1
  let old := if init then accS w else 0
  let wasSat := init && bit w.toNat 53
  let raw := old + v
  let sum := if wasSat then old else clampI (-top) top raw
  let sat := wasSat || sum ≠ raw
  let s1 := s.modCore c (fun x => { x with acc := x.acc.set 0 key (accWord sum sat (clip || (init && bit w.toNat 54))) })
  if sat && !wasSat then s1.accSat r c tile m col else s1

/-- Where W of a column set's row is counted, by core, set and row (R18). -/
def convKey (c set row : Nat) : Nat := 2 ^ 24 * (256 * c + set) + row

/-- What a delivery adds to column `m` of its set, and whether that contribution came from a saturated column (R24, R122). -/
def Delivery.term (d : Delivery) (w7 : Bool) (m : Nat) : Int × Bool :=
  let code := if w7 then 8 * d.sums.get 0 (2 * m) + d.sums.get 0 (2 * m + 1) else d.sums.get 0 m
  (code * 2 ^ (d.delta + 14).toNat + d.refs.getD m 0,
    if w7 then d.sat.contains (2 * m) || d.sat.contains (2 * m + 1) else d.sat.contains m)

/-- Two deliveries meet in the adder tree: one slot, the same words (R122). -/
def Delivery.meets (d e : Delivery) : Bool :=
  d.slotNo = e.slotNo && decide (d.req.ref = e.req.ref) && d.req.prob = e.req.prob && d.req.row = e.req.row && d.req.set = e.req.set

/-- The drain accumulates the oldest codes of a logical array (R120 to R123), with those of the same slot that go to the same words:
the adder tree sums them first (R122). The tile's claim is checked before (R198); a mismatch in an adder while residue codes are
active is handled per R304. -/
def State.accumulate (s : State) (c l : Nat) (flt : Option ResFault) : State :=
  match (s.core c).ready.find? (fun d => d.req.larr = l) with
  | none => s
  | some d =>
    let ds := (s.core c).ready.filter d.meets
    let s0 := s.modCore c (fun x => { x with ready := x.ready.filter (fun y => !d.meets y) })
    let r := d.req.ref
    match s.run? r, s.waveLayer d.req with
    | some e, some (_, _, y) =>
      match e.share c with
      | none => s0
      | some h =>
        if e.mode = .ended then s0 else
        let g := (h.run 1).length
        let k := (h.run 1).idxOf d.req.set
        let m0 := rowsPer g * h.tp
        let tile := accTile (eBase e.raw 20 % 32 + e.prob.accOff) g m0 d.req.row k
        if (s0.core c).claims.get 0 tile ≠ e.issueNo then s0.claimLost r c tile
        else
          let s1 := s0.resHit r c d.req.row flt
          if !s1.running r then s1
          else
            let key := convKey c d.req.set d.req.row
            let live := ds.filter (fun x => x.n ≠ 0)
            let n := (live.map (·.n)).sum * (if y.w7 then 2 else 1)
            let top := (live.map (fun x => (x.delta + 14).toNat)).foldl max 0
            (s1.modRun r (fun e => { e with
                convs := e.convs.set 0 key (e.convs.get 0 key + n),
                tops := if live.isEmpty then e.tops else e.tops.set 0 key (max (e.tops.get 0 key) top) })).each
              ((List.range y.nS).filter (e.colLive y d.req.set)) (fun t m =>
              let xs := ds.map (fun x => x.term y.w7 m)
              t.addWord r c tile (d.req.row - m0) m (xs.map (·.1)).sum (xs.any (·.2)))
    | _, _ => s0

/-! ### Row completion -/

/-- Work of a row is still between the wave engine and the accumulator of a core. -/
def Core.rowOpen (x : Core) (r : EntryRef) (prob row : Nat) : Bool :=
  let mine (w : WaveReq) : Bool := decide (w.ref = r) && w.prob = prob && w.row = row
  x.waiting.any mine || x.flying.any (fun w => mine w.req) || x.splits.any (fun q => mine q.base) ||
  x.ready.any (fun d => mine d.req) || x.replays.any (fun q => mine q.orig.req)

/-- The set slot and gain word of an output column of a row (R255, R272). -/
def State.gainOf (s : State) (e : EntryRun) (y : Placement) (c dl set row m : Nat) : Nat :=
  let ls := (y.grid.filter (fun (g : GridEntry) => g.setJ = set && g.core + dl = c)).map (fun (g : GridEntry) => (g.larr, 0))
  let slot := minArr ls
  ((s.cal c slot).table ((e.gens.find? (genKey c slot row)).getD (s.cal c slot).gen)).get 0x8000 m

/-- The values after rescale of a subjunctive MATMUL row in a core, by column, with the saturated columns (R95, R120,
R132, R255). -/
def State.waveRow (s : State) (r : EntryRef) (e : EntryRun) (h : Share) (row : Nat) : List (Nat × Word) × List Nat :=
  match s.runLayer r e.prob.layer with
  | none => ([], [])
  | some (_, _, y) =>
    let c := h.core
    let run := h.run 1
    let m0 := rowsPer run.length * h.tp
    let cells := run.zipIdx.flatMap (fun (j, k) => ((List.range y.nS).filter (fun m => y.nS * j + m < e.prob.n)).map (fun m =>
      let w := (s.core c).acc.get 0 (accKey (accTile (eBase e.raw 20 % 32 + e.prob.accOff) run.length m0 row k) (row - m0) m)
      let (mu, bi) := e.rescale c y.nS (y.nS * j + m)
      let a : Rat := if bit w.toNat 55 then (accS w : Rat) * Fp.pow2 (-14) else 0
      let gc := s.gainOf e y c (s.delta (s.reqOfRun r)) j row m
      (y.nS * j + m, Fp.mulAddQ (scaleMult mu (gamma gc)) a bi, bit w.toNat 55 && (bit w.toNat 53 || bit w.toNat 54))))
  (cells.map (fun (n, v, _) => (n, v)), (cells.filter (fun (_, _, b) => b)).map (fun (n, _, _) => n))

/-- A_ref of a MATMUL row in a core, by column (R96); a plane of the reference copy that does not read fails the row. -/
def State.refSums (s : State) (r : EntryRef) (c row : Nat) (cols : List Nat) : Except RdFail (List (Nat × Rat)) × State :=
  match s.run? r with
  | none => (.error (0, 0), s)
  | some e =>
    match s.runLayer r e.prob.layer with
    | none => (.error (0, 0), s)
    | some (img, _, y) =>
      let (ds, s1) := (List.range (cdiv e.prob.k 1024)).foldl (fun ((acc, t) : Except RdFail (List (Option (Int × List Int))) × State) i =>
        match acc with
        | .error f => (.error f, t)
        | .ok xs => match t.driveOf r c row i .orig true with
          | (.error f, t1) => (.error f, t1)
          | (.ok d, t1) => (.ok (xs ++ [d]), t1)) (.ok [], s)
      match ds with
      | .error f => (.error f, s1)
      | .ok ds =>
        let sets := (cols.map (· / y.nS)).eraseDups
        let planes := sets.mapM (fun j => do
          let ps ← (List.range ds.length).mapM (fun i => s.refPlane img y.layer (y.tileOf i j))
          pure (j, ps))
        match planes with
        | .error (cause, a) =>
          if cause ≠ 0 then (.error (0x21, 65536 * 4), s1.manFailMem r c false a cause)
          else if s1.inBlocks a blk then (.error (0x22, (a - img.base) / blk % 65536), s1.ueMem a)
          else (.error (0x17, 4), s1)
        | .ok ps =>
          let sum (n : Nat) : Rat :=
            ((ds.zip ((List.lookup (n / y.nS) ps).getD [])).map (fun ((d, p) : Option (Int × List Int) × List (List Byte)) => match d with
              | some (delta, drive) => ((planeSum p y.w7 drive (n % y.nS) : Int) : Rat) * Fp.pow2 delta
              | none => 0)).sum
          (.ok (cols.map (fun n => (n, sum n))), s1.count c 18 (cols.length * e.prob.k))

/-- Output columns of one column set of an entry's layer. -/
def State.setWidth (s : State) (r : EntryRef) (e : EntryRun) : Nat := ((s.runLayer r e.prob.layer).map (fun (_, _, y) => y.nS)).getD 512

/-- The reference value of an output column (R96). -/
def EntryRun.refValue (e : EntryRun) (c per n : Nat) (a : Rat) : Word :=
  let (mu, bi) := e.rescale c per n
  Fp.mulAddQ (Fp.divQ mu (lsbU (eFb e.raw))) a bi

/-- The reference values of a MATMUL row in a core, by column (R96). -/
def State.refRow (s : State) (r : EntryRef) (c row : Nat) (cols : List Nat) : Except RdFail (List (Nat × Word)) × State :=
  match s.run? r, s.refSums r c row cols with
  | some e, (.ok xs, s1) => (.ok (xs.map (fun (n, a) => (n, e.refValue c (s.setWidth r e) n a))), s1)
  | _, (.error f, s1) => (.error f, s1)
  | none, (_, s1) => (.error (0, 0), s1)

/-- The tender holds A_ref of an indicative row in the words of the entry's footprint (R188); the spec does not give their form: here
the whole number A_ref × 2^14 in 64 bits (DESIGN CHOICE, assumption 29). -/
def State.holdRef (s : State) (c row : Nat) (e : EntryRun) (h : Share) (per : Nat) (xs : List (Nat × Rat)) : State :=
  let run := h.run 1
  let m0 := rowsPer run.length * h.tp
  s.modCore c (fun x => { x with acc := xs.foldl (fun m (n, a) =>
    m.set 0 (accKey (accTile (eBase e.raw 20 % 32 + e.prob.accOff) run.length m0 row (run.idxOf (n / per))) (row - m0) (n % per))
      (BitVec.ofInt 64 (Rat.floor (a * Fp.pow2 14)))) x.acc })

/-- The columns a core computes. -/
def State.myCols (s : State) (r : EntryRef) (e : EntryRun) (h : Share) : List Nat :=
  if e.verb = 7 then List.range e.prob.n
  else
    runCols (h.run e.verb) (if e.verb = 1 then s.setWidth r e else 64) e.prob.n

/-- The digital-tier layer whose weights a DMATMUL reads: the DIGITAL section that its WPTR begins, of an image whose copy is in memory
(R225, assumption 27). -/
def State.digitalLayer (s : State) (wptr : Nat) : Option (Image × Nat) :=
  s.models.findSome? (fun (_, m) => [(m.cur, m.refCur), (m.next, m.refNext)].findSome? (fun (o, ref) =>
    if !ref then none
    else o.bind (fun (img : Image) => (img.sects.find? (fun (x : Section) => x.typ = 5 && img.base + x.off = wptr)).map (fun x => (img, x.key)))))

/-- The range entry of a column: LO and HI (R301); those of a digital-tier layer are read from its BOUNDS section (assumption 27). -/
def State.rangeOf (s : State) (e : EntryRun) (c col : Nat) : Option (Word × Word) :=
  if e.verb = 1 then
    let k := 2 * (65536 * e.prob.layer + col)
    match (s.core c).ranges.find? k, (s.core c).ranges.find? (k + 1) with
    | some lo, some hi => some (lo, hi)
    | _, _ => none
  else if e.verb = 2 then
    (s.digitalLayer e.prob.wptr).bind (fun (img, key) =>
      if (img.sect 7 key).any (fun (x : Section) => blk * (col / 512) < x.len) then
        (s.sectData img 7 key (col / 512)).map (fun d => (fp32At d (8 * (col % 512)), fp32At d (8 * (col % 512) + 4)))
      else none)
  else none

/-- An element fails its range test (R302); columns without a range entry are not tested (R301). -/
def State.rangeFails (s : State) (e : EntryRun) (c col : Nat) (y : Word) : Bool :=
  e.rangeOn && maskBit e.colMask col &&
    (s.rangeOf e c col).any (fun (lo, hi) => !Fp.lt hi lo && !(Fp.le lo y && Fp.le y hi))

/-- The range-tested columns of a row (R302). -/
def State.rangeTested (s : State) (e : EntryRun) (c : Nat) (cols : List Nat) : List Nat :=
  if !e.rangeOn then [] else cols.filter (fun col => maskBit e.colMask col && (s.rangeOf e c col).isSome)

/-- Values of a row at the chain: range verdicts first, then the chain (R302). -/
def State.rowValues (s : State) (r : EntryRef) (h : HeldRow) : State :=
  match s.run? r with
  | none => s
  | some e =>
    let bad := h.ys.filter (fun (col, y) => s.rangeFails e h.core col y)
    let s1 := ((s.count h.core 21 1).count h.core 33 (s.rangeTested e h.core (h.ys.map (·.1))).length)
    if bad.isEmpty && !e.ranged.any (fun x => x.core = h.core && x.row = h.row) then s1.chainRow r { h with ranged := true }
    else
      ((s1.bump .chkRangeCount h.core bad.length).count h.core 34 bad.length).modRun r (fun e => { e with held := e.held ++ [h] })

/-- The next row of a core's pass: the lowest that completes and has not left the chain (R130, R196). -/
def EntryRun.nextRow (e : EntryRun) (h : Share) : Option Nat :=
  (h.rows e.verb e.prob.m).find? (fun x => e.goes h.core x && !h.rowsDone.contains x)

/-- The values of a row that no wave computed: the reference path (R96, R188), the elements of ELTWISE (R171), or a tender's
product (R97, R98). -/
def State.rowTender (s : State) (r : EntryRef) (e : EntryRun) (c row : Nat) (h : Share) :
    Except RdFail (List (Nat × Word)) × State :=
  if e.verb = 1 then
    match s.refSums r c row (s.myCols r e h) with
    | (.error f, t) => (.error f, t)
    | (.ok xs, t) =>
      let per := s.setWidth r e
      (.ok (xs.map (fun (n, a) => (n, e.refValue c per n a))), t.holdRef c row e h per xs)
  else if e.verb = 7 then
    match s.inRow r c (eFmt e.raw) e.prob.n row 0 e.prob.n false (fun _ => true) with
    | (.error f, t) => (.error f, t)
    | (.ok vs, t) => (.ok (vs.zipIdx.map (fun (v, i) => (i, v))), t)
  else s.digitalRow r c row

/-- Rescale a row, or compute it in the tender, and take its values into the chain (R124, R133); the first row of a token pass of
products runs its earlier reduction passes for every row (R189). -/
def State.rowFinish (s : State) (r : EntryRef) (e : EntryRun) (c row : Nat) (h : Share) (waves : Bool) : State :=
  if waves then
    let (ys, fl) := s.waveRow r e h row
    s.rowValues r ⟨c, row, ys, fl, false⟩
  else
    let s0 := if e.verb = 2 || e.verb = 3 then s.kpEarly r c else s
    match s0.run? r with
    | none => s0
    | some e0 =>
      if e0.mode ≠ .running || !e0.below row then s0
      else match s0.rowTender r e0 c row h with
        | (.error f, t) => t.failRow r row f
        | (.ok ys, t) => t.rowValues r ⟨c, row, ys, [], false⟩

/-- A token row completes in a core (R122, R130, R189, R302, R304). -/
def State.rowComplete (s : State) (r : EntryRef) (c row : Nat) (flt : Option ResFault) : State :=
  match s.run? r with
  | none => s
  | some e =>
    match e.share c with
    | none => s
    | some h =>
      if !s.alive || e.mode ≠ .running || !h.running || e.nextRow h ≠ some row ||
          (s.core c).rowOpen r e.cur row || e.held.any (fun x => x.core = c && x.row = row) || !(s.core c).accepting then s
      else
        match s.lostTile r c row with
        | some t => s.claimLost r c t
        | none =>
          let waves := e.verb = 1 && eSubj e.raw
          let redo := e.redo.contains (c, row)
          if flt = some .atRest && e.resOn && waves then
            let s1 := s.residueFail r c 5
            if redo then s1.coreFault c 5 5 row true
            else
              let tiles := e.passTiles h
              let m0 := rowsPer (h.run 1).length * h.tp
              let s2 := s1.modCore c (fun x => { x with
                acc := x.acc.filter (fun (k, _) => !((List.range (h.run 1).length).any (fun i =>
                  k / 2048 = accTile (tiles.headD 0) (h.run 1).length m0 row i && k / 512 % 4 = (row - m0) % 4))) })
              (s2.modRun r (fun e => { e with redo := (c, row) :: e.redo })).pushFront c (s.rowWaves r e h row 5)
          else
            let s0 := if redo then (s.coreFault c 5 5 row false).modRun r (fun e => { e with redo := e.redo.erase (c, row) }) else s
            let s1 := s0.resHit r c row flt
            if !s1.running r then s1 else s1.rowFinish r e c row h waves

/-! ### Range resolution -/

/-- τ of R18 in output units: 2.0 × LSB × √W + 0.005 × |y| (R18, R96). -/
def tolerance (lsb w y : Rat) : Rat := 2 * lsb * ratSqrt w + 5 / 1000 * absR y

/-- LSB of R18 of a column of a row: |MULT| × 2^δ with the largest draught of the conversions summed into it (R96). -/
def EntryRun.rowLsb (e : EntryRun) (c row col per : Nat) : Rat :=
  let (mu, _) := e.rescale c per col
  absR (if Fp.isFin mu then Fp.toRat mu else 0) * Fp.pow2 (((e.tops.get 0 (convKey c (col / per) row) : Nat) : Int) - 14)

/-- A failing element stands (R303). -/
def State.rangeStands (s : State) (r : EntryRef) (c row col : Nat) (unverified limit : Bool) : State :=
  (s.flag .chkCoreEvent c 2).raiseRun r (evCore 0x3002 0 c (col + 65536 * row + 2 ^ 62 * b2n limit + 2 ^ 63 * b2n unverified))

/-- The waves of the row on the column sets of the failing elements are repeated (R303, R309): their words are cleared; `wrong` keeps the
values in question. -/
def State.rangeRepeat (s : State) (r : EntryRef) (e : EntryRun) (h : Share) (wrong : HeldRow) : State :=
  let c := h.core
  let row := wrong.row
  let acc := (e.passTiles h).headD 0
  let run := h.run 1
  let m0 := rowsPer run.length * h.tp
  let per := s.setWidth r e
  let sets := run.filter (fun j => wrong.ys.any (fun y => y.1 / per = j))
  let s1 := s.modCore c (fun x => { x with
    acc := x.acc.filter (fun (k, _) => !(sets.any (fun j =>
      k / 2048 = accTile acc run.length m0 row (run.idxOf j) && k / 512 % 4 = (row - m0) % 4))) })
  (s1.modRun r (fun e => { e with
    ranged := wrong :: e.ranged,
    convs := e.convs.filter (fun (k, _) => !(sets.any (fun j => k = convKey c j row))),
    tops := e.tops.filter (fun (k, _) => !(sets.any (fun j => k = convKey c j row))) })).pushFront c
      ((s.rowWaves r e h row 2).filter (fun w => sets.contains w.set))

/-- A repeated row that passes was a transient fault (R309). -/
def State.rangeClear (s : State) (r : EntryRef) (c row : Nat) (transient : Bool) : State :=
  let s1 := s.modRun r (fun e => { e with ranged := e.ranged.filter (fun x => !(x.core = c && x.row = row)) })
  if transient then (s1.faultCount false).raise (evCore 0x3006 0 c 2) else s1

/-- The arrays of a column set are tested by phases 3 and 4 after a permanent range fault (R311): those the null test
of cells against the reference copy finds wrong are quarantined. -/
def State.rangeLocalise (s : State) (r : EntryRef) (e : EntryRun) (c col : Nat) : State :=
  match s.runLayer r e.prob.layer with
  | none => s
  | some (img, _, y) =>
    let set := col / y.nS
    let found := (y.grid.filter (fun (g : GridEntry) => g.setJ = set)).filterMap (fun g =>
      match s.refPlane img y.layer (y.tileOf g.slice set) with
      | .error _ => none
      | .ok pl =>
        let a := s.larr c g.larr
        let wrong := (List.range 1024).findSome? (fun row => ((List.range 512).find? (fun p =>
          s.cellValue a (s.physRow a row) (s.physPair a p) ≠ 1024 * sext 4 (nibble (pl.getD (row / 16) []) row p))).map (fun p => (p, row)))
        wrong.map (fun (p, row) => (g.larr, p, row)))
    match found with
    | [] => (s.faultCount true).raise (evCore 0x3007 2 c (2 + 65536 * 0x3FF + 2 ^ 32 * 0x7FF))
    | (l, p, row) :: _ => (s.permArr c l 2 p true row).each (found.map (·.1)) (fun t l => t.quarantine c l)

/-- The range verdicts of a held row (R303): each failing element stands, or the row is repeated; after a repeat that
fails against the reference the elements take the reference value (R310). An indicative row, or one of DMATMUL, computed again is identical.
With no reference copy, a row of three values that differ waits for one, since none of them may leave the core (R310, R311). -/
def State.rangeResolve (s : State) (r : EntryRef) (c row : Nat) : State :=
  match s.run? r with
  | none => s
  | some e =>
    match e.held.find? (fun x => x.core = c && x.row = row && !x.ranged), e.share c with
    | some h, some sh =>
      if !s.alive || e.mode ≠ .running || !(s.core c).accepting then s else
      let prior := e.ranged.filter (fun x => x.core = c && x.row = row)
      let bad := ((h.ys.filter (fun (col, y) => s.rangeFails e c col y)).map (·.1))
      let room := if prior.isEmpty then 1024 - e.resolved else bad.length
      let now := (bad.take room ++ prior.flatMap (fun x => x.ys.map (·.1))).eraseDups
      let lay := s.runLayer r e.prob.layer
      let per := s.setWidth r e
      let waves := e.verb = 1 && eSubj e.raw
      let ref := waves && lay.any (fun (_, ref, _) => ref)
      if 2 < prior.length && !ref then s else
      let at_ (col : Nat) : Word := (List.lookup col h.ys).getD 0
      let near (col : Nat) (a b : Word) : Bool := Fp.isFin a && Fp.isFin b &&
        absR (Fp.toRat a - Fp.toRat b) ≤ tolerance (e.rowLsb c row col per) ((e.convs.get 0 (convKey c (col / per) row) : Nat)) (Fp.toRat b)
      let keep (cols : List Nat) : HeldRow := { h with ys := h.ys.filter (fun (col, _) => cols.contains col) }
      let done : HeldRow := { h with ranged := true }
      let s0 := s.modRun r (fun e => { e with
        resolved := if prior.isEmpty then e.resolved + now.length else e.resolved,
        held := e.held.filter (fun x => !(x.core = c && x.row = row && !x.ranged)) })
      let s1 := match bad.drop room with
        | col :: _ => if e.limitRaised then s0 else (s0.rangeStands r c row col (!ref) true).modRun r (fun e => { e with limitRaised := true })
        | [] => s0
      if ref then
        let (v, s2) := s1.refRow r c row now
        match v with
        | .error f => s2.failRow r row f
        | .ok vs =>
          let yref (col : Nat) : Word := (List.lookup col vs).getD 0
          let wrong := now.filter (fun col => !near col (at_ col) (yref col))
          let s3 := if prior.isEmpty then s2.each (now.filter (fun col => !wrong.contains col)) (fun t col => t.rangeStands r c row col false false) else s2
          match wrong with
          | [] => (s3.rangeClear r c row (!prior.isEmpty)).chainRow r done
          | col :: _ =>
            if prior.isEmpty then
              (s3.each wrong (fun t col => (t.flag .chkCoreEvent c 2).raiseRun r (evCore 0x3003 1 c (col + 65536 * row)))).rangeRepeat r e sh (keep wrong)
            else
              (((if prior.length ≤ 2 then s3.rangeLocalise r e c col else s3)).rangeClear r c row false).chainRow r
                { done with ys := h.ys.map (fun (n, y) => if wrong.contains n then (n, yref n) else (n, y)) }
      else if !waves then
        (s1.each now (fun t col => t.rangeStands r c row col false false)).chainRow r done
      else
        let agree (col : Nat) : Bool := prior.any (fun x => (List.lookup col x.ys).any (fun y => near col (at_ col) y))
        match prior with
        | [] => s1.rangeRepeat r e sh (keep now)
        | [_] =>
          if now.all agree then ((s1.each now (fun t col => t.rangeStands r c row col true false)).rangeClear r c row false).chainRow r done
          else s1.rangeRepeat r e sh (keep now)
        | _ =>
          if now.all agree then (s1.rangeClear r c row true).chainRow r done
          else (s.rangeLocalise r e c (now.headD 0)).modRun r (fun e => { e with ranged := keep now :: e.ranged })
    | _, _ => s

end Sys2Proof.Machine
end

