-- ==== Sys2Proof/Machine/VerbOps.lean ====
section
/-! DEFINITION. The verbs without waves: copies and FORWARD (R171, R185, R290), SIGNAL (R173), halo transfers (R140 to
R142, R172), adapters (R170, R247 to R250, R343 to R345), ingest (R101 to R107), field tests (R315, R316). -/
namespace Sys2Proof.Machine
open Sys2Proof

/-! ### Copies -/

/-- An activation block as a copy engine reads it (R290, R291). -/
def State.copyAct (s : State) (r : EntryRef) (c b : Nat) : Except RdFail BlockRd × State :=
  let b := b % 256
  let (d, m) := (s.core c).actBlock b
  let cause := checkBlock d m {}
  let s0 := s.count c 41 blk
  if (s.core c).actPoisoned b then (.error (0x22, b), s0.ueEvent 4 (512 * b))
  else if cause ≠ 0 then (.error (0x21, b + 65536 * 16), s0.manFailRun r c b cause)
  else (.ok (d, m), s0)

/-- Block `i` of a run of `n` in memory as a copy engine reads it (R166, R289, R290). -/
def State.copyMem (s : State) (r : EntryRef) (isHost : Bool) (a n i : Nat) : Except RdFail BlockRd × State :=
  let addr := a + blk * i
  if isHost then
    match s.hostBlock a n i with
    | none => (.error (0x17, 3), s)
    | some (d, m) =>
      let cause := checkBlock d m {}
      if cause ≠ 0 then (.error (0x21, i + 65536 * 18), s.manFailMem r r.pound true addr cause) else (.ok (d, m), s)
  else if !s.inBlocks addr blk then (.error (0x17, 4), s)
  else match s.devBlock addr with
    | none => (.error (0x22, i), s.ueMem addr)
    | some (d, m) =>
      let cause := checkBlock d m {}
      if cause ≠ 0 then (.error (0x21, i + 65536 * 18), s.manFailMem r r.pound false addr cause) else (.ok (d, m), s)

/-- Copy `n` blocks in order; the first that fails ends the copy (R290). -/
def copyRun (s : State) (n : Nat) (rd : State → Nat → Except RdFail BlockRd × State) (wr : State → Nat → BlockRd → State) :
    Option RdFail × State :=
  (List.range n).foldl (fun (f, t) i =>
    if f.isSome then (f, t)
    else match rd t i with
      | (.error g, t1) => (some g, t1)
      | (.ok b, t1) => (none, wr t1 i b)) (none, s)

/-- End an entry by what a copy answered. -/
def State.copyEnd (s : State) (r : EntryRef) : Option RdFail → State
  | some (st, dt) => s.endRun r st dt
  | none => s.endRun r 0 0

/-- COPY_IN: blocks from memory into every core of the pound (R185). -/
def State.startCopyIn (s : State) (r : EntryRef) : State :=
  match s.run? r with
  | none => s
  | some e =>
    let n := eCount e.raw 18
    let (f, t) := copyRun (s.worked r) n (fun t i => t.copyMem r (eHost e.raw) (eAddr e.raw) n i)
      (fun t i (d, m) => t.each (t.poundCores r.pound) (fun u c => u.putAct c (eBase e.raw 18 + i) d m))
    t.copyEnd r f

/-- COPY_OUT: blocks to memory; a destination outside block space takes nothing (R166). -/
def State.startCopyOut (s : State) (r : EntryRef) : State :=
  match s.run? r with
  | none => s
  | some e =>
    let n := eCount e.raw 16
    let a := eAddr e.raw
    if eHost e.raw && !s.dmaUp then s.endRun r 0x17 3
    else if !eHost e.raw && !s.inBlocks a (blk * n) then s.endRun r 0x17 4
    else
      let (f, t) := copyRun (s.worked r) n (fun t i => t.copyAct r r.pound (eBase e.raw 16 + i))
        (fun t i (d, m) => if eHost e.raw then t.putHostBlock a n i d m else t.putBlock (a + blk * i) d m)
      t.copyEnd r f

/-- A request is aborted: its queue counts it once (R207, R222). -/
def State.markAborted (s : State) (r : Nat) : State :=
  if (s.req r).aborted then s
  else (s.modReq r (fun q => { q with aborted := true })).modQueue (s.req r).queue (fun x => { x with aborted := x.aborted + 1 })

/-- A request's next sentence finds no basin: the request is aborted, or its queue drains, or its model is discarded (R207,
R235). -/
def State.shut (s : State) (q : Request) (d : List Byte) : Bool :=
  q.aborted || decide ((s.queue q.queue).st = .draining) || (s.forwardTo q d).isNone

/-- A FORWARD of an aborted request ends as its blocks' copy leaves it; the request is removed as one that waits in a basin is, with
the one ABORTED record of such a request (R207; DEDUCED, assumption 65). -/
def State.forwardShut (s : State) (r : EntryRef) (i : Nat) : State :=
  let q := s.req i
  let detail := if (s.queue q.queue).st = .draining then 0 else 1
  (if q.aborted then s else (s.markAborted i).reqRecord i 0x29 detail).endRun r 0 0

/-- FORWARD asks for a place in the destination's basin; without one it waits (R171, R213). -/
def State.forwardIn (s : State) (r : EntryRef) : State :=
  match s.run? r, s.sent? r.pound r.pos with
  | some e, some n =>
    let q := s.req n.req
    if s.shut q e.raw then s.forwardShut r n.req else
    match s.forwardTo q e.raw with
    | none => s
    | some (d, el) =>
      if s.hasPlace d q.cls true then
        ((s.enter d ⟨n.req, el.saddr, el.host, el.nent, true⟩).modReq n.req (fun q => { q with
          route := q.route.map (fun (y : RouteEl) => if y.core = el.core then { y with started := true } else y) })).endRun r 0 0
      else s.modRun r (fun e => { e with mode := .waitForward })
  | _, _ => s

/-- FORWARD: blocks into every core of the destination pound, then the request into its basin (R171, R185). -/
def State.startForward (s : State) (r : EntryRef) : State :=
  match s.run? r with
  | none => s
  | some e =>
    match s.forwardTo (s.reqOfRun r) e.raw with
    | none => s
    | some (d, _) =>
      let (f, t) := copyRun (s.worked r) (eCount e.raw 16) (fun t i => t.copyAct r r.pound (eBase e.raw 16 + i))
        (fun t i (b, m) => t.each (t.poundCores d) (fun u c => u.putAct c (eBase e.raw 18 + i) b m))
      match f with
      | some (st, dt) => t.endRun r st dt
      | none => t.forwardIn r

/-- A basin has lost a request: the FORWARDs that wait try again, in the order of issue. -/
def State.forwardNext (s : State) : State :=
  let ws := sortBy (s.allRuns.filter (fun (_, e) => e.mode = .waitForward)) (fun a b => decide (a.2.tIssue ≤ b.2.tIssue))
  s.each (ws.map (·.1)) (fun t r => t.forwardIn r)

/-- SIGNAL (R166, R173). -/
def State.startSignal (s : State) (r : EntryRef) : State :=
  match s.run? r with
  | none => s
  | some e =>
    let a := eAddr e.raw
    let pm := eParam e.raw
    if eHost e.raw && !s.dmaUp then s.endRun r 0x17 3
    else if !eHost e.raw && !s.inBlocks a 8 then s.endRun r 0x17 4
    else
      let v := leBytes 8 e.seed
      let s1 := if eHost e.raw then (s.worked r).putHost a v else (s.worked r).putMem a v
      (if bit pm 15 then s1.msixSend (fld pm 10 0) else s1).endRun r 0 0

/-! ### Halo -/

/-- The core at the other end of a link (R139). -/
def haloPeer (c : Nat) (right : Bool) : Nat := if right then c + 1 else c - 1

/-- HALO_SEND puts a transfer on its link (R140), where at most two are outstanding (R141). -/
def State.startHaloSend (s : State) (r : EntryRef) : State :=
  match s.run? r with
  | none => s
  | some e =>
    (s.modCore r.pound (fun x => ({ x with
      haloWait := x.haloWait ++ [⟨r, decide (eParam e.raw = 0), eBase e.raw 16, eCount e.raw 16⟩] } : Core).haloFill)).modRun r
      (fun e => { e with mode := .waitHalo })

/-- HALO_WAIT's condition, by COR_HALO_SEQ (R172). -/
def State.haloMet (s : State) (r : EntryRef) (e : EntryRun) : Bool :=
  let x := s.core r.pound
  let q := if bit (eParam e.raw) 0 then x.seqR else x.seqL
  (q + 65536 - e.arg % 65536) % 65536 < 32768

/-- HALO_WAIT completes when its condition holds. -/
def State.haloCheck (s : State) (r : EntryRef) : State :=
  match s.run? r with
  | some e => if e.verb = 0xC && e.mode = .waitHalo && s.haloMet r e then s.endRun r 0 0 else s
  | none => s

/-- HALO_WAIT begins (R158, R172). -/
def State.startHaloWait (s : State) (r : EntryRef) : State :=
  match s.run? r with
  | none => s
  | some e =>
    let (m, _, n) := boundsOf e.raw ((s.listBytes e.raw).getD [])
    (s.modRun r (fun e => { e with mode := .waitHalo, arg := m % 65536 + 65536 * n })).haloCheck r

/-- The wait of HALO_WAIT has run out (R172). -/
def State.haloWaitOut (s : State) (r : EntryRef) : State :=
  match s.run? r with
  | some e => if e.verb = 0xC && e.mode = .waitHalo && e.arg / 65536 ≠ 0 && !s.haloMet r e then s.endRun r 0x23 3 else s
  | none => s

/-- The window of a receiver for a link: BASE and COUNT (R140). -/
def State.haloWin (s : State) (d : Nat) (right : Bool) : Nat × Nat :=
  let g : Reg := if right then .corHaloRxL else .corHaloRxR
  (s.rf g d 7 0, s.rf g d 14 8)

/-- The oldest transfer of a sender's link arrives (R140, R141): refused, or copied whole. -/
def State.haloArrive (s : State) (c : Nat) (right : Bool) : State :=
  let d := haloPeer c right
  match (s.core c).haloOut.find? (fun h => h.toRight = right) with
  | none => s
  | some h =>
    if !s.alive || (s.core d).tnd ≠ .running then s else
    let (base, count) := s.haloWin d right
    let s0 := (s.modCore c (fun x => ({ x with haloOut := x.haloOut.erase h } : Core).haloFill)).worked h.ref
    if count < h.count then
      ((s0.flag .corEvent d 8).raiseRun h.ref (evCore 0x2304 1 d (b2n (!right) + 256 * h.count + 65536 * count))).endRun h.ref 0x23 1
    else
      let (f, t) := copyRun s0 h.count (fun t i => t.copyAct h.ref c (h.base + i))
        (fun t i (b, m) => ((t.putAct d (base + i) b m).count c 38 (blk + 16)).count d 39 (blk + 16))
      match f with
      | some (st, dt) => t.endRun h.ref st dt
      | none =>
        let t1 := t.modCore d (fun x => if right then { x with seqL := (x.seqL + 1) % 65536 } else { x with seqR := (x.seqR + 1) % 65536 })
        (t1.endRun h.ref 0 0).each ((t1.allRuns.filter (fun (q, _) => q.pound = d)).map (·.1)) (fun u q => u.haloCheck q)

/-- A sender abandons the oldest transfer of a link (R142), whose receiver is in FAULT or held in reset. How many blocks
went over in full, and whether one more was written without its manifest, the spec leaves open (assumption 7). -/
def State.haloAbandon (s : State) (c : Nat) (right : Bool) : State :=
  let d := haloPeer c right
  match (s.core c).haloOut.find? (fun h => h.toRight = right) with
  | none => s
  | some h =>
    if !s.alive || (s.core d).tnd = .running then s else
    let (base, count) := s.haloWin d right
    let (v, s1) := s.fresh
    let k := if count < h.count then 0 else v % max 1 h.count
    let torn := h.count ≤ count && bit (v / h.count) 0
    let s2 := s1.each (List.range k) (fun t i =>
      let (b, m) := (t.core c).actBlock (h.base + i)
      ((t.putAct d (base + i) b m).count c 38 (blk + 16)).count d 39 (blk + 16))
    let s3 := if torn then s2.modCore d (fun x => { x with
        act := storeBytes x.act ((base + k) % 256 * blk) ((s2.core c).actBlock (h.base + k)).1 }) else s2
    (((s3.modCore c (fun x => ({ x with haloOut := x.haloOut.erase h } : Core).haloFill)).flag .corEvent d 0x10).raiseRun h.ref
      (evCore 0x2305 2 d (b2n (!right) + 256 * k))).endRun h.ref 0x23 2

/-! ### Adapters -/

/-- A problem cannot have its adapter: the entry, or the problem under a pointer list, fails (R161, R170, R247). -/
def State.adpMiss (s : State) (r : EntryRef) : State :=
  match s.run? r with
  | none => s
  | some e =>
    if !ePlist e.raw then s.endRun r 0x27 e.prob.stream
    else
      let s1 := if e.probs.all (fun pb => pb.fail = 0) then s.raiseRun r (evCore 0x1003 1 r.pound (e.cur % 4096 + 65536 * 0x27)) else s
      (s1.modRun r (fun e => { e with
        mode := .running,
        probs := e.probs.zipIdx.map (fun (pb, i) => if i = e.cur then { pb with fail := 0x27 } else pb) })).startProblem r (e.cur + 1)
        (e.probs.length + 1)

/-- An adapter of another compatibility class is reinitialised for a request at the issue version (R250); without the
reference copy of ADPINIT it is used as it stands. -/
def State.adpFit (s : State) (r : EntryRef) (slot ctx : Nat) : State :=
  let q := s.reqOfRun r
  match (s.model q.model).issueImg, s.adpInit q.model with
  | some (img, _), some init =>
    let old := leAt (s.bytesAt (s.adpAddr slot) 64) 20 4
    if q.version = some img.version && old ≠ img.compat then
      (s.adpFill slot ctx img.compat init).imgRaise 14 (evAdp 0x6020 0 q.model ctx (old + 2 ^ 32 * img.compat))
    else s
  | _, _ => s

/-- Give the rows an entry's core computed to every core of the pound (R185). -/
def State.shareRow (s : State) (r : EntryRef) (c row : Nat) (vals : List (Nat × Nat)) : State :=
  let cores := s.poundCores r.pound
  (s.modRun r (fun e => { e with outs := e.outs ++ cores.map (fun h => ⟨h, c, e.cur, row, vals⟩) })).count c 40
    ((cores.length - 1) * 4 * vals.length)

/-- The residue outcome that came with an entry's command, at its work in the tender (R137, R304). -/
def State.fltHit (s : State) (r : EntryRef) : State :=
  match (s.run? r).bind (·.flt) with
  | some (c, f) => (s.modRun r (fun e => { e with flt := none })).resHit r c 0 (some f)
  | none => s

/-- ADAPT on a resident adapter: every row of the problem (R247); with K = 0 no operand is read and every output is +0.0 (R159). -/
def State.adaptRows (s : State) (r : EntryRef) (bs : List Byte) : State :=
  match s.run? r with
  | none => s
  | some e =>
    let v := adpView bs
    let s0 := s.fltHit r
    if !s0.running r then s0 else
    let s1 := s0.each (e.shares.flatMap (fun (h : Share) => h.groups.map (fun m => (h.core, m)))) (fun t (c, m) =>
      if !t.running r || !((t.run? r).any (fun e => e.below m)) then t else
      if e.prob.k = 0 then t.shareRow r c m ((List.range e.prob.n).map (fun n => (n, 0)))
      else match t.inRow r c (eFmt e.raw) e.prob.k m 0 e.prob.k true (fun _ => true) with
      | (.error f, t1) => t1.failRow r m f
      | (.ok xs, t1) =>
        let u := adpU bs v (adpH bs v (xs.map Fp.bf))
        (t1.shareRow r c m (u.zipIdx.map (fun (w, n) => (n, w.toNat)))).count c 17 (v.rank * (v.kA + v.nA)))
    s1.flushAll r

/-- The rows of a region of ADAPT_UPD: `n` elements of `b` bytes each, of every row (R164, R186). -/
def State.updRows (s : State) (r : EntryRef) (field off b n m : Nat) : Except RdFail (List (List Word)) × State :=
  match s.run? r with
  | none => (.error (0, 0), s)
  | some e =>
    (List.range m).foldl (fun (acc, t) row => match acc with
      | .error g => (.error g, t)
      | .ok rows =>
        match gather t 0 (b * n) (fun t x len =>
            let (j, o) := locate (stride b n) row x
            match t.readReg r r.pound field (eBase e.raw field) (off + j) {} with
            | (.error g, t1) => (.error g, t1)
            | (.ok (d, _), t1) => (.ok ((d.drop o).take len), t1)) with
        | (.error g, t1) => (.error g, t1)
        | (.ok bs, t1) => (.ok (rows ++ [floats (if b = 2 then 1 else 2) n bs]), t1))
      (.ok [], s)

/-- ADP_UPD_SKIPPED of a context (R344, R357): the step field carries the round that is not yet closed. -/
def State.updSkipped (s : State) (ctx bad : Nat) : State :=
  (s.flag .talEvent 0 0x80).raise ((evDev 0x3108 1 bad).withStream true ctx s.tal.closed)

/-- ADAPT_UPD on a resident adapter (R343 to R345): the new bytes wait for the entry's completion. -/
def State.updRun (s : State) (r : EntryRef) (slot : Nat) (bs : List Byte) : State :=
  match s.run? r with
  | none => s
  | some e =>
    let pb := e.prob
    let s0 := (s.worked r).fltHit r
    if !s0.running r then s0 else
    match s0.updRows r 28 pb.auxOff 2 pb.k pb.m with
    | (.error f, s1) => s1.endRun r f.1 f.2
    | (.ok xs, s1) =>
      match s1.updRows r 16 pb.inOff 4 pb.n pb.m with
      | (.error f, s2) => s2.endRun r f.1 f.2
      | (.ok es, s2) =>
        let p := if ePlist e.raw then e.cur else 0
        let seed := entrySeed e.seed pb.step
        let lr := BitVec.ofNat 32 (e.arg % 2 ^ 32)
        let clip := BitVec.ofNat 32 (e.arg / 2 ^ 32 % 2 ^ 32)
        let s3 := match adpUpdate bs xs es lr clip (bit e.arg 64) (fun i => lane seed 2 ((p <<< 16) ||| i)) with
          | .error bad => (s2.modRun r (fun e => { e with nonfin := e.nonfin + bad })).updSkipped pb.stream bad
          | .ok new => s2.modRun r (fun e => { e with upd := e.upd ++ [(pb.stream, slot, new)] })
        s3.startProblem r (e.cur + 1) (e.probs.length + 1)

/-- The adapter of a slot as an entry reads it: unreadable memory or a bad manifest ends the entry. -/
def State.adpBytes (s : State) (r : EntryRef) (slot : Nat) : Except RdFail (List Byte) × State :=
  match (s.run? r).bind (fun e => e.upd.reverse.find? (fun (_, k, _) => k = slot)) with
  | some (_, _, bs) => (.ok bs, s)
  | none =>
    match s.adpRead slot with
    | .ok bs => (.ok bs, s)
    | .error (a, cause) =>
      let i := (a - s.adpAddr slot) / blk
      if cause ≠ 0 then (.error (0x21, i), s.manFailMem r r.pound false a cause)
      else if s.inBlocks a blk then (.error (0x22, i), s.ueMem a)
      else (.error (0x17, 4), s)

/-- The adapter that an entry keeps from its issue for the current problem, where it was replaced since (R170, R343), and its
slot. An ADAPT_UPD that has updated it in an earlier problem goes on from there (R345). -/
def State.oldAdapter (s : State) (e : EntryRun) : Option (Nat × List Byte) :=
  let ctx := e.prob.stream
  match List.lookup ctx e.olds with
  | none => none
  | some bs =>
    if e.verb = 4 then some (0, bs)
    else match s.slotOfCtx ctx, e.upd.reverse.find? (fun (c, _, _) => c = ctx) with
      | some slot, some (_, _, new) => some (slot, new)
      | some slot, none => some (slot, bs)
      | none, _ => none

/-- The problems of ADAPT or ADAPT_UPD in turn, while their adapters are resident (R170, R247, R248, R345). -/
def State.adaptGo (s : State) (r : EntryRef) : Nat → State
  | 0 => s
  | n + 1 =>
    match s.run? r with
    | none => s
    | some e =>
      if e.mode = .ended then s else
      let ctx := e.prob.stream
      let go (t : State) (slot : Nat) (bs : List Byte) : State :=
        let v := adpView bs
        if v.kA ≠ e.prob.k || v.nA ≠ e.prob.n then
          ((t.imgRaise 16 (evAdp 0x6022 1 (s.ctx ctx).model ctx (v.kA + 65536 * v.nA))).adpMiss r).adaptGo r n
        else
          let t1 := t.modRun r (fun e => { e with mode := .running })
          (if e.verb = 4 then (t1.worked r).adaptRows r bs else t1.updRun r slot bs).adaptGo r n
      if e.prob.k = 0 then
        (if e.verb = 4 then (s.worked r).adaptRows r [] else s.startProblem r (e.cur + 1) (e.probs.length + 1)).adaptGo r n
      else match s.oldAdapter e with
      | some (slot, bs) => go s slot bs
      | none =>
      match s.slotOfCtx ctx with
      | none =>
        let s1 := s.fetch ctx
        if s1.net.want.any (·.1 = ctx) && s1.adps.all (fun (x : Nat × AdpSlot) => !x.2.evicting) then
          let s2 : State := { s1 with net := { s1.net with want := s1.net.want.filter (·.1 ≠ ctx) } }
          (((s2.bump .imgAdpMissCount 0 1).imgRaise 15 (evAdp 0x6021 1 (s.ctx ctx).model ctx 2)).adpMiss r).adaptGo r n
        else s1.modRun r (fun e => { e with mode := .waitAdapter })
      | some slot =>
        let s1 := (s.adpFit r slot ctx).adpUse slot
        match s1.adpBytes r slot with
        | (.error f, s2) => s2.endRun r f.1 f.2
        | (.ok bs, s2) => go s2 slot bs

/-- ADAPT begins: PEND on its OUT blocks (R292), then the problems. -/
def State.startAdapt (flt : Option (CoreId × ResFault)) (s : State) (r : EntryRef) : State :=
  match s.run? r with
  | none => s
  | some e =>
    let n := e.probs.length + 1
    (((s.pendOut r).modRun r (fun e => { e with flt := flt.map (fun x => (x.1.val, x.2)) })).startProblem r 0 n).adaptGo r n

/-- ADAPT_UPD begins: LR, CLIP and SR are sampled (R343). -/
def State.startUpd (flt : Option (CoreId × ResFault)) (s : State) (r : EntryRef) : State :=
  match s.run? r with
  | none => s
  | some e =>
    let n := e.probs.length + 1
    ((s.modRun r (fun e => { e with
      flt := flt.map (fun x => (x.1.val, x.2)),
      arg := s.rd .talUpdLr + 2 ^ 32 * s.rd .talUpdClip + 2 ^ 64 * b2n (s.rb .talCfg 0 31) })).startProblem r 0 n).adaptGo r n

/-- The entries that wait for the adapter of a context go on (R248). -/
def State.adaptResume (s : State) (ctx : Nat) : State :=
  s.each (s.allRuns.filter (fun (_, e) => e.mode = .waitAdapter && e.prob.stream = ctx)) (fun t (r, e) => t.adaptGo r (e.probs.length + 1))

/-- A fetch fails (R248): the entries that wait for it have no adapter. `cause` as in ADP_FETCH_FAIL. -/
def State.fetchFail (s : State) (ctx cause : Nat) : State :=
  let s1 := (s.bump .imgAdpMissCount 0 1).imgRaise 15 (evAdp 0x6021 1 (s.ctx ctx).model ctx cause)
  s1.each (s1.allRuns.filter (fun (_, e) => e.mode = .waitAdapter && e.prob.stream = ctx))
    (fun t (r, e) => (t.adpMiss r).adaptGo r (e.probs.length + 1))

/-- After a write to the store has ended: evictions under way take the next candidate. Fetches that wait for a slot while
none is on its way out: one more eviction is tried, else they fail (R248, R249). -/
def State.adpSettle (s : State) : State :=
  let s := if s.adpGoal = 0 then s else s.evictRun none
  if s.net.want.isEmpty || s.adps.any (fun (x : Nat × AdpSlot) => x.2.evicting) then s
  else
    let s1 := (s.evictTo 1 none (s.adps.length + 1)).fetchNext
    if s1.net.want.isEmpty || s1.adps.any (fun (x : Nat × AdpSlot) => x.2.evicting) then s1
    else
      let ws := s1.net.want.map (·.1)
      ({ s1 with net := { s1.net with want := [] } } : State).each ws (fun t c => t.fetchFail c 2)

/-- A fetch has run into FETCH_TO (R248). -/
def State.fetchOut (s : State) (ctx : Nat) : State :=
  let slot := (List.find? (fun (x : Nat × AdpSlot) => x.2.fetching && x.2.ctx = ctx) s.adps).map (·.1)
  if slot.isNone && !s.net.want.any (·.1 = ctx) then s
  else
    let s1 : State := { s with net := { s.net with
      want := s.net.want.filter (·.1 ≠ ctx), tags := s.net.tags.filter (fun t => t.write || t.ctx ≠ ctx) } }
    let s2 := match slot with
      | some i => (s1.setAdp i {}).fetchNext
      | none => s1
    s2.fetchFail ctx 1

/-- ADP_DATA fills the slot that was fetched for, or says that the store has no adapter (R248, R367); then the slot
stays with the fetch until its limit. -/
def State.adpData (s : State) (peer : Nat) : State :=
  match s.nextMsg peer 0x22 with
  | none => s
  | some (ch, m) =>
    let s1 := s.tookMsg peer ch
    let tag := leAt m.payload 0 4
    match s.net.tags.find? (fun t => t.tag = tag && !t.write) with
    | none => s1
    | some t =>
      if leAt m.payload 4 1 ≠ 0 then s1
      else
        let (ok, s2) := s1.wireIn (s1.adpAddr t.slot) 16 (m.payload.drop 8)
        if !ok then s2
        else
          let s3 : State := { s2 with net := { s2.net with tags := s2.net.tags.filter (fun u => u.tag ≠ tag) } }
          ((s3.setAdp t.slot { s3.adp t.slot with fetching := false }).modCtx t.ctx (fun x => { x with adapter := 2 ^ 31 + t.slot })).adaptResume t.ctx

/-- An ADAPT or ADAPT_UPD in progress keeps the adapter of a context as it was when it issued (R170, R343). -/
def State.keepOld (s : State) (ctx : Nat) (old : List Byte) : State :=
  s.each ((s.allRuns.filter (fun (_, e) => (e.verb = 4 || e.verb = 5) && e.mode ≠ .ended && (e.probs.drop e.cur).any (fun pb => pb.stream = ctx) &&
      !e.olds.any (fun o => o.1 = ctx))).map (·.1))
    (fun t r => t.modRun r (fun e => { e with olds := e.olds ++ [(ctx, old)] }))

/-- The adapters that ADAPT_UPD computed replace those of their contexts (R170, R345). -/
def State.updStore (s : State) (e : EntryRun) : State :=
  s.each e.upd (fun t (ctx, slot, bs) =>
    (match t.adpRead slot with
      | .ok old => t.keepOld ctx old
      | .error _ => t).adpWrite slot bs)

/-! ### Ingest -/

/-- The core that quantises a token row of INGEST (R184). -/
def EntryRun.rowCore (e : EntryRun) (m : Nat) : Nat :=
  ((e.shares.find? (fun (h : Share) => h.groups.contains m)).map (fun (h : Share) => h.core)).getD 0

/-- The codes of a row: by learned scales, or with the row's dynamic code (R99, R101, R106). Code, saturated and not
finite by element. -/
def EntryRun.rowCodes (e : EntryRun) (c : Nat) (xs : List Word) (dyn : Option Nat) : List (Int × Bool × Bool) :=
  xs.zipIdx.map (fun (x, k) => quant x (dyn.getD (e.learned c e.learnedPos (k / gsize e.outG))))

/-- Quantise row `m` of INGEST and hold its codes; bit 8 of a value marks a saturated code (R101, R104, R107). -/
def State.ingestRow (s : State) (r : EntryRef) (m : Nat) : State :=
  match s.run? r with
  | none => s
  | some e =>
    let c := e.rowCore m
    match s.inRow r c (eFmt e.raw) e.prob.k m 0 e.prob.k true (fun _ => true) with
    | (.error f, s1) => s1.failRow r m f
    | (.ok xs, s1) =>
      let dyn := e.sclMode = 2 || e.dynRows.contains m
      let qs := e.rowCodes c xs (if dyn then some (rowDyn xs) else none)
      let row : HeldRow := ⟨c, m, qs.zipIdx.map (fun ((q, sat, _), k) => (k, BitVec.ofNat 32 ((codeByte q).toNat + 256 * b2n sat))), [rowDyn xs], dyn⟩
      let s2 := s1.modRun r (fun e => { e with held := row :: e.held.filter (fun h => h.row ≠ m) })
      if e.dynRows.contains m then s2
      else
        let nf := (qs.zipIdx.filter (fun ((_, _, b), _) => b)).map (·.2)
        let at_ := match nf with
          | k :: _ => inPos (fmtBytes (eFmt e.raw)) e.prob.k m k 0
          | [] => 0
        let s3 := (s2.nonFinite r c nf.length at_).count c 20 e.prob.k
        if dyn then (s3.bump .corDynRowCount c 1).count c 27 1 else s3

/-- The values of region block `i` of INGEST as held (R102, R187). -/
def EntryRun.heldVals (e : EntryRun) (i : Nat) : List Nat :=
  (List.range blk).map (fun k => match e.elemAt i k with
    | some (m, col) => (((e.held.find? (fun h => h.row = m)).bind (fun h => List.lookup col h.ys)).getD 0).toNat
    | none => 0)

/-- Write block `i` of INGEST and its slot of the scale lane in every core of the pound (R102, R104, R185). -/
def State.ingestWrite (s : State) (r : EntryRef) (i : Nat) : State :=
  match s.run? r with
  | none => s
  | some e =>
    let data := e.heldVals i |>.map (fun v => BitVec.ofNat 8 v)
    let dynOf (m : Nat) : Option Nat := (e.held.find? (fun h => h.row = m && h.ranged)).map (fun h => h.flags.headD 0)
    let dyn := (rowsIn e.outStride e.prob.m i).any (fun m => (dynOf m).isSome)
    let c := e.rowCore ((rowsIn e.outStride e.prob.m i).headD 0)
    let cs := e.slotCodes c i dynOf
    s.each (s.poundCores r.pound) (fun t h =>
      let t1 := t.putOut r h (eBase e.raw 18 + i) data
        { tensor := t.outTensor r e h, index := i, tag := 2 ^ 13 * e.outG + 2 ^ 12 * b2n dyn, version := e.version }
      let t2 := t1.modRun r (fun x => { x with
        done := if x.done.contains (h, i) then x.done else (h, i) :: x.done,
        scaleOut := cs.zipIdx.foldl (fun m (v, k) => m.set 0 (laneKey h i k) (BitVec.ofNat 8 v)) x.scaleOut })
      if i % 32 = 31 || i + 1 = e.outBlocks || 32 * (i / 32) + 31 < (t2.run? r |>.map (fun x => (x.done.filter (·.1 = h)).length)).getD 0 then
        t2.putLane r h (i / 32)
      else t2)

/-- The region blocks of INGEST that hold token rows of a list. -/
def EntryRun.rowBlocks (e : EntryRun) (rows : List Nat) : List Nat :=
  (List.range e.outBlocks).filter (fun j => (rowsIn e.outStride e.prob.m j).any rows.contains)

/-- A block trips: its rows are quantised again on dynamic scales, across all their blocks (R104). -/
def State.ingestTrip (s : State) (r : EntryRef) (e : EntryRun) (c i : Nat) (rows : List Nat) (cause sats top : Nat) : State :=
  let s1 := (s.modRun r (fun x => { x with
    dynRows := rows ++ x.dynRows, ingested := ((e.rowBlocks rows).filter (fun j => !x.ingested.contains j)).reverse ++ x.ingested })).each
    rows (fun t m => t.ingestRow r m)
  ((s1.guardTrip r c i cause sats top false).bump .corDynRowCount c rows.length).count c 27 rows.length

/-- The blocks of rows whose every block is evaluated, or rewritten, are released: data, scale lane, and the counts of the codes
finally written (R104, R185). In the other modes a block is released as it is. -/
def State.ingestRelease (s : State) (r : EntryRef) (e : EntryRun) (i : Nat) (rows : List Nat) : State :=
  let bs := if e.sclMode = 0 then e.rowBlocks rows else [i]
  if !bs.all e.ingested.contains then s else
  let last := if e.sclMode = 0 then rows else rows.filter (fun m => (locate e.outStride m (e.outStride - 1)).1 = i)
  let sats (m : Nat) : Nat := ((e.held.filter (fun h => h.row = m)).flatMap (fun h => h.ys.filter (fun (_, v) => 256 ≤ v.toNat))).length
  let s1 := (s.each bs (fun t j => t.ingestWrite r j)).each last (fun t m => t.codeSat r (e.rowCore m) (sats m))
  (s1.modRun r (fun x => { x with held := x.held.filter (fun h => !last.contains h.row) })).advance r

/-- The ingest stage evaluates region block `i` and releases what may be released (R103, R104): the blocks go in ascending
order, each by the core of its first row. -/
def State.ingestBlock (s : State) (r : EntryRef) (c i : Nat) (flt : Option ResFault) : State :=
  match s.run? r with
  | none => s
  | some e =>
    let rows := rowsIn e.outStride e.prob.m i
    if !s.alive || e.verb ≠ 6 || e.mode ≠ .running || !(s.core c).accepting || i ≠ e.ingested.length || !e.due i ||
        rows.isEmpty || e.rowCore (rows.headD 0) ≠ c then s
    else
      let s0 := ((s.worked r).takeTask r c).resHit r c (rows.headD 0) flt
      if !s0.running r then s0 else
      let s1 := s0.each (rows.filter (fun m => !e.held.any (fun h => h.row = m))) (fun t m =>
        if (t.run? r).any (fun e => e.mode = .running && e.below m) then t.ingestRow r m else t)
      match s1.run? r with
      | none => s1
      | some e1 =>
        if e1.mode ≠ .running || !e1.due i then s1 else
        let vals := e1.heldVals i
        let sats := (vals.filter (256 ≤ ·)).length
        let (cause, top) := e1.guard c (vals.map (fun v => (BitVec.ofNat 8 v).toInt)) sats
        let s2 := if e1.sclMode = 0 && cause ≠ 0 then s1.ingestTrip r e1 c i rows cause sats top
          else s1.modRun r (fun e => { e with ingested := i :: e.ingested })
        match s2.run? r with
        | none => s2
        | some e2 => s2.ingestRelease r e2 i rows

/-- INGEST begins: shares and learned scales (R101, R184, R455). -/
def State.startIngest (s : State) (r : EntryRef) : State := s.startProblem r 0 2

/-! ### Field tests -/

/-- The arrays under test in a phase (R315): phases 3 to 5 need the reference copy. -/
def FieldTest.tested (f : FieldTest) : Nat := if f.phase ≤ 2 then f.mask else f.mask &&& (0xFFFF - f.skipped % 65536)

/-- The logical arrays of a mask. -/
def maskArrays (m : Nat) : List Nat := (List.range 16).filter (bit m)

/-- Begin the field test of an entry, when no other runs on the core (R315). -/
def State.fieldBegin (s : State) (r : EntryRef) : State :=
  match s.run? r with
  | none => s
  | some e =>
    let c := r.pound
    if (s.core c).fieldTest.isSome then s.modRun r (fun e => { e with mode := .waitField })
    else
      let ls := maskArrays (eParam e.raw)
      let live := ls.filter (fun l => let st := (s.arr (s.larr c l)).st; st = .ready || st = .serving)
      let full := live.filter (fun l => (s.holder c l (s.larr c l)).any (fun h => h.ref && h.img.version = s.rd .arrVersion (s.larr c l)))
      let mk (xs : List Nat) : Nat := (xs.map (fun l => 2 ^ l)).sum
      let f : FieldTest := { ref := r, mask := mk live, phase := 1, permanent := 0, transient := 0,
                             skipped := mk (ls.filter (fun l => !full.contains l)), repeating := 0 }
      ((s.modCore c (fun x => { x with fieldTest := some f })).worked r).modRun r (fun e => { e with mode := .waitField })

/-- A field test that has no array left to test, or no phase, ends (R316); the next one that waits begins. -/
def State.fieldEnd (s : State) (c : Nat) : State :=
  match (s.core c).fieldTest with
  | none => s
  | some f =>
    if f.phase ≤ 5 && f.tested ≠ 0 then s
    else
      let good := (maskArrays f.mask).filter (fun l => !bit f.skipped l)
      let s1 := s.each good (fun t l => t.modArr (t.larr c l) (fun a => { a with lastGood := t.time }))
      let s2 := (s1.raiseRun f.ref (evCore 0x300A 0 c (f.permanent + 65536 * f.transient + 2 ^ 32 * f.skipped))).endRun f.ref 0 0
      let s3 := s2.modCore c (fun x => { x with fieldTest := none })
      match s3.allRuns.find? (fun (q, e) => q.pound = c && e.verb = 0xD && e.mode = .waitField) with
      | some (q, _) => s3.fieldBegin q
      | none => s3

/-- FIELD_TEST begins. -/
def State.startField (s : State) (r : EntryRef) : State := (s.fieldBegin r).fieldEnd r.pound

/-- A phase ends (R309, R315, R316, R454): arrays that fail are repeated; those that fail again are quarantined and leave
the test. -/
def State.fieldPhase (s : State) (c : Nat) (fails : List FieldFail) : State :=
  match (s.core c).fieldTest with
  | none => s
  | some f =>
    if !s.alive then s else
    let hit (l : Nat) : Option FieldFail := fails.find? (fun x => x.larr.val = l)
    if f.repeating = 0 then
      let bad := (maskArrays f.tested).filter (fun l => (hit l).isSome)
      if bad.isEmpty then (s.modCore c (fun x => { x with fieldTest := some { f with phase := f.phase + 1 } })).fieldEnd c
      else s.modCore c (fun x => { x with fieldTest := some { f with repeating := (bad.map (fun l => 2 ^ l)).sum } })
    else
      let again := maskArrays f.repeating
      let perm := again.filter (fun l => (hit l).isSome)
      let mk (xs : List Nat) : Nat := (xs.map (fun l => 2 ^ l)).sum
      let s1 := s.each again (fun t l => match hit l with
        | some x =>
          let pair := if f.phase = 2 then 0x3FF else x.pair % 1024
          (t.permArr c l 7 pair (f.phase ≠ 2 && f.phase ≠ 5) (if f.phase = 3 then x.row % 2048 else 0x7FF)).quarantine c l
        | none => t.transient c l 7)
      (s1.modCore c (fun x => { x with fieldTest := some { f with
        phase := f.phase + 1, repeating := 0, mask := f.mask &&& (0xFFFF - mk perm), permanent := f.permanent ||| mk perm,
        transient := f.transient ||| mk (again.filter (fun l => !perm.contains l)) } })).fieldEnd c

end Sys2Proof.Machine
end

