-- ==== Sys2Proof/Machine/LinkOps.lean ====
section
/-! DEFINITION. Logical ports and the commands of the Sirin block (R359 to R362, R370, R390). -/
namespace Sys2Proof.Machine
open Sys2Proof

/-! ### Logical ports -/

/-- The logical ports a MODE forms, by lane, with their rates in 100 Gb/s (R359). -/
def modePorts : Nat → List (Nat × Nat)
  | 0 => [(0, 4)]
  | 1 => [(0, 2), (2, 2)]
  | 2 => [(0, 1), (1, 1), (2, 1), (3, 1)]
  | 3 => [(0, 2), (2, 1), (3, 1)]
  | _ => []

/-- The rate of a logical port, none when its physical port is off or does not form it (R359). -/
def State.portRate (s : State) (p : Nat) : Option Nat :=
  if s.rb .ethPortCfg (p / 4) 8 then ((modePorts (s.rf .ethPortCfg (p / 4) 2 0)).find? (fun e => e.1 = p % 4)).map (·.2) else none

/-- A logical port comes up (R361): packets that waited for it leave. -/
def State.portUp (s : State) (p : Nat) : State :=
  match s.portRate p with
  | some r =>
    if s.linkUp p then s
    else
      let s1 := (s.flag .ethPortStatus (p / 4) (2 ^ (p % 4))).raise (evIf 0x5001 0 p (p + 256 * r))
      s1.each (s1.net.peers.map (·.1)) (fun t k => if t.peerPort k = p then (t.pump k 0).pump k 1 else t)
  | none => s

/-- A logical port goes down (R361). -/
def State.portDown (s : State) (p : Nat) : State :=
  if s.linkUp p then (s.wf_ .ethPortStatus (p / 4) (p % 4) (p % 4) 0).raise (evIf 0x5002 1 p p) else s

/-! ### Sirin commands -/

/-- RELOAD (R362, R390): the table is read from device memory; not while EN = 1. -/
def State.srnReload (s : State) (p : Path) : State :=
  if s.rb .ethSrnCfg 0 16 then s.ignored p (Reg.ethSrnCmd.addr 0 0) 3
  else match s.readDev (s.rdPair .ethSrnTableLo .ethSrnTableHi) (64 * 336) with
    | some d => { s with net := { s.net with table := d, peers := s.net.peers.filter (fun e => !e.2.ctl.isEmpty) } }
    | none => s.ueRead false (s.rdPair .ethSrnTableLo .ethSrnTableHi) (64 * 336)

/-- OPEN command (R370). -/
def State.srnOpen (s : State) (i : Nat) : State :=
  if s.srnUsable i && (s.peer i).st = .closed then s.openBegin i else s

/-- CLOSE command (R370). -/
def State.srnClose (s : State) (i : Nat) : State :=
  if s.srnUsable i then (s.sirinCtl i 0 4).closePeer i else s

end Sys2Proof.Machine
end

