-- ==== Sys2Proof/Machine/GroupOps.lean ====
section
/-! DEFINITION. Replica groups: membership, rounds, probes, tallies, verdicts (R346 to R357). -/
namespace Sys2Proof.Machine
open Sys2Proof

/-! ### The group -/

/-- K, the group steps of a round. -/
def State.talK (s : State) : Nat := max 1 (s.rf .talCfg 0 12 0)
/-- This device's member index. -/
def State.talMe (s : State) : Nat := s.rf .talGroup 0 10 8
/-- The group model. -/
def State.talModel (s : State) : Nat := s.rf .talGroup 0 31 16
/-- The Sirin peer of a member (R356). -/
def State.talPeer (s : State) (m : Nat) : Nat :=
  fld (s.rd .talPeer 0 (m / 4)) (8 * (m % 4) + 7) (8 * (m % 4))

/-- Change the group's state. -/
def State.modTal (s : State) (f : Tal → Tal) : State := { s with tal := f s.tal }

/-- CFG: the CRC over the group configuration's registers in offset order, then the image version (R348). -/
def State.talCrc (s : State) : Nat :=
  crc32c (([s.rd .talCfg, s.rd .talGroup, s.rd .talPeer 0 0, s.rd .talPeer 0 1, s.rd .talSeedLo, s.rd .talSeedHi, s.rd .talUpdLr,
    s.rd .talUpdClip, (s.model s.talModel).issue]).flatMap (leBytes 4))

/-- The values of STATE (R356). -/
def RepSt.num : RepSt → Nat
  | .idle => 0 | .forming => 1 | .syncing => 2 | .member => 3 | .suspect => 4 | .expelled => 5

/-- This device takes part in rounds. -/
def Tal.active (t : Tal) : Bool := decide (t.st = .member) || decide (t.st = .suspect)

/-- The leader: the lowest index of the members (R346; the other members' states are not reported, so each counts as
MEMBER). -/
def Tal.leader (t : Tal) : Option Nat := (List.range 7).find? t.members.contains

/-- The members but this one. -/
def State.talOthers (s : State) : List Nat := s.tal.members.filter (· ≠ s.talMe)

/-- An event of R357: its sticky bit is its number. -/
def State.talRaise (s : State) (code sev round detail : Nat) : State :=
  (s.flag .talEvent 0 (2 ^ (code - 0x3101))).raise ((evDev code sev detail).withStream false 0xFFFF round)

/-- SUSPECT_RANGE of a tally mismatch (R318, R355). -/
def State.talSuspect (s : State) (round : Nat) : State := s.raise ((evDev 0x300C 2 s.tal.agree).withStream false 0xFFFF round)

/-- TAL_STATUS (R356). -/
def State.talStatus (s : State) : Nat :=
  let t := s.tal
  let lead := t.active && t.leader = some s.talMe
  t.st.num + 8 * b2n lead + 16 * (if t.active then t.leader.getD 0 else 0) + 256 * ((t.members.map (fun i => 2 ^ i)).sum) +
  32768 * b2n (decide (t.st ≠ .idle)) + 65536 * t.code

/-- Send a group message to some members (R367). -/
def State.talSend (s : State) (peers : List Nat) (typ : Nat) (pay : List Byte) : State :=
  s.each peers (fun t m => (t.srnSend (t.talPeer m) 0 typ pay).2)

/-- GROUP_HELLO (R367). -/
def State.hello (s : State) : List Byte :=
  leBytes 1 (s.rf .talGroup 0 7 0) ++ leBytes 1 s.talMe ++ leBytes 1 s.tal.st.num ++ [0] ++ leBytes 4 s.talCrc

/-- A message of this group. -/
def State.ofGroup (s : State) (p : List Byte) : Bool := leAt p 0 1 = s.rf .talGroup 0 7 0 && leAt p 1 1 < 7

/-! ### Folding updates -/

/-- The digest one advanced context folds (R349). An adapter that is in no slot counts as zeros. -/
def State.talDigest (s : State) (gstep c : Nat) : Nat :=
  let x := s.ctx c
  let adp := match s.slotOfCtx c with
    | some i => s.bytesAt (s.adpAddr i) 65536
    | none => List.replicate 65536 0
  leNat (Sha.sha256 (leBytes 8 gstep ++ leBytes 2 c ++ leBytes 16 x.pack ++ (adp.drop 24).take 8 ++ adp ++
    s.bytesAt x.stAddr (blk * x.stBlocks)))

/-- Fold the update of a context into the round accumulator (R349). -/
def State.talFold (s : State) (gstep c : Nat) : State :=
  let d := s.talDigest gstep c
  s.modTal (fun t => { t with acc := (t.acc + d) % 2 ^ 256, updates := t.updates + 1 })

/-- The BOUND contexts of the group model. -/
def State.talCtxs (s : State) : List Nat :=
  (List.filter (fun (e : Nat × Ctx) => e.2.st = .bound && e.2.model = s.talModel) s.ctxs).map (·.1)

/-- A request of the group ends on this member (R349). -/
def State.talDone (s : State) (gstep version : Nat) (ctxs : List Nat) : State :=
  if !s.tal.active then s
  else (s.each ctxs (fun t c => t.talFold gstep c)).modTal (fun t => { t with done := gstep :: t.done, version := if gstep % s.talK = 0 then version else t.version })

/-- The round of a group step. -/
def State.talRound (s : State) (gstep : Nat) : Nat := cdiv gstep s.talK

/-- A group request waits for the verdict of the round before its own (R347), and on a joining member for the contexts (R348). -/
def State.talHeld (s : State) (gstep : Nat) : Bool :=
  decide (s.tal.st = .syncing) || (s.tal.active && 1 < s.tal.members.length && s.tal.decided < s.talRound gstep)

/-! ### Probes -/

/-- The grid entries of the group model in ascending layer and grid order: placement, grid index, grid entry (R350). -/
def gridOrder (img : Image) : List (Placement × Nat × GridEntry) :=
  (sortBy img.layers (fun a b => decide (a.layer ≤ b.layer))).flatMap (fun y => y.grid.zipIdx.map (fun (e, t) => (y, t, e)))

/-- Probe vector `q` of an image (R351). -/
def State.probeVec (s : State) (img : Image) (q : Nat) : Option (List Byte) :=
  (s.sectData img 8 0 (q / 4)).map (fun d => (d.drop (1024 * (q % 4))).take 1024)

/-- The expected signature of vector `q` on grid entry `g` (R351). -/
def State.probeWant (s : State) (img : Image) (g q : Nat) : Option (List Word) :=
  (s.sectData img 8 0 (4 + g / 2)).map (fun d => (List.range 32).map (fun i => fp32At d (2048 * (g % 2) + 128 * q + 4 * i)))

/-- A signature is at fault (R351). -/
def State.probeBad (s : State) (want got : List Word) : Bool :=
  let m : Rat := (s.rf .talCfg 0 27 20 : Nat) / 8
  (want.zip got).any (fun (w, g) =>
    let x := Fp.toRat w
    !Fp.isFin g || decide (m * (8 + 5 / 1000 * absR x) < absR (Fp.toRat g - x)))

/-- One probe conversion: the signature and whether it clipped (R350). -/
def State.probeRun (s : State) (c l : Nat) (vec : List Byte) : List Word × Bool × State :=
  let a := s.larr c l
  let fb := s.calFb c l
  let drive := vec.map (fun b => 2 * (actCode b).1)
  let s0 := s.reserved c (vec.filter (fun b => (actCode b).2)).length
  let (all, s1) := (List.range 4).foldl (fun (xs, t) i => let (v, t1) := State.convertAll t a fb i (t.rd .arrTrimCfg a) drive; (xs ++ v, t1)) (([] : List (Nat × Int)), s0)
  let codes := all.filter (·.1 < 514)
  let m : NMap Int := codes.foldl (fun m (p, v) => m.set 0 p v) []
  let sig := (List.range 32).map (fun i =>
    Fp.ofRat false (((List.range 16).map (fun k => ((m.get 0 (16 * i + k) : Int) : Rat) * s.weight a (16 * i + k))).sum))
  (sig, codes.any (fun (_, v) => v = 511 || v = -511), s1)

/-- Bytes of one probe in the tally (R352). -/
def probeBytes (g q : Nat) (clipped spare : Bool) (sig : List Word) : List Byte :=
  leBytes 2 g ++ leBytes 1 q ++ leBytes 1 (b2n clipped + 2 * b2n spare) ++ sig.flatMap (fun (w : Word) => leBytes 4 w.toNat)

/-- Probe `j` of round `r` (R350, R351): its bytes, and whether a permanent fault was found. A grid entry whose array does
not serve, or whose probe vector cannot be read, gives no probe. -/
def State.probe (s : State) (img : Image) (r j : Nat) : Option (List Byte) × Bool × State :=
  let grid := gridOrder img
  let seed := s.rd .talSeedLo + 2 ^ 32 * s.rd .talSeedHi
  let x := lane (entrySeed seed r) 3 j
  let g := x % max 1 grid.length
  let q := x / 2 ^ 32 % 16
  match grid[g]?, s.probeVec img q with
  | some (_, _, e), some vec =>
    let c := e.core
    let l := e.larr
    if (s.arr (s.larr c l)).st ≠ .serving then (none, false, s)
    else
      let k := s.core c
      let spare := k.noSpare && k.retired.isSome && k.lastLogical = l
      let want := s.probeWant img g q
      let (sig, clip, s1) := s.probeRun c l vec
      let bad (sig : List Word) (clip : Bool) : Bool := !clip && want.any (fun w => s.probeBad w sig)
      if !bad sig clip then (some (probeBytes g q clip spare sig), false, s1)
      else
        let (sig2, clip2, s2) := s1.probeRun c l vec
        if bad sig2 clip2 then
          (some (probeBytes g q clip2 spare sig2), true, (s2.permArr c l 6 0x3FF false 0x7FF).quarantine c l)
        else (some (probeBytes g q clip2 spare sig2), false, s2.transient c l 6)
  | _, _ => (none, false, s)

/-- All probes of a round (R350). -/
def State.probes (s : State) (r : Nat) : List (List Byte) × Bool × State :=
  match (s.model s.talModel).issueImg with
  | some (img, _) =>
    (List.range (s.rf .talCfg 0 18 16)).foldl (fun (ps, bad, t) j =>
      match State.probe t img r j with
      | (some p, b, t1) => (ps ++ [p], bad || b, t1)
      | (none, b, t1) => (ps, bad || b, t1)) (([] : List (List Byte)), false, s)
  | none => ([], false, s)

/-- Report the probes at fault in another member's tally (R353). -/
def State.probeLog (s : State) (tally : List Byte) : State :=
  match (s.model s.talModel).issueImg with
  | none => s
  | some (img, _) =>
    s.each (List.range (min 7 (leAt tally 3 1))) (fun t j =>
      let p := (tally.drop (80 + 132 * j)).take 132
      let g := leAt p 0 2
      let q := leAt p 2 1
      let sig := (List.range 32).map (fun i => fp32At p (4 + 4 * i))
      if !bit (leAt p 3 1) 0 && (t.probeWant img g q).any (fun w => t.probeBad w sig) then
        t.talRaise 0x3107 1 (leAt tally 8 8) (leAt tally 1 1 + 65536 * g + 2 ^ 32 * (q % 16))
      else t)

/-! ### Verdicts -/

/-- What two tallies must have in common (R353). -/
def tallyCore (p : List Byte) : List Byte := (p.drop 4).take 4 ++ (p.drop 16).take 48

/-- The cause of a mismatch between two tallies (R357): CFG before VERSION and GSTEP before the rest. -/
def tallyCause (a b : List Byte) : Nat :=
  if leAt a 28 4 ≠ leAt b 28 4 then 3
  else if leAt a 4 4 ≠ leAt b 4 4 || leAt a 16 8 ≠ leAt b 16 8 then 2 else 1

/-- A mask of members. -/
def memMask (xs : List Nat) : Nat := (xs.map (fun i => 2 ^ i)).sum

/-- The classes of agreeing tallies, the lowest member first (R353). -/
def tallyClasses (xs : List (Nat × List Byte)) : List (List Nat) :=
  (xs.map (fun (_, p) => tallyCore p)).eraseDups.map (fun k => (xs.filter (fun (_, p) => tallyCore p = k)).map (·.1))

/-- Discard the held group requests with group steps above `g`: how many steps at most, and the state (R354). -/
def State.talDiscard (s : State) (g : Nat) : List Nat × State :=
  let rs := (List.filter (fun (e : Nat × Request) => e.2.live && e.2.admitted.isEmpty && e.2.group.any (g < ·)) s.reqs).map (fun e => (e.1, e.2.group.getD 0))
  let mine (r : Nat) : Bool := rs.any (fun e => e.1 = r)
  let s1 := s.each (s.pounds.map (·.1)) (fun t p => t.modPound p (fun x => { x with basin := x.basin.filter (fun b => !mine b.req) }))
  (rs.map (·.2), (s1.each (rs.map (·.1)) State.dropReq).modTal (fun t => { t with gstep := g }))

/-- Members leave the group by expulsion after round `r` (R348, R354). -/
def State.talRemove (s : State) (out : List Nat) (r : Nat) (expelled : Bool) : State :=
  let old := s.tal.leader
  let s1 := s.modTal (fun t => { t with
    members := t.members.filter (fun m => !out.contains m), joining := t.joining.filter (fun m => !out.contains m.1),
    hello := t.hello.filter (fun m => !out.contains m), silent := t.silent.filter (fun e => !out.contains e.1),
    votes := t.votes.filter (fun v => !out.contains v.2) })
  if expelled && old.any out.contains then
    let (gs, s2) := s1.talDiscard (r * s1.talK)
    if s2.tal.leader = some s2.talMe then
      s2.talRaise 0x3105 1 r ((r * s2.talK + 1) % 2 ^ 32 + 2 ^ 32 * (gs.foldl max (r * s2.talK) % 2 ^ 32))
    else s2
  else s1

/-- This member is expelled in round `r` (R348, R318). -/
def State.talExpelled (s : State) (r : Nat) (operator : Bool) : State :=
  let s1 := (s.modTal (fun t => { t with st := .expelled })).talRaise 0x3102 2 r (s.talMe + 8 * b2n operator)
  if operator then s1 else s1.talSuspect r

/-- The members that got their contexts at the close of round `r` take part from the next one on (R348). -/
def State.talJoined (s : State) (r : Nat) : State :=
  s.modTal (fun x => { x with
    members := x.members ++ ((x.joining.filter (fun j => j.2 ≤ r)).map (·.1)).filter (fun m => !x.members.contains m),
    joining := x.joining.filter (fun j => r < j.2) })

/-- The verdict on round `r`, the oldest undecided one, from the tallies held (R353 to R355). -/
def State.talVerdict (s : State) (r : Nat) : State :=
  let me := s.talMe
  let ms := s.tal.members
  let got := ms.filterMap (fun m => (s.tal.tallies.find? (8 * r + m)).map (fun p => (m, p)))
  let quiet := ms.filter (fun m => !got.any (fun e => e.1 = m))
  let count (m : Nat) : Nat := s.tal.silent.get 0 m + 1
  let s1 := s.modTal (fun t => { t with
    silent := ms.foldl (fun q m => q.set 0 m (if quiet.contains m then count m else 0)) t.silent,
    decided := r + 1, tallies := t.tallies.filter (fun e => 8 * r + 8 ≤ e.1) })
  let s2 := s1.each quiet (fun t m => t.talRaise 0x3104 1 r (m + 256 * min 15 (count m)))
  let lost := quiet.filter (fun m => s.rf .talTime 0 11 8 ≤ count m)
  let cls := tallyClasses got
  let big := cls.find? (fun k => ms.length < 2 * k.length)
  let own := got.find? (fun e => e.1 = me)
  let whole := cls.length = 1 && lost.isEmpty && (quiet.isEmpty || big.isSome)
  let mis (t : State) : State := if cls.length ≤ 1 then t else
    let base := (big.orElse (fun _ => cls.find? (fun k => k.contains me))).getD []
    let other := got.filter (fun e => !base.contains e.1)
    let cause := match other, got.find? (fun e => base.contains e.1) with
      | o :: _, some b => tallyCause o.2 b.2
      | _, _ => 1
    t.talRaise 0x3101 2 r (cause + 256 * memMask (other.map (·.1)))
  let join (t : State) : State := t.talJoined r
  if whole then
    join (s2.modTal (fun t => { t with agree := r, st := if quiet.isEmpty then .member else t.st }))
  else
    let s3 := mis (s2.bump .talMismatchCount 0 1)
    match (if 3 ≤ ms.length then big else none), own with
    | some k, some _ =>
      let odd := (got.filter (fun e => !k.contains e.1)).map (·.1) ++ lost
      if k.contains me then
        let s4 := s3.each odd (fun t m => t.talSend (t.talOthers) 0x32
          (leBytes 1 (t.rf .talGroup 0 7 0) ++ leBytes 1 me ++ leBytes 1 m ++ [0] ++ leBytes 8 r))
        join ((s4.talRemove odd r true).modTal (fun t => { t with agree := r }))
      else s3.talExpelled r false
    | _, _ =>
      let m (i : Nat) : Nat := memMask (cls.getD i [])
      (((s3.modTal (fun t => { t with st := .suspect })).talRaise 0x3103 2 r (m 0 + 256 * m 1 + 65536 * m 2)).talSuspect r)

/-- Form the verdict when every current member's tally is held (R353); a lone member decides at once (R348). -/
def State.talCheck (s : State) : State :=
  let t := s.tal
  let r := t.decided
  if !t.active || t.closed ≤ r then s
  else if t.members.length ≤ 1 then
    (s.modTal (fun t => { t with decided := t.closed, tallies := [], agree := r, st := .member })).talJoined r
  else if t.members.all (fun m => (t.tallies.find? (8 * r + m)).isSome) then s.talVerdict r else s

/-- The leader sends a joining member every BOUND context of the model as it stands (R348, R367). -/
def State.syncSend (s : State) (m r : Nat) : State :=
  s.each s.talCtxs (fun t c =>
    let x := t.ctx c
    let adp := match t.slotOfCtx c with
      | some i => t.adpWire i
      | none => List.replicate (16 * 4112) 0
    let st := (List.range x.stBlocks).flatMap (fun i => t.bytesAt (x.stAddr + blk * i) blk ++ (t.devMan (x.stAddr + blk * i)).bytes)
    (t.srnSend (t.talPeer m) 1 0x34 (leBytes 2 c ++ leBytes 2 x.stBlocks ++ leBytes 8 x.step ++ leBytes 8 r ++ leBytes 16 x.pack ++
      [0, 0, 0, 0] ++ adp ++ st)).2)

/-- A round closes on this member (R349 to R352): probes, its tally to every other member, contexts to joining members. -/
def State.roundClose (s : State) : State :=
  let t := s.tal
  let r := t.closed
  let k := s.talK
  let due := if r = 0 then [] else (List.range k).map (fun i => (r - 1) * k + 1 + i)
  if !s.alive || !t.active || t.decided < r || !due.all t.done.contains then s
  else
    let lone := t.members.length ≤ 1
    let (ps, bad, s1) := if lone then ([], false, s) else s.probes r
    let lead := t.leader = some s.talMe
    let ver := if r = 0 then (s.model s.talModel).issue else t.version
    let pay := leBytes 1 (s.rf .talGroup 0 7 0) ++ leBytes 1 s.talMe ++ leBytes 1 (b2n lead + 2 * b2n bad) ++ leBytes 1 ps.length ++
      leBytes 4 ver ++ leBytes 8 r ++ leBytes 8 (r * k) ++ leBytes 4 t.updates ++ leBytes 4 s.talCrc ++ leBytes 32 t.acc ++
      leBytes 8 s.time ++ List.replicate 8 0 ++ ps.flatten
    let s2 := s1.modTal (fun t => { t with
      closed := r + 1, acc := 0, updates := 0, done := t.done.filter (r * k < ·), tallies := t.tallies.set [] (8 * r + s.talMe) pay, sentAt := s.time })
    let s3 := if lone then s2 else s2.talSend s2.talOthers 0x31 pay
    let s4 := if lead then s3.each ((s3.tal.joining.filter (fun j => j.2 = r)).map (·.1)) (fun u m => u.syncSend m r) else s3
    s4.talCheck

/-- A received TALLY (R353). -/
def State.tallyMsg (s : State) (peer : Nat) : State :=
  match s.nextMsg peer 0x31 with
  | none => s
  | some (ch, m) =>
    let s1 := s.tookMsg peer ch
    let p := m.payload
    let i := leAt p 1 1
    let r := leAt p 8 8
    if !s1.ofGroup p || !s1.tal.active || !s1.tal.members.contains i || i = s1.talMe || r < s1.tal.decided then s1
    else ((s1.modTal (fun t => { t with tallies := t.tallies.set [] (8 * r + i) p })).probeLog p).talCheck

/-- TALLY_TO has passed since this member sent its tally (R353). -/
def State.tallyOut (s : State) : State :=
  let t := s.tal
  if s.alive && t.active && 1 < t.members.length && t.decided < t.closed && t.sentAt + 1000000 * s.rf .talTime 0 7 0 ≤ s.time then
    s.talVerdict t.decided
  else s

/-! ### Membership -/

/-- The result of a group command (R356). -/
def State.talCode (s : State) (code : Nat) : State := s.modTal (fun t => { t with code := code })

/-- JOIN (R348). -/
def State.talJoin (s : State) : State :=
  if s.tal.st ≠ .idle then s.talCode 1
  else if s.rb .chkCkptCfg 0 31 && s.rf .chkCkptCfg 0 12 0 ≠ s.rf .talCfg 0 12 0 then s.talCode 2
  else
    let s1 := s.modTal (fun _ => { st := .forming, members := [s.talMe] })
    s1.talSend ((List.range (s.rf .talGroup 0 14 12)).filter (· ≠ s.talMe)) 0x30 s1.hello

/-- LEAVE (R348). -/
def State.talLeave (s : State) : State :=
  if s.tal.st = .idle then s.talCode 1
  else
    let peers := (s.tal.members ++ s.tal.hello).eraseDups.filter (· ≠ s.talMe)
    (s.talSend peers 0x33 (leBytes 1 (s.rf .talGroup 0 7 0) ++ leBytes 1 s.talMe)).modTal (fun _ => {})

/-- ROUND of an EXPEL message that an operator's command sends: it belongs to no round (assumption 30). -/
def operatorRound : Nat := 2 ^ 64 - 1

/-- A member is expelled by an operator (R348). -/
def State.talOperator (s : State) (m : Nat) : State :=
  let r := s.tal.closed - 1
  if m = s.talMe then s.talExpelled r true else (s.talRemove [m] r true).talCheck

/-- EXPEL (R348). -/
def State.talExpel (s : State) (m : Nat) : State :=
  if !s.tal.active || !s.tal.members.contains m then s.talCode 1
  else
    let s1 := s.talSend s.talOthers 0x32
      (leBytes 1 (s.rf .talGroup 0 7 0) ++ leBytes 1 s.talMe ++ leBytes 1 m ++ [0] ++ leBytes 8 operatorRound)
    (s1.talOperator m).talCode 0

/-- Every other member's HELLO is in: the group forms (R348), and round 0 folds every BOUND context. -/
def State.talForm (s : State) : State :=
  let n := s.rf .talGroup 0 14 12
  if s.tal.st = .forming && 2 ≤ n && (List.range n).all (fun m => m = s.talMe || s.tal.hello.contains m) then
    let s1 := s.modTal (fun t => { t with st := .member, members := List.range n, hello := [], acc := 0, updates := 0, closed := 0, decided := 0, gstep := 0 })
    s1.each s1.talCtxs (fun t c => t.talFold 0 c)
  else s

/-- The next round boundary for a member that asks to join: no group step beyond it has been numbered or entered here, so that
every later one reaches the new member (DEDUCED, assumption 30). -/
def State.joinRound (s : State) : Nat := max s.tal.closed (s.talRound s.tal.gstep)

/-- A received GROUP_HELLO (R348). A forming member answers the first HELLO of a forming peer, which may have begun after this
member sent its own (DEDUCED, assumption 30). -/
def State.helloMsg (s : State) (peer : Nat) : State :=
  match s.nextMsg peer 0x30 with
  | none => s
  | some (ch, m) =>
    let s1 := s.tookMsg peer ch
    let p := m.payload
    let i := leAt p 1 1
    let same := leAt p 4 4 = s1.talCrc
    if !s1.ofGroup p || i = s1.talMe then s1
    else if s1.tal.st = .forming then
      if !same then s1.talRaise 0x3101 2 0 (3 + 256 * 2 ^ i)
      else if leAt p 2 1 = 3 then
        s1.modTal (fun t => { t with st := .syncing, members := if t.members.contains i then t.members else t.members ++ [i] })
      else if s1.tal.hello.contains i then s1
      else ((s1.srnSend peer 0 0x30 s1.hello).2.modTal (fun t => { t with hello := i :: t.hello })).talForm
    else if s1.tal.st = .syncing then
      if same && leAt p 2 1 = 3 then
        s1.modTal (fun t => { t with members := if t.members.contains i then t.members else t.members ++ [i] }) else s1
    else if s1.tal.active && leAt p 2 1 = 1 then
      let s2 := (s1.srnSend peer 0 0x30 s1.hello).2
      if same && !s1.tal.members.contains i then
        (s2.modTal (fun t => { t with joining := t.joining.filter (fun j => j.1 ≠ i) ++ [(i, s2.joinRound)] }))
      else s2
    else s1

/-- A received EXPEL message (R348): an operator's takes effect at once, the members' by a strict majority. -/
def State.expelMsg (s : State) (peer : Nat) : State :=
  match s.nextMsg peer 0x32 with
  | none => s
  | some (ch, m) =>
    let s1 := s.tookMsg peer ch
    let p := m.payload
    let from_ := leAt p 1 1
    let i := leAt p 2 1
    if !s1.ofGroup p || !s1.tal.active || !s1.tal.members.contains i || !s1.tal.members.contains from_ then s1
    else if leAt p 4 8 = operatorRound then s1.talOperator i
    else
      let s2 := s1.modTal (fun t => { t with votes := if t.votes.contains (from_, i) then t.votes else (from_, i) :: t.votes })
      if s2.tal.members.length < 2 * (s2.tal.votes.filter (fun v => v.2 = i)).length then
        if i = s2.talMe then s2.talExpelled (leAt p 4 8) false else (s2.talRemove [i] (leAt p 4 8) true).talCheck
      else s2

/-- A received LEAVE message (R348). -/
def State.leaveMsg (s : State) (peer : Nat) : State :=
  match s.nextMsg peer 0x33 with
  | none => s
  | some (ch, m) =>
    let s1 := s.tookMsg peer ch
    if !s1.ofGroup m.payload || leAt m.payload 1 1 = s1.talMe then s1
    else (s1.talRemove [leAt m.payload 1 1] 0 false).talCheck

/-- The adapter of a synchronisation replaces this member's, which takes a slot where it has none; zeros stand for an adapter that
the leader does not hold, and leave it as it is (DEDUCED, assumption 30). -/
def State.syncAdapter (s : State) (c : Nat) (bs : List Byte) : Bool × State :=
  if bs.all (· = 0) then (true, s) else
  match s.slotOfCtx c with
  | some i => s.wireIn (s.adpAddr i) 16 bs
  | none =>
    match s.takeSlot c with
    | (some i, s1) => (s1.modCtx c (fun x => { x with adapter := 2 ^ 31 + i })).wireIn (s1.adpAddr i) 16 bs
    | (none, s1) => (true, s1)

/-- The joining member leaves SYNCING after round `r` (R348): of the group requests that waited, those of rounds up to `r` are in
the contexts already. -/
def State.talSynced (s : State) (r : Nat) : State :=
  let g := r * s.talK
  let rs := (List.filter (fun (e : Nat × Request) => e.2.live && e.2.admitted.isEmpty && e.2.group.any (· ≤ g)) s.reqs).map (·.1)
  let s1 := s.each (s.pounds.map (·.1)) (fun t p => t.modPound p (fun x => { x with basin := x.basin.filter (fun b => !rs.contains b.req) }))
  ((s1.each rs State.dropReq).modTal (fun t => { t with
    st := .member, closed := r + 1, decided := r + 1, gstep := max t.gstep g, acc := 0, updates := 0 })).talRaise
    0x3106 0 r (s.talMe + 65536 * s.tal.synced.length)

/-- A received context of a synchronisation (R348): its adapter and state blocks replace this member's. The last one is in
when every BOUND context of the model here has come (assumption 30). -/
def State.syncMsg (s : State) (peer : Nat) : State :=
  match s.nextMsg peer 0x34 with
  | none => s
  | some (ch, m) =>
    let s1 := s.tookMsg peer ch
    let p := m.payload
    let c := leAt p 0 2
    let n := leAt p 2 2
    let x := s1.ctx c
    if s1.tal.st ≠ .syncing || x.st ≠ .bound || x.pack ≠ leAt p 20 16 || x.stBlocks ≠ n then s1
    else
      let (ok1, s2) := s1.wireIn x.stAddr n (p.drop (40 + 16 * 4112))
      let (ok2, s3) := s2.syncAdapter c ((p.drop 40).take (16 * 4112))
      if !ok1 || !ok2 then s3
      else
        let r := leAt p 12 8
        let s4 := (s3.modCtx c (fun y => { y with step := leAt p 4 8 })).modTal
          (fun t => { t with synced := if t.synced.contains c then t.synced else c :: t.synced })
        if s4.talCtxs.all s4.tal.synced.contains then s4.talSynced r else s4

end Sys2Proof.Machine
end

