-- ==== Sys2Proof/Machine/PoundOps.lean ====
section
/-! DEFINITION. Taking requests into service (R214 to R217, R236, R244), ending entries, sentences and requests (R178, R179,
R211, R219, R319, R373, R427), and requests from other devices (R372 to R374). -/
namespace Sys2Proof.Machine
open Sys2Proof

/-- Requests run whatever the pound holds, and their MATMUL entries are rejected (R234, R243). -/
def Model.loose (m : Model) : Bool :=
  decide (m.mst = .installing) || decide (m.mst = .incomplete) || (decide (m.mst = .stalled) && decide (m.prior = .installing))

/-! ### Holding and taking -/

/-- A request waits for an earlier one of its class and stream (R211), or a group request for a verdict (R347). -/
def State.heldReq (s : State) (r : Nat) (first : Bool) : Bool :=
  let q := s.req r
  (q.strm && s.reqs.any (fun e => e.1 < r && e.2.live && e.2.cls = q.cls && e.2.strm && e.2.stream = q.stream)) ||
  (first && q.group.any s.talHeld)

/-- The version, set and copy with which a pound may take a basin entry now; none when it may not (R214, R236, R238). -/
def State.bindFor (s : State) (p : Nat) (e : BasinEntry) : Option (Nat × Nat × Bool) :=
  match s.poundAt p with
  | none => none
  | some (m, pl) =>
    let q := s.req e.req
    let x := s.model m
    let (v, set) := match q.version, s.batchVersion q.batch with
      | some v, _ => (v, q.setNo)
      | none, some v => (v, s.bound.get 0 q.batch % 16)
      | none, none => (x.issue, x.issueSet)
    let copyB := if e.forwarded || q.ingress || !q.admitted.isEmpty then q.copyB else s.copyPick m v set
    if copyB ≠ pl.copyB || !(x.loose || pl.at_ v set) then none else some (v, set, copyB)

/-- The basins a pound takes from: its own, and for the first pound of copy B that of copy A's (R244). -/
def State.basinsOf (s : State) (p : Nat) : List Nat :=
  match s.poundAt p with
  | some (m, pl) =>
    let x := s.model m
    match x.firstPound, x.issueImg with
    | some a, some (img, _) => if pl.copyB && a + img.twinDelta = p then [p, a] else [p]
    | _, _ => [p]
  | none => [p]

/-- The entries a pound could take, with the basin each stands in, in order of arrival. -/
def State.candidates (s : State) (p : Nat) : List (Nat × BasinEntry) :=
  match s.basinsOf p with
  | [b] => (s.pound b).basin.map (fun e => (b, e))
  | bs => sortBy (bs.flatMap (fun b => ((s.pound b).basin.filter (fun e => b = p || (!e.forwarded && !(s.req e.req).ingress))).map (fun e => (b, e))))
      (fun a b => decide (a.2.req ≤ b.2.req))

/-- Sentences of a queue in service in a pound: its requests admitted there and not finished (R216). -/
def State.inService (s : State) (p q : Nat) : Nat :=
  ((s.pound p).service.filter (fun e => e.2.any (fun n => (s.req n.req).queue = q))).length

/-- The balance of an EXPRESS queue in a pound, in 1/1,024 slots (R216). -/
def Queue.balanceIn (x : Queue) (p : Nat) : Int := x.balance.get (1024 * (x.burstSlot : Int)) p

/-- A request of an EXPRESS queue would be admitted in a pound (R216). -/
def State.admits (s : State) (p q : Nat) : Bool :=
  let x := s.queue q
  decide (1024 ≤ x.balanceIn p) && s.inService p q < x.burstReq

/-- The EXPRESS entry to take, and the requests that are not admitted; a queue with one holds its later ones (R214, R217). -/
def State.pickExpress (s : State) (p : Nat) (cs : List (Nat × BasinEntry)) : Option (Nat × BasinEntry) × List Nat :=
  let (hit, late, _) := cs.foldl (fun ((hit, late, shut) : Option (Nat × BasinEntry) × List Nat × List Nat) c =>
    let r := c.2.req
    let q := (s.req r).queue
    if (s.req r).cls ≠ 0 then (hit, late, shut)
    else if shut.contains q || !s.admits p q then (hit, r :: late, q :: shut)
    else if hit.isNone && !s.heldReq r (!c.2.forwarded) && (s.bindFor p c.2).isSome then (some c, late, shut)
    else (hit, late, shut)) (none, [], [])
  (hit, late)

/-- The entries of a class that may be taken. -/
def State.ofClass (s : State) (p cls : Nat) (cs : List (Nat × BasinEntry)) : List (Nat × BasinEntry) :=
  cs.filter (fun c => (s.req c.2.req).cls = cls && !s.heldReq c.2.req (!c.2.forwarded) && (s.bindFor p c.2).isSome)

/-- Slots of a class among the pound's last 4,096 (R214). -/
def Pound.used (x : Pound) (cls : Nat) : Nat := (x.history.filter (· = cls)).length

/-- How far a class is below its share, in 1/64 slot (R214). -/
def State.below (s : State) (x : Pound) (cls : Nat) : Int :=
  let n := x.history.length - x.used 0 - x.used 3
  let share := s.rf .queShare 0 5 0
  (((if cls = 1 then share else 64 - share) * n : Nat) : Int) - ((64 * x.used cls : Nat) : Int)

/-- Deficit round robin among the queues `qs`, ascending (R214): the queue served, and the pound with its deficits. -/
def Pound.drr (x : Pound) (weight : Nat → Nat) (cls : Nat) (qs : List Nat) : Option Nat × Pound :=
  let last := x.last.get 0 cls
  let d (q : Nat) : Int := x.deficit.get 0 q
  if 0 < last && qs.contains (last - 1) && 0 < d (last - 1) then (some (last - 1), x)
  else
    let order := qs.filter (fun q => last ≤ q) ++ qs.filter (fun q => q < last)
    let turns (q : Nat) : Nat := if 0 < d q then 1 else (-(d q)).toNat / max 1 (weight q) + 1
    match order with
    | [] => (none, x)
    | o :: os =>
      let k := (os.map turns).foldl min (turns o)
      let q := (order.find? (fun q => turns q = k)).getD o
      let early := order.takeWhile (· ≠ q) ++ [q]
      (some q, { x with
        deficit := order.foldl (fun (m : NMap Int) i => m.set 0 i (d i + ((weight i * (if early.contains i then k else k - 1) : Nat) : Int))) x.deficit,
        last := x.last.set 0 cls (q + 1) })

/-- The entry of a STANDARD or BULK class to take (R214). -/
def State.pickShared (s : State) (p cls : Nat) (cs : List (Nat × BasinEntry)) : Option ((Nat × BasinEntry) × State) :=
  let xs := s.ofClass p cls cs
  let qs := sortBy ((xs.map (fun c => (s.req c.2.req).queue)).eraseDups) (fun a b => decide (a ≤ b))
  match (s.pound p).drr (fun q => (s.queue q).weight) cls qs with
  | (some q, x) => (xs.find? (fun c => (s.req c.2.req).queue = q)).map (fun c => (c, s.setPound p x))
  | (none, _) => none

/-- The entry to take for a position that is not reserved (R214). -/
def State.pickOther (s : State) (p : Nat) (cs : List (Nat × BasinEntry)) : Option ((Nat × BasinEntry) × State) :=
  let x := s.pound p
  let maint := (s.ofClass p 3 cs).head?
  let m (o : Option (Nat × BasinEntry)) : Option ((Nat × BasinEntry) × State) := o.map (fun c => (c, s))
  if maint.isSome && x.used 3 < 64 * s.rf .queShare 0 13 8 then m maint
  else
    let first := if s.below x 1 < s.below x 2 then 2 else 1
    ((s.pickShared p first cs).orElse (fun _ => s.pickShared p (3 - first) cs)).orElse (fun _ => m maint)

/-- A free service position: the last two take only EXPRESS sentences, which take them first (R214). -/
def Pound.freePos (x : Pound) (express : Bool) : Option Nat :=
  (if express then [6, 7, 0, 1, 2, 3, 4, 5] else [0, 1, 2, 3, 4, 5]).find? (fun i => (x.service.get none i).isNone)

/-- An entry leaves a basin for a service position (R214, R216, R236). -/
def State.takeEntry (s : State) (p pos : Nat) (c : Nat × BasinEntry) : State :=
  match s.bindFor p c.2 with
  | none => s
  | some (v, set, copyB) =>
    let e := c.2
    let q := s.req e.req
    let s1 := s.modPound c.1 (fun x => { x with basin := x.basin.erase e })
    let s2 : State := if q.batch = 0 || e.forwarded then s1 else { s1 with bound := s1.bound.set 0 q.batch (16 * v + set) }
    let s3 := s2.modReq e.req (fun q => { q with version := some v, setNo := set, copyB := copyB, admitted := p :: q.admitted })
    let s4 := if q.cls = 0 then
        (s3.modQueue q.queue (fun x => { x with balance := x.balance.set (1024 * (x.burstSlot : Int)) p (x.balanceIn p - 1024) })).count ctrIo 13 1
      else s3
    let n (k : Nat) : Sentence := { req := e.req, saddr := e.saddr, host := e.host, nent := e.nent, next := 0, runs := [], failed := none,
                                    aborting := none, order := k, image := false }
    (s4.modPound p (fun x => { x with service := x.service.set none pos (some (n x.order)), order := x.order + 1 })).forwardNext

/-! ### The EXPRESS bound -/

/-- The causes of R219 that apply to a model's copy: NOT_TWIN, BOUNDARY_CAL, THERMAL, TB_UNLOCKED. -/
def State.modelCauses (s : State) (m v set : Nat) (copyB : Bool) : Nat :=
  let x := s.model m
  let arrs := x.copyArrays v set copyB
  let twin := (x.imgAt v).any (fun g => g.1.twin)
  let out := arrs.any (fun (c, l) => decide ((s.arr (s.larr c l)).st ≠ .serving) || bit (s.core c).quar l)
  let edge := arrs.any (fun (c, l) => !s.gradual c (minArr (s.setOf c l)))
  b2n (!twin || out) + 4 * b2n edge + 8 * b2n ((List.range 4).any (fun q => 0 < s.qLevel q)) + 16 * b2n (!s.tb.locked)

/-- The causes of a request's own: shape and an unpinned context (R218, R219). -/
def State.requestCauses (s : State) (q : Request) : Nat := q.causes ||| 128 * b2n (q.strm && !(s.ctx q.stream).pin)

/-- QUE_EXP_STATUS (R221): the causes that apply to some EXPRESS queue now. -/
def State.expStatus (s : State) : Nat :=
  (List.filter (fun (e : Nat × Queue) => e.2.st = .enabled && e.2.cls = 0) s.queues).foldl (fun m (i, x) =>
    let md := s.model x.model
    let v := md.issue
    let set := md.issueSet
    let rs := List.filter (fun (e : Nat × Request) => e.2.live && e.2.queue = i) s.reqs
    let late := md.pounds.any (fun p => (s.pickExpress p.first (s.candidates p.first)).2.any (fun r => (s.req r).queue = i))
    (rs.foldl (fun k (_, q) => k ||| (s.requestCauses q &&& 0xA0)) m) ||| s.modelCauses x.model v set (s.copyPick x.model v set) |||
      2 * b2n late ||| 64 * b2n x.cqFull) 0

/-- While every condition of the bound holds, the next break of one is reported again (R219). -/
def State.expSettle (s : State) : State := if s.expBroken && s.expStatus = 0 then { s with expBroken := false } else s

/-- An EXPRESS request ends (R219): one that a condition fails for is counted, and the first after a period in which every condition
held is reported. -/
def State.expressEnd (s : State) (p : Nat) (q : Request) : State :=
  if q.cls ≠ 0 then s
  else
    let k := s.requestCauses q ||| s.modelCauses q.model (q.version.getD 0) q.setNo q.copyB
    if k = 0 then s
    else
      let s1 := (s.bump .queExpUnboundCount 0 1).count ctrIo 14 1
      if s.expBroken then s1
      else (({ s1 with expBroken := true } : State).flag .queEvent 0 8).raise
        ((evQueue 0x1204 1 q.queue (q.queue + 65536 * k + 2 ^ 24 * p)).withStream q.strm q.stream
          (if q.strm then (s.ctx q.stream).step else 2 ^ 64 - 1))

/-! ### Requests from other devices -/

/-- A submission in bytes becomes a request of a queue, or is answered with a record (R203 to R205, R212). -/
def State.templated (s : State) (q : Nat) (d : List Byte) : Option Request × State :=
  match subFault d with
  | some o => (none, s.answerSub q 0 0x11 (0x100 + o) 0 0)
  | none =>
    let n := if bit (leAt d 12 1) 3 then leAt d 13 1 else 0
    match if n = 0 then some [] else s.readDev (leAt d 16 8) (16 * n) with
    | none => (none, (s.ueRead false (leAt d 16 8) (16 * n)).answerSub q 0 0x17 0 0 0)
    | some rs =>
      let els := chunks 16 n rs
      let r := s.reqOf q 0 d (els.map routeOf)
      if els.any (fun e => !routeOk e) then (none, s.answerSub q 0 0x11 0x110 0 0)
      else if r.strm && (s.ctx r.stream).st ≠ .bound then (none, s.answerSub q 0 0x26 r.stream 1 r.stream)
      else (some r, s)

/-- Why a FORWARD_REQ is not taken. -/
inductive FwdNo where
  | refuse (cause : Nat)
  | wait
  deriving DecidableEq, Repr

/-- A request that claims a group step and comes from another member than the leader is none of the leader's, and is dropped
(R346, R354; DEDUCED, assumption 30). -/
def State.notLeader (s : State) (peer : Option Nat) : Bool :=
  match s.tal.leader, peer with
  | some l, some p => s.tal.active && (l = s.talMe || s.talPeer l ≠ p)
  | _, _ => false

/-- A group request that is not the next one waits, and any while the group forms; the first one that a joining member meets sets
the order (R346, R348). -/
def State.groupWaits (s : State) (gstep : Nat) : Bool :=
  decide (s.tal.st = .forming) || (s.tal.gstep + 1 < gstep && !(decide (s.tal.st = .syncing) && s.tal.gstep = 0))

/-- A FORWARD_REQ payload as the device acts on it (R374, R346): refused, not yet, or the state with the request in its
basin. -/
def State.forwardReq (s : State) (peer : Option Nat) (m : List Byte) : Except FwdNo State :=
  let model := leAt m 0 2
  let version := leAt m 4 4
  let gstep := leAt m 16 8
  let n := leAt m 24 2
  let blocks : List (List Byte × Manifest) := (List.range n).map (fun i =>
    (padTo blk ((m.drop (32 + 4112 * i)).take blk), Manifest.ofBytes ((m.drop (32 + 4112 * i + blk)).take 16)))
  let group := gstep ≠ 0 && model = s.talModel && decide (s.tal.st ≠ .idle)
  if group && s.tal.st = .expelled then .error (.refuse 6)
  else if group && s.notLeader peer then .ok s
  else match s.route? model 1 with
    | none => .error (.refuse 2)
    | some i =>
      let q := s.srnField (routeEnt i) 6 2
      let x := s.model model
      let set := x.issueSet
      let d := if s.copyPick model version set then ((x.imgAt version).map (fun g => g.1.twinDelta)).getD 0 else 0
      let p := s.srnField (routeEnt i) 8 1 + d
      if 256 < n || blocks.any (fun (b, k) => checkBlock b k {} ≠ 0) then .error (.refuse 5)
      else if !(x.pounds.any (fun y => y.at_ version y.setNo) || x.goal.any (fun g => g.version = version)) then .error (.refuse 1)
      else if (x.pound p).isNone || q % 32768 ≠ q || (s.queue q).st ≠ .enabled then .error (.refuse 3)
      else if group && s.groupWaits gstep then .error .wait
      else if !s.hasPlace p (s.queue q).cls false || (s.queue q).holdsIssue then .error .wait
      else if group && gstep ≤ s.tal.gstep then .ok s
      else
        let base := s.srnField (routeEnt i) 9 1
        let s1 := s.each (s.poundCores p) (fun t c => t.each blocks.zipIdx (fun u ((b, k), j) => u.putAct c (base + j) b k))
        let t0 := s.srnBytes (routeEnt i) 16 32
        let named := bit (leAt m 26 1) 0 && bit (leAt t0 12 1) 0
        let t := if named then patch t0 10 ((m.drop 2).take 2) else t0
        let s2 := if group then s1.modTal (fun y => { y with gstep := gstep }) else s1
        match s2.templated q t with
        | (none, s3) => .ok (if group then s3.talDone gstep version [] else s3)
        | (some r, s3) =>
          .ok (s3.admitReq p { r with model := model, version := some version, setNo := set, copyB := d ≠ 0, ingress := true,
                                      group := if group then some gstep else none } false)

/-- The first block of a FORWARD_REQ that fails its manifest, with the cause. -/
def fwdBad (m : List Byte) : Option (Nat × Nat) :=
  (List.range (min 256 (leAt m 24 2))).findSome? (fun i =>
    let c := checkBlock (padTo blk ((m.drop (32 + 4112 * i)).take blk)) (Manifest.ofBytes ((m.drop (32 + 4112 * i + blk)).take 16)) {}
    if c = 0 then none else some (i, c))

/-- A received FORWARD_REQ (R241, R366, R374, R375): one that cannot be acted on yet stays in its channel. -/
def State.forwardMsg (s : State) (peer : Nat) : State :=
  match s.nextMsg peer 0x12 with
  | none => s
  | some (ch, m) =>
    let p := m.payload
    let version := leAt p 4 4
    match s.forwardReq (some peer) p with
    | .ok t => t.tookMsg peer ch
    | .error .wait => s
    | .error (.refuse c) =>
      let s1 := (s.tookMsg peer ch).refuse peer ch 0x12 c version (if leAt p 16 8 ≠ 0 then leAt p 16 8 else leAt p 8 8)
      if c = 1 then s1.imgRaise 12 (evModel 0x6018 1 (leAt p 0 2) version)
      else if c = 5 then
        match fwdBad p with
        | some (i, k) => s1.raise (evPeer 0x4001 2 peer (k + 256 * i))
        | none => s1
      else s1

/-- A received SUBMIT (R372, R375). -/
def State.submitMsg (s : State) (peer : Nat) : State :=
  match s.nextMsg peer 0x10 with
  | none => s
  | some (ch, m) =>
    let s1 := s.tookMsg peer ch
    let p := m.payload
    let q := leAt p 0 2
    let n := leAt p 2 1
    let x := s1.queue q
    if 32768 ≤ q || x.st ≠ .enabled || x.sqHost || x.rung then s1.refuse peer ch 0x10 3 0 0
    else if x.sqSize - 1 - x.unread < n then s1.refuse peer ch 0x10 4 0 0
    else
      let s2 := s1.each (List.range n) (fun t i =>
        let y := t.queue q
        let a := y.sqBase + 32 * y.sqTail
        let e := padTo 32 ((p.drop (8 + 32 * i)).take 32)
        (if t.inBlocks a 32 then t.putMem a e else t).modQueue q (fun y => { y with sqTail := (y.sqTail + 1) % y.sqSize }))
      let s3 : State := if bit (leAt p 3 1) 0 && n ≠ 0 then
          { s2 with net := { s2.net with rets := (s2.nextBatch, peer, ch) :: s2.net.rets } } else s2
      ((s3.newBatch q n).modQueue q (fun y => { y with remote := some peer })).wakeUp

/-- The blocks of the OUT region of an entry's verb: base and count; none for a verb without one (R164, R373). -/
def outRegion (d : List Byte) : Option (Nat × Nat) :=
  if [1, 2, 3, 4, 6, 7, 8].contains (eVerb d) then some (eBase d 18, eCount d 18) else none

/-- Requests of this device's own group that waited for a place in their basin, in order. -/
def State.ownNext (s : State) : Nat → State
  | 0 => s
  | n + 1 =>
    match s.net.own with
    | [] => s
    | m :: ms =>
      let s1 : State := { s with net := { s.net with own := ms } }
      match s1.forwardReq none m with
      | .error .wait => s
      | .error (.refuse _) => s1.ownNext n
      | .ok t => t.ownNext n

/-- A request whose model has an egress route is sent on (R346, R373). -/
def State.egress (s : State) (p : Nat) (q : Request) (e : EntryRun) : State :=
  match s.route? q.model 0 with
  | none => s
  | some i =>
    let flags := s.srnField (routeEnt i) 2 1
    let ch := b2n (bit flags 3)
    let (base, n) := (outRegion e.raw).getD (0, 0)
    let body := (List.range n).flatMap (fun j => let (d, m) := (s.core p).actBlock (base + j); d ++ m.bytes)
    let pay (g : Nat) : List Byte := leBytes 2 (s.srnField (routeEnt i) 4 2) ++ leBytes 2 (if q.strm then q.stream else 0xFFFF) ++
      leBytes 4 (q.version.getD 0) ++ leBytes 8 e.stepNow ++ leBytes 8 g ++ leBytes 2 n ++ leBytes 1 (b2n q.strm) ++ List.replicate 5 0 ++ body
    let put (t : State) (peer : Nat) (m : List Byte) : State :=
      let (ok, t1) := t.srnSend peer ch 0x12 m
      if ok then t1 else t1.msgFailed peer ⟨0x12, m.take 40, 0, 0⟩
    if bit flags 2 then
      let g := if s.tal.active then s.tal.gstep + 1 else 0
      let s1 := s.each (s.talOthers ++ s.tal.joining.map (·.1)) (fun t m => put t (t.talPeer m) (pay g))
      ({ s1 with net := { s1.net with own := s1.net.own ++ [pay g] } } : State).ownNext (s1.net.own.length + 1)
    else put s (s.srnField (routeEnt i) 3 1) (pay (q.group.getD 0))

/-! ### Taking -/

/-- POUND_TAKE: one free position takes the next request (R214, R238, R403). -/
def State.poundTake (s : State) (p : Nat) : State :=
  if !s.issues || (s.poundAt p).isNone then s
  else
    let cs := s.candidates p
    let (hit, late) := s.pickExpress p cs
    let s1 := s.each late (fun t r => t.modReq r (fun q => { q with causes := q.causes ||| 2 }))
    match hit, (s1.pound p).freePos true with
    | some c, some pos => (s1.takeEntry p pos c).ownNext s1.net.own.length
    | _, _ =>
      match (s1.pound p).freePos false with
      | none => s1
      | some pos =>
        match s1.pickOther p cs with
        | some (c, s2) => (s2.takeEntry p pos c).ownNext s2.net.own.length
        | none => s1

/-! ### Ends -/

/-- Problems completed (R179). -/
def EntryRun.problems (e : EntryRun) : Nat :=
  if !ePlist e.raw then 1
  else
    let n := if e.status < 0x10 then e.probs.length else e.cur
    ((e.probs.take n).filter (fun pb => pb.fail = 0 && !pb.skip)).length

/-- FLAGS bits 6:0 of a completion record (R174, R179). -/
def EntryRun.flags (e : EntryRun) : Nat :=
  b2n (e.verb = 1 && eSubj e.raw) + 2 * e.level + 8 * b2n (0 < e.satElem + e.satCode) + 16 * b2n e.spareUsed + 32 * b2n (1 < e.npass) +
  64 * b2n (e.dynUsed || !e.dynRows.isEmpty || (e.sclMode = 2 && e.verb = 6))

/-- The completion record of an entry (R179). -/
def State.cplOf (s : State) (p : Nat) (n : Sentence) (e : EntryRun) (last : Bool) : Cpl :=
  let q := s.req n.req
  { queue := q.queue, entry := e.idx, version := if s.sentImage n then q.version.getD 0 else 0, step := e.stepNow, status := e.status,
    flags := e.flags, last := last, sv := e.strm, stream := e.stream, detail := e.detail, satElem := e.satElem, satCode := e.satCode,
    nonfin := e.nonfin, waves := e.waves, clips := e.clips, problems := e.problems, npass := e.npass, core := p, tIssue := e.tIssue }

/-- The sample of an entry (R427). -/
def State.sampleOf (s : State) (p : Nat) (n : Sentence) (e : EntryRun) : List Byte :=
  let q := s.req n.req
  leBytes 2 q.queue ++ leBytes 2 e.idx ++ leBytes 1 e.verb ++ leBytes 1 e.status ++
  leBytes 1 (b2n (e.verb = 1 && eSubj e.raw) + 2 * e.level + 8 * b2n (ePlist e.raw) + 16 * q.cls + 64 * b2n (1 < e.npass) + 128 * b2n e.strm) ++
  leBytes 1 p ++ leBytes 8 (n.saddr + 2 ^ 47 * b2n n.host) ++ leBytes 8 e.tIssue ++ leBytes 8 (e.tStart.getD s.time) ++ leBytes 8 s.time ++
  leBytes 4 (e.waves - e.splits) ++ leBytes 4 e.splits ++ leBytes 4 (satTo 0xFFFFFFFF e.stall) ++ leBytes 4 e.issueNo ++
  leBytes 2 (if e.strm then e.stream else 0xFFFF) ++ leBytes 2 e.problems ++ leBytes 1 (satTo 255 e.npass) ++ [0, 0, 0]

/-- One nanosecond of STALL_NS: entries that work, with a wave waiting on some core and none driven (R427). -/
def State.stallTick (s : State) : State :=
  s.each (s.allRuns.filter (fun (r, e) => e.mode = .running && e.tStart.isSome &&
      s.cores.any (fun x => x.2.waiting.any (fun w => w.ref = r)) &&
      !s.cores.any (fun x => x.2.flying.any (fun w => w.req.ref = r && w.conv < 4))))
    (fun t (r, _) => t.modRun r (fun e => { e with stall := e.stall + 1 }))

/-- One context advances at the successful end of a request (R208, R211, R319). -/
def State.advanceCtx (s : State) (version i : Nat) : State :=
  let s1 := s.modCtx i (fun x => { x with step := u64 (x.step + 1), version := version, tLast := s.time })
  if s.rb .chkCkptCfg 0 31 && (s1.ctx i).step % max 1 (s.rf .chkCkptCfg 0 12 0) = 0 then s1.checkpoint i else s1

/-- A request has ended with its last sentence (R208, R211, R219, R349, R373). -/
def State.requestEnd (s : State) (p r : Nat) (ok : Bool) (e : Option EntryRun) : State :=
  let q := s.req r
  let own := if q.adv && q.strm then [q.stream] else []
  let ok := ok && !q.aborted
  let cs := if ok then own ++ (if q.advPl then q.named.filter (fun i => !own.contains i) else []) else []
  let cs := cs.filter (fun i => (s.ctx i).usable)
  let s1 := s.each cs (fun t i => t.advanceCtx (q.version.getD 0) i)
  let s2 := match q.group with
    | some g => s1.talDone g (q.version.getD 0) cs
    | none => s1
  let s3 := s2.expressEnd p q
  let s4 := match e with
    | some e => if ok then s3.egress p q e else s3
    | none => s3
  s4.dropReq r

/-- A sentence leaves its position; with nothing of its request left, the request ends. -/
def State.sentenceEnd (s : State) (p pos : Nat) (n : Sentence) (ok : Bool) (e : Option EntryRun) : State :=
  let s1 := (s.modPound p (fun x => { x with service := x.service.set none pos none })).idleSettle
  if s1.inSystem n.req then s1 else s1.requestEnd p n.req ok e

/-- A record of a request is written; a full ring breaks a condition of the EXPRESS bound (R219). -/
def State.writeCpl (s : State) (r : Nat) (x : Cpl) : State :=
  let q := s.req r
  let s1 := if q.cls = 0 && (s.queue q.queue).cqFull then s.modReq r (fun q => { q with causes := q.causes ||| 64 }) else s
  s1.putCpl q.batch x

/-- The first unissued entry of an aborted sentence ends (R207, R235). It never issued: STEP, T_ISSUE and the check level of its
record have no stated value (assumption 7). -/
def State.abortEnd (s : State) (p pos : Nat) (n : Sentence) (detail : Nat) : State :=
  let q := s.req n.req
  let (step, t1) := s.fresh
  let (iss, t2) := t1.fresh
  let (lvl, t3) := t2.fresh
  let version := if s.sentImage n then q.version.getD 0 else 0
  let s1 := (t3.markAborted n.req).writeCpl n.req { queue := q.queue, entry := n.next, version := version, status := 0x29,
                                                    detail := detail, sv := q.strm, stream := q.stream, core := p,
                                                    step := u64 step, tIssue := u64 iss, flags := 2 * (lvl % 4) }
  s1.sentenceEnd p pos n false none

/-! ### Aborts -/

/-- Remove the requests that wait in basins, each with one ABORTED record (R207, R235); those with nothing left in service end, and
the places they leave are given to the FORWARDs that wait. -/
def State.abortWaiting (s : State) (who : Nat → Bool) (detail : Nat) : State :=
  let ws := (s.pounds.flatMap (fun e => (e.2.basin.filter (fun b => who b.req)).map (fun b => (e.1, b.req))))
  let rs := (ws.map (·.2)).eraseDups
  let s1 := s.each (s.pounds.map (·.1)) (fun t p => t.modPound p (fun x => { x with basin := x.basin.filter (fun b => !who b.req) }))
  let s2 := s1.each rs (fun t r => (t.markAborted r).reqRecord r 0x29 detail)
  (s2.each rs (fun t r => if t.inSystem r then t
    else t.requestEnd (((ws.find? (fun w => w.2 = r)).map (·.1)).getD 0) r false none)).forwardNext

/-- Sentences in service issue no further entry (R207, R235). -/
def State.abortService (s : State) (who : Nat → Bool) (detail : Nat) : State :=
  let cut (n : Sentence) : Sentence := if who n.req && n.next < n.nent && n.failed.isNone then { n with aborting := some detail } else n
  (s.each (s.pounds.map (·.1)) (fun t p => t.modPound p (fun x => { x with
    service := x.service.foldl (fun m (i, o) => m.set none i (o.map cut)) [] }))).forwardNext

/-- RESET and DESTROY (R206, R207). -/
def State.queDrain (s : State) (q : Nat) (destroy : Bool) : State :=
  if (s.queue q).st ≠ .enabled then s.queResult q 3 true
  else
    let s1 := s.modQueue q (fun x => { x with
      st := .draining, destroying := destroy, aborted := 0, batches := [], sqHead := x.sqTail })
    let mine (r : Nat) : Bool := (s1.req r).live && (s1.req r).queue = q
    ((s1.abortWaiting mine 0).abortService mine 0).queResult q 0 false

/-- The requests of a model. -/
def State.ofModel (s : State) (m r : Nat) : Bool := (s.req r).live && (s.req r).model = m

/-- The requests of a model that is discarded end (R235). -/
def State.abortModel (s : State) (m : Nat) : State :=
  (s.abortWaiting (s.ofModel m) 1).abortService (s.ofModel m) 1

/-- DISCARD (R235). -/
def State.imgDiscard (s : State) : State :=
  let m := s.imgSel
  let x := s.model m
  if !(x.mst = .serving || x.mst = .stalled || x.mst = .incomplete) then s.imgResult 5
  else
    let arrs := x.pounds.flatMap (fun q => (List.range (q.last + 1 - q.first)).flatMap (fun i => (List.range 16).map (fun l => (q.first + i, l))))
    let mine := arrs.filter (fun (c, l) => (s.holders c l).any (fun h => h.model = m))
    let s1 := s.abortModel m
    let s2 := s1.each mine (fun t (c, l) => (t.unserve c l).modCore c (fun y => { y with residOf := y.residOf.filter (· ≠ l) }))
    let s3 := s2.modModel m (fun y => { sst := y.sst, rxFirst := y.rxFirst, rxSegs := y.rxSegs, rxBlocks := y.rxBlocks,
                                        rxBroken := y.rxBroken, rxBad := y.rxBad, rxGood := y.rxGood })
    ((s3.lockStore).forwardNext).imgResult 0

/-- The record of an entry that has ended has no place inside the device (R202, assumption 65). -/
def State.recordWaits (s : State) (n : Sentence) : Bool := (s.queue (s.req n.req).queue).holdsIssue

/-- The entry's own record is written (R178). -/
def EntryRun.writes (e : EntryRun) (nent : Nat) (last : Bool) : Bool := eCpl e.raw || 0x10 ≤ e.status || e.idx + 1 = nent || last

/-- ENTRY_COMPLETE: an entry that has ended writes its record (R178, R195, R345, R427), and holds its sentence's position until there
is a place for it (R202); the failing entry of a sentence comes last. -/
def State.entryComplete (s : State) (p pos idx : Nat) : State :=
  match s.sent? p pos with
  | none => s
  | some n =>
    if !s.alive then s else
    match n.runs.find? (fun e => e.idx = idx) with
    | none =>
      match n.aborting with
      | some detail => if n.runs.isEmpty && n.failed.isNone && idx = n.next && !s.recordWaits n then s.abortEnd p pos n detail else s
      | none => s
    | some e =>
      let failing := n.failed = some idx
      let done := n.runs.length = 1 && n.next = n.nent && n.failed.isNone && n.aborting.isNone
      let last := failing || done
      if e.mode ≠ .ended || (failing && 1 < n.runs.length) || (e.writes n.nent last && s.recordWaits n) then s
      else
        let r : EntryRef := ⟨p, pos, idx⟩
        let s0 := if 0x10 ≤ e.status then s.closeLanes r else s
        let s1 := if e.verb = 5 then s0.updStore e else s0
        let s2 := (s1.count p 14 (b2n (0x20 ≤ e.status)))
        let s3 := if e.writes n.nent last then s2.writeCpl n.req (s2.cplOf p n e last) else s2
        let s4 := if e.smp then s3.sampleWrite p (s3.sampleOf p n e) else s3
        let s5 := s4.modSent p pos (fun n => { n with runs := n.runs.filter (fun x => x.idx ≠ idx) })
        if last then s5.sentenceEnd p pos n (!failing) (some e) else s5.idleSettle

/-! ### A nanosecond -/

/-- One nanosecond of a core's counters of time (R420): GRID_WAIT, the tender busy, and a wave that waits for an array which does not
serve. -/
def State.coreTick (s : State) (c : Nat) : State :=
  let x := s.core c
  let held := x.waiting.any (fun w => decide ((s.arr (s.larr c w.larr)).st ≠ .serving))
  ((s.count c 11 (b2n x.gridWait)).count c 16 (b2n x.tndBusy.isSome)).count c 45 (b2n held)

/-- An entry of the pound waits at issue for completion-ring space (R202). -/
def State.cqWaits (s : State) (p : Nat) : Bool :=
  (s.pound p).service.any (fun e => e.2.any (fun n => n.next < n.nent && n.aborting.isNone && n.failed.isNone && s.recordWaits n))

/-- One nanosecond, and at its end one millisecond, of the counters that count time (R420, R421). -/
def State.timeTick (s : State) : State :=
  let s1 := (s.each (s.cores.map (·.1)) State.coreTick).each (s.pounds.map (·.1)) (fun t p => t.count p 47 (b2n (t.cqWaits p)))
  if (s.time + 1) % 1000000 ≠ 0 then s1
  else s1.each (List.range 4) (fun t q =>
    (t.count (ctrQuarter q) 7 (t.qLevel q)).count (ctrQuarter q) 8 (b2n (decide (0 < t.pwr.power))))

end Sys2Proof.Machine
end

