-- ==== Sys2Proof/Machine/StartOps.lean ====
section
/-! DEFINITION. Start-up: recall of the record store (R410, R411), margin check (R56), start-up calibration
(R262), readiness (R396). -/
namespace Sys2Proof.Machine
open Sys2Proof

/-! ### Recall -/

/-- What a page holds after recall, and the events of R410. -/
def State.recallPage (s : State) (page : Nat) : Option Payload × State :=
  let a := s.slot page 0
  let b := s.slot page 1
  match s.newer page with
  | none => (none, s.raise (evDev 0x7002 2 page))
  | some i =>
    let tie := s.slotOk page 0 && s.slotOk page 1 &&
      (let qa := (a.map (fun (x : PageSlot) => x.seq)).getD 0
       let qb := (b.map (fun (x : PageSlot) => x.seq)).getD 0
       let d := u32 (qb + 2 ^ 32 - qa)
       d = 2 ^ 31 || (d = 0 && a.map (fun (x : PageSlot) => x.data) ≠ b.map (fun (x : PageSlot) => x.data)))
    let sl := s.slot page i
    (sl.map (fun (x : PageSlot) => x.data),
      if tie then s.raise (evDev 0x7001 1 (page + 2 ^ 32 * (sl.map (fun (x : PageSlot) => x.seq)).getD 0)) else s)

/-- The digest of an initial password of the configuration image (R411). -/
def initialPw (bs : List Byte) : Option (List Byte) := if bs.isEmpty then none else pwDigest bs

/-- An array's record takes effect; a job in progress by its own record or by page 3, which may be the newer (R407), leaves it
PARTIAL, its fields loaded (R50, R51, R60). A SERVING array serves once
start-up calibration has passed (R262). -/
def State.recallArr (s : State) (r : ArrRec) : State :=
  let a := r.arr
  let s1 := s.each (r.rows.zipIdx) (fun t (v, i) => t.wr .arrRowMap a i v)
  let s2 := s1.each (r.cols.zipIdx) (fun t (v, i) => t.wr .arrColMap a i v)
  let s3 := ((s2.wr .arrCheckScale a 0 r.scale).wr .arrPgmCount a 0 r.count).wr .arrVersion a 0 r.version
  let job := s.recs.jobs.find? (fun (j : JobRec) => j.arr = a)
  match if job.isSome then .programming else r.st with
  | .programming =>
    let last := (job.map (fun (j : JobRec) => j.last)).getD 0x1FFF
    let s4 := s3.wr .arrPgmProgress a 0 last
    let s5 := match job with
      | some j => (s4.wr .arrPgmVersion a 0 j.version).wf_ .arrPgmCtrl a 1 0 j.scope
      | none => s4
    ((s5.modArr a (fun x => { x with st := .partial_, recalled := job.map (fun (j : JobRec) => ⟨j.scope, j.version, j.last⟩) })).flag
      .arrEvent a 0x80).raise (evArr 0x200C 1 a (last + 2 ^ 63))
  | .serving =>
    let s4 := s3.modArr a (fun x => { x with st := .ready })
    { s4 with boot := { s4.boot with toServe := s4.boot.toServe ++ [a] } }
  | st => s3.modArr a (fun x => { x with st := st })

/-- A core's record takes effect; a spare in rotation is PARTIAL (R305). -/
def State.recallCore (s : State) (r : CoreRec) : State :=
  let s1 := s.modCore r.core (fun x => { x with
    slotMap := r.slots, spare := r.spare, noSpare := r.noSpare, retired := r.retired, lastLogical := r.lastLogical,
    failedCore := r.failed })
  let s2 := if r.failed then s1.flag .chkCoreStatus r.core 0 else s1
  if r.rotating then s2.modArr (arrId r.core r.spare) (fun x => { x with st := .partial_ }) else s2

/-- A model as it is known after a start-up: no reference copy, no reception, an operation in progress
INCOMPLETE (R230, R235, R243). -/
def Model.woken (m : Model) : Model :=
  let run := m.busy || decide (m.mst = .incomplete)
  { m with
    mst := if run then .incomplete else m.mst,
    prior := if m.mst = .stalled || m.mst = .incomplete then m.prior else m.mst,
    sst := .idle, refCur := false, refNext := false, rxFirst := none, rxSegs := [], rxBlocks := 0, rxBroken := none,
    rxBad := [], rxGood := [], hold := m.hold && run }

/-- A page's contents take effect, or its value when lost (R411). -/
def State.recallTake (s : State) (page : Nat) (d : Option Payload) : State :=
  match d with
  | some (.system h n e r w) =>
    ({ s with recs := { s.recs with hours := h, starts := n, readPw := r, writePw := w } } : State).wr .ethSrnEpoch 0 0 e
  | some (.log es) => { s with recs := { s.recs with log := es } }
  | some (.locks ms) => { s with models := ms.foldl (fun t (k, m) => t.set {} k m.woken) [] }
  | some (.jobs js) => { s with recs := { s.recs with jobs := js } }
  | some (.arrays rs) => s.each rs State.recallArr
  | some (.cores rs) => s.each rs State.recallCore
  | some (.bytes b) => { s with recs := { s.recs with user := b.foldl (fun m (k, v) => m.set 0 k v) s.recs.user } }
  | none =>
    if page = 0 then
      { s with recs := { s.recs with readPw := initialPw s.boot.pwRead, writePw := initialPw s.boot.pwWrite } }
    else if page = 2 then
      { s with models := s.recs.kept.foldl (fun t (k, m) =>
          let w := m.woken
          t.set {} k { w with mst := if w.mst = .incomplete then .serving else w.mst, next := none, tst := .both }) [] }
    else if 4 ≤ page && page < 38 then
      s.each (((List.range 64).map (64 * (page - 4) + ·)).filter (· < 2176)) (fun t a =>
        (t.modArr a (fun x => { x with st := .failed })).wr .arrPgmCount a 0 0)
    else s

/-- Report a lock that a power failure cut short, and a missing reference copy (R230, R243). -/
def State.recallModels (s : State) : State :=
  s.each s.models (fun t (n, m) =>
    let v := (m.cur.map (fun (i : Image) => i.version)).getD 0
    let v' := (m.next.map (fun (i : Image) => i.version)).getD 0
    let t1 := if m.mst = .incomplete then t.imgRaise 13 (evModel 0x6019 1 n (v + 2 ^ 32 * v')) else t
    if m.mst = .absent then t1 else t1.imgRaise 18 (evModel 0x6030 1 n v))

/-- The lockkeeper's own pages are recalled jobs first, then the rest in order (R410, R411). -/
def recallOrder : List Nat := 3 :: (List.range 128).filter (· ≠ 3)

/-- The power-on figures of page 0 advance, the epoch to at least 1 (R390, R411). -/
def State.countStart (s : State) : State :=
  let s1 := s.wr .ethSrnEpoch 0 0 (u32 (s.rd .ethSrnEpoch + 1))
  ({ s1 with recs := { s1.recs with starts := s1.recs.starts + 1 } } : State).touch 0

/-- Recall of the record store ends (R410, R411): what the margin check must read is listed (R56). Job records that have taken
effect are stored away, so that a later start-up does not meet them again (DESIGN CHOICE, assumption 60). -/
def State.recallEnd (s : State) : State :=
  let s1 := s.each recallOrder (fun t page => let (d, u) := t.recallPage page; u.recallTake page d)
  let s2 : State := { s1 with recs := { s1.recs with recalled := true, jobs := [], life := s1.recs.user } }
  let s2 := if s1.recs.jobs.isEmpty then s2 else s2.storePage 3
  let s3 := match s2.recs.torn with
    | some page => ({ s2 with recs := { s2.recs with torn := none } } : State).raise (evDev 0x7005 2 page)
    | none => s2
  let s4 := (s3.countStart.recallModels).setComparators
  let ready := (s4.arrays.filter (fun e => e.2.st = .ready)).map (·.1)
  ({ s4 with boot := { s4.boot with toMargin := ready, toCal := ready } } : State).wf_ .bootStatus 0 3 0 5

/-- Recall can end: memory is trained and every tender has left its load (R395). -/
def State.recallDue (s : State) : Bool :=
  !s.boot.inReset && s.pwrState = 0 && s.rf .bootStatus 0 3 0 = 4 && s.boot.trained.length = 4 && !s.recs.recalled &&
  (List.range 128).all (fun c => (s.core c).tnd ≠ .off && (s.core c).tnd ≠ .loading)

/-! ### Margin check and calibration -/

/-- The last margin check moves start-up on (R395). -/
def State.marginNext (s : State) : State :=
  if s.boot.toMargin.isEmpty && s.rf .bootStatus 0 3 0 = 5 then s.wf_ .bootStatus 0 3 0 6 else s

/-- The full scan and refresh of an array in start-up (R54, R56, R58): every batch is read and every weak one programmed again.
How many it finds beyond the `weak` sampled ones is a free value (assumption 7). -/
def State.fullScan (s : State) (a weak : Nat) : State :=
  let (v, s1) := s.fresh
  let (w, s2) := s1.fresh
  let batches := weak + v % (scanBatches + 1 - weak)
  let cells := batches + w % (255 * batches + 1)
  let s3 := (s2.modArr a (fun x => { x with scanPos := 0, scanning := false, scanEnd := s.time, weak := [], deferredRaised := false })).wr
    .arrScanStatus a 0 (satTo 0xFFFF cells)
  ((s3.flag .arrEvent a 0x10).raise (evArr 0x2008 0 a (satTo 0xFFFF cells + 65536 * batches))).count (a / 17) 8 batches

/-- The sampled margin read of an array finds weak batches (R56): more than one leads to a full scan and refresh. -/
def State.marginCheck (s : State) (a weak : Nat) : State :=
  if !s.boot.toMargin.contains a || s.pwrState ≠ 0 then s else
  let s1 : State := { s with boot := { s.boot with toMargin := s.boot.toMargin.filter (· ≠ a) } }
  (if 1 < weak then s1.fullScan a (min weak 64) else s1).marginNext

/-- A newer correction meets a running ramp (R274): it starts again at step 1 from the values in force; of array `l` the new trim values and
pair factors are those of a start-up calibration, and the others keep their targets. -/
def State.calNewer (s : State) (c set l fb : Nat) (m : CalCodes) (k : List Rat) : State :=
  let a := s.larr c l
  let v := s.cal c set
  let rest (key : Nat) : Bool := key / 514 ≠ l
  let trims : NMap Int := (List.range 514).foldl (fun t p => t.insert (514 * l + p) (clampI (-15) 15 (s.nullTrim a fb m p)))
    (v.trimTo.filter (fun e => rest e.1))
  let ks : NMap Rat := k.zipIdx.foldl (fun t (q, p) => t.insert (514 * l + p) q) (v.kTo.filter (fun e => rest e.1))
  s.setCal c set { v with
    step := 0, due := 0, idle := false, trimTo := trims, kTo := ks, startGain := v.active, target := (s.gainTable c set ks).1,
    startTrim := trims.foldl (fun t (key, _) => t.insert key (s.trimAt (s.larr c (key / 514)) (key % 514))) [] }

/-- The windows of a set start over, and a correction computed before is dropped (assumption 67). -/
def State.calAnew (s : State) (c set : Nat) : State :=
  let v := s.cal c set
  if v.st = .collect1 || v.st = .collect2 || v.st = .pending then s.setCal c set v.discard.restart else s

/-- The calibrated freeboard of a physical array, for the logical array it serves. -/
def State.slotFb (s : State) (a : Nat) : Nat := (((s.core (a / 17)).logicalOf (a % 17)).map (s.calFb (a / 17))).getD 0

/-- The masks, ρ and pair factors of a start-up calibration of an array come into force (R262). -/
def State.startSet (s : State) (a fb : Nat) (m : CalCodes) : State :=
  let (rho, k) := s.startFactors a fb m
  (s.nullSwap a fb m).setFactors a rho k true

/-- Start-up calibration of one array passes (R262). On an array whose set ramps it is a newer correction (R271, R274). -/
def State.startCal (s : State) (a : Nat) (m : CalCodes) : State :=
  let c := a / 17
  let fb := s.slotFb a
  let done (t : State) : State :=
    { t with boot := { t.boot with toCal := t.boot.toCal.filter (· ≠ a), toServe := t.boot.toServe.filter (· ≠ a) } }
  match (s.core c).logicalOf (a % 17) with
  | some l =>
    let set := minArr (s.setOf c l)
    if (s.cal c set).st = .ramping then
      let (rho, k) := s.startFactors a fb m
      done ((s.modArr a (fun x => { x with rho := rho, calPass := true, prov := true })).calNewer c set l fb m k)
    else
      let s2 := done (s.startSet a fb m)
      let s3 := if s.boot.toServe.contains a then s2.serve c l else s2
      ((s3.calAnew c set).calReload c l).calBegin c set
  | none => done (s.startSet a fb m)

/-- The conversions of one start-up calibration: 512 null ones and 1,024 couples (R262, R420). -/
def State.startConvs (s : State) (a : Nat) : State := s.count (a / 17) 6 2560

/-- Start-up calibration of an array ends (R262, R312). -/
def State.startCalEnd (s : State) (a : Nat) (m : CalCodes) : State :=
  if !s.boot.toCal.contains a || s.pwrState ≠ 0 || s.rf .bootStatus 0 3 0 ≠ 6 then s
  else if s.startAgrees a (s.slotFb a) m then (s.startConvs a).startCal a m
  else if s.boot.retried.contains a then
    let s1 := ({ s.startConvs a with boot := { s.boot with toCal := s.boot.toCal.filter (· ≠ a), toServe := s.boot.toServe.filter (· ≠ a) } } : State).openFail a 3
    match (s.core (a / 17)).logicalOf (a % 17) with
    | some l => (s1.permArr (a / 17) l 0 0x3FF false 0x7FF).quarantine (a / 17) l
    | none => s1
  else { s.startConvs a with boot := { s.boot with retried := a :: s.boot.retried } }

/-! ### Readiness -/

/-- Every step of start-up but the ports is done, and the hold-up store has reached 11.5 V (R395, R396). -/
def State.startDone (s : State) : Bool :=
  !s.boot.inReset && s.pwrState = 0 && s.rb .pwrStatus 0 3 && s.rf .bootStatus 0 3 0 = 6 && s.boot.toCal.isEmpty

/-- The logical ports the configuration enables that are down (R359, R396). -/
def State.downPorts (s : State) : List Nat :=
  (List.range 16).filter (fun p => s.rb .ethPortCfg (p / 4) 8 && !s.linkUp p &&
    (match s.rf .ethPortCfg (p / 4) 2 0 with
      | 0 => p % 4 = 0
      | 1 => p % 2 = 0
      | 2 => true
      | 3 => p % 4 ≠ 1
      | _ => false))

/-- The device becomes READY (R396, R403). -/
def State.nowReady (s : State) : State :=
  let down := (s.downPorts.map (fun p => 2 ^ p)).sum
  (((s.mainPaths.setPwr 1).wf_ .bootStatus 0 3 0 7).wf_ .pwrStatus 0 11 8 8).raise (evDev 0x8010 0 (u32 (s.time / 1000) + 2 ^ 32 * down))

/-- The wake calibration (R403): every array measured is set as at start-up, and issue resumes. -/
def State.wakeCal (s : State) (ms : List (Nat × CalCodes)) : State :=
  if s.pwrState ≠ 1 || !s.pwr.waking then s else
  let s1 := s.each ms (fun t (a, m) =>
    if (t.arr a).st ≠ .ready && (t.arr a).st ≠ .serving then t
    else if t.startAgrees a (t.slotFb a) m then (t.startConvs a).startCal a m
    else t.startConvs a)
  { s1 with pwr := { s1.pwr with waking := false } }

end Sys2Proof.Machine
end

