-- ==== Sys2Proof/Machine/CmdOps.lean ====
section
/-! DEFINITION. Command registers: what a write of each does (R13, R60, R148, R221, R253, R283, R313, R326, R356,
R390, R396, R417, R429). -/
namespace Sys2Proof.Machine
open Sys2Proof

/-! ### Refusals before DEVICE_READY (R396) -/

/-- An image command; RESULT 0x5 until the device is ready. -/
def State.imgWhenUp (s : State) (f : State → State) : State := if s.up then f s else s.imgResult 5
/-- A stream command; CODE 0x4 until the device is ready. -/
def State.stmWhenUp (s : State) (i : Nat) (f : State → State) : State := if s.up then f s else s.stmResult i 4
/-- A queue command; RESULT 0x3 until the device is ready. -/
def State.queWhenUp (s : State) (q : Nat) (f : State → State) : State := if s.up then f s else s.queResult q 3 true

/-! ### Busy blocks -/

/-- An entry is in progress on a core. -/
def State.coreWorks (s : State) (c : Nat) : Bool :=
  s.allRuns.any (fun (r, e) => decide (e.mode ≠ .ended) && (e.cores r.pound).contains c)

/-- A halo transfer touches a core: as its sender, or as the neighbour that receives (R140). -/
def State.haloTouches (s : State) (c : Nat) : Bool :=
  !(s.core c).haloOut.isEmpty || (0 < c && (s.core (c - 1)).haloOut.any (·.toRight)) ||
  (s.core (c + 1)).haloOut.any (fun h => !h.toRight)

/-- DRN_STATUS.BUSY (R148): an entry in progress, or codes, staging rows or chain rows in flight. -/
def State.drnBusy (s : State) (c : Nat) : Bool :=
  let x := s.core c
  s.coreWorks c || !x.ready.isEmpty || !x.flying.isEmpty || !x.splits.isEmpty || !x.replays.isEmpty

/-- The check block's command runs (R326). -/
def State.chkRuns (s : State) : Bool := s.cores.any (fun e => e.2.retesting)

/-- BUSY of the block that an instance's RWL fields follow (R10). -/
def State.blkBusy (s : State) (b : Blk) (i : Nat) : Bool :=
  match b with
  | .arr => s.arrBusy i
  | .wav => s.wavBusy i
  | .cor => s.coreWorks i || s.haloTouches i
  | .drn => s.drnBusy i
  | .que => s.queues.any (fun e => decide (e.2.st ≠ .disabled))
  | .img => s.imgBusy
  | .adp => decide (0 < s.adpResident)
  | .chk => s.rb .chkCkptCfg 0 31 || s.chkRuns
  | .tal => decide (s.tal.st ≠ .idle)
  | .eth => s.rb .ethPortCfg i 8
  | .srn => s.rb .ethSrnCfg 0 16
  | .ctr => s.sweepBusy
  | .recs => s.recs.busy
  | _ => false

/-! ### Check commands -/

/-- The end of a check command (R326). -/
def State.chkResult (s : State) (code : Nat) : State := s.wr .chkCmdStatus 0 0 (code + 2 ^ 31)

/-- CHK_CMD.ROLLBACK (R320); not while a command runs. -/
def State.rollbackCmd (s : State) (p : Path) (ctx : Nat) : State :=
  if s.chkRuns then s.ignored p (Reg.chkCmd.addr 0 0) 3
  else let (code, t) := s.rollback ctx; t.chkResult code

/-- CHK_CMD.RETEST_CORE (R313): the self test of a failed core starts. -/
def State.retestCmd (s : State) (p : Path) (c : Nat) : State :=
  if s.chkRuns then s.ignored p (Reg.chkCmd.addr 0 0) 3
  else if !(s.core c).failedCore then s.chkResult 1
  else (s.modCore c (fun x => { x with retesting := true })).wr .chkCmdStatus 0 0 (2 ^ 30)

/-- The self test ends; a pass returns the core to service, and its record is stored (R313). -/
def State.selfTestEnd (s : State) (c : Nat) (pass : Bool) : State :=
  if !(s.core c).retesting then s
  else
    let s1 := s.modCore c (fun x => { x with retesting := false, failedCore := x.failedCore && !pass })
    (if pass then s1.storeNow corePage else s1).chkResult (if pass then 0 else 3)

/-! ### Core commands -/

/-- COR_SPARE_CMD (R145 to R148): both bits, or a COMMIT pending, and the write is discarded. -/
def State.spareCmd (s : State) (p : Path) (c : Nat) (commit release : Bool) : State :=
  if (commit && release) || ((commit || release) && (s.core c).spPending.isSome) then
    s.ignored p (Reg.corSpareCmd.addr c 0) 3
  else if commit then s.spareCommit c else if release then s.spareRelease c else s

/-- COR_CAL_CMD (R263, R271, R283). -/
def State.calCmd (s : State) (p : Path) (c : Nat) (open_ restart : Bool) (sl : Nat) : State :=
  let addr := Reg.corCalCmd.addr c 0
  if open_ && restart then s.ignored p addr 3
  else if open_ then if 17 ≤ sl then s.ignored p addr 2 else s.calOpenCmd c sl
  else if restart then s.calRestart c (s.rf .corCalSel c 3 0) else s

/-- The stage word that DRN_CHAIN_ADDR addresses (R125). -/
def State.chainKey (s : State) (c : Nat) : Nat := 8 * s.rf .drnChainAddr c 13 8 + s.rf .drnChainAddr c 2 0

/-- A write of DRN_CHAIN_DATA_LO loads the holding register (R125). -/
def State.chainLo (s : State) (c v : Nat) : State := s.modCore c (fun x => { x with holding := BitVec.ofNat 32 v })

/-- A write of DRN_CHAIN_DATA_HI stores the stage word (R125). -/
def State.chainHi (s : State) (c v : Nat) : State :=
  let k := s.chainKey c
  s.modCore c (fun x => { x with chains := x.chains.set 0 k (BitVec.ofNat 64 (x.holding.toNat + 2 ^ 32 * v)) })

/-- DRN_NLT_ADDR after an access that was performed (R148). -/
def State.nltStep (s : State) (c : Nat) : State :=
  if s.rb .drnNltAddr c 15 then
    let n := s.rf .drnNltAddr c 10 0
    s.wf_ .drnNltAddr c 10 0 (if 1027 ≤ n then 0 else n + 1)
  else s

/-- The word that DRN_NLT_ADDR addresses (R128, R129). -/
def State.nltHere (s : State) (c : Nat) : Nat := (s.nltWord c (s.rf .drnNltAddr c 14 12) (s.rf .drnNltAddr c 10 0)).toNat

/-- A write of DRN_NLT_DATA (R129, R131): the fixed functions take none, and while the drain is busy a new
value is discarded (R10). One that writes the value already held is then neither discarded nor performed; that it leaves INDEX as
it is under AUTO_INC is a DESIGN CHOICE (R148 does not say; assumption 63). -/
def State.nltWrite (s : State) (p : Path) (c v : Nat) : State :=
  let f := s.rf .drnNltAddr c 14 12
  let addr := Reg.drnNltData.addr c 0
  if f < 4 then s.ignored p addr 3
  else if s.drnBusy c then if s.nltHere c = v then s else s.ignored p addr 1
  else (s.modCore c (fun x => { x with
    nlt := x.nlt.set 0 (1028 * f + s.rf .drnNltAddr c 10 0) (BitVec.ofNat 32 v) })).nltStep c

/-! ### Whole command words -/

/-- ARR_PGM_CMD (R60): both bits act as ABORT alone. -/
def State.arrCmdWord (s : State) (p : Path) (a v : Nat) : State :=
  if bit v 1 then s.onJob a (fun u => u.pgmAbort a) else if bit v 0 then s.pgmGo p a else s

/-- ARR_TRIM_CMD (R60): the copy before the swap. -/
def State.trimCmdWord (s : State) (a v : Nat) : State :=
  let s1 := if bit v 1 then s.trimCopy a else s
  if bit v 0 then (s1.trimSwap a).calDisturbed a else s1

/-- QUE_CMD (R206, R207, R221). -/
def State.queCmdWord (s : State) (v : Nat) : State :=
  let q := fld v 14 0
  s.queWhenUp q (fun t => match fld v 17 16 with
    | 1 => t.queCreate q
    | 2 => t.queDrain q false
    | _ => t.queDrain q true)

/-- STM_CMD (R209, R210, R221). -/
def State.stmCmdWord (s : State) (v : Nat) : State :=
  let i := fld v 31 16
  match fld v 2 0 with
  | 1 => s.stmWhenUp 0 State.bind_
  | 2 => s.stmWhenUp 0 State.lookup
  | 3 => s.stmWhenUp i (fun t => t.retire i (fld v 9 8))
  | _ => s.stmWhenUp i (fun t => t.releaseCtx i)

/-- IMG_CMD (R228 to R251, R253). -/
def State.imgCmdWord (s : State) (v : Nat) : State :=
  s.imgWhenUp (fun t => match fld v 3 0 with
    | 1 => t.imgReceive
    | 2 => t.imgVerifyCmd
    | 3 => t.imgInstall
    | 4 => t.imgLock (bit v 4)
    | 5 => t.imgLoadSet (fld v 11 8)
    | 6 => t.imgRetry
    | 7 => t.imgDiscard
    | 8 => t.imgReleaseHold
    | 9 => t.imgRestage
    | _ => t.imgSend)

/-- CHK_CMD (R313, R320, R326). -/
def State.chkCmdWord (s : State) (p : Path) (v : Nat) : State :=
  if fld v 2 0 = 1 then s.rollbackCmd p (fld v 31 16) else s.retestCmd p (fld v 22 16)

/-- TAL_CMD (R348, R355, R356). -/
def State.talCmdWord (s : State) (v : Nat) : State :=
  match fld v 2 0 with
  | 1 => s.talJoin
  | 2 => s.talLeave
  | _ => s.talExpel (fld v 10 8)

/-- ETH_SRN_CMD (R362, R370, R390). -/
def State.srnCmdWord (s : State) (p : Path) (v : Nat) : State :=
  match fld v 2 0 with
  | 1 => s.srnReload p
  | 2 => s.srnOpen (fld v 15 8)
  | _ => (s.srnClose (fld v 15 8)).adpSettle

/-- PWR_CMD (R403). -/
def State.pwrCmdWord (s : State) (p : Path) (v : Nat) : State := if fld v 1 0 = 1 then s.goIdle p else s.goWake p

/-- REC_CMD (R411, R414, R417). -/
def State.recCmdWord (s : State) (p : Path) (v : Nat) : State :=
  match fld v 2 0 with
  | 1 => s.storeCmd p
  | 2 => s.unlock p false
  | 3 => s.unlock p true
  | 4 => s.relockRec p
  | 5 => s.setPw p false
  | _ => s.setPw p true

end Sys2Proof.Machine
end

