-- ==== Sys2Proof/Machine/Calibration.lean ====
section
/-! DEFINITION. The meanings of the calibration and monitor commands. -/
namespace Sys2Proof.Machine
open Sys2Proof

/-- GAIN_TEMPERATURE_UPDATE (R265): every set of the core. -/
def execGainTemperatureUpdate (c : CoreId) (s : State) : Out :=
  .next (if s.works then s.tempUpdates c else s)

/-- DRIFT_TRACKING_SESSION (R265). -/
def execDriftTrackingSession (c : CoreId) (sl : SlotId) (refs : List Int) (s : State) : Out :=
  .next (if s.works then s.driftSession (arrId c sl) refs else s)

/-- CAL_WINDOW_CLOSE (R267). -/
def execCalWindowClose (c : CoreId) (set : Fin 16) (s : State) : Out := .next (if s.works then s.windowClose c set else s)

/-- CAL_WINDOW_TIMEOUT (R267). -/
def execCalWindowTimeout (c : CoreId) (set : Fin 16) (s : State) : Out := .next (if s.works then s.windowTimeout c set else s)

/-- CAL_SWITCH_SLOT (R273). -/
def execCalSwitchSlot (c : CoreId) (set : Fin 16) (s : State) : Out := .next (if s.works then s.calSwitch c set else s)

/-- CAL_RAMP_STEP (R274). -/
def execCalRampStep (c : CoreId) (set : Fin 16) (s : State) : Out := .next (if s.works then s.calRamp c set else s)

/-- CAL_OPEN (R263). -/
def execCalOpen (path : Path) (c : CoreId) (sl : SlotId) (s : State) : Out :=
  .next (s.asked path .cal (fun t => t.calCmd path c true false sl))

/-- CAL_RESTART (R271): the set that COR_CAL_SEL names. -/
def execCalRestart (path : Path) (c : CoreId) (s : State) : Out :=
  .next (s.asked path .cal (fun t => t.calCmd path c false true 0))

/-- COR_CAL_GAIN_DATA_READ (R283). -/
def execCorCalGainDataRead (path : Path) (c : CoreId) (s : State) : Out :=
  .next (if s.answers path .cal then let (v, t) := s.gainRead c; t.reply path v else s.reply path 0)

/-- MON_START (R278): in sequence mode START has no effect. -/
def execMonStart (path : Path) (mc : MonId) (ch : Fin 64) (s : State) : Out :=
  .next (s.asked path .mon (fun t => t.monSel path mc (ch.val + 2 ^ 31)))

/-- MON_CONVERSION_DONE (R277). -/
def execMonConversionDone (mc : MonId) (code : Fin 4096) (s : State) : Out := .next (if s.boot.inReset then s else s.monDone mc code)

/-- MON_MODE_WRITE (R279). -/
def execMonModeWrite (path : Path) (mc : MonId) (v : Word) (s : State) : Out :=
  .next (s.asked path .mon (fun t => t.monCtrl path mc v.toNat))

/-- MON_FALLBACK_TIMEOUT (R279). -/
def execMonFallbackTimeout (mc : MonId) (s : State) : Out := .next (if s.boot.inReset then s else s.monFallback mc)

/-- MON_TRIGGER (R280). -/
def execMonTrigger (mc : MonId) (s : State) : Out := .next (if s.boot.inReset then s else s.monTrigger mc)

/-- MON_STALE (R282). -/
def execMonStale (c : CoreId) (s : State) : Out := .next (if s.boot.inReset then s else s.monStale c)

end Sys2Proof.Machine
end

