-- ==== Sys2Proof/Machine/CsOps.lean ====
section
/-! DEFINITION. Control-space accesses: what each register reads as, what a write does by access class
(R10 to R14), reserved encodings (R13), the paths' rules (R432 to R435). -/
namespace Sys2Proof.Machine
open Sys2Proof

/-! ### Reads -/

/-- The word software last wrote to an RWS register, and the active word of any other (R10, R12). -/
def State.shadowed (s : State) (r : Reg) (i k : Nat) : Nat := ((s.shadows.find? (r.addr i k)).map (·.toNat)).getD (s.rd r i k)

/-- ARR_STATUS (R47, R60): until the record store is recalled the spare counts read as their reset values. -/
def State.arrStatus (s : State) (a : Nat) : Nat :=
  let x := s.arr a
  let st := match x.st with
    | .unprogrammed => 0 | .programming => 1 | .partial_ => 2 | .ready => 3 | .serving => 4 | .failed => 5
  let rows := if s.recs.recalled then (s.freeRows a).length else 0
  let cols := if s.recs.recalled then (s.freeCols a).length else 0
  st + 16 * b2n (s.arrBusy a) + 32 * b2n (decide (10000000 ≤ s.rd .arrPgmCount a)) + 64 * b2n x.scanning +
  128 * b2n (!x.weak.isEmpty) + 256 * b2n (x.job.any (·.queued)) + 512 * rows + 8192 * cols

/-- WAV_STATUS (R86). -/
def State.wavStatus (s : State) (c : Nat) : Nat :=
  let x := s.core c
  b2n (s.wavBusy c) + 2 * b2n (!x.splits.isEmpty) + 4 * b2n s.tb.holdover + 8 * b2n x.gridWait + 65536 * x.driven

/-- TND_STATUS (R135, R148). -/
def State.tndStatus (s : State) (c : Nat) : Nat :=
  let x := s.core c
  let st := match x.tnd with
    | .off => 0 | .loading => 1 | .running => 2 | .fault => 3
  st + 16 * b2n x.tndBusy.isSome + 256 * x.tndCause

/-- DRN_STATUS (R148). -/
def State.drnStatus (s : State) (c : Nat) : Nat :=
  let x := s.core c
  let staged (l : Nat) : Bool := x.splits.any (fun q => decide (q.base.larr = l)) || x.ready.any (fun d => decide (d.req.larr = l) && 1 < d.n)
  b2n (s.drnBusy c) + 65536 * ((List.range 16).map (fun l => if staged l then 2 ^ l else 0)).sum

/-- COR_SPARE_STATUS (R145, R148). -/
def State.spareStatus (s : State) (c : Nat) : Nat :=
  let x := s.core c
  b2n x.spPending.isSome + 2 * x.spCause + 16 * x.retired.getD 0 + 512 * b2n x.retired.isSome + 1024 * x.lastLogical

/-- CHK_CORE_STATUS (R326). -/
def State.chkCoreStatus (s : State) (c : Nat) : Nat :=
  let x := s.core c
  x.quar + 65536 * x.rotTarget + 2 ^ 20 * b2n x.replayOn + 2 ^ 21 * b2n x.spareSuspect + 2 ^ 22 * b2n x.failedCore

/-- Word `k` of the event record that CHK_EVT_IDX names; zero once it has left the ring (R323, R326). -/
def State.evtWin (s : State) (k : Nat) : Nat :=
  match s.ev.ring.find? (fun e => decide (u32 e.1 = s.rd .chkEvtIdx)) with
  | some e => leAt e.2.bytes (4 * k) 4
  | none => 0

/-- ETH_SRN_STATUS of the peer in ETH_SRN_SEL (R370, R390). -/
def State.srnStatus (s : State) : Nat :=
  let x := s.peer (s.rf .ethSrnSel 0 7 0)
  let st := match x.st with
    | .closed => 0 | .opening => 1 | .open_ => 2 | .unreachable => 3
  b2n (s.rb .ethSrnCfg 0 16) + 2 * st + 65536 * satTo 0xFFFF (x.srtt / 100)

/-- IMG_CHAIN_STATUS of the model in IMG_SEL (R231, R233, R253). -/
def State.chainStatus (s : State) : Nat :=
  let x := s.model s.imgSel
  x.rxBlocks % 2 ^ 24 + 2 ^ 30 * b2n x.rxBroken.isSome + 2 ^ 31 * b2n (!x.rxBad.isEmpty)

/-- The reference copy of the current version of the model in IMG_SEL (R229). -/
def State.imgRef (s : State) : Nat :=
  let x := s.model s.imgSel
  if x.refCur then (x.cur.map (fun (i : Image) => i.base)).getD 0 else 0

/-- The version of an image, 0 for none. -/
def imgVersion (i : Option Image) : Nat := (i.map (fun (x : Image) => x.version)).getD 0

/-- WAV_PERIOD (R76, R86): the slot period is four conversion times, and at least 100 ns; 0 before the first slot. -/
def State.wavPeriod (s : State) (c : Nat) : Nat :=
  if (s.core c).slotNo = 0 then 0 else max 400 (4 * s.wavConv c) + 65536 * s.wavConv c

/-- What a register reads as when its reading changes nothing. ARR_SCAN_STATUS.HOURS_SINCE counts from start-up while no full
scan has ended since then (R60 does not say; DESIGN CHOICE, assumption 60). -/
def State.shown (s : State) (r : Reg) (i k : Nat) : Nat :=
  match r with
  | .arrStatus => s.arrStatus i
  | .arrPgmProgress => s.arrProgress i
  | .arrScanStatus => s.rf .arrScanStatus i 15 0 + 65536 * satTo 0xFFFF ((s.time - (s.arr i).scanEnd) / hourNs)
  | .wavStatus => s.wavStatus i
  | .wavPeriod => s.wavPeriod i
  | .corStatus => b2n (s.blkBusy .cor i) + 2 * b2n (s.core i).accepting
  | .corSlotMap => ((List.range 4).map (fun j => 2 ^ (8 * j) * (s.core i).slotOf (4 * k + j))).sum
  | .corSpareSlot => (s.core i).spare + 256 * b2n (s.core i).noSpare
  | .corSpareStatus => s.spareStatus i
  | .corHaloSeq => (s.core i).seqL % 65536 + 65536 * ((s.core i).seqR % 65536)
  | .tndStatus => s.tndStatus i
  | .tndFwVersion => (s.core i).tndFw
  | .tndHeartbeat => u32 (s.core i).tndBeat
  | .drnStatus => s.drnStatus i
  | .drnChainDataLo => ((s.core i).chains.get 0 (s.chainKey i)).toNat % 2 ^ 32
  | .drnChainDataHi => ((s.core i).chains.get 0 (s.chainKey i)).toNat / 2 ^ 32
  | .queExpStatus => s.expStatus
  | .queDbSqTail => (s.queue i).sqTail
  | .queDbCqHead => (s.queue i).cqHead
  | .queDbSqHead => (s.queue i).sqHead
  | .queDbCqTail => (s.queue i).cqTail
  | .stmBound => s.stmBound
  | .imgStatus => s.imgStatus
  | .imgRefLo => u32 s.imgRef
  | .imgRefHi => s.imgRef / 2 ^ 32
  | .imgVersionCur => (s.model s.imgSel).issue
  | .imgVersionNext => imgVersion (s.model s.imgSel).next
  | .imgLockProgress => s.lockProgress
  | .imgChainStatus => s.chainStatus
  | .imgAdpStatus => s.adpResident + 2 ^ 31 * b2n (decide (0 < s.adpResident))
  | .corCalStatus => s.calStatus i
  | .corCalNwin => (s.calNwin i (s.rf .corCalSel i 3 0)).getD 0
  | .monStatus => s.monStatus i
  | .monWinState => (s.mon i).out
  | .chkMstore => s.mstore / 4096
  | .chkEvtHead => u32 (s.ev.seq - 1)
  | .chkEvtWin => s.evtWin k
  | .chkCoreStatus => s.chkCoreStatus i
  | .talStatus => s.talStatus
  | .talRoundLo => u32 (s.tal.closed - 1)
  | .talRoundHi => (s.tal.closed - 1) / 2 ^ 32
  | .talAgreeLo => u32 s.tal.agree
  | .talAgreeHi => s.tal.agree / 2 ^ 32
  | .ethPortStatus => s.rf .ethPortStatus i 3 0 + 16 * b2n (s.rb .ethPortCfg i 8)
  | .ethSrnStatus => s.srnStatus
  | .tbsStatus => s.tbsStatus
  | .recStatus => s.recs.status
  | .ctrSweepStatus => s.rd .ctrSweepStatus / 256 * 256 + b2n s.sweepBusy
  | .smpWin => leAt (s.core i).sampleWin (4 * k) 4
  | .lkpHeartbeat => u32 (s.time / 1000000)
  | .lkpFwVersion => (s.boot.fw.map (fun (x : Container) => x.version)).getD 0
  | .lkpCfgVersion => (s.boot.cfg.map (fun (x : Container) => x.version)).getD 0
  | r => s.shadowed r i k - (s.shadowed r i k &&& r.mask [.wo])

/-- A read of a register with its effects (R434). -/
def State.regRead (s : State) (p : Path) (r : Reg) (i k : Nat) : Nat × State :=
  match r with
  | .arrTrimData => (s.trimData i, s.trimStep i)
  | .drnNltData => (s.nltHere i, s.nltStep i)
  | .corCalGainData => s.gainRead i
  | .recData => s.recRead p
  | .tbsTimeLo => (u32 s.time, s.latch p (Reg.tbsTimeHi.addr 0 0) (u64 s.time / 2 ^ 32))
  | .ctrWinLastLo => s.winLastLo p
  | .tbsTimeHi | .ctrWinLastHi | .ctrWinPeakLo | .ctrWinPeakHi | .ctrWinIdx => (s.latched p (r.addr i k), s)
  | r => (s.shown r i k, s)

/-! ### Writes -/

/-- A value lies outside a range. -/
def outside (lo hi v : Nat) : Bool := v < lo || hi < v

/-- The four channel fields of a monitor sequence word hold a reserved channel (R283). -/
def badChans (m v : Nat) : Bool := (List.range 4).any (fun j => monChannels m ≤ fld v (8 * j + 5) (8 * j))

/-- A word places a reserved encoding in a field of the register (R13). -/
def badEnc (r : Reg) (i k v : Nat) : Bool :=
  match r with
  | .arrPgmCtrl => 1031 < fld v 15 5 || 1031 < fld v 26 16
  | .arrCheckScale => 9 < fld v 4 0 || 17 < fld v 12 8
  | .arrTrimAddr => 515 < fld v 9 0
  | .arrScanCfg => fld v 19 16 < 6
  | .corSclMode => fld v 1 0 = 3
  | .corSguardCfg => 4096 < fld v 12 0 || fld v 18 16 = 7
  | .corHaloRxL | .corHaloRxR => 64 < fld v 14 8
  | .drnNltAddr => 1027 < fld v 10 0
  | .queCmd => fld v 17 16 = 0
  | .queShare => fld v 5 0 = 0 || 8 < fld v 13 8
  | .stmArg => 64 < fld v 22 16
  | .stmCmd => outside 1 4 (fld v 2 0)
  | .imgSel => v = 0xFFFF
  | .imgCmd => outside 1 10 (fld v 3 0)
  | .imgAdpTime => fld v 23 16 = 0
  | .corCalCfg => outside 100 10000 (fld v 31 16)
  | .monSeqCfg => outside 1 16 (fld v 4 0)
  | .monSeq | .monInjCh => badChans i v
  | .monInjCfg => outside 1 4 (fld v 2 0)
  | .monWinCfg => monChannels i ≤ fld v 5 0
  | .chkCfg => fld v 3 2 = 3 || fld v 5 4 = 3 || fld v 7 6 = 3 || fld v 23 16 = 0
  | .chkCpCfg => fld v 3 0 < 4
  | .chkCkptCfg => outside 1 4096 (fld v 12 0) || 64 < fld v 22 16
  | .chkCmd => outside 1 2 (fld v 2 0)
  | .talCfg => outside 1 4096 (fld v 12 0) || outside 8 64 (fld v 27 20)
  | .talGroup => fld v 10 8 = 7 || fld v 14 12 < 2 || fld v 31 16 = 0xFFFF
  | .talPeer => k = 1 && fld v 31 24 ≠ 0
  | .talTime => fld v 7 0 = 0 || fld v 11 8 = 0
  | .talCmd => outside 1 3 (fld v 2 0)
  | .ethPortCfg => 3 < fld v 2 0
  | .ethSrnCfg => fld v 23 20 = 0
  | .ethSrnCmd => outside 1 3 (fld v 2 0)
  | .ethSrnRto => v = 0
  | .pwrCfg => outside 80 110 (fld v 7 0) || outside (fld v 7 0 + 5) 120 (fld v 15 8) || outside 100 1900 (fld v 27 16)
  | .pwrCmd => outside 1 2 (fld v 1 0)
  | .recCmd => outside 1 6 (fld v 2 0)
  | .ctrSweepCfg => (fld v 19 0 ≠ 0 && outside 100 1000000 (fld v 19 0)) || 8 < fld v 23 20
  | .ctrWinSel => 55 < fld v 5 0
  | .smpCfg => fld v 4 0 ≠ 0 && outside 4 20 (fld v 4 0)
  | _ => false

/-- A word is refused by the register's own rule: a learning rate or bound out of range (R356), limits
that cross or a comparator of the lockkeeper (R281, R283). -/
def refuses (r : Reg) (p : Path) (k v : Nat) : Bool :=
  let x : Word := BitVec.ofNat 32 v
  match r with
  | .talUpdLr => Fp.isNaN x || fld v 30 23 = 255 || (bit v 31 && fld v 30 0 ≠ 0)
  | .talUpdClip => Fp.isNaN x || (bit v 31 && fld v 30 0 ≠ 0)
  | .monWinCfg => k < 12 && p ≠ .lkp
  | .monWinLim => (k < 12 && p ≠ .lkp) || fld v 27 16 < fld v 11 0
  | _ => false

/-- The word a register holds after a write, by access class (R10): RW and RWS bits as written, W1C bits
cleared by ones, RWL bits as written unless `busy`, the others unchanged. -/
def written (r : Reg) (busy : Bool) (cur v : Nat) : Nat :=
  let take := r.mask [.rw, .rws] ||| (if busy then 0 else r.mask [.rwl])
  let kept := cur - (cur &&& (take ||| (r.mask [.w1c] &&& v)))
  kept ||| (v &&& take)

/-- A write acts on each field by its class; RWL values that a busy block discards are reported once (R10), and an
RWS register keeps its active bits until its boundary (R11, R12). -/
def State.classWrite (s : State) (p : Path) (r : Reg) (i k v : Nat) : State :=
  let busy := s.blkBusy r.spec.blk i
  let cur := s.shadowed r i k
  let new := written r busy cur v
  let s1 := if busy && (cur ^^^ v) &&& r.mask [.rwl] ≠ 0 then s.ignored p (r.addr i k) 1 else s
  let rws := r.mask [.rws]
  if rws = 0 then s1.wr r i k new
  else
    let act := (new - (new &&& rws)) ||| (s.rd r i k &&& rws)
    let s2 := s1.wr r i k act
    { s2 with shadows := if new = act then s2.shadows.erase (r.addr i k) else s2.shadows.insert (r.addr i k) (BitVec.ofNat 32 new) }

/-- EN of a comparator set or cleared: it starts IN (R281). -/
def State.winEnabled (s : State) (m k old v : Nat) : State :=
  if bit old 16 = bit v 16 then s
  else
    let x := s.mon m
    s.setMon m { x with out := if bit x.out k then x.out - 2 ^ k else x.out }

/-- What follows the class effects of a write: enables that start or stop a unit. -/
def State.afterWrite (s : State) (r : Reg) (i k old v : Nat) : State :=
  match r with
  | .arrCheckScale => s.touch (arrPage i)
  | .arrTrimCfg => s.calDisturbed i
  | .corCalCfg => if bit old 0 && !bit v 0 then s.calOff i else if !bit old 0 && bit v 0 then s.calBeginAll i else s
  | .monWinCfg => s.winEnabled i k old v
  | .monInjCfg => if bit v 31 then s.monTrigger i else s
  | .ethPortCfg => if bit old 8 && !bit v 8 then s.each (List.range 4) (fun t j => t.portDown (4 * i + j)) else s
  | .ethSrnCfg => if bit old 16 && !bit v 16 then (s.closeAll).adpSettle else s
  | .pwrCfg => s.setComparators
  | _ => s

/-- A write of a register whose word passed R13. -/
def State.regWrite (s : State) (p : Path) (r : Reg) (i k v : Nat) : State :=
  match r with
  | .arrPgmCmd => s.arrCmdWord p i v
  | .arrRowMap => s.mapWrite p i false k v
  | .arrColMap => s.mapWrite p i true k v
  | .arrTrimData => s.trimWrite p i v
  | .arrTrimCmd => s.trimCmdWord i v
  | .corSpareCmd => s.spareCmd p i (bit v 0) (bit v 1)
  | .tndCmd => if bit v 0 then s.tenderRestart p i else s
  | .drnChainDataLo => s.chainLo i v
  | .drnChainDataHi => s.chainHi i v
  | .drnNltData => s.nltWrite p i v
  | .queCmd => s.queCmdWord v
  | .stmCmd => s.stmCmdWord v
  | .queDbSqTail => s.sqTailWrite p i v
  | .queDbCqHead => s.cqHeadWrite p i v
  | .imgCmd => s.imgCmdWord v
  | .corCalCmd => s.calCmd p i (bit v 0) (bit v 1) (fld v 12 8)
  | .monCtrl => s.monCtrl p i v
  | .monSel => s.monSel p i v
  | .chkCmd => s.chkCmdWord p v
  | .talCmd => s.talCmdWord v
  | .ethSrnCmd => s.srnCmdWord p v
  | .tbsCfg => s.tbsCfg p v
  | .bootCmd => if bit v 0 then s.commit else s
  | .pwrCmd => s.pwrCmdWord p v
  | .recCmd => s.recCmdWord p v
  | .recData => s.recWrite p v
  | .recPwLo => { s with recs := { s.recs with pwLo := v } }
  | .recPwHi => { s with recs := { s.recs with pwHi := v } }
  | .ctrSweepCmd => if bit v 0 then s.sweepCmd p else s
  | .ctrWinCfg => s.winCfg p v
  | .ctrWinCmd => if bit v 0 then s.clearPeak else s
  | .smpIdx => s.sampleIdx i v
  | r => (s.classWrite p r i k v).afterWrite r i k (s.rd r i k) v

/-- A write that reached a register: reserved bits and encodings first, the register's own rule next, then
its effect (R13, R439). -/
def State.writeReg (s : State) (p : Path) (r : Reg) (i k v : Nat) : State :=
  if v &&& r.mask [.rsv] ≠ 0 || badEnc r i k v then s.ignored p (r.addr i k) 2
  else if refuses r p k v then s.ignored p (r.addr i k) 3
  else s.regWrite p r i k v

/-! ### Places -/

/-- The block that answers for a place (R435). -/
def placeBlk : Place → Blk
  | .inBlock b _ _ => b
  | .counter _ _ => .ctr
  | .counterGap => .ctr
  | .msixTable _ => .pci
  | .msixPba _ => .pci
  | .unmapped => .idc

/-- An access to an unmapped address (R433). -/
def State.unmapped (s : State) (p : Path) (addr : Nat) (read : Bool) : State :=
  (s.flag .lkpCsEvent 0 2).raise (evDev 0x0102 1 (addr + 2 ^ 32 * Path.num p + 2 ^ 63 * b2n read))

/-- A transaction that breaks R432. -/
def State.badAccess (s : State) (p : Path) (addr dwords : Nat) : State :=
  (s.flag .lkpCsEvent 0 4).raise (evDev 0x0103 1 (addr + 2 ^ 32 * Path.num p + 2 ^ 48 * (dwords % 256)))

/-- A place answers on a path. -/
def State.answersAt (s : State) (p : Path) (addr : Nat) : Bool := s.answers p (placeBlk (decodeAddr addr))

/-- One word read: its value, and none where the address is unmapped (R433); a path on which the block does not answer
reads 0 (R435). -/
def State.csRead (s : State) (p : Path) (addr : Nat) : Option Nat × State :=
  if !s.answersAt p addr then (some 0, s) else
  match decodeAddr addr with
  | .inBlock b i off =>
    match regAt b i off with
    | some (r, k) => let (v, t) := s.regRead p r i k; (some v, t)
    | none => (some 0, s)
  | .counter n false => let (v, t) := s.ctrLo p n addr; (some v, t)
  | .counter _ true => (some (s.latched p addr), s)
  | .counterGap => (some 0, s)
  | .msixTable w => (some (s.msixWord w), s)
  | .msixPba w => (some (s.pbaWord w), s)
  | .unmapped => (none, s.unmapped p addr true)

/-- One word written: false where the address is unmapped (R433). A reserved offset takes no set bit (R13);
counters and the pending-bit array are read-only. -/
def State.csWrite (s : State) (p : Path) (addr v : Nat) : Bool × State :=
  if !s.answersAt p addr then (true, s) else
  match decodeAddr addr with
  | .inBlock b i off =>
    match regAt b i off with
    | some (r, k) => (true, s.writeReg p r i k v)
    | none => (true, if v = 0 then s else s.ignored p addr 2)
  | .counter _ _ => (true, s)
  | .counterGap => (true, if v = 0 then s else s.ignored p addr 2)
  | .msixTable w => (true, s.msixWrite w v)
  | .msixPba _ => (true, s)
  | .unmapped => (false, s.unmapped p addr false)

/-- A write whose outcome nobody waits for. -/
def State.csPost (s : State) (p : Path) (addr v : Nat) : State := (s.csWrite p addr v).2

/-- Words read one after the other, the lower address first (R432): over PCIe an unmapped word reads 0. -/
def State.csWords (s : State) (p : Path) (addr : Nat) : Nat → List Word × State
  | 0 => ([], s)
  | n + 1 =>
    let (v, s1) := s.csRead p addr
    let (rest, s2) := s1.csWords p (addr + 4) n
    (BitVec.ofNat 32 (v.getD 0) :: rest, s2)

/-- Words written one after the other. -/
def State.csStores (s : State) (p : Path) (addr : Nat) : List Nat → State
  | [] => s
  | v :: vs => (s.csPost p addr v).csStores p (addr + 4) vs

/-- A BAR0 transaction (R432): one or two dwords, every byte of a write enabled; others are rejected with
CS_ACCESS_INVALID unless nothing answers there (R435). -/
def State.bar0 (s : State) (addr : Nat) (op : Bar0) : State :=
  match op with
  | .write dws =>
    if 2 < dws.length || dws.any (fun d => d.2 ≠ 15) then
      if s.answersAt .pcie addr then s.badAccess .pcie addr dws.length else s
    else s.csStores .pcie addr (dws.map (fun d => d.1.toNat))
  | .read n =>
    if 2 < n then (if s.answersAt .pcie addr then s.badAccess .pcie addr n else s).send (.data .pcie [] true)
    else let (ws, t) := s.csWords .pcie addr n; t.send (.data .pcie ws false)

/-- An access on any path: over PCIe a BAR0 transaction, elsewhere one whole word (R432). -/
def State.access (s : State) (p : Path) (addr : Nat) (op : Bar0) : State :=
  let addr := addr / 4 * 4
  if p = .pcie then s.bar0 addr op
  else match op with
    | .write ds => match ds with
      | [d] => s.csPost p addr d.1.toNat
      | _ => s
    | .read n => if n = 1 then let (v, t) := s.csRead p addr; t.reply p (v.getD 0) else s

/-! ### Shadows -/

/-- A shadow takes effect with no boundary: outside every core window, or while the core's wave engine is
idle, that is while no wave waits (R11, R63). -/
def State.idleShadow (s : State) (addr : Nat) : State :=
  if inWin addr 0x01000000 0x01000000 then
    let c := 32 * ((addr - 0x01000000) / 0x00400000) + addr % 0x00400000 / 0x00020000
    if s.someWaiting c then s else s.applyShadow addr
  else s.applyShadow addr

/-! ### The configuration's writes -/

/-- REG_WRITES of the configuration image, in order, after recall (R400). -/
def State.regWrites (s : State) : State := s.each s.boot.regWrites (fun t (a, v) => t.csPost .lkp a v)

end Sys2Proof.Machine
end

