-- ==== Sys2Proof/Machine/IdOps.lean ====
section
/-! DEFINITION. The management port's datagrams (R324, R388, R415, R416), the SMBus (R389), memory scrub (R294, R295). -/
namespace Sys2Proof.Machine
open Sys2Proof

/-- ASCII letters of a magic number. -/
def ascii (a b c d : Nat) : List Byte := [a, b, c, d].map (BitVec.ofNat 8)

/-- The management port is up (R395, R401, R406). -/
def State.mgmtUp (s : State) : Bool := s.answers .mgmt .boot

/-! ### Control-space requests -/

/-- HMAC-SHA-256 (R388). -/
def hmac (key msg : List Byte) : List Byte :=
  let k := padTo 64 (if 64 < key.length then Sha.sha256 key else key)
  Sha.sha256 (k.map (· ^^^ 0x5C) ++ Sha.sha256 (k.map (· ^^^ 0x36) ++ msg))

/-- The TAG of a request or a reply (R388). -/
def State.mgmtTag (s : State) (msg : List Byte) : List Byte := (hmac s.boot.mgmt msg).take 16

/-- The format of a request (R388). -/
def requestOk (d : List Byte) : Bool :=
  let op := leAt d 4 1
  let n := leAt d 5 1
  d.take 4 = ascii 67 75 67 83 && (op = 1 || op = 2) && 1 ≤ n && n ≤ 64 && leAt d 6 1 = 0 && leAt d 7 1 = 0 &&
  leAt d 16 4 % 4 = 0 && ((d.drop 20).take 12).all (· = 0) && d.length = 48 + if op = 2 then 4 * n else 0

/-- Why a request is dropped: 1 TAG, 2 SEQ, 3 format; 0 when it is executed (R388, R391). -/
def State.requestDrop (s : State) (d : List Byte) : Nat :=
  if d.length < 48 then 3
  else if d.drop (d.length - 16) ≠ s.mgmtTag (d.take (d.length - 16)) then 1
  else if s.ports.lastSeq.any (fun q => leAt d 8 8 ≤ q) then 2
  else if !requestOk d then 3 else 0

/-- Drop a request: MGT_REQ_DROPPED at most once per second, with the count since the last (R388, R391). -/
def State.dropRequest (s : State) (cause : Nat) : State :=
  let n := s.ports.drops + 1
  if s.ports.dropRaised.any (fun t => s.time < t + 1000000000) then { s with ports := { s.ports with drops := n } }
  else ({ s with ports := { s.ports with drops := 0, dropRaised := some s.time } } : State).raise
    (evDev 0x5040 1 (cause + 2 ^ 32 * u32 n))

/-- Words read for a request up to the first unmapped one: their data, and whether all were mapped (R388, R433). -/
def State.mgmtReads (s : State) (addr : Nat) : Nat → List Byte × Bool × State
  | 0 => ([], true, s)
  | n + 1 =>
    match s.csRead .mgmt addr with
    | (none, t) => ([], false, t)
    | (some v, t) =>
      let (rest, ok, u) := t.mgmtReads (addr + 4) n
      (leBytes 4 v ++ rest, ok, u)

/-- Words written for a request up to the first unmapped one, and whether all were mapped (R388, R433). -/
def State.mgmtWrites (s : State) (addr : Nat) : List Nat → Bool × State
  | [] => (true, s)
  | v :: vs =>
    match s.csWrite .mgmt addr v with
    | (false, t) => (false, t)
    | (true, t) => t.mgmtWrites (addr + 4) vs

/-- A control-space request (R388). -/
def State.mgmtRequest (s : State) (d : List Byte) : State :=
  if !s.mgmtUp then s else
  let cause := s.requestDrop d
  if cause ≠ 0 then s.dropRequest cause
  else
    let n := leAt d 5 1
    let addr := leAt d 16 4
    let s1 : State := { s with ports := { s.ports with lastSeq := some (leAt d 8 8) } }
    let (bytes, ok, s2) :=
      if leAt d 4 1 = 1 then s1.mgmtReads addr n
      else
        let (ok, t) := s1.mgmtWrites addr ((List.range n).map (fun i => leAt d (32 + 4 * i) 4))
        ([], ok, t)
    let body := patch (d.take 32) 6 [if ok then 0 else 1] ++ bytes
    s2.send (.mgmt 47621 (body ++ s2.mgmtTag body))

/-! ### Event datagrams -/

/-- A datagram of the waiting records leaves, at most 44 of them (R324). -/
def State.eventDatagram (s : State) : State :=
  match s.ev.waiting with
  | [] => s
  | (q, _) :: _ =>
    if !s.mgmtUp || !s.rb .chkEvtCfg 0 0 then s else
    let now := s.ev.waiting.take 44
    let hdr := ascii 67 75 69 86 ++ leBytes 2 1 ++ leBytes 1 now.length ++ [0] ++ leBytes 8 q
    (({ s with ev := { s.ev with waiting := s.ev.waiting.drop 44 } } : State).send
      (.mgmt (s.rf .chkEvtCfg 0 31 16) (hdr ++ now.flatMap (fun e => e.2.bytes)))).count ctrIo 10 1

/-! ### Attestation -/

/-- A request for attestation: its OP (R415). -/
def attestOk (d : List Byte) (op : Nat) : Bool :=
  d.length = 40 && d.take 4 = ascii 67 75 65 84 && leAt d 4 1 = op && leAt d 6 2 = 0

/-- The installed models, in ascending order. -/
def State.installed (s : State) : List (Nat × Model) := s.models.filter (fun (e : Nat × Model) => decide (e.2.mst ≠ .absent))

/-- The 48 bytes of a quote for one model (R416). -/
def quoteModel (e : Nat × Model) : List Byte :=
  let m := e.2
  let img := m.issueImg.map (·.1)
  leBytes 2 e.1 ++ leBytes 1 m.mst.num ++ leBytes 1 (b2n (img.any (fun (i : Image) => i.twin))) ++ leBytes 4 (imgVersion img) ++
  padTo 32 ((img.map (fun (i : Image) => i.digest)).getD []) ++ leBytes 4 (imgVersion m.next) ++ leBytes 4 0

/-- The bytes of a quote that are signed (R416). -/
def State.quoteBytes (s : State) (first : Nat) (nonce : List Byte) : List Byte :=
  let rest := s.installed.drop first
  let now := rest.take 24
  let fw := s.boot.fw.getD {}
  let cfg := s.boot.cfg.getD {}
  ascii 67 75 65 81 ++ leBytes 2 1 ++ leBytes 1 now.length ++ leBytes 1 (b2n (decide (24 < rest.length))) ++ nonce ++
  leBytes 8 (u64 s.time) ++ leBytes 4 (s.rd .ethSrnEpoch) ++ leBytes 4 fw.version ++ leBytes 4 fw.floor ++ leBytes 4 cfg.floor ++
  padTo 32 fw.digest ++ padTo 32 cfg.digest ++ padTo 32 (s.boot.ident.owner.getD []) ++ now.flatMap quoteModel

/-- A quote request (R415, R416): at most 100 quotes are signed in a second. -/
def State.quote (s : State) (d : List Byte) : State :=
  let recent := s.ports.quotes.filter (fun t => s.time < t + 1000000000)
  if !s.mgmtUp || !attestOk d 1 || 100 ≤ recent.length then s
  else
    let body := s.quoteBytes (leAt d 5 1) (d.drop 8)
    ({ s with ports := { s.ports with quotes := s.time :: recent } } : State).send
      (.mgmt 47622 (body ++ padTo 64 (Config.deviceSign (Sha.sha256 body))))

/-- A chain request (R415). -/
def State.chainReply (s : State) (d : List Byte) : State :=
  if s.mgmtUp && attestOk d 2 then s.send (.mgmt 47622 Config.certChain) else s

/-! ### SMBus -/

/-- The highest core temperature measured, in 1/16 °C. -/
def State.hottest (s : State) : Int :=
  ((List.range 4).flatMap (fun q => (List.range 32).filterMap (s.reading q))).map tempOf |>.foldl max 0

/-- The 32 bytes of command 0x00 (R389): state, highest core temperature, input power, newest sequence number. -/
def State.smbusBytes (s : State) : List Byte :=
  leBytes 2 s.pwrState ++ leBytes 2 (enc 16 s.hottest) ++ leBytes 2 (satTo 0xFFFF (s.inputPower / 100000000)) ++
  leBytes 8 (s.ev.seq - 1) ++ List.replicate 18 0

/-- An SMBus transaction (R389): every write, and a read of any other command, is refused with a NACK. -/
def State.smbus (s : State) (op : SmbusOp) : State :=
  if s.boot.inReset then s else
  match op with
  | .blockRead cmd => s.send (.smbus (if cmd = 0 then some s.smbusBytes else none))
  | .write _ => s.send (.smbus none)

/-! ### Scrub -/

/-- The number of a memory in events (R327), and its key among the memories. -/
def ScrubMem.num : ScrubMem → Nat × Nat
  | .dram m => (m, m)
  | .sram c => (4, 16 + c)
  | .ioDie => (5, 5)
  | .lkp => (6, 6)

/-- A corrected error (R294): MEM_CORRECTED at most once per second per memory, with the count since the last. -/
def State.memCorrected (s : State) (m key : Nat) : State :=
  let n := s.memCe.get 0 key + 1
  let at_ := s.memCeAt.get 0 key
  let s1 := s.bump .chkMemCeCount 0 1
  if at_ ≠ 0 && s.time < at_ - 1 + 1000000000 then { s1 with memCe := s1.memCe.set 0 key n }
  else ({ s1 with memCe := s1.memCe.set 0 key 0, memCeAt := s1.memCeAt.set 0 key (s.time + 1) } : State).raise
    { code := 0x4002, sev := 0, locType := 6, loc := m, detail := m + 2 ^ 32 * n }

/-- One error a scrub meets (R294, R295): corrected, or the line or word is marked. One in the tender's scratch faults the tender,
one in the lockkeeper's copy of the tender code makes its next load fail (R135, R294); that copy is taken to lie from word 0 of
lockkeeper SRAM on (DESIGN CHOICE, assumption 63). -/
def State.scrubFind (s : State) (mem : ScrubMem) (f : ScrubFind) : State :=
  let (m, key) := ScrubMem.num mem
  let addr := match mem with
    | .dram _ => 64 * f.index
    | _ => f.index
  let s1 := if f.correctable then s.memCorrected m key else s.ueEvent m addr
  match mem with
  | .dram m =>
    let s2 := s1.count (ctrMem m) (if f.correctable then 4 else 5) 1
    if f.correctable || s2.poison.contains f.index then s2 else { s2 with poison := f.index :: s2.poison }
  | .sram c =>
    if f.correctable then s1.count c 43 1
    else
      let s2 := s1.modCore c (fun x => { x with poison := if x.poison.contains f.index then x.poison else f.index :: x.poison })
      if 196608 ≤ f.index then s2.tenderFault c 3 else s2
  | .lkp =>
    if !f.correctable && f.index < cdiv s.boot.tenderCode.length 8 then { s1 with boot := { s1.boot with tenderBad := true } } else s1
  | .ioDie => s1

/-- A find lies in its memory: a line of the controller's share of usable memory, a word of a core's 1.75 MiB of SRAM (R1, R114). -/
def State.scrubHas (s : State) (mem : ScrubMem) (f : ScrubFind) : Bool :=
  match mem with
  | .dram m => 64 * f.index < s.usable && decide (ctlOf (64 * f.index) = m)
  | .sram _ => f.index < 229376
  | _ => true

/-- The scrub of a memory is on (R295, R326). -/
def State.scrubOn (s : State) (mem : ScrubMem) : Bool :=
  match mem with
  | .dram _ => s.rf .chkScrubCfg 0 7 0 ≠ 0 && 0 < s.usable
  | .sram _ => s.rf .chkScrubCfg 0 15 8 ≠ 0
  | _ => true

/-- A scrub pass of a memory (R295). -/
def State.scrubPass (s : State) (mem : ScrubMem) (finds : List ScrubFind) : State :=
  if !s.scrubOn mem then s
  else
    let s1 := match mem with
      | .dram m => s.count (ctrMem m) 6 (s.usable / 256)
      | _ => s
    s1.each (finds.filter (s.scrubHas mem)) (fun t f => t.scrubFind mem f)

end Sys2Proof.Machine
end

