-- ==== Sys2Proof/Machine/ControlSpace.lean ====
section
/-! DEFINITION. The meanings of the control-space, management-port, identity and memory-check commands. -/
namespace Sys2Proof.Machine
open Sys2Proof

/-- REGISTER_WRITE (R10 to R14, R432 to R435): any access of control space, by its path. -/
def execRegisterWrite (path : Path) (addr : Word) (op : Bar0) (s : State) : Out := .next (s.access path addr.toNat op)
/-- RWS_SHADOW_APPLY_IDLE (R11). -/
def execRwsShadowApplyIdle (addr : Word) (s : State) : Out := .next (s.idleShadow addr.toNat)
/-- CONTROL_SPACE_REQUEST (R388). -/
def execControlSpaceRequest (dgram : List Byte) (s : State) : Out := .next (s.mgmtRequest dgram)
/-- RETEST_CORE (R313). -/
def execRetestCore (path : Path) (c : CoreId) (s : State) : Out := .next (s.asked path .chk (fun t => t.retestCmd path c))
/-- CORE_SELF_TEST_DONE (R313). -/
def execCoreSelfTestDone (c : CoreId) (pass : Bool) (s : State) : Out := .next (if s.alive then s.selfTestEnd c pass else s)
/-- MEM_SCRUB_PASS (R295). -/
def execMemScrubPass (mem : ScrubMem) (finds : List ScrubFind) (s : State) : Out :=
  .next (if s.alive then s.scrubPass mem finds else s)
/-- EVENT_DATAGRAM_SEND (R324). -/
def execEventDatagramSend (s : State) : Out := .next s.eventDatagram
/-- QUOTE (R415, R416). -/
def execQuote (dgram : List Byte) (s : State) : Out := .next (s.quote dgram)
/-- CHAIN (R415). -/
def execChain (dgram : List Byte) (s : State) : Out := .next (s.chainReply dgram)
/-- SMBUS_BLOCK_READ (R389). -/
def execSmbusBlockRead (op : SmbusOp) (s : State) : Out := .next (s.smbus op)
/-- RECORD_RECALL_DONE (R400, R410): the configuration's register writes follow recall. -/
def execRecordRecallDone (s : State) : Out := .next (if s.recallDue then s.recallEnd.regWrites else s)

end Sys2Proof.Machine
end

