-- ==== Sys2Proof/Machine/Counters.lean ====
section
/-! DEFINITION. The meanings of the counter, window and sample commands. -/
namespace Sys2Proof.Machine
open Sys2Proof

/-- The block whose answering an address follows (R435): counters answer with their core, port or device. -/
def addrBlk (a : Nat) : Blk :=
  match decodeAddr a with
  | .inBlock b _ _ => b
  | _ => .ctr

/-- COUNTER_LO_READ (R419): an address that holds no counter's LO word reads 0. -/
def execCounterLoRead (path : Path) (addr : Word) (s : State) : Out :=
  .next (if s.answers path .ctr then
    match decodeAddr addr.toNat with
    | .counter n false => let (v, t) := s.ctrLo path n addr.toNat; t.reply path v
    | _ => s.reply path 0
  else s.reply path 0)
/-- CTR_WIN_LAST_LO_READ (R426). -/
def execCtrWinLastLoRead (path : Path) (s : State) : Out :=
  .next (if s.answers path .win then let (v, t) := s.winLastLo path; t.reply path v else s.reply path 0)
/-- PERIODIC_SWEEP (R423): at a multiple of PERIOD_US. -/
def execPeriodicSweep (s : State) : Out :=
  .next (if s.alive && s.rf .ctrSweepCfg 0 19 0 ≠ 0 && s.time % (1000 * s.rf .ctrSweepCfg 0 19 0) = 0 then s.sweepTick else s)
/-- SWEEP_START (R423). -/
def execSweepStart (path : Path) (s : State) : Out := .next (s.asked path .ctr (fun t => t.sweepCmd path))
/-- SWEEP_DONE (R425). -/
def execSweepDone (s : State) : Out := .next (if s.alive then s.sweepEnd else s)
/-- WINDOW_END (R426): at a whole multiple of the window length. -/
def execWindowEnd (s : State) : Out :=
  .next (if s.alive && s.time % (1000 * s.rf .ctrWinCfg 0 19 0) = 0 then s.windowEnd else s)
/-- CTR_WIN_CFG_WRITE (R426). -/
def execCtrWinCfgWrite (path : Path) (v : Word) (s : State) : Out := .next (s.asked path .win (fun t => t.winCfg path v.toNat))
/-- CLEAR_PEAK (R429). -/
def execClearPeak (path : Path) (s : State) : Out := .next (s.asked path .win State.clearPeak)
/-- SMP_IDX_WRITE (R428). -/
def execSmpIdxWrite (path : Path) (c : CoreId) (v : Word) (s : State) : Out :=
  .next (s.asked path .smp (fun t => t.sampleIdx c v.toNat))

end Sys2Proof.Machine
end

