-- ==== Sys2Proof/Machine/Drain.lean ====
section
/-! DEFINITION. The meanings of the drain and tender-work commands. -/
namespace Sys2Proof.Machine
open Sys2Proof

/-- DRAIN_ACCUMULATE (R118 to R123): a residue outcome may come with it (R304). -/
def execDrainAccumulate (c : CoreId) (l : LArr) (flt : Option ResFault) (s : State) : Out :=
  .next (if s.alive then s.accumulate c l flt else s)

/-- DRAIN_ROW_COMPLETE (R124 to R132, R302). -/
def execDrainRowComplete (c p : CoreId) (pos : PosId) (idx row : Nat) (flt : Option ResFault) (s : State) : Out :=
  .next (s.rowComplete ⟨p, pos, idx⟩ c row flt)

/-- RANGE_RESOLVE (R302, R303, R311). -/
def execRangeResolve (c p : CoreId) (pos : PosId) (idx row : Nat) (s : State) : Out :=
  .next (s.rangeResolve ⟨p, pos, idx⟩ c row)

/-- EXCHANGE_SEGMENT (R185). -/
def execExchangeSegment (dst src p : CoreId) (pos : PosId) (idx row : Nat) (s : State) : Out :=
  .next (if s.alive then s.exchange ⟨p, pos, idx⟩ dst src row else s)

/-- PASS_START (R188). -/
def execPassStart (c p : CoreId) (pos : PosId) (idx : Nat) (s : State) : Out := .next (s.passStart ⟨p, pos, idx⟩ c)

/-- INGEST_BLOCK_EVALUATE (R100 to R107): a residue outcome of the tender may come with it (R137). -/
def execIngestBlockEvaluate (c p : CoreId) (pos : PosId) (idx : Nat) (blk : IngestEval) (s : State) : Out :=
  .next (s.ingestBlock ⟨p, pos, idx⟩ c blk.block blk.flt)

/-- DRN_CHAIN_DATA_LO_WRITE (R125). -/
def execDrnChainDataLoWrite (path : Path) (c : CoreId) (v : Word) (s : State) : Out :=
  .next (s.asked path .drn (fun t => t.chainLo c v.toNat))

/-- DRN_CHAIN_DATA_HI_WRITE (R125). -/
def execDrnChainDataHiWrite (path : Path) (c : CoreId) (v : Word) (s : State) : Out :=
  .next (s.asked path .drn (fun t => t.chainHi c v.toNat))

/-- DRN_NLT_DATA_ACCESS (R129, R148). -/
def execDrnNltDataAccess (path : Path) (c : CoreId) (w : Option Word) (s : State) : Out :=
  .next (match w with
    | some v => s.asked path .drn (fun t => t.nltWrite path c v.toNat)
    | none => if s.answers path .drn then (s.reply path (s.nltHere c)).nltStep c else s.reply path 0)

end Sys2Proof.Machine
end

