-- ==== Sys2Proof/Machine/Entries.lean ====
section
/-! DEFINITION. The meanings of the verbs of operation lists and of the commands that move entries on. An entry of
another verb, or one that may not issue yet, leaves the state as it is. -/
namespace Sys2Proof.Machine
open Sys2Proof

/-- A verb whose work is its problems' passes begins. -/
def State.startPasses (s : State) (r : EntryRef) : State :=
  s.startProblem r 0 (((s.run? r).map (fun e => e.probs.length)).getD 0 + 1)

/-- NOP (R163, R164): it completes at once. -/
def execNop (p : CoreId) (pos : PosId) (s : State) : Out := .next (s.issue p pos 0x00 (fun t r => t.endRun r 0 0))
/-- MATMUL (R165). -/
def execMatmul (p : CoreId) (pos : PosId) (s : State) : Out := .next (s.issue p pos 0x01 State.startPasses)
/-- DMATMUL (R167). -/
def execDmatmul (p : CoreId) (pos : PosId) (s : State) : Out := .next (s.issue p pos 0x02 State.startPasses)
/-- DYNMUL (R168, R169). -/
def execDynmul (p : CoreId) (pos : PosId) (s : State) : Out := .next (s.issue p pos 0x03 State.startPasses)
/-- ADAPT (R170); a residue outcome of the tender may come with it (R137). -/
def execAdapt (p : CoreId) (pos : AdaptAt) (s : State) : Out :=
  .next (s.issue p pos.pos 0x04 (State.startAdapt pos.flt))
/-- ADAPT_UPD (R339 to R345); a residue outcome of the tender may come with it (R137). -/
def execAdaptUpd (p : CoreId) (pos : AdaptAt) (s : State) : Out :=
  .next (s.issue p pos.pos 0x05 (State.startUpd pos.flt))
/-- INGEST (R100). -/
def execIngest (p : CoreId) (pos : PosId) (s : State) : Out := .next (s.issue p pos 0x06 State.startIngest)
/-- ELTWISE (R171). -/
def execEltwise (p : CoreId) (pos : PosId) (s : State) : Out := .next (s.issue p pos 0x07 State.startPasses)
/-- COPY_IN (R166). -/
def execCopyIn (p : CoreId) (pos : PosId) (s : State) : Out := .next (s.issue p pos 0x08 State.startCopyIn)
/-- COPY_OUT (R166). -/
def execCopyOut (p : CoreId) (pos : PosId) (s : State) : Out := .next (s.issue p pos 0x09 State.startCopyOut)
/-- FORWARD (R174). -/
def execForward (p : CoreId) (pos : PosId) (s : State) : Out := .next (s.issue p pos 0x0A State.startForward)
/-- HALO_SEND (R140). -/
def execHaloSend (p : CoreId) (pos : PosId) (s : State) : Out := .next (s.issue p pos 0x0B State.startHaloSend)
/-- HALO_WAIT (R172). -/
def execHaloWait (p : CoreId) (pos : PosId) (s : State) : Out := .next (s.issue p pos 0x0C State.startHaloWait)
/-- HALO_WAIT_TIMEOUT (R172). -/
def execHaloWaitTimeout (p : CoreId) (pos : PosId) (idx : Nat) (s : State) : Out :=
  .next (if s.alive then s.haloWaitOut ⟨p, pos, idx⟩ else s)
/-- FIELD_TEST (R315). -/
def execFieldTest (p : CoreId) (pos : PosId) (s : State) : Out := .next (s.issue p pos 0x0D State.startField)
/-- FIELD_TEST_PHASE_DONE (R315, R316). -/
def execFieldTestPhaseDone (c : CoreId) (fails : List FieldFail) (s : State) : Out := .next (s.fieldPhase c fails)
/-- SIGNAL (R173). -/
def execSignal (p : CoreId) (pos : PosId) (s : State) : Out := .next (s.issue p pos 0x0E State.startSignal)

/-- A row that waits for its adapter block goes through the chain when the block is written or marked failed
(R292). -/
def State.adapterResume (s : State) (r : EntryRef) (c row : Nat) : State :=
  match s.run? r with
  | none => s
  | some e =>
    match e.held.find? (fun h => h.core = c && h.row = row && h.ranged) with
    | some h => if e.mode = .running && e.verb ≠ 6 then s.chainRow r h else s
    | none => s

/-- ADAPTER_ADD_RESUME (R292). -/
def execAdapterAddResume (c p : CoreId) (pos : PosId) (idx row : Nat) (s : State) : Out :=
  .next (if s.alive then s.adapterResume ⟨p, pos, idx⟩ c row else s)

/-- ENTRY_COMPLETE (R178). -/
def execEntryComplete (p : CoreId) (pos : PosId) (idx : Nat) (s : State) : Out := .next (s.entryComplete p pos idx)

/-- POUND_TAKE (R214). -/
def execPoundTake (p : CoreId) (s : State) : Out := .next (s.poundTake p)

/-- SUBMIT (R372). -/
def execSubmit (peer : PeerId) (s : State) : Out := .next (if s.alive then s.submitMsg peer else s)
/-- FORWARD_REQ (R373). -/
def execForwardReq (peer : PeerId) (s : State) : Out := .next (if s.alive then s.forwardMsg peer else s)

/-- ADP_FETCH_TIMEOUT (R248). -/
def execAdpFetchTimeout (ctx : CtxId) (s : State) : Out := .next (if s.alive then s.fetchOut ctx else s)
/-- ADP_DATA (R248). -/
def execAdpData (peer : PeerId) (s : State) : Out := .next (if s.alive then s.adpData peer else s)

end Sys2Proof.Machine
end

