-- ==== Sys2Proof/Machine/Groups.lean ====
section
/-! DEFINITION. The meanings of the replica-group commands (R346 to R355). -/
namespace Sys2Proof.Machine
open Sys2Proof

/-- JOIN (R348). -/
def execJoin (path : Path) (s : State) : Out := .next (s.asked path .tal State.talJoin)
/-- LEAVE (R348). -/
def execLeave (path : Path) (s : State) : Out := .next (s.asked path .tal State.talLeave)
/-- EXPEL (R348). -/
def execExpel (path : Path) (m : Fin 8) (s : State) : Out := .next (s.asked path .tal (fun t => t.talExpel m))
/-- ROUND_CLOSE (R350). -/
def execRoundClose (s : State) : Out := .next s.roundClose
/-- TALLY (R352). -/
def execTally (peer : PeerId) (s : State) : Out := .next (if s.alive then s.tallyMsg peer else s)
/-- TALLY_TIMEOUT (R352). -/
def execTallyTimeout (s : State) : Out := .next s.tallyOut
/-- GROUP_HELLO (R348). -/
def execGroupHello (peer : PeerId) (s : State) : Out := .next (if s.alive then s.helloMsg peer else s)
/-- EXPEL_MESSAGE (R348). -/
def execExpelMessage (peer : PeerId) (s : State) : Out := .next (if s.alive then s.expelMsg peer else s)
/-- LEAVE_MESSAGE (R348). -/
def execLeaveMessage (peer : PeerId) (s : State) : Out := .next (if s.alive then s.leaveMsg peer else s)
/-- SYNC_CTX (R348). -/
def execSyncCtx (peer : PeerId) (s : State) : Out := .next (if s.alive then s.syncMsg peer else s)

end Sys2Proof.Machine
end

