-- ==== Sys2Proof/Machine/Images.lean ====
section
/-! DEFINITION. The meanings of the image, lock and adapter commands. -/
namespace Sys2Proof.Machine
open Sys2Proof

/-- RECEIVE (R231). -/
def execReceive (path : Path) (s : State) : Out := .next (s.asked path .img (fun t => t.imgWhenUp State.imgReceive))
/-- VERIFY (R228). -/
def execVerify (path : Path) (s : State) : Out := .next (s.asked path .img (fun t => t.imgWhenUp State.imgVerifyCmd))
/-- INSTALL (R234). -/
def execInstall (path : Path) (s : State) : Out := .next (s.asked path .img (fun t => t.imgWhenUp State.imgInstall))
/-- LOCK (R238). -/
def execLock (path : Path) (hold : Bool) (s : State) : Out := .next (s.asked path .img (fun t => t.imgWhenUp (fun u => u.imgLock hold)))
/-- LOAD_SET (R251). -/
def execLoadSet (path : Path) (set : Fin 16) (s : State) : Out := .next (s.asked path .img (fun t => t.imgWhenUp (fun u => u.imgLoadSet set)))
/-- RETRY (R243). -/
def execRetry (path : Path) (s : State) : Out := .next (s.asked path .img (fun t => t.imgWhenUp State.imgRetry))
/-- DISCARD (R235). -/
def execDiscard (path : Path) (s : State) : Out := .next (s.asked path .img (fun t => t.imgWhenUp State.imgDiscard))
/-- RELEASE_HOLD (R241). -/
def execReleaseHold (path : Path) (s : State) : Out := .next (s.asked path .img (fun t => t.imgWhenUp State.imgReleaseHold))
/-- RESTAGE_REF (R230). -/
def execRestageRef (path : Path) (s : State) : Out := .next (s.asked path .img (fun t => t.imgWhenUp State.imgRestage))
/-- SEND (R232). -/
def execSendImg (path : Path) (s : State) : Out := .next (s.asked path .img (fun t => t.imgWhenUp State.imgSend))

/-- LOCK_POUND_DRAINED (R238). -/
def execLockPoundDrained (model : ModelId) (p : CoreId) (s : State) : Out :=
  .next (if s.alive then s.poundDrained model p else s)

/-- OPENING_CALIBRATION_DONE (R263). -/
def execOpeningCalibrationDone (c : CoreId) (sl : SlotId) (m : CalCodes) (s : State) : Out :=
  .next (if s.alive then s.openingDone c sl m else s)

/-- IMG_SEGMENT (R231). -/
def execImgSegment (peer : PeerId) (s : State) : Out := .next (if s.alive then s.imgSegment peer else s)

end Sys2Proof.Machine
end

