-- ==== Sys2Proof/Machine/Network.lean ====
section
/-! DEFINITION. The meanings of the Ethernet, Sirin, PCIe, time-base and JTAG commands. -/
namespace Sys2Proof.Machine
open Sys2Proof

/-! ### Ethernet -/

/-- RX_FRAME (R360, R361): only on a port that is up; the codewords that FEC corrected or lost since the frame before count first. -/
def execRxFrame (port : PortId) (frame : RxFrame) (s : State) : Out :=
  .next (if s.alive && s.linkUp port then (s.fecCount port frame.fixed frame.lost).rxFrame port frame.bytes else s)
/-- ETH_LINK_UP (R361). -/
def execEthLinkUp (port : PortId) (s : State) : Out := .next (if s.alive then s.portUp port else s)
/-- ETH_LINK_DOWN (R361). -/
def execEthLinkDown (port : PortId) (s : State) : Out := .next (if s.alive then s.portDown port else s)

/-! ### Sirin -/

/-- The next control packet of a type, acted on (R366 to R370). -/
def State.onCtl (s : State) (i typ : Nat) (f : State → Ctl → State) : State :=
  if !s.alive then s else
  match s.takeCtl i typ with
  | (some k, t) => if t.srnUsable i then f t k else t
  | (none, _) => s

/-- OPEN (R370). -/
def execOpenMsg (peer : PeerId) (s : State) : Out := .next (s.onCtl peer 1 (fun t k => (t.gotOpen peer k.epoch).adpSettle))
/-- OPEN_ACK (R370). -/
def execOpenAck (peer : PeerId) (s : State) : Out := .next (s.onCtl peer 2 (fun t k => t.gotOpenAck peer k.epoch))
/-- ACK (R368). -/
def execAckMsg (peer : PeerId) (s : State) : Out :=
  .next (s.onCtl peer 3 (fun t k => if (t.peer peer).st = .open_ then t.gotAck peer k.ch k.ack k.sack k.window else t))
/-- CLOSE (R370). -/
def execCloseMsg (peer : PeerId) (s : State) : Out := .next (s.onCtl peer 4 (fun t _ => (t.closePeer peer).adpSettle))

/-- REFUSE (R375). -/
def execRefuse (peer : PeerId) (s : State) : Out :=
  .next (match s.nextMsg peer 0x13 with
    | some (ch, m) =>
      if s.alive then (s.tookMsg peer ch).raise
        (evPeer 0x5014 1 peer (leAt m.payload 0 1 + 256 * leAt m.payload 1 1 + 65536 * peer.val + 2 ^ 32 * leAt m.payload 4 4))
      else s
    | none => s)

/-- SIRIN_ACK_TIMER (R368): on each channel that has owed an acknowledgement for 5 µs. -/
def execSirinAckTimer (peer : PeerId) (s : State) : Out :=
  .next (if s.alive && (s.peer peer).st = .open_ then s.each [0, 1] (fun t ch =>
      if 0 < ((t.peer peer).chan ch).owed && ((t.peer peer).chan ch).owedAt + 5000 ≤ t.time then t.sirinCtl peer ch 3 else t) else s)
/-- SIRIN_RETX_TIMEOUT (R369): the oldest packet whose timeout has passed. -/
def execSirinRetxTimeout (peer : PeerId) (ch : Fin 2) (s : State) : Out :=
  .next (if s.alive && ((s.peer peer).chan ch).out.any (fun o => o.sentAt + o.timeout ≤ s.time) then (s.retxTimeout peer ch).adpSettle else s)
/-- SIRIN_OPEN_RETRY (R370): 1 ms after the last OPEN while OPENING, 10 ms while UNREACHABLE. -/
def execSirinOpenRetry (peer : PeerId) (s : State) : Out :=
  .next (if s.alive && s.srnUsable peer && s.openDue peer then
    (s.modPeer peer (fun y => { y with openSent := s.time })).sirinCtl peer 0 1 else s)
/-- SIRIN_OPEN_TIMEOUT (R370): 100 ms without an answer. -/
def execSirinOpenTimeout (peer : PeerId) (s : State) : Out :=
  .next (if s.alive && (s.peer peer).st = .opening && (s.peer peer).since + 100000000 ≤ s.time then
    (s.unreachable peer false).adpSettle else s)

/-- RELOAD (R362). -/
def execReload (path : Path) (s : State) : Out := .next (s.asked path .srn (fun t => t.srnReload path))
/-- OPEN_COMMAND (R370). -/
def execOpenCommand (path : Path) (peer : PeerId) (s : State) : Out := .next (s.asked path .srn (fun t => t.srnOpen peer))
/-- CLOSE_COMMAND (R370). -/
def execCloseCommand (path : Path) (peer : PeerId) (s : State) : Out := .next (s.asked path .srn (fun t => (t.srnClose peer).adpSettle))

/-! ### Time base and PCIe -/

/-- PTP_SYNC (R379). -/
def execPtpSync (offset : Int) (port : PortId) (s : State) : Out := .next (if s.alive then s.ptpSync offset port else s)
/-- PTP_SYNC_TIMEOUT (R379). -/
def execPtpSyncTimeout (s : State) : Out := .next (if s.alive then s.ptpSilent else s)
/-- TBS_CFG_WRITE (R378). -/
def execTbsCfgWrite (path : Path) (v : Word) (s : State) : Out := .next (s.asked path .tbs (fun t => t.tbsCfg path v.toNat))
/-- TB_UNLOCKED (R70). -/
def execTbUnlocked (s : State) : Out := .next (if s.boot.inReset then s else s.tbLost)
/-- TB_LOCKED (R418). -/
def execTbLocked (s : State) : Out := .next (if s.boot.inReset then s else s.tbBack)
/-- TBS_TIME_LO_READ (R434): the low word of the time, the high word latched for the path. -/
def execTbsTimeLoRead (path : Path) (s : State) : Out :=
  .next (if s.answers path .tbs then (s.latch path (Reg.tbsTimeHi.addr 0 0) (u64 s.time / 2 ^ 32)).reply path (u32 s.time)
    else s.reply path 0)
/-- PCI_LINK_DOWN (R382, R391): 0 link down, 1 hot reset, 2 function level reset; the event names them 1, 2 and 3. -/
def execPciLinkDown (cause : Fin 3) (s : State) : Out := .next (if s.boot.inReset then s else s.pciDown (cause.val + 1))
/-- PCI_LINK_UP (R382): in the generations and widths of R358, once start-up has reached the ports (R395). -/
def execPciLinkUp (gen : Fin 6) (width : Fin 16) (s : State) : Out :=
  .next (if s.boot.inReset || gen.val < 3 || !(List.contains [1, 2, 4, 8] width.val) then s else s.pciUp gen width)
/-- BAR2_ACCESS (R381). -/
def execBar2Access (off : Nat) (op : MemOp) (s : State) : Out :=
  .next (if s.alive && s.pcieUp then s.bar2 off op else s)

/-! ### JTAG -/

/-- BYPASS (R389). -/
def execBypass (s : State) : Out := .next (s.tapLoad .bypass false)
/-- IDCODE (R389): the identification code is shifted out. -/
def execIdcode (s : State) : Out := .next ((s.tapLoad .idcode false).send (.jtag (bitsOf 32 idcode)))
/-- SAMPLE/PRELOAD (R389): the boundary register samples the pins and holds what is shifted in. -/
def execSamplePreload (bits : List Bool) (s : State) : Out :=
  let s1 := s.tapLoad .sample false
  let s2 := s1.send (.jtag s1.ports.boundary)
  .next { s2 with ports := { s2.ports with boundary := bits } }
/-- EXTEST (R389). -/
def execExtest (s : State) : Out := .next (s.tapLoad .extest true)
/-- CLAMP (R389). -/
def execClamp (s : State) : Out := .next (s.tapLoad .clamp true)
/-- HIGHZ (R389). -/
def execHighz (s : State) : Out := .next (s.tapLoad .highz true)
/-- EXTEST_PULSE (R389). -/
def execExtestPulse (s : State) : Out := .next (s.tapLoad .extestPulse true)
/-- EXTEST_TRAIN (R389). -/
def execExtestTrain (s : State) : Out := .next (s.tapLoad .extestTrain true)

end Sys2Proof.Machine
end

