-- ==== Sys2Proof/Machine/Power.lean ====
section
/-! DEFINITION. The meanings of the start-up, identity-store and power commands. -/
namespace Sys2Proof.Machine
open Sys2Proof

/-- RESET_RELEASE (R395). -/
def execResetRelease (s : State) : Out := .next s.resetOff
/-- RESET_ASSERTED (R389, R392). -/
def execResetAsserted (s : State) : Out := .next s.resetOn
/-- BOOT_CONTAINER_VERIFY (R398). -/
def execBootContainerVerify (cfg bankB : Bool) (s : State) : Out := .next (s.bootVerify cfg bankB)
/-- MEM_TRAINING_DONE (R383). -/
def execMemTrainingDone (m : Fin 4) (ok : Bool) (rate : Fin 4) (raw : Fin 16) (typ : Bool) (s : State) : Out :=
  .next (s.memTrained m ok rate raw typ)
/-- STARTUP_MARGIN_CHECK (R56). -/
def execStartupMarginCheck (c : CoreId) (sl : SlotId) (weak : Nat) (s : State) : Out := .next (s.marginCheck (arrId c sl) weak)
/-- STARTUP_CALIBRATION (R262). -/
def execStartupCalibration (c : CoreId) (sl : SlotId) (m : CalCodes) (s : State) : Out := .next (s.startCalEnd (arrId c sl) m)
/-- DEVICE_READY (R396): every enabled port is up. -/
def execDeviceReady (s : State) : Out := .next (if s.startDone && s.downPorts.isEmpty then s.nowReady else s)
/-- DEVICE_READY_TIMEOUT (R396): 3,000 ms after reset release. -/
def execDeviceReadyTimeout (s : State) : Out := .next (if s.startDone && 3000000000 ≤ s.time then s.nowReady else s)
/-- BOOT_COMMIT (R402). -/
def execBootCommit (path : Path) (s : State) : Out := .next (s.asked path .boot State.commit)
/-- IDLE (R403). -/
def execIdle (path : Path) (s : State) : Out := .next (s.asked path .pwr (fun t => t.goIdle path))
/-- WAKE (R403). -/
def execWake (path : Path) (s : State) : Out := .next (s.asked path .pwr (fun t => t.goWake path))
/-- WAKE_CALIBRATION (R403). -/
def execWakeCalibration (ms : List (Nat × CalCodes)) (s : State) : Out := .next (s.wakeCal ms)

/-- Every temperature lies below T_CRIT − 10 °C (R403). -/
def State.coolEnough (s : State) : Bool :=
  (List.range 5).all (fun m => (List.range (monChannels m)).all (fun ch =>
    !isTemp m ch || ((s.reading m ch).map tempOf).all (fun x => decide (x < 16 * ((s.rf .pwrCfg 0 15 8 : Nat) - 10 : Int)))))

/-- HALT_RECOVERY (R403): every temperature has been low for 100 ms. -/
def execHaltRecovery (s : State) : Out :=
  .next (if !s.boot.inReset && s.coolEnough && s.pwr.hotAt + 100000000 ≤ s.time then s.haltEnd else s)
/-- THROTTLE_LEVEL_TICK (R404). -/
def execThrottleLevelTick (power : Bool) (s : State) : Out :=
  .next (if s.alive then if power then s.powerTick else s.thermalTick else s)
/-- POWER_FAIL (R403, R406): PWR_FAIL_N asserted. A PFAIL comparator acts at its conversion. -/
def execPowerFail (s : State) : Out := .next s.pinPowerFail
/-- HOLDUP_EXHAUSTED (R407). -/
def execHoldupExhausted (s : State) : Out := .next s.holdupOut
/-- POWER_RESTORE (R403). -/
def execPowerRestore (s : State) : Out := .next s.powerBack

end Sys2Proof.Machine
end

