-- ==== Sys2Proof/Machine/Queues.lean ====
section
/-! DEFINITION. The meanings of the queue, stream and adapter commands. -/
namespace Sys2Proof.Machine
open Sys2Proof

/-- QUE_DB_SQ_TAIL_WRITE (R202). -/
def execQueDbSqTailWrite (path : Path) (q : QId) (v : Word) (s : State) : Out :=
  .next (s.asked path .db (fun t => t.sqTailWrite path q v.toNat))
/-- QUE_DB_CQ_HEAD_WRITE (R202). -/
def execQueDbCqHeadWrite (path : Path) (q : QId) (v : Word) (s : State) : Out :=
  .next (s.asked path .db (fun t => t.cqHeadWrite path q v.toNat))
/-- SUBMISSION_READ (R213). -/
def execSubmissionRead (s : State) : Out := .next (if s.alive then s.submissionRead else s)
/-- QUEUE_STALL_RESUME (R205). -/
def execQueueStallResume (q : QId) (s : State) : Out := .next (if s.alive then s.queResume q else s)
/-- CREATE (R206). -/
def execCreate (path : Path) (q : QId) (s : State) : Out := .next (s.asked path .que (fun t => t.queWhenUp q (fun u => u.queCreate q)))
/-- QUEUE_RESET (R207). -/
def execQueueReset (path : Path) (q : QId) (s : State) : Out := .next (s.asked path .que (fun t => t.queWhenUp q (fun u => u.queDrain q false)))
/-- DESTROY (R207). -/
def execDestroy (path : Path) (q : QId) (s : State) : Out := .next (s.asked path .que (fun t => t.queWhenUp q (fun u => u.queDrain q true)))
/-- QUEUE_DRAIN_DONE (R206). -/
def execQueueDrainDone (q : QId) (s : State) : Out := .next (if s.alive then s.queDrained q else s)
/-- BIND (R209). -/
def execBindCtx (path : Path) (s : State) : Out := .next (s.asked path .stm (fun t => t.stmWhenUp 0 State.bind_))
/-- LOOKUP (R210). -/
def execLookup (path : Path) (s : State) : Out := .next (s.asked path .stm (fun t => t.stmWhenUp 0 State.lookup))
/-- RETIRE (R209). -/
def execRetire (path : Path) (ctx : CtxId) (reason : Fin 4) (s : State) : Out :=
  .next (s.asked path .stm (fun t => t.stmWhenUp ctx (fun u => u.retire ctx reason)))
/-- STREAM_RETIRE_COMPLETE (R209). -/
def execStreamRetireComplete (ctx : CtxId) (s : State) : Out := .next (if s.alive then s.retired ctx else s)
/-- STREAM_RELEASE (R209). -/
def execStreamRelease (path : Path) (ctx : CtxId) (s : State) : Out := .next (s.asked path .stm (fun t => t.stmWhenUp ctx (fun u => u.releaseCtx ctx)))
/-- ADP_WRITE_ACK (R249). -/
def execAdpWriteAck (peer : PeerId) (s : State) : Out := .next (if s.alive then (s.adpAck peer).adpSettle else s)
/-- ADP_USE_DECAY (R249): DECAY = 0 halves nothing. -/
def execAdpUseDecay (s : State) : Out := .next (if s.alive then s.adpDecay else s)
/-- ROLLBACK (R320). -/
def execRollback (path : Path) (ctx : CtxId) (s : State) : Out :=
  .next (s.asked path .chk (fun t => t.rollbackCmd path ctx))

end Sys2Proof.Machine
end

