-- ==== Sys2Proof/Machine/Records.lean ====
section
/-! DEFINITION. The meanings of the record-store commands. -/
namespace Sys2Proof.Machine
open Sys2Proof

/-- STORE (R411). -/
def execStore (path : Path) (s : State) : Out := .next (s.asked path .recs (fun t => t.storeCmd path))
/-- REC_AUTO_STORE (R411): AUTO_S = 0 turns it off, and with no dirty page there is nothing to store. -/
def execRecAutoStore (s : State) : Out :=
  .next (if s.alive && !s.recs.busy && s.rf .recCfg 0 15 0 ≠ 0 && !s.recs.dirtyPages.isEmpty then s.storeBegin true else s)
/-- REC_STORE_DONE (R411, R413). -/
def execRecStoreDone (bad : List Nat) (s : State) : Out := .next (if s.alive then s.storeEnd bad else s)
/-- REC_MARGIN_READ (R412). -/
def execRecMarginRead (weak : List Nat) (s : State) : Out := .next (if s.alive then s.recMargin weak else s)
/-- UNLOCK_READ (R414). -/
def execUnlockRead (path : Path) (s : State) : Out := .next (s.asked path .recs (fun t => t.unlock path false))
/-- UNLOCK_WRITE (R414). -/
def execUnlockWrite (path : Path) (s : State) : Out := .next (s.asked path .recs (fun t => t.unlock path true))
/-- RELOCK (R414). -/
def execRelock (path : Path) (s : State) : Out := .next (s.asked path .recs (fun t => t.relockRec path))
/-- SET_READ_PW (R414). -/
def execSetReadPw (path : Path) (s : State) : Out := .next (s.asked path .recs (fun t => t.setPw path false))
/-- SET_WRITE_PW (R414). -/
def execSetWritePw (path : Path) (s : State) : Out := .next (s.asked path .recs (fun t => t.setPw path true))
/-- REC_DATA_ACCESS (R414). -/
def execRecDataAccess (path : Path) (w : Option Word) (s : State) : Out :=
  .next (match w with
    | some v => s.asked path .recs (fun t => t.recWrite path v.toNat)
    | none => if s.answers path .recs then let (v, t) := s.recRead path; t.reply path v else s.reply path 0)

end Sys2Proof.Machine
end

