-- ==== Sys2Proof/Machine/Tenders.lean ====
section
/-! DEFINITION. The meanings of the tender, halo-link and spare-slot commands. -/
namespace Sys2Proof.Machine
open Sys2Proof

/-- TENDER_RESTART (R135). -/
def execTenderRestart (path : Path) (c : CoreId) (s : State) : Out := .next (s.asked path .tnd (fun t => t.tenderRestart path c))

/-- TENDER_LOAD_DONE (R135). -/
def execTenderLoadDone (c : CoreId) (s : State) : Out := .next (if s.alive then s.tenderLoaded c else s)

/-- TENDER_WDOG_TIMEOUT (R135): a TIMEOUT of 0 turns the watchdog off. -/
def execTenderWdogTimeout (c : CoreId) (s : State) : Out :=
  .next (if s.works && s.rf .tndWdogCfg c 15 0 ≠ 0 then s.tenderFault c 1 else s)

/-- TENDER_FW_FAULT (R135): a firmware fault, or an uncorrectable error in the scratch. -/
def execTenderFwFault (c : CoreId) (scratch : Bool) (s : State) : Out :=
  .next (if s.works then s.tenderFault c (if scratch then 3 else 2) else s)

/-- TENDER_HEARTBEAT_TICK (R148). -/
def execTenderHeartbeatTick (c : CoreId) (s : State) : Out :=
  .next (if s.works && (s.core c).tnd = .running then s.modCore c (fun x => { x with tndBeat := x.tndBeat + 1 }) else s)

/-- TENDER_YIELD (R215). -/
def execTenderYield (c : CoreId) (s : State) : Out := .next (if s.alive then s.tenderYield c else s)

/-- HALO_TRANSFER (R140, R141). -/
def execHaloTransfer (c : CoreId) (right : Bool) (s : State) : Out := .next (s.haloArrive c right)

/-- HALO_TIMEOUT (R142). -/
def execHaloTimeout (c : CoreId) (right : Bool) (s : State) : Out := .next (s.haloAbandon c right)

/-- SPARE_COMMIT (R145). -/
def execSpareCommit (path : Path) (c : CoreId) (s : State) : Out :=
  .next (s.asked path .cor (fun t => t.spareCmd path c true false))

/-- SPARE_SUBSTITUTION_EFFECT (R146). -/
def execSpareSubstitutionEffect (c : CoreId) (s : State) : Out := .next (if s.alive then s.spareEffect c else s)

/-- SPARE_RELEASE (R147). -/
def execSpareRelease (path : Path) (c : CoreId) (s : State) : Out :=
  .next (s.asked path .cor (fun t => t.spareCmd path c false true))

end Sys2Proof.Machine
end

