-- ==== Sys2Proof/Machine/Waves.lean ====
section
/-! DEFINITION. The meanings of the wave-engine and check-unit commands. -/
namespace Sys2Proof.Machine
open Sys2Proof

/-- WAVE_SLOT (R62, R63, R77, R80, R215, R306). -/
def execWaveSlot (c : CoreId) (s : State) : Out := .next (s.waveSlot c)

/-- GRID_POINT_WAIT_END (R77): at a grid point the wait ends, and the next slot starts its group there; between grid points
the engine goes on waiting. -/
def execGridPointWaitEnd (c : CoreId) (s : State) : Out :=
  .next (if s.alive && (s.core c).gridWait && decide (s.time % 200 = 0) then s.modCore c (fun x => { x with gridWait := false }) else s)

/-- WAVE_CONVERSION_DONE (R71 to R75, R78 to R83). -/
def execWaveConversionDone (c : CoreId) (sl : SlotId) (s : State) : Out := .next (if s.alive then s.conversion c sl else s)

/-- CP_VERDICT (R296 to R299, R309). -/
def execCpVerdict (c : CoreId) (sl : SlotId) (s : State) : Out := .next (if s.alive then s.cpJudge c sl else s)

/-- REPLAY_VERDICT (R307). -/
def execReplayVerdict (c : CoreId) (s : State) : Out := .next (if s.alive then s.replayJudge c else s)

/-- ROTATION_ADVANCE (R305). -/
def execRotationAdvance (c : CoreId) (s : State) : Out := .next (s.rotateTick c)

end Sys2Proof.Machine
end

