-- ==== Sys2Proof/Machine/Dispatch.lean ====
section
/-! DEFINITION. One arm per command of the opcode table, each a direct call of its meaning. -/
namespace Sys2Proof.Machine

/-- The effect of a command on everything but the queue. -/
def exec (i : Instr) (s : State) : Host.Outcome State Fault Refusal :=
  match i with
  | .registerWrite path addr op => Sys2Proof.Machine.execRegisterWrite path addr op s
  | .rwsShadowApplyIdle addr => Sys2Proof.Machine.execRwsShadowApplyIdle addr s
  | .counterLoRead path addr => Sys2Proof.Machine.execCounterLoRead path addr s
  | .tbsTimeLoRead path => Sys2Proof.Machine.execTbsTimeLoRead path s
  | .ctrWinLastLoRead path => Sys2Proof.Machine.execCtrWinLastLoRead path s
  | .controlSpaceRequest dgram => Sys2Proof.Machine.execControlSpaceRequest dgram s
  | .bar2Access off op => Sys2Proof.Machine.execBar2Access off op s
  | .arrPgmGo path c sl => Sys2Proof.Machine.execArrPgmGo path c sl s
  | .arrPgmAbort path c sl => Sys2Proof.Machine.execArrPgmAbort path c sl s
  | .pgmQueuedJobStart => Sys2Proof.Machine.execPgmQueuedJobStart s
  | .planeCheckDone c sl => Sys2Proof.Machine.execPlaneCheckDone c sl s
  | .pgmBatchDone c sl stuck => Sys2Proof.Machine.execPgmBatchDone c sl stuck s
  | .repairBatchDone c sl stuck => Sys2Proof.Machine.execRepairBatchDone c sl stuck s
  | .arrMapWrite path c sl col n v => Sys2Proof.Machine.execArrMapWrite path c sl col n v s
  | .arrTrimDataAccess path c sl w => Sys2Proof.Machine.execArrTrimDataAccess path c sl w s
  | .arrTrimSwap path c sl => Sys2Proof.Machine.execArrTrimSwap path c sl s
  | .arrTrimCopy path c sl swap => Sys2Proof.Machine.execArrTrimCopy path c sl swap s
  | .trimSwapTakeEffect c sl => Sys2Proof.Machine.execTrimSwapTakeEffect c sl s
  | .scanBatch c sl weak => Sys2Proof.Machine.execScanBatch c sl weak s
  | .refreshBatch c sl => Sys2Proof.Machine.execRefreshBatch c sl s
  | .refreshDeferredTimeout c sl => Sys2Proof.Machine.execRefreshDeferredTimeout c sl s
  | .waveSlot c => Sys2Proof.Machine.execWaveSlot c s
  | .gridPointWaitEnd c => Sys2Proof.Machine.execGridPointWaitEnd c s
  | .waveConversionDone c sl => Sys2Proof.Machine.execWaveConversionDone c sl s
  | .cpVerdict c sl => Sys2Proof.Machine.execCpVerdict c sl s
  | .replayVerdict c => Sys2Proof.Machine.execReplayVerdict c s
  | .rotationAdvance c => Sys2Proof.Machine.execRotationAdvance c s
  | .drainAccumulate c l flt => Sys2Proof.Machine.execDrainAccumulate c l flt s
  | .drainRowComplete c p pos idx row flt => Sys2Proof.Machine.execDrainRowComplete c p pos idx row flt s
  | .rangeResolve c p pos idx row => Sys2Proof.Machine.execRangeResolve c p pos idx row s
  | .exchangeSegment dst src p pos idx row => Sys2Proof.Machine.execExchangeSegment dst src p pos idx row s
  | .passStart c p pos idx => Sys2Proof.Machine.execPassStart c p pos idx s
  | .ingestBlockEvaluate c p pos idx blk => Sys2Proof.Machine.execIngestBlockEvaluate c p pos idx blk s
  | .drnChainDataLoWrite path c v => Sys2Proof.Machine.execDrnChainDataLoWrite path c v s
  | .drnChainDataHiWrite path c v => Sys2Proof.Machine.execDrnChainDataHiWrite path c v s
  | .drnNltDataAccess path c w => Sys2Proof.Machine.execDrnNltDataAccess path c w s
  | .tenderRestart path c => Sys2Proof.Machine.execTenderRestart path c s
  | .tenderLoadDone c => Sys2Proof.Machine.execTenderLoadDone c s
  | .tenderWdogTimeout c => Sys2Proof.Machine.execTenderWdogTimeout c s
  | .tenderFwFault c scratch => Sys2Proof.Machine.execTenderFwFault c scratch s
  | .tenderHeartbeatTick c => Sys2Proof.Machine.execTenderHeartbeatTick c s
  | .tenderYield c => Sys2Proof.Machine.execTenderYield c s
  | .haloTransfer c right => Sys2Proof.Machine.execHaloTransfer c right s
  | .haloTimeout c right => Sys2Proof.Machine.execHaloTimeout c right s
  | .spareCommit path c => Sys2Proof.Machine.execSpareCommit path c s
  | .spareSubstitutionEffect c => Sys2Proof.Machine.execSpareSubstitutionEffect c s
  | .spareRelease path c => Sys2Proof.Machine.execSpareRelease path c s
  | .nop p pos => Sys2Proof.Machine.execNop p pos s
  | .matmul p pos => Sys2Proof.Machine.execMatmul p pos s
  | .dmatmul p pos => Sys2Proof.Machine.execDmatmul p pos s
  | .dynmul p pos => Sys2Proof.Machine.execDynmul p pos s
  | .adapt p pos => Sys2Proof.Machine.execAdapt p pos s
  | .adaptUpd p pos => Sys2Proof.Machine.execAdaptUpd p pos s
  | .ingest p pos => Sys2Proof.Machine.execIngest p pos s
  | .eltwise p pos => Sys2Proof.Machine.execEltwise p pos s
  | .copyIn p pos => Sys2Proof.Machine.execCopyIn p pos s
  | .copyOut p pos => Sys2Proof.Machine.execCopyOut p pos s
  | .forward p pos => Sys2Proof.Machine.execForward p pos s
  | .haloSend p pos => Sys2Proof.Machine.execHaloSend p pos s
  | .haloWait p pos => Sys2Proof.Machine.execHaloWait p pos s
  | .haloWaitTimeout p pos idx => Sys2Proof.Machine.execHaloWaitTimeout p pos idx s
  | .fieldTest p pos => Sys2Proof.Machine.execFieldTest p pos s
  | .fieldTestPhaseDone c fails => Sys2Proof.Machine.execFieldTestPhaseDone c fails s
  | .signal p pos => Sys2Proof.Machine.execSignal p pos s
  | .adapterAddResume c p pos idx row => Sys2Proof.Machine.execAdapterAddResume c p pos idx row s
  | .entryComplete p pos idx => Sys2Proof.Machine.execEntryComplete p pos idx s
  | .queDbSqTailWrite path q v => Sys2Proof.Machine.execQueDbSqTailWrite path q v s
  | .queDbCqHeadWrite path q v => Sys2Proof.Machine.execQueDbCqHeadWrite path q v s
  | .submissionRead => Sys2Proof.Machine.execSubmissionRead s
  | .poundTake p => Sys2Proof.Machine.execPoundTake p s
  | .queueStallResume q => Sys2Proof.Machine.execQueueStallResume q s
  | .create path q => Sys2Proof.Machine.execCreate path q s
  | .queueReset path q => Sys2Proof.Machine.execQueueReset path q s
  | .destroy path q => Sys2Proof.Machine.execDestroy path q s
  | .queueDrainDone q => Sys2Proof.Machine.execQueueDrainDone q s
  | .bindCtx path => Sys2Proof.Machine.execBindCtx path s
  | .lookup path => Sys2Proof.Machine.execLookup path s
  | .retire path ctx reason => Sys2Proof.Machine.execRetire path ctx reason s
  | .streamRetireComplete ctx => Sys2Proof.Machine.execStreamRetireComplete ctx s
  | .streamRelease path ctx => Sys2Proof.Machine.execStreamRelease path ctx s
  | .receive path => Sys2Proof.Machine.execReceive path s
  | .verify path => Sys2Proof.Machine.execVerify path s
  | .install path => Sys2Proof.Machine.execInstall path s
  | .lock path hold => Sys2Proof.Machine.execLock path hold s
  | .loadSet path set => Sys2Proof.Machine.execLoadSet path set s
  | .retry path => Sys2Proof.Machine.execRetry path s
  | .discard path => Sys2Proof.Machine.execDiscard path s
  | .releaseHold path => Sys2Proof.Machine.execReleaseHold path s
  | .restageRef path => Sys2Proof.Machine.execRestageRef path s
  | .sendImg path => Sys2Proof.Machine.execSendImg path s
  | .lockPoundDrained model p => Sys2Proof.Machine.execLockPoundDrained model p s
  | .openingCalibrationDone c sl m => Sys2Proof.Machine.execOpeningCalibrationDone c sl m s
  | .adpFetchTimeout ctx => Sys2Proof.Machine.execAdpFetchTimeout ctx s
  | .adpData peer => Sys2Proof.Machine.execAdpData peer s
  | .adpWriteAck peer => Sys2Proof.Machine.execAdpWriteAck peer s
  | .adpUseDecay => Sys2Proof.Machine.execAdpUseDecay s
  | .gainTemperatureUpdate c => Sys2Proof.Machine.execGainTemperatureUpdate c s
  | .driftTrackingSession c sl refs => Sys2Proof.Machine.execDriftTrackingSession c sl refs s
  | .calWindowClose c set => Sys2Proof.Machine.execCalWindowClose c set s
  | .calWindowTimeout c set => Sys2Proof.Machine.execCalWindowTimeout c set s
  | .calSwitchSlot c set => Sys2Proof.Machine.execCalSwitchSlot c set s
  | .calRampStep c set => Sys2Proof.Machine.execCalRampStep c set s
  | .calOpen path c sl => Sys2Proof.Machine.execCalOpen path c sl s
  | .calRestart path c => Sys2Proof.Machine.execCalRestart path c s
  | .corCalGainDataRead path c => Sys2Proof.Machine.execCorCalGainDataRead path c s
  | .monStart path mc ch => Sys2Proof.Machine.execMonStart path mc ch s
  | .monConversionDone mc code => Sys2Proof.Machine.execMonConversionDone mc code s
  | .monModeWrite path mc v => Sys2Proof.Machine.execMonModeWrite path mc v s
  | .monFallbackTimeout mc => Sys2Proof.Machine.execMonFallbackTimeout mc s
  | .monTrigger mc => Sys2Proof.Machine.execMonTrigger mc s
  | .monStale c => Sys2Proof.Machine.execMonStale c s
  | .rollback path ctx => Sys2Proof.Machine.execRollback path ctx s
  | .retestCore path c => Sys2Proof.Machine.execRetestCore path c s
  | .coreSelfTestDone c pass => Sys2Proof.Machine.execCoreSelfTestDone c pass s
  | .memScrubPass mem finds => Sys2Proof.Machine.execMemScrubPass mem finds s
  | .eventDatagramSend => Sys2Proof.Machine.execEventDatagramSend s
  | .join path => Sys2Proof.Machine.execJoin path s
  | .leave path => Sys2Proof.Machine.execLeave path s
  | .expel path m => Sys2Proof.Machine.execExpel path m s
  | .roundClose => Sys2Proof.Machine.execRoundClose s
  | .tally peer => Sys2Proof.Machine.execTally peer s
  | .tallyTimeout => Sys2Proof.Machine.execTallyTimeout s
  | .groupHello peer => Sys2Proof.Machine.execGroupHello peer s
  | .expelMessage peer => Sys2Proof.Machine.execExpelMessage peer s
  | .leaveMessage peer => Sys2Proof.Machine.execLeaveMessage peer s
  | .syncCtx peer => Sys2Proof.Machine.execSyncCtx peer s
  | .rxFrame port frame => Sys2Proof.Machine.execRxFrame port frame s
  | .ethLinkUp port => Sys2Proof.Machine.execEthLinkUp port s
  | .ethLinkDown port => Sys2Proof.Machine.execEthLinkDown port s
  | .openMsg peer => Sys2Proof.Machine.execOpenMsg peer s
  | .openAck peer => Sys2Proof.Machine.execOpenAck peer s
  | .ackMsg peer => Sys2Proof.Machine.execAckMsg peer s
  | .closeMsg peer => Sys2Proof.Machine.execCloseMsg peer s
  | .submit peer => Sys2Proof.Machine.execSubmit peer s
  | .forwardReq peer => Sys2Proof.Machine.execForwardReq peer s
  | .refuse peer => Sys2Proof.Machine.execRefuse peer s
  | .imgSegment peer => Sys2Proof.Machine.execImgSegment peer s
  | .sirinAckTimer peer => Sys2Proof.Machine.execSirinAckTimer peer s
  | .sirinRetxTimeout peer ch => Sys2Proof.Machine.execSirinRetxTimeout peer ch s
  | .sirinOpenRetry peer => Sys2Proof.Machine.execSirinOpenRetry peer s
  | .sirinOpenTimeout peer => Sys2Proof.Machine.execSirinOpenTimeout peer s
  | .reload path => Sys2Proof.Machine.execReload path s
  | .openCommand path peer => Sys2Proof.Machine.execOpenCommand path peer s
  | .closeCommand path peer => Sys2Proof.Machine.execCloseCommand path peer s
  | .ptpSync offset port => Sys2Proof.Machine.execPtpSync offset port s
  | .ptpSyncTimeout => Sys2Proof.Machine.execPtpSyncTimeout s
  | .tbsCfgWrite path v => Sys2Proof.Machine.execTbsCfgWrite path v s
  | .tbUnlocked => Sys2Proof.Machine.execTbUnlocked s
  | .tbLocked => Sys2Proof.Machine.execTbLocked s
  | .pciLinkDown cause => Sys2Proof.Machine.execPciLinkDown cause s
  | .pciLinkUp gen width => Sys2Proof.Machine.execPciLinkUp gen width s
  | .quote dgram => Sys2Proof.Machine.execQuote dgram s
  | .chain dgram => Sys2Proof.Machine.execChain dgram s
  | .smbusBlockRead op => Sys2Proof.Machine.execSmbusBlockRead op s
  | .bypass => Sys2Proof.Machine.execBypass s
  | .idcode => Sys2Proof.Machine.execIdcode s
  | .samplePreload bits => Sys2Proof.Machine.execSamplePreload bits s
  | .extest => Sys2Proof.Machine.execExtest s
  | .clamp => Sys2Proof.Machine.execClamp s
  | .highz => Sys2Proof.Machine.execHighz s
  | .extestPulse => Sys2Proof.Machine.execExtestPulse s
  | .extestTrain => Sys2Proof.Machine.execExtestTrain s
  | .resetRelease => Sys2Proof.Machine.execResetRelease s
  | .bootContainerVerify cfg bankB => Sys2Proof.Machine.execBootContainerVerify cfg bankB s
  | .memTrainingDone m ok rate raw typ => Sys2Proof.Machine.execMemTrainingDone m ok rate raw typ s
  | .recordRecallDone => Sys2Proof.Machine.execRecordRecallDone s
  | .startupMarginCheck c sl weak => Sys2Proof.Machine.execStartupMarginCheck c sl weak s
  | .startupCalibration c sl m => Sys2Proof.Machine.execStartupCalibration c sl m s
  | .deviceReady => Sys2Proof.Machine.execDeviceReady s
  | .deviceReadyTimeout => Sys2Proof.Machine.execDeviceReadyTimeout s
  | .bootCommit path => Sys2Proof.Machine.execBootCommit path s
  | .idle path => Sys2Proof.Machine.execIdle path s
  | .wake path => Sys2Proof.Machine.execWake path s
  | .wakeCalibration ms => Sys2Proof.Machine.execWakeCalibration ms s
  | .haltRecovery => Sys2Proof.Machine.execHaltRecovery s
  | .throttleLevelTick power => Sys2Proof.Machine.execThrottleLevelTick power s
  | .powerFail => Sys2Proof.Machine.execPowerFail s
  | .holdupExhausted => Sys2Proof.Machine.execHoldupExhausted s
  | .powerRestore => Sys2Proof.Machine.execPowerRestore s
  | .store path => Sys2Proof.Machine.execStore path s
  | .recAutoStore => Sys2Proof.Machine.execRecAutoStore s
  | .recMarginRead weak => Sys2Proof.Machine.execRecMarginRead weak s
  | .unlockRead path => Sys2Proof.Machine.execUnlockRead path s
  | .unlockWrite path => Sys2Proof.Machine.execUnlockWrite path s
  | .relock path => Sys2Proof.Machine.execRelock path s
  | .setReadPw path => Sys2Proof.Machine.execSetReadPw path s
  | .setWritePw path => Sys2Proof.Machine.execSetWritePw path s
  | .recDataAccess path w => Sys2Proof.Machine.execRecDataAccess path w s
  | .periodicSweep => Sys2Proof.Machine.execPeriodicSweep s
  | .sweepStart path => Sys2Proof.Machine.execSweepStart path s
  | .sweepDone => Sys2Proof.Machine.execSweepDone s
  | .windowEnd => Sys2Proof.Machine.execWindowEnd s
  | .ctrWinCfgWrite path v => Sys2Proof.Machine.execCtrWinCfgWrite path v s
  | .clearPeak path => Sys2Proof.Machine.execClearPeak path s
  | .smpIdxWrite path c v => Sys2Proof.Machine.execSmpIdxWrite path c v s
  | .resetAsserted => Sys2Proof.Machine.execResetAsserted s
  | .recStoreDone bad => Sys2Proof.Machine.execRecStoreDone bad s

end Sys2Proof.Machine
end

