-- ==== Sys2Proof/Machine/Step.lean ====
section
/-! DEFINITION. One step: the command at the front of the queue, or one idle nanosecond. -/
namespace Sys2Proof.Machine

/-- Nothing is commanded: the time base advances by 1 ns (R377), and so do the stall times of sampled entries (R427).
A period in which every condition of the EXPRESS bound holds is seen here (R219). Assumption 1. -/
def State.idleTick (s : State) : State := { s.stallTick.timeTick.expSettle with time := s.time + 1 }

/-- Take the command at the front of the queue and act on it with the rest of the queue; an empty queue
idles. -/
def step (s : State) : Host.Outcome State Fault Refusal :=
  match s.pending with
  | [] => .next s.idleTick
  | c :: cs => exec c { s with pending := cs }

/-- The state with the command a table word spells put at the front of its queue. -/
def State.withFetchWord (s : State) (nbits w : Nat) : State :=
  match Sys2Proof.decodeTableWord nbits w with
  | some c => { s with pending := c :: s.pending }
  | none => s

end Sys2Proof.Machine
end

