-- ==== Sys2Proof/WellFormed.lean ====
section
/-! DEFINITION. What makes a command one that can reach the block: ranges its operand types do not give. -/
namespace Sys2Proof

/-- A cell lies in an array (R20). -/
def CellId.ok (c : CellId) : Bool := c.row < 1032 && c.pair < 514

/-- A BAR0 transaction carries 1 to 1,024 dwords; on the other paths one whole word (R381, R432). -/
def Bar0.ok (p : Path) : Bar0 → Bool
  | .write ds => if p = .pcie then !ds.isEmpty && ds.length ≤ 1024 else ds.length = 1 && ds.all (fun d => d.2 = 15)
  | .read n => if p = .pcie then 1 ≤ n && n ≤ 1024 else n = 1

/-- A control-space address names a word (R432). -/
def wordAddr (a : Word) : Bool := a.toNat % 4 = 0

/-- A BAR2 access is not empty and stays in the 64 GiB window (R381). -/
def memOk (off : Nat) : MemOp → Bool
  | .write bs => !bs.isEmpty && off + bs.length ≤ 2 ^ 36
  | .read n => 1 ≤ n && off + n ≤ 2 ^ 36

/-- One number for each of the 514 logical pairs, at most `n` in size. -/
def perPair (n : Nat) (xs : List Int) : Bool := xs.length = 514 && xs.all (fun x => x.natAbs ≤ n)

/-- The sums of `n` couples of reference conversions (R73, R261). -/
def couplesOk (n : Nat) (xs : List Int) : Bool := perPair (1022 * n) xs

/-- The sums of a window of 256 null conversions (R73, R262). -/
def nullOk (xs : List Int) : Bool := perPair (511 * 256) xs

/-- The codes of a start-up calibration (R262). -/
def CalCodes.startOk (m : CalCodes) : Bool := nullOk m.null1 && nullOk m.null2 && couplesOk 512 m.ref1 && couplesOk 512 m.ref2

/-- The codes of an opening calibration (R263). -/
def CalCodes.openOk (m : CalCodes) : Bool :=
  nullOk m.null1 && nullOk m.null2 && couplesOk 64 m.ref1 && m.probes.length = 512 && m.probes.all (perPair 511)

/-- A command's operands are ones that can occur. -/
def Instr.wf : Instr → Bool
  | .registerWrite p a op => wordAddr a && op.ok p
  | .rwsShadowApplyIdle a => wordAddr a
  | .counterLoRead _ a => wordAddr a
  | .bar2Access off op => memOk off op
  | .pgmBatchDone _ _ stuck => stuck.all CellId.ok
  | .repairBatchDone _ _ stuck => stuck.all CellId.ok
  | .openingCalibrationDone _ _ m => m.openOk
  | .startupCalibration _ _ m => m.startOk
  | .wakeCalibration ms => ms.all (fun (a, m) => a < 2176 && m.startOk)
  | .fieldTestPhaseDone _ fails => fails.all (fun f => f.pair < 514 && f.row < 1024)
  | .scanBatch _ _ weak => weak ≤ 256
  | .startupMarginCheck _ _ weak => weak ≤ 65535
  | .driftTrackingSession _ _ refs => couplesOk 64 refs
  | .recMarginRead weak => weak.all (· < 256)
  | .recStoreDone bad => bad.all (· < 128)
  | .rxFrame _ f => !f.bytes.isEmpty && f.bytes.length ≤ 9216
  | .tbsTimeLoRead _ | .ctrWinLastLoRead _ | .controlSpaceRequest _ | .arrPgmGo _ _ _ | .arrPgmAbort _ _ _
  | .pgmQueuedJobStart | .planeCheckDone _ _ | .arrMapWrite _ _ _ _ _ _ | .arrTrimDataAccess _ _ _ _
  | .arrTrimSwap _ _ _ | .arrTrimCopy _ _ _ _ | .trimSwapTakeEffect _ _ | .refreshBatch _ _
  | .refreshDeferredTimeout _ _ | .waveSlot _ | .gridPointWaitEnd _ | .waveConversionDone _ _ | .cpVerdict _ _
  | .replayVerdict _ | .rotationAdvance _ | .drainAccumulate _ _ _ | .drainRowComplete _ _ _ _ _ _
  | .rangeResolve _ _ _ _ _ | .exchangeSegment _ _ _ _ _ _ | .passStart _ _ _ _ | .ingestBlockEvaluate _ _ _ _ _
  | .drnChainDataLoWrite _ _ _ | .drnChainDataHiWrite _ _ _ | .drnNltDataAccess _ _ _ | .tenderRestart _ _
  | .tenderLoadDone _ | .tenderWdogTimeout _ | .tenderFwFault _ _ | .tenderHeartbeatTick _ | .tenderYield _
  | .haloTransfer _ _ | .haloTimeout _ _ | .spareCommit _ _ | .spareSubstitutionEffect _ | .spareRelease _ _
  | .nop _ _ | .matmul _ _ | .dmatmul _ _ | .dynmul _ _ | .adapt _ _ | .adaptUpd _ _ | .ingest _ _ | .eltwise _ _
  | .copyIn _ _ | .copyOut _ _ | .forward _ _ | .haloSend _ _ | .haloWait _ _ | .haloWaitTimeout _ _ _
  | .fieldTest _ _ | .signal _ _ | .adapterAddResume _ _ _ _ _ | .entryComplete _ _ _ | .queDbSqTailWrite _ _ _
  | .queDbCqHeadWrite _ _ _ | .submissionRead | .poundTake _ | .queueStallResume _ | .create _ _ | .queueReset _ _
  | .destroy _ _ | .queueDrainDone _ | .bindCtx _ | .lookup _ | .retire _ _ _ | .streamRetireComplete _
  | .streamRelease _ _ | .receive _ | .verify _ | .install _ | .lock _ _ | .loadSet _ _ | .retry _ | .discard _
  | .releaseHold _ | .restageRef _ | .sendImg _ | .lockPoundDrained _ _ | .adpFetchTimeout _ | .adpData _
  | .adpWriteAck _ | .adpUseDecay | .gainTemperatureUpdate _ | .calWindowClose _ _ | .calWindowTimeout _ _
  | .calSwitchSlot _ _ | .calRampStep _ _ | .calOpen _ _ _ | .calRestart _ _ | .corCalGainDataRead _ _
  | .monStart _ _ _ | .monConversionDone _ _ | .monModeWrite _ _ _ | .monFallbackTimeout _ | .monTrigger _
  | .monStale _ | .rollback _ _ | .retestCore _ _ | .coreSelfTestDone _ _ | .memScrubPass _ _ | .eventDatagramSend
  | .join _ | .leave _ | .expel _ _ | .roundClose | .tally _ | .tallyTimeout | .groupHello _ | .expelMessage _
  | .leaveMessage _ | .syncCtx _ | .ethLinkUp _ | .ethLinkDown _ | .openMsg _ | .openAck _ | .ackMsg _ | .closeMsg _
  | .submit _ | .forwardReq _ | .refuse _ | .imgSegment _ | .sirinAckTimer _ | .sirinRetxTimeout _ _
  | .sirinOpenRetry _ | .sirinOpenTimeout _ | .reload _ | .openCommand _ _ | .closeCommand _ _ | .ptpSync _ _
  | .ptpSyncTimeout | .tbsCfgWrite _ _ | .tbUnlocked | .tbLocked | .pciLinkDown _ | .pciLinkUp _ _ | .quote _
  | .chain _ | .smbusBlockRead _ | .bypass | .idcode | .samplePreload _ | .extest | .clamp | .highz | .extestPulse
  | .extestTrain | .resetRelease | .bootContainerVerify _ _ | .memTrainingDone _ _ _ _ _ | .recordRecallDone
  | .deviceReady | .deviceReadyTimeout | .bootCommit _ | .idle _ | .wake _ | .haltRecovery | .throttleLevelTick _
  | .powerFail | .holdupExhausted | .powerRestore | .store _ | .recAutoStore | .unlockRead _ | .unlockWrite _
  | .relock _ | .setReadPw _ | .setWritePw _ | .recDataAccess _ _ | .periodicSweep | .sweepStart _ | .sweepDone
  | .windowEnd | .ctrWinCfgWrite _ _ | .clearPeak _ | .smpIdxWrite _ _ _ | .resetAsserted => true

end Sys2Proof
end

