-- ==== Sys2Proof/Safety.lean ====
section
/-! DEFINITION. What a safe state is: every table is in canonical form, the event ring is no larger than R323 makes it, the
version floors of the identity store lie at or above given values (R402), and the waiting commands are the ones given. -/
namespace Sys2Proof

/-- A write of the register does more than its fields' classes say: it is a command, a table word, or an enable that starts or
stops a unit. -/
def Reg.own (r : Reg) : Bool :=
  match r with
  | .arrPgmCmd | .arrRowMap | .arrColMap | .arrTrimData | .arrTrimCmd | .corSpareCmd | .tndCmd | .drnChainDataLo
  | .drnChainDataHi | .drnNltData | .queCmd | .stmCmd | .queDbSqTail | .queDbCqHead | .imgCmd | .corCalCmd
  | .monCtrl | .monSel | .chkCmd | .talCmd | .ethSrnCmd | .tbsCfg | .bootCmd | .pwrCmd | .recCmd | .recData
  | .recPwLo | .recPwHi | .ctrSweepCmd | .ctrWinCfg | .ctrWinCmd | .smpIdx | .arrCheckScale | .arrTrimCfg
  | .corCalCfg | .monWinCfg | .monInjCfg | .ethPortCfg | .ethSrnCfg | .pwrCfg => true
  | _ => false

end Sys2Proof

namespace Sys2Proof.Machine
open Sys2Proof

/-- Every table of the state is in canonical form: keys strictly rising and, but for the pending shadows, no entry equal to
what an unlisted key reads as. -/
structure State.Canon (s : State) : Prop where
  arrays : NMap.wf (fun _ => {}) s.arrays = true
  cores : NMap.wf (fun _ => {}) s.cores = true
  reqs : NMap.wf (fun _ => {}) s.reqs = true
  pounds : NMap.wf (fun _ => {}) s.pounds = true
  queues : NMap.wf (fun _ => {}) s.queues = true
  ctxs : NMap.wf (fun _ => {}) s.ctxs = true
  models : NMap.wf (fun _ => {}) s.models = true
  adps : NMap.wf (fun _ => {}) s.adps = true
  mons : NMap.wf (fun _ => {}) s.mons = true
  peers : NMap.wf (fun _ => {}) s.net.peers = true
  ctrs : NMap.wf (fun _ => 0) s.ctrs = true
  latches : NMap.wf (fun _ => 0) s.latches = true
  shadows : NMap.sorted s.shadows = true

/-- A safe state with version floors of at least `lf` and `lg` and the waiting commands `cq`. -/
structure State.Safe (lf lg : Nat) (cq : List Instr) (s : State) : Prop where
  /-- device memory is canonical: addresses rise, no byte equal to what unlisted memory reads as -/
  mem : NMap.wf (fun _ => 0) s.mem = true
  /-- host memory is canonical -/
  host : NMap.wf (fun _ => 0) s.host = true
  /-- stored registers are in rising order of address -/
  regs : NMap.sorted s.regs = true
  /-- the ring holds at most 4,096 records (R323) -/
  ring : s.ev.ring.length ≤ ringSize
  /-- the firmware floor (R402) -/
  fw : lf ≤ s.boot.ident.fwFloor
  /-- the configuration floor (R402) -/
  cfg : lg ≤ s.boot.ident.cfgFloor
  /-- the waiting commands -/
  queue : s.pending = cq
  /-- every table is canonical -/
  canon : s.Canon

/-- A safe state, whatever its floors and its queue. -/
def State.Inv (s : State) : Prop := s.Safe 0 0 s.pending

end Sys2Proof.Machine
end

