-- ==== Sys2Proof/Certificates/Slice0/Obligations.lean ====
section
/-! DEFINITION. The statements for the provers. -/

open Sys2Proof Sys2Proof.Machine

/-! ### The block as a whole -/

/-- A step takes the command at the front of the queue and runs it with the rest of the queue. -/
def Obligations.StepRunsFront : Prop :=
  ∀ (c : Instr) (cs : List Instr) (s : State), s.pending = c :: cs → step s = exec c { s with pending := cs }

/-- The state right after reset is safe, and every register reads as its reset value, the device is held in reset, no byte of
memory is listed and no command waits. On an empty queue a step idles for one nanosecond of the time base (the model's
choice, assumption 1). -/
def Obligations.ResetAndIdle : Prop :=
  (State.reset.Inv ∧ State.reset.boot.inReset = true ∧ State.reset.mem = [] ∧ State.reset.pending = [] ∧
     ∀ (r : Reg) (i k : Nat), r.reset i k < 2 ^ 32 → State.reset.rd r i k = r.reset i k) ∧
  (∀ s : State, s.pending = [] → ∃ t, step s = .next t ∧ t.time = s.time + 1 ∧ t.pending = [] ∧
     t.mem = s.mem ∧ t.regs = s.regs ∧ t.arrays = s.arrays ∧ t.ev = s.ev ∧ t.tx = s.tx)

/-- No command, in any state, stops the block: every command of the table answers a next state. Every step of a safe state,
whatever its queue, ends in a safe state: tables canonical, the ring at most 4,096 records, no version floor lower than
before, and exactly the rest of the queue waiting. -/
def Obligations.StepKeepsSafe : Prop :=
  (∀ (c : Instr) (s : State), ∃ t, exec c s = .next t) ∧
  (∀ s : State, s.Inv → ∃ t, step s = .next t ∧
     t.Safe s.boot.ident.fwFloor s.boot.ident.cfgFloor s.pending.tail)

/-- R396, R403, R435: what does not work. In reset, HALTED, POWER_FAIL and BOOT_FAILED the commands of the array, wave,
check, drain, tender, entry, queue, stream, calibration, scrub, group, Ethernet, Sirin, PTP, sweep and record engines do
nothing; those of engines that stop in IDLE do nothing while they are stopped. A command of a path that the block does not
answer on does nothing, and a read answers 0. -/
def Obligations.UnreachedBlocks : Prop :=
  (∀ (s : State) (c d p : CoreId) (sl : SlotId) (l : LArr) (pos : PosId) (idx row : Nat) (peer : PeerId) (ctx : CtxId) (q : QId)
    (model : ModelId) (right b : Bool) (flt : Option ResFault), s.alive = false →
    (∀ x ∈ [Instr.pgmQueuedJobStart, .planeCheckDone c sl, .scanBatch c sl idx, .refreshBatch c sl, .refreshDeferredTimeout c sl,
        .waveSlot c, .gridPointWaitEnd c, .waveConversionDone c sl, .cpVerdict c sl, .replayVerdict c, .rotationAdvance c,
        .drainAccumulate c l flt, .drainRowComplete c p pos idx row flt, .rangeResolve c p pos idx row, .passStart c p pos idx,
        .exchangeSegment d c p pos idx row, .ingestBlockEvaluate c p pos idx ⟨row, flt⟩, .tenderLoadDone c, .tenderYield c,
        .tenderWdogTimeout c, .tenderFwFault c b, .tenderHeartbeatTick c, .spareSubstitutionEffect c, .haloTransfer c right,
        .haloTimeout c right, .haloWaitTimeout p pos idx, .adapterAddResume c p pos idx row, .entryComplete p pos idx, .poundTake p],
      exec x s = .next s) ∧
    (∀ x ∈ [Instr.nop p pos, .matmul p pos, .dmatmul p pos, .dynmul p pos, .adapt p ⟨pos, flt.map (fun f => (c, f))⟩,
        .adaptUpd p ⟨pos, flt.map (fun f => (c, f))⟩, .ingest p pos, .eltwise p pos, .copyIn p pos, .copyOut p pos, .forward p pos,
        .haloSend p pos, .haloWait p pos, .fieldTest p pos, .signal p pos], exec x s = .next s) ∧
    (∀ x ∈ [Instr.submissionRead, .queueStallResume q, .queueDrainDone q, .streamRetireComplete ctx, .lockPoundDrained model p,
        .adpFetchTimeout ctx, .adpData peer, .adpWriteAck peer, .adpUseDecay, .imgSegment peer, .recAutoStore, .sweepDone,
        .periodicSweep, .windowEnd], exec x s = .next s) ∧
    (∀ cells, exec (.pgmBatchDone c sl cells) s = .next s ∧ exec (.repairBatchDone c sl cells) s = .next s) ∧
    (∀ m, exec (.openingCalibrationDone c sl m) s = .next s) ∧ ∀ f, exec (.fieldTestPhaseDone c f) s = .next s) ∧
  (∀ (s : State) (c : CoreId) (sl : SlotId) (set : Fin 16) (weak : Nat), s.works = false →
    (∀ x ∈ [Instr.scanBatch c sl weak, .refreshBatch c sl, .gainTemperatureUpdate c, .calWindowClose c set, .calWindowTimeout c set,
        .calSwitchSlot c set, .calRampStep c set], exec x s = .next s) ∧
    ∀ refs, exec (.driftTrackingSession c sl refs) s = .next s) ∧
  ∀ (s : State) (path : Path) (c : CoreId) (sl : SlotId) (b : Bool) (n : Fin 8) (v : Word) (q : QId) (ctx : CtxId),
    (s.answers path .arr = false → (∀ x ∈ [Instr.arrPgmGo path c sl, .arrPgmAbort path c sl, .arrMapWrite path c sl b n v,
        .arrTrimDataAccess path c sl (some v), .arrTrimSwap path c sl, .arrTrimCopy path c sl b], exec x s = .next s) ∧
      exec (.arrTrimDataAccess path c sl none) s = .next (s.reply path 0)) ∧
    (s.answers path .drn = false → (∀ x ∈ [Instr.drnChainDataLoWrite path c v, .drnChainDataHiWrite path c v,
        .drnNltDataAccess path c (some v)], exec x s = .next s) ∧ exec (.drnNltDataAccess path c none) s = .next (s.reply path 0)) ∧
    (s.answers path .tnd = false → exec (.tenderRestart path c) s = .next s) ∧
    (s.answers path .cor = false → exec (.spareCommit path c) s = .next s ∧ exec (.spareRelease path c) s = .next s) ∧
    (s.answers path .db = false → exec (.queDbSqTailWrite path q v) s = .next s ∧ exec (.queDbCqHeadWrite path q v) s = .next s) ∧
    (s.answers path .que = false → ∀ x ∈ [Instr.create path q, .queueReset path q, .destroy path q], exec x s = .next s) ∧
    (s.answers path .stm = false → (∀ x ∈ [Instr.bindCtx path, .lookup path, .streamRelease path ctx], exec x s = .next s) ∧
      ∀ reason, exec (.retire path ctx reason) s = .next s) ∧
    (s.answers path .img = false → (∀ x ∈ [Instr.receive path, .verify path, .install path, .lock path b, .retry path, .discard path,
        .releaseHold path, .restageRef path, .sendImg path], exec x s = .next s) ∧ ∀ set, exec (.loadSet path set) s = .next s) ∧
    (s.answers path .cal = false → exec (.calOpen path c sl) s = .next s ∧ exec (.calRestart path c) s = .next s ∧
      exec (.corCalGainDataRead path c) s = .next (s.reply path 0)) ∧
    (s.answers path .mon = false → ∀ mc, (∀ ch, exec (.monStart path mc ch) s = .next s) ∧ exec (.monModeWrite path mc v) s = .next s) ∧
    (s.answers path .chk = false → exec (.rollback path ctx) s = .next s)

/-! ### Control space -/

/-- R10: a write to a register with no command of its own acts on each bit by its field's class: RW bits as written, RWL bits
as written unless the block is busy, W1C bits cleared by ones, the others unchanged; a discarded change of an RWL value
raises CFG_WRITE_IGNORED once (cause 1), and nothing else of the state changes. -/
def Obligations.RegisterWriteByClass : Prop :=
  ∀ (s : State) (path : Path) (r : Reg) (i k off : Nat) (v : Word),
    r.addr i k < 2 ^ 32 → r.addr i k % 4 = 0 → decodeAddr (r.addr i k) = .inBlock r.spec.blk i off →
    regAt r.spec.blk i off = some (r, k) → r.own = false → r.mask [.rws] = 0 → s.shadows.find? (r.addr i k) = none →
    s.answers path r.spec.blk = true → v.toNat &&& r.mask [.rsv] = 0 → badEnc r i k v.toNat = false →
    refuses r path k v.toNat = false →
    ∃ w : Nat,
      (∀ j, w.testBit j =
        if (r.mask [.rw]).testBit j || ((r.mask [.rwl]).testBit j && !s.blkBusy r.spec.blk i) then v.toNat.testBit j
        else (s.rd r i k).testBit j && !((r.mask [.w1c]).testBit j && v.toNat.testBit j)) ∧
      exec (.registerWrite path (BitVec.ofNat 32 (r.addr i k)) (.write [(v, 15)])) s = .next
        ((if s.blkBusy r.spec.blk i && decide ((s.rd r i k ^^^ v.toNat) &&& r.mask [.rwl] ≠ 0)
          then s.ignored path (r.addr i k) 1 else s).wr r i k w)

/-- R10 to R12: a write of an RWS register leaves its active RWS bits as they are and becomes its pending shadow, and the
last write wins; a shadow of a core in whose wave engine no wave waits, or of a block outside every core window, then becomes
the active word as a whole; while a wave waits RWS_SHADOW_APPLY_IDLE changes nothing. -/
def Obligations.ShadowWaitsThenApplies : Prop :=
  ∀ (s : State) (path : Path) (r : Reg) (i k off : Nat) (v : Word),
    s.Inv → r.addr i k < 2 ^ 32 → r.addr i k % 4 = 0 → decodeAddr (r.addr i k) = .inBlock r.spec.blk i off →
    regAt r.spec.blk i off = some (r, k) → r.own = false → r.mask [.rws] ≠ 0 → r.mask [.rwl, .w1c, .ro, .wo] = 0 →
    s.answers path r.spec.blk = true → v.toNat &&& r.mask [.rsv] = 0 → badEnc r i k v.toNat = false →
    ∃ t, exec (.registerWrite path (BitVec.ofNat 32 (r.addr i k)) (.write [(v, 15)])) s = .next t ∧
      (∀ j, (r.mask [.rws]).testBit j = true → (t.rd r i k).testBit j = (s.rd r i k).testBit j) ∧
      (∀ j, (r.mask [.rws, .rw]).testBit j = true → (t.shadowed r i k).testBit j = v.toNat.testBit j) ∧
      (inWin (r.addr i k) 0x01000000 0x01000000 = true →
        t.someWaiting (32 * ((r.addr i k - 0x01000000) / 0x00400000) + r.addr i k % 0x00400000 / 0x00020000) = true →
        exec (.rwsShadowApplyIdle (BitVec.ofNat 32 (r.addr i k))) t = .next t) ∧
      ((inWin (r.addr i k) 0x01000000 0x01000000 = true →
          t.someWaiting (32 * ((r.addr i k - 0x01000000) / 0x00400000) + r.addr i k % 0x00400000 / 0x00020000) = false) →
        ∃ u : State, exec (.rwsShadowApplyIdle (BitVec.ofNat 32 (r.addr i k))) t = .next u ∧
          u.rd r i k = t.shadowed r i k ∧ u.shadows.find? (r.addr i k) = none ∧ u.mem = s.mem ∧ u.arrays = s.arrays)

/-- R13: a write that sets a reserved bit or places a reserved encoding is discarded as a whole, with CFG_WRITE_IGNORED
(cause 2): but for that event's own flag, count and address, every register reads as before. -/
def Obligations.ReservedWriteDiscarded : Prop :=
  ∀ (s : State) (path : Path) (r : Reg) (i k off : Nat) (v : Word),
    s.Inv → r.addr i k < 2 ^ 32 → r.addr i k % 4 = 0 → decodeAddr (r.addr i k) = .inBlock r.spec.blk i off →
    regAt r.spec.blk i off = some (r, k) → s.answers path r.spec.blk = true →
    (v.toNat &&& r.mask [.rsv] ≠ 0 ∨ badEnc r i k v.toNat = true) →
    ∃ t, exec (.registerWrite path (BitVec.ofNat 32 (r.addr i k)) (.write [(v, 15)])) s = .next t ∧
      t = s.ignored path (r.addr i k) 2 ∧ t.mem = s.mem ∧ t.arrays = s.arrays ∧ t.cores = s.cores ∧ t.queues = s.queues ∧
      ∀ (r' : Reg) (i' k' : Nat), r'.addr i' k' ∉ [Reg.lkpCsEvent.addr 0 0, Reg.lkpCsIgnoredCount.addr 0 0,
        Reg.lkpCsIgnoredLast.addr 0 0, Reg.chkEvtLost.addr 0 0] → t.rd r' i' k' = s.rd r' i' k'

/-- R381: a BAR2 write within the window and usable memory stores its bytes at the window base plus the offset and leaves
every other byte as it was; a read returns the bytes, or Unsupported Request where one of them has an uncorrectable error; an
access beyond usable memory completes with Unsupported Request and stores nothing; an offset beyond the window reaches
nothing, and neither does an access while the link is down or the device is not up (BAR2_ACCESS). R13, R432 to R435,
REGISTER_WRITE: the accesses of control space. A read of a register's word answers with its value; one of a reserved offset,
of a gap or of an unmapped address answers with 0, as everything does where the path does not reach, and a write there is
discarded: with CFG_WRITE_IGNORED at a reserved offset or gap unless it writes 0, with CS_UNMAPPED at an unmapped address. A
write that the register refuses is discarded with cause 3. Over PCIe two dwords are two accesses, the lower first; more of
them, or a write that leaves a byte out, are rejected with CS_ACCESS_INVALID. R388: a request whose TAG, SEQ and format hold
is executed: its SEQ is remembered, a read is answered with STATUS and its words, a write performs its words in order and is
answered with STATUS; a read of one mapped register word has STATUS 0 and the word. A request that fails a check performs
nothing and is counted as dropped, and a port that is down takes none (CONTROL_SPACE_REQUEST). -/
def Obligations.HostAccess : Prop :=
  ((∀ (s : State) (off : Nat) (op : MemOp), (s.alive = false ∨ s.pcieUp = false) → exec (.bar2Access off op) s = .next s) ∧
   ∀ (s : State) (off : Nat), s.Inv → s.alive = true → s.pcieUp = true →
     (2 ^ s.rf .pciBar2Cfg 0 12 8 ≤ off → ∀ op, exec (.bar2Access off op) s = .next s) ∧
     (off < 2 ^ s.rf .pciBar2Cfg 0 12 8 →
     let a := s.rf .pciBar2Cfg 0 6 0 * 2 ^ 30 + off
     (∀ bs : List Byte, a + bs.length ≤ s.usable → ∃ t, exec (.bar2Access off (.write bs)) s = .next t ∧
       (∀ i, i < bs.length → t.mem.get 0 (a + i) = bs.getD i 0) ∧
       (∀ b, (b < a ∨ a + bs.length ≤ b) → t.mem.get 0 b = s.mem.get 0 b) ∧ t.regs = s.regs ∧ t.tx = s.tx) ∧
     (∀ n : Nat, a + n ≤ s.usable → s.poisoned a n = false →
       exec (.bar2Access off (.read n)) s = .next (s.send (.bar2 (s.bytesAt a n)))) ∧
     (∀ n : Nat, a + n ≤ s.usable → s.poisoned a n = true →
       exec (.bar2Access off (.read n)) s = .next ((s.ueEvent (ctlOf a) a).send (.data .pcie [] true))) ∧
     (∀ n : Nat, s.usable < a + n → exec (.bar2Access off (.read n)) s = .next (s.send (.data .pcie [] true))) ∧
     (∀ bs : List Byte, s.usable < a + bs.length →
       exec (.bar2Access off (.write bs)) s = .next (s.send (.data .pcie [] true))))) ∧
  ((∀ (s : State) (path : Path) (addr : Word), addr.toNat % 4 = 0 →
     let a := addr.toNat
     let reads (v : Nat) (t : State) : Prop := exec (.registerWrite path addr (.read 1)) s = .next (t.reply path v)
     let writes (v : Word) (t : State) : Prop := exec (.registerWrite path addr (.write [(v, 15)])) s = .next t
     (s.answersAt path a = false → reads 0 s ∧ ∀ v, writes v s) ∧
     (s.answersAt path a = true →
       (decodeAddr a = .unmapped → reads 0 (s.unmapped path a true) ∧ ∀ v, writes v (s.unmapped path a false)) ∧
       ((decodeAddr a = .counterGap ∨ ∃ b i off, decodeAddr a = .inBlock b i off ∧ regAt b i off = none) →
         reads 0 s ∧ writes 0 s ∧ ∀ v, v ≠ 0 → writes v (s.ignored path a 2)) ∧
       (∀ b i off r k, decodeAddr a = .inBlock b i off → regAt b i off = some (r, k) →
         reads (s.regRead path r i k).1 (s.regRead path r i k).2 ∧
         ∀ v : Word, v.toNat &&& r.mask [.rsv] = 0 → badEnc r i k v.toNat = false → refuses r path k v.toNat = true →
           writes v (s.ignored path (r.addr i k) 3)))) ∧
   (∀ (s : State) (addr : Word), addr.toNat % 4 = 0 →
     let a := addr.toNat
     let run (op : Bar0) (s : State) := exec (.registerWrite .pcie addr op) s
     let next (op : Bar0) (s : State) := exec (.registerWrite .pcie (addr + 4) op) s
     (∀ n, 2 < n → run (.read n) s =
       .next ((if s.answersAt .pcie a then s.badAccess .pcie a n else s).send (.data .pcie [] true))) ∧
     (∀ ds, (2 < ds.length ∨ ∃ d ∈ ds, d.2 ≠ 15) → run (.write ds) s =
       .next (if s.answersAt .pcie a then s.badAccess .pcie a ds.length else s)) ∧
     (a + 4 < 2 ^ 32 →
       (∀ v w t u, run (.write [(v, 15)]) s = .next t → next (.write [(w, 15)]) t = .next u → run (.write [(v, 15), (w, 15)]) s = .next u) ∧
       ∀ (v w : Word) (t u : State), run (.read 1) s = .next (t.send (.data .pcie [v] false)) → next (.read 1) t = .next (u.send (.data .pcie [w] false)) →
         run (.read 2) s = .next (u.send (.data .pcie [v, w] false))))) ∧
  ((∀ (s : State) (d : List Byte), s.mgmtUp = false → exec (.controlSpaceRequest d) s = .next s) ∧
   (∀ (s : State) (d : List Byte) (v : Nat), s.mgmtUp = true → s.requestDrop d = 0 → leAt d 4 1 = 1 → leAt d 5 1 = 1 →
     let s1 : State := { s with ports := { s.ports with lastSeq := some (leAt d 8 8) } }
     (s1.csRead .mgmt (leAt d 16 4)).1 = some v → ∃ t, exec (.controlSpaceRequest d) s = .next t ∧
       t = (s1.csRead .mgmt (leAt d 16 4)).2.send (.mgmt 47621 ((patch (d.take 32) 6 [0] ++ leBytes 4 v) ++
         (s1.csRead .mgmt (leAt d 16 4)).2.mgmtTag (patch (d.take 32) 6 [0] ++ leBytes 4 v)))) ∧
   (∀ (s : State) (d : List Byte), s.mgmtUp = true → s.requestDrop d = 0 →
     let s1 : State := { s with ports := { s.ports with lastSeq := some (leAt d 8 8) } }
     let answer (bytes : List Byte) (ok : Bool) (t : State) : State :=
       let body := patch (d.take 32) 6 [if ok then 0 else 1] ++ bytes
       t.send (.mgmt 47621 (body ++ t.mgmtTag body))
     (leAt d 4 1 = 1 → let x := s1.mgmtReads (leAt d 16 4) (leAt d 5 1)
       exec (.controlSpaceRequest d) s = .next (answer x.1 x.2.1 x.2.2)) ∧
     (leAt d 4 1 ≠ 1 → let x := s1.mgmtWrites (leAt d 16 4) ((List.range (leAt d 5 1)).map (fun i => leAt d (32 + 4 * i) 4))
       exec (.controlSpaceRequest d) s = .next (answer [] x.1 x.2))) ∧
   (∀ (s : State) (d : List Byte), s.mgmtUp = true → s.requestDrop d ≠ 0 →
     exec (.controlSpaceRequest d) s = .next (s.dropRequest (s.requestDrop d)) ∧
     (s.dropRequest (s.requestDrop d)).ports.lastSeq = s.ports.lastSeq ∧
     (s.dropRequest (s.requestDrop d)).mem = s.mem))

/-- R419, R426, R434: a read of a LO word returns the low half and latches, for its path, the high half (and for
CTR_WIN_LAST_LO the peak and the index) of the same moment; it changes no counter, no channel, no register and no byte of
memory. A counter or channel whose count the spec leaves open (assumption 10) reads as some value, its halves of one moment
too. Where the path does not reach the block, or COUNTER_LO_READ names no counter's LO word, the read answers 0
(COUNTER_LO_READ, TBS_TIME_LO_READ and CTR_WIN_LAST_LO_READ). -/
def Obligations.LoReadsLatch : Prop :=
  (∀ (s : State) (path : Path),
    (s.answers path .ctr = false → ∀ addr, exec (.counterLoRead path addr) s = .next (s.reply path 0)) ∧
    (∀ addr : Word, (∀ n, decodeAddr addr.toNat ≠ .counter n false) → exec (.counterLoRead path addr) s = .next (s.reply path 0)) ∧
    (s.answers path .tbs = false → exec (.tbsTimeLoRead path) s = .next (s.reply path 0)) ∧
    (s.answers path .win = false → exec (.ctrWinLastLoRead path) s = .next (s.reply path 0))) ∧
  (∀ (s : State) (path : Path) (addr : Word) (n : Nat), s.Inv → s.answers path .ctr = true →
    decodeAddr addr.toNat = .counter n false →
    ∃ t v, exec (.counterLoRead path addr) s = .next t ∧ v < 2 ^ 64 ∧ (ctrOpen n = false → v = (s.ctrs.get 0 n).toNat) ∧
      t.tx = s.tx ++ [.data path [BitVec.ofNat 32 (u32 v)] false] ∧
      t.latched path (addr.toNat + 4) = v / 2 ^ 32 ∧ t.ctrs = s.ctrs ∧ t.regs = s.regs ∧ t.mem = s.mem) ∧
  (∀ (s : State) (path : Path), s.Inv → s.answers path .tbs = true →
    ∃ t, exec (.tbsTimeLoRead path) s = .next t ∧ t.tx = s.tx ++ [.data path [BitVec.ofNat 32 (u32 s.time)] false] ∧
      t.latched path (Reg.tbsTimeHi.addr 0 0) = u64 s.time / 2 ^ 32 ∧ t.time = s.time ∧ t.regs = s.regs ∧ t.mem = s.mem) ∧
  (∀ (s : State) (path : Path) (x : WinCh), s.Inv → s.answers path .win = true →
    s.wins.chans.get {} (s.rf .ctrWinSel 0 5 0) = x → x.last < 2 ^ 64 → x.peak < 2 ^ 64 → s.wins.idx < 2 ^ 32 →
    ∃ t last peak, exec (.ctrWinLastLoRead path) s = .next t ∧
      (winOpen (s.rf .ctrWinSel 0 5 0) = false → last = x.last ∧ peak = x.peak) ∧
      t.tx = s.tx ++ [.data path [BitVec.ofNat 32 (u32 last)] false] ∧
      t.latched path (Reg.ctrWinLastHi.addr 0 0) = last / 2 ^ 32 ∧ t.latched path (Reg.ctrWinPeakLo.addr 0 0) = u32 peak ∧
      t.latched path (Reg.ctrWinPeakHi.addr 0 0) = peak / 2 ^ 32 ∧ t.latched path (Reg.ctrWinIdx.addr 0 0) = s.wins.idx ∧
      t.wins = s.wins ∧ t.regs = s.regs ∧ t.mem = s.mem)

/-! ### Conductance arrays -/

/-- R44, R47, R52, ARR_PGM_GO: once the remap tables are recalled, GO starts a job that the array's own registers describe,
at the end of the queue while 64 jobs run, at batch 0, or with RESUME after the last completed batch of the recalled job of a
PARTIAL array whose version and scope are the same; it leaves every other array and all of memory alone. On an array in
service it is refused with an event, on one that is programming it is ignored; before recall it is discarded (the model's
choice, assumption 60). R47, ARR_PGM_ABORT: ABORT takes a queued job off the queue and gives the array its previous state
back; a job whose planes are still being read ends in the previous state with ARR_PGM_PARTIAL; a job that has started is
marked to end after its batch. The lockkeeper then takes note of a job that ended. Without a job the array is left as it is. -/
def Obligations.PgmGoAbort : Prop :=
  (∀ (s : State) (path : Path) (c : CoreId) (sl : SlotId), s.Inv → s.answers path .arr = true →
     let a := arrId c sl
     (s.recs.recalled = true → (s.arr a).st ≠ .programming → (s.arr a).st ≠ .serving →
       ∃ t j, exec (.arrPgmGo path c sl) s = .next t ∧ (t.arr a).st = .programming ∧ (t.arr a).job = some j ∧
         j.scope = s.rf .arrPgmCtrl a 1 0 ∧ j.version = s.rd .arrPgmVersion a ∧ j.first = s.rf .arrPgmCtrl a 15 5 ∧
         j.lastRow = s.rf .arrPgmCtrl a 26 16 ∧
         j.src = s.rdPair .arrPgmSrcLo .arrPgmSrcHi a ∧ j.queued = decide (64 ≤ s.runningJobs) ∧ j.checked = false ∧
         j.prev = (s.arr a).st ∧ j.started = false ∧ j.stuck = [] ∧
         j.next = (match s.rb .arrPgmCtrl a 31, (s.arr a).st, (s.arr a).recalled with
           | true, .partial_, some k =>
             if k.version = s.rd .arrPgmVersion a ∧ k.scope = s.rf .arrPgmCtrl a 1 0 then
               if k.last = 0x1FFF then 0 else k.last + 1 else 0
           | _, _, _ => 0) ∧ t.pgmQueue = s.pgmQueue ++ (if j.queued then [a] else []) ∧
         (∀ b, b ≠ a → t.arr b = s.arr b) ∧ (t.arr a).cells = (s.arr a).cells ∧ t.mem = s.mem ∧ t.queues = s.queues) ∧
     (s.recs.recalled = true → (s.arr a).st = .serving → exec (.arrPgmGo path c sl) s = .next (s.raise (evArr 0x2006 1 a 0))) ∧
     (s.recs.recalled = true → (s.arr a).st = .programming →
       exec (.arrPgmGo path c sl) s = .next (s.ignored path (Reg.arrPgmCmd.addr a 0) 3)) ∧
     (s.recs.recalled = false → exec (.arrPgmGo path c sl) s = .next (s.ignored path (Reg.arrPgmCmd.addr a 0) 3))) ∧
  ((∀ (s : State) (path : Path) (c : CoreId) (sl : SlotId), s.answers path .arr = true →
     (s.arr (arrId c sl)).job = none → exec (.arrPgmAbort path c sl) s = .next s) ∧
   ∀ (s : State) (path : Path) (c : CoreId) (sl : SlotId) (j : PgmJob), s.Inv → s.answers path .arr = true →
     let a := arrId c sl
     (s.arr a).st = .programming → (s.arr a).job = some j →
     ∃ u : State, exec (.arrPgmAbort path c sl) s = .next (u.jobEnded a) ∧ (∀ b, b ≠ a → u.arr b = s.arr b) ∧ u.mem = s.mem ∧
       (j.queued = true → (u.arr a).job = none ∧ (u.arr a).st = j.prev ∧ u.pgmQueue = s.pgmQueue.filter (· ≠ a)) ∧
       (j.queued = false → j.started = false → (u.arr a).job = none ∧ (u.arr a).st = j.prev ∧
         ∃ v : State, u = (v.flag .arrEvent a 0x80).raise (evArr 0x200C 1 a 0x1FFF)) ∧
       (j.queued = false → j.started = true → (u.arr a).job = some { j with aborting := true } ∧ (u.arr a).st = .programming ∧
         u.pgmQueue = s.pgmQueue))

/-- R40, R41, R44, PGM_QUEUED_JOB_START and PLANE_CHECK_DONE: the oldest queued job starts when fewer than 64 run, and none
while 64 run or none waits; a job whose planes fail their check ends with the array in its previous state and the error
reported; one whose planes pass, and whose first block reads the same again, holds that block for its first batch, and
ARR_PGM_COUNT rises by one; one whose block changed in between ends with cause 4, and one whose block cannot be read again
with that error, in its previous state. Without a job whose planes are being read the check does nothing. R42, R43, R46, R47,
R404, PGM_BATCH_DONE and REPAIR_BATCH_DONE: a batch programs its cells, in order, to the target nibbles of the block that was
read, leaving the stuck ones undefined, and is counted; then an aborted job ends, a job with batches left goes on with the
second read of its next block, and the last batch reports the stuck cells and begins repair. A held job waits. A repair batch
does the same with the targets of the pair or row it moves, and the last one lets the repair procedure look again. Without a
batch in progress nothing happens. Programming one cell pair writes its target, gives the cell on its physical place the
value (none where it is stuck) and leaves the other arrays, the registers and memory alone (R22, R23, R27, R28). -/
def Obligations.PgmRuns : Prop :=
  ((∀ (s : State) (a : Nat) (rest : List Nat), s.Inv → s.alive = true → s.pgmQueue = a :: rest →
     (s.runningJobs < 64 → ∃ t, exec .pgmQueuedJobStart s = .next t ∧ t.pgmQueue = rest ∧
       (t.arr a).job = (s.arr a).job.map (fun j => { j with queued := false }) ∧ (t.arr a).st = (s.arr a).st ∧
       (t.arr a).cells = (s.arr a).cells ∧ (∀ b, b ≠ a → t.arr b = s.arr b) ∧ t.mem = s.mem) ∧
     (64 ≤ s.runningJobs → exec .pgmQueuedJobStart s = .next s)) ∧
   (∀ s : State, s.pgmQueue = [] → exec .pgmQueuedJobStart s = .next s) ∧
   (∀ (s : State) (c : CoreId) (sl : SlotId), s.alive = true →
     ((s.arr (arrId c sl)).job = none → exec (.planeCheckDone c sl) s = .next s) ∧
     ∀ j, (s.arr (arrId c sl)).job = some j → (s.arr (arrId c sl)).st = .programming → (j.queued = true ∨ j.checked = true) →
       exec (.planeCheckDone c sl) s = .next s) ∧
   (∀ (s : State) (c : CoreId) (sl : SlotId) (j : PgmJob), s.Inv → s.alive = true → (s.arr (arrId c sl)).job = some j →
     j.queued = false → j.checked = false → j.started = false →
     let a := arrId c sl
     let b := batchBlock j.scope j.first j.lastRow j.next
     (∀ e, s.planeCheck a j.src j.scope j.first j.lastRow = .error e → ∃ u : State,
       exec (.planeCheckDone c sl) s = .next ((u.planeEvent a 0x1FFF e).jobEnded a) ∧
       (u.arr a).st = j.prev ∧ (u.arr a).job = none ∧ (u.arr a).cells = (s.arr a).cells ∧ u.mem = s.mem) ∧
     (∀ crcs e, s.planeCheck a j.src j.scope j.first j.lastRow = .ok crcs → s.planeRead j.src b = .error e → ∃ u : State,
       exec (.planeCheckDone c sl) s = .next ((u.planeEvent a 0x1FFF e).jobEnded a) ∧
       (u.arr a).st = j.prev ∧ (u.arr a).job = none ∧ (u.arr a).cells = (s.arr a).cells ∧ u.mem = s.mem) ∧
     (∀ crcs d crc, s.planeCheck a j.src j.scope j.first j.lastRow = .ok crcs → s.planeRead j.src b = .ok (d, crc) →
       (crc ≠ crcs.get 0 b → ∃ u : State,
         exec (.planeCheckDone c sl) s = .next ((u.planeEvent a 0x1FFF (.invalid 4 b 0)).jobEnded a) ∧
         (u.arr a).st = j.prev ∧ (u.arr a).job = none ∧ (u.arr a).cells = (s.arr a).cells ∧ u.mem = s.mem) ∧
       (crc = crcs.get 0 b → ∃ u : State, exec (.planeCheckDone c sl) s = .next ((u.countJob a).jobEnded a) ∧
         (u.arr a).job = some { j with
           checked := true, crcs := crcs, started := true, held := (b, d), gate := !s.batchesHeld (a / 17 / 32) } ∧
         (u.arr a).st = (s.arr a).st ∧ (u.arr a).cells = (s.arr a).cells ∧ (∀ b, b ≠ a → u.arr b = s.arr b) ∧ u.mem = s.mem ∧
         (u.countJob a).rd .arrPgmCount a = u32 (s.rd .arrPgmCount a + 1))))) ∧
  ((∀ (s : State) (c : CoreId) (sl : SlotId) (stuck : List CellId), s.alive = true →
     let a := arrId c sl
     ((s.arr a).job = none → exec (.pgmBatchDone c sl stuck) s = .next s ∧ exec (.repairBatchDone c sl stuck) s = .next s) ∧
     ∀ j, (s.arr a).job = some j → (s.arr a).st = .programming →
       ((j.started = false ∨ j.repairs ≠ [] ∨ batchCount j.scope j.first j.lastRow ≤ j.next) →
         exec (.pgmBatchDone c sl stuck) s = .next s) ∧
       (j.repairs = [] → exec (.repairBatchDone c sl stuck) s = .next s)) ∧
   (∀ (s : State) (c : CoreId) (sl : SlotId) (stuck : List CellId) (j : PgmJob), s.alive = true →
     let a := arrId c sl
     (s.arr a).job = some j → j.started = true → j.repairs = [] → j.next < batchCount j.scope j.first j.lastRow →
     let cells := batchCells j.scope j.first j.lastRow j.next
     let bad := (stuck.map stuckOf).filter (fun x => cells.contains (x.row, x.pair))
     let s2 := ((s.each cells (fun t (r, p) => t.program a r p
         (sext 4 (nibble j.held.2 r p)) (bad.any (fun x => x.row = r && x.pair = p)))).count
           (ctrQuarter (a / 17 / 32)) 9 1).count (ctrQuarter (a / 17 / 32)) 10 bad.length
     let j1 : PgmJob := { j with
       last := j.next, next := j.next + 1, stuck := j.stuck.filter (fun x => !cells.contains (x.row, x.pair)) ++ bad }
     (j.gate = false → s.batchesHeld (a / 17 / 32) = true → (s.arr a).st = .programming → exec (.pgmBatchDone c sl stuck) s = .next s) ∧
     ((j.gate = true ∨ s.batchesHeld (a / 17 / 32) = false) →
       (j.aborting = true → exec (.pgmBatchDone c sl stuck) s = .next ((s2.jobAborted a j1).jobEnded a)) ∧
       (j.aborting = false → j.next + 1 < batchCount j.scope j.first j.lastRow →
         exec (.pgmBatchDone c sl stuck) s = .next ((s2.reread a j1).jobEnded a)) ∧
       (j.aborting = false → j.next + 1 = batchCount j.scope j.first j.lastRow →
         (j1.stuck = [] → exec (.pgmBatchDone c sl stuck) s = .next ((s2.repair a j1).jobEnded a)) ∧
         (∀ x xs, j1.stuck = x :: xs → exec (.pgmBatchDone c sl stuck) s = .next ((((s2.flag .arrEvent a 2).raise (evArr 0x2002 1 a
           (satTo 0xFFFF j1.stuck.length + 65536 * x.row + 2 ^ 32 * x.pair))).repair a j1).jobEnded a))))) ∧
   (∀ (s : State) (c : CoreId) (sl : SlotId) (stuck : List CellId) (j : PgmJob) (w : RepairJob) (ws : List RepairJob),
     s.alive = true →
     let a := arrId c sl
     (s.arr a).job = some j → j.repairs = w :: ws →
     let cells := repairCells w
     let bad := (stuck.map stuckOf).filter (fun x => cells.contains (x.row, x.pair))
     let s1 := s.each cells (fun t (r, p) => t.program a r p
         ((t.arr a).targets.get 0 (514 * r + p)) (bad.any (fun x => x.row = r && x.pair = p)))
     let j1 : PgmJob := { j with
       stuck := j.stuck ++ bad, repairs := if w.left ≤ 1 then ws else { w with left := w.left - 1 } :: ws }
     (j.aborting = true → exec (.repairBatchDone c sl stuck) s = .next ((s1.jobAborted a j1).jobEnded a)) ∧
     (j.aborting = false → w.left ≤ 1 → ws = [] → exec (.repairBatchDone c sl stuck) s = .next ((s1.repair a j1).jobEnded a)) ∧
     (j.aborting = false → (1 < w.left ∨ ws ≠ []) →
       exec (.repairBatchDone c sl stuck) s = .next ((s1.modArr a (fun x => { x with job := some j1 })).jobEnded a)))) ∧
  (∀ (s : State) (a r p : Nat) (v : Int) (stuck : Bool), s.Inv → NMap.sorted (s.arr a).targets = true →
     NMap.sorted (s.arr a).cells = true →
     let t := s.program a r p v stuck
     (t.arr a).targets.get 0 (514 * r + p) = v ∧
     (t.arr a).cells.get none (516 * s.physRow a r + s.physPair a p) = (if stuck then none else some v) ∧
     (∀ k, k ≠ 516 * s.physRow a r + s.physPair a p → (t.arr a).cells.get none k = (s.arr a).cells.get none k) ∧
     (∀ b, b ≠ a → t.arr b = s.arr b) ∧ t.regs = s.regs ∧ t.mem = s.mem)

/-- R27 to R29: the remap tables. A logical row or column pair stands at its own physical place unless an entry names it, and
then at that entry's spare and nothing stands at its own place; a write that would duplicate a valid entry is discarded with
CFG_WRITE_IGNORED. (R10, R13, R60, ARR_MAP_WRITE) Any other write that names a row or pair of the array, while the array is
not busy, takes effect, and the array's page of the record store becomes dirty; a change while it is busy, a number outside
the array and an entry the column table does not have are discarded. -/
def Obligations.RemapTables : Prop :=
  (∀ (s : State) (a l : Nat), l < 1032 →
    ((∀ i, i < 8 → s.rd .arrRowMap a i ≠ 2 ^ 31 + l) → s.physRow a l = l) ∧
    (∀ i, i < 8 → s.rd .arrRowMap a i = 2 ^ 31 + l → (∀ k, k < 8 → s.rd .arrRowMap a k = 2 ^ 31 + l → k = i) →
      s.physRow a l = 1032 + i ∧ ∀ m, m < 1032 → s.physRow a m ≠ l)) ∧
  (∀ (s : State) (a p : Nat), p < 514 →
    ((∀ i, i < 2 → s.rd .arrColMap a i ≠ 2 ^ 31 + p) → s.physPair a p = p) ∧
    (∀ i, i < 2 → s.rd .arrColMap a i = 2 ^ 31 + p → (∀ k, k < 2 → s.rd .arrColMap a k = 2 ^ 31 + p → k = i) →
      s.physPair a p = 514 + i ∧ ∀ m, m < 514 → s.physPair a m ≠ p)) ∧
  ∀ (s : State) (path : Path) (c : CoreId) (sl : SlotId) (col : Bool) (n : Fin 8) (v : Word), s.Inv →
    s.answers path .arr = true →
    let a := arrId c sl
    (col = true → 2 ≤ n.val → exec (.arrMapWrite path c sl col n v) s = .next (s.ignored path (Reg.arrColMap.addr a n) 2)) ∧
    ((col = true → n.val < 2) →
    let r : Reg := if col then .arrColMap else .arrRowMap
    let num := v.toNat % 2 ^ 31
    ((if col then 514 else 1032) ≤ num → exec (.arrMapWrite path c sl col n v) s = .next (s.ignored path (r.addr a n) 2)) ∧
    (num < (if col then 514 else 1032) →
    let dup := bit v.toNat 31 && (List.range (if col then 2 else 8)).any (fun k => k ≠ n.val && s.rd r a k = v.toNat)
    (dup = false → v.toNat ≠ s.rd r a n → s.arrBusy a = false →
      ∃ t, exec (.arrMapWrite path c sl col n v) s = .next t ∧ t = (s.wr r a n v.toNat).touch (arrPage a) ∧
        t.rd r a n = v.toNat ∧ t.recs.dirty.contains (arrPage a) = true ∧ t.arrays = s.arrays) ∧
    (dup = false → v.toNat ≠ s.rd r a n → s.arrBusy a = true →
      exec (.arrMapWrite path c sl col n v) s = .next (s.ignored path (r.addr a n) 1)) ∧
    (dup = false → v.toNat = s.rd r a n → exec (.arrMapWrite path c sl col n v) s = .next s) ∧
    (dup = true → ∃ t, exec (.arrMapWrite path c sl col n v) s = .next t ∧ t = s.ignored path (r.addr a n) 3 ∧
      (∀ b k, b < 2176 → k < 8 → t.rd r b k = s.rd r b k) ∧ t.arrays = s.arrays ∧ t.mem = s.mem)))

/-- R34, R60: the trim tables. A write of ARR_TRIM_DATA sets the shadow entry of PAIR, a read returns both entries, and PAIR
then advances when AUTO_INC is 1, from 515 to 0; a write of a reserved bit is discarded. COPY makes the shadow table equal
the active one, before the SWAP of the same write; SWAP waits for its effect, where the two tables change places: between two
conversions, and on an array in service with waves waiting only once its idle wave period has begun. (ARR_TRIM_DATA_ACCESS,
ARR_TRIM_SWAP, ARR_TRIM_COPY, TRIM_SWAP_TAKE_EFFECT) -/
def Obligations.TrimTables : Prop :=
  ∀ (s : State) (path : Path) (c : CoreId) (sl : SlotId), s.Inv → s.answers path .arr = true →
    let a := arrId c sl
    let n := s.rf .arrTrimAddr a 9 0
    (∀ v : Word, v.toNat < 2 ^ 16 → ∃ t, exec (.arrTrimDataAccess path c sl (some v)) s = .next t ∧
      (t.arr a).trimShadow = (s.arr a).trimShadow.set 0 n (BitVec.ofNat 8 v.toNat) ∧
      (t.arr a).trimActive = (s.arr a).trimActive ∧ t.tx = s.tx ∧
      (s.rb .arrTrimAddr a 16 = true → t.rf .arrTrimAddr a 9 0 = if 515 ≤ n then 0 else n + 1) ∧
      (s.rb .arrTrimAddr a 16 = false → t.regs = s.regs)) ∧
    (∀ v : Word, 2 ^ 16 ≤ v.toNat →
      exec (.arrTrimDataAccess path c sl (some v)) s = .next (s.ignored path (Reg.arrTrimData.addr a 0) 2)) ∧
    (∃ t, exec (.arrTrimDataAccess path c sl none) s = .next t ∧ t.arrays = s.arrays ∧
      t.tx = s.tx ++ [.data path [BitVec.ofNat 32
        (((s.arr a).trimShadow.get 0 n).toNat + 256 * ((s.arr a).trimActive.get 0 n).toNat)] false] ∧
      (s.rb .arrTrimAddr a 16 = true → t.rf .arrTrimAddr a 9 0 = if 515 ≤ n then 0 else n + 1)) ∧
    exec (.arrTrimSwap path c sl) s = .next ((s.modArr a (fun x => { x with swapPending := true })).calDisturbed a) ∧
    exec (.arrTrimCopy path c sl false) s = .next (s.modArr a (fun x => { x with trimShadow := x.trimActive })) ∧
    exec (.arrTrimCopy path c sl true) s = .next (((s.modArr a (fun x => { x with trimShadow := x.trimActive })).modArr a
      (fun x => { x with swapPending := true })).calDisturbed a) ∧
    ((s.arr a).swapPending = false → exec (.trimSwapTakeEffect c sl) s = .next s) ∧
    ((s.arrConverting a = true ∨ ((s.arr a).st = .serving ∧ (s.arr a).swapIdle = false ∧ s.someWaiting c = true)) →
      exec (.trimSwapTakeEffect c sl) s = .next s) ∧
    ((s.arr a).swapPending = true → s.arrConverting a = false →
      ((s.arr a).st ≠ .serving ∨ (s.arr a).swapIdle = true ∨ s.someWaiting c = false) → ∃ t, exec (.trimSwapTakeEffect c sl) s = .next t ∧
      (t.arr a).trimActive = (s.arr a).trimShadow ∧ (t.arr a).trimShadow = (s.arr a).trimActive ∧
      (t.arr a).swapPending = false ∧ (t.arr a).swapIdle = false ∧ (∀ b, b ≠ a → t.arr b = s.arr b) ∧ t.regs = s.regs ∧ t.mem = s.mem)

/-- R54, R57 to R59, SCAN_BATCH, REFRESH_BATCH and REFRESH_DEFERRED_TIMEOUT: a scan batch of an array that is not
programming, and in service only after 2^STEAL of its waves, puts its place on the weak list with the time when it finds weak
cells and is not on the list yet, and moves the scan on; the last one of a full scan shows the cells found and reports them.
A refresh takes the oldest weak batch off the list without changing a target or a cell, on an EXPRESS array only while no
wave waits, and never without the reference copy of the version the array holds; a batch that has waited 24 h raises
ARR_REFRESH_DEFERRED once. An array that converts is left alone. -/
def Obligations.ScanAndRefresh : Prop :=
  ∀ (s : State) (c : CoreId) (sl : SlotId), s.Inv →
    let a := arrId c sl
    let x := s.arr a
    (s.arrConverting a = true → (∀ weak, exec (.scanBatch c sl weak) s = .next s) ∧ exec (.refreshBatch c sl) s = .next s) ∧
    (∀ l h, (s.core c).logicalOf sl = some l → s.holder c l a = some h → (h.ref = false ∨ h.img.version ≠ s.rd .arrVersion a) →
      exec (.refreshBatch c sl) s = .next s) ∧
    (∀ weak : Nat, s.works = true → s.arrConverting a = false →
      let due := s.rf .arrScanCfg a 15 0 ≠ 0 ∧ x.st ≠ .programming ∧
        (x.st ≠ .serving ∨ 2 ^ s.rf .arrScanCfg a 19 16 ≤ x.wavesSinceScan)
      let total := (if x.scanPos = 0 then 0 else x.scanWeak) + satTo 256 weak
      (¬due → exec (.scanBatch c sl weak) s = .next s) ∧
      (due → ∃ t, exec (.scanBatch c sl weak) s = .next t ∧ (t.arr a).wavesSinceScan = 0 ∧ (t.arr a).scanWeak = total ∧
        (t.arr a).weak = (if weak = 0 ∨ x.weak.any (·.1 = x.scanPos) = true then x.weak else x.weak ++ [(x.scanPos, s.time)]) ∧
        (t.arr a).cells = x.cells ∧ (t.arr a).targets = x.targets ∧ (t.arr a).st = x.st ∧ (∀ b, b ≠ a → t.arr b = s.arr b) ∧
        t.mem = s.mem ∧
        (x.scanPos + 1 < scanBatches → (t.arr a).scanPos = x.scanPos + 1 ∧ (t.arr a).scanning = true ∧ t.regs = s.regs ∧
          t.ev = s.ev) ∧
        (scanBatches ≤ x.scanPos + 1 → (t.arr a).scanPos = 0 ∧ (t.arr a).scanning = false ∧ (t.arr a).scanEnd = s.time ∧
          t.rd .arrScanStatus a = satTo 0xFFFF total ∧ (total = 0 → t.ev = s.ev) ∧
          (total ≠ 0 → ∃ (u : State) (n : Nat), t = (u.flag .arrEvent a 0x10).raise (evArr 0x2008 0 a (satTo 0xFFFF total + 65536 * n)))))) ∧
    (s.works = true → s.arrConverting a = false →
      (∀ l h, (s.core c).logicalOf sl = some l → s.holder c l a = some h → h.ref = true ∧ h.img.version = s.rd .arrVersion a) →
      let idle := (s.core c).waiting.all (fun w => decide ((s.core c).slotOf w.larr ≠ sl))
      (∀ w ws, s.rb .arrScanCfg a 24 = true → x.st ≠ .programming → x.weak = w :: ws → (s.expressArr c = false ∨ idle = true) →
        ∃ t, exec (.refreshBatch c sl) s = .next t ∧ (t.arr a).weak = ws ∧ (t.arr a).cells = x.cells ∧
          (t.arr a).targets = x.targets ∧ (t.arr a).st = x.st ∧ (∀ b, b ≠ a → t.arr b = s.arr b) ∧ t.regs = s.regs ∧ t.ev = s.ev ∧
          t.mem = s.mem) ∧
      ((s.rb .arrScanCfg a 24 = false ∨ x.st = .programming ∨ x.weak = [] ∨ (s.expressArr c = true ∧ idle = false)) →
        exec (.refreshBatch c sl) s = .next s)) ∧
    (∀ i t0 ws, s.alive = true → x.weak = (i, t0) :: ws →
      (t0 + dayNs ≤ s.time → x.deferredRaised = false → exec (.refreshDeferredTimeout c sl) s =
        .next ((s.modArr a (fun x => { x with deferredRaised := true })).raise (evArr 0x2009 1 a i))) ∧
      ((s.time < t0 + dayNs ∨ x.deferredRaised = true) → exec (.refreshDeferredTimeout c sl) s = .next s)) ∧
    (x.weak = [] → exec (.refreshDeferredTimeout c sl) s = .next s)

/-! ### Waves and the check unit -/

/-- R65, R66: the draught of a wave lies from -14 to 17. The drive value of a row of a live group is the exact value of 2 × a
× s / D, which is a × (8 + m) × 2^(e - 17 - d), rounded to nearest with ties to even; it lies from -254 to 254; and a zero
group drives nothing. -/
def Obligations.DriveValuesBounded : Prop :=
  ∀ (codes : List Nat) (d : Int), (∀ sc ∈ codes, sc < 256) → draught codes = some d →
    (-14 ≤ d ∧ d ≤ 17) ∧ ∀ (a : Int) (sc : Nat), sc ∈ codes → -127 ≤ a → a ≤ 127 →
      let v := driveVal a sc d
      let scale : Rat := (1 + ((sc % 8 : Nat) : Rat) / 8) * Fp.pow2 (((sc / 8 : Nat) : Int) - 15)
      let x : Rat := 2 * (a : Rat) * scale / Fp.pow2 d
      (-254 ≤ v ∧ v ≤ 254) ∧ (sc / 8 = 0 → v = 0) ∧
      (0 < sc / 8 → x = (a : Rat) * ((8 + sc % 8 : Nat) : Rat) * Fp.pow2 (((sc / 8 : Nat) : Int) - 17 - d) ∧
        -1 / 2 ≤ (v : Rat) - x ∧ (v : Rat) - x ≤ 1 / 2 ∧ (((v : Rat) - x = 1 / 2 ∨ (v : Rat) - x = -1 / 2) → v % 2 = 0))

/-- R79: the parts of a split level partition the data rows, part i of n holding rows 1,024 × i / n up to 1,024 × (i + 1) / n
- 1, and no group of 32, 64 or 128 rows straddles two parts. -/
def Obligations.SplitPartsPartition : Prop :=
  ∀ n ∈ [2, 4, 8], (∀ row, row < 1024 → ∃ i, i < n ∧ partHas (.part n i) row = true ∧
      ∀ k, k < n → partHas (.part n k) row = true → k = i) ∧
    ∀ g ∈ [32, 64, 128], ∀ i row row', i < n → row < 1024 → row' < 1024 → row / g = row' / g →
      partHas (.part n i) row = partHas (.part n i) row'

/-- R73: a converter code is clamp(RNE(Q / LSB + n), -511, +511), for a conversion error n that the model leaves free
(assumption 4); it never is -512, and a conversion changes nothing but the place in the free values. -/
def Obligations.ConverterCode : Prop :=
  ∀ (s : State) (a fb pc trim : Nat) (drive : List Int), ∃ n : Rat,
    (s.convert a fb pc trim drive).1 = max (-511) (min 511 (Fp.rne (s.charge a fb pc trim drive / lsbU fb + n))) ∧
    -511 ≤ (s.convert a fb pc trim drive).1 ∧ (s.convert a fb pc trim drive).1 ≤ 511 ∧
    (s.convert a fb pc trim drive).2 = { s with free := s.free + 1 }

/-- R62, R63, R77, R404, WAVE_SLOT and GRID_POINT_WAIT_END: with no wave waiting no slot is issued, and an unfinished group
ends; a locked core that would start a group between grid points waits for the next one, where the wait ends, and while it
waits no slot comes. A slot beyond the throttle level drives nothing; any other one drives a replay that is due or what its
arrays have waiting, and is issued. The first slot of a group takes the shadows of the core and orders the waves that wait.
R62, R404: an issued slot in which no array drives moves the core's slot number on by one and leaves the waves that wait and
fly, every array and all of memory as they were. -/
def Obligations.WaveSlots : Prop :=
  (∀ (s : State) (c : CoreId), s.alive = true →
     ((s.core c).gridWait = true → exec (.waveSlot c) s = .next s ∧
       (s.time % 200 = 0 → exec (.gridPointWaitEnd c) s = .next (s.modCore c (fun x => { x with gridWait := false }))) ∧
       (s.time % 200 ≠ 0 → exec (.gridPointWaitEnd c) s = .next s)) ∧
     ((s.core c).gridWait = false → exec (.gridPointWaitEnd c) s = .next s) ∧
     ((s.core c).failedCore = true → exec (.waveSlot c) s = .next s) ∧
     ((s.core c).failedCore = false → (s.core c).gridWait = false →
       let u := (s.calWatch c).calIdle c
       let first := decide ((u.core c).inGroup = 0)
       (u.someWaiting c = false → exec (.waveSlot c) s =
         .next (if first then u.refServe c else (u.refServe c).groupEnd c)) ∧
       (u.someWaiting c = true → first = true → u.rb .wavLockCfg c 0 = true → u.time % 200 ≠ 0 →
         exec (.waveSlot c) s = .next (u.modCore c (fun x => { x with gridWait := true }))) ∧
       (u.someWaiting c = true → (first = false ∨ u.rb .wavLockCfg c 0 = false ∨ u.time % 200 = 0) →
         let v := if first then (u.boundary c).modCore c (fun x => { x with waiting := sortBy x.waiting slotOrder }) else u
         (8 ≤ (u.core c).inGroup + u.qLevel (c.val / 32) → exec (.waveSlot c) s = .next (v.slotDone c [] false true)) ∧
         ((u.core c).inGroup + u.qLevel (c.val / 32) < 8 →
           ((v.core c).replays.find? (v.core c).replayDue = none →
             exec (.waveSlot c) s = .next ((v.fillSlot c).2.slotOrIdle c (v.fillSlot c).1)) ∧
           (∀ q, (v.core c).replays.find? (v.core c).replayDue = some q →
             let run : WaveRun := { q.orig with
               req := { q.orig.req with kind := .replay }, slot := (v.core c).spare, phys := arrId c (v.core c).spare, conv := 0,
               codes := [], zeros := [] }
             exec (.waveSlot c) s = .next (((v.modCore c (fun y => { y with flying := y.flying ++ [run] })).countWave c
               run.req).slotDone c [] true false)))))) ∧
  (∀ (s : State) (c : CoreId) (throttled : Bool), s.Inv →
     let t := s.slotDone c [] false throttled
     (t.core c).slotNo = (s.core c).slotNo + 1 ∧ (t.core c).driven = 0 ∧ (t.core c).waiting = (s.core c).waiting ∧
       (t.core c).flying = (s.core c).flying ∧ (∀ d, d ≠ c.val → t.core d = s.core d) ∧ t.arrays = s.arrays ∧ t.mem = s.mem ∧
       t.reqs = s.reqs)

/-- R73, R74, R80, WAVE_CONVERSION_DONE: the conversion `i` of the oldest wave of a slot gives the pairs at the physical
places 4j + i their codes, uses nothing but free values, and hands the pairs whose codes clip to the split procedure, which
does nothing when there are none; after the fourth conversion the codes of the wave are in. Without a wave under conversion
nothing happens. R80, R82, R86: the first clip of an unsplit wave that may split counts one clipped wave and puts the two
parts of level 2, row set 0 first, at the head of the core's waiting waves, each with the trim configuration of the wave. -/
def Obligations.ConversionsAndSplits : Prop :=
  (∀ (s : State) (c : CoreId) (sl : SlotId), s.alive = true →
     ((s.core c).flying.find? (fun w => w.slot = sl.val && decide (w.conv < 4)) = none →
       exec (.waveConversionDone c sl) s = .next s) ∧
     ∀ w : WaveRun, (s.core c).flying.find? (fun w => w.slot = sl.val && decide (w.conv < 4)) = some w →
       let r := s.convertAll w.phys w.fb w.conv w.trim w.drive
       let vs := r.1.filter (fun x => x.1 < 514)
       let w1 : WaveRun := { w with
         conv := w.conv + 1, codes := vs.foldl (fun m (p, v) => m.set 0 p v) w.codes,
         zeros := (r.1.filter (fun x => 514 ≤ x.1)).foldl (fun m (p, v) => m.insert (p - 514) v) w.zeros }
       let s2 := r.2.modCore c (fun x => { x with flying := x.flying.map (fun v => if v = w then w1 else v) })
       (∃ n, r.2 = { s with free := s.free + n }) ∧
       (∀ x ∈ r.1, -511 ≤ x.2 ∧ x.2 ≤ 511 ∧ ∃ pc, s.convPair w.phys x.1 = some pc ∧ pc % 4 = w.conv) ∧
       (∃ pairs, exec (.waveConversionDone c sl) s =
           .next (if w.conv = 3 then (s2.clipped c w1 pairs).codesIn c w1 else s2.clipped c w1 pairs) ∧
         ∀ p ∈ pairs, ∃ v, (p, v) ∈ vs ∧ (v = 511 ∨ v = -511)) ∧
       s2.clipped c w1 [] = s2) ∧
  (∀ (s : State) (c : Nat) (w : WaveRun) (pairs : List Nat), s.Inv → pairs ≠ [] → w.req.kind = .orig →
     (s.core c).split w.req = none → w.smax ≠ 0 → (∀ x ∈ w.codes, (x.2 = 511 ∨ x.2 = -511) → x.1 ∈ pairs) →
     let t := s.clipped c w pairs
     (∃ rest, (t.core c).waiting = { w.req with kind := .part 2 0, rep := 0, trim := some w.trim } ::
         { w.req with kind := .part 2 1, rep := 0, trim := some w.trim } :: rest ∧ ∀ v ∈ rest, v ∈ (s.core c).waiting) ∧
     ((t.core c).split w.req).map (fun q => (q.base, q.level, q.smax, q.parts)) =
       some ({ w.req with trim := some w.trim }, 2, w.smax, []) ∧
     t.rd .wavClipCount c = satTo 0xFFFFFFFF (s.rd .wavClipCount c + 1) ∧
     (t.core c).flying = (s.core c).flying ∧ t.arrays = s.arrays ∧ t.mem = s.mem)

/-- R296 to R299, R309, CP_VERDICT: the codes of a wave are compared once its four conversions are in. Those of an original
wave that passes go on; those of one that fails raise CHECK_PAIR_FAIL and the wave is repeated with its trim configuration; a
part of a split waits for the other parts, and a repeat decides about the array. The codes of an entry that has ended are
dropped. R307, R310, REPLAY_VERDICT: a replay that agrees with its original within the tolerance is counted, makes the array
known good now, and lets the original's codes go on; one that disagrees raises REPLAY_MISMATCH with the side at fault against
the reference: the original at fault is repeated, the spare at fault is suspected and the original's codes go on; with
neither at fault they go on too (the model's choice, assumption 24). R305, ROTATION_ADVANCE: after ROT_S seconds of replay
the spare moves to its next target, the serving arrays with a layer in ascending order with wrap-around, and a spare not yet
rotating to the first; before that, while it is being programmed, where rotation is not allowed, and with no target, nothing
happens. -/
def Obligations.Verdicts : Prop :=
  (∀ (s : State) (c : CoreId) (sl : SlotId), s.alive = true →
     ((s.core c).flying.find? (fun w => w.slot = sl.val && w.conv = 4) = none → exec (.cpVerdict c sl) s = .next s) ∧
     ∀ w : WaveRun, (s.core c).flying.find? (fun w => w.slot = sl.val && w.conv = 4) = some w →
       let s1 := s.modCore c (fun x => { x with flying := x.flying.erase w })
       (s1.running w.req.ref = false → exec (.cpVerdict c sl) s = .next s1) ∧
       (s1.running w.req.ref = true →
         (∃ clipped, exec (.cpVerdict c sl) s = .next ((s1.count c 30 1).judged c w (s.cpVerdict c w) clipped)) ∧
         (w.req.kind = .orig → w.req.again = false →
           (s.cpVerdict c w = none → exec (.cpVerdict c sl) s = .next ((s1.count c 30 1).settle c w)) ∧
           (∀ v, s.cpVerdict c w = some v → exec (.cpVerdict c sl) s = .next
             (((s1.count c 30 1).cpFail c w.req v).pushFront c [{ w.req with rep := 1, trim := some w.trim }]))))) ∧
  (∀ (s : State) (c : CoreId), s.alive = true →
     ((s.core c).replays.find? (fun q => q.spare.isSome) = none → exec (.replayVerdict c) s = .next s) ∧
     ∀ (q : Replay) (sp : WaveRun) (e : EntryRun) (img : Image) (b : Bool) (y : Placement),
       (s.core c).replays.find? (fun q => q.spare.isSome) = some q → q.spare = some sp →
       s.run? q.orig.req.ref = some e → s.waveLayer q.orig.req = some (img, b, y) →
       let s1 := ((s.modCore c (fun x => { x with replays := x.replays.erase q })).bump .chkReplayCount c 1).count c 36 1
       let hat (w : WaveRun) (p : Nat) : Rat := ((w.codes.get 0 p : Int) : Rat) * s.weight w.phys p
       let bad := (livePairs e y q.orig.req.set).filter (fun p =>
         decide (3 + 4 / 1000 * absR (hat q.orig p) < absR (hat q.orig p - hat sp p)))
       let off (w : WaveRun) : Bool := (s.wavePlane q.orig.req).any (fun x => bad.any (s.offRef x.2 w))
       let s2 (spare : Bool) : State := (((s1.bump .chkReplayMismatchCount c 1).count c 37 1).flag .chkCoreEvent c 8).raiseRun
         q.orig.req.ref (evCore 0x3005 1 c (q.orig.req.larr + 65536 * bad.length + 2 ^ 63 * b2n spare))
       (bad = [] → exec (.replayVerdict c) s =
         .next ((s1.modArr q.orig.phys (fun a => { a with lastGood := s.time })).release c q.orig)) ∧
       (bad ≠ [] → off q.orig = true → exec (.replayVerdict c) s = .next ((s2 false).pushFront c
         [{ q.orig.req with rep := 4, trim := some q.orig.trim }])) ∧
       (bad ≠ [] → off q.orig = false → off sp = true →
         exec (.replayVerdict c) s = .next (((s2 true).spareBad c).release c q.orig)) ∧
       (bad ≠ [] → off q.orig = false → off sp = false → exec (.replayVerdict c) s = .next (s1.release c q.orig))) ∧
  (∀ (s : State) (c : CoreId),
     let x := s.core c
     let past := decide (x.rotSince + s.rf .chkCfg 0 23 16 * 1000000000 ≤ s.time)
     let next := (s.rotTargets c).find? (fun l => x.rotating && decide (x.rotTarget < l))
     (s.up = false → exec (.rotationAdvance c) s = .next s) ∧
     (x.rotating = true → (x.replayOn = false ∨ past = false) → exec (.rotationAdvance c) s = .next s) ∧
     (x.mayRotate = false → exec (.rotationAdvance c) s = .next s) ∧
     (s.rotTargets c = [] → exec (.rotationAdvance c) s = .next s) ∧
     (s.up = true → (x.rotating = false ∨ (x.replayOn = true ∧ past = true)) → x.mayRotate = true →
       ∀ l, (next = some l ∨ (next = none ∧ (s.rotTargets c).head? = some l)) →
         exec (.rotationAdvance c) s =
           .next ((s.modCore c (fun y => { y with spareSuspect := false, spareFaults := 0 })).rotate c l)))

/-! ### The drain -/

/-- R118, R120, R121: adding to an accumulator word counts an uninitialised word as 0 and saturates at ±(2^47 - 1); the word
then holds the sum with its residue mod 31, INIT is 1, a saturated word stays as it is, and no other word, no manifest and no
byte of memory changes. -/
def Obligations.AccumulatorAdd : Prop :=
  ∀ (s : State) (r : EntryRef) (c tile m col : Nat) (v : Int) (clip : Bool), s.Inv → NMap.sorted (s.core c).acc = true →
    let key := accKey tile m col
    let w := (s.core c).acc.get 0 key
    let old : Int := if bit w.toNat 55 then accS w else 0
    let t := s.addWord r c tile m col v clip
    let w' := (t.core c).acc.get 0 key
    (-(2 ^ 47 : Int) < old ∧ old < 2 ^ 47) →
    (accS w' = if bit w.toNat 55 && bit w.toNat 53 then old else max (-(2 ^ 47 - 1)) (min (2 ^ 47 - 1) (old + v))) ∧
    bit w'.toNat 55 = true ∧ ((fld w'.toNat 52 48 : Nat) : Int) = accS w' % 31 ∧
    (bit w'.toNat 53 = ((bit w.toNat 55 && bit w.toNat 53) || decide (old + v < -(2 ^ 47 - 1) ∨ 2 ^ 47 - 1 < old + v))) ∧
    (bit w'.toNat 54 = (clip || (bit w.toNat 55 && bit w.toNat 54))) ∧
    (∀ k, k ≠ key → (t.core c).acc.get 0 k = (s.core c).acc.get 0 k) ∧ (t.core c).side = (s.core c).side ∧
    (∀ d, d ≠ c → t.core d = s.core d) ∧ t.mem = s.mem

/-- R18, R120 to R123, R137, R198, DRAIN_ACCUMULATE: the codes that the arrays of one slot made for one row and column set
are taken together: for every live column of the set their terms (code × 2^(draught + 14) plus the reference, the low slice
joining the high one of a W7 weight) are summed and added to the accumulator word of the column in the row's tile, and the
conversions of the row and set rise by those taken, twice for W7. A residue outcome counts where the entry runs under the
residue check and may end it. Codes for a tile whose claim another entry has taken end the entry; codes of an entry that is
gone or has ended, or of a core without a share of it, are dropped; with no codes, or in reset, nothing happens. -/
def Obligations.DrainAccumulates : Prop :=
  ∀ (s : State) (c : CoreId) (l : LArr) (flt : Option ResFault),
    (s.alive = false → exec (.drainAccumulate c l flt) s = .next s) ∧
    ((s.core c).ready.find? (fun d => d.req.larr = l.val) = none → exec (.drainAccumulate c l flt) s = .next s) ∧
    ∀ d : Delivery, s.alive = true → (s.core c).ready.find? (fun d => d.req.larr = l.val) = some d →
      let ds := (s.core c).ready.filter d.meets
      let s0 := s.modCore c (fun x => { x with ready := x.ready.filter (fun y => !d.meets y) })
      (s.run? d.req.ref = none ∨ s.waveLayer d.req = none → exec (.drainAccumulate c l flt) s = .next s0) ∧
      ∀ (e : EntryRun) (img : Image) (b : Bool) (y : Placement),
        s.run? d.req.ref = some e → s.waveLayer d.req = some (img, b, y) →
        (e.share c = none ∨ e.mode = .ended → exec (.drainAccumulate c l flt) s = .next s0) ∧
        ∀ h : Share, e.share c = some h → e.mode ≠ .ended →
          let run := h.run 1
          let m0 := rowsPer run.length * h.tp
          let tile := accTile (eBase e.raw 20 % 32 + e.prob.accOff) run.length m0 d.req.row (run.idxOf d.req.set)
          let key := convKey c d.req.set d.req.row
          let s1 := s0.resHit d.req.ref c d.req.row flt
          ((s0.core c).claims.get 0 tile ≠ e.issueNo →
            exec (.drainAccumulate c l flt) s = .next (s0.claimLost d.req.ref c tile)) ∧
          ((s0.core c).claims.get 0 tile = e.issueNo → s1.running d.req.ref = false →
            exec (.drainAccumulate c l flt) s = .next s1) ∧
          ((s0.core c).claims.get 0 tile = e.issueNo → s1.running d.req.ref = true →
            ∃ tops : EntryRun → NMap Nat, exec (.drainAccumulate c l flt) s = .next
              ((s1.modRun d.req.ref (fun e => { e with tops := tops e, convs := e.convs.set 0 key (e.convs.get 0 key +
                ((ds.filter (fun x => x.n ≠ 0)).map (·.n)).sum * (if y.w7 then 2 else 1)) })).each
                ((List.range y.nS).filter (e.colLive y d.req.set)) (fun t m =>
                  let xs := ds.map (fun x => x.term y.w7 m)
                  t.addWord d.req.ref c tile (d.req.row - m0) m (xs.map (·.1)).sum (xs.any (·.2)))))

/-- R122, R137, R189, R198, R302, R304, DRAIN_ROW_COMPLETE: the lowest row of a pass that has not left the chain, with no
work of it open, completes: a row whose claim is lost ends its entry; a residue outcome may end it; else its values are
formed from the accumulator (a wave row) or by the tender, and leave for the chain if none of them fails the range test. An
accumulator word at rest that fails its residue has the row's words cleared and its waves repeated once; the second time it
is a permanent fault of the core. A row out of turn, and one of an entry that is gone, does nothing. R185, EXCHANGE_SEGMENT:
the next segment of an output row that a core finished goes to another core of the pound, and blocks that become whole are
written; a core receives nothing from itself, nothing twice, nothing outside its pound, and nothing of an entry that is gone
or has ended. -/
def Obligations.RowsLeave : Prop :=
  (∀ (s : State) (c p : CoreId) (pos : PosId) (idx row : Nat) (flt : Option ResFault),
     let r : EntryRef := ⟨p, pos, idx⟩
     (s.run? r = none → exec (.drainRowComplete c p pos idx row flt) s = .next s) ∧
     ∀ e : EntryRun, s.run? r = some e →
       (e.share c = none → exec (.drainRowComplete c p pos idx row flt) s = .next s) ∧
       ∀ h : Share, e.share c = some h →
         let due := s.alive = true ∧ e.mode = .running ∧ h.running = true ∧ e.nextRow h = some row ∧
           (s.core c).rowOpen r e.cur row = false ∧ e.held.any (fun x => decide (x.core = c.val) && decide (x.row = row)) = false ∧
           (s.core c).accepting = true
         let waves := e.verb = 1 && eSubj e.raw
         (¬due → exec (.drainRowComplete c p pos idx row flt) s = .next s) ∧
         (∀ t, due → s.lostTile r c row = some t → exec (.drainRowComplete c p pos idx row flt) s = .next (s.claimLost r c t)) ∧
         (due → s.lostTile r c row = none → (flt ≠ some .atRest ∨ e.resOn = false ∨ waves = false) →
           let s0 := if e.redo.contains (c.val, row) then
             (s.coreFault c 5 5 row false).modRun r (fun e => { e with redo := e.redo.erase (c.val, row) }) else s
           let s1 := s0.resHit r c row flt
           exec (.drainRowComplete c p pos idx row flt) s = .next (if s1.running r then s1.rowFinish r e c row h waves else s1)) ∧
         (due → s.lostTile r c row = none → flt = some .atRest → e.resOn = true → waves = true →
           (e.redo.contains (c.val, row) = true →
             exec (.drainRowComplete c p pos idx row flt) s = .next ((s.residueFail r c 5).coreFault c 5 5 row true)) ∧
           (e.redo.contains (c.val, row) = false → ∃ u : State,
             exec (.drainRowComplete c p pos idx row flt) s = .next (u.pushFront c (s.rowWaves r e h row 5)) ∧
             (u.run? r).any (fun e => e.redo.contains (c.val, row)) = true)) ∧
         (waves = true → (s.waveRow r e h row).1.any (fun (col, y) => s.rangeFails e c col y) = false → e.ranged = [] →
           s.rowFinish r e c row h waves = ((s.count c 21 1).count c 33
             (s.rangeTested e c ((s.waveRow r e h row).1.map (·.1))).length).chainRow r
               ⟨c, row, (s.waveRow r e h row).1, (s.waveRow r e h row).2, true⟩)) ∧
  (∀ (s : State) (dst src p : CoreId) (pos : PosId) (idx row : Nat),
     let r : EntryRef := ⟨p, pos, idx⟩
     (s.alive = false ∨ s.run? r = none → exec (.exchangeSegment dst src p pos idx row) s = .next s) ∧
     ∀ e : EntryRun, s.run? r = some e → s.alive = true →
       let at_ (k : Nat) := e.outs.filter (fun (o : OutSeg) => decide (o.holder = k) && decide (o.src = src.val) &&
         decide (o.prob = e.cur) && decide (o.row = row))
       (e.mode = .ended ∨ dst = src ∨ (s.poundCores p).contains dst.val = false ∨ (at_ src).drop (at_ dst).length = [] →
         exec (.exchangeSegment dst src p pos idx row) s = .next s) ∧
       (∀ o os, e.mode ≠ .ended → dst ≠ src → (s.poundCores p).contains dst.val = true →
         (at_ src).drop (at_ dst).length = o :: os →
         exec (.exchangeSegment dst src p pos idx row) s = .next
           (((s.modRun r (fun e => { e with outs := e.outs ++ [{ o with holder := dst }] })).count src 40
             (e.outB * o.vals.length)).flushAll r)))

/-- R302, R303, RANGE_RESOLVE: the tender resolves a held row with failing elements. A row that the tender itself formed
stands as it is, with RANGE_STANDS for each; a subjunctive one is compared with the reference where the pound holds it:
elements within the tolerance stand, else the row is repeated; without a reference the row is repeated. A second result is
held to the first where there is no reference. At most 1,024 elements of an entry are resolved. With no row held, or while
the tender does not accept, nothing happens. -/
def Obligations.RangeResolves : Prop :=
  ∀ (s : State) (c p : CoreId) (pos : PosId) (idx row : Nat),
    let r : EntryRef := ⟨p, pos, idx⟩
    let here (x : HeldRow) : Bool := decide (x.core = c.val) && decide (x.row = row)
    (s.run? r = none → exec (.rangeResolve c p pos idx row) s = .next s) ∧
    ∀ e : EntryRun, s.run? r = some e →
      ((e.held.find? (fun x => here x && !x.ranged) = none ∨ e.share c = none ∨ s.alive = false ∨ e.mode ≠ .running ∨
        (s.core c).accepting = false) → exec (.rangeResolve c p pos idx row) s = .next s) ∧
      ∀ (h : HeldRow) (sh : Share), e.held.find? (fun x => here x && !x.ranged) = some h → e.share c = some sh →
        s.alive = true → e.mode = .running → (s.core c).accepting = true →
        let bad := (h.ys.filter (fun (col, y) => s.rangeFails e c col y)).map (·.1)
        let waves := e.verb = 1 && eSubj e.raw
        let ref := waves && (s.runLayer r e.prob.layer).any (fun (_, ref, _) => ref)
        let per := s.setWidth r e
        let at_ (col : Nat) : Word := (List.lookup col h.ys).getD 0
        let near (col : Nat) (a b : Word) : Bool := Fp.isFin a && Fp.isFin b &&
          decide (absR (Fp.toRat a - Fp.toRat b) ≤
            tolerance (e.rowLsb c row col per) ((e.convs.get 0 (convKey c (col / per) row) : Nat)) (Fp.toRat b))
        let keep (cols : List Nat) : HeldRow := { h with ys := h.ys.filter (fun (col, _) => cols.contains col) }
        let done : HeldRow := { h with ranged := true }
        let s0 (n : Nat) := s.modRun r (fun e => { e with resolved := n, held := e.held.filter (fun x => !(here x && !x.ranged)) })
        (e.ranged.filter here = [] → bad.length + e.resolved ≤ 1024 → bad.eraseDups = bad →
          let s1 := s0 (e.resolved + bad.length)
          (waves = false → exec (.rangeResolve c p pos idx row) s =
            .next ((s1.each bad (fun t col => t.rangeStands r c row col false false)).chainRow r done)) ∧
          (waves = true → ref = false → exec (.rangeResolve c p pos idx row) s = .next (s1.rangeRepeat r e sh (keep bad))) ∧
          (∀ f u, ref = true → s1.refRow r c row bad = (.error f, u) →
            exec (.rangeResolve c p pos idx row) s = .next (u.failRow r row f)) ∧
          (∀ vs u, ref = true → s1.refRow r c row bad = (.ok vs, u) →
            let wrong := bad.filter (fun col => !near col (at_ col) ((List.lookup col vs).getD 0))
            (wrong = [] → exec (.rangeResolve c p pos idx row) s = .next
              (((u.each bad (fun t col => t.rangeStands r c row col false false)).rangeClear r c row false).chainRow r done)) ∧
            (wrong ≠ [] → ∃ v : State, exec (.rangeResolve c p pos idx row) s = .next (v.rangeRepeat r e sh (keep wrong))))) ∧
        (∀ x : HeldRow, e.ranged.filter here = [x] → waves = true → ref = false →
          let now := (bad ++ x.ys.map (·.1)).eraseDups
          let agree (col : Nat) : Bool := (List.lookup col x.ys).any (fun y => near col (at_ col) y)
          (now.all agree = true → exec (.rangeResolve c p pos idx row) s = .next
            ((((s0 e.resolved).each now (fun t col => t.rangeStands r c row col true false)).rangeClear r c row false).chainRow r
              done)) ∧
          (now.all agree = false → exec (.rangeResolve c p pos idx row) s =
            .next ((s0 e.resolved).rangeRepeat r e sh (keep now))))

/-- R188, R189, PASS_START: a pass of a running entry whose tender accepts starts: a MATMUL, DMATMUL or DYNMUL claims the
tiles of its footprint and leaves every word of them uninitialised, another verb claims none; the words and claims of every
other tile, the other cores' accumulators, the arrays and memory stay as they are. A pass that may not start, and a verb
without passes, does nothing. -/
def Obligations.PassClaimsTiles : Prop :=
  ∀ (s : State) (c p : CoreId) (pos : PosId) (idx : Nat), s.Inv →
    let r : EntryRef := ⟨p, pos, idx⟩
    (s.run? r = none → exec (.passStart c p pos idx) s = .next s) ∧
    ∀ e : EntryRun, s.run? r = some e →
      (e.share c = none → exec (.passStart c p pos idx) s = .next s) ∧
      ∀ h : Share, e.share c = some h →
        let due := s.alive = true ∧ e.mode = .running ∧ e.verb ∉ [4, 5, 6] ∧ h.running = false ∧
          h.finished = false ∧ (s.core c).accepting = true ∧ ((h.rows e.verb e.prob.m).head?).any e.below = true
        (¬due → exec (.passStart c p pos idx) s = .next s) ∧
        (due → NMap.sorted (s.core c).claims = true → NMap.sorted (s.core c).acc = true →
          let mine := if e.verb ∈ [1, 2, 3] then e.passTiles h else []
          ∃ t, exec (.passStart c p pos idx) s = .next t ∧
            (∀ i ∈ mine, (t.core c).claims.get 0 i = e.issueNo) ∧
            (∀ i, i ∉ mine → (t.core c).claims.get 0 i = (s.core c).claims.get 0 i) ∧
            (∀ k, k / 2048 ∈ mine → (t.core c).acc.get 0 k = 0) ∧
            (∀ k, k / 2048 ∉ mine → (t.core c).acc.get 0 k = (s.core c).acc.get 0 k) ∧
            (e.verb = 1 → eSubj e.raw = true → (t.core c).waiting = (s.core c).waiting ++
              ((h.rows e.verb e.prob.m).filter e.below).flatMap (fun m => s.rowWaves r e h m 0)) ∧
            (∀ d, d ≠ c.val → (t.core d).acc = (s.core d).acc ∧ (t.core d).claims = (s.core d).claims) ∧
            t.arrays = s.arrays ∧ t.mem = s.mem)

/-- R102 to R107, R137, INGEST_BLOCK_EVALUATE: the ingest stage quantises the rows of the next block and tests its scale
guard with the values in force at issue: a block that keeps it counts as evaluated; one that trips it has its rows quantised
again with their dynamic codes, and every block with elements of those rows counts as evaluated. Blocks of rows with one not
yet evaluated wait; once all are, they are written. A residue outcome may end the entry. A block out of turn does nothing. -/
def Obligations.IngestEvaluates : Prop :=
  ∀ (s : State) (c p : CoreId) (pos : PosId) (idx i : Nat) (flt : Option ResFault),
    let r : EntryRef := ⟨p, pos, idx⟩
    (s.run? r = none → exec (.ingestBlockEvaluate c p pos idx ⟨i, flt⟩) s = .next s) ∧
    ∀ e : EntryRun, s.run? r = some e →
      let rows := rowsIn e.outStride e.prob.m i
      let due := s.alive = true ∧ e.verb = 6 ∧ e.mode = .running ∧ (s.core c).accepting = true ∧ i = e.ingested.length ∧
        e.due i = true ∧ rows ≠ [] ∧ e.rowCore (rows.headD 0) = c
      (¬due → exec (.ingestBlockEvaluate c p pos idx ⟨i, flt⟩) s = .next s) ∧
      (due →
        let s0 := ((s.worked r).takeTask r c).resHit r c (rows.headD 0) flt
        (s0.running r = false → exec (.ingestBlockEvaluate c p pos idx ⟨i, flt⟩) s = .next s0) ∧
        (s0.running r = true →
          let s1 := s0.each (rows.filter (fun m => !e.held.any (fun h => h.row = m)))
            (fun t m => if (t.run? r).any (fun e => decide (e.mode = .running) && e.below m) then t.ingestRow r m else t)
          ∀ e1 : EntryRun, s1.run? r = some e1 →
            (e1.mode ≠ .running ∨ e1.due i = false → exec (.ingestBlockEvaluate c p pos idx ⟨i, flt⟩) s = .next s1) ∧
            (e1.mode = .running → e1.due i = true →
              let codes := (e1.heldVals i).map (fun v => (BitVec.ofNat 8 v).toInt)
              let sats := ((e1.heldVals i).filter (256 ≤ ·)).length
              let g := e1.guard c codes sats
              let bs := if e1.sclMode = 0 then e1.rowBlocks rows else [i]
              (e1.sclMode ≠ 0 ∨ g.1 = 0 → ∀ e2,
                let s2 := s1.modRun r (fun e => { e with ingested := i :: e.ingested })
                s2.run? r = some e2 →
                exec (.ingestBlockEvaluate c p pos idx ⟨i, flt⟩) s = .next (s2.ingestRelease r e2 i rows) ∧
                (bs.all e2.ingested.contains = false → e2.sclMode = e1.sclMode → e2.rowBlocks rows = e1.rowBlocks rows →
                  exec (.ingestBlockEvaluate c p pos idx ⟨i, flt⟩) s = .next s2)) ∧
              (e1.sclMode = 0 → g.1 ≠ 0 → ∀ e2, (s1.ingestTrip r e1 c i rows g.1 sats g.2).run? r = some e2 →
                exec (.ingestBlockEvaluate c p pos idx ⟨i, flt⟩) s =
                  .next ((s1.ingestTrip r e1 c i rows g.1 sats g.2).ingestRelease r e2 i rows)))))

/-- R125, R129, R148: the table windows of the drain. A write of CHAIN_DATA_LO only loads the holding register, one of
CHAIN_DATA_HI stores HI:holding as the addressed stage word. NLT_DATA reads the addressed word; a write sets it, is discarded
for a fixed function or, if it changes the word, while the drain is busy, and INDEX then advances, from 1,027 to 0; a write
of the value already held while the drain is busy leaves INDEX (the model's choice, assumption 63). A block that does not
answer takes nothing and reads 0. -/
def Obligations.DrainTables : Prop :=
  ∀ (s : State) (path : Path) (c : CoreId) (v : Word), s.Inv →
    (s.answers path .drn = false → exec (.drnChainDataLoWrite path c v) s = .next s ∧
      exec (.drnChainDataHiWrite path c v) s = .next s ∧ exec (.drnNltDataAccess path c (some v)) s = .next s ∧
      exec (.drnNltDataAccess path c none) s = .next (s.reply path 0)) ∧
    (s.answers path .drn = true → NMap.sorted (s.core c).chains = true → NMap.sorted (s.core c).nlt = true →
      (∃ t, exec (.drnChainDataLoWrite path c v) s = .next t ∧ (t.core c).holding = v ∧ (t.core c).chains = (s.core c).chains ∧
        t.regs = s.regs ∧ t.mem = s.mem) ∧
      (∃ t, exec (.drnChainDataHiWrite path c v) s = .next t ∧
        (t.core c).chains.get 0 (s.chainKey c) = BitVec.ofNat 64 ((s.core c).holding.toNat + 2 ^ 32 * v.toNat) ∧
        (∀ k, k ≠ s.chainKey c → (t.core c).chains.get 0 k = (s.core c).chains.get 0 k) ∧
        (t.core c).holding = (s.core c).holding ∧ t.regs = s.regs ∧ t.mem = s.mem) ∧
      exec (.drnNltDataAccess path c none) s = .next ((s.reply path (s.nltHere c)).nltStep c) ∧
      (s.rf .drnNltAddr c 14 12 < 4 →
        exec (.drnNltDataAccess path c (some v)) s = .next (s.ignored path (Reg.drnNltData.addr c 0) 3)) ∧
      (4 ≤ s.rf .drnNltAddr c 14 12 → s.drnBusy c = false → ∃ t, exec (.drnNltDataAccess path c (some v)) s = .next t ∧
        t.nltWord c (s.rf .drnNltAddr c 14 12) (s.rf .drnNltAddr c 10 0) = v ∧
        (s.rb .drnNltAddr c 15 = true →
          t.rf .drnNltAddr c 10 0 = if 1027 ≤ s.rf .drnNltAddr c 10 0 then 0 else s.rf .drnNltAddr c 10 0 + 1) ∧
        (s.rb .drnNltAddr c 15 = false → t.regs = s.regs) ∧ t.mem = s.mem) ∧
      (4 ≤ s.rf .drnNltAddr c 14 12 → s.drnBusy c = true → s.nltHere c ≠ v.toNat →
        exec (.drnNltDataAccess path c (some v)) s = .next (s.ignored path (Reg.drnNltData.addr c 0) 1)) ∧
      (4 ≤ s.rf .drnNltAddr c 14 12 → s.drnBusy c = true → s.nltHere c = v.toNat →
        exec (.drnNltDataAccess path c (some v)) s = .next s))

/-! ### Tenders, halo links and spares -/

/-- R135, R136, R148: the states of a tender. RESTART reloads a running or faulted tender, clears its scratch and is
discarded otherwise; a load that ends makes it RUNNING with the code in its scratch when the copy is good and its digest
verifies, and FAULT with cause 0x4 when not (the code's place in the scratch is the model's choice, assumption 63); the
watchdog, a firmware fault and a scratch error put a running tender in FAULT with causes 1, 2 and 3 and drop its halo
transfers, and leave every other one as it is; the heartbeat counts milliseconds while RUNNING. In reset nothing happens.
R215, TENDER_YIELD: a tender at work for a request of another class goes over to an EXPRESS entry that has work for it, or
counts the yield to an EXPRESS request whose next entry is to come; one that is idle, does not run or already works for an
EXPRESS request does not, and nothing happens in reset. -/
def Obligations.TenderStates : Prop :=
  (∀ (s : State) (path : Path) (c : CoreId), s.Inv →
     (s.answers path .tnd = false → exec (.tenderRestart path c) s = .next s) ∧
     (s.answers path .tnd = true →
       ((s.core c).tnd = .fault → exec (.tenderRestart path c) s =
         .next (s.modCore c (fun x => { x with tnd := .loading, tndRestarted := true, scratch := [] }))) ∧
       ((s.core c).tnd = .running → ∃ t, exec (.tenderRestart path c) s = .next t ∧ (t.core c).tnd = .loading ∧
         (t.core c).tndCause = 5 ∧ (t.core c).tndRestarted = true ∧ (t.core c).haloOut = [] ∧ (t.core c).haloWait = [] ∧
         (t.core c).scratch = [] ∧ t.arrays = s.arrays) ∧
       ((s.core c).tnd = .off ∨ (s.core c).tnd = .loading → exec (.tenderRestart path c) s =
         .next (s.ignored path (Reg.tndCmd.addr c 0) 3))) ∧
     ((s.alive = false ∨ (s.core c).tnd ≠ .loading) → exec (.tenderLoadDone c) s = .next s) ∧
     (s.alive = true → (s.core c).tnd = .loading →
       let good := !s.boot.tenderBad && decide (Sha.sha256 s.boot.tenderCode = s.boot.tenderDigest)
       (good = true → ∃ t, exec (.tenderLoadDone c) s = .next t ∧
         (t.core c).tnd = .running ∧ (t.core c).tndRestarted = false ∧
         (t.core c).scratch = storeBytes [] 0 (s.boot.tenderCode.take 0x40000) ∧
         (∀ d, d ≠ c.val → t.core d = s.core d) ∧ t.mem = s.mem) ∧
       (good = false → exec (.tenderLoadDone c) s =
         .next (((s.modCore c (fun x => { x with tnd := .fault, tndCause := 4 })).flag .tndEvent c 1).raise
           (evCore 0x2306 2 c 4)))) ∧
     (s.works = false → (∀ scratch : Bool, exec (.tenderFwFault c scratch) s = .next s) ∧
       exec (.tenderWdogTimeout c) s = .next s ∧ exec (.tenderHeartbeatTick c) s = .next s) ∧
     (s.works = true →
       ((s.core c).tnd = .running → ∀ scratch : Bool, (∃ t, exec (.tenderFwFault c scratch) s = .next t ∧
         (t.core c).tnd = .fault ∧ (t.core c).tndCause = (if scratch then 3 else 2) ∧ (t.core c).tndBusy = none ∧
         (t.core c).haloOut = [] ∧ (t.core c).haloWait = [] ∧ t.arrays = s.arrays) ∧
         (s.rf .tndWdogCfg c 15 0 ≠ 0 → ∃ t, exec (.tenderWdogTimeout c) s = .next t ∧ (t.core c).tnd = .fault ∧
           (t.core c).tndCause = 1 ∧ (t.core c).tndBusy = none ∧ (t.core c).haloOut = [] ∧ (t.core c).haloWait = [] ∧
           t.arrays = s.arrays)) ∧
       (s.rf .tndWdogCfg c 15 0 = 0 → exec (.tenderWdogTimeout c) s = .next s) ∧
       ((s.core c).tnd ≠ .running → exec (.tenderWdogTimeout c) s = .next s ∧
         ∀ scratch : Bool, exec (.tenderFwFault c scratch) s = .next s) ∧
       ((s.core c).tnd = .running → exec (.tenderHeartbeatTick c) s =
         .next (s.modCore c (fun x => { x with tndBeat := x.tndBeat + 1 }))) ∧
       ((s.core c).tnd ≠ .running → exec (.tenderHeartbeatTick c) s = .next s))) ∧
  (∀ (s : State) (c : CoreId),
     let express := s.allRuns.find? (fun (q, e) => decide ((s.reqOfRun q).cls = 0) && e.tenders c)
     let coming := (s.pound c).service.any (fun e => e.2.any (fun n => decide ((s.req n.req).cls = 0) && decide (n.next < n.nent)))
     (s.alive = false ∨ (s.core c).tndBusy = none → exec (.tenderYield c) s = .next s) ∧
     ∀ r, s.alive = true → (s.core c).tndBusy = some r →
       ((s.reqOfRun r).cls = 0 ∨ (s.core c).tnd ≠ .running → exec (.tenderYield c) s = .next s) ∧
       ((s.reqOfRun r).cls ≠ 0 → (s.core c).tnd = .running →
         (∀ q e, express = some (q, e) → exec (.tenderYield c) s =
           .next ((s.modCore c (fun x => { x with tndBusy := some q })).count c 19 1)) ∧
         (express = none → exec (.tenderYield c) s = .next (if coming then s.count c 19 1 else s))))

/-- R140 to R142, HALO_TRANSFER and HALO_TIMEOUT: an arriving halo transfer larger than the receiver's window is refused
(HALO_REFUSED and its flag), and its entry ends with HALO, cause 1; else its blocks are written and the receiver's link
sequence number advances by one. The oldest transfer of a link whose receiver does not run is abandoned: HALO_TIMEOUT and its
flag, and the entry ends with HALO, cause 2 (how many blocks had arrived is a free value, assumption 5). Either way the link
takes its next waiting transfer. With no transfer on the link, and in reset, nothing happens. R140, R141, R158, R172,
HALO_WAIT_TIMEOUT: HALO_SEND puts its transfer behind those that wait for the link that PARAM names, which takes it while
fewer than two are outstanding, and waits; HALO_WAIT ends OK when the link's sequence number has reached M modulo 2^16, and
at its limit of N µs ends with HALO, cause 3, if it has not; without a limit, and for any other entry, the limit does
nothing. -/
def Obligations.HaloLinks : Prop :=
  (∀ (s : State) (c : CoreId) (right : Bool), s.Inv →
     ((s.alive = false ∨ (s.core c).haloOut.find? (fun h => h.toRight = right) = none) →
       exec (.haloTransfer c right) s = .next s ∧ exec (.haloTimeout c right) s = .next s) ∧
     ∀ h : HaloOut, s.alive = true → (s.core c).haloOut.find? (fun h => h.toRight = right) = some h →
       let d := haloPeer c right
       let s0 := (s.modCore c (fun x => ({ x with haloOut := x.haloOut.erase h } : Core).haloFill)).worked h.ref
       ((s.core d).tnd = .running → (s.haloWin d right).2 < h.count → exec (.haloTransfer c right) s =
         .next (((s0.flag .corEvent d 8).raiseRun h.ref
           (evCore 0x2304 1 d (b2n (!right) + 256 * h.count + 65536 * (s.haloWin d right).2))).endRun h.ref 0x23 1)) ∧
       ((s.core d).tnd = .running → h.count ≤ (s.haloWin d right).2 →
         match copyRun s0 h.count (fun t i => t.copyAct h.ref c (h.base + i)) (fun t i (b, m) =>
           ((t.putAct d ((s.haloWin d right).1 + i) b m).count c 38 (blk + 16)).count d 39 (blk + 16)) with
         | (none, t) =>
           let t1 := t.modCore d (fun x =>
             if right then { x with seqL := (x.seqL + 1) % 65536 } else { x with seqR := (x.seqR + 1) % 65536 })
           exec (.haloTransfer c right) s =
             .next ((t1.endRun h.ref 0 0).each ((t1.allRuns.filter (fun (q, _) => q.pound = d)).map (·.1)) (fun u q => u.haloCheck q))
         | (some f, t) => exec (.haloTransfer c right) s = .next (t.endRun h.ref f.1 f.2)) ∧
       ((s.core d).tnd ≠ .running → exec (.haloTransfer c right) s = .next s) ∧
       ((s.core d).tnd ≠ .running → ∃ (u : State) (k : Nat), k ≤ h.count ∧ exec (.haloTimeout c right) s = .next
         ((u.raiseRun h.ref (evCore 0x2305 2 d (b2n (!right) + 256 * k))).endRun h.ref 0x23 2) ∧
         (d ≠ c.val → (u.core c).haloOut = (({ s.core c with haloOut := (s.core c).haloOut.erase h } : Core).haloFill).haloOut) ∧
         u.arrays = s.arrays ∧ u.mem = s.mem ∧ bit (u.rd .corEvent d) 4 = true) ∧
       ((s.core d).tnd = .running → exec (.haloTimeout c right) s = .next s)) ∧
  (∀ (s : State) (p : CoreId) (pos : PosId) (idx : Nat),
     let r : EntryRef := ⟨p, pos, idx⟩
     (s.alive = false ∨ s.run? r = none → exec (.haloWaitTimeout p pos idx) s = .next s) ∧
     ∀ e : EntryRun, s.run? r = some e →
       (s.startHaloSend r = (s.modCore p (fun x => ({ x with
         haloWait := x.haloWait ++ [⟨r, decide (eParam e.raw = 0), eBase e.raw 16, eCount e.raw 16⟩] } : Core).haloFill)).modRun r
           (fun e => { e with mode := .waitHalo })) ∧
       (e.verb = 0xC → e.mode = .waitHalo → s.haloCheck r = if s.haloMet r e then s.endRun r 0 0 else s) ∧
       (s.alive = true → e.verb = 0xC → e.mode = .waitHalo → e.arg / 65536 ≠ 0 → s.haloMet r e = false →
         exec (.haloWaitTimeout p pos idx) s = .next (s.endRun r 0x23 3)) ∧
       ((e.verb ≠ 0xC ∨ e.mode ≠ .waitHalo ∨ e.arg / 65536 = 0 ∨ s.haloMet r e = true) →
         exec (.haloWaitTimeout p pos idx) s = .next s))

/-- R82, R144 to R147, SPARE_COMMIT, SPARE_SUBSTITUTION_EFFECT and SPARE_RELEASE: a COMMIT with a cause against it is refused
with that cause and SPARE_REFUSED, else it waits, with its FORCE, for the wave-group boundary at which no split sequence
holds the array and no cause stands against it; there the spare becomes the logical array's slot and goes into service, and
the core has no spare until a RELEASE makes the retired slot the spare again; a RELEASE with no retired slot that is READY or
UNPROGRAMMED is refused. While a COMMIT waits, both commands are discarded. -/
def Obligations.SpareSubstitution : Prop :=
  ∀ (s : State) (path : Path) (c : CoreId), s.Inv →
    (s.answers path .cor = false → exec (.spareCommit path c) s = .next s ∧ exec (.spareRelease path c) s = .next s) ∧
    (s.answers path .cor = true → (s.core c).spPending = none →
      (s.commitCause c ≠ 0 → exec (.spareCommit path c) s =
        .next (s.spareRefuse c (s.commitCause c) (s.rf .corSpareCtrl c 3 0))) ∧
      (s.commitCause c = 0 → exec (.spareCommit path c) s = .next (s.modCore c (fun x => { x with
        spPending := some (s.rf .corSpareCtrl c 3 0, s.rb .corSpareCtrl c 8) }))) ∧
      ((s.core c).retired = none → exec (.spareRelease path c) s = .next (s.releaseRefuse c)) ∧
      (∀ p, (s.core c).retired = some p → ((s.arr (arrId c p)).st = .ready ∨ (s.arr (arrId c p)).st = .unprogrammed) →
        ∃ t, exec (.spareRelease path c) s = .next t ∧ (t.core c).spare = p ∧ (t.core c).noSpare = false ∧
          (t.core c).retired = none ∧ (t.core c).slotMap = (s.core c).slotMap) ∧
      (∀ p, (s.core c).retired = some p → (s.arr (arrId c p)).st ≠ .ready → (s.arr (arrId c p)).st ≠ .unprogrammed →
        exec (.spareRelease path c) s = .next (s.releaseRefuse c))) ∧
    (s.answers path .cor = true → (s.core c).spPending ≠ none →
      exec (.spareCommit path c) s = .next (s.ignored path (Reg.corSpareCmd.addr c 0) 3) ∧
      exec (.spareRelease path c) s = .next (s.ignored path (Reg.corSpareCmd.addr c 0) 3)) ∧
    (s.alive = false ∨ (s.core c).spPending = none → exec (.spareSubstitutionEffect c) s = .next s) ∧
    (∀ l force, s.alive = true → (s.core c).spPending = some (l, force) →
      let due := s.splitHolds c l = false ∧ (s.core c).inGroup = 0 ∧ s.commitBad c l force = 0
      (¬due → exec (.spareSubstitutionEffect c) s = .next s) ∧
      (due → (s.core c).spare ≠ (s.core c).slotOf l → (s.core c).spare < 17 → (s.core c).slotOf l < 17 →
        NMap.sorted (s.core c).slotMap = true →
        ∃ t, exec (.spareSubstitutionEffect c) s = .next t ∧ (t.core c).slotOf l = (s.core c).spare ∧
          (t.core c).noSpare = true ∧ (t.core c).retired = some ((s.core c).slotOf l) ∧ (t.core c).spPending = none ∧
          bit (t.core c).quar l = false ∧ (t.arr (arrId c (s.core c).spare)).st = .serving ∧
          ((s.arr (arrId c ((s.core c).slotOf l))).st = .serving → (t.arr (arrId c ((s.core c).slotOf l))).st = .ready) ∧
          t.mem = s.mem))

/-! ### Entries and sentences -/

/-- R163 to R174, R247, R315, R343, the commands of the fifteen verbs: the command of the verb of the entry at a service
position that may issue issues it: the core's issue number and the position move on by one and the entry joins the entries in
progress. If nothing rejects it, its verb's work begins (a NOP ends at once; a residue outcome may come with ADAPT and
ADAPT_UPD), an empty one ends at once with its OK status, and one whose context does not exist ends NO_CONTEXT; a rejected
one, and one that cannot be read, ends with its error. The command of another verb, and any command while the position may
not issue, does nothing. -/
def Obligations.EntriesIssue : Prop :=
  ∀ (s : State) (p : CoreId) (pos : PosId) (flt : Option (CoreId × ResFault)) (c : Instr) (v : Nat)
    (start : State → EntryRef → State),
    (c, v, start) ∈ ([(.nop p pos, 0x0, fun t r => t.endRun r 0 0), (.matmul p pos, 0x1, State.startPasses),
      (.dmatmul p pos, 0x2, State.startPasses), (.dynmul p pos, 0x3, State.startPasses),
      (.adapt p ⟨pos, flt⟩, 0x4, State.startAdapt flt), (.adaptUpd p ⟨pos, flt⟩, 0x5, State.startUpd flt),
      (.ingest p pos, 0x6, State.startIngest), (.eltwise p pos, 0x7, State.startPasses), (.copyIn p pos, 0x8, State.startCopyIn),
      (.copyOut p pos, 0x9, State.startCopyOut), (.forward p pos, 0xA, State.startForward),
      (.haloSend p pos, 0xB, State.startHaloSend), (.haloWait p pos, 0xC, State.startHaloWait),
      (.fieldTest p pos, 0xD, State.startField), (.signal p pos, 0xE, State.startSignal)] :
      List (Instr × Nat × (State → EntryRef → State))) →
    (s.sent? p pos = none → exec c s = .next s) ∧
    ∀ n : Sentence, s.sent? p pos = some n →
      let d := (s.entryBytes n).getD (List.replicate 64 0)
      let verb := verbOf (s.entryBytes n)
      let may := s.mayIssue p n (eFence d || decide (verb = 0xE)) = true ∧ verb = v
      let q := s.req n.req
      let r : EntryRef := ⟨p, pos, n.next⟩
      let mode := s.rf .corSclMode p 1 0
      let s2 (e : EntryRun) := ((s.modCore p (fun x => { x with issueNo := u32 (x.issueNo + 1) })).count p 12 1).modSent p pos
        (fun m => { m with next := m.next + 1, runs := m.runs ++ [e], image := m.image || s.readsImage q d })
      let e := { s.newRun p n q d mode with on := s.partCores r (s.newRun p n q d mode) }
      let s3 := ((s2 e).issued r e).modReq n.req (fun x => { x with
        causes := x.causes ||| (if q.cls = 0 then s.shapeCauses q e else 0),
        ingestN := x.ingestN + (if e.verb = 6 then (e.probs.map (fun pb => pb.m * pb.k)).sum else 0),
        named := x.named ++
          (if ePlist d then (e.probs.map (fun pb => pb.stream)).eraseDups.filter (fun i => !x.named.contains i) else []) })
      (¬may → exec c s = .next s) ∧
      (may → s.entryBytes n ≠ none → s.rejects p q d mode = none →
        (s.noContext e = false → emptyStatus e = none → exec c s = .next (start s3 r)) ∧
        (∀ st dt, s.noContext e = false → emptyStatus e = some (st, dt) → exec c s = .next (s3.endRun r st dt)) ∧
        (s.noContext e = true → exec c s = .next ((if e.verb = 4 then s3.pendOut r else s3).endRun r 0x26 (eStream d)))) ∧
      (∀ st dt, may → s.entryBytes n ≠ none → s.rejects p q d mode = some (st, dt) →
        let u := s2 { s.newRun p n q d mode with probs := [] }
        exec c s = .next (((if st = 0x17 then u.ueRead false (eAddr d) 16 else u).rejected r q st dt).endRun r st dt)) ∧
      (may → s.entryBytes n = none → exec c s = .next
        ((((s2 { s.newRun p n q d mode with probs := [] }).ueRead n.host (n.saddr + 64 * n.next) 64).rejected r q 0x17 0).endRun r
          0x17 0))

/-- R178: an entry in progress that ends takes its status and detail and stops its sentence's issue when the status is a
failure; the other entries of the device stay as they were, and no array, register or byte of memory changes. R166, R173:
SIGNAL writes the eight bytes of SEED at ADDR and no other byte, and ends OK; while bus mastering is off it writes nothing in
host memory and ends READ_ERROR. -/
def Obligations.EntryEnds : Prop :=
  (∀ (s : State) (r : EntryRef) (n : Sentence) (e : EntryRun) (st dt : Nat), s.Inv → NMap.sorted (s.pound r.pound).service = true →
     s.sent? r.pound r.pos = some n → s.run? r = some e → e.mode ≠ .ended →
     let t := s.endRun r st dt
     t.run? r = some { e with mode := .ended, status := st, detail := dt } ∧
     (∀ r', r' ≠ r → t.run? r' = s.run? r') ∧
     (t.sent? r.pound r.pos).map (fun m => (m.failed, m.next)) =
       some (if 0x10 ≤ st then n.failed.orElse (fun _ => some r.idx) else n.failed, n.next) ∧
     (∀ c, ∀ w ∈ (t.core c).waiting, w.ref ≠ r) ∧ t.arrays = s.arrays ∧ t.regs = s.regs ∧ t.mem = s.mem) ∧
  (∀ (s : State) (r : EntryRef) (e : EntryRun), s.Inv → s.run? r = some e →
     (eHost e.raw = false → s.inBlocks (eAddr e.raw) 8 = true →
       let t := s.startSignal r
       (∀ i, i < 8 → t.mem.get 0 (eAddr e.raw + i) = BitVec.ofNat 8 (e.seed / 256 ^ i)) ∧
       (∀ b, (b < eAddr e.raw ∨ eAddr e.raw + 8 ≤ b) → t.mem.get 0 b = s.mem.get 0 b) ∧ t.host = s.host ∧
       t.arrays = s.arrays) ∧
     (eHost e.raw = true → s.dmaUp = false → s.startSignal r = s.endRun r 0x17 3) ∧
     (eHost e.raw = false → s.inBlocks (eAddr e.raw) 8 = false → s.startSignal r = s.endRun r 0x17 4))

/-- R309, R315, R316, FIELD_TEST_PHASE_DONE: a field-test phase without a failure gives way to the next one; the arrays that
fail are repeated; of those, the ones that fail again are permanently faulty, quarantined and leave the test, and the others
count as transient. Without a test on the core, and in reset, nothing happens. -/
def Obligations.FieldTestPhases : Prop :=
  ∀ (s : State) (c : CoreId) (fails : List FieldFail),
    (s.alive = false ∨ (s.core c).fieldTest = none → exec (.fieldTestPhaseDone c fails) s = .next s) ∧
    ∀ f : FieldTest, s.alive = true → (s.core c).fieldTest = some f →
      let failed (l : Nat) : Bool := fails.any (fun x => x.larr.val = l)
      let mk (xs : List Nat) : Nat := (xs.map (fun l => 2 ^ l)).sum
      (f.repeating = 0 → (maskArrays f.tested).any failed = false → exec (.fieldTestPhaseDone c fails) s =
        .next ((s.modCore c (fun x => { x with fieldTest := some { f with phase := f.phase + 1 } })).fieldEnd c)) ∧
      (f.repeating = 0 → (maskArrays f.tested).any failed = true → exec (.fieldTestPhaseDone c fails) s =
        .next (s.modCore c (fun x => { x with
          fieldTest := some { f with repeating := mk ((maskArrays f.tested).filter failed) } }))) ∧
      (f.repeating ≠ 0 → ∃ u : State, exec (.fieldTestPhaseDone c fails) s = .next ((u.modCore c (fun x => { x with
          fieldTest := some { f with
            phase := f.phase + 1, repeating := 0,
            mask := f.mask &&& (0xFFFF - mk ((maskArrays f.repeating).filter failed)),
            permanent := f.permanent ||| mk ((maskArrays f.repeating).filter failed),
            transient := f.transient ||| mk ((maskArrays f.repeating).filter (fun l => !failed l)) } })).fieldEnd c) ∧
        u.time = s.time)

/-- R292, ADAPTER_ADD_RESUME: a row of a running entry that waits for its ADAPTER_ADD operand goes through the chain when it
is resumed; any other row, a row of an INGEST entry, and one of an entry that is gone or does not run, does nothing. R248,
R249, ADP_FETCH_TIMEOUT, ADP_DATA, ADP_WRITE_ACK and ADP_USE_DECAY: an adapter fetch that runs into its limit is given up,
and its slot is free for the next one; a received ADP_DATA that is whole fills the slot that was fetched for; an acknowledged
write-back frees its slot, and is counted where it evicted; one that failed is kept; and DECAY halves the use count of every
slot, changing nothing else. A message that no fetch or write-back waits for is taken and dropped. -/
def Obligations.AdapterTraffic : Prop :=
  (∀ (s : State) (c p : CoreId) (pos : PosId) (idx row : Nat),
     let r : EntryRef := ⟨p, pos, idx⟩
     (s.alive = false ∨ s.run? r = none → exec (.adapterAddResume c p pos idx row) s = .next s) ∧
     ∀ e : EntryRun, s.alive = true → s.run? r = some e →
       let held := e.held.find? (fun h => decide (h.core = c.val) && decide (h.row = row) && h.ranged)
       (∀ h, held = some h → e.mode = .running → e.verb ≠ 6 → exec (.adapterAddResume c p pos idx row) s = .next (s.chainRow r h)) ∧
       ((held = none ∨ e.mode ≠ .running ∨ e.verb = 6) → exec (.adapterAddResume c p pos idx row) s = .next s)) ∧
  (∀ (s : State) (peer : PeerId) (ctx : CtxId), s.Inv →
     (s.alive = false → ∀ x ∈ [Instr.adpFetchTimeout ctx, .adpData peer, .adpWriteAck peer, .adpUseDecay], exec x s = .next s) ∧
     (s.alive = true →
     let slot := List.find? (fun (x : Nat × AdpSlot) => x.2.fetching && decide (x.2.ctx = ctx.val)) s.adps
     let dropped : State := { s with net := { s.net with
       want := s.net.want.filter (·.1 ≠ ctx.val), tags := s.net.tags.filter (fun t => t.write || decide (t.ctx ≠ ctx.val)) } }
     (slot = none → s.net.want.any (·.1 = ctx.val) = false → exec (.adpFetchTimeout ctx) s = .next s) ∧
     (slot = none → s.net.want.any (·.1 = ctx.val) = true → exec (.adpFetchTimeout ctx) s = .next (dropped.fetchFail ctx 1)) ∧
     (∀ x, slot = some x → exec (.adpFetchTimeout ctx) s = .next (((dropped.setAdp x.1 {}).fetchNext).fetchFail ctx 1)) ∧
     (s.nextMsg peer 0x22 = none → exec (.adpData peer) s = .next s) ∧
     (∀ ch m, s.nextMsg peer 0x22 = some (ch, m) →
       let s1 := s.tookMsg peer ch
       let tag := leAt m.payload 0 4
       (s.net.tags.find? (fun t => decide (t.tag = tag) && !t.write) = none → exec (.adpData peer) s = .next s1) ∧
       (∀ t, s.net.tags.find? (fun t => decide (t.tag = tag) && !t.write) = some t →
         let w := s1.wireIn (s1.adpAddr t.slot) 16 (m.payload.drop 8)
         let s3 : State := { w.2 with net := { w.2.net with tags := w.2.net.tags.filter (fun u => u.tag ≠ tag) } }
         exec (.adpData peer) s = .next (if leAt m.payload 4 1 ≠ 0 then s1 else if w.1 = false then w.2
           else ((s3.setAdp t.slot { s3.adp t.slot with fetching := false }).modCtx t.ctx
             (fun x => { x with adapter := 2 ^ 31 + t.slot })).adaptResume t.ctx))) ∧
     (s.nextMsg peer 0x24 = none → exec (.adpWriteAck peer) s = .next s.adpSettle) ∧
     (∀ ch m, s.nextMsg peer 0x24 = some (ch, m) →
       let s1 := s.tookMsg peer ch
       let tag := leAt m.payload 0 4
       let s2 : State := { s1 with net := { s1.net with tags := s1.net.tags.filter (fun u => u.tag ≠ tag) } }
       (s.net.tags.find? (fun t => decide (t.tag = tag) && t.write) = none → exec (.adpWriteAck peer) s = .next s1.adpSettle) ∧
       (∀ t, s.net.tags.find? (fun t => decide (t.tag = tag) && t.write) = some t →
         exec (.adpWriteAck peer) s = .next (if leAt m.payload 4 1 ≠ 0 then (s1.writeBackFailed tag).adpSettle
           else (((if t.retire then s2.adpRelease t.slot
             else ((s2.adpRelease t.slot).bump .imgAdpEvictCount 0 1).count ctrIo 5 1).fetchNext).adpSettle)))) ∧
     (s.rf .imgAdpTime 0 7 0 ≠ 0 → ∃ t, exec .adpUseDecay s = .next t ∧
       (∀ i, t.adp i = { s.adp i with useCount := (s.adp i).useCount / 2 }) ∧ t.mem = s.mem ∧ t.regs = s.regs ∧
       t.ctxs = s.ctxs) ∧
     (s.rf .imgAdpTime 0 7 0 = 0 → exec .adpUseDecay s = .next s)))

/-- R178, R179, R195, R202, R207, ENTRY_COMPLETE: an entry that has ended leaves its sentence and, where a record is due,
writes it, once its queue can take one more record; a failed entry closes its scale lanes first. The failing entry of a
sentence waits until the others are complete, and with the last one the sentence leaves its position. An entry that still
runs stays. The first unissued entry of an aborted sentence in service with no entry in progress gets the ABORTED record, and
the sentence ends. -/
def Obligations.EntryCompletes : Prop :=
  ∀ (s : State) (p : CoreId) (pos : PosId) (idx : Nat),
    (s.alive = false ∨ s.sent? p pos = none → exec (.entryComplete p pos idx) s = .next s) ∧
    ∀ n : Sentence, s.alive = true → s.sent? p pos = some n →
      (n.runs.find? (fun e => e.idx = idx) = none →
        (∀ detail, n.aborting = some detail → n.runs = [] → n.failed = none → idx = n.next → s.recordWaits n = false →
          exec (.entryComplete p pos idx) s = .next (s.abortEnd p pos n detail)) ∧
        ((n.aborting = none ∨ n.runs ≠ [] ∨ n.failed ≠ none ∨ idx ≠ n.next ∨ s.recordWaits n = true) →
          exec (.entryComplete p pos idx) s = .next s)) ∧
      ∀ e : EntryRun, n.runs.find? (fun e => e.idx = idx) = some e →
        let r : EntryRef := ⟨p, pos, idx⟩
        let last := decide (n.failed = some idx) ||
          (decide (n.runs.length = 1) && decide (n.next = n.nent) && n.failed.isNone && n.aborting.isNone)
        let record := eCpl e.raw || decide (0x10 ≤ e.status) || decide (idx + 1 = n.nent) || last
        let held := e.mode ≠ .ended ∨ (n.failed = some idx ∧ 1 < n.runs.length) ∨ (record = true ∧ s.recordWaits n = true)
        (held → exec (.entryComplete p pos idx) s = .next s) ∧
        (¬held →
          let s0 := if 0x10 ≤ e.status then s.closeLanes r else s
          let s1 := (if e.verb = 5 then s0.updStore e else s0).count p 14 (b2n (decide (0x20 ≤ e.status)))
          let s2 := if record then s1.writeCpl n.req (s1.cplOf p n e last) else s1
          let s3 := (if e.smp then s2.sampleWrite p (s2.sampleOf p n e) else s2).modSent p pos
            (fun n => { n with runs := n.runs.filter (fun x => x.idx ≠ idx) })
          exec (.entryComplete p pos idx) s =
            .next (if last then s3.sentenceEnd p pos n (decide (n.failed ≠ some idx)) (some e) else s3.idleSettle))

/-- R214, R215, R236, POUND_TAKE: a pound takes an EXPRESS request that is admitted before any other, else one of the other
classes by their weights; EXPRESS requests past their limit are marked as late. The request taken stands at a free position
with no entry issued, bound to the version the pound runs. With no position free or nothing to take, no request is taken; a
core that begins no pound, and a device that is not READY, takes none. -/
def Obligations.PoundTakes : Prop :=
  ∀ (s : State) (p : CoreId),
    let hit := (s.pickExpress p (s.candidates p)).1
    let s1 := s.each (s.pickExpress p (s.candidates p)).2 (fun t r => t.modReq r (fun q => { q with causes := q.causes ||| 2 }))
    (s.issues = false ∨ s.poundAt p = none → exec (.poundTake p) s = .next s) ∧
    (s.issues = true → s.poundAt p ≠ none →
      (∀ c pos, hit = some c → (s1.pound p).freePos true = some pos →
        exec (.poundTake p) s = .next ((s1.takeEntry p pos c).ownNext s1.net.own.length)) ∧
      (hit = none ∨ (s1.pound p).freePos true = none →
        ((s1.pound p).freePos false = none → exec (.poundTake p) s = .next s1) ∧
        (s1.pickOther p (s.candidates p) = none → exec (.poundTake p) s = .next s1) ∧
        (∀ pos c s2, (s1.pound p).freePos false = some pos → s1.pickOther p (s.candidates p) = some (c, s2) →
          exec (.poundTake p) s = .next ((s2.takeEntry p pos c).ownNext s2.net.own.length)))) ∧
    (∀ c pos v set copyB, s.bindFor p c.2 = some (v, set, copyB) → NMap.sorted (s.pound p).service = true →
      ∃ u : State, s.takeEntry p pos c = u.forwardNext ∧
      (u.sent? p pos).map (fun n => (n.req, n.saddr, n.nent, n.next, n.runs)) =
        some (c.2.req, c.2.saddr, c.2.nent, 0, []) ∧ (u.req c.2.req).version = some v)

/-! ### Queues -/

/-- R202, R221, QUE_DB_SQ_TAIL_WRITE and QUE_DB_CQ_HEAD_WRITE: a tail doorbell in range of an enabled local queue makes the
new submissions one batch and changes no other queue; one out of range, of a remote or a disabled queue is discarded with
CFG_WRITE_IGNORED, cause 4, and one with a reserved bit with cause 2. A head doorbell in range frees ring space, and the
records that fit are written. R178, R179, R202: a completion record of an enabled queue with room in its ring in device
memory is written, all 64 bytes of it, at the tail of the ring and nowhere else, and the tail moves on by one modulo the ring
size. -/
def Obligations.Doorbells : Prop :=
  (∀ (s : State) (path : Path) (q : QId) (v : Word), s.Inv →
     (s.answers path .db = false → exec (.queDbSqTailWrite path q v) s = .next s ∧ exec (.queDbCqHeadWrite path q v) s = .next s) ∧
     (s.answers path .db = true → 65536 ≤ v.toNat →
       exec (.queDbSqTailWrite path q v) s = .next (s.ignored path (Reg.queDbSqTail.addr q 0) 2) ∧
       exec (.queDbCqHeadWrite path q v) s = .next (s.ignored path (Reg.queDbCqHead.addr q 0) 2)) ∧
     (s.answers path .db = true → v.toNat < 65536 →
     let x := s.queue q
     ((x.st ≠ .enabled ∨ x.sqSize ≤ v.toNat ∨ x.remote.isSome = true) → exec (.queDbSqTailWrite path q v) s =
       .next (s.ignored path (Reg.queDbSqTail.addr q 0) 4)) ∧
     (x.st = .enabled → v.toNat < x.sqSize → x.remote = none → ∃ t, exec (.queDbSqTailWrite path q v) s = .next t ∧
       (t.queue q).sqTail = v.toNat ∧ (t.queue q).rung = true ∧ (t.queue q).sqHead = x.sqHead ∧
       (t.queue q).batches = x.batches ++ (if (v.toNat + x.sqSize - x.sqTail) % x.sqSize = 0 then []
         else [(s.nextBatch, (v.toNat + x.sqSize - x.sqTail) % x.sqSize)]) ∧
       (∀ i, i ≠ q.val → t.queue i = s.queue i) ∧ t.mem = s.mem ∧ t.host = s.host) ∧
     ((x.st ≠ .enabled ∨ x.cqSize ≤ v.toNat) → exec (.queDbCqHeadWrite path q v) s =
       .next (s.ignored path (Reg.queDbCqHead.addr q 0) 4)) ∧
     (x.st = .enabled → v.toNat < x.cqSize → exec (.queDbCqHeadWrite path q v) s =
       .next ((s.modQueue q (fun x => { x with cqHead := v.toNat })).cqFlush q x.records) ∧
       (x.held = [] → ∃ t, exec (.queDbCqHeadWrite path q v) s = .next t ∧ (t.queue q).cqHead = v.toNat ∧ t.mem = s.mem)))) ∧
  (∀ (s : State) (batch : Nat) (c : Cpl), s.Inv → s.net.rets.find? (fun t => t.1 = batch) = none →
     let x := s.queue c.queue
     x.st = .enabled → x.held = [] → x.owed = [] → x.cqFull = false → x.cqHost = false → s.ringCause false x = 0 →
     let t := s.putCpl batch c
     (∀ i, i < 64 → t.mem.get 0 (x.cqBase + 64 * x.cqTail + i) = (c.bytes s.time).getD i 0) ∧
     (∀ b, (b < x.cqBase + 64 * x.cqTail ∨ x.cqBase + 64 * x.cqTail + 64 ≤ b) → t.mem.get 0 b = s.mem.get 0 b) ∧
     (t.queue c.queue).cqTail = (x.cqTail + 1) % x.cqSize ∧ (t.queue c.queue).held = [] ∧
     (∀ i, i ≠ c.queue → t.queue i = s.queue i))

/-- R206, R207, R396, CREATE, QUEUE_RESET, DESTROY and QUEUE_DRAIN_DONE: CREATE reads a valid descriptor of a disabled queue
and enables it with every index 0 and RESULT 0; a bad descriptor has RESULT 1, an EXPRESS budget that does not fit RESULT 2
and an unreadable table RESULT 4; a command before READY or on a queue in the wrong state has RESULT 3. RESET and DESTROY
drain an enabled queue, and once no request and no record of it is left it is enabled again with every index 0, or disabled,
and the command is DONE if it is the last one given. R203 to R205, R213, SUBMISSION_READ and QUEUE_STALL_RESUME: the device
reads the submission at the head of the next queue's ring and moves the head on; a bad field, an unreadable or bad route and
a stream that is not bound are answered with a record, a good submission enters the basin of the model's first pound. A ring
that cannot be read stalls the queue, which resumes once the access succeeds. With no queue to read, and on a queue without a
stall, nothing happens. -/
def Obligations.Queues : Prop :=
  (∀ (s : State) (path : Path) (q : QId), s.Inv →
     (s.answers path .que = false → exec (.create path q) s = .next s ∧ exec (.queueReset path q) s = .next s ∧
       exec (.destroy path q) s = .next s) ∧
     (s.answers path .que = true →
       let tab := s.rdPair .queTableLo .queTableHi + 64 * q.val
       ((s.up = false ∨ (s.queue q).st ≠ .disabled) → exec (.create path q) s = .next (s.queResult q 3 true)) ∧
       (∀ d, s.up = true → (s.queue q).st = .disabled → s.readDev tab 64 = some d →
         (descOk d = false → exec (.create path q) s = .next (s.queResult q 1 true)) ∧
         (descOk d = true → ((queueOf d).cls ≠ 0 ∨ s.budget (queueOf d) = none) → ∃ t, exec (.create path q) s = .next t ∧
           t.queue q = queueOf d ∧ t.rd .queCmdStatus = q.val + 2 ^ 31 ∧ (∀ i, i ≠ q.val → t.queue i = s.queue i) ∧
           t.mem = s.mem) ∧
         (∀ b sum x, descOk d = true → (queueOf d).cls = 0 → s.budget (queueOf d) = some (b, sum, x) → exec (.create path q) s =
           .next (((s.queResult q 2 true).flag .queEvent 0 2).raise
             (evQueue 0x1202 1 q (q.val + 65536 * b + 2 ^ 24 * sum))))) ∧
       (s.up = true → s.readDev tab 64 = none → (s.queue q).st = .disabled →
         exec (.create path q) s = .next ((s.ueRead false tab 64).queResult q 4 true)) ∧
       ((s.up = false ∨ (s.queue q).st ≠ .enabled) → exec (.queueReset path q) s = .next (s.queResult q 3 true) ∧
         exec (.destroy path q) s = .next (s.queResult q 3 true)) ∧
       (s.up = true → (s.queue q).st = .enabled →
         (∃ t, exec (.queueReset path q) s = .next t ∧ (t.queue q).st = .draining ∧ (t.queue q).destroying = false ∧
           t.rd .queCmdStatus = q.val) ∧
         (∃ t, exec (.destroy path q) s = .next t ∧ (t.queue q).st = .draining ∧ (t.queue q).destroying = true ∧
           t.rd .queCmdStatus = q.val))) ∧
     (let left := s.reqs.any (fun e => e.2.live && decide (e.2.queue = q.val))
      ((s.alive = false ∨ (s.queue q).st ≠ .draining ∨ (s.queue q).held ≠ [] ∨ (s.queue q).owed ≠ [] ∨ left = true) →
         exec (.queueDrainDone q) s = .next s) ∧
      (s.alive = true → (s.queue q).st = .draining → (s.queue q).held = [] → (s.queue q).owed = [] → left = false →
         ∃ t, exec (.queueDrainDone q) s = .next t ∧
         t.rd .queCmdStatus = (if s.rd .queCmdStatus = q.val then q.val + 2 ^ 31 else s.rd .queCmdStatus) ∧
         (t.queue q).st = (if (s.queue q).destroying then .disabled else .enabled) ∧ (t.queue q).sqHead = 0 ∧
         (t.queue q).sqTail = 0 ∧ (t.queue q).cqHead = 0 ∧ (t.queue q).cqTail = 0 ∧ (t.queue q).stall = 0 ∧
         (∀ i, i ≠ q.val → t.queue i = s.queue i) ∧ t.mem = s.mem))) ∧
  (∀ (s : State),
     ((s.alive = false ∨ s.nextQueue = none) → exec .submissionRead s = .next s) ∧
     (∀ q, s.nextQueue = some q → (s.model (s.queue q).model).firstPound = none → exec .submissionRead s = .next s) ∧
     (∀ (q p : Nat), s.alive = true → s.nextQueue = some q → (s.model (s.queue q).model).firstPound = some p →
       let x := s.queue q
       let a := x.sqBase + 32 * x.sqHead
       (s.ringCause true x ≠ 0 → exec .submissionRead s =
         .next ((if x.stall = 0 then s.ueRead x.sqHost a 32 else s).stallQueue q (s.ringCause true x))) ∧
       (s.ringCause true x = 0 →
         let d := if x.sqHost then s.hostBytes a 32 else s.bytesAt a 32
         ∃ t : State, exec .submissionRead s = .next (t.takeSub q p (((x.batches.head?).map (·.1)).getD 0) d) ∧
           t.queues = s.queues.set {} q { x with
             sqHead := (x.sqHead + 1) % x.sqSize,
             batches := match x.batches with
               | (b, n) :: bs => if n ≤ 1 then bs else (b, n - 1) :: bs
               | [] => [] } ∧
           t.rrLast = (if x.cls = 0 then s.rrLast else q) ∧ t.mem = s.mem ∧ t.regs = s.regs)) ∧
     (∀ (q p batch : Nat) (d : List Byte),
       let n := if bit (leAt d 12 1) 3 then leAt d 13 1 else 0
       let route := if n = 0 then some [] else s.readDev (leAt d 16 8) (16 * n)
       (∀ o, subFault d = some o → s.takeSub q p batch d = s.answerSub q batch 0x11 (0x100 + o) 0 0) ∧
       (subFault d = none → route = none →
         s.takeSub q p batch d = (s.ueRead false (leAt d 16 8) (16 * n)).answerSub q batch 0x17 0 0 0) ∧
       (∀ rs, subFault d = none → route = some rs →
         let els := chunks 16 n rs
         let r := s.reqOf q batch d (els.map routeOf)
         (els.any (fun e => !routeOk e) = true → s.takeSub q p batch d = s.answerSub q batch 0x11 0x110 0 0) ∧
         (els.any (fun e => !routeOk e) = false → r.strm = true → (s.ctx r.stream).st ≠ .bound →
           s.takeSub q p batch d = s.answerSub q batch 0x26 r.stream 1 r.stream) ∧
         (els.any (fun e => !routeOk e) = false → (r.strm = false ∨ (s.ctx r.stream).st = .bound) →
           s.takeSub q p batch d = s.admitReq p { r with
             version := s.batchVersion batch, setNo := s.bound.get 0 batch % 16 } false))) ∧
     (∀ i : QId,
       let x := s.queue i
       let bad := if x.stall = 2 then s.ringCause false x else if x.stall = 1 then s.ringCause true x
         else max (s.ringCause true x) (s.ringCause false x)
       ((s.alive = false ∨ x.stall = 0 ∨ bad ≠ 0) → exec (.queueStallResume i) s = .next s) ∧
       (s.alive = true → x.stall ≠ 0 → bad = 0 → exec (.queueStallResume i) s =
         .next ((s.modQueue i (fun x => { x with stall := 0 })).cqFlush i x.records))))

/-! ### Streams and adapters -/

/-- R208: a context that changes is written through, all 128 bytes of it, to its place in the context table, and no other
byte of memory and no other context changes. R209, R210, R395, BIND, LOOKUP, RETIRE, STREAM_RETIRE_COMPLETE and
STREAM_RELEASE: the life of a context. BIND refuses pack identifier 0 with CODE 5 and one that is bound already with CODE 1,
and else binds a free context with STEP 0 and an adapter slot, or answers CODE 2 when there is none; LOOKUP answers the
context of a pack; RETIRE moves a BOUND context to RETIRING, which becomes RETIRED when no request of it is in flight;
RELEASE frees a RETIRED one; any other state, and any command before READY, is refused with CODE 4. -/
def Obligations.ContextLife : Prop :=
  (∀ (s : State) (i : Nat) (x : Ctx), s.Inv →
     let a := s.rdPair .stmTableLo .stmTableHi + 128 * i
     let t := s.setCtx i x
     t.ctx i = x ∧ (∀ j, j ≠ i → t.ctx j = s.ctx j) ∧
     (s.inBlocks a 128 = true → ∀ k, k < 128 → t.mem.get 0 (a + k) = x.bytes.getD k 0) ∧
     (∀ b, (b < a ∨ a + 128 ≤ b) → t.mem.get 0 b = s.mem.get 0 b) ∧ t.regs = s.regs ∧ t.arrays = s.arrays) ∧
  (∀ (s : State) (path : Path) (c : CtxId) (reason : Fin 4), s.Inv →
     (s.answers path .stm = false → ∀ x ∈ [Instr.bindCtx path, .lookup path, .retire path c reason, .streamRelease path c],
       exec x s = .next s) ∧
     (s.answers path .stm = true → s.up = false →
       exec (.bindCtx path) s = .next (s.stmResult 0 4) ∧ exec (.lookup path) s = .next (s.stmResult 0 4) ∧
       exec (.retire path c reason) s = .next (s.stmResult c 4) ∧ exec (.streamRelease path c) s = .next (s.stmResult c 4)) ∧
     (s.answers path .stm = true → s.up = true →
       let free := (List.range (s.ctxs.length + 1)).find? (fun i => decide (i < 65536) && decide ((s.ctx i).st = .free))
       (s.packId = 0 → exec (.bindCtx path) s = .next (s.stmResult 0 5)) ∧
       (∀ i, s.packId ≠ 0 → s.ctxOfPack s.packId = some i →
         exec (.bindCtx path) s = .next (s.stmResult i (if (s.ctx i).st = .bound then 1 else 4))) ∧
       (s.packId ≠ 0 → s.ctxOfPack s.packId = none → free = none →
         exec (.bindCtx path) s = .next (((s.stmResult 0 2).flag .stmEvent 0 1).raise (evDev 0x1210 1 0))) ∧
       (∀ i s1, s.packId ≠ 0 → s.ctxOfPack s.packId = none → free = some i → s.takeSlot i = (none, s1) →
         exec (.bindCtx path) s = .next (s1.stmResult 0 2)) ∧
       (∀ i slot s1, s.packId ≠ 0 → s.ctxOfPack s.packId = none → free = some i → s.takeSlot i = (some slot, s1) →
         ∃ t, exec (.bindCtx path) s = .next t ∧ (t.ctx i).st = .bound ∧ (t.ctx i).pack = s.packId ∧ (t.ctx i).step = 0 ∧
           (t.ctx i).inflight = 0 ∧ (t.ctx i).model = s.rf .stmArg 0 15 0 ∧ (t.ctx i).stBlocks = s.rf .stmArg 0 22 16) ∧
       exec (.lookup path) s = .next (match s.ctxOfPack s.packId with
         | some i => s.stmResult i 0
         | none => s.stmResult 0 3) ∧
       ((s.ctx c).st = .bound → ∃ t, exec (.retire path c reason) s = .next t ∧ (t.ctx c).st = .retiring ∧
         (t.ctx c).reason = reason.val ∧ (t.ctx c).step = (s.ctx c).step ∧ (∀ j, j ≠ c.val → t.ctx j = s.ctx j) ∧
         t.queues = s.queues ∧ t.arrays = s.arrays) ∧
       ((s.ctx c).st ≠ .bound → exec (.retire path c reason) s = .next (s.stmResult c 4)) ∧
       ((s.ctx c).st = .retired → ∃ t, exec (.streamRelease path c) s = .next t ∧ (t.ctx c).st = .free ∧ (t.ctx c).pack = 0 ∧
         (∀ j, j ≠ c.val → t.ctx j = s.ctx j)) ∧
       ((s.ctx c).st ≠ .retired → exec (.streamRelease path c) s = .next (s.stmResult c 4))) ∧
     (s.alive = true → (s.ctx c).st = .retiring → (s.ctx c).inflight = 0 → ∃ t, exec (.streamRetireComplete c) s = .next t ∧
       (t.ctx c).st = .retired) ∧
     ((s.alive = false ∨ (s.ctx c).st ≠ .retiring ∨ (s.ctx c).inflight ≠ 0) → exec (.streamRetireComplete c) s = .next s))

/-- R320, ROLLBACK: a rollback of an idle bound context restores the newest readable checkpoint at or below the target step,
whose step becomes the context's; a context that is not bound or has requests in flight is refused with CODE 1, one without
such a checkpoint with CODE 2; while another command of the block runs it is discarded. -/
def Obligations.RollbackRestores : Prop :=
  ∀ (s : State) (path : Path) (c : CtxId), s.Inv →
    (s.answers path .chk = false → exec (.rollback path c) s = .next s) ∧
    (s.answers path .chk = true → s.chkRuns = true →
      exec (.rollback path c) s = .next (s.ignored path (Reg.chkCmd.addr 0 0) 3)) ∧
    (s.answers path .chk = true → s.chkRuns = false →
      let target := s.rd .chkArgLo + 2 ^ 32 * s.rd .chkArgHi
      let fit := (s.ctx c).ckpts.filter (fun e => decide (e.2 / 2 ≤ target) && s.ckptReads c e.1 e.2)
      (((s.ctx c).st ≠ .bound ∨ (s.ctx c).inflight ≠ 0) → exec (.rollback path c) s = .next (s.chkResult 1)) ∧
      ((s.ctx c).st = .bound → (s.ctx c).inflight = 0 → fit = [] → exec (.rollback path c) s = .next (s.chkResult 2)) ∧
      (∀ e es, (s.ctx c).st = .bound → (s.ctx c).inflight = 0 → fit = e :: es → ∃ t, exec (.rollback path c) s = .next t ∧
        (∃ x ∈ fit, (∀ y ∈ fit, y.2 ≤ x.2) ∧ (t.ctx c).step = x.2 / 2 ∧ (t.ctx c).ckptStep = x.2 / 2) ∧
        (t.ctx c).st = .bound ∧ t.arrays = s.arrays))

/-! ### Images and locks -/

/-- R228, R231, R232, R233, R253, R396, RECEIVE, VERIFY and SEND: image commands of a device that is not ready are refused
with RESULT 5. RECEIVE arms the selected model; VERIFY makes the staging state STAGED for an image that passes and BAD for
one that fails, and refuses while an image is being received; SEND sends the staged or received parts of an image whose
header is there without touching memory, refuses an image that is not staged at all, a range outside memory and an offset
that does not begin a segment (which RESULT each of these has is the model's choice, assumption 66). R231, R232, IMG_SEGMENT:
a segment that no model awaits, of another version than the transfer under way, or with a malformed offset or length (the
model's choice, assumption 66), raises IMG_CHAIN_ERROR and stores nothing; an awaited one is forwarded where the chain is on
and stored at its place in the staging space, and the parts it completes are verified; in the state BAD only what a repair
needs is stored. -/
def Obligations.ImageStaging : Prop :=
  (∀ (s : State) (path : Path) (set : Fin 16), s.Inv →
     let all := [Instr.receive path, .verify path, .install path, .lock path false, .lock path true, .loadSet path set, .retry path,
       .discard path, .releaseHold path, .restageRef path, .sendImg path]
     let m := s.imgSel
     (s.answers path .img = false → ∀ c ∈ all, exec c s = .next s) ∧
     (s.answers path .img = true → s.up = false → ∀ c ∈ all, exec c s = .next (s.imgResult 5)) ∧
     (s.answers path .img = true → s.up = true →
       (∃ t, exec (.receive path) s = .next t ∧ (t.model m).sst = .receiving ∧ (t.model m).rxSegs = [] ∧
         (t.model m).rxFirst = none ∧ (t.model m).mst = (s.model m).mst ∧ t.rd .imgCmdStatus = 2 ^ 31 ∧
         (∀ i, i ≠ m → t.model i = s.model i) ∧ t.mem = s.mem ∧ t.arrays = s.arrays) ∧
       ((s.model m).sst = .receiving → exec (.verify path) s = .next (s.imgResult 5)) ∧
       ((s.model m).sst ≠ .receiving → ∃ t, exec (.verify path) s = .next t ∧
         (∀ i, i ≠ m → t.model i = s.model i) ∧ t.mem = s.mem ∧
         (match s.imgVerify s.stage with
           | .ok _ => (t.model m).sst = .staged ∧ t.rd .imgCmdStatus = 2 ^ 31
           | .error e => (t.model m).sst = .bad ∧ (e.result < 2 ^ 31 → t.rd .imgCmdStatus = e.result + 2 ^ 31))) ∧
       (let h := s.bytesAt s.stage blk
        let ready := (s.model m).sst ≠ .idle ∧ s.inBlocks s.stage blk = true ∧ hdrOk h = true ∧
          ((s.model m).sst = .receiving → (s.model m).rxAll 0 1 = true)
        (¬ready → exec (.sendImg path) s = .next (s.imgRefuse m ⟨2, 0, none⟩)) ∧
        (ready → s.inBlocks s.stage (leAt h 32 8) = false → exec (.sendImg path) s = .next (s.imgResult 7)) ∧
        (ready → s.inBlocks s.stage (leAt h 32 8) = true → s.rf .imgArg 0 23 0 % 16 ≠ 0 →
          exec (.sendImg path) s = .next (s.imgResult 1)) ∧
        (ready → s.inBlocks s.stage (leAt h 32 8) = true → s.rf .imgArg 0 23 0 % 16 = 0 →
          ∃ t, exec (.sendImg path) s = .next t ∧ t.rd .imgCmdStatus = 2 ^ 31 ∧ t.mem = s.mem ∧ t.arrays = s.arrays)))) ∧
  (∀ (s : State) (peer : PeerId),
     (s.alive = false ∨ s.nextMsg peer 0x20 = none → exec (.imgSegment peer) s = .next s) ∧
     (∀ ch msg, s.alive = true → s.nextMsg peer 0x20 = some (ch, msg) →
       let p := msg.payload
       let s0 := s.tookMsg peer ch
       let m := leAt p 0 2
       let ver := leAt p 4 4
       let off := leAt p 16 8
       let n := leAt p 24 2
       let bad := (s0.model m).rxFirst.any (· ≠ ver) = true ∨ off % 65536 ≠ 0 ∨ n = 0 ∨ 16 < n
       let s1 := if s0.rb .imgChainCfg 0 0 then s0.chainSend m off p else s0
       ((s0.model m).armed = false → exec (.imgSegment peer) s = .next (s0.imgRaise 3
         (evModel 0x6004 1 m ((if s0.models.any (fun e => e.2.armed) then 1 else 2) + 65536 * off)))) ∧
       ((s0.model m).armed = true → bad →
         exec (.imgSegment peer) s = .next (s0.imgRaise 3 (evModel 0x6004 1 m (1 + 65536 * off)))) ∧
       ((s0.model m).armed = true → ¬bad → (s0.model m).sst = .bad → s0.rxWants m (off / blk) n = false →
         exec (.imgSegment peer) s = .next s1) ∧
       ((s0.model m).armed = true → ¬bad → ((s0.model m).sst ≠ .bad ∨ s0.rxWants m (off / blk) n = true) →
         exec (.imgSegment peer) s = .next
           (((s1.each (List.range n) (fun t i =>
             if t.inBlocks (t.stage + off + blk * i) blk then
               t.putBlock (t.stage + off + blk * i) ((p.drop (32 + 4112 * i)).take blk)
                 (Manifest.ofBytes ((p.drop (32 + 4112 * i + blk)).take 16)) else t)).modModel m (fun y => { y with
             rxFirst := some ver, rxBlocks := y.rxBlocks + n,
             rxSegs := if y.rxSegs.contains (off / blk, n) then y.rxSegs else (off / blk, n) :: y.rxSegs })).rxVerify m
               ver (off / blk) n))))

/-- R228, R234, R235, R238, R251, INSTALL, LOCK and LOAD_SET: one that is accepted moves the model to INSTALLING (SERVING
where no array is to be programmed, STALLED when one cannot take its job), LOCKING or LOADING_SET and answers RESULT 0; one
that is not is refused with the RESULT that says why and leaves the model where it is. R230, R235, R241, R243, RETRY,
DISCARD, RELEASE_HOLD and RESTAGE_REF: RETRY goes on with a stalled or incomplete lock and is refused in any other state;
DISCARD leaves the model ABSENT with no version and no pound; RELEASE_HOLD clears HOLD of a lock under way; RESTAGE_REF makes
the staged image whose digest is the current or the coming version's its reference copy again, and refuses any other. -/
def Obligations.Locks : Prop :=
  (∀ (s : State) (path : Path) (hold : Bool) (set : Fin 16), s.Inv → s.answers path .img = true → s.up = true →
     let m := s.imgSel
     let x := s.model m
     (∀ e, s.imgAccept m false (decide (x.mst = .absent)) = .error e → exec (.install path) s = .next (s.imgRefuse m e)) ∧
     (∀ img, s.imgAccept m false (decide (x.mst = .absent)) = .ok img → ∃ t, exec (.install path) s = .next t ∧
       ((t.model m).mst = .installing ∨ (t.model m).mst = .stalled ∨ (t.model m).mst = .serving) ∧
       (t.model m).cur = some (s.withStats img none) ∧ (t.model m).refCur = true ∧ t.rd .imgCmdStatus = 2 ^ 31) ∧
     (∀ e, s.imgAccept m true (decide (x.mst = .serving)) = .error e → exec (.lock path hold) s = .next (s.imgRefuse m e)) ∧
     (∀ img, s.imgAccept m true (decide (x.mst = .serving)) = .ok img → ∃ t, exec (.lock path hold) s = .next t ∧
       (t.model m).mst = .locking ∧ (t.model m).next = some (s.withStats (img.withCarried x.cur) x.cur) ∧
       (t.model m).cur = x.cur ∧ (t.model m).hold = hold ∧
       (t.model m).pounds = x.pounds.map (fun q => if q.copyB || !img.twin then { q with st := .closing } else q) ∧
       t.rd .imgCmdStatus = 2 ^ 31 ∧ t.mem = s.mem ∧ t.arrays = s.arrays) ∧
     (x.cur = none ∨ x.mst ≠ .serving → exec (.loadSet path set) s = .next (s.imgResult 5)) ∧
     (∀ img, x.cur = some img → x.mst = .serving →
       ((img.reload = false ∨ img.nsets ≤ set) → exec (.loadSet path set) s = .next (s.imgResult 1)) ∧
       (img.reload = true → set.val < img.nsets → ∃ t, exec (.loadSet path set) s = .next t ∧
         (t.model m).mst = .loadingSet ∧ (t.model m).next = some img ∧ (t.model m).nextSet = set.val ∧
         (t.model m).pounds = x.pounds.map (fun q => { q with st := .closing }) ∧ t.rd .imgCmdStatus = 2 ^ 31 ∧ t.mem = s.mem ∧
         t.arrays = s.arrays))) ∧
  (∀ (s : State) (path : Path), s.Inv → s.answers path .img = true → s.up = true →
     let m := s.imgSel
     let x := s.model m
     ((x.mst = .stalled ∨ x.mst = .incomplete) → ∃ t, exec (.retry path) s = .next t ∧ t.rd .imgCmdStatus = 2 ^ 31) ∧
     (x.mst ≠ .stalled → x.mst ≠ .incomplete → exec (.retry path) s = .next (s.imgResult 5)) ∧
     ((x.mst = .serving ∨ x.mst = .stalled ∨ x.mst = .incomplete) → ∃ t, exec (.discard path) s = .next t ∧
       (t.model m).mst = .absent ∧ (t.model m).cur = none ∧ (t.model m).next = none ∧ (t.model m).pounds = [] ∧
       (t.model m).sst = x.sst ∧ (∀ i, i ≠ m → t.model i = s.model i) ∧ t.rd .imgCmdStatus = 2 ^ 31) ∧
     (¬(x.mst = .serving ∨ x.mst = .stalled ∨ x.mst = .incomplete) → exec (.discard path) s = .next (s.imgResult 5)) ∧
     ((x.mst = .locking ∨ x.mst = .stalled) → ∃ t, exec (.releaseHold path) s = .next t ∧ t.model m = { x with hold := false } ∧
       (∀ i, i ≠ m → t.model i = s.model i) ∧ t.rd .imgCmdStatus = 2 ^ 31 ∧ t.mem = s.mem ∧ t.arrays = s.arrays) ∧
     (x.mst ≠ .locking → x.mst ≠ .stalled → exec (.releaseHold path) s = .next (s.imgResult 5)) ∧
     (x.mst = .absent → exec (.restageRef path) s = .next (s.imgResult 5)) ∧
     (x.mst ≠ .absent → x.sst ≠ .staged → exec (.restageRef path) s = .next (s.imgRefuse m ⟨2, 0, none⟩)) ∧
     (∀ e, x.mst ≠ .absent → x.sst = .staged → s.imgVerify s.stage = .error e →
       exec (.restageRef path) s = .next (s.imgRefuse m e)) ∧
     (∀ img, x.mst ≠ .absent → x.sst = .staged → s.imgVerify s.stage = .ok img →
       let isCur := x.cur.any (fun c => c.digest = img.digest)
       let isNext := x.next.any (fun c => c.digest = img.digest)
       (isCur = false → isNext = false → exec (.restageRef path) s = .next (s.imgRefuse m ⟨2, 0, none⟩)) ∧
       (isCur = true ∨ isNext = true → ∃ t, exec (.restageRef path) s = .next t ∧ (t.model m).mst = x.mst ∧
         (t.model m).refCur = (x.refCur || isCur) ∧ (t.model m).refNext = (x.refNext || isNext) ∧
         (∀ c, x.cur = some c → isCur = true → (t.model m).cur = some { c with base := img.base }) ∧
         t.rd .imgCmdStatus = 2 ^ 31)))

/-- R82, R237, R238, R242, R251, LOCK_POUND_DRAINED: while a request of the old version can still reach a closing pound, or a
split sequence runs on one of its arrays, nothing happens; then a pound no layer of which changes opens at once at the new
version, and any other one leaves service and is filled with its tiles. A pound that is not closing, and a model with no
version to come, does nothing. R234, R242, R263, R305, R312, OPENING_CALIBRATION_DONE: an opening calibration without a
readable reference has cause 1; one whose null codes disagree has cause 3 and changes no mask; then its masks are in force,
and one whose fit fails has the cause of the fit, and one that passes gives the array its gains and marks it known good now.
A commanded one reports its result; one of a filling pound, and one of a spare for the lockkeeper, goes to the pound or the
spare; with none of these, and in reset, nothing happens. -/
def Obligations.LockPoundDrains : Prop :=
  (∀ (s : State) (model : ModelId) (p : CoreId),
     let x := s.model model
     ((s.alive = false ∨ x.pound p = none ∨ x.next = none) → exec (.lockPoundDrained model p) s = .next s) ∧
     ∀ (q : PoundLock) (img : Image), s.alive = true → x.pound p = some q → x.next = some img →
       let names := x.lockArrays img q
       let tiles := x.lockTiles img q
       ((q.st ≠ .closing ∨ s.canReach model q = true ∨ names.any (fun t => s.splitHolds t.1 t.2) = true) →
         exec (.lockPoundDrained model p) s = .next s) ∧
       (q.st = .closing → s.canReach model q = false → names.any (fun t => s.splitHolds t.1 t.2) = false →
         (names = [] → exec (.lockPoundDrained model p) s = .next ((((s.modLock model q.first (fun q => { q with
           st := .open_, version := img.version, setNo := x.nextSet })).lockStore).imgRaise 7
             (evPound 0x6013 0 q.first (1 + 2 ^ 32 * img.version))).lockAdvance model)) ∧
         (names ≠ [] → exec (.lockPoundDrained model p) s = .next
           (((s.imgRaise 6 (evPound 0x6012 0 q.first (tiles.length + 2 ^ 32 * img.version))).each names
             (fun t (c, l) => t.unserve c l)).fillPound model q.first 0 tiles false)))) ∧
  ((∀ (s : State) (img : Image) (layer i a : Nat) (cm : CalCodes),
     let fb := blockFb (img.statsOf layer i)
     let s0 := s.count (a / 17) 6 1152
     (s.openRefs img layer i = none → s.openRun img layer i a cm = s.openBad a 1) ∧
     (∀ plane probe, s.openRefs img layer i = some (plane, probe) →
       (nullAgree cm = false → s.openRun img layer i a cm = s0.openBad a 3) ∧
       (nullAgree cm = true →
         let x := openFit fb plane probe cm
         (s.fitCause a fb cm x ≠ 0 → s.openRun img layer i a cm = (s0.nullSwap a fb cm).openBad a (s.fitCause a fb cm x)) ∧
         (s.fitCause a fb cm x = 0 → s.openRun img layer i a cm =
           (0, ((s0.nullSwap a fb cm).setFactors a (s.openFactors a fb cm x).1 (s.openFactors a fb cm x).2 false).modArr a
             (fun y => { y with lastGood := s.time })))))) ∧
   ∀ (s : State) (c : CoreId) (sl : SlotId) (m : CalCodes),
     let a := arrId c sl
     let x := s.core c
     let told := x.openings.contains sl.val
     let own := (s.poundOf c).bind (fun (mo, q) => if q.st = .filling then
       (q.arrays.find? (fun (k, l) => decide (k = c.val) && decide (s.fillArr q k l = a))).map (fun (_, l) => (mo, q, l)) else none)
     (s.alive = false → exec (.openingCalibrationDone c sl m) s = .next s) ∧
     (s.alive = true → (s.arr a).st ≠ .ready → exec (.openingCalibrationDone c sl m) s =
       .next (if told then (s.openResult c sl 2).openFail a 2 else s)) ∧
     (s.alive = true → (s.arr a).st = .ready →
       (told = true → s.openHolder c sl = none →
         exec (.openingCalibrationDone c sl m) s = .next ((s.openResult c sl 1).openFail a 1)) ∧
       (∀ l h, told = true → s.openHolder c sl = some (l, h) →
         let r := s.openRun h.img h.pl.layer h.idx a m
         exec (.openingCalibrationDone c sl m) s = .next (r.2.openResult c sl r.1)) ∧
       (∀ mo q l, told = false → own = some (mo, q, l) →
         exec (.openingCalibrationDone c sl m) s = .next (s.fillCal mo q c l a m)) ∧
       (told = false → own = none → x.noSpare = false → x.spare = sl.val →
         (∀ l, x.autoFor = some l → exec (.openingCalibrationDone c sl m) s = .next (s.spareCal c l true m)) ∧
         (x.autoFor = none → exec (.openingCalibrationDone c sl m) s =
           .next (if x.rotating && !x.replayOn then s.spareCal c x.rotTarget false m else s))) ∧
       (told = false → own = none → (x.noSpare = true ∨ x.spare ≠ sl.val) →
         exec (.openingCalibrationDone c sl m) s = .next s)))

/-! ### Calibration -/

/-- R255, R265: one 1 ms update moves the gain of a column towards the one the model of gains now gives, and by at most 0.01
% of the multiplier in force; a change within that limit is made whole. R82, R259, R271 to R274, CAL_SWITCH_SLOT and
CAL_RAMP_STEP: a pending boundary-class correction falls due when a pass of the set begins or its arrays rest; one that is
due takes effect as a whole at once where the set stands idle (no split sequence, no wave waiting, no conversion), and else
at its slot: the set's gain table becomes the one the model gives with the new factors, a new generation. A gradual one moves
by 1/256 of the way a step and is applied at its 256th step. While the device does not work nothing happens. -/
def Obligations.CorrectionsApply : Prop :=
  (∀ now old new : Nat, now < 65536 → old < 65536 → new < 65536 →
     let d := gainStep now old new
     (min 0 ((new : Int) - old) ≤ d ∧ d ≤ max 0 ((new : Int) - old)) ∧
     ((d : Rat) / 2 ^ 17 ≤ gamma now / 10000 ∧ -(d : Rat) / 2 ^ 17 ≤ gamma now / 10000) ∧
     (((new : Rat) - old) / 2 ^ 17 ≤ gamma now / 10000 → ((old : Rat) - new) / 2 ^ 17 ≤ gamma now / 10000 → d = (new : Int) - old)) ∧
  (∀ (s : State) (c : CoreId) (set : Fin 16), s.Inv → NMap.sorted (s.core c).calSets = true →
     let v := s.cal c set
     let now := v.st = .pending ∧ v.grad = false ∧ v.due = 0 ∧ (s.passBegins c set = true ∨ s.setRests c set = true)
     let ramp := v.st = .ramping ∨ (v.st = .pending ∧ v.grad = true)
     (s.works = false → exec (.calSwitchSlot c set) s = .next s ∧ exec (.calRampStep c set) s = .next s) ∧
     (s.works = true →
       (¬now → exec (.calSwitchSlot c set) s = .next s) ∧
       (now → s.calQuiet c set = false → exec (.calSwitchSlot c set) s = .next (s.setCal c set { v with due := 1 })) ∧
       (now → s.calQuiet c set = true → ∃ t, exec (.calSwitchSlot c set) s = .next t ∧
         (t.cal c set).st = .collect1 ∧ (t.cal c set).active = (s.gainTable c set v.kTo).1 ∧ (t.cal c set).gen = v.gen + 1 ∧
         (t.cal c set).target = [] ∧ t.mem = s.mem) ∧
       (¬ramp → exec (.calRampStep c set) s = .next s) ∧
       (ramp → s.calQuiet c set = false →
         exec (.calRampStep c set) s = .next (s.setCal c set { v with due := v.due + 1 })) ∧
       (ramp → s.calQuiet c set = true → v.due = 0 → (s.rampFor c set).step < 255 → ∃ t, exec (.calRampStep c set) s = .next t ∧
         (t.cal c set).st = .ramping ∧ (t.cal c set).step = (s.rampFor c set).step + 1 ∧ (t.cal c set).gen = v.gen + 1 ∧
         (∀ col, col < 512 →
           let from_ : Int := ((s.rampFor c set).startGain.get 0x8000 col : Nat)
           let to_ : Int := ((s.rampFor c set).target.get 0x8000 col : Nat)
           (((t.cal c set).active.get 0x8000 col : Nat) : Int) =
             max 0 (from_ + rneDiv ((((s.rampFor c set).step + 1 : Nat) : Int) * (to_ - from_)) 256)) ∧
         t.mem = s.mem) ∧
       (ramp → s.calQuiet c set = true → v.due = 0 → (s.rampFor c set).step = 255 → ∃ t, exec (.calRampStep c set) s = .next t ∧
         (t.cal c set).st = .collect1 ∧ (t.cal c set).step = 0 ∧ (t.cal c set).gen = v.gen + 1 ∧ t.mem = s.mem)))

/-- R263, R271, R283, CAL_OPEN, CAL_RESTART and COR_CAL_GAIN_DATA_READ: OPEN of an array that is not READY fails with cause 2
and of one without a reference copy with cause 1, else it waits for its calibration; RESTART discards the windows of the
selected set; a read of CAL_GAIN_DATA returns the active gain word with the target above it and advances COL, from 511 to 0,
when AUTO_INC is 1. A block that does not answer takes nothing and reads 0. -/
def Obligations.CalibrationCommands : Prop :=
  ∀ (s : State) (path : Path) (c : CoreId) (sl : SlotId), s.Inv →
    (s.answers path .cal = false → exec (.calOpen path c sl) s = .next s ∧ exec (.calRestart path c) s = .next s ∧
      exec (.corCalGainDataRead path c) s = .next (s.reply path 0)) ∧
    (s.answers path .cal = true →
      ((s.arr (arrId c sl)).st ≠ .ready → exec (.calOpen path c sl) s =
        .next ((s.openResult c sl 2).openFail (arrId c sl) 2)) ∧
      ((s.arr (arrId c sl)).st = .ready → s.openHolder c sl = none → exec (.calOpen path c sl) s =
        .next ((s.openResult c sl 1).openFail (arrId c sl) 1)) ∧
      ((s.arr (arrId c sl)).st = .ready → s.openHolder c sl ≠ none → ∃ t, exec (.calOpen path c sl) s = .next t ∧
        (t.core c).openings.contains sl.val = true ∧ t.rd .corCalOpenResult c = 256 * sl.val ∧ t.arrays = s.arrays ∧
        t.mem = s.mem) ∧
      (let set := s.rf .corCalSel c 3 0
       let v := s.cal c set
       exec (.calRestart path c) s =
         .next (if v.st = .collect1 ∨ v.st = .collect2 then s.setCal c set v.restart else s) ∧
         v.restart.st = .collect1 ∧ v.restart.taps = [] ∧ v.restart.offs1 = [] ∧ v.restart.active = v.active) ∧
      (∃ t, exec (.corCalGainDataRead path c) s = .next t ∧
        (let col := s.rf .corCalGainAddr c 8 0
         let v := s.cal c (s.rf .corCalGainAddr c 15 12)
         t.tx = s.tx ++ [.data path [BitVec.ofNat 32 (v.active.get 0x8000 col + 65536 *
           (if v.st = .pending ∨ v.st = .ramping then v.target.get 0x8000 col else v.active.get 0x8000 col))] false] ∧
         (s.rb .corCalGainAddr c 16 = true → t.rf .corCalGainAddr c 8 0 = (col + 1) % 512) ∧
         (s.rb .corCalGainAddr c 16 = false → t.regs = s.regs)) ∧ t.cores = s.cores ∧ t.arrays = s.arrays ∧ t.mem = s.mem))

/-- R261, R265, R267, R269 to R271, GAIN_TEMPERATURE_UPDATE, DRIFT_TRACKING_SESSION, CAL_WINDOW_CLOSE and CAL_WINDOW_TIMEOUT:
the 1 ms update visits every set of the core; a drift session whose 128 conversions are made sets the array's drift factor
from their sums (no qualifying pair leaves it, assumption 67); a window closes only when every pair has its samples, and its
end moves a set from COLLECT1 to COLLECT2; the second one rejects with the first failing test (what test 4 and 5 name is
partly free, assumption 15), else its correction is PENDING; a window that stays open for 600 s is discarded with
CAL_STARVED. While the device does not work nothing happens. -/
def Obligations.CalibrationWindows : Prop :=
  ∀ (s : State) (c : CoreId) (set : Fin 16) (sl : SlotId) (refs : List Int), s.Inv → NMap.sorted (s.core c).calSets = true →
    (s.works = false → ∀ x ∈ [Instr.gainTemperatureUpdate c, .driftTrackingSession c sl refs, .calWindowClose c set,
      .calWindowTimeout c set], exec x s = .next s) ∧
    (s.works = true →
    let v := s.cal c set
    let a := arrId c sl
    exec (.gainTemperatureUpdate c) s = .next (s.tempUpdates c) ∧
    ((s.arr a).session = none → exec (.driftTrackingSession c sl refs) s = .next s) ∧
    (∀ n t, (s.arr a).session = some (n, t) →
      let fb := (((s.core (a / 17)).logicalOf (a % 17)).map (s.calFb (a / 17))).getD 0
      (n < 128 → exec (.driftTrackingSession c sl refs) s = .next s) ∧
      (128 ≤ n → exec (.driftTrackingSession c sl refs) s = .next (s.modArr a (fun x => { x with
        rho := s.sessionRho a (s.coupleGains a fb 64 refs) (theta ((t : Rat) / 128)),
        session := none, driftAt := s.time })))) ∧
    (let e := s.estimates c set
     let qs := s.quantGains c set
     let off (k : Nat) : Rat := v.offs1.get 0 k - e.1.get 0 k
     let gain (k : Nat) : Rat := v.gains1.get 1 k / e.2.get 1 k - 1
     let cause := s.windowCause c set e.1 e.2 qs v.zeroMeans s.fresh.1
     ((s.windowFull c set = false ∨ (v.st ≠ .collect1 ∧ v.st ≠ .collect2)) → exec (.calWindowClose c set) s = .next s) ∧
     (s.windowFull c set = true → v.st = .collect1 → exec (.calWindowClose c set) s = .next (s.setCal c set { v.clear with
       st := .collect2, offs1 := e.1, gains1 := e.2, quant1 := qs, zero1 := v.zeroMeans, sat1 := v.tooSat })) ∧
     (s.windowFull c set = true → v.st = .collect2 →
       (∀ n l p, cause = some (n, l, p) → exec (.calWindowClose c set) s = .next (s.fresh.2.calReject c set n l p)) ∧
       (cause = none → ∃ t, exec (.calWindowClose c set) s = .next t ∧ (t.cal c set).st = .pending ∧ t.mem = s.mem)) ∧
     (∀ l p, s.firstPair c set (fun k => decide ((1 : Rat) / 4 < off k) || decide (off k < -(1 : Rat) / 4)) = some (l, p) →
       cause = some (1, l, p)) ∧
     (∀ l p, s.firstPair c set (fun k => decide ((1 : Rat) / 4 < off k) || decide (off k < -(1 : Rat) / 4)) = none →
       s.firstPair c set (fun k => decide ((2 : Rat) / 1000 < gain k) || decide (gain k < -(2 : Rat) / 1000)) = some (l, p) →
       cause = some (2, l, p)) ∧
     ((v.sat1 || v.tooSat) = true → cause ≠ none)) ∧
    ((v.st = .collect1 ∨ v.st = .collect2) → ∃ t, exec (.calWindowTimeout c set) s = .next t ∧
      (t.cal c set).st = .collect1 ∧ (t.cal c set).taps = [] ∧ (t.cal c set).offs1 = [] ∧ t.mem = s.mem ∧ t.arrays = s.arrays) ∧
    (v.st ≠ .collect1 → v.st ≠ .collect2 → exec (.calWindowTimeout c set) s = .next s))

/-! ### Monitor converters -/

/-- R278 to R280, R282, MON_START, MON_MODE_WRITE, MON_FALLBACK_TIMEOUT, MON_TRIGGER and MON_STALE: START converts its
channel, or makes it wait for the conversion in progress, and clears VALID; in sequence mode it only sets the channel.
MON_CTRL sets the mode at once when nothing converts, else when the conversion ends, and is discarded for a reserved value;
without a START the converter falls back to sequence mode; a trigger starts the injected sequence, at once or after the
conversion in progress, runs it once more, or is lost with its flag; and a core temperature older than 10 ms is reported
once. R277 to R281, MON_CONVERSION_DONE: a conversion that ends stores its code with its path and VALID for its channel, is
examined, and the next conversion of its path follows; while no comparator watches the channel and the code is below the
critical temperature, no event is raised. With no conversion under way, and in reset, nothing happens. -/
def Obligations.Monitors : Prop :=
  (∀ (s : State) (path : Path) (mc : MonId) (ch : Fin 64) (v : Word), s.Inv →
     let x := s.mon mc
     (s.answers path .mon = false → exec (.monStart path mc ch) s = .next s ∧ exec (.monModeWrite path mc v) s = .next s) ∧
     (s.answers path .mon = true →
       (monChannels mc ≤ ch.val → exec (.monStart path mc ch) s = .next (s.ignored path (Reg.monSel.addr mc 0) 2)) ∧
       (ch.val < monChannels mc → x.seqMode = true →
         exec (.monStart path mc ch) s = .next ((s.wr .monSel mc 0 ch).ignored path (Reg.monSel.addr mc 0) 3)) ∧
       (ch.val < monChannels mc → x.seqMode = false → ∃ t, exec (.monStart path mc ch) s = .next t ∧
         t.rd .monSel mc = ch.val ∧ t.rb .monData mc 31 = false ∧
         t.mon mc = (if x.main.isSome || x.injPos.isSome then { x with wait := some ch.val }
           else { x with main := some ch.val }) ∧ (∀ i, i ≠ mc.val → t.mon i = s.mon i) ∧ t.mem = s.mem) ∧
       ((v.toNat &&& Reg.monCtrl.mask [.rsv] ≠ 0 ∨ 1 < v.toNat % 4 ∨ fld v.toNat 31 16 < 10) →
         exec (.monModeWrite path mc v) s = .next (s.ignored path (Reg.monCtrl.addr mc 0) 2)) ∧
       (v.toNat &&& Reg.monCtrl.mask [.rsv] = 0 → v.toNat % 4 ≤ 1 → 10 ≤ fld v.toNat 31 16 →
         ∃ t, exec (.monModeWrite path mc v) s = .next t ∧ t.rd .monCtrl mc = v.toNat ∧ (t.mon mc).fallback = false ∧ t.mem = s.mem ∧
           (s.monNow mc = none → (t.mon mc).seqMode = decide (v.toNat % 4 = 1)) ∧
           (s.monNow mc ≠ none → (t.mon mc).seqMode = x.seqMode ∧
             (t.mon mc).newMode = if x.seqMode = decide (v.toNat % 4 = 1) then none else some (decide (v.toNat % 4 = 1))))) ∧
     (s.boot.inReset = true → exec (.monFallbackTimeout mc) s = .next s ∧ exec (.monTrigger mc) s = .next s ∧
       ∀ c : CoreId, exec (.monStale c) s = .next s) ∧
     (s.boot.inReset = false →
       ((x.seqMode = true ∨ x.fallback = true ∨ s.rf .monCtrl mc 1 0 ≠ 0 ∨ s.rb .monCtrl mc 2 = false) →
         exec (.monFallbackTimeout mc) s = .next s) ∧
       (x.seqMode = false → x.fallback = false → s.rf .monCtrl mc 1 0 = 0 → s.rb .monCtrl mc 2 = true →
         ∃ t, exec (.monFallbackTimeout mc) s = .next t ∧ (t.mon mc).fallback = true ∧
           (s.monNow mc = none → (t.mon mc).seqMode = true) ∧ (s.monNow mc ≠ none → (t.mon mc).newMode = some true) ∧
           t.mem = s.mem) ∧
       (x.injPos = none → x.injStart = false → exec (.monTrigger mc) s =
         .next (s.setMon mc (if (s.monNow mc).isSome then { x with injStart := true } else { x with injPos := some 0 }))) ∧
       (x.injPos ≠ none → x.injMore = false → exec (.monTrigger mc) s = .next (s.setMon mc { x with injMore := true })) ∧
       ((x.injPos ≠ none ∧ x.injMore = true) ∨ (x.injPos = none ∧ x.injStart = true) →
         exec (.monTrigger mc) s = .next (s.flag .monEvent mc 4)) ∧
       (∀ c : CoreId, (s.stale.contains c.val = true → exec (.monStale c) s = .next s) ∧
         (s.stale.contains c.val = false → ∃ t, exec (.monStale c) s = .next t ∧ t.stale = c.val :: s.stale ∧
           t.mons = s.mons ∧ t.mem = s.mem)))) ∧
  (∀ (s : State) (mc : MonId) (code : Fin 4096), s.Inv →
     (s.boot.inReset = true ∨ s.monNow mc = none → exec (.monConversionDone mc code) s = .next s) ∧
     (∀ p ch, s.boot.inReset = false → s.monNow mc = some (p, ch) →
       exec (.monConversionDone mc code) s = .next ((s.monStore mc p ch code).monNext mc p) ∧
       (ch < 64 → (∀ k, k < 16 → bit (s.rd .monWinCfg mc k) 16 = false) →
         (isTemp mc ch = true → tempOf code < (16 * s.rf .pwrCfg 0 15 8 : Nat)) →
         let t := (s.monStore mc p ch code).monNext mc p
         t.rd .monResult mc ch = code.val + 4096 * p + 2 ^ 31 ∧ (p = 0 → t.rd .monData mc = code.val + 65536 * ch + 2 ^ 31) ∧
         t.ev = s.ev ∧ t.arrays = s.arrays ∧ t.mem = s.mem)))

/-! ### Replica groups -/

/-- R348, R356, JOIN, LEAVE and EXPEL: JOIN of an idle member forms a group with it alone as member and says so to the
others; it is refused with code 1 in any other state, and with code 2 where checkpoints are on with another interval; LEAVE
returns to IDLE; EXPEL is refused for a device that is no current member, is told to the other members, and a member expelled
by an operator leaves at once, itself in EXPELLED. R346, R348, R355, GROUP_HELLO, LEAVE_MESSAGE, EXPEL_MESSAGE and SYNC_CTX:
what the messages of a group do at a member. A forming member answers the first hello of each other one, and with the last
the group forms; a hello of another configuration is reported; one of an active member makes a joining device synchronise,
and one of a joining device is answered and noted for a round boundary (what is answered, and which boundary, is assumption
30). A member that leaves is removed; a member is expelled at once by an operator's message and by a strict majority of the
members' ones; a context of a synchronisation is taken when it is one of this device's. A message of another group or of a
sender without standing is taken and changes nothing else. -/
def Obligations.GroupCommands : Prop :=
  (∀ (s : State) (path : Path) (m : Fin 8), s.Inv →
     (s.answers path .tal = false → exec (.join path) s = .next s ∧ exec (.leave path) s = .next s ∧
       exec (.expel path m) s = .next s) ∧
     (s.answers path .tal = true →
       (s.tal.st ≠ .idle → exec (.join path) s = .next (s.talCode 1)) ∧
       (s.tal.st = .idle → (s.rb .chkCkptCfg 0 31 = false ∨ s.rf .chkCkptCfg 0 12 0 = s.rf .talCfg 0 12 0) →
         ∃ t, exec (.join path) s = .next t ∧ t.tal.st = .forming ∧ t.tal.members = [s.talMe] ∧ t.ctxs = s.ctxs ∧ t.mem = s.mem) ∧
       (s.tal.st = .idle → s.rb .chkCkptCfg 0 31 = true → s.rf .chkCkptCfg 0 12 0 ≠ s.rf .talCfg 0 12 0 →
         exec (.join path) s = .next (s.talCode 2)) ∧
       (s.tal.st = .idle → exec (.leave path) s = .next (s.talCode 1)) ∧
       (s.tal.st ≠ .idle → ∃ t, exec (.leave path) s = .next t ∧ t.tal = {} ∧ t.ctxs = s.ctxs ∧ t.mem = s.mem) ∧
       ((s.tal.active = false ∨ s.tal.members.contains m.val = false) → exec (.expel path m) s = .next (s.talCode 1)) ∧
       (s.tal.active = true → s.tal.members.contains m.val = true →
         let told := s.talSend s.talOthers 0x32 (leBytes 1 (s.rf .talGroup 0 7 0) ++ leBytes 1 s.talMe ++ leBytes 1 m ++ [0] ++
           leBytes 8 operatorRound)
         exec (.expel path m) s = .next ((told.talOperator m).talCode 0) ∧
         (m.val = s.talMe → told.talOperator m = told.talExpelled (told.tal.closed - 1) true ∧
           (told.talOperator m).tal.st = .expelled) ∧
         (m.val ≠ s.talMe → told.talOperator m = (told.talRemove [m.val] (told.tal.closed - 1) true).talCheck)))) ∧
  (∀ (s : State) (peer : PeerId),
     (s.alive = false → ∀ x ∈ [Instr.groupHello peer, .leaveMessage peer, .expelMessage peer, .syncCtx peer], exec x s = .next s) ∧
     (s.alive = true →
     (s.nextMsg peer 0x30 = none → exec (.groupHello peer) s = .next s) ∧
     (s.nextMsg peer 0x33 = none → exec (.leaveMessage peer) s = .next s) ∧
     (s.nextMsg peer 0x32 = none → exec (.expelMessage peer) s = .next s) ∧
     (s.nextMsg peer 0x34 = none → exec (.syncCtx peer) s = .next s) ∧
     (∀ ch m, s.nextMsg peer 0x30 = some (ch, m) →
       let s1 := s.tookMsg peer ch
       let i := leAt m.payload 1 1
       let same := leAt m.payload 4 4 = s1.talCrc
       let st := leAt m.payload 2 1
       let enter (t : State) : State := t.modTal (fun t => { t with
         members := if t.members.contains i then t.members else t.members ++ [i] })
       let s2 := (s1.srnSend peer 0 0x30 s1.hello).2
       ((s1.ofGroup m.payload = false ∨ i = s1.talMe ∨ s1.tal.st = .idle ∨ s1.tal.st = .expelled) →
         exec (.groupHello peer) s = .next s1) ∧
       (s1.ofGroup m.payload = true → i ≠ s1.talMe →
         (s1.tal.st = .forming → ¬same → exec (.groupHello peer) s = .next (s1.talRaise 0x3101 2 0 (3 + 256 * 2 ^ i))) ∧
         (s1.tal.st = .forming → same → st = 3 →
           exec (.groupHello peer) s = .next (enter (s1.modTal (fun t => { t with st := .syncing })))) ∧
         (s1.tal.st = .forming → same → st ≠ 3 → exec (.groupHello peer) s =
           .next (if s1.tal.hello.contains i then s1 else (s2.modTal (fun t => { t with hello := i :: t.hello })).talForm)) ∧
         (s1.tal.st = .syncing → exec (.groupHello peer) s = .next (if same ∧ st = 3 then enter s1 else s1)) ∧
         (s1.tal.active = true → st ≠ 1 → exec (.groupHello peer) s = .next s1) ∧
         (s1.tal.active = true → st = 1 → exec (.groupHello peer) s =
           .next (if same ∧ s1.tal.members.contains i = false then s2.modTal (fun t => { t with
             joining := t.joining.filter (fun j => j.1 ≠ i) ++ [(i, s2.joinRound)] }) else s2)))) ∧
     (∀ ch m, s.nextMsg peer 0x33 = some (ch, m) →
       let s1 := s.tookMsg peer ch
       exec (.leaveMessage peer) s = .next (if s1.ofGroup m.payload = true ∧ leAt m.payload 1 1 ≠ s1.talMe then
         (s1.talRemove [leAt m.payload 1 1] 0 false).talCheck else s1)) ∧
     (∀ ch m, s.nextMsg peer 0x32 = some (ch, m) →
       let s1 := s.tookMsg peer ch
       let i := leAt m.payload 2 1
       let v := (leAt m.payload 1 1, i)
       let heard := s1.ofGroup m.payload = true ∧ s1.tal.active = true ∧ s1.tal.members.contains i = true ∧
         s1.tal.members.contains (leAt m.payload 1 1) = true
       let s2 := s1.modTal (fun t => { t with votes := if t.votes.contains v then t.votes else v :: t.votes })
       let n := (s2.tal.votes.filter (fun v => v.2 = i)).length
       (¬heard → exec (.expelMessage peer) s = .next s1) ∧
       (heard → leAt m.payload 4 8 = operatorRound → exec (.expelMessage peer) s = .next (s1.talOperator i)) ∧
       (heard → leAt m.payload 4 8 ≠ operatorRound →
         exec (.expelMessage peer) s = .next (if 2 * n ≤ s1.tal.members.length then s2
           else if i = s1.talMe then s2.talExpelled (leAt m.payload 4 8) false
           else (s2.talRemove [i] (leAt m.payload 4 8) true).talCheck))) ∧
     (∀ ch m, s.nextMsg peer 0x34 = some (ch, m) →
       let s1 := s.tookMsg peer ch
       let c := leAt m.payload 0 2
       let ours := s1.tal.st = .syncing ∧ (s1.ctx c).st = .bound ∧ (s1.ctx c).pack = leAt m.payload 20 16 ∧
         (s1.ctx c).stBlocks = leAt m.payload 2 2
       let w := s1.wireIn (s1.ctx c).stAddr (leAt m.payload 2 2) (m.payload.drop (40 + 16 * 4112))
       let z := w.2.syncAdapter c ((m.payload.drop 40).take (16 * 4112))
       let s4 := (z.2.modCtx c (fun y => { y with step := leAt m.payload 4 8 })).modTal
         (fun t => { t with synced := if t.synced.contains c then t.synced else c :: t.synced })
       (¬ours → exec (.syncCtx peer) s = .next s1) ∧
       (ours → (w.1 = false ∨ z.1 = false) → exec (.syncCtx peer) s = .next z.2) ∧
       (ours → w.1 = true → z.1 = true → exec (.syncCtx peer) s =
         .next (if s4.talCtxs.all s4.tal.synced.contains then s4.talSynced (leAt m.payload 12 8) else s4)))))

/-- R348 to R355, ROUND_CLOSE, TALLY and TALLY_TIMEOUT: a round that is due (the one before decided, every group step of it
done) closes, a lone member's at once decided; a tally of another member for an undecided round is kept, and with the last
one the verdict is formed; so it is without the missing ones when TALLY_TO has passed. When every member's tally agrees, the
member stays (or is again) a MEMBER, the round is agreed, and those whose joining boundary has come become members. Otherwise
the commands do nothing. -/
def Obligations.GroupRounds : Prop :=
  (∀ (s : State) (r : Nat) (p0 : List Byte), s.tal.members ≠ [] →
    (∀ m ∈ s.tal.members, ∃ p, s.tal.tallies.find? (8 * r + m) = some p ∧ tallyCore p = tallyCore p0) →
    let t := s.talVerdict r
    t.tal.st = .member ∧ t.tal.agree = r ∧ t.tal.decided = r + 1 ∧
    t.tal.members = s.tal.members ++
      ((s.tal.joining.filter (fun j => j.2 ≤ r)).map (·.1)).filter (fun m => !s.tal.members.contains m) ∧
    t.tal.joining = s.tal.joining.filter (fun j => r < j.2) ∧ t.ctxs = s.ctxs ∧ t.mem = s.mem) ∧
  ∀ (s : State) (peer : PeerId),
    let r := s.tal.closed
    let steps := if r = 0 then [] else (List.range s.talK).map (fun i => (r - 1) * s.talK + 1 + i)
    let due := s.alive = true ∧ s.tal.active = true ∧ r ≤ s.tal.decided ∧ steps.all s.tal.done.contains = true
    (¬due → exec .roundClose s = .next s) ∧
    (due → s.tal.members.length ≤ 1 → s.tal.decided = r →
      ∃ t, exec .roundClose s = .next t ∧ t.tal.closed = r + 1 ∧ t.tal.decided = r + 1 ∧ t.tal.acc = 0 ∧ t.tal.updates = 0 ∧
        t.tal.agree = r ∧ t.tal.st = .member ∧ t.mem = s.mem ∧ t.ctxs = s.ctxs) ∧
    (due → 1 < s.tal.members.length →
      ∃ u : State, exec .roundClose s = .next u.talCheck ∧ u.tal.closed = r + 1 ∧ u.tal.acc = 0 ∧ u.tal.updates = 0 ∧
        u.tal.sentAt = s.time ∧ u.tal.decided = s.tal.decided ∧ u.tal.members = s.tal.members ∧ u.ctxs = s.ctxs) ∧
    (s.alive = false ∨ s.nextMsg peer 0x31 = none → exec (.tally peer) s = .next s) ∧
    (∀ ch m, s.alive = true → s.nextMsg peer 0x31 = some (ch, m) →
      let s1 := s.tookMsg peer ch
      let i := leAt m.payload 1 1
      ((s1.ofGroup m.payload = false ∨ s1.tal.active = false ∨ s1.tal.members.contains i = false ∨ i = s1.talMe ∨
        leAt m.payload 8 8 < s1.tal.decided) → exec (.tally peer) s = .next s1) ∧
      (s1.ofGroup m.payload = true → s1.tal.active = true → s1.tal.members.contains i = true → i ≠ s1.talMe →
        s1.tal.decided ≤ leAt m.payload 8 8 → exec (.tally peer) s = .next ((s1.modTal (fun t => { t with
          tallies := t.tallies.set [] (8 * leAt m.payload 8 8 + i) m.payload })).probeLog m.payload).talCheck)) ∧
    (let past := s.alive = true ∧ s.tal.active = true ∧ 1 < s.tal.members.length ∧ s.tal.decided < s.tal.closed ∧
       s.tal.sentAt + 1000000 * s.rf .talTime 0 7 0 ≤ s.time
     (¬past → exec .tallyTimeout s = .next s) ∧ (past → exec .tallyTimeout s = .next (s.talVerdict s.tal.decided)))

/-! ### The network -/

/-- R360, R361, RX_FRAME, ETH_LINK_UP and ETH_LINK_DOWN: a port that is up counts the codewords FEC corrected and lost and
each frame; a frame longer than 9,216 bytes, shorter than an Ethernet header or for another station is dropped and counted,
an IPv4, IPv6 or ARP frame, VLAN-tagged or not, goes on to its protocol, a PTP frame is taken while the time base is on, and
any other type is dropped. A port that its configured mode forms comes up with ETH_LINK_UP and sends what waited for it; one
that was up goes down with ETH_LINK_DOWN. In a power state without the ports, and of a port that is down (or, coming up, up
or not formed), nothing happens. -/
def Obligations.EthernetPorts : Prop :=
  ∀ (s : State) (port : PortId), s.Inv →
    (s.alive = false → (∀ f, exec (.rxFrame port f) s = .next s) ∧ exec (.ethLinkUp port) s = .next s ∧
      exec (.ethLinkDown port) s = .next s) ∧
    (s.alive = true →
    (s.linkUp port = false → ∀ f, exec (.rxFrame port f) s = .next s) ∧
    (s.linkUp port = true → ∀ (f : List Byte) (fixed lost : Nat), (s.fecCount port fixed lost).linkUp port = true ∧
      let s0 := s.fecCount port fixed lost
      let s1 := ((s0.count (ctrPort port) 0 1).count (ctrPort port) 1 (f.length + 4)).winCount (2 * port) (f.length + 4)
      let own := s0.localValid port = true ∧ f.take 6 = s0.srnBytes port 40 6
      let mine := own ∨ ((f.take 1).any (fun b => b.getLsbD 0)) = true
      let fits := f.length ≤ 9212 ∧ 14 ≤ f.length ∧ mine
      let o := if beNat ((f.drop 12).take 2) = 0x8100 then 16 else 12
      let typ := beNat ((f.drop o).take 2)
      let mac := (f.drop 6).take 6
      let run := exec (.rxFrame port ⟨f, fixed, lost⟩) s
      (¬fits → run = .next (s1.dropFrame port)) ∧
      (fits → typ = 0x0800 → run = .next (s1.gotIp4 port mac (f.drop (o + 2)))) ∧
      (fits → typ = 0x86DD → run = .next (s1.gotIp6 port mac (f.drop (o + 2)))) ∧
      (fits → typ = 0x0806 → run = .next (s1.gotArp port (f.drop (o + 2)))) ∧
      (fits → typ = 0x88F7 → run = .next (if s0.rb .tbsCfg 0 0 then s1 else s1.dropFrame port)) ∧
      (fits → typ ∉ [0x0800, 0x86DD, 0x0806, 0x88F7] → run = .next (s1.dropFrame port))) ∧
    ((s.portRate port = none ∨ s.linkUp port = true) → exec (.ethLinkUp port) s = .next s) ∧
    (∀ r, s.portRate port = some r → s.linkUp port = false →
      let s1 := (s.flag .ethPortStatus (port / 4) (2 ^ (port.val % 4))).raise (evIf 0x5001 0 port (port + 256 * r))
      exec (.ethLinkUp port) s = .next (s1.each (s1.net.peers.map (·.1)) (fun t k =>
        if t.peerPort k = port then (t.pump k 0).pump k 1 else t)) ∧ s1.linkUp port = true ∧ s1.net = s.net ∧ s1.mem = s.mem) ∧
    (s.linkUp port = true → exec (.ethLinkDown port) s = .next ((s.wf_ .ethPortStatus (port / 4) (port.val % 4) (port.val % 4) 0).raise
      (evIf 0x5002 1 port port)) ∧ ∃ t, exec (.ethLinkDown port) s = .next t ∧ t.linkUp port = false ∧ t.net = s.net ∧ t.mem = s.mem) ∧
    (s.linkUp port = false → exec (.ethLinkDown port) s = .next s))

/-- R362, R366, R368, R370, R371, R390, OPEN, OPEN_ACK, ACK, CLOSE, OPEN_COMMAND, CLOSE_COMMAND and RELOAD: the states of a
peer. OPEN of a peer that is not OPEN is acknowledged and opens it with its epoch, OPEN with the epoch it has is acknowledged
alone, and OPEN with another one fails the messages in part sent, restarts both channels and reports it; OPEN_ACK opens a
peer that is OPENING or UNREACHABLE; CLOSE fails every message and closes it; ACK acts on an OPEN peer alone. A packet for an
unusable peer is taken and does nothing, and without a packet, or in a power state without the transport, nothing happens.
The commands open a CLOSED peer and close any; RELOAD reads the table from device memory while EN = 0, and is ignored with
cause 3 while EN = 1. R368 to R370, SIRIN_ACK_TIMER, SIRIN_RETX_TIMEOUT, SIRIN_OPEN_RETRY and SIRIN_OPEN_TIMEOUT: the timers
of a peer. Each channel of an OPEN peer that has owed an acknowledgement for 5 µs sends it; the first packet whose timeout
has passed is sent again with its timeout doubled, until RETRY_MAX retransmissions make the peer UNREACHABLE with its
messages failed; OPEN goes out again 1 ms after the last one while the peer is OPENING and every 10 ms while it is
UNREACHABLE; and 100 ms of OPENING make it UNREACHABLE with its messages failed. Before its time, in another state of the
peer or in a power state without the transport each command does nothing. -/
def Obligations.Peers : Prop :=
  (∀ (s : State) (peer : PeerId),
     (s.alive = false → ∀ x ∈ [Instr.openMsg peer, .openAck peer, .ackMsg peer, .closeMsg peer], exec x s = .next s) ∧
     (s.alive = true →
     ((s.takeCtl peer 1).1 = none → exec (.openMsg peer) s = .next s) ∧
     ((s.takeCtl peer 2).1 = none → exec (.openAck peer) s = .next s) ∧
     ((s.takeCtl peer 3).1 = none → exec (.ackMsg peer) s = .next s) ∧
     ((s.takeCtl peer 4).1 = none → exec (.closeMsg peer) s = .next s) ∧
     (∀ k t, s.takeCtl peer 1 = (some k, t) →
       let x := t.peer peer
       let ms := x.ch0.started ++ x.ch1.started
       let again := (t.setPeer peer { x with epoch := k.epoch, ch0 := x.ch0.restart, ch1 := x.ch1.restart }).each ms
         (fun u m => u.msgFailed peer m)
       (t.srnUsable peer = false → exec (.openMsg peer) s = .next t) ∧
       (t.srnUsable peer = true → x.st ≠ .open_ →
         exec (.openMsg peer) s = .next ((t.sirinCtl peer 0 2).peerOpen peer k.epoch).adpSettle) ∧
       (t.srnUsable peer = true → x.st = .open_ → k.epoch = x.epoch →
         exec (.openMsg peer) s = .next (t.sirinCtl peer 0 2).adpSettle) ∧
       (t.srnUsable peer = true → x.st = .open_ → k.epoch ≠ x.epoch → exec (.openMsg peer) s =
         .next ((((again.sirinCtl peer 0 2).raise (evPeer 0x5012 1 peer (peer + 65536 * (ms.length % 65536) + 2 ^ 32 * k.epoch))).pump
           peer 0).pump peer 1).adpSettle)) ∧
     (∀ k t, s.takeCtl peer 2 = (some k, t) →
       ((t.srnUsable peer = false ∨ (t.peer peer).st = .closed ∨ (t.peer peer).st = .open_) → exec (.openAck peer) s = .next t) ∧
       (t.srnUsable peer = true → (t.peer peer).st = .opening ∨ (t.peer peer).st = .unreachable →
         exec (.openAck peer) s = .next (t.peerOpen peer k.epoch))) ∧
     (∀ k t, s.takeCtl peer 3 = (some k, t) →
       ((t.srnUsable peer = false ∨ (t.peer peer).st ≠ .open_) → exec (.ackMsg peer) s = .next t) ∧
       (t.srnUsable peer = true → (t.peer peer).st = .open_ →
         exec (.ackMsg peer) s = .next (t.gotAck peer k.ch k.ack k.sack k.window))) ∧
     (∀ k t, s.takeCtl peer 4 = (some k, t) →
       (t.srnUsable peer = false → exec (.closeMsg peer) s = .next t) ∧
       (t.srnUsable peer = true →
         exec (.closeMsg peer) s = .next (((t.failAll peer).2).modPeer peer (fun x => { ch0 := x.ch0, ch1 := x.ch1 })).adpSettle))) ∧
     (∀ path : Path,
       (s.answers path .srn = false → exec (.openCommand path peer) s = .next s ∧ exec (.closeCommand path peer) s = .next s ∧
         exec (.reload path) s = .next s) ∧
       (s.answers path .srn = true →
       (s.srnUsable peer = true → (s.peer peer).st = .closed → exec (.openCommand path peer) s =
         .next ((s.modPeer peer (fun y => { y with st := .opening, since := s.time, openSent := s.time })).sirinCtl peer 0 1)) ∧
       ((s.srnUsable peer = false ∨ (s.peer peer).st ≠ .closed) → exec (.openCommand path peer) s = .next s) ∧
       exec (.closeCommand path peer) s = .next (if s.srnUsable peer then ((s.sirinCtl peer 0 4).failAll peer).2.modPeer peer
         (fun x => { ch0 := x.ch0, ch1 := x.ch1 }) else s).adpSettle ∧
       let a := s.rdPair .ethSrnTableLo .ethSrnTableHi
       (s.rb .ethSrnCfg 0 16 = true → exec (.reload path) s = .next (s.ignored path (Reg.ethSrnCmd.addr 0 0) 3)) ∧
       (∀ d, s.rb .ethSrnCfg 0 16 = false → s.readDev a 21504 = some d → exec (.reload path) s =
         .next { s with net := { s.net with table := d, peers := s.net.peers.filter (fun e => !e.2.ctl.isEmpty) } }) ∧
       (s.rb .ethSrnCfg 0 16 = false → s.readDev a 21504 = none → exec (.reload path) s = .next (s.ueRead false a 21504))))) ∧
  (∀ (s : State) (peer : PeerId),
     (s.alive = false → (∀ ch, exec (.sirinRetxTimeout peer ch) s = .next s) ∧
       ∀ x ∈ [Instr.sirinAckTimer peer, .sirinOpenRetry peer, .sirinOpenTimeout peer], exec x s = .next s) ∧
     (s.alive = true →
     ((s.peer peer).st = .open_ → exec (.sirinAckTimer peer) s = .next (s.each [0, 1] (fun t ch =>
       let c := (t.peer peer).chan ch
       if 0 < c.owed ∧ c.owedAt + 5000 ≤ t.time then t.sirinCtl peer ch 3 else t))) ∧
     ((s.peer peer).st ≠ .open_ → exec (.sirinAckTimer peer) s = .next s) ∧
     (∀ ch : Fin 2, (∀ o ∈ ((s.peer peer).chan ch).out, s.time < o.sentAt + o.timeout) →
       exec (.sirinRetxTimeout peer ch) s = .next s) ∧
     (∀ (ch : Fin 2) (o : OutPkt), ((s.peer peer).chan ch).out.find? (fun o => o.sentAt + o.timeout ≤ s.time) = some o →
       ((s.peer peer).st ≠ .open_ → exec (.sirinRetxTimeout peer ch) s = .next s.adpSettle) ∧
       ((s.peer peer).st = .open_ → o.retx < s.rf .ethSrnCfg 0 23 20 →
         exec (.sirinRetxTimeout peer ch) s = .next ((((((s.modChan peer ch (fun c => { c with out := c.out.map (fun y =>
           if y.pkt.seq = o.pkt.seq then { y with retx := y.retx + 1, timeout := 2 * y.timeout, sentAt := s.time } else y) })).bump
             .ethSrnRetxCount 0 1).count (ctrPort (s.peerPort peer)) 7 1).sirinData peer ch o.pkt true)).adpSettle)) ∧
       ((s.peer peer).st = .open_ → s.rf .ethSrnCfg 0 23 20 ≤ o.retx →
         exec (.sirinRetxTimeout peer ch) s = .next (((s.failAll peer).2.modPeer peer (fun x => { x with
           st := .unreachable, since := s.time })).raise
             (evPeer 0x5011 1 peer (peer + 65536 * ((s.failAll peer).1 % 2 ^ 32)))).adpSettle)) ∧
     (let x := s.peer peer
      let due := s.srnUsable peer = true ∧ ((x.st = .opening ∧ x.openSent + 1000000 ≤ s.time) ∨
        (x.st = .unreachable ∧ x.since + 10000000 ≤ s.time ∧ x.openSent + 10000000 ≤ s.time))
      (due → exec (.sirinOpenRetry peer) s = .next ((s.modPeer peer (fun y => { y with openSent := s.time })).sirinCtl peer 0 1)) ∧
      (¬due → exec (.sirinOpenRetry peer) s = .next s)) ∧
     (let past := (s.peer peer).st = .opening ∧ (s.peer peer).since + 100000000 ≤ s.time
      (past → exec (.sirinOpenTimeout peer) s = .next ((s.failAll peer).2.modPeer peer (fun x => { x with
        st := .unreachable, since := s.time })).adpSettle) ∧
      (¬past → exec (.sirinOpenTimeout peer) s = .next s))))

/-- R364, R366: a message cut into packets arrives whole. The packets of a message of at most 512 of them, each with at most
n bytes of payload, delivered to an idle channel that expects the first, give one message with the type and the payload that
were sent; a message of a type that this device only sends is taken at once and left out (DEDUCED, assumption 12). -/
def Obligations.PacketsReassemble : Prop :=
  ∀ (typ ch seq n : Nat) (pay : List Byte), ch < 2 → 0 < n → seq < 2 ^ 32 → pay.length ≤ 512 * n →
    let ps := packets typ ch seq n pay
    (ps.length ≤ 512 ∧ ps.flatMap (·.payload) = pay ∧ (∀ p ∈ ps, p.payload.length ≤ n)) ∧
    (({ held := ps, rxNext := seq } : Chan).deliver 513).inbox = (if typ ∈ [0x11, 0x21, 0x23] then [] else [⟨typ, pay, ps.length⟩]) ∧
    (({ held := ps, rxNext := seq } : Chan).deliver 513).held = [] ∧
    (({ held := ps, rxNext := seq } : Chan).deliver 513).rxNext = u32 (seq + ps.length)

/-- R241, R372 to R375, SUBMIT, FORWARD_REQ and REFUSE: what the request messages of a peer do. A SUBMIT for a ring that is
not enabled and on the device's side is refused with cause 3 and one for a full ring with cause 4; an accepted one is
appended as one batch, its COMPLETIONs wanted where it says so. A FORWARD_REQ is taken, waits in its channel, or is refused
with its cause, 1 and 5 with the event of the version and of the block at fault; a REFUSE raises SRN_REFUSED. Without a
message, or in a power state without the transport, nothing happens. -/
def Obligations.RequestMessages : Prop :=
  ∀ (s : State) (peer : PeerId),
    (s.alive = false → ∀ x ∈ [Instr.submit peer, .forwardReq peer, .refuse peer], exec x s = .next s) ∧
    (s.alive = true →
    (s.nextMsg peer 0x10 = none → exec (.submit peer) s = .next s) ∧
    (s.nextMsg peer 0x12 = none → exec (.forwardReq peer) s = .next s) ∧
    (s.nextMsg peer 0x13 = none → exec (.refuse peer) s = .next s) ∧
    (∀ ch m, s.nextMsg peer 0x10 = some (ch, m) →
      let s1 := s.tookMsg peer ch
      let q := leAt m.payload 0 2
      let n := leAt m.payload 2 1
      let x := s1.queue q
      let ours := q < 32768 ∧ x.st = .enabled ∧ x.sqHost = false ∧ x.rung = false
      (¬ours → exec (.submit peer) s = .next (s1.refuse peer ch 0x10 3 0 0)) ∧
      (ours → x.sqSize - 1 - x.unread < n → exec (.submit peer) s = .next (s1.refuse peer ch 0x10 4 0 0)) ∧
      (ours → n ≤ x.sqSize - 1 - x.unread →
        let s2 := s1.each (List.range n) (fun t i =>
          (if t.inBlocks ((t.queue q).sqBase + 32 * (t.queue q).sqTail) 32 then
            t.putMem ((t.queue q).sqBase + 32 * (t.queue q).sqTail) (padTo 32 ((m.payload.drop (8 + 32 * i)).take 32)) else t).modQueue
              q (fun y => { y with sqTail := (y.sqTail + 1) % y.sqSize }))
        let s3 := if bit (leAt m.payload 3 1) 0 = true ∧ n ≠ 0 then
          { s2 with net := { s2.net with rets := (s2.nextBatch, peer.val, ch) :: s2.net.rets } } else s2
        exec (.submit peer) s = .next ((s3.newBatch q n).modQueue q (fun y => { y with remote := some peer.val })).wakeUp)) ∧
    (∀ ch m, s.nextMsg peer 0x12 = some (ch, m) →
      exec (.forwardReq peer) s = .next (match s.forwardReq (some peer.val) m.payload with
      | .ok u => u.tookMsg peer ch
      | .error .wait => s
      | .error (.refuse c) =>
        let u := (s.tookMsg peer ch).refuse peer ch 0x12 c (leAt m.payload 4 4)
          (if leAt m.payload 16 8 ≠ 0 then leAt m.payload 16 8 else leAt m.payload 8 8)
        if c = 1 then u.imgRaise 12 (evModel 0x6018 1 (leAt m.payload 0 2) (leAt m.payload 4 4))
        else if c = 5 then
          match fwdBad m.payload with
          | some (i, k) => u.raise (evPeer 0x4001 2 peer (k + 256 * i))
          | none => u
        else u)) ∧
    (∀ ch m, s.nextMsg peer 0x13 = some (ch, m) → exec (.refuse peer) s = .next ((s.tookMsg peer ch).raise
      (evPeer 0x5014 1 peer (leAt m.payload 0 1 + 256 * leAt m.payload 1 1 + 65536 * peer.val + 2 ^ 32 * leAt m.payload 4 4)))))

/-! ### Time base, PCIe, management port and JTAG -/

/-- R70, R377 to R379, R382, TB_UNLOCKED, TB_LOCKED, PTP_SYNC, PTP_SYNC_TIMEOUT, TBS_CFG_WRITE, PCI_LINK_UP and
PCI_LINK_DOWN: the time base and PCIe. Loss of TB_REF starts holdover, its return ends it, each with its event; a Sync within
100 ns for the sixteenth time running makes PTP SYNCED with the event, one more than 1 µs behind the grandmaster in ACQUIRING
steps the time, one beyond 1 µs loses SYNCED, and 3 s of silence lose ACQUIRING and SYNCED; a write of TBS_CFG starts PTP in
ACQUIRING or turns it off. PCIe comes up in the generations and widths R358 names, with bus mastering on (assumption 13); a
loss of the link clears the MSI-X table and its status. In reset, or where the path or the power state does not reach the
block, nothing happens. -/
def Obligations.TimeBaseAndPcie : Prop :=
  ∀ (s : State), s.Inv →
    (s.boot.inReset = true → exec .tbUnlocked s = .next s ∧ exec .tbLocked s = .next s ∧
      (∀ c, exec (.pciLinkDown c) s = .next s) ∧ ∀ g w, exec (.pciLinkUp g w) s = .next s) ∧
    (s.boot.inReset = false →
      exec .tbUnlocked s = .next (({ s with tb := { s.tb with locked := false, holdover := true, driven := [] } } : State).raise
        (evDev 0x8005 2 0)) ∧
      exec .tbLocked s = .next (({ s with tb := { s.tb with locked := true, holdover := false, driven := [] } } : State).raise
        (evDev 0x8006 0 0))) ∧
    (s.alive = false → (∀ off port, exec (.ptpSync off port) s = .next s) ∧ exec .ptpSyncTimeout s = .next s) ∧
    (s.alive = true → (∀ (port : PortId) (off : Int),
      let good := if off.natAbs ≤ 100 then s.tb.good + 1 else 0
      let s1 : State := { s with tb := { s.tb with offset := off, good := good, lastSync := s.time } }
      let run := exec (.ptpSync off port) s
      let ours := s.tb.ptp ≠ .off ∧ s.rf .tbsCfg 0 11 8 = port
      (¬ours → run = .next s) ∧
      (ours → s.tb.ptp = .acquiring → 16 ≤ good →
        run = .next (({ s1 with tb := { s1.tb with ptp := .synced } } : State).raise (evDev 0x5020 0 (enc 32 off)))) ∧
      (ours → s.tb.ptp = .acquiring → good < 16 → off < -1000 → run = .next { s1 with time := s.time + off.natAbs }) ∧
      (ours → s.tb.ptp = .acquiring → good < 16 → -1000 ≤ off → run = .next s1) ∧
      (ours → s.tb.ptp = .synced → (1000 < off ∨ off < -1000) →
        run = .next (({ s1 with tb := { s1.tb with ptp := .lost, good := 0 } } : State).raise (evDev 0x5021 1 2))) ∧
      (ours → s.tb.ptp = .synced → -1000 ≤ off → off ≤ 1000 → run = .next s1) ∧
      (ours → s.tb.ptp = .lost → run = .next { s1 with tb := { s1.tb with ptp := .acquiring } })) ∧
    (let past := (s.tb.ptp = .acquiring ∨ s.tb.ptp = .synced) ∧ s.tb.lastSync + 3000000000 ≤ s.time
     (past → exec .ptpSyncTimeout s = .next (({ s with tb := { s.tb with ptp := .lost, good := 0 } } : State).raise (evDev 0x5021 1 1))) ∧
     (¬past → exec .ptpSyncTimeout s = .next s))) ∧
    (∀ (path : Path) (v : Word),
      let bad := v.toNat &&& Reg.tbsCfg.mask [.rsv] ≠ 0 ∨ fld v.toNat 4 3 = 3
      (s.answers path .tbs = false → exec (.tbsCfgWrite path v) s = .next s) ∧
      (s.answers path .tbs = true → bad → exec (.tbsCfgWrite path v) s = .next (s.ignored path (Reg.tbsCfg.addr 0 0) 2)) ∧
      (s.answers path .tbs = true → ¬bad → ∃ t, exec (.tbsCfgWrite path v) s = .next t ∧
        t.rd .tbsCfg = v.toNat ∧ t.tb.ptp = (if bit v.toNat 0 then .acquiring else .off) ∧ t.tb.good = 0 ∧ t.tb.lastSync = s.time ∧
        t.time = s.time ∧ t.ev = s.ev ∧ t.mem = s.mem)) ∧
    (s.boot.inReset = false → (∀ cause : Fin 3, ∃ t, exec (.pciLinkDown cause) s = .next t ∧ t.ports.msix = [] ∧ t.ports.pba = [] ∧
      t.dmaUp = false ∧ (cause ≠ 2 → t.pcieUp = false) ∧ (cause = 2 → t.pcieUp = s.pcieUp) ∧ t.mem = s.mem ∧ t.host = s.host) ∧
    ∀ (gen : Fin 6) (width : Fin 16),
      ((gen.val < 3 ∨ width.val ∉ [1, 2, 4, 8]) → exec (.pciLinkUp gen width) s = .next s) ∧
      (3 ≤ gen.val → width.val ∈ [1, 2, 4, 8] → ∃ t, exec (.pciLinkUp gen width) s = .next t ∧
        t.rd .pciStatus = 1 + 2 * gen.val + 16 * width.val + 256 ∧ t.dmaUp = true ∧ t.mem = s.mem ∧ t.host = s.host))

/-- R324, R389, R415, R416, QUOTE, CHAIN, EVENT_DATAGRAM_SEND, SMBUS_BLOCK_READ, BYPASS, IDCODE, SAMPLE/PRELOAD, EXTEST,
CLAMP, HIGHZ, EXTEST_PULSE and EXTEST_TRAIN: the management port, SMBus and JTAG. A well-formed quote request is answered
with a signed quote over its nonce, at most 100 in one second, and a chain request with the chain; the waiting events leave,
at most 44 a datagram, while the datagrams are enabled; an SMBus block read of command 0 is answered and every other
transaction refused, and none is answered in reset; IDCODE shifts its 32 bits out; the boundary register is sampled and
loaded; and the instructions that drive the pins take effect only in reset. R294, R295, R313, RETEST_CORE,
CORE_SELF_TEST_DONE and MEM_SCRUB_PASS: RETEST_CORE starts the self test of a failed core, is refused with CODE 1 for one
that has not failed and ignored while a test runs; a pass returns the core to service and is stored, a failure leaves it
failed with CODE 3. A scrub pass of a memory whose scrubbing is off does nothing; a pass of a controller's memory counts its
blocks, a pass that finds nothing changes no memory, an uncorrectable find marks its line poisoned and raises the event, and
finds outside the memory are no finds. -/
def Obligations.SidePorts : Prop :=
  (∀ (s : State),
     let recent := s.ports.quotes.filter (fun t => s.time < t + 1000000000)
     (∀ d, (s.mgmtUp = false ∨ attestOk d 1 = false ∨ 100 ≤ recent.length) → exec (.quote d) s = .next s) ∧
     (∀ d, s.mgmtUp = true → attestOk d 1 = true → recent.length < 100 →
       ∃ body sig, exec (.quote d) s = .next (({ s with ports := { s.ports with quotes := s.time :: recent } } : State).send
           (.mgmt 47622 (body ++ sig))) ∧
         body = s.quoteBytes (leAt d 5 1) (d.drop 8) ∧ sig = padTo 64 (Config.deviceSign (Sha.sha256 body)) ∧
         body.take 4 = ascii 67 75 65 81 ∧ (body.drop 8).take 32 = (d.drop 8).take 32) ∧
     (∀ d, exec (.chain d) s = .next (if s.mgmtUp && attestOk d 2 then s.send (.mgmt 47622 Config.certChain) else s)) ∧
     ((s.ev.waiting = [] ∨ s.mgmtUp = false ∨ s.rb .chkEvtCfg 0 0 = false) → exec .eventDatagramSend s = .next s) ∧
     (s.ev.waiting ≠ [] → s.mgmtUp = true → s.rb .chkEvtCfg 0 0 = true → ∃ t b, exec .eventDatagramSend s = .next t ∧
       t.ev.waiting = s.ev.waiting.drop 44 ∧ t.tx = s.tx ++ [.mgmt (s.rf .chkEvtCfg 0 31 16) b] ∧
       b.length = 16 + 32 * min 44 s.ev.waiting.length ∧ t.ev.ring = s.ev.ring ∧ t.mem = s.mem) ∧
     (s.boot.inReset = true → ∀ op, exec (.smbusBlockRead op) s = .next s) ∧
     (s.boot.inReset = false → exec (.smbusBlockRead (.blockRead 0)) s = .next (s.send (.smbus (some s.smbusBytes))) ∧
       s.smbusBytes.length = 32 ∧ (∀ c, c ≠ 0 → exec (.smbusBlockRead (.blockRead c)) s = .next (s.send (.smbus none))) ∧
       ∀ b, exec (.smbusBlockRead (.write b)) s = .next (s.send (.smbus none))) ∧
     exec .bypass s = .next { s with ports := { s.ports with tap := .bypass } } ∧
     exec .idcode s = .next { s with ports := { s.ports with tap := .idcode }, tx := s.tx ++ [.jtag (bitsOf 32 idcode)] } ∧
     (∀ bits, exec (.samplePreload bits) s = .next { s with
       ports := { s.ports with tap := .sample, boundary := bits }, tx := s.tx ++ [.jtag s.ports.boundary] }) ∧
     (∀ i ∈ [(Instr.extest, Tap.extest), (.clamp, .clamp), (.highz, .highz), (.extestPulse, .extestPulse),
         (.extestTrain, .extestTrain)],
       exec i.1 s = .next { s with ports := { s.ports with tap := if s.boot.inReset then i.2 else .bypass } })) ∧
  (∀ (s : State) (path : Path) (c : CoreId), s.Inv →
     (s.answers path .chk = false → exec (.retestCore path c) s = .next s) ∧
     (s.answers path .chk = true →
       (s.chkRuns = true → exec (.retestCore path c) s = .next (s.ignored path (Reg.chkCmd.addr 0 0) 3)) ∧
       (s.chkRuns = false → (s.core c).failedCore = false → exec (.retestCore path c) s = .next (s.chkResult 1)) ∧
       (s.chkRuns = false → (s.core c).failedCore = true → ∃ t, exec (.retestCore path c) s = .next t ∧
         (t.core c).retesting = true ∧ t.rd .chkCmdStatus = 2 ^ 30 ∧ (∀ d, d ≠ c.val → t.core d = s.core d) ∧ t.mem = s.mem)) ∧
     (s.alive = false → (∀ p, exec (.coreSelfTestDone c p) s = .next s) ∧ ∀ m f, exec (.memScrubPass m f) s = .next s) ∧
     ((s.core c).retesting = false → ∀ p, exec (.coreSelfTestDone c p) s = .next s) ∧
     (s.alive = true → (s.core c).retesting = true → ∀ p, ∃ t, exec (.coreSelfTestDone c p) s = .next t ∧
       (t.core c).retesting = false ∧ (t.core c).failedCore = ((s.core c).failedCore && !p) ∧
       t.rd .chkCmdStatus = (if p then 0 else 3) + 2 ^ 31 ∧ (∀ d, d ≠ c.val → t.core d = s.core d) ∧ t.mem = s.mem) ∧
     (∀ mem finds, s.alive = true → s.scrubOn mem = false → exec (.memScrubPass mem finds) s = .next s) ∧
     (∀ m : Fin 4, s.alive = true → s.scrubOn (.dram m) = true →
       (exec (.memScrubPass (.dram m) []) s = .next (s.count (ctrMem m) 6 (s.usable / 256))) ∧
       (∀ line b, (s.usable ≤ 64 * line ∨ ctlOf (64 * line) ≠ m) →
         exec (.memScrubPass (.dram m) [⟨line, b⟩]) s = exec (.memScrubPass (.dram m) []) s) ∧
       (∀ line, 64 * line < s.usable → ctlOf (64 * line) = m → s.poison.contains line = false →
         ∃ t, exec (.memScrubPass (.dram m) [⟨line, false⟩]) s = .next t ∧ t.poison = line :: s.poison ∧ t.mem = s.mem ∧
           t.arrays = s.arrays ∧ t.cores = s.cores)) ∧
     (∀ mem, s.alive = true → s.scrubOn mem = true → (∀ m, mem ≠ .dram m) → exec (.memScrubPass mem []) s = .next s))

/-! ### Start-up and power -/

/-- R395, R398, R401, R402, BOOT_CONTAINER_VERIFY and BOOT_COMMIT: boot. A container is verified only when start-up has come
to it and its bank is the one to try; an accepted firmware bundle moves start-up to phase 3 and an accepted configuration
image to phase 4, with their versions shown; a rejected bank A raises its event and leaves bank B to be tried, a rejected
bank B ends in BOOT_FAILED. COMMIT raises the version floors to those of the containers that run, never lowers one, and
provisions the owner. R377, R392, R395, R402, R407, RESET_RELEASE, RESET_ASSERTED and POWER_RESTORE: reset. Releasing it
starts the time from 0 and changes nothing else; asserting it, or PWR_FAIL_N's release in POWER_FAIL, returns everything to
its reset value but the cells and targets of the arrays, the record store's slots, the boot flash and the identity store; a
power-fail store that was running has first run to its end. Out of reset a release does nothing, and so does PWR_FAIL_N's
release in any other state. -/
def Obligations.Boot : Prop :=
  ((∀ (s : State) (cfg bankB : Bool), s.Inv →
     let failedA := if cfg then s.boot.cfgAFailed else s.boot.fwAFailed
     let phase := s.rf .bootStatus 0 3 0
     ((s.boot.inReset = true ∨ s.pwrState ≠ 0 ∨ bankB ≠ failedA ∨ (cfg = true ∧ phase ≠ 3) ∨
       (cfg = false ∧ phase ≠ 1 ∧ phase ≠ 2)) → exec (.bootContainerVerify cfg bankB) s = .next s) ∧
     (s.boot.inReset = false → s.pwrState = 0 → bankB = failedA → (if cfg then phase = 3 else phase = 1 ∨ phase = 2) →
       let i := 2 * b2n cfg + b2n bankB
       let rejected (t : State) : Prop := t.boot.fw = s.boot.fw ∧ t.boot.cfg = s.boot.cfg ∧ (bankB = true → t.pwrState = 5) ∧
         (bankB = false → t.pwrState = 0 ∧ (if cfg then t.boot.cfgAFailed else t.boot.fwAFailed) = true)
       ∃ t, exec (.bootContainerVerify cfg bankB) s = .next t ∧
         t.boot.ident = s.boot.ident ∧ t.mem = s.mem ∧ t.arrays = s.arrays ∧
         match s.bank i with
         | none => rejected t
         | some (base, len) =>
           (s.containerStep cfg base len = 0 → t.rf .bootStatus 0 3 0 = (if cfg then 4 else 3) ∧
             t.rd (if cfg then .lkpCfgVersion else .lkpFwVersion) = (s.containerOf base).version ∧
             (if cfg then t.boot.cfg else t.boot.fw) = some (s.containerOf base)) ∧
           (s.containerStep cfg base len ≠ 0 → rejected t))) ∧
   (∀ (s : State) (path : Path), s.answers path .boot = false → exec (.bootCommit path) s = .next s) ∧
   (∀ (s : State) (path : Path), s.Inv → s.answers path .boot = true → ∃ t, exec (.bootCommit path) s = .next t ∧
     t.boot.ident.fwFloor = max s.boot.ident.fwFloor ((s.boot.fw.map (·.floor)).getD 0) ∧
     t.boot.ident.cfgFloor = max s.boot.ident.cfgFloor ((s.boot.cfg.map (·.floor)).getD 0) ∧
     t.boot.ident.owner = (match s.boot.cfg with
       | some c => if c.hasNext then some c.next else s.boot.ident.owner.orElse (fun _ => some c.keyHash)
       | none => s.boot.ident.owner) ∧
     t.mem = s.mem ∧ t.arrays = s.arrays ∧ t.cores = s.cores)) ∧
  (∀ (s : State),
     (s.boot.inReset = true → exec .resetRelease s = .next { s with boot := { s.boot with inReset := false }, time := 0 }) ∧
     (s.boot.inReset = false → exec .resetRelease s = .next s) ∧
     (s.Inv → ∃ t, exec .resetAsserted s = .next t ∧ t.boot.inReset = true ∧ t.mem = [] ∧ t.regs = [] ∧ t.cores = [] ∧
       t.queues = [] ∧ t.reqs = [] ∧ t.models = [] ∧ t.time = 0 ∧ t.boot.ident = s.boot.ident ∧ t.boot.flash = s.boot.flash ∧
       (∀ a, (t.arr a).cells = (s.arr a).cells ∧ (t.arr a).targets = (s.arr a).targets ∧ (t.arr a).st = .unprogrammed ∧
         (t.arr a).job = none) ∧
       (s.pwrState ≠ 4 → t.recs.slots = s.recs.slots ∧ t.recs.retired = s.recs.retired)) ∧
     (s.pwrState ≠ 4 → exec .powerRestore s = .next s) ∧
     (s.Inv → s.pwrState = 4 → ∃ t, exec .powerRestore s = .next t ∧ t.boot.inReset = false ∧ t.mem = [] ∧ t.regs = [] ∧
       t.pwrState = 0 ∧ t.boot.ident = s.boot.ident ∧ t.boot.flash = s.boot.flash ∧
       (∀ a, (t.arr a).cells = (s.arr a).cells ∧ (t.arr a).targets = (s.arr a).targets)))

/-- R56, R383, R395, R396, MEM_TRAINING_DONE, RECORD_RECALL_DONE, STARTUP_MARGIN_CHECK, DEVICE_READY and
DEVICE_READY_TIMEOUT: the steps of start-up. Training of a controller that is due sets its status word; the fourth of equal
controllers opens memory and starts the tenders' load, and the fourth of unequal ones leaves none trained; recall ends in
phase 5 once every tender has left its load; a margin check takes its array off the list, and more than one weak batch scans
the whole array and refreshes it; DEVICE_READY comes when every enabled port is up, or after 3,000 ms. A step that is not due
does nothing. R262, R312, R403, STARTUP_CALIBRATION and WAKE_CALIBRATION: start-up calibration of an array whose conversions
agree (the null ones with each other, the couples' gains in both windows) brings its masks and factors into force, marks it
calibrated and takes it off the list; one that does not agree is repeated once, and then fails, quarantined. The wake
calibration does the same for the arrays measured that are READY or SERVING, without a repetition (assumption 67), and
entries issue again. What is not due does nothing. -/
def Obligations.StartUp : Prop :=
  (∀ (s : State), s.Inv →
     (∀ (m : Fin 4) (ok : Bool) (rate : Fin 4) (raw : Fin 16) (typ : Bool),
       let w := b2n (ok && decide (rate.val < 3 ∧ 2 ≤ raw.val ∧ raw.val ≤ 5)) + 2 * b2n typ + 4 * rate.val + 16 * raw.val
       let due := s.boot.inReset = false ∧ s.pwrState = 0 ∧ s.rf .bootStatus 0 3 0 = 4 ∧ s.boot.trained.contains m.val = false
       let equal := (∀ i, i < 4 → i ≠ m.val → s.rd .memStatus i = w) ∧ bit w 0 = true
       let run := exec (.memTrainingDone m ok rate raw typ) s
       (¬due → run = .next s) ∧
       (due → s.boot.trained.length ≠ 3 → ∃ t, run = .next t ∧ t.rd .memStatus m = w ∧
         t.boot.trained = m.val :: s.boot.trained ∧ t.cores = s.cores ∧ t.mem = s.mem ∧ t.usable = s.usable) ∧
       (due → s.boot.trained.length = 3 → equal → ∃ t, run = .next t ∧ t.usable = 4096 * memPages raw ∧
         (∀ c, c < 128 → (t.core c).tnd = .loading) ∧ (s.boot.sirin = [] → t.mem = s.mem)) ∧
       (due → s.boot.trained.length = 3 → ¬equal → ∃ t, run = .next t ∧ (∀ i, i < 4 → bit (t.rd .memStatus i) 0 = false) ∧
         t.usable = s.usable ∧ t.cores = s.cores ∧ t.mem = s.mem)) ∧
     (s.recallDue = false → exec .recordRecallDone s = .next s) ∧
     (s.recallDue = true → exec .recordRecallDone s = .next s.recallEnd.regWrites ∧ s.recallEnd.recs.recalled = true ∧
       s.recallEnd.rf .bootStatus 0 3 0 = 5 ∧ s.recallEnd.mem = s.mem ∧
       ∀ a, a ∈ s.recallEnd.boot.toMargin → (s.recallEnd.arr a).st = .ready) ∧
     (∀ (c : CoreId) (sl : SlotId) (weak : Nat),
       ((s.boot.toMargin.contains (arrId c sl) = false ∨ s.pwrState ≠ 0) →
         exec (.startupMarginCheck c sl weak) s = .next s) ∧
       (s.boot.toMargin.contains (arrId c sl) = true → s.pwrState = 0 → ∃ t, exec (.startupMarginCheck c sl weak) s = .next t ∧
         t.boot.toMargin = s.boot.toMargin.filter (· ≠ arrId c sl) ∧
         (1 < weak → (t.arr (arrId c sl)).weak = [] ∧ (t.arr (arrId c sl)).scanPos = 0 ∧ (t.arr (arrId c sl)).scanEnd = s.time) ∧
         (weak ≤ 1 → t.arrays = s.arrays) ∧
         (t.boot.toMargin = [] → s.rf .bootStatus 0 3 0 = 5 → t.rf .bootStatus 0 3 0 = 6) ∧
         (∀ b, b ≠ arrId c sl → t.arr b = s.arr b) ∧ t.mem = s.mem)) ∧
     ((s.startDone = false ∨ s.downPorts ≠ []) → exec .deviceReady s = .next s) ∧
     ((s.startDone = false ∨ s.time < 3000000000) → exec .deviceReadyTimeout s = .next s) ∧
     (s.startDone = true → s.downPorts = [] → ∃ t, exec .deviceReady s = .next t ∧ t.pwrState = 1 ∧ t.up = true ∧
       t.rf .bootStatus 0 3 0 = 7 ∧ t.rf .pwrStatus 0 11 8 = 8 ∧ t.cores = s.cores ∧ t.arrays = s.arrays ∧ t.mem = s.mem) ∧
     (s.startDone = true → 3000000000 ≤ s.time → ∃ t, exec .deviceReadyTimeout s = .next t ∧ t.pwrState = 1 ∧
       t.rf .bootStatus 0 3 0 = 7 ∧ t.cores = s.cores ∧ t.arrays = s.arrays ∧ t.mem = s.mem)) ∧
  (∀ (s : State) (c : CoreId) (sl : SlotId) (m : CalCodes), s.Inv →
     let a := arrId c sl
     let fb := s.slotFb a
     let agree := nullAgree m && gainsAgree (s.coupleGains a fb 512 m.ref1) (s.coupleGains a fb 512 m.ref2)
     let due := s.boot.toCal.contains a = true ∧ s.pwrState = 0 ∧ s.rf .bootStatus 0 3 0 = 6
     (¬due → exec (.startupCalibration c sl m) s = .next s) ∧
     (due →
       (agree = true → exec (.startupCalibration c sl m) s = .next ((s.startConvs a).startCal a m)) ∧
       (agree = false → s.boot.retried.contains a = false → exec (.startupCalibration c sl m) s =
         .next { s.startConvs a with boot := { s.boot with retried := a :: s.boot.retried } }) ∧
       (agree = false → s.boot.retried.contains a = true →
         let s1 := ({ s.startConvs a with boot := { s.boot with
           toCal := s.boot.toCal.filter (· ≠ a), toServe := s.boot.toServe.filter (· ≠ a) } } : State).openFail a 3
         ((s.core c).logicalOf sl = none → exec (.startupCalibration c sl m) s = .next s1) ∧
         (∀ l, (s.core c).logicalOf sl = some l → exec (.startupCalibration c sl m) s =
           .next ((s1.permArr c l 0 0x3FF false 0x7FF).quarantine c l)))) ∧
     ((s.core c).logicalOf sl = none → ∃ t : State, s.startCal a m = t ∧
       (t.arr a).calPass = true ∧ (t.arr a).prov = true ∧ t.boot.toCal = s.boot.toCal.filter (· ≠ a)) ∧
     (∀ ms, (s.pwrState ≠ 1 ∨ s.pwr.waking = false) → exec (.wakeCalibration ms) s = .next s) ∧
     (∀ ms, s.pwrState = 1 → s.pwr.waking = true →
       let u := s.each ms (fun t (a, m) =>
         if (t.arr a).st ≠ .ready ∧ (t.arr a).st ≠ .serving then t
         else if t.startAgrees a (t.slotFb a) m then (t.startConvs a).startCal a m else t.startConvs a)
       exec (.wakeCalibration ms) s = .next { u with pwr := { u.pwr with waking := false } }))

/-- R403, R404, R406, R407, IDLE, WAKE, HALT_RECOVERY, THROTTLE_LEVEL_TICK, POWER_FAIL and HOLDUP_EXHAUSTED: the power
states. IDLE is accepted in READY and WAKE in IDLE, and each is discarded in any other state; HALTED ends in the state it
left once every temperature has been low enough for 100 ms; the throttle level of power rises by one in a millisecond above
the cap, or on a comparator's signal (assumption 68), keeps between 95 % of the cap and the cap, and falls by one every 10 ms
below that; a power failure in a running device ends every wave in flight and begins the store of the records; and when the
hold-up store is exhausted that store stops. Elsewhere the commands do nothing. -/
def Obligations.PowerStates : Prop :=
  ∀ (s : State) (path : Path), s.Inv →
    (s.answers path .pwr = false → exec (.idle path) s = .next s ∧ exec (.wake path) s = .next s) ∧
    (s.answers path .pwr = true →
      (s.pwrState = 1 → exec (.idle path) s = .next (s.setPwr 2).idleSettle ∧ (s.setPwr 2).idleSettle.pwrState = 2 ∧
        (s.entriesRunning = false → (s.setPwr 2).idleSettle.rf .pwrStatus 0 11 8 = 0)) ∧
      (s.pwrState ≠ 1 → exec (.idle path) s = .next (s.ignored path (Reg.pwrCmd.addr 0 0) 3)) ∧
      (s.pwrState = 2 → ∃ t, exec (.wake path) s = .next t ∧ t.pwrState = 1 ∧ t.rf .pwrStatus 0 11 8 = 8 ∧
        t.pwr.waking = true ∧ t.cores = s.cores ∧ t.mem = s.mem) ∧
      (s.pwrState ≠ 2 → exec (.wake path) s = .next (s.ignored path (Reg.pwrCmd.addr 0 0) 3))) ∧
    (let cool := s.boot.inReset = false ∧ s.coolEnough = true ∧ s.pwr.hotAt + 100000000 ≤ s.time ∧ s.pwrState = 3
     (cool → s.pwr.prev < 8 → ∃ t, exec .haltRecovery s = .next t ∧
       t.pwrState = s.pwr.prev ∧ t.cores = s.cores ∧ t.arrays = s.arrays ∧ t.mem = s.mem) ∧
     (¬cool → exec .haltRecovery s = .next s)) ∧
    (s.alive = false → ∀ b, exec (.throttleLevelTick b) s = .next s) ∧
    (s.alive = true →
      let cap := s.rf .pwrCfg 0 27 16 * 1000000000
      let past := cap < s.inputPower ∨ s.thrSignal 4 = true
      let low := 100 * s.inputPower < 95 * cap
      let calm := s.pwr.calm.get 0 4
      let kept (t : State) : Prop := t.cores = s.cores ∧ t.arrays = s.arrays ∧ t.mem = s.mem ∧ t.pwrState = s.pwrState
      (s.time < s.pwr.powerAt + 1000000 → exec (.throttleLevelTick true) s = .next s) ∧
      (s.time < s.pwr.thermAt + 1000000 → exec (.throttleLevelTick false) s = .next s) ∧
      (s.pwr.powerAt + 1000000 ≤ s.time → ∃ t, exec (.throttleLevelTick true) s = .next t ∧ t.pwr.powerAt = s.time ∧
        (past → t.pwr.power = min 4 (s.pwr.power + 1)) ∧
        (¬past → low → calm ≠ 0 → calm + 9999999 ≤ s.time → t.pwr.power = s.pwr.power - 1) ∧
        (¬past → (low → calm = 0 ∨ s.time < calm + 9999999) → t.pwr.power = s.pwr.power) ∧
        t.pwr.thermal = s.pwr.thermal ∧ kept t) ∧
      (s.pwr.thermAt + 1000000 ≤ s.time → ∃ t, exec (.throttleLevelTick false) s = .next t ∧ t.pwr.thermAt = s.time ∧
        t.pwr.power = s.pwr.power ∧ kept t)) ∧
    (s.boot.inReset = true → exec .powerFail s = .next s) ∧
    (s.boot.inReset = false → (s.pwrState = 4 ∨ s.pwrState = 5) → ∃ t, exec .powerFail s = .next t ∧ t.pwrState = s.pwrState ∧
      t.recs = s.recs ∧ t.cores = s.cores ∧ t.arrays = s.arrays ∧ t.mem = s.mem) ∧
    (s.boot.inReset = false → s.pwrState < 4 →
      ∃ t, exec .powerFail s = .next t ∧ t.pwrState = 4 ∧ (∀ c, (t.core c).flying = []) ∧ t.recs.run = none ∧
        t.recs.jobs = s.jobRecs ∧ 3 ∈ t.recs.storing ∧ 2 ∈ t.recs.storing ∧ 0 ∈ t.recs.storing ∧
        (∀ p, p < 128 → s.recs.dirty.contains p = true → p ∈ t.recs.storing) ∧ t.mem = s.mem) ∧
    ((s.pwrState ≠ 4 ∨ s.recs.dead = true ∨ s.recs.storing = []) → exec .holdupExhausted s = .next s) ∧
    (s.pwrState = 4 → s.recs.dead = false → s.recs.storing ≠ [] → ∃ t, exec .holdupExhausted s = .next t ∧
      t.recs.dead = true ∧ t.recs.storing = [] ∧ (∃ p ∈ s.recs.storing, t.recs.torn = some p) ∧ t.mem = s.mem ∧
      t.arrays = s.arrays)

/-! ### The record store -/

/-- R409 to R413, STORE, REC_AUTO_STORE, REC_STORE_DONE and REC_MARGIN_READ: storing. STORE and the periodic store begin with
the dirty pages in ascending order, STORE while busy is discarded; at the end every page of the store is stored or, where its
read-back failed, has its slot retired, with the event: a page goes to the slot that does not hold its newer copy, with the
next SEQ. A margin read stores again the page of each weak valid slot. What is not due, or asked where the block does not
answer, does nothing. R410, R414, R417, UNLOCK_READ, UNLOCK_WRITE, RELOCK, SET_READ_PW, SET_WRITE_PW and REC_DATA_ACCESS:
access to the record store. UNLOCK with the password opens reading or writing, a wrong one counts a failure, and the third
locks the store; RELOCK closes both; a password is set only with both accesses. REC_DATA reads and writes the bytes of the
store when access is granted (the lockkeeper has it always), a refused access changes only its result code, and REC_ADDR then
advances when AUTO_INC is 1. The words of the lockkeeper's own pages, whose bytes the spec does not lay out, are open
(assumption 7). -/
def Obligations.Records : Prop :=
  (∀ (s : State) (path : Path), s.Inv →
     (s.answers path .recs = false → exec (.store path) s = .next s) ∧
     (s.answers path .recs = true →
       (s.recs.busy = true → exec (.store path) s = .next (s.ignored path (Reg.recCmd.addr 0 0) 3)) ∧
       (s.recs.busy = false → exec (.store path) s = .next { s with recs := { s.recs with
         storing := s.recs.dirtyPages, run := some false } })) ∧
     ((s.alive = false ∨ s.recs.busy = true ∨ s.rf .recCfg 0 15 0 = 0 ∨ s.recs.dirtyPages = []) →
       exec .recAutoStore s = .next s) ∧
     (s.alive = true → s.recs.busy = false → s.rf .recCfg 0 15 0 ≠ 0 → s.recs.dirtyPages ≠ [] →
       exec .recAutoStore s = .next { s with recs := { s.recs with storing := s.recs.dirtyPages, run := some true } }) ∧
     (∀ bad, (s.alive = false ∨ s.recs.run = none) → exec (.recStoreDone bad) s = .next s) ∧
     (∀ bad b, s.alive = true → s.recs.run = some b →
       let u := s.each s.recs.storing (fun t p => if bad.contains p then t.retireSlot p else t.storePage p)
       exec (.recStoreDone bad) s = .next (({ u with recs := { u.recs with storing := [], run := none } } : State).raise
         (evDev 0x7004 0 (s.recs.storing.length + 256 * b2n b)))) ∧
     (∀ p b, s.alive = true → s.recs.run = some b → s.recs.storing = [p] → NMap.sorted s.recs.slots = true →
       let (i, n) := s.storeTarget p
       (∃ t, exec (.recStoreDone []) s = .next t ∧ t.recs.run = none ∧ t.recs.storing = [] ∧
         t.slot p i = some ⟨n, true, false, s.payload p⟩ ∧ (p ≠ 1 → t.recs.dirty.contains p = false) ∧
         (∀ k, k ≠ 2 * p + i → t.recs.slots.get none k = s.recs.slots.get none k) ∧ t.recs.retired = s.recs.retired ∧
         t.mem = s.mem ∧ t.arrays = s.arrays) ∧
       (s.recs.retired.contains (2 * p) = false → s.recs.retired.contains (2 * p + 1) = false →
         ∃ t, exec (.recStoreDone [p]) s = .next t ∧ t.recs.retired = (2 * p + i) :: s.recs.retired ∧
           t.recs.slots = s.recs.slots ∧ t.recs.run = none ∧ t.recs.storing = [] ∧ t.mem = s.mem)) ∧
     ((s.alive = false ∨ s.recs.busy = true) → ∀ weak, exec (.recMarginRead weak) s = .next s) ∧
     (s.alive = true → s.recs.busy = false → ∀ weak, exec (.recMarginRead weak) s =
       .next (s.each (weak.filter (fun k => k < 256 && s.slotOk (k / 2) (k % 2))) (fun t k =>
         (t.storePage (k / 2)).raise (evDev 0x7003 0 (k / 2 + 256 * (k % 2))))))) ∧
  (∀ (s : State) (path : Path), s.Inv →
     (s.answers path .recs = false → (∀ x ∈ [Instr.unlockRead path, .unlockWrite path, .relock path, .setReadPw path,
       .setWritePw path], exec x s = .next s) ∧ exec (.recDataAccess path none) s = .next (s.reply path 0) ∧
       ∀ v, exec (.recDataAccess path (some v)) s = .next s) ∧
     (s.answers path .recs = true →
     (∀ write : Bool,
       let c := if write then Instr.unlockWrite path else Instr.unlockRead path
       let want := if write then s.recs.writePw else s.recs.readPw
       ((s.recs.busy = true ∨ s.recs.locked = true) → exec c s = .next (s.ignored path (Reg.recCmd.addr 0 0) 3)) ∧
       (s.recs.busy = false → s.recs.locked = false → (want = none ∨ want = pwDigest s.recs.pw) →
         exec c s = .next { s with recs := { s.recs with
           readOk := s.recs.readOk || !write, writeOk := s.recs.writeOk || write } }) ∧
       (s.recs.busy = false → s.recs.locked = false → want ≠ none → want ≠ pwDigest s.recs.pw → ∃ t, exec c s = .next t ∧
         t.recs.fails = s.recs.fails + 1 ∧ (s.recs.fails < 2 → t.recs.locked = false ∧ t.recs.readOk = s.recs.readOk ∧
           t.recs.writeOk = s.recs.writeOk) ∧
         (2 ≤ s.recs.fails → t.recs.locked = true ∧ t.recs.readOk = false ∧ t.recs.writeOk = false) ∧ t.mem = s.mem)) ∧
     (s.recs.busy = true → exec (.relock path) s = .next (s.ignored path (Reg.recCmd.addr 0 0) 3)) ∧
     (s.recs.busy = false → exec (.relock path) s = .next { s with recs := { s.recs with readOk := false, writeOk := false } }) ∧
     ((s.recs.busy = true ∨ s.recs.mayRead = false ∨ s.recs.mayWrite = false) →
       exec (.setReadPw path) s = .next (s.ignored path (Reg.recCmd.addr 0 0) 3) ∧
       exec (.setWritePw path) s = .next (s.ignored path (Reg.recCmd.addr 0 0) 3)) ∧
     (s.recs.busy = false → s.recs.mayRead = true → s.recs.mayWrite = true →
       (∃ t, exec (.setReadPw path) s = .next t ∧ t.recs.readPw = pwDigest s.recs.pw ∧ t.recs.writePw = s.recs.writePw ∧
         t.recs.readOk = true ∧ t.recs.dirty.contains 0 = true ∧ t.regs = s.regs ∧ t.mem = s.mem) ∧
       (∃ t, exec (.setWritePw path) s = .next t ∧ t.recs.writePw = pwDigest s.recs.pw ∧ t.recs.readPw = s.recs.readPw ∧
         t.recs.writeOk = true ∧ t.recs.dirty.contains 0 = true ∧ t.regs = s.regs ∧ t.mem = s.mem)) ∧
     (let w := s.rf .recAddr 0 18 2
      let moved (n : Nat) (t : State) : Prop := t.recs = { s.recs with acc := n } ∧ t.mem = s.mem ∧
        (s.rb .recAddr 0 31 = true → t.rf .recAddr 0 18 2 = (w + 1) % 131072) ∧ (s.rb .recAddr 0 31 = false → t.regs = s.regs)
      let mayRead := path = .lkp ∨ s.recs.mayRead = true
      let mayWrite := (path = .lkp ∨ s.recs.mayWrite = true) ∧ 112 ≤ w / 1024
      let recalled := s.recs.recalled = true
      let rd := exec (.recDataAccess path none) s
      let wr (v : Word) := exec (.recDataAccess path (some v)) s
      (¬recalled → (∃ t, moved 1 t ∧ rd = .next (t.reply path 0)) ∧ ∀ v, ∃ t, moved 1 t ∧ wr v = .next t) ∧
      (recalled → ¬mayRead → ∃ t, moved 2 t ∧ rd = .next (t.reply path 0)) ∧
      (recalled → mayRead → w / 1024 < 39 → ∃ t v, moved 0 t ∧ rd = .next (t.reply path v)) ∧
      (recalled → mayRead → 39 ≤ w / 1024 → ∃ t, moved 0 t ∧ t.free = s.free ∧
        rd = .next (t.reply path (leNat ((List.range 4).map (fun i => s.recs.user.get 0 (4 * w + i)))))) ∧
      (recalled → ¬mayWrite → ∀ v, ∃ t, moved 2 t ∧ wr v = .next t) ∧
      (recalled → mayWrite → NMap.sorted s.recs.user = true → ∀ v : Word, ∃ t, wr v = .next t ∧
        (∀ i, i < 4 → t.recs.user.get 0 (4 * w + i) = BitVec.ofNat 8 (v.toNat / 256 ^ i)) ∧
        (∀ b, (b < 4 * w ∨ 4 * w + 4 ≤ b) → t.recs.user.get 0 b = s.recs.user.get 0 b) ∧ t.recs.acc = 0 ∧
        t.recs.dirty.contains (w / 1024) = true ∧ t.recs.slots = s.recs.slots ∧ t.mem = s.mem))))

/-! ### Counters, windows and samples -/

/-- R423 to R426, R428, R429, SWEEP_START, PERIODIC_SWEEP, SWEEP_DONE, WINDOW_END, CTR_WIN_CFG_WRITE, CLEAR_PEAK and
SMP_IDX_WRITE: sweeps, windows and samples. A sweep that starts writes its SEQ as all ones into its slot and nowhere else,
one while another runs is discarded (or counted as skipped when periodic), and the end writes its number into CTR_SWEEP_SEQ.
The end of a window, at a whole multiple of its length, starts the first one and then moves each channel's count to LAST, and
to PEAK if it is larger; CLEAR_PEAK zeroes the selected channel's peak; a valid CTR_WIN_CFG starts the windows over; a write
of SMP_IDX brings the sample of that number into the window and releases the older ones. What is not due, or asked where the
block does not answer, does nothing. -/
def Obligations.CountersAndWindows : Prop :=
  ∀ (s : State) (path : Path), s.Inv →
    let slot := (s.sweep.done + 1) % 2 ^ s.rf .ctrSweepCfg 0 23 20
    let begun (t : State) : Prop := t.sweep.running = some (s.time, s.rf .ctrSweepCfg 0 29 24, slot) ∧
      (s.inBlocks (s.sweepSlot slot) 8 = true → ∀ i, i < 8 → t.mem.get 0 (s.sweepSlot slot + i) = 0xFF) ∧
      (∀ b, (b < s.sweepSlot slot ∨ s.sweepSlot slot + 8 ≤ b) → t.mem.get 0 b = s.mem.get 0 b) ∧ t.regs = s.regs ∧ t.ctrs = s.ctrs
    (s.answers path .ctr = false → exec (.sweepStart path) s = .next s) ∧
    (s.answers path .ctr = true →
      (s.sweep.running ≠ none → exec (.sweepStart path) s = .next (s.ignored path (Reg.ctrSweepCmd.addr 0 0) 3)) ∧
      (s.sweep.running = none → ∃ t, exec (.sweepStart path) s = .next t ∧ begun t)) ∧
    ((s.alive = false ∨ s.rf .ctrSweepCfg 0 19 0 = 0 ∨ s.time % (1000 * s.rf .ctrSweepCfg 0 19 0) ≠ 0) →
      exec .periodicSweep s = .next s) ∧
    (s.alive = true → s.rf .ctrSweepCfg 0 19 0 ≠ 0 → s.time % (1000 * s.rf .ctrSweepCfg 0 19 0) = 0 →
      (s.sweep.running = none → ∃ t, exec .periodicSweep s = .next t ∧ begun t) ∧
      (s.sweep.running ≠ none → ∃ t, exec .periodicSweep s = .next t ∧ t.sweep = s.sweep ∧
        t.rf .ctrSweepStatus 0 31 16 = min 0xFFFF (s.rf .ctrSweepStatus 0 31 16 + 1) ∧ t.mem = s.mem)) ∧
    ((s.alive = false ∨ s.sweep.running = none) → exec .sweepDone s = .next s) ∧
    (∀ x, s.alive = true → s.sweep.running = some x → ∃ t, exec .sweepDone s = .next t ∧ t.sweep.running = none ∧
      t.sweep.done = s.sweep.done + 1 ∧ t.rd .ctrSweepSeq = u32 (s.sweep.done + 1) ∧
      t.rf .ctrSweepStatus 0 15 8 = x.2.2 % 256 ∧ t.arrays = s.arrays ∧ t.cores = s.cores) ∧
    (let ends := s.alive = true ∧ s.time % (1000 * s.rf .ctrWinCfg 0 19 0) = 0
     (¬ends → exec .windowEnd s = .next s) ∧
     (ends →
      (s.wins.start = none → exec .windowEnd s = .next { s with wins := { s.wins with start := some s.time } }) ∧
      (∀ t0, s.wins.start = some t0 → NMap.wf (fun _ => {}) s.wins.chans = true → ∃ t, exec .windowEnd s = .next t ∧
        (∀ ch, t.wins.chans.get {} ch = ⟨0, (s.wins.chans.get {} ch).cnt,
          max (s.wins.chans.get {} ch).peak (s.wins.chans.get {} ch).cnt⟩) ∧
        t.wins.start = some s.time ∧ t.wins.idx = u32 (t0 / (1000 * s.rf .ctrWinCfg 0 19 0)) ∧ t.regs = s.regs ∧ t.mem = s.mem))) ∧
    (s.answers path .win = false → (∀ v, exec (.ctrWinCfgWrite path v) s = .next s) ∧ exec (.clearPeak path) s = .next s) ∧
    (s.answers path .win = true →
      (∀ v : Word, (v = 0 ∨ 1000000 < v.toNat) →
        exec (.ctrWinCfgWrite path v) s = .next (s.ignored path (Reg.ctrWinCfg.addr 0 0) 2)) ∧
      (∀ v : Word, v ≠ 0 → v.toNat ≤ 1000000 → ∃ t, exec (.ctrWinCfgWrite path v) s = .next t ∧ t.rd .ctrWinCfg = v.toNat ∧
        t.wins.start = none ∧ t.wins.idx = s.wins.idx ∧ t.mem = s.mem) ∧
      (NMap.sorted s.wins.chans = true → ∃ t, exec (.clearPeak path) s = .next t ∧
        (t.wins.chans.get {} (s.rf .ctrWinSel 0 5 0)) = { s.wins.chans.get {} (s.rf .ctrWinSel 0 5 0) with peak := 0 } ∧
        (∀ ch, ch ≠ s.rf .ctrWinSel 0 5 0 → t.wins.chans.get {} ch = s.wins.chans.get {} ch) ∧ t.regs = s.regs ∧ t.mem = s.mem)) ∧
    (s.answers path .smp = false → ∀ c v, exec (.smpIdxWrite path c v) s = .next s) ∧
    (∀ (c : CoreId) (v : Word), s.answers path .smp = true → ∃ t, exec (.smpIdxWrite path c v) s = .next t ∧
      t.rd .smpIdx c = v.toNat ∧
      (∀ x, (s.core c).samples.find? (fun y => decide (u32 y.seq = v.toNat)) = some x → (t.core c).sampleWin = x.bytes) ∧
      ((s.core c).samples.find? (fun y => decide (u32 y.seq = v.toNat)) = none →
        (t.core c).sampleWin = List.replicate 64 0) ∧
      (t.core c).samples = (s.core c).samples.map (fun y => { y with
        latched := y.latched || decide (u32 y.seq = v.toNat),
        released := y.released || (decide (1 ≤ u32 (v.toNat + 2 ^ 32 - u32 y.seq)) &&
          decide (u32 (v.toNat + 2 ^ 32 - u32 y.seq) < 2 ^ 31)) }) ∧
      (∀ d, d ≠ c.val → t.core d = s.core d) ∧ t.mem = s.mem)
end

