-- ==== Sys2Proof/Laws/NMap.lean ====
section
/-! SUPPORT. Laws of the sparse tables: what a write changes, and that it keeps the canonical form. -/
namespace Sys2Proof.NMap
variable {α : Type}

theorem above_iff {b : Nat} {m : NMap α} : above b m = true ↔ ∀ e ∈ m, b < e.1 := by simp [above]

theorem above_trans {a b : Nat} {m : NMap α} (h : a < b) (hm : above b m = true) : above a m = true :=
  above_iff.2 fun e he => Nat.lt_trans h (above_iff.1 hm e he)

theorem sorted_cons {e : Nat × α} {m : NMap α} : sorted (e :: m) = true ↔ above e.1 m = true ∧ sorted m = true := by
  simp [sorted]

theorem mem_insert {m : NMap α} {i : Nat} {x : α} {e : Nat × α} (h : e ∈ insert m i x) : e = (i, x) ∨ e ∈ m := by
  induction m with
  | nil => simp [insert] at h; exact .inl h
  | cons d m ih =>
    obtain ⟨k, v⟩ := d
    simp only [insert] at h
    split at h
    · grind
    · split at h <;> grind

theorem mem_erase {m : NMap α} {i : Nat} {e : Nat × α} (h : e ∈ erase m i) : e ∈ m := by
  induction m with
  | nil => simp [erase] at h
  | cons d m ih =>
    obtain ⟨k, v⟩ := d
    simp only [erase] at h
    split at h
    · grind
    · split at h <;> grind

theorem sorted_insert {m : NMap α} (i : Nat) (x : α) (h : sorted m = true) : sorted (insert m i x) = true := by
  induction m with
  | nil => simp [insert, sorted, above]
  | cons d m ih =>
    obtain ⟨k, v⟩ := d
    obtain ⟨ha, hs⟩ := sorted_cons.1 h
    simp only [insert]
    split
    · rename_i hk
      exact sorted_cons.2 ⟨hk ▸ ha, hs⟩
    · split
      · rename_i hk
        refine sorted_cons.2 ⟨above_iff.2 fun e he => ?_, h⟩
        rcases List.mem_cons.1 he with rfl | he
        · exact hk
        · exact Nat.lt_trans hk (above_iff.1 ha e he)
      · refine sorted_cons.2 ⟨above_iff.2 fun e he => ?_, ih hs⟩
        rcases mem_insert he with rfl | he
        · simp only; omega
        · exact above_iff.1 ha e he

theorem sorted_erase {m : NMap α} (i : Nat) (h : sorted m = true) : sorted (erase m i) = true := by
  induction m with
  | nil => rfl
  | cons d m ih =>
    obtain ⟨k, v⟩ := d
    obtain ⟨ha, hs⟩ := sorted_cons.1 h
    simp only [erase]
    split
    · exact hs
    · split
      · exact h
      · exact sorted_cons.2 ⟨above_iff.2 fun e he => above_iff.1 ha e (mem_erase he), ih hs⟩

/-- A write keeps the keys rising. -/
theorem sorted_set [DecidableEq α] (d : α) {m : NMap α} (i : Nat) (x : α) (h : sorted m = true) :
    sorted (set d m i x) = true := by
  unfold set
  split
  · exact sorted_erase i h
  · exact sorted_insert i x h

/-- A write with the table's own default keeps the canonical form. -/
theorem wf_set [DecidableEq α] (d : Nat → α) {m : NMap α} (i : Nat) (x : α) (h : wf d m = true) :
    wf d (set (d i) m i x) = true := by
  simp only [wf, Bool.and_eq_true, List.all_eq_true, decide_eq_true_eq] at h ⊢
  refine ⟨sorted_set _ _ _ h.1, fun e he => ?_⟩
  unfold set at he
  split at he
  · exact h.2 e (mem_erase he)
  · rcases mem_insert he with rfl | he
    · assumption
    · exact h.2 e he

/-- A canonical table is in order. -/
theorem sorted_of_wf [DecidableEq α] {d : Nat → α} {m : NMap α} (h : wf d m = true) : sorted m = true := by
  simp only [wf, Bool.and_eq_true] at h
  exact h.1

theorem find?_above {b : Nat} {m : NMap α} (h : above b m = true) : find? m b = none := by
  cases m with
  | nil => rfl
  | cons e m =>
    have := above_iff.1 h e (List.mem_cons_self ..)
    grind [find?]

theorem find?_insert_self (m : NMap α) (i : Nat) (x : α) : find? (insert m i x) i = some x := by
  induction m with
  | nil => simp [insert, find?]
  | cons d m ih =>
    obtain ⟨k, v⟩ := d
    simp only [insert]
    split
    · simp [find?]
    · split
      · simp [find?]
      · grind [find?]

theorem find?_insert_ne {m : NMap α} {i j : Nat} (x : α) (h : j ≠ i) (hs : sorted m = true) :
    find? (insert m i x) j = find? m j := by
  induction m with
  | nil => grind [insert, find?]
  | cons d m ih =>
    obtain ⟨k, v⟩ := d
    obtain ⟨ha, hs'⟩ := sorted_cons.1 hs
    have hlt : ∀ a b, a < b → above b m = true → find? m a = none := fun a b hab hb => find?_above (above_trans hab hb)
    simp only [insert]
    grind [find?]

theorem find?_erase_self {m : NMap α} (i : Nat) (hs : sorted m = true) : find? (erase m i) i = none := by
  induction m with
  | nil => rfl
  | cons d m ih =>
    obtain ⟨k, v⟩ := d
    obtain ⟨ha, hs'⟩ := sorted_cons.1 hs
    simp only [erase]
    split
    · rename_i hk
      exact find?_above (hk ▸ ha)
    · split <;> grind [find?]

theorem find?_erase_ne {m : NMap α} {i j : Nat} (h : j ≠ i) (hs : sorted m = true) : find? (erase m i) j = find? m j := by
  induction m with
  | nil => rfl
  | cons d m ih =>
    obtain ⟨k, v⟩ := d
    obtain ⟨ha, hs'⟩ := sorted_cons.1 hs
    have hlt : ∀ a b, a < b → above b m = true → find? m a = none := fun a b hab hb => find?_above (above_trans hab hb)
    simp only [erase]
    grind [find?]

/-- A read of the key written gives the value written. -/
theorem get_set_self [DecidableEq α] (d : α) {m : NMap α} (i : Nat) (x : α) (hs : sorted m = true) :
    get d (set d m i x) i = x := by
  unfold set get
  split
  · simp_all [find?_erase_self]
  · simp [find?_insert_self]

/-- A write leaves every other key alone. -/
theorem get_set_ne [DecidableEq α] (d d' : α) {m : NMap α} {i j : Nat} (x : α) (h : j ≠ i) (hs : sorted m = true) :
    get d' (set d m i x) j = get d' m j := by
  unfold set get
  split
  · rw [find?_erase_ne h hs]
  · rw [find?_insert_ne x h hs]

end Sys2Proof.NMap
end

