-- ==== Sys2Proof/Laws/Safe/Basic.lean ====
section
/-! SUPPORT. The tools of the proof that every command keeps `State.Safe`: a state that has the tables, the ring, the floors
and the queue of a safe state is safe, and a fold keeps what its step keeps. -/

namespace Sys2Proof.Machine
open Sys2Proof
variable {lf lg : Nat} {cq : List Instr}

/-- The tables that `State.Canon` speaks of. -/
def State.tabs (s : State) := (s.arrays, s.cores, s.reqs, s.pounds, s.queues, s.ctxs, s.models, s.adps, s.mons, s.ctrs, s.latches, s.shadows, s.net.peers)

/-- A state with the tables of another is canonical with it. -/
theorem State.Canon.congr {s t : State} (h : s.Canon) (e : t.tabs = s.tabs) : t.Canon := by
  simp only [State.tabs, Prod.mk.injEq] at e
  obtain ⟨e0, e1, e2, e3, e4, e5, e6, e7, e8, e9, e10, e11, e12⟩ := e
  exact { arrays := e0 ▸ h.arrays, cores := e1 ▸ h.cores, reqs := e2 ▸ h.reqs, pounds := e3 ▸ h.pounds, queues := e4 ▸ h.queues, ctxs := e5 ▸ h.ctxs, models := e6 ▸ h.models, adps := e7 ▸ h.adps, mons := e8 ▸ h.mons, ctrs := e9 ▸ h.ctrs, latches := e10 ▸ h.latches, shadows := e11 ▸ h.shadows, peers := e12 ▸ h.peers }

/-- A state that has the tables, the ring, the floors and the queue of a safe state is safe. -/
theorem State.Safe.congr {s t : State} (h : s.Safe lf lg cq) (e1 : t.mem = s.mem) (e2 : t.host = s.host)
    (e3 : t.regs = s.regs) (e4 : t.ev.ring = s.ev.ring) (e5 : t.boot.ident.fwFloor = s.boot.ident.fwFloor)
    (e6 : t.boot.ident.cfgFloor = s.boot.ident.cfgFloor) (e7 : t.pending = s.pending) (e8 : t.tabs = s.tabs) : t.Safe lf lg cq :=
  ⟨e1 ▸ h.mem, e2 ▸ h.host, e3 ▸ h.regs, e4 ▸ h.ring, e5 ▸ h.fw, e6 ▸ h.cfg, e7 ▸ h.queue, h.canon.congr e8⟩

/-- The same for a state written field by field. -/
theorem State.Safe.lit {s : State} {pgmQueue : List Nat} {poison : List Nat} {memCe : NMap Nat} {memCeAt : NMap Nat} {ev : EventRing} {nextReq : Nat} {nextBatch : Nat} {bound : NMap Nat} {rrLast : Nat} {expBroken : Bool} {adpClock : Nat} {adpGoal : Nat} {sweep : Sweep} {wins : Windows} {net : Net} {tal : Tal} {tb : TimeBase} {ports : Ports} {stale : List Nat} {recs : RecStore} {boot : Boot} {pwr : Power} {time : Nat} {free : Nat} {tx : List Tx} (h : s.Safe lf lg cq)
    (e4 : ev.ring = s.ev.ring) (e5 : boot.ident.fwFloor = s.boot.ident.fwFloor) (e6 : boot.ident.cfgFloor = s.boot.ident.cfgFloor)
    (e8 : net.peers = s.net.peers) :
    State.Safe lf lg cq ⟨s.regs, s.shadows, s.latches, s.arrays, s.cores, pgmQueue, s.mem, s.host, poison, memCe, memCeAt, ev, s.reqs, nextReq, nextBatch, bound, s.pounds, s.queues, rrLast, expBroken, s.ctxs, s.models, s.adps, adpClock, adpGoal, s.ctrs, sweep, wins, net, tal, tb, ports, s.mons, stale, recs, boot, pwr, time, free, tx, s.pending⟩ :=
  h.congr rfl rfl rfl e4 e5 e6 rfl (by simp only [State.tabs, e8])

/-- A write keeps a table canonical. -/
theorem wf_setD {α : Type} [DecidableEq α] {d : α} {m : NMap α} (i : Nat) (x : α) (h : NMap.wf (fun _ => d) m = true) :
    NMap.wf (fun _ => d) (m.set d i x) = true :=
  NMap.wf_set (fun _ => d) i x h

/-- A table built by setting is canonical. -/
theorem wf_foldl_set {α β : Type} [DecidableEq α] (d : α) (f : Nat × β → α) (xs : NMap β) (m : NMap α)
    (h : NMap.wf (fun _ => d) m = true) : NMap.wf (fun _ => d) (xs.foldl (fun t e => t.set d e.1 (f e)) m) = true := by
  induction xs generalizing m with
  | nil => exact h
  | cons a xs ih => exact ih _ (NMap.wf_set (fun _ => d) _ _ h)

/-- Leaving entries out keeps a table canonical. -/
theorem wf_filter {α : Type} [DecidableEq α] {d : Nat → α} {m : NMap α} (f : Nat × α → Bool) (h : NMap.wf d m = true) :
    NMap.wf d (m.filter f) = true := by
  simp only [NMap.wf, Bool.and_eq_true] at h ⊢
  obtain ⟨h1, h2⟩ := h
  refine ⟨?_, List.all_eq_true.2 fun e he => List.all_eq_true.1 h2 e (List.mem_filter.1 he).1⟩
  clear h2
  induction m with
  | nil => rfl
  | cons a m ih =>
    have h := NMap.sorted_cons.1 h1
    rw [List.filter_cons]
    split
    · exact NMap.sorted_cons.2 ⟨NMap.above_iff.2 fun e he => NMap.above_iff.1 h.1 e (List.mem_filter.1 he).1, ih h.2⟩
    · exact ih h.2

theorem foldl_safe {α : Type} (f : State → α → State) (xs : List α) (s : State)
    (hf : ∀ t x, t.Safe lf lg cq → (f t x).Safe lf lg cq) (hS : s.Safe lf lg cq) : (xs.foldl f s).Safe lf lg cq := by
  induction xs generalizing s with
  | nil => exact hS
  | cons a xs ih => exact ih _ (hf _ _ hS)

theorem foldl_snd_safe {α β : Type} (f : β × State → α → β × State) (xs : List α) (p : β × State)
    (hf : ∀ b t x, t.Safe lf lg cq → (f (b, t) x).2.Safe lf lg cq) (hS : p.2.Safe lf lg cq) : (xs.foldl f p).2.Safe lf lg cq := by
  induction xs generalizing p with
  | nil => exact hS
  | cons a xs ih => exact ih _ (hf p.1 p.2 _ hS)

theorem pair_safe {α : Type} {a b : α} {s t : State} (e : (a, s) = (b, t)) (hS : s.Safe lf lg cq) : t.Safe lf lg cq := by
  cases e; exact hS

theorem prod_safe {α : Type} {p : α × State} {b : α} {t : State} (e : p = (b, t)) (hS : p.2.Safe lf lg cq) : t.Safe lf lg cq := by
  cases e; exact hS

theorem prod3_safe {α β : Type} {p : α × β × State} {a : α} {b : β} {t : State} (e : p = (a, b, t)) (hS : p.2.2.Safe lf lg cq) :
    t.Safe lf lg cq := by
  cases e; exact hS

theorem length_eraseAt {α : Type} (xs : List α) (i : Nat) (h : i < xs.length) : (eraseAt xs i).length + 1 = xs.length := by
  induction xs generalizing i with
  | nil => simp at h
  | cons x xs ih =>
    cases i with
    | zero => simp [eraseAt]
    | succ i => simp only [eraseAt, List.length_cons]; rw [ih i (by simpa using h)]

/-- The ring never grows beyond its 4,096 places (R323). -/
theorem ringPut_length {ring r : List (Nat × Event)} {x : Nat × Event} (h : ringPut ring x = some r) (hl : ring.length ≤ ringSize) :
    r.length ≤ ringSize := by
  unfold ringPut at h
  split at h
  · cases h; simpa using by assumption
  · split at h
    · rename_i i hi
      cases h
      have := length_eraseAt ring i (List.findIdx?_eq_some_iff_getElem.1 hi).1
      simp; omega
    · cases h

theorem wf_storeBytes (m : NMap Byte) (a : Nat) {bs : List Byte} (h : NMap.wf (fun _ => 0) m = true) :
    NMap.wf (fun _ => 0) (storeBytes m a bs) = true := by
  induction bs generalizing m a with
  | nil => exact h
  | cons b bs ih => exact ih _ _ (NMap.wf_set (fun _ => 0) _ _ h)

theorem foldl_snd2_safe {α β γ : Type} (f : β × γ × State → α → β × γ × State) (xs : List α) (p : β × γ × State)
    (hf : ∀ b c t x, t.Safe lf lg cq → (f (b, c, t) x).2.2.Safe lf lg cq) (hS : p.2.2.Safe lf lg cq) :
    (xs.foldl f p).2.2.Safe lf lg cq := by
  induction xs generalizing p with
  | nil => exact hS
  | cons a xs ih => exact ih _ (hf p.1 p.2.1 p.2.2 _ hS)

theorem pair3_safe {α β : Type} {a b : α} {c d : β} {s t : State} (e : (a, c, s) = (b, d, t)) (hS : s.Safe lf lg cq) :
    t.Safe lf lg cq := by
  cases e; exact hS

theorem foldl_fst_safe {α β : Type} (f : State × β → α → State × β) (xs : List α) (p : State × β)
    (hf : ∀ t b x, t.Safe lf lg cq → (f (t, b) x).1.Safe lf lg cq) (hS : p.1.Safe lf lg cq) : (xs.foldl f p).1.Safe lf lg cq := by
  induction xs generalizing p with
  | nil => exact hS
  | cons a xs ih => exact ih _ (hf p.1 p.2 _ hS)

theorem prodF_safe {α : Type} {p : State × α} {b : α} {t : State} (e : p = (t, b)) (hS : p.1.Safe lf lg cq) : t.Safe lf lg cq := by
  cases e; exact hS

theorem firstFail_safe {α : Type} (xs : List α) (p : Option RdFail × State) (f : State → α → Option RdFail × State)
    (hS : p.2.Safe lf lg cq) (hf : ∀ t x, t.Safe lf lg cq → (f t x).2.Safe lf lg cq) : (firstFail xs p f).2.Safe lf lg cq := by
  unfold firstFail
  induction xs generalizing p with
  | nil => exact hS
  | cons a xs ih =>
    refine ih _ ?_
    dsimp only
    split
    · exact hS
    · exact hf _ _ hS

end Sys2Proof.Machine
end

