-- ==== Sys2Proof/Laws/Safe/Ops.lean ====
section
/-! SUPPORT. One lemma for each operation of `Machine/Ops.lean` that answers a state: it keeps `State.Safe` (the primed form says
the same of an answer that is known by an equation). -/

namespace Sys2Proof.Machine
open Sys2Proof
variable {lf lg : Nat} {cq : List Instr}

theorem State.setArr_safe (s : State) (a : Nat) (x : Arr) (hS : s.Safe lf lg cq) :
    ((State.setArr s a x)).Safe lf lg cq := by
  unfold State.setArr
  exact ⟨hS.mem, hS.host, hS.regs, hS.ring, hS.fw, hS.cfg, hS.queue, { hS.canon with arrays := wf_setD _ _ hS.canon.arrays }⟩

theorem State.modArr_safe (s : State) (a : Nat) (f : Arr → Arr) (hS : s.Safe lf lg cq) :
    ((State.modArr s a f)).Safe lf lg cq := by
  unfold State.modArr
  repeat' (first
    | with_reducible assumption
    | with_reducible apply State.setArr_safe
    | with_reducible apply foldl_snd2_safe
    | with_reducible refine pair3_safe (by with_reducible assumption) ?_
    | with_reducible refine pair_safe (by with_reducible assumption) ?_
    | with_reducible apply foldl_safe
    | with_reducible apply foldl_snd_safe
    | intro _
    | split
    | dsimp only
    | refine State.Safe.lit ?_ rfl rfl rfl rfl)

theorem State.wr_safe (s : State) (r : Reg) (i : Nat) (k : Nat) (v : Nat) (hS : s.Safe lf lg cq) :
    ((State.wr s r i k v)).Safe lf lg cq := by
  exact ⟨hS.mem, hS.host, NMap.sorted_set _ _ _ hS.regs, hS.ring, hS.fw, hS.cfg, hS.queue, hS.canon.congr rfl⟩

theorem State.each_safe {α : Type} (s : State) (xs : List α) (f : State → α → State) (hS : s.Safe lf lg cq) (hff : ∀ x0 x1, x0.Safe lf lg cq → (f x0 x1).Safe lf lg cq) :
    ((State.each s xs f)).Safe lf lg cq := by
  exact foldl_safe f xs s hff hS

theorem State.bump_safe (s : State) (r : Reg) (i : Nat) (n : Nat) (hS : s.Safe lf lg cq) :
    ((State.bump s r i n)).Safe lf lg cq := by
  unfold State.bump
  repeat' (first
    | with_reducible assumption
    | with_reducible apply State.wr_safe
    | with_reducible apply foldl_snd2_safe
    | with_reducible refine pair3_safe (by with_reducible assumption) ?_
    | with_reducible refine pair_safe (by with_reducible assumption) ?_
    | with_reducible apply foldl_safe
    | with_reducible apply foldl_snd_safe
    | intro _
    | split
    | dsimp only
    | refine State.Safe.lit ?_ rfl rfl rfl rfl)

theorem State.count_safe (s : State) (blk : Nat) (k : Nat) (n : Nat) (hS : s.Safe lf lg cq) :
    ((State.count s blk k n)).Safe lf lg cq := by
  unfold State.count
  exact ⟨hS.mem, hS.host, hS.regs, hS.ring, hS.fw, hS.cfg, hS.queue, { hS.canon with ctrs := wf_setD _ _ hS.canon.ctrs }⟩

theorem State.record_safe (s : State) (e : Event) (hS : s.Safe lf lg cq) :
    ((State.record s e)).Safe lf lg cq := by
  have hc := State.count_safe s ctrIo 8 1 hS
  unfold State.record
  dsimp only
  split
  · rename_i r hr
    exact ⟨hc.mem, hc.host, hc.regs, ringPut_length hr hS.ring, hc.fw, hc.cfg, hc.queue, hc.canon.congr rfl⟩
  · refine State.count_safe _ _ _ _ (State.bump_safe _ _ _ _ ?_)
    exact ⟨hc.mem, hc.host, hc.regs, hS.ring, hc.fw, hc.cfg, hc.queue, hc.canon.congr rfl⟩

theorem State.raise_safe (s : State) (e : Event) (hS : s.Safe lf lg cq) :
    ((State.raise s e)).Safe lf lg cq := by
  unfold State.raise
  repeat' (first
    | with_reducible assumption
    | with_reducible apply State.record_safe
    | with_reducible apply foldl_snd2_safe
    | with_reducible refine pair3_safe (by with_reducible assumption) ?_
    | with_reducible refine pair_safe (by with_reducible assumption) ?_
    | with_reducible apply foldl_safe
    | with_reducible apply foldl_snd_safe
    | intro _
    | split
    | dsimp only
    | refine State.Safe.lit ?_ rfl rfl rfl rfl)

theorem State.flag_safe (s : State) (r : Reg) (i : Nat) (bits : Nat) (hS : s.Safe lf lg cq) :
    ((State.flag s r i bits)).Safe lf lg cq := by
  unfold State.flag
  repeat' (first
    | with_reducible assumption
    | with_reducible apply State.wr_safe
    | with_reducible apply foldl_snd2_safe
    | with_reducible refine pair3_safe (by with_reducible assumption) ?_
    | with_reducible refine pair_safe (by with_reducible assumption) ?_
    | with_reducible apply foldl_safe
    | with_reducible apply foldl_snd_safe
    | intro _
    | split
    | dsimp only
    | refine State.Safe.lit ?_ rfl rfl rfl rfl)

theorem State.wf__safe (s : State) (r : Reg) (i : Nat) (hi : Nat) (lo : Nat) (v : Nat) (hS : s.Safe lf lg cq) :
    ((State.wf_ s r i hi lo v)).Safe lf lg cq := by
  unfold State.wf_
  repeat' (first
    | with_reducible assumption
    | with_reducible apply State.wr_safe
    | with_reducible apply foldl_snd2_safe
    | with_reducible refine pair3_safe (by with_reducible assumption) ?_
    | with_reducible refine pair_safe (by with_reducible assumption) ?_
    | with_reducible apply foldl_safe
    | with_reducible apply foldl_snd_safe
    | intro _
    | split
    | dsimp only
    | refine State.Safe.lit ?_ rfl rfl rfl rfl)

theorem State.setCore_safe (s : State) (c : Nat) (x : Core) (hS : s.Safe lf lg cq) :
    ((State.setCore s c x)).Safe lf lg cq := by
  unfold State.setCore
  exact ⟨hS.mem, hS.host, hS.regs, hS.ring, hS.fw, hS.cfg, hS.queue, { hS.canon with cores := wf_setD _ _ hS.canon.cores }⟩

theorem State.modCore_safe (s : State) (c : Nat) (f : Core → Core) (hS : s.Safe lf lg cq) :
    ((State.modCore s c f)).Safe lf lg cq := by
  unfold State.modCore
  repeat' (first
    | with_reducible assumption
    | with_reducible apply State.setCore_safe
    | with_reducible apply foldl_snd2_safe
    | with_reducible refine pair3_safe (by with_reducible assumption) ?_
    | with_reducible refine pair_safe (by with_reducible assumption) ?_
    | with_reducible apply foldl_safe
    | with_reducible apply foldl_snd_safe
    | intro _
    | split
    | dsimp only
    | refine State.Safe.lit ?_ rfl rfl rfl rfl)

theorem State.putAct_safe (s : State) (c : Nat) (b : Nat) (d : List Byte) (m : Manifest) (hS : s.Safe lf lg cq) :
    ((State.putAct s c b d m)).Safe lf lg cq := by
  unfold State.putAct
  repeat' (first
    | with_reducible assumption
    | with_reducible apply State.modCore_safe
    | with_reducible apply State.count_safe
    | with_reducible apply foldl_snd2_safe
    | with_reducible refine pair3_safe (by with_reducible assumption) ?_
    | with_reducible refine pair_safe (by with_reducible assumption) ?_
    | with_reducible apply foldl_safe
    | with_reducible apply foldl_snd_safe
    | intro _
    | split
    | dsimp only
    | refine State.Safe.lit ?_ rfl rfl rfl rfl)

theorem State.setPound_safe (s : State) (p : Nat) (x : Pound) (hS : s.Safe lf lg cq) :
    ((State.setPound s p x)).Safe lf lg cq := by
  unfold State.setPound
  exact ⟨hS.mem, hS.host, hS.regs, hS.ring, hS.fw, hS.cfg, hS.queue, { hS.canon with pounds := wf_setD _ _ hS.canon.pounds }⟩

theorem State.modPound_safe (s : State) (p : Nat) (f : Pound → Pound) (hS : s.Safe lf lg cq) :
    ((State.modPound s p f)).Safe lf lg cq := by
  unfold State.modPound
  repeat' (first
    | with_reducible assumption
    | with_reducible apply State.setPound_safe
    | with_reducible apply foldl_snd2_safe
    | with_reducible refine pair3_safe (by with_reducible assumption) ?_
    | with_reducible refine pair_safe (by with_reducible assumption) ?_
    | with_reducible apply foldl_safe
    | with_reducible apply foldl_snd_safe
    | intro _
    | split
    | dsimp only
    | refine State.Safe.lit ?_ rfl rfl rfl rfl)

theorem State.send_safe (s : State) (x : Tx) (hS : s.Safe lf lg cq) :
    ((State.send s x)).Safe lf lg cq := by
  unfold State.send
  repeat' (first
    | with_reducible assumption
    | with_reducible apply foldl_snd2_safe
    | with_reducible refine pair3_safe (by with_reducible assumption) ?_
    | with_reducible refine pair_safe (by with_reducible assumption) ?_
    | with_reducible apply foldl_safe
    | with_reducible apply foldl_snd_safe
    | intro _
    | split
    | dsimp only
    | refine State.Safe.lit ?_ rfl rfl rfl rfl)

theorem State.ueEvent_safe (s : State) (m : Nat) (where_ : Nat) (hS : s.Safe lf lg cq) :
    ((State.ueEvent s m where_)).Safe lf lg cq := by
  unfold State.ueEvent
  repeat' (first
    | with_reducible assumption
    | with_reducible apply State.bump_safe
    | with_reducible apply State.raise_safe
    | with_reducible apply foldl_snd2_safe
    | with_reducible refine pair3_safe (by with_reducible assumption) ?_
    | with_reducible refine pair_safe (by with_reducible assumption) ?_
    | with_reducible apply foldl_safe
    | with_reducible apply foldl_snd_safe
    | intro _
    | split
    | dsimp only
    | refine State.Safe.lit ?_ rfl rfl rfl rfl)

theorem State.manFailDev_safe (s : State) (a : Nat) (cause : Nat) (hS : s.Safe lf lg cq) :
    ((State.manFailDev s a cause)).Safe lf lg cq := by
  unfold State.manFailDev
  repeat' (first
    | with_reducible assumption
    | with_reducible apply State.raise_safe
    | with_reducible apply foldl_snd2_safe
    | with_reducible refine pair3_safe (by with_reducible assumption) ?_
    | with_reducible refine pair_safe (by with_reducible assumption) ?_
    | with_reducible apply foldl_safe
    | with_reducible apply foldl_snd_safe
    | intro _
    | split
    | dsimp only
    | refine State.Safe.lit ?_ rfl rfl rfl rfl)

theorem State.putMem_safe (s : State) (a : Nat) (bs : List Byte) (hS : s.Safe lf lg cq) :
    ((State.putMem s a bs)).Safe lf lg cq := by
  exact ⟨wf_storeBytes _ _ hS.mem, hS.host, hS.regs, hS.ring, hS.fw, hS.cfg, hS.queue, hS.canon.congr rfl⟩

theorem State.putBlock_safe (s : State) (a : Nat) (d : List Byte) (m : Manifest) (hS : s.Safe lf lg cq) :
    ((State.putBlock s a d m)).Safe lf lg cq := by
  unfold State.putBlock
  repeat' (first
    | with_reducible assumption
    | with_reducible apply State.putMem_safe
    | with_reducible apply foldl_snd2_safe
    | with_reducible refine pair3_safe (by with_reducible assumption) ?_
    | with_reducible refine pair_safe (by with_reducible assumption) ?_
    | with_reducible apply foldl_safe
    | with_reducible apply foldl_snd_safe
    | intro _
    | split
    | dsimp only
    | refine State.Safe.lit ?_ rfl rfl rfl rfl)

theorem State.setQueue_safe (s : State) (q : Nat) (x : Queue) (hS : s.Safe lf lg cq) :
    ((State.setQueue s q x)).Safe lf lg cq := by
  unfold State.setQueue
  exact ⟨hS.mem, hS.host, hS.regs, hS.ring, hS.fw, hS.cfg, hS.queue, { hS.canon with queues := wf_setD _ _ hS.canon.queues }⟩

theorem State.modQueue_safe (s : State) (q : Nat) (f : Queue → Queue) (hS : s.Safe lf lg cq) :
    ((State.modQueue s q f)).Safe lf lg cq := by
  unfold State.modQueue
  repeat' (first
    | with_reducible assumption
    | with_reducible apply State.setQueue_safe
    | with_reducible apply foldl_snd2_safe
    | with_reducible refine pair3_safe (by with_reducible assumption) ?_
    | with_reducible refine pair_safe (by with_reducible assumption) ?_
    | with_reducible apply foldl_safe
    | with_reducible apply foldl_snd_safe
    | intro _
    | split
    | dsimp only
    | refine State.Safe.lit ?_ rfl rfl rfl rfl)

theorem State.setAdp_safe (s : State) (i : Nat) (x : AdpSlot) (hS : s.Safe lf lg cq) :
    ((State.setAdp s i x)).Safe lf lg cq := by
  unfold State.setAdp
  exact ⟨hS.mem, hS.host, hS.regs, hS.ring, hS.fw, hS.cfg, hS.queue, { hS.canon with adps := wf_setD _ _ hS.canon.adps }⟩

theorem State.asked_safe (s : State) (p : Path) (b : Blk) (f : State → State) (hS : s.Safe lf lg cq) (hff : ∀ x0, x0.Safe lf lg cq → (f x0).Safe lf lg cq) :
    ((State.asked s p b f)).Safe lf lg cq := by
  unfold State.asked
  repeat' (first
    | with_reducible assumption
    | with_reducible apply hff
    | with_reducible apply foldl_snd2_safe
    | with_reducible refine pair3_safe (by with_reducible assumption) ?_
    | with_reducible refine pair_safe (by with_reducible assumption) ?_
    | with_reducible apply foldl_safe
    | with_reducible apply foldl_snd_safe
    | intro _
    | split
    | dsimp only
    | refine State.Safe.lit ?_ rfl rfl rfl rfl)

theorem State.setModel_safe (s : State) (m : Nat) (x : Model) (hS : s.Safe lf lg cq) :
    ((State.setModel s m x)).Safe lf lg cq := by
  unfold State.setModel
  exact ⟨hS.mem, hS.host, hS.regs, hS.ring, hS.fw, hS.cfg, hS.queue, { hS.canon with models := wf_setD _ _ hS.canon.models }⟩

theorem State.modModel_safe (s : State) (m : Nat) (f : Model → Model) (hS : s.Safe lf lg cq) :
    ((State.modModel s m f)).Safe lf lg cq := by
  unfold State.modModel
  repeat' (first
    | with_reducible assumption
    | with_reducible apply State.setModel_safe
    | with_reducible apply foldl_snd2_safe
    | with_reducible refine pair3_safe (by with_reducible assumption) ?_
    | with_reducible refine pair_safe (by with_reducible assumption) ?_
    | with_reducible apply foldl_safe
    | with_reducible apply foldl_snd_safe
    | intro _
    | split
    | dsimp only
    | refine State.Safe.lit ?_ rfl rfl rfl rfl)

theorem State.reply_safe (s : State) (p : Path) (v : Nat) (hS : s.Safe lf lg cq) :
    ((State.reply s p v)).Safe lf lg cq := by
  unfold State.reply
  repeat' (first
    | with_reducible assumption
    | with_reducible apply State.send_safe
    | with_reducible apply foldl_snd2_safe
    | with_reducible refine pair3_safe (by with_reducible assumption) ?_
    | with_reducible refine pair_safe (by with_reducible assumption) ?_
    | with_reducible apply foldl_safe
    | with_reducible apply foldl_snd_safe
    | intro _
    | split
    | dsimp only
    | refine State.Safe.lit ?_ rfl rfl rfl rfl)

theorem State.ignored_safe (s : State) (p : Path) (addr : Nat) (cause : Nat) (hS : s.Safe lf lg cq) :
    ((State.ignored s p addr cause)).Safe lf lg cq := by
  unfold State.ignored
  repeat' (first
    | with_reducible assumption
    | with_reducible apply State.bump_safe
    | with_reducible apply State.wr_safe
    | with_reducible apply State.raise_safe
    | with_reducible apply State.flag_safe
    | with_reducible apply foldl_snd2_safe
    | with_reducible refine pair3_safe (by with_reducible assumption) ?_
    | with_reducible refine pair_safe (by with_reducible assumption) ?_
    | with_reducible apply foldl_safe
    | with_reducible apply foldl_snd_safe
    | intro _
    | split
    | dsimp only
    | refine State.Safe.lit ?_ rfl rfl rfl rfl)

theorem State.setReq_safe (s : State) (i : Nat) (x : Request) (hS : s.Safe lf lg cq) :
    ((State.setReq s i x)).Safe lf lg cq := by
  unfold State.setReq
  exact ⟨hS.mem, hS.host, hS.regs, hS.ring, hS.fw, hS.cfg, hS.queue, { hS.canon with reqs := wf_setD _ _ hS.canon.reqs }⟩

theorem State.modReq_safe (s : State) (i : Nat) (f : Request → Request) (hS : s.Safe lf lg cq) :
    ((State.modReq s i f)).Safe lf lg cq := by
  unfold State.modReq
  repeat' (first
    | with_reducible assumption
    | with_reducible apply State.setReq_safe
    | with_reducible apply foldl_snd2_safe
    | with_reducible refine pair3_safe (by with_reducible assumption) ?_
    | with_reducible refine pair_safe (by with_reducible assumption) ?_
    | with_reducible apply foldl_safe
    | with_reducible apply foldl_snd_safe
    | intro _
    | split
    | dsimp only
    | refine State.Safe.lit ?_ rfl rfl rfl rfl)

theorem State.ueRead_safe (s : State) (isHost : Bool) (a : Nat) (n : Nat) (hS : s.Safe lf lg cq) :
    ((State.ueRead s isHost a n)).Safe lf lg cq := by
  unfold State.ueRead
  repeat' (first
    | with_reducible assumption
    | with_reducible apply State.ueEvent_safe
    | with_reducible apply foldl_snd2_safe
    | with_reducible refine pair3_safe (by with_reducible assumption) ?_
    | with_reducible refine pair_safe (by with_reducible assumption) ?_
    | with_reducible apply foldl_safe
    | with_reducible apply foldl_snd_safe
    | intro _
    | split
    | dsimp only
    | refine State.Safe.lit ?_ rfl rfl rfl rfl)

theorem State.putHost_safe (s : State) (a : Nat) (bs : List Byte) (hS : s.Safe lf lg cq) :
    ((State.putHost s a bs)).Safe lf lg cq := by
  exact ⟨hS.mem, wf_storeBytes _ _ hS.host, hS.regs, hS.ring, hS.fw, hS.cfg, hS.queue, hS.canon.congr rfl⟩

theorem State.putHostBlock_safe (s : State) (a : Nat) (n : Nat) (i : Nat) (d : List Byte) (m : Manifest) (hS : s.Safe lf lg cq) :
    ((State.putHostBlock s a n i d m)).Safe lf lg cq := by
  unfold State.putHostBlock
  repeat' (first
    | with_reducible assumption
    | with_reducible apply State.putHost_safe
    | with_reducible apply foldl_snd2_safe
    | with_reducible refine pair3_safe (by with_reducible assumption) ?_
    | with_reducible refine pair_safe (by with_reducible assumption) ?_
    | with_reducible apply foldl_safe
    | with_reducible apply foldl_snd_safe
    | intro _
    | split
    | dsimp only
    | refine State.Safe.lit ?_ rfl rfl rfl rfl)

theorem State.fresh_safe (s : State) (hS : s.Safe lf lg cq) :
    ((State.fresh s).2).Safe lf lg cq := by
  unfold State.fresh
  repeat' (first
    | with_reducible assumption
    | with_reducible apply foldl_snd2_safe
    | with_reducible refine pair3_safe (by with_reducible assumption) ?_
    | with_reducible refine pair_safe (by with_reducible assumption) ?_
    | with_reducible apply foldl_safe
    | with_reducible apply foldl_snd_safe
    | intro _
    | split
    | dsimp only
    | refine State.Safe.lit ?_ rfl rfl rfl rfl)

theorem State.fresh_safe' {s : State} {y0 t} (eqn : (State.fresh s) = (y0, t)) (hS : s.Safe lf lg cq)  : t.Safe lf lg cq := by
  have := State.fresh_safe s hS
  rw [eqn] at this; exact this

theorem State.reportBad_safe (s : State) (a : Nat) (cause : Nat) (hS : s.Safe lf lg cq) :
    ((State.reportBad s a cause)).Safe lf lg cq := by
  unfold State.reportBad
  repeat' (first
    | with_reducible assumption
    | with_reducible apply State.manFailDev_safe
    | with_reducible apply State.ueRead_safe
    | with_reducible apply foldl_snd2_safe
    | with_reducible refine pair3_safe (by with_reducible assumption) ?_
    | with_reducible refine pair_safe (by with_reducible assumption) ?_
    | with_reducible apply foldl_safe
    | with_reducible apply foldl_snd_safe
    | intro _
    | split
    | dsimp only
    | refine State.Safe.lit ?_ rfl rfl rfl rfl)

end Sys2Proof.Machine
end

