-- ==== Sys2Proof/Laws/Safe/RecOps.lean ====
section
/-! SUPPORT. One lemma for each operation of `Machine/RecOps.lean` that answers a state: it keeps `State.Safe` (the primed form says
the same of an answer that is known by an equation). -/

namespace Sys2Proof.Machine
open Sys2Proof
variable {lf lg : Nat} {cq : List Instr}

theorem State.touch_safe (s : State) (page : Nat) (hS : s.Safe lf lg cq) :
    ((State.touch s page)).Safe lf lg cq := by
  unfold State.touch
  repeat' (first
    | with_reducible assumption
    | with_reducible apply foldl_snd2_safe
    | with_reducible refine pair3_safe (by with_reducible assumption) ?_
    | with_reducible refine pair_safe (by with_reducible assumption) ?_
    | with_reducible apply foldl_safe
    | with_reducible apply foldl_snd_safe
    | intro _
    | split
    | dsimp only
    | refine State.Safe.lit ?_ rfl rfl rfl rfl)

theorem State.recStep_safe (s : State) (hS : s.Safe lf lg cq) :
    ((State.recStep s)).Safe lf lg cq := by
  unfold State.recStep
  repeat' (first
    | with_reducible assumption
    | with_reducible apply State.wf__safe
    | with_reducible apply foldl_snd2_safe
    | with_reducible refine pair3_safe (by with_reducible assumption) ?_
    | with_reducible refine pair_safe (by with_reducible assumption) ?_
    | with_reducible apply foldl_safe
    | with_reducible apply foldl_snd_safe
    | intro _
    | split
    | dsimp only
    | refine State.Safe.lit ?_ rfl rfl rfl rfl)

theorem State.recAcc_safe (s : State) (n : Nat) (hS : s.Safe lf lg cq) :
    ((State.recAcc s n)).Safe lf lg cq := by
  unfold State.recAcc
  repeat' (first
    | with_reducible assumption
    | with_reducible apply State.recStep_safe
    | with_reducible apply foldl_snd2_safe
    | with_reducible refine pair3_safe (by with_reducible assumption) ?_
    | with_reducible refine pair_safe (by with_reducible assumption) ?_
    | with_reducible apply foldl_safe
    | with_reducible apply foldl_snd_safe
    | intro _
    | split
    | dsimp only
    | refine State.Safe.lit ?_ rfl rfl rfl rfl)

theorem State.recWrite_safe (s : State) (p : Path) (v : Nat) (hS : s.Safe lf lg cq) :
    ((State.recWrite s p v)).Safe lf lg cq := by
  unfold State.recWrite
  repeat' (first
    | with_reducible assumption
    | with_reducible apply State.touch_safe
    | with_reducible apply State.recAcc_safe
    | with_reducible apply foldl_snd2_safe
    | with_reducible refine pair3_safe (by with_reducible assumption) ?_
    | with_reducible refine pair_safe (by with_reducible assumption) ?_
    | with_reducible apply foldl_safe
    | with_reducible apply foldl_snd_safe
    | intro _
    | split
    | dsimp only
    | refine State.Safe.lit ?_ rfl rfl rfl rfl)

theorem State.storePage_safe (s : State) (page : Nat) (hS : s.Safe lf lg cq) :
    ((State.storePage s page)).Safe lf lg cq := by
  unfold State.storePage
  repeat' (first
    | with_reducible assumption
    | with_reducible apply State.raise_safe
    | with_reducible apply foldl_snd2_safe
    | with_reducible refine pair3_safe (by with_reducible assumption) ?_
    | with_reducible refine pair_safe (by with_reducible assumption) ?_
    | with_reducible apply foldl_safe
    | with_reducible apply foldl_snd_safe
    | intro _
    | split
    | dsimp only
    | refine State.Safe.lit ?_ rfl rfl rfl rfl)

theorem State.storeArr_safe (s : State) (a : Nat) (rotation : Bool) (hS : s.Safe lf lg cq) :
    ((State.storeArr s a rotation)).Safe lf lg cq := by
  unfold State.storeArr
  repeat' (first
    | with_reducible assumption
    | with_reducible apply State.touch_safe
    | with_reducible apply State.storePage_safe
    | with_reducible apply foldl_snd2_safe
    | with_reducible refine pair3_safe (by with_reducible assumption) ?_
    | with_reducible refine pair_safe (by with_reducible assumption) ?_
    | with_reducible apply foldl_safe
    | with_reducible apply foldl_snd_safe
    | intro _
    | split
    | dsimp only
    | refine State.Safe.lit ?_ rfl rfl rfl rfl)

theorem State.setPw_safe (s : State) (p : Path) (write : Bool) (hS : s.Safe lf lg cq) :
    ((State.setPw s p write)).Safe lf lg cq := by
  unfold State.setPw
  repeat' (first
    | with_reducible assumption
    | with_reducible apply State.touch_safe
    | with_reducible apply State.ignored_safe
    | with_reducible apply foldl_snd2_safe
    | with_reducible refine pair3_safe (by with_reducible assumption) ?_
    | with_reducible refine pair_safe (by with_reducible assumption) ?_
    | with_reducible apply foldl_safe
    | with_reducible apply foldl_snd_safe
    | intro _
    | split
    | dsimp only
    | refine State.Safe.lit ?_ rfl rfl rfl rfl)

theorem State.relockRec_safe (s : State) (p : Path) (hS : s.Safe lf lg cq) :
    ((State.relockRec s p)).Safe lf lg cq := by
  unfold State.relockRec
  repeat' (first
    | with_reducible assumption
    | with_reducible apply State.ignored_safe
    | with_reducible apply foldl_snd2_safe
    | with_reducible refine pair3_safe (by with_reducible assumption) ?_
    | with_reducible refine pair_safe (by with_reducible assumption) ?_
    | with_reducible apply foldl_safe
    | with_reducible apply foldl_snd_safe
    | intro _
    | split
    | dsimp only
    | refine State.Safe.lit ?_ rfl rfl rfl rfl)

theorem State.unlock_safe (s : State) (p : Path) (write : Bool) (hS : s.Safe lf lg cq) :
    ((State.unlock s p write)).Safe lf lg cq := by
  unfold State.unlock
  repeat' (first
    | with_reducible assumption
    | with_reducible apply State.ignored_safe
    | with_reducible apply State.raise_safe
    | with_reducible apply foldl_snd2_safe
    | with_reducible refine pair3_safe (by with_reducible assumption) ?_
    | with_reducible refine pair_safe (by with_reducible assumption) ?_
    | with_reducible apply foldl_safe
    | with_reducible apply foldl_snd_safe
    | intro _
    | split
    | dsimp only
    | refine State.Safe.lit ?_ rfl rfl rfl rfl)

theorem State.storeBegin_safe (s : State) (periodic : Bool) (hS : s.Safe lf lg cq) :
    ((State.storeBegin s periodic)).Safe lf lg cq := by
  unfold State.storeBegin
  repeat' (first
    | with_reducible assumption
    | with_reducible apply foldl_snd2_safe
    | with_reducible refine pair3_safe (by with_reducible assumption) ?_
    | with_reducible refine pair_safe (by with_reducible assumption) ?_
    | with_reducible apply foldl_safe
    | with_reducible apply foldl_snd_safe
    | intro _
    | split
    | dsimp only
    | refine State.Safe.lit ?_ rfl rfl rfl rfl)

theorem State.storeCmd_safe (s : State) (p : Path) (hS : s.Safe lf lg cq) :
    ((State.storeCmd s p)).Safe lf lg cq := by
  unfold State.storeCmd
  repeat' (first
    | with_reducible assumption
    | with_reducible apply State.ignored_safe
    | with_reducible apply State.storeBegin_safe
    | with_reducible apply foldl_snd2_safe
    | with_reducible refine pair3_safe (by with_reducible assumption) ?_
    | with_reducible refine pair_safe (by with_reducible assumption) ?_
    | with_reducible apply foldl_safe
    | with_reducible apply foldl_snd_safe
    | intro _
    | split
    | dsimp only
    | refine State.Safe.lit ?_ rfl rfl rfl rfl)

theorem State.recRead_safe (s : State) (p : Path) (hS : s.Safe lf lg cq) :
    ((State.recRead s p).2).Safe lf lg cq := by
  unfold State.recRead
  repeat' (first
    | with_reducible assumption
    | with_reducible apply State.fresh_safe
    | with_reducible refine State.fresh_safe' (by with_reducible assumption) ?_
    | with_reducible apply State.recAcc_safe
    | with_reducible apply foldl_snd2_safe
    | with_reducible refine pair3_safe (by with_reducible assumption) ?_
    | with_reducible refine pair_safe (by with_reducible assumption) ?_
    | with_reducible apply foldl_safe
    | with_reducible apply foldl_snd_safe
    | intro _
    | split
    | dsimp only
    | refine State.Safe.lit ?_ rfl rfl rfl rfl)

theorem State.recRead_safe' {s : State} {p : Path} {y0 t} (eqn : (State.recRead s p) = (y0, t)) (hS : s.Safe lf lg cq)  : t.Safe lf lg cq := by
  have := State.recRead_safe s p hS
  rw [eqn] at this; exact this

theorem State.recMargin_safe (s : State) (weak : List Nat) (hS : s.Safe lf lg cq) :
    ((State.recMargin s weak)).Safe lf lg cq := by
  unfold State.recMargin
  repeat' (first
    | with_reducible assumption
    | with_reducible apply State.each_safe
    | with_reducible apply State.raise_safe
    | with_reducible apply State.storePage_safe
    | with_reducible apply foldl_snd2_safe
    | with_reducible refine pair3_safe (by with_reducible assumption) ?_
    | with_reducible refine pair_safe (by with_reducible assumption) ?_
    | with_reducible apply foldl_safe
    | with_reducible apply foldl_snd_safe
    | intro _
    | split
    | dsimp only
    | refine State.Safe.lit ?_ rfl rfl rfl rfl)

theorem State.retireSlot_safe (s : State) (page : Nat) (hS : s.Safe lf lg cq) :
    ((State.retireSlot s page)).Safe lf lg cq := by
  unfold State.retireSlot
  repeat' (first
    | with_reducible assumption
    | with_reducible apply foldl_snd2_safe
    | with_reducible refine pair3_safe (by with_reducible assumption) ?_
    | with_reducible refine pair_safe (by with_reducible assumption) ?_
    | with_reducible apply foldl_safe
    | with_reducible apply foldl_snd_safe
    | intro _
    | split
    | dsimp only
    | refine State.Safe.lit ?_ rfl rfl rfl rfl)

theorem State.storeEnd_safe (s : State) (bad : List Nat) (hS : s.Safe lf lg cq) :
    ((State.storeEnd s bad)).Safe lf lg cq := by
  unfold State.storeEnd
  repeat' (first
    | with_reducible assumption
    | with_reducible apply State.each_safe
    | with_reducible apply State.raise_safe
    | with_reducible apply State.storePage_safe
    | with_reducible apply State.retireSlot_safe
    | with_reducible apply foldl_snd2_safe
    | with_reducible refine pair3_safe (by with_reducible assumption) ?_
    | with_reducible refine pair_safe (by with_reducible assumption) ?_
    | with_reducible apply foldl_safe
    | with_reducible apply foldl_snd_safe
    | intro _
    | split
    | dsimp only
    | refine State.Safe.lit ?_ rfl rfl rfl rfl)

end Sys2Proof.Machine
end

