-- ==== Sys2Proof/Laws/Safe/CounterOps.lean ====
section
/-! SUPPORT. One lemma for each operation of `Machine/CounterOps.lean` that answers a state: it keeps `State.Safe` (the primed form says
the same of an answer that is known by an equation). -/

namespace Sys2Proof.Machine
open Sys2Proof
variable {lf lg : Nat} {cq : List Instr}

theorem State.winCount_safe (s : State) (ch : Nat) (n : Nat) (hS : s.Safe lf lg cq) :
    ((State.winCount s ch n)).Safe lf lg cq := by
  unfold State.winCount
  repeat' (first
    | with_reducible assumption
    | with_reducible apply foldl_snd2_safe
    | with_reducible refine pair3_safe (by with_reducible assumption) ?_
    | with_reducible refine pair_safe (by with_reducible assumption) ?_
    | with_reducible apply foldl_safe
    | with_reducible apply foldl_snd_safe
    | intro _
    | split
    | dsimp only
    | refine State.Safe.lit ?_ rfl rfl rfl rfl)

theorem State.putDev_safe (s : State) (a : Nat) (bs : List Byte) (hS : s.Safe lf lg cq) :
    ((State.putDev s a bs)).Safe lf lg cq := by
  unfold State.putDev
  repeat' (first
    | with_reducible assumption
    | with_reducible apply State.putMem_safe
    | with_reducible apply foldl_snd2_safe
    | with_reducible refine pair3_safe (by with_reducible assumption) ?_
    | with_reducible refine pair_safe (by with_reducible assumption) ?_
    | with_reducible apply foldl_safe
    | with_reducible apply foldl_snd_safe
    | intro _
    | split
    | dsimp only
    | refine State.Safe.lit ?_ rfl rfl rfl rfl)

theorem State.ctrRead_safe (s : State) (n : Nat) (hS : s.Safe lf lg cq) :
    ((State.ctrRead s n).2).Safe lf lg cq := by
  unfold State.ctrRead
  repeat' (first
    | with_reducible assumption
    | with_reducible apply State.fresh_safe
    | with_reducible refine State.fresh_safe' (by with_reducible assumption) ?_
    | with_reducible apply foldl_snd2_safe
    | with_reducible refine pair3_safe (by with_reducible assumption) ?_
    | with_reducible refine pair_safe (by with_reducible assumption) ?_
    | with_reducible apply foldl_safe
    | with_reducible apply foldl_snd_safe
    | intro _
    | split
    | dsimp only
    | refine State.Safe.lit ?_ rfl rfl rfl rfl)

theorem State.ctrRead_safe' {s : State} {n : Nat} {y0 t} (eqn : (State.ctrRead s n) = (y0, t)) (hS : s.Safe lf lg cq)  : t.Safe lf lg cq := by
  have := State.ctrRead_safe s n hS
  rw [eqn] at this; exact this

theorem State.lifeTotal_safe (s : State) (n : Nat) (hS : s.Safe lf lg cq) :
    ((State.lifeTotal s n)).Safe lf lg cq := by
  unfold State.lifeTotal
  repeat' (first
    | with_reducible assumption
    | with_reducible apply State.touch_safe
    | with_reducible apply State.ctrRead_safe
    | with_reducible refine State.ctrRead_safe' (by with_reducible assumption) ?_
    | with_reducible apply foldl_snd2_safe
    | with_reducible refine pair3_safe (by with_reducible assumption) ?_
    | with_reducible refine pair_safe (by with_reducible assumption) ?_
    | with_reducible apply foldl_safe
    | with_reducible apply foldl_snd_safe
    | intro _
    | split
    | dsimp only
    | refine State.Safe.lit ?_ rfl rfl rfl rfl)

theorem State.sweepRecs_safe (s : State) (ps : Nat) (k : Nat) (a3 : List Nat) (hS : s.Safe lf lg cq) :
    ((State.sweepRecs s ps k a3).2).Safe lf lg cq := by
  induction a3 generalizing s k with
  | nil => exact hS
  | cons v vs ih =>
    unfold State.sweepRecs
    repeat' (first
      | with_reducible assumption
      | with_reducible apply State.ctrRead_safe
      | with_reducible refine State.ctrRead_safe' (by with_reducible assumption) ?_
      | with_reducible apply ih
      | with_reducible refine prod_safe (by with_reducible assumption) (ih _ _ ?_)
      | with_reducible apply foldl_snd2_safe
      | with_reducible refine pair3_safe (by with_reducible assumption) ?_
      | with_reducible refine pair_safe (by with_reducible assumption) ?_
      | with_reducible apply foldl_safe
      | with_reducible apply foldl_snd_safe
      | intro _
      | split
      | dsimp only
      | refine State.Safe.lit ?_ rfl rfl rfl rfl)

theorem State.sweepRecs_safe' {s : State} {ps : Nat} {k : Nat} {a3 : List Nat} {y0 t} (eqn : (State.sweepRecs s ps k a3) = (y0, t)) (hS : s.Safe lf lg cq)  : t.Safe lf lg cq := by
  have := State.sweepRecs_safe s ps k a3 hS
  rw [eqn] at this; exact this

theorem State.sweepGo_safe (s : State) (hS : s.Safe lf lg cq) :
    ((State.sweepGo s)).Safe lf lg cq := by
  unfold State.sweepGo
  repeat' (first
    | with_reducible assumption
    | with_reducible apply State.putDev_safe
    | with_reducible apply foldl_snd2_safe
    | with_reducible refine pair3_safe (by with_reducible assumption) ?_
    | with_reducible refine pair_safe (by with_reducible assumption) ?_
    | with_reducible apply foldl_safe
    | with_reducible apply foldl_snd_safe
    | intro _
    | split
    | dsimp only
    | refine State.Safe.lit ?_ rfl rfl rfl rfl)

theorem State.sweepCmd_safe (s : State) (p : Path) (hS : s.Safe lf lg cq) :
    ((State.sweepCmd s p)).Safe lf lg cq := by
  unfold State.sweepCmd
  repeat' (first
    | with_reducible assumption
    | with_reducible apply State.ignored_safe
    | with_reducible apply State.sweepGo_safe
    | with_reducible apply foldl_snd2_safe
    | with_reducible refine pair3_safe (by with_reducible assumption) ?_
    | with_reducible refine pair_safe (by with_reducible assumption) ?_
    | with_reducible apply foldl_safe
    | with_reducible apply foldl_snd_safe
    | intro _
    | split
    | dsimp only
    | refine State.Safe.lit ?_ rfl rfl rfl rfl)

theorem State.clearPeak_safe (s : State) (hS : s.Safe lf lg cq) :
    ((State.clearPeak s)).Safe lf lg cq := by
  unfold State.clearPeak
  repeat' (first
    | with_reducible assumption
    | with_reducible apply foldl_snd2_safe
    | with_reducible refine pair3_safe (by with_reducible assumption) ?_
    | with_reducible refine pair_safe (by with_reducible assumption) ?_
    | with_reducible apply foldl_safe
    | with_reducible apply foldl_snd_safe
    | intro _
    | split
    | dsimp only
    | refine State.Safe.lit ?_ rfl rfl rfl rfl)

theorem State.sampleIdx_safe (s : State) (c : Nat) (v : Nat) (hS : s.Safe lf lg cq) :
    ((State.sampleIdx s c v)).Safe lf lg cq := by
  unfold State.sampleIdx
  repeat' (first
    | with_reducible assumption
    | with_reducible apply State.wr_safe
    | with_reducible apply State.setCore_safe
    | with_reducible apply foldl_snd2_safe
    | with_reducible refine pair3_safe (by with_reducible assumption) ?_
    | with_reducible refine pair_safe (by with_reducible assumption) ?_
    | with_reducible apply foldl_safe
    | with_reducible apply foldl_snd_safe
    | intro _
    | split
    | dsimp only
    | refine State.Safe.lit ?_ rfl rfl rfl rfl)

theorem State.winCfg_safe (s : State) (p : Path) (v : Nat) (hS : s.Safe lf lg cq) :
    ((State.winCfg s p v)).Safe lf lg cq := by
  unfold State.winCfg
  repeat' (first
    | with_reducible assumption
    | with_reducible apply State.ignored_safe
    | with_reducible apply State.wr_safe
    | with_reducible apply foldl_snd2_safe
    | with_reducible refine pair3_safe (by with_reducible assumption) ?_
    | with_reducible refine pair_safe (by with_reducible assumption) ?_
    | with_reducible apply foldl_safe
    | with_reducible apply foldl_snd_safe
    | intro _
    | split
    | dsimp only
    | refine State.Safe.lit ?_ rfl rfl rfl rfl)

theorem State.latch_safe (s : State) (p : Path) (addr : Nat) (v : Nat) (hS : s.Safe lf lg cq) :
    ((State.latch s p addr v)).Safe lf lg cq := by
  unfold State.latch
  exact ⟨hS.mem, hS.host, hS.regs, hS.ring, hS.fw, hS.cfg, hS.queue, { hS.canon with latches := wf_setD _ _ hS.canon.latches }⟩

theorem State.winRead_safe (s : State) (hS : s.Safe lf lg cq) :
    ((State.winRead s).2.2).Safe lf lg cq := by
  unfold State.winRead
  repeat' (first
    | with_reducible assumption
    | with_reducible apply State.fresh_safe
    | with_reducible refine State.fresh_safe' (by with_reducible assumption) ?_
    | with_reducible apply foldl_snd2_safe
    | with_reducible refine pair3_safe (by with_reducible assumption) ?_
    | with_reducible refine pair_safe (by with_reducible assumption) ?_
    | with_reducible apply foldl_safe
    | with_reducible apply foldl_snd_safe
    | intro _
    | split
    | dsimp only
    | refine State.Safe.lit ?_ rfl rfl rfl rfl)

theorem State.winRead_safe' {s : State} {y0 y1 t} (eqn : (State.winRead s) = (y1, (y0, t))) (hS : s.Safe lf lg cq)  : t.Safe lf lg cq := by
  have := State.winRead_safe s hS
  rw [eqn] at this; exact this

theorem State.winLastLo_safe (s : State) (p : Path) (hS : s.Safe lf lg cq) :
    ((State.winLastLo s p).2).Safe lf lg cq := by
  unfold State.winLastLo
  repeat' (first
    | with_reducible assumption
    | with_reducible apply State.latch_safe
    | with_reducible apply State.winRead_safe
    | with_reducible refine State.winRead_safe' (by with_reducible assumption) ?_
    | with_reducible apply foldl_snd2_safe
    | with_reducible refine pair3_safe (by with_reducible assumption) ?_
    | with_reducible refine pair_safe (by with_reducible assumption) ?_
    | with_reducible apply foldl_safe
    | with_reducible apply foldl_snd_safe
    | intro _
    | split
    | dsimp only
    | refine State.Safe.lit ?_ rfl rfl rfl rfl)

theorem State.winLastLo_safe' {s : State} {p : Path} {y0 t} (eqn : (State.winLastLo s p) = (y0, t)) (hS : s.Safe lf lg cq)  : t.Safe lf lg cq := by
  have := State.winLastLo_safe s p hS
  rw [eqn] at this; exact this

theorem State.ctrLo_safe (s : State) (p : Path) (n : Nat) (addr : Nat) (hS : s.Safe lf lg cq) :
    ((State.ctrLo s p n addr).2).Safe lf lg cq := by
  unfold State.ctrLo
  repeat' (first
    | with_reducible assumption
    | with_reducible apply State.ctrRead_safe
    | with_reducible refine State.ctrRead_safe' (by with_reducible assumption) ?_
    | with_reducible apply State.latch_safe
    | with_reducible apply foldl_snd2_safe
    | with_reducible refine pair3_safe (by with_reducible assumption) ?_
    | with_reducible refine pair_safe (by with_reducible assumption) ?_
    | with_reducible apply foldl_safe
    | with_reducible apply foldl_snd_safe
    | intro _
    | split
    | dsimp only
    | refine State.Safe.lit ?_ rfl rfl rfl rfl)

theorem State.ctrLo_safe' {s : State} {p : Path} {n : Nat} {addr : Nat} {y0 t} (eqn : (State.ctrLo s p n addr) = (y0, t)) (hS : s.Safe lf lg cq)  : t.Safe lf lg cq := by
  have := State.ctrLo_safe s p n addr hS
  rw [eqn] at this; exact this

theorem State.sampleWrite_safe (s : State) (c : Nat) (bs : List Byte) (hS : s.Safe lf lg cq) :
    ((State.sampleWrite s c bs)).Safe lf lg cq := by
  unfold State.sampleWrite
  repeat' (first
    | with_reducible assumption
    | with_reducible apply State.bump_safe
    | with_reducible apply State.wr_safe
    | with_reducible apply State.setCore_safe
    | with_reducible apply State.count_safe
    | with_reducible apply foldl_snd2_safe
    | with_reducible refine pair3_safe (by with_reducible assumption) ?_
    | with_reducible refine pair_safe (by with_reducible assumption) ?_
    | with_reducible apply foldl_safe
    | with_reducible apply foldl_snd_safe
    | intro _
    | split
    | dsimp only
    | refine State.Safe.lit ?_ rfl rfl rfl rfl)

theorem State.sweepTick_safe (s : State) (hS : s.Safe lf lg cq) :
    ((State.sweepTick s)).Safe lf lg cq := by
  unfold State.sweepTick
  repeat' (first
    | with_reducible assumption
    | with_reducible apply State.sweepGo_safe
    | with_reducible apply State.wf__safe
    | with_reducible apply foldl_snd2_safe
    | with_reducible refine pair3_safe (by with_reducible assumption) ?_
    | with_reducible refine pair_safe (by with_reducible assumption) ?_
    | with_reducible apply foldl_safe
    | with_reducible apply foldl_snd_safe
    | intro _
    | split
    | dsimp only
    | refine State.Safe.lit ?_ rfl rfl rfl rfl)

theorem State.sweepEnd_safe (s : State) (hS : s.Safe lf lg cq) :
    ((State.sweepEnd s)).Safe lf lg cq := by
  unfold State.sweepEnd
  repeat' (first
    | with_reducible assumption
    | with_reducible apply State.fresh_safe
    | with_reducible refine State.fresh_safe' (by with_reducible assumption) ?_
    | with_reducible apply State.wr_safe
    | with_reducible apply State.each_safe
    | with_reducible apply State.putDev_safe
    | with_reducible apply State.sweepRecs_safe
    | with_reducible refine State.sweepRecs_safe' (by with_reducible assumption) ?_
    | with_reducible apply State.wf__safe
    | with_reducible apply State.count_safe
    | with_reducible apply State.lifeTotal_safe
    | with_reducible apply foldl_snd2_safe
    | with_reducible refine pair3_safe (by with_reducible assumption) ?_
    | with_reducible refine pair_safe (by with_reducible assumption) ?_
    | with_reducible apply foldl_safe
    | with_reducible apply foldl_snd_safe
    | intro _
    | split
    | dsimp only
    | refine State.Safe.lit ?_ rfl rfl rfl rfl)

theorem State.windowEnd_safe (s : State) (hS : s.Safe lf lg cq) :
    ((State.windowEnd s)).Safe lf lg cq := by
  unfold State.windowEnd
  repeat' (first
    | with_reducible assumption
    | with_reducible apply foldl_snd2_safe
    | with_reducible refine pair3_safe (by with_reducible assumption) ?_
    | with_reducible refine pair_safe (by with_reducible assumption) ?_
    | with_reducible apply foldl_safe
    | with_reducible apply foldl_snd_safe
    | intro _
    | split
    | dsimp only
    | refine State.Safe.lit ?_ rfl rfl rfl rfl)

end Sys2Proof.Machine
end

