-- ==== Sys2Proof/Laws/Safe/NetOps.lean ====
section
/-! SUPPORT. One lemma for each operation of `Machine/NetOps.lean` that answers a state: it keeps `State.Safe` (the primed form says
the same of an answer that is known by an equation). -/

namespace Sys2Proof.Machine
open Sys2Proof
variable {lf lg : Nat} {cq : List Instr}

theorem State.setPeer_safe (s : State) (i : Nat) (x : Peer) (hS : s.Safe lf lg cq) :
    ((State.setPeer s i x)).Safe lf lg cq := by
  unfold State.setPeer
  exact ⟨hS.mem, hS.host, hS.regs, hS.ring, hS.fw, hS.cfg, hS.queue, { hS.canon with peers := wf_setD _ _ hS.canon.peers }⟩

theorem State.modPeer_safe (s : State) (i : Nat) (f : Peer → Peer) (hS : s.Safe lf lg cq) :
    ((State.modPeer s i f)).Safe lf lg cq := by
  unfold State.modPeer
  repeat' (first
    | with_reducible assumption
    | with_reducible apply State.setPeer_safe
    | with_reducible apply foldl_snd2_safe
    | with_reducible refine pair3_safe (by with_reducible assumption) ?_
    | with_reducible refine pair_safe (by with_reducible assumption) ?_
    | with_reducible apply foldl_safe
    | with_reducible apply foldl_snd_safe
    | intro _
    | split
    | dsimp only
    | refine State.Safe.lit ?_ rfl rfl rfl rfl)

theorem State.modChan_safe (s : State) (i : Nat) (ch : Nat) (f : Chan → Chan) (hS : s.Safe lf lg cq) :
    ((State.modChan s i ch f)).Safe lf lg cq := by
  unfold State.modChan
  repeat' (first
    | with_reducible assumption
    | with_reducible apply State.modPeer_safe
    | with_reducible apply foldl_snd2_safe
    | with_reducible refine pair3_safe (by with_reducible assumption) ?_
    | with_reducible refine pair_safe (by with_reducible assumption) ?_
    | with_reducible apply foldl_safe
    | with_reducible apply foldl_snd_safe
    | intro _
    | split
    | dsimp only
    | refine State.Safe.lit ?_ rfl rfl rfl rfl)

theorem State.txFrame_safe (s : State) (port : Nat) (bytes : List Byte) (hS : s.Safe lf lg cq) :
    ((State.txFrame s port bytes)).Safe lf lg cq := by
  unfold State.txFrame
  repeat' (first
    | with_reducible assumption
    | with_reducible apply State.winCount_safe
    | with_reducible apply State.count_safe
    | with_reducible apply State.send_safe
    | with_reducible apply foldl_snd2_safe
    | with_reducible refine pair3_safe (by with_reducible assumption) ?_
    | with_reducible refine pair_safe (by with_reducible assumption) ?_
    | with_reducible apply foldl_safe
    | with_reducible apply foldl_snd_safe
    | intro _
    | split
    | dsimp only
    | refine State.Safe.lit ?_ rfl rfl rfl rfl)

theorem State.askHop_safe (s : State) (port : Nat) (hop : List Byte) (hS : s.Safe lf lg cq) :
    ((State.askHop s port hop)).Safe lf lg cq := by
  unfold State.askHop
  repeat' (first
    | with_reducible assumption
    | with_reducible apply State.txFrame_safe
    | with_reducible apply foldl_snd2_safe
    | with_reducible refine pair3_safe (by with_reducible assumption) ?_
    | with_reducible refine pair_safe (by with_reducible assumption) ?_
    | with_reducible apply foldl_safe
    | with_reducible apply foldl_snd_safe
    | intro _
    | split
    | dsimp only
    | refine State.Safe.lit ?_ rfl rfl rfl rfl)

theorem State.ipSend_safe (s : State) (port : Nat) (hop : List Byte) (v4 : Bool) (bytes : List Byte) (hS : s.Safe lf lg cq) :
    ((State.ipSend s port hop v4 bytes)).Safe lf lg cq := by
  unfold State.ipSend
  repeat' (first
    | with_reducible assumption
    | with_reducible apply State.askHop_safe
    | with_reducible apply State.txFrame_safe
    | with_reducible apply foldl_snd2_safe
    | with_reducible refine pair3_safe (by with_reducible assumption) ?_
    | with_reducible refine pair_safe (by with_reducible assumption) ?_
    | with_reducible apply foldl_safe
    | with_reducible apply foldl_snd_safe
    | intro _
    | split
    | dsimp only
    | refine State.Safe.lit ?_ rfl rfl rfl rfl)

theorem State.sirinOut_safe (s : State) (i : Nat) (ch : Nat) (bytes : List Byte) (hS : s.Safe lf lg cq) :
    ((State.sirinOut s i ch bytes)).Safe lf lg cq := by
  unfold State.sirinOut
  repeat' (first
    | with_reducible assumption
    | with_reducible apply State.ipSend_safe
    | with_reducible apply foldl_snd2_safe
    | with_reducible refine pair3_safe (by with_reducible assumption) ?_
    | with_reducible refine pair_safe (by with_reducible assumption) ?_
    | with_reducible apply foldl_safe
    | with_reducible apply foldl_snd_safe
    | intro _
    | split
    | dsimp only
    | refine State.Safe.lit ?_ rfl rfl rfl rfl)

theorem State.sirinData_safe (s : State) (i : Nat) (ch : Nat) (p : Pkt) (retx : Bool) (hS : s.Safe lf lg cq) :
    ((State.sirinData s i ch p retx)).Safe lf lg cq := by
  unfold State.sirinData
  repeat' (first
    | with_reducible assumption
    | with_reducible apply State.modChan_safe
    | with_reducible apply State.sirinOut_safe
    | with_reducible apply foldl_snd2_safe
    | with_reducible refine pair3_safe (by with_reducible assumption) ?_
    | with_reducible refine pair_safe (by with_reducible assumption) ?_
    | with_reducible apply foldl_safe
    | with_reducible apply foldl_snd_safe
    | intro _
    | split
    | dsimp only
    | refine State.Safe.lit ?_ rfl rfl rfl rfl)

theorem State.pump_safe (s : State) (i : Nat) (ch : Nat) (hS : s.Safe lf lg cq) :
    ((State.pump s i ch)).Safe lf lg cq := by
  unfold State.pump
  repeat' (first
    | with_reducible assumption
    | with_reducible apply State.modChan_safe
    | with_reducible apply State.each_safe
    | with_reducible apply State.sirinData_safe
    | with_reducible apply foldl_snd2_safe
    | with_reducible refine pair3_safe (by with_reducible assumption) ?_
    | with_reducible refine pair_safe (by with_reducible assumption) ?_
    | with_reducible apply foldl_safe
    | with_reducible apply foldl_snd_safe
    | intro _
    | split
    | dsimp only
    | refine State.Safe.lit ?_ rfl rfl rfl rfl)

theorem State.retransmit_safe (s : State) (i : Nat) (ch : Nat) (o : OutPkt) (fast : Bool) (hS : s.Safe lf lg cq) :
    ((State.retransmit s i ch o fast)).Safe lf lg cq := by
  unfold State.retransmit
  repeat' (first
    | with_reducible assumption
    | with_reducible apply State.bump_safe
    | with_reducible apply State.modChan_safe
    | with_reducible apply State.sirinData_safe
    | with_reducible apply State.count_safe
    | with_reducible apply foldl_snd2_safe
    | with_reducible refine pair3_safe (by with_reducible assumption) ?_
    | with_reducible refine pair_safe (by with_reducible assumption) ?_
    | with_reducible apply foldl_safe
    | with_reducible apply foldl_snd_safe
    | intro _
    | split
    | dsimp only
    | refine State.Safe.lit ?_ rfl rfl rfl rfl)

theorem State.gotAck_safe (s : State) (i : Nat) (ch : Nat) (ack : Nat) (sack : Nat) (window : Nat) (hS : s.Safe lf lg cq) :
    ((State.gotAck s i ch ack sack window)).Safe lf lg cq := by
  unfold State.gotAck
  repeat' (first
    | with_reducible assumption
    | with_reducible apply State.pump_safe
    | with_reducible apply State.each_safe
    | with_reducible apply State.retransmit_safe
    | with_reducible apply State.setPeer_safe
    | with_reducible apply foldl_snd2_safe
    | with_reducible refine pair3_safe (by with_reducible assumption) ?_
    | with_reducible refine pair_safe (by with_reducible assumption) ?_
    | with_reducible apply foldl_safe
    | with_reducible apply foldl_snd_safe
    | intro _
    | split
    | dsimp only
    | refine State.Safe.lit ?_ rfl rfl rfl rfl)

theorem State.sirinCtl_safe (s : State) (i : Nat) (ch : Nat) (typ : Nat) (hS : s.Safe lf lg cq) :
    ((State.sirinCtl s i ch typ)).Safe lf lg cq := by
  unfold State.sirinCtl
  repeat' (first
    | with_reducible assumption
    | with_reducible apply State.modChan_safe
    | with_reducible apply State.sirinOut_safe
    | with_reducible apply foldl_snd2_safe
    | with_reducible refine pair3_safe (by with_reducible assumption) ?_
    | with_reducible refine pair_safe (by with_reducible assumption) ?_
    | with_reducible apply foldl_safe
    | with_reducible apply foldl_snd_safe
    | intro _
    | split
    | dsimp only
    | refine State.Safe.lit ?_ rfl rfl rfl rfl)

theorem State.tookMsg_safe (s : State) (i : Nat) (ch : Nat) (hS : s.Safe lf lg cq) :
    ((State.tookMsg s i ch)).Safe lf lg cq := by
  unfold State.tookMsg
  repeat' (first
    | with_reducible assumption
    | with_reducible apply State.modChan_safe
    | with_reducible apply foldl_snd2_safe
    | with_reducible refine pair3_safe (by with_reducible assumption) ?_
    | with_reducible refine pair_safe (by with_reducible assumption) ?_
    | with_reducible apply foldl_safe
    | with_reducible apply foldl_snd_safe
    | intro _
    | split
    | dsimp only
    | refine State.Safe.lit ?_ rfl rfl rfl rfl)

theorem State.openBegin_safe (s : State) (i : Nat) (hS : s.Safe lf lg cq) :
    ((State.openBegin s i)).Safe lf lg cq := by
  unfold State.openBegin
  repeat' (first
    | with_reducible assumption
    | with_reducible apply State.sirinCtl_safe
    | with_reducible apply State.modPeer_safe
    | with_reducible apply foldl_snd2_safe
    | with_reducible refine pair3_safe (by with_reducible assumption) ?_
    | with_reducible refine pair_safe (by with_reducible assumption) ?_
    | with_reducible apply foldl_safe
    | with_reducible apply foldl_snd_safe
    | intro _
    | split
    | dsimp only
    | refine State.Safe.lit ?_ rfl rfl rfl rfl)

theorem State.srnSend_safe (s : State) (i : Nat) (ch : Nat) (typ : Nat) (pay : List Byte) (hS : s.Safe lf lg cq) :
    ((State.srnSend s i ch typ pay).2).Safe lf lg cq := by
  unfold State.srnSend
  repeat' (first
    | with_reducible assumption
    | with_reducible apply State.pump_safe
    | with_reducible apply State.modChan_safe
    | with_reducible apply State.openBegin_safe
    | with_reducible apply State.count_safe
    | with_reducible apply foldl_snd2_safe
    | with_reducible refine pair3_safe (by with_reducible assumption) ?_
    | with_reducible refine pair_safe (by with_reducible assumption) ?_
    | with_reducible apply foldl_safe
    | with_reducible apply foldl_snd_safe
    | intro _
    | split
    | dsimp only
    | refine State.Safe.lit ?_ rfl rfl rfl rfl)

theorem State.srnSend_safe' {s : State} {i : Nat} {ch : Nat} {typ : Nat} {pay : List Byte} {y0 t} (eqn : (State.srnSend s i ch typ pay) = (y0, t)) (hS : s.Safe lf lg cq)  : t.Safe lf lg cq := by
  have := State.srnSend_safe s i ch typ pay hS
  rw [eqn] at this; exact this

theorem State.refuse_safe (s : State) (i : Nat) (ch : Nat) (typ : Nat) (cause : Nat) (version : Nat) (step : Nat) (hS : s.Safe lf lg cq) :
    ((State.refuse s i ch typ cause version step)).Safe lf lg cq := by
  unfold State.refuse
  repeat' (first
    | with_reducible assumption
    | with_reducible apply State.raise_safe
    | with_reducible apply State.srnSend_safe
    | with_reducible refine State.srnSend_safe' (by with_reducible assumption) ?_
    | with_reducible apply foldl_snd2_safe
    | with_reducible refine pair3_safe (by with_reducible assumption) ?_
    | with_reducible refine pair_safe (by with_reducible assumption) ?_
    | with_reducible apply foldl_safe
    | with_reducible apply foldl_snd_safe
    | intro _
    | split
    | dsimp only
    | refine State.Safe.lit ?_ rfl rfl rfl rfl)

theorem State.writeBackFailed_safe (s : State) (tag : Nat) (hS : s.Safe lf lg cq) :
    ((State.writeBackFailed s tag)).Safe lf lg cq := by
  unfold State.writeBackFailed
  repeat' (first
    | with_reducible assumption
    | with_reducible apply State.setAdp_safe
    | with_reducible apply State.raise_safe
    | with_reducible apply State.flag_safe
    | with_reducible apply foldl_snd2_safe
    | with_reducible refine pair3_safe (by with_reducible assumption) ?_
    | with_reducible refine pair_safe (by with_reducible assumption) ?_
    | with_reducible apply foldl_safe
    | with_reducible apply foldl_snd_safe
    | intro _
    | split
    | dsimp only
    | refine State.Safe.lit ?_ rfl rfl rfl rfl)

theorem State.chainBroken_safe (s : State) (m : Nat) (peer : Nat) (off : Nat) (hS : s.Safe lf lg cq) :
    ((State.chainBroken s m peer off)).Safe lf lg cq := by
  unfold State.chainBroken
  repeat' (first
    | with_reducible assumption
    | with_reducible apply State.raise_safe
    | with_reducible apply State.flag_safe
    | with_reducible apply State.modModel_safe
    | with_reducible apply foldl_snd2_safe
    | with_reducible refine pair3_safe (by with_reducible assumption) ?_
    | with_reducible refine pair_safe (by with_reducible assumption) ?_
    | with_reducible apply foldl_safe
    | with_reducible apply foldl_snd_safe
    | intro _
    | split
    | dsimp only
    | refine State.Safe.lit ?_ rfl rfl rfl rfl)

theorem State.msgFailed_safe (s : State) (i : Nat) (m : OutMsg) (hS : s.Safe lf lg cq) :
    ((State.msgFailed s i m)).Safe lf lg cq := by
  unfold State.msgFailed
  repeat' (first
    | with_reducible assumption
    | with_reducible apply State.writeBackFailed_safe
    | with_reducible apply State.raise_safe
    | with_reducible apply State.chainBroken_safe
    | with_reducible apply foldl_snd2_safe
    | with_reducible refine pair3_safe (by with_reducible assumption) ?_
    | with_reducible refine pair_safe (by with_reducible assumption) ?_
    | with_reducible apply foldl_safe
    | with_reducible apply foldl_snd_safe
    | intro _
    | split
    | dsimp only
    | refine State.Safe.lit ?_ rfl rfl rfl rfl)

theorem State.failAll_safe (s : State) (i : Nat) (hS : s.Safe lf lg cq) :
    ((State.failAll s i).2).Safe lf lg cq := by
  unfold State.failAll
  repeat' (first
    | with_reducible assumption
    | with_reducible apply State.each_safe
    | with_reducible apply State.setPeer_safe
    | with_reducible apply State.msgFailed_safe
    | with_reducible apply foldl_snd2_safe
    | with_reducible refine pair3_safe (by with_reducible assumption) ?_
    | with_reducible refine pair_safe (by with_reducible assumption) ?_
    | with_reducible apply foldl_safe
    | with_reducible apply foldl_snd_safe
    | intro _
    | split
    | dsimp only
    | refine State.Safe.lit ?_ rfl rfl rfl rfl)

theorem State.failAll_safe' {s : State} {i : Nat} {y0 t} (eqn : (State.failAll s i) = (y0, t)) (hS : s.Safe lf lg cq)  : t.Safe lf lg cq := by
  have := State.failAll_safe s i hS
  rw [eqn] at this; exact this

theorem State.unreachable_safe (s : State) (i : Nat) (event : Bool) (hS : s.Safe lf lg cq) :
    ((State.unreachable s i event)).Safe lf lg cq := by
  unfold State.unreachable
  repeat' (first
    | with_reducible assumption
    | with_reducible apply State.modPeer_safe
    | with_reducible apply State.failAll_safe
    | with_reducible refine State.failAll_safe' (by with_reducible assumption) ?_
    | with_reducible apply State.raise_safe
    | with_reducible apply foldl_snd2_safe
    | with_reducible refine pair3_safe (by with_reducible assumption) ?_
    | with_reducible refine pair_safe (by with_reducible assumption) ?_
    | with_reducible apply foldl_safe
    | with_reducible apply foldl_snd_safe
    | intro _
    | split
    | dsimp only
    | refine State.Safe.lit ?_ rfl rfl rfl rfl)

theorem State.retxTimeout_safe (s : State) (i : Nat) (ch : Nat) (hS : s.Safe lf lg cq) :
    ((State.retxTimeout s i ch)).Safe lf lg cq := by
  unfold State.retxTimeout
  repeat' (first
    | with_reducible assumption
    | with_reducible apply State.unreachable_safe
    | with_reducible apply State.retransmit_safe
    | with_reducible apply foldl_snd2_safe
    | with_reducible refine pair3_safe (by with_reducible assumption) ?_
    | with_reducible refine pair_safe (by with_reducible assumption) ?_
    | with_reducible apply foldl_safe
    | with_reducible apply foldl_snd_safe
    | intro _
    | split
    | dsimp only
    | refine State.Safe.lit ?_ rfl rfl rfl rfl)

theorem State.closePeer_safe (s : State) (i : Nat) (hS : s.Safe lf lg cq) :
    ((State.closePeer s i)).Safe lf lg cq := by
  unfold State.closePeer
  repeat' (first
    | with_reducible assumption
    | with_reducible apply State.modPeer_safe
    | with_reducible apply State.failAll_safe
    | with_reducible refine State.failAll_safe' (by with_reducible assumption) ?_
    | with_reducible apply foldl_snd2_safe
    | with_reducible refine pair3_safe (by with_reducible assumption) ?_
    | with_reducible refine pair_safe (by with_reducible assumption) ?_
    | with_reducible apply foldl_safe
    | with_reducible apply foldl_snd_safe
    | intro _
    | split
    | dsimp only
    | refine State.Safe.lit ?_ rfl rfl rfl rfl)

theorem State.closeAll_safe (s : State) (hS : s.Safe lf lg cq) :
    ((State.closeAll s)).Safe lf lg cq := by
  unfold State.closeAll
  repeat' (first
    | with_reducible assumption
    | with_reducible apply State.closePeer_safe
    | with_reducible apply State.each_safe
    | with_reducible apply foldl_snd2_safe
    | with_reducible refine pair3_safe (by with_reducible assumption) ?_
    | with_reducible refine pair_safe (by with_reducible assumption) ?_
    | with_reducible apply foldl_safe
    | with_reducible apply foldl_snd_safe
    | intro _
    | split
    | dsimp only
    | refine State.Safe.lit ?_ rfl rfl rfl rfl)

theorem State.takeCtl_safe (s : State) (i : Nat) (typ : Nat) (hS : s.Safe lf lg cq) :
    ((State.takeCtl s i typ).2).Safe lf lg cq := by
  unfold State.takeCtl
  repeat' (first
    | with_reducible assumption
    | with_reducible apply State.setPeer_safe
    | with_reducible apply foldl_snd2_safe
    | with_reducible refine pair3_safe (by with_reducible assumption) ?_
    | with_reducible refine pair_safe (by with_reducible assumption) ?_
    | with_reducible apply foldl_safe
    | with_reducible apply foldl_snd_safe
    | intro _
    | split
    | dsimp only
    | refine State.Safe.lit ?_ rfl rfl rfl rfl)

theorem State.takeCtl_safe' {s : State} {i : Nat} {typ : Nat} {y0 t} (eqn : (State.takeCtl s i typ) = (y0, t)) (hS : s.Safe lf lg cq)  : t.Safe lf lg cq := by
  have := State.takeCtl_safe s i typ hS
  rw [eqn] at this; exact this

theorem State.fecCount_safe (s : State) (port : Nat) (fixed : Nat) (lost : Nat) (hS : s.Safe lf lg cq) :
    ((State.fecCount s port fixed lost)).Safe lf lg cq := by
  unfold State.fecCount
  repeat' (first
    | with_reducible assumption
    | with_reducible apply State.bump_safe
    | with_reducible apply State.raise_safe
    | with_reducible apply State.count_safe
    | with_reducible apply foldl_snd2_safe
    | with_reducible refine pair3_safe (by with_reducible assumption) ?_
    | with_reducible refine pair_safe (by with_reducible assumption) ?_
    | with_reducible apply foldl_safe
    | with_reducible apply foldl_snd_safe
    | intro _
    | split
    | dsimp only
    | refine State.Safe.lit ?_ rfl rfl rfl rfl)

theorem State.peerOpen_safe (s : State) (i : Nat) (epoch : Nat) (hS : s.Safe lf lg cq) :
    ((State.peerOpen s i epoch)).Safe lf lg cq := by
  unfold State.peerOpen
  repeat' (first
    | with_reducible assumption
    | with_reducible apply State.pump_safe
    | with_reducible apply State.modPeer_safe
    | with_reducible apply State.raise_safe
    | with_reducible apply foldl_snd2_safe
    | with_reducible refine pair3_safe (by with_reducible assumption) ?_
    | with_reducible refine pair_safe (by with_reducible assumption) ?_
    | with_reducible apply foldl_safe
    | with_reducible apply foldl_snd_safe
    | intro _
    | split
    | dsimp only
    | refine State.Safe.lit ?_ rfl rfl rfl rfl)

theorem State.srnDrop_safe (s : State) (hS : s.Safe lf lg cq) :
    ((State.srnDrop s)).Safe lf lg cq := by
  unfold State.srnDrop
  repeat' (first
    | with_reducible assumption
    | with_reducible apply State.bump_safe
    | with_reducible apply foldl_snd2_safe
    | with_reducible refine pair3_safe (by with_reducible assumption) ?_
    | with_reducible refine pair_safe (by with_reducible assumption) ?_
    | with_reducible apply foldl_safe
    | with_reducible apply foldl_snd_safe
    | intro _
    | split
    | dsimp only
    | refine State.Safe.lit ?_ rfl rfl rfl rfl)

theorem State.gotData_safe (s : State) (i : Nat) (ch : Nat) (p : Pkt) (hS : s.Safe lf lg cq) :
    ((State.gotData s i ch p)).Safe lf lg cq := by
  unfold State.gotData
  repeat' (first
    | with_reducible assumption
    | with_reducible apply State.sirinCtl_safe
    | with_reducible apply State.modChan_safe
    | with_reducible apply State.count_safe
    | with_reducible apply foldl_snd2_safe
    | with_reducible refine pair3_safe (by with_reducible assumption) ?_
    | with_reducible refine pair_safe (by with_reducible assumption) ?_
    | with_reducible apply foldl_safe
    | with_reducible apply foldl_snd_safe
    | intro _
    | split
    | dsimp only
    | refine State.Safe.lit ?_ rfl rfl rfl rfl)

theorem State.gotSirin_safe (s : State) (src : List Byte) (sp : Nat) (d : List Byte) (hS : s.Safe lf lg cq) :
    ((State.gotSirin s src sp d)).Safe lf lg cq := by
  unfold State.gotSirin
  repeat' (first
    | with_reducible assumption
    | with_reducible apply State.gotAck_safe
    | with_reducible apply State.srnDrop_safe
    | with_reducible apply State.setPeer_safe
    | with_reducible apply State.gotData_safe
    | with_reducible apply foldl_snd2_safe
    | with_reducible refine pair3_safe (by with_reducible assumption) ?_
    | with_reducible refine pair_safe (by with_reducible assumption) ?_
    | with_reducible apply foldl_safe
    | with_reducible apply foldl_snd_safe
    | intro _
    | split
    | dsimp only
    | refine State.Safe.lit ?_ rfl rfl rfl rfl)

theorem State.dropFrame_safe (s : State) (port : Nat) (hS : s.Safe lf lg cq) :
    ((State.dropFrame s port)).Safe lf lg cq := by
  unfold State.dropFrame
  repeat' (first
    | with_reducible assumption
    | with_reducible apply State.bump_safe
    | with_reducible apply State.count_safe
    | with_reducible apply foldl_snd2_safe
    | with_reducible refine pair3_safe (by with_reducible assumption) ?_
    | with_reducible refine pair_safe (by with_reducible assumption) ?_
    | with_reducible apply foldl_safe
    | with_reducible apply foldl_snd_safe
    | intro _
    | split
    | dsimp only
    | refine State.Safe.lit ?_ rfl rfl rfl rfl)

theorem State.resolved_safe (s : State) (port : Nat) (hop : List Byte) (mac : List Byte) (hS : s.Safe lf lg cq) :
    ((State.resolved s port hop mac)).Safe lf lg cq := by
  unfold State.resolved
  repeat' (first
    | with_reducible assumption
    | with_reducible apply State.each_safe
    | with_reducible apply State.ipSend_safe
    | with_reducible apply foldl_snd2_safe
    | with_reducible refine pair3_safe (by with_reducible assumption) ?_
    | with_reducible refine pair_safe (by with_reducible assumption) ?_
    | with_reducible apply foldl_safe
    | with_reducible apply foldl_snd_safe
    | intro _
    | split
    | dsimp only
    | refine State.Safe.lit ?_ rfl rfl rfl rfl)

theorem State.gotUdp_safe (s : State) (port : Nat) (src : List Byte) (u : List Byte) (hS : s.Safe lf lg cq) :
    ((State.gotUdp s port src u)).Safe lf lg cq := by
  unfold State.gotUdp
  repeat' (first
    | with_reducible assumption
    | with_reducible apply State.dropFrame_safe
    | with_reducible apply State.gotSirin_safe
    | with_reducible apply foldl_snd2_safe
    | with_reducible refine pair3_safe (by with_reducible assumption) ?_
    | with_reducible refine pair_safe (by with_reducible assumption) ?_
    | with_reducible apply foldl_safe
    | with_reducible apply foldl_snd_safe
    | intro _
    | split
    | dsimp only
    | refine State.Safe.lit ?_ rfl rfl rfl rfl)

theorem State.gotIp6_safe (s : State) (port : Nat) (smac : List Byte) (p : List Byte) (hS : s.Safe lf lg cq) :
    ((State.gotIp6 s port smac p)).Safe lf lg cq := by
  unfold State.gotIp6
  repeat' (first
    | with_reducible assumption
    | with_reducible apply State.dropFrame_safe
    | with_reducible apply State.resolved_safe
    | with_reducible apply State.gotUdp_safe
    | with_reducible apply State.txFrame_safe
    | with_reducible apply foldl_snd2_safe
    | with_reducible refine pair3_safe (by with_reducible assumption) ?_
    | with_reducible refine pair_safe (by with_reducible assumption) ?_
    | with_reducible apply foldl_safe
    | with_reducible apply foldl_snd_safe
    | intro _
    | split
    | dsimp only
    | refine State.Safe.lit ?_ rfl rfl rfl rfl)

theorem State.gotIp4_safe (s : State) (port : Nat) (smac : List Byte) (p : List Byte) (hS : s.Safe lf lg cq) :
    ((State.gotIp4 s port smac p)).Safe lf lg cq := by
  unfold State.gotIp4
  repeat' (first
    | with_reducible assumption
    | with_reducible apply State.dropFrame_safe
    | with_reducible apply State.gotUdp_safe
    | with_reducible apply State.txFrame_safe
    | with_reducible apply foldl_snd2_safe
    | with_reducible refine pair3_safe (by with_reducible assumption) ?_
    | with_reducible refine pair_safe (by with_reducible assumption) ?_
    | with_reducible apply foldl_safe
    | with_reducible apply foldl_snd_safe
    | intro _
    | split
    | dsimp only
    | refine State.Safe.lit ?_ rfl rfl rfl rfl)

theorem State.gotArp_safe (s : State) (port : Nat) (p : List Byte) (hS : s.Safe lf lg cq) :
    ((State.gotArp s port p)).Safe lf lg cq := by
  unfold State.gotArp
  repeat' (first
    | with_reducible assumption
    | with_reducible apply State.dropFrame_safe
    | with_reducible apply State.resolved_safe
    | with_reducible apply State.txFrame_safe
    | with_reducible apply foldl_snd2_safe
    | with_reducible refine pair3_safe (by with_reducible assumption) ?_
    | with_reducible refine pair_safe (by with_reducible assumption) ?_
    | with_reducible apply foldl_safe
    | with_reducible apply foldl_snd_safe
    | intro _
    | split
    | dsimp only
    | refine State.Safe.lit ?_ rfl rfl rfl rfl)

theorem State.rxFrame_safe (s : State) (port : Nat) (f : List Byte) (hS : s.Safe lf lg cq) :
    ((State.rxFrame s port f)).Safe lf lg cq := by
  unfold State.rxFrame
  repeat' (first
    | with_reducible assumption
    | with_reducible apply State.gotIp6_safe
    | with_reducible apply State.dropFrame_safe
    | with_reducible apply State.winCount_safe
    | with_reducible apply State.gotIp4_safe
    | with_reducible apply State.gotArp_safe
    | with_reducible apply State.count_safe
    | with_reducible apply foldl_snd2_safe
    | with_reducible refine pair3_safe (by with_reducible assumption) ?_
    | with_reducible refine pair_safe (by with_reducible assumption) ?_
    | with_reducible apply foldl_safe
    | with_reducible apply foldl_snd_safe
    | intro _
    | split
    | dsimp only
    | refine State.Safe.lit ?_ rfl rfl rfl rfl)

theorem State.gotOpen_safe (s : State) (i : Nat) (epoch : Nat) (hS : s.Safe lf lg cq) :
    ((State.gotOpen s i epoch)).Safe lf lg cq := by
  unfold State.gotOpen
  repeat' (first
    | with_reducible assumption
    | with_reducible apply State.sirinCtl_safe
    | with_reducible apply State.pump_safe
    | with_reducible apply State.peerOpen_safe
    | with_reducible apply State.each_safe
    | with_reducible apply State.raise_safe
    | with_reducible apply State.setPeer_safe
    | with_reducible apply State.msgFailed_safe
    | with_reducible apply foldl_snd2_safe
    | with_reducible refine pair3_safe (by with_reducible assumption) ?_
    | with_reducible refine pair_safe (by with_reducible assumption) ?_
    | with_reducible apply foldl_safe
    | with_reducible apply foldl_snd_safe
    | intro _
    | split
    | dsimp only
    | refine State.Safe.lit ?_ rfl rfl rfl rfl)

theorem State.gotOpenAck_safe (s : State) (i : Nat) (epoch : Nat) (hS : s.Safe lf lg cq) :
    ((State.gotOpenAck s i epoch)).Safe lf lg cq := by
  unfold State.gotOpenAck
  repeat' (first
    | with_reducible assumption
    | with_reducible apply State.peerOpen_safe
    | with_reducible apply foldl_snd2_safe
    | with_reducible refine pair3_safe (by with_reducible assumption) ?_
    | with_reducible refine pair_safe (by with_reducible assumption) ?_
    | with_reducible apply foldl_safe
    | with_reducible apply foldl_snd_safe
    | intro _
    | split
    | dsimp only
    | refine State.Safe.lit ?_ rfl rfl rfl rfl)

end Sys2Proof.Machine
end

