-- ==== Sys2Proof/Laws/Safe/PortOps.lean ====
section
/-! SUPPORT. One lemma for each operation of `Machine/PortOps.lean` that answers a state: it keeps `State.Safe` (the primed form says
the same of an answer that is known by an equation). -/

namespace Sys2Proof.Machine
open Sys2Proof
variable {lf lg : Nat} {cq : List Instr}

theorem State.memOpen_safe (s : State) (hS : s.Safe lf lg cq) :
    ((State.memOpen s)).Safe lf lg cq := by
  unfold State.memOpen
  repeat' (first
    | with_reducible assumption
    | with_reducible apply State.fresh_safe
    | with_reducible refine State.fresh_safe' (by with_reducible assumption) ?_
    | with_reducible apply State.putMem_safe
    | with_reducible apply State.modCore_safe
    | with_reducible apply State.wr_safe
    | with_reducible apply State.each_safe
    | with_reducible apply State.wf__safe
    | with_reducible apply foldl_snd2_safe
    | with_reducible refine pair3_safe (by with_reducible assumption) ?_
    | with_reducible refine pair_safe (by with_reducible assumption) ?_
    | with_reducible apply foldl_safe
    | with_reducible apply foldl_snd_safe
    | intro _
    | split
    | dsimp only
    | refine State.Safe.lit ?_ rfl rfl rfl rfl)

theorem State.tbLost_safe (s : State) (hS : s.Safe lf lg cq) :
    ((State.tbLost s)).Safe lf lg cq := by
  unfold State.tbLost
  repeat' (first
    | with_reducible assumption
    | with_reducible apply State.raise_safe
    | with_reducible apply foldl_snd2_safe
    | with_reducible refine pair3_safe (by with_reducible assumption) ?_
    | with_reducible refine pair_safe (by with_reducible assumption) ?_
    | with_reducible apply foldl_safe
    | with_reducible apply foldl_snd_safe
    | intro _
    | split
    | dsimp only
    | refine State.Safe.lit ?_ rfl rfl rfl rfl)

theorem State.ptpSilent_safe (s : State) (hS : s.Safe lf lg cq) :
    ((State.ptpSilent s)).Safe lf lg cq := by
  unfold State.ptpSilent
  repeat' (first
    | with_reducible assumption
    | with_reducible apply State.raise_safe
    | with_reducible apply foldl_snd2_safe
    | with_reducible refine pair3_safe (by with_reducible assumption) ?_
    | with_reducible refine pair_safe (by with_reducible assumption) ?_
    | with_reducible apply foldl_safe
    | with_reducible apply foldl_snd_safe
    | intro _
    | split
    | dsimp only
    | refine State.Safe.lit ?_ rfl rfl rfl rfl)

theorem State.tapLoad_safe (s : State) (t : Tap) (drives : Bool) (hS : s.Safe lf lg cq) :
    ((State.tapLoad s t drives)).Safe lf lg cq := by
  unfold State.tapLoad
  repeat' (first
    | with_reducible assumption
    | with_reducible apply foldl_snd2_safe
    | with_reducible refine pair3_safe (by with_reducible assumption) ?_
    | with_reducible refine pair_safe (by with_reducible assumption) ?_
    | with_reducible apply foldl_safe
    | with_reducible apply foldl_snd_safe
    | intro _
    | split
    | dsimp only
    | refine State.Safe.lit ?_ rfl rfl rfl rfl)

theorem State.msixSend_safe (s : State) (v : Nat) (hS : s.Safe lf lg cq) :
    ((State.msixSend s v)).Safe lf lg cq := by
  unfold State.msixSend
  repeat' (first
    | with_reducible assumption
    | with_reducible apply State.send_safe
    | with_reducible apply foldl_snd2_safe
    | with_reducible refine pair3_safe (by with_reducible assumption) ?_
    | with_reducible refine pair_safe (by with_reducible assumption) ?_
    | with_reducible apply foldl_safe
    | with_reducible apply foldl_snd_safe
    | intro _
    | split
    | dsimp only
    | refine State.Safe.lit ?_ rfl rfl rfl rfl)

theorem State.tbsCfg_safe (s : State) (p : Path) (v : Nat) (hS : s.Safe lf lg cq) :
    ((State.tbsCfg s p v)).Safe lf lg cq := by
  unfold State.tbsCfg
  repeat' (first
    | with_reducible assumption
    | with_reducible apply State.ignored_safe
    | with_reducible apply State.wr_safe
    | with_reducible apply foldl_snd2_safe
    | with_reducible refine pair3_safe (by with_reducible assumption) ?_
    | with_reducible refine pair_safe (by with_reducible assumption) ?_
    | with_reducible apply foldl_safe
    | with_reducible apply foldl_snd_safe
    | intro _
    | split
    | dsimp only
    | refine State.Safe.lit ?_ rfl rfl rfl rfl)

theorem State.msixWrite_safe (s : State) (w : Nat) (v : Nat) (hS : s.Safe lf lg cq) :
    ((State.msixWrite s w v)).Safe lf lg cq := by
  unfold State.msixWrite
  repeat' (first
    | with_reducible assumption
    | with_reducible apply State.msixSend_safe
    | with_reducible apply foldl_snd2_safe
    | with_reducible refine pair3_safe (by with_reducible assumption) ?_
    | with_reducible refine pair_safe (by with_reducible assumption) ?_
    | with_reducible apply foldl_safe
    | with_reducible apply foldl_snd_safe
    | intro _
    | split
    | dsimp only
    | refine State.Safe.lit ?_ rfl rfl rfl rfl)

theorem State.pciDown_safe (s : State) (cause : Nat) (hS : s.Safe lf lg cq) :
    ((State.pciDown s cause)).Safe lf lg cq := by
  unfold State.pciDown
  repeat' (first
    | with_reducible assumption
    | with_reducible apply State.wr_safe
    | with_reducible apply State.raise_safe
    | with_reducible apply State.wf__safe
    | with_reducible apply foldl_snd2_safe
    | with_reducible refine pair3_safe (by with_reducible assumption) ?_
    | with_reducible refine pair_safe (by with_reducible assumption) ?_
    | with_reducible apply foldl_safe
    | with_reducible apply foldl_snd_safe
    | intro _
    | split
    | dsimp only
    | refine State.Safe.lit ?_ rfl rfl rfl rfl)

theorem State.memTrained_safe (s : State) (m : Nat) (ok : Bool) (rate : Nat) (raw : Nat) (typ : Bool) (hS : s.Safe lf lg cq) :
    ((State.memTrained s m ok rate raw typ)).Safe lf lg cq := by
  unfold State.memTrained
  repeat' (first
    | with_reducible assumption
    | with_reducible apply State.memOpen_safe
    | with_reducible apply State.wr_safe
    | with_reducible apply foldl_snd2_safe
    | with_reducible refine pair3_safe (by with_reducible assumption) ?_
    | with_reducible refine pair_safe (by with_reducible assumption) ?_
    | with_reducible apply foldl_safe
    | with_reducible apply foldl_snd_safe
    | intro _
    | split
    | dsimp only
    | refine State.Safe.lit ?_ rfl rfl rfl rfl)

theorem State.tbBack_safe (s : State) (hS : s.Safe lf lg cq) :
    ((State.tbBack s)).Safe lf lg cq := by
  unfold State.tbBack
  repeat' (first
    | with_reducible assumption
    | with_reducible apply State.raise_safe
    | with_reducible apply foldl_snd2_safe
    | with_reducible refine pair3_safe (by with_reducible assumption) ?_
    | with_reducible refine pair_safe (by with_reducible assumption) ?_
    | with_reducible apply foldl_safe
    | with_reducible apply foldl_snd_safe
    | intro _
    | split
    | dsimp only
    | refine State.Safe.lit ?_ rfl rfl rfl rfl)

theorem State.bar2_safe (s : State) (off : Nat) (op : MemOp) (hS : s.Safe lf lg cq) :
    ((State.bar2 s off op)).Safe lf lg cq := by
  unfold State.bar2
  repeat' (first
    | with_reducible assumption
    | with_reducible apply State.ueEvent_safe
    | with_reducible apply State.putMem_safe
    | with_reducible apply State.send_safe
    | with_reducible apply foldl_snd2_safe
    | with_reducible refine pair3_safe (by with_reducible assumption) ?_
    | with_reducible refine pair_safe (by with_reducible assumption) ?_
    | with_reducible apply foldl_safe
    | with_reducible apply foldl_snd_safe
    | intro _
    | split
    | dsimp only
    | refine State.Safe.lit ?_ rfl rfl rfl rfl)

theorem State.pciUp_safe (s : State) (gen : Nat) (width : Nat) (hS : s.Safe lf lg cq) :
    ((State.pciUp s gen width)).Safe lf lg cq := by
  unfold State.pciUp
  repeat' (first
    | with_reducible assumption
    | with_reducible apply State.wr_safe
    | with_reducible apply State.raise_safe
    | with_reducible apply foldl_snd2_safe
    | with_reducible refine pair3_safe (by with_reducible assumption) ?_
    | with_reducible refine pair_safe (by with_reducible assumption) ?_
    | with_reducible apply foldl_safe
    | with_reducible apply foldl_snd_safe
    | intro _
    | split
    | dsimp only
    | refine State.Safe.lit ?_ rfl rfl rfl rfl)

theorem State.ptpSync_safe (s : State) (off : Int) (port : Nat) (hS : s.Safe lf lg cq) :
    ((State.ptpSync s off port)).Safe lf lg cq := by
  unfold State.ptpSync
  repeat' (first
    | with_reducible assumption
    | with_reducible apply State.raise_safe
    | with_reducible apply foldl_snd2_safe
    | with_reducible refine pair3_safe (by with_reducible assumption) ?_
    | with_reducible refine pair_safe (by with_reducible assumption) ?_
    | with_reducible apply foldl_safe
    | with_reducible apply foldl_snd_safe
    | intro _
    | split
    | dsimp only
    | refine State.Safe.lit ?_ rfl rfl rfl rfl)

end Sys2Proof.Machine
end

