-- ==== Sys2Proof/Laws/Safe/PowerOps.lean ====
section
/-! SUPPORT. One lemma for each operation of `Machine/PowerOps.lean` that answers a state: it keeps `State.Safe` (the primed form says
the same of an answer that is known by an equation). -/

namespace Sys2Proof.Machine
open Sys2Proof
variable {lf lg : Nat} {cq : List Instr}

theorem State.setPwr_safe (s : State) (n : Nat) (hS : s.Safe lf lg cq) :
    ((State.setPwr s n)).Safe lf lg cq := by
  unfold State.setPwr
  repeat' (first
    | with_reducible assumption
    | with_reducible apply State.wf__safe
    | with_reducible apply foldl_snd2_safe
    | with_reducible refine pair3_safe (by with_reducible assumption) ?_
    | with_reducible refine pair_safe (by with_reducible assumption) ?_
    | with_reducible apply foldl_safe
    | with_reducible apply foldl_snd_safe
    | intro _
    | split
    | dsimp only
    | refine State.Safe.lit ?_ rfl rfl rfl rfl)

theorem State.wakeUp_safe (s : State) (hS : s.Safe lf lg cq) :
    ((State.wakeUp s)).Safe lf lg cq := by
  unfold State.wakeUp
  repeat' (first
    | with_reducible assumption
    | with_reducible apply State.wf__safe
    | with_reducible apply State.setPwr_safe
    | with_reducible apply foldl_snd2_safe
    | with_reducible refine pair3_safe (by with_reducible assumption) ?_
    | with_reducible refine pair_safe (by with_reducible assumption) ?_
    | with_reducible apply foldl_safe
    | with_reducible apply foldl_snd_safe
    | intro _
    | split
    | dsimp only
    | refine State.Safe.lit ?_ rfl rfl rfl rfl)

theorem State.flushStore_safe (s : State) (hS : s.Safe lf lg cq) :
    ((State.flushStore s)).Safe lf lg cq := by
  unfold State.flushStore
  repeat' (first
    | with_reducible assumption
    | with_reducible apply State.each_safe
    | with_reducible apply State.storePage_safe
    | with_reducible apply foldl_snd2_safe
    | with_reducible refine pair3_safe (by with_reducible assumption) ?_
    | with_reducible refine pair_safe (by with_reducible assumption) ?_
    | with_reducible apply foldl_safe
    | with_reducible apply foldl_snd_safe
    | intro _
    | split
    | dsimp only
    | refine State.Safe.lit ?_ rfl rfl rfl rfl)

theorem State.cold_safe (s : State) (inReset : Bool) (hS : s.Safe lf lg cq) :
    ((State.cold s inReset)).Safe lf lg cq := by
  exact ⟨rfl, hS.host, rfl, Nat.zero_le _, hS.fw, hS.cfg, hS.queue,
    ⟨wf_foldl_set _ _ _ _ rfl, rfl, rfl, rfl, rfl, rfl, rfl, rfl, rfl, rfl, rfl, rfl, rfl⟩⟩

theorem State.resetOn_safe (s : State) (hS : s.Safe lf lg cq) :
    ((State.resetOn s)).Safe lf lg cq := by
  unfold State.resetOn
  repeat' (first
    | with_reducible assumption
    | with_reducible apply State.flushStore_safe
    | with_reducible apply State.cold_safe
    | with_reducible apply foldl_snd2_safe
    | with_reducible refine pair3_safe (by with_reducible assumption) ?_
    | with_reducible refine pair_safe (by with_reducible assumption) ?_
    | with_reducible apply foldl_safe
    | with_reducible apply foldl_snd_safe
    | intro _
    | split
    | dsimp only
    | refine State.Safe.lit ?_ rfl rfl rfl rfl)

theorem State.idleSettle_safe (s : State) (hS : s.Safe lf lg cq) :
    ((State.idleSettle s)).Safe lf lg cq := by
  unfold State.idleSettle
  repeat' (first
    | with_reducible assumption
    | with_reducible apply State.wf__safe
    | with_reducible apply foldl_snd2_safe
    | with_reducible refine pair3_safe (by with_reducible assumption) ?_
    | with_reducible refine pair_safe (by with_reducible assumption) ?_
    | with_reducible apply foldl_safe
    | with_reducible apply foldl_snd_safe
    | intro _
    | split
    | dsimp only
    | refine State.Safe.lit ?_ rfl rfl rfl rfl)

theorem State.goIdle_safe (s : State) (p : Path) (hS : s.Safe lf lg cq) :
    ((State.goIdle s p)).Safe lf lg cq := by
  unfold State.goIdle
  repeat' (first
    | with_reducible assumption
    | with_reducible apply State.idleSettle_safe
    | with_reducible apply State.ignored_safe
    | with_reducible apply State.setPwr_safe
    | with_reducible apply foldl_snd2_safe
    | with_reducible refine pair3_safe (by with_reducible assumption) ?_
    | with_reducible refine pair_safe (by with_reducible assumption) ?_
    | with_reducible apply foldl_safe
    | with_reducible apply foldl_snd_safe
    | intro _
    | split
    | dsimp only
    | refine State.Safe.lit ?_ rfl rfl rfl rfl)

theorem State.goWake_safe (s : State) (p : Path) (hS : s.Safe lf lg cq) :
    ((State.goWake s p)).Safe lf lg cq := by
  unfold State.goWake
  repeat' (first
    | with_reducible assumption
    | with_reducible apply State.ignored_safe
    | with_reducible apply State.wakeUp_safe
    | with_reducible apply foldl_snd2_safe
    | with_reducible refine pair3_safe (by with_reducible assumption) ?_
    | with_reducible refine pair_safe (by with_reducible assumption) ?_
    | with_reducible apply foldl_safe
    | with_reducible apply foldl_snd_safe
    | intro _
    | split
    | dsimp only
    | refine State.Safe.lit ?_ rfl rfl rfl rfl)

theorem State.cutBatch_safe (s : State) (a : Nat) (hS : s.Safe lf lg cq) :
    ((State.cutBatch s a)).Safe lf lg cq := by
  unfold State.cutBatch
  repeat' (first
    | with_reducible assumption
    | with_reducible apply State.modArr_safe
    | with_reducible apply foldl_snd2_safe
    | with_reducible refine pair3_safe (by with_reducible assumption) ?_
    | with_reducible refine pair_safe (by with_reducible assumption) ?_
    | with_reducible apply foldl_safe
    | with_reducible apply foldl_snd_safe
    | intro _
    | split
    | dsimp only
    | refine State.Safe.lit ?_ rfl rfl rfl rfl)

theorem State.powerFail_safe (s : State) (cause : Nat) (hS : s.Safe lf lg cq) :
    ((State.powerFail s cause)).Safe lf lg cq := by
  unfold State.powerFail
  split
  · exact hS
  · extract_lets s1 e s2 inProg
    have h1 : s1.Safe lf lg cq := State.each_safe _ _ _ hS fun t a ht => State.cutBatch_safe _ _ ht
    clear_value s1
    have h2 : s2.Safe lf lg cq := State.setPwr_safe _ _ (State.raise_safe _ _ h1)
    clear_value s2
    exact ⟨h2.mem, h2.host, h2.regs, h2.ring, h2.fw, h2.cfg, h2.queue, { h2.canon with cores := wf_foldl_set _ _ _ _ rfl }⟩

theorem State.haltEnd_safe (s : State) (hS : s.Safe lf lg cq) :
    ((State.haltEnd s)).Safe lf lg cq := by
  unfold State.haltEnd
  repeat' (first
    | with_reducible assumption
    | with_reducible apply State.setPwr_safe
    | with_reducible apply foldl_snd2_safe
    | with_reducible refine pair3_safe (by with_reducible assumption) ?_
    | with_reducible refine pair_safe (by with_reducible assumption) ?_
    | with_reducible apply foldl_safe
    | with_reducible apply foldl_snd_safe
    | intro _
    | split
    | dsimp only
    | refine State.Safe.lit ?_ rfl rfl rfl rfl)

theorem State.halt_safe (s : State) (ch : Nat) (conv : Nat) (temp : Nat) (hS : s.Safe lf lg cq) :
    ((State.halt s ch conv temp)).Safe lf lg cq := by
  unfold State.halt
  repeat' (first
    | with_reducible assumption
    | with_reducible apply State.raise_safe
    | with_reducible apply State.setPwr_safe
    | with_reducible apply foldl_snd2_safe
    | with_reducible refine pair3_safe (by with_reducible assumption) ?_
    | with_reducible refine pair_safe (by with_reducible assumption) ?_
    | with_reducible apply foldl_safe
    | with_reducible apply foldl_snd_safe
    | intro _
    | split
    | dsimp only
    | refine State.Safe.lit ?_ rfl rfl rfl rfl)

theorem State.tear_safe (s : State) (page : Nat) (hS : s.Safe lf lg cq) :
    ((State.tear s page)).Safe lf lg cq := by
  unfold State.tear
  repeat' (first
    | with_reducible assumption
    | with_reducible apply foldl_snd2_safe
    | with_reducible refine pair3_safe (by with_reducible assumption) ?_
    | with_reducible refine pair_safe (by with_reducible assumption) ?_
    | with_reducible apply foldl_safe
    | with_reducible apply foldl_snd_safe
    | intro _
    | split
    | dsimp only
    | refine State.Safe.lit ?_ rfl rfl rfl rfl)

theorem State.resetOff_safe (s : State) (hS : s.Safe lf lg cq) :
    ((State.resetOff s)).Safe lf lg cq := by
  unfold State.resetOff
  repeat' (first
    | with_reducible assumption
    | with_reducible apply foldl_snd2_safe
    | with_reducible refine pair3_safe (by with_reducible assumption) ?_
    | with_reducible refine pair_safe (by with_reducible assumption) ?_
    | with_reducible apply foldl_safe
    | with_reducible apply foldl_snd_safe
    | intro _
    | split
    | dsimp only
    | refine State.Safe.lit ?_ rfl rfl rfl rfl)

theorem State.holdupOut_safe (s : State) (hS : s.Safe lf lg cq) :
    ((State.holdupOut s)).Safe lf lg cq := by
  unfold State.holdupOut
  repeat' (first
    | with_reducible assumption
    | with_reducible apply State.fresh_safe
    | with_reducible refine State.fresh_safe' (by with_reducible assumption) ?_
    | with_reducible apply State.each_safe
    | with_reducible apply State.tear_safe
    | with_reducible apply State.storePage_safe
    | with_reducible apply foldl_snd2_safe
    | with_reducible refine pair3_safe (by with_reducible assumption) ?_
    | with_reducible refine pair_safe (by with_reducible assumption) ?_
    | with_reducible apply foldl_safe
    | with_reducible apply foldl_snd_safe
    | intro _
    | split
    | dsimp only
    | refine State.Safe.lit ?_ rfl rfl rfl rfl)

theorem State.powerBack_safe (s : State) (hS : s.Safe lf lg cq) :
    ((State.powerBack s)).Safe lf lg cq := by
  unfold State.powerBack
  repeat' (first
    | with_reducible assumption
    | with_reducible apply State.flushStore_safe
    | with_reducible apply State.cold_safe
    | with_reducible apply foldl_snd2_safe
    | with_reducible refine pair3_safe (by with_reducible assumption) ?_
    | with_reducible refine pair_safe (by with_reducible assumption) ?_
    | with_reducible apply foldl_safe
    | with_reducible apply foldl_snd_safe
    | intro _
    | split
    | dsimp only
    | refine State.Safe.lit ?_ rfl rfl rfl rfl)

end Sys2Proof.Machine
end

