-- ==== Sys2Proof/Laws/Safe/QueueOps.lean ====
section
/-! SUPPORT. One lemma for each operation of `Machine/QueueOps.lean` that answers a state: it keeps `State.Safe` (the primed form says
the same of an answer that is known by an equation). -/

namespace Sys2Proof.Machine
open Sys2Proof
variable {lf lg : Nat} {cq : List Instr}

theorem State.newBatch_safe (s : State) (q : Nat) (n : Nat) (hS : s.Safe lf lg cq) :
    ((State.newBatch s q n)).Safe lf lg cq := by
  unfold State.newBatch
  repeat' (first
    | with_reducible assumption
    | with_reducible apply State.modQueue_safe
    | with_reducible apply foldl_snd2_safe
    | with_reducible refine pair3_safe (by with_reducible assumption) ?_
    | with_reducible refine pair_safe (by with_reducible assumption) ?_
    | with_reducible apply foldl_safe
    | with_reducible apply foldl_snd_safe
    | intro _
    | split
    | dsimp only
    | refine State.Safe.lit ?_ rfl rfl rfl rfl)

theorem State.setCtx_safe (s : State) (i : Nat) (x : Ctx) (hS : s.Safe lf lg cq) :
    ((State.setCtx s i x)).Safe lf lg cq := by
  unfold State.setCtx
  refine State.putDev_safe _ _ _ ?_
  exact ⟨hS.mem, hS.host, hS.regs, hS.ring, hS.fw, hS.cfg, hS.queue, { hS.canon with ctxs := wf_setD _ _ hS.canon.ctxs }⟩

theorem State.modCtx_safe (s : State) (i : Nat) (f : Ctx → Ctx) (hS : s.Safe lf lg cq) :
    ((State.modCtx s i f)).Safe lf lg cq := by
  unfold State.modCtx
  repeat' (first
    | with_reducible assumption
    | with_reducible apply State.setCtx_safe
    | with_reducible apply foldl_snd2_safe
    | with_reducible refine pair3_safe (by with_reducible assumption) ?_
    | with_reducible refine pair_safe (by with_reducible assumption) ?_
    | with_reducible apply foldl_safe
    | with_reducible apply foldl_snd_safe
    | intro _
    | split
    | dsimp only
    | refine State.Safe.lit ?_ rfl rfl rfl rfl)

theorem State.dropReq_safe (s : State) (r : Nat) (hS : s.Safe lf lg cq) :
    ((State.dropReq s r)).Safe lf lg cq := by
  unfold State.dropReq
  repeat' (first
    | with_reducible assumption
    | with_reducible apply State.setReq_safe
    | with_reducible apply State.modCtx_safe
    | with_reducible apply foldl_snd2_safe
    | with_reducible refine pair3_safe (by with_reducible assumption) ?_
    | with_reducible refine pair_safe (by with_reducible assumption) ?_
    | with_reducible apply foldl_safe
    | with_reducible apply foldl_snd_safe
    | intro _
    | split
    | dsimp only
    | refine State.Safe.lit ?_ rfl rfl rfl rfl)

theorem State.stallQueue_safe (s : State) (q : Nat) (cause : Nat) (hS : s.Safe lf lg cq) :
    ((State.stallQueue s q cause)).Safe lf lg cq := by
  unfold State.stallQueue
  repeat' (first
    | with_reducible assumption
    | with_reducible apply State.raise_safe
    | with_reducible apply State.flag_safe
    | with_reducible apply State.modQueue_safe
    | with_reducible apply foldl_snd2_safe
    | with_reducible refine pair3_safe (by with_reducible assumption) ?_
    | with_reducible refine pair_safe (by with_reducible assumption) ?_
    | with_reducible apply foldl_safe
    | with_reducible apply foldl_snd_safe
    | intro _
    | split
    | dsimp only
    | refine State.Safe.lit ?_ rfl rfl rfl rfl)

theorem State.cqFlush_safe (s : State) (q : Nat) (a2 : Nat) (hS : s.Safe lf lg cq) :
    ((State.cqFlush s q a2)).Safe lf lg cq := by
  induction a2 generalizing s with
  | zero => exact hS
  | succ n ih =>
    unfold State.cqFlush
    repeat' (first
      | with_reducible assumption
      | with_reducible apply State.stallQueue_safe
      | with_reducible apply State.putMem_safe
      | with_reducible apply State.putHost_safe
      | with_reducible apply State.modQueue_safe
      | with_reducible apply State.count_safe
      | with_reducible apply State.msixSend_safe
      | with_reducible apply ih
      | with_reducible apply foldl_snd2_safe
      | with_reducible refine pair3_safe (by with_reducible assumption) ?_
      | with_reducible refine pair_safe (by with_reducible assumption) ?_
      | with_reducible apply foldl_safe
      | with_reducible apply foldl_snd_safe
      | intro _
      | split
      | dsimp only
      | refine State.Safe.lit ?_ rfl rfl rfl rfl)

theorem State.putCpl_safe (s : State) (batch : Nat) (c : Cpl) (hS : s.Safe lf lg cq) :
    ((State.putCpl s batch c)).Safe lf lg cq := by
  unfold State.putCpl
  repeat' (first
    | with_reducible assumption
    | with_reducible apply State.cqFlush_safe
    | with_reducible apply State.modQueue_safe
    | with_reducible apply State.srnSend_safe
    | with_reducible refine State.srnSend_safe' (by with_reducible assumption) ?_
    | with_reducible apply foldl_snd2_safe
    | with_reducible refine pair3_safe (by with_reducible assumption) ?_
    | with_reducible refine pair_safe (by with_reducible assumption) ?_
    | with_reducible apply foldl_safe
    | with_reducible apply foldl_snd_safe
    | intro _
    | split
    | dsimp only
    | refine State.Safe.lit ?_ rfl rfl rfl rfl)

theorem State.reqRecord_safe (s : State) (r : Nat) (status : Nat) (detail : Nat) (hS : s.Safe lf lg cq) :
    ((State.reqRecord s r status detail)).Safe lf lg cq := by
  unfold State.reqRecord
  repeat' (first
    | with_reducible assumption
    | with_reducible apply State.putCpl_safe
    | with_reducible apply State.fresh_safe
    | with_reducible refine State.fresh_safe' (by with_reducible assumption) ?_
    | with_reducible apply foldl_snd2_safe
    | with_reducible refine pair3_safe (by with_reducible assumption) ?_
    | with_reducible refine pair_safe (by with_reducible assumption) ?_
    | with_reducible apply foldl_safe
    | with_reducible apply foldl_snd_safe
    | intro _
    | split
    | dsimp only
    | refine State.Safe.lit ?_ rfl rfl rfl rfl)

theorem State.enter_safe (s : State) (p : Nat) (e : BasinEntry) (hS : s.Safe lf lg cq) :
    ((State.enter s p e)).Safe lf lg cq := by
  unfold State.enter
  repeat' (first
    | with_reducible assumption
    | with_reducible apply State.modPound_safe
    | with_reducible apply foldl_snd2_safe
    | with_reducible refine pair3_safe (by with_reducible assumption) ?_
    | with_reducible refine pair_safe (by with_reducible assumption) ?_
    | with_reducible apply foldl_safe
    | with_reducible apply foldl_snd_safe
    | intro _
    | split
    | dsimp only
    | refine State.Safe.lit ?_ rfl rfl rfl rfl)

theorem State.admitReq_safe (s : State) (p : Nat) (r : Request) (forwarded : Bool) (hS : s.Safe lf lg cq) :
    ((State.admitReq s p r forwarded)).Safe lf lg cq := by
  unfold State.admitReq
  repeat' (first
    | with_reducible assumption
    | with_reducible apply State.setReq_safe
    | with_reducible apply State.modCtx_safe
    | with_reducible apply State.enter_safe
    | with_reducible apply foldl_snd2_safe
    | with_reducible refine pair3_safe (by with_reducible assumption) ?_
    | with_reducible refine pair_safe (by with_reducible assumption) ?_
    | with_reducible apply foldl_safe
    | with_reducible apply foldl_snd_safe
    | intro _
    | split
    | dsimp only
    | refine State.Safe.lit ?_ rfl rfl rfl rfl)

theorem State.answerSub_safe (s : State) (q : Nat) (batch : Nat) (status : Nat) (detail : Nat) (sv : Nat) (stream : Nat) (hS : s.Safe lf lg cq) :
    ((State.answerSub s q batch status detail sv stream)).Safe lf lg cq := by
  unfold State.answerSub
  repeat' (first
    | with_reducible assumption
    | with_reducible apply State.putCpl_safe
    | with_reducible apply State.fresh_safe
    | with_reducible refine State.fresh_safe' (by with_reducible assumption) ?_
    | with_reducible apply foldl_snd2_safe
    | with_reducible refine pair3_safe (by with_reducible assumption) ?_
    | with_reducible refine pair_safe (by with_reducible assumption) ?_
    | with_reducible apply foldl_safe
    | with_reducible apply foldl_snd_safe
    | intro _
    | split
    | dsimp only
    | refine State.Safe.lit ?_ rfl rfl rfl rfl)

theorem State.queResult_safe (s : State) (q : Nat) (result : Nat) (done : Bool) (hS : s.Safe lf lg cq) :
    ((State.queResult s q result done)).Safe lf lg cq := by
  unfold State.queResult
  repeat' (first
    | with_reducible assumption
    | with_reducible apply State.wr_safe
    | with_reducible apply foldl_snd2_safe
    | with_reducible refine pair3_safe (by with_reducible assumption) ?_
    | with_reducible refine pair_safe (by with_reducible assumption) ?_
    | with_reducible apply foldl_safe
    | with_reducible apply foldl_snd_safe
    | intro _
    | split
    | dsimp only
    | refine State.Safe.lit ?_ rfl rfl rfl rfl)

theorem State.queCreate_safe (s : State) (q : Nat) (hS : s.Safe lf lg cq) :
    ((State.queCreate s q)).Safe lf lg cq := by
  unfold State.queCreate
  repeat' (first
    | with_reducible assumption
    | with_reducible apply State.setQueue_safe
    | with_reducible apply State.ueRead_safe
    | with_reducible apply State.raise_safe
    | with_reducible apply State.flag_safe
    | with_reducible apply State.queResult_safe
    | with_reducible apply foldl_snd2_safe
    | with_reducible refine pair3_safe (by with_reducible assumption) ?_
    | with_reducible refine pair_safe (by with_reducible assumption) ?_
    | with_reducible apply foldl_safe
    | with_reducible apply foldl_snd_safe
    | intro _
    | split
    | dsimp only
    | refine State.Safe.lit ?_ rfl rfl rfl rfl)

theorem State.cqHeadWrite_safe (s : State) (p : Path) (q : Nat) (v : Nat) (hS : s.Safe lf lg cq) :
    ((State.cqHeadWrite s p q v)).Safe lf lg cq := by
  unfold State.cqHeadWrite
  repeat' (first
    | with_reducible assumption
    | with_reducible apply State.cqFlush_safe
    | with_reducible apply State.ignored_safe
    | with_reducible apply State.modQueue_safe
    | with_reducible apply foldl_snd2_safe
    | with_reducible refine pair3_safe (by with_reducible assumption) ?_
    | with_reducible refine pair_safe (by with_reducible assumption) ?_
    | with_reducible apply foldl_safe
    | with_reducible apply foldl_snd_safe
    | intro _
    | split
    | dsimp only
    | refine State.Safe.lit ?_ rfl rfl rfl rfl)

theorem State.sqTailWrite_safe (s : State) (p : Path) (q : Nat) (v : Nat) (hS : s.Safe lf lg cq) :
    ((State.sqTailWrite s p q v)).Safe lf lg cq := by
  unfold State.sqTailWrite
  repeat' (first
    | with_reducible assumption
    | with_reducible apply State.ignored_safe
    | with_reducible apply State.wakeUp_safe
    | with_reducible apply State.newBatch_safe
    | with_reducible apply State.modQueue_safe
    | with_reducible apply foldl_snd2_safe
    | with_reducible refine pair3_safe (by with_reducible assumption) ?_
    | with_reducible refine pair_safe (by with_reducible assumption) ?_
    | with_reducible apply foldl_safe
    | with_reducible apply foldl_snd_safe
    | intro _
    | split
    | dsimp only
    | refine State.Safe.lit ?_ rfl rfl rfl rfl)

theorem State.takeSub_safe (s : State) (q : Nat) (p : Nat) (batch : Nat) (d : List Byte) (hS : s.Safe lf lg cq) :
    ((State.takeSub s q p batch d)).Safe lf lg cq := by
  unfold State.takeSub
  repeat' (first
    | with_reducible assumption
    | with_reducible apply State.admitReq_safe
    | with_reducible apply State.ueRead_safe
    | with_reducible apply State.answerSub_safe
    | with_reducible apply foldl_snd2_safe
    | with_reducible refine pair3_safe (by with_reducible assumption) ?_
    | with_reducible refine pair_safe (by with_reducible assumption) ?_
    | with_reducible apply foldl_safe
    | with_reducible apply foldl_snd_safe
    | intro _
    | split
    | dsimp only
    | refine State.Safe.lit ?_ rfl rfl rfl rfl)

theorem State.queResume_safe (s : State) (q : Nat) (hS : s.Safe lf lg cq) :
    ((State.queResume s q)).Safe lf lg cq := by
  unfold State.queResume
  repeat' (first
    | with_reducible assumption
    | with_reducible apply State.cqFlush_safe
    | with_reducible apply State.modQueue_safe
    | with_reducible apply foldl_snd2_safe
    | with_reducible refine pair3_safe (by with_reducible assumption) ?_
    | with_reducible refine pair_safe (by with_reducible assumption) ?_
    | with_reducible apply foldl_safe
    | with_reducible apply foldl_snd_safe
    | intro _
    | split
    | dsimp only
    | refine State.Safe.lit ?_ rfl rfl rfl rfl)

theorem State.submissionRead_safe (s : State) (hS : s.Safe lf lg cq) :
    ((State.submissionRead s)).Safe lf lg cq := by
  unfold State.submissionRead
  repeat' (first
    | with_reducible assumption
    | with_reducible apply State.stallQueue_safe
    | with_reducible apply State.ueRead_safe
    | with_reducible apply State.takeSub_safe
    | with_reducible apply State.modQueue_safe
    | with_reducible apply State.count_safe
    | with_reducible apply foldl_snd2_safe
    | with_reducible refine pair3_safe (by with_reducible assumption) ?_
    | with_reducible refine pair_safe (by with_reducible assumption) ?_
    | with_reducible apply foldl_safe
    | with_reducible apply foldl_snd_safe
    | intro _
    | split
    | dsimp only
    | refine State.Safe.lit ?_ rfl rfl rfl rfl)

theorem State.queDrained_safe (s : State) (q : Nat) (hS : s.Safe lf lg cq) :
    ((State.queDrained s q)).Safe lf lg cq := by
  unfold State.queDrained
  repeat' (first
    | with_reducible assumption
    | with_reducible apply State.setQueue_safe
    | with_reducible apply State.raise_safe
    | with_reducible apply State.flag_safe
    | with_reducible apply State.queResult_safe
    | with_reducible apply foldl_snd2_safe
    | with_reducible refine pair3_safe (by with_reducible assumption) ?_
    | with_reducible refine pair_safe (by with_reducible assumption) ?_
    | with_reducible apply foldl_safe
    | with_reducible apply foldl_snd_safe
    | intro _
    | split
    | dsimp only
    | refine State.Safe.lit ?_ rfl rfl rfl rfl)

end Sys2Proof.Machine
end

