-- ==== Sys2Proof/Laws/Safe/AdpOps.lean ====
section
/-! SUPPORT. One lemma for each operation of `Machine/AdpOps.lean` that answers a state: it keeps `State.Safe` (the primed form says
the same of an answer that is known by an equation). -/

namespace Sys2Proof.Machine
open Sys2Proof
variable {lf lg : Nat} {cq : List Instr}

theorem State.wireIn_safe (s : State) (a : Nat) (n : Nat) (bs : List Byte) (hS : s.Safe lf lg cq) :
    ((State.wireIn s a n bs).2).Safe lf lg cq := by
  unfold State.wireIn
  repeat' (first
    | with_reducible assumption
    | with_reducible apply State.manFailDev_safe
    | with_reducible apply State.putBlock_safe
    | with_reducible apply foldl_snd2_safe
    | with_reducible refine pair3_safe (by with_reducible assumption) ?_
    | with_reducible refine pair_safe (by with_reducible assumption) ?_
    | with_reducible apply foldl_safe
    | with_reducible apply foldl_snd_safe
    | intro _
    | split
    | dsimp only
    | refine State.Safe.lit ?_ rfl rfl rfl rfl)

theorem State.wireIn_safe' {s : State} {a : Nat} {n : Nat} {bs : List Byte} {y0 t} (eqn : (State.wireIn s a n bs) = (y0, t)) (hS : s.Safe lf lg cq)  : t.Safe lf lg cq := by
  have := State.wireIn_safe s a n bs hS
  rw [eqn] at this; exact this

theorem State.suspectMem_safe (s : State) (a : Nat) (hS : s.Safe lf lg cq) :
    ((State.suspectMem s a)).Safe lf lg cq := by
  unfold State.suspectMem
  repeat' (first
    | with_reducible assumption
    | with_reducible apply State.each_safe
    | with_reducible apply State.raise_safe
    | with_reducible apply foldl_snd2_safe
    | with_reducible refine pair3_safe (by with_reducible assumption) ?_
    | with_reducible refine pair_safe (by with_reducible assumption) ?_
    | with_reducible apply foldl_safe
    | with_reducible apply foldl_snd_safe
    | intro _
    | split
    | dsimp only
    | refine State.Safe.lit ?_ rfl rfl rfl rfl)

theorem State.ueMem_safe (s : State) (a : Nat) (hS : s.Safe lf lg cq) :
    ((State.ueMem s a)).Safe lf lg cq := by
  unfold State.ueMem
  repeat' (first
    | with_reducible assumption
    | with_reducible apply State.ueEvent_safe
    | with_reducible apply State.suspectMem_safe
    | with_reducible apply foldl_snd2_safe
    | with_reducible refine pair3_safe (by with_reducible assumption) ?_
    | with_reducible refine pair_safe (by with_reducible assumption) ?_
    | with_reducible apply foldl_safe
    | with_reducible apply foldl_snd_safe
    | intro _
    | split
    | dsimp only
    | refine State.Safe.lit ?_ rfl rfl rfl rfl)

theorem State.imgRaise_safe (s : State) (b : Nat) (e : Event) (hS : s.Safe lf lg cq) :
    ((State.imgRaise s b e)).Safe lf lg cq := by
  unfold State.imgRaise
  repeat' (first
    | with_reducible assumption
    | with_reducible apply State.raise_safe
    | with_reducible apply State.flag_safe
    | with_reducible apply foldl_snd2_safe
    | with_reducible refine pair3_safe (by with_reducible assumption) ?_
    | with_reducible refine pair_safe (by with_reducible assumption) ?_
    | with_reducible apply foldl_safe
    | with_reducible apply foldl_snd_safe
    | intro _
    | split
    | dsimp only
    | refine State.Safe.lit ?_ rfl rfl rfl rfl)

theorem State.adpFill_safe (s : State) (slot : Nat) (c : Nat) (compat : Nat) (init : List BlockRd) (hS : s.Safe lf lg cq) :
    ((State.adpFill s slot c compat init)).Safe lf lg cq := by
  unfold State.adpFill
  repeat' (first
    | with_reducible assumption
    | with_reducible apply State.each_safe
    | with_reducible apply State.putBlock_safe
    | with_reducible apply State.modCtx_safe
    | with_reducible apply foldl_snd2_safe
    | with_reducible refine pair3_safe (by with_reducible assumption) ?_
    | with_reducible refine pair_safe (by with_reducible assumption) ?_
    | with_reducible apply foldl_safe
    | with_reducible apply foldl_snd_safe
    | intro _
    | split
    | dsimp only
    | refine State.Safe.lit ?_ rfl rfl rfl rfl)

theorem State.adpUse_safe (s : State) (slot : Nat) (hS : s.Safe lf lg cq) :
    ((State.adpUse s slot)).Safe lf lg cq := by
  unfold State.adpUse
  repeat' (first
    | with_reducible assumption
    | with_reducible apply State.setAdp_safe
    | with_reducible apply foldl_snd2_safe
    | with_reducible refine pair3_safe (by with_reducible assumption) ?_
    | with_reducible refine pair_safe (by with_reducible assumption) ?_
    | with_reducible apply foldl_safe
    | with_reducible apply foldl_snd_safe
    | intro _
    | split
    | dsimp only
    | refine State.Safe.lit ?_ rfl rfl rfl rfl)

theorem State.askStore_safe (s : State) (c : Nat) (slot : Nat) (since : Nat) (hS : s.Safe lf lg cq) :
    ((State.askStore s c slot since)).Safe lf lg cq := by
  unfold State.askStore
  repeat' (first
    | with_reducible assumption
    | with_reducible apply State.setAdp_safe
    | with_reducible apply State.count_safe
    | with_reducible apply State.srnSend_safe
    | with_reducible refine State.srnSend_safe' (by with_reducible assumption) ?_
    | with_reducible apply foldl_snd2_safe
    | with_reducible refine pair3_safe (by with_reducible assumption) ?_
    | with_reducible refine pair_safe (by with_reducible assumption) ?_
    | with_reducible apply foldl_safe
    | with_reducible apply foldl_snd_safe
    | intro _
    | split
    | dsimp only
    | refine State.Safe.lit ?_ rfl rfl rfl rfl)

theorem State.evictAnew_safe (s : State) (hS : s.Safe lf lg cq) :
    ((State.evictAnew s)).Safe lf lg cq := by
  exact ⟨hS.mem, hS.host, hS.regs, hS.ring, hS.fw, hS.cfg, hS.queue, { hS.canon with adps := wf_foldl_set _ _ _ _ rfl }⟩

theorem State.adpRelease_safe (s : State) (slot : Nat) (hS : s.Safe lf lg cq) :
    ((State.adpRelease s slot)).Safe lf lg cq := by
  unfold State.adpRelease
  repeat' (first
    | with_reducible assumption
    | with_reducible apply State.setAdp_safe
    | with_reducible apply State.modCtx_safe
    | with_reducible apply foldl_snd2_safe
    | with_reducible refine pair3_safe (by with_reducible assumption) ?_
    | with_reducible refine pair_safe (by with_reducible assumption) ?_
    | with_reducible apply foldl_safe
    | with_reducible apply foldl_snd_safe
    | intro _
    | split
    | dsimp only
    | refine State.Safe.lit ?_ rfl rfl rfl rfl)

theorem State.writeBack_safe (s : State) (slot : Nat) (retire : Bool) (hS : s.Safe lf lg cq) :
    ((State.writeBack s slot retire)).Safe lf lg cq := by
  unfold State.writeBack
  repeat' (first
    | with_reducible assumption
    | with_reducible apply State.setAdp_safe
    | with_reducible apply State.writeBackFailed_safe
    | with_reducible apply State.srnSend_safe
    | with_reducible refine State.srnSend_safe' (by with_reducible assumption) ?_
    | with_reducible apply foldl_snd2_safe
    | with_reducible refine pair3_safe (by with_reducible assumption) ?_
    | with_reducible refine pair_safe (by with_reducible assumption) ?_
    | with_reducible apply foldl_safe
    | with_reducible apply foldl_snd_safe
    | intro _
    | split
    | dsimp only
    | refine State.Safe.lit ?_ rfl rfl rfl rfl)

theorem State.evictSlot_safe (s : State) (slot : Nat) (hS : s.Safe lf lg cq) :
    ((State.evictSlot s slot)).Safe lf lg cq := by
  unfold State.evictSlot
  repeat' (first
    | with_reducible assumption
    | with_reducible apply State.adpRelease_safe
    | with_reducible apply State.bump_safe
    | with_reducible apply State.count_safe
    | with_reducible apply State.writeBack_safe
    | with_reducible apply foldl_snd2_safe
    | with_reducible refine pair3_safe (by with_reducible assumption) ?_
    | with_reducible refine pair_safe (by with_reducible assumption) ?_
    | with_reducible apply foldl_safe
    | with_reducible apply foldl_snd_safe
    | intro _
    | split
    | dsimp only
    | refine State.Safe.lit ?_ rfl rfl rfl rfl)

theorem State.evictTo_safe (s : State) (high : Nat) (keep : Option Nat) (a3 : Nat) (hS : s.Safe lf lg cq) :
    ((State.evictTo s high keep a3)).Safe lf lg cq := by
  induction a3 generalizing s with
  | zero => exact hS
  | succ n ih =>
    unfold State.evictTo
    repeat' (first
      | with_reducible assumption
      | with_reducible apply State.evictSlot_safe
      | with_reducible apply ih
      | with_reducible apply foldl_snd2_safe
      | with_reducible refine pair3_safe (by with_reducible assumption) ?_
      | with_reducible refine pair_safe (by with_reducible assumption) ?_
      | with_reducible apply foldl_safe
      | with_reducible apply foldl_snd_safe
      | intro _
      | split
      | dsimp only
      | refine State.Safe.lit ?_ rfl rfl rfl rfl)

theorem State.evictRun_safe (s : State) (keep : Option Nat) (hS : s.Safe lf lg cq) :
    ((State.evictRun s keep)).Safe lf lg cq := by
  unfold State.evictRun
  repeat' (first
    | with_reducible assumption
    | with_reducible apply State.evictTo_safe
    | with_reducible apply foldl_snd2_safe
    | with_reducible refine pair3_safe (by with_reducible assumption) ?_
    | with_reducible refine pair_safe (by with_reducible assumption) ?_
    | with_reducible apply foldl_safe
    | with_reducible apply foldl_snd_safe
    | intro _
    | split
    | dsimp only
    | refine State.Safe.lit ?_ rfl rfl rfl rfl)

theorem State.evictLow_safe (s : State) (keep : Nat) (hS : s.Safe lf lg cq) :
    ((State.evictLow s keep)).Safe lf lg cq := by
  unfold State.evictLow
  repeat' (first
    | with_reducible assumption
    | with_reducible apply State.evictAnew_safe
    | with_reducible apply State.evictRun_safe
    | with_reducible apply foldl_snd2_safe
    | with_reducible refine pair3_safe (by with_reducible assumption) ?_
    | with_reducible refine pair_safe (by with_reducible assumption) ?_
    | with_reducible apply foldl_safe
    | with_reducible apply foldl_snd_safe
    | intro _
    | split
    | dsimp only
    | refine State.Safe.lit ?_ rfl rfl rfl rfl)

theorem State.takeSlot_safe (s : State) (c : Nat) (hS : s.Safe lf lg cq) :
    ((State.takeSlot s c).2).Safe lf lg cq := by
  unfold State.takeSlot
  repeat' (first
    | with_reducible assumption
    | with_reducible apply State.evictAnew_safe
    | with_reducible apply State.setAdp_safe
    | with_reducible apply State.evictTo_safe
    | with_reducible apply State.evictLow_safe
    | with_reducible apply foldl_snd2_safe
    | with_reducible refine pair3_safe (by with_reducible assumption) ?_
    | with_reducible refine pair_safe (by with_reducible assumption) ?_
    | with_reducible apply foldl_safe
    | with_reducible apply foldl_snd_safe
    | intro _
    | split
    | dsimp only
    | refine State.Safe.lit ?_ rfl rfl rfl rfl)

theorem State.takeSlot_safe' {s : State} {c : Nat} {y0 t} (eqn : (State.takeSlot s c) = (y0, t)) (hS : s.Safe lf lg cq)  : t.Safe lf lg cq := by
  have := State.takeSlot_safe s c hS
  rw [eqn] at this; exact this

theorem State.fetch_safe (s : State) (c : Nat) (hS : s.Safe lf lg cq) :
    ((State.fetch s c)).Safe lf lg cq := by
  unfold State.fetch
  repeat' (first
    | with_reducible assumption
    | with_reducible apply State.askStore_safe
    | with_reducible apply State.takeSlot_safe
    | with_reducible refine State.takeSlot_safe' (by with_reducible assumption) ?_
    | with_reducible apply foldl_snd2_safe
    | with_reducible refine pair3_safe (by with_reducible assumption) ?_
    | with_reducible refine pair_safe (by with_reducible assumption) ?_
    | with_reducible apply foldl_safe
    | with_reducible apply foldl_snd_safe
    | intro _
    | split
    | dsimp only
    | refine State.Safe.lit ?_ rfl rfl rfl rfl)

theorem State.fetchNext_safe (s : State) (hS : s.Safe lf lg cq) :
    ((State.fetchNext s)).Safe lf lg cq := by
  unfold State.fetchNext
  repeat' (first
    | with_reducible assumption
    | with_reducible apply State.askStore_safe
    | with_reducible apply foldl_snd2_safe
    | with_reducible refine pair3_safe (by with_reducible assumption) ?_
    | with_reducible refine pair_safe (by with_reducible assumption) ?_
    | with_reducible apply foldl_safe
    | with_reducible apply foldl_snd_safe
    | intro _
    | split
    | dsimp only
    | refine State.Safe.lit ?_ rfl rfl rfl rfl)

theorem State.adpAck_safe (s : State) (peer : Nat) (hS : s.Safe lf lg cq) :
    ((State.adpAck s peer)).Safe lf lg cq := by
  unfold State.adpAck
  repeat' (first
    | with_reducible assumption
    | with_reducible apply State.adpRelease_safe
    | with_reducible apply State.bump_safe
    | with_reducible apply State.fetchNext_safe
    | with_reducible apply State.tookMsg_safe
    | with_reducible apply State.writeBackFailed_safe
    | with_reducible apply State.count_safe
    | with_reducible apply foldl_snd2_safe
    | with_reducible refine pair3_safe (by with_reducible assumption) ?_
    | with_reducible refine pair_safe (by with_reducible assumption) ?_
    | with_reducible apply foldl_safe
    | with_reducible apply foldl_snd_safe
    | intro _
    | split
    | dsimp only
    | refine State.Safe.lit ?_ rfl rfl rfl rfl)

theorem State.copyBlocks_safe (s : State) (src : Nat) (dst : Nat) (n : Nat) (hS : s.Safe lf lg cq) :
    ((State.copyBlocks s src dst n)).Safe lf lg cq := by
  unfold State.copyBlocks
  repeat' (first
    | with_reducible assumption
    | with_reducible apply State.each_safe
    | with_reducible apply State.putBlock_safe
    | with_reducible apply foldl_snd2_safe
    | with_reducible refine pair3_safe (by with_reducible assumption) ?_
    | with_reducible refine pair_safe (by with_reducible assumption) ?_
    | with_reducible apply foldl_safe
    | with_reducible apply foldl_snd_safe
    | intro _
    | split
    | dsimp only
    | refine State.Safe.lit ?_ rfl rfl rfl rfl)

theorem State.checkpoint_safe (s : State) (c : Nat) (hS : s.Safe lf lg cq) :
    ((State.checkpoint s c)).Safe lf lg cq := by
  unfold State.checkpoint
  repeat' (first
    | with_reducible assumption
    | with_reducible apply State.suspectMem_safe
    | with_reducible apply State.copyBlocks_safe
    | with_reducible apply State.putBlock_safe
    | with_reducible apply State.modCtx_safe
    | with_reducible apply State.reportBad_safe
    | with_reducible apply foldl_snd2_safe
    | with_reducible refine pair3_safe (by with_reducible assumption) ?_
    | with_reducible refine pair_safe (by with_reducible assumption) ?_
    | with_reducible apply foldl_safe
    | with_reducible apply foldl_snd_safe
    | intro _
    | split
    | dsimp only
    | refine State.Safe.lit ?_ rfl rfl rfl rfl)

theorem State.stmResult_safe (s : State) (i : Nat) (code : Nat) (hS : s.Safe lf lg cq) :
    ((State.stmResult s i code)).Safe lf lg cq := by
  unfold State.stmResult
  repeat' (first
    | with_reducible assumption
    | with_reducible apply State.wr_safe
    | with_reducible apply foldl_snd2_safe
    | with_reducible refine pair3_safe (by with_reducible assumption) ?_
    | with_reducible refine pair_safe (by with_reducible assumption) ?_
    | with_reducible apply foldl_safe
    | with_reducible apply foldl_snd_safe
    | intro _
    | split
    | dsimp only
    | refine State.Safe.lit ?_ rfl rfl rfl rfl)

theorem State.retire_safe (s : State) (c : Nat) (reason : Nat) (hS : s.Safe lf lg cq) :
    ((State.retire s c reason)).Safe lf lg cq := by
  unfold State.retire
  repeat' (first
    | with_reducible assumption
    | with_reducible apply State.stmResult_safe
    | with_reducible apply State.modCtx_safe
    | with_reducible apply foldl_snd2_safe
    | with_reducible refine pair3_safe (by with_reducible assumption) ?_
    | with_reducible refine pair_safe (by with_reducible assumption) ?_
    | with_reducible apply foldl_safe
    | with_reducible apply foldl_snd_safe
    | intro _
    | split
    | dsimp only
    | refine State.Safe.lit ?_ rfl rfl rfl rfl)

theorem State.bind__safe (s : State) (hS : s.Safe lf lg cq) :
    ((State.bind_ s)).Safe lf lg cq := by
  unfold State.bind_
  repeat' (first
    | with_reducible assumption
    | with_reducible apply State.setAdp_safe
    | with_reducible apply State.adpFill_safe
    | with_reducible apply State.each_safe
    | with_reducible apply State.putBlock_safe
    | with_reducible apply State.takeSlot_safe
    | with_reducible refine State.takeSlot_safe' (by with_reducible assumption) ?_
    | with_reducible apply State.stmResult_safe
    | with_reducible apply State.raise_safe
    | with_reducible apply State.flag_safe
    | with_reducible apply State.setCtx_safe
    | with_reducible apply State.count_safe
    | with_reducible apply foldl_snd2_safe
    | with_reducible refine pair3_safe (by with_reducible assumption) ?_
    | with_reducible refine pair_safe (by with_reducible assumption) ?_
    | with_reducible apply foldl_safe
    | with_reducible apply foldl_snd_safe
    | intro _
    | split
    | dsimp only
    | refine State.Safe.lit ?_ rfl rfl rfl rfl)

theorem State.releaseCtx_safe (s : State) (c : Nat) (hS : s.Safe lf lg cq) :
    ((State.releaseCtx s c)).Safe lf lg cq := by
  unfold State.releaseCtx
  repeat' (first
    | with_reducible assumption
    | with_reducible apply State.setAdp_safe
    | with_reducible apply State.stmResult_safe
    | with_reducible apply State.setCtx_safe
    | with_reducible apply foldl_snd2_safe
    | with_reducible refine pair3_safe (by with_reducible assumption) ?_
    | with_reducible refine pair_safe (by with_reducible assumption) ?_
    | with_reducible apply foldl_safe
    | with_reducible apply foldl_snd_safe
    | intro _
    | split
    | dsimp only
    | refine State.Safe.lit ?_ rfl rfl rfl rfl)

theorem State.lookup_safe (s : State) (hS : s.Safe lf lg cq) :
    ((State.lookup s)).Safe lf lg cq := by
  unfold State.lookup
  repeat' (first
    | with_reducible assumption
    | with_reducible apply State.stmResult_safe
    | with_reducible apply foldl_snd2_safe
    | with_reducible refine pair3_safe (by with_reducible assumption) ?_
    | with_reducible refine pair_safe (by with_reducible assumption) ?_
    | with_reducible apply foldl_safe
    | with_reducible apply foldl_snd_safe
    | intro _
    | split
    | dsimp only
    | refine State.Safe.lit ?_ rfl rfl rfl rfl)

theorem State.rollback_safe (s : State) (c : Nat) (hS : s.Safe lf lg cq) :
    ((State.rollback s c).2).Safe lf lg cq := by
  unfold State.rollback
  repeat' (first
    | with_reducible assumption
    | with_reducible apply State.copyBlocks_safe
    | with_reducible apply State.putBlock_safe
    | with_reducible apply State.takeSlot_safe
    | with_reducible refine State.takeSlot_safe' (by with_reducible assumption) ?_
    | with_reducible apply State.raise_safe
    | with_reducible apply State.modCtx_safe
    | with_reducible apply foldl_snd2_safe
    | with_reducible refine pair3_safe (by with_reducible assumption) ?_
    | with_reducible refine pair_safe (by with_reducible assumption) ?_
    | with_reducible apply foldl_safe
    | with_reducible apply foldl_snd_safe
    | intro _
    | split
    | dsimp only
    | refine State.Safe.lit ?_ rfl rfl rfl rfl)

theorem State.rollback_safe' {s : State} {c : Nat} {y0 t} (eqn : (State.rollback s c) = (y0, t)) (hS : s.Safe lf lg cq)  : t.Safe lf lg cq := by
  have := State.rollback_safe s c hS
  rw [eqn] at this; exact this

theorem State.adpWrite_safe (s : State) (slot : Nat) (bs : List Byte) (hS : s.Safe lf lg cq) :
    ((State.adpWrite s slot bs)).Safe lf lg cq := by
  unfold State.adpWrite
  repeat' (first
    | with_reducible assumption
    | with_reducible apply State.each_safe
    | with_reducible apply State.putBlock_safe
    | with_reducible apply foldl_snd2_safe
    | with_reducible refine pair3_safe (by with_reducible assumption) ?_
    | with_reducible refine pair_safe (by with_reducible assumption) ?_
    | with_reducible apply foldl_safe
    | with_reducible apply foldl_snd_safe
    | intro _
    | split
    | dsimp only
    | refine State.Safe.lit ?_ rfl rfl rfl rfl)

theorem State.adpDecay_safe (s : State) (hS : s.Safe lf lg cq) :
    ((State.adpDecay s)).Safe lf lg cq := by
  unfold State.adpDecay
  split
  · exact hS
  · exact ⟨hS.mem, hS.host, hS.regs, hS.ring, hS.fw, hS.cfg, hS.queue, { hS.canon with adps := wf_foldl_set _ _ _ _ rfl }⟩

theorem State.retired_safe (s : State) (c : Nat) (hS : s.Safe lf lg cq) :
    ((State.retired s c)).Safe lf lg cq := by
  unfold State.retired
  repeat' (first
    | with_reducible assumption
    | with_reducible apply State.checkpoint_safe
    | with_reducible apply State.raise_safe
    | with_reducible apply State.flag_safe
    | with_reducible apply State.modCtx_safe
    | with_reducible apply State.count_safe
    | with_reducible apply State.writeBack_safe
    | with_reducible apply foldl_snd2_safe
    | with_reducible refine pair3_safe (by with_reducible assumption) ?_
    | with_reducible refine pair_safe (by with_reducible assumption) ?_
    | with_reducible apply foldl_safe
    | with_reducible apply foldl_snd_safe
    | intro _
    | split
    | dsimp only
    | refine State.Safe.lit ?_ rfl rfl rfl rfl)

end Sys2Proof.Machine
end

