-- ==== Sys2Proof/Laws/Safe/ArrayOps.lean ====
section
/-! SUPPORT. One lemma for each operation of `Machine/ArrayOps.lean` that answers a state: it keeps `State.Safe` (the primed form says
the same of an answer that is known by an equation). -/

namespace Sys2Proof.Machine
open Sys2Proof
variable {lf lg : Nat} {cq : List Instr}

theorem State.trimExchange_safe (s : State) (a : Nat) (hS : s.Safe lf lg cq) :
    ((State.trimExchange s a)).Safe lf lg cq := by
  unfold State.trimExchange
  repeat' (first
    | with_reducible assumption
    | with_reducible apply State.modArr_safe
    | with_reducible apply foldl_snd2_safe
    | with_reducible refine pair3_safe (by with_reducible assumption) ?_
    | with_reducible refine pair_safe (by with_reducible assumption) ?_
    | with_reducible apply foldl_safe
    | with_reducible apply foldl_snd_safe
    | intro _
    | split
    | dsimp only
    | refine State.Safe.lit ?_ rfl rfl rfl rfl)

theorem State.refreshDeferred_safe (s : State) (a : Nat) (hS : s.Safe lf lg cq) :
    ((State.refreshDeferred s a)).Safe lf lg cq := by
  unfold State.refreshDeferred
  repeat' (first
    | with_reducible assumption
    | with_reducible apply State.modArr_safe
    | with_reducible apply State.raise_safe
    | with_reducible apply foldl_snd2_safe
    | with_reducible refine pair3_safe (by with_reducible assumption) ?_
    | with_reducible refine pair_safe (by with_reducible assumption) ?_
    | with_reducible apply foldl_safe
    | with_reducible apply foldl_snd_safe
    | intro _
    | split
    | dsimp only
    | refine State.Safe.lit ?_ rfl rfl rfl rfl)

theorem State.degrade_safe (s : State) (c : Nat) (hS : s.Safe lf lg cq) :
    ((State.degrade s c)).Safe lf lg cq := by
  unfold State.degrade
  repeat' (first
    | with_reducible assumption
    | with_reducible apply State.modCore_safe
    | with_reducible apply State.raise_safe
    | with_reducible apply foldl_snd2_safe
    | with_reducible refine pair3_safe (by with_reducible assumption) ?_
    | with_reducible refine pair_safe (by with_reducible assumption) ?_
    | with_reducible apply foldl_safe
    | with_reducible apply foldl_snd_safe
    | intro _
    | split
    | dsimp only
    | refine State.Safe.lit ?_ rfl rfl rfl rfl)

theorem State.suspendReplay_safe (s : State) (a : Nat) (hS : s.Safe lf lg cq) :
    ((State.suspendReplay s a)).Safe lf lg cq := by
  unfold State.suspendReplay
  repeat' (first
    | with_reducible assumption
    | with_reducible apply State.modCore_safe
    | with_reducible apply State.degrade_safe
    | with_reducible apply foldl_snd2_safe
    | with_reducible refine pair3_safe (by with_reducible assumption) ?_
    | with_reducible refine pair_safe (by with_reducible assumption) ?_
    | with_reducible apply foldl_safe
    | with_reducible apply foldl_snd_safe
    | intro _
    | split
    | dsimp only
    | refine State.Safe.lit ?_ rfl rfl rfl rfl)

theorem State.startJob_safe (s : State) (a : Nat) (scope : Nat) (first : Nat) (last : Nat) (version : Nat) (src : Nat) (start : Nat) (rotation : Bool) (hS : s.Safe lf lg cq) :
    ((State.startJob s a scope first last version src start rotation)).Safe lf lg cq := by
  unfold State.startJob
  repeat' (first
    | with_reducible assumption
    | with_reducible apply State.setArr_safe
    | with_reducible apply State.storeArr_safe
    | with_reducible apply foldl_snd2_safe
    | with_reducible refine pair3_safe (by with_reducible assumption) ?_
    | with_reducible refine pair_safe (by with_reducible assumption) ?_
    | with_reducible apply foldl_safe
    | with_reducible apply foldl_snd_safe
    | intro _
    | split
    | dsimp only
    | refine State.Safe.lit ?_ rfl rfl rfl rfl)

theorem State.endJob_safe (s : State) (a : Nat) (st : ArrSt) (hS : s.Safe lf lg cq) :
    ((State.endJob s a st)).Safe lf lg cq := by
  unfold State.endJob
  repeat' (first
    | with_reducible assumption
    | with_reducible apply State.modArr_safe
    | with_reducible apply State.storeArr_safe
    | with_reducible apply foldl_snd2_safe
    | with_reducible refine pair3_safe (by with_reducible assumption) ?_
    | with_reducible refine pair_safe (by with_reducible assumption) ?_
    | with_reducible apply foldl_safe
    | with_reducible apply foldl_snd_safe
    | intro _
    | split
    | dsimp only
    | refine State.Safe.lit ?_ rfl rfl rfl rfl)

theorem State.mapWrite_safe (s : State) (p : Path) (a : Nat) (col : Bool) (i : Nat) (v : Nat) (hS : s.Safe lf lg cq) :
    ((State.mapWrite s p a col i v)).Safe lf lg cq := by
  unfold State.mapWrite
  repeat' (first
    | with_reducible assumption
    | with_reducible apply State.touch_safe
    | with_reducible apply State.ignored_safe
    | with_reducible apply State.wr_safe
    | with_reducible apply foldl_snd2_safe
    | with_reducible refine pair3_safe (by with_reducible assumption) ?_
    | with_reducible refine pair_safe (by with_reducible assumption) ?_
    | with_reducible apply foldl_safe
    | with_reducible apply foldl_snd_safe
    | intro _
    | split
    | dsimp only
    | refine State.Safe.lit ?_ rfl rfl rfl rfl)

theorem State.trimSwap_safe (s : State) (a : Nat) (hS : s.Safe lf lg cq) :
    ((State.trimSwap s a)).Safe lf lg cq := by
  unfold State.trimSwap
  repeat' (first
    | with_reducible assumption
    | with_reducible apply State.modArr_safe
    | with_reducible apply foldl_snd2_safe
    | with_reducible refine pair3_safe (by with_reducible assumption) ?_
    | with_reducible refine pair_safe (by with_reducible assumption) ?_
    | with_reducible apply foldl_safe
    | with_reducible apply foldl_snd_safe
    | intro _
    | split
    | dsimp only
    | refine State.Safe.lit ?_ rfl rfl rfl rfl)

theorem State.trimCopy_safe (s : State) (a : Nat) (hS : s.Safe lf lg cq) :
    ((State.trimCopy s a)).Safe lf lg cq := by
  unfold State.trimCopy
  repeat' (first
    | with_reducible assumption
    | with_reducible apply State.modArr_safe
    | with_reducible apply foldl_snd2_safe
    | with_reducible refine pair3_safe (by with_reducible assumption) ?_
    | with_reducible refine pair_safe (by with_reducible assumption) ?_
    | with_reducible apply foldl_safe
    | with_reducible apply foldl_snd_safe
    | intro _
    | split
    | dsimp only
    | refine State.Safe.lit ?_ rfl rfl rfl rfl)

theorem State.trimStep_safe (s : State) (a : Nat) (hS : s.Safe lf lg cq) :
    ((State.trimStep s a)).Safe lf lg cq := by
  unfold State.trimStep
  repeat' (first
    | with_reducible assumption
    | with_reducible apply State.wf__safe
    | with_reducible apply foldl_snd2_safe
    | with_reducible refine pair3_safe (by with_reducible assumption) ?_
    | with_reducible refine pair_safe (by with_reducible assumption) ?_
    | with_reducible apply foldl_safe
    | with_reducible apply foldl_snd_safe
    | intro _
    | split
    | dsimp only
    | refine State.Safe.lit ?_ rfl rfl rfl rfl)

theorem State.trimWrite_safe (s : State) (p : Path) (a : Nat) (v : Nat) (hS : s.Safe lf lg cq) :
    ((State.trimWrite s p a v)).Safe lf lg cq := by
  unfold State.trimWrite
  repeat' (first
    | with_reducible assumption
    | with_reducible apply State.trimStep_safe
    | with_reducible apply State.modArr_safe
    | with_reducible apply State.ignored_safe
    | with_reducible apply foldl_snd2_safe
    | with_reducible refine pair3_safe (by with_reducible assumption) ?_
    | with_reducible refine pair_safe (by with_reducible assumption) ?_
    | with_reducible apply foldl_safe
    | with_reducible apply foldl_snd_safe
    | intro _
    | split
    | dsimp only
    | refine State.Safe.lit ?_ rfl rfl rfl rfl)

theorem State.pgmAbort_safe (s : State) (a : Nat) (hS : s.Safe lf lg cq) :
    ((State.pgmAbort s a)).Safe lf lg cq := by
  unfold State.pgmAbort
  repeat' (first
    | with_reducible assumption
    | with_reducible apply State.modArr_safe
    | with_reducible apply State.raise_safe
    | with_reducible apply State.flag_safe
    | with_reducible apply State.endJob_safe
    | with_reducible apply foldl_snd2_safe
    | with_reducible refine pair3_safe (by with_reducible assumption) ?_
    | with_reducible refine pair_safe (by with_reducible assumption) ?_
    | with_reducible apply foldl_safe
    | with_reducible apply foldl_snd_safe
    | intro _
    | split
    | dsimp only
    | refine State.Safe.lit ?_ rfl rfl rfl rfl)

theorem State.startOwn_safe (s : State) (a : Nat) (hS : s.Safe lf lg cq) :
    ((State.startOwn s a)).Safe lf lg cq := by
  unfold State.startOwn
  repeat' (first
    | with_reducible assumption
    | with_reducible apply State.startJob_safe
    | with_reducible apply foldl_snd2_safe
    | with_reducible refine pair3_safe (by with_reducible assumption) ?_
    | with_reducible refine pair_safe (by with_reducible assumption) ?_
    | with_reducible apply foldl_safe
    | with_reducible apply foldl_snd_safe
    | intro _
    | split
    | dsimp only
    | refine State.Safe.lit ?_ rfl rfl rfl rfl)

theorem State.pgmGo_safe (s : State) (p : Path) (a : Nat) (hS : s.Safe lf lg cq) :
    ((State.pgmGo s p a)).Safe lf lg cq := by
  unfold State.pgmGo
  repeat' (first
    | with_reducible assumption
    | with_reducible apply State.startOwn_safe
    | with_reducible apply State.ignored_safe
    | with_reducible apply State.raise_safe
    | with_reducible apply State.suspendReplay_safe
    | with_reducible apply foldl_snd2_safe
    | with_reducible refine pair3_safe (by with_reducible assumption) ?_
    | with_reducible refine pair_safe (by with_reducible assumption) ?_
    | with_reducible apply foldl_safe
    | with_reducible apply foldl_snd_safe
    | intro _
    | split
    | dsimp only
    | refine State.Safe.lit ?_ rfl rfl rfl rfl)

theorem State.keepProgress_safe (s : State) (a : Nat) (j : PgmJob) (hS : s.Safe lf lg cq) :
    ((State.keepProgress s a j)).Safe lf lg cq := by
  unfold State.keepProgress
  repeat' (first
    | with_reducible assumption
    | with_reducible apply State.wr_safe
    | with_reducible apply foldl_snd2_safe
    | with_reducible refine pair3_safe (by with_reducible assumption) ?_
    | with_reducible refine pair_safe (by with_reducible assumption) ?_
    | with_reducible apply foldl_safe
    | with_reducible apply foldl_snd_safe
    | intro _
    | split
    | dsimp only
    | refine State.Safe.lit ?_ rfl rfl rfl rfl)

theorem State.jobFailed_safe (s : State) (a : Nat) (j : PgmJob) (hS : s.Safe lf lg cq) :
    ((State.jobFailed s a j)).Safe lf lg cq := by
  unfold State.jobFailed
  repeat' (first
    | with_reducible assumption
    | with_reducible apply State.keepProgress_safe
    | with_reducible apply State.raise_safe
    | with_reducible apply State.flag_safe
    | with_reducible apply State.endJob_safe
    | with_reducible apply foldl_snd2_safe
    | with_reducible refine pair3_safe (by with_reducible assumption) ?_
    | with_reducible refine pair_safe (by with_reducible assumption) ?_
    | with_reducible apply foldl_safe
    | with_reducible apply foldl_snd_safe
    | intro _
    | split
    | dsimp only
    | refine State.Safe.lit ?_ rfl rfl rfl rfl)

theorem State.planeEvent_safe (s : State) (a : Nat) (last : Nat) (a3 : PlaneErr) (hS : s.Safe lf lg cq) :
    ((State.planeEvent s a last a3)).Safe lf lg cq := by
  unfold State.planeEvent
  repeat' (first
    | with_reducible assumption
    | with_reducible apply State.raise_safe
    | with_reducible apply State.flag_safe
    | with_reducible apply foldl_snd2_safe
    | with_reducible refine pair3_safe (by with_reducible assumption) ?_
    | with_reducible refine pair_safe (by with_reducible assumption) ?_
    | with_reducible apply foldl_safe
    | with_reducible apply foldl_snd_safe
    | intro _
    | split
    | dsimp only
    | refine State.Safe.lit ?_ rfl rfl rfl rfl)

theorem State.planeUe_safe (s : State) (src : Nat) (a2 : PlaneErr) (hS : s.Safe lf lg cq) :
    ((State.planeUe s src a2)).Safe lf lg cq := by
  unfold State.planeUe
  repeat' (first
    | with_reducible assumption
    | with_reducible apply State.ueRead_safe
    | with_reducible apply foldl_snd2_safe
    | with_reducible refine pair3_safe (by with_reducible assumption) ?_
    | with_reducible refine pair_safe (by with_reducible assumption) ?_
    | with_reducible apply foldl_safe
    | with_reducible apply foldl_snd_safe
    | intro _
    | split
    | dsimp only
    | refine State.Safe.lit ?_ rfl rfl rfl rfl)

theorem State.countJob_safe (s : State) (a : Nat) (hS : s.Safe lf lg cq) :
    ((State.countJob s a)).Safe lf lg cq := by
  unfold State.countJob
  repeat' (first
    | with_reducible assumption
    | with_reducible apply State.wr_safe
    | with_reducible apply State.raise_safe
    | with_reducible apply State.flag_safe
    | with_reducible apply foldl_snd2_safe
    | with_reducible refine pair3_safe (by with_reducible assumption) ?_
    | with_reducible refine pair_safe (by with_reducible assumption) ?_
    | with_reducible apply foldl_safe
    | with_reducible apply foldl_snd_safe
    | intro _
    | split
    | dsimp only
    | refine State.Safe.lit ?_ rfl rfl rfl rfl)

theorem State.reread_safe (s : State) (a : Nat) (j : PgmJob) (hS : s.Safe lf lg cq) :
    ((State.reread s a j)).Safe lf lg cq := by
  unfold State.reread
  repeat' (first
    | with_reducible assumption
    | with_reducible apply State.modArr_safe
    | with_reducible apply State.keepProgress_safe
    | with_reducible apply State.countJob_safe
    | with_reducible apply State.planeEvent_safe
    | with_reducible apply State.planeUe_safe
    | with_reducible apply State.endJob_safe
    | with_reducible apply foldl_snd2_safe
    | with_reducible refine pair3_safe (by with_reducible assumption) ?_
    | with_reducible refine pair_safe (by with_reducible assumption) ?_
    | with_reducible apply foldl_safe
    | with_reducible apply foldl_snd_safe
    | intro _
    | split
    | dsimp only
    | refine State.Safe.lit ?_ rfl rfl rfl rfl)

theorem State.planeDone_safe (s : State) (a : Nat) (hS : s.Safe lf lg cq) :
    ((State.planeDone s a)).Safe lf lg cq := by
  unfold State.planeDone
  repeat' (first
    | with_reducible assumption
    | with_reducible apply State.planeEvent_safe
    | with_reducible apply State.planeUe_safe
    | with_reducible apply State.endJob_safe
    | with_reducible apply State.reread_safe
    | with_reducible apply foldl_snd2_safe
    | with_reducible refine pair3_safe (by with_reducible assumption) ?_
    | with_reducible refine pair_safe (by with_reducible assumption) ?_
    | with_reducible apply foldl_safe
    | with_reducible apply foldl_snd_safe
    | intro _
    | split
    | dsimp only
    | refine State.Safe.lit ?_ rfl rfl rfl rfl)

theorem State.scanBatch_safe (s : State) (a : Nat) (weak : Nat) (hS : s.Safe lf lg cq) :
    ((State.scanBatch s a weak)).Safe lf lg cq := by
  unfold State.scanBatch
  repeat' (first
    | with_reducible assumption
    | with_reducible apply State.setArr_safe
    | with_reducible apply State.wr_safe
    | with_reducible apply State.raise_safe
    | with_reducible apply State.flag_safe
    | with_reducible apply State.count_safe
    | with_reducible apply foldl_snd2_safe
    | with_reducible refine pair3_safe (by with_reducible assumption) ?_
    | with_reducible refine pair_safe (by with_reducible assumption) ?_
    | with_reducible apply foldl_safe
    | with_reducible apply foldl_snd_safe
    | intro _
    | split
    | dsimp only
    | refine State.Safe.lit ?_ rfl rfl rfl rfl)

theorem State.jobReady_safe (s : State) (a : Nat) (j : PgmJob) (hS : s.Safe lf lg cq) :
    ((State.jobReady s a j)).Safe lf lg cq := by
  unfold State.jobReady
  repeat' (first
    | with_reducible assumption
    | with_reducible apply State.modArr_safe
    | with_reducible apply State.keepProgress_safe
    | with_reducible apply State.wr_safe
    | with_reducible apply State.raise_safe
    | with_reducible apply State.flag_safe
    | with_reducible apply State.endJob_safe
    | with_reducible apply foldl_snd2_safe
    | with_reducible refine pair3_safe (by with_reducible assumption) ?_
    | with_reducible refine pair_safe (by with_reducible assumption) ?_
    | with_reducible apply foldl_safe
    | with_reducible apply foldl_snd_safe
    | intro _
    | split
    | dsimp only
    | refine State.Safe.lit ?_ rfl rfl rfl rfl)

theorem State.repairCol_safe (s : State) (a : Nat) (c : Nat) (j : PgmJob) (hS : s.Safe lf lg cq) :
    ((State.repairCol s a c j).1).Safe lf lg cq := by
  unfold State.repairCol
  repeat' (first
    | with_reducible assumption
    | with_reducible apply State.touch_safe
    | with_reducible apply State.wr_safe
    | with_reducible apply State.each_safe
    | with_reducible apply State.raise_safe
    | with_reducible apply State.flag_safe
    | with_reducible apply foldl_snd2_safe
    | with_reducible refine pair3_safe (by with_reducible assumption) ?_
    | with_reducible refine pair_safe (by with_reducible assumption) ?_
    | with_reducible apply foldl_safe
    | with_reducible apply foldl_snd_safe
    | intro _
    | split
    | dsimp only
    | refine State.Safe.lit ?_ rfl rfl rfl rfl)

theorem State.repairCol_safe' {s : State} {a : Nat} {c : Nat} {j : PgmJob} {y0 t} (eqn : (State.repairCol s a c j) = (t, y0)) (hS : s.Safe lf lg cq)  : t.Safe lf lg cq := by
  have := State.repairCol_safe s a c j hS
  rw [eqn] at this; exact this

theorem State.repairRow_safe (s : State) (a : Nat) (r : Nat) (j : PgmJob) (hS : s.Safe lf lg cq) :
    ((State.repairRow s a r j).1).Safe lf lg cq := by
  unfold State.repairRow
  repeat' (first
    | with_reducible assumption
    | with_reducible apply State.touch_safe
    | with_reducible apply State.wr_safe
    | with_reducible apply State.each_safe
    | with_reducible apply State.raise_safe
    | with_reducible apply State.flag_safe
    | with_reducible apply foldl_snd2_safe
    | with_reducible refine pair3_safe (by with_reducible assumption) ?_
    | with_reducible refine pair_safe (by with_reducible assumption) ?_
    | with_reducible apply foldl_safe
    | with_reducible apply foldl_snd_safe
    | intro _
    | split
    | dsimp only
    | refine State.Safe.lit ?_ rfl rfl rfl rfl)

theorem State.repairRow_safe' {s : State} {a : Nat} {r : Nat} {j : PgmJob} {y0 t} (eqn : (State.repairRow s a r j) = (t, y0)) (hS : s.Safe lf lg cq)  : t.Safe lf lg cq := by
  have := State.repairRow_safe s a r j hS
  rw [eqn] at this; exact this

theorem State.repair_safe (s : State) (a : Nat) (j : PgmJob) (hS : s.Safe lf lg cq) :
    ((State.repair s a j)).Safe lf lg cq := by
  have step : ∀ (f : State → Nat → PgmJob → State × PgmJob) (_ : ∀ t n k, t.Safe lf lg cq → (f t n k).1.Safe lf lg cq) (xs : List Nat)
      (p : State × PgmJob), p.1.Safe lf lg cq → (xs.foldl (repairStep f) p).1.Safe lf lg cq := by
    intro f hf xs p hp
    refine foldl_fst_safe _ _ _ (fun t b x ht => ?_) hp
    unfold repairStep
    split
    · exact hf _ _ _ ht
    · exact ht
  have walk : ∀ xs ys, (repairWalk xs ys a (s, j)).1.Safe lf lg cq := fun xs ys =>
    step _ (fun _ _ _ h => State.repairRow_safe _ _ _ _ h) _ _ (step _ (fun _ _ _ h => State.repairCol_safe _ _ _ _ h) _ _ hS)
  have h := walk (List.range 514) (List.range 1032)
  unfold State.repair
  generalize repairWalk (List.range 514) (List.range 1032) a (s, j) = x at h ⊢
  dsimp only
  split
  · split
    · exact State.jobReady_safe _ _ _ h
    · exact State.jobFailed_safe _ _ _ h
  · exact State.modArr_safe _ _ _ h

theorem State.jobAborted_safe (s : State) (a : Nat) (j : PgmJob) (hS : s.Safe lf lg cq) :
    ((State.jobAborted s a j)).Safe lf lg cq := by
  unfold State.jobAborted
  repeat' (first
    | with_reducible assumption
    | with_reducible apply State.keepProgress_safe
    | with_reducible apply State.raise_safe
    | with_reducible apply State.flag_safe
    | with_reducible apply State.endJob_safe
    | with_reducible apply foldl_snd2_safe
    | with_reducible refine pair3_safe (by with_reducible assumption) ?_
    | with_reducible refine pair_safe (by with_reducible assumption) ?_
    | with_reducible apply foldl_safe
    | with_reducible apply foldl_snd_safe
    | intro _
    | split
    | dsimp only
    | refine State.Safe.lit ?_ rfl rfl rfl rfl)

theorem State.program_safe (s : State) (a : Nat) (r : Nat) (p : Nat) (v : Int) (stuck : Bool) (hS : s.Safe lf lg cq) :
    ((State.program s a r p v stuck)).Safe lf lg cq := by
  unfold State.program
  repeat' (first
    | with_reducible assumption
    | with_reducible apply State.modArr_safe
    | with_reducible apply foldl_snd2_safe
    | with_reducible refine pair3_safe (by with_reducible assumption) ?_
    | with_reducible refine pair_safe (by with_reducible assumption) ?_
    | with_reducible apply foldl_safe
    | with_reducible apply foldl_snd_safe
    | intro _
    | split
    | dsimp only
    | refine State.Safe.lit ?_ rfl rfl rfl rfl)

theorem State.repairDone_safe (s : State) (a : Nat) (stuck : List StuckCell) (hS : s.Safe lf lg cq) :
    ((State.repairDone s a stuck)).Safe lf lg cq := by
  unfold State.repairDone
  repeat' (first
    | with_reducible assumption
    | with_reducible apply State.repair_safe
    | with_reducible apply State.modArr_safe
    | with_reducible apply State.each_safe
    | with_reducible apply State.jobAborted_safe
    | with_reducible apply State.program_safe
    | with_reducible apply foldl_snd2_safe
    | with_reducible refine pair3_safe (by with_reducible assumption) ?_
    | with_reducible refine pair_safe (by with_reducible assumption) ?_
    | with_reducible apply foldl_safe
    | with_reducible apply foldl_snd_safe
    | intro _
    | split
    | dsimp only
    | refine State.Safe.lit ?_ rfl rfl rfl rfl)

theorem State.startQueued_safe (s : State) (hS : s.Safe lf lg cq) :
    ((State.startQueued s)).Safe lf lg cq := by
  unfold State.startQueued
  repeat' (first
    | with_reducible assumption
    | with_reducible apply State.modArr_safe
    | with_reducible apply State.storeArr_safe
    | with_reducible apply foldl_snd2_safe
    | with_reducible refine pair3_safe (by with_reducible assumption) ?_
    | with_reducible refine pair_safe (by with_reducible assumption) ?_
    | with_reducible apply foldl_safe
    | with_reducible apply foldl_snd_safe
    | intro _
    | split
    | dsimp only
    | refine State.Safe.lit ?_ rfl rfl rfl rfl)

theorem State.refresh_safe (s : State) (a : Nat) (express : Bool) (idle : Bool) (hS : s.Safe lf lg cq) :
    ((State.refresh s a express idle)).Safe lf lg cq := by
  unfold State.refresh
  repeat' (first
    | with_reducible assumption
    | with_reducible apply State.setArr_safe
    | with_reducible apply State.count_safe
    | with_reducible apply foldl_snd2_safe
    | with_reducible refine pair3_safe (by with_reducible assumption) ?_
    | with_reducible refine pair_safe (by with_reducible assumption) ?_
    | with_reducible apply foldl_safe
    | with_reducible apply foldl_snd_safe
    | intro _
    | split
    | dsimp only
    | refine State.Safe.lit ?_ rfl rfl rfl rfl)

theorem State.batchDone_safe (s : State) (a : Nat) (stuck : List StuckCell) (hS : s.Safe lf lg cq) :
    ((State.batchDone s a stuck)).Safe lf lg cq := by
  unfold State.batchDone
  repeat' (first
    | with_reducible assumption
    | with_reducible apply State.repair_safe
    | with_reducible apply State.each_safe
    | with_reducible apply State.raise_safe
    | with_reducible apply State.flag_safe
    | with_reducible apply State.count_safe
    | with_reducible apply State.jobAborted_safe
    | with_reducible apply State.program_safe
    | with_reducible apply State.reread_safe
    | with_reducible apply foldl_snd2_safe
    | with_reducible refine pair3_safe (by with_reducible assumption) ?_
    | with_reducible refine pair_safe (by with_reducible assumption) ?_
    | with_reducible apply foldl_safe
    | with_reducible apply foldl_snd_safe
    | intro _
    | split
    | dsimp only
    | refine State.Safe.lit ?_ rfl rfl rfl rfl)

end Sys2Proof.Machine
end

