-- ==== Sys2Proof/Laws/Safe/CalOps.lean ====
section
/-! SUPPORT. One lemma for each operation of `Machine/CalOps.lean` that answers a state: it keeps `State.Safe` (the primed form says
the same of an answer that is known by an equation). -/

namespace Sys2Proof.Machine
open Sys2Proof
variable {lf lg : Nat} {cq : List Instr}

theorem State.calApplied_safe (s : State) (c : Nat) (set : Nat) (gradual : Bool) (dTrim : Nat) (dGain : Nat) (hS : s.Safe lf lg cq) :
    ((State.calApplied s c set gradual dTrim dGain)).Safe lf lg cq := by
  unfold State.calApplied
  repeat' (first
    | with_reducible assumption
    | with_reducible apply State.raise_safe
    | with_reducible apply State.flag_safe
    | with_reducible apply foldl_snd2_safe
    | with_reducible refine pair3_safe (by with_reducible assumption) ?_
    | with_reducible refine pair_safe (by with_reducible assumption) ?_
    | with_reducible apply foldl_safe
    | with_reducible apply foldl_snd_safe
    | intro _
    | split
    | dsimp only
    | refine State.Safe.lit ?_ rfl rfl rfl rfl)

theorem State.setTrim_safe (s : State) (a : Nat) (pair : Nat) (m : Int) (hS : s.Safe lf lg cq) :
    ((State.setTrim s a pair m)).Safe lf lg cq := by
  unfold State.setTrim
  repeat' (first
    | with_reducible assumption
    | with_reducible apply State.modArr_safe
    | with_reducible apply foldl_snd2_safe
    | with_reducible refine pair3_safe (by with_reducible assumption) ?_
    | with_reducible refine pair_safe (by with_reducible assumption) ?_
    | with_reducible apply foldl_safe
    | with_reducible apply foldl_snd_safe
    | intro _
    | split
    | dsimp only
    | refine State.Safe.lit ?_ rfl rfl rfl rfl)

theorem State.swapTrims_safe (s : State) (a : Nat) (hS : s.Safe lf lg cq) :
    ((State.swapTrims s a)).Safe lf lg cq := by
  unfold State.swapTrims
  repeat' (first
    | with_reducible assumption
    | with_reducible apply State.modArr_safe
    | with_reducible apply foldl_snd2_safe
    | with_reducible refine pair3_safe (by with_reducible assumption) ?_
    | with_reducible refine pair_safe (by with_reducible assumption) ?_
    | with_reducible apply foldl_safe
    | with_reducible apply foldl_snd_safe
    | intro _
    | split
    | dsimp only
    | refine State.Safe.lit ?_ rfl rfl rfl rfl)

theorem State.applyTrims_safe (s : State) (c : Nat) (tr : NMap Int) (hS : s.Safe lf lg cq) :
    ((State.applyTrims s c tr)).Safe lf lg cq := by
  unfold State.applyTrims
  repeat' (first
    | with_reducible assumption
    | with_reducible apply State.setTrim_safe
    | with_reducible apply State.each_safe
    | with_reducible apply State.swapTrims_safe
    | with_reducible apply foldl_snd2_safe
    | with_reducible refine pair3_safe (by with_reducible assumption) ?_
    | with_reducible refine pair_safe (by with_reducible assumption) ?_
    | with_reducible apply foldl_safe
    | with_reducible apply foldl_snd_safe
    | intro _
    | split
    | dsimp only
    | refine State.Safe.lit ?_ rfl rfl rfl rfl)

theorem State.gainRange_safe (s : State) (c : Nat) (set : Nat) (bad : Option Nat) (hS : s.Safe lf lg cq) :
    ((State.gainRange s c set bad)).Safe lf lg cq := by
  unfold State.gainRange
  repeat' (first
    | with_reducible assumption
    | with_reducible apply State.raise_safe
    | with_reducible apply State.flag_safe
    | with_reducible apply foldl_snd2_safe
    | with_reducible refine pair3_safe (by with_reducible assumption) ?_
    | with_reducible refine pair_safe (by with_reducible assumption) ?_
    | with_reducible apply foldl_safe
    | with_reducible apply foldl_snd_safe
    | intro _
    | split
    | dsimp only
    | refine State.Safe.lit ?_ rfl rfl rfl rfl)

theorem State.refreshW_safe (s : State) (a : Nat) (hS : s.Safe lf lg cq) :
    ((State.refreshW s a)).Safe lf lg cq := by
  unfold State.refreshW
  repeat' (first
    | with_reducible assumption
    | with_reducible apply State.modArr_safe
    | with_reducible apply foldl_snd2_safe
    | with_reducible refine pair3_safe (by with_reducible assumption) ?_
    | with_reducible refine pair_safe (by with_reducible assumption) ?_
    | with_reducible apply foldl_safe
    | with_reducible apply foldl_snd_safe
    | intro _
    | split
    | dsimp only
    | refine State.Safe.lit ?_ rfl rfl rfl rfl)

theorem State.applyK_safe (s : State) (c : Nat) (ks : NMap Rat) (hS : s.Safe lf lg cq) :
    ((State.applyK s c ks)).Safe lf lg cq := by
  unfold State.applyK
  repeat' (first
    | with_reducible assumption
    | with_reducible apply State.modArr_safe
    | with_reducible apply State.each_safe
    | with_reducible apply State.refreshW_safe
    | with_reducible apply foldl_snd2_safe
    | with_reducible refine pair3_safe (by with_reducible assumption) ?_
    | with_reducible refine pair_safe (by with_reducible assumption) ?_
    | with_reducible apply foldl_safe
    | with_reducible apply foldl_snd_safe
    | intro _
    | split
    | dsimp only
    | refine State.Safe.lit ?_ rfl rfl rfl rfl)

theorem State.setCal_safe (s : State) (c : Nat) (set : Nat) (v : CalSet) (hS : s.Safe lf lg cq) :
    ((State.setCal s c set v)).Safe lf lg cq := by
  unfold State.setCal
  repeat' (first
    | with_reducible assumption
    | with_reducible apply State.modCore_safe
    | with_reducible apply foldl_snd2_safe
    | with_reducible refine pair3_safe (by with_reducible assumption) ?_
    | with_reducible refine pair_safe (by with_reducible assumption) ?_
    | with_reducible apply foldl_safe
    | with_reducible apply foldl_snd_safe
    | intro _
    | split
    | dsimp only
    | refine State.Safe.lit ?_ rfl rfl rfl rfl)

theorem State.setGains_safe (s : State) (c : Nat) (set : Nat) (v : CalSet) (hS : s.Safe lf lg cq) :
    ((State.setGains s c set v)).Safe lf lg cq := by
  unfold State.setGains
  repeat' (first
    | with_reducible assumption
    | with_reducible apply State.setCal_safe
    | with_reducible apply foldl_snd2_safe
    | with_reducible refine pair3_safe (by with_reducible assumption) ?_
    | with_reducible refine pair_safe (by with_reducible assumption) ?_
    | with_reducible apply foldl_safe
    | with_reducible apply foldl_snd_safe
    | intro _
    | split
    | dsimp only
    | refine State.Safe.lit ?_ rfl rfl rfl rfl)

theorem State.calApply_safe (s : State) (c : Nat) (set : Nat) (hS : s.Safe lf lg cq) :
    ((State.calApply s c set)).Safe lf lg cq := by
  unfold State.calApply
  repeat' (first
    | with_reducible assumption
    | with_reducible apply State.calApplied_safe
    | with_reducible apply State.applyTrims_safe
    | with_reducible apply State.gainRange_safe
    | with_reducible apply State.applyK_safe
    | with_reducible apply State.setGains_safe
    | with_reducible apply foldl_snd2_safe
    | with_reducible refine pair3_safe (by with_reducible assumption) ?_
    | with_reducible refine pair_safe (by with_reducible assumption) ?_
    | with_reducible apply foldl_safe
    | with_reducible apply foldl_snd_safe
    | intro _
    | split
    | dsimp only
    | refine State.Safe.lit ?_ rfl rfl rfl rfl)

theorem State.rampTo_safe (s : State) (c : Nat) (set : Nat) (r : CalSet) (k : Nat) (hS : s.Safe lf lg cq) :
    ((State.rampTo s c set r k)).Safe lf lg cq := by
  unfold State.rampTo
  repeat' (first
    | with_reducible assumption
    | with_reducible apply State.calApplied_safe
    | with_reducible apply State.applyTrims_safe
    | with_reducible apply State.applyK_safe
    | with_reducible apply State.setGains_safe
    | with_reducible apply foldl_snd2_safe
    | with_reducible refine pair3_safe (by with_reducible assumption) ?_
    | with_reducible refine pair_safe (by with_reducible assumption) ?_
    | with_reducible apply foldl_safe
    | with_reducible apply foldl_snd_safe
    | intro _
    | split
    | dsimp only
    | refine State.Safe.lit ?_ rfl rfl rfl rfl)

theorem State.calTake_safe (s : State) (c : Nat) (set : Nat) (hS : s.Safe lf lg cq) :
    ((State.calTake s c set)).Safe lf lg cq := by
  unfold State.calTake
  repeat' (first
    | with_reducible assumption
    | with_reducible apply State.calApply_safe
    | with_reducible apply State.setCal_safe
    | with_reducible apply State.rampTo_safe
    | with_reducible apply foldl_snd2_safe
    | with_reducible refine pair3_safe (by with_reducible assumption) ?_
    | with_reducible refine pair_safe (by with_reducible assumption) ?_
    | with_reducible apply foldl_safe
    | with_reducible apply foldl_snd_safe
    | intro _
    | split
    | dsimp only
    | refine State.Safe.lit ?_ rfl rfl rfl rfl)

theorem State.calDue_safe (s : State) (c : Nat) (set : Nat) (hS : s.Safe lf lg cq) :
    ((State.calDue s c set)).Safe lf lg cq := by
  unfold State.calDue
  repeat' (first
    | with_reducible assumption
    | with_reducible apply State.calTake_safe
    | with_reducible apply State.setCal_safe
    | with_reducible apply foldl_snd2_safe
    | with_reducible refine pair3_safe (by with_reducible assumption) ?_
    | with_reducible refine pair_safe (by with_reducible assumption) ?_
    | with_reducible apply foldl_safe
    | with_reducible apply foldl_snd_safe
    | intro _
    | split
    | dsimp only
    | refine State.Safe.lit ?_ rfl rfl rfl rfl)

theorem State.calRamp_safe (s : State) (c : Nat) (set : Nat) (hS : s.Safe lf lg cq) :
    ((State.calRamp s c set)).Safe lf lg cq := by
  unfold State.calRamp
  repeat' (first
    | with_reducible assumption
    | with_reducible apply State.calDue_safe
    | with_reducible apply foldl_snd2_safe
    | with_reducible refine pair3_safe (by with_reducible assumption) ?_
    | with_reducible refine pair_safe (by with_reducible assumption) ?_
    | with_reducible apply foldl_safe
    | with_reducible apply foldl_snd_safe
    | intro _
    | split
    | dsimp only
    | refine State.Safe.lit ?_ rfl rfl rfl rfl)

theorem State.calReload_safe (s : State) (c : Nat) (l : Nat) (hS : s.Safe lf lg cq) :
    ((State.calReload s c l)).Safe lf lg cq := by
  unfold State.calReload
  repeat' (first
    | with_reducible assumption
    | with_reducible apply State.gainRange_safe
    | with_reducible apply State.setGains_safe
    | with_reducible apply foldl_snd2_safe
    | with_reducible refine pair3_safe (by with_reducible assumption) ?_
    | with_reducible refine pair_safe (by with_reducible assumption) ?_
    | with_reducible apply foldl_safe
    | with_reducible apply foldl_snd_safe
    | intro _
    | split
    | dsimp only
    | refine State.Safe.lit ?_ rfl rfl rfl rfl)

theorem State.tempUpdate_safe (s : State) (c : Nat) (set : Nat) (hS : s.Safe lf lg cq) :
    ((State.tempUpdate s c set)).Safe lf lg cq := by
  unfold State.tempUpdate
  repeat' (first
    | with_reducible assumption
    | with_reducible apply State.each_safe
    | with_reducible apply State.refreshW_safe
    | with_reducible apply State.setCal_safe
    | with_reducible apply State.gainRange_safe
    | with_reducible apply State.setGains_safe
    | with_reducible apply foldl_snd2_safe
    | with_reducible refine pair3_safe (by with_reducible assumption) ?_
    | with_reducible refine pair_safe (by with_reducible assumption) ?_
    | with_reducible apply foldl_safe
    | with_reducible apply foldl_snd_safe
    | intro _
    | split
    | dsimp only
    | refine State.Safe.lit ?_ rfl rfl rfl rfl)

theorem State.calIdle_safe (s : State) (c : Nat) (hS : s.Safe lf lg cq) :
    ((State.calIdle s c)).Safe lf lg cq := by
  unfold State.calIdle
  repeat' (first
    | with_reducible assumption
    | with_reducible apply State.calTake_safe
    | with_reducible apply State.tempUpdate_safe
    | with_reducible apply State.each_safe
    | with_reducible apply foldl_snd2_safe
    | with_reducible refine pair3_safe (by with_reducible assumption) ?_
    | with_reducible refine pair_safe (by with_reducible assumption) ?_
    | with_reducible apply foldl_safe
    | with_reducible apply foldl_snd_safe
    | intro _
    | split
    | dsimp only
    | refine State.Safe.lit ?_ rfl rfl rfl rfl)

theorem State.sessionStep_safe (s : State) (a : Nat) (hS : s.Safe lf lg cq) :
    ((State.sessionStep s a)).Safe lf lg cq := by
  unfold State.sessionStep
  repeat' (first
    | with_reducible assumption
    | with_reducible apply State.modArr_safe
    | with_reducible apply State.count_safe
    | with_reducible apply foldl_snd2_safe
    | with_reducible refine pair3_safe (by with_reducible assumption) ?_
    | with_reducible refine pair_safe (by with_reducible assumption) ?_
    | with_reducible apply foldl_safe
    | with_reducible apply foldl_snd_safe
    | intro _
    | split
    | dsimp only
    | refine State.Safe.lit ?_ rfl rfl rfl rfl)

theorem State.nullSwap_safe (s : State) (a : Nat) (fb : Nat) (m : CalCodes) (hS : s.Safe lf lg cq) :
    ((State.nullSwap s a fb m)).Safe lf lg cq := by
  unfold State.nullSwap
  repeat' (first
    | with_reducible assumption
    | with_reducible apply State.setTrim_safe
    | with_reducible apply State.each_safe
    | with_reducible apply State.swapTrims_safe
    | with_reducible apply foldl_snd2_safe
    | with_reducible refine pair3_safe (by with_reducible assumption) ?_
    | with_reducible refine pair_safe (by with_reducible assumption) ?_
    | with_reducible apply foldl_safe
    | with_reducible apply foldl_snd_safe
    | intro _
    | split
    | dsimp only
    | refine State.Safe.lit ?_ rfl rfl rfl rfl)

theorem State.setFactors_safe (s : State) (a : Nat) (rho : Rat) (k : List Rat) (prov : Bool) (hS : s.Safe lf lg cq) :
    ((State.setFactors s a rho k prov)).Safe lf lg cq := by
  unfold State.setFactors
  repeat' (first
    | with_reducible assumption
    | with_reducible apply State.modArr_safe
    | with_reducible apply foldl_snd2_safe
    | with_reducible refine pair3_safe (by with_reducible assumption) ?_
    | with_reducible refine pair_safe (by with_reducible assumption) ?_
    | with_reducible apply foldl_safe
    | with_reducible apply foldl_snd_safe
    | intro _
    | split
    | dsimp only
    | refine State.Safe.lit ?_ rfl rfl rfl rfl)

theorem State.openFail_safe (s : State) (a : Nat) (cause : Nat) (hS : s.Safe lf lg cq) :
    ((State.openFail s a cause)).Safe lf lg cq := by
  unfold State.openFail
  repeat' (first
    | with_reducible assumption
    | with_reducible apply State.raise_safe
    | with_reducible apply State.flag_safe
    | with_reducible apply foldl_snd2_safe
    | with_reducible refine pair3_safe (by with_reducible assumption) ?_
    | with_reducible refine pair_safe (by with_reducible assumption) ?_
    | with_reducible apply foldl_safe
    | with_reducible apply foldl_snd_safe
    | intro _
    | split
    | dsimp only
    | refine State.Safe.lit ?_ rfl rfl rfl rfl)

theorem State.calRestart_safe (s : State) (c : Nat) (set : Nat) (hS : s.Safe lf lg cq) :
    ((State.calRestart s c set)).Safe lf lg cq := by
  unfold State.calRestart
  repeat' (first
    | with_reducible assumption
    | with_reducible apply State.setCal_safe
    | with_reducible apply foldl_snd2_safe
    | with_reducible refine pair3_safe (by with_reducible assumption) ?_
    | with_reducible refine pair_safe (by with_reducible assumption) ?_
    | with_reducible apply foldl_safe
    | with_reducible apply foldl_snd_safe
    | intro _
    | split
    | dsimp only
    | refine State.Safe.lit ?_ rfl rfl rfl rfl)

theorem State.calDisturbed_safe (s : State) (a : Nat) (hS : s.Safe lf lg cq) :
    ((State.calDisturbed s a)).Safe lf lg cq := by
  unfold State.calDisturbed
  repeat' (first
    | with_reducible assumption
    | with_reducible apply State.calRestart_safe
    | with_reducible apply foldl_snd2_safe
    | with_reducible refine pair3_safe (by with_reducible assumption) ?_
    | with_reducible refine pair_safe (by with_reducible assumption) ?_
    | with_reducible apply foldl_safe
    | with_reducible apply foldl_snd_safe
    | intro _
    | split
    | dsimp only
    | refine State.Safe.lit ?_ rfl rfl rfl rfl)

theorem State.calOff_safe (s : State) (c : Nat) (hS : s.Safe lf lg cq) :
    ((State.calOff s c)).Safe lf lg cq := by
  unfold State.calOff
  repeat' (first
    | with_reducible assumption
    | with_reducible apply State.each_safe
    | with_reducible apply State.setCal_safe
    | with_reducible apply foldl_snd2_safe
    | with_reducible refine pair3_safe (by with_reducible assumption) ?_
    | with_reducible refine pair_safe (by with_reducible assumption) ?_
    | with_reducible apply foldl_safe
    | with_reducible apply foldl_snd_safe
    | intro _
    | split
    | dsimp only
    | refine State.Safe.lit ?_ rfl rfl rfl rfl)

theorem State.calBegin_safe (s : State) (c : Nat) (set : Nat) (hS : s.Safe lf lg cq) :
    ((State.calBegin s c set)).Safe lf lg cq := by
  unfold State.calBegin
  repeat' (first
    | with_reducible assumption
    | with_reducible apply State.setCal_safe
    | with_reducible apply foldl_snd2_safe
    | with_reducible refine pair3_safe (by with_reducible assumption) ?_
    | with_reducible refine pair_safe (by with_reducible assumption) ?_
    | with_reducible apply foldl_safe
    | with_reducible apply foldl_snd_safe
    | intro _
    | split
    | dsimp only
    | refine State.Safe.lit ?_ rfl rfl rfl rfl)

theorem State.calBeginAll_safe (s : State) (c : Nat) (hS : s.Safe lf lg cq) :
    ((State.calBeginAll s c)).Safe lf lg cq := by
  unfold State.calBeginAll
  repeat' (first
    | with_reducible assumption
    | with_reducible apply State.calBegin_safe
    | with_reducible apply State.each_safe
    | with_reducible apply foldl_snd2_safe
    | with_reducible refine pair3_safe (by with_reducible assumption) ?_
    | with_reducible refine pair_safe (by with_reducible assumption) ?_
    | with_reducible apply foldl_safe
    | with_reducible apply foldl_snd_safe
    | intro _
    | split
    | dsimp only
    | refine State.Safe.lit ?_ rfl rfl rfl rfl)

theorem State.calTap_safe (s : State) (c : Nat) (l : Nat) (codes : NMap Int) (zeros : NMap Int) (ok : Bool) (saturated : Bool) (hS : s.Safe lf lg cq) :
    ((State.calTap s c l codes zeros ok saturated)).Safe lf lg cq := by
  unfold State.calTap
  repeat' (first
    | with_reducible assumption
    | with_reducible apply State.setCal_safe
    | with_reducible apply foldl_snd2_safe
    | with_reducible refine pair3_safe (by with_reducible assumption) ?_
    | with_reducible refine pair_safe (by with_reducible assumption) ?_
    | with_reducible apply foldl_safe
    | with_reducible apply foldl_snd_safe
    | intro _
    | split
    | dsimp only
    | refine State.Safe.lit ?_ rfl rfl rfl rfl)

theorem State.calSuspend_safe (s : State) (c : Nat) (l : Nat) (hS : s.Safe lf lg cq) :
    ((State.calSuspend s c l)).Safe lf lg cq := by
  unfold State.calSuspend
  repeat' (first
    | with_reducible assumption
    | with_reducible apply State.modArr_safe
    | with_reducible apply State.setCal_safe
    | with_reducible apply foldl_snd2_safe
    | with_reducible refine pair3_safe (by with_reducible assumption) ?_
    | with_reducible refine pair_safe (by with_reducible assumption) ?_
    | with_reducible apply foldl_safe
    | with_reducible apply foldl_snd_safe
    | intro _
    | split
    | dsimp only
    | refine State.Safe.lit ?_ rfl rfl rfl rfl)

theorem State.calSubstitute_safe (s : State) (c : Nat) (set : Nat) (hS : s.Safe lf lg cq) :
    ((State.calSubstitute s c set)).Safe lf lg cq := by
  unfold State.calSubstitute
  repeat' (first
    | with_reducible assumption
    | with_reducible apply State.setCal_safe
    | with_reducible apply foldl_snd2_safe
    | with_reducible refine pair3_safe (by with_reducible assumption) ?_
    | with_reducible refine pair_safe (by with_reducible assumption) ?_
    | with_reducible apply foldl_safe
    | with_reducible apply foldl_snd_safe
    | intro _
    | split
    | dsimp only
    | refine State.Safe.lit ?_ rfl rfl rfl rfl)

theorem State.gainRead_safe (s : State) (c : Nat) (hS : s.Safe lf lg cq) :
    ((State.gainRead s c).2).Safe lf lg cq := by
  unfold State.gainRead
  repeat' (first
    | with_reducible assumption
    | with_reducible apply State.wf__safe
    | with_reducible apply foldl_snd2_safe
    | with_reducible refine pair3_safe (by with_reducible assumption) ?_
    | with_reducible refine pair_safe (by with_reducible assumption) ?_
    | with_reducible apply foldl_safe
    | with_reducible apply foldl_snd_safe
    | intro _
    | split
    | dsimp only
    | refine State.Safe.lit ?_ rfl rfl rfl rfl)

theorem State.gainRead_safe' {s : State} {c : Nat} {y0 t} (eqn : (State.gainRead s c) = (y0, t)) (hS : s.Safe lf lg cq)  : t.Safe lf lg cq := by
  have := State.gainRead_safe s c hS
  rw [eqn] at this; exact this

theorem State.calAccept_safe (s : State) (c : Nat) (set : Nat) (offs : NMap Rat) (gains : NMap Rat) (th : Rat) (hS : s.Safe lf lg cq) :
    ((State.calAccept s c set offs gains th)).Safe lf lg cq := by
  unfold State.calAccept
  repeat' (first
    | with_reducible assumption
    | with_reducible apply State.modArr_safe
    | with_reducible apply State.each_safe
    | with_reducible apply State.raise_safe
    | with_reducible apply State.setCal_safe
    | with_reducible apply State.flag_safe
    | with_reducible apply State.gainRange_safe
    | with_reducible apply foldl_snd2_safe
    | with_reducible refine pair3_safe (by with_reducible assumption) ?_
    | with_reducible refine pair_safe (by with_reducible assumption) ?_
    | with_reducible apply foldl_safe
    | with_reducible apply foldl_snd_safe
    | intro _
    | split
    | dsimp only
    | refine State.Safe.lit ?_ rfl rfl rfl rfl)

theorem State.driftSession_safe (s : State) (a : Nat) (refs : List Int) (hS : s.Safe lf lg cq) :
    ((State.driftSession s a refs)).Safe lf lg cq := by
  unfold State.driftSession
  repeat' (first
    | with_reducible assumption
    | with_reducible apply State.modArr_safe
    | with_reducible apply foldl_snd2_safe
    | with_reducible refine pair3_safe (by with_reducible assumption) ?_
    | with_reducible refine pair_safe (by with_reducible assumption) ?_
    | with_reducible apply foldl_safe
    | with_reducible apply foldl_snd_safe
    | intro _
    | split
    | dsimp only
    | refine State.Safe.lit ?_ rfl rfl rfl rfl)

theorem State.tempUpdates_safe (s : State) (c : Nat) (hS : s.Safe lf lg cq) :
    ((State.tempUpdates s c)).Safe lf lg cq := by
  unfold State.tempUpdates
  repeat' (first
    | with_reducible assumption
    | with_reducible apply State.tempUpdate_safe
    | with_reducible apply State.each_safe
    | with_reducible apply State.refreshW_safe
    | with_reducible apply foldl_snd2_safe
    | with_reducible refine pair3_safe (by with_reducible assumption) ?_
    | with_reducible refine pair_safe (by with_reducible assumption) ?_
    | with_reducible apply foldl_safe
    | with_reducible apply foldl_snd_safe
    | intro _
    | split
    | dsimp only
    | refine State.Safe.lit ?_ rfl rfl rfl rfl)

theorem State.calReject_safe (s : State) (c : Nat) (set : Nat) (cause : Nat) (l : Nat) (pair : Nat) (hS : s.Safe lf lg cq) :
    ((State.calReject s c set cause l pair)).Safe lf lg cq := by
  unfold State.calReject
  repeat' (first
    | with_reducible assumption
    | with_reducible apply State.bump_safe
    | with_reducible apply State.raise_safe
    | with_reducible apply State.setCal_safe
    | with_reducible apply State.flag_safe
    | with_reducible apply foldl_snd2_safe
    | with_reducible refine pair3_safe (by with_reducible assumption) ?_
    | with_reducible refine pair_safe (by with_reducible assumption) ?_
    | with_reducible apply foldl_safe
    | with_reducible apply foldl_snd_safe
    | intro _
    | split
    | dsimp only
    | refine State.Safe.lit ?_ rfl rfl rfl rfl)

theorem State.windowClose_safe (s : State) (c : Nat) (set : Nat) (hS : s.Safe lf lg cq) :
    ((State.windowClose s c set)).Safe lf lg cq := by
  unfold State.windowClose
  repeat' (first
    | with_reducible assumption
    | with_reducible apply State.calReject_safe
    | with_reducible apply State.fresh_safe
    | with_reducible refine State.fresh_safe' (by with_reducible assumption) ?_
    | with_reducible apply State.calAccept_safe
    | with_reducible apply State.setCal_safe
    | with_reducible apply foldl_snd2_safe
    | with_reducible refine pair3_safe (by with_reducible assumption) ?_
    | with_reducible refine pair_safe (by with_reducible assumption) ?_
    | with_reducible apply foldl_safe
    | with_reducible apply foldl_snd_safe
    | intro _
    | split
    | dsimp only
    | refine State.Safe.lit ?_ rfl rfl rfl rfl)

theorem State.windowTimeout_safe (s : State) (c : Nat) (set : Nat) (hS : s.Safe lf lg cq) :
    ((State.windowTimeout s c set)).Safe lf lg cq := by
  unfold State.windowTimeout
  repeat' (first
    | with_reducible assumption
    | with_reducible apply State.raise_safe
    | with_reducible apply State.setCal_safe
    | with_reducible apply State.flag_safe
    | with_reducible apply foldl_snd2_safe
    | with_reducible refine pair3_safe (by with_reducible assumption) ?_
    | with_reducible refine pair_safe (by with_reducible assumption) ?_
    | with_reducible apply foldl_safe
    | with_reducible apply foldl_snd_safe
    | intro _
    | split
    | dsimp only
    | refine State.Safe.lit ?_ rfl rfl rfl rfl)

end Sys2Proof.Machine
end

