-- ==== Sys2Proof/Laws/Safe/ImageOps.lean ====
section
/-! SUPPORT. One lemma for each operation of `Machine/ImageOps.lean` that answers a state: it keeps `State.Safe` (the primed form says
the same of an answer that is known by an equation). -/

namespace Sys2Proof.Machine
open Sys2Proof
variable {lf lg : Nat} {cq : List Instr}

theorem State.imgResult_safe (s : State) (r : Nat) (hS : s.Safe lf lg cq) :
    ((State.imgResult s r)).Safe lf lg cq := by
  unfold State.imgResult
  repeat' (first
    | with_reducible assumption
    | with_reducible apply State.wr_safe
    | with_reducible apply foldl_snd2_safe
    | with_reducible refine pair3_safe (by with_reducible assumption) ?_
    | with_reducible refine pair_safe (by with_reducible assumption) ?_
    | with_reducible apply foldl_safe
    | with_reducible apply foldl_snd_safe
    | intro _
    | split
    | dsimp only
    | refine State.Safe.lit ?_ rfl rfl rfl rfl)

theorem State.imgStaged_safe (s : State) (m : Nat) (version : Nat) (hS : s.Safe lf lg cq) :
    ((State.imgStaged s m version)).Safe lf lg cq := by
  unfold State.imgStaged
  repeat' (first
    | with_reducible assumption
    | with_reducible apply State.imgRaise_safe
    | with_reducible apply State.modModel_safe
    | with_reducible apply foldl_snd2_safe
    | with_reducible refine pair3_safe (by with_reducible assumption) ?_
    | with_reducible refine pair_safe (by with_reducible assumption) ?_
    | with_reducible apply foldl_safe
    | with_reducible apply foldl_snd_safe
    | intro _
    | split
    | dsimp only
    | refine State.Safe.lit ?_ rfl rfl rfl rfl)

theorem State.imgRefuse_safe (s : State) (m : Nat) (e : ImgErr) (hS : s.Safe lf lg cq) :
    ((State.imgRefuse s m e)).Safe lf lg cq := by
  unfold State.imgRefuse
  repeat' (first
    | with_reducible assumption
    | with_reducible apply State.imgRaise_safe
    | with_reducible apply State.reportBad_safe
    | with_reducible apply State.imgResult_safe
    | with_reducible apply foldl_snd2_safe
    | with_reducible refine pair3_safe (by with_reducible assumption) ?_
    | with_reducible refine pair_safe (by with_reducible assumption) ?_
    | with_reducible apply foldl_safe
    | with_reducible apply foldl_snd_safe
    | intro _
    | split
    | dsimp only
    | refine State.Safe.lit ?_ rfl rfl rfl rfl)

theorem State.markBad_safe (s : State) (m : Nat) (hS : s.Safe lf lg cq) :
    ((State.markBad s m)).Safe lf lg cq := by
  unfold State.markBad
  repeat' (first
    | with_reducible assumption
    | with_reducible apply State.modModel_safe
    | with_reducible apply foldl_snd2_safe
    | with_reducible refine pair3_safe (by with_reducible assumption) ?_
    | with_reducible refine pair_safe (by with_reducible assumption) ?_
    | with_reducible apply foldl_safe
    | with_reducible apply foldl_snd_safe
    | intro _
    | split
    | dsimp only
    | refine State.Safe.lit ?_ rfl rfl rfl rfl)

theorem State.imgVerifyCmd_safe (s : State) (hS : s.Safe lf lg cq) :
    ((State.imgVerifyCmd s)).Safe lf lg cq := by
  unfold State.imgVerifyCmd
  repeat' (first
    | with_reducible assumption
    | with_reducible apply State.imgStaged_safe
    | with_reducible apply State.imgRefuse_safe
    | with_reducible apply State.markBad_safe
    | with_reducible apply State.imgResult_safe
    | with_reducible apply foldl_snd2_safe
    | with_reducible refine pair3_safe (by with_reducible assumption) ?_
    | with_reducible refine pair_safe (by with_reducible assumption) ?_
    | with_reducible apply foldl_safe
    | with_reducible apply foldl_snd_safe
    | intro _
    | split
    | dsimp only
    | refine State.Safe.lit ?_ rfl rfl rfl rfl)

theorem State.imgReceive_safe (s : State) (hS : s.Safe lf lg cq) :
    ((State.imgReceive s)).Safe lf lg cq := by
  unfold State.imgReceive
  repeat' (first
    | with_reducible assumption
    | with_reducible apply State.imgResult_safe
    | with_reducible apply State.modModel_safe
    | with_reducible apply foldl_snd2_safe
    | with_reducible refine pair3_safe (by with_reducible assumption) ?_
    | with_reducible refine pair_safe (by with_reducible assumption) ?_
    | with_reducible apply foldl_safe
    | with_reducible apply foldl_snd_safe
    | intro _
    | split
    | dsimp only
    | refine State.Safe.lit ?_ rfl rfl rfl rfl)

theorem State.chainSend_safe (s : State) (m : Nat) (off : Nat) (pay : List Byte) (hS : s.Safe lf lg cq) :
    ((State.chainSend s m off pay)).Safe lf lg cq := by
  unfold State.chainSend
  repeat' (first
    | with_reducible assumption
    | with_reducible apply State.chainBroken_safe
    | with_reducible apply State.modModel_safe
    | with_reducible apply State.srnSend_safe
    | with_reducible refine State.srnSend_safe' (by with_reducible assumption) ?_
    | with_reducible apply foldl_snd2_safe
    | with_reducible refine pair3_safe (by with_reducible assumption) ?_
    | with_reducible refine pair_safe (by with_reducible assumption) ?_
    | with_reducible apply foldl_safe
    | with_reducible apply foldl_snd_safe
    | intro _
    | split
    | dsimp only
    | refine State.Safe.lit ?_ rfl rfl rfl rfl)

theorem State.imgSend_safe (s : State) (hS : s.Safe lf lg cq) :
    ((State.imgSend s)).Safe lf lg cq := by
  unfold State.imgSend
  repeat' (first
    | with_reducible assumption
    | with_reducible apply State.chainSend_safe
    | with_reducible apply State.each_safe
    | with_reducible apply State.imgRefuse_safe
    | with_reducible apply State.imgResult_safe
    | with_reducible apply State.modModel_safe
    | with_reducible apply foldl_snd2_safe
    | with_reducible refine pair3_safe (by with_reducible assumption) ?_
    | with_reducible refine pair_safe (by with_reducible assumption) ?_
    | with_reducible apply foldl_safe
    | with_reducible apply foldl_snd_safe
    | intro _
    | split
    | dsimp only
    | refine State.Safe.lit ?_ rfl rfl rfl rfl)

theorem State.rxJudge_safe (s : State) (m : Nat) (idx : Nat) (version : Nat) (ok : Bool) (bad : Option (Nat × Nat)) (hS : s.Safe lf lg cq) :
    ((State.rxJudge s m idx version ok bad)).Safe lf lg cq := by
  unfold State.rxJudge
  repeat' (first
    | with_reducible assumption
    | with_reducible apply State.imgRaise_safe
    | with_reducible apply State.reportBad_safe
    | with_reducible apply State.modModel_safe
    | with_reducible apply foldl_snd2_safe
    | with_reducible refine pair3_safe (by with_reducible assumption) ?_
    | with_reducible refine pair_safe (by with_reducible assumption) ?_
    | with_reducible apply foldl_safe
    | with_reducible apply foldl_snd_safe
    | intro _
    | split
    | dsimp only
    | refine State.Safe.lit ?_ rfl rfl rfl rfl)

theorem State.rxVerify_safe (s : State) (m : Nat) (version : Nat) (o : Nat) (n : Nat) (hS : s.Safe lf lg cq) :
    ((State.rxVerify s m version o n)).Safe lf lg cq := by
  unfold State.rxVerify
  repeat' (first
    | with_reducible assumption
    | with_reducible apply State.imgStaged_safe
    | with_reducible apply State.each_safe
    | with_reducible apply State.modModel_safe
    | with_reducible apply State.rxJudge_safe
    | with_reducible apply foldl_snd2_safe
    | with_reducible refine pair3_safe (by with_reducible assumption) ?_
    | with_reducible refine pair_safe (by with_reducible assumption) ?_
    | with_reducible apply foldl_safe
    | with_reducible apply foldl_snd_safe
    | intro _
    | split
    | dsimp only
    | refine State.Safe.lit ?_ rfl rfl rfl rfl)

theorem State.imgSegment_safe (s : State) (peer : Nat) (hS : s.Safe lf lg cq) :
    ((State.imgSegment s peer)).Safe lf lg cq := by
  unfold State.imgSegment
  repeat' (first
    | with_reducible assumption
    | with_reducible apply State.tookMsg_safe
    | with_reducible apply State.chainSend_safe
    | with_reducible apply State.rxVerify_safe
    | with_reducible apply State.imgRaise_safe
    | with_reducible apply State.each_safe
    | with_reducible apply State.putBlock_safe
    | with_reducible apply State.modModel_safe
    | with_reducible apply foldl_snd2_safe
    | with_reducible refine pair3_safe (by with_reducible assumption) ?_
    | with_reducible refine pair_safe (by with_reducible assumption) ?_
    | with_reducible apply foldl_safe
    | with_reducible apply foldl_snd_safe
    | intro _
    | split
    | dsimp only
    | refine State.Safe.lit ?_ rfl rfl rfl rfl)

end Sys2Proof.Machine
end

