-- ==== Sys2Proof/Laws/Safe/SpareOps.lean ====
section
/-! SUPPORT. One lemma for each operation of `Machine/SpareOps.lean` that answers a state: it keeps `State.Safe` (the primed form says
the same of an answer that is known by an equation). -/

namespace Sys2Proof.Machine
open Sys2Proof
variable {lf lg : Nat} {cq : List Instr}

theorem State.storeNow_safe (s : State) (page : Nat) (hS : s.Safe lf lg cq) :
    ((State.storeNow s page)).Safe lf lg cq := by
  unfold State.storeNow
  repeat' (first
    | with_reducible assumption
    | with_reducible apply State.touch_safe
    | with_reducible apply State.storePage_safe
    | with_reducible apply foldl_snd2_safe
    | with_reducible refine pair3_safe (by with_reducible assumption) ?_
    | with_reducible refine pair_safe (by with_reducible assumption) ?_
    | with_reducible apply foldl_safe
    | with_reducible apply foldl_snd_safe
    | intro _
    | split
    | dsimp only
    | refine State.Safe.lit ?_ rfl rfl rfl rfl)

theorem State.faultCount_safe (s : State) (perm : Bool) (hS : s.Safe lf lg cq) :
    ((State.faultCount s perm)).Safe lf lg cq := by
  unfold State.faultCount
  repeat' (first
    | with_reducible assumption
    | with_reducible apply State.wr_safe
    | with_reducible apply foldl_snd2_safe
    | with_reducible refine pair3_safe (by with_reducible assumption) ?_
    | with_reducible refine pair_safe (by with_reducible assumption) ?_
    | with_reducible apply foldl_safe
    | with_reducible apply foldl_snd_safe
    | intro _
    | split
    | dsimp only
    | refine State.Safe.lit ?_ rfl rfl rfl rfl)

theorem State.noSpareFor_safe (s : State) (c : Nat) (l : Nat) (slot : Nat) (hS : s.Safe lf lg cq) :
    ((State.noSpareFor s c l slot)).Safe lf lg cq := by
  unfold State.noSpareFor
  repeat' (first
    | with_reducible assumption
    | with_reducible apply State.raise_safe
    | with_reducible apply State.flag_safe
    | with_reducible apply foldl_snd2_safe
    | with_reducible refine pair3_safe (by with_reducible assumption) ?_
    | with_reducible refine pair_safe (by with_reducible assumption) ?_
    | with_reducible apply foldl_safe
    | with_reducible apply foldl_snd_safe
    | intro _
    | split
    | dsimp only
    | refine State.Safe.lit ?_ rfl rfl rfl rfl)

theorem State.spareJobEnded_safe (s : State) (a : Nat) (hS : s.Safe lf lg cq) :
    ((State.spareJobEnded s a)).Safe lf lg cq := by
  unfold State.spareJobEnded
  repeat' (first
    | with_reducible assumption
    | with_reducible apply State.modCore_safe
    | with_reducible apply State.noSpareFor_safe
    | with_reducible apply foldl_snd2_safe
    | with_reducible refine pair3_safe (by with_reducible assumption) ?_
    | with_reducible refine pair_safe (by with_reducible assumption) ?_
    | with_reducible apply foldl_safe
    | with_reducible apply foldl_snd_safe
    | intro _
    | split
    | dsimp only
    | refine State.Safe.lit ?_ rfl rfl rfl rfl)

theorem State.permArr_safe (s : State) (c : Nat) (l : Nat) (mech : Nat) (pair : Nat) (exact : Bool) (row : Nat) (hS : s.Safe lf lg cq) :
    ((State.permArr s c l mech pair exact row)).Safe lf lg cq := by
  unfold State.permArr
  repeat' (first
    | with_reducible assumption
    | with_reducible apply State.raise_safe
    | with_reducible apply State.faultCount_safe
    | with_reducible apply foldl_snd2_safe
    | with_reducible refine pair3_safe (by with_reducible assumption) ?_
    | with_reducible refine pair_safe (by with_reducible assumption) ?_
    | with_reducible apply foldl_safe
    | with_reducible apply foldl_snd_safe
    | intro _
    | split
    | dsimp only
    | refine State.Safe.lit ?_ rfl rfl rfl rfl)

theorem State.spareRefuse_safe (s : State) (c : Nat) (cause : Nat) (l : Nat) (hS : s.Safe lf lg cq) :
    ((State.spareRefuse s c cause l)).Safe lf lg cq := by
  unfold State.spareRefuse
  repeat' (first
    | with_reducible assumption
    | with_reducible apply State.modCore_safe
    | with_reducible apply State.raise_safe
    | with_reducible apply State.flag_safe
    | with_reducible apply foldl_snd2_safe
    | with_reducible refine pair3_safe (by with_reducible assumption) ?_
    | with_reducible refine pair_safe (by with_reducible assumption) ?_
    | with_reducible apply foldl_safe
    | with_reducible apply foldl_snd_safe
    | intro _
    | split
    | dsimp only
    | refine State.Safe.lit ?_ rfl rfl rfl rfl)

theorem State.spareCommit_safe (s : State) (c : Nat) (hS : s.Safe lf lg cq) :
    ((State.spareCommit s c)).Safe lf lg cq := by
  unfold State.spareCommit
  repeat' (first
    | with_reducible assumption
    | with_reducible apply State.modCore_safe
    | with_reducible apply State.spareRefuse_safe
    | with_reducible apply foldl_snd2_safe
    | with_reducible refine pair3_safe (by with_reducible assumption) ?_
    | with_reducible refine pair_safe (by with_reducible assumption) ?_
    | with_reducible apply foldl_safe
    | with_reducible apply foldl_snd_safe
    | intro _
    | split
    | dsimp only
    | refine State.Safe.lit ?_ rfl rfl rfl rfl)

theorem State.startTile_safe (s : State) (img : Image) (layer : Nat) (t : Nat) (e : GridEntry) (scope : Nat) (a : Nat) (resume : Bool) (rotation : Bool) (hS : s.Safe lf lg cq) :
    ((State.startTile s img layer t e scope a resume rotation)).Safe lf lg cq := by
  unfold State.startTile
  repeat' (first
    | with_reducible assumption
    | with_reducible apply State.wr_safe
    | with_reducible apply State.wf__safe
    | with_reducible apply State.suspendReplay_safe
    | with_reducible apply State.startJob_safe
    | with_reducible apply State.endJob_safe
    | with_reducible apply foldl_snd2_safe
    | with_reducible refine pair3_safe (by with_reducible assumption) ?_
    | with_reducible refine pair_safe (by with_reducible assumption) ?_
    | with_reducible apply foldl_safe
    | with_reducible apply foldl_snd_safe
    | intro _
    | split
    | dsimp only
    | refine State.Safe.lit ?_ rfl rfl rfl rfl)

theorem State.autoSpare_safe (s : State) (c : Nat) (l : Nat) (hS : s.Safe lf lg cq) :
    ((State.autoSpare s c l)).Safe lf lg cq := by
  unfold State.autoSpare
  repeat' (first
    | with_reducible assumption
    | with_reducible apply State.spareCommit_safe
    | with_reducible apply State.modCore_safe
    | with_reducible apply State.wr_safe
    | with_reducible apply State.startTile_safe
    | with_reducible apply foldl_snd2_safe
    | with_reducible refine pair3_safe (by with_reducible assumption) ?_
    | with_reducible refine pair_safe (by with_reducible assumption) ?_
    | with_reducible apply foldl_safe
    | with_reducible apply foldl_snd_safe
    | intro _
    | split
    | dsimp only
    | refine State.Safe.lit ?_ rfl rfl rfl rfl)

theorem State.unserve_safe (s : State) (c : Nat) (l : Nat) (hS : s.Safe lf lg cq) :
    ((State.unserve s c l)).Safe lf lg cq := by
  unfold State.unserve
  repeat' (first
    | with_reducible assumption
    | with_reducible apply State.modArr_safe
    | with_reducible apply State.calSuspend_safe
    | with_reducible apply State.storeArr_safe
    | with_reducible apply foldl_snd2_safe
    | with_reducible refine pair3_safe (by with_reducible assumption) ?_
    | with_reducible refine pair_safe (by with_reducible assumption) ?_
    | with_reducible apply foldl_safe
    | with_reducible apply foldl_snd_safe
    | intro _
    | split
    | dsimp only
    | refine State.Safe.lit ?_ rfl rfl rfl rfl)

theorem State.quarantine_safe (s : State) (c : Nat) (l : Nat) (hS : s.Safe lf lg cq) :
    ((State.quarantine s c l)).Safe lf lg cq := by
  unfold State.quarantine
  repeat' (first
    | with_reducible assumption
    | with_reducible apply State.modCore_safe
    | with_reducible apply State.noSpareFor_safe
    | with_reducible apply State.raise_safe
    | with_reducible apply State.flag_safe
    | with_reducible apply State.autoSpare_safe
    | with_reducible apply State.unserve_safe
    | with_reducible apply foldl_snd2_safe
    | with_reducible refine pair3_safe (by with_reducible assumption) ?_
    | with_reducible refine pair_safe (by with_reducible assumption) ?_
    | with_reducible apply foldl_safe
    | with_reducible apply foldl_snd_safe
    | intro _
    | split
    | dsimp only
    | refine State.Safe.lit ?_ rfl rfl rfl rfl)

theorem State.transient_safe (s : State) (c : Nat) (l : Nat) (mech : Nat) (hS : s.Safe lf lg cq) :
    ((State.transient s c l mech)).Safe lf lg cq := by
  unfold State.transient
  repeat' (first
    | with_reducible assumption
    | with_reducible apply State.raise_safe
    | with_reducible apply State.faultCount_safe
    | with_reducible apply foldl_snd2_safe
    | with_reducible refine pair3_safe (by with_reducible assumption) ?_
    | with_reducible refine pair_safe (by with_reducible assumption) ?_
    | with_reducible apply foldl_safe
    | with_reducible apply foldl_snd_safe
    | intro _
    | split
    | dsimp only
    | refine State.Safe.lit ?_ rfl rfl rfl rfl)

theorem State.substitute_safe (s : State) (c : Nat) (l : Nat) (hS : s.Safe lf lg cq) :
    ((State.substitute s c l)).Safe lf lg cq := by
  unfold State.substitute
  repeat' (first
    | with_reducible assumption
    | with_reducible apply State.calSubstitute_safe
    | with_reducible apply State.modArr_safe
    | with_reducible apply State.modCore_safe
    | with_reducible apply State.calReload_safe
    | with_reducible apply State.noSpareFor_safe
    | with_reducible apply State.each_safe
    | with_reducible apply State.storeNow_safe
    | with_reducible apply State.degrade_safe
    | with_reducible apply State.storeArr_safe
    | with_reducible apply foldl_snd2_safe
    | with_reducible refine pair3_safe (by with_reducible assumption) ?_
    | with_reducible refine pair_safe (by with_reducible assumption) ?_
    | with_reducible apply foldl_safe
    | with_reducible apply foldl_snd_safe
    | intro _
    | split
    | dsimp only
    | refine State.Safe.lit ?_ rfl rfl rfl rfl)

theorem State.serve_safe (s : State) (c : Nat) (l : Nat) (hS : s.Safe lf lg cq) :
    ((State.serve s c l)).Safe lf lg cq := by
  unfold State.serve
  repeat' (first
    | with_reducible assumption
    | with_reducible apply State.modArr_safe
    | with_reducible apply State.storeArr_safe
    | with_reducible apply foldl_snd2_safe
    | with_reducible refine pair3_safe (by with_reducible assumption) ?_
    | with_reducible refine pair_safe (by with_reducible assumption) ?_
    | with_reducible apply foldl_safe
    | with_reducible apply foldl_snd_safe
    | intro _
    | split
    | dsimp only
    | refine State.Safe.lit ?_ rfl rfl rfl rfl)

theorem State.autoAgain_safe (s : State) (hS : s.Safe lf lg cq) :
    ((State.autoAgain s)).Safe lf lg cq := by
  unfold State.autoAgain
  repeat' (first
    | with_reducible assumption
    | with_reducible apply State.each_safe
    | with_reducible apply State.autoSpare_safe
    | with_reducible apply foldl_snd2_safe
    | with_reducible refine pair3_safe (by with_reducible assumption) ?_
    | with_reducible refine pair_safe (by with_reducible assumption) ?_
    | with_reducible apply foldl_safe
    | with_reducible apply foldl_snd_safe
    | intro _
    | split
    | dsimp only
    | refine State.Safe.lit ?_ rfl rfl rfl rfl)

theorem State.rotate_safe (s : State) (c : Nat) (l : Nat) (hS : s.Safe lf lg cq) :
    ((State.rotate s c l)).Safe lf lg cq := by
  unfold State.rotate
  repeat' (first
    | with_reducible assumption
    | with_reducible apply State.modCore_safe
    | with_reducible apply State.startTile_safe
    | with_reducible apply foldl_snd2_safe
    | with_reducible refine pair3_safe (by with_reducible assumption) ?_
    | with_reducible refine pair_safe (by with_reducible assumption) ?_
    | with_reducible apply foldl_safe
    | with_reducible apply foldl_snd_safe
    | intro _
    | split
    | dsimp only
    | refine State.Safe.lit ?_ rfl rfl rfl rfl)

theorem State.rotateNext_safe (s : State) (c : Nat) (hS : s.Safe lf lg cq) :
    ((State.rotateNext s c)).Safe lf lg cq := by
  unfold State.rotateNext
  repeat' (first
    | with_reducible assumption
    | with_reducible apply State.modCore_safe
    | with_reducible apply State.rotate_safe
    | with_reducible apply foldl_snd2_safe
    | with_reducible refine pair3_safe (by with_reducible assumption) ?_
    | with_reducible refine pair_safe (by with_reducible assumption) ?_
    | with_reducible apply foldl_safe
    | with_reducible apply foldl_snd_safe
    | intro _
    | split
    | dsimp only
    | refine State.Safe.lit ?_ rfl rfl rfl rfl)

theorem State.releaseRefuse_safe (s : State) (c : Nat) (hS : s.Safe lf lg cq) :
    ((State.releaseRefuse s c)).Safe lf lg cq := by
  unfold State.releaseRefuse
  repeat' (first
    | with_reducible assumption
    | with_reducible apply State.fresh_safe
    | with_reducible refine State.fresh_safe' (by with_reducible assumption) ?_
    | with_reducible apply State.spareRefuse_safe
    | with_reducible apply foldl_snd2_safe
    | with_reducible refine pair3_safe (by with_reducible assumption) ?_
    | with_reducible refine pair_safe (by with_reducible assumption) ?_
    | with_reducible apply foldl_safe
    | with_reducible apply foldl_snd_safe
    | intro _
    | split
    | dsimp only
    | refine State.Safe.lit ?_ rfl rfl rfl rfl)

theorem State.spareRelease_safe (s : State) (c : Nat) (hS : s.Safe lf lg cq) :
    ((State.spareRelease s c)).Safe lf lg cq := by
  unfold State.spareRelease
  repeat' (first
    | with_reducible assumption
    | with_reducible apply State.rotateNext_safe
    | with_reducible apply State.modCore_safe
    | with_reducible apply State.storeNow_safe
    | with_reducible apply State.degrade_safe
    | with_reducible apply State.releaseRefuse_safe
    | with_reducible apply foldl_snd2_safe
    | with_reducible refine pair3_safe (by with_reducible assumption) ?_
    | with_reducible refine pair_safe (by with_reducible assumption) ?_
    | with_reducible apply foldl_safe
    | with_reducible apply foldl_snd_safe
    | intro _
    | split
    | dsimp only
    | refine State.Safe.lit ?_ rfl rfl rfl rfl)

theorem State.spareEffect_safe (s : State) (c : Nat) (hS : s.Safe lf lg cq) :
    ((State.spareEffect s c)).Safe lf lg cq := by
  unfold State.spareEffect
  repeat' (first
    | with_reducible assumption
    | with_reducible apply State.substitute_safe
    | with_reducible apply foldl_snd2_safe
    | with_reducible refine pair3_safe (by with_reducible assumption) ?_
    | with_reducible refine pair_safe (by with_reducible assumption) ?_
    | with_reducible apply foldl_safe
    | with_reducible apply foldl_snd_safe
    | intro _
    | split
    | dsimp only
    | refine State.Safe.lit ?_ rfl rfl rfl rfl)

theorem State.rotateTick_safe (s : State) (c : Nat) (hS : s.Safe lf lg cq) :
    ((State.rotateTick s c)).Safe lf lg cq := by
  unfold State.rotateTick
  repeat' (first
    | with_reducible assumption
    | with_reducible apply State.rotateNext_safe
    | with_reducible apply foldl_snd2_safe
    | with_reducible refine pair3_safe (by with_reducible assumption) ?_
    | with_reducible refine pair_safe (by with_reducible assumption) ?_
    | with_reducible apply foldl_safe
    | with_reducible apply foldl_snd_safe
    | intro _
    | split
    | dsimp only
    | refine State.Safe.lit ?_ rfl rfl rfl rfl)

end Sys2Proof.Machine
end

