-- ==== Sys2Proof/Laws/Safe/LockOps.lean ====
section
/-! SUPPORT. One lemma for each operation of `Machine/LockOps.lean` that answers a state: it keeps `State.Safe` (the primed form says
the same of an answer that is known by an equation). -/

namespace Sys2Proof.Machine
open Sys2Proof
variable {lf lg : Nat} {cq : List Instr}

theorem State.openResult_safe (s : State) (c : Nat) (sl : Nat) (cause : Nat) (hS : s.Safe lf lg cq) :
    ((State.openResult s c sl cause)).Safe lf lg cq := by
  unfold State.openResult
  repeat' (first
    | with_reducible assumption
    | with_reducible apply State.modCore_safe
    | with_reducible apply State.wr_safe
    | with_reducible apply foldl_snd2_safe
    | with_reducible refine pair3_safe (by with_reducible assumption) ?_
    | with_reducible refine pair_safe (by with_reducible assumption) ?_
    | with_reducible apply foldl_safe
    | with_reducible apply foldl_snd_safe
    | intro _
    | split
    | dsimp only
    | refine State.Safe.lit ?_ rfl rfl rfl rfl)

theorem State.lockStore_safe (s : State) (hS : s.Safe lf lg cq) :
    ((State.lockStore s)).Safe lf lg cq := by
  unfold State.lockStore
  repeat' (first
    | with_reducible assumption
    | with_reducible apply State.storeNow_safe
    | with_reducible apply foldl_snd2_safe
    | with_reducible refine pair3_safe (by with_reducible assumption) ?_
    | with_reducible refine pair_safe (by with_reducible assumption) ?_
    | with_reducible apply foldl_safe
    | with_reducible apply foldl_snd_safe
    | intro _
    | split
    | dsimp only
    | refine State.Safe.lit ?_ rfl rfl rfl rfl)

theorem State.imgReleaseHold_safe (s : State) (hS : s.Safe lf lg cq) :
    ((State.imgReleaseHold s)).Safe lf lg cq := by
  unfold State.imgReleaseHold
  repeat' (first
    | with_reducible assumption
    | with_reducible apply State.lockStore_safe
    | with_reducible apply State.imgResult_safe
    | with_reducible apply State.modModel_safe
    | with_reducible apply foldl_snd2_safe
    | with_reducible refine pair3_safe (by with_reducible assumption) ?_
    | with_reducible refine pair_safe (by with_reducible assumption) ?_
    | with_reducible apply foldl_safe
    | with_reducible apply foldl_snd_safe
    | intro _
    | split
    | dsimp only
    | refine State.Safe.lit ?_ rfl rfl rfl rfl)

theorem State.openBad_safe (s : State) (a : Nat) (cause : Nat) (hS : s.Safe lf lg cq) :
    ((State.openBad s a cause).2).Safe lf lg cq := by
  unfold State.openBad
  repeat' (first
    | with_reducible assumption
    | with_reducible apply State.modArr_safe
    | with_reducible apply State.openFail_safe
    | with_reducible apply foldl_snd2_safe
    | with_reducible refine pair3_safe (by with_reducible assumption) ?_
    | with_reducible refine pair_safe (by with_reducible assumption) ?_
    | with_reducible apply foldl_safe
    | with_reducible apply foldl_snd_safe
    | intro _
    | split
    | dsimp only
    | refine State.Safe.lit ?_ rfl rfl rfl rfl)

theorem State.openBad_safe' {s : State} {a : Nat} {cause : Nat} {y0 t} (eqn : (State.openBad s a cause) = (y0, t)) (hS : s.Safe lf lg cq)  : t.Safe lf lg cq := by
  have := State.openBad_safe s a cause hS
  rw [eqn] at this; exact this

theorem State.openRun_safe (s : State) (img : Image) (layer : Nat) (t : Nat) (a : Nat) (cm : CalCodes) (hS : s.Safe lf lg cq) :
    ((State.openRun s img layer t a cm).2).Safe lf lg cq := by
  unfold State.openRun
  split
  · exact State.openBad_safe _ _ _ hS
  · extract_lets fb s0 s1 x cause
    have h0 : s0.Safe lf lg cq := State.count_safe _ _ _ _ hS
    clear_value s0
    split
    · exact State.openBad_safe _ _ _ h0
    · have h1 : s1.Safe lf lg cq := State.nullSwap_safe _ _ _ _ h0
      clear_value s1 cause
      split
      · exact State.openBad_safe _ _ _ h1
      split
      dsimp only
      exact State.modArr_safe (s1.setFactors a _ _ false) _ _ (State.setFactors_safe _ _ _ _ _ h1)

theorem State.openRun_safe' {s : State} {img : Image} {layer : Nat} {t : Nat} {a : Nat} {cm : CalCodes} {y0 u} (eqn : (State.openRun s img layer t a cm) = (y0, u)) (hS : s.Safe lf lg cq)  : u.Safe lf lg cq := by
  have := State.openRun_safe s img layer t a cm hS
  rw [eqn] at this; exact this

theorem State.modLock_safe (s : State) (m : Nat) (p : Nat) (f : PoundLock → PoundLock) (hS : s.Safe lf lg cq) :
    ((State.modLock s m p f)).Safe lf lg cq := by
  unfold State.modLock
  repeat' (first
    | with_reducible assumption
    | with_reducible apply State.modModel_safe
    | with_reducible apply foldl_snd2_safe
    | with_reducible refine pair3_safe (by with_reducible assumption) ?_
    | with_reducible refine pair_safe (by with_reducible assumption) ?_
    | with_reducible apply foldl_safe
    | with_reducible apply foldl_snd_safe
    | intro _
    | split
    | dsimp only
    | refine State.Safe.lit ?_ rfl rfl rfl rfl)

theorem State.stallPound_safe (s : State) (m : Nat) (p : Nat) (c : Nat) (l : Nat) (hS : s.Safe lf lg cq) :
    ((State.stallPound s m p c l)).Safe lf lg cq := by
  unfold State.stallPound
  repeat' (first
    | with_reducible assumption
    | with_reducible apply State.lockStore_safe
    | with_reducible apply State.imgRaise_safe
    | with_reducible apply State.modLock_safe
    | with_reducible apply State.modModel_safe
    | with_reducible apply foldl_snd2_safe
    | with_reducible refine pair3_safe (by with_reducible assumption) ?_
    | with_reducible refine pair_safe (by with_reducible assumption) ?_
    | with_reducible apply foldl_safe
    | with_reducible apply foldl_snd_safe
    | intro _
    | split
    | dsimp only
    | refine State.Safe.lit ?_ rfl rfl rfl rfl)

theorem State.fillFailed_safe (s : State) (m : Nat) (p : Nat) (c : Nat) (l : Nat) (hS : s.Safe lf lg cq) :
    ((State.fillFailed s m p c l)).Safe lf lg cq := by
  unfold State.fillFailed
  repeat' (first
    | with_reducible assumption
    | with_reducible apply State.stallPound_safe
    | with_reducible apply State.modCore_safe
    | with_reducible apply State.modLock_safe
    | with_reducible apply State.startTile_safe
    | with_reducible apply foldl_snd2_safe
    | with_reducible refine pair3_safe (by with_reducible assumption) ?_
    | with_reducible refine pair_safe (by with_reducible assumption) ?_
    | with_reducible apply foldl_safe
    | with_reducible apply foldl_snd_safe
    | intro _
    | split
    | dsimp only
    | refine State.Safe.lit ?_ rfl rfl rfl rfl)

theorem State.loadBounds_safe (s : State) (img : Image) (ref : Bool) (tl : Tile) (hS : s.Safe lf lg cq) :
    ((State.loadBounds s img ref tl)).Safe lf lg cq := by
  unfold State.loadBounds
  repeat' (first
    | with_reducible assumption
    | with_reducible apply State.modCore_safe
    | with_reducible apply foldl_snd2_safe
    | with_reducible refine pair3_safe (by with_reducible assumption) ?_
    | with_reducible refine pair_safe (by with_reducible assumption) ?_
    | with_reducible apply foldl_safe
    | with_reducible apply foldl_snd_safe
    | intro _
    | split
    | dsimp only
    | refine State.Safe.lit ?_ rfl rfl rfl rfl)

theorem State.lockAdvance_safe (s : State) (m : Nat) (hS : s.Safe lf lg cq) :
    ((State.lockAdvance s m)).Safe lf lg cq := by
  unfold State.lockAdvance
  repeat' (first
    | with_reducible assumption
    | with_reducible apply State.lockStore_safe
    | with_reducible apply State.imgRaise_safe
    | with_reducible apply State.modModel_safe
    | with_reducible apply foldl_snd2_safe
    | with_reducible refine pair3_safe (by with_reducible assumption) ?_
    | with_reducible refine pair_safe (by with_reducible assumption) ?_
    | with_reducible apply foldl_safe
    | with_reducible apply foldl_snd_safe
    | intro _
    | split
    | dsimp only
    | refine State.Safe.lit ?_ rfl rfl rfl rfl)

theorem State.openPound_safe (s : State) (m : Nat) (p : Nat) (hS : s.Safe lf lg cq) :
    ((State.openPound s m p)).Safe lf lg cq := by
  unfold State.openPound
  repeat' (first
    | with_reducible assumption
    | with_reducible apply State.loadBounds_safe
    | with_reducible apply State.serve_safe
    | with_reducible apply State.lockStore_safe
    | with_reducible apply State.lockAdvance_safe
    | with_reducible apply State.calReload_safe
    | with_reducible apply State.imgRaise_safe
    | with_reducible apply State.calBegin_safe
    | with_reducible apply State.each_safe
    | with_reducible apply State.modLock_safe
    | with_reducible apply State.substitute_safe
    | with_reducible apply foldl_snd2_safe
    | with_reducible refine pair3_safe (by with_reducible assumption) ?_
    | with_reducible refine pair_safe (by with_reducible assumption) ?_
    | with_reducible apply foldl_safe
    | with_reducible apply foldl_snd_safe
    | intro _
    | split
    | dsimp only
    | refine State.Safe.lit ?_ rfl rfl rfl rfl)

theorem State.imgInstall_safe (s : State) (hS : s.Safe lf lg cq) :
    ((State.imgInstall s)).Safe lf lg cq := by
  unfold State.imgInstall
  repeat' (first
    | with_reducible assumption
    | with_reducible apply State.fillFailed_safe
    | with_reducible apply State.lockStore_safe
    | with_reducible apply State.openPound_safe
    | with_reducible apply State.each_safe
    | with_reducible apply State.imgRefuse_safe
    | with_reducible apply State.modLock_safe
    | with_reducible apply State.imgResult_safe
    | with_reducible apply State.modModel_safe
    | with_reducible apply State.startTile_safe
    | with_reducible apply foldl_snd2_safe
    | with_reducible refine pair3_safe (by with_reducible assumption) ?_
    | with_reducible refine pair_safe (by with_reducible assumption) ?_
    | with_reducible apply foldl_safe
    | with_reducible apply foldl_snd_safe
    | intro _
    | split
    | dsimp only
    | refine State.Safe.lit ?_ rfl rfl rfl rfl)

theorem State.fillPound_safe (s : State) (m : Nat) (p : Nat) (scope : Nat) (tiles : List Tile) (resume : Bool) (hS : s.Safe lf lg cq) :
    ((State.fillPound s m p scope tiles resume)).Safe lf lg cq := by
  unfold State.fillPound
  repeat' (first
    | with_reducible assumption
    | with_reducible apply State.fillFailed_safe
    | with_reducible apply State.lockStore_safe
    | with_reducible apply State.openPound_safe
    | with_reducible apply State.each_safe
    | with_reducible apply State.modLock_safe
    | with_reducible apply State.startTile_safe
    | with_reducible apply State.unserve_safe
    | with_reducible apply foldl_snd2_safe
    | with_reducible refine pair3_safe (by with_reducible assumption) ?_
    | with_reducible refine pair_safe (by with_reducible assumption) ?_
    | with_reducible apply foldl_safe
    | with_reducible apply foldl_snd_safe
    | intro _
    | split
    | dsimp only
    | refine State.Safe.lit ?_ rfl rfl rfl rfl)

theorem State.leaveV_safe (s : State) (m : Nat) (q : PoundLock) (img : Image) (resume : Bool) (hS : s.Safe lf lg cq) :
    ((State.leaveV s m q img resume)).Safe lf lg cq := by
  unfold State.leaveV
  repeat' (first
    | with_reducible assumption
    | with_reducible apply State.lockStore_safe
    | with_reducible apply State.lockAdvance_safe
    | with_reducible apply State.imgRaise_safe
    | with_reducible apply State.fillPound_safe
    | with_reducible apply State.each_safe
    | with_reducible apply State.modLock_safe
    | with_reducible apply State.unserve_safe
    | with_reducible apply foldl_snd2_safe
    | with_reducible refine pair3_safe (by with_reducible assumption) ?_
    | with_reducible refine pair_safe (by with_reducible assumption) ?_
    | with_reducible apply foldl_safe
    | with_reducible apply foldl_snd_safe
    | intro _
    | split
    | dsimp only
    | refine State.Safe.lit ?_ rfl rfl rfl rfl)

theorem State.imgRetry_safe (s : State) (hS : s.Safe lf lg cq) :
    ((State.imgRetry s)).Safe lf lg cq := by
  unfold State.imgRetry
  repeat' (first
    | with_reducible assumption
    | with_reducible apply State.fillFailed_safe
    | with_reducible apply State.lockStore_safe
    | with_reducible apply State.lockAdvance_safe
    | with_reducible apply State.fillPound_safe
    | with_reducible apply State.each_safe
    | with_reducible apply State.modLock_safe
    | with_reducible apply State.leaveV_safe
    | with_reducible apply State.imgResult_safe
    | with_reducible apply State.modModel_safe
    | with_reducible apply State.startTile_safe
    | with_reducible apply foldl_snd2_safe
    | with_reducible refine pair3_safe (by with_reducible assumption) ?_
    | with_reducible refine pair_safe (by with_reducible assumption) ?_
    | with_reducible apply foldl_safe
    | with_reducible apply foldl_snd_safe
    | intro _
    | split
    | dsimp only
    | refine State.Safe.lit ?_ rfl rfl rfl rfl)

theorem State.closePounds_safe (s : State) (m : Nat) (who : PoundLock → Bool) (hS : s.Safe lf lg cq) :
    ((State.closePounds s m who)).Safe lf lg cq := by
  unfold State.closePounds
  repeat' (first
    | with_reducible assumption
    | with_reducible apply State.modModel_safe
    | with_reducible apply foldl_snd2_safe
    | with_reducible refine pair3_safe (by with_reducible assumption) ?_
    | with_reducible refine pair_safe (by with_reducible assumption) ?_
    | with_reducible apply foldl_safe
    | with_reducible apply foldl_snd_safe
    | intro _
    | split
    | dsimp only
    | refine State.Safe.lit ?_ rfl rfl rfl rfl)

theorem State.imgLoadSet_safe (s : State) (set : Nat) (hS : s.Safe lf lg cq) :
    ((State.imgLoadSet s set)).Safe lf lg cq := by
  unfold State.imgLoadSet
  repeat' (first
    | with_reducible assumption
    | with_reducible apply State.lockStore_safe
    | with_reducible apply State.closePounds_safe
    | with_reducible apply State.imgResult_safe
    | with_reducible apply State.modModel_safe
    | with_reducible apply foldl_snd2_safe
    | with_reducible refine pair3_safe (by with_reducible assumption) ?_
    | with_reducible refine pair_safe (by with_reducible assumption) ?_
    | with_reducible apply foldl_safe
    | with_reducible apply foldl_snd_safe
    | intro _
    | split
    | dsimp only
    | refine State.Safe.lit ?_ rfl rfl rfl rfl)

theorem State.imgRestage_safe (s : State) (hS : s.Safe lf lg cq) :
    ((State.imgRestage s)).Safe lf lg cq := by
  unfold State.imgRestage
  repeat' (first
    | with_reducible assumption
    | with_reducible apply State.imgRefuse_safe
    | with_reducible apply State.autoAgain_safe
    | with_reducible apply State.imgResult_safe
    | with_reducible apply State.modModel_safe
    | with_reducible apply foldl_snd2_safe
    | with_reducible refine pair3_safe (by with_reducible assumption) ?_
    | with_reducible refine pair_safe (by with_reducible assumption) ?_
    | with_reducible apply foldl_safe
    | with_reducible apply foldl_snd_safe
    | intro _
    | split
    | dsimp only
    | refine State.Safe.lit ?_ rfl rfl rfl rfl)

theorem State.imgLock_safe (s : State) (hold : Bool) (hS : s.Safe lf lg cq) :
    ((State.imgLock s hold)).Safe lf lg cq := by
  unfold State.imgLock
  repeat' (first
    | with_reducible assumption
    | with_reducible apply State.lockStore_safe
    | with_reducible apply State.imgRaise_safe
    | with_reducible apply State.closePounds_safe
    | with_reducible apply State.imgRefuse_safe
    | with_reducible apply State.imgResult_safe
    | with_reducible apply State.modModel_safe
    | with_reducible apply foldl_snd2_safe
    | with_reducible refine pair3_safe (by with_reducible assumption) ?_
    | with_reducible refine pair_safe (by with_reducible assumption) ?_
    | with_reducible apply foldl_safe
    | with_reducible apply foldl_snd_safe
    | intro _
    | split
    | dsimp only
    | refine State.Safe.lit ?_ rfl rfl rfl rfl)

theorem State.jobEnded_safe (s : State) (a : Nat) (hS : s.Safe lf lg cq) :
    ((State.jobEnded s a)).Safe lf lg cq := by
  unfold State.jobEnded
  repeat' (first
    | with_reducible assumption
    | with_reducible apply State.spareJobEnded_safe
    | with_reducible apply State.fillFailed_safe
    | with_reducible apply State.stallPound_safe
    | with_reducible apply State.modLock_safe
    | with_reducible apply foldl_snd2_safe
    | with_reducible refine pair3_safe (by with_reducible assumption) ?_
    | with_reducible refine pair_safe (by with_reducible assumption) ?_
    | with_reducible apply foldl_safe
    | with_reducible apply foldl_snd_safe
    | intro _
    | split
    | dsimp only
    | refine State.Safe.lit ?_ rfl rfl rfl rfl)

theorem State.onJob_safe (s : State) (a : Nat) (f : State → State) (hS : s.Safe lf lg cq) (hff : ∀ x0, x0.Safe lf lg cq → (f x0).Safe lf lg cq) :
    ((State.onJob s a f)).Safe lf lg cq := by
  unfold State.onJob
  repeat' (first
    | with_reducible assumption
    | with_reducible apply State.jobEnded_safe
    | with_reducible apply hff
    | with_reducible apply foldl_snd2_safe
    | with_reducible refine pair3_safe (by with_reducible assumption) ?_
    | with_reducible refine pair_safe (by with_reducible assumption) ?_
    | with_reducible apply foldl_safe
    | with_reducible apply foldl_snd_safe
    | intro _
    | split
    | dsimp only
    | refine State.Safe.lit ?_ rfl rfl rfl rfl)

theorem State.calOpenCmd_safe (s : State) (c : Nat) (sl : Nat) (hS : s.Safe lf lg cq) :
    ((State.calOpenCmd s c sl)).Safe lf lg cq := by
  unfold State.calOpenCmd
  repeat' (first
    | with_reducible assumption
    | with_reducible apply State.modCore_safe
    | with_reducible apply State.wr_safe
    | with_reducible apply State.openResult_safe
    | with_reducible apply State.openFail_safe
    | with_reducible apply foldl_snd2_safe
    | with_reducible refine pair3_safe (by with_reducible assumption) ?_
    | with_reducible refine pair_safe (by with_reducible assumption) ?_
    | with_reducible apply foldl_safe
    | with_reducible apply foldl_snd_safe
    | intro _
    | split
    | dsimp only
    | refine State.Safe.lit ?_ rfl rfl rfl rfl)

theorem State.fillCal_safe (s : State) (m : Nat) (q : PoundLock) (c : Nat) (l : Nat) (a : Nat) (cm : CalCodes) (hS : s.Safe lf lg cq) :
    ((State.fillCal s m q c l a cm)).Safe lf lg cq := by
  unfold State.fillCal
  repeat' (first
    | with_reducible assumption
    | with_reducible apply State.fillFailed_safe
    | with_reducible apply State.stallPound_safe
    | with_reducible apply State.openPound_safe
    | with_reducible apply State.modLock_safe
    | with_reducible apply State.openRun_safe
    | with_reducible refine State.openRun_safe' (by with_reducible assumption) ?_
    | with_reducible apply foldl_snd2_safe
    | with_reducible refine pair3_safe (by with_reducible assumption) ?_
    | with_reducible refine pair_safe (by with_reducible assumption) ?_
    | with_reducible apply foldl_safe
    | with_reducible apply foldl_snd_safe
    | intro _
    | split
    | dsimp only
    | refine State.Safe.lit ?_ rfl rfl rfl rfl)

theorem State.spareCal_safe (s : State) (c : Nat) (l : Nat) (auto : Bool) (cm : CalCodes) (hS : s.Safe lf lg cq) :
    ((State.spareCal s c l auto cm)).Safe lf lg cq := by
  unfold State.spareCal
  repeat' (first
    | with_reducible assumption
    | with_reducible apply State.spareCommit_safe
    | with_reducible apply State.modCore_safe
    | with_reducible apply State.noSpareFor_safe
    | with_reducible apply State.openRun_safe
    | with_reducible refine State.openRun_safe' (by with_reducible assumption) ?_
    | with_reducible apply foldl_snd2_safe
    | with_reducible refine pair3_safe (by with_reducible assumption) ?_
    | with_reducible refine pair_safe (by with_reducible assumption) ?_
    | with_reducible apply foldl_safe
    | with_reducible apply foldl_snd_safe
    | intro _
    | split
    | dsimp only
    | refine State.Safe.lit ?_ rfl rfl rfl rfl)

theorem State.openingDone_safe (s : State) (c : Nat) (sl : Nat) (cm : CalCodes) (hS : s.Safe lf lg cq) :
    ((State.openingDone s c sl cm)).Safe lf lg cq := by
  unfold State.openingDone
  repeat' (first
    | with_reducible assumption
    | with_reducible apply State.spareCal_safe
    | with_reducible apply State.fillCal_safe
    | with_reducible apply State.openResult_safe
    | with_reducible apply State.openFail_safe
    | with_reducible apply State.openRun_safe
    | with_reducible refine State.openRun_safe' (by with_reducible assumption) ?_
    | with_reducible apply foldl_snd2_safe
    | with_reducible refine pair3_safe (by with_reducible assumption) ?_
    | with_reducible refine pair_safe (by with_reducible assumption) ?_
    | with_reducible apply foldl_safe
    | with_reducible apply foldl_snd_safe
    | intro _
    | split
    | dsimp only
    | refine State.Safe.lit ?_ rfl rfl rfl rfl)

theorem State.poundDrained_safe (s : State) (m : Nat) (p : Nat) (hS : s.Safe lf lg cq) :
    ((State.poundDrained s m p)).Safe lf lg cq := by
  unfold State.poundDrained
  repeat' (first
    | with_reducible assumption
    | with_reducible apply State.leaveV_safe
    | with_reducible apply foldl_snd2_safe
    | with_reducible refine pair3_safe (by with_reducible assumption) ?_
    | with_reducible refine pair_safe (by with_reducible assumption) ?_
    | with_reducible apply foldl_safe
    | with_reducible apply foldl_snd_safe
    | intro _
    | split
    | dsimp only
    | refine State.Safe.lit ?_ rfl rfl rfl rfl)

end Sys2Proof.Machine
end

