-- ==== Sys2Proof/Laws/Safe/Arrays.lean ====
section
/-! SUPPORT. One lemma for each operation of `Machine/Arrays.lean` that answers a state: it keeps `State.Safe` (the primed form says
the same of an answer that is known by an equation). -/

namespace Sys2Proof.Machine
open Sys2Proof
variable {lf lg : Nat} {cq : List Instr}

theorem execRefreshDeferredTimeout_safe (c : CoreId) (sl : SlotId) (s : State) (hS : s.Safe lf lg cq) :
    ∀ res, (execRefreshDeferredTimeout c sl s) = Host.Outcome.next res → (res).Safe lf lg cq := by
  intro res hv
  simp only [execRefreshDeferredTimeout, Host.Outcome.next.injEq] at hv
  subst hv
  repeat' (first
    | with_reducible assumption
    | with_reducible apply State.refreshDeferred_safe
    | with_reducible apply foldl_snd2_safe
    | with_reducible refine pair3_safe (by with_reducible assumption) ?_
    | with_reducible refine pair_safe (by with_reducible assumption) ?_
    | with_reducible apply foldl_safe
    | with_reducible apply foldl_snd_safe
    | intro _
    | split
    | dsimp only
    | refine State.Safe.lit ?_ rfl rfl rfl rfl)

theorem execRefreshDeferredTimeout_safe' {c : CoreId} {sl : SlotId} {s : State} {res} (eqn : (execRefreshDeferredTimeout c sl s) = Host.Outcome.next res) (hS : s.Safe lf lg cq)  :
    (res).Safe lf lg cq := execRefreshDeferredTimeout_safe c sl s hS res eqn

theorem execArrTrimCopy_safe (path : Path) (c : CoreId) (sl : SlotId) (swap : Bool) (s : State) (hS : s.Safe lf lg cq) :
    ∀ res, (execArrTrimCopy path c sl swap s) = Host.Outcome.next res → (res).Safe lf lg cq := by
  intro res hv
  simp only [execArrTrimCopy, Host.Outcome.next.injEq] at hv
  subst hv
  repeat' (first
    | with_reducible assumption
    | with_reducible apply State.trimSwap_safe
    | with_reducible apply State.trimCopy_safe
    | with_reducible apply State.asked_safe
    | with_reducible apply State.calDisturbed_safe
    | with_reducible apply foldl_snd2_safe
    | with_reducible refine pair3_safe (by with_reducible assumption) ?_
    | with_reducible refine pair_safe (by with_reducible assumption) ?_
    | with_reducible apply foldl_safe
    | with_reducible apply foldl_snd_safe
    | intro _
    | split
    | dsimp only
    | refine State.Safe.lit ?_ rfl rfl rfl rfl)

theorem execArrTrimCopy_safe' {path : Path} {c : CoreId} {sl : SlotId} {swap : Bool} {s : State} {res} (eqn : (execArrTrimCopy path c sl swap s) = Host.Outcome.next res) (hS : s.Safe lf lg cq)  :
    (res).Safe lf lg cq := execArrTrimCopy_safe path c sl swap s hS res eqn

theorem execArrPgmGo_safe (path : Path) (c : CoreId) (sl : SlotId) (s : State) (hS : s.Safe lf lg cq) :
    ∀ res, (execArrPgmGo path c sl s) = Host.Outcome.next res → (res).Safe lf lg cq := by
  intro res hv
  simp only [execArrPgmGo, Host.Outcome.next.injEq] at hv
  subst hv
  repeat' (first
    | with_reducible assumption
    | with_reducible apply State.asked_safe
    | with_reducible apply State.pgmGo_safe
    | with_reducible apply foldl_snd2_safe
    | with_reducible refine pair3_safe (by with_reducible assumption) ?_
    | with_reducible refine pair_safe (by with_reducible assumption) ?_
    | with_reducible apply foldl_safe
    | with_reducible apply foldl_snd_safe
    | intro _
    | split
    | dsimp only
    | refine State.Safe.lit ?_ rfl rfl rfl rfl)

theorem execArrPgmGo_safe' {path : Path} {c : CoreId} {sl : SlotId} {s : State} {res} (eqn : (execArrPgmGo path c sl s) = Host.Outcome.next res) (hS : s.Safe lf lg cq)  :
    (res).Safe lf lg cq := execArrPgmGo_safe path c sl s hS res eqn

theorem execArrMapWrite_safe (path : Path) (c : CoreId) (sl : SlotId) (col : Bool) (n : Fin 8) (v : Word) (s : State) (hS : s.Safe lf lg cq) :
    ∀ res, (execArrMapWrite path c sl col n v s) = Host.Outcome.next res → (res).Safe lf lg cq := by
  intro res hv
  simp only [execArrMapWrite, Host.Outcome.next.injEq] at hv
  subst hv
  repeat' (first
    | with_reducible assumption
    | with_reducible apply State.asked_safe
    | with_reducible apply State.mapWrite_safe
    | with_reducible apply State.ignored_safe
    | with_reducible apply foldl_snd2_safe
    | with_reducible refine pair3_safe (by with_reducible assumption) ?_
    | with_reducible refine pair_safe (by with_reducible assumption) ?_
    | with_reducible apply foldl_safe
    | with_reducible apply foldl_snd_safe
    | intro _
    | split
    | dsimp only
    | refine State.Safe.lit ?_ rfl rfl rfl rfl)

theorem execArrMapWrite_safe' {path : Path} {c : CoreId} {sl : SlotId} {col : Bool} {n : Fin 8} {v : Word} {s : State} {res} (eqn : (execArrMapWrite path c sl col n v s) = Host.Outcome.next res) (hS : s.Safe lf lg cq)  :
    (res).Safe lf lg cq := execArrMapWrite_safe path c sl col n v s hS res eqn

theorem execRepairBatchDone_safe (c : CoreId) (sl : SlotId) (stuck : List CellId) (s : State) (hS : s.Safe lf lg cq) :
    ∀ res, (execRepairBatchDone c sl stuck s) = Host.Outcome.next res → (res).Safe lf lg cq := by
  intro res hv
  simp only [execRepairBatchDone, Host.Outcome.next.injEq] at hv
  subst hv
  repeat' (first
    | with_reducible assumption
    | with_reducible apply State.onJob_safe
    | with_reducible apply State.repairDone_safe
    | with_reducible apply foldl_snd2_safe
    | with_reducible refine pair3_safe (by with_reducible assumption) ?_
    | with_reducible refine pair_safe (by with_reducible assumption) ?_
    | with_reducible apply foldl_safe
    | with_reducible apply foldl_snd_safe
    | intro _
    | split
    | dsimp only
    | refine State.Safe.lit ?_ rfl rfl rfl rfl)

theorem execRepairBatchDone_safe' {c : CoreId} {sl : SlotId} {stuck : List CellId} {s : State} {res} (eqn : (execRepairBatchDone c sl stuck s) = Host.Outcome.next res) (hS : s.Safe lf lg cq)  :
    (res).Safe lf lg cq := execRepairBatchDone_safe c sl stuck s hS res eqn

theorem execPgmQueuedJobStart_safe (s : State) (hS : s.Safe lf lg cq) :
    ∀ res, (execPgmQueuedJobStart s) = Host.Outcome.next res → (res).Safe lf lg cq := by
  intro res hv
  simp only [execPgmQueuedJobStart, Host.Outcome.next.injEq] at hv
  subst hv
  repeat' (first
    | with_reducible assumption
    | with_reducible apply State.startQueued_safe
    | with_reducible apply foldl_snd2_safe
    | with_reducible refine pair3_safe (by with_reducible assumption) ?_
    | with_reducible refine pair_safe (by with_reducible assumption) ?_
    | with_reducible apply foldl_safe
    | with_reducible apply foldl_snd_safe
    | intro _
    | split
    | dsimp only
    | refine State.Safe.lit ?_ rfl rfl rfl rfl)

theorem execPgmQueuedJobStart_safe' {s : State} {res} (eqn : (execPgmQueuedJobStart s) = Host.Outcome.next res) (hS : s.Safe lf lg cq)  :
    (res).Safe lf lg cq := execPgmQueuedJobStart_safe s hS res eqn

theorem execArrTrimDataAccess_safe (path : Path) (c : CoreId) (sl : SlotId) (w : Option Word) (s : State) (hS : s.Safe lf lg cq) :
    ∀ res, (execArrTrimDataAccess path c sl w s) = Host.Outcome.next res → (res).Safe lf lg cq := by
  intro res hv
  simp only [execArrTrimDataAccess, Host.Outcome.next.injEq] at hv
  subst hv
  repeat' (first
    | with_reducible assumption
    | with_reducible apply State.trimStep_safe
    | with_reducible apply State.reply_safe
    | with_reducible apply State.asked_safe
    | with_reducible apply State.trimWrite_safe
    | with_reducible apply foldl_snd2_safe
    | with_reducible refine pair3_safe (by with_reducible assumption) ?_
    | with_reducible refine pair_safe (by with_reducible assumption) ?_
    | with_reducible apply foldl_safe
    | with_reducible apply foldl_snd_safe
    | intro _
    | split
    | dsimp only
    | refine State.Safe.lit ?_ rfl rfl rfl rfl)

theorem execArrTrimDataAccess_safe' {path : Path} {c : CoreId} {sl : SlotId} {w : Option Word} {s : State} {res} (eqn : (execArrTrimDataAccess path c sl w s) = Host.Outcome.next res) (hS : s.Safe lf lg cq)  :
    (res).Safe lf lg cq := execArrTrimDataAccess_safe path c sl w s hS res eqn

theorem execRefreshBatch_safe (c : CoreId) (sl : SlotId) (s : State) (hS : s.Safe lf lg cq) :
    ∀ res, (execRefreshBatch c sl s) = Host.Outcome.next res → (res).Safe lf lg cq := by
  intro res hv
  simp only [execRefreshBatch, Host.Outcome.next.injEq] at hv
  subst hv
  repeat' (first
    | with_reducible assumption
    | with_reducible apply State.refresh_safe
    | with_reducible apply foldl_snd2_safe
    | with_reducible refine pair3_safe (by with_reducible assumption) ?_
    | with_reducible refine pair_safe (by with_reducible assumption) ?_
    | with_reducible apply foldl_safe
    | with_reducible apply foldl_snd_safe
    | intro _
    | split
    | dsimp only
    | refine State.Safe.lit ?_ rfl rfl rfl rfl)

theorem execRefreshBatch_safe' {c : CoreId} {sl : SlotId} {s : State} {res} (eqn : (execRefreshBatch c sl s) = Host.Outcome.next res) (hS : s.Safe lf lg cq)  :
    (res).Safe lf lg cq := execRefreshBatch_safe c sl s hS res eqn

theorem execTrimSwapTakeEffect_safe (c : CoreId) (sl : SlotId) (s : State) (hS : s.Safe lf lg cq) :
    ∀ res, (execTrimSwapTakeEffect c sl s) = Host.Outcome.next res → (res).Safe lf lg cq := by
  intro res hv
  simp only [execTrimSwapTakeEffect, Host.Outcome.next.injEq] at hv
  subst hv
  repeat' (first
    | with_reducible assumption
    | with_reducible apply State.trimExchange_safe
    | with_reducible apply foldl_snd2_safe
    | with_reducible refine pair3_safe (by with_reducible assumption) ?_
    | with_reducible refine pair_safe (by with_reducible assumption) ?_
    | with_reducible apply foldl_safe
    | with_reducible apply foldl_snd_safe
    | intro _
    | split
    | dsimp only
    | refine State.Safe.lit ?_ rfl rfl rfl rfl)

theorem execTrimSwapTakeEffect_safe' {c : CoreId} {sl : SlotId} {s : State} {res} (eqn : (execTrimSwapTakeEffect c sl s) = Host.Outcome.next res) (hS : s.Safe lf lg cq)  :
    (res).Safe lf lg cq := execTrimSwapTakeEffect_safe c sl s hS res eqn

theorem execScanBatch_safe (c : CoreId) (sl : SlotId) (weak : Nat) (s : State) (hS : s.Safe lf lg cq) :
    ∀ res, (execScanBatch c sl weak s) = Host.Outcome.next res → (res).Safe lf lg cq := by
  intro res hv
  simp only [execScanBatch, Host.Outcome.next.injEq] at hv
  subst hv
  repeat' (first
    | with_reducible assumption
    | with_reducible apply State.scanBatch_safe
    | with_reducible apply foldl_snd2_safe
    | with_reducible refine pair3_safe (by with_reducible assumption) ?_
    | with_reducible refine pair_safe (by with_reducible assumption) ?_
    | with_reducible apply foldl_safe
    | with_reducible apply foldl_snd_safe
    | intro _
    | split
    | dsimp only
    | refine State.Safe.lit ?_ rfl rfl rfl rfl)

theorem execScanBatch_safe' {c : CoreId} {sl : SlotId} {weak : Nat} {s : State} {res} (eqn : (execScanBatch c sl weak s) = Host.Outcome.next res) (hS : s.Safe lf lg cq)  :
    (res).Safe lf lg cq := execScanBatch_safe c sl weak s hS res eqn

theorem execArrPgmAbort_safe (path : Path) (c : CoreId) (sl : SlotId) (s : State) (hS : s.Safe lf lg cq) :
    ∀ res, (execArrPgmAbort path c sl s) = Host.Outcome.next res → (res).Safe lf lg cq := by
  intro res hv
  simp only [execArrPgmAbort, Host.Outcome.next.injEq] at hv
  subst hv
  repeat' (first
    | with_reducible assumption
    | with_reducible apply State.onJob_safe
    | with_reducible apply State.asked_safe
    | with_reducible apply State.pgmAbort_safe
    | with_reducible apply foldl_snd2_safe
    | with_reducible refine pair3_safe (by with_reducible assumption) ?_
    | with_reducible refine pair_safe (by with_reducible assumption) ?_
    | with_reducible apply foldl_safe
    | with_reducible apply foldl_snd_safe
    | intro _
    | split
    | dsimp only
    | refine State.Safe.lit ?_ rfl rfl rfl rfl)

theorem execArrPgmAbort_safe' {path : Path} {c : CoreId} {sl : SlotId} {s : State} {res} (eqn : (execArrPgmAbort path c sl s) = Host.Outcome.next res) (hS : s.Safe lf lg cq)  :
    (res).Safe lf lg cq := execArrPgmAbort_safe path c sl s hS res eqn

theorem execPlaneCheckDone_safe (c : CoreId) (sl : SlotId) (s : State) (hS : s.Safe lf lg cq) :
    ∀ res, (execPlaneCheckDone c sl s) = Host.Outcome.next res → (res).Safe lf lg cq := by
  intro res hv
  simp only [execPlaneCheckDone, Host.Outcome.next.injEq] at hv
  subst hv
  repeat' (first
    | with_reducible assumption
    | with_reducible apply State.onJob_safe
    | with_reducible apply State.planeDone_safe
    | with_reducible apply foldl_snd2_safe
    | with_reducible refine pair3_safe (by with_reducible assumption) ?_
    | with_reducible refine pair_safe (by with_reducible assumption) ?_
    | with_reducible apply foldl_safe
    | with_reducible apply foldl_snd_safe
    | intro _
    | split
    | dsimp only
    | refine State.Safe.lit ?_ rfl rfl rfl rfl)

theorem execPlaneCheckDone_safe' {c : CoreId} {sl : SlotId} {s : State} {res} (eqn : (execPlaneCheckDone c sl s) = Host.Outcome.next res) (hS : s.Safe lf lg cq)  :
    (res).Safe lf lg cq := execPlaneCheckDone_safe c sl s hS res eqn

theorem execArrTrimSwap_safe (path : Path) (c : CoreId) (sl : SlotId) (s : State) (hS : s.Safe lf lg cq) :
    ∀ res, (execArrTrimSwap path c sl s) = Host.Outcome.next res → (res).Safe lf lg cq := by
  intro res hv
  simp only [execArrTrimSwap, Host.Outcome.next.injEq] at hv
  subst hv
  repeat' (first
    | with_reducible assumption
    | with_reducible apply State.trimSwap_safe
    | with_reducible apply State.asked_safe
    | with_reducible apply State.calDisturbed_safe
    | with_reducible apply foldl_snd2_safe
    | with_reducible refine pair3_safe (by with_reducible assumption) ?_
    | with_reducible refine pair_safe (by with_reducible assumption) ?_
    | with_reducible apply foldl_safe
    | with_reducible apply foldl_snd_safe
    | intro _
    | split
    | dsimp only
    | refine State.Safe.lit ?_ rfl rfl rfl rfl)

theorem execArrTrimSwap_safe' {path : Path} {c : CoreId} {sl : SlotId} {s : State} {res} (eqn : (execArrTrimSwap path c sl s) = Host.Outcome.next res) (hS : s.Safe lf lg cq)  :
    (res).Safe lf lg cq := execArrTrimSwap_safe path c sl s hS res eqn

theorem execPgmBatchDone_safe (c : CoreId) (sl : SlotId) (stuck : List CellId) (s : State) (hS : s.Safe lf lg cq) :
    ∀ res, (execPgmBatchDone c sl stuck s) = Host.Outcome.next res → (res).Safe lf lg cq := by
  intro res hv
  simp only [execPgmBatchDone, Host.Outcome.next.injEq] at hv
  subst hv
  repeat' (first
    | with_reducible assumption
    | with_reducible apply State.onJob_safe
    | with_reducible apply State.batchDone_safe
    | with_reducible apply foldl_snd2_safe
    | with_reducible refine pair3_safe (by with_reducible assumption) ?_
    | with_reducible refine pair_safe (by with_reducible assumption) ?_
    | with_reducible apply foldl_safe
    | with_reducible apply foldl_snd_safe
    | intro _
    | split
    | dsimp only
    | refine State.Safe.lit ?_ rfl rfl rfl rfl)

theorem execPgmBatchDone_safe' {c : CoreId} {sl : SlotId} {stuck : List CellId} {s : State} {res} (eqn : (execPgmBatchDone c sl stuck s) = Host.Outcome.next res) (hS : s.Safe lf lg cq)  :
    (res).Safe lf lg cq := execPgmBatchDone_safe c sl stuck s hS res eqn

end Sys2Proof.Machine
end

