-- ==== Sys2Proof/Laws/Safe/BootOps.lean ====
section
/-! SUPPORT. One lemma for each operation of `Machine/BootOps.lean` that answers a state: it keeps `State.Safe` (the primed form says
the same of an answer that is known by an equation). -/

namespace Sys2Proof.Machine
open Sys2Proof
variable {lf lg : Nat} {cq : List Instr}

theorem State.bootFlags_safe (s : State) (hS : s.Safe lf lg cq) :
    ((State.bootFlags s)).Safe lf lg cq := by
  unfold State.bootFlags
  repeat' (first
    | with_reducible assumption
    | with_reducible apply State.wf__safe
    | with_reducible apply foldl_snd2_safe
    | with_reducible refine pair3_safe (by with_reducible assumption) ?_
    | with_reducible refine pair_safe (by with_reducible assumption) ?_
    | with_reducible apply foldl_safe
    | with_reducible apply foldl_snd_safe
    | intro _
    | split
    | dsimp only
    | refine State.Safe.lit ?_ rfl rfl rfl rfl)

theorem State.takeFw_safe (s : State) (base : Nat) (bankB : Bool) (hS : s.Safe lf lg cq) :
    ((State.takeFw s base bankB)).Safe lf lg cq := by
  unfold State.takeFw
  repeat' (first
    | with_reducible assumption
    | with_reducible apply State.wr_safe
    | with_reducible apply State.wf__safe
    | with_reducible apply State.bootFlags_safe
    | with_reducible apply foldl_snd2_safe
    | with_reducible refine pair3_safe (by with_reducible assumption) ?_
    | with_reducible refine pair_safe (by with_reducible assumption) ?_
    | with_reducible apply foldl_safe
    | with_reducible apply foldl_snd_safe
    | intro _
    | split
    | dsimp only
    | refine State.Safe.lit ?_ rfl rfl rfl rfl)

theorem State.commit_safe (s : State) (hS : s.Safe lf lg cq) :
    ((State.commit s)).Safe lf lg cq := by
  have key : ∀ b : Boot, s.boot.ident.fwFloor ≤ b.ident.fwFloor → s.boot.ident.cfgFloor ≤ b.ident.cfgFloor →
      (({ s with boot := b } : State).bootFlags).Safe lf lg cq := fun b ha hb => State.bootFlags_safe _
    ⟨hS.mem, hS.host, hS.regs, hS.ring, Nat.le_trans hS.fw ha, Nat.le_trans hS.cfg hb, hS.queue, hS.canon.congr rfl⟩
  have up : ∀ (o : Option Container) (f : Nat), f ≤ (match o with
      | some c => if f < c.floor then c.floor else f
      | none => f) := by
    intro o f
    split
    · split <;> omega
    · exact Nat.le_refl f
  unfold State.commit
  extract_lets i owner upF src s1
  have h1 : s1.Safe lf lg cq := by
    refine key _ ?_ ?_
    · exact up s.boot.fw _
    · exact up s.boot.cfg _
  clear_value s1
  split
  · exact h1
  · exact State.raise_safe _ _ h1

theorem State.takeCfg_safe (s : State) (base : Nat) (bankB : Bool) (hS : s.Safe lf lg cq) :
    ((State.takeCfg s base bankB)).Safe lf lg cq := by
  unfold State.takeCfg
  repeat' (first
    | with_reducible assumption
    | with_reducible apply State.wr_safe
    | with_reducible apply State.wf__safe
    | with_reducible apply State.bootFlags_safe
    | with_reducible apply foldl_snd2_safe
    | with_reducible refine pair3_safe (by with_reducible assumption) ?_
    | with_reducible refine pair_safe (by with_reducible assumption) ?_
    | with_reducible apply foldl_safe
    | with_reducible apply foldl_snd_safe
    | intro _
    | split
    | dsimp only
    | refine State.Safe.lit ?_ rfl rfl rfl rfl)

theorem State.bootVerify_safe (s : State) (cfg : Bool) (bankB : Bool) (hS : s.Safe lf lg cq) :
    ((State.bootVerify s cfg bankB)).Safe lf lg cq := by
  unfold State.bootVerify
  repeat' (first
    | with_reducible assumption
    | with_reducible apply State.takeFw_safe
    | with_reducible apply State.raise_safe
    | with_reducible apply State.wf__safe
    | with_reducible apply State.setPwr_safe
    | with_reducible apply State.takeCfg_safe
    | with_reducible apply State.send_safe
    | with_reducible apply foldl_snd2_safe
    | with_reducible refine pair3_safe (by with_reducible assumption) ?_
    | with_reducible refine pair_safe (by with_reducible assumption) ?_
    | with_reducible apply foldl_safe
    | with_reducible apply foldl_snd_safe
    | intro _
    | split
    | dsimp only
    | refine State.Safe.lit ?_ rfl rfl rfl rfl)

end Sys2Proof.Machine
end

