-- ==== Sys2Proof/Laws/Safe/RunOps.lean ====
section
/-! SUPPORT. One lemma for each operation of `Machine/RunOps.lean` that answers a state: it keeps `State.Safe` (the primed form says
the same of an answer that is known by an equation). -/

namespace Sys2Proof.Machine
open Sys2Proof
variable {lf lg : Nat} {cq : List Instr}

theorem State.modSent_safe (s : State) (p : Nat) (pos : Nat) (f : Sentence → Sentence) (hS : s.Safe lf lg cq) :
    ((State.modSent s p pos f)).Safe lf lg cq := by
  unfold State.modSent
  repeat' (first
    | with_reducible assumption
    | with_reducible apply State.modPound_safe
    | with_reducible apply foldl_snd2_safe
    | with_reducible refine pair3_safe (by with_reducible assumption) ?_
    | with_reducible refine pair_safe (by with_reducible assumption) ?_
    | with_reducible apply foldl_safe
    | with_reducible apply foldl_snd_safe
    | intro _
    | split
    | dsimp only
    | refine State.Safe.lit ?_ rfl rfl rfl rfl)

theorem State.modRun_safe (s : State) (r : EntryRef) (f : EntryRun → EntryRun) (hS : s.Safe lf lg cq) :
    ((State.modRun s r f)).Safe lf lg cq := by
  unfold State.modRun
  repeat' (first
    | with_reducible assumption
    | with_reducible apply State.modSent_safe
    | with_reducible apply foldl_snd2_safe
    | with_reducible refine pair3_safe (by with_reducible assumption) ?_
    | with_reducible refine pair_safe (by with_reducible assumption) ?_
    | with_reducible apply foldl_safe
    | with_reducible apply foldl_snd_safe
    | intro _
    | split
    | dsimp only
    | refine State.Safe.lit ?_ rfl rfl rfl rfl)

theorem State.raiseRun_safe (s : State) (r : EntryRef) (ev : Event) (hS : s.Safe lf lg cq) :
    ((State.raiseRun s r ev)).Safe lf lg cq := by
  unfold State.raiseRun
  repeat' (first
    | with_reducible assumption
    | with_reducible apply State.raise_safe
    | with_reducible apply foldl_snd2_safe
    | with_reducible refine pair3_safe (by with_reducible assumption) ?_
    | with_reducible refine pair_safe (by with_reducible assumption) ?_
    | with_reducible apply foldl_safe
    | with_reducible apply foldl_snd_safe
    | intro _
    | split
    | dsimp only
    | refine State.Safe.lit ?_ rfl rfl rfl rfl)

theorem State.dropWork_safe (s : State) (r : EntryRef) (hS : s.Safe lf lg cq) :
    ((State.dropWork s r)).Safe lf lg cq := by
  unfold State.dropWork
  exact ⟨hS.mem, hS.host, hS.regs, hS.ring, hS.fw, hS.cfg, hS.queue, { hS.canon with cores := wf_foldl_set _ _ _ _ rfl }⟩

theorem State.failPend_safe (s : State) (r : EntryRef) (e : EntryRun) (hS : s.Safe lf lg cq) :
    ((State.failPend s r e)).Safe lf lg cq := by
  unfold State.failPend
  repeat' (first
    | with_reducible assumption
    | with_reducible apply State.modCore_safe
    | with_reducible apply State.each_safe
    | with_reducible apply foldl_snd2_safe
    | with_reducible refine pair3_safe (by with_reducible assumption) ?_
    | with_reducible refine pair_safe (by with_reducible assumption) ?_
    | with_reducible apply foldl_safe
    | with_reducible apply foldl_snd_safe
    | intro _
    | split
    | dsimp only
    | refine State.Safe.lit ?_ rfl rfl rfl rfl)

theorem State.endRun_safe (s : State) (r : EntryRef) (status : Nat) (detail : Nat) (hS : s.Safe lf lg cq) :
    ((State.endRun s r status detail)).Safe lf lg cq := by
  unfold State.endRun
  repeat' (first
    | with_reducible assumption
    | with_reducible apply State.dropWork_safe
    | with_reducible apply State.modRun_safe
    | with_reducible apply State.modSent_safe
    | with_reducible apply State.failPend_safe
    | with_reducible apply foldl_snd2_safe
    | with_reducible refine pair3_safe (by with_reducible assumption) ?_
    | with_reducible refine pair_safe (by with_reducible assumption) ?_
    | with_reducible apply foldl_safe
    | with_reducible apply foldl_snd_safe
    | intro _
    | split
    | dsimp only
    | refine State.Safe.lit ?_ rfl rfl rfl rfl)

theorem State.endOnCore_safe (s : State) (c : Nat) (status : Nat) (detail : Nat) (hS : s.Safe lf lg cq) :
    ((State.endOnCore s c status detail).2).Safe lf lg cq := by
  unfold State.endOnCore
  repeat' (first
    | with_reducible assumption
    | with_reducible apply State.each_safe
    | with_reducible apply State.endRun_safe
    | with_reducible apply foldl_snd2_safe
    | with_reducible refine pair3_safe (by with_reducible assumption) ?_
    | with_reducible refine pair_safe (by with_reducible assumption) ?_
    | with_reducible apply foldl_safe
    | with_reducible apply foldl_snd_safe
    | intro _
    | split
    | dsimp only
    | refine State.Safe.lit ?_ rfl rfl rfl rfl)

theorem State.endOnCore_safe' {s : State} {c : Nat} {status : Nat} {detail : Nat} {y0 t} (eqn : (State.endOnCore s c status detail) = (y0, t)) (hS : s.Safe lf lg cq)  : t.Safe lf lg cq := by
  have := State.endOnCore_safe s c status detail hS
  rw [eqn] at this; exact this

theorem State.failCore_safe (s : State) (c : Nat) (unit : Nat) (detail : Nat) (hS : s.Safe lf lg cq) :
    ((State.failCore s c unit detail)).Safe lf lg cq := by
  unfold State.failCore
  repeat' (first
    | with_reducible assumption
    | with_reducible apply State.modCore_safe
    | with_reducible apply State.endOnCore_safe
    | with_reducible refine State.endOnCore_safe' (by with_reducible assumption) ?_
    | with_reducible apply State.raise_safe
    | with_reducible apply State.storeNow_safe
    | with_reducible apply State.flag_safe
    | with_reducible apply foldl_snd2_safe
    | with_reducible refine pair3_safe (by with_reducible assumption) ?_
    | with_reducible refine pair_safe (by with_reducible assumption) ?_
    | with_reducible apply foldl_safe
    | with_reducible apply foldl_snd_safe
    | intro _
    | split
    | dsimp only
    | refine State.Safe.lit ?_ rfl rfl rfl rfl)

theorem State.takeTask_safe (s : State) (r : EntryRef) (c : Nat) (hS : s.Safe lf lg cq) :
    ((State.takeTask s r c)).Safe lf lg cq := by
  unfold State.takeTask
  repeat' (first
    | with_reducible assumption
    | with_reducible apply State.modCore_safe
    | with_reducible apply foldl_snd2_safe
    | with_reducible refine pair3_safe (by with_reducible assumption) ?_
    | with_reducible refine pair_safe (by with_reducible assumption) ?_
    | with_reducible apply foldl_safe
    | with_reducible apply foldl_snd_safe
    | intro _
    | split
    | dsimp only
    | refine State.Safe.lit ?_ rfl rfl rfl rfl)

theorem State.tenderStop_safe (s : State) (c : Nat) (cause : Nat) (next : TndSt) (hS : s.Safe lf lg cq) :
    ((State.tenderStop s c cause next)).Safe lf lg cq := by
  unfold State.tenderStop
  repeat' (first
    | with_reducible assumption
    | with_reducible apply State.modCore_safe
    | with_reducible apply State.endOnCore_safe
    | with_reducible refine State.endOnCore_safe' (by with_reducible assumption) ?_
    | with_reducible apply State.raise_safe
    | with_reducible apply State.flag_safe
    | with_reducible apply foldl_snd2_safe
    | with_reducible refine pair3_safe (by with_reducible assumption) ?_
    | with_reducible refine pair_safe (by with_reducible assumption) ?_
    | with_reducible apply foldl_safe
    | with_reducible apply foldl_snd_safe
    | intro _
    | split
    | dsimp only
    | refine State.Safe.lit ?_ rfl rfl rfl rfl)

theorem State.tenderFault_safe (s : State) (c : Nat) (cause : Nat) (hS : s.Safe lf lg cq) :
    ((State.tenderFault s c cause)).Safe lf lg cq := by
  unfold State.tenderFault
  repeat' (first
    | with_reducible assumption
    | with_reducible apply State.tenderStop_safe
    | with_reducible apply foldl_snd2_safe
    | with_reducible refine pair3_safe (by with_reducible assumption) ?_
    | with_reducible refine pair_safe (by with_reducible assumption) ?_
    | with_reducible apply foldl_safe
    | with_reducible apply foldl_snd_safe
    | intro _
    | split
    | dsimp only
    | refine State.Safe.lit ?_ rfl rfl rfl rfl)

theorem State.tenderRestart_safe (s : State) (p : Path) (c : Nat) (hS : s.Safe lf lg cq) :
    ((State.tenderRestart s p c)).Safe lf lg cq := by
  unfold State.tenderRestart
  repeat' (first
    | with_reducible assumption
    | with_reducible apply State.ignored_safe
    | with_reducible apply State.modCore_safe
    | with_reducible apply State.tenderStop_safe
    | with_reducible apply foldl_snd2_safe
    | with_reducible refine pair3_safe (by with_reducible assumption) ?_
    | with_reducible refine pair_safe (by with_reducible assumption) ?_
    | with_reducible apply foldl_safe
    | with_reducible apply foldl_snd_safe
    | intro _
    | split
    | dsimp only
    | refine State.Safe.lit ?_ rfl rfl rfl rfl)

theorem State.tenderYield_safe (s : State) (c : Nat) (hS : s.Safe lf lg cq) :
    ((State.tenderYield s c)).Safe lf lg cq := by
  unfold State.tenderYield
  repeat' (first
    | with_reducible assumption
    | with_reducible apply State.modCore_safe
    | with_reducible apply State.count_safe
    | with_reducible apply foldl_snd2_safe
    | with_reducible refine pair3_safe (by with_reducible assumption) ?_
    | with_reducible refine pair_safe (by with_reducible assumption) ?_
    | with_reducible apply foldl_safe
    | with_reducible apply foldl_snd_safe
    | intro _
    | split
    | dsimp only
    | refine State.Safe.lit ?_ rfl rfl rfl rfl)

theorem State.tenderLoaded_safe (s : State) (c : Nat) (hS : s.Safe lf lg cq) :
    ((State.tenderLoaded s c)).Safe lf lg cq := by
  unfold State.tenderLoaded
  repeat' (first
    | with_reducible assumption
    | with_reducible apply State.modCore_safe
    | with_reducible apply State.raise_safe
    | with_reducible apply State.flag_safe
    | with_reducible apply foldl_snd2_safe
    | with_reducible refine pair3_safe (by with_reducible assumption) ?_
    | with_reducible refine pair_safe (by with_reducible assumption) ?_
    | with_reducible apply foldl_safe
    | with_reducible apply foldl_snd_safe
    | intro _
    | split
    | dsimp only
    | refine State.Safe.lit ?_ rfl rfl rfl rfl)

end Sys2Proof.Machine
end

