-- ==== Sys2Proof/Laws/Safe/EntryOps.lean ====
section
/-! SUPPORT. One lemma for each operation of `Machine/EntryOps.lean` that answers a state: it keeps `State.Safe` (the primed form says
the same of an answer that is known by an equation). -/

namespace Sys2Proof.Machine
open Sys2Proof
variable {lf lg : Nat} {cq : List Instr}

theorem State.manFailRun_safe (s : State) (r : EntryRef) (c : Nat) (b : Nat) (cause : Nat) (hS : s.Safe lf lg cq) :
    ((State.manFailRun s r c b cause)).Safe lf lg cq := by
  unfold State.manFailRun
  repeat' (first
    | with_reducible assumption
    | with_reducible apply State.raiseRun_safe
    | with_reducible apply State.count_safe
    | with_reducible apply foldl_snd2_safe
    | with_reducible refine pair3_safe (by with_reducible assumption) ?_
    | with_reducible refine pair_safe (by with_reducible assumption) ?_
    | with_reducible apply foldl_safe
    | with_reducible apply foldl_snd_safe
    | intro _
    | split
    | dsimp only
    | refine State.Safe.lit ?_ rfl rfl rfl rfl)

theorem State.readReg_safe (s : State) (r : EntryRef) (c : Nat) (field : Nat) (base : Nat) (j : Nat) (expect : Expect) (hS : s.Safe lf lg cq) :
    ((State.readReg s r c field base j expect).2).Safe lf lg cq := by
  unfold State.readReg
  repeat' (first
    | with_reducible assumption
    | with_reducible apply State.ueEvent_safe
    | with_reducible apply State.modRun_safe
    | with_reducible apply State.manFailRun_safe
    | with_reducible apply State.count_safe
    | with_reducible apply foldl_snd2_safe
    | with_reducible refine pair3_safe (by with_reducible assumption) ?_
    | with_reducible refine pair_safe (by with_reducible assumption) ?_
    | with_reducible apply foldl_safe
    | with_reducible apply foldl_snd_safe
    | intro _
    | split
    | dsimp only
    | refine State.Safe.lit ?_ rfl rfl rfl rfl)

theorem State.readReg_safe' {s : State} {r : EntryRef} {c : Nat} {field : Nat} {base : Nat} {j : Nat} {expect : Expect} {y0 t} (eqn : (State.readReg s r c field base j expect) = (y0, t)) (hS : s.Safe lf lg cq)  : t.Safe lf lg cq := by
  have := State.readReg_safe s r c field base j expect hS
  rw [eqn] at this; exact this

theorem State.laneMismatch_safe (s : State) (r : EntryRef) (c : Nat) (b : Nat) (cond : Nat) (tender : Bool) (hS : s.Safe lf lg cq) :
    ((State.laneMismatch s r c b cond tender)).Safe lf lg cq := by
  unfold State.laneMismatch
  repeat' (first
    | with_reducible assumption
    | with_reducible apply State.bump_safe
    | with_reducible apply State.raiseRun_safe
    | with_reducible apply State.wr_safe
    | with_reducible apply State.flag_safe
    | with_reducible apply State.count_safe
    | with_reducible apply foldl_snd2_safe
    | with_reducible refine pair3_safe (by with_reducible assumption) ?_
    | with_reducible refine pair_safe (by with_reducible assumption) ?_
    | with_reducible apply foldl_safe
    | with_reducible apply foldl_snd_safe
    | intro _
    | split
    | dsimp only
    | refine State.Safe.lit ?_ rfl rfl rfl rfl)

theorem State.reserved_safe (s : State) (c : Nat) (n : Nat) (hS : s.Safe lf lg cq) :
    ((State.reserved s c n)).Safe lf lg cq := by
  unfold State.reserved
  repeat' (first
    | with_reducible assumption
    | with_reducible apply State.bump_safe
    | with_reducible apply State.count_safe
    | with_reducible apply foldl_snd2_safe
    | with_reducible refine pair3_safe (by with_reducible assumption) ?_
    | with_reducible refine pair_safe (by with_reducible assumption) ?_
    | with_reducible apply foldl_safe
    | with_reducible apply foldl_snd_safe
    | intro _
    | split
    | dsimp only
    | refine State.Safe.lit ?_ rfl rfl rfl rfl)

theorem State.codeSat_safe (s : State) (r : EntryRef) (c : Nat) (n : Nat) (hS : s.Safe lf lg cq) :
    ((State.codeSat s r c n)).Safe lf lg cq := by
  unfold State.codeSat
  repeat' (first
    | with_reducible assumption
    | with_reducible apply State.modRun_safe
    | with_reducible apply State.reserved_safe
    | with_reducible apply foldl_snd2_safe
    | with_reducible refine pair3_safe (by with_reducible assumption) ?_
    | with_reducible refine pair_safe (by with_reducible assumption) ?_
    | with_reducible apply foldl_safe
    | with_reducible apply foldl_snd_safe
    | intro _
    | split
    | dsimp only
    | refine State.Safe.lit ?_ rfl rfl rfl rfl)

theorem State.manFailMem_safe (s : State) (r : EntryRef) (c : Nat) (isHost : Bool) (a : Nat) (cause : Nat) (hS : s.Safe lf lg cq) :
    ((State.manFailMem s r c isHost a cause)).Safe lf lg cq := by
  unfold State.manFailMem
  repeat' (first
    | with_reducible assumption
    | with_reducible apply State.suspectMem_safe
    | with_reducible apply State.raiseRun_safe
    | with_reducible apply State.count_safe
    | with_reducible apply foldl_snd2_safe
    | with_reducible refine pair3_safe (by with_reducible assumption) ?_
    | with_reducible refine pair_safe (by with_reducible assumption) ?_
    | with_reducible apply foldl_safe
    | with_reducible apply foldl_snd_safe
    | intro _
    | split
    | dsimp only
    | refine State.Safe.lit ?_ rfl rfl rfl rfl)

theorem State.readDevReg_safe (s : State) (r : EntryRef) (c : Nat) (field : Nat) (a : Nat) (j : Nat) (hS : s.Safe lf lg cq) :
    ((State.readDevReg s r c field a j).2).Safe lf lg cq := by
  unfold State.readDevReg
  repeat' (first
    | with_reducible assumption
    | with_reducible apply State.manFailMem_safe
    | with_reducible apply State.modRun_safe
    | with_reducible apply State.ueMem_safe
    | with_reducible apply foldl_snd2_safe
    | with_reducible refine pair3_safe (by with_reducible assumption) ?_
    | with_reducible refine pair_safe (by with_reducible assumption) ?_
    | with_reducible apply foldl_safe
    | with_reducible apply foldl_snd_safe
    | intro _
    | split
    | dsimp only
    | refine State.Safe.lit ?_ rfl rfl rfl rfl)

theorem State.readDevReg_safe' {s : State} {r : EntryRef} {c : Nat} {field : Nat} {a : Nat} {j : Nat} {y0 t} (eqn : (State.readDevReg s r c field a j) = (y0, t)) (hS : s.Safe lf lg cq)  : t.Safe lf lg cq := by
  have := State.readDevReg_safe s r c field a j hS
  rw [eqn] at this; exact this

end Sys2Proof.Machine
end

