-- ==== Sys2Proof/Laws/Safe/IssueOps.lean ====
section
/-! SUPPORT. One lemma for each operation of `Machine/IssueOps.lean` that answers a state: it keeps `State.Safe` (the primed form says
the same of an answer that is known by an equation). -/

namespace Sys2Proof.Machine
open Sys2Proof
variable {lf lg : Nat} {cq : List Instr}

theorem State.putOut_safe (s : State) (r : EntryRef) (h : Nat) (b : Nat) (data : List Byte) (m : Manifest) (hS : s.Safe lf lg cq) :
    ((State.putOut s r h b data m)).Safe lf lg cq := by
  unfold State.putOut
  repeat' (first
    | with_reducible assumption
    | with_reducible apply State.putAct_safe
    | with_reducible apply State.modRun_safe
    | with_reducible apply foldl_snd2_safe
    | with_reducible refine pair3_safe (by with_reducible assumption) ?_
    | with_reducible refine pair_safe (by with_reducible assumption) ?_
    | with_reducible apply foldl_safe
    | with_reducible apply foldl_snd_safe
    | intro _
    | split
    | dsimp only
    | refine State.Safe.lit ?_ rfl rfl rfl rfl)

theorem State.putLane_safe (s : State) (r : EntryRef) (h : Nat) (j : Nat) (hS : s.Safe lf lg cq) :
    ((State.putLane s r h j)).Safe lf lg cq := by
  unfold State.putLane
  repeat' (first
    | with_reducible assumption
    | with_reducible apply State.putOut_safe
    | with_reducible apply foldl_snd2_safe
    | with_reducible refine pair3_safe (by with_reducible assumption) ?_
    | with_reducible refine pair_safe (by with_reducible assumption) ?_
    | with_reducible apply foldl_safe
    | with_reducible apply foldl_snd_safe
    | intro _
    | split
    | dsimp only
    | refine State.Safe.lit ?_ rfl rfl rfl rfl)

theorem State.closeLanes_safe (s : State) (r : EntryRef) (hS : s.Safe lf lg cq) :
    ((State.closeLanes s r)).Safe lf lg cq := by
  unfold State.closeLanes
  repeat' (first
    | with_reducible assumption
    | with_reducible apply State.each_safe
    | with_reducible apply State.putLane_safe
    | with_reducible apply foldl_snd2_safe
    | with_reducible refine pair3_safe (by with_reducible assumption) ?_
    | with_reducible refine pair_safe (by with_reducible assumption) ?_
    | with_reducible apply foldl_safe
    | with_reducible apply foldl_snd_safe
    | intro _
    | split
    | dsimp only
    | refine State.Safe.lit ?_ rfl rfl rfl rfl)

theorem State.guardTrip_safe (s : State) (r : EntryRef) (c : Nat) (i : Nat) (cause : Nat) (sats : Nat) (top : Nat) (drain : Bool) (hS : s.Safe lf lg cq) :
    ((State.guardTrip s r c i cause sats top drain)).Safe lf lg cq := by
  unfold State.guardTrip
  repeat' (first
    | with_reducible assumption
    | with_reducible apply State.bump_safe
    | with_reducible apply State.raiseRun_safe
    | with_reducible apply State.wr_safe
    | with_reducible apply State.flag_safe
    | with_reducible apply State.count_safe
    | with_reducible apply foldl_snd2_safe
    | with_reducible refine pair3_safe (by with_reducible assumption) ?_
    | with_reducible refine pair_safe (by with_reducible assumption) ?_
    | with_reducible apply foldl_safe
    | with_reducible apply foldl_snd_safe
    | intro _
    | split
    | dsimp only
    | refine State.Safe.lit ?_ rfl rfl rfl rfl)

theorem State.writeBlock_safe (s : State) (r : EntryRef) (h : Nat) (i : Nat) (hS : s.Safe lf lg cq) :
    ((State.writeBlock s r h i)).Safe lf lg cq := by
  unfold State.writeBlock
  repeat' (first
    | with_reducible assumption
    | with_reducible apply State.modRun_safe
    | with_reducible apply State.guardTrip_safe
    | with_reducible apply State.putLane_safe
    | with_reducible apply State.putOut_safe
    | with_reducible apply foldl_snd2_safe
    | with_reducible refine pair3_safe (by with_reducible assumption) ?_
    | with_reducible refine pair_safe (by with_reducible assumption) ?_
    | with_reducible apply foldl_safe
    | with_reducible apply foldl_snd_safe
    | intro _
    | split
    | dsimp only
    | refine State.Safe.lit ?_ rfl rfl rfl rfl)

theorem State.flushOut_safe (s : State) (r : EntryRef) (h : Nat) (a3 : Nat) (hS : s.Safe lf lg cq) :
    ((State.flushOut s r h a3)).Safe lf lg cq := by
  induction a3 generalizing s with
  | zero => exact hS
  | succ n ih =>
    unfold State.flushOut
    repeat' (first
      | with_reducible assumption
      | with_reducible apply State.writeBlock_safe
      | with_reducible apply ih
      | with_reducible apply foldl_snd2_safe
      | with_reducible refine pair3_safe (by with_reducible assumption) ?_
      | with_reducible refine pair_safe (by with_reducible assumption) ?_
      | with_reducible apply foldl_safe
      | with_reducible apply foldl_snd_safe
      | intro _
      | split
      | dsimp only
      | refine State.Safe.lit ?_ rfl rfl rfl rfl)

theorem State.readRsc_safe (s : State) (r : EntryRef) (c : Nat) (e : EntryRun) (ex0 : Expect) (j : Nat) (hS : s.Safe lf lg cq) :
    ((State.readRsc s r c e ex0 j).2).Safe lf lg cq := by
  unfold State.readRsc
  repeat' (first
    | with_reducible assumption
    | with_reducible apply State.ueEvent_safe
    | with_reducible apply State.modRun_safe
    | with_reducible apply State.manFailRun_safe
    | with_reducible apply State.count_safe
    | with_reducible apply foldl_snd2_safe
    | with_reducible refine pair3_safe (by with_reducible assumption) ?_
    | with_reducible refine pair_safe (by with_reducible assumption) ?_
    | with_reducible apply foldl_safe
    | with_reducible apply foldl_snd_safe
    | intro _
    | split
    | dsimp only
    | refine State.Safe.lit ?_ rfl rfl rfl rfl)

theorem State.readRsc_safe' {s : State} {r : EntryRef} {c : Nat} {e : EntryRun} {ex0 : Expect} {j : Nat} {y0 t} (eqn : (State.readRsc s r c e ex0 j) = (y0, t)) (hS : s.Safe lf lg cq)  : t.Safe lf lg cq := by
  have := State.readRsc_safe s r c e ex0 j hS
  rw [eqn] at this; exact this

theorem State.readHeld_safe (s : State) (r : EntryRef) (c : Nat) (field : Nat) (base : Nat) (off : Nat) (n : Nat) (ex : Nat → Expect) (hS : s.Safe lf lg cq) :
    ((State.readHeld s r c field base off n ex).2).Safe lf lg cq := by
  unfold State.readHeld
  repeat' (first
    | with_reducible assumption
    | with_reducible apply State.readReg_safe
    | with_reducible refine State.readReg_safe' (by with_reducible assumption) ?_
    | with_reducible apply State.modRun_safe
    | with_reducible apply foldl_snd2_safe
    | with_reducible refine pair3_safe (by with_reducible assumption) ?_
    | with_reducible refine pair_safe (by with_reducible assumption) ?_
    | with_reducible apply foldl_safe
    | with_reducible apply foldl_snd_safe
    | intro _
    | split
    | dsimp only
    | refine State.Safe.lit ?_ rfl rfl rfl rfl)

theorem State.readHeld_safe' {s : State} {r : EntryRef} {c : Nat} {field : Nat} {base : Nat} {off : Nat} {n : Nat} {ex : Nat → Expect} {y0 t} (eqn : (State.readHeld s r c field base off n ex) = (y0, t)) (hS : s.Safe lf lg cq)  : t.Safe lf lg cq := by
  have := State.readHeld_safe s r c field base off n ex hS
  rw [eqn] at this; exact this

theorem State.readLearned_safe (s : State) (r : EntryRef) (c : Nat) (field : Nat) (base : Nat) (pos : Nat) (g : Nat) (hS : s.Safe lf lg cq) :
    ((State.readLearned s r c field base pos g).2).Safe lf lg cq := by
  unfold State.readLearned
  repeat' (first
    | with_reducible assumption
    | with_reducible apply State.readReg_safe
    | with_reducible refine State.readReg_safe' (by with_reducible assumption) ?_
    | with_reducible apply State.modRun_safe
    | with_reducible apply State.laneMismatch_safe
    | with_reducible apply foldl_snd2_safe
    | with_reducible refine pair3_safe (by with_reducible assumption) ?_
    | with_reducible refine pair_safe (by with_reducible assumption) ?_
    | with_reducible apply foldl_safe
    | with_reducible apply foldl_snd_safe
    | intro _
    | split
    | dsimp only
    | refine State.Safe.lit ?_ rfl rfl rfl rfl)

theorem State.readLearned_safe' {s : State} {r : EntryRef} {c : Nat} {field : Nat} {base : Nat} {pos : Nat} {g : Nat} {y0 t} (eqn : (State.readLearned s r c field base pos g) = (y0, t)) (hS : s.Safe lf lg cq)  : t.Safe lf lg cq := by
  have := State.readLearned_safe s r c field base pos g hS
  rw [eqn] at this; exact this

theorem State.readStage_safe (s : State) (r : EntryRef) (c : Nat) (e : EntryRun) (w : Quad) (hS : s.Safe lf lg cq) :
    ((State.readStage s r c e w).2).Safe lf lg cq := by
  unfold State.readStage
  repeat' (first
    | with_reducible assumption
    | with_reducible apply State.readHeld_safe
    | with_reducible refine State.readHeld_safe' (by with_reducible assumption) ?_
    | with_reducible apply State.readLearned_safe
    | with_reducible refine State.readLearned_safe' (by with_reducible assumption) ?_
    | with_reducible apply foldl_snd2_safe
    | with_reducible refine pair3_safe (by with_reducible assumption) ?_
    | with_reducible refine pair_safe (by with_reducible assumption) ?_
    | with_reducible apply foldl_safe
    | with_reducible apply foldl_snd_safe
    | intro _
    | split
    | dsimp only
    | refine State.Safe.lit ?_ rfl rfl rfl rfl)

theorem State.readStage_safe' {s : State} {r : EntryRef} {c : Nat} {e : EntryRun} {w : Quad} {y0 t} (eqn : (State.readStage s r c e w) = (y0, t)) (hS : s.Safe lf lg cq)  : t.Safe lf lg cq := by
  have := State.readStage_safe s r c e w hS
  rw [eqn] at this; exact this

theorem State.readVecs_safe (s : State) (r : EntryRef) (c : Nat) (hS : s.Safe lf lg cq) :
    ((State.readVecs s r c).2).Safe lf lg cq := by
  unfold State.readVecs
  split
  · exact hS
  · split
    · exact firstFail_safe _ _ _ hS (fun t w ht => State.readStage_safe _ _ _ _ _ ht)
    · extract_lets w7 nRsc p1 p2
      have h1 : p1.2.Safe lf lg cq := firstFail_safe _ _ _ hS (fun t j ht => State.readRsc_safe _ _ _ _ _ _ ht)
      have h2 : p2.2.Safe lf lg cq := firstFail_safe _ _ _ h1 (fun t w ht => State.readStage_safe _ _ _ _ _ ht)
      clear_value p2
      split
      · exact h2
      · exact State.readLearned_safe _ _ _ _ _ _ _ h2

theorem State.readVecs_safe' {s : State} {r : EntryRef} {c : Nat} {y0 t} (eqn : (State.readVecs s r c) = (y0, t)) (hS : s.Safe lf lg cq)  : t.Safe lf lg cq := by
  have := State.readVecs_safe s r c hS
  rw [eqn] at this; exact this

theorem State.startProblem_safe (s : State) (r : EntryRef) (i : Nat) (a3 : Nat) (hS : s.Safe lf lg cq) :
    ((State.startProblem s r i a3)).Safe lf lg cq := by
  induction a3 generalizing s i with
  | zero => exact hS
  | succ n ih =>
    unfold State.startProblem
    split
    · exact hS
    · split
      · exact State.endRun_safe _ _ _ _ hS
      · split
        · exact ih _ _ hS
        · extract_lets e1 s1
          have h1 : s1.Safe lf lg cq := State.modRun_safe _ _ _ hS
          clear_value s1
          have h2 := firstFail_safe (s.poundCores r.pound) (none, s1) (fun t c => t.readVecs r c) h1
            (fun t c ht => State.readVecs_safe _ _ _ ht)
          split
          rename_i heq
          rw [heq] at h2
          split
          · exact State.endRun_safe _ _ _ _ h2
          · exact h2

theorem State.advance_safe (s : State) (r : EntryRef) (hS : s.Safe lf lg cq) :
    ((State.advance s r)).Safe lf lg cq := by
  unfold State.advance
  repeat' (first
    | with_reducible assumption
    | with_reducible apply State.endRun_safe
    | with_reducible apply State.startProblem_safe
    | with_reducible apply foldl_snd2_safe
    | with_reducible refine pair3_safe (by with_reducible assumption) ?_
    | with_reducible refine pair_safe (by with_reducible assumption) ?_
    | with_reducible apply foldl_safe
    | with_reducible apply foldl_snd_safe
    | intro _
    | split
    | dsimp only
    | refine State.Safe.lit ?_ rfl rfl rfl rfl)

theorem State.flushAll_safe (s : State) (r : EntryRef) (hS : s.Safe lf lg cq) :
    ((State.flushAll s r)).Safe lf lg cq := by
  unfold State.flushAll
  repeat' (first
    | with_reducible assumption
    | with_reducible apply State.each_safe
    | with_reducible apply State.flushOut_safe
    | with_reducible apply State.advance_safe
    | with_reducible apply foldl_snd2_safe
    | with_reducible refine pair3_safe (by with_reducible assumption) ?_
    | with_reducible refine pair_safe (by with_reducible assumption) ?_
    | with_reducible apply foldl_safe
    | with_reducible apply foldl_snd_safe
    | intro _
    | split
    | dsimp only
    | refine State.Safe.lit ?_ rfl rfl rfl rfl)

theorem State.failRow_safe (s : State) (r : EntryRef) (m : Nat) (f : RdFail) (hS : s.Safe lf lg cq) :
    ((State.failRow s r m f)).Safe lf lg cq := by
  unfold State.failRow
  split
  · exact hS
  · extract_lets first gone lost s1 s2
    have h1 : s1.Safe lf lg cq := State.modRun_safe _ _ _ hS
    clear_value s1
    have h2 : s2.Safe lf lg cq := ⟨h1.mem, h1.host, h1.regs, h1.ring, h1.fw, h1.cfg, h1.queue, { h1.canon with cores := wf_foldl_set _ _ _ _ rfl }⟩
    exact State.flushAll_safe _ _ h2

theorem State.worked_safe (s : State) (r : EntryRef) (hS : s.Safe lf lg cq) :
    ((State.worked s r)).Safe lf lg cq := by
  unfold State.worked
  repeat' (first
    | with_reducible assumption
    | with_reducible apply State.modRun_safe
    | with_reducible apply foldl_snd2_safe
    | with_reducible refine pair3_safe (by with_reducible assumption) ?_
    | with_reducible refine pair_safe (by with_reducible assumption) ?_
    | with_reducible apply foldl_safe
    | with_reducible apply foldl_snd_safe
    | intro _
    | split
    | dsimp only
    | refine State.Safe.lit ?_ rfl rfl rfl rfl)

theorem State.modShare_safe (s : State) (r : EntryRef) (c : Nat) (f : Share → Share) (hS : s.Safe lf lg cq) :
    ((State.modShare s r c f)).Safe lf lg cq := by
  unfold State.modShare
  repeat' (first
    | with_reducible assumption
    | with_reducible apply State.modRun_safe
    | with_reducible apply foldl_snd2_safe
    | with_reducible refine pair3_safe (by with_reducible assumption) ?_
    | with_reducible refine pair_safe (by with_reducible assumption) ?_
    | with_reducible apply foldl_safe
    | with_reducible apply foldl_snd_safe
    | intro _
    | split
    | dsimp only
    | refine State.Safe.lit ?_ rfl rfl rfl rfl)

theorem State.pendOut_safe (s : State) (r : EntryRef) (hS : s.Safe lf lg cq) :
    ((State.pendOut s r)).Safe lf lg cq := by
  unfold State.pendOut
  repeat' (first
    | with_reducible assumption
    | with_reducible apply State.modCore_safe
    | with_reducible apply State.modRun_safe
    | with_reducible apply State.each_safe
    | with_reducible apply foldl_snd2_safe
    | with_reducible refine pair3_safe (by with_reducible assumption) ?_
    | with_reducible refine pair_safe (by with_reducible assumption) ?_
    | with_reducible apply foldl_safe
    | with_reducible apply foldl_snd_safe
    | intro _
    | split
    | dsimp only
    | refine State.Safe.lit ?_ rfl rfl rfl rfl)

theorem State.rejected_safe (s : State) (r : EntryRef) (q : Request) (st : Nat) (dt : Nat) (hS : s.Safe lf lg cq) :
    ((State.rejected s r q st dt)).Safe lf lg cq := by
  unfold State.rejected
  repeat' (first
    | with_reducible assumption
    | with_reducible apply State.ueEvent_safe
    | with_reducible apply State.raiseRun_safe
    | with_reducible apply State.manFailRun_safe
    | with_reducible apply State.flag_safe
    | with_reducible apply State.count_safe
    | with_reducible apply foldl_snd2_safe
    | with_reducible refine pair3_safe (by with_reducible assumption) ?_
    | with_reducible refine pair_safe (by with_reducible assumption) ?_
    | with_reducible apply foldl_safe
    | with_reducible apply foldl_snd_safe
    | intro _
    | split
    | dsimp only
    | refine State.Safe.lit ?_ rfl rfl rfl rfl)

theorem State.issued_safe (s : State) (r : EntryRef) (e : EntryRun) (hS : s.Safe lf lg cq) :
    ((State.issued s r e)).Safe lf lg cq := by
  unfold State.issued
  repeat' (first
    | with_reducible assumption
    | with_reducible apply State.raiseRun_safe
    | with_reducible apply foldl_snd2_safe
    | with_reducible refine pair3_safe (by with_reducible assumption) ?_
    | with_reducible refine pair_safe (by with_reducible assumption) ?_
    | with_reducible apply foldl_safe
    | with_reducible apply foldl_snd_safe
    | intro _
    | split
    | dsimp only
    | refine State.Safe.lit ?_ rfl rfl rfl rfl)

theorem State.issue_safe (s : State) (p : Nat) (pos : Nat) (v : Nat) (start : State → EntryRef → State) (hS : s.Safe lf lg cq) (hfstart : ∀ x0 x1, x0.Safe lf lg cq → (start x0 x1).Safe lf lg cq) :
    ((State.issue s p pos v start)).Safe lf lg cq := by
  unfold State.issue
  split
  · exact hS
  · extract_lets bytes d q r mode rej e0 e s1 s2
    have h1 : s1.Safe lf lg cq := State.count_safe _ _ _ _ (State.modCore_safe _ _ _ hS)
    clear_value s1 e e0 rej
    have h2 : s2.Safe lf lg cq := State.modSent_safe _ _ _ _ h1
    clear_value s2
    split
    · exact hS
    · split
      · extract_lets s3
        refine State.endRun_safe _ _ _ _ (State.rejected_safe _ _ _ _ _ ?_)
        dsimp only [s3]
        repeat' split
        · exact State.ueRead_safe _ _ _ _ h2
        · exact State.ueRead_safe _ _ _ _ h2
        · exact h2
      · rename_i s3 _ _
        have h3 : s3.Safe lf lg cq := State.modReq_safe _ _ _ (State.issued_safe _ _ _ h2)
        clear_value s3
        split
        · refine State.endRun_safe _ _ _ _ ?_
          split
          · exact State.pendOut_safe _ _ h3
          · exact h3
        · split
          · exact State.endRun_safe _ _ _ _ h3
          · exact hfstart _ _ h3

end Sys2Proof.Machine
end

