-- ==== Sys2Proof/Laws/Safe/RowOps.lean ====
section
/-! SUPPORT. One lemma for each operation of `Machine/RowOps.lean` that answers a state: it keeps `State.Safe` (the primed form says
the same of an answer that is known by an equation). -/

namespace Sys2Proof.Machine
open Sys2Proof
variable {lf lg : Nat} {cq : List Instr}

theorem State.inBlock_safe (s : State) (r : EntryRef) (c : Nat) (j : Nat) (hS : s.Safe lf lg cq) :
    ((State.inBlock s r c j).2).Safe lf lg cq := by
  unfold State.inBlock
  repeat' (first
    | with_reducible assumption
    | with_reducible apply State.readReg_safe
    | with_reducible refine State.readReg_safe' (by with_reducible assumption) ?_
    | with_reducible apply State.modRun_safe
    | with_reducible apply State.manFailRun_safe
    | with_reducible apply foldl_snd2_safe
    | with_reducible refine pair3_safe (by with_reducible assumption) ?_
    | with_reducible refine pair_safe (by with_reducible assumption) ?_
    | with_reducible apply foldl_safe
    | with_reducible apply foldl_snd_safe
    | intro _
    | split
    | dsimp only
    | refine State.Safe.lit ?_ rfl rfl rfl rfl)

theorem State.inBlock_safe' {s : State} {r : EntryRef} {c : Nat} {j : Nat} {y0 t} (eqn : (State.inBlock s r c j) = (y0, t)) (hS : s.Safe lf lg cq)  : t.Safe lf lg cq := by
  have := State.inBlock_safe s r c j hS
  rw [eqn] at this; exact this

theorem State.byteRun_safe (s : State) (r : EntryRef) (c : Nat) (st : Nat) (m : Nat) (x : Nat) (n : Nat) (hS : s.Safe lf lg cq) :
    ((State.byteRun s r c st m x n).2).Safe lf lg cq := by
  unfold State.byteRun
  repeat' (first
    | with_reducible assumption
    | with_reducible apply State.inBlock_safe
    | with_reducible refine State.inBlock_safe' (by with_reducible assumption) ?_
    | with_reducible apply foldl_snd2_safe
    | with_reducible refine pair3_safe (by with_reducible assumption) ?_
    | with_reducible refine pair_safe (by with_reducible assumption) ?_
    | with_reducible apply foldl_safe
    | with_reducible apply foldl_snd_safe
    | intro _
    | split
    | dsimp only
    | refine State.Safe.lit ?_ rfl rfl rfl rfl)

theorem State.byteRun_safe' {s : State} {r : EntryRef} {c : Nat} {st : Nat} {m : Nat} {x : Nat} {n : Nat} {y0 t} (eqn : (State.byteRun s r c st m x n) = (y0, t)) (hS : s.Safe lf lg cq)  : t.Safe lf lg cq := by
  have := State.byteRun_safe s r c st m x n hS
  rw [eqn] at this; exact this

theorem State.laneFor_safe (s : State) (r : EntryRef) (c : Nat) (j : Nat) (dm : Manifest) (tender : Bool) (hS : s.Safe lf lg cq) :
    ((State.laneFor s r c j dm tender).2).Safe lf lg cq := by
  unfold State.laneFor
  repeat' (first
    | with_reducible assumption
    | with_reducible apply State.ueEvent_safe
    | with_reducible apply State.modRun_safe
    | with_reducible apply State.manFailRun_safe
    | with_reducible apply State.count_safe
    | with_reducible apply State.laneMismatch_safe
    | with_reducible apply foldl_snd2_safe
    | with_reducible refine pair3_safe (by with_reducible assumption) ?_
    | with_reducible refine pair_safe (by with_reducible assumption) ?_
    | with_reducible apply foldl_safe
    | with_reducible apply foldl_snd_safe
    | intro _
    | split
    | dsimp only
    | refine State.Safe.lit ?_ rfl rfl rfl rfl)

theorem State.laneFor_safe' {s : State} {r : EntryRef} {c : Nat} {j : Nat} {dm : Manifest} {tender : Bool} {y0 t} (eqn : (State.laneFor s r c j dm tender) = (y0, t)) (hS : s.Safe lf lg cq)  : t.Safe lf lg cq := by
  have := State.laneFor_safe s r c j dm tender hS
  rw [eqn] at this; exact this

theorem State.nonFinite_safe (s : State) (r : EntryRef) (c : Nat) (n : Nat) (detail : Nat) (hS : s.Safe lf lg cq) :
    ((State.nonFinite s r c n detail)).Safe lf lg cq := by
  unfold State.nonFinite
  repeat' (first
    | with_reducible assumption
    | with_reducible apply State.bump_safe
    | with_reducible apply State.raiseRun_safe
    | with_reducible apply State.modRun_safe
    | with_reducible apply State.flag_safe
    | with_reducible apply State.count_safe
    | with_reducible apply foldl_snd2_safe
    | with_reducible refine pair3_safe (by with_reducible assumption) ?_
    | with_reducible refine pair_safe (by with_reducible assumption) ?_
    | with_reducible apply foldl_safe
    | with_reducible apply foldl_snd_safe
    | intro _
    | split
    | dsimp only
    | refine State.Safe.lit ?_ rfl rfl rfl rfl)

theorem State.ingestAgain_safe (s : State) (r : EntryRef) (c : Nat) (n : Nat) (m : Nat) (off : Nat) (bs : List Byte) (hS : s.Safe lf lg cq) :
    ((State.ingestAgain s r c n m off bs).2).Safe lf lg cq := by
  unfold State.ingestAgain
  repeat' (first
    | with_reducible assumption
    | with_reducible apply State.bump_safe
    | with_reducible apply State.modRun_safe
    | with_reducible apply State.codeSat_safe
    | with_reducible apply State.nonFinite_safe
    | with_reducible apply State.count_safe
    | with_reducible apply foldl_snd2_safe
    | with_reducible refine pair3_safe (by with_reducible assumption) ?_
    | with_reducible refine pair_safe (by with_reducible assumption) ?_
    | with_reducible apply foldl_safe
    | with_reducible apply foldl_snd_safe
    | intro _
    | split
    | dsimp only
    | refine State.Safe.lit ?_ rfl rfl rfl rfl)

theorem State.ingestAgain_safe' {s : State} {r : EntryRef} {c : Nat} {n : Nat} {m : Nat} {off : Nat} {bs : List Byte} {y0 t} (eqn : (State.ingestAgain s r c n m off bs) = (y0, t)) (hS : s.Safe lf lg cq)  : t.Safe lf lg cq := by
  have := State.ingestAgain_safe s r c n m off bs hS
  rw [eqn] at this; exact this

theorem gather_safe {α : Type} (s : State) (lo : Nat) (n : Nat) (f : State → Nat → Nat → Except RdFail (List α) × State) (hS : s.Safe lf lg cq) (hff : ∀ x0 x1 x2, x0.Safe lf lg cq → (f x0 x1 x2).2.Safe lf lg cq) :
    ((gather s lo n f).2).Safe lf lg cq := by
  unfold gather
  repeat' (first
    | with_reducible assumption
    | with_reducible apply hff
    | with_reducible refine prod_safe (by with_reducible assumption) (hff _ _ _ ?_)
    | with_reducible apply foldl_snd2_safe
    | with_reducible refine pair3_safe (by with_reducible assumption) ?_
    | with_reducible refine pair_safe (by with_reducible assumption) ?_
    | with_reducible apply foldl_safe
    | with_reducible apply foldl_snd_safe
    | intro _
    | split
    | dsimp only
    | refine State.Safe.lit ?_ rfl rfl rfl rfl)

theorem gather_safe' {α : Type} {s : State} {lo : Nat} {n : Nat} {f : State → Nat → Nat → Except RdFail (List α) × State} {y0 t} (eqn : (gather s lo n f) = (y0, t)) (hS : s.Safe lf lg cq) (hff : ∀ x0 x1 x2, x0.Safe lf lg cq → (f x0 x1 x2).2.Safe lf lg cq) : t.Safe lf lg cq := by
  have := gather_safe s lo n f hS hff
  rw [eqn] at this; exact this

theorem State.againRow_safe (s : State) (r : EntryRef) (c : Nat) (n : Nat) (m : Nat) (hS : s.Safe lf lg cq) :
    ((State.againRow s r c n m).2).Safe lf lg cq := by
  unfold State.againRow
  repeat' (first
    | with_reducible assumption
    | with_reducible apply State.byteRun_safe
    | with_reducible refine State.byteRun_safe' (by with_reducible assumption) ?_
    | with_reducible apply State.modRun_safe
    | with_reducible apply State.ingestAgain_safe
    | with_reducible refine State.ingestAgain_safe' (by with_reducible assumption) ?_
    | with_reducible apply gather_safe
    | with_reducible refine gather_safe' (by with_reducible assumption) ?_
    | with_reducible apply foldl_snd2_safe
    | with_reducible refine pair3_safe (by with_reducible assumption) ?_
    | with_reducible refine pair_safe (by with_reducible assumption) ?_
    | with_reducible apply foldl_safe
    | with_reducible apply foldl_snd_safe
    | intro _
    | split
    | dsimp only
    | refine State.Safe.lit ?_ rfl rfl rfl rfl)

theorem State.againRow_safe' {s : State} {r : EntryRef} {c : Nat} {n : Nat} {m : Nat} {y0 t} (eqn : (State.againRow s r c n m) = (y0, t)) (hS : s.Safe lf lg cq)  : t.Safe lf lg cq := by
  have := State.againRow_safe s r c n m hS
  rw [eqn] at this; exact this

theorem State.codeRun_safe (s : State) (r : EntryRef) (c : Nat) (k : Nat) (m : Nat) (x : Nat) (n : Nat) (tender : Bool) (hS : s.Safe lf lg cq) :
    ((State.codeRun s r c k m x n tender).2).Safe lf lg cq := by
  unfold State.codeRun
  repeat' (first
    | with_reducible assumption
    | with_reducible apply State.laneFor_safe
    | with_reducible refine State.laneFor_safe' (by with_reducible assumption) ?_
    | with_reducible apply State.againRow_safe
    | with_reducible refine State.againRow_safe' (by with_reducible assumption) ?_
    | with_reducible apply State.inBlock_safe
    | with_reducible refine State.inBlock_safe' (by with_reducible assumption) ?_
    | with_reducible apply foldl_snd2_safe
    | with_reducible refine pair3_safe (by with_reducible assumption) ?_
    | with_reducible refine pair_safe (by with_reducible assumption) ?_
    | with_reducible apply foldl_safe
    | with_reducible apply foldl_snd_safe
    | intro _
    | split
    | dsimp only
    | refine State.Safe.lit ?_ rfl rfl rfl rfl)

theorem State.codeRun_safe' {s : State} {r : EntryRef} {c : Nat} {k : Nat} {m : Nat} {x : Nat} {n : Nat} {tender : Bool} {y0 t} (eqn : (State.codeRun s r c k m x n tender) = (y0, t)) (hS : s.Safe lf lg cq)  : t.Safe lf lg cq := by
  have := State.codeRun_safe s r c k m x n tender hS
  rw [eqn] at this; exact this

theorem State.inRow_safe (s : State) (r : EntryRef) (c : Nat) (f : Nat) (n : Nat) (m : Nat) (lo : Nat) (len : Nat) (tender : Bool) (live : Nat → Bool) (hS : s.Safe lf lg cq) :
    ((State.inRow s r c f n m lo len tender live).2).Safe lf lg cq := by
  unfold State.inRow
  repeat' (first
    | with_reducible assumption
    | with_reducible apply State.byteRun_safe
    | with_reducible refine State.byteRun_safe' (by with_reducible assumption) ?_
    | with_reducible apply State.codeRun_safe
    | with_reducible refine State.codeRun_safe' (by with_reducible assumption) ?_
    | with_reducible apply State.codeSat_safe
    | with_reducible apply gather_safe
    | with_reducible refine gather_safe' (by with_reducible assumption) ?_
    | with_reducible apply foldl_snd2_safe
    | with_reducible refine pair3_safe (by with_reducible assumption) ?_
    | with_reducible refine pair_safe (by with_reducible assumption) ?_
    | with_reducible apply foldl_safe
    | with_reducible apply foldl_snd_safe
    | intro _
    | split
    | dsimp only
    | refine State.Safe.lit ?_ rfl rfl rfl rfl)

theorem State.inRow_safe' {s : State} {r : EntryRef} {c : Nat} {f : Nat} {n : Nat} {m : Nat} {lo : Nat} {len : Nat} {tender : Bool} {live : Nat → Bool} {y0 t} (eqn : (State.inRow s r c f n m lo len tender live) = (y0, t)) (hS : s.Safe lf lg cq)  : t.Safe lf lg cq := by
  have := State.inRow_safe s r c f n m lo len tender live hS
  rw [eqn] at this; exact this

theorem State.passEnd_safe (s : State) (r : EntryRef) (c : Nat) (hS : s.Safe lf lg cq) :
    ((State.passEnd s r c)).Safe lf lg cq := by
  unfold State.passEnd
  repeat' (first
    | with_reducible assumption
    | with_reducible apply State.modShare_safe
    | with_reducible apply State.modRun_safe
    | with_reducible apply foldl_snd2_safe
    | with_reducible refine pair3_safe (by with_reducible assumption) ?_
    | with_reducible refine pair_safe (by with_reducible assumption) ?_
    | with_reducible apply foldl_safe
    | with_reducible apply foldl_snd_safe
    | intro _
    | split
    | dsimp only
    | refine State.Safe.lit ?_ rfl rfl rfl rfl)

theorem State.operandRow_safe (s : State) (r : EntryRef) (c : Nat) (w : Quad) (m : Nat) (live : Nat → Bool) (hS : s.Safe lf lg cq) :
    ((State.operandRow s r c w m live).2).Safe lf lg cq := by
  unfold State.operandRow
  repeat' (first
    | with_reducible assumption
    | with_reducible apply State.readReg_safe
    | with_reducible refine State.readReg_safe' (by with_reducible assumption) ?_
    | with_reducible apply State.ingestAgain_safe
    | with_reducible refine State.ingestAgain_safe' (by with_reducible assumption) ?_
    | with_reducible apply State.codeSat_safe
    | with_reducible apply gather_safe
    | with_reducible refine gather_safe' (by with_reducible assumption) ?_
    | with_reducible apply State.laneMismatch_safe
    | with_reducible apply foldl_snd2_safe
    | with_reducible refine pair3_safe (by with_reducible assumption) ?_
    | with_reducible refine pair_safe (by with_reducible assumption) ?_
    | with_reducible apply foldl_safe
    | with_reducible apply foldl_snd_safe
    | intro _
    | split
    | dsimp only
    | refine State.Safe.lit ?_ rfl rfl rfl rfl)

theorem State.operandRow_safe' {s : State} {r : EntryRef} {c : Nat} {w : Quad} {m : Nat} {live : Nat → Bool} {y0 t} (eqn : (State.operandRow s r c w m live) = (y0, t)) (hS : s.Safe lf lg cq)  : t.Safe lf lg cq := by
  have := State.operandRow_safe s r c w m live hS
  rw [eqn] at this; exact this

theorem State.operands_safe (s : State) (r : EntryRef) (c : Nat) (m : Nat) (chain : List Quad) (live : Nat → Bool) (hS : s.Safe lf lg cq) :
    ((State.operands s r c m chain live).2).Safe lf lg cq := by
  unfold State.operands
  repeat' (first
    | with_reducible assumption
    | with_reducible apply State.operandRow_safe
    | with_reducible refine State.operandRow_safe' (by with_reducible assumption) ?_
    | with_reducible apply foldl_snd2_safe
    | with_reducible refine pair3_safe (by with_reducible assumption) ?_
    | with_reducible refine pair_safe (by with_reducible assumption) ?_
    | with_reducible apply foldl_safe
    | with_reducible apply foldl_snd_safe
    | intro _
    | split
    | dsimp only
    | refine State.Safe.lit ?_ rfl rfl rfl rfl)

theorem State.operands_safe' {s : State} {r : EntryRef} {c : Nat} {m : Nat} {chain : List Quad} {live : Nat → Bool} {y0 t} (eqn : (State.operands s r c m chain live) = (y0, t)) (hS : s.Safe lf lg cq)  : t.Safe lf lg cq := by
  have := State.operands_safe s r c m chain live hS
  rw [eqn] at this; exact this

theorem State.chainRow_safe (s : State) (r : EntryRef) (h : HeldRow) (hS : s.Safe lf lg cq) :
    ((State.chainRow s r h)).Safe lf lg cq := by
  unfold State.chainRow
  repeat' (first
    | with_reducible assumption
    | with_reducible apply State.failRow_safe
    | with_reducible apply State.modShare_safe
    | with_reducible apply State.passEnd_safe
    | with_reducible apply State.operands_safe
    | with_reducible refine State.operands_safe' (by with_reducible assumption) ?_
    | with_reducible apply State.modRun_safe
    | with_reducible apply State.codeSat_safe
    | with_reducible apply State.flushAll_safe
    | with_reducible apply State.nonFinite_safe
    | with_reducible apply State.count_safe
    | with_reducible apply foldl_snd2_safe
    | with_reducible refine pair3_safe (by with_reducible assumption) ?_
    | with_reducible refine pair_safe (by with_reducible assumption) ?_
    | with_reducible apply foldl_safe
    | with_reducible apply foldl_snd_safe
    | intro _
    | split
    | dsimp only
    | refine State.Safe.lit ?_ rfl rfl rfl rfl)

theorem State.claimLost_safe (s : State) (r : EntryRef) (c : Nat) (tile : Nat) (hS : s.Safe lf lg cq) :
    ((State.claimLost s r c tile)).Safe lf lg cq := by
  unfold State.claimLost
  repeat' (first
    | with_reducible assumption
    | with_reducible apply State.raiseRun_safe
    | with_reducible apply State.endRun_safe
    | with_reducible apply foldl_snd2_safe
    | with_reducible refine pair3_safe (by with_reducible assumption) ?_
    | with_reducible refine pair_safe (by with_reducible assumption) ?_
    | with_reducible apply foldl_safe
    | with_reducible apply foldl_snd_safe
    | intro _
    | split
    | dsimp only
    | refine State.Safe.lit ?_ rfl rfl rfl rfl)

theorem State.yBlock_safe (s : State) (r : EntryRef) (c : Nat) (j : Nat) (hS : s.Safe lf lg cq) :
    ((State.yBlock s r c j).2).Safe lf lg cq := by
  unfold State.yBlock
  repeat' (first
    | with_reducible assumption
    | with_reducible apply State.readReg_safe
    | with_reducible refine State.readReg_safe' (by with_reducible assumption) ?_
    | with_reducible apply State.modRun_safe
    | with_reducible apply foldl_snd2_safe
    | with_reducible refine pair3_safe (by with_reducible assumption) ?_
    | with_reducible refine pair_safe (by with_reducible assumption) ?_
    | with_reducible apply foldl_safe
    | with_reducible apply foldl_snd_safe
    | intro _
    | split
    | dsimp only
    | refine State.Safe.lit ?_ rfl rfl rfl rfl)

theorem State.yBlock_safe' {s : State} {r : EntryRef} {c : Nat} {j : Nat} {y0 t} (eqn : (State.yBlock s r c j) = (y0, t)) (hS : s.Safe lf lg cq)  : t.Safe lf lg cq := by
  have := State.yBlock_safe s r c j hS
  rw [eqn] at this; exact this

theorem State.yRow_safe (s : State) (r : EntryRef) (c : Nat) (f : Nat) (k : Nat) (n : Nat) (lo : Nat) (len : Nat) (hS : s.Safe lf lg cq) :
    ((State.yRow s r c f k n lo len).2).Safe lf lg cq := by
  unfold State.yRow
  repeat' (first
    | with_reducible assumption
    | with_reducible apply gather_safe
    | with_reducible refine gather_safe' (by with_reducible assumption) ?_
    | with_reducible apply State.yBlock_safe
    | with_reducible refine State.yBlock_safe' (by with_reducible assumption) ?_
    | with_reducible apply foldl_snd2_safe
    | with_reducible refine pair3_safe (by with_reducible assumption) ?_
    | with_reducible refine pair_safe (by with_reducible assumption) ?_
    | with_reducible apply foldl_safe
    | with_reducible apply foldl_snd_safe
    | intro _
    | split
    | dsimp only
    | refine State.Safe.lit ?_ rfl rfl rfl rfl)

theorem State.yRow_safe' {s : State} {r : EntryRef} {c : Nat} {f : Nat} {k : Nat} {n : Nat} {lo : Nat} {len : Nat} {y0 t} (eqn : (State.yRow s r c f k n lo len) = (y0, t)) (hS : s.Safe lf lg cq)  : t.Safe lf lg cq := by
  have := State.yRow_safe s r c f k n lo len hS
  rw [eqn] at this; exact this

theorem State.wRow_safe (s : State) (r : EntryRef) (c : Nat) (k : Nat) (n : Nat) (lo : Nat) (len : Nat) (live : Nat → Bool) (hS : s.Safe lf lg cq) :
    ((State.wRow s r c k n lo len live).2).Safe lf lg cq := by
  unfold State.wRow
  repeat' (first
    | with_reducible assumption
    | with_reducible apply State.readDevReg_safe
    | with_reducible refine State.readDevReg_safe' (by with_reducible assumption) ?_
    | with_reducible apply State.codeSat_safe
    | with_reducible apply gather_safe
    | with_reducible refine gather_safe' (by with_reducible assumption) ?_
    | with_reducible apply State.laneMismatch_safe
    | with_reducible apply foldl_snd2_safe
    | with_reducible refine pair3_safe (by with_reducible assumption) ?_
    | with_reducible refine pair_safe (by with_reducible assumption) ?_
    | with_reducible apply foldl_safe
    | with_reducible apply foldl_snd_safe
    | intro _
    | split
    | dsimp only
    | refine State.Safe.lit ?_ rfl rfl rfl rfl)

theorem State.wRow_safe' {s : State} {r : EntryRef} {c : Nat} {k : Nat} {n : Nat} {lo : Nat} {len : Nat} {live : Nat → Bool} {y0 t} (eqn : (State.wRow s r c k n lo len live) = (y0, t)) (hS : s.Safe lf lg cq)  : t.Safe lf lg cq := by
  have := State.wRow_safe s r c k n lo len live hS
  rw [eqn] at this; exact this

theorem State.kpRow_safe (s : State) (r : EntryRef) (c : Nat) (m : Nat) (lo : Nat) (len : Nat) (h : Share) (hS : s.Safe lf lg cq) :
    ((State.kpRow s r c m lo len h).2).Safe lf lg cq := by
  unfold State.kpRow
  split
  · exact hS
  · extract_lets pb live run m0
    clear_value pb live run m0
    split
    · exact State.inRow_safe' (by assumption) hS
    · rename_i h1
      have h1 := State.inRow_safe' h1 hS
      refine firstFail_safe _ _ _ h1 fun t x ht => ?_
      split
      · rename_i h2
        split at h2
        · exact State.wRow_safe' h2 ht
        · exact State.yRow_safe' h2 ht
      · rename_i h2
        refine State.count_safe _ _ _ _ (State.modCore_safe _ _ _ ?_)
        split at h2
        · exact State.wRow_safe' h2 ht
        · exact State.yRow_safe' h2 ht

theorem State.kpRow_safe' {s : State} {r : EntryRef} {c : Nat} {m : Nat} {lo : Nat} {len : Nat} {h : Share} {y0 t} (eqn : (State.kpRow s r c m lo len h) = (y0, t)) (hS : s.Safe lf lg cq)  : t.Safe lf lg cq := by
  have := State.kpRow_safe s r c m lo len h hS
  rw [eqn] at this; exact this

theorem State.digitalRow_safe (s : State) (r : EntryRef) (c : Nat) (m : Nat) (hS : s.Safe lf lg cq) :
    ((State.digitalRow s r c m).2).Safe lf lg cq := by
  unfold State.digitalRow
  repeat' (first
    | with_reducible assumption
    | with_reducible apply State.kpRow_safe
    | with_reducible refine State.kpRow_safe' (by with_reducible assumption) ?_
    | with_reducible apply foldl_snd2_safe
    | with_reducible refine pair3_safe (by with_reducible assumption) ?_
    | with_reducible refine pair_safe (by with_reducible assumption) ?_
    | with_reducible apply foldl_safe
    | with_reducible apply foldl_snd_safe
    | intro _
    | split
    | dsimp only
    | refine State.Safe.lit ?_ rfl rfl rfl rfl)

theorem State.digitalRow_safe' {s : State} {r : EntryRef} {c : Nat} {m : Nat} {y0 t} (eqn : (State.digitalRow s r c m) = (y0, t)) (hS : s.Safe lf lg cq)  : t.Safe lf lg cq := by
  have := State.digitalRow_safe s r c m hS
  rw [eqn] at this; exact this

theorem State.kpEarly_safe (s : State) (r : EntryRef) (c : Nat) (hS : s.Safe lf lg cq) :
    ((State.kpEarly s r c)).Safe lf lg cq := by
  unfold State.kpEarly
  repeat' (first
    | with_reducible assumption
    | with_reducible apply State.failRow_safe
    | with_reducible apply State.modShare_safe
    | with_reducible apply State.each_safe
    | with_reducible apply State.kpRow_safe
    | with_reducible refine State.kpRow_safe' (by with_reducible assumption) ?_
    | with_reducible apply State.claimLost_safe
    | with_reducible apply foldl_snd2_safe
    | with_reducible refine pair3_safe (by with_reducible assumption) ?_
    | with_reducible refine pair_safe (by with_reducible assumption) ?_
    | with_reducible apply foldl_safe
    | with_reducible apply foldl_snd_safe
    | intro _
    | split
    | dsimp only
    | refine State.Safe.lit ?_ rfl rfl rfl rfl)

theorem State.exchange_safe (s : State) (r : EntryRef) (dst : Nat) (src : Nat) (row : Nat) (hS : s.Safe lf lg cq) :
    ((State.exchange s r dst src row)).Safe lf lg cq := by
  unfold State.exchange
  repeat' (first
    | with_reducible assumption
    | with_reducible apply State.modRun_safe
    | with_reducible apply State.flushAll_safe
    | with_reducible apply State.count_safe
    | with_reducible apply foldl_snd2_safe
    | with_reducible refine pair3_safe (by with_reducible assumption) ?_
    | with_reducible refine pair_safe (by with_reducible assumption) ?_
    | with_reducible apply foldl_safe
    | with_reducible apply foldl_snd_safe
    | intro _
    | split
    | dsimp only
    | refine State.Safe.lit ?_ rfl rfl rfl rfl)

end Sys2Proof.Machine
end

