-- ==== Sys2Proof/Laws/Safe/WaveOps.lean ====
section
/-! SUPPORT. One lemma for each operation of `Machine/WaveOps.lean` that answers a state: it keeps `State.Safe` (the primed form says
the same of an answer that is known by an equation). -/

namespace Sys2Proof.Machine
open Sys2Proof
variable {lf lg : Nat} {cq : List Instr}

theorem State.calWatch_safe (s : State) (c : Nat) (hS : s.Safe lf lg cq) :
    ((State.calWatch s c)).Safe lf lg cq := by
  unfold State.calWatch
  repeat' (first
    | with_reducible assumption
    | with_reducible apply State.each_safe
    | with_reducible apply State.setCal_safe
    | with_reducible apply foldl_snd2_safe
    | with_reducible refine pair3_safe (by with_reducible assumption) ?_
    | with_reducible refine pair_safe (by with_reducible assumption) ?_
    | with_reducible apply foldl_safe
    | with_reducible apply foldl_snd_safe
    | intro _
    | split
    | dsimp only
    | refine State.Safe.lit ?_ rfl rfl rfl rfl)

theorem State.poundSlot_safe (s : State) (c : Nat) (ws : List WaveReq) (hS : s.Safe lf lg cq) :
    ((State.poundSlot s c ws)).Safe lf lg cq := by
  unfold State.poundSlot
  repeat' (first
    | with_reducible assumption
    | with_reducible apply State.each_safe
    | with_reducible apply State.modPound_safe
    | with_reducible apply State.modQueue_safe
    | with_reducible apply foldl_snd2_safe
    | with_reducible refine pair3_safe (by with_reducible assumption) ?_
    | with_reducible refine pair_safe (by with_reducible assumption) ?_
    | with_reducible apply foldl_safe
    | with_reducible apply foldl_snd_safe
    | intro _
    | split
    | dsimp only
    | refine State.Safe.lit ?_ rfl rfl rfl rfl)

theorem State.applyShadow_safe (s : State) (a : Nat) (hS : s.Safe lf lg cq) :
    ((State.applyShadow s a)).Safe lf lg cq := by
  unfold State.applyShadow
  split
  · exact ⟨hS.mem, hS.host, NMap.sorted_set _ _ _ hS.regs, hS.ring, hS.fw, hS.cfg, hS.queue,
      { hS.canon with shadows := NMap.sorted_erase _ hS.canon.shadows }⟩
  · exact hS

theorem State.boundary_safe (s : State) (c : Nat) (hS : s.Safe lf lg cq) :
    ((State.boundary s c)).Safe lf lg cq := by
  unfold State.boundary
  repeat' (first
    | with_reducible assumption
    | with_reducible apply State.each_safe
    | with_reducible apply State.applyShadow_safe
    | with_reducible apply foldl_snd2_safe
    | with_reducible refine pair3_safe (by with_reducible assumption) ?_
    | with_reducible refine pair_safe (by with_reducible assumption) ?_
    | with_reducible apply foldl_safe
    | with_reducible apply foldl_snd_safe
    | intro _
    | split
    | dsimp only
    | refine State.Safe.lit ?_ rfl rfl rfl rfl)

theorem State.groupEnd_safe (s : State) (c : Nat) (hS : s.Safe lf lg cq) :
    ((State.groupEnd s c)).Safe lf lg cq := by
  unfold State.groupEnd
  repeat' (first
    | with_reducible assumption
    | with_reducible apply State.boundary_safe
    | with_reducible apply State.modCore_safe
    | with_reducible apply foldl_snd2_safe
    | with_reducible refine pair3_safe (by with_reducible assumption) ?_
    | with_reducible refine pair_safe (by with_reducible assumption) ?_
    | with_reducible apply foldl_safe
    | with_reducible apply foldl_snd_safe
    | intro _
    | split
    | dsimp only
    | refine State.Safe.lit ?_ rfl rfl rfl rfl)

theorem State.slotDone_safe (s : State) (c : Nat) (ws : List WaveReq) (replay : Bool) (throttled : Bool) (hS : s.Safe lf lg cq) :
    ((State.slotDone s c ws replay throttled)).Safe lf lg cq := by
  unfold State.slotDone
  repeat' (first
    | with_reducible assumption
    | with_reducible apply State.poundSlot_safe
    | with_reducible apply State.modCore_safe
    | with_reducible apply State.raise_safe
    | with_reducible apply State.groupEnd_safe
    | with_reducible apply State.flag_safe
    | with_reducible apply State.count_safe
    | with_reducible apply foldl_snd2_safe
    | with_reducible refine pair3_safe (by with_reducible assumption) ?_
    | with_reducible refine pair_safe (by with_reducible assumption) ?_
    | with_reducible apply foldl_safe
    | with_reducible apply foldl_snd_safe
    | intro _
    | split
    | dsimp only
    | refine State.Safe.lit ?_ rfl rfl rfl rfl)

theorem State.countWave_safe (s : State) (c : Nat) (w : WaveReq) (hS : s.Safe lf lg cq) :
    ((State.countWave s c w)).Safe lf lg cq := by
  unfold State.countWave
  repeat' (first
    | with_reducible assumption
    | with_reducible apply State.bump_safe
    | with_reducible apply State.modRun_safe
    | with_reducible apply State.count_safe
    | with_reducible apply foldl_snd2_safe
    | with_reducible refine pair3_safe (by with_reducible assumption) ?_
    | with_reducible refine pair_safe (by with_reducible assumption) ?_
    | with_reducible apply foldl_safe
    | with_reducible apply foldl_snd_safe
    | intro _
    | split
    | dsimp only
    | refine State.Safe.lit ?_ rfl rfl rfl rfl)

theorem State.fbMiss_safe (s : State) (c : Nat) (w : WaveReq) (fb : Nat) (hS : s.Safe lf lg cq) :
    ((State.fbMiss s c w fb)).Safe lf lg cq := by
  unfold State.fbMiss
  repeat' (first
    | with_reducible assumption
    | with_reducible apply State.bump_safe
    | with_reducible apply State.raiseRun_safe
    | with_reducible apply State.modRun_safe
    | with_reducible apply State.flag_safe
    | with_reducible apply foldl_snd2_safe
    | with_reducible refine pair3_safe (by with_reducible assumption) ?_
    | with_reducible refine pair_safe (by with_reducible assumption) ?_
    | with_reducible apply foldl_safe
    | with_reducible apply foldl_snd_safe
    | intro _
    | split
    | dsimp only
    | refine State.Safe.lit ?_ rfl rfl rfl rfl)

theorem State.driveOf_safe (s : State) (r : EntryRef) (c : Nat) (row : Nat) (slice : Nat) (kind : WaveKind) (tender : Bool) (hS : s.Safe lf lg cq) :
    ((State.driveOf s r c row slice kind tender).2).Safe lf lg cq := by
  unfold State.driveOf
  repeat' (first
    | with_reducible assumption
    | with_reducible apply State.codeRun_safe
    | with_reducible refine State.codeRun_safe' (by with_reducible assumption) ?_
    | with_reducible apply State.codeSat_safe
    | with_reducible apply foldl_snd2_safe
    | with_reducible refine pair3_safe (by with_reducible assumption) ?_
    | with_reducible refine pair_safe (by with_reducible assumption) ?_
    | with_reducible apply foldl_safe
    | with_reducible apply foldl_snd_safe
    | intro _
    | split
    | dsimp only
    | refine State.Safe.lit ?_ rfl rfl rfl rfl)

theorem State.driveOf_safe' {s : State} {r : EntryRef} {c : Nat} {row : Nat} {slice : Nat} {kind : WaveKind} {tender : Bool} {y0 t} (eqn : (State.driveOf s r c row slice kind tender) = (y0, t)) (hS : s.Safe lf lg cq)  : t.Safe lf lg cq := by
  have := State.driveOf_safe s r c row slice kind tender hS
  rw [eqn] at this; exact this

theorem State.deliver_safe (s : State) (c : Nat) (d : Delivery) (hS : s.Safe lf lg cq) :
    ((State.deliver s c d)).Safe lf lg cq := by
  unfold State.deliver
  repeat' (first
    | with_reducible assumption
    | with_reducible apply State.modCore_safe
    | with_reducible apply foldl_snd2_safe
    | with_reducible refine pair3_safe (by with_reducible assumption) ?_
    | with_reducible refine pair_safe (by with_reducible assumption) ?_
    | with_reducible apply foldl_safe
    | with_reducible apply foldl_snd_safe
    | intro _
    | split
    | dsimp only
    | refine State.Safe.lit ?_ rfl rfl rfl rfl)

theorem State.onSpare_safe (s : State) (c : Nat) (w : WaveReq) (hS : s.Safe lf lg cq) :
    ((State.onSpare s c w)).Safe lf lg cq := by
  unfold State.onSpare
  repeat' (first
    | with_reducible assumption
    | with_reducible apply State.raiseRun_safe
    | with_reducible apply State.modCore_safe
    | with_reducible apply State.modRun_safe
    | with_reducible apply State.flag_safe
    | with_reducible apply foldl_snd2_safe
    | with_reducible refine pair3_safe (by with_reducible assumption) ?_
    | with_reducible refine pair_safe (by with_reducible assumption) ?_
    | with_reducible apply foldl_safe
    | with_reducible apply foldl_snd_safe
    | intro _
    | split
    | dsimp only
    | refine State.Safe.lit ?_ rfl rfl rfl rfl)

theorem State.driveWave_safe (s : State) (c : Nat) (w : WaveReq) (hS : s.Safe lf lg cq) :
    ((State.driveWave s c w).2).Safe lf lg cq := by
  unfold State.driveWave
  repeat' (first
    | with_reducible assumption
    | with_reducible apply State.failRow_safe
    | with_reducible apply State.modArr_safe
    | with_reducible apply State.fbMiss_safe
    | with_reducible apply State.modCore_safe
    | with_reducible apply State.countWave_safe
    | with_reducible apply State.modRun_safe
    | with_reducible apply State.driveOf_safe
    | with_reducible refine State.driveOf_safe' (by with_reducible assumption) ?_
    | with_reducible apply State.deliver_safe
    | with_reducible apply State.onSpare_safe
    | with_reducible apply State.count_safe
    | with_reducible apply State.worked_safe
    | with_reducible apply foldl_snd2_safe
    | with_reducible refine pair3_safe (by with_reducible assumption) ?_
    | with_reducible refine pair_safe (by with_reducible assumption) ?_
    | with_reducible apply foldl_safe
    | with_reducible apply foldl_snd_safe
    | intro _
    | split
    | dsimp only
    | refine State.Safe.lit ?_ rfl rfl rfl rfl)

theorem State.driveWave_safe' {s : State} {c : Nat} {w : WaveReq} {y0 t} (eqn : (State.driveWave s c w) = (y0, t)) (hS : s.Safe lf lg cq)  : t.Safe lf lg cq := by
  have := State.driveWave_safe s c w hS
  rw [eqn] at this; exact this

theorem State.driveArray_safe (s : State) (c : Nat) (l : Nat) (a3 : Nat) (hS : s.Safe lf lg cq) :
    ((State.driveArray s c l a3).2).Safe lf lg cq := by
  induction a3 generalizing s with
  | zero => exact hS
  | succ n ih =>
    unfold State.driveArray
    repeat' (first
      | with_reducible assumption
      | with_reducible apply State.driveWave_safe
      | with_reducible refine State.driveWave_safe' (by with_reducible assumption) ?_
      | with_reducible apply ih
      | with_reducible refine prod_safe (by with_reducible assumption) (ih _ ?_)
      | with_reducible apply foldl_snd2_safe
      | with_reducible refine pair3_safe (by with_reducible assumption) ?_
      | with_reducible refine pair_safe (by with_reducible assumption) ?_
      | with_reducible apply foldl_safe
      | with_reducible apply foldl_snd_safe
      | intro _
      | split
      | dsimp only
      | refine State.Safe.lit ?_ rfl rfl rfl rfl)

theorem State.driveArray_safe' {s : State} {c : Nat} {l : Nat} {a3 : Nat} {y0 t} (eqn : (State.driveArray s c l a3) = (y0, t)) (hS : s.Safe lf lg cq)  : t.Safe lf lg cq := by
  have := State.driveArray_safe s c l a3 hS
  rw [eqn] at this; exact this

theorem State.refServe_safe (s : State) (c : Nat) (hS : s.Safe lf lg cq) :
    ((State.refServe s c)).Safe lf lg cq := by
  unfold State.refServe
  repeat' (first
    | with_reducible assumption
    | with_reducible apply State.driveArray_safe
    | with_reducible refine State.driveArray_safe' (by with_reducible assumption) ?_
    | with_reducible apply State.each_safe
    | with_reducible apply foldl_snd2_safe
    | with_reducible refine pair3_safe (by with_reducible assumption) ?_
    | with_reducible refine pair_safe (by with_reducible assumption) ?_
    | with_reducible apply foldl_safe
    | with_reducible apply foldl_snd_safe
    | intro _
    | split
    | dsimp only
    | refine State.Safe.lit ?_ rfl rfl rfl rfl)

theorem State.slotOrIdle_safe (s : State) (c : Nat) (ws : List WaveReq) (hS : s.Safe lf lg cq) :
    ((State.slotOrIdle s c ws)).Safe lf lg cq := by
  unfold State.slotOrIdle
  repeat' (first
    | with_reducible assumption
    | with_reducible apply State.slotDone_safe
    | with_reducible apply State.groupEnd_safe
    | with_reducible apply foldl_snd2_safe
    | with_reducible refine pair3_safe (by with_reducible assumption) ?_
    | with_reducible refine pair_safe (by with_reducible assumption) ?_
    | with_reducible apply foldl_safe
    | with_reducible apply foldl_snd_safe
    | intro _
    | split
    | dsimp only
    | refine State.Safe.lit ?_ rfl rfl rfl rfl)

theorem State.calSlot_safe (s : State) (c : Nat) (set : Nat) (hS : s.Safe lf lg cq) :
    ((State.calSlot s c set)).Safe lf lg cq := by
  unfold State.calSlot
  repeat' (first
    | with_reducible assumption
    | with_reducible apply State.calTake_safe
    | with_reducible apply State.tempUpdate_safe
    | with_reducible apply State.setCal_safe
    | with_reducible apply foldl_snd2_safe
    | with_reducible refine pair3_safe (by with_reducible assumption) ?_
    | with_reducible refine pair_safe (by with_reducible assumption) ?_
    | with_reducible apply foldl_safe
    | with_reducible apply foldl_snd_safe
    | intro _
    | split
    | dsimp only
    | refine State.Safe.lit ?_ rfl rfl rfl rfl)

theorem State.calSlots_safe (s : State) (c : Nat) (hS : s.Safe lf lg cq) :
    ((State.calSlots s c)).Safe lf lg cq := by
  unfold State.calSlots
  repeat' (first
    | with_reducible assumption
    | with_reducible apply State.each_safe
    | with_reducible apply State.calSlot_safe
    | with_reducible apply foldl_snd2_safe
    | with_reducible refine pair3_safe (by with_reducible assumption) ?_
    | with_reducible refine pair_safe (by with_reducible assumption) ?_
    | with_reducible apply foldl_safe
    | with_reducible apply foldl_snd_safe
    | intro _
    | split
    | dsimp only
    | refine State.Safe.lit ?_ rfl rfl rfl rfl)

theorem State.driveAll_safe (s : State) (c : Nat) (cal : List Nat) (hS : s.Safe lf lg cq) :
    ((State.driveAll s c cal).2).Safe lf lg cq := by
  unfold State.driveAll
  repeat' (first
    | with_reducible assumption
    | with_reducible apply State.driveArray_safe
    | with_reducible refine State.driveArray_safe' (by with_reducible assumption) ?_
    | with_reducible apply foldl_snd2_safe
    | with_reducible refine pair3_safe (by with_reducible assumption) ?_
    | with_reducible refine pair_safe (by with_reducible assumption) ?_
    | with_reducible apply foldl_safe
    | with_reducible apply foldl_snd_safe
    | intro _
    | split
    | dsimp only
    | refine State.Safe.lit ?_ rfl rfl rfl rfl)

theorem State.driveAll_safe' {s : State} {c : Nat} {cal : List Nat} {y0 t} (eqn : (State.driveAll s c cal) = (y0, t)) (hS : s.Safe lf lg cq)  : t.Safe lf lg cq := by
  have := State.driveAll_safe s c cal hS
  rw [eqn] at this; exact this

theorem State.chargeSlot_safe (s : State) (c : Nat) (w : WaveReq) (hS : s.Safe lf lg cq) :
    ((State.chargeSlot s c w)).Safe lf lg cq := by
  unfold State.chargeSlot
  repeat' (first
    | with_reducible assumption
    | with_reducible apply State.modReq_safe
    | with_reducible apply State.modPound_safe
    | with_reducible apply State.modQueue_safe
    | with_reducible apply foldl_snd2_safe
    | with_reducible refine pair3_safe (by with_reducible assumption) ?_
    | with_reducible refine pair_safe (by with_reducible assumption) ?_
    | with_reducible apply foldl_safe
    | with_reducible apply foldl_snd_safe
    | intro _
    | split
    | dsimp only
    | refine State.Safe.lit ?_ rfl rfl rfl rfl)

theorem State.swapSlot_safe (s : State) (c : Nat) (hS : s.Safe lf lg cq) :
    ((State.swapSlot s c)).Safe lf lg cq := by
  unfold State.swapSlot
  repeat' (first
    | with_reducible assumption
    | with_reducible apply State.modArr_safe
    | with_reducible apply State.each_safe
    | with_reducible apply State.trimExchange_safe
    | with_reducible apply foldl_snd2_safe
    | with_reducible refine pair3_safe (by with_reducible assumption) ?_
    | with_reducible refine pair_safe (by with_reducible assumption) ?_
    | with_reducible apply foldl_safe
    | with_reducible apply foldl_snd_safe
    | intro _
    | split
    | dsimp only
    | refine State.Safe.lit ?_ rfl rfl rfl rfl)

theorem State.fillSlot_safe (s : State) (c : Nat) (hS : s.Safe lf lg cq) :
    ((State.fillSlot s c).2).Safe lf lg cq := by
  unfold State.fillSlot
  repeat' (first
    | with_reducible assumption
    | with_reducible apply State.calSlots_safe
    | with_reducible apply State.driveAll_safe
    | with_reducible refine State.driveAll_safe' (by with_reducible assumption) ?_
    | with_reducible apply State.sessionStep_safe
    | with_reducible apply State.each_safe
    | with_reducible apply State.chargeSlot_safe
    | with_reducible apply State.swapSlot_safe
    | with_reducible apply foldl_snd2_safe
    | with_reducible refine pair3_safe (by with_reducible assumption) ?_
    | with_reducible refine pair_safe (by with_reducible assumption) ?_
    | with_reducible apply foldl_safe
    | with_reducible apply foldl_snd_safe
    | intro _
    | split
    | dsimp only
    | refine State.Safe.lit ?_ rfl rfl rfl rfl)

theorem State.fillSlot_safe' {s : State} {c : Nat} {y0 t} (eqn : (State.fillSlot s c) = (y0, t)) (hS : s.Safe lf lg cq)  : t.Safe lf lg cq := by
  have := State.fillSlot_safe s c hS
  rw [eqn] at this; exact this

theorem State.waveSlot_safe (s : State) (c : Nat) (hS : s.Safe lf lg cq) :
    ((State.waveSlot s c)).Safe lf lg cq := by
  unfold State.waveSlot
  repeat' (first
    | with_reducible assumption
    | with_reducible apply State.calWatch_safe
    | with_reducible apply State.calIdle_safe
    | with_reducible apply State.slotDone_safe
    | with_reducible apply State.boundary_safe
    | with_reducible apply State.modCore_safe
    | with_reducible apply State.countWave_safe
    | with_reducible apply State.groupEnd_safe
    | with_reducible apply State.refServe_safe
    | with_reducible apply State.slotOrIdle_safe
    | with_reducible apply State.fillSlot_safe
    | with_reducible refine State.fillSlot_safe' (by with_reducible assumption) ?_
    | with_reducible apply foldl_snd2_safe
    | with_reducible refine pair3_safe (by with_reducible assumption) ?_
    | with_reducible refine pair_safe (by with_reducible assumption) ?_
    | with_reducible apply foldl_safe
    | with_reducible apply foldl_snd_safe
    | intro _
    | split
    | dsimp only
    | refine State.Safe.lit ?_ rfl rfl rfl rfl)

theorem State.tap_safe (s : State) (c : Nat) (w : WaveRun) (codes : NMap Int) (zeros : NMap Int) (sat : List Nat) (hS : s.Safe lf lg cq) :
    ((State.tap s c w codes zeros sat)).Safe lf lg cq := by
  unfold State.tap
  repeat' (first
    | with_reducible assumption
    | with_reducible apply State.calTap_safe
    | with_reducible apply foldl_snd2_safe
    | with_reducible refine pair3_safe (by with_reducible assumption) ?_
    | with_reducible refine pair_safe (by with_reducible assumption) ?_
    | with_reducible apply foldl_safe
    | with_reducible apply foldl_snd_safe
    | intro _
    | split
    | dsimp only
    | refine State.Safe.lit ?_ rfl rfl rfl rfl)

theorem State.clipEnd_safe (s : State) (w : WaveRun) (level : Nat) (clips : List Nat) (sat : List Nat) (w7 : Bool) (hS : s.Safe lf lg cq) :
    ((State.clipEnd s w level clips sat w7)).Safe lf lg cq := by
  unfold State.clipEnd
  repeat' (first
    | with_reducible assumption
    | with_reducible apply State.bump_safe
    | with_reducible apply State.raiseRun_safe
    | with_reducible apply State.wr_safe
    | with_reducible apply State.flag_safe
    | with_reducible apply State.count_safe
    | with_reducible apply foldl_snd2_safe
    | with_reducible refine pair3_safe (by with_reducible assumption) ?_
    | with_reducible refine pair_safe (by with_reducible assumption) ?_
    | with_reducible apply foldl_safe
    | with_reducible apply foldl_snd_safe
    | intro _
    | split
    | dsimp only
    | refine State.Safe.lit ?_ rfl rfl rfl rfl)

theorem State.pushFront_safe (s : State) (c : Nat) (ws : List WaveReq) (hS : s.Safe lf lg cq) :
    ((State.pushFront s c ws)).Safe lf lg cq := by
  unfold State.pushFront
  repeat' (first
    | with_reducible assumption
    | with_reducible apply State.modCore_safe
    | with_reducible apply foldl_snd2_safe
    | with_reducible refine pair3_safe (by with_reducible assumption) ?_
    | with_reducible refine pair_safe (by with_reducible assumption) ?_
    | with_reducible apply foldl_safe
    | with_reducible apply foldl_snd_safe
    | intro _
    | split
    | dsimp only
    | refine State.Safe.lit ?_ rfl rfl rfl rfl)

theorem State.modSplit_safe (s : State) (c : Nat) (w : WaveReq) (f : SplitSeq → SplitSeq) (hS : s.Safe lf lg cq) :
    ((State.modSplit s c w f)).Safe lf lg cq := by
  unfold State.modSplit
  repeat' (first
    | with_reducible assumption
    | with_reducible apply State.modCore_safe
    | with_reducible apply foldl_snd2_safe
    | with_reducible refine pair3_safe (by with_reducible assumption) ?_
    | with_reducible refine pair_safe (by with_reducible assumption) ?_
    | with_reducible apply foldl_safe
    | with_reducible apply foldl_snd_safe
    | intro _
    | split
    | dsimp only
    | refine State.Safe.lit ?_ rfl rfl rfl rfl)

theorem State.startLevel_safe (s : State) (c : Nat) (w : WaveReq) (n : Nat) (hS : s.Safe lf lg cq) :
    ((State.startLevel s c w n)).Safe lf lg cq := by
  unfold State.startLevel
  repeat' (first
    | with_reducible assumption
    | with_reducible apply State.modCore_safe
    | with_reducible apply State.pushFront_safe
    | with_reducible apply State.modSplit_safe
    | with_reducible apply foldl_snd2_safe
    | with_reducible refine pair3_safe (by with_reducible assumption) ?_
    | with_reducible refine pair_safe (by with_reducible assumption) ?_
    | with_reducible apply foldl_safe
    | with_reducible apply foldl_snd_safe
    | intro _
    | split
    | dsimp only
    | refine State.Safe.lit ?_ rfl rfl rfl rfl)

theorem State.convert_safe (s : State) (a : Nat) (fb : Nat) (pc : Nat) (trim : Nat) (drive : List Int) (hS : s.Safe lf lg cq) :
    ((State.convert s a fb pc trim drive).2).Safe lf lg cq := by
  unfold State.convert
  repeat' (first
    | with_reducible assumption
    | with_reducible apply foldl_snd2_safe
    | with_reducible refine pair3_safe (by with_reducible assumption) ?_
    | with_reducible refine pair_safe (by with_reducible assumption) ?_
    | with_reducible apply foldl_safe
    | with_reducible apply foldl_snd_safe
    | intro _
    | split
    | dsimp only
    | refine State.Safe.lit ?_ rfl rfl rfl rfl)

theorem State.convert_safe' {s : State} {a : Nat} {fb : Nat} {pc : Nat} {trim : Nat} {drive : List Int} {y0 t} (eqn : (State.convert s a fb pc trim drive) = (y0, t)) (hS : s.Safe lf lg cq)  : t.Safe lf lg cq := by
  have := State.convert_safe s a fb pc trim drive hS
  rw [eqn] at this; exact this

theorem State.convertAll_safe (s : State) (a : Nat) (fb : Nat) (i : Nat) (trim : Nat) (drive : List Int) (hS : s.Safe lf lg cq) :
    ((State.convertAll s a fb i trim drive).2).Safe lf lg cq := by
  unfold State.convertAll
  repeat' (first
    | with_reducible assumption
    | with_reducible apply State.convert_safe
    | with_reducible refine State.convert_safe' (by with_reducible assumption) ?_
    | with_reducible apply foldl_snd2_safe
    | with_reducible refine pair3_safe (by with_reducible assumption) ?_
    | with_reducible refine pair_safe (by with_reducible assumption) ?_
    | with_reducible apply foldl_safe
    | with_reducible apply foldl_snd_safe
    | intro _
    | split
    | dsimp only
    | refine State.Safe.lit ?_ rfl rfl rfl rfl)

theorem State.convertAll_safe' {s : State} {a : Nat} {fb : Nat} {i : Nat} {trim : Nat} {drive : List Int} {y0 t} (eqn : (State.convertAll s a fb i trim drive) = (y0, t)) (hS : s.Safe lf lg cq)  : t.Safe lf lg cq := by
  have := State.convertAll_safe s a fb i trim drive hS
  rw [eqn] at this; exact this

theorem State.calSwitch_safe (s : State) (c : Nat) (set : Nat) (hS : s.Safe lf lg cq) :
    ((State.calSwitch s c set)).Safe lf lg cq := by
  unfold State.calSwitch
  repeat' (first
    | with_reducible assumption
    | with_reducible apply State.calDue_safe
    | with_reducible apply foldl_snd2_safe
    | with_reducible refine pair3_safe (by with_reducible assumption) ?_
    | with_reducible refine pair_safe (by with_reducible assumption) ?_
    | with_reducible apply foldl_safe
    | with_reducible apply foldl_snd_safe
    | intro _
    | split
    | dsimp only
    | refine State.Safe.lit ?_ rfl rfl rfl rfl)

end Sys2Proof.Machine
end

