-- ==== Sys2Proof/Laws/Safe/GroupOps.lean ====
section
/-! SUPPORT. One lemma for each operation of `Machine/GroupOps.lean` that answers a state: it keeps `State.Safe` (the primed form says
the same of an answer that is known by an equation). -/

namespace Sys2Proof.Machine
open Sys2Proof
variable {lf lg : Nat} {cq : List Instr}

theorem State.modTal_safe (s : State) (f : Tal → Tal) (hS : s.Safe lf lg cq) :
    ((State.modTal s f)).Safe lf lg cq := by
  unfold State.modTal
  repeat' (first
    | with_reducible assumption
    | with_reducible apply foldl_snd2_safe
    | with_reducible refine pair3_safe (by with_reducible assumption) ?_
    | with_reducible refine pair_safe (by with_reducible assumption) ?_
    | with_reducible apply foldl_safe
    | with_reducible apply foldl_snd_safe
    | intro _
    | split
    | dsimp only
    | refine State.Safe.lit ?_ rfl rfl rfl rfl)

theorem State.talCode_safe (s : State) (code : Nat) (hS : s.Safe lf lg cq) :
    ((State.talCode s code)).Safe lf lg cq := by
  unfold State.talCode
  repeat' (first
    | with_reducible assumption
    | with_reducible apply State.modTal_safe
    | with_reducible apply foldl_snd2_safe
    | with_reducible refine pair3_safe (by with_reducible assumption) ?_
    | with_reducible refine pair_safe (by with_reducible assumption) ?_
    | with_reducible apply foldl_safe
    | with_reducible apply foldl_snd_safe
    | intro _
    | split
    | dsimp only
    | refine State.Safe.lit ?_ rfl rfl rfl rfl)

theorem State.talSend_safe (s : State) (peers : List Nat) (typ : Nat) (pay : List Byte) (hS : s.Safe lf lg cq) :
    ((State.talSend s peers typ pay)).Safe lf lg cq := by
  unfold State.talSend
  repeat' (first
    | with_reducible assumption
    | with_reducible apply State.each_safe
    | with_reducible apply State.srnSend_safe
    | with_reducible refine State.srnSend_safe' (by with_reducible assumption) ?_
    | with_reducible apply foldl_snd2_safe
    | with_reducible refine pair3_safe (by with_reducible assumption) ?_
    | with_reducible refine pair_safe (by with_reducible assumption) ?_
    | with_reducible apply foldl_safe
    | with_reducible apply foldl_snd_safe
    | intro _
    | split
    | dsimp only
    | refine State.Safe.lit ?_ rfl rfl rfl rfl)

theorem State.talSuspect_safe (s : State) (round : Nat) (hS : s.Safe lf lg cq) :
    ((State.talSuspect s round)).Safe lf lg cq := by
  unfold State.talSuspect
  repeat' (first
    | with_reducible assumption
    | with_reducible apply State.raise_safe
    | with_reducible apply foldl_snd2_safe
    | with_reducible refine pair3_safe (by with_reducible assumption) ?_
    | with_reducible refine pair_safe (by with_reducible assumption) ?_
    | with_reducible apply foldl_safe
    | with_reducible apply foldl_snd_safe
    | intro _
    | split
    | dsimp only
    | refine State.Safe.lit ?_ rfl rfl rfl rfl)

theorem State.talJoined_safe (s : State) (r : Nat) (hS : s.Safe lf lg cq) :
    ((State.talJoined s r)).Safe lf lg cq := by
  unfold State.talJoined
  repeat' (first
    | with_reducible assumption
    | with_reducible apply State.modTal_safe
    | with_reducible apply foldl_snd2_safe
    | with_reducible refine pair3_safe (by with_reducible assumption) ?_
    | with_reducible refine pair_safe (by with_reducible assumption) ?_
    | with_reducible apply foldl_safe
    | with_reducible apply foldl_snd_safe
    | intro _
    | split
    | dsimp only
    | refine State.Safe.lit ?_ rfl rfl rfl rfl)

theorem State.talRaise_safe (s : State) (code : Nat) (sev : Nat) (round : Nat) (detail : Nat) (hS : s.Safe lf lg cq) :
    ((State.talRaise s code sev round detail)).Safe lf lg cq := by
  unfold State.talRaise
  repeat' (first
    | with_reducible assumption
    | with_reducible apply State.raise_safe
    | with_reducible apply State.flag_safe
    | with_reducible apply foldl_snd2_safe
    | with_reducible refine pair3_safe (by with_reducible assumption) ?_
    | with_reducible refine pair_safe (by with_reducible assumption) ?_
    | with_reducible apply foldl_safe
    | with_reducible apply foldl_snd_safe
    | intro _
    | split
    | dsimp only
    | refine State.Safe.lit ?_ rfl rfl rfl rfl)

theorem State.talExpelled_safe (s : State) (r : Nat) (operator : Bool) (hS : s.Safe lf lg cq) :
    ((State.talExpelled s r operator)).Safe lf lg cq := by
  unfold State.talExpelled
  repeat' (first
    | with_reducible assumption
    | with_reducible apply State.talSuspect_safe
    | with_reducible apply State.modTal_safe
    | with_reducible apply State.talRaise_safe
    | with_reducible apply foldl_snd2_safe
    | with_reducible refine pair3_safe (by with_reducible assumption) ?_
    | with_reducible refine pair_safe (by with_reducible assumption) ?_
    | with_reducible apply foldl_safe
    | with_reducible apply foldl_snd_safe
    | intro _
    | split
    | dsimp only
    | refine State.Safe.lit ?_ rfl rfl rfl rfl)

theorem State.talDiscard_safe (s : State) (g : Nat) (hS : s.Safe lf lg cq) :
    ((State.talDiscard s g).2).Safe lf lg cq := by
  unfold State.talDiscard
  repeat' (first
    | with_reducible assumption
    | with_reducible apply State.dropReq_safe
    | with_reducible apply State.each_safe
    | with_reducible apply State.modTal_safe
    | with_reducible apply State.modPound_safe
    | with_reducible apply foldl_snd2_safe
    | with_reducible refine pair3_safe (by with_reducible assumption) ?_
    | with_reducible refine pair_safe (by with_reducible assumption) ?_
    | with_reducible apply foldl_safe
    | with_reducible apply foldl_snd_safe
    | intro _
    | split
    | dsimp only
    | refine State.Safe.lit ?_ rfl rfl rfl rfl)

theorem State.talDiscard_safe' {s : State} {g : Nat} {y0 t} (eqn : (State.talDiscard s g) = (y0, t)) (hS : s.Safe lf lg cq)  : t.Safe lf lg cq := by
  have := State.talDiscard_safe s g hS
  rw [eqn] at this; exact this

theorem State.talRemove_safe (s : State) (out : List Nat) (r : Nat) (expelled : Bool) (hS : s.Safe lf lg cq) :
    ((State.talRemove s out r expelled)).Safe lf lg cq := by
  unfold State.talRemove
  repeat' (first
    | with_reducible assumption
    | with_reducible apply State.modTal_safe
    | with_reducible apply State.talDiscard_safe
    | with_reducible refine State.talDiscard_safe' (by with_reducible assumption) ?_
    | with_reducible apply State.talRaise_safe
    | with_reducible apply foldl_snd2_safe
    | with_reducible refine pair3_safe (by with_reducible assumption) ?_
    | with_reducible refine pair_safe (by with_reducible assumption) ?_
    | with_reducible apply foldl_safe
    | with_reducible apply foldl_snd_safe
    | intro _
    | split
    | dsimp only
    | refine State.Safe.lit ?_ rfl rfl rfl rfl)

theorem State.talVerdict_safe (s : State) (r : Nat) (hS : s.Safe lf lg cq) :
    ((State.talVerdict s r)).Safe lf lg cq := by
  unfold State.talVerdict
  repeat' (first
    | with_reducible assumption
    | with_reducible apply State.bump_safe
    | with_reducible apply State.talSend_safe
    | with_reducible apply State.each_safe
    | with_reducible apply State.talSuspect_safe
    | with_reducible apply State.modTal_safe
    | with_reducible apply State.talJoined_safe
    | with_reducible apply State.talExpelled_safe
    | with_reducible apply State.talRemove_safe
    | with_reducible apply State.talRaise_safe
    | with_reducible apply foldl_snd2_safe
    | with_reducible refine pair3_safe (by with_reducible assumption) ?_
    | with_reducible refine pair_safe (by with_reducible assumption) ?_
    | with_reducible apply foldl_safe
    | with_reducible apply foldl_snd_safe
    | intro _
    | split
    | dsimp only
    | refine State.Safe.lit ?_ rfl rfl rfl rfl)

theorem State.talCheck_safe (s : State) (hS : s.Safe lf lg cq) :
    ((State.talCheck s)).Safe lf lg cq := by
  unfold State.talCheck
  repeat' (first
    | with_reducible assumption
    | with_reducible apply State.modTal_safe
    | with_reducible apply State.talVerdict_safe
    | with_reducible apply State.talJoined_safe
    | with_reducible apply foldl_snd2_safe
    | with_reducible refine pair3_safe (by with_reducible assumption) ?_
    | with_reducible refine pair_safe (by with_reducible assumption) ?_
    | with_reducible apply foldl_safe
    | with_reducible apply foldl_snd_safe
    | intro _
    | split
    | dsimp only
    | refine State.Safe.lit ?_ rfl rfl rfl rfl)

theorem State.talOperator_safe (s : State) (m : Nat) (hS : s.Safe lf lg cq) :
    ((State.talOperator s m)).Safe lf lg cq := by
  unfold State.talOperator
  repeat' (first
    | with_reducible assumption
    | with_reducible apply State.talCheck_safe
    | with_reducible apply State.talExpelled_safe
    | with_reducible apply State.talRemove_safe
    | with_reducible apply foldl_snd2_safe
    | with_reducible refine pair3_safe (by with_reducible assumption) ?_
    | with_reducible refine pair_safe (by with_reducible assumption) ?_
    | with_reducible apply foldl_safe
    | with_reducible apply foldl_snd_safe
    | intro _
    | split
    | dsimp only
    | refine State.Safe.lit ?_ rfl rfl rfl rfl)

theorem State.talExpel_safe (s : State) (m : Nat) (hS : s.Safe lf lg cq) :
    ((State.talExpel s m)).Safe lf lg cq := by
  unfold State.talExpel
  repeat' (first
    | with_reducible assumption
    | with_reducible apply State.talCode_safe
    | with_reducible apply State.talSend_safe
    | with_reducible apply State.talOperator_safe
    | with_reducible apply foldl_snd2_safe
    | with_reducible refine pair3_safe (by with_reducible assumption) ?_
    | with_reducible refine pair_safe (by with_reducible assumption) ?_
    | with_reducible apply foldl_safe
    | with_reducible apply foldl_snd_safe
    | intro _
    | split
    | dsimp only
    | refine State.Safe.lit ?_ rfl rfl rfl rfl)

theorem State.talFold_safe (s : State) (gstep : Nat) (c : Nat) (hS : s.Safe lf lg cq) :
    ((State.talFold s gstep c)).Safe lf lg cq := by
  unfold State.talFold
  repeat' (first
    | with_reducible assumption
    | with_reducible apply State.modTal_safe
    | with_reducible apply foldl_snd2_safe
    | with_reducible refine pair3_safe (by with_reducible assumption) ?_
    | with_reducible refine pair_safe (by with_reducible assumption) ?_
    | with_reducible apply foldl_safe
    | with_reducible apply foldl_snd_safe
    | intro _
    | split
    | dsimp only
    | refine State.Safe.lit ?_ rfl rfl rfl rfl)

theorem State.talDone_safe (s : State) (gstep : Nat) (version : Nat) (ctxs : List Nat) (hS : s.Safe lf lg cq) :
    ((State.talDone s gstep version ctxs)).Safe lf lg cq := by
  unfold State.talDone
  repeat' (first
    | with_reducible assumption
    | with_reducible apply State.talFold_safe
    | with_reducible apply State.each_safe
    | with_reducible apply State.modTal_safe
    | with_reducible apply foldl_snd2_safe
    | with_reducible refine pair3_safe (by with_reducible assumption) ?_
    | with_reducible refine pair_safe (by with_reducible assumption) ?_
    | with_reducible apply foldl_safe
    | with_reducible apply foldl_snd_safe
    | intro _
    | split
    | dsimp only
    | refine State.Safe.lit ?_ rfl rfl rfl rfl)

theorem State.talJoin_safe (s : State) (hS : s.Safe lf lg cq) :
    ((State.talJoin s)).Safe lf lg cq := by
  unfold State.talJoin
  repeat' (first
    | with_reducible assumption
    | with_reducible apply State.talCode_safe
    | with_reducible apply State.talSend_safe
    | with_reducible apply State.modTal_safe
    | with_reducible apply foldl_snd2_safe
    | with_reducible refine pair3_safe (by with_reducible assumption) ?_
    | with_reducible refine pair_safe (by with_reducible assumption) ?_
    | with_reducible apply foldl_safe
    | with_reducible apply foldl_snd_safe
    | intro _
    | split
    | dsimp only
    | refine State.Safe.lit ?_ rfl rfl rfl rfl)

theorem State.talLeave_safe (s : State) (hS : s.Safe lf lg cq) :
    ((State.talLeave s)).Safe lf lg cq := by
  unfold State.talLeave
  repeat' (first
    | with_reducible assumption
    | with_reducible apply State.talCode_safe
    | with_reducible apply State.talSend_safe
    | with_reducible apply State.modTal_safe
    | with_reducible apply foldl_snd2_safe
    | with_reducible refine pair3_safe (by with_reducible assumption) ?_
    | with_reducible refine pair_safe (by with_reducible assumption) ?_
    | with_reducible apply foldl_safe
    | with_reducible apply foldl_snd_safe
    | intro _
    | split
    | dsimp only
    | refine State.Safe.lit ?_ rfl rfl rfl rfl)

theorem State.syncSend_safe (s : State) (m : Nat) (r : Nat) (hS : s.Safe lf lg cq) :
    ((State.syncSend s m r)).Safe lf lg cq := by
  unfold State.syncSend
  repeat' (first
    | with_reducible assumption
    | with_reducible apply State.each_safe
    | with_reducible apply State.srnSend_safe
    | with_reducible refine State.srnSend_safe' (by with_reducible assumption) ?_
    | with_reducible apply foldl_snd2_safe
    | with_reducible refine pair3_safe (by with_reducible assumption) ?_
    | with_reducible refine pair_safe (by with_reducible assumption) ?_
    | with_reducible apply foldl_safe
    | with_reducible apply foldl_snd_safe
    | intro _
    | split
    | dsimp only
    | refine State.Safe.lit ?_ rfl rfl rfl rfl)

theorem State.probeRun_safe (s : State) (c : Nat) (l : Nat) (vec : List Byte) (hS : s.Safe lf lg cq) :
    ((State.probeRun s c l vec).2.2).Safe lf lg cq := by
  unfold State.probeRun
  repeat' (first
    | with_reducible assumption
    | with_reducible apply State.reserved_safe
    | with_reducible apply State.convertAll_safe
    | with_reducible refine State.convertAll_safe' (by with_reducible assumption) ?_
    | with_reducible apply foldl_snd2_safe
    | with_reducible refine pair3_safe (by with_reducible assumption) ?_
    | with_reducible refine pair_safe (by with_reducible assumption) ?_
    | with_reducible apply foldl_safe
    | with_reducible apply foldl_snd_safe
    | intro _
    | split
    | dsimp only
    | refine State.Safe.lit ?_ rfl rfl rfl rfl)

theorem State.probeRun_safe' {s : State} {c : Nat} {l : Nat} {vec : List Byte} {y0 y1 t} (eqn : (State.probeRun s c l vec) = (y1, (y0, t))) (hS : s.Safe lf lg cq)  : t.Safe lf lg cq := by
  have := State.probeRun_safe s c l vec hS
  rw [eqn] at this; exact this

theorem State.probe_safe (s : State) (img : Image) (r : Nat) (j : Nat) (hS : s.Safe lf lg cq) :
    ((State.probe s img r j).2.2).Safe lf lg cq := by
  unfold State.probe
  extract_lets grid seed x g q
  clear_value grid x g q
  repeat' (first
    | with_reducible assumption
    | with_reducible apply State.permArr_safe
    | with_reducible apply State.transient_safe
    | with_reducible apply State.quarantine_safe
    | with_reducible apply State.probeRun_safe
    | with_reducible refine State.probeRun_safe' (by with_reducible assumption) ?_
    | split
    | with_reducible refine pair_safe (by with_reducible assumption) ?_
    | with_reducible apply foldl_safe
    | with_reducible apply foldl_snd_safe
    | with_reducible apply foldl_snd2_safe
    | intro _
    | split
    | dsimp only)

theorem State.probe_safe' {s : State} {img : Image} {r : Nat} {j : Nat} {y0 y1 t} (eqn : (State.probe s img r j) = (y1, (y0, t))) (hS : s.Safe lf lg cq)  : t.Safe lf lg cq := by
  have := State.probe_safe s img r j hS
  rw [eqn] at this; exact this

theorem State.probes_safe (s : State) (r : Nat) (hS : s.Safe lf lg cq) :
    ((State.probes s r).2.2).Safe lf lg cq := by
  unfold State.probes
  repeat' (first
    | with_reducible assumption
    | with_reducible apply State.probe_safe
    | with_reducible refine State.probe_safe' (by with_reducible assumption) ?_
    | with_reducible apply foldl_snd2_safe
    | with_reducible refine pair3_safe (by with_reducible assumption) ?_
    | with_reducible refine pair_safe (by with_reducible assumption) ?_
    | with_reducible apply foldl_safe
    | with_reducible apply foldl_snd_safe
    | intro _
    | split
    | dsimp only
    | refine State.Safe.lit ?_ rfl rfl rfl rfl)

theorem State.probes_safe' {s : State} {r : Nat} {y0 y1 t} (eqn : (State.probes s r) = (y1, (y0, t))) (hS : s.Safe lf lg cq)  : t.Safe lf lg cq := by
  have := State.probes_safe s r hS
  rw [eqn] at this; exact this

theorem State.roundClose_safe (s : State) (hS : s.Safe lf lg cq) :
    ((State.roundClose s)).Safe lf lg cq := by
  unfold State.roundClose
  repeat' (first
    | with_reducible assumption
    | with_reducible apply State.syncSend_safe
    | with_reducible apply State.talSend_safe
    | with_reducible apply State.each_safe
    | with_reducible apply State.probes_safe
    | with_reducible refine State.probes_safe' (by with_reducible assumption) ?_
    | with_reducible apply State.talCheck_safe
    | with_reducible apply State.modTal_safe
    | with_reducible apply foldl_snd2_safe
    | with_reducible refine pair3_safe (by with_reducible assumption) ?_
    | with_reducible refine pair_safe (by with_reducible assumption) ?_
    | with_reducible apply foldl_safe
    | with_reducible apply foldl_snd_safe
    | intro _
    | split
    | dsimp only
    | refine State.Safe.lit ?_ rfl rfl rfl rfl)

theorem State.tallyOut_safe (s : State) (hS : s.Safe lf lg cq) :
    ((State.tallyOut s)).Safe lf lg cq := by
  unfold State.tallyOut
  repeat' (first
    | with_reducible assumption
    | with_reducible apply State.talVerdict_safe
    | with_reducible apply foldl_snd2_safe
    | with_reducible refine pair3_safe (by with_reducible assumption) ?_
    | with_reducible refine pair_safe (by with_reducible assumption) ?_
    | with_reducible apply foldl_safe
    | with_reducible apply foldl_snd_safe
    | intro _
    | split
    | dsimp only
    | refine State.Safe.lit ?_ rfl rfl rfl rfl)

theorem State.probeLog_safe (s : State) (tally : List Byte) (hS : s.Safe lf lg cq) :
    ((State.probeLog s tally)).Safe lf lg cq := by
  unfold State.probeLog
  repeat' (first
    | with_reducible assumption
    | with_reducible apply State.each_safe
    | with_reducible apply State.talRaise_safe
    | with_reducible apply foldl_snd2_safe
    | with_reducible refine pair3_safe (by with_reducible assumption) ?_
    | with_reducible refine pair_safe (by with_reducible assumption) ?_
    | with_reducible apply foldl_safe
    | with_reducible apply foldl_snd_safe
    | intro _
    | split
    | dsimp only
    | refine State.Safe.lit ?_ rfl rfl rfl rfl)

theorem State.tallyMsg_safe (s : State) (peer : Nat) (hS : s.Safe lf lg cq) :
    ((State.tallyMsg s peer)).Safe lf lg cq := by
  unfold State.tallyMsg
  repeat' (first
    | with_reducible assumption
    | with_reducible apply State.tookMsg_safe
    | with_reducible apply State.probeLog_safe
    | with_reducible apply State.talCheck_safe
    | with_reducible apply State.modTal_safe
    | with_reducible apply foldl_snd2_safe
    | with_reducible refine pair3_safe (by with_reducible assumption) ?_
    | with_reducible refine pair_safe (by with_reducible assumption) ?_
    | with_reducible apply foldl_safe
    | with_reducible apply foldl_snd_safe
    | intro _
    | split
    | dsimp only
    | refine State.Safe.lit ?_ rfl rfl rfl rfl)

theorem State.talForm_safe (s : State) (hS : s.Safe lf lg cq) :
    ((State.talForm s)).Safe lf lg cq := by
  unfold State.talForm
  repeat' (first
    | with_reducible assumption
    | with_reducible apply State.talFold_safe
    | with_reducible apply State.each_safe
    | with_reducible apply State.modTal_safe
    | with_reducible apply foldl_snd2_safe
    | with_reducible refine pair3_safe (by with_reducible assumption) ?_
    | with_reducible refine pair_safe (by with_reducible assumption) ?_
    | with_reducible apply foldl_safe
    | with_reducible apply foldl_snd_safe
    | intro _
    | split
    | dsimp only
    | refine State.Safe.lit ?_ rfl rfl rfl rfl)

theorem State.helloMsg_safe (s : State) (peer : Nat) (hS : s.Safe lf lg cq) :
    ((State.helloMsg s peer)).Safe lf lg cq := by
  unfold State.helloMsg
  repeat' (first
    | with_reducible assumption
    | with_reducible apply State.tookMsg_safe
    | with_reducible apply State.talForm_safe
    | with_reducible apply State.modTal_safe
    | with_reducible apply State.srnSend_safe
    | with_reducible refine State.srnSend_safe' (by with_reducible assumption) ?_
    | with_reducible apply State.talRaise_safe
    | with_reducible apply foldl_snd2_safe
    | with_reducible refine pair3_safe (by with_reducible assumption) ?_
    | with_reducible refine pair_safe (by with_reducible assumption) ?_
    | with_reducible apply foldl_safe
    | with_reducible apply foldl_snd_safe
    | intro _
    | split
    | dsimp only
    | refine State.Safe.lit ?_ rfl rfl rfl rfl)

theorem State.leaveMsg_safe (s : State) (peer : Nat) (hS : s.Safe lf lg cq) :
    ((State.leaveMsg s peer)).Safe lf lg cq := by
  unfold State.leaveMsg
  repeat' (first
    | with_reducible assumption
    | with_reducible apply State.tookMsg_safe
    | with_reducible apply State.talCheck_safe
    | with_reducible apply State.talRemove_safe
    | with_reducible apply foldl_snd2_safe
    | with_reducible refine pair3_safe (by with_reducible assumption) ?_
    | with_reducible refine pair_safe (by with_reducible assumption) ?_
    | with_reducible apply foldl_safe
    | with_reducible apply foldl_snd_safe
    | intro _
    | split
    | dsimp only
    | refine State.Safe.lit ?_ rfl rfl rfl rfl)

theorem State.syncAdapter_safe (s : State) (c : Nat) (bs : List Byte) (hS : s.Safe lf lg cq) :
    ((State.syncAdapter s c bs).2).Safe lf lg cq := by
  unfold State.syncAdapter
  repeat' (first
    | with_reducible assumption
    | with_reducible apply State.wireIn_safe
    | with_reducible refine State.wireIn_safe' (by with_reducible assumption) ?_
    | with_reducible apply State.takeSlot_safe
    | with_reducible refine State.takeSlot_safe' (by with_reducible assumption) ?_
    | with_reducible apply State.modCtx_safe
    | with_reducible apply foldl_snd2_safe
    | with_reducible refine pair3_safe (by with_reducible assumption) ?_
    | with_reducible refine pair_safe (by with_reducible assumption) ?_
    | with_reducible apply foldl_safe
    | with_reducible apply foldl_snd_safe
    | intro _
    | split
    | dsimp only
    | refine State.Safe.lit ?_ rfl rfl rfl rfl)

theorem State.syncAdapter_safe' {s : State} {c : Nat} {bs : List Byte} {y0 t} (eqn : (State.syncAdapter s c bs) = (y0, t)) (hS : s.Safe lf lg cq)  : t.Safe lf lg cq := by
  have := State.syncAdapter_safe s c bs hS
  rw [eqn] at this; exact this

theorem State.talSynced_safe (s : State) (r : Nat) (hS : s.Safe lf lg cq) :
    ((State.talSynced s r)).Safe lf lg cq := by
  unfold State.talSynced
  repeat' (first
    | with_reducible assumption
    | with_reducible apply State.dropReq_safe
    | with_reducible apply State.each_safe
    | with_reducible apply State.modTal_safe
    | with_reducible apply State.modPound_safe
    | with_reducible apply State.talRaise_safe
    | with_reducible apply foldl_snd2_safe
    | with_reducible refine pair3_safe (by with_reducible assumption) ?_
    | with_reducible refine pair_safe (by with_reducible assumption) ?_
    | with_reducible apply foldl_safe
    | with_reducible apply foldl_snd_safe
    | intro _
    | split
    | dsimp only
    | refine State.Safe.lit ?_ rfl rfl rfl rfl)

theorem State.syncMsg_safe (s : State) (peer : Nat) (hS : s.Safe lf lg cq) :
    ((State.syncMsg s peer)).Safe lf lg cq := by
  unfold State.syncMsg
  repeat' (first
    | with_reducible assumption
    | with_reducible apply State.tookMsg_safe
    | with_reducible apply State.wireIn_safe
    | with_reducible refine State.wireIn_safe' (by with_reducible assumption) ?_
    | with_reducible apply State.modTal_safe
    | with_reducible apply State.talSynced_safe
    | with_reducible apply State.syncAdapter_safe
    | with_reducible refine State.syncAdapter_safe' (by with_reducible assumption) ?_
    | with_reducible apply State.modCtx_safe
    | with_reducible apply foldl_snd2_safe
    | with_reducible refine pair3_safe (by with_reducible assumption) ?_
    | with_reducible refine pair_safe (by with_reducible assumption) ?_
    | with_reducible apply foldl_safe
    | with_reducible apply foldl_snd_safe
    | intro _
    | split
    | dsimp only
    | refine State.Safe.lit ?_ rfl rfl rfl rfl)

theorem State.expelMsg_safe (s : State) (peer : Nat) (hS : s.Safe lf lg cq) :
    ((State.expelMsg s peer)).Safe lf lg cq := by
  unfold State.expelMsg
  repeat' (first
    | with_reducible assumption
    | with_reducible apply State.tookMsg_safe
    | with_reducible apply State.talOperator_safe
    | with_reducible apply State.talCheck_safe
    | with_reducible apply State.modTal_safe
    | with_reducible apply State.talExpelled_safe
    | with_reducible apply State.talRemove_safe
    | with_reducible apply foldl_snd2_safe
    | with_reducible refine pair3_safe (by with_reducible assumption) ?_
    | with_reducible refine pair_safe (by with_reducible assumption) ?_
    | with_reducible apply foldl_safe
    | with_reducible apply foldl_snd_safe
    | intro _
    | split
    | dsimp only
    | refine State.Safe.lit ?_ rfl rfl rfl rfl)

end Sys2Proof.Machine
end

