-- ==== Sys2Proof/Laws/Safe/LinkOps.lean ====
section
/-! SUPPORT. One lemma for each operation of `Machine/LinkOps.lean` that answers a state: it keeps `State.Safe` (the primed form says
the same of an answer that is known by an equation). -/

namespace Sys2Proof.Machine
open Sys2Proof
variable {lf lg : Nat} {cq : List Instr}

theorem State.portDown_safe (s : State) (p : Nat) (hS : s.Safe lf lg cq) :
    ((State.portDown s p)).Safe lf lg cq := by
  unfold State.portDown
  repeat' (first
    | with_reducible assumption
    | with_reducible apply State.raise_safe
    | with_reducible apply State.wf__safe
    | with_reducible apply foldl_snd2_safe
    | with_reducible refine pair3_safe (by with_reducible assumption) ?_
    | with_reducible refine pair_safe (by with_reducible assumption) ?_
    | with_reducible apply foldl_safe
    | with_reducible apply foldl_snd_safe
    | intro _
    | split
    | dsimp only
    | refine State.Safe.lit ?_ rfl rfl rfl rfl)

theorem State.srnOpen_safe (s : State) (i : Nat) (hS : s.Safe lf lg cq) :
    ((State.srnOpen s i)).Safe lf lg cq := by
  unfold State.srnOpen
  repeat' (first
    | with_reducible assumption
    | with_reducible apply State.openBegin_safe
    | with_reducible apply foldl_snd2_safe
    | with_reducible refine pair3_safe (by with_reducible assumption) ?_
    | with_reducible refine pair_safe (by with_reducible assumption) ?_
    | with_reducible apply foldl_safe
    | with_reducible apply foldl_snd_safe
    | intro _
    | split
    | dsimp only
    | refine State.Safe.lit ?_ rfl rfl rfl rfl)

theorem State.srnReload_safe (s : State) (p : Path) (hS : s.Safe lf lg cq) :
    ((State.srnReload s p)).Safe lf lg cq := by
  unfold State.srnReload
  repeat' (first
    | with_reducible assumption
    | with_reducible apply State.ignored_safe
    | with_reducible apply State.ueRead_safe
    | split
    | split
    | exact ⟨hS.mem, hS.host, hS.regs, hS.ring, hS.fw, hS.cfg, hS.queue, { hS.canon with peers := wf_filter _ hS.canon.peers }⟩)

theorem State.srnClose_safe (s : State) (i : Nat) (hS : s.Safe lf lg cq) :
    ((State.srnClose s i)).Safe lf lg cq := by
  unfold State.srnClose
  repeat' (first
    | with_reducible assumption
    | with_reducible apply State.sirinCtl_safe
    | with_reducible apply State.closePeer_safe
    | with_reducible apply foldl_snd2_safe
    | with_reducible refine pair3_safe (by with_reducible assumption) ?_
    | with_reducible refine pair_safe (by with_reducible assumption) ?_
    | with_reducible apply foldl_safe
    | with_reducible apply foldl_snd_safe
    | intro _
    | split
    | dsimp only
    | refine State.Safe.lit ?_ rfl rfl rfl rfl)

theorem State.portUp_safe (s : State) (p : Nat) (hS : s.Safe lf lg cq) :
    ((State.portUp s p)).Safe lf lg cq := by
  unfold State.portUp
  repeat' (first
    | with_reducible assumption
    | with_reducible apply State.pump_safe
    | with_reducible apply State.each_safe
    | with_reducible apply State.raise_safe
    | with_reducible apply State.flag_safe
    | with_reducible apply foldl_snd2_safe
    | with_reducible refine pair3_safe (by with_reducible assumption) ?_
    | with_reducible refine pair_safe (by with_reducible assumption) ?_
    | with_reducible apply foldl_safe
    | with_reducible apply foldl_snd_safe
    | intro _
    | split
    | dsimp only
    | refine State.Safe.lit ?_ rfl rfl rfl rfl)

end Sys2Proof.Machine
end

