-- ==== Sys2Proof/Laws/Safe/CheckOps.lean ====
section
/-! SUPPORT. One lemma for each operation of `Machine/CheckOps.lean` that answers a state: it keeps `State.Safe` (the primed form says
the same of an answer that is known by an equation). -/

namespace Sys2Proof.Machine
open Sys2Proof
variable {lf lg : Nat} {cq : List Instr}

theorem State.coreFault_safe (s : State) (c : Nat) (mech : Nat) (unit : Nat) (row : Nat) (perm : Bool) (hS : s.Safe lf lg cq) :
    ((State.coreFault s c mech unit row perm)).Safe lf lg cq := by
  unfold State.coreFault
  repeat' (first
    | with_reducible assumption
    | with_reducible apply State.failCore_safe
    | with_reducible apply State.raise_safe
    | with_reducible apply State.faultCount_safe
    | with_reducible apply foldl_snd2_safe
    | with_reducible refine pair3_safe (by with_reducible assumption) ?_
    | with_reducible refine pair_safe (by with_reducible assumption) ?_
    | with_reducible apply foldl_safe
    | with_reducible apply foldl_snd_safe
    | intro _
    | split
    | dsimp only
    | refine State.Safe.lit ?_ rfl rfl rfl rfl)

theorem State.residueFail_safe (s : State) (r : EntryRef) (c : Nat) (unit : Nat) (hS : s.Safe lf lg cq) :
    ((State.residueFail s r c unit)).Safe lf lg cq := by
  unfold State.residueFail
  repeat' (first
    | with_reducible assumption
    | with_reducible apply State.bump_safe
    | with_reducible apply State.raiseRun_safe
    | with_reducible apply State.flag_safe
    | with_reducible apply State.count_safe
    | with_reducible apply foldl_snd2_safe
    | with_reducible refine pair3_safe (by with_reducible assumption) ?_
    | with_reducible refine pair_safe (by with_reducible assumption) ?_
    | with_reducible apply foldl_safe
    | with_reducible apply foldl_snd_safe
    | intro _
    | split
    | dsimp only
    | refine State.Safe.lit ?_ rfl rfl rfl rfl)

theorem State.residue_safe (s : State) (r : EntryRef) (c : Nat) (row : Nat) (unit : Nat) (again : Bool) (hS : s.Safe lf lg cq) :
    ((State.residue s r c row unit again)).Safe lf lg cq := by
  unfold State.residue
  repeat' (first
    | with_reducible assumption
    | with_reducible apply State.coreFault_safe
    | with_reducible apply State.residueFail_safe
    | with_reducible apply foldl_snd2_safe
    | with_reducible refine pair3_safe (by with_reducible assumption) ?_
    | with_reducible refine pair_safe (by with_reducible assumption) ?_
    | with_reducible apply foldl_safe
    | with_reducible apply foldl_snd_safe
    | intro _
    | split
    | dsimp only
    | refine State.Safe.lit ?_ rfl rfl rfl rfl)

theorem State.resHit_safe (s : State) (r : EntryRef) (c : Nat) (row : Nat) (flt : Option ResFault) (hS : s.Safe lf lg cq) :
    ((State.resHit s r c row flt)).Safe lf lg cq := by
  unfold State.resHit
  repeat' (first
    | with_reducible assumption
    | with_reducible apply State.residue_safe
    | with_reducible apply foldl_snd2_safe
    | with_reducible refine pair3_safe (by with_reducible assumption) ?_
    | with_reducible refine pair_safe (by with_reducible assumption) ?_
    | with_reducible apply foldl_safe
    | with_reducible apply foldl_snd_safe
    | intro _
    | split
    | dsimp only
    | refine State.Safe.lit ?_ rfl rfl rfl rfl)

theorem State.splitEnd_safe (s : State) (c : Nat) (q : SplitSeq) (hS : s.Safe lf lg cq) :
    ((State.splitEnd s c q)).Safe lf lg cq := by
  unfold State.splitEnd
  repeat' (first
    | with_reducible assumption
    | with_reducible apply State.tap_safe
    | with_reducible apply State.modCore_safe
    | with_reducible apply State.clipEnd_safe
    | with_reducible apply State.deliver_safe
    | with_reducible apply foldl_snd2_safe
    | with_reducible refine pair3_safe (by with_reducible assumption) ?_
    | with_reducible refine pair_safe (by with_reducible assumption) ?_
    | with_reducible apply foldl_safe
    | with_reducible apply foldl_snd_safe
    | intro _
    | split
    | dsimp only
    | refine State.Safe.lit ?_ rfl rfl rfl rfl)

theorem State.cpFail_safe (s : State) (c : Nat) (w : WaveReq) (v : Int × Nat × Nat) (hS : s.Safe lf lg cq) :
    ((State.cpFail s c w v)).Safe lf lg cq := by
  unfold State.cpFail
  repeat' (first
    | with_reducible assumption
    | with_reducible apply State.bump_safe
    | with_reducible apply State.raiseRun_safe
    | with_reducible apply State.wr_safe
    | with_reducible apply State.flag_safe
    | with_reducible apply State.count_safe
    | with_reducible apply foldl_snd2_safe
    | with_reducible refine pair3_safe (by with_reducible assumption) ?_
    | with_reducible refine pair_safe (by with_reducible assumption) ?_
    | with_reducible apply foldl_safe
    | with_reducible apply foldl_snd_safe
    | intro _
    | split
    | dsimp only
    | refine State.Safe.lit ?_ rfl rfl rfl rfl)

theorem State.repeatWave_safe (s : State) (c : Nat) (w : WaveRun) (mech : Nat) (hS : s.Safe lf lg cq) :
    ((State.repeatWave s c w mech)).Safe lf lg cq := by
  unfold State.repeatWave
  repeat' (first
    | with_reducible assumption
    | with_reducible apply State.pushFront_safe
    | with_reducible apply foldl_snd2_safe
    | with_reducible refine pair3_safe (by with_reducible assumption) ?_
    | with_reducible refine pair_safe (by with_reducible assumption) ?_
    | with_reducible apply foldl_safe
    | with_reducible apply foldl_snd_safe
    | intro _
    | split
    | dsimp only
    | refine State.Safe.lit ?_ rfl rfl rfl rfl)

theorem State.permWave_safe (s : State) (c : Nat) (w : WaveRun) (mech : Nat) (est : Nat) (hS : s.Safe lf lg cq) :
    ((State.permWave s c w mech est)).Safe lf lg cq := by
  unfold State.permWave
  repeat' (first
    | with_reducible assumption
    | with_reducible apply State.permArr_safe
    | with_reducible apply State.quarantine_safe
    | with_reducible apply foldl_snd2_safe
    | with_reducible refine pair3_safe (by with_reducible assumption) ?_
    | with_reducible refine pair_safe (by with_reducible assumption) ?_
    | with_reducible apply foldl_safe
    | with_reducible apply foldl_snd_safe
    | intro _
    | split
    | dsimp only
    | refine State.Safe.lit ?_ rfl rfl rfl rfl)

theorem State.splitRepeat_safe (s : State) (c : Nat) (q : SplitSeq) (hS : s.Safe lf lg cq) :
    ((State.splitRepeat s c q)).Safe lf lg cq := by
  unfold State.splitRepeat
  repeat' (first
    | with_reducible assumption
    | with_reducible apply State.splitEnd_safe
    | with_reducible apply State.modCore_safe
    | with_reducible apply State.cpFail_safe
    | with_reducible apply State.permWave_safe
    | with_reducible apply State.each_safe
    | with_reducible apply State.pushFront_safe
    | with_reducible apply State.modSplit_safe
    | with_reducible apply State.transient_safe
    | with_reducible apply State.deliver_safe
    | with_reducible apply foldl_snd2_safe
    | with_reducible refine pair3_safe (by with_reducible assumption) ?_
    | with_reducible refine pair_safe (by with_reducible assumption) ?_
    | with_reducible apply foldl_safe
    | with_reducible apply foldl_snd_safe
    | intro _
    | split
    | dsimp only
    | refine State.Safe.lit ?_ rfl rfl rfl rfl)

theorem State.cpSkip_safe (s : State) (c : Nat) (hS : s.Safe lf lg cq) :
    ((State.cpSkip s c)).Safe lf lg cq := by
  unfold State.cpSkip
  repeat' (first
    | with_reducible assumption
    | with_reducible apply State.bump_safe
    | with_reducible apply State.count_safe
    | with_reducible apply foldl_snd2_safe
    | with_reducible refine pair3_safe (by with_reducible assumption) ?_
    | with_reducible refine pair_safe (by with_reducible assumption) ?_
    | with_reducible apply foldl_safe
    | with_reducible apply foldl_snd_safe
    | intro _
    | split
    | dsimp only
    | refine State.Safe.lit ?_ rfl rfl rfl rfl)

theorem State.splitCheck_safe (s : State) (c : Nat) (w : WaveReq) (hS : s.Safe lf lg cq) :
    ((State.splitCheck s c w)).Safe lf lg cq := by
  unfold State.splitCheck
  repeat' (first
    | with_reducible assumption
    | with_reducible apply State.splitEnd_safe
    | with_reducible apply State.modCore_safe
    | with_reducible apply State.cpFail_safe
    | with_reducible apply State.repeatWave_safe
    | with_reducible apply State.each_safe
    | with_reducible apply State.modSplit_safe
    | with_reducible apply State.splitRepeat_safe
    | with_reducible apply State.cpSkip_safe
    | with_reducible apply foldl_snd2_safe
    | with_reducible refine pair3_safe (by with_reducible assumption) ?_
    | with_reducible refine pair_safe (by with_reducible assumption) ?_
    | with_reducible apply foldl_safe
    | with_reducible apply foldl_snd_safe
    | intro _
    | split
    | dsimp only
    | refine State.Safe.lit ?_ rfl rfl rfl rfl)

theorem State.accept_safe (s : State) (c : Nat) (w : WaveRun) (hS : s.Safe lf lg cq) :
    ((State.accept s c w)).Safe lf lg cq := by
  unfold State.accept
  repeat' (first
    | with_reducible assumption
    | with_reducible apply State.tap_safe
    | with_reducible apply State.clipEnd_safe
    | with_reducible apply State.deliver_safe
    | with_reducible apply foldl_snd2_safe
    | with_reducible refine pair3_safe (by with_reducible assumption) ?_
    | with_reducible refine pair_safe (by with_reducible assumption) ?_
    | with_reducible apply foldl_safe
    | with_reducible apply foldl_snd_safe
    | intro _
    | split
    | dsimp only
    | refine State.Safe.lit ?_ rfl rfl rfl rfl)

theorem State.settle_safe (s : State) (c : Nat) (w : WaveRun) (hS : s.Safe lf lg cq) :
    ((State.settle s c w)).Safe lf lg cq := by
  unfold State.settle
  repeat' (first
    | with_reducible assumption
    | with_reducible apply State.modCore_safe
    | with_reducible apply State.accept_safe
    | with_reducible apply foldl_snd2_safe
    | with_reducible refine pair3_safe (by with_reducible assumption) ?_
    | with_reducible refine pair_safe (by with_reducible assumption) ?_
    | with_reducible apply foldl_safe
    | with_reducible apply foldl_snd_safe
    | intro _
    | split
    | dsimp only
    | refine State.Safe.lit ?_ rfl rfl rfl rfl)

theorem State.modPart_safe (s : State) (c : Nat) (w : WaveReq) (f : PartDone → PartDone) (hS : s.Safe lf lg cq) :
    ((State.modPart s c w f)).Safe lf lg cq := by
  unfold State.modPart
  repeat' (first
    | with_reducible assumption
    | with_reducible apply State.modSplit_safe
    | with_reducible apply foldl_snd2_safe
    | with_reducible refine pair3_safe (by with_reducible assumption) ?_
    | with_reducible refine pair_safe (by with_reducible assumption) ?_
    | with_reducible apply foldl_safe
    | with_reducible apply foldl_snd_safe
    | intro _
    | split
    | dsimp only
    | refine State.Safe.lit ?_ rfl rfl rfl rfl)

theorem State.judged_safe (s : State) (c : Nat) (w : WaveRun) (bad : Option (Int × Nat × Nat)) (clipped : Bool) (hS : s.Safe lf lg cq) :
    ((State.judged s c w bad clipped)).Safe lf lg cq := by
  unfold State.judged
  repeat' (first
    | with_reducible assumption
    | with_reducible apply State.splitCheck_safe
    | with_reducible apply State.cpFail_safe
    | with_reducible apply State.repeatWave_safe
    | with_reducible apply State.permWave_safe
    | with_reducible apply State.settle_safe
    | with_reducible apply State.pushFront_safe
    | with_reducible apply State.modSplit_safe
    | with_reducible apply State.transient_safe
    | with_reducible apply State.deliver_safe
    | with_reducible apply State.modPart_safe
    | with_reducible apply State.accept_safe
    | with_reducible apply foldl_snd2_safe
    | with_reducible refine pair3_safe (by with_reducible assumption) ?_
    | with_reducible refine pair_safe (by with_reducible assumption) ?_
    | with_reducible apply foldl_safe
    | with_reducible apply foldl_snd_safe
    | intro _
    | split
    | dsimp only
    | refine State.Safe.lit ?_ rfl rfl rfl rfl)

theorem State.codesIn_safe (s : State) (c : Nat) (w : WaveRun) (hS : s.Safe lf lg cq) :
    ((State.codesIn s c w)).Safe lf lg cq := by
  unfold State.codesIn
  repeat' (first
    | with_reducible assumption
    | with_reducible apply State.modCore_safe
    | with_reducible apply State.judged_safe
    | with_reducible apply State.cpSkip_safe
    | with_reducible apply foldl_snd2_safe
    | with_reducible refine pair3_safe (by with_reducible assumption) ?_
    | with_reducible refine pair_safe (by with_reducible assumption) ?_
    | with_reducible apply foldl_safe
    | with_reducible apply foldl_snd_safe
    | intro _
    | split
    | dsimp only
    | refine State.Safe.lit ?_ rfl rfl rfl rfl)

theorem State.cpJudge_safe (s : State) (c : Nat) (sl : Nat) (hS : s.Safe lf lg cq) :
    ((State.cpJudge s c sl)).Safe lf lg cq := by
  unfold State.cpJudge
  repeat' (first
    | with_reducible assumption
    | with_reducible apply State.modCore_safe
    | with_reducible apply State.judged_safe
    | with_reducible apply State.count_safe
    | with_reducible apply foldl_snd2_safe
    | with_reducible refine pair3_safe (by with_reducible assumption) ?_
    | with_reducible refine pair_safe (by with_reducible assumption) ?_
    | with_reducible apply foldl_safe
    | with_reducible apply foldl_snd_safe
    | intro _
    | split
    | dsimp only
    | refine State.Safe.lit ?_ rfl rfl rfl rfl)

theorem State.spareBad_safe (s : State) (c : Nat) (hS : s.Safe lf lg cq) :
    ((State.spareBad s c)).Safe lf lg cq := by
  unfold State.spareBad
  repeat' (first
    | with_reducible assumption
    | with_reducible apply State.modCore_safe
    | with_reducible apply State.rotate_safe
    | with_reducible apply State.degrade_safe
    | with_reducible apply foldl_snd2_safe
    | with_reducible refine pair3_safe (by with_reducible assumption) ?_
    | with_reducible refine pair_safe (by with_reducible assumption) ?_
    | with_reducible apply foldl_safe
    | with_reducible apply foldl_snd_safe
    | intro _
    | split
    | dsimp only
    | refine State.Safe.lit ?_ rfl rfl rfl rfl)

theorem State.release_safe (s : State) (c : Nat) (w : WaveRun) (hS : s.Safe lf lg cq) :
    ((State.release s c w)).Safe lf lg cq := by
  unfold State.release
  repeat' (first
    | with_reducible assumption
    | with_reducible apply State.splitCheck_safe
    | with_reducible apply State.modPart_safe
    | with_reducible apply State.accept_safe
    | with_reducible apply foldl_snd2_safe
    | with_reducible refine pair3_safe (by with_reducible assumption) ?_
    | with_reducible refine pair_safe (by with_reducible assumption) ?_
    | with_reducible apply foldl_safe
    | with_reducible apply foldl_snd_safe
    | intro _
    | split
    | dsimp only
    | refine State.Safe.lit ?_ rfl rfl rfl rfl)

theorem State.replayJudge_safe (s : State) (c : Nat) (hS : s.Safe lf lg cq) :
    ((State.replayJudge s c)).Safe lf lg cq := by
  unfold State.replayJudge
  repeat' (first
    | with_reducible assumption
    | with_reducible apply State.bump_safe
    | with_reducible apply State.spareBad_safe
    | with_reducible apply State.modArr_safe
    | with_reducible apply State.raiseRun_safe
    | with_reducible apply State.modCore_safe
    | with_reducible apply State.repeatWave_safe
    | with_reducible apply State.flag_safe
    | with_reducible apply State.count_safe
    | with_reducible apply State.release_safe
    | with_reducible apply foldl_snd2_safe
    | with_reducible refine pair3_safe (by with_reducible assumption) ?_
    | with_reducible refine pair_safe (by with_reducible assumption) ?_
    | with_reducible apply foldl_safe
    | with_reducible apply foldl_snd_safe
    | intro _
    | split
    | dsimp only
    | refine State.Safe.lit ?_ rfl rfl rfl rfl)

theorem State.clipped_safe (s : State) (c : Nat) (w : WaveRun) (pairs : List Nat) (hS : s.Safe lf lg cq) :
    ((State.clipped s c w pairs)).Safe lf lg cq := by
  unfold State.clipped
  repeat' (first
    | with_reducible assumption
    | with_reducible apply State.bump_safe
    | with_reducible apply State.startLevel_safe
    | with_reducible apply State.modCore_safe
    | with_reducible apply State.modRun_safe
    | with_reducible apply State.modSplit_safe
    | with_reducible apply State.count_safe
    | with_reducible apply foldl_snd2_safe
    | with_reducible refine pair3_safe (by with_reducible assumption) ?_
    | with_reducible refine pair_safe (by with_reducible assumption) ?_
    | with_reducible apply foldl_safe
    | with_reducible apply foldl_snd_safe
    | intro _
    | split
    | dsimp only
    | refine State.Safe.lit ?_ rfl rfl rfl rfl)

theorem State.conversion_safe (s : State) (c : Nat) (sl : Nat) (hS : s.Safe lf lg cq) :
    ((State.conversion s c sl)).Safe lf lg cq := by
  unfold State.conversion
  repeat' (first
    | with_reducible assumption
    | with_reducible apply State.clipped_safe
    | with_reducible apply State.modCore_safe
    | with_reducible apply State.convertAll_safe
    | with_reducible refine State.convertAll_safe' (by with_reducible assumption) ?_
    | with_reducible apply State.codesIn_safe
    | with_reducible apply foldl_snd2_safe
    | with_reducible refine pair3_safe (by with_reducible assumption) ?_
    | with_reducible refine pair_safe (by with_reducible assumption) ?_
    | with_reducible apply foldl_safe
    | with_reducible apply foldl_snd_safe
    | intro _
    | split
    | dsimp only
    | refine State.Safe.lit ?_ rfl rfl rfl rfl)

end Sys2Proof.Machine
end

