-- ==== Sys2Proof/Laws/Safe/VerbOps.lean ====
section
/-! SUPPORT. One lemma for each operation of `Machine/VerbOps.lean` that answers a state: it keeps `State.Safe` (the primed form says
the same of an answer that is known by an equation). -/

namespace Sys2Proof.Machine
open Sys2Proof
variable {lf lg : Nat} {cq : List Instr}

theorem State.ingestRow_safe (s : State) (r : EntryRef) (m : Nat) (hS : s.Safe lf lg cq) :
    ((State.ingestRow s r m)).Safe lf lg cq := by
  unfold State.ingestRow
  repeat' (first
    | with_reducible assumption
    | with_reducible apply State.inRow_safe
    | with_reducible refine State.inRow_safe' (by with_reducible assumption) ?_
    | with_reducible apply State.bump_safe
    | with_reducible apply State.failRow_safe
    | with_reducible apply State.modRun_safe
    | with_reducible apply State.nonFinite_safe
    | with_reducible apply State.count_safe
    | with_reducible apply foldl_snd2_safe
    | with_reducible refine pair3_safe (by with_reducible assumption) ?_
    | with_reducible refine pair_safe (by with_reducible assumption) ?_
    | with_reducible apply foldl_safe
    | with_reducible apply foldl_snd_safe
    | intro _
    | split
    | dsimp only
    | refine State.Safe.lit ?_ rfl rfl rfl rfl)

theorem State.ingestTrip_safe (s : State) (r : EntryRef) (e : EntryRun) (c : Nat) (i : Nat) (rows : List Nat) (cause : Nat) (sats : Nat) (top : Nat) (hS : s.Safe lf lg cq) :
    ((State.ingestTrip s r e c i rows cause sats top)).Safe lf lg cq := by
  unfold State.ingestTrip
  repeat' (first
    | with_reducible assumption
    | with_reducible apply State.bump_safe
    | with_reducible apply State.ingestRow_safe
    | with_reducible apply State.modRun_safe
    | with_reducible apply State.each_safe
    | with_reducible apply State.guardTrip_safe
    | with_reducible apply State.count_safe
    | with_reducible apply foldl_snd2_safe
    | with_reducible refine pair3_safe (by with_reducible assumption) ?_
    | with_reducible refine pair_safe (by with_reducible assumption) ?_
    | with_reducible apply foldl_safe
    | with_reducible apply foldl_snd_safe
    | intro _
    | split
    | dsimp only
    | refine State.Safe.lit ?_ rfl rfl rfl rfl)

theorem State.ingestWrite_safe (s : State) (r : EntryRef) (i : Nat) (hS : s.Safe lf lg cq) :
    ((State.ingestWrite s r i)).Safe lf lg cq := by
  unfold State.ingestWrite
  repeat' (first
    | with_reducible assumption
    | with_reducible apply State.modRun_safe
    | with_reducible apply State.each_safe
    | with_reducible apply State.putLane_safe
    | with_reducible apply State.putOut_safe
    | with_reducible apply foldl_snd2_safe
    | with_reducible refine pair3_safe (by with_reducible assumption) ?_
    | with_reducible refine pair_safe (by with_reducible assumption) ?_
    | with_reducible apply foldl_safe
    | with_reducible apply foldl_snd_safe
    | intro _
    | split
    | dsimp only
    | refine State.Safe.lit ?_ rfl rfl rfl rfl)

theorem State.ingestRelease_safe (s : State) (r : EntryRef) (e : EntryRun) (i : Nat) (rows : List Nat) (hS : s.Safe lf lg cq) :
    ((State.ingestRelease s r e i rows)).Safe lf lg cq := by
  unfold State.ingestRelease
  repeat' (first
    | with_reducible assumption
    | with_reducible apply State.ingestWrite_safe
    | with_reducible apply State.modRun_safe
    | with_reducible apply State.each_safe
    | with_reducible apply State.codeSat_safe
    | with_reducible apply State.advance_safe
    | with_reducible apply foldl_snd2_safe
    | with_reducible refine pair3_safe (by with_reducible assumption) ?_
    | with_reducible refine pair_safe (by with_reducible assumption) ?_
    | with_reducible apply foldl_safe
    | with_reducible apply foldl_snd_safe
    | intro _
    | split
    | dsimp only
    | refine State.Safe.lit ?_ rfl rfl rfl rfl)

theorem State.ingestBlock_safe (s : State) (r : EntryRef) (c : Nat) (i : Nat) (flt : Option ResFault) (hS : s.Safe lf lg cq) :
    ((State.ingestBlock s r c i flt)).Safe lf lg cq := by
  unfold State.ingestBlock
  repeat' (first
    | with_reducible assumption
    | with_reducible apply State.resHit_safe
    | with_reducible apply State.ingestRow_safe
    | with_reducible apply State.ingestTrip_safe
    | with_reducible apply State.modRun_safe
    | with_reducible apply State.each_safe
    | with_reducible apply State.takeTask_safe
    | with_reducible apply State.ingestRelease_safe
    | with_reducible apply State.worked_safe
    | with_reducible apply foldl_snd2_safe
    | with_reducible refine pair3_safe (by with_reducible assumption) ?_
    | with_reducible refine pair_safe (by with_reducible assumption) ?_
    | with_reducible apply foldl_safe
    | with_reducible apply foldl_snd_safe
    | intro _
    | split
    | dsimp only
    | refine State.Safe.lit ?_ rfl rfl rfl rfl)

theorem State.adpMiss_safe (s : State) (r : EntryRef) (hS : s.Safe lf lg cq) :
    ((State.adpMiss s r)).Safe lf lg cq := by
  unfold State.adpMiss
  repeat' (first
    | with_reducible assumption
    | with_reducible apply State.raiseRun_safe
    | with_reducible apply State.modRun_safe
    | with_reducible apply State.endRun_safe
    | with_reducible apply State.startProblem_safe
    | with_reducible apply foldl_snd2_safe
    | with_reducible refine pair3_safe (by with_reducible assumption) ?_
    | with_reducible refine pair_safe (by with_reducible assumption) ?_
    | with_reducible apply foldl_safe
    | with_reducible apply foldl_snd_safe
    | intro _
    | split
    | dsimp only
    | refine State.Safe.lit ?_ rfl rfl rfl rfl)

theorem State.adpBytes_safe (s : State) (r : EntryRef) (slot : Nat) (hS : s.Safe lf lg cq) :
    ((State.adpBytes s r slot).2).Safe lf lg cq := by
  unfold State.adpBytes
  repeat' (first
    | with_reducible assumption
    | with_reducible apply State.manFailMem_safe
    | with_reducible apply State.ueMem_safe
    | with_reducible apply foldl_snd2_safe
    | with_reducible refine pair3_safe (by with_reducible assumption) ?_
    | with_reducible refine pair_safe (by with_reducible assumption) ?_
    | with_reducible apply foldl_safe
    | with_reducible apply foldl_snd_safe
    | intro _
    | split
    | dsimp only
    | refine State.Safe.lit ?_ rfl rfl rfl rfl)

theorem State.adpBytes_safe' {s : State} {r : EntryRef} {slot : Nat} {y0 t} (eqn : (State.adpBytes s r slot) = (y0, t)) (hS : s.Safe lf lg cq)  : t.Safe lf lg cq := by
  have := State.adpBytes_safe s r slot hS
  rw [eqn] at this; exact this

theorem State.adpFit_safe (s : State) (r : EntryRef) (slot : Nat) (ctx : Nat) (hS : s.Safe lf lg cq) :
    ((State.adpFit s r slot ctx)).Safe lf lg cq := by
  unfold State.adpFit
  repeat' (first
    | with_reducible assumption
    | with_reducible apply State.imgRaise_safe
    | with_reducible apply State.adpFill_safe
    | with_reducible apply foldl_snd2_safe
    | with_reducible refine pair3_safe (by with_reducible assumption) ?_
    | with_reducible refine pair_safe (by with_reducible assumption) ?_
    | with_reducible apply foldl_safe
    | with_reducible apply foldl_snd_safe
    | intro _
    | split
    | dsimp only
    | refine State.Safe.lit ?_ rfl rfl rfl rfl)

theorem State.updSkipped_safe (s : State) (ctx : Nat) (bad : Nat) (hS : s.Safe lf lg cq) :
    ((State.updSkipped s ctx bad)).Safe lf lg cq := by
  unfold State.updSkipped
  repeat' (first
    | with_reducible assumption
    | with_reducible apply State.raise_safe
    | with_reducible apply State.flag_safe
    | with_reducible apply foldl_snd2_safe
    | with_reducible refine pair3_safe (by with_reducible assumption) ?_
    | with_reducible refine pair_safe (by with_reducible assumption) ?_
    | with_reducible apply foldl_safe
    | with_reducible apply foldl_snd_safe
    | intro _
    | split
    | dsimp only
    | refine State.Safe.lit ?_ rfl rfl rfl rfl)

theorem State.fltHit_safe (s : State) (r : EntryRef) (hS : s.Safe lf lg cq) :
    ((State.fltHit s r)).Safe lf lg cq := by
  unfold State.fltHit
  repeat' (first
    | with_reducible assumption
    | with_reducible apply State.resHit_safe
    | with_reducible apply State.modRun_safe
    | with_reducible apply foldl_snd2_safe
    | with_reducible refine pair3_safe (by with_reducible assumption) ?_
    | with_reducible refine pair_safe (by with_reducible assumption) ?_
    | with_reducible apply foldl_safe
    | with_reducible apply foldl_snd_safe
    | intro _
    | split
    | dsimp only
    | refine State.Safe.lit ?_ rfl rfl rfl rfl)

theorem State.updRows_safe (s : State) (r : EntryRef) (field : Nat) (off : Nat) (b : Nat) (n : Nat) (m : Nat) (hS : s.Safe lf lg cq) :
    ((State.updRows s r field off b n m).2).Safe lf lg cq := by
  unfold State.updRows
  repeat' (first
    | with_reducible assumption
    | with_reducible apply State.readReg_safe
    | with_reducible refine State.readReg_safe' (by with_reducible assumption) ?_
    | with_reducible apply gather_safe
    | with_reducible refine gather_safe' (by with_reducible assumption) ?_
    | with_reducible apply foldl_snd2_safe
    | with_reducible refine pair3_safe (by with_reducible assumption) ?_
    | with_reducible refine pair_safe (by with_reducible assumption) ?_
    | with_reducible apply foldl_safe
    | with_reducible apply foldl_snd_safe
    | intro _
    | split
    | dsimp only
    | refine State.Safe.lit ?_ rfl rfl rfl rfl)

theorem State.updRows_safe' {s : State} {r : EntryRef} {field : Nat} {off : Nat} {b : Nat} {n : Nat} {m : Nat} {y0 t} (eqn : (State.updRows s r field off b n m) = (y0, t)) (hS : s.Safe lf lg cq)  : t.Safe lf lg cq := by
  have := State.updRows_safe s r field off b n m hS
  rw [eqn] at this; exact this

theorem State.updRun_safe (s : State) (r : EntryRef) (slot : Nat) (bs : List Byte) (hS : s.Safe lf lg cq) :
    ((State.updRun s r slot bs)).Safe lf lg cq := by
  unfold State.updRun
  repeat' (first
    | with_reducible assumption
    | with_reducible apply State.updSkipped_safe
    | with_reducible apply State.modRun_safe
    | with_reducible apply State.endRun_safe
    | with_reducible apply State.startProblem_safe
    | with_reducible apply State.fltHit_safe
    | with_reducible apply State.updRows_safe
    | with_reducible refine State.updRows_safe' (by with_reducible assumption) ?_
    | with_reducible apply State.worked_safe
    | with_reducible apply foldl_snd2_safe
    | with_reducible refine pair3_safe (by with_reducible assumption) ?_
    | with_reducible refine pair_safe (by with_reducible assumption) ?_
    | with_reducible apply foldl_safe
    | with_reducible apply foldl_snd_safe
    | intro _
    | split
    | dsimp only
    | refine State.Safe.lit ?_ rfl rfl rfl rfl)

theorem State.shareRow_safe (s : State) (r : EntryRef) (c : Nat) (row : Nat) (vals : List (Nat × Nat)) (hS : s.Safe lf lg cq) :
    ((State.shareRow s r c row vals)).Safe lf lg cq := by
  unfold State.shareRow
  repeat' (first
    | with_reducible assumption
    | with_reducible apply State.modRun_safe
    | with_reducible apply State.count_safe
    | with_reducible apply foldl_snd2_safe
    | with_reducible refine pair3_safe (by with_reducible assumption) ?_
    | with_reducible refine pair_safe (by with_reducible assumption) ?_
    | with_reducible apply foldl_safe
    | with_reducible apply foldl_snd_safe
    | intro _
    | split
    | dsimp only
    | refine State.Safe.lit ?_ rfl rfl rfl rfl)

theorem State.adaptRows_safe (s : State) (r : EntryRef) (bs : List Byte) (hS : s.Safe lf lg cq) :
    ((State.adaptRows s r bs)).Safe lf lg cq := by
  unfold State.adaptRows
  repeat' (first
    | with_reducible assumption
    | with_reducible apply State.shareRow_safe
    | with_reducible apply State.inRow_safe
    | with_reducible refine State.inRow_safe' (by with_reducible assumption) ?_
    | with_reducible apply State.failRow_safe
    | with_reducible apply State.each_safe
    | with_reducible apply State.flushAll_safe
    | with_reducible apply State.fltHit_safe
    | with_reducible apply State.count_safe
    | with_reducible apply foldl_snd2_safe
    | with_reducible refine pair3_safe (by with_reducible assumption) ?_
    | with_reducible refine pair_safe (by with_reducible assumption) ?_
    | with_reducible apply foldl_safe
    | with_reducible apply foldl_snd_safe
    | intro _
    | split
    | dsimp only
    | refine State.Safe.lit ?_ rfl rfl rfl rfl)

theorem State.adaptGo_safe (s : State) (r : EntryRef) (a2 : Nat) (hS : s.Safe lf lg cq) :
    ((State.adaptGo s r a2)).Safe lf lg cq := by
  induction a2 generalizing s with
  | zero => exact hS
  | succ n ih =>
    unfold State.adaptGo
    repeat' (first
      | with_reducible assumption
      | with_reducible apply State.bump_safe
      | with_reducible apply State.adpMiss_safe
      | with_reducible apply State.adpBytes_safe
      | with_reducible refine State.adpBytes_safe' (by with_reducible assumption) ?_
      | with_reducible apply State.adpFit_safe
      | with_reducible apply State.imgRaise_safe
      | with_reducible apply State.modRun_safe
      | with_reducible apply State.endRun_safe
      | with_reducible apply State.adpUse_safe
      | with_reducible apply State.startProblem_safe
      | with_reducible apply State.updRun_safe
      | with_reducible apply State.fetch_safe
      | with_reducible apply State.worked_safe
      | with_reducible apply State.adaptRows_safe
      | with_reducible apply ih
      | with_reducible apply foldl_snd2_safe
      | with_reducible refine pair3_safe (by with_reducible assumption) ?_
      | with_reducible refine pair_safe (by with_reducible assumption) ?_
      | with_reducible apply foldl_safe
      | with_reducible apply foldl_snd_safe
      | intro _
      | split
      | dsimp only
      | refine State.Safe.lit ?_ rfl rfl rfl rfl)

theorem State.copyEnd_safe (s : State) (r : EntryRef) (a2 : Option RdFail) (hS : s.Safe lf lg cq) :
    ((State.copyEnd s r a2)).Safe lf lg cq := by
  unfold State.copyEnd
  repeat' (first
    | with_reducible assumption
    | with_reducible apply State.endRun_safe
    | with_reducible apply foldl_snd2_safe
    | with_reducible refine pair3_safe (by with_reducible assumption) ?_
    | with_reducible refine pair_safe (by with_reducible assumption) ?_
    | with_reducible apply foldl_safe
    | with_reducible apply foldl_snd_safe
    | intro _
    | split
    | dsimp only
    | refine State.Safe.lit ?_ rfl rfl rfl rfl)

theorem copyRun_safe (s : State) (n : Nat) (rd : State → Nat → Except RdFail BlockRd × State) (wr : State → Nat → BlockRd → State) (hS : s.Safe lf lg cq) (hfrd : ∀ x0 x1, x0.Safe lf lg cq → (rd x0 x1).2.Safe lf lg cq) (hfwr : ∀ x0 x1 x2, x0.Safe lf lg cq → (wr x0 x1 x2).Safe lf lg cq) :
    ((copyRun s n rd wr).2).Safe lf lg cq := by
  unfold copyRun
  repeat' (first
    | with_reducible assumption
    | with_reducible apply hfrd
    | with_reducible refine prod_safe (by with_reducible assumption) (hfrd _ _ ?_)
    | with_reducible apply hfwr
    | with_reducible apply foldl_snd2_safe
    | with_reducible refine pair3_safe (by with_reducible assumption) ?_
    | with_reducible refine pair_safe (by with_reducible assumption) ?_
    | with_reducible apply foldl_safe
    | with_reducible apply foldl_snd_safe
    | intro _
    | split
    | dsimp only
    | refine State.Safe.lit ?_ rfl rfl rfl rfl)

theorem copyRun_safe' {s : State} {n : Nat} {rd : State → Nat → Except RdFail BlockRd × State} {wr : State → Nat → BlockRd → State} {y0 t} (eqn : (copyRun s n rd wr) = (y0, t)) (hS : s.Safe lf lg cq) (hfrd : ∀ x0 x1, x0.Safe lf lg cq → (rd x0 x1).2.Safe lf lg cq) (hfwr : ∀ x0 x1 x2, x0.Safe lf lg cq → (wr x0 x1 x2).Safe lf lg cq) : t.Safe lf lg cq := by
  have := copyRun_safe s n rd wr hS hfrd hfwr
  rw [eqn] at this; exact this

theorem State.copyAct_safe (s : State) (r : EntryRef) (c : Nat) (b : Nat) (hS : s.Safe lf lg cq) :
    ((State.copyAct s r c b).2).Safe lf lg cq := by
  unfold State.copyAct
  repeat' (first
    | with_reducible assumption
    | with_reducible apply State.ueEvent_safe
    | with_reducible apply State.manFailRun_safe
    | with_reducible apply State.count_safe
    | with_reducible apply foldl_snd2_safe
    | with_reducible refine pair3_safe (by with_reducible assumption) ?_
    | with_reducible refine pair_safe (by with_reducible assumption) ?_
    | with_reducible apply foldl_safe
    | with_reducible apply foldl_snd_safe
    | intro _
    | split
    | dsimp only
    | refine State.Safe.lit ?_ rfl rfl rfl rfl)

theorem State.copyAct_safe' {s : State} {r : EntryRef} {c : Nat} {b : Nat} {y0 t} (eqn : (State.copyAct s r c b) = (y0, t)) (hS : s.Safe lf lg cq)  : t.Safe lf lg cq := by
  have := State.copyAct_safe s r c b hS
  rw [eqn] at this; exact this

theorem State.startCopyOut_safe (s : State) (r : EntryRef) (hS : s.Safe lf lg cq) :
    ((State.startCopyOut s r)).Safe lf lg cq := by
  unfold State.startCopyOut
  repeat' (first
    | with_reducible assumption
    | with_reducible apply State.putHostBlock_safe
    | with_reducible apply State.copyEnd_safe
    | with_reducible apply State.putBlock_safe
    | with_reducible apply State.endRun_safe
    | with_reducible apply copyRun_safe
    | with_reducible refine copyRun_safe' (by with_reducible assumption) ?_
    | with_reducible apply State.copyAct_safe
    | with_reducible refine State.copyAct_safe' (by with_reducible assumption) ?_
    | with_reducible apply State.worked_safe
    | with_reducible apply foldl_snd2_safe
    | with_reducible refine pair3_safe (by with_reducible assumption) ?_
    | with_reducible refine pair_safe (by with_reducible assumption) ?_
    | with_reducible apply foldl_safe
    | with_reducible apply foldl_snd_safe
    | intro _
    | split
    | dsimp only
    | refine State.Safe.lit ?_ rfl rfl rfl rfl)

theorem State.fetchFail_safe (s : State) (ctx : Nat) (cause : Nat) (hS : s.Safe lf lg cq) :
    ((State.fetchFail s ctx cause)).Safe lf lg cq := by
  unfold State.fetchFail
  repeat' (first
    | with_reducible assumption
    | with_reducible apply State.bump_safe
    | with_reducible apply State.adpMiss_safe
    | with_reducible apply State.imgRaise_safe
    | with_reducible apply State.each_safe
    | with_reducible apply State.adaptGo_safe
    | with_reducible apply foldl_snd2_safe
    | with_reducible refine pair3_safe (by with_reducible assumption) ?_
    | with_reducible refine pair_safe (by with_reducible assumption) ?_
    | with_reducible apply foldl_safe
    | with_reducible apply foldl_snd_safe
    | intro _
    | split
    | dsimp only
    | refine State.Safe.lit ?_ rfl rfl rfl rfl)

theorem State.adpSettle_safe (s : State) (hS : s.Safe lf lg cq) :
    ((State.adpSettle s)).Safe lf lg cq := by
  unfold State.adpSettle
  repeat' (first
    | with_reducible assumption
    | with_reducible apply State.fetchNext_safe
    | with_reducible apply State.fetchFail_safe
    | with_reducible apply State.evictTo_safe
    | with_reducible apply State.each_safe
    | with_reducible apply State.evictRun_safe
    | with_reducible apply foldl_snd2_safe
    | with_reducible refine pair3_safe (by with_reducible assumption) ?_
    | with_reducible refine pair_safe (by with_reducible assumption) ?_
    | with_reducible apply foldl_safe
    | with_reducible apply foldl_snd_safe
    | intro _
    | split
    | dsimp only
    | refine State.Safe.lit ?_ rfl rfl rfl rfl)

theorem State.markAborted_safe (s : State) (r : Nat) (hS : s.Safe lf lg cq) :
    ((State.markAborted s r)).Safe lf lg cq := by
  unfold State.markAborted
  repeat' (first
    | with_reducible assumption
    | with_reducible apply State.modReq_safe
    | with_reducible apply State.modQueue_safe
    | with_reducible apply foldl_snd2_safe
    | with_reducible refine pair3_safe (by with_reducible assumption) ?_
    | with_reducible refine pair_safe (by with_reducible assumption) ?_
    | with_reducible apply foldl_safe
    | with_reducible apply foldl_snd_safe
    | intro _
    | split
    | dsimp only
    | refine State.Safe.lit ?_ rfl rfl rfl rfl)

theorem State.forwardShut_safe (s : State) (r : EntryRef) (i : Nat) (hS : s.Safe lf lg cq) :
    ((State.forwardShut s r i)).Safe lf lg cq := by
  unfold State.forwardShut
  repeat' (first
    | with_reducible assumption
    | with_reducible apply State.markAborted_safe
    | with_reducible apply State.reqRecord_safe
    | with_reducible apply State.endRun_safe
    | with_reducible apply foldl_snd2_safe
    | with_reducible refine pair3_safe (by with_reducible assumption) ?_
    | with_reducible refine pair_safe (by with_reducible assumption) ?_
    | with_reducible apply foldl_safe
    | with_reducible apply foldl_snd_safe
    | intro _
    | split
    | dsimp only
    | refine State.Safe.lit ?_ rfl rfl rfl rfl)

theorem State.forwardIn_safe (s : State) (r : EntryRef) (hS : s.Safe lf lg cq) :
    ((State.forwardIn s r)).Safe lf lg cq := by
  unfold State.forwardIn
  repeat' (first
    | with_reducible assumption
    | with_reducible apply State.forwardShut_safe
    | with_reducible apply State.modRun_safe
    | with_reducible apply State.endRun_safe
    | with_reducible apply State.modReq_safe
    | with_reducible apply State.enter_safe
    | with_reducible apply foldl_snd2_safe
    | with_reducible refine pair3_safe (by with_reducible assumption) ?_
    | with_reducible refine pair_safe (by with_reducible assumption) ?_
    | with_reducible apply foldl_safe
    | with_reducible apply foldl_snd_safe
    | intro _
    | split
    | dsimp only
    | refine State.Safe.lit ?_ rfl rfl rfl rfl)

theorem State.forwardNext_safe (s : State) (hS : s.Safe lf lg cq) :
    ((State.forwardNext s)).Safe lf lg cq := by
  unfold State.forwardNext
  repeat' (first
    | with_reducible assumption
    | with_reducible apply State.forwardIn_safe
    | with_reducible apply State.each_safe
    | with_reducible apply foldl_snd2_safe
    | with_reducible refine pair3_safe (by with_reducible assumption) ?_
    | with_reducible refine pair_safe (by with_reducible assumption) ?_
    | with_reducible apply foldl_safe
    | with_reducible apply foldl_snd_safe
    | intro _
    | split
    | dsimp only
    | refine State.Safe.lit ?_ rfl rfl rfl rfl)

theorem State.haloAbandon_safe (s : State) (c : Nat) (right : Bool) (hS : s.Safe lf lg cq) :
    ((State.haloAbandon s c right)).Safe lf lg cq := by
  unfold State.haloAbandon
  repeat' (first
    | with_reducible assumption
    | with_reducible apply State.fresh_safe
    | with_reducible refine State.fresh_safe' (by with_reducible assumption) ?_
    | with_reducible apply State.raiseRun_safe
    | with_reducible apply State.modCore_safe
    | with_reducible apply State.putAct_safe
    | with_reducible apply State.each_safe
    | with_reducible apply State.endRun_safe
    | with_reducible apply State.flag_safe
    | with_reducible apply State.count_safe
    | with_reducible apply foldl_snd2_safe
    | with_reducible refine pair3_safe (by with_reducible assumption) ?_
    | with_reducible refine pair_safe (by with_reducible assumption) ?_
    | with_reducible apply foldl_safe
    | with_reducible apply foldl_snd_safe
    | intro _
    | split
    | dsimp only
    | refine State.Safe.lit ?_ rfl rfl rfl rfl)

theorem State.haloCheck_safe (s : State) (r : EntryRef) (hS : s.Safe lf lg cq) :
    ((State.haloCheck s r)).Safe lf lg cq := by
  unfold State.haloCheck
  repeat' (first
    | with_reducible assumption
    | with_reducible apply State.endRun_safe
    | with_reducible apply foldl_snd2_safe
    | with_reducible refine pair3_safe (by with_reducible assumption) ?_
    | with_reducible refine pair_safe (by with_reducible assumption) ?_
    | with_reducible apply foldl_safe
    | with_reducible apply foldl_snd_safe
    | intro _
    | split
    | dsimp only
    | refine State.Safe.lit ?_ rfl rfl rfl rfl)

theorem State.haloArrive_safe (s : State) (c : Nat) (right : Bool) (hS : s.Safe lf lg cq) :
    ((State.haloArrive s c right)).Safe lf lg cq := by
  unfold State.haloArrive
  repeat' (first
    | with_reducible assumption
    | with_reducible apply State.raiseRun_safe
    | with_reducible apply State.modCore_safe
    | with_reducible apply State.putAct_safe
    | with_reducible apply State.each_safe
    | with_reducible apply State.endRun_safe
    | with_reducible apply copyRun_safe
    | with_reducible refine copyRun_safe' (by with_reducible assumption) ?_
    | with_reducible apply State.haloCheck_safe
    | with_reducible apply State.flag_safe
    | with_reducible apply State.copyAct_safe
    | with_reducible refine State.copyAct_safe' (by with_reducible assumption) ?_
    | with_reducible apply State.count_safe
    | with_reducible apply State.worked_safe
    | with_reducible apply foldl_snd2_safe
    | with_reducible refine pair3_safe (by with_reducible assumption) ?_
    | with_reducible refine pair_safe (by with_reducible assumption) ?_
    | with_reducible apply foldl_safe
    | with_reducible apply foldl_snd_safe
    | intro _
    | split
    | dsimp only
    | refine State.Safe.lit ?_ rfl rfl rfl rfl)

theorem State.startSignal_safe (s : State) (r : EntryRef) (hS : s.Safe lf lg cq) :
    ((State.startSignal s r)).Safe lf lg cq := by
  unfold State.startSignal
  repeat' (first
    | with_reducible assumption
    | with_reducible apply State.putMem_safe
    | with_reducible apply State.endRun_safe
    | with_reducible apply State.putHost_safe
    | with_reducible apply State.msixSend_safe
    | with_reducible apply State.worked_safe
    | with_reducible apply foldl_snd2_safe
    | with_reducible refine pair3_safe (by with_reducible assumption) ?_
    | with_reducible refine pair_safe (by with_reducible assumption) ?_
    | with_reducible apply foldl_safe
    | with_reducible apply foldl_snd_safe
    | intro _
    | split
    | dsimp only
    | refine State.Safe.lit ?_ rfl rfl rfl rfl)

theorem State.startAdapt_safe (flt : Option (CoreId × ResFault)) (s : State) (r : EntryRef) (hS : s.Safe lf lg cq) :
    ((State.startAdapt flt s r)).Safe lf lg cq := by
  unfold State.startAdapt
  repeat' (first
    | with_reducible assumption
    | with_reducible apply State.pendOut_safe
    | with_reducible apply State.modRun_safe
    | with_reducible apply State.startProblem_safe
    | with_reducible apply State.adaptGo_safe
    | with_reducible apply foldl_snd2_safe
    | with_reducible refine pair3_safe (by with_reducible assumption) ?_
    | with_reducible refine pair_safe (by with_reducible assumption) ?_
    | with_reducible apply foldl_safe
    | with_reducible apply foldl_snd_safe
    | intro _
    | split
    | dsimp only
    | refine State.Safe.lit ?_ rfl rfl rfl rfl)

theorem State.keepOld_safe (s : State) (ctx : Nat) (old : List Byte) (hS : s.Safe lf lg cq) :
    ((State.keepOld s ctx old)).Safe lf lg cq := by
  unfold State.keepOld
  repeat' (first
    | with_reducible assumption
    | with_reducible apply State.modRun_safe
    | with_reducible apply State.each_safe
    | with_reducible apply foldl_snd2_safe
    | with_reducible refine pair3_safe (by with_reducible assumption) ?_
    | with_reducible refine pair_safe (by with_reducible assumption) ?_
    | with_reducible apply foldl_safe
    | with_reducible apply foldl_snd_safe
    | intro _
    | split
    | dsimp only
    | refine State.Safe.lit ?_ rfl rfl rfl rfl)

theorem State.updStore_safe (s : State) (e : EntryRun) (hS : s.Safe lf lg cq) :
    ((State.updStore s e)).Safe lf lg cq := by
  unfold State.updStore
  repeat' (first
    | with_reducible assumption
    | with_reducible apply State.adpWrite_safe
    | with_reducible apply State.each_safe
    | with_reducible apply State.keepOld_safe
    | with_reducible apply foldl_snd2_safe
    | with_reducible refine pair3_safe (by with_reducible assumption) ?_
    | with_reducible refine pair_safe (by with_reducible assumption) ?_
    | with_reducible apply foldl_safe
    | with_reducible apply foldl_snd_safe
    | intro _
    | split
    | dsimp only
    | refine State.Safe.lit ?_ rfl rfl rfl rfl)

theorem State.startUpd_safe (flt : Option (CoreId × ResFault)) (s : State) (r : EntryRef) (hS : s.Safe lf lg cq) :
    ((State.startUpd flt s r)).Safe lf lg cq := by
  unfold State.startUpd
  repeat' (first
    | with_reducible assumption
    | with_reducible apply State.modRun_safe
    | with_reducible apply State.startProblem_safe
    | with_reducible apply State.adaptGo_safe
    | with_reducible apply foldl_snd2_safe
    | with_reducible refine pair3_safe (by with_reducible assumption) ?_
    | with_reducible refine pair_safe (by with_reducible assumption) ?_
    | with_reducible apply foldl_safe
    | with_reducible apply foldl_snd_safe
    | intro _
    | split
    | dsimp only
    | refine State.Safe.lit ?_ rfl rfl rfl rfl)

theorem State.startHaloSend_safe (s : State) (r : EntryRef) (hS : s.Safe lf lg cq) :
    ((State.startHaloSend s r)).Safe lf lg cq := by
  unfold State.startHaloSend
  repeat' (first
    | with_reducible assumption
    | with_reducible apply State.modCore_safe
    | with_reducible apply State.modRun_safe
    | with_reducible apply foldl_snd2_safe
    | with_reducible refine pair3_safe (by with_reducible assumption) ?_
    | with_reducible refine pair_safe (by with_reducible assumption) ?_
    | with_reducible apply foldl_safe
    | with_reducible apply foldl_snd_safe
    | intro _
    | split
    | dsimp only
    | refine State.Safe.lit ?_ rfl rfl rfl rfl)

theorem State.adaptResume_safe (s : State) (ctx : Nat) (hS : s.Safe lf lg cq) :
    ((State.adaptResume s ctx)).Safe lf lg cq := by
  unfold State.adaptResume
  repeat' (first
    | with_reducible assumption
    | with_reducible apply State.each_safe
    | with_reducible apply State.adaptGo_safe
    | with_reducible apply foldl_snd2_safe
    | with_reducible refine pair3_safe (by with_reducible assumption) ?_
    | with_reducible refine pair_safe (by with_reducible assumption) ?_
    | with_reducible apply foldl_safe
    | with_reducible apply foldl_snd_safe
    | intro _
    | split
    | dsimp only
    | refine State.Safe.lit ?_ rfl rfl rfl rfl)

theorem State.adpData_safe (s : State) (peer : Nat) (hS : s.Safe lf lg cq) :
    ((State.adpData s peer)).Safe lf lg cq := by
  unfold State.adpData
  repeat' (first
    | with_reducible assumption
    | with_reducible apply State.tookMsg_safe
    | with_reducible apply State.adaptResume_safe
    | with_reducible apply State.setAdp_safe
    | with_reducible apply State.wireIn_safe
    | with_reducible refine State.wireIn_safe' (by with_reducible assumption) ?_
    | with_reducible apply State.modCtx_safe
    | with_reducible apply foldl_snd2_safe
    | with_reducible refine pair3_safe (by with_reducible assumption) ?_
    | with_reducible refine pair_safe (by with_reducible assumption) ?_
    | with_reducible apply foldl_safe
    | with_reducible apply foldl_snd_safe
    | intro _
    | split
    | dsimp only
    | refine State.Safe.lit ?_ rfl rfl rfl rfl)

theorem State.copyMem_safe (s : State) (r : EntryRef) (isHost : Bool) (a : Nat) (n : Nat) (i : Nat) (hS : s.Safe lf lg cq) :
    ((State.copyMem s r isHost a n i).2).Safe lf lg cq := by
  unfold State.copyMem
  repeat' (first
    | with_reducible assumption
    | with_reducible apply State.manFailMem_safe
    | with_reducible apply State.ueMem_safe
    | with_reducible apply foldl_snd2_safe
    | with_reducible refine pair3_safe (by with_reducible assumption) ?_
    | with_reducible refine pair_safe (by with_reducible assumption) ?_
    | with_reducible apply foldl_safe
    | with_reducible apply foldl_snd_safe
    | intro _
    | split
    | dsimp only
    | refine State.Safe.lit ?_ rfl rfl rfl rfl)

theorem State.copyMem_safe' {s : State} {r : EntryRef} {isHost : Bool} {a : Nat} {n : Nat} {i : Nat} {y0 t} (eqn : (State.copyMem s r isHost a n i) = (y0, t)) (hS : s.Safe lf lg cq)  : t.Safe lf lg cq := by
  have := State.copyMem_safe s r isHost a n i hS
  rw [eqn] at this; exact this

theorem State.startCopyIn_safe (s : State) (r : EntryRef) (hS : s.Safe lf lg cq) :
    ((State.startCopyIn s r)).Safe lf lg cq := by
  unfold State.startCopyIn
  repeat' (first
    | with_reducible assumption
    | with_reducible apply State.copyEnd_safe
    | with_reducible apply State.putAct_safe
    | with_reducible apply State.each_safe
    | with_reducible apply copyRun_safe
    | with_reducible refine copyRun_safe' (by with_reducible assumption) ?_
    | with_reducible apply State.copyMem_safe
    | with_reducible refine State.copyMem_safe' (by with_reducible assumption) ?_
    | with_reducible apply State.worked_safe
    | with_reducible apply foldl_snd2_safe
    | with_reducible refine pair3_safe (by with_reducible assumption) ?_
    | with_reducible refine pair_safe (by with_reducible assumption) ?_
    | with_reducible apply foldl_safe
    | with_reducible apply foldl_snd_safe
    | intro _
    | split
    | dsimp only
    | refine State.Safe.lit ?_ rfl rfl rfl rfl)

theorem State.fieldBegin_safe (s : State) (r : EntryRef) (hS : s.Safe lf lg cq) :
    ((State.fieldBegin s r)).Safe lf lg cq := by
  unfold State.fieldBegin
  repeat' (first
    | with_reducible assumption
    | with_reducible apply State.modCore_safe
    | with_reducible apply State.modRun_safe
    | with_reducible apply State.worked_safe
    | with_reducible apply foldl_snd2_safe
    | with_reducible refine pair3_safe (by with_reducible assumption) ?_
    | with_reducible refine pair_safe (by with_reducible assumption) ?_
    | with_reducible apply foldl_safe
    | with_reducible apply foldl_snd_safe
    | intro _
    | split
    | dsimp only
    | refine State.Safe.lit ?_ rfl rfl rfl rfl)

theorem State.fieldEnd_safe (s : State) (c : Nat) (hS : s.Safe lf lg cq) :
    ((State.fieldEnd s c)).Safe lf lg cq := by
  unfold State.fieldEnd
  repeat' (first
    | with_reducible assumption
    | with_reducible apply State.modArr_safe
    | with_reducible apply State.raiseRun_safe
    | with_reducible apply State.modCore_safe
    | with_reducible apply State.each_safe
    | with_reducible apply State.endRun_safe
    | with_reducible apply State.fieldBegin_safe
    | with_reducible apply foldl_snd2_safe
    | with_reducible refine pair3_safe (by with_reducible assumption) ?_
    | with_reducible refine pair_safe (by with_reducible assumption) ?_
    | with_reducible apply foldl_safe
    | with_reducible apply foldl_snd_safe
    | intro _
    | split
    | dsimp only
    | refine State.Safe.lit ?_ rfl rfl rfl rfl)

theorem State.startField_safe (s : State) (r : EntryRef) (hS : s.Safe lf lg cq) :
    ((State.startField s r)).Safe lf lg cq := by
  unfold State.startField
  repeat' (first
    | with_reducible assumption
    | with_reducible apply State.fieldEnd_safe
    | with_reducible apply State.fieldBegin_safe
    | with_reducible apply foldl_snd2_safe
    | with_reducible refine pair3_safe (by with_reducible assumption) ?_
    | with_reducible refine pair_safe (by with_reducible assumption) ?_
    | with_reducible apply foldl_safe
    | with_reducible apply foldl_snd_safe
    | intro _
    | split
    | dsimp only
    | refine State.Safe.lit ?_ rfl rfl rfl rfl)

theorem State.startForward_safe (s : State) (r : EntryRef) (hS : s.Safe lf lg cq) :
    ((State.startForward s r)).Safe lf lg cq := by
  unfold State.startForward
  repeat' (first
    | with_reducible assumption
    | with_reducible apply State.forwardIn_safe
    | with_reducible apply State.putAct_safe
    | with_reducible apply State.each_safe
    | with_reducible apply State.endRun_safe
    | with_reducible apply copyRun_safe
    | with_reducible refine copyRun_safe' (by with_reducible assumption) ?_
    | with_reducible apply State.copyAct_safe
    | with_reducible refine State.copyAct_safe' (by with_reducible assumption) ?_
    | with_reducible apply State.worked_safe
    | with_reducible apply foldl_snd2_safe
    | with_reducible refine pair3_safe (by with_reducible assumption) ?_
    | with_reducible refine pair_safe (by with_reducible assumption) ?_
    | with_reducible apply foldl_safe
    | with_reducible apply foldl_snd_safe
    | intro _
    | split
    | dsimp only
    | refine State.Safe.lit ?_ rfl rfl rfl rfl)

theorem State.startIngest_safe (s : State) (r : EntryRef) (hS : s.Safe lf lg cq) :
    ((State.startIngest s r)).Safe lf lg cq := by
  unfold State.startIngest
  repeat' (first
    | with_reducible assumption
    | with_reducible apply State.startProblem_safe
    | with_reducible apply foldl_snd2_safe
    | with_reducible refine pair3_safe (by with_reducible assumption) ?_
    | with_reducible refine pair_safe (by with_reducible assumption) ?_
    | with_reducible apply foldl_safe
    | with_reducible apply foldl_snd_safe
    | intro _
    | split
    | dsimp only
    | refine State.Safe.lit ?_ rfl rfl rfl rfl)

theorem State.fieldPhase_safe (s : State) (c : Nat) (fails : List FieldFail) (hS : s.Safe lf lg cq) :
    ((State.fieldPhase s c fails)).Safe lf lg cq := by
  unfold State.fieldPhase
  repeat' (first
    | with_reducible assumption
    | with_reducible apply State.permArr_safe
    | with_reducible apply State.modCore_safe
    | with_reducible apply State.each_safe
    | with_reducible apply State.transient_safe
    | with_reducible apply State.fieldEnd_safe
    | with_reducible apply State.quarantine_safe
    | with_reducible apply foldl_snd2_safe
    | with_reducible refine pair3_safe (by with_reducible assumption) ?_
    | with_reducible refine pair_safe (by with_reducible assumption) ?_
    | with_reducible apply foldl_safe
    | with_reducible apply foldl_snd_safe
    | intro _
    | split
    | dsimp only
    | refine State.Safe.lit ?_ rfl rfl rfl rfl)

theorem State.startHaloWait_safe (s : State) (r : EntryRef) (hS : s.Safe lf lg cq) :
    ((State.startHaloWait s r)).Safe lf lg cq := by
  unfold State.startHaloWait
  repeat' (first
    | with_reducible assumption
    | with_reducible apply State.modRun_safe
    | with_reducible apply State.haloCheck_safe
    | with_reducible apply foldl_snd2_safe
    | with_reducible refine pair3_safe (by with_reducible assumption) ?_
    | with_reducible refine pair_safe (by with_reducible assumption) ?_
    | with_reducible apply foldl_safe
    | with_reducible apply foldl_snd_safe
    | intro _
    | split
    | dsimp only
    | refine State.Safe.lit ?_ rfl rfl rfl rfl)

theorem State.fetchOut_safe (s : State) (ctx : Nat) (hS : s.Safe lf lg cq) :
    ((State.fetchOut s ctx)).Safe lf lg cq := by
  unfold State.fetchOut
  repeat' (first
    | with_reducible assumption
    | with_reducible apply State.fetchNext_safe
    | with_reducible apply State.setAdp_safe
    | with_reducible apply State.fetchFail_safe
    | with_reducible apply foldl_snd2_safe
    | with_reducible refine pair3_safe (by with_reducible assumption) ?_
    | with_reducible refine pair_safe (by with_reducible assumption) ?_
    | with_reducible apply foldl_safe
    | with_reducible apply foldl_snd_safe
    | intro _
    | split
    | dsimp only
    | refine State.Safe.lit ?_ rfl rfl rfl rfl)

theorem State.haloWaitOut_safe (s : State) (r : EntryRef) (hS : s.Safe lf lg cq) :
    ((State.haloWaitOut s r)).Safe lf lg cq := by
  unfold State.haloWaitOut
  repeat' (first
    | with_reducible assumption
    | with_reducible apply State.endRun_safe
    | with_reducible apply foldl_snd2_safe
    | with_reducible refine pair3_safe (by with_reducible assumption) ?_
    | with_reducible refine pair_safe (by with_reducible assumption) ?_
    | with_reducible apply foldl_safe
    | with_reducible apply foldl_snd_safe
    | intro _
    | split
    | dsimp only
    | refine State.Safe.lit ?_ rfl rfl rfl rfl)

end Sys2Proof.Machine
end

