-- ==== Sys2Proof/Laws/Safe/PoundOps.lean ====
section
/-! SUPPORT. One lemma for each operation of `Machine/PoundOps.lean` that answers a state: it keeps `State.Safe` (the primed form says
the same of an answer that is known by an equation). -/

namespace Sys2Proof.Machine
open Sys2Proof
variable {lf lg : Nat} {cq : List Instr}

theorem State.submitMsg_safe (s : State) (peer : Nat) (hS : s.Safe lf lg cq) :
    ((State.submitMsg s peer)).Safe lf lg cq := by
  unfold State.submitMsg
  repeat' (first
    | with_reducible assumption
    | with_reducible apply State.tookMsg_safe
    | with_reducible apply State.putMem_safe
    | with_reducible apply State.wakeUp_safe
    | with_reducible apply State.newBatch_safe
    | with_reducible apply State.refuse_safe
    | with_reducible apply State.each_safe
    | with_reducible apply State.modQueue_safe
    | with_reducible apply foldl_snd2_safe
    | with_reducible refine pair3_safe (by with_reducible assumption) ?_
    | with_reducible refine pair_safe (by with_reducible assumption) ?_
    | with_reducible apply foldl_safe
    | with_reducible apply foldl_snd_safe
    | intro _
    | split
    | dsimp only
    | refine State.Safe.lit ?_ rfl rfl rfl rfl)

theorem State.takeEntry_safe (s : State) (p : Nat) (pos : Nat) (c : Nat × BasinEntry) (hS : s.Safe lf lg cq) :
    ((State.takeEntry s p pos c)).Safe lf lg cq := by
  unfold State.takeEntry
  repeat' (first
    | with_reducible assumption
    | with_reducible apply State.forwardNext_safe
    | with_reducible apply State.modReq_safe
    | with_reducible apply State.modPound_safe
    | with_reducible apply State.modQueue_safe
    | with_reducible apply State.count_safe
    | with_reducible apply foldl_snd2_safe
    | with_reducible refine pair3_safe (by with_reducible assumption) ?_
    | with_reducible refine pair_safe (by with_reducible assumption) ?_
    | with_reducible apply foldl_safe
    | with_reducible apply foldl_snd_safe
    | intro _
    | split
    | dsimp only
    | refine State.Safe.lit ?_ rfl rfl rfl rfl)

theorem State.abortService_safe (s : State) (who : Nat → Bool) (detail : Nat) (hS : s.Safe lf lg cq) :
    ((State.abortService s who detail)).Safe lf lg cq := by
  unfold State.abortService
  repeat' (first
    | with_reducible assumption
    | with_reducible apply State.each_safe
    | with_reducible apply State.forwardNext_safe
    | with_reducible apply State.modPound_safe
    | with_reducible apply foldl_snd2_safe
    | with_reducible refine pair3_safe (by with_reducible assumption) ?_
    | with_reducible refine pair_safe (by with_reducible assumption) ?_
    | with_reducible apply foldl_safe
    | with_reducible apply foldl_snd_safe
    | intro _
    | split
    | dsimp only
    | refine State.Safe.lit ?_ rfl rfl rfl rfl)

theorem State.templated_safe (s : State) (q : Nat) (d : List Byte) (hS : s.Safe lf lg cq) :
    ((State.templated s q d).2).Safe lf lg cq := by
  unfold State.templated
  repeat' (first
    | with_reducible assumption
    | with_reducible apply State.ueRead_safe
    | with_reducible apply State.answerSub_safe
    | with_reducible apply foldl_snd2_safe
    | with_reducible refine pair3_safe (by with_reducible assumption) ?_
    | with_reducible refine pair_safe (by with_reducible assumption) ?_
    | with_reducible apply foldl_safe
    | with_reducible apply foldl_snd_safe
    | intro _
    | split
    | dsimp only
    | refine State.Safe.lit ?_ rfl rfl rfl rfl)

theorem State.templated_safe' {s : State} {q : Nat} {d : List Byte} {y0 t} (eqn : (State.templated s q d) = (y0, t)) (hS : s.Safe lf lg cq)  : t.Safe lf lg cq := by
  have := State.templated_safe s q d hS
  rw [eqn] at this; exact this

theorem State.forwardReq_safe (s : State) (peer : Option Nat) (m : List Byte) (hS : s.Safe lf lg cq) :
    ∀ res, (State.forwardReq s peer m) = Except.ok res → (res).Safe lf lg cq := by
  intro res hv
  unfold State.forwardReq at hv
  extract_lets m1 ver gstep n blocks group x set d at hv
  clear_value m1 ver gstep n blocks group set d
  split at hv
  · cases hv
  · split at hv
    · injection hv with hv; subst hv; exact hS
    split at hv
    · cases hv
    · extract_lets q p base s1 t0 named t s2 at hv
      iterate 5 (split at hv; · cases hv)
      split at hv
      · injection hv with hv; subst hv; exact hS
      have h1 : s1.Safe lf lg cq := State.each_safe _ _ _ hS fun t c ht => State.each_safe _ _ _ ht fun u b hu => State.putAct_safe _ _ _ _ _ hu
      clear_value s1
      have h2 : s2.Safe lf lg cq := by
        dsimp only [s2]
        split
        · exact State.modTal_safe _ _ h1
        · exact h1
      clear_value s2
      repeat' (split at hv)
      all_goals first
        | (cases hv; done)
        | (injection hv with hv; subst hv)
      all_goals first
        | exact State.talDone_safe _ _ _ _ (State.templated_safe' (by assumption) h2)
        | exact State.templated_safe' (by assumption) h2
        | exact State.admitReq_safe _ _ _ _ (State.templated_safe' (by assumption) h2)

theorem State.forwardReq_safe' {s : State} {peer : Option Nat} {m : List Byte} {res} (eqn : (State.forwardReq s peer m) = Except.ok res) (hS : s.Safe lf lg cq)  :
    (res).Safe lf lg cq := State.forwardReq_safe s peer m hS res eqn

theorem State.ownNext_safe (s : State) (a1 : Nat) (hS : s.Safe lf lg cq) :
    ((State.ownNext s a1)).Safe lf lg cq := by
  induction a1 generalizing s with
  | zero => exact hS
  | succ n ih =>
    unfold State.ownNext
    repeat' (first
      | with_reducible assumption
      | with_reducible refine State.forwardReq_safe' (by with_reducible assumption) ?_
      | with_reducible apply ih
      | with_reducible apply foldl_snd2_safe
      | with_reducible refine pair3_safe (by with_reducible assumption) ?_
      | with_reducible refine pair_safe (by with_reducible assumption) ?_
      | with_reducible apply foldl_safe
      | with_reducible apply foldl_snd_safe
      | intro _
      | split
      | dsimp only
      | refine State.Safe.lit ?_ rfl rfl rfl rfl)

theorem State.egress_safe (s : State) (p : Nat) (q : Request) (e : EntryRun) (hS : s.Safe lf lg cq) :
    ((State.egress s p q e)).Safe lf lg cq := by
  unfold State.egress
  repeat' (first
    | with_reducible assumption
    | with_reducible apply State.ownNext_safe
    | with_reducible apply State.each_safe
    | with_reducible apply State.msgFailed_safe
    | with_reducible apply State.srnSend_safe
    | with_reducible refine State.srnSend_safe' (by with_reducible assumption) ?_
    | with_reducible apply foldl_snd2_safe
    | with_reducible refine pair3_safe (by with_reducible assumption) ?_
    | with_reducible refine pair_safe (by with_reducible assumption) ?_
    | with_reducible apply foldl_safe
    | with_reducible apply foldl_snd_safe
    | intro _
    | split
    | dsimp only
    | refine State.Safe.lit ?_ rfl rfl rfl rfl)

theorem State.advanceCtx_safe (s : State) (version : Nat) (i : Nat) (hS : s.Safe lf lg cq) :
    ((State.advanceCtx s version i)).Safe lf lg cq := by
  unfold State.advanceCtx
  repeat' (first
    | with_reducible assumption
    | with_reducible apply State.checkpoint_safe
    | with_reducible apply State.modCtx_safe
    | with_reducible apply foldl_snd2_safe
    | with_reducible refine pair3_safe (by with_reducible assumption) ?_
    | with_reducible refine pair_safe (by with_reducible assumption) ?_
    | with_reducible apply foldl_safe
    | with_reducible apply foldl_snd_safe
    | intro _
    | split
    | dsimp only
    | refine State.Safe.lit ?_ rfl rfl rfl rfl)

theorem State.expressEnd_safe (s : State) (p : Nat) (q : Request) (hS : s.Safe lf lg cq) :
    ((State.expressEnd s p q)).Safe lf lg cq := by
  unfold State.expressEnd
  repeat' (first
    | with_reducible assumption
    | with_reducible apply State.bump_safe
    | with_reducible apply State.raise_safe
    | with_reducible apply State.flag_safe
    | with_reducible apply State.count_safe
    | with_reducible apply foldl_snd2_safe
    | with_reducible refine pair3_safe (by with_reducible assumption) ?_
    | with_reducible refine pair_safe (by with_reducible assumption) ?_
    | with_reducible apply foldl_safe
    | with_reducible apply foldl_snd_safe
    | intro _
    | split
    | dsimp only
    | refine State.Safe.lit ?_ rfl rfl rfl rfl)

theorem State.requestEnd_safe (s : State) (p : Nat) (r : Nat) (ok : Bool) (e : Option EntryRun) (hS : s.Safe lf lg cq) :
    ((State.requestEnd s p r ok e)).Safe lf lg cq := by
  unfold State.requestEnd
  repeat' (first
    | with_reducible assumption
    | with_reducible apply State.talDone_safe
    | with_reducible apply State.dropReq_safe
    | with_reducible apply State.egress_safe
    | with_reducible apply State.advanceCtx_safe
    | with_reducible apply State.each_safe
    | with_reducible apply State.expressEnd_safe
    | with_reducible apply foldl_snd2_safe
    | with_reducible refine pair3_safe (by with_reducible assumption) ?_
    | with_reducible refine pair_safe (by with_reducible assumption) ?_
    | with_reducible apply foldl_safe
    | with_reducible apply foldl_snd_safe
    | intro _
    | split
    | dsimp only
    | refine State.Safe.lit ?_ rfl rfl rfl rfl)

theorem State.abortWaiting_safe (s : State) (who : Nat → Bool) (detail : Nat) (hS : s.Safe lf lg cq) :
    ((State.abortWaiting s who detail)).Safe lf lg cq := by
  unfold State.abortWaiting
  repeat' (first
    | with_reducible assumption
    | with_reducible apply State.markAborted_safe
    | with_reducible apply State.reqRecord_safe
    | with_reducible apply State.each_safe
    | with_reducible apply State.requestEnd_safe
    | with_reducible apply State.forwardNext_safe
    | with_reducible apply State.modPound_safe
    | with_reducible apply foldl_snd2_safe
    | with_reducible refine pair3_safe (by with_reducible assumption) ?_
    | with_reducible refine pair_safe (by with_reducible assumption) ?_
    | with_reducible apply foldl_safe
    | with_reducible apply foldl_snd_safe
    | intro _
    | split
    | dsimp only
    | refine State.Safe.lit ?_ rfl rfl rfl rfl)

theorem State.abortModel_safe (s : State) (m : Nat) (hS : s.Safe lf lg cq) :
    ((State.abortModel s m)).Safe lf lg cq := by
  unfold State.abortModel
  repeat' (first
    | with_reducible assumption
    | with_reducible apply State.abortService_safe
    | with_reducible apply State.abortWaiting_safe
    | with_reducible apply foldl_snd2_safe
    | with_reducible refine pair3_safe (by with_reducible assumption) ?_
    | with_reducible refine pair_safe (by with_reducible assumption) ?_
    | with_reducible apply foldl_safe
    | with_reducible apply foldl_snd_safe
    | intro _
    | split
    | dsimp only
    | refine State.Safe.lit ?_ rfl rfl rfl rfl)

theorem State.imgDiscard_safe (s : State) (hS : s.Safe lf lg cq) :
    ((State.imgDiscard s)).Safe lf lg cq := by
  unfold State.imgDiscard
  repeat' (first
    | with_reducible assumption
    | with_reducible apply State.lockStore_safe
    | with_reducible apply State.modCore_safe
    | with_reducible apply State.each_safe
    | with_reducible apply State.forwardNext_safe
    | with_reducible apply State.imgResult_safe
    | with_reducible apply State.abortModel_safe
    | with_reducible apply State.modModel_safe
    | with_reducible apply State.unserve_safe
    | with_reducible apply foldl_snd2_safe
    | with_reducible refine pair3_safe (by with_reducible assumption) ?_
    | with_reducible refine pair_safe (by with_reducible assumption) ?_
    | with_reducible apply foldl_safe
    | with_reducible apply foldl_snd_safe
    | intro _
    | split
    | dsimp only
    | refine State.Safe.lit ?_ rfl rfl rfl rfl)

theorem State.queDrain_safe (s : State) (q : Nat) (destroy : Bool) (hS : s.Safe lf lg cq) :
    ((State.queDrain s q destroy)).Safe lf lg cq := by
  unfold State.queDrain
  repeat' (first
    | with_reducible assumption
    | with_reducible apply State.abortService_safe
    | with_reducible apply State.abortWaiting_safe
    | with_reducible apply State.queResult_safe
    | with_reducible apply State.modQueue_safe
    | with_reducible apply foldl_snd2_safe
    | with_reducible refine pair3_safe (by with_reducible assumption) ?_
    | with_reducible refine pair_safe (by with_reducible assumption) ?_
    | with_reducible apply foldl_safe
    | with_reducible apply foldl_snd_safe
    | intro _
    | split
    | dsimp only
    | refine State.Safe.lit ?_ rfl rfl rfl rfl)

theorem State.expSettle_safe (s : State) (hS : s.Safe lf lg cq) :
    ((State.expSettle s)).Safe lf lg cq := by
  unfold State.expSettle
  repeat' (first
    | with_reducible assumption
    | with_reducible apply foldl_snd2_safe
    | with_reducible refine pair3_safe (by with_reducible assumption) ?_
    | with_reducible refine pair_safe (by with_reducible assumption) ?_
    | with_reducible apply foldl_safe
    | with_reducible apply foldl_snd_safe
    | intro _
    | split
    | dsimp only
    | refine State.Safe.lit ?_ rfl rfl rfl rfl)

theorem State.forwardMsg_safe (s : State) (peer : Nat) (hS : s.Safe lf lg cq) :
    ((State.forwardMsg s peer)).Safe lf lg cq := by
  unfold State.forwardMsg
  repeat' (first
    | with_reducible assumption
    | with_reducible refine State.forwardReq_safe' (by with_reducible assumption) ?_
    | with_reducible apply State.tookMsg_safe
    | with_reducible apply State.refuse_safe
    | with_reducible apply State.imgRaise_safe
    | with_reducible apply State.raise_safe
    | with_reducible apply foldl_snd2_safe
    | with_reducible refine pair3_safe (by with_reducible assumption) ?_
    | with_reducible refine pair_safe (by with_reducible assumption) ?_
    | with_reducible apply foldl_safe
    | with_reducible apply foldl_snd_safe
    | intro _
    | split
    | dsimp only
    | refine State.Safe.lit ?_ rfl rfl rfl rfl)

theorem State.pickShared_safe (s : State) (p : Nat) (cls : Nat) (cs : List (Nat × BasinEntry)) (hS : s.Safe lf lg cq) :
    ∀ res, (State.pickShared s p cls cs) = some res → (res.2).Safe lf lg cq := by
  intro res hv
  unfold State.pickShared at hv
  dsimp only at hv
  split at hv
  · rename_i q x heq
    cases hf : List.find? (fun c => decide ((s.req c.2.req).queue = q)) (s.ofClass p cls cs) with
    | none => rw [hf] at hv; cases hv
    | some c => rw [hf] at hv; cases hv; exact State.setPound_safe _ _ _ hS
  · cases hv

theorem State.pickShared_safe' {s : State} {p : Nat} {cls : Nat} {cs : List (Nat × BasinEntry)} {res} (eqn : (State.pickShared s p cls cs) = some res) (hS : s.Safe lf lg cq)  :
    (res.2).Safe lf lg cq := State.pickShared_safe s p cls cs hS res eqn

theorem State.pickOther_safe (s : State) (p : Nat) (cs : List (Nat × BasinEntry)) (hS : s.Safe lf lg cq) :
    ∀ res, (State.pickOther s p cs) = some res → (res.2).Safe lf lg cq := by
  have hm : ∀ (o : Option (Nat × BasinEntry)) res, o.map (fun c => (c, s)) = some res → res.2.Safe lf lg cq := by
    intro o res h
    cases o with
    | none => cases h
    | some c => cases h; exact hS
  have hor : ∀ (o : Option ((Nat × BasinEntry) × State)) (f : Unit → Option ((Nat × BasinEntry) × State)),
      (∀ res, o = some res → res.2.Safe lf lg cq) → (∀ res, f () = some res → res.2.Safe lf lg cq) →
      ∀ res, o.orElse f = some res → res.2.Safe lf lg cq := by
    intro o f h1 h2 res h
    cases o with
    | none => exact h2 res h
    | some c => exact h1 res h
  intro res hv
  unfold State.pickOther at hv
  dsimp only at hv
  split at hv
  · exact hm _ _ hv
  · exact hor _ _ (hor _ _ (State.pickShared_safe _ _ _ _ hS) (State.pickShared_safe _ _ _ _ hS)) (hm _) _ hv

theorem State.pickOther_safe' {s : State} {p : Nat} {cs : List (Nat × BasinEntry)} {res} (eqn : (State.pickOther s p cs) = some res) (hS : s.Safe lf lg cq)  :
    (res.2).Safe lf lg cq := State.pickOther_safe s p cs hS res eqn

theorem State.poundTake_safe (s : State) (p : Nat) (hS : s.Safe lf lg cq) :
    ((State.poundTake s p)).Safe lf lg cq := by
  unfold State.poundTake
  repeat' (first
    | with_reducible assumption
    | with_reducible apply State.takeEntry_safe
    | with_reducible apply State.ownNext_safe
    | with_reducible refine State.pickOther_safe' (by with_reducible assumption) ?_
    | with_reducible apply State.each_safe
    | with_reducible apply State.modReq_safe
    | with_reducible apply foldl_snd2_safe
    | with_reducible refine pair3_safe (by with_reducible assumption) ?_
    | with_reducible refine pair_safe (by with_reducible assumption) ?_
    | with_reducible apply foldl_safe
    | with_reducible apply foldl_snd_safe
    | intro _
    | split
    | dsimp only
    | refine State.Safe.lit ?_ rfl rfl rfl rfl)

theorem State.coreTick_safe (s : State) (c : Nat) (hS : s.Safe lf lg cq) :
    ((State.coreTick s c)).Safe lf lg cq := by
  unfold State.coreTick
  repeat' (first
    | with_reducible assumption
    | with_reducible apply State.count_safe
    | with_reducible apply foldl_snd2_safe
    | with_reducible refine pair3_safe (by with_reducible assumption) ?_
    | with_reducible refine pair_safe (by with_reducible assumption) ?_
    | with_reducible apply foldl_safe
    | with_reducible apply foldl_snd_safe
    | intro _
    | split
    | dsimp only
    | refine State.Safe.lit ?_ rfl rfl rfl rfl)

theorem State.sentenceEnd_safe (s : State) (p : Nat) (pos : Nat) (n : Sentence) (ok : Bool) (e : Option EntryRun) (hS : s.Safe lf lg cq) :
    ((State.sentenceEnd s p pos n ok e)).Safe lf lg cq := by
  unfold State.sentenceEnd
  repeat' (first
    | with_reducible assumption
    | with_reducible apply State.idleSettle_safe
    | with_reducible apply State.requestEnd_safe
    | with_reducible apply State.modPound_safe
    | with_reducible apply foldl_snd2_safe
    | with_reducible refine pair3_safe (by with_reducible assumption) ?_
    | with_reducible refine pair_safe (by with_reducible assumption) ?_
    | with_reducible apply foldl_safe
    | with_reducible apply foldl_snd_safe
    | intro _
    | split
    | dsimp only
    | refine State.Safe.lit ?_ rfl rfl rfl rfl)

theorem State.writeCpl_safe (s : State) (r : Nat) (x : Cpl) (hS : s.Safe lf lg cq) :
    ((State.writeCpl s r x)).Safe lf lg cq := by
  unfold State.writeCpl
  repeat' (first
    | with_reducible assumption
    | with_reducible apply State.putCpl_safe
    | with_reducible apply State.modReq_safe
    | with_reducible apply foldl_snd2_safe
    | with_reducible refine pair3_safe (by with_reducible assumption) ?_
    | with_reducible refine pair_safe (by with_reducible assumption) ?_
    | with_reducible apply foldl_safe
    | with_reducible apply foldl_snd_safe
    | intro _
    | split
    | dsimp only
    | refine State.Safe.lit ?_ rfl rfl rfl rfl)

theorem State.abortEnd_safe (s : State) (p : Nat) (pos : Nat) (n : Sentence) (detail : Nat) (hS : s.Safe lf lg cq) :
    ((State.abortEnd s p pos n detail)).Safe lf lg cq := by
  unfold State.abortEnd
  repeat' (first
    | with_reducible assumption
    | with_reducible apply State.markAborted_safe
    | with_reducible apply State.sentenceEnd_safe
    | with_reducible apply State.fresh_safe
    | with_reducible refine State.fresh_safe' (by with_reducible assumption) ?_
    | with_reducible apply State.writeCpl_safe
    | with_reducible apply foldl_snd2_safe
    | with_reducible refine pair3_safe (by with_reducible assumption) ?_
    | with_reducible refine pair_safe (by with_reducible assumption) ?_
    | with_reducible apply foldl_safe
    | with_reducible apply foldl_snd_safe
    | intro _
    | split
    | dsimp only
    | refine State.Safe.lit ?_ rfl rfl rfl rfl)

theorem State.entryComplete_safe (s : State) (p : Nat) (pos : Nat) (idx : Nat) (hS : s.Safe lf lg cq) :
    ((State.entryComplete s p pos idx)).Safe lf lg cq := by
  unfold State.entryComplete
  repeat' (first
    | with_reducible assumption
    | with_reducible apply State.sentenceEnd_safe
    | with_reducible apply State.idleSettle_safe
    | with_reducible apply State.closeLanes_safe
    | with_reducible apply State.writeCpl_safe
    | with_reducible apply State.abortEnd_safe
    | with_reducible apply State.modSent_safe
    | with_reducible apply State.count_safe
    | with_reducible apply State.sampleWrite_safe
    | with_reducible apply State.updStore_safe
    | with_reducible apply foldl_snd2_safe
    | with_reducible refine pair3_safe (by with_reducible assumption) ?_
    | with_reducible refine pair_safe (by with_reducible assumption) ?_
    | with_reducible apply foldl_safe
    | with_reducible apply foldl_snd_safe
    | intro _
    | split
    | dsimp only
    | refine State.Safe.lit ?_ rfl rfl rfl rfl)

theorem State.timeTick_safe (s : State) (hS : s.Safe lf lg cq) :
    ((State.timeTick s)).Safe lf lg cq := by
  unfold State.timeTick
  repeat' (first
    | with_reducible assumption
    | with_reducible apply State.coreTick_safe
    | with_reducible apply State.each_safe
    | with_reducible apply State.count_safe
    | with_reducible apply foldl_snd2_safe
    | with_reducible refine pair3_safe (by with_reducible assumption) ?_
    | with_reducible refine pair_safe (by with_reducible assumption) ?_
    | with_reducible apply foldl_safe
    | with_reducible apply foldl_snd_safe
    | intro _
    | split
    | dsimp only
    | refine State.Safe.lit ?_ rfl rfl rfl rfl)

theorem State.stallTick_safe (s : State) (hS : s.Safe lf lg cq) :
    ((State.stallTick s)).Safe lf lg cq := by
  unfold State.stallTick
  repeat' (first
    | with_reducible assumption
    | with_reducible apply State.modRun_safe
    | with_reducible apply State.each_safe
    | with_reducible apply foldl_snd2_safe
    | with_reducible refine pair3_safe (by with_reducible assumption) ?_
    | with_reducible refine pair_safe (by with_reducible assumption) ?_
    | with_reducible apply foldl_safe
    | with_reducible apply foldl_snd_safe
    | intro _
    | split
    | dsimp only
    | refine State.Safe.lit ?_ rfl rfl rfl rfl)

end Sys2Proof.Machine
end

