-- ==== Sys2Proof/Laws/Safe/CmdOps.lean ====
section
/-! SUPPORT. One lemma for each operation of `Machine/CmdOps.lean` that answers a state: it keeps `State.Safe` (the primed form says
the same of an answer that is known by an equation). -/

namespace Sys2Proof.Machine
open Sys2Proof
variable {lf lg : Nat} {cq : List Instr}

theorem State.imgWhenUp_safe (s : State) (f : State → State) (hS : s.Safe lf lg cq) (hff : ∀ x0, x0.Safe lf lg cq → (f x0).Safe lf lg cq) :
    ((State.imgWhenUp s f)).Safe lf lg cq := by
  unfold State.imgWhenUp
  repeat' (first
    | with_reducible assumption
    | with_reducible apply State.imgResult_safe
    | with_reducible apply hff
    | with_reducible apply foldl_snd2_safe
    | with_reducible refine pair3_safe (by with_reducible assumption) ?_
    | with_reducible refine pair_safe (by with_reducible assumption) ?_
    | with_reducible apply foldl_safe
    | with_reducible apply foldl_snd_safe
    | intro _
    | split
    | dsimp only
    | refine State.Safe.lit ?_ rfl rfl rfl rfl)

theorem State.nltStep_safe (s : State) (c : Nat) (hS : s.Safe lf lg cq) :
    ((State.nltStep s c)).Safe lf lg cq := by
  unfold State.nltStep
  repeat' (first
    | with_reducible assumption
    | with_reducible apply State.wf__safe
    | with_reducible apply foldl_snd2_safe
    | with_reducible refine pair3_safe (by with_reducible assumption) ?_
    | with_reducible refine pair_safe (by with_reducible assumption) ?_
    | with_reducible apply foldl_safe
    | with_reducible apply foldl_snd_safe
    | intro _
    | split
    | dsimp only
    | refine State.Safe.lit ?_ rfl rfl rfl rfl)

theorem State.nltWrite_safe (s : State) (p : Path) (c : Nat) (v : Nat) (hS : s.Safe lf lg cq) :
    ((State.nltWrite s p c v)).Safe lf lg cq := by
  unfold State.nltWrite
  repeat' (first
    | with_reducible assumption
    | with_reducible apply State.ignored_safe
    | with_reducible apply State.modCore_safe
    | with_reducible apply State.nltStep_safe
    | with_reducible apply foldl_snd2_safe
    | with_reducible refine pair3_safe (by with_reducible assumption) ?_
    | with_reducible refine pair_safe (by with_reducible assumption) ?_
    | with_reducible apply foldl_safe
    | with_reducible apply foldl_snd_safe
    | intro _
    | split
    | dsimp only
    | refine State.Safe.lit ?_ rfl rfl rfl rfl)

theorem State.pwrCmdWord_safe (s : State) (p : Path) (v : Nat) (hS : s.Safe lf lg cq) :
    ((State.pwrCmdWord s p v)).Safe lf lg cq := by
  unfold State.pwrCmdWord
  repeat' (first
    | with_reducible assumption
    | with_reducible apply State.goIdle_safe
    | with_reducible apply State.goWake_safe
    | with_reducible apply foldl_snd2_safe
    | with_reducible refine pair3_safe (by with_reducible assumption) ?_
    | with_reducible refine pair_safe (by with_reducible assumption) ?_
    | with_reducible apply foldl_safe
    | with_reducible apply foldl_snd_safe
    | intro _
    | split
    | dsimp only
    | refine State.Safe.lit ?_ rfl rfl rfl rfl)

theorem State.imgCmdWord_safe (s : State) (v : Nat) (hS : s.Safe lf lg cq) :
    ((State.imgCmdWord s v)).Safe lf lg cq := by
  unfold State.imgCmdWord
  repeat' (first
    | with_reducible assumption
    | with_reducible apply State.imgVerifyCmd_safe
    | with_reducible apply State.imgRetry_safe
    | with_reducible apply State.imgLoadSet_safe
    | with_reducible apply State.imgDiscard_safe
    | with_reducible apply State.imgReceive_safe
    | with_reducible apply State.imgRestage_safe
    | with_reducible apply State.imgReleaseHold_safe
    | with_reducible apply State.imgWhenUp_safe
    | with_reducible apply State.imgSend_safe
    | with_reducible apply State.imgLock_safe
    | with_reducible apply State.imgInstall_safe
    | with_reducible apply foldl_snd2_safe
    | with_reducible refine pair3_safe (by with_reducible assumption) ?_
    | with_reducible refine pair_safe (by with_reducible assumption) ?_
    | with_reducible apply foldl_safe
    | with_reducible apply foldl_snd_safe
    | intro _
    | split
    | dsimp only
    | refine State.Safe.lit ?_ rfl rfl rfl rfl)

theorem State.chainLo_safe (s : State) (c : Nat) (v : Nat) (hS : s.Safe lf lg cq) :
    ((State.chainLo s c v)).Safe lf lg cq := by
  unfold State.chainLo
  repeat' (first
    | with_reducible assumption
    | with_reducible apply State.modCore_safe
    | with_reducible apply foldl_snd2_safe
    | with_reducible refine pair3_safe (by with_reducible assumption) ?_
    | with_reducible refine pair_safe (by with_reducible assumption) ?_
    | with_reducible apply foldl_safe
    | with_reducible apply foldl_snd_safe
    | intro _
    | split
    | dsimp only
    | refine State.Safe.lit ?_ rfl rfl rfl rfl)

theorem State.srnCmdWord_safe (s : State) (p : Path) (v : Nat) (hS : s.Safe lf lg cq) :
    ((State.srnCmdWord s p v)).Safe lf lg cq := by
  unfold State.srnCmdWord
  repeat' (first
    | with_reducible assumption
    | with_reducible apply State.srnOpen_safe
    | with_reducible apply State.srnReload_safe
    | with_reducible apply State.srnClose_safe
    | with_reducible apply State.adpSettle_safe
    | with_reducible apply foldl_snd2_safe
    | with_reducible refine pair3_safe (by with_reducible assumption) ?_
    | with_reducible refine pair_safe (by with_reducible assumption) ?_
    | with_reducible apply foldl_safe
    | with_reducible apply foldl_snd_safe
    | intro _
    | split
    | dsimp only
    | refine State.Safe.lit ?_ rfl rfl rfl rfl)

theorem State.spareCmd_safe (s : State) (p : Path) (c : Nat) (commit : Bool) (release : Bool) (hS : s.Safe lf lg cq) :
    ((State.spareCmd s p c commit release)).Safe lf lg cq := by
  unfold State.spareCmd
  repeat' (first
    | with_reducible assumption
    | with_reducible apply State.ignored_safe
    | with_reducible apply State.spareCommit_safe
    | with_reducible apply State.spareRelease_safe
    | with_reducible apply foldl_snd2_safe
    | with_reducible refine pair3_safe (by with_reducible assumption) ?_
    | with_reducible refine pair_safe (by with_reducible assumption) ?_
    | with_reducible apply foldl_safe
    | with_reducible apply foldl_snd_safe
    | intro _
    | split
    | dsimp only
    | refine State.Safe.lit ?_ rfl rfl rfl rfl)

theorem State.trimCmdWord_safe (s : State) (a : Nat) (v : Nat) (hS : s.Safe lf lg cq) :
    ((State.trimCmdWord s a v)).Safe lf lg cq := by
  unfold State.trimCmdWord
  repeat' (first
    | with_reducible assumption
    | with_reducible apply State.trimSwap_safe
    | with_reducible apply State.trimCopy_safe
    | with_reducible apply State.calDisturbed_safe
    | with_reducible apply foldl_snd2_safe
    | with_reducible refine pair3_safe (by with_reducible assumption) ?_
    | with_reducible refine pair_safe (by with_reducible assumption) ?_
    | with_reducible apply foldl_safe
    | with_reducible apply foldl_snd_safe
    | intro _
    | split
    | dsimp only
    | refine State.Safe.lit ?_ rfl rfl rfl rfl)

theorem State.stmWhenUp_safe (s : State) (i : Nat) (f : State → State) (hS : s.Safe lf lg cq) (hff : ∀ x0, x0.Safe lf lg cq → (f x0).Safe lf lg cq) :
    ((State.stmWhenUp s i f)).Safe lf lg cq := by
  unfold State.stmWhenUp
  repeat' (first
    | with_reducible assumption
    | with_reducible apply State.stmResult_safe
    | with_reducible apply hff
    | with_reducible apply foldl_snd2_safe
    | with_reducible refine pair3_safe (by with_reducible assumption) ?_
    | with_reducible refine pair_safe (by with_reducible assumption) ?_
    | with_reducible apply foldl_safe
    | with_reducible apply foldl_snd_safe
    | intro _
    | split
    | dsimp only
    | refine State.Safe.lit ?_ rfl rfl rfl rfl)

theorem State.stmCmdWord_safe (s : State) (v : Nat) (hS : s.Safe lf lg cq) :
    ((State.stmCmdWord s v)).Safe lf lg cq := by
  unfold State.stmCmdWord
  repeat' (first
    | with_reducible assumption
    | with_reducible apply State.retire_safe
    | with_reducible apply State.bind__safe
    | with_reducible apply State.stmWhenUp_safe
    | with_reducible apply State.releaseCtx_safe
    | with_reducible apply State.lookup_safe
    | with_reducible apply foldl_snd2_safe
    | with_reducible refine pair3_safe (by with_reducible assumption) ?_
    | with_reducible refine pair_safe (by with_reducible assumption) ?_
    | with_reducible apply foldl_safe
    | with_reducible apply foldl_snd_safe
    | intro _
    | split
    | dsimp only
    | refine State.Safe.lit ?_ rfl rfl rfl rfl)

theorem State.chkResult_safe (s : State) (code : Nat) (hS : s.Safe lf lg cq) :
    ((State.chkResult s code)).Safe lf lg cq := by
  unfold State.chkResult
  repeat' (first
    | with_reducible assumption
    | with_reducible apply State.wr_safe
    | with_reducible apply foldl_snd2_safe
    | with_reducible refine pair3_safe (by with_reducible assumption) ?_
    | with_reducible refine pair_safe (by with_reducible assumption) ?_
    | with_reducible apply foldl_safe
    | with_reducible apply foldl_snd_safe
    | intro _
    | split
    | dsimp only
    | refine State.Safe.lit ?_ rfl rfl rfl rfl)

theorem State.rollbackCmd_safe (s : State) (p : Path) (ctx : Nat) (hS : s.Safe lf lg cq) :
    ((State.rollbackCmd s p ctx)).Safe lf lg cq := by
  unfold State.rollbackCmd
  repeat' (first
    | with_reducible assumption
    | with_reducible apply State.rollback_safe
    | with_reducible refine State.rollback_safe' (by with_reducible assumption) ?_
    | with_reducible apply State.ignored_safe
    | with_reducible apply State.chkResult_safe
    | with_reducible apply foldl_snd2_safe
    | with_reducible refine pair3_safe (by with_reducible assumption) ?_
    | with_reducible refine pair_safe (by with_reducible assumption) ?_
    | with_reducible apply foldl_safe
    | with_reducible apply foldl_snd_safe
    | intro _
    | split
    | dsimp only
    | refine State.Safe.lit ?_ rfl rfl rfl rfl)

theorem State.retestCmd_safe (s : State) (p : Path) (c : Nat) (hS : s.Safe lf lg cq) :
    ((State.retestCmd s p c)).Safe lf lg cq := by
  unfold State.retestCmd
  repeat' (first
    | with_reducible assumption
    | with_reducible apply State.ignored_safe
    | with_reducible apply State.modCore_safe
    | with_reducible apply State.wr_safe
    | with_reducible apply State.chkResult_safe
    | with_reducible apply foldl_snd2_safe
    | with_reducible refine pair3_safe (by with_reducible assumption) ?_
    | with_reducible refine pair_safe (by with_reducible assumption) ?_
    | with_reducible apply foldl_safe
    | with_reducible apply foldl_snd_safe
    | intro _
    | split
    | dsimp only
    | refine State.Safe.lit ?_ rfl rfl rfl rfl)

theorem State.chkCmdWord_safe (s : State) (p : Path) (v : Nat) (hS : s.Safe lf lg cq) :
    ((State.chkCmdWord s p v)).Safe lf lg cq := by
  unfold State.chkCmdWord
  repeat' (first
    | with_reducible assumption
    | with_reducible apply State.rollbackCmd_safe
    | with_reducible apply State.retestCmd_safe
    | with_reducible apply foldl_snd2_safe
    | with_reducible refine pair3_safe (by with_reducible assumption) ?_
    | with_reducible refine pair_safe (by with_reducible assumption) ?_
    | with_reducible apply foldl_safe
    | with_reducible apply foldl_snd_safe
    | intro _
    | split
    | dsimp only
    | refine State.Safe.lit ?_ rfl rfl rfl rfl)

theorem State.chainHi_safe (s : State) (c : Nat) (v : Nat) (hS : s.Safe lf lg cq) :
    ((State.chainHi s c v)).Safe lf lg cq := by
  unfold State.chainHi
  repeat' (first
    | with_reducible assumption
    | with_reducible apply State.modCore_safe
    | with_reducible apply foldl_snd2_safe
    | with_reducible refine pair3_safe (by with_reducible assumption) ?_
    | with_reducible refine pair_safe (by with_reducible assumption) ?_
    | with_reducible apply foldl_safe
    | with_reducible apply foldl_snd_safe
    | intro _
    | split
    | dsimp only
    | refine State.Safe.lit ?_ rfl rfl rfl rfl)

theorem State.talCmdWord_safe (s : State) (v : Nat) (hS : s.Safe lf lg cq) :
    ((State.talCmdWord s v)).Safe lf lg cq := by
  unfold State.talCmdWord
  repeat' (first
    | with_reducible assumption
    | with_reducible apply State.talJoin_safe
    | with_reducible apply State.talLeave_safe
    | with_reducible apply State.talExpel_safe
    | with_reducible apply foldl_snd2_safe
    | with_reducible refine pair3_safe (by with_reducible assumption) ?_
    | with_reducible refine pair_safe (by with_reducible assumption) ?_
    | with_reducible apply foldl_safe
    | with_reducible apply foldl_snd_safe
    | intro _
    | split
    | dsimp only
    | refine State.Safe.lit ?_ rfl rfl rfl rfl)

theorem State.queWhenUp_safe (s : State) (q : Nat) (f : State → State) (hS : s.Safe lf lg cq) (hff : ∀ x0, x0.Safe lf lg cq → (f x0).Safe lf lg cq) :
    ((State.queWhenUp s q f)).Safe lf lg cq := by
  unfold State.queWhenUp
  repeat' (first
    | with_reducible assumption
    | with_reducible apply State.queResult_safe
    | with_reducible apply hff
    | with_reducible apply foldl_snd2_safe
    | with_reducible refine pair3_safe (by with_reducible assumption) ?_
    | with_reducible refine pair_safe (by with_reducible assumption) ?_
    | with_reducible apply foldl_safe
    | with_reducible apply foldl_snd_safe
    | intro _
    | split
    | dsimp only
    | refine State.Safe.lit ?_ rfl rfl rfl rfl)

theorem State.queCmdWord_safe (s : State) (v : Nat) (hS : s.Safe lf lg cq) :
    ((State.queCmdWord s v)).Safe lf lg cq := by
  unfold State.queCmdWord
  repeat' (first
    | with_reducible assumption
    | with_reducible apply State.queDrain_safe
    | with_reducible apply State.queCreate_safe
    | with_reducible apply State.queWhenUp_safe
    | with_reducible apply foldl_snd2_safe
    | with_reducible refine pair3_safe (by with_reducible assumption) ?_
    | with_reducible refine pair_safe (by with_reducible assumption) ?_
    | with_reducible apply foldl_safe
    | with_reducible apply foldl_snd_safe
    | intro _
    | split
    | dsimp only
    | refine State.Safe.lit ?_ rfl rfl rfl rfl)

theorem State.arrCmdWord_safe (s : State) (p : Path) (a : Nat) (v : Nat) (hS : s.Safe lf lg cq) :
    ((State.arrCmdWord s p a v)).Safe lf lg cq := by
  unfold State.arrCmdWord
  repeat' (first
    | with_reducible assumption
    | with_reducible apply State.onJob_safe
    | with_reducible apply State.pgmAbort_safe
    | with_reducible apply State.pgmGo_safe
    | with_reducible apply foldl_snd2_safe
    | with_reducible refine pair3_safe (by with_reducible assumption) ?_
    | with_reducible refine pair_safe (by with_reducible assumption) ?_
    | with_reducible apply foldl_safe
    | with_reducible apply foldl_snd_safe
    | intro _
    | split
    | dsimp only
    | refine State.Safe.lit ?_ rfl rfl rfl rfl)

theorem State.calCmd_safe (s : State) (p : Path) (c : Nat) (open_ : Bool) (restart : Bool) (sl : Nat) (hS : s.Safe lf lg cq) :
    ((State.calCmd s p c open_ restart sl)).Safe lf lg cq := by
  unfold State.calCmd
  repeat' (first
    | with_reducible assumption
    | with_reducible apply State.calRestart_safe
    | with_reducible apply State.ignored_safe
    | with_reducible apply State.calOpenCmd_safe
    | with_reducible apply foldl_snd2_safe
    | with_reducible refine pair3_safe (by with_reducible assumption) ?_
    | with_reducible refine pair_safe (by with_reducible assumption) ?_
    | with_reducible apply foldl_safe
    | with_reducible apply foldl_snd_safe
    | intro _
    | split
    | dsimp only
    | refine State.Safe.lit ?_ rfl rfl rfl rfl)

theorem State.recCmdWord_safe (s : State) (p : Path) (v : Nat) (hS : s.Safe lf lg cq) :
    ((State.recCmdWord s p v)).Safe lf lg cq := by
  unfold State.recCmdWord
  repeat' (first
    | with_reducible assumption
    | with_reducible apply State.setPw_safe
    | with_reducible apply State.relockRec_safe
    | with_reducible apply State.unlock_safe
    | with_reducible apply State.storeCmd_safe
    | with_reducible apply foldl_snd2_safe
    | with_reducible refine pair3_safe (by with_reducible assumption) ?_
    | with_reducible refine pair_safe (by with_reducible assumption) ?_
    | with_reducible apply foldl_safe
    | with_reducible apply foldl_snd_safe
    | intro _
    | split
    | dsimp only
    | refine State.Safe.lit ?_ rfl rfl rfl rfl)

theorem State.selfTestEnd_safe (s : State) (c : Nat) (pass : Bool) (hS : s.Safe lf lg cq) :
    ((State.selfTestEnd s c pass)).Safe lf lg cq := by
  unfold State.selfTestEnd
  repeat' (first
    | with_reducible assumption
    | with_reducible apply State.modCore_safe
    | with_reducible apply State.storeNow_safe
    | with_reducible apply State.chkResult_safe
    | with_reducible apply foldl_snd2_safe
    | with_reducible refine pair3_safe (by with_reducible assumption) ?_
    | with_reducible refine pair_safe (by with_reducible assumption) ?_
    | with_reducible apply foldl_safe
    | with_reducible apply foldl_snd_safe
    | intro _
    | split
    | dsimp only
    | refine State.Safe.lit ?_ rfl rfl rfl rfl)

end Sys2Proof.Machine
end

