-- ==== Sys2Proof/Laws/Safe/MonOps.lean ====
section
/-! SUPPORT. One lemma for each operation of `Machine/MonOps.lean` that answers a state: it keeps `State.Safe` (the primed form says
the same of an answer that is known by an equation). -/

namespace Sys2Proof.Machine
open Sys2Proof
variable {lf lg : Nat} {cq : List Instr}

theorem State.setMon_safe (s : State) (m : Nat) (x : Mon) (hS : s.Safe lf lg cq) :
    ((State.setMon s m x)).Safe lf lg cq := by
  unfold State.setMon
  exact ⟨hS.mem, hS.host, hS.regs, hS.ring, hS.fw, hS.cfg, hS.queue, { hS.canon with mons := wf_setD _ _ hS.canon.mons }⟩

theorem State.monTrigger_safe (s : State) (m : Nat) (hS : s.Safe lf lg cq) :
    ((State.monTrigger s m)).Safe lf lg cq := by
  unfold State.monTrigger
  repeat' (first
    | with_reducible assumption
    | with_reducible apply State.flag_safe
    | with_reducible apply State.setMon_safe
    | with_reducible apply foldl_snd2_safe
    | with_reducible refine pair3_safe (by with_reducible assumption) ?_
    | with_reducible refine pair_safe (by with_reducible assumption) ?_
    | with_reducible apply foldl_safe
    | with_reducible apply foldl_snd_safe
    | intro _
    | split
    | dsimp only
    | refine State.Safe.lit ?_ rfl rfl rfl rfl)

theorem State.setComparators_safe (s : State) (hS : s.Safe lf lg cq) :
    ((State.setComparators s)).Safe lf lg cq := by
  unfold State.setComparators
  repeat' (first
    | with_reducible assumption
    | with_reducible apply State.wr_safe
    | with_reducible apply State.each_safe
    | with_reducible apply foldl_snd2_safe
    | with_reducible refine pair3_safe (by with_reducible assumption) ?_
    | with_reducible refine pair_safe (by with_reducible assumption) ?_
    | with_reducible apply foldl_safe
    | with_reducible apply foldl_snd_safe
    | intro _
    | split
    | dsimp only
    | refine State.Safe.lit ?_ rfl rfl rfl rfl)

theorem State.monMode_safe (s : State) (m : Nat) (seq : Bool) (hS : s.Safe lf lg cq) :
    ((State.monMode s m seq)).Safe lf lg cq := by
  unfold State.monMode
  repeat' (first
    | with_reducible assumption
    | with_reducible apply State.setMon_safe
    | with_reducible apply foldl_snd2_safe
    | with_reducible refine pair3_safe (by with_reducible assumption) ?_
    | with_reducible refine pair_safe (by with_reducible assumption) ?_
    | with_reducible apply foldl_safe
    | with_reducible apply foldl_snd_safe
    | intro _
    | split
    | dsimp only
    | refine State.Safe.lit ?_ rfl rfl rfl rfl)

theorem State.mainPaths_safe (s : State) (hS : s.Safe lf lg cq) :
    ((State.mainPaths s)).Safe lf lg cq := by
  unfold State.mainPaths
  repeat' (first
    | with_reducible assumption
    | with_reducible apply State.monMode_safe
    | with_reducible apply State.each_safe
    | with_reducible apply State.wf__safe
    | with_reducible apply State.setMon_safe
    | with_reducible apply foldl_snd2_safe
    | with_reducible refine pair3_safe (by with_reducible assumption) ?_
    | with_reducible refine pair_safe (by with_reducible assumption) ?_
    | with_reducible apply foldl_safe
    | with_reducible apply foldl_snd_safe
    | intro _
    | split
    | dsimp only
    | refine State.Safe.lit ?_ rfl rfl rfl rfl)

theorem State.monSel_safe (s : State) (p : Path) (m : Nat) (v : Nat) (hS : s.Safe lf lg cq) :
    ((State.monSel s p m v)).Safe lf lg cq := by
  unfold State.monSel
  repeat' (first
    | with_reducible assumption
    | with_reducible apply State.ignored_safe
    | with_reducible apply State.wr_safe
    | with_reducible apply State.wf__safe
    | with_reducible apply State.setMon_safe
    | with_reducible apply foldl_snd2_safe
    | with_reducible refine pair3_safe (by with_reducible assumption) ?_
    | with_reducible refine pair_safe (by with_reducible assumption) ?_
    | with_reducible apply foldl_safe
    | with_reducible apply foldl_snd_safe
    | intro _
    | split
    | dsimp only
    | refine State.Safe.lit ?_ rfl rfl rfl rfl)

theorem State.monCtrl_safe (s : State) (p : Path) (m : Nat) (v : Nat) (hS : s.Safe lf lg cq) :
    ((State.monCtrl s p m v)).Safe lf lg cq := by
  unfold State.monCtrl
  repeat' (first
    | with_reducible assumption
    | with_reducible apply State.monMode_safe
    | with_reducible apply State.ignored_safe
    | with_reducible apply State.wr_safe
    | with_reducible apply State.setMon_safe
    | with_reducible apply foldl_snd2_safe
    | with_reducible refine pair3_safe (by with_reducible assumption) ?_
    | with_reducible refine pair_safe (by with_reducible assumption) ?_
    | with_reducible apply foldl_safe
    | with_reducible apply foldl_snd_safe
    | intro _
    | split
    | dsimp only
    | refine State.Safe.lit ?_ rfl rfl rfl rfl)

theorem State.sensorRead_safe (s : State) (m : Nat) (ch : Nat) (hS : s.Safe lf lg cq) :
    ((State.sensorRead s m ch)).Safe lf lg cq := by
  unfold State.sensorRead
  repeat' (first
    | with_reducible assumption
    | with_reducible apply foldl_snd2_safe
    | with_reducible refine pair3_safe (by with_reducible assumption) ?_
    | with_reducible refine pair_safe (by with_reducible assumption) ?_
    | with_reducible apply foldl_safe
    | with_reducible apply foldl_snd_safe
    | intro _
    | split
    | dsimp only
    | refine State.Safe.lit ?_ rfl rfl rfl rfl)

theorem State.pinPowerFail_safe (s : State) (hS : s.Safe lf lg cq) :
    ((State.pinPowerFail s)).Safe lf lg cq := by
  unfold State.pinPowerFail
  repeat' (first
    | with_reducible assumption
    | with_reducible apply State.powerFail_safe
    | with_reducible apply State.each_safe
    | with_reducible apply State.monTrigger_safe
    | with_reducible apply foldl_snd2_safe
    | with_reducible refine pair3_safe (by with_reducible assumption) ?_
    | with_reducible refine pair_safe (by with_reducible assumption) ?_
    | with_reducible apply foldl_safe
    | with_reducible apply foldl_snd_safe
    | intro _
    | split
    | dsimp only
    | refine State.Safe.lit ?_ rfl rfl rfl rfl)

theorem State.compare_safe (s : State) (m : Nat) (ch : Nat) (code : Nat) (k : Nat) (hS : s.Safe lf lg cq) :
    ((State.compare s m ch code k)).Safe lf lg cq := by
  unfold State.compare
  repeat' (first
    | with_reducible assumption
    | with_reducible apply State.powerFail_safe
    | with_reducible apply State.raise_safe
    | with_reducible apply State.flag_safe
    | with_reducible apply State.monTrigger_safe
    | with_reducible apply State.setMon_safe
    | with_reducible apply foldl_snd2_safe
    | with_reducible refine pair3_safe (by with_reducible assumption) ?_
    | with_reducible refine pair_safe (by with_reducible assumption) ?_
    | with_reducible apply foldl_safe
    | with_reducible apply foldl_snd_safe
    | intro _
    | split
    | dsimp only
    | refine State.Safe.lit ?_ rfl rfl rfl rfl)

theorem State.noteHot_safe (s : State) (hS : s.Safe lf lg cq) :
    ((State.noteHot s)).Safe lf lg cq := by
  unfold State.noteHot
  repeat' (first
    | with_reducible assumption
    | with_reducible apply foldl_snd2_safe
    | with_reducible refine pair3_safe (by with_reducible assumption) ?_
    | with_reducible refine pair_safe (by with_reducible assumption) ?_
    | with_reducible apply foldl_safe
    | with_reducible apply foldl_snd_safe
    | intro _
    | split
    | dsimp only
    | refine State.Safe.lit ?_ rfl rfl rfl rfl)

theorem State.peakTemp_safe (s : State) (m : Nat) (n : Nat) (hS : s.Safe lf lg cq) :
    ((State.peakTemp s m n)).Safe lf lg cq := by
  exact ⟨hS.mem, hS.host, hS.regs, hS.ring, hS.fw, hS.cfg, hS.queue, { hS.canon with ctrs := wf_setD _ _ hS.canon.ctrs }⟩

theorem State.monStore_safe (s : State) (m : Nat) (path : Nat) (ch : Nat) (code : Nat) (hS : s.Safe lf lg cq) :
    ((State.monStore s m path ch code)).Safe lf lg cq := by
  unfold State.monStore
  repeat' (first
    | with_reducible assumption
    | with_reducible apply State.compare_safe
    | with_reducible apply State.halt_safe
    | with_reducible apply State.wr_safe
    | with_reducible apply State.each_safe
    | with_reducible apply State.sensorRead_safe
    | with_reducible apply State.noteHot_safe
    | with_reducible apply State.wf__safe
    | with_reducible apply State.count_safe
    | with_reducible apply State.peakTemp_safe
    | with_reducible apply State.setMon_safe
    | with_reducible apply foldl_snd2_safe
    | with_reducible refine pair3_safe (by with_reducible assumption) ?_
    | with_reducible refine pair_safe (by with_reducible assumption) ?_
    | with_reducible apply foldl_safe
    | with_reducible apply foldl_snd_safe
    | intro _
    | split
    | dsimp only
    | refine State.Safe.lit ?_ rfl rfl rfl rfl)

theorem State.monNext_safe (s : State) (m : Nat) (path : Nat) (hS : s.Safe lf lg cq) :
    ((State.monNext s m path)).Safe lf lg cq := by
  unfold State.monNext
  repeat' (first
    | with_reducible assumption
    | with_reducible apply State.setMon_safe
    | with_reducible apply foldl_snd2_safe
    | with_reducible refine pair3_safe (by with_reducible assumption) ?_
    | with_reducible refine pair_safe (by with_reducible assumption) ?_
    | with_reducible apply foldl_safe
    | with_reducible apply foldl_snd_safe
    | intro _
    | split
    | dsimp only
    | refine State.Safe.lit ?_ rfl rfl rfl rfl)

theorem State.monDone_safe (s : State) (m : Nat) (code : Nat) (hS : s.Safe lf lg cq) :
    ((State.monDone s m code)).Safe lf lg cq := by
  unfold State.monDone
  repeat' (first
    | with_reducible assumption
    | with_reducible apply State.monStore_safe
    | with_reducible apply State.monNext_safe
    | with_reducible apply foldl_snd2_safe
    | with_reducible refine pair3_safe (by with_reducible assumption) ?_
    | with_reducible refine pair_safe (by with_reducible assumption) ?_
    | with_reducible apply foldl_safe
    | with_reducible apply foldl_snd_safe
    | intro _
    | split
    | dsimp only
    | refine State.Safe.lit ?_ rfl rfl rfl rfl)

theorem State.monStale_safe (s : State) (c : Nat) (hS : s.Safe lf lg cq) :
    ((State.monStale s c)).Safe lf lg cq := by
  unfold State.monStale
  repeat' (first
    | with_reducible assumption
    | with_reducible apply State.raise_safe
    | with_reducible apply State.flag_safe
    | with_reducible apply foldl_snd2_safe
    | with_reducible refine pair3_safe (by with_reducible assumption) ?_
    | with_reducible refine pair_safe (by with_reducible assumption) ?_
    | with_reducible apply foldl_safe
    | with_reducible apply foldl_snd_safe
    | intro _
    | split
    | dsimp only
    | refine State.Safe.lit ?_ rfl rfl rfl rfl)

theorem State.monFallback_safe (s : State) (m : Nat) (hS : s.Safe lf lg cq) :
    ((State.monFallback s m)).Safe lf lg cq := by
  unfold State.monFallback
  repeat' (first
    | with_reducible assumption
    | with_reducible apply State.monMode_safe
    | with_reducible apply State.raise_safe
    | with_reducible apply State.flag_safe
    | with_reducible apply State.setMon_safe
    | with_reducible apply foldl_snd2_safe
    | with_reducible refine pair3_safe (by with_reducible assumption) ?_
    | with_reducible refine pair_safe (by with_reducible assumption) ?_
    | with_reducible apply foldl_safe
    | with_reducible apply foldl_snd_safe
    | intro _
    | split
    | dsimp only
    | refine State.Safe.lit ?_ rfl rfl rfl rfl)

theorem State.thrStatus_safe (s : State) (hS : s.Safe lf lg cq) :
    ((State.thrStatus s)).Safe lf lg cq := by
  unfold State.thrStatus
  repeat' (first
    | with_reducible assumption
    | with_reducible apply State.wf__safe
    | with_reducible apply foldl_snd2_safe
    | with_reducible refine pair3_safe (by with_reducible assumption) ?_
    | with_reducible refine pair_safe (by with_reducible assumption) ?_
    | with_reducible apply foldl_safe
    | with_reducible apply foldl_snd_safe
    | intro _
    | split
    | dsimp only
    | refine State.Safe.lit ?_ rfl rfl rfl rfl)

theorem State.thrEvents_safe (s : State) (old : State) (hSs : s.Safe lf lg cq) (hSold : old.Safe lf lg cq) :
    ((State.thrEvents s old)).Safe lf lg cq := by
  unfold State.thrEvents
  repeat' (first
    | with_reducible assumption
    | with_reducible apply State.thrStatus_safe
    | with_reducible apply State.each_safe
    | with_reducible apply State.raise_safe
    | with_reducible apply State.monTrigger_safe
    | with_reducible apply foldl_snd2_safe
    | with_reducible refine pair3_safe (by with_reducible assumption) ?_
    | with_reducible refine pair_safe (by with_reducible assumption) ?_
    | with_reducible apply foldl_safe
    | with_reducible apply foldl_snd_safe
    | intro _
    | split
    | dsimp only
    | refine State.Safe.lit ?_ rfl rfl rfl rfl)

theorem State.thermalTick_safe (s : State) (hS : s.Safe lf lg cq) :
    ((State.thermalTick s)).Safe lf lg cq := by
  unfold State.thermalTick
  repeat' (first
    | with_reducible assumption
    | with_reducible apply State.thrEvents_safe
    | with_reducible apply State.each_safe
    | with_reducible apply foldl_snd2_safe
    | with_reducible refine pair3_safe (by with_reducible assumption) ?_
    | with_reducible refine pair_safe (by with_reducible assumption) ?_
    | with_reducible apply foldl_safe
    | with_reducible apply foldl_snd_safe
    | intro _
    | split
    | dsimp only
    | refine State.Safe.lit ?_ rfl rfl rfl rfl)

theorem State.powerTick_safe (s : State) (hS : s.Safe lf lg cq) :
    ((State.powerTick s)).Safe lf lg cq := by
  unfold State.powerTick
  repeat' (first
    | with_reducible assumption
    | with_reducible apply State.thrEvents_safe
    | with_reducible apply foldl_snd2_safe
    | with_reducible refine pair3_safe (by with_reducible assumption) ?_
    | with_reducible refine pair_safe (by with_reducible assumption) ?_
    | with_reducible apply foldl_safe
    | with_reducible apply foldl_snd_safe
    | intro _
    | split
    | dsimp only
    | refine State.Safe.lit ?_ rfl rfl rfl rfl)

end Sys2Proof.Machine
end

