-- ==== Sys2Proof/Laws/Safe/Calibration.lean ====
section
/-! SUPPORT. One lemma for each operation of `Machine/Calibration.lean` that answers a state: it keeps `State.Safe` (the primed form says
the same of an answer that is known by an equation). -/

namespace Sys2Proof.Machine
open Sys2Proof
variable {lf lg : Nat} {cq : List Instr}

theorem execMonConversionDone_safe (mc : MonId) (code : Fin 4096) (s : State) (hS : s.Safe lf lg cq) :
    ∀ res, (execMonConversionDone mc code s) = Host.Outcome.next res → (res).Safe lf lg cq := by
  intro res hv
  simp only [execMonConversionDone, Host.Outcome.next.injEq] at hv
  subst hv
  repeat' (first
    | with_reducible assumption
    | with_reducible apply State.monDone_safe
    | with_reducible apply foldl_snd2_safe
    | with_reducible refine pair3_safe (by with_reducible assumption) ?_
    | with_reducible refine pair_safe (by with_reducible assumption) ?_
    | with_reducible apply foldl_safe
    | with_reducible apply foldl_snd_safe
    | intro _
    | split
    | dsimp only
    | refine State.Safe.lit ?_ rfl rfl rfl rfl)

theorem execMonConversionDone_safe' {mc : MonId} {code : Fin 4096} {s : State} {res} (eqn : (execMonConversionDone mc code s) = Host.Outcome.next res) (hS : s.Safe lf lg cq)  :
    (res).Safe lf lg cq := execMonConversionDone_safe mc code s hS res eqn

theorem execDriftTrackingSession_safe (c : CoreId) (sl : SlotId) (refs : List Int) (s : State) (hS : s.Safe lf lg cq) :
    ∀ res, (execDriftTrackingSession c sl refs s) = Host.Outcome.next res → (res).Safe lf lg cq := by
  intro res hv
  simp only [execDriftTrackingSession, Host.Outcome.next.injEq] at hv
  subst hv
  repeat' (first
    | with_reducible assumption
    | with_reducible apply State.driftSession_safe
    | with_reducible apply foldl_snd2_safe
    | with_reducible refine pair3_safe (by with_reducible assumption) ?_
    | with_reducible refine pair_safe (by with_reducible assumption) ?_
    | with_reducible apply foldl_safe
    | with_reducible apply foldl_snd_safe
    | intro _
    | split
    | dsimp only
    | refine State.Safe.lit ?_ rfl rfl rfl rfl)

theorem execDriftTrackingSession_safe' {c : CoreId} {sl : SlotId} {refs : List Int} {s : State} {res} (eqn : (execDriftTrackingSession c sl refs s) = Host.Outcome.next res) (hS : s.Safe lf lg cq)  :
    (res).Safe lf lg cq := execDriftTrackingSession_safe c sl refs s hS res eqn

theorem execGainTemperatureUpdate_safe (c : CoreId) (s : State) (hS : s.Safe lf lg cq) :
    ∀ res, (execGainTemperatureUpdate c s) = Host.Outcome.next res → (res).Safe lf lg cq := by
  intro res hv
  simp only [execGainTemperatureUpdate, Host.Outcome.next.injEq] at hv
  subst hv
  repeat' (first
    | with_reducible assumption
    | with_reducible apply State.tempUpdates_safe
    | with_reducible apply foldl_snd2_safe
    | with_reducible refine pair3_safe (by with_reducible assumption) ?_
    | with_reducible refine pair_safe (by with_reducible assumption) ?_
    | with_reducible apply foldl_safe
    | with_reducible apply foldl_snd_safe
    | intro _
    | split
    | dsimp only
    | refine State.Safe.lit ?_ rfl rfl rfl rfl)

theorem execGainTemperatureUpdate_safe' {c : CoreId} {s : State} {res} (eqn : (execGainTemperatureUpdate c s) = Host.Outcome.next res) (hS : s.Safe lf lg cq)  :
    (res).Safe lf lg cq := execGainTemperatureUpdate_safe c s hS res eqn

theorem execMonStale_safe (c : CoreId) (s : State) (hS : s.Safe lf lg cq) :
    ∀ res, (execMonStale c s) = Host.Outcome.next res → (res).Safe lf lg cq := by
  intro res hv
  simp only [execMonStale, Host.Outcome.next.injEq] at hv
  subst hv
  repeat' (first
    | with_reducible assumption
    | with_reducible apply State.monStale_safe
    | with_reducible apply foldl_snd2_safe
    | with_reducible refine pair3_safe (by with_reducible assumption) ?_
    | with_reducible refine pair_safe (by with_reducible assumption) ?_
    | with_reducible apply foldl_safe
    | with_reducible apply foldl_snd_safe
    | intro _
    | split
    | dsimp only
    | refine State.Safe.lit ?_ rfl rfl rfl rfl)

theorem execMonStale_safe' {c : CoreId} {s : State} {res} (eqn : (execMonStale c s) = Host.Outcome.next res) (hS : s.Safe lf lg cq)  :
    (res).Safe lf lg cq := execMonStale_safe c s hS res eqn

theorem execCalOpen_safe (path : Path) (c : CoreId) (sl : SlotId) (s : State) (hS : s.Safe lf lg cq) :
    ∀ res, (execCalOpen path c sl s) = Host.Outcome.next res → (res).Safe lf lg cq := by
  intro res hv
  simp only [execCalOpen, Host.Outcome.next.injEq] at hv
  subst hv
  repeat' (first
    | with_reducible assumption
    | with_reducible apply State.asked_safe
    | with_reducible apply State.calCmd_safe
    | with_reducible apply foldl_snd2_safe
    | with_reducible refine pair3_safe (by with_reducible assumption) ?_
    | with_reducible refine pair_safe (by with_reducible assumption) ?_
    | with_reducible apply foldl_safe
    | with_reducible apply foldl_snd_safe
    | intro _
    | split
    | dsimp only
    | refine State.Safe.lit ?_ rfl rfl rfl rfl)

theorem execCalOpen_safe' {path : Path} {c : CoreId} {sl : SlotId} {s : State} {res} (eqn : (execCalOpen path c sl s) = Host.Outcome.next res) (hS : s.Safe lf lg cq)  :
    (res).Safe lf lg cq := execCalOpen_safe path c sl s hS res eqn

theorem execMonModeWrite_safe (path : Path) (mc : MonId) (v : Word) (s : State) (hS : s.Safe lf lg cq) :
    ∀ res, (execMonModeWrite path mc v s) = Host.Outcome.next res → (res).Safe lf lg cq := by
  intro res hv
  simp only [execMonModeWrite, Host.Outcome.next.injEq] at hv
  subst hv
  repeat' (first
    | with_reducible assumption
    | with_reducible apply State.asked_safe
    | with_reducible apply State.monCtrl_safe
    | with_reducible apply foldl_snd2_safe
    | with_reducible refine pair3_safe (by with_reducible assumption) ?_
    | with_reducible refine pair_safe (by with_reducible assumption) ?_
    | with_reducible apply foldl_safe
    | with_reducible apply foldl_snd_safe
    | intro _
    | split
    | dsimp only
    | refine State.Safe.lit ?_ rfl rfl rfl rfl)

theorem execMonModeWrite_safe' {path : Path} {mc : MonId} {v : Word} {s : State} {res} (eqn : (execMonModeWrite path mc v s) = Host.Outcome.next res) (hS : s.Safe lf lg cq)  :
    (res).Safe lf lg cq := execMonModeWrite_safe path mc v s hS res eqn

theorem execMonTrigger_safe (mc : MonId) (s : State) (hS : s.Safe lf lg cq) :
    ∀ res, (execMonTrigger mc s) = Host.Outcome.next res → (res).Safe lf lg cq := by
  intro res hv
  simp only [execMonTrigger, Host.Outcome.next.injEq] at hv
  subst hv
  repeat' (first
    | with_reducible assumption
    | with_reducible apply State.monTrigger_safe
    | with_reducible apply foldl_snd2_safe
    | with_reducible refine pair3_safe (by with_reducible assumption) ?_
    | with_reducible refine pair_safe (by with_reducible assumption) ?_
    | with_reducible apply foldl_safe
    | with_reducible apply foldl_snd_safe
    | intro _
    | split
    | dsimp only
    | refine State.Safe.lit ?_ rfl rfl rfl rfl)

theorem execMonTrigger_safe' {mc : MonId} {s : State} {res} (eqn : (execMonTrigger mc s) = Host.Outcome.next res) (hS : s.Safe lf lg cq)  :
    (res).Safe lf lg cq := execMonTrigger_safe mc s hS res eqn

theorem execCalSwitchSlot_safe (c : CoreId) (set : Fin 16) (s : State) (hS : s.Safe lf lg cq) :
    ∀ res, (execCalSwitchSlot c set s) = Host.Outcome.next res → (res).Safe lf lg cq := by
  intro res hv
  simp only [execCalSwitchSlot, Host.Outcome.next.injEq] at hv
  subst hv
  repeat' (first
    | with_reducible assumption
    | with_reducible apply State.calSwitch_safe
    | with_reducible apply foldl_snd2_safe
    | with_reducible refine pair3_safe (by with_reducible assumption) ?_
    | with_reducible refine pair_safe (by with_reducible assumption) ?_
    | with_reducible apply foldl_safe
    | with_reducible apply foldl_snd_safe
    | intro _
    | split
    | dsimp only
    | refine State.Safe.lit ?_ rfl rfl rfl rfl)

theorem execCalSwitchSlot_safe' {c : CoreId} {set : Fin 16} {s : State} {res} (eqn : (execCalSwitchSlot c set s) = Host.Outcome.next res) (hS : s.Safe lf lg cq)  :
    (res).Safe lf lg cq := execCalSwitchSlot_safe c set s hS res eqn

theorem execCalWindowClose_safe (c : CoreId) (set : Fin 16) (s : State) (hS : s.Safe lf lg cq) :
    ∀ res, (execCalWindowClose c set s) = Host.Outcome.next res → (res).Safe lf lg cq := by
  intro res hv
  simp only [execCalWindowClose, Host.Outcome.next.injEq] at hv
  subst hv
  repeat' (first
    | with_reducible assumption
    | with_reducible apply State.windowClose_safe
    | with_reducible apply foldl_snd2_safe
    | with_reducible refine pair3_safe (by with_reducible assumption) ?_
    | with_reducible refine pair_safe (by with_reducible assumption) ?_
    | with_reducible apply foldl_safe
    | with_reducible apply foldl_snd_safe
    | intro _
    | split
    | dsimp only
    | refine State.Safe.lit ?_ rfl rfl rfl rfl)

theorem execCalWindowClose_safe' {c : CoreId} {set : Fin 16} {s : State} {res} (eqn : (execCalWindowClose c set s) = Host.Outcome.next res) (hS : s.Safe lf lg cq)  :
    (res).Safe lf lg cq := execCalWindowClose_safe c set s hS res eqn

theorem execCalRestart_safe (path : Path) (c : CoreId) (s : State) (hS : s.Safe lf lg cq) :
    ∀ res, (execCalRestart path c s) = Host.Outcome.next res → (res).Safe lf lg cq := by
  intro res hv
  simp only [execCalRestart, Host.Outcome.next.injEq] at hv
  subst hv
  repeat' (first
    | with_reducible assumption
    | with_reducible apply State.asked_safe
    | with_reducible apply State.calCmd_safe
    | with_reducible apply foldl_snd2_safe
    | with_reducible refine pair3_safe (by with_reducible assumption) ?_
    | with_reducible refine pair_safe (by with_reducible assumption) ?_
    | with_reducible apply foldl_safe
    | with_reducible apply foldl_snd_safe
    | intro _
    | split
    | dsimp only
    | refine State.Safe.lit ?_ rfl rfl rfl rfl)

theorem execCalRestart_safe' {path : Path} {c : CoreId} {s : State} {res} (eqn : (execCalRestart path c s) = Host.Outcome.next res) (hS : s.Safe lf lg cq)  :
    (res).Safe lf lg cq := execCalRestart_safe path c s hS res eqn

theorem execCalWindowTimeout_safe (c : CoreId) (set : Fin 16) (s : State) (hS : s.Safe lf lg cq) :
    ∀ res, (execCalWindowTimeout c set s) = Host.Outcome.next res → (res).Safe lf lg cq := by
  intro res hv
  simp only [execCalWindowTimeout, Host.Outcome.next.injEq] at hv
  subst hv
  repeat' (first
    | with_reducible assumption
    | with_reducible apply State.windowTimeout_safe
    | with_reducible apply foldl_snd2_safe
    | with_reducible refine pair3_safe (by with_reducible assumption) ?_
    | with_reducible refine pair_safe (by with_reducible assumption) ?_
    | with_reducible apply foldl_safe
    | with_reducible apply foldl_snd_safe
    | intro _
    | split
    | dsimp only
    | refine State.Safe.lit ?_ rfl rfl rfl rfl)

theorem execCalWindowTimeout_safe' {c : CoreId} {set : Fin 16} {s : State} {res} (eqn : (execCalWindowTimeout c set s) = Host.Outcome.next res) (hS : s.Safe lf lg cq)  :
    (res).Safe lf lg cq := execCalWindowTimeout_safe c set s hS res eqn

theorem execMonFallbackTimeout_safe (mc : MonId) (s : State) (hS : s.Safe lf lg cq) :
    ∀ res, (execMonFallbackTimeout mc s) = Host.Outcome.next res → (res).Safe lf lg cq := by
  intro res hv
  simp only [execMonFallbackTimeout, Host.Outcome.next.injEq] at hv
  subst hv
  repeat' (first
    | with_reducible assumption
    | with_reducible apply State.monFallback_safe
    | with_reducible apply foldl_snd2_safe
    | with_reducible refine pair3_safe (by with_reducible assumption) ?_
    | with_reducible refine pair_safe (by with_reducible assumption) ?_
    | with_reducible apply foldl_safe
    | with_reducible apply foldl_snd_safe
    | intro _
    | split
    | dsimp only
    | refine State.Safe.lit ?_ rfl rfl rfl rfl)

theorem execMonFallbackTimeout_safe' {mc : MonId} {s : State} {res} (eqn : (execMonFallbackTimeout mc s) = Host.Outcome.next res) (hS : s.Safe lf lg cq)  :
    (res).Safe lf lg cq := execMonFallbackTimeout_safe mc s hS res eqn

theorem execCorCalGainDataRead_safe (path : Path) (c : CoreId) (s : State) (hS : s.Safe lf lg cq) :
    ∀ res, (execCorCalGainDataRead path c s) = Host.Outcome.next res → (res).Safe lf lg cq := by
  intro res hv
  simp only [execCorCalGainDataRead, Host.Outcome.next.injEq] at hv
  subst hv
  repeat' (first
    | with_reducible assumption
    | with_reducible apply State.reply_safe
    | with_reducible apply State.gainRead_safe
    | with_reducible refine State.gainRead_safe' (by with_reducible assumption) ?_
    | with_reducible apply foldl_snd2_safe
    | with_reducible refine pair3_safe (by with_reducible assumption) ?_
    | with_reducible refine pair_safe (by with_reducible assumption) ?_
    | with_reducible apply foldl_safe
    | with_reducible apply foldl_snd_safe
    | intro _
    | split
    | dsimp only
    | refine State.Safe.lit ?_ rfl rfl rfl rfl)

theorem execCorCalGainDataRead_safe' {path : Path} {c : CoreId} {s : State} {res} (eqn : (execCorCalGainDataRead path c s) = Host.Outcome.next res) (hS : s.Safe lf lg cq)  :
    (res).Safe lf lg cq := execCorCalGainDataRead_safe path c s hS res eqn

theorem execCalRampStep_safe (c : CoreId) (set : Fin 16) (s : State) (hS : s.Safe lf lg cq) :
    ∀ res, (execCalRampStep c set s) = Host.Outcome.next res → (res).Safe lf lg cq := by
  intro res hv
  simp only [execCalRampStep, Host.Outcome.next.injEq] at hv
  subst hv
  repeat' (first
    | with_reducible assumption
    | with_reducible apply State.calRamp_safe
    | with_reducible apply foldl_snd2_safe
    | with_reducible refine pair3_safe (by with_reducible assumption) ?_
    | with_reducible refine pair_safe (by with_reducible assumption) ?_
    | with_reducible apply foldl_safe
    | with_reducible apply foldl_snd_safe
    | intro _
    | split
    | dsimp only
    | refine State.Safe.lit ?_ rfl rfl rfl rfl)

theorem execCalRampStep_safe' {c : CoreId} {set : Fin 16} {s : State} {res} (eqn : (execCalRampStep c set s) = Host.Outcome.next res) (hS : s.Safe lf lg cq)  :
    (res).Safe lf lg cq := execCalRampStep_safe c set s hS res eqn

theorem execMonStart_safe (path : Path) (mc : MonId) (ch : Fin 64) (s : State) (hS : s.Safe lf lg cq) :
    ∀ res, (execMonStart path mc ch s) = Host.Outcome.next res → (res).Safe lf lg cq := by
  intro res hv
  simp only [execMonStart, Host.Outcome.next.injEq] at hv
  subst hv
  repeat' (first
    | with_reducible assumption
    | with_reducible apply State.asked_safe
    | with_reducible apply State.monSel_safe
    | with_reducible apply foldl_snd2_safe
    | with_reducible refine pair3_safe (by with_reducible assumption) ?_
    | with_reducible refine pair_safe (by with_reducible assumption) ?_
    | with_reducible apply foldl_safe
    | with_reducible apply foldl_snd_safe
    | intro _
    | split
    | dsimp only
    | refine State.Safe.lit ?_ rfl rfl rfl rfl)

theorem execMonStart_safe' {path : Path} {mc : MonId} {ch : Fin 64} {s : State} {res} (eqn : (execMonStart path mc ch s) = Host.Outcome.next res) (hS : s.Safe lf lg cq)  :
    (res).Safe lf lg cq := execMonStart_safe path mc ch s hS res eqn

end Sys2Proof.Machine
end

