-- ==== Sys2Proof/Laws/Safe/CsOps.lean ====
section
/-! SUPPORT. One lemma for each operation of `Machine/CsOps.lean` that answers a state: it keeps `State.Safe` (the primed form says
the same of an answer that is known by an equation). -/

namespace Sys2Proof.Machine
open Sys2Proof
variable {lf lg : Nat} {cq : List Instr}

theorem State.winEnabled_safe (s : State) (m : Nat) (k : Nat) (old : Nat) (v : Nat) (hS : s.Safe lf lg cq) :
    ((State.winEnabled s m k old v)).Safe lf lg cq := by
  unfold State.winEnabled
  repeat' (first
    | with_reducible assumption
    | with_reducible apply State.setMon_safe
    | with_reducible apply foldl_snd2_safe
    | with_reducible refine pair3_safe (by with_reducible assumption) ?_
    | with_reducible refine pair_safe (by with_reducible assumption) ?_
    | with_reducible apply foldl_safe
    | with_reducible apply foldl_snd_safe
    | intro _
    | split
    | dsimp only
    | refine State.Safe.lit ?_ rfl rfl rfl rfl)

theorem State.afterWrite_safe (s : State) (r : Reg) (i : Nat) (k : Nat) (old : Nat) (v : Nat) (hS : s.Safe lf lg cq) :
    ((State.afterWrite s r i k old v)).Safe lf lg cq := by
  unfold State.afterWrite
  repeat' (first
    | with_reducible assumption
    | with_reducible apply State.touch_safe
    | with_reducible apply State.closeAll_safe
    | with_reducible apply State.portDown_safe
    | with_reducible apply State.each_safe
    | with_reducible apply State.calDisturbed_safe
    | with_reducible apply State.winEnabled_safe
    | with_reducible apply State.calOff_safe
    | with_reducible apply State.monTrigger_safe
    | with_reducible apply State.calBeginAll_safe
    | with_reducible apply State.adpSettle_safe
    | with_reducible apply State.setComparators_safe
    | with_reducible apply foldl_snd2_safe
    | with_reducible refine pair3_safe (by with_reducible assumption) ?_
    | with_reducible refine pair_safe (by with_reducible assumption) ?_
    | with_reducible apply foldl_safe
    | with_reducible apply foldl_snd_safe
    | intro _
    | split
    | dsimp only
    | refine State.Safe.lit ?_ rfl rfl rfl rfl)

theorem State.unmapped_safe (s : State) (p : Path) (addr : Nat) (read : Bool) (hS : s.Safe lf lg cq) :
    ((State.unmapped s p addr read)).Safe lf lg cq := by
  unfold State.unmapped
  repeat' (first
    | with_reducible assumption
    | with_reducible apply State.raise_safe
    | with_reducible apply State.flag_safe
    | with_reducible apply foldl_snd2_safe
    | with_reducible refine pair3_safe (by with_reducible assumption) ?_
    | with_reducible refine pair_safe (by with_reducible assumption) ?_
    | with_reducible apply foldl_safe
    | with_reducible apply foldl_snd_safe
    | intro _
    | split
    | dsimp only
    | refine State.Safe.lit ?_ rfl rfl rfl rfl)

theorem State.classWrite_safe (s : State) (p : Path) (r : Reg) (i : Nat) (k : Nat) (v : Nat) (hS : s.Safe lf lg cq) :
    ((State.classWrite s p r i k v)).Safe lf lg cq := by
  unfold State.classWrite
  extract_lets busy cur new s1 rws act s2
  have h1 : s1.Safe lf lg cq := by
    dsimp only [s1]
    split
    · exact State.ignored_safe _ _ _ _ hS
    · exact hS
  clear_value s1
  split
  · exact State.wr_safe _ _ _ _ _ h1
  · have h2 : s2.Safe lf lg cq := State.wr_safe _ _ _ _ _ h1
    clear_value s2
    refine ⟨h2.mem, h2.host, h2.regs, h2.ring, h2.fw, h2.cfg, h2.queue, { h2.canon with shadows := ?_ }⟩
    dsimp only
    split
    · exact NMap.sorted_erase _ h2.canon.shadows
    · exact NMap.sorted_insert _ _ h2.canon.shadows

theorem State.regWrite_safe (s : State) (p : Path) (r : Reg) (i : Nat) (k : Nat) (v : Nat) (hS : s.Safe lf lg cq) :
    ((State.regWrite s p r i k v)).Safe lf lg cq := by
  cases r <;> dsimp only [State.regWrite] <;> (repeat' (first
    | with_reducible assumption
    | with_reducible apply State.tbsCfg_safe
    | with_reducible apply State.pwrCmdWord_safe
    | with_reducible apply State.imgCmdWord_safe
    | with_reducible apply State.recWrite_safe
    | with_reducible apply State.chainLo_safe
    | with_reducible apply State.classWrite_safe
    | with_reducible apply State.srnCmdWord_safe
    | with_reducible apply State.clearPeak_safe
    | with_reducible apply State.spareCmd_safe
    | with_reducible apply State.mapWrite_safe
    | with_reducible apply State.trimCmdWord_safe
    | with_reducible apply State.stmCmdWord_safe
    | with_reducible apply State.monSel_safe
    | with_reducible apply State.chkCmdWord_safe
    | with_reducible apply State.monCtrl_safe
    | with_reducible apply State.sampleIdx_safe
    | with_reducible apply State.chainHi_safe
    | with_reducible apply State.winCfg_safe
    | with_reducible apply State.talCmdWord_safe
    | with_reducible apply State.afterWrite_safe
    | with_reducible apply State.trimWrite_safe
    | with_reducible apply State.queCmdWord_safe
    | with_reducible apply State.nltWrite_safe
    | with_reducible apply State.tenderRestart_safe
    | with_reducible apply State.sweepCmd_safe
    | with_reducible apply State.commit_safe
    | with_reducible apply State.arrCmdWord_safe
    | with_reducible apply State.cqHeadWrite_safe
    | with_reducible apply State.calCmd_safe
    | with_reducible apply State.recCmdWord_safe
    | with_reducible apply State.sqTailWrite_safe
    | split
    | refine State.Safe.lit ?_ rfl rfl rfl rfl))

theorem State.writeReg_safe (s : State) (p : Path) (r : Reg) (i : Nat) (k : Nat) (v : Nat) (hS : s.Safe lf lg cq) :
    ((State.writeReg s p r i k v)).Safe lf lg cq := by
  unfold State.writeReg
  repeat' (first
    | with_reducible assumption
    | with_reducible apply State.ignored_safe
    | with_reducible apply State.regWrite_safe
    | with_reducible apply foldl_snd2_safe
    | with_reducible refine pair3_safe (by with_reducible assumption) ?_
    | with_reducible refine pair_safe (by with_reducible assumption) ?_
    | with_reducible apply foldl_safe
    | with_reducible apply foldl_snd_safe
    | intro _
    | split
    | dsimp only
    | refine State.Safe.lit ?_ rfl rfl rfl rfl)

theorem State.csWrite_safe (s : State) (p : Path) (addr : Nat) (v : Nat) (hS : s.Safe lf lg cq) :
    ((State.csWrite s p addr v).2).Safe lf lg cq := by
  unfold State.csWrite
  repeat' (first
    | with_reducible assumption
    | with_reducible apply State.unmapped_safe
    | with_reducible apply State.ignored_safe
    | with_reducible apply State.writeReg_safe
    | with_reducible apply State.msixWrite_safe
    | with_reducible apply foldl_snd2_safe
    | with_reducible refine pair3_safe (by with_reducible assumption) ?_
    | with_reducible refine pair_safe (by with_reducible assumption) ?_
    | with_reducible apply foldl_safe
    | with_reducible apply foldl_snd_safe
    | intro _
    | split
    | dsimp only
    | refine State.Safe.lit ?_ rfl rfl rfl rfl)

theorem State.csWrite_safe' {s : State} {p : Path} {addr : Nat} {v : Nat} {y0 t} (eqn : (State.csWrite s p addr v) = (y0, t)) (hS : s.Safe lf lg cq)  : t.Safe lf lg cq := by
  have := State.csWrite_safe s p addr v hS
  rw [eqn] at this; exact this

theorem State.csPost_safe (s : State) (p : Path) (addr : Nat) (v : Nat) (hS : s.Safe lf lg cq) :
    ((State.csPost s p addr v)).Safe lf lg cq := by
  unfold State.csPost
  repeat' (first
    | with_reducible assumption
    | with_reducible apply State.csWrite_safe
    | with_reducible refine State.csWrite_safe' (by with_reducible assumption) ?_
    | with_reducible apply foldl_snd2_safe
    | with_reducible refine pair3_safe (by with_reducible assumption) ?_
    | with_reducible refine pair_safe (by with_reducible assumption) ?_
    | with_reducible apply foldl_safe
    | with_reducible apply foldl_snd_safe
    | intro _
    | split
    | dsimp only
    | refine State.Safe.lit ?_ rfl rfl rfl rfl)

theorem State.regWrites_safe (s : State) (hS : s.Safe lf lg cq) :
    ((State.regWrites s)).Safe lf lg cq := by
  unfold State.regWrites
  repeat' (first
    | with_reducible assumption
    | with_reducible apply State.each_safe
    | with_reducible apply State.csPost_safe
    | with_reducible apply foldl_snd2_safe
    | with_reducible refine pair3_safe (by with_reducible assumption) ?_
    | with_reducible refine pair_safe (by with_reducible assumption) ?_
    | with_reducible apply foldl_safe
    | with_reducible apply foldl_snd_safe
    | intro _
    | split
    | dsimp only
    | refine State.Safe.lit ?_ rfl rfl rfl rfl)

theorem State.badAccess_safe (s : State) (p : Path) (addr : Nat) (dwords : Nat) (hS : s.Safe lf lg cq) :
    ((State.badAccess s p addr dwords)).Safe lf lg cq := by
  unfold State.badAccess
  repeat' (first
    | with_reducible assumption
    | with_reducible apply State.raise_safe
    | with_reducible apply State.flag_safe
    | with_reducible apply foldl_snd2_safe
    | with_reducible refine pair3_safe (by with_reducible assumption) ?_
    | with_reducible refine pair_safe (by with_reducible assumption) ?_
    | with_reducible apply foldl_safe
    | with_reducible apply foldl_snd_safe
    | intro _
    | split
    | dsimp only
    | refine State.Safe.lit ?_ rfl rfl rfl rfl)

theorem State.csStores_safe (s : State) (p : Path) (addr : Nat) (a3 : List Nat) (hS : s.Safe lf lg cq) :
    ((State.csStores s p addr a3)).Safe lf lg cq := by
  induction a3 generalizing s addr with
  | nil => exact hS
  | cons v vs ih =>
    unfold State.csStores
    repeat' (first
      | with_reducible assumption
      | with_reducible apply State.csPost_safe
      | with_reducible apply ih
      | with_reducible apply foldl_snd2_safe
      | with_reducible refine pair3_safe (by with_reducible assumption) ?_
      | with_reducible refine pair_safe (by with_reducible assumption) ?_
      | with_reducible apply foldl_safe
      | with_reducible apply foldl_snd_safe
      | intro _
      | split
      | dsimp only
      | refine State.Safe.lit ?_ rfl rfl rfl rfl)

theorem State.regRead_safe (s : State) (p : Path) (r : Reg) (i : Nat) (k : Nat) (hS : s.Safe lf lg cq) :
    ((State.regRead s p r i k).2).Safe lf lg cq := by
  unfold State.regRead
  repeat' (first
    | with_reducible assumption
    | with_reducible apply State.trimStep_safe
    | with_reducible apply State.recRead_safe
    | with_reducible refine State.recRead_safe' (by with_reducible assumption) ?_
    | with_reducible apply State.latch_safe
    | with_reducible apply State.winLastLo_safe
    | with_reducible refine State.winLastLo_safe' (by with_reducible assumption) ?_
    | with_reducible apply State.nltStep_safe
    | with_reducible apply State.gainRead_safe
    | with_reducible refine State.gainRead_safe' (by with_reducible assumption) ?_
    | with_reducible apply foldl_snd2_safe
    | with_reducible refine pair3_safe (by with_reducible assumption) ?_
    | with_reducible refine pair_safe (by with_reducible assumption) ?_
    | with_reducible apply foldl_safe
    | with_reducible apply foldl_snd_safe
    | intro _
    | split
    | dsimp only
    | refine State.Safe.lit ?_ rfl rfl rfl rfl)

theorem State.regRead_safe' {s : State} {p : Path} {r : Reg} {i : Nat} {k : Nat} {y0 t} (eqn : (State.regRead s p r i k) = (y0, t)) (hS : s.Safe lf lg cq)  : t.Safe lf lg cq := by
  have := State.regRead_safe s p r i k hS
  rw [eqn] at this; exact this

theorem State.csRead_safe (s : State) (p : Path) (addr : Nat) (hS : s.Safe lf lg cq) :
    ((State.csRead s p addr).2).Safe lf lg cq := by
  unfold State.csRead
  repeat' (first
    | with_reducible assumption
    | with_reducible apply State.unmapped_safe
    | with_reducible apply State.regRead_safe
    | with_reducible refine State.regRead_safe' (by with_reducible assumption) ?_
    | with_reducible apply State.ctrLo_safe
    | with_reducible refine State.ctrLo_safe' (by with_reducible assumption) ?_
    | with_reducible apply foldl_snd2_safe
    | with_reducible refine pair3_safe (by with_reducible assumption) ?_
    | with_reducible refine pair_safe (by with_reducible assumption) ?_
    | with_reducible apply foldl_safe
    | with_reducible apply foldl_snd_safe
    | intro _
    | split
    | dsimp only
    | refine State.Safe.lit ?_ rfl rfl rfl rfl)

theorem State.csRead_safe' {s : State} {p : Path} {addr : Nat} {y0 t} (eqn : (State.csRead s p addr) = (y0, t)) (hS : s.Safe lf lg cq)  : t.Safe lf lg cq := by
  have := State.csRead_safe s p addr hS
  rw [eqn] at this; exact this

theorem State.csWords_safe (s : State) (p : Path) (addr : Nat) (a3 : Nat) (hS : s.Safe lf lg cq) :
    ((State.csWords s p addr a3).2).Safe lf lg cq := by
  induction a3 generalizing s addr with
  | zero => exact hS
  | succ n ih =>
    unfold State.csWords
    repeat' (first
      | with_reducible assumption
      | with_reducible apply State.csRead_safe
      | with_reducible refine State.csRead_safe' (by with_reducible assumption) ?_
      | with_reducible apply ih
      | with_reducible refine prod_safe (by with_reducible assumption) (ih _ _ ?_)
      | with_reducible apply foldl_snd2_safe
      | with_reducible refine pair3_safe (by with_reducible assumption) ?_
      | with_reducible refine pair_safe (by with_reducible assumption) ?_
      | with_reducible apply foldl_safe
      | with_reducible apply foldl_snd_safe
      | intro _
      | split
      | dsimp only
      | refine State.Safe.lit ?_ rfl rfl rfl rfl)

theorem State.csWords_safe' {s : State} {p : Path} {addr : Nat} {a3 : Nat} {y0 t} (eqn : (State.csWords s p addr a3) = (y0, t)) (hS : s.Safe lf lg cq)  : t.Safe lf lg cq := by
  have := State.csWords_safe s p addr a3 hS
  rw [eqn] at this; exact this

theorem State.bar0_safe (s : State) (addr : Nat) (op : Bar0) (hS : s.Safe lf lg cq) :
    ((State.bar0 s addr op)).Safe lf lg cq := by
  unfold State.bar0
  repeat' (first
    | with_reducible assumption
    | with_reducible apply State.badAccess_safe
    | with_reducible apply State.csStores_safe
    | with_reducible apply State.csWords_safe
    | with_reducible refine State.csWords_safe' (by with_reducible assumption) ?_
    | with_reducible apply State.send_safe
    | with_reducible apply foldl_snd2_safe
    | with_reducible refine pair3_safe (by with_reducible assumption) ?_
    | with_reducible refine pair_safe (by with_reducible assumption) ?_
    | with_reducible apply foldl_safe
    | with_reducible apply foldl_snd_safe
    | intro _
    | split
    | dsimp only
    | refine State.Safe.lit ?_ rfl rfl rfl rfl)

theorem State.idleShadow_safe (s : State) (addr : Nat) (hS : s.Safe lf lg cq) :
    ((State.idleShadow s addr)).Safe lf lg cq := by
  unfold State.idleShadow
  repeat' (first
    | with_reducible assumption
    | with_reducible apply State.applyShadow_safe
    | with_reducible apply foldl_snd2_safe
    | with_reducible refine pair3_safe (by with_reducible assumption) ?_
    | with_reducible refine pair_safe (by with_reducible assumption) ?_
    | with_reducible apply foldl_safe
    | with_reducible apply foldl_snd_safe
    | intro _
    | split
    | dsimp only
    | refine State.Safe.lit ?_ rfl rfl rfl rfl)

theorem State.access_safe (s : State) (p : Path) (addr : Nat) (op : Bar0) (hS : s.Safe lf lg cq) :
    ((State.access s p addr op)).Safe lf lg cq := by
  unfold State.access
  extract_lets a
  clear_value a
  split
  · exact State.bar0_safe _ _ _ hS
  · cases op with
    | write ds =>
      dsimp only
      split
      · exact State.csPost_safe _ _ _ _ hS
      · exact hS
    | read n =>
      dsimp only
      split
      · exact State.reply_safe _ _ _ (State.csRead_safe _ _ _ hS)
      · exact hS

end Sys2Proof.Machine
end

