-- ==== Sys2Proof/Laws/Safe/IdOps.lean ====
section
/-! SUPPORT. One lemma for each operation of `Machine/IdOps.lean` that answers a state: it keeps `State.Safe` (the primed form says
the same of an answer that is known by an equation). -/

namespace Sys2Proof.Machine
open Sys2Proof
variable {lf lg : Nat} {cq : List Instr}

theorem State.quote_safe (s : State) (d : List Byte) (hS : s.Safe lf lg cq) :
    ((State.quote s d)).Safe lf lg cq := by
  unfold State.quote
  repeat' (first
    | with_reducible assumption
    | with_reducible apply State.send_safe
    | with_reducible apply foldl_snd2_safe
    | with_reducible refine pair3_safe (by with_reducible assumption) ?_
    | with_reducible refine pair_safe (by with_reducible assumption) ?_
    | with_reducible apply foldl_safe
    | with_reducible apply foldl_snd_safe
    | intro _
    | split
    | dsimp only
    | refine State.Safe.lit ?_ rfl rfl rfl rfl)

theorem State.memCorrected_safe (s : State) (m : Nat) (key : Nat) (hS : s.Safe lf lg cq) :
    ((State.memCorrected s m key)).Safe lf lg cq := by
  unfold State.memCorrected
  repeat' (first
    | with_reducible assumption
    | with_reducible apply State.bump_safe
    | with_reducible apply State.raise_safe
    | with_reducible apply foldl_snd2_safe
    | with_reducible refine pair3_safe (by with_reducible assumption) ?_
    | with_reducible refine pair_safe (by with_reducible assumption) ?_
    | with_reducible apply foldl_safe
    | with_reducible apply foldl_snd_safe
    | intro _
    | split
    | dsimp only
    | refine State.Safe.lit ?_ rfl rfl rfl rfl)

theorem State.scrubFind_safe (s : State) (mem : ScrubMem) (f : ScrubFind) (hS : s.Safe lf lg cq) :
    ((State.scrubFind s mem f)).Safe lf lg cq := by
  unfold State.scrubFind
  repeat' (first
    | with_reducible assumption
    | with_reducible apply State.ueEvent_safe
    | with_reducible apply State.modCore_safe
    | with_reducible apply State.memCorrected_safe
    | with_reducible apply State.tenderFault_safe
    | with_reducible apply State.count_safe
    | with_reducible apply foldl_snd2_safe
    | with_reducible refine pair3_safe (by with_reducible assumption) ?_
    | with_reducible refine pair_safe (by with_reducible assumption) ?_
    | with_reducible apply foldl_safe
    | with_reducible apply foldl_snd_safe
    | intro _
    | split
    | dsimp only
    | refine State.Safe.lit ?_ rfl rfl rfl rfl)

theorem State.scrubPass_safe (s : State) (mem : ScrubMem) (finds : List ScrubFind) (hS : s.Safe lf lg cq) :
    ((State.scrubPass s mem finds)).Safe lf lg cq := by
  unfold State.scrubPass
  repeat' (first
    | with_reducible assumption
    | with_reducible apply State.scrubFind_safe
    | with_reducible apply State.each_safe
    | with_reducible apply State.count_safe
    | with_reducible apply foldl_snd2_safe
    | with_reducible refine pair3_safe (by with_reducible assumption) ?_
    | with_reducible refine pair_safe (by with_reducible assumption) ?_
    | with_reducible apply foldl_safe
    | with_reducible apply foldl_snd_safe
    | intro _
    | split
    | dsimp only
    | refine State.Safe.lit ?_ rfl rfl rfl rfl)

theorem State.eventDatagram_safe (s : State) (hS : s.Safe lf lg cq) :
    ((State.eventDatagram s)).Safe lf lg cq := by
  unfold State.eventDatagram
  repeat' (first
    | with_reducible assumption
    | with_reducible apply State.count_safe
    | with_reducible apply State.send_safe
    | with_reducible apply foldl_snd2_safe
    | with_reducible refine pair3_safe (by with_reducible assumption) ?_
    | with_reducible refine pair_safe (by with_reducible assumption) ?_
    | with_reducible apply foldl_safe
    | with_reducible apply foldl_snd_safe
    | intro _
    | split
    | dsimp only
    | refine State.Safe.lit ?_ rfl rfl rfl rfl)

theorem State.smbus_safe (s : State) (op : SmbusOp) (hS : s.Safe lf lg cq) :
    ((State.smbus s op)).Safe lf lg cq := by
  unfold State.smbus
  repeat' (first
    | with_reducible assumption
    | with_reducible apply State.send_safe
    | with_reducible apply foldl_snd2_safe
    | with_reducible refine pair3_safe (by with_reducible assumption) ?_
    | with_reducible refine pair_safe (by with_reducible assumption) ?_
    | with_reducible apply foldl_safe
    | with_reducible apply foldl_snd_safe
    | intro _
    | split
    | dsimp only
    | refine State.Safe.lit ?_ rfl rfl rfl rfl)

theorem State.dropRequest_safe (s : State) (cause : Nat) (hS : s.Safe lf lg cq) :
    ((State.dropRequest s cause)).Safe lf lg cq := by
  unfold State.dropRequest
  repeat' (first
    | with_reducible assumption
    | with_reducible apply State.raise_safe
    | with_reducible apply foldl_snd2_safe
    | with_reducible refine pair3_safe (by with_reducible assumption) ?_
    | with_reducible refine pair_safe (by with_reducible assumption) ?_
    | with_reducible apply foldl_safe
    | with_reducible apply foldl_snd_safe
    | intro _
    | split
    | dsimp only
    | refine State.Safe.lit ?_ rfl rfl rfl rfl)

theorem State.mgmtReads_safe (s : State) (addr : Nat) (a2 : Nat) (hS : s.Safe lf lg cq) :
    ((State.mgmtReads s addr a2).2.2).Safe lf lg cq := by
  induction a2 generalizing s addr with
  | zero => exact hS
  | succ n ih =>
    unfold State.mgmtReads
    repeat' (first
      | with_reducible assumption
      | with_reducible apply State.csRead_safe
      | with_reducible refine State.csRead_safe' (by with_reducible assumption) ?_
      | with_reducible apply ih
      | with_reducible refine prod3_safe (by with_reducible assumption) (ih _ _ ?_)
      | with_reducible apply foldl_snd2_safe
      | with_reducible refine pair3_safe (by with_reducible assumption) ?_
      | with_reducible refine pair_safe (by with_reducible assumption) ?_
      | with_reducible apply foldl_safe
      | with_reducible apply foldl_snd_safe
      | intro _
      | split
      | dsimp only
      | refine State.Safe.lit ?_ rfl rfl rfl rfl)

theorem State.mgmtReads_safe' {s : State} {addr : Nat} {a2 : Nat} {y0 y1 t} (eqn : (State.mgmtReads s addr a2) = (y1, (y0, t))) (hS : s.Safe lf lg cq)  : t.Safe lf lg cq := by
  have := State.mgmtReads_safe s addr a2 hS
  rw [eqn] at this; exact this

theorem State.mgmtWrites_safe (s : State) (addr : Nat) (a2 : List Nat) (hS : s.Safe lf lg cq) :
    ((State.mgmtWrites s addr a2).2).Safe lf lg cq := by
  induction a2 generalizing s addr with
  | nil => exact hS
  | cons v vs ih =>
    unfold State.mgmtWrites
    repeat' (first
      | with_reducible assumption
      | with_reducible apply State.csWrite_safe
      | with_reducible refine State.csWrite_safe' (by with_reducible assumption) ?_
      | with_reducible apply ih
      | with_reducible refine prod_safe (by with_reducible assumption) (ih _ _ ?_)
      | with_reducible apply foldl_snd2_safe
      | with_reducible refine pair3_safe (by with_reducible assumption) ?_
      | with_reducible refine pair_safe (by with_reducible assumption) ?_
      | with_reducible apply foldl_safe
      | with_reducible apply foldl_snd_safe
      | intro _
      | split
      | dsimp only
      | refine State.Safe.lit ?_ rfl rfl rfl rfl)

theorem State.mgmtWrites_safe' {s : State} {addr : Nat} {a2 : List Nat} {y0 t} (eqn : (State.mgmtWrites s addr a2) = (y0, t)) (hS : s.Safe lf lg cq)  : t.Safe lf lg cq := by
  have := State.mgmtWrites_safe s addr a2 hS
  rw [eqn] at this; exact this

theorem State.mgmtRequest_safe (s : State) (d : List Byte) (hS : s.Safe lf lg cq) :
    ((State.mgmtRequest s d)).Safe lf lg cq := by
  unfold State.mgmtRequest
  repeat' (first
    | with_reducible assumption
    | with_reducible apply State.dropRequest_safe
    | with_reducible apply State.mgmtReads_safe
    | with_reducible refine State.mgmtReads_safe' (by with_reducible assumption) ?_
    | with_reducible apply State.mgmtWrites_safe
    | with_reducible refine State.mgmtWrites_safe' (by with_reducible assumption) ?_
    | with_reducible apply State.send_safe
    | with_reducible apply foldl_snd2_safe
    | with_reducible refine pair3_safe (by with_reducible assumption) ?_
    | with_reducible refine pair_safe (by with_reducible assumption) ?_
    | with_reducible apply foldl_safe
    | with_reducible apply foldl_snd_safe
    | intro _
    | split
    | dsimp only
    | refine State.Safe.lit ?_ rfl rfl rfl rfl)

theorem State.chainReply_safe (s : State) (d : List Byte) (hS : s.Safe lf lg cq) :
    ((State.chainReply s d)).Safe lf lg cq := by
  unfold State.chainReply
  repeat' (first
    | with_reducible assumption
    | with_reducible apply State.send_safe
    | with_reducible apply foldl_snd2_safe
    | with_reducible refine pair3_safe (by with_reducible assumption) ?_
    | with_reducible refine pair_safe (by with_reducible assumption) ?_
    | with_reducible apply foldl_safe
    | with_reducible apply foldl_snd_safe
    | intro _
    | split
    | dsimp only
    | refine State.Safe.lit ?_ rfl rfl rfl rfl)

end Sys2Proof.Machine
end

