-- ==== Sys2Proof/Laws/Safe/StartOps.lean ====
section
/-! SUPPORT. One lemma for each operation of `Machine/StartOps.lean` that answers a state: it keeps `State.Safe` (the primed form says
the same of an answer that is known by an equation). -/

namespace Sys2Proof.Machine
open Sys2Proof
variable {lf lg : Nat} {cq : List Instr}

theorem State.recallArr_safe (s : State) (r : ArrRec) (hS : s.Safe lf lg cq) :
    ((State.recallArr s r)).Safe lf lg cq := by
  unfold State.recallArr
  repeat' (first
    | with_reducible assumption
    | with_reducible apply State.modArr_safe
    | with_reducible apply State.wr_safe
    | with_reducible apply State.each_safe
    | with_reducible apply State.raise_safe
    | with_reducible apply State.flag_safe
    | with_reducible apply State.wf__safe
    | with_reducible apply foldl_snd2_safe
    | with_reducible refine pair3_safe (by with_reducible assumption) ?_
    | with_reducible refine pair_safe (by with_reducible assumption) ?_
    | with_reducible apply foldl_safe
    | with_reducible apply foldl_snd_safe
    | intro _
    | split
    | dsimp only
    | refine State.Safe.lit ?_ rfl rfl rfl rfl)

theorem State.nowReady_safe (s : State) (hS : s.Safe lf lg cq) :
    ((State.nowReady s)).Safe lf lg cq := by
  unfold State.nowReady
  repeat' (first
    | with_reducible assumption
    | with_reducible apply State.raise_safe
    | with_reducible apply State.wf__safe
    | with_reducible apply State.setPwr_safe
    | with_reducible apply State.mainPaths_safe
    | with_reducible apply foldl_snd2_safe
    | with_reducible refine pair3_safe (by with_reducible assumption) ?_
    | with_reducible refine pair_safe (by with_reducible assumption) ?_
    | with_reducible apply foldl_safe
    | with_reducible apply foldl_snd_safe
    | intro _
    | split
    | dsimp only
    | refine State.Safe.lit ?_ rfl rfl rfl rfl)

theorem State.recallPage_safe (s : State) (page : Nat) (hS : s.Safe lf lg cq) :
    ((State.recallPage s page).2).Safe lf lg cq := by
  unfold State.recallPage
  repeat' (first
    | with_reducible assumption
    | with_reducible apply State.raise_safe
    | with_reducible apply foldl_snd2_safe
    | with_reducible refine pair3_safe (by with_reducible assumption) ?_
    | with_reducible refine pair_safe (by with_reducible assumption) ?_
    | with_reducible apply foldl_safe
    | with_reducible apply foldl_snd_safe
    | intro _
    | split
    | dsimp only
    | refine State.Safe.lit ?_ rfl rfl rfl rfl)

theorem State.recallPage_safe' {s : State} {page : Nat} {y0 t} (eqn : (State.recallPage s page) = (y0, t)) (hS : s.Safe lf lg cq)  : t.Safe lf lg cq := by
  have := State.recallPage_safe s page hS
  rw [eqn] at this; exact this

theorem State.recallModels_safe (s : State) (hS : s.Safe lf lg cq) :
    ((State.recallModels s)).Safe lf lg cq := by
  unfold State.recallModels
  repeat' (first
    | with_reducible assumption
    | with_reducible apply State.imgRaise_safe
    | with_reducible apply State.each_safe
    | with_reducible apply foldl_snd2_safe
    | with_reducible refine pair3_safe (by with_reducible assumption) ?_
    | with_reducible refine pair_safe (by with_reducible assumption) ?_
    | with_reducible apply foldl_safe
    | with_reducible apply foldl_snd_safe
    | intro _
    | split
    | dsimp only
    | refine State.Safe.lit ?_ rfl rfl rfl rfl)

theorem State.countStart_safe (s : State) (hS : s.Safe lf lg cq) :
    ((State.countStart s)).Safe lf lg cq := by
  unfold State.countStart
  repeat' (first
    | with_reducible assumption
    | with_reducible apply State.touch_safe
    | with_reducible apply State.wr_safe
    | with_reducible apply foldl_snd2_safe
    | with_reducible refine pair3_safe (by with_reducible assumption) ?_
    | with_reducible refine pair_safe (by with_reducible assumption) ?_
    | with_reducible apply foldl_safe
    | with_reducible apply foldl_snd_safe
    | intro _
    | split
    | dsimp only
    | refine State.Safe.lit ?_ rfl rfl rfl rfl)

theorem State.recallCore_safe (s : State) (r : CoreRec) (hS : s.Safe lf lg cq) :
    ((State.recallCore s r)).Safe lf lg cq := by
  unfold State.recallCore
  repeat' (first
    | with_reducible assumption
    | with_reducible apply State.modArr_safe
    | with_reducible apply State.modCore_safe
    | with_reducible apply State.flag_safe
    | with_reducible apply foldl_snd2_safe
    | with_reducible refine pair3_safe (by with_reducible assumption) ?_
    | with_reducible refine pair_safe (by with_reducible assumption) ?_
    | with_reducible apply foldl_safe
    | with_reducible apply foldl_snd_safe
    | intro _
    | split
    | dsimp only
    | refine State.Safe.lit ?_ rfl rfl rfl rfl)

theorem State.recallTake_safe (s : State) (page : Nat) (d : Option Payload) (hS : s.Safe lf lg cq) :
    ((State.recallTake s page d)).Safe lf lg cq := by
  unfold State.recallTake
  have h0 : ∀ m : NMap Model, NMap.wf (fun _ => {}) m = true → ({ s with models := m } : State).Safe lf lg cq :=
    fun m hm => ⟨hS.mem, hS.host, hS.regs, hS.ring, hS.fw, hS.cfg, hS.queue, { hS.canon with models := hm }⟩
  repeat' (first
    | with_reducible assumption
    | with_reducible apply State.modArr_safe
    | with_reducible apply State.wr_safe
    | with_reducible apply State.each_safe
    | with_reducible apply State.recallArr_safe
    | with_reducible apply State.recallCore_safe
    | split
    | exact h0 _ (wf_foldl_set _ _ _ _ rfl)
    | exact State.each_safe _ _ _ hS (fun t x ht => State.recallArr_safe _ _ ht)
    | exact State.each_safe _ _ _ hS (fun t x ht => State.recallCore_safe _ _ ht)
    | intro _
    | split
    | refine State.Safe.lit ?_ rfl rfl rfl rfl)

theorem State.recallEnd_safe (s : State) (hS : s.Safe lf lg cq) :
    ((State.recallEnd s)).Safe lf lg cq := by
  unfold State.recallEnd
  extract_lets s1 src s2 s2' src2 s3 s4 ready src3
  have h1 : s1.Safe lf lg cq :=
    State.each_safe _ _ _ hS fun t page ht => State.recallTake_safe _ _ _ (State.recallPage_safe _ _ ht)
  clear_value s1
  have h2 : s2.Safe lf lg cq := State.Safe.lit h1 rfl rfl rfl rfl
  have h2' : s2'.Safe lf lg cq := by
    clear_value s2
    dsimp only [s2']
    split
    · exact h2
    · exact State.storePage_safe _ _ h2
  have h3 : s3.Safe lf lg cq := by
    clear_value s2'
    dsimp only [s3]
    split
    · exact State.raise_safe _ _ (State.Safe.lit h2' rfl rfl rfl rfl)
    · exact h2'
  clear_value s3
  have h4 : s4.Safe lf lg cq := State.setComparators_safe _ (State.recallModels_safe _ (State.countStart_safe _ h3))
  clear_value s4
  exact State.wf__safe _ _ _ _ _ _ (State.Safe.lit h4 rfl rfl rfl rfl)

theorem State.fullScan_safe (s : State) (a : Nat) (weak : Nat) (hS : s.Safe lf lg cq) :
    ((State.fullScan s a weak)).Safe lf lg cq := by
  unfold State.fullScan
  repeat' (first
    | with_reducible assumption
    | with_reducible apply State.modArr_safe
    | with_reducible apply State.fresh_safe
    | with_reducible refine State.fresh_safe' (by with_reducible assumption) ?_
    | with_reducible apply State.wr_safe
    | with_reducible apply State.raise_safe
    | with_reducible apply State.flag_safe
    | with_reducible apply State.count_safe
    | with_reducible apply foldl_snd2_safe
    | with_reducible refine pair3_safe (by with_reducible assumption) ?_
    | with_reducible refine pair_safe (by with_reducible assumption) ?_
    | with_reducible apply foldl_safe
    | with_reducible apply foldl_snd_safe
    | intro _
    | split
    | dsimp only
    | refine State.Safe.lit ?_ rfl rfl rfl rfl)

theorem State.marginNext_safe (s : State) (hS : s.Safe lf lg cq) :
    ((State.marginNext s)).Safe lf lg cq := by
  unfold State.marginNext
  repeat' (first
    | with_reducible assumption
    | with_reducible apply State.wf__safe
    | with_reducible apply foldl_snd2_safe
    | with_reducible refine pair3_safe (by with_reducible assumption) ?_
    | with_reducible refine pair_safe (by with_reducible assumption) ?_
    | with_reducible apply foldl_safe
    | with_reducible apply foldl_snd_safe
    | intro _
    | split
    | dsimp only
    | refine State.Safe.lit ?_ rfl rfl rfl rfl)

theorem State.marginCheck_safe (s : State) (a : Nat) (weak : Nat) (hS : s.Safe lf lg cq) :
    ((State.marginCheck s a weak)).Safe lf lg cq := by
  unfold State.marginCheck
  repeat' (first
    | with_reducible assumption
    | with_reducible apply State.fullScan_safe
    | with_reducible apply State.marginNext_safe
    | with_reducible apply foldl_snd2_safe
    | with_reducible refine pair3_safe (by with_reducible assumption) ?_
    | with_reducible refine pair_safe (by with_reducible assumption) ?_
    | with_reducible apply foldl_safe
    | with_reducible apply foldl_snd_safe
    | intro _
    | split
    | dsimp only
    | refine State.Safe.lit ?_ rfl rfl rfl rfl)

theorem State.startSet_safe (s : State) (a : Nat) (fb : Nat) (m : CalCodes) (hS : s.Safe lf lg cq) :
    ((State.startSet s a fb m)).Safe lf lg cq := by
  unfold State.startSet
  repeat' (first
    | with_reducible assumption
    | with_reducible apply State.nullSwap_safe
    | with_reducible apply State.setFactors_safe
    | with_reducible apply foldl_snd2_safe
    | with_reducible refine pair3_safe (by with_reducible assumption) ?_
    | with_reducible refine pair_safe (by with_reducible assumption) ?_
    | with_reducible apply foldl_safe
    | with_reducible apply foldl_snd_safe
    | intro _
    | split
    | dsimp only
    | refine State.Safe.lit ?_ rfl rfl rfl rfl)

theorem State.calAnew_safe (s : State) (c : Nat) (set : Nat) (hS : s.Safe lf lg cq) :
    ((State.calAnew s c set)).Safe lf lg cq := by
  unfold State.calAnew
  repeat' (first
    | with_reducible assumption
    | with_reducible apply State.setCal_safe
    | with_reducible apply foldl_snd2_safe
    | with_reducible refine pair3_safe (by with_reducible assumption) ?_
    | with_reducible refine pair_safe (by with_reducible assumption) ?_
    | with_reducible apply foldl_safe
    | with_reducible apply foldl_snd_safe
    | intro _
    | split
    | dsimp only
    | refine State.Safe.lit ?_ rfl rfl rfl rfl)

theorem State.calNewer_safe (s : State) (c : Nat) (set : Nat) (l : Nat) (fb : Nat) (m : CalCodes) (k : List Rat) (hS : s.Safe lf lg cq) :
    ((State.calNewer s c set l fb m k)).Safe lf lg cq := by
  unfold State.calNewer
  repeat' (first
    | with_reducible assumption
    | with_reducible apply State.setCal_safe
    | with_reducible apply foldl_snd2_safe
    | with_reducible refine pair3_safe (by with_reducible assumption) ?_
    | with_reducible refine pair_safe (by with_reducible assumption) ?_
    | with_reducible apply foldl_safe
    | with_reducible apply foldl_snd_safe
    | intro _
    | split
    | dsimp only
    | refine State.Safe.lit ?_ rfl rfl rfl rfl)

theorem State.startCal_safe (s : State) (a : Nat) (m : CalCodes) (hS : s.Safe lf lg cq) :
    ((State.startCal s a m)).Safe lf lg cq := by
  unfold State.startCal
  extract_lets c fb done
  have hd : ∀ t, t.Safe lf lg cq → (done t).Safe lf lg cq := fun t ht => State.Safe.lit ht rfl rfl rfl rfl
  clear_value done c
  split
  · extract_lets set
    clear_value set
    split
    · split
      exact hd _ (State.calNewer_safe _ _ _ _ _ _ _ (State.modArr_safe _ _ _ hS))
    · rename_i s2 _ _ _ s3 _
      have h2 : s2.Safe lf lg cq := hd _ (State.startSet_safe _ _ _ _ hS)
      clear_value s2
      refine State.calBegin_safe _ _ _ (State.calReload_safe _ _ _ (State.calAnew_safe _ _ _ ?_))
      dsimp only [s3]
      split
      · exact State.serve_safe _ _ _ h2
      · exact h2
  · exact hd _ (State.startSet_safe _ _ _ _ hS)

theorem State.startConvs_safe (s : State) (a : Nat) (hS : s.Safe lf lg cq) :
    ((State.startConvs s a)).Safe lf lg cq := by
  unfold State.startConvs
  repeat' (first
    | with_reducible assumption
    | with_reducible apply State.count_safe
    | with_reducible apply foldl_snd2_safe
    | with_reducible refine pair3_safe (by with_reducible assumption) ?_
    | with_reducible refine pair_safe (by with_reducible assumption) ?_
    | with_reducible apply foldl_safe
    | with_reducible apply foldl_snd_safe
    | intro _
    | split
    | dsimp only
    | refine State.Safe.lit ?_ rfl rfl rfl rfl)

theorem State.startCalEnd_safe (s : State) (a : Nat) (m : CalCodes) (hS : s.Safe lf lg cq) :
    ((State.startCalEnd s a m)).Safe lf lg cq := by
  unfold State.startCalEnd
  repeat' (first
    | with_reducible assumption
    | with_reducible apply State.permArr_safe
    | with_reducible apply State.openFail_safe
    | with_reducible apply State.startCal_safe
    | with_reducible apply State.startConvs_safe
    | with_reducible apply State.quarantine_safe
    | with_reducible apply foldl_snd2_safe
    | with_reducible refine pair3_safe (by with_reducible assumption) ?_
    | with_reducible refine pair_safe (by with_reducible assumption) ?_
    | with_reducible apply foldl_safe
    | with_reducible apply foldl_snd_safe
    | intro _
    | split
    | dsimp only
    | refine State.Safe.lit ?_ rfl rfl rfl rfl)

theorem State.wakeCal_safe (s : State) (ms : List (Nat × CalCodes)) (hS : s.Safe lf lg cq) :
    ((State.wakeCal s ms)).Safe lf lg cq := by
  unfold State.wakeCal
  repeat' (first
    | with_reducible assumption
    | with_reducible apply State.each_safe
    | with_reducible apply State.startCal_safe
    | with_reducible apply State.startConvs_safe
    | with_reducible apply foldl_snd2_safe
    | with_reducible refine pair3_safe (by with_reducible assumption) ?_
    | with_reducible refine pair_safe (by with_reducible assumption) ?_
    | with_reducible apply foldl_safe
    | with_reducible apply foldl_snd_safe
    | intro _
    | split
    | dsimp only
    | refine State.Safe.lit ?_ rfl rfl rfl rfl)

end Sys2Proof.Machine
end

