-- ==== Sys2Proof/Laws/Safe/ControlSpace.lean ====
section
/-! SUPPORT. One lemma for each operation of `Machine/ControlSpace.lean` that answers a state: it keeps `State.Safe` (the primed form says
the same of an answer that is known by an equation). -/

namespace Sys2Proof.Machine
open Sys2Proof
variable {lf lg : Nat} {cq : List Instr}

theorem execRecordRecallDone_safe (s : State) (hS : s.Safe lf lg cq) :
    ∀ res, (execRecordRecallDone s) = Host.Outcome.next res → (res).Safe lf lg cq := by
  intro res hv
  simp only [execRecordRecallDone, Host.Outcome.next.injEq] at hv
  subst hv
  repeat' (first
    | with_reducible assumption
    | with_reducible apply State.regWrites_safe
    | with_reducible apply State.recallEnd_safe
    | with_reducible apply foldl_snd2_safe
    | with_reducible refine pair3_safe (by with_reducible assumption) ?_
    | with_reducible refine pair_safe (by with_reducible assumption) ?_
    | with_reducible apply foldl_safe
    | with_reducible apply foldl_snd_safe
    | intro _
    | split
    | dsimp only
    | refine State.Safe.lit ?_ rfl rfl rfl rfl)

theorem execRecordRecallDone_safe' {s : State} {res} (eqn : (execRecordRecallDone s) = Host.Outcome.next res) (hS : s.Safe lf lg cq)  :
    (res).Safe lf lg cq := execRecordRecallDone_safe s hS res eqn

theorem execMemScrubPass_safe (mem : ScrubMem) (finds : List ScrubFind) (s : State) (hS : s.Safe lf lg cq) :
    ∀ res, (execMemScrubPass mem finds s) = Host.Outcome.next res → (res).Safe lf lg cq := by
  intro res hv
  simp only [execMemScrubPass, Host.Outcome.next.injEq] at hv
  subst hv
  repeat' (first
    | with_reducible assumption
    | with_reducible apply State.scrubPass_safe
    | with_reducible apply foldl_snd2_safe
    | with_reducible refine pair3_safe (by with_reducible assumption) ?_
    | with_reducible refine pair_safe (by with_reducible assumption) ?_
    | with_reducible apply foldl_safe
    | with_reducible apply foldl_snd_safe
    | intro _
    | split
    | dsimp only
    | refine State.Safe.lit ?_ rfl rfl rfl rfl)

theorem execMemScrubPass_safe' {mem : ScrubMem} {finds : List ScrubFind} {s : State} {res} (eqn : (execMemScrubPass mem finds s) = Host.Outcome.next res) (hS : s.Safe lf lg cq)  :
    (res).Safe lf lg cq := execMemScrubPass_safe mem finds s hS res eqn

theorem execCoreSelfTestDone_safe (c : CoreId) (pass : Bool) (s : State) (hS : s.Safe lf lg cq) :
    ∀ res, (execCoreSelfTestDone c pass s) = Host.Outcome.next res → (res).Safe lf lg cq := by
  intro res hv
  simp only [execCoreSelfTestDone, Host.Outcome.next.injEq] at hv
  subst hv
  repeat' (first
    | with_reducible assumption
    | with_reducible apply State.selfTestEnd_safe
    | with_reducible apply foldl_snd2_safe
    | with_reducible refine pair3_safe (by with_reducible assumption) ?_
    | with_reducible refine pair_safe (by with_reducible assumption) ?_
    | with_reducible apply foldl_safe
    | with_reducible apply foldl_snd_safe
    | intro _
    | split
    | dsimp only
    | refine State.Safe.lit ?_ rfl rfl rfl rfl)

theorem execCoreSelfTestDone_safe' {c : CoreId} {pass : Bool} {s : State} {res} (eqn : (execCoreSelfTestDone c pass s) = Host.Outcome.next res) (hS : s.Safe lf lg cq)  :
    (res).Safe lf lg cq := execCoreSelfTestDone_safe c pass s hS res eqn

theorem execQuote_safe (dgram : List Byte) (s : State) (hS : s.Safe lf lg cq) :
    ∀ res, (execQuote dgram s) = Host.Outcome.next res → (res).Safe lf lg cq := by
  intro res hv
  simp only [execQuote, Host.Outcome.next.injEq] at hv
  subst hv
  repeat' (first
    | with_reducible assumption
    | with_reducible apply State.quote_safe
    | with_reducible apply foldl_snd2_safe
    | with_reducible refine pair3_safe (by with_reducible assumption) ?_
    | with_reducible refine pair_safe (by with_reducible assumption) ?_
    | with_reducible apply foldl_safe
    | with_reducible apply foldl_snd_safe
    | intro _
    | split
    | dsimp only
    | refine State.Safe.lit ?_ rfl rfl rfl rfl)

theorem execQuote_safe' {dgram : List Byte} {s : State} {res} (eqn : (execQuote dgram s) = Host.Outcome.next res) (hS : s.Safe lf lg cq)  :
    (res).Safe lf lg cq := execQuote_safe dgram s hS res eqn

theorem execEventDatagramSend_safe (s : State) (hS : s.Safe lf lg cq) :
    ∀ res, (execEventDatagramSend s) = Host.Outcome.next res → (res).Safe lf lg cq := by
  intro res hv
  simp only [execEventDatagramSend, Host.Outcome.next.injEq] at hv
  subst hv
  repeat' (first
    | with_reducible assumption
    | with_reducible apply State.eventDatagram_safe
    | with_reducible apply foldl_snd2_safe
    | with_reducible refine pair3_safe (by with_reducible assumption) ?_
    | with_reducible refine pair_safe (by with_reducible assumption) ?_
    | with_reducible apply foldl_safe
    | with_reducible apply foldl_snd_safe
    | intro _
    | split
    | dsimp only
    | refine State.Safe.lit ?_ rfl rfl rfl rfl)

theorem execEventDatagramSend_safe' {s : State} {res} (eqn : (execEventDatagramSend s) = Host.Outcome.next res) (hS : s.Safe lf lg cq)  :
    (res).Safe lf lg cq := execEventDatagramSend_safe s hS res eqn

theorem execControlSpaceRequest_safe (dgram : List Byte) (s : State) (hS : s.Safe lf lg cq) :
    ∀ res, (execControlSpaceRequest dgram s) = Host.Outcome.next res → (res).Safe lf lg cq := by
  intro res hv
  simp only [execControlSpaceRequest, Host.Outcome.next.injEq] at hv
  subst hv
  repeat' (first
    | with_reducible assumption
    | with_reducible apply State.mgmtRequest_safe
    | with_reducible apply foldl_snd2_safe
    | with_reducible refine pair3_safe (by with_reducible assumption) ?_
    | with_reducible refine pair_safe (by with_reducible assumption) ?_
    | with_reducible apply foldl_safe
    | with_reducible apply foldl_snd_safe
    | intro _
    | split
    | dsimp only
    | refine State.Safe.lit ?_ rfl rfl rfl rfl)

theorem execControlSpaceRequest_safe' {dgram : List Byte} {s : State} {res} (eqn : (execControlSpaceRequest dgram s) = Host.Outcome.next res) (hS : s.Safe lf lg cq)  :
    (res).Safe lf lg cq := execControlSpaceRequest_safe dgram s hS res eqn

theorem execRetestCore_safe (path : Path) (c : CoreId) (s : State) (hS : s.Safe lf lg cq) :
    ∀ res, (execRetestCore path c s) = Host.Outcome.next res → (res).Safe lf lg cq := by
  intro res hv
  simp only [execRetestCore, Host.Outcome.next.injEq] at hv
  subst hv
  repeat' (first
    | with_reducible assumption
    | with_reducible apply State.asked_safe
    | with_reducible apply State.retestCmd_safe
    | with_reducible apply foldl_snd2_safe
    | with_reducible refine pair3_safe (by with_reducible assumption) ?_
    | with_reducible refine pair_safe (by with_reducible assumption) ?_
    | with_reducible apply foldl_safe
    | with_reducible apply foldl_snd_safe
    | intro _
    | split
    | dsimp only
    | refine State.Safe.lit ?_ rfl rfl rfl rfl)

theorem execRetestCore_safe' {path : Path} {c : CoreId} {s : State} {res} (eqn : (execRetestCore path c s) = Host.Outcome.next res) (hS : s.Safe lf lg cq)  :
    (res).Safe lf lg cq := execRetestCore_safe path c s hS res eqn

theorem execRwsShadowApplyIdle_safe (addr : Word) (s : State) (hS : s.Safe lf lg cq) :
    ∀ res, (execRwsShadowApplyIdle addr s) = Host.Outcome.next res → (res).Safe lf lg cq := by
  intro res hv
  simp only [execRwsShadowApplyIdle, Host.Outcome.next.injEq] at hv
  subst hv
  repeat' (first
    | with_reducible assumption
    | with_reducible apply State.idleShadow_safe
    | with_reducible apply foldl_snd2_safe
    | with_reducible refine pair3_safe (by with_reducible assumption) ?_
    | with_reducible refine pair_safe (by with_reducible assumption) ?_
    | with_reducible apply foldl_safe
    | with_reducible apply foldl_snd_safe
    | intro _
    | split
    | dsimp only
    | refine State.Safe.lit ?_ rfl rfl rfl rfl)

theorem execRwsShadowApplyIdle_safe' {addr : Word} {s : State} {res} (eqn : (execRwsShadowApplyIdle addr s) = Host.Outcome.next res) (hS : s.Safe lf lg cq)  :
    (res).Safe lf lg cq := execRwsShadowApplyIdle_safe addr s hS res eqn

theorem execRegisterWrite_safe (path : Path) (addr : Word) (op : Bar0) (s : State) (hS : s.Safe lf lg cq) :
    ∀ res, (execRegisterWrite path addr op s) = Host.Outcome.next res → (res).Safe lf lg cq := by
  intro res hv
  simp only [execRegisterWrite, Host.Outcome.next.injEq] at hv
  subst hv
  repeat' (first
    | with_reducible assumption
    | with_reducible apply State.access_safe
    | with_reducible apply foldl_snd2_safe
    | with_reducible refine pair3_safe (by with_reducible assumption) ?_
    | with_reducible refine pair_safe (by with_reducible assumption) ?_
    | with_reducible apply foldl_safe
    | with_reducible apply foldl_snd_safe
    | intro _
    | split
    | dsimp only
    | refine State.Safe.lit ?_ rfl rfl rfl rfl)

theorem execRegisterWrite_safe' {path : Path} {addr : Word} {op : Bar0} {s : State} {res} (eqn : (execRegisterWrite path addr op s) = Host.Outcome.next res) (hS : s.Safe lf lg cq)  :
    (res).Safe lf lg cq := execRegisterWrite_safe path addr op s hS res eqn

theorem execChain_safe (dgram : List Byte) (s : State) (hS : s.Safe lf lg cq) :
    ∀ res, (execChain dgram s) = Host.Outcome.next res → (res).Safe lf lg cq := by
  intro res hv
  simp only [execChain, Host.Outcome.next.injEq] at hv
  subst hv
  repeat' (first
    | with_reducible assumption
    | with_reducible apply State.chainReply_safe
    | with_reducible apply foldl_snd2_safe
    | with_reducible refine pair3_safe (by with_reducible assumption) ?_
    | with_reducible refine pair_safe (by with_reducible assumption) ?_
    | with_reducible apply foldl_safe
    | with_reducible apply foldl_snd_safe
    | intro _
    | split
    | dsimp only
    | refine State.Safe.lit ?_ rfl rfl rfl rfl)

theorem execChain_safe' {dgram : List Byte} {s : State} {res} (eqn : (execChain dgram s) = Host.Outcome.next res) (hS : s.Safe lf lg cq)  :
    (res).Safe lf lg cq := execChain_safe dgram s hS res eqn

theorem execSmbusBlockRead_safe (op : SmbusOp) (s : State) (hS : s.Safe lf lg cq) :
    ∀ res, (execSmbusBlockRead op s) = Host.Outcome.next res → (res).Safe lf lg cq := by
  intro res hv
  simp only [execSmbusBlockRead, Host.Outcome.next.injEq] at hv
  subst hv
  repeat' (first
    | with_reducible assumption
    | with_reducible apply State.smbus_safe
    | with_reducible apply foldl_snd2_safe
    | with_reducible refine pair3_safe (by with_reducible assumption) ?_
    | with_reducible refine pair_safe (by with_reducible assumption) ?_
    | with_reducible apply foldl_safe
    | with_reducible apply foldl_snd_safe
    | intro _
    | split
    | dsimp only
    | refine State.Safe.lit ?_ rfl rfl rfl rfl)

theorem execSmbusBlockRead_safe' {op : SmbusOp} {s : State} {res} (eqn : (execSmbusBlockRead op s) = Host.Outcome.next res) (hS : s.Safe lf lg cq)  :
    (res).Safe lf lg cq := execSmbusBlockRead_safe op s hS res eqn

end Sys2Proof.Machine
end

