-- ==== Sys2Proof/Laws/Safe/Counters.lean ====
section
/-! SUPPORT. One lemma for each operation of `Machine/Counters.lean` that answers a state: it keeps `State.Safe` (the primed form says
the same of an answer that is known by an equation). -/

namespace Sys2Proof.Machine
open Sys2Proof
variable {lf lg : Nat} {cq : List Instr}

theorem execClearPeak_safe (path : Path) (s : State) (hS : s.Safe lf lg cq) :
    ∀ res, (execClearPeak path s) = Host.Outcome.next res → (res).Safe lf lg cq := by
  intro res hv
  simp only [execClearPeak, Host.Outcome.next.injEq] at hv
  subst hv
  repeat' (first
    | with_reducible assumption
    | with_reducible apply State.clearPeak_safe
    | with_reducible apply State.asked_safe
    | with_reducible apply foldl_snd2_safe
    | with_reducible refine pair3_safe (by with_reducible assumption) ?_
    | with_reducible refine pair_safe (by with_reducible assumption) ?_
    | with_reducible apply foldl_safe
    | with_reducible apply foldl_snd_safe
    | intro _
    | split
    | dsimp only
    | refine State.Safe.lit ?_ rfl rfl rfl rfl)

theorem execClearPeak_safe' {path : Path} {s : State} {res} (eqn : (execClearPeak path s) = Host.Outcome.next res) (hS : s.Safe lf lg cq)  :
    (res).Safe lf lg cq := execClearPeak_safe path s hS res eqn

theorem execSmpIdxWrite_safe (path : Path) (c : CoreId) (v : Word) (s : State) (hS : s.Safe lf lg cq) :
    ∀ res, (execSmpIdxWrite path c v s) = Host.Outcome.next res → (res).Safe lf lg cq := by
  intro res hv
  simp only [execSmpIdxWrite, Host.Outcome.next.injEq] at hv
  subst hv
  repeat' (first
    | with_reducible assumption
    | with_reducible apply State.asked_safe
    | with_reducible apply State.sampleIdx_safe
    | with_reducible apply foldl_snd2_safe
    | with_reducible refine pair3_safe (by with_reducible assumption) ?_
    | with_reducible refine pair_safe (by with_reducible assumption) ?_
    | with_reducible apply foldl_safe
    | with_reducible apply foldl_snd_safe
    | intro _
    | split
    | dsimp only
    | refine State.Safe.lit ?_ rfl rfl rfl rfl)

theorem execSmpIdxWrite_safe' {path : Path} {c : CoreId} {v : Word} {s : State} {res} (eqn : (execSmpIdxWrite path c v s) = Host.Outcome.next res) (hS : s.Safe lf lg cq)  :
    (res).Safe lf lg cq := execSmpIdxWrite_safe path c v s hS res eqn

theorem execCtrWinLastLoRead_safe (path : Path) (s : State) (hS : s.Safe lf lg cq) :
    ∀ res, (execCtrWinLastLoRead path s) = Host.Outcome.next res → (res).Safe lf lg cq := by
  intro res hv
  simp only [execCtrWinLastLoRead, Host.Outcome.next.injEq] at hv
  subst hv
  repeat' (first
    | with_reducible assumption
    | with_reducible apply State.reply_safe
    | with_reducible apply State.winLastLo_safe
    | with_reducible refine State.winLastLo_safe' (by with_reducible assumption) ?_
    | with_reducible apply foldl_snd2_safe
    | with_reducible refine pair3_safe (by with_reducible assumption) ?_
    | with_reducible refine pair_safe (by with_reducible assumption) ?_
    | with_reducible apply foldl_safe
    | with_reducible apply foldl_snd_safe
    | intro _
    | split
    | dsimp only
    | refine State.Safe.lit ?_ rfl rfl rfl rfl)

theorem execCtrWinLastLoRead_safe' {path : Path} {s : State} {res} (eqn : (execCtrWinLastLoRead path s) = Host.Outcome.next res) (hS : s.Safe lf lg cq)  :
    (res).Safe lf lg cq := execCtrWinLastLoRead_safe path s hS res eqn

theorem execSweepStart_safe (path : Path) (s : State) (hS : s.Safe lf lg cq) :
    ∀ res, (execSweepStart path s) = Host.Outcome.next res → (res).Safe lf lg cq := by
  intro res hv
  simp only [execSweepStart, Host.Outcome.next.injEq] at hv
  subst hv
  repeat' (first
    | with_reducible assumption
    | with_reducible apply State.asked_safe
    | with_reducible apply State.sweepCmd_safe
    | with_reducible apply foldl_snd2_safe
    | with_reducible refine pair3_safe (by with_reducible assumption) ?_
    | with_reducible refine pair_safe (by with_reducible assumption) ?_
    | with_reducible apply foldl_safe
    | with_reducible apply foldl_snd_safe
    | intro _
    | split
    | dsimp only
    | refine State.Safe.lit ?_ rfl rfl rfl rfl)

theorem execSweepStart_safe' {path : Path} {s : State} {res} (eqn : (execSweepStart path s) = Host.Outcome.next res) (hS : s.Safe lf lg cq)  :
    (res).Safe lf lg cq := execSweepStart_safe path s hS res eqn

theorem execPeriodicSweep_safe (s : State) (hS : s.Safe lf lg cq) :
    ∀ res, (execPeriodicSweep s) = Host.Outcome.next res → (res).Safe lf lg cq := by
  intro res hv
  simp only [execPeriodicSweep, Host.Outcome.next.injEq] at hv
  subst hv
  repeat' (first
    | with_reducible assumption
    | with_reducible apply State.sweepTick_safe
    | with_reducible apply foldl_snd2_safe
    | with_reducible refine pair3_safe (by with_reducible assumption) ?_
    | with_reducible refine pair_safe (by with_reducible assumption) ?_
    | with_reducible apply foldl_safe
    | with_reducible apply foldl_snd_safe
    | intro _
    | split
    | dsimp only
    | refine State.Safe.lit ?_ rfl rfl rfl rfl)

theorem execPeriodicSweep_safe' {s : State} {res} (eqn : (execPeriodicSweep s) = Host.Outcome.next res) (hS : s.Safe lf lg cq)  :
    (res).Safe lf lg cq := execPeriodicSweep_safe s hS res eqn

theorem execWindowEnd_safe (s : State) (hS : s.Safe lf lg cq) :
    ∀ res, (execWindowEnd s) = Host.Outcome.next res → (res).Safe lf lg cq := by
  intro res hv
  simp only [execWindowEnd, Host.Outcome.next.injEq] at hv
  subst hv
  repeat' (first
    | with_reducible assumption
    | with_reducible apply State.windowEnd_safe
    | with_reducible apply foldl_snd2_safe
    | with_reducible refine pair3_safe (by with_reducible assumption) ?_
    | with_reducible refine pair_safe (by with_reducible assumption) ?_
    | with_reducible apply foldl_safe
    | with_reducible apply foldl_snd_safe
    | intro _
    | split
    | dsimp only
    | refine State.Safe.lit ?_ rfl rfl rfl rfl)

theorem execWindowEnd_safe' {s : State} {res} (eqn : (execWindowEnd s) = Host.Outcome.next res) (hS : s.Safe lf lg cq)  :
    (res).Safe lf lg cq := execWindowEnd_safe s hS res eqn

theorem execSweepDone_safe (s : State) (hS : s.Safe lf lg cq) :
    ∀ res, (execSweepDone s) = Host.Outcome.next res → (res).Safe lf lg cq := by
  intro res hv
  simp only [execSweepDone, Host.Outcome.next.injEq] at hv
  subst hv
  repeat' (first
    | with_reducible assumption
    | with_reducible apply State.sweepEnd_safe
    | with_reducible apply foldl_snd2_safe
    | with_reducible refine pair3_safe (by with_reducible assumption) ?_
    | with_reducible refine pair_safe (by with_reducible assumption) ?_
    | with_reducible apply foldl_safe
    | with_reducible apply foldl_snd_safe
    | intro _
    | split
    | dsimp only
    | refine State.Safe.lit ?_ rfl rfl rfl rfl)

theorem execSweepDone_safe' {s : State} {res} (eqn : (execSweepDone s) = Host.Outcome.next res) (hS : s.Safe lf lg cq)  :
    (res).Safe lf lg cq := execSweepDone_safe s hS res eqn

theorem execCounterLoRead_safe (path : Path) (addr : Word) (s : State) (hS : s.Safe lf lg cq) :
    ∀ res, (execCounterLoRead path addr s) = Host.Outcome.next res → (res).Safe lf lg cq := by
  intro res hv
  simp only [execCounterLoRead, Host.Outcome.next.injEq] at hv
  subst hv
  repeat' (first
    | with_reducible assumption
    | with_reducible apply State.reply_safe
    | with_reducible apply State.ctrLo_safe
    | with_reducible refine State.ctrLo_safe' (by with_reducible assumption) ?_
    | with_reducible apply foldl_snd2_safe
    | with_reducible refine pair3_safe (by with_reducible assumption) ?_
    | with_reducible refine pair_safe (by with_reducible assumption) ?_
    | with_reducible apply foldl_safe
    | with_reducible apply foldl_snd_safe
    | intro _
    | split
    | dsimp only
    | refine State.Safe.lit ?_ rfl rfl rfl rfl)

theorem execCounterLoRead_safe' {path : Path} {addr : Word} {s : State} {res} (eqn : (execCounterLoRead path addr s) = Host.Outcome.next res) (hS : s.Safe lf lg cq)  :
    (res).Safe lf lg cq := execCounterLoRead_safe path addr s hS res eqn

theorem execCtrWinCfgWrite_safe (path : Path) (v : Word) (s : State) (hS : s.Safe lf lg cq) :
    ∀ res, (execCtrWinCfgWrite path v s) = Host.Outcome.next res → (res).Safe lf lg cq := by
  intro res hv
  simp only [execCtrWinCfgWrite, Host.Outcome.next.injEq] at hv
  subst hv
  repeat' (first
    | with_reducible assumption
    | with_reducible apply State.asked_safe
    | with_reducible apply State.winCfg_safe
    | with_reducible apply foldl_snd2_safe
    | with_reducible refine pair3_safe (by with_reducible assumption) ?_
    | with_reducible refine pair_safe (by with_reducible assumption) ?_
    | with_reducible apply foldl_safe
    | with_reducible apply foldl_snd_safe
    | intro _
    | split
    | dsimp only
    | refine State.Safe.lit ?_ rfl rfl rfl rfl)

theorem execCtrWinCfgWrite_safe' {path : Path} {v : Word} {s : State} {res} (eqn : (execCtrWinCfgWrite path v s) = Host.Outcome.next res) (hS : s.Safe lf lg cq)  :
    (res).Safe lf lg cq := execCtrWinCfgWrite_safe path v s hS res eqn

end Sys2Proof.Machine
end

