-- ==== Sys2Proof/Laws/Safe/DrainOps.lean ====
section
/-! SUPPORT. One lemma for each operation of `Machine/DrainOps.lean` that answers a state: it keeps `State.Safe` (the primed form says
the same of an answer that is known by an equation). -/

namespace Sys2Proof.Machine
open Sys2Proof
variable {lf lg : Nat} {cq : List Instr}

theorem State.accSat_safe (s : State) (r : EntryRef) (c : Nat) (tile : Nat) (m : Nat) (col : Nat) (hS : s.Safe lf lg cq) :
    ((State.accSat s r c tile m col)).Safe lf lg cq := by
  unfold State.accSat
  repeat' (first
    | with_reducible assumption
    | with_reducible apply State.bump_safe
    | with_reducible apply State.raiseRun_safe
    | with_reducible apply State.modRun_safe
    | with_reducible apply State.flag_safe
    | with_reducible apply State.count_safe
    | with_reducible apply foldl_snd2_safe
    | with_reducible refine pair3_safe (by with_reducible assumption) ?_
    | with_reducible refine pair_safe (by with_reducible assumption) ?_
    | with_reducible apply foldl_safe
    | with_reducible apply foldl_snd_safe
    | intro _
    | split
    | dsimp only
    | refine State.Safe.lit ?_ rfl rfl rfl rfl)

theorem State.addWord_safe (s : State) (r : EntryRef) (c : Nat) (tile : Nat) (m : Nat) (col : Nat) (v : Int) (clip : Bool) (hS : s.Safe lf lg cq) :
    ((State.addWord s r c tile m col v clip)).Safe lf lg cq := by
  unfold State.addWord
  repeat' (first
    | with_reducible assumption
    | with_reducible apply State.modCore_safe
    | with_reducible apply State.accSat_safe
    | with_reducible apply foldl_snd2_safe
    | with_reducible refine pair3_safe (by with_reducible assumption) ?_
    | with_reducible refine pair_safe (by with_reducible assumption) ?_
    | with_reducible apply foldl_safe
    | with_reducible apply foldl_snd_safe
    | intro _
    | split
    | dsimp only
    | refine State.Safe.lit ?_ rfl rfl rfl rfl)

theorem State.rowValues_safe (s : State) (r : EntryRef) (h : HeldRow) (hS : s.Safe lf lg cq) :
    ((State.rowValues s r h)).Safe lf lg cq := by
  unfold State.rowValues
  repeat' (first
    | with_reducible assumption
    | with_reducible apply State.bump_safe
    | with_reducible apply State.modRun_safe
    | with_reducible apply State.chainRow_safe
    | with_reducible apply State.count_safe
    | with_reducible apply foldl_snd2_safe
    | with_reducible refine pair3_safe (by with_reducible assumption) ?_
    | with_reducible refine pair_safe (by with_reducible assumption) ?_
    | with_reducible apply foldl_safe
    | with_reducible apply foldl_snd_safe
    | intro _
    | split
    | dsimp only
    | refine State.Safe.lit ?_ rfl rfl rfl rfl)

theorem State.passStart_safe (s : State) (r : EntryRef) (c : Nat) (hS : s.Safe lf lg cq) :
    ((State.passStart s r c)).Safe lf lg cq := by
  unfold State.passStart
  repeat' (first
    | with_reducible assumption
    | with_reducible apply State.raiseRun_safe
    | with_reducible apply State.modShare_safe
    | with_reducible apply State.modCore_safe
    | with_reducible apply State.modRun_safe
    | with_reducible apply State.takeTask_safe
    | with_reducible apply State.count_safe
    | with_reducible apply State.worked_safe
    | with_reducible apply foldl_snd2_safe
    | with_reducible refine pair3_safe (by with_reducible assumption) ?_
    | with_reducible refine pair_safe (by with_reducible assumption) ?_
    | with_reducible apply foldl_safe
    | with_reducible apply foldl_snd_safe
    | intro _
    | split
    | dsimp only
    | refine State.Safe.lit ?_ rfl rfl rfl rfl)

theorem State.rangeClear_safe (s : State) (r : EntryRef) (c : Nat) (row : Nat) (transient : Bool) (hS : s.Safe lf lg cq) :
    ((State.rangeClear s r c row transient)).Safe lf lg cq := by
  unfold State.rangeClear
  repeat' (first
    | with_reducible assumption
    | with_reducible apply State.modRun_safe
    | with_reducible apply State.raise_safe
    | with_reducible apply State.faultCount_safe
    | with_reducible apply foldl_snd2_safe
    | with_reducible refine pair3_safe (by with_reducible assumption) ?_
    | with_reducible refine pair_safe (by with_reducible assumption) ?_
    | with_reducible apply foldl_safe
    | with_reducible apply foldl_snd_safe
    | intro _
    | split
    | dsimp only
    | refine State.Safe.lit ?_ rfl rfl rfl rfl)

theorem State.accumulate_safe (s : State) (c : Nat) (l : Nat) (flt : Option ResFault) (hS : s.Safe lf lg cq) :
    ((State.accumulate s c l flt)).Safe lf lg cq := by
  unfold State.accumulate
  repeat' (first
    | with_reducible assumption
    | with_reducible apply State.resHit_safe
    | with_reducible apply State.modCore_safe
    | with_reducible apply State.modRun_safe
    | with_reducible apply State.each_safe
    | with_reducible apply State.addWord_safe
    | with_reducible apply State.claimLost_safe
    | with_reducible apply foldl_snd2_safe
    | with_reducible refine pair3_safe (by with_reducible assumption) ?_
    | with_reducible refine pair_safe (by with_reducible assumption) ?_
    | with_reducible apply foldl_safe
    | with_reducible apply foldl_snd_safe
    | intro _
    | split
    | dsimp only
    | refine State.Safe.lit ?_ rfl rfl rfl rfl)

theorem State.rangeStands_safe (s : State) (r : EntryRef) (c : Nat) (row : Nat) (col : Nat) (unverified : Bool) (limit : Bool) (hS : s.Safe lf lg cq) :
    ((State.rangeStands s r c row col unverified limit)).Safe lf lg cq := by
  unfold State.rangeStands
  repeat' (first
    | with_reducible assumption
    | with_reducible apply State.raiseRun_safe
    | with_reducible apply State.flag_safe
    | with_reducible apply foldl_snd2_safe
    | with_reducible refine pair3_safe (by with_reducible assumption) ?_
    | with_reducible refine pair_safe (by with_reducible assumption) ?_
    | with_reducible apply foldl_safe
    | with_reducible apply foldl_snd_safe
    | intro _
    | split
    | dsimp only
    | refine State.Safe.lit ?_ rfl rfl rfl rfl)

theorem State.refSums_safe (s : State) (r : EntryRef) (c : Nat) (row : Nat) (cols : List Nat) (hS : s.Safe lf lg cq) :
    ((State.refSums s r c row cols).2).Safe lf lg cq := by
  unfold State.refSums
  repeat' (first
    | with_reducible assumption
    | with_reducible apply State.manFailMem_safe
    | with_reducible apply State.ueMem_safe
    | with_reducible apply State.driveOf_safe
    | with_reducible refine State.driveOf_safe' (by with_reducible assumption) ?_
    | with_reducible apply State.count_safe
    | with_reducible apply foldl_snd2_safe
    | with_reducible refine pair3_safe (by with_reducible assumption) ?_
    | with_reducible refine pair_safe (by with_reducible assumption) ?_
    | with_reducible apply foldl_safe
    | with_reducible apply foldl_snd_safe
    | intro _
    | split
    | dsimp only
    | refine State.Safe.lit ?_ rfl rfl rfl rfl)

theorem State.refSums_safe' {s : State} {r : EntryRef} {c : Nat} {row : Nat} {cols : List Nat} {y0 t} (eqn : (State.refSums s r c row cols) = (y0, t)) (hS : s.Safe lf lg cq)  : t.Safe lf lg cq := by
  have := State.refSums_safe s r c row cols hS
  rw [eqn] at this; exact this

theorem State.holdRef_safe (s : State) (c : Nat) (row : Nat) (e : EntryRun) (h : Share) (per : Nat) (xs : List (Nat × Rat)) (hS : s.Safe lf lg cq) :
    ((State.holdRef s c row e h per xs)).Safe lf lg cq := by
  unfold State.holdRef
  repeat' (first
    | with_reducible assumption
    | with_reducible apply State.modCore_safe
    | with_reducible apply foldl_snd2_safe
    | with_reducible refine pair3_safe (by with_reducible assumption) ?_
    | with_reducible refine pair_safe (by with_reducible assumption) ?_
    | with_reducible apply foldl_safe
    | with_reducible apply foldl_snd_safe
    | intro _
    | split
    | dsimp only
    | refine State.Safe.lit ?_ rfl rfl rfl rfl)

theorem State.rowTender_safe (s : State) (r : EntryRef) (e : EntryRun) (c : Nat) (row : Nat) (h : Share) (hS : s.Safe lf lg cq) :
    ((State.rowTender s r e c row h).2).Safe lf lg cq := by
  unfold State.rowTender
  repeat' (first
    | with_reducible assumption
    | with_reducible apply State.inRow_safe
    | with_reducible refine State.inRow_safe' (by with_reducible assumption) ?_
    | with_reducible apply State.digitalRow_safe
    | with_reducible refine State.digitalRow_safe' (by with_reducible assumption) ?_
    | with_reducible apply State.refSums_safe
    | with_reducible refine State.refSums_safe' (by with_reducible assumption) ?_
    | with_reducible apply State.holdRef_safe
    | with_reducible apply foldl_snd2_safe
    | with_reducible refine pair3_safe (by with_reducible assumption) ?_
    | with_reducible refine pair_safe (by with_reducible assumption) ?_
    | with_reducible apply foldl_safe
    | with_reducible apply foldl_snd_safe
    | intro _
    | split
    | dsimp only
    | refine State.Safe.lit ?_ rfl rfl rfl rfl)

theorem State.rowTender_safe' {s : State} {r : EntryRef} {e : EntryRun} {c : Nat} {row : Nat} {h : Share} {y0 t} (eqn : (State.rowTender s r e c row h) = (y0, t)) (hS : s.Safe lf lg cq)  : t.Safe lf lg cq := by
  have := State.rowTender_safe s r e c row h hS
  rw [eqn] at this; exact this

theorem State.rowFinish_safe (s : State) (r : EntryRef) (e : EntryRun) (c : Nat) (row : Nat) (h : Share) (waves : Bool) (hS : s.Safe lf lg cq) :
    ((State.rowFinish s r e c row h waves)).Safe lf lg cq := by
  unfold State.rowFinish
  repeat' (first
    | with_reducible assumption
    | with_reducible apply State.kpEarly_safe
    | with_reducible apply State.failRow_safe
    | with_reducible apply State.rowValues_safe
    | with_reducible apply State.rowTender_safe
    | with_reducible refine State.rowTender_safe' (by with_reducible assumption) ?_
    | with_reducible apply foldl_snd2_safe
    | with_reducible refine pair3_safe (by with_reducible assumption) ?_
    | with_reducible refine pair_safe (by with_reducible assumption) ?_
    | with_reducible apply foldl_safe
    | with_reducible apply foldl_snd_safe
    | intro _
    | split
    | dsimp only
    | refine State.Safe.lit ?_ rfl rfl rfl rfl)

theorem State.rangeLocalise_safe (s : State) (r : EntryRef) (e : EntryRun) (c : Nat) (col : Nat) (hS : s.Safe lf lg cq) :
    ((State.rangeLocalise s r e c col)).Safe lf lg cq := by
  unfold State.rangeLocalise
  repeat' (first
    | with_reducible assumption
    | with_reducible apply State.permArr_safe
    | with_reducible apply State.each_safe
    | with_reducible apply State.raise_safe
    | with_reducible apply State.faultCount_safe
    | with_reducible apply State.quarantine_safe
    | with_reducible apply foldl_snd2_safe
    | with_reducible refine pair3_safe (by with_reducible assumption) ?_
    | with_reducible refine pair_safe (by with_reducible assumption) ?_
    | with_reducible apply foldl_safe
    | with_reducible apply foldl_snd_safe
    | intro _
    | split
    | dsimp only
    | refine State.Safe.lit ?_ rfl rfl rfl rfl)

theorem State.rangeRepeat_safe (s : State) (r : EntryRef) (e : EntryRun) (h : Share) (wrong : HeldRow) (hS : s.Safe lf lg cq) :
    ((State.rangeRepeat s r e h wrong)).Safe lf lg cq := by
  unfold State.rangeRepeat
  repeat' (first
    | with_reducible assumption
    | with_reducible apply State.modCore_safe
    | with_reducible apply State.modRun_safe
    | with_reducible apply State.pushFront_safe
    | with_reducible apply foldl_snd2_safe
    | with_reducible refine pair3_safe (by with_reducible assumption) ?_
    | with_reducible refine pair_safe (by with_reducible assumption) ?_
    | with_reducible apply foldl_safe
    | with_reducible apply foldl_snd_safe
    | intro _
    | split
    | dsimp only
    | refine State.Safe.lit ?_ rfl rfl rfl rfl)

theorem State.refRow_safe (s : State) (r : EntryRef) (c : Nat) (row : Nat) (cols : List Nat) (hS : s.Safe lf lg cq) :
    ((State.refRow s r c row cols).2).Safe lf lg cq := by
  unfold State.refRow
  repeat' (first
    | with_reducible assumption
    | with_reducible apply State.refSums_safe
    | with_reducible refine State.refSums_safe' (by with_reducible assumption) ?_
    | with_reducible apply foldl_snd2_safe
    | with_reducible refine pair3_safe (by with_reducible assumption) ?_
    | with_reducible refine pair_safe (by with_reducible assumption) ?_
    | with_reducible apply foldl_safe
    | with_reducible apply foldl_snd_safe
    | intro _
    | split
    | dsimp only
    | refine State.Safe.lit ?_ rfl rfl rfl rfl)

theorem State.refRow_safe' {s : State} {r : EntryRef} {c : Nat} {row : Nat} {cols : List Nat} {y0 t} (eqn : (State.refRow s r c row cols) = (y0, t)) (hS : s.Safe lf lg cq)  : t.Safe lf lg cq := by
  have := State.refRow_safe s r c row cols hS
  rw [eqn] at this; exact this

theorem State.rangeResolve_safe (s : State) (r : EntryRef) (c : Nat) (row : Nat) (hS : s.Safe lf lg cq) :
    ((State.rangeResolve s r c row)).Safe lf lg cq := by
  unfold State.rangeResolve
  split
  · exact hS
  split
  · split
    · exact hS
    extract_lets prior bad room now lay per waves ref at_ near keep done s0 s1
    split
    · exact hS
    have h1 : s1.Safe lf lg cq := by
      dsimp only [s1]
      split
      · split
        · exact State.modRun_safe _ _ _ hS
        · exact State.modRun_safe _ _ _ (State.rangeStands_safe _ _ _ _ _ _ _ (State.modRun_safe _ _ _ hS))
      · exact State.modRun_safe _ _ _ hS
    clear_value s1 near keep done at_ now lay prior
    repeat' (first
    | with_reducible assumption
    | with_reducible apply State.rangeClear_safe
    | with_reducible apply State.rangeStands_safe
    | with_reducible apply State.failRow_safe
    | with_reducible apply State.rangeLocalise_safe
    | with_reducible apply State.raiseRun_safe
    | with_reducible apply State.rangeRepeat_safe
    | with_reducible apply State.modRun_safe
    | with_reducible apply State.each_safe
    | with_reducible apply State.flag_safe
    | with_reducible apply State.chainRow_safe
    | with_reducible apply State.refRow_safe
    | with_reducible refine State.refRow_safe' (by with_reducible assumption) ?_
    | split
      | intro _
      | dsimp only)
  · exact hS

theorem State.rowComplete_safe (s : State) (r : EntryRef) (c : Nat) (row : Nat) (flt : Option ResFault) (hS : s.Safe lf lg cq) :
    ((State.rowComplete s r c row flt)).Safe lf lg cq := by
  unfold State.rowComplete
  repeat' (first
    | with_reducible assumption
    | with_reducible apply State.resHit_safe
    | with_reducible apply State.modCore_safe
    | with_reducible apply State.modRun_safe
    | with_reducible apply State.pushFront_safe
    | with_reducible apply State.coreFault_safe
    | with_reducible apply State.residueFail_safe
    | with_reducible apply State.rowFinish_safe
    | with_reducible apply State.claimLost_safe
    | with_reducible apply foldl_snd2_safe
    | with_reducible refine pair3_safe (by with_reducible assumption) ?_
    | with_reducible refine pair_safe (by with_reducible assumption) ?_
    | with_reducible apply foldl_safe
    | with_reducible apply foldl_snd_safe
    | intro _
    | split
    | dsimp only
    | refine State.Safe.lit ?_ rfl rfl rfl rfl)

end Sys2Proof.Machine
end

