-- ==== Sys2Proof/Laws/Safe/Drain.lean ====
section
/-! SUPPORT. One lemma for each operation of `Machine/Drain.lean` that answers a state: it keeps `State.Safe` (the primed form says
the same of an answer that is known by an equation). -/

namespace Sys2Proof.Machine
open Sys2Proof
variable {lf lg : Nat} {cq : List Instr}

theorem execIngestBlockEvaluate_safe (c : CoreId) (p : CoreId) (pos : PosId) (idx : Nat) (blk : IngestEval) (s : State) (hS : s.Safe lf lg cq) :
    ∀ res, (execIngestBlockEvaluate c p pos idx blk s) = Host.Outcome.next res → (res).Safe lf lg cq := by
  intro res hv
  simp only [execIngestBlockEvaluate, Host.Outcome.next.injEq] at hv
  subst hv
  repeat' (first
    | with_reducible assumption
    | with_reducible apply State.ingestBlock_safe
    | with_reducible apply foldl_snd2_safe
    | with_reducible refine pair3_safe (by with_reducible assumption) ?_
    | with_reducible refine pair_safe (by with_reducible assumption) ?_
    | with_reducible apply foldl_safe
    | with_reducible apply foldl_snd_safe
    | intro _
    | split
    | dsimp only
    | refine State.Safe.lit ?_ rfl rfl rfl rfl)

theorem execIngestBlockEvaluate_safe' {c : CoreId} {p : CoreId} {pos : PosId} {idx : Nat} {blk : IngestEval} {s : State} {res} (eqn : (execIngestBlockEvaluate c p pos idx blk s) = Host.Outcome.next res) (hS : s.Safe lf lg cq)  :
    (res).Safe lf lg cq := execIngestBlockEvaluate_safe c p pos idx blk s hS res eqn

theorem execPassStart_safe (c : CoreId) (p : CoreId) (pos : PosId) (idx : Nat) (s : State) (hS : s.Safe lf lg cq) :
    ∀ res, (execPassStart c p pos idx s) = Host.Outcome.next res → (res).Safe lf lg cq := by
  intro res hv
  simp only [execPassStart, Host.Outcome.next.injEq] at hv
  subst hv
  repeat' (first
    | with_reducible assumption
    | with_reducible apply State.passStart_safe
    | with_reducible apply foldl_snd2_safe
    | with_reducible refine pair3_safe (by with_reducible assumption) ?_
    | with_reducible refine pair_safe (by with_reducible assumption) ?_
    | with_reducible apply foldl_safe
    | with_reducible apply foldl_snd_safe
    | intro _
    | split
    | dsimp only
    | refine State.Safe.lit ?_ rfl rfl rfl rfl)

theorem execPassStart_safe' {c : CoreId} {p : CoreId} {pos : PosId} {idx : Nat} {s : State} {res} (eqn : (execPassStart c p pos idx s) = Host.Outcome.next res) (hS : s.Safe lf lg cq)  :
    (res).Safe lf lg cq := execPassStart_safe c p pos idx s hS res eqn

theorem execDrnNltDataAccess_safe (path : Path) (c : CoreId) (w : Option Word) (s : State) (hS : s.Safe lf lg cq) :
    ∀ res, (execDrnNltDataAccess path c w s) = Host.Outcome.next res → (res).Safe lf lg cq := by
  intro res hv
  simp only [execDrnNltDataAccess, Host.Outcome.next.injEq] at hv
  subst hv
  repeat' (first
    | with_reducible assumption
    | with_reducible apply State.reply_safe
    | with_reducible apply State.asked_safe
    | with_reducible apply State.nltWrite_safe
    | with_reducible apply State.nltStep_safe
    | with_reducible apply foldl_snd2_safe
    | with_reducible refine pair3_safe (by with_reducible assumption) ?_
    | with_reducible refine pair_safe (by with_reducible assumption) ?_
    | with_reducible apply foldl_safe
    | with_reducible apply foldl_snd_safe
    | intro _
    | split
    | dsimp only
    | refine State.Safe.lit ?_ rfl rfl rfl rfl)

theorem execDrnNltDataAccess_safe' {path : Path} {c : CoreId} {w : Option Word} {s : State} {res} (eqn : (execDrnNltDataAccess path c w s) = Host.Outcome.next res) (hS : s.Safe lf lg cq)  :
    (res).Safe lf lg cq := execDrnNltDataAccess_safe path c w s hS res eqn

theorem execDrainAccumulate_safe (c : CoreId) (l : LArr) (flt : Option ResFault) (s : State) (hS : s.Safe lf lg cq) :
    ∀ res, (execDrainAccumulate c l flt s) = Host.Outcome.next res → (res).Safe lf lg cq := by
  intro res hv
  simp only [execDrainAccumulate, Host.Outcome.next.injEq] at hv
  subst hv
  repeat' (first
    | with_reducible assumption
    | with_reducible apply State.accumulate_safe
    | with_reducible apply foldl_snd2_safe
    | with_reducible refine pair3_safe (by with_reducible assumption) ?_
    | with_reducible refine pair_safe (by with_reducible assumption) ?_
    | with_reducible apply foldl_safe
    | with_reducible apply foldl_snd_safe
    | intro _
    | split
    | dsimp only
    | refine State.Safe.lit ?_ rfl rfl rfl rfl)

theorem execDrainAccumulate_safe' {c : CoreId} {l : LArr} {flt : Option ResFault} {s : State} {res} (eqn : (execDrainAccumulate c l flt s) = Host.Outcome.next res) (hS : s.Safe lf lg cq)  :
    (res).Safe lf lg cq := execDrainAccumulate_safe c l flt s hS res eqn

theorem execDrnChainDataLoWrite_safe (path : Path) (c : CoreId) (v : Word) (s : State) (hS : s.Safe lf lg cq) :
    ∀ res, (execDrnChainDataLoWrite path c v s) = Host.Outcome.next res → (res).Safe lf lg cq := by
  intro res hv
  simp only [execDrnChainDataLoWrite, Host.Outcome.next.injEq] at hv
  subst hv
  repeat' (first
    | with_reducible assumption
    | with_reducible apply State.chainLo_safe
    | with_reducible apply State.asked_safe
    | with_reducible apply foldl_snd2_safe
    | with_reducible refine pair3_safe (by with_reducible assumption) ?_
    | with_reducible refine pair_safe (by with_reducible assumption) ?_
    | with_reducible apply foldl_safe
    | with_reducible apply foldl_snd_safe
    | intro _
    | split
    | dsimp only
    | refine State.Safe.lit ?_ rfl rfl rfl rfl)

theorem execDrnChainDataLoWrite_safe' {path : Path} {c : CoreId} {v : Word} {s : State} {res} (eqn : (execDrnChainDataLoWrite path c v s) = Host.Outcome.next res) (hS : s.Safe lf lg cq)  :
    (res).Safe lf lg cq := execDrnChainDataLoWrite_safe path c v s hS res eqn

theorem execExchangeSegment_safe (dst : CoreId) (src : CoreId) (p : CoreId) (pos : PosId) (idx : Nat) (row : Nat) (s : State) (hS : s.Safe lf lg cq) :
    ∀ res, (execExchangeSegment dst src p pos idx row s) = Host.Outcome.next res → (res).Safe lf lg cq := by
  intro res hv
  simp only [execExchangeSegment, Host.Outcome.next.injEq] at hv
  subst hv
  repeat' (first
    | with_reducible assumption
    | with_reducible apply State.exchange_safe
    | with_reducible apply foldl_snd2_safe
    | with_reducible refine pair3_safe (by with_reducible assumption) ?_
    | with_reducible refine pair_safe (by with_reducible assumption) ?_
    | with_reducible apply foldl_safe
    | with_reducible apply foldl_snd_safe
    | intro _
    | split
    | dsimp only
    | refine State.Safe.lit ?_ rfl rfl rfl rfl)

theorem execExchangeSegment_safe' {dst : CoreId} {src : CoreId} {p : CoreId} {pos : PosId} {idx : Nat} {row : Nat} {s : State} {res} (eqn : (execExchangeSegment dst src p pos idx row s) = Host.Outcome.next res) (hS : s.Safe lf lg cq)  :
    (res).Safe lf lg cq := execExchangeSegment_safe dst src p pos idx row s hS res eqn

theorem execRangeResolve_safe (c : CoreId) (p : CoreId) (pos : PosId) (idx : Nat) (row : Nat) (s : State) (hS : s.Safe lf lg cq) :
    ∀ res, (execRangeResolve c p pos idx row s) = Host.Outcome.next res → (res).Safe lf lg cq := by
  intro res hv
  simp only [execRangeResolve, Host.Outcome.next.injEq] at hv
  subst hv
  repeat' (first
    | with_reducible assumption
    | with_reducible apply State.rangeResolve_safe
    | with_reducible apply foldl_snd2_safe
    | with_reducible refine pair3_safe (by with_reducible assumption) ?_
    | with_reducible refine pair_safe (by with_reducible assumption) ?_
    | with_reducible apply foldl_safe
    | with_reducible apply foldl_snd_safe
    | intro _
    | split
    | dsimp only
    | refine State.Safe.lit ?_ rfl rfl rfl rfl)

theorem execRangeResolve_safe' {c : CoreId} {p : CoreId} {pos : PosId} {idx : Nat} {row : Nat} {s : State} {res} (eqn : (execRangeResolve c p pos idx row s) = Host.Outcome.next res) (hS : s.Safe lf lg cq)  :
    (res).Safe lf lg cq := execRangeResolve_safe c p pos idx row s hS res eqn

theorem execDrainRowComplete_safe (c : CoreId) (p : CoreId) (pos : PosId) (idx : Nat) (row : Nat) (flt : Option ResFault) (s : State) (hS : s.Safe lf lg cq) :
    ∀ res, (execDrainRowComplete c p pos idx row flt s) = Host.Outcome.next res → (res).Safe lf lg cq := by
  intro res hv
  simp only [execDrainRowComplete, Host.Outcome.next.injEq] at hv
  subst hv
  repeat' (first
    | with_reducible assumption
    | with_reducible apply State.rowComplete_safe
    | with_reducible apply foldl_snd2_safe
    | with_reducible refine pair3_safe (by with_reducible assumption) ?_
    | with_reducible refine pair_safe (by with_reducible assumption) ?_
    | with_reducible apply foldl_safe
    | with_reducible apply foldl_snd_safe
    | intro _
    | split
    | dsimp only
    | refine State.Safe.lit ?_ rfl rfl rfl rfl)

theorem execDrainRowComplete_safe' {c : CoreId} {p : CoreId} {pos : PosId} {idx : Nat} {row : Nat} {flt : Option ResFault} {s : State} {res} (eqn : (execDrainRowComplete c p pos idx row flt s) = Host.Outcome.next res) (hS : s.Safe lf lg cq)  :
    (res).Safe lf lg cq := execDrainRowComplete_safe c p pos idx row flt s hS res eqn

theorem execDrnChainDataHiWrite_safe (path : Path) (c : CoreId) (v : Word) (s : State) (hS : s.Safe lf lg cq) :
    ∀ res, (execDrnChainDataHiWrite path c v s) = Host.Outcome.next res → (res).Safe lf lg cq := by
  intro res hv
  simp only [execDrnChainDataHiWrite, Host.Outcome.next.injEq] at hv
  subst hv
  repeat' (first
    | with_reducible assumption
    | with_reducible apply State.asked_safe
    | with_reducible apply State.chainHi_safe
    | with_reducible apply foldl_snd2_safe
    | with_reducible refine pair3_safe (by with_reducible assumption) ?_
    | with_reducible refine pair_safe (by with_reducible assumption) ?_
    | with_reducible apply foldl_safe
    | with_reducible apply foldl_snd_safe
    | intro _
    | split
    | dsimp only
    | refine State.Safe.lit ?_ rfl rfl rfl rfl)

theorem execDrnChainDataHiWrite_safe' {path : Path} {c : CoreId} {v : Word} {s : State} {res} (eqn : (execDrnChainDataHiWrite path c v s) = Host.Outcome.next res) (hS : s.Safe lf lg cq)  :
    (res).Safe lf lg cq := execDrnChainDataHiWrite_safe path c v s hS res eqn

end Sys2Proof.Machine
end

