-- ==== Sys2Proof/Laws/Safe/Entries.lean ====
section
/-! SUPPORT. One lemma for each operation of `Machine/Entries.lean` that answers a state: it keeps `State.Safe` (the primed form says
the same of an answer that is known by an equation). -/

namespace Sys2Proof.Machine
open Sys2Proof
variable {lf lg : Nat} {cq : List Instr}

theorem execSubmit_safe (peer : PeerId) (s : State) (hS : s.Safe lf lg cq) :
    ∀ res, (execSubmit peer s) = Host.Outcome.next res → (res).Safe lf lg cq := by
  intro res hv
  simp only [execSubmit, Host.Outcome.next.injEq] at hv
  subst hv
  repeat' (first
    | with_reducible assumption
    | with_reducible apply State.submitMsg_safe
    | with_reducible apply foldl_snd2_safe
    | with_reducible refine pair3_safe (by with_reducible assumption) ?_
    | with_reducible refine pair_safe (by with_reducible assumption) ?_
    | with_reducible apply foldl_safe
    | with_reducible apply foldl_snd_safe
    | intro _
    | split
    | dsimp only
    | refine State.Safe.lit ?_ rfl rfl rfl rfl)

theorem execSubmit_safe' {peer : PeerId} {s : State} {res} (eqn : (execSubmit peer s) = Host.Outcome.next res) (hS : s.Safe lf lg cq)  :
    (res).Safe lf lg cq := execSubmit_safe peer s hS res eqn

theorem execCopyOut_safe (p : CoreId) (pos : PosId) (s : State) (hS : s.Safe lf lg cq) :
    ∀ res, (execCopyOut p pos s) = Host.Outcome.next res → (res).Safe lf lg cq := by
  intro res hv
  simp only [execCopyOut, Host.Outcome.next.injEq] at hv
  subst hv
  repeat' (first
    | with_reducible assumption
    | with_reducible apply State.issue_safe
    | with_reducible apply State.startCopyOut_safe
    | with_reducible apply foldl_snd2_safe
    | with_reducible refine pair3_safe (by with_reducible assumption) ?_
    | with_reducible refine pair_safe (by with_reducible assumption) ?_
    | with_reducible apply foldl_safe
    | with_reducible apply foldl_snd_safe
    | intro _
    | split
    | dsimp only
    | refine State.Safe.lit ?_ rfl rfl rfl rfl)

theorem execCopyOut_safe' {p : CoreId} {pos : PosId} {s : State} {res} (eqn : (execCopyOut p pos s) = Host.Outcome.next res) (hS : s.Safe lf lg cq)  :
    (res).Safe lf lg cq := execCopyOut_safe p pos s hS res eqn

theorem execSignal_safe (p : CoreId) (pos : PosId) (s : State) (hS : s.Safe lf lg cq) :
    ∀ res, (execSignal p pos s) = Host.Outcome.next res → (res).Safe lf lg cq := by
  intro res hv
  simp only [execSignal, Host.Outcome.next.injEq] at hv
  subst hv
  repeat' (first
    | with_reducible assumption
    | with_reducible apply State.issue_safe
    | with_reducible apply State.startSignal_safe
    | with_reducible apply foldl_snd2_safe
    | with_reducible refine pair3_safe (by with_reducible assumption) ?_
    | with_reducible refine pair_safe (by with_reducible assumption) ?_
    | with_reducible apply foldl_safe
    | with_reducible apply foldl_snd_safe
    | intro _
    | split
    | dsimp only
    | refine State.Safe.lit ?_ rfl rfl rfl rfl)

theorem execSignal_safe' {p : CoreId} {pos : PosId} {s : State} {res} (eqn : (execSignal p pos s) = Host.Outcome.next res) (hS : s.Safe lf lg cq)  :
    (res).Safe lf lg cq := execSignal_safe p pos s hS res eqn

theorem execAdapt_safe (p : CoreId) (pos : AdaptAt) (s : State) (hS : s.Safe lf lg cq) :
    ∀ res, (execAdapt p pos s) = Host.Outcome.next res → (res).Safe lf lg cq := by
  intro res hv
  simp only [execAdapt, Host.Outcome.next.injEq] at hv
  subst hv
  repeat' (first
    | with_reducible assumption
    | with_reducible apply State.issue_safe
    | with_reducible apply State.startAdapt_safe
    | with_reducible apply foldl_snd2_safe
    | with_reducible refine pair3_safe (by with_reducible assumption) ?_
    | with_reducible refine pair_safe (by with_reducible assumption) ?_
    | with_reducible apply foldl_safe
    | with_reducible apply foldl_snd_safe
    | intro _
    | split
    | dsimp only
    | refine State.Safe.lit ?_ rfl rfl rfl rfl)

theorem execAdapt_safe' {p : CoreId} {pos : AdaptAt} {s : State} {res} (eqn : (execAdapt p pos s) = Host.Outcome.next res) (hS : s.Safe lf lg cq)  :
    (res).Safe lf lg cq := execAdapt_safe p pos s hS res eqn

theorem execAdaptUpd_safe (p : CoreId) (pos : AdaptAt) (s : State) (hS : s.Safe lf lg cq) :
    ∀ res, (execAdaptUpd p pos s) = Host.Outcome.next res → (res).Safe lf lg cq := by
  intro res hv
  simp only [execAdaptUpd, Host.Outcome.next.injEq] at hv
  subst hv
  repeat' (first
    | with_reducible assumption
    | with_reducible apply State.issue_safe
    | with_reducible apply State.startUpd_safe
    | with_reducible apply foldl_snd2_safe
    | with_reducible refine pair3_safe (by with_reducible assumption) ?_
    | with_reducible refine pair_safe (by with_reducible assumption) ?_
    | with_reducible apply foldl_safe
    | with_reducible apply foldl_snd_safe
    | intro _
    | split
    | dsimp only
    | refine State.Safe.lit ?_ rfl rfl rfl rfl)

theorem execAdaptUpd_safe' {p : CoreId} {pos : AdaptAt} {s : State} {res} (eqn : (execAdaptUpd p pos s) = Host.Outcome.next res) (hS : s.Safe lf lg cq)  :
    (res).Safe lf lg cq := execAdaptUpd_safe p pos s hS res eqn

theorem State.adapterResume_safe (s : State) (r : EntryRef) (c : Nat) (row : Nat) (hS : s.Safe lf lg cq) :
    ((State.adapterResume s r c row)).Safe lf lg cq := by
  unfold State.adapterResume
  repeat' (first
    | with_reducible assumption
    | with_reducible apply State.chainRow_safe
    | with_reducible apply foldl_snd2_safe
    | with_reducible refine pair3_safe (by with_reducible assumption) ?_
    | with_reducible refine pair_safe (by with_reducible assumption) ?_
    | with_reducible apply foldl_safe
    | with_reducible apply foldl_snd_safe
    | intro _
    | split
    | dsimp only
    | refine State.Safe.lit ?_ rfl rfl rfl rfl)

theorem State.startPasses_safe (s : State) (r : EntryRef) (hS : s.Safe lf lg cq) :
    ((State.startPasses s r)).Safe lf lg cq := by
  unfold State.startPasses
  repeat' (first
    | with_reducible assumption
    | with_reducible apply State.startProblem_safe
    | with_reducible apply foldl_snd2_safe
    | with_reducible refine pair3_safe (by with_reducible assumption) ?_
    | with_reducible refine pair_safe (by with_reducible assumption) ?_
    | with_reducible apply foldl_safe
    | with_reducible apply foldl_snd_safe
    | intro _
    | split
    | dsimp only
    | refine State.Safe.lit ?_ rfl rfl rfl rfl)

theorem execHaloSend_safe (p : CoreId) (pos : PosId) (s : State) (hS : s.Safe lf lg cq) :
    ∀ res, (execHaloSend p pos s) = Host.Outcome.next res → (res).Safe lf lg cq := by
  intro res hv
  simp only [execHaloSend, Host.Outcome.next.injEq] at hv
  subst hv
  repeat' (first
    | with_reducible assumption
    | with_reducible apply State.issue_safe
    | with_reducible apply State.startHaloSend_safe
    | with_reducible apply foldl_snd2_safe
    | with_reducible refine pair3_safe (by with_reducible assumption) ?_
    | with_reducible refine pair_safe (by with_reducible assumption) ?_
    | with_reducible apply foldl_safe
    | with_reducible apply foldl_snd_safe
    | intro _
    | split
    | dsimp only
    | refine State.Safe.lit ?_ rfl rfl rfl rfl)

theorem execHaloSend_safe' {p : CoreId} {pos : PosId} {s : State} {res} (eqn : (execHaloSend p pos s) = Host.Outcome.next res) (hS : s.Safe lf lg cq)  :
    (res).Safe lf lg cq := execHaloSend_safe p pos s hS res eqn

theorem execForwardReq_safe (peer : PeerId) (s : State) (hS : s.Safe lf lg cq) :
    ∀ res, (execForwardReq peer s) = Host.Outcome.next res → (res).Safe lf lg cq := by
  intro res hv
  simp only [execForwardReq, Host.Outcome.next.injEq] at hv
  subst hv
  repeat' (first
    | with_reducible assumption
    | with_reducible apply State.forwardMsg_safe
    | with_reducible apply foldl_snd2_safe
    | with_reducible refine pair3_safe (by with_reducible assumption) ?_
    | with_reducible refine pair_safe (by with_reducible assumption) ?_
    | with_reducible apply foldl_safe
    | with_reducible apply foldl_snd_safe
    | intro _
    | split
    | dsimp only
    | refine State.Safe.lit ?_ rfl rfl rfl rfl)

theorem execForwardReq_safe' {peer : PeerId} {s : State} {res} (eqn : (execForwardReq peer s) = Host.Outcome.next res) (hS : s.Safe lf lg cq)  :
    (res).Safe lf lg cq := execForwardReq_safe peer s hS res eqn

theorem execPoundTake_safe (p : CoreId) (s : State) (hS : s.Safe lf lg cq) :
    ∀ res, (execPoundTake p s) = Host.Outcome.next res → (res).Safe lf lg cq := by
  intro res hv
  simp only [execPoundTake, Host.Outcome.next.injEq] at hv
  subst hv
  repeat' (first
    | with_reducible assumption
    | with_reducible apply State.poundTake_safe
    | with_reducible apply foldl_snd2_safe
    | with_reducible refine pair3_safe (by with_reducible assumption) ?_
    | with_reducible refine pair_safe (by with_reducible assumption) ?_
    | with_reducible apply foldl_safe
    | with_reducible apply foldl_snd_safe
    | intro _
    | split
    | dsimp only
    | refine State.Safe.lit ?_ rfl rfl rfl rfl)

theorem execPoundTake_safe' {p : CoreId} {s : State} {res} (eqn : (execPoundTake p s) = Host.Outcome.next res) (hS : s.Safe lf lg cq)  :
    (res).Safe lf lg cq := execPoundTake_safe p s hS res eqn

theorem execEltwise_safe (p : CoreId) (pos : PosId) (s : State) (hS : s.Safe lf lg cq) :
    ∀ res, (execEltwise p pos s) = Host.Outcome.next res → (res).Safe lf lg cq := by
  intro res hv
  simp only [execEltwise, Host.Outcome.next.injEq] at hv
  subst hv
  repeat' (first
    | with_reducible assumption
    | with_reducible apply State.issue_safe
    | with_reducible apply State.startPasses_safe
    | with_reducible apply foldl_snd2_safe
    | with_reducible refine pair3_safe (by with_reducible assumption) ?_
    | with_reducible refine pair_safe (by with_reducible assumption) ?_
    | with_reducible apply foldl_safe
    | with_reducible apply foldl_snd_safe
    | intro _
    | split
    | dsimp only
    | refine State.Safe.lit ?_ rfl rfl rfl rfl)

theorem execEltwise_safe' {p : CoreId} {pos : PosId} {s : State} {res} (eqn : (execEltwise p pos s) = Host.Outcome.next res) (hS : s.Safe lf lg cq)  :
    (res).Safe lf lg cq := execEltwise_safe p pos s hS res eqn

theorem execFieldTest_safe (p : CoreId) (pos : PosId) (s : State) (hS : s.Safe lf lg cq) :
    ∀ res, (execFieldTest p pos s) = Host.Outcome.next res → (res).Safe lf lg cq := by
  intro res hv
  simp only [execFieldTest, Host.Outcome.next.injEq] at hv
  subst hv
  repeat' (first
    | with_reducible assumption
    | with_reducible apply State.issue_safe
    | with_reducible apply State.startField_safe
    | with_reducible apply foldl_snd2_safe
    | with_reducible refine pair3_safe (by with_reducible assumption) ?_
    | with_reducible refine pair_safe (by with_reducible assumption) ?_
    | with_reducible apply foldl_safe
    | with_reducible apply foldl_snd_safe
    | intro _
    | split
    | dsimp only
    | refine State.Safe.lit ?_ rfl rfl rfl rfl)

theorem execFieldTest_safe' {p : CoreId} {pos : PosId} {s : State} {res} (eqn : (execFieldTest p pos s) = Host.Outcome.next res) (hS : s.Safe lf lg cq)  :
    (res).Safe lf lg cq := execFieldTest_safe p pos s hS res eqn

theorem execNop_safe (p : CoreId) (pos : PosId) (s : State) (hS : s.Safe lf lg cq) :
    ∀ res, (execNop p pos s) = Host.Outcome.next res → (res).Safe lf lg cq := by
  intro res hv
  simp only [execNop, Host.Outcome.next.injEq] at hv
  subst hv
  repeat' (first
    | with_reducible assumption
    | with_reducible apply State.issue_safe
    | with_reducible apply State.endRun_safe
    | with_reducible apply foldl_snd2_safe
    | with_reducible refine pair3_safe (by with_reducible assumption) ?_
    | with_reducible refine pair_safe (by with_reducible assumption) ?_
    | with_reducible apply foldl_safe
    | with_reducible apply foldl_snd_safe
    | intro _
    | split
    | dsimp only
    | refine State.Safe.lit ?_ rfl rfl rfl rfl)

theorem execNop_safe' {p : CoreId} {pos : PosId} {s : State} {res} (eqn : (execNop p pos s) = Host.Outcome.next res) (hS : s.Safe lf lg cq)  :
    (res).Safe lf lg cq := execNop_safe p pos s hS res eqn

theorem execFieldTestPhaseDone_safe (c : CoreId) (fails : List FieldFail) (s : State) (hS : s.Safe lf lg cq) :
    ∀ res, (execFieldTestPhaseDone c fails s) = Host.Outcome.next res → (res).Safe lf lg cq := by
  intro res hv
  simp only [execFieldTestPhaseDone, Host.Outcome.next.injEq] at hv
  subst hv
  repeat' (first
    | with_reducible assumption
    | with_reducible apply State.fieldPhase_safe
    | with_reducible apply foldl_snd2_safe
    | with_reducible refine pair3_safe (by with_reducible assumption) ?_
    | with_reducible refine pair_safe (by with_reducible assumption) ?_
    | with_reducible apply foldl_safe
    | with_reducible apply foldl_snd_safe
    | intro _
    | split
    | dsimp only
    | refine State.Safe.lit ?_ rfl rfl rfl rfl)

theorem execFieldTestPhaseDone_safe' {c : CoreId} {fails : List FieldFail} {s : State} {res} (eqn : (execFieldTestPhaseDone c fails s) = Host.Outcome.next res) (hS : s.Safe lf lg cq)  :
    (res).Safe lf lg cq := execFieldTestPhaseDone_safe c fails s hS res eqn

theorem execAdpFetchTimeout_safe (ctx : CtxId) (s : State) (hS : s.Safe lf lg cq) :
    ∀ res, (execAdpFetchTimeout ctx s) = Host.Outcome.next res → (res).Safe lf lg cq := by
  intro res hv
  simp only [execAdpFetchTimeout, Host.Outcome.next.injEq] at hv
  subst hv
  repeat' (first
    | with_reducible assumption
    | with_reducible apply State.fetchOut_safe
    | with_reducible apply foldl_snd2_safe
    | with_reducible refine pair3_safe (by with_reducible assumption) ?_
    | with_reducible refine pair_safe (by with_reducible assumption) ?_
    | with_reducible apply foldl_safe
    | with_reducible apply foldl_snd_safe
    | intro _
    | split
    | dsimp only
    | refine State.Safe.lit ?_ rfl rfl rfl rfl)

theorem execAdpFetchTimeout_safe' {ctx : CtxId} {s : State} {res} (eqn : (execAdpFetchTimeout ctx s) = Host.Outcome.next res) (hS : s.Safe lf lg cq)  :
    (res).Safe lf lg cq := execAdpFetchTimeout_safe ctx s hS res eqn

theorem execHaloWait_safe (p : CoreId) (pos : PosId) (s : State) (hS : s.Safe lf lg cq) :
    ∀ res, (execHaloWait p pos s) = Host.Outcome.next res → (res).Safe lf lg cq := by
  intro res hv
  simp only [execHaloWait, Host.Outcome.next.injEq] at hv
  subst hv
  repeat' (first
    | with_reducible assumption
    | with_reducible apply State.startHaloWait_safe
    | with_reducible apply State.issue_safe
    | with_reducible apply foldl_snd2_safe
    | with_reducible refine pair3_safe (by with_reducible assumption) ?_
    | with_reducible refine pair_safe (by with_reducible assumption) ?_
    | with_reducible apply foldl_safe
    | with_reducible apply foldl_snd_safe
    | intro _
    | split
    | dsimp only
    | refine State.Safe.lit ?_ rfl rfl rfl rfl)

theorem execHaloWait_safe' {p : CoreId} {pos : PosId} {s : State} {res} (eqn : (execHaloWait p pos s) = Host.Outcome.next res) (hS : s.Safe lf lg cq)  :
    (res).Safe lf lg cq := execHaloWait_safe p pos s hS res eqn

theorem execDynmul_safe (p : CoreId) (pos : PosId) (s : State) (hS : s.Safe lf lg cq) :
    ∀ res, (execDynmul p pos s) = Host.Outcome.next res → (res).Safe lf lg cq := by
  intro res hv
  simp only [execDynmul, Host.Outcome.next.injEq] at hv
  subst hv
  repeat' (first
    | with_reducible assumption
    | with_reducible apply State.issue_safe
    | with_reducible apply State.startPasses_safe
    | with_reducible apply foldl_snd2_safe
    | with_reducible refine pair3_safe (by with_reducible assumption) ?_
    | with_reducible refine pair_safe (by with_reducible assumption) ?_
    | with_reducible apply foldl_safe
    | with_reducible apply foldl_snd_safe
    | intro _
    | split
    | dsimp only
    | refine State.Safe.lit ?_ rfl rfl rfl rfl)

theorem execDynmul_safe' {p : CoreId} {pos : PosId} {s : State} {res} (eqn : (execDynmul p pos s) = Host.Outcome.next res) (hS : s.Safe lf lg cq)  :
    (res).Safe lf lg cq := execDynmul_safe p pos s hS res eqn

theorem execCopyIn_safe (p : CoreId) (pos : PosId) (s : State) (hS : s.Safe lf lg cq) :
    ∀ res, (execCopyIn p pos s) = Host.Outcome.next res → (res).Safe lf lg cq := by
  intro res hv
  simp only [execCopyIn, Host.Outcome.next.injEq] at hv
  subst hv
  repeat' (first
    | with_reducible assumption
    | with_reducible apply State.issue_safe
    | with_reducible apply State.startCopyIn_safe
    | with_reducible apply foldl_snd2_safe
    | with_reducible refine pair3_safe (by with_reducible assumption) ?_
    | with_reducible refine pair_safe (by with_reducible assumption) ?_
    | with_reducible apply foldl_safe
    | with_reducible apply foldl_snd_safe
    | intro _
    | split
    | dsimp only
    | refine State.Safe.lit ?_ rfl rfl rfl rfl)

theorem execCopyIn_safe' {p : CoreId} {pos : PosId} {s : State} {res} (eqn : (execCopyIn p pos s) = Host.Outcome.next res) (hS : s.Safe lf lg cq)  :
    (res).Safe lf lg cq := execCopyIn_safe p pos s hS res eqn

theorem execIngest_safe (p : CoreId) (pos : PosId) (s : State) (hS : s.Safe lf lg cq) :
    ∀ res, (execIngest p pos s) = Host.Outcome.next res → (res).Safe lf lg cq := by
  intro res hv
  simp only [execIngest, Host.Outcome.next.injEq] at hv
  subst hv
  repeat' (first
    | with_reducible assumption
    | with_reducible apply State.issue_safe
    | with_reducible apply State.startIngest_safe
    | with_reducible apply foldl_snd2_safe
    | with_reducible refine pair3_safe (by with_reducible assumption) ?_
    | with_reducible refine pair_safe (by with_reducible assumption) ?_
    | with_reducible apply foldl_safe
    | with_reducible apply foldl_snd_safe
    | intro _
    | split
    | dsimp only
    | refine State.Safe.lit ?_ rfl rfl rfl rfl)

theorem execIngest_safe' {p : CoreId} {pos : PosId} {s : State} {res} (eqn : (execIngest p pos s) = Host.Outcome.next res) (hS : s.Safe lf lg cq)  :
    (res).Safe lf lg cq := execIngest_safe p pos s hS res eqn

theorem execAdapterAddResume_safe (c : CoreId) (p : CoreId) (pos : PosId) (idx : Nat) (row : Nat) (s : State) (hS : s.Safe lf lg cq) :
    ∀ res, (execAdapterAddResume c p pos idx row s) = Host.Outcome.next res → (res).Safe lf lg cq := by
  intro res hv
  simp only [execAdapterAddResume, Host.Outcome.next.injEq] at hv
  subst hv
  repeat' (first
    | with_reducible assumption
    | with_reducible apply State.adapterResume_safe
    | with_reducible apply foldl_snd2_safe
    | with_reducible refine pair3_safe (by with_reducible assumption) ?_
    | with_reducible refine pair_safe (by with_reducible assumption) ?_
    | with_reducible apply foldl_safe
    | with_reducible apply foldl_snd_safe
    | intro _
    | split
    | dsimp only
    | refine State.Safe.lit ?_ rfl rfl rfl rfl)

theorem execAdapterAddResume_safe' {c : CoreId} {p : CoreId} {pos : PosId} {idx : Nat} {row : Nat} {s : State} {res} (eqn : (execAdapterAddResume c p pos idx row s) = Host.Outcome.next res) (hS : s.Safe lf lg cq)  :
    (res).Safe lf lg cq := execAdapterAddResume_safe c p pos idx row s hS res eqn

theorem execMatmul_safe (p : CoreId) (pos : PosId) (s : State) (hS : s.Safe lf lg cq) :
    ∀ res, (execMatmul p pos s) = Host.Outcome.next res → (res).Safe lf lg cq := by
  intro res hv
  simp only [execMatmul, Host.Outcome.next.injEq] at hv
  subst hv
  repeat' (first
    | with_reducible assumption
    | with_reducible apply State.issue_safe
    | with_reducible apply State.startPasses_safe
    | with_reducible apply foldl_snd2_safe
    | with_reducible refine pair3_safe (by with_reducible assumption) ?_
    | with_reducible refine pair_safe (by with_reducible assumption) ?_
    | with_reducible apply foldl_safe
    | with_reducible apply foldl_snd_safe
    | intro _
    | split
    | dsimp only
    | refine State.Safe.lit ?_ rfl rfl rfl rfl)

theorem execMatmul_safe' {p : CoreId} {pos : PosId} {s : State} {res} (eqn : (execMatmul p pos s) = Host.Outcome.next res) (hS : s.Safe lf lg cq)  :
    (res).Safe lf lg cq := execMatmul_safe p pos s hS res eqn

theorem execAdpData_safe (peer : PeerId) (s : State) (hS : s.Safe lf lg cq) :
    ∀ res, (execAdpData peer s) = Host.Outcome.next res → (res).Safe lf lg cq := by
  intro res hv
  simp only [execAdpData, Host.Outcome.next.injEq] at hv
  subst hv
  repeat' (first
    | with_reducible assumption
    | with_reducible apply State.adpData_safe
    | with_reducible apply foldl_snd2_safe
    | with_reducible refine pair3_safe (by with_reducible assumption) ?_
    | with_reducible refine pair_safe (by with_reducible assumption) ?_
    | with_reducible apply foldl_safe
    | with_reducible apply foldl_snd_safe
    | intro _
    | split
    | dsimp only
    | refine State.Safe.lit ?_ rfl rfl rfl rfl)

theorem execAdpData_safe' {peer : PeerId} {s : State} {res} (eqn : (execAdpData peer s) = Host.Outcome.next res) (hS : s.Safe lf lg cq)  :
    (res).Safe lf lg cq := execAdpData_safe peer s hS res eqn

theorem execDmatmul_safe (p : CoreId) (pos : PosId) (s : State) (hS : s.Safe lf lg cq) :
    ∀ res, (execDmatmul p pos s) = Host.Outcome.next res → (res).Safe lf lg cq := by
  intro res hv
  simp only [execDmatmul, Host.Outcome.next.injEq] at hv
  subst hv
  repeat' (first
    | with_reducible assumption
    | with_reducible apply State.issue_safe
    | with_reducible apply State.startPasses_safe
    | with_reducible apply foldl_snd2_safe
    | with_reducible refine pair3_safe (by with_reducible assumption) ?_
    | with_reducible refine pair_safe (by with_reducible assumption) ?_
    | with_reducible apply foldl_safe
    | with_reducible apply foldl_snd_safe
    | intro _
    | split
    | dsimp only
    | refine State.Safe.lit ?_ rfl rfl rfl rfl)

theorem execDmatmul_safe' {p : CoreId} {pos : PosId} {s : State} {res} (eqn : (execDmatmul p pos s) = Host.Outcome.next res) (hS : s.Safe lf lg cq)  :
    (res).Safe lf lg cq := execDmatmul_safe p pos s hS res eqn

theorem execForward_safe (p : CoreId) (pos : PosId) (s : State) (hS : s.Safe lf lg cq) :
    ∀ res, (execForward p pos s) = Host.Outcome.next res → (res).Safe lf lg cq := by
  intro res hv
  simp only [execForward, Host.Outcome.next.injEq] at hv
  subst hv
  repeat' (first
    | with_reducible assumption
    | with_reducible apply State.issue_safe
    | with_reducible apply State.startForward_safe
    | with_reducible apply foldl_snd2_safe
    | with_reducible refine pair3_safe (by with_reducible assumption) ?_
    | with_reducible refine pair_safe (by with_reducible assumption) ?_
    | with_reducible apply foldl_safe
    | with_reducible apply foldl_snd_safe
    | intro _
    | split
    | dsimp only
    | refine State.Safe.lit ?_ rfl rfl rfl rfl)

theorem execForward_safe' {p : CoreId} {pos : PosId} {s : State} {res} (eqn : (execForward p pos s) = Host.Outcome.next res) (hS : s.Safe lf lg cq)  :
    (res).Safe lf lg cq := execForward_safe p pos s hS res eqn

theorem execEntryComplete_safe (p : CoreId) (pos : PosId) (idx : Nat) (s : State) (hS : s.Safe lf lg cq) :
    ∀ res, (execEntryComplete p pos idx s) = Host.Outcome.next res → (res).Safe lf lg cq := by
  intro res hv
  simp only [execEntryComplete, Host.Outcome.next.injEq] at hv
  subst hv
  repeat' (first
    | with_reducible assumption
    | with_reducible apply State.entryComplete_safe
    | with_reducible apply foldl_snd2_safe
    | with_reducible refine pair3_safe (by with_reducible assumption) ?_
    | with_reducible refine pair_safe (by with_reducible assumption) ?_
    | with_reducible apply foldl_safe
    | with_reducible apply foldl_snd_safe
    | intro _
    | split
    | dsimp only
    | refine State.Safe.lit ?_ rfl rfl rfl rfl)

theorem execEntryComplete_safe' {p : CoreId} {pos : PosId} {idx : Nat} {s : State} {res} (eqn : (execEntryComplete p pos idx s) = Host.Outcome.next res) (hS : s.Safe lf lg cq)  :
    (res).Safe lf lg cq := execEntryComplete_safe p pos idx s hS res eqn

theorem execHaloWaitTimeout_safe (p : CoreId) (pos : PosId) (idx : Nat) (s : State) (hS : s.Safe lf lg cq) :
    ∀ res, (execHaloWaitTimeout p pos idx s) = Host.Outcome.next res → (res).Safe lf lg cq := by
  intro res hv
  simp only [execHaloWaitTimeout, Host.Outcome.next.injEq] at hv
  subst hv
  repeat' (first
    | with_reducible assumption
    | with_reducible apply State.haloWaitOut_safe
    | with_reducible apply foldl_snd2_safe
    | with_reducible refine pair3_safe (by with_reducible assumption) ?_
    | with_reducible refine pair_safe (by with_reducible assumption) ?_
    | with_reducible apply foldl_safe
    | with_reducible apply foldl_snd_safe
    | intro _
    | split
    | dsimp only
    | refine State.Safe.lit ?_ rfl rfl rfl rfl)

theorem execHaloWaitTimeout_safe' {p : CoreId} {pos : PosId} {idx : Nat} {s : State} {res} (eqn : (execHaloWaitTimeout p pos idx s) = Host.Outcome.next res) (hS : s.Safe lf lg cq)  :
    (res).Safe lf lg cq := execHaloWaitTimeout_safe p pos idx s hS res eqn

end Sys2Proof.Machine
end

