-- ==== Sys2Proof/Laws/Safe/Groups.lean ====
section
/-! SUPPORT. One lemma for each operation of `Machine/Groups.lean` that answers a state: it keeps `State.Safe` (the primed form says
the same of an answer that is known by an equation). -/

namespace Sys2Proof.Machine
open Sys2Proof
variable {lf lg : Nat} {cq : List Instr}

theorem execRoundClose_safe (s : State) (hS : s.Safe lf lg cq) :
    ∀ res, (execRoundClose s) = Host.Outcome.next res → (res).Safe lf lg cq := by
  intro res hv
  simp only [execRoundClose, Host.Outcome.next.injEq] at hv
  subst hv
  repeat' (first
    | with_reducible assumption
    | with_reducible apply State.roundClose_safe
    | with_reducible apply foldl_snd2_safe
    | with_reducible refine pair3_safe (by with_reducible assumption) ?_
    | with_reducible refine pair_safe (by with_reducible assumption) ?_
    | with_reducible apply foldl_safe
    | with_reducible apply foldl_snd_safe
    | intro _
    | split
    | dsimp only
    | refine State.Safe.lit ?_ rfl rfl rfl rfl)

theorem execRoundClose_safe' {s : State} {res} (eqn : (execRoundClose s) = Host.Outcome.next res) (hS : s.Safe lf lg cq)  :
    (res).Safe lf lg cq := execRoundClose_safe s hS res eqn

theorem execTallyTimeout_safe (s : State) (hS : s.Safe lf lg cq) :
    ∀ res, (execTallyTimeout s) = Host.Outcome.next res → (res).Safe lf lg cq := by
  intro res hv
  simp only [execTallyTimeout, Host.Outcome.next.injEq] at hv
  subst hv
  repeat' (first
    | with_reducible assumption
    | with_reducible apply State.tallyOut_safe
    | with_reducible apply foldl_snd2_safe
    | with_reducible refine pair3_safe (by with_reducible assumption) ?_
    | with_reducible refine pair_safe (by with_reducible assumption) ?_
    | with_reducible apply foldl_safe
    | with_reducible apply foldl_snd_safe
    | intro _
    | split
    | dsimp only
    | refine State.Safe.lit ?_ rfl rfl rfl rfl)

theorem execTallyTimeout_safe' {s : State} {res} (eqn : (execTallyTimeout s) = Host.Outcome.next res) (hS : s.Safe lf lg cq)  :
    (res).Safe lf lg cq := execTallyTimeout_safe s hS res eqn

theorem execLeave_safe (path : Path) (s : State) (hS : s.Safe lf lg cq) :
    ∀ res, (execLeave path s) = Host.Outcome.next res → (res).Safe lf lg cq := by
  intro res hv
  simp only [execLeave, Host.Outcome.next.injEq] at hv
  subst hv
  repeat' (first
    | with_reducible assumption
    | with_reducible apply State.asked_safe
    | with_reducible apply State.talLeave_safe
    | with_reducible apply foldl_snd2_safe
    | with_reducible refine pair3_safe (by with_reducible assumption) ?_
    | with_reducible refine pair_safe (by with_reducible assumption) ?_
    | with_reducible apply foldl_safe
    | with_reducible apply foldl_snd_safe
    | intro _
    | split
    | dsimp only
    | refine State.Safe.lit ?_ rfl rfl rfl rfl)

theorem execLeave_safe' {path : Path} {s : State} {res} (eqn : (execLeave path s) = Host.Outcome.next res) (hS : s.Safe lf lg cq)  :
    (res).Safe lf lg cq := execLeave_safe path s hS res eqn

theorem execExpel_safe (path : Path) (m : Fin 8) (s : State) (hS : s.Safe lf lg cq) :
    ∀ res, (execExpel path m s) = Host.Outcome.next res → (res).Safe lf lg cq := by
  intro res hv
  simp only [execExpel, Host.Outcome.next.injEq] at hv
  subst hv
  repeat' (first
    | with_reducible assumption
    | with_reducible apply State.asked_safe
    | with_reducible apply State.talExpel_safe
    | with_reducible apply foldl_snd2_safe
    | with_reducible refine pair3_safe (by with_reducible assumption) ?_
    | with_reducible refine pair_safe (by with_reducible assumption) ?_
    | with_reducible apply foldl_safe
    | with_reducible apply foldl_snd_safe
    | intro _
    | split
    | dsimp only
    | refine State.Safe.lit ?_ rfl rfl rfl rfl)

theorem execExpel_safe' {path : Path} {m : Fin 8} {s : State} {res} (eqn : (execExpel path m s) = Host.Outcome.next res) (hS : s.Safe lf lg cq)  :
    (res).Safe lf lg cq := execExpel_safe path m s hS res eqn

theorem execTally_safe (peer : PeerId) (s : State) (hS : s.Safe lf lg cq) :
    ∀ res, (execTally peer s) = Host.Outcome.next res → (res).Safe lf lg cq := by
  intro res hv
  simp only [execTally, Host.Outcome.next.injEq] at hv
  subst hv
  repeat' (first
    | with_reducible assumption
    | with_reducible apply State.tallyMsg_safe
    | with_reducible apply foldl_snd2_safe
    | with_reducible refine pair3_safe (by with_reducible assumption) ?_
    | with_reducible refine pair_safe (by with_reducible assumption) ?_
    | with_reducible apply foldl_safe
    | with_reducible apply foldl_snd_safe
    | intro _
    | split
    | dsimp only
    | refine State.Safe.lit ?_ rfl rfl rfl rfl)

theorem execTally_safe' {peer : PeerId} {s : State} {res} (eqn : (execTally peer s) = Host.Outcome.next res) (hS : s.Safe lf lg cq)  :
    (res).Safe lf lg cq := execTally_safe peer s hS res eqn

theorem execExpelMessage_safe (peer : PeerId) (s : State) (hS : s.Safe lf lg cq) :
    ∀ res, (execExpelMessage peer s) = Host.Outcome.next res → (res).Safe lf lg cq := by
  intro res hv
  simp only [execExpelMessage, Host.Outcome.next.injEq] at hv
  subst hv
  repeat' (first
    | with_reducible assumption
    | with_reducible apply State.expelMsg_safe
    | with_reducible apply foldl_snd2_safe
    | with_reducible refine pair3_safe (by with_reducible assumption) ?_
    | with_reducible refine pair_safe (by with_reducible assumption) ?_
    | with_reducible apply foldl_safe
    | with_reducible apply foldl_snd_safe
    | intro _
    | split
    | dsimp only
    | refine State.Safe.lit ?_ rfl rfl rfl rfl)

theorem execExpelMessage_safe' {peer : PeerId} {s : State} {res} (eqn : (execExpelMessage peer s) = Host.Outcome.next res) (hS : s.Safe lf lg cq)  :
    (res).Safe lf lg cq := execExpelMessage_safe peer s hS res eqn

theorem execSyncCtx_safe (peer : PeerId) (s : State) (hS : s.Safe lf lg cq) :
    ∀ res, (execSyncCtx peer s) = Host.Outcome.next res → (res).Safe lf lg cq := by
  intro res hv
  simp only [execSyncCtx, Host.Outcome.next.injEq] at hv
  subst hv
  repeat' (first
    | with_reducible assumption
    | with_reducible apply State.syncMsg_safe
    | with_reducible apply foldl_snd2_safe
    | with_reducible refine pair3_safe (by with_reducible assumption) ?_
    | with_reducible refine pair_safe (by with_reducible assumption) ?_
    | with_reducible apply foldl_safe
    | with_reducible apply foldl_snd_safe
    | intro _
    | split
    | dsimp only
    | refine State.Safe.lit ?_ rfl rfl rfl rfl)

theorem execSyncCtx_safe' {peer : PeerId} {s : State} {res} (eqn : (execSyncCtx peer s) = Host.Outcome.next res) (hS : s.Safe lf lg cq)  :
    (res).Safe lf lg cq := execSyncCtx_safe peer s hS res eqn

theorem execLeaveMessage_safe (peer : PeerId) (s : State) (hS : s.Safe lf lg cq) :
    ∀ res, (execLeaveMessage peer s) = Host.Outcome.next res → (res).Safe lf lg cq := by
  intro res hv
  simp only [execLeaveMessage, Host.Outcome.next.injEq] at hv
  subst hv
  repeat' (first
    | with_reducible assumption
    | with_reducible apply State.leaveMsg_safe
    | with_reducible apply foldl_snd2_safe
    | with_reducible refine pair3_safe (by with_reducible assumption) ?_
    | with_reducible refine pair_safe (by with_reducible assumption) ?_
    | with_reducible apply foldl_safe
    | with_reducible apply foldl_snd_safe
    | intro _
    | split
    | dsimp only
    | refine State.Safe.lit ?_ rfl rfl rfl rfl)

theorem execLeaveMessage_safe' {peer : PeerId} {s : State} {res} (eqn : (execLeaveMessage peer s) = Host.Outcome.next res) (hS : s.Safe lf lg cq)  :
    (res).Safe lf lg cq := execLeaveMessage_safe peer s hS res eqn

theorem execJoin_safe (path : Path) (s : State) (hS : s.Safe lf lg cq) :
    ∀ res, (execJoin path s) = Host.Outcome.next res → (res).Safe lf lg cq := by
  intro res hv
  simp only [execJoin, Host.Outcome.next.injEq] at hv
  subst hv
  repeat' (first
    | with_reducible assumption
    | with_reducible apply State.asked_safe
    | with_reducible apply State.talJoin_safe
    | with_reducible apply foldl_snd2_safe
    | with_reducible refine pair3_safe (by with_reducible assumption) ?_
    | with_reducible refine pair_safe (by with_reducible assumption) ?_
    | with_reducible apply foldl_safe
    | with_reducible apply foldl_snd_safe
    | intro _
    | split
    | dsimp only
    | refine State.Safe.lit ?_ rfl rfl rfl rfl)

theorem execJoin_safe' {path : Path} {s : State} {res} (eqn : (execJoin path s) = Host.Outcome.next res) (hS : s.Safe lf lg cq)  :
    (res).Safe lf lg cq := execJoin_safe path s hS res eqn

theorem execGroupHello_safe (peer : PeerId) (s : State) (hS : s.Safe lf lg cq) :
    ∀ res, (execGroupHello peer s) = Host.Outcome.next res → (res).Safe lf lg cq := by
  intro res hv
  simp only [execGroupHello, Host.Outcome.next.injEq] at hv
  subst hv
  repeat' (first
    | with_reducible assumption
    | with_reducible apply State.helloMsg_safe
    | with_reducible apply foldl_snd2_safe
    | with_reducible refine pair3_safe (by with_reducible assumption) ?_
    | with_reducible refine pair_safe (by with_reducible assumption) ?_
    | with_reducible apply foldl_safe
    | with_reducible apply foldl_snd_safe
    | intro _
    | split
    | dsimp only
    | refine State.Safe.lit ?_ rfl rfl rfl rfl)

theorem execGroupHello_safe' {peer : PeerId} {s : State} {res} (eqn : (execGroupHello peer s) = Host.Outcome.next res) (hS : s.Safe lf lg cq)  :
    (res).Safe lf lg cq := execGroupHello_safe peer s hS res eqn

end Sys2Proof.Machine
end

