-- ==== Sys2Proof/Laws/Safe/Images.lean ====
section
/-! SUPPORT. One lemma for each operation of `Machine/Images.lean` that answers a state: it keeps `State.Safe` (the primed form says
the same of an answer that is known by an equation). -/

namespace Sys2Proof.Machine
open Sys2Proof
variable {lf lg : Nat} {cq : List Instr}

theorem execReleaseHold_safe (path : Path) (s : State) (hS : s.Safe lf lg cq) :
    ∀ res, (execReleaseHold path s) = Host.Outcome.next res → (res).Safe lf lg cq := by
  intro res hv
  simp only [execReleaseHold, Host.Outcome.next.injEq] at hv
  subst hv
  repeat' (first
    | with_reducible assumption
    | with_reducible apply State.asked_safe
    | with_reducible apply State.imgReleaseHold_safe
    | with_reducible apply State.imgWhenUp_safe
    | with_reducible apply foldl_snd2_safe
    | with_reducible refine pair3_safe (by with_reducible assumption) ?_
    | with_reducible refine pair_safe (by with_reducible assumption) ?_
    | with_reducible apply foldl_safe
    | with_reducible apply foldl_snd_safe
    | intro _
    | split
    | dsimp only
    | refine State.Safe.lit ?_ rfl rfl rfl rfl)

theorem execReleaseHold_safe' {path : Path} {s : State} {res} (eqn : (execReleaseHold path s) = Host.Outcome.next res) (hS : s.Safe lf lg cq)  :
    (res).Safe lf lg cq := execReleaseHold_safe path s hS res eqn

theorem execVerify_safe (path : Path) (s : State) (hS : s.Safe lf lg cq) :
    ∀ res, (execVerify path s) = Host.Outcome.next res → (res).Safe lf lg cq := by
  intro res hv
  simp only [execVerify, Host.Outcome.next.injEq] at hv
  subst hv
  repeat' (first
    | with_reducible assumption
    | with_reducible apply State.asked_safe
    | with_reducible apply State.imgVerifyCmd_safe
    | with_reducible apply State.imgWhenUp_safe
    | with_reducible apply foldl_snd2_safe
    | with_reducible refine pair3_safe (by with_reducible assumption) ?_
    | with_reducible refine pair_safe (by with_reducible assumption) ?_
    | with_reducible apply foldl_safe
    | with_reducible apply foldl_snd_safe
    | intro _
    | split
    | dsimp only
    | refine State.Safe.lit ?_ rfl rfl rfl rfl)

theorem execVerify_safe' {path : Path} {s : State} {res} (eqn : (execVerify path s) = Host.Outcome.next res) (hS : s.Safe lf lg cq)  :
    (res).Safe lf lg cq := execVerify_safe path s hS res eqn

theorem execInstall_safe (path : Path) (s : State) (hS : s.Safe lf lg cq) :
    ∀ res, (execInstall path s) = Host.Outcome.next res → (res).Safe lf lg cq := by
  intro res hv
  simp only [execInstall, Host.Outcome.next.injEq] at hv
  subst hv
  repeat' (first
    | with_reducible assumption
    | with_reducible apply State.asked_safe
    | with_reducible apply State.imgWhenUp_safe
    | with_reducible apply State.imgInstall_safe
    | with_reducible apply foldl_snd2_safe
    | with_reducible refine pair3_safe (by with_reducible assumption) ?_
    | with_reducible refine pair_safe (by with_reducible assumption) ?_
    | with_reducible apply foldl_safe
    | with_reducible apply foldl_snd_safe
    | intro _
    | split
    | dsimp only
    | refine State.Safe.lit ?_ rfl rfl rfl rfl)

theorem execInstall_safe' {path : Path} {s : State} {res} (eqn : (execInstall path s) = Host.Outcome.next res) (hS : s.Safe lf lg cq)  :
    (res).Safe lf lg cq := execInstall_safe path s hS res eqn

theorem execSendImg_safe (path : Path) (s : State) (hS : s.Safe lf lg cq) :
    ∀ res, (execSendImg path s) = Host.Outcome.next res → (res).Safe lf lg cq := by
  intro res hv
  simp only [execSendImg, Host.Outcome.next.injEq] at hv
  subst hv
  repeat' (first
    | with_reducible assumption
    | with_reducible apply State.asked_safe
    | with_reducible apply State.imgWhenUp_safe
    | with_reducible apply State.imgSend_safe
    | with_reducible apply foldl_snd2_safe
    | with_reducible refine pair3_safe (by with_reducible assumption) ?_
    | with_reducible refine pair_safe (by with_reducible assumption) ?_
    | with_reducible apply foldl_safe
    | with_reducible apply foldl_snd_safe
    | intro _
    | split
    | dsimp only
    | refine State.Safe.lit ?_ rfl rfl rfl rfl)

theorem execSendImg_safe' {path : Path} {s : State} {res} (eqn : (execSendImg path s) = Host.Outcome.next res) (hS : s.Safe lf lg cq)  :
    (res).Safe lf lg cq := execSendImg_safe path s hS res eqn

theorem execReceive_safe (path : Path) (s : State) (hS : s.Safe lf lg cq) :
    ∀ res, (execReceive path s) = Host.Outcome.next res → (res).Safe lf lg cq := by
  intro res hv
  simp only [execReceive, Host.Outcome.next.injEq] at hv
  subst hv
  repeat' (first
    | with_reducible assumption
    | with_reducible apply State.asked_safe
    | with_reducible apply State.imgReceive_safe
    | with_reducible apply State.imgWhenUp_safe
    | with_reducible apply foldl_snd2_safe
    | with_reducible refine pair3_safe (by with_reducible assumption) ?_
    | with_reducible refine pair_safe (by with_reducible assumption) ?_
    | with_reducible apply foldl_safe
    | with_reducible apply foldl_snd_safe
    | intro _
    | split
    | dsimp only
    | refine State.Safe.lit ?_ rfl rfl rfl rfl)

theorem execReceive_safe' {path : Path} {s : State} {res} (eqn : (execReceive path s) = Host.Outcome.next res) (hS : s.Safe lf lg cq)  :
    (res).Safe lf lg cq := execReceive_safe path s hS res eqn

theorem execRestageRef_safe (path : Path) (s : State) (hS : s.Safe lf lg cq) :
    ∀ res, (execRestageRef path s) = Host.Outcome.next res → (res).Safe lf lg cq := by
  intro res hv
  simp only [execRestageRef, Host.Outcome.next.injEq] at hv
  subst hv
  repeat' (first
    | with_reducible assumption
    | with_reducible apply State.asked_safe
    | with_reducible apply State.imgRestage_safe
    | with_reducible apply State.imgWhenUp_safe
    | with_reducible apply foldl_snd2_safe
    | with_reducible refine pair3_safe (by with_reducible assumption) ?_
    | with_reducible refine pair_safe (by with_reducible assumption) ?_
    | with_reducible apply foldl_safe
    | with_reducible apply foldl_snd_safe
    | intro _
    | split
    | dsimp only
    | refine State.Safe.lit ?_ rfl rfl rfl rfl)

theorem execRestageRef_safe' {path : Path} {s : State} {res} (eqn : (execRestageRef path s) = Host.Outcome.next res) (hS : s.Safe lf lg cq)  :
    (res).Safe lf lg cq := execRestageRef_safe path s hS res eqn

theorem execRetry_safe (path : Path) (s : State) (hS : s.Safe lf lg cq) :
    ∀ res, (execRetry path s) = Host.Outcome.next res → (res).Safe lf lg cq := by
  intro res hv
  simp only [execRetry, Host.Outcome.next.injEq] at hv
  subst hv
  repeat' (first
    | with_reducible assumption
    | with_reducible apply State.asked_safe
    | with_reducible apply State.imgRetry_safe
    | with_reducible apply State.imgWhenUp_safe
    | with_reducible apply foldl_snd2_safe
    | with_reducible refine pair3_safe (by with_reducible assumption) ?_
    | with_reducible refine pair_safe (by with_reducible assumption) ?_
    | with_reducible apply foldl_safe
    | with_reducible apply foldl_snd_safe
    | intro _
    | split
    | dsimp only
    | refine State.Safe.lit ?_ rfl rfl rfl rfl)

theorem execRetry_safe' {path : Path} {s : State} {res} (eqn : (execRetry path s) = Host.Outcome.next res) (hS : s.Safe lf lg cq)  :
    (res).Safe lf lg cq := execRetry_safe path s hS res eqn

theorem execImgSegment_safe (peer : PeerId) (s : State) (hS : s.Safe lf lg cq) :
    ∀ res, (execImgSegment peer s) = Host.Outcome.next res → (res).Safe lf lg cq := by
  intro res hv
  simp only [execImgSegment, Host.Outcome.next.injEq] at hv
  subst hv
  repeat' (first
    | with_reducible assumption
    | with_reducible apply State.imgSegment_safe
    | with_reducible apply foldl_snd2_safe
    | with_reducible refine pair3_safe (by with_reducible assumption) ?_
    | with_reducible refine pair_safe (by with_reducible assumption) ?_
    | with_reducible apply foldl_safe
    | with_reducible apply foldl_snd_safe
    | intro _
    | split
    | dsimp only
    | refine State.Safe.lit ?_ rfl rfl rfl rfl)

theorem execImgSegment_safe' {peer : PeerId} {s : State} {res} (eqn : (execImgSegment peer s) = Host.Outcome.next res) (hS : s.Safe lf lg cq)  :
    (res).Safe lf lg cq := execImgSegment_safe peer s hS res eqn

theorem execLockPoundDrained_safe (model : ModelId) (p : CoreId) (s : State) (hS : s.Safe lf lg cq) :
    ∀ res, (execLockPoundDrained model p s) = Host.Outcome.next res → (res).Safe lf lg cq := by
  intro res hv
  simp only [execLockPoundDrained, Host.Outcome.next.injEq] at hv
  subst hv
  repeat' (first
    | with_reducible assumption
    | with_reducible apply State.poundDrained_safe
    | with_reducible apply foldl_snd2_safe
    | with_reducible refine pair3_safe (by with_reducible assumption) ?_
    | with_reducible refine pair_safe (by with_reducible assumption) ?_
    | with_reducible apply foldl_safe
    | with_reducible apply foldl_snd_safe
    | intro _
    | split
    | dsimp only
    | refine State.Safe.lit ?_ rfl rfl rfl rfl)

theorem execLockPoundDrained_safe' {model : ModelId} {p : CoreId} {s : State} {res} (eqn : (execLockPoundDrained model p s) = Host.Outcome.next res) (hS : s.Safe lf lg cq)  :
    (res).Safe lf lg cq := execLockPoundDrained_safe model p s hS res eqn

theorem execDiscard_safe (path : Path) (s : State) (hS : s.Safe lf lg cq) :
    ∀ res, (execDiscard path s) = Host.Outcome.next res → (res).Safe lf lg cq := by
  intro res hv
  simp only [execDiscard, Host.Outcome.next.injEq] at hv
  subst hv
  repeat' (first
    | with_reducible assumption
    | with_reducible apply State.asked_safe
    | with_reducible apply State.imgDiscard_safe
    | with_reducible apply State.imgWhenUp_safe
    | with_reducible apply foldl_snd2_safe
    | with_reducible refine pair3_safe (by with_reducible assumption) ?_
    | with_reducible refine pair_safe (by with_reducible assumption) ?_
    | with_reducible apply foldl_safe
    | with_reducible apply foldl_snd_safe
    | intro _
    | split
    | dsimp only
    | refine State.Safe.lit ?_ rfl rfl rfl rfl)

theorem execDiscard_safe' {path : Path} {s : State} {res} (eqn : (execDiscard path s) = Host.Outcome.next res) (hS : s.Safe lf lg cq)  :
    (res).Safe lf lg cq := execDiscard_safe path s hS res eqn

theorem execLock_safe (path : Path) (hold : Bool) (s : State) (hS : s.Safe lf lg cq) :
    ∀ res, (execLock path hold s) = Host.Outcome.next res → (res).Safe lf lg cq := by
  intro res hv
  simp only [execLock, Host.Outcome.next.injEq] at hv
  subst hv
  repeat' (first
    | with_reducible assumption
    | with_reducible apply State.asked_safe
    | with_reducible apply State.imgWhenUp_safe
    | with_reducible apply State.imgLock_safe
    | with_reducible apply foldl_snd2_safe
    | with_reducible refine pair3_safe (by with_reducible assumption) ?_
    | with_reducible refine pair_safe (by with_reducible assumption) ?_
    | with_reducible apply foldl_safe
    | with_reducible apply foldl_snd_safe
    | intro _
    | split
    | dsimp only
    | refine State.Safe.lit ?_ rfl rfl rfl rfl)

theorem execLock_safe' {path : Path} {hold : Bool} {s : State} {res} (eqn : (execLock path hold s) = Host.Outcome.next res) (hS : s.Safe lf lg cq)  :
    (res).Safe lf lg cq := execLock_safe path hold s hS res eqn

theorem execOpeningCalibrationDone_safe (c : CoreId) (sl : SlotId) (m : CalCodes) (s : State) (hS : s.Safe lf lg cq) :
    ∀ res, (execOpeningCalibrationDone c sl m s) = Host.Outcome.next res → (res).Safe lf lg cq := by
  intro res hv
  simp only [execOpeningCalibrationDone, Host.Outcome.next.injEq] at hv
  subst hv
  repeat' (first
    | with_reducible assumption
    | with_reducible apply State.openingDone_safe
    | with_reducible apply foldl_snd2_safe
    | with_reducible refine pair3_safe (by with_reducible assumption) ?_
    | with_reducible refine pair_safe (by with_reducible assumption) ?_
    | with_reducible apply foldl_safe
    | with_reducible apply foldl_snd_safe
    | intro _
    | split
    | dsimp only
    | refine State.Safe.lit ?_ rfl rfl rfl rfl)

theorem execOpeningCalibrationDone_safe' {c : CoreId} {sl : SlotId} {m : CalCodes} {s : State} {res} (eqn : (execOpeningCalibrationDone c sl m s) = Host.Outcome.next res) (hS : s.Safe lf lg cq)  :
    (res).Safe lf lg cq := execOpeningCalibrationDone_safe c sl m s hS res eqn

theorem execLoadSet_safe (path : Path) (set : Fin 16) (s : State) (hS : s.Safe lf lg cq) :
    ∀ res, (execLoadSet path set s) = Host.Outcome.next res → (res).Safe lf lg cq := by
  intro res hv
  simp only [execLoadSet, Host.Outcome.next.injEq] at hv
  subst hv
  repeat' (first
    | with_reducible assumption
    | with_reducible apply State.asked_safe
    | with_reducible apply State.imgLoadSet_safe
    | with_reducible apply State.imgWhenUp_safe
    | with_reducible apply foldl_snd2_safe
    | with_reducible refine pair3_safe (by with_reducible assumption) ?_
    | with_reducible refine pair_safe (by with_reducible assumption) ?_
    | with_reducible apply foldl_safe
    | with_reducible apply foldl_snd_safe
    | intro _
    | split
    | dsimp only
    | refine State.Safe.lit ?_ rfl rfl rfl rfl)

theorem execLoadSet_safe' {path : Path} {set : Fin 16} {s : State} {res} (eqn : (execLoadSet path set s) = Host.Outcome.next res) (hS : s.Safe lf lg cq)  :
    (res).Safe lf lg cq := execLoadSet_safe path set s hS res eqn

end Sys2Proof.Machine
end

