-- ==== Sys2Proof/Laws/Safe/Network.lean ====
section
/-! SUPPORT. One lemma for each operation of `Machine/Network.lean` that answers a state: it keeps `State.Safe` (the primed form says
the same of an answer that is known by an equation). -/

namespace Sys2Proof.Machine
open Sys2Proof
variable {lf lg : Nat} {cq : List Instr}

theorem execSirinOpenRetry_safe (peer : PeerId) (s : State) (hS : s.Safe lf lg cq) :
    ∀ res, (execSirinOpenRetry peer s) = Host.Outcome.next res → (res).Safe lf lg cq := by
  intro res hv
  simp only [execSirinOpenRetry, Host.Outcome.next.injEq] at hv
  subst hv
  repeat' (first
    | with_reducible assumption
    | with_reducible apply State.sirinCtl_safe
    | with_reducible apply State.modPeer_safe
    | with_reducible apply foldl_snd2_safe
    | with_reducible refine pair3_safe (by with_reducible assumption) ?_
    | with_reducible refine pair_safe (by with_reducible assumption) ?_
    | with_reducible apply foldl_safe
    | with_reducible apply foldl_snd_safe
    | intro _
    | split
    | dsimp only
    | refine State.Safe.lit ?_ rfl rfl rfl rfl)

theorem execSirinOpenRetry_safe' {peer : PeerId} {s : State} {res} (eqn : (execSirinOpenRetry peer s) = Host.Outcome.next res) (hS : s.Safe lf lg cq)  :
    (res).Safe lf lg cq := execSirinOpenRetry_safe peer s hS res eqn

theorem execPtpSyncTimeout_safe (s : State) (hS : s.Safe lf lg cq) :
    ∀ res, (execPtpSyncTimeout s) = Host.Outcome.next res → (res).Safe lf lg cq := by
  intro res hv
  simp only [execPtpSyncTimeout, Host.Outcome.next.injEq] at hv
  subst hv
  repeat' (first
    | with_reducible assumption
    | with_reducible apply State.ptpSilent_safe
    | with_reducible apply foldl_snd2_safe
    | with_reducible refine pair3_safe (by with_reducible assumption) ?_
    | with_reducible refine pair_safe (by with_reducible assumption) ?_
    | with_reducible apply foldl_safe
    | with_reducible apply foldl_snd_safe
    | intro _
    | split
    | dsimp only
    | refine State.Safe.lit ?_ rfl rfl rfl rfl)

theorem execPtpSyncTimeout_safe' {s : State} {res} (eqn : (execPtpSyncTimeout s) = Host.Outcome.next res) (hS : s.Safe lf lg cq)  :
    (res).Safe lf lg cq := execPtpSyncTimeout_safe s hS res eqn

theorem execSamplePreload_safe (bits : List Bool) (s : State) (hS : s.Safe lf lg cq) :
    ∀ res, (execSamplePreload bits s) = Host.Outcome.next res → (res).Safe lf lg cq := by
  intro res hv
  simp only [execSamplePreload, Host.Outcome.next.injEq] at hv
  subst hv
  repeat' (first
    | with_reducible assumption
    | with_reducible apply State.tapLoad_safe
    | with_reducible apply State.send_safe
    | with_reducible apply foldl_snd2_safe
    | with_reducible refine pair3_safe (by with_reducible assumption) ?_
    | with_reducible refine pair_safe (by with_reducible assumption) ?_
    | with_reducible apply foldl_safe
    | with_reducible apply foldl_snd_safe
    | intro _
    | split
    | dsimp only
    | refine State.Safe.lit ?_ rfl rfl rfl rfl)

theorem execSamplePreload_safe' {bits : List Bool} {s : State} {res} (eqn : (execSamplePreload bits s) = Host.Outcome.next res) (hS : s.Safe lf lg cq)  :
    (res).Safe lf lg cq := execSamplePreload_safe bits s hS res eqn

theorem execExtestTrain_safe (s : State) (hS : s.Safe lf lg cq) :
    ∀ res, (execExtestTrain s) = Host.Outcome.next res → (res).Safe lf lg cq := by
  intro res hv
  simp only [execExtestTrain, Host.Outcome.next.injEq] at hv
  subst hv
  repeat' (first
    | with_reducible assumption
    | with_reducible apply State.tapLoad_safe
    | with_reducible apply foldl_snd2_safe
    | with_reducible refine pair3_safe (by with_reducible assumption) ?_
    | with_reducible refine pair_safe (by with_reducible assumption) ?_
    | with_reducible apply foldl_safe
    | with_reducible apply foldl_snd_safe
    | intro _
    | split
    | dsimp only
    | refine State.Safe.lit ?_ rfl rfl rfl rfl)

theorem execExtestTrain_safe' {s : State} {res} (eqn : (execExtestTrain s) = Host.Outcome.next res) (hS : s.Safe lf lg cq)  :
    (res).Safe lf lg cq := execExtestTrain_safe s hS res eqn

theorem State.onCtl_safe (s : State) (i : Nat) (typ : Nat) (f : State → Ctl → State) (hS : s.Safe lf lg cq) (hff : ∀ x0 x1, x0.Safe lf lg cq → (f x0 x1).Safe lf lg cq) :
    ((State.onCtl s i typ f)).Safe lf lg cq := by
  unfold State.onCtl
  repeat' (first
    | with_reducible assumption
    | with_reducible apply State.takeCtl_safe
    | with_reducible refine State.takeCtl_safe' (by with_reducible assumption) ?_
    | with_reducible apply hff
    | with_reducible apply foldl_snd2_safe
    | with_reducible refine pair3_safe (by with_reducible assumption) ?_
    | with_reducible refine pair_safe (by with_reducible assumption) ?_
    | with_reducible apply foldl_safe
    | with_reducible apply foldl_snd_safe
    | intro _
    | split
    | dsimp only
    | refine State.Safe.lit ?_ rfl rfl rfl rfl)

theorem execCloseMsg_safe (peer : PeerId) (s : State) (hS : s.Safe lf lg cq) :
    ∀ res, (execCloseMsg peer s) = Host.Outcome.next res → (res).Safe lf lg cq := by
  intro res hv
  simp only [execCloseMsg, Host.Outcome.next.injEq] at hv
  subst hv
  repeat' (first
    | with_reducible assumption
    | with_reducible apply State.closePeer_safe
    | with_reducible apply State.onCtl_safe
    | with_reducible apply State.adpSettle_safe
    | with_reducible apply foldl_snd2_safe
    | with_reducible refine pair3_safe (by with_reducible assumption) ?_
    | with_reducible refine pair_safe (by with_reducible assumption) ?_
    | with_reducible apply foldl_safe
    | with_reducible apply foldl_snd_safe
    | intro _
    | split
    | dsimp only
    | refine State.Safe.lit ?_ rfl rfl rfl rfl)

theorem execCloseMsg_safe' {peer : PeerId} {s : State} {res} (eqn : (execCloseMsg peer s) = Host.Outcome.next res) (hS : s.Safe lf lg cq)  :
    (res).Safe lf lg cq := execCloseMsg_safe peer s hS res eqn

theorem execExtest_safe (s : State) (hS : s.Safe lf lg cq) :
    ∀ res, (execExtest s) = Host.Outcome.next res → (res).Safe lf lg cq := by
  intro res hv
  simp only [execExtest, Host.Outcome.next.injEq] at hv
  subst hv
  repeat' (first
    | with_reducible assumption
    | with_reducible apply State.tapLoad_safe
    | with_reducible apply foldl_snd2_safe
    | with_reducible refine pair3_safe (by with_reducible assumption) ?_
    | with_reducible refine pair_safe (by with_reducible assumption) ?_
    | with_reducible apply foldl_safe
    | with_reducible apply foldl_snd_safe
    | intro _
    | split
    | dsimp only
    | refine State.Safe.lit ?_ rfl rfl rfl rfl)

theorem execExtest_safe' {s : State} {res} (eqn : (execExtest s) = Host.Outcome.next res) (hS : s.Safe lf lg cq)  :
    (res).Safe lf lg cq := execExtest_safe s hS res eqn

theorem execSirinRetxTimeout_safe (peer : PeerId) (ch : Fin 2) (s : State) (hS : s.Safe lf lg cq) :
    ∀ res, (execSirinRetxTimeout peer ch s) = Host.Outcome.next res → (res).Safe lf lg cq := by
  intro res hv
  simp only [execSirinRetxTimeout, Host.Outcome.next.injEq] at hv
  subst hv
  repeat' (first
    | with_reducible assumption
    | with_reducible apply State.retxTimeout_safe
    | with_reducible apply State.adpSettle_safe
    | with_reducible apply foldl_snd2_safe
    | with_reducible refine pair3_safe (by with_reducible assumption) ?_
    | with_reducible refine pair_safe (by with_reducible assumption) ?_
    | with_reducible apply foldl_safe
    | with_reducible apply foldl_snd_safe
    | intro _
    | split
    | dsimp only
    | refine State.Safe.lit ?_ rfl rfl rfl rfl)

theorem execSirinRetxTimeout_safe' {peer : PeerId} {ch : Fin 2} {s : State} {res} (eqn : (execSirinRetxTimeout peer ch s) = Host.Outcome.next res) (hS : s.Safe lf lg cq)  :
    (res).Safe lf lg cq := execSirinRetxTimeout_safe peer ch s hS res eqn

theorem execCloseCommand_safe (path : Path) (peer : PeerId) (s : State) (hS : s.Safe lf lg cq) :
    ∀ res, (execCloseCommand path peer s) = Host.Outcome.next res → (res).Safe lf lg cq := by
  intro res hv
  simp only [execCloseCommand, Host.Outcome.next.injEq] at hv
  subst hv
  repeat' (first
    | with_reducible assumption
    | with_reducible apply State.asked_safe
    | with_reducible apply State.srnClose_safe
    | with_reducible apply State.adpSettle_safe
    | with_reducible apply foldl_snd2_safe
    | with_reducible refine pair3_safe (by with_reducible assumption) ?_
    | with_reducible refine pair_safe (by with_reducible assumption) ?_
    | with_reducible apply foldl_safe
    | with_reducible apply foldl_snd_safe
    | intro _
    | split
    | dsimp only
    | refine State.Safe.lit ?_ rfl rfl rfl rfl)

theorem execCloseCommand_safe' {path : Path} {peer : PeerId} {s : State} {res} (eqn : (execCloseCommand path peer s) = Host.Outcome.next res) (hS : s.Safe lf lg cq)  :
    (res).Safe lf lg cq := execCloseCommand_safe path peer s hS res eqn

theorem execReload_safe (path : Path) (s : State) (hS : s.Safe lf lg cq) :
    ∀ res, (execReload path s) = Host.Outcome.next res → (res).Safe lf lg cq := by
  intro res hv
  simp only [execReload, Host.Outcome.next.injEq] at hv
  subst hv
  repeat' (first
    | with_reducible assumption
    | with_reducible apply State.asked_safe
    | with_reducible apply State.srnReload_safe
    | with_reducible apply foldl_snd2_safe
    | with_reducible refine pair3_safe (by with_reducible assumption) ?_
    | with_reducible refine pair_safe (by with_reducible assumption) ?_
    | with_reducible apply foldl_safe
    | with_reducible apply foldl_snd_safe
    | intro _
    | split
    | dsimp only
    | refine State.Safe.lit ?_ rfl rfl rfl rfl)

theorem execReload_safe' {path : Path} {s : State} {res} (eqn : (execReload path s) = Host.Outcome.next res) (hS : s.Safe lf lg cq)  :
    (res).Safe lf lg cq := execReload_safe path s hS res eqn

theorem execEthLinkUp_safe (port : PortId) (s : State) (hS : s.Safe lf lg cq) :
    ∀ res, (execEthLinkUp port s) = Host.Outcome.next res → (res).Safe lf lg cq := by
  intro res hv
  simp only [execEthLinkUp, Host.Outcome.next.injEq] at hv
  subst hv
  repeat' (first
    | with_reducible assumption
    | with_reducible apply State.portUp_safe
    | with_reducible apply foldl_snd2_safe
    | with_reducible refine pair3_safe (by with_reducible assumption) ?_
    | with_reducible refine pair_safe (by with_reducible assumption) ?_
    | with_reducible apply foldl_safe
    | with_reducible apply foldl_snd_safe
    | intro _
    | split
    | dsimp only
    | refine State.Safe.lit ?_ rfl rfl rfl rfl)

theorem execEthLinkUp_safe' {port : PortId} {s : State} {res} (eqn : (execEthLinkUp port s) = Host.Outcome.next res) (hS : s.Safe lf lg cq)  :
    (res).Safe lf lg cq := execEthLinkUp_safe port s hS res eqn

theorem execRefuse_safe (peer : PeerId) (s : State) (hS : s.Safe lf lg cq) :
    ∀ res, (execRefuse peer s) = Host.Outcome.next res → (res).Safe lf lg cq := by
  intro res hv
  simp only [execRefuse, Host.Outcome.next.injEq] at hv
  subst hv
  repeat' (first
    | with_reducible assumption
    | with_reducible apply State.tookMsg_safe
    | with_reducible apply State.raise_safe
    | with_reducible apply foldl_snd2_safe
    | with_reducible refine pair3_safe (by with_reducible assumption) ?_
    | with_reducible refine pair_safe (by with_reducible assumption) ?_
    | with_reducible apply foldl_safe
    | with_reducible apply foldl_snd_safe
    | intro _
    | split
    | dsimp only
    | refine State.Safe.lit ?_ rfl rfl rfl rfl)

theorem execRefuse_safe' {peer : PeerId} {s : State} {res} (eqn : (execRefuse peer s) = Host.Outcome.next res) (hS : s.Safe lf lg cq)  :
    (res).Safe lf lg cq := execRefuse_safe peer s hS res eqn

theorem execTbsTimeLoRead_safe (path : Path) (s : State) (hS : s.Safe lf lg cq) :
    ∀ res, (execTbsTimeLoRead path s) = Host.Outcome.next res → (res).Safe lf lg cq := by
  intro res hv
  simp only [execTbsTimeLoRead, Host.Outcome.next.injEq] at hv
  subst hv
  repeat' (first
    | with_reducible assumption
    | with_reducible apply State.reply_safe
    | with_reducible apply State.latch_safe
    | with_reducible apply foldl_snd2_safe
    | with_reducible refine pair3_safe (by with_reducible assumption) ?_
    | with_reducible refine pair_safe (by with_reducible assumption) ?_
    | with_reducible apply foldl_safe
    | with_reducible apply foldl_snd_safe
    | intro _
    | split
    | dsimp only
    | refine State.Safe.lit ?_ rfl rfl rfl rfl)

theorem execTbsTimeLoRead_safe' {path : Path} {s : State} {res} (eqn : (execTbsTimeLoRead path s) = Host.Outcome.next res) (hS : s.Safe lf lg cq)  :
    (res).Safe lf lg cq := execTbsTimeLoRead_safe path s hS res eqn

theorem execIdcode_safe (s : State) (hS : s.Safe lf lg cq) :
    ∀ res, (execIdcode s) = Host.Outcome.next res → (res).Safe lf lg cq := by
  intro res hv
  simp only [execIdcode, Host.Outcome.next.injEq] at hv
  subst hv
  repeat' (first
    | with_reducible assumption
    | with_reducible apply State.tapLoad_safe
    | with_reducible apply State.send_safe
    | with_reducible apply foldl_snd2_safe
    | with_reducible refine pair3_safe (by with_reducible assumption) ?_
    | with_reducible refine pair_safe (by with_reducible assumption) ?_
    | with_reducible apply foldl_safe
    | with_reducible apply foldl_snd_safe
    | intro _
    | split
    | dsimp only
    | refine State.Safe.lit ?_ rfl rfl rfl rfl)

theorem execIdcode_safe' {s : State} {res} (eqn : (execIdcode s) = Host.Outcome.next res) (hS : s.Safe lf lg cq)  :
    (res).Safe lf lg cq := execIdcode_safe s hS res eqn

theorem execTbsCfgWrite_safe (path : Path) (v : Word) (s : State) (hS : s.Safe lf lg cq) :
    ∀ res, (execTbsCfgWrite path v s) = Host.Outcome.next res → (res).Safe lf lg cq := by
  intro res hv
  simp only [execTbsCfgWrite, Host.Outcome.next.injEq] at hv
  subst hv
  repeat' (first
    | with_reducible assumption
    | with_reducible apply State.tbsCfg_safe
    | with_reducible apply State.asked_safe
    | with_reducible apply foldl_snd2_safe
    | with_reducible refine pair3_safe (by with_reducible assumption) ?_
    | with_reducible refine pair_safe (by with_reducible assumption) ?_
    | with_reducible apply foldl_safe
    | with_reducible apply foldl_snd_safe
    | intro _
    | split
    | dsimp only
    | refine State.Safe.lit ?_ rfl rfl rfl rfl)

theorem execTbsCfgWrite_safe' {path : Path} {v : Word} {s : State} {res} (eqn : (execTbsCfgWrite path v s) = Host.Outcome.next res) (hS : s.Safe lf lg cq)  :
    (res).Safe lf lg cq := execTbsCfgWrite_safe path v s hS res eqn

theorem execTbUnlocked_safe (s : State) (hS : s.Safe lf lg cq) :
    ∀ res, (execTbUnlocked s) = Host.Outcome.next res → (res).Safe lf lg cq := by
  intro res hv
  simp only [execTbUnlocked, Host.Outcome.next.injEq] at hv
  subst hv
  repeat' (first
    | with_reducible assumption
    | with_reducible apply State.tbLost_safe
    | with_reducible apply foldl_snd2_safe
    | with_reducible refine pair3_safe (by with_reducible assumption) ?_
    | with_reducible refine pair_safe (by with_reducible assumption) ?_
    | with_reducible apply foldl_safe
    | with_reducible apply foldl_snd_safe
    | intro _
    | split
    | dsimp only
    | refine State.Safe.lit ?_ rfl rfl rfl rfl)

theorem execTbUnlocked_safe' {s : State} {res} (eqn : (execTbUnlocked s) = Host.Outcome.next res) (hS : s.Safe lf lg cq)  :
    (res).Safe lf lg cq := execTbUnlocked_safe s hS res eqn

theorem execBypass_safe (s : State) (hS : s.Safe lf lg cq) :
    ∀ res, (execBypass s) = Host.Outcome.next res → (res).Safe lf lg cq := by
  intro res hv
  simp only [execBypass, Host.Outcome.next.injEq] at hv
  subst hv
  repeat' (first
    | with_reducible assumption
    | with_reducible apply State.tapLoad_safe
    | with_reducible apply foldl_snd2_safe
    | with_reducible refine pair3_safe (by with_reducible assumption) ?_
    | with_reducible refine pair_safe (by with_reducible assumption) ?_
    | with_reducible apply foldl_safe
    | with_reducible apply foldl_snd_safe
    | intro _
    | split
    | dsimp only
    | refine State.Safe.lit ?_ rfl rfl rfl rfl)

theorem execBypass_safe' {s : State} {res} (eqn : (execBypass s) = Host.Outcome.next res) (hS : s.Safe lf lg cq)  :
    (res).Safe lf lg cq := execBypass_safe s hS res eqn

theorem execAckMsg_safe (peer : PeerId) (s : State) (hS : s.Safe lf lg cq) :
    ∀ res, (execAckMsg peer s) = Host.Outcome.next res → (res).Safe lf lg cq := by
  intro res hv
  simp only [execAckMsg, Host.Outcome.next.injEq] at hv
  subst hv
  repeat' (first
    | with_reducible assumption
    | with_reducible apply State.gotAck_safe
    | with_reducible apply State.onCtl_safe
    | with_reducible apply foldl_snd2_safe
    | with_reducible refine pair3_safe (by with_reducible assumption) ?_
    | with_reducible refine pair_safe (by with_reducible assumption) ?_
    | with_reducible apply foldl_safe
    | with_reducible apply foldl_snd_safe
    | intro _
    | split
    | dsimp only
    | refine State.Safe.lit ?_ rfl rfl rfl rfl)

theorem execAckMsg_safe' {peer : PeerId} {s : State} {res} (eqn : (execAckMsg peer s) = Host.Outcome.next res) (hS : s.Safe lf lg cq)  :
    (res).Safe lf lg cq := execAckMsg_safe peer s hS res eqn

theorem execBar2Access_safe (off : Nat) (op : MemOp) (s : State) (hS : s.Safe lf lg cq) :
    ∀ res, (execBar2Access off op s) = Host.Outcome.next res → (res).Safe lf lg cq := by
  intro res hv
  simp only [execBar2Access, Host.Outcome.next.injEq] at hv
  subst hv
  repeat' (first
    | with_reducible assumption
    | with_reducible apply State.bar2_safe
    | with_reducible apply foldl_snd2_safe
    | with_reducible refine pair3_safe (by with_reducible assumption) ?_
    | with_reducible refine pair_safe (by with_reducible assumption) ?_
    | with_reducible apply foldl_safe
    | with_reducible apply foldl_snd_safe
    | intro _
    | split
    | dsimp only
    | refine State.Safe.lit ?_ rfl rfl rfl rfl)

theorem execBar2Access_safe' {off : Nat} {op : MemOp} {s : State} {res} (eqn : (execBar2Access off op s) = Host.Outcome.next res) (hS : s.Safe lf lg cq)  :
    (res).Safe lf lg cq := execBar2Access_safe off op s hS res eqn

theorem execClamp_safe (s : State) (hS : s.Safe lf lg cq) :
    ∀ res, (execClamp s) = Host.Outcome.next res → (res).Safe lf lg cq := by
  intro res hv
  simp only [execClamp, Host.Outcome.next.injEq] at hv
  subst hv
  repeat' (first
    | with_reducible assumption
    | with_reducible apply State.tapLoad_safe
    | with_reducible apply foldl_snd2_safe
    | with_reducible refine pair3_safe (by with_reducible assumption) ?_
    | with_reducible refine pair_safe (by with_reducible assumption) ?_
    | with_reducible apply foldl_safe
    | with_reducible apply foldl_snd_safe
    | intro _
    | split
    | dsimp only
    | refine State.Safe.lit ?_ rfl rfl rfl rfl)

theorem execClamp_safe' {s : State} {res} (eqn : (execClamp s) = Host.Outcome.next res) (hS : s.Safe lf lg cq)  :
    (res).Safe lf lg cq := execClamp_safe s hS res eqn

theorem execHighz_safe (s : State) (hS : s.Safe lf lg cq) :
    ∀ res, (execHighz s) = Host.Outcome.next res → (res).Safe lf lg cq := by
  intro res hv
  simp only [execHighz, Host.Outcome.next.injEq] at hv
  subst hv
  repeat' (first
    | with_reducible assumption
    | with_reducible apply State.tapLoad_safe
    | with_reducible apply foldl_snd2_safe
    | with_reducible refine pair3_safe (by with_reducible assumption) ?_
    | with_reducible refine pair_safe (by with_reducible assumption) ?_
    | with_reducible apply foldl_safe
    | with_reducible apply foldl_snd_safe
    | intro _
    | split
    | dsimp only
    | refine State.Safe.lit ?_ rfl rfl rfl rfl)

theorem execHighz_safe' {s : State} {res} (eqn : (execHighz s) = Host.Outcome.next res) (hS : s.Safe lf lg cq)  :
    (res).Safe lf lg cq := execHighz_safe s hS res eqn

theorem execOpenMsg_safe (peer : PeerId) (s : State) (hS : s.Safe lf lg cq) :
    ∀ res, (execOpenMsg peer s) = Host.Outcome.next res → (res).Safe lf lg cq := by
  intro res hv
  simp only [execOpenMsg, Host.Outcome.next.injEq] at hv
  subst hv
  repeat' (first
    | with_reducible assumption
    | with_reducible apply State.gotOpen_safe
    | with_reducible apply State.onCtl_safe
    | with_reducible apply State.adpSettle_safe
    | with_reducible apply foldl_snd2_safe
    | with_reducible refine pair3_safe (by with_reducible assumption) ?_
    | with_reducible refine pair_safe (by with_reducible assumption) ?_
    | with_reducible apply foldl_safe
    | with_reducible apply foldl_snd_safe
    | intro _
    | split
    | dsimp only
    | refine State.Safe.lit ?_ rfl rfl rfl rfl)

theorem execOpenMsg_safe' {peer : PeerId} {s : State} {res} (eqn : (execOpenMsg peer s) = Host.Outcome.next res) (hS : s.Safe lf lg cq)  :
    (res).Safe lf lg cq := execOpenMsg_safe peer s hS res eqn

theorem execPciLinkUp_safe (gen : Fin 6) (width : Fin 16) (s : State) (hS : s.Safe lf lg cq) :
    ∀ res, (execPciLinkUp gen width s) = Host.Outcome.next res → (res).Safe lf lg cq := by
  intro res hv
  simp only [execPciLinkUp, Host.Outcome.next.injEq] at hv
  subst hv
  repeat' (first
    | with_reducible assumption
    | with_reducible apply State.pciUp_safe
    | with_reducible apply foldl_snd2_safe
    | with_reducible refine pair3_safe (by with_reducible assumption) ?_
    | with_reducible refine pair_safe (by with_reducible assumption) ?_
    | with_reducible apply foldl_safe
    | with_reducible apply foldl_snd_safe
    | intro _
    | split
    | dsimp only
    | refine State.Safe.lit ?_ rfl rfl rfl rfl)

theorem execPciLinkUp_safe' {gen : Fin 6} {width : Fin 16} {s : State} {res} (eqn : (execPciLinkUp gen width s) = Host.Outcome.next res) (hS : s.Safe lf lg cq)  :
    (res).Safe lf lg cq := execPciLinkUp_safe gen width s hS res eqn

theorem execEthLinkDown_safe (port : PortId) (s : State) (hS : s.Safe lf lg cq) :
    ∀ res, (execEthLinkDown port s) = Host.Outcome.next res → (res).Safe lf lg cq := by
  intro res hv
  simp only [execEthLinkDown, Host.Outcome.next.injEq] at hv
  subst hv
  repeat' (first
    | with_reducible assumption
    | with_reducible apply State.portDown_safe
    | with_reducible apply foldl_snd2_safe
    | with_reducible refine pair3_safe (by with_reducible assumption) ?_
    | with_reducible refine pair_safe (by with_reducible assumption) ?_
    | with_reducible apply foldl_safe
    | with_reducible apply foldl_snd_safe
    | intro _
    | split
    | dsimp only
    | refine State.Safe.lit ?_ rfl rfl rfl rfl)

theorem execEthLinkDown_safe' {port : PortId} {s : State} {res} (eqn : (execEthLinkDown port s) = Host.Outcome.next res) (hS : s.Safe lf lg cq)  :
    (res).Safe lf lg cq := execEthLinkDown_safe port s hS res eqn

theorem execSirinAckTimer_safe (peer : PeerId) (s : State) (hS : s.Safe lf lg cq) :
    ∀ res, (execSirinAckTimer peer s) = Host.Outcome.next res → (res).Safe lf lg cq := by
  intro res hv
  simp only [execSirinAckTimer, Host.Outcome.next.injEq] at hv
  subst hv
  repeat' (first
    | with_reducible assumption
    | with_reducible apply State.sirinCtl_safe
    | with_reducible apply State.each_safe
    | with_reducible apply foldl_snd2_safe
    | with_reducible refine pair3_safe (by with_reducible assumption) ?_
    | with_reducible refine pair_safe (by with_reducible assumption) ?_
    | with_reducible apply foldl_safe
    | with_reducible apply foldl_snd_safe
    | intro _
    | split
    | dsimp only
    | refine State.Safe.lit ?_ rfl rfl rfl rfl)

theorem execSirinAckTimer_safe' {peer : PeerId} {s : State} {res} (eqn : (execSirinAckTimer peer s) = Host.Outcome.next res) (hS : s.Safe lf lg cq)  :
    (res).Safe lf lg cq := execSirinAckTimer_safe peer s hS res eqn

theorem execSirinOpenTimeout_safe (peer : PeerId) (s : State) (hS : s.Safe lf lg cq) :
    ∀ res, (execSirinOpenTimeout peer s) = Host.Outcome.next res → (res).Safe lf lg cq := by
  intro res hv
  simp only [execSirinOpenTimeout, Host.Outcome.next.injEq] at hv
  subst hv
  repeat' (first
    | with_reducible assumption
    | with_reducible apply State.unreachable_safe
    | with_reducible apply State.adpSettle_safe
    | with_reducible apply foldl_snd2_safe
    | with_reducible refine pair3_safe (by with_reducible assumption) ?_
    | with_reducible refine pair_safe (by with_reducible assumption) ?_
    | with_reducible apply foldl_safe
    | with_reducible apply foldl_snd_safe
    | intro _
    | split
    | dsimp only
    | refine State.Safe.lit ?_ rfl rfl rfl rfl)

theorem execSirinOpenTimeout_safe' {peer : PeerId} {s : State} {res} (eqn : (execSirinOpenTimeout peer s) = Host.Outcome.next res) (hS : s.Safe lf lg cq)  :
    (res).Safe lf lg cq := execSirinOpenTimeout_safe peer s hS res eqn

theorem execOpenAck_safe (peer : PeerId) (s : State) (hS : s.Safe lf lg cq) :
    ∀ res, (execOpenAck peer s) = Host.Outcome.next res → (res).Safe lf lg cq := by
  intro res hv
  simp only [execOpenAck, Host.Outcome.next.injEq] at hv
  subst hv
  repeat' (first
    | with_reducible assumption
    | with_reducible apply State.gotOpenAck_safe
    | with_reducible apply State.onCtl_safe
    | with_reducible apply foldl_snd2_safe
    | with_reducible refine pair3_safe (by with_reducible assumption) ?_
    | with_reducible refine pair_safe (by with_reducible assumption) ?_
    | with_reducible apply foldl_safe
    | with_reducible apply foldl_snd_safe
    | intro _
    | split
    | dsimp only
    | refine State.Safe.lit ?_ rfl rfl rfl rfl)

theorem execOpenAck_safe' {peer : PeerId} {s : State} {res} (eqn : (execOpenAck peer s) = Host.Outcome.next res) (hS : s.Safe lf lg cq)  :
    (res).Safe lf lg cq := execOpenAck_safe peer s hS res eqn

theorem execExtestPulse_safe (s : State) (hS : s.Safe lf lg cq) :
    ∀ res, (execExtestPulse s) = Host.Outcome.next res → (res).Safe lf lg cq := by
  intro res hv
  simp only [execExtestPulse, Host.Outcome.next.injEq] at hv
  subst hv
  repeat' (first
    | with_reducible assumption
    | with_reducible apply State.tapLoad_safe
    | with_reducible apply foldl_snd2_safe
    | with_reducible refine pair3_safe (by with_reducible assumption) ?_
    | with_reducible refine pair_safe (by with_reducible assumption) ?_
    | with_reducible apply foldl_safe
    | with_reducible apply foldl_snd_safe
    | intro _
    | split
    | dsimp only
    | refine State.Safe.lit ?_ rfl rfl rfl rfl)

theorem execExtestPulse_safe' {s : State} {res} (eqn : (execExtestPulse s) = Host.Outcome.next res) (hS : s.Safe lf lg cq)  :
    (res).Safe lf lg cq := execExtestPulse_safe s hS res eqn

theorem execPciLinkDown_safe (cause : Fin 3) (s : State) (hS : s.Safe lf lg cq) :
    ∀ res, (execPciLinkDown cause s) = Host.Outcome.next res → (res).Safe lf lg cq := by
  intro res hv
  simp only [execPciLinkDown, Host.Outcome.next.injEq] at hv
  subst hv
  repeat' (first
    | with_reducible assumption
    | with_reducible apply State.pciDown_safe
    | with_reducible apply foldl_snd2_safe
    | with_reducible refine pair3_safe (by with_reducible assumption) ?_
    | with_reducible refine pair_safe (by with_reducible assumption) ?_
    | with_reducible apply foldl_safe
    | with_reducible apply foldl_snd_safe
    | intro _
    | split
    | dsimp only
    | refine State.Safe.lit ?_ rfl rfl rfl rfl)

theorem execPciLinkDown_safe' {cause : Fin 3} {s : State} {res} (eqn : (execPciLinkDown cause s) = Host.Outcome.next res) (hS : s.Safe lf lg cq)  :
    (res).Safe lf lg cq := execPciLinkDown_safe cause s hS res eqn

theorem execOpenCommand_safe (path : Path) (peer : PeerId) (s : State) (hS : s.Safe lf lg cq) :
    ∀ res, (execOpenCommand path peer s) = Host.Outcome.next res → (res).Safe lf lg cq := by
  intro res hv
  simp only [execOpenCommand, Host.Outcome.next.injEq] at hv
  subst hv
  repeat' (first
    | with_reducible assumption
    | with_reducible apply State.asked_safe
    | with_reducible apply State.srnOpen_safe
    | with_reducible apply foldl_snd2_safe
    | with_reducible refine pair3_safe (by with_reducible assumption) ?_
    | with_reducible refine pair_safe (by with_reducible assumption) ?_
    | with_reducible apply foldl_safe
    | with_reducible apply foldl_snd_safe
    | intro _
    | split
    | dsimp only
    | refine State.Safe.lit ?_ rfl rfl rfl rfl)

theorem execOpenCommand_safe' {path : Path} {peer : PeerId} {s : State} {res} (eqn : (execOpenCommand path peer s) = Host.Outcome.next res) (hS : s.Safe lf lg cq)  :
    (res).Safe lf lg cq := execOpenCommand_safe path peer s hS res eqn

theorem execRxFrame_safe (port : PortId) (frame : RxFrame) (s : State) (hS : s.Safe lf lg cq) :
    ∀ res, (execRxFrame port frame s) = Host.Outcome.next res → (res).Safe lf lg cq := by
  intro res hv
  simp only [execRxFrame, Host.Outcome.next.injEq] at hv
  subst hv
  repeat' (first
    | with_reducible assumption
    | with_reducible apply State.rxFrame_safe
    | with_reducible apply State.fecCount_safe
    | with_reducible apply foldl_snd2_safe
    | with_reducible refine pair3_safe (by with_reducible assumption) ?_
    | with_reducible refine pair_safe (by with_reducible assumption) ?_
    | with_reducible apply foldl_safe
    | with_reducible apply foldl_snd_safe
    | intro _
    | split
    | dsimp only
    | refine State.Safe.lit ?_ rfl rfl rfl rfl)

theorem execRxFrame_safe' {port : PortId} {frame : RxFrame} {s : State} {res} (eqn : (execRxFrame port frame s) = Host.Outcome.next res) (hS : s.Safe lf lg cq)  :
    (res).Safe lf lg cq := execRxFrame_safe port frame s hS res eqn

theorem execTbLocked_safe (s : State) (hS : s.Safe lf lg cq) :
    ∀ res, (execTbLocked s) = Host.Outcome.next res → (res).Safe lf lg cq := by
  intro res hv
  simp only [execTbLocked, Host.Outcome.next.injEq] at hv
  subst hv
  repeat' (first
    | with_reducible assumption
    | with_reducible apply State.tbBack_safe
    | with_reducible apply foldl_snd2_safe
    | with_reducible refine pair3_safe (by with_reducible assumption) ?_
    | with_reducible refine pair_safe (by with_reducible assumption) ?_
    | with_reducible apply foldl_safe
    | with_reducible apply foldl_snd_safe
    | intro _
    | split
    | dsimp only
    | refine State.Safe.lit ?_ rfl rfl rfl rfl)

theorem execTbLocked_safe' {s : State} {res} (eqn : (execTbLocked s) = Host.Outcome.next res) (hS : s.Safe lf lg cq)  :
    (res).Safe lf lg cq := execTbLocked_safe s hS res eqn

theorem execPtpSync_safe (offset : Int) (port : PortId) (s : State) (hS : s.Safe lf lg cq) :
    ∀ res, (execPtpSync offset port s) = Host.Outcome.next res → (res).Safe lf lg cq := by
  intro res hv
  simp only [execPtpSync, Host.Outcome.next.injEq] at hv
  subst hv
  repeat' (first
    | with_reducible assumption
    | with_reducible apply State.ptpSync_safe
    | with_reducible apply foldl_snd2_safe
    | with_reducible refine pair3_safe (by with_reducible assumption) ?_
    | with_reducible refine pair_safe (by with_reducible assumption) ?_
    | with_reducible apply foldl_safe
    | with_reducible apply foldl_snd_safe
    | intro _
    | split
    | dsimp only
    | refine State.Safe.lit ?_ rfl rfl rfl rfl)

theorem execPtpSync_safe' {offset : Int} {port : PortId} {s : State} {res} (eqn : (execPtpSync offset port s) = Host.Outcome.next res) (hS : s.Safe lf lg cq)  :
    (res).Safe lf lg cq := execPtpSync_safe offset port s hS res eqn

end Sys2Proof.Machine
end

