-- ==== Sys2Proof/Laws/Safe/Power.lean ====
section
/-! SUPPORT. One lemma for each operation of `Machine/Power.lean` that answers a state: it keeps `State.Safe` (the primed form says
the same of an answer that is known by an equation). -/

namespace Sys2Proof.Machine
open Sys2Proof
variable {lf lg : Nat} {cq : List Instr}

theorem execDeviceReadyTimeout_safe (s : State) (hS : s.Safe lf lg cq) :
    ∀ res, (execDeviceReadyTimeout s) = Host.Outcome.next res → (res).Safe lf lg cq := by
  intro res hv
  simp only [execDeviceReadyTimeout, Host.Outcome.next.injEq] at hv
  subst hv
  repeat' (first
    | with_reducible assumption
    | with_reducible apply State.nowReady_safe
    | with_reducible apply foldl_snd2_safe
    | with_reducible refine pair3_safe (by with_reducible assumption) ?_
    | with_reducible refine pair_safe (by with_reducible assumption) ?_
    | with_reducible apply foldl_safe
    | with_reducible apply foldl_snd_safe
    | intro _
    | split
    | dsimp only
    | refine State.Safe.lit ?_ rfl rfl rfl rfl)

theorem execDeviceReadyTimeout_safe' {s : State} {res} (eqn : (execDeviceReadyTimeout s) = Host.Outcome.next res) (hS : s.Safe lf lg cq)  :
    (res).Safe lf lg cq := execDeviceReadyTimeout_safe s hS res eqn

theorem execWake_safe (path : Path) (s : State) (hS : s.Safe lf lg cq) :
    ∀ res, (execWake path s) = Host.Outcome.next res → (res).Safe lf lg cq := by
  intro res hv
  simp only [execWake, Host.Outcome.next.injEq] at hv
  subst hv
  repeat' (first
    | with_reducible assumption
    | with_reducible apply State.asked_safe
    | with_reducible apply State.goWake_safe
    | with_reducible apply foldl_snd2_safe
    | with_reducible refine pair3_safe (by with_reducible assumption) ?_
    | with_reducible refine pair_safe (by with_reducible assumption) ?_
    | with_reducible apply foldl_safe
    | with_reducible apply foldl_snd_safe
    | intro _
    | split
    | dsimp only
    | refine State.Safe.lit ?_ rfl rfl rfl rfl)

theorem execWake_safe' {path : Path} {s : State} {res} (eqn : (execWake path s) = Host.Outcome.next res) (hS : s.Safe lf lg cq)  :
    (res).Safe lf lg cq := execWake_safe path s hS res eqn

theorem execHaltRecovery_safe (s : State) (hS : s.Safe lf lg cq) :
    ∀ res, (execHaltRecovery s) = Host.Outcome.next res → (res).Safe lf lg cq := by
  intro res hv
  simp only [execHaltRecovery, Host.Outcome.next.injEq] at hv
  subst hv
  repeat' (first
    | with_reducible assumption
    | with_reducible apply State.haltEnd_safe
    | with_reducible apply foldl_snd2_safe
    | with_reducible refine pair3_safe (by with_reducible assumption) ?_
    | with_reducible refine pair_safe (by with_reducible assumption) ?_
    | with_reducible apply foldl_safe
    | with_reducible apply foldl_snd_safe
    | intro _
    | split
    | dsimp only
    | refine State.Safe.lit ?_ rfl rfl rfl rfl)

theorem execHaltRecovery_safe' {s : State} {res} (eqn : (execHaltRecovery s) = Host.Outcome.next res) (hS : s.Safe lf lg cq)  :
    (res).Safe lf lg cq := execHaltRecovery_safe s hS res eqn

theorem execMemTrainingDone_safe (m : Fin 4) (ok : Bool) (rate : Fin 4) (raw : Fin 16) (typ : Bool) (s : State) (hS : s.Safe lf lg cq) :
    ∀ res, (execMemTrainingDone m ok rate raw typ s) = Host.Outcome.next res → (res).Safe lf lg cq := by
  intro res hv
  simp only [execMemTrainingDone, Host.Outcome.next.injEq] at hv
  subst hv
  repeat' (first
    | with_reducible assumption
    | with_reducible apply State.memTrained_safe
    | with_reducible apply foldl_snd2_safe
    | with_reducible refine pair3_safe (by with_reducible assumption) ?_
    | with_reducible refine pair_safe (by with_reducible assumption) ?_
    | with_reducible apply foldl_safe
    | with_reducible apply foldl_snd_safe
    | intro _
    | split
    | dsimp only
    | refine State.Safe.lit ?_ rfl rfl rfl rfl)

theorem execMemTrainingDone_safe' {m : Fin 4} {ok : Bool} {rate : Fin 4} {raw : Fin 16} {typ : Bool} {s : State} {res} (eqn : (execMemTrainingDone m ok rate raw typ s) = Host.Outcome.next res) (hS : s.Safe lf lg cq)  :
    (res).Safe lf lg cq := execMemTrainingDone_safe m ok rate raw typ s hS res eqn

theorem execStartupCalibration_safe (c : CoreId) (sl : SlotId) (m : CalCodes) (s : State) (hS : s.Safe lf lg cq) :
    ∀ res, (execStartupCalibration c sl m s) = Host.Outcome.next res → (res).Safe lf lg cq := by
  intro res hv
  simp only [execStartupCalibration, Host.Outcome.next.injEq] at hv
  subst hv
  repeat' (first
    | with_reducible assumption
    | with_reducible apply State.startCalEnd_safe
    | with_reducible apply foldl_snd2_safe
    | with_reducible refine pair3_safe (by with_reducible assumption) ?_
    | with_reducible refine pair_safe (by with_reducible assumption) ?_
    | with_reducible apply foldl_safe
    | with_reducible apply foldl_snd_safe
    | intro _
    | split
    | dsimp only
    | refine State.Safe.lit ?_ rfl rfl rfl rfl)

theorem execStartupCalibration_safe' {c : CoreId} {sl : SlotId} {m : CalCodes} {s : State} {res} (eqn : (execStartupCalibration c sl m s) = Host.Outcome.next res) (hS : s.Safe lf lg cq)  :
    (res).Safe lf lg cq := execStartupCalibration_safe c sl m s hS res eqn

theorem execResetAsserted_safe (s : State) (hS : s.Safe lf lg cq) :
    ∀ res, (execResetAsserted s) = Host.Outcome.next res → (res).Safe lf lg cq := by
  intro res hv
  simp only [execResetAsserted, Host.Outcome.next.injEq] at hv
  subst hv
  repeat' (first
    | with_reducible assumption
    | with_reducible apply State.resetOn_safe
    | with_reducible apply foldl_snd2_safe
    | with_reducible refine pair3_safe (by with_reducible assumption) ?_
    | with_reducible refine pair_safe (by with_reducible assumption) ?_
    | with_reducible apply foldl_safe
    | with_reducible apply foldl_snd_safe
    | intro _
    | split
    | dsimp only
    | refine State.Safe.lit ?_ rfl rfl rfl rfl)

theorem execResetAsserted_safe' {s : State} {res} (eqn : (execResetAsserted s) = Host.Outcome.next res) (hS : s.Safe lf lg cq)  :
    (res).Safe lf lg cq := execResetAsserted_safe s hS res eqn

theorem execResetRelease_safe (s : State) (hS : s.Safe lf lg cq) :
    ∀ res, (execResetRelease s) = Host.Outcome.next res → (res).Safe lf lg cq := by
  intro res hv
  simp only [execResetRelease, Host.Outcome.next.injEq] at hv
  subst hv
  repeat' (first
    | with_reducible assumption
    | with_reducible apply State.resetOff_safe
    | with_reducible apply foldl_snd2_safe
    | with_reducible refine pair3_safe (by with_reducible assumption) ?_
    | with_reducible refine pair_safe (by with_reducible assumption) ?_
    | with_reducible apply foldl_safe
    | with_reducible apply foldl_snd_safe
    | intro _
    | split
    | dsimp only
    | refine State.Safe.lit ?_ rfl rfl rfl rfl)

theorem execResetRelease_safe' {s : State} {res} (eqn : (execResetRelease s) = Host.Outcome.next res) (hS : s.Safe lf lg cq)  :
    (res).Safe lf lg cq := execResetRelease_safe s hS res eqn

theorem execIdle_safe (path : Path) (s : State) (hS : s.Safe lf lg cq) :
    ∀ res, (execIdle path s) = Host.Outcome.next res → (res).Safe lf lg cq := by
  intro res hv
  simp only [execIdle, Host.Outcome.next.injEq] at hv
  subst hv
  repeat' (first
    | with_reducible assumption
    | with_reducible apply State.asked_safe
    | with_reducible apply State.goIdle_safe
    | with_reducible apply foldl_snd2_safe
    | with_reducible refine pair3_safe (by with_reducible assumption) ?_
    | with_reducible refine pair_safe (by with_reducible assumption) ?_
    | with_reducible apply foldl_safe
    | with_reducible apply foldl_snd_safe
    | intro _
    | split
    | dsimp only
    | refine State.Safe.lit ?_ rfl rfl rfl rfl)

theorem execIdle_safe' {path : Path} {s : State} {res} (eqn : (execIdle path s) = Host.Outcome.next res) (hS : s.Safe lf lg cq)  :
    (res).Safe lf lg cq := execIdle_safe path s hS res eqn

theorem execPowerRestore_safe (s : State) (hS : s.Safe lf lg cq) :
    ∀ res, (execPowerRestore s) = Host.Outcome.next res → (res).Safe lf lg cq := by
  intro res hv
  simp only [execPowerRestore, Host.Outcome.next.injEq] at hv
  subst hv
  repeat' (first
    | with_reducible assumption
    | with_reducible apply State.powerBack_safe
    | with_reducible apply foldl_snd2_safe
    | with_reducible refine pair3_safe (by with_reducible assumption) ?_
    | with_reducible refine pair_safe (by with_reducible assumption) ?_
    | with_reducible apply foldl_safe
    | with_reducible apply foldl_snd_safe
    | intro _
    | split
    | dsimp only
    | refine State.Safe.lit ?_ rfl rfl rfl rfl)

theorem execPowerRestore_safe' {s : State} {res} (eqn : (execPowerRestore s) = Host.Outcome.next res) (hS : s.Safe lf lg cq)  :
    (res).Safe lf lg cq := execPowerRestore_safe s hS res eqn

theorem execHoldupExhausted_safe (s : State) (hS : s.Safe lf lg cq) :
    ∀ res, (execHoldupExhausted s) = Host.Outcome.next res → (res).Safe lf lg cq := by
  intro res hv
  simp only [execHoldupExhausted, Host.Outcome.next.injEq] at hv
  subst hv
  repeat' (first
    | with_reducible assumption
    | with_reducible apply State.holdupOut_safe
    | with_reducible apply foldl_snd2_safe
    | with_reducible refine pair3_safe (by with_reducible assumption) ?_
    | with_reducible refine pair_safe (by with_reducible assumption) ?_
    | with_reducible apply foldl_safe
    | with_reducible apply foldl_snd_safe
    | intro _
    | split
    | dsimp only
    | refine State.Safe.lit ?_ rfl rfl rfl rfl)

theorem execHoldupExhausted_safe' {s : State} {res} (eqn : (execHoldupExhausted s) = Host.Outcome.next res) (hS : s.Safe lf lg cq)  :
    (res).Safe lf lg cq := execHoldupExhausted_safe s hS res eqn

theorem execBootCommit_safe (path : Path) (s : State) (hS : s.Safe lf lg cq) :
    ∀ res, (execBootCommit path s) = Host.Outcome.next res → (res).Safe lf lg cq := by
  intro res hv
  simp only [execBootCommit, Host.Outcome.next.injEq] at hv
  subst hv
  repeat' (first
    | with_reducible assumption
    | with_reducible apply State.asked_safe
    | with_reducible apply State.commit_safe
    | with_reducible apply foldl_snd2_safe
    | with_reducible refine pair3_safe (by with_reducible assumption) ?_
    | with_reducible refine pair_safe (by with_reducible assumption) ?_
    | with_reducible apply foldl_safe
    | with_reducible apply foldl_snd_safe
    | intro _
    | split
    | dsimp only
    | refine State.Safe.lit ?_ rfl rfl rfl rfl)

theorem execBootCommit_safe' {path : Path} {s : State} {res} (eqn : (execBootCommit path s) = Host.Outcome.next res) (hS : s.Safe lf lg cq)  :
    (res).Safe lf lg cq := execBootCommit_safe path s hS res eqn

theorem execBootContainerVerify_safe (cfg : Bool) (bankB : Bool) (s : State) (hS : s.Safe lf lg cq) :
    ∀ res, (execBootContainerVerify cfg bankB s) = Host.Outcome.next res → (res).Safe lf lg cq := by
  intro res hv
  simp only [execBootContainerVerify, Host.Outcome.next.injEq] at hv
  subst hv
  repeat' (first
    | with_reducible assumption
    | with_reducible apply State.bootVerify_safe
    | with_reducible apply foldl_snd2_safe
    | with_reducible refine pair3_safe (by with_reducible assumption) ?_
    | with_reducible refine pair_safe (by with_reducible assumption) ?_
    | with_reducible apply foldl_safe
    | with_reducible apply foldl_snd_safe
    | intro _
    | split
    | dsimp only
    | refine State.Safe.lit ?_ rfl rfl rfl rfl)

theorem execBootContainerVerify_safe' {cfg : Bool} {bankB : Bool} {s : State} {res} (eqn : (execBootContainerVerify cfg bankB s) = Host.Outcome.next res) (hS : s.Safe lf lg cq)  :
    (res).Safe lf lg cq := execBootContainerVerify_safe cfg bankB s hS res eqn

theorem execWakeCalibration_safe (ms : List (Nat × CalCodes)) (s : State) (hS : s.Safe lf lg cq) :
    ∀ res, (execWakeCalibration ms s) = Host.Outcome.next res → (res).Safe lf lg cq := by
  intro res hv
  simp only [execWakeCalibration, Host.Outcome.next.injEq] at hv
  subst hv
  repeat' (first
    | with_reducible assumption
    | with_reducible apply State.wakeCal_safe
    | with_reducible apply foldl_snd2_safe
    | with_reducible refine pair3_safe (by with_reducible assumption) ?_
    | with_reducible refine pair_safe (by with_reducible assumption) ?_
    | with_reducible apply foldl_safe
    | with_reducible apply foldl_snd_safe
    | intro _
    | split
    | dsimp only
    | refine State.Safe.lit ?_ rfl rfl rfl rfl)

theorem execWakeCalibration_safe' {ms : List (Nat × CalCodes)} {s : State} {res} (eqn : (execWakeCalibration ms s) = Host.Outcome.next res) (hS : s.Safe lf lg cq)  :
    (res).Safe lf lg cq := execWakeCalibration_safe ms s hS res eqn

theorem execStartupMarginCheck_safe (c : CoreId) (sl : SlotId) (weak : Nat) (s : State) (hS : s.Safe lf lg cq) :
    ∀ res, (execStartupMarginCheck c sl weak s) = Host.Outcome.next res → (res).Safe lf lg cq := by
  intro res hv
  simp only [execStartupMarginCheck, Host.Outcome.next.injEq] at hv
  subst hv
  repeat' (first
    | with_reducible assumption
    | with_reducible apply State.marginCheck_safe
    | with_reducible apply foldl_snd2_safe
    | with_reducible refine pair3_safe (by with_reducible assumption) ?_
    | with_reducible refine pair_safe (by with_reducible assumption) ?_
    | with_reducible apply foldl_safe
    | with_reducible apply foldl_snd_safe
    | intro _
    | split
    | dsimp only
    | refine State.Safe.lit ?_ rfl rfl rfl rfl)

theorem execStartupMarginCheck_safe' {c : CoreId} {sl : SlotId} {weak : Nat} {s : State} {res} (eqn : (execStartupMarginCheck c sl weak s) = Host.Outcome.next res) (hS : s.Safe lf lg cq)  :
    (res).Safe lf lg cq := execStartupMarginCheck_safe c sl weak s hS res eqn

theorem execThrottleLevelTick_safe (power : Bool) (s : State) (hS : s.Safe lf lg cq) :
    ∀ res, (execThrottleLevelTick power s) = Host.Outcome.next res → (res).Safe lf lg cq := by
  intro res hv
  simp only [execThrottleLevelTick, Host.Outcome.next.injEq] at hv
  subst hv
  repeat' (first
    | with_reducible assumption
    | with_reducible apply State.powerTick_safe
    | with_reducible apply State.thermalTick_safe
    | with_reducible apply foldl_snd2_safe
    | with_reducible refine pair3_safe (by with_reducible assumption) ?_
    | with_reducible refine pair_safe (by with_reducible assumption) ?_
    | with_reducible apply foldl_safe
    | with_reducible apply foldl_snd_safe
    | intro _
    | split
    | dsimp only
    | refine State.Safe.lit ?_ rfl rfl rfl rfl)

theorem execThrottleLevelTick_safe' {power : Bool} {s : State} {res} (eqn : (execThrottleLevelTick power s) = Host.Outcome.next res) (hS : s.Safe lf lg cq)  :
    (res).Safe lf lg cq := execThrottleLevelTick_safe power s hS res eqn

theorem execPowerFail_safe (s : State) (hS : s.Safe lf lg cq) :
    ∀ res, (execPowerFail s) = Host.Outcome.next res → (res).Safe lf lg cq := by
  intro res hv
  simp only [execPowerFail, Host.Outcome.next.injEq] at hv
  subst hv
  repeat' (first
    | with_reducible assumption
    | with_reducible apply State.pinPowerFail_safe
    | with_reducible apply foldl_snd2_safe
    | with_reducible refine pair3_safe (by with_reducible assumption) ?_
    | with_reducible refine pair_safe (by with_reducible assumption) ?_
    | with_reducible apply foldl_safe
    | with_reducible apply foldl_snd_safe
    | intro _
    | split
    | dsimp only
    | refine State.Safe.lit ?_ rfl rfl rfl rfl)

theorem execPowerFail_safe' {s : State} {res} (eqn : (execPowerFail s) = Host.Outcome.next res) (hS : s.Safe lf lg cq)  :
    (res).Safe lf lg cq := execPowerFail_safe s hS res eqn

theorem execDeviceReady_safe (s : State) (hS : s.Safe lf lg cq) :
    ∀ res, (execDeviceReady s) = Host.Outcome.next res → (res).Safe lf lg cq := by
  intro res hv
  simp only [execDeviceReady, Host.Outcome.next.injEq] at hv
  subst hv
  repeat' (first
    | with_reducible assumption
    | with_reducible apply State.nowReady_safe
    | with_reducible apply foldl_snd2_safe
    | with_reducible refine pair3_safe (by with_reducible assumption) ?_
    | with_reducible refine pair_safe (by with_reducible assumption) ?_
    | with_reducible apply foldl_safe
    | with_reducible apply foldl_snd_safe
    | intro _
    | split
    | dsimp only
    | refine State.Safe.lit ?_ rfl rfl rfl rfl)

theorem execDeviceReady_safe' {s : State} {res} (eqn : (execDeviceReady s) = Host.Outcome.next res) (hS : s.Safe lf lg cq)  :
    (res).Safe lf lg cq := execDeviceReady_safe s hS res eqn

end Sys2Proof.Machine
end

