-- ==== Sys2Proof/Laws/Safe/Queues.lean ====
section
/-! SUPPORT. One lemma for each operation of `Machine/Queues.lean` that answers a state: it keeps `State.Safe` (the primed form says
the same of an answer that is known by an equation). -/

namespace Sys2Proof.Machine
open Sys2Proof
variable {lf lg : Nat} {cq : List Instr}

theorem execAdpWriteAck_safe (peer : PeerId) (s : State) (hS : s.Safe lf lg cq) :
    ∀ res, (execAdpWriteAck peer s) = Host.Outcome.next res → (res).Safe lf lg cq := by
  intro res hv
  simp only [execAdpWriteAck, Host.Outcome.next.injEq] at hv
  subst hv
  repeat' (first
    | with_reducible assumption
    | with_reducible apply State.adpAck_safe
    | with_reducible apply State.adpSettle_safe
    | with_reducible apply foldl_snd2_safe
    | with_reducible refine pair3_safe (by with_reducible assumption) ?_
    | with_reducible refine pair_safe (by with_reducible assumption) ?_
    | with_reducible apply foldl_safe
    | with_reducible apply foldl_snd_safe
    | intro _
    | split
    | dsimp only
    | refine State.Safe.lit ?_ rfl rfl rfl rfl)

theorem execAdpWriteAck_safe' {peer : PeerId} {s : State} {res} (eqn : (execAdpWriteAck peer s) = Host.Outcome.next res) (hS : s.Safe lf lg cq)  :
    (res).Safe lf lg cq := execAdpWriteAck_safe peer s hS res eqn

theorem execRetire_safe (path : Path) (ctx : CtxId) (reason : Fin 4) (s : State) (hS : s.Safe lf lg cq) :
    ∀ res, (execRetire path ctx reason s) = Host.Outcome.next res → (res).Safe lf lg cq := by
  intro res hv
  simp only [execRetire, Host.Outcome.next.injEq] at hv
  subst hv
  repeat' (first
    | with_reducible assumption
    | with_reducible apply State.retire_safe
    | with_reducible apply State.asked_safe
    | with_reducible apply State.stmWhenUp_safe
    | with_reducible apply foldl_snd2_safe
    | with_reducible refine pair3_safe (by with_reducible assumption) ?_
    | with_reducible refine pair_safe (by with_reducible assumption) ?_
    | with_reducible apply foldl_safe
    | with_reducible apply foldl_snd_safe
    | intro _
    | split
    | dsimp only
    | refine State.Safe.lit ?_ rfl rfl rfl rfl)

theorem execRetire_safe' {path : Path} {ctx : CtxId} {reason : Fin 4} {s : State} {res} (eqn : (execRetire path ctx reason s) = Host.Outcome.next res) (hS : s.Safe lf lg cq)  :
    (res).Safe lf lg cq := execRetire_safe path ctx reason s hS res eqn

theorem execQueDbCqHeadWrite_safe (path : Path) (q : QId) (v : Word) (s : State) (hS : s.Safe lf lg cq) :
    ∀ res, (execQueDbCqHeadWrite path q v s) = Host.Outcome.next res → (res).Safe lf lg cq := by
  intro res hv
  simp only [execQueDbCqHeadWrite, Host.Outcome.next.injEq] at hv
  subst hv
  repeat' (first
    | with_reducible assumption
    | with_reducible apply State.asked_safe
    | with_reducible apply State.cqHeadWrite_safe
    | with_reducible apply foldl_snd2_safe
    | with_reducible refine pair3_safe (by with_reducible assumption) ?_
    | with_reducible refine pair_safe (by with_reducible assumption) ?_
    | with_reducible apply foldl_safe
    | with_reducible apply foldl_snd_safe
    | intro _
    | split
    | dsimp only
    | refine State.Safe.lit ?_ rfl rfl rfl rfl)

theorem execQueDbCqHeadWrite_safe' {path : Path} {q : QId} {v : Word} {s : State} {res} (eqn : (execQueDbCqHeadWrite path q v s) = Host.Outcome.next res) (hS : s.Safe lf lg cq)  :
    (res).Safe lf lg cq := execQueDbCqHeadWrite_safe path q v s hS res eqn

theorem execCreate_safe (path : Path) (q : QId) (s : State) (hS : s.Safe lf lg cq) :
    ∀ res, (execCreate path q s) = Host.Outcome.next res → (res).Safe lf lg cq := by
  intro res hv
  simp only [execCreate, Host.Outcome.next.injEq] at hv
  subst hv
  repeat' (first
    | with_reducible assumption
    | with_reducible apply State.asked_safe
    | with_reducible apply State.queCreate_safe
    | with_reducible apply State.queWhenUp_safe
    | with_reducible apply foldl_snd2_safe
    | with_reducible refine pair3_safe (by with_reducible assumption) ?_
    | with_reducible refine pair_safe (by with_reducible assumption) ?_
    | with_reducible apply foldl_safe
    | with_reducible apply foldl_snd_safe
    | intro _
    | split
    | dsimp only
    | refine State.Safe.lit ?_ rfl rfl rfl rfl)

theorem execCreate_safe' {path : Path} {q : QId} {s : State} {res} (eqn : (execCreate path q s) = Host.Outcome.next res) (hS : s.Safe lf lg cq)  :
    (res).Safe lf lg cq := execCreate_safe path q s hS res eqn

theorem execStreamRelease_safe (path : Path) (ctx : CtxId) (s : State) (hS : s.Safe lf lg cq) :
    ∀ res, (execStreamRelease path ctx s) = Host.Outcome.next res → (res).Safe lf lg cq := by
  intro res hv
  simp only [execStreamRelease, Host.Outcome.next.injEq] at hv
  subst hv
  repeat' (first
    | with_reducible assumption
    | with_reducible apply State.asked_safe
    | with_reducible apply State.stmWhenUp_safe
    | with_reducible apply State.releaseCtx_safe
    | with_reducible apply foldl_snd2_safe
    | with_reducible refine pair3_safe (by with_reducible assumption) ?_
    | with_reducible refine pair_safe (by with_reducible assumption) ?_
    | with_reducible apply foldl_safe
    | with_reducible apply foldl_snd_safe
    | intro _
    | split
    | dsimp only
    | refine State.Safe.lit ?_ rfl rfl rfl rfl)

theorem execStreamRelease_safe' {path : Path} {ctx : CtxId} {s : State} {res} (eqn : (execStreamRelease path ctx s) = Host.Outcome.next res) (hS : s.Safe lf lg cq)  :
    (res).Safe lf lg cq := execStreamRelease_safe path ctx s hS res eqn

theorem execSubmissionRead_safe (s : State) (hS : s.Safe lf lg cq) :
    ∀ res, (execSubmissionRead s) = Host.Outcome.next res → (res).Safe lf lg cq := by
  intro res hv
  simp only [execSubmissionRead, Host.Outcome.next.injEq] at hv
  subst hv
  repeat' (first
    | with_reducible assumption
    | with_reducible apply State.submissionRead_safe
    | with_reducible apply foldl_snd2_safe
    | with_reducible refine pair3_safe (by with_reducible assumption) ?_
    | with_reducible refine pair_safe (by with_reducible assumption) ?_
    | with_reducible apply foldl_safe
    | with_reducible apply foldl_snd_safe
    | intro _
    | split
    | dsimp only
    | refine State.Safe.lit ?_ rfl rfl rfl rfl)

theorem execSubmissionRead_safe' {s : State} {res} (eqn : (execSubmissionRead s) = Host.Outcome.next res) (hS : s.Safe lf lg cq)  :
    (res).Safe lf lg cq := execSubmissionRead_safe s hS res eqn

theorem execQueueReset_safe (path : Path) (q : QId) (s : State) (hS : s.Safe lf lg cq) :
    ∀ res, (execQueueReset path q s) = Host.Outcome.next res → (res).Safe lf lg cq := by
  intro res hv
  simp only [execQueueReset, Host.Outcome.next.injEq] at hv
  subst hv
  repeat' (first
    | with_reducible assumption
    | with_reducible apply State.queDrain_safe
    | with_reducible apply State.asked_safe
    | with_reducible apply State.queWhenUp_safe
    | with_reducible apply foldl_snd2_safe
    | with_reducible refine pair3_safe (by with_reducible assumption) ?_
    | with_reducible refine pair_safe (by with_reducible assumption) ?_
    | with_reducible apply foldl_safe
    | with_reducible apply foldl_snd_safe
    | intro _
    | split
    | dsimp only
    | refine State.Safe.lit ?_ rfl rfl rfl rfl)

theorem execQueueReset_safe' {path : Path} {q : QId} {s : State} {res} (eqn : (execQueueReset path q s) = Host.Outcome.next res) (hS : s.Safe lf lg cq)  :
    (res).Safe lf lg cq := execQueueReset_safe path q s hS res eqn

theorem execQueDbSqTailWrite_safe (path : Path) (q : QId) (v : Word) (s : State) (hS : s.Safe lf lg cq) :
    ∀ res, (execQueDbSqTailWrite path q v s) = Host.Outcome.next res → (res).Safe lf lg cq := by
  intro res hv
  simp only [execQueDbSqTailWrite, Host.Outcome.next.injEq] at hv
  subst hv
  repeat' (first
    | with_reducible assumption
    | with_reducible apply State.asked_safe
    | with_reducible apply State.sqTailWrite_safe
    | with_reducible apply foldl_snd2_safe
    | with_reducible refine pair3_safe (by with_reducible assumption) ?_
    | with_reducible refine pair_safe (by with_reducible assumption) ?_
    | with_reducible apply foldl_safe
    | with_reducible apply foldl_snd_safe
    | intro _
    | split
    | dsimp only
    | refine State.Safe.lit ?_ rfl rfl rfl rfl)

theorem execQueDbSqTailWrite_safe' {path : Path} {q : QId} {v : Word} {s : State} {res} (eqn : (execQueDbSqTailWrite path q v s) = Host.Outcome.next res) (hS : s.Safe lf lg cq)  :
    (res).Safe lf lg cq := execQueDbSqTailWrite_safe path q v s hS res eqn

theorem execAdpUseDecay_safe (s : State) (hS : s.Safe lf lg cq) :
    ∀ res, (execAdpUseDecay s) = Host.Outcome.next res → (res).Safe lf lg cq := by
  intro res hv
  simp only [execAdpUseDecay, Host.Outcome.next.injEq] at hv
  subst hv
  repeat' (first
    | with_reducible assumption
    | with_reducible apply State.adpDecay_safe
    | with_reducible apply foldl_snd2_safe
    | with_reducible refine pair3_safe (by with_reducible assumption) ?_
    | with_reducible refine pair_safe (by with_reducible assumption) ?_
    | with_reducible apply foldl_safe
    | with_reducible apply foldl_snd_safe
    | intro _
    | split
    | dsimp only
    | refine State.Safe.lit ?_ rfl rfl rfl rfl)

theorem execAdpUseDecay_safe' {s : State} {res} (eqn : (execAdpUseDecay s) = Host.Outcome.next res) (hS : s.Safe lf lg cq)  :
    (res).Safe lf lg cq := execAdpUseDecay_safe s hS res eqn

theorem execBindCtx_safe (path : Path) (s : State) (hS : s.Safe lf lg cq) :
    ∀ res, (execBindCtx path s) = Host.Outcome.next res → (res).Safe lf lg cq := by
  intro res hv
  simp only [execBindCtx, Host.Outcome.next.injEq] at hv
  subst hv
  repeat' (first
    | with_reducible assumption
    | with_reducible apply State.asked_safe
    | with_reducible apply State.bind__safe
    | with_reducible apply State.stmWhenUp_safe
    | with_reducible apply foldl_snd2_safe
    | with_reducible refine pair3_safe (by with_reducible assumption) ?_
    | with_reducible refine pair_safe (by with_reducible assumption) ?_
    | with_reducible apply foldl_safe
    | with_reducible apply foldl_snd_safe
    | intro _
    | split
    | dsimp only
    | refine State.Safe.lit ?_ rfl rfl rfl rfl)

theorem execBindCtx_safe' {path : Path} {s : State} {res} (eqn : (execBindCtx path s) = Host.Outcome.next res) (hS : s.Safe lf lg cq)  :
    (res).Safe lf lg cq := execBindCtx_safe path s hS res eqn

theorem execRollback_safe (path : Path) (ctx : CtxId) (s : State) (hS : s.Safe lf lg cq) :
    ∀ res, (execRollback path ctx s) = Host.Outcome.next res → (res).Safe lf lg cq := by
  intro res hv
  simp only [execRollback, Host.Outcome.next.injEq] at hv
  subst hv
  repeat' (first
    | with_reducible assumption
    | with_reducible apply State.asked_safe
    | with_reducible apply State.rollbackCmd_safe
    | with_reducible apply foldl_snd2_safe
    | with_reducible refine pair3_safe (by with_reducible assumption) ?_
    | with_reducible refine pair_safe (by with_reducible assumption) ?_
    | with_reducible apply foldl_safe
    | with_reducible apply foldl_snd_safe
    | intro _
    | split
    | dsimp only
    | refine State.Safe.lit ?_ rfl rfl rfl rfl)

theorem execRollback_safe' {path : Path} {ctx : CtxId} {s : State} {res} (eqn : (execRollback path ctx s) = Host.Outcome.next res) (hS : s.Safe lf lg cq)  :
    (res).Safe lf lg cq := execRollback_safe path ctx s hS res eqn

theorem execQueueDrainDone_safe (q : QId) (s : State) (hS : s.Safe lf lg cq) :
    ∀ res, (execQueueDrainDone q s) = Host.Outcome.next res → (res).Safe lf lg cq := by
  intro res hv
  simp only [execQueueDrainDone, Host.Outcome.next.injEq] at hv
  subst hv
  repeat' (first
    | with_reducible assumption
    | with_reducible apply State.queDrained_safe
    | with_reducible apply foldl_snd2_safe
    | with_reducible refine pair3_safe (by with_reducible assumption) ?_
    | with_reducible refine pair_safe (by with_reducible assumption) ?_
    | with_reducible apply foldl_safe
    | with_reducible apply foldl_snd_safe
    | intro _
    | split
    | dsimp only
    | refine State.Safe.lit ?_ rfl rfl rfl rfl)

theorem execQueueDrainDone_safe' {q : QId} {s : State} {res} (eqn : (execQueueDrainDone q s) = Host.Outcome.next res) (hS : s.Safe lf lg cq)  :
    (res).Safe lf lg cq := execQueueDrainDone_safe q s hS res eqn

theorem execLookup_safe (path : Path) (s : State) (hS : s.Safe lf lg cq) :
    ∀ res, (execLookup path s) = Host.Outcome.next res → (res).Safe lf lg cq := by
  intro res hv
  simp only [execLookup, Host.Outcome.next.injEq] at hv
  subst hv
  repeat' (first
    | with_reducible assumption
    | with_reducible apply State.asked_safe
    | with_reducible apply State.stmWhenUp_safe
    | with_reducible apply State.lookup_safe
    | with_reducible apply foldl_snd2_safe
    | with_reducible refine pair3_safe (by with_reducible assumption) ?_
    | with_reducible refine pair_safe (by with_reducible assumption) ?_
    | with_reducible apply foldl_safe
    | with_reducible apply foldl_snd_safe
    | intro _
    | split
    | dsimp only
    | refine State.Safe.lit ?_ rfl rfl rfl rfl)

theorem execLookup_safe' {path : Path} {s : State} {res} (eqn : (execLookup path s) = Host.Outcome.next res) (hS : s.Safe lf lg cq)  :
    (res).Safe lf lg cq := execLookup_safe path s hS res eqn

theorem execQueueStallResume_safe (q : QId) (s : State) (hS : s.Safe lf lg cq) :
    ∀ res, (execQueueStallResume q s) = Host.Outcome.next res → (res).Safe lf lg cq := by
  intro res hv
  simp only [execQueueStallResume, Host.Outcome.next.injEq] at hv
  subst hv
  repeat' (first
    | with_reducible assumption
    | with_reducible apply State.queResume_safe
    | with_reducible apply foldl_snd2_safe
    | with_reducible refine pair3_safe (by with_reducible assumption) ?_
    | with_reducible refine pair_safe (by with_reducible assumption) ?_
    | with_reducible apply foldl_safe
    | with_reducible apply foldl_snd_safe
    | intro _
    | split
    | dsimp only
    | refine State.Safe.lit ?_ rfl rfl rfl rfl)

theorem execQueueStallResume_safe' {q : QId} {s : State} {res} (eqn : (execQueueStallResume q s) = Host.Outcome.next res) (hS : s.Safe lf lg cq)  :
    (res).Safe lf lg cq := execQueueStallResume_safe q s hS res eqn

theorem execStreamRetireComplete_safe (ctx : CtxId) (s : State) (hS : s.Safe lf lg cq) :
    ∀ res, (execStreamRetireComplete ctx s) = Host.Outcome.next res → (res).Safe lf lg cq := by
  intro res hv
  simp only [execStreamRetireComplete, Host.Outcome.next.injEq] at hv
  subst hv
  repeat' (first
    | with_reducible assumption
    | with_reducible apply State.retired_safe
    | with_reducible apply foldl_snd2_safe
    | with_reducible refine pair3_safe (by with_reducible assumption) ?_
    | with_reducible refine pair_safe (by with_reducible assumption) ?_
    | with_reducible apply foldl_safe
    | with_reducible apply foldl_snd_safe
    | intro _
    | split
    | dsimp only
    | refine State.Safe.lit ?_ rfl rfl rfl rfl)

theorem execStreamRetireComplete_safe' {ctx : CtxId} {s : State} {res} (eqn : (execStreamRetireComplete ctx s) = Host.Outcome.next res) (hS : s.Safe lf lg cq)  :
    (res).Safe lf lg cq := execStreamRetireComplete_safe ctx s hS res eqn

theorem execDestroy_safe (path : Path) (q : QId) (s : State) (hS : s.Safe lf lg cq) :
    ∀ res, (execDestroy path q s) = Host.Outcome.next res → (res).Safe lf lg cq := by
  intro res hv
  simp only [execDestroy, Host.Outcome.next.injEq] at hv
  subst hv
  repeat' (first
    | with_reducible assumption
    | with_reducible apply State.queDrain_safe
    | with_reducible apply State.asked_safe
    | with_reducible apply State.queWhenUp_safe
    | with_reducible apply foldl_snd2_safe
    | with_reducible refine pair3_safe (by with_reducible assumption) ?_
    | with_reducible refine pair_safe (by with_reducible assumption) ?_
    | with_reducible apply foldl_safe
    | with_reducible apply foldl_snd_safe
    | intro _
    | split
    | dsimp only
    | refine State.Safe.lit ?_ rfl rfl rfl rfl)

theorem execDestroy_safe' {path : Path} {q : QId} {s : State} {res} (eqn : (execDestroy path q s) = Host.Outcome.next res) (hS : s.Safe lf lg cq)  :
    (res).Safe lf lg cq := execDestroy_safe path q s hS res eqn

end Sys2Proof.Machine
end

