-- ==== Sys2Proof/Laws/Safe/Records.lean ====
section
/-! SUPPORT. One lemma for each operation of `Machine/Records.lean` that answers a state: it keeps `State.Safe` (the primed form says
the same of an answer that is known by an equation). -/

namespace Sys2Proof.Machine
open Sys2Proof
variable {lf lg : Nat} {cq : List Instr}

theorem execSetReadPw_safe (path : Path) (s : State) (hS : s.Safe lf lg cq) :
    ∀ res, (execSetReadPw path s) = Host.Outcome.next res → (res).Safe lf lg cq := by
  intro res hv
  simp only [execSetReadPw, Host.Outcome.next.injEq] at hv
  subst hv
  repeat' (first
    | with_reducible assumption
    | with_reducible apply State.setPw_safe
    | with_reducible apply State.asked_safe
    | with_reducible apply foldl_snd2_safe
    | with_reducible refine pair3_safe (by with_reducible assumption) ?_
    | with_reducible refine pair_safe (by with_reducible assumption) ?_
    | with_reducible apply foldl_safe
    | with_reducible apply foldl_snd_safe
    | intro _
    | split
    | dsimp only
    | refine State.Safe.lit ?_ rfl rfl rfl rfl)

theorem execSetReadPw_safe' {path : Path} {s : State} {res} (eqn : (execSetReadPw path s) = Host.Outcome.next res) (hS : s.Safe lf lg cq)  :
    (res).Safe lf lg cq := execSetReadPw_safe path s hS res eqn

theorem execRecAutoStore_safe (s : State) (hS : s.Safe lf lg cq) :
    ∀ res, (execRecAutoStore s) = Host.Outcome.next res → (res).Safe lf lg cq := by
  intro res hv
  simp only [execRecAutoStore, Host.Outcome.next.injEq] at hv
  subst hv
  repeat' (first
    | with_reducible assumption
    | with_reducible apply State.storeBegin_safe
    | with_reducible apply foldl_snd2_safe
    | with_reducible refine pair3_safe (by with_reducible assumption) ?_
    | with_reducible refine pair_safe (by with_reducible assumption) ?_
    | with_reducible apply foldl_safe
    | with_reducible apply foldl_snd_safe
    | intro _
    | split
    | dsimp only
    | refine State.Safe.lit ?_ rfl rfl rfl rfl)

theorem execRecAutoStore_safe' {s : State} {res} (eqn : (execRecAutoStore s) = Host.Outcome.next res) (hS : s.Safe lf lg cq)  :
    (res).Safe lf lg cq := execRecAutoStore_safe s hS res eqn

theorem execRecMarginRead_safe (weak : List Nat) (s : State) (hS : s.Safe lf lg cq) :
    ∀ res, (execRecMarginRead weak s) = Host.Outcome.next res → (res).Safe lf lg cq := by
  intro res hv
  simp only [execRecMarginRead, Host.Outcome.next.injEq] at hv
  subst hv
  repeat' (first
    | with_reducible assumption
    | with_reducible apply State.recMargin_safe
    | with_reducible apply foldl_snd2_safe
    | with_reducible refine pair3_safe (by with_reducible assumption) ?_
    | with_reducible refine pair_safe (by with_reducible assumption) ?_
    | with_reducible apply foldl_safe
    | with_reducible apply foldl_snd_safe
    | intro _
    | split
    | dsimp only
    | refine State.Safe.lit ?_ rfl rfl rfl rfl)

theorem execRecMarginRead_safe' {weak : List Nat} {s : State} {res} (eqn : (execRecMarginRead weak s) = Host.Outcome.next res) (hS : s.Safe lf lg cq)  :
    (res).Safe lf lg cq := execRecMarginRead_safe weak s hS res eqn

theorem execStore_safe (path : Path) (s : State) (hS : s.Safe lf lg cq) :
    ∀ res, (execStore path s) = Host.Outcome.next res → (res).Safe lf lg cq := by
  intro res hv
  simp only [execStore, Host.Outcome.next.injEq] at hv
  subst hv
  repeat' (first
    | with_reducible assumption
    | with_reducible apply State.asked_safe
    | with_reducible apply State.storeCmd_safe
    | with_reducible apply foldl_snd2_safe
    | with_reducible refine pair3_safe (by with_reducible assumption) ?_
    | with_reducible refine pair_safe (by with_reducible assumption) ?_
    | with_reducible apply foldl_safe
    | with_reducible apply foldl_snd_safe
    | intro _
    | split
    | dsimp only
    | refine State.Safe.lit ?_ rfl rfl rfl rfl)

theorem execStore_safe' {path : Path} {s : State} {res} (eqn : (execStore path s) = Host.Outcome.next res) (hS : s.Safe lf lg cq)  :
    (res).Safe lf lg cq := execStore_safe path s hS res eqn

theorem execRecDataAccess_safe (path : Path) (w : Option Word) (s : State) (hS : s.Safe lf lg cq) :
    ∀ res, (execRecDataAccess path w s) = Host.Outcome.next res → (res).Safe lf lg cq := by
  intro res hv
  simp only [execRecDataAccess, Host.Outcome.next.injEq] at hv
  subst hv
  repeat' (first
    | with_reducible assumption
    | with_reducible apply State.recWrite_safe
    | with_reducible apply State.reply_safe
    | with_reducible apply State.asked_safe
    | with_reducible apply State.recRead_safe
    | with_reducible refine State.recRead_safe' (by with_reducible assumption) ?_
    | with_reducible apply foldl_snd2_safe
    | with_reducible refine pair3_safe (by with_reducible assumption) ?_
    | with_reducible refine pair_safe (by with_reducible assumption) ?_
    | with_reducible apply foldl_safe
    | with_reducible apply foldl_snd_safe
    | intro _
    | split
    | dsimp only
    | refine State.Safe.lit ?_ rfl rfl rfl rfl)

theorem execRecDataAccess_safe' {path : Path} {w : Option Word} {s : State} {res} (eqn : (execRecDataAccess path w s) = Host.Outcome.next res) (hS : s.Safe lf lg cq)  :
    (res).Safe lf lg cq := execRecDataAccess_safe path w s hS res eqn

theorem execUnlockWrite_safe (path : Path) (s : State) (hS : s.Safe lf lg cq) :
    ∀ res, (execUnlockWrite path s) = Host.Outcome.next res → (res).Safe lf lg cq := by
  intro res hv
  simp only [execUnlockWrite, Host.Outcome.next.injEq] at hv
  subst hv
  repeat' (first
    | with_reducible assumption
    | with_reducible apply State.asked_safe
    | with_reducible apply State.unlock_safe
    | with_reducible apply foldl_snd2_safe
    | with_reducible refine pair3_safe (by with_reducible assumption) ?_
    | with_reducible refine pair_safe (by with_reducible assumption) ?_
    | with_reducible apply foldl_safe
    | with_reducible apply foldl_snd_safe
    | intro _
    | split
    | dsimp only
    | refine State.Safe.lit ?_ rfl rfl rfl rfl)

theorem execUnlockWrite_safe' {path : Path} {s : State} {res} (eqn : (execUnlockWrite path s) = Host.Outcome.next res) (hS : s.Safe lf lg cq)  :
    (res).Safe lf lg cq := execUnlockWrite_safe path s hS res eqn

theorem execRecStoreDone_safe (bad : List Nat) (s : State) (hS : s.Safe lf lg cq) :
    ∀ res, (execRecStoreDone bad s) = Host.Outcome.next res → (res).Safe lf lg cq := by
  intro res hv
  simp only [execRecStoreDone, Host.Outcome.next.injEq] at hv
  subst hv
  repeat' (first
    | with_reducible assumption
    | with_reducible apply State.storeEnd_safe
    | with_reducible apply foldl_snd2_safe
    | with_reducible refine pair3_safe (by with_reducible assumption) ?_
    | with_reducible refine pair_safe (by with_reducible assumption) ?_
    | with_reducible apply foldl_safe
    | with_reducible apply foldl_snd_safe
    | intro _
    | split
    | dsimp only
    | refine State.Safe.lit ?_ rfl rfl rfl rfl)

theorem execRecStoreDone_safe' {bad : List Nat} {s : State} {res} (eqn : (execRecStoreDone bad s) = Host.Outcome.next res) (hS : s.Safe lf lg cq)  :
    (res).Safe lf lg cq := execRecStoreDone_safe bad s hS res eqn

theorem execSetWritePw_safe (path : Path) (s : State) (hS : s.Safe lf lg cq) :
    ∀ res, (execSetWritePw path s) = Host.Outcome.next res → (res).Safe lf lg cq := by
  intro res hv
  simp only [execSetWritePw, Host.Outcome.next.injEq] at hv
  subst hv
  repeat' (first
    | with_reducible assumption
    | with_reducible apply State.setPw_safe
    | with_reducible apply State.asked_safe
    | with_reducible apply foldl_snd2_safe
    | with_reducible refine pair3_safe (by with_reducible assumption) ?_
    | with_reducible refine pair_safe (by with_reducible assumption) ?_
    | with_reducible apply foldl_safe
    | with_reducible apply foldl_snd_safe
    | intro _
    | split
    | dsimp only
    | refine State.Safe.lit ?_ rfl rfl rfl rfl)

theorem execSetWritePw_safe' {path : Path} {s : State} {res} (eqn : (execSetWritePw path s) = Host.Outcome.next res) (hS : s.Safe lf lg cq)  :
    (res).Safe lf lg cq := execSetWritePw_safe path s hS res eqn

theorem execUnlockRead_safe (path : Path) (s : State) (hS : s.Safe lf lg cq) :
    ∀ res, (execUnlockRead path s) = Host.Outcome.next res → (res).Safe lf lg cq := by
  intro res hv
  simp only [execUnlockRead, Host.Outcome.next.injEq] at hv
  subst hv
  repeat' (first
    | with_reducible assumption
    | with_reducible apply State.asked_safe
    | with_reducible apply State.unlock_safe
    | with_reducible apply foldl_snd2_safe
    | with_reducible refine pair3_safe (by with_reducible assumption) ?_
    | with_reducible refine pair_safe (by with_reducible assumption) ?_
    | with_reducible apply foldl_safe
    | with_reducible apply foldl_snd_safe
    | intro _
    | split
    | dsimp only
    | refine State.Safe.lit ?_ rfl rfl rfl rfl)

theorem execUnlockRead_safe' {path : Path} {s : State} {res} (eqn : (execUnlockRead path s) = Host.Outcome.next res) (hS : s.Safe lf lg cq)  :
    (res).Safe lf lg cq := execUnlockRead_safe path s hS res eqn

theorem execRelock_safe (path : Path) (s : State) (hS : s.Safe lf lg cq) :
    ∀ res, (execRelock path s) = Host.Outcome.next res → (res).Safe lf lg cq := by
  intro res hv
  simp only [execRelock, Host.Outcome.next.injEq] at hv
  subst hv
  repeat' (first
    | with_reducible assumption
    | with_reducible apply State.asked_safe
    | with_reducible apply State.relockRec_safe
    | with_reducible apply foldl_snd2_safe
    | with_reducible refine pair3_safe (by with_reducible assumption) ?_
    | with_reducible refine pair_safe (by with_reducible assumption) ?_
    | with_reducible apply foldl_safe
    | with_reducible apply foldl_snd_safe
    | intro _
    | split
    | dsimp only
    | refine State.Safe.lit ?_ rfl rfl rfl rfl)

theorem execRelock_safe' {path : Path} {s : State} {res} (eqn : (execRelock path s) = Host.Outcome.next res) (hS : s.Safe lf lg cq)  :
    (res).Safe lf lg cq := execRelock_safe path s hS res eqn

end Sys2Proof.Machine
end

