-- ==== Sys2Proof/Laws/Safe/Step.lean ====
section
/-! SUPPORT. One lemma for each operation of `Machine/Step.lean` that answers a state: it keeps `State.Safe` (the primed form says
the same of an answer that is known by an equation). -/

namespace Sys2Proof.Machine
open Sys2Proof
variable {lf lg : Nat} {cq : List Instr}

theorem State.idleTick_safe (s : State) (hS : s.Safe lf lg cq) :
    ((State.idleTick s)).Safe lf lg cq := by
  exact State.Safe.lit (State.expSettle_safe _ (State.timeTick_safe _ (State.stallTick_safe _ hS))) rfl rfl rfl rfl

end Sys2Proof.Machine
end

