-- ==== Sys2Proof/Laws/Safe/Tenders.lean ====
section
/-! SUPPORT. One lemma for each operation of `Machine/Tenders.lean` that answers a state: it keeps `State.Safe` (the primed form says
the same of an answer that is known by an equation). -/

namespace Sys2Proof.Machine
open Sys2Proof
variable {lf lg : Nat} {cq : List Instr}

theorem execHaloTransfer_safe (c : CoreId) (right : Bool) (s : State) (hS : s.Safe lf lg cq) :
    ∀ res, (execHaloTransfer c right s) = Host.Outcome.next res → (res).Safe lf lg cq := by
  intro res hv
  simp only [execHaloTransfer, Host.Outcome.next.injEq] at hv
  subst hv
  repeat' (first
    | with_reducible assumption
    | with_reducible apply State.haloArrive_safe
    | with_reducible apply foldl_snd2_safe
    | with_reducible refine pair3_safe (by with_reducible assumption) ?_
    | with_reducible refine pair_safe (by with_reducible assumption) ?_
    | with_reducible apply foldl_safe
    | with_reducible apply foldl_snd_safe
    | intro _
    | split
    | dsimp only
    | refine State.Safe.lit ?_ rfl rfl rfl rfl)

theorem execHaloTransfer_safe' {c : CoreId} {right : Bool} {s : State} {res} (eqn : (execHaloTransfer c right s) = Host.Outcome.next res) (hS : s.Safe lf lg cq)  :
    (res).Safe lf lg cq := execHaloTransfer_safe c right s hS res eqn

theorem execSpareRelease_safe (path : Path) (c : CoreId) (s : State) (hS : s.Safe lf lg cq) :
    ∀ res, (execSpareRelease path c s) = Host.Outcome.next res → (res).Safe lf lg cq := by
  intro res hv
  simp only [execSpareRelease, Host.Outcome.next.injEq] at hv
  subst hv
  repeat' (first
    | with_reducible assumption
    | with_reducible apply State.asked_safe
    | with_reducible apply State.spareCmd_safe
    | with_reducible apply foldl_snd2_safe
    | with_reducible refine pair3_safe (by with_reducible assumption) ?_
    | with_reducible refine pair_safe (by with_reducible assumption) ?_
    | with_reducible apply foldl_safe
    | with_reducible apply foldl_snd_safe
    | intro _
    | split
    | dsimp only
    | refine State.Safe.lit ?_ rfl rfl rfl rfl)

theorem execSpareRelease_safe' {path : Path} {c : CoreId} {s : State} {res} (eqn : (execSpareRelease path c s) = Host.Outcome.next res) (hS : s.Safe lf lg cq)  :
    (res).Safe lf lg cq := execSpareRelease_safe path c s hS res eqn

theorem execSpareCommit_safe (path : Path) (c : CoreId) (s : State) (hS : s.Safe lf lg cq) :
    ∀ res, (execSpareCommit path c s) = Host.Outcome.next res → (res).Safe lf lg cq := by
  intro res hv
  simp only [execSpareCommit, Host.Outcome.next.injEq] at hv
  subst hv
  repeat' (first
    | with_reducible assumption
    | with_reducible apply State.asked_safe
    | with_reducible apply State.spareCmd_safe
    | with_reducible apply foldl_snd2_safe
    | with_reducible refine pair3_safe (by with_reducible assumption) ?_
    | with_reducible refine pair_safe (by with_reducible assumption) ?_
    | with_reducible apply foldl_safe
    | with_reducible apply foldl_snd_safe
    | intro _
    | split
    | dsimp only
    | refine State.Safe.lit ?_ rfl rfl rfl rfl)

theorem execSpareCommit_safe' {path : Path} {c : CoreId} {s : State} {res} (eqn : (execSpareCommit path c s) = Host.Outcome.next res) (hS : s.Safe lf lg cq)  :
    (res).Safe lf lg cq := execSpareCommit_safe path c s hS res eqn

theorem execTenderYield_safe (c : CoreId) (s : State) (hS : s.Safe lf lg cq) :
    ∀ res, (execTenderYield c s) = Host.Outcome.next res → (res).Safe lf lg cq := by
  intro res hv
  simp only [execTenderYield, Host.Outcome.next.injEq] at hv
  subst hv
  repeat' (first
    | with_reducible assumption
    | with_reducible apply State.tenderYield_safe
    | with_reducible apply foldl_snd2_safe
    | with_reducible refine pair3_safe (by with_reducible assumption) ?_
    | with_reducible refine pair_safe (by with_reducible assumption) ?_
    | with_reducible apply foldl_safe
    | with_reducible apply foldl_snd_safe
    | intro _
    | split
    | dsimp only
    | refine State.Safe.lit ?_ rfl rfl rfl rfl)

theorem execTenderYield_safe' {c : CoreId} {s : State} {res} (eqn : (execTenderYield c s) = Host.Outcome.next res) (hS : s.Safe lf lg cq)  :
    (res).Safe lf lg cq := execTenderYield_safe c s hS res eqn

theorem execTenderFwFault_safe (c : CoreId) (scratch : Bool) (s : State) (hS : s.Safe lf lg cq) :
    ∀ res, (execTenderFwFault c scratch s) = Host.Outcome.next res → (res).Safe lf lg cq := by
  intro res hv
  simp only [execTenderFwFault, Host.Outcome.next.injEq] at hv
  subst hv
  repeat' (first
    | with_reducible assumption
    | with_reducible apply State.tenderFault_safe
    | with_reducible apply foldl_snd2_safe
    | with_reducible refine pair3_safe (by with_reducible assumption) ?_
    | with_reducible refine pair_safe (by with_reducible assumption) ?_
    | with_reducible apply foldl_safe
    | with_reducible apply foldl_snd_safe
    | intro _
    | split
    | dsimp only
    | refine State.Safe.lit ?_ rfl rfl rfl rfl)

theorem execTenderFwFault_safe' {c : CoreId} {scratch : Bool} {s : State} {res} (eqn : (execTenderFwFault c scratch s) = Host.Outcome.next res) (hS : s.Safe lf lg cq)  :
    (res).Safe lf lg cq := execTenderFwFault_safe c scratch s hS res eqn

theorem execSpareSubstitutionEffect_safe (c : CoreId) (s : State) (hS : s.Safe lf lg cq) :
    ∀ res, (execSpareSubstitutionEffect c s) = Host.Outcome.next res → (res).Safe lf lg cq := by
  intro res hv
  simp only [execSpareSubstitutionEffect, Host.Outcome.next.injEq] at hv
  subst hv
  repeat' (first
    | with_reducible assumption
    | with_reducible apply State.spareEffect_safe
    | with_reducible apply foldl_snd2_safe
    | with_reducible refine pair3_safe (by with_reducible assumption) ?_
    | with_reducible refine pair_safe (by with_reducible assumption) ?_
    | with_reducible apply foldl_safe
    | with_reducible apply foldl_snd_safe
    | intro _
    | split
    | dsimp only
    | refine State.Safe.lit ?_ rfl rfl rfl rfl)

theorem execSpareSubstitutionEffect_safe' {c : CoreId} {s : State} {res} (eqn : (execSpareSubstitutionEffect c s) = Host.Outcome.next res) (hS : s.Safe lf lg cq)  :
    (res).Safe lf lg cq := execSpareSubstitutionEffect_safe c s hS res eqn

theorem execTenderHeartbeatTick_safe (c : CoreId) (s : State) (hS : s.Safe lf lg cq) :
    ∀ res, (execTenderHeartbeatTick c s) = Host.Outcome.next res → (res).Safe lf lg cq := by
  intro res hv
  simp only [execTenderHeartbeatTick, Host.Outcome.next.injEq] at hv
  subst hv
  repeat' (first
    | with_reducible assumption
    | with_reducible apply State.modCore_safe
    | with_reducible apply foldl_snd2_safe
    | with_reducible refine pair3_safe (by with_reducible assumption) ?_
    | with_reducible refine pair_safe (by with_reducible assumption) ?_
    | with_reducible apply foldl_safe
    | with_reducible apply foldl_snd_safe
    | intro _
    | split
    | dsimp only
    | refine State.Safe.lit ?_ rfl rfl rfl rfl)

theorem execTenderHeartbeatTick_safe' {c : CoreId} {s : State} {res} (eqn : (execTenderHeartbeatTick c s) = Host.Outcome.next res) (hS : s.Safe lf lg cq)  :
    (res).Safe lf lg cq := execTenderHeartbeatTick_safe c s hS res eqn

theorem execTenderWdogTimeout_safe (c : CoreId) (s : State) (hS : s.Safe lf lg cq) :
    ∀ res, (execTenderWdogTimeout c s) = Host.Outcome.next res → (res).Safe lf lg cq := by
  intro res hv
  simp only [execTenderWdogTimeout, Host.Outcome.next.injEq] at hv
  subst hv
  repeat' (first
    | with_reducible assumption
    | with_reducible apply State.tenderFault_safe
    | with_reducible apply foldl_snd2_safe
    | with_reducible refine pair3_safe (by with_reducible assumption) ?_
    | with_reducible refine pair_safe (by with_reducible assumption) ?_
    | with_reducible apply foldl_safe
    | with_reducible apply foldl_snd_safe
    | intro _
    | split
    | dsimp only
    | refine State.Safe.lit ?_ rfl rfl rfl rfl)

theorem execTenderWdogTimeout_safe' {c : CoreId} {s : State} {res} (eqn : (execTenderWdogTimeout c s) = Host.Outcome.next res) (hS : s.Safe lf lg cq)  :
    (res).Safe lf lg cq := execTenderWdogTimeout_safe c s hS res eqn

theorem execHaloTimeout_safe (c : CoreId) (right : Bool) (s : State) (hS : s.Safe lf lg cq) :
    ∀ res, (execHaloTimeout c right s) = Host.Outcome.next res → (res).Safe lf lg cq := by
  intro res hv
  simp only [execHaloTimeout, Host.Outcome.next.injEq] at hv
  subst hv
  repeat' (first
    | with_reducible assumption
    | with_reducible apply State.haloAbandon_safe
    | with_reducible apply foldl_snd2_safe
    | with_reducible refine pair3_safe (by with_reducible assumption) ?_
    | with_reducible refine pair_safe (by with_reducible assumption) ?_
    | with_reducible apply foldl_safe
    | with_reducible apply foldl_snd_safe
    | intro _
    | split
    | dsimp only
    | refine State.Safe.lit ?_ rfl rfl rfl rfl)

theorem execHaloTimeout_safe' {c : CoreId} {right : Bool} {s : State} {res} (eqn : (execHaloTimeout c right s) = Host.Outcome.next res) (hS : s.Safe lf lg cq)  :
    (res).Safe lf lg cq := execHaloTimeout_safe c right s hS res eqn

theorem execTenderRestart_safe (path : Path) (c : CoreId) (s : State) (hS : s.Safe lf lg cq) :
    ∀ res, (execTenderRestart path c s) = Host.Outcome.next res → (res).Safe lf lg cq := by
  intro res hv
  simp only [execTenderRestart, Host.Outcome.next.injEq] at hv
  subst hv
  repeat' (first
    | with_reducible assumption
    | with_reducible apply State.asked_safe
    | with_reducible apply State.tenderRestart_safe
    | with_reducible apply foldl_snd2_safe
    | with_reducible refine pair3_safe (by with_reducible assumption) ?_
    | with_reducible refine pair_safe (by with_reducible assumption) ?_
    | with_reducible apply foldl_safe
    | with_reducible apply foldl_snd_safe
    | intro _
    | split
    | dsimp only
    | refine State.Safe.lit ?_ rfl rfl rfl rfl)

theorem execTenderRestart_safe' {path : Path} {c : CoreId} {s : State} {res} (eqn : (execTenderRestart path c s) = Host.Outcome.next res) (hS : s.Safe lf lg cq)  :
    (res).Safe lf lg cq := execTenderRestart_safe path c s hS res eqn

theorem execTenderLoadDone_safe (c : CoreId) (s : State) (hS : s.Safe lf lg cq) :
    ∀ res, (execTenderLoadDone c s) = Host.Outcome.next res → (res).Safe lf lg cq := by
  intro res hv
  simp only [execTenderLoadDone, Host.Outcome.next.injEq] at hv
  subst hv
  repeat' (first
    | with_reducible assumption
    | with_reducible apply State.tenderLoaded_safe
    | with_reducible apply foldl_snd2_safe
    | with_reducible refine pair3_safe (by with_reducible assumption) ?_
    | with_reducible refine pair_safe (by with_reducible assumption) ?_
    | with_reducible apply foldl_safe
    | with_reducible apply foldl_snd_safe
    | intro _
    | split
    | dsimp only
    | refine State.Safe.lit ?_ rfl rfl rfl rfl)

theorem execTenderLoadDone_safe' {c : CoreId} {s : State} {res} (eqn : (execTenderLoadDone c s) = Host.Outcome.next res) (hS : s.Safe lf lg cq)  :
    (res).Safe lf lg cq := execTenderLoadDone_safe c s hS res eqn

end Sys2Proof.Machine
end

