-- ==== Sys2Proof/Laws/Safe/Waves.lean ====
section
/-! SUPPORT. One lemma for each operation of `Machine/Waves.lean` that answers a state: it keeps `State.Safe` (the primed form says
the same of an answer that is known by an equation). -/

namespace Sys2Proof.Machine
open Sys2Proof
variable {lf lg : Nat} {cq : List Instr}

theorem execWaveSlot_safe (c : CoreId) (s : State) (hS : s.Safe lf lg cq) :
    ∀ res, (execWaveSlot c s) = Host.Outcome.next res → (res).Safe lf lg cq := by
  intro res hv
  simp only [execWaveSlot, Host.Outcome.next.injEq] at hv
  subst hv
  repeat' (first
    | with_reducible assumption
    | with_reducible apply State.waveSlot_safe
    | with_reducible apply foldl_snd2_safe
    | with_reducible refine pair3_safe (by with_reducible assumption) ?_
    | with_reducible refine pair_safe (by with_reducible assumption) ?_
    | with_reducible apply foldl_safe
    | with_reducible apply foldl_snd_safe
    | intro _
    | split
    | dsimp only
    | refine State.Safe.lit ?_ rfl rfl rfl rfl)

theorem execWaveSlot_safe' {c : CoreId} {s : State} {res} (eqn : (execWaveSlot c s) = Host.Outcome.next res) (hS : s.Safe lf lg cq)  :
    (res).Safe lf lg cq := execWaveSlot_safe c s hS res eqn

theorem execGridPointWaitEnd_safe (c : CoreId) (s : State) (hS : s.Safe lf lg cq) :
    ∀ res, (execGridPointWaitEnd c s) = Host.Outcome.next res → (res).Safe lf lg cq := by
  intro res hv
  simp only [execGridPointWaitEnd, Host.Outcome.next.injEq] at hv
  subst hv
  repeat' (first
    | with_reducible assumption
    | with_reducible apply State.modCore_safe
    | with_reducible apply foldl_snd2_safe
    | with_reducible refine pair3_safe (by with_reducible assumption) ?_
    | with_reducible refine pair_safe (by with_reducible assumption) ?_
    | with_reducible apply foldl_safe
    | with_reducible apply foldl_snd_safe
    | intro _
    | split
    | dsimp only
    | refine State.Safe.lit ?_ rfl rfl rfl rfl)

theorem execGridPointWaitEnd_safe' {c : CoreId} {s : State} {res} (eqn : (execGridPointWaitEnd c s) = Host.Outcome.next res) (hS : s.Safe lf lg cq)  :
    (res).Safe lf lg cq := execGridPointWaitEnd_safe c s hS res eqn

theorem execCpVerdict_safe (c : CoreId) (sl : SlotId) (s : State) (hS : s.Safe lf lg cq) :
    ∀ res, (execCpVerdict c sl s) = Host.Outcome.next res → (res).Safe lf lg cq := by
  intro res hv
  simp only [execCpVerdict, Host.Outcome.next.injEq] at hv
  subst hv
  repeat' (first
    | with_reducible assumption
    | with_reducible apply State.cpJudge_safe
    | with_reducible apply foldl_snd2_safe
    | with_reducible refine pair3_safe (by with_reducible assumption) ?_
    | with_reducible refine pair_safe (by with_reducible assumption) ?_
    | with_reducible apply foldl_safe
    | with_reducible apply foldl_snd_safe
    | intro _
    | split
    | dsimp only
    | refine State.Safe.lit ?_ rfl rfl rfl rfl)

theorem execCpVerdict_safe' {c : CoreId} {sl : SlotId} {s : State} {res} (eqn : (execCpVerdict c sl s) = Host.Outcome.next res) (hS : s.Safe lf lg cq)  :
    (res).Safe lf lg cq := execCpVerdict_safe c sl s hS res eqn

theorem execRotationAdvance_safe (c : CoreId) (s : State) (hS : s.Safe lf lg cq) :
    ∀ res, (execRotationAdvance c s) = Host.Outcome.next res → (res).Safe lf lg cq := by
  intro res hv
  simp only [execRotationAdvance, Host.Outcome.next.injEq] at hv
  subst hv
  repeat' (first
    | with_reducible assumption
    | with_reducible apply State.rotateTick_safe
    | with_reducible apply foldl_snd2_safe
    | with_reducible refine pair3_safe (by with_reducible assumption) ?_
    | with_reducible refine pair_safe (by with_reducible assumption) ?_
    | with_reducible apply foldl_safe
    | with_reducible apply foldl_snd_safe
    | intro _
    | split
    | dsimp only
    | refine State.Safe.lit ?_ rfl rfl rfl rfl)

theorem execRotationAdvance_safe' {c : CoreId} {s : State} {res} (eqn : (execRotationAdvance c s) = Host.Outcome.next res) (hS : s.Safe lf lg cq)  :
    (res).Safe lf lg cq := execRotationAdvance_safe c s hS res eqn

theorem execReplayVerdict_safe (c : CoreId) (s : State) (hS : s.Safe lf lg cq) :
    ∀ res, (execReplayVerdict c s) = Host.Outcome.next res → (res).Safe lf lg cq := by
  intro res hv
  simp only [execReplayVerdict, Host.Outcome.next.injEq] at hv
  subst hv
  repeat' (first
    | with_reducible assumption
    | with_reducible apply State.replayJudge_safe
    | with_reducible apply foldl_snd2_safe
    | with_reducible refine pair3_safe (by with_reducible assumption) ?_
    | with_reducible refine pair_safe (by with_reducible assumption) ?_
    | with_reducible apply foldl_safe
    | with_reducible apply foldl_snd_safe
    | intro _
    | split
    | dsimp only
    | refine State.Safe.lit ?_ rfl rfl rfl rfl)

theorem execReplayVerdict_safe' {c : CoreId} {s : State} {res} (eqn : (execReplayVerdict c s) = Host.Outcome.next res) (hS : s.Safe lf lg cq)  :
    (res).Safe lf lg cq := execReplayVerdict_safe c s hS res eqn

theorem execWaveConversionDone_safe (c : CoreId) (sl : SlotId) (s : State) (hS : s.Safe lf lg cq) :
    ∀ res, (execWaveConversionDone c sl s) = Host.Outcome.next res → (res).Safe lf lg cq := by
  intro res hv
  simp only [execWaveConversionDone, Host.Outcome.next.injEq] at hv
  subst hv
  repeat' (first
    | with_reducible assumption
    | with_reducible apply State.conversion_safe
    | with_reducible apply foldl_snd2_safe
    | with_reducible refine pair3_safe (by with_reducible assumption) ?_
    | with_reducible refine pair_safe (by with_reducible assumption) ?_
    | with_reducible apply foldl_safe
    | with_reducible apply foldl_snd_safe
    | intro _
    | split
    | dsimp only
    | refine State.Safe.lit ?_ rfl rfl rfl rfl)

theorem execWaveConversionDone_safe' {c : CoreId} {sl : SlotId} {s : State} {res} (eqn : (execWaveConversionDone c sl s) = Host.Outcome.next res) (hS : s.Safe lf lg cq)  :
    (res).Safe lf lg cq := execWaveConversionDone_safe c sl s hS res eqn

end Sys2Proof.Machine
end

