-- ==== Sys2Proof/Laws/State.lean ====
section
/-! SUPPORT. One lemma per field per update of the state, so that no proof unfolds an update; what numbering and raising an
event leaves unchanged; and what a table or a register reads as after a write of it. -/

namespace Sys2Proof.Machine
open Sys2Proof


/-! ### wr -/

@[simp] theorem State.wr_shadows (s : State) (r : Reg) (i k v : Nat) : (s.wr r i k v).shadows = s.shadows := rfl
@[simp] theorem State.wr_latches (s : State) (r : Reg) (i k v : Nat) : (s.wr r i k v).latches = s.latches := rfl
@[simp] theorem State.wr_arrays (s : State) (r : Reg) (i k v : Nat) : (s.wr r i k v).arrays = s.arrays := rfl
@[simp] theorem State.wr_cores (s : State) (r : Reg) (i k v : Nat) : (s.wr r i k v).cores = s.cores := rfl
@[simp] theorem State.wr_pgmQueue (s : State) (r : Reg) (i k v : Nat) : (s.wr r i k v).pgmQueue = s.pgmQueue := rfl
@[simp] theorem State.wr_mem (s : State) (r : Reg) (i k v : Nat) : (s.wr r i k v).mem = s.mem := rfl
@[simp] theorem State.wr_host (s : State) (r : Reg) (i k v : Nat) : (s.wr r i k v).host = s.host := rfl
@[simp] theorem State.wr_poison (s : State) (r : Reg) (i k v : Nat) : (s.wr r i k v).poison = s.poison := rfl
@[simp] theorem State.wr_memCe (s : State) (r : Reg) (i k v : Nat) : (s.wr r i k v).memCe = s.memCe := rfl
@[simp] theorem State.wr_memCeAt (s : State) (r : Reg) (i k v : Nat) : (s.wr r i k v).memCeAt = s.memCeAt := rfl
@[simp] theorem State.wr_ev (s : State) (r : Reg) (i k v : Nat) : (s.wr r i k v).ev = s.ev := rfl
@[simp] theorem State.wr_reqs (s : State) (r : Reg) (i k v : Nat) : (s.wr r i k v).reqs = s.reqs := rfl
@[simp] theorem State.wr_nextReq (s : State) (r : Reg) (i k v : Nat) : (s.wr r i k v).nextReq = s.nextReq := rfl
@[simp] theorem State.wr_nextBatch (s : State) (r : Reg) (i k v : Nat) : (s.wr r i k v).nextBatch = s.nextBatch := rfl
@[simp] theorem State.wr_bound (s : State) (r : Reg) (i k v : Nat) : (s.wr r i k v).bound = s.bound := rfl
@[simp] theorem State.wr_pounds (s : State) (r : Reg) (i k v : Nat) : (s.wr r i k v).pounds = s.pounds := rfl
@[simp] theorem State.wr_queues (s : State) (r : Reg) (i k v : Nat) : (s.wr r i k v).queues = s.queues := rfl
@[simp] theorem State.wr_rrLast (s : State) (r : Reg) (i k v : Nat) : (s.wr r i k v).rrLast = s.rrLast := rfl
@[simp] theorem State.wr_expBroken (s : State) (r : Reg) (i k v : Nat) : (s.wr r i k v).expBroken = s.expBroken := rfl
@[simp] theorem State.wr_ctxs (s : State) (r : Reg) (i k v : Nat) : (s.wr r i k v).ctxs = s.ctxs := rfl
@[simp] theorem State.wr_models (s : State) (r : Reg) (i k v : Nat) : (s.wr r i k v).models = s.models := rfl
@[simp] theorem State.wr_adps (s : State) (r : Reg) (i k v : Nat) : (s.wr r i k v).adps = s.adps := rfl
@[simp] theorem State.wr_adpClock (s : State) (r : Reg) (i k v : Nat) : (s.wr r i k v).adpClock = s.adpClock := rfl
@[simp] theorem State.wr_adpGoal (s : State) (r : Reg) (i k v : Nat) : (s.wr r i k v).adpGoal = s.adpGoal := rfl
@[simp] theorem State.wr_ctrs (s : State) (r : Reg) (i k v : Nat) : (s.wr r i k v).ctrs = s.ctrs := rfl
@[simp] theorem State.wr_sweep (s : State) (r : Reg) (i k v : Nat) : (s.wr r i k v).sweep = s.sweep := rfl
@[simp] theorem State.wr_wins (s : State) (r : Reg) (i k v : Nat) : (s.wr r i k v).wins = s.wins := rfl
@[simp] theorem State.wr_net (s : State) (r : Reg) (i k v : Nat) : (s.wr r i k v).net = s.net := rfl
@[simp] theorem State.wr_tal (s : State) (r : Reg) (i k v : Nat) : (s.wr r i k v).tal = s.tal := rfl
@[simp] theorem State.wr_tb (s : State) (r : Reg) (i k v : Nat) : (s.wr r i k v).tb = s.tb := rfl
@[simp] theorem State.wr_ports (s : State) (r : Reg) (i k v : Nat) : (s.wr r i k v).ports = s.ports := rfl
@[simp] theorem State.wr_mons (s : State) (r : Reg) (i k v : Nat) : (s.wr r i k v).mons = s.mons := rfl
@[simp] theorem State.wr_stale (s : State) (r : Reg) (i k v : Nat) : (s.wr r i k v).stale = s.stale := rfl
@[simp] theorem State.wr_recs (s : State) (r : Reg) (i k v : Nat) : (s.wr r i k v).recs = s.recs := rfl
@[simp] theorem State.wr_boot (s : State) (r : Reg) (i k v : Nat) : (s.wr r i k v).boot = s.boot := rfl
@[simp] theorem State.wr_pwr (s : State) (r : Reg) (i k v : Nat) : (s.wr r i k v).pwr = s.pwr := rfl
@[simp] theorem State.wr_time (s : State) (r : Reg) (i k v : Nat) : (s.wr r i k v).time = s.time := rfl
@[simp] theorem State.wr_free (s : State) (r : Reg) (i k v : Nat) : (s.wr r i k v).free = s.free := rfl
@[simp] theorem State.wr_tx (s : State) (r : Reg) (i k v : Nat) : (s.wr r i k v).tx = s.tx := rfl
@[simp] theorem State.wr_pending (s : State) (r : Reg) (i k v : Nat) : (s.wr r i k v).pending = s.pending := rfl

/-! ### flag -/

@[simp] theorem State.flag_shadows (s : State) (r : Reg) (i b : Nat) : (s.flag r i b).shadows = s.shadows := rfl
@[simp] theorem State.flag_latches (s : State) (r : Reg) (i b : Nat) : (s.flag r i b).latches = s.latches := rfl
@[simp] theorem State.flag_arrays (s : State) (r : Reg) (i b : Nat) : (s.flag r i b).arrays = s.arrays := rfl
@[simp] theorem State.flag_cores (s : State) (r : Reg) (i b : Nat) : (s.flag r i b).cores = s.cores := rfl
@[simp] theorem State.flag_pgmQueue (s : State) (r : Reg) (i b : Nat) : (s.flag r i b).pgmQueue = s.pgmQueue := rfl
@[simp] theorem State.flag_mem (s : State) (r : Reg) (i b : Nat) : (s.flag r i b).mem = s.mem := rfl
@[simp] theorem State.flag_host (s : State) (r : Reg) (i b : Nat) : (s.flag r i b).host = s.host := rfl
@[simp] theorem State.flag_poison (s : State) (r : Reg) (i b : Nat) : (s.flag r i b).poison = s.poison := rfl
@[simp] theorem State.flag_memCe (s : State) (r : Reg) (i b : Nat) : (s.flag r i b).memCe = s.memCe := rfl
@[simp] theorem State.flag_memCeAt (s : State) (r : Reg) (i b : Nat) : (s.flag r i b).memCeAt = s.memCeAt := rfl
@[simp] theorem State.flag_ev (s : State) (r : Reg) (i b : Nat) : (s.flag r i b).ev = s.ev := rfl
@[simp] theorem State.flag_reqs (s : State) (r : Reg) (i b : Nat) : (s.flag r i b).reqs = s.reqs := rfl
@[simp] theorem State.flag_nextReq (s : State) (r : Reg) (i b : Nat) : (s.flag r i b).nextReq = s.nextReq := rfl
@[simp] theorem State.flag_nextBatch (s : State) (r : Reg) (i b : Nat) : (s.flag r i b).nextBatch = s.nextBatch := rfl
@[simp] theorem State.flag_bound (s : State) (r : Reg) (i b : Nat) : (s.flag r i b).bound = s.bound := rfl
@[simp] theorem State.flag_pounds (s : State) (r : Reg) (i b : Nat) : (s.flag r i b).pounds = s.pounds := rfl
@[simp] theorem State.flag_queues (s : State) (r : Reg) (i b : Nat) : (s.flag r i b).queues = s.queues := rfl
@[simp] theorem State.flag_rrLast (s : State) (r : Reg) (i b : Nat) : (s.flag r i b).rrLast = s.rrLast := rfl
@[simp] theorem State.flag_expBroken (s : State) (r : Reg) (i b : Nat) : (s.flag r i b).expBroken = s.expBroken := rfl
@[simp] theorem State.flag_ctxs (s : State) (r : Reg) (i b : Nat) : (s.flag r i b).ctxs = s.ctxs := rfl
@[simp] theorem State.flag_models (s : State) (r : Reg) (i b : Nat) : (s.flag r i b).models = s.models := rfl
@[simp] theorem State.flag_adps (s : State) (r : Reg) (i b : Nat) : (s.flag r i b).adps = s.adps := rfl
@[simp] theorem State.flag_adpClock (s : State) (r : Reg) (i b : Nat) : (s.flag r i b).adpClock = s.adpClock := rfl
@[simp] theorem State.flag_adpGoal (s : State) (r : Reg) (i b : Nat) : (s.flag r i b).adpGoal = s.adpGoal := rfl
@[simp] theorem State.flag_ctrs (s : State) (r : Reg) (i b : Nat) : (s.flag r i b).ctrs = s.ctrs := rfl
@[simp] theorem State.flag_sweep (s : State) (r : Reg) (i b : Nat) : (s.flag r i b).sweep = s.sweep := rfl
@[simp] theorem State.flag_wins (s : State) (r : Reg) (i b : Nat) : (s.flag r i b).wins = s.wins := rfl
@[simp] theorem State.flag_net (s : State) (r : Reg) (i b : Nat) : (s.flag r i b).net = s.net := rfl
@[simp] theorem State.flag_tal (s : State) (r : Reg) (i b : Nat) : (s.flag r i b).tal = s.tal := rfl
@[simp] theorem State.flag_tb (s : State) (r : Reg) (i b : Nat) : (s.flag r i b).tb = s.tb := rfl
@[simp] theorem State.flag_ports (s : State) (r : Reg) (i b : Nat) : (s.flag r i b).ports = s.ports := rfl
@[simp] theorem State.flag_mons (s : State) (r : Reg) (i b : Nat) : (s.flag r i b).mons = s.mons := rfl
@[simp] theorem State.flag_stale (s : State) (r : Reg) (i b : Nat) : (s.flag r i b).stale = s.stale := rfl
@[simp] theorem State.flag_recs (s : State) (r : Reg) (i b : Nat) : (s.flag r i b).recs = s.recs := rfl
@[simp] theorem State.flag_boot (s : State) (r : Reg) (i b : Nat) : (s.flag r i b).boot = s.boot := rfl
@[simp] theorem State.flag_pwr (s : State) (r : Reg) (i b : Nat) : (s.flag r i b).pwr = s.pwr := rfl
@[simp] theorem State.flag_time (s : State) (r : Reg) (i b : Nat) : (s.flag r i b).time = s.time := rfl
@[simp] theorem State.flag_free (s : State) (r : Reg) (i b : Nat) : (s.flag r i b).free = s.free := rfl
@[simp] theorem State.flag_tx (s : State) (r : Reg) (i b : Nat) : (s.flag r i b).tx = s.tx := rfl
@[simp] theorem State.flag_pending (s : State) (r : Reg) (i b : Nat) : (s.flag r i b).pending = s.pending := rfl

/-! ### wf_ -/

@[simp] theorem State.wf__shadows (s : State) (r : Reg) (i hi lo v : Nat) : (s.wf_ r i hi lo v).shadows = s.shadows := rfl
@[simp] theorem State.wf__latches (s : State) (r : Reg) (i hi lo v : Nat) : (s.wf_ r i hi lo v).latches = s.latches := rfl
@[simp] theorem State.wf__arrays (s : State) (r : Reg) (i hi lo v : Nat) : (s.wf_ r i hi lo v).arrays = s.arrays := rfl
@[simp] theorem State.wf__cores (s : State) (r : Reg) (i hi lo v : Nat) : (s.wf_ r i hi lo v).cores = s.cores := rfl
@[simp] theorem State.wf__pgmQueue (s : State) (r : Reg) (i hi lo v : Nat) : (s.wf_ r i hi lo v).pgmQueue = s.pgmQueue := rfl
@[simp] theorem State.wf__mem (s : State) (r : Reg) (i hi lo v : Nat) : (s.wf_ r i hi lo v).mem = s.mem := rfl
@[simp] theorem State.wf__host (s : State) (r : Reg) (i hi lo v : Nat) : (s.wf_ r i hi lo v).host = s.host := rfl
@[simp] theorem State.wf__poison (s : State) (r : Reg) (i hi lo v : Nat) : (s.wf_ r i hi lo v).poison = s.poison := rfl
@[simp] theorem State.wf__memCe (s : State) (r : Reg) (i hi lo v : Nat) : (s.wf_ r i hi lo v).memCe = s.memCe := rfl
@[simp] theorem State.wf__memCeAt (s : State) (r : Reg) (i hi lo v : Nat) : (s.wf_ r i hi lo v).memCeAt = s.memCeAt := rfl
@[simp] theorem State.wf__ev (s : State) (r : Reg) (i hi lo v : Nat) : (s.wf_ r i hi lo v).ev = s.ev := rfl
@[simp] theorem State.wf__reqs (s : State) (r : Reg) (i hi lo v : Nat) : (s.wf_ r i hi lo v).reqs = s.reqs := rfl
@[simp] theorem State.wf__nextReq (s : State) (r : Reg) (i hi lo v : Nat) : (s.wf_ r i hi lo v).nextReq = s.nextReq := rfl
@[simp] theorem State.wf__nextBatch (s : State) (r : Reg) (i hi lo v : Nat) : (s.wf_ r i hi lo v).nextBatch = s.nextBatch := rfl
@[simp] theorem State.wf__bound (s : State) (r : Reg) (i hi lo v : Nat) : (s.wf_ r i hi lo v).bound = s.bound := rfl
@[simp] theorem State.wf__pounds (s : State) (r : Reg) (i hi lo v : Nat) : (s.wf_ r i hi lo v).pounds = s.pounds := rfl
@[simp] theorem State.wf__queues (s : State) (r : Reg) (i hi lo v : Nat) : (s.wf_ r i hi lo v).queues = s.queues := rfl
@[simp] theorem State.wf__rrLast (s : State) (r : Reg) (i hi lo v : Nat) : (s.wf_ r i hi lo v).rrLast = s.rrLast := rfl
@[simp] theorem State.wf__expBroken (s : State) (r : Reg) (i hi lo v : Nat) : (s.wf_ r i hi lo v).expBroken = s.expBroken := rfl
@[simp] theorem State.wf__ctxs (s : State) (r : Reg) (i hi lo v : Nat) : (s.wf_ r i hi lo v).ctxs = s.ctxs := rfl
@[simp] theorem State.wf__models (s : State) (r : Reg) (i hi lo v : Nat) : (s.wf_ r i hi lo v).models = s.models := rfl
@[simp] theorem State.wf__adps (s : State) (r : Reg) (i hi lo v : Nat) : (s.wf_ r i hi lo v).adps = s.adps := rfl
@[simp] theorem State.wf__adpClock (s : State) (r : Reg) (i hi lo v : Nat) : (s.wf_ r i hi lo v).adpClock = s.adpClock := rfl
@[simp] theorem State.wf__adpGoal (s : State) (r : Reg) (i hi lo v : Nat) : (s.wf_ r i hi lo v).adpGoal = s.adpGoal := rfl
@[simp] theorem State.wf__ctrs (s : State) (r : Reg) (i hi lo v : Nat) : (s.wf_ r i hi lo v).ctrs = s.ctrs := rfl
@[simp] theorem State.wf__sweep (s : State) (r : Reg) (i hi lo v : Nat) : (s.wf_ r i hi lo v).sweep = s.sweep := rfl
@[simp] theorem State.wf__wins (s : State) (r : Reg) (i hi lo v : Nat) : (s.wf_ r i hi lo v).wins = s.wins := rfl
@[simp] theorem State.wf__net (s : State) (r : Reg) (i hi lo v : Nat) : (s.wf_ r i hi lo v).net = s.net := rfl
@[simp] theorem State.wf__tal (s : State) (r : Reg) (i hi lo v : Nat) : (s.wf_ r i hi lo v).tal = s.tal := rfl
@[simp] theorem State.wf__tb (s : State) (r : Reg) (i hi lo v : Nat) : (s.wf_ r i hi lo v).tb = s.tb := rfl
@[simp] theorem State.wf__ports (s : State) (r : Reg) (i hi lo v : Nat) : (s.wf_ r i hi lo v).ports = s.ports := rfl
@[simp] theorem State.wf__mons (s : State) (r : Reg) (i hi lo v : Nat) : (s.wf_ r i hi lo v).mons = s.mons := rfl
@[simp] theorem State.wf__stale (s : State) (r : Reg) (i hi lo v : Nat) : (s.wf_ r i hi lo v).stale = s.stale := rfl
@[simp] theorem State.wf__recs (s : State) (r : Reg) (i hi lo v : Nat) : (s.wf_ r i hi lo v).recs = s.recs := rfl
@[simp] theorem State.wf__boot (s : State) (r : Reg) (i hi lo v : Nat) : (s.wf_ r i hi lo v).boot = s.boot := rfl
@[simp] theorem State.wf__pwr (s : State) (r : Reg) (i hi lo v : Nat) : (s.wf_ r i hi lo v).pwr = s.pwr := rfl
@[simp] theorem State.wf__time (s : State) (r : Reg) (i hi lo v : Nat) : (s.wf_ r i hi lo v).time = s.time := rfl
@[simp] theorem State.wf__free (s : State) (r : Reg) (i hi lo v : Nat) : (s.wf_ r i hi lo v).free = s.free := rfl
@[simp] theorem State.wf__tx (s : State) (r : Reg) (i hi lo v : Nat) : (s.wf_ r i hi lo v).tx = s.tx := rfl
@[simp] theorem State.wf__pending (s : State) (r : Reg) (i hi lo v : Nat) : (s.wf_ r i hi lo v).pending = s.pending := rfl

/-! ### bump -/

@[simp] theorem State.bump_shadows (s : State) (r : Reg) (i n : Nat) : (s.bump r i n).shadows = s.shadows := rfl
@[simp] theorem State.bump_latches (s : State) (r : Reg) (i n : Nat) : (s.bump r i n).latches = s.latches := rfl
@[simp] theorem State.bump_arrays (s : State) (r : Reg) (i n : Nat) : (s.bump r i n).arrays = s.arrays := rfl
@[simp] theorem State.bump_cores (s : State) (r : Reg) (i n : Nat) : (s.bump r i n).cores = s.cores := rfl
@[simp] theorem State.bump_pgmQueue (s : State) (r : Reg) (i n : Nat) : (s.bump r i n).pgmQueue = s.pgmQueue := rfl
@[simp] theorem State.bump_mem (s : State) (r : Reg) (i n : Nat) : (s.bump r i n).mem = s.mem := rfl
@[simp] theorem State.bump_host (s : State) (r : Reg) (i n : Nat) : (s.bump r i n).host = s.host := rfl
@[simp] theorem State.bump_poison (s : State) (r : Reg) (i n : Nat) : (s.bump r i n).poison = s.poison := rfl
@[simp] theorem State.bump_memCe (s : State) (r : Reg) (i n : Nat) : (s.bump r i n).memCe = s.memCe := rfl
@[simp] theorem State.bump_memCeAt (s : State) (r : Reg) (i n : Nat) : (s.bump r i n).memCeAt = s.memCeAt := rfl
@[simp] theorem State.bump_ev (s : State) (r : Reg) (i n : Nat) : (s.bump r i n).ev = s.ev := rfl
@[simp] theorem State.bump_reqs (s : State) (r : Reg) (i n : Nat) : (s.bump r i n).reqs = s.reqs := rfl
@[simp] theorem State.bump_nextReq (s : State) (r : Reg) (i n : Nat) : (s.bump r i n).nextReq = s.nextReq := rfl
@[simp] theorem State.bump_nextBatch (s : State) (r : Reg) (i n : Nat) : (s.bump r i n).nextBatch = s.nextBatch := rfl
@[simp] theorem State.bump_bound (s : State) (r : Reg) (i n : Nat) : (s.bump r i n).bound = s.bound := rfl
@[simp] theorem State.bump_pounds (s : State) (r : Reg) (i n : Nat) : (s.bump r i n).pounds = s.pounds := rfl
@[simp] theorem State.bump_queues (s : State) (r : Reg) (i n : Nat) : (s.bump r i n).queues = s.queues := rfl
@[simp] theorem State.bump_rrLast (s : State) (r : Reg) (i n : Nat) : (s.bump r i n).rrLast = s.rrLast := rfl
@[simp] theorem State.bump_expBroken (s : State) (r : Reg) (i n : Nat) : (s.bump r i n).expBroken = s.expBroken := rfl
@[simp] theorem State.bump_ctxs (s : State) (r : Reg) (i n : Nat) : (s.bump r i n).ctxs = s.ctxs := rfl
@[simp] theorem State.bump_models (s : State) (r : Reg) (i n : Nat) : (s.bump r i n).models = s.models := rfl
@[simp] theorem State.bump_adps (s : State) (r : Reg) (i n : Nat) : (s.bump r i n).adps = s.adps := rfl
@[simp] theorem State.bump_adpClock (s : State) (r : Reg) (i n : Nat) : (s.bump r i n).adpClock = s.adpClock := rfl
@[simp] theorem State.bump_adpGoal (s : State) (r : Reg) (i n : Nat) : (s.bump r i n).adpGoal = s.adpGoal := rfl
@[simp] theorem State.bump_ctrs (s : State) (r : Reg) (i n : Nat) : (s.bump r i n).ctrs = s.ctrs := rfl
@[simp] theorem State.bump_sweep (s : State) (r : Reg) (i n : Nat) : (s.bump r i n).sweep = s.sweep := rfl
@[simp] theorem State.bump_wins (s : State) (r : Reg) (i n : Nat) : (s.bump r i n).wins = s.wins := rfl
@[simp] theorem State.bump_net (s : State) (r : Reg) (i n : Nat) : (s.bump r i n).net = s.net := rfl
@[simp] theorem State.bump_tal (s : State) (r : Reg) (i n : Nat) : (s.bump r i n).tal = s.tal := rfl
@[simp] theorem State.bump_tb (s : State) (r : Reg) (i n : Nat) : (s.bump r i n).tb = s.tb := rfl
@[simp] theorem State.bump_ports (s : State) (r : Reg) (i n : Nat) : (s.bump r i n).ports = s.ports := rfl
@[simp] theorem State.bump_mons (s : State) (r : Reg) (i n : Nat) : (s.bump r i n).mons = s.mons := rfl
@[simp] theorem State.bump_stale (s : State) (r : Reg) (i n : Nat) : (s.bump r i n).stale = s.stale := rfl
@[simp] theorem State.bump_recs (s : State) (r : Reg) (i n : Nat) : (s.bump r i n).recs = s.recs := rfl
@[simp] theorem State.bump_boot (s : State) (r : Reg) (i n : Nat) : (s.bump r i n).boot = s.boot := rfl
@[simp] theorem State.bump_pwr (s : State) (r : Reg) (i n : Nat) : (s.bump r i n).pwr = s.pwr := rfl
@[simp] theorem State.bump_time (s : State) (r : Reg) (i n : Nat) : (s.bump r i n).time = s.time := rfl
@[simp] theorem State.bump_free (s : State) (r : Reg) (i n : Nat) : (s.bump r i n).free = s.free := rfl
@[simp] theorem State.bump_tx (s : State) (r : Reg) (i n : Nat) : (s.bump r i n).tx = s.tx := rfl
@[simp] theorem State.bump_pending (s : State) (r : Reg) (i n : Nat) : (s.bump r i n).pending = s.pending := rfl

/-! ### setPwr -/

@[simp] theorem State.setPwr_shadows (s : State) (n : Nat) : (s.setPwr n).shadows = s.shadows := rfl
@[simp] theorem State.setPwr_latches (s : State) (n : Nat) : (s.setPwr n).latches = s.latches := rfl
@[simp] theorem State.setPwr_arrays (s : State) (n : Nat) : (s.setPwr n).arrays = s.arrays := rfl
@[simp] theorem State.setPwr_cores (s : State) (n : Nat) : (s.setPwr n).cores = s.cores := rfl
@[simp] theorem State.setPwr_pgmQueue (s : State) (n : Nat) : (s.setPwr n).pgmQueue = s.pgmQueue := rfl
@[simp] theorem State.setPwr_mem (s : State) (n : Nat) : (s.setPwr n).mem = s.mem := rfl
@[simp] theorem State.setPwr_host (s : State) (n : Nat) : (s.setPwr n).host = s.host := rfl
@[simp] theorem State.setPwr_poison (s : State) (n : Nat) : (s.setPwr n).poison = s.poison := rfl
@[simp] theorem State.setPwr_memCe (s : State) (n : Nat) : (s.setPwr n).memCe = s.memCe := rfl
@[simp] theorem State.setPwr_memCeAt (s : State) (n : Nat) : (s.setPwr n).memCeAt = s.memCeAt := rfl
@[simp] theorem State.setPwr_ev (s : State) (n : Nat) : (s.setPwr n).ev = s.ev := rfl
@[simp] theorem State.setPwr_reqs (s : State) (n : Nat) : (s.setPwr n).reqs = s.reqs := rfl
@[simp] theorem State.setPwr_nextReq (s : State) (n : Nat) : (s.setPwr n).nextReq = s.nextReq := rfl
@[simp] theorem State.setPwr_nextBatch (s : State) (n : Nat) : (s.setPwr n).nextBatch = s.nextBatch := rfl
@[simp] theorem State.setPwr_bound (s : State) (n : Nat) : (s.setPwr n).bound = s.bound := rfl
@[simp] theorem State.setPwr_pounds (s : State) (n : Nat) : (s.setPwr n).pounds = s.pounds := rfl
@[simp] theorem State.setPwr_queues (s : State) (n : Nat) : (s.setPwr n).queues = s.queues := rfl
@[simp] theorem State.setPwr_rrLast (s : State) (n : Nat) : (s.setPwr n).rrLast = s.rrLast := rfl
@[simp] theorem State.setPwr_expBroken (s : State) (n : Nat) : (s.setPwr n).expBroken = s.expBroken := rfl
@[simp] theorem State.setPwr_ctxs (s : State) (n : Nat) : (s.setPwr n).ctxs = s.ctxs := rfl
@[simp] theorem State.setPwr_models (s : State) (n : Nat) : (s.setPwr n).models = s.models := rfl
@[simp] theorem State.setPwr_adps (s : State) (n : Nat) : (s.setPwr n).adps = s.adps := rfl
@[simp] theorem State.setPwr_adpClock (s : State) (n : Nat) : (s.setPwr n).adpClock = s.adpClock := rfl
@[simp] theorem State.setPwr_adpGoal (s : State) (n : Nat) : (s.setPwr n).adpGoal = s.adpGoal := rfl
@[simp] theorem State.setPwr_ctrs (s : State) (n : Nat) : (s.setPwr n).ctrs = s.ctrs := rfl
@[simp] theorem State.setPwr_sweep (s : State) (n : Nat) : (s.setPwr n).sweep = s.sweep := rfl
@[simp] theorem State.setPwr_wins (s : State) (n : Nat) : (s.setPwr n).wins = s.wins := rfl
@[simp] theorem State.setPwr_net (s : State) (n : Nat) : (s.setPwr n).net = s.net := rfl
@[simp] theorem State.setPwr_tal (s : State) (n : Nat) : (s.setPwr n).tal = s.tal := rfl
@[simp] theorem State.setPwr_tb (s : State) (n : Nat) : (s.setPwr n).tb = s.tb := rfl
@[simp] theorem State.setPwr_ports (s : State) (n : Nat) : (s.setPwr n).ports = s.ports := rfl
@[simp] theorem State.setPwr_mons (s : State) (n : Nat) : (s.setPwr n).mons = s.mons := rfl
@[simp] theorem State.setPwr_stale (s : State) (n : Nat) : (s.setPwr n).stale = s.stale := rfl
@[simp] theorem State.setPwr_recs (s : State) (n : Nat) : (s.setPwr n).recs = s.recs := rfl
@[simp] theorem State.setPwr_boot (s : State) (n : Nat) : (s.setPwr n).boot = s.boot := rfl
@[simp] theorem State.setPwr_pwr (s : State) (n : Nat) : (s.setPwr n).pwr = s.pwr := rfl
@[simp] theorem State.setPwr_time (s : State) (n : Nat) : (s.setPwr n).time = s.time := rfl
@[simp] theorem State.setPwr_free (s : State) (n : Nat) : (s.setPwr n).free = s.free := rfl
@[simp] theorem State.setPwr_tx (s : State) (n : Nat) : (s.setPwr n).tx = s.tx := rfl
@[simp] theorem State.setPwr_pending (s : State) (n : Nat) : (s.setPwr n).pending = s.pending := rfl

/-! ### setCore -/

@[simp] theorem State.setCore_regs (s : State) (c : Nat) (x : Core) : (s.setCore c x).regs = s.regs := rfl
@[simp] theorem State.setCore_shadows (s : State) (c : Nat) (x : Core) : (s.setCore c x).shadows = s.shadows := rfl
@[simp] theorem State.setCore_latches (s : State) (c : Nat) (x : Core) : (s.setCore c x).latches = s.latches := rfl
@[simp] theorem State.setCore_arrays (s : State) (c : Nat) (x : Core) : (s.setCore c x).arrays = s.arrays := rfl
@[simp] theorem State.setCore_pgmQueue (s : State) (c : Nat) (x : Core) : (s.setCore c x).pgmQueue = s.pgmQueue := rfl
@[simp] theorem State.setCore_mem (s : State) (c : Nat) (x : Core) : (s.setCore c x).mem = s.mem := rfl
@[simp] theorem State.setCore_host (s : State) (c : Nat) (x : Core) : (s.setCore c x).host = s.host := rfl
@[simp] theorem State.setCore_poison (s : State) (c : Nat) (x : Core) : (s.setCore c x).poison = s.poison := rfl
@[simp] theorem State.setCore_memCe (s : State) (c : Nat) (x : Core) : (s.setCore c x).memCe = s.memCe := rfl
@[simp] theorem State.setCore_memCeAt (s : State) (c : Nat) (x : Core) : (s.setCore c x).memCeAt = s.memCeAt := rfl
@[simp] theorem State.setCore_ev (s : State) (c : Nat) (x : Core) : (s.setCore c x).ev = s.ev := rfl
@[simp] theorem State.setCore_reqs (s : State) (c : Nat) (x : Core) : (s.setCore c x).reqs = s.reqs := rfl
@[simp] theorem State.setCore_nextReq (s : State) (c : Nat) (x : Core) : (s.setCore c x).nextReq = s.nextReq := rfl
@[simp] theorem State.setCore_nextBatch (s : State) (c : Nat) (x : Core) : (s.setCore c x).nextBatch = s.nextBatch := rfl
@[simp] theorem State.setCore_bound (s : State) (c : Nat) (x : Core) : (s.setCore c x).bound = s.bound := rfl
@[simp] theorem State.setCore_pounds (s : State) (c : Nat) (x : Core) : (s.setCore c x).pounds = s.pounds := rfl
@[simp] theorem State.setCore_queues (s : State) (c : Nat) (x : Core) : (s.setCore c x).queues = s.queues := rfl
@[simp] theorem State.setCore_rrLast (s : State) (c : Nat) (x : Core) : (s.setCore c x).rrLast = s.rrLast := rfl
@[simp] theorem State.setCore_expBroken (s : State) (c : Nat) (x : Core) : (s.setCore c x).expBroken = s.expBroken := rfl
@[simp] theorem State.setCore_ctxs (s : State) (c : Nat) (x : Core) : (s.setCore c x).ctxs = s.ctxs := rfl
@[simp] theorem State.setCore_models (s : State) (c : Nat) (x : Core) : (s.setCore c x).models = s.models := rfl
@[simp] theorem State.setCore_adps (s : State) (c : Nat) (x : Core) : (s.setCore c x).adps = s.adps := rfl
@[simp] theorem State.setCore_adpClock (s : State) (c : Nat) (x : Core) : (s.setCore c x).adpClock = s.adpClock := rfl
@[simp] theorem State.setCore_adpGoal (s : State) (c : Nat) (x : Core) : (s.setCore c x).adpGoal = s.adpGoal := rfl
@[simp] theorem State.setCore_ctrs (s : State) (c : Nat) (x : Core) : (s.setCore c x).ctrs = s.ctrs := rfl
@[simp] theorem State.setCore_sweep (s : State) (c : Nat) (x : Core) : (s.setCore c x).sweep = s.sweep := rfl
@[simp] theorem State.setCore_wins (s : State) (c : Nat) (x : Core) : (s.setCore c x).wins = s.wins := rfl
@[simp] theorem State.setCore_net (s : State) (c : Nat) (x : Core) : (s.setCore c x).net = s.net := rfl
@[simp] theorem State.setCore_tal (s : State) (c : Nat) (x : Core) : (s.setCore c x).tal = s.tal := rfl
@[simp] theorem State.setCore_tb (s : State) (c : Nat) (x : Core) : (s.setCore c x).tb = s.tb := rfl
@[simp] theorem State.setCore_ports (s : State) (c : Nat) (x : Core) : (s.setCore c x).ports = s.ports := rfl
@[simp] theorem State.setCore_mons (s : State) (c : Nat) (x : Core) : (s.setCore c x).mons = s.mons := rfl
@[simp] theorem State.setCore_stale (s : State) (c : Nat) (x : Core) : (s.setCore c x).stale = s.stale := rfl
@[simp] theorem State.setCore_recs (s : State) (c : Nat) (x : Core) : (s.setCore c x).recs = s.recs := rfl
@[simp] theorem State.setCore_boot (s : State) (c : Nat) (x : Core) : (s.setCore c x).boot = s.boot := rfl
@[simp] theorem State.setCore_pwr (s : State) (c : Nat) (x : Core) : (s.setCore c x).pwr = s.pwr := rfl
@[simp] theorem State.setCore_time (s : State) (c : Nat) (x : Core) : (s.setCore c x).time = s.time := rfl
@[simp] theorem State.setCore_free (s : State) (c : Nat) (x : Core) : (s.setCore c x).free = s.free := rfl
@[simp] theorem State.setCore_tx (s : State) (c : Nat) (x : Core) : (s.setCore c x).tx = s.tx := rfl
@[simp] theorem State.setCore_pending (s : State) (c : Nat) (x : Core) : (s.setCore c x).pending = s.pending := rfl

/-! ### modCore -/

@[simp] theorem State.modCore_regs (s : State) (c : Nat) (f : Core → Core) : (s.modCore c f).regs = s.regs := rfl
@[simp] theorem State.modCore_shadows (s : State) (c : Nat) (f : Core → Core) : (s.modCore c f).shadows = s.shadows := rfl
@[simp] theorem State.modCore_latches (s : State) (c : Nat) (f : Core → Core) : (s.modCore c f).latches = s.latches := rfl
@[simp] theorem State.modCore_arrays (s : State) (c : Nat) (f : Core → Core) : (s.modCore c f).arrays = s.arrays := rfl
@[simp] theorem State.modCore_pgmQueue (s : State) (c : Nat) (f : Core → Core) : (s.modCore c f).pgmQueue = s.pgmQueue := rfl
@[simp] theorem State.modCore_mem (s : State) (c : Nat) (f : Core → Core) : (s.modCore c f).mem = s.mem := rfl
@[simp] theorem State.modCore_host (s : State) (c : Nat) (f : Core → Core) : (s.modCore c f).host = s.host := rfl
@[simp] theorem State.modCore_poison (s : State) (c : Nat) (f : Core → Core) : (s.modCore c f).poison = s.poison := rfl
@[simp] theorem State.modCore_memCe (s : State) (c : Nat) (f : Core → Core) : (s.modCore c f).memCe = s.memCe := rfl
@[simp] theorem State.modCore_memCeAt (s : State) (c : Nat) (f : Core → Core) : (s.modCore c f).memCeAt = s.memCeAt := rfl
@[simp] theorem State.modCore_ev (s : State) (c : Nat) (f : Core → Core) : (s.modCore c f).ev = s.ev := rfl
@[simp] theorem State.modCore_reqs (s : State) (c : Nat) (f : Core → Core) : (s.modCore c f).reqs = s.reqs := rfl
@[simp] theorem State.modCore_nextReq (s : State) (c : Nat) (f : Core → Core) : (s.modCore c f).nextReq = s.nextReq := rfl
@[simp] theorem State.modCore_nextBatch (s : State) (c : Nat) (f : Core → Core) : (s.modCore c f).nextBatch = s.nextBatch := rfl
@[simp] theorem State.modCore_bound (s : State) (c : Nat) (f : Core → Core) : (s.modCore c f).bound = s.bound := rfl
@[simp] theorem State.modCore_pounds (s : State) (c : Nat) (f : Core → Core) : (s.modCore c f).pounds = s.pounds := rfl
@[simp] theorem State.modCore_queues (s : State) (c : Nat) (f : Core → Core) : (s.modCore c f).queues = s.queues := rfl
@[simp] theorem State.modCore_rrLast (s : State) (c : Nat) (f : Core → Core) : (s.modCore c f).rrLast = s.rrLast := rfl
@[simp] theorem State.modCore_expBroken (s : State) (c : Nat) (f : Core → Core) : (s.modCore c f).expBroken = s.expBroken := rfl
@[simp] theorem State.modCore_ctxs (s : State) (c : Nat) (f : Core → Core) : (s.modCore c f).ctxs = s.ctxs := rfl
@[simp] theorem State.modCore_models (s : State) (c : Nat) (f : Core → Core) : (s.modCore c f).models = s.models := rfl
@[simp] theorem State.modCore_adps (s : State) (c : Nat) (f : Core → Core) : (s.modCore c f).adps = s.adps := rfl
@[simp] theorem State.modCore_adpClock (s : State) (c : Nat) (f : Core → Core) : (s.modCore c f).adpClock = s.adpClock := rfl
@[simp] theorem State.modCore_adpGoal (s : State) (c : Nat) (f : Core → Core) : (s.modCore c f).adpGoal = s.adpGoal := rfl
@[simp] theorem State.modCore_ctrs (s : State) (c : Nat) (f : Core → Core) : (s.modCore c f).ctrs = s.ctrs := rfl
@[simp] theorem State.modCore_sweep (s : State) (c : Nat) (f : Core → Core) : (s.modCore c f).sweep = s.sweep := rfl
@[simp] theorem State.modCore_wins (s : State) (c : Nat) (f : Core → Core) : (s.modCore c f).wins = s.wins := rfl
@[simp] theorem State.modCore_net (s : State) (c : Nat) (f : Core → Core) : (s.modCore c f).net = s.net := rfl
@[simp] theorem State.modCore_tal (s : State) (c : Nat) (f : Core → Core) : (s.modCore c f).tal = s.tal := rfl
@[simp] theorem State.modCore_tb (s : State) (c : Nat) (f : Core → Core) : (s.modCore c f).tb = s.tb := rfl
@[simp] theorem State.modCore_ports (s : State) (c : Nat) (f : Core → Core) : (s.modCore c f).ports = s.ports := rfl
@[simp] theorem State.modCore_mons (s : State) (c : Nat) (f : Core → Core) : (s.modCore c f).mons = s.mons := rfl
@[simp] theorem State.modCore_stale (s : State) (c : Nat) (f : Core → Core) : (s.modCore c f).stale = s.stale := rfl
@[simp] theorem State.modCore_recs (s : State) (c : Nat) (f : Core → Core) : (s.modCore c f).recs = s.recs := rfl
@[simp] theorem State.modCore_boot (s : State) (c : Nat) (f : Core → Core) : (s.modCore c f).boot = s.boot := rfl
@[simp] theorem State.modCore_pwr (s : State) (c : Nat) (f : Core → Core) : (s.modCore c f).pwr = s.pwr := rfl
@[simp] theorem State.modCore_time (s : State) (c : Nat) (f : Core → Core) : (s.modCore c f).time = s.time := rfl
@[simp] theorem State.modCore_free (s : State) (c : Nat) (f : Core → Core) : (s.modCore c f).free = s.free := rfl
@[simp] theorem State.modCore_tx (s : State) (c : Nat) (f : Core → Core) : (s.modCore c f).tx = s.tx := rfl
@[simp] theorem State.modCore_pending (s : State) (c : Nat) (f : Core → Core) : (s.modCore c f).pending = s.pending := rfl

/-! ### setArr -/

@[simp] theorem State.setArr_regs (s : State) (a : Nat) (x : Arr) : (s.setArr a x).regs = s.regs := rfl
@[simp] theorem State.setArr_shadows (s : State) (a : Nat) (x : Arr) : (s.setArr a x).shadows = s.shadows := rfl
@[simp] theorem State.setArr_latches (s : State) (a : Nat) (x : Arr) : (s.setArr a x).latches = s.latches := rfl
@[simp] theorem State.setArr_cores (s : State) (a : Nat) (x : Arr) : (s.setArr a x).cores = s.cores := rfl
@[simp] theorem State.setArr_pgmQueue (s : State) (a : Nat) (x : Arr) : (s.setArr a x).pgmQueue = s.pgmQueue := rfl
@[simp] theorem State.setArr_mem (s : State) (a : Nat) (x : Arr) : (s.setArr a x).mem = s.mem := rfl
@[simp] theorem State.setArr_host (s : State) (a : Nat) (x : Arr) : (s.setArr a x).host = s.host := rfl
@[simp] theorem State.setArr_poison (s : State) (a : Nat) (x : Arr) : (s.setArr a x).poison = s.poison := rfl
@[simp] theorem State.setArr_memCe (s : State) (a : Nat) (x : Arr) : (s.setArr a x).memCe = s.memCe := rfl
@[simp] theorem State.setArr_memCeAt (s : State) (a : Nat) (x : Arr) : (s.setArr a x).memCeAt = s.memCeAt := rfl
@[simp] theorem State.setArr_ev (s : State) (a : Nat) (x : Arr) : (s.setArr a x).ev = s.ev := rfl
@[simp] theorem State.setArr_reqs (s : State) (a : Nat) (x : Arr) : (s.setArr a x).reqs = s.reqs := rfl
@[simp] theorem State.setArr_nextReq (s : State) (a : Nat) (x : Arr) : (s.setArr a x).nextReq = s.nextReq := rfl
@[simp] theorem State.setArr_nextBatch (s : State) (a : Nat) (x : Arr) : (s.setArr a x).nextBatch = s.nextBatch := rfl
@[simp] theorem State.setArr_bound (s : State) (a : Nat) (x : Arr) : (s.setArr a x).bound = s.bound := rfl
@[simp] theorem State.setArr_pounds (s : State) (a : Nat) (x : Arr) : (s.setArr a x).pounds = s.pounds := rfl
@[simp] theorem State.setArr_queues (s : State) (a : Nat) (x : Arr) : (s.setArr a x).queues = s.queues := rfl
@[simp] theorem State.setArr_rrLast (s : State) (a : Nat) (x : Arr) : (s.setArr a x).rrLast = s.rrLast := rfl
@[simp] theorem State.setArr_expBroken (s : State) (a : Nat) (x : Arr) : (s.setArr a x).expBroken = s.expBroken := rfl
@[simp] theorem State.setArr_ctxs (s : State) (a : Nat) (x : Arr) : (s.setArr a x).ctxs = s.ctxs := rfl
@[simp] theorem State.setArr_models (s : State) (a : Nat) (x : Arr) : (s.setArr a x).models = s.models := rfl
@[simp] theorem State.setArr_adps (s : State) (a : Nat) (x : Arr) : (s.setArr a x).adps = s.adps := rfl
@[simp] theorem State.setArr_adpClock (s : State) (a : Nat) (x : Arr) : (s.setArr a x).adpClock = s.adpClock := rfl
@[simp] theorem State.setArr_adpGoal (s : State) (a : Nat) (x : Arr) : (s.setArr a x).adpGoal = s.adpGoal := rfl
@[simp] theorem State.setArr_ctrs (s : State) (a : Nat) (x : Arr) : (s.setArr a x).ctrs = s.ctrs := rfl
@[simp] theorem State.setArr_sweep (s : State) (a : Nat) (x : Arr) : (s.setArr a x).sweep = s.sweep := rfl
@[simp] theorem State.setArr_wins (s : State) (a : Nat) (x : Arr) : (s.setArr a x).wins = s.wins := rfl
@[simp] theorem State.setArr_net (s : State) (a : Nat) (x : Arr) : (s.setArr a x).net = s.net := rfl
@[simp] theorem State.setArr_tal (s : State) (a : Nat) (x : Arr) : (s.setArr a x).tal = s.tal := rfl
@[simp] theorem State.setArr_tb (s : State) (a : Nat) (x : Arr) : (s.setArr a x).tb = s.tb := rfl
@[simp] theorem State.setArr_ports (s : State) (a : Nat) (x : Arr) : (s.setArr a x).ports = s.ports := rfl
@[simp] theorem State.setArr_mons (s : State) (a : Nat) (x : Arr) : (s.setArr a x).mons = s.mons := rfl
@[simp] theorem State.setArr_stale (s : State) (a : Nat) (x : Arr) : (s.setArr a x).stale = s.stale := rfl
@[simp] theorem State.setArr_recs (s : State) (a : Nat) (x : Arr) : (s.setArr a x).recs = s.recs := rfl
@[simp] theorem State.setArr_boot (s : State) (a : Nat) (x : Arr) : (s.setArr a x).boot = s.boot := rfl
@[simp] theorem State.setArr_pwr (s : State) (a : Nat) (x : Arr) : (s.setArr a x).pwr = s.pwr := rfl
@[simp] theorem State.setArr_time (s : State) (a : Nat) (x : Arr) : (s.setArr a x).time = s.time := rfl
@[simp] theorem State.setArr_free (s : State) (a : Nat) (x : Arr) : (s.setArr a x).free = s.free := rfl
@[simp] theorem State.setArr_tx (s : State) (a : Nat) (x : Arr) : (s.setArr a x).tx = s.tx := rfl
@[simp] theorem State.setArr_pending (s : State) (a : Nat) (x : Arr) : (s.setArr a x).pending = s.pending := rfl

/-! ### modArr -/

@[simp] theorem State.modArr_regs (s : State) (a : Nat) (f : Arr → Arr) : (s.modArr a f).regs = s.regs := rfl
@[simp] theorem State.modArr_shadows (s : State) (a : Nat) (f : Arr → Arr) : (s.modArr a f).shadows = s.shadows := rfl
@[simp] theorem State.modArr_latches (s : State) (a : Nat) (f : Arr → Arr) : (s.modArr a f).latches = s.latches := rfl
@[simp] theorem State.modArr_cores (s : State) (a : Nat) (f : Arr → Arr) : (s.modArr a f).cores = s.cores := rfl
@[simp] theorem State.modArr_pgmQueue (s : State) (a : Nat) (f : Arr → Arr) : (s.modArr a f).pgmQueue = s.pgmQueue := rfl
@[simp] theorem State.modArr_mem (s : State) (a : Nat) (f : Arr → Arr) : (s.modArr a f).mem = s.mem := rfl
@[simp] theorem State.modArr_host (s : State) (a : Nat) (f : Arr → Arr) : (s.modArr a f).host = s.host := rfl
@[simp] theorem State.modArr_poison (s : State) (a : Nat) (f : Arr → Arr) : (s.modArr a f).poison = s.poison := rfl
@[simp] theorem State.modArr_memCe (s : State) (a : Nat) (f : Arr → Arr) : (s.modArr a f).memCe = s.memCe := rfl
@[simp] theorem State.modArr_memCeAt (s : State) (a : Nat) (f : Arr → Arr) : (s.modArr a f).memCeAt = s.memCeAt := rfl
@[simp] theorem State.modArr_ev (s : State) (a : Nat) (f : Arr → Arr) : (s.modArr a f).ev = s.ev := rfl
@[simp] theorem State.modArr_reqs (s : State) (a : Nat) (f : Arr → Arr) : (s.modArr a f).reqs = s.reqs := rfl
@[simp] theorem State.modArr_nextReq (s : State) (a : Nat) (f : Arr → Arr) : (s.modArr a f).nextReq = s.nextReq := rfl
@[simp] theorem State.modArr_nextBatch (s : State) (a : Nat) (f : Arr → Arr) : (s.modArr a f).nextBatch = s.nextBatch := rfl
@[simp] theorem State.modArr_bound (s : State) (a : Nat) (f : Arr → Arr) : (s.modArr a f).bound = s.bound := rfl
@[simp] theorem State.modArr_pounds (s : State) (a : Nat) (f : Arr → Arr) : (s.modArr a f).pounds = s.pounds := rfl
@[simp] theorem State.modArr_queues (s : State) (a : Nat) (f : Arr → Arr) : (s.modArr a f).queues = s.queues := rfl
@[simp] theorem State.modArr_rrLast (s : State) (a : Nat) (f : Arr → Arr) : (s.modArr a f).rrLast = s.rrLast := rfl
@[simp] theorem State.modArr_expBroken (s : State) (a : Nat) (f : Arr → Arr) : (s.modArr a f).expBroken = s.expBroken := rfl
@[simp] theorem State.modArr_ctxs (s : State) (a : Nat) (f : Arr → Arr) : (s.modArr a f).ctxs = s.ctxs := rfl
@[simp] theorem State.modArr_models (s : State) (a : Nat) (f : Arr → Arr) : (s.modArr a f).models = s.models := rfl
@[simp] theorem State.modArr_adps (s : State) (a : Nat) (f : Arr → Arr) : (s.modArr a f).adps = s.adps := rfl
@[simp] theorem State.modArr_adpClock (s : State) (a : Nat) (f : Arr → Arr) : (s.modArr a f).adpClock = s.adpClock := rfl
@[simp] theorem State.modArr_adpGoal (s : State) (a : Nat) (f : Arr → Arr) : (s.modArr a f).adpGoal = s.adpGoal := rfl
@[simp] theorem State.modArr_ctrs (s : State) (a : Nat) (f : Arr → Arr) : (s.modArr a f).ctrs = s.ctrs := rfl
@[simp] theorem State.modArr_sweep (s : State) (a : Nat) (f : Arr → Arr) : (s.modArr a f).sweep = s.sweep := rfl
@[simp] theorem State.modArr_wins (s : State) (a : Nat) (f : Arr → Arr) : (s.modArr a f).wins = s.wins := rfl
@[simp] theorem State.modArr_net (s : State) (a : Nat) (f : Arr → Arr) : (s.modArr a f).net = s.net := rfl
@[simp] theorem State.modArr_tal (s : State) (a : Nat) (f : Arr → Arr) : (s.modArr a f).tal = s.tal := rfl
@[simp] theorem State.modArr_tb (s : State) (a : Nat) (f : Arr → Arr) : (s.modArr a f).tb = s.tb := rfl
@[simp] theorem State.modArr_ports (s : State) (a : Nat) (f : Arr → Arr) : (s.modArr a f).ports = s.ports := rfl
@[simp] theorem State.modArr_mons (s : State) (a : Nat) (f : Arr → Arr) : (s.modArr a f).mons = s.mons := rfl
@[simp] theorem State.modArr_stale (s : State) (a : Nat) (f : Arr → Arr) : (s.modArr a f).stale = s.stale := rfl
@[simp] theorem State.modArr_recs (s : State) (a : Nat) (f : Arr → Arr) : (s.modArr a f).recs = s.recs := rfl
@[simp] theorem State.modArr_boot (s : State) (a : Nat) (f : Arr → Arr) : (s.modArr a f).boot = s.boot := rfl
@[simp] theorem State.modArr_pwr (s : State) (a : Nat) (f : Arr → Arr) : (s.modArr a f).pwr = s.pwr := rfl
@[simp] theorem State.modArr_time (s : State) (a : Nat) (f : Arr → Arr) : (s.modArr a f).time = s.time := rfl
@[simp] theorem State.modArr_free (s : State) (a : Nat) (f : Arr → Arr) : (s.modArr a f).free = s.free := rfl
@[simp] theorem State.modArr_tx (s : State) (a : Nat) (f : Arr → Arr) : (s.modArr a f).tx = s.tx := rfl
@[simp] theorem State.modArr_pending (s : State) (a : Nat) (f : Arr → Arr) : (s.modArr a f).pending = s.pending := rfl

/-! ### setReq -/

@[simp] theorem State.setReq_regs (s : State) (i : Nat) (x : Request) : (s.setReq i x).regs = s.regs := rfl
@[simp] theorem State.setReq_shadows (s : State) (i : Nat) (x : Request) : (s.setReq i x).shadows = s.shadows := rfl
@[simp] theorem State.setReq_latches (s : State) (i : Nat) (x : Request) : (s.setReq i x).latches = s.latches := rfl
@[simp] theorem State.setReq_arrays (s : State) (i : Nat) (x : Request) : (s.setReq i x).arrays = s.arrays := rfl
@[simp] theorem State.setReq_cores (s : State) (i : Nat) (x : Request) : (s.setReq i x).cores = s.cores := rfl
@[simp] theorem State.setReq_pgmQueue (s : State) (i : Nat) (x : Request) : (s.setReq i x).pgmQueue = s.pgmQueue := rfl
@[simp] theorem State.setReq_mem (s : State) (i : Nat) (x : Request) : (s.setReq i x).mem = s.mem := rfl
@[simp] theorem State.setReq_host (s : State) (i : Nat) (x : Request) : (s.setReq i x).host = s.host := rfl
@[simp] theorem State.setReq_poison (s : State) (i : Nat) (x : Request) : (s.setReq i x).poison = s.poison := rfl
@[simp] theorem State.setReq_memCe (s : State) (i : Nat) (x : Request) : (s.setReq i x).memCe = s.memCe := rfl
@[simp] theorem State.setReq_memCeAt (s : State) (i : Nat) (x : Request) : (s.setReq i x).memCeAt = s.memCeAt := rfl
@[simp] theorem State.setReq_ev (s : State) (i : Nat) (x : Request) : (s.setReq i x).ev = s.ev := rfl
@[simp] theorem State.setReq_nextReq (s : State) (i : Nat) (x : Request) : (s.setReq i x).nextReq = s.nextReq := rfl
@[simp] theorem State.setReq_nextBatch (s : State) (i : Nat) (x : Request) : (s.setReq i x).nextBatch = s.nextBatch := rfl
@[simp] theorem State.setReq_bound (s : State) (i : Nat) (x : Request) : (s.setReq i x).bound = s.bound := rfl
@[simp] theorem State.setReq_pounds (s : State) (i : Nat) (x : Request) : (s.setReq i x).pounds = s.pounds := rfl
@[simp] theorem State.setReq_queues (s : State) (i : Nat) (x : Request) : (s.setReq i x).queues = s.queues := rfl
@[simp] theorem State.setReq_rrLast (s : State) (i : Nat) (x : Request) : (s.setReq i x).rrLast = s.rrLast := rfl
@[simp] theorem State.setReq_expBroken (s : State) (i : Nat) (x : Request) : (s.setReq i x).expBroken = s.expBroken := rfl
@[simp] theorem State.setReq_ctxs (s : State) (i : Nat) (x : Request) : (s.setReq i x).ctxs = s.ctxs := rfl
@[simp] theorem State.setReq_models (s : State) (i : Nat) (x : Request) : (s.setReq i x).models = s.models := rfl
@[simp] theorem State.setReq_adps (s : State) (i : Nat) (x : Request) : (s.setReq i x).adps = s.adps := rfl
@[simp] theorem State.setReq_adpClock (s : State) (i : Nat) (x : Request) : (s.setReq i x).adpClock = s.adpClock := rfl
@[simp] theorem State.setReq_adpGoal (s : State) (i : Nat) (x : Request) : (s.setReq i x).adpGoal = s.adpGoal := rfl
@[simp] theorem State.setReq_ctrs (s : State) (i : Nat) (x : Request) : (s.setReq i x).ctrs = s.ctrs := rfl
@[simp] theorem State.setReq_sweep (s : State) (i : Nat) (x : Request) : (s.setReq i x).sweep = s.sweep := rfl
@[simp] theorem State.setReq_wins (s : State) (i : Nat) (x : Request) : (s.setReq i x).wins = s.wins := rfl
@[simp] theorem State.setReq_net (s : State) (i : Nat) (x : Request) : (s.setReq i x).net = s.net := rfl
@[simp] theorem State.setReq_tal (s : State) (i : Nat) (x : Request) : (s.setReq i x).tal = s.tal := rfl
@[simp] theorem State.setReq_tb (s : State) (i : Nat) (x : Request) : (s.setReq i x).tb = s.tb := rfl
@[simp] theorem State.setReq_ports (s : State) (i : Nat) (x : Request) : (s.setReq i x).ports = s.ports := rfl
@[simp] theorem State.setReq_mons (s : State) (i : Nat) (x : Request) : (s.setReq i x).mons = s.mons := rfl
@[simp] theorem State.setReq_stale (s : State) (i : Nat) (x : Request) : (s.setReq i x).stale = s.stale := rfl
@[simp] theorem State.setReq_recs (s : State) (i : Nat) (x : Request) : (s.setReq i x).recs = s.recs := rfl
@[simp] theorem State.setReq_boot (s : State) (i : Nat) (x : Request) : (s.setReq i x).boot = s.boot := rfl
@[simp] theorem State.setReq_pwr (s : State) (i : Nat) (x : Request) : (s.setReq i x).pwr = s.pwr := rfl
@[simp] theorem State.setReq_time (s : State) (i : Nat) (x : Request) : (s.setReq i x).time = s.time := rfl
@[simp] theorem State.setReq_free (s : State) (i : Nat) (x : Request) : (s.setReq i x).free = s.free := rfl
@[simp] theorem State.setReq_tx (s : State) (i : Nat) (x : Request) : (s.setReq i x).tx = s.tx := rfl
@[simp] theorem State.setReq_pending (s : State) (i : Nat) (x : Request) : (s.setReq i x).pending = s.pending := rfl

/-! ### modReq -/

@[simp] theorem State.modReq_regs (s : State) (i : Nat) (f : Request → Request) : (s.modReq i f).regs = s.regs := rfl
@[simp] theorem State.modReq_shadows (s : State) (i : Nat) (f : Request → Request) : (s.modReq i f).shadows = s.shadows := rfl
@[simp] theorem State.modReq_latches (s : State) (i : Nat) (f : Request → Request) : (s.modReq i f).latches = s.latches := rfl
@[simp] theorem State.modReq_arrays (s : State) (i : Nat) (f : Request → Request) : (s.modReq i f).arrays = s.arrays := rfl
@[simp] theorem State.modReq_cores (s : State) (i : Nat) (f : Request → Request) : (s.modReq i f).cores = s.cores := rfl
@[simp] theorem State.modReq_pgmQueue (s : State) (i : Nat) (f : Request → Request) : (s.modReq i f).pgmQueue = s.pgmQueue := rfl
@[simp] theorem State.modReq_mem (s : State) (i : Nat) (f : Request → Request) : (s.modReq i f).mem = s.mem := rfl
@[simp] theorem State.modReq_host (s : State) (i : Nat) (f : Request → Request) : (s.modReq i f).host = s.host := rfl
@[simp] theorem State.modReq_poison (s : State) (i : Nat) (f : Request → Request) : (s.modReq i f).poison = s.poison := rfl
@[simp] theorem State.modReq_memCe (s : State) (i : Nat) (f : Request → Request) : (s.modReq i f).memCe = s.memCe := rfl
@[simp] theorem State.modReq_memCeAt (s : State) (i : Nat) (f : Request → Request) : (s.modReq i f).memCeAt = s.memCeAt := rfl
@[simp] theorem State.modReq_ev (s : State) (i : Nat) (f : Request → Request) : (s.modReq i f).ev = s.ev := rfl
@[simp] theorem State.modReq_nextReq (s : State) (i : Nat) (f : Request → Request) : (s.modReq i f).nextReq = s.nextReq := rfl
@[simp] theorem State.modReq_nextBatch (s : State) (i : Nat) (f : Request → Request) : (s.modReq i f).nextBatch = s.nextBatch := rfl
@[simp] theorem State.modReq_bound (s : State) (i : Nat) (f : Request → Request) : (s.modReq i f).bound = s.bound := rfl
@[simp] theorem State.modReq_pounds (s : State) (i : Nat) (f : Request → Request) : (s.modReq i f).pounds = s.pounds := rfl
@[simp] theorem State.modReq_queues (s : State) (i : Nat) (f : Request → Request) : (s.modReq i f).queues = s.queues := rfl
@[simp] theorem State.modReq_rrLast (s : State) (i : Nat) (f : Request → Request) : (s.modReq i f).rrLast = s.rrLast := rfl
@[simp] theorem State.modReq_expBroken (s : State) (i : Nat) (f : Request → Request) : (s.modReq i f).expBroken = s.expBroken := rfl
@[simp] theorem State.modReq_ctxs (s : State) (i : Nat) (f : Request → Request) : (s.modReq i f).ctxs = s.ctxs := rfl
@[simp] theorem State.modReq_models (s : State) (i : Nat) (f : Request → Request) : (s.modReq i f).models = s.models := rfl
@[simp] theorem State.modReq_adps (s : State) (i : Nat) (f : Request → Request) : (s.modReq i f).adps = s.adps := rfl
@[simp] theorem State.modReq_adpClock (s : State) (i : Nat) (f : Request → Request) : (s.modReq i f).adpClock = s.adpClock := rfl
@[simp] theorem State.modReq_adpGoal (s : State) (i : Nat) (f : Request → Request) : (s.modReq i f).adpGoal = s.adpGoal := rfl
@[simp] theorem State.modReq_ctrs (s : State) (i : Nat) (f : Request → Request) : (s.modReq i f).ctrs = s.ctrs := rfl
@[simp] theorem State.modReq_sweep (s : State) (i : Nat) (f : Request → Request) : (s.modReq i f).sweep = s.sweep := rfl
@[simp] theorem State.modReq_wins (s : State) (i : Nat) (f : Request → Request) : (s.modReq i f).wins = s.wins := rfl
@[simp] theorem State.modReq_net (s : State) (i : Nat) (f : Request → Request) : (s.modReq i f).net = s.net := rfl
@[simp] theorem State.modReq_tal (s : State) (i : Nat) (f : Request → Request) : (s.modReq i f).tal = s.tal := rfl
@[simp] theorem State.modReq_tb (s : State) (i : Nat) (f : Request → Request) : (s.modReq i f).tb = s.tb := rfl
@[simp] theorem State.modReq_ports (s : State) (i : Nat) (f : Request → Request) : (s.modReq i f).ports = s.ports := rfl
@[simp] theorem State.modReq_mons (s : State) (i : Nat) (f : Request → Request) : (s.modReq i f).mons = s.mons := rfl
@[simp] theorem State.modReq_stale (s : State) (i : Nat) (f : Request → Request) : (s.modReq i f).stale = s.stale := rfl
@[simp] theorem State.modReq_recs (s : State) (i : Nat) (f : Request → Request) : (s.modReq i f).recs = s.recs := rfl
@[simp] theorem State.modReq_boot (s : State) (i : Nat) (f : Request → Request) : (s.modReq i f).boot = s.boot := rfl
@[simp] theorem State.modReq_pwr (s : State) (i : Nat) (f : Request → Request) : (s.modReq i f).pwr = s.pwr := rfl
@[simp] theorem State.modReq_time (s : State) (i : Nat) (f : Request → Request) : (s.modReq i f).time = s.time := rfl
@[simp] theorem State.modReq_free (s : State) (i : Nat) (f : Request → Request) : (s.modReq i f).free = s.free := rfl
@[simp] theorem State.modReq_tx (s : State) (i : Nat) (f : Request → Request) : (s.modReq i f).tx = s.tx := rfl
@[simp] theorem State.modReq_pending (s : State) (i : Nat) (f : Request → Request) : (s.modReq i f).pending = s.pending := rfl

/-! ### setPound -/

@[simp] theorem State.setPound_regs (s : State) (p : Nat) (x : Pound) : (s.setPound p x).regs = s.regs := rfl
@[simp] theorem State.setPound_shadows (s : State) (p : Nat) (x : Pound) : (s.setPound p x).shadows = s.shadows := rfl
@[simp] theorem State.setPound_latches (s : State) (p : Nat) (x : Pound) : (s.setPound p x).latches = s.latches := rfl
@[simp] theorem State.setPound_arrays (s : State) (p : Nat) (x : Pound) : (s.setPound p x).arrays = s.arrays := rfl
@[simp] theorem State.setPound_cores (s : State) (p : Nat) (x : Pound) : (s.setPound p x).cores = s.cores := rfl
@[simp] theorem State.setPound_pgmQueue (s : State) (p : Nat) (x : Pound) : (s.setPound p x).pgmQueue = s.pgmQueue := rfl
@[simp] theorem State.setPound_mem (s : State) (p : Nat) (x : Pound) : (s.setPound p x).mem = s.mem := rfl
@[simp] theorem State.setPound_host (s : State) (p : Nat) (x : Pound) : (s.setPound p x).host = s.host := rfl
@[simp] theorem State.setPound_poison (s : State) (p : Nat) (x : Pound) : (s.setPound p x).poison = s.poison := rfl
@[simp] theorem State.setPound_memCe (s : State) (p : Nat) (x : Pound) : (s.setPound p x).memCe = s.memCe := rfl
@[simp] theorem State.setPound_memCeAt (s : State) (p : Nat) (x : Pound) : (s.setPound p x).memCeAt = s.memCeAt := rfl
@[simp] theorem State.setPound_ev (s : State) (p : Nat) (x : Pound) : (s.setPound p x).ev = s.ev := rfl
@[simp] theorem State.setPound_reqs (s : State) (p : Nat) (x : Pound) : (s.setPound p x).reqs = s.reqs := rfl
@[simp] theorem State.setPound_nextReq (s : State) (p : Nat) (x : Pound) : (s.setPound p x).nextReq = s.nextReq := rfl
@[simp] theorem State.setPound_nextBatch (s : State) (p : Nat) (x : Pound) : (s.setPound p x).nextBatch = s.nextBatch := rfl
@[simp] theorem State.setPound_bound (s : State) (p : Nat) (x : Pound) : (s.setPound p x).bound = s.bound := rfl
@[simp] theorem State.setPound_queues (s : State) (p : Nat) (x : Pound) : (s.setPound p x).queues = s.queues := rfl
@[simp] theorem State.setPound_rrLast (s : State) (p : Nat) (x : Pound) : (s.setPound p x).rrLast = s.rrLast := rfl
@[simp] theorem State.setPound_expBroken (s : State) (p : Nat) (x : Pound) : (s.setPound p x).expBroken = s.expBroken := rfl
@[simp] theorem State.setPound_ctxs (s : State) (p : Nat) (x : Pound) : (s.setPound p x).ctxs = s.ctxs := rfl
@[simp] theorem State.setPound_models (s : State) (p : Nat) (x : Pound) : (s.setPound p x).models = s.models := rfl
@[simp] theorem State.setPound_adps (s : State) (p : Nat) (x : Pound) : (s.setPound p x).adps = s.adps := rfl
@[simp] theorem State.setPound_adpClock (s : State) (p : Nat) (x : Pound) : (s.setPound p x).adpClock = s.adpClock := rfl
@[simp] theorem State.setPound_adpGoal (s : State) (p : Nat) (x : Pound) : (s.setPound p x).adpGoal = s.adpGoal := rfl
@[simp] theorem State.setPound_ctrs (s : State) (p : Nat) (x : Pound) : (s.setPound p x).ctrs = s.ctrs := rfl
@[simp] theorem State.setPound_sweep (s : State) (p : Nat) (x : Pound) : (s.setPound p x).sweep = s.sweep := rfl
@[simp] theorem State.setPound_wins (s : State) (p : Nat) (x : Pound) : (s.setPound p x).wins = s.wins := rfl
@[simp] theorem State.setPound_net (s : State) (p : Nat) (x : Pound) : (s.setPound p x).net = s.net := rfl
@[simp] theorem State.setPound_tal (s : State) (p : Nat) (x : Pound) : (s.setPound p x).tal = s.tal := rfl
@[simp] theorem State.setPound_tb (s : State) (p : Nat) (x : Pound) : (s.setPound p x).tb = s.tb := rfl
@[simp] theorem State.setPound_ports (s : State) (p : Nat) (x : Pound) : (s.setPound p x).ports = s.ports := rfl
@[simp] theorem State.setPound_mons (s : State) (p : Nat) (x : Pound) : (s.setPound p x).mons = s.mons := rfl
@[simp] theorem State.setPound_stale (s : State) (p : Nat) (x : Pound) : (s.setPound p x).stale = s.stale := rfl
@[simp] theorem State.setPound_recs (s : State) (p : Nat) (x : Pound) : (s.setPound p x).recs = s.recs := rfl
@[simp] theorem State.setPound_boot (s : State) (p : Nat) (x : Pound) : (s.setPound p x).boot = s.boot := rfl
@[simp] theorem State.setPound_pwr (s : State) (p : Nat) (x : Pound) : (s.setPound p x).pwr = s.pwr := rfl
@[simp] theorem State.setPound_time (s : State) (p : Nat) (x : Pound) : (s.setPound p x).time = s.time := rfl
@[simp] theorem State.setPound_free (s : State) (p : Nat) (x : Pound) : (s.setPound p x).free = s.free := rfl
@[simp] theorem State.setPound_tx (s : State) (p : Nat) (x : Pound) : (s.setPound p x).tx = s.tx := rfl
@[simp] theorem State.setPound_pending (s : State) (p : Nat) (x : Pound) : (s.setPound p x).pending = s.pending := rfl

/-! ### modPound -/

@[simp] theorem State.modPound_regs (s : State) (p : Nat) (f : Pound → Pound) : (s.modPound p f).regs = s.regs := rfl
@[simp] theorem State.modPound_shadows (s : State) (p : Nat) (f : Pound → Pound) : (s.modPound p f).shadows = s.shadows := rfl
@[simp] theorem State.modPound_latches (s : State) (p : Nat) (f : Pound → Pound) : (s.modPound p f).latches = s.latches := rfl
@[simp] theorem State.modPound_arrays (s : State) (p : Nat) (f : Pound → Pound) : (s.modPound p f).arrays = s.arrays := rfl
@[simp] theorem State.modPound_cores (s : State) (p : Nat) (f : Pound → Pound) : (s.modPound p f).cores = s.cores := rfl
@[simp] theorem State.modPound_pgmQueue (s : State) (p : Nat) (f : Pound → Pound) : (s.modPound p f).pgmQueue = s.pgmQueue := rfl
@[simp] theorem State.modPound_mem (s : State) (p : Nat) (f : Pound → Pound) : (s.modPound p f).mem = s.mem := rfl
@[simp] theorem State.modPound_host (s : State) (p : Nat) (f : Pound → Pound) : (s.modPound p f).host = s.host := rfl
@[simp] theorem State.modPound_poison (s : State) (p : Nat) (f : Pound → Pound) : (s.modPound p f).poison = s.poison := rfl
@[simp] theorem State.modPound_memCe (s : State) (p : Nat) (f : Pound → Pound) : (s.modPound p f).memCe = s.memCe := rfl
@[simp] theorem State.modPound_memCeAt (s : State) (p : Nat) (f : Pound → Pound) : (s.modPound p f).memCeAt = s.memCeAt := rfl
@[simp] theorem State.modPound_ev (s : State) (p : Nat) (f : Pound → Pound) : (s.modPound p f).ev = s.ev := rfl
@[simp] theorem State.modPound_reqs (s : State) (p : Nat) (f : Pound → Pound) : (s.modPound p f).reqs = s.reqs := rfl
@[simp] theorem State.modPound_nextReq (s : State) (p : Nat) (f : Pound → Pound) : (s.modPound p f).nextReq = s.nextReq := rfl
@[simp] theorem State.modPound_nextBatch (s : State) (p : Nat) (f : Pound → Pound) : (s.modPound p f).nextBatch = s.nextBatch := rfl
@[simp] theorem State.modPound_bound (s : State) (p : Nat) (f : Pound → Pound) : (s.modPound p f).bound = s.bound := rfl
@[simp] theorem State.modPound_queues (s : State) (p : Nat) (f : Pound → Pound) : (s.modPound p f).queues = s.queues := rfl
@[simp] theorem State.modPound_rrLast (s : State) (p : Nat) (f : Pound → Pound) : (s.modPound p f).rrLast = s.rrLast := rfl
@[simp] theorem State.modPound_expBroken (s : State) (p : Nat) (f : Pound → Pound) : (s.modPound p f).expBroken = s.expBroken := rfl
@[simp] theorem State.modPound_ctxs (s : State) (p : Nat) (f : Pound → Pound) : (s.modPound p f).ctxs = s.ctxs := rfl
@[simp] theorem State.modPound_models (s : State) (p : Nat) (f : Pound → Pound) : (s.modPound p f).models = s.models := rfl
@[simp] theorem State.modPound_adps (s : State) (p : Nat) (f : Pound → Pound) : (s.modPound p f).adps = s.adps := rfl
@[simp] theorem State.modPound_adpClock (s : State) (p : Nat) (f : Pound → Pound) : (s.modPound p f).adpClock = s.adpClock := rfl
@[simp] theorem State.modPound_adpGoal (s : State) (p : Nat) (f : Pound → Pound) : (s.modPound p f).adpGoal = s.adpGoal := rfl
@[simp] theorem State.modPound_ctrs (s : State) (p : Nat) (f : Pound → Pound) : (s.modPound p f).ctrs = s.ctrs := rfl
@[simp] theorem State.modPound_sweep (s : State) (p : Nat) (f : Pound → Pound) : (s.modPound p f).sweep = s.sweep := rfl
@[simp] theorem State.modPound_wins (s : State) (p : Nat) (f : Pound → Pound) : (s.modPound p f).wins = s.wins := rfl
@[simp] theorem State.modPound_net (s : State) (p : Nat) (f : Pound → Pound) : (s.modPound p f).net = s.net := rfl
@[simp] theorem State.modPound_tal (s : State) (p : Nat) (f : Pound → Pound) : (s.modPound p f).tal = s.tal := rfl
@[simp] theorem State.modPound_tb (s : State) (p : Nat) (f : Pound → Pound) : (s.modPound p f).tb = s.tb := rfl
@[simp] theorem State.modPound_ports (s : State) (p : Nat) (f : Pound → Pound) : (s.modPound p f).ports = s.ports := rfl
@[simp] theorem State.modPound_mons (s : State) (p : Nat) (f : Pound → Pound) : (s.modPound p f).mons = s.mons := rfl
@[simp] theorem State.modPound_stale (s : State) (p : Nat) (f : Pound → Pound) : (s.modPound p f).stale = s.stale := rfl
@[simp] theorem State.modPound_recs (s : State) (p : Nat) (f : Pound → Pound) : (s.modPound p f).recs = s.recs := rfl
@[simp] theorem State.modPound_boot (s : State) (p : Nat) (f : Pound → Pound) : (s.modPound p f).boot = s.boot := rfl
@[simp] theorem State.modPound_pwr (s : State) (p : Nat) (f : Pound → Pound) : (s.modPound p f).pwr = s.pwr := rfl
@[simp] theorem State.modPound_time (s : State) (p : Nat) (f : Pound → Pound) : (s.modPound p f).time = s.time := rfl
@[simp] theorem State.modPound_free (s : State) (p : Nat) (f : Pound → Pound) : (s.modPound p f).free = s.free := rfl
@[simp] theorem State.modPound_tx (s : State) (p : Nat) (f : Pound → Pound) : (s.modPound p f).tx = s.tx := rfl
@[simp] theorem State.modPound_pending (s : State) (p : Nat) (f : Pound → Pound) : (s.modPound p f).pending = s.pending := rfl

/-! ### setQueue -/

@[simp] theorem State.setQueue_regs (s : State) (q : Nat) (x : Queue) : (s.setQueue q x).regs = s.regs := rfl
@[simp] theorem State.setQueue_shadows (s : State) (q : Nat) (x : Queue) : (s.setQueue q x).shadows = s.shadows := rfl
@[simp] theorem State.setQueue_latches (s : State) (q : Nat) (x : Queue) : (s.setQueue q x).latches = s.latches := rfl
@[simp] theorem State.setQueue_arrays (s : State) (q : Nat) (x : Queue) : (s.setQueue q x).arrays = s.arrays := rfl
@[simp] theorem State.setQueue_cores (s : State) (q : Nat) (x : Queue) : (s.setQueue q x).cores = s.cores := rfl
@[simp] theorem State.setQueue_pgmQueue (s : State) (q : Nat) (x : Queue) : (s.setQueue q x).pgmQueue = s.pgmQueue := rfl
@[simp] theorem State.setQueue_mem (s : State) (q : Nat) (x : Queue) : (s.setQueue q x).mem = s.mem := rfl
@[simp] theorem State.setQueue_host (s : State) (q : Nat) (x : Queue) : (s.setQueue q x).host = s.host := rfl
@[simp] theorem State.setQueue_poison (s : State) (q : Nat) (x : Queue) : (s.setQueue q x).poison = s.poison := rfl
@[simp] theorem State.setQueue_memCe (s : State) (q : Nat) (x : Queue) : (s.setQueue q x).memCe = s.memCe := rfl
@[simp] theorem State.setQueue_memCeAt (s : State) (q : Nat) (x : Queue) : (s.setQueue q x).memCeAt = s.memCeAt := rfl
@[simp] theorem State.setQueue_ev (s : State) (q : Nat) (x : Queue) : (s.setQueue q x).ev = s.ev := rfl
@[simp] theorem State.setQueue_reqs (s : State) (q : Nat) (x : Queue) : (s.setQueue q x).reqs = s.reqs := rfl
@[simp] theorem State.setQueue_nextReq (s : State) (q : Nat) (x : Queue) : (s.setQueue q x).nextReq = s.nextReq := rfl
@[simp] theorem State.setQueue_nextBatch (s : State) (q : Nat) (x : Queue) : (s.setQueue q x).nextBatch = s.nextBatch := rfl
@[simp] theorem State.setQueue_bound (s : State) (q : Nat) (x : Queue) : (s.setQueue q x).bound = s.bound := rfl
@[simp] theorem State.setQueue_pounds (s : State) (q : Nat) (x : Queue) : (s.setQueue q x).pounds = s.pounds := rfl
@[simp] theorem State.setQueue_rrLast (s : State) (q : Nat) (x : Queue) : (s.setQueue q x).rrLast = s.rrLast := rfl
@[simp] theorem State.setQueue_expBroken (s : State) (q : Nat) (x : Queue) : (s.setQueue q x).expBroken = s.expBroken := rfl
@[simp] theorem State.setQueue_ctxs (s : State) (q : Nat) (x : Queue) : (s.setQueue q x).ctxs = s.ctxs := rfl
@[simp] theorem State.setQueue_models (s : State) (q : Nat) (x : Queue) : (s.setQueue q x).models = s.models := rfl
@[simp] theorem State.setQueue_adps (s : State) (q : Nat) (x : Queue) : (s.setQueue q x).adps = s.adps := rfl
@[simp] theorem State.setQueue_adpClock (s : State) (q : Nat) (x : Queue) : (s.setQueue q x).adpClock = s.adpClock := rfl
@[simp] theorem State.setQueue_adpGoal (s : State) (q : Nat) (x : Queue) : (s.setQueue q x).adpGoal = s.adpGoal := rfl
@[simp] theorem State.setQueue_ctrs (s : State) (q : Nat) (x : Queue) : (s.setQueue q x).ctrs = s.ctrs := rfl
@[simp] theorem State.setQueue_sweep (s : State) (q : Nat) (x : Queue) : (s.setQueue q x).sweep = s.sweep := rfl
@[simp] theorem State.setQueue_wins (s : State) (q : Nat) (x : Queue) : (s.setQueue q x).wins = s.wins := rfl
@[simp] theorem State.setQueue_net (s : State) (q : Nat) (x : Queue) : (s.setQueue q x).net = s.net := rfl
@[simp] theorem State.setQueue_tal (s : State) (q : Nat) (x : Queue) : (s.setQueue q x).tal = s.tal := rfl
@[simp] theorem State.setQueue_tb (s : State) (q : Nat) (x : Queue) : (s.setQueue q x).tb = s.tb := rfl
@[simp] theorem State.setQueue_ports (s : State) (q : Nat) (x : Queue) : (s.setQueue q x).ports = s.ports := rfl
@[simp] theorem State.setQueue_mons (s : State) (q : Nat) (x : Queue) : (s.setQueue q x).mons = s.mons := rfl
@[simp] theorem State.setQueue_stale (s : State) (q : Nat) (x : Queue) : (s.setQueue q x).stale = s.stale := rfl
@[simp] theorem State.setQueue_recs (s : State) (q : Nat) (x : Queue) : (s.setQueue q x).recs = s.recs := rfl
@[simp] theorem State.setQueue_boot (s : State) (q : Nat) (x : Queue) : (s.setQueue q x).boot = s.boot := rfl
@[simp] theorem State.setQueue_pwr (s : State) (q : Nat) (x : Queue) : (s.setQueue q x).pwr = s.pwr := rfl
@[simp] theorem State.setQueue_time (s : State) (q : Nat) (x : Queue) : (s.setQueue q x).time = s.time := rfl
@[simp] theorem State.setQueue_free (s : State) (q : Nat) (x : Queue) : (s.setQueue q x).free = s.free := rfl
@[simp] theorem State.setQueue_tx (s : State) (q : Nat) (x : Queue) : (s.setQueue q x).tx = s.tx := rfl
@[simp] theorem State.setQueue_pending (s : State) (q : Nat) (x : Queue) : (s.setQueue q x).pending = s.pending := rfl

/-! ### modQueue -/

@[simp] theorem State.modQueue_regs (s : State) (q : Nat) (f : Queue → Queue) : (s.modQueue q f).regs = s.regs := rfl
@[simp] theorem State.modQueue_shadows (s : State) (q : Nat) (f : Queue → Queue) : (s.modQueue q f).shadows = s.shadows := rfl
@[simp] theorem State.modQueue_latches (s : State) (q : Nat) (f : Queue → Queue) : (s.modQueue q f).latches = s.latches := rfl
@[simp] theorem State.modQueue_arrays (s : State) (q : Nat) (f : Queue → Queue) : (s.modQueue q f).arrays = s.arrays := rfl
@[simp] theorem State.modQueue_cores (s : State) (q : Nat) (f : Queue → Queue) : (s.modQueue q f).cores = s.cores := rfl
@[simp] theorem State.modQueue_pgmQueue (s : State) (q : Nat) (f : Queue → Queue) : (s.modQueue q f).pgmQueue = s.pgmQueue := rfl
@[simp] theorem State.modQueue_mem (s : State) (q : Nat) (f : Queue → Queue) : (s.modQueue q f).mem = s.mem := rfl
@[simp] theorem State.modQueue_host (s : State) (q : Nat) (f : Queue → Queue) : (s.modQueue q f).host = s.host := rfl
@[simp] theorem State.modQueue_poison (s : State) (q : Nat) (f : Queue → Queue) : (s.modQueue q f).poison = s.poison := rfl
@[simp] theorem State.modQueue_memCe (s : State) (q : Nat) (f : Queue → Queue) : (s.modQueue q f).memCe = s.memCe := rfl
@[simp] theorem State.modQueue_memCeAt (s : State) (q : Nat) (f : Queue → Queue) : (s.modQueue q f).memCeAt = s.memCeAt := rfl
@[simp] theorem State.modQueue_ev (s : State) (q : Nat) (f : Queue → Queue) : (s.modQueue q f).ev = s.ev := rfl
@[simp] theorem State.modQueue_reqs (s : State) (q : Nat) (f : Queue → Queue) : (s.modQueue q f).reqs = s.reqs := rfl
@[simp] theorem State.modQueue_nextReq (s : State) (q : Nat) (f : Queue → Queue) : (s.modQueue q f).nextReq = s.nextReq := rfl
@[simp] theorem State.modQueue_nextBatch (s : State) (q : Nat) (f : Queue → Queue) : (s.modQueue q f).nextBatch = s.nextBatch := rfl
@[simp] theorem State.modQueue_bound (s : State) (q : Nat) (f : Queue → Queue) : (s.modQueue q f).bound = s.bound := rfl
@[simp] theorem State.modQueue_pounds (s : State) (q : Nat) (f : Queue → Queue) : (s.modQueue q f).pounds = s.pounds := rfl
@[simp] theorem State.modQueue_rrLast (s : State) (q : Nat) (f : Queue → Queue) : (s.modQueue q f).rrLast = s.rrLast := rfl
@[simp] theorem State.modQueue_expBroken (s : State) (q : Nat) (f : Queue → Queue) : (s.modQueue q f).expBroken = s.expBroken := rfl
@[simp] theorem State.modQueue_ctxs (s : State) (q : Nat) (f : Queue → Queue) : (s.modQueue q f).ctxs = s.ctxs := rfl
@[simp] theorem State.modQueue_models (s : State) (q : Nat) (f : Queue → Queue) : (s.modQueue q f).models = s.models := rfl
@[simp] theorem State.modQueue_adps (s : State) (q : Nat) (f : Queue → Queue) : (s.modQueue q f).adps = s.adps := rfl
@[simp] theorem State.modQueue_adpClock (s : State) (q : Nat) (f : Queue → Queue) : (s.modQueue q f).adpClock = s.adpClock := rfl
@[simp] theorem State.modQueue_adpGoal (s : State) (q : Nat) (f : Queue → Queue) : (s.modQueue q f).adpGoal = s.adpGoal := rfl
@[simp] theorem State.modQueue_ctrs (s : State) (q : Nat) (f : Queue → Queue) : (s.modQueue q f).ctrs = s.ctrs := rfl
@[simp] theorem State.modQueue_sweep (s : State) (q : Nat) (f : Queue → Queue) : (s.modQueue q f).sweep = s.sweep := rfl
@[simp] theorem State.modQueue_wins (s : State) (q : Nat) (f : Queue → Queue) : (s.modQueue q f).wins = s.wins := rfl
@[simp] theorem State.modQueue_net (s : State) (q : Nat) (f : Queue → Queue) : (s.modQueue q f).net = s.net := rfl
@[simp] theorem State.modQueue_tal (s : State) (q : Nat) (f : Queue → Queue) : (s.modQueue q f).tal = s.tal := rfl
@[simp] theorem State.modQueue_tb (s : State) (q : Nat) (f : Queue → Queue) : (s.modQueue q f).tb = s.tb := rfl
@[simp] theorem State.modQueue_ports (s : State) (q : Nat) (f : Queue → Queue) : (s.modQueue q f).ports = s.ports := rfl
@[simp] theorem State.modQueue_mons (s : State) (q : Nat) (f : Queue → Queue) : (s.modQueue q f).mons = s.mons := rfl
@[simp] theorem State.modQueue_stale (s : State) (q : Nat) (f : Queue → Queue) : (s.modQueue q f).stale = s.stale := rfl
@[simp] theorem State.modQueue_recs (s : State) (q : Nat) (f : Queue → Queue) : (s.modQueue q f).recs = s.recs := rfl
@[simp] theorem State.modQueue_boot (s : State) (q : Nat) (f : Queue → Queue) : (s.modQueue q f).boot = s.boot := rfl
@[simp] theorem State.modQueue_pwr (s : State) (q : Nat) (f : Queue → Queue) : (s.modQueue q f).pwr = s.pwr := rfl
@[simp] theorem State.modQueue_time (s : State) (q : Nat) (f : Queue → Queue) : (s.modQueue q f).time = s.time := rfl
@[simp] theorem State.modQueue_free (s : State) (q : Nat) (f : Queue → Queue) : (s.modQueue q f).free = s.free := rfl
@[simp] theorem State.modQueue_tx (s : State) (q : Nat) (f : Queue → Queue) : (s.modQueue q f).tx = s.tx := rfl
@[simp] theorem State.modQueue_pending (s : State) (q : Nat) (f : Queue → Queue) : (s.modQueue q f).pending = s.pending := rfl

/-! ### setModel -/

@[simp] theorem State.setModel_regs (s : State) (m : Nat) (x : Model) : (s.setModel m x).regs = s.regs := rfl
@[simp] theorem State.setModel_shadows (s : State) (m : Nat) (x : Model) : (s.setModel m x).shadows = s.shadows := rfl
@[simp] theorem State.setModel_latches (s : State) (m : Nat) (x : Model) : (s.setModel m x).latches = s.latches := rfl
@[simp] theorem State.setModel_arrays (s : State) (m : Nat) (x : Model) : (s.setModel m x).arrays = s.arrays := rfl
@[simp] theorem State.setModel_cores (s : State) (m : Nat) (x : Model) : (s.setModel m x).cores = s.cores := rfl
@[simp] theorem State.setModel_pgmQueue (s : State) (m : Nat) (x : Model) : (s.setModel m x).pgmQueue = s.pgmQueue := rfl
@[simp] theorem State.setModel_mem (s : State) (m : Nat) (x : Model) : (s.setModel m x).mem = s.mem := rfl
@[simp] theorem State.setModel_host (s : State) (m : Nat) (x : Model) : (s.setModel m x).host = s.host := rfl
@[simp] theorem State.setModel_poison (s : State) (m : Nat) (x : Model) : (s.setModel m x).poison = s.poison := rfl
@[simp] theorem State.setModel_memCe (s : State) (m : Nat) (x : Model) : (s.setModel m x).memCe = s.memCe := rfl
@[simp] theorem State.setModel_memCeAt (s : State) (m : Nat) (x : Model) : (s.setModel m x).memCeAt = s.memCeAt := rfl
@[simp] theorem State.setModel_ev (s : State) (m : Nat) (x : Model) : (s.setModel m x).ev = s.ev := rfl
@[simp] theorem State.setModel_reqs (s : State) (m : Nat) (x : Model) : (s.setModel m x).reqs = s.reqs := rfl
@[simp] theorem State.setModel_nextReq (s : State) (m : Nat) (x : Model) : (s.setModel m x).nextReq = s.nextReq := rfl
@[simp] theorem State.setModel_nextBatch (s : State) (m : Nat) (x : Model) : (s.setModel m x).nextBatch = s.nextBatch := rfl
@[simp] theorem State.setModel_bound (s : State) (m : Nat) (x : Model) : (s.setModel m x).bound = s.bound := rfl
@[simp] theorem State.setModel_pounds (s : State) (m : Nat) (x : Model) : (s.setModel m x).pounds = s.pounds := rfl
@[simp] theorem State.setModel_queues (s : State) (m : Nat) (x : Model) : (s.setModel m x).queues = s.queues := rfl
@[simp] theorem State.setModel_rrLast (s : State) (m : Nat) (x : Model) : (s.setModel m x).rrLast = s.rrLast := rfl
@[simp] theorem State.setModel_expBroken (s : State) (m : Nat) (x : Model) : (s.setModel m x).expBroken = s.expBroken := rfl
@[simp] theorem State.setModel_ctxs (s : State) (m : Nat) (x : Model) : (s.setModel m x).ctxs = s.ctxs := rfl
@[simp] theorem State.setModel_adps (s : State) (m : Nat) (x : Model) : (s.setModel m x).adps = s.adps := rfl
@[simp] theorem State.setModel_adpClock (s : State) (m : Nat) (x : Model) : (s.setModel m x).adpClock = s.adpClock := rfl
@[simp] theorem State.setModel_adpGoal (s : State) (m : Nat) (x : Model) : (s.setModel m x).adpGoal = s.adpGoal := rfl
@[simp] theorem State.setModel_ctrs (s : State) (m : Nat) (x : Model) : (s.setModel m x).ctrs = s.ctrs := rfl
@[simp] theorem State.setModel_sweep (s : State) (m : Nat) (x : Model) : (s.setModel m x).sweep = s.sweep := rfl
@[simp] theorem State.setModel_wins (s : State) (m : Nat) (x : Model) : (s.setModel m x).wins = s.wins := rfl
@[simp] theorem State.setModel_net (s : State) (m : Nat) (x : Model) : (s.setModel m x).net = s.net := rfl
@[simp] theorem State.setModel_tal (s : State) (m : Nat) (x : Model) : (s.setModel m x).tal = s.tal := rfl
@[simp] theorem State.setModel_tb (s : State) (m : Nat) (x : Model) : (s.setModel m x).tb = s.tb := rfl
@[simp] theorem State.setModel_ports (s : State) (m : Nat) (x : Model) : (s.setModel m x).ports = s.ports := rfl
@[simp] theorem State.setModel_mons (s : State) (m : Nat) (x : Model) : (s.setModel m x).mons = s.mons := rfl
@[simp] theorem State.setModel_stale (s : State) (m : Nat) (x : Model) : (s.setModel m x).stale = s.stale := rfl
@[simp] theorem State.setModel_recs (s : State) (m : Nat) (x : Model) : (s.setModel m x).recs = s.recs := rfl
@[simp] theorem State.setModel_boot (s : State) (m : Nat) (x : Model) : (s.setModel m x).boot = s.boot := rfl
@[simp] theorem State.setModel_pwr (s : State) (m : Nat) (x : Model) : (s.setModel m x).pwr = s.pwr := rfl
@[simp] theorem State.setModel_time (s : State) (m : Nat) (x : Model) : (s.setModel m x).time = s.time := rfl
@[simp] theorem State.setModel_free (s : State) (m : Nat) (x : Model) : (s.setModel m x).free = s.free := rfl
@[simp] theorem State.setModel_tx (s : State) (m : Nat) (x : Model) : (s.setModel m x).tx = s.tx := rfl
@[simp] theorem State.setModel_pending (s : State) (m : Nat) (x : Model) : (s.setModel m x).pending = s.pending := rfl

/-! ### modModel -/

@[simp] theorem State.modModel_regs (s : State) (m : Nat) (f : Model → Model) : (s.modModel m f).regs = s.regs := rfl
@[simp] theorem State.modModel_shadows (s : State) (m : Nat) (f : Model → Model) : (s.modModel m f).shadows = s.shadows := rfl
@[simp] theorem State.modModel_latches (s : State) (m : Nat) (f : Model → Model) : (s.modModel m f).latches = s.latches := rfl
@[simp] theorem State.modModel_arrays (s : State) (m : Nat) (f : Model → Model) : (s.modModel m f).arrays = s.arrays := rfl
@[simp] theorem State.modModel_cores (s : State) (m : Nat) (f : Model → Model) : (s.modModel m f).cores = s.cores := rfl
@[simp] theorem State.modModel_pgmQueue (s : State) (m : Nat) (f : Model → Model) : (s.modModel m f).pgmQueue = s.pgmQueue := rfl
@[simp] theorem State.modModel_mem (s : State) (m : Nat) (f : Model → Model) : (s.modModel m f).mem = s.mem := rfl
@[simp] theorem State.modModel_host (s : State) (m : Nat) (f : Model → Model) : (s.modModel m f).host = s.host := rfl
@[simp] theorem State.modModel_poison (s : State) (m : Nat) (f : Model → Model) : (s.modModel m f).poison = s.poison := rfl
@[simp] theorem State.modModel_memCe (s : State) (m : Nat) (f : Model → Model) : (s.modModel m f).memCe = s.memCe := rfl
@[simp] theorem State.modModel_memCeAt (s : State) (m : Nat) (f : Model → Model) : (s.modModel m f).memCeAt = s.memCeAt := rfl
@[simp] theorem State.modModel_ev (s : State) (m : Nat) (f : Model → Model) : (s.modModel m f).ev = s.ev := rfl
@[simp] theorem State.modModel_reqs (s : State) (m : Nat) (f : Model → Model) : (s.modModel m f).reqs = s.reqs := rfl
@[simp] theorem State.modModel_nextReq (s : State) (m : Nat) (f : Model → Model) : (s.modModel m f).nextReq = s.nextReq := rfl
@[simp] theorem State.modModel_nextBatch (s : State) (m : Nat) (f : Model → Model) : (s.modModel m f).nextBatch = s.nextBatch := rfl
@[simp] theorem State.modModel_bound (s : State) (m : Nat) (f : Model → Model) : (s.modModel m f).bound = s.bound := rfl
@[simp] theorem State.modModel_pounds (s : State) (m : Nat) (f : Model → Model) : (s.modModel m f).pounds = s.pounds := rfl
@[simp] theorem State.modModel_queues (s : State) (m : Nat) (f : Model → Model) : (s.modModel m f).queues = s.queues := rfl
@[simp] theorem State.modModel_rrLast (s : State) (m : Nat) (f : Model → Model) : (s.modModel m f).rrLast = s.rrLast := rfl
@[simp] theorem State.modModel_expBroken (s : State) (m : Nat) (f : Model → Model) : (s.modModel m f).expBroken = s.expBroken := rfl
@[simp] theorem State.modModel_ctxs (s : State) (m : Nat) (f : Model → Model) : (s.modModel m f).ctxs = s.ctxs := rfl
@[simp] theorem State.modModel_adps (s : State) (m : Nat) (f : Model → Model) : (s.modModel m f).adps = s.adps := rfl
@[simp] theorem State.modModel_adpClock (s : State) (m : Nat) (f : Model → Model) : (s.modModel m f).adpClock = s.adpClock := rfl
@[simp] theorem State.modModel_adpGoal (s : State) (m : Nat) (f : Model → Model) : (s.modModel m f).adpGoal = s.adpGoal := rfl
@[simp] theorem State.modModel_ctrs (s : State) (m : Nat) (f : Model → Model) : (s.modModel m f).ctrs = s.ctrs := rfl
@[simp] theorem State.modModel_sweep (s : State) (m : Nat) (f : Model → Model) : (s.modModel m f).sweep = s.sweep := rfl
@[simp] theorem State.modModel_wins (s : State) (m : Nat) (f : Model → Model) : (s.modModel m f).wins = s.wins := rfl
@[simp] theorem State.modModel_net (s : State) (m : Nat) (f : Model → Model) : (s.modModel m f).net = s.net := rfl
@[simp] theorem State.modModel_tal (s : State) (m : Nat) (f : Model → Model) : (s.modModel m f).tal = s.tal := rfl
@[simp] theorem State.modModel_tb (s : State) (m : Nat) (f : Model → Model) : (s.modModel m f).tb = s.tb := rfl
@[simp] theorem State.modModel_ports (s : State) (m : Nat) (f : Model → Model) : (s.modModel m f).ports = s.ports := rfl
@[simp] theorem State.modModel_mons (s : State) (m : Nat) (f : Model → Model) : (s.modModel m f).mons = s.mons := rfl
@[simp] theorem State.modModel_stale (s : State) (m : Nat) (f : Model → Model) : (s.modModel m f).stale = s.stale := rfl
@[simp] theorem State.modModel_recs (s : State) (m : Nat) (f : Model → Model) : (s.modModel m f).recs = s.recs := rfl
@[simp] theorem State.modModel_boot (s : State) (m : Nat) (f : Model → Model) : (s.modModel m f).boot = s.boot := rfl
@[simp] theorem State.modModel_pwr (s : State) (m : Nat) (f : Model → Model) : (s.modModel m f).pwr = s.pwr := rfl
@[simp] theorem State.modModel_time (s : State) (m : Nat) (f : Model → Model) : (s.modModel m f).time = s.time := rfl
@[simp] theorem State.modModel_free (s : State) (m : Nat) (f : Model → Model) : (s.modModel m f).free = s.free := rfl
@[simp] theorem State.modModel_tx (s : State) (m : Nat) (f : Model → Model) : (s.modModel m f).tx = s.tx := rfl
@[simp] theorem State.modModel_pending (s : State) (m : Nat) (f : Model → Model) : (s.modModel m f).pending = s.pending := rfl

/-! ### setAdp -/

@[simp] theorem State.setAdp_regs (s : State) (i : Nat) (x : AdpSlot) : (s.setAdp i x).regs = s.regs := rfl
@[simp] theorem State.setAdp_shadows (s : State) (i : Nat) (x : AdpSlot) : (s.setAdp i x).shadows = s.shadows := rfl
@[simp] theorem State.setAdp_latches (s : State) (i : Nat) (x : AdpSlot) : (s.setAdp i x).latches = s.latches := rfl
@[simp] theorem State.setAdp_arrays (s : State) (i : Nat) (x : AdpSlot) : (s.setAdp i x).arrays = s.arrays := rfl
@[simp] theorem State.setAdp_cores (s : State) (i : Nat) (x : AdpSlot) : (s.setAdp i x).cores = s.cores := rfl
@[simp] theorem State.setAdp_pgmQueue (s : State) (i : Nat) (x : AdpSlot) : (s.setAdp i x).pgmQueue = s.pgmQueue := rfl
@[simp] theorem State.setAdp_mem (s : State) (i : Nat) (x : AdpSlot) : (s.setAdp i x).mem = s.mem := rfl
@[simp] theorem State.setAdp_host (s : State) (i : Nat) (x : AdpSlot) : (s.setAdp i x).host = s.host := rfl
@[simp] theorem State.setAdp_poison (s : State) (i : Nat) (x : AdpSlot) : (s.setAdp i x).poison = s.poison := rfl
@[simp] theorem State.setAdp_memCe (s : State) (i : Nat) (x : AdpSlot) : (s.setAdp i x).memCe = s.memCe := rfl
@[simp] theorem State.setAdp_memCeAt (s : State) (i : Nat) (x : AdpSlot) : (s.setAdp i x).memCeAt = s.memCeAt := rfl
@[simp] theorem State.setAdp_ev (s : State) (i : Nat) (x : AdpSlot) : (s.setAdp i x).ev = s.ev := rfl
@[simp] theorem State.setAdp_reqs (s : State) (i : Nat) (x : AdpSlot) : (s.setAdp i x).reqs = s.reqs := rfl
@[simp] theorem State.setAdp_nextReq (s : State) (i : Nat) (x : AdpSlot) : (s.setAdp i x).nextReq = s.nextReq := rfl
@[simp] theorem State.setAdp_nextBatch (s : State) (i : Nat) (x : AdpSlot) : (s.setAdp i x).nextBatch = s.nextBatch := rfl
@[simp] theorem State.setAdp_bound (s : State) (i : Nat) (x : AdpSlot) : (s.setAdp i x).bound = s.bound := rfl
@[simp] theorem State.setAdp_pounds (s : State) (i : Nat) (x : AdpSlot) : (s.setAdp i x).pounds = s.pounds := rfl
@[simp] theorem State.setAdp_queues (s : State) (i : Nat) (x : AdpSlot) : (s.setAdp i x).queues = s.queues := rfl
@[simp] theorem State.setAdp_rrLast (s : State) (i : Nat) (x : AdpSlot) : (s.setAdp i x).rrLast = s.rrLast := rfl
@[simp] theorem State.setAdp_expBroken (s : State) (i : Nat) (x : AdpSlot) : (s.setAdp i x).expBroken = s.expBroken := rfl
@[simp] theorem State.setAdp_ctxs (s : State) (i : Nat) (x : AdpSlot) : (s.setAdp i x).ctxs = s.ctxs := rfl
@[simp] theorem State.setAdp_models (s : State) (i : Nat) (x : AdpSlot) : (s.setAdp i x).models = s.models := rfl
@[simp] theorem State.setAdp_adpClock (s : State) (i : Nat) (x : AdpSlot) : (s.setAdp i x).adpClock = s.adpClock := rfl
@[simp] theorem State.setAdp_adpGoal (s : State) (i : Nat) (x : AdpSlot) : (s.setAdp i x).adpGoal = s.adpGoal := rfl
@[simp] theorem State.setAdp_ctrs (s : State) (i : Nat) (x : AdpSlot) : (s.setAdp i x).ctrs = s.ctrs := rfl
@[simp] theorem State.setAdp_sweep (s : State) (i : Nat) (x : AdpSlot) : (s.setAdp i x).sweep = s.sweep := rfl
@[simp] theorem State.setAdp_wins (s : State) (i : Nat) (x : AdpSlot) : (s.setAdp i x).wins = s.wins := rfl
@[simp] theorem State.setAdp_net (s : State) (i : Nat) (x : AdpSlot) : (s.setAdp i x).net = s.net := rfl
@[simp] theorem State.setAdp_tal (s : State) (i : Nat) (x : AdpSlot) : (s.setAdp i x).tal = s.tal := rfl
@[simp] theorem State.setAdp_tb (s : State) (i : Nat) (x : AdpSlot) : (s.setAdp i x).tb = s.tb := rfl
@[simp] theorem State.setAdp_ports (s : State) (i : Nat) (x : AdpSlot) : (s.setAdp i x).ports = s.ports := rfl
@[simp] theorem State.setAdp_mons (s : State) (i : Nat) (x : AdpSlot) : (s.setAdp i x).mons = s.mons := rfl
@[simp] theorem State.setAdp_stale (s : State) (i : Nat) (x : AdpSlot) : (s.setAdp i x).stale = s.stale := rfl
@[simp] theorem State.setAdp_recs (s : State) (i : Nat) (x : AdpSlot) : (s.setAdp i x).recs = s.recs := rfl
@[simp] theorem State.setAdp_boot (s : State) (i : Nat) (x : AdpSlot) : (s.setAdp i x).boot = s.boot := rfl
@[simp] theorem State.setAdp_pwr (s : State) (i : Nat) (x : AdpSlot) : (s.setAdp i x).pwr = s.pwr := rfl
@[simp] theorem State.setAdp_time (s : State) (i : Nat) (x : AdpSlot) : (s.setAdp i x).time = s.time := rfl
@[simp] theorem State.setAdp_free (s : State) (i : Nat) (x : AdpSlot) : (s.setAdp i x).free = s.free := rfl
@[simp] theorem State.setAdp_tx (s : State) (i : Nat) (x : AdpSlot) : (s.setAdp i x).tx = s.tx := rfl
@[simp] theorem State.setAdp_pending (s : State) (i : Nat) (x : AdpSlot) : (s.setAdp i x).pending = s.pending := rfl

/-! ### setMon -/

@[simp] theorem State.setMon_regs (s : State) (m : Nat) (x : Mon) : (s.setMon m x).regs = s.regs := rfl
@[simp] theorem State.setMon_shadows (s : State) (m : Nat) (x : Mon) : (s.setMon m x).shadows = s.shadows := rfl
@[simp] theorem State.setMon_latches (s : State) (m : Nat) (x : Mon) : (s.setMon m x).latches = s.latches := rfl
@[simp] theorem State.setMon_arrays (s : State) (m : Nat) (x : Mon) : (s.setMon m x).arrays = s.arrays := rfl
@[simp] theorem State.setMon_cores (s : State) (m : Nat) (x : Mon) : (s.setMon m x).cores = s.cores := rfl
@[simp] theorem State.setMon_pgmQueue (s : State) (m : Nat) (x : Mon) : (s.setMon m x).pgmQueue = s.pgmQueue := rfl
@[simp] theorem State.setMon_mem (s : State) (m : Nat) (x : Mon) : (s.setMon m x).mem = s.mem := rfl
@[simp] theorem State.setMon_host (s : State) (m : Nat) (x : Mon) : (s.setMon m x).host = s.host := rfl
@[simp] theorem State.setMon_poison (s : State) (m : Nat) (x : Mon) : (s.setMon m x).poison = s.poison := rfl
@[simp] theorem State.setMon_memCe (s : State) (m : Nat) (x : Mon) : (s.setMon m x).memCe = s.memCe := rfl
@[simp] theorem State.setMon_memCeAt (s : State) (m : Nat) (x : Mon) : (s.setMon m x).memCeAt = s.memCeAt := rfl
@[simp] theorem State.setMon_ev (s : State) (m : Nat) (x : Mon) : (s.setMon m x).ev = s.ev := rfl
@[simp] theorem State.setMon_reqs (s : State) (m : Nat) (x : Mon) : (s.setMon m x).reqs = s.reqs := rfl
@[simp] theorem State.setMon_nextReq (s : State) (m : Nat) (x : Mon) : (s.setMon m x).nextReq = s.nextReq := rfl
@[simp] theorem State.setMon_nextBatch (s : State) (m : Nat) (x : Mon) : (s.setMon m x).nextBatch = s.nextBatch := rfl
@[simp] theorem State.setMon_bound (s : State) (m : Nat) (x : Mon) : (s.setMon m x).bound = s.bound := rfl
@[simp] theorem State.setMon_pounds (s : State) (m : Nat) (x : Mon) : (s.setMon m x).pounds = s.pounds := rfl
@[simp] theorem State.setMon_queues (s : State) (m : Nat) (x : Mon) : (s.setMon m x).queues = s.queues := rfl
@[simp] theorem State.setMon_rrLast (s : State) (m : Nat) (x : Mon) : (s.setMon m x).rrLast = s.rrLast := rfl
@[simp] theorem State.setMon_expBroken (s : State) (m : Nat) (x : Mon) : (s.setMon m x).expBroken = s.expBroken := rfl
@[simp] theorem State.setMon_ctxs (s : State) (m : Nat) (x : Mon) : (s.setMon m x).ctxs = s.ctxs := rfl
@[simp] theorem State.setMon_models (s : State) (m : Nat) (x : Mon) : (s.setMon m x).models = s.models := rfl
@[simp] theorem State.setMon_adps (s : State) (m : Nat) (x : Mon) : (s.setMon m x).adps = s.adps := rfl
@[simp] theorem State.setMon_adpClock (s : State) (m : Nat) (x : Mon) : (s.setMon m x).adpClock = s.adpClock := rfl
@[simp] theorem State.setMon_adpGoal (s : State) (m : Nat) (x : Mon) : (s.setMon m x).adpGoal = s.adpGoal := rfl
@[simp] theorem State.setMon_ctrs (s : State) (m : Nat) (x : Mon) : (s.setMon m x).ctrs = s.ctrs := rfl
@[simp] theorem State.setMon_sweep (s : State) (m : Nat) (x : Mon) : (s.setMon m x).sweep = s.sweep := rfl
@[simp] theorem State.setMon_wins (s : State) (m : Nat) (x : Mon) : (s.setMon m x).wins = s.wins := rfl
@[simp] theorem State.setMon_net (s : State) (m : Nat) (x : Mon) : (s.setMon m x).net = s.net := rfl
@[simp] theorem State.setMon_tal (s : State) (m : Nat) (x : Mon) : (s.setMon m x).tal = s.tal := rfl
@[simp] theorem State.setMon_tb (s : State) (m : Nat) (x : Mon) : (s.setMon m x).tb = s.tb := rfl
@[simp] theorem State.setMon_ports (s : State) (m : Nat) (x : Mon) : (s.setMon m x).ports = s.ports := rfl
@[simp] theorem State.setMon_stale (s : State) (m : Nat) (x : Mon) : (s.setMon m x).stale = s.stale := rfl
@[simp] theorem State.setMon_recs (s : State) (m : Nat) (x : Mon) : (s.setMon m x).recs = s.recs := rfl
@[simp] theorem State.setMon_boot (s : State) (m : Nat) (x : Mon) : (s.setMon m x).boot = s.boot := rfl
@[simp] theorem State.setMon_pwr (s : State) (m : Nat) (x : Mon) : (s.setMon m x).pwr = s.pwr := rfl
@[simp] theorem State.setMon_time (s : State) (m : Nat) (x : Mon) : (s.setMon m x).time = s.time := rfl
@[simp] theorem State.setMon_free (s : State) (m : Nat) (x : Mon) : (s.setMon m x).free = s.free := rfl
@[simp] theorem State.setMon_tx (s : State) (m : Nat) (x : Mon) : (s.setMon m x).tx = s.tx := rfl
@[simp] theorem State.setMon_pending (s : State) (m : Nat) (x : Mon) : (s.setMon m x).pending = s.pending := rfl

/-! ### modTal -/

@[simp] theorem State.modTal_regs (s : State) (f : Tal → Tal) : (s.modTal f).regs = s.regs := rfl
@[simp] theorem State.modTal_shadows (s : State) (f : Tal → Tal) : (s.modTal f).shadows = s.shadows := rfl
@[simp] theorem State.modTal_latches (s : State) (f : Tal → Tal) : (s.modTal f).latches = s.latches := rfl
@[simp] theorem State.modTal_arrays (s : State) (f : Tal → Tal) : (s.modTal f).arrays = s.arrays := rfl
@[simp] theorem State.modTal_cores (s : State) (f : Tal → Tal) : (s.modTal f).cores = s.cores := rfl
@[simp] theorem State.modTal_pgmQueue (s : State) (f : Tal → Tal) : (s.modTal f).pgmQueue = s.pgmQueue := rfl
@[simp] theorem State.modTal_mem (s : State) (f : Tal → Tal) : (s.modTal f).mem = s.mem := rfl
@[simp] theorem State.modTal_host (s : State) (f : Tal → Tal) : (s.modTal f).host = s.host := rfl
@[simp] theorem State.modTal_poison (s : State) (f : Tal → Tal) : (s.modTal f).poison = s.poison := rfl
@[simp] theorem State.modTal_memCe (s : State) (f : Tal → Tal) : (s.modTal f).memCe = s.memCe := rfl
@[simp] theorem State.modTal_memCeAt (s : State) (f : Tal → Tal) : (s.modTal f).memCeAt = s.memCeAt := rfl
@[simp] theorem State.modTal_ev (s : State) (f : Tal → Tal) : (s.modTal f).ev = s.ev := rfl
@[simp] theorem State.modTal_reqs (s : State) (f : Tal → Tal) : (s.modTal f).reqs = s.reqs := rfl
@[simp] theorem State.modTal_nextReq (s : State) (f : Tal → Tal) : (s.modTal f).nextReq = s.nextReq := rfl
@[simp] theorem State.modTal_nextBatch (s : State) (f : Tal → Tal) : (s.modTal f).nextBatch = s.nextBatch := rfl
@[simp] theorem State.modTal_bound (s : State) (f : Tal → Tal) : (s.modTal f).bound = s.bound := rfl
@[simp] theorem State.modTal_pounds (s : State) (f : Tal → Tal) : (s.modTal f).pounds = s.pounds := rfl
@[simp] theorem State.modTal_queues (s : State) (f : Tal → Tal) : (s.modTal f).queues = s.queues := rfl
@[simp] theorem State.modTal_rrLast (s : State) (f : Tal → Tal) : (s.modTal f).rrLast = s.rrLast := rfl
@[simp] theorem State.modTal_expBroken (s : State) (f : Tal → Tal) : (s.modTal f).expBroken = s.expBroken := rfl
@[simp] theorem State.modTal_ctxs (s : State) (f : Tal → Tal) : (s.modTal f).ctxs = s.ctxs := rfl
@[simp] theorem State.modTal_models (s : State) (f : Tal → Tal) : (s.modTal f).models = s.models := rfl
@[simp] theorem State.modTal_adps (s : State) (f : Tal → Tal) : (s.modTal f).adps = s.adps := rfl
@[simp] theorem State.modTal_adpClock (s : State) (f : Tal → Tal) : (s.modTal f).adpClock = s.adpClock := rfl
@[simp] theorem State.modTal_adpGoal (s : State) (f : Tal → Tal) : (s.modTal f).adpGoal = s.adpGoal := rfl
@[simp] theorem State.modTal_ctrs (s : State) (f : Tal → Tal) : (s.modTal f).ctrs = s.ctrs := rfl
@[simp] theorem State.modTal_sweep (s : State) (f : Tal → Tal) : (s.modTal f).sweep = s.sweep := rfl
@[simp] theorem State.modTal_wins (s : State) (f : Tal → Tal) : (s.modTal f).wins = s.wins := rfl
@[simp] theorem State.modTal_net (s : State) (f : Tal → Tal) : (s.modTal f).net = s.net := rfl
@[simp] theorem State.modTal_tb (s : State) (f : Tal → Tal) : (s.modTal f).tb = s.tb := rfl
@[simp] theorem State.modTal_ports (s : State) (f : Tal → Tal) : (s.modTal f).ports = s.ports := rfl
@[simp] theorem State.modTal_mons (s : State) (f : Tal → Tal) : (s.modTal f).mons = s.mons := rfl
@[simp] theorem State.modTal_stale (s : State) (f : Tal → Tal) : (s.modTal f).stale = s.stale := rfl
@[simp] theorem State.modTal_recs (s : State) (f : Tal → Tal) : (s.modTal f).recs = s.recs := rfl
@[simp] theorem State.modTal_boot (s : State) (f : Tal → Tal) : (s.modTal f).boot = s.boot := rfl
@[simp] theorem State.modTal_pwr (s : State) (f : Tal → Tal) : (s.modTal f).pwr = s.pwr := rfl
@[simp] theorem State.modTal_time (s : State) (f : Tal → Tal) : (s.modTal f).time = s.time := rfl
@[simp] theorem State.modTal_free (s : State) (f : Tal → Tal) : (s.modTal f).free = s.free := rfl
@[simp] theorem State.modTal_tx (s : State) (f : Tal → Tal) : (s.modTal f).tx = s.tx := rfl
@[simp] theorem State.modTal_pending (s : State) (f : Tal → Tal) : (s.modTal f).pending = s.pending := rfl

/-! ### setPeer -/

@[simp] theorem State.setPeer_regs (s : State) (i : Nat) (x : Peer) : (s.setPeer i x).regs = s.regs := rfl
@[simp] theorem State.setPeer_shadows (s : State) (i : Nat) (x : Peer) : (s.setPeer i x).shadows = s.shadows := rfl
@[simp] theorem State.setPeer_latches (s : State) (i : Nat) (x : Peer) : (s.setPeer i x).latches = s.latches := rfl
@[simp] theorem State.setPeer_arrays (s : State) (i : Nat) (x : Peer) : (s.setPeer i x).arrays = s.arrays := rfl
@[simp] theorem State.setPeer_cores (s : State) (i : Nat) (x : Peer) : (s.setPeer i x).cores = s.cores := rfl
@[simp] theorem State.setPeer_pgmQueue (s : State) (i : Nat) (x : Peer) : (s.setPeer i x).pgmQueue = s.pgmQueue := rfl
@[simp] theorem State.setPeer_mem (s : State) (i : Nat) (x : Peer) : (s.setPeer i x).mem = s.mem := rfl
@[simp] theorem State.setPeer_host (s : State) (i : Nat) (x : Peer) : (s.setPeer i x).host = s.host := rfl
@[simp] theorem State.setPeer_poison (s : State) (i : Nat) (x : Peer) : (s.setPeer i x).poison = s.poison := rfl
@[simp] theorem State.setPeer_memCe (s : State) (i : Nat) (x : Peer) : (s.setPeer i x).memCe = s.memCe := rfl
@[simp] theorem State.setPeer_memCeAt (s : State) (i : Nat) (x : Peer) : (s.setPeer i x).memCeAt = s.memCeAt := rfl
@[simp] theorem State.setPeer_ev (s : State) (i : Nat) (x : Peer) : (s.setPeer i x).ev = s.ev := rfl
@[simp] theorem State.setPeer_reqs (s : State) (i : Nat) (x : Peer) : (s.setPeer i x).reqs = s.reqs := rfl
@[simp] theorem State.setPeer_nextReq (s : State) (i : Nat) (x : Peer) : (s.setPeer i x).nextReq = s.nextReq := rfl
@[simp] theorem State.setPeer_nextBatch (s : State) (i : Nat) (x : Peer) : (s.setPeer i x).nextBatch = s.nextBatch := rfl
@[simp] theorem State.setPeer_bound (s : State) (i : Nat) (x : Peer) : (s.setPeer i x).bound = s.bound := rfl
@[simp] theorem State.setPeer_pounds (s : State) (i : Nat) (x : Peer) : (s.setPeer i x).pounds = s.pounds := rfl
@[simp] theorem State.setPeer_queues (s : State) (i : Nat) (x : Peer) : (s.setPeer i x).queues = s.queues := rfl
@[simp] theorem State.setPeer_rrLast (s : State) (i : Nat) (x : Peer) : (s.setPeer i x).rrLast = s.rrLast := rfl
@[simp] theorem State.setPeer_expBroken (s : State) (i : Nat) (x : Peer) : (s.setPeer i x).expBroken = s.expBroken := rfl
@[simp] theorem State.setPeer_ctxs (s : State) (i : Nat) (x : Peer) : (s.setPeer i x).ctxs = s.ctxs := rfl
@[simp] theorem State.setPeer_models (s : State) (i : Nat) (x : Peer) : (s.setPeer i x).models = s.models := rfl
@[simp] theorem State.setPeer_adps (s : State) (i : Nat) (x : Peer) : (s.setPeer i x).adps = s.adps := rfl
@[simp] theorem State.setPeer_adpClock (s : State) (i : Nat) (x : Peer) : (s.setPeer i x).adpClock = s.adpClock := rfl
@[simp] theorem State.setPeer_adpGoal (s : State) (i : Nat) (x : Peer) : (s.setPeer i x).adpGoal = s.adpGoal := rfl
@[simp] theorem State.setPeer_ctrs (s : State) (i : Nat) (x : Peer) : (s.setPeer i x).ctrs = s.ctrs := rfl
@[simp] theorem State.setPeer_sweep (s : State) (i : Nat) (x : Peer) : (s.setPeer i x).sweep = s.sweep := rfl
@[simp] theorem State.setPeer_wins (s : State) (i : Nat) (x : Peer) : (s.setPeer i x).wins = s.wins := rfl
@[simp] theorem State.setPeer_tal (s : State) (i : Nat) (x : Peer) : (s.setPeer i x).tal = s.tal := rfl
@[simp] theorem State.setPeer_tb (s : State) (i : Nat) (x : Peer) : (s.setPeer i x).tb = s.tb := rfl
@[simp] theorem State.setPeer_ports (s : State) (i : Nat) (x : Peer) : (s.setPeer i x).ports = s.ports := rfl
@[simp] theorem State.setPeer_mons (s : State) (i : Nat) (x : Peer) : (s.setPeer i x).mons = s.mons := rfl
@[simp] theorem State.setPeer_stale (s : State) (i : Nat) (x : Peer) : (s.setPeer i x).stale = s.stale := rfl
@[simp] theorem State.setPeer_recs (s : State) (i : Nat) (x : Peer) : (s.setPeer i x).recs = s.recs := rfl
@[simp] theorem State.setPeer_boot (s : State) (i : Nat) (x : Peer) : (s.setPeer i x).boot = s.boot := rfl
@[simp] theorem State.setPeer_pwr (s : State) (i : Nat) (x : Peer) : (s.setPeer i x).pwr = s.pwr := rfl
@[simp] theorem State.setPeer_time (s : State) (i : Nat) (x : Peer) : (s.setPeer i x).time = s.time := rfl
@[simp] theorem State.setPeer_free (s : State) (i : Nat) (x : Peer) : (s.setPeer i x).free = s.free := rfl
@[simp] theorem State.setPeer_tx (s : State) (i : Nat) (x : Peer) : (s.setPeer i x).tx = s.tx := rfl
@[simp] theorem State.setPeer_pending (s : State) (i : Nat) (x : Peer) : (s.setPeer i x).pending = s.pending := rfl

/-! ### modPeer -/

@[simp] theorem State.modPeer_regs (s : State) (i : Nat) (f : Peer → Peer) : (s.modPeer i f).regs = s.regs := rfl
@[simp] theorem State.modPeer_shadows (s : State) (i : Nat) (f : Peer → Peer) : (s.modPeer i f).shadows = s.shadows := rfl
@[simp] theorem State.modPeer_latches (s : State) (i : Nat) (f : Peer → Peer) : (s.modPeer i f).latches = s.latches := rfl
@[simp] theorem State.modPeer_arrays (s : State) (i : Nat) (f : Peer → Peer) : (s.modPeer i f).arrays = s.arrays := rfl
@[simp] theorem State.modPeer_cores (s : State) (i : Nat) (f : Peer → Peer) : (s.modPeer i f).cores = s.cores := rfl
@[simp] theorem State.modPeer_pgmQueue (s : State) (i : Nat) (f : Peer → Peer) : (s.modPeer i f).pgmQueue = s.pgmQueue := rfl
@[simp] theorem State.modPeer_mem (s : State) (i : Nat) (f : Peer → Peer) : (s.modPeer i f).mem = s.mem := rfl
@[simp] theorem State.modPeer_host (s : State) (i : Nat) (f : Peer → Peer) : (s.modPeer i f).host = s.host := rfl
@[simp] theorem State.modPeer_poison (s : State) (i : Nat) (f : Peer → Peer) : (s.modPeer i f).poison = s.poison := rfl
@[simp] theorem State.modPeer_memCe (s : State) (i : Nat) (f : Peer → Peer) : (s.modPeer i f).memCe = s.memCe := rfl
@[simp] theorem State.modPeer_memCeAt (s : State) (i : Nat) (f : Peer → Peer) : (s.modPeer i f).memCeAt = s.memCeAt := rfl
@[simp] theorem State.modPeer_ev (s : State) (i : Nat) (f : Peer → Peer) : (s.modPeer i f).ev = s.ev := rfl
@[simp] theorem State.modPeer_reqs (s : State) (i : Nat) (f : Peer → Peer) : (s.modPeer i f).reqs = s.reqs := rfl
@[simp] theorem State.modPeer_nextReq (s : State) (i : Nat) (f : Peer → Peer) : (s.modPeer i f).nextReq = s.nextReq := rfl
@[simp] theorem State.modPeer_nextBatch (s : State) (i : Nat) (f : Peer → Peer) : (s.modPeer i f).nextBatch = s.nextBatch := rfl
@[simp] theorem State.modPeer_bound (s : State) (i : Nat) (f : Peer → Peer) : (s.modPeer i f).bound = s.bound := rfl
@[simp] theorem State.modPeer_pounds (s : State) (i : Nat) (f : Peer → Peer) : (s.modPeer i f).pounds = s.pounds := rfl
@[simp] theorem State.modPeer_queues (s : State) (i : Nat) (f : Peer → Peer) : (s.modPeer i f).queues = s.queues := rfl
@[simp] theorem State.modPeer_rrLast (s : State) (i : Nat) (f : Peer → Peer) : (s.modPeer i f).rrLast = s.rrLast := rfl
@[simp] theorem State.modPeer_expBroken (s : State) (i : Nat) (f : Peer → Peer) : (s.modPeer i f).expBroken = s.expBroken := rfl
@[simp] theorem State.modPeer_ctxs (s : State) (i : Nat) (f : Peer → Peer) : (s.modPeer i f).ctxs = s.ctxs := rfl
@[simp] theorem State.modPeer_models (s : State) (i : Nat) (f : Peer → Peer) : (s.modPeer i f).models = s.models := rfl
@[simp] theorem State.modPeer_adps (s : State) (i : Nat) (f : Peer → Peer) : (s.modPeer i f).adps = s.adps := rfl
@[simp] theorem State.modPeer_adpClock (s : State) (i : Nat) (f : Peer → Peer) : (s.modPeer i f).adpClock = s.adpClock := rfl
@[simp] theorem State.modPeer_adpGoal (s : State) (i : Nat) (f : Peer → Peer) : (s.modPeer i f).adpGoal = s.adpGoal := rfl
@[simp] theorem State.modPeer_ctrs (s : State) (i : Nat) (f : Peer → Peer) : (s.modPeer i f).ctrs = s.ctrs := rfl
@[simp] theorem State.modPeer_sweep (s : State) (i : Nat) (f : Peer → Peer) : (s.modPeer i f).sweep = s.sweep := rfl
@[simp] theorem State.modPeer_wins (s : State) (i : Nat) (f : Peer → Peer) : (s.modPeer i f).wins = s.wins := rfl
@[simp] theorem State.modPeer_tal (s : State) (i : Nat) (f : Peer → Peer) : (s.modPeer i f).tal = s.tal := rfl
@[simp] theorem State.modPeer_tb (s : State) (i : Nat) (f : Peer → Peer) : (s.modPeer i f).tb = s.tb := rfl
@[simp] theorem State.modPeer_ports (s : State) (i : Nat) (f : Peer → Peer) : (s.modPeer i f).ports = s.ports := rfl
@[simp] theorem State.modPeer_mons (s : State) (i : Nat) (f : Peer → Peer) : (s.modPeer i f).mons = s.mons := rfl
@[simp] theorem State.modPeer_stale (s : State) (i : Nat) (f : Peer → Peer) : (s.modPeer i f).stale = s.stale := rfl
@[simp] theorem State.modPeer_recs (s : State) (i : Nat) (f : Peer → Peer) : (s.modPeer i f).recs = s.recs := rfl
@[simp] theorem State.modPeer_boot (s : State) (i : Nat) (f : Peer → Peer) : (s.modPeer i f).boot = s.boot := rfl
@[simp] theorem State.modPeer_pwr (s : State) (i : Nat) (f : Peer → Peer) : (s.modPeer i f).pwr = s.pwr := rfl
@[simp] theorem State.modPeer_time (s : State) (i : Nat) (f : Peer → Peer) : (s.modPeer i f).time = s.time := rfl
@[simp] theorem State.modPeer_free (s : State) (i : Nat) (f : Peer → Peer) : (s.modPeer i f).free = s.free := rfl
@[simp] theorem State.modPeer_tx (s : State) (i : Nat) (f : Peer → Peer) : (s.modPeer i f).tx = s.tx := rfl
@[simp] theorem State.modPeer_pending (s : State) (i : Nat) (f : Peer → Peer) : (s.modPeer i f).pending = s.pending := rfl

/-! ### send -/

@[simp] theorem State.send_regs (s : State) (x : Tx) : (s.send x).regs = s.regs := rfl
@[simp] theorem State.send_shadows (s : State) (x : Tx) : (s.send x).shadows = s.shadows := rfl
@[simp] theorem State.send_latches (s : State) (x : Tx) : (s.send x).latches = s.latches := rfl
@[simp] theorem State.send_arrays (s : State) (x : Tx) : (s.send x).arrays = s.arrays := rfl
@[simp] theorem State.send_cores (s : State) (x : Tx) : (s.send x).cores = s.cores := rfl
@[simp] theorem State.send_pgmQueue (s : State) (x : Tx) : (s.send x).pgmQueue = s.pgmQueue := rfl
@[simp] theorem State.send_mem (s : State) (x : Tx) : (s.send x).mem = s.mem := rfl
@[simp] theorem State.send_host (s : State) (x : Tx) : (s.send x).host = s.host := rfl
@[simp] theorem State.send_poison (s : State) (x : Tx) : (s.send x).poison = s.poison := rfl
@[simp] theorem State.send_memCe (s : State) (x : Tx) : (s.send x).memCe = s.memCe := rfl
@[simp] theorem State.send_memCeAt (s : State) (x : Tx) : (s.send x).memCeAt = s.memCeAt := rfl
@[simp] theorem State.send_ev (s : State) (x : Tx) : (s.send x).ev = s.ev := rfl
@[simp] theorem State.send_reqs (s : State) (x : Tx) : (s.send x).reqs = s.reqs := rfl
@[simp] theorem State.send_nextReq (s : State) (x : Tx) : (s.send x).nextReq = s.nextReq := rfl
@[simp] theorem State.send_nextBatch (s : State) (x : Tx) : (s.send x).nextBatch = s.nextBatch := rfl
@[simp] theorem State.send_bound (s : State) (x : Tx) : (s.send x).bound = s.bound := rfl
@[simp] theorem State.send_pounds (s : State) (x : Tx) : (s.send x).pounds = s.pounds := rfl
@[simp] theorem State.send_queues (s : State) (x : Tx) : (s.send x).queues = s.queues := rfl
@[simp] theorem State.send_rrLast (s : State) (x : Tx) : (s.send x).rrLast = s.rrLast := rfl
@[simp] theorem State.send_expBroken (s : State) (x : Tx) : (s.send x).expBroken = s.expBroken := rfl
@[simp] theorem State.send_ctxs (s : State) (x : Tx) : (s.send x).ctxs = s.ctxs := rfl
@[simp] theorem State.send_models (s : State) (x : Tx) : (s.send x).models = s.models := rfl
@[simp] theorem State.send_adps (s : State) (x : Tx) : (s.send x).adps = s.adps := rfl
@[simp] theorem State.send_adpClock (s : State) (x : Tx) : (s.send x).adpClock = s.adpClock := rfl
@[simp] theorem State.send_adpGoal (s : State) (x : Tx) : (s.send x).adpGoal = s.adpGoal := rfl
@[simp] theorem State.send_ctrs (s : State) (x : Tx) : (s.send x).ctrs = s.ctrs := rfl
@[simp] theorem State.send_sweep (s : State) (x : Tx) : (s.send x).sweep = s.sweep := rfl
@[simp] theorem State.send_wins (s : State) (x : Tx) : (s.send x).wins = s.wins := rfl
@[simp] theorem State.send_net (s : State) (x : Tx) : (s.send x).net = s.net := rfl
@[simp] theorem State.send_tal (s : State) (x : Tx) : (s.send x).tal = s.tal := rfl
@[simp] theorem State.send_tb (s : State) (x : Tx) : (s.send x).tb = s.tb := rfl
@[simp] theorem State.send_ports (s : State) (x : Tx) : (s.send x).ports = s.ports := rfl
@[simp] theorem State.send_mons (s : State) (x : Tx) : (s.send x).mons = s.mons := rfl
@[simp] theorem State.send_stale (s : State) (x : Tx) : (s.send x).stale = s.stale := rfl
@[simp] theorem State.send_recs (s : State) (x : Tx) : (s.send x).recs = s.recs := rfl
@[simp] theorem State.send_boot (s : State) (x : Tx) : (s.send x).boot = s.boot := rfl
@[simp] theorem State.send_pwr (s : State) (x : Tx) : (s.send x).pwr = s.pwr := rfl
@[simp] theorem State.send_time (s : State) (x : Tx) : (s.send x).time = s.time := rfl
@[simp] theorem State.send_free (s : State) (x : Tx) : (s.send x).free = s.free := rfl
@[simp] theorem State.send_pending (s : State) (x : Tx) : (s.send x).pending = s.pending := rfl

/-! ### reply -/

@[simp] theorem State.reply_regs (s : State) (p : Path) (v : Nat) : (s.reply p v).regs = s.regs := rfl
@[simp] theorem State.reply_shadows (s : State) (p : Path) (v : Nat) : (s.reply p v).shadows = s.shadows := rfl
@[simp] theorem State.reply_latches (s : State) (p : Path) (v : Nat) : (s.reply p v).latches = s.latches := rfl
@[simp] theorem State.reply_arrays (s : State) (p : Path) (v : Nat) : (s.reply p v).arrays = s.arrays := rfl
@[simp] theorem State.reply_cores (s : State) (p : Path) (v : Nat) : (s.reply p v).cores = s.cores := rfl
@[simp] theorem State.reply_pgmQueue (s : State) (p : Path) (v : Nat) : (s.reply p v).pgmQueue = s.pgmQueue := rfl
@[simp] theorem State.reply_mem (s : State) (p : Path) (v : Nat) : (s.reply p v).mem = s.mem := rfl
@[simp] theorem State.reply_host (s : State) (p : Path) (v : Nat) : (s.reply p v).host = s.host := rfl
@[simp] theorem State.reply_poison (s : State) (p : Path) (v : Nat) : (s.reply p v).poison = s.poison := rfl
@[simp] theorem State.reply_memCe (s : State) (p : Path) (v : Nat) : (s.reply p v).memCe = s.memCe := rfl
@[simp] theorem State.reply_memCeAt (s : State) (p : Path) (v : Nat) : (s.reply p v).memCeAt = s.memCeAt := rfl
@[simp] theorem State.reply_ev (s : State) (p : Path) (v : Nat) : (s.reply p v).ev = s.ev := rfl
@[simp] theorem State.reply_reqs (s : State) (p : Path) (v : Nat) : (s.reply p v).reqs = s.reqs := rfl
@[simp] theorem State.reply_nextReq (s : State) (p : Path) (v : Nat) : (s.reply p v).nextReq = s.nextReq := rfl
@[simp] theorem State.reply_nextBatch (s : State) (p : Path) (v : Nat) : (s.reply p v).nextBatch = s.nextBatch := rfl
@[simp] theorem State.reply_bound (s : State) (p : Path) (v : Nat) : (s.reply p v).bound = s.bound := rfl
@[simp] theorem State.reply_pounds (s : State) (p : Path) (v : Nat) : (s.reply p v).pounds = s.pounds := rfl
@[simp] theorem State.reply_queues (s : State) (p : Path) (v : Nat) : (s.reply p v).queues = s.queues := rfl
@[simp] theorem State.reply_rrLast (s : State) (p : Path) (v : Nat) : (s.reply p v).rrLast = s.rrLast := rfl
@[simp] theorem State.reply_expBroken (s : State) (p : Path) (v : Nat) : (s.reply p v).expBroken = s.expBroken := rfl
@[simp] theorem State.reply_ctxs (s : State) (p : Path) (v : Nat) : (s.reply p v).ctxs = s.ctxs := rfl
@[simp] theorem State.reply_models (s : State) (p : Path) (v : Nat) : (s.reply p v).models = s.models := rfl
@[simp] theorem State.reply_adps (s : State) (p : Path) (v : Nat) : (s.reply p v).adps = s.adps := rfl
@[simp] theorem State.reply_adpClock (s : State) (p : Path) (v : Nat) : (s.reply p v).adpClock = s.adpClock := rfl
@[simp] theorem State.reply_adpGoal (s : State) (p : Path) (v : Nat) : (s.reply p v).adpGoal = s.adpGoal := rfl
@[simp] theorem State.reply_ctrs (s : State) (p : Path) (v : Nat) : (s.reply p v).ctrs = s.ctrs := rfl
@[simp] theorem State.reply_sweep (s : State) (p : Path) (v : Nat) : (s.reply p v).sweep = s.sweep := rfl
@[simp] theorem State.reply_wins (s : State) (p : Path) (v : Nat) : (s.reply p v).wins = s.wins := rfl
@[simp] theorem State.reply_net (s : State) (p : Path) (v : Nat) : (s.reply p v).net = s.net := rfl
@[simp] theorem State.reply_tal (s : State) (p : Path) (v : Nat) : (s.reply p v).tal = s.tal := rfl
@[simp] theorem State.reply_tb (s : State) (p : Path) (v : Nat) : (s.reply p v).tb = s.tb := rfl
@[simp] theorem State.reply_ports (s : State) (p : Path) (v : Nat) : (s.reply p v).ports = s.ports := rfl
@[simp] theorem State.reply_mons (s : State) (p : Path) (v : Nat) : (s.reply p v).mons = s.mons := rfl
@[simp] theorem State.reply_stale (s : State) (p : Path) (v : Nat) : (s.reply p v).stale = s.stale := rfl
@[simp] theorem State.reply_recs (s : State) (p : Path) (v : Nat) : (s.reply p v).recs = s.recs := rfl
@[simp] theorem State.reply_boot (s : State) (p : Path) (v : Nat) : (s.reply p v).boot = s.boot := rfl
@[simp] theorem State.reply_pwr (s : State) (p : Path) (v : Nat) : (s.reply p v).pwr = s.pwr := rfl
@[simp] theorem State.reply_time (s : State) (p : Path) (v : Nat) : (s.reply p v).time = s.time := rfl
@[simp] theorem State.reply_free (s : State) (p : Path) (v : Nat) : (s.reply p v).free = s.free := rfl
@[simp] theorem State.reply_pending (s : State) (p : Path) (v : Nat) : (s.reply p v).pending = s.pending := rfl

/-! ### count -/

@[simp] theorem State.count_regs (s : State) (b k n : Nat) : (s.count b k n).regs = s.regs := rfl
@[simp] theorem State.count_shadows (s : State) (b k n : Nat) : (s.count b k n).shadows = s.shadows := rfl
@[simp] theorem State.count_latches (s : State) (b k n : Nat) : (s.count b k n).latches = s.latches := rfl
@[simp] theorem State.count_arrays (s : State) (b k n : Nat) : (s.count b k n).arrays = s.arrays := rfl
@[simp] theorem State.count_cores (s : State) (b k n : Nat) : (s.count b k n).cores = s.cores := rfl
@[simp] theorem State.count_pgmQueue (s : State) (b k n : Nat) : (s.count b k n).pgmQueue = s.pgmQueue := rfl
@[simp] theorem State.count_mem (s : State) (b k n : Nat) : (s.count b k n).mem = s.mem := rfl
@[simp] theorem State.count_host (s : State) (b k n : Nat) : (s.count b k n).host = s.host := rfl
@[simp] theorem State.count_poison (s : State) (b k n : Nat) : (s.count b k n).poison = s.poison := rfl
@[simp] theorem State.count_memCe (s : State) (b k n : Nat) : (s.count b k n).memCe = s.memCe := rfl
@[simp] theorem State.count_memCeAt (s : State) (b k n : Nat) : (s.count b k n).memCeAt = s.memCeAt := rfl
@[simp] theorem State.count_ev (s : State) (b k n : Nat) : (s.count b k n).ev = s.ev := rfl
@[simp] theorem State.count_reqs (s : State) (b k n : Nat) : (s.count b k n).reqs = s.reqs := rfl
@[simp] theorem State.count_nextReq (s : State) (b k n : Nat) : (s.count b k n).nextReq = s.nextReq := rfl
@[simp] theorem State.count_nextBatch (s : State) (b k n : Nat) : (s.count b k n).nextBatch = s.nextBatch := rfl
@[simp] theorem State.count_bound (s : State) (b k n : Nat) : (s.count b k n).bound = s.bound := rfl
@[simp] theorem State.count_pounds (s : State) (b k n : Nat) : (s.count b k n).pounds = s.pounds := rfl
@[simp] theorem State.count_queues (s : State) (b k n : Nat) : (s.count b k n).queues = s.queues := rfl
@[simp] theorem State.count_rrLast (s : State) (b k n : Nat) : (s.count b k n).rrLast = s.rrLast := rfl
@[simp] theorem State.count_expBroken (s : State) (b k n : Nat) : (s.count b k n).expBroken = s.expBroken := rfl
@[simp] theorem State.count_ctxs (s : State) (b k n : Nat) : (s.count b k n).ctxs = s.ctxs := rfl
@[simp] theorem State.count_models (s : State) (b k n : Nat) : (s.count b k n).models = s.models := rfl
@[simp] theorem State.count_adps (s : State) (b k n : Nat) : (s.count b k n).adps = s.adps := rfl
@[simp] theorem State.count_adpClock (s : State) (b k n : Nat) : (s.count b k n).adpClock = s.adpClock := rfl
@[simp] theorem State.count_adpGoal (s : State) (b k n : Nat) : (s.count b k n).adpGoal = s.adpGoal := rfl
@[simp] theorem State.count_sweep (s : State) (b k n : Nat) : (s.count b k n).sweep = s.sweep := rfl
@[simp] theorem State.count_wins (s : State) (b k n : Nat) : (s.count b k n).wins = s.wins := rfl
@[simp] theorem State.count_net (s : State) (b k n : Nat) : (s.count b k n).net = s.net := rfl
@[simp] theorem State.count_tal (s : State) (b k n : Nat) : (s.count b k n).tal = s.tal := rfl
@[simp] theorem State.count_tb (s : State) (b k n : Nat) : (s.count b k n).tb = s.tb := rfl
@[simp] theorem State.count_ports (s : State) (b k n : Nat) : (s.count b k n).ports = s.ports := rfl
@[simp] theorem State.count_mons (s : State) (b k n : Nat) : (s.count b k n).mons = s.mons := rfl
@[simp] theorem State.count_stale (s : State) (b k n : Nat) : (s.count b k n).stale = s.stale := rfl
@[simp] theorem State.count_recs (s : State) (b k n : Nat) : (s.count b k n).recs = s.recs := rfl
@[simp] theorem State.count_boot (s : State) (b k n : Nat) : (s.count b k n).boot = s.boot := rfl
@[simp] theorem State.count_pwr (s : State) (b k n : Nat) : (s.count b k n).pwr = s.pwr := rfl
@[simp] theorem State.count_time (s : State) (b k n : Nat) : (s.count b k n).time = s.time := rfl
@[simp] theorem State.count_free (s : State) (b k n : Nat) : (s.count b k n).free = s.free := rfl
@[simp] theorem State.count_tx (s : State) (b k n : Nat) : (s.count b k n).tx = s.tx := rfl
@[simp] theorem State.count_pending (s : State) (b k n : Nat) : (s.count b k n).pending = s.pending := rfl

/-! ### latch -/

@[simp] theorem State.latch_regs (s : State) (p : Path) (a v : Nat) : (s.latch p a v).regs = s.regs := rfl
@[simp] theorem State.latch_shadows (s : State) (p : Path) (a v : Nat) : (s.latch p a v).shadows = s.shadows := rfl
@[simp] theorem State.latch_arrays (s : State) (p : Path) (a v : Nat) : (s.latch p a v).arrays = s.arrays := rfl
@[simp] theorem State.latch_cores (s : State) (p : Path) (a v : Nat) : (s.latch p a v).cores = s.cores := rfl
@[simp] theorem State.latch_pgmQueue (s : State) (p : Path) (a v : Nat) : (s.latch p a v).pgmQueue = s.pgmQueue := rfl
@[simp] theorem State.latch_mem (s : State) (p : Path) (a v : Nat) : (s.latch p a v).mem = s.mem := rfl
@[simp] theorem State.latch_host (s : State) (p : Path) (a v : Nat) : (s.latch p a v).host = s.host := rfl
@[simp] theorem State.latch_poison (s : State) (p : Path) (a v : Nat) : (s.latch p a v).poison = s.poison := rfl
@[simp] theorem State.latch_memCe (s : State) (p : Path) (a v : Nat) : (s.latch p a v).memCe = s.memCe := rfl
@[simp] theorem State.latch_memCeAt (s : State) (p : Path) (a v : Nat) : (s.latch p a v).memCeAt = s.memCeAt := rfl
@[simp] theorem State.latch_ev (s : State) (p : Path) (a v : Nat) : (s.latch p a v).ev = s.ev := rfl
@[simp] theorem State.latch_reqs (s : State) (p : Path) (a v : Nat) : (s.latch p a v).reqs = s.reqs := rfl
@[simp] theorem State.latch_nextReq (s : State) (p : Path) (a v : Nat) : (s.latch p a v).nextReq = s.nextReq := rfl
@[simp] theorem State.latch_nextBatch (s : State) (p : Path) (a v : Nat) : (s.latch p a v).nextBatch = s.nextBatch := rfl
@[simp] theorem State.latch_bound (s : State) (p : Path) (a v : Nat) : (s.latch p a v).bound = s.bound := rfl
@[simp] theorem State.latch_pounds (s : State) (p : Path) (a v : Nat) : (s.latch p a v).pounds = s.pounds := rfl
@[simp] theorem State.latch_queues (s : State) (p : Path) (a v : Nat) : (s.latch p a v).queues = s.queues := rfl
@[simp] theorem State.latch_rrLast (s : State) (p : Path) (a v : Nat) : (s.latch p a v).rrLast = s.rrLast := rfl
@[simp] theorem State.latch_expBroken (s : State) (p : Path) (a v : Nat) : (s.latch p a v).expBroken = s.expBroken := rfl
@[simp] theorem State.latch_ctxs (s : State) (p : Path) (a v : Nat) : (s.latch p a v).ctxs = s.ctxs := rfl
@[simp] theorem State.latch_models (s : State) (p : Path) (a v : Nat) : (s.latch p a v).models = s.models := rfl
@[simp] theorem State.latch_adps (s : State) (p : Path) (a v : Nat) : (s.latch p a v).adps = s.adps := rfl
@[simp] theorem State.latch_adpClock (s : State) (p : Path) (a v : Nat) : (s.latch p a v).adpClock = s.adpClock := rfl
@[simp] theorem State.latch_adpGoal (s : State) (p : Path) (a v : Nat) : (s.latch p a v).adpGoal = s.adpGoal := rfl
@[simp] theorem State.latch_ctrs (s : State) (p : Path) (a v : Nat) : (s.latch p a v).ctrs = s.ctrs := rfl
@[simp] theorem State.latch_sweep (s : State) (p : Path) (a v : Nat) : (s.latch p a v).sweep = s.sweep := rfl
@[simp] theorem State.latch_wins (s : State) (p : Path) (a v : Nat) : (s.latch p a v).wins = s.wins := rfl
@[simp] theorem State.latch_net (s : State) (p : Path) (a v : Nat) : (s.latch p a v).net = s.net := rfl
@[simp] theorem State.latch_tal (s : State) (p : Path) (a v : Nat) : (s.latch p a v).tal = s.tal := rfl
@[simp] theorem State.latch_tb (s : State) (p : Path) (a v : Nat) : (s.latch p a v).tb = s.tb := rfl
@[simp] theorem State.latch_ports (s : State) (p : Path) (a v : Nat) : (s.latch p a v).ports = s.ports := rfl
@[simp] theorem State.latch_mons (s : State) (p : Path) (a v : Nat) : (s.latch p a v).mons = s.mons := rfl
@[simp] theorem State.latch_stale (s : State) (p : Path) (a v : Nat) : (s.latch p a v).stale = s.stale := rfl
@[simp] theorem State.latch_recs (s : State) (p : Path) (a v : Nat) : (s.latch p a v).recs = s.recs := rfl
@[simp] theorem State.latch_boot (s : State) (p : Path) (a v : Nat) : (s.latch p a v).boot = s.boot := rfl
@[simp] theorem State.latch_pwr (s : State) (p : Path) (a v : Nat) : (s.latch p a v).pwr = s.pwr := rfl
@[simp] theorem State.latch_time (s : State) (p : Path) (a v : Nat) : (s.latch p a v).time = s.time := rfl
@[simp] theorem State.latch_free (s : State) (p : Path) (a v : Nat) : (s.latch p a v).free = s.free := rfl
@[simp] theorem State.latch_tx (s : State) (p : Path) (a v : Nat) : (s.latch p a v).tx = s.tx := rfl
@[simp] theorem State.latch_pending (s : State) (p : Path) (a v : Nat) : (s.latch p a v).pending = s.pending := rfl

/-! ### putMem -/

@[simp] theorem State.putMem_regs (s : State) (a : Nat) (bs : List Byte) : (s.putMem a bs).regs = s.regs := rfl
@[simp] theorem State.putMem_shadows (s : State) (a : Nat) (bs : List Byte) : (s.putMem a bs).shadows = s.shadows := rfl
@[simp] theorem State.putMem_latches (s : State) (a : Nat) (bs : List Byte) : (s.putMem a bs).latches = s.latches := rfl
@[simp] theorem State.putMem_arrays (s : State) (a : Nat) (bs : List Byte) : (s.putMem a bs).arrays = s.arrays := rfl
@[simp] theorem State.putMem_cores (s : State) (a : Nat) (bs : List Byte) : (s.putMem a bs).cores = s.cores := rfl
@[simp] theorem State.putMem_pgmQueue (s : State) (a : Nat) (bs : List Byte) : (s.putMem a bs).pgmQueue = s.pgmQueue := rfl
@[simp] theorem State.putMem_host (s : State) (a : Nat) (bs : List Byte) : (s.putMem a bs).host = s.host := rfl
@[simp] theorem State.putMem_memCe (s : State) (a : Nat) (bs : List Byte) : (s.putMem a bs).memCe = s.memCe := rfl
@[simp] theorem State.putMem_memCeAt (s : State) (a : Nat) (bs : List Byte) : (s.putMem a bs).memCeAt = s.memCeAt := rfl
@[simp] theorem State.putMem_ev (s : State) (a : Nat) (bs : List Byte) : (s.putMem a bs).ev = s.ev := rfl
@[simp] theorem State.putMem_reqs (s : State) (a : Nat) (bs : List Byte) : (s.putMem a bs).reqs = s.reqs := rfl
@[simp] theorem State.putMem_nextReq (s : State) (a : Nat) (bs : List Byte) : (s.putMem a bs).nextReq = s.nextReq := rfl
@[simp] theorem State.putMem_nextBatch (s : State) (a : Nat) (bs : List Byte) : (s.putMem a bs).nextBatch = s.nextBatch := rfl
@[simp] theorem State.putMem_bound (s : State) (a : Nat) (bs : List Byte) : (s.putMem a bs).bound = s.bound := rfl
@[simp] theorem State.putMem_pounds (s : State) (a : Nat) (bs : List Byte) : (s.putMem a bs).pounds = s.pounds := rfl
@[simp] theorem State.putMem_queues (s : State) (a : Nat) (bs : List Byte) : (s.putMem a bs).queues = s.queues := rfl
@[simp] theorem State.putMem_rrLast (s : State) (a : Nat) (bs : List Byte) : (s.putMem a bs).rrLast = s.rrLast := rfl
@[simp] theorem State.putMem_expBroken (s : State) (a : Nat) (bs : List Byte) : (s.putMem a bs).expBroken = s.expBroken := rfl
@[simp] theorem State.putMem_ctxs (s : State) (a : Nat) (bs : List Byte) : (s.putMem a bs).ctxs = s.ctxs := rfl
@[simp] theorem State.putMem_models (s : State) (a : Nat) (bs : List Byte) : (s.putMem a bs).models = s.models := rfl
@[simp] theorem State.putMem_adps (s : State) (a : Nat) (bs : List Byte) : (s.putMem a bs).adps = s.adps := rfl
@[simp] theorem State.putMem_adpClock (s : State) (a : Nat) (bs : List Byte) : (s.putMem a bs).adpClock = s.adpClock := rfl
@[simp] theorem State.putMem_adpGoal (s : State) (a : Nat) (bs : List Byte) : (s.putMem a bs).adpGoal = s.adpGoal := rfl
@[simp] theorem State.putMem_ctrs (s : State) (a : Nat) (bs : List Byte) : (s.putMem a bs).ctrs = s.ctrs := rfl
@[simp] theorem State.putMem_sweep (s : State) (a : Nat) (bs : List Byte) : (s.putMem a bs).sweep = s.sweep := rfl
@[simp] theorem State.putMem_wins (s : State) (a : Nat) (bs : List Byte) : (s.putMem a bs).wins = s.wins := rfl
@[simp] theorem State.putMem_net (s : State) (a : Nat) (bs : List Byte) : (s.putMem a bs).net = s.net := rfl
@[simp] theorem State.putMem_tal (s : State) (a : Nat) (bs : List Byte) : (s.putMem a bs).tal = s.tal := rfl
@[simp] theorem State.putMem_tb (s : State) (a : Nat) (bs : List Byte) : (s.putMem a bs).tb = s.tb := rfl
@[simp] theorem State.putMem_ports (s : State) (a : Nat) (bs : List Byte) : (s.putMem a bs).ports = s.ports := rfl
@[simp] theorem State.putMem_mons (s : State) (a : Nat) (bs : List Byte) : (s.putMem a bs).mons = s.mons := rfl
@[simp] theorem State.putMem_stale (s : State) (a : Nat) (bs : List Byte) : (s.putMem a bs).stale = s.stale := rfl
@[simp] theorem State.putMem_recs (s : State) (a : Nat) (bs : List Byte) : (s.putMem a bs).recs = s.recs := rfl
@[simp] theorem State.putMem_boot (s : State) (a : Nat) (bs : List Byte) : (s.putMem a bs).boot = s.boot := rfl
@[simp] theorem State.putMem_pwr (s : State) (a : Nat) (bs : List Byte) : (s.putMem a bs).pwr = s.pwr := rfl
@[simp] theorem State.putMem_time (s : State) (a : Nat) (bs : List Byte) : (s.putMem a bs).time = s.time := rfl
@[simp] theorem State.putMem_free (s : State) (a : Nat) (bs : List Byte) : (s.putMem a bs).free = s.free := rfl
@[simp] theorem State.putMem_tx (s : State) (a : Nat) (bs : List Byte) : (s.putMem a bs).tx = s.tx := rfl
@[simp] theorem State.putMem_pending (s : State) (a : Nat) (bs : List Byte) : (s.putMem a bs).pending = s.pending := rfl

/-! ### modSent -/

@[simp] theorem State.modSent_regs (s : State) (p pos : Nat) (f : Sentence → Sentence) : (s.modSent p pos f).regs = s.regs := rfl
@[simp] theorem State.modSent_shadows (s : State) (p pos : Nat) (f : Sentence → Sentence) : (s.modSent p pos f).shadows = s.shadows := rfl
@[simp] theorem State.modSent_latches (s : State) (p pos : Nat) (f : Sentence → Sentence) : (s.modSent p pos f).latches = s.latches := rfl
@[simp] theorem State.modSent_arrays (s : State) (p pos : Nat) (f : Sentence → Sentence) : (s.modSent p pos f).arrays = s.arrays := rfl
@[simp] theorem State.modSent_cores (s : State) (p pos : Nat) (f : Sentence → Sentence) : (s.modSent p pos f).cores = s.cores := rfl
@[simp] theorem State.modSent_pgmQueue (s : State) (p pos : Nat) (f : Sentence → Sentence) : (s.modSent p pos f).pgmQueue = s.pgmQueue := rfl
@[simp] theorem State.modSent_mem (s : State) (p pos : Nat) (f : Sentence → Sentence) : (s.modSent p pos f).mem = s.mem := rfl
@[simp] theorem State.modSent_host (s : State) (p pos : Nat) (f : Sentence → Sentence) : (s.modSent p pos f).host = s.host := rfl
@[simp] theorem State.modSent_poison (s : State) (p pos : Nat) (f : Sentence → Sentence) : (s.modSent p pos f).poison = s.poison := rfl
@[simp] theorem State.modSent_memCe (s : State) (p pos : Nat) (f : Sentence → Sentence) : (s.modSent p pos f).memCe = s.memCe := rfl
@[simp] theorem State.modSent_memCeAt (s : State) (p pos : Nat) (f : Sentence → Sentence) : (s.modSent p pos f).memCeAt = s.memCeAt := rfl
@[simp] theorem State.modSent_ev (s : State) (p pos : Nat) (f : Sentence → Sentence) : (s.modSent p pos f).ev = s.ev := rfl
@[simp] theorem State.modSent_reqs (s : State) (p pos : Nat) (f : Sentence → Sentence) : (s.modSent p pos f).reqs = s.reqs := rfl
@[simp] theorem State.modSent_nextReq (s : State) (p pos : Nat) (f : Sentence → Sentence) : (s.modSent p pos f).nextReq = s.nextReq := rfl
@[simp] theorem State.modSent_nextBatch (s : State) (p pos : Nat) (f : Sentence → Sentence) : (s.modSent p pos f).nextBatch = s.nextBatch := rfl
@[simp] theorem State.modSent_bound (s : State) (p pos : Nat) (f : Sentence → Sentence) : (s.modSent p pos f).bound = s.bound := rfl
@[simp] theorem State.modSent_queues (s : State) (p pos : Nat) (f : Sentence → Sentence) : (s.modSent p pos f).queues = s.queues := rfl
@[simp] theorem State.modSent_rrLast (s : State) (p pos : Nat) (f : Sentence → Sentence) : (s.modSent p pos f).rrLast = s.rrLast := rfl
@[simp] theorem State.modSent_expBroken (s : State) (p pos : Nat) (f : Sentence → Sentence) : (s.modSent p pos f).expBroken = s.expBroken := rfl
@[simp] theorem State.modSent_ctxs (s : State) (p pos : Nat) (f : Sentence → Sentence) : (s.modSent p pos f).ctxs = s.ctxs := rfl
@[simp] theorem State.modSent_models (s : State) (p pos : Nat) (f : Sentence → Sentence) : (s.modSent p pos f).models = s.models := rfl
@[simp] theorem State.modSent_adps (s : State) (p pos : Nat) (f : Sentence → Sentence) : (s.modSent p pos f).adps = s.adps := rfl
@[simp] theorem State.modSent_adpClock (s : State) (p pos : Nat) (f : Sentence → Sentence) : (s.modSent p pos f).adpClock = s.adpClock := rfl
@[simp] theorem State.modSent_adpGoal (s : State) (p pos : Nat) (f : Sentence → Sentence) : (s.modSent p pos f).adpGoal = s.adpGoal := rfl
@[simp] theorem State.modSent_ctrs (s : State) (p pos : Nat) (f : Sentence → Sentence) : (s.modSent p pos f).ctrs = s.ctrs := rfl
@[simp] theorem State.modSent_sweep (s : State) (p pos : Nat) (f : Sentence → Sentence) : (s.modSent p pos f).sweep = s.sweep := rfl
@[simp] theorem State.modSent_wins (s : State) (p pos : Nat) (f : Sentence → Sentence) : (s.modSent p pos f).wins = s.wins := rfl
@[simp] theorem State.modSent_net (s : State) (p pos : Nat) (f : Sentence → Sentence) : (s.modSent p pos f).net = s.net := rfl
@[simp] theorem State.modSent_tal (s : State) (p pos : Nat) (f : Sentence → Sentence) : (s.modSent p pos f).tal = s.tal := rfl
@[simp] theorem State.modSent_tb (s : State) (p pos : Nat) (f : Sentence → Sentence) : (s.modSent p pos f).tb = s.tb := rfl
@[simp] theorem State.modSent_ports (s : State) (p pos : Nat) (f : Sentence → Sentence) : (s.modSent p pos f).ports = s.ports := rfl
@[simp] theorem State.modSent_mons (s : State) (p pos : Nat) (f : Sentence → Sentence) : (s.modSent p pos f).mons = s.mons := rfl
@[simp] theorem State.modSent_stale (s : State) (p pos : Nat) (f : Sentence → Sentence) : (s.modSent p pos f).stale = s.stale := rfl
@[simp] theorem State.modSent_recs (s : State) (p pos : Nat) (f : Sentence → Sentence) : (s.modSent p pos f).recs = s.recs := rfl
@[simp] theorem State.modSent_boot (s : State) (p pos : Nat) (f : Sentence → Sentence) : (s.modSent p pos f).boot = s.boot := rfl
@[simp] theorem State.modSent_pwr (s : State) (p pos : Nat) (f : Sentence → Sentence) : (s.modSent p pos f).pwr = s.pwr := rfl
@[simp] theorem State.modSent_time (s : State) (p pos : Nat) (f : Sentence → Sentence) : (s.modSent p pos f).time = s.time := rfl
@[simp] theorem State.modSent_free (s : State) (p pos : Nat) (f : Sentence → Sentence) : (s.modSent p pos f).free = s.free := rfl
@[simp] theorem State.modSent_tx (s : State) (p pos : Nat) (f : Sentence → Sentence) : (s.modSent p pos f).tx = s.tx := rfl
@[simp] theorem State.modSent_pending (s : State) (p pos : Nat) (f : Sentence → Sentence) : (s.modSent p pos f).pending = s.pending := rfl

/-! ### modRun -/

@[simp] theorem State.modRun_regs (s : State) (r : EntryRef) (f : EntryRun → EntryRun) : (s.modRun r f).regs = s.regs := rfl
@[simp] theorem State.modRun_shadows (s : State) (r : EntryRef) (f : EntryRun → EntryRun) : (s.modRun r f).shadows = s.shadows := rfl
@[simp] theorem State.modRun_latches (s : State) (r : EntryRef) (f : EntryRun → EntryRun) : (s.modRun r f).latches = s.latches := rfl
@[simp] theorem State.modRun_arrays (s : State) (r : EntryRef) (f : EntryRun → EntryRun) : (s.modRun r f).arrays = s.arrays := rfl
@[simp] theorem State.modRun_cores (s : State) (r : EntryRef) (f : EntryRun → EntryRun) : (s.modRun r f).cores = s.cores := rfl
@[simp] theorem State.modRun_pgmQueue (s : State) (r : EntryRef) (f : EntryRun → EntryRun) : (s.modRun r f).pgmQueue = s.pgmQueue := rfl
@[simp] theorem State.modRun_mem (s : State) (r : EntryRef) (f : EntryRun → EntryRun) : (s.modRun r f).mem = s.mem := rfl
@[simp] theorem State.modRun_host (s : State) (r : EntryRef) (f : EntryRun → EntryRun) : (s.modRun r f).host = s.host := rfl
@[simp] theorem State.modRun_poison (s : State) (r : EntryRef) (f : EntryRun → EntryRun) : (s.modRun r f).poison = s.poison := rfl
@[simp] theorem State.modRun_memCe (s : State) (r : EntryRef) (f : EntryRun → EntryRun) : (s.modRun r f).memCe = s.memCe := rfl
@[simp] theorem State.modRun_memCeAt (s : State) (r : EntryRef) (f : EntryRun → EntryRun) : (s.modRun r f).memCeAt = s.memCeAt := rfl
@[simp] theorem State.modRun_ev (s : State) (r : EntryRef) (f : EntryRun → EntryRun) : (s.modRun r f).ev = s.ev := rfl
@[simp] theorem State.modRun_reqs (s : State) (r : EntryRef) (f : EntryRun → EntryRun) : (s.modRun r f).reqs = s.reqs := rfl
@[simp] theorem State.modRun_nextReq (s : State) (r : EntryRef) (f : EntryRun → EntryRun) : (s.modRun r f).nextReq = s.nextReq := rfl
@[simp] theorem State.modRun_nextBatch (s : State) (r : EntryRef) (f : EntryRun → EntryRun) : (s.modRun r f).nextBatch = s.nextBatch := rfl
@[simp] theorem State.modRun_bound (s : State) (r : EntryRef) (f : EntryRun → EntryRun) : (s.modRun r f).bound = s.bound := rfl
@[simp] theorem State.modRun_queues (s : State) (r : EntryRef) (f : EntryRun → EntryRun) : (s.modRun r f).queues = s.queues := rfl
@[simp] theorem State.modRun_rrLast (s : State) (r : EntryRef) (f : EntryRun → EntryRun) : (s.modRun r f).rrLast = s.rrLast := rfl
@[simp] theorem State.modRun_expBroken (s : State) (r : EntryRef) (f : EntryRun → EntryRun) : (s.modRun r f).expBroken = s.expBroken := rfl
@[simp] theorem State.modRun_ctxs (s : State) (r : EntryRef) (f : EntryRun → EntryRun) : (s.modRun r f).ctxs = s.ctxs := rfl
@[simp] theorem State.modRun_models (s : State) (r : EntryRef) (f : EntryRun → EntryRun) : (s.modRun r f).models = s.models := rfl
@[simp] theorem State.modRun_adps (s : State) (r : EntryRef) (f : EntryRun → EntryRun) : (s.modRun r f).adps = s.adps := rfl
@[simp] theorem State.modRun_adpClock (s : State) (r : EntryRef) (f : EntryRun → EntryRun) : (s.modRun r f).adpClock = s.adpClock := rfl
@[simp] theorem State.modRun_adpGoal (s : State) (r : EntryRef) (f : EntryRun → EntryRun) : (s.modRun r f).adpGoal = s.adpGoal := rfl
@[simp] theorem State.modRun_ctrs (s : State) (r : EntryRef) (f : EntryRun → EntryRun) : (s.modRun r f).ctrs = s.ctrs := rfl
@[simp] theorem State.modRun_sweep (s : State) (r : EntryRef) (f : EntryRun → EntryRun) : (s.modRun r f).sweep = s.sweep := rfl
@[simp] theorem State.modRun_wins (s : State) (r : EntryRef) (f : EntryRun → EntryRun) : (s.modRun r f).wins = s.wins := rfl
@[simp] theorem State.modRun_net (s : State) (r : EntryRef) (f : EntryRun → EntryRun) : (s.modRun r f).net = s.net := rfl
@[simp] theorem State.modRun_tal (s : State) (r : EntryRef) (f : EntryRun → EntryRun) : (s.modRun r f).tal = s.tal := rfl
@[simp] theorem State.modRun_tb (s : State) (r : EntryRef) (f : EntryRun → EntryRun) : (s.modRun r f).tb = s.tb := rfl
@[simp] theorem State.modRun_ports (s : State) (r : EntryRef) (f : EntryRun → EntryRun) : (s.modRun r f).ports = s.ports := rfl
@[simp] theorem State.modRun_mons (s : State) (r : EntryRef) (f : EntryRun → EntryRun) : (s.modRun r f).mons = s.mons := rfl
@[simp] theorem State.modRun_stale (s : State) (r : EntryRef) (f : EntryRun → EntryRun) : (s.modRun r f).stale = s.stale := rfl
@[simp] theorem State.modRun_recs (s : State) (r : EntryRef) (f : EntryRun → EntryRun) : (s.modRun r f).recs = s.recs := rfl
@[simp] theorem State.modRun_boot (s : State) (r : EntryRef) (f : EntryRun → EntryRun) : (s.modRun r f).boot = s.boot := rfl
@[simp] theorem State.modRun_pwr (s : State) (r : EntryRef) (f : EntryRun → EntryRun) : (s.modRun r f).pwr = s.pwr := rfl
@[simp] theorem State.modRun_time (s : State) (r : EntryRef) (f : EntryRun → EntryRun) : (s.modRun r f).time = s.time := rfl
@[simp] theorem State.modRun_free (s : State) (r : EntryRef) (f : EntryRun → EntryRun) : (s.modRun r f).free = s.free := rfl
@[simp] theorem State.modRun_tx (s : State) (r : EntryRef) (f : EntryRun → EntryRun) : (s.modRun r f).tx = s.tx := rfl
@[simp] theorem State.modRun_pending (s : State) (r : EntryRef) (f : EntryRun → EntryRun) : (s.modRun r f).pending = s.pending := rfl

/-! ### modLock -/

@[simp] theorem State.modLock_regs (s : State) (m p : Nat) (f : PoundLock → PoundLock) : (s.modLock m p f).regs = s.regs := rfl
@[simp] theorem State.modLock_shadows (s : State) (m p : Nat) (f : PoundLock → PoundLock) : (s.modLock m p f).shadows = s.shadows := rfl
@[simp] theorem State.modLock_latches (s : State) (m p : Nat) (f : PoundLock → PoundLock) : (s.modLock m p f).latches = s.latches := rfl
@[simp] theorem State.modLock_arrays (s : State) (m p : Nat) (f : PoundLock → PoundLock) : (s.modLock m p f).arrays = s.arrays := rfl
@[simp] theorem State.modLock_cores (s : State) (m p : Nat) (f : PoundLock → PoundLock) : (s.modLock m p f).cores = s.cores := rfl
@[simp] theorem State.modLock_pgmQueue (s : State) (m p : Nat) (f : PoundLock → PoundLock) : (s.modLock m p f).pgmQueue = s.pgmQueue := rfl
@[simp] theorem State.modLock_mem (s : State) (m p : Nat) (f : PoundLock → PoundLock) : (s.modLock m p f).mem = s.mem := rfl
@[simp] theorem State.modLock_host (s : State) (m p : Nat) (f : PoundLock → PoundLock) : (s.modLock m p f).host = s.host := rfl
@[simp] theorem State.modLock_poison (s : State) (m p : Nat) (f : PoundLock → PoundLock) : (s.modLock m p f).poison = s.poison := rfl
@[simp] theorem State.modLock_memCe (s : State) (m p : Nat) (f : PoundLock → PoundLock) : (s.modLock m p f).memCe = s.memCe := rfl
@[simp] theorem State.modLock_memCeAt (s : State) (m p : Nat) (f : PoundLock → PoundLock) : (s.modLock m p f).memCeAt = s.memCeAt := rfl
@[simp] theorem State.modLock_ev (s : State) (m p : Nat) (f : PoundLock → PoundLock) : (s.modLock m p f).ev = s.ev := rfl
@[simp] theorem State.modLock_reqs (s : State) (m p : Nat) (f : PoundLock → PoundLock) : (s.modLock m p f).reqs = s.reqs := rfl
@[simp] theorem State.modLock_nextReq (s : State) (m p : Nat) (f : PoundLock → PoundLock) : (s.modLock m p f).nextReq = s.nextReq := rfl
@[simp] theorem State.modLock_nextBatch (s : State) (m p : Nat) (f : PoundLock → PoundLock) : (s.modLock m p f).nextBatch = s.nextBatch := rfl
@[simp] theorem State.modLock_bound (s : State) (m p : Nat) (f : PoundLock → PoundLock) : (s.modLock m p f).bound = s.bound := rfl
@[simp] theorem State.modLock_pounds (s : State) (m p : Nat) (f : PoundLock → PoundLock) : (s.modLock m p f).pounds = s.pounds := rfl
@[simp] theorem State.modLock_queues (s : State) (m p : Nat) (f : PoundLock → PoundLock) : (s.modLock m p f).queues = s.queues := rfl
@[simp] theorem State.modLock_rrLast (s : State) (m p : Nat) (f : PoundLock → PoundLock) : (s.modLock m p f).rrLast = s.rrLast := rfl
@[simp] theorem State.modLock_expBroken (s : State) (m p : Nat) (f : PoundLock → PoundLock) : (s.modLock m p f).expBroken = s.expBroken := rfl
@[simp] theorem State.modLock_ctxs (s : State) (m p : Nat) (f : PoundLock → PoundLock) : (s.modLock m p f).ctxs = s.ctxs := rfl
@[simp] theorem State.modLock_adps (s : State) (m p : Nat) (f : PoundLock → PoundLock) : (s.modLock m p f).adps = s.adps := rfl
@[simp] theorem State.modLock_adpClock (s : State) (m p : Nat) (f : PoundLock → PoundLock) : (s.modLock m p f).adpClock = s.adpClock := rfl
@[simp] theorem State.modLock_adpGoal (s : State) (m p : Nat) (f : PoundLock → PoundLock) : (s.modLock m p f).adpGoal = s.adpGoal := rfl
@[simp] theorem State.modLock_ctrs (s : State) (m p : Nat) (f : PoundLock → PoundLock) : (s.modLock m p f).ctrs = s.ctrs := rfl
@[simp] theorem State.modLock_sweep (s : State) (m p : Nat) (f : PoundLock → PoundLock) : (s.modLock m p f).sweep = s.sweep := rfl
@[simp] theorem State.modLock_wins (s : State) (m p : Nat) (f : PoundLock → PoundLock) : (s.modLock m p f).wins = s.wins := rfl
@[simp] theorem State.modLock_net (s : State) (m p : Nat) (f : PoundLock → PoundLock) : (s.modLock m p f).net = s.net := rfl
@[simp] theorem State.modLock_tal (s : State) (m p : Nat) (f : PoundLock → PoundLock) : (s.modLock m p f).tal = s.tal := rfl
@[simp] theorem State.modLock_tb (s : State) (m p : Nat) (f : PoundLock → PoundLock) : (s.modLock m p f).tb = s.tb := rfl
@[simp] theorem State.modLock_ports (s : State) (m p : Nat) (f : PoundLock → PoundLock) : (s.modLock m p f).ports = s.ports := rfl
@[simp] theorem State.modLock_mons (s : State) (m p : Nat) (f : PoundLock → PoundLock) : (s.modLock m p f).mons = s.mons := rfl
@[simp] theorem State.modLock_stale (s : State) (m p : Nat) (f : PoundLock → PoundLock) : (s.modLock m p f).stale = s.stale := rfl
@[simp] theorem State.modLock_recs (s : State) (m p : Nat) (f : PoundLock → PoundLock) : (s.modLock m p f).recs = s.recs := rfl
@[simp] theorem State.modLock_boot (s : State) (m p : Nat) (f : PoundLock → PoundLock) : (s.modLock m p f).boot = s.boot := rfl
@[simp] theorem State.modLock_pwr (s : State) (m p : Nat) (f : PoundLock → PoundLock) : (s.modLock m p f).pwr = s.pwr := rfl
@[simp] theorem State.modLock_time (s : State) (m p : Nat) (f : PoundLock → PoundLock) : (s.modLock m p f).time = s.time := rfl
@[simp] theorem State.modLock_free (s : State) (m p : Nat) (f : PoundLock → PoundLock) : (s.modLock m p f).free = s.free := rfl
@[simp] theorem State.modLock_tx (s : State) (m p : Nat) (f : PoundLock → PoundLock) : (s.modLock m p f).tx = s.tx := rfl
@[simp] theorem State.modLock_pending (s : State) (m p : Nat) (f : PoundLock → PoundLock) : (s.modLock m p f).pending = s.pending := rfl

/-! ### modChan -/

@[simp] theorem State.modChan_regs (s : State) (i ch : Nat) (f : Chan → Chan) : (s.modChan i ch f).regs = s.regs := rfl
@[simp] theorem State.modChan_shadows (s : State) (i ch : Nat) (f : Chan → Chan) : (s.modChan i ch f).shadows = s.shadows := rfl
@[simp] theorem State.modChan_latches (s : State) (i ch : Nat) (f : Chan → Chan) : (s.modChan i ch f).latches = s.latches := rfl
@[simp] theorem State.modChan_arrays (s : State) (i ch : Nat) (f : Chan → Chan) : (s.modChan i ch f).arrays = s.arrays := rfl
@[simp] theorem State.modChan_cores (s : State) (i ch : Nat) (f : Chan → Chan) : (s.modChan i ch f).cores = s.cores := rfl
@[simp] theorem State.modChan_pgmQueue (s : State) (i ch : Nat) (f : Chan → Chan) : (s.modChan i ch f).pgmQueue = s.pgmQueue := rfl
@[simp] theorem State.modChan_mem (s : State) (i ch : Nat) (f : Chan → Chan) : (s.modChan i ch f).mem = s.mem := rfl
@[simp] theorem State.modChan_host (s : State) (i ch : Nat) (f : Chan → Chan) : (s.modChan i ch f).host = s.host := rfl
@[simp] theorem State.modChan_poison (s : State) (i ch : Nat) (f : Chan → Chan) : (s.modChan i ch f).poison = s.poison := rfl
@[simp] theorem State.modChan_memCe (s : State) (i ch : Nat) (f : Chan → Chan) : (s.modChan i ch f).memCe = s.memCe := rfl
@[simp] theorem State.modChan_memCeAt (s : State) (i ch : Nat) (f : Chan → Chan) : (s.modChan i ch f).memCeAt = s.memCeAt := rfl
@[simp] theorem State.modChan_ev (s : State) (i ch : Nat) (f : Chan → Chan) : (s.modChan i ch f).ev = s.ev := rfl
@[simp] theorem State.modChan_reqs (s : State) (i ch : Nat) (f : Chan → Chan) : (s.modChan i ch f).reqs = s.reqs := rfl
@[simp] theorem State.modChan_nextReq (s : State) (i ch : Nat) (f : Chan → Chan) : (s.modChan i ch f).nextReq = s.nextReq := rfl
@[simp] theorem State.modChan_nextBatch (s : State) (i ch : Nat) (f : Chan → Chan) : (s.modChan i ch f).nextBatch = s.nextBatch := rfl
@[simp] theorem State.modChan_bound (s : State) (i ch : Nat) (f : Chan → Chan) : (s.modChan i ch f).bound = s.bound := rfl
@[simp] theorem State.modChan_pounds (s : State) (i ch : Nat) (f : Chan → Chan) : (s.modChan i ch f).pounds = s.pounds := rfl
@[simp] theorem State.modChan_queues (s : State) (i ch : Nat) (f : Chan → Chan) : (s.modChan i ch f).queues = s.queues := rfl
@[simp] theorem State.modChan_rrLast (s : State) (i ch : Nat) (f : Chan → Chan) : (s.modChan i ch f).rrLast = s.rrLast := rfl
@[simp] theorem State.modChan_expBroken (s : State) (i ch : Nat) (f : Chan → Chan) : (s.modChan i ch f).expBroken = s.expBroken := rfl
@[simp] theorem State.modChan_ctxs (s : State) (i ch : Nat) (f : Chan → Chan) : (s.modChan i ch f).ctxs = s.ctxs := rfl
@[simp] theorem State.modChan_models (s : State) (i ch : Nat) (f : Chan → Chan) : (s.modChan i ch f).models = s.models := rfl
@[simp] theorem State.modChan_adps (s : State) (i ch : Nat) (f : Chan → Chan) : (s.modChan i ch f).adps = s.adps := rfl
@[simp] theorem State.modChan_adpClock (s : State) (i ch : Nat) (f : Chan → Chan) : (s.modChan i ch f).adpClock = s.adpClock := rfl
@[simp] theorem State.modChan_adpGoal (s : State) (i ch : Nat) (f : Chan → Chan) : (s.modChan i ch f).adpGoal = s.adpGoal := rfl
@[simp] theorem State.modChan_ctrs (s : State) (i ch : Nat) (f : Chan → Chan) : (s.modChan i ch f).ctrs = s.ctrs := rfl
@[simp] theorem State.modChan_sweep (s : State) (i ch : Nat) (f : Chan → Chan) : (s.modChan i ch f).sweep = s.sweep := rfl
@[simp] theorem State.modChan_wins (s : State) (i ch : Nat) (f : Chan → Chan) : (s.modChan i ch f).wins = s.wins := rfl
@[simp] theorem State.modChan_tal (s : State) (i ch : Nat) (f : Chan → Chan) : (s.modChan i ch f).tal = s.tal := rfl
@[simp] theorem State.modChan_tb (s : State) (i ch : Nat) (f : Chan → Chan) : (s.modChan i ch f).tb = s.tb := rfl
@[simp] theorem State.modChan_ports (s : State) (i ch : Nat) (f : Chan → Chan) : (s.modChan i ch f).ports = s.ports := rfl
@[simp] theorem State.modChan_mons (s : State) (i ch : Nat) (f : Chan → Chan) : (s.modChan i ch f).mons = s.mons := rfl
@[simp] theorem State.modChan_stale (s : State) (i ch : Nat) (f : Chan → Chan) : (s.modChan i ch f).stale = s.stale := rfl
@[simp] theorem State.modChan_recs (s : State) (i ch : Nat) (f : Chan → Chan) : (s.modChan i ch f).recs = s.recs := rfl
@[simp] theorem State.modChan_boot (s : State) (i ch : Nat) (f : Chan → Chan) : (s.modChan i ch f).boot = s.boot := rfl
@[simp] theorem State.modChan_pwr (s : State) (i ch : Nat) (f : Chan → Chan) : (s.modChan i ch f).pwr = s.pwr := rfl
@[simp] theorem State.modChan_time (s : State) (i ch : Nat) (f : Chan → Chan) : (s.modChan i ch f).time = s.time := rfl
@[simp] theorem State.modChan_free (s : State) (i ch : Nat) (f : Chan → Chan) : (s.modChan i ch f).free = s.free := rfl
@[simp] theorem State.modChan_tx (s : State) (i ch : Nat) (f : Chan → Chan) : (s.modChan i ch f).tx = s.tx := rfl
@[simp] theorem State.modChan_pending (s : State) (i ch : Nat) (f : Chan → Chan) : (s.modChan i ch f).pending = s.pending := rfl

/-! ### setCal -/

@[simp] theorem State.setCal_regs (s : State) (c set : Nat) (v : CalSet) : (s.setCal c set v).regs = s.regs := rfl
@[simp] theorem State.setCal_shadows (s : State) (c set : Nat) (v : CalSet) : (s.setCal c set v).shadows = s.shadows := rfl
@[simp] theorem State.setCal_latches (s : State) (c set : Nat) (v : CalSet) : (s.setCal c set v).latches = s.latches := rfl
@[simp] theorem State.setCal_arrays (s : State) (c set : Nat) (v : CalSet) : (s.setCal c set v).arrays = s.arrays := rfl
@[simp] theorem State.setCal_pgmQueue (s : State) (c set : Nat) (v : CalSet) : (s.setCal c set v).pgmQueue = s.pgmQueue := rfl
@[simp] theorem State.setCal_mem (s : State) (c set : Nat) (v : CalSet) : (s.setCal c set v).mem = s.mem := rfl
@[simp] theorem State.setCal_host (s : State) (c set : Nat) (v : CalSet) : (s.setCal c set v).host = s.host := rfl
@[simp] theorem State.setCal_poison (s : State) (c set : Nat) (v : CalSet) : (s.setCal c set v).poison = s.poison := rfl
@[simp] theorem State.setCal_memCe (s : State) (c set : Nat) (v : CalSet) : (s.setCal c set v).memCe = s.memCe := rfl
@[simp] theorem State.setCal_memCeAt (s : State) (c set : Nat) (v : CalSet) : (s.setCal c set v).memCeAt = s.memCeAt := rfl
@[simp] theorem State.setCal_ev (s : State) (c set : Nat) (v : CalSet) : (s.setCal c set v).ev = s.ev := rfl
@[simp] theorem State.setCal_reqs (s : State) (c set : Nat) (v : CalSet) : (s.setCal c set v).reqs = s.reqs := rfl
@[simp] theorem State.setCal_nextReq (s : State) (c set : Nat) (v : CalSet) : (s.setCal c set v).nextReq = s.nextReq := rfl
@[simp] theorem State.setCal_nextBatch (s : State) (c set : Nat) (v : CalSet) : (s.setCal c set v).nextBatch = s.nextBatch := rfl
@[simp] theorem State.setCal_bound (s : State) (c set : Nat) (v : CalSet) : (s.setCal c set v).bound = s.bound := rfl
@[simp] theorem State.setCal_pounds (s : State) (c set : Nat) (v : CalSet) : (s.setCal c set v).pounds = s.pounds := rfl
@[simp] theorem State.setCal_queues (s : State) (c set : Nat) (v : CalSet) : (s.setCal c set v).queues = s.queues := rfl
@[simp] theorem State.setCal_rrLast (s : State) (c set : Nat) (v : CalSet) : (s.setCal c set v).rrLast = s.rrLast := rfl
@[simp] theorem State.setCal_expBroken (s : State) (c set : Nat) (v : CalSet) : (s.setCal c set v).expBroken = s.expBroken := rfl
@[simp] theorem State.setCal_ctxs (s : State) (c set : Nat) (v : CalSet) : (s.setCal c set v).ctxs = s.ctxs := rfl
@[simp] theorem State.setCal_models (s : State) (c set : Nat) (v : CalSet) : (s.setCal c set v).models = s.models := rfl
@[simp] theorem State.setCal_adps (s : State) (c set : Nat) (v : CalSet) : (s.setCal c set v).adps = s.adps := rfl
@[simp] theorem State.setCal_adpClock (s : State) (c set : Nat) (v : CalSet) : (s.setCal c set v).adpClock = s.adpClock := rfl
@[simp] theorem State.setCal_adpGoal (s : State) (c set : Nat) (v : CalSet) : (s.setCal c set v).adpGoal = s.adpGoal := rfl
@[simp] theorem State.setCal_ctrs (s : State) (c set : Nat) (v : CalSet) : (s.setCal c set v).ctrs = s.ctrs := rfl
@[simp] theorem State.setCal_sweep (s : State) (c set : Nat) (v : CalSet) : (s.setCal c set v).sweep = s.sweep := rfl
@[simp] theorem State.setCal_wins (s : State) (c set : Nat) (v : CalSet) : (s.setCal c set v).wins = s.wins := rfl
@[simp] theorem State.setCal_net (s : State) (c set : Nat) (v : CalSet) : (s.setCal c set v).net = s.net := rfl
@[simp] theorem State.setCal_tal (s : State) (c set : Nat) (v : CalSet) : (s.setCal c set v).tal = s.tal := rfl
@[simp] theorem State.setCal_tb (s : State) (c set : Nat) (v : CalSet) : (s.setCal c set v).tb = s.tb := rfl
@[simp] theorem State.setCal_ports (s : State) (c set : Nat) (v : CalSet) : (s.setCal c set v).ports = s.ports := rfl
@[simp] theorem State.setCal_mons (s : State) (c set : Nat) (v : CalSet) : (s.setCal c set v).mons = s.mons := rfl
@[simp] theorem State.setCal_stale (s : State) (c set : Nat) (v : CalSet) : (s.setCal c set v).stale = s.stale := rfl
@[simp] theorem State.setCal_recs (s : State) (c set : Nat) (v : CalSet) : (s.setCal c set v).recs = s.recs := rfl
@[simp] theorem State.setCal_boot (s : State) (c set : Nat) (v : CalSet) : (s.setCal c set v).boot = s.boot := rfl
@[simp] theorem State.setCal_pwr (s : State) (c set : Nat) (v : CalSet) : (s.setCal c set v).pwr = s.pwr := rfl
@[simp] theorem State.setCal_time (s : State) (c set : Nat) (v : CalSet) : (s.setCal c set v).time = s.time := rfl
@[simp] theorem State.setCal_free (s : State) (c set : Nat) (v : CalSet) : (s.setCal c set v).free = s.free := rfl
@[simp] theorem State.setCal_tx (s : State) (c set : Nat) (v : CalSet) : (s.setCal c set v).tx = s.tx := rfl
@[simp] theorem State.setCal_pending (s : State) (c set : Nat) (v : CalSet) : (s.setCal c set v).pending = s.pending := rfl

/-! ### talCode -/

@[simp] theorem State.talCode_regs (s : State) (code : Nat) : (s.talCode code).regs = s.regs := rfl
@[simp] theorem State.talCode_shadows (s : State) (code : Nat) : (s.talCode code).shadows = s.shadows := rfl
@[simp] theorem State.talCode_latches (s : State) (code : Nat) : (s.talCode code).latches = s.latches := rfl
@[simp] theorem State.talCode_arrays (s : State) (code : Nat) : (s.talCode code).arrays = s.arrays := rfl
@[simp] theorem State.talCode_cores (s : State) (code : Nat) : (s.talCode code).cores = s.cores := rfl
@[simp] theorem State.talCode_pgmQueue (s : State) (code : Nat) : (s.talCode code).pgmQueue = s.pgmQueue := rfl
@[simp] theorem State.talCode_mem (s : State) (code : Nat) : (s.talCode code).mem = s.mem := rfl
@[simp] theorem State.talCode_host (s : State) (code : Nat) : (s.talCode code).host = s.host := rfl
@[simp] theorem State.talCode_poison (s : State) (code : Nat) : (s.talCode code).poison = s.poison := rfl
@[simp] theorem State.talCode_memCe (s : State) (code : Nat) : (s.talCode code).memCe = s.memCe := rfl
@[simp] theorem State.talCode_memCeAt (s : State) (code : Nat) : (s.talCode code).memCeAt = s.memCeAt := rfl
@[simp] theorem State.talCode_ev (s : State) (code : Nat) : (s.talCode code).ev = s.ev := rfl
@[simp] theorem State.talCode_reqs (s : State) (code : Nat) : (s.talCode code).reqs = s.reqs := rfl
@[simp] theorem State.talCode_nextReq (s : State) (code : Nat) : (s.talCode code).nextReq = s.nextReq := rfl
@[simp] theorem State.talCode_nextBatch (s : State) (code : Nat) : (s.talCode code).nextBatch = s.nextBatch := rfl
@[simp] theorem State.talCode_bound (s : State) (code : Nat) : (s.talCode code).bound = s.bound := rfl
@[simp] theorem State.talCode_pounds (s : State) (code : Nat) : (s.talCode code).pounds = s.pounds := rfl
@[simp] theorem State.talCode_queues (s : State) (code : Nat) : (s.talCode code).queues = s.queues := rfl
@[simp] theorem State.talCode_rrLast (s : State) (code : Nat) : (s.talCode code).rrLast = s.rrLast := rfl
@[simp] theorem State.talCode_expBroken (s : State) (code : Nat) : (s.talCode code).expBroken = s.expBroken := rfl
@[simp] theorem State.talCode_ctxs (s : State) (code : Nat) : (s.talCode code).ctxs = s.ctxs := rfl
@[simp] theorem State.talCode_models (s : State) (code : Nat) : (s.talCode code).models = s.models := rfl
@[simp] theorem State.talCode_adps (s : State) (code : Nat) : (s.talCode code).adps = s.adps := rfl
@[simp] theorem State.talCode_adpClock (s : State) (code : Nat) : (s.talCode code).adpClock = s.adpClock := rfl
@[simp] theorem State.talCode_adpGoal (s : State) (code : Nat) : (s.talCode code).adpGoal = s.adpGoal := rfl
@[simp] theorem State.talCode_ctrs (s : State) (code : Nat) : (s.talCode code).ctrs = s.ctrs := rfl
@[simp] theorem State.talCode_sweep (s : State) (code : Nat) : (s.talCode code).sweep = s.sweep := rfl
@[simp] theorem State.talCode_wins (s : State) (code : Nat) : (s.talCode code).wins = s.wins := rfl
@[simp] theorem State.talCode_net (s : State) (code : Nat) : (s.talCode code).net = s.net := rfl
@[simp] theorem State.talCode_tb (s : State) (code : Nat) : (s.talCode code).tb = s.tb := rfl
@[simp] theorem State.talCode_ports (s : State) (code : Nat) : (s.talCode code).ports = s.ports := rfl
@[simp] theorem State.talCode_mons (s : State) (code : Nat) : (s.talCode code).mons = s.mons := rfl
@[simp] theorem State.talCode_stale (s : State) (code : Nat) : (s.talCode code).stale = s.stale := rfl
@[simp] theorem State.talCode_recs (s : State) (code : Nat) : (s.talCode code).recs = s.recs := rfl
@[simp] theorem State.talCode_boot (s : State) (code : Nat) : (s.talCode code).boot = s.boot := rfl
@[simp] theorem State.talCode_pwr (s : State) (code : Nat) : (s.talCode code).pwr = s.pwr := rfl
@[simp] theorem State.talCode_time (s : State) (code : Nat) : (s.talCode code).time = s.time := rfl
@[simp] theorem State.talCode_free (s : State) (code : Nat) : (s.talCode code).free = s.free := rfl
@[simp] theorem State.talCode_tx (s : State) (code : Nat) : (s.talCode code).tx = s.tx := rfl
@[simp] theorem State.talCode_pending (s : State) (code : Nat) : (s.talCode code).pending = s.pending := rfl

/-! ### putHost -/

@[simp] theorem State.putHost_regs (s : State) (a : Nat) (bs : List Byte) : (s.putHost a bs).regs = s.regs := rfl
@[simp] theorem State.putHost_shadows (s : State) (a : Nat) (bs : List Byte) : (s.putHost a bs).shadows = s.shadows := rfl
@[simp] theorem State.putHost_latches (s : State) (a : Nat) (bs : List Byte) : (s.putHost a bs).latches = s.latches := rfl
@[simp] theorem State.putHost_arrays (s : State) (a : Nat) (bs : List Byte) : (s.putHost a bs).arrays = s.arrays := rfl
@[simp] theorem State.putHost_cores (s : State) (a : Nat) (bs : List Byte) : (s.putHost a bs).cores = s.cores := rfl
@[simp] theorem State.putHost_pgmQueue (s : State) (a : Nat) (bs : List Byte) : (s.putHost a bs).pgmQueue = s.pgmQueue := rfl
@[simp] theorem State.putHost_mem (s : State) (a : Nat) (bs : List Byte) : (s.putHost a bs).mem = s.mem := rfl
@[simp] theorem State.putHost_poison (s : State) (a : Nat) (bs : List Byte) : (s.putHost a bs).poison = s.poison := rfl
@[simp] theorem State.putHost_memCe (s : State) (a : Nat) (bs : List Byte) : (s.putHost a bs).memCe = s.memCe := rfl
@[simp] theorem State.putHost_memCeAt (s : State) (a : Nat) (bs : List Byte) : (s.putHost a bs).memCeAt = s.memCeAt := rfl
@[simp] theorem State.putHost_ev (s : State) (a : Nat) (bs : List Byte) : (s.putHost a bs).ev = s.ev := rfl
@[simp] theorem State.putHost_reqs (s : State) (a : Nat) (bs : List Byte) : (s.putHost a bs).reqs = s.reqs := rfl
@[simp] theorem State.putHost_nextReq (s : State) (a : Nat) (bs : List Byte) : (s.putHost a bs).nextReq = s.nextReq := rfl
@[simp] theorem State.putHost_nextBatch (s : State) (a : Nat) (bs : List Byte) : (s.putHost a bs).nextBatch = s.nextBatch := rfl
@[simp] theorem State.putHost_bound (s : State) (a : Nat) (bs : List Byte) : (s.putHost a bs).bound = s.bound := rfl
@[simp] theorem State.putHost_pounds (s : State) (a : Nat) (bs : List Byte) : (s.putHost a bs).pounds = s.pounds := rfl
@[simp] theorem State.putHost_queues (s : State) (a : Nat) (bs : List Byte) : (s.putHost a bs).queues = s.queues := rfl
@[simp] theorem State.putHost_rrLast (s : State) (a : Nat) (bs : List Byte) : (s.putHost a bs).rrLast = s.rrLast := rfl
@[simp] theorem State.putHost_expBroken (s : State) (a : Nat) (bs : List Byte) : (s.putHost a bs).expBroken = s.expBroken := rfl
@[simp] theorem State.putHost_ctxs (s : State) (a : Nat) (bs : List Byte) : (s.putHost a bs).ctxs = s.ctxs := rfl
@[simp] theorem State.putHost_models (s : State) (a : Nat) (bs : List Byte) : (s.putHost a bs).models = s.models := rfl
@[simp] theorem State.putHost_adps (s : State) (a : Nat) (bs : List Byte) : (s.putHost a bs).adps = s.adps := rfl
@[simp] theorem State.putHost_adpClock (s : State) (a : Nat) (bs : List Byte) : (s.putHost a bs).adpClock = s.adpClock := rfl
@[simp] theorem State.putHost_adpGoal (s : State) (a : Nat) (bs : List Byte) : (s.putHost a bs).adpGoal = s.adpGoal := rfl
@[simp] theorem State.putHost_ctrs (s : State) (a : Nat) (bs : List Byte) : (s.putHost a bs).ctrs = s.ctrs := rfl
@[simp] theorem State.putHost_sweep (s : State) (a : Nat) (bs : List Byte) : (s.putHost a bs).sweep = s.sweep := rfl
@[simp] theorem State.putHost_wins (s : State) (a : Nat) (bs : List Byte) : (s.putHost a bs).wins = s.wins := rfl
@[simp] theorem State.putHost_net (s : State) (a : Nat) (bs : List Byte) : (s.putHost a bs).net = s.net := rfl
@[simp] theorem State.putHost_tal (s : State) (a : Nat) (bs : List Byte) : (s.putHost a bs).tal = s.tal := rfl
@[simp] theorem State.putHost_tb (s : State) (a : Nat) (bs : List Byte) : (s.putHost a bs).tb = s.tb := rfl
@[simp] theorem State.putHost_ports (s : State) (a : Nat) (bs : List Byte) : (s.putHost a bs).ports = s.ports := rfl
@[simp] theorem State.putHost_mons (s : State) (a : Nat) (bs : List Byte) : (s.putHost a bs).mons = s.mons := rfl
@[simp] theorem State.putHost_stale (s : State) (a : Nat) (bs : List Byte) : (s.putHost a bs).stale = s.stale := rfl
@[simp] theorem State.putHost_recs (s : State) (a : Nat) (bs : List Byte) : (s.putHost a bs).recs = s.recs := rfl
@[simp] theorem State.putHost_boot (s : State) (a : Nat) (bs : List Byte) : (s.putHost a bs).boot = s.boot := rfl
@[simp] theorem State.putHost_pwr (s : State) (a : Nat) (bs : List Byte) : (s.putHost a bs).pwr = s.pwr := rfl
@[simp] theorem State.putHost_time (s : State) (a : Nat) (bs : List Byte) : (s.putHost a bs).time = s.time := rfl
@[simp] theorem State.putHost_free (s : State) (a : Nat) (bs : List Byte) : (s.putHost a bs).free = s.free := rfl
@[simp] theorem State.putHost_tx (s : State) (a : Nat) (bs : List Byte) : (s.putHost a bs).tx = s.tx := rfl
@[simp] theorem State.putHost_pending (s : State) (a : Nat) (bs : List Byte) : (s.putHost a bs).pending = s.pending := rfl

/-! ### Events -/

@[simp] theorem State.record_shadows (s : State) (e : Event) : (s.record e).shadows = s.shadows := by
  unfold State.record; dsimp only; split <;> rfl
@[simp] theorem State.record_latches (s : State) (e : Event) : (s.record e).latches = s.latches := by
  unfold State.record; dsimp only; split <;> rfl
@[simp] theorem State.record_arrays (s : State) (e : Event) : (s.record e).arrays = s.arrays := by
  unfold State.record; dsimp only; split <;> rfl
@[simp] theorem State.record_cores (s : State) (e : Event) : (s.record e).cores = s.cores := by
  unfold State.record; dsimp only; split <;> rfl
@[simp] theorem State.record_pgmQueue (s : State) (e : Event) : (s.record e).pgmQueue = s.pgmQueue := by
  unfold State.record; dsimp only; split <;> rfl
@[simp] theorem State.record_mem (s : State) (e : Event) : (s.record e).mem = s.mem := by
  unfold State.record; dsimp only; split <;> rfl
@[simp] theorem State.record_host (s : State) (e : Event) : (s.record e).host = s.host := by
  unfold State.record; dsimp only; split <;> rfl
@[simp] theorem State.record_poison (s : State) (e : Event) : (s.record e).poison = s.poison := by
  unfold State.record; dsimp only; split <;> rfl
@[simp] theorem State.record_memCe (s : State) (e : Event) : (s.record e).memCe = s.memCe := by
  unfold State.record; dsimp only; split <;> rfl
@[simp] theorem State.record_memCeAt (s : State) (e : Event) : (s.record e).memCeAt = s.memCeAt := by
  unfold State.record; dsimp only; split <;> rfl
@[simp] theorem State.record_reqs (s : State) (e : Event) : (s.record e).reqs = s.reqs := by
  unfold State.record; dsimp only; split <;> rfl
@[simp] theorem State.record_nextReq (s : State) (e : Event) : (s.record e).nextReq = s.nextReq := by
  unfold State.record; dsimp only; split <;> rfl
@[simp] theorem State.record_nextBatch (s : State) (e : Event) : (s.record e).nextBatch = s.nextBatch := by
  unfold State.record; dsimp only; split <;> rfl
@[simp] theorem State.record_bound (s : State) (e : Event) : (s.record e).bound = s.bound := by
  unfold State.record; dsimp only; split <;> rfl
@[simp] theorem State.record_pounds (s : State) (e : Event) : (s.record e).pounds = s.pounds := by
  unfold State.record; dsimp only; split <;> rfl
@[simp] theorem State.record_queues (s : State) (e : Event) : (s.record e).queues = s.queues := by
  unfold State.record; dsimp only; split <;> rfl
@[simp] theorem State.record_rrLast (s : State) (e : Event) : (s.record e).rrLast = s.rrLast := by
  unfold State.record; dsimp only; split <;> rfl
@[simp] theorem State.record_expBroken (s : State) (e : Event) : (s.record e).expBroken = s.expBroken := by
  unfold State.record; dsimp only; split <;> rfl
@[simp] theorem State.record_ctxs (s : State) (e : Event) : (s.record e).ctxs = s.ctxs := by
  unfold State.record; dsimp only; split <;> rfl
@[simp] theorem State.record_models (s : State) (e : Event) : (s.record e).models = s.models := by
  unfold State.record; dsimp only; split <;> rfl
@[simp] theorem State.record_adps (s : State) (e : Event) : (s.record e).adps = s.adps := by
  unfold State.record; dsimp only; split <;> rfl
@[simp] theorem State.record_adpClock (s : State) (e : Event) : (s.record e).adpClock = s.adpClock := by
  unfold State.record; dsimp only; split <;> rfl
@[simp] theorem State.record_adpGoal (s : State) (e : Event) : (s.record e).adpGoal = s.adpGoal := by
  unfold State.record; dsimp only; split <;> rfl
@[simp] theorem State.record_sweep (s : State) (e : Event) : (s.record e).sweep = s.sweep := by
  unfold State.record; dsimp only; split <;> rfl
@[simp] theorem State.record_wins (s : State) (e : Event) : (s.record e).wins = s.wins := by
  unfold State.record; dsimp only; split <;> rfl
@[simp] theorem State.record_net (s : State) (e : Event) : (s.record e).net = s.net := by
  unfold State.record; dsimp only; split <;> rfl
@[simp] theorem State.record_tal (s : State) (e : Event) : (s.record e).tal = s.tal := by
  unfold State.record; dsimp only; split <;> rfl
@[simp] theorem State.record_tb (s : State) (e : Event) : (s.record e).tb = s.tb := by
  unfold State.record; dsimp only; split <;> rfl
@[simp] theorem State.record_ports (s : State) (e : Event) : (s.record e).ports = s.ports := by
  unfold State.record; dsimp only; split <;> rfl
@[simp] theorem State.record_mons (s : State) (e : Event) : (s.record e).mons = s.mons := by
  unfold State.record; dsimp only; split <;> rfl
@[simp] theorem State.record_stale (s : State) (e : Event) : (s.record e).stale = s.stale := by
  unfold State.record; dsimp only; split <;> rfl
@[simp] theorem State.record_boot (s : State) (e : Event) : (s.record e).boot = s.boot := by
  unfold State.record; dsimp only; split <;> rfl
@[simp] theorem State.record_pwr (s : State) (e : Event) : (s.record e).pwr = s.pwr := by
  unfold State.record; dsimp only; split <;> rfl
@[simp] theorem State.record_time (s : State) (e : Event) : (s.record e).time = s.time := by
  unfold State.record; dsimp only; split <;> rfl
@[simp] theorem State.record_free (s : State) (e : Event) : (s.record e).free = s.free := by
  unfold State.record; dsimp only; split <;> rfl
@[simp] theorem State.record_pending (s : State) (e : Event) : (s.record e).pending = s.pending := by
  unfold State.record; dsimp only; split <;> rfl
@[simp] theorem State.raise_shadows (s : State) (e : Event) : (s.raise e).shadows = s.shadows := by
  unfold State.raise; dsimp only; split <;> simp
@[simp] theorem State.raise_latches (s : State) (e : Event) : (s.raise e).latches = s.latches := by
  unfold State.raise; dsimp only; split <;> simp
@[simp] theorem State.raise_arrays (s : State) (e : Event) : (s.raise e).arrays = s.arrays := by
  unfold State.raise; dsimp only; split <;> simp
@[simp] theorem State.raise_cores (s : State) (e : Event) : (s.raise e).cores = s.cores := by
  unfold State.raise; dsimp only; split <;> simp
@[simp] theorem State.raise_pgmQueue (s : State) (e : Event) : (s.raise e).pgmQueue = s.pgmQueue := by
  unfold State.raise; dsimp only; split <;> simp
@[simp] theorem State.raise_mem (s : State) (e : Event) : (s.raise e).mem = s.mem := by
  unfold State.raise; dsimp only; split <;> simp
@[simp] theorem State.raise_host (s : State) (e : Event) : (s.raise e).host = s.host := by
  unfold State.raise; dsimp only; split <;> simp
@[simp] theorem State.raise_poison (s : State) (e : Event) : (s.raise e).poison = s.poison := by
  unfold State.raise; dsimp only; split <;> simp
@[simp] theorem State.raise_memCe (s : State) (e : Event) : (s.raise e).memCe = s.memCe := by
  unfold State.raise; dsimp only; split <;> simp
@[simp] theorem State.raise_memCeAt (s : State) (e : Event) : (s.raise e).memCeAt = s.memCeAt := by
  unfold State.raise; dsimp only; split <;> simp
@[simp] theorem State.raise_reqs (s : State) (e : Event) : (s.raise e).reqs = s.reqs := by
  unfold State.raise; dsimp only; split <;> simp
@[simp] theorem State.raise_nextReq (s : State) (e : Event) : (s.raise e).nextReq = s.nextReq := by
  unfold State.raise; dsimp only; split <;> simp
@[simp] theorem State.raise_nextBatch (s : State) (e : Event) : (s.raise e).nextBatch = s.nextBatch := by
  unfold State.raise; dsimp only; split <;> simp
@[simp] theorem State.raise_bound (s : State) (e : Event) : (s.raise e).bound = s.bound := by
  unfold State.raise; dsimp only; split <;> simp
@[simp] theorem State.raise_pounds (s : State) (e : Event) : (s.raise e).pounds = s.pounds := by
  unfold State.raise; dsimp only; split <;> simp
@[simp] theorem State.raise_queues (s : State) (e : Event) : (s.raise e).queues = s.queues := by
  unfold State.raise; dsimp only; split <;> simp
@[simp] theorem State.raise_rrLast (s : State) (e : Event) : (s.raise e).rrLast = s.rrLast := by
  unfold State.raise; dsimp only; split <;> simp
@[simp] theorem State.raise_expBroken (s : State) (e : Event) : (s.raise e).expBroken = s.expBroken := by
  unfold State.raise; dsimp only; split <;> simp
@[simp] theorem State.raise_ctxs (s : State) (e : Event) : (s.raise e).ctxs = s.ctxs := by
  unfold State.raise; dsimp only; split <;> simp
@[simp] theorem State.raise_models (s : State) (e : Event) : (s.raise e).models = s.models := by
  unfold State.raise; dsimp only; split <;> simp
@[simp] theorem State.raise_adps (s : State) (e : Event) : (s.raise e).adps = s.adps := by
  unfold State.raise; dsimp only; split <;> simp
@[simp] theorem State.raise_adpClock (s : State) (e : Event) : (s.raise e).adpClock = s.adpClock := by
  unfold State.raise; dsimp only; split <;> simp
@[simp] theorem State.raise_adpGoal (s : State) (e : Event) : (s.raise e).adpGoal = s.adpGoal := by
  unfold State.raise; dsimp only; split <;> simp
@[simp] theorem State.raise_sweep (s : State) (e : Event) : (s.raise e).sweep = s.sweep := by
  unfold State.raise; dsimp only; split <;> simp
@[simp] theorem State.raise_wins (s : State) (e : Event) : (s.raise e).wins = s.wins := by
  unfold State.raise; dsimp only; split <;> simp
@[simp] theorem State.raise_net (s : State) (e : Event) : (s.raise e).net = s.net := by
  unfold State.raise; dsimp only; split <;> simp
@[simp] theorem State.raise_tal (s : State) (e : Event) : (s.raise e).tal = s.tal := by
  unfold State.raise; dsimp only; split <;> simp
@[simp] theorem State.raise_tb (s : State) (e : Event) : (s.raise e).tb = s.tb := by
  unfold State.raise; dsimp only; split <;> simp
@[simp] theorem State.raise_ports (s : State) (e : Event) : (s.raise e).ports = s.ports := by
  unfold State.raise; dsimp only; split <;> simp
@[simp] theorem State.raise_mons (s : State) (e : Event) : (s.raise e).mons = s.mons := by
  unfold State.raise; dsimp only; split <;> simp
@[simp] theorem State.raise_stale (s : State) (e : Event) : (s.raise e).stale = s.stale := by
  unfold State.raise; dsimp only; split <;> simp
@[simp] theorem State.raise_boot (s : State) (e : Event) : (s.raise e).boot = s.boot := by
  unfold State.raise; dsimp only; split <;> simp
@[simp] theorem State.raise_pwr (s : State) (e : Event) : (s.raise e).pwr = s.pwr := by
  unfold State.raise; dsimp only; split <;> simp
@[simp] theorem State.raise_time (s : State) (e : Event) : (s.raise e).time = s.time := by
  unfold State.raise; dsimp only; split <;> simp
@[simp] theorem State.raise_free (s : State) (e : Event) : (s.raise e).free = s.free := by
  unfold State.raise; dsimp only; split <;> simp
@[simp] theorem State.raise_pending (s : State) (e : Event) : (s.raise e).pending = s.pending := by
  unfold State.raise; dsimp only; split <;> simp
@[simp] theorem State.imgRaise_shadows (s : State) (b : Nat) (e : Event) : (s.imgRaise b e).shadows = s.shadows := by
  simp [State.imgRaise]
@[simp] theorem State.imgRaise_latches (s : State) (b : Nat) (e : Event) : (s.imgRaise b e).latches = s.latches := by
  simp [State.imgRaise]
@[simp] theorem State.imgRaise_arrays (s : State) (b : Nat) (e : Event) : (s.imgRaise b e).arrays = s.arrays := by
  simp [State.imgRaise]
@[simp] theorem State.imgRaise_cores (s : State) (b : Nat) (e : Event) : (s.imgRaise b e).cores = s.cores := by
  simp [State.imgRaise]
@[simp] theorem State.imgRaise_pgmQueue (s : State) (b : Nat) (e : Event) : (s.imgRaise b e).pgmQueue = s.pgmQueue := by
  simp [State.imgRaise]
@[simp] theorem State.imgRaise_mem (s : State) (b : Nat) (e : Event) : (s.imgRaise b e).mem = s.mem := by
  simp [State.imgRaise]
@[simp] theorem State.imgRaise_host (s : State) (b : Nat) (e : Event) : (s.imgRaise b e).host = s.host := by
  simp [State.imgRaise]
@[simp] theorem State.imgRaise_poison (s : State) (b : Nat) (e : Event) : (s.imgRaise b e).poison = s.poison := by
  simp [State.imgRaise]
@[simp] theorem State.imgRaise_memCe (s : State) (b : Nat) (e : Event) : (s.imgRaise b e).memCe = s.memCe := by
  simp [State.imgRaise]
@[simp] theorem State.imgRaise_memCeAt (s : State) (b : Nat) (e : Event) : (s.imgRaise b e).memCeAt = s.memCeAt := by
  simp [State.imgRaise]
@[simp] theorem State.imgRaise_reqs (s : State) (b : Nat) (e : Event) : (s.imgRaise b e).reqs = s.reqs := by
  simp [State.imgRaise]
@[simp] theorem State.imgRaise_nextReq (s : State) (b : Nat) (e : Event) : (s.imgRaise b e).nextReq = s.nextReq := by
  simp [State.imgRaise]
@[simp] theorem State.imgRaise_nextBatch (s : State) (b : Nat) (e : Event) : (s.imgRaise b e).nextBatch = s.nextBatch := by
  simp [State.imgRaise]
@[simp] theorem State.imgRaise_bound (s : State) (b : Nat) (e : Event) : (s.imgRaise b e).bound = s.bound := by
  simp [State.imgRaise]
@[simp] theorem State.imgRaise_pounds (s : State) (b : Nat) (e : Event) : (s.imgRaise b e).pounds = s.pounds := by
  simp [State.imgRaise]
@[simp] theorem State.imgRaise_queues (s : State) (b : Nat) (e : Event) : (s.imgRaise b e).queues = s.queues := by
  simp [State.imgRaise]
@[simp] theorem State.imgRaise_rrLast (s : State) (b : Nat) (e : Event) : (s.imgRaise b e).rrLast = s.rrLast := by
  simp [State.imgRaise]
@[simp] theorem State.imgRaise_expBroken (s : State) (b : Nat) (e : Event) : (s.imgRaise b e).expBroken = s.expBroken := by
  simp [State.imgRaise]
@[simp] theorem State.imgRaise_ctxs (s : State) (b : Nat) (e : Event) : (s.imgRaise b e).ctxs = s.ctxs := by
  simp [State.imgRaise]
@[simp] theorem State.imgRaise_models (s : State) (b : Nat) (e : Event) : (s.imgRaise b e).models = s.models := by
  simp [State.imgRaise]
@[simp] theorem State.imgRaise_adps (s : State) (b : Nat) (e : Event) : (s.imgRaise b e).adps = s.adps := by
  simp [State.imgRaise]
@[simp] theorem State.imgRaise_adpClock (s : State) (b : Nat) (e : Event) : (s.imgRaise b e).adpClock = s.adpClock := by
  simp [State.imgRaise]
@[simp] theorem State.imgRaise_adpGoal (s : State) (b : Nat) (e : Event) : (s.imgRaise b e).adpGoal = s.adpGoal := by
  simp [State.imgRaise]
@[simp] theorem State.imgRaise_sweep (s : State) (b : Nat) (e : Event) : (s.imgRaise b e).sweep = s.sweep := by
  simp [State.imgRaise]
@[simp] theorem State.imgRaise_wins (s : State) (b : Nat) (e : Event) : (s.imgRaise b e).wins = s.wins := by
  simp [State.imgRaise]
@[simp] theorem State.imgRaise_net (s : State) (b : Nat) (e : Event) : (s.imgRaise b e).net = s.net := by
  simp [State.imgRaise]
@[simp] theorem State.imgRaise_tal (s : State) (b : Nat) (e : Event) : (s.imgRaise b e).tal = s.tal := by
  simp [State.imgRaise]
@[simp] theorem State.imgRaise_tb (s : State) (b : Nat) (e : Event) : (s.imgRaise b e).tb = s.tb := by
  simp [State.imgRaise]
@[simp] theorem State.imgRaise_ports (s : State) (b : Nat) (e : Event) : (s.imgRaise b e).ports = s.ports := by
  simp [State.imgRaise]
@[simp] theorem State.imgRaise_mons (s : State) (b : Nat) (e : Event) : (s.imgRaise b e).mons = s.mons := by
  simp [State.imgRaise]
@[simp] theorem State.imgRaise_stale (s : State) (b : Nat) (e : Event) : (s.imgRaise b e).stale = s.stale := by
  simp [State.imgRaise]
@[simp] theorem State.imgRaise_boot (s : State) (b : Nat) (e : Event) : (s.imgRaise b e).boot = s.boot := by
  simp [State.imgRaise]
@[simp] theorem State.imgRaise_pwr (s : State) (b : Nat) (e : Event) : (s.imgRaise b e).pwr = s.pwr := by
  simp [State.imgRaise]
@[simp] theorem State.imgRaise_time (s : State) (b : Nat) (e : Event) : (s.imgRaise b e).time = s.time := by
  simp [State.imgRaise]
@[simp] theorem State.imgRaise_free (s : State) (b : Nat) (e : Event) : (s.imgRaise b e).free = s.free := by
  simp [State.imgRaise]
@[simp] theorem State.imgRaise_pending (s : State) (b : Nat) (e : Event) : (s.imgRaise b e).pending = s.pending := by
  simp [State.imgRaise]
@[simp] theorem State.touch_regs (s : State) (p : Nat) : (s.touch p).regs = s.regs := by
  unfold State.touch; split <;> rfl
@[simp] theorem State.touch_shadows (s : State) (p : Nat) : (s.touch p).shadows = s.shadows := by
  unfold State.touch; split <;> rfl
@[simp] theorem State.touch_latches (s : State) (p : Nat) : (s.touch p).latches = s.latches := by
  unfold State.touch; split <;> rfl
@[simp] theorem State.touch_arrays (s : State) (p : Nat) : (s.touch p).arrays = s.arrays := by
  unfold State.touch; split <;> rfl
@[simp] theorem State.touch_cores (s : State) (p : Nat) : (s.touch p).cores = s.cores := by
  unfold State.touch; split <;> rfl
@[simp] theorem State.touch_pgmQueue (s : State) (p : Nat) : (s.touch p).pgmQueue = s.pgmQueue := by
  unfold State.touch; split <;> rfl
@[simp] theorem State.touch_mem (s : State) (p : Nat) : (s.touch p).mem = s.mem := by
  unfold State.touch; split <;> rfl
@[simp] theorem State.touch_host (s : State) (p : Nat) : (s.touch p).host = s.host := by
  unfold State.touch; split <;> rfl
@[simp] theorem State.touch_poison (s : State) (p : Nat) : (s.touch p).poison = s.poison := by
  unfold State.touch; split <;> rfl
@[simp] theorem State.touch_memCe (s : State) (p : Nat) : (s.touch p).memCe = s.memCe := by
  unfold State.touch; split <;> rfl
@[simp] theorem State.touch_memCeAt (s : State) (p : Nat) : (s.touch p).memCeAt = s.memCeAt := by
  unfold State.touch; split <;> rfl
@[simp] theorem State.touch_ev (s : State) (p : Nat) : (s.touch p).ev = s.ev := by
  unfold State.touch; split <;> rfl
@[simp] theorem State.touch_reqs (s : State) (p : Nat) : (s.touch p).reqs = s.reqs := by
  unfold State.touch; split <;> rfl
@[simp] theorem State.touch_nextReq (s : State) (p : Nat) : (s.touch p).nextReq = s.nextReq := by
  unfold State.touch; split <;> rfl
@[simp] theorem State.touch_nextBatch (s : State) (p : Nat) : (s.touch p).nextBatch = s.nextBatch := by
  unfold State.touch; split <;> rfl
@[simp] theorem State.touch_bound (s : State) (p : Nat) : (s.touch p).bound = s.bound := by
  unfold State.touch; split <;> rfl
@[simp] theorem State.touch_pounds (s : State) (p : Nat) : (s.touch p).pounds = s.pounds := by
  unfold State.touch; split <;> rfl
@[simp] theorem State.touch_queues (s : State) (p : Nat) : (s.touch p).queues = s.queues := by
  unfold State.touch; split <;> rfl
@[simp] theorem State.touch_rrLast (s : State) (p : Nat) : (s.touch p).rrLast = s.rrLast := by
  unfold State.touch; split <;> rfl
@[simp] theorem State.touch_expBroken (s : State) (p : Nat) : (s.touch p).expBroken = s.expBroken := by
  unfold State.touch; split <;> rfl
@[simp] theorem State.touch_ctxs (s : State) (p : Nat) : (s.touch p).ctxs = s.ctxs := by
  unfold State.touch; split <;> rfl
@[simp] theorem State.touch_models (s : State) (p : Nat) : (s.touch p).models = s.models := by
  unfold State.touch; split <;> rfl
@[simp] theorem State.touch_adps (s : State) (p : Nat) : (s.touch p).adps = s.adps := by
  unfold State.touch; split <;> rfl
@[simp] theorem State.touch_adpClock (s : State) (p : Nat) : (s.touch p).adpClock = s.adpClock := by
  unfold State.touch; split <;> rfl
@[simp] theorem State.touch_adpGoal (s : State) (p : Nat) : (s.touch p).adpGoal = s.adpGoal := by
  unfold State.touch; split <;> rfl
@[simp] theorem State.touch_ctrs (s : State) (p : Nat) : (s.touch p).ctrs = s.ctrs := by
  unfold State.touch; split <;> rfl
@[simp] theorem State.touch_sweep (s : State) (p : Nat) : (s.touch p).sweep = s.sweep := by
  unfold State.touch; split <;> rfl
@[simp] theorem State.touch_wins (s : State) (p : Nat) : (s.touch p).wins = s.wins := by
  unfold State.touch; split <;> rfl
@[simp] theorem State.touch_net (s : State) (p : Nat) : (s.touch p).net = s.net := by
  unfold State.touch; split <;> rfl
@[simp] theorem State.touch_tal (s : State) (p : Nat) : (s.touch p).tal = s.tal := by
  unfold State.touch; split <;> rfl
@[simp] theorem State.touch_tb (s : State) (p : Nat) : (s.touch p).tb = s.tb := by
  unfold State.touch; split <;> rfl
@[simp] theorem State.touch_ports (s : State) (p : Nat) : (s.touch p).ports = s.ports := by
  unfold State.touch; split <;> rfl
@[simp] theorem State.touch_mons (s : State) (p : Nat) : (s.touch p).mons = s.mons := by
  unfold State.touch; split <;> rfl
@[simp] theorem State.touch_stale (s : State) (p : Nat) : (s.touch p).stale = s.stale := by
  unfold State.touch; split <;> rfl
@[simp] theorem State.touch_boot (s : State) (p : Nat) : (s.touch p).boot = s.boot := by
  unfold State.touch; split <;> rfl
@[simp] theorem State.touch_pwr (s : State) (p : Nat) : (s.touch p).pwr = s.pwr := by
  unfold State.touch; split <;> rfl
@[simp] theorem State.touch_time (s : State) (p : Nat) : (s.touch p).time = s.time := by
  unfold State.touch; split <;> rfl
@[simp] theorem State.touch_free (s : State) (p : Nat) : (s.touch p).free = s.free := by
  unfold State.touch; split <;> rfl
@[simp] theorem State.touch_tx (s : State) (p : Nat) : (s.touch p).tx = s.tx := by
  unfold State.touch; split <;> rfl
@[simp] theorem State.touch_pending (s : State) (p : Nat) : (s.touch p).pending = s.pending := by
  unfold State.touch; split <;> rfl
@[simp] theorem State.ignored_shadows (s : State) (p : Path) (a c : Nat) : (s.ignored p a c).shadows = s.shadows := by
  simp [State.ignored]
@[simp] theorem State.ignored_latches (s : State) (p : Path) (a c : Nat) : (s.ignored p a c).latches = s.latches := by
  simp [State.ignored]
@[simp] theorem State.ignored_arrays (s : State) (p : Path) (a c : Nat) : (s.ignored p a c).arrays = s.arrays := by
  simp [State.ignored]
@[simp] theorem State.ignored_cores (s : State) (p : Path) (a c : Nat) : (s.ignored p a c).cores = s.cores := by
  simp [State.ignored]
@[simp] theorem State.ignored_pgmQueue (s : State) (p : Path) (a c : Nat) : (s.ignored p a c).pgmQueue = s.pgmQueue := by
  simp [State.ignored]
@[simp] theorem State.ignored_mem (s : State) (p : Path) (a c : Nat) : (s.ignored p a c).mem = s.mem := by
  simp [State.ignored]
@[simp] theorem State.ignored_host (s : State) (p : Path) (a c : Nat) : (s.ignored p a c).host = s.host := by
  simp [State.ignored]
@[simp] theorem State.ignored_poison (s : State) (p : Path) (a c : Nat) : (s.ignored p a c).poison = s.poison := by
  simp [State.ignored]
@[simp] theorem State.ignored_memCe (s : State) (p : Path) (a c : Nat) : (s.ignored p a c).memCe = s.memCe := by
  simp [State.ignored]
@[simp] theorem State.ignored_memCeAt (s : State) (p : Path) (a c : Nat) : (s.ignored p a c).memCeAt = s.memCeAt := by
  simp [State.ignored]
@[simp] theorem State.ignored_reqs (s : State) (p : Path) (a c : Nat) : (s.ignored p a c).reqs = s.reqs := by
  simp [State.ignored]
@[simp] theorem State.ignored_nextReq (s : State) (p : Path) (a c : Nat) : (s.ignored p a c).nextReq = s.nextReq := by
  simp [State.ignored]
@[simp] theorem State.ignored_nextBatch (s : State) (p : Path) (a c : Nat) : (s.ignored p a c).nextBatch = s.nextBatch := by
  simp [State.ignored]
@[simp] theorem State.ignored_bound (s : State) (p : Path) (a c : Nat) : (s.ignored p a c).bound = s.bound := by
  simp [State.ignored]
@[simp] theorem State.ignored_pounds (s : State) (p : Path) (a c : Nat) : (s.ignored p a c).pounds = s.pounds := by
  simp [State.ignored]
@[simp] theorem State.ignored_queues (s : State) (p : Path) (a c : Nat) : (s.ignored p a c).queues = s.queues := by
  simp [State.ignored]
@[simp] theorem State.ignored_rrLast (s : State) (p : Path) (a c : Nat) : (s.ignored p a c).rrLast = s.rrLast := by
  simp [State.ignored]
@[simp] theorem State.ignored_expBroken (s : State) (p : Path) (a c : Nat) : (s.ignored p a c).expBroken = s.expBroken := by
  simp [State.ignored]
@[simp] theorem State.ignored_ctxs (s : State) (p : Path) (a c : Nat) : (s.ignored p a c).ctxs = s.ctxs := by
  simp [State.ignored]
@[simp] theorem State.ignored_models (s : State) (p : Path) (a c : Nat) : (s.ignored p a c).models = s.models := by
  simp [State.ignored]
@[simp] theorem State.ignored_adps (s : State) (p : Path) (a c : Nat) : (s.ignored p a c).adps = s.adps := by
  simp [State.ignored]
@[simp] theorem State.ignored_adpClock (s : State) (p : Path) (a c : Nat) : (s.ignored p a c).adpClock = s.adpClock := by
  simp [State.ignored]
@[simp] theorem State.ignored_adpGoal (s : State) (p : Path) (a c : Nat) : (s.ignored p a c).adpGoal = s.adpGoal := by
  simp [State.ignored]
@[simp] theorem State.ignored_sweep (s : State) (p : Path) (a c : Nat) : (s.ignored p a c).sweep = s.sweep := by
  simp [State.ignored]
@[simp] theorem State.ignored_wins (s : State) (p : Path) (a c : Nat) : (s.ignored p a c).wins = s.wins := by
  simp [State.ignored]
@[simp] theorem State.ignored_net (s : State) (p : Path) (a c : Nat) : (s.ignored p a c).net = s.net := by
  simp [State.ignored]
@[simp] theorem State.ignored_tal (s : State) (p : Path) (a c : Nat) : (s.ignored p a c).tal = s.tal := by
  simp [State.ignored]
@[simp] theorem State.ignored_tb (s : State) (p : Path) (a c : Nat) : (s.ignored p a c).tb = s.tb := by
  simp [State.ignored]
@[simp] theorem State.ignored_ports (s : State) (p : Path) (a c : Nat) : (s.ignored p a c).ports = s.ports := by
  simp [State.ignored]
@[simp] theorem State.ignored_mons (s : State) (p : Path) (a c : Nat) : (s.ignored p a c).mons = s.mons := by
  simp [State.ignored]
@[simp] theorem State.ignored_stale (s : State) (p : Path) (a c : Nat) : (s.ignored p a c).stale = s.stale := by
  simp [State.ignored]
@[simp] theorem State.ignored_boot (s : State) (p : Path) (a c : Nat) : (s.ignored p a c).boot = s.boot := by
  simp [State.ignored]
@[simp] theorem State.ignored_pwr (s : State) (p : Path) (a c : Nat) : (s.ignored p a c).pwr = s.pwr := by
  simp [State.ignored]
@[simp] theorem State.ignored_time (s : State) (p : Path) (a c : Nat) : (s.ignored p a c).time = s.time := by
  simp [State.ignored]
@[simp] theorem State.ignored_free (s : State) (p : Path) (a c : Nat) : (s.ignored p a c).free = s.free := by
  simp [State.ignored]
@[simp] theorem State.ignored_pending (s : State) (p : Path) (a c : Nat) : (s.ignored p a c).pending = s.pending := by
  simp [State.ignored]
@[simp] theorem State.storePage_shadows (s : State) (p : Nat) : (s.storePage p).shadows = s.shadows := by
  unfold State.storePage; dsimp only; repeat' split
  all_goals simp
@[simp] theorem State.storePage_latches (s : State) (p : Nat) : (s.storePage p).latches = s.latches := by
  unfold State.storePage; dsimp only; repeat' split
  all_goals simp
@[simp] theorem State.storePage_arrays (s : State) (p : Nat) : (s.storePage p).arrays = s.arrays := by
  unfold State.storePage; dsimp only; repeat' split
  all_goals simp
@[simp] theorem State.storePage_cores (s : State) (p : Nat) : (s.storePage p).cores = s.cores := by
  unfold State.storePage; dsimp only; repeat' split
  all_goals simp
@[simp] theorem State.storePage_pgmQueue (s : State) (p : Nat) : (s.storePage p).pgmQueue = s.pgmQueue := by
  unfold State.storePage; dsimp only; repeat' split
  all_goals simp
@[simp] theorem State.storePage_mem (s : State) (p : Nat) : (s.storePage p).mem = s.mem := by
  unfold State.storePage; dsimp only; repeat' split
  all_goals simp
@[simp] theorem State.storePage_host (s : State) (p : Nat) : (s.storePage p).host = s.host := by
  unfold State.storePage; dsimp only; repeat' split
  all_goals simp
@[simp] theorem State.storePage_poison (s : State) (p : Nat) : (s.storePage p).poison = s.poison := by
  unfold State.storePage; dsimp only; repeat' split
  all_goals simp
@[simp] theorem State.storePage_memCe (s : State) (p : Nat) : (s.storePage p).memCe = s.memCe := by
  unfold State.storePage; dsimp only; repeat' split
  all_goals simp
@[simp] theorem State.storePage_memCeAt (s : State) (p : Nat) : (s.storePage p).memCeAt = s.memCeAt := by
  unfold State.storePage; dsimp only; repeat' split
  all_goals simp
@[simp] theorem State.storePage_reqs (s : State) (p : Nat) : (s.storePage p).reqs = s.reqs := by
  unfold State.storePage; dsimp only; repeat' split
  all_goals simp
@[simp] theorem State.storePage_nextReq (s : State) (p : Nat) : (s.storePage p).nextReq = s.nextReq := by
  unfold State.storePage; dsimp only; repeat' split
  all_goals simp
@[simp] theorem State.storePage_nextBatch (s : State) (p : Nat) : (s.storePage p).nextBatch = s.nextBatch := by
  unfold State.storePage; dsimp only; repeat' split
  all_goals simp
@[simp] theorem State.storePage_bound (s : State) (p : Nat) : (s.storePage p).bound = s.bound := by
  unfold State.storePage; dsimp only; repeat' split
  all_goals simp
@[simp] theorem State.storePage_pounds (s : State) (p : Nat) : (s.storePage p).pounds = s.pounds := by
  unfold State.storePage; dsimp only; repeat' split
  all_goals simp
@[simp] theorem State.storePage_queues (s : State) (p : Nat) : (s.storePage p).queues = s.queues := by
  unfold State.storePage; dsimp only; repeat' split
  all_goals simp
@[simp] theorem State.storePage_rrLast (s : State) (p : Nat) : (s.storePage p).rrLast = s.rrLast := by
  unfold State.storePage; dsimp only; repeat' split
  all_goals simp
@[simp] theorem State.storePage_expBroken (s : State) (p : Nat) : (s.storePage p).expBroken = s.expBroken := by
  unfold State.storePage; dsimp only; repeat' split
  all_goals simp
@[simp] theorem State.storePage_ctxs (s : State) (p : Nat) : (s.storePage p).ctxs = s.ctxs := by
  unfold State.storePage; dsimp only; repeat' split
  all_goals simp
@[simp] theorem State.storePage_models (s : State) (p : Nat) : (s.storePage p).models = s.models := by
  unfold State.storePage; dsimp only; repeat' split
  all_goals simp
@[simp] theorem State.storePage_adps (s : State) (p : Nat) : (s.storePage p).adps = s.adps := by
  unfold State.storePage; dsimp only; repeat' split
  all_goals simp
@[simp] theorem State.storePage_adpClock (s : State) (p : Nat) : (s.storePage p).adpClock = s.adpClock := by
  unfold State.storePage; dsimp only; repeat' split
  all_goals simp
@[simp] theorem State.storePage_adpGoal (s : State) (p : Nat) : (s.storePage p).adpGoal = s.adpGoal := by
  unfold State.storePage; dsimp only; repeat' split
  all_goals simp
@[simp] theorem State.storePage_sweep (s : State) (p : Nat) : (s.storePage p).sweep = s.sweep := by
  unfold State.storePage; dsimp only; repeat' split
  all_goals simp
@[simp] theorem State.storePage_wins (s : State) (p : Nat) : (s.storePage p).wins = s.wins := by
  unfold State.storePage; dsimp only; repeat' split
  all_goals simp
@[simp] theorem State.storePage_net (s : State) (p : Nat) : (s.storePage p).net = s.net := by
  unfold State.storePage; dsimp only; repeat' split
  all_goals simp
@[simp] theorem State.storePage_tal (s : State) (p : Nat) : (s.storePage p).tal = s.tal := by
  unfold State.storePage; dsimp only; repeat' split
  all_goals simp
@[simp] theorem State.storePage_tb (s : State) (p : Nat) : (s.storePage p).tb = s.tb := by
  unfold State.storePage; dsimp only; repeat' split
  all_goals simp
@[simp] theorem State.storePage_ports (s : State) (p : Nat) : (s.storePage p).ports = s.ports := by
  unfold State.storePage; dsimp only; repeat' split
  all_goals simp
@[simp] theorem State.storePage_mons (s : State) (p : Nat) : (s.storePage p).mons = s.mons := by
  unfold State.storePage; dsimp only; repeat' split
  all_goals simp
@[simp] theorem State.storePage_stale (s : State) (p : Nat) : (s.storePage p).stale = s.stale := by
  unfold State.storePage; dsimp only; repeat' split
  all_goals simp
@[simp] theorem State.storePage_boot (s : State) (p : Nat) : (s.storePage p).boot = s.boot := by
  unfold State.storePage; dsimp only; repeat' split
  all_goals simp
@[simp] theorem State.storePage_pwr (s : State) (p : Nat) : (s.storePage p).pwr = s.pwr := by
  unfold State.storePage; dsimp only; repeat' split
  all_goals simp
@[simp] theorem State.storePage_time (s : State) (p : Nat) : (s.storePage p).time = s.time := by
  unfold State.storePage; dsimp only; repeat' split
  all_goals simp
@[simp] theorem State.storePage_free (s : State) (p : Nat) : (s.storePage p).free = s.free := by
  unfold State.storePage; dsimp only; repeat' split
  all_goals simp
@[simp] theorem State.storePage_pending (s : State) (p : Nat) : (s.storePage p).pending = s.pending := by
  unfold State.storePage; dsimp only; repeat' split
  all_goals simp
@[simp] theorem State.storeArr_shadows (s : State) (p : Nat) (r : Bool) : (s.storeArr p r).shadows = s.shadows := by
  unfold State.storeArr; split <;> simp
@[simp] theorem State.storeArr_latches (s : State) (p : Nat) (r : Bool) : (s.storeArr p r).latches = s.latches := by
  unfold State.storeArr; split <;> simp
@[simp] theorem State.storeArr_arrays (s : State) (p : Nat) (r : Bool) : (s.storeArr p r).arrays = s.arrays := by
  unfold State.storeArr; split <;> simp
@[simp] theorem State.storeArr_cores (s : State) (p : Nat) (r : Bool) : (s.storeArr p r).cores = s.cores := by
  unfold State.storeArr; split <;> simp
@[simp] theorem State.storeArr_pgmQueue (s : State) (p : Nat) (r : Bool) : (s.storeArr p r).pgmQueue = s.pgmQueue := by
  unfold State.storeArr; split <;> simp
@[simp] theorem State.storeArr_mem (s : State) (p : Nat) (r : Bool) : (s.storeArr p r).mem = s.mem := by
  unfold State.storeArr; split <;> simp
@[simp] theorem State.storeArr_host (s : State) (p : Nat) (r : Bool) : (s.storeArr p r).host = s.host := by
  unfold State.storeArr; split <;> simp
@[simp] theorem State.storeArr_poison (s : State) (p : Nat) (r : Bool) : (s.storeArr p r).poison = s.poison := by
  unfold State.storeArr; split <;> simp
@[simp] theorem State.storeArr_memCe (s : State) (p : Nat) (r : Bool) : (s.storeArr p r).memCe = s.memCe := by
  unfold State.storeArr; split <;> simp
@[simp] theorem State.storeArr_memCeAt (s : State) (p : Nat) (r : Bool) : (s.storeArr p r).memCeAt = s.memCeAt := by
  unfold State.storeArr; split <;> simp
@[simp] theorem State.storeArr_reqs (s : State) (p : Nat) (r : Bool) : (s.storeArr p r).reqs = s.reqs := by
  unfold State.storeArr; split <;> simp
@[simp] theorem State.storeArr_nextReq (s : State) (p : Nat) (r : Bool) : (s.storeArr p r).nextReq = s.nextReq := by
  unfold State.storeArr; split <;> simp
@[simp] theorem State.storeArr_nextBatch (s : State) (p : Nat) (r : Bool) : (s.storeArr p r).nextBatch = s.nextBatch := by
  unfold State.storeArr; split <;> simp
@[simp] theorem State.storeArr_bound (s : State) (p : Nat) (r : Bool) : (s.storeArr p r).bound = s.bound := by
  unfold State.storeArr; split <;> simp
@[simp] theorem State.storeArr_pounds (s : State) (p : Nat) (r : Bool) : (s.storeArr p r).pounds = s.pounds := by
  unfold State.storeArr; split <;> simp
@[simp] theorem State.storeArr_queues (s : State) (p : Nat) (r : Bool) : (s.storeArr p r).queues = s.queues := by
  unfold State.storeArr; split <;> simp
@[simp] theorem State.storeArr_rrLast (s : State) (p : Nat) (r : Bool) : (s.storeArr p r).rrLast = s.rrLast := by
  unfold State.storeArr; split <;> simp
@[simp] theorem State.storeArr_expBroken (s : State) (p : Nat) (r : Bool) : (s.storeArr p r).expBroken = s.expBroken := by
  unfold State.storeArr; split <;> simp
@[simp] theorem State.storeArr_ctxs (s : State) (p : Nat) (r : Bool) : (s.storeArr p r).ctxs = s.ctxs := by
  unfold State.storeArr; split <;> simp
@[simp] theorem State.storeArr_models (s : State) (p : Nat) (r : Bool) : (s.storeArr p r).models = s.models := by
  unfold State.storeArr; split <;> simp
@[simp] theorem State.storeArr_adps (s : State) (p : Nat) (r : Bool) : (s.storeArr p r).adps = s.adps := by
  unfold State.storeArr; split <;> simp
@[simp] theorem State.storeArr_adpClock (s : State) (p : Nat) (r : Bool) : (s.storeArr p r).adpClock = s.adpClock := by
  unfold State.storeArr; split <;> simp
@[simp] theorem State.storeArr_adpGoal (s : State) (p : Nat) (r : Bool) : (s.storeArr p r).adpGoal = s.adpGoal := by
  unfold State.storeArr; split <;> simp
@[simp] theorem State.storeArr_sweep (s : State) (p : Nat) (r : Bool) : (s.storeArr p r).sweep = s.sweep := by
  unfold State.storeArr; split <;> simp
@[simp] theorem State.storeArr_wins (s : State) (p : Nat) (r : Bool) : (s.storeArr p r).wins = s.wins := by
  unfold State.storeArr; split <;> simp
@[simp] theorem State.storeArr_net (s : State) (p : Nat) (r : Bool) : (s.storeArr p r).net = s.net := by
  unfold State.storeArr; split <;> simp
@[simp] theorem State.storeArr_tal (s : State) (p : Nat) (r : Bool) : (s.storeArr p r).tal = s.tal := by
  unfold State.storeArr; split <;> simp
@[simp] theorem State.storeArr_tb (s : State) (p : Nat) (r : Bool) : (s.storeArr p r).tb = s.tb := by
  unfold State.storeArr; split <;> simp
@[simp] theorem State.storeArr_ports (s : State) (p : Nat) (r : Bool) : (s.storeArr p r).ports = s.ports := by
  unfold State.storeArr; split <;> simp
@[simp] theorem State.storeArr_mons (s : State) (p : Nat) (r : Bool) : (s.storeArr p r).mons = s.mons := by
  unfold State.storeArr; split <;> simp
@[simp] theorem State.storeArr_stale (s : State) (p : Nat) (r : Bool) : (s.storeArr p r).stale = s.stale := by
  unfold State.storeArr; split <;> simp
@[simp] theorem State.storeArr_boot (s : State) (p : Nat) (r : Bool) : (s.storeArr p r).boot = s.boot := by
  unfold State.storeArr; split <;> simp
@[simp] theorem State.storeArr_pwr (s : State) (p : Nat) (r : Bool) : (s.storeArr p r).pwr = s.pwr := by
  unfold State.storeArr; split <;> simp
@[simp] theorem State.storeArr_time (s : State) (p : Nat) (r : Bool) : (s.storeArr p r).time = s.time := by
  unfold State.storeArr; split <;> simp
@[simp] theorem State.storeArr_free (s : State) (p : Nat) (r : Bool) : (s.storeArr p r).free = s.free := by
  unfold State.storeArr; split <;> simp
@[simp] theorem State.storeArr_pending (s : State) (p : Nat) (r : Bool) : (s.storeArr p r).pending = s.pending := by
  unfold State.storeArr; split <;> simp
@[simp] theorem State.storeNow_shadows (s : State) (p : Nat) : (s.storeNow p).shadows = s.shadows := by
  unfold State.storeNow; split <;> simp
@[simp] theorem State.storeNow_latches (s : State) (p : Nat) : (s.storeNow p).latches = s.latches := by
  unfold State.storeNow; split <;> simp
@[simp] theorem State.storeNow_arrays (s : State) (p : Nat) : (s.storeNow p).arrays = s.arrays := by
  unfold State.storeNow; split <;> simp
@[simp] theorem State.storeNow_cores (s : State) (p : Nat) : (s.storeNow p).cores = s.cores := by
  unfold State.storeNow; split <;> simp
@[simp] theorem State.storeNow_pgmQueue (s : State) (p : Nat) : (s.storeNow p).pgmQueue = s.pgmQueue := by
  unfold State.storeNow; split <;> simp
@[simp] theorem State.storeNow_mem (s : State) (p : Nat) : (s.storeNow p).mem = s.mem := by
  unfold State.storeNow; split <;> simp
@[simp] theorem State.storeNow_host (s : State) (p : Nat) : (s.storeNow p).host = s.host := by
  unfold State.storeNow; split <;> simp
@[simp] theorem State.storeNow_poison (s : State) (p : Nat) : (s.storeNow p).poison = s.poison := by
  unfold State.storeNow; split <;> simp
@[simp] theorem State.storeNow_memCe (s : State) (p : Nat) : (s.storeNow p).memCe = s.memCe := by
  unfold State.storeNow; split <;> simp
@[simp] theorem State.storeNow_memCeAt (s : State) (p : Nat) : (s.storeNow p).memCeAt = s.memCeAt := by
  unfold State.storeNow; split <;> simp
@[simp] theorem State.storeNow_reqs (s : State) (p : Nat) : (s.storeNow p).reqs = s.reqs := by
  unfold State.storeNow; split <;> simp
@[simp] theorem State.storeNow_nextReq (s : State) (p : Nat) : (s.storeNow p).nextReq = s.nextReq := by
  unfold State.storeNow; split <;> simp
@[simp] theorem State.storeNow_nextBatch (s : State) (p : Nat) : (s.storeNow p).nextBatch = s.nextBatch := by
  unfold State.storeNow; split <;> simp
@[simp] theorem State.storeNow_bound (s : State) (p : Nat) : (s.storeNow p).bound = s.bound := by
  unfold State.storeNow; split <;> simp
@[simp] theorem State.storeNow_pounds (s : State) (p : Nat) : (s.storeNow p).pounds = s.pounds := by
  unfold State.storeNow; split <;> simp
@[simp] theorem State.storeNow_queues (s : State) (p : Nat) : (s.storeNow p).queues = s.queues := by
  unfold State.storeNow; split <;> simp
@[simp] theorem State.storeNow_rrLast (s : State) (p : Nat) : (s.storeNow p).rrLast = s.rrLast := by
  unfold State.storeNow; split <;> simp
@[simp] theorem State.storeNow_expBroken (s : State) (p : Nat) : (s.storeNow p).expBroken = s.expBroken := by
  unfold State.storeNow; split <;> simp
@[simp] theorem State.storeNow_ctxs (s : State) (p : Nat) : (s.storeNow p).ctxs = s.ctxs := by
  unfold State.storeNow; split <;> simp
@[simp] theorem State.storeNow_models (s : State) (p : Nat) : (s.storeNow p).models = s.models := by
  unfold State.storeNow; split <;> simp
@[simp] theorem State.storeNow_adps (s : State) (p : Nat) : (s.storeNow p).adps = s.adps := by
  unfold State.storeNow; split <;> simp
@[simp] theorem State.storeNow_adpClock (s : State) (p : Nat) : (s.storeNow p).adpClock = s.adpClock := by
  unfold State.storeNow; split <;> simp
@[simp] theorem State.storeNow_adpGoal (s : State) (p : Nat) : (s.storeNow p).adpGoal = s.adpGoal := by
  unfold State.storeNow; split <;> simp
@[simp] theorem State.storeNow_sweep (s : State) (p : Nat) : (s.storeNow p).sweep = s.sweep := by
  unfold State.storeNow; split <;> simp
@[simp] theorem State.storeNow_wins (s : State) (p : Nat) : (s.storeNow p).wins = s.wins := by
  unfold State.storeNow; split <;> simp
@[simp] theorem State.storeNow_net (s : State) (p : Nat) : (s.storeNow p).net = s.net := by
  unfold State.storeNow; split <;> simp
@[simp] theorem State.storeNow_tal (s : State) (p : Nat) : (s.storeNow p).tal = s.tal := by
  unfold State.storeNow; split <;> simp
@[simp] theorem State.storeNow_tb (s : State) (p : Nat) : (s.storeNow p).tb = s.tb := by
  unfold State.storeNow; split <;> simp
@[simp] theorem State.storeNow_ports (s : State) (p : Nat) : (s.storeNow p).ports = s.ports := by
  unfold State.storeNow; split <;> simp
@[simp] theorem State.storeNow_mons (s : State) (p : Nat) : (s.storeNow p).mons = s.mons := by
  unfold State.storeNow; split <;> simp
@[simp] theorem State.storeNow_stale (s : State) (p : Nat) : (s.storeNow p).stale = s.stale := by
  unfold State.storeNow; split <;> simp
@[simp] theorem State.storeNow_boot (s : State) (p : Nat) : (s.storeNow p).boot = s.boot := by
  unfold State.storeNow; split <;> simp
@[simp] theorem State.storeNow_pwr (s : State) (p : Nat) : (s.storeNow p).pwr = s.pwr := by
  unfold State.storeNow; split <;> simp
@[simp] theorem State.storeNow_time (s : State) (p : Nat) : (s.storeNow p).time = s.time := by
  unfold State.storeNow; split <;> simp
@[simp] theorem State.storeNow_free (s : State) (p : Nat) : (s.storeNow p).free = s.free := by
  unfold State.storeNow; split <;> simp
@[simp] theorem State.storeNow_pending (s : State) (p : Nat) : (s.storeNow p).pending = s.pending := by
  unfold State.storeNow; split <;> simp
@[simp] theorem State.lockStore_shadows (s : State)  : (s.lockStore ).shadows = s.shadows := by
  unfold State.lockStore; simp
@[simp] theorem State.lockStore_latches (s : State)  : (s.lockStore ).latches = s.latches := by
  unfold State.lockStore; simp
@[simp] theorem State.lockStore_arrays (s : State)  : (s.lockStore ).arrays = s.arrays := by
  unfold State.lockStore; simp
@[simp] theorem State.lockStore_cores (s : State)  : (s.lockStore ).cores = s.cores := by
  unfold State.lockStore; simp
@[simp] theorem State.lockStore_pgmQueue (s : State)  : (s.lockStore ).pgmQueue = s.pgmQueue := by
  unfold State.lockStore; simp
@[simp] theorem State.lockStore_mem (s : State)  : (s.lockStore ).mem = s.mem := by
  unfold State.lockStore; simp
@[simp] theorem State.lockStore_host (s : State)  : (s.lockStore ).host = s.host := by
  unfold State.lockStore; simp
@[simp] theorem State.lockStore_poison (s : State)  : (s.lockStore ).poison = s.poison := by
  unfold State.lockStore; simp
@[simp] theorem State.lockStore_memCe (s : State)  : (s.lockStore ).memCe = s.memCe := by
  unfold State.lockStore; simp
@[simp] theorem State.lockStore_memCeAt (s : State)  : (s.lockStore ).memCeAt = s.memCeAt := by
  unfold State.lockStore; simp
@[simp] theorem State.lockStore_reqs (s : State)  : (s.lockStore ).reqs = s.reqs := by
  unfold State.lockStore; simp
@[simp] theorem State.lockStore_nextReq (s : State)  : (s.lockStore ).nextReq = s.nextReq := by
  unfold State.lockStore; simp
@[simp] theorem State.lockStore_nextBatch (s : State)  : (s.lockStore ).nextBatch = s.nextBatch := by
  unfold State.lockStore; simp
@[simp] theorem State.lockStore_bound (s : State)  : (s.lockStore ).bound = s.bound := by
  unfold State.lockStore; simp
@[simp] theorem State.lockStore_pounds (s : State)  : (s.lockStore ).pounds = s.pounds := by
  unfold State.lockStore; simp
@[simp] theorem State.lockStore_queues (s : State)  : (s.lockStore ).queues = s.queues := by
  unfold State.lockStore; simp
@[simp] theorem State.lockStore_rrLast (s : State)  : (s.lockStore ).rrLast = s.rrLast := by
  unfold State.lockStore; simp
@[simp] theorem State.lockStore_expBroken (s : State)  : (s.lockStore ).expBroken = s.expBroken := by
  unfold State.lockStore; simp
@[simp] theorem State.lockStore_ctxs (s : State)  : (s.lockStore ).ctxs = s.ctxs := by
  unfold State.lockStore; simp
@[simp] theorem State.lockStore_models (s : State)  : (s.lockStore ).models = s.models := by
  unfold State.lockStore; simp
@[simp] theorem State.lockStore_adps (s : State)  : (s.lockStore ).adps = s.adps := by
  unfold State.lockStore; simp
@[simp] theorem State.lockStore_adpClock (s : State)  : (s.lockStore ).adpClock = s.adpClock := by
  unfold State.lockStore; simp
@[simp] theorem State.lockStore_adpGoal (s : State)  : (s.lockStore ).adpGoal = s.adpGoal := by
  unfold State.lockStore; simp
@[simp] theorem State.lockStore_sweep (s : State)  : (s.lockStore ).sweep = s.sweep := by
  unfold State.lockStore; simp
@[simp] theorem State.lockStore_wins (s : State)  : (s.lockStore ).wins = s.wins := by
  unfold State.lockStore; simp
@[simp] theorem State.lockStore_net (s : State)  : (s.lockStore ).net = s.net := by
  unfold State.lockStore; simp
@[simp] theorem State.lockStore_tal (s : State)  : (s.lockStore ).tal = s.tal := by
  unfold State.lockStore; simp
@[simp] theorem State.lockStore_tb (s : State)  : (s.lockStore ).tb = s.tb := by
  unfold State.lockStore; simp
@[simp] theorem State.lockStore_ports (s : State)  : (s.lockStore ).ports = s.ports := by
  unfold State.lockStore; simp
@[simp] theorem State.lockStore_mons (s : State)  : (s.lockStore ).mons = s.mons := by
  unfold State.lockStore; simp
@[simp] theorem State.lockStore_stale (s : State)  : (s.lockStore ).stale = s.stale := by
  unfold State.lockStore; simp
@[simp] theorem State.lockStore_boot (s : State)  : (s.lockStore ).boot = s.boot := by
  unfold State.lockStore; simp
@[simp] theorem State.lockStore_pwr (s : State)  : (s.lockStore ).pwr = s.pwr := by
  unfold State.lockStore; simp
@[simp] theorem State.lockStore_time (s : State)  : (s.lockStore ).time = s.time := by
  unfold State.lockStore; simp
@[simp] theorem State.lockStore_free (s : State)  : (s.lockStore ).free = s.free := by
  unfold State.lockStore; simp
@[simp] theorem State.lockStore_pending (s : State)  : (s.lockStore ).pending = s.pending := by
  unfold State.lockStore; simp

/-! ### Accessors after an update of something else -/

@[simp] theorem State.core_wr (s : State) (r : Reg) (i k v : Nat) (j : Nat) : (s.wr r i k v).core j = s.core j := by simp [State.core]
@[simp] theorem State.arr_wr (s : State) (r : Reg) (i k v : Nat) (j : Nat) : (s.wr r i k v).arr j = s.arr j := by simp [State.arr]
@[simp] theorem State.req_wr (s : State) (r : Reg) (i k v : Nat) (j : Nat) : (s.wr r i k v).req j = s.req j := by simp [State.req]
@[simp] theorem State.pound_wr (s : State) (r : Reg) (i k v : Nat) (j : Nat) : (s.wr r i k v).pound j = s.pound j := by simp [State.pound]
@[simp] theorem State.queue_wr (s : State) (r : Reg) (i k v : Nat) (j : Nat) : (s.wr r i k v).queue j = s.queue j := by simp [State.queue]
@[simp] theorem State.ctx_wr (s : State) (r : Reg) (i k v : Nat) (j : Nat) : (s.wr r i k v).ctx j = s.ctx j := by simp [State.ctx]
@[simp] theorem State.model_wr (s : State) (r : Reg) (i k v : Nat) (j : Nat) : (s.wr r i k v).model j = s.model j := by simp [State.model]
@[simp] theorem State.adp_wr (s : State) (r : Reg) (i k v : Nat) (j : Nat) : (s.wr r i k v).adp j = s.adp j := by simp [State.adp]
@[simp] theorem State.mon_wr (s : State) (r : Reg) (i k v : Nat) (j : Nat) : (s.wr r i k v).mon j = s.mon j := by simp [State.mon]
@[simp] theorem State.peer_wr (s : State) (r : Reg) (i k v : Nat) (j : Nat) : (s.wr r i k v).peer j = s.peer j := by simp [State.peer]
@[simp] theorem State.core_flag (s : State) (r : Reg) (i b : Nat) (j : Nat) : (s.flag r i b).core j = s.core j := by simp [State.core]
@[simp] theorem State.arr_flag (s : State) (r : Reg) (i b : Nat) (j : Nat) : (s.flag r i b).arr j = s.arr j := by simp [State.arr]
@[simp] theorem State.req_flag (s : State) (r : Reg) (i b : Nat) (j : Nat) : (s.flag r i b).req j = s.req j := by simp [State.req]
@[simp] theorem State.pound_flag (s : State) (r : Reg) (i b : Nat) (j : Nat) : (s.flag r i b).pound j = s.pound j := by simp [State.pound]
@[simp] theorem State.queue_flag (s : State) (r : Reg) (i b : Nat) (j : Nat) : (s.flag r i b).queue j = s.queue j := by simp [State.queue]
@[simp] theorem State.ctx_flag (s : State) (r : Reg) (i b : Nat) (j : Nat) : (s.flag r i b).ctx j = s.ctx j := by simp [State.ctx]
@[simp] theorem State.model_flag (s : State) (r : Reg) (i b : Nat) (j : Nat) : (s.flag r i b).model j = s.model j := by simp [State.model]
@[simp] theorem State.adp_flag (s : State) (r : Reg) (i b : Nat) (j : Nat) : (s.flag r i b).adp j = s.adp j := by simp [State.adp]
@[simp] theorem State.mon_flag (s : State) (r : Reg) (i b : Nat) (j : Nat) : (s.flag r i b).mon j = s.mon j := by simp [State.mon]
@[simp] theorem State.peer_flag (s : State) (r : Reg) (i b : Nat) (j : Nat) : (s.flag r i b).peer j = s.peer j := by simp [State.peer]
@[simp] theorem State.core_wf_ (s : State) (r : Reg) (i hi lo v : Nat) (j : Nat) : (s.wf_ r i hi lo v).core j = s.core j := by simp [State.core]
@[simp] theorem State.arr_wf_ (s : State) (r : Reg) (i hi lo v : Nat) (j : Nat) : (s.wf_ r i hi lo v).arr j = s.arr j := by simp [State.arr]
@[simp] theorem State.req_wf_ (s : State) (r : Reg) (i hi lo v : Nat) (j : Nat) : (s.wf_ r i hi lo v).req j = s.req j := by simp [State.req]
@[simp] theorem State.pound_wf_ (s : State) (r : Reg) (i hi lo v : Nat) (j : Nat) : (s.wf_ r i hi lo v).pound j = s.pound j := by simp [State.pound]
@[simp] theorem State.queue_wf_ (s : State) (r : Reg) (i hi lo v : Nat) (j : Nat) : (s.wf_ r i hi lo v).queue j = s.queue j := by simp [State.queue]
@[simp] theorem State.ctx_wf_ (s : State) (r : Reg) (i hi lo v : Nat) (j : Nat) : (s.wf_ r i hi lo v).ctx j = s.ctx j := by simp [State.ctx]
@[simp] theorem State.model_wf_ (s : State) (r : Reg) (i hi lo v : Nat) (j : Nat) : (s.wf_ r i hi lo v).model j = s.model j := by simp [State.model]
@[simp] theorem State.adp_wf_ (s : State) (r : Reg) (i hi lo v : Nat) (j : Nat) : (s.wf_ r i hi lo v).adp j = s.adp j := by simp [State.adp]
@[simp] theorem State.mon_wf_ (s : State) (r : Reg) (i hi lo v : Nat) (j : Nat) : (s.wf_ r i hi lo v).mon j = s.mon j := by simp [State.mon]
@[simp] theorem State.peer_wf_ (s : State) (r : Reg) (i hi lo v : Nat) (j : Nat) : (s.wf_ r i hi lo v).peer j = s.peer j := by simp [State.peer]
@[simp] theorem State.core_bump (s : State) (r : Reg) (i n : Nat) (j : Nat) : (s.bump r i n).core j = s.core j := by simp [State.core]
@[simp] theorem State.arr_bump (s : State) (r : Reg) (i n : Nat) (j : Nat) : (s.bump r i n).arr j = s.arr j := by simp [State.arr]
@[simp] theorem State.req_bump (s : State) (r : Reg) (i n : Nat) (j : Nat) : (s.bump r i n).req j = s.req j := by simp [State.req]
@[simp] theorem State.pound_bump (s : State) (r : Reg) (i n : Nat) (j : Nat) : (s.bump r i n).pound j = s.pound j := by simp [State.pound]
@[simp] theorem State.queue_bump (s : State) (r : Reg) (i n : Nat) (j : Nat) : (s.bump r i n).queue j = s.queue j := by simp [State.queue]
@[simp] theorem State.ctx_bump (s : State) (r : Reg) (i n : Nat) (j : Nat) : (s.bump r i n).ctx j = s.ctx j := by simp [State.ctx]
@[simp] theorem State.model_bump (s : State) (r : Reg) (i n : Nat) (j : Nat) : (s.bump r i n).model j = s.model j := by simp [State.model]
@[simp] theorem State.adp_bump (s : State) (r : Reg) (i n : Nat) (j : Nat) : (s.bump r i n).adp j = s.adp j := by simp [State.adp]
@[simp] theorem State.mon_bump (s : State) (r : Reg) (i n : Nat) (j : Nat) : (s.bump r i n).mon j = s.mon j := by simp [State.mon]
@[simp] theorem State.peer_bump (s : State) (r : Reg) (i n : Nat) (j : Nat) : (s.bump r i n).peer j = s.peer j := by simp [State.peer]
@[simp] theorem State.core_setPwr (s : State) (n : Nat) (j : Nat) : (s.setPwr n).core j = s.core j := by simp [State.core]
@[simp] theorem State.arr_setPwr (s : State) (n : Nat) (j : Nat) : (s.setPwr n).arr j = s.arr j := by simp [State.arr]
@[simp] theorem State.req_setPwr (s : State) (n : Nat) (j : Nat) : (s.setPwr n).req j = s.req j := by simp [State.req]
@[simp] theorem State.pound_setPwr (s : State) (n : Nat) (j : Nat) : (s.setPwr n).pound j = s.pound j := by simp [State.pound]
@[simp] theorem State.queue_setPwr (s : State) (n : Nat) (j : Nat) : (s.setPwr n).queue j = s.queue j := by simp [State.queue]
@[simp] theorem State.ctx_setPwr (s : State) (n : Nat) (j : Nat) : (s.setPwr n).ctx j = s.ctx j := by simp [State.ctx]
@[simp] theorem State.model_setPwr (s : State) (n : Nat) (j : Nat) : (s.setPwr n).model j = s.model j := by simp [State.model]
@[simp] theorem State.adp_setPwr (s : State) (n : Nat) (j : Nat) : (s.setPwr n).adp j = s.adp j := by simp [State.adp]
@[simp] theorem State.mon_setPwr (s : State) (n : Nat) (j : Nat) : (s.setPwr n).mon j = s.mon j := by simp [State.mon]
@[simp] theorem State.peer_setPwr (s : State) (n : Nat) (j : Nat) : (s.setPwr n).peer j = s.peer j := by simp [State.peer]
@[simp] theorem State.arr_setCore (s : State) (c : Nat) (x : Core) (j : Nat) : (s.setCore c x).arr j = s.arr j := by simp [State.arr]
@[simp] theorem State.req_setCore (s : State) (c : Nat) (x : Core) (j : Nat) : (s.setCore c x).req j = s.req j := by simp [State.req]
@[simp] theorem State.pound_setCore (s : State) (c : Nat) (x : Core) (j : Nat) : (s.setCore c x).pound j = s.pound j := by simp [State.pound]
@[simp] theorem State.queue_setCore (s : State) (c : Nat) (x : Core) (j : Nat) : (s.setCore c x).queue j = s.queue j := by simp [State.queue]
@[simp] theorem State.ctx_setCore (s : State) (c : Nat) (x : Core) (j : Nat) : (s.setCore c x).ctx j = s.ctx j := by simp [State.ctx]
@[simp] theorem State.model_setCore (s : State) (c : Nat) (x : Core) (j : Nat) : (s.setCore c x).model j = s.model j := by simp [State.model]
@[simp] theorem State.adp_setCore (s : State) (c : Nat) (x : Core) (j : Nat) : (s.setCore c x).adp j = s.adp j := by simp [State.adp]
@[simp] theorem State.mon_setCore (s : State) (c : Nat) (x : Core) (j : Nat) : (s.setCore c x).mon j = s.mon j := by simp [State.mon]
@[simp] theorem State.peer_setCore (s : State) (c : Nat) (x : Core) (j : Nat) : (s.setCore c x).peer j = s.peer j := by simp [State.peer]
@[simp] theorem State.rd_setCore (s : State) (c : Nat) (x : Core) (r' : Reg) (j l : Nat) : (s.setCore c x).rd r' j l = s.rd r' j l := by simp [State.rd]
@[simp] theorem State.arr_modCore (s : State) (c : Nat) (f : Core → Core) (j : Nat) : (s.modCore c f).arr j = s.arr j := by simp [State.arr]
@[simp] theorem State.req_modCore (s : State) (c : Nat) (f : Core → Core) (j : Nat) : (s.modCore c f).req j = s.req j := by simp [State.req]
@[simp] theorem State.pound_modCore (s : State) (c : Nat) (f : Core → Core) (j : Nat) : (s.modCore c f).pound j = s.pound j := by simp [State.pound]
@[simp] theorem State.queue_modCore (s : State) (c : Nat) (f : Core → Core) (j : Nat) : (s.modCore c f).queue j = s.queue j := by simp [State.queue]
@[simp] theorem State.ctx_modCore (s : State) (c : Nat) (f : Core → Core) (j : Nat) : (s.modCore c f).ctx j = s.ctx j := by simp [State.ctx]
@[simp] theorem State.model_modCore (s : State) (c : Nat) (f : Core → Core) (j : Nat) : (s.modCore c f).model j = s.model j := by simp [State.model]
@[simp] theorem State.adp_modCore (s : State) (c : Nat) (f : Core → Core) (j : Nat) : (s.modCore c f).adp j = s.adp j := by simp [State.adp]
@[simp] theorem State.mon_modCore (s : State) (c : Nat) (f : Core → Core) (j : Nat) : (s.modCore c f).mon j = s.mon j := by simp [State.mon]
@[simp] theorem State.peer_modCore (s : State) (c : Nat) (f : Core → Core) (j : Nat) : (s.modCore c f).peer j = s.peer j := by simp [State.peer]
@[simp] theorem State.rd_modCore (s : State) (c : Nat) (f : Core → Core) (r' : Reg) (j l : Nat) : (s.modCore c f).rd r' j l = s.rd r' j l := by simp [State.rd]
@[simp] theorem State.core_setArr (s : State) (a : Nat) (x : Arr) (j : Nat) : (s.setArr a x).core j = s.core j := by simp [State.core]
@[simp] theorem State.req_setArr (s : State) (a : Nat) (x : Arr) (j : Nat) : (s.setArr a x).req j = s.req j := by simp [State.req]
@[simp] theorem State.pound_setArr (s : State) (a : Nat) (x : Arr) (j : Nat) : (s.setArr a x).pound j = s.pound j := by simp [State.pound]
@[simp] theorem State.queue_setArr (s : State) (a : Nat) (x : Arr) (j : Nat) : (s.setArr a x).queue j = s.queue j := by simp [State.queue]
@[simp] theorem State.ctx_setArr (s : State) (a : Nat) (x : Arr) (j : Nat) : (s.setArr a x).ctx j = s.ctx j := by simp [State.ctx]
@[simp] theorem State.model_setArr (s : State) (a : Nat) (x : Arr) (j : Nat) : (s.setArr a x).model j = s.model j := by simp [State.model]
@[simp] theorem State.adp_setArr (s : State) (a : Nat) (x : Arr) (j : Nat) : (s.setArr a x).adp j = s.adp j := by simp [State.adp]
@[simp] theorem State.mon_setArr (s : State) (a : Nat) (x : Arr) (j : Nat) : (s.setArr a x).mon j = s.mon j := by simp [State.mon]
@[simp] theorem State.peer_setArr (s : State) (a : Nat) (x : Arr) (j : Nat) : (s.setArr a x).peer j = s.peer j := by simp [State.peer]
@[simp] theorem State.rd_setArr (s : State) (a : Nat) (x : Arr) (r' : Reg) (j l : Nat) : (s.setArr a x).rd r' j l = s.rd r' j l := by simp [State.rd]
@[simp] theorem State.core_modArr (s : State) (a : Nat) (f : Arr → Arr) (j : Nat) : (s.modArr a f).core j = s.core j := by simp [State.core]
@[simp] theorem State.req_modArr (s : State) (a : Nat) (f : Arr → Arr) (j : Nat) : (s.modArr a f).req j = s.req j := by simp [State.req]
@[simp] theorem State.pound_modArr (s : State) (a : Nat) (f : Arr → Arr) (j : Nat) : (s.modArr a f).pound j = s.pound j := by simp [State.pound]
@[simp] theorem State.queue_modArr (s : State) (a : Nat) (f : Arr → Arr) (j : Nat) : (s.modArr a f).queue j = s.queue j := by simp [State.queue]
@[simp] theorem State.ctx_modArr (s : State) (a : Nat) (f : Arr → Arr) (j : Nat) : (s.modArr a f).ctx j = s.ctx j := by simp [State.ctx]
@[simp] theorem State.model_modArr (s : State) (a : Nat) (f : Arr → Arr) (j : Nat) : (s.modArr a f).model j = s.model j := by simp [State.model]
@[simp] theorem State.adp_modArr (s : State) (a : Nat) (f : Arr → Arr) (j : Nat) : (s.modArr a f).adp j = s.adp j := by simp [State.adp]
@[simp] theorem State.mon_modArr (s : State) (a : Nat) (f : Arr → Arr) (j : Nat) : (s.modArr a f).mon j = s.mon j := by simp [State.mon]
@[simp] theorem State.peer_modArr (s : State) (a : Nat) (f : Arr → Arr) (j : Nat) : (s.modArr a f).peer j = s.peer j := by simp [State.peer]
@[simp] theorem State.rd_modArr (s : State) (a : Nat) (f : Arr → Arr) (r' : Reg) (j l : Nat) : (s.modArr a f).rd r' j l = s.rd r' j l := by simp [State.rd]
@[simp] theorem State.core_setReq (s : State) (i : Nat) (x : Request) (j : Nat) : (s.setReq i x).core j = s.core j := by simp [State.core]
@[simp] theorem State.arr_setReq (s : State) (i : Nat) (x : Request) (j : Nat) : (s.setReq i x).arr j = s.arr j := by simp [State.arr]
@[simp] theorem State.pound_setReq (s : State) (i : Nat) (x : Request) (j : Nat) : (s.setReq i x).pound j = s.pound j := by simp [State.pound]
@[simp] theorem State.queue_setReq (s : State) (i : Nat) (x : Request) (j : Nat) : (s.setReq i x).queue j = s.queue j := by simp [State.queue]
@[simp] theorem State.ctx_setReq (s : State) (i : Nat) (x : Request) (j : Nat) : (s.setReq i x).ctx j = s.ctx j := by simp [State.ctx]
@[simp] theorem State.model_setReq (s : State) (i : Nat) (x : Request) (j : Nat) : (s.setReq i x).model j = s.model j := by simp [State.model]
@[simp] theorem State.adp_setReq (s : State) (i : Nat) (x : Request) (j : Nat) : (s.setReq i x).adp j = s.adp j := by simp [State.adp]
@[simp] theorem State.mon_setReq (s : State) (i : Nat) (x : Request) (j : Nat) : (s.setReq i x).mon j = s.mon j := by simp [State.mon]
@[simp] theorem State.peer_setReq (s : State) (i : Nat) (x : Request) (j : Nat) : (s.setReq i x).peer j = s.peer j := by simp [State.peer]
@[simp] theorem State.rd_setReq (s : State) (i : Nat) (x : Request) (r' : Reg) (j l : Nat) : (s.setReq i x).rd r' j l = s.rd r' j l := by simp [State.rd]
@[simp] theorem State.core_modReq (s : State) (i : Nat) (f : Request → Request) (j : Nat) : (s.modReq i f).core j = s.core j := by simp [State.core]
@[simp] theorem State.arr_modReq (s : State) (i : Nat) (f : Request → Request) (j : Nat) : (s.modReq i f).arr j = s.arr j := by simp [State.arr]
@[simp] theorem State.pound_modReq (s : State) (i : Nat) (f : Request → Request) (j : Nat) : (s.modReq i f).pound j = s.pound j := by simp [State.pound]
@[simp] theorem State.queue_modReq (s : State) (i : Nat) (f : Request → Request) (j : Nat) : (s.modReq i f).queue j = s.queue j := by simp [State.queue]
@[simp] theorem State.ctx_modReq (s : State) (i : Nat) (f : Request → Request) (j : Nat) : (s.modReq i f).ctx j = s.ctx j := by simp [State.ctx]
@[simp] theorem State.model_modReq (s : State) (i : Nat) (f : Request → Request) (j : Nat) : (s.modReq i f).model j = s.model j := by simp [State.model]
@[simp] theorem State.adp_modReq (s : State) (i : Nat) (f : Request → Request) (j : Nat) : (s.modReq i f).adp j = s.adp j := by simp [State.adp]
@[simp] theorem State.mon_modReq (s : State) (i : Nat) (f : Request → Request) (j : Nat) : (s.modReq i f).mon j = s.mon j := by simp [State.mon]
@[simp] theorem State.peer_modReq (s : State) (i : Nat) (f : Request → Request) (j : Nat) : (s.modReq i f).peer j = s.peer j := by simp [State.peer]
@[simp] theorem State.rd_modReq (s : State) (i : Nat) (f : Request → Request) (r' : Reg) (j l : Nat) : (s.modReq i f).rd r' j l = s.rd r' j l := by simp [State.rd]
@[simp] theorem State.core_setPound (s : State) (p : Nat) (x : Pound) (j : Nat) : (s.setPound p x).core j = s.core j := by simp [State.core]
@[simp] theorem State.arr_setPound (s : State) (p : Nat) (x : Pound) (j : Nat) : (s.setPound p x).arr j = s.arr j := by simp [State.arr]
@[simp] theorem State.req_setPound (s : State) (p : Nat) (x : Pound) (j : Nat) : (s.setPound p x).req j = s.req j := by simp [State.req]
@[simp] theorem State.queue_setPound (s : State) (p : Nat) (x : Pound) (j : Nat) : (s.setPound p x).queue j = s.queue j := by simp [State.queue]
@[simp] theorem State.ctx_setPound (s : State) (p : Nat) (x : Pound) (j : Nat) : (s.setPound p x).ctx j = s.ctx j := by simp [State.ctx]
@[simp] theorem State.model_setPound (s : State) (p : Nat) (x : Pound) (j : Nat) : (s.setPound p x).model j = s.model j := by simp [State.model]
@[simp] theorem State.adp_setPound (s : State) (p : Nat) (x : Pound) (j : Nat) : (s.setPound p x).adp j = s.adp j := by simp [State.adp]
@[simp] theorem State.mon_setPound (s : State) (p : Nat) (x : Pound) (j : Nat) : (s.setPound p x).mon j = s.mon j := by simp [State.mon]
@[simp] theorem State.peer_setPound (s : State) (p : Nat) (x : Pound) (j : Nat) : (s.setPound p x).peer j = s.peer j := by simp [State.peer]
@[simp] theorem State.rd_setPound (s : State) (p : Nat) (x : Pound) (r' : Reg) (j l : Nat) : (s.setPound p x).rd r' j l = s.rd r' j l := by simp [State.rd]
@[simp] theorem State.core_modPound (s : State) (p : Nat) (f : Pound → Pound) (j : Nat) : (s.modPound p f).core j = s.core j := by simp [State.core]
@[simp] theorem State.arr_modPound (s : State) (p : Nat) (f : Pound → Pound) (j : Nat) : (s.modPound p f).arr j = s.arr j := by simp [State.arr]
@[simp] theorem State.req_modPound (s : State) (p : Nat) (f : Pound → Pound) (j : Nat) : (s.modPound p f).req j = s.req j := by simp [State.req]
@[simp] theorem State.queue_modPound (s : State) (p : Nat) (f : Pound → Pound) (j : Nat) : (s.modPound p f).queue j = s.queue j := by simp [State.queue]
@[simp] theorem State.ctx_modPound (s : State) (p : Nat) (f : Pound → Pound) (j : Nat) : (s.modPound p f).ctx j = s.ctx j := by simp [State.ctx]
@[simp] theorem State.model_modPound (s : State) (p : Nat) (f : Pound → Pound) (j : Nat) : (s.modPound p f).model j = s.model j := by simp [State.model]
@[simp] theorem State.adp_modPound (s : State) (p : Nat) (f : Pound → Pound) (j : Nat) : (s.modPound p f).adp j = s.adp j := by simp [State.adp]
@[simp] theorem State.mon_modPound (s : State) (p : Nat) (f : Pound → Pound) (j : Nat) : (s.modPound p f).mon j = s.mon j := by simp [State.mon]
@[simp] theorem State.peer_modPound (s : State) (p : Nat) (f : Pound → Pound) (j : Nat) : (s.modPound p f).peer j = s.peer j := by simp [State.peer]
@[simp] theorem State.rd_modPound (s : State) (p : Nat) (f : Pound → Pound) (r' : Reg) (j l : Nat) : (s.modPound p f).rd r' j l = s.rd r' j l := by simp [State.rd]
@[simp] theorem State.core_setQueue (s : State) (q : Nat) (x : Queue) (j : Nat) : (s.setQueue q x).core j = s.core j := by simp [State.core]
@[simp] theorem State.arr_setQueue (s : State) (q : Nat) (x : Queue) (j : Nat) : (s.setQueue q x).arr j = s.arr j := by simp [State.arr]
@[simp] theorem State.req_setQueue (s : State) (q : Nat) (x : Queue) (j : Nat) : (s.setQueue q x).req j = s.req j := by simp [State.req]
@[simp] theorem State.pound_setQueue (s : State) (q : Nat) (x : Queue) (j : Nat) : (s.setQueue q x).pound j = s.pound j := by simp [State.pound]
@[simp] theorem State.ctx_setQueue (s : State) (q : Nat) (x : Queue) (j : Nat) : (s.setQueue q x).ctx j = s.ctx j := by simp [State.ctx]
@[simp] theorem State.model_setQueue (s : State) (q : Nat) (x : Queue) (j : Nat) : (s.setQueue q x).model j = s.model j := by simp [State.model]
@[simp] theorem State.adp_setQueue (s : State) (q : Nat) (x : Queue) (j : Nat) : (s.setQueue q x).adp j = s.adp j := by simp [State.adp]
@[simp] theorem State.mon_setQueue (s : State) (q : Nat) (x : Queue) (j : Nat) : (s.setQueue q x).mon j = s.mon j := by simp [State.mon]
@[simp] theorem State.peer_setQueue (s : State) (q : Nat) (x : Queue) (j : Nat) : (s.setQueue q x).peer j = s.peer j := by simp [State.peer]
@[simp] theorem State.rd_setQueue (s : State) (q : Nat) (x : Queue) (r' : Reg) (j l : Nat) : (s.setQueue q x).rd r' j l = s.rd r' j l := by simp [State.rd]
@[simp] theorem State.core_modQueue (s : State) (q : Nat) (f : Queue → Queue) (j : Nat) : (s.modQueue q f).core j = s.core j := by simp [State.core]
@[simp] theorem State.arr_modQueue (s : State) (q : Nat) (f : Queue → Queue) (j : Nat) : (s.modQueue q f).arr j = s.arr j := by simp [State.arr]
@[simp] theorem State.req_modQueue (s : State) (q : Nat) (f : Queue → Queue) (j : Nat) : (s.modQueue q f).req j = s.req j := by simp [State.req]
@[simp] theorem State.pound_modQueue (s : State) (q : Nat) (f : Queue → Queue) (j : Nat) : (s.modQueue q f).pound j = s.pound j := by simp [State.pound]
@[simp] theorem State.ctx_modQueue (s : State) (q : Nat) (f : Queue → Queue) (j : Nat) : (s.modQueue q f).ctx j = s.ctx j := by simp [State.ctx]
@[simp] theorem State.model_modQueue (s : State) (q : Nat) (f : Queue → Queue) (j : Nat) : (s.modQueue q f).model j = s.model j := by simp [State.model]
@[simp] theorem State.adp_modQueue (s : State) (q : Nat) (f : Queue → Queue) (j : Nat) : (s.modQueue q f).adp j = s.adp j := by simp [State.adp]
@[simp] theorem State.mon_modQueue (s : State) (q : Nat) (f : Queue → Queue) (j : Nat) : (s.modQueue q f).mon j = s.mon j := by simp [State.mon]
@[simp] theorem State.peer_modQueue (s : State) (q : Nat) (f : Queue → Queue) (j : Nat) : (s.modQueue q f).peer j = s.peer j := by simp [State.peer]
@[simp] theorem State.rd_modQueue (s : State) (q : Nat) (f : Queue → Queue) (r' : Reg) (j l : Nat) : (s.modQueue q f).rd r' j l = s.rd r' j l := by simp [State.rd]
@[simp] theorem State.core_setModel (s : State) (m : Nat) (x : Model) (j : Nat) : (s.setModel m x).core j = s.core j := by simp [State.core]
@[simp] theorem State.arr_setModel (s : State) (m : Nat) (x : Model) (j : Nat) : (s.setModel m x).arr j = s.arr j := by simp [State.arr]
@[simp] theorem State.req_setModel (s : State) (m : Nat) (x : Model) (j : Nat) : (s.setModel m x).req j = s.req j := by simp [State.req]
@[simp] theorem State.pound_setModel (s : State) (m : Nat) (x : Model) (j : Nat) : (s.setModel m x).pound j = s.pound j := by simp [State.pound]
@[simp] theorem State.queue_setModel (s : State) (m : Nat) (x : Model) (j : Nat) : (s.setModel m x).queue j = s.queue j := by simp [State.queue]
@[simp] theorem State.ctx_setModel (s : State) (m : Nat) (x : Model) (j : Nat) : (s.setModel m x).ctx j = s.ctx j := by simp [State.ctx]
@[simp] theorem State.adp_setModel (s : State) (m : Nat) (x : Model) (j : Nat) : (s.setModel m x).adp j = s.adp j := by simp [State.adp]
@[simp] theorem State.mon_setModel (s : State) (m : Nat) (x : Model) (j : Nat) : (s.setModel m x).mon j = s.mon j := by simp [State.mon]
@[simp] theorem State.peer_setModel (s : State) (m : Nat) (x : Model) (j : Nat) : (s.setModel m x).peer j = s.peer j := by simp [State.peer]
@[simp] theorem State.rd_setModel (s : State) (m : Nat) (x : Model) (r' : Reg) (j l : Nat) : (s.setModel m x).rd r' j l = s.rd r' j l := by simp [State.rd]
@[simp] theorem State.core_modModel (s : State) (m : Nat) (f : Model → Model) (j : Nat) : (s.modModel m f).core j = s.core j := by simp [State.core]
@[simp] theorem State.arr_modModel (s : State) (m : Nat) (f : Model → Model) (j : Nat) : (s.modModel m f).arr j = s.arr j := by simp [State.arr]
@[simp] theorem State.req_modModel (s : State) (m : Nat) (f : Model → Model) (j : Nat) : (s.modModel m f).req j = s.req j := by simp [State.req]
@[simp] theorem State.pound_modModel (s : State) (m : Nat) (f : Model → Model) (j : Nat) : (s.modModel m f).pound j = s.pound j := by simp [State.pound]
@[simp] theorem State.queue_modModel (s : State) (m : Nat) (f : Model → Model) (j : Nat) : (s.modModel m f).queue j = s.queue j := by simp [State.queue]
@[simp] theorem State.ctx_modModel (s : State) (m : Nat) (f : Model → Model) (j : Nat) : (s.modModel m f).ctx j = s.ctx j := by simp [State.ctx]
@[simp] theorem State.adp_modModel (s : State) (m : Nat) (f : Model → Model) (j : Nat) : (s.modModel m f).adp j = s.adp j := by simp [State.adp]
@[simp] theorem State.mon_modModel (s : State) (m : Nat) (f : Model → Model) (j : Nat) : (s.modModel m f).mon j = s.mon j := by simp [State.mon]
@[simp] theorem State.peer_modModel (s : State) (m : Nat) (f : Model → Model) (j : Nat) : (s.modModel m f).peer j = s.peer j := by simp [State.peer]
@[simp] theorem State.rd_modModel (s : State) (m : Nat) (f : Model → Model) (r' : Reg) (j l : Nat) : (s.modModel m f).rd r' j l = s.rd r' j l := by simp [State.rd]
@[simp] theorem State.core_setAdp (s : State) (i : Nat) (x : AdpSlot) (j : Nat) : (s.setAdp i x).core j = s.core j := by simp [State.core]
@[simp] theorem State.arr_setAdp (s : State) (i : Nat) (x : AdpSlot) (j : Nat) : (s.setAdp i x).arr j = s.arr j := by simp [State.arr]
@[simp] theorem State.req_setAdp (s : State) (i : Nat) (x : AdpSlot) (j : Nat) : (s.setAdp i x).req j = s.req j := by simp [State.req]
@[simp] theorem State.pound_setAdp (s : State) (i : Nat) (x : AdpSlot) (j : Nat) : (s.setAdp i x).pound j = s.pound j := by simp [State.pound]
@[simp] theorem State.queue_setAdp (s : State) (i : Nat) (x : AdpSlot) (j : Nat) : (s.setAdp i x).queue j = s.queue j := by simp [State.queue]
@[simp] theorem State.ctx_setAdp (s : State) (i : Nat) (x : AdpSlot) (j : Nat) : (s.setAdp i x).ctx j = s.ctx j := by simp [State.ctx]
@[simp] theorem State.model_setAdp (s : State) (i : Nat) (x : AdpSlot) (j : Nat) : (s.setAdp i x).model j = s.model j := by simp [State.model]
@[simp] theorem State.mon_setAdp (s : State) (i : Nat) (x : AdpSlot) (j : Nat) : (s.setAdp i x).mon j = s.mon j := by simp [State.mon]
@[simp] theorem State.peer_setAdp (s : State) (i : Nat) (x : AdpSlot) (j : Nat) : (s.setAdp i x).peer j = s.peer j := by simp [State.peer]
@[simp] theorem State.rd_setAdp (s : State) (i : Nat) (x : AdpSlot) (r' : Reg) (j l : Nat) : (s.setAdp i x).rd r' j l = s.rd r' j l := by simp [State.rd]
@[simp] theorem State.core_setMon (s : State) (m : Nat) (x : Mon) (j : Nat) : (s.setMon m x).core j = s.core j := by simp [State.core]
@[simp] theorem State.arr_setMon (s : State) (m : Nat) (x : Mon) (j : Nat) : (s.setMon m x).arr j = s.arr j := by simp [State.arr]
@[simp] theorem State.req_setMon (s : State) (m : Nat) (x : Mon) (j : Nat) : (s.setMon m x).req j = s.req j := by simp [State.req]
@[simp] theorem State.pound_setMon (s : State) (m : Nat) (x : Mon) (j : Nat) : (s.setMon m x).pound j = s.pound j := by simp [State.pound]
@[simp] theorem State.queue_setMon (s : State) (m : Nat) (x : Mon) (j : Nat) : (s.setMon m x).queue j = s.queue j := by simp [State.queue]
@[simp] theorem State.ctx_setMon (s : State) (m : Nat) (x : Mon) (j : Nat) : (s.setMon m x).ctx j = s.ctx j := by simp [State.ctx]
@[simp] theorem State.model_setMon (s : State) (m : Nat) (x : Mon) (j : Nat) : (s.setMon m x).model j = s.model j := by simp [State.model]
@[simp] theorem State.adp_setMon (s : State) (m : Nat) (x : Mon) (j : Nat) : (s.setMon m x).adp j = s.adp j := by simp [State.adp]
@[simp] theorem State.peer_setMon (s : State) (m : Nat) (x : Mon) (j : Nat) : (s.setMon m x).peer j = s.peer j := by simp [State.peer]
@[simp] theorem State.rd_setMon (s : State) (m : Nat) (x : Mon) (r' : Reg) (j l : Nat) : (s.setMon m x).rd r' j l = s.rd r' j l := by simp [State.rd]
@[simp] theorem State.core_modTal (s : State) (f : Tal → Tal) (j : Nat) : (s.modTal f).core j = s.core j := by simp [State.core]
@[simp] theorem State.arr_modTal (s : State) (f : Tal → Tal) (j : Nat) : (s.modTal f).arr j = s.arr j := by simp [State.arr]
@[simp] theorem State.req_modTal (s : State) (f : Tal → Tal) (j : Nat) : (s.modTal f).req j = s.req j := by simp [State.req]
@[simp] theorem State.pound_modTal (s : State) (f : Tal → Tal) (j : Nat) : (s.modTal f).pound j = s.pound j := by simp [State.pound]
@[simp] theorem State.queue_modTal (s : State) (f : Tal → Tal) (j : Nat) : (s.modTal f).queue j = s.queue j := by simp [State.queue]
@[simp] theorem State.ctx_modTal (s : State) (f : Tal → Tal) (j : Nat) : (s.modTal f).ctx j = s.ctx j := by simp [State.ctx]
@[simp] theorem State.model_modTal (s : State) (f : Tal → Tal) (j : Nat) : (s.modTal f).model j = s.model j := by simp [State.model]
@[simp] theorem State.adp_modTal (s : State) (f : Tal → Tal) (j : Nat) : (s.modTal f).adp j = s.adp j := by simp [State.adp]
@[simp] theorem State.mon_modTal (s : State) (f : Tal → Tal) (j : Nat) : (s.modTal f).mon j = s.mon j := by simp [State.mon]
@[simp] theorem State.peer_modTal (s : State) (f : Tal → Tal) (j : Nat) : (s.modTal f).peer j = s.peer j := by simp [State.peer]
@[simp] theorem State.rd_modTal (s : State) (f : Tal → Tal) (r' : Reg) (j l : Nat) : (s.modTal f).rd r' j l = s.rd r' j l := by simp [State.rd]
@[simp] theorem State.core_setPeer (s : State) (i : Nat) (x : Peer) (j : Nat) : (s.setPeer i x).core j = s.core j := by simp [State.core]
@[simp] theorem State.arr_setPeer (s : State) (i : Nat) (x : Peer) (j : Nat) : (s.setPeer i x).arr j = s.arr j := by simp [State.arr]
@[simp] theorem State.req_setPeer (s : State) (i : Nat) (x : Peer) (j : Nat) : (s.setPeer i x).req j = s.req j := by simp [State.req]
@[simp] theorem State.pound_setPeer (s : State) (i : Nat) (x : Peer) (j : Nat) : (s.setPeer i x).pound j = s.pound j := by simp [State.pound]
@[simp] theorem State.queue_setPeer (s : State) (i : Nat) (x : Peer) (j : Nat) : (s.setPeer i x).queue j = s.queue j := by simp [State.queue]
@[simp] theorem State.ctx_setPeer (s : State) (i : Nat) (x : Peer) (j : Nat) : (s.setPeer i x).ctx j = s.ctx j := by simp [State.ctx]
@[simp] theorem State.model_setPeer (s : State) (i : Nat) (x : Peer) (j : Nat) : (s.setPeer i x).model j = s.model j := by simp [State.model]
@[simp] theorem State.adp_setPeer (s : State) (i : Nat) (x : Peer) (j : Nat) : (s.setPeer i x).adp j = s.adp j := by simp [State.adp]
@[simp] theorem State.mon_setPeer (s : State) (i : Nat) (x : Peer) (j : Nat) : (s.setPeer i x).mon j = s.mon j := by simp [State.mon]
@[simp] theorem State.rd_setPeer (s : State) (i : Nat) (x : Peer) (r' : Reg) (j l : Nat) : (s.setPeer i x).rd r' j l = s.rd r' j l := by simp [State.rd]
@[simp] theorem State.core_modPeer (s : State) (i : Nat) (f : Peer → Peer) (j : Nat) : (s.modPeer i f).core j = s.core j := by simp [State.core]
@[simp] theorem State.arr_modPeer (s : State) (i : Nat) (f : Peer → Peer) (j : Nat) : (s.modPeer i f).arr j = s.arr j := by simp [State.arr]
@[simp] theorem State.req_modPeer (s : State) (i : Nat) (f : Peer → Peer) (j : Nat) : (s.modPeer i f).req j = s.req j := by simp [State.req]
@[simp] theorem State.pound_modPeer (s : State) (i : Nat) (f : Peer → Peer) (j : Nat) : (s.modPeer i f).pound j = s.pound j := by simp [State.pound]
@[simp] theorem State.queue_modPeer (s : State) (i : Nat) (f : Peer → Peer) (j : Nat) : (s.modPeer i f).queue j = s.queue j := by simp [State.queue]
@[simp] theorem State.ctx_modPeer (s : State) (i : Nat) (f : Peer → Peer) (j : Nat) : (s.modPeer i f).ctx j = s.ctx j := by simp [State.ctx]
@[simp] theorem State.model_modPeer (s : State) (i : Nat) (f : Peer → Peer) (j : Nat) : (s.modPeer i f).model j = s.model j := by simp [State.model]
@[simp] theorem State.adp_modPeer (s : State) (i : Nat) (f : Peer → Peer) (j : Nat) : (s.modPeer i f).adp j = s.adp j := by simp [State.adp]
@[simp] theorem State.mon_modPeer (s : State) (i : Nat) (f : Peer → Peer) (j : Nat) : (s.modPeer i f).mon j = s.mon j := by simp [State.mon]
@[simp] theorem State.rd_modPeer (s : State) (i : Nat) (f : Peer → Peer) (r' : Reg) (j l : Nat) : (s.modPeer i f).rd r' j l = s.rd r' j l := by simp [State.rd]
@[simp] theorem State.core_send (s : State) (x : Tx) (j : Nat) : (s.send x).core j = s.core j := by simp [State.core]
@[simp] theorem State.arr_send (s : State) (x : Tx) (j : Nat) : (s.send x).arr j = s.arr j := by simp [State.arr]
@[simp] theorem State.req_send (s : State) (x : Tx) (j : Nat) : (s.send x).req j = s.req j := by simp [State.req]
@[simp] theorem State.pound_send (s : State) (x : Tx) (j : Nat) : (s.send x).pound j = s.pound j := by simp [State.pound]
@[simp] theorem State.queue_send (s : State) (x : Tx) (j : Nat) : (s.send x).queue j = s.queue j := by simp [State.queue]
@[simp] theorem State.ctx_send (s : State) (x : Tx) (j : Nat) : (s.send x).ctx j = s.ctx j := by simp [State.ctx]
@[simp] theorem State.model_send (s : State) (x : Tx) (j : Nat) : (s.send x).model j = s.model j := by simp [State.model]
@[simp] theorem State.adp_send (s : State) (x : Tx) (j : Nat) : (s.send x).adp j = s.adp j := by simp [State.adp]
@[simp] theorem State.mon_send (s : State) (x : Tx) (j : Nat) : (s.send x).mon j = s.mon j := by simp [State.mon]
@[simp] theorem State.peer_send (s : State) (x : Tx) (j : Nat) : (s.send x).peer j = s.peer j := by simp [State.peer]
@[simp] theorem State.rd_send (s : State) (x : Tx) (r' : Reg) (j l : Nat) : (s.send x).rd r' j l = s.rd r' j l := by simp [State.rd]
@[simp] theorem State.core_reply (s : State) (p : Path) (v : Nat) (j : Nat) : (s.reply p v).core j = s.core j := by simp [State.core]
@[simp] theorem State.arr_reply (s : State) (p : Path) (v : Nat) (j : Nat) : (s.reply p v).arr j = s.arr j := by simp [State.arr]
@[simp] theorem State.req_reply (s : State) (p : Path) (v : Nat) (j : Nat) : (s.reply p v).req j = s.req j := by simp [State.req]
@[simp] theorem State.pound_reply (s : State) (p : Path) (v : Nat) (j : Nat) : (s.reply p v).pound j = s.pound j := by simp [State.pound]
@[simp] theorem State.queue_reply (s : State) (p : Path) (v : Nat) (j : Nat) : (s.reply p v).queue j = s.queue j := by simp [State.queue]
@[simp] theorem State.ctx_reply (s : State) (p : Path) (v : Nat) (j : Nat) : (s.reply p v).ctx j = s.ctx j := by simp [State.ctx]
@[simp] theorem State.model_reply (s : State) (p : Path) (v : Nat) (j : Nat) : (s.reply p v).model j = s.model j := by simp [State.model]
@[simp] theorem State.adp_reply (s : State) (p : Path) (v : Nat) (j : Nat) : (s.reply p v).adp j = s.adp j := by simp [State.adp]
@[simp] theorem State.mon_reply (s : State) (p : Path) (v : Nat) (j : Nat) : (s.reply p v).mon j = s.mon j := by simp [State.mon]
@[simp] theorem State.peer_reply (s : State) (p : Path) (v : Nat) (j : Nat) : (s.reply p v).peer j = s.peer j := by simp [State.peer]
@[simp] theorem State.rd_reply (s : State) (p : Path) (v : Nat) (r' : Reg) (j l : Nat) : (s.reply p v).rd r' j l = s.rd r' j l := by simp [State.rd]
@[simp] theorem State.core_count (s : State) (b k n : Nat) (j : Nat) : (s.count b k n).core j = s.core j := by simp [State.core]
@[simp] theorem State.arr_count (s : State) (b k n : Nat) (j : Nat) : (s.count b k n).arr j = s.arr j := by simp [State.arr]
@[simp] theorem State.req_count (s : State) (b k n : Nat) (j : Nat) : (s.count b k n).req j = s.req j := by simp [State.req]
@[simp] theorem State.pound_count (s : State) (b k n : Nat) (j : Nat) : (s.count b k n).pound j = s.pound j := by simp [State.pound]
@[simp] theorem State.queue_count (s : State) (b k n : Nat) (j : Nat) : (s.count b k n).queue j = s.queue j := by simp [State.queue]
@[simp] theorem State.ctx_count (s : State) (b k n : Nat) (j : Nat) : (s.count b k n).ctx j = s.ctx j := by simp [State.ctx]
@[simp] theorem State.model_count (s : State) (b k n : Nat) (j : Nat) : (s.count b k n).model j = s.model j := by simp [State.model]
@[simp] theorem State.adp_count (s : State) (b k n : Nat) (j : Nat) : (s.count b k n).adp j = s.adp j := by simp [State.adp]
@[simp] theorem State.mon_count (s : State) (b k n : Nat) (j : Nat) : (s.count b k n).mon j = s.mon j := by simp [State.mon]
@[simp] theorem State.peer_count (s : State) (b k n : Nat) (j : Nat) : (s.count b k n).peer j = s.peer j := by simp [State.peer]
@[simp] theorem State.rd_count (s : State) (b k n : Nat) (r' : Reg) (j l : Nat) : (s.count b k n).rd r' j l = s.rd r' j l := by simp [State.rd]
@[simp] theorem State.core_latch (s : State) (p : Path) (a v : Nat) (j : Nat) : (s.latch p a v).core j = s.core j := by simp [State.core]
@[simp] theorem State.arr_latch (s : State) (p : Path) (a v : Nat) (j : Nat) : (s.latch p a v).arr j = s.arr j := by simp [State.arr]
@[simp] theorem State.req_latch (s : State) (p : Path) (a v : Nat) (j : Nat) : (s.latch p a v).req j = s.req j := by simp [State.req]
@[simp] theorem State.pound_latch (s : State) (p : Path) (a v : Nat) (j : Nat) : (s.latch p a v).pound j = s.pound j := by simp [State.pound]
@[simp] theorem State.queue_latch (s : State) (p : Path) (a v : Nat) (j : Nat) : (s.latch p a v).queue j = s.queue j := by simp [State.queue]
@[simp] theorem State.ctx_latch (s : State) (p : Path) (a v : Nat) (j : Nat) : (s.latch p a v).ctx j = s.ctx j := by simp [State.ctx]
@[simp] theorem State.model_latch (s : State) (p : Path) (a v : Nat) (j : Nat) : (s.latch p a v).model j = s.model j := by simp [State.model]
@[simp] theorem State.adp_latch (s : State) (p : Path) (a v : Nat) (j : Nat) : (s.latch p a v).adp j = s.adp j := by simp [State.adp]
@[simp] theorem State.mon_latch (s : State) (p : Path) (a v : Nat) (j : Nat) : (s.latch p a v).mon j = s.mon j := by simp [State.mon]
@[simp] theorem State.peer_latch (s : State) (p : Path) (a v : Nat) (j : Nat) : (s.latch p a v).peer j = s.peer j := by simp [State.peer]
@[simp] theorem State.rd_latch (s : State) (p : Path) (a v : Nat) (r' : Reg) (j l : Nat) : (s.latch p a v).rd r' j l = s.rd r' j l := by simp [State.rd]
@[simp] theorem State.core_putMem (s : State) (a : Nat) (bs : List Byte) (j : Nat) : (s.putMem a bs).core j = s.core j := by simp [State.core]
@[simp] theorem State.arr_putMem (s : State) (a : Nat) (bs : List Byte) (j : Nat) : (s.putMem a bs).arr j = s.arr j := by simp [State.arr]
@[simp] theorem State.req_putMem (s : State) (a : Nat) (bs : List Byte) (j : Nat) : (s.putMem a bs).req j = s.req j := by simp [State.req]
@[simp] theorem State.pound_putMem (s : State) (a : Nat) (bs : List Byte) (j : Nat) : (s.putMem a bs).pound j = s.pound j := by simp [State.pound]
@[simp] theorem State.queue_putMem (s : State) (a : Nat) (bs : List Byte) (j : Nat) : (s.putMem a bs).queue j = s.queue j := by simp [State.queue]
@[simp] theorem State.ctx_putMem (s : State) (a : Nat) (bs : List Byte) (j : Nat) : (s.putMem a bs).ctx j = s.ctx j := by simp [State.ctx]
@[simp] theorem State.model_putMem (s : State) (a : Nat) (bs : List Byte) (j : Nat) : (s.putMem a bs).model j = s.model j := by simp [State.model]
@[simp] theorem State.adp_putMem (s : State) (a : Nat) (bs : List Byte) (j : Nat) : (s.putMem a bs).adp j = s.adp j := by simp [State.adp]
@[simp] theorem State.mon_putMem (s : State) (a : Nat) (bs : List Byte) (j : Nat) : (s.putMem a bs).mon j = s.mon j := by simp [State.mon]
@[simp] theorem State.peer_putMem (s : State) (a : Nat) (bs : List Byte) (j : Nat) : (s.putMem a bs).peer j = s.peer j := by simp [State.peer]
@[simp] theorem State.rd_putMem (s : State) (a : Nat) (bs : List Byte) (r' : Reg) (j l : Nat) : (s.putMem a bs).rd r' j l = s.rd r' j l := by simp [State.rd]
@[simp] theorem State.core_modSent (s : State) (p pos : Nat) (f : Sentence → Sentence) (j : Nat) : (s.modSent p pos f).core j = s.core j := by simp [State.core]
@[simp] theorem State.arr_modSent (s : State) (p pos : Nat) (f : Sentence → Sentence) (j : Nat) : (s.modSent p pos f).arr j = s.arr j := by simp [State.arr]
@[simp] theorem State.req_modSent (s : State) (p pos : Nat) (f : Sentence → Sentence) (j : Nat) : (s.modSent p pos f).req j = s.req j := by simp [State.req]
@[simp] theorem State.queue_modSent (s : State) (p pos : Nat) (f : Sentence → Sentence) (j : Nat) : (s.modSent p pos f).queue j = s.queue j := by simp [State.queue]
@[simp] theorem State.ctx_modSent (s : State) (p pos : Nat) (f : Sentence → Sentence) (j : Nat) : (s.modSent p pos f).ctx j = s.ctx j := by simp [State.ctx]
@[simp] theorem State.model_modSent (s : State) (p pos : Nat) (f : Sentence → Sentence) (j : Nat) : (s.modSent p pos f).model j = s.model j := by simp [State.model]
@[simp] theorem State.adp_modSent (s : State) (p pos : Nat) (f : Sentence → Sentence) (j : Nat) : (s.modSent p pos f).adp j = s.adp j := by simp [State.adp]
@[simp] theorem State.mon_modSent (s : State) (p pos : Nat) (f : Sentence → Sentence) (j : Nat) : (s.modSent p pos f).mon j = s.mon j := by simp [State.mon]
@[simp] theorem State.peer_modSent (s : State) (p pos : Nat) (f : Sentence → Sentence) (j : Nat) : (s.modSent p pos f).peer j = s.peer j := by simp [State.peer]
@[simp] theorem State.rd_modSent (s : State) (p pos : Nat) (f : Sentence → Sentence) (r' : Reg) (j l : Nat) : (s.modSent p pos f).rd r' j l = s.rd r' j l := by simp [State.rd]
@[simp] theorem State.core_modRun (s : State) (r : EntryRef) (f : EntryRun → EntryRun) (j : Nat) : (s.modRun r f).core j = s.core j := by simp [State.core]
@[simp] theorem State.arr_modRun (s : State) (r : EntryRef) (f : EntryRun → EntryRun) (j : Nat) : (s.modRun r f).arr j = s.arr j := by simp [State.arr]
@[simp] theorem State.req_modRun (s : State) (r : EntryRef) (f : EntryRun → EntryRun) (j : Nat) : (s.modRun r f).req j = s.req j := by simp [State.req]
@[simp] theorem State.queue_modRun (s : State) (r : EntryRef) (f : EntryRun → EntryRun) (j : Nat) : (s.modRun r f).queue j = s.queue j := by simp [State.queue]
@[simp] theorem State.ctx_modRun (s : State) (r : EntryRef) (f : EntryRun → EntryRun) (j : Nat) : (s.modRun r f).ctx j = s.ctx j := by simp [State.ctx]
@[simp] theorem State.model_modRun (s : State) (r : EntryRef) (f : EntryRun → EntryRun) (j : Nat) : (s.modRun r f).model j = s.model j := by simp [State.model]
@[simp] theorem State.adp_modRun (s : State) (r : EntryRef) (f : EntryRun → EntryRun) (j : Nat) : (s.modRun r f).adp j = s.adp j := by simp [State.adp]
@[simp] theorem State.mon_modRun (s : State) (r : EntryRef) (f : EntryRun → EntryRun) (j : Nat) : (s.modRun r f).mon j = s.mon j := by simp [State.mon]
@[simp] theorem State.peer_modRun (s : State) (r : EntryRef) (f : EntryRun → EntryRun) (j : Nat) : (s.modRun r f).peer j = s.peer j := by simp [State.peer]
@[simp] theorem State.rd_modRun (s : State) (r : EntryRef) (f : EntryRun → EntryRun) (r' : Reg) (j l : Nat) : (s.modRun r f).rd r' j l = s.rd r' j l := by simp [State.rd]
@[simp] theorem State.core_modLock (s : State) (m p : Nat) (f : PoundLock → PoundLock) (j : Nat) : (s.modLock m p f).core j = s.core j := by simp [State.core]
@[simp] theorem State.arr_modLock (s : State) (m p : Nat) (f : PoundLock → PoundLock) (j : Nat) : (s.modLock m p f).arr j = s.arr j := by simp [State.arr]
@[simp] theorem State.req_modLock (s : State) (m p : Nat) (f : PoundLock → PoundLock) (j : Nat) : (s.modLock m p f).req j = s.req j := by simp [State.req]
@[simp] theorem State.pound_modLock (s : State) (m p : Nat) (f : PoundLock → PoundLock) (j : Nat) : (s.modLock m p f).pound j = s.pound j := by simp [State.pound]
@[simp] theorem State.queue_modLock (s : State) (m p : Nat) (f : PoundLock → PoundLock) (j : Nat) : (s.modLock m p f).queue j = s.queue j := by simp [State.queue]
@[simp] theorem State.ctx_modLock (s : State) (m p : Nat) (f : PoundLock → PoundLock) (j : Nat) : (s.modLock m p f).ctx j = s.ctx j := by simp [State.ctx]
@[simp] theorem State.adp_modLock (s : State) (m p : Nat) (f : PoundLock → PoundLock) (j : Nat) : (s.modLock m p f).adp j = s.adp j := by simp [State.adp]
@[simp] theorem State.mon_modLock (s : State) (m p : Nat) (f : PoundLock → PoundLock) (j : Nat) : (s.modLock m p f).mon j = s.mon j := by simp [State.mon]
@[simp] theorem State.peer_modLock (s : State) (m p : Nat) (f : PoundLock → PoundLock) (j : Nat) : (s.modLock m p f).peer j = s.peer j := by simp [State.peer]
@[simp] theorem State.rd_modLock (s : State) (m p : Nat) (f : PoundLock → PoundLock) (r' : Reg) (j l : Nat) : (s.modLock m p f).rd r' j l = s.rd r' j l := by simp [State.rd]
@[simp] theorem State.core_modChan (s : State) (i ch : Nat) (f : Chan → Chan) (j : Nat) : (s.modChan i ch f).core j = s.core j := by simp [State.core]
@[simp] theorem State.arr_modChan (s : State) (i ch : Nat) (f : Chan → Chan) (j : Nat) : (s.modChan i ch f).arr j = s.arr j := by simp [State.arr]
@[simp] theorem State.req_modChan (s : State) (i ch : Nat) (f : Chan → Chan) (j : Nat) : (s.modChan i ch f).req j = s.req j := by simp [State.req]
@[simp] theorem State.pound_modChan (s : State) (i ch : Nat) (f : Chan → Chan) (j : Nat) : (s.modChan i ch f).pound j = s.pound j := by simp [State.pound]
@[simp] theorem State.queue_modChan (s : State) (i ch : Nat) (f : Chan → Chan) (j : Nat) : (s.modChan i ch f).queue j = s.queue j := by simp [State.queue]
@[simp] theorem State.ctx_modChan (s : State) (i ch : Nat) (f : Chan → Chan) (j : Nat) : (s.modChan i ch f).ctx j = s.ctx j := by simp [State.ctx]
@[simp] theorem State.model_modChan (s : State) (i ch : Nat) (f : Chan → Chan) (j : Nat) : (s.modChan i ch f).model j = s.model j := by simp [State.model]
@[simp] theorem State.adp_modChan (s : State) (i ch : Nat) (f : Chan → Chan) (j : Nat) : (s.modChan i ch f).adp j = s.adp j := by simp [State.adp]
@[simp] theorem State.mon_modChan (s : State) (i ch : Nat) (f : Chan → Chan) (j : Nat) : (s.modChan i ch f).mon j = s.mon j := by simp [State.mon]
@[simp] theorem State.rd_modChan (s : State) (i ch : Nat) (f : Chan → Chan) (r' : Reg) (j l : Nat) : (s.modChan i ch f).rd r' j l = s.rd r' j l := by simp [State.rd]
@[simp] theorem State.arr_setCal (s : State) (c set : Nat) (v : CalSet) (j : Nat) : (s.setCal c set v).arr j = s.arr j := by simp [State.arr]
@[simp] theorem State.req_setCal (s : State) (c set : Nat) (v : CalSet) (j : Nat) : (s.setCal c set v).req j = s.req j := by simp [State.req]
@[simp] theorem State.pound_setCal (s : State) (c set : Nat) (v : CalSet) (j : Nat) : (s.setCal c set v).pound j = s.pound j := by simp [State.pound]
@[simp] theorem State.queue_setCal (s : State) (c set : Nat) (v : CalSet) (j : Nat) : (s.setCal c set v).queue j = s.queue j := by simp [State.queue]
@[simp] theorem State.ctx_setCal (s : State) (c set : Nat) (v : CalSet) (j : Nat) : (s.setCal c set v).ctx j = s.ctx j := by simp [State.ctx]
@[simp] theorem State.model_setCal (s : State) (c set : Nat) (v : CalSet) (j : Nat) : (s.setCal c set v).model j = s.model j := by simp [State.model]
@[simp] theorem State.adp_setCal (s : State) (c set : Nat) (v : CalSet) (j : Nat) : (s.setCal c set v).adp j = s.adp j := by simp [State.adp]
@[simp] theorem State.mon_setCal (s : State) (c set : Nat) (v : CalSet) (j : Nat) : (s.setCal c set v).mon j = s.mon j := by simp [State.mon]
@[simp] theorem State.peer_setCal (s : State) (c set : Nat) (v : CalSet) (j : Nat) : (s.setCal c set v).peer j = s.peer j := by simp [State.peer]
@[simp] theorem State.rd_setCal (s : State) (c set : Nat) (v : CalSet) (r' : Reg) (j l : Nat) : (s.setCal c set v).rd r' j l = s.rd r' j l := by simp [State.rd]
@[simp] theorem State.core_talCode (s : State) (code : Nat) (j : Nat) : (s.talCode code).core j = s.core j := by simp [State.core]
@[simp] theorem State.arr_talCode (s : State) (code : Nat) (j : Nat) : (s.talCode code).arr j = s.arr j := by simp [State.arr]
@[simp] theorem State.req_talCode (s : State) (code : Nat) (j : Nat) : (s.talCode code).req j = s.req j := by simp [State.req]
@[simp] theorem State.pound_talCode (s : State) (code : Nat) (j : Nat) : (s.talCode code).pound j = s.pound j := by simp [State.pound]
@[simp] theorem State.queue_talCode (s : State) (code : Nat) (j : Nat) : (s.talCode code).queue j = s.queue j := by simp [State.queue]
@[simp] theorem State.ctx_talCode (s : State) (code : Nat) (j : Nat) : (s.talCode code).ctx j = s.ctx j := by simp [State.ctx]
@[simp] theorem State.model_talCode (s : State) (code : Nat) (j : Nat) : (s.talCode code).model j = s.model j := by simp [State.model]
@[simp] theorem State.adp_talCode (s : State) (code : Nat) (j : Nat) : (s.talCode code).adp j = s.adp j := by simp [State.adp]
@[simp] theorem State.mon_talCode (s : State) (code : Nat) (j : Nat) : (s.talCode code).mon j = s.mon j := by simp [State.mon]
@[simp] theorem State.peer_talCode (s : State) (code : Nat) (j : Nat) : (s.talCode code).peer j = s.peer j := by simp [State.peer]
@[simp] theorem State.rd_talCode (s : State) (code : Nat) (r' : Reg) (j l : Nat) : (s.talCode code).rd r' j l = s.rd r' j l := by simp [State.rd]
@[simp] theorem State.core_putHost (s : State) (a : Nat) (bs : List Byte) (j : Nat) : (s.putHost a bs).core j = s.core j := by simp [State.core]
@[simp] theorem State.arr_putHost (s : State) (a : Nat) (bs : List Byte) (j : Nat) : (s.putHost a bs).arr j = s.arr j := by simp [State.arr]
@[simp] theorem State.req_putHost (s : State) (a : Nat) (bs : List Byte) (j : Nat) : (s.putHost a bs).req j = s.req j := by simp [State.req]
@[simp] theorem State.pound_putHost (s : State) (a : Nat) (bs : List Byte) (j : Nat) : (s.putHost a bs).pound j = s.pound j := by simp [State.pound]
@[simp] theorem State.queue_putHost (s : State) (a : Nat) (bs : List Byte) (j : Nat) : (s.putHost a bs).queue j = s.queue j := by simp [State.queue]
@[simp] theorem State.ctx_putHost (s : State) (a : Nat) (bs : List Byte) (j : Nat) : (s.putHost a bs).ctx j = s.ctx j := by simp [State.ctx]
@[simp] theorem State.model_putHost (s : State) (a : Nat) (bs : List Byte) (j : Nat) : (s.putHost a bs).model j = s.model j := by simp [State.model]
@[simp] theorem State.adp_putHost (s : State) (a : Nat) (bs : List Byte) (j : Nat) : (s.putHost a bs).adp j = s.adp j := by simp [State.adp]
@[simp] theorem State.mon_putHost (s : State) (a : Nat) (bs : List Byte) (j : Nat) : (s.putHost a bs).mon j = s.mon j := by simp [State.mon]
@[simp] theorem State.peer_putHost (s : State) (a : Nat) (bs : List Byte) (j : Nat) : (s.putHost a bs).peer j = s.peer j := by simp [State.peer]
@[simp] theorem State.rd_putHost (s : State) (a : Nat) (bs : List Byte) (r' : Reg) (j l : Nat) : (s.putHost a bs).rd r' j l = s.rd r' j l := by simp [State.rd]
@[simp] theorem State.core_storePage (s : State) (p : Nat) (j : Nat) : (s.storePage p).core j = s.core j := by simp [State.core]
@[simp] theorem State.arr_storePage (s : State) (p : Nat) (j : Nat) : (s.storePage p).arr j = s.arr j := by simp [State.arr]
@[simp] theorem State.req_storePage (s : State) (p : Nat) (j : Nat) : (s.storePage p).req j = s.req j := by simp [State.req]
@[simp] theorem State.pound_storePage (s : State) (p : Nat) (j : Nat) : (s.storePage p).pound j = s.pound j := by simp [State.pound]
@[simp] theorem State.queue_storePage (s : State) (p : Nat) (j : Nat) : (s.storePage p).queue j = s.queue j := by simp [State.queue]
@[simp] theorem State.ctx_storePage (s : State) (p : Nat) (j : Nat) : (s.storePage p).ctx j = s.ctx j := by simp [State.ctx]
@[simp] theorem State.model_storePage (s : State) (p : Nat) (j : Nat) : (s.storePage p).model j = s.model j := by simp [State.model]
@[simp] theorem State.adp_storePage (s : State) (p : Nat) (j : Nat) : (s.storePage p).adp j = s.adp j := by simp [State.adp]
@[simp] theorem State.mon_storePage (s : State) (p : Nat) (j : Nat) : (s.storePage p).mon j = s.mon j := by simp [State.mon]
@[simp] theorem State.peer_storePage (s : State) (p : Nat) (j : Nat) : (s.storePage p).peer j = s.peer j := by simp [State.peer]
@[simp] theorem State.core_storeArr (s : State) (p : Nat) (r : Bool) (j : Nat) : (s.storeArr p r).core j = s.core j := by simp [State.core]
@[simp] theorem State.arr_storeArr (s : State) (p : Nat) (r : Bool) (j : Nat) : (s.storeArr p r).arr j = s.arr j := by simp [State.arr]
@[simp] theorem State.req_storeArr (s : State) (p : Nat) (r : Bool) (j : Nat) : (s.storeArr p r).req j = s.req j := by simp [State.req]
@[simp] theorem State.pound_storeArr (s : State) (p : Nat) (r : Bool) (j : Nat) : (s.storeArr p r).pound j = s.pound j := by simp [State.pound]
@[simp] theorem State.queue_storeArr (s : State) (p : Nat) (r : Bool) (j : Nat) : (s.storeArr p r).queue j = s.queue j := by simp [State.queue]
@[simp] theorem State.ctx_storeArr (s : State) (p : Nat) (r : Bool) (j : Nat) : (s.storeArr p r).ctx j = s.ctx j := by simp [State.ctx]
@[simp] theorem State.model_storeArr (s : State) (p : Nat) (r : Bool) (j : Nat) : (s.storeArr p r).model j = s.model j := by simp [State.model]
@[simp] theorem State.adp_storeArr (s : State) (p : Nat) (r : Bool) (j : Nat) : (s.storeArr p r).adp j = s.adp j := by simp [State.adp]
@[simp] theorem State.mon_storeArr (s : State) (p : Nat) (r : Bool) (j : Nat) : (s.storeArr p r).mon j = s.mon j := by simp [State.mon]
@[simp] theorem State.peer_storeArr (s : State) (p : Nat) (r : Bool) (j : Nat) : (s.storeArr p r).peer j = s.peer j := by simp [State.peer]
@[simp] theorem State.core_storeNow (s : State) (p : Nat) (j : Nat) : (s.storeNow p).core j = s.core j := by simp [State.core]
@[simp] theorem State.arr_storeNow (s : State) (p : Nat) (j : Nat) : (s.storeNow p).arr j = s.arr j := by simp [State.arr]
@[simp] theorem State.req_storeNow (s : State) (p : Nat) (j : Nat) : (s.storeNow p).req j = s.req j := by simp [State.req]
@[simp] theorem State.pound_storeNow (s : State) (p : Nat) (j : Nat) : (s.storeNow p).pound j = s.pound j := by simp [State.pound]
@[simp] theorem State.queue_storeNow (s : State) (p : Nat) (j : Nat) : (s.storeNow p).queue j = s.queue j := by simp [State.queue]
@[simp] theorem State.ctx_storeNow (s : State) (p : Nat) (j : Nat) : (s.storeNow p).ctx j = s.ctx j := by simp [State.ctx]
@[simp] theorem State.model_storeNow (s : State) (p : Nat) (j : Nat) : (s.storeNow p).model j = s.model j := by simp [State.model]
@[simp] theorem State.adp_storeNow (s : State) (p : Nat) (j : Nat) : (s.storeNow p).adp j = s.adp j := by simp [State.adp]
@[simp] theorem State.mon_storeNow (s : State) (p : Nat) (j : Nat) : (s.storeNow p).mon j = s.mon j := by simp [State.mon]
@[simp] theorem State.peer_storeNow (s : State) (p : Nat) (j : Nat) : (s.storeNow p).peer j = s.peer j := by simp [State.peer]
@[simp] theorem State.core_lockStore (s : State)  (j : Nat) : (s.lockStore ).core j = s.core j := by simp [State.core]
@[simp] theorem State.arr_lockStore (s : State)  (j : Nat) : (s.lockStore ).arr j = s.arr j := by simp [State.arr]
@[simp] theorem State.req_lockStore (s : State)  (j : Nat) : (s.lockStore ).req j = s.req j := by simp [State.req]
@[simp] theorem State.pound_lockStore (s : State)  (j : Nat) : (s.lockStore ).pound j = s.pound j := by simp [State.pound]
@[simp] theorem State.queue_lockStore (s : State)  (j : Nat) : (s.lockStore ).queue j = s.queue j := by simp [State.queue]
@[simp] theorem State.ctx_lockStore (s : State)  (j : Nat) : (s.lockStore ).ctx j = s.ctx j := by simp [State.ctx]
@[simp] theorem State.model_lockStore (s : State)  (j : Nat) : (s.lockStore ).model j = s.model j := by simp [State.model]
@[simp] theorem State.adp_lockStore (s : State)  (j : Nat) : (s.lockStore ).adp j = s.adp j := by simp [State.adp]
@[simp] theorem State.mon_lockStore (s : State)  (j : Nat) : (s.lockStore ).mon j = s.mon j := by simp [State.mon]
@[simp] theorem State.peer_lockStore (s : State)  (j : Nat) : (s.lockStore ).peer j = s.peer j := by simp [State.peer]
@[simp] theorem State.core_touch (s : State) (p : Nat) (j : Nat) : (s.touch p).core j = s.core j := by simp [State.core]
@[simp] theorem State.arr_touch (s : State) (p : Nat) (j : Nat) : (s.touch p).arr j = s.arr j := by simp [State.arr]
@[simp] theorem State.req_touch (s : State) (p : Nat) (j : Nat) : (s.touch p).req j = s.req j := by simp [State.req]
@[simp] theorem State.pound_touch (s : State) (p : Nat) (j : Nat) : (s.touch p).pound j = s.pound j := by simp [State.pound]
@[simp] theorem State.queue_touch (s : State) (p : Nat) (j : Nat) : (s.touch p).queue j = s.queue j := by simp [State.queue]
@[simp] theorem State.ctx_touch (s : State) (p : Nat) (j : Nat) : (s.touch p).ctx j = s.ctx j := by simp [State.ctx]
@[simp] theorem State.model_touch (s : State) (p : Nat) (j : Nat) : (s.touch p).model j = s.model j := by simp [State.model]
@[simp] theorem State.adp_touch (s : State) (p : Nat) (j : Nat) : (s.touch p).adp j = s.adp j := by simp [State.adp]
@[simp] theorem State.mon_touch (s : State) (p : Nat) (j : Nat) : (s.touch p).mon j = s.mon j := by simp [State.mon]
@[simp] theorem State.peer_touch (s : State) (p : Nat) (j : Nat) : (s.touch p).peer j = s.peer j := by simp [State.peer]
@[simp] theorem State.rd_touch (s : State) (p : Nat) (r' : Reg) (j l : Nat) : (s.touch p).rd r' j l = s.rd r' j l := by simp [State.rd]
@[simp] theorem State.core_imgRaise (s : State) (b : Nat) (e : Event) (j : Nat) : (s.imgRaise b e).core j = s.core j := by simp [State.core]
@[simp] theorem State.arr_imgRaise (s : State) (b : Nat) (e : Event) (j : Nat) : (s.imgRaise b e).arr j = s.arr j := by simp [State.arr]
@[simp] theorem State.req_imgRaise (s : State) (b : Nat) (e : Event) (j : Nat) : (s.imgRaise b e).req j = s.req j := by simp [State.req]
@[simp] theorem State.pound_imgRaise (s : State) (b : Nat) (e : Event) (j : Nat) : (s.imgRaise b e).pound j = s.pound j := by simp [State.pound]
@[simp] theorem State.queue_imgRaise (s : State) (b : Nat) (e : Event) (j : Nat) : (s.imgRaise b e).queue j = s.queue j := by simp [State.queue]
@[simp] theorem State.ctx_imgRaise (s : State) (b : Nat) (e : Event) (j : Nat) : (s.imgRaise b e).ctx j = s.ctx j := by simp [State.ctx]
@[simp] theorem State.model_imgRaise (s : State) (b : Nat) (e : Event) (j : Nat) : (s.imgRaise b e).model j = s.model j := by simp [State.model]
@[simp] theorem State.adp_imgRaise (s : State) (b : Nat) (e : Event) (j : Nat) : (s.imgRaise b e).adp j = s.adp j := by simp [State.adp]
@[simp] theorem State.mon_imgRaise (s : State) (b : Nat) (e : Event) (j : Nat) : (s.imgRaise b e).mon j = s.mon j := by simp [State.mon]
@[simp] theorem State.peer_imgRaise (s : State) (b : Nat) (e : Event) (j : Nat) : (s.imgRaise b e).peer j = s.peer j := by simp [State.peer]
@[simp] theorem State.core_record (s : State) (e : Event) (j : Nat) : (s.record e).core j = s.core j := by simp [State.core]
@[simp] theorem State.arr_record (s : State) (e : Event) (j : Nat) : (s.record e).arr j = s.arr j := by simp [State.arr]
@[simp] theorem State.req_record (s : State) (e : Event) (j : Nat) : (s.record e).req j = s.req j := by simp [State.req]
@[simp] theorem State.pound_record (s : State) (e : Event) (j : Nat) : (s.record e).pound j = s.pound j := by simp [State.pound]
@[simp] theorem State.queue_record (s : State) (e : Event) (j : Nat) : (s.record e).queue j = s.queue j := by simp [State.queue]
@[simp] theorem State.ctx_record (s : State) (e : Event) (j : Nat) : (s.record e).ctx j = s.ctx j := by simp [State.ctx]
@[simp] theorem State.model_record (s : State) (e : Event) (j : Nat) : (s.record e).model j = s.model j := by simp [State.model]
@[simp] theorem State.adp_record (s : State) (e : Event) (j : Nat) : (s.record e).adp j = s.adp j := by simp [State.adp]
@[simp] theorem State.mon_record (s : State) (e : Event) (j : Nat) : (s.record e).mon j = s.mon j := by simp [State.mon]
@[simp] theorem State.peer_record (s : State) (e : Event) (j : Nat) : (s.record e).peer j = s.peer j := by simp [State.peer]
@[simp] theorem State.core_raise (s : State) (e : Event) (j : Nat) : (s.raise e).core j = s.core j := by simp [State.core]
@[simp] theorem State.arr_raise (s : State) (e : Event) (j : Nat) : (s.raise e).arr j = s.arr j := by simp [State.arr]
@[simp] theorem State.req_raise (s : State) (e : Event) (j : Nat) : (s.raise e).req j = s.req j := by simp [State.req]
@[simp] theorem State.pound_raise (s : State) (e : Event) (j : Nat) : (s.raise e).pound j = s.pound j := by simp [State.pound]
@[simp] theorem State.queue_raise (s : State) (e : Event) (j : Nat) : (s.raise e).queue j = s.queue j := by simp [State.queue]
@[simp] theorem State.ctx_raise (s : State) (e : Event) (j : Nat) : (s.raise e).ctx j = s.ctx j := by simp [State.ctx]
@[simp] theorem State.model_raise (s : State) (e : Event) (j : Nat) : (s.raise e).model j = s.model j := by simp [State.model]
@[simp] theorem State.adp_raise (s : State) (e : Event) (j : Nat) : (s.raise e).adp j = s.adp j := by simp [State.adp]
@[simp] theorem State.mon_raise (s : State) (e : Event) (j : Nat) : (s.raise e).mon j = s.mon j := by simp [State.mon]
@[simp] theorem State.peer_raise (s : State) (e : Event) (j : Nat) : (s.raise e).peer j = s.peer j := by simp [State.peer]
@[simp] theorem State.core_ignored (s : State) (p : Path) (a c : Nat) (j : Nat) : (s.ignored p a c).core j = s.core j := by simp [State.core]
@[simp] theorem State.arr_ignored (s : State) (p : Path) (a c : Nat) (j : Nat) : (s.ignored p a c).arr j = s.arr j := by simp [State.arr]
@[simp] theorem State.req_ignored (s : State) (p : Path) (a c : Nat) (j : Nat) : (s.ignored p a c).req j = s.req j := by simp [State.req]
@[simp] theorem State.pound_ignored (s : State) (p : Path) (a c : Nat) (j : Nat) : (s.ignored p a c).pound j = s.pound j := by simp [State.pound]
@[simp] theorem State.queue_ignored (s : State) (p : Path) (a c : Nat) (j : Nat) : (s.ignored p a c).queue j = s.queue j := by simp [State.queue]
@[simp] theorem State.ctx_ignored (s : State) (p : Path) (a c : Nat) (j : Nat) : (s.ignored p a c).ctx j = s.ctx j := by simp [State.ctx]
@[simp] theorem State.model_ignored (s : State) (p : Path) (a c : Nat) (j : Nat) : (s.ignored p a c).model j = s.model j := by simp [State.model]
@[simp] theorem State.adp_ignored (s : State) (p : Path) (a c : Nat) (j : Nat) : (s.ignored p a c).adp j = s.adp j := by simp [State.adp]
@[simp] theorem State.mon_ignored (s : State) (p : Path) (a c : Nat) (j : Nat) : (s.ignored p a c).mon j = s.mon j := by simp [State.mon]
@[simp] theorem State.peer_ignored (s : State) (p : Path) (a c : Nat) (j : Nat) : (s.ignored p a c).peer j = s.peer j := by simp [State.peer]

/-! ### Accessors after their own update -/

theorem State.core_setCore {lf lg : Nat} {cq : List Instr} {s : State} (h : s.Safe lf lg cq) (i : Nat) (x : Core) : (s.setCore i x).core i = x :=
  NMap.get_set_self _ _ _ (NMap.sorted_of_wf h.canon.cores)
theorem State.core_setCore_ne {lf lg : Nat} {cq : List Instr} {s : State} (h : s.Safe lf lg cq) {i j : Nat} (x : Core) (hij : j ≠ i) :
    (s.setCore i x).core j = s.core j :=
  NMap.get_set_ne _ _ _ hij (NMap.sorted_of_wf h.canon.cores)
theorem State.core_modCore {lf lg : Nat} {cq : List Instr} {s : State} (h : s.Safe lf lg cq) (i : Nat) (f : Core → Core) : (s.modCore i f).core i = f (s.core i) :=
  State.core_setCore h i _
theorem State.core_modCore_ne {lf lg : Nat} {cq : List Instr} {s : State} (h : s.Safe lf lg cq) {i j : Nat} (f : Core → Core) (hij : j ≠ i) :
    (s.modCore i f).core j = s.core j :=
  State.core_setCore_ne h _ hij
theorem State.arr_setArr {lf lg : Nat} {cq : List Instr} {s : State} (h : s.Safe lf lg cq) (i : Nat) (x : Arr) : (s.setArr i x).arr i = x :=
  NMap.get_set_self _ _ _ (NMap.sorted_of_wf h.canon.arrays)
theorem State.arr_setArr_ne {lf lg : Nat} {cq : List Instr} {s : State} (h : s.Safe lf lg cq) {i j : Nat} (x : Arr) (hij : j ≠ i) :
    (s.setArr i x).arr j = s.arr j :=
  NMap.get_set_ne _ _ _ hij (NMap.sorted_of_wf h.canon.arrays)
theorem State.arr_modArr {lf lg : Nat} {cq : List Instr} {s : State} (h : s.Safe lf lg cq) (i : Nat) (f : Arr → Arr) : (s.modArr i f).arr i = f (s.arr i) :=
  State.arr_setArr h i _
theorem State.arr_modArr_ne {lf lg : Nat} {cq : List Instr} {s : State} (h : s.Safe lf lg cq) {i j : Nat} (f : Arr → Arr) (hij : j ≠ i) :
    (s.modArr i f).arr j = s.arr j :=
  State.arr_setArr_ne h _ hij
theorem State.req_setReq {lf lg : Nat} {cq : List Instr} {s : State} (h : s.Safe lf lg cq) (i : Nat) (x : Request) : (s.setReq i x).req i = x :=
  NMap.get_set_self _ _ _ (NMap.sorted_of_wf h.canon.reqs)
theorem State.req_setReq_ne {lf lg : Nat} {cq : List Instr} {s : State} (h : s.Safe lf lg cq) {i j : Nat} (x : Request) (hij : j ≠ i) :
    (s.setReq i x).req j = s.req j :=
  NMap.get_set_ne _ _ _ hij (NMap.sorted_of_wf h.canon.reqs)
theorem State.req_modReq {lf lg : Nat} {cq : List Instr} {s : State} (h : s.Safe lf lg cq) (i : Nat) (f : Request → Request) : (s.modReq i f).req i = f (s.req i) :=
  State.req_setReq h i _
theorem State.req_modReq_ne {lf lg : Nat} {cq : List Instr} {s : State} (h : s.Safe lf lg cq) {i j : Nat} (f : Request → Request) (hij : j ≠ i) :
    (s.modReq i f).req j = s.req j :=
  State.req_setReq_ne h _ hij
theorem State.pound_setPound {lf lg : Nat} {cq : List Instr} {s : State} (h : s.Safe lf lg cq) (i : Nat) (x : Pound) : (s.setPound i x).pound i = x :=
  NMap.get_set_self _ _ _ (NMap.sorted_of_wf h.canon.pounds)
theorem State.pound_setPound_ne {lf lg : Nat} {cq : List Instr} {s : State} (h : s.Safe lf lg cq) {i j : Nat} (x : Pound) (hij : j ≠ i) :
    (s.setPound i x).pound j = s.pound j :=
  NMap.get_set_ne _ _ _ hij (NMap.sorted_of_wf h.canon.pounds)
theorem State.pound_modPound {lf lg : Nat} {cq : List Instr} {s : State} (h : s.Safe lf lg cq) (i : Nat) (f : Pound → Pound) : (s.modPound i f).pound i = f (s.pound i) :=
  State.pound_setPound h i _
theorem State.pound_modPound_ne {lf lg : Nat} {cq : List Instr} {s : State} (h : s.Safe lf lg cq) {i j : Nat} (f : Pound → Pound) (hij : j ≠ i) :
    (s.modPound i f).pound j = s.pound j :=
  State.pound_setPound_ne h _ hij
theorem State.queue_setQueue {lf lg : Nat} {cq : List Instr} {s : State} (h : s.Safe lf lg cq) (i : Nat) (x : Queue) : (s.setQueue i x).queue i = x :=
  NMap.get_set_self _ _ _ (NMap.sorted_of_wf h.canon.queues)
theorem State.queue_setQueue_ne {lf lg : Nat} {cq : List Instr} {s : State} (h : s.Safe lf lg cq) {i j : Nat} (x : Queue) (hij : j ≠ i) :
    (s.setQueue i x).queue j = s.queue j :=
  NMap.get_set_ne _ _ _ hij (NMap.sorted_of_wf h.canon.queues)
theorem State.queue_modQueue {lf lg : Nat} {cq : List Instr} {s : State} (h : s.Safe lf lg cq) (i : Nat) (f : Queue → Queue) : (s.modQueue i f).queue i = f (s.queue i) :=
  State.queue_setQueue h i _
theorem State.queue_modQueue_ne {lf lg : Nat} {cq : List Instr} {s : State} (h : s.Safe lf lg cq) {i j : Nat} (f : Queue → Queue) (hij : j ≠ i) :
    (s.modQueue i f).queue j = s.queue j :=
  State.queue_setQueue_ne h _ hij
theorem State.model_setModel {lf lg : Nat} {cq : List Instr} {s : State} (h : s.Safe lf lg cq) (i : Nat) (x : Model) : (s.setModel i x).model i = x :=
  NMap.get_set_self _ _ _ (NMap.sorted_of_wf h.canon.models)
theorem State.model_setModel_ne {lf lg : Nat} {cq : List Instr} {s : State} (h : s.Safe lf lg cq) {i j : Nat} (x : Model) (hij : j ≠ i) :
    (s.setModel i x).model j = s.model j :=
  NMap.get_set_ne _ _ _ hij (NMap.sorted_of_wf h.canon.models)
theorem State.model_modModel {lf lg : Nat} {cq : List Instr} {s : State} (h : s.Safe lf lg cq) (i : Nat) (f : Model → Model) : (s.modModel i f).model i = f (s.model i) :=
  State.model_setModel h i _
theorem State.model_modModel_ne {lf lg : Nat} {cq : List Instr} {s : State} (h : s.Safe lf lg cq) {i j : Nat} (f : Model → Model) (hij : j ≠ i) :
    (s.modModel i f).model j = s.model j :=
  State.model_setModel_ne h _ hij
theorem State.adp_setAdp {lf lg : Nat} {cq : List Instr} {s : State} (h : s.Safe lf lg cq) (i : Nat) (x : AdpSlot) : (s.setAdp i x).adp i = x :=
  NMap.get_set_self _ _ _ (NMap.sorted_of_wf h.canon.adps)
theorem State.adp_setAdp_ne {lf lg : Nat} {cq : List Instr} {s : State} (h : s.Safe lf lg cq) {i j : Nat} (x : AdpSlot) (hij : j ≠ i) :
    (s.setAdp i x).adp j = s.adp j :=
  NMap.get_set_ne _ _ _ hij (NMap.sorted_of_wf h.canon.adps)
theorem State.mon_setMon {lf lg : Nat} {cq : List Instr} {s : State} (h : s.Safe lf lg cq) (i : Nat) (x : Mon) : (s.setMon i x).mon i = x :=
  NMap.get_set_self _ _ _ (NMap.sorted_of_wf h.canon.mons)
theorem State.mon_setMon_ne {lf lg : Nat} {cq : List Instr} {s : State} (h : s.Safe lf lg cq) {i j : Nat} (x : Mon) (hij : j ≠ i) :
    (s.setMon i x).mon j = s.mon j :=
  NMap.get_set_ne _ _ _ hij (NMap.sorted_of_wf h.canon.mons)
theorem State.peer_setPeer {lf lg : Nat} {cq : List Instr} {s : State} (h : s.Safe lf lg cq) (i : Nat) (x : Peer) : (s.setPeer i x).peer i = x :=
  NMap.get_set_self _ _ _ (NMap.sorted_of_wf h.canon.peers)
theorem State.peer_setPeer_ne {lf lg : Nat} {cq : List Instr} {s : State} (h : s.Safe lf lg cq) {i j : Nat} (x : Peer) (hij : j ≠ i) :
    (s.setPeer i x).peer j = s.peer j :=
  NMap.get_set_ne _ _ _ hij (NMap.sorted_of_wf h.canon.peers)
theorem State.peer_modPeer {lf lg : Nat} {cq : List Instr} {s : State} (h : s.Safe lf lg cq) (i : Nat) (f : Peer → Peer) : (s.modPeer i f).peer i = f (s.peer i) :=
  State.peer_setPeer h i _
theorem State.peer_modPeer_ne {lf lg : Nat} {cq : List Instr} {s : State} (h : s.Safe lf lg cq) {i j : Nat} (f : Peer → Peer) (hij : j ≠ i) :
    (s.modPeer i f).peer j = s.peer j :=
  State.peer_setPeer_ne h _ hij

/-- A register reads as the low 32 bits of what was written. -/
theorem State.rd_wr {lf lg : Nat} {cq : List Instr} {s : State} (h : s.Safe lf lg cq) (r : Reg) (i k v : Nat) :
    (s.wr r i k v).rd r i k = v % 2 ^ 32 := by
  unfold State.rd State.wr
  rw [NMap.get_set_self _ _ _ h.regs, BitVec.toNat_ofNat]

/-- A write of one register leaves every register at another address alone. -/
theorem State.rd_wr_ne {lf lg : Nat} {cq : List Instr} {s : State} (h : s.Safe lf lg cq) {r r' : Reg} {i k j l : Nat} (v : Nat)
    (ha : r'.addr j l ≠ r.addr i k) : (s.wr r i k v).rd r' j l = s.rd r' j l := by
  unfold State.rd State.wr
  rw [NMap.get_set_ne _ _ _ ha h.regs]

/-- Numbering an event writes no register but CHK_EVT_LOST. -/
theorem State.record_regs (s : State) (e : Event) : (s.record e).regs = s.regs ∨
    ∃ v, (s.record e).regs = s.regs.set (BitVec.ofNat 32 (Reg.chkEvtLost.reset 0 0)) (Reg.chkEvtLost.addr 0 0) v := by
  unfold State.record
  dsimp only
  split
  · exact .inl rfl
  · exact .inr ⟨_, rfl⟩

/-- See `State.record_regs`. -/
theorem State.rd_record_ne {lf lg : Nat} {cq : List Instr} {s : State} (h : s.Safe lf lg cq) (e : Event) {r : Reg} {i k : Nat}
    (ha : r.addr i k ≠ Reg.chkEvtLost.addr 0 0) : (s.record e).rd r i k = s.rd r i k := by
  unfold State.rd
  rcases s.record_regs e with e1 | ⟨v, e1⟩
  · rw [e1]
  · rw [e1, NMap.get_set_ne _ _ _ ha h.regs]

/-- Raising an event writes no register but CHK_EVT_LOST. -/
theorem State.rd_raise_ne {lf lg : Nat} {cq : List Instr} {s : State} (h : s.Safe lf lg cq) (e : Event) {r : Reg} {i k : Nat}
    (ha : r.addr i k ≠ Reg.chkEvtLost.addr 0 0) : (s.raise e).rd r i k = s.rd r i k := by
  have h1 := State.record_safe s e h
  unfold State.raise
  dsimp only
  split
  · have h2 : ({ s.record e with ev := { (s.record e).ev with lostSince := 0 } } : State).Safe lf lg cq :=
      State.Safe.lit h1 rfl rfl rfl rfl
    rw [State.rd_record_ne h2 _ ha]
    exact State.rd_record_ne h e ha
  · exact State.rd_record_ne h e ha

end Sys2Proof.Machine
end

