-- ==== Sys2Proof/Tests/Slice0.lean ====
section
/-! SUPPORT. The model's own tests: ill-formed commands that WellFormed refuses, worked examples of the spec, and for each
obligation with hypotheses a state and operands that meet them. -/
open Sys2Proof Sys2Proof.Machine
namespace Sys2Proof.Tests

set_option Elab.async false

/-- The checks of `State.Inv` as one Boolean. -/
def invB (s : State) : Bool :=
  NMap.wf (fun _ => 0) s.mem && NMap.wf (fun _ => 0) s.host && NMap.sorted s.regs && decide (s.ev.ring.length ≤ ringSize) &&
  NMap.wf (fun _ => {}) s.arrays && NMap.wf (fun _ => {}) s.cores && NMap.wf (fun _ => {}) s.reqs &&
  NMap.wf (fun _ => {}) s.pounds && NMap.wf (fun _ => {}) s.queues && NMap.wf (fun _ => {}) s.ctxs &&
  NMap.wf (fun _ => {}) s.models && NMap.wf (fun _ => {}) s.adps && NMap.wf (fun _ => {}) s.mons &&
  NMap.wf (fun _ => {}) s.net.peers && NMap.wf (fun _ => 0) s.ctrs && NMap.wf (fun _ => 0) s.latches && NMap.sorted s.shadows

/-- A state that passes the checks meets the invariant. -/
theorem inv_of {s : State} (h : invB s = true) : s.Inv := by
  simp only [invB, Bool.and_eq_true, decide_eq_true_eq] at h
  obtain ⟨⟨⟨⟨⟨⟨⟨⟨⟨⟨⟨⟨⟨⟨⟨⟨h1, h2⟩, h3⟩, h4⟩, h5⟩, h6⟩, h7⟩, h8⟩, h9⟩, h10⟩, h11⟩, h12⟩, h13⟩, h14⟩, h15⟩, h16⟩, h17⟩ := h
  exact ⟨h1, h2, h3, h4, Nat.zero_le _, Nat.zero_le _, rfl, ⟨h5, h6, h7, h8, h9, h10, h11, h12, h13, h14, h15, h16, h17⟩⟩

/-- A device in READY. -/
def up : State := ({ State.reset with boot := { inReset := false } } : State).setPwr 1

theorem up_inv : up.Inv := inv_of (by decide)
theorem up_alive : up.alive = true ∧ up.up = true ∧ up.answers .pcie .arr = true := by decide

/-! ### Well-formedness: each check refuses an ill-formed command -/

/-- A calibration with no codes. -/
def noMeasure : CalCodes := ⟨[], [], [], [], []⟩

theorem test_wf_register_address : (Instr.registerWrite .pcie 2 (.write [(0, 15)])).wf = false := by decide
theorem test_wf_register_empty : (Instr.registerWrite .pcie 0 (.write [])).wf = false := by decide
theorem test_wf_register_side_path : (Instr.registerWrite .mgmt 0 (.write [(0, 3)])).wf = false := by decide
theorem test_wf_register_read_length : (Instr.registerWrite .pcie 0 (.read 1025)).wf = false := by decide
theorem test_wf_shadow_address : (Instr.rwsShadowApplyIdle 1).wf = false := by decide
theorem test_wf_counter_address : (Instr.counterLoRead .pcie 3).wf = false := by decide
theorem test_wf_bar2_empty : (Instr.bar2Access 0 (.write [])).wf = false := by decide
theorem test_wf_bar2_range : (Instr.bar2Access (2 ^ 36) (.read 1)).wf = false := by decide
theorem test_wf_stuck_row : (Instr.pgmBatchDone 0 0 [⟨1032, 0, false⟩]).wf = false := by decide
theorem test_wf_stuck_pair : (Instr.repairBatchDone 0 0 [⟨0, 514, false⟩]).wf = false := by decide
theorem test_wf_opening_measure : (Instr.openingCalibrationDone 0 0 noMeasure).wf = false := by decide
theorem test_wf_startup_measure : (Instr.startupCalibration 0 0 noMeasure).wf = false := by decide
theorem test_wf_wake_measure : (Instr.wakeCalibration [(0, noMeasure)]).wf = false := by decide
theorem test_wf_field_fail : (Instr.fieldTestPhaseDone 0 [⟨0, 514, 0⟩]).wf = false := by decide
theorem test_wf_scan_cells : (Instr.scanBatch 0 0 257).wf = false := by decide
theorem test_wf_margin_batches : (Instr.startupMarginCheck 0 0 65536).wf = false := by decide
theorem test_wf_drift_sums : (Instr.driftTrackingSession 0 0 []).wf = false := by decide
theorem test_wf_weak_slot : (Instr.recMarginRead [256]).wf = false := by decide
theorem test_wf_bad_page : (Instr.recStoreDone [128]).wf = false := by decide
theorem test_wf_frame_length : (Instr.rxFrame 0 ⟨[], 0, 0⟩).wf = false := by decide
theorem test_wf_holds : (Instr.registerWrite .pcie 0x01000000 (.write [(1, 15)])).wf = true := by decide

/-! ### Worked examples of the spec -/

/-- 00_scope.md, "Worked example: locating core 77". -/
theorem test_core_77 : coreBase 77 = 0x019A0000 := by decide
/-- 15_control_space.md, "Worked example: addresses for core 77 and queue 1,000". -/
theorem test_addresses : Reg.arrPgmCmd.addr (arrId 77 16) 0 = 0x019AC020 ∧ Reg.queDbCqHead.addr 1000 0 = 0x08007D04 ∧
    Reg.smpIdx.addr 77 0 = 0x019B020C := by decide
/-- The same example: no block covers 0x019A_C400. -/
theorem test_unmapped : decodeAddr 0x019AC400 = .unmapped := by decide
/-- 00_scope.md, "Worked example: tolerance of one element". -/
theorem test_tolerance : tolerance (2 / 1000) 4 (3 / 2) = 155 / 10000 := by decide +kernel
/-- 02_waves_and_conversion.md, "Worked example: one wave": the draught and the drive values of its five rows. -/
theorem test_drive_values : draught [0x7A, 0x6C, 0x70, 0x00] = some 1 ∧
    [driveVal 100 0x7A 1, driveVal (-37) 0x6C 1, driveVal 5 0x70 1, driveVal 7 0x70 1, driveVal 90 0x00 1] =
      [125, -14, 2, 4, 0] := by decide +kernel
/-- The same example: RNE(61,861 / 446.25) = 139. -/
theorem test_code_one_wave : Fp.rne (61861 / lsbU 1) = 139 := by decide +kernel
/-- 03_codes_scales_and_rounding.md, "Worked example: a dynamic row". -/
theorem test_dynamic_row : draught [0x89] = some 3 ∧ driveVal 115 0x89 3 = 129 ∧ driveVal 5 0x89 3 = 6 := by decide +kernel
/-- 03_codes_scales_and_rounding.md, "from telemetry value to output and back": x = 23.6 with code 0x6E, and 302.5790 with 0x86. -/
theorem test_quantise : quantQ (236 / 10) 0x6E = (54, false) ∧ quantQ (3025790 / 10000) 0x86 = (86, false) := by decide +kernel
/-- 10_checking_and_containment.md, R288: the CRC-32C of the ASCII text 123456789. -/
theorem test_crc32c : crc32c [0x31, 0x32, 0x33, 0x34, 0x35, 0x36, 0x37, 0x38, 0x39] = 0xE3069283 := by decide +kernel
/-- 09_calibration_and_monitoring.md, "one pair, one correction": masks 0x03 and 0x50 are the trim values +3 and -5. -/
theorem test_trim_masks : trimOf 0x03 = 3 ∧ maskOf (-5) = 0x50 ∧ trimOf 0x50 = -5 := by decide

/-! ### One step each, by hand from the spec's tables -/

/-- A GO of an array that never was programmed leaves it PROGRAMMING. -/
theorem test_go : (match exec (.arrPgmGo .pcie 0 0) { up with recs := { recalled := true } } with
    | .next t => decide ((t.arr 0).st = .programming) | _ => false) = true := by
  decide +kernel
/-- No command answers while reset is asserted. -/
theorem test_reset_holds : (match exec (.arrPgmGo .pcie 0 0) State.reset with
    | .next t => decide (t.arrays = State.reset.arrays) | _ => false) = true := by decide +kernel
/-- A step takes one command off the queue. -/
theorem test_step_takes : (match step { up with pending := [.monTrigger 0, .bypass] } with
    | .next t => decide (t.pending = [.bypass]) | _ => false) = true := by decide +kernel

/-! ### States and operands that meet the hypotheses of the obligations -/

/-! A pound of core 127 that runs one entry of a model with one layer. -/

/-- A problem of one row, 32 inputs and 512 outputs. -/
def prob0 : Problem := ⟨1, 32, 512, 0, 0, 0, 0, 0, 0, 0, false, 0, 0, false, 0⟩
/-- The layer: one tile on logical array 0 of core 127. -/
def layer0 : Placement := ⟨0, 127, 127, false, 0, 32, 512, 0, 0, 0, [⟨0, 0, 127, 0, 4, 12⟩]⟩
/-- The image. -/
def img0 : Image := ⟨0, 1, 0, 0, 0, false, false, 0, 1, 0, [], [layer0], [], []⟩
/-- The entry under way. -/
def run0 : EntryRun :=
  { issueNo := 1, raw := [0x11], verb := 1, probs := [prob0], shares := [{ core := 127, groups := [0], running := true }] }
/-- Its place. -/
def ref0 : EntryRef := ⟨127, 0, 0⟩
/-- The sentence in service. -/
def sent0 (es : List EntryRun) : Sentence := ⟨1, 0, false, 1, 1, es, none, none, 0, true⟩
/-- READY with that pound, a core's record and an entry. -/
def world (x : Core) (e : EntryRun) : State :=
  { up with
    models := [(0, { mst := .serving, cur := some img0, refCur := true, pounds := [⟨127, 127, false, .open_, 1, [], [], [], [], 0⟩] })],
    reqs := [(1, { version := some 1, live := true, saddr := 4096 })],
    queues := [(0, { st := .enabled, sqLog := 4, cqLog := 4 })],
    pounds := [(127, { service := [(0, some (sent0 [e]))] })],
    arrays := [(arrId 127 0, { st := .serving })],
    cores := NMap.set {} [] 127 x }
/-- A wave of the entry. -/
def wave0 : WaveReq := ⟨ref0, 0, 0, 0, 0, 0, .orig, 0, false, 0, none⟩
/-- The wave in slot 0 with no code yet. -/
def fly0 : WaveRun := ⟨wave0, 0, arrId 127 0, 0, 3, 3, [], 0, [], 0, [], 0⟩

/-- The hypotheses of `Obligations.StepRunsFront` can be met. -/
theorem witness_StepRunsFront : ({ up with pending := [.bypass] } : State).pending = .bypass :: [] := by decide
/-- The hypotheses of `Obligations.ResetAndIdle` can be met. -/
theorem witness_ResetAndIdle : State.reset.pending = [] ∧ Reg.lkpFwVersion.reset 0 0 < 2 ^ 32 := by decide
/-- The hypotheses of `Obligations.StepKeepsSafe` can be met. -/
theorem witness_StepKeepsSafe : up.Inv := up_inv

/-- The hypotheses of `Obligations.RegisterWriteByClass` can be met. -/
theorem witness_RegisterWriteByClass :
    let r : Reg := .chkScrubCfg
    up.Inv ∧ r.addr 0 0 < 2 ^ 32 ∧ r.addr 0 0 % 4 = 0 ∧ decodeAddr (r.addr 0 0) = .inBlock r.spec.blk 0 (r.spec.off) ∧
    regAt r.spec.blk 0 r.spec.off = some (r, 0) ∧ r.own = false ∧ r.mask [.rws] = 0 ∧
    up.shadows.find? (r.addr 0 0) = none ∧ up.answers .pcie r.spec.blk = true ∧
    (0x1818 : Nat) &&& r.mask [.rsv] = 0 ∧ badEnc r 0 0 0x1818 = false ∧ refuses r .pcie 0 0x1818 = false :=
  ⟨up_inv, by decide⟩

/-- The hypotheses of `Obligations.ShadowWaitsThenApplies` can be met. -/
theorem witness_ShadowWaitsThenApplies :
    let r : Reg := .corCalClass
    up.Inv ∧ r.addr 127 0 < 2 ^ 32 ∧ r.addr 127 0 % 4 = 0 ∧ decodeAddr (r.addr 127 0) = .inBlock r.spec.blk 127 r.spec.off ∧
    regAt r.spec.blk 127 r.spec.off = some (r, 0) ∧ r.own = false ∧ r.mask [.rws] ≠ 0 ∧ r.mask [.rwl, .w1c, .ro, .wo] = 0 ∧
    up.answers .mgmt r.spec.blk = true ∧ (0xFFFF : Nat) &&& r.mask [.rsv] = 0 ∧ badEnc r 127 0 0xFFFF = false ∧
    inWin (r.addr 127 0) 0x01000000 0x01000000 = true ∧ up.someWaiting 127 = false :=
  ⟨up_inv, by decide⟩

/-- The hypotheses of `Obligations.ReservedWriteDiscarded` can be met. -/
theorem witness_ReservedWriteDiscarded :
    let r : Reg := .corCalClass
    let q : Reg := .queShare
    up.Inv ∧ r.addr 0 0 < 2 ^ 32 ∧ r.addr 0 0 % 4 = 0 ∧ decodeAddr (r.addr 0 0) = .inBlock r.spec.blk 0 r.spec.off ∧
    regAt r.spec.blk 0 r.spec.off = some (r, 0) ∧ up.answers .pcie r.spec.blk = true ∧ (0x10000 : Nat) &&& r.mask [.rsv] ≠ 0 ∧
    decodeAddr (q.addr 0 0) = .inBlock q.spec.blk 0 q.spec.off ∧ regAt q.spec.blk 0 q.spec.off = some (q, 0) ∧
    badEnc q 0 0 0 = true ∧ badEnc q 0 0 0x138 = false :=
  ⟨up_inv, by decide⟩

/-- The hypotheses of `Obligations.HostAccess` can be met. -/
theorem witness_HostAccess_access :
    (∀ a ∈ [0x019AC400, 0x0F000000], (BitVec.ofNat 32 a).toNat % 4 = 0) ∧ decodeAddr 0x019AC400 = .unmapped ∧ up.answersAt .pcie 0x019AC400 = true ∧
    State.reset.answersAt .pcie 0x019AC400 = false ∧
    (let r : Reg := .pwrCmd
     decodeAddr (r.addr 0 0) = .inBlock r.spec.blk 0 r.spec.off ∧ regAt r.spec.blk 0 r.spec.off = some (r, 0) ∧
       up.answersAt .pcie (r.addr 0 0) = true) ∧
    regAt .tbs 0 0xFC = none ∧ 2 < 3 ∧ 0xFFFFFFF8 + 4 < 2 ^ 32 := by decide

/-- A counter block whose first counter stands at its largest value. -/
def wCtr : State := { up with ctrs := [(ctrId 0 4, 0xFFFFFFFFFFFFFFFF)], time := 2 ^ 64 - 1 }

/-- The hypotheses of `Obligations.LoReadsLatch` can be met. -/
theorem witness_LoReadsLatch :
    wCtr.Inv ∧ wCtr.answers .pcie .ctr = true ∧ decodeAddr 0x01010020 = .counter 4 false ∧ ctrOpen 4 = false ∧
    wCtr.answers .mgmt .tbs = true ∧ wCtr.answers .pcie .win = true ∧ winOpen (wCtr.rf .ctrWinSel 0 5 0) = false ∧
    wCtr.wins.chans.get {} (wCtr.rf .ctrWinSel 0 5 0) = {} ∧ wCtr.wins.idx < 2 ^ 32 :=
  ⟨inv_of (by decide), by decide⟩

/-- A device with 4 GiB of usable memory, its PCIe link up and its window on the last GiB. -/
def wMem : State := ((up.wr .lkpMemUsable 0 0 0x100000).wr .pciStatus 0 0 0x18B).wr .pciBar2Cfg 0 0 0x1E03

/-- The hypotheses of `Obligations.HostAccess` can be met. -/
theorem witness_HostAccess_bar2 :
    wMem.Inv ∧ wMem.alive = true ∧ wMem.pcieUp = true ∧ up.pcieUp = false ∧ wMem.rf .pciBar2Cfg 0 12 8 = 30 ∧ 0x3FFFFFFD < 2 ^ 30 ∧
    wMem.rf .pciBar2Cfg 0 6 0 * 2 ^ 30 + 0x3FFFFFFC + 4 ≤ wMem.usable ∧ ({ wMem with poison := [0] } : State).poisoned 0 4 = true ∧
    wMem.poisoned (wMem.rf .pciBar2Cfg 0 6 0 * 2 ^ 30 + 0x3FFFFFFC) 4 = false ∧
    wMem.usable < wMem.rf .pciBar2Cfg 0 6 0 * 2 ^ 30 + 0x3FFFFFFD + 4 :=
  ⟨inv_of (by decide), by decide⟩

/-- A read request for one word of the identity block, with its TAG. -/
def wAsk : List Byte :=
  let d := ascii 67 75 67 83 ++ [1, 1, 0, 0] ++ leBytes 8 7 ++ leBytes 4 0 ++ List.replicate 12 0
  d ++ up.mgmtTag d

/-- The hypotheses of `Obligations.HostAccess` can be met. -/
theorem witness_HostAccess_request :
    up.mgmtUp = true ∧ up.requestDrop wAsk = 0 ∧ leAt wAsk 4 1 = 1 ∧ leAt wAsk 5 1 = 1 ∧
    (up.csRead .mgmt (leAt wAsk 16 4)).1.isSome = true ∧ up.requestDrop [] ≠ 0 ∧ State.reset.mgmtUp = false := by decide +kernel

/-- The hypotheses of `Obligations.UnreachedBlocks` can be met. -/
theorem witness_UnreachedBlocks :
    State.reset.alive = false ∧ State.reset.works = false ∧
    (∀ b ∈ [Blk.arr, .drn, .tnd, .cor, .db, .que, .stm, .cal, .mon, .chk], State.reset.answers .pcie b = false) ∧
    State.reset.answers .pcie .img = false := by decide

/-- READY with one array's record. -/
def withArr (a : Nat) (x : Arr) : State := { up with arrays := [(a, x)] }

/-- A job over one check row. -/
def job0 : PgmJob :=
  ⟨3, 1031, 1031, 7, 0, .ready, false, false, false, 0, 0x1FFF, [], [], [], [], 0, false, false, (0, []), false⟩

/-- An array with a job. -/
def withJob (j : PgmJob) : State := withArr 2175 { st := .programming, job := some j }

/-- The same after recall. -/
def recalledOf (s : State) : State := { s with recs := { recalled := true } }

/-- The hypotheses of `Obligations.PgmGoAbort` can be met. -/
theorem witness_PgmGoAbort :
    (∀ st ∈ [ArrSt.ready, .serving, .programming], ∀ b ∈ [false, true],
      let s := if b then recalledOf (withArr 2175 { st := st }) else withArr 2175 { st := st }
      invB s = true ∧ s.answers .pcie .arr = true ∧ s.recs.recalled = b ∧ (s.arr (arrId 127 16)).st = st ∧
        (s.arr (arrId 127 16)).job = none) ∧
    (∀ j ∈ [{ job0 with queued := true }, job0, { job0 with started := true }],
      invB (withJob j) = true ∧ (withJob j).answers .pcie .arr = true ∧ ((withJob j).arr (arrId 127 16)).st = .programming ∧
      ((withJob j).arr (arrId 127 16)).job = some j) := by decide

/-- A PARTIAL array with a recalled job of the version and scope its registers hold, for RESUME. -/
theorem witness_PgmGoAbort_resume :
    ∀ last ∈ [0x1FFF, 7],
      let s := recalledOf (((withArr 2175 { st := .partial_, recalled := some ⟨3, 7, last⟩ }).wr .arrPgmCtrl 2175 0
        (2 ^ 31 + 3)).wr .arrPgmVersion 2175 0 7)
      invB s = true ∧ s.answers .pcie .arr = true ∧ (s.arr (arrId 127 16)).st = .partial_ ∧ s.rb .arrPgmCtrl 2175 31 = true ∧
        s.rf .arrPgmCtrl 2175 1 0 = 3 ∧ s.rd .arrPgmVersion 2175 = 7 ∧ s.recs.recalled = true := by decide

/-- Jobs under way: batch 0 of five, and the last batch but one of a repair. -/
def wBatch : PgmJob := { job0 with started := true, gate := true }
/-- See `wBatch`. -/
def wRepair : PgmJob := { job0 with started := true, repairs := [⟨true, 1031, 0, 2⟩] }

/-- The hypotheses of `Obligations.PgmRuns` can be met. -/
theorem witness_PgmRuns :
    (invB ({ (withJob { job0 with queued := true }) with pgmQueue := [2175] } : State) = true ∧
      ({ (withJob { job0 with queued := true }) with pgmQueue := [2175] } : State).alive = true ∧
      ({ (withJob { job0 with queued := true }) with pgmQueue := [2175] } : State).runningJobs < 64) ∧
    (invB (withJob job0) = true ∧ (withJob job0).alive = true ∧ ((withJob job0).arr (arrId 127 16)).job = some job0 ∧
      job0.queued = false ∧ job0.checked = false ∧ job0.started = false) ∧
    (((withJob wBatch).arr (arrId 127 16)).job = some wBatch ∧ wBatch.started = true ∧ wBatch.repairs = [] ∧
      wBatch.gate = true ∧ wBatch.aborting = false ∧ wBatch.next + 1 < batchCount wBatch.scope wBatch.first wBatch.lastRow) ∧
    (((withJob wRepair).arr (arrId 127 16)).job = some wRepair ∧ wRepair.repairs = ⟨true, 1031, 0, 2⟩ :: [] ∧
      wRepair.aborting = false) ∧
    (∀ j ∈ [{ wBatch with next := 4 }, { wBatch with gate := false }, { wBatch with next := 4, stuck := [⟨1031, 0, true⟩] },
        { wBatch with aborting := true }, { wBatch with checked := true }],
      ((withJob j).arr (arrId 127 16)).job = some j ∧ j.started = true ∧ j.repairs = [] ∧ j.next < batchCount j.scope j.first j.lastRow ∧
        (withJob j).alive = true ∧ ((withJob j).arr (arrId 127 16)).st = .programming) ∧
    batchCount wBatch.scope wBatch.first wBatch.lastRow = 5 ∧
    (match (withJob job0).planeCheck 2175 job0.src job0.scope job0.first job0.lastRow with
      | .error e => decide (e = .invalid 5 64 0)
      | .ok _ => false) = true ∧
    (∀ w ∈ [[⟨true, 1031, 0, 1⟩], [⟨false, 513, 0, 9⟩], [⟨true, 1031, 0, 1⟩, (⟨false, 513, 0, 9⟩ : RepairJob)]],
      ((withJob { wBatch with repairs := w }).arr (arrId 127 16)).job = some { wBatch with repairs := w } ∧ w ≠ []) ∧
    (NMap.sorted (up.arr 0).targets = true ∧ NMap.sorted (up.arr 0).cells = true) := by decide

/-- An array whose trim tables hold an entry and whose exchange is pending. -/
def wTrim : State := withArr 0 { trimShadow := [(515, 1)], trimActive := [(0, 2)], swapPending := true }

/-- READY with spare row 7 of array 0 in use for row 1,031 and spare pair 1 for pair 513. -/
def wMap : State := (up.wr .arrRowMap 0 7 (2 ^ 31 + 1031)).wr .arrColMap 0 1 (2 ^ 31 + 513)

/-- The hypotheses of `Obligations.RemapTables` can be met. -/
theorem witness_RemapTables :
    (wMap.rd .arrRowMap 0 7 = 2 ^ 31 + 1031 ∧ (∀ k, k < 8 → wMap.rd .arrRowMap 0 k = 2 ^ 31 + 1031 → k = 7) ∧
      (∀ i, i < 8 → wMap.rd .arrRowMap 0 i ≠ 2 ^ 31 + 0) ∧ wMap.rd .arrColMap 0 1 = 2 ^ 31 + 513 ∧
      (∀ k, k < 2 → wMap.rd .arrColMap 0 k = 2 ^ 31 + 513 → k = 1) ∧ (∀ i, i < 2 → wMap.rd .arrColMap 0 i ≠ 2 ^ 31 + 0)) ∧
    (invB up = true ∧ up.answers .pcie .arr = true ∧ (1031 : Nat) % 2 ^ 31 < 1032 ∧ (2 ^ 31 + 513) % 2 ^ 31 < 514 ∧ 514 ≤ 514 % 2 ^ 31 ∧
      1032 ≤ 1032 % 2 ^ 31 ∧ up.rd .arrRowMap 0 7 ≠ 1031 ∧ up.arrBusy 0 = false ∧ bit 1031 31 = false ∧ (0 : Nat) = up.rd .arrRowMap 0 7) ∧
    (withArr 0 { st := .serving }).arrBusy 0 = true ∧
    (invB wMap = true ∧ wMap.answers .pcie .arr = true ∧ bit (2 ^ 31 + 513) 31 = true ∧
      (List.range 2).any (fun k => k ≠ 0 && wMap.rd .arrColMap 0 k = 2 ^ 31 + 513) = true ∧
      (List.range 8).any (fun k => k ≠ 0 && wMap.rd .arrRowMap 0 k = 2 ^ 31 + 1031) = true) := by decide

/-- The hypotheses of `Obligations.TrimTables` can be met. -/
theorem witness_TrimTables :
    (invB wTrim = true ∧ wTrim.answers .pcie .arr = true ∧ (0xFFFF : Nat) < 2 ^ 16 ∧ 2 ^ 16 ≤ (0x10000 : Nat) ∧
      (up.wr .arrTrimAddr 0 0 (515 + 65536)).rb .arrTrimAddr 0 16 = true ∧ up.rb .arrTrimAddr 0 16 = false ∧
      (wTrim.arr 0).swapPending = true ∧ wTrim.arrConverting 0 = false ∧ (wTrim.arr 0).st ≠ .serving ∧ (up.arr 0).swapPending = false) ∧
    (let s := { world { waiting := [wave0] } run0 with arrays := [(arrId 127 0, { st := .serving, swapPending := true })] }
     invB s = true ∧ (s.arr (arrId 127 0)).st = .serving ∧ (s.arr (arrId 127 0)).swapIdle = false ∧ s.someWaiting 127 = true) ∧
    (let s := { world { flying := [fly0] } run0 with arrays := [(arrId 127 0, { st := .serving, swapPending := true, swapIdle := true })] }
     s.arrConverting (arrId 127 0) = true) := by decide

/-- An array of the spare slot near the end of a scan, and one whose oldest weak batch waits. -/
def wScan : State := (withArr 16 { scanPos := 4191 }).wr .arrScanCfg 16 0 (0x3C + 0x60000 + 2 ^ 24)
/-- See `wScan`. -/
def wWeak : State :=
  { (withArr 16 { weak := [(4192, 0)] }).wr .arrScanCfg 16 0 (0x3C + 0x60000 + 2 ^ 24) with time := dayNs }

/-- The hypotheses of `Obligations.ScanAndRefresh` can be met. -/
theorem witness_ScanAndRefresh :
    (invB wScan = true ∧ wScan.works = true ∧ wScan.arrConverting 16 = false ∧ wScan.rf .arrScanCfg 16 15 0 ≠ 0 ∧
      (wScan.arr 16).st = .unprogrammed ∧ (wScan.arr 16).scanPos + 1 < scanBatches ∧
      (wScan.arr 16).weak.any (·.1 = (wScan.arr 16).scanPos) = false) ∧
    (∀ w ∈ [0, 5], let s := (withArr 16 { st := .serving, scanPos := 4192, scanWeak := w, wavesSinceScan := 64 }).wr .arrScanCfg 16 0 (0x3C + 0x60000)
      invB s = true ∧ s.works = true ∧ s.rf .arrScanCfg 16 15 0 ≠ 0 ∧ 2 ^ s.rf .arrScanCfg 16 19 16 ≤ (s.arr 16).wavesSinceScan ∧
        scanBatches ≤ (s.arr 16).scanPos + 1 ∧ ((s.arr 16).scanWeak + satTo 256 0 = 0 ↔ w = 0)) ∧
    ((world { flying := [fly0] } run0).arrConverting (arrId 127 0) = true) ∧
    (invB wWeak = true ∧ wWeak.works = true ∧ wWeak.arrConverting 16 = false ∧ (wWeak.core 0).logicalOf 16 = none ∧
      wWeak.rb .arrScanCfg 16 24 = true ∧ (wWeak.arr 16).weak = (4192, 0) :: [] ∧ wWeak.expressArr 0 = false ∧
      0 + dayNs ≤ wWeak.time ∧ (wWeak.arr 16).deferredRaised = false ∧ wWeak.time - 1 < 0 + dayNs) ∧
    (let s := world {} run0
     (s.core 127).logicalOf 0 = some 0 ∧ ((s.holder 127 0 (arrId 127 0)).map (fun h => decide (h.img.version ≠ s.rd .arrVersion (arrId 127 0)))) =
       some true) := by decide

/-- The hypotheses of `Obligations.DriveValuesBounded` can be met. -/
theorem witness_DriveValuesBounded :
    (∀ sc ∈ [0, 8, 255], sc < 256) ∧ draught [0, 8, 255] = some 17 ∧ draught [8] = some (-14) ∧ 0 / 8 = 0 ∧ 0 < 255 / 8 ∧
    (0 : Nat) ∈ [0, 8, 255] ∧ (-127 : Int) ≤ 127 := by decide
/-- The hypotheses of `Obligations.SplitPartsPartition` can be met. -/
theorem witness_SplitPartsPartition : 8 ∈ [2, 4, 8] ∧ 128 ∈ [32, 64, 128] ∧ 7 < 8 ∧ 1023 < 1024 ∧ 896 / 128 = 1023 / 128 := by decide

/-- The hypotheses of `Obligations.WaveSlots` can be met. -/
theorem witness_WaveSlots :
    (let s := world {} run0
     s.alive = true ∧ (s.core 127).failedCore = false ∧ (s.core 127).gridWait = false ∧ (((s.calWatch 127).calIdle 127).core 127).inGroup = 0 ∧
       ((s.calWatch 127).calIdle 127).someWaiting 127 = false) ∧
    (∀ n ∈ [200, 201], let s : State := { (world { waiting := [wave0] } run0).wr .wavLockCfg 127 0 1 with time := n }
     let u := (s.calWatch 127).calIdle 127
     s.alive = true ∧ (s.core 127).failedCore = false ∧ (s.core 127).gridWait = false ∧ u.someWaiting 127 = true ∧
       (u.core 127).inGroup = 0 ∧ u.rb .wavLockCfg 127 0 = true ∧ (u.time % 200 ≠ 0 ↔ n = 201)) ∧
    (∀ n ∈ [200, 201], let s : State := { world { gridWait := true } run0 with time := n }
     s.alive = true ∧ (s.core 127).gridWait = true ∧ (s.time % 200 = 0 ↔ n = 200)) ∧
    (world { failedCore := true } run0).alive = true ∧ ((world { failedCore := true } run0).core 127).failedCore = true ∧
    (∀ g ∈ [6, 7], let s : State := { world { waiting := [wave0], inGroup := g } run0 with pwr := { power := 1 } }
     let u := (s.calWatch 127).calIdle 127
     invB s = true ∧ s.alive = true ∧ (s.core 127).failedCore = false ∧ (s.core 127).gridWait = false ∧ u.someWaiting 127 = true ∧
       (u.core 127).inGroup ≠ 0 ∧ (8 ≤ (u.core 127).inGroup + u.qLevel (127 / 32) ↔ g = 7) ∧
       ((u.core 127).replays.find? (u.core 127).replayDue).isNone = true) ∧
    (let s := world { waiting := [wave0], inGroup := 1, replays := [⟨{ fly0 with conv := 4 }, none⟩] } run0
     let u := (s.calWatch 127).calIdle 127
     u.someWaiting 127 = true ∧ ((u.core 127).replays.find? (u.core 127).replayDue).isSome = true) := by decide +kernel

/-- The hypotheses of `Obligations.ConversionsAndSplits` can be met. -/
theorem witness_ConversionsAndSplits :
    (let s := world { flying := [{ fly0 with conv := 2 }] } run0
     s.alive = true ∧ (s.core 127).flying.find? (fun w => w.slot = (0 : SlotId).val && decide (w.conv < 4)) =
       some { fly0 with conv := 2 } ∧ ({ fly0 with conv := 2 } : WaveRun).conv ≠ 3) ∧
    (let s := world { flying := [{ fly0 with codes := [(7, 511)] }] } run0
     let w : WaveRun := { fly0 with codes := [(7, 511)] }
     invB s = true ∧ [7] ≠ ([] : List Nat) ∧ w.req.kind = .orig ∧ w.req.rep = 0 ∧ (s.core 127).split w.req = none ∧ w.smax ≠ 0 ∧
       ∀ x ∈ w.codes, (x.2 = 511 ∨ x.2 = -511) → x.1 ∈ [7]) := by decide

/-- The hypotheses of `Obligations.Verdicts` can be met. -/
theorem witness_Verdicts :
    (∀ w ∈ [{ fly0 with conv := 4 }, { fly0 with conv := 4, codes := [(512, 500)] }],
     let s := world { flying := [w] } run0
     s.alive = true ∧ (s.core 127).flying.find? (fun w => w.slot = (0 : SlotId).val && w.conv = 4) = some w ∧ w.req.kind = .orig ∧
       w.req.rep = 0 ∧ s.running w.req.ref = true ∧ (s.cpVerdict 127 w = none ↔ w.codes = [])) ∧
    (let w : WaveRun := { fly0 with conv := 4 }
     let s := world { flying := [w] } { run0 with mode := .ended }
     s.alive = true ∧ (s.core 127).flying.find? (fun w => w.slot = (0 : SlotId).val && w.conv = 4) = some w ∧
       s.running w.req.ref = false ∧ s.up = true ∧ State.reset.up = false ∧
       (s.core 127).flying.find? (fun w => w.slot = (1 : SlotId).val && w.conv = 4) = none ∧
       (s.core 127).replays.find? (fun q => q.spare.isSome) = none) ∧
    (∀ v ∈ [3, 4], let q : Replay := ⟨fly0, some { fly0 with codes := [(511, v)] }⟩
     let s := world { replays := [q] } run0
     s.alive = true ∧ (s.core 127).replays.find? (fun q => q.spare.isSome) = some q ∧ s.run? q.orig.req.ref = some run0 ∧
       s.waveLayer q.orig.req = some (img0, true, layer0) ∧
       ((livePairs run0 layer0 0).filter (fun p => decide (3 + 4 / 1000 * absR ((0 : Rat) * s.weight (arrId 127 0) p) <
         absR ((0 : Rat) * s.weight (arrId 127 0) p - ((if p = 511 then v else 0 : Int) : Rat) * s.weight (arrId 127 0) p))) = [] ↔ v = 3)) ∧
    (∀ t ∈ [59999999999, 60000000000],
     let s : State := { world { rotating := true, replayOn := true } run0 with time := t }
     s.up = true ∧ (s.core 127).rotating = true ∧ (s.core 127).replayOn = true ∧ (s.core 127).mayRotate = true ∧
       ((s.core 127).rotSince + s.rf .chkCfg 0 23 16 * 1000000000 ≤ s.time ↔ t = 60000000000) ∧ (s.core 126).rotating = false ∧
       ({ noSpare := true } : Core).mayRotate = false ∧ s.rotTargets 126 = [] ∧
       (s.rotTargets 127).find? (fun l => decide ((s.core 127).rotTarget < l)) = none ∧ (s.rotTargets 127).head? = some 0) := by
  decide +kernel

/-- A core whose tender runs, with its accumulator tile claimed. -/
def core0 : Core := { tnd := .running, claims := [(0, 1)] }

/-- The hypotheses of `Obligations.AccumulatorAdd` can be met. -/
theorem witness_AccumulatorAdd :
    ∀ w ∈ [(0 : Int), 2 ^ 47 - 1, -(2 ^ 47 - 1)],
      let s := world { core0 with acc := [(accKey 0 0 511, accWord w false false)] } run0
      let k := accKey 0 0 511
      invB s = true ∧ NMap.sorted (s.core 127).acc = true ∧ bit ((s.core 127).acc.get 0 k).toNat 55 = true ∧
        -(2 ^ 47 : Int) < accS ((s.core 127).acc.get 0 k) ∧ accS ((s.core 127).acc.get 0 k) < 2 ^ 47 := by decide

/-- Codes of the wave, ready for the accumulator. -/
def codes0 : Delivery := ⟨wave0, 17, 3, [(511, -511)], [], [], 1, 0⟩

/-- The hypotheses of `Obligations.DrainAccumulates` can be met. -/
theorem witness_DrainAccumulates :
    ∀ k ∈ [1, 2],
      let s := world { core0 with ready := [codes0], claims := [(0, k)] } run0
      s.alive = true ∧ (s.core 127).ready.find? (fun d => d.req.larr = (0 : LArr).val) = some codes0 ∧
      s.run? codes0.req.ref = some run0 ∧ s.waveLayer codes0.req = some (img0, true, layer0) ∧
      run0.share 127 = some { core := 127, groups := [0], running := true } ∧ run0.mode ≠ .ended ∧
      ((s.core 127).claims.get 0 (accTile (eBase run0.raw 20 % 32 + run0.prob.accOff) 1 0 0 0) = run0.issueNo ↔ k = 1) ∧
      ((s.modCore 127 (fun x => { x with ready := x.ready.filter (fun y => !codes0.meets y) })).resHit ref0 127 0 none).running ref0 = true := by
  decide

/-- Codes of an entry that is gone, has ended, or has no share on the core. -/
theorem witness_DrainAccumulates_dropped :
    (let s := world { core0 with ready := [{ codes0 with req := { wave0 with ref := ⟨127, 1, 0⟩ } }] } run0
     s.run? ⟨127, 1, 0⟩ = none ∧ s.alive = true) ∧
    (let s := world { core0 with ready := [codes0] } { run0 with mode := .ended }
     s.run? codes0.req.ref = some { run0 with mode := .ended }) ∧
    { run0 with shares := [] }.share 127 = none := by decide

/-- The entry over one output column, subjunctive with range checks, or indicative. -/
def run1 : EntryRun := { run0 with raw := [0x11, 1], probs := [{ prob0 with n := 1 }], rangeOn := true }
/-- Its share. -/
def share0 : Share := { core := 127, groups := [0], running := true }
/-- A finished segment of core 127's row. -/
def seg0 : OutSeg := ⟨127, 127, 0, 0, [(0, 1)]⟩
/-- The same pound with cores 126 and 127. -/
def world2 (e : EntryRun) : State :=
  { world core0 e with models := [(0, { mst := .serving, cur := some img0, refCur := true,
                                        pounds := [⟨126, 127, false, .open_, 1, [], [], [], [], 0⟩] })],
                       pounds := [(126, { service := [(0, some (sent0 [e]))] })] }

/-- The hypotheses of `Obligations.RowsLeave` can be met. -/
theorem witness_RowsLeave :
    (∀ k ∈ [1, 2], let s := world { core0 with claims := [(0, k)] } run1
      s.run? ref0 = some run1 ∧ run1.share 127 = some share0 ∧ s.alive = true ∧ run1.mode = .running ∧ share0.running = true ∧
      run1.nextRow share0 = some 0 ∧ run1.nextRow share0 ≠ some 1 ∧
      (s.core 127).rowOpen ref0 run1.cur 0 = false ∧ run1.held.any (fun x => x.core = 127 && x.row = 0) = false ∧
      (s.core 127).accepting = true ∧ (s.lostTile ref0 127 0 = none ↔ k = 1) ∧ run1.redo.contains (127, 0) = false ∧
      run1.verb = 1 ∧ eSubj run1.raw = true ∧ run1.ranged = [] ∧ s.run? ⟨127, 1, 0⟩ = none ∧
      (s.waveRow ref0 run1 share0 0).1.any (fun (col, y) => s.rangeFails run1 127 col y) = false) ∧
    (∀ rd ∈ [[], [(127, 0)]], let e := { run1 with resOn := true, redo := rd }
      let s := world { core0 with claims := [(0, 1)] } e
      s.run? ref0 = some e ∧ e.nextRow share0 = some 0 ∧ s.lostTile ref0 127 0 = none ∧ e.resOn = true ∧
        e.redo.contains (127, 0) = !rd.isEmpty) ∧
    (let e := { run0 with outs := [seg0] }
     let s := world2 e
     s.alive = true ∧ s.run? ⟨126, 0, 0⟩ = some e ∧ e.mode ≠ .ended ∧ (126 : Nat) ≠ 127 ∧ (s.poundCores 126).contains 126 = true ∧
      e.outs.filter (fun (o : OutSeg) => decide (o.holder = 126) && decide (o.src = 127) && decide (o.prob = e.cur) &&
        decide (o.row = 0)) = [] ∧
      e.outs.filter (fun (o : OutSeg) => decide (o.holder = 127) && decide (o.src = 127) && decide (o.prob = e.cur) &&
        decide (o.row = 0)) = seg0 :: []) := by decide +kernel

/-- A row whose one value lies above its range. -/
def held0 : HeldRow := ⟨127, 0, [(0, 0x40000000)], [], false⟩

/-- The hypotheses of `Obligations.RangeResolves` can be met. -/
theorem witness_RangeResolves :
    (∀ b ∈ [0, 1], ∀ ref ∈ [false, true], ∀ old ∈ [[], [held0]],
      let e := { run1 with raw := [0x11, b], held := [held0], ranged := old, resolved := 1023 }
      let s := { world { core0 with ranges := [(0, 0), (1, 0x3F800000)] } e with
        models := [(0, { mst := .serving, cur := some img0, refCur := ref, pounds := [⟨127, 127, false, .open_, 1, [], [], [], [], 0⟩] })] }
      let here (x : HeldRow) : Bool := x.core = 127 && x.row = 0
      let bad := (held0.ys.filter (fun (col, y) => s.rangeFails e 127 col y)).map (·.1)
      s.run? ref0 = some e ∧ e.held.find? (fun x => here x && !x.ranged) = some held0 ∧
      e.share 127 = some share0 ∧ s.alive = true ∧ e.verb = 1 ∧ e.mode = .running ∧ (s.core 127).accepting = true ∧
      e.ranged.filter here = old ∧ bad = [0] ∧ bad.length + e.resolved ≤ 1024 ∧ bad.eraseDups = bad ∧ (eSubj e.raw = true ↔ b = 1) ∧
      (s.runLayer ref0 e.prob.layer).map (·.2.1) = some ref) ∧
    (world core0 run1).run? ⟨127, 1, 0⟩ = none ∧ run1.held.find? (fun x => x.core = 127 && x.row = 0 && !x.ranged) = none := by decide +kernel

/-- The hypotheses of `Obligations.PassClaimsTiles` can be met. -/
theorem witness_PassClaimsTiles :
    let e := { run1 with shares := [{ core := 127, groups := [0] }] }
    let h : Share := { core := 127, groups := [0] }
    let s := world { core0 with claims := [(0, 9), (1, 9)], acc := [(0, 5), (2048, 5)] } e
    invB s = true ∧ s.run? ref0 = some e ∧ e.share 127 = some h ∧ s.alive = true ∧ e.mode = .running ∧ e.verb ∈ [1, 2, 3] ∧
    h.running = false ∧ h.finished = false ∧ (s.core 127).accepting = true ∧
    ((h.rows e.verb e.prob.m).head?).any e.below = true ∧ NMap.sorted (s.core 127).claims = true ∧
    NMap.sorted (s.core 127).acc = true ∧ e.passTiles h = [0] := by decide

/-- An INGEST entry with one row, of one element, held already. -/
def ing0 : EntryRun :=
  { run0 with raw := [0x16], verb := 6, probs := [{ prob0 with k := 1, n := 1 }],
              shares := [{ core := 127, groups := [0], running := true }], held := [⟨127, 0, [(0, 1)], [], true⟩] }

/-- Before the next block's evaluation, and after its rows are in. -/
def ingAt (e : EntryRun) : State × State :=
  let s := world core0 e
  let s0 := ((s.worked ref0).takeTask ref0 127).resHit ref0 127 0 none
  (s0, s0.each ((rowsIn e.outStride e.prob.m 0).filter (fun m => !e.held.any (fun h => h.row = m)))
    (fun t m => if (t.run? ref0).any (fun e => decide (e.mode = .running) && e.below m) then t.ingestRow ref0 m else t))

/-- The hypotheses of `Obligations.IngestEvaluates` can be met. -/
theorem witness_IngestEvaluates :
    let s := world core0 ing0
    let rows := rowsIn ing0.outStride ing0.prob.m 0
    s.run? ref0 = some ing0 ∧ s.alive = true ∧ ing0.verb = 6 ∧ ing0.mode = .running ∧ (s.core 127).accepting = true ∧
    0 = ing0.ingested.length ∧ ing0.due 0 = true ∧ rows ≠ [] ∧ ing0.rowCore (rows.headD 0) = (127 : CoreId) ∧
    (∀ e ∈ [ing0, { ing0 with sclMode := 1 }], (ingAt e).1.running ref0 = true ∧
      ((ingAt e).2.run? ref0).any (fun e1 => decide (e1.mode = .running) && e1.due 0 &&
        decide ((e1.guard 127 ((e1.heldVals 0).map (fun v => (BitVec.ofNat 8 v).toInt)) ((e1.heldVals 0).filter (256 ≤ ·)).length).1 = 0)) = true) := by
  decide +kernel

/-- A guard that trips on a low maximum and one that does not, with the bound met from both sides. -/
theorem witness_IngestEvaluates_trip :
    let e := { ing0 with guardCfg := [(127, 65536 + 4095)] }
    (e.guard 127 [1, -63] 0).1 = 2 ∧ (e.guard 127 [64] 4095).1 = 0 ∧ (e.guard 127 [-64] 4096).1 = 1 ∧ (e.guard 127 [63] 4096).1 = 3 := by
  decide

/-- The hypotheses of `Obligations.DrainTables` can be met. -/
theorem witness_DrainTables :
    (let s := up.wr .drnNltAddr 127 0 (0x8000 + 0x4000 + 1027)
     invB s = true ∧ s.answers .pcie .drn = true ∧ NMap.sorted (s.core 127).chains = true ∧ NMap.sorted (s.core 127).nlt = true ∧
       4 ≤ s.rf .drnNltAddr 127 14 12 ∧ s.drnBusy 127 = false ∧ s.rb .drnNltAddr 127 15 = true) ∧
    (up.rf .drnNltAddr 127 14 12 < 4 ∧ up.rb .drnNltAddr 127 15 = false) ∧
    (let s := (world core0 run0).wr .drnNltAddr 127 0 0x4000
     s.answers .pcie .drn = true ∧ 4 ≤ s.rf .drnNltAddr 127 14 12 ∧ s.drnBusy 127 = true ∧ s.nltHere 127 ≠ 1 ∧ s.nltHere 127 = 0) ∧
    State.reset.answers .pcie .drn = false := by decide

/-- The hypotheses of `Obligations.TenderStates` can be met. -/
theorem witness_TenderStates :
    (∀ x ∈ [TndSt.off, .loading, .running, .fault], let s := world { tnd := x } run0
      invB s = true ∧ s.alive = true ∧ s.works = true ∧ s.answers .pcie .tnd = true ∧ (s.core 127).tnd = x ∧
      s.rf .tndWdogCfg 127 15 0 ≠ 0 ∧ (s.wr .tndWdogCfg 127 0 0).rf .tndWdogCfg 127 15 0 = 0) ∧
    (let s : State := { world { tnd := .loading } run0 with boot := { inReset := false, tenderDigest := Sha.sha256 [] } }
     Sha.sha256 s.boot.tenderCode = s.boot.tenderDigest ∧ Sha.sha256 (world {} run0).boot.tenderCode ≠ []) ∧
    (∀ c ∈ [0, 2], let e := { run1 with tStart := some 0 }
      let s : State := { world { core0 with tndBusy := some ⟨0, 0, 0⟩ } e with reqs := [(1, { cls := c, version := some 1 })] }
      s.alive = true ∧ (s.core 127).tndBusy = some ⟨0, 0, 0⟩ ∧ (s.core 127).tnd = .running) ∧
    (let e := { run1 with raw := [0x11], tStart := some 0 }
     let s : State := { world { core0 with tndBusy := some ⟨127, 1, 0⟩ } e with
       reqs := [(1, { cls := 0, version := some 1 }), (2, { cls := 2 })],
       pounds := [(127, { service := [(0, some (sent0 [e])), (1, some { sent0 [] with req := 2 })] })] }
     (s.reqOfRun ⟨127, 1, 0⟩).cls ≠ 0 ∧ (s.reqOfRun ref0).cls = 0 ∧
     s.allRuns.find? (fun (q, e) => decide ((s.reqOfRun q).cls = 0) && e.tenders 127) = some (ref0, e)) := by decide +kernel

/-- A transfer of two blocks to the left neighbour. -/
def halo0 : HaloOut := ⟨ref0, false, 0, 2⟩
/-- An entry that sends to the left, or waits. -/
def runH (v : Nat) (a : Nat) : EntryRun := { run0 with raw := [BitVec.ofNat 8 v], verb := v, mode := .waitHalo, arg := a }

/-- The hypotheses of `Obligations.HaloLinks` can be met. -/
theorem witness_HaloLinks :
    (∀ x ∈ [TndSt.running, .fault], ∀ n ∈ [1, 2],
      let s := ({ world { haloOut := [halo0] } (runH 0xB 0) with
        cores := [(126, { tnd := x }), (127, { haloOut := [halo0] })] } : State).wr .corHaloRxL 126 0 (256 * n)
      invB s = true ∧ s.alive = true ∧ 0 < halo0.count ∧ haloPeer 127 false = 126 ∧
      (s.core 127).haloOut.find? (fun h => h.toRight = false) = some halo0 ∧ (s.core 126).tnd = x ∧
      ((s.haloWin 126 false).2 < halo0.count ∨ n = 2)) ∧
    (∀ a ∈ [5, 65536 + 5], let s := world {} (runH 0xC a)
      s.run? ref0 = some (runH 0xC a) ∧ s.alive = true ∧ (runH 0xC a).verb = 0xC ∧ (runH 0xC a).mode = .waitHalo ∧
      ((runH 0xC a).arg / 65536 = 0 ↔ a = 5) ∧ s.haloMet ref0 (runH 0xC a) = false) := by decide

/-- A core whose spare is READY at version 0 and calibrated, and one with a retired slot. -/
def wSpare (x : Core) (st : ArrSt) : State :=
  { world x run0 with arrays := [(arrId 127 0, { st := .serving, calPass := true }), (arrId 127 1, { st := st }),
                                 (arrId 127 16, { st := .ready, calPass := true })] }

/-- The hypotheses of `Obligations.SpareSubstitution` can be met. -/
theorem witness_SpareSubstitution :
    (let s := wSpare {} .ready
     invB s = true ∧ s.answers .pcie .cor = true ∧ (s.core 127).spPending = none ∧ (s.core 127).retired = none ∧
       s.commitCause 127 = 0 ∧ (wSpare { noSpare := true } .ready).commitCause 127 = 1) ∧
    (∀ st ∈ [ArrSt.ready, .unprogrammed, .failed], let s := wSpare { retired := some 1 } st
      (s.core 127).retired = some 1 ∧ (s.arr (arrId 127 1)).st = st) ∧
    (let s := wSpare { spPending := some (0, false) } .ready
     invB s = true ∧ s.alive = true ∧ s.answers .pcie .cor = true ∧ (s.core 127).spPending = some (0, false) ∧
       s.splitHolds 127 0 = false ∧ (s.core 127).inGroup = 0 ∧ s.commitBad 127 0 false = 0 ∧
       (s.core 127).spare ≠ (s.core 127).slotOf 0 ∧ (s.core 127).spare < 17 ∧ (s.core 127).slotOf 0 < 17 ∧
       NMap.sorted (s.core 127).slotMap = true) ∧
    (wSpare { spPending := some (0, false), waiting := [{ wave0 with rep := 1 }] } .ready).splitHolds 127 0 = true ∧
    ((wSpare { spPending := some (0, false), inGroup := 1 } .ready).core 127).inGroup ≠ 0 ∧
    (wSpare { spPending := some (0, false), noSpare := true } .ready).commitBad 127 0 false ≠ 0 ∧ State.reset.alive = false ∧
    State.reset.answers .pcie .cor = false := by decide

/-- `n` bytes of a number, lowest first. -/
def leB (n x : Nat) : List Byte := (List.range n).map (fun i => BitVec.ofNat 8 (x / 256 ^ i))
/-- An entry of a verb: first word, PARAM, one row of 32 inputs and 512 outputs, and an address. -/
def ent (v w pm a : Nat) : List Byte :=
  leB 4 (v + w) ++ leB 2 pm ++ leB 2 0 ++ leB 4 1 ++ leB 2 32 ++ leB 2 512 ++ List.replicate 26 0 ++ leB 6 a ++ List.replicate 16 0
/-- A valid entry of each verb. -/
def entOf (v : Nat) : List Byte :=
  ent v (if v = 1 then 0x100 else if v = 4 || v = 5 then 0x40000000 else if v = 3 || v = 6 then 0x40000 else 0)
    (if v = 0xA then 127 else if v = 0xB then 1 else 0) (if v = 2 || v = 8 || v = 9 then 8192 else 8)
/-- The pound with an entry that has not issued. -/
def wEnt (d : List Byte) : State :=
  let s := (world { tnd := .running, chains := [(0, 0xD)] } run0).wr .lkpMemUsable 0 0 4096
  { s with
    reqs := [(1, { cls := if eVerb d = 0xD then 3 else 0, version := some 1, live := true, saddr := 4096,
                   route := [⟨4096, false, 1, 127, true⟩] })],
    pounds := [(127, { service := [(0, some { sent0 [] with next := 0 })] })],
    ctxs := [(0, { st := .bound })],
    mem := ((List.range d.length).zip d).foldl (fun m x => NMap.set 0 m x.1 x.2) [] }

/-- The hypotheses of `Obligations.EntriesIssue` can be met. -/
theorem witness_EntriesIssue :
    (∀ v < 15, let s := wEnt (entOf v)
      s.sent? 127 0 = some { sent0 [] with next := 0 } ∧ s.entryBytes { sent0 [] with next := 0 } = some (entOf v) ∧ eVerb (entOf v) = v ∧
      s.mayIssue 127 { sent0 [] with next := 0 } true = true ∧ s.rejects 127 (s.req 1) (entOf v) 0 = none ∧
      s.noContext (s.newRun 127 { sent0 [] with next := 0 } (s.req 1) (entOf v) 0) = false ∧
      emptyStatus (s.newRun 127 { sent0 [] with next := 0 } (s.req 1) (entOf v) 0) = none) ∧
    (let d := ent 1 0x30100 0 0
     (wEnt d).sent? 127 0 = some { sent0 [] with next := 0 } ∧ (wEnt d).entryBytes { sent0 [] with next := 0 } = some d ∧
     (wEnt d).mayIssue 127 { sent0 [] with next := 0 } true = true ∧
     (wEnt d).rejects 127 ((wEnt d).req 1) d 0 = some (0x11, 0)) ∧
    (let s : State := { wEnt (entOf 0) with cores := [] }
     s.mayIssue 127 { sent0 [] with next := 0 } false = false ∧ s.entryBytes { sent0 [] with next := 0 } = some (entOf 0)) := by decide +kernel

/-- The pound with an EXPRESS or another entry in its basin. -/
def wBasin (k : Nat) : State :=
  let s := world { tnd := .running } run0
  { s with
    reqs := [(1, { cls := k, version := some 1, live := true, saddr := 4096 })],
    queues := [(0, { st := .enabled, sqLog := 4, cqLog := 4, cls := k, rate := 1, burstReq := 4, burstSlot := 8 })],
    pounds := [(127, { basin := [⟨1, 4096, false, 1, false⟩] })] }
/-- That basin entry. -/
def basin0 : Nat × BasinEntry := (127, ⟨1, 4096, false, 1, false⟩)

/-- The hypotheses of `Obligations.PoundTakes` can be met. -/
theorem witness_PoundTakes :
    (invB (wBasin 0) = true ∧ (wBasin 0).issues = true ∧ ((wBasin 0).poundAt 127).isSome = true ∧
      (wBasin 0).pickExpress 127 ((wBasin 0).candidates 127) = (some basin0, []) ∧ ((wBasin 0).pound 127).freePos true = some 6 ∧
      (wBasin 0).bindFor 127 basin0.2 = some (1, 0, false) ∧ NMap.sorted ((wBasin 0).pound 127).service = true) ∧
    (∀ k ∈ [1, 2, 3], invB (wBasin k) = true ∧ (wBasin k).issues = true ∧ ((wBasin k).poundAt 127).isSome = true ∧
      (wBasin k).pickExpress 127 ((wBasin k).candidates 127) = (none, []) ∧ ((wBasin k).pound 127).freePos false = some 0 ∧
      ((wBasin k).pickOther 127 ((wBasin k).candidates 127)).map (·.1) = some basin0) ∧
    (invB State.reset = true ∧ State.reset.issues = false) := by decide +kernel

/-- The hypotheses of `Obligations.EntryEnds` can be met. -/
theorem witness_EntryEnds :
    (let s := world {} run0
     invB s = true ∧ NMap.sorted (s.pound 127).service = true ∧ s.sent? 127 0 = some (sent0 [run0]) ∧ s.run? ref0 = some run0 ∧
       run0.mode ≠ .ended) ∧
    (∀ a ∈ [8, 2 ^ 40, 2 ^ 47 + 8], let e := { run0 with raw := ent 0xE 0 0 a, verb := 0xE, seed := 0x0102030405060708 }
      let s := (world {} e).wr .lkpMemUsable 0 0 4096
      invB s = true ∧ s.run? ref0 = some e ∧ eHost e.raw = decide (2 ^ 47 ≤ a) ∧ s.inBlocks (eAddr e.raw) 8 = decide (eAddr e.raw = 8) ∧
        s.dmaUp = false) := by decide +kernel

/-- A field test under way. -/
def test0 (k : Nat) : FieldTest := ⟨ref0, 3, 1, 0, 0, 0, k⟩

/-- The hypotheses of `Obligations.FieldTestPhases` can be met. -/
theorem witness_FieldTestPhases :
    ∀ k ∈ [0, 2], let s := world { fieldTest := some (test0 k) } run0
      s.alive = true ∧ (s.core 127).fieldTest = some (test0 k) ∧
      (maskArrays (test0 k).tested).any (fun l => [(⟨1, 0, 0⟩ : FieldFail)].any (fun x => x.larr.val = l)) = true ∧
      (maskArrays (test0 k).tested).any (fun l => [(⟨2, 0, 0⟩ : FieldFail)].any (fun x => x.larr.val = l)) = false := by decide +kernel

/-- A row that waits for an operand. -/
def heldAdd : HeldRow := ⟨127, 0, [(0, 0)], [], true⟩

/-- The hypotheses of `Obligations.AdapterTraffic` can be met. -/
theorem witness_AdapterTraffic_add :
    ∀ hs ∈ [[heldAdd], []], let s := world {} { run0 with held := hs }
      s.alive = true ∧ s.run? ref0 = some { run0 with held := hs } ∧
      (hs.find? (fun h => decide (h.core = 127) && decide (h.row = 0) && h.ranged)).isSome = !hs.isEmpty ∧ run0.mode = .running ∧
      run0.verb ≠ 6 := by decide +kernel

/-- A sentence of one entry at its end, or of two of which it failed. -/
def wEnded (st : Nat) (two : Bool) : State :=
  let e : EntryRun := { run0 with mode := .ended, status := st, raw := ent 1 0x100 0 0 }
  let s := world {} run0
  { s with pounds := [(127, { service := [(0, some { sent0 (e :: if two then [{ run0 with idx := 1 }] else []) with
      nent := if two then 2 else 1, next := if two then 2 else 1, failed := if 16 ≤ st then some 0 else none })] })] }

/-- The hypotheses of `Obligations.EntryCompletes` can be met. -/
theorem witness_EntryCompletes :
    ((world {} run0).alive = true ∧ (world {} run0).sent? 127 0 = some (sent0 [run0]) ∧
      (sent0 [run0]).runs.find? (fun e => e.idx = 0) = some run0 ∧ run0.mode ≠ .ended) ∧
    (∀ st ∈ [0, 0x23], ∀ two ∈ [false, true], let s := wEnded st two
      s.alive = true ∧ (s.sent? 127 0).map (fun n => (n.runs.length, n.failed)) =
        some (if two then 2 else 1, if st = 0 then none else some 0) ∧
      ((s.sent? 127 0).bind (fun n => n.runs.find? (fun e => e.idx = 0))).map (·.mode) = some .ended) := by decide +kernel

/-- An entry that ends at once, one with no context, and one that cannot be read. -/
theorem witness_EntriesIssue_ends :
    (let d := ent 1 0x100 0 0
     let s := wEnt (d.take 8 ++ [0, 0, 0, 0] ++ d.drop 12)
     let n := { sent0 [] with next := 0 }
     ((s.entryBytes n).map (fun b => (s.rejects 127 (s.req 1) b 0, s.noContext (s.newRun 127 n (s.req 1) b 0),
       emptyStatus (s.newRun 127 n (s.req 1) b 0)))) = some (none, false, some (1, 1))) ∧
    (let s : State := { wEnt (entOf 4) with ctxs := [] }
     let n := { sent0 [] with next := 0 }
     s.mayIssue 127 n false = true ∧ s.rejects 127 (s.req 1) (entOf 4) 0 = none ∧ s.noContext (s.newRun 127 n (s.req 1) (entOf 4) 0) = true) ∧
    (let s : State := wEnt (entOf 0)
     let n := { sent0 [] with next := 0, saddr := 2 ^ 47 }
     s.mayIssue 127 n true = true ∧ s.entryBytes n = none) ∧
    ((world {} run0).sent? 127 1 = none ∧ State.reset.alive = false) := by decide +kernel

/-- Nothing to take, and an aborted sentence with an entry unissued. -/
theorem witness_EntryCompletes_abort :
    ((world {} run0).issues = true ∧ (world {} run0).candidates 127 = [] ∧ (world {} run0).poundAt 126 = none) ∧
    (let n := { sent0 [] with next := 1, nent := 3, aborting := some 7 }
     let s : State := { world {} run0 with pounds := [(127, { service := [(0, some n)] })] }
     s.alive = true ∧ s.sent? 127 0 = some n ∧ n.runs.find? (fun e => e.idx = 1) = none ∧ n.failed = none ∧ s.recordWaits n = false ∧
       (0 : Nat) ≠ n.next) := by decide +kernel

/-- The hypotheses of `Obligations.Doorbells` can be met. -/
theorem witness_Doorbells :
    (∀ x ∈ [({ st := .enabled, sqLog := 4, cqLog := 4 } : Queue), {}, { st := .enabled, sqLog := 4, cqLog := 4, remote := some 1 }],
      let s : State := { up with queues := NMap.set {} [] 0 x }
      invB s = true ∧ s.answers .pcie .db = true ∧ s.queue 0 = x ∧ x.held = [] ∧ x.owed = []) ∧
    ((({ st := .enabled, sqLog := 4, cqLog := 4 } : Queue).sqSize, ({ st := .enabled, sqLog := 4, cqLog := 4 } : Queue).cqSize) = (16, 16)) ∧
    (let s := (world {} run0).wr .lkpMemUsable 0 0 4096
     invB s = true ∧ s.net.rets.find? (fun t => t.1 = 0) = none ∧ (s.queue 0).st = .enabled ∧ (s.queue 0).held = [] ∧ (s.queue 0).owed = [] ∧
      (s.queue 0).cqFull = false ∧ (s.queue 0).cqHost = false ∧ s.ringCause false (s.queue 0) = 0) := by decide +kernel

/-- A queue descriptor: rings of 16 at 64 KiB and 128 KiB, EXPRESS or BATCH. -/
def desc0 (cls : Nat) : List Byte :=
  leB 8 65536 ++ leB 8 131072 ++ [4, 4, BitVec.ofNat 8 cls, 0, 0, 0, 0, 0, 1, 4, 8, 1] ++ List.replicate 36 0
/-- READY with a descriptor at address 0 and a queue. -/
def wQueue (d : List Byte) (x : Queue) : State :=
  { ({ up with mem := ((List.range d.length).zip d).foldl (fun m x => NMap.set 0 m x.1 x.2) [] } : State).wr .lkpMemUsable 0 0 4096 with
    queues := NMap.set {} [] 0 x }

/-- The hypotheses of `Obligations.Queues` can be met. -/
theorem witness_Queues :
    (∀ c ∈ [0, 2, 4], let s := wQueue (desc0 c) {}
      invB s = true ∧ s.answers .pcie .que = true ∧ s.up = true ∧ (s.queue 0).st = .disabled ∧
      s.readDev (s.rdPair .queTableLo .queTableHi + 64 * 0) 64 = some (desc0 c) ∧ descOk (desc0 c) = decide (c ≠ 4) ∧
      s.budget (queueOf (desc0 c)) = none) ∧
    (let s := up
     s.readDev (s.rdPair .queTableLo .queTableHi + 64 * 0) 64 = none ∧ (s.queue 0).st = .disabled) ∧
    (∀ x ∈ [QSt.enabled, .draining], ∀ b ∈ [false, true], let s := wQueue (desc0 0) { st := x, destroying := b }
      invB s = true ∧ s.alive = true ∧ (s.queue 0).st = x ∧ (s.queue 0).destroying = b ∧ (s.queue 0).held = [] ∧ (s.queue 0).owed = [] ∧
      s.reqs.any (fun e => e.2.live && decide (e.2.queue = 0)) = false) ∧
    (∀ n ∈ [0, 4096], let s := ({ world {} run0 with queues := [(0, { st := .enabled, sqLog := 4, cqLog := 4, sqTail := 1, batches := [(1, 1)] })] } : State).wr .lkpMemUsable 0 0 n
      s.alive = true ∧ s.nextQueue = some 0 ∧ (s.model (s.queue 0).model).firstPound = some 127 ∧
      (s.ringCause true (s.queue 0) = 0 ↔ n = 4096)) ∧
    (∀ k ∈ [1, 2], let s := wQueue (desc0 0) { st := .enabled, stall := k }
      (s.queue 0).stall = k ∧ s.ringCause true (s.queue 0) = 0 ∧ s.ringCause false (s.queue 0) = 0) ∧
    (subFault (List.replicate 32 0) ≠ none ∧
      (let d := leB 8 4096 ++ leB 2 1 ++ List.replicate 22 0
       subFault d = none ∧ bit (leAt d 12 1) 3 = false ∧ bit (leAt d 12 1) 0 = false)) := by decide +kernel

/-- READY with one context, a pool of two adapters and PACK 1 in the registers. -/
def wCtx (x : Ctx) (pack : Nat) : State :=
  { (((up.wr .lkpMemUsable 0 0 4096).wr .stmPack 0 0 pack).wr .imgAdpCfg 0 0 2) with ctxs := NMap.set {} [] 0 x }

/-- The hypotheses of `Obligations.ContextLife` can be met. -/
theorem witness_ContextLife :
    (invB (wCtx {} 1) = true ∧ (wCtx {} 1).inBlocks ((wCtx {} 1).rdPair .stmTableLo .stmTableHi + 128 * 0) 128 = true) ∧
    (let s := wCtx {} 0; invB s = true ∧ s.up = true ∧ s.answers .pcie .stm = true ∧ s.packId = 0) ∧
    (∀ x ∈ [CtxSt.bound, .retiring, .retired], ∀ n ∈ [0, 1], let s := wCtx { st := x, pack := 1, inflight := n } 1
      invB s = true ∧ s.up = true ∧ s.answers .pcie .stm = true ∧ s.packId = 1 ∧ s.ctxOfPack s.packId = some 0 ∧ (s.ctx 0).st = x ∧
      (s.ctx 0).inflight = n) ∧
    (let s := wCtx {} 1
     s.packId = 1 ∧ s.ctxOfPack s.packId = none ∧
     (List.range (s.ctxs.length + 1)).find? (fun i => decide (i < 65536) && decide ((s.ctx i).st = .free)) = some 0 ∧
     (s.takeSlot 0).1 = some 0) := by decide +kernel

/-- READY with a peer that has one message for this device, and an outstanding adapter message. -/
def wMsg (typ : Nat) (d : List Byte) (tags : List AdpTag) (want : List (Nat × Nat)) : State :=
  { (wCtx { st := .bound } 1).wr .imgAdpTime 0 0 1 with
    adps := [(0, { used := true, useCount := 3 })],
    net := { peers := [(0, { st := .open_, ch0 := { inbox := [⟨typ, d, 1⟩] } })], tags := tags, want := want } }

/-- The hypotheses of `Obligations.AdapterTraffic` can be met. -/
theorem witness_AdapterTraffic :
    (∀ w ∈ [[], [(0, 0)]], let s := wMsg 0x22 [] [] w
      invB s = true ∧ s.alive = true ∧ List.find? (fun (x : Nat × AdpSlot) => x.2.fetching && decide (x.2.ctx = 0)) s.adps = none ∧
      s.net.want.any (·.1 = 0) = !w.isEmpty ∧ s.rf .imgAdpTime 0 7 0 ≠ 0 ∧ (up.wr .imgAdpTime 0 0 0).rf .imgAdpTime 0 7 0 = 0) ∧
    up.nextMsg 0 0x22 = none ∧
    (∀ ts ∈ [[], [(⟨1, 0, 0, false, false⟩ : AdpTag)]], let d := leB 4 1 ++ [0, 0, 0, 0]
      (wMsg 0x22 d ts []).nextMsg 0 0x22 = some (0, ⟨0x22, d, 1⟩) ∧
      ((wMsg 0x22 d ts []).net.tags.find? (fun t => decide (t.tag = leAt d 0 4) && !t.write)) = ts.head?) ∧
    (let d := leB 4 1 ++ [0, 0, 0, 0]; let s := wMsg 0x24 d [⟨1, 0, 0, true, false⟩] []
     invB s = true ∧ s.nextMsg 0 0x24 = some (0, ⟨0x24, d, 1⟩) ∧
     s.net.tags.find? (fun t => decide (t.tag = leAt d 0 4) && t.write) = some ⟨1, 0, 0, true, false⟩ ∧ leAt d 4 1 = 0) := by decide +kernel

/-- The hypotheses of `Obligations.RollbackRestores` can be met. -/
theorem witness_RollbackRestores :
    (∀ x ∈ [({ st := .retired } : Ctx), { st := .bound, inflight := 1 }, { st := .bound }, { st := .bound, ckpts := [(0, 0)] },
        { st := .bound, ckpts := [(0, 2)] }], let s := wCtx x 1
      let fit := (s.ctx 0).ckpts.filter (fun e => decide (e.2 / 2 ≤ s.rd .chkArgLo + 2 ^ 32 * s.rd .chkArgHi) && s.ckptReads 0 e.1 e.2)
      invB s = true ∧ s.answers .pcie .chk = true ∧ s.chkRuns = false ∧ s.ctx 0 = x ∧
      fit = x.ckpts.filter (fun e => decide (e.2 = 0))) ∧
    (let s := (wCtx {} 1).wr .chkCmd 0 0 0
     s.answers .pcie .chk = true ∧ State.reset.answers .pcie .chk = false) := by decide +kernel

/-- READY with one model. -/
def wMdl (m : Model) : State := { up.wr .lkpMemUsable 0 0 4096 with models := [(0, m)] }

/-- The hypotheses of `Obligations.ImageStaging` can be met. -/
theorem witness_ImageStaging :
    (invB State.reset = true ∧ State.reset.up = false ∧ State.reset.answers .lkp .img = true) ∧
    (∀ x ∈ [SSt.staged, .receiving, .bad], ∀ n ∈ [0, 1], let s := (wMdl { sst := x, hold := true }).wr .imgArg 0 0 n
      invB s = true ∧ s.answers .pcie .img = true ∧ s.up = true ∧ s.imgSel = 0 ∧ (s.model 0).sst = x ∧
      (s.rf .imgArg 0 23 0 % 16 = 0 ↔ n = 0)) ∧
    up.nextMsg 0 0x20 = none ∧
    (∀ x ∈ [SSt.idle, .receiving], ∀ n ∈ [0, 1], let d := List.replicate 24 0 ++ leB 2 n ++ List.replicate 6 0
      let s := { wMsg 0x20 d [] [] with models := [(0, { sst := x, hold := true })] }
      s.alive = true ∧ s.nextMsg 0 0x20 = some (0, ⟨0x20, d, 1⟩) ∧ (leAt d 0 2, leAt d 16 8, leAt d 24 2) = (0, 0, n) ∧
      ((s.tookMsg 0 0).models.any (fun e => decide (e.2.sst = .receiving) || (decide (e.2.sst = .bad) && e.2.rxFirst.isSome)) =
        decide (x = .receiving)) ∧ ((s.tookMsg 0 0).model 0).sst = x ∧ ((s.tookMsg 0 0).model 0).rxFirst = none ∧
      (s.tookMsg 0 0).rb .imgChainCfg 0 0 = false) := by decide +kernel

/-- The hypotheses of `Obligations.Locks` can be met. -/
theorem witness_Locks :
    (∀ i ∈ [none, some img0, some { img0 with reload := true, nsets := 2 }],
      let s := wMdl { mst := .serving, cur := i, refCur := true }
      invB s = true ∧ s.answers .pcie .img = true ∧ s.up = true ∧ s.imgSel = 0 ∧ (s.model 0).mst = .serving ∧ (s.model 0).cur = i ∧
      (s.model 0).refCur = true) ∧
    (∀ x ∈ [MSt.serving, .stalled, .incomplete, .locking, .absent], ∀ r ∈ [false, true],
      let s := wMdl { mst := x, sst := .staged, cur := some img0, refCur := r, hold := true }
      invB s = true ∧ s.imgSel = 0 ∧ (s.model 0).mst = x ∧ (s.model 0).sst = .staged ∧ (s.model 0).goalRef = r) := by decide +kernel

/-- A lock to a second version whose pound closes: the layer changes, or nothing does. -/
def wClose (st : PLock) (ls : List Placement) (x : Core) : State :=
  let s := world x run0
  let q : PoundLock := ⟨127, 127, false, st, 1, if st = .filling then [(127, 0)] else [], [], [], [], 0⟩
  { s with reqs := [], pounds := [], arrays := [(arrId 127 0, { st := .ready })],
           models := [(0, { mst := .locking, cur := some img0, next := some { img0 with version := 2, layers := ls }, refCur := true, refNext := true,
                            pounds := [q] })] }

/-- The hypotheses of `Obligations.LockPoundDrains` can be met. -/
theorem witness_LockPoundDrains :
    (∀ ls ∈ [[], [layer0]], ∀ w ∈ [[], [{ wave0 with rep := 1 }]], let s := wClose .closing ls { waiting := w }
      s.alive = true ∧ (s.model 0).next = some { img0 with version := 2, layers := ls } ∧
      ((s.model 0).pound 127).map (fun q => (decide (q.st = .closing), s.canReach 0 q,
        (({ img0 with version := 2, layers := ls } : Image).changed (s.model 0).cur q 0).isEmpty)) = some (true, false, ls.isEmpty) ∧
      s.splitHolds 127 0 = !w.isEmpty) ∧
    (((wClose .open_ [] {}).model 0).pound 127).map (·.st) = some .open_ := by decide +kernel

/-- The hypotheses of `Obligations.LockPoundDrains` can be met. -/
theorem witness_LockPoundDrains_opening :
    (∀ st ∈ [ArrSt.ready, .failed], ∀ v ∈ [0, 2], let s := { (wClose .filling [layer0] { openings := [0] }).wr .arrVersion (arrId 127 0) 0 v with
        arrays := [(arrId 127 0, { st := st })] }
      s.alive = true ∧ (s.core 127).openings.contains 0 = true ∧ (s.arr (arrId 127 0)).st = st ∧
      ((s.openHolder 127 0).isSome = true ↔ v = 2)) ∧
    (∀ st ∈ [ArrSt.ready, .failed], let s := { wClose .filling [layer0] {} with arrays := [(arrId 127 0, { st := st })] }
      (s.core 127).openings.contains 0 = false ∧ (s.arr (arrId 127 0)).st = st ∧
      ((s.poundOf 127).map (fun x => (decide (x.2.st = .filling),
        x.2.arrays.find? (fun y => decide (y.1 = 127) && decide (s.fillArr x.2 y.1 y.2 = arrId 127 0)))) = some (true, some (127, 0)))) := by
  decide +kernel

/-- The hypotheses of `Obligations.CorrectionsApply` can be met. -/
theorem witness_CorrectionsApply_gain : ∀ x ∈ [(0, 0), (0, 65535), (65535, 0)], x.1 < 65536 ∧ x.2 < 65536 := by decide

/-- A slot period is at most 134 ns, so a set that last waited that long ago rests. -/
theorem rests_of {s : State} {c set : Nat} (h : s.setWaiting c set = false) (ht : (s.cal c set).lastWait + 134 ≤ s.time) :
    s.setRests c set = true := by
  have h1 : s.slotNs c ≤ 134 := by unfold State.slotNs State.wavConv; omega
  simp only [State.setRests, h, Bool.not_false, Bool.true_and, decide_eq_true_eq]
  omega

/-- A core with one column set, which rests. -/
def wSet (x : Core) : State := { world { x with tnd := .running } run0 with time := 1000000 }

/-- The hypotheses of `Obligations.CorrectionsApply` can be met. -/
theorem witness_CorrectionsApply :
    (∀ v ∈ [({ st := .pending } : CalSet), { st := .pending, due := 1 }, { st := .ramping, step := 0 },
        { st := .ramping, step := 254, startGain := [(0, 0)], target := [(0, 65535)] }, { st := .ramping, step := 255 }, { st := .collect1 }],
      let s := wSet { calSets := [(0, v)] }
      invB s = true ∧ s.works = true ∧ NMap.sorted (s.core 127).calSets = true ∧ s.cal 127 0 = v ∧ s.setWaiting 127 0 = false ∧
      (s.cal 127 0).lastWait + 134 ≤ s.time ∧ s.calQuiet 127 0 = true ∧ (v.st = .ramping → s.rampFor 127 0 = v)) ∧
    (let s := wSet { calSets := [(0, { st := .pending })], splits := [⟨wave0, 0, 0, [], [], false⟩] }
     s.calQuiet 127 0 = false ∧ s.setWaiting 127 0 = false ∧ (s.cal 127 0).lastWait + 134 ≤ s.time) ∧
    (let s := wSet { calSets := [(0, { st := .pending })], waiting := [wave0] }
     s.passBegins 127 0 = true ∧ s.calQuiet 127 0 = false ∧ s.works = true) ∧
    State.reset.works = false := by decide +kernel

/-- The hypotheses of `Obligations.CalibrationCommands` can be met. -/
theorem witness_CalibrationCommands :
    (∀ st ∈ [ArrSt.ready, .failed], ∀ v ∈ [0, 2], ∀ a ∈ [0, 65536], let s := { ((wClose .filling [layer0] {}).wr .arrVersion (arrId 127 0) 0 v).wr
        .corCalGainAddr 127 0 (a + 511) with arrays := [(arrId 127 0, { st := st })] }
      invB s = true ∧ s.answers .pcie .cal = true ∧ (s.arr (arrId 127 0)).st = st ∧ ((s.openHolder 127 0).isSome = true ↔ v = 2) ∧
      (s.rb .corCalGainAddr 127 16 = true ↔ a = 65536)) ∧ State.reset.answers .pcie .cal = false := by decide +kernel

/-- The hypotheses of `Obligations.CalibrationWindows` can be met. -/
theorem witness_CalibrationWindows :
    (∀ st ∈ [CalSt.collect1, .collect2, .ramping], let s := wSet { calSets := [(0, { st := st })] }
      invB s = true ∧ s.works = true ∧ NMap.sorted (s.core 127).calSets = true ∧ (s.cal 127 0).st = st ∧ (s.arr (arrId 127 0)).session = none) ∧
    (∀ n ∈ [127, 128], let s : State := { wSet {} with arrays := [(arrId 127 0, { st := .serving, session := some (n, 0) })] }
      (s.arr (arrId 127 0)).session = some (n, 0) ∧ s.works = true) ∧
    (∀ x ∈ [(1, 1), (65536, 1), (65535, 1)], ({ waves := x.1, satWaves := x.2 } : CalSet).tooSat = decide (x.1 < 65536)) ∧
    State.reset.works = false := by decide +kernel

/-- A table of one value at the first keys holds it at each of them. -/
theorem find_range {α : Type} (x : α) (n a p : Nat) (h : p < n) :
    NMap.find? ((List.range' a n).map (fun p => (p, x))) (a + p) = some x := by
  induction n generalizing a p with
  | zero => omega
  | succ n ih =>
    simp only [List.range'_succ, List.map_cons, NMap.find?]
    cases p with
    | zero => simp
    | succ p =>
      have := ih (a + 1) p (by omega)
      rw [show a + 1 + p = a + (p + 1) by omega] at this
      simp [show ¬a + (p + 1) < a by omega, this]

theorem get_range (x : CalTap) (n p : Nat) (h : p < n) :
    NMap.get {} ((List.range' 0 n).map (fun p => (p, x))) p = x := by
  have := find_range x n 0 p h
  rw [Nat.zero_add] at this
  simp only [NMap.get, this, Option.getD_some]

/-- The world with a set under calibration whose pairs have `n` samples each, and an image whose statistics are zeros. -/
def wCal (v : CalSet) (n : Nat) : State :=
  { wSet { calSets := [(0, { v with taps := (List.range' 0 514).map (fun p => (p, { n := n })) })] } with
    models := [(0, { mst := .serving, cur := some { img0 with stats := [(0, [])] }, refCur := true,
                     pounds := [⟨127, 127, false, .open_, 1, [], [], [], [], 0⟩] })] }

/-- A window is full when every pair has the samples that are asked for. -/
theorem full_of {v : CalSet} {n k : Nat} (hn : (wCal v n).calNwin 127 0 = some k) (ha : (wCal v n).calArrays 127 0 = [(0, 0)])
    (ht : ((wCal v n).cal 127 0).taps = (List.range' 0 514).map (fun p => (p, { n := n }))) :
    (wCal v n).windowFull 127 0 = decide (k ≤ n) := by
  simp only [State.windowFull, hn, ha, ht, List.all_cons, List.all_nil, Bool.and_true]
  rw [Bool.eq_iff_iff]
  simp only [List.all_eq_true, List.mem_range]
  constructor
  · intro h
    have h0 := of_decide_eq_true (h 0 (by omega))
    simpa only [get_range _ _ _ (show 0 < 514 by omega), Nat.mul_zero, Nat.zero_add, decide_eq_true_eq] using h0
  · intro h p hp
    simpa only [get_range _ _ _ hp, Nat.mul_zero, Nat.zero_add, decide_eq_true_eq] using of_decide_eq_true h

/-- The hypotheses of `Obligations.CalibrationWindows` can be met. -/
theorem witness_CalibrationWindows_full : (wCal { st := .collect2 } 65536).windowFull 127 0 = true :=
  (full_of (k := 65536) (by decide +kernel) (by decide +kernel) (by decide +kernel)).trans (by decide)

/-- The hypotheses of `Obligations.CalibrationWindows` can be met. -/
theorem witness_CalibrationWindows_open : (wCal { st := .collect1 } 65535).windowFull 127 0 = false :=
  (full_of (k := 65536) (by decide +kernel) (by decide +kernel) (by decide +kernel)).trans (by decide)

/-- What the second window's tests name, of a set. -/
def causeOf (v : CalSet) : Option (Nat × Nat × Nat) :=
  let s := { wCal {} 0 with cores := [(127, { tnd := .running, calSets := [(0, v)] })] }
  let e := s.estimates 127 0
  s.windowCause 127 0 e.1 e.2 (s.quantGains 127 0) (s.cal 127 0).zeroMeans 0

/-- Windows that fail by an offset, by a gain, by saturation, and by nothing. -/
theorem witness_CalibrationWindows_causes :
    causeOf { st := .collect2, offs1 := [(3, 1)] } = some (1, 0, 3) ∧ causeOf { st := .collect2, gains1 := [(4, 2)] } = some (2, 0, 4) ∧
    causeOf { st := .collect2, sat1 := true } = some (5, 0, 0) ∧ causeOf { st := .collect2 } = none := by decide +kernel

/-- READY with monitor converter 0 in a mode. -/
def wMon (m : Mon) (ctrl : Nat) : State := { up.wr .monCtrl 0 0 ctrl with mons := NMap.set {} [] 0 m }

/-- The hypotheses of `Obligations.Monitors` can be met. -/
theorem witness_Monitors :
    (∀ m ∈ [({} : Mon), { seqMode := false }, { seqMode := false, main := some 3 }, { injPos := some 0, injMore := true }],
      let s := wMon m 4
      invB s = true ∧ s.answers .pcie .mon = true ∧ s.boot.inReset = false ∧ s.mon 0 = m ∧ s.rf .monCtrl 0 1 0 = 0 ∧
      s.rb .monCtrl 0 2 = true ∧ s.stale.contains 0 = false ∧ ({ s with stale := [0] } : State).stale.contains 0 = true ∧
      ((s.monNow 0).isSome = true ↔ m ≠ { seqMode := false })) ∧
    (let v : Word := BitVec.ofNat 32 (10 * 65536 + 1)
     v.toNat &&& Reg.monCtrl.mask [.rsv] = 0 ∧ v.toNat % 4 ≤ 1 ∧ 10 ≤ fld v.toNat 31 16) ∧
    (let s := wMon { seqMode := false, main := some 3 } 4
     s.monNow 0 = some (0, 3) ∧ (∀ k < 16, bit (s.rd .monWinCfg 0 k) 16 = false) ∧ isTemp 0 3 = true ∧
       tempOf 1100 < (16 * s.rf .pwrCfg 0 15 8 : Nat)) := by decide +kernel

/-- READY as a device of a replica group. -/
def wTal (t : Tal) : State := { up with tal := t }

/-- The hypotheses of `Obligations.GroupCommands` can be met. -/
theorem witness_GroupCommands :
    (∀ t ∈ [({} : Tal), { st := .member, members := [0, 1] }], let s := wTal t
      invB s = true ∧ s.answers .pcie .tal = true ∧ s.tal = t ∧ s.talMe = 0) ∧
    (∀ n ∈ [0, 2 ^ 31], ((wTal {}).wr .chkCkptCfg 0 0 n).rb .chkCkptCfg 0 31 = decide (n ≠ 0)) ∧
    ((wTal {}).wr .chkCkptCfg 0 0 (2 ^ 31 + 5)).rf .chkCkptCfg 0 12 0 ≠ ((wTal {}).wr .chkCkptCfg 0 0 (2 ^ 31 + 5)).rf .talCfg 0 12 0 ∧
    up.nextMsg 0 0x30 = none := by decide +kernel

/-- The hypotheses of `Obligations.GroupCommands` can be met. -/
theorem witness_GroupCommands_messages :
    (∀ ok ∈ [false, true], let s0 := { wMsg 0x30 [] [] [] with tal := { st := .forming, members := [0] } }
      let d := [0, 1, 0, 0] ++ leB 4 (s0.talCrc + if ok then 0 else 1)
      let s := { wMsg 0x30 d [] [] with tal := { st := .forming, members := [0] } }
      s.nextMsg 0 0x30 = some (0, ⟨0x30, d, 1⟩) ∧ (s.tookMsg 0 0).ofGroup d = true ∧ leAt d 1 1 ≠ (s.tookMsg 0 0).talMe ∧
      (s.tookMsg 0 0).tal.st = .forming ∧ (leAt d 4 4 = (s.tookMsg 0 0).talCrc ↔ ok = true) ∧ leAt d 2 1 ≠ 3) ∧
    (∀ k ∈ [0x32, 0x33], ∀ i ∈ [0, 1, 2], ∀ n ∈ [2, 3], ∀ op ∈ [false, true], let d := [0, 1, BitVec.ofNat 8 i, 0] ++ leB 8 (if op then operatorRound else 5)
      let s := { wMsg k d [] [] with tal := { st := .member, members := List.range n, votes := [(2, i)] } }
      s.alive = true ∧ s.nextMsg 0 k = some (0, ⟨k, d, 1⟩) ∧ (s.tookMsg 0 0).ofGroup d = true ∧ leAt d 1 1 ≠ (s.tookMsg 0 0).talMe ∧
      (s.tookMsg 0 0).tal.active = true ∧ (s.tookMsg 0 0).tal.members.contains (leAt d 1 1) = true ∧
      ((s.tookMsg 0 0).tal.members.contains i = decide (i < n)) ∧ (leAt d 4 8 = operatorRound ↔ op = true)) := by
  decide +kernel

/-- The hypotheses of `Obligations.GroupCommands` can be met. -/
theorem witness_GroupCommands_sync :
    (∀ st ∈ [RepSt.syncing, .member], let d := List.replicate 20 0 ++ leB 16 1
      let s := { wMsg 0x34 d [] [] with tal := { st := st, members := [0] }, ctxs := [(0, { st := .bound, pack := 1 })] }
      s.nextMsg 0 0x34 = some (0, ⟨0x34, d, 1⟩) ∧ (s.tookMsg 0 0).tal.st = st ∧ ((s.tookMsg 0 0).ctx (leAt d 0 2)).st = .bound ∧
      ((s.tookMsg 0 0).ctx (leAt d 0 2)).pack = leAt d 20 16 ∧ ((s.tookMsg 0 0).ctx (leAt d 0 2)).stBlocks = leAt d 2 2) := by
  decide +kernel

/-- The hypotheses of `Obligations.GroupRounds` can be met. -/
theorem witness_GroupRounds :
    (let t : Tal := { st := .member, members := [0, 1], tallies := [(40, []), (41, [])] }
     t.members ≠ [] ∧ ∀ m ∈ t.members, (t.tallies.find? (8 * 5 + m)).map tallyCore = some (tallyCore [])) ∧
    (∀ t ∈ [({} : Tal), { st := .member, members := [0] }, { st := .member, members := [0, 1], closed := 1 }], let s := wTal t
      s.alive = true ∧ s.tal = t ∧ s.talMe = 0 ∧ (s.tal.active = true ↔ t.st = .member) ∧ 1000000 * s.rf .talTime 0 7 0 ≤ 10 ^ 9 ∧
      ({ s with time := 10 ^ 9 } : State).tal.sentAt + 1000000 * s.rf .talTime 0 7 0 ≤ ({ s with time := 10 ^ 9 } : State).time) ∧
    (∀ i ∈ [1, 2], let d := [0, BitVec.ofNat 8 i] ++ List.replicate 62 0
      let s := { wMsg 0x31 d [] [] with tal := { st := .member, members := [0, 1] } }
      s.nextMsg 0 0x31 = some (0, ⟨0x31, d, 1⟩) ∧ (s.tookMsg 0 0).ofGroup d = true ∧ (s.tookMsg 0 0).tal.active = true ∧
      ((s.tookMsg 0 0).tal.members.contains (leAt d 1 1) = decide (i = 1)) ∧ leAt d 1 1 ≠ (s.tookMsg 0 0).talMe ∧
      (s.tookMsg 0 0).tal.decided ≤ leAt d 8 8) := by decide +kernel

/-- A hello of a device that joins, forms or synchronises, at a device in each of those states. -/
theorem witness_GroupCommands_hello :
    ∀ st ∈ [RepSt.idle, .forming, .syncing, .member], ∀ q ∈ [1, 2, 3], let d := [0, 1, BitVec.ofNat 8 q, 0] ++ leB 4 0
      let s := { wMsg 0x30 d [] [] with tal := { st := st, members := [0] } }
      s.alive = true ∧ s.nextMsg 0 0x30 = some (0, ⟨0x30, d, 1⟩) ∧ (s.tookMsg 0 0).tal.st = st ∧ (s.tookMsg 0 0).ofGroup d = true ∧
      leAt d 2 1 = q ∧ leAt d 1 1 ≠ (s.tookMsg 0 0).talMe ∧ ((s.tookMsg 0 0).tal.active = true ↔ st = .member) := by decide +kernel

/-- A round that closes, of one member and of two, and a tally that waits. -/
theorem witness_GroupRounds_due :
    (∀ ms ∈ [[0], [0, 1]], let s := wTal { st := .member, members := ms }
      s.alive = true ∧ s.tal.active = true ∧ s.tal.closed = 0 ∧ s.tal.closed ≤ s.tal.decided ∧ s.tal.members.length = ms.length) ∧
    (let s : State := { wTal { st := .member, members := [0, 1], closed := 1 } with time := 10 ^ 9 }
     1 < s.tal.members.length ∧ s.tal.decided < s.tal.closed ∧ s.tal.sentAt + 1000000 * s.rf .talTime 0 7 0 ≤ s.time) := by decide +kernel

/-- A Sirin table whose peer 0, on port 0, and that port's own entry are valid. -/
def table0 : List Byte := List.replicate 17 0 ++ [1] ++ List.replicate (64 * 16 + 1) 0 ++ [1] ++ List.replicate 44 0
/-- READY with port 0 up or down, the transport on, and one peer. -/
def wNet (up_ : Bool) (x : Peer) : State :=
  { ((up.wr .ethPortCfg 0 0 256).wr .ethSrnCfg 0 0 (65536 + 5 * 1048576)).wf_ .ethPortStatus 0 0 0 (b2n up_) with
    net := { table := table0, peers := NMap.set {} [] 0 x }, time := 1000 }

/-- The hypotheses of `Obligations.EthernetPorts` can be met. -/
theorem witness_EthernetPorts :
    (∀ b ∈ [false, true], let s := wNet b {}
      invB s = true ∧ s.alive = true ∧ s.linkUp 0 = b ∧ s.portRate 0 = some 4 ∧ s.portRate 1 = none) ∧
    (∀ f ∈ [[], List.replicate 12 255 ++ [0x08, 0x00], List.replicate 12 0 ++ [0x86, 0xDD], List.replicate 12 255 ++ [0x08, 0x06, 0]], f.length ≤ 9212 ∧
      (wNet true {}).localValid 0 = true ∧ ((14 ≤ f.length ∧ (f.take 6 = (wNet true {}).srnBytes 0 40 6 ∨ (f.take 1).any (fun b => b.getLsbD 0) = true)) ↔ f ≠ [])) := by
  decide +kernel

/-- The hypotheses of `Obligations.Peers` can be met. -/
theorem witness_Peers :
    (∀ st ∈ [PeerSt.closed, .opening, .open_, .unreachable], ∀ k ∈ [1, 2, 3, 4], let s := wNet true { st := st, ctl := [⟨k, 0, 0, 0, 0, 0⟩] }
      s.alive = true ∧ s.answers .pcie .srn = true ∧ (s.peer 0).st = st ∧ s.srnUsable 0 = true ∧
      (s.takeCtl 0 k).1 = some ⟨k, 0, 0, 0, 0, 0⟩ ∧ ((s.takeCtl 0 k).2.peer 0).st = st ∧ (s.takeCtl 0 k).2.srnUsable 0 = true ∧
      (s.takeCtl 0 k).2.srnUsable 1 = false ∧ (s.takeCtl 0 (k % 4 + 1)).1 = none) ∧
    ((wNet true {}).rb .ethSrnCfg 0 16 = true ∧ up.rb .ethSrnCfg 0 16 = false ∧
      ((up.wr .lkpMemUsable 0 0 4096).readDev ((up.wr .lkpMemUsable 0 0 4096).rdPair .ethSrnTableLo .ethSrnTableHi) 21504).isSome = true) ∧
    (∀ x ∈ [(0, 0), (5, 0), (0, 5000)], let o : OutPkt := ⟨⟨0, 0x12, 0, []⟩, x.1, x.2, 0, false⟩
      let s := wNet true { st := .open_, ch0 := { out := [o] } }
      ((s.peer 0).chan (0 : Fin 2)).out = [o] ∧ ((s.peer 0).chan (1 : Fin 2)).out = [] ∧ (s.peer 0).st = .open_ ∧
      (o.sentAt + o.timeout ≤ s.time ↔ x.2 = 0) ∧ (o.retx < s.rf .ethSrnCfg 0 23 20 ↔ x.1 = 0)) := by decide +kernel

/-- The hypotheses of `Obligations.PacketsReassemble` can be met. -/
theorem witness_PacketsReassemble :
    (1 < 2 ∧ 0 < 256 ∧ 2 ^ 32 - 1 < 2 ^ 32 ∧ (List.replicate 300 (0 : Byte)).length ≤ 512 * 256) := by decide +kernel

/-- READY with a queue, a usable peer and a message of it. -/
def wReq (typ : Nat) (d : List Byte) (x : Queue) : State :=
  { wNet true { st := .open_, ch0 := { inbox := [⟨typ, d, 1⟩] } } with queues := NMap.set {} [] 0 x }

/-- The hypotheses of `Obligations.RequestMessages` can be met. -/
theorem witness_RequestMessages :
    (let s := wNet true {}
     s.alive = true ∧ s.nextMsg 0 0x10 = none ∧ s.nextMsg 0 0x12 = none ∧ s.nextMsg 0 0x13 = none) ∧
    (∀ x ∈ [({ st := .enabled, sqLog := 4, cqLog := 4 } : Queue), {}], ∀ n ∈ [1, 20], let d := [0, 0, BitVec.ofNat 8 n, 0]
      let s := wReq 0x10 d x
      s.nextMsg 0 0x10 = some (0, ⟨0x10, d, 1⟩) ∧ (s.tookMsg 0 0).queue (leAt d 0 2) = x ∧ leAt d 0 2 < 32768 ∧ x.sqHost = false ∧
      x.rung = false ∧ (x.st = .enabled → (leAt d 2 1 ≤ x.sqSize - 1 - x.unread ↔ n = 1)) ∧ bit (leAt d 3 1) 0 = false) ∧
    (∀ k ∈ [0x12, 0x13], (wReq k [] {}).nextMsg 0 k = some (0, ⟨k, [], 1⟩)) := by decide +kernel

/-- The hypotheses of `Obligations.TimeBaseAndPcie` can be met. -/
theorem witness_TimeBaseAndPcie :
    (∀ p ∈ [PtpSt.off, .acquiring, .synced, .lost], let s : State := { up with tb := { ptp := p, good := 15 } }
      invB s = true ∧ s.boot.inReset = false ∧ s.alive = true ∧ s.tb.ptp = p ∧ s.tb.good = 15 ∧ s.rf .tbsCfg 0 11 8 = 0 ∧
      s.answers .pcie .tbs = true) ∧
    (∀ st ∈ [PtpSt.acquiring, .synced], let s : State := { up with tb := { ptp := st }, time := 3000000000 }
      s.alive = true ∧ (s.tb.ptp = .acquiring ∨ s.tb.ptp = .synced) ∧ s.tb.lastSync + 3000000000 ≤ s.time) ∧
    (State.reset.boot.inReset = true ∧ State.reset.alive = false ∧ State.reset.answers .pcie .tbs = false) ∧
    (∀ v ∈ [0, 1, 24, 2 ^ 31], (v &&& Reg.tbsCfg.mask [.rsv] = 0 ∧ fld v 4 3 ≠ 3 ↔ v < 24)) := by decide +kernel

/-- A request of the attestation service. -/
def att0 (op : Nat) : List Byte := ascii 67 75 65 84 ++ leB 2 op ++ List.replicate 34 0

/-- The hypotheses of `Obligations.SidePorts` can be met. -/
theorem witness_SidePorts :
    ((attestOk (att0 1) 1 = true ∧ attestOk (att0 2) 2 = true ∧ attestOk (att0 2) 1 = false) ∧
     up.mgmtUp = true ∧ (up.ports.quotes.filter (fun t => up.time < t + 1000000000)).length < 100 ∧ State.reset.mgmtUp = false) ∧
    (let s : State := { up.wr .chkEvtCfg 0 0 1 with ev := { waiting := [(0, evDev 0 0 0)] } }
     s.ev.waiting ≠ [] ∧ s.mgmtUp = true ∧ s.rb .chkEvtCfg 0 0 = true ∧ s.boot.inReset = false) ∧
    up.ev.waiting.length ≤ 44 := by decide +kernel

/-- The hypotheses of `Obligations.SidePorts` can be met. -/
theorem witness_SidePorts_checks :
    (∀ x ∈ [({} : Core), { failedCore := true }, { failedCore := true, retesting := true }], let s := world x run0
      invB s = true ∧ s.alive = true ∧ s.answers .pcie .chk = true ∧ s.core 127 = x ∧ s.chkRuns = x.retesting) ∧
    (∀ n ∈ [0, 4096], let s := (up.wr .lkpMemUsable 0 0 n).wr .chkScrubCfg 0 0 1
      s.alive = true ∧ s.scrubOn (.dram 1) = decide (n ≠ 0) ∧ (n ≠ 0 → 64 * 64 < s.usable) ∧ ctlOf (64 * 64) = 1 ∧
      s.poison.contains 64 = false) := by decide +kernel

/-- A peer whose OPEN falls due, one whose opening is over, and one that owes an acknowledgement. -/
theorem witness_Peers_timers :
    (∀ x ∈ [({ st := .opening } : Peer), { st := .unreachable }], let s : State := { wNet true x with time := 10 ^ 8 }
      s.alive = true ∧ s.srnUsable 0 = true ∧ (s.peer 0).openSent + 10000000 ≤ s.time ∧ (s.peer 0).since + 100000000 ≤ s.time) ∧
    (let s := wNet true { st := .open_, ch0 := { owed := 1 } }
     (s.peer 0).st = .open_ ∧ 0 < ((s.peer 0).chan 0).owed ∧ s.time < ((s.peer 0).chan 0).owedAt + 5000 ∧
       ((s.peer 0).chan 0).owedAt + 5000 ≤ ({ s with time := 5000 } : State).time) ∧ State.reset.alive = false := by decide +kernel

/-- A device under start-up, at a phase. -/
def wBoot (phase : Nat) : State := { ((({} : State).wr .bootStatus 0 0 phase).wr .pwrStatus 0 0 8) with boot := { inReset := false } }

/-- The hypotheses of `Obligations.Boot` can be met. -/
theorem witness_Boot :
    (State.reset.boot.inReset = true ∧ up.boot.inReset = false ∧ invB up = true ∧ up.pwrState ≠ 4 ∧ invB (up.setPwr 4) = true ∧
      (up.setPwr 4).pwrState = 4) ∧
    (∀ ph ∈ [1, 2, 3, 4], ∀ b ∈ [false, true], let s := { wBoot ph with boot := { inReset := false, fwAFailed := b, cfgAFailed := b } }
      invB s = true ∧ s.boot.inReset = false ∧ s.pwrState = 0 ∧ s.boot.fwAFailed = b ∧ s.boot.cfgAFailed = b ∧
      s.rf .bootStatus 0 3 0 = ph) ∧
    (invB up = true ∧ up.answers .pcie .boot = true) := by decide +kernel

/-- The hypotheses of `Obligations.StartUp` can be met. -/
theorem witness_StartUp :
    (∀ n ∈ [0, 3], let w := 1 + 4 * 1 + 16 * 3
      let s := { (((wBoot 4).wr .memStatus 0 0 w).wr .memStatus 1 0 w).wr .memStatus 2 0 w with
        boot := { inReset := false, trained := List.range n } }
      invB s = true ∧ s.boot.inReset = false ∧ s.pwrState = 0 ∧ s.rf .bootStatus 0 3 0 = 4 ∧ s.boot.trained.contains 3 = false ∧
      s.boot.trained.length = n ∧ (∀ i < 4, i ≠ 3 → s.rd .memStatus i = w) ∧ bit w 0 = true ∧ s.boot.sirin = [] ∧
      w = b2n (true && decide (1 < 3 ∧ 2 ≤ 3 ∧ 3 ≤ 5)) + 2 * b2n false + 4 * 1 + 16 * 3) ∧
    (up.recallDue = false ∧ (let s : State := { wBoot 4 with boot := { inReset := false, trained := List.range 4 }, cores := (List.range 128).map (fun c => (c, ({ tnd := .running } : Core))) }
      invB s = true ∧ s.recallDue = true)) ∧
    (∀ ms ∈ [[arrId 127 0], []], ∀ ph ∈ [5, 6], let s := { wBoot ph with boot := { inReset := false, toMargin := ms, toCal := ms }, cores := [] }
      invB s = true ∧ s.boot.toMargin.contains (arrId 127 0) = !ms.isEmpty ∧ s.boot.toCal.contains (arrId 127 0) = !ms.isEmpty ∧
      s.pwrState = 0 ∧ s.rf .bootStatus 0 3 0 = ph ∧ s.startDone = (ms.isEmpty && decide (ph = 6)) ∧ s.downPorts = [] ∧
      s.boot.retried.contains (arrId 127 0) = false ∧ (s.core 127).logicalOf 0 = some 0) ∧
    (let s := (wBoot 6).wr .ethPortCfg 0 0 256; s.startDone = true ∧ s.downPorts ≠ []) ∧
    (({ wBoot 6 with time := 3000000000 } : State).startDone = true) ∧
    (let s := { wBoot 6 with boot := { inReset := false, toCal := [arrId 127 3], retried := [arrId 127 3] } }
     invB s = true ∧ s.boot.toCal.contains (arrId 127 3) = true ∧ s.boot.retried.contains (arrId 127 3) = true ∧
      s.pwrState = 0 ∧ s.rf .bootStatus 0 3 0 = 6 ∧ (s.core 127).logicalOf 16 = none) ∧
    (let s : State := { up with pwr := { waking := true } }; invB s = true ∧ s.pwrState = 1 ∧ s.pwr.waking = true ∧ up.pwr.waking = false) := by
  decide +kernel

/-- The hypotheses of `Obligations.PowerStates` can be met. -/
theorem witness_PowerStates :
    (∀ n ∈ [1, 2], let s := up.setPwr n
      invB s = true ∧ s.answers .pcie .pwr = true ∧ s.pwrState = n ∧ s.entriesRunning = false ∧ s.alive = true ∧ s.boot.inReset = false) ∧
    State.reset.boot.inReset = true ∧
    (let s := up.setPwr 3; invB s = true ∧ s.boot.inReset = false ∧ s.coolEnough = true ∧ s.pwrState = 3 ∧ s.pwr.prev < 8) ∧
    (up.inputPower < up.rf .pwrCfg 0 27 16 * 1000000000 ∧ (up.wr .pwrCfg 0 0 0).inputPower = 0 ∧ (up.wr .pwrCfg 0 0 0).rf .pwrCfg 0 27 16 = 0) ∧
    (let s := ((((up.wr .pwrCfg 0 0 0).wr .monResult 0 40 (2 ^ 31 + 4095)).wr .monResult 0 34 (2 ^ 31 + 4095)))
     s.alive = true ∧ s.rf .pwrCfg 0 27 16 * 1000000000 < s.inputPower) ∧
    (∀ ps ∈ [[3], []], let s : State := { up.setPwr 4 with recs := { storing := ps } }
     invB s = true ∧ s.pwrState = 4 ∧ s.recs.dead = false ∧ s.recs.storing = ps) := by decide +kernel

/-- HALTED at its end, and a level of power that falls or has not come to its next millisecond. -/
theorem witness_PowerStates_more :
    (let s : State := { up.setPwr 3 with time := 100000000 }
     s.coolEnough = true ∧ s.pwr.hotAt + 100000000 ≤ s.time ∧ s.pwr.prev < 8) ∧
    (let s : State := { up with time := 10 ^ 8, pwr := { calm := [(4, 1)], power := 2 } }
     s.pwr.powerAt + 1000000 ≤ s.time ∧ s.pwr.thermAt + 1000000 ≤ s.time ∧ s.thrSignal 4 = false ∧
       100 * s.inputPower < 95 * (s.rf .pwrCfg 0 27 16 * 1000000000) ∧ s.pwr.calm.get 0 4 = 1 ∧ 1 + 9999999 ≤ s.time) ∧
    (up.time < up.pwr.powerAt + 1000000 ∧ up.time < up.pwr.thermAt + 1000000 ∧ State.reset.alive = false) := by decide +kernel

/-- Start-up and wake calibrations whose two null measurements are the same, and ones that differ. -/
theorem witness_StartUp_calibration :
    (∀ x ∈ [(0, true), (600, false)], nullAgree ⟨List.replicate 2056 0, List.replicate 2056 x.1, [], [], []⟩ = x.2) ∧
    (let s : State := { up with pwr := { waking := true } }; s.pwrState = 1 ∧ s.pwr.waking = true ∧ up.pwr.waking = false) := by
  decide +kernel

/-- READY with a record store. -/
def wRec (r : RecStore) (addr : Nat) : State := { up.wr .recAddr 0 0 addr with recs := r }

/-- The hypotheses of `Obligations.Records` can be met. -/
theorem witness_Records :
    (∀ r ∈ [({} : RecStore), { recalled := true }, { recalled := true, dirty := [5], run := some true, storing := [1] }, { recalled := true, dirty := [5] }],
      let s := wRec r 0
      invB s = true ∧ s.answers .pcie .recs = true ∧ s.alive = true ∧ s.recs.busy = (!r.recalled || r.run.isSome) ∧
      s.rf .recCfg 0 15 0 ≠ 0 ∧ (s.recs.dirtyPages ≠ [] ↔ r.dirty = [5])) ∧
    (∀ p ∈ [1, 127], let s := wRec { recalled := true, run := some true, storing := [p] } 0
      s.recs.run = some true ∧ s.recs.storing = [p] ∧ NMap.sorted s.recs.slots = true ∧ s.recs.retired.contains (2 * p) = false ∧
      s.recs.retired.contains (2 * p + 1) = false) ∧
    (∀ b ∈ [false, true], let s := wRec { recalled := true, slots := [(255, some ⟨1, b, false, .log []⟩)] } 0
      s.slotOk (255 / 2) (255 % 2) = b ∧ s.recs.busy = false) := by decide +kernel

/-- The hypotheses of `Obligations.Records` can be met. -/
theorem witness_Records_access :
    (∀ r ∈ [({ recalled := true, locked := true } : RecStore), { recalled := true }, { recalled := true, readPw := some [], writePw := some [], fails := 1 },
        { recalled := true, readPw := some [], writePw := some [], fails := 2 }], let s := wRec r (39 * 4096)
      invB s = true ∧ s.answers .pcie .recs = true ∧ s.recs.busy = false ∧ s.recs.locked = r.locked ∧ s.recs.readPw = r.readPw ∧
      s.recs.mayRead = (!r.locked && r.readPw.isNone) ∧ s.recs.mayWrite = (!r.locked && r.writePw.isNone) ∧
      s.rf .recAddr 0 18 2 / 1024 = 39) ∧
    some [] ≠ pwDigest (wRec {} 0).recs.pw ∧
    (∀ a ∈ [0, 2 ^ 31], let s := wRec { recalled := true } (127 * 4096 + 4092 + a)
      s.rf .recAddr 0 18 2 = 131071 ∧ 112 ≤ s.rf .recAddr 0 18 2 / 1024 ∧ NMap.sorted s.recs.user = true ∧
      s.rb .recAddr 0 31 = decide (a ≠ 0)) := by decide +kernel

/-- The hypotheses of `Obligations.CountersAndWindows` can be met. -/
theorem witness_CountersAndWindows :
    (∀ x ∈ [none, some (0, 0, 1)], let s := { (up.wr .lkpMemUsable 0 0 4096).wr .ctrSweepCfg 0 0 1 with sweep := { running := x }, time := 5000 }
      invB s = true ∧ s.answers .pcie .ctr = true ∧ s.answers .pcie .win = true ∧ s.answers .pcie .smp = true ∧ s.sweep.running = x ∧
      s.alive = true ∧ s.rf .ctrSweepCfg 0 19 0 ≠ 0 ∧ s.time % (1000 * s.rf .ctrSweepCfg 0 19 0) = 0 ∧
      s.inBlocks (s.sweepSlot 0) 8 = true ∧ s.wins.start = some 0 ∧ NMap.wf (fun _ => {}) s.wins.chans = true) ∧
    (let s : State := { up with wins := { start := none, chans := [(3, ⟨1, 2, 3⟩)] } }
     s.alive = true ∧ s.wins.start = none ∧ NMap.sorted s.wins.chans = true ∧
       s.time % (1000 * s.rf .ctrWinCfg 0 19 0) = 0 ∧ ({ s with time := 1 } : State).time % (1000 * s.rf .ctrWinCfg 0 19 0) ≠ 0) ∧
    (∀ v ∈ [0, 1, 1000000, 1000001], (BitVec.ofNat 32 v : Word) ≠ 0 ∧ (BitVec.ofNat 32 v : Word).toNat ≤ 1000000 ↔ v = 1 ∨ v = 1000000) ∧
    (let s := world { samples := [⟨7, [1], false, false⟩] } run0
     s.answers .pcie .smp = true ∧ ((s.core 127).samples.find? (fun y => decide (u32 y.seq = 7))).isSome = true ∧
      (s.core 127).samples.find? (fun y => decide (u32 y.seq = 8)) = none) := by decide +kernel

end Sys2Proof.Tests
end

section
/-! PROOFS. The remap tables of an array (R27 to R29, R60): where a logical row or pair stands, what a write of an entry
does, and what a discarded write leaves alone. -/
namespace Sys2Proof.Machine
open Sys2Proof

/-! ### Where a logical row or pair stands -/

/-- The place of logical number `l` under a remap table of `n` entries whose spares follow the `bound` regular places (R27,
R28): the row map and the column map are its two uses. -/
def remapped (entry : Nat → Nat) (n bound l : Nat) : Nat :=
  ((List.range n).find? (fun i => entry i = 2 ^ 31 + l)).elim l (bound + ·)

theorem State.physRow_eq_remapped (s : State) (a l : Nat) :
    s.physRow a l = remapped (fun i => s.rd .arrRowMap a i) 8 1032 l := by
  unfold State.physRow remapped
  split
  next i hfind => rw [hfind, Option.elim_some]
  next hfind => rw [hfind, Option.elim_none]

theorem State.physPair_eq_remapped (s : State) (a l : Nat) :
    s.physPair a l = remapped (fun i => s.rd .arrColMap a i) 2 514 l := by
  unfold State.physPair remapped
  split
  next i hfind => rw [hfind, Option.elim_some]
  next hfind => rw [hfind, Option.elim_none]

section
variable {entry : Nat → Nat} {n bound l : Nat}

theorem remapped_eq_self (h : ∀ i, i < n → entry i ≠ 2 ^ 31 + l) : remapped entry n bound l = l := by
  have hnone : (List.range n).find? (fun i => entry i = 2 ^ 31 + l) = none :=
    List.find?_range_eq_none.2 fun i hi => by simp only [decide_eq_false (h i hi), Bool.not_false]
  rw [remapped, hnone, Option.elim_none]

theorem remapped_eq_spare {i : Nat} (hi : i < n) (he : entry i = 2 ^ 31 + l)
    (huniq : ∀ k, k < n → entry k = 2 ^ 31 + l → k = i) : remapped entry n bound l = bound + i := by
  have hsome : (List.range n).find? (fun i => entry i = 2 ^ 31 + l) = some i := by
    refine List.find?_range_eq_some.2 ⟨decide_eq_true he, List.mem_range.2 hi, fun k hk => ?_⟩
    have hne : entry k ≠ 2 ^ 31 + l := fun hk' => Nat.ne_of_lt hk (huniq k (Nat.lt_trans hk hi) hk')
    simp only [decide_eq_false hne, Bool.not_false]
  rw [remapped, hsome, Option.elim_some]

theorem remapped_eq_self_or_spare (entry : Nat → Nat) (n bound m : Nat) :
    remapped entry n bound m = m ∨ bound ≤ remapped entry n bound m := by
  unfold remapped
  cases (List.range n).find? (fun i => entry i = 2 ^ 31 + m) with
  | none => exact .inl rfl
  | some i => exact .inr (Nat.le_add_right bound i)

/-- The regular place of a number that an entry names stays empty. -/
theorem remapped_ne_of_entry (hl : l < bound) {i : Nat} (hi : i < n) (he : entry i = 2 ^ 31 + l)
    (huniq : ∀ k, k < n → entry k = 2 ^ 31 + l → k = i) (m : Nat) : remapped entry n bound m ≠ l := by
  intro hm
  rcases remapped_eq_self_or_spare entry n bound m with h | h
  · have hml : m = l := h.symm.trans hm
    have hspare := remapped_eq_spare (bound := bound) hi he huniq
    rw [hml] at hm
    omega
  · omega

end

/-! ### The write of an entry -/

/-- A number of `w` bits is out of bounds, or a reserved bit above it is set, exactly when the 31 bits below VALID are out of
bounds (R60): the two checks of `State.mapWrite` are one. -/
theorem reserved_or_outside_iff (col : Bool) (v : Nat) :
    (v % 2 ^ 31 / 2 ^ (if col then 10 else 11) ≠ 0 ∨ (if col then 514 else 1032) ≤ v % 2 ^ (if col then 10 else 11)) ↔
      (if col then 514 else 1032) ≤ v % 2 ^ 31 := by
  cases col
  · simp only [Bool.false_eq_true, if_false]
    omega
  · simp only [if_true]
    omega

theorem State.mapWrite_eq (s : State) (p : Path) (a : Nat) (col : Bool) (i v : Nat) :
    let r : Reg := if col then .arrColMap else .arrRowMap
    s.mapWrite p a col i v =
      if (if col then 514 else 1032) ≤ v % 2 ^ 31 then s.ignored p (r.addr a i) 2
      else if bit v 31 && (List.range (if col then 2 else 8)).any (fun k => k ≠ i && s.rd r a k = v) then
        s.ignored p (r.addr a i) 3
      else if v = s.rd r a i then s
      else if s.arrBusy a then s.ignored p (r.addr a i) 1
      else (s.wr r a i v).touch (arrPage a) := by
  simp only [State.mapWrite, Bool.or_eq_true, decide_eq_true_eq, reserved_or_outside_iff]

section
variable {s : State} {path : Path} {c : CoreId} {sl : SlotId} {col : Bool} {n : Fin 8} (v : Word)

theorem exec_arrMapWrite_noEntry (hans : s.answers path .arr = true) (hcol : col = true) (hn : 2 ≤ n.val) :
    exec (.arrMapWrite path c sl col n v) s = .next (s.ignored path (Reg.arrColMap.addr (arrId c sl) n) 2) := by
  show execArrMapWrite path c sl col n v s = _
  simp only [execArrMapWrite, State.asked, hans, hcol, hn, if_true, Bool.true_and, decide_true]

theorem exec_arrMapWrite (hans : s.answers path .arr = true) (hcol : col = true → n.val < 2) :
    exec (.arrMapWrite path c sl col n v) s = .next (s.mapWrite path (arrId c sl) col n v.toNat) := by
  show execArrMapWrite path c sl col n v s = _
  have hentry : (col && decide (2 ≤ n.val)) = false := by
    cases col with
    | false => rfl
    | true => exact decide_eq_false (Nat.not_le.2 (hcol rfl))
  simp only [execArrMapWrite, State.asked, hans, hentry, if_true, Bool.false_eq_true, if_false]

end

/-! ### What a discarded write leaves alone, and what an effective one stores -/

/-- The control space of the cores starts at 0x0100_0000 (R9, R30), so every register of an array lies there. -/
theorem Reg.coreSpace_le_addr {r : Reg} (hr : r.spec.blk = .arr) (a k : Nat) : 0x01000000 ≤ r.addr a k := by
  simp only [Reg.addr, hr, Blk.base, coreBase]
  omega

/-- A discarded write changes no register of a core's control space: what it writes, the discard registers and
CHK_EVT_LOST, lies below (R13, R323). -/
theorem State.rd_ignored {lf lg : Nat} {cq : List Instr} {s : State} (h : s.Safe lf lg cq) (p : Path) (addr cause : Nat)
    {r : Reg} {i k : Nat} (ha : 0x01000000 ≤ r.addr i k) : (s.ignored p addr cause).rd r i k = s.rd r i k := by
  have hne {r' : Reg} (hr' : r'.addr 0 0 < 0x01000000) : r.addr i k ≠ r'.addr 0 0 := by omega
  have hflag := State.flag_safe s .lkpCsEvent 0 1 h
  have hbump := State.bump_safe _ .lkpCsIgnoredCount 0 1 hflag
  have hlast := State.wr_safe _ .lkpCsIgnoredLast 0 0 addr hbump
  calc (s.ignored p addr cause).rd r i k
      = (((s.flag .lkpCsEvent 0 1).bump .lkpCsIgnoredCount 0 1).wr .lkpCsIgnoredLast 0 0 addr).rd r i k :=
        State.rd_raise_ne hlast _ (hne (by decide))
    _ = ((s.flag .lkpCsEvent 0 1).bump .lkpCsIgnoredCount 0 1).rd r i k := State.rd_wr_ne hbump _ (hne (by decide))
    _ = (s.flag .lkpCsEvent 0 1).rd r i k := State.rd_wr_ne hflag _ (hne (by decide))
    _ = s.rd r i k := State.rd_wr_ne h _ (hne (by decide))

theorem State.touch_dirty (s : State) (page : Nat) : (s.touch page).recs.dirty.contains page = true := by
  unfold State.touch
  split
  · assumption
  · exact List.contains_iff_mem.2 List.mem_cons_self

/-- Settles O12: the place of a row or pair by `remapped`, and the write of an entry by the cases of `State.mapWrite_eq`. -/
theorem remapTables : Obligations.RemapTables := by
  unfold Obligations.RemapTables
  refine ⟨fun s a l hl => ?_, fun s a p hp => ?_, fun s path c sl col n v hInv hans => ?_⟩
  · simp only [State.physRow_eq_remapped]
    exact ⟨remapped_eq_self, fun i hi he huniq =>
      ⟨remapped_eq_spare hi he huniq, fun m _ => remapped_ne_of_entry hl hi he huniq m⟩⟩
  · simp only [State.physPair_eq_remapped]
    exact ⟨remapped_eq_self, fun i hi he huniq =>
      ⟨remapped_eq_spare hi he huniq, fun m _ => remapped_ne_of_entry hp hi he huniq m⟩⟩
  · refine ⟨exec_arrMapWrite_noEntry v hans, fun hcol => ?_⟩
    have hr : (if col then Reg.arrColMap else Reg.arrRowMap).spec.blk = .arr := by cases col <;> rfl
    simp only [exec_arrMapWrite v hans hcol, State.mapWrite_eq]
    refine ⟨fun hout => ?_, fun hnum => ?_⟩
    · rw [if_pos hout]
    · rw [if_neg (Nat.not_le.2 hnum)]
      refine ⟨fun hdup hchg hidle => ?_, fun hdup hchg hbusy => ?_, fun hdup hsame => ?_, fun hdup => ?_⟩
      · rw [hdup, if_neg Bool.false_ne_true, if_neg hchg, hidle, if_neg Bool.false_ne_true]
        refine ⟨_, rfl, rfl, ?_, State.touch_dirty _ _, State.touch_arrays _ _⟩
        rw [State.rd_touch, State.rd_wr hInv, Nat.mod_eq_of_lt v.isLt]
      · rw [hdup, if_neg Bool.false_ne_true, if_neg hchg, if_pos hbusy]
      · rw [hdup, if_neg Bool.false_ne_true, if_pos hsame]
      · rw [if_pos hdup]
        exact ⟨_, rfl, rfl, fun b k _ _ => State.rd_ignored hInv path _ 3 (Reg.coreSpace_le_addr hr b k),
          State.ignored_arrays _ _ _ _, State.ignored_mem _ _ _ _⟩

end Sys2Proof.Machine
end

section
/-! PROOFS. Rounding to nearest, and the draught and drive values of a wave (R7, R65, R66). -/
namespace Sys2Proof.Fp

theorem pow2_natCast (n : Nat) : pow2 (n : Int) = ((2 ^ n : Nat) : Rat) := by
  rw [pow2, if_pos (Int.natCast_nonneg n), Int.toNat_natCast]

theorem pow2_neg_natCast (n : Nat) : pow2 (-(n : Int)) = 1 / ((2 ^ n : Nat) : Rat) := by
  cases n with
  | zero => decide +kernel
  | succ n => rw [pow2, if_neg (by omega), Int.neg_neg, Int.toNat_natCast]

theorem natCast_two_pow_pos (n : Nat) : (0 : Rat) < ((2 ^ n : Nat) : Rat) :=
  Rat.natCast_pos.2 (Nat.two_pow_pos n)

theorem pow2_pos (e : Int) : 0 < pow2 e := by
  obtain ⟨n, rfl | rfl⟩ := Int.eq_nat_or_neg e
  · rw [pow2_natCast]
    exact natCast_two_pow_pos n
  · rw [pow2_neg_natCast, Rat.div_def, Rat.one_mul]
    exact Rat.inv_pos.2 (natCast_two_pow_pos n)

theorem pow2_add_one (e : Int) : pow2 (e + 1) = 2 * pow2 e := by
  obtain ⟨n, rfl | rfl⟩ := Int.eq_nat_or_neg e
  · rw [← Int.natCast_succ, pow2_natCast, pow2_natCast, Nat.pow_succ, Rat.natCast_mul, Rat.mul_comm]
    rfl
  · cases n with
    | zero => decide +kernel
    | succ n =>
      have hprev : -((n + 1 : Nat) : Int) + 1 = -(n : Int) := by omega
      have hpos := natCast_two_pow_pos n
      rw [hprev, pow2_neg_natCast, pow2_neg_natCast, Nat.pow_succ, Rat.natCast_mul]
      grind

theorem pow2_add_natCast (a : Int) (n : Nat) : pow2 (a + n) = pow2 a * pow2 n := by
  induction n with
  | zero => exact (congrArg pow2 (Int.add_zero a)).trans (Rat.mul_one _).symm
  | succ n ih => rw [Int.natCast_succ, ← Int.add_assoc, pow2_add_one, pow2_add_one, ih, ← Rat.mul_assoc, ← Rat.mul_assoc, Rat.mul_comm 2]

theorem pow2_add (a b : Int) : pow2 (a + b) = pow2 a * pow2 b := by
  obtain ⟨n, rfl | rfl⟩ := Int.eq_nat_or_neg b
  · exact pow2_add_natCast a n
  · have hsum := pow2_add_natCast (a + -(n : Int)) n
    have hone := pow2_add_natCast (-(n : Int)) n
    have hzero : pow2 0 = 1 := rfl
    rw [Int.neg_add_cancel_right] at hsum
    rw [Int.add_left_neg, hzero] at hone
    rw [hsum, Rat.mul_assoc, Rat.mul_comm (pow2 n), ← hone, Rat.mul_one]

theorem pow2_le_pow2 {a b : Int} (h : a ≤ b) : pow2 a ≤ pow2 b := by
  obtain ⟨n, rfl⟩ := Int.le.dest h
  have hone : (1 : Rat) ≤ pow2 n := by
    rw [pow2_natCast]
    exact Rat.natCast_le_natCast.2 Nat.one_le_two_pow
  have hmul := Rat.mul_le_mul_of_nonneg_left hone (Rat.le_of_lt (pow2_pos a))
  rwa [Rat.mul_one, ← pow2_add_natCast] at hmul

/-- R7 over the integers: the rounded quotient times the divisor lies within half a divisor of the dividend. -/
theorem rneDiv_nearest (n : Int) {d : Nat} (hd : 0 < d) :
    -(d : Int) ≤ 2 * (rneDiv n d * d - n) ∧ 2 * (rneDiv n d * d - n) ≤ d ∧
      ((2 * (rneDiv n d * d - n) = d ∨ 2 * (rneDiv n d * d - n) = -(d : Int)) → rneDiv n d % 2 = 0) := by
  have hrem : n - n / d * d = n % d := by rw [Int.emod_def, Int.mul_comm]
  have hlo : 0 ≤ n % d := Int.emod_nonneg n (by omega)
  have hhi : n % d < d := Int.emod_lt_of_pos n (by omega)
  have hup : (n / d + 1) * (d : Int) = n / d * d + d := by rw [Int.add_mul, Int.one_mul]
  simp only [rneDiv]
  by_cases hdown : 2 * (n - n / d * d) < d
  · rw [if_pos hdown]
    omega
  · rw [if_neg hdown]
    by_cases habove : (d : Int) < 2 * (n - n / d * d)
    · rw [if_pos habove, hup]
      omega
    · rw [if_neg habove]
      by_cases heven : n / (d : Int) % 2 = 0
      · rw [if_pos heven]
        omega
      · rw [if_neg heven, hup]
        omega

theorem mul_den_eq_num (q : Rat) : q * (q.den : Rat) = (q.num : Rat) := by
  have hden : (q.den : Rat) ≠ 0 := (Rat.ne_of_lt (Rat.natCast_pos.2 q.den_pos)).symm
  have hdiv := Rat.div_mul_cancel (a := (q.num : Rat)) hden
  rwa [← Rat.mkRat_eq_div, Rat.mkRat_self] at hdiv

/-- Twice the rounding error as a multiple of the denominator. -/
theorem two_mul_rne_error (q : Rat) :
    ((2 * (rne q * q.den - q.num) : Int) : Rat) = 2 * ((rne q : Rat) - q) * (q.den : Rat) := by
  rw [Rat.intCast_mul, Rat.intCast_sub, Rat.intCast_mul, ← mul_den_eq_num, Rat.intCast_natCast]
  grind

/-- R7: the rounded value lies within a half of the exact one, and is even where it is a half away. -/
theorem rne_nearest (q : Rat) :
    -1 / 2 ≤ (rne q : Rat) - q ∧ (rne q : Rat) - q ≤ 1 / 2 ∧
      (((rne q : Rat) - q = 1 / 2 ∨ (rne q : Rat) - q = -1 / 2) → rne q % 2 = 0) := by
  have hdef : rneDiv q.num q.den = rne q := rfl
  obtain ⟨hlo, hhi, htie⟩ := rneDiv_nearest q.num q.den_pos
  rw [hdef] at hlo hhi htie
  have hden : (0 : Rat) < q.den := Rat.natCast_pos.2 q.den_pos
  have herr := two_mul_rne_error q
  refine ⟨?_, ?_, fun hhalf => htie (hhalf.imp (fun h => ?_) (fun h => ?_))⟩
  · have hlo' := Rat.intCast_le_intCast.2 hlo
    rw [herr, Rat.intCast_neg, Rat.intCast_natCast] at hlo'
    have : -1 ≤ 2 * ((rne q : Rat) - q) := Rat.le_of_mul_le_mul_right (by grind) hden
    grind
  · have hhi' := Rat.intCast_le_intCast.2 hhi
    rw [herr, Rat.intCast_natCast] at hhi'
    have : 2 * ((rne q : Rat) - q) ≤ 1 := Rat.le_of_mul_le_mul_right (by grind) hden
    grind
  · apply Rat.intCast_inj.1
    rw [herr, h, Rat.intCast_natCast]
    grind
  · apply Rat.intCast_inj.1
    rw [herr, h, Rat.intCast_neg, Rat.intCast_natCast]
    grind

/-- Rounding keeps a value within integer bounds. -/
theorem rne_bounds {q : Rat} {lo hi : Int} (hlo : (lo : Rat) ≤ q) (hhi : q ≤ (hi : Rat)) : lo ≤ rne q ∧ rne q ≤ hi := by
  obtain ⟨hbelow, habove, -⟩ := rne_nearest q
  have hgt : ((lo - 1 : Int) : Rat) < (rne q : Rat) := by
    rw [Rat.intCast_sub]
    grind
  have hlt : (rne q : Rat) < ((hi + 1 : Int) : Rat) := by
    rw [Rat.intCast_add]
    grind
  have hgt' := Rat.intCast_lt_intCast.1 hgt
  have hlt' := Rat.intCast_lt_intCast.1 hlt
  omega

end Sys2Proof.Fp
end

section
open Sys2Proof
namespace Sys2Proof.Machine

/-- R65: a draught is that of the largest code of a live group. -/
theorem draught_eq_some {codes : List Nat} {d : Int} (h : draught codes = some d) :
    ∃ top ∈ codes, 0 < top / 8 ∧ (∀ c ∈ codes, 0 < c / 8 → c ≤ top) ∧
      d = ((top / 8 : Nat) : Int) - (if top % 8 = 0 then 15 else 14) := by
  unfold draught at h
  cases hlive : codes.filter (fun c => c / 8 ≠ 0) with
  | nil =>
    rw [hlive] at h
    exact absurd h (Option.some_ne_none d).symm
  | cons c cs =>
    have hmem_iff (x : Nat) : x ∈ c :: cs ↔ x ∈ codes ∧ 0 < x / 8 := by
      rw [← hlive, List.mem_filter, decide_eq_true_iff, Nat.pos_iff_ne_zero]
    have hmax : (c :: cs).max? = some ((c :: cs).foldl max 0) := by
      rw [List.max?_cons', List.foldl_cons, Nat.zero_max]
    obtain ⟨hmem, hge⟩ := List.max?_eq_some_iff.1 hmax
    obtain ⟨hcode, hpos⟩ := (hmem_iff _).1 hmem
    rw [hlive] at h
    exact ⟨_, hcode, hpos, fun x hx hxpos => hge x ((hmem_iff x).2 ⟨hx, hxpos⟩), (Option.some.inj h).symm⟩

/-- R65: the range of the draught. -/
theorem draught_bounds {codes : List Nat} {d : Int} (hcodes : ∀ sc ∈ codes, sc < 256) (h : draught codes = some d) :
    -14 ≤ d ∧ d ≤ 17 := by
  obtain ⟨top, hmem, hpos, -, rfl⟩ := draught_eq_some h
  have := hcodes top hmem
  split <;> omega

/-- R66: 2 × s / D of a code (e, m) under the draught d, as the drive value multiplies it. -/
def driveGain (sc : Nat) (d : Int) : Rat := ((8 + sc % 8 : Nat) : Rat) * Fp.pow2 (((sc / 8 : Nat) : Int) - 17 - d)

theorem driveVal_zero_group {sc : Nat} (h : sc / 8 = 0) (a d : Int) : driveVal a sc d = 0 := if_pos h

theorem driveVal_live {sc : Nat} (h : 0 < sc / 8) (a d : Int) : driveVal a sc d = Fp.rne (a * driveGain sc d) := by
  rw [driveVal, if_neg (Nat.ne_of_gt h), driveGain, Rat.mul_assoc]

theorem driveGain_nonneg (sc : Nat) (d : Int) : 0 ≤ driveGain sc d :=
  Rat.mul_nonneg Rat.natCast_nonneg (Rat.le_of_lt (Fp.pow2_pos _))

/-- R66: 2 × a × s / D is the activation times the gain. -/
theorem two_mul_scale_div (a : Rat) (sc : Nat) (d : Int) :
    2 * a * ((1 + ((sc % 8 : Nat) : Rat) / 8) * Fp.pow2 (((sc / 8 : Nat) : Int) - 15)) / Fp.pow2 d = a * driveGain sc d := by
  have hexp : ((sc / 8 : Nat) : Int) - 15 = (((sc / 8 : Nat) : Int) - 17 - d) + d + 2 := by omega
  have hfour : Fp.pow2 2 = 4 := rfl
  have hd : Fp.pow2 d ≠ 0 := (Rat.ne_of_lt (Fp.pow2_pos d)).symm
  rw [driveGain, hexp, Fp.pow2_add, Fp.pow2_add, hfour, Rat.natCast_add]
  grind

/-- The gain is at most 2 where its power of two is at most 1 / 8, or at most 1 / 4 with the mantissa 0. -/
theorem driveGain_le_of_exponent {sc : Nat} {d : Int}
    (h : ((sc / 8 : Nat) : Int) - 17 - d ≤ -3 ∨ (sc % 8 = 0 ∧ ((sc / 8 : Nat) : Int) - 17 - d ≤ -2)) : driveGain sc d ≤ 2 := by
  have hpow {e : Int} (he : ((sc / 8 : Nat) : Int) - 17 - d ≤ e) : driveGain sc d ≤ ((8 + sc % 8 : Nat) : Rat) * Fp.pow2 e :=
    Rat.mul_le_mul_of_nonneg_left (Fp.pow2_le_pow2 he) Rat.natCast_nonneg
  obtain he | ⟨hm, he⟩ := h
  · have hm : ((8 + sc % 8 : Nat) : Rat) ≤ (16 : Nat) := Rat.natCast_le_natCast.2 (by omega)
    have hmul := Rat.mul_le_mul_of_nonneg_right hm (Rat.le_of_lt (Fp.pow2_pos (-3)))
    have htwo : ((16 : Nat) : Rat) * Fp.pow2 (-3) = 2 := by decide +kernel
    rw [htwo] at hmul
    exact Rat.le_trans (hpow he) hmul
  · have htwo : ((8 + 0 : Nat) : Rat) * Fp.pow2 (-2) = 2 := by decide +kernel
    have hle := hpow he
    rwa [hm, htwo] at hle

/-- R65, R66: since the scale of a live group is at most D, its gain is at most 2. -/
theorem driveGain_le_two {codes : List Nat} {d : Int} {sc : Nat} (h : draught codes = some d) (hsc : sc ∈ codes)
    (hpos : 0 < sc / 8) : driveGain sc d ≤ 2 := by
  obtain ⟨top, -, -, hge, rfl⟩ := draught_eq_some h
  have hle := hge sc hsc hpos
  apply driveGain_le_of_exponent
  split <;> omega

/-- R66: the row driver never holds -256, -255 or 255. -/
theorem driveVal_bounds {codes : List Nat} {d a : Int} {sc : Nat} (h : draught codes = some d) (hsc : sc ∈ codes)
    (hlo : -127 ≤ a) (hhi : a ≤ 127) : -254 ≤ driveVal a sc d ∧ driveVal a sc d ≤ 254 := by
  obtain hzero | hpos := Nat.eq_zero_or_pos (sc / 8)
  · rw [driveVal_zero_group hzero]
    decide
  · rw [driveVal_live hpos]
    have hgain := driveGain_le_two h hsc hpos
    have hlo' := Rat.mul_le_mul_of_nonneg_right (Rat.intCast_le_intCast.2 hlo) (driveGain_nonneg sc d)
    have hhi' := Rat.mul_le_mul_of_nonneg_right (Rat.intCast_le_intCast.2 hhi) (driveGain_nonneg sc d)
    apply Fp.rne_bounds <;> grind

/-- Settles O15: the gain of a live group is at most 2, so 127 times it is at most 254, and rounding keeps that bound. -/
theorem driveValuesBounded : Obligations.DriveValuesBounded := by
  unfold Obligations.DriveValuesBounded
  intro codes d hcodes hd
  refine ⟨draught_bounds hcodes hd, fun a sc hsc hlo hhi => ?_⟩
  refine ⟨driveVal_bounds hd hsc hlo hhi, fun hzero => driveVal_zero_group hzero a d, fun hpos => ?_⟩
  simp only [two_mul_scale_div, driveVal_live hpos]
  exact ⟨(Rat.mul_assoc _ _ _).symm, Fp.rne_nearest _⟩

end Sys2Proof.Machine
end

section
/-! PROOFS. The states of a tender (R135, R136, R148) and its yields to EXPRESS work (R215): what the end of entries keeps,
the core of a stopped tender, and an equation for each branch of the tender's operations. -/
namespace Sys2Proof.Machine
open Sys2Proof

/-! ### What the end of entries keeps -/

theorem State.each_arrays {α : Type} {f : State → α → State} (hf : ∀ t x, (f t x).arrays = t.arrays) (s : State)
    (xs : List α) : (s.each xs f).arrays = s.arrays := by
  induction xs generalizing s with
  | nil => rfl
  | cons x xs ih => exact (ih (f s x)).trans (hf s x)

@[simp] theorem State.dropWork_arrays (s : State) (r : EntryRef) : (s.dropWork r).arrays = s.arrays := rfl

@[simp] theorem State.failPend_arrays (s : State) (r : EntryRef) (e : EntryRun) : (s.failPend r e).arrays = s.arrays :=
  State.each_arrays (fun _ _ => State.modCore_arrays _ _ _) _ _

@[simp] theorem State.endRun_arrays (s : State) (r : EntryRef) (status detail : Nat) :
    (s.endRun r status detail).arrays = s.arrays := by
  unfold State.endRun
  split
  · split
    · rfl
    · dsimp only
      split <;> simp only [State.modSent_arrays, State.modRun_arrays, State.failPend_arrays, State.dropWork_arrays]
  · rfl

@[simp] theorem State.endOnCore_arrays (s : State) (c status detail : Nat) :
    (s.endOnCore c status detail).2.arrays = s.arrays :=
  State.each_arrays (fun _ _ => State.endRun_arrays _ _ _ _) _ _

/-! ### A stopped tender -/

@[simp] theorem State.tenderStop_arrays (s : State) (c cause : Nat) (next : TndSt) :
    (s.tenderStop c cause next).arrays = s.arrays := by
  simp only [State.tenderStop, State.raise_arrays, State.flag_arrays, State.modCore_arrays, State.endOnCore_arrays]

section
variable {lf lg : Nat} {cq : List Instr} {s : State} (h : s.Safe lf lg cq) (c cause : Nat) (next : TndSt)
include h

/-- R135, R136: what a stop writes into the tender's core, over what the end of its entries left there. -/
theorem State.core_tenderStop : (s.tenderStop c cause next).core c =
    { (s.endOnCore c 0x24 cause).2.core c with
      tnd := next, tndCause := cause, tndBusy := none, haloOut := [], haloWait := [],
      scratch := if next = .loading then [] else ((s.endOnCore c 0x24 cause).2.core c).scratch } := by
  simp only [State.tenderStop, State.core_raise, State.core_flag, State.core_modCore (State.endOnCore_safe s c 0x24 cause h)]

/-- R135, R136: a running tender that faults drops its task and its halo transfers. -/
theorem State.core_tenderFault_running (hrun : (s.core c).tnd = .running) :
    ((s.tenderFault c cause).core c).tnd = .fault ∧ ((s.tenderFault c cause).core c).tndCause = cause ∧
      ((s.tenderFault c cause).core c).tndBusy = none ∧ ((s.tenderFault c cause).core c).haloOut = [] ∧
      ((s.tenderFault c cause).core c).haloWait = [] ∧ (s.tenderFault c cause).arrays = s.arrays := by
  rw [State.tenderFault, if_pos hrun, State.core_tenderStop h]
  exact ⟨rfl, rfl, rfl, rfl, rfl, State.tenderStop_arrays s c cause .fault⟩

end

theorem State.tenderFault_not_running {s : State} {c : Nat} (cause : Nat) (h : (s.core c).tnd ≠ .running) :
    s.tenderFault c cause = s := if_neg h

/-! ### RESTART and the end of a load -/

section
variable {s : State} {path : Path} {c : CoreId}

theorem exec_tenderRestart (hans : s.answers path .tnd = true) :
    exec (.tenderRestart path c) s = .next (s.tenderRestart path c) := by
  show execTenderRestart path c s = _
  rw [execTenderRestart, State.asked, if_pos hans]

theorem exec_tenderRestart_unanswered (hans : s.answers path .tnd = false) : exec (.tenderRestart path c) s = .next s := by
  show execTenderRestart path c s = _
  rw [execTenderRestart, State.asked, hans, if_neg Bool.false_ne_true]

theorem exec_tenderLoadDone (halive : s.alive = true) : exec (.tenderLoadDone c) s = .next (s.tenderLoaded c) := by
  show execTenderLoadDone c s = _
  rw [execTenderLoadDone, if_pos halive]

theorem exec_tenderYield (halive : s.alive = true) : exec (.tenderYield c) s = .next (s.tenderYield c) := by
  show execTenderYield c s = _
  rw [execTenderYield, if_pos halive]

end

section
variable {s : State} {p : Path} {c : Nat}

theorem State.tenderRestart_running (h : (s.core c).tnd = .running) :
    s.tenderRestart p c = (s.tenderStop c 5 .loading).modCore c (fun x => { x with tndRestarted := true }) := by
  rw [State.tenderRestart, h]

theorem State.tenderRestart_fault (h : (s.core c).tnd = .fault) :
    s.tenderRestart p c = s.modCore c (fun x => { x with tnd := .loading, tndRestarted := true, scratch := [] }) := by
  rw [State.tenderRestart, h]

theorem State.tenderRestart_ignored (h : (s.core c).tnd = .off ∨ (s.core c).tnd = .loading) :
    s.tenderRestart p c = s.ignored p (Reg.tndCmd.addr c 0) 3 := by
  unfold State.tenderRestart
  rcases h with h | h <;> rw [h]

/-- R135: RESTART of a running tender. -/
theorem State.core_tenderRestart_running (hS : s.Inv) (h : (s.core c).tnd = .running) :
    ((s.tenderRestart p c).core c).tnd = .loading ∧ ((s.tenderRestart p c).core c).tndCause = 5 ∧
      ((s.tenderRestart p c).core c).tndRestarted = true ∧ ((s.tenderRestart p c).core c).haloOut = [] ∧
      ((s.tenderRestart p c).core c).haloWait = [] ∧ ((s.tenderRestart p c).core c).scratch = [] ∧
      (s.tenderRestart p c).arrays = s.arrays := by
  rw [State.tenderRestart_running h, State.core_modCore (State.tenderStop_safe s c 5 .loading hS), State.core_tenderStop hS]
  exact ⟨rfl, rfl, rfl, rfl, rfl, rfl, State.tenderStop_arrays s c 5 .loading⟩

/-- The kept copy of the tender code reads and verifies (R114, R135). -/
def Boot.codeGood (b : Boot) : Bool := !b.tenderBad && decide (Sha.sha256 b.tenderCode = b.tenderDigest)

/-- A core whose tender runs the kept copy of its code (R135). -/
def Core.loaded (x : Core) (b : Boot) : Core :=
  { x with tnd := .running, tndRestarted := false, scratch := storeBytes [] 0 (b.tenderCode.take 0x40000),
           tndFw := (b.fw.map (fun (k : Container) => k.version)).getD 0 }

theorem State.tenderLoaded_not_loading (h : (s.core c).tnd ≠ .loading) : s.tenderLoaded c = s := if_pos h

theorem State.tenderLoaded_good (h : (s.core c).tnd = .loading) (hgood : s.boot.codeGood = true) :
    s.tenderLoaded c = if (s.core c).tndRestarted then (s.modCore c (·.loaded s.boot)).flag .tndEvent c 2
      else s.modCore c (·.loaded s.boot) := by
  rw [Boot.codeGood] at hgood
  simp only [State.tenderLoaded]
  rw [if_neg (not_not_intro h), if_pos hgood]
  rfl

theorem State.tenderLoaded_bad (h : (s.core c).tnd = .loading) (hbad : s.boot.codeGood = false) :
    s.tenderLoaded c = ((s.modCore c (fun x => { x with tnd := .fault, tndCause := 4 })).flag .tndEvent c 1).raise
      (evCore 0x2306 2 c 4) := by
  rw [Boot.codeGood] at hbad
  simp only [State.tenderLoaded]
  rw [if_neg (not_not_intro h), if_neg (Bool.eq_false_iff.1 hbad)]

theorem State.core_tenderLoaded_good (h : (s.core c).tnd = .loading) (hgood : s.boot.codeGood = true) (d : Nat) :
    (s.tenderLoaded c).core d = (s.modCore c (·.loaded s.boot)).core d := by
  rw [State.tenderLoaded_good h hgood]
  split
  · exact State.core_flag _ _ _ _ _
  · rfl

theorem State.tenderLoaded_good_mem (h : (s.core c).tnd = .loading) (hgood : s.boot.codeGood = true) :
    (s.tenderLoaded c).mem = s.mem := by
  rw [State.tenderLoaded_good h hgood]
  split <;> rfl

/-! ### Yields -/

/-- An EXPRESS entry with work for the tender, which it goes over to (R215). -/
def State.expressTask (s : State) (c : Nat) : Option (EntryRef × EntryRun) :=
  s.allRuns.find? (fun (q, e) => decide ((s.reqOfRun q).cls = 0) && e.tenders c)

/-- An EXPRESS request in service whose next entry is to come (R215). -/
def State.expressComing (s : State) (c : Nat) : Bool :=
  (s.pound c).service.any (fun e => e.2.any (fun n => decide ((s.req n.req).cls = 0) && decide (n.next < n.nent)))

theorem State.tenderYield_idle (h : (s.core c).tndBusy = none) : s.tenderYield c = s := by
  simp only [State.tenderYield, h]

variable {r : EntryRef}

theorem State.tenderYield_stays (hbusy : (s.core c).tndBusy = some r)
    (h : (s.reqOfRun r).cls = 0 ∨ (s.core c).tnd ≠ .running) : s.tenderYield c = s := by
  have hcond : (decide ((s.reqOfRun r).cls = 0) || decide ((s.core c).tnd ≠ .running)) = true := by
    simpa only [Bool.or_eq_true, decide_eq_true_eq] using h
  simp only [State.tenderYield, hbusy]
  exact if_pos hcond

/-- R215: a tender at work for another class goes over to EXPRESS work, or counts a yield to an EXPRESS issue to come. -/
theorem State.tenderYield_to_express (hbusy : (s.core c).tndBusy = some r) (hcls : (s.reqOfRun r).cls ≠ 0)
    (hrun : (s.core c).tnd = .running) :
    s.tenderYield c = (s.expressTask c).elim (if s.expressComing c then s.count c 19 1 else s)
      (fun task => (s.modCore c (fun x => { x with tndBusy := some task.1 })).count c 19 1) := by
  simp only [State.tenderYield, hbusy, hcls, hrun, decide_false, ne_eq, not_true, Bool.or_self, Bool.false_eq_true, if_false]
  split
  next q e hfind => rw [State.expressTask, hfind, Option.elim_some]
  next hfind =>
    rw [State.expressTask, hfind, Option.elim_none]
    rfl

end

/-! ### The commands of a tender, each in the state it meets -/

section
variable {s : State} {c : CoreId}

theorem exec_tenderLoadDone_none (h : s.alive = false ∨ (s.core c).tnd ≠ .loading) : exec (.tenderLoadDone c) s = .next s := by
  show execTenderLoadDone c s = _
  rw [execTenderLoadDone]
  rcases h with h | h
  · rw [h, if_neg Bool.false_ne_true]
  · rw [State.tenderLoaded_not_loading h, ite_self]

theorem exec_tenderYield_none (h : s.alive = false ∨ (s.core c).tndBusy = none) : exec (.tenderYield c) s = .next s := by
  show execTenderYield c s = _
  rw [execTenderYield]
  rcases h with h | h
  · rw [h, if_neg Bool.false_ne_true]
  · rw [State.tenderYield_idle h, ite_self]

section
variable (hw : s.works = true)
include hw

theorem exec_tenderFwFault (scratch : Bool) :
    exec (.tenderFwFault c scratch) s = .next (s.tenderFault c (if scratch then 3 else 2)) := by
  show execTenderFwFault c scratch s = _
  rw [execTenderFwFault, if_pos hw]

theorem exec_tenderWdogTimeout (hcfg : s.rf .tndWdogCfg c 15 0 ≠ 0) :
    exec (.tenderWdogTimeout c) s = .next (s.tenderFault c 1) := by
  show execTenderWdogTimeout c s = _
  rw [execTenderWdogTimeout, if_pos (by rw [hw, decide_eq_true hcfg, Bool.and_self])]

end

theorem exec_tenderWdogTimeout_off (hcfg : s.rf .tndWdogCfg c 15 0 = 0) : exec (.tenderWdogTimeout c) s = .next s := by
  show execTenderWdogTimeout c s = _
  simp only [execTenderWdogTimeout, hcfg, ne_eq, not_true, decide_false, Bool.and_false, Bool.false_eq_true, if_false]

theorem exec_tenderWdogTimeout_not_running (h : (s.core c).tnd ≠ .running) : exec (.tenderWdogTimeout c) s = .next s := by
  show execTenderWdogTimeout c s = _
  rw [execTenderWdogTimeout, State.tenderFault_not_running 1 h, ite_self]

theorem exec_tenderHeartbeatTick (hw : s.works = true) : exec (.tenderHeartbeatTick c) s =
    .next (if (s.core c).tnd = .running then s.modCore c (fun x => { x with tndBeat := x.tndBeat + 1 }) else s) := by
  show execTenderHeartbeatTick c s = _
  simp only [execTenderHeartbeatTick, hw, Bool.true_and, decide_eq_true_eq]

theorem exec_tender_stopped (hw : s.works = false) : (∀ scratch : Bool, exec (.tenderFwFault c scratch) s = .next s) ∧
    exec (.tenderWdogTimeout c) s = .next s ∧ exec (.tenderHeartbeatTick c) s = .next s := by
  refine ⟨fun scratch => ?_, ?_, ?_⟩
  · show execTenderFwFault c scratch s = _
    rw [execTenderFwFault, hw, if_neg Bool.false_ne_true]
  · show execTenderWdogTimeout c s = _
    rw [execTenderWdogTimeout, hw, Bool.false_and, if_neg Bool.false_ne_true]
  · show execTenderHeartbeatTick c s = _
    rw [execTenderHeartbeatTick, hw, Bool.false_and, if_neg Bool.false_ne_true]

end

/-- Settles O28, by the state the tender is in at each command; `State.core_tenderStop` says what leaving RUNNING writes. -/
theorem tenderStates : Obligations.TenderStates := by
  unfold Obligations.TenderStates
  refine ⟨fun s path c hInv => ⟨exec_tenderRestart_unanswered, fun hans => ?_, exec_tenderLoadDone_none, fun halive hload => ?_,
    exec_tender_stopped, fun hw => ?_⟩, fun s c => ⟨exec_tenderYield_none, fun r halive hbusy => ?_⟩⟩
  · rw [exec_tenderRestart hans]
    refine ⟨fun hfault => ?_, fun hrun => ⟨_, rfl, State.core_tenderRestart_running hInv hrun⟩, fun hother => ?_⟩
    · rw [State.tenderRestart_fault hfault]
    · rw [State.tenderRestart_ignored hother]
  · rw [exec_tenderLoadDone halive]
    refine ⟨fun hgood => ⟨_, rfl, ?_⟩, fun hbad => ?_⟩
    · simp only [State.core_tenderLoaded_good hload hgood, State.core_modCore hInv]
      exact ⟨rfl, rfl, rfl, fun d hd => State.core_modCore_ne hInv _ hd, State.tenderLoaded_good_mem hload hgood⟩
    · rw [State.tenderLoaded_bad hload hbad]
  · simp only [exec_tenderFwFault hw, exec_tenderHeartbeatTick hw]
    refine ⟨fun hrun scratch => ⟨⟨_, rfl, State.core_tenderFault_running hInv c _ hrun⟩, fun hcfg =>
      ⟨_, exec_tenderWdogTimeout hw hcfg, State.core_tenderFault_running hInv c 1 hrun⟩⟩, exec_tenderWdogTimeout_off,
      fun hnot => ⟨exec_tenderWdogTimeout_not_running hnot, fun scratch => ?_⟩, fun hrun => ?_, fun hnot => ?_⟩
    · rw [State.tenderFault_not_running _ hnot]
    · rw [if_pos hrun]
    · rw [if_neg hnot]
  · rw [exec_tenderYield halive]
    refine ⟨fun hstay => ?_, fun hcls hrun => ?_⟩
    · rw [State.tenderYield_stays hbusy hstay]
    · rw [State.tenderYield_to_express hbusy hcls hrun, State.expressTask]
      refine ⟨fun q e htask => ?_, fun htask => ?_⟩
      · rw [htask, Option.elim_some]
      · rw [htask, Option.elim_none]
        rfl

end Sys2Proof.Machine
end

section
/-! PROOFS. Which request a pound takes (R214, R236): the branches of POUND_TAKE, and what stands in the position taken. -/
namespace Sys2Proof.NMap

/-- A value that an unlisted key does not read as is read back from any table, in order or not. -/
theorem get_set_self_of_ne {α : Type} [DecidableEq α] {d x : α} (hx : x ≠ d) (m : NMap α) (i : Nat) :
    get d (set d m i x) i = x := by
  rw [set, if_neg hx, get, find?_insert_self, Option.getD_some]

end Sys2Proof.NMap

namespace Sys2Proof.Machine
open Sys2Proof

/-! ### The position taken -/

/-- The sentence of a basin entry with no entry issued, the `k`-th that the pound takes. -/
def BasinEntry.sentence (e : BasinEntry) (k : Nat) : Sentence :=
  { req := e.req, saddr := e.saddr, host := e.host, nent := e.nent, next := 0, runs := [], failed := none,
    aborting := none, order := k, image := false }

/-- The pound with a basin entry in a service position (R214). -/
def Pound.seat (x : Pound) (pos : Nat) (e : BasinEntry) : Pound :=
  { x with service := x.service.set none pos (some (e.sentence x.order)), order := x.order + 1 }

/-- The request of a basin entry leaves its basin and is bound: to a version, a set and a copy (R236), and against its EXPRESS
queue's balance (R216). -/
def State.bindEntry (s : State) (p : Nat) (c : Nat × BasinEntry) (b : Nat × Nat × Bool) : State :=
  let q := s.req c.2.req
  let s1 := s.modPound c.1 (fun x => { x with basin := x.basin.erase c.2 })
  let s2 : State := if q.batch = 0 || c.2.forwarded then s1 else { s1 with bound := s1.bound.set 0 q.batch (16 * b.1 + b.2.1) }
  let s3 := s2.modReq c.2.req
    (fun q => { q with version := some b.1, setNo := b.2.1, copyB := b.2.2, admitted := p :: q.admitted })
  if q.cls = 0 then
    (s3.modQueue q.queue (fun x =>
      { x with balance := x.balance.set (1024 * (x.burstSlot : Int)) p (x.balanceIn p - 1024) })).count ctrIo 13 1
  else s3

section
variable {s : State} {p : Nat} {c : Nat × BasinEntry}

theorem State.takeEntry_of_bindFor {b : Nat × Nat × Bool} (pos : Nat) (hb : s.bindFor p c.2 = some b) :
    s.takeEntry p pos c = ((s.bindEntry p c b).modPound p (·.seat pos c.2)).forwardNext := by
  rw [State.takeEntry, hb]
  rfl

theorem State.req_modReq_of_ne {i : Nat} {f : Request → Request} (hf : f (s.req i) ≠ {}) :
    (s.modReq i f).req i = f (s.req i) :=
  NMap.get_set_self_of_ne hf _ _

/-- R236: the request is bound to the version. -/
theorem State.bindEntry_version (b : Nat × Nat × Bool) : ((s.bindEntry p c b).req c.2.req).version = some b.1 := by
  have hbound (t : State) : ((t.modReq c.2.req (fun q =>
      { q with version := some b.1, setNo := b.2.1, copyB := b.2.2, admitted := p :: q.admitted })).req c.2.req).version =
        some b.1 := by
    rw [State.req_modReq_of_ne]
    exact fun hdef => Option.some_ne_none b.1 (congrArg Request.version hdef)
  simp only [State.bindEntry]
  split
  · simp only [State.req_count, State.req_modQueue, hbound]
  · exact hbound _

theorem Pound.get_seat (x : Pound) (pos : Nat) (e : BasinEntry) :
    (x.seat pos e).service.get none pos = some (e.sentence x.order) :=
  NMap.get_set_self_of_ne (Option.some_ne_none _) _ _

theorem Pound.seat_ne_empty (x : Pound) (pos : Nat) (e : BasinEntry) : x.seat pos e ≠ {} := by
  intro hdef
  have hget := x.get_seat pos e
  rw [hdef] at hget
  exact Option.some_ne_none _ hget.symm

theorem State.sent?_seat (s : State) (p pos : Nat) (e : BasinEntry) :
    (s.modPound p (·.seat pos e)).sent? p pos = some (e.sentence (s.pound p).order) := by
  have hpound : (s.modPound p (·.seat pos e)).pound p = (s.pound p).seat pos e :=
    NMap.get_set_self_of_ne (Pound.seat_ne_empty _ _ _) _ _
  rw [State.sent?, hpound, Pound.get_seat]

end

/-! ### The branches of POUND_TAKE -/

/-- EXPRESS requests past their limit are marked as late (R219). -/
def State.markLate (s : State) (p : Nat) : State :=
  s.each (s.pickExpress p (s.candidates p)).2 (fun t r => t.modReq r (fun q => { q with causes := q.causes ||| 2 }))

/-- A free position that is not reserved takes one of the entries `cs` of the other classes (R214). -/
def State.takeOther (s : State) (p : Nat) (cs : List (Nat × BasinEntry)) : State :=
  ((s.pound p).freePos false).elim s (fun pos =>
    (s.pickOther p cs).elim s (fun hit => (hit.2.takeEntry p pos hit.1).ownNext hit.2.net.own.length))

section
variable {s : State} {p : Nat}

theorem State.poundTake_none (h : s.issues = false ∨ s.poundAt p = none) : s.poundTake p = s := by
  have hcond : (!s.issues || (s.poundAt p).isNone) = true := by
    rcases h with h | h
    · rw [h, Bool.not_false, Bool.true_or]
    · rw [h, Option.isNone_none, Bool.or_true]
  exact if_pos hcond

section
variable (hiss : s.issues = true) (hat : s.poundAt p ≠ none)
include hiss hat

/-- R214: an EXPRESS request that is admitted goes before any other. -/
theorem State.poundTake_eq : s.poundTake p =
    ((s.pickExpress p (s.candidates p)).1.bind (fun c => (((s.markLate p).pound p).freePos true).map (c, ·))).elim
      ((s.markLate p).takeOther p (s.candidates p))
      (fun hit => ((s.markLate p).takeEntry p hit.2 hit.1).ownNext (s.markLate p).net.own.length) := by
  have hcond : ¬ (!s.issues || (s.poundAt p).isNone) = true := by
    simp only [hiss, Bool.not_true, Bool.false_or, Option.isNone_iff_eq_none, hat, not_false_eq_true]
  refine (if_neg hcond).trans ?_
  dsimp only
  rw [← State.markLate]
  split
  next c pos hc hpos =>
    rw [hc, hpos]
    rfl
  next hno =>
    have hnone : (s.pickExpress p (s.candidates p)).1.bind
        (fun c => (((s.markLate p).pound p).freePos true).map (c, ·)) = none :=
      Option.bind_eq_none_iff.2 fun c hc =>
        Option.map_eq_none_iff.2 (Option.eq_none_iff_forall_ne_some.2 fun pos hpos => hno c pos hc hpos)
    rw [hnone, Option.elim_none, State.takeOther]
    split
    next hfull => rw [hfull, Option.elim_none]
    next pos hpos =>
      rw [hpos, Option.elim_some]
      split
      next hpick => rw [hpick, Option.elim_some]
      next hpick => rw [hpick, Option.elim_none]

theorem State.poundTake_express {c : Nat × BasinEntry} {pos : Nat} (hhit : (s.pickExpress p (s.candidates p)).1 = some c)
    (hpos : ((s.markLate p).pound p).freePos true = some pos) :
    s.poundTake p = ((s.markLate p).takeEntry p pos c).ownNext (s.markLate p).net.own.length := by
  rw [State.poundTake_eq hiss hat, hhit, hpos]
  rfl

theorem State.poundTake_other
    (hno : (s.pickExpress p (s.candidates p)).1 = none ∨ ((s.markLate p).pound p).freePos true = none) :
    s.poundTake p = (s.markLate p).takeOther p (s.candidates p) := by
  rw [State.poundTake_eq hiss hat]
  rcases hno with hhit | hpos
  · rw [hhit]
    rfl
  · simp only [hpos, Option.map_none, Option.bind_fun_none, Option.elim_none]

end

section
variable {cs : List (Nat × BasinEntry)}

theorem State.takeOther_full (h : (s.pound p).freePos false = none) : s.takeOther p cs = s := by
  rw [State.takeOther, h, Option.elim_none]

theorem State.takeOther_nothing (h : s.pickOther p cs = none) : s.takeOther p cs = s := by
  rw [State.takeOther, h]
  cases (s.pound p).freePos false <;> rfl

theorem State.takeOther_some {pos : Nat} {c : Nat × BasinEntry} {s2 : State} (hpos : (s.pound p).freePos false = some pos)
    (hpick : s.pickOther p cs = some (c, s2)) : s.takeOther p cs = (s2.takeEntry p pos c).ownNext s2.net.own.length := by
  rw [State.takeOther, hpos, hpick, Option.elim_some, Option.elim_some]

end
end

theorem exec_poundTake (s : State) (p : CoreId) : exec (.poundTake p) s = .next (s.poundTake p) := rfl

/-- Settles O36: the request taken by the branches of POUND_TAKE, and its place by `State.takeEntry_of_bindFor`. -/
theorem poundTakes : Obligations.PoundTakes := by
  unfold Obligations.PoundTakes
  intro s p
  simp only [exec_poundTake]
  rw [← State.markLate]
  refine ⟨fun hnone => ?_, fun hiss hat => ⟨fun c pos hhit hpos => ?_, fun hno => ?_⟩, fun c pos v set copyB hb _ => ?_⟩
  · rw [State.poundTake_none hnone]
  · rw [State.poundTake_express hiss hat hhit hpos]
  · rw [State.poundTake_other hiss hat hno]
    refine ⟨fun hfull => ?_, fun hnothing => ?_, fun pos c s2 hpos hpick => ?_⟩
    · rw [State.takeOther_full hfull]
    · rw [State.takeOther_nothing hnothing]
    · rw [State.takeOther_some hpos hpick]
  · refine ⟨_, State.takeEntry_of_bindFor pos hb, ?_, State.bindEntry_version (v, set, copyB)⟩
    rw [State.sent?_seat]
    rfl

end Sys2Proof.Machine
end

section
/-! PROOFS. One step of the block: every command answers, every answer is safe, and an empty queue idles. -/
namespace Sys2Proof.Machine
open Sys2Proof

/-! ### Folds keep what their step keeps -/

theorem State.each_keeps {α β : Type} (φ : State → β) {f : State → α → State} (hf : ∀ t x, φ (f t x) = φ t) (s : State)
    (xs : List α) : φ (s.each xs f) = φ s := by
  induction xs generalizing s with
  | nil => rfl
  | cons x xs ih => exact (ih (f s x)).trans (hf s x)

/-! ### Every command answers a safe state -/

theorem exec_next (c : Instr) (s : State) : ∃ t, exec c s = .next t := by
  cases c <;> exact ⟨_, rfl⟩

theorem exec_safe {lf lg : Nat} {cq : List Instr} {c : Instr} {s t : State} (hS : s.Safe lf lg cq) (h : exec c s = .next t) :
    t.Safe lf lg cq := by
  cases c with
  | registerWrite path addr op => exact execRegisterWrite_safe path addr op s hS t h
  | rwsShadowApplyIdle addr => exact execRwsShadowApplyIdle_safe addr s hS t h
  | counterLoRead path addr => exact execCounterLoRead_safe path addr s hS t h
  | tbsTimeLoRead path => exact execTbsTimeLoRead_safe path s hS t h
  | ctrWinLastLoRead path => exact execCtrWinLastLoRead_safe path s hS t h
  | controlSpaceRequest dgram => exact execControlSpaceRequest_safe dgram s hS t h
  | bar2Access off op => exact execBar2Access_safe off op s hS t h
  | arrPgmGo path c sl => exact execArrPgmGo_safe path c sl s hS t h
  | arrPgmAbort path c sl => exact execArrPgmAbort_safe path c sl s hS t h
  | pgmQueuedJobStart => exact execPgmQueuedJobStart_safe s hS t h
  | planeCheckDone c sl => exact execPlaneCheckDone_safe c sl s hS t h
  | pgmBatchDone c sl stuck => exact execPgmBatchDone_safe c sl stuck s hS t h
  | repairBatchDone c sl stuck => exact execRepairBatchDone_safe c sl stuck s hS t h
  | arrMapWrite path c sl col n v => exact execArrMapWrite_safe path c sl col n v s hS t h
  | arrTrimDataAccess path c sl w => exact execArrTrimDataAccess_safe path c sl w s hS t h
  | arrTrimSwap path c sl => exact execArrTrimSwap_safe path c sl s hS t h
  | arrTrimCopy path c sl swap => exact execArrTrimCopy_safe path c sl swap s hS t h
  | trimSwapTakeEffect c sl => exact execTrimSwapTakeEffect_safe c sl s hS t h
  | scanBatch c sl weak => exact execScanBatch_safe c sl weak s hS t h
  | refreshBatch c sl => exact execRefreshBatch_safe c sl s hS t h
  | refreshDeferredTimeout c sl => exact execRefreshDeferredTimeout_safe c sl s hS t h
  | waveSlot c => exact execWaveSlot_safe c s hS t h
  | gridPointWaitEnd c => exact execGridPointWaitEnd_safe c s hS t h
  | waveConversionDone c sl => exact execWaveConversionDone_safe c sl s hS t h
  | cpVerdict c sl => exact execCpVerdict_safe c sl s hS t h
  | replayVerdict c => exact execReplayVerdict_safe c s hS t h
  | rotationAdvance c => exact execRotationAdvance_safe c s hS t h
  | drainAccumulate c l flt => exact execDrainAccumulate_safe c l flt s hS t h
  | drainRowComplete c p pos idx row flt => exact execDrainRowComplete_safe c p pos idx row flt s hS t h
  | rangeResolve c p pos idx row => exact execRangeResolve_safe c p pos idx row s hS t h
  | exchangeSegment dst src p pos idx row => exact execExchangeSegment_safe dst src p pos idx row s hS t h
  | passStart c p pos idx => exact execPassStart_safe c p pos idx s hS t h
  | ingestBlockEvaluate c p pos idx blk => exact execIngestBlockEvaluate_safe c p pos idx blk s hS t h
  | drnChainDataLoWrite path c v => exact execDrnChainDataLoWrite_safe path c v s hS t h
  | drnChainDataHiWrite path c v => exact execDrnChainDataHiWrite_safe path c v s hS t h
  | drnNltDataAccess path c w => exact execDrnNltDataAccess_safe path c w s hS t h
  | tenderRestart path c => exact execTenderRestart_safe path c s hS t h
  | tenderLoadDone c => exact execTenderLoadDone_safe c s hS t h
  | tenderWdogTimeout c => exact execTenderWdogTimeout_safe c s hS t h
  | tenderFwFault c scratch => exact execTenderFwFault_safe c scratch s hS t h
  | tenderHeartbeatTick c => exact execTenderHeartbeatTick_safe c s hS t h
  | tenderYield c => exact execTenderYield_safe c s hS t h
  | haloTransfer c right => exact execHaloTransfer_safe c right s hS t h
  | haloTimeout c right => exact execHaloTimeout_safe c right s hS t h
  | spareCommit path c => exact execSpareCommit_safe path c s hS t h
  | spareSubstitutionEffect c => exact execSpareSubstitutionEffect_safe c s hS t h
  | spareRelease path c => exact execSpareRelease_safe path c s hS t h
  | nop p pos => exact execNop_safe p pos s hS t h
  | matmul p pos => exact execMatmul_safe p pos s hS t h
  | dmatmul p pos => exact execDmatmul_safe p pos s hS t h
  | dynmul p pos => exact execDynmul_safe p pos s hS t h
  | adapt p pos => exact execAdapt_safe p pos s hS t h
  | adaptUpd p pos => exact execAdaptUpd_safe p pos s hS t h
  | ingest p pos => exact execIngest_safe p pos s hS t h
  | eltwise p pos => exact execEltwise_safe p pos s hS t h
  | copyIn p pos => exact execCopyIn_safe p pos s hS t h
  | copyOut p pos => exact execCopyOut_safe p pos s hS t h
  | forward p pos => exact execForward_safe p pos s hS t h
  | haloSend p pos => exact execHaloSend_safe p pos s hS t h
  | haloWait p pos => exact execHaloWait_safe p pos s hS t h
  | haloWaitTimeout p pos idx => exact execHaloWaitTimeout_safe p pos idx s hS t h
  | fieldTest p pos => exact execFieldTest_safe p pos s hS t h
  | fieldTestPhaseDone c fails => exact execFieldTestPhaseDone_safe c fails s hS t h
  | signal p pos => exact execSignal_safe p pos s hS t h
  | adapterAddResume c p pos idx row => exact execAdapterAddResume_safe c p pos idx row s hS t h
  | entryComplete p pos idx => exact execEntryComplete_safe p pos idx s hS t h
  | queDbSqTailWrite path q v => exact execQueDbSqTailWrite_safe path q v s hS t h
  | queDbCqHeadWrite path q v => exact execQueDbCqHeadWrite_safe path q v s hS t h
  | submissionRead => exact execSubmissionRead_safe s hS t h
  | poundTake p => exact execPoundTake_safe p s hS t h
  | queueStallResume q => exact execQueueStallResume_safe q s hS t h
  | create path q => exact execCreate_safe path q s hS t h
  | queueReset path q => exact execQueueReset_safe path q s hS t h
  | destroy path q => exact execDestroy_safe path q s hS t h
  | queueDrainDone q => exact execQueueDrainDone_safe q s hS t h
  | bindCtx path => exact execBindCtx_safe path s hS t h
  | lookup path => exact execLookup_safe path s hS t h
  | retire path ctx reason => exact execRetire_safe path ctx reason s hS t h
  | streamRetireComplete ctx => exact execStreamRetireComplete_safe ctx s hS t h
  | streamRelease path ctx => exact execStreamRelease_safe path ctx s hS t h
  | receive path => exact execReceive_safe path s hS t h
  | verify path => exact execVerify_safe path s hS t h
  | install path => exact execInstall_safe path s hS t h
  | lock path hold => exact execLock_safe path hold s hS t h
  | loadSet path set => exact execLoadSet_safe path set s hS t h
  | retry path => exact execRetry_safe path s hS t h
  | discard path => exact execDiscard_safe path s hS t h
  | releaseHold path => exact execReleaseHold_safe path s hS t h
  | restageRef path => exact execRestageRef_safe path s hS t h
  | sendImg path => exact execSendImg_safe path s hS t h
  | lockPoundDrained model p => exact execLockPoundDrained_safe model p s hS t h
  | openingCalibrationDone c sl m => exact execOpeningCalibrationDone_safe c sl m s hS t h
  | adpFetchTimeout ctx => exact execAdpFetchTimeout_safe ctx s hS t h
  | adpData peer => exact execAdpData_safe peer s hS t h
  | adpWriteAck peer => exact execAdpWriteAck_safe peer s hS t h
  | adpUseDecay => exact execAdpUseDecay_safe s hS t h
  | gainTemperatureUpdate c => exact execGainTemperatureUpdate_safe c s hS t h
  | driftTrackingSession c sl refs => exact execDriftTrackingSession_safe c sl refs s hS t h
  | calWindowClose c set => exact execCalWindowClose_safe c set s hS t h
  | calWindowTimeout c set => exact execCalWindowTimeout_safe c set s hS t h
  | calSwitchSlot c set => exact execCalSwitchSlot_safe c set s hS t h
  | calRampStep c set => exact execCalRampStep_safe c set s hS t h
  | calOpen path c sl => exact execCalOpen_safe path c sl s hS t h
  | calRestart path c => exact execCalRestart_safe path c s hS t h
  | corCalGainDataRead path c => exact execCorCalGainDataRead_safe path c s hS t h
  | monStart path mc ch => exact execMonStart_safe path mc ch s hS t h
  | monConversionDone mc code => exact execMonConversionDone_safe mc code s hS t h
  | monModeWrite path mc v => exact execMonModeWrite_safe path mc v s hS t h
  | monFallbackTimeout mc => exact execMonFallbackTimeout_safe mc s hS t h
  | monTrigger mc => exact execMonTrigger_safe mc s hS t h
  | monStale c => exact execMonStale_safe c s hS t h
  | rollback path ctx => exact execRollback_safe path ctx s hS t h
  | retestCore path c => exact execRetestCore_safe path c s hS t h
  | coreSelfTestDone c pass => exact execCoreSelfTestDone_safe c pass s hS t h
  | memScrubPass mem finds => exact execMemScrubPass_safe mem finds s hS t h
  | eventDatagramSend => exact execEventDatagramSend_safe s hS t h
  | join path => exact execJoin_safe path s hS t h
  | leave path => exact execLeave_safe path s hS t h
  | expel path m => exact execExpel_safe path m s hS t h
  | roundClose => exact execRoundClose_safe s hS t h
  | tally peer => exact execTally_safe peer s hS t h
  | tallyTimeout => exact execTallyTimeout_safe s hS t h
  | groupHello peer => exact execGroupHello_safe peer s hS t h
  | expelMessage peer => exact execExpelMessage_safe peer s hS t h
  | leaveMessage peer => exact execLeaveMessage_safe peer s hS t h
  | syncCtx peer => exact execSyncCtx_safe peer s hS t h
  | rxFrame port frame => exact execRxFrame_safe port frame s hS t h
  | ethLinkUp port => exact execEthLinkUp_safe port s hS t h
  | ethLinkDown port => exact execEthLinkDown_safe port s hS t h
  | openMsg peer => exact execOpenMsg_safe peer s hS t h
  | openAck peer => exact execOpenAck_safe peer s hS t h
  | ackMsg peer => exact execAckMsg_safe peer s hS t h
  | closeMsg peer => exact execCloseMsg_safe peer s hS t h
  | submit peer => exact execSubmit_safe peer s hS t h
  | forwardReq peer => exact execForwardReq_safe peer s hS t h
  | refuse peer => exact execRefuse_safe peer s hS t h
  | imgSegment peer => exact execImgSegment_safe peer s hS t h
  | sirinAckTimer peer => exact execSirinAckTimer_safe peer s hS t h
  | sirinRetxTimeout peer ch => exact execSirinRetxTimeout_safe peer ch s hS t h
  | sirinOpenRetry peer => exact execSirinOpenRetry_safe peer s hS t h
  | sirinOpenTimeout peer => exact execSirinOpenTimeout_safe peer s hS t h
  | reload path => exact execReload_safe path s hS t h
  | openCommand path peer => exact execOpenCommand_safe path peer s hS t h
  | closeCommand path peer => exact execCloseCommand_safe path peer s hS t h
  | ptpSync offset port => exact execPtpSync_safe offset port s hS t h
  | ptpSyncTimeout => exact execPtpSyncTimeout_safe s hS t h
  | tbsCfgWrite path v => exact execTbsCfgWrite_safe path v s hS t h
  | tbUnlocked => exact execTbUnlocked_safe s hS t h
  | tbLocked => exact execTbLocked_safe s hS t h
  | pciLinkDown cause => exact execPciLinkDown_safe cause s hS t h
  | pciLinkUp gen width => exact execPciLinkUp_safe gen width s hS t h
  | quote dgram => exact execQuote_safe dgram s hS t h
  | chain dgram => exact execChain_safe dgram s hS t h
  | smbusBlockRead op => exact execSmbusBlockRead_safe op s hS t h
  | bypass => exact execBypass_safe s hS t h
  | idcode => exact execIdcode_safe s hS t h
  | samplePreload bits => exact execSamplePreload_safe bits s hS t h
  | extest => exact execExtest_safe s hS t h
  | clamp => exact execClamp_safe s hS t h
  | highz => exact execHighz_safe s hS t h
  | extestPulse => exact execExtestPulse_safe s hS t h
  | extestTrain => exact execExtestTrain_safe s hS t h
  | resetRelease => exact execResetRelease_safe s hS t h
  | bootContainerVerify cfg bankB => exact execBootContainerVerify_safe cfg bankB s hS t h
  | memTrainingDone m ok rate raw typ => exact execMemTrainingDone_safe m ok rate raw typ s hS t h
  | recordRecallDone => exact execRecordRecallDone_safe s hS t h
  | startupMarginCheck c sl weak => exact execStartupMarginCheck_safe c sl weak s hS t h
  | startupCalibration c sl m => exact execStartupCalibration_safe c sl m s hS t h
  | deviceReady => exact execDeviceReady_safe s hS t h
  | deviceReadyTimeout => exact execDeviceReadyTimeout_safe s hS t h
  | bootCommit path => exact execBootCommit_safe path s hS t h
  | idle path => exact execIdle_safe path s hS t h
  | wake path => exact execWake_safe path s hS t h
  | wakeCalibration ms => exact execWakeCalibration_safe ms s hS t h
  | haltRecovery => exact execHaltRecovery_safe s hS t h
  | throttleLevelTick power => exact execThrottleLevelTick_safe power s hS t h
  | powerFail => exact execPowerFail_safe s hS t h
  | holdupExhausted => exact execHoldupExhausted_safe s hS t h
  | powerRestore => exact execPowerRestore_safe s hS t h
  | store path => exact execStore_safe path s hS t h
  | recAutoStore => exact execRecAutoStore_safe s hS t h
  | recMarginRead weak => exact execRecMarginRead_safe weak s hS t h
  | unlockRead path => exact execUnlockRead_safe path s hS t h
  | unlockWrite path => exact execUnlockWrite_safe path s hS t h
  | relock path => exact execRelock_safe path s hS t h
  | setReadPw path => exact execSetReadPw_safe path s hS t h
  | setWritePw path => exact execSetWritePw_safe path s hS t h
  | recDataAccess path w => exact execRecDataAccess_safe path w s hS t h
  | periodicSweep => exact execPeriodicSweep_safe s hS t h
  | sweepStart path => exact execSweepStart_safe path s hS t h
  | sweepDone => exact execSweepDone_safe s hS t h
  | windowEnd => exact execWindowEnd_safe s hS t h
  | ctrWinCfgWrite path v => exact execCtrWinCfgWrite_safe path v s hS t h
  | clearPeak path => exact execClearPeak_safe path s hS t h
  | smpIdxWrite path c v => exact execSmpIdxWrite_safe path c v s hS t h
  | resetAsserted => exact execResetAsserted_safe s hS t h
  | recStoreDone bad => exact execRecStoreDone_safe bad s hS t h

/-- A safe state is safe with its own version floors and with any queue put in place of its own. -/
theorem State.Inv.safe_pending {s : State} (h : s.Inv) (cq : List Instr) :
    ({ s with pending := cq } : State).Safe s.boot.ident.fwFloor s.boot.ident.cfgFloor cq :=
  ⟨h.mem, h.host, h.regs, h.ring, Nat.le_refl _, Nat.le_refl _, rfl, h.canon.congr rfl⟩

theorem step_cons {s : State} {c : Instr} {cs : List Instr} (h : s.pending = c :: cs) :
    step s = exec c { s with pending := cs } := by
  rw [step, h]

theorem step_nil {s : State} (h : s.pending = []) : step s = .next s.idleTick := by
  rw [step, h]

/-- Settles O1. -/
theorem stepRunsFront : Obligations.StepRunsFront := fun _ _ _ h => step_cons h

/-- Settles O3: a step is one command, which answers a safe state by `exec_safe`, or the idle tick. -/
theorem stepKeepsSafe : Obligations.StepKeepsSafe := by
  refine ⟨exec_next, fun s hS => ?_⟩
  cases hq : s.pending with
  | nil =>
    have hsafe := hS.safe_pending s.pending
    rw [hq] at hsafe
    exact ⟨s.idleTick, step_nil hq, State.idleTick_safe s (hsafe.congr rfl rfl rfl rfl rfl rfl hq rfl)⟩
  | cons c cs =>
    obtain ⟨t, ht⟩ := exec_next c { s with pending := cs }
    exact ⟨t, (step_cons hq).trans ht, exec_safe (hS.safe_pending cs) ht⟩

/-! ### The idle tick -/

/-- The parts of the state that the passing of time leaves alone: memory, registers, arrays, events, what was sent and the
queue. -/
def State.still (s : State) := (s.mem, s.regs, s.arrays, s.ev, s.tx, s.pending)

@[simp] theorem State.count_still (s : State) (b k n : Nat) : (s.count b k n).still = s.still := rfl

@[simp] theorem State.modRun_still (s : State) (r : EntryRef) (f : EntryRun → EntryRun) : (s.modRun r f).still = s.still := rfl

theorem State.stallTick_still (s : State) : s.stallTick.still = s.still := by
  unfold State.stallTick
  refine State.each_keeps State.still ?_ s _
  exact fun t x => State.modRun_still t x.1 _

theorem State.coreTick_still (s : State) (c : Nat) : (s.coreTick c).still = s.still := by
  simp only [State.coreTick, State.count_still]

theorem State.timeTick_still (s : State) : s.timeTick.still = s.still := by
  unfold State.timeTick
  dsimp only
  split
  all_goals
    repeat rw [State.each_keeps State.still]
    all_goals intro t x
    all_goals simp only [State.coreTick_still, State.count_still]

theorem State.expSettle_still (s : State) : s.expSettle.still = s.still := by
  unfold State.expSettle
  split <;> rfl

theorem State.idleTick_still (s : State) : s.idleTick.still = s.still :=
  calc s.idleTick.still = s.stallTick.timeTick.expSettle.still := rfl
    _ = s.still := by rw [State.expSettle_still, State.timeTick_still, State.stallTick_still]

/-! ### The state after reset -/

theorem State.reset_inv : State.reset.Inv :=
  ⟨rfl, rfl, rfl, Nat.zero_le _, Nat.zero_le _, Nat.zero_le _, rfl, ⟨rfl, rfl, rfl, rfl, rfl, rfl, rfl, rfl, rfl, rfl, rfl, rfl, rfl⟩⟩

theorem State.reset_rd (r : Reg) (i k : Nat) : State.reset.rd r i k = r.reset i k % 2 ^ 32 := BitVec.toNat_ofNat _ _

/-- Settles O2: no register is listed after reset, and the idle tick keeps all but counters of time. -/
theorem resetAndIdle : Obligations.ResetAndIdle := by
  refine ⟨⟨State.reset_inv, rfl, rfl, rfl, fun r i k h => ?_⟩, fun s hq => ⟨s.idleTick, step_nil hq, rfl, ?_⟩⟩
  · rw [State.reset_rd, Nat.mod_eq_of_lt h]
  · have hstill := s.idleTick_still
    simp only [State.still, Prod.mk.injEq] at hstill
    obtain ⟨hmem, hregs, harrays, hev, htx, hpending⟩ := hstill
    exact ⟨hpending.trans hq, hmem, hregs, harrays, hev, htx⟩

end Sys2Proof.Machine
end

section
/-! PROOFS. What does not work (R396, R403, R435): no engine runs while the device is not alive, those that stop in IDLE do not
run while it does not work, and a command does nothing on a path that its block does not answer on. -/
namespace Sys2Proof.Machine
open Sys2Proof

/-! ### A command that reaches its block, and one that does not -/

theorem State.asked_answered {s : State} {p : Path} {b : Blk} (h : s.answers p b = true) (f : State → State) :
    s.asked p b f = f s := if_pos h

theorem State.asked_unanswered {s : State} {p : Path} {b : Blk} (h : s.answers p b = false) (f : State → State) :
    s.asked p b f = s := if_neg (by simp only [h, Bool.false_eq_true, not_false_eq_true])

theorem next_asked_unanswered {s : State} {p : Path} {b : Blk} (h : s.answers p b = false) (f : State → State) :
    (.next (s.asked p b f) : Out) = .next s := by rw [State.asked_unanswered h]

theorem next_congr {s t : State} (h : t = s) : (.next t : Out) = .next s := by rw [h]

theorem next_if_neg {b : Bool} (h : b = false) (s t : State) : (.next (if b then t else s) : Out) = .next s := by
  rw [h, if_neg Bool.false_ne_true]

/-! ### The engines of a device that is not alive -/

section
variable {s : State} (h : s.alive = false)
include h

theorem State.up_of_not_alive : s.up = false := by
  simp only [State.alive, State.up, Bool.and_eq_false_iff, Bool.not_eq_false', decide_eq_false_iff_not, Bool.or_eq_false_iff] at *
  exact h.imp_right fun hst => by omega

theorem State.issues_of_not_alive : s.issues = false := by
  simp only [State.alive, State.issues, Bool.and_eq_false_iff, Bool.not_eq_false', decide_eq_false_iff_not] at *
  exact .inl (h.imp_right fun hst => by omega)

theorem State.works_of_not_alive : s.works = false := by rw [State.works, h, Bool.false_and]

theorem State.waveSlot_not_alive (c : Nat) : s.waveSlot c = s := by
  rw [State.waveSlot, h]
  rfl

theorem State.rotateTick_not_alive (c : Nat) : s.rotateTick c = s := by
  rw [State.rotateTick, State.up_of_not_alive h]
  rfl

theorem State.rowComplete_not_alive (r : EntryRef) (c row : Nat) (flt : Option ResFault) : s.rowComplete r c row flt = s := by
  unfold State.rowComplete
  rw [h]
  split
  next => rfl
  next => split <;> rfl

theorem State.rangeResolve_not_alive (r : EntryRef) (c row : Nat) : s.rangeResolve r c row = s := by
  unfold State.rangeResolve
  rw [h]
  split
  next => rfl
  next => split <;> rfl

theorem State.passStart_not_alive (r : EntryRef) (c : Nat) : s.passStart r c = s := by
  unfold State.passStart
  rw [h]
  split
  next => rfl
  next => split <;> rfl

theorem State.ingestBlock_not_alive (r : EntryRef) (c i : Nat) (flt : Option ResFault) : s.ingestBlock r c i flt = s := by
  unfold State.ingestBlock
  rw [h]
  split <;> rfl

theorem State.haloArrive_not_alive (c : Nat) (right : Bool) : s.haloArrive c right = s := by
  unfold State.haloArrive
  rw [h]
  dsimp only
  split <;> rfl

theorem State.haloAbandon_not_alive (c : Nat) (right : Bool) : s.haloAbandon c right = s := by
  unfold State.haloAbandon
  rw [h]
  dsimp only
  split <;> rfl

theorem State.entryComplete_not_alive (p pos idx : Nat) : s.entryComplete p pos idx = s := by
  unfold State.entryComplete
  rw [h]
  split <;> rfl

theorem State.fieldPhase_not_alive (c : Nat) (fails : List FieldFail) : s.fieldPhase c fails = s := by
  unfold State.fieldPhase
  rw [h]
  split <;> rfl

theorem State.issue_not_alive (p pos v : Nat) (start : State → EntryRef → State) : s.issue p pos v start = s := by
  unfold State.issue State.mayIssue
  rw [State.issues_of_not_alive h]
  split <;> rfl

theorem next_if_alive (t : State) : (.next (if s.alive then t else s) : Out) = .next s := next_if_neg h s t

theorem next_if_alive_and (b : Bool) (t : State) : (.next (if s.alive && b then t else s) : Out) = .next s :=
  next_if_neg (by rw [h, Bool.false_and]) s t

theorem exec_refreshDeferredTimeout_not_alive (c : CoreId) (sl : SlotId) : exec (.refreshDeferredTimeout c sl) s = .next s := by
  simp only [exec, execRefreshDeferredTimeout, h]
  split <;> rfl

end

/-! ### The engines that stop in IDLE -/

section
variable {s : State} (h : s.works = false)
include h

theorem exec_scanBatch_not_works (c : CoreId) (sl : SlotId) (weak : Nat) : exec (.scanBatch c sl weak) s = .next s :=
  next_if_neg (by rw [h, Bool.false_and]) s _

theorem exec_refreshBatch_not_works (c : CoreId) (sl : SlotId) : exec (.refreshBatch c sl) s = .next s :=
  next_if_neg (by rw [h, Bool.false_and, Bool.false_and]) s _

theorem exec_tender_not_works (c : CoreId) (b : Bool) : exec (.tenderWdogTimeout c) s = .next s ∧
    exec (.tenderFwFault c b) s = .next s ∧ exec (.tenderHeartbeatTick c) s = .next s := by
  obtain ⟨hfault, hwdog, hbeat⟩ := exec_tender_stopped (c := c) h
  exact ⟨hwdog, hfault b, hbeat⟩

end

/-- Settles O4, engine by engine: each tests the power state, or the path, before it does anything. -/
theorem unreachedBlocks : Obligations.UnreachedBlocks := by
  unfold Obligations.UnreachedBlocks
  simp only [List.forall_mem_cons, List.not_mem_nil, false_implies, implies_true, and_true]
  refine ⟨fun s c d p sl l pos idx row peer ctx q model right b flt h => ⟨?_, ?_, ?_, fun cells => ?_, fun m => ?_, fun f => ?_⟩,
    fun s c sl set weak h => ⟨?_, fun refs => ?_⟩, fun s path c sl b n v q ctx => ?_⟩
  · have hw := State.works_of_not_alive h
    obtain ⟨hwdog, hfault, hbeat⟩ := exec_tender_not_works hw c b
    exact ⟨next_if_alive h _, next_if_alive h _, exec_scanBatch_not_works hw c sl idx, exec_refreshBatch_not_works hw c sl,
      exec_refreshDeferredTimeout_not_alive h c sl, next_congr (State.waveSlot_not_alive h c),
      next_if_neg (by rw [h, Bool.false_and, Bool.false_and]) s _, next_if_alive h _, next_if_alive h _, next_if_alive h _,
      next_congr (State.rotateTick_not_alive h c), next_if_alive h _,
      next_congr (State.rowComplete_not_alive h _ c row flt), next_congr (State.rangeResolve_not_alive h _ c row),
      next_congr (State.passStart_not_alive h _ c), next_if_alive h _,
      next_congr (State.ingestBlock_not_alive h _ c row flt), next_if_alive h _, next_if_alive h _, hwdog, hfault, hbeat,
      next_if_alive h _, next_congr (State.haloArrive_not_alive h c right),
      next_congr (State.haloAbandon_not_alive h c right), next_if_alive h _, next_if_alive h _,
      next_congr (State.entryComplete_not_alive h p pos idx),
      next_congr (State.poundTake_none (.inl (State.issues_of_not_alive h)))⟩
  · have hissue (at_ : PosId) (v : Nat) (start : State → EntryRef → State) :
        (.next (s.issue p at_ v start) : Out) = .next s := next_congr (State.issue_not_alive h p at_ v start)
    exact ⟨hissue _ _ _, hissue _ _ _, hissue _ _ _, hissue _ _ _, hissue _ _ _, hissue _ _ _, hissue _ _ _, hissue _ _ _,
      hissue _ _ _, hissue _ _ _, hissue _ _ _, hissue _ _ _, hissue _ _ _, hissue _ _ _, hissue _ _ _⟩
  · exact ⟨next_if_alive h _, next_if_alive h _, next_if_alive h _, next_if_alive h _, next_if_alive h _, next_if_alive h _,
      next_if_alive h _, next_if_alive h _, next_if_alive h _, next_if_alive h _,
      next_if_neg (by rw [h, Bool.false_and, Bool.false_and, Bool.false_and]) s _, next_if_alive h _,
      next_if_neg (by rw [h, Bool.false_and, Bool.false_and]) s _, next_if_alive_and h _ _⟩
  · exact ⟨next_if_alive h _, next_if_alive h _⟩
  · exact next_if_alive h _
  · exact next_congr (State.fieldPhase_not_alive h c f)
  · exact ⟨exec_scanBatch_not_works h c sl weak, exec_refreshBatch_not_works h c sl, next_if_neg h s _, next_if_neg h s _,
      next_if_neg h s _, next_if_neg h s _, next_if_neg h s _⟩
  · exact next_if_neg h s _
  · refine ⟨fun h => ⟨?_, next_if_neg h _ _⟩, fun h => ⟨?_, next_if_neg h _ _⟩, fun h => ?_, fun h => ?_, fun h => ?_,
      fun h => ?_, fun h => ⟨?_, fun reason => ?_⟩, fun h => ⟨?_, fun set => ?_⟩, fun h => ⟨?_, ?_, next_if_neg h _ _⟩,
      fun h mc => ⟨fun ch => ?_, ?_⟩, fun h => ?_⟩
    all_goals
      repeat' apply And.intro
      all_goals exact next_asked_unanswered h _

end Sys2Proof.Machine
end

section
/-! PROOFS. Writes of control space (R10 to R13): what a write of one register word does by the access class of each bit, a
shadow and its taking effect, and the write that is discarded. -/
namespace Sys2Proof
open Sys2Proof

/-! ### Bits of a word -/

theorem add_eq_or_of_and_eq_zero {x y : Nat} (h : x &&& y = 0) : x + y = x ||| y := by
  have hlt : x + y < 2 ^ (x + y) := Nat.lt_two_pow_self
  have hx : x % 2 ^ (x + y) = x := Nat.mod_eq_of_lt (by omega)
  have hy : y % 2 ^ (x + y) = y := Nat.mod_eq_of_lt (by omega)
  have hdisj : BitVec.ofNat (x + y) x &&& BitVec.ofNat (x + y) y = 0#(x + y) := by
    apply BitVec.eq_of_toNat_eq
    rw [BitVec.toNat_and, BitVec.toNat_ofNat, BitVec.toNat_ofNat, hx, hy, h, BitVec.toNat_ofNat, Nat.zero_mod]
  have hsum := congrArg BitVec.toNat (BitVec.add_eq_or_of_and_eq_zero _ _ hdisj)
  rwa [BitVec.toNat_add, BitVec.toNat_or, BitVec.toNat_ofNat, BitVec.toNat_ofNat, hx, hy, Nat.mod_eq_of_lt hlt] at hsum

theorem testBit_sub_and (a b j : Nat) : (a - (a &&& b)).testBit j = (a.testBit j && !b.testBit j) := by
  have hdisj : (a ^^^ (a &&& b)) &&& (a &&& b) = 0 := by
    apply Nat.eq_of_testBit_eq
    intro i
    simp only [Nat.testBit_and, Nat.testBit_xor, Nat.zero_testBit]
    cases a.testBit i <;> cases b.testBit i <;> rfl
  have hor : (a ^^^ (a &&& b)) ||| (a &&& b) = a := by
    apply Nat.eq_of_testBit_eq
    intro i
    simp only [Nat.testBit_and, Nat.testBit_xor, Nat.testBit_or]
    cases a.testBit i <;> cases b.testBit i <;> rfl
  have hsum := add_eq_or_of_and_eq_zero hdisj
  rw [hor] at hsum
  rw [show a - (a &&& b) = a ^^^ (a &&& b) by omega, Nat.testBit_xor, Nat.testBit_and]
  cases a.testBit j <;> cases b.testBit j <;> rfl

/-! ### The bits of a register by access class -/

/-- The bits of one field. -/
def RegField.bits (f : RegField) : Nat := 2 ^ (f.hi + 1) - 2 ^ f.lo

theorem Reg.mask_eq_sum (r : Reg) (accs : List Acc) :
    r.mask accs = ((r.spec.fields.filter (fun f => accs.contains f.acc)).map RegField.bits).sum := by
  have hgen : ∀ (fs : List RegField) (m : Nat),
      fs.foldl (fun m f => if accs.contains f.acc then m + (2 ^ (f.hi + 1) - 2 ^ f.lo) else m) m =
        m + ((fs.filter (fun f => accs.contains f.acc)).map RegField.bits).sum := by
    intro fs
    induction fs with
    | nil => exact fun m => rfl
    | cons f fs ih =>
      intro m
      rw [List.foldl_cons, ih, List.filter_cons]
      split
      · rw [List.map_cons, List.sum_cons, RegField.bits]
        omega
      · rfl
  rw [Reg.mask, hgen, Nat.zero_add]

theorem Reg.mask_congr (r : Reg) {as bs : List Acc} (h : ∀ a, as.contains a = bs.contains a) : r.mask as = r.mask bs := by
  simp only [Reg.mask_eq_sum, h]

/-- A class that the register has no bit of adds nothing to a mask. -/
theorem Reg.mask_cons_of_eq_zero (r : Reg) {a : Acc} {as : List Acc} (ha : r.mask [a] = 0) : r.mask (a :: as) = r.mask as := by
  rw [Reg.mask_eq_sum] at ha
  rw [Reg.mask_eq_sum, Reg.mask_eq_sum]
  generalize r.spec.fields = fs at ha ⊢
  induction fs with
  | nil => rfl
  | cons f fs ih =>
    simp only [List.filter_cons, List.contains_cons, List.contains_nil, Bool.or_false, Bool.or_eq_true] at ha ih ⊢
    by_cases hf : (f.acc == a) = true
    · simp only [hf, ↓reduceIte, List.map_cons, List.sum_cons, Nat.add_eq_zero_iff] at ha
      by_cases hg : as.contains f.acc = true
      · simp only [hf, hg, or_self, ↓reduceIte, List.map_cons, List.sum_cons, ih ha.2]
      · simp only [hf, hg, true_or, ↓reduceIte, List.map_cons, List.sum_cons, ha.1, Nat.zero_add, ih ha.2, Bool.false_eq_true]
    · simp only [hf, ↓reduceIte, Bool.false_eq_true] at ha
      by_cases hg : as.contains f.acc = true
      · simp only [hf, hg, or_true, ↓reduceIte, List.map_cons, List.sum_cons, ih ha]
      · simp only [hf, hg, or_self, ↓reduceIte, ih ha, Bool.false_eq_true]

theorem sum_filter_le {α : Type} (f : α → Nat) (p : α → Bool) (xs : List α) : ((xs.filter p).map f).sum ≤ (xs.map f).sum := by
  induction xs with
  | nil => exact Nat.le_refl _
  | cons x xs ih =>
    rw [List.filter_cons, List.map_cons, List.sum_cons]
    split
    · rw [List.map_cons, List.sum_cons]
      omega
    · omega

/-- A sum of numbers is zero when each of them is. -/
theorem natSum_eq_zero {xs : List Nat} : xs.sum = 0 ↔ ∀ x ∈ xs, x = 0 := by
  induction xs with
  | nil => exact ⟨fun _ _ hx => (List.not_mem_nil hx).elim, fun _ => rfl⟩
  | cons x xs ih => rw [List.sum_cons, List.forall_mem_cons, Nat.add_eq_zero_iff, ih]

theorem Reg.fields_sum_lt (r : Reg) : (r.spec.fields.map RegField.bits).sum < 2 ^ 32 := by
  cases r <;> decide

theorem Reg.mask_lt (r : Reg) (accs : List Acc) : r.mask accs < 2 ^ 32 := by
  rw [Reg.mask_eq_sum]
  exact Nat.lt_of_le_of_lt (sum_filter_le RegField.bits _ _) r.fields_sum_lt

/-! ### What a write leaves of the word -/

theorem Machine.testBit_written (r : Reg) (busy : Bool) (cur v j : Nat) : (Machine.written r busy cur v).testBit j =
    if (r.mask [.rw, .rws]).testBit j || ((r.mask [.rwl]).testBit j && !busy) then v.testBit j
    else cur.testBit j && !((r.mask [.w1c]).testBit j && v.testBit j) := by
  have htake : (if busy then 0 else r.mask [.rwl]).testBit j = ((r.mask [.rwl]).testBit j && !busy) := by
    cases busy
    · rw [if_neg Bool.false_ne_true, Bool.not_false, Bool.and_true]
    · rw [if_pos rfl, Nat.zero_testBit, Bool.not_true, Bool.and_false]
  simp only [Machine.written, Nat.testBit_or, testBit_sub_and, Nat.testBit_and, htake]
  cases (r.mask [.rw, .rws]).testBit j || ((r.mask [.rwl]).testBit j && !busy) <;>
    cases cur.testBit j <;> cases v.testBit j <;> cases (r.mask [.w1c]).testBit j <;> rfl

end Sys2Proof

namespace Sys2Proof.Machine
open Sys2Proof

/-! ### One word written to a register -/

/-- A whole word written to an aligned address is one access on every path (R432). -/
theorem exec_registerWrite_word (s : State) (path : Path) (addr v : Word) : exec (.registerWrite path addr (.write [(v, 15)])) s =
    .next (s.csPost path (addr.toNat / 4 * 4) v.toNat) := by
  cases path <;> rfl

section
variable {s : State} {path : Path} {r : Reg} {i k off : Nat} {v : Word} (hlt : r.addr i k < 2 ^ 32) (hal : r.addr i k % 4 = 0)
  (hdec : decodeAddr (r.addr i k) = .inBlock r.spec.blk i off) (hreg : regAt r.spec.blk i off = some (r, k))
  (hans : s.answers path r.spec.blk = true)
include hlt hal hdec hreg hans

theorem exec_registerWrite_reg : exec (.registerWrite path (BitVec.ofNat 32 (r.addr i k)) (.write [(v, 15)])) s =
    .next (s.writeReg path r i k v.toNat) := by
  have haddr : (BitVec.ofNat 32 (r.addr i k)).toNat / 4 * 4 = r.addr i k := by
    rw [BitVec.toNat_ofNat, Nat.mod_eq_of_lt hlt]
    omega
  rw [exec_registerWrite_word, haddr, State.csPost, State.csWrite, State.answersAt, hdec]
  simp only [placeBlk, hans, hreg, Bool.not_true, Bool.false_eq_true, if_false]

end

section
variable {s : State} {path : Path} {r : Reg} {i k v : Nat}

theorem State.writeReg_reserved (h : v &&& r.mask [.rsv] ≠ 0 ∨ badEnc r i k v = true) :
    s.writeReg path r i k v = s.ignored path (r.addr i k) 2 :=
  if_pos (by simpa only [Bool.or_eq_true, decide_eq_true_eq] using h)

variable (hrsv : v &&& r.mask [.rsv] = 0) (henc : badEnc r i k v = false)
include hrsv henc

theorem State.writeReg_refused (href : refuses r path k v = true) : s.writeReg path r i k v = s.ignored path (r.addr i k) 3 := by
  simp only [State.writeReg, hrsv, henc, href, ne_eq, not_true_eq_false, decide_false, Bool.or_self, Bool.false_eq_true, if_false,
    if_true]

theorem State.writeReg_good (href : refuses r path k v = false) : s.writeReg path r i k v = s.regWrite path r i k v := by
  simp only [State.writeReg, hrsv, henc, href, ne_eq, not_true_eq_false, decide_false, Bool.or_self, Bool.false_eq_true, if_false]

end

/-- A write of a register with no command of its own acts by the classes of its bits alone (R10). -/
theorem State.regWrite_of_not_own {r : Reg} (h : r.own = false) (s : State) (p : Path) (i k v : Nat) :
    s.regWrite p r i k v = s.classWrite p r i k v := by
  cases r <;> simp only [Reg.own, Bool.true_eq_false] at h <;> rfl

/-- Settles O5: the word written by `testBit_written`, with RWS bits absent. -/
theorem registerWriteByClass : Obligations.RegisterWriteByClass := by
  unfold Obligations.RegisterWriteByClass
  intro s path r i k off v hlt hal hdec hreg hown hrws hsh hans hrsv henc href
  have hshadowed : s.shadowed r i k = s.rd r i k := by
    rw [State.shadowed, hsh]
    rfl
  have hmask : r.mask [.rw, .rws] = r.mask [.rw] := by
    rw [r.mask_congr (bs := [.rws, .rw]) (fun a => by cases a <;> rfl), r.mask_cons_of_eq_zero hrws]
  refine ⟨written r (s.blkBusy r.spec.blk i) (s.rd r i k) v.toNat, fun j => ?_, ?_⟩
  · rw [testBit_written, hmask]
  · rw [exec_registerWrite_reg hlt hal hdec hreg hans, State.writeReg_good hrsv henc href, State.regWrite_of_not_own hown,
      State.classWrite, hshadowed]
    dsimp only
    rw [if_pos hrws]

/-! ### Shadows -/

theorem refuses_of_rws {r : Reg} (h : r.mask [.rws] ≠ 0) (p : Path) (k v : Nat) : refuses r p k v = false := by
  cases r <;> simp only [refuses]
  all_goals exact absurd (by decide) h

theorem regDefault_of_reg {r : Reg} {i k off : Nat} (hdec : decodeAddr (r.addr i k) = .inBlock r.spec.blk i off)
    (hreg : regAt r.spec.blk i off = some (r, k)) : regDefault (r.addr i k) = BitVec.ofNat 32 (r.reset i k) := by
  rw [regDefault, hdec]
  simp only [hreg]

/-- The word of an RWS register after a write of classes RW and RWS: the active RWS bits stay (R11). -/
def rwsActive (r : Reg) (old new : Nat) : Nat := (new - (new &&& r.mask [.rws])) ||| (old &&& r.mask [.rws])

theorem State.classWrite_rws {r : Reg} (hrws : r.mask [.rws] ≠ 0) (hrwl : r.mask [.rwl] = 0) (s : State) (p : Path) (i k v : Nat) :
    let new := written r (s.blkBusy r.spec.blk i) (s.shadowed r i k) v
    let act := rwsActive r (s.rd r i k) new
    s.classWrite p r i k v = { s.wr r i k act with
      shadows := if new = act then s.shadows.erase (r.addr i k) else s.shadows.insert (r.addr i k) (BitVec.ofNat 32 new) } := by
  simp only [State.classWrite, hrwl, Nat.and_zero, ne_eq, not_true_eq_false, decide_false, Bool.and_false, Bool.false_eq_true,
    if_false, if_neg hrws, rwsActive, State.wr_shadows]
  rfl

theorem testBit_mod_two_pow_32 {x m j : Nat} (hm : m < 2 ^ 32) (hj : m.testBit j = true) : (x % 2 ^ 32).testBit j = x.testBit j := by
  have hj32 : j < 32 := Decidable.byContradiction fun hge => by
    rw [Nat.testBit_lt_two_pow (Nat.lt_of_lt_of_le hm (Nat.pow_le_pow_right (by decide) (Nat.le_of_not_lt hge)))] at hj
    exact Bool.false_ne_true hj
  simp only [Nat.testBit_mod_two_pow, hj32, decide_true, Bool.true_and]

theorem testBit_rwsActive {r : Reg} {j : Nat} (hj : (r.mask [.rws]).testBit j = true) (old new : Nat) :
    (rwsActive r old new).testBit j = old.testBit j := by
  simp only [rwsActive, Nat.testBit_or, testBit_sub_and, Nat.testBit_and, hj, Bool.not_true, Bool.and_false, Bool.false_or,
    Bool.and_true]

theorem State.shadowed_of_some {s : State} {r : Reg} {i k : Nat} {v : Word} (h : s.shadows.find? (r.addr i k) = some v) :
    s.shadowed r i k = v.toNat := by
  rw [State.shadowed, h]
  rfl

theorem State.shadowed_of_none {s : State} {r : Reg} {i k : Nat} (h : s.shadows.find? (r.addr i k) = none) :
    s.shadowed r i k = s.rd r i k := by
  rw [State.shadowed, h]
  rfl

/-- A shadow that takes effect is the register's word as a whole, and no longer pending (R12). -/
theorem State.applyShadow_reg {lf lg : Nat} {cq : List Instr} {s : State} (h : s.Safe lf lg cq) {r : Reg} {i k : Nat}
    (hdef : regDefault (r.addr i k) = BitVec.ofNat 32 (r.reset i k)) :
    (s.applyShadow (r.addr i k)).rd r i k = s.shadowed r i k ∧ (s.applyShadow (r.addr i k)).shadows.find? (r.addr i k) = none ∧
      (s.applyShadow (r.addr i k)).mem = s.mem ∧ (s.applyShadow (r.addr i k)).arrays = s.arrays := by
  unfold State.applyShadow
  split
  next v hv =>
    refine ⟨?_, NMap.find?_erase_self _ h.canon.shadows, rfl, rfl⟩
    rw [State.shadowed_of_some hv, hdef, State.rd, NMap.get_set_self _ _ _ h.regs]
  next hnone => exact ⟨(State.shadowed_of_none hnone).symm, hnone, rfl, rfl⟩

theorem State.idleShadow_waits {s : State} {a : Nat} (hin : inWin a 0x01000000 0x01000000 = true)
    (hw : s.someWaiting (32 * ((a - 0x01000000) / 0x00400000) + a % 0x00400000 / 0x00020000) = true) : s.idleShadow a = s := by
  simp only [State.idleShadow, hin, hw, if_true]

theorem State.idleShadow_idle {s : State} {a : Nat} (hw : inWin a 0x01000000 0x01000000 = true →
    s.someWaiting (32 * ((a - 0x01000000) / 0x00400000) + a % 0x00400000 / 0x00020000) = false) :
    s.idleShadow a = s.applyShadow a := by
  unfold State.idleShadow
  split
  next hin => simp only [hw hin, Bool.false_eq_true, if_false]
  next => rfl

/-- What a write of an RWS register leaves: the active RWS bits, and the written word as what software reads (R10, R11). -/
theorem State.classWrite_rws_bits {lf lg : Nat} {cq : List Instr} {s : State} (h : s.Safe lf lg cq) {r : Reg}
    (hrws : r.mask [.rws] ≠ 0) (hrwl : r.mask [.rwl] = 0) (p : Path) (i k v : Nat) :
    (∀ j, (r.mask [.rws]).testBit j = true → ((s.classWrite p r i k v).rd r i k).testBit j = (s.rd r i k).testBit j) ∧
    (∀ j, (r.mask [.rws, .rw]).testBit j = true → ((s.classWrite p r i k v).shadowed r i k).testBit j = v.testBit j) := by
  rw [State.classWrite_rws hrws hrwl]
  generalize hnew : written r (s.blkBusy r.spec.blk i) (s.shadowed r i k) v = new
  generalize hact : rwsActive r (s.rd r i k) new = act
  have hrd : ∀ sh : NMap Word, ({ s.wr r i k act with shadows := sh } : State).rd r i k = act % 2 ^ 32 :=
    fun _ => State.rd_wr h r i k act
  have hbits : ∀ j, (r.mask [.rws, .rw]).testBit j = true → (new % 2 ^ 32).testBit j = v.testBit j := by
    intro j hj
    rw [testBit_mod_two_pow_32 (r.mask_lt _) hj, ← hnew, testBit_written, r.mask_congr (bs := [.rws, .rw]) (fun a => by cases a <;> rfl), hj]
    rfl
  refine ⟨fun j hj => ?_, fun j hj => ?_⟩
  · rw [hrd, testBit_mod_two_pow_32 (r.mask_lt _) hj, ← hact, testBit_rwsActive hj]
  · rw [← hbits j hj]
    by_cases he : new = act
    · rw [State.shadowed_of_none, hrd, he]
      simp only [if_pos he, NMap.find?_erase_self _ h.canon.shadows]
    · rw [State.shadowed_of_some (v := BitVec.ofNat 32 new), BitVec.toNat_ofNat]
      simp only [if_neg he, NMap.find?_insert_self]

theorem Reg.mask_eq_zero_of_cons {r : Reg} {a : Acc} {as : List Acc} (h : r.mask as = 0) (ha : as.contains a = true) :
    r.mask [a] = 0 := by
  rw [Reg.mask_eq_sum, natSum_eq_zero] at h ⊢
  intro x hx
  obtain ⟨f, hf, rfl⟩ := List.mem_map.1 hx
  have hfa := List.mem_filter.1 hf
  simp only [List.contains_cons, List.contains_nil, Bool.or_false, beq_iff_eq] at hfa
  exact h _ (List.mem_map_of_mem (List.mem_filter.2 ⟨hfa.1, by rw [hfa.2]; exact ha⟩))

/-- Settles O6: the word as `State.classWrite_rws` leaves it, and the shadow's effect by `State.applyShadow_reg`. -/
theorem shadowWaitsThenApplies : Obligations.ShadowWaitsThenApplies := by
  unfold Obligations.ShadowWaitsThenApplies
  intro s path r i k off v hS hlt hal hdec hreg hown hrws hothers hans hrsv henc
  have hrwl : r.mask [.rwl] = 0 := Reg.mask_eq_zero_of_cons hothers (by decide)
  have haddr : (BitVec.ofNat 32 (r.addr i k)).toNat = r.addr i k := by rw [BitVec.toNat_ofNat, Nat.mod_eq_of_lt hlt]
  have hidle (t : State) : exec (.rwsShadowApplyIdle (BitVec.ofNat 32 (r.addr i k))) t = .next (t.idleShadow (r.addr i k)) :=
    congrArg (fun a => Host.Outcome.next (t.idleShadow a)) haddr
  have hsafe := State.classWrite_safe s path r i k v.toNat hS
  obtain ⟨hactive, hpending⟩ := State.classWrite_rws_bits hS hrws hrwl path i k v.toNat
  refine ⟨s.classWrite path r i k v.toNat, ?_, hactive, hpending, fun hin hw => ?_, fun hw => ⟨_, hidle _, ?_⟩⟩
  · rw [exec_registerWrite_reg hlt hal hdec hreg hans,
      State.writeReg_good hrsv henc (refuses_of_rws hrws path k v.toNat), State.regWrite_of_not_own hown]
  · rw [hidle, State.idleShadow_waits hin hw]
  · rw [State.idleShadow_idle hw]
    obtain ⟨hrd, hnone, hmem, harrays⟩ := State.applyShadow_reg hsafe (regDefault_of_reg hdec hreg)
    refine ⟨hrd, hnone, hmem.trans ?_, harrays.trans ?_⟩
    · rw [State.classWrite_rws hrws hrwl, State.wr_mem]
    · rw [State.classWrite_rws hrws hrwl, State.wr_arrays]

/-! ### A discarded write -/

/-- A discarded write changes what reads at four addresses: those of the event's flag, count and address, and of lost events. -/
theorem State.rd_ignored_ne {lf lg : Nat} {cq : List Instr} {s : State} (h : s.Safe lf lg cq) (p : Path) (addr cause : Nat)
    {r : Reg} {i k : Nat} (hne : r.addr i k ∉ [Reg.lkpCsEvent.addr 0 0, Reg.lkpCsIgnoredCount.addr 0 0,
      Reg.lkpCsIgnoredLast.addr 0 0, Reg.chkEvtLost.addr 0 0]) : (s.ignored p addr cause).rd r i k = s.rd r i k := by
  simp only [List.mem_cons, List.not_mem_nil, or_false, not_or] at hne
  obtain ⟨hflag, hcount, hlast, hlost⟩ := hne
  have hS1 := State.flag_safe s .lkpCsEvent 0 1 h
  have hS2 := State.bump_safe _ .lkpCsIgnoredCount 0 1 hS1
  have hS3 := State.wr_safe _ .lkpCsIgnoredLast 0 0 addr hS2
  calc (s.ignored p addr cause).rd r i k
      = (((s.flag .lkpCsEvent 0 1).bump .lkpCsIgnoredCount 0 1).wr .lkpCsIgnoredLast 0 0 addr).rd r i k :=
        State.rd_raise_ne hS3 _ hlost
    _ = ((s.flag .lkpCsEvent 0 1).bump .lkpCsIgnoredCount 0 1).rd r i k := State.rd_wr_ne hS2 _ hlast
    _ = (s.flag .lkpCsEvent 0 1).rd r i k := State.rd_wr_ne hS1 _ hcount
    _ = s.rd r i k := State.rd_wr_ne h _ hflag

/-- Settles O7. -/
theorem reservedWriteDiscarded : Obligations.ReservedWriteDiscarded := by
  unfold Obligations.ReservedWriteDiscarded
  intro s path r i k off v hS hlt hal hdec hreg hans hbad
  refine ⟨s.ignored path (r.addr i k) 2, ?_, rfl, State.ignored_mem .., State.ignored_arrays .., State.ignored_cores ..,
    State.ignored_queues .., fun r' i' k' hne => State.rd_ignored_ne hS path _ 2 hne⟩
  rw [exec_registerWrite_reg hlt hal hdec hreg hans, State.writeReg_reserved hbad]

end Sys2Proof.Machine
end

section
/-! PROOFS. Accesses of the host and of the management port (R381, R388, R432 to R435), and reads of LO words that latch
their HI words (R419, R426, R434). -/
namespace Sys2Proof.Machine
open Sys2Proof

/-! ### Bytes stored in a sparse memory -/

section
variable {m : NMap Byte} (hs : NMap.sorted m = true)
include hs

/-- A byte outside the stored range reads as before. -/
theorem get_storeBytes_outside {a b : Nat} (bs : List Byte) (hb : b < a ∨ a + bs.length ≤ b) :
    (storeBytes m a bs).get 0 b = m.get 0 b := by
  induction bs generalizing m a with
  | nil => rfl
  | cons c bs ih =>
    rw [List.length_cons] at hb
    have hrest := ih (NMap.sorted_set 0 a c hs) (a := a + 1) (by omega)
    exact hrest.trans (NMap.get_set_ne 0 0 c (by omega) hs)

/-- The stored range reads as the bytes stored. -/
theorem get_storeBytes_inside {a i : Nat} (bs : List Byte) (hi : i < bs.length) :
    (storeBytes m a bs).get 0 (a + i) = bs.getD i 0 := by
  induction bs generalizing m a i with
  | nil => exact absurd hi (Nat.not_lt_zero i)
  | cons c bs ih =>
    have hset := NMap.sorted_set 0 a c hs
    cases i with
    | zero =>
      refine (get_storeBytes_outside hset bs (.inl (Nat.lt_succ_self a))).trans ?_
      exact NMap.get_set_self 0 a c hs
    | succ i =>
      rw [List.length_cons] at hi
      have hrest := ih hset (a := a + 1) (i := i) (by omega)
      rw [Nat.add_right_comm] at hrest
      exact hrest

end

/-! ### BAR2 -/

section
variable {s : State} {off : Nat}

theorem exec_bar2Access_unreached (h : s.alive = false ∨ s.pcieUp = false) (op : MemOp) :
    exec (.bar2Access off op) s = .next s :=
  next_if_neg (by rcases h with h | h <;> simp only [h, Bool.false_and, Bool.and_false]) s _

variable (halive : s.alive = true) (hup : s.pcieUp = true)
include halive hup

theorem exec_bar2Access (op : MemOp) : exec (.bar2Access off op) s = .next (s.bar2 off op) := by
  simp only [exec, execBar2Access, halive, hup, Bool.and_self, if_true]

theorem exec_bar2Access_beyond (h : 2 ^ s.rf .pciBar2Cfg 0 12 8 ≤ off) (op : MemOp) : exec (.bar2Access off op) s = .next s := by
  rw [exec_bar2Access halive hup]
  simp only [State.bar2, h, decide_true, Bool.or_true, if_true]

variable (hoff : off < 2 ^ s.rf .pciBar2Cfg 0 12 8)
include hoff

theorem exec_bar2Access_write (bs : List Byte) : exec (.bar2Access off (.write bs)) s =
    .next (if s.rf .pciBar2Cfg 0 6 0 * 2 ^ 30 + off + bs.length ≤ s.usable then
      s.putMem (s.rf .pciBar2Cfg 0 6 0 * 2 ^ 30 + off) bs else s.send (.data .pcie [] true)) := by
  rw [exec_bar2Access halive hup]
  simp only [State.bar2, halive, Nat.not_le.2 hoff, decide_false, Bool.not_true, Bool.or_self, Bool.false_eq_true, if_false]

theorem exec_bar2Access_read (n : Nat) : exec (.bar2Access off (.read n)) s =
    .next (if s.usable < s.rf .pciBar2Cfg 0 6 0 * 2 ^ 30 + off + n then s.send (.data .pcie [] true)
      else if s.poisoned (s.rf .pciBar2Cfg 0 6 0 * 2 ^ 30 + off) n then
        (s.ueEvent (ctlOf (s.rf .pciBar2Cfg 0 6 0 * 2 ^ 30 + off)) (s.rf .pciBar2Cfg 0 6 0 * 2 ^ 30 + off)).send (.data .pcie [] true)
      else s.send (.bar2 (s.bytesAt (s.rf .pciBar2Cfg 0 6 0 * 2 ^ 30 + off) n))) := by
  rw [exec_bar2Access halive hup]
  simp only [State.bar2, halive, Nat.not_le.2 hoff, decide_false, Bool.not_true, Bool.or_self, Bool.false_eq_true, if_false]

end

/-! ### Accesses of control space -/

theorem State.send_inj {s t : State} {x y : Tx} (h : s.send x = t.send y) : s = t ∧ x = y := by
  have htx := List.append_inj' (congrArg State.tx h) rfl
  refine ⟨?_, List.singleton_inj.1 htx.2⟩
  have hback : ∀ u : State, ∀ z : Tx, { u.send z with tx := u.tx } = u := fun _ _ => rfl
  rw [← hback s x, ← hback t y, h, htx.1]

/-- A whole word read at an aligned address is one access on every path (R432). -/
theorem exec_registerWrite_read (s : State) (path : Path) (addr : Word) : exec (.registerWrite path addr (.read 1)) s =
    .next ((s.csRead path (addr.toNat / 4 * 4)).2.reply path ((s.csRead path (addr.toNat / 4 * 4)).1.getD 0)) := by
  cases path <;> rfl

theorem aligned_eq {a : Nat} (h : a % 4 = 0) : a / 4 * 4 = a := by omega

/-- A gap holds no register (R13). -/
def gapAt (a : Nat) : Prop := decodeAddr a = .counterGap ∨ ∃ b i off, decodeAddr a = .inBlock b i off ∧ regAt b i off = none

section
variable {s : State} {path : Path} {a : Nat}

theorem State.csRead_unanswered (h : s.answersAt path a = false) : s.csRead path a = (some 0, s) := by
  rw [State.csRead, h]
  rfl

theorem State.csPost_unanswered (h : s.answersAt path a = false) (v : Nat) : s.csPost path a v = s := by
  rw [State.csPost, State.csWrite, h]
  rfl

variable (h : s.answersAt path a = true)
include h

theorem State.csRead_unmapped (hd : decodeAddr a = .unmapped) : s.csRead path a = (none, s.unmapped path a true) := by
  rw [State.csRead, h, hd]
  rfl

theorem State.csPost_unmapped (hd : decodeAddr a = .unmapped) (v : Nat) : s.csPost path a v = s.unmapped path a false := by
  rw [State.csPost, State.csWrite, h, hd]
  rfl

theorem State.csRead_gap (hd : gapAt a) : s.csRead path a = (some 0, s) := by
  rcases hd with hd | ⟨b, i, off, hd, hr⟩
  · rw [State.csRead, h, hd]
    rfl
  · rw [State.csRead, h, hd]
    simp only [hr]
    rfl

theorem State.csPost_gap (hd : gapAt a) (v : Nat) : s.csPost path a v = if v = 0 then s else s.ignored path a 2 := by
  rcases hd with hd | ⟨b, i, off, hd, hr⟩
  · rw [State.csPost, State.csWrite, h, hd]
    rfl
  · rw [State.csPost, State.csWrite, h, hd]
    simp only [hr]
    rfl

variable {b : Blk} {i off : Nat} {r : Reg} {k : Nat} (hd : decodeAddr a = .inBlock b i off) (hr : regAt b i off = some (r, k))
include hd hr

theorem State.csRead_reg : s.csRead path a = (some (s.regRead path r i k).1, (s.regRead path r i k).2) := by
  rw [State.csRead, h, hd]
  simp only [hr]
  rfl

theorem State.csPost_reg (v : Nat) : s.csPost path a v = s.writeReg path r i k v := by
  rw [State.csPost, State.csWrite, h, hd]
  simp only [hr]
  rfl

end

/-! ### BAR0 transactions of more than one dword (R432) -/

section
variable {s : State} {addr : Word} (hal : addr.toNat % 4 = 0)
include hal

theorem exec_registerWrite_pcie (op : Bar0) : exec (.registerWrite .pcie addr op) s = .next (s.bar0 addr.toNat op) := by
  rw [← aligned_eq hal]
  rfl

theorem exec_registerWrite_reads (n : Nat) (hn : 2 < n) : exec (.registerWrite .pcie addr (.read n)) s =
    .next ((if s.answersAt .pcie addr.toNat then s.badAccess .pcie addr.toNat n else s).send (.data .pcie [] true)) := by
  rw [exec_registerWrite_pcie hal, State.bar0, if_pos hn]

theorem exec_registerWrite_writes {ds : List (Word × BitVec 4)} (hds : 2 < ds.length ∨ ∃ d ∈ ds, d.2 ≠ 15) :
    exec (.registerWrite .pcie addr (.write ds)) s =
      .next (if s.answersAt .pcie addr.toNat then s.badAccess .pcie addr.toNat ds.length else s) := by
  rw [exec_registerWrite_pcie hal, State.bar0, if_pos]
  simpa only [Bool.or_eq_true, decide_eq_true_eq, List.any_eq_true] using hds

end

theorem addr_add_four {addr : Word} (h : addr.toNat + 4 < 2 ^ 32) : (addr + 4).toNat = addr.toNat + 4 := by
  rw [BitVec.toNat_add]
  exact Nat.mod_eq_of_lt h

/-! ### Requests of the management port (R388) -/

section
variable {s : State} {d : List Byte}

theorem State.mgmtRequest_down (h : s.mgmtUp = false) : s.mgmtRequest d = s := by
  rw [State.mgmtRequest, h]
  rfl

/-- The state with the SEQ of an executed request remembered. -/
def State.seqSeen (s : State) (d : List Byte) : State := { s with ports := { s.ports with lastSeq := some (leAt d 8 8) } }

/-- The answer to a request: its header with STATUS, what was read, and the tag. -/
def State.mgmtAnswer (s : State) (d bytes : List Byte) (ok : Bool) : State :=
  s.send (.mgmt 47621 ((patch (d.take 32) 6 [if ok then 0 else 1] ++ bytes) ++
    s.mgmtTag (patch (d.take 32) 6 [if ok then 0 else 1] ++ bytes)))

variable (hup : s.mgmtUp = true)
include hup

theorem State.mgmtRequest_dropped (h : s.requestDrop d ≠ 0) : s.mgmtRequest d = s.dropRequest (s.requestDrop d) := by
  rw [State.mgmtRequest, hup]
  exact if_pos h

variable (hdrop : s.requestDrop d = 0)
include hdrop

theorem State.mgmtRequest_read (h : leAt d 4 1 = 1) : s.mgmtRequest d =
    ((s.seqSeen d).mgmtReads (leAt d 16 4) (leAt d 5 1)).2.2.mgmtAnswer d ((s.seqSeen d).mgmtReads (leAt d 16 4) (leAt d 5 1)).1
      ((s.seqSeen d).mgmtReads (leAt d 16 4) (leAt d 5 1)).2.1 := by
  simp only [State.mgmtRequest, hup, hdrop, h, Bool.not_true, Bool.false_eq_true, ne_eq, not_true_eq_false, if_false, if_true]
  rfl

theorem State.mgmtRequest_write (h : leAt d 4 1 ≠ 1) : s.mgmtRequest d =
    ((s.seqSeen d).mgmtWrites (leAt d 16 4) ((List.range (leAt d 5 1)).map (fun i => leAt d (32 + 4 * i) 4))).2.mgmtAnswer d []
      ((s.seqSeen d).mgmtWrites (leAt d 16 4) ((List.range (leAt d 5 1)).map (fun i => leAt d (32 + 4 * i) 4))).1 := by
  simp only [State.mgmtRequest, hup, hdrop, h, Bool.not_true, Bool.false_eq_true, ne_eq, not_true_eq_false, if_false]
  rfl

end

theorem State.mgmtReads_one {s : State} {a v : Nat} (h : (s.csRead .mgmt a).1 = some v) :
    s.mgmtReads a 1 = (leBytes 4 v ++ [], true, (s.csRead .mgmt a).2) := by
  rw [State.mgmtReads]
  split
  next t he => exact absurd (congrArg Prod.fst he) (by rw [h]; exact Option.some_ne_none v)
  next w t he =>
    obtain rfl : v = w := Option.some_inj.1 (h.symm.trans (congrArg Prod.fst he))
    rw [he]
    rfl

theorem State.dropRequest_keeps (s : State) (cause : Nat) :
    (s.dropRequest cause).ports.lastSeq = s.ports.lastSeq ∧ (s.dropRequest cause).mem = s.mem := by
  unfold State.dropRequest
  dsimp only
  split
  · exact ⟨rfl, rfl⟩
  · exact ⟨by rw [State.raise_ports], by rw [State.raise_mem]⟩

/-- Settles O8: BAR2 accesses by their bytes, control-space accesses by `State.csRead` and `State.csPost`, and the requests of
the management port by their checks. -/
theorem hostAccess : Obligations.HostAccess := by
  unfold Obligations.HostAccess
  refine ⟨⟨fun s off op h => exec_bar2Access_unreached h op, fun s off hS halive hup =>
      ⟨exec_bar2Access_beyond halive hup, fun hoff => ⟨fun bs hin => ?_, fun n hin hp => ?_, fun n hin hp => ?_, fun n hout => ?_,
        fun bs hout => ?_⟩⟩⟩,
    ⟨fun s path addr hal => ⟨fun hans => ?_, fun hans => ⟨fun hd => ?_, fun hd => ?_, fun b i off r k hd hr => ?_⟩⟩,
      fun s addr hal => ⟨exec_registerWrite_reads hal, fun ds => exec_registerWrite_writes hal, fun hlt => ?_⟩⟩,
    fun s d h => next_congr (State.mgmtRequest_down h), fun s d v hup hdrop hread hone hv => ?_,
    fun s d hup hdrop => ⟨fun h => congrArg Host.Outcome.next (State.mgmtRequest_read hup hdrop h),
      fun h => congrArg Host.Outcome.next (State.mgmtRequest_write hup hdrop h)⟩,
    fun s d hup hdrop => ⟨congrArg Host.Outcome.next (State.mgmtRequest_dropped hup hdrop), State.dropRequest_keeps s _⟩⟩
  · have hsorted := NMap.sorted_of_wf hS.mem
    exact ⟨_, (exec_bar2Access_write halive hup hoff bs).trans (congrArg Host.Outcome.next (if_pos hin)),
      fun i hi => get_storeBytes_inside hsorted bs hi, fun b hb => get_storeBytes_outside hsorted bs hb, rfl, rfl⟩
  · rw [exec_bar2Access_read halive hup hoff, if_neg (Nat.not_lt.2 hin), if_neg (by rw [hp]; exact Bool.false_ne_true)]
  · rw [exec_bar2Access_read halive hup hoff, if_neg (Nat.not_lt.2 hin), if_pos hp]
  · rw [exec_bar2Access_read halive hup hoff, if_pos hout]
  · rw [exec_bar2Access_write halive hup hoff, if_neg (Nat.not_le.2 hout)]
  · simp only [exec_registerWrite_read, exec_registerWrite_word, aligned_eq hal, State.csRead_unanswered hans,
      State.csPost_unanswered hans, Option.getD_some, implies_true, and_self]
  · simp only [exec_registerWrite_read, exec_registerWrite_word, aligned_eq hal, State.csRead_unmapped hans hd,
      State.csPost_unmapped hans hd, Option.getD_none, implies_true, and_self]
  · simp only [exec_registerWrite_read, exec_registerWrite_word, aligned_eq hal, State.csRead_gap hans hd,
      State.csPost_gap hans hd, Option.getD_some, true_and]
    refine ⟨rfl, fun v hv => ?_⟩
    rw [if_neg fun h : v.toNat = 0 => hv (BitVec.eq_of_toNat_eq h)]
  · simp only [exec_registerWrite_read, exec_registerWrite_word, aligned_eq hal, State.csRead_reg hans hd hr,
      State.csPost_reg hans hd hr, Option.getD_some, true_and]
    intro v hrsv henc href
    rw [State.writeReg_refused hrsv henc href]
  · have hnext := addr_add_four hlt
    have hal' : (addr + 4).toNat % 4 = 0 := by omega
    refine ⟨fun v w t u ht hu => ?_, fun v w t u ht hu => ?_⟩
    · dsimp only at ht hu ⊢
      rw [exec_registerWrite_word, aligned_eq hal] at ht
      rw [exec_registerWrite_word, aligned_eq hal', hnext] at hu
      rw [← hu, ← Host.Outcome.next.inj ht, exec_registerWrite_pcie hal]
      rfl
    · dsimp only at ht hu ⊢
      rw [exec_registerWrite_read, aligned_eq hal] at ht
      rw [exec_registerWrite_read, aligned_eq hal', hnext] at hu
      obtain ⟨ht1, ht2⟩ := State.send_inj (Host.Outcome.next.inj ht)
      obtain ⟨hu1, hu2⟩ := State.send_inj (Host.Outcome.next.inj hu)
      simp only [Tx.data.injEq, true_and, and_true, List.cons.injEq] at ht2 hu2
      rw [exec_registerWrite_pcie hal, ← ht2, ← hu2, ← hu1, ← ht1]
      rfl
  · refine ⟨_, rfl, ?_⟩
    rw [State.mgmtRequest_read hup hdrop hread, hone, State.seqSeen, State.mgmtReads_one hv, State.mgmtAnswer, List.append_nil]
    rfl

/-! ### LO reads -/

theorem latchKey_inj {p : Path} {a b : Nat} (h : latchKey p a = latchKey p b) : a = b := by
  unfold latchKey at h
  omega

theorem State.latched_latch {s : State} (hs : NMap.sorted s.latches = true) (p : Path) (a v : Nat) :
    (s.latch p a v).latched p a = v % 2 ^ 32 := by
  rw [State.latched, State.latch, NMap.get_set_self _ _ _ hs, BitVec.toNat_ofNat]

theorem State.latched_latch_ne {s : State} (hs : NMap.sorted s.latches = true) (p : Path) {a b : Nat} (v : Nat) (hne : b ≠ a) :
    (s.latch p a v).latched p b = s.latched p b := by
  rw [State.latched, State.latch, NMap.get_set_ne _ _ _ (fun h => hne (latchKey_inj h)) hs, State.latched]

theorem State.latch_sorted {s : State} (hs : NMap.sorted s.latches = true) (p : Path) (a v : Nat) :
    NMap.sorted (s.latch p a v).latches = true := NMap.sorted_set _ _ _ hs

/-- A counter reads as its count, or as some value where the count is open (assumption 10). -/
theorem State.ctrRead_cases (s : State) (n : Nat) : ∃ u : State, ∃ v, s.ctrRead n = (v, u) ∧ v < 2 ^ 64 ∧
    (ctrOpen n = false → v = (s.ctrs.get 0 n).toNat) ∧ u.ctrs = s.ctrs ∧ u.regs = s.regs ∧ u.mem = s.mem ∧ u.tx = s.tx ∧
    u.latches = s.latches := by
  by_cases hopen : ctrOpen n = true
  · refine ⟨s.fresh.2, u64 s.fresh.1, if_pos hopen, Nat.mod_lt _ (by decide), fun h => ?_, rfl, rfl, rfl, rfl, rfl⟩
    exact absurd (hopen.symm.trans h) (by decide)
  · exact ⟨s, _, if_neg hopen, BitVec.isLt _, fun _ => rfl, rfl, rfl, rfl, rfl, rfl⟩

/-- A window channel reads as its LAST and PEAK, or as some values where they are open (assumption 10). -/
theorem State.winRead_cases {s : State} {x : WinCh} (hx : s.wins.chans.get {} (s.rf .ctrWinSel 0 5 0) = x)
    (hlast : x.last < 2 ^ 64) (hpeak : x.peak < 2 ^ 64) : ∃ l k, ∃ u : State, s.winRead = (l, k, u) ∧ l < 2 ^ 64 ∧ k < 2 ^ 64 ∧
    (winOpen (s.rf .ctrWinSel 0 5 0) = false → l = x.last ∧ k = x.peak) ∧ u.wins = s.wins ∧ u.regs = s.regs ∧ u.mem = s.mem ∧
    u.tx = s.tx ∧ u.latches = s.latches := by
  by_cases hopen : winOpen (s.rf .ctrWinSel 0 5 0) = true
  · refine ⟨_, _, _, if_pos hopen, Nat.mod_lt _ (by decide), Nat.mod_lt _ (by decide), fun h => ?_, rfl, rfl, rfl, rfl, rfl⟩
    exact absurd (hopen.symm.trans h) (by decide)
  · refine ⟨x.last, x.peak, s, ?_, hlast, hpeak, fun _ => ⟨rfl, rfl⟩, rfl, rfl, rfl, rfl, rfl⟩
    rw [← hx]
    exact if_neg hopen

theorem exec_counterLoRead_counter {s : State} {path : Path} {addr : Word} {n : Nat} (hans : s.answers path .ctr = true)
    (hd : decodeAddr addr.toNat = .counter n false) : exec (.counterLoRead path addr) s =
      .next ((s.ctrLo path n addr.toNat).2.reply path (s.ctrLo path n addr.toNat).1) := by
  simp only [exec, execCounterLoRead, hans, hd, if_true]

theorem exec_counterLoRead_none {s : State} {path : Path} {addr : Word} (hd : ∀ n, decodeAddr addr.toNat ≠ .counter n false) :
    exec (.counterLoRead path addr) s = .next (s.reply path 0) := by
  simp only [exec, execCounterLoRead]
  split <;> rfl

theorem next_if_answers {s : State} {p : Path} {b : Blk} (h : s.answers p b = true) (t u : State) :
    (.next (if s.answers p b then t else u) : Out) = .next t := by rw [h, if_pos rfl]

theorem next_unless_answers {s : State} {p : Path} {b : Blk} (h : s.answers p b = false) (t u : State) :
    (.next (if s.answers p b then t else u) : Out) = .next u := by rw [h, if_neg Bool.false_ne_true]

theorem div_two_pow_32_mod {v : Nat} (h : v < 2 ^ 64) : v / 2 ^ 32 % 2 ^ 32 = v / 2 ^ 32 :=
  Nat.mod_eq_of_lt (by omega)

/-- Settles O9: the latches by `State.latched_latch`, the value read by `State.ctrRead_cases` and `State.winRead_cases`. -/
theorem loReadsLatch : Obligations.LoReadsLatch := by
  unfold Obligations.LoReadsLatch
  refine ⟨fun s path => ⟨fun h addr => next_unless_answers h _ _, fun addr => exec_counterLoRead_none,
      fun h => next_unless_answers h _ _, fun h => next_unless_answers h _ _⟩,
    fun s path addr n hS hans hd => ?_, fun s path hS hans => ?_, fun s path x hS hans hx hlast hpeak hidx => ?_⟩
  · obtain ⟨u, v, hread, hv, hcount, hctrs, hregs, hmem, htx, hlatches⟩ := s.ctrRead_cases n
    have hsorted : NMap.sorted u.latches = true := by
      rw [hlatches]
      exact NMap.sorted_of_wf hS.canon.latches
    have hlo : s.ctrLo path n addr.toNat = (u32 v, u.latch path (addr.toNat + 4) (v / 2 ^ 32)) := by
      rw [State.ctrLo, hread]
    refine ⟨_, v, (exec_counterLoRead_counter hans hd), hv, hcount, ?_, ?_, ?_, ?_, ?_⟩
    · rw [hlo]
      exact congrArg (· ++ _) htx
    · rw [hlo]
      exact (State.latched_latch hsorted path _ _).trans (div_two_pow_32_mod hv)
    · rw [hlo]
      exact hctrs
    · rw [hlo]
      exact hregs
    · rw [hlo]
      exact hmem
  · have hsorted := NMap.sorted_of_wf hS.canon.latches
    refine ⟨_, next_if_answers hans _ _, rfl, ?_, rfl, rfl, rfl⟩
    exact (State.latched_latch hsorted path _ _).trans (div_two_pow_32_mod (Nat.mod_lt _ (by decide)))
  · obtain ⟨l, k, u, hread, hl, hk, hvals, hwins, hregs, hmem, htx, hlatches⟩ := State.winRead_cases hx hlast hpeak
    have h0 : NMap.sorted u.latches = true := by
      rw [hlatches]
      exact NMap.sorted_of_wf hS.canon.latches
    have h1 := State.latch_sorted h0 path (Reg.ctrWinLastHi.addr 0 0) (l / 2 ^ 32)
    have h2 := State.latch_sorted h1 path (Reg.ctrWinPeakLo.addr 0 0) (u32 k)
    have h3 := State.latch_sorted h2 path (Reg.ctrWinPeakHi.addr 0 0) (k / 2 ^ 32)
    have hlo : s.winLastLo path = (u32 l, (((u.latch path (Reg.ctrWinLastHi.addr 0 0) (l / 2 ^ 32)).latch path
        (Reg.ctrWinPeakLo.addr 0 0) (u32 k)).latch path (Reg.ctrWinPeakHi.addr 0 0) (k / 2 ^ 32)).latch path
          (Reg.ctrWinIdx.addr 0 0) s.wins.idx) := by
      rw [State.winLastLo, hread]
    refine ⟨_, l, k, next_if_answers hans _ _, hvals, ?_⟩
    rw [hlo]
    refine ⟨congrArg (· ++ _) htx, ?_, ?_, ?_, ?_, hwins, hregs, hmem⟩
    · refine (State.latched_latch_ne h3 path _ (by decide)).trans ?_
      refine (State.latched_latch_ne h2 path _ (by decide)).trans ?_
      refine (State.latched_latch_ne h1 path _ (by decide)).trans ?_
      rw [State.latched_latch h0, div_two_pow_32_mod hl]
    · refine (State.latched_latch_ne h3 path _ (by decide)).trans ?_
      refine (State.latched_latch_ne h2 path _ (by decide)).trans ?_
      rw [State.latched_latch h1, u32, Nat.mod_mod]
    · refine (State.latched_latch_ne h3 path _ (by decide)).trans ?_
      rw [State.latched_latch h2, div_two_pow_32_mod hk]
    · refine (State.latched_latch h3 path _ _).trans ?_
      rw [Nat.mod_eq_of_lt hidx]

end Sys2Proof.Machine
end

section
/-! PROOFS. GO and ABORT of a program job (R44, R47, R52): the job that GO starts, and how ABORT ends one. -/
namespace Sys2Proof.Machine
open Sys2Proof

/-! ### What the suspension of replay leaves alone -/

section
variable (s : State) (c : Nat)

@[simp] theorem State.degrade_arrays : (s.degrade c).arrays = s.arrays := by
  unfold State.degrade
  dsimp only
  split
  · rfl
  · split <;> simp

@[simp] theorem State.degrade_mem : (s.degrade c).mem = s.mem := by
  unfold State.degrade
  dsimp only
  split
  · rfl
  · split <;> simp

@[simp] theorem State.degrade_queues : (s.degrade c).queues = s.queues := by
  unfold State.degrade
  dsimp only
  split
  · rfl
  · split <;> simp

@[simp] theorem State.degrade_pgmQueue : (s.degrade c).pgmQueue = s.pgmQueue := by
  unfold State.degrade
  dsimp only
  split
  · rfl
  · split <;> simp

@[simp] theorem State.suspendReplay_arrays : (s.suspendReplay c).arrays = s.arrays := by
  unfold State.suspendReplay
  dsimp only
  split <;> simp

@[simp] theorem State.suspendReplay_mem : (s.suspendReplay c).mem = s.mem := by
  unfold State.suspendReplay
  dsimp only
  split <;> simp

@[simp] theorem State.suspendReplay_queues : (s.suspendReplay c).queues = s.queues := by
  unfold State.suspendReplay
  dsimp only
  split <;> simp

@[simp] theorem State.suspendReplay_pgmQueue : (s.suspendReplay c).pgmQueue = s.pgmQueue := by
  unfold State.suspendReplay
  dsimp only
  split <;> simp

@[simp] theorem State.arr_suspendReplay (b : Nat) : (s.suspendReplay c).arr b = s.arr b := by
  simp only [State.arr, State.suspendReplay_arrays]

end

/-! ### The job of a GO -/

/-- The job that an array's own registers describe (R47, R60). -/
def State.ownJob (s : State) (a : Nat) : PgmJob where
  scope := s.rf .arrPgmCtrl a 1 0
  first := s.rf .arrPgmCtrl a 15 5
  lastRow := s.rf .arrPgmCtrl a 26 16
  version := s.rd .arrPgmVersion a
  src := s.rdPair .arrPgmSrcLo .arrPgmSrcHi a
  prev := (s.arr a).st
  queued := decide (64 ≤ s.runningJobs)
  checked := false
  started := false
  next := s.resumeAt a
  last := if s.resumeAt a = 0 then 0x1FFF else s.resumeAt a - 1
  crcs := []
  stuck := []
  repairs := []
  dead := []
  repaired := 0
  rotation := false
  aborting := false
  held := (0, [])
  gate := false

/-- The array while its own job runs or waits. -/
def State.ownArr (s : State) (a : Nat) : Arr :=
  { s.arr a with st := .programming, job := some (s.ownJob a), scanPos := 0, scanning := false }

theorem State.startOwn_eq (s : State) (a : Nat) : s.startOwn a =
    ({ s.setArr a (s.ownArr a) with pgmQueue := s.pgmQueue ++ if (s.ownJob a).queued then [a] else [] } : State).storeArr a false := by
  unfold State.startOwn State.startJob
  dsimp only
  split
  next hq =>
    rw [show (s.ownJob a).queued = true from hq, if_pos rfl]
    rfl
  next hq =>
    rw [show (s.ownJob a).queued = false from Bool.eq_false_iff.2 hq, if_neg Bool.false_ne_true, List.append_nil]
    rfl

section
variable {s : State} {path : Path} {a : Nat}

theorem State.pgmGo_not_recalled (h : s.recs.recalled = false) :
    s.pgmGo path a = s.ignored path (Reg.arrPgmCmd.addr a 0) 3 := by
  rw [State.pgmGo, h]
  rfl

variable (h : s.recs.recalled = true)
include h

theorem State.pgmGo_serving (hst : (s.arr a).st = .serving) : s.pgmGo path a = s.raise (evArr 0x2006 1 a 0) := by
  rw [State.pgmGo, h, hst]
  rfl

theorem State.pgmGo_programming (hst : (s.arr a).st = .programming) :
    s.pgmGo path a = s.ignored path (Reg.arrPgmCmd.addr a 0) 3 := by
  rw [State.pgmGo, h, hst]
  rfl

theorem State.pgmGo_starts (hp : (s.arr a).st ≠ .programming) (hs : (s.arr a).st ≠ .serving) :
    s.pgmGo path a = (s.startOwn a).suspendReplay a := by
  rw [State.pgmGo, h]
  simp only [Bool.not_true, Bool.false_eq_true, if_false]

end

/-! ### ABORT -/

section
variable {lf lg : Nat} {cq : List Instr} {s : State} (h : s.Safe lf lg cq) (a : Nat) (st : ArrSt)

@[simp] theorem State.endJob_pgmQueue : (s.endJob a st).pgmQueue = s.pgmQueue.filter (· ≠ a) := by simp [State.endJob]

@[simp] theorem State.endJob_mem : (s.endJob a st).mem = s.mem := by simp [State.endJob]

include h

theorem State.arr_endJob : (s.endJob a st).arr a = { s.arr a with st := st, job := none } := by
  rw [State.endJob, State.arr_storeArr]
  exact State.arr_modArr (State.Safe.lit h rfl rfl rfl rfl) a _

theorem State.arr_endJob_ne {b : Nat} (hb : b ≠ a) : (s.endJob a st).arr b = s.arr b := by
  rw [State.endJob, State.arr_storeArr]
  exact State.arr_modArr_ne (State.Safe.lit h rfl rfl rfl rfl) _ hb

end

section
variable {s : State} {a : Nat} {j : PgmJob}

theorem State.onJob_none (h : (s.arr a).job = none) (f : State → State) : s.onJob a f = s := by
  rw [State.onJob, h]
  rfl

theorem State.onJob_some (h : (s.arr a).job = some j) (f : State → State) : s.onJob a f = (f s).jobEnded a := by
  rw [State.onJob, h]
  rfl

variable (hst : (s.arr a).st = .programming) (hj : (s.arr a).job = some j)
include hst hj

theorem State.pgmAbort_queued (hq : j.queued = true) : s.pgmAbort a = s.endJob a j.prev := by
  rw [State.pgmAbort, hst, hj]
  exact if_pos hq

theorem State.pgmAbort_started (hq : j.queued = false) (hs : j.started = true) :
    s.pgmAbort a = s.modArr a (fun x => { x with job := some { j with aborting := true } }) := by
  rw [State.pgmAbort, hst, hj]
  simp only [hq, hs, Bool.false_eq_true, if_false, if_true]

theorem State.pgmAbort_checking (hq : j.queued = false) (hs : j.started = false) :
    s.pgmAbort a = ((s.endJob a j.prev).flag .arrEvent a 0x80).raise (evArr 0x200C 1 a 0x1FFF) := by
  rw [State.pgmAbort, hst, hj]
  simp only [hq, hs, Bool.false_eq_true, if_false]

end

theorem State.resumeAt_eq (s : State) (a : Nat) : s.resumeAt a =
    match s.rb .arrPgmCtrl a 31, (s.arr a).st, (s.arr a).recalled with
    | true, .partial_, some k =>
      if k.version = s.rd .arrPgmVersion a ∧ k.scope = s.rf .arrPgmCtrl a 1 0 then
        if k.last = 0x1FFF then 0 else k.last + 1 else 0
    | _, _, _ => 0 := by
  unfold State.resumeAt
  cases s.rb .arrPgmCtrl a 31 with
  | false => rfl
  | true =>
    cases (s.arr a).recalled with
    | none => cases (s.arr a).st <;> rfl
    | some k =>
      cases (s.arr a).st
      case partial_ =>
        by_cases hsame : k.version = s.rd .arrPgmVersion a ∧ k.scope = s.rf .arrPgmCtrl a 1 0
        · obtain ⟨hv, hs⟩ := hsame
          by_cases hl : k.last = 0x1FFF <;> simp only [hv, hs, hl, and_self, ↓reduceIte, ne_eq, not_true_eq_false,
            not_false_eq_true, decide_true, decide_false, Bool.and_self, Bool.and_false, Bool.false_eq_true]
        · simp only [↓reduceIte, hsame]
          refine if_neg fun hc => hsame ?_
          simp only [Bool.and_eq_true, decide_eq_true_eq] at hc
          exact ⟨hc.1.1.2, hc.1.2⟩
      all_goals rfl

/-- Settles O10: the job that GO starts is `State.ownJob`, and ABORT ends a job by the part of it that has run. -/
theorem pgmGoAbort : Obligations.PgmGoAbort := by
  unfold Obligations.PgmGoAbort
  refine ⟨fun s path c sl hS hans => ?_, fun s path c sl hans hj => ?_, fun s path c sl j hS hans hst hj => ?_⟩
  · have hgo : exec (.arrPgmGo path c sl) s = .next (s.pgmGo path (arrId c sl)) :=
      congrArg Host.Outcome.next (State.asked_answered hans _)
    simp only [hgo]
    generalize arrId c sl = a
    refine ⟨fun hrec hp hs => ⟨_, s.ownJob a, congrArg _ (State.pgmGo_starts hrec hp hs), ?_⟩,
      fun hrec hs => by rw [State.pgmGo_serving hrec hs], fun hrec hp => by rw [State.pgmGo_programming hrec hp],
      fun hrec => by rw [State.pgmGo_not_recalled hrec]⟩
    have harr : ((s.startOwn a).suspendReplay a).arr a = s.ownArr a := by
      rw [State.arr_suspendReplay, State.startOwn_eq, State.arr_storeArr]
      exact State.arr_setArr hS a (s.ownArr a)
    have hne (b : Nat) (hb : b ≠ a) : ((s.startOwn a).suspendReplay a).arr b = s.arr b := by
      rw [State.arr_suspendReplay, State.startOwn_eq, State.arr_storeArr]
      exact State.arr_setArr_ne hS (s.ownArr a) hb
    refine ⟨by rw [harr]; rfl, by rw [harr]; rfl, rfl, rfl, rfl, rfl, rfl, rfl, rfl, rfl, rfl, rfl, State.resumeAt_eq s a, ?_, hne,
      by rw [harr]; rfl, ?_, ?_⟩
    · rw [State.suspendReplay_pgmQueue, State.startOwn_eq, State.storeArr_pgmQueue]
    · rw [State.suspendReplay_mem, State.startOwn_eq, State.storeArr_mem]
      rfl
    · rw [State.suspendReplay_queues, State.startOwn_eq, State.storeArr_queues]
      rfl
  · have habort : exec (.arrPgmAbort path c sl) s = .next (s.onJob (arrId c sl) (fun u => u.pgmAbort (arrId c sl))) :=
      congrArg Host.Outcome.next (State.asked_answered hans _)
    rw [habort, State.onJob_none hj]
  · have habort : exec (.arrPgmAbort path c sl) s = .next ((s.pgmAbort (arrId c sl)).jobEnded (arrId c sl)) :=
      (congrArg Host.Outcome.next (State.asked_answered hans _)).trans (congrArg _ (State.onJob_some hj _))
    refine ⟨_, habort, ?_⟩
    generalize arrId c sl = a at hst hj
    by_cases hq : j.queued = true
    · rw [State.pgmAbort_queued hst hj hq, State.arr_endJob hS]
      refine ⟨fun b hb => State.arr_endJob_ne hS a j.prev hb, State.endJob_mem a j.prev,
        fun _ => ⟨rfl, rfl, State.endJob_pgmQueue a j.prev⟩, fun hn => ?_, fun hn => ?_⟩
      all_goals exact absurd (hq.symm.trans hn) (by decide)
    · have hq := Bool.eq_false_iff.2 hq
      by_cases hs : j.started = true
      · rw [State.pgmAbort_started hst hj hq hs, State.arr_modArr hS]
        exact ⟨fun b hb => State.arr_modArr_ne hS _ hb, rfl, fun hn => absurd (hq.symm.trans hn) (by decide),
          fun _ hn => absurd (hs.symm.trans hn) (by decide), fun _ _ => ⟨rfl, hst, rfl⟩⟩
      · rw [State.pgmAbort_checking hst hj hq (Bool.eq_false_iff.2 hs)]
        simp only [State.arr_raise, State.arr_flag, State.raise_mem, State.flag_mem, State.endJob_mem, State.arr_endJob hS]
        exact ⟨fun b hb => State.arr_endJob_ne hS a j.prev hb, trivial, fun hn => absurd (hq.symm.trans hn) (by decide),
          fun _ _ => ⟨trivial, trivial, s.endJob a j.prev, rfl⟩, fun _ hn => absurd hn hs⟩

end Sys2Proof.Machine
end

section
/-! PROOFS. Fields of a register word after a write of the field (R5, R10), and the trim tables of an array (R34, R60). -/
namespace Sys2Proof
open Sys2Proof

/-! ### Fields -/

theorem fld_eq (v hi lo : Nat) : fld v hi lo = v / 2 ^ lo % 2 ^ (hi + 1 - lo) := by rw [fld, Nat.shiftRight_eq_div_pow]

/-- A replaced field reads as the low bits of what replaced it. -/
theorem fld_putFld (v hi lo x : Nat) : fld (putFld v hi lo x) hi lo = x % 2 ^ (hi + 1 - lo) := by
  have hpow := Nat.two_pow_pos lo
  have hle : fld v hi lo * 2 ^ lo ≤ v := by
    rw [fld_eq]
    exact Nat.le_trans (Nat.mul_le_mul_right _ (Nat.mod_le _ _)) (Nat.div_mul_le_self _ _)
  have hdiv : (v - fld v hi lo * 2 ^ lo) / 2 ^ lo = 2 ^ (hi + 1 - lo) * (v / 2 ^ lo / 2 ^ (hi + 1 - lo)) := by
    rw [Nat.mul_comm, Nat.sub_mul_div, fld_eq]
    have hsplit := Nat.div_add_mod (v / 2 ^ lo) (2 ^ (hi + 1 - lo))
    omega
  rw [fld_eq (putFld v hi lo x), putFld, Nat.shiftLeft_eq, Nat.shiftLeft_eq, Nat.add_mul_div_right _ _ hpow, hdiv,
    Nat.mul_add_mod, Nat.mod_mod]

/-- A field below bit 32 does not see that a word is cut to 32 bits. -/
theorem fld_mod_two_pow_32 {hi lo : Nat} (v : Nat) (hlo : lo ≤ 32) (hhi : hi < 32) : fld (v % 2 ^ 32) hi lo = fld v hi lo := by
  rw [fld_eq, fld_eq, show 2 ^ 32 = 2 ^ lo * 2 ^ (32 - lo) by rw [← Nat.pow_add, Nat.add_sub_cancel' hlo], Nat.mod_mul_right_div_self,
    Nat.mod_mod_of_dvd _ (Nat.pow_dvd_pow 2 (by omega))]

end Sys2Proof

namespace Sys2Proof.Machine
open Sys2Proof

theorem State.rf_wr {lf lg : Nat} {cq : List Instr} {s : State} (h : s.Safe lf lg cq) (r : Reg) (i v : Nat) {hi lo : Nat}
    (hlo : lo ≤ 32) (hhi : hi < 32) : (s.wr r i 0 v).rf r i hi lo = fld v hi lo := by
  rw [State.rf, State.rd_wr h, fld_mod_two_pow_32 v hlo hhi]

/-- A field that was replaced reads as what replaced it. -/
theorem State.rf_wf_ {lf lg : Nat} {cq : List Instr} {s : State} (h : s.Safe lf lg cq) (r : Reg) (i v : Nat) {hi lo : Nat}
    (hlo : lo ≤ 32) (hhi : hi < 32) : (s.wf_ r i hi lo v).rf r i hi lo = v % 2 ^ (hi + 1 - lo) := by
  rw [State.wf_, State.rf_wr h r i _ hlo hhi, fld_putFld]

/-! ### The trim tables -/

section
variable {lf lg : Nat} {cq : List Instr} {s : State}

/-- PAIR after an access (R60). -/
def nextPair (n : Nat) : Nat := if 515 ≤ n then 0 else n + 1

theorem State.rf_trimStep (h : s.Safe lf lg cq) {a : Nat} (hinc : s.rb .arrTrimAddr a 16 = true) :
    (s.trimStep a).rf .arrTrimAddr a 9 0 = nextPair (s.rf .arrTrimAddr a 9 0) := by
  rw [State.trimStep, if_pos hinc, State.rf_wf_ h .arrTrimAddr a _ (by decide) (by decide)]
  refine Nat.mod_eq_of_lt ?_
  split <;> omega

theorem State.trimStep_off {a : Nat} (hinc : s.rb .arrTrimAddr a 16 = false) : s.trimStep a = s := by
  rw [State.trimStep, hinc, if_neg Bool.false_ne_true]

@[simp] theorem State.trimStep_arrays (a : Nat) : (s.trimStep a).arrays = s.arrays := by
  unfold State.trimStep
  split <;> rfl

@[simp] theorem State.trimStep_tx (a : Nat) : (s.trimStep a).tx = s.tx := by
  unfold State.trimStep
  split <;> rfl

theorem State.arr_trimStep (a b : Nat) : (s.trimStep a).arr b = s.arr b := by rw [State.arr, State.trimStep_arrays, State.arr]

theorem State.trimExchange_pending {a : Nat} (h : (s.arr a).swapPending = true) : s.trimExchange a =
    s.modArr a (fun x => { x with trimActive := x.trimShadow, trimShadow := x.trimActive, swapPending := false, swapIdle := false, epoch := x.epoch + 1 }) :=
  if_pos h

theorem State.trimExchange_none {a : Nat} (h : (s.arr a).swapPending = false) : s.trimExchange a = s :=
  if_neg (by rw [h]; exact Bool.false_ne_true)

end

/-- Settles O13: an access of the table by `State.trimWrite` and `State.trimStep`, and the exchange by `State.trimExchange`. -/
theorem trimTables : Obligations.TrimTables := by
  unfold Obligations.TrimTables
  intro s path c sl hS hans
  have hasked (f : State → State) : (.next (s.asked path .arr f) : Out) = .next (f s) := by rw [State.asked_answered hans]
  have hwrite (v : Word) : exec (.arrTrimDataAccess path c sl (some v)) s = .next (s.trimWrite path (arrId c sl) v.toNat) := hasked _
  have hread : exec (.arrTrimDataAccess path c sl none) s =
      .next ((s.reply path (s.trimData (arrId c sl))).trimStep (arrId c sl)) := next_if_answers hans _ _
  have hexch : exec (.trimSwapTakeEffect c sl) s = .next (if s.arrConverting (arrId c sl) ||
      ((s.arr (arrId c sl)).st = .serving && !(s.arr (arrId c sl)).swapIdle && s.someWaiting c) then s
        else s.trimExchange (arrId c sl)) := rfl
  have hswap : exec (.arrTrimSwap path c sl) s = .next ((s.trimSwap (arrId c sl)).calDisturbed (arrId c sl)) := hasked _
  have hcopy : exec (.arrTrimCopy path c sl false) s = .next (s.trimCopy (arrId c sl)) := hasked _
  have hcopySwap : exec (.arrTrimCopy path c sl true) s =
      .next (((s.trimCopy (arrId c sl)).trimSwap (arrId c sl)).calDisturbed (arrId c sl)) := hasked _
  simp only [hwrite, hread, hexch, hswap, hcopy, hcopySwap]
  generalize arrId c sl = a
  refine ⟨fun v hv => ⟨_, congrArg _ (if_neg (Nat.not_le.2 hv)), ?_⟩, fun v hv => congrArg _ (if_pos hv), ⟨_, rfl, ?_⟩, rfl, rfl, rfl,
    fun hp => ?_, fun hbusy => ?_, fun hp hconv hrest => ?_⟩
  · have hS1 := State.modArr_safe s a (fun x => { x with
      trimShadow := x.trimShadow.set 0 (s.rf .arrTrimAddr a 9 0) (BitVec.ofNat 8 v.toNat) }) hS
    refine ⟨?_, ?_, ?_, State.rf_trimStep hS1, fun hinc => ?_⟩
    · rw [State.arr_trimStep, State.arr_modArr hS]
    · rw [State.arr_trimStep, State.arr_modArr hS]
    · rw [State.trimStep_tx, State.modArr_tx]
    · rw [State.trimStep_off (s := s.modArr a _) hinc, State.modArr_regs]
  · exact ⟨State.trimStep_arrays a, State.trimStep_tx a, State.rf_trimStep (State.reply_safe s path _ hS)⟩
  · rw [State.trimExchange_none hp, ite_self]
  · rw [if_pos]
    rcases hbusy with hconv | ⟨hst, hidle, hw⟩
    · rw [hconv, Bool.true_or]
    · rw [hst, hidle, hw]
      exact Bool.or_true _
  · refine ⟨_, congrArg _ (if_neg ?_), ?_⟩
    · rw [hconv, Bool.false_or]
      rcases hrest with h | h | h <;> simp [h]
    · rw [State.trimExchange_pending hp, State.arr_modArr hS]
      exact ⟨rfl, rfl, rfl, rfl, fun b hb => State.arr_modArr_ne hS _ hb, rfl, rfl⟩

/-! ### Scan and refresh -/

section
variable {s : State} {c : CoreId} {sl : SlotId}

/-- The scan of an array is on and its turn has come (R57). -/
def State.scanDue (s : State) (a : Nat) : Prop := s.rf .arrScanCfg a 15 0 ≠ 0 ∧ (s.arr a).st ≠ .programming ∧
  ((s.arr a).st ≠ .serving ∨ 2 ^ s.rf .arrScanCfg a 19 16 ≤ (s.arr a).wavesSinceScan)

/-- The array after a scan batch that found `weak` weak cells (R57). -/
def State.scanned (s : State) (a weak : Nat) : Arr :=
  { s.arr a with
    scanPos := (s.arr a).scanPos + 1, scanning := true, wavesSinceScan := 0,
    scanWeak := (if (s.arr a).scanPos = 0 then 0 else (s.arr a).scanWeak) + satTo 256 weak,
    scanBatches := (if (s.arr a).scanPos = 0 then 0 else (s.arr a).scanBatches) + (if satTo 256 weak = 0 then 0 else 1),
    weak := if satTo 256 weak = 0 || (s.arr a).weak.any (·.1 = (s.arr a).scanPos) then (s.arr a).weak
      else (s.arr a).weak ++ [((s.arr a).scanPos, s.time)] }

/-- The state in which the batch is counted where the array serves (R57). -/
def State.scanCounted (s : State) (a : Nat) : State := if (s.arr a).st = .serving then s.count (a / 17) 7 1 else s

theorem State.scanBatch_not_due {a : Nat} (h : ¬s.scanDue a) (weak : Nat) : s.scanBatch a weak = s := by
  refine if_pos ?_
  rw [Bool.not_eq_true', Bool.eq_false_iff]
  intro hok
  simp only [Bool.and_eq_true, decide_eq_true_eq, Bool.or_eq_true] at hok
  exact h ⟨hok.1.1, hok.1.2, hok.2⟩

theorem State.scanBatch_due {a : Nat} (h : s.scanDue a) (weak : Nat) : s.scanBatch a weak =
    if (s.scanned a weak).scanPos < scanBatches then (s.scanCounted a).setArr a (s.scanned a weak)
    else
      let t := ((s.scanCounted a).setArr a { s.scanned a weak with scanPos := 0, scanning := false, scanEnd := s.time }).wr
        .arrScanStatus a 0 (satTo 0xFFFF (s.scanned a weak).scanWeak)
      if (s.scanned a weak).scanWeak = 0 then t
      else (t.flag .arrEvent a 0x10).raise
        (evArr 0x2008 0 a (satTo 0xFFFF (s.scanned a weak).scanWeak + 65536 * (s.scanned a weak).scanBatches)) := by
  obtain ⟨hon, hprog, hserve⟩ := h
  refine if_neg ?_
  rw [Bool.not_eq_true', Bool.eq_false_iff, Classical.not_not]
  simp only [Bool.and_eq_true, decide_eq_true_eq, Bool.or_eq_true]
  exact ⟨⟨hon, hprog⟩, hserve⟩

theorem exec_scanBatch_converting (h : s.arrConverting (arrId c sl) = true) (weak : Nat) : exec (.scanBatch c sl weak) s = .next s :=
  next_if_neg (by rw [h, Bool.not_true, Bool.and_false]) s _

theorem exec_scanBatch (hw : s.works = true) (h : s.arrConverting (arrId c sl) = false) (weak : Nat) :
    exec (.scanBatch c sl weak) s = .next (s.scanBatch (arrId c sl) weak) := by
  simp only [exec, execScanBatch, hw, h, Bool.not_false, Bool.and_self, if_true]

theorem exec_refreshBatch_converting (h : s.arrConverting (arrId c sl) = true) : exec (.refreshBatch c sl) s = .next s :=
  next_if_neg (by rw [h, Bool.not_true, Bool.and_false]) s _

/-- The reference copy of the version that an array holds is there, or the array holds no layer (R58, R230). -/
def State.refHere (s : State) (c sl : Nat) : Bool :=
  match (s.core c).logicalOf sl with
  | some l => match s.holder c l (arrId c sl) with
    | some h => h.ref && decide (h.img.version = s.rd .arrVersion (arrId c sl))
    | none => true
  | none => true

theorem exec_refreshBatch_eq : exec (.refreshBatch c sl) s =
    .next (if s.works && s.refHere c sl && !s.arrConverting (arrId c sl) then
      s.refresh (arrId c sl) (s.expressArr c) ((s.core c).waiting.all (fun w => (s.core c).slotOf w.larr ≠ sl)) else s) := rfl

end

section
variable {s : State} {a : Nat} (hS : s.Inv) (weak : Nat)

theorem satTo_eq_zero_iff {b v : Nat} (hb : 0 < b) : satTo b v = 0 ↔ v = 0 := by
  unfold satTo
  split <;> omega

theorem State.scanCounted_safe (h : s.Safe 0 0 s.pending) : (s.scanCounted a).Safe 0 0 s.pending := by
  unfold State.scanCounted
  split
  · exact State.count_safe s _ _ _ h
  · exact h

@[simp] theorem State.scanCounted_arrays : (s.scanCounted a).arrays = s.arrays := by
  unfold State.scanCounted
  split <;> rfl

@[simp] theorem State.scanCounted_mem : (s.scanCounted a).mem = s.mem := by
  unfold State.scanCounted
  split <;> rfl

@[simp] theorem State.scanCounted_regs : (s.scanCounted a).regs = s.regs := by
  unfold State.scanCounted
  split <;> rfl

@[simp] theorem State.scanCounted_ev : (s.scanCounted a).ev = s.ev := by
  unfold State.scanCounted
  split <;> rfl

theorem State.arr_scanCounted (b : Nat) : (s.scanCounted a).arr b = s.arr b := by
  simp only [State.arr, State.scanCounted_arrays]

theorem State.scanned_weak : (s.scanned a weak).weak =
    if weak = 0 ∨ (s.arr a).weak.any (·.1 = (s.arr a).scanPos) = true then (s.arr a).weak
    else (s.arr a).weak ++ [((s.arr a).scanPos, s.time)] := by
  simp only [State.scanned, satTo_eq_zero_iff (show 0 < 256 by decide), Bool.or_eq_true, decide_eq_true_eq]

include hS

/-- What every due batch leaves, whatever the scan's place (R57). -/
theorem State.scanBatch_frame (hdue : s.scanDue a) : ∃ x : Arr, (s.scanBatch a weak).arr a = x ∧ x.wavesSinceScan = 0 ∧
    x.scanWeak = (s.scanned a weak).scanWeak ∧ x.weak = (s.scanned a weak).weak ∧ x.cells = (s.arr a).cells ∧
    x.targets = (s.arr a).targets ∧ x.st = (s.arr a).st ∧ (∀ b, b ≠ a → (s.scanBatch a weak).arr b = s.arr b) ∧
    (s.scanBatch a weak).mem = s.mem ∧
    ((s.arr a).scanPos + 1 < Machine.scanBatches → x.scanPos = (s.arr a).scanPos + 1 ∧ x.scanning = true) ∧
    (Machine.scanBatches ≤ (s.arr a).scanPos + 1 → x.scanPos = 0 ∧ x.scanning = false ∧ x.scanEnd = s.time) := by
  have hS1 := State.scanCounted_safe (a := a) hS
  rw [State.scanBatch_due hdue]
  split
  next hmore =>
    refine ⟨s.scanned a weak, State.arr_setArr hS1 a _, rfl, rfl, rfl, rfl, rfl, rfl,
      fun b hb => (State.arr_setArr_ne hS1 _ hb).trans (State.arr_scanCounted b), State.scanCounted_mem,
      fun _ => ⟨rfl, rfl⟩, fun hend => absurd hmore (Nat.not_lt.2 hend)⟩
  next hlast =>
    have harr (y : Arr) (b : Nat) : ∀ n, (if (s.scanned a weak).scanWeak = 0 then
        ((s.scanCounted a).setArr a y).wr .arrScanStatus a 0 n
        else ((((s.scanCounted a).setArr a y).wr .arrScanStatus a 0 n).flag .arrEvent a 0x10).raise
          (evArr 0x2008 0 a (n + 65536 * (s.scanned a weak).scanBatches))).arr b = ((s.scanCounted a).setArr a y).arr b := by
      intro n
      split
      · exact State.arr_wr ..
      · rw [State.arr_raise, State.arr_flag, State.arr_wr]
    refine ⟨{ s.scanned a weak with scanPos := 0, scanning := false, scanEnd := s.time }, (harr _ a _).trans (State.arr_setArr hS1 a _),
      rfl, rfl, rfl, rfl, rfl, rfl,
      fun b hb => (harr _ b _).trans ((State.arr_setArr_ne hS1 _ hb).trans (State.arr_scanCounted b)), ?_,
      fun hmore => absurd hmore hlast, fun _ => ⟨rfl, rfl, rfl⟩⟩
    dsimp only
    split
    · exact State.scanCounted_mem
    · rw [State.raise_mem, State.flag_mem, State.wr_mem, State.setArr_mem, State.scanCounted_mem]

/-- The last batch of a full scan shows and reports the weak cells (R57). -/
theorem State.scanBatch_last (hdue : s.scanDue a) (hlast : Machine.scanBatches ≤ (s.arr a).scanPos + 1) :
    (s.scanBatch a weak).rd .arrScanStatus a = satTo 0xFFFF (s.scanned a weak).scanWeak ∧
    ((s.scanned a weak).scanWeak = 0 → (s.scanBatch a weak).ev = s.ev) ∧
    ((s.scanned a weak).scanWeak ≠ 0 → ∃ (u : State) (n : Nat), s.scanBatch a weak =
      (u.flag .arrEvent a 0x10).raise (evArr 0x2008 0 a (satTo 0xFFFF (s.scanned a weak).scanWeak + 65536 * n))) := by
  have hS1 := State.scanCounted_safe (a := a) hS
  have hS2 (y : Arr) := State.setArr_safe _ a y hS1
  have hsat : satTo 0xFFFF (s.scanned a weak).scanWeak < 2 ^ 32 := by
    unfold satTo
    split <;> omega
  have hpos : ¬(s.scanned a weak).scanPos < Machine.scanBatches := Nat.not_lt.2 hlast
  rw [State.scanBatch_due hdue, if_neg hpos]
  dsimp only
  split
  next hz =>
    refine ⟨?_, fun _ => State.scanCounted_ev, fun hnz => absurd hz hnz⟩
    rw [State.rd_wr (hS2 _), Nat.mod_eq_of_lt hsat]
  next hnz =>
    refine ⟨?_, fun hz => absurd hz hnz, fun _ => ⟨_, _, rfl⟩⟩
    have hS3 := State.wr_safe _ .arrScanStatus a 0 (satTo 0xFFFF (s.scanned a weak).scanWeak)
      (hS2 { s.scanned a weak with scanPos := 0, scanning := false, scanEnd := s.time })
    have hlost : Reg.arrScanStatus.addr a 0 ≠ Reg.chkEvtLost.addr 0 0 := by
      have hge := Reg.coreSpace_le_addr (r := .arrScanStatus) rfl a 0
      have hlt : Reg.chkEvtLost.addr 0 0 < 0x01000000 := by decide
      omega
    have hevent : Reg.arrScanStatus.addr a 0 ≠ Reg.arrEvent.addr a 0 := by simp [Reg.addr, Reg.spec]
    rw [State.rd_raise_ne (State.flag_safe _ .arrEvent a 0x10 hS3) _ hlost, State.flag, State.rd_wr_ne hS3 _ hevent,
      State.rd_wr (hS2 _), Nat.mod_eq_of_lt hsat]

end

section
variable {s : State} {a : Nat} {express idle : Bool}

theorem State.refresh_none (h : s.rb .arrScanCfg a 24 = false ∨ (s.arr a).st = .programming ∨ (s.arr a).weak = [] ∨
    (express = true ∧ idle = false)) : s.refresh a express idle = s := by
  refine if_pos ?_
  rcases h with h | h | h | ⟨h, h'⟩ <;> simp [*]

theorem State.refresh_one (hon : s.rb .arrScanCfg a 24 = true) (hp : (s.arr a).st ≠ .programming) (hw : (s.arr a).weak ≠ [])
    (hgo : express = false ∨ idle = true) : s.refresh a express idle =
      (s.setArr a { s.arr a with weak := (s.arr a).weak.drop 1, deferredRaised := false }).count (a / 17) 8 1 := by
  refine if_neg ?_
  rcases hgo with h | h <;> simp [*]

theorem exec_refreshDeferredTimeout_cons {c : CoreId} {sl : SlotId} {i t0 : Nat} {ws : List (Nat × Nat)}
    (hweak : (s.arr (arrId c sl)).weak = (i, t0) :: ws) : exec (.refreshDeferredTimeout c sl) s =
      .next (if s.alive && t0 + dayNs ≤ s.time then s.refreshDeferred (arrId c sl) else s) := by
  simp only [exec, execRefreshDeferredTimeout, hweak]

end

/-- Settles O14: the scan by `State.scanBatch_frame` and `State.scanBatch_last`, the refresh by its own conditions. -/
theorem scanAndRefresh : Obligations.ScanAndRefresh := by
  unfold Obligations.ScanAndRefresh
  intro s c sl hS
  refine ⟨fun hconv => ⟨fun weak => exec_scanBatch_converting hconv weak, exec_refreshBatch_converting hconv⟩,
    fun l h hl hh hbad => ?_, fun weak hw hconv => ⟨fun hdue => ?_, fun hdue => ?_⟩, fun hw hconv href => ⟨fun w ws hon hp hweak hgo => ?_, fun hno => ?_⟩,
    fun i t0 ws halive hweak => ⟨fun hlate hraised => ?_, fun hno => ?_⟩, fun hweak => ?_⟩
  · have href : s.refHere c sl = false := by
      simp only [State.refHere, hl, hh, Bool.and_eq_false_iff, decide_eq_false_iff_not]
      exact hbad
    rw [exec_refreshBatch_eq, href, Bool.and_false, Bool.false_and, if_neg Bool.false_ne_true]
  · rw [exec_scanBatch hw hconv, State.scanBatch_not_due hdue]
  · obtain ⟨x, hx, hwaves, hscanWeak, hwk, hcells, htargets, hst, hne, hmem, hmore, hend⟩ := State.scanBatch_frame hS weak hdue
    refine ⟨_, exec_scanBatch hw hconv weak, ?_⟩
    rw [hx, hwaves, hscanWeak, hwk, hcells, htargets, hst, State.scanned_weak]
    refine ⟨rfl, rfl, rfl, rfl, rfl, rfl, hne, hmem, fun hlt => ⟨(hmore hlt).1, (hmore hlt).2, ?_⟩,
      fun hge => ⟨(hend hge).1, (hend hge).2.1, (hend hge).2.2, State.scanBatch_last hS weak hdue hge⟩⟩
    rw [State.scanBatch_due hdue, if_pos (show (s.scanned (arrId c sl) weak).scanPos < scanBatches from hlt)]
    exact ⟨State.scanCounted_regs, State.scanCounted_ev⟩
  · have hhere : s.refHere c sl = true := by
      unfold State.refHere
      split
      next l hl =>
        split
        next h hh =>
          obtain ⟨hr, hv⟩ := href l h hl hh
          rw [hr, hv, decide_eq_true rfl]
          rfl
        next => rfl
      next => rfl
    have hcond : (s.works && s.refHere c sl && !s.arrConverting (arrId c sl)) = true := by rw [hw, hhere, hconv]; rfl
    rw [exec_refreshBatch_eq, if_pos hcond, State.refresh_one hon hp (by rw [hweak]; exact List.cons_ne_nil w ws) hgo]
    refine ⟨_, rfl, ?_⟩
    have harr (y : Arr) (b : Nat) : ((s.setArr (arrId c sl) y).count (arrId c sl / 17) 8 1).arr b =
      (s.setArr (arrId c sl) y).arr b := rfl
    rw [harr, State.arr_setArr hS, hweak]
    exact ⟨rfl, rfl, rfl, rfl, fun b hb => State.arr_setArr_ne hS _ hb, rfl, rfl, rfl⟩
  · rw [exec_refreshBatch_eq, State.refresh_none hno, ite_self]
  · rw [exec_refreshDeferredTimeout_cons hweak, if_pos (by simp [halive, hlate]), State.refreshDeferred, hweak]
    simp only [hraised, Bool.false_eq_true, if_false]
  · rw [exec_refreshDeferredTimeout_cons hweak]
    rcases hno with hearly | hraised
    · rw [if_neg (by simp [Nat.not_le.2 hearly])]
    · rw [State.refreshDeferred, hweak]
      simp only [hraised, if_true, ite_self]
  · simp only [exec, execRefreshDeferredTimeout, hweak]

end Sys2Proof.Machine
end

section
/-! PROOFS. Waves: the parts of a split level (R79), the code of a conversion (R73), and what a wave slot does (R62, R63, R77,
R404). -/
namespace Sys2Proof.Machine
open Sys2Proof

/-! ### The parts of a split level -/

/-- Where a level cuts the 1,024 rows into parts of equal size, a part holds the rows whose quotient by the size is its number. -/
theorem partHas_part_iff {n size : Nat} (hn : 0 < n) (hsize : n * size = 1024) (i row : Nat) :
    partHas (.part n i) row = true ↔ row / size = i := by
  have hpos : 0 < size := Nat.pos_of_ne_zero fun h => by rw [h] at hsize; omega
  have hcut (k : Nat) : 1024 * k / n = size * k := by
    rw [← hsize, Nat.mul_assoc, Nat.mul_div_cancel_left _ hn]
  rw [partHas, hcut, hcut, Bool.and_eq_true, decide_eq_true_eq, decide_eq_true_eq, Nat.div_eq_iff hpos]
  rw [Nat.mul_comm size i, Nat.mul_comm size (i + 1), Nat.succ_mul]
  omega

theorem div_eq_div_of_dvd {g size a b : Nat} (hg : g ∣ size) (h : a / g = b / g) : a / size = b / size := by
  obtain ⟨k, rfl⟩ := hg
  rw [← Nat.div_div_eq_div_mul, ← Nat.div_div_eq_div_mul, h]

/-- Settles O16: each level cuts the rows by a size that every group size divides. -/
theorem splitPartsPartition : Obligations.SplitPartsPartition := by
  unfold Obligations.SplitPartsPartition
  intro n hn
  obtain ⟨size, hpos, hsize, hgroups⟩ : ∃ size, 0 < n ∧ n * size = 1024 ∧ ∀ g ∈ [32, 64, 128], g ∣ size := by
    simp only [List.mem_cons, List.not_mem_nil, or_false] at hn
    rcases hn with rfl | rfl | rfl
    · exact ⟨512, by decide⟩
    · exact ⟨256, by decide⟩
    · exact ⟨128, by decide⟩
  have hiff := partHas_part_iff hpos hsize
  refine ⟨fun row hrow => ⟨row / size, ?_, (hiff _ _).2 rfl, fun k _ hk => ((hiff _ _).1 hk).symm⟩,
    fun g hg i row row' _ _ _ hsame => ?_⟩
  · exact Nat.div_lt_of_lt_mul (by rw [Nat.mul_comm, hsize]; exact hrow)
  · rw [Bool.eq_iff_iff, hiff, hiff, div_eq_div_of_dvd (hgroups g hg) hsame]

/-! ### The code of a conversion -/

theorem clampI_eq {lo hi : Int} (h : lo ≤ hi) (x : Int) : clampI lo hi x = max lo (min hi x) := by
  unfold clampI
  split
  · omega
  · split <;> omega

theorem clampI_bounds {lo hi : Int} (h : lo ≤ hi) (x : Int) : lo ≤ clampI lo hi x ∧ clampI lo hi x ≤ hi := by
  rw [clampI_eq h]
  omega

/-- Settles O17. -/
theorem converterCode : Obligations.ConverterCode := fun s _ _ _ _ _ =>
  ⟨_, clampI_eq (by decide) _, (clampI_bounds (by decide) _).1, (clampI_bounds (by decide) _).2, rfl⟩

/-! ### What the end of a slot keeps -/

/-- The parts of the state that a boundary and a pound's accounts leave alone. -/
def State.unslotted (s : State) := (s.cores, s.arrays, s.mem, s.reqs)

theorem State.applyShadow_unslotted (s : State) (a : Nat) : (s.applyShadow a).unslotted = s.unslotted := by
  unfold State.applyShadow
  split <;> rfl

theorem State.boundary_unslotted (s : State) (c : Nat) : (s.boundary c).unslotted = s.unslotted := by
  unfold State.boundary
  refine State.each_keeps State.unslotted (fun t a => ?_) s _
  dsimp only
  split
  · rfl
  · exact State.applyShadow_unslotted t a

theorem State.poundSlot_unslotted (s : State) (c : Nat) (ws : List WaveReq) : (s.poundSlot c ws).unslotted = s.unslotted := by
  unfold State.poundSlot
  split
  · rfl
  · refine (State.each_keeps State.unslotted (fun t q => ?_) _ _).trans ?_
    · rfl
    · rfl

theorem State.core_congr {s t : State} (h : t.unslotted = s.unslotted) (d : Nat) : t.core d = s.core d := by
  rw [State.core, State.core, show t.cores = s.cores from congrArg Prod.fst h]

/-- An empty slot (R62, R404): its counts, its pound's accounts, and the core's place in the group. -/
def State.emptySlot (s : State) (c : Nat) (throttled : Bool) : State :=
  (((s.count c 0 1).count c 1 (b2n throttled)).poundSlot c []).modCore c (fun x => { x with
    slotNo := x.slotNo + 1, driven := 0, inGroup := (x.inGroup + 1) % 8 })

theorem State.slotDone_empty (s : State) (c : Nat) (throttled : Bool) : s.slotDone c [] false throttled =
    if ((s.emptySlot c throttled).core c).inGroup = 0 || !(s.emptySlot c throttled).someWaiting c then
      (s.emptySlot c throttled).groupEnd c else s.emptySlot c throttled := by
  unfold State.slotDone State.emptySlot
  simp only [List.map_nil, List.sum_nil, List.any_nil, Bool.false_eq_true, if_false, List.isEmpty_nil, Bool.not_true, Bool.or_self,
    Bool.and_false, Bool.false_and]

section
variable {s : State} (hS : s.Inv) (c : Nat) (throttled : Bool)
include hS

/-- The core after an empty slot, but for its place in the group. -/
theorem State.emptySlot_core : ∃ g, (s.emptySlot c throttled).core c =
    { s.core c with slotNo := (s.core c).slotNo + 1, driven := 0, inGroup := g } := by
  have hS1 := State.poundSlot_safe _ c [] (State.count_safe _ c 1 (b2n throttled) (State.count_safe _ c 0 1 hS))
  refine ⟨((s.core c).inGroup + 1) % 8, ?_⟩
  rw [State.emptySlot, State.core_modCore hS1, State.core_congr (State.poundSlot_unslotted _ c []), State.core_count, State.core_count]

theorem State.emptySlot_frame : (∀ d, d ≠ c → (s.emptySlot c throttled).core d = s.core d) ∧
    (s.emptySlot c throttled).arrays = s.arrays ∧ (s.emptySlot c throttled).mem = s.mem ∧
    (s.emptySlot c throttled).reqs = s.reqs := by
  have hS1 := State.poundSlot_safe _ c [] (State.count_safe _ c 1 (b2n throttled) (State.count_safe _ c 0 1 hS))
  have hkeep := State.poundSlot_unslotted ((s.count c 0 1).count c 1 (b2n throttled)) c []
  refine ⟨fun d hd => ?_, ?_⟩
  · rw [State.emptySlot, State.core_modCore_ne hS1 _ hd, State.core_congr hkeep, State.core_count, State.core_count]
  · simp only [State.unslotted, Prod.mk.injEq] at hkeep
    exact hkeep.2

/-- The end of a group changes a core's place in the group alone. -/
theorem State.groupEnd_frame : (∃ g, (s.groupEnd c).core c = { s.core c with inGroup := g }) ∧
    (∀ d, d ≠ c → (s.groupEnd c).core d = s.core d) ∧ (s.groupEnd c).arrays = s.arrays ∧ (s.groupEnd c).mem = s.mem ∧
    (s.groupEnd c).reqs = s.reqs := by
  have hkeep := State.boundary_unslotted (s.modCore c (fun x => { x with inGroup := 0 })) c
  refine ⟨⟨0, ?_⟩, fun d hd => ?_, ?_⟩
  · rw [State.groupEnd, State.core_congr hkeep, State.core_modCore hS]
  · rw [State.groupEnd, State.core_congr hkeep, State.core_modCore_ne hS _ hd]
  · simp only [State.unslotted, Prod.mk.injEq] at hkeep
    exact hkeep.2

end

theorem State.emptySlot_inv {s : State} (hS : s.Inv) (c : Nat) (throttled : Bool) : (s.emptySlot c throttled).Inv := by
  have hS1 := State.poundSlot_safe _ c [] (State.count_safe _ c 1 (b2n throttled) (State.count_safe _ c 0 1 hS))
  have hsafe := State.modCore_safe _ c (fun x => { x with slotNo := x.slotNo + 1, driven := 0, inGroup := (x.inGroup + 1) % 8 }) hS1
  rw [State.Inv, show (s.emptySlot c throttled).pending = s.pending from hsafe.queue]
  exact hsafe

/-- An empty slot moves the core's slot number on and leaves the waves, the arrays and memory alone (R62, R404). -/
theorem State.slotDone_empty_frame {s : State} (hS : s.Inv) (c : Nat) (throttled : Bool) : ∃ g,
    (s.slotDone c [] false throttled).core c = { s.core c with slotNo := (s.core c).slotNo + 1, driven := 0, inGroup := g } ∧
    (∀ d, d ≠ c → (s.slotDone c [] false throttled).core d = s.core d) ∧ (s.slotDone c [] false throttled).arrays = s.arrays ∧
    (s.slotDone c [] false throttled).mem = s.mem ∧ (s.slotDone c [] false throttled).reqs = s.reqs := by
  obtain ⟨g, hcore⟩ := State.emptySlot_core hS c throttled
  obtain ⟨hne, harrays, hmem, hreqs⟩ := State.emptySlot_frame hS c throttled
  rw [State.slotDone_empty]
  split
  · obtain ⟨⟨g', hcore'⟩, hne', harrays', hmem', hreqs'⟩ := State.groupEnd_frame (State.emptySlot_inv hS c throttled) c
    exact ⟨g', by rw [hcore', hcore], fun d hd => (hne' d hd).trans (hne d hd), harrays'.trans harrays, hmem'.trans hmem,
      hreqs'.trans hreqs⟩
  · exact ⟨g, hcore, hne, harrays, hmem, hreqs⟩

/-! ### The branches of a slot -/

section
variable {s : State} {c : Nat}

theorem State.waveSlot_stopped (h : (s.core c).failedCore = true ∨ (s.core c).gridWait = true) : s.waveSlot c = s := by
  refine if_pos ?_
  rcases h with h | h <;> simp only [h, Bool.or_true, Bool.true_or]

/-- The core as a slot finds it, once waiting waves are noted and idle corrections have taken effect. -/
def State.slotReady (s : State) (c : Nat) : State := (s.calWatch c).calIdle c

/-- The first slot of a group takes the shadows and orders the waves that wait (R11, R215). -/
def State.groupStart (u : State) (c : Nat) : State :=
  if (u.core c).inGroup = 0 then (u.boundary c).modCore c (fun x => { x with waiting := sortBy x.waiting slotOrder }) else u

variable (halive : s.alive = true) (hf : (s.core c).failedCore = false) (hg : (s.core c).gridWait = false)
include halive hf hg

theorem State.waveSlot_none (hw : (s.slotReady c).someWaiting c = false) : s.waveSlot c =
    if ((s.slotReady c).core c).inGroup = 0 then (s.slotReady c).refServe c else ((s.slotReady c).refServe c).groupEnd c := by
  unfold State.waveSlot
  unfold State.slotReady at hw ⊢
  simp only [halive, hf, hg, hw, Bool.not_true, Bool.or_self, Bool.false_eq_true, if_false, Bool.not_false, if_true]

variable (hw : (s.slotReady c).someWaiting c = true)
include hw

theorem State.waveSlot_grid (hfirst : ((s.slotReady c).core c).inGroup = 0) (hlock : (s.slotReady c).rb .wavLockCfg c 0 = true)
    (htime : (s.slotReady c).time % 200 ≠ 0) :
    s.waveSlot c = (s.slotReady c).modCore c (fun x => { x with gridWait := true }) := by
  unfold State.waveSlot
  unfold State.slotReady at *
  simp only [halive, hf, hg, hw, hfirst, hlock, htime, Bool.not_true, Bool.or_self, Bool.false_eq_true, if_false, decide_true,
    Bool.and_self, if_true, ne_eq, not_false_eq_true]

variable (hgo : ((s.slotReady c).core c).inGroup ≠ 0 ∨ (s.slotReady c).rb .wavLockCfg c 0 = false ∨ (s.slotReady c).time % 200 = 0)
include hgo

theorem State.waveSlot_go : s.waveSlot c =
    if 8 ≤ ((s.slotReady c).core c).inGroup + (s.slotReady c).qLevel (c / 32) then
      ((s.slotReady c).groupStart c).slotDone c [] false true
    else match (((s.slotReady c).groupStart c).core c).replays.find? (((s.slotReady c).groupStart c).core c).replayDue with
      | some q =>
        let y := ((s.slotReady c).groupStart c).core c
        let run : WaveRun := { q.orig with
          req := { q.orig.req with kind := .replay }, slot := y.spare, phys := arrId c y.spare, conv := 0, codes := [], zeros := [] }
        ((((s.slotReady c).groupStart c).modCore c (fun y => { y with flying := y.flying ++ [run] })).countWave c
          run.req).slotDone c [] true false
      | none => (((s.slotReady c).groupStart c).fillSlot c).2.slotOrIdle c (((s.slotReady c).groupStart c).fillSlot c).1 := by
  have hcond : (decide (((s.slotReady c).core c).inGroup = 0) && (s.slotReady c).rb .wavLockCfg c 0 &&
      decide ((s.slotReady c).time % 200 ≠ 0)) = false := by
    rcases hgo with h | h | h <;> simp [h]
  unfold State.waveSlot
  simp only [← State.slotReady.eq_1, ← State.groupStart.eq_1]
  simp only [halive, hf, hg, hw, hcond, Bool.not_true, Bool.or_self, Bool.false_eq_true, if_false] <;> rfl

theorem State.waveSlot_throttled (h : 8 ≤ ((s.slotReady c).core c).inGroup + (s.slotReady c).qLevel (c / 32)) :
    s.waveSlot c = ((s.slotReady c).groupStart c).slotDone c [] false true := by
  rw [State.waveSlot_go halive hf hg hw hgo, if_pos h]

variable (hlevel : ((s.slotReady c).core c).inGroup + (s.slotReady c).qLevel (c / 32) < 8)
include hlevel

theorem State.waveSlot_fill (h : (((s.slotReady c).groupStart c).core c).replays.find?
    (((s.slotReady c).groupStart c).core c).replayDue = none) : s.waveSlot c =
      (((s.slotReady c).groupStart c).fillSlot c).2.slotOrIdle c (((s.slotReady c).groupStart c).fillSlot c).1 := by
  rw [State.waveSlot_go halive hf hg hw hgo, if_neg (Nat.not_le.2 hlevel), h]

/-- The conversion that repeats a wave on the spare slot (R306). -/
def Replay.run (q : Replay) (c : Nat) (y : Core) : WaveRun :=
  { q.orig with req := { q.orig.req with kind := .replay }, slot := y.spare, phys := arrId c y.spare, conv := 0, codes := [],
                zeros := [] }

theorem State.waveSlot_replay {q : Replay} (h : (((s.slotReady c).groupStart c).core c).replays.find?
    (((s.slotReady c).groupStart c).core c).replayDue = some q) : s.waveSlot c =
      ((((s.slotReady c).groupStart c).modCore c (fun y => { y with flying := y.flying ++
        [q.run c (((s.slotReady c).groupStart c).core c)] })).countWave c
          (q.run c (((s.slotReady c).groupStart c).core c)).req).slotDone c [] true false := by
  rw [State.waveSlot_go halive hf hg hw hgo, if_neg (Nat.not_le.2 hlevel), h]
  rfl

end

theorem exec_gridPointWaitEnd {s : State} {c : CoreId} (halive : s.alive = true) (hg : (s.core c).gridWait = true) :
    exec (.gridPointWaitEnd c) s =
      .next (if s.time % 200 = 0 then s.modCore c (fun x => { x with gridWait := false }) else s) := by
  simp only [exec, execGridPointWaitEnd, halive, hg, Bool.and_self, Bool.true_and, decide_eq_true_eq]

theorem exec_gridPointWaitEnd_none {s : State} {c : CoreId} (hg : (s.core c).gridWait = false) :
    exec (.gridPointWaitEnd c) s = .next s :=
  next_if_neg (by rw [hg, Bool.and_false, Bool.false_and]) s _

/-- Settles O18, by the branches of WAVE_SLOT; `State.slotDone_empty_frame` says what an empty slot keeps. -/
theorem waveSlots : Obligations.WaveSlots := by
  unfold Obligations.WaveSlots
  refine ⟨fun s c halive => ⟨fun hg => ⟨?_, fun ht => ?_, fun ht => ?_⟩, exec_gridPointWaitEnd_none, fun hf => ?_, fun hf hg => ?_⟩,
    fun s c throttled hS => ?_⟩
  · exact next_congr (State.waveSlot_stopped (.inr hg))
  · rw [exec_gridPointWaitEnd halive hg, if_pos ht]
  · rw [exec_gridPointWaitEnd halive hg, if_neg ht]
  · exact next_congr (State.waveSlot_stopped (.inl hf))
  · have hslot : exec (.waveSlot c) s = .next (s.waveSlot c) := rfl
    simp only [hslot, decide_eq_true_eq, decide_eq_false_iff_not, ← State.slotReady.eq_1, ← State.groupStart.eq_1]
    refine ⟨fun hw => congrArg _ (State.waveSlot_none halive hf hg hw),
      fun hw hfirst hlock ht => congrArg _ (State.waveSlot_grid halive hf hg hw hfirst hlock ht),
      fun hw hgo => ⟨fun hlevel => congrArg _ (State.waveSlot_throttled halive hf hg hw hgo hlevel),
        fun hlevel => ⟨fun hnone => congrArg _ (State.waveSlot_fill halive hf hg hw hgo hlevel hnone),
          fun q hq => congrArg _ (State.waveSlot_replay halive hf hg hw hgo hlevel hq)⟩⟩⟩
  · obtain ⟨g, hcore, hne, harrays, hmem, hreqs⟩ := State.slotDone_empty_frame hS c throttled
    dsimp only
    rw [hcore]
    exact ⟨rfl, rfl, rfl, rfl, hne, harrays, hmem, hreqs⟩

end Sys2Proof.Machine
end

section
/-! PROOFS. Conversions of a wave and the start of a split (R73, R74, R80, R82, R86). -/
namespace Sys2Proof.Machine
open Sys2Proof

/-! ### A conversion -/

/-- A fold keeps what its step keeps. -/
theorem foldl_keeps {α β : Type} {P : β → Prop} {f : β → α → β} (hf : ∀ b x, P b → P (f b x)) (xs : List α) {b : β} (hb : P b) :
    P (xs.foldl f b) := by
  induction xs generalizing b with
  | nil => exact hb
  | cons x xs ih => exact ih (hf b x hb)

/-- What a conversion has made so far: nothing but free values used, and codes within the converter's range for pairs of its
own place (R73, R74). -/
def State.ConvertedFrom (s : State) (a i : Nat) (p : List (Nat × Int) × State) : Prop :=
  (∃ n, p.2 = { s with free := s.free + n }) ∧
  ∀ x ∈ p.1, -511 ≤ x.2 ∧ x.2 ≤ 511 ∧ ∃ pc, s.convPair a x.1 = some pc ∧ pc % 4 = i

theorem State.convertAll_spec (s : State) (a fb i trim : Nat) (drive : List Int) :
    s.ConvertedFrom a i (s.convertAll a fb i trim drive) := by
  unfold State.convertAll
  refine foldl_keeps (P := s.ConvertedFrom a i) ?_ _ ⟨⟨0, rfl⟩, fun x hx => absurd hx List.not_mem_nil⟩
  rintro ⟨xs, t⟩ l ⟨⟨n, rfl⟩, hall⟩
  dsimp only at hall ⊢
  split
  next pc hpc =>
    split
    next hi =>
      refine ⟨⟨n + 1, rfl⟩, fun x hx => ?_⟩
      rcases List.mem_append.1 hx with hx | hx
      · exact hall x hx
      · obtain rfl := List.mem_singleton.1 hx
        exact ⟨(clampI_bounds (by decide) _).1, (clampI_bounds (by decide) _).2, pc, hpc, hi⟩
    next => exact ⟨⟨n, rfl⟩, hall⟩
  next => exact ⟨⟨n, rfl⟩, hall⟩

/-- The wave after its conversion: one more made, and the codes noted by pair (R74). -/
def WaveRun.converted (w : WaveRun) (xs : List (Nat × Int)) : WaveRun :=
  { w with
    conv := w.conv + 1, codes := (xs.filter (fun x => x.1 < 514)).foldl (fun m (p, v) => m.set 0 p v) w.codes,
    zeros := (xs.filter (fun x => 514 ≤ x.1)).foldl (fun m (p, v) => m.insert (p - 514) v) w.zeros }

/-- The live pairs of a wave whose new codes clip (R78). -/
def State.newClips (s : State) (w : WaveReq) (xs : List (Nat × Int)) : List Nat :=
  ((xs.filter (fun x => x.1 < 514)).filter (fun (p, v) => (v = 511 || v = -511) && (match s.run? w.ref, s.waveLayer w with
    | some e, some (_, _, y) => e.mode ≠ .ended && e.pairLive y w.set p
    | _, _ => false))).map (·.1)

theorem State.clips_of_mem_newClips {s : State} {w : WaveReq} {xs : List (Nat × Int)} {p : Nat} (hp : p ∈ s.newClips w xs) :
    ∃ v, (p, v) ∈ xs.filter (fun x => x.1 < 514) ∧ (v = 511 ∨ v = -511) := by
  obtain ⟨⟨p', v⟩, hx, rfl⟩ := List.mem_map.1 hp
  obtain ⟨hmem, hclip⟩ := List.mem_filter.1 hx
  simp only [Bool.and_eq_true, Bool.or_eq_true, decide_eq_true_eq] at hclip
  exact ⟨v, hmem, hclip.1⟩

section
variable {s : State} {c sl : Nat}

theorem State.conversion_none (h : (s.core c).flying.find? (fun w => w.slot = sl && decide (w.conv < 4)) = none) :
    s.conversion c sl = s := by
  rw [State.conversion, h]

/-- A conversion hands the pairs that clip on, and after the fourth the codes are in (R74, R80). -/
theorem State.conversion_some {w : WaveRun} (h : (s.core c).flying.find? (fun w => w.slot = sl && decide (w.conv < 4)) = some w) :
    let r := s.convertAll w.phys w.fb w.conv w.trim w.drive
    let s2 := r.2.modCore c (fun x => { x with flying := x.flying.map (fun v => if v = w then w.converted r.1 else v) })
    s.conversion c sl = if w.conv = 3
      then (s2.clipped c (w.converted r.1) (s.newClips w.req r.1)).codesIn c (w.converted r.1)
      else s2.clipped c (w.converted r.1) (s.newClips w.req r.1) := by
  rw [State.conversion, h]
  dsimp only
  have hcount : (w.conv + 1 = 4) ↔ (w.conv = 3) := by omega
  simp only [hcount]
  rfl

end

/-! ### The first clip of a wave -/

theorem satTo_le (b v : Nat) : satTo b v ≤ b := by
  unfold satTo
  split <;> omega

theorem State.clipped_nil (s : State) (c : Nat) (w : WaveRun) : s.clipped c w [] = s := rfl

theorem WaveReq.same_self (w : WaveReq) : w.same w = true := by
  simp only [WaveReq.same, decide_true, Bool.and_self]

/-- The wave whose parts a split drives: it keeps its trim drive (R82). -/
def WaveRun.base (w : WaveRun) : WaveReq := { w.req with trim := some w.trim }

/-- The core when a level of a split begins: the sequence is at that level, and its parts come first in line (R80). -/
def Core.levelOf (x : Core) (w : WaveReq) (n : Nat) : Core :=
  { x with
    splits := x.splits.map (fun q => if q.base.same w then { q with level := n, parts := [], final := false } else q),
    waiting := w.parts n ++ x.waiting.filter (fun v => !(v.same w && v.kind ≠ .orig)),
    replays := x.replays.filter (fun q => !q.orig.req.same w) }

theorem State.core_startLevel {lf lg : Nat} {cq : List Instr} {s : State} (hS : s.Safe lf lg cq) (c : Nat) (w : WaveReq) (n : Nat) :
    (s.startLevel c w n).core c = (s.core c).levelOf w n := by
  have h1 : (s.modSplit c w (fun q => { q with level := n, parts := [], final := false })).Safe lf lg cq := State.modSplit_safe _ _ _ _ hS
  unfold State.startLevel State.pushFront
  rw [State.core_modCore (State.modCore_safe _ _ _ h1), State.core_modCore h1, State.modSplit, State.core_modCore hS]
  rfl

/-- The sequence of a wave when a level of it begins. -/
theorem Core.split_levelOf (x : Core) (w : WaveReq) (n : Nat) :
    (x.levelOf w n).split w = (x.split w).map (fun q => { q with level := n, parts := [], final := false }) := by
  have hbase : ((fun q : SplitSeq => q.base.same w) ∘ fun q : SplitSeq =>
      if q.base.same w then { q with level := n, parts := [], final := false } else q) = fun q => q.base.same w := by
    funext q
    dsimp only [Function.comp_apply]
    split <;> rfl
  unfold Core.split Core.levelOf
  rw [List.find?_map, hbase]
  cases hq : x.splits.find? (fun q => q.base.same w) with
  | none => rfl
  | some q => simp only [Option.map_some, if_pos (List.find?_some hq)]

section
variable {s : State} {c : Nat} {w : WaveRun} {pairs : List Nat} (hpairs : pairs ≠ []) (hkind : w.req.kind = .orig)
  (hsplit : (s.core c).split w.req = none) (hnew : ∀ x ∈ w.codes, (x.2 = 511 ∨ x.2 = -511) → x.1 ∈ pairs)
include hpairs hkind hsplit hnew

theorem State.clipped_first (hmax : w.smax ≠ 0) : s.clipped c w pairs =
    (((((s.bump .wavClipCount c 1).count c 4 1).modRun w.req.ref (fun e => { e with clips := e.clips + 1 })).modCore c
      (fun x => { x with splits := x.splits ++ [⟨w.base, 1, w.smax, pairs, [], false⟩] })).startLevel c w.base 2) := by
  have hearlier : w.codes.any (fun (p, v) => (v = 511 || v = -511) && !pairs.contains p && (match s.run? w.req.ref, s.waveLayer w.req with
      | some e, some (_, _, y) => e.pairLive y w.req.set p
      | _, _ => false)) = false := by
    rw [List.any_eq_false]
    rintro ⟨p, v⟩ hx hbad
    simp only [Bool.and_eq_true, Bool.or_eq_true, decide_eq_true_eq, Bool.not_eq_true', Bool.eq_false_iff, ne_eq,
      List.contains_iff_mem] at hbad
    exact hbad.1.2 (hnew _ hx hbad.1.1)
  unfold State.clipped
  rw [if_neg (by simpa only [List.isEmpty_iff] using hpairs), hkind, hsplit]
  exact (if_neg (Bool.eq_false_iff.1 hearlier)).trans (if_neg hmax)

end

/-- The core of an unsplit wave's first clip: a sequence of its own is added, and its level 2 begins (R80). -/
theorem State.core_clipped_first {lf lg : Nat} {cq : List Instr} {s : State} (hS : s.Safe lf lg cq) {c : Nat} {w : WaveRun} {pairs : List Nat}
    (hpairs : pairs ≠ []) (hkind : w.req.kind = .orig) (hsplit : (s.core c).split w.req = none) (hmax : w.smax ≠ 0)
    (hnew : ∀ x ∈ w.codes, (x.2 = 511 ∨ x.2 = -511) → x.1 ∈ pairs) :
    (s.clipped c w pairs).core c =
      ({ s.core c with splits := (s.core c).splits ++ [⟨w.base, 1, w.smax, pairs, [], false⟩] } : Core).levelOf w.base 2 := by
  have h1 : (((s.bump .wavClipCount c 1).count c 4 1).modRun w.req.ref (fun e => { e with clips := e.clips + 1 })).Safe lf lg cq :=
    State.modRun_safe _ _ _ (State.count_safe _ _ _ _ (State.bump_safe _ _ _ _ hS))
  rw [State.clipped_first hpairs hkind hsplit hnew hmax, State.core_startLevel (State.modCore_safe _ _ _ h1), State.core_modCore h1,
    State.core_modRun, State.core_count, State.core_bump]

/-- The sequence that a first clip begins: at level 2, with the wave's own limit, and no part back yet (R80, R82). -/
theorem Core.split_first {x : Core} {w : WaveRun} (pairs : List Nat) (h : x.split w.req = none) :
    (({ x with splits := x.splits ++ [⟨w.base, 1, w.smax, pairs, [], false⟩] } : Core).levelOf w.base 2).split w.req =
      some ⟨w.base, 2, w.smax, pairs, [], false⟩ := by
  have hadd : ({ x with splits := x.splits ++ [⟨w.base, 1, w.smax, pairs, [], false⟩] } : Core).split w.base =
      some ⟨w.base, 1, w.smax, pairs, [], false⟩ := by
    have hold : x.splits.find? (fun q => q.base.same w.base) = none := h
    simp only [Core.split, List.find?_append, hold, List.find?_singleton, WaveReq.same_self, if_true, Option.none_or]
  exact (Core.split_levelOf _ w.base 2).trans (by rw [hadd]; rfl)

/-- Settles O19: the conversion of a slot's oldest wave, then the first clip of an unsplit wave. -/
theorem conversionsAndSplits : Obligations.ConversionsAndSplits := by
  unfold Obligations.ConversionsAndSplits
  constructor
  · intro s c sl hal
    refine ⟨fun hnone => next_congr ((if_pos hal).trans (State.conversion_none hnone)), fun w hw => ?_⟩
    obtain ⟨hfree, hcodes⟩ := State.convertAll_spec s w.phys w.fb w.conv w.trim w.drive
    exact ⟨hfree, hcodes,
      ⟨s.newClips w.req (s.convertAll w.phys w.fb w.conv w.trim w.drive).1,
        next_congr ((if_pos hal).trans (State.conversion_some hw)), fun p hp => State.clips_of_mem_newClips hp⟩,
      State.clipped_nil _ _ _⟩
  · intro s c w pairs hS hpairs hkind hsplit hmax hnew
    have hcore := State.core_clipped_first hS hpairs hkind hsplit hmax hnew
    have hst := State.clipped_first (s := s) hpairs hkind hsplit hnew hmax
    dsimp only
    refine ⟨⟨((s.core c).waiting.filter (fun v => !(v.same w.base && v.kind ≠ .orig))), ?_, fun v hv => (List.mem_filter.1 hv).1⟩,
      ?_, ?_, ?_, ?_, ?_⟩
    · rw [hcore]; rfl
    · rw [hcore, Core.split_first pairs hsplit]; rfl
    · rw [hst]
      simp only [State.startLevel, State.pushFront, State.modSplit, State.rd_modCore, State.rd_modRun, State.rd_count, State.bump]
      rw [State.rd_wr hS]
      exact Nat.mod_eq_of_lt (Nat.lt_succ_of_le (satTo_le _ _))
    · rw [hcore]; rfl
    · rw [hst]
      simp only [State.startLevel, State.pushFront, State.modSplit, State.modCore_arrays, State.modRun_arrays, State.count_arrays, State.bump_arrays]
    · rw [hst]
      simp only [State.startLevel, State.pushFront, State.modSplit, State.modCore_mem, State.modRun_mem, State.count_mem, State.bump_mem]

end Sys2Proof.Machine
end

section
/-! PROOFS. Check-pair verdicts, replay verdicts and the rotation of the spare (R296 to R299, R305, R307, R309, R310). -/
namespace Sys2Proof.Machine
open Sys2Proof

/-! ### The verdict on a wave -/

section
variable {s : State} {c sl : Nat} {w : WaveRun}

theorem State.cpJudge_none (h : (s.core c).flying.find? (fun w => w.slot = sl && w.conv = 4) = none) : s.cpJudge c sl = s := by
  rw [State.cpJudge, h]

/-- The codes of an entry that has ended are dropped (R309). -/
theorem State.cpJudge_dropped (h : (s.core c).flying.find? (fun w => w.slot = sl && w.conv = 4) = some w)
    (hrun : (s.modCore c (fun x => { x with flying := x.flying.erase w })).running w.req.ref = false) :
    s.cpJudge c sl = s.modCore c (fun x => { x with flying := x.flying.erase w }) := by
  rw [State.cpJudge, h]
  exact if_neg (Bool.eq_false_iff.1 hrun)

/-- The codes of a running entry are judged (R298). -/
theorem State.cpJudge_judged (h : (s.core c).flying.find? (fun w => w.slot = sl && w.conv = 4) = some w)
    (hrun : (s.modCore c (fun x => { x with flying := x.flying.erase w })).running w.req.ref = true) :
    ∃ clipped, s.cpJudge c sl =
      ((s.modCore c (fun x => { x with flying := x.flying.erase w })).count c 30 1).judged c w (s.cpVerdict c w) clipped := by
  rw [State.cpJudge, h]
  exact ⟨_, if_pos hrun⟩

/-- An unsplit wave that is no repeat goes on if it passed, and is repeated if it failed (R299, R309). -/
theorem State.judged_orig (hkind : w.req.kind = .orig) (hagain : w.req.again = false) (bad : Option (Int × Nat × Nat)) (clipped : Bool) :
    s.judged c w bad clipped = match bad with
      | some v => (s.cpFail c w.req v).repeatWave c w 1
      | none => s.settle c w := by
  unfold State.judged
  rw [if_neg (Bool.eq_false_iff.1 hagain), hkind] <;> rfl

end

/-! ### The verdict on a replay -/

/-- The pairs whose codes differ between original and spare by more than the tolerance (R307). -/
def State.replayBad (s : State) (q : Replay) (sp : WaveRun) (e : EntryRun) (y : Placement) : List Nat :=
  let hat (w : WaveRun) (p : Nat) : Rat := ((w.codes.get 0 p : Int) : Rat) * s.weight w.phys p
  (livePairs e y q.orig.req.set).filter (fun p => decide (3 + 4 / 1000 * absR (hat q.orig p) < absR (hat q.orig p - hat sp p)))

/-- Whether one of these pairs of a run is off the reference (R307). -/
def State.offAny (s : State) (w : WaveReq) (bad : List Nat) (v : WaveRun) : Bool :=
  (s.wavePlane w).any (fun x => bad.any (s.offRef x.2 v))

/-- The state when a replay is judged: taken off the list, and counted (R307). -/
def State.replayTaken (s : State) (c : Nat) (q : Replay) : State :=
  ((s.modCore c (fun x => { x with replays := x.replays.erase q })).bump .chkReplayCount c 1).count c 36 1

/-- A replay that disagrees is counted, flagged and reported with the side at fault (R307). -/
def State.replayMismatch (s : State) (c : Nat) (q : Replay) (bad : List Nat) (spare : Bool) : State :=
  (((s.bump .chkReplayMismatchCount c 1).count c 37 1).flag .chkCoreEvent c 8).raiseRun
    q.orig.req.ref (evCore 0x3005 1 c (q.orig.req.larr + 65536 * bad.length + 2 ^ 63 * b2n spare))

section
variable {s : State} {c : Nat} {q : Replay} {sp : WaveRun} {e : EntryRun} {img : Image} {b : Bool} {y : Placement}

theorem State.replayJudge_none (h : (s.core c).replays.find? (fun q => q.spare.isSome) = none) : s.replayJudge c = s := by
  rw [State.replayJudge, h]

variable (hq : (s.core c).replays.find? (fun q => q.spare.isSome) = some q) (hsp : q.spare = some sp)
  (he : s.run? q.orig.req.ref = some e) (hy : s.waveLayer q.orig.req = some (img, b, y))
include hq hsp he hy

theorem State.replayJudge_some :
    let bad := s.replayBad q sp e y
    let orig := s.offAny q.orig.req bad q.orig
    let spare := !orig && s.offAny q.orig.req bad sp
    let t := s.replayTaken c q
    s.replayJudge c =
      if bad.isEmpty then (t.modArr q.orig.phys (fun a => { a with lastGood := s.time })).release c q.orig
      else if !orig && !spare then t.release c q.orig
      else if orig then (t.replayMismatch c q bad spare).repeatWave c q.orig 4
      else ((t.replayMismatch c q bad spare).spareBad c).release c q.orig := by
  rw [State.replayJudge, hq]
  dsimp only
  rw [hsp, he, hy]
  rfl

theorem State.replayJudge_agrees (hbad : s.replayBad q sp e y = []) : s.replayJudge c =
    ((s.replayTaken c q).modArr q.orig.phys (fun a => { a with lastGood := s.time })).release c q.orig :=
  (State.replayJudge_some hq hsp he hy).trans (if_pos (by rw [hbad]; rfl))

theorem State.replayJudge_original (hbad : s.replayBad q sp e y ≠ []) (ho : s.offAny q.orig.req (s.replayBad q sp e y) q.orig = true) :
    s.replayJudge c = ((s.replayTaken c q).replayMismatch c q (s.replayBad q sp e y) false).pushFront c
      [{ q.orig.req with rep := 4, trim := some q.orig.trim }] := by
  rw [State.replayJudge_some hq hsp he hy, if_neg (by rwa [List.isEmpty_iff])]
  simp only [State.repeatWave, ho, Bool.not_true, Bool.false_and, Bool.false_eq_true, if_false, if_true]

theorem State.replayJudge_spare (hbad : s.replayBad q sp e y ≠ []) (ho : s.offAny q.orig.req (s.replayBad q sp e y) q.orig = false)
    (hs : s.offAny q.orig.req (s.replayBad q sp e y) sp = true) :
    s.replayJudge c = (((s.replayTaken c q).replayMismatch c q (s.replayBad q sp e y) true).spareBad c).release c q.orig := by
  rw [State.replayJudge_some hq hsp he hy, if_neg (by rwa [List.isEmpty_iff])]
  simp only [ho, hs, Bool.not_true, Bool.not_false, Bool.and_false, Bool.and_true, Bool.false_eq_true, if_false]

theorem State.replayJudge_neither (hbad : s.replayBad q sp e y ≠ []) (ho : s.offAny q.orig.req (s.replayBad q sp e y) q.orig = false)
    (hs : s.offAny q.orig.req (s.replayBad q sp e y) sp = false) : s.replayJudge c = (s.replayTaken c q).release c q.orig := by
  rw [State.replayJudge_some hq hsp he hy, if_neg (by rwa [List.isEmpty_iff])]
  simp only [ho, hs, Bool.not_false, Bool.and_false, Bool.and_true, if_true]

end

/-! ### The rotation of the spare -/

section
variable {s : State} {c : Nat}

theorem State.rotateTick_held (h : s.up = false ∨ ((s.core c).rotating = true ∧ ((s.core c).replayOn = false ∨
    decide ((s.core c).rotSince + s.rf .chkCfg 0 23 16 * 1000000000 ≤ s.time) = false))) : s.rotateTick c = s := by
  refine if_pos ?_
  rcases h with h | ⟨hrot, h | h⟩
  · simp only [h, Bool.not_false, Bool.true_or]
  · simp only [hrot, h, Bool.false_and, Bool.not_false, Bool.and_true, Bool.or_true]
  · simp only [hrot, h, Bool.and_false, Bool.not_false, Bool.and_true, Bool.or_true]

theorem State.rotateTick_due (hup : s.up = true) (h : (s.core c).rotating = false ∨ ((s.core c).replayOn = true ∧
    decide ((s.core c).rotSince + s.rf .chkCfg 0 23 16 * 1000000000 ≤ s.time) = true)) : s.rotateTick c = s.rotateNext c := by
  refine if_neg ?_
  rcases h with h | ⟨hon, h⟩
  · simp only [hup, h, Bool.not_true, Bool.false_and, Bool.or_false, Bool.false_eq_true, not_false_eq_true]
  · simp only [hup, hon, h, Bool.not_true, Bool.and_true, Bool.and_false, Bool.or_false, Bool.false_eq_true, not_false_eq_true]

theorem State.rotateTick_idle (h : s.rotateNext c = s) : s.rotateTick c = s := by
  unfold State.rotateTick
  rw [h]
  exact ite_self s

theorem State.rotateNext_not_allowed (h : (s.core c).mayRotate = false) : s.rotateNext c = s := by
  refine if_pos ?_
  rw [h]
  rfl

theorem State.rotateNext_no_target (h : s.rotTargets c = []) : s.rotateNext c = s := by
  unfold State.rotateNext
  rw [h]
  exact ite_self s

theorem State.rotateNext_target (hmay : (s.core c).mayRotate = true) {l : Nat}
    (hl : ((s.rotTargets c).find? (fun l => (s.core c).rotating && decide ((s.core c).rotTarget < l))).orElse
      (fun _ => (s.rotTargets c).head?) = some l) :
    s.rotateNext c = (s.modCore c (fun y => { y with spareSuspect := false, spareFaults := 0 })).rotate c l := by
  unfold State.rotateNext
  rw [if_neg (by rw [hmay]; decide)]
  dsimp only
  rw [hl]

end

/-- Settles O20: the verdict on a wave, the verdict on a replay, and the next target of the spare. -/
theorem verdicts : Obligations.Verdicts := by
  unfold Obligations.Verdicts
  refine ⟨fun s c sl hal => ⟨fun h => next_congr ((if_pos hal).trans (State.cpJudge_none h)), fun w hw => ?_⟩,
    fun s c hal => ⟨fun h => next_congr ((if_pos hal).trans (State.replayJudge_none h)), fun q sp e img b y hq hsp he hy => ?_⟩,
    fun s c => ?_⟩
  · refine ⟨fun hrun => next_congr ((if_pos hal).trans (State.cpJudge_dropped hw hrun)), fun hrun => ?_⟩
    obtain ⟨clipped, hj⟩ := State.cpJudge_judged hw hrun
    have hexec : exec (.cpVerdict c sl) s = .next _ := next_congr ((if_pos hal).trans hj)
    refine ⟨⟨clipped, hexec⟩, fun hkind hagain => ?_⟩
    rw [hexec, State.judged_orig hkind hagain]
    exact ⟨fun hv => by rw [hv], fun v hv => by rw [hv]; rfl⟩
  · dsimp only
    simp only [← State.replayBad.eq_1, ← State.offAny.eq_1, ← State.replayTaken.eq_1, ← State.replayMismatch.eq_1]
    exact ⟨fun hbad => next_congr ((if_pos hal).trans (State.replayJudge_agrees hq hsp he hy hbad)),
      fun hbad ho => next_congr ((if_pos hal).trans (State.replayJudge_original hq hsp he hy hbad ho)),
      fun hbad ho hs => next_congr ((if_pos hal).trans (State.replayJudge_spare hq hsp he hy hbad ho hs)),
      fun hbad ho hs => next_congr ((if_pos hal).trans (State.replayJudge_neither hq hsp he hy hbad ho hs))⟩
  · dsimp only
    refine ⟨fun h => next_congr (State.rotateTick_held (.inl h)), fun hrot h => next_congr (State.rotateTick_held (.inr ⟨hrot, h⟩)),
      fun h => next_congr (State.rotateTick_idle (State.rotateNext_not_allowed h)),
      fun h => next_congr (State.rotateTick_idle (State.rotateNext_no_target h)), fun hup hdue hmay l hl => ?_⟩
    refine next_congr ((State.rotateTick_due hup hdue).trans (State.rotateNext_target hmay ?_))
    rcases hl with hl | ⟨hl, hhead⟩
    · rw [hl]; rfl
    · rw [hl]; exact hhead

end Sys2Proof.Machine
end

section
/-! PROOFS. Accumulator words, and the drain that adds an array's codes to them (R118 to R123). -/
namespace Sys2Proof.Machine
open Sys2Proof

/-! ### Reading an accumulator word -/

theorem b2n_le (b : Bool) : b2n b ≤ 1 := by cases b <;> decide

/-- The number whose 64 bits are an accumulator word. -/
theorem toNat_accWord (v : Int) (a b : Bool) :
    (accWord v a b).toNat = enc 48 v + 2 ^ 48 * (v % 31).toNat + 2 ^ 53 * b2n a + 2 ^ 54 * b2n b + 2 ^ 55 := by
  have henc : enc 48 v < 2 ^ 48 := by unfold enc; omega
  have hres : (v % 31).toNat < 31 := by omega
  have ha := b2n_le a
  have hb := b2n_le b
  unfold accWord
  rw [BitVec.toNat_ofNat]
  exact Nat.mod_eq_of_lt (by omega)

theorem sext_enc {v : Int} (hlo : -2 ^ 47 ≤ v) (hhi : v < 2 ^ 47) : sext 48 (enc 48 v) = v := by
  unfold sext enc
  split <;> omega

section
variable (v : Int) (a b : Bool)

theorem accS_accWord (hlo : -2 ^ 47 ≤ v) (hhi : v < 2 ^ 47) : accS (accWord v a b) = v := by
  have henc : enc 48 v < 2 ^ 48 := by unfold enc; omega
  have hfld : fld (accWord v a b).toNat 47 0 = enc 48 v := by
    rw [toNat_accWord, fld, Nat.shiftRight_zero]
    omega
  rw [accS, hfld, sext_enc hlo hhi]

theorem residue_accWord : (fld (accWord v a b).toNat 52 48 : Int) = v % 31 := by
  have henc : enc 48 v < 2 ^ 48 := by unfold enc; omega
  rw [toNat_accWord, fld, Nat.shiftRight_eq_div_pow]
  omega

theorem init_accWord : bit (accWord v a b).toNat 55 = true := by
  have henc : enc 48 v < 2 ^ 48 := by unfold enc; omega
  have hbit : (accWord v a b).toNat / 2 ^ 55 % 2 = 1 := by
    rw [toNat_accWord]
    have ha := b2n_le a
    have hb := b2n_le b
    omega
  rw [bit, Nat.testBit_eq_decide_div_mod_eq, hbit]
  rfl

theorem accSat_accWord : bit (accWord v a b).toNat 53 = a := by
  have henc : enc 48 v < 2 ^ 48 := by unfold enc; omega
  have hbit : (accWord v a b).toNat / 2 ^ 53 % 2 = b2n a := by
    rw [toNat_accWord]
    have ha := b2n_le a
    omega
  rw [bit, Nat.testBit_eq_decide_div_mod_eq, hbit]
  cases a <;> rfl

theorem clipSat_accWord : bit (accWord v a b).toNat 54 = b := by
  have henc : enc 48 v < 2 ^ 48 := by unfold enc; omega
  have hbit : (accWord v a b).toNat / 2 ^ 54 % 2 = b2n b := by
    rw [toNat_accWord]
    have ha := b2n_le a
    have hb := b2n_le b
    omega
  rw [bit, Nat.testBit_eq_decide_div_mod_eq, hbit]
  cases b <;> rfl

end

/-! ### Adding to a word -/

/-- What an entry's event leaves: whatever every event leaves. -/
theorem State.raiseRun_keeps {β : Type} (φ : State → β) (hφ : ∀ t e, φ (State.raise t e) = φ t) (s : State) (r : EntryRef) (ev : Event) :
    φ (s.raiseRun r ev) = φ s := by
  unfold State.raiseRun
  split
  · exact hφ _ _
  · exact hφ _ _

@[simp] theorem State.core_raiseRun (s : State) (r : EntryRef) (ev : Event) (d : Nat) : (s.raiseRun r ev).core d = s.core d :=
  State.raiseRun_keeps (fun t => t.core d) (fun t e => t.core_raise e d) s r ev

@[simp] theorem State.raiseRun_mem (s : State) (r : EntryRef) (ev : Event) : (s.raiseRun r ev).mem = s.mem :=
  State.raiseRun_keeps State.mem State.raise_mem s r ev

@[simp] theorem State.core_accSat (s : State) (r : EntryRef) (c tile m col d : Nat) : (s.accSat r c tile m col).core d = s.core d := by
  unfold State.accSat
  dsimp only
  split
  · rw [State.core_count, State.core_bump]
  · rw [State.core_modRun, State.core_raiseRun, State.core_flag, State.core_count, State.core_bump]

@[simp] theorem State.accSat_mem (s : State) (r : EntryRef) (c tile m col : Nat) : (s.accSat r c tile m col).mem = s.mem := by
  unfold State.accSat
  dsimp only
  split
  · rw [State.count_mem, State.bump_mem]
  · rw [State.modRun_mem, State.raiseRun_mem, State.flag_mem, State.count_mem, State.bump_mem]

/-- The word after an addition (R120, R121): an uninitialised one counts as 0, and a saturated one stays. -/
def addedWord (w : Quad) (v : Int) (clip : Bool) : Quad :=
  let old : Int := if bit w.toNat 55 then accS w else 0
  let wasSat := bit w.toNat 55 && bit w.toNat 53
  let sum := if wasSat then old else clampI (-(2 ^ 47 - 1)) (2 ^ 47 - 1) (old + v)
  accWord sum (wasSat || sum ≠ old + v) (clip || (bit w.toNat 55 && bit w.toNat 54))

section
variable (s : State) (r : EntryRef) (c tile m col : Nat) (v : Int) (clip : Bool)

/-- The state with the sum in its word. -/
def State.added : State := s.modCore c (fun x =>
  { x with acc := x.acc.set 0 (accKey tile m col) (addedWord ((s.core c).acc.get 0 (accKey tile m col)) v clip) })

/-- An addition stores the sum, and reports a word that newly saturates. -/
theorem State.addWord_eq : s.addWord r c tile m col v clip = (s.added c tile m col v clip).accSat r c tile m col ∨
    s.addWord r c tile m col v clip = s.added c tile m col v clip :=
  (Decidable.em _).imp (fun h => if_pos h) (fun h => if_neg h)

theorem State.core_addWord (d : Nat) : (s.addWord r c tile m col v clip).core d = (s.added c tile m col v clip).core d := by
  rcases s.addWord_eq r c tile m col v clip with h | h
  · rw [h, State.core_accSat]
  · rw [h]

theorem State.addWord_mem : (s.addWord r c tile m col v clip).mem = s.mem := by
  rcases s.addWord_eq r c tile m col v clip with h | h
  · rw [h, State.accSat_mem]; exact State.modCore_mem _ _ _
  · rw [h]; exact State.modCore_mem _ _ _

end

/-- The sum that a word then holds, and its flags (R118, R120, R121). -/
theorem addedWord_spec (w : Quad) (v : Int) (clip : Bool) :
    let old : Int := if bit w.toNat 55 then accS w else 0
    let w' := addedWord w v clip
    (-(2 ^ 47 : Int) < old ∧ old < 2 ^ 47) →
    (accS w' = if bit w.toNat 55 && bit w.toNat 53 then old else max (-(2 ^ 47 - 1)) (min (2 ^ 47 - 1) (old + v))) ∧
    bit w'.toNat 55 = true ∧ ((fld w'.toNat 52 48 : Nat) : Int) = accS w' % 31 ∧
    (bit w'.toNat 53 = ((bit w.toNat 55 && bit w.toNat 53) || decide (old + v < -(2 ^ 47 - 1) ∨ 2 ^ 47 - 1 < old + v))) ∧
    (bit w'.toNat 54 = (clip || (bit w.toNat 55 && bit w.toNat 54))) := by
  intro old w' hold
  have hclamp : clampI (-(2 ^ 47 - 1)) (2 ^ 47 - 1) (old + v) = max (-(2 ^ 47 - 1)) (min (2 ^ 47 - 1) (old + v)) := clampI_eq (by decide) _
  have hsum : accS w' = if bit w.toNat 55 && bit w.toNat 53 then old else max (-(2 ^ 47 - 1)) (min (2 ^ 47 - 1) (old + v)) := by
    rw [← hclamp]
    refine accS_accWord _ _ _ ?_ ?_
    · split
      · exact Int.le_of_lt hold.1
      · rw [hclamp]; omega
    · split
      · exact hold.2
      · rw [hclamp]; omega
  refine ⟨hsum, init_accWord _ _ _, ?_, ?_, clipSat_accWord _ _ _⟩
  · rw [hsum, ← hclamp]
    exact residue_accWord _ _ _
  · refine (accSat_accWord _ _ _).trans ?_
    by_cases hsat : (bit w.toNat 55 && bit w.toNat 53) = true
    · rw [hsat, Bool.true_or, Bool.true_or]
    · rw [Bool.eq_false_iff.2 hsat, Bool.false_or, Bool.false_or, if_neg Bool.false_ne_true, hclamp]
      exact decide_eq_decide.2 (by omega)

/-- Settles O21: one word of one core takes the sum, and every other word stays. -/
theorem accumulatorAdd : Obligations.AccumulatorAdd := by
  unfold Obligations.AccumulatorAdd
  intro s r c tile m col v clip hS hacc key w old t w' hold
  have hcore : t.core c = { s.core c with acc := (s.core c).acc.set 0 key (addedWord w v clip) } :=
    (State.core_addWord s r c tile m col v clip c).trans (State.core_modCore hS c _)
  have hw : w' = addedWord w v clip := by
    show (t.core c).acc.get 0 key = _
    rw [hcore]
    dsimp only
    exact NMap.get_set_self _ _ _ hacc
  obtain ⟨hsum, hinit, hres, hsat, hclip⟩ := addedWord_spec w v clip hold
  rw [hw]
  refine ⟨hsum, hinit, hres, hsat, hclip, fun k hk => ?_, ?_, fun d hd => ?_, State.addWord_mem s r c tile m col v clip⟩
  · rw [hcore]; dsimp only; exact NMap.get_set_ne _ _ _ hk hacc
  · rw [hcore]
  · exact (State.core_addWord s r c tile m col v clip d).trans (State.core_modCore_ne hS _ hd)

end Sys2Proof.Machine
end

section
/-! PROOFS. The drain takes the codes of one slot for one row and set together (R122, R198). -/
namespace Sys2Proof.Machine
open Sys2Proof

/-- The state whose core has taken the codes that meet one delivery. -/
def State.metTaken (s : State) (c : Nat) (d : Delivery) : State :=
  s.modCore c (fun x => { x with ready := x.ready.filter (fun y => !d.meets y) })

/-- The tile of a delivery's row and set (R119). -/
def Delivery.tile (d : Delivery) (e : EntryRun) (h : Share) : Nat :=
  accTile (eBase e.raw 20 % 32 + e.prob.accOff) (h.run 1).length (rowsPer (h.run 1).length * h.tp) d.req.row ((h.run 1).idxOf d.req.set)

section
variable {s : State} {c l : Nat} {flt : Option ResFault}

theorem State.accumulate_none (h : (s.core c).ready.find? (fun d => d.req.larr = l) = none) : s.accumulate c l flt = s := by
  rw [State.accumulate, h]

variable {d : Delivery} (hd : (s.core c).ready.find? (fun d => d.req.larr = l) = some d)
include hd

/-- Codes of an entry that is gone, or whose layer is, are dropped. -/
theorem State.accumulate_gone (h : s.run? d.req.ref = none ∨ s.waveLayer d.req = none) : s.accumulate c l flt = s.metTaken c d := by
  rw [State.accumulate, hd]
  dsimp only
  rcases h with h | h
  · rw [h]; rfl
  · rw [h]
    cases s.run? d.req.ref <;> rfl

variable {e : EntryRun} {img : Image} {b : Bool} {y : Placement} (he : s.run? d.req.ref = some e)
  (hy : s.waveLayer d.req = some (img, b, y))
include he hy

/-- Codes of a core without a share, or of an entry that has ended, are dropped. -/
theorem State.accumulate_dropped (h : e.share c = none ∨ e.mode = .ended) : s.accumulate c l flt = s.metTaken c d := by
  rw [State.accumulate, hd]
  dsimp only
  rw [he, hy]
  dsimp only
  cases hsh : e.share c with
  | none => rfl
  | some h' =>
    have hend : e.mode = .ended := h.resolve_left (by rw [hsh]; exact Option.some_ne_none _)
    exact if_pos hend

variable {h : Share} (hsh : e.share c = some h) (hmode : e.mode ≠ .ended)
include hsh hmode

/-- A claim that another entry has taken ends the entry (R198). -/
theorem State.accumulate_lost (hclaim : ((s.metTaken c d).core c).claims.get 0 (d.tile e h) ≠ e.issueNo) :
    s.accumulate c l flt = (s.metTaken c d).claimLost d.req.ref c (d.tile e h) := by
  rw [State.accumulate, hd]
  dsimp only
  rw [he, hy]
  dsimp only
  rw [hsh]
  exact (if_neg hmode).trans (if_pos hclaim)

variable (hclaim : ((s.metTaken c d).core c).claims.get 0 (d.tile e h) = e.issueNo)
include hclaim

/-- A residue outcome may end the entry (R304). -/
theorem State.accumulate_ended (hrun : ((s.metTaken c d).resHit d.req.ref c d.req.row flt).running d.req.ref = false) :
    s.accumulate c l flt = (s.metTaken c d).resHit d.req.ref c d.req.row flt := by
  rw [State.accumulate, hd]
  dsimp only
  rw [he, hy]
  dsimp only
  rw [hsh]
  exact (if_neg hmode).trans ((if_neg (not_not_intro hclaim)).trans (if_pos (by rw [Bool.not_eq_true']; exact hrun)))

/-- Every live column of the set takes the sum of the terms, and the conversions of the row and set rise (R122). -/
theorem State.accumulate_adds (hrun : ((s.metTaken c d).resHit d.req.ref c d.req.row flt).running d.req.ref = true) :
    ∃ tops : EntryRun → NMap Nat, s.accumulate c l flt =
      (((s.metTaken c d).resHit d.req.ref c d.req.row flt).modRun d.req.ref (fun e => { e with
        tops := tops e, convs := e.convs.set 0 (convKey c d.req.set d.req.row) (e.convs.get 0 (convKey c d.req.set d.req.row) +
          ((((s.core c).ready.filter d.meets).filter (fun x => x.n ≠ 0)).map (·.n)).sum * (if y.w7 then 2 else 1)) })).each
      ((List.range y.nS).filter (e.colLive y d.req.set)) (fun t m =>
        let xs := ((s.core c).ready.filter d.meets).map (fun x => x.term y.w7 m)
        t.addWord d.req.ref c (d.tile e h) (d.req.row - rowsPer (h.run 1).length * h.tp) m (xs.map (·.1)).sum (xs.any (·.2))) := by
  rw [State.accumulate, hd]
  dsimp only
  rw [he, hy]
  dsimp only
  rw [hsh]
  exact ⟨_, (if_neg hmode).trans ((if_neg (not_not_intro hclaim)).trans
    (if_neg (by rw [Bool.not_eq_true', Bool.not_eq_false]; exact hrun)))⟩

end

/-- Settles O22: what meets the oldest codes is taken, and then dropped, ended or added to the accumulator. -/
theorem drainAccumulates : Obligations.DrainAccumulates := by
  unfold Obligations.DrainAccumulates
  intro s c l flt
  refine ⟨fun hal => next_if_neg hal _ _, fun hd => ?_, fun d hal hd => ?_⟩
  · refine next_congr ?_
    rw [State.accumulate_none hd, ite_self]
  have hexec {t : State} (ht : s.accumulate c l flt = t) : exec (.drainAccumulate c l flt) s = .next t :=
    next_congr ((if_pos hal).trans ht)
  exact ⟨fun h => hexec (State.accumulate_gone hd h), fun e img b y he hy =>
    ⟨fun h => hexec (State.accumulate_dropped hd he hy h), fun h hsh hmode =>
      ⟨fun hclaim => hexec (State.accumulate_lost hd he hy hsh hmode hclaim),
        fun hclaim hrun => hexec (State.accumulate_ended hd he hy hsh hmode hclaim hrun),
        fun hclaim hrun => (State.accumulate_adds hd he hy hsh hmode hclaim hrun).imp fun tops ht => hexec ht⟩⟩⟩

end Sys2Proof.Machine
end

section
/-! PROOFS. A token row completes in a core, and its segment goes to the other cores of the pound (R122, R137, R185, R189, R302, R304). -/
namespace Sys2Proof.Machine
open Sys2Proof

/-! ### An entry in progress after a change of it -/

theorem State.run?_congr {s t : State} (h : t.pounds = s.pounds) (r : EntryRef) : t.run? r = s.run? r := by
  unfold State.run? State.sent? State.pound
  rw [h]

/-- A change of a sentence is read back, whatever the order of the tables. -/
theorem State.sent?_modSent_of_some {s : State} {p pos : Nat} {n : Sentence} (h : s.sent? p pos = some n) (f : Sentence → Sentence) :
    (s.modSent p pos f).sent? p pos = some (f n) := by
  have hval : ((s.pound p).service.get none pos).map f = some (f n) := congrArg (Option.map f) h
  have hserv : (((s.pound p).service.set none pos (((s.pound p).service.get none pos).map f)).get none pos) = some (f n) :=
    (NMap.get_set_self_of_ne (by rw [hval]; exact Option.some_ne_none _) _ _).trans hval
  have hpound : (s.modSent p pos f).pound p =
      { s.pound p with service := (s.pound p).service.set none pos (((s.pound p).service.get none pos).map f) } := by
    refine NMap.get_set_self_of_ne (fun hdef => ?_) _ _
    have hnone := congrArg (fun x : Pound => x.service.get none pos) hdef
    exact Option.some_ne_none _ (hserv.symm.trans hnone)
  rw [State.sent?, hpound]
  exact hserv

/-- A change of an entry that keeps its index is read back. -/
theorem State.run?_modRun_of_some {s : State} {r : EntryRef} {e : EntryRun} (h : s.run? r = some e) {f : EntryRun → EntryRun}
    (hf : ∀ x, (f x).idx = x.idx) : (s.modRun r f).run? r = some (f e) := by
  obtain ⟨n, hn, he⟩ := Option.bind_eq_some_iff.1 h
  have hidx : ((fun x : EntryRun => decide (x.idx = r.idx)) ∘ fun x => if x.idx = r.idx then f x else x) =
      fun x => decide (x.idx = r.idx) := by
    funext x
    dsimp only [Function.comp_apply]
    split
    · rw [hf]
    · rfl
  have hfind := List.find?_some he
  rw [State.run?, State.modRun, State.sent?_modSent_of_some hn, Option.bind_some]
  dsimp only
  rw [List.find?_map, hidx, he, Option.map_some, if_pos (of_decide_eq_true hfind)]

@[simp] theorem State.raiseRun_pounds (s : State) (r : EntryRef) (ev : Event) : (s.raiseRun r ev).pounds = s.pounds :=
  State.raiseRun_keeps State.pounds State.raise_pounds s r ev

@[simp] theorem State.residueFail_pounds (s : State) (r : EntryRef) (c unit : Nat) : (s.residueFail r c unit).pounds = s.pounds := by
  rw [State.residueFail, State.raiseRun_pounds, State.count_pounds, State.bump_pounds, State.flag_pounds]

/-! ### A row completes -/

/-- Whether a row may leave for the chain now (R122, R130, R304). -/
def State.RowDue (s : State) (r : EntryRef) (e : EntryRun) (h : Share) (c row : Nat) : Prop :=
  s.alive = true ∧ e.mode = .running ∧ h.running = true ∧ e.nextRow h = some row ∧ (s.core c).rowOpen r e.cur row = false ∧
    e.held.any (fun x => decide (x.core = c) && decide (x.row = row)) = false ∧ (s.core c).accepting = true

theorem State.rowDue_iff (s : State) (r : EntryRef) (e : EntryRun) (h : Share) (c row : Nat) : s.RowDue r e h c row ↔
    ¬ (!s.alive || e.mode ≠ .running || !h.running || e.nextRow h ≠ some row ||
      (s.core c).rowOpen r e.cur row || e.held.any (fun x => x.core = c && x.row = row) || !(s.core c).accepting) = true := by
  simp only [State.RowDue, Bool.or_eq_true, Bool.not_eq_true', decide_eq_true_eq, not_or, Bool.not_eq_false, Bool.not_eq_true, ne_eq,
    Classical.not_not, and_assoc]

/-- The state whose core has cleared a row's accumulator words, with the row noted for its second result (R304). -/
def State.rowCleared (s : State) (r : EntryRef) (e : EntryRun) (h : Share) (c row : Nat) : State :=
  let g := (h.run 1).length
  let m0 := rowsPer g * h.tp
  ((s.residueFail r c 5).modCore c (fun x => { x with
    acc := x.acc.filter (fun (k, _) => !((List.range g).any (fun i =>
      k / 2048 = accTile ((e.passTiles h).headD 0) g m0 row i && k / 512 % 4 = (row - m0) % 4))) })).modRun r
    (fun e => { e with redo := (c, row) :: e.redo })

theorem State.rowCleared_redo {s : State} {r : EntryRef} {e : EntryRun} (he : s.run? r = some e) (h : Share) (c row : Nat) :
    ((s.rowCleared r e h c row).run? r).any (fun e => e.redo.contains (c, row)) = true := by
  have hrun : (s.rowCleared r e h c row).run? r = some { e with redo := (c, row) :: e.redo } :=
    State.run?_modRun_of_some (by
      rw [State.run?_congr (State.modCore_pounds ..), State.run?_congr (State.residueFail_pounds ..), he]) (fun _ => rfl)
  rw [hrun, Option.any_some, List.contains_cons, beq_self_eq_true, Bool.true_or]

/-- The state with a row's second result in its accumulator words: their transient fault is told (R304). -/
def State.redoTold (s : State) (r : EntryRef) (e : EntryRun) (c row : Nat) : State :=
  if e.redo.contains (c, row) then (s.coreFault c 5 5 row false).modRun r (fun e => { e with redo := e.redo.erase (c, row) }) else s

section
variable {s : State} {r : EntryRef} {c row : Nat} {flt : Option ResFault}

theorem State.rowComplete_gone (h : s.run? r = none) : s.rowComplete r c row flt = s := by
  rw [State.rowComplete, h]

variable {e : EntryRun} (he : s.run? r = some e)
include he

theorem State.rowComplete_no_share (h : e.share c = none) : s.rowComplete r c row flt = s := by
  rw [State.rowComplete, he]
  dsimp only
  rw [h]

variable {h : Share} (hsh : e.share c = some h)
include hsh

theorem State.rowComplete_not_due (hdue : ¬ s.RowDue r e h c row) : s.rowComplete r c row flt = s := by
  rw [State.rowComplete, he]
  dsimp only
  rw [hsh]
  rw [State.rowDue_iff, Classical.not_not] at hdue
  exact if_pos hdue

variable (hdue : s.RowDue r e h c row)
include hdue

theorem State.rowComplete_lost {t : Nat} (ht : s.lostTile r c row = some t) : s.rowComplete r c row flt = s.claimLost r c t := by
  rw [State.rowComplete, he]
  dsimp only
  rw [hsh]
  refine (if_neg ((State.rowDue_iff ..).1 hdue)).trans ?_
  rw [ht]

variable (ht : s.lostTile r c row = none)
include ht

/-- A row goes to the chain unless a residue outcome has ended its entry (R122, R304). -/
theorem State.rowComplete_leaves (hflt : flt ≠ some .atRest ∨ e.resOn = false ∨ (e.verb = 1 && eSubj e.raw) = false) :
    s.rowComplete r c row flt =
      if ((s.redoTold r e c row).resHit r c row flt).running r
        then ((s.redoTold r e c row).resHit r c row flt).rowFinish r e c row h (e.verb = 1 && eSubj e.raw)
        else (s.redoTold r e c row).resHit r c row flt := by
  rw [State.rowComplete, he]
  dsimp only
  rw [hsh]
  refine (if_neg ((State.rowDue_iff ..).1 hdue)).trans ?_
  rw [ht]
  refine (if_neg ?_).trans ?_
  · simp only [Bool.and_eq_true, decide_eq_true_eq, not_and, Bool.not_eq_true] at hflt ⊢
    rcases hflt with hflt | hflt | hflt
    · exact fun h1 => absurd h1.1 hflt
    · exact fun h1 => absurd h1.2 (by rw [hflt]; decide)
    · exact fun _ => by simpa only [Bool.and_eq_false_imp, decide_eq_true_eq] using hflt
  · by_cases hrun : ((s.redoTold r e c row).resHit r c row flt).running r = true
    · exact (if_neg (by rwa [Bool.not_eq_true', Bool.not_eq_false])).trans (if_pos hrun).symm
    · exact (if_pos (by rwa [Bool.not_eq_true', ← Bool.not_eq_true])).trans (if_neg hrun).symm

variable (hflt : flt = some .atRest) (hres : e.resOn = true) (hwaves : (e.verb = 1 && eSubj e.raw) = true)
include hflt hres hwaves

/-- The second time an accumulator word at rest fails its residue, it is a permanent fault of the core (R304). -/
theorem State.rowComplete_atRest_again (hredo : e.redo.contains (c, row) = true) :
    s.rowComplete r c row flt = (s.residueFail r c 5).coreFault c 5 5 row true := by
  rw [State.rowComplete, he]
  dsimp only
  rw [hsh]
  refine (if_neg ((State.rowDue_iff ..).1 hdue)).trans ?_
  rw [ht]
  exact (if_pos (by rw [hflt, hres, hwaves]; rfl)).trans (if_pos hredo)

/-- The first time, the row's words are cleared and its waves repeated (R304). -/
theorem State.rowComplete_atRest_first (hredo : e.redo.contains (c, row) = false) :
    s.rowComplete r c row flt = (s.rowCleared r e h c row).pushFront c (s.rowWaves r e h row 5) := by
  rw [State.rowComplete, he]
  dsimp only
  rw [hsh]
  refine (if_neg ((State.rowDue_iff ..).1 hdue)).trans ?_
  rw [ht]
  exact (if_pos (by rw [hflt, hres, hwaves]; rfl)).trans (if_neg (by rw [hredo]; decide))

end

/-- A wave row none of whose elements fails, with none of the row ranged before, is counted and taken to the chain (R302). -/
theorem State.rowFinish_wave {s : State} {r : EntryRef} {e : EntryRun} {c row : Nat} {h : Share} (he : s.run? r = some e)
    (hok : (s.waveRow r e h row).1.any (fun (col, y) => s.rangeFails e c col y) = false) (hranged : e.ranged = []) :
    s.rowFinish r e c row h true = ((s.count c 21 1).count c 33 (s.rangeTested e c ((s.waveRow r e h row).1.map (·.1))).length).chainRow r
      ⟨c, row, (s.waveRow r e h row).1, (s.waveRow r e h row).2, true⟩ := by
  have hbad : (s.waveRow r e h row).1.filter (fun (col, y) => s.rangeFails e c col y) = [] :=
    List.filter_eq_nil_iff.2 (List.any_eq_false.1 hok)
  rw [State.rowFinish, if_pos rfl]
  show s.rowValues r ⟨c, row, (s.waveRow r e h row).1, (s.waveRow r e h row).2, false⟩ = _
  rw [State.rowValues, he]
  exact if_pos (by rw [hbad, hranged]; rfl)

/-! ### A segment goes to another core -/

/-- The segments of a row that a core has of another (R185). -/
def EntryRun.segments (e : EntryRun) (src row k : Nat) : List OutSeg :=
  e.outs.filter (fun o => decide (o.holder = k) && decide (o.src = src) && decide (o.prob = e.cur) && decide (o.row = row))

section
variable {s : State} {r : EntryRef} {dst src row : Nat}

theorem State.exchange_gone (h : s.run? r = none) : s.exchange r dst src row = s := by
  rw [State.exchange, h]

variable {e : EntryRun} (he : s.run? r = some e)
include he

theorem State.exchange_none (h : e.mode = .ended ∨ dst = src ∨ (s.poundCores r.pound).contains dst = false ∨
    (e.segments src row src).drop (e.segments src row dst).length = []) : s.exchange r dst src row = s := by
  rw [State.exchange, he]
  dsimp only [EntryRun.segments] at h ⊢
  split
  · rfl
  next hgo =>
    simp only [Bool.or_eq_true, decide_eq_true_eq, Bool.not_eq_true', not_or, Bool.not_eq_false] at hgo
    rcases h with h | h | h | h
    · exact absurd h hgo.1.1
    · exact absurd h hgo.1.2
    · exact absurd (h ▸ hgo.2) (by decide)
    · rw [h]

/-- The next segment is copied, counted, and the blocks that become whole are written (R185). -/
theorem State.exchange_next {o : OutSeg} {os : List OutSeg} (hmode : e.mode ≠ .ended) (hne : dst ≠ src)
    (hin : (s.poundCores r.pound).contains dst = true) (h : (e.segments src row src).drop (e.segments src row dst).length = o :: os) :
    s.exchange r dst src row =
      ((s.modRun r (fun e => { e with outs := e.outs ++ [{ o with holder := dst }] })).count src 40 (e.outB * o.vals.length)).flushAll r := by
  rw [State.exchange, he]
  dsimp only [EntryRun.segments] at h ⊢
  rw [if_neg (by simp only [Bool.or_eq_true, decide_eq_true_eq, Bool.not_eq_true', hmode, hne, hin, Bool.true_eq_false, or_self,
    not_false_eq_true]), h]

end

/-- Settles O23: the row that is due leaves, is lost or is repeated; then the exchange of segments. -/
theorem rowsLeave : Obligations.RowsLeave := by
  unfold Obligations.RowsLeave
  constructor
  · intro s c p pos idx row flt r
    refine ⟨fun h => next_congr (State.rowComplete_gone h), fun e he => ⟨fun h => next_congr (State.rowComplete_no_share he h),
      fun h hsh => ?_⟩⟩
    exact ⟨fun hdue => next_congr (State.rowComplete_not_due he hsh hdue),
      fun t hdue ht => next_congr (State.rowComplete_lost he hsh hdue ht),
      fun hdue ht hflt => next_congr (State.rowComplete_leaves he hsh hdue ht hflt),
      fun hdue ht hflt hres hwaves => ⟨fun hredo => next_congr (State.rowComplete_atRest_again he hsh hdue ht hflt hres hwaves hredo),
        fun hredo => ⟨s.rowCleared r e h c row, next_congr (State.rowComplete_atRest_first he hsh hdue ht hflt hres hwaves hredo),
          State.rowCleared_redo he h c row⟩⟩,
      fun hwaves hok hranged => hwaves ▸ State.rowFinish_wave he hok hranged⟩
  · intro s dst src p pos idx row r
    refine ⟨fun h => next_congr ?_, fun e he hal => ⟨fun h => next_congr ((if_pos hal).trans ?_), fun o os hmode hne hin h =>
      next_congr ((if_pos hal).trans (State.exchange_next he hmode (fun hv => hne (Fin.ext hv)) hin h))⟩⟩
    · rcases h with h | h
      · exact if_neg (Bool.eq_false_iff.1 h)
      · rw [State.exchange_gone h, ite_self]
    · exact State.exchange_none he (h.imp_right (Or.imp_left (congrArg Fin.val)))

end Sys2Proof.Machine
end

section
/-! PROOFS. The range verdicts of a held row (R303): the count of resolved elements is each entry's own. -/
namespace Sys2Proof.Machine
open Sys2Proof

/-! ### Two entries of one sentence with one index

The statement sets the count of resolved elements of every entry of the row's index to that of the first one; the model adds to each
entry's own. A sentence with two entries of one index tells them apart. -/

/-- A subjunctive MATMUL with a row of core 0 that waits at the chain, with no element. -/
def heldEntry : EntryRun := { raw := [0, 1], verb := 1, shares := [{ core := 0, groups := [] }], held := [⟨0, 0, [], [], false⟩] }

/-- Two entries of index 0; the second has resolved five elements. -/
def twinSentence : Sentence :=
  { req := 0, saddr := 0, host := false, nent := 0, next := 0, runs := [heldEntry, { heldEntry with resolved := 5 }], failed := none,
    aborting := none, order := 0, image := false }

/-- Core 0 accepts, and its pound has these entries in service. -/
def twinState : State :=
  { boot := { inReset := false }, cores := [(0, { tnd := .running })], pounds := [(0, { service := [(0, some twinSentence)] })] }

/-- The counts of resolved elements in the first position of pound 0. -/
def State.resolvedCounts (s : State) : Option (List Nat) := (s.sent? 0 0).map (fun n => n.runs.map (·.resolved))

/-- The second entry keeps its own count. -/
theorem resolvedCounts_rangeResolve : (twinState.rangeResolve ⟨0, 0, 0⟩ 0 0).resolvedCounts = some [0, 5] := by decide

/-- Refutes O24: of two entries with one index, the second keeps its own count of resolved elements, where the statement has it
take the first one's. -/
theorem not_rangeResolves : ¬ Obligations.RangeResolves := by
  unfold Obligations.RangeResolves
  intro hall
  obtain ⟨-, hsome⟩ := hall twinState 0 0 0 0 0
  obtain ⟨-, hdue⟩ := hsome heldEntry rfl
  obtain ⟨hfirst, -⟩ := hdue ⟨0, 0, [], [], false⟩ { core := 0, groups := [] } rfl rfl rfl rfl rfl
  obtain ⟨-, hrepeat, -⟩ := hfirst rfl (by decide) rfl
  have hnext := hrepeat rfl rfl
  injection hnext with hstate
  have hcounts := resolvedCounts_rangeResolve.symm.trans (congrArg State.resolvedCounts hstate)
  revert hcounts
  decide

end Sys2Proof.Machine
end

section
/-! PROOFS. A pass claims its tiles and clears them (R188, R189). -/
namespace Sys2Proof.NMap

/-- A table whose keys are filtered lists a kept key as before, and no other key. -/
theorem find?_filter_key {α : Type} (P : Nat → Bool) {m : NMap α} (hs : sorted m = true) (i : Nat) :
    find? (m.filter (fun e => P e.1)) i = if P i then find? m i else none := by
  induction m with
  | nil => exact (ite_self _).symm
  | cons d m ih =>
    obtain ⟨k, v⟩ := d
    obtain ⟨ha, hs'⟩ := sorted_cons.1 hs
    have hbelow (h : i < k) : find? m i = none := find?_above (above_trans h ha)
    rw [List.filter_cons]
    split
    · rw [find?, find?, ih hs']
      grind
    · rw [find?, ih hs']
      grind

theorem get_filter_key {α : Type} (d : α) (P : Nat → Bool) {m : NMap α} (hs : sorted m = true) (i : Nat) :
    get d (m.filter (fun e => P e.1)) i = if P i then get d m i else d := by
  rw [get, find?_filter_key P hs]
  split <;> rfl

/-- One value written to each key of a list is read from these keys alone. -/
theorem get_foldl_set {α : Type} [DecidableEq α] (d x : α) (is : List Nat) {m : NMap α} (hs : sorted m = true) (j : Nat) :
    get d (is.foldl (fun m i => set d m i x) m) j = if j ∈ is then x else get d m j := by
  induction is generalizing m with
  | nil => rfl
  | cons i is ih =>
    rw [List.foldl_cons, ih (sorted_set d i x hs)]
    by_cases hj : j = i
    · subst hj
      rw [get_set_self _ _ _ hs, ite_self, if_pos List.mem_cons_self]
    · rw [get_set_ne _ _ _ hj hs]
      simp only [List.mem_cons, hj, false_or]

end Sys2Proof.NMap

namespace Sys2Proof.Machine
open Sys2Proof

/-- The tiles of the pass under way: of a verb whose columns are split, its footprint (R188). -/
def EntryRun.claimTiles (e : EntryRun) (h : Share) : List Nat := if tiled e.verb then e.passTiles h else []

/-- The core with its pass's tiles claimed and cleared (R188). -/
def Core.claim (x : Core) (tiles : List Nat) (no : Nat) : Core :=
  { x with claims := tiles.foldl (fun m t => m.set 0 t no) x.claims, acc := x.acc.filter (fun (k, _) => !tiles.contains (k / 2048)) }

/-- The pass's numbers in the entry and its core's counts, with the event of a product of several passes (R189, R190). -/
def State.passNoted (s : State) (r : EntryRef) (e : EntryRun) (h : Share) (c : Nat) : State :=
  let counts := e.shares.map (fun (h : Share) => h.passCount e.verb e.prob.m e.prob.k)
  let most := counts.foldl (fun (a, b, k) (x, y, z) => if a * k < x * z then (x, y, z) else (a, b, k)) (0, 0, 0)
  let np := most.1 * most.2.2
  let s2 := ((s.modShare r c (fun h => { h with running := true })).worked r).count c 15 (h.passCount e.verb e.prob.m e.prob.k).2.2
  if !tiled e.verb then s2
  else
    let t := s2.modRun r (fun e => { e with npass := max e.npass np, passRaised := e.passRaised || 1 < np })
    if 1 < np && !e.passRaised then
      t.raiseRun r (evCore 0x1101 0 c (most.1 % 65536 + 65536 * (most.2.1 % 65536) + 2 ^ 32 * (most.2.2 % 65536)))
    else t

/-- Noting a pass leaves whatever entries, counts and events leave. -/
theorem State.passNoted_keeps {β : Type} (φ : State → β) (hrun : ∀ t r f, φ (State.modRun t r f) = φ t)
    (hcount : ∀ t b k n, φ (State.count t b k n) = φ t) (hraise : ∀ t e, φ (State.raise t e) = φ t)
    (s : State) (r : EntryRef) (e : EntryRun) (h : Share) (c : Nat) : φ (s.passNoted r e h c) = φ s := by
  have hs2 : φ (((s.modShare r c (fun h => { h with running := true })).worked r).count c 15
      (h.passCount e.verb e.prob.m e.prob.k).2.2) = φ s := (hcount ..).trans ((hrun ..).trans (hrun ..))
  unfold State.passNoted
  dsimp only
  split
  · exact hs2
  · split
    · exact (State.raiseRun_keeps φ hraise ..).trans ((hrun ..).trans hs2)
    · exact (hrun ..).trans hs2

@[simp] theorem State.core_passNoted (s : State) (r : EntryRef) (e : EntryRun) (h : Share) (c d : Nat) :
    (s.passNoted r e h c).core d = s.core d :=
  State.passNoted_keeps (fun t => t.core d) (fun t r f => t.core_modRun r f d) (fun t b k n => t.core_count b k n d)
    (fun t e => t.core_raise e d) s r e h c

@[simp] theorem State.passNoted_cores (s : State) (r : EntryRef) (e : EntryRun) (h : Share) (c : Nat) :
    (s.passNoted r e h c).cores = s.cores :=
  State.passNoted_keeps State.cores State.modRun_cores State.count_cores State.raise_cores s r e h c

@[simp] theorem State.passNoted_arrays (s : State) (r : EntryRef) (e : EntryRun) (h : Share) (c : Nat) :
    (s.passNoted r e h c).arrays = s.arrays :=
  State.passNoted_keeps State.arrays State.modRun_arrays State.count_arrays State.raise_arrays s r e h c

@[simp] theorem State.passNoted_mem (s : State) (r : EntryRef) (e : EntryRun) (h : Share) (c : Nat) :
    (s.passNoted r e h c).mem = s.mem :=
  State.passNoted_keeps State.mem State.modRun_mem State.count_mem State.raise_mem s r e h c

/-- Whether a pass may start (R163, R188). -/
def State.PassDue (s : State) (e : EntryRun) (h : Share) (c : Nat) : Prop :=
  s.alive = true ∧ e.mode = .running ∧ e.verb ∉ [4, 5, 6] ∧ h.running = false ∧ h.finished = false ∧ (s.core c).accepting = true ∧
    ((h.rows e.verb e.prob.m).head?).any e.below = true

theorem State.passDue_iff (s : State) (e : EntryRun) (h : Share) (c : Nat) : s.PassDue e h c ↔
    ¬ (!s.alive || e.mode ≠ .running || e.verb = 4 || e.verb = 5 || e.verb = 6 || h.running || h.finished ||
      !(s.core c).accepting || !((h.rows e.verb e.prob.m).head?).any e.below) = true := by
  simp only [State.PassDue, Bool.or_eq_true, Bool.not_eq_true', decide_eq_true_eq, not_or, Bool.not_eq_false, Bool.not_eq_true, ne_eq,
    Classical.not_not, and_assoc, List.mem_cons, List.not_mem_nil, or_false]

/-- The waves that a pass of a subjunctive MATMUL hands to the wave engine (R189). -/
def State.passWaves (s : State) (r : EntryRef) (e : EntryRun) (h : Share) : List WaveReq :=
  ((h.rows e.verb e.prob.m).filter e.below).flatMap (fun m => s.rowWaves r e h m 0)

section
variable {s : State} {r : EntryRef} {c : Nat}

theorem State.passStart_gone (h : s.run? r = none) : s.passStart r c = s := by
  rw [State.passStart, h]

variable {e : EntryRun} (he : s.run? r = some e)
include he

theorem State.passStart_no_share (h : e.share c = none) : s.passStart r c = s := by
  rw [State.passStart, he]
  dsimp only
  rw [h]

variable {h : Share} (hsh : e.share c = some h)
include hsh

theorem State.passStart_not_due (hdue : ¬ s.PassDue e h c) : s.passStart r c = s := by
  rw [State.passStart, he]
  dsimp only
  rw [hsh]
  rw [State.passDue_iff, Classical.not_not] at hdue
  exact if_pos hdue

/-- A pass that is due claims its tiles; its waves go to the wave engine, or its task to the tender (R163, R188, R189). -/
theorem State.passStart_due (hdue : s.PassDue e h c) : s.passStart r c =
    if e.verb = 1 && eSubj e.raw then
      ((s.modCore c (·.claim (e.claimTiles h) e.issueNo)).passNoted r e h c).modCore c
        (fun x => { x with waiting := x.waiting ++ s.passWaves r e h })
    else ((s.modCore c (·.claim (e.claimTiles h) e.issueNo)).passNoted r e h c).takeTask r c := by
  rw [State.passStart, he]
  dsimp only
  rw [hsh]
  exact if_neg ((State.passDue_iff ..).1 hdue)

end

/-! ### What a pass that starts leaves -/

section
variable {s : State} (hsorted : NMap.sorted s.cores = true)
include hsorted

theorem State.core_modCore_of_sorted (c : Nat) (f : Core → Core) : (s.modCore c f).core c = f (s.core c) :=
  NMap.get_set_self _ _ _ hsorted

theorem State.core_modCore_ne_of_sorted {c d : Nat} (f : Core → Core) (hd : d ≠ c) : (s.modCore c f).core d = s.core d :=
  NMap.get_set_ne _ _ _ hd hsorted

/-- A change of a core that keeps its accumulator keeps every core's. -/
theorem State.core_acc_modCore {c : Nat} {f : Core → Core} (hacc : ∀ x, (f x).acc = x.acc) (hclaims : ∀ x, (f x).claims = x.claims)
    (d : Nat) : ((s.modCore c f).core d).acc = (s.core d).acc ∧ ((s.modCore c f).core d).claims = (s.core d).claims := by
  by_cases hd : d = c
  · subst hd
    rw [State.core_modCore_of_sorted hsorted]
    exact ⟨hacc _, hclaims _⟩
  · rw [State.core_modCore_ne_of_sorted hsorted _ hd]
    exact ⟨rfl, rfl⟩

theorem State.core_acc_takeTask (r : EntryRef) (c d : Nat) :
    ((s.takeTask r c).core d).acc = (s.core d).acc ∧ ((s.takeTask r c).core d).claims = (s.core d).claims := by
  unfold State.takeTask
  split
  · refine State.core_acc_modCore hsorted ?_ ?_ d <;> exact fun _ => rfl
  · exact ⟨rfl, rfl⟩

end

theorem State.takeTask_arrays (s : State) (r : EntryRef) (c : Nat) : (s.takeTask r c).arrays = s.arrays := by
  unfold State.takeTask
  split
  · exact State.modCore_arrays ..
  · rfl

theorem State.takeTask_mem (s : State) (r : EntryRef) (c : Nat) : (s.takeTask r c).mem = s.mem := by
  unfold State.takeTask
  split
  · exact State.modCore_mem ..
  · rfl

section
variable {s : State} {r : EntryRef} {c : Nat} {e : EntryRun} {h : Share}

/-- The accumulators and claims after a pass starts: those of its core are claimed, the others' stay. -/
theorem State.passStart_acc {lf lg : Nat} {cq : List Instr} (hS : s.Safe lf lg cq) (he : s.run? r = some e) (hsh : e.share c = some h)
    (hdue : s.PassDue e h c) (d : Nat) :
    let x := if d = c then (s.core c).claim (e.claimTiles h) e.issueNo else s.core d
    ((s.passStart r c).core d).acc = x.acc ∧ ((s.passStart r c).core d).claims = x.claims := by
  have hclaimed : ((s.modCore c (·.claim (e.claimTiles h) e.issueNo)).passNoted r e h c).core d =
      if d = c then (s.core c).claim (e.claimTiles h) e.issueNo else s.core d := by
    rw [State.core_passNoted]
    split
    next hd => rw [hd, State.core_modCore hS]
    next hd => rw [State.core_modCore_ne hS _ hd]
  have hsorted : NMap.sorted ((s.modCore c (·.claim (e.claimTiles h) e.issueNo)).passNoted r e h c).cores = true := by
    rw [State.passNoted_cores]
    exact NMap.sorted_set _ _ _ (NMap.sorted_of_wf hS.canon.cores)
  rw [State.passStart_due he hsh hdue, ← hclaimed]
  split
  · refine State.core_acc_modCore hsorted ?_ ?_ d <;> exact fun _ => rfl
  · exact State.core_acc_takeTask hsorted r c d

/-- The waves of a subjunctive MATMUL's pass join those that wait (R189). -/
theorem State.passStart_waiting {lf lg : Nat} {cq : List Instr} (hS : s.Safe lf lg cq) (he : s.run? r = some e) (hsh : e.share c = some h)
    (hdue : s.PassDue e h c) (hverb : e.verb = 1) (hsubj : eSubj e.raw = true) :
    ((s.passStart r c).core c).waiting = (s.core c).waiting ++ s.passWaves r e h := by
  have hsorted : NMap.sorted ((s.modCore c (·.claim (e.claimTiles h) e.issueNo)).passNoted r e h c).cores = true := by
    rw [State.passNoted_cores]
    exact NMap.sorted_set _ _ _ (NMap.sorted_of_wf hS.canon.cores)
  rw [State.passStart_due he hsh hdue, if_pos (by rw [hverb, hsubj]; rfl), State.core_modCore_of_sorted hsorted, State.core_passNoted,
    State.core_modCore hS]
  rfl

theorem State.passStart_arrays (he : s.run? r = some e) (hsh : e.share c = some h) (hdue : s.PassDue e h c) :
    (s.passStart r c).arrays = s.arrays := by
  rw [State.passStart_due he hsh hdue]
  split
  · rw [State.modCore_arrays, State.passNoted_arrays, State.modCore_arrays]
  · rw [State.takeTask_arrays, State.passNoted_arrays, State.modCore_arrays]

theorem State.passStart_mem (he : s.run? r = some e) (hsh : e.share c = some h) (hdue : s.PassDue e h c) :
    (s.passStart r c).mem = s.mem := by
  rw [State.passStart_due he hsh hdue]
  split
  · rw [State.modCore_mem, State.passNoted_mem, State.modCore_mem]
  · rw [State.takeTask_mem, State.passNoted_mem, State.modCore_mem]

end

theorem EntryRun.claimTiles_eq (e : EntryRun) (h : Share) : (if e.verb ∈ [1, 2, 3] then e.passTiles h else []) = e.claimTiles h := by
  simp only [EntryRun.claimTiles, tiled, Bool.or_eq_true, decide_eq_true_eq, List.mem_cons, List.not_mem_nil, or_false, or_assoc]

/-- Settles O25: the tiles of the footprint are claimed and cleared, and the rest stays. -/
theorem passClaimsTiles : Obligations.PassClaimsTiles := by
  unfold Obligations.PassClaimsTiles
  intro s c p pos idx hS r
  refine ⟨fun h => next_congr (State.passStart_gone h), fun e he => ⟨fun h => next_congr (State.passStart_no_share he h), fun h hsh =>
    ⟨fun hdue => next_congr (State.passStart_not_due he hsh hdue), fun hdue hclaims hacc => ?_⟩⟩⟩
  dsimp only
  rw [EntryRun.claimTiles_eq]
  have hcore := State.passStart_acc hS he hsh hdue
  obtain ⟨haccC, hclaimsC⟩ := hcore c
  rw [if_pos rfl] at haccC hclaimsC
  have hgetClaims (i : Nat) : (((s.passStart r c).core c).claims).get 0 i =
      if i ∈ e.claimTiles h then e.issueNo else (s.core c).claims.get 0 i := by
    rw [hclaimsC]
    exact NMap.get_foldl_set 0 e.issueNo _ hclaims i
  have hgetAcc (k : Nat) : (((s.passStart r c).core c).acc).get 0 k =
      if (!(e.claimTiles h).contains (k / 2048)) = true then (s.core c).acc.get 0 k else 0 := by
    rw [haccC]
    exact NMap.get_filter_key 0 (fun k => !(e.claimTiles h).contains (k / 2048)) hacc k
  refine ⟨s.passStart r c, rfl, fun i hi => ?_, fun i hi => ?_, fun k hk => ?_, fun k hk => ?_,
    fun hverb hsubj => State.passStart_waiting hS he hsh hdue hverb hsubj, fun d hd => ?_,
    State.passStart_arrays he hsh hdue, State.passStart_mem he hsh hdue⟩
  · rw [hgetClaims, if_pos hi]
  · rw [hgetClaims, if_neg hi]
  · rw [hgetAcc, if_neg (by simpa using hk)]
  · rw [hgetAcc, if_pos (by simpa using hk)]
  · have hother := hcore d
    rwa [if_neg hd] at hother

end Sys2Proof.Machine
end

section
/-! PROOFS. The ingest stage evaluates a block (R102 to R107, R137). -/
namespace Sys2Proof.Machine
open Sys2Proof

/-- Whether block `i` is the one that the ingest stage of a core evaluates next (R103). -/
def State.IngestDue (s : State) (e : EntryRun) (c i : Nat) : Prop :=
  let rows := rowsIn e.outStride e.prob.m i
  s.alive = true ∧ e.verb = 6 ∧ e.mode = .running ∧ (s.core c).accepting = true ∧ i = e.ingested.length ∧ e.due i = true ∧ rows ≠ [] ∧
    e.rowCore (rows.headD 0) = c

theorem State.ingestDue_iff (s : State) (e : EntryRun) (c i : Nat) : s.IngestDue e c i ↔
    ¬ (!s.alive || e.verb ≠ 6 || e.mode ≠ .running || !(s.core c).accepting || i ≠ e.ingested.length || !e.due i ||
      (rowsIn e.outStride e.prob.m i).isEmpty || e.rowCore ((rowsIn e.outStride e.prob.m i).headD 0) ≠ c) = true := by
  simp only [State.IngestDue, Bool.or_eq_true, Bool.not_eq_true', decide_eq_true_eq, not_or, Bool.not_eq_false, ne_eq, Classical.not_not, and_assoc,
    List.isEmpty_iff]

/-- The state with the work begun, the task taken and the residue outcome met (R137, R163). -/
def State.ingestBegun (s : State) (r : EntryRef) (e : EntryRun) (c i : Nat) (flt : Option ResFault) : State :=
  ((s.worked r).takeTask r c).resHit r c ((rowsIn e.outStride e.prob.m i).headD 0) flt

/-- The state with the rows of a block quantised that were not held yet (R103). -/
def State.rowsHeld (s : State) (r : EntryRef) (e : EntryRun) (i : Nat) : State :=
  s.each ((rowsIn e.outStride e.prob.m i).filter (fun m => !e.held.any (fun h => h.row = m)))
    (fun t m => if (t.run? r).any (fun e => decide (e.mode = .running) && e.below m) then t.ingestRow r m else t)

/-- The guard's verdict on a block: its cause and the largest code (R104). -/
def EntryRun.guardOn (e : EntryRun) (c i : Nat) : Nat × Nat :=
  e.guard c ((e.heldVals i).map (fun v => (BitVec.ofNat 8 v).toInt)) ((e.heldVals i).filter (256 ≤ ·)).length

section
variable {s : State} {r : EntryRef} {c i : Nat} {flt : Option ResFault}

theorem State.ingestBlock_gone (h : s.run? r = none) : s.ingestBlock r c i flt = s := by
  rw [State.ingestBlock, h]

variable {e : EntryRun} (he : s.run? r = some e)
include he

theorem State.ingestBlock_not_due (hdue : ¬ s.IngestDue e c i) : s.ingestBlock r c i flt = s := by
  rw [State.ingestBlock, he]
  rw [State.ingestDue_iff, Classical.not_not] at hdue
  exact if_pos hdue

variable (hdue : s.IngestDue e c i)
include hdue

theorem State.ingestBlock_ended (hrun : (s.ingestBegun r e c i flt).running r = false) : s.ingestBlock r c i flt = s.ingestBegun r e c i flt := by
  rw [State.ingestBlock, he]
  exact (if_neg ((State.ingestDue_iff ..).1 hdue)).trans (if_pos (by rw [Bool.not_eq_true']; exact hrun))

variable (hrun : (s.ingestBegun r e c i flt).running r = true) {e1 : EntryRun}
  (he1 : ((s.ingestBegun r e c i flt).rowsHeld r e i).run? r = some e1)
include hrun he1

theorem State.ingestBlock_stops (hstop : e1.mode ≠ .running ∨ e1.due i = false) :
    s.ingestBlock r c i flt = (s.ingestBegun r e c i flt).rowsHeld r e i := by
  rw [State.ingestBlock, he]
  refine (if_neg ((State.ingestDue_iff ..).1 hdue)).trans ((if_neg ?_).trans ?_)
  · rw [Bool.not_eq_true', Bool.not_eq_false]; exact hrun
  · rw [State.rowsHeld, State.ingestBegun] at he1
    dsimp only at he1 ⊢
    rw [he1]
    refine if_pos ?_
    rcases hstop with h | h
    · rw [decide_eq_true h, Bool.true_or]
    · rw [h, Bool.not_false, Bool.or_true]

variable (hmode : e1.mode = .running) (hdue1 : e1.due i = true)
include hmode hdue1

/-- A block that is evaluated, with its rows requantised where it trips the guard, is released with those that wait for it (R104). -/
theorem State.ingestBlock_evaluated {s2 : State} {e2 : EntryRun} (hs2 : (if e1.sclMode = 0 && (e1.guardOn c i).1 ≠ 0
      then ((s.ingestBegun r e c i flt).rowsHeld r e i).ingestTrip r e1 c i (rowsIn e.outStride e.prob.m i) (e1.guardOn c i).1
        ((e1.heldVals i).filter (256 ≤ ·)).length (e1.guardOn c i).2
      else ((s.ingestBegun r e c i flt).rowsHeld r e i).modRun r (fun e => { e with ingested := i :: e.ingested })) = s2)
    (he2 : s2.run? r = some e2) : s.ingestBlock r c i flt = s2.ingestRelease r e2 i (rowsIn e.outStride e.prob.m i) := by
  have hgo : ¬ ((decide (e1.mode ≠ .running) || !e1.due i) = true) := by
    rw [hmode, hdue1]
    decide
  rw [State.ingestBlock, he]
  refine (if_neg ((State.ingestDue_iff ..).1 hdue)).trans ((if_neg ?_).trans ?_)
  · rw [Bool.not_eq_true', Bool.not_eq_false]; exact hrun
  · rw [State.rowsHeld, State.ingestBegun] at he1 hs2
    rw [EntryRun.guardOn] at hs2
    dsimp only at he1 hs2 ⊢
    rw [he1]
    refine (if_neg hgo).trans ?_
    rw [hs2, he2]

theorem State.ingestBlock_keeps (hguard : e1.sclMode ≠ 0 ∨ (e1.guardOn c i).1 = 0) {e2 : EntryRun}
    (he2 : (((s.ingestBegun r e c i flt).rowsHeld r e i).modRun r (fun e => { e with ingested := i :: e.ingested })).run? r = some e2) :
    s.ingestBlock r c i flt = (((s.ingestBegun r e c i flt).rowsHeld r e i).modRun r
      (fun e => { e with ingested := i :: e.ingested })).ingestRelease r e2 i (rowsIn e.outStride e.prob.m i) := by
  refine State.ingestBlock_evaluated he hdue hrun he1 hmode hdue1 (if_neg ?_) he2
  simp only [Bool.and_eq_true, decide_eq_true_eq, not_and, ne_eq, Classical.not_not]
  exact fun hscl => hguard.resolve_left (not_not_intro hscl)

theorem State.ingestBlock_trips (hscl : e1.sclMode = 0) (hguard : (e1.guardOn c i).1 ≠ 0) {e2 : EntryRun}
    (he2 : (((s.ingestBegun r e c i flt).rowsHeld r e i).ingestTrip r e1 c i (rowsIn e.outStride e.prob.m i) (e1.guardOn c i).1
      ((e1.heldVals i).filter (256 ≤ ·)).length (e1.guardOn c i).2).run? r = some e2) :
    s.ingestBlock r c i flt = (((s.ingestBegun r e c i flt).rowsHeld r e i).ingestTrip r e1 c i (rowsIn e.outStride e.prob.m i)
      (e1.guardOn c i).1 ((e1.heldVals i).filter (256 ≤ ·)).length (e1.guardOn c i).2).ingestRelease r e2 i
        (rowsIn e.outStride e.prob.m i) :=
  State.ingestBlock_evaluated he hdue hrun he1 hmode hdue1
    (if_pos (by rw [decide_eq_true hscl, decide_eq_true hguard]; rfl)) he2

end

/-- While a block of the rows is still to be evaluated, nothing is released (R104). -/
theorem State.ingestRelease_waits {s : State} {r : EntryRef} {e : EntryRun} {i : Nat} {rows : List Nat}
    (h : (if e.sclMode = 0 then e.rowBlocks rows else [i]).all e.ingested.contains = false) : s.ingestRelease r e i rows = s :=
  if_pos (by rw [h]; rfl)

/-- Settles O26: the block that is due is evaluated, requantised where it trips, and released with its rows. -/
theorem ingestEvaluates : Obligations.IngestEvaluates := by
  unfold Obligations.IngestEvaluates
  intro s c p pos idx i flt r
  refine ⟨fun h => next_congr (State.ingestBlock_gone h), fun e he => ⟨fun hdue => next_congr (State.ingestBlock_not_due he hdue),
    fun hdue => ⟨fun hrun => next_congr (State.ingestBlock_ended he hdue hrun), fun hrun e1 he1 =>
      ⟨fun hstop => next_congr (State.ingestBlock_stops he hdue hrun he1 hstop), fun hmode hdue1 =>
        ⟨fun hguard e2 he2 => ?_, fun hscl hguard e2 he2 =>
          next_congr (State.ingestBlock_trips he hdue hrun he1 hmode hdue1 hscl hguard he2)⟩⟩⟩⟩⟩
  have hrelease := State.ingestBlock_keeps he hdue hrun he1 hmode hdue1 hguard he2
  refine ⟨next_congr hrelease, fun hopen hmodes hblocks => next_congr (hrelease.trans (State.ingestRelease_waits ?_))⟩
  rw [hmodes, hblocks]
  exact hopen

end Sys2Proof.Machine
end

section
/-! PROOFS. The chain and NONLIN table windows of the drain (R125, R129, R148). -/
namespace Sys2Proof.Machine
open Sys2Proof

theorem ofNat_toNat_32 (v : Word) : BitVec.ofNat 32 v.toNat = v := BitVec.ofNat_toNat _ _ |>.trans (BitVec.setWidth_eq v)

section
variable {lf lg : Nat} {cq : List Instr} {s : State} {c : Nat}

/-! ### The index of the NONLIN window -/

theorem State.nltStep_off (h : s.rb .drnNltAddr c 15 = false) : s.nltStep c = s := if_neg (Bool.eq_false_iff.1 h)

theorem State.rf_nltStep (hS : s.Safe lf lg cq) (h : s.rb .drnNltAddr c 15 = true) :
    (s.nltStep c).rf .drnNltAddr c 10 0 = if 1027 ≤ s.rf .drnNltAddr c 10 0 then 0 else s.rf .drnNltAddr c 10 0 + 1 := by
  rw [State.nltStep, if_pos h, State.rf_wf_ hS .drnNltAddr c _ (by decide) (by decide)]
  refine Nat.mod_eq_of_lt ?_
  split <;> omega

@[simp] theorem State.core_nltStep (d : Nat) : (s.nltStep c).core d = s.core d := by
  unfold State.nltStep
  split
  · exact State.core_wf_ ..
  · rfl

@[simp] theorem State.nltStep_mem : (s.nltStep c).mem = s.mem := by
  unfold State.nltStep
  split
  · exact State.wf__mem ..
  · rfl

/-! ### The words of the windows -/

theorem State.core_chainLo (hS : s.Safe lf lg cq) (v : Word) : (s.chainLo c v.toNat).core c = { s.core c with holding := v } := by
  rw [State.chainLo, State.core_modCore hS, ofNat_toNat_32]

theorem State.core_chainHi (hS : s.Safe lf lg cq) (v : Nat) : (s.chainHi c v).core c = { s.core c with
    chains := (s.core c).chains.set 0 (s.chainKey c) (BitVec.ofNat 64 ((s.core c).holding.toNat + 2 ^ 32 * v)) } :=
  State.core_modCore hS c _

/-- The state with the addressed word of the NONLIN table set. -/
def State.nltPut (s : State) (c : Nat) (v : Word) : State := s.modCore c (fun x =>
  { x with nlt := x.nlt.set 0 (1028 * s.rf .drnNltAddr c 14 12 + s.rf .drnNltAddr c 10 0) v })

theorem State.nltWord_nltPut (hS : s.Safe lf lg cq) (hsorted : NMap.sorted (s.core c).nlt = true) (v : Word)
    (hfun : 4 ≤ s.rf .drnNltAddr c 14 12) :
    ((s.nltPut c v).nltStep c).nltWord c (s.rf .drnNltAddr c 14 12) (s.rf .drnNltAddr c 10 0) = v := by
  rw [State.nltWord, if_neg (by omega), State.core_nltStep, State.nltPut, State.core_modCore hS]
  exact NMap.get_set_self _ _ _ hsorted

/-! ### A write of DRN_NLT_DATA -/

section
variable (p : Path) (v : Word)

theorem State.nltWrite_fixed (h : s.rf .drnNltAddr c 14 12 < 4) :
    s.nltWrite p c v.toNat = s.ignored p (Reg.drnNltData.addr c 0) 3 := if_pos h

theorem State.nltWrite_idle (h : 4 ≤ s.rf .drnNltAddr c 14 12) (hbusy : s.drnBusy c = false) :
    s.nltWrite p c v.toNat = (s.nltPut c v).nltStep c := by
  rw [State.nltWrite]
  refine (if_neg (Nat.not_lt.2 h)).trans ((if_neg (Bool.eq_false_iff.1 hbusy)).trans ?_)
  rw [ofNat_toNat_32, State.nltPut]

theorem State.nltWrite_busy (h : 4 ≤ s.rf .drnNltAddr c 14 12) (hbusy : s.drnBusy c = true) :
    s.nltWrite p c v.toNat = if s.nltHere c = v.toNat then s else s.ignored p (Reg.drnNltData.addr c 0) 1 :=
  (if_neg (Nat.not_lt.2 h)).trans (if_pos hbusy)

end

end

/-- Settles O27: the four accesses of a drain that answers, and none of one that does not. -/
theorem drainTables : Obligations.DrainTables := by
  unfold Obligations.DrainTables
  intro s path c v hS
  have hasked (f : State → State) (h : s.answers path .drn = true) {t : State} (ht : f s = t) :
      (.next (s.asked path .drn f) : Out) = .next t := next_congr ((State.asked_answered h f).trans ht)
  refine ⟨fun h => ⟨next_asked_unanswered h _, next_asked_unanswered h _, next_asked_unanswered h _, next_if_neg h _ _⟩,
    fun h hchains hnlt => ⟨⟨_, hasked _ h rfl, ?_, ?_, State.modCore_regs .., State.modCore_mem ..⟩,
      ⟨_, hasked _ h rfl, ?_, fun k hk => ?_, ?_, State.modCore_regs .., State.modCore_mem ..⟩,
      next_congr (if_pos h), fun hfun => hasked _ h (State.nltWrite_fixed path v hfun), fun hfun hbusy => ?_,
      fun hfun hbusy hne => hasked _ h ((State.nltWrite_busy path v hfun hbusy).trans (if_neg hne)),
      fun hfun hbusy heq => hasked _ h ((State.nltWrite_busy path v hfun hbusy).trans (if_pos heq))⟩⟩
  · rw [State.core_chainLo hS]
  · rw [State.core_chainLo hS]
  · rw [State.core_chainHi hS]
    exact NMap.get_set_self _ _ _ hchains
  · rw [State.core_chainHi hS]
    exact NMap.get_set_ne _ _ _ hk hchains
  · rw [State.core_chainHi hS]
  · refine ⟨_, hasked _ h (State.nltWrite_idle path v hfun hbusy), State.nltWord_nltPut hS hnlt v hfun, fun hinc => ?_, fun hinc => ?_, ?_⟩
    · have hput : (s.nltPut c v).Safe 0 0 s.pending := State.modCore_safe _ _ _ hS
      rw [State.rf_nltStep hput (by rw [State.rb, State.nltPut, State.rd_modCore]; exact hinc), State.rf, State.nltPut, State.rd_modCore]
      rfl
    · rw [State.nltStep_off (by rw [State.rb, State.nltPut, State.rd_modCore]; exact hinc)]
      exact State.modCore_regs ..
    · rw [State.nltStep_mem]
      exact State.modCore_mem ..

end Sys2Proof.Machine
end

section
/-! PROOFS. Halo transfers, and the entries that send and wait (R140 to R142, R158, R172). -/
namespace Sys2Proof.Machine
open Sys2Proof

/-! ### A transfer arrives -/

/-- The state whose sender has taken a transfer off its link, with the next one in its place (R141). -/
def State.haloTaken (s : State) (c : Nat) (h : HaloOut) : State :=
  (s.modCore c (fun x => ({ x with haloOut := x.haloOut.erase h } : Core).haloFill)).worked h.ref

/-- The blocks of a transfer go over, one by one (R140). -/
def State.haloCopy (s : State) (c : Nat) (right : Bool) (h : HaloOut) : Option RdFail × State :=
  copyRun (s.haloTaken c h) h.count (fun t i => t.copyAct h.ref c (h.base + i))
    (fun t i (b, m) => ((t.putAct (haloPeer c right) ((s.haloWin (haloPeer c right) right).1 + i) b m).count c 38 (blk + 16)).count
      (haloPeer c right) 39 (blk + 16))

/-- The receiver's sequence number of the link that a transfer came on goes on (R140). -/
def Core.haloSeq (x : Core) (right : Bool) : Core :=
  if right then { x with seqL := (x.seqL + 1) % 65536 } else { x with seqR := (x.seqR + 1) % 65536 }

section
variable {s : State} {c : Nat} {right : Bool}

theorem State.haloArrive_none (h : (s.core c).haloOut.find? (fun h => h.toRight = right) = none) : s.haloArrive c right = s := by
  rw [State.haloArrive, h]

theorem State.haloAbandon_none (h : (s.core c).haloOut.find? (fun h => h.toRight = right) = none) : s.haloAbandon c right = s := by
  rw [State.haloAbandon, h]

variable {h : HaloOut} (hh : (s.core c).haloOut.find? (fun h => h.toRight = right) = some h)
include hh

theorem State.haloArrive_stopped (hd : (s.core (haloPeer c right)).tnd ≠ .running) : s.haloArrive c right = s := by
  rw [State.haloArrive, hh]
  exact if_pos (by rw [decide_eq_true hd, Bool.or_true])

theorem State.haloAbandon_running (hd : (s.core (haloPeer c right)).tnd = .running) : s.haloAbandon c right = s := by
  rw [State.haloAbandon, hh]
  exact if_pos (by rw [decide_eq_true hd, Bool.or_true])

variable (hal : s.alive = true)
include hal

section
variable (hd : (s.core (haloPeer c right)).tnd = .running)
include hd

/-- A transfer larger than the receiver's window is refused (R140). -/
theorem State.haloArrive_refused (hsize : (s.haloWin (haloPeer c right) right).2 < h.count) : s.haloArrive c right =
    (((s.haloTaken c h).flag .corEvent (haloPeer c right) 8).raiseRun h.ref (evCore 0x2304 1 (haloPeer c right)
      (b2n (!right) + 256 * h.count + 65536 * (s.haloWin (haloPeer c right) right).2))).endRun h.ref 0x23 1 := by
  rw [State.haloArrive, hh]
  exact (if_neg (by rw [hal, hd]; decide)).trans (if_pos hsize)

/-- A transfer that fits is copied; a block that fails ends its entry, and else the link's sequence number goes on (R140, R172). -/
theorem State.haloArrive_copied (hsize : h.count ≤ (s.haloWin (haloPeer c right) right).2) : s.haloArrive c right =
    (s.haloCopy c right h).1.elim
      ((((s.haloCopy c right h).2.modCore (haloPeer c right) (·.haloSeq right)).endRun h.ref 0 0).each
        (((((s.haloCopy c right h).2.modCore (haloPeer c right) (·.haloSeq right))).allRuns.filter
          (fun (q, _) => q.pound = haloPeer c right)).map (·.1)) (fun u q => u.haloCheck q))
      (fun f => (s.haloCopy c right h).2.endRun h.ref f.1 f.2) := by
  rw [State.haloArrive, hh]
  refine (if_neg (by rw [hal, hd]; decide)).trans ((if_neg (Nat.not_lt.2 hsize)).trans ?_)
  dsimp only [State.haloWin, State.haloCopy, State.haloTaken]
  generalize copyRun _ _ _ _ = ft
  obtain ⟨_ | f, t⟩ := ft <;> rfl

end

end

/-! ### A transfer is abandoned -/

section
variable (s : State) (c : Nat) (right : Bool) (h : HaloOut)

/-- How many blocks of an abandoned transfer had arrived (assumption 7). -/
def State.haloCrossed : Nat := if (s.haloWin (haloPeer c right) right).2 < h.count then 0 else s.fresh.1 % max 1 h.count

/-- The state with these blocks at the receiver. -/
def State.haloPart : State :=
  s.fresh.2.each (List.range (s.haloCrossed c right h)) (fun t i =>
    let (b, m) := (t.core c).actBlock (h.base + i)
    ((t.putAct (haloPeer c right) ((s.haloWin (haloPeer c right) right).1 + i) b m).count c 38 (blk + 16)).count (haloPeer c right) 39
      (blk + 16))

/-- The state with the data of one more block, without its manifest, where that went over (assumption 7). -/
def State.haloTorn : State :=
  if h.count ≤ (s.haloWin (haloPeer c right) right).2 && bit (s.fresh.1 / h.count) 0 then
    (s.haloPart c right h).modCore (haloPeer c right) (fun x => { x with
      act := storeBytes x.act (((s.haloWin (haloPeer c right) right).1 + s.haloCrossed c right h) % 256 * blk)
        (((s.haloPart c right h).core c).actBlock (h.base + s.haloCrossed c right h)).1 })
  else s.haloPart c right h

/-- The state with the transfer off its link, and the receiver's flag set (R142). -/
def State.haloLeft : State :=
  ((s.haloTorn c right h).modCore c (fun x => ({ x with haloOut := x.haloOut.erase h } : Core).haloFill)).flag .corEvent
    (haloPeer c right) 0x10

theorem State.haloCrossed_le : s.haloCrossed c right h ≤ h.count := by
  unfold State.haloCrossed
  split
  · exact Nat.zero_le _
  · have := Nat.mod_lt s.fresh.1 (show 0 < max 1 h.count by omega)
    omega

/-- Blocks that go over leave whatever a change of a core and a count leave. -/
theorem State.haloTorn_keeps {β : Type} (φ : State → β) (hfree : ∀ t n, φ { t with free := n } = φ t)
    (hcore : ∀ t (f : Core → Core), φ (State.modCore t (haloPeer c right) f) = φ t) (hcount : ∀ t b k n, φ (State.count t b k n) = φ t) :
    φ (s.haloTorn c right h) = φ s := by
  have hpart : φ (s.haloPart c right h) = φ s :=
    (State.each_keeps φ (fun t i => (hcount ..).trans ((hcount ..).trans ((hcount ..).trans (hcore ..)))) _ _).trans (hfree s _)
  unfold State.haloTorn
  split
  · exact (hcore ..).trans hpart
  · exact hpart

theorem State.haloLeft_arrays : (s.haloLeft c right h).arrays = s.arrays := by
  rw [State.haloLeft, State.flag_arrays, State.modCore_arrays]
  exact State.haloTorn_keeps s c right h State.arrays (fun _ _ => rfl) (fun _ _ => rfl) State.count_arrays

theorem State.haloLeft_mem : (s.haloLeft c right h).mem = s.mem := by
  rw [State.haloLeft, State.flag_mem, State.modCore_mem]
  exact State.haloTorn_keeps s c right h State.mem (fun _ _ => rfl) (fun _ _ => rfl) State.count_mem

variable {s c right h}
variable {lf lg : Nat} {cq : List Instr} (hS : s.Safe lf lg cq)
include hS

theorem State.haloTorn_safe : (s.haloTorn c right h).Safe lf lg cq := by
  have hpart : (s.haloPart c right h).Safe lf lg cq :=
    State.each_safe _ _ _ (State.fresh_safe s hS) fun t i ht =>
      State.count_safe _ _ _ _ (State.count_safe _ _ _ _ (State.putAct_safe _ _ _ _ _ ht))
  unfold State.haloTorn
  split
  · exact State.modCore_safe _ _ _ hpart
  · exact hpart

/-- The blocks of a transfer to another core leave the sender as it was. -/
theorem State.core_haloTorn (hd : haloPeer c right ≠ c) : (s.haloTorn c right h).core c = s.core c := by
  have hput {t : State} (ht : t.Safe lf lg cq) (b : Nat) (x : BlockRd) : (((t.putAct (haloPeer c right) b x.1 x.2).count c 38
      (blk + 16)).count (haloPeer c right) 39 (blk + 16)).core c = t.core c := by
    rw [State.core_count, State.core_count, State.putAct, State.core_count, State.core_modCore_ne ht _ hd.symm]
  have hpart : (s.haloPart c right h).Safe lf lg cq ∧ (s.haloPart c right h).core c = s.core c := by
    unfold State.haloPart State.each
    refine foldl_keeps (P := fun t : State => t.Safe lf lg cq ∧ t.core c = s.core c) ?_ _ ⟨State.fresh_safe s hS, rfl⟩
    rintro t i ⟨ht, hc⟩
    dsimp only
    generalize (t.core c).actBlock (h.base + i) = x
    refine ⟨State.count_safe _ _ _ _ (State.count_safe _ _ _ _ (State.putAct_safe _ _ _ _ _ ht)), ?_⟩
    rw [hput ht, hc]
  unfold State.haloTorn
  split
  · rw [State.core_modCore_ne hpart.1 _ hd.symm, hpart.2]
  · exact hpart.2

theorem State.haloOut_haloLeft (hd : haloPeer c right ≠ c) :
    ((s.haloLeft c right h).core c).haloOut = (({ s.core c with haloOut := (s.core c).haloOut.erase h } : Core).haloFill).haloOut := by
  rw [State.haloLeft, State.core_flag, State.core_modCore (State.haloTorn_safe hS), State.core_haloTorn hS hd]

theorem State.haloLeft_flag : bit ((s.haloLeft c right h).rd .corEvent (haloPeer c right)) 4 = true := by
  rw [State.haloLeft, State.flag, State.rd_wr (State.modCore_safe _ _ _ (State.haloTorn_safe hS)), bit, Nat.testBit_mod_two_pow,
    Nat.testBit_or]
  simp only [show (0x10 : Nat).testBit 4 = true from rfl, Bool.or_true, Bool.and_true, decide_eq_true_eq]
  decide

end

/-- The oldest transfer of a link whose receiver does not run is abandoned (R142). -/
theorem State.haloAbandon_left {s : State} {c : Nat} {right : Bool} {h : HaloOut}
    (hh : (s.core c).haloOut.find? (fun h => h.toRight = right) = some h) (hal : s.alive = true)
    (hd : (s.core (haloPeer c right)).tnd ≠ .running) : s.haloAbandon c right =
    ((s.haloLeft c right h).raiseRun h.ref (evCore 0x2305 2 (haloPeer c right) (b2n (!right) + 256 * s.haloCrossed c right h))).endRun
      h.ref 0x23 2 := by
  rw [State.haloAbandon, hh]
  exact if_neg (by rw [hal, decide_eq_false hd]; decide)

/-! ### Sending and waiting -/

section
variable {s : State} {r : EntryRef}

theorem State.haloWaitOut_gone (h : s.run? r = none) : s.haloWaitOut r = s := by
  rw [State.haloWaitOut, h]

variable {e : EntryRun} (he : s.run? r = some e)
include he

theorem State.startHaloSend_run : s.startHaloSend r = (s.modCore r.pound (fun x => ({ x with
    haloWait := x.haloWait ++ [⟨r, decide (eParam e.raw = 0), eBase e.raw 16, eCount e.raw 16⟩] } : Core).haloFill)).modRun r
      (fun e => { e with mode := .waitHalo }) := by
  rw [State.startHaloSend, he]

theorem State.haloCheck_waiting (hverb : e.verb = 0xC) (hmode : e.mode = .waitHalo) :
    s.haloCheck r = if s.haloMet r e then s.endRun r 0 0 else s := by
  rw [State.haloCheck, he]
  dsimp only
  rw [decide_eq_true hverb, decide_eq_true hmode, Bool.true_and, Bool.true_and]

theorem State.haloWaitOut_ends (hverb : e.verb = 0xC) (hmode : e.mode = .waitHalo) (hlimit : e.arg / 65536 ≠ 0)
    (hmet : s.haloMet r e = false) : s.haloWaitOut r = s.endRun r 0x23 3 := by
  rw [State.haloWaitOut, he]
  exact if_pos (by rw [decide_eq_true hverb, decide_eq_true hmode, decide_eq_true hlimit, hmet]; rfl)

theorem State.haloWaitOut_not_due (h : e.verb ≠ 0xC ∨ e.mode ≠ .waitHalo ∨ e.arg / 65536 = 0 ∨ s.haloMet r e = true) :
    s.haloWaitOut r = s := by
  rw [State.haloWaitOut, he]
  refine if_neg ?_
  simp only [Bool.and_eq_true, decide_eq_true_eq, Bool.not_eq_true']
  rintro ⟨⟨⟨hverb, hmode⟩, hlimit⟩, hmet⟩
  rcases h with h | h | h | h
  · exact h hverb
  · exact h hmode
  · exact hlimit h
  · exact Bool.eq_false_iff.1 hmet h

end

/-- Settles O29: a transfer arrives or is abandoned; then the entries that send and wait. -/
theorem haloLinks : Obligations.HaloLinks := by
  unfold Obligations.HaloLinks
  constructor
  · intro s c right hS
    refine ⟨fun h => ?_, fun h hal hh => ⟨fun hd hsize => next_congr (State.haloArrive_refused hh hal hd hsize), fun hd hsize => ?_,
      fun hd => next_congr (State.haloArrive_stopped hh hd), fun hd => ?_, fun hd => next_congr (State.haloAbandon_running hh hd)⟩⟩
    · rcases h with h | h
      · exact ⟨next_congr (State.haloArrive_not_alive h _ _), next_congr (State.haloAbandon_not_alive h _ _)⟩
      · exact ⟨next_congr (State.haloArrive_none h), next_congr (State.haloAbandon_none h)⟩
    · have hcopied := State.haloArrive_copied hh hal hd hsize
      have hexec : exec (.haloTransfer c right) s = .next (s.haloArrive c right) := rfl
      rw [hexec]
      change match s.haloCopy c right h with | (none, t) => _ | (some f, t) => _
      generalize s.haloCopy c right h = ft at hcopied ⊢
      obtain ⟨_ | f, t⟩ := ft
      · exact next_congr hcopied
      · exact next_congr hcopied
    · exact ⟨s.haloLeft c right h, s.haloCrossed c right h, State.haloCrossed_le .., next_congr (State.haloAbandon_left hh hal hd),
        fun hne => State.haloOut_haloLeft hS hne, State.haloLeft_arrays .., State.haloLeft_mem .., State.haloLeft_flag hS⟩
  · intro s p pos idx r
    refine ⟨fun h => ?_, fun e he => ⟨State.startHaloSend_run he, fun hverb hmode => State.haloCheck_waiting he hverb hmode,
      fun hal hverb hmode hlimit hmet => next_congr ((if_pos hal).trans (State.haloWaitOut_ends he hverb hmode hlimit hmet)),
      fun h => next_congr ?_⟩⟩
    · rcases h with h | h
      · exact next_if_neg h _ _
      · refine next_congr ?_
        rw [State.haloWaitOut_gone h, ite_self]
    · rw [State.haloWaitOut_not_due he h, ite_self]

end Sys2Proof.Machine
end

section
/-! PROOFS. COMMIT, the substitution and RELEASE of the spare slot (R82, R144 to R147). -/
namespace Sys2Proof.Machine
open Sys2Proof

/-! ### What calibration, replay and rotation leave of a core's slots -/

/-- What a core holds of its slots: the spare, whether there is one, the retired slot, the map, the pending COMMIT and the
quarantined arrays. -/
def Core.slots (x : Core) : Nat × Bool × Option Nat × NMap Nat × Option (Nat × Bool) × Nat :=
  (x.spare, x.noSpare, x.retired, x.slotMap, x.spPending, x.quar)

section
variable {lf lg : Nat} {cq : List Instr} {s : State} (hS : s.Safe lf lg cq)
include hS

theorem State.slots_modCore {d : Nat} {f : Core → Core} (hf : ∀ x, (f x).slots = x.slots) (c : Nat) :
    ((s.modCore d f).core c).slots = (s.core c).slots := by
  by_cases hd : c = d
  · subst hd
    rw [State.core_modCore hS, hf]
  · rw [State.core_modCore_ne hS _ hd]

theorem State.slots_setCal (d set : Nat) (v : CalSet) (c : Nat) : ((s.setCal d set v).core c).slots = (s.core c).slots := by
  rw [State.setCal]
  refine State.slots_modCore hS ?_ c
  exact fun _ => rfl

theorem State.slots_degrade (d c : Nat) : ((s.degrade d).core c).slots = (s.core c).slots := by
  have hmod (n : Nat) : ((s.modCore d (fun x => { x with degraded := n })).core c).slots = (s.core c).slots := by
    refine State.slots_modCore hS ?_ c
    exact fun _ => rfl
  unfold State.degrade
  dsimp only
  split
  · rfl
  · split
    · exact hmod _
    · rw [State.core_raise, hmod]

theorem State.slots_calReload (d l c : Nat) : ((s.calReload d l).core c).slots = (s.core c).slots := by
  have hset (v : CalSet) (set : Nat) : ((s.setGains d set v).core c).slots = (s.core c).slots := State.slots_setCal hS _ _ _ _
  unfold State.calReload State.gainRange
  dsimp only
  split
  · rw [State.core_raise, State.core_flag, hset]
  · exact hset _ _

theorem State.slots_calSubstitute (d set c : Nat) : ((s.calSubstitute d set).core c).slots = (s.core c).slots := by
  unfold State.calSubstitute
  dsimp only
  split
  · rfl
  · split
    · exact State.slots_setCal hS _ _ _ _
    · exact State.slots_setCal hS _ _ _ _

end

section
variable (s : State)

/-- A reload of gains leaves whatever changes of cores, flags and events leave. -/
theorem State.calReload_keeps {β : Type} (φ : State → β) (hcore : ∀ t c f, φ (State.modCore t c f) = φ t)
    (hflag : ∀ t r i b, φ (State.flag t r i b) = φ t) (hraise : ∀ t e, φ (State.raise t e) = φ t) (c l : Nat) :
    φ (s.calReload c l) = φ s := by
  have hset (set : Nat) (v : CalSet) : φ (s.setGains c set v) = φ s := by
    rw [State.setGains, State.setCal]
    exact hcore ..
  unfold State.calReload State.gainRange
  dsimp only
  split
  · exact (hraise ..).trans ((hflag ..).trans (hset ..))
  · exact hset ..

theorem State.calSubstitute_keeps {β : Type} (φ : State → β) (hcore : ∀ t c f, φ (State.modCore t c f) = φ t) (c set : Nat) :
    φ (s.calSubstitute c set) = φ s := by
  have hset (v : CalSet) : φ (s.setCal c set v) = φ s := by
    rw [State.setCal]
    exact hcore ..
  unfold State.calSubstitute
  dsimp only
  split
  · rfl
  · split
    · exact hset _
    · exact hset _

@[simp] theorem State.calReload_arrays (c l : Nat) : (s.calReload c l).arrays = s.arrays :=
  s.calReload_keeps State.arrays State.modCore_arrays State.flag_arrays State.raise_arrays c l

@[simp] theorem State.calReload_mem (c l : Nat) : (s.calReload c l).mem = s.mem :=
  s.calReload_keeps State.mem State.modCore_mem State.flag_mem State.raise_mem c l

@[simp] theorem State.calSubstitute_arrays (c set : Nat) : (s.calSubstitute c set).arrays = s.arrays :=
  s.calSubstitute_keeps State.arrays State.modCore_arrays c set

@[simp] theorem State.calSubstitute_mem (c set : Nat) : (s.calSubstitute c set).mem = s.mem :=
  s.calSubstitute_keeps State.mem State.modCore_mem c set

/-- Telling that arrays have no spare leaves whatever flags and events leave. -/
theorem State.each_noSpareFor_keeps {β : Type} (φ : State → β) (hflag : ∀ t r i b, φ (State.flag t r i b) = φ t)
    (hraise : ∀ t e, φ (State.raise t e) = φ t) (c : Nat) (ms : List Nat) (slot : Nat → Nat) :
    φ (s.each ms (fun t m => t.noSpareFor c m (slot m))) = φ s :=
  State.each_keeps φ (fun _ _ => (hraise ..).trans (hflag ..)) s ms

end

/-! ### The substitution -/

/-- A bit taken out of a number is no longer set. -/
theorem testBit_sub_two_pow_self (q l : Nat) : bit (q - (if bit q l then 2 ^ l else 0)) l = false := by
  unfold bit
  split
  next h =>
    have hand : q &&& 2 ^ l = 2 ^ l := by
      refine Nat.eq_of_testBit_eq fun i => ?_
      rw [Nat.testBit_and, Nat.testBit_two_pow]
      by_cases hi : l = i
      · subst hi
        rw [h, Bool.true_and]
      · rw [decide_eq_false hi, Bool.and_false]
    rw [← hand, testBit_sub_and, Nat.testBit_two_pow_self, Bool.not_true, Bool.and_false]
  next h => rwa [Bool.not_eq_true] at h

/-- The state with the old slot out of service and the spare in it (R146). -/
def State.slotsExchanged (s : State) (c l : Nat) : State :=
  let x := s.core c
  let s1 := if (s.arr (arrId c (x.slotOf l))).st = .serving then
    (s.modArr (arrId c (x.slotOf l)) (fun y => { y with st := .ready, session := none })).storeArr (arrId c (x.slotOf l)) false else s
  (s1.modArr (arrId c x.spare) (fun y => { y with st := .serving })).storeArr (arrId c x.spare) x.rotating

/-- The core with its logical array moved from slot `p` to the spare `n` (R144, R146). -/
def Core.substituted (y : Core) (l p n : Nat) : Core :=
  { y with
    slotMap := y.slotMap.set l l n, noSpare := true, retired := some p, lastLogical := l, spPending := none,
    substRaise := some (l, p, n), quar := y.quar - (if bit y.quar l then 2 ^ l else 0), suspended := false,
    replayOn := false, rotating := false, autoFor := none }

section
variable {lf lg : Nat} {cq : List Instr} {s : State} {c l : Nat}

/-- The state with the logical array moved, before the calibration follows. -/
def State.mapped (s : State) (c l : Nat) : State :=
  (s.slotsExchanged c l).modCore c (·.substituted l ((s.core c).slotOf l) (s.core c).spare)

theorem State.core_slotsExchanged (d : Nat) : (s.slotsExchanged c l).core d = s.core d := by
  unfold State.slotsExchanged
  dsimp only
  split <;> simp only [State.core_storeArr, State.core_modArr]

/-- The substitution, with the calibration, the replay check and the notes for the other arrays that follow (R146, R276, R312). -/
theorem State.substitute_eq (s : State) (c l : Nat) : ∃ set others, s.substitute c l =
    (((((s.mapped c l).storeNow corePage).calReload c l).calSubstitute c set).degrade c).each others
      (fun t m => t.noSpareFor c m ((s.core c).slotOf m)) := by
  unfold State.substitute State.mapped State.slotsExchanged Core.substituted
  exact ⟨_, _, rfl⟩

theorem State.slotsExchanged_safe (hS : s.Safe lf lg cq) : (s.slotsExchanged c l).Safe lf lg cq := by
  unfold State.slotsExchanged
  dsimp only
  split
  · exact State.storeArr_safe _ _ _ (State.modArr_safe _ _ _ (State.storeArr_safe _ _ _ (State.modArr_safe _ _ _ hS)))
  · exact State.storeArr_safe _ _ _ (State.modArr_safe _ _ _ hS)

/-- The spare goes into service (R146). -/
theorem State.arr_slotsExchanged_spare (hS : s.Safe lf lg cq) :
    ((s.slotsExchanged c l).arr (arrId c (s.core c).spare)).st = .serving := by
  unfold State.slotsExchanged
  dsimp only
  split
  · rw [State.arr_storeArr, State.arr_modArr (State.storeArr_safe _ _ _ (State.modArr_safe _ _ _ hS))]
  · rw [State.arr_storeArr, State.arr_modArr hS]

/-- The old slot leaves service (R146). -/
theorem State.arr_slotsExchanged_old (hS : s.Safe lf lg cq) (hne : (s.core c).spare ≠ (s.core c).slotOf l)
    (hst : (s.arr (arrId c ((s.core c).slotOf l))).st = .serving) :
    ((s.slotsExchanged c l).arr (arrId c ((s.core c).slotOf l))).st = .ready := by
  have hid : arrId c ((s.core c).slotOf l) ≠ arrId c (s.core c).spare := fun h => hne (Nat.add_left_cancel h).symm
  unfold State.slotsExchanged
  dsimp only
  rw [if_pos hst, State.arr_storeArr, State.arr_modArr_ne (State.storeArr_safe _ _ _ (State.modArr_safe _ _ _ hS)) _ hid,
    State.arr_storeArr, State.arr_modArr hS]

theorem State.slotsExchanged_mem : (s.slotsExchanged c l).mem = s.mem := by
  unfold State.slotsExchanged
  dsimp only
  split <;> simp only [State.storeArr_mem, State.modArr_mem]

theorem State.core_mapped (hS : s.Safe lf lg cq) :
    (s.mapped c l).core c = (s.core c).substituted l ((s.core c).slotOf l) (s.core c).spare := by
  rw [State.mapped, State.core_modCore (State.slotsExchanged_safe hS), State.core_slotsExchanged]

/-- The substitution leaves its core's slots as the map change made them. -/
theorem State.slots_substitute (hS : s.Safe lf lg cq) : ((s.substitute c l).core c).slots =
    ((s.core c).substituted l ((s.core c).slotOf l) (s.core c).spare).slots := by
  obtain ⟨set, others, h⟩ := s.substitute_eq c l
  have h1 : (s.mapped c l).Safe lf lg cq := State.modCore_safe _ _ _ (State.slotsExchanged_safe hS)
  have h2 := State.storeNow_safe _ corePage h1
  have h3 := State.calReload_safe _ c l h2
  have h4 := State.calSubstitute_safe _ c set h3
  rw [h, State.each_noSpareFor_keeps _ (fun t : State => (t.core c).slots) (fun t r i b => by rw [State.core_flag])
    (fun t e => by rw [State.core_raise]), State.slots_degrade h4, State.slots_calSubstitute h3, State.slots_calReload h2,
    State.core_storeNow, State.core_mapped hS]

theorem State.substitute_arrays : (s.substitute c l).arrays = (s.slotsExchanged c l).arrays := by
  obtain ⟨set, others, h⟩ := s.substitute_eq c l
  rw [h, State.each_noSpareFor_keeps _ State.arrays State.flag_arrays State.raise_arrays, State.degrade_arrays,
    State.calSubstitute_arrays, State.calReload_arrays, State.storeNow_arrays, State.mapped, State.modCore_arrays]

theorem State.substitute_mem : (s.substitute c l).mem = s.mem := by
  obtain ⟨set, others, h⟩ := s.substitute_eq c l
  rw [h, State.each_noSpareFor_keeps _ State.mem State.flag_mem State.raise_mem, State.degrade_mem,
    State.calSubstitute_mem, State.calReload_mem, State.storeNow_mem, State.mapped, State.modCore_mem, State.slotsExchanged_mem]

end

/-! ### Rotation and RELEASE -/

section
variable {lf lg : Nat} {cq : List Instr} {s : State} {c : Nat}

theorem State.startJob_cores (a scope first last version src start : Nat) (rotation : Bool) :
    (s.startJob a scope first last version src start rotation).cores = s.cores := by
  unfold State.startJob
  dsimp only
  split <;> simp only [State.storeArr_cores, State.setArr_cores]

/-- A rotation job changes no core. -/
theorem State.startTile_cores (img : Image) (layer t : Nat) (e : GridEntry) (scope a : Nat) (resume : Bool) :
    (s.startTile img layer t e scope a resume true).cores = s.cores := by
  have hend : (if ((s.arr a).job.map (fun (j : PgmJob) => j.rotation)).getD false then s.endJob a .partial_ else s).cores = s.cores := by
    split
    · simp only [State.endJob, State.storeArr_cores, State.modArr_cores]
    · rfl
  unfold State.startTile
  dsimp only
  rw [if_pos rfl, State.startJob_cores, State.wf__cores, State.wf__cores, State.wr_cores, State.wr_cores, State.wr_cores, State.wr_cores,
    hend]

theorem State.slots_rotate (hS : s.Safe lf lg cq) (l d : Nat) : ((s.rotate c l).core d).slots = (s.core d).slots := by
  unfold State.rotate
  dsimp only
  split
  · split
    · refine (State.slots_modCore (State.startTile_safe _ _ _ _ _ _ _ _ _ hS) ?_ d).trans ?_
      · exact fun _ => rfl
      · rw [State.core, State.startTile_cores, State.core]
    · rfl
  · rfl

theorem State.slots_rotateNext (hS : s.Safe lf lg cq) (d : Nat) : ((s.rotateNext c).core d).slots = (s.core d).slots := by
  unfold State.rotateNext
  dsimp only
  split
  · rfl
  · split
    · refine (State.slots_rotate (State.modCore_safe _ _ _ hS) _ d).trans (State.slots_modCore hS ?_ d)
      exact fun _ => rfl
    · rfl

/-- The core whose retired slot is its spare again (R147). -/
def Core.released (y : Core) (p : Nat) : Core :=
  { y with
    spare := p, noSpare := false, retired := none, suspended := false, spareOut := false, spareSuspect := false,
    spareFaults := 0, rotating := false, replayOn := false }

theorem State.spareRelease_none (h : (s.core c).retired = none) : s.spareRelease c = s.releaseRefuse c := by
  rw [State.spareRelease, h]

theorem State.spareRelease_refused {p : Nat} (h : (s.core c).retired = some p) (hr : (s.arr (arrId c p)).st ≠ .ready)
    (hu : (s.arr (arrId c p)).st ≠ .unprogrammed) : s.spareRelease c = s.releaseRefuse c := by
  rw [State.spareRelease, h]
  exact if_neg (by simp only [hr, hu, decide_false, Bool.or_self, Bool.false_eq_true, not_false_eq_true])

theorem State.spareRelease_some {p : Nat} (h : (s.core c).retired = some p)
    (hst : (s.arr (arrId c p)).st = .ready ∨ (s.arr (arrId c p)).st = .unprogrammed) :
    s.spareRelease c = (((s.modCore c (·.released p)).storeNow corePage).degrade c).rotateNext c := by
  rw [State.spareRelease, h]
  exact if_pos (by simpa only [Bool.or_eq_true, decide_eq_true_eq] using hst)

theorem State.slots_spareRelease (hS : s.Safe lf lg cq) {p : Nat} (h : (s.core c).retired = some p)
    (hst : (s.arr (arrId c p)).st = .ready ∨ (s.arr (arrId c p)).st = .unprogrammed) :
    ((s.spareRelease c).core c).slots = ((s.core c).released p).slots := by
  have h1 : ((s.modCore c (·.released p)).storeNow corePage).Safe lf lg cq := State.storeNow_safe _ _ (State.modCore_safe _ _ _ hS)
  rw [State.spareRelease_some h hst, State.slots_rotateNext (State.degrade_safe _ _ h1), State.slots_degrade h1, State.core_storeNow,
    State.core_modCore hS]

/-! ### The commands -/

section
variable {path : Path}

theorem State.spareCmd_pending (h : (s.core c).spPending ≠ none) :
    s.spareCmd path c true false = s.ignored path (Reg.corSpareCmd.addr c 0) 3 ∧
      s.spareCmd path c false true = s.ignored path (Reg.corSpareCmd.addr c 0) 3 := by
  have hsome : (s.core c).spPending.isSome = true := Option.isSome_iff_ne_none.2 h
  exact ⟨if_pos (by rw [hsome]; rfl), if_pos (by rw [hsome]; rfl)⟩

theorem State.spareCmd_free (h : (s.core c).spPending = none) :
    s.spareCmd path c true false = s.spareCommit c ∧ s.spareCmd path c false true = s.spareRelease c :=
  ⟨if_neg (by rw [h]; decide), if_neg (by rw [h]; decide)⟩

end

theorem State.spareEffect_none (h : (s.core c).spPending = none) : s.spareEffect c = s := by
  rw [State.spareEffect, h]

/-- A COMMIT takes effect at the first boundary where nothing stands against it (R145, R146). -/
theorem State.spareEffect_some {l : Nat} {force : Bool} (h : (s.core c).spPending = some (l, force)) : s.spareEffect c =
    if s.splitHolds c l || (s.core c).inGroup ≠ 0 || s.commitBad c l force ≠ 0 then s else s.substitute c l := by
  rw [State.spareEffect, h]

theorem spareDue_iff (s : State) (c l : Nat) (force : Bool) :
    (s.splitHolds c l = false ∧ (s.core c).inGroup = 0 ∧ s.commitBad c l force = 0) ↔
      ¬ (s.splitHolds c l || (s.core c).inGroup ≠ 0 || s.commitBad c l force ≠ 0) = true := by
  simp only [Bool.or_eq_true, decide_eq_true_eq, not_or, Bool.not_eq_true, ne_eq, Classical.not_not, and_assoc]

end

/-- Settles O30: COMMIT and RELEASE by their causes, and the substitution at the boundary. -/
theorem spareSubstitution : Obligations.SpareSubstitution := by
  unfold Obligations.SpareSubstitution
  intro s path c hS
  have hasked (f : State → State) (h : s.answers path .cor = true) {t : State} (ht : f s = t) :
      (.next (s.asked path .cor f) : Out) = .next t := next_congr ((State.asked_answered h f).trans ht)
  refine ⟨fun h => ⟨next_asked_unanswered h _, next_asked_unanswered h _⟩, fun h hfree => ?_, fun h hpend => ?_, fun h => ?_,
    fun l force hal hpend => ⟨fun hdue => ?_, fun hdue hne _ _ hsorted => ?_⟩⟩
  · obtain ⟨hcommit, hrelease⟩ := State.spareCmd_free (path := path) hfree
    refine ⟨fun hcause => hasked _ h (hcommit.trans (if_pos hcause)), fun hcause => hasked _ h (hcommit.trans (if_neg (not_not_intro hcause))),
      fun hret => hasked _ h (hrelease.trans (State.spareRelease_none hret)), fun p hret hst => ?_,
      fun p hret hr hu => hasked _ h (hrelease.trans (State.spareRelease_refused hret hr hu))⟩
    have hslots := State.slots_spareRelease hS hret hst
    simp only [Core.slots, Core.released, Prod.mk.injEq] at hslots
    obtain ⟨hspare, hno, hretired, hmap, -⟩ := hslots
    exact ⟨_, hasked _ h hrelease, hspare, hno, hretired, hmap⟩
  · obtain ⟨hcommit, hrelease⟩ := State.spareCmd_pending (path := path) hpend
    exact ⟨hasked _ h hcommit, hasked _ h hrelease⟩
  · rcases h with h | h
    · exact next_if_neg h _ _
    · refine next_congr ?_
      rw [State.spareEffect_none h, ite_self]
  · rw [spareDue_iff, Classical.not_not] at hdue
    exact next_congr ((if_pos hal).trans ((State.spareEffect_some hpend).trans (if_pos hdue)))
  · have hsub : s.spareEffect c = s.substitute c l := (State.spareEffect_some hpend).trans (if_neg ((spareDue_iff ..).1 hdue))
    have hslots := State.slots_substitute (c := c) (l := l) hS
    simp only [Core.slots, Core.substituted, Prod.mk.injEq] at hslots
    obtain ⟨-, hno, hretired, hmap, hpending, hquar⟩ := hslots
    have harr (a : Nat) : (s.substitute c l).arr a = (s.slotsExchanged c l).arr a := by rw [State.arr, State.substitute_arrays, State.arr]
    refine ⟨_, next_congr ((if_pos hal).trans hsub), ?_, hno, hretired, hpending, ?_, ?_, fun hst => ?_, State.substitute_mem⟩
    · rw [Core.slotOf, hmap]
      exact NMap.get_set_self _ _ _ hsorted
    · rw [hquar]
      exact testBit_sub_two_pow_self _ _
    · rw [harr]
      exact State.arr_slotsExchanged_spare hS
    · rw [harr]
      exact State.arr_slotsExchanged_old hS hne hst

end Sys2Proof.Machine
end

section
/-! PROOFS. Each verb's command issues the entry that is next (R151, R163 to R174). -/
namespace Sys2Proof.Machine
open Sys2Proof

/-- An entry as its 64 bytes read, zeros where they cannot be read (R151). -/
def State.nextBytes (s : State) (n : Sentence) : List Byte := (s.entryBytes n).getD (List.replicate 64 0)

/-- COR_SCL_MODE at the issue of an entry of a pound (R107, assumption 62). -/
def State.issueMode (s : State) (p : Nat) : Nat := s.rf .corSclMode p 1 0

/-- The entry that issues when nothing rejects it. -/
def State.issuedRun (s : State) (p pos : Nat) (n : Sentence) : EntryRun :=
  let e := s.newRun p n (s.req n.req) (s.nextBytes n) (s.issueMode p)
  { e with on := s.partCores ⟨p, pos, n.next⟩ e }

/-- The entry that issues when it is rejected. -/
def State.rejectedRun (s : State) (p : Nat) (n : Sentence) : EntryRun :=
  { s.newRun p n (s.req n.req) (s.nextBytes n) (s.issueMode p) with probs := [] }

/-- The issue number and the position move on, and the entry joins those in progress (R151). -/
def State.joined (s : State) (p pos : Nat) (n : Sentence) (e : EntryRun) : State :=
  ((s.modCore p (fun x => { x with issueNo := u32 (x.issueNo + 1) })).count p 12 1).modSent p pos
    (fun m => { m with next := m.next + 1, runs := m.runs ++ [e], image := m.image || s.readsImage (s.req n.req) (s.nextBytes n) })

/-- The state with an accepted entry issued, and its request's accounts (R216, R219). -/
def State.accepted (s : State) (p pos : Nat) (n : Sentence) : State :=
  let e := s.issuedRun p pos n
  ((s.joined p pos n e).issued ⟨p, pos, n.next⟩ e).modReq n.req (fun x => { x with
    causes := x.causes ||| (if (s.req n.req).cls = 0 then s.shapeCauses (s.req n.req) e else 0),
    ingestN := x.ingestN + (if e.verb = 6 then (e.probs.map (fun pb => pb.m * pb.k)).sum else 0),
    named := x.named ++
      (if ePlist (s.nextBytes n) then (e.probs.map (fun pb => pb.stream)).eraseDups.filter (fun i => !x.named.contains i) else []) })

/-- Whether the command of verb `v` may issue the next entry (R163, R165). -/
def State.MayIssue (s : State) (p v : Nat) (n : Sentence) : Prop :=
  s.mayIssue p n (eFence (s.nextBytes n) || decide (verbOf (s.entryBytes n) = 0xE)) = true ∧ verbOf (s.entryBytes n) = v

section
variable {s : State} {p pos v : Nat} {start : State → EntryRef → State}

theorem State.issue_none (h : s.sent? p pos = none) : s.issue p pos v start = s := by
  rw [State.issue, h]

variable {n : Sentence} (hn : s.sent? p pos = some n)
include hn

theorem State.issue_not_may (hmay : ¬ s.MayIssue p v n) : s.issue p pos v start = s := by
  rw [State.issue, hn]
  refine if_pos ?_
  refine Decidable.byContradiction fun hno => ?_
  simp only [Bool.or_eq_true, Bool.not_eq_true', decide_eq_true_eq, not_or, Bool.not_eq_false, ne_eq, Classical.not_not] at hno
  exact hmay hno

variable (hmay : s.MayIssue p v n)
include hmay

omit hn in
theorem State.issue_go : ¬ (!s.mayIssue p n (eFence (s.nextBytes n) || decide (verbOf (s.entryBytes n) = 0xE)) ||
    decide (verbOf (s.entryBytes n) ≠ v)) = true := by
  rw [hmay.1, decide_eq_false (not_not_intro hmay.2)]
  decide

/-- An entry that cannot be read ends with READ_ERROR (R165). -/
theorem State.issue_unreadable (hb : s.entryBytes n = none) : s.issue p pos v start =
    ((((s.joined p pos n (s.rejectedRun p n)).ueRead n.host (n.saddr + 64 * n.next) 64).rejected ⟨p, pos, n.next⟩ (s.req n.req) 0x17
      0).endRun ⟨p, pos, n.next⟩ 0x17 0) := by
  rw [State.issue, hn]
  refine (if_neg (State.issue_go hmay)).trans ?_
  unfold State.joined State.rejectedRun State.nextBytes
  simp only [hb, Option.isNone_none, if_true, Option.isSome_some]
  rfl

variable (hb : s.entryBytes n ≠ none)
include hb

/-- A rejected entry ends with its error (R165). -/
theorem State.issue_rejected {st dt : Nat} (hrej : s.rejects p (s.req n.req) (s.nextBytes n) (s.issueMode p) = some (st, dt)) :
    s.issue p pos v start =
      ((if st = 0x17 then (s.joined p pos n (s.rejectedRun p n)).ueRead false (eAddr (s.nextBytes n)) 16
        else s.joined p pos n (s.rejectedRun p n)).rejected ⟨p, pos, n.next⟩ (s.req n.req) st dt).endRun ⟨p, pos, n.next⟩ st dt := by
  have hnone : (s.entryBytes n).isNone = false := Option.isNone_eq_false_iff.2 (Option.isSome_iff_ne_none.2 hb)
  rw [State.issue, hn]
  refine (if_neg (State.issue_go hmay)).trans ?_
  unfold State.joined State.rejectedRun
  simp only [← State.nextBytes.eq_1, ← State.issueMode.eq_1, hrej, hnone, Bool.false_eq_true, if_false, Option.isSome_some, if_true]

/-- An accepted entry whose context exists begins its work, or ends at once when it is empty (R163, R165). -/
theorem State.issue_accepted (hrej : s.rejects p (s.req n.req) (s.nextBytes n) (s.issueMode p) = none) :
    s.issue p pos v start =
      if s.noContext (s.issuedRun p pos n) then
        (if (s.issuedRun p pos n).verb = 4 then (s.accepted p pos n).pendOut ⟨p, pos, n.next⟩ else s.accepted p pos n).endRun
          ⟨p, pos, n.next⟩ 0x26 (eStream (s.nextBytes n))
      else match emptyStatus (s.issuedRun p pos n) with
        | some (st, dt) => (s.accepted p pos n).endRun ⟨p, pos, n.next⟩ st dt
        | none => start (s.accepted p pos n) ⟨p, pos, n.next⟩ := by
  have hnone : (s.entryBytes n).isNone = false := Option.isNone_eq_false_iff.2 (Option.isSome_iff_ne_none.2 hb)
  rw [State.issue, hn]
  refine (if_neg (State.issue_go hmay)).trans ?_
  unfold State.accepted State.joined State.issuedRun
  simp only [← State.nextBytes.eq_1, ← State.issueMode.eq_1, hrej, hnone, Bool.false_eq_true, if_false, Option.isSome_none] <;> rfl

end

/-- The commands of the fifteen verbs, with the verb and the start of its work (R163). -/
def verbCommands (p : CoreId) (pos : PosId) (flt : Option (CoreId × ResFault)) : List (Instr × Nat × (State → EntryRef → State)) :=
  [(.nop p pos, 0x0, fun t r => t.endRun r 0 0), (.matmul p pos, 0x1, State.startPasses), (.dmatmul p pos, 0x2, State.startPasses),
    (.dynmul p pos, 0x3, State.startPasses), (.adapt p ⟨pos, flt⟩, 0x4, State.startAdapt flt),
    (.adaptUpd p ⟨pos, flt⟩, 0x5, State.startUpd flt), (.ingest p pos, 0x6, State.startIngest),
    (.eltwise p pos, 0x7, State.startPasses), (.copyIn p pos, 0x8, State.startCopyIn), (.copyOut p pos, 0x9, State.startCopyOut),
    (.forward p pos, 0xA, State.startForward), (.haloSend p pos, 0xB, State.startHaloSend),
    (.haloWait p pos, 0xC, State.startHaloWait), (.fieldTest p pos, 0xD, State.startField), (.signal p pos, 0xE, State.startSignal)]

theorem exec_verbCommands (s : State) (p : CoreId) (pos : PosId) (flt : Option (CoreId × ResFault)) :
    ∀ x ∈ verbCommands p pos flt, exec x.1 s = .next (s.issue p pos x.2.1 x.2.2) := by
  unfold verbCommands
  iterate 15 refine List.forall_mem_cons.2 ⟨rfl, ?_⟩
  exact fun x hx => absurd hx List.not_mem_nil

/-- Settles O31: every verb's command issues the entry that is next. -/
theorem entriesIssue : Obligations.EntriesIssue := by
  unfold Obligations.EntriesIssue
  intro s p pos flt c v start hmem
  have hexec : exec c s = .next (s.issue p pos v start) := exec_verbCommands s p pos flt _ hmem
  rw [hexec]
  refine ⟨fun h => next_congr (State.issue_none h), fun n hn => ⟨fun hmay => next_congr (State.issue_not_may hn hmay),
    fun hmay hb hrej => ⟨fun hctx hempty => next_congr ?_, fun st dt hctx hempty => next_congr ?_, fun hctx => next_congr ?_⟩,
    fun st dt hmay hb hrej => next_congr (State.issue_rejected hn hmay hb hrej),
    fun hmay hb => next_congr (State.issue_unreadable hn hmay hb)⟩⟩
  · have hnone : emptyStatus (s.issuedRun p pos n) = none := hempty
    refine (State.issue_accepted hn hmay hb hrej).trans ((if_neg (Bool.eq_false_iff.1 hctx)).trans ?_)
    rw [hnone]
    rfl
  · have hsome : emptyStatus (s.issuedRun p pos n) = some (st, dt) := hempty
    refine (State.issue_accepted hn hmay hb hrej).trans ((if_neg (Bool.eq_false_iff.1 hctx)).trans ?_)
    rw [hsome]
    rfl
  · exact (State.issue_accepted hn hmay hb hrej).trans (if_pos hctx)

end Sys2Proof.Machine
end

section
/-! PROOFS. An entry that ends stops its sentence on a failure, and SIGNAL writes SEED (R166, R173, R178). -/
namespace Sys2Proof.Machine
open Sys2Proof

/-! ### Service positions after a change of one -/

section
variable {lf lg : Nat} {cq : List Instr} {s : State} (hS : s.Safe lf lg cq) {p pos : Nat}
  (hsorted : NMap.sorted (s.pound p).service = true) (f : Sentence → Sentence)
include hS hsorted

theorem State.service_modSent_sorted : NMap.sorted ((s.modSent p pos f).pound p).service = true := by
  rw [State.modSent, State.pound_modPound hS]
  exact NMap.sorted_set _ _ _ hsorted

theorem State.sent?_modSent_ne {p' pos' : Nat} (h : ¬ (p' = p ∧ pos' = pos)) : (s.modSent p pos f).sent? p' pos' = s.sent? p' pos' := by
  unfold State.sent?
  by_cases hp : p' = p
  · subst hp
    rw [State.modSent, State.pound_modPound hS]
    exact NMap.get_set_ne _ _ _ (fun hpos => h ⟨rfl, hpos⟩) hsorted
  · rw [State.modSent, State.pound_modPound_ne hS _ hp]

/-- A change of a sentence that keeps its entries keeps every entry in progress. -/
theorem State.run?_modSent_of_runs {n : Sentence} (hn : s.sent? p pos = some n) (hf : (f n).runs = n.runs) (r : EntryRef) :
    (s.modSent p pos f).run? r = s.run? r := by
  by_cases h : r.pound = p ∧ r.pos = pos
  · obtain ⟨hp, hpos⟩ := h
    rw [State.run?, State.run?, hp, hpos, State.sent?_modSent_of_some hn, hn, Option.bind_some, Option.bind_some, hf]
  · rw [State.run?, State.sent?_modSent_ne hS hsorted f h, State.run?]

end

/-- A change of one entry leaves every other one. -/
theorem State.run?_modRun_ne {lf lg : Nat} {cq : List Instr} {s : State} (hS : s.Safe lf lg cq) {r : EntryRef}
    (hsorted : NMap.sorted (s.pound r.pound).service = true) {n : Sentence} (hn : s.sent? r.pound r.pos = some n)
    {f : EntryRun → EntryRun} (hf : ∀ x, (f x).idx = x.idx) {r' : EntryRef} (hne : r' ≠ r) :
    (s.modRun r f).run? r' = s.run? r' := by
  by_cases h : r'.pound = r.pound ∧ r'.pos = r.pos
  · obtain ⟨hp, hpos⟩ := h
    have hidx : r'.idx ≠ r.idx := fun hi => hne (by cases r; cases r'; simp_all only)
    have hcomp : ((fun x : EntryRun => decide (x.idx = r'.idx)) ∘ fun x => if x.idx = r.idx then f x else x) =
        fun x => decide (x.idx = r'.idx) := by
      funext x
      dsimp only [Function.comp_apply]
      split
      · rw [hf]
      · rfl
    rw [State.run?, State.run?, hp, hpos, State.modRun, State.sent?_modSent_of_some hn, hn, Option.bind_some, Option.bind_some]
    dsimp only
    rw [List.find?_map, hcomp]
    cases hx : n.runs.find? (fun x => decide (x.idx = r'.idx)) with
    | none => rfl
    | some x =>
      have hxi := of_decide_eq_true (List.find?_some (p := fun x : EntryRun => decide (x.idx = r'.idx)) hx)
      rw [Option.map_some, if_neg (fun hr => hidx (hxi.symm.trans hr))]
  · rw [State.run?, State.modRun, State.sent?_modSent_ne hS hsorted _ h, State.run?]

/-! ### What the cores hold for an entry -/

/-- No core has a wave of the entry waiting. -/
def State.NoWaves (s : State) (r : EntryRef) : Prop := ∀ c, ∀ w ∈ (s.core c).waiting, w.ref ≠ r

theorem State.dropWork_noWaves (s : State) (r : EntryRef) : (s.dropWork r).NoWaves r := by
  have hall : NMap.sorted (s.dropWork r).cores = true ∧ ∀ c, ∀ w ∈ ((s.dropWork r).cores.get {} c).waiting, w.ref ≠ r := by
    unfold State.dropWork
    have hnil : ∀ c, ∀ w ∈ (NMap.get ({} : Core) [] c).waiting, w.ref ≠ r := fun c w hw => nomatch hw
    refine foldl_keeps (P := fun m : NMap Core => NMap.sorted m = true ∧ ∀ c, ∀ w ∈ (m.get {} c).waiting, w.ref ≠ r) ?_ _ ⟨rfl, hnil⟩
    rintro m e ⟨hm, hw⟩
    refine ⟨NMap.sorted_set _ _ _ hm, fun c => ?_⟩
    by_cases hc : c = e.1
    · subst hc
      rw [NMap.get_set_self _ _ _ hm]
      exact fun w hw => of_decide_eq_true (List.mem_filter.1 hw).2
    · rw [NMap.get_set_ne _ _ _ hc hm]
      exact hw c
  exact hall.2

/-- Marking failed blocks leaves the waves that wait. -/
theorem State.failPend_noWaves {lf lg : Nat} {cq : List Instr} {s : State} (hS : s.Safe lf lg cq) {r : EntryRef} (e : EntryRun)
    (h : s.NoWaves r) : (s.failPend r e).NoWaves r := by
  have hmark (no : Nat) (bs : List Nat) (x : Core) : (bs.foldl (fun (y : Core) b => if (y.side.get {} b).pend then
      { y with side := y.side.set {} b ⟨({ tensor := failMark } : Manifest).seal (y.actBytes (b * blk) blk), false⟩,
               failed := y.failed.set 0 b no } else y) x).waiting = x.waiting := by
    refine foldl_keeps (P := fun y : Core => y.waiting = x.waiting) (fun y b hy => ?_) bs rfl
    split
    · exact hy
    · exact hy
  have hall : (s.failPend r e).Safe lf lg cq ∧ (s.failPend r e).NoWaves r := by
    unfold State.failPend State.each
    refine foldl_keeps (P := fun t : State => t.Safe lf lg cq ∧ t.NoWaves r) ?_ _ ⟨hS, h⟩
    rintro t c ⟨ht, hw⟩
    refine ⟨State.modCore_safe _ _ _ ht, fun d => ?_⟩
    by_cases hd : d = c
    · subst hd
      rw [State.core_modCore ht, hmark]
      exact hw d
    · rw [State.core_modCore_ne ht _ hd]
      exact hw d
  exact hall.2

/-! ### The end of an entry -/

/-- The state whose cores have given an ended entry's work up (R170, R178). -/
def State.workDropped (s : State) (r : EntryRef) (e : EntryRun) : State := (s.dropWork r).failPend r e

theorem State.workDropped_keeps {β : Type} (φ : State → β) (hφ : ∀ t x, φ { t with cores := x } = φ t) (s : State) (r : EntryRef)
    (e : EntryRun) : φ (s.workDropped r e) = φ s :=
  (State.each_keeps φ (fun _ _ => hφ _ _) _ _).trans (hφ _ _)

/-- The state with the entry's work given up and its status taken. -/
def State.runEnded (s : State) (r : EntryRef) (e : EntryRun) (st dt : Nat) : State :=
  (s.workDropped r e).modRun r (fun e => { e with mode := .ended, status := st, detail := dt })

/-- An entry ends: its work is given up, it takes its status, and a failure is noted in its sentence (R178). -/
theorem State.endRun_eq {s : State} {r : EntryRef} {e : EntryRun} (he : s.run? r = some e) (hmode : e.mode ≠ .ended) (st dt : Nat) :
    s.endRun r st dt =
      if 0x10 ≤ st then
        (s.runEnded r e st dt).modSent r.pound r.pos (fun n => { n with failed := n.failed.orElse (fun _ => some r.idx) })
      else s.runEnded r e st dt := by
  rw [State.endRun, he]
  exact if_neg hmode

/-- The end of an entry leaves whatever the cores and pounds do not hold. -/
theorem State.endRun_keeps {β : Type} (φ : State → β) (hcores : ∀ t x, φ { t with cores := x } = φ t)
    (hpounds : ∀ t x, φ { t with pounds := x } = φ t) (s : State) (r : EntryRef) (st dt : Nat) : φ (s.endRun r st dt) = φ s := by
  cases he : s.run? r with
  | none => rw [State.endRun, he]
  | some e =>
    by_cases hmode : e.mode = .ended
    · rw [State.endRun, he]
      exact congrArg φ (if_pos hmode)
    · rw [State.endRun_eq he hmode]
      split
      · exact (hpounds _ _).trans ((hpounds _ _).trans (State.workDropped_keeps φ hcores s r e))
      · exact (hpounds _ _).trans (State.workDropped_keeps φ hcores s r e)

section
variable {lf lg : Nat} {cq : List Instr} {s : State} (hS : s.Safe lf lg cq) {r : EntryRef} {n : Sentence} {e : EntryRun}
  (hsorted : NMap.sorted (s.pound r.pound).service = true) (hn : s.sent? r.pound r.pos = some n) (he : s.run? r = some e) (st dt : Nat)

theorem State.workDropped_pounds (s : State) (r : EntryRef) (e : EntryRun) : (s.workDropped r e).pounds = s.pounds :=
  State.workDropped_keeps State.pounds (fun _ _ => rfl) s r e

include hS in
theorem State.workDropped_safe : (s.workDropped r e).Safe lf lg cq := State.failPend_safe _ _ _ (State.dropWork_safe _ _ hS)

include hS in
theorem State.runEnded_safe : (s.runEnded r e st dt).Safe lf lg cq := State.modRun_safe _ _ _ (State.workDropped_safe hS)

include he in
theorem State.run?_runEnded_self : (s.runEnded r e st dt).run? r = some { e with mode := .ended, status := st, detail := dt } :=
  State.run?_modRun_of_some ((State.run?_congr (State.workDropped_pounds s r e) r).trans he) (fun _ => rfl)

include hn in
theorem State.sent?_workDropped : (s.workDropped r e).sent? r.pound r.pos = some n := by
  rw [State.sent?, State.pound, State.workDropped_pounds]
  exact hn

include hsorted in
theorem State.service_workDropped_sorted : NMap.sorted ((s.workDropped r e).pound r.pound).service = true := by
  rw [State.pound, State.workDropped_pounds]
  exact hsorted

include hn in
theorem State.sent?_runEnded : ∃ m, (s.runEnded r e st dt).sent? r.pound r.pos = some m ∧ m.failed = n.failed ∧ m.next = n.next :=
  ⟨_, State.sent?_modSent_of_some (State.sent?_workDropped hn) _, rfl, rfl⟩

include hS hsorted in
theorem State.service_runEnded_sorted : NMap.sorted ((s.runEnded r e st dt).pound r.pound).service = true :=
  State.service_modSent_sorted (State.workDropped_safe hS) (State.service_workDropped_sorted hsorted) _

include hS hsorted hn in
theorem State.run?_runEnded_ne {r' : EntryRef} (hne : r' ≠ r) : (s.runEnded r e st dt).run? r' = s.run? r' := by
  refine (State.run?_modRun_ne (State.workDropped_safe hS) (State.service_workDropped_sorted hsorted) (State.sent?_workDropped hn) ?_
    hne).trans (State.run?_congr (State.workDropped_pounds s r e) r')
  exact fun _ => rfl

include hS in
theorem State.runEnded_noWaves : (s.runEnded r e st dt).NoWaves r := by
  intro c
  rw [State.runEnded, State.core_modRun]
  exact State.failPend_noWaves (State.dropWork_safe _ _ hS) e (State.dropWork_noWaves s r) c

variable (hmode : e.mode ≠ .ended)

include hS hsorted hn he hmode in
/-- The entries of the device after one has ended (R178). -/
theorem State.run?_endRun (r' : EntryRef) : (s.endRun r st dt).run? r' = (s.runEnded r e st dt).run? r' := by
  rw [State.endRun_eq he hmode]
  split
  · obtain ⟨m, hm, -, -⟩ := State.sent?_runEnded (e := e) hn st dt
    exact State.run?_modSent_of_runs (State.runEnded_safe hS st dt) (State.service_runEnded_sorted hS hsorted st dt) _ hm rfl r'
  · rfl

include hn he hmode in
/-- A failure is noted in the sentence (R178). -/
theorem State.failed_endRun : ((s.endRun r st dt).sent? r.pound r.pos).map (fun m => (m.failed, m.next)) =
    some (if 0x10 ≤ st then n.failed.orElse (fun _ => some r.idx) else n.failed, n.next) := by
  obtain ⟨m, hm, hfailed, hnext⟩ := State.sent?_runEnded (e := e) hn st dt
  rw [State.endRun_eq he hmode]
  split
  · rw [State.sent?_modSent_of_some hm, Option.map_some, ← hfailed, ← hnext]
  · rw [hm, Option.map_some, hfailed, hnext]

include hS he hmode in
theorem State.endRun_noWaves : (s.endRun r st dt).NoWaves r := by
  intro c
  rw [State.endRun_eq he hmode]
  split
  · rw [State.core_modSent]
    exact State.runEnded_noWaves hS st dt c
  · exact State.runEnded_noWaves hS st dt c

end

@[simp] theorem State.endRun_mem (s : State) (r : EntryRef) (st dt : Nat) : (s.endRun r st dt).mem = s.mem :=
  State.endRun_keeps State.mem (fun _ _ => rfl) (fun _ _ => rfl) s r st dt

@[simp] theorem State.endRun_regs (s : State) (r : EntryRef) (st dt : Nat) : (s.endRun r st dt).regs = s.regs :=
  State.endRun_keeps State.regs (fun _ _ => rfl) (fun _ _ => rfl) s r st dt

/-! ### SIGNAL -/

theorem length_leBytes (n v : Nat) : (leBytes n v).length = n := by
  induction n generalizing v with
  | zero => rfl
  | succ n ih => rw [leBytes, List.length_cons, ih]

/-- Byte `i` of a number, lowest first. -/
theorem getD_leBytes {i n : Nat} (hi : i < n) (v : Nat) : (leBytes n v).getD i 0 = BitVec.ofNat 8 (v / 256 ^ i) := by
  induction n generalizing i v with
  | zero => exact absurd hi (Nat.not_lt_zero i)
  | succ n ih =>
    cases i with
    | zero => rw [leBytes, List.getD_cons_zero, Nat.pow_zero, Nat.div_one]
    | succ i => rw [leBytes, List.getD_cons_succ, ih (Nat.lt_of_succ_lt_succ hi), Nat.div_div_eq_div_mul, Nat.pow_succ']

theorem State.msixSend_keeps {β : Type} (φ : State → β) (hports : ∀ t x, φ { t with ports := x } = φ t)
    (hsend : ∀ t m, φ (State.send t m) = φ t) (s : State) (v : Nat) : φ (s.msixSend v) = φ s := by
  unfold State.msixSend
  split
  · rfl
  · split
    · exact hports _ _
    · exact hsend _ _

section
variable {s : State} {r : EntryRef} {e : EntryRun} (he : s.run? r = some e)
include he

theorem State.startSignal_noDma (hhost : eHost e.raw = true) (hdma : s.dmaUp = false) : s.startSignal r = s.endRun r 0x17 3 := by
  rw [State.startSignal, he]
  exact if_pos (by rw [hhost, hdma]; rfl)

theorem State.startSignal_outside (hhost : eHost e.raw = false) (hin : s.inBlocks (eAddr e.raw) 8 = false) :
    s.startSignal r = s.endRun r 0x17 4 := by
  rw [State.startSignal, he]
  exact (if_neg (by rw [hhost, Bool.false_and]; decide)).trans (if_pos (by rw [hhost, hin]; rfl))

/-- SIGNAL writes SEED in device memory, with its vector where it names one, and ends OK (R173). -/
theorem State.startSignal_inside (hhost : eHost e.raw = false) (hin : s.inBlocks (eAddr e.raw) 8 = true) :
    s.startSignal r =
      (if bit (eParam e.raw) 15 then ((s.worked r).putMem (eAddr e.raw) (leBytes 8 e.seed)).msixSend (fld (eParam e.raw) 10 0)
        else (s.worked r).putMem (eAddr e.raw) (leBytes 8 e.seed)).endRun r 0 0 := by
  rw [State.startSignal, he]
  refine (if_neg (by rw [hhost, Bool.false_and]; decide)).trans ((if_neg (by rw [hin, Bool.not_true, Bool.and_false]; decide)).trans ?_)
  dsimp only
  rw [if_neg (Bool.eq_false_iff.1 hhost)]

/-- What SIGNAL to device memory leaves: whatever the cores, pounds, ports and sent words do not hold, but for memory. -/
theorem State.startSignal_keeps {β : Type} (φ : State → β) (hcores : ∀ t x, φ { t with cores := x } = φ t)
    (hpounds : ∀ t x, φ { t with pounds := x } = φ t) (hports : ∀ t x, φ { t with ports := x } = φ t)
    (hsend : ∀ t m, φ (State.send t m) = φ t) (hhost : eHost e.raw = false) (hin : s.inBlocks (eAddr e.raw) 8 = true) :
    φ (s.startSignal r) = φ ((s.worked r).putMem (eAddr e.raw) (leBytes 8 e.seed)) := by
  rw [State.startSignal_inside he hhost hin, State.endRun_keeps φ hcores hpounds]
  split
  · exact State.msixSend_keeps φ hports hsend _ _
  · rfl

end

/-- Settles O32: the end of an entry, then SIGNAL. -/
theorem entryEnds : Obligations.EntryEnds := by
  unfold Obligations.EntryEnds
  constructor
  · intro s r n e st dt hS hsorted hn he hmode
    have hruns := State.run?_endRun hS hsorted hn he st dt hmode
    exact ⟨(hruns r).trans (State.run?_runEnded_self he st dt),
      fun r' hne => (hruns r').trans (State.run?_runEnded_ne hS hsorted hn st dt hne), State.failed_endRun hn he st dt hmode,
      State.endRun_noWaves hS he st dt hmode, State.endRun_arrays .., State.endRun_regs .., State.endRun_mem ..⟩
  · intro s r e hS he
    refine ⟨fun hhost hin => ?_, State.startSignal_noDma he, State.startSignal_outside he⟩
    have hmem : (s.startSignal r).mem = storeBytes s.mem (eAddr e.raw) (leBytes 8 e.seed) :=
      State.startSignal_keeps he State.mem (fun _ _ => rfl) (fun _ _ => rfl) (fun _ _ => rfl) (fun _ _ => rfl) hhost hin
    have hlen := length_leBytes 8 e.seed
    refine ⟨fun i hi => ?_, fun b hb => ?_,
      State.startSignal_keeps he State.host (fun _ _ => rfl) (fun _ _ => rfl) (fun _ _ => rfl) (fun _ _ => rfl) hhost hin,
      State.startSignal_keeps he State.arrays (fun _ _ => rfl) (fun _ _ => rfl) (fun _ _ => rfl) (fun _ _ => rfl) hhost hin⟩
    · rw [hmem, get_storeBytes_inside (NMap.sorted_of_wf hS.mem) _ (by omega), getD_leBytes hi]
    · rw [hmem, get_storeBytes_outside (NMap.sorted_of_wf hS.mem) _ (by omega)]

end Sys2Proof.Machine
end

section
/-! PROOFS. Adapter fetches, write-backs and decay, and rows that wait for an adapter (R248, R249, R292). -/
namespace Sys2Proof.NMap

/-- A table rebuilt with each value changed holds, at each listed key, the value changed. -/
theorem get_foldl_set_map {α : Type} [DecidableEq α] (d : α) (f : α → α) {m : NMap α} (hs : sorted m = true) {acc : NMap α}
    (hacc : sorted acc = true) (i : Nat) :
    get d (m.foldl (fun t e => set d t e.1 (f e.2)) acc) i = (find? m i).elim (get d acc i) f := by
  induction m generalizing acc with
  | nil => rfl
  | cons e m ih =>
    obtain ⟨k, v⟩ := e
    obtain ⟨ha, hs'⟩ := sorted_cons.1 hs
    rw [List.foldl_cons, ih hs' (sorted_set d k (f v) hacc), find?]
    by_cases hi : i = k
    · subst hi
      rw [find?_above ha, if_pos rfl, Option.elim_none, Option.elim_some, get_set_self _ _ _ hacc]
    · rw [if_neg hi, get_set_ne _ _ _ hi hacc]
      split
      next hlt => rw [find?_above (above_trans hlt ha)]
      next => rfl

/-- A table rebuilt from nothing, by a change that keeps what an unlisted key reads as. -/
theorem get_map_values {α : Type} [DecidableEq α] {d : α} {f : α → α} (hd : f d = d) {m : NMap α} (hs : sorted m = true) (i : Nat) :
    get d (m.foldl (fun t e => set d t e.1 (f e.2)) []) i = f (get d m i) := by
  rw [get_foldl_set_map d f hs rfl]
  show (find? m i).elim d f = f ((find? m i).getD d)
  cases find? m i with
  | none => exact hd.symm
  | some v => rfl

end Sys2Proof.NMap

namespace Sys2Proof.Machine
open Sys2Proof

/-! ### A row that waits for its adapter -/

section
variable {s : State} {r : EntryRef} {c row : Nat}

theorem State.adapterResume_gone (h : s.run? r = none) : s.adapterResume r c row = s := by
  rw [State.adapterResume, h]

variable {e : EntryRun} (he : s.run? r = some e)
include he

theorem State.adapterResume_goes {h : HeldRow} (hh : e.held.find? (fun h => decide (h.core = c) && decide (h.row = row) && h.ranged) = some h)
    (hmode : e.mode = .running) (hverb : e.verb ≠ 6) : s.adapterResume r c row = s.chainRow r h := by
  rw [State.adapterResume, he]
  dsimp only
  rw [hh]
  exact if_pos (by rw [decide_eq_true hmode, decide_eq_true hverb]; rfl)

theorem State.adapterResume_stays (h : e.held.find? (fun h => decide (h.core = c) && decide (h.row = row) && h.ranged) = none ∨
    e.mode ≠ .running ∨ e.verb = 6) : s.adapterResume r c row = s := by
  rw [State.adapterResume, he]
  dsimp only
  split
  next x hx =>
    refine if_neg ?_
    simp only [Bool.and_eq_true, decide_eq_true_eq]
    rintro ⟨hmode, hverb⟩
    rcases h with h | h | h
    · exact Option.some_ne_none _ (hx.symm.trans h)
    · exact h hmode
    · exact hverb h
  next => rfl

end

/-! ### Fetches -/

/-- The state with a fetch of a context given up (R248). -/
def State.fetchDropped (s : State) (ctx : Nat) : State :=
  { s with net := { s.net with want := s.net.want.filter (·.1 ≠ ctx), tags := s.net.tags.filter (fun t => t.write || t.ctx ≠ ctx) } }

section
variable {s : State} {ctx : Nat}

/-- A fetch that runs into its limit is given up, and the slot it had is free for the next one (R248). -/
theorem State.fetchOut_eq (s : State) (ctx : Nat) : s.fetchOut ctx =
    match List.find? (fun (x : Nat × AdpSlot) => x.2.fetching && decide (x.2.ctx = ctx)) s.adps with
    | some x => (((s.fetchDropped ctx).setAdp x.1 {}).fetchNext).fetchFail ctx 1
    | none => if s.net.want.any (·.1 = ctx) then (s.fetchDropped ctx).fetchFail ctx 1 else s := by
  unfold State.fetchOut
  dsimp only
  cases List.find? (fun (x : Nat × AdpSlot) => x.2.fetching && decide (x.2.ctx = ctx)) s.adps with
  | some x => rfl
  | none =>
    simp only [Option.map_none, Option.isNone_none, Bool.true_and, Bool.not_eq_true']
    cases s.net.want.any (·.1 = ctx) <;> rfl

end

/-! ### Messages of the adapter store -/

section
variable {s : State} {peer : Nat}

theorem State.adpData_none (h : s.nextMsg peer 0x22 = none) : s.adpData peer = s := by
  rw [State.adpData, h]

theorem State.adpAck_none (h : s.nextMsg peer 0x24 = none) : s.adpAck peer = s := by
  rw [State.adpAck, h]

section
variable {ch : Nat} {m : InMsg} (hm : s.nextMsg peer 0x22 = some (ch, m))
include hm

/-- An ADP_DATA that no fetch waits for is taken and dropped. -/
theorem State.adpData_dropped (h : s.net.tags.find? (fun t => decide (t.tag = leAt m.payload 0 4) && !t.write) = none) :
    s.adpData peer = s.tookMsg peer ch := by
  rw [State.adpData, hm]
  dsimp only
  rw [h]

/-- The state with what a fetch brought in its slot: whether it is whole (R248). -/
def State.adpFilled (s : State) (peer ch : Nat) (m : InMsg) (t : AdpTag) : Bool × State :=
  (s.tookMsg peer ch).wireIn ((s.tookMsg peer ch).adpAddr t.slot) 16 (m.payload.drop 8)

/-- An ADP_DATA that is whole fills the slot that was fetched for (R248). -/
theorem State.adpData_fetched {t : AdpTag} (h : s.net.tags.find? (fun t => decide (t.tag = leAt m.payload 0 4) && !t.write) = some t) :
    let w := s.adpFilled peer ch m t
    let s3 : State := { w.2 with net := { w.2.net with tags := w.2.net.tags.filter (fun u => u.tag ≠ leAt m.payload 0 4) } }
    s.adpData peer = if leAt m.payload 4 1 ≠ 0 then s.tookMsg peer ch else if w.1 = false then w.2
      else ((s3.setAdp t.slot { s3.adp t.slot with fetching := false }).modCtx t.ctx
        (fun x => { x with adapter := 2 ^ 31 + t.slot })).adaptResume t.ctx := by
  rw [State.adpData, hm]
  dsimp only
  rw [h]
  dsimp only
  rw [← State.adpFilled]
  generalize s.adpFilled peer ch m t = w
  obtain ⟨_ | _, u⟩ := w
  · rfl
  · rfl

end

section
variable {ch : Nat} {m : InMsg} (hm : s.nextMsg peer 0x24 = some (ch, m))
include hm

theorem State.adpAck_dropped (h : s.net.tags.find? (fun t => decide (t.tag = leAt m.payload 0 4) && t.write) = none) :
    s.adpAck peer = s.tookMsg peer ch := by
  rw [State.adpAck, hm]
  dsimp only
  rw [h]

/-- An acknowledged write-back frees its slot, and is counted where it evicted; one that failed is kept (R249). -/
theorem State.adpAck_stored {t : AdpTag} (h : s.net.tags.find? (fun t => decide (t.tag = leAt m.payload 0 4) && t.write) = some t) :
    let s1 := s.tookMsg peer ch
    let s2 : State := { s1 with net := { s1.net with tags := s1.net.tags.filter (fun u => u.tag ≠ leAt m.payload 0 4) } }
    s.adpAck peer = if leAt m.payload 4 1 ≠ 0 then s1.writeBackFailed (leAt m.payload 0 4)
      else (if t.retire then s2.adpRelease t.slot
        else ((s2.adpRelease t.slot).bump .imgAdpEvictCount 0 1).count ctrIo 5 1).fetchNext := by
  rw [State.adpAck, hm]
  dsimp only
  rw [h]

end

end

/-! ### Decay -/

section
variable {s : State}

theorem State.adpDecay_off (h : s.rf .imgAdpTime 0 7 0 = 0) : s.adpDecay = s := if_pos h

theorem State.adpDecay_on (h : s.rf .imgAdpTime 0 7 0 ≠ 0) : s.adpDecay =
    { s with adps := s.adps.foldl (fun m e => m.set {} e.1 { e.2 with useCount := e.2.useCount / 2 }) [] } := if_neg h

theorem State.adp_adpDecay {lf lg : Nat} {cq : List Instr} (hS : s.Safe lf lg cq) (h : s.rf .imgAdpTime 0 7 0 ≠ 0) (i : Nat) :
    s.adpDecay.adp i = { s.adp i with useCount := (s.adp i).useCount / 2 } := by
  rw [State.adpDecay_on h]
  exact NMap.get_map_values (f := fun x : AdpSlot => { x with useCount := x.useCount / 2 }) rfl (NMap.sorted_of_wf hS.canon.adps) i

end

/-- Settles O34: rows that resume, then fetches, write-backs and decay. -/
theorem adapterTraffic : Obligations.AdapterTraffic := by
  unfold Obligations.AdapterTraffic
  constructor
  · intro s c p pos idx row r
    refine ⟨fun h => ?_, fun e hal he => ⟨fun h hh hmode hverb => next_congr ((if_pos hal).trans (State.adapterResume_goes he hh hmode hverb)),
      fun h => next_congr ((if_pos hal).trans (State.adapterResume_stays he h))⟩⟩
    rcases h with h | h
    · exact next_if_neg h _ _
    · refine next_congr ?_
      rw [State.adapterResume_gone h, ite_self]
  · intro s peer ctx hS
    refine ⟨fun hal => ?_, fun hal => ?_⟩
    · simp only [List.forall_mem_cons, List.not_mem_nil, false_imp_iff, implies_true, and_true]
      exact ⟨next_if_neg hal _ _, next_if_neg hal _ _, next_if_neg hal _ _, next_if_neg hal _ _⟩
    have hfetch : exec (.adpFetchTimeout ctx) s = .next (s.fetchOut ctx) := next_congr (if_pos hal)
    have hdata : exec (.adpData peer) s = .next (s.adpData peer) := next_congr (if_pos hal)
    have hack : exec (.adpWriteAck peer) s = .next (s.adpAck peer).adpSettle := next_congr (if_pos hal)
    have hdecay : exec .adpUseDecay s = .next s.adpDecay := next_congr (if_pos hal)
    rw [hfetch, hdata, hack, hdecay, State.fetchOut_eq]
    refine ⟨fun hslot hwant => next_congr ?_, fun hslot hwant => next_congr ?_, fun x hslot => next_congr ?_,
      fun h => next_congr (State.adpData_none h), fun ch m hm => ⟨fun h => next_congr (State.adpData_dropped hm h),
        fun t h => next_congr (State.adpData_fetched hm h)⟩,
      fun h => next_congr (congrArg State.adpSettle (State.adpAck_none h)),
      fun ch m hm => ⟨fun h => next_congr (congrArg State.adpSettle (State.adpAck_dropped hm h)), fun t h => next_congr ?_⟩,
      fun h => ⟨_, rfl, State.adp_adpDecay hS h, ?_, ?_, ?_⟩, fun h => next_congr (State.adpDecay_off h)⟩
    · rw [hslot]
      exact if_neg (Bool.eq_false_iff.1 hwant)
    · rw [hslot]
      exact if_pos hwant
    · rw [hslot]
      rfl
    · rw [State.adpAck_stored hm h]
      exact apply_ite State.adpSettle _ _ _
    · rw [State.adpDecay_on h]
    · rw [State.adpDecay_on h]
    · rw [State.adpDecay_on h]

end Sys2Proof.Machine
end

section
/-! PROOFS. An entry that has ended leaves its sentence with its record (R178, R179, R195, R202, R207). -/
namespace Sys2Proof.Machine
open Sys2Proof

/-- Whether an entry is the last to leave its sentence: the failing one, or the last of all (R178, R179). -/
def Sentence.isLast (n : Sentence) (idx : Nat) : Bool :=
  decide (n.failed = some idx) || (decide (n.runs.length = 1) && decide (n.next = n.nent) && n.failed.isNone && n.aborting.isNone)

/-- Whether an entry stays in its sentence: it runs, or waits for the others or for its record's place (R195, R202). -/
def State.Held (s : State) (n : Sentence) (e : EntryRun) (idx : Nat) : Prop :=
  e.mode ≠ .ended ∨ (n.failed = some idx ∧ 1 < n.runs.length) ∨ (e.writes n.nent (n.isLast idx) = true ∧ s.recordWaits n = true)

/-- The state with an entry's lanes closed on a failure, its update stored and counted (R195, R345). -/
def State.leaves (s : State) (r : EntryRef) (e : EntryRun) : State :=
  let s0 := if 0x10 ≤ e.status then s.closeLanes r else s
  (if e.verb = 5 then s0.updStore e else s0).count r.pound 14 (b2n (decide (0x20 ≤ e.status)))

/-- The state with an entry's record and sample written, and the entry out of its sentence (R178, R427). -/
def State.recorded (s : State) (p pos idx : Nat) (n : Sentence) (e : EntryRun) (record last : Bool) : State :=
  let s2 := if record then s.writeCpl n.req (s.cplOf p n e last) else s
  (if e.smp then s2.sampleWrite p (s2.sampleOf p n e) else s2).modSent p pos
    (fun n => { n with runs := n.runs.filter (fun x => x.idx ≠ idx) })

section
variable {s : State} {p pos idx : Nat}

theorem State.entryComplete_none (h : s.sent? p pos = none) : s.entryComplete p pos idx = s := by
  rw [State.entryComplete, h]

variable {n : Sentence} (hal : s.alive = true) (hn : s.sent? p pos = some n)
include hal hn

section
variable (hno : n.runs.find? (fun e => e.idx = idx) = none)
include hno

theorem State.entryComplete_aborts {detail : Nat} (hab : n.aborting = some detail) (hruns : n.runs = []) (hfailed : n.failed = none)
    (hidx : idx = n.next) (hwait : s.recordWaits n = false) : s.entryComplete p pos idx = s.abortEnd p pos n detail := by
  rw [State.entryComplete, hn]
  dsimp only
  rw [if_neg (by rw [hal]; decide), hno]
  dsimp only
  rw [hab]
  exact if_pos (by rw [hruns, hfailed, hwait, decide_eq_true hidx]; rfl)

theorem State.entryComplete_waits (h : n.aborting = none ∨ n.runs ≠ [] ∨ n.failed ≠ none ∨ idx ≠ n.next ∨ s.recordWaits n = true) :
    s.entryComplete p pos idx = s := by
  rw [State.entryComplete, hn]
  dsimp only
  rw [if_neg (by rw [hal]; decide), hno]
  dsimp only
  split
  next detail hab =>
    refine if_neg ?_
    simp only [Bool.and_eq_true, List.isEmpty_iff, Option.isNone_iff_eq_none, decide_eq_true_eq, Bool.not_eq_true']
    rintro ⟨⟨⟨hruns, hfailed⟩, hidx⟩, hwait⟩
    rcases h with h | h | h | h | h
    · exact Option.some_ne_none _ (hab.symm.trans h)
    · exact h hruns
    · exact h hfailed
    · exact h hidx
    · exact Bool.eq_false_iff.1 hwait h
  next => rfl

end

variable {e : EntryRun} (he : n.runs.find? (fun e => e.idx = idx) = some e)
include he

omit hal hn he in
theorem State.held_iff (s : State) (n : Sentence) (e : EntryRun) (idx : Nat) : s.Held n e idx ↔
    (e.mode ≠ .ended || (n.failed = some idx && 1 < n.runs.length) || (e.writes n.nent (n.isLast idx) && s.recordWaits n)) = true := by
  simp only [State.Held, Bool.or_eq_true, Bool.and_eq_true, decide_eq_true_eq, or_assoc]

theorem State.entryComplete_held (h : s.Held n e idx) : s.entryComplete p pos idx = s := by
  rw [State.entryComplete, hn]
  dsimp only
  rw [if_neg (by rw [hal]; decide), he]
  exact if_pos ((State.held_iff ..).1 h)

theorem State.entryComplete_leaves (h : ¬ s.Held n e idx) : s.entryComplete p pos idx =
    let t := (s.leaves ⟨p, pos, idx⟩ e).recorded p pos idx n e (e.writes n.nent (n.isLast idx)) (n.isLast idx)
    if n.isLast idx then t.sentenceEnd p pos n (decide (n.failed ≠ some idx)) (some e) else t.idleSettle := by
  rw [State.entryComplete, hn]
  dsimp only
  rw [if_neg (by rw [hal]; decide), he]
  refine (if_neg (fun hc => h ((State.held_iff ..).2 hc))).trans ?_
  rw [decide_not]
  rfl

end

/-- Settles O35: the branches of ENTRY_COMPLETE. -/
theorem entryCompletes : Obligations.EntryCompletes := by
  unfold Obligations.EntryCompletes
  intro s p pos idx
  refine ⟨fun h => next_congr ?_, fun n hal hn => ⟨fun hno => ⟨fun detail hab hruns hfailed hidx hwait =>
      next_congr (State.entryComplete_aborts hal hn hno hab hruns hfailed hidx hwait),
    fun h => next_congr (State.entryComplete_waits hal hn hno h)⟩, fun e he => ?_⟩⟩
  · rcases h with h | h
    · exact State.entryComplete_not_alive h ..
    · exact State.entryComplete_none h
  · have hidx : e.idx = idx := of_decide_eq_true (List.find?_some (p := fun e : EntryRun => decide (e.idx = idx)) he)
    subst hidx
    exact ⟨fun h => next_congr (State.entryComplete_held hal hn he h), fun h => next_congr (State.entryComplete_leaves hal hn he h)⟩

end Sys2Proof.Machine
end

section
/-! PROOFS. Doorbells, and completion records in their ring (R178, R179, R202, R221). -/
namespace Sys2Proof.Machine
open Sys2Proof

/-! ### The tail doorbell -/

theorem State.wakeUp_keeps {β : Type} (φ : State → β) (hpwr : ∀ t n, φ (State.setPwr t n) = φ t)
    (hwf : ∀ t r i hi lo v, φ (State.wf_ t r i hi lo v) = φ t) (hset : ∀ t x, φ { t with pwr := x } = φ t) (s : State) :
    φ s.wakeUp = φ s := by
  unfold State.wakeUp
  split
  · exact (hset _ _).trans ((hwf ..).trans (hpwr _ _))
  · rfl

section
variable {lf lg : Nat} {cq : List Instr} {s : State} {q : Nat} {p : Path} {v : Nat}

theorem State.sqTailWrite_reserved (h : 65536 ≤ v) : s.sqTailWrite p q v = s.ignored p (Reg.queDbSqTail.addr q 0) 2 := if_pos h

theorem State.cqHeadWrite_reserved (h : 65536 ≤ v) : s.cqHeadWrite p q v = s.ignored p (Reg.queDbCqHead.addr q 0) 2 := if_pos h

theorem State.sqTailWrite_refused (hv : v < 65536)
    (h : (s.queue q).st ≠ .enabled ∨ (s.queue q).sqSize ≤ v ∨ (s.queue q).remote.isSome = true) :
    s.sqTailWrite p q v = s.ignored p (Reg.queDbSqTail.addr q 0) 4 :=
  (if_neg (Nat.not_le.2 hv)).trans (if_pos (by simpa only [Bool.or_eq_true, decide_eq_true_eq, or_assoc] using h))

theorem State.cqHeadWrite_refused (hv : v < 65536) (h : (s.queue q).st ≠ .enabled ∨ (s.queue q).cqSize ≤ v) :
    s.cqHeadWrite p q v = s.ignored p (Reg.queDbCqHead.addr q 0) 4 :=
  (if_neg (Nat.not_le.2 hv)).trans (if_pos (by simpa only [Bool.or_eq_true, decide_eq_true_eq] using h))

/-- The submissions that a tail doorbell makes visible (R202). -/
def Queue.newSubmissions (x : Queue) (v : Nat) : Nat := (v + x.sqSize - x.sqTail) % x.sqSize

theorem State.sqTailWrite_rings (hv : v < 65536) (hst : (s.queue q).st = .enabled) (hsize : v < (s.queue q).sqSize)
    (hremote : (s.queue q).remote = none) : s.sqTailWrite p q v =
    ((s.modQueue q (fun x => { x with sqTail := v, rung := true })).newBatch q ((s.queue q).newSubmissions v)).wakeUp :=
  (if_neg (Nat.not_le.2 hv)).trans (if_neg (by
    simp only [hst, hremote, Nat.not_le.2 hsize, ne_eq, not_true, decide_false, Option.isSome_none, Bool.or_self, Bool.false_eq_true,
      not_false_eq_true]))

theorem State.cqHeadWrite_frees (hv : v < 65536) (hst : (s.queue q).st = .enabled) (hsize : v < (s.queue q).cqSize) :
    s.cqHeadWrite p q v = (s.modQueue q (fun x => { x with cqHead := v })).cqFlush q (s.queue q).records :=
  (if_neg (Nat.not_le.2 hv)).trans (if_neg (by
    simp only [hst, Nat.not_le.2 hsize, ne_eq, not_true, decide_false, Bool.or_self, Bool.false_eq_true, not_false_eq_true]))

theorem State.queue_wakeUp (i : Nat) : s.wakeUp.queue i = s.queue i :=
  State.wakeUp_keeps (fun t => t.queue i) (fun t n => t.queue_setPwr n i) (fun t r j hi lo v => t.queue_wf_ r j hi lo v i)
    (fun _ _ => rfl) s

theorem State.wakeUp_mem : s.wakeUp.mem = s.mem := State.wakeUp_keeps State.mem State.setPwr_mem State.wf__mem (fun _ _ => rfl) s

theorem State.wakeUp_host : s.wakeUp.host = s.host := State.wakeUp_keeps State.host State.setPwr_host State.wf__host (fun _ _ => rfl) s

theorem State.queue_newBatch (hS : s.Safe lf lg cq) (n : Nat) : (s.newBatch q n).queue q =
    { s.queue q with batches := (s.queue q).batches ++ (if n = 0 then [] else [(s.nextBatch, n)]) } := by
  unfold State.newBatch
  split
  · rw [List.append_nil]
  · have hmod := State.queue_modQueue hS q (fun x => { x with batches := x.batches ++ [(s.nextBatch, n)] })
    exact hmod

theorem State.queue_newBatch_ne (hS : s.Safe lf lg cq) (n : Nat) {i : Nat} (hi : i ≠ q) : (s.newBatch q n).queue i = s.queue i := by
  unfold State.newBatch
  split
  · rfl
  · have hmod := State.queue_modQueue_ne hS (fun x => { x with batches := x.batches ++ [(s.nextBatch, n)] }) hi
    exact hmod

theorem State.newBatch_mem (n : Nat) : (s.newBatch q n).mem = s.mem := by
  unfold State.newBatch
  split <;> rfl

theorem State.newBatch_host (n : Nat) : (s.newBatch q n).host = s.host := by
  unfold State.newBatch
  split <;> rfl

end

/-! ### Records in their ring -/

section
variable {lf lg : Nat} {cq : List Instr} {s : State} {q : Nat}

/-- With no record held, none is written. -/
theorem State.cqFlush_none (h : (s.queue q).held = []) (n : Nat) : s.cqFlush q n = s := by
  cases n with
  | zero => rfl
  | succ n => rw [State.cqFlush, h]

/-- The bytes of a completion record (R179). -/
theorem length_cplBytes (x : Cpl) (now : Nat) : (x.bytes now).length = 64 := by
  simp only [Cpl.bytes, List.length_append, length_leBytes]

/-- The state with a record at the tail of its ring, the tail moved on, and its vector sent (R178, R202). -/
def State.cqPut (s : State) (q : Nat) (r : List Byte) : State :=
  let x := s.queue q
  let s1 := ((s.putMem (x.cqBase + 64 * x.cqTail) r).modQueue q
    (fun x => { x.popHeld with cqTail := (x.cqTail + 1) % x.cqSize })).count ctrIo 1 1
  if x.intr && bit (leAt r 25 1) 7 then s1.msixSend x.vector else s1

/-- One record that fits is written (R178, R202). -/
theorem State.cqFlush_one {r : List Byte} (hheld : (s.queue q).held = [r]) (hfull : (s.queue q).cqFull = false)
    (hhost : (s.queue q).cqHost = false) (hcause : s.ringCause false (s.queue q) = 0) : s.cqFlush q 1 = s.cqPut q r := by
  rw [State.cqFlush, hheld]
  dsimp only
  rw [if_neg (Bool.eq_false_iff.1 hfull), if_neg (not_not_intro hcause), if_neg (Bool.eq_false_iff.1 hhost)]
  rfl

/-- A record put leaves whatever the ports, the sent words and its ring do not hold. -/
theorem State.cqPut_keeps {β : Type} (φ : State → β) (hports : ∀ t x, φ { t with ports := x } = φ t)
    (hsend : ∀ t m, φ (State.send t m) = φ t) (r : List Byte) : φ (s.cqPut q r) =
      φ (((s.putMem ((s.queue q).cqBase + 64 * (s.queue q).cqTail) r).modQueue q (fun x =>
        { x.popHeld with cqTail := ((s.queue q).cqTail + 1) % (s.queue q).cqSize })).count ctrIo 1 1) := by
  unfold State.cqPut
  dsimp only
  split
  · exact State.msixSend_keeps φ hports hsend _ _
  · rfl

theorem State.cqPut_mem (r : List Byte) : (s.cqPut q r).mem = storeBytes s.mem ((s.queue q).cqBase + 64 * (s.queue q).cqTail) r :=
  State.cqPut_keeps State.mem (fun _ _ => rfl) (fun _ _ => rfl) r

variable (hS : s.Safe lf lg cq)
include hS

theorem State.queue_cqPut (r : List Byte) : (s.cqPut q r).queue q =
    { (s.queue q).popHeld with cqTail := ((s.queue q).cqTail + 1) % (s.queue q).cqSize } := by
  rw [State.cqPut_keeps (fun t => t.queue q) (fun _ _ => rfl) (fun _ _ => rfl), State.queue_count,
    State.queue_modQueue (State.putMem_safe _ _ _ hS), State.queue_putMem]

theorem State.queue_cqPut_ne (r : List Byte) {i : Nat} (hi : i ≠ q) : (s.cqPut q r).queue i = s.queue i := by
  rw [State.cqPut_keeps (fun t => t.queue i) (fun _ _ => rfl) (fun _ _ => rfl), State.queue_count,
    State.queue_modQueue_ne (State.putMem_safe _ _ _ hS) _ hi, State.queue_putMem]

omit hS in
/-- A queue with no record held holds the new one. -/
theorem Queue.hold_empty {x : Queue} (h : x.held = []) (r : List Byte) : x.hold r = { x with held := [r] } := by
  unfold Queue.hold Queue.holdsIssue
  rw [h]
  rfl

/-- A record of an enabled queue with nothing held and room in its ring goes to the ring at once (R178, R202). -/
theorem State.putCpl_fits {batch : Nat} {c : Cpl} (hrets : s.net.rets.find? (fun t => t.1 = batch) = none)
    (hst : (s.queue c.queue).st = .enabled) (hheld : (s.queue c.queue).held = []) (howed : (s.queue c.queue).owed = [])
    (hfull : (s.queue c.queue).cqFull = false) (hhost : (s.queue c.queue).cqHost = false)
    (hcause : s.ringCause false (s.queue c.queue) = 0) :
    s.putCpl batch c = (s.modQueue c.queue (fun x => x.hold (c.bytes s.time))).cqPut c.queue (c.bytes s.time) := by
  have hq : (s.modQueue c.queue (fun x => x.hold (c.bytes s.time))).queue c.queue = { s.queue c.queue with held := [c.bytes s.time] } := by
    rw [State.queue_modQueue hS, Queue.hold_empty hheld]
  rw [State.putCpl]
  refine (if_neg (by rw [hst]; decide)).trans ?_
  dsimp only
  rw [hrets]
  dsimp only
  rw [Queue.records, hheld, howed]
  exact State.cqFlush_one (by rw [hq]) (by rw [hq]; exact hfull) (by rw [hq]; exact hhost) (by rw [hq]; exact hcause)

end

/-- Settles O37: the two doorbells, then a record in its ring. -/
theorem doorbells : Obligations.Doorbells := by
  unfold Obligations.Doorbells
  constructor
  · intro s path q v hS
    have hasked (f : State → State) (h : s.answers path .db = true) {t : State} (ht : f s = t) :
        (.next (s.asked path .db f) : Out) = .next t := next_congr ((State.asked_answered h f).trans ht)
    refine ⟨fun h => ⟨next_asked_unanswered h _, next_asked_unanswered h _⟩,
      fun h hv => ⟨hasked _ h (State.sqTailWrite_reserved hv), hasked _ h (State.cqHeadWrite_reserved hv)⟩,
      fun h hv => ⟨fun hbad => hasked _ h (State.sqTailWrite_refused hv hbad), fun hst hsize hremote => ?_,
        fun hbad => hasked _ h (State.cqHeadWrite_refused hv hbad), fun hst hsize => ?_⟩⟩
    · have hmod : (s.modQueue q (fun x => { x with sqTail := v.toNat, rung := true })).Safe 0 0 s.pending := State.modQueue_safe _ _ _ hS
      have hq : (((s.modQueue q (fun x => { x with sqTail := v.toNat, rung := true })).newBatch q
          ((s.queue q).newSubmissions v.toNat)).wakeUp).queue q =
          { s.queue q with sqTail := v.toNat, rung := true, batches := (s.queue q).batches ++
            (if (s.queue q).newSubmissions v.toNat = 0 then [] else [(s.nextBatch, (s.queue q).newSubmissions v.toNat)]) } := by
        rw [State.queue_wakeUp, State.queue_newBatch hmod, State.queue_modQueue hS]
        rfl
      refine ⟨_, hasked _ h (State.sqTailWrite_rings hv hst hsize hremote), ?_, ?_, ?_, ?_, fun i hi => ?_, ?_, ?_⟩
      · rw [hq]
      · rw [hq]
      · rw [hq]
      · rw [hq]
        rfl
      · rw [State.queue_wakeUp, State.queue_newBatch_ne hmod _ hi, State.queue_modQueue_ne hS _ hi]
      · rw [State.wakeUp_mem, State.newBatch_mem, State.modQueue_mem]
      · rw [State.wakeUp_host, State.newBatch_host, State.modQueue_host]
    · have hfree := hasked (fun t => t.cqHeadWrite path q v.toNat) h (State.cqHeadWrite_frees hv hst hsize)
      refine ⟨hfree, fun hheld => ⟨_, hfree, ?_, ?_⟩⟩
      · rw [State.cqFlush_none (by rw [State.queue_modQueue hS]; exact hheld), State.queue_modQueue hS]
      · rw [State.cqFlush_none (by rw [State.queue_modQueue hS]; exact hheld), State.modQueue_mem]
  · intro s batch c hS hrets x hst hheld howed hfull hhost hcause t
    have ht : t = (s.modQueue c.queue (fun x => x.hold (c.bytes s.time))).cqPut c.queue (c.bytes s.time) :=
      State.putCpl_fits hS hrets hst hheld howed hfull hhost hcause
    have hmod : (s.modQueue c.queue (fun x => x.hold (c.bytes s.time))).Safe 0 0 s.pending := State.modQueue_safe _ _ _ hS
    have hq : (s.modQueue c.queue (fun x => x.hold (c.bytes s.time))).queue c.queue = { x with held := [c.bytes s.time] } := by
      rw [State.queue_modQueue hS, Queue.hold_empty hheld]
    have hmem : t.mem = storeBytes s.mem (x.cqBase + 64 * x.cqTail) (c.bytes s.time) := by
      rw [ht, State.cqPut_mem, hq, State.modQueue_mem]
    have hlen := length_cplBytes c s.time
    have hsorted := NMap.sorted_of_wf hS.mem
    refine ⟨fun i hi => ?_, fun b hb => ?_, ?_, ?_, fun i hi => ?_⟩
    · rw [hmem]
      exact get_storeBytes_inside hsorted _ (by omega)
    · rw [hmem]
      exact get_storeBytes_outside hsorted _ (by omega)
    · rw [ht, State.queue_cqPut hmod, hq]
      rfl
    · rw [ht, State.queue_cqPut hmod, hq]
      show [] ++ x.owed.take 1 = []
      rw [show x.owed = [] from howed]
      rfl
    · rw [ht, State.queue_cqPut_ne hmod _ hi, State.queue_modQueue_ne hS _ hi]

end Sys2Proof.Machine
end

section
/-! PROOFS. What the transport leaves alone: sending a message, a packet or a frame changes the network, the sent words and the
counters, and nothing else of the state (R360 to R371). -/
namespace Sys2Proof.Machine
open Sys2Proof

/-- A part of the state that the network, the sent words and counters are not in. -/
structure Wired {β : Type} (φ : State → β) : Prop where
  net : ∀ t x, φ { t with net := x } = φ t
  tx : ∀ t x, φ { t with tx := x } = φ t
  ctrs : ∀ t x, φ { t with ctrs := x } = φ t
  wins : ∀ t x, φ { t with wins := x } = φ t

/-- One that registers and events are not in either. -/
structure Quiet {β : Type} (φ : State → β) : Prop extends Wired φ where
  wr : ∀ t r i k v, φ (State.wr t r i k v) = φ t
  raise : ∀ t e, φ (State.raise t e) = φ t

theorem quiet_queues : Quiet State.queues :=
  ⟨⟨fun _ _ => rfl, fun _ _ => rfl, fun _ _ => rfl, fun _ _ => rfl⟩, State.wr_queues, State.raise_queues⟩

namespace Quiet
variable {β : Type} {φ : State → β} (h : Quiet φ) (s : State)
include h

theorem flag (r : Reg) (i b : Nat) : φ (s.flag r i b) = φ s := h.wr ..

theorem bump (r : Reg) (i n : Nat) : φ (s.bump r i n) = φ s := h.wr ..

end Quiet

namespace Wired
variable {β : Type} {φ : State → β} (h : Wired φ) (s : State)
include h

theorem send (m : Tx) : φ (s.send m) = φ s := h.tx _ _

theorem count (b k n : Nat) : φ (s.count b k n) = φ s := h.ctrs _ _

theorem modPeer (i : Nat) (f : Peer → Peer) : φ (s.modPeer i f) = φ s := h.net _ _

theorem modChan (i ch : Nat) (f : Chan → Chan) : φ (s.modChan i ch f) = φ s := h.modPeer s i _

theorem winCount (ch n : Nat) : φ (s.winCount ch n) = φ s := by
  unfold State.winCount
  split
  · exact h.wins _ _
  · rfl

theorem txFrame (port : Nat) (bytes : List Byte) : φ (s.txFrame port bytes) = φ s := by
  rw [State.txFrame, h.winCount, h.count, h.count, h.send]

theorem askHop (port : Nat) (hop : List Byte) : φ (s.askHop port hop) = φ s := by
  unfold State.askHop
  dsimp only
  split
  · exact h.txFrame ..
  · exact h.txFrame ..

theorem ipSend (port : Nat) (hop : List Byte) (v4 : Bool) (bytes : List Byte) : φ (s.ipSend port hop v4 bytes) = φ s := by
  unfold State.ipSend
  split
  · exact h.txFrame ..
  · exact (h.askHop ..).trans (h.net _ _)

theorem sirinOut (i ch : Nat) (bytes : List Byte) : φ (s.sirinOut i ch bytes) = φ s := h.ipSend ..

theorem sirinCtl (i ch typ : Nat) : φ (s.sirinCtl i ch typ) = φ s := (h.sirinOut ..).trans (h.modChan ..)

theorem sirinData (i ch : Nat) (p : Pkt) (retx : Bool) : φ (s.sirinData i ch p retx) = φ s := (h.sirinOut ..).trans (h.modChan ..)

theorem openBegin (i : Nat) : φ (s.openBegin i) = φ s := (h.sirinCtl ..).trans (h.modPeer ..)

theorem pump (i ch : Nat) : φ (s.pump i ch) = φ s := by
  unfold State.pump
  dsimp only
  split
  · rfl
  · exact (State.each_keeps φ (fun t p => h.sirinData t i ch p false) _ _).trans (h.modChan ..)

theorem srnSend (i ch typ : Nat) (pay : List Byte) : φ (s.srnSend i ch typ pay).2 = φ s := by
  unfold State.srnSend
  dsimp only
  split
  · rfl
  · split
    · exact (h.openBegin ..).trans ((h.count ..).trans (h.modChan ..))
    · exact (h.pump ..).trans ((h.count ..).trans (h.modChan ..))

end Wired

end Sys2Proof.Machine
end

section
/-! PROOFS. Removing a queue's requests leaves the queue draining (R206, R207). -/
namespace Sys2Proof.Machine
open Sys2Proof

/-! ### What a request that leaves does not touch -/

/-- A part of the state that requests, contexts, the group, models, adapters, cores and device memory are not in. -/
structure Unserved {β : Type} (φ : State → β) : Prop extends Quiet φ where
  reqs : ∀ t x, φ { t with reqs := x } = φ t
  nextReq : ∀ t x, φ { t with nextReq := x } = φ t
  ctxs : ∀ t x, φ { t with ctxs := x } = φ t
  tal : ∀ t x, φ { t with tal := x } = φ t
  models : ∀ t x, φ { t with models := x } = φ t
  adps : ∀ t x, φ { t with adps := x } = φ t
  cores : ∀ t x, φ { t with cores := x } = φ t
  pounds : ∀ t x, φ { t with pounds := x } = φ t
  expBroken : ∀ t x, φ { t with expBroken := x } = φ t
  free : ∀ t x, φ { t with free := x } = φ t
  mem : ∀ t a bs, φ (State.putMem t a bs) = φ t

theorem unserved_queues : Unserved State.queues where
  toQuiet := quiet_queues
  reqs _ _ := rfl
  nextReq _ _ := rfl
  ctxs _ _ := rfl
  tal _ _ := rfl
  models _ _ := rfl
  adps _ _ := rfl
  cores _ _ := rfl
  pounds _ _ := rfl
  expBroken _ _ := rfl
  free _ _ := rfl
  mem _ _ _ := rfl

namespace Unserved
variable {β : Type} {φ : State → β} (h : Unserved φ) (s : State)
include h

theorem modReq (i : Nat) (f : Request → Request) : φ (s.modReq i f) = φ s := h.reqs _ _

theorem putDev (a : Nat) (bs : List Byte) : φ (s.putDev a bs) = φ s := by
  unfold State.putDev
  split
  · exact h.mem ..
  · rfl

theorem modCtx (i : Nat) (f : Ctx → Ctx) : φ (s.modCtx i f) = φ s := (h.putDev ..).trans (h.ctxs _ _)

theorem modTal (f : Tal → Tal) : φ (s.modTal f) = φ s := h.tal _ _

theorem modPound (i : Nat) (f : Pound → Pound) : φ (s.modPound i f) = φ s := h.pounds _ _

theorem modRun (r : EntryRef) (f : EntryRun → EntryRun) : φ (s.modRun r f) = φ s := h.pounds _ _

theorem endRun (r : EntryRef) (st dt : Nat) : φ (s.endRun r st dt) = φ s := State.endRun_keeps φ h.cores h.pounds s r st dt

theorem fresh : φ s.fresh.2 = φ s := h.free _ _

theorem enter (p : Nat) (e : BasinEntry) : φ (s.enter p e) = φ s := h.modPound ..

theorem putBlock (a : Nat) (d : List Byte) (m : Manifest) : φ (s.putBlock a d m) = φ s := (h.mem ..).trans (h.mem ..)

theorem putAct (c b : Nat) (d : List Byte) (m : Manifest) : φ (s.putAct c b d m) = φ s := (h.count ..).trans (h.cores _ _)

theorem talDone (g v : Nat) (cs : List Nat) : φ (s.talDone g v cs) = φ s := by
  unfold State.talDone
  split
  · rfl
  · exact (h.modTal ..).trans (State.each_keeps φ (fun t c => by rw [State.talFold, h.modTal]) s cs)

theorem copyBlocks (src dst n : Nat) : φ (s.copyBlocks src dst n) = φ s := by
  refine State.each_keeps φ (fun t i => ?_) s _
  split
  · exact h.putBlock ..
  · rfl

theorem ueRead (host : Bool) (a n : Nat) : φ (s.ueRead host a n) = φ s := by
  unfold State.ueRead
  split
  · exact (h.raise ..).trans (h.bump ..)
  · rfl

theorem reportBad (a cause : Nat) : φ (s.reportBad a cause) = φ s := by
  unfold State.reportBad
  split
  · exact h.ueRead ..
  · exact h.raise ..

theorem suspectMem (a : Nat) : φ (s.suspectMem a) = φ s := State.each_keeps φ (fun _ _ => h.raise ..) s _

theorem checkpoint (c : Nat) : φ (s.checkpoint c) = φ s := by
  have hput (t : State) (a : Nat) (d : List Byte) (m : Manifest) : φ (if t.inBlocks a blk then t.putBlock a d m else t) = φ t := by
    split
    · exact h.putBlock ..
    · rfl
  have hslot (o : Option Nat) (f : Nat → Nat) (dst n : Nat) :
      φ (match o with | some i => s.copyBlocks (f i) dst n | none => s) = φ s := by
    cases o with
    | none => rfl
    | some i => exact h.copyBlocks ..
  unfold State.checkpoint
  dsimp only
  split
  · rfl
  · split
    · rfl
    · split
      · exact (h.suspectMem ..).trans (h.reportBad ..)
      · exact (h.modCtx ..).trans ((hput ..).trans ((h.copyBlocks ..).trans (hslot ..)))

theorem advanceCtx (v i : Nat) : φ (s.advanceCtx v i) = φ s := by
  unfold State.advanceCtx
  dsimp only
  split
  · exact (h.checkpoint ..).trans (h.modCtx ..)
  · exact h.modCtx ..

theorem expressEnd (p : Nat) (q : Request) : φ (s.expressEnd p q) = φ s := by
  unfold State.expressEnd
  dsimp only
  split
  · rfl
  · split
    · rfl
    · split
      · exact (h.count ..).trans (h.bump ..)
      · exact (h.raise ..).trans ((h.flag ..).trans ((h.expBroken _ _).trans ((h.count ..).trans (h.bump ..))))

theorem dropReq (r : Nat) : φ (s.dropReq r) = φ s := by
  unfold State.dropReq
  dsimp only
  split
  · exact (h.modCtx ..).trans (h.reqs _ _)
  · exact h.reqs _ _

theorem chainBroken (m peer off : Nat) : φ (s.chainBroken m peer off) = φ s := by
  unfold State.chainBroken
  split
  · rfl
  · exact (h.raise ..).trans ((h.flag ..).trans (h.models _ _))

theorem writeBackFailed (tag : Nat) : φ (s.writeBackFailed tag) = φ s := by
  unfold State.writeBackFailed
  split
  · exact (h.raise ..).trans ((h.flag ..).trans ((h.adps _ _).trans (h.net _ _)))
  · rfl

theorem msgFailed (i : Nat) (m : OutMsg) : φ (s.msgFailed i m) = φ s := by
  unfold State.msgFailed
  split
  · exact h.raise ..
  · split
    · exact h.chainBroken ..
    · split
      · exact h.writeBackFailed ..
      · rfl

theorem admitReq (p : Nat) (r : Request) (fwd : Bool) : φ (s.admitReq p r fwd) = φ s := by
  unfold State.admitReq
  dsimp only
  split
  · exact (h.enter ..).trans ((h.modCtx ..).trans ((h.reqs _ _).trans (h.nextReq _ _)))
  · exact (h.enter ..).trans ((h.reqs _ _).trans (h.nextReq _ _))

end Unserved

/-! ### What it leaves of a queue: its state, and what its draining ends in -/

/-- Every queue has the state given, and ends its draining as given. -/
def State.ModesAre (s : State) (v : Nat → QSt × Bool) : Prop :=
  NMap.sorted s.queues = true ∧ ∀ i, ((s.queue i).st, (s.queue i).destroying) = v i

section
variable {s t : State} {v : Nat → QSt × Bool}

theorem State.ModesAre.congr (h : s.ModesAre v) (e : t.queues = s.queues) : t.ModesAre v := by
  unfold State.ModesAre State.queue
  rw [e]
  exact h

theorem State.ModesAre.modQueue (h : s.ModesAre v) (q : Nat) {f : Queue → Queue}
    (hf : ∀ x, (f x).st = x.st ∧ (f x).destroying = x.destroying) : (s.modQueue q f).ModesAre v := by
  refine ⟨NMap.sorted_set _ _ _ h.1, fun i => ?_⟩
  by_cases hi : i = q
  · subst hi
    have hq : (s.modQueue i f).queue i = f (s.queue i) := NMap.get_set_self _ _ _ h.1
    rw [hq, (hf _).1, (hf _).2, h.2]
  · have hq : (s.modQueue q f).queue i = s.queue i := NMap.get_set_ne _ _ _ hi h.1
    rw [hq, h.2]

theorem State.ModesAre.each {α : Type} {f : State → α → State} (hf : ∀ t x, t.ModesAre v → (f t x).ModesAre v) (xs : List α)
    (h : s.ModesAre v) : (s.each xs f).ModesAre v := foldl_keeps (P := fun t : State => t.ModesAre v) hf xs h

theorem State.ModesAre.stallQueue (h : s.ModesAre v) (q cause : Nat) : (s.stallQueue q cause).ModesAre v := by
  unfold State.stallQueue
  split
  · exact h
  · have hmod : (s.modQueue q (fun x => { x with stall := cause })).ModesAre v := h.modQueue q fun _ => ⟨rfl, rfl⟩
    exact hmod.congr ((quiet_queues.raise ..).trans (quiet_queues.flag ..))

theorem State.ModesAre.msixSend (h : s.ModesAre v) (n : Nat) : (s.msixSend n).ModesAre v :=
  h.congr (State.msixSend_keeps State.queues (fun _ _ => rfl) (fun _ _ => rfl) s n)

theorem State.ModesAre.cqFlush (h : s.ModesAre v) (q n : Nat) : (s.cqFlush q n).ModesAre v := by
  have hput (host : Bool) (a : Nat) (r : List Byte) (tail : Nat) (t : State) (ht : t.ModesAre v) :
      (((if host then t.putHost a r else t.putMem a r).modQueue q (fun x => { x.popHeld with cqTail := tail })).count ctrIo 1 1).ModesAre v := by
    have hmem : (if host then t.putHost a r else t.putMem a r).ModesAre v := by
      split
      · exact ht.congr rfl
      · exact ht.congr rfl
    have hmod := hmem.modQueue q (f := fun x => { x.popHeld with cqTail := tail }) fun _ => ⟨rfl, rfl⟩
    exact hmod.congr (quiet_queues.count ..)
  induction n generalizing s with
  | zero => exact h
  | succ n ih =>
    rw [State.cqFlush]
    dsimp only
    split
    · exact h
    · split
      · exact h
      · split
        · exact h.stallQueue ..
        · refine ih ?_
          split
          · exact (hput _ _ _ _ _ h).msixSend _
          · exact hput _ _ _ _ _ h

theorem Queue.hold_modes (x : Queue) (r : List Byte) : (x.hold r).st = x.st ∧ (x.hold r).destroying = x.destroying := by
  unfold Queue.hold
  split
  · exact ⟨rfl, rfl⟩
  · exact ⟨rfl, rfl⟩

theorem State.ModesAre.putCpl (h : s.ModesAre v) (batch : Nat) (c : Cpl) : (s.putCpl batch c).ModesAre v := by
  have hflush := (h.modQueue c.queue fun x => Queue.hold_modes x (c.bytes s.time)).cqFlush c.queue (s.queue c.queue).records
  unfold State.putCpl
  dsimp only
  split
  · exact h
  · split
    · split
      · exact hflush.congr (quiet_queues.srnSend ..)
      · exact hflush
    · exact hflush

theorem State.ModesAre.reqRecord (h : s.ModesAre v) (r st dt : Nat) : (s.reqRecord r st dt).ModesAre v :=
  ((h.congr (unserved_queues.fresh s)).congr (unserved_queues.fresh _)).putCpl _ _

theorem State.ModesAre.answerSub (h : s.ModesAre v) (q batch st dt sv stream : Nat) : (s.answerSub q batch st dt sv stream).ModesAre v :=
  ((h.congr (unserved_queues.fresh s)).congr (unserved_queues.fresh _)).putCpl _ _

theorem State.ModesAre.markAborted (h : s.ModesAre v) (r : Nat) : (s.markAborted r).ModesAre v := by
  unfold State.markAborted
  split
  · exact h
  · have hreq := h.congr (unserved_queues.modReq s r (fun q => { q with aborted := true }))
    exact hreq.modQueue _ fun _ => ⟨rfl, rfl⟩

theorem State.ModesAre.forwardShut (h : s.ModesAre v) (r : EntryRef) (i : Nat) : (s.forwardShut r i).ModesAre v := by
  refine State.ModesAre.congr ?_ (unserved_queues.endRun ..)
  split
  · exact h
  · exact (h.markAborted i).reqRecord ..

theorem State.ModesAre.forwardIn (h : s.ModesAre v) (r : EntryRef) : (s.forwardIn r).ModesAre v := by
  unfold State.forwardIn
  split
  · dsimp only
    split
    · exact h.forwardShut ..
    · split
      · exact h
      · split
        · exact h.congr ((unserved_queues.endRun ..).trans ((unserved_queues.modReq ..).trans (unserved_queues.enter ..)))
        · exact h.congr (unserved_queues.modRun ..)
  · exact h

theorem State.ModesAre.forwardNext (h : s.ModesAre v) : s.forwardNext.ModesAre v :=
  State.ModesAre.each (fun _ _ ht => ht.forwardIn _) _ h

theorem State.ModesAre.templated (h : s.ModesAre v) (q : Nat) (d : List Byte) : (s.templated q d).2.ModesAre v := by
  unfold State.templated
  split
  · exact h.answerSub ..
  · dsimp only
    generalize (if bit (leAt d 12 1) 3 then leAt d 13 1 else 0) = n
    generalize (if n = 0 then some [] else s.readDev (leAt d 16 8) (16 * n)) = route
    cases route with
    | none => exact (h.congr (unserved_queues.ueRead ..)).answerSub ..
    | some rs =>
      dsimp only
      split
      · exact h.answerSub ..
      · split
        · exact h.answerSub ..
        · exact h

/-- What a FORWARD_REQ that is acted on leaves has the states given. -/
def OkModes (v : Nat → QSt × Bool) (x : Except FwdNo State) : Prop := ∀ u, x = .ok u → u.ModesAre v

theorem OkModes.error (e : FwdNo) : OkModes v (.error e) := fun _ h => nomatch h

theorem OkModes.ok (h : s.ModesAre v) : OkModes v (.ok s) := fun _ hu => by
  cases hu
  exact h

theorem OkModes.ite {c : Prop} [Decidable c] {x y : Except FwdNo State} (hx : OkModes v x) (hy : OkModes v y) :
    OkModes v (if c then x else y) := by
  split
  · exact hx
  · exact hy

theorem State.ModesAre.forwardReq (h : s.ModesAre v) (peer : Option Nat) (m : List Byte) : OkModes v (s.forwardReq peer m) := by
  have hact (cs : List Nat) (f : Nat → Nat) (bs : List ((List Byte × Manifest) × Nat)) :
      (s.each cs (fun t c => t.each bs (fun u ((b, k), j) => u.putAct c (f j) b k))).ModesAre v :=
    h.congr (State.each_keeps State.queues (fun t c => State.each_keeps State.queues (fun u _ => unserved_queues.putAct u ..) t bs) s cs)
  have hgroup (t : State) (ht : t.ModesAre v) (group : Bool) (f : Tal → Tal) : (if group then t.modTal f else t).ModesAre v := by
    split
    · exact ht.congr (unserved_queues.modTal ..)
    · exact ht
  unfold State.forwardReq
  refine .ite (.error _) (.ite (.ok h) ?_)
  split
  · exact .error _
  · refine .ite (.error _) (.ite (.error _) (.ite (.error _) (.ite (.error _) (.ite (.error _) (.ite (.ok h) ?_)))))
    have hgot (a : State) (q : Nat) (d : List Byte) (ha : a.ModesAre v) (o : Option Request) (b : State) (e : a.templated q d = (o, b)) :
        b.ModesAre v := by
      have ht := ha.templated q d
      rwa [e] at ht
    dsimp only
    generalize e : State.templated _ _ _ = x
    have hb := hgot _ _ _ (hgroup _ (hact _ _ _) _ _) _ _ e
    obtain ⟨_ | r, t⟩ := x
    · refine .ok ?_
      split
      · exact hb.congr (unserved_queues.talDone ..)
      · exact hb
    · exact .ok (hb.congr (unserved_queues.admitReq ..))

theorem State.ModesAre.ownNext (h : s.ModesAre v) (n : Nat) : (s.ownNext n).ModesAre v := by
  induction n generalizing s with
  | zero => exact h
  | succ n ih =>
    rw [State.ownNext]
    split
    · exact h
    · rename_i m ms hown
      have hnet : ({ s with net := { s.net with own := ms } } : State).ModesAre v := h.congr rfl
      dsimp only
      split
      · exact h
      · exact ih hnet
      · rename_i t ht
        exact ih (hnet.forwardReq none m t ht)

theorem State.ModesAre.egress (h : s.ModesAre v) (p : Nat) (q : Request) (e : EntryRun) : (s.egress p q e).ModesAre v := by
  have hput (t : State) (peer ch : Nat) (m : List Byte) : (if (t.srnSend peer ch 0x12 m).1 then (t.srnSend peer ch 0x12 m).2
      else (t.srnSend peer ch 0x12 m).2.msgFailed peer ⟨0x12, m.take 40, 0, 0⟩).queues = t.queues := by
    have hsend := quiet_queues.srnSend t peer ch 0x12 m
    split
    · exact hsend
    · exact (unserved_queues.msgFailed ..).trans hsend
  unfold State.egress
  split
  · exact h
  · dsimp only
    split
    · refine State.ModesAre.ownNext (h.congr ?_) _
      exact State.each_keeps State.queues (fun t m => hput t _ _ _) s _
    · exact h.congr (hput s _ _ _)

theorem State.ModesAre.requestEnd (h : s.ModesAre v) (p r : Nat) (ok : Bool) (e : Option EntryRun) :
    (s.requestEnd p r ok e).ModesAre v := by
  have hctx (n : Nat) (cs : List Nat) : (s.each cs (fun t i => t.advanceCtx n i)).ModesAre v :=
    h.congr (State.each_keeps State.queues (fun t i => unserved_queues.advanceCtx t n i) s cs)
  have htal (t : State) (ht : t.ModesAre v) (q : Request) (cs : List Nat) :
      (match q.group with | some g => t.talDone g (q.version.getD 0) cs | none => t).ModesAre v := by
    cases q.group with
    | none => exact ht
    | some g => exact ht.congr (unserved_queues.talDone ..)
  have hexp (t : State) (ht : t.ModesAre v) (q : Request) : (t.expressEnd p q).ModesAre v := ht.congr (unserved_queues.expressEnd ..)
  have hegress (t : State) (ht : t.ModesAre v) (q : Request) (ok : Bool) :
      (match e with | some e => if ok then t.egress p q e else t | none => t).ModesAre v := by
    cases e with
    | none => exact ht
    | some e =>
      dsimp only
      split
      · exact ht.egress ..
      · exact ht
  exact (hegress _ (hexp _ (htal _ (hctx _ _) _ _) _) _ _).congr (unserved_queues.dropReq ..)

theorem State.ModesAre.abortWaiting (h : s.ModesAre v) (who : Nat → Bool) (detail : Nat) : (s.abortWaiting who detail).ModesAre v := by
  have hbasin (f : State → Nat → Pound → Pound) (ps : List Nat) : (s.each ps (fun t p => t.modPound p (f t p))).ModesAre v :=
    State.ModesAre.each (fun t p ht => ht.congr (unserved_queues.modPound ..)) ps h
  have hmark (t : State) (ht : t.ModesAre v) (rs : List Nat) :
      (t.each rs (fun t r => (t.markAborted r).reqRecord r 0x29 detail)).ModesAre v :=
    State.ModesAre.each (fun t r ht => (ht.markAborted r).reqRecord ..) rs ht
  have hend (t : State) (ht : t.ModesAre v) (rs : List Nat) (f : Nat → Nat) :
      (t.each rs (fun t r => if t.inSystem r then t else t.requestEnd (f r) r false none)).ModesAre v := by
    refine State.ModesAre.each (fun t r ht => ?_) rs ht
    split
    · exact ht
    · exact ht.requestEnd ..
  exact (hend _ (hmark _ (hbasin _ _) _) _ _).forwardNext

theorem State.ModesAre.abortService (h : s.ModesAre v) (who : Nat → Bool) (detail : Nat) : (s.abortService who detail).ModesAre v :=
  (State.ModesAre.each (fun _ _ ht => ht.congr (unserved_queues.modPound ..)) _ h).forwardNext

end

end Sys2Proof.Machine
end

section
/-! PROOFS. Queue commands and the reading of submissions (R202 to R207, R213). -/
namespace Sys2Proof.Machine
open Sys2Proof

section
variable {s : State}

/-! ### Queue commands -/

theorem State.rd_queResult {lf lg : Nat} {cq : List Instr} (hS : s.Safe lf lg cq) (q : QId) (done : Bool) :
    (s.queResult q 0 done).rd .queCmdStatus = q.val + 2 ^ 31 * b2n done := by
  have hq : q.val < 2 ^ 15 := q.isLt
  have hb : b2n done ≤ 1 := b2n_le done
  rw [State.queResult, State.rd_wr hS, Nat.mod_eq_of_lt]
  · omega
  · omega

theorem State.queWhenUp_up (q : Nat) (f : State → State) (h : s.up = true) : s.queWhenUp q f = f s := if_pos h

theorem State.queWhenUp_down (q : Nat) (f : State → State) (h : s.up = false) : s.queWhenUp q f = s.queResult q 3 true :=
  if_neg (ne_true_of_eq_false h)

theorem State.queCreate_refused (q : Nat) (h : (s.queue q).st ≠ .disabled) : s.queCreate q = s.queResult q 3 true := by
  refine if_pos ?_
  simp [h]

/-- A queue that may be created. -/
theorem State.queCreate_read (q : Nat) (hup : s.up = true) (hst : (s.queue q).st = .disabled) : s.queCreate q =
    match s.readDev (s.rdPair .queTableLo .queTableHi + 64 * q) 64 with
    | none => (s.ueRead false (s.rdPair .queTableLo .queTableHi + 64 * q) 64).queResult q 4 true
    | some d =>
      if !descOk d then s.queResult q 1 true else
      match if (queueOf d).cls = 0 then s.budget (queueOf d) else none with
      | some (p, sum, _) =>
        ((s.queResult q 2 true).flag .queEvent 0 2).raise (evQueue 0x1202 1 q (q + 65536 * p + 2 ^ 24 * sum))
      | none => (s.setQueue q (queueOf d)).queResult q 0 true := by
  refine (if_neg ?_).trans rfl
  simp [hup, hst]

theorem State.queDrain_refused (q : Nat) (destroy : Bool) (h : (s.queue q).st ≠ .enabled) :
    s.queDrain q destroy = s.queResult q 3 true := if_pos h

/-- An enabled queue as its RESET or DESTROY begins. -/
def State.queDrainBegun (s : State) (q : Nat) (destroy : Bool) : State := s.modQueue q (fun x => { x with
  st := .draining, destroying := destroy, aborted := 0, batches := [], sqHead := x.sqTail })

/-- The state each queue has once the RESET or DESTROY of queue `q` has begun. -/
def State.modesDrained (s : State) (q : Nat) (destroy : Bool) (i : Nat) : QSt × Bool :=
  (((s.queDrainBegun q destroy).queue i).st, ((s.queDrainBegun q destroy).queue i).destroying)

theorem State.queDrain_enabled (hS : s.Inv) (q : QId) (destroy : Bool) (h : (s.queue q).st = .enabled) :
    ∃ t, s.queDrain q destroy = t ∧ (t.queue q).st = .draining ∧ (t.queue q).destroying = destroy ∧ t.rd .queCmdStatus = q.val := by
  let t0 := s.queDrainBegun q destroy
  let mine (r : Nat) : Bool := (t0.req r).live && (t0.req r).queue = q.val
  have ht0 : t0.queue q = { s.queue q with
      st := .draining, destroying := destroy, aborted := 0, batches := [], sqHead := (s.queue q).sqTail } := State.queue_modQueue hS _ _
  have hS0 : t0.Safe _ _ _ := State.modQueue_safe s _ _ hS
  have hm0 : t0.ModesAre (s.modesDrained q destroy) := ⟨NMap.sorted_of_wf hS0.canon.queues, fun _ => rfl⟩
  have hm : ((t0.abortWaiting mine 0).abortService mine 0).ModesAre (s.modesDrained q destroy) :=
    (hm0.abortWaiting mine 0).abortService mine 0
  have hS2 : ((t0.abortWaiting mine 0).abortService mine 0).Safe _ _ _ :=
    State.abortService_safe _ _ _ (State.abortWaiting_safe _ _ _ hS0)
  have hv : s.modesDrained q destroy q = (.draining, destroy) := by
    unfold State.modesDrained
    rw [show (s.queDrainBegun q destroy).queue q = _ from ht0]
  have hq : ((((t0.abortWaiting mine 0).abortService mine 0).queResult q 0 false).queue q).st = .draining ∧
      ((((t0.abortWaiting mine 0).abortService mine 0).queResult q 0 false).queue q).destroying = destroy := by
    have h2 := (hm.congr (State.wr_queues _ _ _ _ _ : (State.queResult _ q 0 false).queues = _)).2 q
    rw [hv] at h2
    exact Prod.mk.inj h2
  refine ⟨_, if_neg (not_not_intro h), hq.1, hq.2, ?_⟩
  exact (State.rd_queResult hS2 q false).trans (Nat.add_zero _)

/-! ### The end of a draining -/

theorem State.queDrained_waits (q : Nat) (h : (s.queue q).st ≠ .draining ∨ (s.queue q).held ≠ [] ∨ (s.queue q).owed ≠ [] ∨
    s.reqs.any (fun e => e.2.live && decide (e.2.queue = q)) = true) : s.queDrained q = s := by
  refine if_pos ?_
  obtain h | h | h | h := h
  · simp [h]
  · simp [h]
  · simp [h]
  · rw [h]
    simp

/-- A queue whose draining has ended, with every index 0. -/
def Queue.drained (x : Queue) : Queue :=
  if x.destroying then {} else { x with
    sqHead := 0, sqTail := 0, cqHead := 0, cqTail := 0, remote := none, rung := false, stall := 0,
    batches := [], st := if x.destroying then .disabled else .enabled, destroying := false, aborted := 0 }

theorem State.queDrained_ends (q : Nat) (hst : (s.queue q).st = .draining) (hheld : (s.queue q).held = [])
    (howed : (s.queue q).owed = []) (hleft : s.reqs.any (fun e => e.2.live && decide (e.2.queue = q)) = false) : s.queDrained q =
    ((if s.lastCmd q then (s.setQueue q (s.queue q).drained).queResult q 0 true else s.setQueue q (s.queue q).drained).flag .queEvent 0 4).raise
      (evQueue 0x1203 0 q (q + 32768 * b2n (s.queue q).destroying + 2 ^ 32 * satTo 0xFFFF (s.queue q).aborted)) := by
  refine if_neg ?_
  rw [hleft]
  simp [hst, hheld, howed]

theorem Queue.drained_eq (x : Queue) : x.drained.st = (if x.destroying then .disabled else .enabled) ∧ x.drained.sqHead = 0 ∧
    x.drained.sqTail = 0 ∧ x.drained.cqHead = 0 ∧ x.drained.cqTail = 0 ∧ x.drained.stall = 0 := by
  unfold Queue.drained
  by_cases h : x.destroying = true
  · rw [if_pos h, if_pos h]
    exact ⟨rfl, rfl, rfl, rfl, rfl, rfl⟩
  · rw [if_neg h, if_neg h]
    exact ⟨rfl, rfl, rfl, rfl, rfl, rfl⟩

theorem State.queDrained_result (hS : s.Inv) (q : QId) (hst : (s.queue q).st = .draining) (hheld : (s.queue q).held = [])
    (howed : (s.queue q).owed = []) (hleft : s.reqs.any (fun e => e.2.live && decide (e.2.queue = q.val)) = false) :
    ∃ t, s.queDrained q = t ∧
      t.rd .queCmdStatus = (if s.rd .queCmdStatus = q.val then q.val + 2 ^ 31 else s.rd .queCmdStatus) ∧
      (t.queue q).st = (if (s.queue q).destroying then .disabled else .enabled) ∧ (t.queue q).sqHead = 0 ∧
      (t.queue q).sqTail = 0 ∧ (t.queue q).cqHead = 0 ∧ (t.queue q).cqTail = 0 ∧ (t.queue q).stall = 0 ∧
      (∀ i, i ≠ q.val → t.queue i = s.queue i) ∧ t.mem = s.mem := by
  obtain ⟨hdst, hsqh, hsqt, hcqh, hcqt, hstall⟩ := Queue.drained_eq (s.queue q)
  have hS1 : (s.setQueue q (s.queue q).drained).Safe _ _ _ := State.setQueue_safe s _ _ hS
  let s2 := if s.lastCmd q then (s.setQueue q (s.queue q).drained).queResult q 0 true else s.setQueue q (s.queue q).drained
  have hS2 : s2.Safe 0 0 s.pending := by
    unfold s2
    split
    · exact State.queResult_safe _ _ _ _ hS1
    · exact hS1
  have hrd2 : s2.rd .queCmdStatus = (if s.rd .queCmdStatus = q.val then q.val + 2 ^ 31 else s.rd .queCmdStatus) := by
    unfold s2
    by_cases hlast : s.rd .queCmdStatus = q.val
    · rw [if_pos (show s.lastCmd q = true from decide_eq_true hlast), if_pos hlast]
      exact State.rd_queResult hS1 q true
    · rw [if_neg (show ¬ s.lastCmd q = true from fun h => hlast (of_decide_eq_true h)), if_neg hlast]
      rfl
  have hqs2 : s2.queues = s.queues.set {} q (s.queue q).drained := by
    unfold s2
    split
    · exact State.wr_queues ..
    · rfl
  have hmem2 : s2.mem = s.mem := by
    unfold s2
    split
    · exact State.wr_mem ..
    · rfl
  refine ⟨_, State.queDrained_ends q hst hheld howed hleft, ?_⟩
  generalize evQueue .. = e
  have hqs : ((s2.flag .queEvent 0 4).raise e).queues = s.queues.set {} q (s.queue q).drained :=
    (quiet_queues.raise ..).trans ((quiet_queues.flag ..).trans hqs2)
  have hq : ((s2.flag .queEvent 0 4).raise e).queue q = (s.queue q).drained := by
    unfold State.queue
    rw [hqs]
    exact NMap.get_set_self _ _ _ (NMap.sorted_of_wf hS.canon.queues)
  refine ⟨?_, ?_, ?_, ?_, ?_, ?_, ?_, fun i hi => ?_, ?_⟩
  · rw [State.rd_raise_ne (State.flag_safe _ _ _ _ hS2) e (by decide), State.flag, State.rd_wr_ne hS2 _ (by decide), hrd2]
  · rw [hq, hdst]
  · rw [hq, hsqh]
  · rw [hq, hsqt]
  · rw [hq, hcqh]
  · rw [hq, hcqt]
  · rw [hq, hstall]
  · exact (congrArg (fun m => m.get {} i) hqs).trans (NMap.get_set_ne _ _ _ hi (NMap.sorted_of_wf hS.canon.queues))
  · rw [State.raise_mem, State.flag, State.wr_mem, hmem2]

/-! ### Reading submissions -/

theorem State.submissionRead_eq {q p : Nat} (hq : s.nextQueue = some q) (hp : (s.model (s.queue q).model).firstPound = some p) :
    s.submissionRead =
      if s.ringCause true (s.queue q) ≠ 0 then
        (if (s.queue q).stall = 0 then s.ueRead (s.queue q).sqHost ((s.queue q).sqBase + 32 * (s.queue q).sqHead) 32 else s).stallQueue q
          (s.ringCause true (s.queue q))
      else
        let a := (s.queue q).sqBase + 32 * (s.queue q).sqHead
        let s1 := (s.modQueue q (fun x => { x with sqHead := (x.sqHead + 1) % x.sqSize, batches := match (s.queue q).batches with
          | (b, n) :: bs => if n ≤ 1 then bs else (b, n - 1) :: bs
          | [] => [] })).count ctrIo 0 1
        let s2 : State := if (s.queue q).cls = 0 then s1 else { s1 with rrLast := q }
        s2.takeSub q p ((((s.queue q).batches.head?).map (·.1)).getD 0)
          (if (s.queue q).sqHost then s.hostBytes a 32 else s.bytesAt a 32) := by
  unfold State.submissionRead
  rw [hq]
  dsimp only
  rw [hp] <;> rfl

theorem State.takeSub_eq (q p batch : Nat) (d : List Byte) (h : subFault d = none) (route : Option (List Byte))
    (hroute : (let n := if bit (leAt d 12 1) 3 then leAt d 13 1 else 0
      if n = 0 then some [] else s.readDev (leAt d 16 8) (16 * n)) = route) :
    s.takeSub q p batch d =
      let n := if bit (leAt d 12 1) 3 then leAt d 13 1 else 0
      match (generalizing := false) route with
      | none => (s.ueRead false (leAt d 16 8) (16 * n)).answerSub q batch 0x17 0 0 0
      | some rs =>
        let els := chunks 16 n rs
        let r := s.reqOf q batch d (els.map routeOf)
        if els.any (fun e => !routeOk e) then s.answerSub q batch 0x11 0x110 0 0
        else if r.strm && (s.ctx r.stream).st ≠ .bound then s.answerSub q batch 0x26 r.stream 1 r.stream
        else s.admitReq p { r with version := s.batchVersion batch, setNo := s.bound.get 0 batch % 16 } false := by
  subst hroute
  rw [State.takeSub, h] <;> rfl

end

section
variable {s : State}

theorem State.queCreate_made (hS : s.Inv) (q : QId) (hup : s.up = true) (hst : (s.queue q).st = .disabled) (d : List Byte)
    (hd : s.readDev (s.rdPair .queTableLo .queTableHi + 64 * q.val) 64 = some d) (hok : descOk d = true)
    (hbudget : (queueOf d).cls ≠ 0 ∨ s.budget (queueOf d) = none) : ∃ t, s.queCreate q = t ∧
      t.queue q = queueOf d ∧ t.rd .queCmdStatus = q.val + 2 ^ 31 ∧ (∀ i, i ≠ q.val → t.queue i = s.queue i) ∧ t.mem = s.mem := by
  have hnone : (if (queueOf d).cls = 0 then s.budget (queueOf d) else none) = none := by
    obtain h | h := hbudget
    · exact if_neg h
    · rw [h, ite_self]
  have heq : s.queCreate q = (s.setQueue q (queueOf d)).queResult q 0 true := by
    rw [State.queCreate_read q hup hst, hd]
    dsimp only
    rw [hok, hnone]
    rfl
  have hqs : ((s.setQueue q (queueOf d)).queResult q 0 true).queues = s.queues.set {} q (queueOf d) := State.wr_queues ..
  refine ⟨_, heq, ?_, State.rd_queResult (State.setQueue_safe s _ _ hS) q true, fun i hi => ?_, State.wr_mem ..⟩
  · unfold State.queue
    rw [hqs]
    exact NMap.get_set_self _ _ _ (NMap.sorted_of_wf hS.canon.queues)
  · unfold State.queue
    rw [hqs]
    exact NMap.get_set_ne _ _ _ hi (NMap.sorted_of_wf hS.canon.queues)

theorem State.queCreate_bad (q : Nat) (hup : s.up = true) (hst : (s.queue q).st = .disabled) (d : List Byte)
    (hd : s.readDev (s.rdPair .queTableLo .queTableHi + 64 * q) 64 = some d) (hok : descOk d = false) :
    s.queCreate q = s.queResult q 1 true := by
  rw [State.queCreate_read q hup hst, hd]
  dsimp only
  rw [hok]
  rfl

theorem State.queCreate_over (q : Nat) (hup : s.up = true) (hst : (s.queue q).st = .disabled) (d : List Byte)
    (hd : s.readDev (s.rdPair .queTableLo .queTableHi + 64 * q) 64 = some d) (hok : descOk d = true) (b sum x : Nat)
    (hcls : (queueOf d).cls = 0) (hbudget : s.budget (queueOf d) = some (b, sum, x)) : s.queCreate q =
      ((s.queResult q 2 true).flag .queEvent 0 2).raise (evQueue 0x1202 1 q (q + 65536 * b + 2 ^ 24 * sum)) := by
  rw [State.queCreate_read q hup hst, hd]
  dsimp only
  rw [hok, if_pos hcls, hbudget]
  rfl

theorem State.queCreate_unread (q : Nat) (hup : s.up = true) (hst : (s.queue q).st = .disabled)
    (hd : s.readDev (s.rdPair .queTableLo .queTableHi + 64 * q) 64 = none) :
    s.queCreate q = (s.ueRead false (s.rdPair .queTableLo .queTableHi + 64 * q) 64).queResult q 4 true := by
  rw [State.queCreate_read q hup hst, hd]

end

/-- Settles O38. -/
theorem queues : Obligations.Queues := by
  unfold Obligations.Queues
  refine ⟨fun s path q hI => ⟨fun ha => ?_, fun ha => ?_, ?_, fun halive hst hheld howed hleft => ?_⟩,
    fun s => ⟨?_, fun q hq hp => ?_, fun q p halive hq hp => ⟨fun hc => ?_, fun hc => ?_⟩,
      fun q p batch d => ⟨fun o ho => ?_, fun hf hr => ?_, fun rs hf hr => ⟨fun hb => ?_, fun hb hs hc => ?_, fun hb hs => ?_⟩⟩,
      fun i => ⟨?_, fun halive hst hbad => ?_⟩⟩⟩
  · exact ⟨next_asked_unanswered ha _, next_asked_unanswered ha _, next_asked_unanswered ha _⟩
  · have hcreate : exec (.create path q) s = .next (s.queWhenUp q fun u => u.queCreate q) := next_congr (State.asked_answered ha _)
    have hreset : exec (.queueReset path q) s = .next (s.queWhenUp q fun u => u.queDrain q false) := next_congr (State.asked_answered ha _)
    have hdestroy : exec (.destroy path q) s = .next (s.queWhenUp q fun u => u.queDrain q true) := next_congr (State.asked_answered ha _)
    rw [hcreate, hreset, hdestroy]
    cases hup : s.up with
    | false =>
      rw [State.queWhenUp_down _ _ hup, State.queWhenUp_down _ _ hup, State.queWhenUp_down _ _ hup]
      exact ⟨fun _ => rfl, fun _ h => (nomatch h), fun h => (nomatch h), fun _ => ⟨rfl, rfl⟩, fun h => (nomatch h)⟩
    | true =>
      rw [State.queWhenUp_up _ _ hup, State.queWhenUp_up _ _ hup, State.queWhenUp_up _ _ hup]
      refine ⟨fun h => next_congr (State.queCreate_refused _ (h.resolve_left nofun)), fun d _ hst hd => ⟨fun hok => ?_, fun hok hb => ?_,
        fun b sum x hok hc hb => ?_⟩, fun _ hd hst => ?_, fun h => ⟨?_, ?_⟩, fun _ hst => ⟨?_, ?_⟩⟩
      · exact next_congr (State.queCreate_bad _ hup hst d hd hok)
      · obtain ⟨t, ht, hrest⟩ := State.queCreate_made hI q hup hst d hd hok hb
        exact ⟨t, next_congr ht, hrest⟩
      · exact next_congr (State.queCreate_over _ hup hst d hd hok b sum x hc hb)
      · exact next_congr (State.queCreate_unread _ hup hst hd)
      · exact next_congr (State.queDrain_refused _ _ (h.resolve_left nofun))
      · exact next_congr (State.queDrain_refused _ _ (h.resolve_left nofun))
      · obtain ⟨t, ht, hrest⟩ := State.queDrain_enabled hI q false hst
        exact ⟨t, next_congr ht, hrest⟩
      · obtain ⟨t, ht, hrest⟩ := State.queDrain_enabled hI q true hst
        exact ⟨t, next_congr ht, hrest⟩
  · rintro (h | h)
    · exact next_if_neg h _ _
    · refine next_congr ?_
      split
      · exact State.queDrained_waits _ h
      · rfl
  · obtain ⟨t, ht, hrest⟩ := State.queDrained_result hI q hst hheld howed hleft
    exact ⟨t, next_congr ((if_pos halive).trans ht), hrest⟩
  · rintro (h | h)
    · exact next_if_neg h _ _
    · refine next_congr ?_
      rw [State.submissionRead, h]
      exact ite_self _
  · refine next_congr ?_
    have hread : s.submissionRead = s := by
      unfold State.submissionRead
      rw [hq]
      dsimp only
      rw [hp]
    rw [hread, ite_self]
  · refine next_congr ((if_pos halive).trans ?_)
    rw [State.submissionRead_eq hq hp]
    exact if_pos hc
  · refine ⟨_, next_congr ((if_pos halive).trans ((State.submissionRead_eq hq hp).trans (if_neg (not_not_intro hc)))), ?_⟩
    by_cases hcls : (s.queue q).cls = 0
    · rw [if_pos hcls, if_pos hcls]
      exact ⟨rfl, rfl, rfl, rfl⟩
    · rw [if_neg hcls, if_neg hcls]
      exact ⟨rfl, rfl, rfl, rfl⟩
  · rw [State.takeSub, ho]
  · rw [State.takeSub_eq q p batch d hf none hr]
  · rw [State.takeSub_eq q p batch d hf (some rs) hr]
    exact if_pos hb
  · rw [State.takeSub_eq q p batch d hf (some rs) hr]
    refine (if_neg (ne_true_of_eq_false hb)).trans (if_pos ?_)
    rw [hs, Bool.true_and]
    exact decide_eq_true hc
  · rw [State.takeSub_eq q p batch d hf (some rs) hr]
    refine (if_neg (ne_true_of_eq_false hb)).trans (if_neg ?_)
    rw [Bool.and_eq_true, decide_eq_true_iff]
    rintro ⟨h1, h2⟩
    obtain h | h := hs
    · exact absurd h1 (ne_true_of_eq_false h)
    · exact h2 h
  · rintro (h | h | h)
    · exact next_if_neg h _ _
    · refine next_congr ?_
      split
      · exact if_pos (Bool.or_eq_true_iff.mpr (.inl (decide_eq_true h)))
      · rfl
    · refine next_congr ?_
      split
      · exact if_pos (Bool.or_eq_true_iff.mpr (.inr (decide_eq_true h)))
      · rfl
  · refine next_congr ((if_pos halive).trans (if_neg ?_))
    rw [Bool.or_eq_true, decide_eq_true_iff, decide_eq_true_iff]
    exact not_or.mpr ⟨hst, not_not_intro hbad⟩

end Sys2Proof.Machine
end

section
/-! PROOFS. A message cut into packets arrives whole (R364, R366). -/
namespace Sys2Proof.Machine
open Sys2Proof

/-! ### Chunks of a byte list -/

theorem chunks_flatten (n k : Nat) (bs : List Byte) (h : bs.length ≤ n * k) : (chunks n k bs).flatten = bs := by
  induction k generalizing bs with
  | zero => exact (List.length_eq_zero_iff.mp (Nat.le_zero.mp h)).symm
  | succ k ih =>
    rw [chunks]
    split
    · next hemp => exact (List.isEmpty_iff.mp hemp).symm
    · have hdrop : (bs.drop n).length ≤ n * k := by
        rw [List.length_drop]
        rw [Nat.mul_succ] at h
        omega
      rw [List.flatten_cons, ih _ hdrop, List.take_append_drop]

theorem length_chunks_le (n k : Nat) (bs : List Byte) : (chunks n k bs).length ≤ k := by
  induction k generalizing bs with
  | zero => exact Nat.le_refl _
  | succ k ih =>
    rw [chunks]
    split
    · exact Nat.zero_le _
    · exact Nat.succ_le_succ (ih _)

theorem length_of_mem_chunks (n k : Nat) (bs : List Byte) : ∀ b ∈ chunks n k bs, b.length ≤ n := by
  induction k generalizing bs with
  | zero => exact fun b hb => (List.not_mem_nil hb).elim
  | succ k ih =>
    intro b hb
    rw [chunks] at hb
    split at hb
    · exact (List.not_mem_nil hb).elim
    · obtain rfl | hb := List.mem_cons.mp hb
      · exact List.length_take_le _ _
      · exact ih _ b hb

/-! ### The packets of a message -/

/-- The payloads of a message's packets: one empty payload where the message is empty. -/
def parts (n : Nat) (pay : List Byte) : List (List Byte) := if pay.isEmpty then [[]] else chunks n (cdiv pay.length n) pay

/-- Packet `k` of a message whose last packet is `last`. -/
def packetAt (typ ch seq last : Nat) (b : List Byte) (k : Nat) : Pkt :=
  ⟨u32 (seq + k), typ, ch + 2 * b2n (decide (k = 0)) + 4 * b2n (decide (k = last)), b⟩

theorem packets_eq (typ ch seq n : Nat) (pay : List Byte) : packets typ ch seq n pay =
    ((parts n pay).zipIdx 0).map (fun e => packetAt typ ch seq ((parts n pay).length - 1) e.1 e.2) := rfl

theorem cdiv_le {n k m : Nat} (hn : 0 < n) (h : m ≤ k * n) : cdiv m n ≤ k := by
  refine Nat.le_of_lt_succ ((Nat.div_lt_iff_lt_mul hn).mpr ?_)
  rw [Nat.succ_mul]
  omega

theorem le_mul_cdiv {n : Nat} (hn : 0 < n) (m : Nat) : m ≤ n * cdiv m n := by
  have h : (m + n - 1) % n < n := Nat.mod_lt _ hn
  have hdiv := Nat.div_add_mod (m + n - 1) n
  unfold cdiv
  omega

theorem flatten_parts {n : Nat} (hn : 0 < n) (pay : List Byte) : (parts n pay).flatten = pay := by
  unfold parts
  split
  · next h => exact (List.isEmpty_iff.mp h).symm
  · exact chunks_flatten n _ pay (le_mul_cdiv hn _)

theorem parts_ne_nil {n : Nat} (hn : 0 < n) (pay : List Byte) : parts n pay ≠ [] := by
  intro h
  have hflat := flatten_parts hn pay
  rw [h] at hflat
  have hpay : pay = [] := hflat.symm
  subst hpay
  exact List.cons_ne_nil _ _ h

theorem length_parts_le {n : Nat} (hn : 0 < n) (pay : List Byte) (h : pay.length ≤ 512 * n) : (parts n pay).length ≤ 512 := by
  unfold parts
  split
  · exact Nat.succ_le_succ (Nat.zero_le _)
  · exact Nat.le_trans (length_chunks_le ..) (cdiv_le hn h)

theorem length_of_mem_parts {n : Nat} (pay : List Byte) : ∀ b ∈ parts n pay, b.length ≤ n := by
  unfold parts
  split
  · intro b hb
    rw [List.mem_singleton.mp hb]
    exact Nat.zero_le _
  · exact length_of_mem_chunks n _ pay

theorem packetAt_first (typ ch seq last : Nat) (b : List Byte) (k : Nat) (hch : ch < 2) :
    bit (packetAt typ ch seq last b k).flags 1 = decide (k = 0) := by
  have hmod : (ch + 2 * b2n (decide (k = 0)) + 4 * b2n (decide (k = last))) / 2 ^ 1 % 2 = b2n (decide (k = 0)) := by
    have := b2n_le (decide (k = 0))
    omega
  unfold bit packetAt
  rw [Nat.testBit_eq_decide_div_mod_eq, hmod]
  cases decide (k = 0)
  · rfl
  · rfl

theorem packetAt_last (typ ch seq last : Nat) (b : List Byte) (k : Nat) (hch : ch < 2) :
    bit (packetAt typ ch seq last b k).flags 2 = decide (k = last) := by
  have hmod : (ch + 2 * b2n (decide (k = 0)) + 4 * b2n (decide (k = last))) / 2 ^ 2 % 2 = b2n (decide (k = last)) := by
    have := b2n_le (decide (k = 0))
    have := b2n_le (decide (k = last))
    omega
  unfold bit packetAt
  rw [Nat.testBit_eq_decide_div_mod_eq, hmod]
  cases decide (k = last)
  · rfl
  · rfl

/-! ### Their delivery -/

theorem Chan.deliver_nothing (c : Chan) (h : c.held = []) (f : Nat) : c.deliver f = c := by
  cases f with
  | zero => rfl
  | succ f =>
    rw [Chan.deliver, h]
    rfl

/-- What a channel takes up with a message's last packet. -/
def inboxWith (typ : Nat) (got : List Pkt) (inbox : List InMsg) : List InMsg :=
  if notOurs typ then inbox else inbox ++ [⟨typ, got.flatMap (·.payload), got.length⟩]

theorem u32_ne {seq k j : Nat} (hkj : k < j) (hj : j < 512) : u32 (seq + k) ≠ u32 (seq + j) := by
  unfold u32
  omega

/-- The packets from `k` on, held in order by a channel that expects packet `k` and has those before it. -/
theorem Chan.deliver_packets (typ ch seq last : Nat) (hch : ch < 2) (hlast : last < 512) (bs : List (List Byte)) :
    ∀ (k f : Nat) (c : Chan), bs ≠ [] → k + bs.length = last + 1 → bs.length ≤ f → (k = 0 → c.part = []) →
      c.held = (bs.zipIdx k).map (fun e => packetAt typ ch seq last e.1 e.2) → c.rxNext = u32 (seq + k) →
      let got := c.part ++ (bs.zipIdx k).map (fun e => packetAt typ ch seq last e.1 e.2)
      (c.deliver f).inbox = inboxWith typ got c.inbox ∧ (c.deliver f).held = [] ∧ (c.deliver f).rxNext = u32 (seq + k + bs.length) := by
  induction bs with
  | nil => exact fun _ _ _ h => (h rfl).elim
  | cons b bs ih =>
    intro k f c _ hk hf hpart hheld hrx got
    obtain ⟨f, rfl⟩ : ∃ g, f = g + 1 := ⟨f - 1, by rw [List.length_cons] at hf; omega⟩
    let rest := (bs.zipIdx (k + 1)).map (fun e => packetAt typ ch seq last e.1 e.2)
    have hheld' : c.held = packetAt typ ch seq last b k :: rest := hheld
    have hfind : c.held.find? (fun p => p.seq = c.rxNext) = some (packetAt typ ch seq last b k) := by
      rw [hheld', hrx]
      exact List.find?_cons_of_pos (decide_eq_true rfl)
    have hfilter : c.held.filter (fun q => q.seq ≠ (packetAt typ ch seq last b k).seq) = rest := by
      rw [hheld', List.filter_cons_of_neg (by simp)]
      refine List.filter_eq_self.mpr fun p hp => ?_
      obtain ⟨⟨d, j⟩, hj, rfl⟩ := List.mem_map.mp hp
      have hle := List.le_snd_of_mem_zipIdx hj
      have hlt := List.snd_lt_add_of_mem_zipIdx hj
      rw [List.length_cons] at hk
      exact decide_eq_true (u32_ne (show k < j from hle) (by dsimp only at hlt; omega)).symm
    have hpart' : (if bit (packetAt typ ch seq last b k).flags 1 then [packetAt typ ch seq last b k] else c.part ++ [packetAt typ ch seq last b k]) =
        c.part ++ [packetAt typ ch seq last b k] := by
      rw [packetAt_first _ _ _ _ _ _ hch]
      split
      · next h => rw [hpart (of_decide_eq_true h)]; rfl
      · rfl
    have hgot : got = c.part ++ [packetAt typ ch seq last b k] ++ rest := by
      rw [List.append_assoc]
      rfl
    have hstep : u32 (u32 (seq + k) + 1) = u32 (seq + (k + 1)) := by
      unfold u32
      omega
    rw [Chan.deliver, hfind]
    dsimp only
    rw [hpart', packetAt_last _ _ _ _ _ _ hch, hfilter, hrx, hstep]
    cases bs with
    | nil =>
      have hkl : k = last := by simpa using hk
      rw [if_pos (decide_eq_true hkl), Chan.deliver_nothing _ rfl, hgot]
      exact ⟨by rw [show rest = [] from rfl, List.append_nil]; rfl, rfl, rfl⟩
    | cons d ds =>
      have hkl : ¬ decide (k = last) = true := by
        rw [decide_eq_true_iff]
        simp only [List.length_cons] at hk
        omega
      rw [if_neg hkl, hgot]
      simp only [List.length_cons] at hk hf
      have h := ih (k + 1) f { c with held := rest, rxNext := u32 (seq + (k + 1)), part := c.part ++ [packetAt typ ch seq last b k] }
        (List.cons_ne_nil _ _) (by rw [List.length_cons]; omega) (by rw [List.length_cons]; omega) (fun h => by omega) rfl rfl
      obtain ⟨h1, h2, h3⟩ := h
      refine ⟨h1, h2, h3.trans (congrArg u32 ?_)⟩
      rw [List.length_cons, List.length_cons, List.length_cons]
      omega

/-- Settles O52. -/
theorem packetsReassemble : Obligations.PacketsReassemble := by
  unfold Obligations.PacketsReassemble
  intro typ ch seq n pay hch hn hseq hlen
  let last := (parts n pay).length - 1
  have hlast : last < 512 := by
    have := length_parts_le hn pay hlen
    omega
  have hne := parts_ne_nil hn pay
  have hcount : (parts n pay).length = last + 1 := (Nat.succ_pred_eq_of_pos (List.length_pos_iff.2 hne)).symm
  have hps : (packets typ ch seq n pay).map (·.payload) = parts n pay := by
    rw [packets_eq, List.map_map]
    exact List.zipIdx_map_fst ..
  have hnum : (packets typ ch seq n pay).length = (parts n pay).length := by rw [← hps, List.length_map]
  have hflat : (packets typ ch seq n pay).flatMap (·.payload) = pay := by
    rw [List.flatMap_def, hps, flatten_parts hn]
  have h := Chan.deliver_packets typ ch seq last hch hlast (parts n pay) 0 513
    { held := packets typ ch seq n pay, rxNext := seq } hne (by omega) (by omega) (fun _ => rfl) rfl
    (Nat.mod_eq_of_lt hseq).symm
  rw [← packets_eq, List.nil_append] at h
  obtain ⟨hin, hheld, hrx⟩ := h
  refine ⟨⟨Nat.le_trans (Nat.le_of_eq hnum) (length_parts_le hn pay hlen), hflat, fun p hp => ?_⟩, hin.trans ?_, hheld, ?_⟩
  · exact length_of_mem_parts pay _ (hps ▸ List.mem_map_of_mem hp)
  · unfold inboxWith notOurs
    rw [hflat]
    simp [or_assoc]
  · rw [hrx, hnum]
    rfl

end Sys2Proof.Machine
end

section
/-! PROOFS. Calibration commands and reads of the gain tables (R263, R271, R283). -/
namespace Sys2Proof.Machine
open Sys2Proof

section
variable {s : State} {c : CoreId} {sl : SlotId}

theorem State.calCmd_open (path : Path) : s.calCmd path c true false sl = s.calOpenCmd c sl :=
  if_neg (by have := sl.isLt; omega)

theorem State.calCmd_restart (path : Path) : s.calCmd path c false true 0 = s.calRestart c (s.rf .corCalSel c 3 0) := rfl

theorem State.calOpenCmd_unready (h : (s.arr (arrId c sl)).st ≠ .ready) :
    s.calOpenCmd c sl = (s.openResult c sl 2).openFail (arrId c sl) 2 := if_pos h

theorem State.calOpenCmd_unheld (h : (s.arr (arrId c sl)).st = .ready) (hn : s.openHolder c sl = none) :
    s.calOpenCmd c sl = (s.openResult c sl 1).openFail (arrId c sl) 1 :=
  (if_neg (not_not_intro h)).trans (if_pos (by rw [hn]; rfl))

/-- A slot joins the openings of its core that wait (R263). -/
theorem State.calOpenCmd_waits (hS : s.Inv) (h : (s.arr (arrId c sl)).st = .ready) (hn : s.openHolder c sl ≠ none) :
    ∃ t, s.calOpenCmd c sl = t ∧ (t.core c).openings.contains sl.val = true ∧ t.rd .corCalOpenResult c = 256 * sl.val ∧
      t.arrays = s.arrays ∧ t.mem = s.mem := by
  let s1 := s.modCore c (fun x => { x with openings := x.openings.filter (· ≠ sl.val) ++ [sl.val] })
  have hS1 : s1.Safe 0 0 s.pending := State.modCore_safe s _ _ hS
  have hsl : 256 * sl.val < 2 ^ 32 := by have := sl.isLt; omega
  have hcore : (s1.core c).openings = (s.core c).openings.filter (· ≠ sl.val) ++ [sl.val] := by
    rw [State.core_modCore hS]
  have hheld : ¬ (s.openHolder c sl).isNone = true := fun hi => hn (Option.isNone_iff_eq_none.mp hi)
  refine ⟨_, (if_neg (not_not_intro h)).trans (if_neg hheld), ?_, ?_, rfl, rfl⟩
  · have hkeep : (s1.wr .corCalOpenResult c 0 (256 * sl)).core c = s1.core c := rfl
    rw [show State.core (State.wr _ .corCalOpenResult c 0 (256 * sl)) c = _ from hkeep, hcore]
    simp
  · exact (State.rd_wr hS1 ..).trans (Nat.mod_eq_of_lt hsl)

theorem CalSet.restart_eq (v : CalSet) : v.restart.st = .collect1 ∧ v.restart.taps = [] ∧ v.restart.offs1 = [] ∧
    v.restart.active = v.active := ⟨rfl, rfl, rfl, rfl⟩

/-- The answer to a read of COR_CAL_GAIN_DATA. -/
def State.gainReadAnswer (s : State) (path : Path) (c : CoreId) : State := (s.gainRead c).2.reply path (s.gainRead c).1

theorem State.gainRead_keeps {β : Type} (φ : State → β) (hregs : ∀ t x, φ { t with regs := x } = φ t) (htx : ∀ t x, φ { t with tx := x } = φ t)
    (path : Path) (c : CoreId) : φ (s.gainReadAnswer path c) = φ s := by
  refine (htx _ _).trans ?_
  unfold State.gainRead
  dsimp only
  split
  · exact hregs _ _
  · rfl

theorem State.gainReadAnswer_regs (path : Path) (c : CoreId) : (s.gainReadAnswer path c).regs =
    (if s.rb .corCalGainAddr c 16 then s.wf_ .corCalGainAddr c 8 0 ((s.rf .corCalGainAddr c 8 0 + 1) % 512) else s).regs := rfl

theorem State.gainRead_sends (path : Path) (c : CoreId) :
    let col := s.rf .corCalGainAddr c 8 0
    let v := s.cal c (s.rf .corCalGainAddr c 15 12)
    (s.gainReadAnswer path c).tx = s.tx ++ [.data path [BitVec.ofNat 32 (v.active.get 0x8000 col + 65536 *
      (if v.st = .pending ∨ v.st = .ramping then v.target.get 0x8000 col else v.active.get 0x8000 col))] false] := by
  have htx : (s.gainRead c).2.tx = s.tx := by
    unfold State.gainRead
    dsimp only
    split
    · rfl
    · rfl
  refine (congrArg (· ++ _) htx).trans ?_
  unfold State.gainRead
  simp only [Bool.or_eq_true, decide_eq_true_eq]

theorem State.rd_of_regs {s t : State} (h : t.regs = s.regs) (r : Reg) (i k : Nat) : t.rd r i k = s.rd r i k := by
  unfold State.rd
  rw [h]

theorem State.rf_of_regs {s t : State} (h : t.regs = s.regs) (r : Reg) (i hi lo : Nat) : t.rf r i hi lo = s.rf r i hi lo := by
  unfold State.rf
  rw [State.rd_of_regs h]

theorem State.gainRead_advances (hS : s.Inv) (path : Path) (c : CoreId) :
    (s.rb .corCalGainAddr c 16 = true → (s.gainReadAnswer path c).rf .corCalGainAddr c 8 0 = (s.rf .corCalGainAddr c 8 0 + 1) % 512) ∧
    (s.rb .corCalGainAddr c 16 = false → (s.gainReadAnswer path c).regs = s.regs) := by
  refine ⟨fun h => ?_, fun h => ?_⟩
  · have hmod : (s.rf .corCalGainAddr c 8 0 + 1) % 512 % 2 ^ 9 = (s.rf .corCalGainAddr c 8 0 + 1) % 512 := Nat.mod_mod ..
    have hregs := s.gainReadAnswer_regs path c
    rw [if_pos h] at hregs
    exact (State.rf_of_regs hregs _ _ _ _).trans
      ((State.rf_wf_ hS .corCalGainAddr c ((s.rf .corCalGainAddr c 8 0 + 1) % 512) (hi := 8) (lo := 0) (by decide) (by decide)).trans hmod)
  · rw [State.gainReadAnswer_regs, if_neg (ne_true_of_eq_false h)]

end

/-- Settles O45. -/
theorem calibrationCommands : Obligations.CalibrationCommands := by
  unfold Obligations.CalibrationCommands
  refine fun s path c sl hI => ⟨fun ha => ⟨next_asked_unanswered ha _, next_asked_unanswered ha _, next_congr ?_⟩,
    fun ha => ⟨fun h => ?_, fun h hn => ?_, fun h hn => ?_, ⟨next_congr ?_, CalSet.restart_eq _⟩, ?_⟩⟩
  · exact if_neg (ne_true_of_eq_false ha)
  · exact next_congr ((State.asked_answered ha _).trans ((State.calCmd_open path).trans (State.calOpenCmd_unready h)))
  · exact next_congr ((State.asked_answered ha _).trans ((State.calCmd_open path).trans (State.calOpenCmd_unheld h hn)))
  · obtain ⟨t, ht, hrest⟩ := State.calOpenCmd_waits hI h hn
    exact ⟨t, next_congr ((State.asked_answered ha _).trans ((State.calCmd_open path).trans ht)), hrest⟩
  · refine (State.asked_answered ha _).trans ?_
    rw [State.calCmd_restart]
    unfold State.calRestart
    simp only [Bool.or_eq_true, decide_eq_true_eq]
  · obtain ⟨hrf, hregs⟩ := State.gainRead_advances hI path c
    exact ⟨_, next_congr (if_pos ha), ⟨State.gainRead_sends path c, hrf, hregs⟩, State.gainRead_keeps State.cores (fun _ _ => rfl) (fun _ _ => rfl) path c,
      State.gainRead_keeps State.arrays (fun _ _ => rfl) (fun _ _ => rfl) path c, State.gainRead_keeps State.mem (fun _ _ => rfl) (fun _ _ => rfl) path c⟩

end Sys2Proof.Machine
end

section
/-! PROOFS. Frames of the Ethernet ports, and ports that come up and go down (R360, R361). -/
namespace Sys2Proof.Machine
open Sys2Proof

section
variable {s : State} {port : PortId}

theorem bit_eq_fld (v b : Nat) : bit v b = decide (fld v b b = 1) := by
  unfold bit fld
  rw [Nat.testBit_eq_decide_div_mod_eq, Nat.shiftRight_eq_div_pow, Nat.add_sub_cancel_left, Nat.pow_one]

theorem State.rb_eq_rf (r : Reg) (i b : Nat) : s.rb r i b = decide (s.rf r i b b = 1) := bit_eq_fld ..

/-- A port's status word is none of those that an event or the count of lost codewords writes. -/
theorem ethPortStatus_addr_ne (p : Fin 4) : Reg.ethPortStatus.addr p 0 ≠ Reg.chkEvtLost.addr 0 0 ∧
    Reg.ethPortStatus.addr p 0 ≠ Reg.ethFecUncorrCount.addr p 0 := by
  revert p
  decide

theorem State.linkUp_congr {s t : State} {p : Nat} (h : t.rd .ethPortStatus (p / 4) 0 = s.rd .ethPortStatus (p / 4) 0) :
    t.linkUp p = s.linkUp p := by
  unfold State.linkUp State.rb
  rw [h]

/-- The physical port of a logical one. -/
def physical (port : PortId) : Fin 4 := ⟨port / 4, by have := port.isLt; omega⟩

theorem State.rd_portStatus_raise {lf lg : Nat} {cq : List Instr} (hS : s.Safe lf lg cq) (port : PortId) (e : Event) :
    (s.raise e).rd .ethPortStatus (port / 4) 0 = s.rd .ethPortStatus (port / 4) 0 :=
  State.rd_raise_ne hS e (ethPortStatus_addr_ne (physical port)).1

theorem State.fecCount_linkUp (hS : s.Inv) (fixed lost : Nat) : (s.fecCount port fixed lost).linkUp port = s.linkUp port := by
  refine State.linkUp_congr ?_
  let s1 := (s.count (ctrPort port) 5 fixed).count (ctrPort port) 6 lost
  have hS1 : s1.Safe 0 0 s.pending := State.count_safe _ _ _ _ (State.count_safe s _ _ _ hS)
  have hports (t : State) (ht : t.Safe 0 0 s.pending) (x : Ports) : ({ t with ports := x } : State).Safe 0 0 s.pending :=
    ht.lit rfl rfl rfl rfl
  have hbump (x : Ports) : (({ s1 with ports := x } : State).bump .ethFecUncorrCount (port / 4) lost).rd .ethPortStatus (port / 4) 0 =
      s.rd .ethPortStatus (port / 4) 0 := State.rd_wr_ne (hports s1 hS1 x) _ (ethPortStatus_addr_ne (physical port)).2
  unfold State.fecCount
  dsimp only
  split
  · rfl
  · split
    · exact hbump _
    · refine (State.rd_portStatus_raise (hports _ (State.bump_safe _ _ _ _ (hports s1 hS1 _)) _) port _).trans ?_
      exact hbump _

/-! ### Frames -/

theorem State.rxFrame_eq (hup : s.linkUp port = true) (f : List Byte) :
    let s1 := ((s.count (ctrPort port) 0 1).count (ctrPort port) 1 (f.length + 4)).winCount (2 * port) (f.length + 4)
    let own := s.localValid port = true ∧ f.take 6 = s.srnBytes port 40 6
    let mine := own ∨ ((f.take 1).any (fun b => b.getLsbD 0)) = true
    let fits := f.length ≤ 9212 ∧ 14 ≤ f.length ∧ mine
    let o := if beNat ((f.drop 12).take 2) = 0x8100 then 16 else 12
    let typ := beNat ((f.drop o).take 2)
    let mac := (f.drop 6).take 6
    s.rxFrame port f = if ¬ fits then s1.dropFrame port
      else if typ = 0x0800 then s1.gotIp4 port mac (f.drop (o + 2))
      else if typ = 0x86DD then s1.gotIp6 port mac (f.drop (o + 2))
      else if typ = 0x0806 then s1.gotArp port (f.drop (o + 2))
      else if typ = 0x88F7 ∧ s.rb .tbsCfg 0 0 = true then s1
      else s1.dropFrame port := by
  intro s1 own mine fits o typ mac
  have hfits : (decide (9216 < f.length + 4) || decide (f.length < 14) ||
      !((s.localValid port && decide (f.take 6 = s.srnBytes port 40 6)) || ((f.take 6).take 1).any (fun b => b.getLsbD 0))) = true ↔ ¬ fits := by
    rw [List.take_take, Nat.min_eq_left (by decide)]
    have hmine : ((s.localValid port && decide (f.take 6 = s.srnBytes port 40 6)) || (f.take 1).any (fun b => b.getLsbD 0)) = true ↔ mine := by
      rw [Bool.or_eq_true, Bool.and_eq_true, decide_eq_true_iff]
    have hlong : 9216 < f.length + 4 ↔ ¬ f.length ≤ 9212 := by omega
    rw [Bool.or_eq_true, Bool.or_eq_true, decide_eq_true_iff, decide_eq_true_iff, Bool.not_eq_true', ← Bool.not_eq_true, hmine, hlong,
      ← Nat.not_le, or_assoc, ← Classical.not_and_iff_not_or_not, ← Classical.not_and_iff_not_or_not]
  unfold State.rxFrame
  rw [hup]
  simp only [hfits, Bool.and_eq_true, decide_eq_true_iff]
  rfl

theorem State.execRxFrame_eq (halive : s.alive = true) (hup : s.linkUp port = true) (f : RxFrame) :
    exec (.rxFrame port f) s = .next ((s.fecCount port f.fixed f.lost).rxFrame port f.bytes) :=
  next_congr (if_pos (by rw [halive, hup]; rfl))

/-! ### Ports that come up and go down -/

theorem State.portUp_idle (h : s.portRate port = none ∨ s.linkUp port = true) : s.portUp port = s := by
  unfold State.portUp
  split
  · next r hr =>
    obtain h | h := h
    · exact nomatch hr.symm.trans h
    · exact if_pos h
  · rfl

theorem State.portUp_eq {r : Nat} (hr : s.portRate port = some r) (h : s.linkUp port = false) :
    let s1 := (s.flag .ethPortStatus (port / 4) (2 ^ (port.val % 4))).raise (evIf 0x5001 0 port (port + 256 * r))
    s.portUp port = s1.each (s1.net.peers.map (·.1)) (fun t k => if t.peerPort k = port then (t.pump k 0).pump k 1 else t) := by
  unfold State.portUp
  rw [hr]
  exact if_neg (ne_true_of_eq_false h)

theorem State.linkUp_flag (hS : s.Inv) (e : Event) :
    ((s.flag .ethPortStatus (port / 4) (2 ^ (port.val % 4))).raise e).linkUp port = true := by
  have hbit : port.val % 4 < 32 := by omega
  have hrd : ((s.flag .ethPortStatus (port / 4) (2 ^ (port.val % 4))).raise e).rd .ethPortStatus (port / 4) 0 =
      (s.rd .ethPortStatus (port / 4) ||| 2 ^ (port.val % 4)) % 2 ^ 32 :=
    (State.rd_portStatus_raise (State.flag_safe s _ _ _ hS) port e).trans (State.rd_wr hS ..)
  unfold State.linkUp State.rb bit
  rw [hrd, Nat.testBit_mod_two_pow, Nat.testBit_or, Nat.testBit_two_pow_self, Bool.or_true, decide_eq_true hbit]
  rfl

theorem State.portDown_up (h : s.linkUp port = true) : s.portDown port =
    (s.wf_ .ethPortStatus (port / 4) (port.val % 4) (port.val % 4) 0).raise (evIf 0x5002 1 port port) := if_pos h

theorem State.linkUp_clear (hS : s.Inv) (e : Event) :
    ((s.wf_ .ethPortStatus (port / 4) (port.val % 4) (port.val % 4) 0).raise e).linkUp port = false := by
  have hbit : port.val % 4 < 32 := by omega
  have hzero : (s.wf_ .ethPortStatus (port / 4) (port.val % 4) (port.val % 4) 0).rb .ethPortStatus (port / 4) (port.val % 4) = false := by
    rw [State.rb_eq_rf, State.rf_wf_ hS _ _ _ (Nat.le_of_lt hbit) hbit, Nat.zero_mod]
    rfl
  exact (State.linkUp_congr (State.rd_portStatus_raise (State.wf__safe s _ _ _ _ _ hS) port e)).trans hzero

end

/-- Settles O50. -/
theorem ethernetPorts : Obligations.EthernetPorts := by
  unfold Obligations.EthernetPorts
  refine fun s port hI => ⟨fun h => ⟨fun f => next_if_neg (by rw [h]; rfl) _ _, next_if_neg h _ _, next_if_neg h _ _⟩, fun halive =>
    ⟨fun h f => next_if_neg (by rw [h]; exact Bool.and_false _) _ _, fun hup f fixed lost => ⟨(State.fecCount_linkUp hI fixed lost).trans hup, ?_⟩,
      fun h => next_congr ((if_pos halive).trans (State.portUp_idle h)),
      fun r hr hdown => ⟨next_congr ((if_pos halive).trans (State.portUp_eq hr hdown)), State.linkUp_flag hI _, ?_, ?_⟩,
      fun hup => ?_, fun h => next_congr ((if_pos halive).trans (if_neg (ne_true_of_eq_false h)))⟩⟩
  · have heq := State.rxFrame_eq ((State.fecCount_linkUp hI fixed lost).trans hup) f
    rw [State.execRxFrame_eq halive hup]
    refine ⟨fun h => ?_, fun h h0 => ?_, fun h h0 => ?_, fun h h0 => ?_, fun h h0 => ?_, fun h h0 => ?_⟩
    · exact next_congr (heq.trans (if_pos h))
    all_goals refine next_congr (heq.trans ((if_neg (not_not_intro h)).trans ?_))
    · exact if_pos h0
    · rw [h0]
      exact (if_neg (by decide)).trans (if_pos rfl)
    · rw [h0]
      exact (if_neg (by decide)).trans ((if_neg (by decide)).trans (if_pos rfl))
    · rw [h0]
      refine (if_neg (by decide)).trans ((if_neg (by decide)).trans ((if_neg (by decide)).trans ?_))
      simp only [true_and]
    · simp only [List.mem_cons, List.not_mem_nil, or_false, not_or] at h0
      obtain ⟨h4, h6, harp, hptp⟩ := h0
      exact (if_neg h4).trans ((if_neg h6).trans ((if_neg harp).trans (if_neg fun h => hptp h.1)))
  · exact (State.raise_net ..).trans (State.flag_net ..)
  · exact (State.raise_mem ..).trans (State.wr_mem ..)
  · exact ⟨next_congr ((if_pos halive).trans (State.portDown_up hup)), _,
      next_congr ((if_pos halive).trans (State.portDown_up hup)), State.linkUp_clear hI _, (State.raise_net ..).trans (State.wr_net ..),
      (State.raise_mem ..).trans (State.wr_mem ..)⟩

end Sys2Proof.Machine
end

section
/-! PROOFS. What the work of arrays and cores leaves alone: quarantine, substitution and programming jobs change cores, arrays, the
record store, registers and events, and nothing else of the state (R47, R145, R311, R312). -/
namespace Sys2Proof.Machine
open Sys2Proof

/-- A part of the state that cores, arrays, their jobs and the record store are not in. -/
structure Fielded {β : Type} (φ : State → β) : Prop extends Quiet φ where
  cores : ∀ t x, φ { t with cores := x } = φ t
  arrays : ∀ t x, φ { t with arrays := x } = φ t
  pgmQueue : ∀ t x, φ { t with pgmQueue := x } = φ t
  recs : ∀ t x, φ { t with recs := x } = φ t
  free : ∀ t x, φ { t with free := x } = φ t

theorem quiet_tal : Quiet State.tal :=
  ⟨⟨fun _ _ => rfl, fun _ _ => rfl, fun _ _ => rfl, fun _ _ => rfl⟩, State.wr_tal, State.raise_tal⟩

theorem quiet_ctxs : Quiet State.ctxs :=
  ⟨⟨fun _ _ => rfl, fun _ _ => rfl, fun _ _ => rfl, fun _ _ => rfl⟩, State.wr_ctxs, State.raise_ctxs⟩

theorem quiet_mem : Quiet State.mem :=
  ⟨⟨fun _ _ => rfl, fun _ _ => rfl, fun _ _ => rfl, fun _ _ => rfl⟩, State.wr_mem, State.raise_mem⟩

theorem fielded_tal : Fielded State.tal := ⟨quiet_tal, fun _ _ => rfl, fun _ _ => rfl, fun _ _ => rfl, fun _ _ => rfl, fun _ _ => rfl⟩

theorem fielded_ctxs : Fielded State.ctxs := ⟨quiet_ctxs, fun _ _ => rfl, fun _ _ => rfl, fun _ _ => rfl, fun _ _ => rfl, fun _ _ => rfl⟩

theorem fielded_mem : Fielded State.mem := ⟨quiet_mem, fun _ _ => rfl, fun _ _ => rfl, fun _ _ => rfl, fun _ _ => rfl, fun _ _ => rfl⟩

namespace Fielded
variable {β : Type} {φ : State → β} (h : Fielded φ) (s : State)
include h

theorem modCore (c : Nat) (f : Core → Core) : φ (s.modCore c f) = φ s := h.cores _ _

theorem modArr (a : Nat) (f : Arr → Arr) : φ (s.modArr a f) = φ s := h.arrays _ _

theorem wf_ (r : Reg) (i hi lo v : Nat) : φ (s.wf_ r i hi lo v) = φ s := h.wr ..

theorem touch (page : Nat) : φ (s.touch page) = φ s := by
  unfold State.touch
  split
  · rfl
  · exact h.recs _ _

theorem storePage (page : Nat) : φ (s.storePage page) = φ s := by
  have hworn (t : State) (c : Bool) (x : RecStore) (e : Event) : φ (if c then ({ t with recs := x } : State).raise e else t) = φ t := by
    split
    · exact (h.raise ..).trans (h.recs _ _)
    · rfl
  have hretired (t : State) (c : Bool) (e : Event) : φ (if c then t.raise e else t) = φ t := by
    split
    · exact h.raise ..
    · rfl
  exact (hretired ..).trans ((hworn ..).trans (h.recs _ _))

theorem storeArr (a : Nat) (rotation : Bool) : φ (s.storeArr a rotation) = φ s := by
  unfold State.storeArr
  split
  · exact h.touch ..
  · exact h.storePage ..

theorem endJob (a : Nat) (st : ArrSt) : φ (s.endJob a st) = φ s :=
  (h.storeArr ..).trans ((h.modArr ..).trans (h.pgmQueue _ _))

theorem degrade (c : Nat) : φ (s.degrade c) = φ s := by
  unfold State.degrade
  dsimp only
  split
  · rfl
  · split
    · exact h.modCore ..
    · exact (h.raise ..).trans (h.modCore ..)

theorem suspendReplay (a : Nat) : φ (s.suspendReplay a) = φ s := by
  unfold State.suspendReplay
  dsimp only
  split
  · exact (h.degrade ..).trans (h.modCore ..)
  · rfl

theorem startJob (a scope first last version src start : Nat) (rotation : Bool) :
    φ (s.startJob a scope first last version src start rotation) = φ s := by
  have hqueue (t : State) (c : Bool) (x : List Nat) : φ (if c then { t with pgmQueue := x } else t) = φ t := by
    split
    · exact h.pgmQueue _ _
    · rfl
  exact (h.storeArr ..).trans ((hqueue ..).trans (h.arrays _ _))

theorem startTile (img : Image) (layer t : Nat) (e : GridEntry) (scope a : Nat) (resume rotation : Bool) :
    φ (s.startTile img layer t e scope a resume rotation) = φ s := by
  have hgive (c : Bool) : φ (if c then s.endJob a .partial_ else s) = φ s := by
    split
    · exact h.endJob ..
    · rfl
  unfold State.startTile
  dsimp only
  split
  all_goals
    simp only [h.suspendReplay, h.startJob, h.wf_, h.wr]
    exact hgive _

theorem spareCommit (c : Nat) : φ (s.spareCommit c) = φ s := by
  unfold State.spareCommit
  dsimp only
  split
  · exact (h.raise ..).trans ((h.flag ..).trans (h.modCore ..))
  · exact h.modCore ..

theorem autoSpare (c l : Nat) : φ (s.autoSpare c l) = φ s := by
  unfold State.autoSpare
  dsimp only
  split
  · rfl
  · split
    · rfl
    · split
      · rfl
      · split
        · exact (h.spareCommit ..).trans ((h.wr ..).trans (h.wr ..))
        · split
          · rfl
          · exact (h.modCore ..).trans ((h.startTile ..).trans ((h.wr ..).trans (h.wr ..)))

theorem calSuspend (c l : Nat) : φ (s.calSuspend c l) = φ s := by
  unfold State.calSuspend
  dsimp only
  split
  · exact h.modArr ..
  · exact (h.modCore ..).trans (h.modArr ..)

theorem unserve (c l : Nat) : φ (s.unserve c l) = φ s := by
  unfold State.unserve
  dsimp only
  split
  · exact (h.storeArr ..).trans ((h.modArr ..).trans (h.calSuspend ..))
  · rfl

theorem noSpareFor (c l slot : Nat) : φ (s.noSpareFor c l slot) = φ s := (h.raise ..).trans (h.flag ..)

theorem quarantine (c l : Nat) : φ (s.quarantine c l) = φ s := by
  have htold (t : State) (c : Bool) (i l slot : Nat) : φ (if c then t.noSpareFor i l slot else t) = φ t := by
    split
    · exact h.noSpareFor ..
    · rfl
  unfold State.quarantine
  dsimp only
  split
  · rfl
  · split
    all_goals
      simp only [h.autoSpare, htold, h.flag, h.raise, h.modCore, h.unserve]

theorem faultCount (perm : Bool) : φ (s.faultCount perm) = φ s := by
  unfold State.faultCount
  dsimp only
  split
  · exact h.wr ..
  · exact h.wr ..

theorem permArr (c l mech pair : Nat) (exact_ : Bool) (row : Nat) : φ (s.permArr c l mech pair exact_ row) = φ s := by
  unfold State.permArr
  dsimp only
  split
  · rw [h.raise, h.raise, h.faultCount]
  · rw [h.raise, h.faultCount]

theorem transient (c l mech : Nat) : φ (s.transient c l mech) = φ s := (h.raise ..).trans (h.faultCount ..)

theorem reserved (c n : Nat) : φ (s.reserved c n) = φ s := by
  unfold State.reserved
  split
  · rfl
  · exact (h.count ..).trans (h.bump ..)

theorem convertAll (a fb i trim : Nat) (drive : List Int) : φ (s.convertAll a fb i trim drive).2 = φ s := by
  obtain ⟨n, hn⟩ := (State.convertAll_spec s a fb i trim drive).1
  rw [hn]
  exact h.free _ _

theorem probeRun (c l : Nat) (vec : List Byte) : φ (s.probeRun c l vec).2.2 = φ s := by
  have hconv : ∀ t a fb i trim drive, φ (State.convertAll t a fb i trim drive).2 = φ t := h.convertAll
  unfold State.probeRun
  generalize State.convertAll = convert at hconv ⊢
  extract_lets a fb drive s0
  split
  next xs t hfold =>
    have hkept : φ (xs, t).2 = φ s := by
      rw [← hfold]
      refine foldl_keeps (P := fun q : List (Nat × Int) × State => φ q.2 = φ s) ?_ _ (h.reserved s c _)
      intro p i hp
      split
      next xs t =>
      split
      next v t1 hone =>
      have hstep := hconv t a fb i (t.rd .arrTrimCfg a) drive
      rw [hone] at hstep
      exact hstep.trans hp
    exact hkept

theorem probe (img : Image) (r j : Nat) : φ (s.probe img r j).2.2 = φ s := by
  have hrun : ∀ t c l vec, φ (State.probeRun t c l vec).2.2 = φ t := h.probeRun
  unfold State.probe
  generalize State.probeRun = run at hrun ⊢
  dsimp only
  split
  · split
    · rfl
    · split
      · exact hrun ..
      · split
        · exact (h.quarantine ..).trans ((h.permArr ..).trans ((hrun ..).trans (hrun ..)))
        · exact (h.transient ..).trans ((hrun ..).trans (hrun ..))
  · rfl

theorem probes (r : Nat) : φ (s.probes r).2.2 = φ s := by
  unfold State.probes
  split
  next img ref himg =>
    refine foldl_keeps (P := fun p : List (List Byte) × Bool × State => φ p.2.2 = φ s) ?_ _ rfl
    rintro ⟨ps, bad, t⟩ j ht
    dsimp only at ht ⊢
    split
    next p b t1 hp =>
      have hprobe := h.probe t img r j
      rw [hp] at hprobe
      exact hprobe.trans ht
    next b t1 hp =>
      have hprobe := h.probe t img r j
      rw [hp] at hprobe
      exact hprobe.trans ht
  next => rfl

end Fielded

end Sys2Proof.Machine
end

section
/-! PROOFS. Rounds and tallies of a replica group (R348 to R355). -/
namespace Sys2Proof.Machine
open Sys2Proof

section
variable {s : State}

/-! ### The verdict -/

/-- The tallies held of round `r`, by member. -/
def State.talGot (s : State) (r : Nat) : List (Nat × List Byte) :=
  s.tal.members.filterMap (fun m => (s.tal.tallies.find? (8 * r + m)).map (fun p => (m, p)))

/-- The members with no tally of round `r`. -/
def State.talQuiet (s : State) (r : Nat) : List Nat := s.tal.members.filter (fun m => !(s.talGot r).any (fun e => e.1 = m))

/-- Round `r` decided, with the silence of each member noted. -/
def Tal.decide (t : Tal) (r : Nat) (silent : NMap Nat) : Tal :=
  { t with silent := silent, decided := r + 1, tallies := t.tallies.filter (fun e => 8 * r + 8 ≤ e.1) }

theorem State.talVerdict_agreed {r : Nat} (hquiet : s.talQuiet r = []) (hone : (tallyClasses (s.talGot r)).length = 1) :
    ∃ silent, s.talVerdict r =
      ((s.modTal fun t => t.decide r silent).modTal fun t => { t with agree := r, st := .member }).talJoined r := by
  unfold State.talVerdict
  extract_lets me ms got quiet count s1 s2 lost cls big own whole mis join
  have hq : quiet = [] := hquiet
  have hl : lost = [] := by rw [show lost = quiet.filter _ from rfl, hq]; rfl
  have hw : whole = true := by
    rw [show whole = (decide (cls.length = 1) && lost.isEmpty && (quiet.isEmpty || big.isSome)) from rfl, hq, hl,
      show cls.length = 1 from hone]
    rfl
  have h2 : s2 = s1 := by rw [show s2 = s1.each quiet _ from rfl, hq]; rfl
  rw [if_pos hw, h2, hq]
  exact ⟨_, rfl⟩

section
variable {r : Nat} {p0 : List Byte}
  (hall : ∀ m ∈ s.tal.members, ∃ p, s.tal.tallies.find? (8 * r + m) = some p ∧ tallyCore p = tallyCore p0)
include hall

theorem State.talGot_agreed : ∀ e ∈ s.talGot r, tallyCore e.2 = tallyCore p0 := by
  intro e he
  obtain ⟨m, hm, hme⟩ := List.mem_filterMap.mp he
  obtain ⟨p, hp, hcore⟩ := hall m hm
  rw [hp] at hme
  obtain rfl := Option.some.inj hme
  exact hcore

theorem State.exists_mem_talGot {m : Nat} (hm : m ∈ s.tal.members) : ∃ p, (m, p) ∈ s.talGot r := by
  obtain ⟨p, hp, _⟩ := hall m hm
  exact ⟨p, List.mem_filterMap.mpr ⟨m, hm, by rw [hp]; rfl⟩⟩

theorem State.talQuiet_agreed : s.talQuiet r = [] := by
  refine List.filter_eq_nil_iff.mpr fun m hm => ?_
  obtain ⟨p, hp⟩ := State.exists_mem_talGot hall hm
  rw [Bool.not_eq_true', Bool.not_eq_false, List.any_eq_true]
  exact ⟨_, hp, decide_eq_true rfl⟩

end

theorem eraseDups_of_forall_eq {k : List Byte} {xs : List (List Byte)} (hne : xs ≠ []) (h : ∀ x ∈ xs, x = k) : xs.eraseDups = [k] := by
  obtain ⟨x, ys, rfl⟩ := List.exists_cons_of_ne_nil hne
  obtain rfl := h x List.mem_cons_self
  have hrest : ys.filter (fun b => !b == x) = [] := by
    refine List.filter_eq_nil_iff.mpr fun a ha => ?_
    rw [h a (List.mem_cons_of_mem _ ha), beq_self_eq_true]
    decide
  rw [List.eraseDups_cons, hrest]
  rfl

theorem tallyClasses_agreed {xs : List (Nat × List Byte)} {k : List Byte} (hne : xs ≠ []) (hall : ∀ e ∈ xs, tallyCore e.2 = k) :
    (tallyClasses xs).length = 1 := by
  have hcores : (xs.map (fun (_, p) => tallyCore p)).eraseDups = [k] := by
    refine eraseDups_of_forall_eq (fun h => hne (List.map_eq_nil_iff.mp h)) fun x hx => ?_
    obtain ⟨e, he, rfl⟩ := List.mem_map.mp hx
    exact hall e he
  rw [tallyClasses, hcores]
  rfl

/-! ### Rounds that close -/

/-- A round that closes, and the own tally kept for it (R350, R352). -/
def Tal.closeRound (t : Tal) (k me now : Nat) (pay : List Byte) : Tal :=
  { t with
    closed := t.closed + 1, acc := 0, updates := 0, done := t.done.filter (t.closed * k < ·),
    tallies := t.tallies.set [] (8 * t.closed + me) pay, sentAt := now }

/-- The round that closes next is due: the one before it is decided, and its group steps are done (R349). -/
def State.RoundDue (s : State) : Prop :=
  s.alive = true ∧ s.tal.active = true ∧ s.tal.closed ≤ s.tal.decided ∧
    (if s.tal.closed = 0 then [] else (List.range s.talK).map (fun i => (s.tal.closed - 1) * s.talK + 1 + i)).all s.tal.done.contains = true

theorem State.roundDue_iff : (!s.alive || !s.tal.active || decide (s.tal.decided < s.tal.closed) ||
    !(if s.tal.closed = 0 then [] else (List.range s.talK).map (fun i => (s.tal.closed - 1) * s.talK + 1 + i)).all s.tal.done.contains) = true
      ↔ ¬ s.RoundDue := by
  unfold State.RoundDue
  generalize List.all _ s.tal.done.contains = b
  simp only [Bool.or_eq_true, Bool.not_eq_true', ← Bool.not_eq_true, decide_eq_true_iff, ← Nat.not_le, Classical.not_and_iff_not_or_not, or_assoc]

theorem Wired.syncSend {β : Type} {φ : State → β} (h : Wired φ) (s : State) (m r : Nat) : φ (s.syncSend m r) = φ s :=
  State.each_keeps φ (fun _ _ => h.srnSend ..) s _

theorem Wired.talSend {β : Type} {φ : State → β} (h : Wired φ) (s : State) (ps : List Nat) (typ : Nat) (pay : List Byte) :
    φ (s.talSend ps typ pay) = φ s :=
  State.each_keeps φ (fun _ _ => h.srnSend ..) s _

theorem State.roundClose_idle (h : ¬ s.RoundDue) : s.roundClose = s := if_pos (State.roundDue_iff.mpr h)

theorem State.roundClose_due (h : s.RoundDue) : ∃ u pay, s.roundClose = State.talCheck u ∧
    u.tal = s.tal.closeRound s.talK s.talMe s.time pay ∧ u.ctxs = s.ctxs ∧ u.mem = s.mem := by
  unfold State.roundClose
  extract_lets t r k due lone lead ver
  rw [if_neg fun hc => State.roundDue_iff.mp hc h]
  split
  next ps bad s1 hs1 =>
  have hkeep {β : Type} {φ : State → β} (hφ : Fielded φ) : φ s1 = φ s := by
    have hprobes := hφ.probes s r
    split at hs1
    · cases hs1
      rfl
    · rw [hs1] at hprobes
      exact hprobes
  extract_lets pay s2 s3 s4
  have hsend {β : Type} {φ : State → β} (hφ : Quiet φ) : φ s4 = φ s2 := by
    have h3 : φ s3 = φ s2 := by
      unfold s3
      split
      · rfl
      · exact hφ.talSend ..
    refine Eq.trans ?_ h3
    unfold s4
    split
    · exact State.each_keeps φ (fun _ _ => hφ.syncSend ..) s3 _
    · rfl
  refine ⟨s4, pay, rfl, ?_, ?_, ?_⟩
  · rw [hsend quiet_tal]
    have htal : s1.tal = s.tal := hkeep fielded_tal
    unfold s2 State.modTal
    dsimp only
    rw [htal]
    rfl
  · exact (hsend quiet_ctxs).trans (hkeep fielded_ctxs)
  · exact (hsend quiet_mem).trans (hkeep fielded_mem)

theorem State.talCheck_lone (hact : s.tal.active = true) (hclosed : s.tal.decided < s.tal.closed) (hlone : s.tal.members.length ≤ 1) :
    s.talCheck = (s.modTal (fun t => { t with decided := t.closed, tallies := [], agree := s.tal.decided, st := .member })).talJoined
      s.tal.decided := by
  refine (if_neg ?_).trans (if_pos hlone)
  rw [hact, Bool.or_eq_true, decide_eq_true_iff]
  rintro (h | h)
  · exact nomatch h
  · exact absurd hclosed (Nat.not_lt.mpr h)

theorem State.roundClose_lone (h : s.RoundDue) (hlone : s.tal.members.length ≤ 1) (hr : s.tal.decided = s.tal.closed) :
    ∃ t, s.roundClose = t ∧ t.tal.closed = s.tal.closed + 1 ∧ t.tal.decided = s.tal.closed + 1 ∧ t.tal.acc = 0 ∧ t.tal.updates = 0 ∧
      t.tal.agree = s.tal.closed ∧ t.tal.st = .member ∧ t.mem = s.mem ∧ t.ctxs = s.ctxs := by
  obtain ⟨u, pay, hu, htal, hctxs, hmem⟩ := State.roundClose_due h
  have hdec : u.tal.decided = s.tal.closed := by rw [htal]; exact hr
  have hclosed : u.tal.closed = s.tal.closed + 1 := by rw [htal]; rfl
  have hcheck := State.talCheck_lone (s := u) (by rw [htal]; exact h.2.1) (by rw [hdec, hclosed]; exact Nat.lt_succ_self _)
    (by rw [htal]; exact hlone)
  refine ⟨_, hu.trans hcheck, hclosed, hclosed, ?_, ?_, hdec, rfl, hmem, hctxs⟩
  · exact (congrArg Tal.acc htal).trans rfl
  · exact (congrArg Tal.updates htal).trans rfl

theorem State.tallyMsg_none (peer : Nat) (h : s.nextMsg peer 0x31 = none) : s.tallyMsg peer = s := by
  rw [State.tallyMsg, h]

end

/-- Settles O49. -/
theorem groupRounds : Obligations.GroupRounds := by
  unfold Obligations.GroupRounds
  refine ⟨fun s r p0 hne hall => ?_, fun s peer => ⟨fun h => next_congr (State.roundClose_idle h), fun h hlone hr => ?_, fun h hmany => ?_,
    fun h => ?_, fun ch m halive hm => ⟨fun h => ?_, fun hgroup hact hmem hme hr => ?_⟩, fun h => ?_, fun h => ?_⟩⟩
  · obtain ⟨m, hm⟩ := List.exists_mem_of_ne_nil _ hne
    obtain ⟨p, hp⟩ := State.exists_mem_talGot hall hm
    have hone := tallyClasses_agreed (List.ne_nil_of_mem hp) (State.talGot_agreed hall)
    obtain ⟨silent, heq⟩ := State.talVerdict_agreed (State.talQuiet_agreed hall) hone
    rw [heq]
    exact ⟨rfl, rfl, rfl, rfl, rfl, rfl, rfl⟩
  · obtain ⟨t, ht, hrest⟩ := State.roundClose_lone h hlone hr
    exact ⟨t, next_congr ht, hrest⟩
  · obtain ⟨u, pay, hu, htal, hctxs, _⟩ := State.roundClose_due h
    refine ⟨u, next_congr hu, ?_⟩
    rw [htal]
    exact ⟨rfl, rfl, rfl, rfl, rfl, rfl, hctxs⟩
  · obtain h | h := h
    · exact next_if_neg h _ _
    · refine next_congr ?_
      split
      · exact State.tallyMsg_none _ h
      · rfl
  · refine next_congr ((if_pos halive).trans ?_)
    rw [State.tallyMsg, hm]
    refine if_pos ?_
    simp only [Bool.or_eq_true, Bool.not_eq_true', decide_eq_true_iff, or_assoc]
    exact h
  · refine next_congr ((if_pos halive).trans ?_)
    rw [State.tallyMsg, hm]
    refine if_neg ?_
    simp only [Bool.or_eq_true, Bool.not_eq_true', decide_eq_true_iff, not_or, Bool.not_eq_false, Nat.not_lt]
    exact ⟨⟨⟨⟨hgroup, hact⟩, hmem⟩, hme⟩, hr⟩
  · refine next_congr (if_neg ?_)
    simp only [Bool.and_eq_true, decide_eq_true_iff, and_assoc]
    exact h
  · refine next_congr (if_pos ?_)
    simp only [Bool.and_eq_true, decide_eq_true_iff, and_assoc]
    exact h

end Sys2Proof.Machine
end

section
/-! PROOFS. Commands and messages of a replica group (R346, R348, R355, R356). -/
namespace Sys2Proof.Machine
open Sys2Proof

theorem wired_regs : Wired State.regs := ⟨fun _ _ => rfl, fun _ _ => rfl, fun _ _ => rfl, fun _ _ => rfl⟩

section
variable {s : State}

/-! ### Commands -/

theorem State.talJoin_busy (h : s.tal.st ≠ .idle) : s.talJoin = s.talCode 1 := if_pos h

theorem State.talJoin_unequal (h : s.tal.st = .idle) (hon : s.rb .chkCkptCfg 0 31 = true)
    (hne : s.rf .chkCkptCfg 0 12 0 ≠ s.rf .talCfg 0 12 0) : s.talJoin = s.talCode 2 :=
  (if_neg (not_not_intro h)).trans (if_pos (by rw [hon, Bool.true_and]; exact decide_eq_true hne))

theorem State.talJoin_forms (h : s.tal.st = .idle) (heq : s.rb .chkCkptCfg 0 31 = false ∨ s.rf .chkCkptCfg 0 12 0 = s.rf .talCfg 0 12 0) :
    ∃ t, s.talJoin = t ∧ t.tal.st = .forming ∧ t.tal.members = [s.talMe] ∧ t.ctxs = s.ctxs ∧ t.mem = s.mem := by
  have hcfg : ¬ (s.rb .chkCkptCfg 0 31 && decide (s.rf .chkCkptCfg 0 12 0 ≠ s.rf .talCfg 0 12 0)) = true := by
    rw [Bool.and_eq_true, decide_eq_true_iff]
    rintro ⟨hon, hne⟩
    obtain h | h := heq
    · exact absurd hon (ne_true_of_eq_false h)
    · exact hne h
  refine ⟨_, (if_neg (not_not_intro h)).trans (if_neg hcfg), ?_, ?_, quiet_ctxs.talSend .., quiet_mem.talSend ..⟩
  · rw [quiet_tal.talSend]
    rfl
  · rw [quiet_tal.talSend]
    rfl

theorem State.talLeave_idle (h : s.tal.st = .idle) : s.talLeave = s.talCode 1 := if_pos h

theorem State.talLeave_leaves (h : s.tal.st ≠ .idle) : ∃ t, s.talLeave = t ∧ t.tal = {} ∧ t.ctxs = s.ctxs ∧ t.mem = s.mem :=
  ⟨_, if_neg h, rfl, quiet_ctxs.talSend .., quiet_mem.talSend ..⟩

theorem State.talExpel_refused (m : Nat) (h : s.tal.active = false ∨ s.tal.members.contains m = false) : s.talExpel m = s.talCode 1 := by
  refine if_pos ?_
  rw [Bool.or_eq_true, Bool.not_eq_true', Bool.not_eq_true']
  exact h

theorem State.talExpel_eq (m : Nat) (hact : s.tal.active = true) (hmem : s.tal.members.contains m = true) : s.talExpel m =
    ((s.talSend s.talOthers 0x32 (leBytes 1 (s.rf .talGroup 0 7 0) ++ leBytes 1 s.talMe ++ leBytes 1 m ++ [0] ++
      leBytes 8 operatorRound)).talOperator m).talCode 0 := by
  refine if_neg ?_
  rw [hact, hmem]
  decide

theorem State.talMe_congr {t : State} (h : t.regs = s.regs) : t.talMe = s.talMe := State.rf_of_regs h ..

theorem State.talOperator_self (h : m = s.talMe) : s.talOperator m = s.talExpelled (s.tal.closed - 1) true ∧
    (s.talOperator m).tal.st = .expelled := by
  have heq : s.talOperator m = s.talExpelled (s.tal.closed - 1) true := if_pos h
  refine ⟨heq, ?_⟩
  rw [heq, State.talExpelled]
  exact congrArg Tal.st ((quiet_tal.raise ..).trans (quiet_tal.flag ..))

/-! ### Messages -/

theorem State.helloMsg_none {peer : Nat} (h : s.nextMsg peer 0x30 = none) : s.helloMsg peer = s := by rw [State.helloMsg, h]

theorem State.leaveMsg_none {peer : Nat} (h : s.nextMsg peer 0x33 = none) : s.leaveMsg peer = s := by rw [State.leaveMsg, h]

theorem State.expelMsg_none {peer : Nat} (h : s.nextMsg peer 0x32 = none) : s.expelMsg peer = s := by rw [State.expelMsg, h]

theorem State.syncMsg_none {peer : Nat} (h : s.nextMsg peer 0x34 = none) : s.syncMsg peer = s := by rw [State.syncMsg, h]

/-- What a GROUP_HELLO of this group from another member does at a member (R348). -/
def State.helloHeard (s : State) (peer : Nat) (p : List Byte) : State :=
  let i := leAt p 1 1
  let same := leAt p 4 4 = s.talCrc
  if s.tal.st = .forming then
    if !same then s.talRaise 0x3101 2 0 (3 + 256 * 2 ^ i)
    else if leAt p 2 1 = 3 then
      s.modTal (fun t => { t with st := .syncing, members := if t.members.contains i then t.members else t.members ++ [i] })
    else if s.tal.hello.contains i then s
    else ((s.srnSend peer 0 0x30 s.hello).2.modTal (fun t => { t with hello := i :: t.hello })).talForm
  else if s.tal.st = .syncing then
    if same && leAt p 2 1 = 3 then
      s.modTal (fun t => { t with members := if t.members.contains i then t.members else t.members ++ [i] }) else s
  else if s.tal.active && leAt p 2 1 = 1 then
    let s2 := (s.srnSend peer 0 0x30 s.hello).2
    if same && !s.tal.members.contains i then
      (s2.modTal (fun t => { t with joining := t.joining.filter (fun j => j.1 ≠ i) ++ [(i, s2.joinRound)] }))
    else s2
  else s

theorem State.helloMsg_eq {peer ch : Nat} {m : InMsg} (hm : s.nextMsg peer 0x30 = some (ch, m)) : s.helloMsg peer =
    if !(s.tookMsg peer ch).ofGroup m.payload || leAt m.payload 1 1 = (s.tookMsg peer ch).talMe then s.tookMsg peer ch
    else (s.tookMsg peer ch).helloHeard peer m.payload := by
  rw [State.helloMsg, hm] <;> rfl

section
variable {peer : Nat} {p : List Byte}

theorem State.helloHeard_deaf (h : s.tal.st = .idle ∨ s.tal.st = .expelled) : s.helloHeard peer p = s := by
  unfold State.helloHeard Tal.active
  obtain h | h := h
  · rw [h]; rfl
  · rw [h]; rfl

theorem State.helloHeard_unequal (h : s.tal.st = .forming) (hs : ¬ leAt p 4 4 = s.talCrc) :
    s.helloHeard peer p = s.talRaise 0x3101 2 0 (3 + 256 * 2 ^ leAt p 1 1) :=
  (if_pos h).trans (if_pos (by simpa using hs))

theorem State.helloHeard_joins (h : s.tal.st = .forming) (hs : leAt p 4 4 = s.talCrc) (hst : leAt p 2 1 = 3) : s.helloHeard peer p =
    (s.modTal (fun t => { t with st := .syncing })).modTal
      (fun t => { t with members := if t.members.contains (leAt p 1 1) then t.members else t.members ++ [leAt p 1 1] }) :=
  (if_pos h).trans ((if_neg (by simpa using hs)).trans (if_pos hst))

theorem State.helloHeard_forms (h : s.tal.st = .forming) (hs : leAt p 4 4 = s.talCrc) (hst : leAt p 2 1 ≠ 3) : s.helloHeard peer p =
    if s.tal.hello.contains (leAt p 1 1) then s
    else ((s.srnSend peer 0 0x30 s.hello).2.modTal (fun t => { t with hello := leAt p 1 1 :: t.hello })).talForm :=
  (if_pos h).trans ((if_neg (by simpa using hs)).trans (if_neg hst))

theorem State.helloHeard_syncs (h : s.tal.st = .syncing) : s.helloHeard peer p =
    if leAt p 4 4 = s.talCrc ∧ leAt p 2 1 = 3 then
      s.modTal (fun t => { t with members := if t.members.contains (leAt p 1 1) then t.members else t.members ++ [leAt p 1 1] })
    else s := by
  refine (if_neg (by rw [h]; decide)).trans ((if_pos h).trans ?_)
  simp only [Bool.and_eq_true, decide_eq_true_iff]

theorem Tal.st_of_active {t : Tal} (h : t.active = true) : t.st ≠ .forming ∧ t.st ≠ .syncing := by
  unfold Tal.active at h
  constructor
  · intro hst
    rw [hst] at h
    exact nomatch h
  · intro hst
    rw [hst] at h
    exact nomatch h

theorem State.helloHeard_active (h : s.tal.active = true) : s.helloHeard peer p = if leAt p 2 1 = 1 then
      if leAt p 4 4 = s.talCrc ∧ s.tal.members.contains (leAt p 1 1) = false then
        (s.srnSend peer 0 0x30 s.hello).2.modTal (fun t => { t with
          joining := t.joining.filter (fun j => j.1 ≠ leAt p 1 1) ++ [(leAt p 1 1, (s.srnSend peer 0 0x30 s.hello).2.joinRound)] })
      else (s.srnSend peer 0 0x30 s.hello).2
    else s := by
  obtain ⟨hforming, hsyncing⟩ := Tal.st_of_active h
  refine (if_neg hforming).trans ((if_neg hsyncing).trans ?_)
  simp only [h, Bool.true_and, Bool.and_eq_true, decide_eq_true_iff, Bool.not_eq_true']

end

theorem State.leaveMsg_eq {peer ch : Nat} {m : InMsg} (hm : s.nextMsg peer 0x33 = some (ch, m)) : s.leaveMsg peer =
    if (s.tookMsg peer ch).ofGroup m.payload = true ∧ leAt m.payload 1 1 ≠ (s.tookMsg peer ch).talMe then
      ((s.tookMsg peer ch).talRemove [leAt m.payload 1 1] 0 false).talCheck
    else s.tookMsg peer ch := by
  rw [State.leaveMsg, hm]
  dsimp only
  split
  · next h =>
    refine (if_neg ?_).symm
    rw [Bool.or_eq_true, Bool.not_eq_true', decide_eq_true_iff] at h
    rintro ⟨h1, h2⟩
    obtain h | h := h
    · exact absurd h1 (ne_true_of_eq_false h)
    · exact h2 h
  · next h =>
    refine (if_pos ?_).symm
    rw [Bool.or_eq_true, Bool.not_eq_true', decide_eq_true_iff, not_or, Bool.not_eq_false] at h
    exact h

/-- An EXPEL message that counts: of this group, about a member and from a member, while rounds run (R348). -/
def State.expelHeard (s : State) (p : List Byte) : Prop := s.ofGroup p = true ∧ s.tal.active = true ∧
  s.tal.members.contains (leAt p 2 1) = true ∧ s.tal.members.contains (leAt p 1 1) = true

theorem State.expelHeard_iff {p : List Byte} : (!s.ofGroup p || !s.tal.active || !s.tal.members.contains (leAt p 2 1) ||
    !s.tal.members.contains (leAt p 1 1)) = true ↔ ¬ s.expelHeard p := by
  simp only [State.expelHeard, Bool.or_eq_true, Bool.not_eq_true', ← Bool.not_eq_true, Classical.not_and_iff_not_or_not, or_assoc]

theorem State.expelMsg_unheard {peer ch : Nat} {m : InMsg} (hm : s.nextMsg peer 0x32 = some (ch, m))
    (h : ¬ (s.tookMsg peer ch).expelHeard m.payload) : s.expelMsg peer = s.tookMsg peer ch := by
  rw [State.expelMsg, hm]
  exact if_pos (State.expelHeard_iff.mpr h)

theorem State.expelMsg_operator {peer ch : Nat} {m : InMsg} (hm : s.nextMsg peer 0x32 = some (ch, m))
    (h : (s.tookMsg peer ch).expelHeard m.payload) (hop : leAt m.payload 4 8 = operatorRound) :
    s.expelMsg peer = (s.tookMsg peer ch).talOperator (leAt m.payload 2 1) := by
  rw [State.expelMsg, hm]
  exact (if_neg fun hc => State.expelHeard_iff.mp hc h).trans (if_pos hop)

theorem State.expelMsg_vote {peer ch : Nat} {m : InMsg} (hm : s.nextMsg peer 0x32 = some (ch, m))
    (h : (s.tookMsg peer ch).expelHeard m.payload) (hop : leAt m.payload 4 8 ≠ operatorRound) :
    let s1 := s.tookMsg peer ch
    let i := leAt m.payload 2 1
    let v := (leAt m.payload 1 1, i)
    let s2 := s1.modTal (fun t => { t with votes := if t.votes.contains v then t.votes else v :: t.votes })
    s.expelMsg peer = if 2 * (s2.tal.votes.filter (fun v => v.2 = i)).length ≤ s1.tal.members.length then s2
      else if i = s1.talMe then s2.talExpelled (leAt m.payload 4 8) false
      else (s2.talRemove [i] (leAt m.payload 4 8) true).talCheck := by
  intro s1 i v s2
  rw [State.expelMsg, hm]
  refine (if_neg fun hc => State.expelHeard_iff.mp hc h).trans ((if_neg hop).trans ?_)
  exact (ite_congr (propext Nat.not_le.symm) (fun _ => rfl) fun _ => rfl).trans (ite_not ..)

/-- A context of a synchronisation that this member takes (R348). -/
def State.syncOurs (s : State) (p : List Byte) : Prop := s.tal.st = .syncing ∧ (s.ctx (leAt p 0 2)).st = .bound ∧
  (s.ctx (leAt p 0 2)).pack = leAt p 20 16 ∧ (s.ctx (leAt p 0 2)).stBlocks = leAt p 2 2

theorem State.syncOurs_iff {p : List Byte} : (decide (s.tal.st ≠ .syncing) || decide ((s.ctx (leAt p 0 2)).st ≠ .bound) ||
    decide ((s.ctx (leAt p 0 2)).pack ≠ leAt p 20 16) || decide ((s.ctx (leAt p 0 2)).stBlocks ≠ leAt p 2 2)) = true ↔ ¬ s.syncOurs p := by
  simp only [State.syncOurs, Bool.or_eq_true, decide_eq_true_iff, Classical.not_and_iff_not_or_not, or_assoc, ne_eq]

theorem State.syncMsg_other {peer ch : Nat} {m : InMsg} (hm : s.nextMsg peer 0x34 = some (ch, m))
    (h : ¬ (s.tookMsg peer ch).syncOurs m.payload) : s.syncMsg peer = s.tookMsg peer ch := by
  rw [State.syncMsg, hm]
  exact if_pos (State.syncOurs_iff.mpr h)

theorem State.syncMsg_ours {peer ch : Nat} {m : InMsg} (hm : s.nextMsg peer 0x34 = some (ch, m))
    (h : (s.tookMsg peer ch).syncOurs m.payload) :
    let s1 := s.tookMsg peer ch
    let c := leAt m.payload 0 2
    let w := s1.wireIn (s1.ctx c).stAddr (leAt m.payload 2 2) (m.payload.drop (40 + 16 * 4112))
    let z := w.2.syncAdapter c ((m.payload.drop 40).take (16 * 4112))
    let s4 := (z.2.modCtx c (fun y => { y with step := leAt m.payload 4 8 })).modTal
      (fun t => { t with synced := if t.synced.contains c then t.synced else c :: t.synced })
    s.syncMsg peer = if !w.1 || !z.1 then z.2
      else if s4.talCtxs.all s4.tal.synced.contains then s4.talSynced (leAt m.payload 12 8) else s4 := by
  rw [State.syncMsg, hm]
  generalize State.wireIn = wire
  generalize State.syncAdapter = adapt
  exact if_neg fun hc => State.syncOurs_iff.mp hc h

end

/-- Settles O48. -/
theorem groupCommands : Obligations.GroupCommands := by
  unfold Obligations.GroupCommands
  refine ⟨fun s path m hI => ⟨fun ha => ⟨next_asked_unanswered ha _, next_asked_unanswered ha _, next_asked_unanswered ha _⟩, fun ha => ?_⟩,
    fun s peer => ⟨fun h x hx => ?_, fun halive => ?_⟩⟩
  · have hjoin : exec (.join path) s = .next s.talJoin := next_congr (State.asked_answered ha _)
    have hleave : exec (.leave path) s = .next s.talLeave := next_congr (State.asked_answered ha _)
    have hexpel : exec (.expel path m) s = .next (s.talExpel m) := next_congr (State.asked_answered ha _)
    rw [hjoin, hleave, hexpel]
    refine ⟨fun h => next_congr (State.talJoin_busy h), fun h heq => ?_, fun h hon hne => next_congr (State.talJoin_unequal h hon hne),
      fun h => next_congr (State.talLeave_idle h), fun h => ?_, fun h => next_congr (State.talExpel_refused _ h),
      fun hact hmem => ⟨next_congr (State.talExpel_eq _ hact hmem), fun hme => ?_, fun hme => ?_⟩⟩
    · obtain ⟨t, ht, hrest⟩ := State.talJoin_forms h heq
      exact ⟨t, next_congr ht, hrest⟩
    · obtain ⟨t, ht, hrest⟩ := State.talLeave_leaves h
      exact ⟨t, next_congr ht, hrest⟩
    · exact State.talOperator_self (hme.trans (State.talMe_congr (wired_regs.talSend ..)).symm)
    · exact if_neg fun h => hme (h.trans (State.talMe_congr (wired_regs.talSend ..)))
  · simp only [List.mem_cons, List.not_mem_nil, or_false] at hx
    obtain rfl | rfl | rfl | rfl := hx
    · exact next_if_neg h _ _
    · exact next_if_neg h _ _
    · exact next_if_neg h _ _
    · exact next_if_neg h _ _
  · have hhello : exec (.groupHello peer) s = .next (s.helloMsg peer) := next_congr (if_pos halive)
    have hleave : exec (.leaveMessage peer) s = .next (s.leaveMsg peer) := next_congr (if_pos halive)
    have hexpel : exec (.expelMessage peer) s = .next (s.expelMsg peer) := next_congr (if_pos halive)
    have hsync : exec (.syncCtx peer) s = .next (s.syncMsg peer) := next_congr (if_pos halive)
    rw [hhello, hleave, hexpel, hsync]
    refine ⟨fun h => next_congr (State.helloMsg_none h), fun h => next_congr (State.leaveMsg_none h), fun h => next_congr (State.expelMsg_none h),
      fun h => next_congr (State.syncMsg_none h), fun ch m hm => ?_, fun ch m hm => next_congr (State.leaveMsg_eq hm), fun ch m hm => ?_,
      fun ch m hm => ?_⟩
    · rw [State.helloMsg_eq hm]
      generalize s.tookMsg peer ch = s1
      refine ⟨fun h => ?_, fun hgroup hme => ?_⟩
      · refine next_congr ?_
        split
        · rfl
        · next hc =>
          rw [Bool.or_eq_true, Bool.not_eq_true', decide_eq_true_iff, not_or] at hc
          obtain h | h | h := h
          · exact absurd h hc.1
          · exact absurd h hc.2
          · exact State.helloHeard_deaf h
      · rw [if_neg (by rw [hgroup, Bool.or_eq_true, decide_eq_true_iff]; simpa using hme)]
        refine ⟨fun h hs => next_congr (State.helloHeard_unequal h hs), fun h hs hst => next_congr (State.helloHeard_joins h hs hst),
          fun h hs hst => next_congr (State.helloHeard_forms h hs hst), fun h => next_congr (State.helloHeard_syncs h), fun h hst => ?_,
          fun h hst => ?_⟩
        · exact next_congr ((State.helloHeard_active h).trans (if_neg hst))
        · exact next_congr ((State.helloHeard_active h).trans (if_pos hst))
    · exact ⟨fun h => next_congr (State.expelMsg_unheard hm h), fun h hop => next_congr (State.expelMsg_operator hm h hop),
        fun h hop => next_congr (State.expelMsg_vote hm h hop)⟩
    · refine ⟨fun h => next_congr (State.syncMsg_other hm h), fun h hbad => next_congr ((State.syncMsg_ours hm h).trans (if_pos ?_)),
        fun h hw hz => next_congr ((State.syncMsg_ours hm h).trans (if_neg ?_))⟩
      · rw [Bool.or_eq_true, Bool.not_eq_true', Bool.not_eq_true']
        exact hbad
      · rw [Bool.or_eq_true, Bool.not_eq_true', Bool.not_eq_true']
        rintro (h | h)
        · exact absurd hw (ne_true_of_eq_false h)
        · exact absurd hz (ne_true_of_eq_false h)

end Sys2Proof.Machine
end

section
/-! PROOFS. A field of a register word after a write of another field, and the power state in PWR_STATUS (R5, R417). -/
namespace Sys2Proof
open Sys2Proof

theorem fld_of_mod_eq {v w hi lo m : Nat} (hm : hi < m) (h : v % 2 ^ m = w % 2 ^ m) : fld v hi lo = fld w hi lo := by
  have hcut (x : Nat) : fld (x % 2 ^ m) hi lo = fld x hi lo := by
    by_cases hlo : lo ≤ m
    · rw [fld_eq, fld_eq, show 2 ^ m = 2 ^ lo * 2 ^ (m - lo) by rw [← Nat.pow_add, Nat.add_sub_cancel' hlo], Nat.mod_mul_right_div_self,
        Nat.mod_mod_of_dvd _ (Nat.pow_dvd_pow 2 (by omega))]
    · rw [fld_eq, fld_eq, show hi + 1 - lo = 0 by omega, Nat.pow_zero, Nat.mod_one, Nat.mod_one]
  rw [← hcut v, h, hcut]

theorem fld_of_div_eq {v w hi lo m : Nat} (hm : m ≤ lo) (h : v / 2 ^ m = w / 2 ^ m) : fld v hi lo = fld w hi lo := by
  rw [fld_eq, fld_eq, show 2 ^ lo = 2 ^ m * 2 ^ (lo - m) by rw [← Nat.pow_add, Nat.add_sub_cancel' hm], ← Nat.div_div_eq_div_mul, h,
    Nat.div_div_eq_div_mul]

/-- A word is what lies above a field, the field and what lies below it. -/
theorem putFld_parts (v hi lo x : Nat) (h : lo ≤ hi + 1) :
    v = v / 2 ^ (hi + 1) * 2 ^ (hi + 1) + fld v hi lo * 2 ^ lo + v % 2 ^ lo ∧
    putFld v hi lo x = v / 2 ^ (hi + 1) * 2 ^ (hi + 1) + x % 2 ^ (hi + 1 - lo) * 2 ^ lo + v % 2 ^ lo := by
  have hpow : 2 ^ (hi + 1) = 2 ^ lo * 2 ^ (hi + 1 - lo) := by rw [← Nat.pow_add, Nat.add_sub_cancel' h]
  have hv : v = v / 2 ^ (hi + 1) * 2 ^ (hi + 1) + fld v hi lo * 2 ^ lo + v % 2 ^ lo := by
    have h1 := Nat.div_add_mod v (2 ^ lo)
    have h2 := Nat.div_add_mod (v / 2 ^ lo) (2 ^ (hi + 1 - lo))
    rw [Nat.div_div_eq_div_mul, ← hpow, ← fld_eq] at h2
    calc v = 2 ^ lo * (v / 2 ^ lo) + v % 2 ^ lo := h1.symm
      _ = 2 ^ lo * (2 ^ (hi + 1 - lo) * (v / 2 ^ (hi + 1)) + fld v hi lo) + v % 2 ^ lo := by rw [h2]
      _ = v / 2 ^ (hi + 1) * 2 ^ (hi + 1) + fld v hi lo * 2 ^ lo + v % 2 ^ lo := by
        rw [hpow, Nat.mul_add, Nat.mul_comm _ (fld v hi lo), ← Nat.mul_assoc, Nat.mul_comm _ (v / _)]
  refine ⟨hv, ?_⟩
  rw [putFld, Nat.shiftLeft_eq, Nat.shiftLeft_eq]
  omega

theorem putFld_mod (v hi lo x : Nat) (h : lo ≤ hi + 1) : putFld v hi lo x % 2 ^ lo = v % 2 ^ lo := by
  rw [(putFld_parts v hi lo x h).2, show 2 ^ (hi + 1) = 2 ^ (hi + 1 - lo) * 2 ^ lo by rw [← Nat.pow_add, Nat.sub_add_cancel h],
    ← Nat.mul_assoc, ← Nat.add_mul, Nat.mul_add_mod_self_right, Nat.mod_mod]

theorem putFld_div (v hi lo x : Nat) (h : lo ≤ hi + 1) : putFld v hi lo x / 2 ^ (hi + 1) = v / 2 ^ (hi + 1) := by
  have hpow : 2 ^ (hi + 1) = 2 ^ (hi + 1 - lo) * 2 ^ lo := by rw [← Nat.pow_add, Nat.sub_add_cancel h]
  have hx : x % 2 ^ (hi + 1 - lo) < 2 ^ (hi + 1 - lo) := Nat.mod_lt _ (Nat.two_pow_pos _)
  have hr : v % 2 ^ lo < 2 ^ lo := Nat.mod_lt _ (Nat.two_pow_pos _)
  have hlow : x % 2 ^ (hi + 1 - lo) * 2 ^ lo + v % 2 ^ lo < 2 ^ (hi + 1) := by
    rw [hpow]
    calc x % 2 ^ (hi + 1 - lo) * 2 ^ lo + v % 2 ^ lo < x % 2 ^ (hi + 1 - lo) * 2 ^ lo + 2 ^ lo := Nat.add_lt_add_left hr _
      _ = (x % 2 ^ (hi + 1 - lo) + 1) * 2 ^ lo := (Nat.succ_mul ..).symm
      _ ≤ 2 ^ (hi + 1 - lo) * 2 ^ lo := Nat.mul_le_mul_right _ hx
  rw [(putFld_parts v hi lo x h).2, Nat.add_assoc, Nat.mul_comm, Nat.mul_add_div (Nat.two_pow_pos _), Nat.div_eq_of_lt hlow, Nat.add_zero]

/-- A field replaced leaves every field beside it. -/
theorem fld_putFld_ne (v x : Nat) {hi lo h l : Nat} (hlo : lo ≤ hi + 1) (hd : h < lo ∨ hi < l) : fld (putFld v hi lo x) h l = fld v h l := by
  obtain hd | hd := hd
  · exact fld_of_mod_eq hd (putFld_mod v hi lo x hlo)
  · exact fld_of_div_eq hd (putFld_div v hi lo x hlo)

end Sys2Proof

namespace Sys2Proof.Machine
open Sys2Proof

section
variable {lf lg : Nat} {cq : List Instr} {s : State}

theorem State.rf_wf_other (hS : s.Safe lf lg cq) (r : Reg) (i v : Nat) {hi lo h l : Nat} (hlo : lo ≤ hi + 1) (hd : h < lo ∨ hi < l)
    (hh : h < 32) (hl : l ≤ 32) : (s.wf_ r i hi lo v).rf r i h l = s.rf r i h l := by
  rw [State.wf_, State.rf_wr hS r i _ hl hh, fld_putFld_ne _ _ hlo hd, State.rf]

theorem State.rf_congr {t : State} {r : Reg} {i : Nat} (h : t.rd r i = s.rd r i) (hi lo : Nat) : t.rf r i hi lo = s.rf r i hi lo := by
  rw [State.rf, h, State.rf]

/-! ### The power state -/

theorem State.pwrState_setPwr (hS : s.Safe lf lg cq) (n : Nat) : (s.setPwr n).pwrState = n % 8 :=
  State.rf_wf_ hS .pwrStatus 0 n (by decide) (by decide)

theorem State.pwrState_congr {t : State} (h : t.rd .pwrStatus 0 = s.rd .pwrStatus 0) : t.pwrState = s.pwrState := State.rf_congr h 2 0

theorem State.pwrState_wf_ (hS : s.Safe lf lg cq) (v : Nat) {hi lo : Nat} (h : lo ≤ hi + 1) (h2 : 2 < lo) :
    (s.wf_ .pwrStatus 0 hi lo v).pwrState = s.pwrState := State.rf_wf_other hS _ _ _ h (.inl h2) (by decide) (by decide)

theorem State.rd_pwrStatus_raise (hS : s.Safe lf lg cq) (e : Event) : (s.raise e).rd .pwrStatus 0 = s.rd .pwrStatus 0 :=
  State.rd_raise_ne hS e (by decide)

/-- A monitor converter's flags lie above the power controller's registers. -/
theorem monEvent_addr_ne (m : Nat) : Reg.pwrStatus.addr 0 0 ≠ Reg.monEvent.addr m 0 := by
  have hbase : 0x00110000 ≤ Blk.base .mon m := by
    have hb : Blk.base .mon m = if m < 4 then 0x00110000 + m * 0x400 else 0x00111000 := rfl
    rw [hb]
    split
    · exact Nat.le_add_right _ _
    · decide
  have hpwr : Reg.pwrStatus.addr 0 0 < 0x00110000 := by decide
  have hmon : Reg.monEvent.addr m 0 = Blk.base .mon m + 0x2c + 4 * 0 := rfl
  omega

theorem State.rd_pwrStatus_monTrigger (hS : s.Safe lf lg cq) (m : Nat) : (s.monTrigger m).rd .pwrStatus 0 = s.rd .pwrStatus 0 := by
  have hflag : (s.flag .monEvent m 4).rd .pwrStatus 0 = s.rd .pwrStatus 0 := State.rd_wr_ne hS _ (monEvent_addr_ne m)
  unfold State.monTrigger
  dsimp only
  split
  · split
    · exact hflag
    · rfl
  · split
    · exact hflag
    · split
      · rfl
      · rfl

end

end Sys2Proof.Machine
end

section
/-! PROOFS. Power states, throttling and power failure (R403, R404, R406, R407). -/
namespace Sys2Proof.Machine
open Sys2Proof

section
variable {s : State}

/-! ### IDLE and the end of HALTED -/

theorem State.goIdle_refused (path : Path) (h : s.pwrState ≠ 1) : s.goIdle path = s.ignored path (Reg.pwrCmd.addr 0 0) 3 := if_neg h

theorem State.goWake_refused (path : Path) (h : s.pwrState ≠ 2) : s.goWake path = s.ignored path (Reg.pwrCmd.addr 0 0) 3 := if_neg h

theorem State.idleSettle_pwrState (hS : s.Inv) : s.idleSettle.pwrState = s.pwrState := by
  unfold State.idleSettle
  split
  · exact State.pwrState_wf_ hS _ (by decide) (by decide)
  · rfl

theorem State.idleSettle_stops (hS : s.Inv) (hst : s.pwrState = 2) (h : s.entriesRunning = false) : s.idleSettle.rf .pwrStatus 0 11 8 = 0 := by
  have hstop : s.idleSettle = s.wf_ .pwrStatus 0 11 8 0 := if_pos (by rw [h, Bool.not_false, Bool.and_true]; exact decide_eq_true hst)
  rw [hstop]
  exact State.rf_wf_ hS .pwrStatus 0 0 (by decide) (by decide)

theorem State.goIdle_idles (hS : s.Inv) (path : Path) (h : s.pwrState = 1) : s.goIdle path = (s.setPwr 2).idleSettle ∧
    (s.setPwr 2).idleSettle.pwrState = 2 ∧ (s.entriesRunning = false → (s.setPwr 2).idleSettle.rf .pwrStatus 0 11 8 = 0) := by
  have hS2 : (s.setPwr 2).Inv := State.setPwr_safe s 2 hS
  have hst : (s.setPwr 2).pwrState = 2 := State.pwrState_setPwr hS 2
  exact ⟨if_pos h, (State.idleSettle_pwrState hS2).trans hst, fun hn => State.idleSettle_stops hS2 hst hn⟩

/-- READY again, with the wake calibration to come (R403). -/
def State.woken (s : State) : State :=
  { (s.setPwr 1).wf_ .pwrStatus 0 11 8 8 with pwr := { ((s.setPwr 1).wf_ .pwrStatus 0 11 8 8).pwr with waking := true } }

theorem State.haltEnd_ends (hS : s.Inv) (h : s.pwrState = 3) (hprev : s.pwr.prev < 8) : ∃ t, s.haltEnd = t ∧
    t.pwrState = s.pwr.prev ∧ t.cores = s.cores ∧ t.arrays = s.arrays ∧ t.mem = s.mem :=
  ⟨_, if_pos h, (State.pwrState_setPwr hS _).trans (Nat.mod_eq_of_lt hprev), rfl, rfl, rfl⟩

/-! ### Throttling -/

/-- What events and the monitor converters' triggers leave. -/
theorem State.monTrigger_keeps {β : Type} (φ : State → β) (hwr : ∀ t r i k v, φ (State.wr t r i k v) = φ t)
    (hmons : ∀ t x, φ { t with mons := x } = φ t) (m : Nat) : φ (s.monTrigger m) = φ s := by
  unfold State.monTrigger
  dsimp only
  split
  · split
    · exact hwr ..
    · exact hmons _ _
  · split
    · exact hwr ..
    · split
      · exact hmons _ _
      · exact hmons _ _

theorem State.thrStatus_keeps {β : Type} (φ : State → β) (hwr : ∀ t r i k v, φ (State.wr t r i k v) = φ t) : φ s.thrStatus = φ s :=
  (hwr ..).trans ((hwr ..).trans (hwr ..))

/-- The event of a throttle that begins or ends. -/
theorem State.thrEvents_keeps {β : Type} (φ : State → β) (hwr : ∀ t r i k v, φ (State.wr t r i k v) = φ t)
    (hraise : ∀ t e, φ (State.raise t e) = φ t) (hmons : ∀ t x, φ { t with mons := x } = φ t)
    (hsince : ∀ t x, φ { t with pwr := { t.pwr with since := x } } = φ t) (old : State) : φ (s.thrEvents old) = φ s := by
  unfold State.thrEvents
  refine (State.each_keeps φ (fun t m => State.monTrigger_keeps φ hwr hmons m) _ _).trans ?_
  split
  · refine (hraise ..).trans ?_
    split
    · exact State.thrStatus_keeps φ hwr
    · exact (hsince _ _).trans (State.thrStatus_keeps φ hwr)
  · split
    · exact (hraise ..).trans (State.thrStatus_keeps φ hwr)
    · exact State.thrStatus_keeps φ hwr

/-- Safe, with the word of PWR_STATUS given. -/
def State.PwrIs (s : State) (p : Nat) : Prop := (∃ lf lg cq, s.Safe lf lg cq) ∧ s.pwrState = p

theorem State.PwrIs.wf_ {p : Nat} (h : s.PwrIs p) (v : Nat) {hi lo : Nat} (hle : lo ≤ hi + 1) (hlo : 2 < lo) :
    (s.wf_ .pwrStatus 0 hi lo v).PwrIs p := by
  obtain ⟨⟨_, _, _, hS⟩, hp⟩ := h
  exact ⟨⟨_, _, _, State.wf__safe s _ _ _ _ _ hS⟩, (State.pwrState_wf_ hS v hle hlo).trans hp⟩

theorem State.PwrIs.raise {p : Nat} (h : s.PwrIs p) (e : Event) : (s.raise e).PwrIs p := by
  obtain ⟨⟨_, _, _, hS⟩, hp⟩ := h
  exact ⟨⟨_, _, _, State.raise_safe s e hS⟩, (State.pwrState_congr (State.rd_pwrStatus_raise hS e)).trans hp⟩

theorem State.PwrIs.monTrigger {p : Nat} (h : s.PwrIs p) (m : Nat) : (s.monTrigger m).PwrIs p := by
  obtain ⟨⟨_, _, _, hS⟩, hp⟩ := h
  exact ⟨⟨_, _, _, State.monTrigger_safe s m hS⟩, (State.pwrState_congr (State.rd_pwrStatus_monTrigger hS m)).trans hp⟩

theorem State.PwrIs.pwr {p : Nat} (h : s.PwrIs p) (x : Power) : ({ s with pwr := x } : State).PwrIs p := by
  obtain ⟨⟨_, _, _, hS⟩, hp⟩ := h
  exact ⟨⟨_, _, _, hS.lit rfl rfl rfl rfl⟩, hp⟩

theorem State.PwrIs.thrStatus {p : Nat} (h : s.PwrIs p) : s.thrStatus.PwrIs p :=
  ((h.wf_ _ (by decide) (by decide)).wf_ _ (by decide) (by decide)).wf_ _ (by decide) (by decide)

theorem State.PwrIs.thrEvents {p : Nat} (h : s.PwrIs p) (old : State) : (s.thrEvents old).PwrIs p := by
  unfold State.thrEvents
  refine foldl_keeps (P := fun t : State => t.PwrIs p) (fun t m ht => ht.monTrigger m) _ ?_
  split
  · refine State.PwrIs.raise ?_ _
    split
    · exact h.thrStatus
    · exact h.thrStatus.pwr _
  · split
    · exact h.thrStatus.raise _
    · exact h.thrStatus

/-! ### WAKE -/

theorem State.goWake_wakes (hS : s.Inv) (path : Path) (h : s.pwrState = 2) : ∃ t, s.goWake path = t ∧ t.pwrState = 1 ∧
    t.rf .pwrStatus 0 11 8 = 8 ∧ t.pwr.waking = true ∧ t.cores = s.cores ∧ t.mem = s.mem := by
  have hS1 : (s.setPwr 1).Inv := State.setPwr_safe s 1 hS
  have heq : s.goWake path = s.woken := by
    unfold State.goWake State.wakeUp State.woken
    rw [if_pos h, if_pos h]
  have hpwr : (s.setPwr 1).PwrIs 1 := ⟨⟨_, _, _, hS1⟩, State.pwrState_setPwr hS 1⟩
  have hvid : ((s.setPwr 1).wf_ .pwrStatus 0 11 8 8).rf .pwrStatus 0 11 8 = 8 :=
    State.rf_wf_ hS1 .pwrStatus 0 8 (hi := 11) (lo := 8) (by decide) (by decide)
  have hregs : s.woken.regs = ((s.setPwr 1).wf_ .pwrStatus 0 11 8 8).regs := by rw [State.woken]
  refine ⟨s.woken, heq, ((hpwr.wf_ 8 (hi := 11) (lo := 8) (by decide) (by decide)).pwr _).2, (State.rf_of_regs hregs ..).trans hvid,
    by rw [State.woken], by simp [State.woken], by simp [State.woken]⟩

/-! ### The ticks of the throttle levels -/

section
variable {key n : Nat} {past low : Bool}

theorem State.levelStep_past (h : past = true) : (s.levelStep key n past low).1 = min 4 (n + 1) := congrArg Prod.fst (if_pos h)

theorem State.levelStep_falls (hp : past = false) (hl : low = true) (hc : s.pwr.calm.get 0 key ≠ 0)
    (ht : s.pwr.calm.get 0 key + 9999999 ≤ s.time) : (s.levelStep key n past low).1 = n - 1 := by
  refine congrArg Prod.fst ((if_neg (ne_true_of_eq_false hp)).trans ((if_neg ?_).trans ((if_neg hc).trans (if_pos ?_))))
  · rw [hl]
    decide
  · omega

theorem State.levelStep_stays (hp : past = false) (hl : low = true → s.pwr.calm.get 0 key = 0 ∨ s.time < s.pwr.calm.get 0 key + 9999999) :
    (s.levelStep key n past low).1 = n := by
  unfold State.levelStep
  dsimp only
  rw [if_neg (ne_true_of_eq_false hp)]
  split
  · rfl
  · next h =>
    rw [Bool.not_eq_true', Bool.not_eq_false] at h
    split
    · rfl
    · next hc => exact congrArg Prod.fst (if_neg (by have := hl h; omega))

end

/-- What a tick of the power level finds (R404): over the limit, and low enough to be calm. -/
def State.powerPast (s : State) : Bool := s.thrSignal 4 || decide (s.rf .pwrCfg 0 27 16 * 1000000000 < s.inputPower)

def State.powerLow (s : State) : Bool := decide (100 * s.inputPower < 95 * (s.rf .pwrCfg 0 27 16 * 1000000000))

theorem State.powerTick_early (h : s.time < s.pwr.powerAt + 1000000) : s.powerTick = s := if_pos h

theorem State.thermalTick_early (h : s.time < s.pwr.thermAt + 1000000) : s.thermalTick = s := if_pos h

/-- A tick leaves the arrays, the cores, device memory and the power state. -/
def State.KeptBy (s t : State) : Prop := t.cores = s.cores ∧ t.arrays = s.arrays ∧ t.mem = s.mem ∧ t.pwrState = s.pwrState

theorem State.KeptBy.thrEvents {lf lg : Nat} {cq : List Instr} {u : State} (hS : u.Safe lf lg cq) (h : s.KeptBy u) (old : State) :
    s.KeptBy (u.thrEvents old) := by
  obtain ⟨hcores, harrays, hmem, hpwr⟩ := h
  refine ⟨?_, ?_, ?_, (State.PwrIs.thrEvents (p := s.pwrState) ⟨⟨_, _, _, hS⟩, hpwr⟩ old).2⟩
  · exact (State.thrEvents_keeps State.cores State.wr_cores State.raise_cores (fun _ _ => rfl) (fun _ _ => rfl) old).trans hcores
  · exact (State.thrEvents_keeps State.arrays State.wr_arrays State.raise_arrays (fun _ _ => rfl) (fun _ _ => rfl) old).trans harrays
  · exact (State.thrEvents_keeps State.mem State.wr_mem State.raise_mem (fun _ _ => rfl) (fun _ _ => rfl) old).trans hmem

theorem State.thrEvents_pwr {β : Type} (ψ : Power → β) (hψ : ∀ p x, ψ { p with since := x } = ψ p) (old : State) :
    ψ (s.thrEvents old).pwr = ψ s.pwr :=
  State.thrEvents_keeps (fun t => ψ t.pwr) (fun t r i k v => congrArg ψ (State.wr_pwr t r i k v))
    (fun t e => congrArg ψ (State.raise_pwr t e)) (fun _ _ => rfl) (fun t x => hψ t.pwr x) old

/-- The power level after its step. -/
def State.powerStepped (s : State) : State := { s with pwr := { s.pwr with
  power := (s.levelStep 4 s.pwr.power s.powerPast s.powerLow).1,
  calm := s.pwr.calm.set 0 4 (s.levelStep 4 s.pwr.power s.powerPast s.powerLow).2, powerAt := s.time } }

theorem State.powerTick_eq (h : s.pwr.powerAt + 1000000 ≤ s.time) : s.powerTick = s.powerStepped.thrEvents s := if_neg (Nat.not_lt.mpr h)

theorem State.powerTick_due (hS : s.Inv) (h : s.pwr.powerAt + 1000000 ≤ s.time) : ∃ t, s.powerTick = t ∧ t.pwr.powerAt = s.time ∧
    t.pwr.power = (s.levelStep 4 s.pwr.power s.powerPast s.powerLow).1 ∧ t.pwr.thermal = s.pwr.thermal ∧ s.KeptBy t := by
  have hS1 : s.powerStepped.Safe 0 0 s.pending := State.Safe.lit hS rfl rfl rfl rfl
  exact ⟨_, State.powerTick_eq h, State.thrEvents_pwr Power.powerAt (fun _ _ => rfl) s, State.thrEvents_pwr Power.power (fun _ _ => rfl) s,
    State.thrEvents_pwr Power.thermal (fun _ _ => rfl) s, State.KeptBy.thrEvents hS1 ⟨rfl, rfl, rfl, rfl⟩ s⟩

/-- A state between the thermal steps of a tick. -/
def State.ThermalStepped (s t : State) : Prop := t.Safe 0 0 s.pending ∧ t.pwr.thermAt = s.time ∧ t.pwr.power = s.pwr.power ∧ s.KeptBy t

theorem State.ThermalStepped.step {t : State} (h : s.ThermalStepped t) (thermal calm : NMap Nat) :
    s.ThermalStepped { t with pwr := { t.pwr with thermal := thermal, calm := calm } } := by
  obtain ⟨hS, hat, hpower, hcores, harrays, hmem, hpwr⟩ := h
  exact ⟨State.Safe.lit hS rfl rfl rfl rfl, hat, hpower, hcores, harrays, hmem, hpwr⟩

theorem State.thermalTick_due (hS : s.Inv) (h : s.pwr.thermAt + 1000000 ≤ s.time) : ∃ t, s.thermalTick = t ∧ t.pwr.thermAt = s.time ∧
    t.pwr.power = s.pwr.power ∧ s.KeptBy t := by
  unfold State.thermalTick
  rw [if_neg (Nat.not_lt.mpr h)]
  extract_lets thr step
  have hsteps : s.ThermalStepped (({ s with pwr := { s.pwr with thermAt := s.time } } : State).each (List.range 4) step) :=
    foldl_keeps (P := s.ThermalStepped) (fun t q ht => ht.step _ _) _ ⟨State.Safe.lit hS rfl rfl rfl rfl, rfl, rfl, rfl, rfl, rfl, rfl⟩
  obtain ⟨hSu, hat, hpower, hkept⟩ := hsteps
  exact ⟨_, rfl, (State.thrEvents_pwr Power.thermAt (fun _ _ => rfl) s).trans hat,
    (State.thrEvents_pwr Power.power (fun _ _ => rfl) s).trans hpower, hkept.thrEvents hSu s⟩

theorem State.exec_throttleLevelTick (halive : s.alive = true) (b : Bool) :
    exec (.throttleLevelTick b) s = .next (if b then s.powerTick else s.thermalTick) := next_congr (if_pos halive)

/-! ### Power failure -/

theorem RecStore.mem_dirty_logged {r : RecStore} {p : Nat} (e : Event) (h : p ∈ r.dirty) : p ∈ (r.logged e).dirty := by
  unfold RecStore.logged
  split
  · show p ∈ if r.dirty.contains 1 then r.dirty else 1 :: r.dirty
    split
    · exact h
    · exact List.mem_cons_of_mem _ h
  · exact h

theorem State.record_recs (e : Event) : (s.record e).recs = s.recs.logged { e with time := s.time } := by
  unfold State.record
  dsimp only
  split
  · rfl
  · rfl

theorem State.mem_dirty_raise {p : Nat} (e : Event) (h : p ∈ s.recs.dirty) : p ∈ (s.raise e).recs.dirty := by
  have hrecord : p ∈ (s.record e).recs.dirty := by
    rw [State.record_recs]
    exact RecStore.mem_dirty_logged _ h
  unfold State.raise
  dsimp only
  split
  · rw [State.record_recs]
    exact RecStore.mem_dirty_logged _ hrecord
  · exact hrecord

theorem State.cutBatch_keeps {β : Type} (φ : State → β) (harrays : ∀ t x, φ { t with arrays := x } = φ t) (a : Nat) :
    φ (s.cutBatch a) = φ s := by
  unfold State.cutBatch
  split
  · dsimp only
    split
    · rfl
    · exact harrays _ _
  · rfl

/-- Every core with no wave in flight (R406). -/
def groundedCores (cs : NMap Core) : NMap Core := cs.foldl (fun m e => m.set {} e.1 { e.2 with flying := [] }) []

theorem get_groundedCores (cs : NMap Core) (c : Nat) : ((groundedCores cs).get {} c).flying = [] := by
  have hall : NMap.sorted (groundedCores cs) = true ∧ ∀ i, ((groundedCores cs).get {} i).flying = [] := by
    refine foldl_keeps (P := fun m : NMap Core => NMap.sorted m = true ∧ ∀ i, (m.get {} i).flying = []) ?_ cs ⟨rfl, fun _ => rfl⟩
    rintro m ⟨k, x⟩ ⟨hm, hfly⟩
    refine ⟨NMap.sorted_set _ _ _ hm, fun i => ?_⟩
    by_cases hi : i = k
    · subst hi
      rw [NMap.get_set_self _ _ _ hm]
    · rw [NMap.get_set_ne _ _ _ hi hm]
      exact hfly i
  exact hall.2 c

theorem State.powerFail_idle (cause : Nat) (h : s.boot.inReset = true ∨ s.pwrState = 4 ∨ s.pwrState = 5) : s.powerFail cause = s := by
  refine if_pos ?_
  simpa only [Bool.or_eq_true, decide_eq_true_iff, or_assoc] using h

/-- What POWER_FAIL begins with (R406, R411). -/
theorem State.powerFail_begins (hS : s.Inv) (cause : Nat) (hreset : s.boot.inReset = false) (h : s.pwrState < 4) :
    ∃ t, s.powerFail cause = t ∧ t.pwrState = 4 ∧ (∀ c, (t.core c).flying = []) ∧ t.recs.run = none ∧ t.recs.jobs = s.jobRecs ∧
      3 ∈ t.recs.storing ∧ 2 ∈ t.recs.storing ∧ 0 ∈ t.recs.storing ∧
      (∀ p, p < 128 → s.recs.dirty.contains p = true → p ∈ t.recs.storing) ∧ t.mem = s.mem := by
  have hgo : ¬ (s.boot.inReset || decide (s.pwrState = 4) || decide (s.pwrState = 5)) = true := by
    simp only [hreset, Bool.or_eq_true, decide_eq_true_iff, Bool.false_eq_true, false_or]
    omega
  unfold State.powerFail
  rw [if_neg hgo]
  extract_lets s1 e s2 inProg
  have hS1 : s1.Safe 0 0 s.pending :=
    foldl_keeps (P := fun t : State => t.Safe 0 0 s.pending) (fun t a ht => State.cutBatch_safe t a ht) _ hS
  have hrecs1 : s1.recs = s.recs := State.each_keeps State.recs (fun t a => State.cutBatch_keeps State.recs (fun _ _ => rfl) a) s _
  have hmem1 : s1.mem = s.mem := State.each_keeps State.mem (fun t a => State.cutBatch_keeps State.mem (fun _ _ => rfl) a) s _
  have hpwr : s2.pwrState = 4 := State.pwrState_setPwr (State.raise_safe _ _ hS1) 4
  have hdirty (p : Nat) (hp : s.recs.dirty.contains p = true) : s2.recs.dirty.contains p = true := by
    rw [List.contains_iff_mem] at hp ⊢
    exact State.mem_dirty_raise _ (hrecs1 ▸ hp)
  have hmem2 : s2.mem = s.mem := (State.setPwr_mem ..).trans ((State.raise_mem ..).trans hmem1)
  have hwait {p : Nat} (hp : p ∈ [3, 2, 0]) : p ∈ inProg ++ [3, 2, 0] ++ s2.recs.dirtyPages.filter (fun p => p ≠ 3 && p ≠ 2 && p ≠ 0) :=
    List.mem_append_left _ (List.mem_append_right _ hp)
  refine ⟨_, rfl, hpwr, fun c => get_groundedCores s2.cores c, rfl, rfl, hwait (by decide), hwait (by decide), hwait (by decide),
    fun p hp hd => ?_, hmem2⟩
  by_cases h3 : p ∈ [3, 2, 0]
  · exact hwait h3
  · refine List.mem_append_right _ (List.mem_filter.mpr ⟨List.mem_filter.mpr ⟨List.mem_range.mpr hp, hdirty p hd⟩, ?_⟩)
    simpa [and_assoc] using h3

/-! ### The end of the hold-up store -/

theorem State.storePage_keeps {β : Type} (φ : State → β) (hrecs : ∀ t x, φ { t with recs := x } = φ t)
    (hraise : ∀ t e, φ (State.raise t e) = φ t) (page : Nat) : φ (s.storePage page) = φ s := by
  have hworn (t : State) (c : Bool) (x : RecStore) (e : Event) : φ (if c then ({ t with recs := x } : State).raise e else t) = φ t := by
    split
    · exact (hraise ..).trans (hrecs _ _)
    · rfl
  have hretired (t : State) (c : Bool) (e : Event) : φ (if c then t.raise e else t) = φ t := by
    split
    · exact hraise ..
    · rfl
  exact (hretired ..).trans ((hworn ..).trans (hrecs _ _))

theorem State.holdupOut_idle (h : s.pwrState ≠ 4 ∨ s.recs.dead = true ∨ s.recs.storing = []) : s.holdupOut = s := by
  unfold State.holdupOut
  split
  · rfl
  · next hc =>
    rw [Bool.or_eq_true, decide_eq_true_iff, not_or] at hc
    rw [(h.resolve_left hc.1).resolve_left hc.2]

theorem State.holdupOut_tears (hp : s.pwrState = 4) (hd : s.recs.dead = false) (hne : s.recs.storing ≠ []) : ∃ t, s.holdupOut = t ∧
    t.recs.dead = true ∧ t.recs.storing = [] ∧ (∃ p ∈ s.recs.storing, t.recs.torn = some p) ∧ t.mem = s.mem ∧ t.arrays = s.arrays := by
  have hgo : ¬ (decide (s.pwrState ≠ 4) || s.recs.dead) = true := by simp [hp, hd]
  have hkeep {β : Type} (φ : State → β) (hrecs : ∀ t x, φ { t with recs := x } = φ t) (hraise : ∀ t e, φ (State.raise t e) = φ t)
      (u : State) (ps : List Nat) : φ (u.each ps (fun t p => t.storePage p)) = φ u :=
    State.each_keeps φ (fun t p => State.storePage_keeps φ hrecs hraise p) u ps
  unfold State.holdupOut
  rw [if_neg hgo]
  split
  · next h => exact absurd h hne
  · have hpage : s.recs.storing.getD (s.fresh.1 % s.recs.storing.length) 0 ∈ s.recs.storing := by
      have hlt := Nat.mod_lt s.fresh.1 (List.length_pos_iff.2 hne)
      rw [List.getD_eq_getElem?_getD, List.getElem?_eq_getElem hlt, Option.getD_some]
      exact List.getElem_mem hlt
    exact ⟨_, rfl, rfl, rfl, ⟨_, hpage, rfl⟩, hkeep State.mem (fun _ _ => rfl) State.raise_mem s.fresh.2 _,
      hkeep State.arrays (fun _ _ => rfl) State.raise_arrays s.fresh.2 _⟩

theorem State.triggered_keeps {β : Type} (φ : State → β) (hwr : ∀ t r i k v, φ (State.wr t r i k v) = φ t)
    (hmons : ∀ t x, φ { t with mons := x } = φ t) (ms : List Nat) : φ (s.each ms State.monTrigger) = φ s :=
  State.each_keeps φ (fun _ m => State.monTrigger_keeps φ hwr hmons m) s ms

theorem State.PwrIs.triggered {p : Nat} (h : s.PwrIs p) (ms : List Nat) : (s.each ms State.monTrigger).PwrIs p :=
  foldl_keeps (P := fun t : State => t.PwrIs p) (fun _ m ht => ht.monTrigger m) ms h

/-- The converters whose injected sequence PWR_FAIL_N triggers (R280). -/
def State.failTriggered (s : State) : State := s.each ((List.range 5).filter (fun m => s.rb .monInjCfg m 8)) State.monTrigger

theorem State.pinPowerFail_eq (hreset : s.boot.inReset = false) : s.pinPowerFail = s.failTriggered.powerFail 1 :=
  if_neg (ne_true_of_eq_false hreset)

end

/-- Settles O58. -/
theorem powerStates : Obligations.PowerStates := by
  unfold Obligations.PowerStates
  refine fun s path hI => ⟨fun ha => ⟨next_asked_unanswered ha _, next_asked_unanswered ha _⟩, fun ha => ?_, ⟨fun h hprev => ?_, fun h => ?_⟩,
    fun h b => next_if_neg h _ _, fun halive => ?_, fun h => next_congr (if_pos h), fun hreset h => ?_, fun hreset h => ?_,
    fun h => next_congr (State.holdupOut_idle h), fun hp hd hne => ?_⟩
  · have hidle : exec (.idle path) s = .next (s.goIdle path) := next_congr (State.asked_answered ha _)
    have hwake : exec (.wake path) s = .next (s.goWake path) := next_congr (State.asked_answered ha _)
    rw [hidle, hwake]
    refine ⟨fun h => ?_, fun h => next_congr (State.goIdle_refused path h), fun h => ?_, fun h => next_congr (State.goWake_refused path h)⟩
    · obtain ⟨heq, hrest⟩ := State.goIdle_idles hI path h
      exact ⟨next_congr heq, hrest⟩
    · obtain ⟨t, ht, hrest⟩ := State.goWake_wakes hI path h
      exact ⟨t, next_congr ht, hrest⟩
  · obtain ⟨hreset, hcool, hlow, hst⟩ := h
    obtain ⟨t, ht, hrest⟩ := State.haltEnd_ends hI hst hprev
    refine ⟨t, next_congr ((if_pos ?_).trans ht), hrest⟩
    simp only [hreset, hcool, Bool.not_false, Bool.true_and, decide_eq_true_iff]
    exact hlow
  · refine next_congr ?_
    split
    · next hc =>
      simp only [Bool.and_eq_true, Bool.not_eq_true', decide_eq_true_iff, and_assoc] at hc
      exact if_neg fun hst => h ⟨hc.1, hc.2.1, hc.2.2, hst⟩
    · rfl
  · have hpower : exec (.throttleLevelTick true) s = .next s.powerTick :=
      (State.exec_throttleLevelTick halive true).trans (next_congr (if_pos rfl))
    have hthermal : exec (.throttleLevelTick false) s = .next s.thermalTick :=
      (State.exec_throttleLevelTick halive false).trans (next_congr (if_neg Bool.false_ne_true))
    have hpast : s.powerPast = true ↔ s.rf .pwrCfg 0 27 16 * 1000000000 < s.inputPower ∨ s.thrSignal 4 = true := by
      rw [State.powerPast, Bool.or_eq_true, decide_eq_true_iff, or_comm]
    have hlow : s.powerLow = true ↔ 100 * s.inputPower < 95 * (s.rf .pwrCfg 0 27 16 * 1000000000) := decide_eq_true_iff
    rw [hpower, hthermal]
    refine ⟨fun h => next_congr (State.powerTick_early h), fun h => next_congr (State.thermalTick_early h), fun h => ?_, fun h => ?_⟩
    · obtain ⟨t, ht, hat, hlevel, hrest⟩ := State.powerTick_due hI h
      refine ⟨t, next_congr ht, hat, fun hp => ?_, fun hp hl hc hcalm => ?_, fun hp hl => ?_, hrest⟩
      · exact hlevel.trans (State.levelStep_past (hpast.mpr hp))
      · exact hlevel.trans (State.levelStep_falls (Bool.eq_false_iff.mpr (mt hpast.mp hp)) (hlow.mpr hl) hc hcalm)
      · exact hlevel.trans (State.levelStep_stays (Bool.eq_false_iff.mpr (mt hpast.mp hp)) fun h => hl (hlow.mp h))
    · obtain ⟨t, ht, hrest⟩ := State.thermalTick_due hI h
      exact ⟨t, next_congr ht, hrest⟩
  · have hu : s.failTriggered.PwrIs s.pwrState := State.PwrIs.triggered ⟨⟨_, _, _, hI⟩, rfl⟩ _
    have hidle : s.failTriggered.powerFail 1 = s.failTriggered := State.powerFail_idle 1 (.inr (hu.2.symm ▸ h))
    exact ⟨_, next_congr ((State.pinPowerFail_eq hreset).trans hidle), hu.2, State.triggered_keeps State.recs State.wr_recs (fun _ _ => rfl) _,
      State.triggered_keeps State.cores State.wr_cores (fun _ _ => rfl) _, State.triggered_keeps State.arrays State.wr_arrays (fun _ _ => rfl) _,
      State.triggered_keeps State.mem State.wr_mem (fun _ _ => rfl) _⟩
  · have hu : s.failTriggered.PwrIs s.pwrState := State.PwrIs.triggered ⟨⟨_, _, _, hI⟩, rfl⟩ _
    have hSu : s.failTriggered.Safe 0 0 s.pending :=
      foldl_keeps (P := fun t : State => t.Safe 0 0 s.pending) (fun t m ht => State.monTrigger_safe t m ht) _ hI
    have hboot : s.failTriggered.boot = s.boot := State.triggered_keeps State.boot State.wr_boot (fun _ _ => rfl) _
    have harrays : s.failTriggered.arrays = s.arrays := State.triggered_keeps State.arrays State.wr_arrays (fun _ _ => rfl) _
    have hrecs : s.failTriggered.recs = s.recs := State.triggered_keeps State.recs State.wr_recs (fun _ _ => rfl) _
    have hmem : s.failTriggered.mem = s.mem := State.triggered_keeps State.mem State.wr_mem (fun _ _ => rfl) _
    have hjobs : s.failTriggered.jobRecs = s.jobRecs := by rw [State.jobRecs, harrays, State.jobRecs]
    have hpend : s.failTriggered.pending = s.pending := State.triggered_keeps State.pending State.wr_pending (fun _ _ => rfl) _
    obtain ⟨t, ht, hrest⟩ := State.powerFail_begins (s := s.failTriggered) (by rw [State.Inv, hpend]; exact hSu) 1 (by rw [hboot]; exact hreset)
      (by rw [hu.2]; exact h)
    rw [hjobs, hrecs, hmem] at hrest
    exact ⟨t, next_congr ((State.pinPowerFail_eq hreset).trans ht), hrest⟩
  · obtain ⟨t, ht, hrest⟩ := State.holdupOut_tears hp hd hne
    exact ⟨t, next_congr ht, hrest⟩

end Sys2Proof.Machine
end

section
/-! PROOFS. Time base, PTP and the PCIe link (R70, R377 to R379, R382). -/
namespace Sys2Proof.Machine
open Sys2Proof

section
variable {s : State}

/-! ### PTP -/

/-- A PTP Sync taken (R379): its offset, how many in a row have been good, and when. -/
def State.synced (s : State) (off : Int) : State :=
  { s with tb := { s.tb with offset := off, good := if off.natAbs ≤ 100 then s.tb.good + 1 else 0, lastSync := s.time } }

section
variable {port : PortId} {off : Int}

theorem State.ptpSync_other (h : ¬ (s.tb.ptp ≠ .off ∧ s.rf .tbsCfg 0 11 8 = port)) : s.ptpSync off port = s := by
  refine if_pos ?_
  rw [Bool.or_eq_true, decide_eq_true_iff, decide_eq_true_iff]
  exact (Classical.not_and_iff_not_or_not.mp h).imp_left Classical.not_not.mp

theorem State.ptpSync_ours (h : s.tb.ptp ≠ .off ∧ s.rf .tbsCfg 0 11 8 = port) : s.ptpSync off port =
    match s.tb.ptp with
    | .acquiring =>
      if 16 ≤ (s.synced off).tb.good then
        ({ s.synced off with tb := { (s.synced off).tb with ptp := .synced } } : State).raise (evDev 0x5020 0 (enc 32 off))
      else if off < -1000 then { s.synced off with time := s.time + off.natAbs } else s.synced off
    | .synced =>
      if 1000 < off.natAbs then
        ({ s.synced off with tb := { (s.synced off).tb with ptp := .lost, good := 0 } } : State).raise (evDev 0x5021 1 2)
      else s.synced off
    | .lost => { s.synced off with tb := { (s.synced off).tb with ptp := .acquiring } }
    | .off => s := by
  obtain ⟨hon, hport⟩ := h
  refine (if_neg ?_).trans rfl
  rw [Bool.or_eq_true, decide_eq_true_iff, decide_eq_true_iff]
  exact not_or.mpr ⟨hon, not_not_intro hport⟩

theorem State.ptpSync_acquiring (h : s.tb.ptp ≠ .off ∧ s.rf .tbsCfg 0 11 8 = port) (hst : s.tb.ptp = .acquiring) : s.ptpSync off port =
    if 16 ≤ (s.synced off).tb.good then
      ({ s.synced off with tb := { (s.synced off).tb with ptp := .synced } } : State).raise (evDev 0x5020 0 (enc 32 off))
    else if off < -1000 then { s.synced off with time := s.time + off.natAbs } else s.synced off := by
  rw [State.ptpSync_ours h, hst]

theorem State.ptpSync_synced (h : s.tb.ptp ≠ .off ∧ s.rf .tbsCfg 0 11 8 = port) (hst : s.tb.ptp = .synced) : s.ptpSync off port =
    if 1000 < off.natAbs then
      ({ s.synced off with tb := { (s.synced off).tb with ptp := .lost, good := 0 } } : State).raise (evDev 0x5021 1 2)
    else s.synced off := by
  rw [State.ptpSync_ours h, hst]

theorem State.ptpSync_lost (h : s.tb.ptp ≠ .off ∧ s.rf .tbsCfg 0 11 8 = port) (hst : s.tb.ptp = .lost) : s.ptpSync off port =
    { s.synced off with tb := { (s.synced off).tb with ptp := .acquiring } } := by
  rw [State.ptpSync_ours h, hst]

end

theorem State.ptpSilent_past (hst : s.tb.ptp = .acquiring ∨ s.tb.ptp = .synced) (h : s.tb.lastSync + 3000000000 ≤ s.time) :
    s.ptpSilent = ({ s with tb := { s.tb with ptp := .lost, good := 0 } } : State).raise (evDev 0x5021 1 1) := by
  refine if_neg ?_
  have ht : ¬ s.time < s.tb.lastSync + 3000000000 := Nat.not_lt.mpr h
  obtain hst | hst := hst
  · simp [hst, ht]
  · simp [hst, ht]

theorem State.ptpSilent_early (h : ¬ ((s.tb.ptp = .acquiring ∨ s.tb.ptp = .synced) ∧ s.tb.lastSync + 3000000000 ≤ s.time)) :
    s.ptpSilent = s := by
  refine if_pos ?_
  rw [Bool.or_eq_true, Bool.or_eq_true, decide_eq_true_iff, decide_eq_true_iff, decide_eq_true_iff]
  by_cases ht : s.time < s.tb.lastSync + 3000000000
  · exact .inr ht
  · have hst : ¬ (s.tb.ptp = .acquiring ∨ s.tb.ptp = .synced) := fun hst => h ⟨hst, Nat.not_lt.mp ht⟩
    generalize s.tb.ptp = p at hst
    cases p with
    | off => exact .inl (.inl rfl)
    | acquiring => exact absurd (.inl rfl) hst
    | synced => exact absurd (.inr rfl) hst
    | lost => exact .inl (.inr rfl)

theorem State.tbsCfg_refused (path : Path) (v : Nat) (h : v &&& Reg.tbsCfg.mask [.rsv] ≠ 0 ∨ fld v 4 3 = 3) :
    s.tbsCfg path v = s.ignored path (Reg.tbsCfg.addr 0 0) 2 :=
  if_pos (by rw [Bool.or_eq_true, decide_eq_true_iff, decide_eq_true_iff]; exact h)

theorem State.tbsCfg_starts (hS : s.Inv) (path : Path) (v : Word) (h : ¬ (v.toNat &&& Reg.tbsCfg.mask [.rsv] ≠ 0 ∨ fld v.toNat 4 3 = 3)) :
    ∃ t, s.tbsCfg path v.toNat = t ∧ t.rd .tbsCfg = v.toNat ∧ t.tb.ptp = (if bit v.toNat 0 then .acquiring else .off) ∧ t.tb.good = 0 ∧
      t.tb.lastSync = s.time ∧ t.time = s.time ∧ t.ev = s.ev ∧ t.mem = s.mem :=
  ⟨_, if_neg (by rw [Bool.or_eq_true, decide_eq_true_iff, decide_eq_true_iff]; exact h),
    (State.rd_wr hS ..).trans (Nat.mod_eq_of_lt v.isLt), rfl, rfl, rfl, rfl, rfl, rfl⟩

/-! ### The PCIe link -/

theorem State.rb_congr {t : State} {r : Reg} {i : Nat} (h : t.rd r i = s.rd r i) (b : Nat) : t.rb r i b = s.rb r i b := by
  rw [State.rb, h, State.rb]

/-- The status word after the link has gone down, for the cause 1, 2 or 3 (R382). -/
def State.pciCut (s : State) (cause : Nat) : State :=
  if cause = 3 then ({ s with ports := { s.ports with msix := [], pba := [] } } : State).wf_ .pciStatus 0 8 8 0
  else ({ s with ports := { s.ports with msix := [], pba := [] } } : State).wr .pciStatus 0 0 0

theorem State.pciCut_ports (cause : Nat) : (s.pciCut cause).ports = { s.ports with msix := [], pba := [] } := by
  unfold State.pciCut
  split
  · exact State.wf__ports ..
  · exact State.wr_ports ..

theorem State.pciCut_keeps {β : Type} (φ : State → β) (hports : ∀ t x, φ { t with ports := x } = φ t)
    (hwr : ∀ t r i k v, φ (State.wr t r i k v) = φ t) (cause : Nat) : φ (s.pciCut cause) = φ s := by
  unfold State.pciCut
  split
  · exact (hwr ..).trans (hports _ _)
  · exact (hwr ..).trans (hports _ _)

section
variable (hS : s.Inv)
include hS

theorem State.pciCut_safe (cause : Nat) : (s.pciCut cause).Safe 0 0 s.pending := by
  have hports : ({ s with ports := { s.ports with msix := [], pba := [] } } : State).Safe 0 0 s.pending := State.Safe.lit hS rfl rfl rfl rfl
  unfold State.pciCut
  split
  · exact State.wf__safe _ _ _ _ _ _ hports
  · exact State.wr_safe _ _ _ _ _ hports

theorem State.pciCut_status (cause : Nat) : (s.pciCut cause).rb .pciStatus 0 8 = false ∧
    (cause ≠ 3 → (s.pciCut cause).rb .pciStatus 0 0 = false) ∧ (cause = 3 → (s.pciCut cause).rb .pciStatus 0 0 = s.rb .pciStatus 0 0) := by
  have hports : ({ s with ports := { s.ports with msix := [], pba := [] } } : State).Safe 0 0 s.pending := State.Safe.lit hS rfl rfl rfl rfl
  unfold State.pciCut
  split
  · next h =>
    refine ⟨?_, fun hne => absurd h hne, fun _ => ?_⟩
    · rw [State.rb_eq_rf, State.rf_wf_ hports _ _ _ (by decide) (by decide)]
      rfl
    · rw [State.rb_eq_rf, State.rf_wf_other hports _ _ _ (by decide) (.inl (by decide)) (by decide) (by decide), ← State.rb_eq_rf]
      rfl
  · next h =>
    have hzero (b : Nat) : (State.wr ({ s with ports := { s.ports with msix := [], pba := [] } } : State) .pciStatus 0 0 0).rb .pciStatus 0 b = false := by
      rw [State.rb, State.rd_wr hports]
      exact Nat.zero_testBit b
    exact ⟨hzero 8, fun _ => hzero 0, fun he => absurd he h⟩

theorem State.pciDown_cuts (cause : Fin 3) : ∃ t, s.pciDown (cause.val + 1) = t ∧ t.ports.msix = [] ∧ t.ports.pba = [] ∧
    t.dmaUp = false ∧ (cause ≠ 2 → t.pcieUp = false) ∧ (cause = 2 → t.pcieUp = s.pcieUp) ∧ t.mem = s.mem ∧ t.host = s.host := by
  let e := evIf 0x5031 1 0x10 (cause.val + 1)
  have hst : ((s.pciCut (cause.val + 1)).raise e).rd .pciStatus 0 = (s.pciCut (cause.val + 1)).rd .pciStatus 0 :=
    State.rd_raise_ne (State.pciCut_safe hS _) e (by decide)
  have hports : ((s.pciCut (cause.val + 1)).raise e).ports = { s.ports with msix := [], pba := [] } :=
    (State.raise_ports ..).trans (State.pciCut_ports _)
  obtain ⟨hmaster, hdown, hkept⟩ := State.pciCut_status hS (cause.val + 1)
  have hcause : cause = 2 ↔ cause.val + 1 = 3 := by omega
  refine ⟨(s.pciCut (cause.val + 1)).raise e, rfl, congrArg Ports.msix hports, congrArg Ports.pba hports, ?_, fun h => ?_, fun h => ?_,
    (State.raise_mem ..).trans (State.pciCut_keeps State.mem (fun _ _ => rfl) State.wr_mem _),
    (State.raise_host ..).trans (State.pciCut_keeps State.host (fun _ _ => rfl) State.wr_host _)⟩
  · rw [State.dmaUp, State.rb_congr hst, hmaster, Bool.and_false]
  · rw [State.pcieUp, State.rb_congr hst, hdown (mt hcause.mpr h)]
  · rw [State.pcieUp, State.rb_congr hst, hkept (hcause.mp h), State.pcieUp]

theorem State.pciUp_comes (gen : Fin 6) (width : Fin 16) (hgen : 3 ≤ gen.val) (hwidth : width.val ∈ [1, 2, 4, 8]) :
    ∃ t, s.pciUp gen width = t ∧ t.rd .pciStatus = 1 + 2 * gen.val + 16 * width.val + 256 ∧ t.dmaUp = true ∧ t.mem = s.mem ∧ t.host = s.host := by
  have hle : width.val ≤ 8 := by
    simp only [List.mem_cons, List.not_mem_nil, or_false] at hwidth
    omega
  have hgo : ((decide (gen.val = 3) || decide (gen.val = 4) || decide (gen.val = 5)) &&
      (decide (width.val = 1) || decide (width.val = 2) || decide (width.val = 4) || decide (width.val = 8))) = true := by
    simp only [List.mem_cons, List.not_mem_nil, or_false] at hwidth
    simp only [Bool.and_eq_true, Bool.or_eq_true, decide_eq_true_iff]
    omega
  let v := 1 + 2 * gen.val + 16 * width.val + 256
  have hrd : ((s.wr .pciStatus 0 0 v).raise (evIf 0x5030 0 0x10 (gen + 16 * width))).rd .pciStatus 0 = v := by
    rw [State.rd_raise_ne (State.wr_safe s _ _ _ _ hS) _ (by decide), State.rd_wr hS]
    exact Nat.mod_eq_of_lt (by omega)
  have hup : bit v 0 = true ∧ bit v 8 = true := by
    unfold bit
    rw [Nat.testBit_eq_decide_div_mod_eq, Nat.testBit_eq_decide_div_mod_eq, decide_eq_true_iff, decide_eq_true_iff]
    omega
  refine ⟨_, if_pos hgo, hrd, ?_, (State.raise_mem ..).trans (State.wr_mem ..), (State.raise_host ..).trans (State.wr_host ..)⟩
  rw [State.dmaUp, State.pcieUp, State.rb, State.rb, hrd, hup.1, hup.2, Bool.and_self]

end

end

/-- Settles O54. -/
theorem timeBaseAndPcie : Obligations.TimeBaseAndPcie := by
  unfold Obligations.TimeBaseAndPcie
  refine fun s hI => ⟨fun h => ⟨next_congr (if_pos h), next_congr (if_pos h), fun _ => next_congr (if_pos h),
      fun _ _ => next_congr (if_pos (by rw [h]; rfl))⟩,
    fun h => ⟨next_congr (if_neg (ne_true_of_eq_false h)), next_congr (if_neg (ne_true_of_eq_false h))⟩,
    fun h => ⟨fun _ _ => next_if_neg h _ _, next_if_neg h _ _⟩, fun halive => ⟨fun port off => ?_, fun h => ?_, fun h => ?_⟩,
    fun path v => ⟨fun ha => next_asked_unanswered ha _, fun ha hbad => ?_, fun ha hok => ?_⟩, fun hreset => ⟨fun cause => ?_, fun gen width => ⟨?_, fun hgen hwidth => ?_⟩⟩⟩
  · have hrun : exec (.ptpSync off port) s = .next (s.ptpSync off port) := next_congr (if_pos halive)
    dsimp only
    rw [hrun]
    refine ⟨fun h => next_congr (State.ptpSync_other h), fun h hst hgood => ?_, fun h hst hgood hoff => ?_, fun h hst hgood hoff => ?_,
      fun h hst hoff => ?_, fun h hst hlo hhi => ?_, fun h hst => ?_⟩
    · exact next_congr ((State.ptpSync_acquiring h hst).trans (if_pos hgood))
    · exact next_congr ((State.ptpSync_acquiring h hst).trans ((if_neg (Nat.not_le.mpr hgood)).trans (if_pos hoff)))
    · exact next_congr ((State.ptpSync_acquiring h hst).trans ((if_neg (Nat.not_le.mpr hgood)).trans (if_neg (Int.not_lt.mpr hoff))))
    · exact next_congr ((State.ptpSync_synced h hst).trans (if_pos (by omega)))
    · exact next_congr ((State.ptpSync_synced h hst).trans (if_neg (by omega)))
    · exact next_congr (State.ptpSync_lost h hst)
  · exact next_congr ((if_pos halive).trans (State.ptpSilent_past h.1 h.2))
  · exact next_congr ((if_pos halive).trans (State.ptpSilent_early h))
  · exact next_congr ((State.asked_answered ha _).trans (State.tbsCfg_refused path _ hbad))
  · obtain ⟨t, ht, hrest⟩ := State.tbsCfg_starts hI path v hok
    exact ⟨t, next_congr ((State.asked_answered ha _).trans ht), hrest⟩
  · obtain ⟨t, ht, hrest⟩ := State.pciDown_cuts hI cause
    exact ⟨t, next_congr ((if_neg (ne_true_of_eq_false hreset)).trans ht), hrest⟩
  · intro h
    refine next_congr (if_pos ?_)
    rw [Bool.or_eq_true, Bool.or_eq_true, decide_eq_true_iff, Bool.not_eq_true', ← Bool.not_eq_true, List.contains_iff_mem]
    obtain h | h := h
    · exact .inl (.inr h)
    · exact .inr h
  · obtain ⟨t, ht, hrest⟩ := State.pciUp_comes hI gen width hgen hwidth
    refine ⟨t, next_congr ((if_neg ?_).trans ht), hrest⟩
    rw [hreset, Bool.or_eq_true, Bool.or_eq_true, decide_eq_true_iff, Bool.not_eq_true', ← Bool.not_eq_true, List.contains_iff_mem]
    rintro ((h | h) | h)
    · exact nomatch h
    · exact absurd hgen (Nat.not_le.mpr h)
    · exact h hwidth

end Sys2Proof.Machine
end

section
/-! PROOFS. Boot containers, COMMIT and reset (R377, R392, R395, R398, R401, R402, R407). -/
namespace Sys2Proof.Machine
open Sys2Proof

section
variable {s : State}

/-! ### Containers -/

theorem leNat_lt (bs : List Byte) : leNat bs < 256 ^ bs.length := by
  induction bs with
  | nil => exact Nat.one_pos
  | cons b bs ih =>
    have hb := b.isLt
    rw [leNat, List.length_cons, Nat.pow_succ]
    omega

theorem leAt_lt (bs : List Byte) (off n : Nat) : leAt bs off n < 256 ^ n :=
  Nat.lt_of_lt_of_le (leNat_lt _) (Nat.pow_le_pow_right (by decide) (List.length_take_le _ _))

theorem State.containerOf_version_lt (base : Nat) : (s.containerOf base).version < 2 ^ 32 := leAt_lt _ 12 4

/-- What BOOT_STATUS and the versions shown leave (R402, R417). -/
theorem State.bootFlags_keeps {β : Type} (φ : State → β) (hwr : ∀ t r i k v, φ (State.wr t r i k v) = φ t) : φ s.bootFlags = φ s :=
  (hwr ..).trans (hwr ..)

theorem State.bootFlags_phase (hS : s.Inv) : s.bootFlags.rf .bootStatus 0 3 0 = s.rf .bootStatus 0 3 0 := by
  have hS1 (v : Nat) : (s.wf_ .bootStatus 0 6 6 v).Safe 0 0 s.pending := State.wf__safe s _ _ _ _ _ hS
  rw [State.bootFlags]
  exact (State.rf_wf_other (hS1 _) _ _ _ (by decide) (.inl (by decide)) (by decide) (by decide)).trans
    (State.rf_wf_other hS _ _ _ (by decide) (.inl (by decide)) (by decide) (by decide))

theorem State.bootFlags_rd (hS : s.Inv) {r : Reg} (h : r.addr 0 0 ≠ Reg.bootStatus.addr 0 0) : s.bootFlags.rd r = s.rd r := by
  have hS1 (v : Nat) : (s.wf_ .bootStatus 0 6 6 v).Safe 0 0 s.pending := State.wf__safe s _ _ _ _ _ hS
  rw [State.bootFlags]
  exact (State.rd_wr_ne (hS1 _) _ h).trans (State.rd_wr_ne hS _ h)

/-- The version, the bank and the phase that an accepted container shows (R395, R417). -/
def State.bootShown (s : State) (r : Reg) (b v ph bank : Nat) : State :=
  (((s.wr r 0 0 v).wf_ .bootStatus 0 b b bank).wf_ .bootStatus 0 3 0 ph).bootFlags

theorem State.bootShown_keeps {β : Type} (φ : State → β) (hwr : ∀ t r i k v, φ (State.wr t r i k v) = φ t) (r : Reg) (b v ph bank : Nat) :
    φ (s.bootShown r b v ph bank) = φ s :=
  (State.bootFlags_keeps φ hwr).trans ((hwr ..).trans ((hwr ..).trans (hwr ..)))

theorem State.bootShown_reads (hS : s.Inv) {r : Reg} (hr : r.addr 0 0 ≠ Reg.bootStatus.addr 0 0) (b v ph bank : Nat) (hv : v < 2 ^ 32)
    (hph : ph < 16) : (s.bootShown r b v ph bank).rf .bootStatus 0 3 0 = ph ∧ (s.bootShown r b v ph bank).rd r = v := by
  have hS1 : (s.wr r 0 0 v).Inv := State.wr_safe s _ _ _ _ hS
  have hS2 : ((s.wr r 0 0 v).wf_ .bootStatus 0 b b bank).Inv := State.wf__safe _ _ _ _ _ _ hS1
  have hS3 : (((s.wr r 0 0 v).wf_ .bootStatus 0 b b bank).wf_ .bootStatus 0 3 0 ph).Inv := State.wf__safe _ _ _ _ _ _ hS2
  refine ⟨(State.bootFlags_phase hS3).trans ?_, (State.bootFlags_rd hS3 hr).trans ?_⟩
  · exact (State.rf_wf_ hS2 .bootStatus 0 ph (by decide) (by decide)).trans (Nat.mod_eq_of_lt hph)
  · exact (State.rd_wr_ne hS2 _ hr).trans ((State.rd_wr_ne hS1 _ hr).trans ((State.rd_wr hS ..).trans (Nat.mod_eq_of_lt hv)))

/-- The firmware bundle in force (R395, R399). -/
def State.fwLoaded (s : State) (base : Nat) : State :=
  { s with boot := { s.boot with
    fw := some (s.containerOf base), tenderCode := s.sectBytes base 2, tenderBad := false,
    tenderDigest := Sha.sha256 (s.sectBytes base 2) } }

theorem State.takeFw_eq (base : Nat) (bankB : Bool) : s.takeFw base bankB =
    (s.fwLoaded base).bootShown .lkpFwVersion 4 (s.containerOf base).version 3 (b2n bankB) := rfl

/-- The configuration image in force, with the window of the management image (R395, R399). -/
def State.cfgLoaded (s : State) (base : Nat) : State :=
  let s1 : State := { s with boot := { s.boot with
    cfg := some (s.containerOf base), regWrites := regWriteList (s.sectBytes base 0x101), sirin := s.sectBytes base 0x102,
    mgmt := s.sectBytes base 0x103, pwRead := (s.sectBytes base 0x104).take 8, pwWrite := ((s.sectBytes base 0x104).drop 8).take 8 } }
  if (s.sectBytes base 0x103).isEmpty then s1 else s1.wf_ .pciBar2Cfg 0 12 8 (leAt (s.sectBytes base 0x103) 97 1)

theorem State.takeCfg_eq (base : Nat) (bankB : Bool) : s.takeCfg base bankB =
    (s.cfgLoaded base).bootShown .lkpCfgVersion 5 (s.containerOf base).version 4 (b2n bankB) := rfl

theorem State.cfgLoaded_keeps {β : Type} (φ : State → β) (hwr : ∀ t r i k v, φ (State.wr t r i k v) = φ t)
    (hboot : ∀ (t : State) (x : Boot), x.ident = t.boot.ident → φ { t with boot := x } = φ t)
    (base : Nat) : φ (s.cfgLoaded base) = φ s := by
  have hload := hboot s { s.boot with
    cfg := some (s.containerOf base), regWrites := regWriteList (s.sectBytes base 0x101), sirin := s.sectBytes base 0x102,
    mgmt := s.sectBytes base 0x103, pwRead := (s.sectBytes base 0x104).take 8, pwWrite := ((s.sectBytes base 0x104).drop 8).take 8 } rfl
  unfold State.cfgLoaded
  dsimp only
  split
  · exact hload
  · exact (hwr ..).trans hload

theorem State.cfgLoaded_cfg (base : Nat) : (s.cfgLoaded base).boot.cfg = some (s.containerOf base) := by
  unfold State.cfgLoaded
  dsimp only
  split
  · rfl
  · rfl

theorem State.cfgLoaded_safe (hS : s.Inv) (base : Nat) : (s.cfgLoaded base).Safe 0 0 s.pending := by
  unfold State.cfgLoaded
  dsimp only
  split
  · exact State.Safe.lit hS rfl rfl rfl rfl
  · exact State.wf__safe _ _ _ _ _ _ (State.Safe.lit hS rfl rfl rfl rfl)

theorem State.takeCfg_reads (hS : s.Inv) (bankB : Bool) (base : Nat) : ∃ t, s.takeCfg base bankB = t ∧
    t.boot.ident = s.boot.ident ∧ t.mem = s.mem ∧ t.arrays = s.arrays ∧ t.rf .bootStatus 0 3 0 = 4 ∧
      t.rd .lkpCfgVersion = (s.containerOf base).version ∧ t.boot.cfg = some (s.containerOf base) := by
  have hS1 := State.cfgLoaded_safe hS base
  have hpend : (s.cfgLoaded base).pending = s.pending := State.cfgLoaded_keeps State.pending State.wr_pending (fun _ _ _ => rfl) base
  have hread := State.bootShown_reads (s := s.cfgLoaded base) (by rw [State.Inv, hpend]; exact hS1) (r := .lkpCfgVersion) (by decide) 5 _ 4
    (b2n bankB) (s.containerOf_version_lt base) (by decide)
  exact ⟨_, State.takeCfg_eq base bankB,
    (State.bootShown_keeps (fun t => t.boot.ident) (fun _ _ _ _ _ => rfl) ..).trans
      (State.cfgLoaded_keeps (fun t => t.boot.ident) (fun _ _ _ _ _ => rfl) (fun _ _ h => h) base),
    (State.bootShown_keeps State.mem State.wr_mem ..).trans (State.cfgLoaded_keeps State.mem State.wr_mem (fun _ _ _ => rfl) base),
    (State.bootShown_keeps State.arrays State.wr_arrays ..).trans (State.cfgLoaded_keeps State.arrays State.wr_arrays (fun _ _ _ => rfl) base),
    hread.1, hread.2, (State.bootShown_keeps (fun t => t.boot.cfg) (fun _ _ _ _ _ => rfl) ..).trans (State.cfgLoaded_cfg base)⟩

theorem State.takeFw_reads (hS : s.Inv) (bankB : Bool) (base : Nat) : ∃ t, s.takeFw base bankB = t ∧
    t.boot.ident = s.boot.ident ∧ t.mem = s.mem ∧ t.arrays = s.arrays ∧ t.rf .bootStatus 0 3 0 = 3 ∧
      t.rd .lkpFwVersion = (s.containerOf base).version ∧ t.boot.fw = some (s.containerOf base) := by
  have hS1 : (s.fwLoaded base).Inv := State.Safe.lit hS rfl rfl rfl rfl
  have hread := State.bootShown_reads hS1 (r := .lkpFwVersion) (by decide) 4 _ 3 (b2n bankB) (s.containerOf_version_lt base) (by decide)
  exact ⟨_, State.takeFw_eq base bankB, State.bootShown_keeps (fun t => t.boot.ident) (fun _ _ _ _ _ => rfl) ..,
    State.bootShown_keeps State.mem State.wr_mem .., State.bootShown_keeps State.arrays State.wr_arrays .., hread.1, hread.2,
    State.bootShown_keeps (fun t => t.boot.fw) (fun _ _ _ _ _ => rfl) ..⟩

theorem State.take_reads (hS : s.Inv) (cfg bankB : Bool) (base : Nat) :
    ∃ t, (if cfg then s.takeCfg base bankB else s.takeFw base bankB) = t ∧
      t.boot.ident = s.boot.ident ∧ t.mem = s.mem ∧ t.arrays = s.arrays ∧ t.rf .bootStatus 0 3 0 = (if cfg then 4 else 3) ∧
      t.rd (if cfg then .lkpCfgVersion else .lkpFwVersion) = (s.containerOf base).version ∧
      (if cfg then t.boot.cfg else t.boot.fw) = some (s.containerOf base) := by
  cases cfg with
  | true => exact State.takeCfg_reads hS bankB base
  | false => exact State.takeFw_reads hS bankB base

/-- A container that is verified is due: start-up has come to it, and its bank is the one to try (R398). -/
def State.verifyDue (s : State) (cfg bankB : Bool) : Bool :=
  !s.boot.inReset && s.pwrState = 0 && (if cfg then s.rf .bootStatus 0 3 0 = 3 else s.rf .bootStatus 0 3 0 = 1 || s.rf .bootStatus 0 3 0 = 2) &&
    decide (bankB = if cfg then s.boot.cfgAFailed else s.boot.fwAFailed)

theorem State.verifyDue_iff {cfg bankB : Bool} : s.verifyDue cfg bankB = true ↔ s.boot.inReset = false ∧ s.pwrState = 0 ∧
    (if cfg then s.rf .bootStatus 0 3 0 = 3 else s.rf .bootStatus 0 3 0 = 1 ∨ s.rf .bootStatus 0 3 0 = 2) ∧
    bankB = (if cfg then s.boot.cfgAFailed else s.boot.fwAFailed) := by
  unfold State.verifyDue
  rw [Bool.and_eq_true, Bool.and_eq_true, Bool.and_eq_true, Bool.not_eq_true', decide_eq_true_iff, decide_eq_true_iff, and_assoc, and_assoc]
  cases cfg with
  | true => simp only [if_true, decide_eq_true_iff]
  | false => simp only [Bool.false_eq_true, if_false, Bool.or_eq_true, decide_eq_true_iff]

/-- The first step of R398 that a container fails, 1 where there is no bank. -/
def State.verifyStep (s : State) (cfg bankB : Bool) : Nat :=
  match s.bank (2 * b2n cfg + b2n bankB) with
  | some (base, len) => s.containerStep cfg base len
  | none => 1

/-- A rejected container in bank A (R401): its bank is noted as failed, with the event. -/
def State.bankAFailed (s : State) (cfg : Bool) : State :=
  let s1 : State := { s with boot := if cfg then { s.boot with cfgAFailed := true } else { s.boot with fwAFailed := true } }
  if cfg then s1 else s1.wf_ .bootStatus 0 3 0 2

theorem State.bootVerify_idle {cfg bankB : Bool} (h : s.verifyDue cfg bankB = false) : s.bootVerify cfg bankB = s :=
  if_pos (by rw [Bool.not_eq_true']; exact h)

theorem State.bootVerify_accepts {cfg bankB : Bool} (h : s.verifyDue cfg bankB = true) {base len : Nat}
    (hbank : s.bank (2 * b2n cfg + b2n bankB) = some (base, len)) (hstep : s.containerStep cfg base len = 0) :
    s.bootVerify cfg bankB = if cfg then s.takeCfg base bankB else s.takeFw base bankB := by
  unfold State.bootVerify
  extract_lets ph failedA due step b
  have hdue : ¬ (!due) = true := by
    rw [Bool.not_eq_true', Bool.not_eq_false]
    exact h
  have hst : step = 0 := by
    unfold step
    rw [hbank]
    exact hstep
  have hb : b = base := by
    unfold b
    rw [hbank]
    rfl
  rw [if_neg hdue, if_pos hst, hb]

/-- A rejected container (R401): bank A leaves bank B to be tried, bank B ends in BOOT_FAILED. -/
theorem State.bootVerify_rejects {cfg bankB : Bool} (h : s.verifyDue cfg bankB = true) (hstep : s.verifyStep cfg bankB ≠ 0) :
    ∃ e m, s.bootVerify cfg bankB = if bankB then ((s.setPwr 5).send m).raise e else (s.bankAFailed cfg).raise e := by
  unfold State.bootVerify
  extract_lets ph failedA due step b
  have hdue : ¬ (!due) = true := by
    rw [Bool.not_eq_true', Bool.not_eq_false]
    exact h
  have hst : ¬ step = 0 := hstep
  rw [if_neg hdue, if_neg hst]
  cases bankB with
  | true => exact ⟨_, _, rfl⟩
  | false =>
    rw [if_neg Bool.false_ne_true]
    split
    · exact ⟨_, .uart cfg step, rfl⟩
    · exact ⟨_, .uart cfg step, rfl⟩

theorem State.bankAFailed_keeps {β : Type} (φ : State → β) (hwr : ∀ t r i k v, φ (State.wr t r i k v) = φ t)
    (hcfg : ∀ t : State, φ { t with boot := { t.boot with cfgAFailed := true } } = φ t)
    (hfw : ∀ t : State, φ { t with boot := { t.boot with fwAFailed := true } } = φ t) (cfg : Bool) : φ (s.bankAFailed cfg) = φ s := by
  cases cfg with
  | true => exact hcfg s
  | false => exact (hwr ..).trans (hfw s)

theorem State.bankAFailed_fails (cfg : Bool) : (if cfg then (s.bankAFailed cfg).boot.cfgAFailed else (s.bankAFailed cfg).boot.fwAFailed) = true := by
  cases cfg with
  | true => rfl
  | false => rfl

theorem State.bankAFailed_pwrState (hS : s.Inv) (cfg : Bool) (e : Event) : ((s.bankAFailed cfg).raise e).pwrState = s.pwrState := by
  have hboot (x : Boot) (hx : x.ident = s.boot.ident) : ({ s with boot := x } : State).Safe 0 0 s.pending :=
    State.Safe.lit hS rfl (congrArg Ident.fwFloor hx) (congrArg Ident.cfgFloor hx) rfl
  have hne : Reg.pwrStatus.addr 0 0 ≠ Reg.bootStatus.addr 0 0 := by decide
  cases cfg with
  | true => exact State.pwrState_congr (State.rd_pwrStatus_raise (hboot { s.boot with cfgAFailed := true } rfl) e)
  | false =>
    have hfw := hboot { s.boot with fwAFailed := true } rfl
    exact State.pwrState_congr ((State.rd_pwrStatus_raise (State.wf__safe _ _ _ _ _ _ hfw) e).trans (State.rd_wr_ne hfw _ hne))

/-- What a rejected container leaves as it is, and what shows that it was (R401). -/
theorem State.rejected_reads (hS : s.Inv) (hp : s.pwrState = 0) (cfg bankB : Bool) (e : Event) (m : Tx) :
    let t := if bankB then ((s.setPwr 5).send m).raise e else (s.bankAFailed cfg).raise e
    t.boot.ident = s.boot.ident ∧ t.mem = s.mem ∧ t.arrays = s.arrays ∧ t.boot.fw = s.boot.fw ∧ t.boot.cfg = s.boot.cfg ∧
      (bankB = true → t.pwrState = 5) ∧
      (bankB = false → t.pwrState = 0 ∧ (if cfg then t.boot.cfgAFailed else t.boot.fwAFailed) = true) := by
  cases bankB with
  | true =>
    have hpwr : (((s.setPwr 5).send m).raise e).pwrState = 5 :=
      (State.pwrState_congr (State.rd_pwrStatus_raise (State.send_safe _ m (State.setPwr_safe s 5 hS)) e)).trans (State.pwrState_setPwr hS 5)
    have hboot : (((s.setPwr 5).send m).raise e).boot = s.boot := State.raise_boot ..
    exact ⟨congrArg Boot.ident hboot, State.raise_mem .., State.raise_arrays .., congrArg Boot.fw hboot, congrArg Boot.cfg hboot,
      fun _ => hpwr, fun h => (nomatch h)⟩
  | false =>
    have hboot : ((s.bankAFailed cfg).raise e).boot = (s.bankAFailed cfg).boot := State.raise_boot ..
    refine ⟨(congrArg Boot.ident hboot).trans (State.bankAFailed_keeps (fun t => t.boot.ident) (fun _ _ _ _ _ => rfl) (fun _ => rfl) (fun _ => rfl) cfg),
      (State.raise_mem ..).trans (State.bankAFailed_keeps State.mem State.wr_mem (fun _ => rfl) (fun _ => rfl) cfg),
      (State.raise_arrays ..).trans (State.bankAFailed_keeps State.arrays State.wr_arrays (fun _ => rfl) (fun _ => rfl) cfg),
      (congrArg Boot.fw hboot).trans (State.bankAFailed_keeps (fun t => t.boot.fw) (fun _ _ _ _ _ => rfl) (fun _ => rfl) (fun _ => rfl) cfg),
      (congrArg Boot.cfg hboot).trans (State.bankAFailed_keeps (fun t => t.boot.cfg) (fun _ _ _ _ _ => rfl) (fun _ => rfl) (fun _ => rfl) cfg),
      fun h => (nomatch h), fun _ => ⟨(State.bankAFailed_pwrState hS cfg e).trans hp, ?_⟩⟩
    show (if cfg then ((s.bankAFailed cfg).raise e).boot.cfgAFailed else ((s.bankAFailed cfg).raise e).boot.fwAFailed) = true
    rw [hboot]
    exact State.bankAFailed_fails cfg

theorem State.bootVerify_rejected (hS : s.Inv) {cfg bankB : Bool} (h : s.verifyDue cfg bankB = true) (hp : s.pwrState = 0)
    (hstep : s.verifyStep cfg bankB ≠ 0) : ∃ t, s.bootVerify cfg bankB = t ∧
      t.boot.ident = s.boot.ident ∧ t.mem = s.mem ∧ t.arrays = s.arrays ∧ t.boot.fw = s.boot.fw ∧ t.boot.cfg = s.boot.cfg ∧
      (bankB = true → t.pwrState = 5) ∧
      (bankB = false → t.pwrState = 0 ∧ (if cfg then t.boot.cfgAFailed else t.boot.fwAFailed) = true) := by
  obtain ⟨e, m, heq⟩ := State.bootVerify_rejects h hstep
  exact ⟨_, heq, State.rejected_reads hS hp cfg bankB e m⟩

/-! ### COMMIT -/

/-- The floor of a running container, where it is higher (R402). -/
theorem raisedFloor_eq (o : Option Container) (f : Nat) :
    (match o with | some c => if f < c.floor then c.floor else f | none => f) = max f ((o.map (·.floor)).getD 0) := by
  cases o with
  | none => exact (Nat.max_zero f).symm
  | some c =>
    show (if f < c.floor then c.floor else f) = max f c.floor
    split
    · next h => exact (Nat.max_eq_right (Nat.le_of_lt h)).symm
    · next h => exact (Nat.max_eq_left (Nat.not_lt.mp h)).symm

theorem State.commit_raises : ∃ t, s.commit = t ∧
    t.boot.ident.fwFloor = max s.boot.ident.fwFloor ((s.boot.fw.map (·.floor)).getD 0) ∧
    t.boot.ident.cfgFloor = max s.boot.ident.cfgFloor ((s.boot.cfg.map (·.floor)).getD 0) ∧
    t.boot.ident.owner = (match s.boot.cfg with
      | some c => if c.hasNext then some c.next else s.boot.ident.owner.orElse (fun _ => some c.keyHash)
      | none => s.boot.ident.owner) ∧
    t.mem = s.mem ∧ t.arrays = s.arrays ∧ t.cores = s.cores := by
  unfold State.commit
  extract_lets i owner up running s1
  have hkeep {β : Type} (φ : State → β) (hraise : ∀ t e, φ (State.raise t e) = φ t) (c : Prop) [Decidable c] (e : Event) :
      φ (if c then s1 else s1.raise e) = φ s1 := by
    split
    · rfl
    · exact hraise ..
  have hident : s1.boot.ident = { owner := owner, fwFloor := up s.boot.fw i.fwFloor, cfgFloor := up s.boot.cfg i.cfgFloor } :=
    State.bootFlags_keeps (fun t => t.boot.ident) (fun _ _ _ _ _ => rfl)
  have howner : owner = (match s.boot.cfg with
      | some c => if c.hasNext then some c.next else s.boot.ident.owner.orElse (fun _ => some c.keyHash)
      | none => s.boot.ident.owner) := by
    unfold owner
    cases s.boot.cfg with
    | none => rfl
    | some c =>
      dsimp only
      split
      · rfl
      · cases i.owner with
        | none => rfl
        | some k => rfl
  refine ⟨_, rfl, ?_, ?_, ?_, ?_, ?_, ?_⟩
  · exact (hkeep (fun t => t.boot.ident.fwFloor) (fun t e => congrArg (fun b : Boot => b.ident.fwFloor) (State.raise_boot t e)) _ _).trans
      ((congrArg Ident.fwFloor hident).trans (raisedFloor_eq ..))
  · exact (hkeep (fun t => t.boot.ident.cfgFloor) (fun t e => congrArg (fun b : Boot => b.ident.cfgFloor) (State.raise_boot t e)) _ _).trans
      ((congrArg Ident.cfgFloor hident).trans (raisedFloor_eq ..))
  · exact (hkeep (fun t => t.boot.ident.owner) (fun t e => congrArg (fun b : Boot => b.ident.owner) (State.raise_boot t e)) _ _).trans
      ((congrArg Ident.owner hident).trans howner)
  · exact (hkeep State.mem State.raise_mem _ _).trans (State.bootFlags_keeps State.mem State.wr_mem)
  · exact (hkeep State.arrays State.raise_arrays _ _).trans (State.bootFlags_keeps State.arrays State.wr_arrays)
  · exact (hkeep State.cores State.raise_cores _ _).trans (State.bootFlags_keeps State.cores State.wr_cores)

/-! ### Reset -/

theorem State.flushStore_keeps {β : Type} (φ : State → β) (hrecs : ∀ t x, φ { t with recs := x } = φ t)
    (hraise : ∀ t e, φ (State.raise t e) = φ t) : φ s.flushStore = φ s := by
  unfold State.flushStore
  split
  · exact (hrecs _ _).trans (State.each_keeps φ (fun t p => State.storePage_keeps φ hrecs hraise p) s _)
  · rfl

theorem State.flushStore_idle (h : s.pwrState ≠ 4) : s.flushStore = s :=
  if_neg (by rw [Bool.and_eq_true, decide_eq_true_iff]; exact fun hc => h hc.1)

/-- An array after a reset: its cells and targets alone (R392). -/
def Arr.cold (x : Arr) : Arr := { cells := x.cells, targets := x.targets }

theorem State.arr_cold (hS : s.Inv) (inReset : Bool) (a : Nat) : (s.flushStore.cold inReset).arr a = (s.arr a).cold := by
  have harrays : s.flushStore.arrays = s.arrays := State.flushStore_keeps State.arrays (fun _ _ => rfl) State.raise_arrays
  show NMap.get {} (s.flushStore.arrays.foldl (fun m e => m.set {} e.1 e.2.cold) []) a = (s.arr a).cold
  rw [harrays]
  exact NMap.get_map_values (f := Arr.cold) rfl (NMap.sorted_of_wf hS.canon.arrays) a

theorem State.flushStore_boot : s.flushStore.boot = s.boot := State.flushStore_keeps State.boot (fun _ _ => rfl) State.raise_boot

theorem State.cold_flash (inReset : Bool) : (s.flushStore.cold inReset).boot.ident = s.boot.ident ∧
    (s.flushStore.cold inReset).boot.flash = s.boot.flash := by
  rw [← s.flushStore_boot]
  exact ⟨rfl, rfl⟩

theorem State.cold_pwrState (inReset : Bool) : (s.cold inReset).pwrState = 0 :=
  (State.rf_of_regs (s := State.reset) rfl .pwrStatus 0 2 0).trans (by decide)

end

/-- Settles O56. -/
theorem boot : Obligations.Boot := by
  unfold Obligations.Boot
  refine ⟨⟨fun s cfg bankB hI => ⟨fun h => ?_, fun hreset hp hbank hph => ?_⟩, fun s path ha => next_asked_unanswered ha _, fun s path hI ha => ?_⟩,
    fun s => ⟨fun h => next_congr (if_pos h), fun h => next_congr (if_neg (ne_true_of_eq_false h)), fun hI => ?_, fun h => next_congr (if_neg h),
      fun hI hp => ?_⟩⟩
  · refine next_congr (State.bootVerify_idle ?_)
    rw [Bool.eq_false_iff, ne_eq, State.verifyDue_iff]
    rintro ⟨hreset, hp, hph, hbank⟩
    obtain h | h | h | ⟨rfl, h⟩ | ⟨rfl, h1, h2⟩ := h
    · exact absurd h (ne_true_of_eq_false hreset)
    · exact h hp
    · exact h hbank
    · exact h hph
    · exact hph.elim h1 h2
  · have hdue : s.verifyDue cfg bankB = true := State.verifyDue_iff.mpr ⟨hreset, hp, hph, hbank⟩
    have hreject (hstep : s.verifyStep cfg bankB ≠ 0) := State.bootVerify_rejected hI hdue hp hstep
    dsimp only
    split
    · next hnone =>
      obtain ⟨t, ht, hident, hmem, harrays, hrest⟩ := hreject (by rw [State.verifyStep, hnone]; exact Nat.one_ne_zero)
      exact ⟨t, next_congr ht, hident, hmem, harrays, hrest⟩
    · next base len hbank' =>
      by_cases hstep : s.containerStep cfg base len = 0
      · obtain ⟨t, ht, hident, hmem, harrays, hrest⟩ := State.take_reads hI cfg bankB base
        exact ⟨t, next_congr ((State.bootVerify_accepts hdue hbank' hstep).trans ht), hident, hmem, harrays, fun _ => hrest,
          fun h => absurd hstep h⟩
      · obtain ⟨t, ht, hident, hmem, harrays, hrest⟩ := hreject (by rw [State.verifyStep, hbank']; exact hstep)
        exact ⟨t, next_congr ht, hident, hmem, harrays, fun h => absurd h hstep, fun _ => hrest⟩
  · obtain ⟨t, ht, hrest⟩ := s.commit_raises
    exact ⟨t, next_congr ((State.asked_answered ha _).trans ht), hrest⟩
  · obtain ⟨hident, hflash⟩ := s.cold_flash true
    refine ⟨_, rfl, rfl, rfl, rfl, rfl, rfl, rfl, rfl, rfl, hident, hflash, fun a => ?_, fun h => ?_⟩
    · have ha : (s.resetOn).arr a = (s.arr a).cold := State.arr_cold hI true a
      rw [show State.arr (s.resetOn) a = _ from ha]
      exact ⟨rfl, rfl, rfl, rfl⟩
    · have hcold : s.resetOn = s.cold true := congrArg (fun t => State.cold t true) (State.flushStore_idle h)
      rw [hcold]
      exact ⟨rfl, rfl⟩
  · obtain ⟨hident, hflash⟩ := s.cold_flash false
    refine ⟨_, next_congr (if_pos hp), rfl, rfl, rfl, State.cold_pwrState false, hident, hflash, fun a => ?_⟩
    have ha := State.arr_cold hI false a
    rw [ha]
    exact ⟨rfl, rfl⟩

end Sys2Proof.Machine
end

section
/-! PROOFS. The end of memory training (R383, R384, R395). -/
namespace Sys2Proof.Machine
open Sys2Proof

section
variable {s : State}

/-- The status word of a controller whose training has ended (R383). -/
def trainedWord (ok : Bool) (rate raw : Nat) (typ : Bool) : Nat :=
  b2n (ok && decide (rate < 3 ∧ 2 ≤ raw ∧ raw ≤ 5)) + 2 * b2n typ + 4 * rate + 16 * raw

section
variable {ok typ : Bool} {rate raw : Nat}

theorem trainedWord_lt (hrate : rate < 4) (hraw : raw < 16) : trainedWord ok rate raw typ < 2 ^ 32 := by
  have hok := b2n_le (ok && decide (rate < 3 ∧ 2 ≤ raw ∧ raw ≤ 5))
  have htyp := b2n_le typ
  unfold trainedWord
  omega

theorem trainedWord_raw (hrate : rate < 4) (hraw : raw < 16) : fld (trainedWord ok rate raw typ) 7 4 = raw := by
  have hok := b2n_le (ok && decide (rate < 3 ∧ 2 ≤ raw ∧ raw ≤ 5))
  have htyp := b2n_le typ
  rw [fld_eq]
  unfold trainedWord
  omega

theorem raw_le_of_trainedWord (h : bit (trainedWord ok rate raw typ) 0 = true) : raw ≤ 5 := by
  unfold bit at h
  rw [Nat.testBit_eq_decide_div_mod_eq, decide_eq_true_iff] at h
  have hgood : b2n (ok && decide (rate < 3 ∧ 2 ≤ raw ∧ raw ≤ 5)) = 1 := by
    have hok := b2n_le (ok && decide (rate < 3 ∧ 2 ≤ raw ∧ raw ≤ 5))
    unfold trainedWord at h
    omega
  unfold b2n at hgood
  split at hgood
  · next hc =>
    rw [Bool.and_eq_true, decide_eq_true_iff] at hc
    exact hc.2.2.2
  · exact nomatch hgood

theorem memPages_lt (h : raw ≤ 5) : memPages raw < 2 ^ 32 := by
  revert h
  have : ∀ r : Fin 6, memPages r < 2 ^ 32 := by decide
  exact fun h => this ⟨raw, by omega⟩

end

/-- Controller `m` trained, with its status word (R383). -/
def State.memNoted (s : State) (m w : Nat) : State :=
  { s.wr .memStatus m 0 w with boot := { (s.wr .memStatus m 0 w).boot with trained := m :: (s.wr .memStatus m 0 w).boot.trained } }

/-- The training of a controller that ends is due (R395). -/
def State.TrainingDue (s : State) (m : Nat) : Prop :=
  s.boot.inReset = false ∧ s.pwrState = 0 ∧ s.rf .bootStatus 0 3 0 = 4 ∧ s.boot.trained.contains m = false

theorem State.trainingDue_iff {m : Nat} : (s.boot.inReset || decide (s.pwrState ≠ 0) || decide (s.rf .bootStatus 0 3 0 ≠ 4) ||
    s.boot.trained.contains m) = true ↔ ¬ s.TrainingDue m := by
  simp only [State.TrainingDue, Bool.or_eq_true, decide_eq_true_iff, ← Bool.not_eq_true, Classical.not_and_iff_not_or_not, Classical.not_not, or_assoc, ne_eq]

theorem State.memTrained_idle {m rate raw : Nat} {ok typ : Bool} (h : ¬ s.TrainingDue m) : s.memTrained m ok rate raw typ = s :=
  if_pos (State.trainingDue_iff.mpr h)

theorem State.memTrained_due {m rate raw : Nat} {ok typ : Bool} (h : s.TrainingDue m) (hrate : rate < 4) :
    s.memTrained m ok rate raw typ =
      if s.boot.trained.length = 3 then (s.memNoted m (trainedWord ok rate raw typ)).memOpen
      else s.memNoted m (trainedWord ok rate raw typ) := by
  have hgood : (ok && decide (rate < 3) && decide (2 ≤ raw) && decide (raw ≤ 5)) = (ok && decide (rate < 3 ∧ 2 ≤ raw ∧ raw ≤ 5)) := by
    rw [Bool.decide_and, Bool.decide_and, Bool.and_assoc, Bool.and_assoc, ← Bool.and_assoc (decide (rate < 3)), Bool.and_assoc]
  unfold State.memTrained
  rw [if_neg fun hc => State.trainingDue_iff.mp hc h, hgood, Nat.mod_eq_of_lt hrate]
  refine ite_congr (propext ?_) (fun _ => rfl) fun _ => rfl
  exact Nat.succ_inj

theorem State.each_modCore_sets (hS : ∃ lf lg cq, s.Safe lf lg cq) {f : Core → Core} {P : Core → Prop} (hf : ∀ x, P (f x)) (c : Nat) (cs : List Nat)
    (h : c ∈ cs ∨ P (s.core c)) : P ((s.each cs (fun t c => t.modCore c f)).core c) := by
  induction cs generalizing s with
  | nil => exact h.resolve_left List.not_mem_nil
  | cons d cs ih =>
    obtain ⟨lf, lg, cq, hS⟩ := hS
    refine ih ⟨lf, lg, cq, State.modCore_safe s d f hS⟩ ?_
    by_cases hd : c = d
    · subst hd
      right
      rw [State.core_modCore hS]
      exact hf _
    · obtain h | h := h
      · exact .inl ((List.mem_cons.mp h).resolve_left hd)
      · right
        rw [State.core_modCore_ne hS _ hd]
        exact h

/-- Memory opens with equal controllers (R383): its pages, and the tenders that load (R135). -/
def State.memOpened (s : State) : State :=
  (s.wr .lkpMemUsable 0 0 (memPages (s.rf .memStatus 0 7 4))).each (List.range 128)
    (fun t c => t.modCore c (fun x => { x with tnd := .loading }))

/-- The Sirin table of the configuration in device memory (R362, R399). -/
def State.sirinCopied (s : State) : State :=
  let a := 4096 * (s.fresh.1 % (s.fresh.2.mstore / 4096 - 6))
  ((s.fresh.2.putMem a s.fresh.2.boot.sirin).wr .ethSrnTableLo 0 0 (u32 a)).wr .ethSrnTableHi 0 0 (a / 2 ^ 32)

theorem State.memOpen_equal (h : s.sameMem = true) :
    s.memOpen = if s.memOpened.boot.sirin.isEmpty then s.memOpened else s.memOpened.sirinCopied :=
  if_neg (by rw [h]; decide)

theorem State.memOpen_unequal (h : s.sameMem = false) : s.memOpen = s.each (List.range 4) (fun t m => t.wf_ .memStatus m 0 0 0) :=
  if_pos (by rw [h]; rfl)

theorem State.memOpened_keeps {β : Type} (φ : State → β) (hwr : ∀ t r i k v, φ (State.wr t r i k v) = φ t)
    (hcores : ∀ t x, φ { t with cores := x } = φ t) : φ s.memOpened = φ s :=
  (State.each_keeps φ (fun _ _ => hcores _ _) _ _).trans (hwr ..)

theorem State.sirinCopied_cores : s.sirinCopied.cores = s.cores := by
  unfold State.sirinCopied
  rw [State.wr_cores, State.wr_cores, State.putMem_cores]
  rfl

theorem memStatus_addr (m : Nat) : Reg.memStatus.addr m 0 = 0x00250000 + m * 0x10000 := rfl

theorem State.each_untrained_bit {lf lg : Nat} {cq : List Instr} (hS : s.Safe lf lg cq) (i : Nat) (ms : List Nat) (h : i ∈ ms ∨ s.rb .memStatus i 0 = false) :
    (s.each ms (fun t m => t.wf_ .memStatus m 0 0 0)).rb .memStatus i 0 = false := by
  induction ms generalizing s with
  | nil => exact h.resolve_left List.not_mem_nil
  | cons m ms ih =>
    refine ih (State.wf__safe s .memStatus m 0 0 0 hS) ?_
    by_cases hi : i = m
    · subst hi
      right
      rw [State.rb_eq_rf, State.rf_wf_ hS _ _ _ (by decide) (by decide)]
      rfl
    · obtain h | h := h
      · exact .inl ((List.mem_cons.mp h).resolve_left hi)
      · right
        have hne : Reg.memStatus.addr i 0 ≠ Reg.memStatus.addr m 0 := by
          rw [memStatus_addr, memStatus_addr]
          omega
        exact (State.rb_congr (State.rd_wr_ne hS _ hne) 0).trans h

section
variable {lf lg : Nat} {cq : List Instr} (hS : s.Safe lf lg cq)
include hS

theorem State.memOpened_safe : s.memOpened.Safe lf lg cq :=
  foldl_keeps (P := fun t : State => t.Safe lf lg cq) (fun t c ht => State.modCore_safe t c _ ht) _ (State.wr_safe s _ _ _ _ hS)

theorem State.memOpened_usable (h : memPages (s.rf .memStatus 0 7 4) < 2 ^ 32) :
    s.memOpened.rd .lkpMemUsable = memPages (s.rf .memStatus 0 7 4) := by
  have hregs : s.memOpened.regs = (s.wr .lkpMemUsable 0 0 (memPages (s.rf .memStatus 0 7 4))).regs :=
    State.each_keeps State.regs (fun t c => State.modCore_regs t c _) _ _
  exact (State.rd_of_regs hregs ..).trans ((State.rd_wr hS ..).trans (Nat.mod_eq_of_lt h))

theorem State.sirinCopied_rd {r : Reg} (hlo : r.addr 0 0 ≠ Reg.ethSrnTableLo.addr 0 0) (hhi : r.addr 0 0 ≠ Reg.ethSrnTableHi.addr 0 0) :
    s.sirinCopied.rd r = s.rd r := by
  have hfresh : s.fresh.2.Safe lf lg cq := State.Safe.lit hS rfl rfl rfl rfl
  unfold State.sirinCopied
  extract_lets a
  have hS1 : (s.fresh.2.putMem a s.fresh.2.boot.sirin).Safe lf lg cq := State.putMem_safe s.fresh.2 _ _ hfresh
  rw [State.rd_wr_ne (State.wr_safe _ _ _ _ _ hS1) _ hhi, State.rd_wr_ne hS1 _ hlo]
  exact State.rd_of_regs (State.putMem_regs ..) r 0 0

theorem State.each_untrained_rd (ms : List Nat) :
    (s.each ms (fun t m => t.wf_ .memStatus m 0 0 0)).rd .lkpMemUsable = s.rd .lkpMemUsable := by
  have hne (m : Nat) : Reg.lkpMemUsable.addr 0 0 ≠ Reg.memStatus.addr m 0 := by
    have husable : Reg.lkpMemUsable.addr 0 0 < 0x00250000 := by decide
    have hst := memStatus_addr m
    omega
  have hall := foldl_keeps (P := fun t : State => t.Safe lf lg cq ∧ t.rd .lkpMemUsable = s.rd .lkpMemUsable)
    (fun t m ht => ⟨State.wf__safe t .memStatus m 0 0 0 ht.1, (State.rd_wr_ne ht.1 _ (hne m)).trans ht.2⟩) ms ⟨hS, rfl⟩
  exact hall.2

/-- What the end of training with equal controllers opens (R135, R383, R384). -/
theorem State.memOpen_opens (h : s.sameMem = true) (hpages : memPages (s.rf .memStatus 0 7 4) < 2 ^ 32) :
    s.memOpen.usable = 4096 * memPages (s.rf .memStatus 0 7 4) ∧ (∀ c, c < 128 → (s.memOpen.core c).tnd = .loading) ∧
      (s.boot.sirin = [] → s.memOpen.mem = s.mem) := by
  have hrd := State.memOpened_usable hS hpages
  have hload (c : Nat) (hc : c < 128) : (s.memOpened.core c).tnd = .loading :=
    State.each_modCore_sets (P := fun x => x.tnd = .loading) ⟨lf, lg, cq, State.wr_safe s _ _ _ _ hS⟩ (fun _ => rfl) c _
      (.inl (List.mem_range.mpr hc))
  have hsirin : s.memOpened.boot.sirin = s.boot.sirin := State.memOpened_keeps (fun t => t.boot.sirin) (fun _ _ _ _ _ => rfl) (fun _ _ => rfl)
  rw [State.memOpen_equal h]
  split
  · exact ⟨congrArg (4096 * ·) hrd, hload, fun _ => State.memOpened_keeps State.mem State.wr_mem (fun _ _ => rfl)⟩
  · next hne =>
    refine ⟨congrArg (4096 * ·) ((State.sirinCopied_rd (State.memOpened_safe hS) (by decide) (by decide)).trans hrd), fun c hc => ?_, fun he => ?_⟩
    · rw [State.core, State.sirinCopied_cores]
      exact hload c hc
    · rw [hsirin, he] at hne
      exact absurd rfl hne

/-- Controllers that are not equal: none is trained (R383). -/
theorem State.memOpen_shuts (h : s.sameMem = false) : (∀ i, i < 4 → bit (s.memOpen.rd .memStatus i) 0 = false) ∧
    s.memOpen.usable = s.usable ∧ s.memOpen.cores = s.cores ∧ s.memOpen.mem = s.mem := by
  have hrd := State.each_untrained_rd hS (List.range 4)
  rw [State.memOpen_unequal h]
  exact ⟨fun i hi => State.each_untrained_bit hS i _ (.inl (List.mem_range.mpr hi)), congrArg (4096 * ·) hrd,
    State.each_keeps State.cores (fun t m => State.wf__cores ..) s _, State.each_keeps State.mem (fun t m => State.wf__mem ..) s _⟩

end

end

end Sys2Proof.Machine
end

section
/-! PROOFS. The steps of start-up up to READY (R56, R383, R395, R396). -/
namespace Sys2Proof.Machine
open Sys2Proof

section
variable {s : State}

/-! ### Training -/

section
variable {m : Fin 4} {w : Nat} (hS : s.Inv)
include hS

theorem State.memNoted_safe : (s.memNoted m w).Safe 0 0 s.pending := State.Safe.lit (State.wr_safe s .memStatus m 0 w hS) rfl rfl rfl rfl

theorem State.memNoted_rd_ne {i : Nat} (hi : i ≠ m.val) : (s.memNoted m w).rd .memStatus i = s.rd .memStatus i := by
  refine State.rd_wr_ne hS _ ?_
  rw [memStatus_addr, memStatus_addr]
  omega

theorem State.memNoted_usable : (s.memNoted m w).usable = s.usable := by
  have hne : Reg.lkpMemUsable.addr 0 0 ≠ Reg.memStatus.addr m 0 := by
    have husable : Reg.lkpMemUsable.addr 0 0 < 0x00250000 := by decide
    have hst := memStatus_addr m
    omega
  exact congrArg (4096 * ·) (State.rd_wr_ne hS _ hne)

section
variable (hw : w < 2 ^ 32)
include hw

theorem State.memNoted_rd : (s.memNoted m w).rd .memStatus m = w := (State.rd_wr hS ..).trans (Nat.mod_eq_of_lt hw)

theorem State.memNoted_rd_all (hothers : ∀ i, i < 4 → i ≠ m.val → s.rd .memStatus i = w) {i : Nat} (hi : i < 4) :
    (s.memNoted m w).rd .memStatus i = w := by
  by_cases hne : i = m.val
  · rw [hne, State.memNoted_rd hS hw]
  · rw [State.memNoted_rd_ne hS hne, hothers i hi hne]

/-- All controllers are equal when the last one to be trained has the word of the others (R383). -/
theorem State.memNoted_sameMem : (s.memNoted m w).sameMem = true ↔
    (∀ i, i < 4 → i ≠ m.val → s.rd .memStatus i = w) ∧ bit w 0 = true := by
  have hm := State.memNoted_rd (m := m) hS hw
  unfold State.sameMem
  rw [List.all_eq_true]
  simp only [List.mem_range, Bool.and_eq_true, decide_eq_true_iff]
  constructor
  · intro h
    obtain ⟨hm0, hbit⟩ := h m m.isLt
    rw [hm] at hm0 hbit
    refine ⟨fun i hi hne => ?_, hbit⟩
    rw [← State.memNoted_rd_ne hS hne, (h i hi).1, ← hm0]
  · rintro ⟨hothers, hbit⟩
    intro i hi
    rw [State.memNoted_rd_all hS hw hothers hi, State.memNoted_rd_all hS hw hothers (by decide)]
    exact ⟨rfl, hbit⟩

theorem State.memNoted_raw {r : Nat} (hothers : ∀ i, i < 4 → i ≠ m.val → s.rd .memStatus i = w) (hr : fld w 7 4 = r) :
    (s.memNoted m w).rf .memStatus 0 7 4 = r :=
  (congrArg (fun x => fld x 7 4) (State.memNoted_rd_all hS hw hothers (by decide : 0 < 4))).trans hr

end

end

theorem State.memTrained_notes (hS : s.Inv) {m : Fin 4} {rate : Fin 4} {raw : Fin 16} {ok typ : Bool} (h : s.TrainingDue m)
    (hn : s.boot.trained.length ≠ 3) : ∃ t, s.memTrained m ok rate raw typ = t ∧
      t.rd .memStatus m = trainedWord ok rate raw typ ∧ t.boot.trained = m.val :: s.boot.trained ∧ t.cores = s.cores ∧ t.mem = s.mem ∧
      t.usable = s.usable := by
  have hw : trainedWord ok rate raw typ < 2 ^ 32 := trainedWord_lt rate.isLt raw.isLt
  exact ⟨_, (State.memTrained_due h rate.isLt).trans (if_neg hn), State.memNoted_rd hS hw, rfl, rfl, rfl, State.memNoted_usable hS⟩

theorem State.memTrained_opens (hS : s.Inv) {m : Fin 4} {rate : Fin 4} {raw : Fin 16} {ok typ : Bool} (h : s.TrainingDue m)
    (hn : s.boot.trained.length = 3) (heq : (∀ i, i < 4 → i ≠ m.val → s.rd .memStatus i = trainedWord ok rate raw typ) ∧
      bit (trainedWord ok rate raw typ) 0 = true) : ∃ t, s.memTrained m ok rate raw typ = t ∧ t.usable = 4096 * memPages raw ∧
      (∀ c, c < 128 → (t.core c).tnd = .loading) ∧ (s.boot.sirin = [] → t.mem = s.mem) := by
  have hw : trainedWord ok rate raw typ < 2 ^ 32 := trainedWord_lt rate.isLt raw.isLt
  have hraw : (s.memNoted m (trainedWord ok rate raw typ)).rf .memStatus 0 7 4 = raw.val :=
    State.memNoted_raw hS hw heq.1 (trainedWord_raw rate.isLt raw.isLt)
  have hopen := State.memOpen_opens (State.memNoted_safe hS) ((State.memNoted_sameMem hS hw).mpr heq)
    (by rw [hraw]; exact memPages_lt (raw_le_of_trainedWord heq.2))
  rw [hraw] at hopen
  exact ⟨_, (State.memTrained_due h rate.isLt).trans (if_pos hn), hopen⟩

theorem State.memTrained_shuts (hS : s.Inv) {m : Fin 4} {rate : Fin 4} {raw : Fin 16} {ok typ : Bool} (h : s.TrainingDue m)
    (hn : s.boot.trained.length = 3) (hne : ¬ ((∀ i, i < 4 → i ≠ m.val → s.rd .memStatus i = trainedWord ok rate raw typ) ∧
      bit (trainedWord ok rate raw typ) 0 = true)) : ∃ t, s.memTrained m ok rate raw typ = t ∧
      (∀ i, i < 4 → bit (t.rd .memStatus i) 0 = false) ∧ t.usable = s.usable ∧ t.cores = s.cores ∧ t.mem = s.mem := by
  have hw : trainedWord ok rate raw typ < 2 ^ 32 := trainedWord_lt rate.isLt raw.isLt
  obtain ⟨hbits, husable, hcores, hmem⟩ := State.memOpen_shuts (State.memNoted_safe (m := m) hS)
    (Bool.eq_false_iff.mpr (mt (State.memNoted_sameMem hS hw).mp hne))
  exact ⟨_, (State.memTrained_due h rate.isLt).trans (if_pos hn), hbits, husable.trans (State.memNoted_usable hS), hcores, hmem⟩

/-! ### Margin checks -/

/-- The margin check of an array taken off the list (R56). -/
def State.marginTaken (s : State) (a : Nat) : State := { s with boot := { s.boot with toMargin := s.boot.toMargin.filter (· ≠ a) } }

/-- A margin check once its array is off the list: more than one weak batch scans the array (R56). -/
def State.marginRead (s : State) (a weak : Nat) : State := if 1 < weak then s.fullScan a (min weak 64) else s

theorem State.marginCheck_idle (a weak : Nat) (h : s.boot.toMargin.contains a = false ∨ s.pwrState ≠ 0) : s.marginCheck a weak = s :=
  if_pos (by rw [Bool.or_eq_true, Bool.not_eq_true', decide_eq_true_iff]; exact h)

theorem State.marginCheck_due (a weak : Nat) (h : s.boot.toMargin.contains a = true) (hp : s.pwrState = 0) : s.marginCheck a weak =
    ((s.marginTaken a).marginRead a weak).marginNext :=
  if_neg (by rw [h, hp]; decide)

theorem State.marginNext_keeps {β : Type} (φ : State → β) (hwr : ∀ t r i k v, φ (State.wr t r i k v) = φ t) : φ s.marginNext = φ s := by
  unfold State.marginNext
  split
  · exact hwr ..
  · rfl

theorem State.marginNext_boot : s.marginNext.boot = s.boot := State.marginNext_keeps State.boot State.wr_boot

/-- The last margin check moves start-up on to phase 6 (R395). -/
theorem State.marginNext_phase {lf lg : Nat} {cq : List Instr} (hS : s.Safe lf lg cq) (h : s.boot.toMargin = [])
    (hp : s.rf .bootStatus 0 3 0 = 5) : s.marginNext.rf .bootStatus 0 3 0 = 6 := by
  have hnext : s.marginNext = s.wf_ .bootStatus 0 3 0 6 := if_pos (by rw [h, hp]; rfl)
  rw [hnext]
  exact State.rf_wf_ hS .bootStatus 0 6 (by decide) (by decide)

/-- What a full scan draws its free values from. -/
def State.scanDrawn (s : State) : State := s.fresh.2.fresh.2

/-- An array whose full scan is over (R54, R58). -/
def Arr.fullyScanned (x : Arr) (time : Nat) : Arr :=
  { x with scanPos := 0, scanning := false, scanEnd := time, weak := [], deferredRaised := false }

/-- An array fully scanned, and the number of weak cells that its register shows. -/
def State.scanShown (s : State) (a cells : Nat) : State :=
  (s.scanDrawn.modArr a (fun x => x.fullyScanned s.time)).wr .arrScanStatus a 0 cells

/-- The batches and the cells that a full scan finds are free values. -/
theorem State.fullScan_eq (a weak : Nat) : ∃ cells batches : Nat, s.fullScan a weak =
    (((s.scanShown a cells).flag .arrEvent a 0x10).raise (evArr 0x2008 0 a (cells + 65536 * batches))).count (a / 17) 8 batches :=
  ⟨_, _, rfl⟩

/-- What a margin check or a full scan of an array changes (R54, R56, R58). -/
def State.MarginKept (s t : State) (a : Nat) : Prop := (∃ lf lg cq, t.Safe lf lg cq) ∧ t.boot = s.boot ∧
  t.rf .bootStatus 0 3 0 = s.rf .bootStatus 0 3 0 ∧ (∀ b, b ≠ a → t.arr b = s.arr b) ∧ t.mem = s.mem

section
variable {lf lg : Nat} {cq : List Instr} (hS : s.Safe lf lg cq)
include hS

theorem State.scanDrawn_safe : s.scanDrawn.Safe lf lg cq := State.Safe.lit (s := s) hS rfl rfl rfl rfl

theorem State.scanSet_safe (a : Nat) : (s.scanDrawn.modArr a (fun x => x.fullyScanned s.time)).Safe lf lg cq :=
  State.modArr_safe s.scanDrawn a _ (State.scanDrawn_safe hS)

theorem State.scanShown_safe (a cells : Nat) : (s.scanShown a cells).Safe lf lg cq := State.wr_safe _ _ _ _ _ (State.scanSet_safe hS a)

theorem State.scanShown_phase (a cells : Nat) : (s.scanShown a cells).rd .bootStatus = s.rd .bootStatus := by
  have hne : Reg.bootStatus.addr 0 0 ≠ Reg.arrScanStatus.addr a 0 := by
    have hlt : Reg.bootStatus.addr 0 0 < 0x01000000 := by decide
    have hst := Reg.coreSpace_le_addr (r := .arrScanStatus) rfl a 0
    omega
  exact (State.rd_wr_ne (State.scanSet_safe hS a) cells hne).trans (State.rd_of_regs (State.modArr_regs ..) ..)

theorem State.fullScan_arr (a weak : Nat) : ((s.fullScan a weak).arr a).weak = [] ∧ ((s.fullScan a weak).arr a).scanPos = 0 ∧
    ((s.fullScan a weak).arr a).scanEnd = s.time := by
  obtain ⟨cells, batches, heq⟩ := s.fullScan_eq a weak
  rw [heq, State.arr_count, State.arr_raise, State.arr_flag, State.scanShown, State.arr_wr, State.arr_modArr (State.scanDrawn_safe hS)]
  exact ⟨rfl, rfl, rfl⟩

theorem State.fullScan_phase (a weak : Nat) : (s.fullScan a weak).rd .bootStatus = s.rd .bootStatus := by
  have hne : Reg.bootStatus.addr 0 0 ≠ Reg.arrEvent.addr a 0 := by
    have hlt : Reg.bootStatus.addr 0 0 < 0x01000000 := by decide
    have hev := Reg.coreSpace_le_addr (r := .arrEvent) rfl a 0
    omega
  obtain ⟨cells, batches, heq⟩ := s.fullScan_eq a weak
  have hflag : ((s.scanShown a cells).flag .arrEvent a 0x10).rd .bootStatus = (s.scanShown a cells).rd .bootStatus :=
    State.rd_wr_ne (State.scanShown_safe hS a cells) _ hne
  rw [heq, State.rd_of_regs (State.count_regs ..), State.rd_raise_ne (State.flag_safe _ .arrEvent a 0x10 (State.scanShown_safe hS a cells)) _ (by decide),
    hflag, State.scanShown_phase hS]

theorem State.fullScan_keeps (a weak : Nat) : s.MarginKept (s.fullScan a weak) a := by
  refine ⟨⟨_, _, _, State.fullScan_safe s a weak hS⟩, ?_, State.rf_congr (State.fullScan_phase hS a weak) 3 0, fun b hb => ?_, ?_⟩
  all_goals obtain ⟨cells, batches, heq⟩ := s.fullScan_eq a weak
  · rw [heq, State.count_boot, State.raise_boot, State.flag_boot, State.scanShown, State.wr_boot, State.modArr_boot]
    rfl
  · rw [heq, State.arr_count, State.arr_raise, State.arr_flag, State.scanShown, State.arr_wr, State.arr_modArr_ne (State.scanDrawn_safe hS) _ hb]
    rfl
  · rw [heq, State.count_mem, State.raise_mem, State.flag_mem, State.scanShown, State.wr_mem, State.modArr_mem]
    rfl

end

theorem State.marginRead_keeps {lf lg : Nat} {cq : List Instr} (hS : s.Safe lf lg cq) (a weak : Nat) : s.MarginKept (s.marginRead a weak) a := by
  unfold State.marginRead
  split
  · exact State.fullScan_keeps hS a _
  · exact ⟨⟨_, _, _, hS⟩, rfl, rfl, fun _ _ => rfl, rfl⟩

theorem State.marginCheck_checks (hS : s.Inv) (a weak : Nat) (h : s.boot.toMargin.contains a = true) (hp : s.pwrState = 0) :
    ∃ t, s.marginCheck a weak = t ∧ t.boot.toMargin = s.boot.toMargin.filter (· ≠ a) ∧
      (1 < weak → (t.arr a).weak = [] ∧ (t.arr a).scanPos = 0 ∧ (t.arr a).scanEnd = s.time) ∧ (weak ≤ 1 → t.arrays = s.arrays) ∧
      (t.boot.toMargin = [] → s.rf .bootStatus 0 3 0 = 5 → t.rf .bootStatus 0 3 0 = 6) ∧
      (∀ b, b ≠ a → t.arr b = s.arr b) ∧ t.mem = s.mem := by
  have hS1 : (s.marginTaken a).Safe 0 0 s.pending := State.Safe.lit hS rfl rfl rfl rfl
  obtain ⟨⟨_, _, _, hSr⟩, hboot, hphase, harr, hmem⟩ := State.marginRead_keeps hS1 a weak
  have hnext : ((s.marginTaken a).marginRead a weak).marginNext.arrays = ((s.marginTaken a).marginRead a weak).arrays :=
    State.marginNext_keeps State.arrays State.wr_arrays
  have harrs (b : Nat) : ((s.marginTaken a).marginRead a weak).marginNext.arr b = ((s.marginTaken a).marginRead a weak).arr b := by
    rw [State.arr, hnext, State.arr]
  refine ⟨_, State.marginCheck_due a weak h hp, ?_, fun hw => ?_, fun hw => ?_, fun he h5 => ?_, fun b hb => ?_, ?_⟩
  · exact congrArg Boot.toMargin (State.marginNext_boot.trans hboot)
  · have hread : (s.marginTaken a).marginRead a weak = (s.marginTaken a).fullScan a (min weak 64) := if_pos hw
    have hscan := State.fullScan_arr hS1 a (min weak 64)
    rw [← hread, ← harrs a] at hscan
    exact hscan
  · have hread : (s.marginTaken a).marginRead a weak = s.marginTaken a := if_neg (Nat.not_lt.mpr hw)
    exact hnext.trans (Eq.trans (congrArg State.arrays hread) rfl)
  · exact State.marginNext_phase hSr ((congrArg Boot.toMargin State.marginNext_boot).symm.trans he) (hphase.trans h5)
  · exact (harrs b).trans (harr b hb)
  · exact (State.marginNext_keeps State.mem State.wr_mem).trans hmem

/-! ### READY -/

/-- Setting a converter to its main path changes the converters and their control registers alone (R278). -/
theorem State.mainPaths_keeps {β : Type} (φ : State → β) (hwr : ∀ t r i k v, φ (State.wr t r i k v) = φ t)
    (hmons : ∀ t x, φ { t with mons := x } = φ t) : φ s.mainPaths = φ s :=
  State.each_keeps φ (fun _ _ => (hmons _ _).trans ((hmons _ _).trans (hwr ..))) _ _

theorem State.nowReady_keeps {β : Type} (φ : State → β) (hwr : ∀ t r i k v, φ (State.wr t r i k v) = φ t)
    (hraise : ∀ t e, φ (State.raise t e) = φ t) (hmons : ∀ t x, φ { t with mons := x } = φ t) : φ s.nowReady = φ s :=
  (hraise ..).trans ((hwr ..).trans ((hwr ..).trans ((hwr ..).trans (State.mainPaths_keeps φ hwr hmons))))

/-- What READY is (R396, R403). -/
theorem State.nowReady_ready (hS : s.Inv) : s.nowReady.pwrState = 1 ∧ s.nowReady.rf .bootStatus 0 3 0 = 7 ∧
    s.nowReady.rf .pwrStatus 0 11 8 = 8 := by
  have hS1 : (s.mainPaths.setPwr 1).Safe 0 0 s.pending := State.setPwr_safe _ 1 (State.mainPaths_safe s hS)
  have hS2 : ((s.mainPaths.setPwr 1).wf_ .bootStatus 0 3 0 7).Safe 0 0 s.pending := State.wf__safe _ _ _ _ _ _ hS1
  have hS3 : (((s.mainPaths.setPwr 1).wf_ .bootStatus 0 3 0 7).wf_ .pwrStatus 0 11 8 8).Safe 0 0 s.pending := State.wf__safe _ _ _ _ _ _ hS2
  have hone : (s.mainPaths.setPwr 1).rf .pwrStatus 0 2 0 = 1 := State.rf_wf_ (State.mainPaths_safe s hS) .pwrStatus 0 1 (by decide) (by decide)
  have hboot : (s.mainPaths.setPwr 1).wf_ .bootStatus 0 3 0 7 = (s.mainPaths.setPwr 1).wr .bootStatus 0 0 _ := rfl
  have hpwr2 : ((s.mainPaths.setPwr 1).wf_ .bootStatus 0 3 0 7).rf .pwrStatus 0 2 0 = 1 :=
    (State.rf_congr (State.rd_wr_ne hS1 _ (by decide)) 2 0).trans hone
  have hraise (r : Reg) (hr : r.addr 0 0 ≠ Reg.chkEvtLost.addr 0 0) (hi lo : Nat) := State.rf_congr (State.rd_raise_ne hS3
    (evDev 0x8010 0 (u32 (s.time / 1000) + 2 ^ 32 * (s.downPorts.map (fun p => 2 ^ p)).sum)) (r := r) (i := 0) (k := 0) hr) hi lo
  refine ⟨(hraise .pwrStatus (by decide) 2 0).trans ?_, (hraise .bootStatus (by decide) 3 0).trans ?_, (hraise .pwrStatus (by decide) 11 8).trans ?_⟩
  · exact (State.rf_wf_other hS2 .pwrStatus 0 8 (by decide) (by decide) (by decide) (by decide)).trans hpwr2
  · exact (State.rf_congr (State.rd_wr_ne hS2 _ (by decide)) 3 0).trans (State.rf_wf_ hS1 .bootStatus 0 7 (by decide) (by decide))
  · exact State.rf_wf_ hS2 .pwrStatus 0 8 (by decide) (by decide)

theorem State.nowReady_up (hS : s.Inv) (h : s.startDone = true) : s.nowReady.up = true := by
  have hreset : s.boot.inReset = false := by
    simp only [State.startDone, Bool.and_eq_true, Bool.not_eq_true', and_assoc] at h
    exact h.1
  have hboot : s.nowReady.boot = s.boot := State.nowReady_keeps State.boot State.wr_boot State.raise_boot (fun _ _ => rfl)
  rw [State.up, hboot, hreset, (State.nowReady_ready hS).1]
  rfl

end

end Sys2Proof.Machine
end

section
/-! PROOFS. The end of recall, and the calibrations of start-up (R56, R262, R312, R395, R403, R410). -/
namespace Sys2Proof

namespace NMap

/-- An entry of a table is what its key reads as. -/
theorem get_of_mem {α : Type} {d : α} {m : NMap α} (hs : sorted m = true) {k : Nat} {v : α} (h : (k, v) ∈ m) : get d m k = v := by
  induction m with
  | nil => exact absurd h List.not_mem_nil
  | cons e m ih =>
    obtain ⟨habove, hsm⟩ := sorted_cons.mp hs
    rcases List.mem_cons.mp h with rfl | h
    · simp [get, find?]
    · have hlt : e.1 < k := of_decide_eq_true (List.all_eq_true.mp habove (k, v) h)
      have htail : get d (e :: m) k = get d m k := by
        unfold get
        rw [find?, if_neg (by omega), if_neg (by omega)]
      exact htail.trans (ih hsm h)

end NMap

namespace Machine
open Sys2Proof

section
variable {s : State}

/-! ### The end of recall -/

/-- A part of the state that the end of recall leaves as it is, or of the record store only whether it is recalled. -/
structure Recalling {β : Type} (φ : State → β) : Prop extends Quiet φ where
  recs : ∀ t x, x.recalled = t.recs.recalled → φ { t with recs := x } = φ t
  boot : ∀ t x, φ { t with boot := x } = φ t

theorem recalling_mem : Recalling State.mem := ⟨quiet_mem, fun _ _ _ => rfl, fun _ _ => rfl⟩

theorem State.recalled_raise (e : Event) : (s.raise e).recs.recalled = s.recs.recalled := by
  have hrecord (t : State) (e : Event) : (t.record e).recs.recalled = t.recs.recalled := by
    rw [State.record_recs, RecStore.logged]
    split
    · rfl
    · rfl
  unfold State.raise
  dsimp only
  split
  · exact (hrecord _ _).trans (hrecord _ _)
  · exact hrecord _ _

theorem recalling_recalled : Recalling (fun t : State => t.recs.recalled) :=
  ⟨⟨⟨fun _ _ => rfl, fun _ _ => rfl, fun _ _ => rfl, fun _ _ => rfl⟩, fun t r i k v => congrArg RecStore.recalled (State.wr_recs t r i k v),
    fun _ e => State.recalled_raise e⟩, fun _ _ h => h, fun _ _ => rfl⟩

/-- The pages of the record store, read in their order (R410). -/
def State.recallRead (s : State) : State := s.each recallOrder (fun t page => (t.recallPage page).2.recallTake page (t.recallPage page).1)

/-- The record store recalled (R411). -/
def State.recallNoted (s : State) : State := { s with recs := { s.recs with recalled := true, jobs := [], life := s.recs.user } }

theorem State.recallNoted_mem : s.recallNoted.mem = s.mem := rfl

theorem State.recallNoted_recalled : s.recallNoted.recs.recalled = true := rfl

/-- Job records that took effect are stored away (assumption 60). -/
def State.recallStored (s : State) : State := if s.recs.jobs.isEmpty then s.recallNoted else s.recallNoted.storePage 3

/-- The page that a power failure tore is reported (R410). -/
def State.recallTorn (s : State) : State :=
  match s.recs.torn with
  | some page => ({ s with recs := { s.recs with torn := none } } : State).raise (evDev 0x7005 2 page)
  | none => s

/-- The arrays that are READY are listed for the margin check and the calibration (R56, R262). -/
def State.marginListed (s : State) : State :=
  { s with boot := { s.boot with toMargin := (s.arrays.filter (fun e => e.2.st = .ready)).map (·.1),
                                 toCal := (s.arrays.filter (fun e => e.2.st = .ready)).map (·.1) } }

theorem State.marginListed_arr (a : Nat) : s.marginListed.arr a = s.arr a := rfl

/-- Recall once its pages are read. -/
def State.recallDone (s : State) : State := s.recallStored.recallTorn.countStart.recallModels.setComparators

theorem State.recallEnd_eq : s.recallEnd = s.recallRead.recallDone.marginListed.wf_ .bootStatus 0 3 0 5 := by
  unfold State.recallEnd
  extract_lets s1 src noted stored src' torn done ready
  have hread : s1 = s.recallRead := rfl
  clear_value s1
  have hstored : stored = s1.recallStored := rfl
  clear_value stored
  have htorn : torn = stored.recallTorn := rfl
  clear_value torn
  have hdone : done = torn.countStart.recallModels.setComparators := rfl
  clear_value done
  have hend : done = s.recallRead.recallDone := by rw [hdone, htorn, hstored, hread, State.recallDone]
  rw [← hend, State.marginListed]

section
variable {β : Type} {φ : State → β} (h : Recalling φ)
include h

theorem Recalling.touch (p : Nat) : φ (s.touch p) = φ s := by
  unfold State.touch
  split
  · rfl
  · exact h.recs _ _ rfl

theorem Recalling.storePage (p : Nat) : φ (s.storePage p) = φ s := by
  have hworn (t : State) (c : Bool) (x : RecStore) (e : Event) (hx : x.recalled = t.recs.recalled) :
      φ (if c then ({ t with recs := x } : State).raise e else t) = φ t := by
    split
    · exact (h.raise ..).trans (h.recs _ _ hx)
    · rfl
  have hretired (t : State) (c : Bool) (e : Event) : φ (if c then t.raise e else t) = φ t := by
    split
    · exact h.raise ..
    · rfl
  refine (hretired ..).trans ((hworn _ _ _ _ ?_).trans (h.recs _ _ ?_))
  · rfl
  · rfl

theorem Recalling.imgRaise (b : Nat) (e : Event) : φ (s.imgRaise b e) = φ s := (h.raise ..).trans (h.toQuiet.flag ..)

theorem Recalling.recallTorn : φ s.recallTorn = φ s := by
  unfold State.recallTorn
  split
  · exact (h.raise ..).trans (h.recs _ _ rfl)
  · rfl

theorem Recalling.countStart : φ s.countStart = φ s := by
  refine (Recalling.touch h 0).trans ((h.recs _ _ ?_).trans (h.wr ..))
  rfl

theorem Recalling.recallModels : φ s.recallModels = φ s := by
  refine State.each_keeps φ (fun t e => ?_) _ _
  have hcut : φ (if e.2.mst = .incomplete then t.imgRaise 13 (evModel 0x6019 1 e.1 ((e.2.cur.map (fun (i : Image) => i.version)).getD 0 +
      2 ^ 32 * (e.2.next.map (fun (i : Image) => i.version)).getD 0)) else t) = φ t := by
    split
    · exact Recalling.imgRaise h ..
    · rfl
  dsimp only
  split
  · exact hcut
  · exact (Recalling.imgRaise h ..).trans hcut

theorem Recalling.setComparators : φ s.setComparators = φ s := by
  refine State.each_keeps φ (fun t m => State.each_keeps φ (fun u k => ?_) _ _) _ _
  split
  · exact (h.wr ..).trans (h.wr ..)
  · rfl

theorem Recalling.recallStored : φ s.recallStored = φ s.recallNoted := by
  unfold State.recallStored
  split
  · rfl
  · exact Recalling.storePage h 3

theorem Recalling.recallDone : φ s.recallDone = φ s.recallNoted :=
  (Recalling.setComparators h).trans ((Recalling.recallModels h).trans ((Recalling.countStart h).trans
    ((Recalling.recallTorn h).trans (Recalling.recallStored h))))

theorem Recalling.recallEnd : φ s.recallEnd = φ s.recallRead.recallNoted := by
  rw [State.recallEnd_eq]
  exact (h.wr ..).trans ((h.boot _ _).trans (Recalling.recallDone h))

end

/-! What recall reads it reads from the record store, not from device memory. -/

theorem State.recallArr_mem (r : ArrRec) : (s.recallArr r).mem = s.mem := by
  have heach (t : State) (xs : List (Nat × Nat)) (f : State → Nat × Nat → State) (hf : ∀ t x, (f t x).mem = t.mem) : (t.each xs f).mem = t.mem :=
    State.each_keeps State.mem hf t xs
  unfold State.recallArr
  extract_lets a s1 s2 s3 job last s4 s5 ready
  have h3 : s3.mem = s.mem := by
    rw [State.wr_mem, State.wr_mem, State.wr_mem]
    exact (heach _ _ _ fun _ _ => State.wr_mem ..).trans (heach _ _ _ fun _ _ => State.wr_mem ..)
  have h4 : s4.mem = s.mem := (State.wr_mem ..).trans h3
  clear_value job s4
  have h5 : s5.mem = s.mem := by
    cases job with
    | some j => exact (State.wf__mem ..).trans ((State.wr_mem ..).trans h4)
    | none => exact h4
  split
  · rw [State.raise_mem, State.flag_mem, State.modArr_mem, h5]
  · have hready : ready.mem = s.mem := (State.modArr_mem ..).trans h3
    exact hready
  · exact (State.modArr_mem ..).trans h3

theorem State.recallCore_mem (r : CoreRec) : (s.recallCore r).mem = s.mem := by
  unfold State.recallCore
  dsimp only
  split
  · rw [State.modArr_mem]
    split
    · rw [State.flag_mem, State.modCore_mem]
    · rw [State.modCore_mem]
  · split
    · rw [State.flag_mem, State.modCore_mem]
    · rw [State.modCore_mem]

theorem State.recallTake_mem (page : Nat) (d : Option Payload) : (s.recallTake page d).mem = s.mem := by
  unfold State.recallTake
  split
  · exact State.wr_mem ..
  · rfl
  · rfl
  · rfl
  · exact State.each_keeps State.mem (fun _ _ => State.recallArr_mem _) _ _
  · exact State.each_keeps State.mem (fun _ _ => State.recallCore_mem _) _ _
  · rfl
  · split
    · rfl
    · split
      · rfl
      · split
        · exact State.each_keeps State.mem (fun _ _ => (State.wr_mem ..).trans (State.modArr_mem ..)) _ _
        · rfl

theorem State.recallPage_mem (page : Nat) : (s.recallPage page).2.mem = s.mem := by
  unfold State.recallPage
  dsimp only
  split
  · exact State.raise_mem ..
  · split
    · exact State.raise_mem ..
    · rfl

theorem State.recallRead_mem : s.recallRead.mem = s.mem :=
  State.each_keeps State.mem (fun _ _ => (State.recallTake_mem ..).trans (State.recallPage_mem _)) _ _

theorem State.recallEnd_mem : s.recallEnd.mem = s.mem :=
  (Recalling.recallEnd recalling_mem).trans (State.recallNoted_mem.trans State.recallRead_mem)

theorem State.recallEnd_recalled : s.recallEnd.recs.recalled = true :=
  (Recalling.recallEnd recalling_recalled).trans State.recallNoted_recalled

section
variable {lf lg : Nat} {cq : List Instr} (hS : s.Safe lf lg cq)
include hS

theorem State.recallRead_safe : s.recallRead.Safe lf lg cq :=
  foldl_keeps (P := fun t : State => t.Safe lf lg cq)
    (fun t page ht => State.recallTake_safe _ _ _ (State.recallPage_safe t page ht)) _ hS

theorem State.recallStored_safe : s.recallStored.Safe lf lg cq := by
  have hnoted : s.recallNoted.Safe lf lg cq := State.Safe.lit hS rfl rfl rfl rfl
  unfold State.recallStored
  split
  · exact hnoted
  · exact State.storePage_safe _ 3 hnoted

theorem State.recallTorn_safe : s.recallTorn.Safe lf lg cq := by
  have hclear : ({ s with recs := { s.recs with torn := none } } : State).Safe lf lg cq := State.Safe.lit hS rfl rfl rfl rfl
  unfold State.recallTorn
  split
  · exact State.raise_safe _ _ hclear
  · exact hS

theorem State.recallDone_safe : s.recallDone.Safe lf lg cq :=
  State.setComparators_safe _ (State.recallModels_safe _ (State.countStart_safe _ (State.recallTorn_safe (State.recallStored_safe hS))))

theorem State.marginListed_safe : s.marginListed.Safe lf lg cq := State.Safe.lit hS rfl rfl rfl rfl

theorem State.marginListed_ready {a : Nat} (h : a ∈ s.marginListed.boot.toMargin) : (s.arr a).st = .ready := by
  obtain ⟨⟨k, x⟩, he, rfl⟩ := List.mem_map.mp h
  obtain ⟨hmem, hst⟩ := List.mem_filter.mp he
  have hget : s.arr k = x := NMap.get_of_mem (NMap.sorted_of_wf hS.canon.arrays) hmem
  rw [hget]
  exact of_decide_eq_true hst

/-- Recall ends in phase 5 with the margin checks that are to come (R56, R395). -/
theorem State.recallEnd_ends : s.recallEnd.rf .bootStatus 0 3 0 = 5 ∧ ∀ a, a ∈ s.recallEnd.boot.toMargin → (s.recallEnd.arr a).st = .ready := by
  have hD := State.recallDone_safe (State.recallRead_safe hS)
  rw [State.recallEnd_eq]
  refine ⟨State.rf_wf_ (State.marginListed_safe hD) .bootStatus 0 5 (by decide) (by decide), fun a ha => ?_⟩
  rw [State.wf__boot] at ha
  have harr : (s.recallRead.recallDone.marginListed.wf_ .bootStatus 0 3 0 5).arr a = s.recallRead.recallDone.arr a :=
    (State.arr_wr ..).trans (State.marginListed_arr a)
  rw [harr]
  exact State.marginListed_ready hD ha

end

/-! ### Start-up calibration -/

theorem arrId_core (c : CoreId) (sl : SlotId) : arrId c sl / 17 = c := by
  unfold arrId
  omega

theorem arrId_slot (c : CoreId) (sl : SlotId) : arrId c sl % 17 = sl := by
  unfold arrId
  omega

section
variable {a : Nat} {m : CalCodes}

theorem State.startCalEnd_idle (h : ¬ (s.boot.toCal.contains a = true ∧ s.pwrState = 0 ∧ s.rf .bootStatus 0 3 0 = 6)) : s.startCalEnd a m = s := by
  refine if_pos ?_
  simpa only [Bool.or_eq_true, Bool.not_eq_true', decide_eq_true_iff, ← Bool.not_eq_true, Classical.not_and_iff_not_or_not, or_assoc] using h

theorem State.startCalEnd_due (h : s.boot.toCal.contains a = true ∧ s.pwrState = 0 ∧ s.rf .bootStatus 0 3 0 = 6) :
    ¬ (!s.boot.toCal.contains a || decide (s.pwrState ≠ 0) || decide (s.rf .bootStatus 0 3 0 ≠ 6)) = true := by
  obtain ⟨hcal, hpwr, hphase⟩ := h
  rw [hcal, hpwr, hphase]
  decide

section
variable (h : s.boot.toCal.contains a = true ∧ s.pwrState = 0 ∧ s.rf .bootStatus 0 3 0 = 6)
include h

theorem State.startCalEnd_passes (hag : s.startAgrees a (s.slotFb a) m = true) : s.startCalEnd a m = (s.startConvs a).startCal a m :=
  (if_neg (State.startCalEnd_due h)).trans (if_pos hag)

theorem State.startCalEnd_repeats (hag : s.startAgrees a (s.slotFb a) m = false) (hr : s.boot.retried.contains a = false) :
    s.startCalEnd a m = { s.startConvs a with boot := { s.boot with retried := a :: s.boot.retried } } :=
  (if_neg (State.startCalEnd_due h)).trans ((if_neg (ne_true_of_eq_false hag)).trans (if_neg (ne_true_of_eq_false hr)))

/-- An array whose start-up calibration fails a second time (R262, R312). -/
def State.startFailed (s : State) (a : Nat) : State :=
  ({ s.startConvs a with boot := { s.boot with
    toCal := s.boot.toCal.filter (· ≠ a), toServe := s.boot.toServe.filter (· ≠ a) } } : State).openFail a 3

theorem State.startCalEnd_fails (hag : s.startAgrees a (s.slotFb a) m = false) (hr : s.boot.retried.contains a = true) :
    s.startCalEnd a m = match (s.core (a / 17)).logicalOf (a % 17) with
      | some l => ((s.startFailed a).permArr (a / 17) l 0 0x3FF false 0x7FF).quarantine (a / 17) l
      | none => s.startFailed a := by
  refine (if_neg (State.startCalEnd_due h)).trans ((if_neg (ne_true_of_eq_false hag)).trans ((if_pos hr).trans ?_))
  cases (s.core (a / 17)).logicalOf (a % 17) with
  | none => rfl
  | some l => rfl

end

/-- Off the lists of start-up calibration (R262). -/
def State.startOver (s : State) (a : Nat) : State :=
  { s with boot := { s.boot with toCal := s.boot.toCal.filter (· ≠ a), toServe := s.boot.toServe.filter (· ≠ a) } }

theorem State.startOver_arr : (s.startOver a).arr a = s.arr a := rfl

theorem State.startOver_toCal : (s.startOver a).boot.toCal = s.boot.toCal.filter (· ≠ a) := rfl

theorem State.startCal_spare (h : (s.core (a / 17)).logicalOf (a % 17) = none) : s.startCal a m = (s.startSet a (s.slotFb a) m).startOver a := by
  unfold State.startCal
  extract_lets c fb done
  have hdone (t : State) : done t = t.startOver a := rfl
  have hfb : s.slotFb a = fb := rfl
  rw [hfb]
  clear_value done fb
  rw [h]
  exact hdone _

theorem State.setTrim_boot (p : Nat) (x : Int) : (s.setTrim a p x).boot = s.boot := State.modArr_boot ..

theorem State.nullSwap_boot (fb : Nat) : (s.nullSwap a fb m).boot = s.boot := by
  rw [State.nullSwap, State.swapTrims, State.modArr_boot]
  exact State.each_keeps State.boot (fun _ _ => State.setTrim_boot ..) _ _

theorem State.setFactors_boot (rho : Rat) (k : List Rat) (prov : Bool) : (s.setFactors a rho k prov).boot = s.boot := State.modArr_boot ..

theorem State.setFactors_arr {lf lg : Nat} {cq : List Instr} (hS : s.Safe lf lg cq) (rho : Rat) (k : List Rat) (prov : Bool) :
    ((s.setFactors a rho k prov).arr a).calPass = true ∧ ((s.setFactors a rho k prov).arr a).prov = prov := by
  rw [State.setFactors, State.arr_modArr hS]
  exact ⟨rfl, rfl⟩

theorem State.startSet_eq (fb : Nat) : s.startSet a fb m =
    (s.nullSwap a fb m).setFactors a (s.startFactors a fb m).1 (s.startFactors a fb m).2 true := by rw [State.startSet]

theorem State.startCal_sets (hS : s.Inv) (h : (s.core (a / 17)).logicalOf (a % 17) = none) : ∃ t : State, s.startCal a m = t ∧
    (t.arr a).calPass = true ∧ (t.arr a).prov = true ∧ t.boot.toCal = s.boot.toCal.filter (· ≠ a) := by
  have heq := State.startCal_spare (m := m) h
  rw [State.startSet_eq] at heq
  have hfacs := State.setFactors_arr (a := a) (State.nullSwap_safe s a (s.slotFb a) m hS) (s.startFactors a (s.slotFb a) m).1
    (s.startFactors a (s.slotFb a) m).2 true
  have hboot := (State.setFactors_boot (a := a) (s.startFactors a (s.slotFb a) m).1 (s.startFactors a (s.slotFb a) m).2 true).trans
    (State.nullSwap_boot (s := s) (a := a) (m := m) (s.slotFb a))
  exact ⟨_, heq, (congrArg Arr.calPass State.startOver_arr).trans hfacs.1, (congrArg Arr.prov State.startOver_arr).trans hfacs.2,
    State.startOver_toCal.trans (congrArg (fun b : Boot => b.toCal.filter (· ≠ a)) hboot)⟩

end

/-! ### The calibration after a wake -/

theorem State.wakeCal_idle (ms : List (Nat × CalCodes)) (h : s.pwrState ≠ 1 ∨ s.pwr.waking = false) : s.wakeCal ms = s :=
  if_pos (by rw [Bool.or_eq_true, decide_eq_true_iff, Bool.not_eq_true']; exact h)

/-- The wake calibration is over (R403). -/
def State.wakeOver (s : State) : State := { s with pwr := { s.pwr with waking := false } }

/-- The wake calibration of one array measured (R403). -/
def State.wakeOne (t : State) (x : Nat × CalCodes) : State :=
  if (t.arr x.1).st ≠ .ready ∧ (t.arr x.1).st ≠ .serving then t
  else if t.startAgrees x.1 (t.slotFb x.1) x.2 then (t.startConvs x.1).startCal x.1 x.2 else t.startConvs x.1

theorem State.wakeCal_wakes (ms : List (Nat × CalCodes)) (hp : s.pwrState = 1) (hw : s.pwr.waking = true) :
    s.wakeCal ms = (s.each ms State.wakeOne).wakeOver := by
  have hgo : ¬ (decide (s.pwrState ≠ 1) || !s.pwr.waking) = true := by
    rw [hp, hw]
    decide
  unfold State.wakeCal
  rw [if_neg hgo]
  extract_lets s1
  have hs1 : s1 = s.each ms State.wakeOne := by
    refine congrArg (State.each s ms) ?_
    funext t x
    obtain ⟨a, m⟩ := x
    refine ite_congr (propext ?_) (fun _ => rfl) fun _ => rfl
    rw [Bool.and_eq_true, decide_eq_true_iff, decide_eq_true_iff]
  exact congrArg State.wakeOver hs1

end

/-- Settles O57. -/
theorem startUp : Obligations.StartUp := by
  unfold Obligations.StartUp
  refine ⟨fun s hI => ⟨fun m ok rate raw typ => ⟨fun h => ?_, fun h hn => ?_, fun h hn heq => ?_, fun h hn hne => ?_⟩,
    fun h => next_congr (if_neg (ne_true_of_eq_false h)), fun h => ⟨next_congr (if_pos h), State.recallEnd_recalled, (State.recallEnd_ends hI).1,
      State.recallEnd_mem, (State.recallEnd_ends hI).2⟩,
    fun c sl weak => ⟨fun h => next_congr (State.marginCheck_idle _ weak h), fun h hp => ?_⟩, fun h => ?_, fun h => ?_, fun h hd => ?_, fun h ht => ?_⟩,
    fun s c sl m hI => ⟨fun h => next_congr (State.startCalEnd_idle h), fun h => ⟨fun hag => next_congr (State.startCalEnd_passes h hag),
      fun hag hr => next_congr (State.startCalEnd_repeats h hag hr), fun hag hr => ?_⟩, fun h => ?_,
      fun ms h => next_congr (State.wakeCal_idle ms h), fun ms hp hw => next_congr (State.wakeCal_wakes ms hp hw)⟩⟩
  · exact next_congr (State.memTrained_idle h)
  · obtain ⟨t, ht, hrest⟩ := State.memTrained_notes hI (rate := rate) (raw := raw) (ok := ok) (typ := typ) h hn
    exact ⟨t, next_congr ht, hrest⟩
  · obtain ⟨t, ht, hrest⟩ := State.memTrained_opens hI (rate := rate) (raw := raw) (ok := ok) (typ := typ) h hn heq
    exact ⟨t, next_congr ht, hrest⟩
  · obtain ⟨t, ht, hrest⟩ := State.memTrained_shuts hI (rate := rate) (raw := raw) (ok := ok) (typ := typ) h hn hne
    exact ⟨t, next_congr ht, hrest⟩
  · obtain ⟨t, ht, hrest⟩ := State.marginCheck_checks hI _ weak h hp
    exact ⟨t, next_congr ht, hrest⟩
  · refine next_congr (if_neg ?_)
    rw [Bool.and_eq_true, List.isEmpty_iff, Classical.not_and_iff_not_or_not, Bool.not_eq_true]
    exact h
  · refine next_congr (if_neg ?_)
    rw [Bool.and_eq_true, decide_eq_true_iff, Classical.not_and_iff_not_or_not, Bool.not_eq_true, Nat.not_le]
    exact h
  · obtain ⟨hpwr, hphase, hvid⟩ := State.nowReady_ready hI
    refine ⟨_, next_congr (if_pos ?_), hpwr, State.nowReady_up hI h, hphase, hvid,
      State.nowReady_keeps State.cores State.wr_cores State.raise_cores (fun _ _ => rfl),
      State.nowReady_keeps State.arrays State.wr_arrays State.raise_arrays (fun _ _ => rfl),
      State.nowReady_keeps State.mem State.wr_mem State.raise_mem (fun _ _ => rfl)⟩
    rw [h, hd]
    rfl
  · obtain ⟨hpwr, hphase, _⟩ := State.nowReady_ready hI
    refine ⟨_, next_congr (if_pos ?_), hpwr, hphase,
      State.nowReady_keeps State.cores State.wr_cores State.raise_cores (fun _ _ => rfl),
      State.nowReady_keeps State.arrays State.wr_arrays State.raise_arrays (fun _ _ => rfl),
      State.nowReady_keeps State.mem State.wr_mem State.raise_mem (fun _ _ => rfl)⟩
    rw [Bool.and_eq_true, decide_eq_true_iff]
    exact ⟨h, ht⟩
  · have hend := State.startCalEnd_fails (m := m) h hag hr
    rw [arrId_core, arrId_slot] at hend
    refine ⟨fun hn => next_congr ?_, fun l hl => next_congr ?_⟩
    · rw [hend, hn] <;> rfl
    · rw [hend, hl] <;> rfl
  · refine State.startCal_sets hI ?_
    rw [arrId_core, arrId_slot]
    exact h

end Machine
end Sys2Proof
end

section
/-! PROOFS. Sweeps, byte windows and operation samples (R423 to R426, R428, R429). -/
namespace Sys2Proof.Machine
open Sys2Proof

section
variable {s : State}

/-! ### Writes to block space -/

theorem State.putDev_keeps {β : Type} (φ : State → β) (hput : ∀ t a bs, φ (State.putMem t a bs) = φ t) (a : Nat) (bs : List Byte) :
    φ (s.putDev a bs) = φ s := by
  unfold State.putDev
  split
  · exact hput ..
  · rfl

section
variable (hm : NMap.sorted s.mem = true)
include hm

theorem State.putDev_outside {a b : Nat} (bs : List Byte) (hb : b < a ∨ a + bs.length ≤ b) : (s.putDev a bs).mem.get 0 b = s.mem.get 0 b := by
  unfold State.putDev
  split
  · exact get_storeBytes_outside hm bs hb
  · rfl

theorem State.putDev_inside {a i : Nat} {bs : List Byte} (hin : s.inBlocks a bs.length = true) (hi : i < bs.length) :
    (s.putDev a bs).mem.get 0 (a + i) = bs.getD i 0 := by
  have hput : s.putDev a bs = s.putMem a bs := if_pos hin
  rw [hput]
  exact get_storeBytes_inside hm bs hi

end

/-! ### The sweep -/

/-- The slot of the next sweep (R424). -/
def State.nextSlot (s : State) : Nat := (s.sweep.done + 1) % 2 ^ s.rf .ctrSweepCfg 0 23 20

/-- The state at the start of a sweep, before its SEQ is written. -/
def State.sweepMarked (s : State) : State :=
  { s with sweep := { s.sweep with running := some (s.time, s.rf .ctrSweepCfg 0 29 24, s.nextSlot) } }

theorem State.sweepGo_eq : s.sweepGo = s.sweepMarked.putDev (s.sweepSlot s.nextSlot) (List.replicate 8 0xFF) := by
  rw [State.sweepGo, State.sweepMarked, State.nextSlot]

/-- A sweep that starts writes its SEQ as all ones into its slot and nowhere else (R425). -/
theorem State.sweepGo_begins (hS : s.Inv) : s.sweepGo.sweep.running = some (s.time, s.rf .ctrSweepCfg 0 29 24, s.nextSlot) ∧
    (s.inBlocks (s.sweepSlot s.nextSlot) 8 = true → ∀ i, i < 8 → s.sweepGo.mem.get 0 (s.sweepSlot s.nextSlot + i) = 0xFF) ∧
    (∀ b, (b < s.sweepSlot s.nextSlot ∨ s.sweepSlot s.nextSlot + 8 ≤ b) → s.sweepGo.mem.get 0 b = s.mem.get 0 b) ∧
    s.sweepGo.regs = s.regs ∧ s.sweepGo.ctrs = s.ctrs := by
  have hS1 : NMap.sorted s.sweepMarked.mem = true := NMap.sorted_of_wf hS.mem
  rw [State.sweepGo_eq]
  refine ⟨congrArg Sweep.running (State.putDev_keeps State.sweep State.putMem_sweep _ _), fun hin i hi => ?_, fun b hb => ?_,
    State.putDev_keeps State.regs State.putMem_regs _ _, State.putDev_keeps State.ctrs State.putMem_ctrs _ _⟩
  · have hlen : (List.replicate 8 (0xFF : Byte)).length = 8 := List.length_replicate
    have hin' : s.sweepMarked.inBlocks (s.sweepSlot s.nextSlot) (List.replicate 8 (0xFF : Byte)).length = true := by
      rw [hlen]
      exact hin
    rw [State.putDev_inside hS1 hin' (by rw [hlen]; exact hi), List.getD_eq_getElem?_getD, List.getElem?_replicate, if_pos hi, Option.getD_some]
  · exact State.putDev_outside hS1 _ hb

theorem State.sweepCmd_busy (path : Path) (h : s.sweep.running ≠ none) :
    s.sweepCmd path = s.ignored path (Reg.ctrSweepCmd.addr 0 0) 3 := if_pos (Option.isSome_iff_ne_none.mpr h)

theorem State.sweepCmd_idle (path : Path) (h : s.sweep.running = none) : s.sweepCmd path = s.sweepGo := if_neg (by rw [h]; decide)

theorem State.sweepTick_idle (hp : s.rf .ctrSweepCfg 0 19 0 ≠ 0) (h : s.sweep.running = none) : s.sweepTick = s.sweepGo :=
  (if_neg hp).trans (if_neg (by rw [h]; decide))

/-- A periodic sweep that comes while one runs is counted as skipped (R423). -/
theorem State.sweepTick_skips (hS : s.Inv) (hp : s.rf .ctrSweepCfg 0 19 0 ≠ 0) (h : s.sweep.running ≠ none) : ∃ t, s.sweepTick = t ∧
    t.sweep = s.sweep ∧ t.rf .ctrSweepStatus 0 31 16 = min 0xFFFF (s.rf .ctrSweepStatus 0 31 16 + 1) ∧ t.mem = s.mem := by
  refine ⟨_, (if_neg hp).trans (if_pos (Option.isSome_iff_ne_none.mpr h)), State.wf__sweep .., ?_, State.wf__mem ..⟩
  rw [State.rf_wf_ hS _ _ _ (by decide) (by decide)]
  unfold satTo
  split
  · omega
  · omega

/-- What the reading of a counter leaves (R419). -/
theorem State.ctrRead_keeps {β : Type} (φ : State → β) (hfree : ∀ t x, φ { t with free := x } = φ t) (n : Nat) : φ (s.ctrRead n).2 = φ s := by
  unfold State.ctrRead
  split
  · exact hfree _ _
  · rfl

theorem State.sweepRecs_keeps {β : Type} (φ : State → β) (hfree : ∀ t x, φ { t with free := x } = φ t) (ps k : Nat) (ids : List Nat) :
    φ (s.sweepRecs ps k ids).2 = φ s := by
  induction ids generalizing s k with
  | nil => rfl
  | cons n ns ih => exact (ih (k + 1)).trans (State.ctrRead_keeps φ hfree n)

theorem State.lifeTotal_keeps {β : Type} (φ : State → β) (hfree : ∀ t x, φ { t with free := x } = φ t)
    (hrecs : ∀ t x, φ { t with recs := x } = φ t) (n : Nat) : φ (s.lifeTotal n) = φ s := by
  have htouch (t : State) (p : Nat) : φ (t.touch p) = φ t := by
    unfold State.touch
    split
    · rfl
    · exact hrecs _ _
  unfold State.lifeTotal
  split
  · exact (htouch ..).trans ((hrecs _ _).trans (State.ctrRead_keeps φ hfree n))
  · rfl

/-- The records of a sweep in its slot, before its number is written (R424). -/
def State.sweepStored (s : State) (groups slot : Nat) (hdr : List Byte) : State :=
  let r := s.fresh.2.sweepRecs (4500 + s.fresh.1 % 1601) 0 (sweepIds groups)
  r.2.putDev (s.sweepSlot slot) (hdr ++ r.1)

/-- No sweep runs (R425). -/
def State.sweepOver (s : State) (n : Nat) : State := { s with sweep := { done := n, running := none } }

/-- The number of a sweep that ends, in the registers (R424, R425). -/
def State.sweepNumbered (s : State) (n slot : Nat) : State :=
  ((s.sweepOver n).wf_ .ctrSweepStatus 0 15 8 slot).wr .ctrSweepSeq 0 0 (u32 n)

theorem State.sweepEnd_some {t groups slot : Nat} (h : s.sweep.running = some (t, groups, slot)) : ∃ hdr, s.sweepEnd =
    (((s.sweepStored groups slot hdr).sweepNumbered (s.sweep.done + 1) slot).each (sweepIds groups) State.lifeTotal).count ctrIo 11 1 := by
  unfold State.sweepEnd
  rw [h]
  exact ⟨_, rfl⟩

theorem State.sweepStored_keeps {β : Type} (φ : State → β) (hfree : ∀ t x, φ { t with free := x } = φ t)
    (hput : ∀ t a bs, φ (State.putMem t a bs) = φ t) (groups slot : Nat) (hdr : List Byte) : φ (s.sweepStored groups slot hdr) = φ s :=
  (State.putDev_keeps φ hput _ _).trans ((State.sweepRecs_keeps φ hfree _ _ _).trans (hfree _ _))

theorem State.sweepStored_safe {lf lg : Nat} {cq : List Instr} (hS : s.Safe lf lg cq) (groups slot : Nat) (hdr : List Byte) :
    (s.sweepStored groups slot hdr).Safe lf lg cq := by
  have hS0 : s.fresh.2.Safe lf lg cq := State.Safe.lit hS rfl rfl rfl rfl
  exact State.putDev_safe _ _ _ (State.sweepRecs_safe _ _ _ _ hS0)

/-- The registers that show the sweep that has ended (R424, R425). -/
theorem State.sweepNumbered_reads {lf lg : Nat} {cq : List Instr} (hS : s.Safe lf lg cq) (n slot : Nat) :
    (s.sweepNumbered n slot).rd .ctrSweepSeq = u32 n ∧ (s.sweepNumbered n slot).rf .ctrSweepStatus 0 15 8 = slot % 256 := by
  have hS1 : (s.sweepOver n).Safe lf lg cq := State.Safe.lit hS rfl rfl rfl rfl
  have hS2 := State.wf__safe _ .ctrSweepStatus 0 15 8 slot hS1
  constructor
  · rw [State.sweepNumbered, State.rd_wr hS2]
    exact Nat.mod_eq_of_lt (Nat.mod_lt _ (by decide))
  · exact (State.rf_congr (State.rd_wr_ne hS2 (u32 n) (by decide)) 15 8).trans (State.rf_wf_ hS1 .ctrSweepStatus 0 slot (by decide) (by decide))

/-- What the lifetime totals and the count of a sweep leave. -/
theorem State.sweepTotals_keeps {β : Type} (φ : State → β) (hfree : ∀ t x, φ { t with free := x } = φ t)
    (hrecs : ∀ t x, φ { t with recs := x } = φ t) (hctrs : ∀ t x, φ { t with ctrs := x } = φ t) (ids : List Nat) :
    φ ((s.each ids State.lifeTotal).count ctrIo 11 1) = φ s :=
  (hctrs _ _).trans (State.each_keeps φ (fun _ n => State.lifeTotal_keeps φ hfree hrecs n) _ _)

/-- The end of a sweep (R422 to R425). -/
theorem State.sweepEnd_ends (hS : s.Inv) {x : Nat × Nat × Nat} (h : s.sweep.running = some x) : ∃ t, s.sweepEnd = t ∧
    t.sweep.running = none ∧ t.sweep.done = s.sweep.done + 1 ∧ t.rd .ctrSweepSeq = u32 (s.sweep.done + 1) ∧
    t.rf .ctrSweepStatus 0 15 8 = x.2.2 % 256 ∧ t.arrays = s.arrays ∧ t.cores = s.cores := by
  obtain ⟨start, groups, slot⟩ := x
  obtain ⟨hdr, heq⟩ := State.sweepEnd_some h
  have hnum := State.sweepNumbered_reads (State.sweepStored_safe hS groups slot hdr) (s.sweep.done + 1) slot
  have hregs := State.sweepTotals_keeps (s := (s.sweepStored groups slot hdr).sweepNumbered (s.sweep.done + 1) slot) State.regs
    (fun _ _ => rfl) (fun _ _ => rfl) (fun _ _ => rfl) (sweepIds groups)
  have hsweep := State.sweepTotals_keeps (s := (s.sweepStored groups slot hdr).sweepNumbered (s.sweep.done + 1) slot) State.sweep
    (fun _ _ => rfl) (fun _ _ => rfl) (fun _ _ => rfl) (sweepIds groups)
  have hmarked : ((s.sweepStored groups slot hdr).sweepNumbered (s.sweep.done + 1) slot).sweep = { done := s.sweep.done + 1, running := none } := by
    rw [State.sweepNumbered, State.wr_sweep, State.wf__sweep, State.sweepOver]
  refine ⟨_, heq, congrArg Sweep.running (hsweep.trans hmarked), congrArg Sweep.done (hsweep.trans hmarked),
    (State.rd_of_regs hregs ..).trans hnum.1, (State.rf_of_regs hregs ..).trans hnum.2, ?_, ?_⟩
  · refine (State.sweepTotals_keeps State.arrays (fun _ _ => rfl) (fun _ _ => rfl) (fun _ _ => rfl) _).trans ?_
    rw [State.sweepNumbered, State.wr_arrays, State.wf__arrays]
    exact State.sweepStored_keeps State.arrays (fun _ _ => rfl) State.putMem_arrays groups slot hdr
  · refine (State.sweepTotals_keeps State.cores (fun _ _ => rfl) (fun _ _ => rfl) (fun _ _ => rfl) _).trans ?_
    rw [State.sweepNumbered, State.wr_cores, State.wf__cores]
    exact State.sweepStored_keeps State.cores (fun _ _ => rfl) State.putMem_cores groups slot hdr

theorem State.sweepEnd_none (h : s.sweep.running = none) : s.sweepEnd = s := by
  unfold State.sweepEnd
  rw [h] <;> rfl

/-! ### Byte windows -/

theorem State.windowEnd_first (h : s.wins.start = none) : s.windowEnd = { s with wins := { s.wins with start := some s.time } } := by
  unfold State.windowEnd
  rw [h] <;> rfl

/-- The channels once a window has ended (R426). -/
def State.winsRolled (s : State) (t0 : Nat) : State :=
  { s with wins := { chans := s.wins.chans.foldl (fun m e => m.set {} e.1 e.2.roll) [], start := some s.time,
                     idx := u32 (t0 / (1000 * s.rf .ctrWinCfg 0 19 0)) } }

theorem State.windowEnd_rolls {t0 : Nat} (h : s.wins.start = some t0) : s.windowEnd = s.winsRolled t0 := by
  unfold State.windowEnd
  rw [h] <;> rfl

theorem WinCh.get_rolled {m : NMap WinCh} (h : NMap.wf (fun _ => {}) m = true) (ch : Nat) :
    NMap.get {} (m.foldl (fun m e => m.set {} e.1 e.2.roll) []) ch = (m.get {} ch).roll :=
  NMap.get_map_values (f := WinCh.roll) rfl (NMap.sorted_of_wf h) ch

theorem State.winCfg_bad (path : Path) {v : Nat} (h : v = 0 ∨ 1000000 < v) : s.winCfg path v = s.ignored path (Reg.ctrWinCfg.addr 0 0) 2 := by
  refine if_pos ?_
  rw [Bool.or_eq_true, Bool.or_eq_true, decide_eq_true_iff, decide_eq_true_iff, decide_eq_true_iff]
  omega

/-- A valid length starts the windows over (R426). -/
theorem State.winCfg_sets (hS : s.Inv) (path : Path) {v : Nat} (h0 : v ≠ 0) (h : v ≤ 1000000) : ∃ t, s.winCfg path v = t ∧
    t.rd .ctrWinCfg = v ∧ t.wins.start = none ∧ t.wins.idx = s.wins.idx ∧ t.mem = s.mem := by
  have hgo : ¬ (decide (2 ^ 20 ≤ v) || decide (v = 0) || decide (1000000 < v)) = true := by
    rw [Bool.or_eq_true, Bool.or_eq_true, decide_eq_true_iff, decide_eq_true_iff, decide_eq_true_iff]
    omega
  have hrd : (s.wr .ctrWinCfg 0 0 v).rd .ctrWinCfg = v := (State.rd_wr hS ..).trans (Nat.mod_eq_of_lt (by omega))
  have hidx : (s.wr .ctrWinCfg 0 0 v).wins.idx = s.wins.idx := congrArg Windows.idx (State.wr_wins ..)
  have hmem : (s.wr .ctrWinCfg 0 0 v).mem = s.mem := State.wr_mem ..
  exact ⟨_, if_neg hgo, hrd, rfl, hidx, hmem⟩

/-! ### Operation samples -/

/-- A core once the sample `v` is asked for (R428). -/
def Core.sampled (x : Core) (v : Nat) : Core :=
  { x with
    sampleWin := ((x.samples.find? (fun y => decide (u32 y.seq = v))).map (·.bytes)).getD (List.replicate 64 0)
    samples := x.samples.map (fun y => { y with
      latched := y.latched || decide (u32 y.seq = v)
      released := y.released || (decide (1 ≤ u32 (v + 2 ^ 32 - u32 y.seq)) && decide (u32 (v + 2 ^ 32 - u32 y.seq) < 2 ^ 31)) }) }

theorem State.sampleIdx_eq (c v : Nat) : s.sampleIdx c v = (s.setCore c ((s.core c).sampled v)).wr .smpIdx c 0 v := by
  rw [State.sampleIdx, Core.sampled]

theorem State.sampleIdx_core (hS : s.Inv) (c v : Nat) : (s.sampleIdx c v).core c = (s.core c).sampled v := by
  rw [State.sampleIdx_eq, State.core_wr]
  exact State.core_setCore hS ..

theorem State.sampleIdx_core_ne (hS : s.Inv) {c d : Nat} (v : Nat) (h : d ≠ c) : (s.sampleIdx c v).core d = s.core d := by
  rw [State.sampleIdx_eq, State.core_wr]
  exact State.core_setCore_ne hS _ h

theorem State.sampleIdx_rd (hS : s.Inv) (c v : Nat) (hv : v < 2 ^ 32) : (s.sampleIdx c v).rd .smpIdx c = v := by
  rw [State.sampleIdx_eq, State.rd_wr (State.setCore_safe s c _ hS), Nat.mod_eq_of_lt hv]

end

/-- Settles O60. -/
theorem countersAndWindows : Obligations.CountersAndWindows := by
  unfold Obligations.CountersAndWindows
  refine fun s path hI => ⟨fun ha => next_asked_unanswered ha _, fun ha => ?_, fun h => next_congr (if_neg ?_), fun halive hp ht => ?_, fun h => ?_,
    fun x halive h => ?_, ⟨fun h => next_congr (if_neg ?_), fun h => ?_⟩,
    fun ha => ⟨fun v => next_asked_unanswered ha _, next_asked_unanswered ha _⟩, fun ha => ⟨fun v h => ?_, fun v h0 h => ?_, fun hs => ?_⟩,
    fun ha c v => next_asked_unanswered ha _, fun c v ha => ?_⟩
  · have hgo : exec (.sweepStart path) s = .next (s.sweepCmd path) := next_congr (State.asked_answered ha _)
    rw [hgo]
    exact ⟨fun h => next_congr (State.sweepCmd_busy path h), fun h => ⟨_, next_congr (State.sweepCmd_idle path h), State.sweepGo_begins hI⟩⟩
  · simp only [Bool.and_eq_true, decide_eq_true_iff]
    rintro ⟨⟨halive, hp⟩, ht⟩
    rcases h with h | h | h
    · exact absurd halive (ne_true_of_eq_false h)
    · exact hp h
    · exact h ht
  · have hgo : exec .periodicSweep s = .next s.sweepTick := by
      refine next_congr (if_pos ?_)
      simp only [halive, Bool.true_and, Bool.and_eq_true, decide_eq_true_iff]
      exact ⟨hp, ht⟩
    rw [hgo]
    refine ⟨fun h => ⟨_, next_congr (State.sweepTick_idle hp h), State.sweepGo_begins hI⟩, fun h => ?_⟩
    obtain ⟨t, ht', hrest⟩ := State.sweepTick_skips hI hp h
    exact ⟨t, next_congr ht', hrest⟩
  · rcases h with h | h
    · exact next_if_neg h _ _
    · refine next_congr ?_
      split
      · exact State.sweepEnd_none h
      · rfl
  · obtain ⟨t, ht, hrest⟩ := State.sweepEnd_ends hI h
    exact ⟨t, next_congr ((if_pos halive).trans ht), hrest⟩
  · rw [Bool.and_eq_true, decide_eq_true_iff]
    exact h
  · have hgo : exec .windowEnd s = .next s.windowEnd := next_congr (if_pos (by rw [Bool.and_eq_true, decide_eq_true_iff]; exact h))
    rw [hgo]
    refine ⟨fun hn => next_congr (State.windowEnd_first hn), fun t0 hstart hwf => ⟨_, next_congr (State.windowEnd_rolls hstart), fun ch => ?_, rfl, rfl, rfl, rfl⟩⟩
    exact WinCh.get_rolled hwf ch
  · refine next_congr ((State.asked_answered ha _).trans (State.winCfg_bad path ?_))
    exact h.imp (fun h0 => congrArg BitVec.toNat h0) id
  · obtain ⟨t, ht, hrest⟩ := State.winCfg_sets hI path (v := v.toNat) (fun hv => h0 (BitVec.eq_of_toNat_eq hv)) h
    exact ⟨t, next_congr ((State.asked_answered ha _).trans ht), hrest⟩
  · exact ⟨_, next_congr (State.asked_answered ha _), NMap.get_set_self _ _ _ hs, fun ch hch => NMap.get_set_ne _ _ _ hch hs, rfl, rfl⟩
  · have hcore := State.sampleIdx_core hI c v.toNat
    refine ⟨_, next_congr (State.asked_answered ha _), State.sampleIdx_rd hI c v.toNat v.isLt, fun x hx => ?_, fun hn => ?_, ?_,
      fun d hd => State.sampleIdx_core_ne hI v.toNat hd, ?_⟩
    · rw [hcore, Core.sampled, hx]
      rfl
    · rw [hcore, Core.sampled, hn]
      rfl
    · rw [hcore, Core.sampled]
    · rw [State.sampleIdx_eq, State.wr_mem, State.setCore_mem]

end Sys2Proof.Machine
end

section
/-! PROOFS. Stream contexts and their life (R208 to R210). -/
namespace Sys2Proof.Machine
open Sys2Proof

section
variable {s : State}

/-! ### A context written through -/

theorem Ctx.length_bytes (x : Ctx) : x.bytes.length = 128 := by
  simp only [Ctx.bytes, List.length_append, length_leBytes, List.length_replicate]

theorem State.setCtx_keeps {β : Type} (φ : State → β) (hctxs : ∀ t x, φ { t with ctxs := x } = φ t)
    (hput : ∀ t a bs, φ (State.putMem t a bs) = φ t) (i : Nat) (x : Ctx) : φ (s.setCtx i x) = φ s :=
  (State.putDev_keeps φ hput _ _).trans (hctxs _ _)

theorem State.setCtx_ctxs (i : Nat) (x : Ctx) : (s.setCtx i x).ctxs = s.ctxs.set {} i x := State.putDev_keeps State.ctxs State.putMem_ctxs _ _

theorem State.ctx_congr {t : State} (h : t.ctxs = s.ctxs) (i : Nat) : t.ctx i = s.ctx i := by rw [State.ctx, h, State.ctx]

section
variable {lf lg : Nat} {cq : List Instr} (hS : s.Safe lf lg cq)
include hS

theorem State.ctx_setCtx (i : Nat) (x : Ctx) : (s.setCtx i x).ctx i = x := by
  rw [State.ctx, State.setCtx_ctxs]
  exact NMap.get_set_self _ _ _ (NMap.sorted_of_wf hS.canon.ctxs)

theorem State.ctx_setCtx_ne {i j : Nat} (x : Ctx) (h : j ≠ i) : (s.setCtx i x).ctx j = s.ctx j := by
  rw [State.ctx, State.setCtx_ctxs]
  exact NMap.get_set_ne _ _ _ h (NMap.sorted_of_wf hS.canon.ctxs)

theorem State.ctx_modCtx (i : Nat) (f : Ctx → Ctx) : (s.modCtx i f).ctx i = f (s.ctx i) := State.ctx_setCtx hS i _

theorem State.ctx_modCtx_ne {i j : Nat} (f : Ctx → Ctx) (h : j ≠ i) : (s.modCtx i f).ctx j = s.ctx j := State.ctx_setCtx_ne hS _ h

/-- The place of a context in the context table (R208). -/
theorem State.setCtx_writes (i : Nat) (x : Ctx) :
    (s.inBlocks (s.rdPair .stmTableLo .stmTableHi + 128 * i) 128 = true →
      ∀ k, k < 128 → (s.setCtx i x).mem.get 0 (s.rdPair .stmTableLo .stmTableHi + 128 * i + k) = x.bytes.getD k 0) ∧
    (∀ b, (b < s.rdPair .stmTableLo .stmTableHi + 128 * i ∨ s.rdPair .stmTableLo .stmTableHi + 128 * i + 128 ≤ b) →
      (s.setCtx i x).mem.get 0 b = s.mem.get 0 b) := by
  have hm : NMap.sorted ({ s with ctxs := s.ctxs.set {} i x } : State).mem = true := NMap.sorted_of_wf hS.mem
  have hlen := Ctx.length_bytes x
  refine ⟨fun hin k hk => ?_, fun b hb => ?_⟩
  · exact State.putDev_inside hm (by rw [hlen]; exact hin) (by rw [hlen]; exact hk)
  · exact State.putDev_outside hm x.bytes (by rw [hlen]; exact hb)

end

/-! ### BIND -/

theorem State.stmWhenUp_up (i : Nat) (f : State → State) (h : s.up = true) : s.stmWhenUp i f = f s := if_pos h

theorem State.stmWhenUp_down (i : Nat) (f : State → State) (h : s.up = false) : s.stmWhenUp i f = s.stmResult i 4 := if_neg (ne_true_of_eq_false h)

/-- The first free context (R209). -/
def State.freeCtx (s : State) : Option Nat :=
  (List.range (s.ctxs.length + 1)).find? (fun i => decide (i < 65536) && decide ((s.ctx i).st = .free))

section
variable (hup : s.up = true)
include hup

theorem State.bind_null (h : s.packId = 0) : s.bind_ = s.stmResult 0 5 := by
  unfold State.bind_
  extract_lets pack
  rw [if_neg (by rw [hup]; decide)]
  exact if_pos h

section
variable (hpack : s.packId ≠ 0)
include hpack

theorem State.bind_bound {i : Nat} (h : s.ctxOfPack s.packId = some i) :
    s.bind_ = s.stmResult i (if (s.ctx i).st = .bound then 1 else 4) := by
  unfold State.bind_
  extract_lets pack
  rw [if_neg (by rw [hup]; decide), if_neg (show ¬ pack = 0 from hpack), show s.ctxOfPack pack = some i from h] <;> rfl

/-- BIND with a slot taken for the first free context. -/
def State.bindSlot (s : State) (i slot : Nat) (s1 : State) : State :=
  let m := s.rf .stmArg 0 15 0
  let n := s.rf .stmArg 0 22 16
  let a := s.rdPair .stmStateLo .stmStateHi
  let s2 := s1.setCtx i { pack := s.packId, st := .bound, pin := s.rb .stmArg 0 24, model := m, stAddr := a, stBlocks := n, tBind := s.time }
  let s3 := s2.each (List.range n) (fun t k =>
    if t.inBlocks (a + blk * k) blk then t.putBlock (a + blk * k) (List.replicate blk 0) (freshState k) else t)
  let s4 := match s3.adpInit m with
    | some init => s3.adpFill slot i (((s.model m).issueImg.map (fun (g : Image × Bool) => g.1.compat)).getD 0) init
    | none => s3.setAdp slot {}
  let s5 := if s.rb .chkCkptCfg 0 31 && s.rf .chkCkptCfg 0 22 16 < n then
      s4.raise ((evDev 0x300D 1 (n + 256 * s.rf .chkCkptCfg 0 22 16)).withStream true i 0) else s4
  (s5.count ctrIo 6 1).stmResult i 0

section
variable (hfresh : s.ctxOfPack s.packId = none)
include hfresh

theorem State.bind_full (h : s.freeCtx = none) : s.bind_ = ((s.stmResult 0 2).flag .stmEvent 0 1).raise (evDev 0x1210 1 0) := by
  unfold State.freeCtx at h
  unfold State.bind_
  extract_lets pack
  rw [if_neg (by rw [hup]; decide), if_neg (show ¬ pack = 0 from hpack), show s.ctxOfPack pack = none from hfresh]
  dsimp only
  rw [h] <;> rfl

theorem State.bind_noSlot {i : Nat} {s1 : State} (h : s.freeCtx = some i) (hslot : s.takeSlot i = (none, s1)) : s.bind_ = s1.stmResult 0 2 := by
  unfold State.freeCtx at h
  unfold State.bind_
  extract_lets pack
  rw [if_neg (by rw [hup]; decide), if_neg (show ¬ pack = 0 from hpack), show s.ctxOfPack pack = none from hfresh]
  dsimp only
  rw [h]
  dsimp only
  rw [hslot] <;> rfl

theorem State.bind_slot {i slot : Nat} {s1 : State} (h : s.freeCtx = some i) (hslot : s.takeSlot i = (some slot, s1)) :
    s.bind_ = s.bindSlot i slot s1 := by
  unfold State.freeCtx at h
  unfold State.bind_ State.bindSlot
  extract_lets pack
  rw [if_neg (by rw [hup]; decide), if_neg (show ¬ pack = 0 from hpack), show s.ctxOfPack pack = none from hfresh]
  dsimp only
  rw [h]
  dsimp only
  rw [hslot] <;> rfl

end

end

end

/-- A bound context as BIND makes it (R209). -/
def Ctx.BoundTo (x : Ctx) (pack m n : Nat) : Prop :=
  x.st = .bound ∧ x.pack = pack ∧ x.step = 0 ∧ x.inflight = 0 ∧ x.model = m ∧ x.stBlocks = n

/-- A block written where block space reaches. -/
theorem State.putBlockIn_keeps {β : Type} (φ : State → β) (hput : ∀ t a bs, φ (State.putMem t a bs) = φ t) (a : Nat) (d : List Byte) (m : Manifest) :
    φ (if s.inBlocks a blk then s.putBlock a d m else s) = φ s := by
  split
  · exact (hput ..).trans (hput ..)
  · rfl

section
variable {lf lg : Nat} {cq : List Instr} (hS : s.Safe lf lg cq)
include hS

theorem State.putBlockIn_safe (a : Nat) (d : List Byte) (m : Manifest) : (if s.inBlocks a blk then s.putBlock a d m else s).Safe lf lg cq := by
  split
  · exact State.putBlock_safe s _ _ _ hS
  · exact hS

theorem State.adpFill_ctx (slot c compat : Nat) (init : List BlockRd) :
    (s.adpFill slot c compat init).ctx c = { s.ctx c with adapter := 2 ^ 31 + slot } := by
  have hlast {t : State} (ht : t.Safe lf lg cq) (hctxs : t.ctxs = s.ctxs) :
      (t.modCtx c (fun y => { y with adapter := 2 ^ 31 + slot })).ctx c = { s.ctx c with adapter := 2 ^ 31 + slot } := by
    rw [State.ctx_modCtx ht, State.ctx_congr hctxs]
  unfold State.adpFill
  extract_lets x
  refine hlast ?_ ?_
  · refine foldl_keeps (P := fun t : State => t.Safe lf lg cq) (fun t i ht => ?_) _ hS
    dsimp only
    split
    · exact State.putBlockIn_safe ht ..
    · exact State.putBlockIn_safe ht ..
  · refine State.each_keeps State.ctxs (fun t i => ?_) _ _
    dsimp only
    split
    · exact State.putBlockIn_keeps State.ctxs State.putMem_ctxs ..
    · exact State.putBlockIn_keeps State.ctxs State.putMem_ctxs ..

end

/-- The context that BIND binds (R209). -/
theorem State.bindSlot_binds {lf lg : Nat} {cq : List Instr} {s1 : State} (hS : s1.Safe lf lg cq) (i slot : Nat) :
    ((s.bindSlot i slot s1).ctx i).BoundTo s.packId (s.rf .stmArg 0 15 0) (s.rf .stmArg 0 22 16) := by
  unfold State.bindSlot
  extract_lets m n a s2 s3 s4 s5
  have hS2 : s2.Safe lf lg cq := State.setCtx_safe s1 i _ hS
  have hS3 : s3.Safe lf lg cq := foldl_keeps (P := fun t : State => t.Safe lf lg cq) (fun t k ht => State.putBlockIn_safe ht ..) _ hS2
  have h2 : (s2.ctx i).BoundTo s.packId m n := by
    rw [State.ctx_setCtx hS]
    exact ⟨rfl, rfl, rfl, rfl, rfl, rfl⟩
  have h3 : (s3.ctx i).BoundTo s.packId m n := by
    have hctxs : s3.ctxs = s2.ctxs := State.each_keeps State.ctxs (fun t k => State.putBlockIn_keeps State.ctxs State.putMem_ctxs ..) _ _
    rw [State.ctx_congr hctxs]
    exact h2
  have h4 : (s4.ctx i).BoundTo s.packId m n := by
    simp only [s4]
    split
    · rw [State.adpFill_ctx hS3]
      exact h3
    · rw [State.ctx_setAdp]
      exact h3
  have h5 : (s5.ctx i).BoundTo s.packId m n := by
    simp only [s5]
    split
    · rw [State.ctx_raise]
      exact h4
    · exact h4
  have hctx : ((s5.count ctrIo 6 1).stmResult i 0).ctx i = s5.ctx i := (State.ctx_wr ..).trans (State.ctx_count ..)
  rw [hctx]
  exact h5

/-! ### LOOKUP, RETIRE and RELEASE -/

theorem State.lookup_eq : s.lookup = match s.ctxOfPack s.packId with
    | some i => s.stmResult i 0
    | none => s.stmResult 0 3 := by
  unfold State.lookup
  rfl

theorem State.retire_refused {c : Nat} (reason : Nat) (h : (s.ctx c).st ≠ .bound) : s.retire c reason = s.stmResult c 4 := if_neg h

theorem State.releaseCtx_refused {c : Nat} (h : (s.ctx c).st ≠ .retired) : s.releaseCtx c = s.stmResult c 4 := if_neg h

theorem State.retire_retires (hS : s.Inv) {c : Nat} (reason : Nat) (h : (s.ctx c).st = .bound) : ∃ t, s.retire c reason = t ∧
    (t.ctx c).st = .retiring ∧ (t.ctx c).reason = reason ∧ (t.ctx c).step = (s.ctx c).step ∧ (∀ j, j ≠ c → t.ctx j = s.ctx j) ∧
    t.queues = s.queues ∧ t.arrays = s.arrays := by
  have hctx (j : Nat) (f : Ctx → Ctx) : ((s.modCtx c f).stmResult c 0).ctx j = (s.modCtx c f).ctx j := State.ctx_wr ..
  have heq := State.ctx_modCtx hS c (fun x => { x with st := .retiring, reason := reason })
  refine ⟨_, if_pos h, ?_, ?_, ?_, fun j hj => (hctx j _).trans (State.ctx_modCtx_ne hS _ hj), ?_, ?_⟩
  · rw [hctx, heq]
  · rw [hctx, heq]
  · rw [hctx, heq]
  · exact (State.wr_queues ..).trans (State.setCtx_keeps State.queues (fun _ _ => rfl) State.putMem_queues ..)
  · exact (State.wr_arrays ..).trans (State.setCtx_keeps State.arrays (fun _ _ => rfl) State.putMem_arrays ..)

/-- The adapter slot of a context released (R246). -/
def State.slotReleased (s : State) (c : Nat) : State :=
  match s.slotOfCtx c with
  | some i => s.setAdp i {}
  | none => s

theorem State.slotReleased_safe {lf lg : Nat} {cq : List Instr} (hS : s.Safe lf lg cq) (c : Nat) : (s.slotReleased c).Safe lf lg cq := by
  unfold State.slotReleased
  split
  · exact State.setAdp_safe _ _ _ hS
  · exact hS

theorem State.slotReleased_ctx (c j : Nat) : (s.slotReleased c).ctx j = s.ctx j := by
  unfold State.slotReleased
  split
  · exact State.ctx_setAdp ..
  · rfl

theorem State.releaseCtx_eq {c : Nat} (h : (s.ctx c).st = .retired) : s.releaseCtx c = ((s.slotReleased c).setCtx c {}).stmResult c 0 := if_pos h

theorem State.releaseCtx_frees (hS : s.Inv) {c : Nat} (h : (s.ctx c).st = .retired) : ∃ t, s.releaseCtx c = t ∧ (t.ctx c).st = .free ∧
    (t.ctx c).pack = 0 ∧ (∀ j, j ≠ c → t.ctx j = s.ctx j) := by
  have hS1 := State.slotReleased_safe hS c
  have hctx (j : Nat) : (((s.slotReleased c).setCtx c {}).stmResult c 0).ctx j = ((s.slotReleased c).setCtx c {}).ctx j := State.ctx_wr ..
  have heq := (hctx c).trans (State.ctx_setCtx hS1 c {})
  refine ⟨_, State.releaseCtx_eq h, ?_, ?_, fun j hj => (hctx j).trans ((State.ctx_setCtx_ne hS1 _ hj).trans (State.slotReleased_ctx c j))⟩
  · rw [heq]
  · rw [heq]

theorem State.retired_idle {c : Nat} (h : (s.ctx c).st ≠ .retiring ∨ (s.ctx c).inflight ≠ 0) : s.retired c = s :=
  if_pos (by rw [Bool.or_eq_true, decide_eq_true_iff, decide_eq_true_iff]; exact h)

/-- A context whose last request is gone is RETIRED (R209). -/
theorem State.retired_retires (hS : s.Inv) {c : Nat} (h : (s.ctx c).st = .retiring) (hn : (s.ctx c).inflight = 0) : ∃ t, s.retired c = t ∧
    (t.ctx c).st = .retired := by
  have hgo : ¬ (decide ((s.ctx c).st ≠ .retiring) || decide ((s.ctx c).inflight ≠ 0)) = true := by
    rw [h, hn]
    decide
  unfold State.retired
  extract_lets x s1 s2
  rw [if_neg hgo]
  have hS1 : s1.Safe 0 0 s.pending := by
    simp only [s1]
    split
    · exact State.checkpoint_safe s c hS
    · exact hS
  have hS2 : s2.Safe 0 0 s.pending := by
    simp only [s2]
    split
    · split
      · exact hS1
      · exact State.writeBack_safe s1 _ true hS1
    · exact hS1
  refine ⟨_, rfl, ?_⟩
  rw [State.ctx_raise, State.ctx_flag, State.ctx_modCtx (State.count_safe s2 ctrIo 7 1 hS2)]

end

/-- Settles O39. -/
theorem contextLife : Obligations.ContextLife := by
  unfold Obligations.ContextLife
  refine ⟨fun s i x hI => ?_, fun s path c reason hI => ⟨fun ha x hx => ?_, fun ha hup => ?_, fun ha hup => ?_, fun halive hst hn => ?_, fun h => ?_⟩⟩
  · obtain ⟨hin, hout⟩ := State.setCtx_writes hI i x
    exact ⟨State.ctx_setCtx hI i x, fun j hj => State.ctx_setCtx_ne hI x hj, hin, hout,
      State.setCtx_keeps State.regs (fun _ _ => rfl) State.putMem_regs i x, State.setCtx_keeps State.arrays (fun _ _ => rfl) State.putMem_arrays i x⟩
  · simp only [List.mem_cons, List.not_mem_nil, or_false] at hx
    rcases hx with rfl | rfl | rfl | rfl
    · exact next_asked_unanswered ha _
    · exact next_asked_unanswered ha _
    · exact next_asked_unanswered ha _
    · exact next_asked_unanswered ha _
  · exact ⟨next_congr ((State.asked_answered ha _).trans (State.stmWhenUp_down 0 _ hup)),
      next_congr ((State.asked_answered ha _).trans (State.stmWhenUp_down 0 _ hup)),
      next_congr ((State.asked_answered ha _).trans (State.stmWhenUp_down c _ hup)),
      next_congr ((State.asked_answered ha _).trans (State.stmWhenUp_down c _ hup))⟩
  · have hbind : exec (.bindCtx path) s = .next s.bind_ := next_congr ((State.asked_answered ha _).trans (State.stmWhenUp_up 0 _ hup))
    have hlookup : exec (.lookup path) s = .next s.lookup := next_congr ((State.asked_answered ha _).trans (State.stmWhenUp_up 0 _ hup))
    have hretire : exec (.retire path c reason) s = .next (s.retire c reason) :=
      next_congr ((State.asked_answered ha _).trans (State.stmWhenUp_up c _ hup))
    have hrelease : exec (.streamRelease path c) s = .next (s.releaseCtx c) :=
      next_congr ((State.asked_answered ha _).trans (State.stmWhenUp_up c _ hup))
    rw [hbind, hlookup, hretire, hrelease]
    refine ⟨fun h => next_congr (State.bind_null hup h), fun i hp h => next_congr (State.bind_bound hup hp h),
      fun hp hn h => next_congr (State.bind_full hup hp hn h), fun i s1 hp hn h hslot => next_congr (State.bind_noSlot hup hp hn h hslot),
      fun i slot s1 hp hn h hslot => ⟨_, next_congr (State.bind_slot hup hp hn h hslot),
        State.bindSlot_binds (State.takeSlot_safe' hslot hI) i slot⟩,
      next_congr State.lookup_eq, fun h => ?_, fun h => next_congr (State.retire_refused reason h), fun h => ?_,
      fun h => next_congr (State.releaseCtx_refused h)⟩
    · obtain ⟨t, ht, hrest⟩ := State.retire_retires hI reason h
      exact ⟨t, next_congr ht, hrest⟩
    · obtain ⟨t, ht, hrest⟩ := State.releaseCtx_frees hI h
      exact ⟨t, next_congr ht, hrest⟩
  · obtain ⟨t, ht, hrest⟩ := State.retired_retires hI hst hn
    exact ⟨t, next_congr ((if_pos halive).trans ht), hrest⟩
  · rcases h with h | h
    · exact next_if_neg h _ _
    · refine next_congr ?_
      split
      · exact State.retired_idle h
      · rfl

end Sys2Proof.Machine
end

section
/-! PROOFS. RECEIVE, VERIFY and SEND of images, and segments of a chain (R228, R231 to R233, R253, R396). -/
namespace Sys2Proof.Machine
open Sys2Proof

theorem quiet_arrays : Quiet State.arrays :=
  ⟨⟨fun _ _ => rfl, fun _ _ => rfl, fun _ _ => rfl, fun _ _ => rfl⟩, State.wr_arrays, State.raise_arrays⟩

theorem quiet_models : Quiet State.models :=
  ⟨⟨fun _ _ => rfl, fun _ _ => rfl, fun _ _ => rfl, fun _ _ => rfl⟩, State.wr_models, State.raise_models⟩

section
variable {s : State}

/-! ### The result of an image command -/

theorem State.imgWhenUp_up (f : State → State) (h : s.up = true) : s.imgWhenUp f = f s := if_pos h

theorem State.imgWhenUp_down (f : State → State) (h : s.up = false) : s.imgWhenUp f = s.imgResult 5 := if_neg (ne_true_of_eq_false h)

section
variable {β : Type} {φ : State → β} (h : Quiet φ)
include h

theorem Quiet.reportBad (a cause : Nat) : φ (s.reportBad a cause) = φ s := by
  unfold State.reportBad
  split
  · unfold State.ueRead
    split
    · exact (h.raise ..).trans (h.wr ..)
    · rfl
  · exact h.raise ..

theorem Quiet.imgResult (r : Nat) : φ (s.imgResult r) = φ s := h.wr ..

theorem Quiet.imgRaise (b : Nat) (e : Event) : φ (s.imgRaise b e) = φ s := (h.raise ..).trans (h.flag ..)

theorem Quiet.imgRefuse (m : Nat) (e : ImgErr) : φ (s.imgRefuse m e) = φ s := by
  unfold State.imgRefuse
  extract_lets s1 s2
  have h1 : φ s1 = φ s := by
    simp only [s1]
    split
    · exact Quiet.reportBad h ..
    · rfl
  have h2 : φ s2 = φ s := (Quiet.imgResult h _).trans h1
  split
  · exact (Quiet.imgRaise h ..).trans h2
  · exact h2

end

section
variable {lf lg : Nat} {cq : List Instr} (hS : s.Safe lf lg cq)
include hS

theorem State.rd_imgResult {r : Nat} (hr : r < 2 ^ 31) : (s.imgResult r).rd .imgCmdStatus = r + 2 ^ 31 :=
  (State.rd_wr hS ..).trans (Nat.mod_eq_of_lt (by omega))

theorem State.rd_imgRaise (b : Nat) (e : Event) : (s.imgRaise b e).rd .imgCmdStatus = s.rd .imgCmdStatus :=
  (State.rd_raise_ne (State.flag_safe s .imgEvent 0 (2 ^ b) hS) e (by decide)).trans (State.rd_wr_ne hS _ (by decide))

theorem State.rd_imgRefuse (m : Nat) (e : ImgErr) (he : e.result < 2 ^ 31) : (s.imgRefuse m e).rd .imgCmdStatus = e.result + 2 ^ 31 := by
  unfold State.imgRefuse
  extract_lets s1 s2
  have hS1 : s1.Safe lf lg cq := by
    simp only [s1]
    split
    · exact State.reportBad_safe s _ _ hS
    · exact hS
  have h2 : s2.rd .imgCmdStatus = e.result + 2 ^ 31 := State.rd_imgResult hS1 he
  split
  · exact (State.rd_imgRaise (State.imgResult_safe s1 e.result hS1) ..).trans h2
  · exact h2

end

/-! ### RECEIVE and VERIFY -/

theorem State.model_congr {t : State} (h : t.models = s.models) (i : Nat) : t.model i = s.model i := by rw [State.model, h, State.model]

/-- A model armed for a transfer (R231). -/
def Model.received (x : Model) : Model :=
  { x with sst := .receiving, rxFirst := none, rxSegs := [], rxBlocks := 0, rxBroken := none, rxBad := [], rxGood := [] }

theorem State.imgReceive_eq : s.imgReceive = (s.modModel s.imgSel Model.received).imgResult 0 := by
  rw [State.imgReceive]
  rfl

/-- RECEIVE arms the selected model (R231). -/
theorem State.imgReceive_arms (hS : s.Inv) : ∃ t, s.imgReceive = t ∧ (t.model s.imgSel).sst = .receiving ∧ (t.model s.imgSel).rxSegs = [] ∧
    (t.model s.imgSel).rxFirst = none ∧ (t.model s.imgSel).mst = (s.model s.imgSel).mst ∧ t.rd .imgCmdStatus = 2 ^ 31 ∧
    (∀ i, i ≠ s.imgSel → t.model i = s.model i) ∧ t.mem = s.mem ∧ t.arrays = s.arrays := by
  have hres (i : Nat) : ((s.modModel s.imgSel Model.received).imgResult 0).model i = (s.modModel s.imgSel Model.received).model i :=
    State.model_wr ..
  have hmodel := (hres _).trans (State.model_modModel hS s.imgSel Model.received)
  refine ⟨_, State.imgReceive_eq, ?_, ?_, ?_, ?_, State.rd_imgResult (State.modModel_safe s s.imgSel _ hS) (by decide),
    fun i hi => (hres i).trans (State.model_modModel_ne hS _ hi),
    (State.wr_mem ..).trans (State.modModel_mem ..), (State.wr_arrays ..).trans (State.modModel_arrays ..)⟩
  · exact congrArg Model.sst hmodel
  · exact congrArg Model.rxSegs hmodel
  · exact congrArg Model.rxFirst hmodel
  · exact Eq.trans (congrArg Model.mst hmodel) rfl

theorem State.imgVerifyCmd_receiving (h : (s.model s.imgSel).sst = .receiving) : s.imgVerifyCmd = s.imgResult 5 := if_pos h

theorem State.imgVerifyCmd_ok {img : Image} (h : (s.model s.imgSel).sst ≠ .receiving) (hv : s.imgVerify s.stage = .ok img) :
    s.imgVerifyCmd = (s.imgResult 0).imgStaged s.imgSel img.version := by
  unfold State.imgVerifyCmd
  extract_lets m
  rw [if_neg h, hv] <;> rfl

theorem State.imgVerifyCmd_error {e : ImgErr} (h : (s.model s.imgSel).sst ≠ .receiving) (hv : s.imgVerify s.stage = .error e) :
    s.imgVerifyCmd = (s.markBad s.imgSel).imgRefuse s.imgSel e := by
  unfold State.imgVerifyCmd
  extract_lets m
  rw [if_neg h, hv] <;> rfl

/-- An image that passes is STAGED (R254). -/
theorem State.imgStaged_stages (hS : s.Inv) (m v : Nat) : (((s.imgResult 0).imgStaged m v).model m).sst = .staged ∧
    ((s.imgResult 0).imgStaged m v).rd .imgCmdStatus = 2 ^ 31 ∧ (∀ i, i ≠ m → ((s.imgResult 0).imgStaged m v).model i = s.model i) ∧
    ((s.imgResult 0).imgStaged m v).mem = s.mem := by
  have hS1 := State.imgResult_safe s 0 hS
  have hS2 := State.modModel_safe (s.imgResult 0) m (fun x => { x with sst := .staged }) hS1
  have hrd : ((s.imgResult 0).modModel m (fun x => { x with sst := .staged })).rd .imgCmdStatus = 2 ^ 31 :=
    (State.rd_of_regs (State.modModel_regs ..) ..).trans (State.rd_imgResult hS (by decide))
  have hres (i : Nat) : (s.imgResult 0).model i = s.model i := State.model_wr ..
  unfold State.imgStaged
  refine ⟨?_, (State.rd_imgRaise hS2 ..).trans hrd, fun i hi => ?_, ?_⟩
  · rw [State.model_imgRaise, State.model_modModel hS1]
  · rw [State.model_imgRaise, State.model_modModel_ne hS1 _ hi, hres]
  · exact (Quiet.imgRaise quiet_mem ..).trans ((State.modModel_mem ..).trans (State.wr_mem ..))

/-- An image that fails is BAD (R228). -/
theorem State.markBad_refuses (hS : s.Inv) (m : Nat) (e : ImgErr) : (((s.markBad m).imgRefuse m e).model m).sst = .bad ∧
    (e.result < 2 ^ 31 → ((s.markBad m).imgRefuse m e).rd .imgCmdStatus = e.result + 2 ^ 31) ∧
    (∀ i, i ≠ m → ((s.markBad m).imgRefuse m e).model i = s.model i) ∧ ((s.markBad m).imgRefuse m e).mem = s.mem := by
  have hS1 := State.markBad_safe s m hS
  have hmodels (i : Nat) : ((s.markBad m).imgRefuse m e).model i = (s.markBad m).model i :=
    State.model_congr (Quiet.imgRefuse quiet_models m e) i
  refine ⟨?_, State.rd_imgRefuse hS1 m e, fun i hi => (hmodels i).trans (State.model_modModel_ne hS _ hi), ?_⟩
  · rw [hmodels, State.markBad, State.model_modModel hS]
  · exact (Quiet.imgRefuse quiet_mem m e).trans (State.modModel_mem ..)

theorem State.imgVerifyCmd_verifies (hS : s.Inv) (h : (s.model s.imgSel).sst ≠ .receiving) : ∃ t, s.imgVerifyCmd = t ∧
    (∀ i, i ≠ s.imgSel → t.model i = s.model i) ∧ t.mem = s.mem ∧
    (match s.imgVerify s.stage with
      | .ok _ => (t.model s.imgSel).sst = .staged ∧ t.rd .imgCmdStatus = 2 ^ 31
      | .error e => (t.model s.imgSel).sst = .bad ∧ (e.result < 2 ^ 31 → t.rd .imgCmdStatus = e.result + 2 ^ 31)) := by
  cases hv : s.imgVerify s.stage with
  | ok img =>
    obtain ⟨hst, hrd, hmodels, hmem⟩ := State.imgStaged_stages hS s.imgSel img.version
    exact ⟨_, State.imgVerifyCmd_ok h hv, hmodels, hmem, hst, hrd⟩
  | error e =>
    obtain ⟨hst, hrd, hmodels, hmem⟩ := State.markBad_refuses hS s.imgSel e
    exact ⟨_, State.imgVerifyCmd_error h hv, hmodels, hmem, hst, hrd⟩

/-! ### SEND -/

/-- The header of the staged image (R227). -/
def State.stageHead (s : State) : List Byte := s.bytesAt s.stage blk

/-- An image whose header has arrived can be sent (R232, R233). -/
def State.SendReady (s : State) : Prop := (s.model s.imgSel).sst ≠ .idle ∧ s.inBlocks s.stage blk = true ∧ hdrOk s.stageHead = true ∧
  ((s.model s.imgSel).sst = .receiving → (s.model s.imgSel).rxAll 0 1 = true)

/-- The guard with which SEND refuses an image. -/
def State.sendRefused (s : State) : Bool :=
  decide ((s.model s.imgSel).sst = .idle) || !s.inBlocks s.stage blk ||
    !(decide ((s.model s.imgSel).sst ≠ .receiving) || (s.model s.imgSel).rxAll 0 1) || !hdrOk s.stageHead

theorem State.sendRefused_iff : s.sendRefused = true ↔ ¬ s.SendReady := by
  unfold State.sendRefused State.SendReady
  generalize s.stageHead = hd, s.inBlocks s.stage blk = inside, s.model s.imgSel = x
  simp only [Bool.or_eq_true, decide_eq_true_iff, Bool.not_eq_true', Bool.or_eq_false_iff, decide_eq_false_iff_not, ne_eq, Classical.not_not,
    Classical.not_and_iff_not_or_not, Classical.not_imp, Bool.not_eq_true]
  grind

/-- The segments that SEND sends from block `o` (R232, R233). -/
def State.imgSent (s : State) (o : Nat) : State :=
  (s.modModel s.imgSel (fun x => { x with rxBroken := none })).each (List.range (cdiv (leAt s.stageHead 32 8 / blk - o) 16)) (fun t k =>
    let b := o + 16 * k
    let n := min 16 (leAt s.stageHead 32 8 / blk - b)
    let hdr := leBytes 2 s.imgSel ++ [0, 0] ++ leBytes 4 (leAt s.stageHead 12 4) ++ leBytes 8 (leAt s.stageHead 32 8) ++
      leBytes 8 (blk * b) ++ leBytes 2 n ++ List.replicate 6 0
    let body := (List.range n).flatMap (fun i => t.bytesAt (s.stage + blk * (b + i)) blk ++ (t.devMan (s.stage + blk * (b + i))).bytes)
    if decide ((s.model s.imgSel).sst ≠ .receiving) || (s.model s.imgSel).rxAll b n then t.chainSend s.imgSel (blk * b) (hdr ++ body) else t)

theorem State.imgSend_eq : s.imgSend = if s.sendRefused then s.imgRefuse s.imgSel ⟨2, 0, none⟩
    else if !s.inBlocks s.stage (leAt s.stageHead 32 8) then s.imgResult 7
    else if s.rf .imgArg 0 23 0 % 16 ≠ 0 then s.imgResult 1
    else (s.imgSent (s.rf .imgArg 0 23 0)).imgResult 0 := by
  rw [State.imgSend, State.sendRefused, State.imgSent, State.stageHead]

/-- What one segment to the next device of the chain leaves (R233). -/
theorem Quiet.chainSend {β : Type} {φ : State → β} (h : Quiet φ) (hmodels : ∀ t x, φ { t with models := x } = φ t) (m off : Nat) (pay : List Byte) :
    φ (s.chainSend m off pay) = φ s := by
  unfold State.chainSend
  extract_lets peer
  split
  · rfl
  · have hsend := h.srnSend s peer 1 0x20 pay
    split
    next ok t hok =>
      rw [hok] at hsend
      split
      · exact (hmodels _ _).trans hsend
      · unfold State.chainBroken
        split
        · exact hsend
        · exact (h.raise ..).trans ((h.flag ..).trans ((hmodels _ _).trans hsend))

theorem Quiet.imgSent {β : Type} {φ : State → β} (h : Quiet φ) (hmodels : ∀ t x, φ { t with models := x } = φ t) (o : Nat) :
    φ (s.imgSent o) = φ s := by
  refine (State.each_keeps φ (fun t k => ?_) _ _).trans (hmodels _ _)
  dsimp only
  split
  · exact Quiet.chainSend h hmodels ..
  · rfl

theorem State.imgSent_safe {lf lg : Nat} {cq : List Instr} (hS : s.Safe lf lg cq) (o : Nat) : (s.imgSent o).Safe lf lg cq := by
  refine foldl_keeps (P := fun t : State => t.Safe lf lg cq) (fun t k ht => ?_) _ (State.modModel_safe s _ _ hS)
  dsimp only
  split
  · exact State.chainSend_safe t _ _ _ ht
  · exact ht

section
variable (hready : s.SendReady)
include hready

theorem State.imgSend_ready : s.imgSend = if !s.inBlocks s.stage (leAt s.stageHead 32 8) then s.imgResult 7
    else if s.rf .imgArg 0 23 0 % 16 ≠ 0 then s.imgResult 1
    else (s.imgSent (s.rf .imgArg 0 23 0)).imgResult 0 :=
  State.imgSend_eq.trans (if_neg fun h => State.sendRefused_iff.mp h hready)

theorem State.imgSend_outside (h : s.inBlocks s.stage (leAt s.stageHead 32 8) = false) : s.imgSend = s.imgResult 7 :=
  (State.imgSend_ready hready).trans (if_pos (by rw [h]; rfl))

theorem State.imgSend_unaligned (h : s.inBlocks s.stage (leAt s.stageHead 32 8) = true) (ho : s.rf .imgArg 0 23 0 % 16 ≠ 0) :
    s.imgSend = s.imgResult 1 :=
  (State.imgSend_ready hready).trans ((if_neg (by rw [h]; decide)).trans (if_pos ho))

theorem State.imgSend_sends (hS : s.Inv) (h : s.inBlocks s.stage (leAt s.stageHead 32 8) = true) (ho : s.rf .imgArg 0 23 0 % 16 = 0) :
    ∃ t, s.imgSend = t ∧ t.rd .imgCmdStatus = 2 ^ 31 ∧ t.mem = s.mem ∧ t.arrays = s.arrays :=
  ⟨_, (State.imgSend_ready hready).trans ((if_neg (by rw [h]; decide)).trans (if_neg (not_not_intro ho))),
    State.rd_imgResult (State.imgSent_safe hS _) (by decide),
    (State.wr_mem ..).trans (Quiet.imgSent quiet_mem (fun _ _ => rfl) _),
    (State.wr_arrays ..).trans (Quiet.imgSent quiet_arrays (fun _ _ => rfl) _)⟩

end

theorem State.imgSend_refused (h : ¬ s.SendReady) : s.imgSend = s.imgRefuse s.imgSel ⟨2, 0, none⟩ :=
  State.imgSend_eq.trans (if_pos (State.sendRefused_iff.mpr h))

/-! ### Segments of a chain -/

/-- A segment that the transfer under way does not match (R231, assumption 66). -/
def State.SegBad (s : State) (p : List Byte) : Prop := (s.model (leAt p 0 2)).rxFirst.any (· ≠ leAt p 4 4) = true ∨
  leAt p 16 8 % 65536 ≠ 0 ∨ leAt p 24 2 = 0 ∨ 16 < leAt p 24 2

/-- A segment forwarded where the chain is on (R231). -/
def State.segForwarded (s : State) (p : List Byte) : State :=
  if s.rb .imgChainCfg 0 0 then s.chainSend (leAt p 0 2) (leAt p 16 8) p else s

/-- A segment stored in the staging space and verified (R231, R232). -/
def State.segStored (s : State) (p : List Byte) : State :=
  ((s.each (List.range (leAt p 24 2)) (fun t i =>
    if t.inBlocks (t.stage + leAt p 16 8 + blk * i) blk then
      t.putBlock (t.stage + leAt p 16 8 + blk * i) ((p.drop (32 + 4112 * i)).take blk)
        (Manifest.ofBytes ((p.drop (32 + 4112 * i + blk)).take 16)) else t)).modModel (leAt p 0 2) (fun y => { y with
    rxFirst := some (leAt p 4 4), rxBlocks := y.rxBlocks + leAt p 24 2,
    rxSegs := if y.rxSegs.contains (leAt p 16 8 / blk, leAt p 24 2) then y.rxSegs
      else (leAt p 16 8 / blk, leAt p 24 2) :: y.rxSegs })).rxVerify (leAt p 0 2) (leAt p 4 4) (leAt p 16 8 / blk) (leAt p 24 2)

/-- What a segment does once it is taken from its channel. -/
def State.segTaken (s : State) (p : List Byte) : State :=
  if !(s.model (leAt p 0 2)).armed then
    s.imgRaise 3 (evModel 0x6004 1 (leAt p 0 2) ((if s.models.any (fun e => e.2.armed) then 1 else 2) + 65536 * leAt p 16 8))
  else if (s.model (leAt p 0 2)).rxFirst.any (· ≠ leAt p 4 4) || leAt p 16 8 % 65536 ≠ 0 || leAt p 24 2 = 0 || 16 < leAt p 24 2 then
    s.imgRaise 3 (evModel 0x6004 1 (leAt p 0 2) (1 + 65536 * leAt p 16 8))
  else if (s.model (leAt p 0 2)).sst = .bad && !s.rxWants (leAt p 0 2) (leAt p 16 8 / blk) (leAt p 24 2) then s.segForwarded p
  else (s.segForwarded p).segStored p

theorem State.imgSegment_none {peer : Nat} (h : s.nextMsg peer 0x20 = none) : s.imgSegment peer = s := by
  unfold State.imgSegment
  rw [h] <;> rfl

theorem State.imgSegment_some {peer ch : Nat} {msg : InMsg} (h : s.nextMsg peer 0x20 = some (ch, msg)) :
    s.imgSegment peer = (s.tookMsg peer ch).segTaken msg.payload := by
  unfold State.imgSegment State.segTaken State.segForwarded State.segStored
  rw [h] <;> rfl

section
variable {p : List Byte}

theorem State.segTaken_unarmed (h : (s.model (leAt p 0 2)).armed = false) : s.segTaken p =
    s.imgRaise 3 (evModel 0x6004 1 (leAt p 0 2) ((if s.models.any (fun e => e.2.armed) then 1 else 2) + 65536 * leAt p 16 8)) :=
  if_pos (by rw [h]; rfl)

theorem State.segBad_iff : ((s.model (leAt p 0 2)).rxFirst.any (· ≠ leAt p 4 4) || decide (leAt p 16 8 % 65536 ≠ 0) ||
    decide (leAt p 24 2 = 0) || decide (16 < leAt p 24 2)) = true ↔ s.SegBad p := by
  rw [State.SegBad, Bool.or_eq_true, Bool.or_eq_true, Bool.or_eq_true, decide_eq_true_iff, decide_eq_true_iff, decide_eq_true_iff,
    or_assoc, or_assoc]

section
variable (harmed : (s.model (leAt p 0 2)).armed = true)
include harmed

theorem State.segTaken_bad (h : s.SegBad p) : s.segTaken p = s.imgRaise 3 (evModel 0x6004 1 (leAt p 0 2) (1 + 65536 * leAt p 16 8)) :=
  (if_neg (by rw [harmed]; decide)).trans (if_pos (State.segBad_iff.mpr h))

theorem State.segTaken_good (h : ¬ s.SegBad p) : s.segTaken p =
    if (s.model (leAt p 0 2)).sst = .bad && !s.rxWants (leAt p 0 2) (leAt p 16 8 / blk) (leAt p 24 2) then s.segForwarded p
    else (s.segForwarded p).segStored p :=
  (if_neg (by rw [harmed]; decide)).trans (if_neg (mt State.segBad_iff.mp h))

theorem State.segTaken_unwanted (h : ¬ s.SegBad p) (hb : (s.model (leAt p 0 2)).sst = .bad)
    (hw : s.rxWants (leAt p 0 2) (leAt p 16 8 / blk) (leAt p 24 2) = false) : s.segTaken p = s.segForwarded p :=
  (State.segTaken_good harmed h).trans (if_pos (by rw [hb, hw]; rfl))

theorem State.segTaken_stores (h : ¬ s.SegBad p)
    (hw : (s.model (leAt p 0 2)).sst ≠ .bad ∨ s.rxWants (leAt p 0 2) (leAt p 16 8 / blk) (leAt p 24 2) = true) :
    s.segTaken p = (s.segForwarded p).segStored p := by
  refine (State.segTaken_good harmed h).trans (if_neg ?_)
  rw [Bool.and_eq_true, decide_eq_true_iff, Bool.not_eq_true']
  rintro ⟨hb, hn⟩
  rcases hw with hw | hw
  · exact hw hb
  · exact absurd hw (ne_true_of_eq_false hn)

end

end

end

/-- Settles O41. -/
theorem imageStaging : Obligations.ImageStaging := by
  unfold Obligations.ImageStaging
  refine ⟨fun s path set hI => ⟨fun ha c hc => ?_, fun ha hup c hc => ?_, fun ha hup => ?_⟩, fun s peer => ⟨fun h => ?_, fun ch msg halive h => ?_⟩⟩
  · simp only [List.mem_cons, List.not_mem_nil, or_false] at hc
    rcases hc with rfl | rfl | rfl | rfl | rfl | rfl | rfl | rfl | rfl | rfl | rfl <;> exact next_asked_unanswered ha _
  · simp only [List.mem_cons, List.not_mem_nil, or_false] at hc
    rcases hc with rfl | rfl | rfl | rfl | rfl | rfl | rfl | rfl | rfl | rfl | rfl <;>
      exact next_congr ((State.asked_answered ha _).trans (State.imgWhenUp_down _ hup))
  · have hreceive : exec (.receive path) s = .next s.imgReceive := next_congr ((State.asked_answered ha _).trans (State.imgWhenUp_up _ hup))
    have hverify : exec (.verify path) s = .next s.imgVerifyCmd := next_congr ((State.asked_answered ha _).trans (State.imgWhenUp_up _ hup))
    have hsend : exec (.sendImg path) s = .next s.imgSend := next_congr ((State.asked_answered ha _).trans (State.imgWhenUp_up _ hup))
    rw [hreceive, hverify, hsend]
    refine ⟨?_, fun h => next_congr (State.imgVerifyCmd_receiving h), fun h => ?_, fun h => next_congr (State.imgSend_refused h),
      fun hr h => next_congr (State.imgSend_outside hr h), fun hr h ho => next_congr (State.imgSend_unaligned hr h ho), fun hr h ho => ?_⟩
    · obtain ⟨t, ht, hrest⟩ := State.imgReceive_arms hI
      exact ⟨t, next_congr ht, hrest⟩
    · obtain ⟨t, ht, hrest⟩ := State.imgVerifyCmd_verifies hI h
      exact ⟨t, next_congr ht, hrest⟩
    · obtain ⟨t, ht, hrest⟩ := State.imgSend_sends hr hI h ho
      exact ⟨t, next_congr ht, hrest⟩
  · rcases h with h | h
    · exact next_if_neg h _ _
    · refine next_congr ?_
      split
      · exact State.imgSegment_none h
      · rfl
  · have hgo : exec (.imgSegment peer) s = .next ((s.tookMsg peer ch).segTaken msg.payload) :=
      next_congr ((if_pos halive).trans (State.imgSegment_some h))
    rw [hgo]
    exact ⟨fun hn => next_congr (State.segTaken_unarmed hn), fun ha hb => next_congr (State.segTaken_bad ha hb),
      fun ha hb hs hw => next_congr (State.segTaken_unwanted ha hb hs hw), fun ha hb hw => next_congr (State.segTaken_stores ha hb hw)⟩

end Sys2Proof.Machine
end

section
/-! PROOFS. The request messages of a peer: SUBMIT, FORWARD_REQ and REFUSE (R372 to R375). -/
namespace Sys2Proof.Machine
open Sys2Proof

section
variable {s : State} {peer ch : Nat} {m : InMsg}

/-! ### SUBMIT -/

theorem State.submitMsg_none (h : s.nextMsg peer 0x10 = none) : s.submitMsg peer = s := by
  unfold State.submitMsg
  rw [h] <;> rfl

/-- The ring of a SUBMIT is on the device's side and takes it (R372). -/
def State.SubmitTo (s : State) (q : Nat) : Prop :=
  q < 32768 ∧ (s.queue q).st = .enabled ∧ (s.queue q).sqHost = false ∧ (s.queue q).rung = false

theorem State.submitTo_iff {q : Nat} : (decide (32768 ≤ q) || decide ((s.queue q).st ≠ .enabled) || (s.queue q).sqHost || (s.queue q).rung) = true ↔
    ¬ s.SubmitTo q := by
  unfold State.SubmitTo
  simp only [Bool.or_eq_true, decide_eq_true_iff, Classical.not_and_iff_not_or_not, Bool.not_eq_false, Nat.not_lt, or_assoc, ne_eq]

/-- The entries of a SUBMIT in its ring (R372). -/
def State.submitRung (s : State) (p : List Byte) : State :=
  s.each (List.range (leAt p 2 1)) (fun t i =>
    (if t.inBlocks ((t.queue (leAt p 0 2)).sqBase + 32 * (t.queue (leAt p 0 2)).sqTail) 32 then
      t.putMem ((t.queue (leAt p 0 2)).sqBase + 32 * (t.queue (leAt p 0 2)).sqTail) (padTo 32 ((p.drop (8 + 32 * i)).take 32)) else t).modQueue
        (leAt p 0 2) (fun y => { y with sqTail := (y.sqTail + 1) % y.sqSize }))

/-- The batch of a SUBMIT noted when it wants its COMPLETIONs (R372). -/
def State.submitNoted (s : State) (p : List Byte) (peer ch : Nat) : State :=
  if bit (leAt p 3 1) 0 = true ∧ leAt p 2 1 ≠ 0 then { s with net := { s.net with rets := (s.nextBatch, peer, ch) :: s.net.rets } } else s

/-- An accepted SUBMIT as one batch (R372). -/
def State.submitted (s : State) (p : List Byte) (peer ch : Nat) : State :=
  ((((s.submitRung p).submitNoted p peer ch).newBatch (leAt p 0 2) (leAt p 2 1)).modQueue (leAt p 0 2)
    (fun y => { y with remote := some peer })).wakeUp

/-- A SUBMIT once it is taken from its channel. -/
def State.submitTaken (s : State) (p : List Byte) (peer ch : Nat) : State :=
  if 32768 ≤ leAt p 0 2 || (s.queue (leAt p 0 2)).st ≠ .enabled || (s.queue (leAt p 0 2)).sqHost || (s.queue (leAt p 0 2)).rung then
    s.refuse peer ch 0x10 3 0 0
  else if (s.queue (leAt p 0 2)).sqSize - 1 - (s.queue (leAt p 0 2)).unread < leAt p 2 1 then s.refuse peer ch 0x10 4 0 0
  else s.submitted p peer ch

theorem State.submitMsg_some (h : s.nextMsg peer 0x10 = some (ch, m)) : s.submitMsg peer = (s.tookMsg peer ch).submitTaken m.payload peer ch := by
  unfold State.submitMsg
  rw [h]
  unfold State.submitTaken State.submitted State.submitNoted State.submitRung
  dsimp only
  refine ite_congr rfl (fun _ => rfl) fun _ => ite_congr rfl (fun _ => rfl) fun _ => ?_
  have hnote : (bit (leAt m.payload 3 1) 0 && decide (leAt m.payload 2 1 ≠ 0)) = true ↔
      bit (leAt m.payload 3 1) 0 = true ∧ leAt m.payload 2 1 ≠ 0 := by
    rw [Bool.and_eq_true, decide_eq_true_iff]
  simp only [hnote]

section
variable {p : List Byte}

theorem State.submitTaken_elsewhere (h : ¬ s.SubmitTo (leAt p 0 2)) : s.submitTaken p peer ch = s.refuse peer ch 0x10 3 0 0 :=
  if_pos (State.submitTo_iff.mpr h)

section
variable (hto : s.SubmitTo (leAt p 0 2))
include hto

theorem State.submitTaken_full (h : (s.queue (leAt p 0 2)).sqSize - 1 - (s.queue (leAt p 0 2)).unread < leAt p 2 1) :
    s.submitTaken p peer ch = s.refuse peer ch 0x10 4 0 0 :=
  (if_neg fun hc => State.submitTo_iff.mp hc hto).trans (if_pos h)

theorem State.submitTaken_room (h : leAt p 2 1 ≤ (s.queue (leAt p 0 2)).sqSize - 1 - (s.queue (leAt p 0 2)).unread) :
    s.submitTaken p peer ch = s.submitted p peer ch :=
  (if_neg fun hc => State.submitTo_iff.mp hc hto).trans (if_neg (Nat.not_lt.mpr h))

end

end

/-! ### FORWARD_REQ -/

theorem State.forwardMsg_none (h : s.nextMsg peer 0x12 = none) : s.forwardMsg peer = s := by
  unfold State.forwardMsg
  rw [h] <;> rfl

/-- A FORWARD_REQ refused, with the event of the version or of the block at fault (R374, R375). -/
def State.forwardRefused (s : State) (p : List Byte) (peer ch c : Nat) : State :=
  let u := (s.tookMsg peer ch).refuse peer ch 0x12 c (leAt p 4 4) (if leAt p 16 8 ≠ 0 then leAt p 16 8 else leAt p 8 8)
  if c = 1 then u.imgRaise 12 (evModel 0x6018 1 (leAt p 0 2) (leAt p 4 4))
  else if c = 5 then
    match fwdBad p with
    | some (i, k) => u.raise (evPeer 0x4001 2 peer (k + 256 * i))
    | none => u
  else u

/-- A FORWARD_REQ as the device acts on it (R373, R374). -/
def State.forwardTaken (s : State) (p : List Byte) (peer ch : Nat) : State :=
  match s.forwardReq (some peer) p with
  | .ok u => u.tookMsg peer ch
  | .error .wait => s
  | .error (.refuse c) => s.forwardRefused p peer ch c

theorem State.forwardMsg_some (h : s.nextMsg peer 0x12 = some (ch, m)) : s.forwardMsg peer = s.forwardTaken m.payload peer ch := by
  unfold State.forwardMsg
  rw [h]
  unfold State.forwardTaken State.forwardRefused
  rfl

end

/-- Settles O53. -/
theorem requestMessages : Obligations.RequestMessages := by
  unfold Obligations.RequestMessages
  refine fun s peer => ⟨fun ha x hx => ?_, fun ha => ⟨fun h => ?_, fun h => ?_, fun h => ?_, fun ch m h => ?_, fun ch m h => ?_, fun ch m h => ?_⟩⟩
  · simp only [List.mem_cons, List.not_mem_nil, or_false] at hx
    rcases hx with rfl | rfl | rfl
    · exact next_if_neg ha _ _
    · exact next_if_neg ha _ _
    · refine next_congr ?_
      split
      · exact if_neg (ne_true_of_eq_false ha)
      · rfl
  · exact next_congr ((if_pos ha).trans (State.submitMsg_none h))
  · exact next_congr ((if_pos ha).trans (State.forwardMsg_none h))
  · refine next_congr ?_
    rw [h] <;> rfl
  · have hgo : exec (.submit peer) s = .next ((s.tookMsg peer ch).submitTaken m.payload peer ch) :=
      next_congr ((if_pos ha).trans (State.submitMsg_some h))
    rw [hgo]
    exact ⟨fun hn => next_congr (State.submitTaken_elsewhere hn), fun ho hn => next_congr (State.submitTaken_full ho hn),
      fun ho hn => next_congr (State.submitTaken_room ho hn)⟩
  · have hgo : exec (.forwardReq peer) s = .next (s.forwardTaken m.payload peer ch) :=
      next_congr ((if_pos ha).trans (State.forwardMsg_some h))
    rw [hgo]
    rfl
  · refine next_congr ?_
    rw [h]
    exact if_pos ha

end Sys2Proof.Machine
end

section
/-! PROOFS. The monitor converters (R277 to R283). -/
namespace Sys2Proof.Machine
open Sys2Proof

section
variable {s : State}

/-! ### Modes -/

/-- A conversion runs on a converter (R278 to R280). -/
def Mon.busy (x : Mon) : Bool := x.injPos.isSome || x.seqMode || x.main.isSome

theorem State.monNow_isSome (m : Nat) : (s.monNow m).isSome = (s.mon m).busy := by
  unfold State.monNow Mon.busy
  extract_lets x
  split
  · next h => rw [h]; rfl
  · next h =>
    rw [h]
    split
    · next hq => rw [hq]; rfl
    · next hq => rw [Bool.not_eq_true] at hq; rw [hq, Option.isSome_map]; rfl

theorem State.monNow_eq_none {m : Nat} : s.monNow m = none ↔ (s.mon m).busy = false := by
  rw [← State.monNow_isSome, Option.isSome_eq_false_iff, Option.isNone_iff_eq_none]

/-- A mode asked for (R279). -/
def Mon.asked (x : Mon) (seq : Bool) : Mon := if seq = x.seqMode then { x with newMode := none } else { x with newMode := some seq }

theorem Mon.asked_newMode (x : Mon) (seq : Bool) : (x.asked seq).newMode = if x.seqMode = seq then none else some seq := by
  unfold Mon.asked
  by_cases h : seq = x.seqMode
  · rw [if_pos h, if_pos h.symm]
  · rw [if_neg h, if_neg (Ne.symm h)]

theorem Mon.asked_seqMode (x : Mon) (seq : Bool) : (x.asked seq).seqMode = x.seqMode := by
  unfold Mon.asked
  split
  · rfl
  · rfl

theorem Mon.asked_fallback (x : Mon) (seq : Bool) : (x.asked seq).fallback = x.fallback := by
  unfold Mon.asked
  split
  · rfl
  · rfl

theorem Mon.takeMode_fallback (x : Mon) : x.takeMode.fallback = x.fallback := by
  unfold Mon.takeMode
  split
  · rfl
  · rfl

theorem Mon.asked_takeMode_seqMode (x : Mon) (seq : Bool) : (x.asked seq).takeMode.seqMode = seq := by
  unfold Mon.asked
  split
  · next h => exact h.symm
  · rfl

/-- What asking for a mode leaves in a converter (R279). -/
theorem State.monMode_mon {lf lg : Nat} {cq : List Instr} (hS : s.Safe lf lg cq) (m : Nat) (seq : Bool) :
    (s.monMode m seq).mon m = if (s.mon m).busy then (s.mon m).asked seq else ((s.mon m).asked seq).takeMode := by
  rw [← State.monNow_isSome]
  exact State.mon_setMon hS ..

/-- The fallback mark of a converter set, and a mode asked for (R279). -/
def State.monTurned (s : State) (m : Nat) (fb seq : Bool) : State := (s.setMon m { s.mon m with fallback := fb }).monMode m seq

theorem State.monTurned_keeps {β : Type} (φ : State → β) (hmons : ∀ t x, φ { t with mons := x } = φ t) (m : Nat) (fb seq : Bool) :
    φ (s.monTurned m fb seq) = φ s := (hmons _ _).trans (hmons _ _)

section
variable {lf lg : Nat} {cq : List Instr} (hS : s.Safe lf lg cq) (m : Nat) (fb seq : Bool)
include hS

theorem State.monTurned_mon : (s.monTurned m fb seq).mon m =
    if (s.mon m).busy then ({ s.mon m with fallback := fb } : Mon).asked seq else (({ s.mon m with fallback := fb } : Mon).asked seq).takeMode := by
  have hset := State.mon_setMon hS m { s.mon m with fallback := fb }
  have hmode := State.monMode_mon (State.setMon_safe s m { s.mon m with fallback := fb } hS) m seq
  rw [hset] at hmode
  exact hmode

theorem State.monTurned_fallback : ((s.monTurned m fb seq).mon m).fallback = fb := by
  rw [State.monTurned_mon hS]
  split
  · exact Mon.asked_fallback ..
  · exact (Mon.takeMode_fallback _).trans (Mon.asked_fallback ..)

theorem State.monTurned_rests (h : s.monNow m = none) : ((s.monTurned m fb seq).mon m).seqMode = seq := by
  rw [State.monTurned_mon hS, if_neg (ne_true_of_eq_false (State.monNow_eq_none.mp h)), Mon.asked_takeMode_seqMode]

theorem State.monTurned_converts (h : s.monNow m ≠ none) : ((s.monTurned m fb seq).mon m).seqMode = (s.mon m).seqMode ∧
    ((s.monTurned m fb seq).mon m).newMode = if (s.mon m).seqMode = seq then none else some seq := by
  have hbusy : (s.mon m).busy = true := by
    rw [← Bool.not_eq_false]
    exact mt State.monNow_eq_none.mpr h
  rw [State.monTurned_mon hS, if_pos hbusy]
  exact ⟨Mon.asked_seqMode .., Mon.asked_newMode ..⟩

end

/-! ### START -/

theorem startWord (ch : Fin 64) : (ch.val + 2 ^ 31) % 64 = ch.val ∧ (ch.val + 2 ^ 31) &&& Reg.monSel.mask [.rsv] = 0 ∧ bit (ch.val + 2 ^ 31) 31 = true := by
  revert ch
  decide

section
variable (path : Path) {m : Nat} {ch : Fin 64}

/-- A channel asked for, in the conversion to come or after the one in progress (R278). -/
def Mon.started (x : Mon) (ch : Nat) : Mon := if x.main.isSome || x.injPos.isSome then { x with wait := some ch } else { x with main := some ch }

theorem State.setMon_started (x : Mon) (c : Nat) :
    (if x.main.isSome || x.injPos.isSome then s.setMon m { x with wait := some c } else s.setMon m { x with main := some c }) =
      s.setMon m (x.started c) := by
  unfold Mon.started
  split
  · rfl
  · rfl

/-- START of a channel, as a write of MON_SEL. -/
theorem State.monSel_start : s.monSel path m (ch.val + 2 ^ 31) =
    if monChannels m ≤ ch.val then s.ignored path (Reg.monSel.addr m 0) 2
    else if (s.mon m).seqMode then (s.wr .monSel m 0 ch).ignored path (Reg.monSel.addr m 0) 3
    else ((s.wr .monSel m 0 ch).setMon m ((s.mon m).started ch)).wf_ .monData m 31 31 0 := by
  obtain ⟨hch, hrsv, hgo⟩ := startWord ch
  have hmon : (s.wr .monSel m 0 ch).mon m = s.mon m := State.mon_wr ..
  rw [← hmon, ← State.setMon_started, hmon]
  unfold State.monSel
  extract_lets c s1 x
  have hc : c = ch.val := hch
  clear_value c
  subst hc
  have hx : x = s.mon m := hmon
  clear_value x
  rw [hgo, hrsv, Bool.true_and]
  refine ite_congr (propext ?_) (fun _ => rfl) fun _ => ite_congr rfl (fun _ => rfl) fun _ => (if_pos rfl).trans ?_
  · rw [Bool.or_eq_true, decide_eq_true_iff, decide_eq_true_iff]
    exact or_iff_right (not_not_intro rfl)
  · rw [hx]

variable (hch : ch.val < monChannels m)
include hch

theorem State.monSel_sequence (h : (s.mon m).seqMode = true) :
    s.monSel path m (ch.val + 2 ^ 31) = (s.wr .monSel m 0 ch).ignored path (Reg.monSel.addr m 0) 3 := by
  rw [State.monSel_start, if_neg (Nat.not_le.mpr hch), if_pos h]

theorem State.monSel_converts (h : (s.mon m).seqMode = false) :
    s.monSel path m (ch.val + 2 ^ 31) = ((s.wr .monSel m 0 ch).setMon m ((s.mon m).started ch)).wf_ .monData m 31 31 0 := by
  rw [State.monSel_start, if_neg (Nat.not_le.mpr hch), if_neg (ne_true_of_eq_false h)]

theorem State.monSel_starts (hS : s.Inv) (h : (s.mon m).seqMode = false) : ∃ t, s.monSel path m (ch.val + 2 ^ 31) = t ∧
    t.rd .monSel m = ch.val ∧ t.rb .monData m 31 = false ∧ t.mon m = (s.mon m).started ch ∧ (∀ i, i ≠ m → t.mon i = s.mon i) ∧ t.mem = s.mem := by
  have hS1 := State.wr_safe s .monSel m 0 ch hS
  have hS2 := State.setMon_safe _ m ((s.mon m).started ch) hS1
  have hne : Reg.monSel.addr m 0 ≠ Reg.monData.addr m 0 := by simp [Reg.addr, Reg.spec]
  have hlt : ch.val < 2 ^ 32 := Nat.lt_trans ch.isLt (by decide)
  refine ⟨_, State.monSel_converts path hch h, ?_, ?_, ?_, fun i hi => ?_, ?_⟩
  · rw [State.wf_, State.rd_wr_ne hS2 _ hne, State.rd_of_regs (State.setMon_regs ..), State.rd_wr hS, Nat.mod_eq_of_lt hlt]
  · rw [State.rb_eq_rf, State.rf_wf_ hS2 _ _ _ (by decide) (by decide)]
    rfl
  · rw [State.mon_wf_, State.mon_setMon hS1]
  · rw [State.mon_wf_, State.mon_setMon_ne hS1 _ hi, State.mon_wr]
  · rw [State.wf__mem, State.setMon_mem, State.wr_mem]

end

/-! ### MON_CTRL and the fallback -/

/-- A word that MON_CTRL does not take (R279). -/
def CtrlBad (v : Nat) : Prop := v &&& Reg.monCtrl.mask [.rsv] ≠ 0 ∨ 1 < v % 4 ∨ fld v 31 16 < 10

theorem ctrlBad_iff {v : Nat} : (decide (v &&& Reg.monCtrl.mask [.rsv] ≠ 0) || decide (1 < v % 4) || decide (fld v 31 16 < 10)) = true ↔ CtrlBad v := by
  rw [CtrlBad, Bool.or_eq_true, Bool.or_eq_true, decide_eq_true_iff, decide_eq_true_iff, decide_eq_true_iff, or_assoc]

section
variable (path : Path) {m v : Nat}

theorem State.monCtrl_bad (h : CtrlBad v) : s.monCtrl path m v = s.ignored path (Reg.monCtrl.addr m 0) 2 := if_pos (ctrlBad_iff.mpr h)

theorem State.monCtrl_good (h : ¬ CtrlBad v) : s.monCtrl path m v = (s.wr .monCtrl m 0 v).monTurned m false (decide (v % 4 = 1)) :=
  if_neg (mt ctrlBad_iff.mp h)

end

theorem State.monNow_wr (m : Nat) {r : Reg} {i k v : Nat} : (s.wr r i k v).monNow m = none ↔ s.monNow m = none := by
  rw [State.monNow_eq_none, State.monNow_eq_none, State.mon_wr]

theorem State.monCtrl_turns (hS : s.Inv) (path : Path) {m v : Nat} (hv : v < 2 ^ 32) (h : ¬ CtrlBad v) : ∃ t, s.monCtrl path m v = t ∧
    t.rd .monCtrl m = v ∧ (t.mon m).fallback = false ∧ t.mem = s.mem ∧
    (s.monNow m = none → (t.mon m).seqMode = decide (v % 4 = 1)) ∧
    (s.monNow m ≠ none → (t.mon m).seqMode = (s.mon m).seqMode ∧
      (t.mon m).newMode = if (s.mon m).seqMode = decide (v % 4 = 1) then none else some (decide (v % 4 = 1))) := by
  have hS1 := State.wr_safe s .monCtrl m 0 v hS
  refine ⟨_, State.monCtrl_good path h, ?_, State.monTurned_fallback hS1 .., ?_, fun hn => ?_, fun hn => ?_⟩
  · rw [State.rd_of_regs (State.monTurned_keeps State.regs (fun _ _ => rfl) m _ _), State.rd_wr hS, Nat.mod_eq_of_lt hv]
  · exact (State.monTurned_keeps State.mem (fun _ _ => rfl) m _ _).trans (State.wr_mem ..)
  · exact State.monTurned_rests hS1 m _ _ ((State.monNow_wr m).mpr hn)
  · have hconv := State.monTurned_converts hS1 m false (decide (v % 4 = 1)) (mt (State.monNow_wr m).mp hn)
    rw [State.mon_wr] at hconv
    exact hconv

theorem State.monFallback_idle {m : Nat} (h : (s.mon m).seqMode = true ∨ (s.mon m).fallback = true ∨ s.rf .monCtrl m 1 0 ≠ 0 ∨
    s.rb .monCtrl m 2 = false) : s.monFallback m = s :=
  if_pos (by rw [Bool.or_eq_true, Bool.or_eq_true, Bool.or_eq_true, decide_eq_true_iff, Bool.not_eq_true', or_assoc, or_assoc]; exact h)

theorem State.monFallback_falls (hS : s.Inv) {m : Nat} (hq : (s.mon m).seqMode = false) (hf : (s.mon m).fallback = false)
    (h0 : s.rf .monCtrl m 1 0 = 0) (hon : s.rb .monCtrl m 2 = true) : ∃ t, s.monFallback m = t ∧ (t.mon m).fallback = true ∧
    (s.monNow m = none → (t.mon m).seqMode = true) ∧ (s.monNow m ≠ none → (t.mon m).newMode = some true) ∧ t.mem = s.mem := by
  have heq : s.monFallback m = ((s.monTurned m true true).flag .monEvent m 2).raise (evMon 0x2602 1 m 0) :=
    if_neg (by rw [hq, hf, h0, hon]; decide)
  have hmon : (((s.monTurned m true true).flag .monEvent m 2).raise (evMon 0x2602 1 m 0)).mon m = (s.monTurned m true true).mon m :=
    (State.mon_raise ..).trans (State.mon_flag ..)
  refine ⟨_, heq, ?_, fun hn => ?_, fun hn => ?_, ?_⟩
  · rw [hmon]
    exact State.monTurned_fallback hS ..
  · rw [hmon]
    exact State.monTurned_rests hS m _ _ hn
  · rw [hmon, (State.monTurned_converts hS m true true hn).2, hq]
    rfl
  · exact (State.raise_mem ..).trans ((State.flag_mem ..).trans (State.monTurned_keeps State.mem (fun _ _ => rfl) m _ _))

/-! ### Triggers and stale temperatures -/

section
variable {m : Nat}

theorem State.monTrigger_starts (hp : (s.mon m).injPos = none) (hs : (s.mon m).injStart = false) : s.monTrigger m =
    s.setMon m (if (s.monNow m).isSome then { s.mon m with injStart := true } else { s.mon m with injPos := some 0 }) := by
  unfold State.monTrigger
  extract_lets x
  rw [if_neg (show ¬ x.injPos.isSome = true by rw [show x.injPos = none from hp]; decide), if_neg (ne_true_of_eq_false hs)]
  split
  · rfl
  · rfl

theorem State.monTrigger_again (hp : (s.mon m).injPos ≠ none) (hm : (s.mon m).injMore = false) :
    s.monTrigger m = s.setMon m { s.mon m with injMore := true } :=
  (if_pos (Option.isSome_iff_ne_none.mpr hp)).trans (if_neg (ne_true_of_eq_false hm))

theorem State.monTrigger_lost (h : ((s.mon m).injPos ≠ none ∧ (s.mon m).injMore = true) ∨ ((s.mon m).injPos = none ∧ (s.mon m).injStart = true)) :
    s.monTrigger m = s.flag .monEvent m 4 := by
  rcases h with ⟨hp, hm⟩ | ⟨hp, hs⟩
  · exact (if_pos (Option.isSome_iff_ne_none.mpr hp)).trans (if_pos hm)
  · exact (if_neg (by rw [hp]; decide)).trans (if_pos hs)

theorem State.monStale_known {c : Nat} (h : s.stale.contains c = true) : s.monStale c = s := if_pos h

theorem State.monStale_reports {c : Nat} (h : s.stale.contains c = false) : ∃ t, s.monStale c = t ∧ t.stale = c :: s.stale ∧
    t.mons = s.mons ∧ t.mem = s.mem :=
  ⟨_, if_neg (ne_true_of_eq_false h), (State.raise_stale ..).trans (State.flag_stale ..), (State.raise_mons ..).trans (State.flag_mons ..),
    (State.raise_mem ..).trans (State.flag_mem ..)⟩

end

/-! ### A conversion that ends -/

theorem State.monNext_keeps {β : Type} (φ : State → β) (hmons : ∀ t x, φ { t with mons := x } = φ t) (m p : Nat) : φ (s.monNext m p) = φ s := by
  unfold State.monNext
  extract_lets x resume
  split
  · split
    · split
      · exact hmons _ _
      · split
        · exact hmons _ _
        · exact hmons _ _
    · rfl
  · split
    · exact hmons _ _
    · exact hmons _ _
  · split
    · exact hmons _ _
    · exact hmons _ _

theorem State.monDone_none {m : Nat} (code : Nat) (h : s.monNow m = none) : s.monDone m code = s := by
  unfold State.monDone
  rw [h] <;> rfl

theorem State.monDone_some {m p ch : Nat} (code : Nat) (h : s.monNow m = some (p, ch)) : s.monDone m code = (s.monStore m p ch code).monNext m p := by
  unfold State.monDone
  rw [h] <;> rfl

/-- Steps that each leave the state leave it together. -/
theorem State.each_eq_self {α : Type} {f : State → α → State} {xs : List α} (h : ∀ x ∈ xs, f s x = s) : s.each xs f = s := by
  induction xs with
  | nil => rfl
  | cons x xs ih =>
    have htail := ih fun y hy => h y (List.mem_cons_of_mem x hy)
    exact (congrArg (fun t => State.each t xs f) (h x List.mem_cons_self)).trans htail

/-- A conversion's result in the registers (R278, R283). -/
def State.monResulted (s : State) (m path ch code : Nat) : State :=
  let s1 := (s.setMon m { s.mon m with last := (s.mon m).last.set 0 ch s.time }).wr .monResult m ch (code + 4096 * path + 2 ^ 31)
  if path = 0 then s1.wr .monData m 0 (code + 65536 * ch + 2 ^ 31) else s1

/-- What a conversion counts and measures (R282, R396, R420). -/
def State.monMeasured (s : State) (m ch code : Nat) : State :=
  let s3 := if m < 4 && ch < 32 then s.sensorRead m ch else s
  let s4 := if m < 4 then s3.count (ctrQuarter m) 6 1 else s3
  let s5 := if m < 4 && ch < 32 then s4.peakTemp m (tempOf code).toNat else s4
  if m = 4 && ch = 17 then s5.wf_ .pwrStatus 0 3 3 (b2n (decide (3271 ≤ code))) else s5

theorem State.monStore_eq (m path ch code : Nat) : s.monStore m path ch code =
    let s7 := ((s.monResulted m path ch code).monMeasured m ch code).each (List.range 16) (fun t k => t.compare m ch code k)
    let crit : Int := (16 * s.rf .pwrCfg 0 15 8 : Nat)
    let s8 := if isTemp m ch && crit - 160 ≤ tempOf code then s7.noteHot else s7
    if isTemp m ch && crit ≤ tempOf code then s8.halt ch m (enc 16 (tempOf code)) else s8 := by
  rw [State.monStore, State.monResulted, State.monMeasured]

theorem State.compare_off {m ch code k : Nat} (h : bit (s.rd .monWinCfg m k) 16 = false) : s.compare m ch code k = s := by
  unfold State.compare
  extract_lets cfg lim
  exact if_pos (by rw [show bit cfg 16 = false from h]; rfl)

section
variable {m path ch code : Nat}

/-- With no comparator and no temperature at the limit, a result is stored, and at most noted as hot. -/
theorem State.monStore_calm (hoff : ∀ k, k < 16 → bit (((s.monResulted m path ch code).monMeasured m ch code).rd .monWinCfg m k) 16 = false)
    (hcool : isTemp m ch = true → tempOf code < (16 * s.rf .pwrCfg 0 15 8 : Nat)) :
    s.monStore m path ch code = (s.monResulted m path ch code).monMeasured m ch code ∨
      s.monStore m path ch code = ((s.monResulted m path ch code).monMeasured m ch code).noteHot := by
  have hnone : ((s.monResulted m path ch code).monMeasured m ch code).each (List.range 16) (fun t k => t.compare m ch code k) =
      (s.monResulted m path ch code).monMeasured m ch code :=
    State.each_eq_self fun k hk => State.compare_off (hoff k (List.mem_range.mp hk))
  rw [State.monStore_eq, hnone]
  dsimp only
  rw [if_neg (show ¬ (isTemp m ch && decide (((16 * s.rf .pwrCfg 0 15 8 : Nat) : Int) ≤ tempOf code)) = true by
    rw [Bool.and_eq_true, decide_eq_true_iff]
    rintro ⟨ht, hle⟩
    exact absurd hle (Int.not_le.mpr (hcool ht)))]
  split
  · exact .inr rfl
  · exact .inl rfl

theorem State.monResulted_keeps {β : Type} (φ : State → β) (hwr : ∀ t r i k v, φ (State.wr t r i k v) = φ t)
    (hmons : ∀ t x, φ { t with mons := x } = φ t) : φ (s.monResulted m path ch code) = φ s := by
  unfold State.monResulted
  extract_lets x s1
  have h1 : φ s1 = φ s := (hwr ..).trans (hmons _ _)
  split
  · exact (hwr ..).trans h1
  · exact h1

theorem State.monMeasured_keeps {β : Type} (φ : State → β) (hwr : ∀ t r i k v, φ (State.wr t r i k v) = φ t)
    (hstale : ∀ t x, φ { t with stale := x } = φ t) (hctrs : ∀ t x, φ { t with ctrs := x } = φ t) : φ (s.monMeasured m ch code) = φ s := by
  unfold State.monMeasured
  extract_lets s3 s4 s5
  have h3 : φ s3 = φ s := by
    simp only [s3]
    split
    · exact hstale _ _
    · rfl
  have h4 : φ s4 = φ s := by
    simp only [s4]
    split
    · exact (hctrs _ _).trans h3
    · exact h3
  have h5 : φ s5 = φ s := by
    simp only [s5]
    split
    · exact (hctrs _ _).trans h4
    · exact h4
  split
  · exact (hwr ..).trans h5
  · exact h5

/-- The state that a conversion's measures are taken in, before HOLDUP_OK. -/
theorem State.monMeasured_regs (lf lg : Nat) (cq : List Instr) (hS : s.Safe lf lg cq) {r : Reg} {i k : Nat} (hr : r.addr i k ≠ Reg.pwrStatus.addr 0 0) :
    (s.monMeasured m ch code).rd r i k = s.rd r i k := by
  unfold State.monMeasured
  extract_lets s3 s4 s5
  have h3 : s3.Safe lf lg cq ∧ s3.regs = s.regs := by
    simp only [s3]
    split
    · exact ⟨State.sensorRead_safe s m ch hS, rfl⟩
    · exact ⟨hS, rfl⟩
  have h4 : s4.Safe lf lg cq ∧ s4.regs = s.regs := by
    simp only [s4]
    split
    · exact ⟨State.count_safe s3 _ _ _ h3.1, (State.count_regs ..).trans h3.2⟩
    · exact h3
  have h5 : s5.Safe lf lg cq ∧ s5.regs = s.regs := by
    simp only [s5]
    split
    · exact ⟨State.peakTemp_safe s4 _ _ h4.1, Eq.trans rfl h4.2⟩
    · exact h4
  split
  · exact (State.rd_wr_ne h5.1 _ hr).trans (State.rd_of_regs h5.2 ..)
  · exact State.rd_of_regs h5.2 ..

section
variable {lf lg : Nat} {cq : List Instr} (hS : s.Safe lf lg cq)
include hS

theorem State.monResulted_safe : (s.monResulted m path ch code).Safe lf lg cq := by
  unfold State.monResulted
  extract_lets x s1
  have h1 : s1.Safe lf lg cq := State.wr_safe _ _ _ _ _ (State.setMon_safe s m _ hS)
  split
  · exact State.wr_safe _ _ _ _ _ h1
  · exact h1

theorem State.monResulted_rd {r : Reg} {i k : Nat} (hr : r.addr i k ≠ Reg.monResult.addr m ch) (hd : r.addr i k ≠ Reg.monData.addr m 0) :
    (s.monResulted m path ch code).rd r i k = s.rd r i k := by
  unfold State.monResulted
  extract_lets x s1
  have hS0 := State.setMon_safe s m { s.mon m with last := (s.mon m).last.set 0 ch s.time } hS
  have h1 : s1.Safe lf lg cq := State.wr_safe _ _ _ _ _ hS0
  have hrd : s1.rd r i k = s.rd r i k := (State.rd_wr_ne hS0 _ hr).trans (State.rd_of_regs (State.setMon_regs ..) ..)
  split
  · exact (State.rd_wr_ne h1 _ hd).trans hrd
  · exact hrd

theorem State.monResulted_result (hcode : code < 4096) (hpath : path < 3) :
    (s.monResulted m path ch code).rd .monResult m ch = code + 4096 * path + 2 ^ 31 := by
  unfold State.monResulted
  extract_lets x s1
  have hS0 := State.setMon_safe s m { s.mon m with last := (s.mon m).last.set 0 ch s.time } hS
  have h1 : s1.Safe lf lg cq := State.wr_safe _ _ _ _ _ hS0
  have hrd : s1.rd .monResult m ch = code + 4096 * path + 2 ^ 31 := (State.rd_wr hS0 ..).trans (Nat.mod_eq_of_lt (by omega))
  have hne : Reg.monResult.addr m ch ≠ Reg.monData.addr m 0 := by
    simp only [Reg.addr, Reg.spec]
    omega
  split
  · exact (State.rd_wr_ne h1 _ hne).trans hrd
  · exact hrd

theorem State.monResulted_data (hcode : code < 4096) (hch : ch < 64) :
    (s.monResulted m 0 ch code).rd .monData m = code + 65536 * ch + 2 ^ 31 := by
  have h1 := State.wr_safe _ .monResult m ch (code + 4096 * 0 + 2 ^ 31) (State.setMon_safe s m { s.mon m with last := (s.mon m).last.set 0 ch s.time } hS)
  exact (State.rd_wr h1 ..).trans (Nat.mod_eq_of_lt (by omega))

end

theorem State.monNow_path {p ch : Nat} (h : s.monNow m = some (p, ch)) : p < 3 := by
  unfold State.monNow at h
  extract_lets x at h
  split at h
  · obtain ⟨rfl, -⟩ := Prod.mk.inj (Option.some.inj h)
    decide
  · split at h
    · obtain ⟨rfl, -⟩ := Prod.mk.inj (Option.some.inj h)
      decide
    · obtain ⟨c, -, hc⟩ := Option.map_eq_some_iff.mp h
      obtain ⟨rfl, -⟩ := Prod.mk.inj hc
      decide

end

theorem monBase_le (m : Nat) : 0x00110000 ≤ Blk.base .mon m := by
  have hb : Blk.base .mon m = if m < 4 then 0x00110000 + m * 0x400 else 0x00111000 := rfl
  rw [hb]
  split
  · exact Nat.le_add_right _ _
  · decide

theorem monAddr_ne_pwrStatus {r : Reg} (hr : r.spec.blk = .mon) (m k : Nat) : r.addr m k ≠ Reg.pwrStatus.addr 0 0 := by
  have hbase := monBase_le m
  have hpwr : Reg.pwrStatus.addr 0 0 < 0x00110000 := by decide
  rw [Reg.addr, hr]
  omega

/-- What a conversion that ends stores, while no comparator watches and no temperature is critical (R277, R278). -/
theorem State.monStore_stores (hS : s.Inv) {m p ch code : Nat} (hcode : code < 4096) (hp : p < 3) (hch : ch < 64)
    (hoff : ∀ k, k < 16 → bit (s.rd .monWinCfg m k) 16 = false)
    (hcool : isTemp m ch = true → tempOf code < (16 * s.rf .pwrCfg 0 15 8 : Nat)) :
    let t := (s.monStore m p ch code).monNext m p
    t.rd .monResult m ch = code + 4096 * p + 2 ^ 31 ∧ (p = 0 → t.rd .monData m = code + 65536 * ch + 2 ^ 31) ∧
      t.ev = s.ev ∧ t.arrays = s.arrays ∧ t.mem = s.mem := by
  have hS1 : (s.monResulted m p ch code).Safe 0 0 s.pending := State.monResulted_safe hS
  have hwin (k : Nat) : ((s.monResulted m p ch code).monMeasured m ch code).rd .monWinCfg m k = s.rd .monWinCfg m k := by
    rw [State.monMeasured_regs 0 0 s.pending hS1 (monAddr_ne_pwrStatus rfl m k)]
    refine State.monResulted_rd hS ?_ ?_
    · simp only [Reg.addr, Reg.spec]
      omega
    · simp only [Reg.addr, Reg.spec]
      omega
  have hcalm := State.monStore_calm (s := s) (path := p) (fun k hk => by rw [hwin k]; exact hoff k hk) hcool
  have hkeep {β : Type} (φ : State → β) (hmons : ∀ t x, φ { t with mons := x } = φ t) (hpwr : ∀ t x, φ { t with pwr := x } = φ t) :
      φ ((s.monStore m p ch code).monNext m p) = φ ((s.monResulted m p ch code).monMeasured m ch code) := by
    refine (State.monNext_keeps φ hmons m p).trans ?_
    rcases hcalm with h | h
    · rw [h]
    · rw [h]
      exact hpwr _ _
  have hregs := hkeep State.regs (fun _ _ => rfl) (fun _ _ => rfl)
  have hframe {β : Type} (φ : State → β) (hwr : ∀ t r i k v, φ (State.wr t r i k v) = φ t) (hmons : ∀ t x, φ { t with mons := x } = φ t)
      (hpwr : ∀ t x, φ { t with pwr := x } = φ t) (hstale : ∀ t x, φ { t with stale := x } = φ t) (hctrs : ∀ t x, φ { t with ctrs := x } = φ t) :
      φ ((s.monStore m p ch code).monNext m p) = φ s :=
    (hkeep φ hmons hpwr).trans ((State.monMeasured_keeps φ hwr hstale hctrs).trans (State.monResulted_keeps φ hwr hmons))
  refine ⟨?_, fun h0 => ?_, hframe State.ev State.wr_ev (fun _ _ => rfl) (fun _ _ => rfl) (fun _ _ => rfl) (fun _ _ => rfl),
    hframe State.arrays State.wr_arrays (fun _ _ => rfl) (fun _ _ => rfl) (fun _ _ => rfl) (fun _ _ => rfl),
    hframe State.mem State.wr_mem (fun _ _ => rfl) (fun _ _ => rfl) (fun _ _ => rfl) (fun _ _ => rfl)⟩
  · exact (State.rd_of_regs hregs ..).trans ((State.monMeasured_regs 0 0 s.pending hS1 (monAddr_ne_pwrStatus rfl m ch)).trans
      (State.monResulted_result hS hcode hp))
  · subst h0
    exact (State.rd_of_regs hregs ..).trans ((State.monMeasured_regs 0 0 s.pending hS1 (monAddr_ne_pwrStatus rfl m 0)).trans
      (State.monResulted_data hS hcode hch))

end

/-- Settles O47. -/
theorem monitors : Obligations.Monitors := by
  unfold Obligations.Monitors
  refine ⟨fun s path mc ch v hI => ⟨fun ha => ⟨next_asked_unanswered ha _, next_asked_unanswered ha _⟩, fun ha => ?_, fun hr => ?_, fun hr => ?_⟩,
    fun s mc code hI => ⟨fun h => ?_, fun p ch hr h => ⟨?_, fun hch hoff hcool => ?_⟩⟩⟩
  · have hstart : exec (.monStart path mc ch) s = .next (s.monSel path mc (ch.val + 2 ^ 31)) := next_congr (State.asked_answered ha _)
    have hmode : exec (.monModeWrite path mc v) s = .next (s.monCtrl path mc v.toNat) := next_congr (State.asked_answered ha _)
    rw [hstart, hmode]
    refine ⟨fun h => next_congr ((State.monSel_start path).trans (if_pos h)), fun h hq => next_congr (State.monSel_sequence path h hq), fun h hq => ?_,
      fun h => next_congr (State.monCtrl_bad path h), fun hm h1 h10 => ?_⟩
    · obtain ⟨t, ht, hrest⟩ := State.monSel_starts path h hI hq
      exact ⟨t, next_congr ht, hrest⟩
    · have hgood : ¬ CtrlBad v.toNat := by
        rintro (h | h | h)
        · exact h hm
        · exact absurd h (Nat.not_lt.mpr h1)
        · exact absurd h (Nat.not_lt.mpr h10)
      obtain ⟨t, ht, hrest⟩ := State.monCtrl_turns hI path v.isLt hgood
      exact ⟨t, next_congr ht, hrest⟩
  · exact ⟨next_congr (if_pos hr), next_congr (if_pos hr), fun c => next_congr (if_pos hr)⟩
  · have hfall : exec (.monFallbackTimeout mc) s = .next (s.monFallback mc) := next_congr (if_neg (ne_true_of_eq_false hr))
    have htrig : exec (.monTrigger mc) s = .next (s.monTrigger mc) := next_congr (if_neg (ne_true_of_eq_false hr))
    rw [hfall, htrig]
    refine ⟨fun h => next_congr (State.monFallback_idle h), fun hq hf h0 hon => ?_, fun hp hs => next_congr (State.monTrigger_starts hp hs),
      fun hp hm => next_congr (State.monTrigger_again hp hm), fun h => next_congr (State.monTrigger_lost h), fun c => ⟨fun h => ?_, fun h => ?_⟩⟩
    · obtain ⟨t, ht, hrest⟩ := State.monFallback_falls hI hq hf h0 hon
      exact ⟨t, next_congr ht, hrest⟩
    · exact next_congr ((if_neg (ne_true_of_eq_false hr)).trans (State.monStale_known h))
    · obtain ⟨t, ht, hrest⟩ := State.monStale_reports h
      exact ⟨t, next_congr ((if_neg (ne_true_of_eq_false hr)).trans ht), hrest⟩
  · rcases h with h | h
    · exact next_congr (if_pos h)
    · refine next_congr ?_
      split
      · rfl
      · exact State.monDone_none code h
  · exact next_congr ((if_neg (ne_true_of_eq_false hr)).trans (State.monDone_some code h))
  · exact State.monStore_stores hI code.isLt (State.monNow_path h) hch hoff hcool

end Sys2Proof.Machine
end

section
/-! PROOFS. Stores of the record store, and access to it (R409 to R414, R417). -/
namespace Sys2Proof.Machine
open Sys2Proof

section
variable {s : State}

/-! ### What events leave of the record store -/

/-- An event changes the record store's log and its dirty pages alone (R411). -/
theorem State.raise_recs_keeps {β : Type} (ψ : RecStore → β) (hψ : ∀ r l d, ψ { r with log := l, dirty := d } = ψ r) (e : Event) :
    ψ (s.raise e).recs = ψ s.recs := by
  have hrecord (t : State) (e : Event) : ψ (t.record e).recs = ψ t.recs := by
    rw [State.record_recs, RecStore.logged]
    split
    · exact hψ ..
    · rfl
  unfold State.raise
  dsimp only
  split
  · exact (hrecord _ _).trans (hrecord _ _)
  · exact hrecord _ _

/-- An event makes no page dirty but the log's (R411). -/
theorem State.raise_not_dirty {p : Nat} (hp : p ≠ 1) (e : Event) (h : p ∉ s.recs.dirty) : p ∉ (s.raise e).recs.dirty := by
  have hlogged (r : RecStore) (e : Event) (h : p ∉ r.dirty) : p ∉ (r.logged e).dirty := by
    unfold RecStore.logged
    split
    · show p ∉ if r.dirty.contains 1 then r.dirty else 1 :: r.dirty
      split
      · exact h
      · exact fun hm => (List.mem_cons.mp hm).elim hp h
    · exact h
  have hrecord (t : State) (e : Event) (h : p ∉ t.recs.dirty) : p ∉ (t.record e).recs.dirty := by
    rw [State.record_recs]
    exact hlogged _ _ h
  unfold State.raise
  dsimp only
  split
  · exact hrecord _ _ (hrecord _ _ h)
  · exact hrecord _ _ h

/-! ### Stores -/

theorem State.storeCmd_busy (path : Path) (h : s.recs.busy = true) : s.storeCmd path = s.ignored path (Reg.recCmd.addr 0 0) 3 := if_pos h

theorem State.storeCmd_idle (path : Path) (h : s.recs.busy = false) : s.storeCmd path = s.storeBegin false := if_neg (ne_true_of_eq_false h)

theorem State.storeEnd_none (bad : List Nat) (h : s.recs.run = none) : s.storeEnd bad = s := by
  unfold State.storeEnd
  rw [h] <;> rfl

/-- The store is over (R411). -/
def State.storeOver (s : State) : State := { s with recs := { s.recs with storing := [], run := none } }

/-- The pages of a store, each stored or its slot retired (R411, R413). -/
def State.pagesStored (s : State) (bad : List Nat) : State :=
  s.each s.recs.storing (fun t p => if bad.contains p then t.retireSlot p else t.storePage p)

theorem State.storeEnd_some (bad : List Nat) {b : Bool} (h : s.recs.run = some b) : s.storeEnd bad =
    (s.pagesStored bad).storeOver.raise (evDev 0x7004 0 (s.recs.storing.length + 256 * b2n b)) := by
  unfold State.storeEnd
  rw [h] <;> rfl

/-- A page in its slot, before the wear events (R409, R413). -/
def State.pagePut (s : State) (p : Nat) : State :=
  { s with recs := { s.recs with
    slots := s.recs.slots.set none (2 * p + (s.storeTarget p).1) (some ⟨(s.storeTarget p).2, true, false, s.payload p⟩),
    dirty := s.recs.dirty.filter (· ≠ p), kept := if p = 2 then s.models else s.recs.kept } }

theorem State.pagePut_slots (p : Nat) : (s.pagePut p).recs.slots =
    s.recs.slots.set none (2 * p + (s.storeTarget p).1) (some ⟨(s.storeTarget p).2, true, false, s.payload p⟩) := rfl

/-- A page stored whose wear is reported where it is due (R413). -/
def State.pageWorn (s : State) (p : Nat) (n : Nat) : State :=
  if 18000000 < n && !s.recs.wearRaised.contains p then
    ({ s with recs := { s.recs with wearRaised := p :: s.recs.wearRaised } } : State).raise (evDev 0x7008 1 (p + 2 ^ 32 * n)) else s

theorem State.storePage_eq (p : Nat) : s.storePage p =
    if s.recs.retired.contains (2 * p) || s.recs.retired.contains (2 * p + 1) then
      ((s.pagePut p).pageWorn p (s.storeTarget p).2).raise (evDev 0x7009 2 (p + 256 * b2n (s.recs.retired.contains (2 * p + 1))))
    else (s.pagePut p).pageWorn p (s.storeTarget p).2 := by
  rw [State.storePage, State.pageWorn, State.pagePut]

theorem State.storePage_recs_keeps {β : Type} (ψ : RecStore → β) (hψ : ∀ r l d, ψ { r with log := l, dirty := d } = ψ r)
    (hworn : ∀ r w, ψ { r with wearRaised := w } = ψ r) (p : Nat) : ψ (s.storePage p).recs = ψ (s.pagePut p).recs := by
  have hpage (t : State) (n : Nat) : ψ (t.pageWorn p n).recs = ψ t.recs := by
    unfold State.pageWorn
    split
    · exact (State.raise_recs_keeps ψ hψ _).trans (hworn _ _)
    · rfl
  rw [State.storePage_eq]
  split
  · exact (State.raise_recs_keeps ψ hψ _).trans (hpage ..)
  · exact hpage ..

theorem State.storePage_not_dirty {p : Nat} (hp : p ≠ 1) : p ∉ (s.storePage p).recs.dirty := by
  have hput : p ∉ (s.pagePut p).recs.dirty := fun h => of_decide_eq_true (List.mem_filter.mp h).2 rfl
  have hworn : p ∉ ((s.pagePut p).pageWorn p (s.storeTarget p).2).recs.dirty := by
    unfold State.pageWorn
    split
    · exact State.raise_not_dirty hp _ hput
    · exact hput
  rw [State.storePage_eq]
  split
  · exact State.raise_not_dirty hp _ hworn
  · exact hworn

/-- What the end of a store of one page leaves of the record store, but for its log and dirty pages. -/
theorem State.storeEnded_keeps {β : Type} (ψ : RecStore → β) (hψ : ∀ r l d, ψ { r with log := l, dirty := d } = ψ r)
    (hover : ∀ r, ψ { r with storing := [], run := none } = ψ r) (e : Event) : ψ (s.storeOver.raise e).recs = ψ s.recs :=
  (State.raise_recs_keeps ψ hψ e).trans (hover _)

/-- A store of one page (R409, R411, R413). -/
theorem State.storeEnd_stores {p : Nat} {b : Bool} (hrun : s.recs.run = some b) (hp : s.recs.storing = [p]) (hs : NMap.sorted s.recs.slots = true) :
    ∃ t, s.storeEnd [] = t ∧ t.recs.run = none ∧ t.recs.storing = [] ∧
      t.slot p (s.storeTarget p).1 = some ⟨(s.storeTarget p).2, true, false, s.payload p⟩ ∧ (p ≠ 1 → t.recs.dirty.contains p = false) ∧
      (∀ k, k ≠ 2 * p + (s.storeTarget p).1 → t.recs.slots.get none k = s.recs.slots.get none k) ∧ t.recs.retired = s.recs.retired ∧
      t.mem = s.mem ∧ t.arrays = s.arrays := by
  have hpages : s.pagesStored [] = s.storePage p := by
    rw [State.pagesStored, hp]
    rfl
  have heq := State.storeEnd_some [] hrun
  rw [hpages] at heq
  have hslots := (State.storeEnded_keeps (s := s.storePage p) RecStore.slots (fun _ _ _ => rfl) (fun _ => rfl)
    (evDev 0x7004 0 (s.recs.storing.length + 256 * b2n b))).trans (State.storePage_recs_keeps RecStore.slots (fun _ _ _ => rfl) (fun _ _ => rfl) p)
  refine ⟨_, heq, State.raise_recs_keeps RecStore.run (fun _ _ _ => rfl) _, State.raise_recs_keeps RecStore.storing (fun _ _ _ => rfl) _, ?_,
    fun h1 => ?_, fun k hk => ?_, ?_, ?_, ?_⟩
  · rw [State.slot, hslots, State.pagePut_slots]
    exact NMap.get_set_self _ _ _ hs
  · have hnot := State.raise_not_dirty (s := (s.storePage p).storeOver) h1 (evDev 0x7004 0 (s.recs.storing.length + 256 * b2n b))
      (State.storePage_not_dirty h1)
    rw [← Bool.not_eq_true, List.contains_iff_mem]
    exact hnot
  · rw [hslots, State.pagePut_slots]
    exact NMap.get_set_ne _ _ _ hk hs
  · exact (State.storeEnded_keeps RecStore.retired (fun _ _ _ => rfl) (fun _ => rfl) _).trans
      (State.storePage_recs_keeps RecStore.retired (fun _ _ _ => rfl) (fun _ _ => rfl) p)
  · exact (State.raise_mem ..).trans (State.storePage_keeps State.mem (fun _ _ => rfl) State.raise_mem p)
  · exact (State.raise_arrays ..).trans (State.storePage_keeps State.arrays (fun _ _ => rfl) State.raise_arrays p)

/-- A slot that fails its read-back is retired (R413). -/
def State.slotRetired (s : State) (p : Nat) : State :=
  { s with recs := { s.recs with retired := (2 * p + (s.storeTarget p).1) :: s.recs.retired } }

theorem State.newer_slot {p i : Nat} (h : s.newer p = some i) : i = 0 ∨ i = 1 := by
  have hnext : s.newer p = none ∨ s.newer p = some 0 ∨ s.newer p = some 1 := by
    unfold State.newer
    extract_lets q d
    split
    · split
      · split
        · exact .inr (.inr rfl)
        · exact .inr (.inl rfl)
      · exact .inr (.inl rfl)
    · split
      · exact .inr (.inr rfl)
      · exact .inl rfl
  rw [h] at hnext
  simpa using hnext

theorem State.retireSlot_retires {p : Nat} (h0 : s.recs.retired.contains (2 * p) = false) (h1 : s.recs.retired.contains (2 * p + 1) = false) :
    s.retireSlot p = s.slotRetired p := by
  have htarget : (s.storeTarget p).1 = 0 ∨ (s.storeTarget p).1 = 1 := by
    unfold State.storeTarget
    split
    · next i hi =>
      have hle : i = 0 ∨ i = 1 := State.newer_slot hi
      dsimp only
      split
      · exact hle
      · show 1 - i = 0 ∨ 1 - i = 1
        omega
    · split
      · exact .inr rfl
      · exact .inl rfl
  refine if_neg ?_
  rw [h0, h1, Bool.or_false, Bool.or_false]
  rcases htarget with h | h
  · rw [h]
    exact ne_true_of_eq_false h0
  · rw [h]
    exact ne_true_of_eq_false h1

/-- A store of one page whose slot fails its read-back (R413). -/
theorem State.storeEnd_retires {p : Nat} {b : Bool} (hrun : s.recs.run = some b) (hp : s.recs.storing = [p])
    (h0 : s.recs.retired.contains (2 * p) = false) (h1 : s.recs.retired.contains (2 * p + 1) = false) :
    ∃ t, s.storeEnd [p] = t ∧ t.recs.retired = (2 * p + (s.storeTarget p).1) :: s.recs.retired ∧ t.recs.slots = s.recs.slots ∧
      t.recs.run = none ∧ t.recs.storing = [] ∧ t.mem = s.mem := by
  have hpages : s.pagesStored [p] = s.slotRetired p := by
    rw [State.pagesStored, hp, ← State.retireSlot_retires h0 h1]
    exact if_pos (List.contains_iff_mem.mpr List.mem_cons_self)
  have heq := State.storeEnd_some [p] hrun
  rw [hpages] at heq
  exact ⟨_, heq, State.storeEnded_keeps RecStore.retired (fun _ _ _ => rfl) (fun _ => rfl) _,
    State.storeEnded_keeps RecStore.slots (fun _ _ _ => rfl) (fun _ => rfl) _, State.raise_recs_keeps RecStore.run (fun _ _ _ => rfl) _,
    State.raise_recs_keeps RecStore.storing (fun _ _ _ => rfl) _, State.raise_mem ..⟩

theorem State.recMargin_busy (weak : List Nat) (h : s.recs.busy = true) : s.recMargin weak = s := if_pos h

/-! ### Passwords -/

/-- The password that an UNLOCK is measured against (R414). -/
def RecStore.wanted (r : RecStore) (write : Bool) : Option (List Byte) := if write then r.writePw else r.readPw

theorem State.unlock_refused (path : Path) (write : Bool) (h : s.recs.busy = true ∨ s.recs.locked = true) :
    s.unlock path write = s.ignored path (Reg.recCmd.addr 0 0) 3 := if_pos (by rw [Bool.or_eq_true]; exact h)

/-- The access that an UNLOCK opens (R414). -/
def RecStore.opened (r : RecStore) (write : Bool) : RecStore := if write then { r with writeOk := true } else { r with readOk := true }

theorem RecStore.opened_eq (r : RecStore) (write : Bool) :
    r.opened write = { r with readOk := r.readOk || !write, writeOk := r.writeOk || write } := by
  cases write with
  | false => rw [RecStore.opened, if_neg Bool.false_ne_true, Bool.not_false, Bool.or_true, Bool.or_false]
  | true => rw [RecStore.opened, if_pos rfl, Bool.not_true, Bool.or_false, Bool.or_true]

/-- A wrong password counted (R414). -/
def State.pwFailed (s : State) (write : Bool) : State :=
  ({ s with recs := { s.recs with fails := s.recs.fails + 1 } } : State).raise (evDev 0x7006 1 (s.recs.fails + 1 + 4 * b2n write))

/-- The store locked (R414). -/
def State.pwLocked (s : State) : State :=
  ({ s with recs := { s.recs with locked := true, readOk := false, writeOk := false } } : State).raise (evDev 0x7007 2 0)

section
variable (path : Path) (write : Bool) (hb : s.recs.busy = false) (hl : s.recs.locked = false)
include hb hl

theorem State.unlock_asked : s.unlock path write =
    if (s.recs.wanted write).isNone || s.recs.wanted write = pwDigest s.recs.pw then { s with recs := s.recs.opened write }
    else
      if s.recs.fails + 1 < 3 then s.pwFailed write
      else (s.pwFailed write).pwLocked := by
  unfold State.unlock
  extract_lets r want s1
  rw [if_neg (show ¬ (r.busy || r.locked) = true by rw [show r.busy = false from hb, show r.locked = false from hl]; decide)]
  rfl

/-- UNLOCK with the password (R414). -/
theorem State.unlock_opens (h : s.recs.wanted write = none ∨ s.recs.wanted write = pwDigest s.recs.pw) :
    s.unlock path write = { s with recs := { s.recs with readOk := s.recs.readOk || !write, writeOk := s.recs.writeOk || write } } := by
  rw [State.unlock_asked path write hb hl, if_pos (by rw [Bool.or_eq_true, decide_eq_true_iff, Option.isNone_iff_eq_none]; exact h),
    RecStore.opened_eq]

/-- UNLOCK with a wrong password (R414). -/
theorem State.unlock_fails (hn : s.recs.wanted write ≠ none) (hw : s.recs.wanted write ≠ pwDigest s.recs.pw) : ∃ t, s.unlock path write = t ∧
    t.recs.fails = s.recs.fails + 1 ∧
    (s.recs.fails < 2 → t.recs.locked = false ∧ t.recs.readOk = s.recs.readOk ∧ t.recs.writeOk = s.recs.writeOk) ∧
    (2 ≤ s.recs.fails → t.recs.locked = true ∧ t.recs.readOk = false ∧ t.recs.writeOk = false) ∧ t.mem = s.mem := by
  have hwrong : ¬ ((s.recs.wanted write).isNone || decide (s.recs.wanted write = pwDigest s.recs.pw)) = true := by
    rw [Bool.or_eq_true, decide_eq_true_iff, Option.isNone_iff_eq_none]
    exact not_or.mpr ⟨hn, hw⟩
  have heq := (State.unlock_asked path write hb hl).trans (if_neg hwrong)
  have hfailed {β : Type} (ψ : RecStore → β) (hψ : ∀ r l d, ψ { r with log := l, dirty := d } = ψ r) :
      ψ (s.pwFailed write).recs = ψ { s.recs with fails := s.recs.fails + 1 } := State.raise_recs_keeps ψ hψ _
  have hlocked {β : Type} (ψ : RecStore → β) (hψ : ∀ r l d, ψ { r with log := l, dirty := d } = ψ r) (t : State) :
      ψ t.pwLocked.recs = ψ { t.recs with locked := true, readOk := false, writeOk := false } := State.raise_recs_keeps ψ hψ _
  have hmem : (s.pwFailed write).mem = s.mem := State.raise_mem ..
  by_cases hf : s.recs.fails + 1 < 3
  · rw [if_pos hf] at heq
    refine ⟨_, heq, hfailed RecStore.fails fun _ _ _ => rfl, fun _ => ⟨(hfailed RecStore.locked fun _ _ _ => rfl).trans hl,
      hfailed RecStore.readOk fun _ _ _ => rfl, hfailed RecStore.writeOk fun _ _ _ => rfl⟩, fun h2 => ?_, hmem⟩
    omega
  · rw [if_neg hf] at heq
    refine ⟨_, heq, ?_, fun h2 => ?_, fun _ => ⟨hlocked RecStore.locked (fun _ _ _ => rfl) _, hlocked RecStore.readOk (fun _ _ _ => rfl) _,
      hlocked RecStore.writeOk (fun _ _ _ => rfl) _⟩, ?_⟩
    · exact (hlocked RecStore.fails (fun _ _ _ => rfl) _).trans (hfailed RecStore.fails fun _ _ _ => rfl)
    · omega
    · exact (State.raise_mem ..).trans hmem

end

theorem State.relockRec_busy (path : Path) (h : s.recs.busy = true) : s.relockRec path = s.ignored path (Reg.recCmd.addr 0 0) 3 := if_pos h

theorem State.relockRec_locks (path : Path) (h : s.recs.busy = false) :
    s.relockRec path = { s with recs := { s.recs with readOk := false, writeOk := false } } := if_neg (ne_true_of_eq_false h)

theorem State.setPw_refused (path : Path) (write : Bool) (h : s.recs.busy = true ∨ s.recs.mayRead = false ∨ s.recs.mayWrite = false) :
    s.setPw path write = s.ignored path (Reg.recCmd.addr 0 0) 3 :=
  if_pos (by rw [Bool.or_eq_true, Bool.or_eq_true, Bool.not_eq_true', Bool.not_eq_true', or_assoc]; exact h)

/-- The record store with a new password (R414). -/
def RecStore.pwSet (r : RecStore) (write : Bool) : RecStore :=
  if write then { r with writePw := pwDigest r.pw, writeOk := true } else { r with readPw := pwDigest r.pw, readOk := true }

/-- The record store with a page marked dirty (R411). -/
def RecStore.touched (r : RecStore) (p : Nat) : RecStore := if r.dirty.contains p then r else { r with dirty := p :: r.dirty }

theorem RecStore.touched_dirty (r : RecStore) (p : Nat) : (r.touched p).dirty.contains p = true := by
  unfold RecStore.touched
  split
  · next h => exact h
  · rw [List.contains_iff_mem]
    exact List.mem_cons_self

theorem RecStore.touched_keeps {β : Type} (ψ : RecStore → β) (hψ : ∀ r d, ψ { r with dirty := d } = ψ r) (r : RecStore) (p : Nat) :
    ψ (r.touched p) = ψ r := by
  unfold RecStore.touched
  split
  · rfl
  · exact hψ _ _

theorem State.touch_eq (p : Nat) : s.touch p = { s with recs := s.recs.touched p } := by
  unfold State.touch RecStore.touched
  split
  · rfl
  · rfl

theorem State.setPw_sets (path : Path) (write : Bool) (hb : s.recs.busy = false) (hr : s.recs.mayRead = true) (hw : s.recs.mayWrite = true) :
    s.setPw path write = { s with recs := (s.recs.pwSet write).touched 0 } := by
  unfold State.setPw
  extract_lets r d
  rw [if_neg (show ¬ (r.busy || !r.mayRead || !r.mayWrite) = true by
    rw [show r.busy = false from hb, show r.mayRead = true from hr, show r.mayWrite = true from hw]; decide), State.touch_eq]
  cases write with
  | false => rfl
  | true => rfl

/-! ### REC_DATA -/

/-- The word that REC_ADDR addresses (R417). -/
def State.recWord (s : State) : Nat := s.rf .recAddr 0 18 2

theorem State.recAcc_recs (n : Nat) : (s.recAcc n).recs = { s.recs with acc := n } := by
  unfold State.recAcc State.recStep
  split
  · exact State.wf__recs ..
  · rfl

theorem State.recAcc_keeps {β : Type} (φ : State → β) (hwr : ∀ t r i k v, φ (State.wr t r i k v) = φ t)
    (hrecs : ∀ t x, φ { t with recs := x } = φ t) (n : Nat) : φ (s.recAcc n) = φ s := by
  unfold State.recAcc State.recStep
  split
  · exact (hwr ..).trans (hrecs _ _)
  · exact hrecs _ _

/-- An access to REC_DATA changes its result and moves REC_ADDR on (R417). -/
def State.RecMoved (s : State) (n : Nat) (t : State) : Prop := t.recs = { s.recs with acc := n } ∧ t.mem = s.mem ∧
  (s.rb .recAddr 0 31 = true → t.rf .recAddr 0 18 2 = (s.recWord + 1) % 131072) ∧ (s.rb .recAddr 0 31 = false → t.regs = s.regs)

theorem State.recAcc_moves {lf lg : Nat} {cq : List Instr} (hS : s.Safe lf lg cq) (n : Nat) : s.RecMoved n (s.recAcc n) := by
  have hS1 : ({ s with recs := { s.recs with acc := n } } : State).Safe lf lg cq := State.Safe.lit hS rfl rfl rfl rfl
  refine ⟨State.recAcc_recs n, State.recAcc_keeps State.mem State.wr_mem (fun _ _ => rfl) n, fun h => ?_, fun h => ?_⟩
  · have hstep : s.recAcc n = ({ s with recs := { s.recs with acc := n } } : State).wf_ .recAddr 0 18 2 ((s.recWord + 1) % 131072) := if_pos h
    rw [hstep, State.rf_wf_ hS1 _ _ _ (by decide) (by decide)]
    exact Nat.mod_eq_of_lt (Nat.mod_lt _ (by decide))
  · have hstep : s.recAcc n = { s with recs := { s.recs with acc := n } } := if_neg (ne_true_of_eq_false h)
    rw [hstep]

theorem State.recRead_unrecalled (path : Path) (h : s.recs.recalled = false) : s.recRead path = (0, s.recAcc 1) := if_pos (by rw [h]; rfl)

theorem State.recWrite_unrecalled (path : Path) (v : Nat) (h : s.recs.recalled = false) : s.recWrite path v = s.recAcc 1 := if_pos (by rw [h]; rfl)

/-- Write access to a word of the store (R414). -/
theorem State.recWrite_guard {path : Path} : (decide (path ≠ .lkp) && !s.recs.mayWrite || decide (s.recWord / 1024 < 112)) = true ↔
    ¬ ((path = .lkp ∨ s.recs.mayWrite = true) ∧ 112 ≤ s.recWord / 1024) := by
  rw [Bool.or_eq_true, Bool.and_eq_true, decide_eq_true_iff, decide_eq_true_iff, Bool.not_eq_true', Classical.not_and_iff_not_or_not, not_or, Bool.not_eq_true, Nat.not_le]

section
variable {path : Path} (hrec : s.recs.recalled = true)
include hrec

theorem State.recRead_refused (h : ¬ (path = .lkp ∨ s.recs.mayRead = true)) : s.recRead path = (0, s.recAcc 2) := by
  refine (if_neg (by rw [hrec]; decide)).trans (if_pos ?_)
  rw [Bool.and_eq_true, decide_eq_true_iff, Bool.not_eq_true', ← Bool.not_eq_true]
  exact not_or.mp h

section
variable (hmay : path = .lkp ∨ s.recs.mayRead = true)
include hmay

theorem State.recRead_granted : s.recRead path = if s.recWord / 1024 < 39 then (u32 s.fresh.1, s.fresh.2.recAcc 0)
    else (leNat ((List.range 4).map (fun i => s.recs.user.get 0 (4 * s.recWord + i))), s.recAcc 0) := by
  refine (if_neg (by rw [hrec]; decide)).trans (if_neg ?_)
  rw [Bool.and_eq_true, decide_eq_true_iff, Bool.not_eq_true', ← Bool.not_eq_true]
  exact fun h => (not_or.mpr h) hmay

theorem State.recRead_own (h : s.recWord / 1024 < 39) : s.recRead path = (u32 s.fresh.1, s.fresh.2.recAcc 0) :=
  (State.recRead_granted hrec hmay).trans (if_pos h)

theorem State.recRead_user (h : 39 ≤ s.recWord / 1024) :
    s.recRead path = (leNat ((List.range 4).map (fun i => s.recs.user.get 0 (4 * s.recWord + i))), s.recAcc 0) :=
  (State.recRead_granted hrec hmay).trans (if_neg (Nat.not_lt.mpr h))

end

theorem State.recWrite_refused (v : Nat) (h : ¬ ((path = .lkp ∨ s.recs.mayWrite = true) ∧ 112 ≤ s.recWord / 1024)) :
    s.recWrite path v = s.recAcc 2 :=
  (if_neg (by rw [hrec]; decide)).trans (if_pos (State.recWrite_guard.mpr h))

/-- The word of the store written (R414). -/
def State.recWritten (s : State) (v : Nat) : State :=
  { s with recs := ({ s.recs with user := storeBytes s.recs.user (4 * s.recWord) (leBytes 4 v) } : RecStore).touched (s.recWord / 1024) }

theorem State.recWrite_granted (v : Nat) (h : (path = .lkp ∨ s.recs.mayWrite = true) ∧ 112 ≤ s.recWord / 1024) :
    s.recWrite path v = (s.recWritten v).recAcc 0 := by
  refine (if_neg (by rw [hrec]; decide)).trans ((if_neg fun hc => State.recWrite_guard.mp hc h).trans ?_)
  rw [State.touch_eq, State.recWritten]
  rfl

end

/-- What a granted write leaves in the store (R410, R414). -/
theorem State.recWritten_stores (v : Nat) (hs : NMap.sorted s.recs.user = true) :
    (∀ i, i < 4 → ((s.recWritten v).recAcc 0).recs.user.get 0 (4 * s.recWord + i) = BitVec.ofNat 8 (v / 256 ^ i)) ∧
    (∀ b, (b < 4 * s.recWord ∨ 4 * s.recWord + 4 ≤ b) → ((s.recWritten v).recAcc 0).recs.user.get 0 b = s.recs.user.get 0 b) ∧
    ((s.recWritten v).recAcc 0).recs.acc = 0 ∧ ((s.recWritten v).recAcc 0).recs.dirty.contains (s.recWord / 1024) = true ∧
    ((s.recWritten v).recAcc 0).recs.slots = s.recs.slots ∧ ((s.recWritten v).recAcc 0).mem = s.mem := by
  have hrecs := State.recAcc_recs (s := s.recWritten v) 0
  have hlen := length_leBytes 4 v
  have huser : ((s.recWritten v).recAcc 0).recs.user = storeBytes s.recs.user (4 * s.recWord) (leBytes 4 v) :=
    (congrArg RecStore.user hrecs).trans (RecStore.touched_keeps RecStore.user (fun _ _ => rfl) _ _)
  refine ⟨fun i hi => ?_, fun b hb => ?_, congrArg RecStore.acc hrecs, ?_, ?_, State.recAcc_keeps State.mem State.wr_mem (fun _ _ => rfl) 0⟩
  · rw [huser, get_storeBytes_inside hs _ (by rw [hlen]; exact hi), getD_leBytes hi]
  · rw [huser]
    exact get_storeBytes_outside hs _ (by rw [hlen]; exact hb)
  · exact (congrArg (fun r : RecStore => r.dirty.contains (s.recWord / 1024)) hrecs).trans (RecStore.touched_dirty _ _)
  · exact (congrArg RecStore.slots hrecs).trans (RecStore.touched_keeps RecStore.slots (fun _ _ => rfl) _ _)

theorem State.exec_recRead {path : Path} {v : Nat} {t : State} (ha : s.answers path .recs = true) (h : s.recRead path = (v, t)) :
    exec (.recDataAccess path none) s = .next (t.reply path v) := by
  refine next_congr ((if_pos ha).trans ?_)
  rw [h]

end

/-- Settles O59. -/
theorem records : Obligations.Records := by
  unfold Obligations.Records
  refine ⟨fun s path hI => ⟨fun ha => next_asked_unanswered ha _, fun ha => ?_, fun h => next_congr (if_neg ?_), fun halive hb hcfg hd => ?_,
    fun bad h => ?_, fun bad b halive h => ?_, fun p b halive hrun hp hs => ?_, fun h weak => ?_, fun halive hb weak => ?_⟩,
    fun s path hI => ⟨fun ha => ?_, fun ha => ?_⟩⟩
  · have hgo : exec (.store path) s = .next (s.storeCmd path) := next_congr (State.asked_answered ha _)
    rw [hgo]
    exact ⟨fun h => next_congr (State.storeCmd_busy path h), fun h => next_congr (State.storeCmd_idle path h)⟩
  · simp only [Bool.and_eq_true, decide_eq_true_iff, Bool.not_eq_true', List.isEmpty_eq_false_iff]
    rintro ⟨⟨⟨halive, hb⟩, hcfg⟩, hd⟩
    rcases h with h | h | h | h
    · exact absurd halive (ne_true_of_eq_false h)
    · exact absurd h (ne_true_of_eq_false hb)
    · exact hcfg h
    · exact hd h
  · refine next_congr (if_pos ?_)
    simp only [Bool.and_eq_true, decide_eq_true_iff, Bool.not_eq_true', List.isEmpty_eq_false_iff]
    exact ⟨⟨⟨halive, hb⟩, hcfg⟩, hd⟩
  · rcases h with h | h
    · exact next_if_neg h _ _
    · refine next_congr ?_
      split
      · exact State.storeEnd_none bad h
      · rfl
  · exact next_congr ((if_pos halive).trans (State.storeEnd_some bad h))
  · obtain ⟨t, ht, hrest⟩ := State.storeEnd_stores hrun hp hs
    refine ⟨⟨t, next_congr ((if_pos halive).trans ht), hrest⟩, fun h0 h1 => ?_⟩
    obtain ⟨u, hu, hmore⟩ := State.storeEnd_retires hrun hp h0 h1
    exact ⟨u, next_congr ((if_pos halive).trans hu), hmore⟩
  · rcases h with h | h
    · exact next_if_neg h _ _
    · refine next_congr ?_
      split
      · exact State.recMargin_busy weak h
      · rfl
  · exact next_congr ((if_pos halive).trans (if_neg (ne_true_of_eq_false hb)))
  · refine ⟨fun x hx => ?_, next_congr (if_neg (ne_true_of_eq_false ha)), fun v => next_asked_unanswered ha _⟩
    simp only [List.mem_cons, List.not_mem_nil, or_false] at hx
    rcases hx with rfl | rfl | rfl | rfl | rfl
    · exact next_asked_unanswered ha _
    · exact next_asked_unanswered ha _
    · exact next_asked_unanswered ha _
    · exact next_asked_unanswered ha _
    · exact next_asked_unanswered ha _
  · have hwr (v : Word) : exec (.recDataAccess path (some v)) s = .next (s.recWrite path v.toNat) := next_congr (State.asked_answered ha _)
    have hrelock : exec (.relock path) s = .next (s.relockRec path) := next_congr (State.asked_answered ha _)
    have hsetR : exec (.setReadPw path) s = .next (s.setPw path false) := next_congr (State.asked_answered ha _)
    have hsetW : exec (.setWritePw path) s = .next (s.setPw path true) := next_congr (State.asked_answered ha _)
    rw [hrelock, hsetR, hsetW]
    refine ⟨fun write => ?_, fun h => next_congr (State.relockRec_busy path h), fun h => next_congr (State.relockRec_locks path h),
      fun h => ⟨next_congr (State.setPw_refused path false h), next_congr (State.setPw_refused path true h)⟩, fun hb hr hw => ⟨?_, ?_⟩,
      fun hn => ⟨⟨_, State.recAcc_moves hI 1, State.exec_recRead ha (State.recRead_unrecalled path (Bool.eq_false_iff.mpr hn))⟩,
        fun v => ⟨_, State.recAcc_moves hI 1, (hwr v).trans (next_congr (State.recWrite_unrecalled path _ (Bool.eq_false_iff.mpr hn)))⟩⟩,
      fun hrec h => ⟨_, State.recAcc_moves hI 2, State.exec_recRead ha (State.recRead_refused hrec h)⟩,
      fun hrec hm hlow => ?_, fun hrec hm hhigh => ?_,
      fun hrec h v => ⟨_, State.recAcc_moves hI 2, (hwr v).trans (next_congr (State.recWrite_refused hrec _ h))⟩, fun hrec hm hs v => ?_⟩
    · have hgo : exec (if write then Instr.unlockWrite path else Instr.unlockRead path) s = .next (s.unlock path write) := by
        cases write with
        | false => exact next_congr (State.asked_answered ha _)
        | true => exact next_congr (State.asked_answered ha _)
      dsimp only
      rw [hgo]
      refine ⟨fun h => next_congr (State.unlock_refused path write h), fun hb hl h => next_congr (State.unlock_opens path write hb hl h),
        fun hb hl hn hw => ?_⟩
      obtain ⟨t, ht, hrest⟩ := State.unlock_fails path write hb hl hn hw
      exact ⟨t, next_congr ht, hrest⟩
    · exact ⟨_, next_congr (State.setPw_sets path false hb hr hw), RecStore.touched_keeps RecStore.readPw (fun _ _ => rfl) _ _,
        RecStore.touched_keeps RecStore.writePw (fun _ _ => rfl) _ _, RecStore.touched_keeps RecStore.readOk (fun _ _ => rfl) _ _,
        RecStore.touched_dirty _ 0, rfl, rfl⟩
    · exact ⟨_, next_congr (State.setPw_sets path true hb hr hw), RecStore.touched_keeps RecStore.writePw (fun _ _ => rfl) _ _,
        RecStore.touched_keeps RecStore.readPw (fun _ _ => rfl) _ _, RecStore.touched_keeps RecStore.writeOk (fun _ _ => rfl) _ _,
        RecStore.touched_dirty _ 0, rfl, rfl⟩
    · have hfresh : s.fresh.2.Safe 0 0 s.pending := State.Safe.lit (s := s) hI rfl rfl rfl rfl
      exact ⟨_, _, State.recAcc_moves hfresh 0, State.exec_recRead ha (State.recRead_own hrec hm hlow)⟩
    · exact ⟨_, State.recAcc_moves hI 0, State.recAcc_keeps State.free State.wr_free (fun _ _ => rfl) 0,
        State.exec_recRead ha (State.recRead_user hrec hm hhigh)⟩
    · exact ⟨_, (hwr v).trans (next_congr (State.recWrite_granted hrec _ hm)), State.recWritten_stores v.toNat hs⟩

end Sys2Proof.Machine
end

section
/-! PROOFS. Attestation, event datagrams, SMBus, JTAG, the core self test and the scrub (R294, R295, R313, R324, R389, R415, R416). -/
namespace Sys2Proof.Machine
open Sys2Proof

section
variable {s : State}

/-! ### The management port -/

/-- The quotes of the last second (R415). -/
def State.recentQuotes (s : State) : List Nat := s.ports.quotes.filter (fun t => s.time < t + 1000000000)

theorem State.quote_refused {d : List Byte} (h : s.mgmtUp = false ∨ attestOk d 1 = false ∨ 100 ≤ s.recentQuotes.length) : s.quote d = s :=
  if_pos (by rw [Bool.or_eq_true, Bool.or_eq_true, Bool.not_eq_true', Bool.not_eq_true', decide_eq_true_iff, or_assoc]; exact h)

theorem State.quote_signs {d : List Byte} (hm : s.mgmtUp = true) (ha : attestOk d 1 = true) (h : s.recentQuotes.length < 100) :
    s.quote d = ({ s with ports := { s.ports with quotes := s.time :: s.recentQuotes } } : State).send
      (.mgmt 47622 (s.quoteBytes (leAt d 5 1) (d.drop 8) ++ padTo 64 (Config.deviceSign (Sha.sha256 (s.quoteBytes (leAt d 5 1) (d.drop 8)))))) := by
  refine if_neg ?_
  rw [hm, ha]
  simp only [Bool.not_true, Bool.false_or, decide_eq_true_iff, Nat.not_le]
  exact h

theorem length_ascii (a b c d : Nat) : (ascii a b c d).length = 4 := rfl

/-- The four bytes of a quote after its magic number (R416). -/
def State.quoteCounts (s : State) (first : Nat) : List Byte :=
  leBytes 2 1 ++ leBytes 1 ((s.installed.drop first).take 24).length ++ leBytes 1 (b2n (decide (24 < (s.installed.drop first).length)))

/-- What follows the nonce of a quote (R416). -/
def State.quoteRest (s : State) (first : Nat) : List Byte :=
  leBytes 8 (u64 s.time) ++ leBytes 4 (s.rd .ethSrnEpoch) ++ leBytes 4 (s.boot.fw.getD {}).version ++ leBytes 4 (s.boot.fw.getD {}).floor ++
    leBytes 4 (s.boot.cfg.getD {}).floor ++ padTo 32 (s.boot.fw.getD {}).digest ++ padTo 32 (s.boot.cfg.getD {}).digest ++
    padTo 32 (s.boot.ident.owner.getD []) ++ ((s.installed.drop first).take 24).flatMap quoteModel

theorem State.quoteBytes_eq (first : Nat) (nonce : List Byte) :
    s.quoteBytes first nonce = ascii 67 75 65 81 ++ (s.quoteCounts first ++ (nonce ++ s.quoteRest first)) := by
  simp only [State.quoteBytes, State.quoteCounts, State.quoteRest, List.append_assoc]

theorem State.length_quoteCounts (first : Nat) : (s.quoteCounts first).length = 4 := by
  rw [State.quoteCounts, List.length_append, List.length_append, length_leBytes, length_leBytes, length_leBytes]

theorem State.quoteBytes_magic (first : Nat) (nonce : List Byte) : (s.quoteBytes first nonce).take 4 = ascii 67 75 65 81 := by
  rw [State.quoteBytes_eq, List.take_append_of_le_length (Nat.le_refl 4)]
  rfl

theorem State.quoteBytes_nonce (first : Nat) {nonce : List Byte} (hn : nonce.length = 32) : ((s.quoteBytes first nonce).drop 8).take 32 = nonce := by
  have hlen : (ascii 67 75 65 81 ++ s.quoteCounts first).length = 8 := by rw [List.length_append, State.length_quoteCounts, length_ascii]
  rw [State.quoteBytes_eq, ← List.append_assoc, ← hlen, List.drop_left, ← hn, List.take_left]

theorem attestOk_length {d : List Byte} {op : Nat} (h : attestOk d op = true) : d.length = 40 := by
  simp only [attestOk, Bool.and_eq_true, decide_eq_true_iff, and_assoc] at h
  exact h.1

/-! ### Event datagrams -/

theorem Event.length_bytes (e : Event) : e.bytes.length = 32 := by
  simp only [Event.bytes, List.length_append, length_leBytes]

/-- A datagram of events (R324). -/
def State.datagram (s : State) (q : Nat) : List Byte :=
  ascii 67 75 69 86 ++ leBytes 2 1 ++ leBytes 1 (s.ev.waiting.take 44).length ++ [0] ++ leBytes 8 q ++
    (s.ev.waiting.take 44).flatMap (fun e => e.2.bytes)

theorem State.length_datagram (q : Nat) : (s.datagram q).length = 16 + 32 * min 44 s.ev.waiting.length := by
  have hbody (es : List (Nat × Event)) : (es.flatMap (fun e => e.2.bytes)).length = 32 * es.length := by
    induction es with
    | nil => rfl
    | cons e es ih => rw [List.flatMap_cons, List.length_append, ih, Event.length_bytes, List.length_cons]; omega
  rw [State.datagram, List.length_append, hbody, List.length_take]
  simp only [List.length_append, length_leBytes, length_ascii, List.length_cons, List.length_nil]

theorem State.eventDatagram_none (h : s.ev.waiting = [] ∨ s.mgmtUp = false ∨ s.rb .chkEvtCfg 0 0 = false) : s.eventDatagram = s := by
  unfold State.eventDatagram
  split
  · rfl
  · next hw =>
    refine if_pos ?_
    rw [Bool.or_eq_true, Bool.not_eq_true', Bool.not_eq_true']
    exact h.resolve_left fun hn => by rw [hn] at hw; exact nomatch hw

theorem State.eventDatagram_leaves (h : s.ev.waiting ≠ []) (hm : s.mgmtUp = true) (hon : s.rb .chkEvtCfg 0 0 = true) : ∃ q, s.eventDatagram =
    (({ s with ev := { s.ev with waiting := s.ev.waiting.drop 44 } } : State).send (.mgmt (s.rf .chkEvtCfg 0 31 16) (s.datagram q))).count ctrIo 10 1 := by
  unfold State.eventDatagram
  split
  · next hn => exact absurd hn h
  · next q _ _ _ =>
    refine ⟨q, (if_neg (by rw [hm, hon]; decide)).trans ?_⟩
    rw [State.datagram]

/-! ### SMBus -/

theorem State.length_smbusBytes : s.smbusBytes.length = 32 := by
  simp only [State.smbusBytes, List.length_append, length_leBytes, List.length_replicate]

theorem State.smbus_reset (op : SmbusOp) (h : s.boot.inReset = true) : s.smbus op = s := if_pos h

theorem State.smbus_read (h : s.boot.inReset = false) (c : Byte) :
    s.smbus (.blockRead c) = s.send (.smbus (if c = 0 then some s.smbusBytes else none)) := if_neg (ne_true_of_eq_false h)

theorem State.smbus_write (h : s.boot.inReset = false) (b : List Byte) : s.smbus (.write b) = s.send (.smbus none) :=
  if_neg (ne_true_of_eq_false h)

/-! ### The self test of a core -/

theorem State.retestCmd_running (path : Path) (c : Nat) (h : s.chkRuns = true) : s.retestCmd path c = s.ignored path (Reg.chkCmd.addr 0 0) 3 :=
  if_pos h

theorem State.retestCmd_sound (path : Path) {c : Nat} (h : s.chkRuns = false) (hf : (s.core c).failedCore = false) :
    s.retestCmd path c = s.chkResult 1 :=
  (if_neg (ne_true_of_eq_false h)).trans (if_pos (by rw [hf]; rfl))

/-- RETEST_CORE of a failed core starts its self test (R313). -/
theorem State.retestCmd_starts (hS : s.Inv) (path : Path) {c : Nat} (h : s.chkRuns = false) (hf : (s.core c).failedCore = true) :
    ∃ t, s.retestCmd path c = t ∧ (t.core c).retesting = true ∧ t.rd .chkCmdStatus = 2 ^ 30 ∧ (∀ d, d ≠ c → t.core d = s.core d) ∧ t.mem = s.mem := by
  have hS1 := State.modCore_safe s c (fun x => { x with retesting := true }) hS
  have hcore (d : Nat) : ((s.modCore c (fun x => { x with retesting := true })).wr .chkCmdStatus 0 0 (2 ^ 30)).core d =
      (s.modCore c (fun x => { x with retesting := true })).core d := State.core_wr ..
  refine ⟨_, (if_neg (ne_true_of_eq_false h)).trans (if_neg (by rw [hf]; decide)), ?_, State.rd_wr hS1 .., fun d hd => ?_,
    (State.wr_mem ..).trans (State.modCore_mem ..)⟩
  · rw [hcore, State.core_modCore hS]
  · rw [hcore, State.core_modCore_ne hS _ hd]

theorem State.selfTestEnd_idle {c : Nat} (p : Bool) (h : (s.core c).retesting = false) : s.selfTestEnd c p = s := if_pos (by rw [h]; rfl)

/-- A core whose self test has ended, its record stored when it passed (R313). -/
def State.selfTested (s : State) (c : Nat) (p : Bool) : State :=
  if p then (s.modCore c (fun x => { x with retesting := false, failedCore := x.failedCore && !p })).storeNow corePage
  else s.modCore c (fun x => { x with retesting := false, failedCore := x.failedCore && !p })

theorem State.selfTestEnd_eq {c : Nat} (p : Bool) (h : (s.core c).retesting = true) :
    s.selfTestEnd c p = (s.selfTested c p).chkResult (if p then 0 else 3) := if_neg (by rw [h]; decide)

theorem State.selfTested_core (c : Nat) (p : Bool) (d : Nat) :
    (s.selfTested c p).core d = (s.modCore c (fun x => { x with retesting := false, failedCore := x.failedCore && !p })).core d := by
  unfold State.selfTested
  split
  · exact State.core_storeNow ..
  · rfl

theorem State.selfTestEnd_ends (hS : s.Inv) {c : Nat} (p : Bool) (h : (s.core c).retesting = true) : ∃ t, s.selfTestEnd c p = t ∧
    (t.core c).retesting = false ∧ (t.core c).failedCore = ((s.core c).failedCore && !p) ∧
    t.rd .chkCmdStatus = (if p then 0 else 3) + 2 ^ 31 ∧ (∀ d, d ≠ c → t.core d = s.core d) ∧ t.mem = s.mem := by
  have hS1 := State.modCore_safe s c (fun x => { x with retesting := false, failedCore := x.failedCore && !p }) hS
  have hS2 : (s.selfTested c p).Safe 0 0 s.pending := by
    unfold State.selfTested
    split
    · exact State.storeNow_safe _ _ hS1
    · exact hS1
  have hmem : (s.selfTested c p).mem = s.mem := by
    unfold State.selfTested
    split
    · rw [State.storeNow_mem, State.modCore_mem]
    · rw [State.modCore_mem]
  have hcore (d : Nat) : ((s.selfTested c p).chkResult (if p then 0 else 3)).core d =
      (s.modCore c (fun x => { x with retesting := false, failedCore := x.failedCore && !p })).core d :=
    (State.core_wr ..).trans (State.selfTested_core c p d)
  refine ⟨_, State.selfTestEnd_eq p h, ?_, ?_, ?_, fun d hd => ?_, (State.wr_mem ..).trans hmem⟩
  · rw [hcore, State.core_modCore hS]
  · rw [hcore, State.core_modCore hS]
  · refine (State.rd_wr hS2 ..).trans (Nat.mod_eq_of_lt ?_)
    split
    · decide
    · decide
  · rw [hcore, State.core_modCore_ne hS _ hd]

/-! ### The scrub -/

theorem State.scrubPass_off (mem : ScrubMem) (finds : List ScrubFind) (h : s.scrubOn mem = false) : s.scrubPass mem finds = s :=
  if_pos (by rw [h]; rfl)

/-- The blocks that a pass of a memory counts (R295). -/
def State.scrubCounted (s : State) (mem : ScrubMem) : State :=
  match mem with
  | .dram m => s.count (ctrMem m) 6 (s.usable / 256)
  | _ => s

theorem State.scrubPass_on {mem : ScrubMem} (finds : List ScrubFind) (h : s.scrubOn mem = true) :
    s.scrubPass mem finds = (s.scrubCounted mem).each (finds.filter (s.scrubHas mem)) (fun t f => t.scrubFind mem f) := by
  unfold State.scrubPass
  rw [if_neg (by rw [h]; decide)]
  cases mem <;> rfl

/-- A find in a controller's memory that cannot be corrected (R294). -/
theorem State.scrubFind_dram (m : Fin 4) (t : State) {line : Nat} (hp : t.poison.contains line = false) : ∃ u, t.scrubFind (.dram m) ⟨line, false⟩ = u ∧
    u.poison = line :: t.poison ∧ u.mem = t.mem ∧ u.arrays = t.arrays ∧ u.cores = t.cores := by
  have hcounted : ((t.ueEvent m (64 * line)).count (ctrMem m) 5 1).poison = t.poison := by
    rw [State.count_poison, State.ueEvent, State.raise_poison, State.bump_poison]
  have hmark : t.scrubFind (.dram m) ⟨line, false⟩ = { (t.ueEvent m (64 * line)).count (ctrMem m) 5 1 with
      poison := line :: ((t.ueEvent m (64 * line)).count (ctrMem m) 5 1).poison } := by
    refine if_neg ?_
    show ¬ (false || ((t.ueEvent m (64 * line)).count (ctrMem m) 5 1).poison.contains line) = true
    rw [hcounted, hp]
    decide
  have hkeep {β : Type} (φ : State → β) (hq : Quiet φ) : φ ((t.ueEvent m (64 * line)).count (ctrMem m) 5 1) = φ t :=
    (hq.ctrs _ _).trans ((hq.raise ..).trans (hq.wr ..))
  exact ⟨_, hmark, congrArg (line :: ·) hcounted, hkeep State.mem quiet_mem, hkeep State.arrays quiet_arrays,
    hkeep State.cores ⟨⟨fun _ _ => rfl, fun _ _ => rfl, fun _ _ => rfl, fun _ _ => rfl⟩, State.wr_cores, State.raise_cores⟩⟩

section
variable {m : Fin 4} (h : s.scrubOn (.dram m) = true)
include h

theorem State.scrubPass_clean : s.scrubPass (.dram m) [] = s.count (ctrMem m) 6 (s.usable / 256) := State.scrubPass_on [] h

theorem State.scrubPass_outside {line : Nat} (b : Bool) (hout : s.usable ≤ 64 * line ∨ ctlOf (64 * line) ≠ m) :
    s.scrubPass (.dram m) [⟨line, b⟩] = s.scrubPass (.dram m) [] := by
  have hhas : s.scrubHas (.dram m) ⟨line, b⟩ = false := by
    show (decide (64 * line < s.usable) && decide (ctlOf (64 * line) = m)) = false
    rw [Bool.and_eq_false_iff, decide_eq_false_iff_not, decide_eq_false_iff_not, Nat.not_lt]
    exact hout
  rw [State.scrubPass_on _ h, List.filter_cons_of_neg (ne_true_of_eq_false hhas), State.scrubPass_on _ h]

theorem State.scrubPass_marks {line : Nat} (hin : 64 * line < s.usable) (hc : ctlOf (64 * line) = m) (hp : s.poison.contains line = false) :
    ∃ t, s.scrubPass (.dram m) [⟨line, false⟩] = t ∧ t.poison = line :: s.poison ∧ t.mem = s.mem ∧ t.arrays = s.arrays ∧ t.cores = s.cores := by
  have hhas : s.scrubHas (.dram m) ⟨line, false⟩ = true := by
    show (decide (64 * line < s.usable) && decide (ctlOf (64 * line) = m)) = true
    rw [Bool.and_eq_true, decide_eq_true_iff, decide_eq_true_iff]
    exact ⟨hin, hc⟩
  obtain ⟨u, hu, hrest⟩ := State.scrubFind_dram m (s.count (ctrMem m) 6 (s.usable / 256)) hp
  refine ⟨u, ?_, hrest⟩
  rw [State.scrubPass_on _ h, List.filter_cons_of_pos hhas, List.filter_nil]
  exact hu

end

end

/-- Settles O55. -/
theorem sidePorts : Obligations.SidePorts := by
  unfold Obligations.SidePorts
  refine ⟨fun s => ⟨fun d h => next_congr (State.quote_refused h), fun d hm ha hn => ?_, fun d => rfl, fun h => next_congr (State.eventDatagram_none h),
    fun hw hm hon => ?_, fun h op => next_congr (State.smbus_reset op h), fun h => ⟨next_congr (State.smbus_read h 0), State.length_smbusBytes,
      fun c hc => next_congr ((State.smbus_read h c).trans (by rw [if_neg hc])), fun b => next_congr (State.smbus_write h b)⟩,
    rfl, rfl, fun bits => rfl, fun i hi => ?_⟩,
    fun s path c hI => ⟨fun ha => next_asked_unanswered ha _, fun ha => ?_, fun ha => ⟨fun p => next_if_neg ha _ _, fun m f => next_if_neg ha _ _⟩,
      fun h p => ?_, fun ha h p => ?_, fun mem finds ha h => next_congr ((if_pos ha).trans (State.scrubPass_off mem finds h)), fun m ha h => ?_,
      fun mem ha h hm => ?_⟩⟩
  · refine ⟨_, _, next_congr (State.quote_signs hm ha hn), rfl, rfl, State.quoteBytes_magic .., ?_⟩
    have hlen : (d.drop 8).length = 32 := by rw [List.length_drop, attestOk_length ha]
    rw [State.quoteBytes_nonce _ hlen]
    exact (List.take_of_length_le (Nat.le_of_eq hlen)).symm
  · obtain ⟨q, hq⟩ := State.eventDatagram_leaves hw hm hon
    exact ⟨_, _, next_congr hq, rfl, rfl, State.length_datagram q, rfl, rfl⟩
  · simp only [List.mem_cons, List.not_mem_nil, or_false] at hi
    have htap (t : Tap) : s.tapLoad t true = { s with ports := { s.ports with tap := if s.boot.inReset then t else .bypass } } := by
      unfold State.tapLoad
      cases s.boot.inReset with
      | false => rfl
      | true => rfl
    rcases hi with rfl | rfl | rfl | rfl | rfl
    · exact next_congr (htap _)
    · exact next_congr (htap _)
    · exact next_congr (htap _)
    · exact next_congr (htap _)
    · exact next_congr (htap _)
  · have hgo : exec (.retestCore path c) s = .next (s.retestCmd path c) := next_congr (State.asked_answered ha _)
    rw [hgo]
    refine ⟨fun h => next_congr (State.retestCmd_running path c h), fun h hf => next_congr (State.retestCmd_sound path h hf), fun h hf => ?_⟩
    obtain ⟨t, ht, hrest⟩ := State.retestCmd_starts hI path h hf
    exact ⟨t, next_congr ht, hrest⟩
  · refine next_congr ?_
    split
    · exact State.selfTestEnd_idle p h
    · rfl
  · obtain ⟨t, ht, hrest⟩ := State.selfTestEnd_ends hI p h
    exact ⟨t, next_congr ((if_pos ha).trans ht), hrest⟩
  · have hpass (finds : List ScrubFind) : exec (.memScrubPass (.dram m) finds) s = .next (s.scrubPass (.dram m) finds) := next_congr (if_pos ha)
    simp only [hpass]
    refine ⟨next_congr (State.scrubPass_clean h), fun line b hout => next_congr (State.scrubPass_outside h b hout), fun line hin hc hp => ?_⟩
    obtain ⟨t, ht, hrest⟩ := State.scrubPass_marks h hin hc hp
    exact ⟨t, next_congr ht, hrest⟩
  · have hnone : s.scrubCounted mem = s := by
      cases mem with
      | dram m => exact absurd rfl (hm m)
      | sram c => rfl
      | ioDie => rfl
      | lkp => rfl
    exact next_congr ((if_pos ha).trans ((State.scrubPass_on [] h).trans hnone))

end Sys2Proof.Machine
end

section
/-! PROOFS. The states of a Sirin peer and its timers (R362, R366, R368 to R371, R390). -/
namespace Sys2Proof.Machine
open Sys2Proof

section
variable {s : State} {i : Nat}

/-! ### Control packets -/

theorem State.onCtl_dead (typ : Nat) (f : State → Ctl → State) (h : s.alive = false) : s.onCtl i typ f = s := if_pos (by rw [h]; rfl)

section
variable {typ : Nat} (f : State → Ctl → State) (ha : s.alive = true)
include ha

theorem State.onCtl_none (h : (s.takeCtl i typ).1 = none) : s.onCtl i typ f = s := by
  unfold State.onCtl
  rw [if_neg (by rw [ha]; decide)]
  split
  · next hk => rw [hk] at h; exact nomatch h
  · rfl

theorem State.onCtl_some {k : Ctl} {t : State} (h : s.takeCtl i typ = (some k, t)) :
    s.onCtl i typ f = if t.srnUsable i then f t k else t := by
  unfold State.onCtl
  rw [if_neg (by rw [ha]; decide), h] <;> rfl

theorem State.onCtl_unusable {k : Ctl} {t : State} (h : s.takeCtl i typ = (some k, t)) (hu : t.srnUsable i = false) : s.onCtl i typ f = t :=
  (State.onCtl_some f ha h).trans (if_neg (ne_true_of_eq_false hu))

theorem State.onCtl_usable {k : Ctl} {t : State} (h : s.takeCtl i typ = (some k, t)) (hu : t.srnUsable i = true) : s.onCtl i typ f = f t k :=
  (State.onCtl_some f ha h).trans (if_pos hu)

end

/-! ### OPEN and OPEN_ACK -/

/-- A peer that is OPEN starts anew with another epoch: the messages in part sent fail (R370). -/
def State.peerAgain (s : State) (i epoch : Nat) : State :=
  (s.setPeer i { s.peer i with epoch := epoch, ch0 := (s.peer i).ch0.restart, ch1 := (s.peer i).ch1.restart }).each
    ((s.peer i).ch0.started ++ (s.peer i).ch1.started) (fun t m => t.msgFailed i m)

theorem State.gotOpen_opens (epoch : Nat) (h : (s.peer i).st ≠ .open_) : s.gotOpen i epoch = (s.sirinCtl i 0 2).peerOpen i epoch := by
  unfold State.gotOpen
  extract_lets x ms s1
  split
  · next hst => exact absurd hst h
  · rfl

theorem State.gotOpen_same {epoch : Nat} (h : (s.peer i).st = .open_) (he : epoch = (s.peer i).epoch) : s.gotOpen i epoch = s.sirinCtl i 0 2 := by
  unfold State.gotOpen
  extract_lets x ms s1
  split
  · exact if_pos he
  · next hst => exact absurd h hst

theorem State.gotOpen_again {epoch : Nat} (h : (s.peer i).st = .open_) (he : epoch ≠ (s.peer i).epoch) : s.gotOpen i epoch =
    ((((s.peerAgain i epoch).sirinCtl i 0 2).raise (evPeer 0x5012 1 i (i +
      65536 * (((s.peer i).ch0.started ++ (s.peer i).ch1.started).length % 65536) + 2 ^ 32 * epoch))).pump i 0).pump i 1 := by
  unfold State.gotOpen
  extract_lets x ms s1
  split
  · refine (if_neg he).trans ?_
    rw [State.peerAgain]
  · next hst => exact absurd h hst

theorem State.gotOpenAck_idle (epoch : Nat) (h : (s.peer i).st = .closed ∨ (s.peer i).st = .open_) : s.gotOpenAck i epoch = s := by
  unfold State.gotOpenAck
  rcases h with h | h
  · rw [h]
  · rw [h]

theorem State.gotOpenAck_opens (epoch : Nat) (h : (s.peer i).st = .opening ∨ (s.peer i).st = .unreachable) : s.gotOpenAck i epoch = s.peerOpen i epoch := by
  unfold State.gotOpenAck
  rcases h with h | h
  · rw [h]
  · rw [h]

/-! ### The commands of the transport -/

theorem State.srnOpen_opens (hu : s.srnUsable i = true) (h : (s.peer i).st = .closed) : s.srnOpen i = s.openBegin i :=
  if_pos (by rw [hu, h]; rfl)

theorem State.srnOpen_idle (h : s.srnUsable i = false ∨ (s.peer i).st ≠ .closed) : s.srnOpen i = s := by
  refine if_neg ?_
  rw [Bool.and_eq_true, decide_eq_true_iff, Classical.not_and_iff_not_or_not, Bool.not_eq_true]
  exact h

theorem State.srnReload_enabled (path : Path) (h : s.rb .ethSrnCfg 0 16 = true) : s.srnReload path = s.ignored path (Reg.ethSrnCmd.addr 0 0) 3 :=
  if_pos h

section
variable (path : Path) (h : s.rb .ethSrnCfg 0 16 = false)
include h

theorem State.srnReload_reads {d : List Byte} (hd : s.readDev (s.rdPair .ethSrnTableLo .ethSrnTableHi) 21504 = some d) :
    s.srnReload path = { s with net := { s.net with table := d, peers := s.net.peers.filter (fun e => !e.2.ctl.isEmpty) } } := by
  unfold State.srnReload
  rw [if_neg (ne_true_of_eq_false h), show 64 * 336 = 21504 from rfl, hd] <;> rfl

theorem State.srnReload_fails (hd : s.readDev (s.rdPair .ethSrnTableLo .ethSrnTableHi) 21504 = none) :
    s.srnReload path = s.ueRead false (s.rdPair .ethSrnTableLo .ethSrnTableHi) 21504 := by
  unfold State.srnReload
  rw [if_neg (ne_true_of_eq_false h), show 64 * 336 = 21504 from rfl, hd] <;> rfl

end

/-! ### The timers -/

theorem State.retxTimeout_idle {ch : Nat} (h : (s.peer i).st ≠ .open_) : s.retxTimeout i ch = s := by
  unfold State.retxTimeout
  split
  · exact if_pos h
  · rfl

/-- A packet of a channel sent once more, its timeout doubled (R369). -/
def OutPkt.again (y o : OutPkt) (now : Nat) : OutPkt :=
  if y.pkt.seq = o.pkt.seq then { y with retx := y.retx + 1, timeout := 2 * y.timeout, sentAt := now } else y

/-- The packet of a timeout sent again (R369, R421). -/
def State.resent (s : State) (i ch : Nat) (o : OutPkt) : State :=
  (((s.modChan i ch (fun c => { c with out := c.out.map (fun y => y.again o s.time) })).bump .ethSrnRetxCount 0 1).count
    (ctrPort (s.peerPort i)) 7 1).sirinData i ch o.pkt true

theorem State.retransmit_slow {ch : Nat} {o : OutPkt} : s.retransmit i ch o false = s.resent i ch o := by
  have hagain (y : OutPkt) : (if y.pkt.seq = o.pkt.seq then
      { y with retx := y.retx + 1, fast := y.fast || false, timeout := if false = true then y.timeout else 2 * y.timeout, sentAt := s.time }
      else y) = y.again o s.time := by
    rw [Bool.or_false, if_neg Bool.false_ne_true, OutPkt.again]
  unfold State.retransmit State.resent
  extract_lets upd
  have hupd : upd = fun y => y.again o s.time := funext hagain
  rw [hupd]

section
variable {ch : Nat} {o : OutPkt} (ho : ((s.peer i).chan ch).out.find? (fun o => o.sentAt + o.timeout ≤ s.time) = some o) (h : (s.peer i).st = .open_)
include ho h

theorem State.retxTimeout_some : s.retxTimeout i ch =
    if s.rf .ethSrnCfg 0 23 20 ≤ o.retx then s.unreachable i true else s.retransmit i ch o false := by
  unfold State.retxTimeout
  rw [ho]
  exact if_neg (not_not_intro h)

theorem State.retxTimeout_resends (hr : o.retx < s.rf .ethSrnCfg 0 23 20) : s.retxTimeout i ch = s.resent i ch o :=
  (State.retxTimeout_some ho h).trans ((if_neg (Nat.not_le.mpr hr)).trans State.retransmit_slow)

theorem State.retxTimeout_gives (hr : s.rf .ethSrnCfg 0 23 20 ≤ o.retx) : s.retxTimeout i ch = s.unreachable i true :=
  (State.retxTimeout_some ho h).trans (if_pos hr)

end

/-- A packet of a channel waits past its timeout exactly when one is found (R369). -/
theorem State.any_expired {ch : Nat} {o : OutPkt} (ho : ((s.peer i).chan ch).out.find? (fun o => o.sentAt + o.timeout ≤ s.time) = some o) :
    ((s.peer i).chan ch).out.any (fun o => o.sentAt + o.timeout ≤ s.time) = true :=
  List.any_eq_true.mpr ⟨o, List.mem_of_find?_eq_some ho, List.find?_some (p := fun o : OutPkt => decide (o.sentAt + o.timeout ≤ s.time)) ho⟩

theorem State.none_expired {ch : Nat} (h : ∀ o ∈ ((s.peer i).chan ch).out, s.time < o.sentAt + o.timeout) :
    ((s.peer i).chan ch).out.any (fun o => o.sentAt + o.timeout ≤ s.time) = false := by
  refine List.any_eq_false.mpr fun o ho => ?_
  rw [decide_eq_true_iff]
  exact Nat.not_le.mpr (h o ho)

theorem State.openDue_iff : s.openDue i = true ↔ ((s.peer i).st = .opening ∧ (s.peer i).openSent + 1000000 ≤ s.time) ∨
    ((s.peer i).st = .unreachable ∧ (s.peer i).since + 10000000 ≤ s.time ∧ (s.peer i).openSent + 10000000 ≤ s.time) := by
  have hmax : max (s.peer i).since (s.peer i).openSent + 10000000 ≤ s.time ↔
      (s.peer i).since + 10000000 ≤ s.time ∧ (s.peer i).openSent + 10000000 ≤ s.time := by omega
  unfold State.openDue
  simp only [Bool.or_eq_true, Bool.and_eq_true, decide_eq_true_iff, hmax]

end

/-- Settles O51. -/
theorem peers : Obligations.Peers := by
  unfold Obligations.Peers
  refine ⟨fun s peer => ⟨fun ha x hx => ?_, fun ha => ⟨fun h => next_congr (State.onCtl_none _ ha h), fun h => next_congr (State.onCtl_none _ ha h),
      fun h => next_congr (State.onCtl_none _ ha h), fun h => next_congr (State.onCtl_none _ ha h), fun k t h => ⟨fun hu => ?_, fun hu hst => ?_,
        fun hu hst he => ?_, fun hu hst he => ?_⟩, fun k t h => ⟨fun hx => ?_, fun hu hst => ?_⟩, fun k t h => ⟨fun hx => ?_, fun hu hst => ?_⟩,
      fun k t h => ⟨fun hu => next_congr (State.onCtl_unusable _ ha h hu), fun hu => ?_⟩⟩,
      fun path => ⟨fun ha => ⟨next_asked_unanswered ha _, next_asked_unanswered ha _, next_asked_unanswered ha _⟩, fun ha => ?_⟩⟩,
    fun s peer => ⟨fun ha => ⟨fun ch => ?_, fun x hx => ?_⟩, fun ha => ⟨fun h => ?_, fun h => ?_, fun ch h => ?_, fun ch o ho => ⟨fun h => ?_, fun h hr => ?_,
      fun h hr => ?_⟩, ⟨fun h => ?_, fun h => ?_⟩, ⟨fun h => ?_, fun h => ?_⟩⟩⟩⟩
  · simp only [List.mem_cons, List.not_mem_nil, or_false] at hx
    rcases hx with rfl | rfl | rfl | rfl
    · exact next_congr (State.onCtl_dead _ _ ha)
    · exact next_congr (State.onCtl_dead _ _ ha)
    · exact next_congr (State.onCtl_dead _ _ ha)
    · exact next_congr (State.onCtl_dead _ _ ha)
  · exact next_congr (State.onCtl_unusable _ ha h hu)
  · exact next_congr ((State.onCtl_usable _ ha h hu).trans (congrArg State.adpSettle (State.gotOpen_opens _ hst)))
  · exact next_congr ((State.onCtl_usable _ ha h hu).trans (congrArg State.adpSettle (State.gotOpen_same hst he)))
  · exact next_congr ((State.onCtl_usable _ ha h hu).trans (congrArg State.adpSettle (State.gotOpen_again hst he)))
  · rcases hx with hx | hx
    · exact next_congr (State.onCtl_unusable _ ha h hx)
    · refine next_congr ((State.onCtl_some _ ha h).trans ?_)
      split
      · exact State.gotOpenAck_idle _ hx
      · rfl
  · exact next_congr ((State.onCtl_usable _ ha h hu).trans (State.gotOpenAck_opens _ hst))
  · rcases hx with hx | hx
    · exact next_congr (State.onCtl_unusable _ ha h hx)
    · exact next_congr ((State.onCtl_some _ ha h).trans ((ite_congr rfl (fun _ => if_neg hx) fun _ => rfl).trans (ite_self _)))
  · exact next_congr ((State.onCtl_usable _ ha h hu).trans (if_pos hst))
  · exact next_congr (State.onCtl_usable _ ha h hu)
  · have hopen : exec (.openCommand path peer) s = .next (s.srnOpen peer) := next_congr (State.asked_answered ha _)
    have hclose : exec (.closeCommand path peer) s = .next (s.srnClose peer).adpSettle := next_congr (State.asked_answered ha _)
    have hreload : exec (.reload path) s = .next (s.srnReload path) := next_congr (State.asked_answered ha _)
    rw [hopen, hclose, hreload]
    exact ⟨fun hu h => next_congr (State.srnOpen_opens hu h), fun h => next_congr (State.srnOpen_idle h), rfl,
      fun h => next_congr (State.srnReload_enabled path h), fun d h hd => next_congr (State.srnReload_reads path h hd),
      fun h hd => next_congr (State.srnReload_fails path h hd)⟩
  · exact next_congr (if_neg (by rw [ha]; simp))
  · simp only [List.mem_cons, List.not_mem_nil, or_false] at hx
    rcases hx with rfl | rfl | rfl
    · exact next_congr (if_neg (by rw [ha]; simp))
    · exact next_congr (if_neg (by rw [ha]; simp))
    · exact next_congr (if_neg (by rw [ha]; simp))
  · refine next_congr ((if_pos (by rw [ha, h]; rfl)).trans (congrArg (State.each s [0, 1]) ?_))
    funext t ch
    refine ite_congr (propext ?_) (fun _ => rfl) fun _ => rfl
    rw [Bool.and_eq_true, decide_eq_true_iff, decide_eq_true_iff]
  · exact next_congr (if_neg (by rw [ha]; simpa using h))
  · exact next_congr (if_neg (by rw [State.none_expired h, Bool.and_false]; decide))
  · exact next_congr ((if_pos (by rw [ha, State.any_expired ho]; rfl)).trans (congrArg State.adpSettle (State.retxTimeout_idle h)))
  · exact next_congr ((if_pos (by rw [ha, State.any_expired ho]; rfl)).trans (congrArg State.adpSettle (State.retxTimeout_resends ho h hr)))
  · exact next_congr ((if_pos (by rw [ha, State.any_expired ho]; rfl)).trans (congrArg State.adpSettle (State.retxTimeout_gives ho h hr)))
  · refine next_congr (if_pos ?_)
    rw [ha, h.1, State.openDue_iff.mpr h.2]
    rfl
  · refine next_congr (if_neg ?_)
    rw [ha, Bool.true_and, Bool.and_eq_true, State.openDue_iff]
    exact h
  · refine next_congr (if_pos ?_)
    rw [ha, Bool.true_and, Bool.and_eq_true, decide_eq_true_iff, decide_eq_true_iff]
    exact h
  · refine next_congr (if_neg ?_)
    rw [ha, Bool.true_and, Bool.and_eq_true, decide_eq_true_iff, decide_eq_true_iff]
    exact h

end Sys2Proof.Machine
end

section
/-! PROOFS. Pounds that drain in a lock, and opening calibrations (R82, R234, R237, R238, R242, R251, R263, R305, R312). -/
namespace Sys2Proof.Machine
open Sys2Proof

section
variable {s : State}

/-! ### A closing pound -/

/-- Something of the old version can still reach a pound, or a split holds one of its arrays (R82, R238). -/
def State.poundHeld (s : State) (m : Nat) (q : PoundLock) (img : Image) : Prop :=
  q.st ≠ .closing ∨ s.canReach m q = true ∨ ((s.model m).lockArrays img q).any (fun t => s.splitHolds t.1 t.2) = true

theorem State.poundHeld_free {m : Nat} {q : PoundLock} {img : Image} (hst : q.st = .closing) (hr : s.canReach m q = false)
    (hsp : ((s.model m).lockArrays img q).any (fun t => s.splitHolds t.1 t.2) = false) : ¬ s.poundHeld m q img := by
  rintro (h | h | h)
  · exact h hst
  · exact absurd h (ne_true_of_eq_false hr)
  · exact absurd h (ne_true_of_eq_false hsp)

theorem State.poundDrained_none {m p : Nat} (h : (s.model m).pound p = none ∨ (s.model m).next = none) : s.poundDrained m p = s := by
  unfold State.poundDrained
  extract_lets x
  split
  · next q img hq hn =>
    rcases h with h | h
    · exact nomatch hq.symm.trans h
    · exact nomatch hn.symm.trans h
  · rfl

section
variable {m p : Nat} {q : PoundLock} {img : Image} (hq : (s.model m).pound p = some q) (hn : (s.model m).next = some img)
include hq hn

theorem State.poundDrained_some : s.poundDrained m p =
    if q.st ≠ .closing || s.canReach m q || ((s.model m).lockArrays img q).any (fun (c, l) => s.splitHolds c l) then s else s.leaveV m q img false := by
  unfold State.poundDrained
  extract_lets x
  rw [show x.pound p = some q from hq, show x.next = some img from hn] <;> rfl

theorem State.poundDrained_held (h : s.poundHeld m q img) : s.poundDrained m p = s := by
  refine (State.poundDrained_some hq hn).trans (if_pos ?_)
  rw [Bool.or_eq_true, Bool.or_eq_true, decide_eq_true_iff, or_assoc]
  exact h

theorem State.poundDrained_leaves (h : ¬ s.poundHeld m q img) : s.poundDrained m p = s.leaveV m q img false := by
  refine (State.poundDrained_some hq hn).trans (if_neg ?_)
  rw [Bool.or_eq_true, Bool.or_eq_true, decide_eq_true_iff, or_assoc]
  exact h

end

section
variable {m : Nat} {q : PoundLock} {img : Image}

/-- A pound no layer of which changes opens at the new version (R238). -/
theorem State.leaveV_unchanged (resume : Bool) (h : (s.model m).lockArrays img q = []) : s.leaveV m q img resume =
    (((s.modLock m q.first (fun q => { q with st := .open_, version := img.version, setNo := (s.model m).nextSet })).lockStore).imgRaise 7
      (evPound 0x6013 0 q.first (1 + 2 ^ 32 * img.version))).lockAdvance m :=
  if_pos (by rw [h]; rfl)

/-- A closing pound with layers that change leaves service and is filled (R238). -/
theorem State.leaveV_changed (resume : Bool) (h : (s.model m).lockArrays img q ≠ []) (hst : q.st = .closing) : s.leaveV m q img resume =
    ((s.imgRaise 6 (evPound 0x6012 0 q.first (((s.model m).lockTiles img q).length + 2 ^ 32 * img.version))).each
      ((s.model m).lockArrays img q) (fun t (c, l) => t.unserve c l)).fillPound m q.first 0 ((s.model m).lockTiles img q) resume := by
  unfold State.leaveV
  extract_lets x p tiles names was s1
  have hs : s1 = s.imgRaise 6 (evPound 0x6012 0 q.first (((s.model m).lockTiles img q).length + 2 ^ 32 * img.version)) :=
    if_neg (by simp only [was, hst]; decide)
  rw [← hs]
  exact if_neg (by rw [List.isEmpty_iff]; exact h)

end

/-! ### Opening calibrations -/

section
variable {img : Image} {layer i a : Nat} {cm : CalCodes}

theorem State.openRun_unreferenced (h : s.openRefs img layer i = none) : s.openRun img layer i a cm = s.openBad a 1 := by
  unfold State.openRun
  rw [h] <;> rfl

/-- The 1,152 conversions of an opening calibration counted (R263, R420). -/
def State.openCounted (s : State) (a : Nat) : State := s.count (a / 17) 6 1152

/-- An opening calibration once its reference is read (R263). -/
def State.openMeasured (s : State) (fb a : Nat) (cm : CalCodes) (x : OpenFit) : Nat × State :=
  if s.fitCause a fb cm x ≠ 0 then ((s.openCounted a).nullSwap a fb cm).openBad a (s.fitCause a fb cm x)
  else (0, (((s.openCounted a).nullSwap a fb cm).setFactors a (s.openFactors a fb cm x).1 (s.openFactors a fb cm x).2 false).modArr a
    (fun y => { y with lastGood := s.time }))

theorem State.openRun_referenced {plane : List (List Byte)} {probe : List Byte} (h : s.openRefs img layer i = some (plane, probe)) :
    s.openRun img layer i a cm = if !nullAgree cm then (s.openCounted a).openBad a 3
      else s.openMeasured (blockFb (img.statsOf layer i)) a cm (openFit (blockFb (img.statsOf layer i)) plane probe cm) := by
  unfold State.openRun State.openMeasured State.openCounted
  rw [h] <;> rfl

end

/-- The pound whose filling an array's calibration belongs to, and the array's layer in it. -/
def State.fillOwner (s : State) (c a : Nat) : Option (Nat × PoundLock × Nat) :=
  (s.poundOf c).bind (fun (mo, q) => if q.st = .filling then
    (q.arrays.find? (fun (k, l) => decide (k = c) && decide (s.fillArr q k l = a))).map (fun (_, l) => (mo, q, l)) else none)

/-- An opening calibration that no command asked for (R242, R305). -/
def State.openingOwn (s : State) (c sl : Nat) (cm : CalCodes) : State :=
  match s.fillOwner c (arrId c sl) with
  | some (m, q, l) => s.fillCal m q c l (arrId c sl) cm
  | none =>
    if (s.core c).noSpare || (s.core c).spare ≠ sl then s
    else match (s.core c).autoFor with
      | some l => s.spareCal c l true cm
      | none => if (s.core c).rotating && !(s.core c).replayOn then s.spareCal c (s.core c).rotTarget false cm else s

/-- A commanded opening calibration (R263). -/
def State.openingTold (s : State) (c sl : Nat) (cm : CalCodes) : State :=
  match s.openHolder c sl with
  | none => (s.openResult c sl 1).openFail (arrId c sl) 1
  | some (_, h) => (s.openRun h.img h.pl.layer h.idx (arrId c sl) cm).2.openResult c sl (s.openRun h.img h.pl.layer h.idx (arrId c sl) cm).1

theorem State.openingDone_eq (c sl : Nat) (cm : CalCodes) : s.openingDone c sl cm =
    if (s.arr (arrId c sl)).st ≠ .ready then
      if (s.core c).openings.contains sl then (s.openResult c sl 2).openFail (arrId c sl) 2 else s
    else if (s.core c).openings.contains sl then s.openingTold c sl cm else s.openingOwn c sl cm := by
  unfold State.openingDone State.openingTold State.openingOwn State.fillOwner
  rfl

section
variable {c sl : Nat} (cm : CalCodes)

theorem State.openingTold_unheld (h : s.openHolder c sl = none) : s.openingTold c sl cm = (s.openResult c sl 1).openFail (arrId c sl) 1 := by
  unfold State.openingTold
  rw [h] <;> rfl

theorem State.openingTold_held {l : Nat} {h : Holder} (hh : s.openHolder c sl = some (l, h)) : s.openingTold c sl cm =
    (s.openRun h.img h.pl.layer h.idx (arrId c sl) cm).2.openResult c sl (s.openRun h.img h.pl.layer h.idx (arrId c sl) cm).1 := by
  unfold State.openingTold
  rw [hh] <;> rfl

theorem State.openingOwn_fills {mo : Nat} {q : PoundLock} {l : Nat} (h : s.fillOwner c (arrId c sl) = some (mo, q, l)) :
    s.openingOwn c sl cm = s.fillCal mo q c l (arrId c sl) cm := by
  unfold State.openingOwn
  rw [h] <;> rfl

section
variable (h : s.fillOwner c (arrId c sl) = none)
include h

theorem State.openingOwn_other (hs : (s.core c).noSpare = true ∨ (s.core c).spare ≠ sl) : s.openingOwn c sl cm = s := by
  unfold State.openingOwn
  rw [h]
  exact if_pos (by rw [Bool.or_eq_true, decide_eq_true_iff]; exact hs)

section
variable (hn : (s.core c).noSpare = false) (hs : (s.core c).spare = sl)
include hn hs

theorem State.openingOwn_auto {l : Nat} (ha : (s.core c).autoFor = some l) : s.openingOwn c sl cm = s.spareCal c l true cm := by
  unfold State.openingOwn
  rw [h]
  dsimp only
  rw [if_neg (by rw [hn, hs]; simp), ha] <;> rfl

theorem State.openingOwn_rotates (ha : (s.core c).autoFor = none) :
    s.openingOwn c sl cm = if (s.core c).rotating && !(s.core c).replayOn then s.spareCal c (s.core c).rotTarget false cm else s := by
  unfold State.openingOwn
  rw [h]
  dsimp only
  rw [if_neg (by rw [hn, hs]; simp), ha] <;> rfl

end

end

end

end

/-- Settles O43: a pound that nothing of the old version reaches leaves it, and an opening calibration goes to the command, the pound or the spare that waits for it. -/
theorem lockPoundDrains : Obligations.LockPoundDrains := by
  unfold Obligations.LockPoundDrains
  refine ⟨fun s model p => ⟨fun h => ?_, fun q img ha hq hn => ⟨fun h => ?_, fun hst hr hsp => ⟨fun hnames => ?_, fun hnames => ?_⟩⟩⟩,
    fun s img layer i a cm => ⟨State.openRun_unreferenced, fun plane probe h => ⟨fun hn => ?_, fun hn => ⟨fun hf => ?_, fun hf => ?_⟩⟩⟩,
    fun s c sl m => ⟨fun ha => next_if_neg ha _ _, fun ha hst => ?_, fun ha hst => ?_⟩⟩
  · rcases h with h | h
    · exact next_if_neg h _ _
    · refine next_congr ?_
      split
      · exact State.poundDrained_none h
      · rfl
  · exact next_congr ((if_pos ha).trans (State.poundDrained_held hq hn h))
  · exact next_congr ((if_pos ha).trans ((State.poundDrained_leaves hq hn (State.poundHeld_free hst hr hsp)).trans (State.leaveV_unchanged false hnames)))
  · exact next_congr ((if_pos ha).trans ((State.poundDrained_leaves hq hn (State.poundHeld_free hst hr hsp)).trans (State.leaveV_changed false hnames hst)))
  · exact (State.openRun_referenced h).trans (if_pos (by rw [hn]; rfl))
  · exact (State.openRun_referenced h).trans ((if_neg (by rw [hn]; decide)).trans (if_pos hf))
  · exact (State.openRun_referenced h).trans ((if_neg (by rw [hn]; decide)).trans (if_neg (not_not_intro hf)))
  · have hgo : exec (.openingCalibrationDone c sl m) s = .next (s.openingDone c sl m) := next_congr (if_pos ha)
    rw [hgo, State.openingDone_eq]
    exact next_congr (if_pos hst)
  · have hgo : exec (.openingCalibrationDone c sl m) s = .next (if (s.core c).openings.contains sl.val then s.openingTold c sl m
        else s.openingOwn c sl m) :=
      next_congr ((if_pos ha).trans ((State.openingDone_eq ..).trans (if_neg (not_not_intro hst))))
    rw [hgo]
    refine ⟨fun ht h => next_congr ((if_pos ht).trans (State.openingTold_unheld m h)), fun l h ht hh => next_congr ((if_pos ht).trans (State.openingTold_held m hh)),
      fun mo q l ht h => next_congr ((if_neg (ne_true_of_eq_false ht)).trans (State.openingOwn_fills m h)),
      fun ht h hn hs => ⟨fun l hl => next_congr ((if_neg (ne_true_of_eq_false ht)).trans (State.openingOwn_auto m h hn hs hl)),
        fun hl => next_congr ((if_neg (ne_true_of_eq_false ht)).trans (State.openingOwn_rotates m h hn hs hl))⟩,
      fun ht h hs => next_congr ((if_neg (ne_true_of_eq_false ht)).trans (State.openingOwn_other m h hs))⟩

end Sys2Proof.Machine
end

section
/-! PROOFS. An installation keeps the image it takes as the current one (R234, R235, R242). -/
namespace Sys2Proof.Machine
open Sys2Proof

theorem fielded_models : Fielded State.models :=
  ⟨quiet_models, fun _ _ => rfl, fun _ _ => rfl, fun _ _ => rfl, fun _ _ => rfl, fun _ _ => rfl⟩

namespace Fielded
variable {β : Type} {φ : State → β} (h : Fielded φ) (s : State)
include h

theorem storeNow (page : Nat) : φ (s.storeNow page) = φ s := by
  unfold State.storeNow
  split
  · exact h.touch ..
  · exact h.storePage ..

theorem serve (c l : Nat) : φ (s.serve c l) = φ s := by
  unfold State.serve
  dsimp only
  split
  · exact (h.storeArr ..).trans (h.modArr ..)
  · rfl

theorem loadBounds (img : Image) (ref : Bool) (tl : Tile) : φ (s.loadBounds img ref tl) = φ s := by
  obtain ⟨pl, t, e, c⟩ := tl
  unfold State.loadBounds
  exact (h.modCore ..).trans (h.modCore ..)

theorem calReload (c l : Nat) : φ (s.calReload c l) = φ s := State.calReload_keeps s φ h.modCore h.flag h.raise c l

theorem calSubstitute (c set : Nat) : φ (s.calSubstitute c set) = φ s := State.calSubstitute_keeps s φ h.modCore c set

theorem calBegin (c set : Nat) : φ (s.calBegin c set) = φ s := by
  unfold State.calBegin
  dsimp only
  split
  · exact h.modCore ..
  · rfl

theorem autoAgain : φ s.autoAgain = φ s := by
  unfold State.autoAgain
  split
  · rfl
  · refine State.each_keeps φ (fun t c => State.each_keeps φ (fun u l => ?_) t _) s _
    split
    · rfl
    · exact h.autoSpare ..

/-- The array a substitution retires leaves service. -/
theorem retire (c : Prop) [Decidable c] (a : Nat) : φ (if c then (s.modArr a (fun y => { y with st := .ready, session := none })).storeArr a false else s) = φ s := by
  split
  · exact (h.storeArr ..).trans (h.modArr ..)
  · rfl

theorem substitute (c l : Nat) : φ (s.substitute c l) = φ s := by
  unfold State.substitute
  extract_lets x p n was s1 s2 s3 s4 others
  have h1 : φ s1 = φ s := h.retire s was _
  have h2 : φ s2 = φ s := ((h.storeArr ..).trans (h.modArr ..)).trans h1
  have h4 : φ s4 = φ s := (h.degrade ..).trans ((h.calSubstitute ..).trans ((h.calReload ..).trans ((h.storeNow ..).trans ((h.modCore ..).trans h2))))
  exact (State.each_keeps φ (fun t m => h.noSpareFor t ..) s4 others).trans h4

end Fielded

/-- Model `m` installs an image, serves it, or has stalled, with the image current and its reference copy there. -/
structure State.Installs (m : Nat) (img : Image) (s : State) : Prop where
  sorted : NMap.sorted s.models = true
  mst : (s.model m).mst = .installing ∨ (s.model m).mst = .stalled ∨ (s.model m).mst = .serving
  cur : (s.model m).cur = some img
  refCur : (s.model m).refCur = true

namespace State.Installs
variable {s t : State} {m : Nat} {img : Image}

theorem congr (h : s.Installs m img) (e : t.models = s.models) : t.Installs m img := by
  have hm : t.model m = s.model m := State.model_congr e m
  exact ⟨e ▸ h.sorted, hm ▸ h.mst, hm ▸ h.cur, hm ▸ h.refCur⟩

theorem each {α : Type} {f : State → α → State} (hf : ∀ t x, t.Installs m img → (f t x).Installs m img) (xs : List α)
    (h : s.Installs m img) : (s.each xs f).Installs m img := foldl_keeps (P := fun t : State => t.Installs m img) hf xs h

theorem of_modModel (h : NMap.sorted s.models = true) {f : Model → Model}
    (hst : (f (s.model m)).mst = .installing ∨ (f (s.model m)).mst = .stalled ∨ (f (s.model m)).mst = .serving)
    (hcur : (f (s.model m)).cur = some img) (href : (f (s.model m)).refCur = true) : (s.modModel m f).Installs m img := by
  have hm : (s.modModel m f).model m = f (s.model m) := NMap.get_set_self _ _ _ h
  exact ⟨NMap.sorted_set _ _ _ h, hm ▸ hst, hm ▸ hcur, hm ▸ href⟩

theorem modModel (h : s.Installs m img) {f : Model → Model}
    (hst : (f (s.model m)).mst = .installing ∨ (f (s.model m)).mst = .stalled ∨ (f (s.model m)).mst = .serving)
    (hcur : (f (s.model m)).cur = (s.model m).cur) (href : (f (s.model m)).refCur = (s.model m).refCur) : (s.modModel m f).Installs m img :=
  of_modModel h.sorted hst (hcur.trans h.cur) (href.trans h.refCur)

theorem modLock (h : s.Installs m img) (p : Nat) (f : PoundLock → PoundLock) : (s.modLock m p f).Installs m img :=
  h.modModel h.mst rfl rfl

theorem stallPound (h : s.Installs m img) (p c l : Nat) : (s.stallPound m p c l).Installs m img := by
  have hmod : (s.modModel m (fun y => { y with
      mst := .stalled, prior := if (s.model m).mst = .stalled then (s.model m).prior else (s.model m).mst })).Installs m img :=
    h.modModel (.inr (.inl rfl)) rfl rfl
  exact ((hmod.modLock p _).congr (State.lockStore_models _)).congr (quiet_models.imgRaise ..)

theorem fillFailed (h : s.Installs m img) (p c l : Nat) : (s.fillFailed m p c l).Installs m img := by
  unfold State.fillFailed
  split
  · exact h
  · dsimp only
    split
    · split
      · exact h.modLock ..
      · exact (h.modLock ..).stallPound ..
    · split
      · exact ((h.congr (fielded_models.startTile ..)).congr (fielded_models.modCore ..)).modLock ..
      · exact h

theorem lockAdvance (h : s.Installs m img) : (s.lockAdvance m).Installs m img := by
  have hlocking : (s.model m).mst ≠ .locking := fun e => by rcases h.mst with h | h | h <;> exact nomatch e.symm.trans h
  have hloading : (s.model m).mst ≠ .loadingSet := fun e => by rcases h.mst with h | h | h <;> exact nomatch e.symm.trans h
  unfold State.lockAdvance
  extract_lets x at_ all copyB
  split
  · have hmod : (s.modModel m (fun y => { y with mst := .serving })).Installs m img := h.modModel (.inr (.inr rfl)) rfl rfl
    exact (hmod.congr (State.lockStore_models _)).congr (quiet_models.imgRaise ..)
  · rw [if_neg (by simp [x, hlocking]), if_neg (by simp [x, hloading]), if_neg (by simp [x, hlocking])]
    exact h

theorem openPound (h : s.Installs m img) (p : Nat) : (s.openPound m p).Installs m img := by
  unfold State.openPound
  split
  · extract_lets x inst tiles s1 s2 s3 s4 s5 s6
    have h1 : s1.Installs m img := h.congr (State.each_keeps State.models (fun t _ => fielded_models.substitute t ..) s _)
    have h2 : s2.Installs m img := h1.congr (State.each_keeps State.models (fun t _ => fielded_models.serve t ..) s1 _)
    have h3 : s3.Installs m img := h2.congr (State.each_keeps State.models (fun t _ => fielded_models.loadBounds t ..) s2 _)
    have h4 : s4.Installs m img :=
      h3.congr (State.each_keeps State.models (fun t _ => (fielded_models.calBegin ..).trans (fielded_models.calReload t ..)) s3 _)
    have h5 : s5.Installs m img := (h4.modLock ..).congr (State.lockStore_models _)
    refine lockAdvance ?_
    simp only [s6]
    split
    · exact h5
    · exact h5.congr (quiet_models.imgRaise ..)
  · exact h

end State.Installs

section
variable {s : State}

/-! ### INSTALL -/

/-- The model and its pounds as an INSTALL that is accepted begins (R234). -/
def State.installBegun (s : State) (m : Nat) (img : Image) : State :=
  (s.modModel m (fun y => { y with
      mst := .installing, cur := some (s.withStats img none), next := none, refCur := true, refNext := false, set := 0, nextSet := 0,
      tst := .both, hold := false, pounds := img.poundLocks })).each img.poundLocks (fun t q => t.modLock m q.first (fun q => { q with
    arrays := (img.tiles none q 0).map (fun (_, _, e, c) => (c, e.larr)) }))

/-- Its jobs, in ascending layer and grid order over all pounds (R234). -/
def State.installJobs (s : State) (m : Nat) (img : Image) : State :=
  s.each (sortBy (img.poundLocks.flatMap (fun q => (img.tiles none q 0).map (fun tl => (q.first, tl)))) (fun a b => a.2.1.layer ≤ b.2.1.layer))
    (fun t (p, pl, k, e, c) => if t.cannotStart (t.larr c e.larr) then t.fillFailed m p c e.larr
      else t.startTile img pl.layer k e 2 (t.larr c e.larr) false false)

/-- The pounds with no tile in set 0 open at once (R251). -/
def State.installOpened (s : State) (m : Nat) (img : Image) : State :=
  s.each img.poundLocks (fun t q => if (img.tiles none q 0).isEmpty then t.openPound m q.first else t)

theorem State.imgInstall_error {e : ImgErr} (h : s.imgAccept s.imgSel false (s.up && decide ((s.model s.imgSel).mst = .absent)) = .error e) :
    s.imgInstall = s.imgRefuse s.imgSel e := by
  unfold State.imgInstall
  dsimp only
  rw [h] <;> rfl

theorem State.imgInstall_ok {img : Image} (h : s.imgAccept s.imgSel false (s.up && decide ((s.model s.imgSel).mst = .absent)) = .ok img) :
    s.imgInstall = ((((s.installBegun s.imgSel img).installJobs s.imgSel img).installOpened s.imgSel img).lockStore).imgResult 0 := by
  unfold State.imgInstall
  dsimp only
  rw [h] <;> rfl

section
variable {m : Nat} {img : Image}

theorem State.installBegun_installs (h : NMap.sorted s.models = true) : (s.installBegun m img).Installs m (s.withStats img none) :=
   State.Installs.each (fun _ _ ht => ht.modLock ..) _ (State.Installs.of_modModel h (.inl rfl) rfl rfl)

theorem State.Installs.jobs {i : Image} (h : s.Installs m i) : (s.installJobs m img).Installs m i := by
  refine State.Installs.each (fun t ⟨p, pl, k, e, c⟩ ht => ?_) _ h
  dsimp only
  split
  · exact ht.fillFailed ..
  · exact ht.congr (fielded_models.startTile ..)

theorem State.Installs.opened {i : Image} (h : s.Installs m i) : (s.installOpened m img).Installs m i := by
  refine State.Installs.each (fun t q ht => ?_) _ h
  split
  · exact ht.openPound ..
  · exact ht

section
variable {lf lg : Nat} {cq : List Instr} (hS : s.Safe lf lg cq)
include hS

theorem State.installBegun_safe : (s.installBegun m img).Safe lf lg cq :=
  State.each_safe _ _ _ (State.modModel_safe s _ _ hS) fun t _ ht => State.modLock_safe t _ _ _ ht

theorem State.installJobs_safe : (s.installJobs m img).Safe lf lg cq := by
  refine State.each_safe _ _ _ hS fun t ⟨p, pl, k, e, c⟩ ht => ?_
  dsimp only
  split
  · exact State.fillFailed_safe t _ _ _ _ ht
  · exact State.startTile_safe t _ _ _ _ _ _ _ _ ht

theorem State.installOpened_safe : (s.installOpened m img).Safe lf lg cq := by
  refine State.each_safe _ _ _ hS fun t q ht => ?_
  split
  · exact State.openPound_safe t _ _ ht
  · exact ht

end

end

/-- An INSTALL that is accepted makes its image the current one and answers RESULT 0 (R228, R234). -/
theorem State.imgInstall_installs (hS : s.Inv) {img : Image}
    (h : s.imgAccept s.imgSel false (s.up && decide ((s.model s.imgSel).mst = .absent)) = .ok img) :
    s.imgInstall.Installs s.imgSel (s.withStats img none) ∧ s.imgInstall.rd .imgCmdStatus = 2 ^ 31 := by
  rw [State.imgInstall_ok h]
  have hsafe := State.installOpened_safe (m := s.imgSel) (img := img)
    (State.installJobs_safe (m := s.imgSel) (img := img) (State.installBegun_safe (m := s.imgSel) (img := img) hS))
  have hin := (State.installBegun_installs (s := s) (m := s.imgSel) (img := img) (NMap.sorted_of_wf hS.canon.models)).jobs (img := img) |>.opened (img := img)
  exact ⟨(hin.congr (State.lockStore_models _)).congr (quiet_models.imgResult _),
    (State.rd_imgResult (State.lockStore_safe _ hsafe) (by decide)).trans rfl⟩

end

end Sys2Proof.Machine
end

section
/-! PROOFS. Ending the requests of a model leaves the models as they are (R207, R235). -/
namespace Sys2Proof.Machine
open Sys2Proof

section
variable (s : State)

theorem State.modCtx_models (i : Nat) (f : Ctx → Ctx) : (s.modCtx i f).models = s.models := by
  rw [State.modCtx]
  exact State.setCtx_keeps State.models (fun _ _ => rfl) State.putMem_models i _

theorem State.putBlock_models (a : Nat) (d : List Byte) (m : Manifest) : (s.putBlock a d m).models = s.models :=
  (State.putMem_models ..).trans (State.putMem_models ..)

theorem State.copyBlocks_models (src dst n : Nat) : (s.copyBlocks src dst n).models = s.models := by
  refine State.each_keeps State.models (fun t i => ?_) s _
  split
  · exact State.putBlock_models ..
  · rfl

/-- A checkpoint copies blocks and changes its context (R319). -/
theorem State.checkpoint_models (c : Nat) : (s.checkpoint c).models = s.models := by
  have hput (t : State) (a : Nat) (d : List Byte) (m : Manifest) : (if t.inBlocks a blk then t.putBlock a d m else t).models = t.models := by
    split
    · exact State.putBlock_models ..
    · rfl
  have hslot (o : Option Nat) (f : Nat → Nat) (dst n : Nat) :
      (match o with | some i => s.copyBlocks (f i) dst n | none => s).models = s.models := by
    cases o with
    | none => rfl
    | some i => exact State.copyBlocks_models ..
  unfold State.checkpoint
  dsimp only
  split
  · rfl
  · split
    · rfl
    · split
      · exact (State.each_keeps State.models (fun _ _ => State.raise_models ..) _ _).trans (quiet_models.reportBad ..)
      · exact (State.modCtx_models ..).trans ((hput ..).trans ((State.copyBlocks_models ..).trans (hslot ..)))

theorem State.advanceCtx_models (v i : Nat) : (s.advanceCtx v i).models = s.models := by
  unfold State.advanceCtx
  dsimp only
  split
  · exact (State.checkpoint_models ..).trans (State.modCtx_models ..)
  · exact State.modCtx_models ..

theorem State.talDone_models (g v : Nat) (cs : List Nat) : (s.talDone g v cs).models = s.models := by
  unfold State.talDone
  split
  · rfl
  · exact (State.modTal_models ..).trans (State.each_keeps State.models (fun t c => by rw [State.talFold, State.modTal_models]) s cs)

theorem State.expressEnd_models (p : Nat) (q : Request) : (s.expressEnd p q).models = s.models := by
  unfold State.expressEnd
  dsimp only
  split
  · rfl
  · split
    · rfl
    · split
      · rfl
      · exact State.raise_models ..

theorem State.dropReq_models (r : Nat) : (s.dropReq r).models = s.models := by
  unfold State.dropReq
  dsimp only
  split
  · exact State.modCtx_models ..
  · rfl

theorem State.markAborted_models (r : Nat) : (s.markAborted r).models = s.models := by
  unfold State.markAborted
  split
  · rfl
  · rfl

theorem State.stallQueue_models (q cause : Nat) : (s.stallQueue q cause).models = s.models := by
  unfold State.stallQueue
  split
  · rfl
  · exact State.raise_models ..

theorem State.msixSend_models (n : Nat) : (s.msixSend n).models = s.models :=
  State.msixSend_keeps State.models (fun _ _ => rfl) (fun _ _ => rfl) s n

theorem State.cqFlush_models (q n : Nat) : (s.cqFlush q n).models = s.models := by
  have hput (host : Bool) (a : Nat) (r : List Byte) (f : Queue → Queue) :
      (((if host then s.putHost a r else s.putMem a r).modQueue q f).count ctrIo 1 1).models = s.models := by
    split
    · rfl
    · rfl
  induction n generalizing s with
  | zero => rfl
  | succ n ih =>
    rw [State.cqFlush]
    dsimp only
    split
    · rfl
    · split
      · rfl
      · split
        · exact State.stallQueue_models ..
        · refine (ih _ ?_).trans ?_
          · intro host a r f
            split
            · rfl
            · rfl
          · split
            · exact (State.msixSend_models ..).trans (hput ..)
            · exact hput ..

theorem State.putCpl_models (batch : Nat) (c : Cpl) : (s.putCpl batch c).models = s.models := by
  unfold State.putCpl
  dsimp only
  split
  · rfl
  · have hflush := State.cqFlush_models (s.modQueue c.queue (fun x => x.hold (c.bytes s.time))) c.queue (s.queue c.queue).records
    split
    · split
      · exact (quiet_models.srnSend ..).trans hflush
      · exact hflush
    · exact hflush

theorem State.reqRecord_models (r st dt : Nat) : (s.reqRecord r st dt).models = s.models := State.putCpl_models ..

theorem State.endRun_models (r : EntryRef) (st dt : Nat) : (s.endRun r st dt).models = s.models :=
  State.endRun_keeps State.models (fun _ _ => rfl) (fun _ _ => rfl) s r st dt

theorem State.forwardShut_models (r : EntryRef) (i : Nat) : (s.forwardShut r i).models = s.models := by
  refine (State.endRun_models ..).trans ?_
  split
  · rfl
  · exact (State.reqRecord_models ..).trans (State.markAborted_models ..)

theorem State.forwardIn_models (r : EntryRef) : (s.forwardIn r).models = s.models := by
  unfold State.forwardIn
  split
  · dsimp only
    split
    · exact State.forwardShut_models ..
    · split
      · rfl
      · split
        · exact State.endRun_models ..
        · rfl
  · rfl

theorem State.forwardNext_models : s.forwardNext.models = s.models := State.each_keeps State.models State.forwardIn_models s _

/-- A request that ends with no entry's outputs to send on leaves the models. -/
theorem State.requestEnd_models (p r : Nat) (ok : Bool) : (s.requestEnd p r ok none).models = s.models := by
  unfold State.requestEnd
  extract_lets q own ok cs cs' s1 s2 s3 s4
  have h1 : s1.models = s.models := State.each_keeps State.models (fun t i => State.advanceCtx_models t _ i) s cs'
  have h2 : s2.models = s1.models := by
    simp only [s2]
    split
    · exact State.talDone_models ..
    · rfl
  exact (State.dropReq_models ..).trans ((State.expressEnd_models ..).trans (h2.trans h1))

theorem State.abortWaiting_models (who : Nat → Bool) (detail : Nat) : (s.abortWaiting who detail).models = s.models := by
  unfold State.abortWaiting
  extract_lets ws rs s1 s2
  have h1 : s1.models = s.models := State.each_keeps State.models (fun _ _ => State.modPound_models ..) s _
  have h2 : s2.models = s1.models :=
    State.each_keeps State.models (fun t r => (State.reqRecord_models ..).trans (State.markAborted_models t r)) s1 rs
  refine (State.forwardNext_models _).trans ((State.each_keeps State.models (fun t r => ?_) s2 rs).trans (h2.trans h1))
  split
  · rfl
  · exact State.requestEnd_models ..

theorem State.abortService_models (who : Nat → Bool) (detail : Nat) : (s.abortService who detail).models = s.models :=
  (State.forwardNext_models _).trans (State.each_keeps State.models (fun _ _ => State.modPound_models ..) s _)

theorem State.abortModel_models (m : Nat) : (s.abortModel m).models = s.models :=
  (State.abortService_models ..).trans (State.abortWaiting_models ..)

end

end Sys2Proof.Machine
end

section
/-! PROOFS. Image commands that start, retry, discard or release a lock (R228, R230, R234, R235, R238, R241, R243, R251). -/
namespace Sys2Proof.Machine
open Sys2Proof

section
variable {s : State}

/-! ### The end of an image command: the lock record stored, and RESULT 0 -/

/-- A change of one model, stored in the lock record and answered with RESULT 0 (R243, R253). -/
def State.lockTold (s : State) (m : Nat) (f : Model → Model) : State := ((s.modModel m f).lockStore).imgResult 0

section
variable {m : Nat} {f : Model → Model}

theorem State.lockTold_models : (s.lockTold m f).models = (s.modModel m f).models :=
  (quiet_models.imgResult _).trans (State.lockStore_models _)

theorem State.lockTold_mem : (s.lockTold m f).mem = s.mem :=
  (quiet_mem.imgResult _).trans ((State.lockStore_mem _).trans (State.modModel_mem ..))

theorem State.lockTold_arrays : (s.lockTold m f).arrays = s.arrays :=
  (quiet_arrays.imgResult _).trans ((State.lockStore_arrays _).trans (State.modModel_arrays ..))

section
variable (hS : s.Inv)
include hS

theorem State.lockTold_model : (s.lockTold m f).model m = f (s.model m) :=
  (State.model_congr State.lockTold_models m).trans (State.model_modModel hS m f)

theorem State.lockTold_model_ne {i : Nat} (h : i ≠ m) : (s.lockTold m f).model i = s.model i :=
  (State.model_congr State.lockTold_models i).trans (State.model_modModel_ne hS f h)

theorem State.lockTold_rd : (s.lockTold m f).rd .imgCmdStatus = 2 ^ 31 :=
  (State.rd_imgResult (State.lockStore_safe _ (State.modModel_safe s m f hS)) (by decide)).trans rfl

end

end

/-! ### LOCK -/

section
variable {hold : Bool}

theorem State.imgLock_error {e : ImgErr} (h : s.imgAccept s.imgSel true (s.up && decide ((s.model s.imgSel).mst = .serving)) = .error e) :
    s.imgLock hold = s.imgRefuse s.imgSel e := by
  unfold State.imgLock
  dsimp only
  rw [h] <;> rfl

/-- The event of an accepted LOCK (R238). -/
def State.lockEvent (s : State) (m : Nat) (img : Image) : Event :=
  evModel 0x6011 0 m (((s.model m).cur.map (fun (i : Image) => i.version)).getD 0 + 2 ^ 32 * img.version)

/-- The model of a LOCK that is accepted, its pounds still as they were (R235, R238, R245). -/
def State.locked (s : State) (m : Nat) (img : Image) (hold : Bool) (y : Model) : Model :=
  { y with
    mst := .locking, next := some (s.withStats (img.withCarried (s.model m).cur) (s.model m).cur), refNext := true, nextSet := 0, hold := hold,
    tst := if img.twin then .fillB else .both }

theorem State.imgLock_ok {img : Image} (h : s.imgAccept s.imgSel true (s.up && decide ((s.model s.imgSel).mst = .serving)) = .ok img) :
    s.imgLock hold = ((((s.modModel s.imgSel (s.locked s.imgSel img hold)).closePounds s.imgSel (fun q => q.copyB || !img.twin)).lockStore).imgRaise 5
      (s.lockEvent s.imgSel img)).imgResult 0 := by
  unfold State.imgLock
  dsimp only
  rw [h] <;> rfl

end

section
variable (hS : s.Inv) {m : Nat} (f : Model → Model) (who : PoundLock → Bool)
include hS

/-- A model that changes and closes pounds (R238). -/
theorem State.closePounds_model : ((s.modModel m f).closePounds m who).model m =
    { f (s.model m) with pounds := (f (s.model m)).pounds.map (fun q => if who q then { q with st := .closing } else q) } :=
  (State.model_modModel (State.modModel_safe s m f hS) m _).trans (by rw [State.model_modModel hS])

theorem State.closePounds_inv : ((s.modModel m f).closePounds m who).Inv := State.closePounds_safe _ _ _ (State.modModel_safe s m f hS)

end

theorem State.imgLock_locks (hS : s.Inv) {img : Image} (hold : Bool)
    (h : s.imgAccept s.imgSel true (s.up && decide ((s.model s.imgSel).mst = .serving)) = .ok img) :
    ∃ t, s.imgLock hold = t ∧ (t.model s.imgSel).mst = .locking ∧
      (t.model s.imgSel).next = some (s.withStats (img.withCarried (s.model s.imgSel).cur) (s.model s.imgSel).cur) ∧
      (t.model s.imgSel).cur = (s.model s.imgSel).cur ∧ (t.model s.imgSel).hold = hold ∧
      (t.model s.imgSel).pounds = (s.model s.imgSel).pounds.map (fun q => if q.copyB || !img.twin then { q with st := .closing } else q) ∧
      t.rd .imgCmdStatus = 2 ^ 31 ∧ t.mem = s.mem ∧ t.arrays = s.arrays := by
  have hclosed := State.closePounds_model hS (m := s.imgSel) (s.locked s.imgSel img hold) (fun q => q.copyB || !img.twin)
  have hsafe := State.lockStore_safe _ (State.closePounds_inv hS (m := s.imgSel) (s.locked s.imgSel img hold) (fun q => q.copyB || !img.twin))
  have hmodel := (State.model_congr ((quiet_models.imgResult 0).trans ((quiet_models.imgRaise 5 (s.lockEvent s.imgSel img)).trans
    (State.lockStore_models ((s.modModel s.imgSel (s.locked s.imgSel img hold)).closePounds s.imgSel (fun q => q.copyB || !img.twin))))) s.imgSel).trans hclosed
  refine ⟨_, State.imgLock_ok h, (congrArg Model.mst hmodel).trans rfl, (congrArg Model.next hmodel).trans rfl, (congrArg Model.cur hmodel).trans rfl,
    (congrArg Model.hold hmodel).trans rfl, (congrArg Model.pounds hmodel).trans rfl,
    (State.rd_imgResult (State.imgRaise_safe _ _ _ hsafe) (by decide)).trans rfl, ?_, ?_⟩
  · exact (quiet_mem.imgResult _).trans ((quiet_mem.imgRaise ..).trans ((State.lockStore_mem _).trans
      ((State.modModel_mem ..).trans (State.modModel_mem ..))))
  · exact (quiet_arrays.imgResult _).trans ((quiet_arrays.imgRaise ..).trans ((State.lockStore_arrays _).trans
      ((State.modModel_arrays ..).trans (State.modModel_arrays ..))))

/-! ### LOAD_SET -/

/-- The model of a LOAD_SET that is accepted, its pounds still as they were (R251). -/
def Model.loading (img : Image) (set : Nat) (y : Model) : Model :=
  { y with mst := .loadingSet, next := some img, refNext := y.refCur, nextSet := set, hold := false }

theorem State.imgLoadSet_idle {set : Nat} (h : (s.model s.imgSel).cur = none ∨ (s.model s.imgSel).mst ≠ .serving) :
    s.imgLoadSet set = s.imgResult 5 := by
  unfold State.imgLoadSet
  dsimp only
  split
  · next img hc =>
    refine if_pos ?_
    rcases h with h | h
    · exact nomatch hc.symm.trans h
    · rw [Bool.or_eq_true, decide_eq_true_iff]
      exact .inr h
  · rfl

section
variable {img : Image} {set : Nat} (hup : s.up = true) (hc : (s.model s.imgSel).cur = some img) (hm : (s.model s.imgSel).mst = .serving)
include hup hc hm

theorem State.imgLoadSet_serving : s.imgLoadSet set = if !img.reload || decide (img.nsets ≤ set) then s.imgResult 1
    else (((s.modModel s.imgSel (Model.loading img set)).closePounds s.imgSel (fun _ => true)).lockStore).imgResult 0 := by
  unfold State.imgLoadSet
  dsimp only
  rw [hc]
  exact if_neg (by rw [hup, hm]; decide)

theorem State.imgLoadSet_refused (h : img.reload = false ∨ img.nsets ≤ set) : s.imgLoadSet set = s.imgResult 1 := by
  refine (State.imgLoadSet_serving hup hc hm).trans (if_pos ?_)
  rw [Bool.or_eq_true, decide_eq_true_iff, Bool.not_eq_true']
  exact h

theorem State.imgLoadSet_loads (hS : s.Inv) (hr : img.reload = true) (hn : set < img.nsets) : ∃ t, s.imgLoadSet set = t ∧
    (t.model s.imgSel).mst = .loadingSet ∧ (t.model s.imgSel).next = some img ∧ (t.model s.imgSel).nextSet = set ∧
    (t.model s.imgSel).pounds = (s.model s.imgSel).pounds.map (fun q => { q with st := .closing }) ∧
    t.rd .imgCmdStatus = 2 ^ 31 ∧ t.mem = s.mem ∧ t.arrays = s.arrays := by
  have hsafe := State.lockStore_safe _ (State.closePounds_inv hS (m := s.imgSel) (Model.loading img set) (fun _ => true))
  have hmodel := (State.model_congr ((quiet_models.imgResult 0).trans
    (State.lockStore_models ((s.modModel s.imgSel (Model.loading img set)).closePounds s.imgSel (fun _ => true)))) s.imgSel).trans
    (State.closePounds_model hS ..)
  refine ⟨_, (State.imgLoadSet_serving hup hc hm).trans (if_neg ?_), (congrArg Model.mst hmodel).trans rfl, (congrArg Model.next hmodel).trans rfl,
    (congrArg Model.nextSet hmodel).trans rfl, (congrArg Model.pounds hmodel).trans rfl,
    (State.rd_imgResult hsafe (by decide)).trans rfl, ?_, ?_⟩
  · rw [hr, decide_eq_false (by omega)]
    decide
  · exact (quiet_mem.imgResult _).trans ((State.lockStore_mem _).trans ((State.modModel_mem ..).trans (State.modModel_mem ..)))
  · exact (quiet_arrays.imgResult _).trans ((State.lockStore_arrays _).trans ((State.modModel_arrays ..).trans (State.modModel_arrays ..)))

end

/-! ### RELEASE_HOLD -/

theorem State.imgReleaseHold_idle (h1 : (s.model s.imgSel).mst ≠ .locking) (h2 : (s.model s.imgSel).mst ≠ .stalled) :
    s.imgReleaseHold = s.imgResult 5 :=
  if_neg (by rw [Bool.or_eq_true, decide_eq_true_iff, decide_eq_true_iff]; exact fun h => h.elim h1 h2)

theorem State.imgReleaseHold_held (h : (s.model s.imgSel).mst = .locking ∨ (s.model s.imgSel).mst = .stalled) :
    s.imgReleaseHold = s.lockTold s.imgSel (fun y => { y with hold := false }) :=
  if_pos (by rw [Bool.or_eq_true, decide_eq_true_iff, decide_eq_true_iff]; exact h)

/-! ### DISCARD -/

/-- A model with nothing of an image but its staging (R235). -/
def Model.emptied (y : Model) : Model :=
  { sst := y.sst, rxFirst := y.rxFirst, rxSegs := y.rxSegs, rxBlocks := y.rxBlocks, rxBroken := y.rxBroken, rxBad := y.rxBad, rxGood := y.rxGood }

/-- The logical arrays of a model, which a DISCARD takes out of service (R235). -/
def State.modelArrays (s : State) (m : Nat) : List (Nat × Nat) :=
  ((s.model m).pounds.flatMap (fun q => (List.range (q.last + 1 - q.first)).flatMap (fun i => (List.range 16).map (fun l => (q.first + i, l))))).filter
    (fun (c, l) => (s.holders c l).any (fun h => h.model = m))

/-- The requests of a model ended and its arrays out of service (R235). -/
def State.discarding (s : State) (m : Nat) : State :=
  (s.abortModel m).each (s.modelArrays m) (fun t (c, l) => (t.unserve c l).modCore c (fun y => { y with residOf := y.residOf.filter (· ≠ l) }))

theorem State.imgDiscard_eq : s.imgDiscard =
    if !((s.model s.imgSel).mst = .serving || (s.model s.imgSel).mst = .stalled || (s.model s.imgSel).mst = .incomplete) then s.imgResult 5
    else ((((s.discarding s.imgSel).modModel s.imgSel Model.emptied).lockStore).forwardNext).imgResult 0 := rfl

theorem State.imgDiscard_idle (h : ¬ ((s.model s.imgSel).mst = .serving ∨ (s.model s.imgSel).mst = .stalled ∨ (s.model s.imgSel).mst = .incomplete)) :
    s.imgDiscard = s.imgResult 5 := by
  refine State.imgDiscard_eq.trans (if_pos ?_)
  rw [Bool.not_eq_true', Bool.eq_false_iff, ne_eq, Bool.or_eq_true, Bool.or_eq_true, decide_eq_true_iff, decide_eq_true_iff, decide_eq_true_iff, or_assoc]
  exact h

theorem State.discarding_models (m : Nat) : (s.discarding m).models = s.models :=
  (State.each_keeps State.models (fun t _ => (fielded_models.modCore ..).trans (fielded_models.unserve t ..)) _ _).trans (State.abortModel_models s m)

theorem State.discarding_safe {lf lg : Nat} {cq : List Instr} (hS : s.Safe lf lg cq) (m : Nat) : (s.discarding m).Safe lf lg cq :=
  State.each_safe _ _ _ (State.abortModel_safe s m hS) fun t _ ht => State.modCore_safe _ _ _ (State.unserve_safe t _ _ ht)

theorem State.imgDiscard_discards (hS : s.Inv)
    (h : (s.model s.imgSel).mst = .serving ∨ (s.model s.imgSel).mst = .stalled ∨ (s.model s.imgSel).mst = .incomplete) :
    ∃ t, s.imgDiscard = t ∧ (t.model s.imgSel).mst = .absent ∧ (t.model s.imgSel).cur = none ∧ (t.model s.imgSel).next = none ∧
      (t.model s.imgSel).pounds = [] ∧ (t.model s.imgSel).sst = (s.model s.imgSel).sst ∧ (∀ i, i ≠ s.imgSel → t.model i = s.model i) ∧
      t.rd .imgCmdStatus = 2 ^ 31 := by
  have hsafe := State.discarding_safe hS s.imgSel
  have hmodels : (((((s.discarding s.imgSel).modModel s.imgSel Model.emptied).lockStore).forwardNext).imgResult 0).models =
      ((s.discarding s.imgSel).modModel s.imgSel Model.emptied).models :=
    (quiet_models.imgResult 0).trans ((State.forwardNext_models _).trans (State.lockStore_models _))
  have hself := (State.model_congr hmodels s.imgSel).trans (State.model_modModel hsafe ..)
  refine ⟨_, State.imgDiscard_eq.trans (if_neg ?_), congrArg Model.mst hself, congrArg Model.cur hself, congrArg Model.next hself,
    congrArg Model.pounds hself, (congrArg Model.sst hself).trans ?_, fun i hi => ?_, ?_⟩
  · rw [Bool.not_eq_true', Bool.not_eq_false, Bool.or_eq_true, Bool.or_eq_true, decide_eq_true_iff, decide_eq_true_iff, decide_eq_true_iff, or_assoc]
    exact h
  · exact (congrArg Model.sst (State.model_congr (State.discarding_models _) _) : ((s.discarding s.imgSel).model s.imgSel).sst = _)
  · exact (State.model_congr hmodels i).trans ((State.model_modModel_ne hsafe _ hi).trans (State.model_congr (State.discarding_models _) i))
  · exact (State.rd_imgResult (State.forwardNext_safe _ (State.lockStore_safe _ (State.modModel_safe _ _ _ hsafe))) (by decide)).trans rfl

/-! ### RETRY -/

/-- An array whose fill failed, started again (R243). -/
def State.refill (s : State) (m : Nat) (x : Model) (q : PoundLock) (c l : Nat) : State :=
  match s.goalTile m q c l, x.goal with
  | some (pl, k, e, _), some img =>
    let a := s.fillArr q c l
    if s.cannotStart a then s.fillFailed m q.first c l
    else s.startTile img pl.layer k e (if x.prior = .installing || q.sub.contains (c, l) then 2 else 0) a false false
  | _, _ => s

/-- The stalled pounds of a model filling again (R235). -/
def State.unstalled (s : State) (m : Nat) (x : Model) : State :=
  (s.modModel m (fun y => { y with mst := x.prior })).each (x.pounds.filter (fun q => q.st = .stalled)) (fun t q =>
    (t.modLock m q.first (fun q => { q with st := .filling, failed := [], calFails := [] })).each q.failed (fun u (c, l) => u.refill m x q c l))

/-- The pounds that a power loss left behind the goal (R243, R245). -/
def Model.late (x : Model) : List PoundLock :=
  let late := x.pounds.filter (fun q => !(q.st = .open_ && x.goal.any (fun g => g.version = q.version) && q.setNo = x.goalSet))
  if x.tst = .fillB then late.filter (·.copyB) else late

/-- The pounds of an incomplete lock filled on (R243). -/
def State.resumed (s : State) (m : Nat) (x : Model) : State :=
  (s.modModel m (fun y => { y with mst := x.prior })).each x.late (fun t q =>
    match x.goal with
    | some img => if x.prior = .installing then t.fillPound m q.first 2 (img.tiles none q x.goalSet) true else t.leaveV m q img true
    | none => t)

theorem State.imgRetry_eq : s.imgRetry = if !s.up then s.imgResult 5
    else if (s.model s.imgSel).mst = .stalled then ((s.unstalled s.imgSel (s.model s.imgSel)).lockStore).imgResult 0
    else if (s.model s.imgSel).mst = .incomplete then
      (((s.resumed s.imgSel (s.model s.imgSel)).lockStore).lockAdvance s.imgSel).imgResult 0
    else s.imgResult 5 := by
  rw [State.imgRetry, State.unstalled, State.resumed, Model.late]
  rfl

section
variable {lf lg : Nat} {cq : List Instr} (hS : s.Safe lf lg cq) (m : Nat) (x : Model)
include hS

theorem State.refill_safe (q : PoundLock) (c l : Nat) : (s.refill m x q c l).Safe lf lg cq := by
  unfold State.refill
  split
  · dsimp only
    split
    · exact State.fillFailed_safe _ _ _ _ _ hS
    · exact State.startTile_safe _ _ _ _ _ _ _ _ _ hS
  · exact hS

theorem State.unstalled_safe : (s.unstalled m x).Safe lf lg cq :=
  State.each_safe _ _ _ (State.modModel_safe s m _ hS) fun t q ht =>
    State.each_safe _ _ _ (State.modLock_safe t m q.first _ ht) fun _ _ hu => State.refill_safe hu ..

theorem State.resumed_safe : (s.resumed m x).Safe lf lg cq := by
  refine State.each_safe _ _ _ (State.modModel_safe s m _ hS) fun t q ht => ?_
  split
  · split
    · exact State.fillPound_safe _ _ _ _ _ _ ht
    · exact State.leaveV_safe _ _ _ _ _ ht
  · exact ht

end

section
variable (hup : s.up = true)
include hup

theorem State.imgRetry_idle (h1 : (s.model s.imgSel).mst ≠ .stalled) (h2 : (s.model s.imgSel).mst ≠ .incomplete) : s.imgRetry = s.imgResult 5 :=
  State.imgRetry_eq.trans ((if_neg (by rw [hup]; decide)).trans ((if_neg h1).trans (if_neg h2)))

/-- RETRY of a stalled or an incomplete lock answers RESULT 0 (R243). -/
theorem State.imgRetry_accepted (hS : s.Inv) (h : (s.model s.imgSel).mst = .stalled ∨ (s.model s.imgSel).mst = .incomplete) :
    s.imgRetry.rd .imgCmdStatus = 2 ^ 31 := by
  rw [State.imgRetry_eq, if_neg (by rw [hup]; decide)]
  split
  · exact (State.rd_imgResult (State.lockStore_safe _ (State.unstalled_safe hS ..)) (by decide)).trans rfl
  · next hst =>
    rw [if_pos (h.resolve_left hst)]
    exact (State.rd_imgResult (State.lockAdvance_safe _ _ (State.lockStore_safe _ (State.resumed_safe hS ..))) (by decide)).trans rfl

end

/-! ### RESTAGE_REF -/

/-- The recorded image, its base that of the staged one where it is the same image (R230). -/
def rebased (img : Image) (o : Option Image) (b : Bool) : Option Image := if b then o.map (fun c => { c with base := img.base }) else o

/-- A model whose reference copy is there again (R230). -/
def Model.restaged (img : Image) (isCur isNext : Bool) (y : Model) : Model :=
  { y with
    cur := rebased img y.cur isCur, next := rebased img y.next isNext, refCur := y.refCur || isCur, refNext := y.refNext || isNext }

theorem State.imgRestage_absent (h : (s.model s.imgSel).mst = .absent) : s.imgRestage = s.imgResult 5 := if_pos h

theorem State.imgRestage_unstaged (h : (s.model s.imgSel).mst ≠ .absent) (hs : (s.model s.imgSel).sst ≠ .staged) :
    s.imgRestage = s.imgRefuse s.imgSel ⟨2, 0, none⟩ := (if_neg h).trans (if_pos hs)

section
variable (h : (s.model s.imgSel).mst ≠ .absent) (hs : (s.model s.imgSel).sst = .staged)
include h hs

theorem State.imgRestage_error {e : ImgErr} (hv : s.imgVerify s.stage = .error e) : s.imgRestage = s.imgRefuse s.imgSel e := by
  unfold State.imgRestage
  dsimp only
  rw [if_neg h, if_neg (not_not_intro hs), hv] <;> rfl

section
variable {img : Image} (hv : s.imgVerify s.stage = .ok img)
include hv

theorem State.imgRestage_ok : s.imgRestage =
    if !(s.model s.imgSel).cur.any (fun c => c.digest = img.digest) && !(s.model s.imgSel).next.any (fun c => c.digest = img.digest)
    then s.imgRefuse s.imgSel ⟨2, 0, none⟩
    else ((s.modModel s.imgSel (Model.restaged img ((s.model s.imgSel).cur.any (fun c => c.digest = img.digest))
      ((s.model s.imgSel).next.any (fun c => c.digest = img.digest)))).autoAgain).imgResult 0 := by
  unfold State.imgRestage
  dsimp only
  rw [if_neg h, if_neg (not_not_intro hs), hv] <;> rfl

theorem State.imgRestage_other (hc : (s.model s.imgSel).cur.any (fun c => c.digest = img.digest) = false)
    (hn : (s.model s.imgSel).next.any (fun c => c.digest = img.digest) = false) : s.imgRestage = s.imgRefuse s.imgSel ⟨2, 0, none⟩ :=
  (State.imgRestage_ok h hs hv).trans (if_pos (by rw [hc, hn]; rfl))

theorem State.imgRestage_restages (hS : s.Inv) {isCur isNext : Bool} (hc : (s.model s.imgSel).cur.any (fun c => c.digest = img.digest) = isCur)
    (hn : (s.model s.imgSel).next.any (fun c => c.digest = img.digest) = isNext) (hone : isCur = true ∨ isNext = true) :
    ∃ t, s.imgRestage = t ∧ t.model s.imgSel = (s.model s.imgSel).restaged img isCur isNext ∧ t.rd .imgCmdStatus = 2 ^ 31 := by
  subst hc hn
  refine ⟨_, (State.imgRestage_ok h hs hv).trans (if_neg ?_), ?_, ?_⟩
  · rcases hone with h | h <;> rw [h] <;> simp
  · exact (State.model_congr ((quiet_models.imgResult 0).trans (fielded_models.autoAgain _)) _).trans (State.model_modModel hS ..)
  · exact (State.rd_imgResult (State.autoAgain_safe _ (State.modModel_safe _ _ _ hS)) (by decide)).trans rfl

end

end

end

/-! ### The commands -/

theorem exec_imgCmd {s : State} {path : Path} (ha : s.answers path .img = true) (hup : s.up = true) (f : State → State) :
    (.next (s.asked path .img (fun t => t.imgWhenUp f)) : Out) = .next (f s) :=
  next_congr ((State.asked_answered ha _).trans (State.imgWhenUp_up f hup))

/-- Settles O42: each image command of the selected model acts where its state and the staged image allow it, and is refused otherwise. -/
theorem locks : Obligations.Locks := by
  unfold Obligations.Locks
  refine ⟨fun s path hold set hS ha hup => ⟨fun e he => ?_, fun img hi => ?_, fun e he => ?_, fun img hi => ?_, fun h => ?_,
    fun img hc hm => ⟨fun h => ?_, fun hr hn => ?_⟩⟩, fun s path hS ha hup => ⟨fun h => ?_, fun h1 h2 => ?_, fun h => ?_, fun h => ?_, fun h => ?_,
    fun h1 h2 => ?_, fun h => ?_, fun h hs => ?_, fun e h hs hv => ?_, fun img h hs hv => ⟨fun hc hn => ?_, fun hone => ?_⟩⟩⟩
  · exact (exec_imgCmd ha hup _).trans (next_congr (State.imgInstall_error (by rw [hup]; exact he)))
  · obtain ⟨hin, hrd⟩ := State.imgInstall_installs hS (by rw [hup]; exact hi)
    exact ⟨_, exec_imgCmd ha hup _, by rcases hin.mst with h | h | h <;> simp [h], hin.cur, hin.refCur, hrd⟩
  · exact (exec_imgCmd ha hup _).trans (next_congr (State.imgLock_error (by rw [hup]; exact he)))
  · obtain ⟨t, ht, hall⟩ := State.imgLock_locks hS hold (by rw [hup]; exact hi)
    exact ⟨t, (exec_imgCmd ha hup _).trans (next_congr ht), hall⟩
  · exact (exec_imgCmd ha hup _).trans (next_congr (State.imgLoadSet_idle h))
  · exact (exec_imgCmd ha hup _).trans (next_congr (State.imgLoadSet_refused hup hc hm h))
  · obtain ⟨t, ht, hall⟩ := State.imgLoadSet_loads hup hc hm hS hr hn
    exact ⟨t, (exec_imgCmd ha hup _).trans (next_congr ht), hall⟩
  · exact ⟨_, exec_imgCmd ha hup _, State.imgRetry_accepted hup hS h⟩
  · exact (exec_imgCmd ha hup _).trans (next_congr (State.imgRetry_idle hup h1 h2))
  · obtain ⟨t, ht, hall⟩ := State.imgDiscard_discards hS h
    exact ⟨t, (exec_imgCmd ha hup _).trans (next_congr ht), hall⟩
  · exact (exec_imgCmd ha hup _).trans (next_congr (State.imgDiscard_idle h))
  · exact ⟨_, (exec_imgCmd ha hup _).trans (next_congr (State.imgReleaseHold_held h)), State.lockTold_model hS,
      fun i hi => State.lockTold_model_ne hS hi, State.lockTold_rd hS, State.lockTold_mem, State.lockTold_arrays⟩
  · exact (exec_imgCmd ha hup _).trans (next_congr (State.imgReleaseHold_idle h1 h2))
  · exact (exec_imgCmd ha hup _).trans (next_congr (State.imgRestage_absent h))
  · exact (exec_imgCmd ha hup _).trans (next_congr (State.imgRestage_unstaged h hs))
  · exact (exec_imgCmd ha hup _).trans (next_congr (State.imgRestage_error h hs hv))
  · exact (exec_imgCmd ha hup _).trans (next_congr (State.imgRestage_other h hs hv hc hn))
  · obtain ⟨t, ht, hm, hrd⟩ := State.imgRestage_restages h hs hv hS rfl rfl hone
    refine ⟨t, (exec_imgCmd ha hup _).trans (next_congr ht), (congrArg Model.mst hm).trans rfl, (congrArg Model.refCur hm).trans rfl,
      (congrArg Model.refNext hm).trans rfl, fun c hc hcur => ?_, hrd⟩
    refine (congrArg Model.cur hm).trans ?_
    rw [Model.restaged, rebased, hc, if_pos (by rw [← hc]; exact hcur)] <;> rfl

end Sys2Proof.Machine
end

section
/-! PROOFS. Gains move in limited steps, and corrections take effect as a whole (R82, R255, R259, R265, R271 to R274). -/
namespace Sys2Proof.NMap

/-- A table with each listed key given its value. -/
theorem get_foldl_set_fn {α : Type} [DecidableEq α] (d : α) (f : Nat → α) (is : List Nat) {m : NMap α} (hs : sorted m = true) (j : Nat) :
    get d (is.foldl (fun m i => set d m i (f i)) m) j = if j ∈ is then f j else get d m j := by
  induction is generalizing m with
  | nil => rfl
  | cons i is ih =>
    rw [List.foldl_cons, ih (sorted_set d i (f i) hs)]
    by_cases hj : j = i
    · subst hj
      rw [get_set_self _ _ _ hs]
      simp
    · rw [get_set_ne _ _ _ hj hs]
      simp [hj]

end Sys2Proof.NMap

namespace Sys2Proof.Machine
open Sys2Proof

/-! ### The step of a gain word -/

theorem clampI_between {lim x : Int} (h : 0 ≤ lim) : min 0 x ≤ clampI (-lim) lim x ∧ clampI (-lim) lim x ≤ max 0 x ∧
    clampI (-lim) lim x ≤ lim ∧ -clampI (-lim) lim x ≤ lim ∧ (x ≤ lim → -x ≤ lim → clampI (-lim) lim x = x) := by
  unfold clampI
  split
  · omega
  · split
    · omega
    · omega

/-- The limit of a gain word's step, in its steps of 2^-17 (R265). -/
def gainLim (now : Nat) : Int := Rat.floor (gamma now * ((2 ^ 17 : Nat) : Rat) / 10000)

theorem gainStep_eq (now old new : Nat) : gainStep now old new = clampI (-gainLim now) (gainLim now) ((new : Int) - old) := rfl

theorem gamma_nonneg (now : Nat) : 0 ≤ gamma now := by
  have h : (0 : Rat) ≤ now := Rat.natCast_nonneg
  unfold gamma
  push_cast
  grind

theorem le_gainLim (now : Nat) (d : Int) : d ≤ gainLim now ↔ (d : Rat) / 2 ^ 17 ≤ gamma now / 10000 := by
  rw [gainLim, Rat.le_floor_iff]
  push_cast
  constructor
  · intro h
    grind
  · intro h
    grind

theorem gainLim_nonneg (now : Nat) : 0 ≤ gainLim now := by
  rw [le_gainLim]
  have h := gamma_nonneg now
  push_cast
  grind

/-! ### What the calibration of a set leaves of the gains the model gives -/

theorem quiet_cores : Quiet State.cores :=
  ⟨⟨fun _ _ => rfl, fun _ _ => rfl, fun _ _ => rfl, fun _ _ => rfl⟩, State.wr_cores, State.raise_cores⟩

section
variable {s : State} {lf lg : Nat} {cq : List Instr} (hS : s.Safe lf lg cq) (c set : Nat) (w : CalSet)
include hS

theorem State.core_setCal : (s.setCal c set w).core c = { s.core c with calSets := (s.core c).calSets.set {} set w } :=
  State.core_modCore hS c _

theorem State.cal_setCal (hsort : NMap.sorted (s.core c).calSets = true) : (s.setCal c set w).cal c set = w := by
  rw [State.cal, State.core_setCal hS]
  exact NMap.get_set_self _ _ _ hsort

theorem State.larr_setCal (l : Nat) : (s.setCal c set w).larr c l = s.larr c l := by
  rw [State.larr, State.core_setCal hS]
  rfl

theorem State.setOf_setCal (l : Nat) : (s.setCal c set w).setOf c l = s.setOf c l := by
  rw [State.setOf, State.larr_setCal hS]
  rfl

theorem State.calArrays_setCal : (s.setCal c set w).calArrays c set = s.calArrays c set := by
  rw [State.calArrays, State.setOf_setCal hS]
  rfl

theorem State.setW7_setCal : (s.setCal c set w).setW7 c set = s.setW7 c set := by
  rw [State.setW7, State.larr_setCal hS]
  rfl

theorem State.pairGain_setCal (l : Nat) (k : Rat) : (s.setCal c set w).pairGain c l k = s.pairGain c l k := by
  rw [State.pairGain, State.larr_setCal hS]
  rfl

theorem State.kAt_setCal (l pair : Nat) (pend : NMap Rat) : (s.setCal c set w).kAt c l pair pend = s.kAt c l pair pend := by
  rw [State.kAt, State.larr_setCal hS]
  rfl

theorem State.gainWord_setCal (ls : List (Nat × Nat)) (w7 : Bool) (col : Nat) (pend : NMap Rat) :
    (s.setCal c set w).gainWord c ls w7 col pend = s.gainWord c ls w7 col pend := by
  simp only [State.gainWord, State.pairGain_setCal hS, State.kAt_setCal hS]

theorem State.gainTable_setCal (pend : NMap Rat) : (s.setCal c set w).gainTable c set pend = s.gainTable c set pend := by
  simp only [State.gainTable, State.calArrays_setCal hS, State.setW7_setCal hS, State.gainWord_setCal hS]

/-- A set stands idle whatever its calibration. -/
theorem State.calQuiet_setCal : (s.setCal c set w).calQuiet c set = s.calQuiet c set := by
  have hsplits : (s.setCal c set w).setSplits c set = s.setSplits c set := by
    simp only [State.setSplits, State.calArrays_setCal hS, State.core_setCal hS]
  have hwaiting : (s.setCal c set w).setWaiting c set = s.setWaiting c set := by
    simp only [State.setWaiting, State.calArrays_setCal hS, State.core_setCal hS, State.larr_setCal hS]
    rfl
  have hconverts : (s.setCal c set w).setConverts c set = s.setConverts c set := by
    simp only [State.setConverts, State.calArrays_setCal hS, State.core_setCal hS]
  rw [State.calQuiet, hsplits, hwaiting, hconverts, State.calQuiet]

end

/-! ### Bringing a correction into force -/

section
variable (s : State)

theorem State.applyTrims_cores (c : Nat) (tr : NMap Int) : (s.applyTrims c tr).cores = s.cores := by
  unfold State.applyTrims
  split
  · rfl
  · exact (State.each_keeps State.cores (fun t _ => State.modArr_cores t ..) _ _).trans (State.each_keeps State.cores (fun t _ => State.modArr_cores t ..) s tr)

theorem State.applyTrims_mem (c : Nat) (tr : NMap Int) : (s.applyTrims c tr).mem = s.mem := by
  unfold State.applyTrims
  split
  · rfl
  · exact (State.each_keeps State.mem (fun t _ => State.modArr_mem t ..) _ _).trans (State.each_keeps State.mem (fun t _ => State.modArr_mem t ..) s tr)

theorem State.applyK_cores (c : Nat) (ks : NMap Rat) : (s.applyK c ks).cores = s.cores :=
  (State.each_keeps State.cores (fun t _ => State.modArr_cores t ..) _ _).trans (State.each_keeps State.cores (fun t _ => State.modArr_cores t ..) s ks)

theorem State.applyK_mem (c : Nat) (ks : NMap Rat) : (s.applyK c ks).mem = s.mem :=
  (State.each_keeps State.mem (fun t _ => State.modArr_mem t ..) _ _).trans (State.each_keeps State.mem (fun t _ => State.modArr_mem t ..) s ks)

end

/-- The set stands with the calibration given, but for the earlier tables it keeps, and memory is as it was. -/
def State.Brought (s t : State) (c set : Nat) (w : CalSet) : Prop := (∃ o, t.cal c set = { w with old := o }) ∧ t.mem = s.mem

section
variable {s t : State} {c set : Nat} {w : CalSet}

theorem State.Brought.congr {u : State} (h : s.Brought t c set w) (hc : u.cores = t.cores) (hm : u.mem = t.mem) : s.Brought u c set w := by
  obtain ⟨⟨o, ho⟩, hmem⟩ := h
  have hcal : u.cal c set = t.cal c set := by rw [State.cal, State.core, hc, State.cal, State.core]
  exact ⟨⟨o, hcal.trans ho⟩, hm.trans hmem⟩

/-- A gain table loaded once the masks and the factors have changed. -/
theorem State.setGains_brings {lf lg : Nat} {cq : List Instr} (ht : t.Safe lf lg cq) (hsort : NMap.sorted (s.core c).calSets = true)
    (hc : t.cores = s.cores) (hm : t.mem = s.mem) : s.Brought (t.setGains c set w) c set w := by
  have hcore : t.core c = s.core c := by rw [State.core, hc, State.core]
  exact ⟨⟨_, State.cal_setCal ht c set _ (hcore ▸ hsort)⟩, hm⟩

theorem State.Brought.gainRange (h : s.Brought t c set w) (bad : Option Nat) : s.Brought (t.gainRange c set bad) c set w := by
  unfold State.gainRange
  split
  · exact h.congr ((quiet_cores.raise ..).trans (quiet_cores.flag ..)) ((quiet_mem.raise ..).trans (quiet_mem.flag ..))
  · exact h

theorem State.Brought.calApplied (h : s.Brought t c set w) (gradual : Bool) (dTrim dGain : Nat) :
    s.Brought (t.calApplied c set gradual dTrim dGain) c set w :=
  h.congr ((quiet_cores.raise ..).trans (quiet_cores.flag ..)) ((quiet_mem.raise ..).trans (quiet_mem.flag ..))

section
variable {lf lg : Nat} {cq : List Instr} (hS : s.Safe lf lg cq) (hsort : NMap.sorted (s.core c).calSets = true)
include hS hsort

/-- A boundary-class correction brings the model's gains with its factors into force (R259, R273). -/
theorem State.calApply_brings : s.Brought (s.calApply c set) c set
    (((s.cal c set).load (s.gainTable c set (s.cal c set).kTo).1).restart.discard) := by
  have ht := State.applyK_safe _ c (s.cal c set).kTo (State.applyTrims_safe s c (s.cal c set).trimTo hS)
  exact ((State.setGains_brings ht hsort ((State.applyK_cores ..).trans (State.applyTrims_cores ..))
    ((State.applyK_mem ..).trans (State.applyTrims_mem ..))).gainRange _).calApplied ..

/-- The calibration of a set at step `k` of its ramp (R274). -/
def CalSet.ramped (r : CalSet) (k : Nat) : CalSet := { r.load (r.gainsAt k) with step := k, due := 0, idle := false }

/-- A step of a ramp before the last (R274). -/
theorem State.rampTo_brings (r : CalSet) {k : Nat} (hk : k < 256) : s.Brought (s.rampTo c set r k) c set (r.ramped k) := by
  have hgo : s.rampTo c set r k = (s.applyTrims c (r.trimsAt k)).setGains c set (r.ramped k) := if_pos hk
  rw [hgo]
  exact State.setGains_brings (State.applyTrims_safe s c _ hS) hsort (State.applyTrims_cores ..) (State.applyTrims_mem ..)

/-- The last step of a ramp, at which its correction is in force (R271, R274). -/
theorem State.rampTo_ends (r : CalSet) : s.Brought (s.rampTo c set r 256) c set (r.ramped 256).restart.discard := by
  have ht := State.applyK_safe _ c r.kTo (State.applyTrims_safe s c (r.trimsAt 256) hS)
  unfold State.rampTo
  dsimp only
  rw [if_neg (by decide)]
  exact (State.setGains_brings ht hsort ((State.applyK_cores ..).trans (State.applyTrims_cores ..))
    ((State.applyK_mem ..).trans (State.applyTrims_mem ..))).calApplied ..

end

theorem CalSet.ramped_active (r : CalSet) (k : Nat) (o : List (Nat × NMap Nat)) : ({ r.ramped k with old := o } : CalSet).active = r.gainsAt k := by
  rw [CalSet.ramped, CalSet.load]

theorem CalSet.ramped_ended (r : CalSet) (k : Nat) (o : List (Nat × NMap Nat)) :
    ({ (r.ramped k).restart.discard with old := o } : CalSet).st = .collect1 ∧ ({ (r.ramped k).restart.discard with old := o } : CalSet).step = 0 ∧
      ({ (r.ramped k).restart.discard with old := o } : CalSet).gen = r.gen + 1 := by
  rw [CalSet.ramped, CalSet.load, CalSet.restart, CalSet.discard]
  exact ⟨rfl, rfl, rfl⟩

theorem CalSet.ramped_gen (r : CalSet) (k : Nat) (o : List (Nat × NMap Nat)) : ({ r.ramped k with old := o } : CalSet).gen = r.gen + 1 ∧
    ({ r.ramped k with old := o } : CalSet).st = r.st ∧ ({ r.ramped k with old := o } : CalSet).step = k := by
  rw [CalSet.ramped, CalSet.load]
  exact ⟨rfl, rfl, rfl⟩

theorem CalSet.applied_eq (v : CalSet) (t : NMap Nat) (o : List (Nat × NMap Nat)) :
    ({ (v.load t).restart.discard with old := o } : CalSet).st = .collect1 ∧ ({ (v.load t).restart.discard with old := o } : CalSet).active = t ∧
      ({ (v.load t).restart.discard with old := o } : CalSet).gen = v.gen + 1 ∧ ({ (v.load t).restart.discard with old := o } : CalSet).target = [] :=
  ⟨rfl, rfl, rfl, rfl⟩

theorem CalSet.gainsAt_get (r : CalSet) (k : Nat) {col : Nat} (h : col < 512) : (((r.gainsAt k).get 0x8000 col : Nat) : Int) =
    max 0 (rampAt k (r.startGain.get 0x8000 col : Nat) (r.target.get 0x8000 col : Nat)) := by
  rw [CalSet.gainsAt, NMap.get_foldl_set_fn 0x8000
    (fun col => (rampAt k (r.startGain.get 0x8000 col : Nat) (r.target.get 0x8000 col : Nat)).toNat) _ rfl,
    if_pos (List.mem_range.2 h), Int.toNat_eq_max, Int.max_comm]

end

/-! ### A correction that is due -/

section
variable {s : State} (c set : Nat)

theorem State.calTake_applies (hd : (s.cal c set).due ≠ 0) (hst : (s.cal c set).st = .pending) (hg : (s.cal c set).grad = false) :
    s.calTake c set = s.calApply c set :=
  (if_neg hd).trans ((if_neg (by rw [hst, hg]; decide)).trans (if_pos hst))

/-- The set is in a ramp, or its gradual correction begins one (R274). -/
def CalSet.Ramps (v : CalSet) : Prop := v.st = .ramping ∨ (v.st = .pending ∧ v.grad = true)

theorem CalSet.ramps_iff (v : CalSet) : (v.st = .ramping || (v.st = .pending && v.grad)) = true ↔ v.Ramps := by
  rw [Bool.or_eq_true, Bool.and_eq_true, decide_eq_true_iff, decide_eq_true_iff, CalSet.Ramps]

theorem State.calTake_ramps (hd : (s.cal c set).due = 1) (hr : (s.cal c set).Ramps) :
    s.calTake c set = s.rampTo c set (s.rampFor c set) (min 256 ((s.rampFor c set).step + 1)) := by
  refine (if_neg (by omega)).trans ((if_pos ((CalSet.ramps_iff _).2 hr)).trans ?_)
  rw [hd]

/-- One correction or ramp step more is due (R272). -/
def CalSet.owing (v : CalSet) : CalSet := { v with due := v.due + 1 }

/-- The set with one correction or ramp step more due (R272). -/
def State.owed (s : State) (c set : Nat) : State := s.setCal c set (s.cal c set).owing

theorem State.calDue_eq : s.calDue c set = if (s.owed c set).calQuiet c set then (s.owed c set).calTake c set else s.owed c set := rfl

/-- A boundary-class correction of the set falls due (R273). -/
def State.Falls (s : State) (c set : Nat) : Prop :=
  (s.cal c set).st = .pending ∧ (s.cal c set).grad = false ∧ (s.cal c set).due = 0 ∧ (s.passBegins c set = true ∨ s.setRests c set = true)

theorem State.falls_iff : (decide ((s.cal c set).st ≠ .pending) || (s.cal c set).grad || decide ((s.cal c set).due ≠ 0) ||
    !(s.passBegins c set || s.setRests c set)) = true ↔ ¬ s.Falls c set := by
  simp only [State.Falls, Bool.or_eq_true, decide_eq_true_iff, Bool.not_eq_true', Bool.eq_false_iff, ne_eq]
  grind

theorem State.calSwitch_idle (h : ¬ s.Falls c set) : s.calSwitch c set = s := if_pos ((State.falls_iff c set).2 h)

theorem State.calSwitch_falls (h : s.Falls c set) : s.calSwitch c set = s.calDue c set :=
  if_neg fun hc => (State.falls_iff c set).1 hc h

theorem State.calRamp_idle (h : ¬ (s.cal c set).Ramps) : s.calRamp c set = s := if_neg fun hc => h ((CalSet.ramps_iff _).1 hc)

theorem State.calRamp_ramps (h : (s.cal c set).Ramps) : s.calRamp c set = s.calDue c set := if_pos ((CalSet.ramps_iff _).2 h)

theorem State.rampFor_ramping : (s.rampFor c set).st = .ramping ∧ (s.rampFor c set).gen = (s.cal c set).gen := by
  unfold State.rampFor
  split
  · next hst => exact ⟨hst, rfl⟩
  · exact ⟨rfl, rfl⟩

section
variable {lf lg : Nat} {cq : List Instr} (hS : s.Safe lf lg cq)
include hS

theorem State.calDue_waits (h : s.calQuiet c set = false) : s.calDue c set = s.owed c set :=
  (State.calDue_eq c set).trans (if_neg (by rw [State.owed, State.calQuiet_setCal hS, h]; decide))

theorem State.calDue_takes (h : s.calQuiet c set = true) : s.calDue c set = (s.owed c set).calTake c set :=
  (State.calDue_eq c set).trans (if_pos ((State.calQuiet_setCal hS ..).trans h))

theorem State.owed_safe : (s.owed c set).Safe lf lg cq := State.setCal_safe s c set _ hS

section
variable (hsort : NMap.sorted (s.core c).calSets = true)
include hsort

theorem State.cal_owed : (s.owed c set).cal c set = (s.cal c set).owing := State.cal_setCal hS c set _ hsort

theorem State.owed_sorted : NMap.sorted ((s.owed c set).core c).calSets = true := by
  rw [State.owed, State.core_setCal hS]
  exact NMap.sorted_set _ _ _ hsort

/-- A ramp goes from and to the same gains whether its step is counted yet or not. -/
theorem State.rampFor_owed : ((s.owed c set).rampFor c set).st = (s.rampFor c set).st ∧ ((s.owed c set).rampFor c set).step = (s.rampFor c set).step ∧
    ((s.owed c set).rampFor c set).gen = (s.rampFor c set).gen ∧ ((s.owed c set).rampFor c set).startGain = (s.rampFor c set).startGain ∧
    ((s.owed c set).rampFor c set).target = (s.rampFor c set).target := by
  unfold State.rampFor State.rampOf
  rw [State.cal_owed c set hS hsort, show (s.owed c set).gainTable c set = s.gainTable c set from funext fun p => State.gainTable_setCal hS c set _ p]
  have howing : (s.cal c set).owing.st = (s.cal c set).st := rfl
  by_cases hr : (s.cal c set).st = .ramping
  · rw [if_pos hr, if_pos (howing.trans hr)]
    exact ⟨rfl, rfl, rfl, rfl, rfl⟩
  · rw [if_neg hr, if_neg (howing ▸ hr)]
    exact ⟨rfl, rfl, rfl, rfl, rfl⟩

/-- A boundary-class correction that falls due on an idle set is in force at once (R259, R272, R273). -/
theorem State.calSwitch_brings (h : s.Falls c set) (hq : s.calQuiet c set = true) : (s.owed c set).Brought (s.calSwitch c set) c set
    ((s.cal c set).owing.load (s.gainTable c set (s.cal c set).kTo).1).restart.discard := by
  obtain ⟨hst, hg, -, -⟩ := id h
  have hcal := State.cal_owed c set hS hsort
  rw [State.calSwitch_falls c set h, State.calDue_takes c set hS hq, State.calTake_applies c set (by rw [hcal]; exact Nat.succ_ne_zero _)
    (by rw [hcal]; exact hst) (by rw [hcal]; exact hg)]
  have hb := State.calApply_brings (set := set) (State.owed_safe c set hS) (State.owed_sorted c set hS hsort)
  rwa [hcal, show (s.owed c set).gainTable c set = s.gainTable c set from funext fun p => State.gainTable_setCal hS c set _ p] at hb

section
variable (h : (s.cal c set).Ramps) (hq : s.calQuiet c set = true) (hd : (s.cal c set).due = 0)
include h hq hd

/-- A ramp step on an idle set is made at once (R272, R274). -/
theorem State.calRamp_takes : s.calRamp c set =
    (s.owed c set).rampTo c set ((s.owed c set).rampFor c set) (min 256 ((s.rampFor c set).step + 1)) := by
  have hcal := State.cal_owed c set hS hsort
  rw [State.calRamp_ramps c set h, State.calDue_takes c set hS hq,
    State.calTake_ramps c set (by rw [hcal, CalSet.owing, hd]) (by rw [hcal]; exact h), (State.rampFor_owed c set hS hsort).2.1]

end

end

end

end

/-- Settles O44: the step of a gain word is held to its limit, and a correction due on an idle set brings its whole gain table into force. -/
theorem correctionsApply : Obligations.CorrectionsApply := by
  unfold Obligations.CorrectionsApply
  refine ⟨fun now old new _ _ _ => ?_, fun s c set hS hsort => ⟨fun hw => ⟨next_congr (if_neg (ne_true_of_eq_false hw)),
    next_congr (if_neg (ne_true_of_eq_false hw))⟩, fun hw => ?_⟩⟩
  · obtain ⟨hmin, hmax, hup, hdown, hwhole⟩ := clampI_between (x := (new : Int) - old) (gainLim_nonneg now)
    dsimp only
    rw [gainStep_eq]
    refine ⟨⟨hmin, hmax⟩, ⟨(le_gainLim ..).1 hup, ?_⟩, fun h1 h2 => hwhole ((le_gainLim ..).2 ?_) ((le_gainLim ..).2 ?_)⟩
    · have h := (le_gainLim ..).1 hdown
      push_cast at h
      grind
    · push_cast
      exact h1
    · push_cast
      grind
  · have hswitch : exec (.calSwitchSlot c set) s = .next (s.calSwitch c set) := next_congr (if_pos hw)
    have hramp : exec (.calRampStep c set) s = .next (s.calRamp c set) := next_congr (if_pos hw)
    have howed : (s.owed c set).mem = s.mem := State.setCal_mem ..
    rw [hswitch, hramp]
    refine ⟨fun h => next_congr (State.calSwitch_idle c set h), fun h hq => ?_, fun h hq => ?_,
      fun h => next_congr (State.calRamp_idle c set h), fun h hq => ?_, fun h hq hd hk => ?_, fun h hq hd hk => ?_⟩
    · refine next_congr ((State.calSwitch_falls c set h).trans ((State.calDue_waits c set hS hq).trans ?_))
      rw [State.owed, CalSet.owing, h.2.2.1]
    · obtain ⟨⟨o, ho⟩, hmem⟩ := State.calSwitch_brings c set hS hsort h hq
      obtain ⟨hst, hactive, hgen, htarget⟩ := CalSet.applied_eq (s.cal c set).owing (s.gainTable c set (s.cal c set).kTo).1 o
      exact ⟨_, rfl, (congrArg CalSet.st ho).trans hst, (congrArg CalSet.active ho).trans hactive, (congrArg CalSet.gen ho).trans hgen,
        (congrArg CalSet.target ho).trans htarget, hmem.trans howed⟩
    · exact next_congr ((State.calRamp_ramps c set h).trans (State.calDue_waits c set hS hq))
    · obtain ⟨hst, hstep, hgen, hstart, htarget⟩ := State.rampFor_owed c set hS hsort
      obtain ⟨hramping, hgen0⟩ := State.rampFor_ramping (s := s) c set
      rw [State.calRamp_takes c set hS hsort h hq hd, Nat.min_eq_right (by omega)]
      obtain ⟨⟨o, ho⟩, hmem⟩ := State.rampTo_brings (State.owed_safe c set hS) (State.owed_sorted c set hS hsort)
        ((s.owed c set).rampFor c set) (k := (s.rampFor c set).step + 1) (by omega)
      obtain ⟨hg, hs, hk'⟩ := CalSet.ramped_gen ((s.owed c set).rampFor c set) ((s.rampFor c set).step + 1) o
      refine ⟨_, rfl, ?_, (congrArg CalSet.step ho).trans hk', ?_, fun col hcol => ?_, hmem.trans howed⟩
      · exact (congrArg CalSet.st ho).trans (hs.trans (hst.trans hramping))
      · exact (congrArg CalSet.gen ho).trans (hg.trans (congrArg (· + 1) (hgen.trans hgen0)))
      · have hactive := (congrArg CalSet.active ho).trans (CalSet.ramped_active ((s.owed c set).rampFor c set) ((s.rampFor c set).step + 1) o)
        dsimp only
        rw [hactive, CalSet.gainsAt_get _ _ hcol, hstart, htarget, rampAt]
    · obtain ⟨-, -, hgen, -, -⟩ := State.rampFor_owed c set hS hsort
      obtain ⟨-, hgen0⟩ := State.rampFor_ramping (s := s) c set
      rw [State.calRamp_takes c set hS hsort h hq hd, hk]
      obtain ⟨⟨o, ho⟩, hmem⟩ := State.rampTo_ends (State.owed_safe c set hS) (State.owed_sorted c set hS hsort) ((s.owed c set).rampFor c set)
      obtain ⟨hst, hstep, hgen'⟩ := CalSet.ramped_ended ((s.owed c set).rampFor c set) 256 o
      exact ⟨_, rfl, (congrArg CalSet.st ho).trans hst, (congrArg CalSet.step ho).trans hstep,
        (congrArg CalSet.gen ho).trans (hgen'.trans (congrArg (· + 1) (hgen.trans hgen0))), hmem.trans howed⟩

end Sys2Proof.Machine
end

section
/-! PROOFS. Gain updates, drift sessions and the life of a calibration window (R261, R265, R267, R269 to R271). -/
namespace Sys2Proof.Machine
open Sys2Proof

section
variable {s : State}

/-! ### Drift sessions -/

theorem State.driftSession_none {a : Nat} (refs : List Int) (h : (s.arr a).session = none) : s.driftSession a refs = s := by
  unfold State.driftSession
  rw [h] <;> rfl

section
variable {a n : Nat} {t : Int} (refs : List Int) (h : (s.arr a).session = some (n, t))
include h

theorem State.driftSession_open (hn : n < 128) : s.driftSession a refs = s := by
  unfold State.driftSession
  rw [h]
  exact if_pos hn

theorem State.driftSession_ends (hn : 128 ≤ n) : s.driftSession a refs = s.modArr a (fun x => { x with
    rho := s.sessionRho a (s.coupleGains a ((((s.core (a / 17)).logicalOf (a % 17)).map (s.calFb (a / 17))).getD 0) 64 refs)
      (theta ((t : Rat) / 128)),
    session := none, driftAt := s.time }) := by
  unfold State.driftSession
  rw [h]
  exact if_neg (Nat.not_lt.2 hn)

end

/-! ### The tests of two windows -/

section
variable (s) (c set : Nat) (os gs qs z2 : NMap Rat) (free : Nat)

/-- The offsets of two windows differ by more than a quarter of an LSB (R269, cause 1). -/
def State.offsFail (k : Nat) : Bool :=
  decide ((1 : Rat) / 4 < (s.cal c set).offs1.get 0 k - os.get 0 k) || decide ((s.cal c set).offs1.get 0 k - os.get 0 k < -(1 : Rat) / 4)

/-- The gains of two windows differ by more than 0.2 % (R269, cause 2). -/
def State.gainsFail (k : Nat) : Bool :=
  decide ((2 : Rat) / 1000 < (s.cal c set).gains1.get 1 k / gs.get 1 k - 1) ||
    decide ((s.cal c set).gains1.get 1 k / gs.get 1 k - 1 < -(2 : Rat) / 1000)

theorem State.windowCause_offs {l p : Nat} (h : s.firstPair c set (s.offsFail c set os) = some (l, p)) :
    s.windowCause c set os gs qs z2 free = some (1, l, p) := by
  unfold State.windowCause
  dsimp only
  unfold State.offsFail at h
  rw [h] <;> rfl

theorem State.windowCause_gains {l p : Nat} (h1 : s.firstPair c set (s.offsFail c set os) = none)
    (h : s.firstPair c set (s.gainsFail c set gs) = some (l, p)) : s.windowCause c set os gs qs z2 free = some (2, l, p) := by
  unfold State.windowCause
  dsimp only
  unfold State.offsFail at h1
  unfold State.gainsFail at h
  rw [h1]
  dsimp only
  rw [h] <;> rfl

/-- Saturated windows never pass (R269, cause 5). -/
theorem State.windowCause_saturated (h : ((s.cal c set).sat1 || (s.cal c set).tooSat) = true) :
    s.windowCause c set os gs qs z2 free ≠ none := by
  unfold State.windowCause
  dsimp only
  rw [h]
  split
  · exact Option.some_ne_none _
  · split
    · exact Option.some_ne_none _
    · split
      · exact Option.some_ne_none _
      · split
        · exact Option.some_ne_none _
        · exact Option.some_ne_none _

end

/-! ### A window that closes -/

section
variable {c set : Nat}

theorem State.windowClose_idle (h : s.windowFull c set = false ∨ ((s.cal c set).st ≠ .collect1 ∧ (s.cal c set).st ≠ .collect2)) :
    s.windowClose c set = s := by
  unfold State.windowClose
  extract_lets v
  rcases h with h | ⟨h1, h2⟩
  · exact if_pos (by rw [h]; rfl)
  · split
    · rfl
    · split
      split
      · next hst => exact absurd hst h1
      · next hst => exact absurd hst h2
      · rfl

/-- The first window's estimates, kept for the second (R268, R271). -/
def State.firstWindow (s : State) (c set : Nat) : CalSet :=
  { (s.cal c set).clear with
    st := .collect2, offs1 := (s.estimates c set).1, gains1 := (s.estimates c set).2, quant1 := s.quantGains c set,
    zero1 := (s.cal c set).zeroMeans, sat1 := (s.cal c set).tooSat }

section
variable (hf : s.windowFull c set = true)
include hf

theorem State.windowClose_first (h : (s.cal c set).st = .collect1) : s.windowClose c set = s.setCal c set (s.firstWindow c set) := by
  unfold State.windowClose
  dsimp only
  rw [if_neg (by rw [hf]; decide), h] <;> rfl

/-- The means of two windows, pair by pair (R270). -/
def State.windowHalf (s : State) (c set : Nat) (x y : NMap Rat) (d : Rat) : NMap Rat :=
  (s.calArrays c set).foldl (fun m (l, _) => (List.range 514).foldl (fun m p =>
    m.insert (514 * l + p) ((x.get d (514 * l + p) + y.get d (514 * l + p)) / 2)) m) []

/-- The cause for which the second window rejects a calibration, with the free value it may name (R269). -/
def State.closeCause (s : State) (c set : Nat) : Option (Nat × Nat × Nat) :=
  s.windowCause c set (s.estimates c set).1 (s.estimates c set).2 (s.quantGains c set) (s.cal c set).zeroMeans s.fresh.1

theorem State.windowClose_second (h : (s.cal c set).st = .collect2) : s.windowClose c set =
    match s.closeCause c set with
    | some (cause, l, p) => s.fresh.2.calReject c set cause l p
    | none => s.fresh.2.calAccept c set (s.windowHalf c set (s.cal c set).offs1 (s.estimates c set).1 0)
        (s.windowHalf c set (s.cal c set).gains1 (s.estimates c set).2 1)
        (theta (((s.cal c set).tempSum : Rat) / (max 1 (s.cal c set).temps : Nat))) := by
  unfold State.windowClose
  dsimp only
  rw [if_neg (by rw [hf]; decide), h] <;> rfl

theorem State.windowClose_rejects (h : (s.cal c set).st = .collect2) {n l p : Nat} (hc : s.closeCause c set = some (n, l, p)) :
    s.windowClose c set = s.fresh.2.calReject c set n l p := by
  rw [State.windowClose_second hf h, hc] <;> rfl

end

/-! ### A calibration that is accepted -/

/-- The arrays of a set no longer provisional, its correction stored and its clamped gain word reported (R259, R270). -/
def State.corrected (s : State) (c set : Nat) (w : CalSet) (bad : Option Nat) : State :=
  ((s.each (s.calArrays c set) (fun t (l, _) => t.modArr (t.larr c l) (fun x => { x with prov := false }))).setCal c set w).gainRange c set bad

/-- The end of an accepted calibration, its clamped trim values `cl` reported (R270). -/
def State.pended (s : State) (c set : Nat) (w : CalSet) (bad : Option Nat) (cl : List (Nat × Nat)) : State :=
  match cl with
  | (l, p) :: _ => ((s.corrected c set w bad).flag .corCalEvent c 4).raise (evCore 0x2503 1 c (l + 65536 * cl.length + 2 ^ 32 * p))
  | [] => s.corrected c set w bad

theorem State.calAccept_pended (offs gains : NMap Rat) (th : Rat) : ∃ (w : CalSet) (bad : Option Nat) (cl : List (Nat × Nat)),
    s.calAccept c set offs gains th = s.pended c set w bad cl ∧ w.st = .pending := by
  unfold State.calAccept
  extract_lets ls v one
  generalize List.foldl _ _ ls = x
  obtain ⟨tr, ks, cl⟩ := x
  dsimp only
  generalize s.gainTable c set ks = g
  obtain ⟨gt, bad⟩ := g
  exact ⟨{ v.fresh with st := .pending, target := gt, trimTo := tr, kTo := ks, grad := s.gradual c set }, bad, cl, rfl, rfl⟩

section
variable {lf lg : Nat} {cq : List Instr} (hS : s.Safe lf lg cq) (hsort : NMap.sorted (s.core c).calSets = true)
include hS hsort

theorem State.corrected_brings (w : CalSet) (bad : Option Nat) : s.Brought (s.corrected c set w bad) c set w := by
  have hS0 := State.each_safe s (s.calArrays c set) (fun t e => t.modArr (t.larr c e.1) (fun x => { x with prov := false })) hS
    fun t _ ht => State.modArr_safe t _ _ ht
  have hcores := State.each_keeps State.cores (f := fun t (e : Nat × Nat) => t.modArr (t.larr c e.1) (fun x => { x with prov := false }))
    (fun t _ => State.modArr_cores t ..) s (s.calArrays c set)
  have hmem := State.each_keeps State.mem (f := fun t (e : Nat × Nat) => t.modArr (t.larr c e.1) (fun x => { x with prov := false }))
    (fun t _ => State.modArr_mem t ..) s (s.calArrays c set)
  have hcore := congrArg (fun m : NMap Core => m.get {} c) hcores
  refine State.Brought.gainRange ⟨⟨w.old, State.cal_setCal hS0 c set w ?_⟩, hmem⟩ bad
  exact (congrArg (fun x : Core => NMap.sorted x.calSets) hcore).trans hsort

theorem State.pended_brings (w : CalSet) (bad : Option Nat) (cl : List (Nat × Nat)) : s.Brought (s.pended c set w bad cl) c set w := by
  have hb := State.corrected_brings (set := set) hS hsort w bad
  unfold State.pended
  split
  · exact hb.congr ((quiet_cores.raise ..).trans (quiet_cores.flag ..)) ((quiet_mem.raise ..).trans (quiet_mem.flag ..))
  · exact hb

/-- A second window that passes leaves its correction PENDING (R270, R271). -/
theorem State.windowClose_accepts (hf : s.windowFull c set = true) (h : (s.cal c set).st = .collect2) (hc : s.closeCause c set = none) :
    ((s.windowClose c set).cal c set).st = .pending ∧ (s.windowClose c set).mem = s.mem := by
  rw [State.windowClose_second hf h, hc]
  obtain ⟨w, bad, cl, hacc, hw⟩ := State.calAccept_pended (s := s.fresh.2) (c := c) (set := set)
    (s.windowHalf c set (s.cal c set).offs1 (s.estimates c set).1 0) (s.windowHalf c set (s.cal c set).gains1 (s.estimates c set).2 1)
    (theta (((s.cal c set).tempSum : Rat) / (max 1 (s.cal c set).temps : Nat)))
  dsimp only
  rw [hacc]
  obtain ⟨⟨o, ho⟩, hmem⟩ := State.pended_brings (s := s.fresh.2) (set := set) (State.fresh_safe s hS) hsort w bad cl
  exact ⟨(congrArg CalSet.st ho).trans hw, hmem⟩

/-! ### A window that stays open -/

/-- A window open for 600 s starts over (R267, R271). -/
theorem State.windowTimeout_starves (h : (s.cal c set).st = .collect1 ∨ (s.cal c set).st = .collect2) :
    ∃ t, s.windowTimeout c set = t ∧ (t.cal c set).st = .collect1 ∧ (t.cal c set).taps = [] ∧ (t.cal c set).offs1 = [] ∧ t.mem = s.mem ∧
      t.arrays = s.arrays := by
  have hb (e : Event) : s.Brought (((s.setCal c set (s.cal c set).restart).flag .corCalEvent c 8).raise e) c set (s.cal c set).restart :=
    State.Brought.congr ⟨⟨(s.cal c set).restart.old, State.cal_setCal hS c set _ hsort⟩, State.setCal_mem ..⟩
      ((quiet_cores.raise ..).trans (quiet_cores.flag ..)) ((quiet_mem.raise ..).trans (quiet_mem.flag ..))
  obtain ⟨⟨o, ho⟩, hmem⟩ := hb _
  refine ⟨_, if_neg ?_, (congrArg CalSet.st ho).trans rfl, (congrArg CalSet.taps ho).trans rfl, (congrArg CalSet.offs1 ho).trans rfl, hmem,
    (quiet_arrays.raise ..).trans (quiet_arrays.flag ..)⟩
  rcases h with h | h
  · simp [h]
  · simp [h]

end

theorem State.windowTimeout_idle (h1 : (s.cal c set).st ≠ .collect1) (h2 : (s.cal c set).st ≠ .collect2) : s.windowTimeout c set = s :=
  if_pos (by rw [Bool.and_eq_true, decide_eq_true_iff, decide_eq_true_iff]; exact ⟨h1, h2⟩)

end

end

/-- Settles O46: a closing window compares itself with the first, and every other command of the calibration clock acts on what is due. -/
theorem calibrationWindows : Obligations.CalibrationWindows := by
  unfold Obligations.CalibrationWindows
  refine fun s c set sl refs hS hsort => ⟨fun hw x hx => ?_, fun hw => ⟨next_congr (if_pos hw), fun h => ?_, fun n t h => ⟨fun hn => ?_, fun hn => ?_⟩,
    ⟨fun h => ?_, fun hf h => ?_, fun hf h => ⟨fun n l p hc => ?_, fun hc => ?_⟩, fun l p h => ?_, fun l p h1 h => ?_, fun h => ?_⟩,
    fun h => ?_, fun h1 h2 => ?_⟩⟩
  · have hidle := ne_true_of_eq_false hw
    simp only [List.mem_cons, List.not_mem_nil, or_false] at hx
    rcases hx with rfl | rfl | rfl | rfl
    · exact next_congr (if_neg hidle)
    · exact next_congr (if_neg hidle)
    · exact next_congr (if_neg hidle)
    · exact next_congr (if_neg hidle)
  · exact next_congr ((if_pos hw).trans (State.driftSession_none refs h))
  · exact next_congr ((if_pos hw).trans (State.driftSession_open refs h hn))
  · exact next_congr ((if_pos hw).trans (State.driftSession_ends refs h hn))
  · exact next_congr ((if_pos hw).trans (State.windowClose_idle h))
  · exact next_congr ((if_pos hw).trans (State.windowClose_first hf h))
  · exact next_congr ((if_pos hw).trans (State.windowClose_rejects hf h hc))
  · exact ⟨_, next_congr (if_pos hw), State.windowClose_accepts hS hsort hf h hc⟩
  · exact State.windowCause_offs s c set _ _ _ _ _ h
  · exact State.windowCause_gains s c set _ _ _ _ _ h1 h
  · exact State.windowCause_saturated s c set _ _ _ _ _ h
  · obtain ⟨t, ht, hall⟩ := State.windowTimeout_starves hS hsort h
    exact ⟨t, next_congr ((if_pos hw).trans ht), hall⟩
  · exact next_congr ((if_pos hw).trans (State.windowTimeout_idle h1 h2))

end Sys2Proof.Machine
end
